-- ==== Sys2Proof/Word.lean ====
section
/-! DEFINITION. The words of the module and the small vocabulary its commands are written in: 32-bit registers (R3),
64-bit values (R6), bytes and runs of bytes, little-endian packing, and who makes a register access. -/

set_option Elab.async false

namespace Sys2Proof

/-- A register word (R3). -/
abbrev Word := BitVec 32
/-- A 64-bit value: a register pair (R6), a counter, a measure number, a time. -/
abbrev DWord := BitVec 64
/-- A byte; multi-byte fields are little-endian. -/
abbrev Byte := BitVec 8
/-- A run of bytes: a data block, a capsule, a key, a digest, a message. -/
abbrev Bytes := List Byte

/-- The `n` little-endian bytes of a number. -/
def leBytes : Nat → Nat → Bytes
  | 0, _ => []
  | n + 1, v => BitVec.ofNat 8 v :: leBytes n (v / 256)

/-- The number that a run of little-endian bytes spells. -/
def leNat : Bytes → Nat
  | [] => 0
  | b :: bs => b.toNat + 256 * leNat bs

/-- Who makes a register access (R16, R17, R437 and the write rules of the blocks). Management register access acts
as Ronhenko (R437), so it has no constructor. -/
inductive Requester where
  | ronhenko
  | partition (p : Nat)
  | directHost
  | wallflower
  deriving DecidableEq, Repr

/-- A submission queue entry of one controller: controller identifier, queue identifier, command identifier. -/
structure CmdKey where
  ctrl : Nat
  qid : Nat
  cid : Nat
  deriving DecidableEq, Repr

/-- A run of namespace blocks. -/
structure BlockRange where
  first : Nat
  count : Nat
  deriving DecidableEq, Repr

/-- A keyed SGL data block descriptor (R46): host address, length in bytes, remote key. -/
structure KeyedSgl where
  addr : Nat
  len : Nat
  key : Nat
  deriving DecidableEq, Repr

/-- The operands that every I/O command's submission entry carries (chapter Host I/O Semantics). -/
structure IoEntry where
  key : CmdKey
  nsid : Nat
  /-- FUSE field, 0 for a normal command (R47). -/
  fuse : Nat
  /-- The key that the response invalidates, if its descriptor asks for it (Table 5.1). -/
  invalidate : Option Nat
  /-- R46: where the command's data lies in host memory: the one keyed descriptor, or the up to 16 of a last segment; none for
  a command whose data lies in its capsule, or that has no data. -/
  sgl : List KeyedSgl
  deriving DecidableEq, Repr

/-- What an admin command's submission entry carries beside its fields, where it has data: the key that the response
invalidates, and the descriptors of its host memory (R46, R114). -/
structure AdminEntry where
  key : CmdKey
  invalidate : Option Nat
  sgl : List KeyedSgl
  deriving DecidableEq, Repr

/-- The fields of an entry that names a range of blocks (R57, R58). -/
structure IoRange where
  range : BlockRange
  pract : Bool
  /-- PRCHK: bit 2 guard, bit 1 application tag, bit 0 reference tag. -/
  prchk : Nat
  lbat : Nat
  lbatm : Nat
  deriving DecidableEq, Repr

/-- Where a command's data lies (R46): in the capsule, or in host memory, as the entry's keyed descriptors say. -/
inductive HostBuffer where
  | inCapsule (data : Bytes)
  | remote
  deriving DecidableEq, Repr

/-- BTH operations of inbound request packets (Table 5.1), by what the module does with them. -/
inductive BthOp where
  | sendFirst | sendMiddle | sendLast | sendOnly
  /-- SEND with Invalidate, anything with Immediate, RDMA READ Request, Atomic: none is accepted. -/
  | notAccepted
  deriving DecidableEq, Repr

/-- Place of a packet in its RDMA WRITE message. -/
inductive MessagePart where
  | first | middle | last | only
  deriving DecidableEq, Repr

/-- NAKs received (R113, R141). -/
inductive NakKind where
  | sequence | rnr | invalidRequest | remoteAccess
  deriving DecidableEq, Repr

/-- A domain's answer in an entry handshake (R467): Delay n µs; silence for 2 µs is taken as Refuse. -/
inductive HandshakeAnswer where
  | accept
  | refuse
  | delay (n : Nat)
  | silent
  deriving DecidableEq, Repr

/-- A journal record found in the journal regions (R228, Table 8.7), with the writer of its ring. -/
structure RecoveredRecord where
  writer : Nat
  slot : Nat
  seq : Nat
  /-- The measure of its writer when it was written. -/
  meas : Nat
  stripe : Nat
  gen : Nat
  state : Nat
  dmask : Nat
  rmask : Nat
  flags : Nat
  tstripes : List Nat
  tmasks : List Nat
  deriving DecidableEq, Repr

/-- A progress record of a long operation (R108, Table 4.12); PROG follows from UNITS and NEXT_UNIT. -/
structure ProgressRecord where
  seq : Nat
  kind : Nat
  group : Nat
  flags : Nat
  nsid : Nat
  opId : Nat
  units : Nat
  next : Nat
  lbaf : Nat
  owpass : Nat
  ovrpat : Nat
  measure : Nat
  deriving DecidableEq, Repr

/-- A copy of a progress record as a witness area holds it: its place in the ring of its slot, and the block. -/
structure ProgressCopy where
  place : Nat
  block : Bytes
  deriving DecidableEq, Repr

/-- One section as a summary shows it (R290): GROUP, KIND, LAST_COMMITTED, COMPLETE. -/
structure SectionSummary where
  group : Nat
  kind : Nat
  lastCommitted : Nat
  complete : Bool
  deriving DecidableEq, Repr

/-- The peer's summaries (R290): its sections, the groups it leads, and the measure from which its grid has run. -/
structure PeerSummary where
  sections : List SectionSummary
  leads : Nat
  runSince : Nat
  deriving DecidableEq, Repr

/-- A held copy as one module sends it to the other for a restore (R291). -/
structure RestoredBlock where
  nsid : Nat
  lba : Nat
  content : Bytes
  dealloc : Bool
  tag : Nat
  writeBack : Bool
  meas : Nat
  deriving DecidableEq, Repr

/-- One record of a state copy (Table 11.5), by what it carries. -/
inductive StateRecord where
  /-- TYPE 1: a journal record (Table 8.7) of a set. -/
  | journal (set : Nat) (r : RecoveredRecord)
  /-- TYPE 2: a stripe was retired. -/
  | retired (set stripe : Nat)
  /-- TYPE 3: a namespace's extent map; an empty map removes the namespace's extents. -/
  | extents (nsid : Nat) (map : List Nat)
  /-- TYPE 4: a stripe map bit; `second` names the second map of a Promenade. -/
  | mapBit (second : Bool) (set stripe : Nat) (value : Bool)
  /-- TYPE 5: a rebuild bitmap bit. -/
  | rebuilt (set spare stripe : Nat) (value : Bool)
  /-- TYPE 6: a lost-block map entry (Table 9.2); one whose RMASK is 0 was freed (R244). -/
  | lost (set stripe strip lba nsid meas rmask cause : Nat)
  /-- TYPE 7: a namespace's reservation. -/
  | reservation (nsid rtype : Nat) (holder : Option Nat) (registrants : List (Nat × Nat)) (generation : Nat)
  /-- TYPE 8: an extent's move in a Promenade: its place in the plan and its state, 0 waiting to 5 freed (Table 9.6). -/
  | move (set nsid ext source dest phase : Nat)
  /-- TYPE 9: an RWM value in effect. -/
  | config (addr hi lo val : Nat)
  /-- TYPE 9: a group's policy. -/
  | policy (group set : Nat) (writeBack encrypted : Bool)
  /-- TYPE 9: a namespace, as the lead created it or last changed it. -/
  | nsRecord (nsid group set blocks lbaf : Nat) (writeBack encrypted formatting deleted : Bool) (attached : List Nat) (blob : Bytes)
  /-- TYPE 9: a namespace was deleted. -/
  | nsGone (nsid : Nat)
  /-- TYPE 9: the long operation of a slot, its STATE and newest durable record (log 150). -/
  | longOp (slot phase : Nat) (r : ProgressRecord)
  /-- TYPE 9: the sender is activating firmware (log 150). -/
  | activating (v : Bool)
  /-- TYPE 9: the sender's controllers: CNTLID, host NQN and host identifier (log 150). -/
  | controllers (l : List (Nat × Bytes × Nat))
  /-- TYPE 10: a set's scrub position. -/
  | scrubAt (set position : Nat)
  /-- TYPE 10: the copy-back position of a member that is being copied back. -/
  | copyAt (set member position : Nat)
  deriving DecidableEq, Repr

/-- The values that decide pairing (R301), as one module shows them. -/
structure PairValues where
  lock : Nat
  mlen : Nat
  scfOwn : Nat
  scfMin : Nat
  scfMax : Nat
  serial : Nat
  deriving DecidableEq, Repr

/-- A state copy (Table 11.4): its header, and its records with their groups. -/
structure StateCopy where
  meas : Nat
  health : DWord
  values : PairValues
  leads : Nat
  baseline : Bool
  lastBaseline : Bool
  /-- Groups whose baseline it carries. -/
  groups : List Nat
  records : List (Nat × StateRecord)
  deriving DecidableEq, Repr

/-- What a mirror copy carries: the block it copies, its host application tag, its stored bytes, and whether the block was
deallocated rather than written. -/
structure MirrorBlock where
  nsid : Nat
  lba : Nat
  tag : Nat
  content : Bytes
  dealloc : Bool
  deriving DecidableEq, Repr

/-- A token record (Table 12.2). -/
structure TokenRecord where
  /-- Midplane position of the holder; 255 for none. -/
  holder : Nat
  released : Bool
  handover : Bool
  leaseUs : Nat
  seq : Nat
  epoch : Nat
  issued : Nat
  expires : Nat
  key : Nat
  deriving DecidableEq, Repr

/-- A token record's block as one witness holds it: group, witness, the 4,096 bytes (Table 12.2, R321). -/
structure TokenRead where
  group : Nat
  witness : Nat
  block : Bytes
  deriving DecidableEq, Repr

/-- A received link frame's header as its handling needs it (Table 11.1), and whether its tag verified. -/
structure FrameHead where
  lseq : Nat
  tagOk : Bool
  poison : Bool
  win : Nat
  group : Nat
  key : Nat
  meas : Nat
  offset : Nat
  length : Nat
  deriving DecidableEq, Repr

/-- What a Fabrics Connect capsule and its data carry (Table 5.2). -/
structure ConnectCapsule where
  recfmt : Nat
  qid : Nat
  sqsize : Nat
  /-- Keep-alive timeout, ms. -/
  kato : Nat
  cntlid : Nat
  hostNqn : Bytes
  hostId : Nat
  deriving DecidableEq, Repr

/-- What the connection manager's request carries (R115, R116). -/
structure ConnectRequest where
  recfmt : Nat
  qid : Nat
  hsqsize : Nat
  hrqsize : Nat
  /-- Path MTU code 1–5 of the request (Table 5.4). -/
  pmtu : Nat
  /-- Responder resources the host offers. -/
  responder : Nat
  rqpn : Nat
  /-- First PSN the host will send, and the first the module sends. -/
  hostPsn : Nat
  ownPsn : Nat
  port : Nat
  lane : Nat
  tcpPort : Nat
  /-- The exchange's addresses, IPv4 mapped into IPv6, and the next hop's address. -/
  ipv6 : Bool
  remoteIp : Nat
  localIp : Nat
  remoteMac : Nat
  /-- What the module gives the queue pair: its UDP source port, DSCP, PFC class and tenant group (0 to 62). -/
  udpSport : Nat
  dscp : Nat
  tclass : Nat
  tgrp : Nat
  deriving DecidableEq, Repr

/-- What opens the entry (Table 15.5): a seat break names the seating inputs that went high. -/
inductive OpeningEvent where
  | seat (aHigh bHigh : Bool)
  | enable | peerCycle | selfCycle | overvoltage | reverse | undervoltage
  deriving DecidableEq, Repr

/-- What clears a latch (Table 15.2): a low pulse of 1 ms on EFU_EN or CYCLE_IN_N, or a seat break. -/
inductive LatchClear where
  | enable
  | cycle
  | seat (aHigh bHigh : Bool)
  deriving DecidableEq, Repr

/-- What a peer's message on Emzifen channel 3 says of a slot (R348, R355, R590). -/
inductive PeerSlotNews where
  /-- A slot event that fails the member: its REASON. -/
  | failed (reason : Nat)
  | entersOff
  | leavesOff
  /-- The slot is Ready there; whether a Reservation Report shows this module's key (R326). -/
  | ready (keyPresent : Bool)
  deriving DecidableEq, Repr

/-- What a drive shows in Checking, in the order in which R349 checks it (R201, R320), with its block count. -/
structure DriveReport where
  /-- CSTS.RDY has set within CAP.TO. -/
  ready : Bool
  /-- CMIC shows two ports. -/
  dualPort : Bool
  /-- Exactly one namespace, NSID 1, covering the capacity. -/
  oneNamespace : Bool
  /-- The format of NSID 1: data and metadata bytes, protection type, guard bits, storage tag bits. -/
  dataBytes : Nat
  metaBytes : Nat
  protection : Nat
  guardBits : Nat
  storageTag : Nat
  /-- DLFEAT: deallocated blocks read as zero bytes; ONCS: Dataset Management deallocate. -/
  readsZero : Bool
  deallocates : Bool
  /-- Reservations of type Write Exclusive – All Registrants, with Preempt and Abort; Persist Through Power Loss (R326). -/
  reserves : Bool
  persists : Bool
  /-- A fused Compare and Write of one block. -/
  fused : Bool
  blocks : Nat
  deriving DecidableEq, Repr

/-- What a sideband read returns (R361): status flags, SMART warnings, composite temperature. -/
structure MiReading where
  flags : Nat
  warn : Nat
  temp : Nat
  deriving DecidableEq, Repr

/-- How a drive's link came up (R344): speed code, lanes, FLIT mode, and whether the drive offers FLIT mode. -/
structure SlotLink where
  speed : Nat
  width : Nat
  flit : Bool
  offered : Bool
  deriving DecidableEq, Repr

/-- A requester's transport and address there (R430): 0 PCIe VDM, 1 SMBus, 2 I3C, 3 UDP on the management port, 4 UDP on
a front port, 5 the mailbox. -/
structure McpAddress where
  transport : Nat
  address : Nat
  deriving DecidableEq, Repr

/-- An object instance of the protection set-up (Table 18.1): its content, from offset 4 of its body (empty when removed,
R448), and its revision (R447). -/
structure GuardedObject where
  object : Nat
  inst : Nat
  content : Bytes
  revision : Nat
  deriving DecidableEq, Repr

/-- A pair-scoped commit of the log (R457). -/
structure LoggedCommit where
  number : Nat
  object : Nat
  body : Bytes
  base : Nat
  digest : Bytes
  deriving DecidableEq, Repr

/-- The cbo operations of a core (R511, R515). -/
inductive CboOp where
  | clean | flush | inval
  deriving DecidableEq, Repr

/-- What a core's access does: a fetch, a load or a store, or a read of a counter of its own (R575), whose number stands in the
place of the address: 0 cycle, 1 time, 2 instret, 3 to 10 hpmcounter3 to hpmcounter10. -/
inductive AccessKind where
  | fetch | load | store | counter
  deriving DecidableEq, Repr

/-- A core's access to physical memory: within one 64-byte line; the bytes of a store. -/
structure CoreAccess where
  kind : AccessKind
  addr : Nat
  len : Nat
  data : Bytes
  deriving DecidableEq, Repr

/-- What a frame is to the egress arbiter (R183): a CNP, a PTP message that the port originates, or any other. -/
inductive FrameKind where
  | other | cnp | ptp
  deriving DecidableEq, Repr

/-- A frame at its first cell, as its writer offers it to the switch (R154–R165): the attachment that writes it, its length,
and what a forwarding entry matches on (Table 6.5); an engine names its destinations (attachment and queue), class, flow and
the epoch of the frame it was made from. -/
structure FrameOffer where
  src : Nat
  lane : Nat
  /-- Its bytes, from destination address through FCS for an Ethernet frame. -/
  content : Bytes
  /-- Time from its first cell to its last, ns. -/
  tail : Nat
  etype : Nat
  udp : Nat
  dscp : Nat
  /-- A RoCE v2 packet marked ECT(0) or ECT(1) (R161). -/
  ect : Bool
  kind : FrameKind
  /-- What an engine names: attachments and queues. -/
  dests : List (Nat × Nat)
  /-- Cells of a host write, which the cipher engine hands over: namespace, and the slot of the member that holds the strip
  (R163). -/
  hostWrite : Option (Nat × Nat)
  cls : Nat
  flow : Nat
  ordered : Bool
  epoch : Nat
  /-- The PSN of an RDMA WRITE packet of a flow engine (R178). -/
  psn : Option Nat
  /-- The held copy that a mirror frame toward the link carries (R310). -/
  copy : Option Nat
  deriving DecidableEq, Repr

/-- R154: a frame's length. -/
def FrameOffer.bytes (f : FrameOffer) : Nat := f.content.length

/-- Why a cell of a frame is bad at its destination (R175). -/
inductive BadTail where
  /-- Written with POISON, because its source found an error. -/
  | poisoned
  | parity
  | underrun
  deriving DecidableEq, Repr

/-- What a bad line or word holds (Tables 23.1 to 23.3). -/
inductive BadItem where
  /-- Region 0: a held copy. -/
  | heldCopy (id : Nat)
  /-- Region 1: a mirror copy, by its group, block and measure. -/
  | mirrorCopy (group nsid lba meas : Nat)
  /-- Region 2: the directory entry of a pool slot. -/
  | directory (slot : Nat)
  /-- Region 3: the journal entry of a slot. -/
  | journal (slot : Nat)
  /-- Region 3: stripe maps, rebuild bitmaps and scrub positions of a set. -/
  | stripeMap (set : Nat)
  | rebuildBits (set : Nat)
  | scrubAt (set : Nat)
  | lostMap
  | extentMap
  | reservations
  | promenade
  /-- Region 3: the fault-record ring. -/
  | faultRing
  /-- Region 4: Ronhenko's code, and whether the running firmware slot still holds it. -/
  | code (imageGood : Bool)
  | writableData
  /-- Region 6: an engine buffer. -/
  | engineBuffer
  | partitionMemory (p : Nat)
  /-- Region 15: the backing of a context. -/
  | contextBacking (idx : Nat)
  /-- Region 16: a cell of a frame, a free cell, or a cell of a stripe's accumulator. -/
  | frameCell (frame : Nat)
  | freeCell
  | accumulatorCell (set stripe : Nat)
  /-- Region 17: a link word or the descriptor of a frame. -/
  | frameChain (frame : Nat)
  /-- Region 18: a cached context. -/
  | cachedContext (idx : Nat)
  /-- Region 19. -/
  | forwardingEntry (idx : Nat)
  | sequenceCounter (flow dest : Nat)
  | expectedNumber (flow dest : Nat)
  /-- Region 20: figure memory and QDL_ tables. -/
  | figures
  /-- Region 21: the command state of a queue pair's flow engine. -/
  | commandState (qp : Nat)
  /-- Region 22: a key slot. -/
  | keySlot (slot : Nat)
  /-- Region 23: the Wallflower's SRAM. -/
  | wallflowerSram
  /-- Regions 24–31: a cache of a cluster (its number of R512), the array (0 data, 1 tag, 2 state), and where. -/
  | cache (cluster cache array set way : Nat)
  /-- Region 32: prefetched descriptors of a queue, or its HEAD, TAIL or CCNT. -/
  | prefetched (queue : Nat)
  | ringState (queue : Nat)
  deriving DecidableEq, Repr

/-- Who reads a bad line (R542). -/
inductive BadReader where
  /-- A switch, an engine or a port: the frame that it writes from the data. -/
  | block (frame : Option Nat)
  /-- The descriptor under way on an engine queue. -/
  | engineQueue (queue : Nat)
  | core (core : Nat)
  | sweep
  deriving DecidableEq, Repr

/-- How a recovery's present source ended (R543, R544). -/
inductive RecoveryEnd where
  | restored
  | failed
  /-- The line was wholly written again before any source was read. -/
  | rewritten
  deriving DecidableEq, Repr

end Sys2Proof
end

