-- ==== Sys2Proof/Syntax.lean ====
section
/-! DEFINITION. The commands of the module: one constructor per row of the opcode table, in the table's order, but that the
register accesses stand together at the front. An operand
is what the world outside the model brings with the event: an address, a value, a slot, a message's fields. -/

set_option Elab.async false

namespace Sys2Proof

/-- A command: a register access, a protocol message, an event on a pin or the expiry of a timer. -/
inductive Instr where
  /-- PLAIN_REGISTER_WRITE (R7). A write to a register field that has no row of its own takes effect according to its access code. -/
  | plainRegisterWrite (who : Requester) (addr width : Nat) (value : Word)
  /-- RC_REGISTER_READ (R9). A read of an RC field returns its value and clears it; an event in the same cycle is counted after the clear. -/
  | rcRegisterRead (who : Requester) (addr width : Nat)
  /-- LOW_WORD_READ (R6). A read of the low word of a 64-bit pair latches the high word for the same requester's next read. -/
  | lowWordRead (who : Requester) (addr : Nat)
  /-- UNASSIGNED_BLOCK_ACCESS (R15). An access to an unassigned block completes with an error response, a read returns all ones, and a fault record is logged. -/
  | unassignedBlockAccess (who : Requester) (addr : Nat) (write : Bool)
  /-- DIRECT_HOST_REGISTER_ACCESS (R17). A direct-host access through PF1 BAR2 is allowed or denied by the direct-host access entry, and a denied access completes successfully with all ones and a fault record. -/
  | directHostRegisterAccess (offset : Nat) (write : Bool) (value : Word)
  /-- OFF_DOMAIN_ACCESS (R471). An access to a domain that is Gated, Off or changing state completes within 2 µs with an error response and is recorded in PWR_OFFACC. -/
  | offDomainAccess (who : Requester) (addr : Nat) (write : Bool)
  /-- REGISTER_READ (R437). Register Read reads registers as Ronhenko, word by word. -/
  | registerRead (slot tag : Nat)
  /-- REGISTER_WRITE (R437). Register Write writes registers as Ronhenko, stopping at the first failing word. -/
  | registerWrite (slot tag : Nat)
  /-- CORE_ACCESS (R512). A core load or store looks up its caches, passes the partition guard, and on a miss takes the miss slot and chooses a victim. -/
  | coreAccess (core : Nat) (access : CoreAccess)
  /-- RWT_FIELD_WRITE (R594). A write to an RWT field makes a proposal with proposer principal 0. -/
  | rwtFieldWrite (who : Requester) (addr : Nat) (value : Word)
  /-- COLD_RESET (R12). Power applied from Off returns every register except the entry-held ones to its reset value. -/
  | coldReset
  /-- MODULE_RESET_TAKEN (R12). A module reset returns all registers outside the always-on and bias domains to their reset values. -/
  | moduleResetTaken
  /-- MEMORY_FILL_COMPLETE (R540). Hardware finishes writing every DRAM line and SRAM word with valid parity, sets MIN_STAT.FILLED and releases the cores. -/
  | memoryFillComplete
  /-- PLL_LOCK (R27). The root PLL locks after the root oscillator is stable, and the derived clock domains start. -/
  | pllLock
  /-- ROOT_CLOCK_FAULT (R29). Loss of PLL lock, or 2 µs without a root edge, is latched as a fault and holds the module in module reset. -/
  | rootClockFault
  /-- MEASURE_BOUNDARY (R41). At the boundary instant the module applies the ordered boundary actions of Table 2.6 within the boundary window. -/
  | measureBoundary
  /-- BOUNDARY_WINDOW_END (R42). The 250 ns boundary window ends, and held ingress decisions, gate evaluations and register accesses proceed with the new measure's state. -/
  | boundaryWindowEnd
  /-- MEAS_STEP_REQUEST (R33). A write to MEAS_STEP_HI requests a forward step of the time counter, accepted or rejected by RUN and the lock state. -/
  | measStepRequest (who : Requester) (value : Word)
  /-- TIME_STEP_APPLY (R33). An accepted forward step is added to the time counter, at once when RUN is 0 or at the next boundary otherwise. -/
  | timeStepApply
  /-- MEAS_OFFS_WRITE (R35). A servo write of the master offset drives the lock state machine by its in- or out-of-tolerance judgement. -/
  | measOffsWrite (offset : Word)
  /-- MEAS_SRC_WRITE (R35). A write of MEAS_CTL.SRC selects the PTP port or free run and moves the lock state. -/
  | measSrcWrite (src : Nat)
  /-- OFFSET_WRITE_TIMEOUT (R35). Two seconds in Locked without a MEAS_OFFS write start the holdover timer and enter Holdover. -/
  | offsetWriteTimeout
  /-- HOLDOVER_EXPIRY (R35). The holdover timer reaches MEAS_HOLD.HOLD, and the lock state becomes Unlocked with a fault record. -/
  | holdoverExpiry
  /-- MEAS_RUN_SET (R44). Setting MEAS_CTL.RUN starts the measure grid and allows host writes to be served. -/
  | measRunSet
  /-- FLUSH (R75). A Flush completes once every write released before its decode has committed. -/
  | flush (e : IoEntry)
  /-- WRITE (R72). A Write takes an exclusive range lock, reserves dirty room, fetches its data and is released under the boundary release rule. -/
  | write (e : IoEntry) (r : IoRange) (buffer : HostBuffer)
  /-- READ (R24). A Read takes a shared range lock and returns held DRAM copies or member blocks for each block. -/
  | read (e : IoEntry) (r : IoRange)
  /-- COMPARE (R47). A Compare reads the range under a shared lock and completes with Compare Failure on a mismatch. -/
  | compare (e : IoEntry) (r : IoRange) (buffer : HostBuffer)
  /-- WRITE_ZEROES (R222). Write Zeroes deallocates its blocks under an exclusive lock, whatever the Deallocate bit says. -/
  | writeZeroes (e : IoEntry) (r : IoRange)
  /-- DATASET_MANAGEMENT (R222). Dataset Management deallocates its ranges when Deallocate is set, and otherwise accepts and ignores its hints. -/
  | datasetManagement (e : IoEntry) (ranges : List BlockRange) (deallocate : Bool)
  /-- VERIFY (R47). Verify checks the internal and host protection information of a range without returning data. -/
  | verify (e : IoEntry) (r : IoRange)
  /-- RESERVATION_REGISTER (R52). Reservation Register changes the namespace's reservation state in the measure to which it belongs, on both modules. -/
  | reservationRegister (e : IoEntry) (action : Nat) (crkey nrkey : DWord)
  /-- RESERVATION_REPORT (R47). Reservation Report returns the extended reservation data structure under a shared namespace lock. -/
  | reservationReport (e : IoEntry) (extended : Bool)
  /-- RESERVATION_ACQUIRE (R52). Reservation Acquire takes, preempts or preempts and aborts a host reservation. -/
  | reservationAcquire (e : IoEntry) (action rtype : Nat) (crkey prkey : DWord)
  /-- RESERVATION_RELEASE (R52). Reservation Release releases or clears a host reservation. -/
  | reservationRelease (e : IoEntry) (action rtype : Nat) (crkey : DWord)
  /-- COPY (R67). Copy takes shared locks on its sources and an exclusive lock on its destination in one step and copies within one namespace. -/
  | copy (e : IoEntry) (sources : List BlockRange) (dest : Nat)
  /-- UNKNOWN_IO_OPCODE (R47). An unlisted I/O opcode completes with Invalid Command Opcode, and a nonzero FUSE with Invalid Field in Command. -/
  | unknownIoOpcode (e : IoEntry)
  /-- COMMAND_SLOT_GRANT (R50). A command waiting for one of the 262,144 command slots is admitted when a slot frees. -/
  | commandSlotGrant (key : CmdKey)
  /-- RANGE_LOCK_GRANT (R66). A waiting command is granted its range locks when no earlier conflicting command on its queue holds or awaits a lock. -/
  | rangeLockGrant (key : CmdKey)
  /-- DIRTY_ROOM_GRANT (R273). A write waiting for dirty room reserves it, in decode order, once the counts allow it. -/
  | dirtyRoomGrant (key : CmdKey)
  /-- MIRROR_COPY_ACCEPT (R22). The Emzifen link accepts a mirror copy and stamps it with the current measure. -/
  | mirrorCopyAccept
  /-- STRIP_POST (R218). A written block whose cells are all in the shared buffer is posted to its member once its stripe allows it. -/
  | stripPost (set stripe : Nat)
  /-- MEMBER_WRITE_COMPLETE (R23). A member reports a write, and held copies whose stripe is fully reported and durable are freed. -/
  | memberWriteComplete (op : Nat)
  /-- MEMBER_READ_COMPLETE (R213). A member returns a block, which is checked for guard, reference tag and generation, and reconstructed if bad. -/
  | memberReadComplete (op : Nat) (content : Bytes) (guardOk refOk : Bool) (appTag : Nat)
  /-- READ_DURABLE_RESUME (R70). A read waiting for a held copy to become durable resumes and returns that copy. -/
  | readDurableResume (key : CmdKey)
  /-- CONTROLLER_RESET (R78). A controller reset gives each of the controller's commands its fate of Table 3.5 and brings CSTS.RDY to 0 within 20 ms. -/
  | controllerReset (ctrl : Nat) (ends : Bool)
  /-- KEEP_ALIVE_EXPIRY (R77). The keep-alive timer expires, resetting the controller and ending the association. -/
  | keepAliveExpiry (ctrl : Nat)
  /-- SHUTDOWN_COMPLETE (R81). Once every completion has been sent after a shutdown notification, CSTS.SHST is set to 0b10. -/
  | shutdownComplete (ctrl : Nat)
  /-- FIRMWARE_ACTIVATION (R82). Activation hands every lead to a healthy peer, reloads and rejoins, or without a peer makes an outage under R83. -/
  | firmwareActivation
  /-- FIRMWARE_TRIAL_END (R102). A newly activated image ends its trial at first rejoin or first I/O, and the minimum security version rises. -/
  | firmwareTrialEnd
  /-- FIRMWARE_TRIAL_TIMEOUT (R102). After 120 s without the trial ending, the previously active slot is marked to run at the next reset. -/
  | firmwareTrialTimeout
  /-- GET_LOG_PAGE (R95). Get Log Page returns one of the log pages of Table 4.4. -/
  | getLogPage (e : AdminEntry) (nsid lid offset length : Nat)
  /-- IDENTIFY (R93). Identify returns the data structure for one of the supported CNS values. -/
  | identify (e : AdminEntry) (cns nsid cntid : Nat)
  /-- ABORT (R89). Abort never aborts and completes at once with Dword 0 bit 0 set. -/
  | abort (key : CmdKey)
  /-- SET_FEATURES (R98). Set Features changes a supported feature or completes with the feature's refusal status. -/
  | setFeatures (e : AdminEntry) (fid : Nat) (save : Bool) (nsid value : Nat)
  /-- GET_FEATURES (R98). Get Features returns the value of a supported feature. -/
  | getFeatures (e : AdminEntry) (fid sel nsid : Nat)
  /-- ASYNCHRONOUS_EVENT_REQUEST (R89). An Asynchronous Event Request is held outstanding, up to 16 per controller. -/
  | asynchronousEventRequest (key : CmdKey)
  /-- NAMESPACE_MANAGEMENT_CREATE (R91). Namespace Management create allocates a wholly deallocated namespace from its group's set under the group policy. -/
  | namespaceManagementCreate (e : AdminEntry) (nsze ncap lbaf anagrpid : Nat)
  /-- NAMESPACE_MANAGEMENT_DELETE (R91). Namespace Management delete detaches the namespace everywhere and frees its capacity once its commands complete. -/
  | namespaceManagementDelete (key : CmdKey) (nsid : Nat)
  /-- ADMIN_COMMAND_FORWARD (R90). A namespace admin command is passed over Emzifen channel 0 to the group's lead, whose status is posted. -/
  | adminCommandForward (key : CmdKey) (status dword0 : Nat)
  /-- FIRMWARE_IMAGE_DOWNLOAD (R99). Firmware Image Download places a piece into the module's staging buffer. -/
  | firmwareImageDownload (e : AdminEntry) (offset : Nat) (data : Bytes)
  /-- FIRMWARE_COMMIT_STORE (R100). Firmware Commit action 0 checks the staged image and stores it in a slot without activation. -/
  | firmwareCommitStore (key : CmdKey) (slot action : Nat)
  /-- FIRMWARE_COMMIT_STORE_NEXT (R100). Firmware Commit action 1 checks and stores the image and marks it to run at the next module reset. -/
  | firmwareCommitStoreNext (key : CmdKey) (slot : Nat)
  /-- FIRMWARE_COMMIT_MARK (R100). Firmware Commit action 2 marks a slot's stored image to run at the next module reset. -/
  | firmwareCommitMark (key : CmdKey) (slot : Nat)
  /-- FIRMWARE_COMMIT_ACTIVATE (R101). Firmware Commit action 3 checks and stores the image, completes, and activates it at once. -/
  | firmwareCommitActivate (key : CmdKey) (slot : Nat)
  /-- NAMESPACE_ATTACH (R92). Namespace Attachment attaches a namespace to controllers whose host the namespace mask admits. -/
  | namespaceAttach (e : AdminEntry) (nsid : Nat) (controllers : List Nat)
  /-- NAMESPACE_DETACH (R92). Namespace Attachment detaches a namespace from controllers. -/
  | namespaceDetach (e : AdminEntry) (nsid : Nat) (controllers : List Nat)
  /-- KEEP_ALIVE (R77). Keep Alive restarts the controller's keep-alive timer. -/
  | keepAlive (key : CmdKey)
  /-- CONNECT (R117). Fabrics Connect is checked in order and creates a controller or binds an I/O queue. -/
  | connect (qp cid : Nat) (c : ConnectCapsule)
  /-- PROPERTY_GET (R120). Property Get returns CAP, VS, CC or CSTS. -/
  | propertyGet (key : CmdKey) (offset size : Nat)
  /-- PROPERTY_SET (R120). Property Set writes CC, where clearing EN resets the controller. -/
  | propertySet (key : CmdKey) (offset size value : Nat)
  /-- AUTHENTICATION_SEND (R119). Authentication Send carries a DH-HMAC-CHAP message to the module. -/
  | authenticationSend (e : AdminEntry) (message : Bytes)
  /-- AUTHENTICATION_RECEIVE (R119). Authentication Receive returns the module's DH-HMAC-CHAP message. -/
  | authenticationReceive (e : AdminEntry) (length : Nat)
  /-- FORMAT_NVM (R103). Format NVM blocks new I/O to the namespace, retires its key if asked and starts the unit walk. -/
  | formatNvm (key : CmdKey) (nsid lbaf ses pi : Nat)
  /-- SANITIZE_EXIT_FAILURE_MODE (R104). Sanitize Exit Failure Mode leaves the Failed sanitize state where the failed sanitize had AUSE set. -/
  | sanitizeExitFailureMode (key : CmdKey)
  /-- SANITIZE_BLOCK_ERASE (R104). Sanitize Block Erase takes every lead, discards DRAM copies, retires keys and walks every member block with Write Zeroes. -/
  | sanitizeBlockErase (key : CmdKey) (ause : Bool)
  /-- SANITIZE_OVERWRITE (R104). Sanitize Overwrite writes OVRPAT OWPASS times to every member block and then deallocates it. -/
  | sanitizeOverwrite (key : CmdKey) (ause oipbp : Bool) (owpass ovrpat : Nat)
  /-- SANITIZE_CRYPTO_ERASE (R104). Sanitize Crypto Erase retires every namespace key, erases the vault destage area and deallocates or zeroes every member block. -/
  | sanitizeCryptoErase (key : CmdKey) (ause : Bool)
  /-- WALK_UNIT_COMPLETE (R108). A walk unit completes on all its members and the lead writes a progress record with NEXT_UNIT advanced. -/
  | walkUnitComplete (slot unit : Nat) (failed : Bool)
  /-- PROGRESS_RECORD_DURABLE (R108). A progress record becomes durable on the vault and a witness majority, letting the walk advance or end. -/
  | progressRecordDurable (slot seq : Nat)
  /-- WALK_RESUME (R109). The new lead reads the progress records and resumes the walk at the newest verified NEXT_UNIT. -/
  | walkResume (slot : Nat) (found : List ProgressCopy)
  /-- CONNECTION_REQUEST (R115). An RDMA connection manager request is accepted or rejected and a queue pair context is created. -/
  | connectionRequest (c : ConnectRequest)
  /-- READY_TO_USE (R115). A ready-to-use message moves a Connecting queue pair to Ready and posts its receive slots. -/
  | readyToUse (idx : Nat)
  /-- CONNECTING_TIMEOUT (R115). A queue pair left Connecting for 10 ms without ready-to-use is freed. -/
  | connectingTimeout (idx : Nat)
  /-- DISCONNECT_REQUEST (R117). A disconnect request sent or received moves a Ready queue pair to Draining. -/
  | disconnectRequest (idx : Nat)
  /-- QUEUE_PAIR_DRAINED (R118). When the last command of a Draining queue pair has met its fate and its cells are released, the context is freed. -/
  | queuePairDrained (idx : Nat)
  /-- INBOUND_REQUEST (R129). An inbound request packet is classified by PSN as expected, ahead or duplicate and placed, NAKed or acknowledged. -/
  | inboundRequest (qpn psn : Nat) (op : BthOp) (ce bad : Bool) (payload : Bytes)
  /-- INBOUND_RDMA_WRITE (R135). An inbound RDMA WRITE on a service queue pair is checked against its window and placed at its address. -/
  | inboundRdmaWrite (qpn psn : Nat) (part : MessagePart) (rkey addr len : Nat) (ce bad : Bool) (payload : Bytes)
  /-- RDMA_READ_RESPONSE (R138). An RDMA READ response packet is placed at its offset, marked in its tracker and copied at ingress. -/
  | rdmaReadResponse (qpn psn : Nat) (ce bad : Bool) (payload : Bytes)
  /-- READ_REQUEST_COMPLETE (R139). An RDMA READ request completes when its map is full, and completions advance in send-ring order. -/
  | readRequestComplete (tracker : Nat)
  /-- READ_TRACKER_GRANT (R137). A READ request waiting for a tracker or for RD_OUT below ORD is sent. -/
  | readTrackerGrant (idx : Nat)
  /-- ACK_RECEIVED (R140). A valid ACK acknowledges every packet up to its PSN and restores the retry counts. -/
  | ackReceived (qpn psn : Nat)
  /-- NAK_RECEIVED (R141). A valid NAK causes go-back-N retransmission, an RNR wait, or Error. -/
  | nakReceived (qpn psn : Nat) (kind : NakKind)
  /-- ACK_TIMEOUT (R141). The ACK timeout expires and the module retransmits from UNA_PSN or the first missing READ PSN. -/
  | ackTimeout (idx : Nat)
  /-- RNR_TIMER_EXPIRY (R141). After an RNR NAK the RNR timer expires and the module resends from UNA_PSN. -/
  | rnrTimerExpiry (idx : Nat)
  /-- CNP_RECEIVED (R148). A received CNP cuts the queue pair's rate unless within CUT_HOLD. -/
  | cnpReceived (qpn : Nat)
  /-- RATE_STEP_TIMER (R148). The step timer expires and the rate controller raises RATE toward TARGET. -/
  | rateStepTimer (idx : Nat)
  /-- CONTEXT_FILL_COMPLETE (R124). A context fill from DRAM returns, the parked packets are processed and a stalled pipeline resumes. -/
  | contextFillComplete (transmit : Bool) (pipe : Nat)
  /-- EVICTION_WRITEBACK_COMPLETE (R127). A dirty victim's write-back ends and it leaves the eviction buffer. -/
  | evictionWritebackComplete (transmit : Bool) (pipe idx : Nat)
  /-- QPC_DOORBELL (R142). A QPC_DB write posts work requests on a service queue pair owned by the writer. -/
  | qpcDoorbell (who : Requester) (idx tail : Nat)
  /-- WORK_REQUEST_COMPLETE (R146). A work request completes, advancing CCNT and writing a completion record if SIGNAL is set. -/
  | workRequestComplete (idx : Nat)
  /-- QPC_CREATE (R149). QPC_CMD Create builds a context from an image, owned by the writer's partition. -/
  | qpcCreate (who : Requester)
  /-- QPC_READ (R150). QPC_CMD Read copies a one-cycle snapshot of the context to the image address. -/
  | qpcRead (who : Requester)
  /-- QPC_DESTROY (R149). QPC_CMD Destroy moves the queue pair to Draining. -/
  | qpcDestroy (who : Requester)
  /-- QPC_FLUSH (R149). QPC_CMD Flush moves the queue pair to Error. -/
  | qpcFlush (who : Requester)
  /-- QPC_PIN (R127). QPC_CMD Pin sets PIN on a context, refused beyond four pinned per set. -/
  | qpcPin (who : Requester)
  /-- QPC_UNPIN (R127). QPC_CMD Unpin clears PIN on a context. -/
  | qpcUnpin (who : Requester)
  /-- FRAME_ADMISSION (R156). At a frame's first cell the switch decides its destinations and admits all copies or none under the pool rules. -/
  | frameAdmission (f : FrameOffer)
  /-- FRAME_READ_COMPLETE (R155). A destination reads a frame's last cell, and its cells and descriptor are released. -/
  | frameReadComplete (frame : Nat) (bad : Option BadTail) (wait : Nat)
  /-- RESEQUENCER_ARRIVAL (R168). An ORDERED frame reaches its egress resequencer and is released, held or discarded. -/
  | resequencerArrival (frame : Nat)
  /-- RESEQUENCER_TIMEOUT (R170). A flow's expected number does not arrive within TMO, and E advances to the lowest held number. -/
  | resequencerTimeout (dest flow : Nat)
  /-- TRACKER_FREE (R171). A resequencer tracker frees and a frame waiting in the overflow list is classified again. -/
  | trackerFree (dest : Nat)
  /-- PFC_PAUSE_RECEIVED (R186). A received PFC XOFF or XON holds or releases a class on its lane. -/
  | pfcPauseReceived (port lane cls quanta : Nat)
  /-- PAUSE_EXPIRY (R186). The pause time carried by a received XOFF runs out and the class is released. -/
  | pauseExpiry (port lane cls : Nat)
  /-- PFC_WATCHDOG_EXPIRY (R162). A class held by pause continuously for TIME enters watchdog discard. -/
  | pfcWatchdogExpiry (port lane cls : Nat)
  /-- PFC_WATCHDOG_END (R162). No pause for the class for TIME ends watchdog discard. -/
  | pfcWatchdogEnd (port lane cls : Nat)
  /-- EPOCH_ARM (R174). A write to SWC_EPOCH_TGT_HI arms a forwarding epoch advance for a target measure. -/
  | epochArm (who : Requester) (value : Word)
  /-- FT_WRITE_SHADOW (R174). SWC_FT_CMD writes DATA to a shadow forwarding entry, or is ignored while draining. -/
  | ftWriteShadow (who : Requester) (idx : Nat)
  /-- FT_READ_ACTIVE (R174). SWC_FT_CMD reads an active forwarding entry into DATA. -/
  | ftReadActive (who : Requester) (idx : Nat)
  /-- FT_READ_SHADOW (R174). SWC_FT_CMD reads a shadow forwarding entry into DATA. -/
  | ftReadShadow (who : Requester) (idx : Nat)
  /-- EPOCH_DRAINED (R174). The last frame of the old epoch leaves, active is copied to shadow and DRAINED sets. -/
  | epochDrained
  /-- LANE_FRAME_START (R182). The egress arbiter of a lane picks and starts a frame of the highest eligible class. -/
  | laneFrameStart (port lane : Nat)
  /-- GATE_ENTRY_CHANGE (R188). The cycle position enters the next gate list entry and the gate states change. -/
  | gateEntryChange (port : Nat)
  /-- GATE_SWITCHOVER_ARM (R193). A write to NETp_GTGT_HI arms a gate list switchover for a target measure. -/
  | gateSwitchoverArm (who : Requester) (port : Nat) (value : Word)
  /-- WHEEL_SLOT_CHANGE (R197). The calendar wheel moves to its next slot and grants it to the slot's group. -/
  | wheelSlotChange (port : Nat)
  /-- FIG_WRITE_NEXT (R205). QDL_FIG_CMD writes a next-generation figure row after checking it. -/
  | figWriteNext (who : Requester) (set row : Nat)
  /-- FIG_READ_ACTIVE (R205). QDL_FIG_CMD reads an active figure row into DATA. -/
  | figReadActive (who : Requester) (set row : Nat)
  /-- FIG_READ_NEXT (R205). QDL_FIG_CMD reads a next-generation figure row into DATA. -/
  | figReadNext (who : Requester) (set row : Nat)
  /-- STRIPE_CLOSE (R221). An open stripe closes, each changed row finishing by no read, reconstruct or read-modify-write, and its parity is written. -/
  | stripeClose (set stripe : Nat)
  /-- STRIPE_IDLE_TIMEOUT (R220). An open stripe without a write for IDLE measures is handed to the Caller's destage work. -/
  | stripeIdleTimeout (set stripe : Nat)
  /-- JOURNAL_BLOCK_WRITE (R227). The module writes its journal records to its ring in the journal regions, carrying live records forward. -/
  | journalBlockWrite (set : Nat)
  /-- JOURNAL_RECOVERY (R228). At set assembly the journal is restored and every live entry is finished, from the journal regions as a last resort. -/
  | journalRecovery (set : Nat) (blocks : List Bytes) (lost : List (Nat × Bytes))
  /-- SET_ASSEMBLY (R326). At set assembly each module registers its key on every member and acquires the reservation if none is held. -/
  | setAssembly (set : Nat)
  /-- MEMBER_FAILED (R233). QDL_MEMu.FAILED sets and Ronhenko writes a substitution to the lowest free spare column. -/
  | memberFailed (set member : Nat)
  /-- REBUILD_STEP (R241). A rebuild step closes and locks a stripe, reads every present strip and solves and writes the missing blocks. -/
  | rebuildStep (set : Nat)
  /-- REBUILD_STEP_COMPLETE (R241). Every write of a rebuild step has reported, and the stripe's bits are set and it is unlocked. -/
  | rebuildStepComplete (set stripe : Nat)
  /-- LOST_MAP_WRITE (R245). The writing module writes lost-block entries to the lost-map region of the witness areas. -/
  | lostMapWrite (block : Nat) (found : List Bytes)
  /-- LOST_MAP_DURABLE (R245). A channel-2 message tells the maker that its lost-block entries up to a named one are on a witness majority. -/
  | lostMapDurable (set stripe strip : Nat)
  /-- JOURNAL_REHOME (R247). A failed journal drive is replaced by a chosen member, and each module copies its live records there. -/
  | journalRehome (set drive : Nat)
  /-- REPAIR_STEP (R251). A bad block found by a degraded read is reconstructed and written back to its own location. -/
  | repairStep (set stripe strip row : Nat)
  /-- SCRUB_STEP (R252). Scrub reads a stripe, checks every row and repairs, fixes parity or marks lost blocks. -/
  | scrubStep (set stripe : Nat)
  /-- REPLACEMENT_ACCEPT (R254). A replacement drive named in QDL_MEMu takes effect at a boundary, FAILED clears and copy back begins. -/
  | replacementAccept (set member : Nat)
  /-- COPY_BACK_STEP (R255). A copy-back step copies or reconstructs a stripe's strip onto the replacement and deallocates its spare location. -/
  | copyBackStep (set : Nat)
  /-- PROMENADE_START (R257). RBD_PCMD starts a Promenade after its conditions and plan are checked. -/
  | promenadeStart (who : Requester) (set : Nat)
  /-- SET_CREATE (R268). RBD_PCMD creates an empty set through a layout epoch. -/
  | setCreate (who : Requester) (set : Nat)
  /-- SET_DELETE (R268). RBD_PCMD deletes a set that holds no extent through a layout epoch. -/
  | setDelete (who : Requester) (set : Nat)
  /-- PROMENADE_MOVE_START (R260). A waiting extent move starts copying once its destination is free and the Caller's work runs. -/
  | promenadeMoveStart (nsid ext : Nat)
  /-- PROMENADE_COPY_PASS_END (R261). A copy pass of a move ends and the move recopies dirty stripes or enters Catch-up. -/
  | promenadeCopyPassEnd (nsid ext : Nat)
  /-- PROMENADE_CATCHUP_DONE (R261). The last catch-up copy write reports and a layout epoch is armed for the current measure plus 2. -/
  | promenadeCatchupDone (nsid ext : Nat)
  /-- PROMENADE_OLD_RANGE_FREE (R261). The last command translated in the old layout completes and the extent's old range is freed. -/
  | promenadeOldRangeFree (nsid ext : Nat)
  /-- PROMENADE_FINAL_EPOCH (R264). When every extent is Switched, a final epoch makes the next-generation layout active. -/
  | promenadeFinalEpoch (set : Nat)
  /-- PROMENADE_DRAIN_DONE (R264). Every extent reaches Freed and PROM returns to 0. -/
  | promenadeDrainDone (set : Nat)
  /-- ENERGY_MEASUREMENT (R494). Every 1 ms the Wallflower computes E_usable and the ceiling D is computed from it. -/
  | energyMeasurement (vbankSum : Nat)
  /-- CHARGE_COMPLETE (R279). The charge level reaches 98 % of EFULL and the store enters Ready with the charger at maintenance. -/
  | chargeComplete
  /-- CHARGE_LEVEL_DROP (R279). The charge level falls below 95 % of EFULL and the store resumes Charging. -/
  | chargeLevelDrop
  /-- NRG_TEST_REQUEST (R281). A write of NRG_CMD.TEST requests a capacity test. -/
  | nrgTestRequest (who : Requester)
  /-- CAPACITY_TEST_START (R281). A due test granted by the Caller discharges 10 % of EFULL into the test load. -/
  | capacityTestStart
  /-- CAPACITY_TEST_DONE (R495). The capacity test measurement ends and updates WFL_CAP, WFL_ESR, EFULL and HEALTH. -/
  | capacityTestDone (cap esr : Nat)
  /-- STORE_FAILURE (R279). EFULL below 90 J or a cell-balance fault disconnects the bank and the store enters Failed. -/
  | storeFailure (unbalanced : Bool)
  /-- POWER_FAIL_DECISION (R493). Fixed rule 0 or 1 fires and the module makes its one power-fail decision and quiesces. -/
  | powerFailDecision
  /-- QUIESCE_COMPLETE (R286). The 2 ms quiesce ends and the vault image write begins if the vault is Armed or Retiring. -/
  | quiesceComplete
  /-- DESTAGE_SEAL (R287). The last section is written, or energy or area runs out, and the image header is sealed. -/
  | destageSeal (whole : Nat) (extra : Nat)
  /-- DECISION_RESET_TIMER (R593). With the gate closed and input holding the bus, a module reset is taken 10 ms after the decision. -/
  | decisionResetTimer
  /-- VAULT_SELF_CHECK (R285). The start-up vault self-check passes and the vault goes Armed or begins restoring. -/
  | vaultSelfCheck
  /-- VAULT_RESTORE (R289). After memory fill the module reads both header slots and chooses the newest sealed unretired image. -/
  | vaultRestore (badTags : List Nat)
  /-- SECTION_SUMMARY (R290). The modules exchange section summaries on channel 1 and decide which sections supply each group. -/
  | sectionSummary (peer : PeerSummary)
  /-- SUMMARY_TIMEOUT (R290). No peer answers within 1 s and the module restores from its own image alone. -/
  | summaryTimeout
  /-- RESTORE_INSTALL (R291). The winner of a group's token installs the restored copies as held copies and finishes live journal entries. -/
  | restoreInstall (group : Nat) (fromPeer : List RestoredBlock)
  /-- VAULT_RETIRE (R292). Every restored copy has been freed, and the header is rewritten with RETIRED set. -/
  | vaultRetire
  /-- VAULT_FAULT (R285). A vault flash fault sets the vault Failed with D_energy taken as 0. -/
  | vaultFault
  /-- MAP_MIRROR_COPY (R284). Changed metadata pages are copied to the map mirror in the background with rate and wait thresholds. -/
  | mapMirrorCopy (pages : Nat)
  /-- LINK_ENABLE (R296). EZL_CTL.EN set with the peer seated starts full training of the Emzifen link. -/
  | linkEnable (who : Requester) (value : Word)
  /-- LINK_TRAINED (R296). Training reaches a width, the link sends resume and enters Linked or returns to Paired. -/
  | linkTrained (lanes : Nat)
  /-- TRAINING_TIMEOUT (R300). 50 ms without a width sends the link Down with a fault record. -/
  | trainingTimeout
  /-- TRAINING_RETRY (R300). One second after a failed training the link retries. -/
  | trainingRetry
  /-- FAST_RETRAIN (R296). Uncorrectable codewords or lane lock loss starts a fast retrain and discards uncommitted traffic. -/
  | fastRetrain
  /-- PEER_REMOVED (R300). EN cleared or the peer removed takes the link Down and releases retained cells. -/
  | peerRemoved (cleared : Option (Requester × Word))
  /-- LINK_ACK_RECEIVED (R298). A link acknowledgement releases acknowledged frames or triggers replay on a gap. -/
  | linkAckReceived (h : FrameHead) (gap : Bool) (room : List (Nat × Nat))
  /-- LINK_ACK_TIMER (R298). The receiver sends an acknowledgement at least every 64 frames or 200 ns. -/
  | linkAckTimer
  /-- MIRROR_COPY_RECEIVED (R303). A mirror copy frame is checked against its window and placed, or discarded as duplicate or rejected. -/
  | mirrorCopyReceived (h : FrameHead) (b : MirrorBlock)
  /-- WINDOW_WRITE_RECEIVED (R303). A window write frame is checked and placed, stamped or unstamped. -/
  | windowWriteReceived (h : FrameHead) (payload : Bytes)
  /-- MESSAGE_RECEIVED (R308). A message frame is placed in the next posted receive slot of its channel. -/
  | messageReceived (h : FrameHead) (payload : Bytes)
  /-- STATE_COPY_RECEIVED (R313). A state copy frame arrives into window 8 and is verified. -/
  | stateCopyReceived (h : FrameHead) (copy : StateCopy) (last : Bool)
  /-- COMMIT_MARKER_RECEIVED (R313). The follow commits the measure and sends a commit, or sends a resend request on a mismatch. -/
  | commitMarkerReceived (h : FrameHead) (counts : List (Nat × Nat))
  /-- COMMIT_RECEIVED (R299). The lead receives the follow's commit and releases cells retained for that measure. -/
  | commitReceived (h : FrameHead)
  /-- RESEND_REQUEST_RECEIVED (R313). The lead resends every retained measure from the oldest uncommitted one. -/
  | resendRequestReceived (h : FrameHead)
  /-- RESUME_RECEIVED (R414). A resume frame carrying a higher EPOCH and pairing values is accepted from the peer. -/
  | resumeReceived (h : FrameHead) (values : PairValues)
  /-- MESSAGE_SEND_POST (R308). Advancing EZL_CHc_TXPOST queues send slots for delivery in order. -/
  | messageSendPost (who : Requester) (chan post : Nat)
  /-- MESSAGE_RECEIVE_POST (R308). Advancing EZL_CHc_RXPOST posts receive slots for the channel. -/
  | messageReceivePost (who : Requester) (chan post : Nat)
  /-- MESSAGE_WITHDRAW (R308). A message still waiting 1 ms after reaching the head of its channel is withdrawn with STATUS 0x03. -/
  | messageWithdraw (chan : Nat)
  /-- FOLLOW_LOST (R315). The commit for N has not arrived by the boundary ending N + CTMO, or the link leaves Paired, and every group loses its follow. -/
  | followLost
  /-- LEAD_SILENCE_TIMEOUT (R316). The follow receives no later marker for CTMO measures and discards its uncommitted traffic. -/
  | leadSilenceTimeout
  /-- LEASE_RENEWAL (R322). Every RENEW the lead issues a Compare and Write renewal pass of its token records to every witness. -/
  | leaseRenewal
  /-- RENEWAL_COMPLETE (R323). A renewal is granted on a majority, or a compare failure shows the peer has taken the record. -/
  | renewalComplete (group : Nat) (granted : List Nat) (reads : List TokenRead)
  /-- LEASE_EXPIRY (R325). The lead's lease is no longer valid, it stops the group's I/O and enters Lapsed. -/
  | leaseExpiry (group : Nat)
  /-- PEER_SUSPECT (R333). No health word for MISS measures, or a LAPSED bit, makes the follow suspect its peer and read the token records. -/
  | peerSuspect
  /-- CUT_IN_WAIT_END (R334). The lease plus the 250 µs guard has passed unchanged and the follow writes the token records for itself. -/
  | cutInWaitEnd
  /-- CLAIM_COMPLETE (R334). The claiming writes are granted on a majority, or fail, and the follow fences or backs off. -/
  | claimComplete (granted failed : List (Nat × Nat))
  /-- FENCE (R328). The taker sends Preempt and Abort with the old lead's key to every present member. -/
  | fence
  /-- FENCE_COMPLETE (R335). Every present member has answered or failed, and the taker takes the state and reconciles suspect stripes. -/
  | fenceComplete (failed : List Nat) (blocks : List Bytes)
  /-- TAKE_COMPLETE (R335). The last suspect stripe is reconciled and the taker leads at the next boundary. -/
  | takeComplete
  /-- PEER_CYCLE (R337). The old lead's health word is still absent PCYC after Taking and the taker asserts PEER_CYCLE_N. -/
  | peerCycle
  /-- MODULE_FENCED (R330). A Reservation Conflict or missing key shows the module is fenced; it enters Lost and takes step 3. -/
  | moduleFenced
  /-- STANDBY_SELF_TEST (R332). A follow runs the standby self-test of each group it follows and sets or clears READY. -/
  | standbySelfTest (group : Nat) (reads : List TokenRead) (absent bad : List Nat)
  /-- HAND_OVER (R339). The holder reports Change, closes stripes, commits and writes the token record to the peer. -/
  | handOver (group : Nat)
  /-- HAND_OVER_GRANTED (R339). The peer renews the handed-over record and begins to lead the group. -/
  | handOverGranted (group : Nat) (reads : List TokenRead)
  /-- HAND_BACK (R340). The home module has followed with READY for HBDELAY and the lead starts a hand-over back. -/
  | handBack (group : Nat)
  /-- WITNESS_REPLACE (R341). A failed witness is replaced by a chosen member and seeded with the token records. -/
  | witnessReplace (witness : Nat) (reads : List TokenRead)
  /-- LTK_HAND_OVER_GROUP (R339). LTK_CMD operation 0x1 hands over the named group. -/
  | ltkHandOverGroup (who : Requester) (group : Nat)
  /-- LTK_HAND_OVER_ALL (R339). LTK_CMD operation 0x2 hands over every lead the module holds. -/
  | ltkHandOverAll (who : Requester)
  /-- LTK_RELEASE_GROUP (R338). LTK_CMD operation 0x3 releases the group, leaving it with no holder and RELEASED set. -/
  | ltkReleaseGroup (who : Requester) (group : Nat)
  /-- LTK_ACQUIRE_GROUP (R338). LTK_CMD operation 0x4 acquires the group under the trying-order rule. -/
  | ltkAcquireGroup (who : Requester) (group : Nat)
  /-- LTK_RUN_SELF_TEST (R332). LTK_CMD operation 0x5 runs the standby self-test at once. -/
  | ltkRunSelfTest (who : Requester)
  /-- PRESENCE_CHANGE (R348). PRSNTk_N goes low and the slot starts its 50 ms debounce. -/
  | presenceChange (slot : Nat)
  /-- SLOT_DEBOUNCE_END (R348). PRSNTk_N has been low for 50 ms and the slot powers its drive or enters Off. -/
  | slotDebounceEnd (slot : Nat)
  /-- OFF_LIST_RECEIVED (R590). The peer's list of slots held Off arrives on channel 3 after entry to Linked. -/
  | offListReceived (slots : List Nat)
  /-- OFF_LIST_TIMEOUT (R590). Two seconds after start-up without Linked, the module may power its slots. -/
  | offListTimeout
  /-- SLOT_POWERING_END (R348). 100 ms after power enable the module releases DRV_PERSTk_N and starts training. -/
  | slotPoweringEnd (slot : Nat)
  /-- SLOT_LINK_UP (R344). The drive link is accepted, CC.EN is set and the drive checks run. -/
  | slotLinkUp (slot : Nat) (link : SlotLink)
  /-- SLOT_TRAINING_TIMEOUT (R348). No accepted link within 2 s refuses the drive with REASON 0x1. -/
  | slotTrainingTimeout (slot : Nat)
  /-- SLOT_CHECK_COMPLETE (R349). The drive checks pass and the slot enters Ready, or one fails and it is Refused. -/
  | slotCheckComplete (slot : Nat) (report : DriveReport)
  /-- ATTENTION_PRESS (R351). ATTNk_N held low 20 ms is accepted or refused for an orderly removal. -/
  | attentionPress (slot : Nat) (low : Bool)
  /-- REMOVAL_TIMER_END (R352). The 5 s removal timer ends, failing a member if needed, disabling the link and releasing power. -/
  | removalTimerEnd (slot : Nat)
  /-- CONTAINMENT (R353). DL_Down, ERR_FATAL, a completion timeout or R358 contains the port and gives outstanding commands their fates. -/
  | containment (slot reason : Nat)
  /-- SURPRISE_REMOVAL (R348). PRSNTk_N high for 1 ms empties the slot, containing it first if Ready. -/
  | surpriseRemoval (slot : Nat)
  /-- PEER_SLOT_EVENT (R355). A slot event message from the peer on channel 3 fails the member or tracks the peer's Off state. -/
  | peerSlotEvent (slot : Nat) (news : PeerSlotNews)
  /-- SLOT_POWER_ON (R348). SLT_CMD power on pulls SLOT_PWRENk_N low from Off. -/
  | slotPowerOn (who : Requester) (slot : Nat)
  /-- SLOT_OFF (R351). SLT_CMD off takes the slot orderly to Off, refused under the removal test. -/
  | slotOff (who : Requester) (slot : Nat)
  /-- SLOT_FORCED_OFF (R351). SLT_CMD forced off takes the slot to Off without the removal test. -/
  | slotForcedOff (who : Requester) (slot : Nat)
  /-- SLOT_RETRAIN (R348). SLT_CMD retrain leaves containment or refusal and trains the link again. -/
  | slotRetrain (who : Requester) (slot : Nat)
  /-- SLOT_PREPARE (R350). SLT_CMD prepare formats NSID 1 of a refused drive and checks it again. -/
  | slotPrepare (who : Requester) (slot : Nat) (foreignHeader formatted : Bool)
  /-- MEMBER_COMMAND_TIMEOUT (R358). A member command exceeds CMD_TMO and is aborted and retried, the fourth timeout containing the slot. -/
  | memberCommandTimeout (op : Nat)
  /-- MEMBER_COMMAND_ERROR (R592). A member command completes with an error and is retried, a still-failing write failing the member. -/
  | memberCommandError (op : Nat)
  /-- SIDEBAND_POLL (R361). Once a second the module reads each present drive's NVMe-MI status into SLT_MI. -/
  | sidebandPoll (slot : Nat) (reading : Option MiReading)
  /-- DIR_PERST_DEASSERT (R366). DIR_PERST_N deasserted with a cable mated starts link training within 1 ms. -/
  | dirPerstDeassert
  /-- DIR_PERST_ASSERT (R379). DIR_PERST_N asserted stops every TLP and takes both functions to Reset. -/
  | dirPerstAssert
  /-- CABLE_PRESENCE_CHANGE (R365). A change of DIR_CPRSNT_N mates or unmates the cable, holding the port in reset while high. -/
  | cablePresenceChange (mated : Bool)
  /-- CONFIG_REQUEST (R367). A configuration request is answered from the ROM table and live bits, or with Request Retry Status. -/
  | configRequest (f offset : Nat) (write : Bool) (value : Word) (enables : Nat)
  /-- BAR_ACCESS (R370). A memory request to a BAR is served, answered with all ones for a bad width, or Unsupported Request. -/
  | barAccess (addr width : Nat) (write : Bool) (value : DWord)
  /-- SQ_DOORBELL (R375). A direct-host doorbell write lets function 0 fetch submission entries up to the new tail. -/
  | sqDoorbell (queue tail size : Nat)
  /-- DIRECT_READ_COMPLETION (R375). A completion for a direct-port read request is placed at its own offset. -/
  | directReadCompletion (tag : Nat) (data : Bytes)
  /-- DIRECT_COMPLETION_TIMEOUT (R369). A direct-port read request times out and is counted in DPT_CTO. -/
  | directCompletionTimeout (tag : Nat)
  /-- BUS_MASTER_ENABLE_CLEAR (R377). Clearing Bus Master Enable stops new requests and quiesces the function. -/
  | busMasterEnableClear (f : Nat)
  /-- BUS_MASTER_ENABLE_SET (R377). Setting Bus Master Enable allows requests, or is latched while quiescing. -/
  | busMasterEnableSet (f : Nat)
  /-- FUNCTION_LEVEL_RESET (R380). An FLR quiesces a function and resets its registers within 20 ms. -/
  | functionLevelReset (f : Nat)
  /-- FLR_TIMEOUT (R381). An FLR not complete within 20 ms writes a fault record and leaves TPEND set. -/
  | flrTimeout (f : Nat)
  /-- D3HOT_ENTRY (R377). Entry to D3hot quiesces the function and the link enters L1. -/
  | d3hotEntry (f : Nat)
  /-- D0_RETURN (R382). A return to D0 resets the function's registers and enables it. -/
  | d0Return (f : Nat)
  /-- HOT_RESET (R379). A hot reset stops every TLP and resets both functions. -/
  | hotReset
  /-- FUNCTION_QUIESCED (R377). Every outstanding read has ended and posted write been sent, TPEND clears and any latched enable acts. -/
  | functionQuiesced (f : Nat)
  /-- SEAT_CHANGE (R388). SEAT_A_N and SEAT_B_N both go low and the entry starts its 10 ms debounce. -/
  | seatChange (seatA seatB : Bool)
  /-- ENTRY_DEBOUNCE_END (R388). Start conditions have held for 10 ms and the gate ramp starts. -/
  | entryDebounceEnd (vin : Nat)
  /-- RAMP_COMPLETE (R389). VDS falls below 0.3 V and qualification starts. -/
  | rampComplete
  /-- QUALIFICATION_COMPLETE (R394). The qualification count reaches 100,000 and PG_OUT is released. -/
  | qualificationComplete (timerStarts : Bool)
  /-- RAIL_SEQUENCE (R395). On PG_OUT release the Wallflower raises the module rails and releases the module from reset. -/
  | railSequence
  /-- CURRENT_LIMIT_ENGAGE (R391). The current limit engages, the fault timer starts and PG_OUT drops if On. -/
  | currentLimitEngage
  /-- CURRENT_LIMIT_CLEAR (R391). Current below I_LIM for 100 µs returns the fault timer to 0. -/
  | currentLimitClear
  /-- FAULT_TIMER_EXPIRY (R391). The fault timer reaches 8 ms and the entry turns the gate off and latches. -/
  | faultTimerExpiry (ipeak vin : Nat)
  /-- FAST_TRIP (R392). Input current above 60 A turns the gate off within 500 ns and latches. -/
  | fastTrip (ipeak vin : Nat)
  /-- ENTRY_OPENING (R396). A seat break, enable low, peer cycle, self cycle, overvoltage, reverse current or undervoltage opens the gate. -/
  | entryOpening (event : OpeningEvent) (ipeak vin : Nat)
  /-- ENTRY_LATCH_CLEAR (R388). EFU_EN or CYCLE_IN_N low for 1 ms or a seat break clears a latch. -/
  | entryLatchClear (by_ : LatchClear)
  /-- ENTRY_RESTART (R397). After the module is Off and OFF_MS has passed with start conditions met, the entry debounces again. -/
  | entryRestart (vin : Nat)
  /-- MODULE_OFF (R397). After an opening the store reaches Off, Failed or Empty and the module goes Off. -/
  | moduleOff
  /-- BIAS_LOSS (R385). VIN below 8 V unpowers the entry controller, clears the latch and loses the entry record. -/
  | biasLoss
  /-- PEER_CYCLE_RELEASE (R386). PEER_CYCLE_N is released after its 10 ms assertion. -/
  | peerCycleRelease
  /-- KEY_GENERATE (R405). CIP_KCMD operation 0x1 generates a namespace key into a slot and writes its wrapped blob. -/
  | keyGenerate (who : Requester) (slot : Nat)
  /-- KEY_UNWRAP (R405). CIP_KCMD operation 0x2 unwraps a blob into a slot. -/
  | keyUnwrap (who : Requester) (slot : Nat)
  /-- KEY_ZEROISE (R409). CIP_KCMD operation 0x3 zeroises a slot once operations using it have ended. -/
  | keyZeroise (who : Requester) (slot : Nat)
  /-- KEY_DERIVE_PAIR (R452). CIP_KCMD operation 0x4 derives slots 0–3 from the installed PRK. -/
  | keyDerivePair (who : Requester)
  /-- KEK_RATCHET (R406). CIP_KCMD operation 0x5 generates the next KEK, rewraps surviving blobs and writes the transport-wrapped KEK. -/
  | kekRatchet (who : Requester)
  /-- HIGH_WATER_LOAD (R413). CIP_KCMD operation 0x6 raises a context's counter high-water. -/
  | highWaterLoad (who : Requester) (slot : Nat)
  /-- SLOT_STATUS_READ (R402). CIP_KCMD operation 0x7 writes a slot's status without key material. -/
  | slotStatusRead (who : Requester) (slot : Nat)
  /-- KEK_IMPORT (R406). CIP_KCMD operation 0x8 imports the transport-wrapped KEK from the peer. -/
  | kekImport (who : Requester)
  /-- MCP_PACKET_RECEIVED (R421). A management packet arrives on a transport and is dropped, refused or accepted as a request. -/
  | mcpPacketReceived (from_ : McpAddress) (type : Nat) (bytes : Bytes) (fragment : Option (Nat × Bool))
  /-- MCP_REQ_DOORBELL (R425). A write of MCP_REQ_DB posts a mailbox request slot. -/
  | mcpReqDoorbell (who : Requester) (mask : Nat)
  /-- MCP_RPL_RDY_CLEAR (R425). The host clears RPL_RDY, freeing the reply slot for a waiting reply. -/
  | mcpRplRdyClear (who : Requester) (bits : Nat)
  /-- MCP_NTC_TAIL_WRITE (R427). The host advances MCP_NTC_TAIL, freeing notice slots. -/
  | mcpNtcTailWrite (who : Requester) (tail : Nat)
  /-- FRAGMENT_TIMEOUT (R424). An IP datagram still incomplete 1 s after its first fragment is discarded. -/
  | fragmentTimeout (from_ : McpAddress) (id : Nat)
  /-- GET_IDENTITY (R436). Get Identity returns the module's identity, unsealed. -/
  | getIdentity (tag : Nat)
  /-- GET_CHALLENGE (R429). Get Challenge returns a fresh 32-byte challenge. -/
  | getChallenge (tag : Nat)
  /-- GET_ENTRY_RECORD (R423). Get Entry Record returns EFU_LAST and EFU_STAT. -/
  | getEntryRecord (tag : Nat)
  /-- SESSION_OPEN (R429). Session Open checks the principal and MAC, derives the session key and replies with CONFIRM. -/
  | sessionOpen (tag : Nat)
  /-- SESSION_RESET (R435). Session Reset ends the requester's or another session of the same principal. -/
  | sessionReset (slot tag : Nat)
  /-- SESSION_LIST (R436). Session List returns the principal's sessions. -/
  | sessionList (slot tag : Nat)
  /-- NOTICE_SUBSCRIBE (R445). Notice Subscribe sets the notice types the session receives. -/
  | noticeSubscribe (slot tag : Nat)
  /-- GET_NOTICES (R445). Get Notices returns up to 16 kept notices from a number. -/
  | getNotices (slot tag : Nat)
  /-- MODULE_STATUS (R436). Module Status returns the module's status registers and health words. -/
  | moduleStatus (slot tag : Nat)
  /-- LOG_PAGE_READ (R436). Log Page Read returns bytes of a log page. -/
  | logPageRead (slot tag : Nat)
  /-- FAULT_RECORDS_READ (R559). Fault Records Read returns whole fault records from a number. -/
  | faultRecordsRead (slot tag : Nat)
  /-- LONG_OPERATION_STATUS (R105). Long-Operation Status returns the bytes of log page 0xC2. -/
  | longOperationStatus (slot tag : Nat)
  /-- LEAD_COMMAND (R438). Lead Command writes LTK_CMD and replies when BUSY clears. -/
  | leadCommand (slot tag : Nat)
  /-- SLOT_COMMAND (R438). Slot Command writes SLT_CMD and replies when BUSY clears. -/
  | slotCommand (slot tag : Nat) (foreignHeader formatted : Bool)
  /-- LAYOUT_COMMAND (R438). Layout Command writes RBD_PCMD and replies when BUSY clears. -/
  | layoutCommand (slot tag : Nat)
  /-- MODULE_RESET (R439). Module Reset replies, optionally hands over leads, and resets the module 10 ms later. -/
  | moduleReset (slot tag : Nat)
  /-- POWER_CYCLE (R439). Power Cycle replies and asks the Wallflower for step 4 10 ms later. -/
  | powerCycle (slot tag : Nat)
  /-- SET_POWER_STATE (R441). Set Power State enters Dormant or Active and replies when reached or abandoned. -/
  | setPowerState (slot tag : Nat) (refuser : Option Nat)
  /-- SHELF_BUDGET (R482). Shelf Budget stores the shelf budget the Caller uses. -/
  | shelfBudget (slot tag : Nat)
  /-- FIRMWARE_DOWNLOAD (R440). Firmware Download writes a piece to the staging buffer. -/
  | firmwareDownload (slot tag : Nat)
  /-- MCP_FIRMWARE_COMMIT (R440). Management Firmware Commit runs the checks and commit action of Table 4.9. -/
  | mcpFirmwareCommit (slot tag : Nat)
  /-- GROUP_POLICY (R442). Group Policy sets a group's or namespace's policy through the lead, effective at a boundary. -/
  | groupPolicy (slot tag : Nat)
  /-- SET_MEASURE_LENGTH (R442). Set Measure Length writes the measure length to stored configuration. -/
  | setMeasureLength (slot tag : Nat)
  /-- TWO_STEP_PROPOSE (R454). Two-Step Propose opens a proposal and copies pair-scoped ones to the peer. -/
  | twoStepPropose (slot tag : Nat)
  /-- TWO_STEP_CONFIRM (R455). Two-Step Confirm counts a Guardian and arms the proposal for T when two are counted. -/
  | twoStepConfirm (slot tag : Nat)
  /-- TWO_STEP_WITHDRAW (R454). Two-Step Withdraw withdraws an Open proposal. -/
  | twoStepWithdraw (slot tag : Nat)
  /-- TWO_STEP_STATUS (R454). Two-Step Status returns proposal records with visible bodies. -/
  | twoStepStatus (slot tag : Nat)
  /-- SESSION_IDLE_TIMEOUT (R432). A session idle for MCP_CFG.IDLE seconds ends and its slot is zeroised. -/
  | sessionIdleTimeout (slot : Nat)
  /-- REQUEST_TIMEOUT (R444). A request still running at 10 s is replied 0x0602 and runs on. -/
  | requestTimeout (slot tag : Nat)
  /-- PROPOSAL_EXPIRY (R454). An Open proposal expires LIFE seconds after its Propose. -/
  | proposalExpiry (number : Nat)
  /-- SETUP_DIGEST_EXCHANGE (R457). At entry to Paired the modules exchange set-up digests and logs and apply, adopt or flag a mismatch. -/
  | setupDigestExchange (digest : Bytes) (log : List LoggedCommit) (objects : List GuardedObject) (proposals : List Bytes)
  /-- SPDM_GET_VERSION (R458). SPDM GET_VERSION is answered by the responder. -/
  | spdmGetVersion (from_ : McpAddress)
  /-- SPDM_GET_CAPABILITIES (R458). SPDM GET_CAPABILITIES is answered by the responder. -/
  | spdmGetCapabilities (from_ : McpAddress)
  /-- SPDM_NEGOTIATE_ALGORITHMS (R458). SPDM NEGOTIATE_ALGORITHMS selects ECDSA P-384 with SHA-384. -/
  | spdmNegotiateAlgorithms (from_ : McpAddress)
  /-- SPDM_GET_DIGESTS (R458). SPDM GET_DIGESTS returns the certificate chain digests. -/
  | spdmGetDigests (from_ : McpAddress)
  /-- SPDM_GET_CERTIFICATE (R458). SPDM GET_CERTIFICATE returns the chain in slot 0. -/
  | spdmGetCertificate (from_ : McpAddress) (slot offset length : Nat)
  /-- SPDM_CHALLENGE (R458). SPDM CHALLENGE is signed with the device certificate key. -/
  | spdmChallenge (from_ : McpAddress) (request : Bytes)
  /-- SPDM_GET_MEASUREMENTS (R458). SPDM GET_MEASUREMENTS returns the measurement blocks of Table 18.9. -/
  | spdmGetMeasurements (from_ : McpAddress) (request : Bytes)
  /-- PHRASE_DECISION (R479). At the start of measure 31 the Caller computes cluster levels, job grants and PACE for the next phrase. -/
  | phraseDecision (pinMw : Nat) (tj : Int) (tjDomain : Nat) (utils : List Nat)
  /-- AVS_ACK (R461). The regulator acknowledges a voltage request and the cluster's divisor change proceeds. -/
  | avsAck (cluster : Nat)
  /-- AVS_TIMEOUT (R462). A voltage request is not acknowledged in 50 µs, AVSERR sets and the cluster may be held. -/
  | avsTimeout (cluster : Nat)
  /-- DOMAIN_IDLE_GATE (R467). A domain idle for IDLE1_NS runs the entry handshake and is Gated on Accept. -/
  | domainIdleGate (domain : Nat) (answer : HandshakeAnswer)
  /-- DOMAIN_IDLE_OFF (R467). A Gated domain idle for IDLE2_US runs the handshake and is powered off on Accept. -/
  | domainIdleOff (domain : Nat) (answer : HandshakeAnswer)
  /-- HANDSHAKE_DELAY_EXPIRY (R468). After a Delay answer PWR_ asks the domain again. -/
  | handshakeDelayExpiry (domain : Nat) (answer : HandshakeAnswer)
  /-- DOMAIN_WAKE (R469). Work arriving for a Gated or Off domain restarts its clock or powers it up. -/
  | domainWake (domain : Nat)
  /-- PWR_WAKE_DOMAIN (R472). PWR_CMD operation 0x1 wakes a domain. -/
  | pwrWakeDomain (who : Requester) (domain : Nat)
  /-- PWR_POWER_OFF_DOMAIN (R467). PWR_CMD operation 0x2 powers off a domain where allowed, after the handshake. -/
  | pwrPowerOffDomain (who : Requester) (domain : Nat) (answer : HandshakeAnswer)
  /-- PWR_ENTER_DORMANT (R473). PWR_CMD operation 0x3 takes the module into Dormant through its ordered steps. -/
  | pwrEnterDormant (who : Requester) (refuser : Option Nat)
  /-- DORMANT_WAKE (R475). A wake source in Dormant restarts the module, or aborts a Dormant entry before its power-off step. -/
  | dormantWake (source : Nat)
  /-- ANALOG_SAMPLE (R486). An analog channel is sampled and its filter updated. -/
  | analogSample (ch : Nat) (raw : Word)
  /-- DIGITAL_INPUT_CHANGE (R487). A digital input takes a new level after its debounce. -/
  | digitalInputChange (input : Nat) (high : Bool)
  /-- RULE_SWEEP (R489). The Wallflower evaluates its 64 rules in order each 2.56 µs sweep. -/
  | ruleSweep
  /-- RULE_CTL_WRITE (R490). A write to WFL_RULEr_CTL applies the rule's shadowed registers at the next sweep and re-arms it. -/
  | ruleCtlWrite (who : Requester) (rule : Nat) (value : Word)
  /-- CYCLE_ARM (R500). WFL_CMD operation 0x1 arms a self power cycle. -/
  | cycleArm (who : Requester)
  /-- CYCLE_GO (R500). WFL_CMD operation 0x2 within 1 ms of an arm writes EFU_CMD.CYCLE, or is held after a decision. -/
  | cycleGo (who : Requester)
  /-- PEER_WAKE_PULSE (R499). WFL_CMD operation 0x3 drives PEER_CYCLE_N low for 100 µs. -/
  | peerWakePulse (who : Requester)
  /-- WAKE_PULSE (R499). A CYCLE_IN_N low of 50 to 500 µs is a wake pulse. -/
  | wakePulse
  /-- WAKE_TIMER_EXPIRY (R498). WFL_WTIMER reaches 0 in Dormant and wakes the module. -/
  | wakeTimerExpiry
  /-- PARTITION_START (R507). CLU_PCMD start starts every core of the partition at ENTRY. -/
  | partitionStart (who : Requester) (cluster : Nat)
  /-- PARTITION_RESET (R508). CLU_PCMD reset, a fatal cache error or loss of a cluster resets the partition in ordered steps. -/
  | partitionReset (who : Requester) (cluster : Nat)
  /-- PARTITION_RESET_COMPLETE (R507). A partition reset completes and the partition starts again or stays Stopped. -/
  | partitionResetComplete (part : Nat)
  /-- L1D_CLEAN (R518). CLU_MAINT operation 0x1 cleans the L1D of CORE. -/
  | l1dClean (who : Requester) (cluster core : Nat)
  /-- L1D_CLEAN_INVALIDATE (R518). CLU_MAINT operation 0x2 cleans and invalidates the L1D of CORE. -/
  | l1dCleanInvalidate (who : Requester) (cluster core : Nat)
  /-- L1I_INVALIDATE (R518). CLU_MAINT operation 0x3 invalidates the L1I of CORE. -/
  | l1iInvalidate (who : Requester) (cluster core : Nat)
  /-- CLUSTER_CLEAN (R518). CLU_MAINT operation 0x4 cleans L2 and every L1D of the cluster. -/
  | clusterClean (who : Requester) (cluster : Nat)
  /-- CLUSTER_CLEAN_INVALIDATE (R518). CLU_MAINT operation 0x5 cleans and invalidates L2 and every L1 of the cluster. -/
  | clusterCleanInvalidate (who : Requester) (cluster : Nat)
  /-- CACHE_FILL_RETURN (R513). A cache fill returns, completing its access and letting a stalled miss take the slot. -/
  | cacheFillReturn (cluster cache : Nat)
  /-- VICTIM_WRITEBACK_ACK (R514). L2 acknowledges a dirty victim's write-back, freeing the buffer entry and serving a waiting access. -/
  | victimWritebackAck (cluster cache : Nat)
  /-- CBO_OPERATION (R515). A cbo operation cleans, flushes or invalidates a line, dooming a fill in flight. -/
  | cboOperation (core : Nat) (op : CboOp) (addr : Nat)
  /-- EWQ_DOORBELL (R525). A write to EWQ_QTAIL posts descriptors if the new tail is valid. -/
  | ewqDoorbell (who : Requester) (queue tail : Nat)
  /-- EWQ_ENABLE (R534). A write of 1 to QCTL.EN enables the queue or is latched while quiescing. -/
  | ewqEnable (who : Requester) (queue : Nat)
  /-- EWQ_DISABLE (R534). A write of 0 to QCTL.EN shuts the queue down, letting in-flight descriptors finish. -/
  | ewqDisable (who : Requester) (queue : Nat)
  /-- EWQ_INVALIDATE (R526). EWQ_QCMD invalidate discards prefetched descriptors and records STARTED. -/
  | ewqInvalidate (who : Requester) (queue : Nat)
  /-- EWQ_INVALIDATE_DONE (R526). Every discarded descriptor fetch has returned and BUSY clears. -/
  | ewqInvalidateDone (queue : Nat)
  /-- EWQ_RESET (R535). EWQ_QCMD reset stops the queue without draining and returns it to Disabled. -/
  | ewqReset (who : Requester) (queue : Nat)
  /-- EWQ_COPY (R521). A Copy descriptor copies LEN bytes on a parity engine. -/
  | ewqCopy (queue : Nat)
  /-- EWQ_PARITY (R521). A Parity descriptor computes P, Q and V over its sources. -/
  | ewqParity (queue : Nat)
  /-- EWQ_PARITY_CHECK (R521). A Parity Check descriptor compares data against parity and reports the first mismatch. -/
  | ewqParityCheck (queue : Nat)
  /-- EWQ_XTS_ENCRYPT (R521). An XTS encrypt descriptor encrypts data units on a cipher engine. -/
  | ewqXtsEncrypt (queue : Nat)
  /-- EWQ_XTS_DECRYPT (R521). An XTS decrypt descriptor decrypts data units on a cipher engine. -/
  | ewqXtsDecrypt (queue : Nat)
  /-- EWQ_GCM_ENCRYPT (R521). A GCM encrypt descriptor encrypts text and writes the tag. -/
  | ewqGcmEncrypt (queue : Nat)
  /-- EWQ_GCM_DECRYPT (R521). A GCM decrypt descriptor verifies the tag before writing any plaintext. -/
  | ewqGcmDecrypt (queue : Nat)
  /-- EWQ_GMAC (R521). A GMAC descriptor computes a tag over AAD. -/
  | ewqGmac (queue : Nat)
  /-- EWQ_KEY_COMMAND (R527). A key command descriptor runs a CIP_KCMD operation on the key store. -/
  | ewqKeyCommand (queue : Nat)
  /-- EWQ_DESCRIPTOR_COMPLETE (R531). A descriptor finishes and its record is written and HEAD advances in ring order. -/
  | ewqDescriptorComplete (queue count : Nat)
  /-- EWQ_READ_TIMEOUT (R533). A queue read without response in 10 µs ends the descriptor with code 0x06. -/
  | ewqReadTimeout (queue count addr : Nat)
  /-- PARITY_ERROR (R542). A bad line or word is read, the reader acts on it and recovery for its region starts. -/
  | parityError (item : BadItem) (reader : BadReader) (addr bytes : Nat)
  /-- RECOVERY_COMPLETE (R543). A bad line's recovery ends from a source or fails, waiting readers resume and the bucket rises. -/
  | recoveryComplete (id : Nat) (how : RecoveryEnd)
  /-- PEER_COPY_REQUEST (R545). A channel-2 request asks the peer for its mirror copy, which it sends unstamped into window 9. -/
  | peerCopyRequest (group nsid lba meas : Nat)
  /-- PEER_RESTORE_TIMEOUT (R545). The peer does not answer a restore request in 100 µs and the next source is tried. -/
  | peerRestoreTimeout (id : Nat)
  /-- MEMORY_SWEEP (R552). The sweep reads the next DRAM line or buffer cell and recovers or rewrites bad ones. -/
  | memorySweep (buffer : Bool) (found : Option BadItem) (bytes : Nat)
  /-- BUCKET_LEAK (R553). Every INTERVAL each bucket above 0 loses 1. -/
  | bucketLeak
  /-- MIN_TEST_ARM (R555). A write of MIN_TEST with ARM arms a bad-parity test write. -/
  | minTestArm (who : Requester) (value : Word)
  /-- MIN_TEST_EXPIRY (R555). An armed test unused for 1 s disarms and EXPIRED sets. -/
  | minTestExpiry
  /-- WATCHDOG_RESTART (R564). Writing 0x0000_00A5 to FLT_WDOG restarts the watchdog. -/
  | watchdogRestart (who : Requester) (value : Word)
  /-- WATCHDOG_EXPIRY (R564). The watchdog period passes without a restart and the module takes step 3. -/
  | watchdogExpiry
  /-- FLT_STEP3_HANDOVER (R562). FLT_CMD operation 0x1 takes step 3, handing leads over first. -/
  | fltStep3Handover (who : Requester)
  /-- FLT_STEP3 (R562). FLT_CMD operation 0x2 takes step 3 without hand-over. -/
  | fltStep3 (who : Requester)
  /-- FLT_STEP4 (R562). FLT_CMD operation 0x3 takes step 4 through the Wallflower. -/
  | fltStep4 (who : Requester)
  /-- LATCH_COPY (R560). After start-up Ronhenko copies a held latch record into the ring with PRIOR set. -/
  | latchCopy
  /-- STARTUP_ESCALATION (R565). At start-up the ladder history decides a normal start, a step 4 request or parking. -/
  | startupEscalation
  /-- POSITION_MISMATCH (R584). POS_ID0_N and POS_ID1_N disagree at reset and the module holds itself in module reset. -/
  | positionMismatch
  /-- PMC_COUNTER_PRESET (R571). A write to PMC_CNTi_HI loads both halves of a counter in one cycle. -/
  | pmcCounterPreset (who : Requester) (counter : Nat) (value : Word)
  /-- MONITOR_WINDOW_END (R573). A window monitor's window ends and LAST, MIN, MAX and WINS update, or SKIP advances. -/
  | monitorWindowEnd (monitor : Nat)
  /-- MONITOR_CLEAR (R574). A write of CLR clears the monitor's results at the start of the next window. -/
  | monitorClear (who : Requester) (monitor : Nat)
  /-- ENTRY_START_CONDITION_CHANGE (R388). A start condition (EFU_EN, CYCLE_IN_N or VIN) becomes unmet or met again during Debounce, and the debounce restarts. -/
  | entryStartConditionChange (enable cycleLow : Bool)
  /-- SLOT_DEBOUNCE_BREAK (R348). PRSNTk_N goes high before the 50 ms debounce ends and the slot returns to Empty. -/
  | slotDebounceBreak (slot : Nat)
  /-- PEER_SEATED (R300). The peer becomes seated while EZL_CTL.EN is 1 and the link leaves Down to start full training. -/
  | peerSeated
  /-- FAST_RETRAIN_FAIL (R296). A fast retrain does not complete within 20 µs, full training follows and the link has left Paired, so the follow is lost. -/
  | fastRetrainFail
  /-- DIRECT_LINK_UP (R377). The direct-port link comes up with the ROM table loaded and each function moves from Reset to Idle. -/
  | directLinkUp (speed width : Nat) (flit : Bool)
  /-- FUNCTION_RESET_TIMEOUT (R381). A function still in Reset 100 ms after DIR_PERST_N deasserts makes the module take step 3 of the recovery ladder. -/
  | functionResetTimeout (f : Nat)
  /-- CONNECTION_REJECT (R115). A reject received from the connection manager frees a Connecting queue pair context. -/
  | connectionReject (idx : Nat)
  /-- CHALLENGE_EXPIRY (R429). A held challenge reaches 10 s and is dropped, lowering MCP_STAT.CHALLENGES. -/
  | challengeExpiry
  /-- HAND_OVER_TIMEOUT (R339). The hand-over token write is not granted on a majority within RENEW and the holder resumes leading. -/
  | handOverTimeout (group : Nat)
  /-- TOKEN_RECORD_READ_COMPLETE (R334). The token-record reads of a Suspect follow are answered by a majority, the groups report Change and the lease wait starts. -/
  | tokenRecordReadComplete (reads : List TokenRead)
  /-- CUT_IN_REREAD (R334). Every RENEW a follow in Suspect or Waiting reads the token records again, or in Claiming writes them again. -/
  | cutInReread
  /-- LEAD_TOKEN_TRY (R338). A module tries to take a group with no valid lease, no holder or a RELEASED record, after the home-module or 2 × RENEW order. -/
  | leadTokenTry (group : Nat) (reads : List TokenRead)
  /-- DELETED_EXTENT_DEALLOCATE (R222). The Caller's background work deallocates the stripes of a deleted namespace's extents so they can be reused. -/
  | deletedExtentDeallocate (set stripe : Nat)
  deriving DecidableEq, Repr

end Sys2Proof
end

