-- ==== Sys2Proof/Decode.lean ====
section
/-! DEFINITION. The module takes commands, not instruction words: no row of the opcode table gives a word any bits, so no
word spells a command. -/

set_option Elab.async false

namespace Sys2Proof

/-- The command that a word spells by the table's bits: the table gives none of its rows any bits (R1 and the table's
empty encodings). -/
def decodeTableWord (_nbits _w : Nat) : Option Instr := none

end Sys2Proof
end

