-- ==== Sys2Proof/Config.lean ====
section
/-! DEFINITION. What one module fixes and the spec leaves open: the free values (each an opaque constant with no body,
so no proof can see a value of it), and the cryptographic and random functions, which the model keeps uninterpreted but
for their lengths. -/

set_option Elab.async false

namespace Sys2Proof.Config

/-! Free values. -/

/-- R32 does not say how 2 ns × (1 + RATE × 2^-40) is rounded to the 32-bit fraction: whether the last bit is rounded
up for this RATE. -/
opaque rateRoundsUp : Word → Bool

/-- A free number, by the model's counter of free values. -/
opaque freeNat : Nat → Nat

/-- A byte of content that the spec calls undefined, by the model's counter and the byte's place. -/
opaque freeByte : Nat → Nat → Byte

/-- R73: within a measure the completions' order follows no rule: the rank of a command, by its number at decode. -/
opaque completionRank : Nat → Nat

/-- LTK_TIMERS.PCYC is 0 or 100–60,000 and stores the nearer limit: for the value 50, as near to 0 as to 100, the spec
does not say which. -/
opaque peerCycleTieUp : Bool

/-- FLT_CFG.WDOG is 0 or 10–60,000: the spec does not say what a value above 60,000 stores. -/
opaque watchdogAboveRange : Nat → Nat

/-- R486 does not say how a quotient rounds: whether the last unit is rounded up, by channel and
dividend. -/
opaque filterRoundsUp : Nat → Int → Bool

/-- A byte of a namespace's NGUID (false) or UUID (true), which the spec does not give. -/
opaque namespaceIdByte : Bool → Nat → Nat → Byte

/-- Whether an image's ECDSA P-384 signature verifies under the Ciermevo key, and its LMS signature (R100). -/
opaque imageSigned : Bytes → Bool
opaque imageLmsSigned : Bytes → Bool

/-- Whether a host's DH-HMAC-CHAP message proves its key (R119): key, message. -/
opaque chapVerifies : Bytes → Bytes → Bool

/-- A byte of a DH-HMAC-CHAP message of the module: key, step, place. -/
opaque chapByte : Bytes → Nat → Nat → Byte

/-- The bytes that one record of a state copy takes (R311), whose layout the spec gives for few types. -/
opaque stateRecordBytes : StateRecord → Nat

/-- A byte of the module's own serial number (R436). -/
opaque moduleSerialByte : Nat → Byte

/-- The certificate chain of SPDM slot 0 (R458), and the boot ROM (Table 18.9). -/
opaque certificateChain : Bytes
opaque bootRom : Bytes

/-- Fields of SPDM messages that R458 leaves open: message code, and place. -/
opaque spdmByte : Nat → Nat → Byte

/-- What Get MCTP Version Support reports (R422), by message type: version entries of four bytes, and how many. -/
opaque mctpVersionCount : Nat → Fin 16
opaque mctpVersionByte : Nat → Nat → Byte

/-- A word of the configuration ROM table of a direct-port function that Tables 14.2 and 14.3 leave to PCIe (R367): function,
offset; and which bits of such a word PCIe makes writable. -/
opaque romWord : Nat → Nat → Word
opaque romMask : Nat → Nat → Word

/-- The DRAM channel of a line address (MIN_ERR.CHAN): the spec gives no interleave. -/
opaque dramChannel : Nat → Fin 16

/-- A byte of the expansion ROM's images (R371). -/
opaque expansionRom : Nat → Byte

/-! Fused and drawn secrets. -/

/-- A byte of a random draw of the DRBG (R404), by draw and place. -/
opaque randomByte : Nat → Nat → Byte

/-- The device-unique key (Table 16.1), fused at manufacture. -/
opaque deviceKeyByte : Nat → Byte

/-! Cryptographic functions, a byte of the output at a time; lengths are fixed by the definitions below. -/

/-- The GCM keystream of a key and an IV. -/
opaque gcmStreamByte : Bytes → Bytes → Nat → Byte
/-- The GCM tag over additional data and ciphertext. -/
opaque gcmTagByte : Bytes → Bytes → Bytes → Bytes → Nat → Byte
/-- AES-256-XTS of one data unit: key, data unit sequence number, text. -/
opaque xtsEncryptByte : Bytes → Nat → Bytes → Nat → Byte
opaque xtsDecryptByte : Bytes → Nat → Bytes → Nat → Byte
/-- KDF of R404: key, label, context byte. -/
opaque kdfByte : Bytes → Bytes → Nat → Nat → Byte
/-- KDF of R404 with a context of several bytes: key, label, context. -/
opaque kdfLongByte : Bytes → Bytes → Bytes → Nat → Byte
/-- ECDH P-384 (R429): the public share of an ephemeral key, by draw, and the shared x-coordinate with another's share. -/
opaque ecdhShareByte : Nat → Nat → Byte
opaque ecdhSecretByte : Nat → Bytes → Nat → Byte
/-- AES Key Wrap: key-encryption key and key data; whether wrapped data verifies; the unwrapped data. -/
opaque kwWrapByte : Bytes → Bytes → Nat → Byte
opaque kwVerifies : Bytes → Bytes → Bool
opaque kwUnwrapByte : Bytes → Bytes → Nat → Byte
/-- HMAC-SHA-384. -/
opaque hmacByte : Bytes → Bytes → Nat → Byte
/-- SHA-384. -/
opaque sha384Byte : Bytes → Nat → Byte
/-- ECDSA P-384 signature by the device certificate key, and whether a signature verifies under a public key. -/
opaque signByte : Bytes → Nat → Byte
opaque signatureVerifies : Bytes → Bytes → Bytes → Bool
/-- The 16-bit and 64-bit guards of NVMe protection information over a block. -/
opaque guard16 : Bytes → BitVec 16
opaque guard64 : Bytes → BitVec 64
/-- CRC32C over a management packet or log record. -/
opaque crc32c : Bytes → Word

/-- `n` bytes given place by place. -/
def bytesOf (n : Nat) (f : Nat → Byte) : Bytes := (List.range n).map f

def deviceKey : Bytes := bytesOf 32 deviceKeyByte
/-- GCM adds the keystream to the text; the output is as long as the text (R410). -/
def gcmEncrypt (key iv _aad text : Bytes) : Bytes := text.zipIdx.map fun (b, i) => b ^^^ gcmStreamByte key iv i
def gcmTag (key iv aad cipher : Bytes) : Bytes := bytesOf 16 (gcmTagByte key iv aad cipher)
def xtsEncrypt (key : Bytes) (unit : Nat) (text : Bytes) : Bytes := bytesOf text.length (xtsEncryptByte key unit text)
def xtsDecrypt (key : Bytes) (unit : Nat) (text : Bytes) : Bytes := bytesOf text.length (xtsDecryptByte key unit text)
def kdf (key label : Bytes) (context : Nat) : Bytes := bytesOf 32 (kdfByte key label context)
def kdfLong (key label context : Bytes) : Bytes := bytesOf 32 (kdfLongByte key label context)
def ecdhShare (draw : Nat) : Bytes := bytesOf 96 (ecdhShareByte draw)
def ecdhSecret (draw : Nat) (share : Bytes) : Bytes := bytesOf 48 (ecdhSecretByte draw share)
def moduleSerial : Bytes := bytesOf 16 moduleSerialByte
def kwWrap (kek data : Bytes) : Bytes := bytesOf (data.length + 8) (kwWrapByte kek data)
def kwUnwrap (kek wrapped : Bytes) : Option Bytes :=
  if kwVerifies kek wrapped then some (bytesOf (wrapped.length - 8) (kwUnwrapByte kek wrapped)) else none
def hmac (key text : Bytes) : Bytes := bytesOf 48 (hmacByte key text)
def sha384 (text : Bytes) : Bytes := bytesOf 48 (sha384Byte text)
def sign (text : Bytes) : Bytes := bytesOf 96 (signByte text)
def randomBytes (n draw : Nat) : Bytes := bytesOf n (randomByte draw)
def freeBytes (n draw : Nat) : Bytes := bytesOf n (freeByte draw)

end Sys2Proof.Config
end

