-- ==== Sys2Proof/Machine/Regs.lean ====
section
/-! DEFINITION. The register map: every register block of Table 0.6 with its registers, their fields, access codes
(Table 0.4), reset values and the rule for a value outside the range, one table per block as the owning chapter
prints it; and beside the tables the named fields, spelt as the manual spells them (MEAS_CTL.RUN, SLT_STAT.STATE k).
A 64-bit pair (R6) is one row marked wide, its value homed at the low word's address. -/

set_option Elab.async false

namespace Sys2Proof.Machine

/-- Access codes of Table 0.4. -/
inductive Access where
  | ro | rw | w1c | w1s | wo | rc | rwm | rwt
  deriving DecidableEq, Repr

/-- What a register stores when it is written a value outside its range; each row of the register tables says which. -/
inductive Limit where
  | any
  | clamp (lo hi : Nat)
  | clampEven (lo hi : Nat)
  | even
  | only (lo hi : Nat)
  | signedMag (m : Nat)
  | threeOrFive
  | renew
  | peerCycle
  | watchdog
  | laneRate
  deriving DecidableEq, Repr

/-- Where a field's reset value comes from: a number the table prints, a value it computes from the register's index,
or nothing stated by the spec (DESIGN CHOICE, log 3: the row carries the model's value, 0 but for the store bank's figures
that R494 and R495 give for a new bank). -/
inductive ResetRule where
  | const (n : Nat)
  | notStated (model : Nat)
  | clkDomDiv | swcAttMin | swcLossless | swcHdrm | wflShift | wflFixed | wflDin | cluPart
  deriving DecidableEq, Repr

/-- One field of a register table; `own` marks a field whose write is a row of the opcode table of its own. -/
structure FieldRow where
  name : String
  hi : Nat
  lo : Nat
  acc : Access
  reset : ResetRule
  lim : Limit
  own : Bool
  deriving DecidableEq, Repr

/-- One register row: its offset in the block, up to two index dimensions (count, stride), whether it is a 64-bit pair. -/
structure RegRow where
  name : String
  off : Nat
  dims : List (Nat × Nat)
  wide : Bool
  fields : List FieldRow
  deriving DecidableEq, Repr

/-- One entry of Table 0.6: block name, first block number n, number of instances, its registers. -/
structure BlockRow where
  name : String
  n : Nat
  count : Nat
  regs : List RegRow
  deriving DecidableEq, Repr

/-- A field of a register: the register's address (of the low word for a pair) and the bit range [hi:lo]. -/
structure Fld where
  addr : Nat
  hi : Nat
  lo : Nat
  deriving DecidableEq, Repr

/-- R13: the address of offset `off` in register block `n`. A block has 64 KiB: no index reaches past its end. -/
def blockAddr (n off : Nat) : Nat := 0x00F000000000 + n * 0x10000 + off % 0x10000


/-- Registers of SYS_ (00_scope.md). -/
def tableSYS : List RegRow :=
  [⟨"SYS_ID", 0x0000, [], false, [⟨"PART", 31, 16, .ro, (.const 18582), .any, false⟩, ⟨"STEP", 15, 8, .ro, (.const 11), .any, false⟩]⟩,
   ⟨"SYS_BUILD", 0x0004, [], false, [⟨"VALUE", 31, 0, .ro, (.const 1127039565), .any, false⟩]⟩]


/-- Registers of CLK_ (02_measure_and_clocks.md). -/
def tableCLK : List RegRow :=
  [⟨"CLK_STAT", 0x0000, [], false, [⟨"PLL_LOCK", 31, 31, .ro, (.const 0), .any, false⟩, ⟨"ROOT_OK", 30, 30, .ro, (.const 0), .any, false⟩]⟩,
   ⟨"CLK_DOM", 0x0100, [(25, 0x4)], false, [⟨"RUN", 31, 31, .ro, (.const 0), .any, false⟩, ⟨"GATED", 30, 30, .ro, (.const 0), .any, false⟩, ⟨"DIV", 15, 0, .ro, .clkDomDiv, .any, false⟩]⟩]


/-- Registers of MEAS_ (02_measure_and_clocks.md). -/
def tableMEAS : List RegRow :=
  [⟨"MEAS_CTL", 0x0000, [], false, [⟨"RUN", 31, 31, .w1s, (.const 0), .any, true⟩, ⟨"SRC", 7, 4, .rw, (.const 0), (.only 0 4), true⟩, ⟨"MLEN", 2, 0, .ro, (.const 1), .any, false⟩]⟩,
   ⟨"MEAS_STAT", 0x0004, [], false, [⟨"STATE", 31, 29, .ro, (.const 0), .any, false⟩, ⟨"STEP_REJ", 28, 28, .w1c, (.const 0), .any, false⟩, ⟨"MISSED", 27, 27, .w1c, (.const 0), .any, false⟩, ⟨"INTOL", 4, 0, .ro, (.const 0), .any, false⟩]⟩,
   ⟨"MEAS_TOL", 0x0008, [], false, [⟨"TOL", 15, 0, .rw, (.const 1000), (.clamp 1 65535), false⟩]⟩,
   ⟨"MEAS_HOLD", 0x000c, [], false, [⟨"HOLD", 15, 0, .rw, (.const 2000), (.clamp 250 60000), false⟩]⟩,
   ⟨"MEAS_TIME", 0x0010, [], true, [⟨"V", 63, 0, .ro, (.const 0), .any, false⟩]⟩,
   ⟨"MEAS_NUM", 0x0018, [], true, [⟨"V", 63, 0, .ro, (.const 0), .any, false⟩]⟩,
   ⟨"MEAS_RATE", 0x0020, [], false, [⟨"RATE", 31, 0, .rw, (.const 0), (.signedMag 549755813), false⟩]⟩,
   ⟨"MEAS_OFFS", 0x0024, [], false, [⟨"OFFS", 31, 0, .rw, (.notStated 0), .any, true⟩]⟩,
   ⟨"MEAS_STEP", 0x0028, [], true, [⟨"V", 63, 0, .wo, (.const 0), .any, true⟩]⟩]


/-- Registers of QPC_ (05_rdma_transport.md). -/
def tableQPC : List RegRow :=
  [⟨"QPC_CTL", 0x0000, [], false, [⟨"SVC_PORT", 31, 16, .rw, (.const 4420), .any, false⟩]⟩,
   ⟨"QPC_STAT", 0x0004, [], false, [⟨"INUSE", 16, 0, .ro, (.const 0), .any, false⟩]⟩,
   ⟨"QPC_CMD", 0x0008, [], false, [⟨"BUSY", 31, 31, .ro, (.const 0), .any, false⟩, ⟨"STATUS", 23, 16, .ro, (.const 0), .any, false⟩, ⟨"OP", 3, 0, .wo, (.const 0), .any, true⟩]⟩,
   ⟨"QPC_CMD_IDX", 0x000c, [], false, [⟨"IDX", 16, 0, .rw, (.const 0), .any, false⟩]⟩,
   ⟨"QPC_CMD_ADDR", 0x0010, [], true, [⟨"V", 63, 0, .rw, (.const 0), .any, false⟩]⟩,
   ⟨"QPC_DB", 0x0018, [], false, [⟨"INDEX", 31, 15, .wo, (.const 0), .any, true⟩, ⟨"TAIL", 14, 0, .wo, (.const 0), .any, true⟩]⟩,
   ⟨"QPC_RC0", 0x0020, [], false, [⟨"CUT", 7, 0, .rwm, (.const 64), .any, false⟩]⟩,
   ⟨"QPC_RC1", 0x0024, [], false, [⟨"STEP_T", 31, 16, .rwm, (.const 50), .any, false⟩, ⟨"CUT_HOLD", 15, 0, .rwm, (.const 50), .any, false⟩]⟩,
   ⟨"QPC_RC2", 0x0028, [], false, [⟨"ADD", 19, 0, .rwm, (.const 4000), .any, false⟩]⟩,
   ⟨"QPC_RC3", 0x002c, [], false, [⟨"RMIN", 19, 0, .rwm, (.const 1000), .any, false⟩]⟩,
   ⟨"QPC_CNP", 0x0030, [], false, [⟨"CLASS", 26, 24, .rwm, (.const 6), .any, false⟩, ⟨"DSCP", 21, 16, .rwm, (.const 48), .any, false⟩, ⟨"GAP", 15, 0, .rwm, (.const 50), .any, false⟩]⟩,
   ⟨"QPC_DEF", 0x0034, [], false, [⟨"RNR_TMR", 20, 16, .rw, (.const 12), .any, false⟩, ⟨"RNR_RETRY", 14, 12, .rw, (.const 7), .any, false⟩, ⟨"RETRY", 10, 8, .rw, (.const 7), .any, false⟩, ⟨"ACK_TMO", 4, 0, .rw, (.const 14), .any, false⟩]⟩] ++
  [⟨"QPC_HIT", 0x0100, [], true, [⟨"V", 63, 0, .ro, (.const 0), .any, false⟩]⟩,
   ⟨"QPC_MISS", 0x0108, [], true, [⟨"V", 63, 0, .ro, (.const 0), .any, false⟩]⟩,
   ⟨"QPC_STALL_NS", 0x0110, [], true, [⟨"V", 63, 0, .ro, (.const 0), .any, false⟩]⟩,
   ⟨"QPC_DROP", 0x0118, [], true, [⟨"V", 63, 0, .ro, (.const 0), .any, false⟩]⟩,
   ⟨"QPC_DUP", 0x0120, [], true, [⟨"V", 63, 0, .ro, (.const 0), .any, false⟩]⟩,
   ⟨"QPC_CNP_RX", 0x0128, [], true, [⟨"V", 63, 0, .ro, (.const 0), .any, false⟩]⟩,
   ⟨"QPC_CNP_TX", 0x0130, [], true, [⟨"V", 63, 0, .ro, (.const 0), .any, false⟩]⟩,
   ⟨"QPC_RETRANS", 0x0138, [], true, [⟨"V", 63, 0, .ro, (.const 0), .any, false⟩]⟩]


/-- Registers of SWC_ (06_switch_core.md). -/
def tableSWC : List RegRow :=
  [⟨"SWC_CTL", 0x0000, [], false, [⟨"CT_EN", 0, 0, .rwm, (.const 1), .any, false⟩]⟩,
   ⟨"SWC_STAT", 0x0004, [], false, [⟨"POOL_REJ", 5, 5, .w1c, (.const 0), .any, false⟩, ⟨"WD", 4, 4, .w1c, (.const 0), .any, false⟩, ⟨"HDRM_EXH", 3, 3, .w1c, (.const 0), .any, false⟩, ⟨"SEQ_OVF", 2, 2, .w1c, (.const 0), .any, false⟩, ⟨"FT_BUSY", 1, 1, .w1c, (.const 0), .any, false⟩, ⟨"DRAINED", 0, 0, .w1c, (.const 0), .any, false⟩]⟩,
   ⟨"SWC_FREE", 0x0008, [], false, [⟨"FREE", 19, 0, .ro, (.const 524288), .any, false⟩]⟩,
   ⟨"SWC_DESC_FREE", 0x000c, [], false, [⟨"FREE", 18, 0, .ro, (.const 262144), .any, false⟩]⟩,
   ⟨"SWC_EPOCH", 0x0010, [], false, [⟨"DRAIN_PEND", 31, 31, .ro, (.const 0), .any, false⟩, ⟨"ARMED", 30, 30, .ro, (.const 0), .any, false⟩, ⟨"CUR", 15, 0, .ro, (.const 0), .any, false⟩]⟩,
   ⟨"SWC_EPOCH_TGT", 0x0014, [], true, [⟨"V", 63, 0, .rw, (.const 0), .any, true⟩]⟩,
   ⟨"SWC_FT_CMD", 0x0020, [], false, [⟨"BUSY", 31, 31, .ro, (.const 0), .any, false⟩, ⟨"OP", 17, 16, .wo, (.const 0), .any, true⟩, ⟨"IDX", 9, 0, .rw, (.const 0), .any, false⟩]⟩,
   ⟨"SWC_FT_DATA", 0x0024, [(4, 0x4)], false, [⟨"DATA", 31, 0, .rw, (.const 0), .any, false⟩]⟩,
   ⟨"SWC_RSQ", 0x0040, [], false, [⟨"TMO", 15, 0, .rwm, (.const 50), .any, false⟩]⟩,
   ⟨"SWC_PFCWD", 0x0044, [], false, [⟨"TIME", 15, 0, .rwm, (.const 100), (.clamp 10 10000), false⟩]⟩,
   ⟨"SWC_ATT_MIN", 0x0100, [(12, 0x8)], false, [⟨"CELLS", 19, 0, .rwm, .swcAttMin, .any, false⟩]⟩,
   ⟨"SWC_ATT_MAX", 0x0104, [(12, 0x8)], false, [⟨"CELLS", 19, 0, .rwm, (.const 131072), .any, false⟩]⟩] ++
  [⟨"SWC_PFC", 0x0200, [(4, 0x20), (8, 0x4)], false, [⟨"LOSSLESS", 31, 31, .rwm, .swcLossless, .any, false⟩, ⟨"ALPHA", 27, 24, .rwm, (.const 5), (.clamp 0 9), false⟩, ⟨"XON_OFF", 19, 0, .rwm, (.const 256), .any, false⟩]⟩,
   ⟨"SWC_HDRM", 0x0300, [(4, 0x20), (8, 0x4)], false, [⟨"CELLS", 19, 0, .rwm, .swcHdrm, .any, false⟩]⟩,
   ⟨"SWC_ECN", 0x0400, [(8, 0x4)], false, [⟨"PMAX", 31, 24, .rwm, (.const 51), .any, false⟩, ⟨"KMAX", 23, 12, .rwm, (.const 100), .any, false⟩, ⟨"KMIN", 11, 0, .rwm, (.const 10), .any, false⟩]⟩,
   ⟨"SWC_CELLS_W", 0x0800, [], true, [⟨"V", 63, 0, .ro, (.const 0), .any, false⟩]⟩,
   ⟨"SWC_CELLS_R", 0x0808, [], true, [⟨"V", 63, 0, .ro, (.const 0), .any, false⟩]⟩,
   ⟨"SWC_STOMP", 0x0810, [], true, [⟨"V", 63, 0, .ro, (.const 0), .any, false⟩]⟩,
   ⟨"SWC_POISON", 0x0818, [], true, [⟨"V", 63, 0, .ro, (.const 0), .any, false⟩]⟩,
   ⟨"SWC_UNDERRUN", 0x0820, [], true, [⟨"V", 63, 0, .ro, (.const 0), .any, false⟩]⟩,
   ⟨"SWC_DROP_LOSSY", 0x0828, [], true, [⟨"V", 63, 0, .ro, (.const 0), .any, false⟩]⟩,
   ⟨"SWC_DROP_HDRM", 0x0830, [], true, [⟨"V", 63, 0, .ro, (.const 0), .any, false⟩]⟩,
   ⟨"SWC_DROP_NOMATCH", 0x0838, [], true, [⟨"V", 63, 0, .ro, (.const 0), .any, false⟩]⟩,
   ⟨"SWC_DROP_WD", 0x0840, [], true, [⟨"V", 63, 0, .ro, (.const 0), .any, false⟩]⟩] ++
  [⟨"SWC_ECN_MARK", 0x0848, [], true, [⟨"V", 63, 0, .ro, (.const 0), .any, false⟩]⟩,
   ⟨"SWC_RSQ_SKIP", 0x0850, [], true, [⟨"V", 63, 0, .ro, (.const 0), .any, false⟩]⟩,
   ⟨"SWC_RSQ_TMO", 0x0858, [], true, [⟨"V", 63, 0, .ro, (.const 0), .any, false⟩]⟩,
   ⟨"SWC_SEQ_OVF", 0x0860, [], true, [⟨"V", 63, 0, .ro, (.const 0), .any, false⟩]⟩,
   ⟨"SWC_BANK_WAIT_MAX", 0x0868, [], false, [⟨"WAIT", 7, 0, .rc, (.const 0), .any, false⟩]⟩]


/-- Registers of NET_ (07_gates_and_shapers.md). -/
def tableNET : List RegRow :=
  [⟨"NET_GCTL", 0x0000, [], false, [⟨"EN", 0, 0, .rwm, (.const 0), .any, false⟩]⟩,
   ⟨"NET_GSTAT", 0x0004, [], false, [⟨"ARMED", 31, 31, .ro, (.const 0), .any, false⟩, ⟨"MISSED", 30, 30, .w1c, (.const 0), .any, false⟩, ⟨"OVERSIZE", 29, 29, .w1c, (.const 0), .any, false⟩, ⟨"OPEN", 7, 0, .ro, (.const 255), .any, false⟩]⟩,
   ⟨"NET_GCYCLE", 0x0008, [], false, [⟨"NS", 31, 0, .rw, (.const 1000000), (.clampEven 1000 1000000000), false⟩]⟩,
   ⟨"NET_GCYCLE_ACT", 0x000c, [], false, [⟨"NS", 31, 0, .ro, (.notStated 0), .any, false⟩]⟩,
   ⟨"NET_GTGT", 0x0010, [], true, [⟨"V", 63, 0, .rw, (.const 0), .any, true⟩]⟩,
   ⟨"NET_GMAXF", 0x0018, [], false, [⟨"BYTES", 13, 0, .rw, (.const 9238), .any, false⟩]⟩,
   ⟨"NET_ARB", 0x0020, [], false, [⟨"LEAF", 0, 0, .rwm, (.const 0), .any, false⟩]⟩,
   ⟨"NET_WHEEL", 0x0024, [], false, [⟨"EN", 31, 31, .rwm, (.const 0), .any, false⟩, ⟨"FILL", 30, 30, .rwm, (.const 0), .any, false⟩, ⟨"LEN", 25, 16, .rwm, (.const 1023), .any, false⟩, ⟨"SLOT_NS", 15, 0, .rwm, (.const 1000), (.clamp 100 65535), false⟩]⟩,
   ⟨"NET_QPS", 0x0028, [], false, [⟨"BURST", 19, 0, .rwm, (.const 16384), .any, false⟩]⟩,
   ⟨"NET_TGW", 0x0100, [(64, 0x4)], false, [⟨"WEIGHT", 7, 0, .rwm, (.const 16), (.clamp 1 255), false⟩]⟩,
   ⟨"NET_CBS", 0x0400, [(8, 0x20), (8, 0x4)], false, [⟨"EN", 31, 31, .rwm, (.const 0), .any, false⟩, ⟨"IDLE", 19, 0, .rwm, (.const 0), .laneRate, false⟩]⟩,
   ⟨"NET_GCL_S0", 0x1000, [(256, 0x8)], false, [⟨"GATES", 7, 0, .rw, (.const 0), .any, false⟩]⟩] ++
  [⟨"NET_GCL_S1", 0x1004, [(256, 0x8)], false, [⟨"INTERVAL", 31, 0, .rw, (.const 0), .even, false⟩]⟩,
   ⟨"NET_GCL_A0", 0x1800, [(256, 0x8)], false, [⟨"GATES", 7, 0, .ro, (.notStated 0), .any, false⟩]⟩,
   ⟨"NET_GCL_A1", 0x1804, [(256, 0x8)], false, [⟨"INTERVAL", 31, 0, .ro, (.notStated 0), .any, false⟩]⟩,
   ⟨"NET_WHL", 0x2000, [(1024, 0x4)], false, [⟨"GROUP", 7, 0, .rwm, (.const 255), .any, false⟩]⟩,
   ⟨"NET_OVERSIZE", 0x3000, [], true, [⟨"V", 63, 0, .ro, (.const 0), .any, false⟩]⟩,
   ⟨"NET_OVERRUN", 0x3008, [], true, [⟨"V", 63, 0, .ro, (.const 0), .any, false⟩]⟩,
   ⟨"NET_GUARD_NS", 0x3010, [], true, [⟨"V", 63, 0, .ro, (.const 0), .any, false⟩]⟩,
   ⟨"NET_SWITCHES", 0x3018, [], true, [⟨"V", 63, 0, .ro, (.const 0), .any, false⟩]⟩]


/-- Registers of QDL_ (08_quadrille_layout.md). -/
def tableQDL : List RegRow :=
  [⟨"QDL_STAT", 0x0000, [], false, [⟨"OPEN", 25, 16, .ro, (.const 0), .any, false⟩, ⟨"DEFER", 7, 0, .ro, (.const 0), .any, false⟩]⟩,
   ⟨"QDL_JSTAT", 0x0004, [], false, [⟨"LIVE", 18, 0, .ro, (.const 0), .any, false⟩]⟩,
   ⟨"QDL_OPEN", 0x0008, [], false, [⟨"IDLE", 31, 24, .rwm, (.const 4), (.clamp 1 255), false⟩, ⟨"DMAX", 23, 16, .rwm, (.const 64), (.clamp 1 128), false⟩, ⟨"MAX", 9, 0, .rwm, (.const 256), (.clamp 16 512), false⟩]⟩,
   ⟨"QDL_FIG_CMD", 0x0010, [], false, [⟨"BUSY", 31, 31, .ro, (.const 0), .any, false⟩, ⟨"STATUS", 27, 24, .ro, (.const 0), .any, false⟩, ⟨"OP", 23, 22, .wo, (.const 0), .any, true⟩, ⟨"SET", 20, 19, .rw, (.const 0), .any, false⟩, ⟨"ROW", 11, 0, .rw, (.const 0), .any, false⟩]⟩,
   ⟨"QDL_FIG_DATA", 0x0040, [(16, 0x4)], false, [⟨"DATA", 31, 0, .rw, (.const 0), .any, false⟩]⟩,
   ⟨"QDL_CLOSE_FULL", 0x0100, [], true, [⟨"V", 63, 0, .ro, (.const 0), .any, false⟩]⟩,
   ⟨"QDL_CLOSE_RECON", 0x0108, [], true, [⟨"V", 63, 0, .ro, (.const 0), .any, false⟩]⟩,
   ⟨"QDL_CLOSE_RMW", 0x0110, [], true, [⟨"V", 63, 0, .ro, (.const 0), .any, false⟩]⟩,
   ⟨"QDL_CLOSE_ZERO", 0x0118, [], true, [⟨"V", 63, 0, .ro, (.const 0), .any, false⟩]⟩,
   ⟨"QDL_DEGRADED_RD", 0x0120, [], true, [⟨"V", 63, 0, .ro, (.const 0), .any, false⟩]⟩,
   ⟨"QDL_CHK_GUARD", 0x0128, [], true, [⟨"V", 63, 0, .ro, (.const 0), .any, false⟩]⟩,
   ⟨"QDL_CHK_REF", 0x0130, [], true, [⟨"V", 63, 0, .ro, (.const 0), .any, false⟩]⟩] ++
  [⟨"QDL_CHK_GEN", 0x0138, [], true, [⟨"V", 63, 0, .ro, (.const 0), .any, false⟩]⟩,
   ⟨"QDL_JBLK_W", 0x0140, [], true, [⟨"V", 63, 0, .ro, (.const 0), .any, false⟩]⟩,
   ⟨"QDL_GEOM", 0x1000, [(4, 0x100)], false, [⟨"VALID", 31, 31, .ro, (.const 0), .any, false⟩, ⟨"NMEM", 29, 24, .ro, (.const 0), .any, false⟩, ⟨"KDATA", 20, 16, .ro, (.const 0), .any, false⟩, ⟨"MPAR", 13, 12, .ro, (.const 0), .any, false⟩, ⟨"SPARE", 10, 8, .ro, (.const 0), .any, false⟩, ⟨"BLOCKS", 6, 0, .ro, (.const 0), .any, false⟩]⟩,
   ⟨"QDL_GEOM_NEXT", 0x1004, [(4, 0x100)], false, [⟨"VALID", 31, 31, .rw, (.const 0), .any, false⟩, ⟨"NMEM", 29, 24, .rw, (.const 0), .any, false⟩, ⟨"KDATA", 20, 16, .rw, (.const 0), .any, false⟩, ⟨"MPAR", 13, 12, .rw, (.const 0), .any, false⟩, ⟨"SPARE", 10, 8, .rw, (.const 0), .any, false⟩, ⟨"BLOCKS", 6, 0, .rw, (.const 0), .any, false⟩]⟩,
   ⟨"QDL_GEN", 0x1008, [(4, 0x100)], false, [⟨"GEN_NEXT", 31, 16, .rw, (.const 0), .any, false⟩, ⟨"GEN", 15, 0, .ro, (.const 0), .any, false⟩]⟩,
   ⟨"QDL_JDRV", 0x100c, [(4, 0x100)], false, [⟨"V2", 31, 31, .rwm, (.const 0), .any, false⟩, ⟨"V1", 30, 30, .rwm, (.const 0), .any, false⟩, ⟨"V0", 29, 29, .rwm, (.const 0), .any, false⟩, ⟨"J2", 21, 16, .rwm, (.const 0), .any, false⟩, ⟨"J1", 13, 8, .rwm, (.const 0), .any, false⟩, ⟨"J0", 5, 0, .rwm, (.const 0), .any, false⟩]⟩,
   ⟨"QDL_CAP", 0x1010, [(4, 0x100)], true, [⟨"V", 63, 0, .ro, (.const 0), .any, false⟩]⟩,
   ⟨"QDL_SLICES", 0x1018, [(4, 0x100)], false, [⟨"SLICES", 31, 0, .ro, (.const 0), .any, false⟩]⟩,
   ⟨"QDL_HT", 0x101c, [(4, 0x100)], false, [⟨"T", 15, 8, .ro, (.const 0), .any, false⟩, ⟨"H", 4, 0, .ro, (.const 0), .any, false⟩]⟩,
   ⟨"QDL_SUB", 0x1020, [(4, 0x100), (4, 0x4)], false, [⟨"VALID", 31, 31, .rwm, (.const 0), .any, false⟩, ⟨"STATE", 30, 29, .rwm, (.const 0), .any, false⟩, ⟨"MEMBER", 5, 0, .rwm, (.const 0), .any, false⟩]⟩,
   ⟨"QDL_MEM", 0x1040, [(4, 0x100), (48, 0x4)], false, [⟨"VALID", 31, 31, .rwm, (.const 0), .any, false⟩, ⟨"FAILED", 30, 30, .ro, (.const 0), .any, false⟩, ⟨"SLOT", 5, 0, .rwm, (.const 0), .any, false⟩]⟩]


/-- Registers of RBD_ (09_rebuild_and_promenade.md). -/
def tableRBD : List RegRow :=
  [⟨"RBD_CTL", 0x0000, [], false, [⟨"SCRUB_EN", 31, 31, .rwm, (.const 1), .any, false⟩, ⟨"REPAIR_EN", 30, 30, .rwm, (.const 1), .any, false⟩]⟩,
   ⟨"RBD_RATE", 0x0004, [], false, [⟨"FULL", 23, 16, .rwm, (.const 40), (.clamp 1 255), false⟩, ⟨"RAISED", 15, 8, .rwm, (.const 20), (.clamp 1 255), false⟩, ⟨"BACKGROUND", 7, 0, .rwm, (.const 5), (.clamp 1 255), false⟩]⟩,
   ⟨"RBD_SCRUB", 0x0008, [], false, [⟨"SRATE", 31, 24, .rwm, (.const 25), (.clamp 1 255), false⟩, ⟨"PERIOD", 15, 0, .rwm, (.const 336), (.clamp 24 8760), false⟩]⟩,
   ⟨"RBD_PROM", 0x000c, [], false, [⟨"PRATE", 31, 24, .rwm, (.const 10), (.clamp 1 255), false⟩, ⟨"CATCH", 15, 8, .rwm, (.const 64), (.clamp 1 255), false⟩, ⟨"PAR", 2, 0, .rwm, (.const 4), (.clamp 1 7), false⟩]⟩,
   ⟨"RBD_PCMD", 0x0010, [], false, [⟨"BUSY", 31, 31, .ro, (.const 0), .any, false⟩, ⟨"STATUS", 27, 24, .ro, (.const 0), .any, false⟩, ⟨"OP", 23, 22, .wo, (.const 0), .any, true⟩, ⟨"SET", 20, 19, .rw, (.const 0), .any, false⟩]⟩,
   ⟨"RBD_LOST", 0x0014, [], false, [⟨"FULL", 31, 31, .ro, (.const 0), .any, false⟩, ⟨"USED", 15, 0, .ro, (.const 0), .any, false⟩]⟩,
   ⟨"RBD_STRIPES", 0x0100, [], true, [⟨"V", 63, 0, .ro, (.const 0), .any, false⟩]⟩,
   ⟨"RBD_SKIPPED", 0x0108, [], true, [⟨"V", 63, 0, .ro, (.const 0), .any, false⟩]⟩,
   ⟨"RBD_REPAIRS", 0x0110, [], true, [⟨"V", 63, 0, .ro, (.const 0), .any, false⟩]⟩,
   ⟨"RBD_MARKS", 0x0118, [], true, [⟨"V", 63, 0, .ro, (.const 0), .any, false⟩]⟩,
   ⟨"RBD_CLEARS", 0x0120, [], true, [⟨"V", 63, 0, .ro, (.const 0), .any, false⟩]⟩,
   ⟨"RBD_SCRUB_STRIPES", 0x0128, [], true, [⟨"V", 63, 0, .ro, (.const 0), .any, false⟩]⟩] ++
  [⟨"RBD_SCRUB_PARFIX", 0x0130, [], true, [⟨"V", 63, 0, .ro, (.const 0), .any, false⟩]⟩,
   ⟨"RBD_PROM_STRIPES", 0x0138, [], true, [⟨"V", 63, 0, .ro, (.const 0), .any, false⟩]⟩,
   ⟨"RBD_SSTAT", 0x1000, [(4, 0x100)], false, [⟨"PROM", 27, 26, .ro, (.const 0), .any, false⟩, ⟨"PRIO", 25, 24, .ro, (.const 0), .any, false⟩, ⟨"FAILED", 21, 20, .ro, (.const 0), .any, false⟩, ⟨"STATE", 18, 16, .ro, (.const 0), .any, false⟩]⟩,
   ⟨"RBD_DONE", 0x1008, [(4, 0x100)], true, [⟨"V", 63, 0, .ro, (.const 0), .any, false⟩]⟩,
   ⟨"RBD_TOTAL", 0x1010, [(4, 0x100)], true, [⟨"V", 63, 0, .ro, (.const 0), .any, false⟩]⟩,
   ⟨"RBD_CPOS", 0x1018, [(4, 0x100)], true, [⟨"V", 63, 0, .ro, (.const 0), .any, false⟩]⟩,
   ⟨"RBD_SPOS", 0x1020, [(4, 0x100)], true, [⟨"V", 63, 0, .ro, (.const 0), .any, false⟩]⟩,
   ⟨"RBD_PEXT_DONE", 0x1028, [(4, 0x100)], false, [⟨"N", 27, 0, .ro, (.const 0), .any, false⟩]⟩,
   ⟨"RBD_PEXT_TOTAL", 0x102c, [(4, 0x100)], false, [⟨"N", 27, 0, .ro, (.const 0), .any, false⟩]⟩]


/-- Registers of NRG_ (10_cache_energy_and_vault.md). -/
def tableNRG : List RegRow :=
  [⟨"NRG_STAT", 0x0000, [], false, [⟨"STATE", 31, 29, .ro, (.const 0), .any, false⟩, ⟨"HEALTH", 28, 27, .ro, (.const 0), .any, false⟩, ⟨"COVER", 26, 26, .ro, (.const 0), .any, false⟩, ⟨"OVERDUE", 25, 25, .ro, (.const 0), .any, false⟩, ⟨"DERATE", 24, 24, .ro, (.const 0), .any, false⟩]⟩,
   ⟨"NRG_EUSE", 0x0004, [], false, [⟨"MJ", 19, 0, .ro, (.const 0), .any, false⟩]⟩,
   ⟨"NRG_EFULL", 0x0008, [], false, [⟨"MJ", 19, 0, .ro, (.notStated 320000), .any, false⟩]⟩,
   ⟨"NRG_TEMP", 0x000c, [], false, [⟨"C", 7, 0, .ro, (.const 0), .any, false⟩]⟩,
   ⟨"NRG_CFG", 0x0010, [], false, [⟨"CHG_W", 20, 16, .rw, (.const 30), (.clamp 5 30), false⟩, ⟨"TEST_DAYS", 7, 0, .rw, (.const 30), (.clamp 7 90), false⟩]⟩,
   ⟨"NRG_CMD", 0x0014, [], false, [⟨"TEST", 0, 0, .wo, (.const 0), .any, true⟩]⟩,
   ⟨"NRG_LASTTEST", 0x0018, [], true, [⟨"V", 63, 0, .ro, (.const 0), .any, false⟩]⟩,
   ⟨"NRG_CHARGE_MJ", 0x0100, [], true, [⟨"V", 63, 0, .ro, (.const 0), .any, false⟩]⟩,
   ⟨"NRG_TESTS", 0x0108, [], true, [⟨"V", 63, 0, .ro, (.const 0), .any, false⟩]⟩,
   ⟨"NRG_DISCHARGES", 0x0110, [], true, [⟨"V", 63, 0, .ro, (.const 0), .any, false⟩]⟩]


/-- Registers of VLT_ (10_cache_energy_and_vault.md). -/
def tableVLT : List RegRow :=
  [⟨"VLT_STAT", 0x0000, [], false, [⟨"STATE", 31, 29, .ro, (.const 0), .any, false⟩, ⟨"AREA", 28, 28, .ro, (.const 0), .any, false⟩, ⟨"PARTIAL", 27, 27, .w1c, (.const 0), .any, false⟩, ⟨"LIMITED", 26, 26, .ro, (.const 0), .any, false⟩, ⟨"WAITING", 25, 25, .ro, (.const 0), .any, false⟩]⟩,
   ⟨"VLT_CFG", 0x0004, [], false, [⟨"WTA", 13, 8, .rwm, (.const 2), (.clamp 1 8), false⟩, ⟨"DCFG", 5, 0, .rwm, (.const 32), (.clamp 1 32), false⟩]⟩,
   ⟨"VLT_CEIL", 0x0008, [], false, [⟨"D", 23, 0, .ro, (.const 0), .any, false⟩]⟩,
   ⟨"VLT_DEN", 0x000c, [], false, [⟨"D", 24, 0, .ro, (.const 0), .any, false⟩]⟩,
   ⟨"VLT_DIRTY", 0x0010, [], false, [⟨"N", 23, 0, .ro, (.const 0), .any, false⟩]⟩,
   ⟨"VLT_WTHELD", 0x0014, [], false, [⟨"N", 23, 0, .ro, (.const 0), .any, false⟩]⟩,
   ⟨"VLT_MIRROR", 0x0018, [], false, [⟨"N", 23, 0, .ro, (.const 0), .any, false⟩]⟩,
   ⟨"VLT_MAPDIRTY", 0x001c, [], false, [⟨"N", 19, 0, .ro, (.const 0), .any, false⟩]⟩,
   ⟨"VLT_ISEQ", 0x0020, [], true, [⟨"V", 63, 0, .ro, (.const 0), .any, false⟩]⟩,
   ⟨"VLT_DESTAGES", 0x0100, [], true, [⟨"V", 63, 0, .ro, (.const 0), .any, false⟩]⟩,
   ⟨"VLT_RESTORES", 0x0108, [], true, [⟨"V", 63, 0, .ro, (.const 0), .any, false⟩]⟩,
   ⟨"VLT_ROOM_WAITS", 0x0110, [], true, [⟨"V", 63, 0, .ro, (.const 0), .any, false⟩]⟩] ++
  [⟨"VLT_ROOM_WAIT_NS", 0x0118, [], true, [⟨"V", 63, 0, .ro, (.const 0), .any, false⟩]⟩,
   ⟨"VLT_MODE_CHANGES", 0x0120, [], true, [⟨"V", 63, 0, .ro, (.const 0), .any, false⟩]⟩,
   ⟨"VLT_MAP_PAGES", 0x0128, [], true, [⟨"V", 63, 0, .ro, (.const 0), .any, false⟩]⟩]


/-- Registers of EZL_ (11_emzifen_link.md). -/
def tableEZL : List RegRow :=
  [⟨"EZL_STAT", 0x0000, [], false, [⟨"STATE", 31, 29, .ro, (.const 0), .any, false⟩, ⟨"WIDTH", 28, 27, .ro, (.const 0), .any, false⟩, ⟨"FOLLOW_LOST", 26, 26, .w1c, (.const 0), .any, false⟩, ⟨"NOPAIR", 25, 23, .ro, (.const 0), .any, false⟩, ⟨"JOINED", 7, 0, .ro, (.const 0), .any, false⟩]⟩,
   ⟨"EZL_CTL", 0x0004, [], false, [⟨"EN", 31, 31, .rw, (.const 1), .any, true⟩, ⟨"CTMO", 7, 0, .rwm, (.const 8), (.clamp 2 64), false⟩]⟩,
   ⟨"EZL_LANES", 0x0008, [], false, [⟨"LANES", 15, 0, .ro, (.const 0), .any, false⟩]⟩,
   ⟨"EZL_CSENT", 0x0010, [], true, [⟨"V", 63, 0, .ro, (.const 0), .any, false⟩]⟩,
   ⟨"EZL_CRCVD", 0x0018, [], true, [⟨"V", 63, 0, .ro, (.const 0), .any, false⟩]⟩,
   ⟨"EZL_RETAIN", 0x0020, [], false, [⟨"CELLS", 19, 0, .ro, (.const 0), .any, false⟩]⟩,
   ⟨"EZL_CH_BASE_LO", 0x0100, [(16, 0x10)], false, [⟨"BASE", 31, 21, .rw, (.const 0), .any, false⟩]⟩,
   ⟨"EZL_CH_BASE_HI", 0x0104, [(16, 0x10)], false, [⟨"OPEN", 31, 31, .rw, (.const 0), .any, false⟩, ⟨"BASE", 15, 0, .rw, (.const 0), .any, false⟩]⟩,
   ⟨"EZL_CH_RXPOST", 0x0108, [(16, 0x10)], false, [⟨"POST", 7, 0, .rw, (.const 0), .any, true⟩]⟩,
   ⟨"EZL_CH_TXPOST", 0x010c, [(16, 0x10)], false, [⟨"POST", 7, 0, .rw, (.const 0), .any, true⟩]⟩,
   ⟨"EZL_TX_FRAMES", 0x0800, [], true, [⟨"V", 63, 0, .ro, (.const 0), .any, false⟩]⟩,
   ⟨"EZL_RX_FRAMES", 0x0808, [], true, [⟨"V", 63, 0, .ro, (.const 0), .any, false⟩]⟩] ++
  [⟨"EZL_FEC_CORR", 0x0810, [], true, [⟨"V", 63, 0, .ro, (.const 0), .any, false⟩]⟩,
   ⟨"EZL_FEC_UNCORR", 0x0818, [], true, [⟨"V", 63, 0, .ro, (.const 0), .any, false⟩]⟩,
   ⟨"EZL_REPLAY", 0x0820, [], true, [⟨"V", 63, 0, .ro, (.const 0), .any, false⟩]⟩,
   ⟨"EZL_DUP", 0x0828, [], true, [⟨"V", 63, 0, .ro, (.const 0), .any, false⟩]⟩,
   ⟨"EZL_WIN_REJ", 0x0830, [], true, [⟨"V", 63, 0, .ro, (.const 0), .any, false⟩]⟩,
   ⟨"EZL_TAG_FAIL", 0x0838, [], true, [⟨"V", 63, 0, .ro, (.const 0), .any, false⟩]⟩,
   ⟨"EZL_RETRAIN", 0x0840, [], true, [⟨"V", 63, 0, .ro, (.const 0), .any, false⟩]⟩,
   ⟨"EZL_RESEND", 0x0848, [], true, [⟨"V", 63, 0, .ro, (.const 0), .any, false⟩]⟩,
   ⟨"EZL_WIN_BASE_LO", 0x1000, [(64, 0x10)], false, [⟨"BASE", 31, 12, .rwm, (.const 0), .any, false⟩]⟩,
   ⟨"EZL_WIN_BASE_HI", 0x1004, [(64, 0x10)], false, [⟨"BASE", 15, 0, .rwm, (.const 0), .any, false⟩]⟩,
   ⟨"EZL_WIN_LEN", 0x1008, [(64, 0x10)], false, [⟨"LEN", 31, 0, .rwm, (.const 0), .any, false⟩]⟩,
   ⟨"EZL_WIN_CTL", 0x100c, [(64, 0x10)], false, [⟨"VALID", 31, 31, .rwm, (.const 0), .any, false⟩, ⟨"WR", 30, 30, .rwm, (.const 0), .any, false⟩, ⟨"OWNER", 27, 24, .rwm, (.const 0), .any, false⟩, ⟨"KEY", 15, 0, .rwm, (.const 0), .any, false⟩]⟩]


/-- Registers of LTK_ (12_lead_token_and_cut_in.md). -/
def tableLTK : List RegRow :=
  [⟨"LTK_STAT", 0x0000, [], false, [⟨"LEAD", 31, 24, .ro, (.const 0), .any, false⟩, ⟨"CHANGE", 23, 16, .ro, (.const 0), .any, false⟩, ⟨"NOLEAD", 15, 8, .ro, (.const 0), .any, false⟩, ⟨"PLOSS", 7, 0, .ro, (.const 0), .any, false⟩]⟩,
   ⟨"LTK_CFG", 0x0004, [], false, [⟨"LEASE", 30, 24, .rwm, (.const 4), (.clamp 1 64), false⟩, ⟨"MISS", 23, 16, .rwm, (.const 16), (.clamp 4 255), false⟩, ⟨"RENEW", 15, 0, .rwm, (.const 1000), .renew, false⟩]⟩,
   ⟨"LTK_WIT", 0x0008, [], false, [⟨"W4", 29, 24, .rwm, (.const 0), .any, false⟩, ⟨"W3", 23, 18, .rwm, (.const 0), .any, false⟩, ⟨"W2", 17, 12, .rwm, (.const 0), .any, false⟩, ⟨"W1", 11, 6, .rwm, (.const 0), .any, false⟩, ⟨"W0", 5, 0, .rwm, (.const 0), .any, false⟩]⟩,
   ⟨"LTK_WITC", 0x000c, [], false, [⟨"COUNT", 10, 8, .rwm, (.const 3), (.threeOrFive), false⟩, ⟨"V", 4, 0, .rwm, (.const 0), .any, false⟩]⟩,
   ⟨"LTK_HOME", 0x0010, [], false, [⟨"HBDELAY", 31, 16, .rwm, (.const 100), .any, false⟩, ⟨"HBEN", 15, 8, .rwm, (.const 255), .any, false⟩, ⟨"HOME", 7, 0, .rwm, (.const 240), .any, false⟩]⟩,
   ⟨"LTK_CMD", 0x0014, [], false, [⟨"BUSY", 31, 31, .ro, (.const 0), .any, false⟩, ⟨"STATUS", 27, 24, .ro, (.const 0), .any, false⟩, ⟨"OP", 19, 16, .wo, (.const 0), .any, true⟩, ⟨"GROUP", 2, 0, .rw, (.const 0), .any, false⟩]⟩,
   ⟨"LTK_CSTAT", 0x0018, [], false, [⟨"GROUPS", 23, 16, .ro, (.const 0), .any, false⟩, ⟨"STATE", 2, 0, .ro, (.const 0), .any, false⟩]⟩,
   ⟨"LTK_TIMERS", 0x001c, [], false, [⟨"STEST", 31, 16, .rwm, (.const 60), (.clamp 10 3600), false⟩, ⟨"PCYC", 15, 0, .rwm, (.const 1000), .peerCycle, false⟩]⟩,
   ⟨"LTK_KEY", 0x0020, [], true, [⟨"V", 63, 0, .ro, (.const 0), .any, false⟩]⟩,
   ⟨"LTK_HEALTH", 0x0028, [], true, [⟨"V", 63, 0, .ro, (.const 0), .any, false⟩]⟩,
   ⟨"LTK_PHEALTH", 0x0030, [], true, [⟨"V", 63, 0, .ro, (.const 0), .any, false⟩]⟩,
   ⟨"LTK_EXP", 0x0040, [(8, 0x8)], true, [⟨"V", 63, 0, .ro, (.const 0), .any, false⟩]⟩] ++
  [⟨"LTK_RENEWS", 0x0100, [], true, [⟨"V", 63, 0, .ro, (.const 0), .any, false⟩]⟩,
   ⟨"LTK_RENEW_FAIL", 0x0108, [], true, [⟨"V", 63, 0, .ro, (.const 0), .any, false⟩]⟩,
   ⟨"LTK_CUTINS", 0x0110, [], true, [⟨"V", 63, 0, .ro, (.const 0), .any, false⟩]⟩,
   ⟨"LTK_HANDOVERS", 0x0118, [], true, [⟨"V", 63, 0, .ro, (.const 0), .any, false⟩]⟩,
   ⟨"LTK_WIT_ERR", 0x0120, [], true, [⟨"V", 63, 0, .ro, (.const 0), .any, false⟩]⟩,
   ⟨"LTK_STEST_FAIL", 0x0128, [], true, [⟨"V", 63, 0, .ro, (.const 0), .any, false⟩]⟩]


/-- Registers of SLT_ (13_drive_slots.md). -/
def tableSLT : List RegRow :=
  [⟨"SLT_STAT", 0x0000, [], false, [⟨"STATE", 31, 28, .ro, (.const 0), .any, false⟩, ⟨"PRSNT", 27, 27, .ro, (.const 0), .any, false⟩, ⟨"PWR_OWN", 26, 26, .ro, (.const 0), .any, false⟩, ⟨"PWR_NET", 25, 25, .ro, (.const 0), .any, false⟩, ⟨"ATTN", 24, 24, .ro, (.const 0), .any, false⟩, ⟨"REASON", 23, 20, .ro, (.const 0), .any, false⟩]⟩,
   ⟨"SLT_CTL", 0x0004, [], false, [⟨"ATTN_EN", 1, 1, .rw, (.const 1), .any, false⟩, ⟨"LOCATE", 0, 0, .rw, (.const 0), .any, false⟩]⟩,
   ⟨"SLT_EVT", 0x0008, [], false, [⟨"MI_FAIL", 7, 7, .w1c, (.const 0), .any, false⟩, ⟨"CANCEL", 6, 6, .w1c, (.const 0), .any, false⟩, ⟨"REMOVE_DONE", 5, 5, .w1c, (.const 0), .any, false⟩, ⟨"REFUSED", 4, 4, .w1c, (.const 0), .any, false⟩, ⟨"CONTAIN", 3, 3, .w1c, (.const 0), .any, false⟩, ⟨"ATTN_PRESS", 2, 2, .w1c, (.const 0), .any, false⟩, ⟨"LINK_CHG", 1, 1, .w1c, (.const 0), .any, false⟩, ⟨"PRSNT_CHG", 0, 0, .w1c, (.const 0), .any, false⟩]⟩,
   ⟨"SLT_LSTAT", 0x000c, [], false, [⟨"UP", 31, 31, .ro, (.const 0), .any, false⟩, ⟨"FLIT", 30, 30, .ro, (.const 0), .any, false⟩, ⟨"DEGRADED", 29, 29, .ro, (.const 0), .any, false⟩, ⟨"SPEED", 19, 16, .ro, (.const 0), .any, false⟩, ⟨"WIDTH", 1, 0, .ro, (.const 0), .any, false⟩]⟩,
   ⟨"SLT_CMD", 0x0010, [], false, [⟨"BUSY", 31, 31, .ro, (.const 0), .any, false⟩, ⟨"STATUS", 27, 24, .ro, (.const 0), .any, false⟩, ⟨"OP", 19, 16, .wo, (.const 0), .any, true⟩]⟩,
   ⟨"SLT_CFG", 0x0014, [], false, [⟨"CMD_TMO", 15, 0, .rw, (.const 2000), (.clamp 100 30000), false⟩]⟩,
   ⟨"SLT_MI", 0x0018, [], false, [⟨"MI_OK", 31, 31, .ro, (.const 0), .any, false⟩, ⟨"FLAGS", 23, 16, .ro, (.const 0), .any, false⟩, ⟨"WARN", 15, 8, .ro, (.const 0), .any, false⟩, ⟨"TEMP", 7, 0, .ro, (.const 0), .any, false⟩]⟩,
   ⟨"SLT_CMDS", 0x0100, [], true, [⟨"V", 63, 0, .ro, (.const 0), .any, false⟩]⟩,
   ⟨"SLT_RETRIES", 0x0108, [], true, [⟨"V", 63, 0, .ro, (.const 0), .any, false⟩]⟩,
   ⟨"SLT_TMO", 0x0110, [], true, [⟨"V", 63, 0, .ro, (.const 0), .any, false⟩]⟩,
   ⟨"SLT_CORR", 0x0118, [], true, [⟨"V", 63, 0, .ro, (.const 0), .any, false⟩]⟩,
   ⟨"SLT_UNCORR", 0x0120, [], true, [⟨"V", 63, 0, .ro, (.const 0), .any, false⟩]⟩] ++
  [⟨"SLT_DPC", 0x0128, [], true, [⟨"V", 63, 0, .ro, (.const 0), .any, false⟩]⟩,
   ⟨"SLT_MI_ERR", 0x0130, [], true, [⟨"V", 63, 0, .ro, (.const 0), .any, false⟩]⟩]


/-- Registers of DPT_ (14_direct_port.md). -/
def tableDPT : List RegRow :=
  [⟨"DPT_STAT", 0x0000, [], false, [⟨"UP", 31, 31, .ro, (.const 0), .any, false⟩, ⟨"FLIT", 30, 30, .ro, (.const 0), .any, false⟩, ⟨"DEGRADED", 29, 29, .ro, (.const 0), .any, false⟩, ⟨"PERST", 28, 28, .ro, (.const 1), .any, false⟩, ⟨"CBL", 27, 27, .ro, (.const 0), .any, false⟩, ⟨"WAKE", 26, 26, .ro, (.const 0), .any, false⟩, ⟨"SPEED", 19, 16, .ro, (.const 0), .any, false⟩, ⟨"WIDTH", 4, 0, .ro, (.const 0), .any, false⟩]⟩,
   ⟨"DPT_CTL", 0x0004, [], false, [⟨"EN", 31, 31, .rw, (.const 1), .any, false⟩]⟩,
   ⟨"DPT_FSTAT", 0x0008, [(2, 0x4)], false, [⟨"STATE", 31, 29, .ro, (.const 0), .any, false⟩, ⟨"BME", 28, 28, .ro, (.const 0), .any, false⟩, ⟨"LATCH", 27, 27, .ro, (.const 0), .any, false⟩, ⟨"TPEND", 26, 26, .ro, (.const 0), .any, false⟩, ⟨"DSTATE", 25, 24, .ro, (.const 0), .any, false⟩, ⟨"CAUSE", 23, 16, .ro, (.const 0), .any, false⟩, ⟨"OUTRD", 9, 0, .ro, (.const 0), .any, false⟩]⟩,
   ⟨"DPT_EVT", 0x0010, [], false, [⟨"WAKE", 7, 7, .w1c, (.const 0), .any, false⟩, ⟨"CTO", 6, 6, .w1c, (.const 0), .any, false⟩, ⟨"DISCARD", 5, 5, .w1c, (.const 0), .any, false⟩, ⟨"D3", 4, 4, .w1c, (.const 0), .any, false⟩, ⟨"BME_OFF", 3, 3, .w1c, (.const 0), .any, false⟩, ⟨"PERST", 2, 2, .w1c, (.const 0), .any, false⟩, ⟨"HOTRST", 1, 1, .w1c, (.const 0), .any, false⟩, ⟨"FLR", 0, 0, .w1c, (.const 0), .any, false⟩]⟩,
   ⟨"DPT_RD_REQ", 0x0100, [], true, [⟨"V", 63, 0, .ro, (.const 0), .any, false⟩]⟩,
   ⟨"DPT_WR_TLP", 0x0108, [], true, [⟨"V", 63, 0, .ro, (.const 0), .any, false⟩]⟩,
   ⟨"DPT_CPL_DISC", 0x0110, [], true, [⟨"V", 63, 0, .ro, (.const 0), .any, false⟩]⟩,
   ⟨"DPT_CTO", 0x0118, [], true, [⟨"V", 63, 0, .ro, (.const 0), .any, false⟩]⟩,
   ⟨"DPT_FLR", 0x0120, [], true, [⟨"V", 63, 0, .ro, (.const 0), .any, false⟩]⟩,
   ⟨"DPT_HOTRST", 0x0128, [], true, [⟨"V", 63, 0, .ro, (.const 0), .any, false⟩]⟩,
   ⟨"DPT_PERST", 0x0130, [], true, [⟨"V", 63, 0, .ro, (.const 0), .any, false⟩]⟩,
   ⟨"DPT_CORR", 0x0138, [], true, [⟨"V", 63, 0, .ro, (.const 0), .any, false⟩]⟩] ++
  [⟨"DPT_UNCORR", 0x0140, [], true, [⟨"V", 63, 0, .ro, (.const 0), .any, false⟩]⟩]


/-- Registers of EFU_ (15_power_entry.md). -/
def tableEFU : List RegRow :=
  [⟨"EFU_STAT", 0x0000, [], false, [⟨"STATE", 31, 28, .ro, (.const 4), .any, false⟩, ⟨"PG", 27, 27, .ro, (.const 1), .any, false⟩, ⟨"SEATA", 26, 26, .ro, (.const 1), .any, false⟩, ⟨"SEATB", 25, 25, .ro, (.const 1), .any, false⟩, ⟨"EN", 24, 24, .ro, (.const 1), .any, false⟩, ⟨"CYCIN", 23, 23, .ro, (.const 0), .any, false⟩, ⟨"LIMIT", 22, 22, .ro, (.const 0), .any, false⟩, ⟨"PCYC", 21, 21, .ro, (.const 0), .any, false⟩]⟩,
   ⟨"EFU_LAST", 0x0004, [], false, [⟨"CAUSE", 31, 28, .ro, (.const 0), .any, false⟩, ⟨"IPEAK", 23, 16, .ro, (.const 0), .any, false⟩, ⟨"VIN", 15, 0, .ro, (.const 0), .any, false⟩]⟩,
   ⟨"EFU_VIN", 0x0008, [], false, [⟨"MV", 15, 0, .ro, (.notStated 0), .any, false⟩]⟩,
   ⟨"EFU_IIN", 0x000c, [], false, [⟨"MA", 15, 0, .ro, (.notStated 0), .any, false⟩]⟩,
   ⟨"EFU_CFG", 0x0010, [], false, [⟨"PEER_EN", 31, 31, .rw, (.const 1), .any, false⟩, ⟨"OFF_MS", 15, 0, .rw, (.const 500), (.clamp 100 5000), false⟩]⟩,
   ⟨"EFU_CMD", 0x0014, [], false, [⟨"CYCLE", 0, 0, .wo, (.const 0), .any, true⟩]⟩,
   ⟨"EFU_LIMIT_EVTS", 0x0100, [], true, [⟨"V", 63, 0, .ro, (.const 0), .any, false⟩]⟩,
   ⟨"EFU_PG_DROPS", 0x0108, [], true, [⟨"V", 63, 0, .ro, (.const 0), .any, false⟩]⟩]


/-- Registers of CIP_ (16_cipher_engine.md). -/
def tableCIP : List RegRow :=
  [⟨"CIP_STAT", 0x0000, [], false, [⟨"INIT", 31, 31, .ro, (.const 1), .any, false⟩, ⟨"DRBG_OK", 30, 30, .ro, (.const 0), .any, false⟩, ⟨"KAT_OK", 29, 29, .ro, (.const 0), .any, false⟩, ⟨"RATCHET", 28, 28, .ro, (.const 0), .any, false⟩, ⟨"KEKGEN", 15, 0, .ro, (.const 0), .any, false⟩]⟩,
   ⟨"CIP_KCMD", 0x0004, [], false, [⟨"BUSY", 31, 31, .ro, (.const 0), .any, false⟩, ⟨"STATUS", 27, 24, .ro, (.const 0), .any, false⟩, ⟨"OP", 23, 20, .wo, (.const 0), .any, true⟩, ⟨"SLOT", 13, 0, .rw, (.const 0), .any, false⟩]⟩,
   ⟨"CIP_KCMD_ADDR", 0x0008, [], true, [⟨"V", 63, 0, .rw, (.const 0), .any, false⟩]⟩,
   ⟨"CIP_KCMD_ARG", 0x0010, [], true, [⟨"V", 63, 0, .rw, (.const 0), .any, false⟩]⟩,
   ⟨"CIP_XTS_BYTES", 0x0100, [], true, [⟨"V", 63, 0, .ro, (.const 0), .any, false⟩]⟩,
   ⟨"CIP_GCM_BYTES", 0x0108, [], true, [⟨"V", 63, 0, .ro, (.const 0), .any, false⟩]⟩,
   ⟨"CIP_TAG_FAIL", 0x0110, [], true, [⟨"V", 63, 0, .ro, (.const 0), .any, false⟩]⟩,
   ⟨"CIP_REFUSED", 0x0118, [], true, [⟨"V", 63, 0, .ro, (.const 0), .any, false⟩]⟩,
   ⟨"CIP_KEY_CMDS", 0x0120, [], true, [⟨"V", 63, 0, .ro, (.const 0), .any, false⟩]⟩]


/-- Registers of MCP_ (17_control_packets.md). -/
def tableMCP : List RegRow :=
  [⟨"MCP_STAT", 0x0000, [], false, [⟨"SESSIONS", 31, 24, .ro, (.const 0), .any, false⟩, ⟨"CHALLENGES", 23, 16, .ro, (.const 0), .any, false⟩, ⟨"READY", 0, 0, .ro, (.const 0), .any, false⟩]⟩,
   ⟨"MCP_CFG", 0x0004, [], false, [⟨"UDP_PORT", 31, 16, .rw, (.const 18582), .any, false⟩, ⟨"IDLE", 15, 4, .rw, (.const 300), (.clamp 10 3600), false⟩, ⟨"FRONT_EN", 1, 1, .rw, (.const 0), .any, false⟩, ⟨"MGMT_EN", 0, 0, .rw, (.const 1), .any, false⟩]⟩,
   ⟨"MCP_REQ_DB", 0x0010, [], false, [⟨"DB", 3, 0, .wo, (.const 0), .any, true⟩]⟩,
   ⟨"MCP_RPL_RDY", 0x0014, [], false, [⟨"RDY", 3, 0, .w1c, (.const 0), .any, true⟩]⟩,
   ⟨"MCP_REQ_BUSY", 0x0018, [], false, [⟨"BUSY", 3, 0, .ro, (.const 0), .any, false⟩]⟩,
   ⟨"MCP_NTC_HEAD", 0x001c, [], false, [⟨"HEAD", 3, 0, .ro, (.const 0), .any, false⟩]⟩,
   ⟨"MCP_NTC_TAIL", 0x0020, [], false, [⟨"TAIL", 3, 0, .rw, (.const 0), .any, true⟩]⟩,
   ⟨"MCP_RX", 0x0100, [], true, [⟨"V", 63, 0, .ro, (.const 0), .any, false⟩]⟩,
   ⟨"MCP_TX", 0x0108, [], true, [⟨"V", 63, 0, .ro, (.const 0), .any, false⟩]⟩,
   ⟨"MCP_DROP", 0x0110, [], true, [⟨"V", 63, 0, .ro, (.const 0), .any, false⟩]⟩,
   ⟨"MCP_TAG_FAIL", 0x0118, [], true, [⟨"V", 63, 0, .ro, (.const 0), .any, false⟩]⟩,
   ⟨"MCP_REPLAY", 0x0120, [], true, [⟨"V", 63, 0, .ro, (.const 0), .any, false⟩]⟩] ++
  [⟨"MCP_DUP_REPLY", 0x0128, [], true, [⟨"V", 63, 0, .ro, (.const 0), .any, false⟩]⟩,
   ⟨"MCP_MBX_REJ", 0x0130, [], true, [⟨"V", 63, 0, .ro, (.const 0), .any, false⟩]⟩,
   ⟨"MCP_NTC_LOST", 0x0138, [], true, [⟨"V", 63, 0, .ro, (.const 0), .any, false⟩]⟩,
   ⟨"MCP_NTC", 0x1000, [(2048, 0x4)], false, [⟨"WORD", 31, 0, .ro, (.const 0), .any, false⟩]⟩,
   ⟨"MCP_REQ", 0x8000, [(4096, 0x4)], false, [⟨"WORD", 31, 0, .rw, (.const 0), .any, false⟩]⟩,
   ⟨"MCP_RPL", 0xc000, [(4096, 0x4)], false, [⟨"WORD", 31, 0, .ro, (.const 0), .any, false⟩]⟩]


/-- Registers of TWO_ (18_two_step_and_protection.md). -/
def tableTWO : List RegRow :=
  [⟨"TWO_STAT", 0x0000, [], false, [⟨"CLAIMED", 31, 31, .ro, (.notStated 0), .any, false⟩, ⟨"PRK", 30, 30, .ro, (.notStated 0), .any, false⟩, ⟨"MISMATCH", 29, 29, .ro, (.const 0), .any, false⟩, ⟨"MISSED", 28, 28, .w1c, (.const 0), .any, false⟩, ⟨"ADOPT", 27, 27, .ro, (.notStated 0), .any, false⟩, ⟨"OPEN", 4, 0, .ro, (.const 0), .any, false⟩]⟩,
   ⟨"TWO_CFG", 0x0004, [], false, [⟨"LIFE", 16, 0, .rwt, (.const 600), (.clamp 60 86400), true⟩]⟩,
   ⟨"TWO_REV", 0x0008, [], true, [⟨"V", 63, 0, .ro, (.const 0), .any, false⟩]⟩,
   ⟨"TWO_DIGEST", 0x0010, [(12, 0x4)], false, [⟨"WORD", 31, 0, .ro, (.notStated 0), .any, false⟩]⟩,
   ⟨"TWO_PSEL", 0x0040, [], false, [⟨"SEL", 3, 0, .rw, (.const 0), .any, false⟩]⟩,
   ⟨"TWO_PREC", 0x0044, [(32, 0x4)], false, [⟨"WORD", 31, 0, .ro, (.const 0), .any, false⟩]⟩,
   ⟨"TWO_PERM", 0x0100, [(8, 0x40), (9, 0x4)], false, [⟨"WORD", 31, 0, .rwt, (.notStated 0), .any, true⟩]⟩]


/-- Registers of CAL_ (19_caller_and_power_states.md). -/
def tableCAL : List RegRow :=
  [⟨"CAL_STAT", 0x0000, [], false, [⟨"SHORT", 31, 31, .ro, (.const 0), .any, false⟩, ⟨"THERM", 30, 30, .ro, (.const 0), .any, false⟩, ⟨"LIMITED", 29, 29, .ro, (.const 0), .any, false⟩, ⟨"HELDLVL", 28, 28, .ro, (.const 0), .any, false⟩]⟩,
   ⟨"CAL_CFG", 0x0004, [], false, [⟨"CAP_W", 31, 24, .rwm, (.const 250), (.clamp 100 250), false⟩, ⟨"MARGIN", 23, 19, .rwm, (.const 2), .any, false⟩, ⟨"FLOOR", 18, 16, .rwm, (.const 3), (.clamp 0 5), false⟩, ⟨"UP", 15, 8, .rwm, (.const 80), .any, false⟩, ⟨"DOWN", 7, 0, .rwm, (.const 40), .any, false⟩]⟩,
   ⟨"CAL_BUDGET", 0x0008, [], false, [⟨"SHELF_W", 7, 0, .rw, (.const 250), (.clamp 50 250), false⟩]⟩,
   ⟨"CAL_THERM", 0x000c, [], false, [⟨"LIMIT", 31, 24, .rwm, (.const 105), (.clamp 85 115), false⟩, ⟨"WARN", 23, 16, .rwm, (.const 10), (.clamp 1 30), false⟩, ⟨"WPC", 7, 0, .rwm, (.const 4), (.clamp 1 20), false⟩]⟩,
   ⟨"CAL_DEMAND", 0x0010, [], false, [⟨"JOBS", 8, 2, .rw, (.const 0), .any, false⟩, ⟨"BASE", 1, 0, .ro, (.const 0), .any, false⟩]⟩,
   ⟨"CAL_HOLD", 0x0014, [], false, [⟨"JOBS", 8, 2, .rwm, (.const 0), .any, false⟩]⟩,
   ⟨"CAL_GRANT", 0x0018, [], false, [⟨"RBPRIO", 31, 30, .ro, (.const 0), .any, false⟩, ⟨"PACE", 29, 28, .ro, (.const 0), .any, false⟩, ⟨"JOBS", 8, 0, .ro, (.const 0), .any, false⟩]⟩,
   ⟨"CAL_PIN", 0x001c, [], false, [⟨"MW", 19, 0, .ro, (.notStated 0), .any, false⟩]⟩,
   ⟨"CAL_PEST", 0x0020, [], false, [⟨"MW", 19, 0, .ro, (.notStated 0), .any, false⟩]⟩,
   ⟨"CAL_TJ", 0x0024, [], false, [⟨"DOMAIN", 15, 8, .ro, (.notStated 0), .any, false⟩, ⟨"TJMAX", 7, 0, .ro, (.notStated 0), .any, false⟩]⟩,
   ⟨"CAL_CL", 0x0100, [(8, 0x4)], false, [⟨"BUSY", 31, 31, .ro, (.const 0), .any, false⟩, ⟨"AVSERR", 30, 30, .w1c, (.const 0), .any, false⟩, ⟨"HELD", 29, 29, .ro, (.const 0), .any, false⟩, ⟨"MAX", 26, 24, .rwm, (.const 0), (.clamp 0 5), false⟩, ⟨"UTIL", 23, 16, .ro, (.const 0), .any, false⟩, ⟨"WANT", 10, 8, .ro, (.const 5), .any, false⟩, ⟨"CUR", 2, 0, .ro, (.const 5), .any, false⟩]⟩,
   ⟨"CAL_DECISIONS", 0x0200, [], true, [⟨"V", 63, 0, .ro, (.const 0), .any, false⟩]⟩] ++
  [⟨"CAL_LVL_CHANGES", 0x0208, [], true, [⟨"V", 63, 0, .ro, (.const 0), .any, false⟩]⟩,
   ⟨"CAL_AVS_FAIL", 0x0210, [], true, [⟨"V", 63, 0, .ro, (.const 0), .any, false⟩]⟩,
   ⟨"CAL_SHORT", 0x0218, [], true, [⟨"V", 63, 0, .ro, (.const 0), .any, false⟩]⟩]


/-- Registers of PWR_ (19_caller_and_power_states.md). -/
def tablePWR : List RegRow :=
  [⟨"PWR_STAT", 0x0000, [], false, [⟨"MSTATE", 31, 30, .ro, (.const 0), .any, false⟩, ⟨"REFUSED", 29, 29, .w1c, (.const 0), .any, false⟩, ⟨"ABORTED", 28, 28, .w1c, (.const 0), .any, false⟩, ⟨"RDOM", 7, 0, .ro, (.const 0), .any, false⟩]⟩,
   ⟨"PWR_CFG", 0x0004, [], false, [⟨"IDLE2_US", 31, 16, .rwm, (.const 200), (.clamp 10 65535), false⟩, ⟨"IDLE1_NS", 15, 4, .rwm, (.const 500), (.clamp 50 4095), false⟩, ⟨"MINENG", 3, 0, .rwm, (.const 2), (.clamp 1 15), false⟩]⟩,
   ⟨"PWR_CMD", 0x0008, [], false, [⟨"BUSY", 31, 31, .ro, (.const 0), .any, false⟩, ⟨"STATUS", 27, 24, .ro, (.const 0), .any, false⟩, ⟨"OP", 19, 16, .wo, (.const 0), .any, true⟩, ⟨"DOMAIN", 7, 0, .rw, (.const 0), .any, false⟩]⟩,
   ⟨"PWR_OFFACC", 0x000c, [], false, [⟨"VALID", 31, 31, .w1c, (.const 0), .any, false⟩, ⟨"MULTI", 30, 30, .w1c, (.const 0), .any, false⟩, ⟨"DOMAIN", 23, 16, .ro, (.const 0), .any, false⟩, ⟨"BLOCK", 7, 0, .ro, (.const 0), .any, false⟩]⟩,
   ⟨"PWR_DSTAT", 0x0020, [(10, 0x4)], false, [⟨"STATES", 31, 0, .ro, (.notStated 0), .any, false⟩]⟩,
   ⟨"PWR_NOIDLE", 0x0060, [(5, 0x4)], false, [⟨"BITS", 31, 0, .rw, (.const 0), .any, false⟩]⟩,
   ⟨"PWR_OFFACC_CNT", 0x0100, [], true, [⟨"V", 63, 0, .ro, (.const 0), .any, false⟩]⟩,
   ⟨"PWR_GATE_EVTS", 0x0108, [], true, [⟨"V", 63, 0, .ro, (.const 0), .any, false⟩]⟩,
   ⟨"PWR_OFF_EVTS", 0x0110, [], true, [⟨"V", 63, 0, .ro, (.const 0), .any, false⟩]⟩,
   ⟨"PWR_REFUSALS", 0x0118, [], true, [⟨"V", 63, 0, .ro, (.const 0), .any, false⟩]⟩,
   ⟨"PWR_DORMANT", 0x0120, [], true, [⟨"V", 63, 0, .ro, (.const 0), .any, false⟩]⟩]


/-- Registers of WFL_ (20_wallflower.md). -/
def tableWFL : List RegRow :=
  [⟨"WFL_STAT", 0x0000, [], false, [⟨"PFD", 31, 31, .ro, (.const 0), .any, false⟩, ⟨"CYCPEND", 30, 30, .ro, (.const 0), .any, false⟩, ⟨"DORMANT", 29, 29, .ro, (.const 0), .any, false⟩, ⟨"CTRL_RUN", 28, 28, .ro, (.const 0), .any, false⟩]⟩,
   ⟨"WFL_CTL", 0x0004, [], false, [⟨"CTRL_EN", 31, 31, .rw, (.const 0), .any, false⟩, ⟨"DEB", 15, 0, .rw, (.const 10), (.clamp 1 10000), false⟩]⟩,
   ⟨"WFL_CMD", 0x0008, [], false, [⟨"OP", 3, 0, .wo, (.const 0), .any, true⟩]⟩,
   ⟨"WFL_WAKE", 0x000c, [], false, [⟨"EN", 5, 0, .rw, (.const 63), .any, false⟩]⟩,
   ⟨"WFL_WAKECAUSE", 0x0010, [], false, [⟨"SRC", 5, 0, .rc, (.const 0), .any, false⟩]⟩,
   ⟨"WFL_WTIMER", 0x0014, [], false, [⟨"SECS", 31, 0, .rw, (.const 0), .any, false⟩]⟩,
   ⟨"WFL_CAP", 0x0018, [], false, [⟨"C", 19, 0, .ro, (.notStated 41250), .any, false⟩]⟩,
   ⟨"WFL_ESR", 0x001c, [], false, [⟨"ESR", 15, 0, .ro, (.notStated 150), .any, false⟩]⟩,
   ⟨"WFL_DIN", 0x0020, [(4, 0x4)], false, [⟨"LEVELS", 31, 0, .ro, .wflDin, .any, false⟩]⟩,
   ⟨"WFL_FIRED", 0x0030, [], true, [⟨"V", 63, 0, .w1c, (.const 0), .any, false⟩]⟩,
   ⟨"WFL_VAL", 0x0100, [(32, 0x4)], false, [⟨"FILT", 31, 16, .ro, (.notStated 0), .any, false⟩, ⟨"RAW", 15, 0, .ro, (.notStated 0), .any, false⟩]⟩,
   ⟨"WFL_FLT", 0x0200, [(32, 0x4)], false, [⟨"SHIFT", 3, 0, .rw, .wflShift, .any, false⟩]⟩] ++
  [⟨"WFL_RULE_CTL", 0x0400, [(64, 0x10)], false, [⟨"EN", 31, 31, .rw, .wflFixed, .any, true⟩, ⟨"LOCK", 30, 30, .ro, .wflFixed, .any, false⟩, ⟨"KIND", 29, 28, .rw, (.const 0), .any, true⟩, ⟨"CMP", 27, 26, .rw, (.const 0), .any, true⟩, ⟨"SRC", 25, 19, .rw, (.const 0), .any, true⟩, ⟨"AND_EN", 18, 18, .rw, (.const 0), .any, true⟩, ⟨"AND", 17, 12, .rw, (.const 0), .any, true⟩]⟩,
   ⟨"WFL_RULE_THR", 0x0404, [(64, 0x10)], false, [⟨"THRESH", 31, 16, .rw, (.const 0), .any, false⟩, ⟨"HYST", 15, 0, .rw, (.const 0), .any, false⟩]⟩,
   ⟨"WFL_RULE_PER", 0x0408, [(64, 0x10)], false, [⟨"PERSIST", 23, 0, .rw, (.const 0), .any, false⟩]⟩,
   ⟨"WFL_RULE_ACT", 0x040c, [(64, 0x10)], false, [⟨"FAULT", 31, 31, .rw, (.const 0), .any, false⟩, ⟨"IRQ", 30, 30, .rw, (.const 0), .any, false⟩, ⟨"ARG", 15, 8, .rw, (.const 0), .any, false⟩, ⟨"OP", 7, 0, .rw, (.const 0), .any, false⟩]⟩,
   ⟨"WFL_FIRES", 0x0800, [], true, [⟨"V", 63, 0, .ro, (.const 0), .any, false⟩]⟩,
   ⟨"WFL_WAKES", 0x0808, [], true, [⟨"V", 63, 0, .ro, (.const 0), .any, false⟩]⟩,
   ⟨"WFL_PFD", 0x0810, [], true, [⟨"V", 63, 0, .ro, (.const 0), .any, false⟩]⟩,
   ⟨"WFL_CYCLES", 0x0818, [], true, [⟨"V", 63, 0, .ro, (.const 0), .any, false⟩]⟩]


/-- Registers of CLU_ (21_service_cores_and_caches.md). -/
def tableCLU : List RegRow :=
  [⟨"CLU_PSTAT", 0x0000, [], false, [⟨"STATE", 31, 30, .ro, (.const 0), .any, false⟩, ⟨"PART", 19, 16, .ro, .cluPart, .any, false⟩, ⟨"ON", 7, 0, .ro, (.const 0), .any, false⟩]⟩,
   ⟨"CLU_CTL", 0x0004, [], false, [⟨"AUTOSTART", 31, 31, .rw, (.const 0), .any, false⟩, ⟨"GUARD_ON", 0, 0, .ro, (.const 0), .any, false⟩]⟩,
   ⟨"CLU_PCMD", 0x0008, [], false, [⟨"BUSY", 31, 31, .ro, (.const 0), .any, false⟩, ⟨"STATUS", 27, 24, .ro, (.const 0), .any, false⟩, ⟨"OP", 19, 16, .wo, (.const 0), .any, true⟩]⟩,
   ⟨"CLU_ENTRY", 0x0010, [], true, [⟨"V", 63, 0, .rw, (.const 0), .any, false⟩]⟩,
   ⟨"CLU_SEED", 0x0018, [], false, [⟨"SEED", 15, 0, .rw, (.const 44257), .any, false⟩]⟩,
   ⟨"CLU_MAINT", 0x001c, [], false, [⟨"BUSY", 31, 31, .ro, (.const 0), .any, false⟩, ⟨"CORE", 10, 8, .rw, (.const 0), .any, false⟩, ⟨"OP", 3, 0, .wo, (.const 0), .any, true⟩]⟩,
   ⟨"CLU_PERR", 0x0020, [], false, [⟨"VALID", 31, 31, .w1c, (.const 0), .any, false⟩, ⟨"FATAL", 30, 30, .ro, (.const 0), .any, false⟩, ⟨"CACHE", 27, 24, .ro, (.const 0), .any, false⟩, ⟨"ARRAY", 23, 20, .ro, (.const 0), .any, false⟩, ⟨"WAY", 19, 16, .ro, (.const 0), .any, false⟩, ⟨"SET", 11, 0, .ro, (.const 0), .any, false⟩]⟩,
   ⟨"CLU_L1_REFETCH", 0x0100, [], true, [⟨"V", 63, 0, .ro, (.const 0), .any, false⟩]⟩,
   ⟨"CLU_L2_REFETCH", 0x0108, [], true, [⟨"V", 63, 0, .ro, (.const 0), .any, false⟩]⟩,
   ⟨"CLU_FATAL", 0x0110, [], true, [⟨"V", 63, 0, .ro, (.const 0), .any, false⟩]⟩,
   ⟨"CLU_DOOMED", 0x0118, [], true, [⟨"V", 63, 0, .ro, (.const 0), .any, false⟩]⟩,
   ⟨"CLU_VB_HITS", 0x0120, [], true, [⟨"V", 63, 0, .ro, (.const 0), .any, false⟩]⟩] ++
  [⟨"CLU_MISS_STALL", 0x0128, [], true, [⟨"V", 63, 0, .ro, (.const 0), .any, false⟩]⟩]


/-- Registers of EWQ_ (22_engine_work_queues.md). -/
def tableEWQ : List RegRow :=
  [⟨"EWQ_CFG", 0x0000, [], false, [⟨"SHARE", 3, 0, .rwm, (.const 1), (.clamp 0 8), false⟩]⟩,
   ⟨"EWQ_DESC", 0x0100, [], true, [⟨"V", 63, 0, .ro, (.const 0), .any, false⟩]⟩,
   ⟨"EWQ_BYTES", 0x0108, [], true, [⟨"V", 63, 0, .ro, (.const 0), .any, false⟩]⟩,
   ⟨"EWQ_ERRORS", 0x0110, [], true, [⟨"V", 63, 0, .ro, (.const 0), .any, false⟩]⟩,
   ⟨"EWQ_DB_REJ", 0x0118, [], true, [⟨"V", 63, 0, .ro, (.const 0), .any, false⟩]⟩,
   ⟨"EWQ_QCTL", 0x1000, [(128, 0x40)], false, [⟨"EN", 31, 31, .rw, (.const 0), .any, true⟩, ⟨"SIZE", 3, 0, .rw, (.const 6), (.clamp 4 12), false⟩]⟩,
   ⟨"EWQ_QSTAT", 0x1004, [(128, 0x40)], false, [⟨"STATE", 31, 29, .ro, (.const 0), .any, false⟩, ⟨"LATCH", 28, 28, .ro, (.const 0), .any, false⟩, ⟨"IRQP", 27, 27, .w1c, (.const 0), .any, false⟩, ⟨"INFL", 20, 16, .ro, (.const 0), .any, false⟩, ⟨"ERR", 7, 0, .ro, (.const 0), .any, false⟩]⟩,
   ⟨"EWQ_QBASE", 0x1008, [(128, 0x40)], true, [⟨"V", 63, 0, .rw, (.const 0), .any, false⟩]⟩,
   ⟨"EWQ_QCBASE", 0x1010, [(128, 0x40)], true, [⟨"V", 63, 0, .rw, (.const 0), .any, false⟩]⟩,
   ⟨"EWQ_QTAIL", 0x1018, [(128, 0x40)], false, [⟨"TAIL", 15, 0, .rw, (.const 0), .any, true⟩]⟩,
   ⟨"EWQ_QHEAD", 0x101c, [(128, 0x40)], false, [⟨"HEAD", 15, 0, .ro, (.const 0), .any, false⟩]⟩,
   ⟨"EWQ_QCCNT", 0x1020, [(128, 0x40)], false, [⟨"CCNT", 31, 0, .ro, (.const 0), .any, false⟩]⟩] ++
  [⟨"EWQ_QCMD", 0x1024, [(128, 0x40)], false, [⟨"BUSY", 31, 31, .ro, (.const 0), .any, false⟩, ⟨"OP", 19, 16, .wo, (.const 0), .any, true⟩, ⟨"STARTED", 15, 0, .ro, (.const 0), .any, false⟩]⟩,
   ⟨"EWQ_QERRADDR", 0x1028, [(128, 0x40)], true, [⟨"V", 63, 0, .ro, (.const 0), .any, false⟩]⟩]


/-- Registers of MIN_ (23_integrity_faults_and_recovery.md). -/
def tableMIN : List RegRow :=
  [⟨"MIN_STAT", 0x0000, [], false, [⟨"FILLED", 31, 31, .ro, (.const 0), .any, false⟩, ⟨"SWEEPING", 30, 30, .ro, (.const 0), .any, false⟩, ⟨"ARMED", 29, 29, .ro, (.const 0), .any, false⟩, ⟨"EXPIRED", 28, 28, .w1c, (.const 0), .any, false⟩]⟩,
   ⟨"MIN_LEAK", 0x0004, [], false, [⟨"INTERVAL", 31, 16, .rw, (.const 1000), (.clamp 1 65535), false⟩, ⟨"THRESH", 7, 0, .rw, (.const 16), (.clamp 1 254), false⟩]⟩,
   ⟨"MIN_SWEEP", 0x0008, [], false, [⟨"EN", 31, 31, .rw, (.const 1), .any, false⟩, ⟨"RATE", 7, 0, .rw, (.const 10), (.clamp 1 255), false⟩]⟩,
   ⟨"MIN_TEST", 0x000c, [], false, [⟨"ARM", 31, 31, .rw, (.const 0), .any, true⟩, ⟨"REGION", 21, 16, .rw, (.const 0), (.clamp 0 32), false⟩, ⟨"BYTES", 15, 0, .rw, (.const 1), .any, false⟩]⟩,
   ⟨"MIN_TADDR", 0x0010, [], true, [⟨"V", 63, 0, .rw, (.const 0), .any, false⟩]⟩,
   ⟨"MIN_ERR", 0x0018, [], false, [⟨"VALID", 31, 31, .w1c, (.const 0), .any, false⟩, ⟨"MULTI", 30, 30, .w1c, (.const 0), .any, false⟩, ⟨"FATAL", 29, 29, .ro, (.const 0), .any, false⟩, ⟨"SWEEP", 28, 28, .ro, (.const 0), .any, false⟩, ⟨"REGION", 27, 22, .ro, (.const 0), .any, false⟩, ⟨"CHAN", 21, 16, .ro, (.const 0), .any, false⟩, ⟨"BYTES", 15, 0, .ro, (.const 0), .any, false⟩]⟩,
   ⟨"MIN_EADDR", 0x001c, [], true, [⟨"V", 63, 0, .ro, (.const 0), .any, false⟩]⟩,
   ⟨"MIN_IRQ", 0x0024, [(2, 0x4)], false, [⟨"BITS", 31, 0, .w1c, (.const 0), .any, false⟩]⟩,
   ⟨"MIN_BKT", 0x0100, [(33, 0x4)], false, [⟨"N", 7, 0, .ro, (.const 0), .any, false⟩]⟩,
   ⟨"MIN_DETECT", 0x0200, [], true, [⟨"V", 63, 0, .ro, (.const 0), .any, false⟩]⟩,
   ⟨"MIN_RECOVERED", 0x0208, [], true, [⟨"V", 63, 0, .ro, (.const 0), .any, false⟩]⟩,
   ⟨"MIN_LOST", 0x0210, [], true, [⟨"V", 63, 0, .ro, (.const 0), .any, false⟩]⟩] ++
  [⟨"MIN_FATAL", 0x0218, [], true, [⟨"V", 63, 0, .ro, (.const 0), .any, false⟩]⟩,
   ⟨"MIN_SWEPT_GB", 0x0220, [], true, [⟨"V", 63, 0, .ro, (.const 0), .any, false⟩]⟩,
   ⟨"MIN_TEST_HITS", 0x0228, [], true, [⟨"V", 63, 0, .ro, (.const 0), .any, false⟩]⟩]


/-- Registers of FLT_ (23_integrity_faults_and_recovery.md). -/
def tableFLT : List RegRow :=
  [⟨"FLT_STAT", 0x0000, [], false, [⟨"PEND", 31, 31, .w1c, (.const 0), .any, false⟩, ⟨"LATCHV", 30, 30, .w1c, (.const 0), .any, false⟩, ⟨"PARKED", 29, 29, .ro, (.const 0), .any, false⟩, ⟨"SEV", 2, 0, .ro, (.const 0), .any, false⟩]⟩,
   ⟨"FLT_CFG", 0x0004, [], false, [⟨"IRQ_SEV", 31, 29, .rw, (.const 2), (.clamp 0 4), false⟩, ⟨"ESC", 23, 16, .rw, (.const 10), (.clamp 1 255), false⟩, ⟨"WDOG", 15, 0, .rw, (.const 1000), .watchdog, false⟩]⟩,
   ⟨"FLT_WDOG", 0x0008, [], false, [⟨"VALUE", 31, 0, .wo, (.const 0), .any, true⟩]⟩,
   ⟨"FLT_NEXT", 0x0010, [], true, [⟨"V", 63, 0, .ro, (.const 1), .any, false⟩]⟩,
   ⟨"FLT_OLDEST", 0x0018, [], true, [⟨"V", 63, 0, .ro, (.const 1), .any, false⟩]⟩,
   ⟨"FLT_BOOT", 0x0020, [], false, [⟨"BOOT", 31, 0, .ro, (.notStated 0), .any, false⟩]⟩,
   ⟨"FLT_LADDER", 0x0024, [], false, [⟨"S3", 31, 24, .ro, (.const 0), .any, false⟩, ⟨"S4", 23, 16, .ro, (.const 0), .any, false⟩, ⟨"LAST", 2, 0, .ro, (.const 0), .any, false⟩]⟩,
   ⟨"FLT_CMD", 0x0028, [], false, [⟨"BUSY", 31, 31, .ro, (.const 0), .any, false⟩, ⟨"STATUS", 27, 24, .ro, (.const 0), .any, false⟩, ⟨"OP", 19, 16, .wo, (.const 0), .any, true⟩]⟩,
   ⟨"FLT_LATCH", 0x0040, [(16, 0x4)], false, [⟨"WORD", 31, 0, .ro, (.const 0), .any, false⟩]⟩,
   ⟨"FLT_RECORDS", 0x0100, [], true, [⟨"V", 63, 0, .ro, (.const 0), .any, false⟩]⟩,
   ⟨"FLT_COALESCED", 0x0108, [], true, [⟨"V", 63, 0, .ro, (.const 0), .any, false⟩]⟩,
   ⟨"FLT_OVERWRITTEN", 0x0110, [], true, [⟨"V", 63, 0, .ro, (.const 0), .any, false⟩]⟩] ++
  [⟨"FLT_WDOG_EXP", 0x0118, [], true, [⟨"V", 63, 0, .ro, (.const 0), .any, false⟩]⟩]


/-- Registers of PMC_ (24_performance_counters.md). -/
def tablePMC : List RegRow :=
  [⟨"PMC_CTL", 0x0000, [], false, [⟨"RUN", 31, 31, .rwm, (.const 0), .any, false⟩]⟩,
   ⟨"PMC_OVF", 0x0008, [], true, [⟨"V", 63, 0, .w1c, (.const 0), .any, false⟩]⟩,
   ⟨"PMC_PEN", 0x0010, [(8, 0x4)], false, [⟨"PEN", 0, 0, .ro, (.const 0), .any, false⟩]⟩,
   ⟨"PMC_SEL", 0x0100, [(48, 0x4)], false, [⟨"EN", 31, 31, .rwm, (.const 0), .any, false⟩, ⟨"SAT", 30, 30, .rw, (.const 0), .any, false⟩, ⟨"IRQ", 29, 29, .rw, (.const 0), .any, false⟩, ⟨"MODE", 28, 27, .rw, (.const 0), .any, false⟩, ⟨"SOURCE", 23, 16, .rw, (.const 0), .any, false⟩, ⟨"EVENT", 15, 0, .rw, (.const 0), .any, false⟩]⟩,
   ⟨"PMC_CNT", 0x0200, [(48, 0x8)], true, [⟨"V", 63, 0, .rw, (.const 0), .any, true⟩]⟩,
   ⟨"PMC_BW_CTL", 0x0400, [(16, 0x20)], false, [⟨"EN", 31, 31, .rwm, (.const 0), .any, false⟩, ⟨"CLR", 30, 30, .wo, (.const 0), .any, true⟩, ⟨"WIN", 23, 16, .rw, (.const 1), (.clamp 1 255), false⟩, ⟨"DIR", 15, 15, .rw, (.const 0), .any, false⟩, ⟨"KIND", 14, 12, .rw, (.const 0), .any, false⟩, ⟨"INDEX", 7, 0, .rw, (.const 0), .any, false⟩]⟩,
   ⟨"PMC_BW_LAST", 0x0404, [(16, 0x20)], false, [⟨"V", 31, 0, .ro, (.const 0), .any, false⟩]⟩,
   ⟨"PMC_BW_MIN", 0x0408, [(16, 0x20)], false, [⟨"V", 31, 0, .ro, (.const 4294967295), .any, false⟩]⟩,
   ⟨"PMC_BW_MAX", 0x040c, [(16, 0x20)], false, [⟨"V", 31, 0, .ro, (.const 0), .any, false⟩]⟩,
   ⟨"PMC_BW_WINS", 0x0410, [(16, 0x20)], false, [⟨"V", 31, 0, .ro, (.const 0), .any, false⟩]⟩,
   ⟨"PMC_BW_SKIP", 0x0414, [(16, 0x20)], false, [⟨"V", 31, 0, .ro, (.const 0), .any, false⟩]⟩,
   ⟨"PMC_CEVT", 0x0600, [(8, 0x20), (8, 0x4)], false, [⟨"EVENT", 7, 0, .rw, (.const 0), .any, false⟩]⟩]

/-- Table 0.6. -/
def blockTable : List BlockRow :=
  [⟨"SYS", 0x00, 1, tableSYS⟩,
   ⟨"CLK", 0x01, 1, tableCLK⟩,
   ⟨"MEAS", 0x02, 1, tableMEAS⟩,
   ⟨"QPC", 0x18, 1, tableQPC⟩,
   ⟨"SWC", 0x1c, 1, tableSWC⟩,
   ⟨"NET", 0x10, 4, tableNET⟩,
   ⟨"QDL", 0x20, 1, tableQDL⟩,
   ⟨"RBD", 0x21, 1, tableRBD⟩,
   ⟨"NRG", 0x04, 1, tableNRG⟩,
   ⟨"VLT", 0x22, 1, tableVLT⟩,
   ⟨"EZL", 0x24, 1, tableEZL⟩,
   ⟨"LTK", 0x25, 1, tableLTK⟩,
   ⟨"SLT", 0x28, 48, tableSLT⟩,
   ⟨"DPT", 0x60, 1, tableDPT⟩,
   ⟨"EFU", 0x03, 1, tableEFU⟩,
   ⟨"CIP", 0x0c, 1, tableCIP⟩,
   ⟨"MCP", 0x0d, 1, tableMCP⟩,
   ⟨"TWO", 0x0b, 1, tableTWO⟩,
   ⟨"CAL", 0x06, 1, tableCAL⟩,
   ⟨"PWR", 0x07, 1, tablePWR⟩,
   ⟨"WFL", 0x05, 1, tableWFL⟩,
   ⟨"CLU", 0x70, 8, tableCLU⟩,
   ⟨"EWQ", 0x78, 1, tableEWQ⟩,
   ⟨"MIN", 0x08, 1, tableMIN⟩,
   ⟨"FLT", 0x09, 1, tableFLT⟩,
   ⟨"PMC", 0x0a, 1, tablePMC⟩]


/-- SYS_ID (R18). -/
def SYS_ID.addr : Nat := blockAddr 0x00 (0x0000)
def SYS_ID.PART : Fld := ⟨SYS_ID.addr, 31, 16⟩
def SYS_ID.STEP : Fld := ⟨SYS_ID.addr, 15, 8⟩

/-- SYS_BUILD (R19). -/
def SYS_BUILD.addr : Nat := blockAddr 0x00 (0x0004)
def SYS_BUILD.VALUE : Fld := ⟨SYS_BUILD.addr, 31, 0⟩

/-- CLK_STAT (R31). -/
def CLK_STAT.addr : Nat := blockAddr 0x01 (0x0000)
def CLK_STAT.PLL_LOCK : Fld := ⟨CLK_STAT.addr, 31, 31⟩
def CLK_STAT.ROOT_OK : Fld := ⟨CLK_STAT.addr, 30, 30⟩

/-- CLK_DOM (R31). -/
def CLK_DOM.addr (i : Nat) : Nat := blockAddr 0x01 (0x0100 + 0x4 * i)
def CLK_DOM.RUN (i : Nat) : Fld := ⟨CLK_DOM.addr i, 31, 31⟩
def CLK_DOM.GATED (i : Nat) : Fld := ⟨CLK_DOM.addr i, 30, 30⟩
def CLK_DOM.DIV (i : Nat) : Fld := ⟨CLK_DOM.addr i, 15, 0⟩

/-- MEAS_CTL (R44). -/
def MEAS_CTL.addr : Nat := blockAddr 0x02 (0x0000)
def MEAS_CTL.RUN : Fld := ⟨MEAS_CTL.addr, 31, 31⟩
def MEAS_CTL.SRC : Fld := ⟨MEAS_CTL.addr, 7, 4⟩
def MEAS_CTL.MLEN : Fld := ⟨MEAS_CTL.addr, 2, 0⟩

/-- MEAS_STAT (R35). -/
def MEAS_STAT.addr : Nat := blockAddr 0x02 (0x0004)
def MEAS_STAT.STATE : Fld := ⟨MEAS_STAT.addr, 31, 29⟩
def MEAS_STAT.STEP_REJ : Fld := ⟨MEAS_STAT.addr, 28, 28⟩
def MEAS_STAT.MISSED : Fld := ⟨MEAS_STAT.addr, 27, 27⟩
def MEAS_STAT.INTOL : Fld := ⟨MEAS_STAT.addr, 4, 0⟩

/-- MEAS_TOL (R35). -/
def MEAS_TOL.addr : Nat := blockAddr 0x02 (0x0008)
def MEAS_TOL.TOL : Fld := ⟨MEAS_TOL.addr, 15, 0⟩

/-- MEAS_HOLD (R35). -/
def MEAS_HOLD.addr : Nat := blockAddr 0x02 (0x000c)
def MEAS_HOLD.HOLD : Fld := ⟨MEAS_HOLD.addr, 15, 0⟩

/-- MEAS_TIME (R32). -/
def MEAS_TIME.addr : Nat := blockAddr 0x02 (0x0010)
def MEAS_TIME.V : Fld := ⟨MEAS_TIME.addr, 63, 0⟩

/-- MEAS_NUM (R37). -/
def MEAS_NUM.addr : Nat := blockAddr 0x02 (0x0018)
def MEAS_NUM.V : Fld := ⟨MEAS_NUM.addr, 63, 0⟩

/-- MEAS_RATE (R32). -/
def MEAS_RATE.addr : Nat := blockAddr 0x02 (0x0020)
def MEAS_RATE.RATE : Fld := ⟨MEAS_RATE.addr, 31, 0⟩

/-- MEAS_OFFS (R34). -/
def MEAS_OFFS.addr : Nat := blockAddr 0x02 (0x0024)
def MEAS_OFFS.OFFS : Fld := ⟨MEAS_OFFS.addr, 31, 0⟩

/-- MEAS_STEP (R33). -/
def MEAS_STEP.addr : Nat := blockAddr 0x02 (0x0028)
def MEAS_STEP.V : Fld := ⟨MEAS_STEP.addr, 63, 0⟩

/-- QPC_CTL (R115). -/
def QPC_CTL.addr : Nat := blockAddr 0x18 (0x0000)
def QPC_CTL.SVC_PORT : Fld := ⟨QPC_CTL.addr, 31, 16⟩

/-- QPC_STAT (R121). -/
def QPC_STAT.addr : Nat := blockAddr 0x18 (0x0004)
def QPC_STAT.INUSE : Fld := ⟨QPC_STAT.addr, 16, 0⟩

/-- QPC_CMD (R149). -/
def QPC_CMD.addr : Nat := blockAddr 0x18 (0x0008)
def QPC_CMD.BUSY : Fld := ⟨QPC_CMD.addr, 31, 31⟩
def QPC_CMD.STATUS : Fld := ⟨QPC_CMD.addr, 23, 16⟩
def QPC_CMD.OP : Fld := ⟨QPC_CMD.addr, 3, 0⟩

/-- QPC_CMD_IDX (R149). -/
def QPC_CMD_IDX.addr : Nat := blockAddr 0x18 (0x000c)
def QPC_CMD_IDX.IDX : Fld := ⟨QPC_CMD_IDX.addr, 16, 0⟩

/-- QPC_CMD_ADDR (R149). -/
def QPC_CMD_ADDR.addr : Nat := blockAddr 0x18 (0x0010)
def QPC_CMD_ADDR.V : Fld := ⟨QPC_CMD_ADDR.addr, 63, 0⟩

/-- QPC_DB (R142). -/
def QPC_DB.addr : Nat := blockAddr 0x18 (0x0018)
def QPC_DB.INDEX : Fld := ⟨QPC_DB.addr, 31, 15⟩
def QPC_DB.TAIL : Fld := ⟨QPC_DB.addr, 14, 0⟩

/-- QPC_RC0 (R148). -/
def QPC_RC0.addr : Nat := blockAddr 0x18 (0x0020)
def QPC_RC0.CUT : Fld := ⟨QPC_RC0.addr, 7, 0⟩

/-- QPC_RC1 (R148). -/
def QPC_RC1.addr : Nat := blockAddr 0x18 (0x0024)
def QPC_RC1.STEP_T : Fld := ⟨QPC_RC1.addr, 31, 16⟩
def QPC_RC1.CUT_HOLD : Fld := ⟨QPC_RC1.addr, 15, 0⟩

/-- QPC_RC2 (R148). -/
def QPC_RC2.addr : Nat := blockAddr 0x18 (0x0028)
def QPC_RC2.ADD : Fld := ⟨QPC_RC2.addr, 19, 0⟩

/-- QPC_RC3 (R148). -/
def QPC_RC3.addr : Nat := blockAddr 0x18 (0x002c)
def QPC_RC3.RMIN : Fld := ⟨QPC_RC3.addr, 19, 0⟩

/-- QPC_CNP (R147). -/
def QPC_CNP.addr : Nat := blockAddr 0x18 (0x0030)
def QPC_CNP.CLASS : Fld := ⟨QPC_CNP.addr, 26, 24⟩
def QPC_CNP.DSCP : Fld := ⟨QPC_CNP.addr, 21, 16⟩
def QPC_CNP.GAP : Fld := ⟨QPC_CNP.addr, 15, 0⟩

/-- QPC_DEF (R116). -/
def QPC_DEF.addr : Nat := blockAddr 0x18 (0x0034)
def QPC_DEF.RNR_TMR : Fld := ⟨QPC_DEF.addr, 20, 16⟩
def QPC_DEF.RNR_RETRY : Fld := ⟨QPC_DEF.addr, 14, 12⟩
def QPC_DEF.RETRY : Fld := ⟨QPC_DEF.addr, 10, 8⟩
def QPC_DEF.ACK_TMO : Fld := ⟨QPC_DEF.addr, 4, 0⟩

/-- QPC_HIT (R124). -/
def QPC_HIT.addr : Nat := blockAddr 0x18 (0x0100)
def QPC_HIT.V : Fld := ⟨QPC_HIT.addr, 63, 0⟩

/-- QPC_MISS (R124). -/
def QPC_MISS.addr : Nat := blockAddr 0x18 (0x0108)
def QPC_MISS.V : Fld := ⟨QPC_MISS.addr, 63, 0⟩

/-- QPC_STALL_NS (R125). -/
def QPC_STALL_NS.addr : Nat := blockAddr 0x18 (0x0110)
def QPC_STALL_NS.V : Fld := ⟨QPC_STALL_NS.addr, 63, 0⟩

/-- QPC_DROP (R114). -/
def QPC_DROP.addr : Nat := blockAddr 0x18 (0x0118)
def QPC_DROP.V : Fld := ⟨QPC_DROP.addr, 63, 0⟩

/-- QPC_DUP (R129). -/
def QPC_DUP.addr : Nat := blockAddr 0x18 (0x0120)
def QPC_DUP.V : Fld := ⟨QPC_DUP.addr, 63, 0⟩

/-- QPC_CNP_RX (R148). -/
def QPC_CNP_RX.addr : Nat := blockAddr 0x18 (0x0128)
def QPC_CNP_RX.V : Fld := ⟨QPC_CNP_RX.addr, 63, 0⟩

/-- QPC_CNP_TX (R147). -/
def QPC_CNP_TX.addr : Nat := blockAddr 0x18 (0x0130)
def QPC_CNP_TX.V : Fld := ⟨QPC_CNP_TX.addr, 63, 0⟩

/-- QPC_RETRANS (R141). -/
def QPC_RETRANS.addr : Nat := blockAddr 0x18 (0x0138)
def QPC_RETRANS.V : Fld := ⟨QPC_RETRANS.addr, 63, 0⟩

/-- SWC_CTL (R175). -/
def SWC_CTL.addr : Nat := blockAddr 0x1c (0x0000)
def SWC_CTL.CT_EN : Fld := ⟨SWC_CTL.addr, 0, 0⟩

/-- SWC_STAT (R179). -/
def SWC_STAT.addr : Nat := blockAddr 0x1c (0x0004)
def SWC_STAT.POOL_REJ : Fld := ⟨SWC_STAT.addr, 5, 5⟩
def SWC_STAT.WD : Fld := ⟨SWC_STAT.addr, 4, 4⟩
def SWC_STAT.HDRM_EXH : Fld := ⟨SWC_STAT.addr, 3, 3⟩
def SWC_STAT.SEQ_OVF : Fld := ⟨SWC_STAT.addr, 2, 2⟩
def SWC_STAT.FT_BUSY : Fld := ⟨SWC_STAT.addr, 1, 1⟩
def SWC_STAT.DRAINED : Fld := ⟨SWC_STAT.addr, 0, 0⟩

/-- SWC_FREE (R155). -/
def SWC_FREE.addr : Nat := blockAddr 0x1c (0x0008)
def SWC_FREE.FREE : Fld := ⟨SWC_FREE.addr, 19, 0⟩

/-- SWC_DESC_FREE (R155). -/
def SWC_DESC_FREE.addr : Nat := blockAddr 0x1c (0x000c)
def SWC_DESC_FREE.FREE : Fld := ⟨SWC_DESC_FREE.addr, 18, 0⟩

/-- SWC_EPOCH (R174). -/
def SWC_EPOCH.addr : Nat := blockAddr 0x1c (0x0010)
def SWC_EPOCH.DRAIN_PEND : Fld := ⟨SWC_EPOCH.addr, 31, 31⟩
def SWC_EPOCH.ARMED : Fld := ⟨SWC_EPOCH.addr, 30, 30⟩
def SWC_EPOCH.CUR : Fld := ⟨SWC_EPOCH.addr, 15, 0⟩

/-- SWC_EPOCH_TGT (R174). -/
def SWC_EPOCH_TGT.addr : Nat := blockAddr 0x1c (0x0014)
def SWC_EPOCH_TGT.V : Fld := ⟨SWC_EPOCH_TGT.addr, 63, 0⟩

/-- SWC_FT_CMD (R174). -/
def SWC_FT_CMD.addr : Nat := blockAddr 0x1c (0x0020)
def SWC_FT_CMD.BUSY : Fld := ⟨SWC_FT_CMD.addr, 31, 31⟩
def SWC_FT_CMD.OP : Fld := ⟨SWC_FT_CMD.addr, 17, 16⟩
def SWC_FT_CMD.IDX : Fld := ⟨SWC_FT_CMD.addr, 9, 0⟩

/-- SWC_FT_DATA (R174). -/
def SWC_FT_DATA.addr (i : Nat) : Nat := blockAddr 0x1c (0x0024 + 0x4 * i)
def SWC_FT_DATA.DATA (i : Nat) : Fld := ⟨SWC_FT_DATA.addr i, 31, 0⟩

/-- SWC_RSQ (R170). -/
def SWC_RSQ.addr : Nat := blockAddr 0x1c (0x0040)
def SWC_RSQ.TMO : Fld := ⟨SWC_RSQ.addr, 15, 0⟩

/-- SWC_PFCWD (R162). -/
def SWC_PFCWD.addr : Nat := blockAddr 0x1c (0x0044)
def SWC_PFCWD.TIME : Fld := ⟨SWC_PFCWD.addr, 15, 0⟩

/-- SWC_ATT_MIN (R156). -/
def SWC_ATT_MIN.addr (i : Nat) : Nat := blockAddr 0x1c (0x0100 + 0x8 * i)
def SWC_ATT_MIN.CELLS (i : Nat) : Fld := ⟨SWC_ATT_MIN.addr i, 19, 0⟩

/-- SWC_ATT_MAX (R157). -/
def SWC_ATT_MAX.addr (i : Nat) : Nat := blockAddr 0x1c (0x0104 + 0x8 * i)
def SWC_ATT_MAX.CELLS (i : Nat) : Fld := ⟨SWC_ATT_MAX.addr i, 19, 0⟩

/-- SWC_PFC (R158). -/
def SWC_PFC.addr (i j : Nat) : Nat := blockAddr 0x1c (0x0200 + 0x20 * i + 0x4 * j)
def SWC_PFC.LOSSLESS (i j : Nat) : Fld := ⟨SWC_PFC.addr i j, 31, 31⟩
def SWC_PFC.ALPHA (i j : Nat) : Fld := ⟨SWC_PFC.addr i j, 27, 24⟩
def SWC_PFC.XON_OFF (i j : Nat) : Fld := ⟨SWC_PFC.addr i j, 19, 0⟩

/-- SWC_HDRM (R159). -/
def SWC_HDRM.addr (i j : Nat) : Nat := blockAddr 0x1c (0x0300 + 0x20 * i + 0x4 * j)
def SWC_HDRM.CELLS (i j : Nat) : Fld := ⟨SWC_HDRM.addr i j, 19, 0⟩

/-- SWC_ECN (R161). -/
def SWC_ECN.addr (i : Nat) : Nat := blockAddr 0x1c (0x0400 + 0x4 * i)
def SWC_ECN.PMAX (i : Nat) : Fld := ⟨SWC_ECN.addr i, 31, 24⟩
def SWC_ECN.KMAX (i : Nat) : Fld := ⟨SWC_ECN.addr i, 23, 12⟩
def SWC_ECN.KMIN (i : Nat) : Fld := ⟨SWC_ECN.addr i, 11, 0⟩

/-- SWC_CELLS_W (R153). -/
def SWC_CELLS_W.addr : Nat := blockAddr 0x1c (0x0800)
def SWC_CELLS_W.V : Fld := ⟨SWC_CELLS_W.addr, 63, 0⟩

/-- SWC_CELLS_R (R153). -/
def SWC_CELLS_R.addr : Nat := blockAddr 0x1c (0x0808)
def SWC_CELLS_R.V : Fld := ⟨SWC_CELLS_R.addr, 63, 0⟩

/-- SWC_STOMP (R175). -/
def SWC_STOMP.addr : Nat := blockAddr 0x1c (0x0810)
def SWC_STOMP.V : Fld := ⟨SWC_STOMP.addr, 63, 0⟩

/-- SWC_POISON (R175). -/
def SWC_POISON.addr : Nat := blockAddr 0x1c (0x0818)
def SWC_POISON.V : Fld := ⟨SWC_POISON.addr, 63, 0⟩

/-- SWC_UNDERRUN (R175). -/
def SWC_UNDERRUN.addr : Nat := blockAddr 0x1c (0x0820)
def SWC_UNDERRUN.V : Fld := ⟨SWC_UNDERRUN.addr, 63, 0⟩

/-- SWC_DROP_LOSSY (R160). -/
def SWC_DROP_LOSSY.addr : Nat := blockAddr 0x1c (0x0828)
def SWC_DROP_LOSSY.V : Fld := ⟨SWC_DROP_LOSSY.addr, 63, 0⟩

/-- SWC_DROP_HDRM (R159). -/
def SWC_DROP_HDRM.addr : Nat := blockAddr 0x1c (0x0830)
def SWC_DROP_HDRM.V : Fld := ⟨SWC_DROP_HDRM.addr, 63, 0⟩

/-- SWC_DROP_NOMATCH (R172). -/
def SWC_DROP_NOMATCH.addr : Nat := blockAddr 0x1c (0x0838)
def SWC_DROP_NOMATCH.V : Fld := ⟨SWC_DROP_NOMATCH.addr, 63, 0⟩

/-- SWC_DROP_WD (R162). -/
def SWC_DROP_WD.addr : Nat := blockAddr 0x1c (0x0840)
def SWC_DROP_WD.V : Fld := ⟨SWC_DROP_WD.addr, 63, 0⟩

/-- SWC_ECN_MARK (R161). -/
def SWC_ECN_MARK.addr : Nat := blockAddr 0x1c (0x0848)
def SWC_ECN_MARK.V : Fld := ⟨SWC_ECN_MARK.addr, 63, 0⟩

/-- SWC_RSQ_SKIP (R168). -/
def SWC_RSQ_SKIP.addr : Nat := blockAddr 0x1c (0x0850)
def SWC_RSQ_SKIP.V : Fld := ⟨SWC_RSQ_SKIP.addr, 63, 0⟩

/-- SWC_RSQ_TMO (R170). -/
def SWC_RSQ_TMO.addr : Nat := blockAddr 0x1c (0x0858)
def SWC_RSQ_TMO.V : Fld := ⟨SWC_RSQ_TMO.addr, 63, 0⟩

/-- SWC_SEQ_OVF (R166). -/
def SWC_SEQ_OVF.addr : Nat := blockAddr 0x1c (0x0860)
def SWC_SEQ_OVF.V : Fld := ⟨SWC_SEQ_OVF.addr, 63, 0⟩

/-- SWC_BANK_WAIT_MAX (R153). -/
def SWC_BANK_WAIT_MAX.addr : Nat := blockAddr 0x1c (0x0868)
def SWC_BANK_WAIT_MAX.WAIT : Fld := ⟨SWC_BANK_WAIT_MAX.addr, 7, 0⟩

/-- NET_GCTL (R192). -/
def NET_GCTL.addr (p : Nat) : Nat := blockAddr (0x10 + p % 4) (0x0000)
def NET_GCTL.EN (p : Nat) : Fld := ⟨NET_GCTL.addr p, 0, 0⟩

/-- NET_GSTAT (R193). -/
def NET_GSTAT.addr (p : Nat) : Nat := blockAddr (0x10 + p % 4) (0x0004)
def NET_GSTAT.ARMED (p : Nat) : Fld := ⟨NET_GSTAT.addr p, 31, 31⟩
def NET_GSTAT.MISSED (p : Nat) : Fld := ⟨NET_GSTAT.addr p, 30, 30⟩
def NET_GSTAT.OVERSIZE (p : Nat) : Fld := ⟨NET_GSTAT.addr p, 29, 29⟩
def NET_GSTAT.OPEN (p : Nat) : Fld := ⟨NET_GSTAT.addr p, 7, 0⟩

/-- NET_GCYCLE (R193). -/
def NET_GCYCLE.addr (p : Nat) : Nat := blockAddr (0x10 + p % 4) (0x0008)
def NET_GCYCLE.NS (p : Nat) : Fld := ⟨NET_GCYCLE.addr p, 31, 0⟩

/-- NET_GCYCLE_ACT (R188). -/
def NET_GCYCLE_ACT.addr (p : Nat) : Nat := blockAddr (0x10 + p % 4) (0x000c)
def NET_GCYCLE_ACT.NS (p : Nat) : Fld := ⟨NET_GCYCLE_ACT.addr p, 31, 0⟩

/-- NET_GTGT (R193). -/
def NET_GTGT.addr (p : Nat) : Nat := blockAddr (0x10 + p % 4) (0x0010)
def NET_GTGT.V (p : Nat) : Fld := ⟨NET_GTGT.addr p, 63, 0⟩

/-- NET_GMAXF (R189). -/
def NET_GMAXF.addr (p : Nat) : Nat := blockAddr (0x10 + p % 4) (0x0018)
def NET_GMAXF.BYTES (p : Nat) : Fld := ⟨NET_GMAXF.addr p, 13, 0⟩

/-- NET_ARB (R185). -/
def NET_ARB.addr (p : Nat) : Nat := blockAddr (0x10 + p % 4) (0x0020)
def NET_ARB.LEAF (p : Nat) : Fld := ⟨NET_ARB.addr p, 0, 0⟩

/-- NET_WHEEL (R197). -/
def NET_WHEEL.addr (p : Nat) : Nat := blockAddr (0x10 + p % 4) (0x0024)
def NET_WHEEL.EN (p : Nat) : Fld := ⟨NET_WHEEL.addr p, 31, 31⟩
def NET_WHEEL.FILL (p : Nat) : Fld := ⟨NET_WHEEL.addr p, 30, 30⟩
def NET_WHEEL.LEN (p : Nat) : Fld := ⟨NET_WHEEL.addr p, 25, 16⟩
def NET_WHEEL.SLOT_NS (p : Nat) : Fld := ⟨NET_WHEEL.addr p, 15, 0⟩

/-- NET_QPS (R184). -/
def NET_QPS.addr (p : Nat) : Nat := blockAddr (0x10 + p % 4) (0x0028)
def NET_QPS.BURST (p : Nat) : Fld := ⟨NET_QPS.addr p, 19, 0⟩

/-- NET_TGW (R185). -/
def NET_TGW.addr (p i : Nat) : Nat := blockAddr (0x10 + p % 4) (0x0100 + 0x4 * i)
def NET_TGW.WEIGHT (p i : Nat) : Fld := ⟨NET_TGW.addr p i, 7, 0⟩

/-- NET_CBS (R196). -/
def NET_CBS.addr (p i j : Nat) : Nat := blockAddr (0x10 + p % 4) (0x0400 + 0x20 * i + 0x4 * j)
def NET_CBS.EN (p i j : Nat) : Fld := ⟨NET_CBS.addr p i j, 31, 31⟩
def NET_CBS.IDLE (p i j : Nat) : Fld := ⟨NET_CBS.addr p i j, 19, 0⟩

/-- NET_GCL_S0 (R187). -/
def NET_GCL_S0.addr (p i : Nat) : Nat := blockAddr (0x10 + p % 4) (0x1000 + 0x8 * i)
def NET_GCL_S0.GATES (p i : Nat) : Fld := ⟨NET_GCL_S0.addr p i, 7, 0⟩

/-- NET_GCL_S1 (R187). -/
def NET_GCL_S1.addr (p i : Nat) : Nat := blockAddr (0x10 + p % 4) (0x1004 + 0x8 * i)
def NET_GCL_S1.INTERVAL (p i : Nat) : Fld := ⟨NET_GCL_S1.addr p i, 31, 0⟩

/-- NET_GCL_A0 (R187). -/
def NET_GCL_A0.addr (p i : Nat) : Nat := blockAddr (0x10 + p % 4) (0x1800 + 0x8 * i)
def NET_GCL_A0.GATES (p i : Nat) : Fld := ⟨NET_GCL_A0.addr p i, 7, 0⟩

/-- NET_GCL_A1 (R187). -/
def NET_GCL_A1.addr (p i : Nat) : Nat := blockAddr (0x10 + p % 4) (0x1804 + 0x8 * i)
def NET_GCL_A1.INTERVAL (p i : Nat) : Fld := ⟨NET_GCL_A1.addr p i, 31, 0⟩

/-- NET_WHL (R197). -/
def NET_WHL.addr (p i : Nat) : Nat := blockAddr (0x10 + p % 4) (0x2000 + 0x4 * i)
def NET_WHL.GROUP (p i : Nat) : Fld := ⟨NET_WHL.addr p i, 7, 0⟩

/-- NET_OVERSIZE (R190). -/
def NET_OVERSIZE.addr (p : Nat) : Nat := blockAddr (0x10 + p % 4) (0x3000)
def NET_OVERSIZE.V (p : Nat) : Fld := ⟨NET_OVERSIZE.addr p, 63, 0⟩

/-- NET_OVERRUN (R191). -/
def NET_OVERRUN.addr (p : Nat) : Nat := blockAddr (0x10 + p % 4) (0x3008)
def NET_OVERRUN.V (p : Nat) : Fld := ⟨NET_OVERRUN.addr p, 63, 0⟩

/-- NET_GUARD_NS (R189). -/
def NET_GUARD_NS.addr (p : Nat) : Nat := blockAddr (0x10 + p % 4) (0x3010)
def NET_GUARD_NS.V (p : Nat) : Fld := ⟨NET_GUARD_NS.addr p, 63, 0⟩

/-- NET_SWITCHES (R193). -/
def NET_SWITCHES.addr (p : Nat) : Nat := blockAddr (0x10 + p % 4) (0x3018)
def NET_SWITCHES.V (p : Nat) : Fld := ⟨NET_SWITCHES.addr p, 63, 0⟩

/-- QDL_STAT (R232). -/
def QDL_STAT.addr : Nat := blockAddr 0x20 (0x0000)
def QDL_STAT.OPEN : Fld := ⟨QDL_STAT.addr, 25, 16⟩
def QDL_STAT.DEFER : Fld := ⟨QDL_STAT.addr, 7, 0⟩

/-- QDL_JSTAT (R224). -/
def QDL_JSTAT.addr : Nat := blockAddr 0x20 (0x0004)
def QDL_JSTAT.LIVE : Fld := ⟨QDL_JSTAT.addr, 18, 0⟩

/-- QDL_OPEN (R220). -/
def QDL_OPEN.addr : Nat := blockAddr 0x20 (0x0008)
def QDL_OPEN.IDLE : Fld := ⟨QDL_OPEN.addr, 31, 24⟩
def QDL_OPEN.DMAX : Fld := ⟨QDL_OPEN.addr, 23, 16⟩
def QDL_OPEN.MAX : Fld := ⟨QDL_OPEN.addr, 9, 0⟩

/-- QDL_FIG_CMD (R205). -/
def QDL_FIG_CMD.addr : Nat := blockAddr 0x20 (0x0010)
def QDL_FIG_CMD.BUSY : Fld := ⟨QDL_FIG_CMD.addr, 31, 31⟩
def QDL_FIG_CMD.STATUS : Fld := ⟨QDL_FIG_CMD.addr, 27, 24⟩
def QDL_FIG_CMD.OP : Fld := ⟨QDL_FIG_CMD.addr, 23, 22⟩
def QDL_FIG_CMD.SET : Fld := ⟨QDL_FIG_CMD.addr, 20, 19⟩
def QDL_FIG_CMD.ROW : Fld := ⟨QDL_FIG_CMD.addr, 11, 0⟩

/-- QDL_FIG_DATA (R205). -/
def QDL_FIG_DATA.addr (i : Nat) : Nat := blockAddr 0x20 (0x0040 + 0x4 * i)
def QDL_FIG_DATA.DATA (i : Nat) : Fld := ⟨QDL_FIG_DATA.addr i, 31, 0⟩

/-- QDL_CLOSE_FULL (R221). -/
def QDL_CLOSE_FULL.addr : Nat := blockAddr 0x20 (0x0100)
def QDL_CLOSE_FULL.V : Fld := ⟨QDL_CLOSE_FULL.addr, 63, 0⟩

/-- QDL_CLOSE_RECON (R221). -/
def QDL_CLOSE_RECON.addr : Nat := blockAddr 0x20 (0x0108)
def QDL_CLOSE_RECON.V : Fld := ⟨QDL_CLOSE_RECON.addr, 63, 0⟩

/-- QDL_CLOSE_RMW (R221). -/
def QDL_CLOSE_RMW.addr : Nat := blockAddr 0x20 (0x0110)
def QDL_CLOSE_RMW.V : Fld := ⟨QDL_CLOSE_RMW.addr, 63, 0⟩

/-- QDL_CLOSE_ZERO (R221). -/
def QDL_CLOSE_ZERO.addr : Nat := blockAddr 0x20 (0x0118)
def QDL_CLOSE_ZERO.V : Fld := ⟨QDL_CLOSE_ZERO.addr, 63, 0⟩

/-- QDL_DEGRADED_RD (R230). -/
def QDL_DEGRADED_RD.addr : Nat := blockAddr 0x20 (0x0120)
def QDL_DEGRADED_RD.V : Fld := ⟨QDL_DEGRADED_RD.addr, 63, 0⟩

/-- QDL_CHK_GUARD (R213). -/
def QDL_CHK_GUARD.addr : Nat := blockAddr 0x20 (0x0128)
def QDL_CHK_GUARD.V : Fld := ⟨QDL_CHK_GUARD.addr, 63, 0⟩

/-- QDL_CHK_REF (R213). -/
def QDL_CHK_REF.addr : Nat := blockAddr 0x20 (0x0130)
def QDL_CHK_REF.V : Fld := ⟨QDL_CHK_REF.addr, 63, 0⟩

/-- QDL_CHK_GEN (R213). -/
def QDL_CHK_GEN.addr : Nat := blockAddr 0x20 (0x0138)
def QDL_CHK_GEN.V : Fld := ⟨QDL_CHK_GEN.addr, 63, 0⟩

/-- QDL_JBLK_W (R226). -/
def QDL_JBLK_W.addr : Nat := blockAddr 0x20 (0x0140)
def QDL_JBLK_W.V : Fld := ⟨QDL_JBLK_W.addr, 63, 0⟩

/-- QDL_GEOM (R200). -/
def QDL_GEOM.addr (i : Nat) : Nat := blockAddr 0x20 (0x1000 + 0x100 * i)
def QDL_GEOM.VALID (i : Nat) : Fld := ⟨QDL_GEOM.addr i, 31, 31⟩
def QDL_GEOM.NMEM (i : Nat) : Fld := ⟨QDL_GEOM.addr i, 29, 24⟩
def QDL_GEOM.KDATA (i : Nat) : Fld := ⟨QDL_GEOM.addr i, 20, 16⟩
def QDL_GEOM.MPAR (i : Nat) : Fld := ⟨QDL_GEOM.addr i, 13, 12⟩
def QDL_GEOM.SPARE (i : Nat) : Fld := ⟨QDL_GEOM.addr i, 10, 8⟩
def QDL_GEOM.BLOCKS (i : Nat) : Fld := ⟨QDL_GEOM.addr i, 6, 0⟩

/-- QDL_GEOM_NEXT (R200). -/
def QDL_GEOM_NEXT.addr (i : Nat) : Nat := blockAddr 0x20 (0x1004 + 0x100 * i)
def QDL_GEOM_NEXT.VALID (i : Nat) : Fld := ⟨QDL_GEOM_NEXT.addr i, 31, 31⟩
def QDL_GEOM_NEXT.NMEM (i : Nat) : Fld := ⟨QDL_GEOM_NEXT.addr i, 29, 24⟩
def QDL_GEOM_NEXT.KDATA (i : Nat) : Fld := ⟨QDL_GEOM_NEXT.addr i, 20, 16⟩
def QDL_GEOM_NEXT.MPAR (i : Nat) : Fld := ⟨QDL_GEOM_NEXT.addr i, 13, 12⟩
def QDL_GEOM_NEXT.SPARE (i : Nat) : Fld := ⟨QDL_GEOM_NEXT.addr i, 10, 8⟩
def QDL_GEOM_NEXT.BLOCKS (i : Nat) : Fld := ⟨QDL_GEOM_NEXT.addr i, 6, 0⟩

/-- QDL_GEN (R212). -/
def QDL_GEN.addr (i : Nat) : Nat := blockAddr 0x20 (0x1008 + 0x100 * i)
def QDL_GEN.GEN_NEXT (i : Nat) : Fld := ⟨QDL_GEN.addr i, 31, 16⟩
def QDL_GEN.GEN (i : Nat) : Fld := ⟨QDL_GEN.addr i, 15, 0⟩

/-- QDL_JDRV (R225). -/
def QDL_JDRV.addr (i : Nat) : Nat := blockAddr 0x20 (0x100c + 0x100 * i)
def QDL_JDRV.V2 (i : Nat) : Fld := ⟨QDL_JDRV.addr i, 31, 31⟩
def QDL_JDRV.V1 (i : Nat) : Fld := ⟨QDL_JDRV.addr i, 30, 30⟩
def QDL_JDRV.V0 (i : Nat) : Fld := ⟨QDL_JDRV.addr i, 29, 29⟩
def QDL_JDRV.J2 (i : Nat) : Fld := ⟨QDL_JDRV.addr i, 21, 16⟩
def QDL_JDRV.J1 (i : Nat) : Fld := ⟨QDL_JDRV.addr i, 13, 8⟩
def QDL_JDRV.J0 (i : Nat) : Fld := ⟨QDL_JDRV.addr i, 5, 0⟩

/-- QDL_CAP (R206). -/
def QDL_CAP.addr (i : Nat) : Nat := blockAddr 0x20 (0x1010 + 0x100 * i)
def QDL_CAP.V (i : Nat) : Fld := ⟨QDL_CAP.addr i, 63, 0⟩

/-- QDL_SLICES (R203). -/
def QDL_SLICES.addr (i : Nat) : Nat := blockAddr 0x20 (0x1018 + 0x100 * i)
def QDL_SLICES.SLICES (i : Nat) : Fld := ⟨QDL_SLICES.addr i, 31, 0⟩

/-- QDL_HT (R200). -/
def QDL_HT.addr (i : Nat) : Nat := blockAddr 0x20 (0x101c + 0x100 * i)
def QDL_HT.T (i : Nat) : Fld := ⟨QDL_HT.addr i, 15, 8⟩
def QDL_HT.H (i : Nat) : Fld := ⟨QDL_HT.addr i, 4, 0⟩

/-- QDL_SUB (R210). -/
def QDL_SUB.addr (i j : Nat) : Nat := blockAddr 0x20 (0x1020 + 0x100 * i + 0x4 * j)
def QDL_SUB.VALID (i j : Nat) : Fld := ⟨QDL_SUB.addr i j, 31, 31⟩
def QDL_SUB.STATE (i j : Nat) : Fld := ⟨QDL_SUB.addr i j, 30, 29⟩
def QDL_SUB.MEMBER (i j : Nat) : Fld := ⟨QDL_SUB.addr i j, 5, 0⟩

/-- QDL_MEM (R209). -/
def QDL_MEM.addr (i j : Nat) : Nat := blockAddr 0x20 (0x1040 + 0x100 * i + 0x4 * j)
def QDL_MEM.VALID (i j : Nat) : Fld := ⟨QDL_MEM.addr i j, 31, 31⟩
def QDL_MEM.FAILED (i j : Nat) : Fld := ⟨QDL_MEM.addr i j, 30, 30⟩
def QDL_MEM.SLOT (i j : Nat) : Fld := ⟨QDL_MEM.addr i j, 5, 0⟩

/-- RBD_CTL (R251). -/
def RBD_CTL.addr : Nat := blockAddr 0x21 (0x0000)
def RBD_CTL.SCRUB_EN : Fld := ⟨RBD_CTL.addr, 31, 31⟩
def RBD_CTL.REPAIR_EN : Fld := ⟨RBD_CTL.addr, 30, 30⟩

/-- RBD_RATE (R239). -/
def RBD_RATE.addr : Nat := blockAddr 0x21 (0x0004)
def RBD_RATE.FULL : Fld := ⟨RBD_RATE.addr, 23, 16⟩
def RBD_RATE.RAISED : Fld := ⟨RBD_RATE.addr, 15, 8⟩
def RBD_RATE.BACKGROUND : Fld := ⟨RBD_RATE.addr, 7, 0⟩

/-- RBD_SCRUB (R252). -/
def RBD_SCRUB.addr : Nat := blockAddr 0x21 (0x0008)
def RBD_SCRUB.SRATE : Fld := ⟨RBD_SCRUB.addr, 31, 24⟩
def RBD_SCRUB.PERIOD : Fld := ⟨RBD_SCRUB.addr, 15, 0⟩

/-- RBD_PROM (R260). -/
def RBD_PROM.addr : Nat := blockAddr 0x21 (0x000c)
def RBD_PROM.PRATE : Fld := ⟨RBD_PROM.addr, 31, 24⟩
def RBD_PROM.CATCH : Fld := ⟨RBD_PROM.addr, 15, 8⟩
def RBD_PROM.PAR : Fld := ⟨RBD_PROM.addr, 2, 0⟩

/-- RBD_PCMD (R257). -/
def RBD_PCMD.addr : Nat := blockAddr 0x21 (0x0010)
def RBD_PCMD.BUSY : Fld := ⟨RBD_PCMD.addr, 31, 31⟩
def RBD_PCMD.STATUS : Fld := ⟨RBD_PCMD.addr, 27, 24⟩
def RBD_PCMD.OP : Fld := ⟨RBD_PCMD.addr, 23, 22⟩
def RBD_PCMD.SET : Fld := ⟨RBD_PCMD.addr, 20, 19⟩

/-- RBD_LOST (R246). -/
def RBD_LOST.addr : Nat := blockAddr 0x21 (0x0014)
def RBD_LOST.FULL : Fld := ⟨RBD_LOST.addr, 31, 31⟩
def RBD_LOST.USED : Fld := ⟨RBD_LOST.addr, 15, 0⟩

/-- RBD_STRIPES (R241). -/
def RBD_STRIPES.addr : Nat := blockAddr 0x21 (0x0100)
def RBD_STRIPES.V : Fld := ⟨RBD_STRIPES.addr, 63, 0⟩

/-- RBD_SKIPPED (R238). -/
def RBD_SKIPPED.addr : Nat := blockAddr 0x21 (0x0108)
def RBD_SKIPPED.V : Fld := ⟨RBD_SKIPPED.addr, 63, 0⟩

/-- RBD_REPAIRS (R253). -/
def RBD_REPAIRS.addr : Nat := blockAddr 0x21 (0x0110)
def RBD_REPAIRS.V : Fld := ⟨RBD_REPAIRS.addr, 63, 0⟩

/-- RBD_MARKS (R253). -/
def RBD_MARKS.addr : Nat := blockAddr 0x21 (0x0118)
def RBD_MARKS.V : Fld := ⟨RBD_MARKS.addr, 63, 0⟩

/-- RBD_CLEARS (R244). -/
def RBD_CLEARS.addr : Nat := blockAddr 0x21 (0x0120)
def RBD_CLEARS.V : Fld := ⟨RBD_CLEARS.addr, 63, 0⟩

/-- RBD_SCRUB_STRIPES (R253). -/
def RBD_SCRUB_STRIPES.addr : Nat := blockAddr 0x21 (0x0128)
def RBD_SCRUB_STRIPES.V : Fld := ⟨RBD_SCRUB_STRIPES.addr, 63, 0⟩

/-- RBD_SCRUB_PARFIX (R253). -/
def RBD_SCRUB_PARFIX.addr : Nat := blockAddr 0x21 (0x0130)
def RBD_SCRUB_PARFIX.V : Fld := ⟨RBD_SCRUB_PARFIX.addr, 63, 0⟩

/-- RBD_PROM_STRIPES (R261). -/
def RBD_PROM_STRIPES.addr : Nat := blockAddr 0x21 (0x0138)
def RBD_PROM_STRIPES.V : Fld := ⟨RBD_PROM_STRIPES.addr, 63, 0⟩

/-- RBD_SSTAT (R240). -/
def RBD_SSTAT.addr (i : Nat) : Nat := blockAddr 0x21 (0x1000 + 0x100 * i)
def RBD_SSTAT.PROM (i : Nat) : Fld := ⟨RBD_SSTAT.addr i, 27, 26⟩
def RBD_SSTAT.PRIO (i : Nat) : Fld := ⟨RBD_SSTAT.addr i, 25, 24⟩
def RBD_SSTAT.FAILED (i : Nat) : Fld := ⟨RBD_SSTAT.addr i, 21, 20⟩
def RBD_SSTAT.STATE (i : Nat) : Fld := ⟨RBD_SSTAT.addr i, 18, 16⟩

/-- RBD_DONE (R240). -/
def RBD_DONE.addr (i : Nat) : Nat := blockAddr 0x21 (0x1008 + 0x100 * i)
def RBD_DONE.V (i : Nat) : Fld := ⟨RBD_DONE.addr i, 63, 0⟩

/-- RBD_TOTAL (R240). -/
def RBD_TOTAL.addr (i : Nat) : Nat := blockAddr 0x21 (0x1010 + 0x100 * i)
def RBD_TOTAL.V (i : Nat) : Fld := ⟨RBD_TOTAL.addr i, 63, 0⟩

/-- RBD_CPOS (R255). -/
def RBD_CPOS.addr (i : Nat) : Nat := blockAddr 0x21 (0x1018 + 0x100 * i)
def RBD_CPOS.V (i : Nat) : Fld := ⟨RBD_CPOS.addr i, 63, 0⟩

/-- RBD_SPOS (R252). -/
def RBD_SPOS.addr (i : Nat) : Nat := blockAddr 0x21 (0x1020 + 0x100 * i)
def RBD_SPOS.V (i : Nat) : Fld := ⟨RBD_SPOS.addr i, 63, 0⟩

/-- RBD_PEXT_DONE (R261). -/
def RBD_PEXT_DONE.addr (i : Nat) : Nat := blockAddr 0x21 (0x1028 + 0x100 * i)
def RBD_PEXT_DONE.N (i : Nat) : Fld := ⟨RBD_PEXT_DONE.addr i, 27, 0⟩

/-- RBD_PEXT_TOTAL (R259). -/
def RBD_PEXT_TOTAL.addr (i : Nat) : Nat := blockAddr 0x21 (0x102c + 0x100 * i)
def RBD_PEXT_TOTAL.N (i : Nat) : Fld := ⟨RBD_PEXT_TOTAL.addr i, 27, 0⟩

/-- NRG_STAT (R279). -/
def NRG_STAT.addr : Nat := blockAddr 0x04 (0x0000)
def NRG_STAT.STATE : Fld := ⟨NRG_STAT.addr, 31, 29⟩
def NRG_STAT.HEALTH : Fld := ⟨NRG_STAT.addr, 28, 27⟩
def NRG_STAT.COVER : Fld := ⟨NRG_STAT.addr, 26, 26⟩
def NRG_STAT.OVERDUE : Fld := ⟨NRG_STAT.addr, 25, 25⟩
def NRG_STAT.DERATE : Fld := ⟨NRG_STAT.addr, 24, 24⟩

/-- NRG_EUSE (R276). -/
def NRG_EUSE.addr : Nat := blockAddr 0x04 (0x0004)
def NRG_EUSE.MJ : Fld := ⟨NRG_EUSE.addr, 19, 0⟩

/-- NRG_EFULL (R279). -/
def NRG_EFULL.addr : Nat := blockAddr 0x04 (0x0008)
def NRG_EFULL.MJ : Fld := ⟨NRG_EFULL.addr, 19, 0⟩

/-- NRG_TEMP (R276). -/
def NRG_TEMP.addr : Nat := blockAddr 0x04 (0x000c)
def NRG_TEMP.C : Fld := ⟨NRG_TEMP.addr, 7, 0⟩

/-- NRG_CFG (R280). -/
def NRG_CFG.addr : Nat := blockAddr 0x04 (0x0010)
def NRG_CFG.CHG_W : Fld := ⟨NRG_CFG.addr, 20, 16⟩
def NRG_CFG.TEST_DAYS : Fld := ⟨NRG_CFG.addr, 7, 0⟩

/-- NRG_CMD (R281). -/
def NRG_CMD.addr : Nat := blockAddr 0x04 (0x0014)
def NRG_CMD.TEST : Fld := ⟨NRG_CMD.addr, 0, 0⟩

/-- NRG_LASTTEST (R281). -/
def NRG_LASTTEST.addr : Nat := blockAddr 0x04 (0x0018)
def NRG_LASTTEST.V : Fld := ⟨NRG_LASTTEST.addr, 63, 0⟩

/-- NRG_CHARGE_MJ (R279). -/
def NRG_CHARGE_MJ.addr : Nat := blockAddr 0x04 (0x0100)
def NRG_CHARGE_MJ.V : Fld := ⟨NRG_CHARGE_MJ.addr, 63, 0⟩

/-- NRG_TESTS (R281). -/
def NRG_TESTS.addr : Nat := blockAddr 0x04 (0x0108)
def NRG_TESTS.V : Fld := ⟨NRG_TESTS.addr, 63, 0⟩

/-- NRG_DISCHARGES (R279). -/
def NRG_DISCHARGES.addr : Nat := blockAddr 0x04 (0x0110)
def NRG_DISCHARGES.V : Fld := ⟨NRG_DISCHARGES.addr, 63, 0⟩

/-- VLT_STAT (R285). -/
def VLT_STAT.addr : Nat := blockAddr 0x22 (0x0000)
def VLT_STAT.STATE : Fld := ⟨VLT_STAT.addr, 31, 29⟩
def VLT_STAT.AREA : Fld := ⟨VLT_STAT.addr, 28, 28⟩
def VLT_STAT.PARTIAL : Fld := ⟨VLT_STAT.addr, 27, 27⟩
def VLT_STAT.LIMITED : Fld := ⟨VLT_STAT.addr, 26, 26⟩
def VLT_STAT.WAITING : Fld := ⟨VLT_STAT.addr, 25, 25⟩

/-- VLT_CFG (R273). -/
def VLT_CFG.addr : Nat := blockAddr 0x22 (0x0004)
def VLT_CFG.WTA : Fld := ⟨VLT_CFG.addr, 13, 8⟩
def VLT_CFG.DCFG : Fld := ⟨VLT_CFG.addr, 5, 0⟩

/-- VLT_CEIL (R277). -/
def VLT_CEIL.addr : Nat := blockAddr 0x22 (0x0008)
def VLT_CEIL.D : Fld := ⟨VLT_CEIL.addr, 23, 0⟩

/-- VLT_DEN (R277). -/
def VLT_DEN.addr : Nat := blockAddr 0x22 (0x000c)
def VLT_DEN.D : Fld := ⟨VLT_DEN.addr, 24, 0⟩

/-- VLT_DIRTY (R272). -/
def VLT_DIRTY.addr : Nat := blockAddr 0x22 (0x0010)
def VLT_DIRTY.N : Fld := ⟨VLT_DIRTY.addr, 23, 0⟩

/-- VLT_WTHELD (R272). -/
def VLT_WTHELD.addr : Nat := blockAddr 0x22 (0x0014)
def VLT_WTHELD.N : Fld := ⟨VLT_WTHELD.addr, 23, 0⟩

/-- VLT_MIRROR (R275). -/
def VLT_MIRROR.addr : Nat := blockAddr 0x22 (0x0018)
def VLT_MIRROR.N : Fld := ⟨VLT_MIRROR.addr, 23, 0⟩

/-- VLT_MAPDIRTY (R284). -/
def VLT_MAPDIRTY.addr : Nat := blockAddr 0x22 (0x001c)
def VLT_MAPDIRTY.N : Fld := ⟨VLT_MAPDIRTY.addr, 19, 0⟩

/-- VLT_ISEQ (R287). -/
def VLT_ISEQ.addr : Nat := blockAddr 0x22 (0x0020)
def VLT_ISEQ.V : Fld := ⟨VLT_ISEQ.addr, 63, 0⟩

/-- VLT_DESTAGES (R287). -/
def VLT_DESTAGES.addr : Nat := blockAddr 0x22 (0x0100)
def VLT_DESTAGES.V : Fld := ⟨VLT_DESTAGES.addr, 63, 0⟩

/-- VLT_RESTORES (R291). -/
def VLT_RESTORES.addr : Nat := blockAddr 0x22 (0x0108)
def VLT_RESTORES.V : Fld := ⟨VLT_RESTORES.addr, 63, 0⟩

/-- VLT_ROOM_WAITS (R273). -/
def VLT_ROOM_WAITS.addr : Nat := blockAddr 0x22 (0x0110)
def VLT_ROOM_WAITS.V : Fld := ⟨VLT_ROOM_WAITS.addr, 63, 0⟩

/-- VLT_ROOM_WAIT_NS (R273). -/
def VLT_ROOM_WAIT_NS.addr : Nat := blockAddr 0x22 (0x0118)
def VLT_ROOM_WAIT_NS.V : Fld := ⟨VLT_ROOM_WAIT_NS.addr, 63, 0⟩

/-- VLT_MODE_CHANGES (R55). -/
def VLT_MODE_CHANGES.addr : Nat := blockAddr 0x22 (0x0120)
def VLT_MODE_CHANGES.V : Fld := ⟨VLT_MODE_CHANGES.addr, 63, 0⟩

/-- VLT_MAP_PAGES (R284). -/
def VLT_MAP_PAGES.addr : Nat := blockAddr 0x22 (0x0128)
def VLT_MAP_PAGES.V : Fld := ⟨VLT_MAP_PAGES.addr, 63, 0⟩

/-- EZL_STAT (R300). -/
def EZL_STAT.addr : Nat := blockAddr 0x24 (0x0000)
def EZL_STAT.STATE : Fld := ⟨EZL_STAT.addr, 31, 29⟩
def EZL_STAT.WIDTH : Fld := ⟨EZL_STAT.addr, 28, 27⟩
def EZL_STAT.FOLLOW_LOST : Fld := ⟨EZL_STAT.addr, 26, 26⟩
def EZL_STAT.NOPAIR : Fld := ⟨EZL_STAT.addr, 25, 23⟩
def EZL_STAT.JOINED : Fld := ⟨EZL_STAT.addr, 7, 0⟩

/-- EZL_CTL (R300). -/
def EZL_CTL.addr : Nat := blockAddr 0x24 (0x0004)
def EZL_CTL.EN : Fld := ⟨EZL_CTL.addr, 31, 31⟩
def EZL_CTL.CTMO : Fld := ⟨EZL_CTL.addr, 7, 0⟩

/-- EZL_LANES (R296). -/
def EZL_LANES.addr : Nat := blockAddr 0x24 (0x0008)
def EZL_LANES.LANES : Fld := ⟨EZL_LANES.addr, 15, 0⟩

/-- EZL_CSENT (R313). -/
def EZL_CSENT.addr : Nat := blockAddr 0x24 (0x0010)
def EZL_CSENT.V : Fld := ⟨EZL_CSENT.addr, 63, 0⟩

/-- EZL_CRCVD (R299). -/
def EZL_CRCVD.addr : Nat := blockAddr 0x24 (0x0018)
def EZL_CRCVD.V : Fld := ⟨EZL_CRCVD.addr, 63, 0⟩

/-- EZL_RETAIN (R299). -/
def EZL_RETAIN.addr : Nat := blockAddr 0x24 (0x0020)
def EZL_RETAIN.CELLS : Fld := ⟨EZL_RETAIN.addr, 19, 0⟩

/-- EZL_CH_BASE_LO (R307). -/
def EZL_CH_BASE_LO.addr (i : Nat) : Nat := blockAddr 0x24 (0x0100 + 0x10 * i)
def EZL_CH_BASE_LO.BASE (i : Nat) : Fld := ⟨EZL_CH_BASE_LO.addr i, 31, 21⟩

/-- EZL_CH_BASE_HI (R307). -/
def EZL_CH_BASE_HI.addr (i : Nat) : Nat := blockAddr 0x24 (0x0104 + 0x10 * i)
def EZL_CH_BASE_HI.OPEN (i : Nat) : Fld := ⟨EZL_CH_BASE_HI.addr i, 31, 31⟩
def EZL_CH_BASE_HI.BASE (i : Nat) : Fld := ⟨EZL_CH_BASE_HI.addr i, 15, 0⟩

/-- EZL_CH_RXPOST (R308). -/
def EZL_CH_RXPOST.addr (i : Nat) : Nat := blockAddr 0x24 (0x0108 + 0x10 * i)
def EZL_CH_RXPOST.POST (i : Nat) : Fld := ⟨EZL_CH_RXPOST.addr i, 7, 0⟩

/-- EZL_CH_TXPOST (R308). -/
def EZL_CH_TXPOST.addr (i : Nat) : Nat := blockAddr 0x24 (0x010c + 0x10 * i)
def EZL_CH_TXPOST.POST (i : Nat) : Fld := ⟨EZL_CH_TXPOST.addr i, 7, 0⟩

/-- EZL_TX_FRAMES (R298). -/
def EZL_TX_FRAMES.addr : Nat := blockAddr 0x24 (0x0800)
def EZL_TX_FRAMES.V : Fld := ⟨EZL_TX_FRAMES.addr, 63, 0⟩

/-- EZL_RX_FRAMES (R298). -/
def EZL_RX_FRAMES.addr : Nat := blockAddr 0x24 (0x0808)
def EZL_RX_FRAMES.V : Fld := ⟨EZL_RX_FRAMES.addr, 63, 0⟩

/-- EZL_FEC_CORR (R296). -/
def EZL_FEC_CORR.addr : Nat := blockAddr 0x24 (0x0810)
def EZL_FEC_CORR.V : Fld := ⟨EZL_FEC_CORR.addr, 63, 0⟩

/-- EZL_FEC_UNCORR (R296). -/
def EZL_FEC_UNCORR.addr : Nat := blockAddr 0x24 (0x0818)
def EZL_FEC_UNCORR.V : Fld := ⟨EZL_FEC_UNCORR.addr, 63, 0⟩

/-- EZL_REPLAY (R298). -/
def EZL_REPLAY.addr : Nat := blockAddr 0x24 (0x0820)
def EZL_REPLAY.V : Fld := ⟨EZL_REPLAY.addr, 63, 0⟩

/-- EZL_DUP (R305). -/
def EZL_DUP.addr : Nat := blockAddr 0x24 (0x0828)
def EZL_DUP.V : Fld := ⟨EZL_DUP.addr, 63, 0⟩

/-- EZL_WIN_REJ (R303). -/
def EZL_WIN_REJ.addr : Nat := blockAddr 0x24 (0x0830)
def EZL_WIN_REJ.V : Fld := ⟨EZL_WIN_REJ.addr, 63, 0⟩

/-- EZL_TAG_FAIL (R297). -/
def EZL_TAG_FAIL.addr : Nat := blockAddr 0x24 (0x0838)
def EZL_TAG_FAIL.V : Fld := ⟨EZL_TAG_FAIL.addr, 63, 0⟩

/-- EZL_RETRAIN (R296). -/
def EZL_RETRAIN.addr : Nat := blockAddr 0x24 (0x0840)
def EZL_RETRAIN.V : Fld := ⟨EZL_RETRAIN.addr, 63, 0⟩

/-- EZL_RESEND (R313). -/
def EZL_RESEND.addr : Nat := blockAddr 0x24 (0x0848)
def EZL_RESEND.V : Fld := ⟨EZL_RESEND.addr, 63, 0⟩

/-- EZL_WIN_BASE_LO (R304). -/
def EZL_WIN_BASE_LO.addr (i : Nat) : Nat := blockAddr 0x24 (0x1000 + 0x10 * i)
def EZL_WIN_BASE_LO.BASE (i : Nat) : Fld := ⟨EZL_WIN_BASE_LO.addr i, 31, 12⟩

/-- EZL_WIN_BASE_HI (R304). -/
def EZL_WIN_BASE_HI.addr (i : Nat) : Nat := blockAddr 0x24 (0x1004 + 0x10 * i)
def EZL_WIN_BASE_HI.BASE (i : Nat) : Fld := ⟨EZL_WIN_BASE_HI.addr i, 15, 0⟩

/-- EZL_WIN_LEN (R304). -/
def EZL_WIN_LEN.addr (i : Nat) : Nat := blockAddr 0x24 (0x1008 + 0x10 * i)
def EZL_WIN_LEN.LEN (i : Nat) : Fld := ⟨EZL_WIN_LEN.addr i, 31, 0⟩

/-- EZL_WIN_CTL (R303). -/
def EZL_WIN_CTL.addr (i : Nat) : Nat := blockAddr 0x24 (0x100c + 0x10 * i)
def EZL_WIN_CTL.VALID (i : Nat) : Fld := ⟨EZL_WIN_CTL.addr i, 31, 31⟩
def EZL_WIN_CTL.WR (i : Nat) : Fld := ⟨EZL_WIN_CTL.addr i, 30, 30⟩
def EZL_WIN_CTL.OWNER (i : Nat) : Fld := ⟨EZL_WIN_CTL.addr i, 27, 24⟩
def EZL_WIN_CTL.KEY (i : Nat) : Fld := ⟨EZL_WIN_CTL.addr i, 15, 0⟩

/-- LTK_STAT (R342). -/
def LTK_STAT.addr : Nat := blockAddr 0x25 (0x0000)
def LTK_STAT.LEAD : Fld := ⟨LTK_STAT.addr, 31, 24⟩
def LTK_STAT.CHANGE : Fld := ⟨LTK_STAT.addr, 23, 16⟩
def LTK_STAT.NOLEAD : Fld := ⟨LTK_STAT.addr, 15, 8⟩
def LTK_STAT.PLOSS : Fld := ⟨LTK_STAT.addr, 7, 0⟩

/-- LTK_CFG (R322). -/
def LTK_CFG.addr : Nat := blockAddr 0x25 (0x0004)
def LTK_CFG.LEASE : Fld := ⟨LTK_CFG.addr, 30, 24⟩
def LTK_CFG.MISS : Fld := ⟨LTK_CFG.addr, 23, 16⟩
def LTK_CFG.RENEW : Fld := ⟨LTK_CFG.addr, 15, 0⟩

/-- LTK_WIT (R319). -/
def LTK_WIT.addr : Nat := blockAddr 0x25 (0x0008)
def LTK_WIT.W4 : Fld := ⟨LTK_WIT.addr, 29, 24⟩
def LTK_WIT.W3 : Fld := ⟨LTK_WIT.addr, 23, 18⟩
def LTK_WIT.W2 : Fld := ⟨LTK_WIT.addr, 17, 12⟩
def LTK_WIT.W1 : Fld := ⟨LTK_WIT.addr, 11, 6⟩
def LTK_WIT.W0 : Fld := ⟨LTK_WIT.addr, 5, 0⟩

/-- LTK_WITC (R319). -/
def LTK_WITC.addr : Nat := blockAddr 0x25 (0x000c)
def LTK_WITC.COUNT : Fld := ⟨LTK_WITC.addr, 10, 8⟩
def LTK_WITC.V : Fld := ⟨LTK_WITC.addr, 4, 0⟩

/-- LTK_HOME (R340). -/
def LTK_HOME.addr : Nat := blockAddr 0x25 (0x0010)
def LTK_HOME.HBDELAY : Fld := ⟨LTK_HOME.addr, 31, 16⟩
def LTK_HOME.HBEN : Fld := ⟨LTK_HOME.addr, 15, 8⟩
def LTK_HOME.HOME : Fld := ⟨LTK_HOME.addr, 7, 0⟩

/-- LTK_CMD (R342). -/
def LTK_CMD.addr : Nat := blockAddr 0x25 (0x0014)
def LTK_CMD.BUSY : Fld := ⟨LTK_CMD.addr, 31, 31⟩
def LTK_CMD.STATUS : Fld := ⟨LTK_CMD.addr, 27, 24⟩
def LTK_CMD.OP : Fld := ⟨LTK_CMD.addr, 19, 16⟩
def LTK_CMD.GROUP : Fld := ⟨LTK_CMD.addr, 2, 0⟩

/-- LTK_CSTAT (R334). -/
def LTK_CSTAT.addr : Nat := blockAddr 0x25 (0x0018)
def LTK_CSTAT.GROUPS : Fld := ⟨LTK_CSTAT.addr, 23, 16⟩
def LTK_CSTAT.STATE : Fld := ⟨LTK_CSTAT.addr, 2, 0⟩

/-- LTK_TIMERS (R332). -/
def LTK_TIMERS.addr : Nat := blockAddr 0x25 (0x001c)
def LTK_TIMERS.STEST : Fld := ⟨LTK_TIMERS.addr, 31, 16⟩
def LTK_TIMERS.PCYC : Fld := ⟨LTK_TIMERS.addr, 15, 0⟩

/-- LTK_KEY (R327). -/
def LTK_KEY.addr : Nat := blockAddr 0x25 (0x0020)
def LTK_KEY.V : Fld := ⟨LTK_KEY.addr, 63, 0⟩

/-- LTK_HEALTH (R331). -/
def LTK_HEALTH.addr : Nat := blockAddr 0x25 (0x0028)
def LTK_HEALTH.V : Fld := ⟨LTK_HEALTH.addr, 63, 0⟩

/-- LTK_PHEALTH (R331). -/
def LTK_PHEALTH.addr : Nat := blockAddr 0x25 (0x0030)
def LTK_PHEALTH.V : Fld := ⟨LTK_PHEALTH.addr, 63, 0⟩

/-- LTK_EXP (R334). -/
def LTK_EXP.addr (i : Nat) : Nat := blockAddr 0x25 (0x0040 + 0x8 * i)
def LTK_EXP.V (i : Nat) : Fld := ⟨LTK_EXP.addr i, 63, 0⟩

/-- LTK_RENEWS (R322). -/
def LTK_RENEWS.addr : Nat := blockAddr 0x25 (0x0100)
def LTK_RENEWS.V : Fld := ⟨LTK_RENEWS.addr, 63, 0⟩

/-- LTK_RENEW_FAIL (R323). -/
def LTK_RENEW_FAIL.addr : Nat := blockAddr 0x25 (0x0108)
def LTK_RENEW_FAIL.V : Fld := ⟨LTK_RENEW_FAIL.addr, 63, 0⟩

/-- LTK_CUTINS (R334). -/
def LTK_CUTINS.addr : Nat := blockAddr 0x25 (0x0110)
def LTK_CUTINS.V : Fld := ⟨LTK_CUTINS.addr, 63, 0⟩

/-- LTK_HANDOVERS (R339). -/
def LTK_HANDOVERS.addr : Nat := blockAddr 0x25 (0x0118)
def LTK_HANDOVERS.V : Fld := ⟨LTK_HANDOVERS.addr, 63, 0⟩

/-- LTK_WIT_ERR (R321). -/
def LTK_WIT_ERR.addr : Nat := blockAddr 0x25 (0x0120)
def LTK_WIT_ERR.V : Fld := ⟨LTK_WIT_ERR.addr, 63, 0⟩

/-- LTK_STEST_FAIL (R332). -/
def LTK_STEST_FAIL.addr : Nat := blockAddr 0x25 (0x0128)
def LTK_STEST_FAIL.V : Fld := ⟨LTK_STEST_FAIL.addr, 63, 0⟩

/-- SLT_STAT (R348). -/
def SLT_STAT.addr (k : Nat) : Nat := blockAddr (0x28 + k % 48) (0x0000)
def SLT_STAT.STATE (k : Nat) : Fld := ⟨SLT_STAT.addr k, 31, 28⟩
def SLT_STAT.PRSNT (k : Nat) : Fld := ⟨SLT_STAT.addr k, 27, 27⟩
def SLT_STAT.PWR_OWN (k : Nat) : Fld := ⟨SLT_STAT.addr k, 26, 26⟩
def SLT_STAT.PWR_NET (k : Nat) : Fld := ⟨SLT_STAT.addr k, 25, 25⟩
def SLT_STAT.ATTN (k : Nat) : Fld := ⟨SLT_STAT.addr k, 24, 24⟩
def SLT_STAT.REASON (k : Nat) : Fld := ⟨SLT_STAT.addr k, 23, 20⟩

/-- SLT_CTL (R351). -/
def SLT_CTL.addr (k : Nat) : Nat := blockAddr (0x28 + k % 48) (0x0004)
def SLT_CTL.ATTN_EN (k : Nat) : Fld := ⟨SLT_CTL.addr k, 1, 1⟩
def SLT_CTL.LOCATE (k : Nat) : Fld := ⟨SLT_CTL.addr k, 0, 0⟩

/-- SLT_EVT (R362). -/
def SLT_EVT.addr (k : Nat) : Nat := blockAddr (0x28 + k % 48) (0x0008)
def SLT_EVT.MI_FAIL (k : Nat) : Fld := ⟨SLT_EVT.addr k, 7, 7⟩
def SLT_EVT.CANCEL (k : Nat) : Fld := ⟨SLT_EVT.addr k, 6, 6⟩
def SLT_EVT.REMOVE_DONE (k : Nat) : Fld := ⟨SLT_EVT.addr k, 5, 5⟩
def SLT_EVT.REFUSED (k : Nat) : Fld := ⟨SLT_EVT.addr k, 4, 4⟩
def SLT_EVT.CONTAIN (k : Nat) : Fld := ⟨SLT_EVT.addr k, 3, 3⟩
def SLT_EVT.ATTN_PRESS (k : Nat) : Fld := ⟨SLT_EVT.addr k, 2, 2⟩
def SLT_EVT.LINK_CHG (k : Nat) : Fld := ⟨SLT_EVT.addr k, 1, 1⟩
def SLT_EVT.PRSNT_CHG (k : Nat) : Fld := ⟨SLT_EVT.addr k, 0, 0⟩

/-- SLT_LSTAT (R344). -/
def SLT_LSTAT.addr (k : Nat) : Nat := blockAddr (0x28 + k % 48) (0x000c)
def SLT_LSTAT.UP (k : Nat) : Fld := ⟨SLT_LSTAT.addr k, 31, 31⟩
def SLT_LSTAT.FLIT (k : Nat) : Fld := ⟨SLT_LSTAT.addr k, 30, 30⟩
def SLT_LSTAT.DEGRADED (k : Nat) : Fld := ⟨SLT_LSTAT.addr k, 29, 29⟩
def SLT_LSTAT.SPEED (k : Nat) : Fld := ⟨SLT_LSTAT.addr k, 19, 16⟩
def SLT_LSTAT.WIDTH (k : Nat) : Fld := ⟨SLT_LSTAT.addr k, 1, 0⟩

/-- SLT_CMD (R348). -/
def SLT_CMD.addr (k : Nat) : Nat := blockAddr (0x28 + k % 48) (0x0010)
def SLT_CMD.BUSY (k : Nat) : Fld := ⟨SLT_CMD.addr k, 31, 31⟩
def SLT_CMD.STATUS (k : Nat) : Fld := ⟨SLT_CMD.addr k, 27, 24⟩
def SLT_CMD.OP (k : Nat) : Fld := ⟨SLT_CMD.addr k, 19, 16⟩

/-- SLT_CFG (R358). -/
def SLT_CFG.addr (k : Nat) : Nat := blockAddr (0x28 + k % 48) (0x0014)
def SLT_CFG.CMD_TMO (k : Nat) : Fld := ⟨SLT_CFG.addr k, 15, 0⟩

/-- SLT_MI (R361). -/
def SLT_MI.addr (k : Nat) : Nat := blockAddr (0x28 + k % 48) (0x0018)
def SLT_MI.MI_OK (k : Nat) : Fld := ⟨SLT_MI.addr k, 31, 31⟩
def SLT_MI.FLAGS (k : Nat) : Fld := ⟨SLT_MI.addr k, 23, 16⟩
def SLT_MI.WARN (k : Nat) : Fld := ⟨SLT_MI.addr k, 15, 8⟩
def SLT_MI.TEMP (k : Nat) : Fld := ⟨SLT_MI.addr k, 7, 0⟩

/-- SLT_CMDS (R358). -/
def SLT_CMDS.addr (k : Nat) : Nat := blockAddr (0x28 + k % 48) (0x0100)
def SLT_CMDS.V (k : Nat) : Fld := ⟨SLT_CMDS.addr k, 63, 0⟩

/-- SLT_RETRIES (R358). -/
def SLT_RETRIES.addr (k : Nat) : Nat := blockAddr (0x28 + k % 48) (0x0108)
def SLT_RETRIES.V (k : Nat) : Fld := ⟨SLT_RETRIES.addr k, 63, 0⟩

/-- SLT_TMO (R358). -/
def SLT_TMO.addr (k : Nat) : Nat := blockAddr (0x28 + k % 48) (0x0110)
def SLT_TMO.V (k : Nat) : Fld := ⟨SLT_TMO.addr k, 63, 0⟩

/-- SLT_CORR (R353). -/
def SLT_CORR.addr (k : Nat) : Nat := blockAddr (0x28 + k % 48) (0x0118)
def SLT_CORR.V (k : Nat) : Fld := ⟨SLT_CORR.addr k, 63, 0⟩

/-- SLT_UNCORR (R353). -/
def SLT_UNCORR.addr (k : Nat) : Nat := blockAddr (0x28 + k % 48) (0x0120)
def SLT_UNCORR.V (k : Nat) : Fld := ⟨SLT_UNCORR.addr k, 63, 0⟩

/-- SLT_DPC (R353). -/
def SLT_DPC.addr (k : Nat) : Nat := blockAddr (0x28 + k % 48) (0x0128)
def SLT_DPC.V (k : Nat) : Fld := ⟨SLT_DPC.addr k, 63, 0⟩

/-- SLT_MI_ERR (R361). -/
def SLT_MI_ERR.addr (k : Nat) : Nat := blockAddr (0x28 + k % 48) (0x0130)
def SLT_MI_ERR.V (k : Nat) : Fld := ⟨SLT_MI_ERR.addr k, 63, 0⟩

/-- DPT_STAT (R363). -/
def DPT_STAT.addr : Nat := blockAddr 0x60 (0x0000)
def DPT_STAT.UP : Fld := ⟨DPT_STAT.addr, 31, 31⟩
def DPT_STAT.FLIT : Fld := ⟨DPT_STAT.addr, 30, 30⟩
def DPT_STAT.DEGRADED : Fld := ⟨DPT_STAT.addr, 29, 29⟩
def DPT_STAT.PERST : Fld := ⟨DPT_STAT.addr, 28, 28⟩
def DPT_STAT.CBL : Fld := ⟨DPT_STAT.addr, 27, 27⟩
def DPT_STAT.WAKE : Fld := ⟨DPT_STAT.addr, 26, 26⟩
def DPT_STAT.SPEED : Fld := ⟨DPT_STAT.addr, 19, 16⟩
def DPT_STAT.WIDTH : Fld := ⟨DPT_STAT.addr, 4, 0⟩

/-- DPT_CTL (R366). -/
def DPT_CTL.addr : Nat := blockAddr 0x60 (0x0004)
def DPT_CTL.EN : Fld := ⟨DPT_CTL.addr, 31, 31⟩

/-- DPT_FSTAT (R377). -/
def DPT_FSTAT.addr (i : Nat) : Nat := blockAddr 0x60 (0x0008 + 0x4 * i)
def DPT_FSTAT.STATE (i : Nat) : Fld := ⟨DPT_FSTAT.addr i, 31, 29⟩
def DPT_FSTAT.BME (i : Nat) : Fld := ⟨DPT_FSTAT.addr i, 28, 28⟩
def DPT_FSTAT.LATCH (i : Nat) : Fld := ⟨DPT_FSTAT.addr i, 27, 27⟩
def DPT_FSTAT.TPEND (i : Nat) : Fld := ⟨DPT_FSTAT.addr i, 26, 26⟩
def DPT_FSTAT.DSTATE (i : Nat) : Fld := ⟨DPT_FSTAT.addr i, 25, 24⟩
def DPT_FSTAT.CAUSE (i : Nat) : Fld := ⟨DPT_FSTAT.addr i, 23, 16⟩
def DPT_FSTAT.OUTRD (i : Nat) : Fld := ⟨DPT_FSTAT.addr i, 9, 0⟩

/-- DPT_EVT (R383). -/
def DPT_EVT.addr : Nat := blockAddr 0x60 (0x0010)
def DPT_EVT.WAKE : Fld := ⟨DPT_EVT.addr, 7, 7⟩
def DPT_EVT.CTO : Fld := ⟨DPT_EVT.addr, 6, 6⟩
def DPT_EVT.DISCARD : Fld := ⟨DPT_EVT.addr, 5, 5⟩
def DPT_EVT.D3 : Fld := ⟨DPT_EVT.addr, 4, 4⟩
def DPT_EVT.BME_OFF : Fld := ⟨DPT_EVT.addr, 3, 3⟩
def DPT_EVT.PERST : Fld := ⟨DPT_EVT.addr, 2, 2⟩
def DPT_EVT.HOTRST : Fld := ⟨DPT_EVT.addr, 1, 1⟩
def DPT_EVT.FLR : Fld := ⟨DPT_EVT.addr, 0, 0⟩

/-- DPT_RD_REQ (R375). -/
def DPT_RD_REQ.addr : Nat := blockAddr 0x60 (0x0100)
def DPT_RD_REQ.V : Fld := ⟨DPT_RD_REQ.addr, 63, 0⟩

/-- DPT_WR_TLP (R374). -/
def DPT_WR_TLP.addr : Nat := blockAddr 0x60 (0x0108)
def DPT_WR_TLP.V : Fld := ⟨DPT_WR_TLP.addr, 63, 0⟩

/-- DPT_CPL_DISC (R377). -/
def DPT_CPL_DISC.addr : Nat := blockAddr 0x60 (0x0110)
def DPT_CPL_DISC.V : Fld := ⟨DPT_CPL_DISC.addr, 63, 0⟩

/-- DPT_CTO (R369). -/
def DPT_CTO.addr : Nat := blockAddr 0x60 (0x0118)
def DPT_CTO.V : Fld := ⟨DPT_CTO.addr, 63, 0⟩

/-- DPT_FLR (R380). -/
def DPT_FLR.addr : Nat := blockAddr 0x60 (0x0120)
def DPT_FLR.V : Fld := ⟨DPT_FLR.addr, 63, 0⟩

/-- DPT_HOTRST (R379). -/
def DPT_HOTRST.addr : Nat := blockAddr 0x60 (0x0128)
def DPT_HOTRST.V : Fld := ⟨DPT_HOTRST.addr, 63, 0⟩

/-- DPT_PERST (R379). -/
def DPT_PERST.addr : Nat := blockAddr 0x60 (0x0130)
def DPT_PERST.V : Fld := ⟨DPT_PERST.addr, 63, 0⟩

/-- DPT_CORR (R383). -/
def DPT_CORR.addr : Nat := blockAddr 0x60 (0x0138)
def DPT_CORR.V : Fld := ⟨DPT_CORR.addr, 63, 0⟩

/-- DPT_UNCORR (R383). -/
def DPT_UNCORR.addr : Nat := blockAddr 0x60 (0x0140)
def DPT_UNCORR.V : Fld := ⟨DPT_UNCORR.addr, 63, 0⟩

/-- EFU_STAT (R388). -/
def EFU_STAT.addr : Nat := blockAddr 0x03 (0x0000)
def EFU_STAT.STATE : Fld := ⟨EFU_STAT.addr, 31, 28⟩
def EFU_STAT.PG : Fld := ⟨EFU_STAT.addr, 27, 27⟩
def EFU_STAT.SEATA : Fld := ⟨EFU_STAT.addr, 26, 26⟩
def EFU_STAT.SEATB : Fld := ⟨EFU_STAT.addr, 25, 25⟩
def EFU_STAT.EN : Fld := ⟨EFU_STAT.addr, 24, 24⟩
def EFU_STAT.CYCIN : Fld := ⟨EFU_STAT.addr, 23, 23⟩
def EFU_STAT.LIMIT : Fld := ⟨EFU_STAT.addr, 22, 22⟩
def EFU_STAT.PCYC : Fld := ⟨EFU_STAT.addr, 21, 21⟩

/-- EFU_LAST (R385). -/
def EFU_LAST.addr : Nat := blockAddr 0x03 (0x0004)
def EFU_LAST.CAUSE : Fld := ⟨EFU_LAST.addr, 31, 28⟩
def EFU_LAST.IPEAK : Fld := ⟨EFU_LAST.addr, 23, 16⟩
def EFU_LAST.VIN : Fld := ⟨EFU_LAST.addr, 15, 0⟩

/-- EFU_VIN (R400). -/
def EFU_VIN.addr : Nat := blockAddr 0x03 (0x0008)
def EFU_VIN.MV : Fld := ⟨EFU_VIN.addr, 15, 0⟩

/-- EFU_IIN (R400). -/
def EFU_IIN.addr : Nat := blockAddr 0x03 (0x000c)
def EFU_IIN.MA : Fld := ⟨EFU_IIN.addr, 15, 0⟩

/-- EFU_CFG (R388). -/
def EFU_CFG.addr : Nat := blockAddr 0x03 (0x0010)
def EFU_CFG.PEER_EN : Fld := ⟨EFU_CFG.addr, 31, 31⟩
def EFU_CFG.OFF_MS : Fld := ⟨EFU_CFG.addr, 15, 0⟩

/-- EFU_CMD (R398). -/
def EFU_CMD.addr : Nat := blockAddr 0x03 (0x0014)
def EFU_CMD.CYCLE : Fld := ⟨EFU_CMD.addr, 0, 0⟩

/-- EFU_LIMIT_EVTS (R391). -/
def EFU_LIMIT_EVTS.addr : Nat := blockAddr 0x03 (0x0100)
def EFU_LIMIT_EVTS.V : Fld := ⟨EFU_LIMIT_EVTS.addr, 63, 0⟩

/-- EFU_PG_DROPS (R395). -/
def EFU_PG_DROPS.addr : Nat := blockAddr 0x03 (0x0108)
def EFU_PG_DROPS.V : Fld := ⟨EFU_PG_DROPS.addr, 63, 0⟩

/-- CIP_STAT (R408). -/
def CIP_STAT.addr : Nat := blockAddr 0x0c (0x0000)
def CIP_STAT.INIT : Fld := ⟨CIP_STAT.addr, 31, 31⟩
def CIP_STAT.DRBG_OK : Fld := ⟨CIP_STAT.addr, 30, 30⟩
def CIP_STAT.KAT_OK : Fld := ⟨CIP_STAT.addr, 29, 29⟩
def CIP_STAT.RATCHET : Fld := ⟨CIP_STAT.addr, 28, 28⟩
def CIP_STAT.KEKGEN : Fld := ⟨CIP_STAT.addr, 15, 0⟩

/-- CIP_KCMD (R409). -/
def CIP_KCMD.addr : Nat := blockAddr 0x0c (0x0004)
def CIP_KCMD.BUSY : Fld := ⟨CIP_KCMD.addr, 31, 31⟩
def CIP_KCMD.STATUS : Fld := ⟨CIP_KCMD.addr, 27, 24⟩
def CIP_KCMD.OP : Fld := ⟨CIP_KCMD.addr, 23, 20⟩
def CIP_KCMD.SLOT : Fld := ⟨CIP_KCMD.addr, 13, 0⟩

/-- CIP_KCMD_ADDR (R418). -/
def CIP_KCMD_ADDR.addr : Nat := blockAddr 0x0c (0x0008)
def CIP_KCMD_ADDR.V : Fld := ⟨CIP_KCMD_ADDR.addr, 63, 0⟩

/-- CIP_KCMD_ARG (R418). -/
def CIP_KCMD_ARG.addr : Nat := blockAddr 0x0c (0x0010)
def CIP_KCMD_ARG.V : Fld := ⟨CIP_KCMD_ARG.addr, 63, 0⟩

/-- CIP_XTS_BYTES (R410). -/
def CIP_XTS_BYTES.addr : Nat := blockAddr 0x0c (0x0100)
def CIP_XTS_BYTES.V : Fld := ⟨CIP_XTS_BYTES.addr, 63, 0⟩

/-- CIP_GCM_BYTES (R410). -/
def CIP_GCM_BYTES.addr : Nat := blockAddr 0x0c (0x0108)
def CIP_GCM_BYTES.V : Fld := ⟨CIP_GCM_BYTES.addr, 63, 0⟩

/-- CIP_TAG_FAIL (R417). -/
def CIP_TAG_FAIL.addr : Nat := blockAddr 0x0c (0x0110)
def CIP_TAG_FAIL.V : Fld := ⟨CIP_TAG_FAIL.addr, 63, 0⟩

/-- CIP_REFUSED (R413). -/
def CIP_REFUSED.addr : Nat := blockAddr 0x0c (0x0118)
def CIP_REFUSED.V : Fld := ⟨CIP_REFUSED.addr, 63, 0⟩

/-- CIP_KEY_CMDS (R418). -/
def CIP_KEY_CMDS.addr : Nat := blockAddr 0x0c (0x0120)
def CIP_KEY_CMDS.V : Fld := ⟨CIP_KEY_CMDS.addr, 63, 0⟩

/-- MCP_STAT (R446). -/
def MCP_STAT.addr : Nat := blockAddr 0x0d (0x0000)
def MCP_STAT.SESSIONS : Fld := ⟨MCP_STAT.addr, 31, 24⟩
def MCP_STAT.CHALLENGES : Fld := ⟨MCP_STAT.addr, 23, 16⟩
def MCP_STAT.READY : Fld := ⟨MCP_STAT.addr, 0, 0⟩

/-- MCP_CFG (R446). -/
def MCP_CFG.addr : Nat := blockAddr 0x0d (0x0004)
def MCP_CFG.UDP_PORT : Fld := ⟨MCP_CFG.addr, 31, 16⟩
def MCP_CFG.IDLE : Fld := ⟨MCP_CFG.addr, 15, 4⟩
def MCP_CFG.FRONT_EN : Fld := ⟨MCP_CFG.addr, 1, 1⟩
def MCP_CFG.MGMT_EN : Fld := ⟨MCP_CFG.addr, 0, 0⟩

/-- MCP_REQ_DB (R425). -/
def MCP_REQ_DB.addr : Nat := blockAddr 0x0d (0x0010)
def MCP_REQ_DB.DB : Fld := ⟨MCP_REQ_DB.addr, 3, 0⟩

/-- MCP_RPL_RDY (R425). -/
def MCP_RPL_RDY.addr : Nat := blockAddr 0x0d (0x0014)
def MCP_RPL_RDY.RDY : Fld := ⟨MCP_RPL_RDY.addr, 3, 0⟩

/-- MCP_REQ_BUSY (R425). -/
def MCP_REQ_BUSY.addr : Nat := blockAddr 0x0d (0x0018)
def MCP_REQ_BUSY.BUSY : Fld := ⟨MCP_REQ_BUSY.addr, 3, 0⟩

/-- MCP_NTC_HEAD (R427). -/
def MCP_NTC_HEAD.addr : Nat := blockAddr 0x0d (0x001c)
def MCP_NTC_HEAD.HEAD : Fld := ⟨MCP_NTC_HEAD.addr, 3, 0⟩

/-- MCP_NTC_TAIL (R427). -/
def MCP_NTC_TAIL.addr : Nat := blockAddr 0x0d (0x0020)
def MCP_NTC_TAIL.TAIL : Fld := ⟨MCP_NTC_TAIL.addr, 3, 0⟩

/-- MCP_RX (R421). -/
def MCP_RX.addr : Nat := blockAddr 0x0d (0x0100)
def MCP_RX.V : Fld := ⟨MCP_RX.addr, 63, 0⟩

/-- MCP_TX (R443). -/
def MCP_TX.addr : Nat := blockAddr 0x0d (0x0108)
def MCP_TX.V : Fld := ⟨MCP_TX.addr, 63, 0⟩

/-- MCP_DROP (R421). -/
def MCP_DROP.addr : Nat := blockAddr 0x0d (0x0110)
def MCP_DROP.V : Fld := ⟨MCP_DROP.addr, 63, 0⟩

/-- MCP_TAG_FAIL (R421). -/
def MCP_TAG_FAIL.addr : Nat := blockAddr 0x0d (0x0118)
def MCP_TAG_FAIL.V : Fld := ⟨MCP_TAG_FAIL.addr, 63, 0⟩

/-- MCP_REPLAY (R433). -/
def MCP_REPLAY.addr : Nat := blockAddr 0x0d (0x0120)
def MCP_REPLAY.V : Fld := ⟨MCP_REPLAY.addr, 63, 0⟩

/-- MCP_DUP_REPLY (R433). -/
def MCP_DUP_REPLY.addr : Nat := blockAddr 0x0d (0x0128)
def MCP_DUP_REPLY.V : Fld := ⟨MCP_DUP_REPLY.addr, 63, 0⟩

/-- MCP_MBX_REJ (R426). -/
def MCP_MBX_REJ.addr : Nat := blockAddr 0x0d (0x0130)
def MCP_MBX_REJ.V : Fld := ⟨MCP_MBX_REJ.addr, 63, 0⟩

/-- MCP_NTC_LOST (R427). -/
def MCP_NTC_LOST.addr : Nat := blockAddr 0x0d (0x0138)
def MCP_NTC_LOST.V : Fld := ⟨MCP_NTC_LOST.addr, 63, 0⟩

/-- MCP_NTC (R427). -/
def MCP_NTC.addr (i : Nat) : Nat := blockAddr 0x0d (0x1000 + 0x4 * i)
def MCP_NTC.WORD (i : Nat) : Fld := ⟨MCP_NTC.addr i, 31, 0⟩

/-- MCP_REQ (R425). -/
def MCP_REQ.addr (i : Nat) : Nat := blockAddr 0x0d (0x8000 + 0x4 * i)
def MCP_REQ.WORD (i : Nat) : Fld := ⟨MCP_REQ.addr i, 31, 0⟩

/-- MCP_RPL (R425). -/
def MCP_RPL.addr (i : Nat) : Nat := blockAddr 0x0d (0xc000 + 0x4 * i)
def MCP_RPL.WORD (i : Nat) : Fld := ⟨MCP_RPL.addr i, 31, 0⟩

/-- TWO_STAT (R459). -/
def TWO_STAT.addr : Nat := blockAddr 0x0b (0x0000)
def TWO_STAT.CLAIMED : Fld := ⟨TWO_STAT.addr, 31, 31⟩
def TWO_STAT.PRK : Fld := ⟨TWO_STAT.addr, 30, 30⟩
def TWO_STAT.MISMATCH : Fld := ⟨TWO_STAT.addr, 29, 29⟩
def TWO_STAT.MISSED : Fld := ⟨TWO_STAT.addr, 28, 28⟩
def TWO_STAT.ADOPT : Fld := ⟨TWO_STAT.addr, 27, 27⟩
def TWO_STAT.OPEN : Fld := ⟨TWO_STAT.addr, 4, 0⟩

/-- TWO_CFG (R459). -/
def TWO_CFG.addr : Nat := blockAddr 0x0b (0x0004)
def TWO_CFG.LIFE : Fld := ⟨TWO_CFG.addr, 16, 0⟩

/-- TWO_REV (R447). -/
def TWO_REV.addr : Nat := blockAddr 0x0b (0x0008)
def TWO_REV.V : Fld := ⟨TWO_REV.addr, 63, 0⟩

/-- TWO_DIGEST (R447). -/
def TWO_DIGEST.addr (i : Nat) : Nat := blockAddr 0x0b (0x0010 + 0x4 * i)
def TWO_DIGEST.WORD (i : Nat) : Fld := ⟨TWO_DIGEST.addr i, 31, 0⟩

/-- TWO_PSEL (R459). -/
def TWO_PSEL.addr : Nat := blockAddr 0x0b (0x0040)
def TWO_PSEL.SEL : Fld := ⟨TWO_PSEL.addr, 3, 0⟩

/-- TWO_PREC (R459). -/
def TWO_PREC.addr (i : Nat) : Nat := blockAddr 0x0b (0x0044 + 0x4 * i)
def TWO_PREC.WORD (i : Nat) : Fld := ⟨TWO_PREC.addr i, 31, 0⟩

/-- TWO_PERM (R459). -/
def TWO_PERM.addr (i j : Nat) : Nat := blockAddr 0x0b (0x0100 + 0x40 * i + 0x4 * j)
def TWO_PERM.WORD (i j : Nat) : Fld := ⟨TWO_PERM.addr i j, 31, 0⟩

/-- CAL_STAT (R479). -/
def CAL_STAT.addr : Nat := blockAddr 0x06 (0x0000)
def CAL_STAT.SHORT : Fld := ⟨CAL_STAT.addr, 31, 31⟩
def CAL_STAT.THERM : Fld := ⟨CAL_STAT.addr, 30, 30⟩
def CAL_STAT.LIMITED : Fld := ⟨CAL_STAT.addr, 29, 29⟩
def CAL_STAT.HELDLVL : Fld := ⟨CAL_STAT.addr, 28, 28⟩

/-- CAL_CFG (R477). -/
def CAL_CFG.addr : Nat := blockAddr 0x06 (0x0004)
def CAL_CFG.CAP_W : Fld := ⟨CAL_CFG.addr, 31, 24⟩
def CAL_CFG.MARGIN : Fld := ⟨CAL_CFG.addr, 23, 19⟩
def CAL_CFG.FLOOR : Fld := ⟨CAL_CFG.addr, 18, 16⟩
def CAL_CFG.UP : Fld := ⟨CAL_CFG.addr, 15, 8⟩
def CAL_CFG.DOWN : Fld := ⟨CAL_CFG.addr, 7, 0⟩

/-- CAL_BUDGET (R482). -/
def CAL_BUDGET.addr : Nat := blockAddr 0x06 (0x0008)
def CAL_BUDGET.SHELF_W : Fld := ⟨CAL_BUDGET.addr, 7, 0⟩

/-- CAL_THERM (R477). -/
def CAL_THERM.addr : Nat := blockAddr 0x06 (0x000c)
def CAL_THERM.LIMIT : Fld := ⟨CAL_THERM.addr, 31, 24⟩
def CAL_THERM.WARN : Fld := ⟨CAL_THERM.addr, 23, 16⟩
def CAL_THERM.WPC : Fld := ⟨CAL_THERM.addr, 7, 0⟩

/-- CAL_DEMAND (R478). -/
def CAL_DEMAND.addr : Nat := blockAddr 0x06 (0x0010)
def CAL_DEMAND.JOBS : Fld := ⟨CAL_DEMAND.addr, 8, 2⟩
def CAL_DEMAND.BASE : Fld := ⟨CAL_DEMAND.addr, 1, 0⟩

/-- CAL_HOLD (R478). -/
def CAL_HOLD.addr : Nat := blockAddr 0x06 (0x0014)
def CAL_HOLD.JOBS : Fld := ⟨CAL_HOLD.addr, 8, 2⟩

/-- CAL_GRANT (R476). -/
def CAL_GRANT.addr : Nat := blockAddr 0x06 (0x0018)
def CAL_GRANT.RBPRIO : Fld := ⟨CAL_GRANT.addr, 31, 30⟩
def CAL_GRANT.PACE : Fld := ⟨CAL_GRANT.addr, 29, 28⟩
def CAL_GRANT.JOBS : Fld := ⟨CAL_GRANT.addr, 8, 0⟩

/-- CAL_PIN (R476). -/
def CAL_PIN.addr : Nat := blockAddr 0x06 (0x001c)
def CAL_PIN.MW : Fld := ⟨CAL_PIN.addr, 19, 0⟩

/-- CAL_PEST (R479). -/
def CAL_PEST.addr : Nat := blockAddr 0x06 (0x0020)
def CAL_PEST.MW : Fld := ⟨CAL_PEST.addr, 19, 0⟩

/-- CAL_TJ (R476). -/
def CAL_TJ.addr : Nat := blockAddr 0x06 (0x0024)
def CAL_TJ.DOMAIN : Fld := ⟨CAL_TJ.addr, 15, 8⟩
def CAL_TJ.TJMAX : Fld := ⟨CAL_TJ.addr, 7, 0⟩

/-- CAL_CL (R461). -/
def CAL_CL.addr (i : Nat) : Nat := blockAddr 0x06 (0x0100 + 0x4 * i)
def CAL_CL.BUSY (i : Nat) : Fld := ⟨CAL_CL.addr i, 31, 31⟩
def CAL_CL.AVSERR (i : Nat) : Fld := ⟨CAL_CL.addr i, 30, 30⟩
def CAL_CL.HELD (i : Nat) : Fld := ⟨CAL_CL.addr i, 29, 29⟩
def CAL_CL.MAX (i : Nat) : Fld := ⟨CAL_CL.addr i, 26, 24⟩
def CAL_CL.UTIL (i : Nat) : Fld := ⟨CAL_CL.addr i, 23, 16⟩
def CAL_CL.WANT (i : Nat) : Fld := ⟨CAL_CL.addr i, 10, 8⟩
def CAL_CL.CUR (i : Nat) : Fld := ⟨CAL_CL.addr i, 2, 0⟩

/-- CAL_DECISIONS (R476). -/
def CAL_DECISIONS.addr : Nat := blockAddr 0x06 (0x0200)
def CAL_DECISIONS.V : Fld := ⟨CAL_DECISIONS.addr, 63, 0⟩

/-- CAL_LVL_CHANGES (R461). -/
def CAL_LVL_CHANGES.addr : Nat := blockAddr 0x06 (0x0208)
def CAL_LVL_CHANGES.V : Fld := ⟨CAL_LVL_CHANGES.addr, 63, 0⟩

/-- CAL_AVS_FAIL (R462). -/
def CAL_AVS_FAIL.addr : Nat := blockAddr 0x06 (0x0210)
def CAL_AVS_FAIL.V : Fld := ⟨CAL_AVS_FAIL.addr, 63, 0⟩

/-- CAL_SHORT (R481). -/
def CAL_SHORT.addr : Nat := blockAddr 0x06 (0x0218)
def CAL_SHORT.V : Fld := ⟨CAL_SHORT.addr, 63, 0⟩

/-- PWR_STAT (R468). -/
def PWR_STAT.addr : Nat := blockAddr 0x07 (0x0000)
def PWR_STAT.MSTATE : Fld := ⟨PWR_STAT.addr, 31, 30⟩
def PWR_STAT.REFUSED : Fld := ⟨PWR_STAT.addr, 29, 29⟩
def PWR_STAT.ABORTED : Fld := ⟨PWR_STAT.addr, 28, 28⟩
def PWR_STAT.RDOM : Fld := ⟨PWR_STAT.addr, 7, 0⟩

/-- PWR_CFG (R469). -/
def PWR_CFG.addr : Nat := blockAddr 0x07 (0x0004)
def PWR_CFG.IDLE2_US : Fld := ⟨PWR_CFG.addr, 31, 16⟩
def PWR_CFG.IDLE1_NS : Fld := ⟨PWR_CFG.addr, 15, 4⟩
def PWR_CFG.MINENG : Fld := ⟨PWR_CFG.addr, 3, 0⟩

/-- PWR_CMD (R472). -/
def PWR_CMD.addr : Nat := blockAddr 0x07 (0x0008)
def PWR_CMD.BUSY : Fld := ⟨PWR_CMD.addr, 31, 31⟩
def PWR_CMD.STATUS : Fld := ⟨PWR_CMD.addr, 27, 24⟩
def PWR_CMD.OP : Fld := ⟨PWR_CMD.addr, 19, 16⟩
def PWR_CMD.DOMAIN : Fld := ⟨PWR_CMD.addr, 7, 0⟩

/-- PWR_OFFACC (R471). -/
def PWR_OFFACC.addr : Nat := blockAddr 0x07 (0x000c)
def PWR_OFFACC.VALID : Fld := ⟨PWR_OFFACC.addr, 31, 31⟩
def PWR_OFFACC.MULTI : Fld := ⟨PWR_OFFACC.addr, 30, 30⟩
def PWR_OFFACC.DOMAIN : Fld := ⟨PWR_OFFACC.addr, 23, 16⟩
def PWR_OFFACC.BLOCK : Fld := ⟨PWR_OFFACC.addr, 7, 0⟩

/-- PWR_DSTAT (R464). -/
def PWR_DSTAT.addr (i : Nat) : Nat := blockAddr 0x07 (0x0020 + 0x4 * i)
def PWR_DSTAT.STATES (i : Nat) : Fld := ⟨PWR_DSTAT.addr i, 31, 0⟩

/-- PWR_NOIDLE (R472). -/
def PWR_NOIDLE.addr (i : Nat) : Nat := blockAddr 0x07 (0x0060 + 0x4 * i)
def PWR_NOIDLE.BITS (i : Nat) : Fld := ⟨PWR_NOIDLE.addr i, 31, 0⟩

/-- PWR_OFFACC_CNT (R471). -/
def PWR_OFFACC_CNT.addr : Nat := blockAddr 0x07 (0x0100)
def PWR_OFFACC_CNT.V : Fld := ⟨PWR_OFFACC_CNT.addr, 63, 0⟩

/-- PWR_GATE_EVTS (R467). -/
def PWR_GATE_EVTS.addr : Nat := blockAddr 0x07 (0x0108)
def PWR_GATE_EVTS.V : Fld := ⟨PWR_GATE_EVTS.addr, 63, 0⟩

/-- PWR_OFF_EVTS (R467). -/
def PWR_OFF_EVTS.addr : Nat := blockAddr 0x07 (0x0110)
def PWR_OFF_EVTS.V : Fld := ⟨PWR_OFF_EVTS.addr, 63, 0⟩

/-- PWR_REFUSALS (R468). -/
def PWR_REFUSALS.addr : Nat := blockAddr 0x07 (0x0118)
def PWR_REFUSALS.V : Fld := ⟨PWR_REFUSALS.addr, 63, 0⟩

/-- PWR_DORMANT (R473). -/
def PWR_DORMANT.addr : Nat := blockAddr 0x07 (0x0120)
def PWR_DORMANT.V : Fld := ⟨PWR_DORMANT.addr, 63, 0⟩

/-- WFL_STAT (R493). -/
def WFL_STAT.addr : Nat := blockAddr 0x05 (0x0000)
def WFL_STAT.PFD : Fld := ⟨WFL_STAT.addr, 31, 31⟩
def WFL_STAT.CYCPEND : Fld := ⟨WFL_STAT.addr, 30, 30⟩
def WFL_STAT.DORMANT : Fld := ⟨WFL_STAT.addr, 29, 29⟩
def WFL_STAT.CTRL_RUN : Fld := ⟨WFL_STAT.addr, 28, 28⟩

/-- WFL_CTL (R487). -/
def WFL_CTL.addr : Nat := blockAddr 0x05 (0x0004)
def WFL_CTL.CTRL_EN : Fld := ⟨WFL_CTL.addr, 31, 31⟩
def WFL_CTL.DEB : Fld := ⟨WFL_CTL.addr, 15, 0⟩

/-- WFL_CMD (R500). -/
def WFL_CMD.addr : Nat := blockAddr 0x05 (0x0008)
def WFL_CMD.OP : Fld := ⟨WFL_CMD.addr, 3, 0⟩

/-- WFL_WAKE (R498). -/
def WFL_WAKE.addr : Nat := blockAddr 0x05 (0x000c)
def WFL_WAKE.EN : Fld := ⟨WFL_WAKE.addr, 5, 0⟩

/-- WFL_WAKECAUSE (R498). -/
def WFL_WAKECAUSE.addr : Nat := blockAddr 0x05 (0x0010)
def WFL_WAKECAUSE.SRC : Fld := ⟨WFL_WAKECAUSE.addr, 5, 0⟩

/-- WFL_WTIMER (R498). -/
def WFL_WTIMER.addr : Nat := blockAddr 0x05 (0x0014)
def WFL_WTIMER.SECS : Fld := ⟨WFL_WTIMER.addr, 31, 0⟩

/-- WFL_CAP (R494). -/
def WFL_CAP.addr : Nat := blockAddr 0x05 (0x0018)
def WFL_CAP.C : Fld := ⟨WFL_CAP.addr, 19, 0⟩

/-- WFL_ESR (R494). -/
def WFL_ESR.addr : Nat := blockAddr 0x05 (0x001c)
def WFL_ESR.ESR : Fld := ⟨WFL_ESR.addr, 15, 0⟩

/-- WFL_DIN (R487). -/
def WFL_DIN.addr (i : Nat) : Nat := blockAddr 0x05 (0x0020 + 0x4 * i)
def WFL_DIN.LEVELS (i : Nat) : Fld := ⟨WFL_DIN.addr i, 31, 0⟩

/-- WFL_FIRED (R489). -/
def WFL_FIRED.addr : Nat := blockAddr 0x05 (0x0030)
def WFL_FIRED.V : Fld := ⟨WFL_FIRED.addr, 63, 0⟩

/-- WFL_VAL (R484). -/
def WFL_VAL.addr (i : Nat) : Nat := blockAddr 0x05 (0x0100 + 0x4 * i)
def WFL_VAL.FILT (i : Nat) : Fld := ⟨WFL_VAL.addr i, 31, 16⟩
def WFL_VAL.RAW (i : Nat) : Fld := ⟨WFL_VAL.addr i, 15, 0⟩

/-- WFL_FLT (R486). -/
def WFL_FLT.addr (i : Nat) : Nat := blockAddr 0x05 (0x0200 + 0x4 * i)
def WFL_FLT.SHIFT (i : Nat) : Fld := ⟨WFL_FLT.addr i, 3, 0⟩

/-- WFL_RULE_CTL (R488). -/
def WFL_RULE_CTL.addr (i : Nat) : Nat := blockAddr 0x05 (0x0400 + 0x10 * i)
def WFL_RULE_CTL.EN (i : Nat) : Fld := ⟨WFL_RULE_CTL.addr i, 31, 31⟩
def WFL_RULE_CTL.LOCK (i : Nat) : Fld := ⟨WFL_RULE_CTL.addr i, 30, 30⟩
def WFL_RULE_CTL.KIND (i : Nat) : Fld := ⟨WFL_RULE_CTL.addr i, 29, 28⟩
def WFL_RULE_CTL.CMP (i : Nat) : Fld := ⟨WFL_RULE_CTL.addr i, 27, 26⟩
def WFL_RULE_CTL.SRC (i : Nat) : Fld := ⟨WFL_RULE_CTL.addr i, 25, 19⟩
def WFL_RULE_CTL.AND_EN (i : Nat) : Fld := ⟨WFL_RULE_CTL.addr i, 18, 18⟩
def WFL_RULE_CTL.AND (i : Nat) : Fld := ⟨WFL_RULE_CTL.addr i, 17, 12⟩

/-- WFL_RULE_THR (R488). -/
def WFL_RULE_THR.addr (i : Nat) : Nat := blockAddr 0x05 (0x0404 + 0x10 * i)
def WFL_RULE_THR.THRESH (i : Nat) : Fld := ⟨WFL_RULE_THR.addr i, 31, 16⟩
def WFL_RULE_THR.HYST (i : Nat) : Fld := ⟨WFL_RULE_THR.addr i, 15, 0⟩

/-- WFL_RULE_PER (R488). -/
def WFL_RULE_PER.addr (i : Nat) : Nat := blockAddr 0x05 (0x0408 + 0x10 * i)
def WFL_RULE_PER.PERSIST (i : Nat) : Fld := ⟨WFL_RULE_PER.addr i, 23, 0⟩

/-- WFL_RULE_ACT (R489). -/
def WFL_RULE_ACT.addr (i : Nat) : Nat := blockAddr 0x05 (0x040c + 0x10 * i)
def WFL_RULE_ACT.FAULT (i : Nat) : Fld := ⟨WFL_RULE_ACT.addr i, 31, 31⟩
def WFL_RULE_ACT.IRQ (i : Nat) : Fld := ⟨WFL_RULE_ACT.addr i, 30, 30⟩
def WFL_RULE_ACT.ARG (i : Nat) : Fld := ⟨WFL_RULE_ACT.addr i, 15, 8⟩
def WFL_RULE_ACT.OP (i : Nat) : Fld := ⟨WFL_RULE_ACT.addr i, 7, 0⟩

/-- WFL_FIRES (R489). -/
def WFL_FIRES.addr : Nat := blockAddr 0x05 (0x0800)
def WFL_FIRES.V : Fld := ⟨WFL_FIRES.addr, 63, 0⟩

/-- WFL_WAKES (R498). -/
def WFL_WAKES.addr : Nat := blockAddr 0x05 (0x0808)
def WFL_WAKES.V : Fld := ⟨WFL_WAKES.addr, 63, 0⟩

/-- WFL_PFD (R493). -/
def WFL_PFD.addr : Nat := blockAddr 0x05 (0x0810)
def WFL_PFD.V : Fld := ⟨WFL_PFD.addr, 63, 0⟩

/-- WFL_CYCLES (R500). -/
def WFL_CYCLES.addr : Nat := blockAddr 0x05 (0x0818)
def WFL_CYCLES.V : Fld := ⟨WFL_CYCLES.addr, 63, 0⟩

/-- CLU_PSTAT (R507). -/
def CLU_PSTAT.addr (c : Nat) : Nat := blockAddr (0x70 + c % 8) (0x0000)
def CLU_PSTAT.STATE (c : Nat) : Fld := ⟨CLU_PSTAT.addr c, 31, 30⟩
def CLU_PSTAT.PART (c : Nat) : Fld := ⟨CLU_PSTAT.addr c, 19, 16⟩
def CLU_PSTAT.ON (c : Nat) : Fld := ⟨CLU_PSTAT.addr c, 7, 0⟩

/-- CLU_CTL (R507). -/
def CLU_CTL.addr (c : Nat) : Nat := blockAddr (0x70 + c % 8) (0x0004)
def CLU_CTL.AUTOSTART (c : Nat) : Fld := ⟨CLU_CTL.addr c, 31, 31⟩
def CLU_CTL.GUARD_ON (c : Nat) : Fld := ⟨CLU_CTL.addr c, 0, 0⟩

/-- CLU_PCMD (R507). -/
def CLU_PCMD.addr (c : Nat) : Nat := blockAddr (0x70 + c % 8) (0x0008)
def CLU_PCMD.BUSY (c : Nat) : Fld := ⟨CLU_PCMD.addr c, 31, 31⟩
def CLU_PCMD.STATUS (c : Nat) : Fld := ⟨CLU_PCMD.addr c, 27, 24⟩
def CLU_PCMD.OP (c : Nat) : Fld := ⟨CLU_PCMD.addr c, 19, 16⟩

/-- CLU_ENTRY (R507). -/
def CLU_ENTRY.addr (c : Nat) : Nat := blockAddr (0x70 + c % 8) (0x0010)
def CLU_ENTRY.V (c : Nat) : Fld := ⟨CLU_ENTRY.addr c, 63, 0⟩

/-- CLU_SEED (R512). -/
def CLU_SEED.addr (c : Nat) : Nat := blockAddr (0x70 + c % 8) (0x0018)
def CLU_SEED.SEED (c : Nat) : Fld := ⟨CLU_SEED.addr c, 15, 0⟩

/-- CLU_MAINT (R518). -/
def CLU_MAINT.addr (c : Nat) : Nat := blockAddr (0x70 + c % 8) (0x001c)
def CLU_MAINT.BUSY (c : Nat) : Fld := ⟨CLU_MAINT.addr c, 31, 31⟩
def CLU_MAINT.CORE (c : Nat) : Fld := ⟨CLU_MAINT.addr c, 10, 8⟩
def CLU_MAINT.OP (c : Nat) : Fld := ⟨CLU_MAINT.addr c, 3, 0⟩

/-- CLU_PERR (R517). -/
def CLU_PERR.addr (c : Nat) : Nat := blockAddr (0x70 + c % 8) (0x0020)
def CLU_PERR.VALID (c : Nat) : Fld := ⟨CLU_PERR.addr c, 31, 31⟩
def CLU_PERR.FATAL (c : Nat) : Fld := ⟨CLU_PERR.addr c, 30, 30⟩
def CLU_PERR.CACHE (c : Nat) : Fld := ⟨CLU_PERR.addr c, 27, 24⟩
def CLU_PERR.ARRAY (c : Nat) : Fld := ⟨CLU_PERR.addr c, 23, 20⟩
def CLU_PERR.WAY (c : Nat) : Fld := ⟨CLU_PERR.addr c, 19, 16⟩
def CLU_PERR.SET (c : Nat) : Fld := ⟨CLU_PERR.addr c, 11, 0⟩

/-- CLU_L1_REFETCH (R517). -/
def CLU_L1_REFETCH.addr (c : Nat) : Nat := blockAddr (0x70 + c % 8) (0x0100)
def CLU_L1_REFETCH.V (c : Nat) : Fld := ⟨CLU_L1_REFETCH.addr c, 63, 0⟩

/-- CLU_L2_REFETCH (R517). -/
def CLU_L2_REFETCH.addr (c : Nat) : Nat := blockAddr (0x70 + c % 8) (0x0108)
def CLU_L2_REFETCH.V (c : Nat) : Fld := ⟨CLU_L2_REFETCH.addr c, 63, 0⟩

/-- CLU_FATAL (R517). -/
def CLU_FATAL.addr (c : Nat) : Nat := blockAddr (0x70 + c % 8) (0x0110)
def CLU_FATAL.V (c : Nat) : Fld := ⟨CLU_FATAL.addr c, 63, 0⟩

/-- CLU_DOOMED (R516). -/
def CLU_DOOMED.addr (c : Nat) : Nat := blockAddr (0x70 + c % 8) (0x0118)
def CLU_DOOMED.V (c : Nat) : Fld := ⟨CLU_DOOMED.addr c, 63, 0⟩

/-- CLU_VB_HITS (R514). -/
def CLU_VB_HITS.addr (c : Nat) : Nat := blockAddr (0x70 + c % 8) (0x0120)
def CLU_VB_HITS.V (c : Nat) : Fld := ⟨CLU_VB_HITS.addr c, 63, 0⟩

/-- CLU_MISS_STALL (R513). -/
def CLU_MISS_STALL.addr (c : Nat) : Nat := blockAddr (0x70 + c % 8) (0x0128)
def CLU_MISS_STALL.V (c : Nat) : Fld := ⟨CLU_MISS_STALL.addr c, 63, 0⟩

/-- EWQ_CFG (R522). -/
def EWQ_CFG.addr : Nat := blockAddr 0x78 (0x0000)
def EWQ_CFG.SHARE : Fld := ⟨EWQ_CFG.addr, 3, 0⟩

/-- EWQ_DESC (R531). -/
def EWQ_DESC.addr : Nat := blockAddr 0x78 (0x0100)
def EWQ_DESC.V : Fld := ⟨EWQ_DESC.addr, 63, 0⟩

/-- EWQ_BYTES (R531). -/
def EWQ_BYTES.addr : Nat := blockAddr 0x78 (0x0108)
def EWQ_BYTES.V : Fld := ⟨EWQ_BYTES.addr, 63, 0⟩

/-- EWQ_ERRORS (R532). -/
def EWQ_ERRORS.addr : Nat := blockAddr 0x78 (0x0110)
def EWQ_ERRORS.V : Fld := ⟨EWQ_ERRORS.addr, 63, 0⟩

/-- EWQ_DB_REJ (R525). -/
def EWQ_DB_REJ.addr : Nat := blockAddr 0x78 (0x0118)
def EWQ_DB_REJ.V : Fld := ⟨EWQ_DB_REJ.addr, 63, 0⟩

/-- EWQ_QCTL (R534). -/
def EWQ_QCTL.addr (i : Nat) : Nat := blockAddr 0x78 (0x1000 + 0x40 * i)
def EWQ_QCTL.EN (i : Nat) : Fld := ⟨EWQ_QCTL.addr i, 31, 31⟩
def EWQ_QCTL.SIZE (i : Nat) : Fld := ⟨EWQ_QCTL.addr i, 3, 0⟩

/-- EWQ_QSTAT (R534). -/
def EWQ_QSTAT.addr (i : Nat) : Nat := blockAddr 0x78 (0x1004 + 0x40 * i)
def EWQ_QSTAT.STATE (i : Nat) : Fld := ⟨EWQ_QSTAT.addr i, 31, 29⟩
def EWQ_QSTAT.LATCH (i : Nat) : Fld := ⟨EWQ_QSTAT.addr i, 28, 28⟩
def EWQ_QSTAT.IRQP (i : Nat) : Fld := ⟨EWQ_QSTAT.addr i, 27, 27⟩
def EWQ_QSTAT.INFL (i : Nat) : Fld := ⟨EWQ_QSTAT.addr i, 20, 16⟩
def EWQ_QSTAT.ERR (i : Nat) : Fld := ⟨EWQ_QSTAT.addr i, 7, 0⟩

/-- EWQ_QBASE (R520). -/
def EWQ_QBASE.addr (i : Nat) : Nat := blockAddr 0x78 (0x1008 + 0x40 * i)
def EWQ_QBASE.V (i : Nat) : Fld := ⟨EWQ_QBASE.addr i, 63, 0⟩

/-- EWQ_QCBASE (R520). -/
def EWQ_QCBASE.addr (i : Nat) : Nat := blockAddr 0x78 (0x1010 + 0x40 * i)
def EWQ_QCBASE.V (i : Nat) : Fld := ⟨EWQ_QCBASE.addr i, 63, 0⟩

/-- EWQ_QTAIL (R525). -/
def EWQ_QTAIL.addr (i : Nat) : Nat := blockAddr 0x78 (0x1018 + 0x40 * i)
def EWQ_QTAIL.TAIL (i : Nat) : Fld := ⟨EWQ_QTAIL.addr i, 15, 0⟩

/-- EWQ_QHEAD (R525). -/
def EWQ_QHEAD.addr (i : Nat) : Nat := blockAddr 0x78 (0x101c + 0x40 * i)
def EWQ_QHEAD.HEAD (i : Nat) : Fld := ⟨EWQ_QHEAD.addr i, 15, 0⟩

/-- EWQ_QCCNT (R531). -/
def EWQ_QCCNT.addr (i : Nat) : Nat := blockAddr 0x78 (0x1020 + 0x40 * i)
def EWQ_QCCNT.CCNT (i : Nat) : Fld := ⟨EWQ_QCCNT.addr i, 31, 0⟩

/-- EWQ_QCMD (R526). -/
def EWQ_QCMD.addr (i : Nat) : Nat := blockAddr 0x78 (0x1024 + 0x40 * i)
def EWQ_QCMD.BUSY (i : Nat) : Fld := ⟨EWQ_QCMD.addr i, 31, 31⟩
def EWQ_QCMD.OP (i : Nat) : Fld := ⟨EWQ_QCMD.addr i, 19, 16⟩
def EWQ_QCMD.STARTED (i : Nat) : Fld := ⟨EWQ_QCMD.addr i, 15, 0⟩

/-- EWQ_QERRADDR (R532). -/
def EWQ_QERRADDR.addr (i : Nat) : Nat := blockAddr 0x78 (0x1028 + 0x40 * i)
def EWQ_QERRADDR.V (i : Nat) : Fld := ⟨EWQ_QERRADDR.addr i, 63, 0⟩

/-- MIN_STAT (R540). -/
def MIN_STAT.addr : Nat := blockAddr 0x08 (0x0000)
def MIN_STAT.FILLED : Fld := ⟨MIN_STAT.addr, 31, 31⟩
def MIN_STAT.SWEEPING : Fld := ⟨MIN_STAT.addr, 30, 30⟩
def MIN_STAT.ARMED : Fld := ⟨MIN_STAT.addr, 29, 29⟩
def MIN_STAT.EXPIRED : Fld := ⟨MIN_STAT.addr, 28, 28⟩

/-- MIN_LEAK (R553). -/
def MIN_LEAK.addr : Nat := blockAddr 0x08 (0x0004)
def MIN_LEAK.INTERVAL : Fld := ⟨MIN_LEAK.addr, 31, 16⟩
def MIN_LEAK.THRESH : Fld := ⟨MIN_LEAK.addr, 7, 0⟩

/-- MIN_SWEEP (R552). -/
def MIN_SWEEP.addr : Nat := blockAddr 0x08 (0x0008)
def MIN_SWEEP.EN : Fld := ⟨MIN_SWEEP.addr, 31, 31⟩
def MIN_SWEEP.RATE : Fld := ⟨MIN_SWEEP.addr, 7, 0⟩

/-- MIN_TEST (R555). -/
def MIN_TEST.addr : Nat := blockAddr 0x08 (0x000c)
def MIN_TEST.ARM : Fld := ⟨MIN_TEST.addr, 31, 31⟩
def MIN_TEST.REGION : Fld := ⟨MIN_TEST.addr, 21, 16⟩
def MIN_TEST.BYTES : Fld := ⟨MIN_TEST.addr, 15, 0⟩

/-- MIN_TADDR (R555). -/
def MIN_TADDR.addr : Nat := blockAddr 0x08 (0x0010)
def MIN_TADDR.V : Fld := ⟨MIN_TADDR.addr, 63, 0⟩

/-- MIN_ERR (R542). -/
def MIN_ERR.addr : Nat := blockAddr 0x08 (0x0018)
def MIN_ERR.VALID : Fld := ⟨MIN_ERR.addr, 31, 31⟩
def MIN_ERR.MULTI : Fld := ⟨MIN_ERR.addr, 30, 30⟩
def MIN_ERR.FATAL : Fld := ⟨MIN_ERR.addr, 29, 29⟩
def MIN_ERR.SWEEP : Fld := ⟨MIN_ERR.addr, 28, 28⟩
def MIN_ERR.REGION : Fld := ⟨MIN_ERR.addr, 27, 22⟩
def MIN_ERR.CHAN : Fld := ⟨MIN_ERR.addr, 21, 16⟩
def MIN_ERR.BYTES : Fld := ⟨MIN_ERR.addr, 15, 0⟩

/-- MIN_EADDR (R542). -/
def MIN_EADDR.addr : Nat := blockAddr 0x08 (0x001c)
def MIN_EADDR.V : Fld := ⟨MIN_EADDR.addr, 63, 0⟩

/-- MIN_IRQ (R554). -/
def MIN_IRQ.addr (i : Nat) : Nat := blockAddr 0x08 (0x0024 + 0x4 * i)
def MIN_IRQ.BITS (i : Nat) : Fld := ⟨MIN_IRQ.addr i, 31, 0⟩

/-- MIN_BKT (R553). -/
def MIN_BKT.addr (i : Nat) : Nat := blockAddr 0x08 (0x0100 + 0x4 * i)
def MIN_BKT.N (i : Nat) : Fld := ⟨MIN_BKT.addr i, 7, 0⟩

/-- MIN_DETECT (R543). -/
def MIN_DETECT.addr : Nat := blockAddr 0x08 (0x0200)
def MIN_DETECT.V : Fld := ⟨MIN_DETECT.addr, 63, 0⟩

/-- MIN_RECOVERED (R543). -/
def MIN_RECOVERED.addr : Nat := blockAddr 0x08 (0x0208)
def MIN_RECOVERED.V : Fld := ⟨MIN_RECOVERED.addr, 63, 0⟩

/-- MIN_LOST (R543). -/
def MIN_LOST.addr : Nat := blockAddr 0x08 (0x0210)
def MIN_LOST.V : Fld := ⟨MIN_LOST.addr, 63, 0⟩

/-- MIN_FATAL (R543). -/
def MIN_FATAL.addr : Nat := blockAddr 0x08 (0x0218)
def MIN_FATAL.V : Fld := ⟨MIN_FATAL.addr, 63, 0⟩

/-- MIN_SWEPT_GB (R552). -/
def MIN_SWEPT_GB.addr : Nat := blockAddr 0x08 (0x0220)
def MIN_SWEPT_GB.V : Fld := ⟨MIN_SWEPT_GB.addr, 63, 0⟩

/-- MIN_TEST_HITS (R555). -/
def MIN_TEST_HITS.addr : Nat := blockAddr 0x08 (0x0228)
def MIN_TEST_HITS.V : Fld := ⟨MIN_TEST_HITS.addr, 63, 0⟩

/-- FLT_STAT (R561). -/
def FLT_STAT.addr : Nat := blockAddr 0x09 (0x0000)
def FLT_STAT.PEND : Fld := ⟨FLT_STAT.addr, 31, 31⟩
def FLT_STAT.LATCHV : Fld := ⟨FLT_STAT.addr, 30, 30⟩
def FLT_STAT.PARKED : Fld := ⟨FLT_STAT.addr, 29, 29⟩
def FLT_STAT.SEV : Fld := ⟨FLT_STAT.addr, 2, 0⟩

/-- FLT_CFG (R564). -/
def FLT_CFG.addr : Nat := blockAddr 0x09 (0x0004)
def FLT_CFG.IRQ_SEV : Fld := ⟨FLT_CFG.addr, 31, 29⟩
def FLT_CFG.ESC : Fld := ⟨FLT_CFG.addr, 23, 16⟩
def FLT_CFG.WDOG : Fld := ⟨FLT_CFG.addr, 15, 0⟩

/-- FLT_WDOG (R564). -/
def FLT_WDOG.addr : Nat := blockAddr 0x09 (0x0008)
def FLT_WDOG.VALUE : Fld := ⟨FLT_WDOG.addr, 31, 0⟩

/-- FLT_NEXT (R559). -/
def FLT_NEXT.addr : Nat := blockAddr 0x09 (0x0010)
def FLT_NEXT.V : Fld := ⟨FLT_NEXT.addr, 63, 0⟩

/-- FLT_OLDEST (R559). -/
def FLT_OLDEST.addr : Nat := blockAddr 0x09 (0x0018)
def FLT_OLDEST.V : Fld := ⟨FLT_OLDEST.addr, 63, 0⟩

/-- FLT_BOOT (R556). -/
def FLT_BOOT.addr : Nat := blockAddr 0x09 (0x0020)
def FLT_BOOT.BOOT : Fld := ⟨FLT_BOOT.addr, 31, 0⟩

/-- FLT_LADDER (R565). -/
def FLT_LADDER.addr : Nat := blockAddr 0x09 (0x0024)
def FLT_LADDER.S3 : Fld := ⟨FLT_LADDER.addr, 31, 24⟩
def FLT_LADDER.S4 : Fld := ⟨FLT_LADDER.addr, 23, 16⟩
def FLT_LADDER.LAST : Fld := ⟨FLT_LADDER.addr, 2, 0⟩

/-- FLT_CMD (R562). -/
def FLT_CMD.addr : Nat := blockAddr 0x09 (0x0028)
def FLT_CMD.BUSY : Fld := ⟨FLT_CMD.addr, 31, 31⟩
def FLT_CMD.STATUS : Fld := ⟨FLT_CMD.addr, 27, 24⟩
def FLT_CMD.OP : Fld := ⟨FLT_CMD.addr, 19, 16⟩

/-- FLT_LATCH (R560). -/
def FLT_LATCH.addr (i : Nat) : Nat := blockAddr 0x09 (0x0040 + 0x4 * i)
def FLT_LATCH.WORD (i : Nat) : Fld := ⟨FLT_LATCH.addr i, 31, 0⟩

/-- FLT_RECORDS (R559). -/
def FLT_RECORDS.addr : Nat := blockAddr 0x09 (0x0100)
def FLT_RECORDS.V : Fld := ⟨FLT_RECORDS.addr, 63, 0⟩

/-- FLT_COALESCED (R558). -/
def FLT_COALESCED.addr : Nat := blockAddr 0x09 (0x0108)
def FLT_COALESCED.V : Fld := ⟨FLT_COALESCED.addr, 63, 0⟩

/-- FLT_OVERWRITTEN (R559). -/
def FLT_OVERWRITTEN.addr : Nat := blockAddr 0x09 (0x0110)
def FLT_OVERWRITTEN.V : Fld := ⟨FLT_OVERWRITTEN.addr, 63, 0⟩

/-- FLT_WDOG_EXP (R564). -/
def FLT_WDOG_EXP.addr : Nat := blockAddr 0x09 (0x0118)
def FLT_WDOG_EXP.V : Fld := ⟨FLT_WDOG_EXP.addr, 63, 0⟩

/-- PMC_CTL (R568). -/
def PMC_CTL.addr : Nat := blockAddr 0x0a (0x0000)
def PMC_CTL.RUN : Fld := ⟨PMC_CTL.addr, 31, 31⟩

/-- PMC_OVF (R570). -/
def PMC_OVF.addr : Nat := blockAddr 0x0a (0x0008)
def PMC_OVF.V : Fld := ⟨PMC_OVF.addr, 63, 0⟩

/-- PMC_PEN (R576). -/
def PMC_PEN.addr (i : Nat) : Nat := blockAddr 0x0a (0x0010 + 0x4 * i)
def PMC_PEN.PEN (i : Nat) : Fld := ⟨PMC_PEN.addr i, 0, 0⟩

/-- PMC_SEL (R568). -/
def PMC_SEL.addr (i : Nat) : Nat := blockAddr 0x0a (0x0100 + 0x4 * i)
def PMC_SEL.EN (i : Nat) : Fld := ⟨PMC_SEL.addr i, 31, 31⟩
def PMC_SEL.SAT (i : Nat) : Fld := ⟨PMC_SEL.addr i, 30, 30⟩
def PMC_SEL.IRQ (i : Nat) : Fld := ⟨PMC_SEL.addr i, 29, 29⟩
def PMC_SEL.MODE (i : Nat) : Fld := ⟨PMC_SEL.addr i, 28, 27⟩
def PMC_SEL.SOURCE (i : Nat) : Fld := ⟨PMC_SEL.addr i, 23, 16⟩
def PMC_SEL.EVENT (i : Nat) : Fld := ⟨PMC_SEL.addr i, 15, 0⟩

/-- PMC_CNT (R571). -/
def PMC_CNT.addr (i : Nat) : Nat := blockAddr 0x0a (0x0200 + 0x8 * i)
def PMC_CNT.V (i : Nat) : Fld := ⟨PMC_CNT.addr i, 63, 0⟩

/-- PMC_BW_CTL (R572). -/
def PMC_BW_CTL.addr (i : Nat) : Nat := blockAddr 0x0a (0x0400 + 0x20 * i)
def PMC_BW_CTL.EN (i : Nat) : Fld := ⟨PMC_BW_CTL.addr i, 31, 31⟩
def PMC_BW_CTL.CLR (i : Nat) : Fld := ⟨PMC_BW_CTL.addr i, 30, 30⟩
def PMC_BW_CTL.WIN (i : Nat) : Fld := ⟨PMC_BW_CTL.addr i, 23, 16⟩
def PMC_BW_CTL.DIR (i : Nat) : Fld := ⟨PMC_BW_CTL.addr i, 15, 15⟩
def PMC_BW_CTL.KIND (i : Nat) : Fld := ⟨PMC_BW_CTL.addr i, 14, 12⟩
def PMC_BW_CTL.INDEX (i : Nat) : Fld := ⟨PMC_BW_CTL.addr i, 7, 0⟩

/-- PMC_BW_LAST (R573). -/
def PMC_BW_LAST.addr (i : Nat) : Nat := blockAddr 0x0a (0x0404 + 0x20 * i)
def PMC_BW_LAST.V (i : Nat) : Fld := ⟨PMC_BW_LAST.addr i, 31, 0⟩

/-- PMC_BW_MIN (R573). -/
def PMC_BW_MIN.addr (i : Nat) : Nat := blockAddr 0x0a (0x0408 + 0x20 * i)
def PMC_BW_MIN.V (i : Nat) : Fld := ⟨PMC_BW_MIN.addr i, 31, 0⟩

/-- PMC_BW_MAX (R573). -/
def PMC_BW_MAX.addr (i : Nat) : Nat := blockAddr 0x0a (0x040c + 0x20 * i)
def PMC_BW_MAX.V (i : Nat) : Fld := ⟨PMC_BW_MAX.addr i, 31, 0⟩

/-- PMC_BW_WINS (R573). -/
def PMC_BW_WINS.addr (i : Nat) : Nat := blockAddr 0x0a (0x0410 + 0x20 * i)
def PMC_BW_WINS.V (i : Nat) : Fld := ⟨PMC_BW_WINS.addr i, 31, 0⟩

/-- PMC_BW_SKIP (R573). -/
def PMC_BW_SKIP.addr (i : Nat) : Nat := blockAddr 0x0a (0x0414 + 0x20 * i)
def PMC_BW_SKIP.V (i : Nat) : Fld := ⟨PMC_BW_SKIP.addr i, 31, 0⟩

/-- PMC_CEVT (R575). -/
def PMC_CEVT.addr (i j : Nat) : Nat := blockAddr 0x0a (0x0600 + 0x20 * i + 0x4 * j)
def PMC_CEVT.EVENT (i j : Nat) : Fld := ⟨PMC_CEVT.addr i j, 7, 0⟩

end Sys2Proof.Machine
end

