-- ==== Sys2Proof/Machine/State/Common.lean ====
section
/-! DEFINITION. The records that more than one part of the module keeps: register cells, fault records, notices, and
what the module sends out of itself. -/

set_option Elab.async false

namespace Sys2Proof.Machine

/-- One register (or register pair, homed at its low word) that does not hold its reset value. -/
structure RegCell where
  addr : Nat
  val : DWord
  deriving DecidableEq, Repr

/-- One field write waiting for the measure boundary (R7 code RWM, R10). -/
structure RwmWrite where
  addr : Nat
  hi : Nat
  lo : Nat
  val : Nat
  deriving DecidableEq, Repr

/-- A word of a 64-bit pair held for one requester: the high word that a low-word read latched (R6), or the low word
written since the requester's last write of the high word (R589). -/
structure PairWord where
  who : Requester
  addr : Nat
  val : Word
  deriving DecidableEq, Repr

/-- A fault record, Table 23.5. `read` marks a record that a Fault Records Read has returned (R559). -/
structure FaultRecord where
  number : Nat
  boot : Nat
  rep : Nat
  meas : DWord
  time : DWord
  source : Nat
  severity : Nat
  code : Nat
  flags : Nat
  domain : Nat
  part : Nat
  region : Nat
  addr : Nat
  data : Nat
  dataOff : Nat
  read : Bool
  deriving DecidableEq, Repr

/-- What a notice of Table 17.6 carries, by TYPE. -/
inductive NoticeBody where
  | faultRecord (r : FaultRecord)
  | anaChange (group state : Nat)
  | energyState (stat : Word)
  | slotEvent (slot : Nat) (evt : Word)
  | longOpEnded (entry : Bytes)
  | proposalOpen (proposal : DWord)
  | trialEnded (fr : Bytes)
  | leadChange (stat : Word)
  deriving DecidableEq, Repr

/-- A notice (R445, Table 17.6). -/
structure Notice where
  number : Nat
  meas : DWord
  body : NoticeBody
  deriving DecidableEq, Repr

end Sys2Proof.Machine
end

