-- ==== Sys2Proof/Machine/RegFile.lean ====
section
/-! DEFINITION. The register file: looking an address up in the register tables, the reset value of each register, and
the sorted list of registers that differ from it. -/

set_option Elab.async false

namespace Sys2Proof.Machine

/-- The divisor column of Table 2.1; 0x0010 for the clusters (Table 2.2). -/
def clkDomainDivisor (n : Nat) : Nat :=
  if n < 8 then 16 else if n < 10 then 10 else if n < 13 then 8 else if n < 18 then 16 else if n < 20 then 20
  else if n = 20 then 16 else if n = 21 then 40 else if n = 22 then 200 else if n = 23 then 20 else 2

/-- The reserved-minimum column of the attachments' table (R156), in cells. -/
def attachmentMinimum (a : Nat) : Nat :=
  if a < 4 then 4096 else if a = 4 then 2048 else if a = 5 then 16384 else if a = 6 then 8192 else if a = 7 then 32768
  else if a = 8 then 4096 else if a = 9 then 16384 else if a = 10 then 32768 else 2048

/-- The reset value of one field of the register with indices `i`, `j`. -/
def ResetRule.value (i j : Nat) : ResetRule → Nat
  | .const n => n
  | .notStated n => n
  | .clkDomDiv => clkDomainDivisor i
  | .swcAttMin => attachmentMinimum i
  | .swcLossless => if j = 3 then 1 else 0
  | .swcHdrm => if j = 3 then 640 else 0
  | .wflShift => if i < 5 then 0 else 4
  | .wflFixed => if i < 4 then 1 else 0
  | .wflDin => if i < 3 then 0xFFFFFFFF else 0x72
  | .cluPart => 15

/-- A register found by address: its block, instance, row, indices, and whether the address is the high word of a pair. -/
structure RegHit where
  block : Nat
  inst : Nat
  row : RegRow
  i : Nat
  j : Nat
  high : Bool
  deriving DecidableEq, Repr

/-- Whether an offset within an index's stride is the register itself or the high word of its pair. -/
def wordOf (wide : Bool) (rem : Nat) : Option Bool :=
  if rem = 0 then some false else if wide && rem == 4 then some true else none

/-- Where offset `off` of a block falls in one row, if it does: the indices and which word of a pair. -/
def RegRow.find (r : RegRow) (off : Nat) : Option (Nat × Nat × Bool) :=
  if off < r.off then none else
  match r.dims with
  | [] => (wordOf r.wide (off - r.off)).map fun h => (0, 0, h)
  | [(n, st)] =>
    if (off - r.off) / st < n then (wordOf r.wide ((off - r.off) % st)).map fun h => ((off - r.off) / st, 0, h) else none
  | (n, st) :: (m, st') :: _ =>
    if (off - r.off) / st < n ∧ (off - r.off) % st / st' < m then
      (wordOf r.wide ((off - r.off) % st % st')).map fun h => ((off - r.off) / st, (off - r.off) % st / st', h)
    else none

/-- The first row of a block's table that holds offset `off`. -/
def findRow (n inst off : Nat) : List RegRow → Option RegHit
  | [] => none
  | r :: rs =>
    match r.find off with
    | some (i, j, h) => some ⟨n, inst, r, i, j, h⟩
    | none => findRow n inst off rs

/-- The block of Table 0.6 with number `n`. -/
def findBlock (n : Nat) : List BlockRow → Option BlockRow
  | [] => none
  | b :: bs => if b.n ≤ n ∧ n < b.n + b.count then some b else findBlock n bs

/-- R13: the register space is 0x00F0_0000_0000 to 0x00F0_00FF_FFFF; the block number of an address in it. -/
def blockNumber (addr : Nat) : Option Nat :=
  if 0x00F000000000 ≤ addr ∧ addr < 0x00F001000000 then some ((addr - 0x00F000000000) / 0x10000) else none

/-- The offset of a register address within its block. -/
def blockOffset (addr : Nat) : Nat := addr % 0x10000

/-- Whether the address lies in an assigned block (R15). -/
def assigned (addr : Nat) : Bool :=
  match blockNumber addr with
  | some n => (findBlock n blockTable).isSome
  | none => false

/-- The register at an address, if its block is assigned and the offset holds one (R14). -/
def findReg (addr : Nat) : Option RegHit :=
  match blockNumber addr with
  | some n =>
    match findBlock n blockTable with
    | some b => findRow n (n - b.n) (blockOffset addr) b.regs
    | none => none
  | none => none

/-- Whether the hit is an instance of the register whose first instance is at `a`. -/
def RegHit.is (h : RegHit) (a : Nat) : Bool := blockAddr (h.block - h.inst) h.row.off == a

/-- The reset word of a register, from the fields of its row. -/
def RegHit.resetWord (h : RegHit) : Nat :=
  h.row.fields.foldl (fun w f => w + f.reset.value h.i h.j * 2 ^ f.lo) 0

/-- What a register reads as when the register file lists nothing for it: its reset value. -/
def resetValue (addr : Nat) : DWord :=
  match findReg addr with
  | some h => BitVec.ofNat 64 h.resetWord
  | none => 0

/-- The listed value of an address, if any. -/
def RegFile.find (a : Nat) : List RegCell → Option DWord
  | [] => none
  | c :: cs => if c.addr = a then some c.val else RegFile.find a cs

/-- The list without the address. -/
def RegFile.erase (a : Nat) : List RegCell → List RegCell
  | [] => []
  | c :: cs => if c.addr = a then RegFile.erase a cs else c :: RegFile.erase a cs

/-- The list with the cell put in its place by rising address. -/
def RegFile.insert (c : RegCell) : List RegCell → List RegCell
  | [] => [c]
  | d :: ds => if c.addr < d.addr then c :: d :: ds else d :: RegFile.insert c ds

/-- The value of a register. -/
def RegFile.get (a : Nat) (l : List RegCell) : DWord := (RegFile.find a l).getD (resetValue a)

/-- Store a register, keeping the canonical form: rising addresses, no cell equal to the reset value. -/
def RegFile.set (a : Nat) (v : DWord) (l : List RegCell) : List RegCell :=
  if v = resetValue a then RegFile.erase a l else RegFile.insert ⟨a, v⟩ (RegFile.erase a l)

/-- The canonical form of the register file. -/
abbrev RegFile.Canonical (l : List RegCell) : Prop :=
  l.Pairwise (fun c d => c.addr < d.addr) ∧ ∀ c ∈ l, c.val ≠ resetValue c.addr

/-- The number in bits [hi:lo] of a word. -/
def extractBits (w hi lo : Nat) : Nat := w / 2 ^ lo % 2 ^ (hi + 1 - lo)

/-- A word with the number `v` put into bits [hi:lo], the other bits kept. -/
def depositBits (w hi lo v : Nat) : Nat :=
  w / 2 ^ (hi + 1) * 2 ^ (hi + 1) + v % 2 ^ (hi + 1 - lo) * 2 ^ lo + w % 2 ^ lo

end Sys2Proof.Machine
end

