-- ==== Sys2Proof/Machine/State/Two.lean ====
section
/-! DEFINITION. The protection set-up: guarded objects, proposals and the commit log (chapter Two-Step and the Protection
Set-Up), beside the TWO_ registers. -/

set_option Elab.async false

namespace Sys2Proof.Machine

/-- States of Table 18.6. -/
inductive ProposalState where
  | opened | armed | applied | stale | expired | withdrawn | missed
  deriving DecidableEq, Repr

/-- A proposal (R454) in its slot of TWO_PREC. -/
structure Proposal where
  slot : Nat
  number : Nat
  object : Nat
  /-- INSTANCE, OP, a reserved byte, then the content (R448). -/
  body : Bytes
  state : ProposalState
  /-- 0 for a proposal made by a register write (R594). -/
  proposer : Nat
  /-- Guardians counted. -/
  counted : List Nat
  target : Nat
  /-- T, once armed (R455). -/
  armedFor : Nat
  /-- Revision of the instance at the Propose. -/
  base : Nat
  /-- When it was made, ns. -/
  since : Nat
  /-- The SESSION word under which a claim was proposed (R456); 0 where none counts. -/
  session : Nat
  deriving DecidableEq, Repr

structure TwoStep where
  /-- Instances set at least once, by object and instance. -/
  objects : List GuardedObject
  proposals : List Proposal
  /-- The last 256 pair-scoped commits, newest first. -/
  log : List LoggedCommit
  /-- Per-module counter of PROPOSAL. -/
  counter : Nat
  /-- R456: the module is claimed; its ADOPT flag. -/
  claimed : Bool
  adopt : Bool
  /-- R457: what the peer showed at entry to Paired, to be acted on at the second boundary after it: target measure, the
  commits to apply, and the peer's pair-scoped instances to adopt. -/
  fromPeer : Option (Nat × List LoggedCommit × List GuardedObject)
  /-- The peer's set-up digest as last shown (R457). -/
  peerDigest : Bytes
  deriving DecidableEq, Repr

/-- R456: an unclaimed module holds principal 1, an enabled Guardian whose key is 32 zero bytes. -/
def TwoStep.factory : TwoStep where
  objects := [⟨1, 1, leBytes 1 3 ++ leBytes 1 1 ++ leBytes 2 0 ++ leBytes 32 0 ++ List.replicate 16 32, 0⟩]
  proposals := []
  log := []
  counter := 0
  claimed := false
  adopt := false
  fromPeer := none
  peerDigest := []

end Sys2Proof.Machine
end

