-- ==== Sys2Proof/Machine/Setup.lean ====
section
/-! DEFINITION. The protection set-up as bytes (R447, R449): visible bodies, the digest and the revision. -/

set_option Elab.async false

namespace Sys2Proof.Machine

/-- Bit `i` of a number. -/
def bitOf (n i : Nat) : Bool := n / 2 ^ i % 2 == 1

/-- `n` bytes of a run from an offset, as a number. -/
def numAt (bs : Bytes) (off n : Nat) : Nat := leNat ((bs.drop off).take n)

/-- `n` bytes, cut or filled with zero bytes. -/
def padTo (n : Nat) (b : Bytes) : Bytes := b.take n ++ List.replicate (n - b.length) 0

/-! Revision and digest of the set-up (R447, R449). -/

/-- The first bytes of a key's hash, padded with zero bytes where the field is longer. -/
def maskedKey (key : Bytes) (field : Nat) : Bytes :=
  (Config.sha384 key).take field ++ List.replicate (field - 48) 0

/-- R449: the visible body of an object: INSTANCE, OP, a zero byte, and the content with each key replaced. -/
def visibleBody (object : Nat) (body : Bytes) : Bytes :=
  let h := body.take 4
  let c := body.drop 4
  if c.isEmpty then h
  else if object = 1 then h ++ c.take 4 ++ maskedKey ((c.drop 4).take 32) 32 ++ c.drop 36
  else if object = 2 then
    h ++ c.take 20 ++ (if bitOf (numAt c 0 1) 0 then maskedKey ((c.drop 20).take (numAt c 2 1)) 64 else List.replicate 64 0) ++ c.drop 84
  else if object = 5 then h ++ maskedKey (c.take 32) 32
  else if object = 6 then
    h ++ c.take 4 ++ maskedKey ((c.drop 4).take 32) 32 ++ (c.drop 36).take 4 ++
      (List.range (numAt c 36 1)).flatMap fun i =>
        let p := (c.drop (40 + 56 * i)).take 56
        p.take 8 ++ maskedKey ((p.drop 8).take 32) 32 ++ p.drop 40
  else body

/-- The body that sets an instance to its content. -/
def setBody (inst : Nat) (content : Bytes) : Bytes := leBytes 2 inst ++ [1, 0] ++ content

/-- Objects in ascending OBJECT and INSTANCE order. -/
def insertObject (o : GuardedObject) : List GuardedObject → List GuardedObject
  | [] => [o]
  | p :: ps => if o.object * 65536 + o.inst < p.object * 65536 + p.inst then o :: p :: ps
      else if o.object = p.object ∧ o.inst = p.inst then o :: ps else p :: insertObject o ps

/-- R447: the digest over the visible bodies of all instances. -/
def setupDigest (l : List GuardedObject) : Bytes :=
  Config.sha384 ((l.filter (!·.content.isEmpty)).flatMap fun o => visibleBody o.object (setBody o.inst o.content))

/-- R447: the revision of the set-up. -/
def setupRevision (l : List GuardedObject) : Nat := (l.map (·.revision)).foldl (· + ·) 0

/-- Table 18.1: pair-scoped objects. The claim, which the table does not list, is the module's own (DESIGN CHOICE, log 187). -/
def pairScoped (object : Nat) : Bool := object == 1 || object == 2 || object == 3

end Sys2Proof.Machine
end

