-- ==== Sys2Proof/Machine/State/Admin.lean ====
section
/-! DEFINITION. Firmware, long operations and forwarded admin commands (chapter Admin Commands and Long Operations). -/

set_option Elab.async false

namespace Sys2Proof.Machine

/-- A long operation in its slot of log page 0xC2: a service group's, or 8 for the sanitize (R106). -/
structure LongOp where
  slot : Nat
  /-- STATE of Table 4.11: 1 running, 2 suspended, 3 waiting to resume, 4 done, 5 failed. -/
  state : Nat
  /-- The newest record written, and the newest durable one: none until the first is durable (R108). -/
  newest : ProgressRecord
  durable : Option ProgressRecord
  /-- Units in progress on the members, and those that completed ahead of NEXT_UNIT. -/
  walking : List Nat
  ahead : List Nat
  /-- The command whose completion is posted when the walk ends (R103). -/
  cmd : Option CmdKey
  /-- The key retirement of R406 is under way for it. -/
  retiring : Bool
  /-- A member write of the walk failed after its retries (R104). -/
  failed : Bool
  deriving DecidableEq, Repr

/-- A firmware slot's stored image. -/
structure FirmwareImage where
  slot : Nat
  image : Bytes
  deriving DecidableEq, Repr

/-- An admin command passed to the lead of its group (R90). -/
structure Forwarded where
  key : CmdKey
  opcode : Nat
  nsid : Nat
  deriving DecidableEq, Repr

structure Admin where
  ops : List LongOp
  /-- Progress records that the vault holds, by slot, newest first, at most four a slot (R108). -/
  records : List (Nat × ProgressRecord)
  forwards : List Forwarded
  /-- Pieces staged (R99): offset and bytes. -/
  staging : List (Nat × Bytes)
  /-- The two slots in flash, the slot that runs and the slot marked for the next module reset. -/
  images : List FirmwareImage
  runningSlot : Nat
  nextSlot : Nat
  /-- The image that runs: its slot may hold another by now (R94). -/
  running : Bytes
  /-- Commit action 2 marked the slot: the signatures are checked again at the reset (Table 4.9). -/
  recheck : Bool
  /-- Minimum security version (R100). -/
  minSvn : Nat
  /-- A newly activated image runs on trial; the slot that ran before it (R102). -/
  trial : Bool
  previousSlot : Nat
  /-- Activation asked for by commit action 3: the slot. -/
  activating : Option Nat
  /-- How far it is: 0 not begun, 1 rolling (R82), 2 an outage (R83). -/
  activationStage : Nat
  /-- R101: the peer is activating, as its state copies tell (log 150). -/
  peerActivating : Bool
  /-- Leads held by the peer before a sanitize, to go back to it (R104). -/
  leadsBefore : Nat
  /-- R86, R106: the peer's long operations as its state copies tell them: slot, STATE and newest durable record (log 150). -/
  peerOps : List (Nat × Nat × ProgressRecord)
  deriving DecidableEq, Repr

/-- A module that runs the image of slot 1, whose content the spec does not give. -/
def Admin.commissioned : Admin where
  ops := []
  records := []
  forwards := []
  staging := []
  images := []
  runningSlot := 1
  nextSlot := 1
  running := []
  recheck := false
  minSvn := 0
  trial := false
  previousSlot := 1
  activating := none
  activationStage := 0
  peerActivating := false
  leadsBefore := 0
  peerOps := []

end Sys2Proof.Machine
end

