-- ==== Sys2Proof/Machine/State/Caches.lean ====
section
/-! DEFINITION. The core caches of the clusters (chapter Service Cores and Caches). -/

set_option Elab.async false

namespace Sys2Proof.Machine

/-- A line that a cache holds: its set and way, its line number (address / 64), and its bytes. -/
structure CacheLine where
  set : Nat
  way : Nat
  line : Nat
  dirty : Bool
  bytes : Bytes
  deriving DecidableEq, Repr

/-- A miss outstanding (R513): the way its fill goes into, and the access that it serves (none for the L2). -/
structure CacheMiss where
  set : Nat
  way : Nat
  line : Nat
  access : Option CoreAccess
  /-- R515: a cbo operation reached it. -/
  doomed : Bool
  /-- R514: its dirty victim still waits for a place in the victim buffer. -/
  evict : Bool
  /-- The fill has come back, and waits for that place. -/
  arrived : Bool
  deriving DecidableEq, Repr

/-- A dirty line in the victim buffer (R514), and the accesses that wait for it. -/
structure CacheVictim where
  line : Nat
  bytes : Bytes
  waits : List CoreAccess
  deriving DecidableEq, Repr

/-- One cache. Its number is 17 times its cluster plus its number of R512. -/
structure Cache where
  id : Nat
  lines : List CacheLine
  repl : Nat
  misses : List CacheMiss
  /-- The victim buffer, oldest first. -/
  victims : List CacheVictim
  /-- R513: accesses stalled behind the outstanding miss, oldest first. -/
  stalled : List CoreAccess
  deriving DecidableEq, Repr

/-- A cbo operation that waits for fills and victims (R515). -/
structure PendingCbo where
  core : Nat
  op : CboOp
  line : Nat
  deriving DecidableEq, Repr

structure Caches where
  /-- Caches that are not as at reset, by number. -/
  caches : List Cache
  cbos : List PendingCbo
  /-- Clusters whose cores a fatal parity error stopped (R517). -/
  stopped : List Nat
  deriving DecidableEq, Repr

def Caches.atReset : Caches where
  caches := []
  cbos := []
  stopped := []

end Sys2Proof.Machine
end

