-- ==== Sys2Proof/Machine/State/Clock.lean ====
section
/-! DEFINITION. The time counter, the measure grid and the boundary window (chapter The Measure and the Clocks), and
the stored configuration that outlives a reset. -/

set_option Elab.async false

namespace Sys2Proof.Machine

/-- Time and grid state beside the MEAS_ and CLK_ registers. -/
structure Clock where
  /-- R32: PTP time, nanoseconds. -/
  timeNs : DWord
  /-- R32: 32-bit fraction of a nanosecond. -/
  timeFrac : Word
  /-- R33: sum of the forward steps accepted before the coming boundary. -/
  stepSum : DWord
  /-- R40: the measure begun at the last boundary. -/
  current : DWord
  /-- R42: the boundary window is open. -/
  windowOpen : Bool
  /-- R41: when the open window ends, ns. -/
  windowEnd : Nat
  /-- R42: the events held until the window ends, oldest first. -/
  held : List Instr
  /-- R35: the holdover timer runs. -/
  holdover : Bool
  /-- R29, R584: the module holds itself in module reset. -/
  heldInReset : Bool
  deriving DecidableEq, Repr

/-- R33: the time counter is 0 after a reset, and no boundary has been met. -/
def Clock.atReset : Clock where
  timeNs := 0
  timeFrac := 0
  stepSum := 0
  current := 0
  windowOpen := false
  windowEnd := 0
  held := []
  holdover := false
  heldInReset := false

/-- One entry of the ladder history (R565): step 3 or 4, and when it was taken (time counter, ns). -/
structure LadderEntry where
  step : Nat
  time : DWord
  deriving DecidableEq, Repr

/-- Stored configuration: what the module keeps across every reset (R36, R446, R556, R565). -/
structure StoredConfig where
  /-- MEAS_CTL.MLEN for the next reset (R36). -/
  mlen : Nat
  /-- Count of cold and module resets (R556). -/
  boot : Nat
  /-- MCP_CFG kept across a module reset (R446). -/
  mcpCfg : DWord
  /-- The ladder history (R565), newest first. -/
  ladder : List LadderEntry
  /-- Midplane position: 0 or 1 (R584). -/
  position : Nat
  /-- Lanes each port is broken out into: 1, 2, 4 or 8 (Table 0.2). -/
  lanes : List Nat
  /-- Front ports that are disabled (Table 19.2); the spec names no other place that says so. -/
  disabledPorts : List Nat
  /-- Saved feature values (Table 4.7): feature, namespace (0 where it has none), value. -/
  features : List (Nat × Nat × Nat)
  /-- Registers of the sets' pages as last in force (R549), for assembly after a reset. -/
  sets : List RegCell
  deriving DecidableEq, Repr

/-- A module as commissioned: the default measure of 8 µs (R36), no reset counted, position 0. -/
def StoredConfig.commissioned : StoredConfig where
  mlen := 1
  boot := 0
  mcpCfg := 0x489612C1
  ladder := []
  position := 0
  lanes := [1, 1, 1, 1]
  disabledPorts := []
  features := []
  sets := []

end Sys2Proof.Machine
end

