-- ==== Sys2Proof/Machine/State/Direct.lean ====
section
/-! DEFINITION. The direct port beside the DPT_ registers (chapter Direct Port): pins, configuration space, function 0's NVMe
registers and the reads outstanding. -/

set_option Elab.async false

namespace Sys2Proof.Machine

/-- What a read of host memory is for. -/
inductive DirectWhat where
  /-- A submission queue entry: queue and slot. -/
  | entry (queue slot : Nat)
  /-- Data of a command, from an offset of its transfer. -/
  | data (key : CmdKey) (offset : Nat)
  deriving DecidableEq, Repr

/-- A read request of function 0 (R375): waiting for one of the 512 places (R363), or sent. -/
structure DirectRead where
  tag : Nat
  sent : Bool
  what : DirectWhat
  len : Nat
  /-- Bytes that have come. -/
  got : Bytes
  /-- When it was sent, ns (R369). -/
  sentAt : Nat
  deriving DecidableEq, Repr

/-- One function (R367, R377): the writable bits of its configuration space that do not hold their reset value, by offset;
an FLR that runs; and the enables latched while it quiesces. -/
structure DirectFn where
  cfg : List (Nat × Nat)
  flr : Bool
  /-- When the FLR began, ns (R381). -/
  flrAt : Nat
  latchBme : Bool
  latchCc : Bool
  latchD0 : Bool
  /-- MSI-X table words that do not hold their reset value, by offset in the table, and the pending vectors. -/
  msix : List (Nat × Nat)
  pba : List Nat
  deriving DecidableEq, Repr

def DirectFn.atReset : DirectFn where
  cfg := []
  flr := false
  flrAt := 0
  latchBme := false
  latchCc := false
  latchD0 := false
  msix := []
  pba := []

structure Direct where
  fn0 : DirectFn
  fn1 : DirectFn
  reads : List DirectRead
  nextTag : Nat
  /-- Submission queues of function 0: queue, and the tail its doorbell last gave. -/
  tails : List (Nat × Nat)
  /-- Completion queues of function 0: queue, and the next slot (R374). -/
  slots : List (Nat × Nat)
  /-- Completion queue heads as the host last wrote them. -/
  heads : List (Nat × Nat)
  /-- R378: CSTS.CFS. -/
  cfs : Bool
  /-- NVMe registers of function 0: interrupt mask, AQA, ASQ, ACQ. -/
  intm : Nat
  aqa : Nat
  asq : Nat
  acq : Nat
  /-- R382: function 1's PME_En and PME_Status, in the always-on domain. -/
  pmeEn : Bool
  pmeStatus : Bool
  /-- DIR_PERST_N is low, DIR_CPRSNT_N is low (Table 14.1). -/
  perstLow : Bool
  cableIn : Bool
  /-- When DIR_PERST_N was last deasserted, ns (R381). -/
  perstAt : Nat
  deriving DecidableEq, Repr

/-- After a cold reset, with no cable: the pull-down holds DIR_PERST_N low. -/
def Direct.atReset : Direct where
  fn0 := DirectFn.atReset
  fn1 := DirectFn.atReset
  reads := []
  nextTag := 0
  tails := []
  slots := []
  heads := []
  cfs := false
  intm := 0
  aqa := 0
  asq := 0
  acq := 0
  pmeEn := false
  pmeStatus := false
  perstLow := true
  cableIn := false
  perstAt := 0

end Sys2Proof.Machine
end

