-- ==== Sys2Proof/Machine/Galois.lean ====
section
/-! DEFINITION. Parity arithmetic (R214): the field GF(2^8) with polynomial x^8 + x^4 + x^3 + x^2 + 1 and generator 0x02,
the parity blocks P, Q and V of a row, and the solving of missing blocks. -/

set_option Elab.async false

namespace Sys2Proof.Machine

/-- Addition in the field. -/
def gfAdd (a b : Byte) : Byte := a ^^^ b

/-- Multiplication by x (the generator 0x02). -/
def gfDouble (a : Byte) : Byte := if a.msb then (a <<< 1) ^^^ 0x1D else a <<< 1

/-- The product of `a` with the low `n` bits of `b`, from bit 0 up, `a` doubled at each bit. -/
def gfMulSteps : Nat → Byte → Byte → Byte
  | 0, _, _ => 0
  | n + 1, a, b => (if b.getLsbD 0 then a else 0) ^^^ gfMulSteps n (gfDouble a) (b >>> 1)

/-- Multiplication in the field. -/
def gfMul (a b : Byte) : Byte := gfMulSteps 8 a b

/-- A power. -/
def gfPow (a : Byte) : Nat → Byte
  | 0 => 1
  | n + 1 => gfMul a (gfPow a n)

/-- The inverse of a nonzero element: its 254th power. -/
def gfInv (a : Byte) : Byte := gfPow a 254

/-- Exclusive OR of two blocks, byte by byte. -/
def xorBytes (a b : Bytes) : Bytes := List.zipWith gfAdd a b

/-- A block times a field element. -/
def scaleBytes (c : Byte) (a : Bytes) : Bytes := a.map (gfMul c)

/-- A block of zero bytes. -/
def zeroBlock (n : Nat := 4096) : Bytes := List.replicate n 0

/-- R214: the coefficient of data strip `i` in parity strip `p`: 1 for P, g^i for Q, g^(2i) for V. -/
def parityCoeff (p i : Nat) : Byte := gfPow 0x02 (p * i)

/-- R214: parity strip `p` of a row of data blocks, strip 0 first. -/
def parityOf (p len : Nat) (row : List Bytes) : Bytes :=
  (row.zipIdx).foldl (fun acc (d, i) => xorBytes acc (scaleBytes (parityCoeff p i) d)) (zeroBlock len)

/-- One equation over the missing data blocks of a row: their coefficients and the block they sum to. -/
structure RowEquation where
  coeffs : List Byte
  value : Bytes
  deriving DecidableEq, Repr

/-- Scale an equation. -/
def RowEquation.scale (e : RowEquation) (c : Byte) : RowEquation := ⟨e.coeffs.map (gfMul c), scaleBytes c e.value⟩

/-- Add two equations. -/
def RowEquation.add (a b : RowEquation) : RowEquation := ⟨List.zipWith gfAdd a.coeffs b.coeffs, xorBytes a.value b.value⟩

/-- Eliminate unknown after unknown: `done` holds the solved rows, newest first. -/
def eliminate : Nat → Nat → List RowEquation → List RowEquation → Option (List RowEquation)
  | 0, _, _, done => some done.reverse
  | n + 1, c, eqs, done =>
    match eqs.find? (fun e => e.coeffs.getD c 0 != 0) with
    | none => none
    | some pivot =>
      let piv := pivot.scale (gfInv (pivot.coeffs.getD c 0))
      let clear := fun e : RowEquation => e.add (piv.scale (e.coeffs.getD c 0))
      eliminate n (c + 1) ((eqs.erase pivot).map clear) (piv :: done.map clear)

/-- R214: the data blocks of a row from any k of its w strips. `strips` lists what could be read by strip index (data
strips first, then P, Q, V); the answer is the k data blocks, or none when fewer than k strips were read. -/
def solveRow (k m len : Nat) (strips : Nat → Option Bytes) : Option (List Bytes) :=
  let missing := (List.range k).filter fun i => (strips i).isNone
  let equations := (List.range m).filterMap fun p =>
    (strips (k + p)).map fun v =>
      RowEquation.mk (missing.map (parityCoeff p))
        (((List.range k).filterMap fun i => (strips i).map fun d => scaleBytes (parityCoeff p i) d).foldl xorBytes v)
  match eliminate missing.length 0 equations [] with
  | none => none
  | some rows =>
    some ((List.range k).map fun i =>
      match strips i with
      | some d => d
      | none => ((missing.idxOf? i).bind fun n => rows[n]?).elim (zeroBlock len) (·.value))

end Sys2Proof.Machine
end

