-- ==== Sys2Proof/Machine/Layout.lean ====
section
/-! DEFINITION. The arithmetic of the Quadrille layout (R199–R210, R258): geometry, slices, figures, translation of a
namespace block to its stripe and of a strip to its member block. Divisions round down. -/

set_option Elab.async false

namespace Sys2Proof.Machine

/-- A set's geometry (R200): N members, k data strips, m parity strips, s spares, B figure blocks. -/
structure Geom where
  n : Nat
  k : Nat
  m : Nat
  s : Nat
  b : Nat
  deriving DecidableEq, Repr

namespace Geom
/-- Stripe width. -/
def w (g : Geom) : Nat := g.k + g.m
/-- Column count. -/
def c (g : Geom) : Nat := g.n - g.s
/-- Slice height, strips. -/
def h (g : Geom) : Nat := g.w / Nat.gcd g.w g.c
/-- Stripes per slice. -/
def t (g : Geom) : Nat := g.h * g.c / g.w
/-- Figure rows (R204). -/
def f (g : Geom) : Nat := g.n * g.b
/-- Data stripes of an extent (R206). -/
def e (g : Geom) : Nat := (262144 + 8 * g.k - 1) / (8 * g.k)
/-- Tag stripes of an extent (R206). -/
def tagStripes (g : Geom) : Nat := (128 + 8 * g.k - 1) / (8 * g.k)
/-- Stripes of an extent. -/
def perExtent (g : Geom) : Nat := g.e + g.tagStripes
/-- R203: slices on members of `blocks` member blocks. -/
def slices (g : Geom) (blocks : Nat) : Nat := (blocks - 262144) / (8 * g.h)
/-- Set stripes. -/
def stripes (g : Geom) (blocks : Nat) : Nat := g.t * g.slices blocks
/-- R206: extents of the set. -/
def extents (g : Geom) (blocks : Nat) : Nat := g.stripes blocks / g.perExtent
/-- R206: CAPACITY in blocks. -/
def capacity (g : Geom) (blocks : Nat) : Nat := g.extents blocks * 262144

/-- R200: the limits of a geometry, with the members' common capacity `blocks`. -/
def legal (g : Geom) (blocks : Nat) : Bool :=
  4 ≤ g.k && g.k ≤ 16 && 1 ≤ g.m && g.m ≤ 3 && g.s ≤ 4 && g.n ≤ 48 && g.k + g.m + g.s ≤ g.n &&
  1 ≤ g.b && g.b ≤ 64 && 262144 ≤ blocks && 1 ≤ g.extents blocks
end Geom

/-- A figure row (Table 8.2) of a set. -/
structure FigRow where
  set : Nat
  row : Nat
  cols : List Nat
  gen : Nat
  n : Nat
  spare : Nat
  deriving DecidableEq, Repr

/-- Where one namespace block lies (R208): set stripe, data strip, block row. -/
structure BlockPlace where
  stripe : Nat
  strip : Nat
  row : Nat
  deriving DecidableEq, Repr

/-- Where a namespace block lies: set, generation, stripe, strip and row; and the member and the slot that held it when the
command was translated (R209), where one did. -/
structure Place where
  set : Nat
  gen : Nat
  stripe : Nat
  strip : Nat
  row : Nat
  member : Option (Nat × Nat)
  deriving DecidableEq, Repr

/-- R208: the place of block `b` of set extent `x`. -/
def Geom.blockPlace (g : Geom) (x b : Nat) : BlockPlace :=
  ⟨x * g.perExtent + b / (8 * g.k), b % (8 * g.k) / 8, b % (8 * g.k) % 8⟩

/-- R208: the place of the tag block that holds the host tag of block `b` of extent `x`. -/
def Geom.tagPlace (g : Geom) (x b : Nat) : BlockPlace :=
  ⟨x * g.perExtent + g.e + b / 2048 / (8 * g.k), b / 2048 % (8 * g.k) / 8, b / 2048 % (8 * g.k) % 8⟩

/-- R203: position of strip `i` (data, then parity) of set stripe `S`: slice, strip row, layout column. -/
def Geom.slice (g : Geom) (S : Nat) : Nat := S / g.t
def Geom.position (g : Geom) (S i : Nat) : Nat := S % g.t * g.w + i
def Geom.stripRow (g : Geom) (S i : Nat) : Nat := g.position S i / g.c
def Geom.column (g : Geom) (S i : Nat) : Nat := g.position S i % g.c

/-- R208: the member block address of block row `j` of strip `i` of stripe `S`. -/
def Geom.memberBlock (g : Geom) (S i j : Nat) : Nat := 262144 + (g.slice S * g.h + g.stripRow S i) * 8 + j

/-- The figure row of a stripe's slice (R204). -/
def Geom.figRow (g : Geom) (S : Nat) : Nat := g.slice S % g.f

/-- The columns a figure gives a row. -/
def figCols (fig : List FigRow) (set row : Nat) : List Nat :=
  match fig.find? (fun r => r.set == set && r.row == row) with
  | some r => r.cols
  | none => []

/-- R208: the member of strip `i` of stripe `S`, before R210. -/
def Geom.member (g : Geom) (fig : List FigRow) (set S i : Nat) : Nat :=
  (figCols fig set (g.figRow S)).getD (g.s + g.column S i) 255

/-- R210: the member of spare column `z` in the stripe's slice. -/
def Geom.spareMember (g : Geom) (fig : List FigRow) (set S z : Nat) : Nat :=
  (figCols fig set (g.figRow S)).getD z 255

/-- R258: the first and last member block of set extent `x`. -/
def Geom.extentRange (g : Geom) (x : Nat) : Nat × Nat :=
  (262144 + 8 * g.h * (x * g.perExtent / g.t),
   262144 + 8 * g.h * ((x * g.perExtent + g.perExtent - 1) / g.t + 1) - 1)

/-- Whether two ranges of member blocks share a block. -/
def rangesOverlap (a b : Nat × Nat) : Bool := a.1 ≤ b.2 && b.1 ≤ a.2

/-- R205: whether a figure row may be accepted: COL a permutation of the N members then 0xFF, and ROW, N and SPARE in
their place. -/
def figRowAccepted (cols : List Nat) (row n spare : Nat) (wantRow : Nat) (g : Geom) : Bool :=
  (List.range g.n).all (fun u => (cols.take g.n).count u == 1) && (cols.drop g.n).all (· == 255) && cols.length == 48 &&
  row == wantRow && wantRow < g.f && n == g.n && spare == g.s

/-- The pseudo-random sequence of build_figure. -/
def figNextRandom (x : Nat) : Nat := (x * 6364136223846793005 + 1442695040888963407) % 2 ^ 64

/-- Swap two places of a list. -/
def swapAt (l : List Nat) (i j : Nat) : List Nat := (l.set i (l.getD j 0)).set j (l.getD i 0)

/-- The Fisher–Yates shuffle of build_figure, from place `j` down to 1; answers the state after. -/
def figShuffle : Nat → Nat → List Nat → Nat × List Nat
  | 0, x, pi => (x, pi)
  | j + 1, x, pi =>
    let x' := figNextRandom x
    figShuffle j x' (swapAt pi (j + 1) (x' / 2 ^ 33 % (j + 2)))

/-- build_figure: the column lists of blocks `b`.. of N rotations each. -/
def buildFigureBlocks (n : Nat) : Nat → Nat → List (List Nat)
  | 0, _ => []
  | b + 1, x =>
    let r := figShuffle (n - 1) x (List.range n)
    (List.range n).map (fun rot => (List.range n).map fun col => r.2.getD ((col + rot) % n) 0) ++ buildFigureBlocks n b r.1

/-- build_figure (R205): every row's columns, padded with 0xFF. -/
def buildFigure (n b seed : Nat) : List (List Nat) :=
  (buildFigureBlocks n b seed).map fun cols => cols ++ List.replicate (48 - n) 255

end Sys2Proof.Machine
end

