-- ==== Sys2Proof/Machine/State/Host.lean ====
section
/-! DEFINITION. What hosts see: namespaces, group policies, controllers, and the I/O commands in progress (chapters Host
I/O Semantics and Admin Commands and Long Operations). -/

set_option Elab.async false

namespace Sys2Proof.Machine

/-- The I/O commands of Table 3.2. -/
inductive IoKind where
  | flush | write | read | compare | writeZeroes | dsm | verify
  | resvRegister | resvReport | resvAcquire | resvRelease | copy
  deriving DecidableEq, Repr

/-- What a reservation command asks for (R52). -/
inductive ResvRequest where
  | register (action : Nat) (crkey nrkey : DWord)
  | acquire (action rtype : Nat) (crkey prkey : DWord)
  | release (action rtype : Nat) (crkey : DWord)
  deriving DecidableEq, Repr

/-- Where a decoded command stands: waiting for a slot (R50), for its range locks (R66), for dirty room (R273), fetching
its data, moving data to the host, or done but for the release of its completion (R72, R74). -/
inductive CmdStage where
  | slot | lock | room | fetch | move | held
  deriving DecidableEq, Repr

/-- An I/O command in progress. -/
structure HostCmd where
  key : CmdKey
  /-- Decode order across the module. -/
  order : Nat
  kind : IoKind
  nsid : Nat
  group : Nat
  /-- The blocks it covers; for Copy, its destination. -/
  range : BlockRange
  /-- Copy sources, or the ranges of a Dataset Management. -/
  ranges : List BlockRange
  stage : CmdStage
  /-- Accepted in write-back mode (R55). -/
  writeBack : Bool
  /-- The measure it belongs to, once known (R22, R72). -/
  meas : Option Nat
  /-- The key its response invalidates. -/
  invalidate : Option Nat
  /-- Where its data lies, and the descriptors of its host memory (R46). -/
  buffer : HostBuffer
  sgl : List KeyedSgl
  prchk : Nat
  pract : Bool
  lbat : Nat
  lbatm : Nat
  /-- Attribute bit of Dataset Management. -/
  deallocate : Bool
  resv : Option ResvRequest
  /-- Where each of its blocks lies, as translated at decode (R209): the blocks of its range, or of a Dataset Management's
  ranges in order; for Copy, its destination, and beside it its sources. -/
  places : List (Option Place)
  srcPlaces : List (Option Place)
  /-- When it began to wait for dirty room, ns (R273). -/
  since : Nat
  /-- Data fetched or brought by the capsule: byte offset in the transfer and the bytes there (R138). -/
  pieces : List (Nat × Bytes)
  /-- Blocks written: whole and placed, or refused; by index. -/
  placed : List Nat
  /-- Blocks read: index, plain data, host application tag. -/
  got : List (Nat × Bytes × Nat)
  /-- Tags of blocks read from members: index and tag (R60); and the blocks whose tag block is still being read: index and
  unit of the tag block. -/
  tagsAt : List (Nat × Nat)
  tagWaits : List (Nat × Nat)
  /-- Blocks that wait for a held copy to become durable (R70): index and copy. -/
  awaits : List (Nat × Nat)
  /-- Blocks of dirty room reserved and not yet turned into held copies (R273). -/
  room : Nat
  /-- Stripes written for it whose members have not all reported (R74): set and stripe. -/
  stripes : List (Nat × Nat)
  /-- First failure found. -/
  status : Nat
  deriving DecidableEq, Repr

/-- Host reservation state of a namespace (R52). -/
structure Reservation where
  /-- 0 for none, else the reservation type 1–6. -/
  rtype : Nat
  holder : Option Nat
  /-- Registered hosts: host identifier and key. -/
  registrants : List (Nat × Nat)
  generation : Nat
  deriving DecidableEq, Repr

/-- A namespace (R51, R91). -/
structure Namespace where
  nsid : Nat
  group : Nat
  set : Nat
  /-- Size in blocks, a multiple of 262,144. -/
  blocks : Nat
  lbaf : Nat
  /-- Configured cache mode: write-back. -/
  configuredWb : Bool
  /-- Mode in effect since the last boundary (R53, R55). -/
  writeBack : Bool
  encrypted : Bool
  /-- Set extent of each namespace extent, in order (R207). -/
  extents : List Nat
  /-- Controllers it is attached to. -/
  attached : List Nat
  /-- A Format NVM runs on it (R103). -/
  formatting : Bool
  resv : Reservation
  /-- Deleted: its extents wait for deallocation (R207, R222). -/
  deleted : Bool
  /-- Its key's wrapped blob (R405, Table 16.2); empty while it has no key. -/
  blob : Bytes
  deriving DecidableEq, Repr

/-- The policy of a service group (R54). -/
structure GroupPolicy where
  set : Nat
  writeBack : Bool
  encrypted : Bool
  deriving DecidableEq, Repr

/-- A policy change that waits for its boundary (R54): group, namespace (0 for the group), target measure, settings. -/
structure PolicyChange where
  group : Nat
  nsid : Nat
  target : Nat
  policy : GroupPolicy
  deriving DecidableEq, Repr

/-- A controller (R45, R77, R81). -/
structure Controller where
  cntlid : Nat
  hostId : Nat
  hostNqn : Bytes
  /-- The direct-port controller of R372. -/
  direct : Bool
  enabled : Bool
  ready : Bool
  /-- CSTS.SHST: 0 none, 1 in progress, 2 complete. -/
  shst : Nat
  /-- CC as the host last wrote it. -/
  cc : Nat
  kato : Nat
  /-- R77: when the keep-alive timer last started, ns. -/
  kaAt : Nat
  /-- Outstanding Asynchronous Event Requests, by command identifier, oldest first. -/
  aers : List Nat
  /-- Asynchronous Event Configuration bits in effect. -/
  aec : Nat
  /-- I/O and admin queues bound: queue identifier and queue pair. -/
  queues : List (Nat × Nat)
  /-- Feature values set: identifier and value. -/
  features : List (Nat × Nat)
  /-- Error log, newest first: error count, queue identifier, command identifier and status. -/
  errors : List (Nat × Nat × Nat × Nat)
  /-- Changed namespaces since the log page was last read. -/
  changedNs : List Nat
  deriving DecidableEq, Repr

/-- A reservation change of a write-back namespace: it takes effect when its measure commits (R52, Table 3.5). -/
structure PendingReservation where
  key : CmdKey
  nsid : Nat
  host : Nat
  meas : Nat
  request : ResvRequest
  deriving DecidableEq, Repr

/-- The host-facing state. -/
structure Hosts where
  namespaces : List Namespace
  policies : List GroupPolicy
  policyChanges : List PolicyChange
  controllers : List Controller
  commands : List HostCmd
  nextOrder : Nat
  /-- Per group: the ANA state last reported (Table 3.6). -/
  ana : List Nat
  /-- Changes of each group's state, for log page 0x0C. -/
  anaChanges : List Nat
  /-- Reservation changes that wait for their measure to commit (R52). -/
  resvPending : List PendingReservation
  /-- Entries of admin commands that are not complete (R46, R114). -/
  adminEntries : List AdminEntry
  /-- R92, R93: the peer's controllers as its state copies tell them: CNTLID, host NQN and host identifier (log 150). -/
  peerControllers : List (Nat × Bytes × Nat)
  /-- R102: an I/O command has been served since the reset. -/
  served : Bool
  deriving DecidableEq, Repr

/-- ANA states (Table 3.6), by the NVMe state code. -/
def anaOptimized : Nat := 1
def anaNonOptimized : Nat := 2
def anaInaccessible : Nat := 3
def anaPersistentLoss : Nat := 4
def anaChange : Nat := 0xF

/-- R54: at commissioning every group's policy is set 0, write-back and encrypted at rest. -/
def Hosts.atReset : Hosts where
  namespaces := []
  policies := List.replicate 8 ⟨0, true, true⟩
  policyChanges := []
  controllers := []
  commands := []
  nextOrder := 0
  ana := List.replicate 8 anaInaccessible
  anaChanges := List.replicate 8 0
  resvPending := []
  adminEntries := []
  peerControllers := []
  served := false

end Sys2Proof.Machine
end

