-- ==== Sys2Proof/Machine/State/Store.lean ====
section
/-! DEFINITION. The write-back cache, open stripes, the journal, the layout tables, rebuild and Promenade, and the commands
outstanding at members (chapters Quadrille Layout, Rebuild and Promenade, Write-Back Cache, Energy Store and Vault). -/

set_option Elab.async false

namespace Sys2Proof.Machine

/-- A held copy (R271). -/
structure HeldCopy where
  id : Nat
  group : Nat
  nsid : Nat
  /-- Namespace LBA; for a host tag block, 2^63 + 128 × e + tb (R411). -/
  lba : Nat
  set : Nat
  stripe : Nat
  strip : Nat
  row : Nat
  /-- Layout generation it was translated in (R209). -/
  gen : Nat
  /-- Stored bytes: ciphertext for an encrypted namespace. -/
  content : Bytes
  /-- The block is deallocated rather than written (R222). -/
  dealloc : Bool
  /-- The host application tag of this version (R59, R60). -/
  tag : Nat
  writeBack : Bool
  /-- Measure stamped at the link's acceptance (R22). -/
  meas : Option Nat
  durable : Bool
  /-- The command whose completion is not yet released. -/
  cmd : Option CmdKey
  /-- Posted to its member (R218); reported by it (R23). -/
  posted : Bool
  reported : Bool
  /-- Added to its stripe's accumulator (R214). -/
  accumulated : Bool
  /-- The member and slot it was translated to when its command was decoded (R209). -/
  member : Option (Nat × Nat)
  deriving DecidableEq, Repr

/-- A mirror copy received from the peer (R275): the block it is a copy of, where it lies, and its measure. -/
structure MirrorCopy where
  group : Nat
  meas : Nat
  /-- Byte offset of its slot in the group's window. -/
  offset : Nat
  nsid : Nat
  lba : Nat
  /-- Host application tag of this version. -/
  tag : Nat
  set : Nat
  stripe : Nat
  content : Bytes
  dealloc : Bool
  committed : Bool
  deriving DecidableEq, Repr

/-- Phase of a stripe with live writes: open, closing (old blocks being read), parity posted. -/
inductive StripePhase where
  | opened | closing | posting
  deriving DecidableEq, Repr

/-- An open or closing stripe (R215–R221). -/
structure OpenStripe where
  set : Nat
  stripe : Nat
  group : Nat
  nsid : Nat
  gen : Nat
  /-- Order in which it opened. -/
  order : Nat
  /-- Journal slot (R224). -/
  slot : Nat
  clearAtOpen : Bool
  phase : StripePhase
  lastWrite : Nat
  /-- Data blocks written since it opened: strip and row. -/
  written : List (Nat × Nat)
  /-- Accumulator: row, parity strip, partial parity (R214). -/
  acc : List (Nat × Nat × Bytes)
  /-- Rows still to be finished in the close. -/
  rowsLeft : List Nat
  /-- Handed to the Caller's destage work (Table 8.5). -/
  idle : Bool
  /-- It belongs to a tag stripe of another stripe's entry. -/
  tag : Bool
  /-- A close was due while the stripe was locked (R236). -/
  closeDue : Bool
  /-- Parity of rows that waits for the journal record: row, parity blocks (R225). -/
  held : List (Nat × List Bytes)
  deriving DecidableEq, Repr

/-- A live journal entry (Table 8.7). -/
structure JournalEntry where
  slot : Nat
  seq : Nat
  meas : Nat
  set : Nat
  stripe : Nat
  gen : Nat
  /-- 1 Open, 2 Closing, 3 Retired. -/
  state : Nat
  dmask : Nat
  rmask : Nat
  flags : Nat
  tstripes : List Nat
  tmasks : List Nat
  /-- The newest record is on every journal region in service (R225). -/
  persisted : Bool
  deriving DecidableEq, Repr

/-- What a member command was sent for. -/
inductive OpPurpose where
  /-- Posting a held copy. -/
  | copy (id : Nat)
  /-- Parity of a close. -/
  | parity
  /-- A read for a row job. -/
  | row (job : Nat)
  /-- The write of a row job's result. -/
  | jobWrite (job : Nat)
  /-- A block of a host read, by index. -/
  | host (key : CmdKey) (idx : Nat)
  /-- A tag block that host commands need (R59, R60): the namespace and the block's unit (R411). -/
  | tagBlock (nsid unit : Nat)
  /-- A journal block on a journal drive. -/
  | journal (bseq : Nat)
  /-- A lost-map block on a witness. -/
  | lostMap (mseq : Nat)
  /-- A write of a step on a locked stripe. -/
  | step
  /-- A write of a Promenade copy of an extent. -/
  | promenade (nsid ext : Nat)
  /-- A unit of a format or sanitize walk: the operation's slot. -/
  | walk (slot : Nat)
  /-- A progress record of a long operation on a witness. -/
  | progress (slot seq : Nat)
  /-- A token record of a group. -/
  | token (group : Nat)
  /-- A deallocation in the background, whose end nothing waits for. -/
  | background
  deriving DecidableEq, Repr

inductive OpKind where
  | read | write | dealloc | writeZeroes
  deriving DecidableEq, Repr

/-- A command outstanding at a member. -/
structure MemberOp where
  id : Nat
  slot : Nat
  kind : OpKind
  set : Nat
  stripe : Nat
  strip : Nat
  row : Nat
  member : Nat
  mba : Nat
  gen : Nat
  content : Bytes
  purpose : OpPurpose
  retries : Nat
  timeouts : Nat
  /-- When it was last sent, ns (R358). -/
  sentAt : Nat
  /-- R211: the guard sent with a block written, PRACT and PRCHK. The application tag is `gen`, the reference tag `mba`. -/
  guard : Nat
  pract : Bool
  prchk : Nat
  deriving DecidableEq, Repr

/-- Why a row is being read whole. -/
inductive RowPurpose where
  | degradedRead (key : CmdKey) (idx strip : Nat)
  /-- A tag block that host commands need, reconstructed. -/
  | degradedTags (nsid unit strip : Nat)
  | closeReconstruct
  | closeModify
  | rebuild
  | repair
  | scrub
  | copyBack
  | promenade (nsid ext : Nat)
  | recovery
  /-- The row's parity is rewritten with its lost blocks counted as zero (R243). -/
  | lostParity
  deriving DecidableEq, Repr

/-- One block row being read from the members of its stripe: what has come back, strip by strip; none for a strip that
is bad or absent. -/
structure RowJob where
  id : Nat
  set : Nat
  stripe : Nat
  row : Nat
  gen : Nat
  waiting : List Nat
  got : List (Nat × Bytes)
  bad : List Nat
  /-- Strips whose block is deallocated (R213); they count as zero. -/
  empty : List Nat
  purpose : RowPurpose
  deriving DecidableEq, Repr

/-- A lost-block map entry (Table 9.2). -/
structure LostEntry where
  set : Nat
  stripe : Nat
  strip : Nat
  lba : Nat
  nsid : Nat
  meas : Nat
  rmask : Nat
  cause : Nat
  /-- R245: on the vault and a majority of witness areas. -/
  durable : Bool
  /-- Made by this module rather than received from its peer. -/
  own : Bool
  deriving DecidableEq, Repr

/-- A row whose lost blocks wait for their entries to be durable (R243 steps 3 and 4): the strips to deallocate and the
parity to write; an empty parity is computed from the row first. -/
structure LostFix where
  set : Nat
  stripe : Nat
  gen : Nat
  row : Nat
  strips : List Nat
  parity : List Bytes
  deriving DecidableEq, Repr

/-- A lost-map block being written to the witness areas: the entries it carries (set, stripe, strip, RMASK), the witness
areas written and those still outstanding. -/
structure LostWrite where
  mseq : Nat
  entries : List (Nat × Nat × Nat × Nat)
  written : Nat
  outstanding : Nat
  deriving DecidableEq, Repr

/-- A rebuild, copy-back, repair or scrub step on a stripe (R236, R241). -/
structure StripeStep where
  set : Nat
  gen : Nat
  stripe : Nat
  why : RowPurpose
  /-- The stripe is locked and its reads have been sent. -/
  started : Bool
  rowsLeft : List Nat
  writes : Nat
  /-- A scrub found a fault in the stripe. -/
  found : Bool
  deriving DecidableEq, Repr

/-- A journal block written to the journal regions (R226): its records by slot and SEQ. -/
structure JournalBlock where
  set : Nat
  bseq : Nat
  records : List JournalEntry
  deriving DecidableEq, Repr

/-- States of one extent's move (Table 9.6). -/
inductive MoveState where
  | waiting | copying | catchUp | armed | switched | freed
  deriving DecidableEq, Repr

/-- One extent's move (R259–R262). -/
structure ExtentMove where
  set : Nat
  nsid : Nat
  ext : Nat
  source : Nat
  dest : Nat
  state : MoveState
  /-- Destination stripes of the extent still to copy in this pass, and dirty source stripes. -/
  toCopy : List Nat
  dirty : List Nat
  target : Nat
  /-- The destination stripe being copied, its source blocks so far (none for deallocated ones), and the row jobs and
  member writes outstanding. -/
  copying : Option Nat
  blocks : List (Nat × Option Bytes)
  jobs : Nat
  writes : Nat
  deriving DecidableEq, Repr

/-- A layout epoch armed for a measure (R264, R268): 0 create, 1 delete, 2 final Promenade epoch. -/
structure LayoutEpoch where
  set : Nat
  kind : Nat
  target : Nat
  deriving DecidableEq, Repr

/-- An extent of a deleted namespace that waits for deallocation (R207, R222); `next` in the layout being built. -/
structure DeletedExtent where
  set : Nat
  ext : Nat
  group : Nat
  next : Bool
  deriving DecidableEq, Repr

/-- A tag block of a namespace as it stands now, plain (R60): kept while commands of the namespace are in progress. -/
structure TagBlock where
  nsid : Nat
  unit : Nat
  content : Bytes
  deriving DecidableEq, Repr

/-- Layout tables, stripes, journal, rebuild, Promenade. -/
structure Store where
  copies : List HeldCopy
  nextCopy : Nat
  mirrors : List MirrorCopy
  openStripes : List OpenStripe
  nextOpen : Nat
  journal : List JournalEntry
  /-- Live entries of the peer's journal, from the state copies committed here (Table 11.5 type 1). -/
  peerJournal : List JournalEntry
  /-- R228: the journal is at hand: the vault or the peer has given it since the module started. -/
  journalHeld : Bool
  /-- Next SEQ per set, and next BSEQ per set (R223, R226). -/
  jseq : List (Nat × Nat)
  bseq : List (Nat × Nat)
  /-- Records made in the current measure, and stripe retirements (R224, Table 11.5 types 1 and 2). -/
  records : List JournalEntry
  retired : List (Nat × Nat)
  ops : List MemberOp
  nextOp : Nat
  jobs : List RowJob
  nextJob : Nat
  /-- Stripes locked under R236: set and stripe. -/
  locked : List (Nat × Nat)
  /-- Stripe map (R216): the set stripes whose bit is set, and the second map of a Promenade (R262). -/
  stripeMap : List (Nat × Nat)
  stripeMapNext : List (Nat × Nat)
  /-- R216: the sets whose map was lost: every bit of such a set counts as set, but for the stripes cleared since, which
  `stripeMap` then holds. -/
  mapAllSet : List Nat
  fig : List FigRow
  figNext : List FigRow
  /-- Member capacity in blocks per set (R199). -/
  memberBlocks : List (Nat × Nat)
  /-- Assembled sets (R228). -/
  assembled : List Nat
  failedSets : List Nat
  /-- Rebuild bitmap (R234): set, spare column, stripe of each set bit. Here and in `promoted`, `counted` and `badFound` the next
  layout's stripes count on from the active layout's while a Promenade runs (log 169). -/
  rebuilt : List (Nat × Nat × Nat)
  /-- Promotion list, class B (R237): set and stripe. -/
  promoted : List (Nat × Nat)
  lost : List LostEntry
  /-- MSEQ of the last lost-map block written, once this module writes the region. -/
  mseq : Nat
  /-- R245: this module has started writing the lost-map region. -/
  lostWriter : Bool
  lostFixes : List LostFix
  lostWrites : List LostWrite
  steps : List StripeStep
  jblocks : List JournalBlock
  /-- Records not yet written to the journal regions, oldest first. -/
  unwritten : List JournalEntry
  /-- Blocks of the drive in each slot, as its check found (R199): slot and blocks. -/
  slotBlocks : List (Nat × Nat)
  /-- Stripes counted in TOTAL since the set last had no substitution rebuilding, by set (R240). -/
  counted : List (Nat × Nat)
  /-- Replacements whose copy back runs: set and member. -/
  copyBack : List (Nat × Nat)
  moves : List ExtentMove
  epochs : List LayoutEpoch
  /-- R207: deleted namespaces' extents that wait for deallocation. -/
  deletedExtents : List DeletedExtent
  /-- Journal drives being re-homed (R247): set, which of 0–2, new member. -/
  rehome : List (Nat × Nat × Nat)
  /-- Bad blocks that degraded reads found and that wait for repair (R251): set, stripe, strip, row. -/
  badFound : List (Nat × Nat × Nat × Nat)
  /-- Stripes that the scrub found open or with a live journal entry, and visits again in the same pass (R252): set and stripe. -/
  revisit : List (Nat × Nat)
  /-- Tag blocks at hand. -/
  tagBlocks : List TagBlock
  deriving DecidableEq, Repr

def Store.atReset : Store where
  copies := []
  nextCopy := 0
  mirrors := []
  openStripes := []
  nextOpen := 0
  journal := []
  peerJournal := []
  journalHeld := false
  jseq := []
  bseq := []
  records := []
  retired := []
  ops := []
  nextOp := 0
  jobs := []
  nextJob := 0
  locked := []
  stripeMap := []
  stripeMapNext := []
  mapAllSet := []
  fig := []
  figNext := []
  memberBlocks := []
  assembled := []
  failedSets := []
  rebuilt := []
  promoted := []
  lost := []
  mseq := 0
  lostWriter := false
  lostFixes := []
  lostWrites := []
  steps := []
  jblocks := []
  unwritten := []
  slotBlocks := []
  counted := []
  copyBack := []
  moves := []
  epochs := []
  deletedExtents := []
  rehome := []
  badFound := []
  revisit := []
  tagBlocks := []

end Sys2Proof.Machine
end

