-- ==== Sys2Proof/Machine/State/Energy.lean ====
section
/-! DEFINITION. The energy store, the vault and the power-fail decision beside NRG_ and VLT_ (chapter Write-Back Cache,
Energy Store and Vault). -/

set_option Elab.async false

namespace Sys2Proof.Machine

/-- One section of an image (Table 10.8). -/
structure ImageSection where
  kind : Nat
  group : Nat
  complete : Bool
  firstMeasure : Nat
  lastCommitted : Nat
  deriving DecidableEq, Repr

/-- Metadata as the vault holds it: the journal, the maps, the lost-block map, Promenade state and rebuild bitmaps, with
the namespaces' extent maps and reservations (R287). -/
structure VaultMeta where
  journal : List JournalEntry
  peerJournal : List JournalEntry
  mapAllSet : List Nat
  stripeMap : List (Nat × Nat)
  stripeMapNext : List (Nat × Nat)
  rebuilt : List (Nat × Nat × Nat)
  lost : List LostEntry
  moves : List ExtentMove
  namespaces : List Namespace
  /-- Scrub positions, by set. -/
  scrubAt : List Nat
  deriving DecidableEq, Repr

/-- A sealed image: its header (Table 10.8) and the content of its sections. -/
structure VaultImage where
  iseq : Nat
  meas : Nat
  time : Nat
  eStart : Nat
  eSeal : Nat
  complete : Bool
  retired : Bool
  inputBack : Bool
  area : Nat
  sections : List ImageSection
  metadata : Option VaultMeta
  copies : List HeldCopy
  mirrors : List MirrorCopy
  deriving DecidableEq, Repr

/-- Which module's sections supply a group (R290). -/
inductive SectionChoice where
  | discard | own | peer
  deriving DecidableEq, Repr

/-- The decision for one group, and whether the winning section is whole. -/
structure RestoreChoice where
  group : Nat
  choice : SectionChoice
  whole : Bool
  deriving DecidableEq, Repr

structure Energy where
  /-- R278: consecutive computations with D_energy at least 1 GB, saturating at 100. -/
  coverRun : Nat
  /-- Charge level: E before its temperature and overdue factors, mJ (R279). -/
  level : Nat
  /-- R281: a capacity test has been asked for. -/
  testDue : Bool
  /-- R493: a power-fail decision exists. -/
  decided : Bool
  /-- R286: the quiesce has ended. -/
  quiesced : Bool
  /-- R593: the decision writes an image. -/
  writesImage : Bool
  /-- E_usable at the decision (mJ), its time and its measure, for the header. -/
  eStart : Nat
  decidedAt : Nat
  decidedMeasure : Nat
  /-- The vault's sealed images, by area (R283). -/
  images : List VaultImage
  /-- The image being restored, by area, and its groups' choices (R290). -/
  restoring : Option Nat
  choices : List RestoreChoice
  /-- Groups whose copies have been installed. -/
  installed : List Nat
  /-- Restored copies still held (R292): held-copy identities. -/
  restored : List Nat
  /-- The map mirror's content, and the metadata pages changed since: map kind, set, page (R284). -/
  mapMirror : Option VaultMeta
  dirtyPages : List (Nat × Nat × Nat)
  /-- Pages that were not yet copied when the metadata was lost (R591). -/
  stalePages : List (Nat × Nat × Nat)
  /-- R284: the copy rate is raised; operations that change maps wait. -/
  mirrorFast : Bool
  mapWait : Bool
  deriving DecidableEq, Repr

def Energy.atReset : Energy where
  coverRun := 0
  level := 0
  testDue := false
  decided := false
  quiesced := false
  writesImage := false
  eStart := 0
  decidedAt := 0
  decidedMeasure := 0
  images := []
  restoring := none
  choices := []
  installed := []
  restored := []
  mapMirror := none
  dirtyPages := []
  stalePages := []
  mirrorFast := false
  mapWait := false

end Sys2Proof.Machine
end

