-- ==== Sys2Proof/Machine/State/Flt.lean ====
section
/-! DEFINITION. Fault records and the recovery ladder, beside the FLT_ registers. -/

set_option Elab.async false

namespace Sys2Proof.Machine

/-- The fault-record ring (R559), the newest record (R558) and the store of records made in Dormant (R560). -/
structure Faults where
  /-- The ring, newest first, at most 4,096. -/
  ring : List FaultRecord
  /-- A record was lost since the last one entered the ring. -/
  gap : Bool
  /-- Records made in Dormant, newest first, at most 64. -/
  dormant : List FaultRecord
  /-- The latch record of FLT_LATCH in plain form. -/
  latched : Option FaultRecord
  /-- When Ronhenko last restarted the watchdog (R564), ns; the start of the grid counts as one. -/
  watchdogAt : Nat
  /-- A step 3 waits for the hand-overs it began (R562). -/
  afterHandOver : Bool
  deriving DecidableEq, Repr

def Faults.atReset : Faults where
  ring := []
  gap := false
  dormant := []
  latched := none
  watchdogAt := 0
  afterHandOver := false

end Sys2Proof.Machine
end

