-- ==== Sys2Proof/Machine/State/Integrity.lean ====
section
/-! DEFINITION. Memory integrity (chapter Integrity, Faults and the Recovery Ladder) and the performance counters beside
their registers. -/

set_option Elab.async false

namespace Sys2Proof.Machine

/-- A source from which a bad line can be restored (Tables 23.1 and 23.3), with its code in Table 23.7. -/
inductive RecoverySource where
  | refetch | peer | member | accumulator | hostBuffer
  /-- The last resort of Table 23.3. -/
  | rebuilt
  deriving DecidableEq, Repr

/-- A recovery that runs (R543): its source is the first of those left; the readers that wait for it. -/
structure Recovery where
  id : Nat
  item : BadItem
  addr : Nat
  test : Bool
  sources : List RecoverySource
  readers : List BadReader
  /-- When the peer was asked (R545), ns. -/
  askedAt : Nat
  deriving DecidableEq, Repr

structure Integrity where
  recoveries : List Recovery
  nextRecovery : Nat
  /-- DRAM lines with bad parity that stay bad until wholly written: line number, and whether a test made it (R555). -/
  bad : List (Nat × Bool)
  /-- Next line of the DRAM sweep, and next cell of the buffer sweep (R552). -/
  sweepLine : Nat
  sweepCell : Nat
  /-- When MIN_TEST was armed (R555), ns. -/
  armedAt : Nat
  /-- When the buckets last leaked, or MIN_LEAK was last written (R553), ns. -/
  leakAt : Nat
  deriving DecidableEq, Repr

def Integrity.atReset : Integrity where
  recoveries := []
  nextRecovery := 0
  bad := []
  sweepLine := 0
  sweepCell := 0
  armedAt := 0
  leakAt := 0

/-- A window monitor whose window is under way (R572–R574). -/
structure Monitor where
  num : Nat
  bytes : Nat
  /-- The window will be discarded. -/
  dirty : Bool
  /-- WIN as read when EN became 1; 0 while no window is under way. -/
  win : Nat
  /-- Windows that have ended and are not yet in the registers, oldest first: bytes, and whether discarded. -/
  ended : List (Nat × Bool)
  /-- EN and RUN were 1 at the last boundary. -/
  on : Bool
  deriving DecidableEq, Repr

/-- A core's hpmcounter (R575): core, k of 3–10, value. -/
structure HpmCount where
  core : Nat
  k : Nat
  num : DWord
  deriving DecidableEq, Repr

structure Pmc where
  monitors : List Monitor
  /-- Monitors whose CLR waits for the start of the next window. -/
  clears : List Nat
  hpm : List HpmCount
  deriving DecidableEq, Repr

def Pmc.atReset : Pmc where
  monitors := []
  clears := []
  hpm := []

end Sys2Proof.Machine
end

