-- ==== Sys2Proof/Machine/State/Keys.lean ====
section
/-! DEFINITION. The key store and the engine work queues beside the CIP_ and EWQ_ registers (chapters Cipher Engine and
Engine Work Queues). -/

set_option Elab.async false

namespace Sys2Proof.Machine

/-- A loaded key slot (R407). -/
structure KeySlot where
  slot : Nat
  /-- KIND of Table 16.2; 0 for the pair and session keys. -/
  kind : Nat
  key : Bytes
  kekgen : Nat
  deriving DecidableEq, Repr

/-- A KEK generation held in key store flash. -/
structure KekGen where
  gen : Nat
  key : Bytes
  deriving DecidableEq, Repr

/-- High-water of one context (IV bytes 0–3) of one encrypting slot (R413). -/
structure HighWater where
  slot : Nat
  context : Nat
  value : Nat
  deriving DecidableEq, Repr

/-- A key command: CIP_KCMD operation with its slot, address and argument, and who runs it. -/
structure KeyCommand where
  op : Nat
  slot : Nat
  addr : Nat
  arg : Nat
  who : Requester
  deriving DecidableEq, Repr

structure Keys where
  slots : List KeySlot
  /-- Slots zeroised since the last cold or module reset (R408). -/
  zeroised : List Nat
  highWaters : List HighWater
  /-- KEKs in key store flash, newest first. -/
  keks : List KekGen
  /-- The installed pair root key, in key store flash. -/
  prk : Option Bytes
  /-- Slots loaded by operations under way, one entry per operation (R409). -/
  inUse : List Nat
  /-- A CIP_KCMD command that waits for them. -/
  waiting : Option KeyCommand
  /-- R406 step 5: the measure whose commit lets the old KEKs be destroyed. -/
  ratchetMeasure : Option Nat
  deriving DecidableEq, Repr

def Keys.atReset : Keys where
  slots := []
  zeroised := []
  highWaters := []
  keks := []
  prk := none
  inUse := []
  waiting := none
  ratchetMeasure := none

/-- A descriptor taken from DRAM into the prefetch cache (R526). -/
structure Prefetched where
  count : Nat
  bytes : Bytes
  deriving DecidableEq, Repr

/-- A descriptor in flight, with its result once it has finished (R524, R531). -/
structure EwqRun where
  count : Nat
  bytes : Bytes
  /-- Status, result and the error's address it will report. -/
  status : Nat
  result : Nat
  errAddr : Nat
  /-- It has finished, and its record waits for its turn. -/
  finished : Bool
  deriving DecidableEq, Repr

/-- One engine queue (R519–R535). -/
structure EngineQueue where
  queue : Nat
  /-- Count of the next descriptor to start. -/
  next : Nat
  prefetched : List Prefetched
  running : List EwqRun
  deriving DecidableEq, Repr

/-- The engine queues, and the set each pool (0 parity, 1 cipher, 2 key store) served last (R523). -/
structure Ewq where
  queues : List EngineQueue
  lastSet : List (Nat × Nat)
  deriving DecidableEq, Repr

def Ewq.atReset : Ewq where
  queues := []
  lastSet := []

end Sys2Proof.Machine
end

