-- ==== Sys2Proof/Machine/State/Link.lean ====
section
/-! DEFINITION. The Emzifen link beside EZL_ (chapter The Emzifen Link). -/

set_option Elab.async false

namespace Sys2Proof.Machine

/-- Frame types of Table 11.1. -/
inductive FrameType where
  | mirror | window | message | stateCopy | marker | commit | ack | resend | resume
  deriving DecidableEq, Repr

/-- What a frame carries. -/
inductive LinkPayload where
  | empty
  | mirror (b : MirrorBlock)
  | bytes (bs : Bytes)
  | state (c : StateCopy)
  /-- R311: frames and bytes per group. -/
  | marker (counts : List (Nat × Nat))
  | resume (v : PairValues)
  deriving DecidableEq, Repr

/-- A link frame (Table 11.1). `last` is FLAGS bit 0: the last frame of a state copy or message, or a gap in an
acknowledgement (R298). -/
structure LinkFrame where
  type : FrameType
  last : Bool
  poison : Bool
  win : Nat
  group : Nat
  key : Nat
  meas : Nat
  offset : Nat
  length : Nat
  lseq : Nat
  payload : LinkPayload
  deriving DecidableEq, Repr

/-- A window as the receiver holds it in one measure's set (R304). -/
structure Window where
  win : Nat
  base : Nat
  len : Nat
  valid : Bool
  wr : Bool
  key : Nat
  deriving DecidableEq, Repr

/-- A window set kept for one measure. -/
structure WindowSet where
  meas : Nat
  windows : List Window
  deriving DecidableEq, Repr

/-- A measure being received from the lead (R313): mirror frames and bytes placed, per group, and its state copy. -/
structure RxMeasure where
  meas : Nat
  frames : List (Nat × Nat × Nat)
  copy : Option StateCopy
  /-- The state copy is whole. -/
  whole : Bool
  deriving DecidableEq, Repr

/-- A measure whose commit has not come (R299, R311): the mirror copies sent, per group: frames and bytes. -/
structure TxMeasure where
  meas : Nat
  frames : List (Nat × Nat × Nat)
  deriving DecidableEq, Repr

/-- A channel's send side (R307, R308). -/
structure Channel where
  chan : Nat
  /-- Send slots queued and not yet answered, oldest first: slot and message. -/
  sending : List (Nat × Bytes)
  /-- LSEQ of the head message once it has been sent. -/
  sentAs : Option Nat
  /-- When that message reached the head, ns (R308). -/
  headSince : Nat
  nextSend : Nat
  nextRecv : Nat
  deriving DecidableEq, Repr

/-- What this module has told its peer in its state copies, to find what has changed since. -/
structure SentView where
  map : List (Nat × Nat)
  mapAllSet : List Nat
  mapNext : List (Nat × Nat)
  rebuilt : List (Nat × Nat × Nat)
  lost : List LostEntry
  moves : List ExtentMove
  namespaces : List Namespace
  policies : List GroupPolicy
  /-- Scrub positions of the sets in which it leads a group: set and stripe. -/
  scrubAt : List (Nat × Nat)
  /-- Copy-back positions: set, member, stripe. -/
  copyAt : List (Nat × Nat × Nat)
  ops : List (Nat × Nat × ProgressRecord)
  /-- Controllers, and whether it is activating; none while nothing has been told. -/
  controllers : Option (List (Nat × Bytes × Nat))
  activating : Option Bool
  deriving DecidableEq, Repr

def SentView.empty : SentView where
  map := []
  mapAllSet := []
  mapNext := []
  rebuilt := []
  lost := []
  moves := []
  namespaces := []
  policies := []
  scrubAt := []
  copyAt := []
  ops := []
  controllers := none
  activating := none

/-- A mirror slot in group `group`'s window of the follow (R306, R310): the held copy that it mirrors, the measure in which the
commit of its content arrived, and the measure whose state copy retires it. -/
structure MirrorSlot where
  group : Nat
  slot : Nat
  copy : Nat
  ackedIn : Option Nat
  retiredIn : Option Nat
  deriving DecidableEq, Repr

structure Link where
  /-- When the link entered its state, ns (R296, R300). -/
  since : Nat
  txSeq : Nat
  rxSeq : Nat
  /-- Frames received since the last acknowledgement sent. -/
  sinceAck : Nat
  /-- Frames sent and not yet released, oldest first (R299). -/
  retained : List LinkFrame
  /-- Mirror copies that wait for the link's acceptance, by held copy, oldest first (R22). -/
  waiting : List Nat
  mirrorSlots : List MirrorSlot
  txMeasures : List TxMeasure
  rxMeasures : List RxMeasure
  /-- One past the highest measure committed here as follow (C of R305), and one past the highest whose commit from the
  follow has arrived here as lead; 0 for none. -/
  committed : Nat
  acked : Nat
  /-- No marker has come since the entry to Paired, and one past the highest measure whose marker has (R316). -/
  firstMarker : Bool
  markerSeen : Nat
  /-- Stripes of mirror copies received and not committed, discarded ones too (R335): measure, set, generation, stripe. -/
  heard : List (Nat × Nat × Nat × Nat)
  /-- The peer's values as last seen, and its leads. -/
  peer : Option PairValues
  peerLeads : Nat
  /-- RWM values in effect on the peer (Table 11.5 type 9): address, bits, value. -/
  peerConfig : List RwmWrite
  /-- The link was Paired when it entered Training (R300). -/
  fromPaired : Bool
  peerSeated : Bool
  /-- R313: after a return to Paired, acceptance waits for the commit of the oldest retained measure. -/
  holdAccept : Option Nat
  /-- The window sets of the two measures before the current one. -/
  windowSets : List WindowSet
  channels : List Channel
  /-- Receive slots that the peer has posted and this module has not yet filled, by channel (R308). -/
  peerRoom : List (Nat × Nat)
  /-- Groups whose baseline is still to begin, those whose baseline is under way and the records still to send (R314), those whose
  last baseline copy has gone (group and measure), and those that join at the next boundary. -/
  baseline : List Nat
  baselineGroups : List Nat
  baselineLeft : List (Nat × StateRecord)
  baselineSent : List (Nat × Nat)
  joining : List Nat
  /-- Groups this module follows, and those it follows from the next boundary. -/
  following : List Nat
  followNext : List Nat
  /-- The namespaces that the baseline under way from the peer has named; none while there is none. -/
  baselineNamed : Option (List Nat)
  sent : SentView
  /-- RWM values applied at the last boundary, for the next state copy. -/
  applied : List RwmWrite
  /-- EPOCH sent and last accepted (R414). -/
  epochTx : Nat
  epochRx : Nat
  /-- Own formats and serial number (Table 4.8, R301). -/
  scfOwn : Nat
  scfMin : Nat
  scfMax : Nat
  serial : Nat
  deriving DecidableEq, Repr

def Link.atReset : Link where
  since := 0
  txSeq := 0
  rxSeq := 0
  sinceAck := 0
  retained := []
  waiting := []
  mirrorSlots := []
  txMeasures := []
  rxMeasures := []
  committed := 0
  acked := 0
  firstMarker := false
  markerSeen := 0
  heard := []
  peer := none
  peerLeads := 0
  peerConfig := []
  fromPaired := false
  peerSeated := false
  holdAccept := none
  windowSets := []
  channels := []
  peerRoom := []
  baseline := []
  baselineGroups := []
  baselineLeft := []
  baselineSent := []
  joining := []
  following := []
  followNext := []
  baselineNamed := none
  sent := SentView.empty
  applied := []
  epochTx := 0
  epochRx := 0
  scfOwn := 1
  scfMin := 1
  scfMax := 1
  serial := 0

end Sys2Proof.Machine
end

