-- ==== Sys2Proof/Machine/State/Mcp.lean ====
section
/-! DEFINITION. Management packets: sessions, requests in progress, challenges and kept notices (chapter Management
Command Packets), beside the MCP_ registers. -/

set_option Elab.async false

namespace Sys2Proof.Machine

/-- A request accepted in a session and not yet replied to (R433, R434). -/
structure McpRequest where
  seq : Nat
  tag : Nat
  opcode : Nat
  bytes : Bytes
  /-- The mailbox slot it came through (R425). -/
  via : Nat
  /-- When the request started, ns, if it has (R444). -/
  startedAt : Option Nat
  /-- R444: the reply 0x0602 has gone; the request runs on. -/
  timedOut : Bool
  deriving DecidableEq, Repr

/-- One of the last 32 accepted requests, with its reply once sent (R433). -/
structure McpAnswered where
  seq : Nat
  bytes : Bytes
  reply : Option Bytes
  deriving DecidableEq, Repr

/-- An open session (R429–R435). -/
structure McpSession where
  slot : Nat
  generation : Nat
  principal : Nat
  bound : McpAddress
  key : Bytes
  /-- Highest SEQ accepted (R433). -/
  mark : Nat
  /-- SEQ of the last sealed packet sent. -/
  sent : Nat
  requests : List McpRequest
  recent : List McpAnswered
  /-- Notice types subscribed: bit t for type t. -/
  mask : Nat
  /-- When a request was last accepted, ns (R432). -/
  lastUsed : Nat
  deriving DecidableEq, Repr

/-- A held challenge (R429). -/
structure McpChallenge where
  value : Bytes
  issued : Nat
  deriving DecidableEq, Repr

/-- MAC failures of a principal within the last 60 s (times), and the end of its lock-out (R431). -/
structure McpLockout where
  principal : Nat
  failures : List Nat
  until_ : Nat
  deriving DecidableEq, Repr

/-- A datagram being reassembled (R424). -/
structure McpDatagram where
  id : Nat
  source : McpAddress
  /-- When its first fragment came, ns. -/
  since : Nat
  deriving DecidableEq, Repr

/-- A reply that waits for its mailbox reply slot (R425). -/
structure McpWaitingReply where
  slot : Nat
  bytes : Bytes
  deriving DecidableEq, Repr

/-- A request accepted outside a session (R421), from its sender. -/
structure McpPlain where
  from_ : McpAddress
  tag : Nat
  opcode : Nat
  bytes : Bytes
  via : Nat
  deriving DecidableEq, Repr

/-- An action that follows its reply by 10 ms (R439): a module reset, or a power cycle; and when it is due, ns. -/
structure McpAction where
  cycle : Bool
  due : Nat
  deriving DecidableEq, Repr

structure Mcp where
  sessions : List McpSession
  /-- Last generation used by each key slot, by slot. -/
  generations : List (Nat × Nat)
  challenges : List McpChallenge
  lockouts : List McpLockout
  /-- The last 64 notices, newest first. -/
  notices : List Notice
  nextNotice : Nat
  /-- R427: a notice was not delivered; the next one written carries LOST. -/
  lost : Bool
  datagrams : List McpDatagram
  waiting : List McpWaitingReply
  plain : List McpPlain
  action : Option McpAction
  /-- R439: a Module Reset that waits for its hand-overs: session slot, TAG, and the groups led before. -/
  resetAfter : Option (Nat × Nat × Nat)
  deriving DecidableEq, Repr

def Mcp.atReset : Mcp where
  sessions := []
  generations := []
  challenges := []
  lockouts := []
  notices := []
  nextNotice := 1
  lost := false
  datagrams := []
  waiting := []
  plain := []
  action := none
  resetAfter := none

end Sys2Proof.Machine
end

