-- ==== Sys2Proof/Machine/State/Token.lean ====
section
/-! DEFINITION. Lead tokens, the cut-in and hand-overs beside LTK_ (chapter Lead Token and Cut-In). -/

set_option Elab.async false

namespace Sys2Proof.Machine

/-- Lead-side states of one group (Table 12.3). `trying` writes a record that no valid lease protects (R338); `claimed` is a
group whose record a cut-in has gained and which it does not lead yet. -/
inductive LeadRole where
  | none | leading | handing | lapsed | lost | trying | claimed
  deriving DecidableEq, Repr

/-- Where a hand-over or release stands (R339): stripes closing and completions going; the state copy of a measure
awaiting its commit; the record being written. -/
inductive HandPhase where
  | idle | closing | committing (meas : Nat) | writing
  deriving DecidableEq, Repr

/-- One group's token on this module. -/
structure GroupToken where
  group : Nat
  role : LeadRole
  /-- Own record as last granted. -/
  record : TokenRecord
  /-- The record of the pass under way. -/
  writing : Option TokenRecord
  phase : HandPhase
  /-- The hand-over leaves the group with no holder (LTK_CMD operation 3). -/
  release : Bool
  /-- The last standby self-test passed (READY); when the last one started, s; and whether one was asked for. -/
  ready : Bool
  lastTest : Nat
  testAsked : Bool
  /-- What each witness holds as far as this module knows: the block last read from it or written there, which a write compares
  against (R321); and since when every read has returned the same, ns (R334). -/
  read : List TokenRead
  readAt : Nat
  /-- The blocks of the pass under way, and those of a hand-over that a witness may hold although it failed (R339). -/
  sent : List TokenRead
  offered : List TokenRead
  /-- The highest SEQ read or written (Table 12.2). -/
  lastSeq : Nat
  /-- When this module last tried for the group, ns (R338). -/
  triedAt : Option Nat
  /-- Since when the peer has followed with READY (R340), ns. -/
  readySince : Option Nat
  deriving DecidableEq, Repr

/-- A witness that is being replaced (R341): its index, the new slot, and the groups whose records are written there. -/
structure Seeding where
  witness : Nat
  slot : Nat
  written : List Nat
  deriving DecidableEq, Repr

structure Token where
  groups : List GroupToken
  /-- When the last renewal pass, and the last reads or writes of a cut-in, were issued, ns (R322, Table 12.5). -/
  passAt : Option Nat
  rereadAt : Nat
  /-- Slots on whose members this module has registered its key (R328). -/
  registered : List Nat
  seeding : Option Seeding
  /-- The keys of the records that a cut-in takes (R328). -/
  oldKeys : List Nat
  /-- Slots whose answer the fence waits for. -/
  fenceLeft : List Nat
  /-- Suspect stripes of the take: set, generation, stripe. -/
  suspects : List (Nat × Nat × Nat)
  /-- Groups led from the next boundary. -/
  leadNext : List Nat
  /-- When Taking ended for the last cut-in, and whether a health word has come since that cut-in began (R337). -/
  takenAt : Option Nat
  healthSeen : Bool
  /-- Witnesses reached in the last pass. -/
  witOk : Nat
  surrender : Bool
  /-- Measure in which the last health word from the peer arrived. -/
  lastHealth : Nat
  peerKey : Nat
  /-- LTK_CMD operation 1, 2, 3 or 4 under way: the operation, and the groups left. -/
  command : Option (Nat × List Nat)
  deriving DecidableEq, Repr

/-- R321: a record at commissioning. -/
def TokenRecord.blank : TokenRecord := ⟨255, false, false, 0, 0, 0, 0, 0, 0⟩

def GroupToken.atReset (g : Nat) : GroupToken where
  group := g
  role := .none
  record := TokenRecord.blank
  writing := none
  phase := .idle
  release := false
  ready := false
  lastTest := 0
  testAsked := false
  read := []
  readAt := 0
  sent := []
  offered := []
  lastSeq := 0
  triedAt := none
  readySince := none

def Token.atReset : Token where
  groups := (List.range 8).map GroupToken.atReset
  passAt := none
  rereadAt := 0
  registered := []
  seeding := none
  oldKeys := []
  fenceLeft := []
  suspects := []
  leadNext := []
  takenAt := none
  healthSeen := false
  witOk := 0
  surrender := false
  lastHealth := 0
  peerKey := 0
  command := none

end Sys2Proof.Machine
end

