-- ==== Sys2Proof/Machine/State/Output.lean ====
section
/-! DEFINITION. What the module sends out of itself, as plain data: the model's only view of the world it acts on. -/

set_option Elab.async false

namespace Sys2Proof.Machine

/-- Interrupts, to Ronhenko unless said otherwise, by what raises them. -/
inductive Irq where
  | fault
  | bucket (region : Nat)
  /-- A Wallflower rule with IRQ set (R489). -/
  | rule (r : Nat)
  /-- To the owner of an engine queue (R531). -/
  | engineQueue (queue : Nat)
  deriving DecidableEq, Repr

/-- A packet a queue pair sends (Table 5.1). -/
inductive RdmaOut where
  /-- A response capsule or a service SEND: first PSN, payload. -/
  | send (psn : Nat) (payload : Bytes)
  /-- A SEND with Invalidate of a key. -/
  | sendInvalidate (psn : Nat) (payload : Bytes) (key : Nat)
  | write (psn raddr rkey : Nat) (payload : Bytes)
  /-- The data of a WRITE packet is fetched again, from its member or by rebuild, before it is sent again (R178). -/
  | refetch (psn : Nat)
  /-- Packets sent again, from a PSN (R141). -/
  | resend (psn packets : Nat)
  /-- READ request: first PSN, packets asked for, remote address and key, bytes. -/
  | readRequest (psn packets raddr rkey len : Nat)
  | ack (psn msn : Nat)
  | nak (kind : NakKind) (psn : Nat)
  /-- NAK RNR with the timer value of RNR_TMR (R133). -/
  | rnrNak (psn timer : Nat)
  /-- A CNP with its DSCP and PFC class (R147). -/
  | cnp (dscp cls : Nat)
  | disconnect
  deriving DecidableEq, Repr

/-- A reservation command to a member (R326, R328). -/
inductive MemberResv where
  /-- Register with Ignore Existing Key, with or without Persist Through Power Loss. -/
  | register (key : Nat) (persist : Bool)
  /-- Acquire, Write Exclusive – All Registrants, where the member holds no reservation. -/
  | acquire (key : Nat)
  /-- Preempt and Abort: the key preempted. -/
  | preempt (key prkey : Nat)
  /-- Reservation Report. -/
  | report
  deriving DecidableEq, Repr

/-- What a module asks of the drive in a slot beside I/O: CC.EN (Table 13.2), the format of a prepare (R350), an NVMe Abort
of an outstanding command (R358). -/
inductive DriveAdmin where
  | enable
  | format
  | abort (op : Nat)
  deriving DecidableEq, Repr

/-- What a service core sees (R505, R507, R517). -/
inductive CoreEvent where
  | data (bytes : Bytes)
  | done
  | accessFault
  /-- An illegal-instruction exception, which the monitor delivers to HS-mode (R578). -/
  | illegalInstruction
  /-- It starts at an address in HS-mode, with a0 its number and a1 the partition. -/
  | start (entry partition : Nat)
  | stop
  deriving DecidableEq, Repr

/-- What the direct port sends (R363–R382): completions of the host's requests, and requests of its own. -/
inductive DirectOut where
  /-- A configuration or memory read completes with data (width in bytes, value). -/
  | data (width : Nat) (value : DWord)
  /-- A write completes, or is posted. -/
  | done
  /-- Request Retry Status, Unsupported Request. -/
  | retry
  | unsupported
  /-- A read request: tag and length. -/
  | read (tag len : Nat)
  /-- Data writes of a command: bytes, and Relaxed Ordering set on them (R374). -/
  | dataWrite (len : Nat) (relaxed : Bool)
  /-- A submission queue entry handed to the controller: queue, slot, bytes. -/
  | entry (queue slot : Nat) (bytes : Bytes)
  /-- A completion queue entry is written: queue and slot. -/
  | completion (queue slot : Nat)
  /-- Function 1's PME message. -/
  | pme
  /-- The link trains; it is brought down. -/
  | train
  | linkDown
  deriving DecidableEq, Repr

/-- What leaves the switch core (R159, R175–R177). -/
inductive FrameOut where
  /-- A frame is read whole by its destination: its bytes, and ECN marked. -/
  | delivered (frame dest queue : Nat) (content : Bytes) (ecn : Bool)
  /-- A frame starts on a NET lane. -/
  | start (frame port lane cls : Nat)
  /-- It ends with a stomped FCS (R176): the bytes sent and the FCS after them; is marked poisoned toward the peer; or is discarded
  by its destination. -/
  | stomped (frame : Nat) (sent : Bytes) (fcs : Word)
  | poisoned (frame dest : Nat)
  | discarded (frame : Nat)
  /-- It is not sent; its writer makes the copy again. -/
  | again (frame src : Nat)
  /-- PFC for a class on a lane: XOFF or XON. -/
  | pfc (port lane cls : Nat) (off : Bool)
  deriving DecidableEq, Repr

/-- Pins the module drives. -/
inductive Pin where
  | pgOut
  | peerCycle
  | dirWake
  | slotPower (slot : Nat)
  | slotReset (slot : Nat)
  | slotRefclk (slot : Nat)
  deriving DecidableEq, Repr

/-- What a walk does to the blocks of a unit (R103, R104). -/
inductive WalkWork where
  /-- A format's deallocation. -/
  | deallocate
  /-- Write Zeroes and Deallocate. -/
  | zeroes
  /-- Each pattern in turn, then a deallocation. -/
  | overwrite (patterns : List Nat)
  /-- Crypto Erase's first unit: the destage area and the tag maps. -/
  | resetTags
  /-- A deallocation, but Write Zeroes and Deallocate of the stripes named: set, generation and stripe. -/
  | crypto (plain : List (Nat × Nat × Nat))
  deriving DecidableEq, Repr

/-- One thing the module sends or drives. -/
inductive Output where
  /-- A register read answered (R7). -/
  | regValue (who : Requester) (addr : Nat) (val : Word)
  /-- A register write answered without error. -/
  | regDone (who : Requester) (addr : Nat)
  /-- A register access answered with an error response (R5, R15, R471), and the word that a read carries with it, where the
  rule of the error names one. -/
  | regError (who : Requester) (addr : Nat) (data : Option Word)
  /-- An interrupt to Ronhenko. -/
  | interrupt (line : Irq)
  /-- A management packet sent on a transport to an address (R419). -/
  | packet (transport address : Nat) (bytes : Bytes)
  /-- A packet sent in a UDP datagram that the module fragments (R424). -/
  | fragments (transport address : Nat) (bytes : Bytes)
  /-- The response to an MCTP control message, from its type byte on (R422). -/
  | mctpControl (binding address : Nat) (bytes : Bytes)
  /-- A command posted to the member in a slot (R218): read, write, deallocation. -/
  | memberCmd (op : MemberOp)
  /-- A reservation command to the member in a slot. -/
  | memberResv (slot : Nat) (what : MemberResv)
  /-- A controller or admin command to the drive in a slot. -/
  | driveAdmin (slot : Nat) (what : DriveAdmin)
  /-- A fused Compare and Write of a group's token record to the witness in a slot: the block compared and the block written (R321);
  an ordinary write, with no compare, to a witness that is being seeded (R341). -/
  | tokenWrite (slot group : Nat) (compare : Option Bytes) (block : Bytes)
  /-- A read of a group's token record from the witness in a slot. -/
  | tokenRead (slot group : Nat)
  /-- A host completion: queue entry, status as type × 256 + code, do-not-retry, Dword 0. -/
  | completion (key : CmdKey) (status : Nat) (dnr : Bool) (dword0 : Nat)
  /-- Data returned to the host for a command, block by block. -/
  | hostData (key : CmdKey) (blocks : List (Nat × Bytes))
  /-- An asynchronous event completed to a controller: request, type and information. -/
  | asyncEvent (ctrl cid type info : Nat)
  /-- A frame handed to the Emzifen link. -/
  | linkFrame (f : LinkFrame)
  /-- A message that Ronhenko posts to its peer on an Emzifen channel (R307). -/
  | message (chan : Nat) (bytes : Bytes)
  /-- A packet or message on a queue pair. -/
  | rdma (qp : Nat) (p : RdmaOut)
  /-- A capsule handed whole to the flow engine's decoder. -/
  | capsule (qp : Nat) (bytes : Bytes)
  /-- Answer of the connection manager: accepted with a queue pair number and CRQSIZE (R115). -/
  | connectionReply (port qpn crqsize : Nat)
  /-- A consumer-defined reject with the binding's status value; none where the module does not listen on the service. -/
  | connectionReject (port : Nat) (status : Option Nat)
  /-- A pin is driven (true: high, or released where it is open-drain). -/
  | pin (p : Pin) (level : Bool)
  /-- A voltage request to a cluster's regulator over AVSBus: cluster and performance level (R461). -/
  | avs (cluster level : Nat)
  /-- The entry's gate (R388). -/
  | gate (on : Bool)
  /-- A unit of a walk begins on its members (R103, R104): operation slot, unit, and what is done to its blocks. -/
  | walkUnit (slot unit : Nat) (work : WalkWork)
  /-- What happens to a service core. -/
  | core (core : Nat) (e : CoreEvent)
  /-- What the direct port sends. -/
  | direct (o : DirectOut)
  /-- What the switch core does with a frame. -/
  | frame (o : FrameOut)
  /-- An interrupt to the owner of a module counter (R570). -/
  | counterOverflow (counter : Nat)
  /-- MSI-X vector `v` of direct-port function `f` fires. -/
  | msix (f v : Nat)
  deriving DecidableEq, Repr

end Sys2Proof.Machine
end

