-- ==== Sys2Proof/Machine/State/Power.lean ====
section
/-! DEFINITION. The Caller and the power controller beside the CAL_ and PWR_ registers (chapter The Caller and Power
States): whether the module is on, entries under way, level changes, the pending phrase decision. -/

set_option Elab.async false

namespace Sys2Proof.Machine

/-- What an entry handshake is for (R467). -/
inductive EntryGoal where
  | gated
  | off
  | offByCommand
  deriving DecidableEq, Repr

/-- A domain entry under way: how many Delay answers it has had (R468). -/
structure DomainEntry where
  domain : Nat
  goal : EntryGoal
  delays : Nat
  /-- The state it returns to on a Refuse. -/
  back : Nat
  /-- When it is asked again, ns (R468). -/
  due : Nat
  deriving DecidableEq, Repr

/-- A cluster level change under way (R461): the level it ends in, and whether the voltage comes first (a raise). -/
structure LevelChange where
  cluster : Nat
  target : Nat
  raise : Bool
  /-- When the voltage was asked for, ns (R462). -/
  since : Nat
  deriving DecidableEq, Repr

/-- A decision computed at measure 31 and put into effect at the phrase boundary (R476). -/
structure PhraseDecision where
  levels : List Nat
  jobs : Nat
  rbPrio : Nat
  pace : Nat
  short : Bool
  therm : Bool
  estimateMw : Nat
  pin : Nat
  tj : Nat
  tjDomain : Nat
  deriving DecidableEq, Repr

structure Power where
  /-- The module's rails are up: neither Off nor in Dormant's off part. -/
  on : Bool
  /-- The module is in Dormant (R475). -/
  dormant : Bool
  entries : List DomainEntry
  /-- Steps of the Dormant entry done (R473): none when no entry runs. -/
  dormantStep : Option Nat
  /-- The Dormant entry's asker: the management session and tag, if it came by packet. -/
  dormantFor : Option (Nat × Nat)
  changes : List LevelChange
  /-- Decisions that wait for a change to end (R461): cluster and level. -/
  deferred : List (Nat × Nat)
  /-- Consecutive AVS failures per cluster (R462). -/
  avsFails : List (Nat × Nat)
  pending : Option PhraseDecision
  /-- Clusters whose lowered voltage is to be asked for again at the next decision (R462). -/
  retry : List Nat
  /-- The domain that refuses the Dormant entry under way, if one will. -/
  refuser : Option Nat
  deriving DecidableEq, Repr

def Power.atReset : Power where
  on := true
  dormant := false
  entries := []
  dormantStep := none
  dormantFor := none
  changes := []
  deferred := []
  avsFails := []
  pending := none
  retry := []
  refuser := none

end Sys2Proof.Machine
end

