-- ==== Sys2Proof/Machine/State/Rdma.lean ====
section
/-! DEFINITION. RDMA queue pairs, the context cache, outstanding RDMA READ requests and work requests (chapter RDMA
Transport). -/

set_option Elab.async false

namespace Sys2Proof.Machine

/-- A queue pair that has been created at least once: its 512-byte context (Table 5.4) and what the flow engine holds of
it beside the context. -/
structure QueuePair where
  idx : Nat
  /-- The context, byte 0 in the lowest bits. -/
  img : BitVec 4096
  /-- Bytes of the inbound message in progress. -/
  message : Bytes
  /-- Request packets accepted since the last ACK was sent (R131). -/
  unacked : Nat
  /-- Where the next bytes of the inbound RDMA WRITE in progress go, and how many its RETH still lets come (R135). -/
  write : Option (Nat × Nat)
  /-- Listening port it was made on, and whether its first capsule (Connect) has been taken (R117). -/
  port : Nat
  bound : Bool
  /-- R119: the Connect response asked for authentication and it has not succeeded; the step of a transaction: 0 none,
  2 negotiated, 3 challenged, 4 proved, 5 awaiting the host's success, 6 proved with a challenge of the host's. -/
  authDue : Bool
  auth : Nat
  deriving DecidableEq, Repr

/-- Where the data of a READ request goes: to a host command at a byte offset of its transfer, to a local address, or, its
command aborted since, nowhere. -/
inductive ReadTarget where
  | command (key : CmdKey) (offset : Nat)
  | memory (addr : Nat)
  | nowhere
  deriving DecidableEq, Repr

/-- An RDMA READ request (R137–R139): waiting while it has no tracker, else outstanding. -/
structure ReadRequest where
  qp : Nat
  /-- Number of the work request it belongs to. -/
  work : Nat
  target : ReadTarget
  len : Nat
  /-- Address and key on the remote side. -/
  raddr : Nat
  rkey : Nat
  packets : Nat
  firstPsn : Nat
  tracker : Option Nat
  /-- Response packets marked in the 512-bit map. -/
  map : List Nat
  deriving DecidableEq, Repr

/-- A started work request, in send-ring order. -/
structure Work where
  qp : Nat
  num : Nat
  /-- Opcode of Table 5.10. -/
  opcode : Nat
  signal : Bool
  wrId : Nat
  len : Nat
  /-- Its packets: first PSN and count; a READ has the PSNs of its responses. -/
  firstPsn : Nat
  packets : Nat
  /-- READ requests still to complete. -/
  reads : Nat
  deriving DecidableEq, Repr

/-- A work request that the flow engines write into an NVMe queue pair's send ring. -/
inductive SendItem where
  /-- A response capsule, and the key that it invalidates. -/
  | response (capsule : Bytes) (invalidate : Option Nat)
  /-- Read data: the host memory of each keyed descriptor and the bytes that go there. -/
  | data (parts : List (KeyedSgl × Bytes))
  /-- The fetch of a command's data from the host memory of its descriptors. -/
  | fetch (key : CmdKey) (source : List KeyedSgl)
  deriving DecidableEq, Repr

/-- What passes a pipeline: a packet, timer or doorbell that came as a row, or what a queue pair sends. -/
inductive PipeItem where
  | row (i : Instr)
  | send (m : SendItem)
  deriving DecidableEq, Repr

/-- One ingress or transmit pipeline (R122, R124, R125). Its packets stand with the context that each needs. -/
structure Pipeline where
  transmit : Bool
  num : Nat
  /-- The miss slot: the context being filled. -/
  fill : Option Nat
  /-- Packets parked behind the fill, in arrival order. -/
  parked : List PipeItem
  /-- Packets behind a miss that found the slot taken, the missing one first. -/
  stalled : List (Nat × PipeItem)
  stalledAt : Nat
  /-- Dirty victims being written back, at most two. -/
  evict : List Nat
  deriving DecidableEq, Repr

/-- A cached context. -/
structure CachedContext where
  idx : Nat
  dirty : Bool
  deriving DecidableEq, Repr

structure Rdma where
  qps : List QueuePair
  /-- The context cache, most recently used first (2,048 sets of 8, by index modulo 2,048). -/
  cache : List CachedContext
  pipelines : List Pipeline
  reads : List ReadRequest
  works : List Work
  nextWork : Nat
  /-- Work requests of NVMe send rings that wait behind a READ whose requests are not all sent (R136), by queue pair. -/
  sends : List (Nat × SendItem)
  /-- WRITE packets whose retained cells were discarded, by queue pair and PSN (R178). -/
  discarded : List (Nat × Nat)
  /-- Parked rings, by the queue pair that waits (R143). -/
  waiting : List Nat
  /-- Next slot of each completion ring, by queue pair. -/
  cqSlot : List (Nat × Nat)
  /-- Timers that run: step timers (R148) and RNR timers (R141), by queue pair. -/
  stepTimers : List Nat
  rnrTimers : List Nat
  deriving DecidableEq, Repr

def Rdma.atReset : Rdma where
  qps := []
  cache := []
  pipelines := []
  reads := []
  works := []
  nextWork := 0
  sends := []
  discarded := []
  waiting := []
  cqSlot := []
  stepTimers := []
  rnrTimers := []

end Sys2Proof.Machine
end

