-- ==== Sys2Proof/Machine/State/Slots.lean ====
section
/-! DEFINITION. The drive slots beside SLT_ (chapter Drive Slots). -/

set_option Elab.async false

namespace Sys2Proof.Machine

/-- What a slot holds beside its registers. -/
structure SlotHold where
  slot : Nat
  /-- When the slot entered its state, or last began it again, ns (Table 13.2, R352). -/
  since : Nat
  /-- The removal has begun its end: the member has failed, and the link is disabled once no command to the drive is outstanding
  (R352). -/
  ending : Bool
  /-- The state held before the attention press that began a removal (Table 13.2). -/
  back : Nat
  /-- The 50 ms debounce is over and the slot waits for the peer's list (R590). -/
  debounced : Bool
  /-- Sideband reads that have failed in a row (R361). -/
  miFails : Nat
  /-- The time counter at which the blink of a refused press ends, ns (R351). -/
  blinkUntil : Nat
  deriving DecidableEq, Repr

structure Slots where
  holds : List SlotHold
  /-- SLOT_PWRENk_N outputs pulled low; they lie in the always-on domain (R347). -/
  pulled : List Nat
  /-- Slots that the peer holds Off (R590). -/
  peerOff : List Nat
  /-- R590: the peer's list has come, or the 2 s have passed. -/
  listKnown : Bool
  /-- What the drive of each slot showed when it was last checked (R349). -/
  reports : List (Nat × DriveReport)
  deriving DecidableEq, Repr

def Slots.atReset : Slots where
  holds := []
  pulled := []
  peerOff := []
  listKnown := false
  reports := []

end Sys2Proof.Machine
end

