-- ==== Sys2Proof/Machine/State/Switch.lean ====
section
/-! DEFINITION. The switch core and the NET egress arbiters beside the SWC_ and NET_ registers (chapters Switch Core and
Shared Buffer, Time Gates and Shapers). -/

set_option Elab.async false

namespace Sys2Proof.Machine

/-- Where a frame is: on its way to the resequencer of its destination, held there in a tracker, in the overflow list, in
the destination's queue, or leaving on its lane. -/
inductive FrameStage where
  | arriving | tracked | overflow | queued | sending
  deriving DecidableEq, Repr

/-- A frame inside the switch: its descriptor (Table 6.3), its cells (Table 6.2), and the pools they came from. One of a group of
copies. -/
structure Frame where
  id : Nat
  src : Nat
  ingressLane : Nat
  dest : Nat
  queue : Nat
  cls : Nat
  content : Bytes
  /-- The indices of its cells, in order. -/
  chain : List Nat
  /-- When its last cell is written, ns. -/
  tailAt : Nat
  /-- Its head was released before its tail was written (CT). -/
  ct : Bool
  /-- Cells taken from the writer's reserve, the shared pool and the headroom. -/
  reserve : Nat
  shared : Nat
  headroom : Nat
  poison : Bool
  ordered : Bool
  /-- A SKIP descriptor (R169). -/
  skip : Bool
  ecn : Bool
  flow : Nat
  seq : Nat
  epoch : Nat
  /-- The table chose its destination, so it counts toward drain (R173). -/
  counted : Bool
  /-- It goes into the priority queue (R183). -/
  priority : Bool
  /-- The PSN of the RDMA WRITE packet that it is (R178). -/
  psn : Option Nat
  /-- The held copy that it mirrors (R310). -/
  copy : Option Nat
  ts : Nat
  stage : FrameStage
  deriving DecidableEq, Repr

def Frame.bytes (f : Frame) : Nat := f.content.length

/-- Sequence numbers of a flow toward a destination: the next SEQ (R166), or the expected E (R168). -/
structure FlowNumber where
  flow : Nat
  dest : Nat
  num : Nat
  deriving DecidableEq, Repr

/-- A lane and class of a port. -/
structure LaneClass where
  port : Nat
  lane : Nat
  cls : Nat
  deriving DecidableEq, Repr

/-- A received pause (R186): until when, and since when the class has been held without a break (R162). -/
structure Pause where
  at_ : LaneClass
  until_ : Nat
  since : Nat
  deriving DecidableEq, Repr

/-- An entry of the forwarding table that is not all zero (Table 6.5). -/
structure FwdEntry where
  idx : Nat
  bytes : Bytes
  deriving DecidableEq, Repr

structure Switch where
  frames : List Frame
  nextFrame : Nat
  /-- Frames that wait at their writers for cells or for a flow's limit (R157, R164, R167), oldest first. -/
  waiting : List FrameOffer
  /-- Port classes that have sent XOFF and not yet XON (R159), with the lane. -/
  xoff : List LaneClass
  pauses : List Pause
  /-- When the last pause for a lane's class was received, ns (R162). -/
  lastPause : List (LaneClass × Nat)
  /-- Lanes and classes in watchdog discard (R162). -/
  discarding : List LaneClass
  sequences : List FlowNumber
  expected : List FlowNumber
  active : List FwdEntry
  shadow : List FwdEntry
  /-- Target measure of the armed advance (R174). -/
  epochTarget : Nat
  deriving DecidableEq, Repr

def Switch.atReset : Switch where
  frames := []
  nextFrame := 0
  waiting := []
  xoff := []
  pauses := []
  lastPause := []
  discarding := []
  sequences := []
  expected := []
  active := []
  shadow := []
  epochTarget := 0

/-- The deficit of a tenant group, or of a queue pair within it (R183). -/
structure Deficit where
  at_ : LaneClass
  group : Nat
  /-- 0 for the group, else the queue pair plus 1. -/
  who : Nat
  bytes : Nat
  deriving DecidableEq, Repr

/-- Whose turn it is: the group (whose = 0) of a class, or the queue pair of a group; `paid` once its quantum was added. -/
structure Turn where
  at_ : LaneClass
  group : Nat
  isGroup : Bool
  turn : Nat
  paid : Bool
  deriving DecidableEq, Repr

/-- A queue pair's token bucket (R184): its level in thousandths of a bit, as of a time. -/
structure TokenBucket where
  qp : Nat
  level : Int
  at_ : Nat
  deriving DecidableEq, Repr

/-- The credit of a lane's class (R196), in thousandths of a bit, as of a time. -/
structure Credit where
  of_ : LaneClass
  level : Int
  at_ : Nat
  deriving DecidableEq, Repr

structure Gates where
  /-- Per port: B_act (R188) and B_w (R197), ns. -/
  start : List (Nat × Nat)
  wheelStart : List (Nat × Nat)
  deficits : List Deficit
  turns : List Turn
  /-- The eligible queue pairs of each group, as counted at the start of the group round (R185). -/
  counts : List (LaneClass × List (Nat × Nat))
  buckets : List TokenBucket
  credits : List Credit
  /-- Open classes that a waiting frame holds idle (R189), and since when. -/
  guards : List (LaneClass × Nat)
  /-- Target measures of the armed switchovers, by port (R193). -/
  targets : List (Nat × Nat)
  deriving DecidableEq, Repr

def Gates.atReset : Gates where
  start := []
  wheelStart := []
  deficits := []
  turns := []
  counts := []
  buckets := []
  credits := []
  guards := []
  targets := []

end Sys2Proof.Machine
end

