-- ==== Sys2Proof/Machine/State/Wall.lean ====
section
/-! DEFINITION. The Wallflower's rules and the power entry beside WFL_ and EFU_ (chapters The Wallflower and Power Entry). -/

set_option Elab.async false

namespace Sys2Proof.Machine

/-- The setting of a rule in force (R490): its four registers. -/
structure RuleSetting where
  rule : Nat
  ctl : Nat
  thr : Nat
  per : Nat
  act : Nat
  deriving DecidableEq, Repr

/-- What a rule has seen (R488, R489). -/
structure RuleState where
  rule : Nat
  /-- The condition at the last sweep, and the sweeps for which it has been true without a break. -/
  held : Bool
  sweeps : Nat
  /-- It has fired and not re-armed. -/
  fired : Bool
  deriving DecidableEq, Repr

structure Wall where
  inForce : List RuleSetting
  /-- Rules whose registers apply at the start of the next sweep. -/
  toApply : List Nat
  rules : List RuleState
  /-- Digital edges since the last sweep: input and whether it rose. -/
  edges : List (Nat × Bool)
  /-- Channels whose filter restarts at the next RAW value (R486). -/
  restart : List Nat
  /-- Time of the last arm (ns) that no go has used (R500). -/
  armed : Option Nat
  deriving DecidableEq, Repr

def Wall.atReset : Wall where
  inForce := []
  toApply := []
  rules := []
  edges := []
  restart := []
  armed := none

/-- The entry record (R385) and the module's MCTP endpoint IDs (R423), on the entry's bias supply. -/
structure Entry where
  cause : Nat
  ipeak : Nat
  vin : Nat
  /-- Endpoint IDs assigned, by binding: 0 PCIe VDM, 1 SMBus, 2 I3C. -/
  eids : List (Nat × Nat)
  deriving DecidableEq, Repr

def Entry.atBias : Entry where
  cause := 0
  ipeak := 0
  vin := 0
  eids := []

end Sys2Proof.Machine
end

