-- ==== Sys2Proof/Machine/State.lean ====
section
/-! DEFINITION. The whole state of one module (R1): its registers, the queues and buffers of every block, the commands
that wait, and what the module has sent out. Plain data throughout. -/

set_option Elab.async false

namespace Sys2Proof.Machine

/-- What stops the module's model with a fault. -/
inductive Fault where
  /-- Raised by no command: the spec gives every command an effect on this block. Safe. -/
  | none
  deriving DecidableEq, Repr

/-- What the model turns away. -/
inductive Refusal where
  /-- Raised by the dispatcher for a command that has no meaning yet. Safe: nothing can be proved of it. -/
  | notModelled (mnemonic : String)
  deriving DecidableEq, Repr

/-- The state of one controller module. -/

structure State where
  /-- The commands that wait, first in first out (the block's input queue). -/
  pending : List Instr
  /-- What the module has sent, newest first: answers, completions, packets, drive commands, pin levels. -/
  out : List Output
  /-- The model's own counter of free values and random draws; no statement rests on its value. -/
  draws : Nat
  /-- Every register of Table 0.6 that does not hold its reset value, by rising address. -/
  regs : List RegCell
  /-- RWM field writes that wait for the next boundary (R10), by rising address and bit. -/
  rwm : List RwmWrite
  /-- High words latched by low-word reads, per requester (R6). -/
  hiLatch : List PairWord
  /-- Low words written since the last high write, per requester (R589). -/
  lowWord : List PairWord
  /-- The time counter, the measure grid and the boundary window. -/
  clock : Clock
  /-- Stored configuration, which outlives every reset. -/
  cfg : StoredConfig
  /-- Fault records and the recovery ladder. -/
  flt : Faults
  /-- Management sessions, requests, challenges and notices. -/
  mcp : Mcp
  /-- The Caller, the power controller and whether the module is on. -/
  power : Power
  /-- Namespaces, policies, controllers and I/O commands in progress. -/
  host : Hosts
  /-- Held copies, open stripes, the journal, the layout tables, rebuild and Promenade. -/
  store : Store
  /-- The energy store, the vault and the power-fail decision. -/
  energy : Energy
  /-- The Emzifen link. -/
  link : Link
  /-- Queue pairs, the context cache, READ trackers and work requests. -/
  rdma : Rdma
  /-- Module memory (DRAM), by rising address; an unlisted byte reads 0. -/
  mem : List Host.Cell
  /-- The key store. -/
  keys : Keys
  /-- The engine work queues. -/
  ewq : Ewq
  /-- The Wallflower's rules in force and what they have seen. -/
  wall : Wall
  /-- The entry record, on the bias supply. -/
  entry : Entry
  /-- Firmware, long operations and forwarded admin commands. -/
  admin : Admin
  /-- The protection set-up, proposals and the commit log. -/
  two : TwoStep
  /-- Lead tokens, the cut-in and hand-overs. -/
  token : Token
  /-- The drive slots, and the slot power outputs. -/
  slots : Slots
  /-- The core caches of the clusters. -/
  caches : Caches
  /-- The direct port. -/
  direct : Direct
  /-- The frames inside the switch core, its sequence numbers and the forwarding table. -/
  switch : Switch
  /-- The egress arbiters of the NET lanes. -/
  gates : Gates
  /-- Recoveries of bad memory, and the sweeps. -/
  integrity : Integrity
  /-- Window monitors and core counters. -/
  pmc : Pmc
  deriving DecidableEq, Repr

/-- The module right after a cold reset: every register at its reset value (the register file lists only registers
that differ from it), nothing queued, nothing held. -/
def State.reset : State where
  pending := []
  out := []
  draws := 0
  regs := []
  rwm := []
  hiLatch := []
  lowWord := []
  clock := Clock.atReset
  cfg := StoredConfig.commissioned
  flt := Faults.atReset
  mcp := Mcp.atReset
  power := Power.atReset
  host := Hosts.atReset
  store := Store.atReset
  energy := Energy.atReset
  link := Link.atReset
  rdma := Rdma.atReset
  mem := []
  keys := Keys.atReset
  ewq := Ewq.atReset
  wall := Wall.atReset
  entry := Entry.atBias
  admin := Admin.commissioned
  two := TwoStep.factory
  token := Token.atReset
  slots := Slots.atReset
  caches := Caches.atReset
  direct := Direct.atReset
  switch := Switch.atReset
  gates := Gates.atReset
  integrity := Integrity.atReset
  pmc := Pmc.atReset

end Sys2Proof.Machine
end

