-- ==== Sys2Proof/Machine/Updates.lean ====
section
/-! DEFINITION. One named update per field of State, which the operations and meanings use. -/

set_option Elab.async false

namespace Sys2Proof.Machine

/-- Change the `pending` part only. -/
def State.onPending (s : State) (f : List Instr → List Instr) : State := { s with pending := f s.pending }
/-- Change the `out` part only. -/
def State.onOut (s : State) (f : List Output → List Output) : State := { s with out := f s.out }
/-- Change the `draws` part only. -/
def State.onDraws (s : State) (f : Nat → Nat) : State := { s with draws := f s.draws }
/-- Change the `regs` part only. -/
def State.onRegs (s : State) (f : List RegCell → List RegCell) : State := { s with regs := f s.regs }
/-- Change the `rwm` part only. -/
def State.onRwm (s : State) (f : List RwmWrite → List RwmWrite) : State := { s with rwm := f s.rwm }
/-- Change the `hiLatch` part only. -/
def State.onHiLatch (s : State) (f : List PairWord → List PairWord) : State := { s with hiLatch := f s.hiLatch }
/-- Change the `lowWord` part only. -/
def State.onLowWord (s : State) (f : List PairWord → List PairWord) : State := { s with lowWord := f s.lowWord }
/-- Change the `clock` part only. -/
def State.onClock (s : State) (f : Clock → Clock) : State := { s with clock := f s.clock }
/-- Change the `cfg` part only. -/
def State.onCfg (s : State) (f : StoredConfig → StoredConfig) : State := { s with cfg := f s.cfg }
/-- Change the `flt` part only. -/
def State.onFlt (s : State) (f : Faults → Faults) : State := { s with flt := f s.flt }
/-- Change the `mcp` part only. -/
def State.onMcp (s : State) (f : Mcp → Mcp) : State := { s with mcp := f s.mcp }
/-- Change the `power` part only. -/
def State.onPower (s : State) (f : Power → Power) : State := { s with power := f s.power }
/-- Change the `host` part only. -/
def State.onHost (s : State) (f : Hosts → Hosts) : State := { s with host := f s.host }
/-- Change the `store` part only. -/
def State.onStore (s : State) (f : Store → Store) : State := { s with store := f s.store }
/-- Change the `energy` part only. -/
def State.onEnergy (s : State) (f : Energy → Energy) : State := { s with energy := f s.energy }
/-- Change the `link` part only. -/
def State.onLink (s : State) (f : Link → Link) : State := { s with link := f s.link }
/-- Change the `rdma` part only. -/
def State.onRdma (s : State) (f : Rdma → Rdma) : State := { s with rdma := f s.rdma }
/-- Change the `mem` part only. -/
def State.onMem (s : State) (f : List Host.Cell → List Host.Cell) : State := { s with mem := f s.mem }
/-- Change the `keys` part only. -/
def State.onKeys (s : State) (f : Keys → Keys) : State := { s with keys := f s.keys }
/-- Change the `ewq` part only. -/
def State.onEwq (s : State) (f : Ewq → Ewq) : State := { s with ewq := f s.ewq }
/-- Change the `wall` part only. -/
def State.onWall (s : State) (f : Wall → Wall) : State := { s with wall := f s.wall }
/-- Change the `entry` part only. -/
def State.onEntry (s : State) (f : Entry → Entry) : State := { s with entry := f s.entry }
/-- Change the `admin` part only. -/
def State.onAdmin (s : State) (f : Admin → Admin) : State := { s with admin := f s.admin }
/-- Change the `two` part only. -/
def State.onTwo (s : State) (f : TwoStep → TwoStep) : State := { s with two := f s.two }
/-- Change the `token` part only. -/
def State.onToken (s : State) (f : Token → Token) : State := { s with token := f s.token }
/-- Change the `slots` part only. -/
def State.onSlots (s : State) (f : Slots → Slots) : State := { s with slots := f s.slots }
/-- Change the `caches` part only. -/
def State.onCaches (s : State) (f : Caches → Caches) : State := { s with caches := f s.caches }
/-- Change the `direct` part only. -/
def State.onDirect (s : State) (f : Direct → Direct) : State := { s with direct := f s.direct }
/-- Change the `switch` part only. -/
def State.onSwitch (s : State) (f : Switch → Switch) : State := { s with switch := f s.switch }
/-- Change the `gates` part only. -/
def State.onGates (s : State) (f : Gates → Gates) : State := { s with gates := f s.gates }
/-- Change the `integrity` part only. -/
def State.onIntegrity (s : State) (f : Integrity → Integrity) : State := { s with integrity := f s.integrity }
/-- Change the `pmc` part only. -/
def State.onPmc (s : State) (f : Pmc → Pmc) : State := { s with pmc := f s.pmc }

end Sys2Proof.Machine
end

