-- ==== Sys2Proof/Machine/Access.lean ====
section
/-! DEFINITION. The smallest named operations over the state: reading and writing registers and their fields, counters,
sending, free values, who runs, time and measures. -/

set_option Elab.async false

namespace Sys2Proof.Machine

/-! Registers. -/

/-- The value of the register (or pair) homed at `a`. -/
def State.reg (s : State) (a : Nat) : DWord := RegFile.get a s.regs

/-- Set a whole register (or pair). -/
def State.setReg (s : State) (a : Nat) (v : DWord) : State := s.onRegs (RegFile.set a v)

/-- The number a field holds. -/
def State.rd (s : State) (f : Fld) : Nat := extractBits (s.reg f.addr).toNat f.hi f.lo

/-- Put a number into a field. -/
def State.wr (s : State) (f : Fld) (v : Nat) : State :=
  s.setReg f.addr (BitVec.ofNat 64 (depositBits (s.reg f.addr).toNat f.hi f.lo v))

/-- Whether a one-bit field (or any field) is nonzero. -/
def State.flag (s : State) (f : Fld) : Bool := s.rd f != 0

/-- A pair's full 64-bit value as a number. -/
def State.rd64 (s : State) (a : Nat) : Nat := (s.reg a).toNat

/-- Add to a counter pair, modulo 2^64. -/
def State.count (s : State) (a : Nat) (n : Nat := 1) : State := s.setReg a (s.reg a + BitVec.ofNat 64 n)

/-- Several field writes in order. -/
def State.wrs (s : State) : List (Fld × Nat) → State
  | [] => s
  | (f, v) :: l => (s.wr f v).wrs l

/-! Sending, free values, choosing. -/

/-- Send one thing. -/
def State.emit (s : State) (o : Output) : State := s.onOut (o :: ·)

/-- Send several, in order. -/
def State.emits (s : State) (l : List Output) : State := s.onOut (l.reverse ++ ·)

/-- Take the next free number: the value the spec leaves open, and the counter advanced. -/
def State.draw (s : State) : Nat × State := (Config.freeNat s.draws, s.onDraws (· + 1))

/-- Take `n` free numbers, by place. -/
def State.drawMany (s : State) (n : Nat) : (Nat → Nat) × State := (fun i => Config.freeNat (s.draws + i), s.onDraws (· + n))

/-- Take `n` random bytes of the DRBG. -/
def State.random (s : State) (n : Nat) : Bytes × State := (Config.randomBytes n s.draws, s.onDraws (· + 1))

/-- Do a step only when a condition holds. -/
def State.when (s : State) (c : Bool) (f : State → State) : State := if c then f s else s

/-- Do one step for each element of a list, in order. -/
def State.each {α : Type} (s : State) (l : List α) (f : α → State → State) : State := l.foldl (fun s a => f a s) s

/-- Keep a list sorted by a key while putting one element in, replacing an element of the same key. -/
def putBy {α : Type} (key : α → Nat) (a : α) : List α → List α
  | [] => [a]
  | b :: bs => if key a < key b then a :: b :: bs else if key a = key b then a :: bs else b :: putBy key a bs

/-- The first element with this key. -/
def getBy {α : Type} (key : α → Nat) (k : Nat) (l : List α) : Option α := l.find? (fun a => key a == k)

/-- The list without the elements of this key. -/
def dropBy {α : Type} (key : α → Nat) (k : Nat) (l : List α) : List α := l.filter (fun a => key a != k)

/-- Change the elements with this key. -/
def setBy {α : Type} (key : α → Nat) (k : Nat) (f : α → α) (l : List α) : List α :=
  l.map (fun a => if key a == k then f a else a)

/-! Who runs. -/

/-- The SoC runs: the root PLL has locked (R27), it is not held in module reset (R29, R584), not Off or Dormant, and no
power-fail decision has stopped its ports (R286). -/
def State.running (s : State) : Bool :=
  !s.clock.heldInReset && s.power.on && !s.power.dormant && !s.energy.decided && s.flag CLK_STAT.PLL_LOCK

/-- A command that reaches the SoC: it has its effect while the SoC runs, and reaches nothing otherwise. -/
def onSoc (s : State) (f : State → State) : Host.Outcome State Fault Refusal := .next (if s.running then f s else s)

/-- A command that reaches the always-on domain or the entry controller, whatever the SoC does. -/
def onAlways (s : State) (f : State → State) : Host.Outcome State Fault Refusal := .next (f s)

/-! Time and measures. -/

/-- R36: the measure length in nanoseconds. -/
def State.measureNs (s : State) : Nat := 4000 * 2 ^ s.rd MEAS_CTL.MLEN

/-- The time counter in nanoseconds. -/
def State.now (s : State) : Nat := s.clock.timeNs.toNat

/-- R37: N = floor(T / L). -/
def State.measureNumber (s : State) : Nat := s.now / s.measureNs

/-- The measure an event belongs to: the measure begun at the last boundary (R40). -/
def State.measure (s : State) : Nat := s.clock.current.toNat

/-- The grid runs (R44). -/
def State.gridRuns (s : State) : Bool := s.flag MEAS_CTL.RUN

/-- R38: the phrase of a measure. -/
def phraseOf (n : Nat) : Nat := n / 32

end Sys2Proof.Machine
end

