-- ==== Sys2Proof/Machine/Counters.lean ====
section
/-! DEFINITION. Counting events (chapter Performance Counters): module counters, core counters and the bytes of the window
monitors. The blocks that the events happen in call these. -/

set_option Elab.async false

namespace Sys2Proof.Machine

/-- R568, R577: counter `i` counts: RUN and EN are 1, and a partition's counter needs its partition's permission. -/
def State.counterOn (s : State) (i : Nat) : Bool :=
  s.flag PMC_CTL.RUN && s.flag (PMC_SEL.EN i) && (i < 16 || s.flag (PMC_PEN.PEN ((i - 16) / 4)))

/-- R570: add to a counter: past 2^48 − 1 it saturates or wraps, its bit of PMC_OVF sets, and its owner is interrupted when the
bit changes. -/
def State.addCounter (s : State) (i n : Nat) : State :=
  let v := s.rd64 (PMC_CNT.addr i) + n
  if v < 2 ^ 48 then s.setReg (PMC_CNT.addr i) (BitVec.ofNat 64 v)
  else
    let was := bitOf (s.rd64 PMC_OVF.addr) i
    let s := s.setReg (PMC_CNT.addr i) (BitVec.ofNat 64 (if s.flag (PMC_SEL.SAT i) then 2 ^ 48 - 1 else v % 2 ^ 48))
    let s := s.setReg PMC_OVF.addr (BitVec.ofNat 64 (s.rd64 PMC_OVF.addr ||| 2 ^ i))
    if s.flag (PMC_SEL.IRQ i) && !was then s.emit (.counterOverflow i) else s

/-- Counter `i` selects this event and source. -/
def State.counterSelects (s : State) (i event source : Nat) : Bool :=
  s.counterOn i && s.rd (PMC_SEL.EVENT i) == event && s.rd (PMC_SEL.SOURCE i) == source

/-- Tables 24.1 and 24.2: an event occurs with an amount; a condition becomes true. -/
def State.event (s : State) (event source : Nat) (amount : Nat := 0) : State :=
  if !s.flag PMC_CTL.RUN then s else
  s.each (List.range 48) fun i s =>
    if !s.counterSelects i event source then s
    else if s.rd (PMC_SEL.MODE i) = 0 then s.addCounter i 1
    else if s.rd (PMC_SEL.MODE i) = 2 then s.addCounter i amount
    else s

/-- A condition that was false becomes true. -/
def State.began (s : State) (was : Bool) (event source : Nat) : State := if was then s else s.event event source

/-- The conditions of Table 24.2 that level counters count. -/
def State.condition (s : State) (event source : Nat) : Bool :=
  if event = 0x03 then s.switch.pauses.any fun p => 8 * (8 * p.at_.port + p.at_.lane) + p.at_.cls == source
  else if event = 0x04 then s.gates.guards.any fun g => 8 * (8 * g.1.port + g.1.lane) + g.1.cls == source
  else if event = 0x12 then s.rdma.pipelines.any fun p => p.num == source && !p.stalled.isEmpty
  else if event = 0x32 then s.host.commands.any fun c => c.group == source && c.writeBack && c.stage == .held
  else if event = 0x51 then source == 0 && s.host.commands.any (·.stage == .room)
  else if event = 0x61 then source == 0 && s.rd CAL_GRANT.PACE != 0
  else false

/-- Table 24.1, level: so many PTP cycles pass. -/
def State.levelCycles (s : State) (n : Nat) : State :=
  if !s.flag PMC_CTL.RUN then s else
  s.each (List.range 48) fun i s =>
    if s.counterOn i && s.rd (PMC_SEL.MODE i) == 1 && s.condition (s.rd (PMC_SEL.EVENT i)) (s.rd (PMC_SEL.SOURCE i)) then s.addCounter i n
    else s

/-- R572: bytes pass a port: KIND, INDEX, and out of the module or into it. -/
def State.moved (s : State) (kind index : Nat) (out : Bool) (n : Nat) : State :=
  if s.pmc.monitors.isEmpty then s else
  let watches := fun m : Monitor => s.flag PMC_CTL.RUN && s.flag (PMC_BW_CTL.EN m.num) && s.rd (PMC_BW_CTL.KIND m.num) == kind &&
    s.rd (PMC_BW_CTL.INDEX m.num) == index && s.flag (PMC_BW_CTL.DIR m.num) == out
  let add := fun m : Monitor => if watches m then Monitor.mk m.num (m.bytes + n) m.dirty m.win m.ended m.on else m
  s.onPmc fun x => { x with monitors := x.monitors.map add }

/-- A command is sent to the member in a slot: 4,096 data bytes for a read or a write, which pass out with a write. -/
def State.postedTo (s : State) (slot : Nat) (kind : OpKind) : State :=
  let s := s.event 0x20 slot (if kind == .read || kind == .write then 4096 else 0)
  if kind == .write then s.moved 2 slot true 4096 else s

/-- R575, Table 24.3: an event in a core counts in the hpmcounters that its cluster gives it. -/
def State.coreEvent (s : State) (core event : Nat) (n : Nat := 1) : State :=
  s.each ((List.range 8).filter fun j => s.rd (PMC_CEVT.EVENT (core / 8) j) == event) fun j s =>
    let old := ((s.pmc.hpm.find? fun h => h.core == core && h.k == j + 3).map (·.num)).getD 0
    s.onPmc fun x => { x with hpm := putBy (fun h => h.core * 16 + h.k) (HpmCount.mk core (j + 3) (old + BitVec.ofNat 64 n)) x.hpm }

end Sys2Proof.Machine
end

