-- ==== Sys2Proof/Machine/DirectOps.lean ====
section
/-! DEFINITION. Operations of the direct port that other blocks use (chapter Direct Port): its configuration space, whether a
function may send, MSI-X messages, PME, and function 0's reads of host memory. -/

set_option Elab.async false

namespace Sys2Proof.Machine

/-! Configuration space (R367, Tables 14.2 and 14.3). -/

def Direct.fn (d : Direct) (f : Nat) : DirectFn := if f = 0 then d.fn0 else d.fn1
def State.onFn (s : State) (f : Nat) (g : DirectFn → DirectFn) : State :=
  s.onDirect fun d => if f = 0 then { d with fn0 := g d.fn0 } else { d with fn1 := g d.fn1 }

/-- Reset values of the writable words that do not reset to 0: Max Read Request 512 bytes and Relaxed Ordering of Device
Control (PCIe's, log 45). -/
def cfgReset (offset : Nat) : Nat := if offset = 0x78 then 0x2810 else 0

/-- The live writable bits of a configuration word. -/
def State.cfgWord (s : State) (f offset : Nat) : Nat :=
  (((s.direct.fn f).cfg.find? (·.1 == offset)).map (·.2)).getD (cfgReset offset)

def State.putCfg (s : State) (f offset v : Nat) : State := s.onFn f fun x => { x with cfg := putBy (·.1) (offset, v) x.cfg }

/-- Bit positions in Command (0x04), Device Control (0x78), MSI-X control (0x50) and PMCSR (0x44). -/
def State.memorySpace (s : State) (f : Nat) : Bool := bitOf (s.cfgWord f 0x04) 1
def State.maxRead (s : State) : Nat := 128 * 2 ^ min 5 (extractBits (s.cfgWord 0 0x78) 14 12)
def State.maxPayload (s : State) : Nat := 128 * 2 ^ min 2 (extractBits (s.cfgWord 0 0x78) 7 5)

/-! Function states (Table 14.5). -/

def fnReset : Nat := 0
def fnIdle : Nat := 1
def fnRunning : Nat := 2
def fnQuiescing : Nat := 3

def State.fnState (s : State) (f : Nat) : Nat := s.rd (DPT_FSTAT.STATE f)

/-- The controller of function 0 (R372). -/
def State.directId (s : State) : Nat := if s.cfg.position = 1 then 0x2000 else 0x1000

/-- R377, R378: function 0 may send requests of its controller. -/
def State.directRuns (s : State) : Bool := s.fnState 0 == fnRunning && !s.direct.cfs

/-- Write TLPs that carry so many bytes. -/
def State.writeTlps (s : State) (n : Nat) : State :=
  let k := (n + s.maxPayload - 1) / s.maxPayload
  if k = 0 then s else
  (s.count DPT_WR_TLP.addr k).each (List.range k) fun i s =>
    (s.event 0x52 1 (min s.maxPayload (n - i * s.maxPayload))).moved 3 0 true (min s.maxPayload (n - i * s.maxPayload))

/-- An MSI-X vector's mask bit, as PCIe has it (log 45): every vector resets masked. -/
def State.vectorMasked (s : State) (f v : Nat) : Bool :=
  bitOf (((s.direct.fn f).msix.find? (·.1 == 16 * v + 12)).map (·.2) |>.getD 1) 0

/-- R373, R376: fire an MSI-X vector: a message if the function may send, the vector pending while it is masked. -/
def State.fire (s : State) (f v : Nat) : State :=
  if !bitOf (s.cfgWord f 0x50) 31 then s
  else if bitOf (s.cfgWord f 0x50) 30 || s.vectorMasked f v then
    s.onFn f fun x => { x with pba := if x.pba.contains v then x.pba else v :: x.pba }
  else if s.fnState f = fnRunning then (s.writeTlps 4).emit (.msix f v)
  else s

/-- R382: a notice posted for the host: while PME_En is set, PME_Status sets, and the function sends a PME message in D3hot, or
asserts DIR_WAKE_N in D3cold. -/
def State.raisePme (s : State) : State :=
  if !s.direct.pmeEn then s else
  let s := s.onDirect fun d => { d with pmeStatus := true }
  if s.direct.perstLow then (s.wrs [(DPT_STAT.WAKE, 1), (DPT_EVT.WAKE, 1)]).emit (.pin .dirWake false)
  else if s.rd (DPT_FSTAT.DSTATE 1) = 3 then s.emit (.direct .pme)
  else s

/-! Reads of host memory (R363, R375). -/

def State.showDirectReads (s : State) : State := s.wr (DPT_FSTAT.OUTRD 0) (s.direct.reads.filter (·.sent)).length

/-- Send one read request. -/
def State.sendDirectRead (s : State) (r : DirectRead) : State :=
  let s := s.onDirect fun d => { d with reads := d.reads.map fun q => if q.tag == r.tag then { q with sent := true, sentAt := s.now } else q }
  (((s.count DPT_RD_REQ.addr).event 0x52 1 0).emit (.direct (.read r.tag r.len))).showDirectReads

/-- R363: send the reads that wait, oldest first, while fewer than 512 are outstanding and function 0 may send. -/
def State.sendDirectReads (s : State) : State :=
  if !s.directRuns then s else
  s.each ((s.direct.reads.filter fun r => !r.sent).take (512 - (s.direct.reads.filter (·.sent)).length)) fun r s => s.sendDirectRead r

/-- Ask for a run of host memory, in requests of at most Max Read Request bytes. -/
def State.directFetch (s : State) (len : Nat) (what : Nat → DirectWhat) : State :=
  let m := s.maxRead
  (s.onDirect fun d => { d with
    nextTag := d.nextTag + (len + m - 1) / m
    reads := d.reads ++ (List.range ((len + m - 1) / m)).map fun i =>
      DirectRead.mk (d.nextTag + i) false (what (i * m)) (min m (len - i * m)) [] 0 }).sendDirectReads

/-- R374: a completion queue entry of function 0, in the order of its queue's slots, then the vector that signals it. The
vector of a queue is the host's choice when it creates the queue, which no command here shows (a free number). -/
def State.directCompletion (s : State) (queue : Nat) : State :=
  if !s.directRuns then s else
  let slot := ((s.direct.slots.find? (·.1 == queue)).map (·.2)).getD 0
  let s := s.onDirect fun d => { d with slots := putBy (·.1) (queue, slot + 1) d.slots }
  let (v, s) := ((s.writeTlps 16).emit (.direct (.completion queue slot))).draw
  s.fire 0 (if queue = 0 then 0 else v % 129)

end Sys2Proof.Machine
end

