-- ==== Sys2Proof/Machine/Ops.lean ====
section
/-! DEFINITION. Fault records and notices (R445, R556–R561): what every block writes when its rule says that the module writes
a fault record. -/

set_option Elab.async false

namespace Sys2Proof.Machine

/-! Notices (R445, R427). -/

/-- The TYPE of a notice (Table 17.6). -/
def NoticeBody.type : NoticeBody → Nat
  | .faultRecord _ => 1 | .anaChange .. => 2 | .energyState _ => 3 | .slotEvent .. => 4
  | .longOpEnded _ => 5 | .proposalOpen _ => 6 | .trialEnded _ => 7 | .leadChange _ => 8

/-- A fault record as its 64 bytes (Table 23.5). -/
def FaultRecord.bytes (r : FaultRecord) : Bytes :=
  leBytes 8 r.number ++ leBytes 4 r.boot ++ leBytes 4 r.rep ++ leBytes 8 r.meas.toNat ++ leBytes 8 r.time.toNat ++
  leBytes 1 r.source ++ leBytes 1 r.severity ++ leBytes 2 r.code ++ leBytes 1 r.flags ++ leBytes 1 r.domain ++
  leBytes 1 r.part ++ leBytes 1 r.region ++ leBytes 8 r.addr ++ leBytes 4 r.data ++ leBytes 2 r.dataOff ++ leBytes 10 0

/-- The DATA bytes of a notice (Table 17.6). -/
def NoticeBody.bytes : NoticeBody → Bytes
  | .faultRecord r => r.bytes
  | .anaChange g st => leBytes 1 g ++ leBytes 1 st
  | .energyState w => leBytes 4 w.toNat
  | .slotEvent k w => leBytes 1 k ++ leBytes 4 w.toNat
  | .longOpEnded e => e
  | .proposalOpen p => leBytes 8 p.toNat
  | .trialEnded fr => fr
  | .leadChange w => leBytes 4 w.toNat

/-- The parameters of a notice packet (Table 17.6), with FLAGS bit 0 LOST. -/
def Notice.params (n : Notice) (lost : Bool) : Bytes :=
  leBytes 2 n.body.type ++ leBytes 1 (if lost then 1 else 0) ++ leBytes 5 0 ++ leBytes 8 n.number ++
  leBytes 8 n.meas.toNat ++ n.body.bytes

/-- The 32-byte header of Table 17.1. -/
def packetHeader (kind sealed session seq tag opcode status length : Nat) : Bytes :=
  leBytes 1 1 ++ leBytes 1 kind ++ leBytes 2 sealed ++ leBytes 4 session ++ leBytes 8 seq ++ leBytes 2 tag ++
  leBytes 2 opcode ++ leBytes 2 status ++ leBytes 2 0 ++ leBytes 4 length ++ leBytes 4 0

/-- The IV of a management packet (R420): 0x08, the direction, two zero bytes, then the counter SEQ. -/
def packetIv (fromModule : Bool) (seq : Nat) : Bytes := leBytes 1 8 ++ leBytes 1 (if fromModule then 1 else 0) ++ leBytes 2 0 ++ leBytes 8 seq

/-- The SESSION word of an open session: [31:8] generation, [7:0] key slot. -/
def McpSession.word (m : McpSession) : Nat := m.generation * 256 + m.slot

/-- A packet sealed under the session key (R420): header, encrypted parameters, tag. -/
def sealPacket (m : McpSession) (kind tag opcode status : Nat) (params : Bytes) : Bytes :=
  let h := packetHeader kind 1 m.word (m.sent + 1) tag opcode status params.length
  let c := Config.gcmEncrypt m.key (packetIv true (m.sent + 1)) h params
  h ++ c ++ Config.gcmTag m.key (packetIv true (m.sent + 1)) h c

/-- Write a run of bytes into consecutive register words, four bytes each, little-endian. -/
def State.setWords (s : State) (a : Nat) : Nat → Bytes → State
  | 0, _ => s
  | n + 1, bs => (s.setReg a (BitVec.ofNat 64 (leNat (bs.take 4)))).setWords (a + 4) n (bs.drop 4)

/-- The bytes of `n` consecutive register words. -/
def State.getWords (s : State) (a : Nat) : Nat → Bytes
  | 0 => []
  | n + 1 => leBytes 4 (s.reg a).toNat ++ s.getWords (a + 4) n

/-- A notice of some parameter bytes has been sealed and sent in a session (R410, R420). -/
def State.noticeSent (s : State) (m : McpSession) (len : Nat) : State :=
  ((s.onMcp fun x => { x with sessions := setBy McpSession.slot m.slot (fun y => { y with sent := y.sent + 1 }) x.sessions }).count
    CIP_GCM_BYTES.addr len).count MCP_TX.addr

/-- R424: send a packet on a transport. A UDP datagram of more than 1,500 bytes, its 8-byte header included, goes out in fragments
(DESIGN CHOICE, log 185). -/
def State.packetOut (s : State) (transport address : Nat) (bytes : Bytes) : State :=
  s.emit (if (transport = 3 ∨ transport = 4) ∧ 1500 < bytes.length + 8 then .fragments transport address bytes else .packet transport address bytes)

/-- R427: a notice for a mailbox session goes into the notice ring, or is counted lost when the ring is full. -/
def State.mailboxNotice (s : State) (m : McpSession) (n : Notice) : State :=
  let h := s.rd MCP_NTC_HEAD.HEAD
  if (h + 1) % 16 = s.rd MCP_NTC_TAIL.TAIL then
    (s.count MCP_NTC_LOST.addr).onMcp fun x => { x with lost := true }
  else
    let t := s.setWords (MCP_NTC.addr (128 * h)) 128 (sealPacket m 3 0 0 0 (n.params s.mcp.lost))
    let t := (t.wr MCP_NTC_HEAD.HEAD ((h + 1) % 16)).onMcp fun x => { x with lost := false }
    ((t.noticeSent m (n.params s.mcp.lost).length).fire 1 1).raisePme

/-- Deliver one notice to one session: into the mailbox ring, or as a packet to its address. -/
def State.deliverNotice (s : State) (n : Notice) (m : McpSession) : State :=
  if m.mask / 2 ^ n.body.type % 2 = 1 then
    if m.bound.transport = 5 then s.mailboxNotice m n
    else (s.packetOut m.bound.transport m.bound.address (sealPacket m 3 0 0 0 (n.params false))).noticeSent m (n.params false).length
  else s

/-- R445: number a notice, keep it among the last 64, and send it to every session that subscribed to its type. -/
def State.notify (s : State) (b : NoticeBody) : State :=
  let n : Notice := ⟨s.mcp.nextNotice, s.clock.current, b⟩
  (s.onMcp fun x => { x with notices := (n :: x.notices).take 64, nextNotice := x.nextNotice + 1 }).each s.mcp.sessions
    fun m t => t.deliverNotice n m

/-! Fault records (R556–R561). -/

/-- What an event says of itself when it writes a fault record; the unnamed fields of Table 23.5 take "none". -/
structure FaultEvent where
  cls : Nat
  code : Nat
  severity : Nat
  source : Nat
  addr : Nat := 0
  data : Nat := 0
  dataOff : Nat := 0
  flags : Nat := 0
  domain : Nat := 255
  part : Nat := 255
  region : Nat := 255
  deriving DecidableEq, Repr

/-- The record an event makes, before it has a number (R556). -/
def State.faultRecord (s : State) (e : FaultEvent) : FaultRecord where
  number := 0
  boot := s.cfg.boot
  rep := 0
  meas := if s.gridRuns then s.clock.current else 0
  time := s.clock.timeNs
  source := e.source
  severity := e.severity
  code := e.cls * 256 + e.code
  flags := e.flags
  domain := e.domain
  part := e.part
  region := e.region
  addr := e.addr
  data := e.data
  dataOff := e.dataOff
  read := false

/-- R558: whether a record coalesces into the newest one. -/
def coalesces (new old : FaultRecord) : Bool :=
  new.source == old.source && new.code == old.code && new.region == old.region && new.addr == old.addr &&
  decide (new.time.toNat - old.time.toNat ≤ 1000000)

/-- R559: put a record into the ring under the next NUMBER, overwriting the oldest when 4,096 are held. -/
def State.enterRing (s : State) (r : FaultRecord) : State :=
  let r := { r with number := s.rd64 FLT_NEXT.addr, flags := if s.flt.gap then r.flags ||| 8 else r.flags }
  let s := (s.count FLT_NEXT.addr).count FLT_RECORDS.addr
  if s.flt.ring.length < 4096 then s.onFlt fun x => { x with ring := r :: x.ring, gap := false }
  else
    let unread := s.flt.ring.getLast?.any fun o => !o.read
    ((s.onFlt fun x => { x with ring := r :: x.ring.take 4095, gap := unread }).count FLT_OLDEST.addr).count FLT_OVERWRITTEN.addr

/-- R560: a record of severity 4 goes into the latch on the entry's bias supply. -/
def State.latchRecord (s : State) (r : FaultRecord) : State :=
  (s.setWords (FLT_LATCH.addr 0) 16 r.bytes).wr FLT_STAT.LATCHV 1 |>.onFlt fun x => { x with latched := some r }

/-- R561: a record of IRQ_SEV or above sets PEND and interrupts Ronhenko; SEV keeps the highest since PEND cleared. -/
def State.raisePend (s : State) (sev : Nat) : State :=
  let s := s.wr FLT_STAT.SEV (max (s.rd FLT_STAT.SEV) sev)
  if s.rd FLT_CFG.IRQ_SEV ≤ sev then (s.wr FLT_STAT.PEND 1).emit (.interrupt .fault) else s

/-- A record that does not coalesce enters the latch if fatal, the ring, and the interrupt and notice paths. -/
def State.newRecord (s : State) (r : FaultRecord) : State :=
  let r' := { r with number := s.rd64 FLT_NEXT.addr }
  let s := if r.severity = 4 then s.latchRecord r' else s
  let s := (s.enterRing r).raisePend r.severity
  if 1 ≤ r.severity then s.notify (.faultRecord r') else s

/-- R560: a record made in Dormant stays in the Wallflower's SRAM, up to 64 of them. -/
def State.dormantRecord (s : State) (r : FaultRecord) : State :=
  if s.flt.dormant.length < 64 then s.onFlt fun x => { x with dormant := { r with flags := r.flags ||| 4 } :: x.dormant }
  else s.onFlt fun x => { x with gap := true }

/-- R558, in Dormant: one more event of the newest record. -/
def State.coalesceDormant (s : State) : State :=
  (s.onFlt fun x => { x with dormant := match x.dormant with
    | [] => []
    | o :: rest => { o with rep := min (o.rep + 1) 0xFFFFFFFF } :: rest }).count FLT_COALESCED.addr

/-- R556–R561: an event writes its fault record: kept for the wake in Dormant, coalesced into the newest record when
identical and within 1 ms (R558), else a new record. -/
def State.fault (s : State) (e : FaultEvent) : State :=
  let r := s.faultRecord e
  if s.power.dormant then (if s.flt.dormant.head?.any (coalesces r) then s.coalesceDormant else s.dormantRecord r) else
  match s.flt.ring with
  | [] => s.newRecord r
  | old :: rest =>
    if coalesces r old then
      (s.onFlt fun x => { x with ring := { old with rep := min (old.rep + 1) 0xFFFFFFFF } :: rest }).count FLT_COALESCED.addr
    else s.newRecord r

/-- A record of class 0x01: its DATA is MIN_ERR (R557). -/
def State.integrityFault (s : State) (code severity region addr : Nat) (test : Bool) : State :=
  s.fault { cls := 1, code := code, severity := severity, source := 8, addr := addr, data := (s.reg MIN_ERR.addr).toNat, dataOff := 0x18,
            flags := if test then 1 else 0, region := region }

end Sys2Proof.Machine
end

