-- ==== Sys2Proof/Machine/Operands.lean ====
section
/-! DEFINITION. The register operand: what a read or a write of one register does, by access code (Table 0.4), access
size (R5), assignment (R14, R15), power domain (R471) and the writer's rights (the write rule of each block). -/

set_option Elab.async false

namespace Sys2Proof.Machine

/-! Partition permissions in effect: TWO_PERMp holds Table 18.4 from content offset 4. -/

/-- Bits of content word `w` of partition `p`. -/
def State.permBits (s : State) (p w hi lo : Nat) : Nat := s.rd ⟨TWO_PERM.addr p w, hi, lo⟩

def State.partClusters (s : State) (p : Nat) : Nat := s.permBits p 0 7 0
def State.partGrants (s : State) (p : Nat) : Nat := s.permBits p 0 15 8
def State.partQueuePairs (s : State) (p : Nat) : Nat := s.permBits p 0 31 16
def State.partMemBase (s : State) (p : Nat) : Nat := s.permBits p 1 31 0 + s.permBits p 2 31 0 * 2 ^ 32
def State.partMemLen (s : State) (p : Nat) : Nat := s.permBits p 3 31 0 + s.permBits p 4 31 0 * 2 ^ 32
def State.partWindows (s : State) (p : Nat) : Nat := s.permBits p 5 31 0 + s.permBits p 6 31 0 * 2 ^ 32
def State.partQueueSets (s : State) (p : Nat) : Nat := s.permBits p 7 3 0

/-- The partition that holds cluster `c`, if one does; Ronhenko holds the rest (R504). -/
def State.clusterOwner (s : State) (c : Nat) : Option Nat := (List.range 8).find? fun p => bitOf (s.partClusters p) c

/-- R519: the partition that owns engine queue set `q`, if it is granted. -/
def State.queueSetOwner (s : State) (q : Nat) : Option Nat :=
  if bitOf (s.partQueueSets (q / 4)) (q % 4) then some (q / 4) else none

/-- R576: partition `p` has counter read permission in effect. -/
def State.counterRead (s : State) (p : Nat) : Bool := s.flag (PMC_PEN.PEN p)

/-! Power domains of the blocks (Table 19.2). -/

/-- The power domain of a register block; none for the unswitched core. -/
def blockDomain (n : Nat) : Option Nat :=
  if 0x70 ≤ n ∧ n ≤ 0x77 then some (64 + (n - 0x70))
  else if 0x10 ≤ n ∧ n ≤ 0x13 then some (112 + (n - 0x10))
  else if 0x28 ≤ n ∧ n ≤ 0x57 then some (116 + (n - 0x28) / 4)
  else if n = 0x60 then some 128 else if n = 0x24 then some 129 else if n = 0x18 then some 150
  else if n = 0x0C then some 152 else if n = 0x03 ∨ n = 0x04 ∨ n = 0x05 then some 153 else none

/-- The two bits of PWR_DSTAT that show domain `d`: 0 On, 1 Gated, 2 Off, 3 changing. -/
def domainField (d : Nat) : Fld := ⟨PWR_DSTAT.addr (d / 16), 2 * (d % 16) + 1, 2 * (d % 16)⟩

def State.domainState (s : State) (d : Nat) : Nat := s.rd (domainField d)

/-- The domain that keeps an access from block `n`, when it is not On (R471). -/
def State.offDomain (s : State) (n : Nat) : Option Nat :=
  match blockDomain n with
  | some d => if s.domainState d = 0 then none else some d
  | none => none

/-- R471: an access to a domain that is not On is recorded in PWR_OFFACC and counted. -/
def State.offAccess (s : State) (n d : Nat) : State :=
  let s := if s.flag PWR_OFFACC.VALID then s.wr PWR_OFFACC.MULTI 1
    else s.wrs [(PWR_OFFACC.VALID, 1), (PWR_OFFACC.DOMAIN, d), (PWR_OFFACC.BLOCK, n)]
  s.count PWR_OFFACC_CNT.addr

/-! Who may write what. -/

/-- R17: FLAGS of the direct-host entry of the module's own midplane position; 0 while it is absent. -/
def State.directRights (s : State) : Nat :=
  match s.two.objects.find? fun o => o.object == 2 && o.inst == 4094 + s.cfg.position with
  | some o => numAt o.content 0 1
  | none => 0

/-- R437: the blocks that management Register Write may write, which bound the direct host too (R17). -/
def managementWrites (h : RegHit) : Bool :=
  !([0x00, 0x0B, 0x0C, 0x0D, 0x08, 0x09].contains h.block) && !h.is EFU_CMD.addr

/-- What Ronhenko may write: not EFU_CMD, and of the mailbox and of TWO_ only what R446 and R459 name. -/
def ronhenkoWrites (h : RegHit) : Bool :=
  !h.is EFU_CMD.addr && (h.block != 0x0D || h.is MCP_CFG.addr) &&
  (h.block != 0x0B || h.is TWO_PSEL.addr || h.is TWO_CFG.addr || h.is TWO_STAT.addr || h.is (TWO_PERM.addr 0 0))

/-- The rule of each block's chapter for who may write a register (R179, R198, R232, R269, R294, R317, R342, R362, R383,
R400, R418, R446, R459, R483, R503, R518, R536, R567, R577). -/
def State.mayWrite (s : State) (who : Requester) (h : RegHit) : Bool :=
  match who with
  | .ronhenko => ronhenkoWrites h
  | .wallflower => h.block == 0x03 || h.block == 0x04 || h.block == 0x22
  | .directHost =>
    h.is MCP_REQ_DB.addr || h.is MCP_RPL_RDY.addr || h.is MCP_NTC_TAIL.addr || h.is (MCP_REQ.addr 0) ||
    (bitOf s.directRights 2 && bitOf s.directRights 3 && managementWrites h && ronhenkoWrites h)
  | .partition p =>
    (h.block == 0x24 && 0x100 ≤ h.row.off && h.row.off < 0x200 && h.i == 8 + p && bitOf (s.partGrants p) 1) ||
    (h.block == 0x24 && 0x1000 ≤ h.row.off && bitOf (s.partWindows p) h.i) ||
    (h.is (CLU_MAINT.addr 0) && s.clusterOwner h.inst == some p) ||
    (h.block == 0x78 && 0x1000 ≤ h.row.off && s.queueSetOwner (h.i / 4) == some p) ||
    ((h.is (PMC_SEL.addr 0) || h.is (PMC_CNT.addr 0)) && s.counterRead p && 16 + 4 * p ≤ h.i && h.i ≤ 19 + 4 * p) ||
    (h.is (PMC_CEVT.addr 0 0) && s.counterRead p && s.clusterOwner h.i == some p) ||
    (h.is QPC_CMD.addr || h.is QPC_CMD_IDX.addr || h.is QPC_CMD_ADDR.addr || h.is QPC_DB.addr)

/-- R505 and the read rules of the blocks: what a partition's cores may read. -/
def State.mayRead (s : State) (who : Requester) (h : RegHit) : Bool :=
  match who with
  | .partition p =>
    s.mayWrite who h || (h.block / 8 == 0x0E && s.clusterOwner h.inst == some p) ||
    (s.counterRead p && h.block != 0x0C && h.block != 0x0D && h.block != 0x0B) ||
    (s.counterRead p && (h.is TWO_STAT.addr || ((h.block == 0x0C || h.block == 0x0D) && h.row.wide && 0x100 ≤ h.row.off)))
  | .directHost => h.block == 0x0D || bitOf s.directRights 2
  | _ => true

/-! What a field stores. -/

/-- A field's own position in the register file. -/
def RegHit.fld (_ : RegHit) (addr : Nat) (f : FieldRow) : Fld := ⟨addr, f.hi, f.lo⟩

/-- A signed 32-bit value. -/
def signed32 (v : Nat) : Int := (BitVec.ofNat 32 v).toInt

/-- The last value written to an RWM field: the waiting write if there is one (R7). -/
def State.lastWritten (s : State) (f : Fld) : Nat :=
  match s.rwm.find? (fun w => w.addr == f.addr && w.lo == f.lo) with
  | some w => w.val
  | none => s.rd f

/-- What a field stores for a written number: none when a value outside the range is not stored. -/
def State.limited (s : State) (l : Limit) (v : Nat) : Option Nat :=
  match l with
  | .any => some v
  | .clamp lo hi => some (max lo (min v hi))
  | .clampEven lo hi => some (max lo (min v hi) / 2 * 2)
  | .even => some (v / 2 * 2)
  | .only lo hi => if lo ≤ v ∧ v ≤ hi then some v else none
  | .signedMag m =>
    some (BitVec.ofInt 32 (max (-(m : Int)) (min (signed32 v) m))).toNat
  | .threeOrFive => some (if v = 5 then 5 else 3)
  | .renew =>
    let most := s.lastWritten LTK_CFG.LEASE * 250
    some (max 100 (min v most))
  | .peerCycle => some (if v = 0 then 0 else if v < 50 then 0 else if v = 50 then (if Config.peerCycleTieUp then 100 else 0)
      else max 100 (min v 60000))
  | .watchdog => some (if v = 0 then 0 else if v < 10 then 10 else if v ≤ 60000 then v else Config.watchdogAboveRange v)
  | .laneRate => some v

/-- R196: an IDLE above the lane rate stores the lane rate (Mb/s), which follows the port's breakout. -/
def State.laneRateMb (s : State) (p : Nat) : Nat := 800000 / (s.cfg.lanes.getD p 1)

/-! Writing. -/

/-- R10: put an RWM write among those that wait, replacing an earlier one of the same field. -/
def State.queueRwm (s : State) (f : Fld) (v : Nat) : State :=
  s.onRwm (putBy (fun w : RwmWrite => w.addr * 64 + w.lo) ⟨f.addr, f.hi, f.lo, v⟩)

/-- Remember one requester's word of a pair, replacing its earlier one. -/
def putPair (l : List PairWord) (who : Requester) (addr : Nat) (v : Word) : List PairWord :=
  ⟨who, addr, v⟩ :: l.filter (fun w => !(w.who == who && w.addr == addr))

def findPair (l : List PairWord) (who : Requester) (addr : Nat) : Option Word :=
  (l.find? (fun w => w.who == who && w.addr == addr)).map (·.val)

def dropPair (l : List PairWord) (who : Requester) (addr : Nat) : List PairWord :=
  l.filter (fun w => !(w.who == who && w.addr == addr))

/-- The written bits of one field: the part of the 32-bit value that falls in it, as the field's own number, and the
field as the write reaches it (a half of a pair's one field). -/
def writtenPart (h : RegHit) (base : Nat) (f : FieldRow) (v : Nat) : Fld × Nat :=
  if h.row.wide then (if h.high then ⟨base, 63, 32⟩ else ⟨base, 31, 0⟩, v)
  else (⟨base, f.hi, f.lo⟩, extractBits v f.hi f.lo)

/-- A write reaches one field, by its access code; fields that have a row of their own are left to it. The field of an address
pair holds all its 64 bits, also those above and below the address that its rule uses (DESIGN CHOICE, log 137). -/
def State.writeField (s : State) (h : RegHit) (base : Nat) (f : FieldRow) (v : Nat) : State :=
  let (fl, x) := writtenPart h base f v
  if f.own && !(h.row.wide && !h.high && f.acc == .rw && h.block != 0x0A) then s else
  match f.acc with
  | .ro | .rc | .wo | .rwt => s
  | .rw => match s.limited f.lim x with | some y => s.wr fl y | none => s
  | .rwm =>
    match s.limited f.lim x with
    | some y => s.queueRwm fl (if f.lim = .laneRate then min y (s.laneRateMb h.inst) else y)
    | none => s
  | .w1c => s.wr fl (s.rd fl - (s.rd fl &&& x))
  | .w1s => s.wr fl (s.rd fl ||| x)

/-- Whether the rules of the block discard this write in the block's present state. -/
def State.writeBlocked (s : State) (h : RegHit) : Bool :=
  ((h.is (EWQ_QBASE.addr 0) || h.is (EWQ_QCBASE.addr 0)) && s.rd (EWQ_QSTAT.STATE h.i) != 0)

/-- Writes a register discards without a record: a fixed rule (R492), a busy request slot (R426). -/
def State.writeIgnored (s : State) (h : RegHit) : Bool :=
  (h.block == 0x05 && 0x400 ≤ h.row.off && h.row.off < 0x800 && h.i < 4) ||
  (h.is (MCP_REQ.addr 0) && bitOf (s.rd MCP_REQ_BUSY.BUSY) (h.i / 1024))

/-- R486, R490, R502, Table 20.3: what a write to a WFL_ register does beside storing: a written SHIFT restarts its filter,
a written CTL applies its rule at the next sweep, CTRL_EN starts the controller, and an ACT keeps no action that its rule may
not take. -/
def State.wallWritten (s : State) (h : RegHit) : State :=
  if h.is (WFL_FLT.addr 0) then s.onWall fun w => { w with restart := h.i :: w.restart.filter (· != h.i) }
  else if h.is (WFL_RULE_CTL.addr 0) then s.onWall fun w => { w with toApply := h.i :: w.toApply.filter (· != h.i) }
  else if h.is WFL_CTL.addr then s.wr WFL_STAT.CTRL_RUN (s.rd WFL_CTL.CTRL_EN)
  else if h.is (WFL_RULE_ACT.addr 0) then
    let arg := s.rd (WFL_RULE_ACT.ARG h.i)
    if s.rd (WFL_RULE_ACT.OP h.i) = 5 then s.wr (WFL_RULE_ACT.OP h.i) 0
    else if s.rd (WFL_RULE_ACT.OP h.i) = 2 && !(112 ≤ arg && arg ≤ 129) then s.wr (WFL_RULE_ACT.ARG h.i) 0
    else s
  else s

/-- Table 24.2: whether an event offers a counting mode: level of conditions, sum where a unit is given. -/
def modeOffered (event mode : Nat) : Bool :=
  mode == 0 || (mode == 1 && [0x03, 0x04, 0x12, 0x32, 0x40, 0x41, 0x51, 0x61].contains event) ||
  (mode == 2 && [0x01, 0x02, 0x20, 0x30, 0x31, 0x50, 0x52].contains event)

/-- Rules that tie a field's stored value to another field, after the plain write: EWQ SIZE is written only while
Disabled; clearing FLT_STAT.PEND restarts SEV; a PMC_SEL mode that the event does not offer stores 0. -/
def State.writeFields (s : State) (h : RegHit) (base : Nat) (v : Nat) : State :=
  if h.is (EWQ_QCTL.addr 0) && s.rd (EWQ_QSTAT.STATE h.i) != 0 then s else
  let t := h.row.fields.foldl (fun s f => s.writeField h base f v) s
  if h.is FLT_STAT.addr && bitOf v 31 then t.wr FLT_STAT.SEV 0
  else if h.is (PMC_SEL.addr 0) && !modeOffered (extractBits v 15 0) (extractBits v 28 27) then t.wr (PMC_SEL.MODE h.i) 0
  else if h.block == 0x05 then t.wallWritten h
  else t

/-- The record of a write that the writer may not make (Table 23.17, 0x82), or of a guard fault (0x83). -/
def State.deniedWrite (s : State) (who : Requester) (n addr value : Nat) : State :=
  match who with
  | .partition p => s.fault { cls := 2, code := 0x83, severity := 1, source := n, addr := addr, part := p }
  | _ => s.fault { cls := 2, code := 0x82, severity := 1, source := n, addr := addr, data := value }

/-- The home address of the register hit at `addr` (the low word of a pair). -/
def RegHit.base (h : RegHit) (addr : Nat) : Nat := if h.high then addr - 4 else addr

/-- R589: note the word of a pair for its requester: a low word is kept, a high word uses it up. -/
def State.notePairWrite (s : State) (who : Requester) (h : RegHit) (addr : Nat) (v : Word) : State :=
  if h.row.wide then
    if h.high then s.onLowWord (dropPair · who (h.base addr)) else s.onLowWord (putPair · who addr v)
  else s

/-- R589: the 64-bit value of a request made by writing a high word. -/
def State.pairRequest (s : State) (who : Requester) (base : Nat) (hi : Word) : DWord :=
  hi.setWidth 64 <<< 32 ||| ((findPair s.lowWord who base).getD 0).setWidth 64

/-- A register write by a requester that has the right to make it. -/
def State.applyWrite (s : State) (who : Requester) (addr : Nat) (v : Word) : State :=
  match findReg addr with
  | none => s.emit (.regDone who addr)
  | some h =>
    if s.writeIgnored h then
      (if h.is (MCP_REQ.addr 0) then s.count MCP_MBX_REJ.addr else s).emit (.regDone who addr)
    else if s.writeBlocked h then (s.deniedWrite who h.block addr v.toNat).emit (.regDone who addr)
    else ((s.writeFields h (h.base addr) v.toNat).notePairWrite who h addr v).emit (.regDone who addr)

/-- R15, R471: the word of an access that ends in an error: a read returns all ones, a write nothing. -/
def errorWord (write : Bool) : Option Word := if write then none else some 0xFFFFFFFF

/-- R15: an access to an unassigned block. -/
def State.unassignedAccess (s : State) (who : Requester) (addr : Nat) (write : Bool) : State :=
  (s.fault { cls := 2, code := 0x80, severity := 1, source := 255, addr := addr }).emit (.regError who addr (errorWord write))

/-- What a requester's access meets before it reaches a register: a bad size (R5), an unassigned block (R15), a domain
that is not On (R471). The size is looked at first, whatever the address (DESIGN CHOICE, log 139). -/
inductive Reach where
  | badSize
  | unassigned
  | off (block domain : Nat)
  | reached
  deriving DecidableEq, Repr

def State.reach (s : State) (addr width : Nat) : Reach :=
  if width ≠ 4 ∨ addr % 4 ≠ 0 then .badSize
  else match blockNumber addr with
  | none => .unassigned
  | some n =>
    if (findBlock n blockTable).isNone then .unassigned
    else match s.offDomain n with
    | some d => .off n d
    | none => .reached

/-- A register write (R5, R7, R14, R15, R471 and the rights). -/
def State.writeRegister (s : State) (who : Requester) (addr width : Nat) (v : Word) : State :=
  match s.reach addr width with
  | .badSize => s.emit (.regError who addr none)
  | .unassigned => s.unassignedAccess who addr true
  | .off n d => (s.offAccess n d).emit (.regError who addr (errorWord true))
  | .reached =>
    match findReg addr with
    | some h => if s.mayWrite who h then s.applyWrite who addr v else (s.deniedWrite who h.block addr v.toNat).emit (.regDone who addr)
    | none => s.applyWrite who addr v

/-! Reading. -/

/-- Registers that show a live value of the state (R32, R37, R447), and the counters of a partition without permission, which
read 0 (R577): the value of the pair or register homed at `base`. -/
def State.liveValue (s : State) (base : Nat) : DWord :=
  if base = MEAS_TIME.addr then s.clock.timeNs
  else if base = MEAS_NUM.addr then BitVec.ofNat 64 s.measureNumber
  else if PMC_CNT.addr 16 ≤ base ∧ base ≤ PMC_CNT.addr 47 ∧ !s.counterRead ((base - PMC_CNT.addr 16) / 32) then 0
  else if TWO_DIGEST.addr 0 ≤ base ∧ base < TWO_DIGEST.addr 12 then
    BitVec.ofNat 64 (numAt (setupDigest s.two.objects) (base - TWO_DIGEST.addr 0) 4)
  else s.reg base

/-- The readable number of one field: WO reads 0; RWM reads the value last written. -/
def State.fieldShown (s : State) (base : Nat) (f : FieldRow) : Nat :=
  match f.acc with
  | .wo => 0
  | .rwm => s.lastWritten ⟨base, f.hi, f.lo⟩
  | _ => extractBits (s.liveValue base).toNat f.hi f.lo

/-- The word a read of a 32-bit register returns; reserved bits read 0 (R4). -/
def State.shownWord (s : State) (h : RegHit) (base : Nat) : Word :=
  BitVec.ofNat 32 (h.row.fields.foldl (fun w f => w + s.fieldShown base f * 2 ^ f.lo) 0)

/-- R9: a read clears the RC fields. -/
def State.clearOnRead (s : State) (h : RegHit) (base : Nat) : State :=
  h.row.fields.foldl (fun s f => if f.acc = .rc then s.wr ⟨base, f.hi, f.lo⟩ 0 else s) s

/-- R6, R7, R9, R14: what a read of an assigned, powered register returns, and the state after it. -/
def State.readReg (s : State) (who : Requester) (addr : Nat) : Word × State :=
  match findReg addr with
  | none => (0, s)
  | some h =>
    let b := h.base addr
    if h.row.wide then
      let v := if h.row.fields.any (fun f => f.acc == .wo) then 0 else s.liveValue b
      let hi : Word := BitVec.ofNat 32 (v.toNat / 2 ^ 32)
      if h.high then
        match findPair s.hiLatch who b with
        | some w => (w, s.onHiLatch (dropPair · who b))
        | none => (hi, s)
      else (BitVec.ofNat 32 v.toNat, s.onHiLatch (putPair · who b hi))
    else (s.shownWord h b, s.clearOnRead h b)

/-- A register read, answered (R5, R14, R15, R471, R505). -/
def State.readRegister (s : State) (who : Requester) (addr width : Nat) : State :=
  match s.reach addr width with
  | .badSize => s.emit (.regError who addr none)
  | .unassigned => s.unassignedAccess who addr false
  | .off n d => (s.offAccess n d).emit (.regError who addr (errorWord false))
  | .reached =>
    match findReg addr with
    | some h =>
      if s.mayRead who h then (s.readReg who addr).2.emit (.regValue who addr (s.readReg who addr).1)
      else (s.deniedWrite who h.block addr 0).emit (.regError who addr none)
    | none => s.emit (.regValue who addr 0)

/-- R42: a register whose fields steps 2 to 6 of Table 2.6 change: an RWM or RWT field, what a commit changes (the TWO_ block,
the guards and states of partitions, PMC_PEN), an epoch, a gate list, the layout in force, the state of a set, a pool write
turned away. -/
def boundaryRegister (addr : Nat) : Bool :=
  match findReg addr with
  | none => false
  | some h =>
    h.row.fields.any (fun f => f.acc == .rwm || f.acc == .rwt) || h.is SWC_EPOCH.addr || h.is (NET_GSTAT.addr 0) ||
    h.is (NET_GCYCLE_ACT.addr 0) || h.is (NET_GCL_A0.addr 0 0) || h.is (NET_GCL_A1.addr 0 0) || h.is (QDL_GEOM.addr 0) ||
    h.is (QDL_GEN.addr 0) || h.is (QDL_CAP.addr 0) || h.is (QDL_SLICES.addr 0) || h.is (QDL_HT.addr 0) ||
    h.block == 0x0B || h.is (RBD_SSTAT.addr 0) || h.is (CLU_PSTAT.addr 0) || h.is (CLU_CTL.addr 0) || h.is (PMC_PEN.addr 0) ||
    h.is SWC_STAT.addr

end Sys2Proof.Machine
end

