-- ==== Sys2Proof/Machine/Flags.lean ====
section
/-! DEFINITION. Flags and status fields: setting a flag with its fault record (R557), command registers with BUSY and
STATUS, a register write that is a command of its own, and the events that raise or clear a condition. -/

set_option Elab.async false

namespace Sys2Proof.Machine

/-- R557: an event that sets a flag writes a record whose code is the flag's bit number and whose DATA is the register
after the flag is set, with its offset. -/
def State.flagFault (s : State) (f : Fld) (cls severity source : Nat) (addr : Nat := 0) : State :=
  let s := s.wr f 1
  s.fault { cls := cls, code := f.lo, severity := severity, source := source, addr := addr,
            data := (s.reg f.addr).toNat % 2 ^ 32, dataOff := blockOffset f.addr }

/-- R557: an event that sets no flag and that Table 23.17 does not name: code 0xFF of its class, DATA 0. -/
def State.plainFault (s : State) (cls severity source : Nat) (addr : Nat := 0) : State :=
  s.fault { cls := cls, code := 0xFF, severity := severity, source := source, addr := addr }

/-- R43: an action reaches the scheduler after the boundary instant of its target. Table 23.6 puts Missed among the recorded
events (DEDUCED, log 31). -/
def State.missedTarget (s : State) (target : Nat) : State := s.flagFault MEAS_STAT.MISSED 6 1 2 target

/-- A write to a register whose write is a command of its own: the access is checked as any other, the fields that have
no row take the written value, and then the command acts. -/
def State.commandWrite (s : State) (who : Requester) (addr : Nat) (v : Word) (act : State → State) : State :=
  match s.reach addr 4 with
  | .badSize => s.emit (.regError who addr none)
  | .unassigned => s.unassignedAccess who addr true
  | .off n d => (s.offAccess n d).emit (.regError who addr none)
  | .reached =>
    match findReg addr with
    | none => s.emit (.regDone who addr)
    | some h =>
      if s.mayWrite who h then (act (s.writeFields h (h.base addr) v.toNat)).notePairWrite who h addr v |>.emit (.regDone who addr)
      else (s.deniedWrite who h.block addr v.toNat).emit (.regDone who addr)

end Sys2Proof.Machine
end

