-- ==== Sys2Proof/Machine/Mem.lean ====
section
/-! DEFINITION. Module memory (R270): DRAM as a list of address and byte pairs in one canonical form, addresses strictly
rising and no byte equal to 0, which is what an unlisted byte reads as (log 5). -/

set_option Elab.async false

namespace Sys2Proof.Machine

/-- What a byte of memory that nothing has written reads as: the fill of R540 gives no content (DESIGN CHOICE, log 5). -/
def Memory.unlisted : Byte := 0

/-- DRAM that can be addressed (Table 1.2, R538): 256 GB from address 0 (DESIGN CHOICE, log 189). -/
def dramBytes : Nat := 256 * 10 ^ 9

def Memory.get (a : Nat) : List Host.Cell → Byte
  | [] => Memory.unlisted
  | c :: cs => if c.1 = a then c.2 else Memory.get a cs

def Memory.erase (a : Nat) : List Host.Cell → List Host.Cell
  | [] => []
  | c :: cs => if c.1 = a then Memory.erase a cs else c :: Memory.erase a cs

def Memory.insert (c : Host.Cell) : List Host.Cell → List Host.Cell
  | [] => [c]
  | d :: ds => if c.1 < d.1 then c :: d :: ds else d :: Memory.insert c ds

/-- Store one byte, keeping the canonical form. -/
def Memory.set (a : Nat) (b : Byte) (m : List Host.Cell) : List Host.Cell :=
  if b = Memory.unlisted then Memory.erase a m else Memory.insert (a, b) (Memory.erase a m)

/-- Store bytes at rising addresses. -/
def Memory.setMany (a : Nat) : Bytes → List Host.Cell → List Host.Cell
  | [], m => m
  | b :: bs, m => Memory.setMany (a + 1) bs (Memory.set a b m)

/-- The canonical form of memory. -/
abbrev Memory.wf (m : List Host.Cell) : Prop :=
  m.Pairwise (fun c d => c.1 < d.1) ∧ ∀ c ∈ m, c.2 ≠ Memory.unlisted

/-- The `n` bytes at an address. -/
def State.load (s : State) (a n : Nat) : Bytes := (List.range n).map fun i => Memory.get (a + i) s.mem

/-- R539, R544, R555: what a store of `n` bytes does to the parity of its lines: a line wholly written is good again, and the
first store to the line of an armed test leaves it bad and uses the test. -/
def State.markStore (s : State) (a n : Nat) : State :=
  let s := if s.integrity.bad.isEmpty then s else s.onIntegrity fun x => { x with
    bad := x.bad.filter fun b => !(a ≤ b.1 * 64 && b.1 * 64 + 64 ≤ a + n) }
  let line := s.rd64 MIN_TADDR.addr % 2 ^ 48 / 64
  if s.flag MIN_STAT.ARMED && s.rd MIN_TEST.REGION < 16 && 0 < n && a / 64 ≤ line && line ≤ (a + n - 1) / 64 then
    let s := s.wrs [(MIN_STAT.ARMED, 0), (MIN_TEST.ARM, 0)]
    if s.rd MIN_TEST.BYTES = 0 then s else s.onIntegrity fun x => { x with bad := (line, true) :: x.bad.filter (·.1 != line) }
  else s

/-- Write bytes at an address. -/
def State.storeBytes (s : State) (a : Nat) (bs : Bytes) : State := (s.onMem (Memory.setMany a bs)).markStore a bs.length

/-- A little-endian number in memory. -/
def State.loadNat (s : State) (a n : Nat) : Nat := leNat (s.load a n)

end Sys2Proof.Machine
end

