-- ==== Sys2Proof/Machine/Caches.lean ====
section
/-! DEFINITION. The core caches (chapter Service Cores and Caches): replacement, misses, the victim buffer, cbo operations
and whole-cache walks. A cache is named by 17 × cluster + its number of R512; a line by address / 64. -/

set_option Elab.async false

namespace Sys2Proof.Machine

/-! Names. -/

def cacheCluster (id : Nat) : Nat := id / 17
def cacheNumber (id : Nat) : Nat := id % 17
/-- The core whose L1 it is. -/
def cacheCore (id : Nat) : Nat := cacheCluster id * 8 + cacheNumber id / 2
def l2Of (c : Nat) : Nat := 17 * c + 16
def l1iOf (core : Nat) : Nat := 17 * (core / 8) + 2 * (core % 8)
def l1dOf (core : Nat) : Nat := l1iOf core + 1
def isL2 (id : Nat) : Bool := cacheNumber id == 16
def isL1d (id : Nat) : Bool := cacheNumber id < 16 && cacheNumber id % 2 == 1
def cacheWays (id : Nat) : Nat := if isL2 id then 16 else 4
def cacheSetOf (id line : Nat) : Nat := line % (if isL2 id then 4096 else 256)

/-! Replacement (R512). -/

/-- What a replacement register loads at reset. -/
def seedOf (seed number : Nat) : Nat := if seed ^^^ number = 0 then 1 else seed ^^^ number

/-- One step of the 16-bit register with taps at bits 16, 14, 13 and 11. -/
def replNext (x : Nat) : Nat := x / 2 + ((x ^^^ x / 4 ^^^ x / 8 ^^^ x / 32) % 2) * 2 ^ 15

/-- A cache as a reset leaves it, with the seed of CLU_SEED. -/
def blankCache (seed id : Nat) : Cache := ⟨id, [], seedOf seed (cacheNumber id), [], [], []⟩

def State.cache (s : State) (id : Nat) : Cache := (getBy Cache.id id s.caches.caches).getD (blankCache 0xACE1 id)
def State.putCache (s : State) (c : Cache) : State := s.onCaches fun x => { x with caches := putBy Cache.id c x.caches }

def Cache.find (c : Cache) (line : Nat) : Option CacheLine := c.lines.find? (·.line == line)
def Cache.drop (c : Cache) (line : Nat) : Cache := { c with lines := c.lines.filter (·.line != line) }
def Cache.put (c : Cache) (l : CacheLine) : Cache :=
  { c with lines := l :: c.lines.filter fun m => m.line != l.line && !(m.set == l.set && m.way == l.way) }

/-- A way that the register names; one that an outstanding fill has taken is passed over. -/
def namedWay (ways : Nat) (reserved : List Nat) : Nat → Nat → Nat × Nat
  | 0, x => (x % ways, replNext x)
  | n + 1, x => if reserved.contains (x % ways) then namedWay ways reserved n (replNext x) else (x % ways, replNext x)

/-- R512: the way that a line of a set goes into: the lowest invalid way, with the register unchanged, or the named one. -/
def Cache.chooseWay (c : Cache) (set : Nat) : Nat × Cache :=
  let reserved := (c.misses.filter (·.set == set)).map (·.way)
  let held := (c.lines.filter (·.set == set)).map (·.way)
  match (List.range (cacheWays c.id)).find? fun w => !held.contains w && !reserved.contains w with
  | some w => (w, c)
  | none => let (w, r) := namedWay (cacheWays c.id) reserved 64 c.repl; (w, { c with repl := r })

/-! The newest copy of a line (R511). -/

/-- The newest bytes of a line within one cluster, if it holds a copy: a dirty L1D, a victim buffer, the L2. -/
def State.clusterCopy (s : State) (c line : Nat) : Option (Bytes × Bool) :=
  let mine := s.caches.caches.filter fun x => cacheCluster x.id == c
  match (mine.filter fun x => isL1d x.id).findSome? fun x => x.lines.find? fun l => l.line == line && l.dirty with
  | some l => some (l.bytes, true)
  | none =>
    match mine.findSome? fun x => x.victims.find? (·.line == line) with
    | some v => some (v.bytes, true)
    | none => ((s.cache (l2Of c)).find line).map fun l => (l.bytes, l.dirty)

/-- The newest bytes of a line when some cluster's copy is newer than DRAM. -/
def State.dirtyCopy (s : State) (line : Nat) : Option Bytes :=
  (List.range 8).findSome? fun c => match s.clusterCopy c line with | some (b, true) => some b | _ => none

/-- The newest bytes of a line. -/
def State.newestLine (s : State) (line : Nat) : Bytes := (s.dirtyCopy line).getD (s.load (line * 64) 64)

/-- Change every cache that holds something. -/
def State.eachCache (s : State) (f : Cache → Cache) : State := s.onCaches fun x => { x with caches := x.caches.map f }

/-- All copies of a line take these bytes, clean; DRAM takes them when one was dirty. -/
def State.cleanLine (s : State) (line : Nat) : State :=
  match s.dirtyCopy line with
  | none => s
  | some b =>
    (s.storeBytes (line * 64) b).eachCache fun c => { c with
      lines := c.lines.map fun l => if l.line == line then { l with bytes := b, dirty := false } else l
      victims := c.victims.map fun v => if v.line == line then { v with bytes := b } else v }

/-- A line leaves every cache, without a write-back. -/
def State.dropLine (s : State) (line : Nat) : State := s.eachCache (·.drop line)

/-- A line leaves the caches of one cluster; a dirty copy goes to DRAM first. -/
def State.evictFromCluster (s : State) (c line : Nat) : State :=
  let s := match s.clusterCopy c line with
    | some (b, true) => s.storeBytes (line * 64) b
    | _ => s
  s.eachCache fun x => if cacheCluster x.id == c then x.drop line else x

/-! Serving an access. -/

/-- A run of bytes put into a line at an offset. -/
def mergeBytes (line : Bytes) (off : Nat) (data : Bytes) : Bytes := line.take off ++ data ++ line.drop (off + data.length)

/-- An access that its L1 holds the line for: data to the core, or the store merged; the other copies go (R511). -/
def State.serveHit (s : State) (id : Nat) (l : CacheLine) (a : CoreAccess) : State :=
  match a.kind with
  | .load | .fetch | .counter => s.emit (.core (cacheCore id) (.data ((l.bytes.drop (a.addr % 64)).take a.len)))
  | .store =>
    let b := mergeBytes l.bytes (a.addr % 64) a.data
    let s := s.eachCache fun c =>
      let c := if c.id == id || c.id == l2Of (cacheCluster id) then c else c.drop l.line
      { c with victims := c.victims.map fun v => if v.line == l.line then { v with bytes := b } else v }
    (s.putCache ((s.cache id).put { l with bytes := b, dirty := true })).emit (.core (cacheCore id) .done)

/-- A dirty line moves into the victim buffer. -/
def Cache.bufferVictim (c : Cache) (l : CacheLine) : Cache :=
  { c.drop l.line with victims := c.victims ++ [⟨l.line, l.bytes, []⟩] }

/-- The line in a way. -/
def Cache.inWay (c : Cache) (set way : Nat) : Option CacheLine := c.lines.find? fun l => l.set == set && l.way == way

/-- R513, R514: a miss takes the slot and names a victim, in the L1 and, when the L2 holds no copy and awaits none, in it. -/
def State.startMiss (s : State) (id line : Nat) (a : CoreAccess) : State :=
  let l2 := s.cache (l2Of (cacheCluster id))
  let s := if (l2.find line).isSome || l2.misses.any (·.line == line) then s
    else
      let set := cacheSetOf l2.id line
      let (w, l2) := l2.chooseWay set
      let s := match l2.inWay set w with
        | some v => (s.putCache l2).evictFromCluster (cacheCluster id) v.line
        | none => s.putCache l2
      (s.putCache { s.cache l2.id with misses := (s.cache l2.id).misses ++ [⟨set, w, line, none, false, false, false⟩] }).coreEvent
        (cacheCore id) 0x03
  let s := s.coreEvent (cacheCore id) (if isL1d id then 0x02 else 0x01)
  let set := cacheSetOf id line
  let (w, c) := (s.cache id).chooseWay set
  let (c, late) := match c.inWay set w with
    | some v => if !v.dirty then (c.drop v.line, false) else if c.victims.length < 2 then (c.bufferVictim v, false) else (c, true)
    | none => (c, false)
  s.putCache { c with misses := c.misses ++ [⟨set, w, line, some a, false, late, false⟩] }

/-- The L1 of an access. -/
def accessCache (core : Nat) (a : CoreAccess) : Nat := match a.kind with | .fetch => l1iOf core | _ => l1dOf core

/-- R513, R514: an access looks up its L1: a hit is served, a line in the victim buffer is waited for, a second miss stalls.
The accesses from which it was called in turn are behind it. -/
def State.lookupAccess (s : State) (id : Nat) (a : CoreAccess) : State :=
  let c := s.cache id
  let line := a.addr / 64
  match c.find line with
  | some l => s.serveHit id l a
  | none =>
    if c.victims.any (·.line == line) then
      ((s.count (CLU_VB_HITS.addr (cacheCluster id))).coreEvent (cacheCore id) 0x05).putCache { c with
        victims := c.victims.map fun v => if v.line == line then { v with waits := v.waits ++ [a] } else v }
    else if c.misses.isEmpty then s.startMiss id line a
    else (s.count (CLU_MISS_STALL.addr (cacheCluster id))).putCache { c with stalled := c.stalled ++ [a] }

/-- A cached access of a core: behind those that are stalled already. -/
def State.cachedAccess (s : State) (core : Nat) (a : CoreAccess) : State :=
  let id := accessCache core a
  let c := s.cache id
  if c.stalled.isEmpty then s.lookupAccess id a else s.putCache { c with stalled := c.stalled ++ [a] }

/-- The stalled accesses go on until one of them misses. -/
def State.replayStalled (s : State) (id : Nat) : Nat → State
  | 0 => s
  | n + 1 =>
    match (s.cache id).stalled with
    | [] => s
    | a :: rest =>
      let c := s.cache id
      if !c.misses.isEmpty && (c.find (a.addr / 64)).isNone && !(c.victims.any (·.line == a.addr / 64)) then s
      else ((s.putCache { c with stalled := rest }).lookupAccess id a).replayStalled id n

/-! cbo operations (R511, R515, R516). -/

/-- A fill in flight is doomed. -/
def State.doom (s : State) (p : CacheMiss → Bool) (q : Cache → Bool) : State :=
  s.eachCache fun c => if q c then { c with misses := c.misses.map fun m => if p m then { m with doomed := true } else m } else c

/-- The operation acts on every copy of its line. -/
def State.actCbo (s : State) (op : CboOp) (line : Nat) : State :=
  match op with
  | .clean => s.cleanLine line
  | .flush => (s.cleanLine line).dropLine line
  | .inval => s.dropLine line

/-- It waits while a fill it doomed, or a victim of its line, is under way. -/
def State.cboWaits (s : State) (line : Nat) : Bool :=
  s.caches.caches.any fun c => (c.misses.any fun m => m.line == line && m.doomed) || c.victims.any (·.line == line)

/-- Whole-cache operations whose doomed fills have all come back end (R518). -/
def State.endMaintenance (s : State) : State :=
  s.each ((List.range 8).filter fun c => s.flag (CLU_MAINT.BUSY c)) fun c s =>
    if s.caches.caches.any fun x => cacheCluster x.id == c && x.misses.any (·.doomed) then s else s.wr (CLU_MAINT.BUSY c) 0

/-- Operations that waited act and complete. -/
def State.retryCbos (s : State) : State :=
  (s.each s.caches.cbos fun p s =>
    if s.cboWaits p.line then s
    else ((s.onCaches fun x => { x with cbos := x.cbos.filter (· != p) }).actCbo p.op p.line).emit (.core p.core .done)).endMaintenance

/-- R515: a cbo operation. -/
def State.cbo (s : State) (core : Nat) (op : CboOp) (line : Nat) : State :=
  let s := s.doom (·.line == line) fun _ => true
  (s.onCaches fun x => { x with cbos := x.cbos.filter (· != ⟨core, op, line⟩) ++ [⟨core, op, line⟩] }).retryCbos

/-! Fills and acknowledgements. -/

/-- A fill comes back: the L2 takes the line if it missed too, the access completes, and a doomed line leaves both. -/
def State.completeFill (s : State) (id : Nat) (m : CacheMiss) : State :=
  let cl := cacheCluster id
  let l2 := s.cache (l2Of cl)
  let l2Miss := l2.misses.find? (·.line == m.line)
  let s := s.putCache { s.cache id with misses := [] }
  let s := match l2Miss with
    | some n =>
      let s := s.cleanLine m.line
      s.putCache { (s.cache l2.id).put ⟨n.set, n.way, n.line, false, s.newestLine n.line⟩ with
        misses := (s.cache l2.id).misses.filter (·.line != m.line) }
    | none => s
  let kept := ((s.cache l2.id).find m.line).isSome
  let l : CacheLine := ⟨m.set, m.way, m.line, false, match s.clusterCopy cl m.line with | some (b, _) => b | none => s.newestLine m.line⟩
  let s := match s.clusterCopy cl m.line with
    | some (b, true) =>
      let set := fun (d : Bool) (x : CacheLine) => if x.line == m.line then { x with bytes := b, dirty := d } else x
      let s := s.eachCache fun c => if cacheCluster c.id == cl && isL1d c.id then { c with lines := c.lines.map (set false) } else c
      let l2 := s.cache l2.id
      s.putCache { l2 with lines := l2.lines.map (set true) }
    | _ => s
  let s := s.putCache ((s.cache id).put l)
  let s := match m.access with | some a => s.serveHit id l a | none => s
  let l2Doomed := l2Miss.any (·.doomed)
  let s := if m.doomed || l2Doomed || !kept then (s.cleanLine m.line).evictFromCluster cl m.line else s
  let n : Nat := (if m.doomed then 1 else 0) + (if l2Doomed then 1 else 0)
  let s := if n = 0 then s else s.coreEvent (cacheCore id) 0x06 n
  ((s.count (CLU_DOOMED.addr cl) n).retryCbos).replayStalled id ((s.cache id).stalled.length + 1)

/-- R513: an L1's fill comes back; it waits while its victim has no place in the buffer (R514). -/
def State.fillReturns (s : State) (id : Nat) : State :=
  match (s.cache id).misses with
  | [] => s
  | m :: _ =>
    if isL2 id then s
    else if m.evict then s.putCache { s.cache id with misses := [{ m with arrived := true }] }
    else s.completeFill id m

/-- R514: a victim that waited for a place takes it; a fill that has come back completes. -/
def State.placeVictim (s : State) (id : Nat) : State :=
  let c := s.cache id
  match c.misses with
  | [] => s
  | m :: _ =>
    if !m.evict || 2 ≤ c.victims.length then s
    else
      let c := match c.inWay m.set m.way with | some v => if v.dirty then c.bufferVictim v else c.drop v.line | none => c
      let m := { m with evict := false }
      let s := s.putCache { c with misses := [m] }
      if m.arrived then s.completeFill id m else s

/-- The line of a victim that an access waited for returns, clean, and takes a victim in the ordinary way. -/
def State.returnVictim (s : State) (id : Nat) (v : CacheVictim) : State :=
  let c := s.cache id
  let set := cacheSetOf id v.line
  let (w, c) := c.chooseWay set
  let c := match c.inWay set w with
    | some x => if x.dirty then c.bufferVictim x else c.drop x.line
    | none => c
  let s := s.putCache (c.put ⟨set, w, v.line, false, v.bytes⟩)
  s.each v.waits fun a s => s.lookupAccess id a

/-- R514: the L2 acknowledges the oldest write-back: it takes the line, which leaves the buffer. -/
def State.victimAcked (s : State) (id : Nat) : State :=
  match (s.cache id).victims with
  | [] => s
  | v :: rest =>
    let s := s.putCache { s.cache id with victims := rest }
    let l2 := s.cache (l2Of (cacheCluster id))
    let s := match l2.find v.line with
      | some l => s.putCache (l2.put { l with bytes := v.bytes, dirty := true })
      | none => s.storeBytes (v.line * 64) v.bytes
    let s := if v.waits.isEmpty then s else s.returnVictim id v
    ((s.placeVictim id).retryCbos).replayStalled id ((s.cache id).stalled.length + 1)

/-! Whole-cache operations (Table 21.8), power (R510) and a partition reset (R508). -/

/-- The dirty lines of an L1D go to its L2. -/
def State.cleanL1d (s : State) (id : Nat) : State :=
  s.each ((s.cache id).lines.filter (·.dirty)) fun l s =>
    let s := s.putCache ((s.cache id).put { l with dirty := false })
    let l2 := s.cache (l2Of (cacheCluster id))
    match l2.find l.line with
    | some x => s.putCache (l2.put { x with bytes := l.bytes, dirty := true })
    | none => s.storeBytes (l.line * 64) l.bytes

/-- The dirty lines of a cluster's L2 and L1Ds go to DRAM. -/
def State.cleanCluster (s : State) (c : Nat) : State :=
  let s := s.each (List.range 8) fun i s => s.cleanL1d (17 * c + 2 * i + 1)
  s.each ((s.cache (l2Of c)).lines.filter (·.dirty)) fun l s =>
    (s.storeBytes (l.line * 64) l.bytes).putCache ((s.cache (l2Of c)).put { l with dirty := false })

/-- A cache holds nothing any more. -/
def State.emptyCache (s : State) (id : Nat) : State := s.putCache { s.cache id with lines := [] }

/-- R510: a core's L1s are lost when it goes Off, its L1D written back first; a cluster's L2 is written back to DRAM. -/
def State.cachesOff (s : State) (d : Nat) : State :=
  if d < 64 then
    let s := s.cleanL1d (l1dOf d)
    (s.putCache (blankCache (s.rd (CLU_SEED.SEED (d / 8))) (l1iOf d))).putCache (blankCache (s.rd (CLU_SEED.SEED (d / 8))) (l1dOf d))
  else if d < 72 then
    let s := s.cleanCluster (d - 64)
    s.each (List.range 17) fun n s => s.putCache (blankCache 0xACE1 (17 * (d - 64) + n))
  else s

/-- R508 step 5, R512: a cluster's caches are invalidated without write-back, and its replacement registers load their seeds. -/
def State.resetClusterCaches (s : State) (c : Nat) : State :=
  let s := s.each (List.range 17) fun n s => s.putCache (blankCache (s.rd (CLU_SEED.SEED c)) (17 * c + n))
  s.onCaches fun x => { x with
    cbos := x.cbos.filter fun p => p.core / 8 != c
    stopped := x.stopped.filter (· != c) }

end Sys2Proof.Machine
end

