-- ==== Sys2Proof/Machine/Cipher.lean ====
section
/-! DEFINITION. The key store and the cipher engines (chapter Cipher Engine): key derivation, wrapped blobs, slots, counters,
and the operations of CIP_KCMD. -/

set_option Elab.async false

namespace Sys2Proof.Machine

/-! Labels of Table 16.1, in ASCII. -/
def labelVault : Bytes := [0x76, 0x61, 0x75, 0x6C, 0x74]
def labelWrap : Bytes := [0x77, 0x72, 0x61, 0x70]
def labelJournal : Bytes := [0x6A, 0x6F, 0x75, 0x72, 0x6E, 0x61, 0x6C]
def labelLink : Bytes := [0x6C, 0x69, 0x6E, 0x6B]
def labelKek : Bytes := [0x6B, 0x65, 0x6B]
def labelPart : Bytes := [0x70, 0x61, 0x72, 0x74]

/-- Slot of a namespace's key (R407). -/
def namespaceSlot (nsid : Nat) : Nat := 127 + nsid

/-- The partition whose slots include `k`, for slots 64–127. -/
def partitionOfSlot (k : Nat) : Option Nat := if 64 ≤ k ∧ k < 128 then some ((k - 64) / 8) else none

def State.keySlot (s : State) (k : Nat) : Option KeySlot := getBy KeySlot.slot k s.keys.slots
def State.slotKey (s : State) (k : Nat) : Bytes := match s.keySlot k with | some x => x.key | none => []

/-- Load a slot. -/
def State.loadSlot (s : State) (k kind gen : Nat) (key : Bytes) : State :=
  s.onKeys fun x => { x with slots := putBy KeySlot.slot ⟨k, kind, key, gen⟩ x.slots }

/-- R408: zeroise a slot; INIT clears once every slot has been zeroised since the reset. -/
def State.zeroiseSlot (s : State) (k : Nat) : State :=
  let s := s.onKeys fun x => { x with
    slots := dropBy KeySlot.slot k x.slots
    highWaters := x.highWaters.filter (·.slot != k)
    zeroised := if s.flag CIP_STAT.INIT && !x.zeroised.contains k then k :: x.zeroised else x.zeroised }
  if s.flag CIP_STAT.INIT && 8320 ≤ s.keys.zeroised.length then
    (s.wr CIP_STAT.INIT 0).onKeys fun x => { x with zeroised := [] }
  else s

/-! Counters (R413). -/

def State.highWater (s : State) (slot context : Nat) : Option Nat :=
  (s.keys.highWaters.find? fun h => h.slot == slot && h.context == context).map (·.value)

def State.setHighWater (s : State) (slot context v : Nat) : State :=
  s.onKeys fun x => { x with highWaters := ⟨slot, context, v⟩ :: x.highWaters.filter fun h => !(h.slot == slot && h.context == context) }

/-- R413: an encryption's counter must be above the context's high-water and below the largest value of its width. -/
def State.counterAccepted (s : State) (slot context counter width : Nat) : Bool :=
  counter < 2 ^ width - 1 && (match s.highWater slot context with | some h => decide (h < counter) | none => true)

/-- R413: a refused encryption is counted. -/
def State.refuseCounter (s : State) : State := s.count CIP_REFUSED.addr

/-- R413: load a context's high-water: raised, never lowered. -/
def State.raiseHighWater (s : State) (slot context v : Nat) : State :=
  match s.highWater slot context with
  | some h => if h < v then s.setHighWater slot context v else s
  | none => s.setHighWater slot context v

/-- R412, R413: seal a record under a slot: IV bytes 0–3 and the counter, big-endian; the additional data and the text.
None where the counter is refused (a progress record's is 32 bits wide, the others' 64); else ciphertext and tag, and the context's high-water takes the counter. -/
def State.sealRecord (s : State) (slot : Nat) (head : Bytes) (counter : Nat) (aad text : Bytes) : Option (Bytes × Bytes × State) :=
  if s.counterAccepted slot (leNat head) counter (if leNat (head.take 1) = 5 then 32 else 64) then
    let iv := head ++ (leBytes 8 counter).reverse
    let c := Config.gcmEncrypt (s.slotKey slot) iv aad text
    some (c, Config.gcmTag (s.slotKey slot) iv aad c, (s.setHighWater slot (leNat head) counter).count CIP_GCM_BYTES.addr text.length)
  else none

/-- R417: a tag mismatch is counted and recorded. -/
def State.tagMismatch (s : State) (slot : Nat) : State := (s.count CIP_TAG_FAIL.addr).plainFault 9 1 0x0C slot

/-! Blobs (Table 16.2). -/

/-- The bytes of a blob. -/
def keyBlob (kind gen owner : Nat) (wrapped : Bytes) : Bytes :=
  leBytes 1 kind ++ leBytes 1 0 ++ leBytes 2 gen ++ leBytes 4 owner ++ (wrapped ++ List.replicate (72 - wrapped.length) 0)

/-- The current KEK. -/
def State.kek (s : State) (gen : Nat) : Option Bytes := (s.keys.keks.find? (·.gen == gen)).map (·.key)

/-- R405: both halves of a 512-bit key are equal. -/
def halvesEqual (key : Bytes) : Bool := key.take 32 == key.drop 32

/-- The key-encryption key that a blob's kind and owner name, if the module holds it. -/
def State.blobKek (s : State) (kind gen owner : Nat) : Option Bytes :=
  if kind = 1 then s.kek gen
  else if (kind = 2 ∨ kind = 3) ∧ owner < 8 then some (Config.kdf Config.deviceKey labelPart owner)
  else none

/-- Unwrap a blob: its kind, generation, owner and key. -/
def State.openBlob (s : State) (blob : Bytes) : Option (Nat × Nat × Nat × Bytes) :=
  let kind := leNat (blob.take 1)
  let gen := leNat ((blob.drop 2).take 2)
  let owner := leNat ((blob.drop 4).take 4)
  let wrapped := (blob.drop 8).take (if kind = 2 then 40 else 72)
  match s.blobKek kind gen owner with
  | none => none
  | some k => (Config.kwUnwrap k wrapped).map fun key => (kind, gen, owner, key)

/-- Whether a slot may hold a blob's key (R407). -/
def blobFits (slot kind owner : Nat) : Bool :=
  if kind = 1 then slot == namespaceSlot owner && 1 ≤ owner && owner ≤ 8192
  else partitionOfSlot slot == some owner

/-- R453: a module whose link keys are missing does not train. -/
def State.linkKeyed (s : State) : Bool := (s.keySlot 2).isSome && (s.keySlot 3).isSome

/-- R300: from Down the link trains while EN is set, the peer is seated and the link keys are loaded (R453); a parked module
does not pair (R566). -/
def State.tryTrain (s : State) : State :=
  if s.rd EZL_STAT.STATE = 0 && s.flag EZL_CTL.EN && s.link.peerSeated && s.linkKeyed && !s.flag FLT_STAT.PARKED then
    (s.wr EZL_STAT.STATE 1).onLink fun l => { l with since := s.now }
  else s

/-- R405: a namespace's blob as the extent-map metadata holds it. -/
def State.keepBlob (s : State) (nsid : Nat) (blob : Bytes) : State :=
  s.onHost fun h => { h with namespaces := h.namespaces.map fun n => if n.nsid = nsid then { n with blob := blob } else n }

/-! Operations of Table 16.7: the STATUS and the state after. -/

/-- R405: operation 0x1. -/
def State.keyGenerate (s : State) (slot addr : Nat) : Nat × State :=
  if slot < 128 ∨ 8320 ≤ slot then (1, s)
  else if !s.flag CIP_STAT.DRBG_OK then (5, s)
  else
    let gen := s.rd CIP_STAT.KEKGEN
    match s.kek gen with
    | none => (1, s)
    | some k =>
      let (key, s) := s.random 64
      if halvesEqual key then (3, s)
      else
        let blob := keyBlob 1 gen (slot - 127) (Config.kwWrap k key)
        (0, ((s.loadSlot slot 1 gen key).keepBlob (slot - 127) blob).storeBytes addr blob)

/-- R405, R417: operation 0x2. A failed unwrap leaves the slot unchanged. -/
def State.keyUnwrap (s : State) (slot addr : Nat) : Nat × State :=
  match s.openBlob (s.load addr 80) with
  | none => (2, s.tagMismatch slot)
  | some (kind, gen, owner, key) =>
    if !blobFits slot kind owner then (1, s)
    else if kind != 2 && halvesEqual key then (3, s)
    else (0, s.loadSlot slot kind gen key)

/-- R409: operation 0x3. -/
def State.keyZeroise (s : State) (slot : Nat) : Nat × State := if 8320 ≤ slot then (1, s) else (0, s.zeroiseSlot slot)

/-- R452, Table 16.1: operation 0x4: slots 0–3 from the device key and the installed PRK. -/
def State.keyDerivePair (s : State) : Nat × State :=
  match s.keys.prk with
  | none => (1, s)
  | some prk =>
    let p := s.cfg.position
    (0, ((((s.loadSlot 0 0 0 (Config.kdf Config.deviceKey labelVault 0)).loadSlot 1 0 0 (Config.kdf prk labelJournal 0)).loadSlot 2 0 0
      (Config.kdf prk labelLink p)).loadSlot 3 0 0 (Config.kdf prk labelLink (1 - p))).tryTrain)

/-- Rewrap `n` blobs of 80 bytes in place under a new KEK; none if one of them does not unwrap. -/
def State.rewrap (s : State) (gen : Nat) (kek : Bytes) : Nat → Nat → Option State
  | 0, _ => some s
  | n + 1, addr =>
    match s.openBlob (s.load addr 80) with
    | some (1, _, owner, key) =>
      let blob := keyBlob 1 gen owner (Config.kwWrap kek key)
      ((s.storeBytes addr blob).keepBlob owner blob).rewrap gen kek n (addr + 80)
    | _ => none

/-- R406 step 2: the next KEK, its generation, and the state that holds it and counts the surviving blobs as rewrapped. -/
def State.newKek (s : State) : Nat × Bytes × State :=
  let (kek, t) := s.random 32
  let g := (s.rd CIP_STAT.KEKGEN + 1) % 65536
  (g, kek, (t.wrs [(CIP_STAT.KEKGEN, g), (CIP_STAT.RATCHET, 1)]).onKeys fun x => { x with
    keks := ⟨g, kek⟩ :: x.keks
    ratchetMeasure := some s.measure
    slots := x.slots.map fun k => if k.kind = 1 then { k with kekgen := g } else k })

/-- R406 step 5: destroy every KEK older than the current one. -/
def State.destroyOldKeks (s : State) : State :=
  (s.wr CIP_STAT.RATCHET 0).onKeys fun x => { x with
    keks := x.keks.filter (·.gen == s.rd CIP_STAT.KEKGEN)
    ratchetMeasure := none }

/-- R406: without a peer the lead takes every step alone, so that step 5 waits for no state copy. -/
def State.ratchetAlone (s : State) : State :=
  if s.rd EZL_STAT.STATE = 3 || s.keys.ratchetMeasure.isNone then s else s.destroyOldKeks

/-- R406 step 2: operation 0x5. -/
def State.kekRatchet (s : State) (addr n : Nat) : Nat × State :=
  if !s.flag CIP_STAT.DRBG_OK then (5, s)
  else match s.keys.prk with
  | none => (1, s)
  | some prk =>
    let (g, kek, t) := s.newKek
    match t.rewrap g kek n addr with
    | none => (2, s)
    | some t => (0, (t.storeBytes (addr + 80 * n) (Config.kwWrap (Config.kdf prk labelKek (g % 256)) kek)).ratchetAlone)

/-- R413: operation 0x6: the 4 bytes at the address are the context. -/
def State.highWaterLoad (s : State) (slot addr v : Nat) : Nat × State :=
  if (s.keySlot slot).isNone then (4, s) else (0, s.raiseHighWater slot (s.loadNat addr 4) v)

/-- R402: operation 0x7: 16 bytes with kind, valid and KEKGEN. The order of the three is the model's (log 6). -/
def State.slotStatus (s : State) (slot addr : Nat) : Nat × State :=
  if 8320 ≤ slot then (1, s) else
  let (kind, valid, gen) := match s.keySlot slot with | some k => (k.kind, 1, k.kekgen) | none => (0, 0, 0)
  (0, s.storeBytes addr (leBytes 1 kind ++ leBytes 1 valid ++ leBytes 2 gen ++ leBytes 12 0))

/-- R406 step 3: operation 0x8. A module that rejoins may be more than one KEK behind: the generation is the first after its own
under whose transport key the KEK unwraps (log 172). -/
def State.kekImport (s : State) (addr : Nat) : Nat × State :=
  match s.keys.prk with
  | none => (1, s)
  | some prk =>
    let wrapped := s.load addr 40
    match (List.range 256).findSome? fun n =>
        let g := (s.rd CIP_STAT.KEKGEN + 1 + n) % 65536
        (Config.kwUnwrap (Config.kdf prk labelKek (g % 256)) wrapped).map fun kek => (g, kek) with
    | none => (2, s.tagMismatch 0)
    | some (g, kek) => (0, (s.wr CIP_STAT.KEKGEN g).onKeys fun x => { x with keks := ⟨g, kek⟩ :: x.keks })

/-- One key command's effect, with its STATUS. Until every slot has been zeroised after a reset only a zeroise is
accepted (R408). -/
def State.keyOperation (s : State) (c : KeyCommand) : Nat × State :=
  if s.flag CIP_STAT.INIT && c.op != 3 then (1, s)
  else if c.op = 1 then s.keyGenerate c.slot c.addr
  else if c.op = 2 then s.keyUnwrap c.slot c.addr
  else if c.op = 3 then s.keyZeroise c.slot
  else if c.op = 4 then s.keyDerivePair
  else if c.op = 5 then s.kekRatchet c.addr c.arg
  else if c.op = 6 then s.highWaterLoad c.slot c.addr c.arg
  else if c.op = 7 then s.slotStatus c.slot c.addr
  else if c.op = 8 then s.kekImport c.addr
  else (1, s)

/-- R409: the command waits while an operation that loaded the slot is under way. -/
def State.slotBusy (s : State) (c : KeyCommand) : Bool :=
  (c.op == 1 || c.op == 2 || c.op == 3 || c.op == 4) && s.keys.inUse.any fun k => k == c.slot || (c.op == 4 && k < 4)

/-- Run a CIP_KCMD command, or leave it waiting with BUSY set. -/
def State.runKeyCommand (s : State) (c : KeyCommand) : State :=
  if s.slotBusy c then (s.wr CIP_KCMD.BUSY 1).onKeys fun x => { x with waiting := some c }
  else
    let (status, t) := s.keyOperation c
    ((t.wrs [(CIP_KCMD.BUSY, 0), (CIP_KCMD.STATUS, status)]).count CIP_KEY_CMDS.addr).onKeys fun x => { x with waiting := none }

/-- An engine operation that loaded a slot ends; a command that waited for it runs. -/
def State.releaseSlot (s : State) (k : Nat) : State :=
  let s := s.onKeys fun x => { x with inUse := x.inUse.erase k }
  match s.keys.waiting with
  | some c => s.runKeyCommand c
  | none => s

/-- A write of CIP_KCMD with an operation (R418): Ronhenko's alone; ignored while BUSY. -/
def State.keyCommandWrite (s : State) (who : Requester) (op slot : Nat) : State :=
  let slot := slot % 16384
  s.commandWrite who CIP_KCMD.addr (BitVec.ofNat 32 (op * 2 ^ 20 + slot)) fun s =>
    if s.flag CIP_KCMD.BUSY then s
    else s.runKeyCommand ⟨op, slot, s.rd64 CIP_KCMD_ADDR.addr, s.rd64 CIP_KCMD_ARG.addr, who⟩

def execKeyGenerate (who : Requester) (slot : Nat) (s : State) : Host.Outcome State Fault Refusal :=
  onSoc s fun s => s.keyCommandWrite who 1 slot
def execKeyUnwrap (who : Requester) (slot : Nat) (s : State) : Host.Outcome State Fault Refusal :=
  onSoc s fun s => s.keyCommandWrite who 2 slot
def execKeyZeroise (who : Requester) (slot : Nat) (s : State) : Host.Outcome State Fault Refusal :=
  onSoc s fun s => s.keyCommandWrite who 3 slot
def execKeyDerivePair (who : Requester) (s : State) : Host.Outcome State Fault Refusal :=
  onSoc s fun s => s.keyCommandWrite who 4 0
def execKekRatchet (who : Requester) (s : State) : Host.Outcome State Fault Refusal :=
  onSoc s fun s => s.keyCommandWrite who 5 0
def execHighWaterLoad (who : Requester) (slot : Nat) (s : State) : Host.Outcome State Fault Refusal :=
  onSoc s fun s => s.keyCommandWrite who 6 slot
def execSlotStatusRead (who : Requester) (slot : Nat) (s : State) : Host.Outcome State Fault Refusal :=
  onSoc s fun s => s.keyCommandWrite who 7 slot
def execKekImport (who : Requester) (s : State) : Host.Outcome State Fault Refusal :=
  onSoc s fun s => s.keyCommandWrite who 8 0

end Sys2Proof.Machine
end

