-- ==== Sys2Proof/Machine/Contexts.lean ====
section
/-! DEFINITION. The fields of the queue pair context, Table 5.4: each by its bits in the 512-byte context. -/

set_option Elab.async false

namespace Sys2Proof.Machine

/-- Bits [hi:lo] of a context, bit 0 the least significant bit of byte 0. -/
structure CtxFld where
  hi : Nat
  lo : Nat
  deriving DecidableEq, Repr

namespace Ctx

def STATE : CtxFld := ⟨7, 0⟩
def PIN : CtxFld := ⟨8, 8⟩
def NAK_SENT : CtxFld := ⟨9, 9⟩
def RWR_EN : CtxFld := ⟨10, 10⟩
def SVC : CtxFld := ⟨11, 11⟩
def LIMITED : CtxFld := ⟨12, 12⟩
def IPV6 : CtxFld := ⟨13, 13⟩
def GEN : CtxFld := ⟨31, 16⟩
def LQPN : CtxFld := ⟨55, 32⟩
def RQPN : CtxFld := ⟨87, 64⟩
def CNTLID : CtxFld := ⟨111, 96⟩
def QID : CtxFld := ⟨127, 112⟩
def REMOTE_IP : CtxFld := ⟨255, 128⟩
def LOCAL_IP : CtxFld := ⟨383, 256⟩
def REMOTE_MAC : CtxFld := ⟨431, 384⟩
def UDP_SPORT : CtxFld := ⟨447, 432⟩
def LANE : CtxFld := ⟨455, 448⟩
def DSCP : CtxFld := ⟨463, 456⟩
def TCLASS : CtxFld := ⟨471, 464⟩
def PMTU : CtxFld := ⟨479, 472⟩
def TGRP : CtxFld := ⟨487, 480⟩
def ACK_TMO : CtxFld := ⟨495, 488⟩
def RETRY : CtxFld := ⟨503, 496⟩
def RNR_TMR : CtxFld := ⟨511, 504⟩
def EPSN : CtxFld := ⟨535, 512⟩
def MSN : CtxFld := ⟨567, 544⟩
def RQ_DEPTH : CtxFld := ⟨591, 576⟩
def RQ_POSTED : CtxFld := ⟨607, 592⟩
def MSG_PSN : CtxFld := ⟨639, 608⟩
def MSG_CELLS : CtxFld := ⟨655, 640⟩
def OWNER : CtxFld := ⟨663, 656⟩
def RETRIES_LEFT : CtxFld := ⟨671, 664⟩
def NPSN : CtxFld := ⟨695, 672⟩
def UNA_PSN : CtxFld := ⟨727, 704⟩
def ORD : CtxFld := ⟨743, 736⟩
def RD_OUT : CtxFld := ⟨751, 744⟩
def SQ_SIZE : CtxFld := ⟨767, 752⟩
def SQ_BASE : CtxFld := ⟨831, 768⟩
def CQ_BASE : CtxFld := ⟨895, 832⟩
def SQ_HEAD : CtxFld := ⟨911, 896⟩
def SQ_TAIL : CtxFld := ⟨927, 912⟩
def CCNT : CtxFld := ⟨959, 928⟩
def WAIT_QPN : CtxFld := ⟨991, 960⟩
def WAIT_GEN : CtxFld := ⟨1007, 992⟩
def SQHD : CtxFld := ⟨1023, 1008⟩
def WAIT_CNT : CtxFld := ⟨1055, 1024⟩
def RATE : CtxFld := ⟨1087, 1056⟩
def TARGET : CtxFld := ⟨1119, 1088⟩
def STAGE : CtxFld := ⟨1135, 1120⟩
def LAST_CUT : CtxFld := ⟨1183, 1152⟩
def LAST_CNP : CtxFld := ⟨1215, 1184⟩
def RKEY : CtxFld := ⟨1247, 1216⟩
def MR_BASE : CtxFld := ⟨1343, 1280⟩
def MR_LEN : CtxFld := ⟨1407, 1344⟩
def TX_BYTES : CtxFld := ⟨1471, 1408⟩
def RX_BYTES : CtxFld := ⟨1535, 1472⟩
def DUP_PKTS : CtxFld := ⟨1567, 1536⟩
def SEQ_NAKS : CtxFld := ⟨1599, 1568⟩
def RETRANS : CtxFld := ⟨1631, 1600⟩
def RNR_NAKS : CtxFld := ⟨1663, 1632⟩
def CNP_RX : CtxFld := ⟨1695, 1664⟩
def CNP_TX : CtxFld := ⟨1727, 1696⟩
def ECN_RX : CtxFld := ⟨1759, 1728⟩
def FW : CtxFld := ⟨4095, 3584⟩
/-- Entry `n` of RD_TRK. -/
def RD_TRK (n : Nat) : CtxFld := ⟨2048 + 64 * n + 63, 2048 + 64 * n⟩
end Ctx

end Sys2Proof.Machine
end

