-- ==== Sys2Proof/Machine/RdmaOps.lean ====
section
/-! DEFINITION. Operations on queue pairs (chapter RDMA Transport): the context and its cache, PSNs, what a queue pair
sends, RDMA READ requests and their trackers, and response capsules. -/

set_option Elab.async false

namespace Sys2Proof.Machine

/-! Contexts. -/

/-- STATE of Table 5.4. -/
def qpFree : Nat := 0
def qpConnecting : Nat := 1
def qpReady : Nat := 2
def qpError : Nat := 3
def qpDraining : Nat := 4

def QueuePair.get (q : QueuePair) (f : CtxFld) : Nat := extractBits q.img.toNat f.hi f.lo
def QueuePair.set (q : QueuePair) (f : CtxFld) (v : Nat) : QueuePair :=
  { q with img := BitVec.ofNat 4096 (depositBits q.img.toNat f.hi f.lo v) }

/-- A context index that was never created: all zero. -/
def QueuePair.blank (idx : Nat) : QueuePair := ⟨idx, 0, [], 0, none, 0, false, false, 0⟩

def State.qp (s : State) (idx : Nat) : QueuePair := (getBy QueuePair.idx idx s.rdma.qps).getD (QueuePair.blank idx)
def State.ctx (s : State) (idx : Nat) (f : CtxFld) : Nat := (s.qp idx).get f
def State.onQp (s : State) (idx : Nat) (f : QueuePair → QueuePair) : State :=
  s.onRdma fun r => { r with qps := setBy QueuePair.idx idx f r.qps }

/-- Write a field of a context. A cached copy that it changes is dirty (R127). -/
def State.setCtx (s : State) (idx : Nat) (f : CtxFld) (v : Nat) : State :=
  let same := s.ctx idx f == v
  s.onRdma fun r => { r with
    qps := setBy QueuePair.idx idx (·.set f v) r.qps
    cache := if same then r.cache else r.cache.map fun c => if c.idx = idx then { c with dirty := true } else c }

/-- Add to a context counter, which wraps at its width. -/
def State.countCtx (s : State) (idx : Nat) (f : CtxFld) (n : Nat := 1) : State := s.setCtx idx f (s.ctx idx f + n)

/-- R121: the index part and the generation part of a queue pair number. -/
def qpnIndex (qpn : Nat) : Nat := qpn % 2 ^ 17
def qpnGen (qpn : Nat) : Nat := qpn / 2 ^ 17 % 128
def qpnOf (idx gen : Nat) : Nat := gen % 128 * 2 ^ 17 + idx

/-- R121: the generation after one, skipping every value whose low seven bits are 0. -/
def nextGen (g : Nat) : Nat :=
  let h := (g + 1) % 2 ^ 16
  if h % 128 = 0 then (h + 1) % 2 ^ 16 else h

/-- R114: the queue pair number is in use and its generation bits match. -/
def State.qpnInUse (s : State) (qpn : Nat) : Bool :=
  s.ctx (qpnIndex qpn) Ctx.STATE != qpFree && s.ctx (qpnIndex qpn) Ctx.GEN % 128 == qpnGen qpn

/-- QPC_STAT shows the contexts in use. -/
def State.showContexts (s : State) : State :=
  s.wr QPC_STAT.INUSE (s.rdma.qps.filter fun q => q.get Ctx.STATE != qpFree).length

/-- The lowest free context index. -/
def State.freeContext (s : State) : Option Nat :=
  (List.range (min 131072 (s.rdma.qps.length + 1))).find? fun i => s.ctx i Ctx.STATE == qpFree

/-- R166: a flow's counters, and what the resequencers expect of it, return to 0. -/
def State.resetFlow (s : State) (flow : Nat) : State :=
  s.onSwitch fun w => { w with
    sequences := w.sequences.filter (·.flow != flow)
    expected := w.expected.filter (·.flow != flow) }

/-- A context is created or destroyed: write it whole; its DRAM copy and any cached copy hold it. -/
def State.putContext (s : State) (q : QueuePair) : State :=
  ((s.onRdma fun r => { r with qps := putBy QueuePair.idx q r.qps }).resetFlow q.idx).showContexts

/-- Free a context: its generation stays, its cached copy and everything under way on it goes. -/
def State.dropContext (s : State) (idx : Nat) : State :=
  let s := s.putContext ((QueuePair.blank idx).set Ctx.GEN (s.ctx idx Ctx.GEN))
  s.onRdma fun r => { r with
    cache := r.cache.filter (·.idx != idx)
    reads := r.reads.filter (·.qp != idx)
    works := r.works.filter (·.qp != idx)
    sends := r.sends.filter (·.1 != idx)
    discarded := r.discarded.filter (·.1 != idx)
    waiting := r.waiting.filter (· != idx)
    cqSlot := r.cqSlot.filter (·.1 != idx)
    stepTimers := r.stepTimers.filter (· != idx)
    rnrTimers := r.rnrTimers.filter (· != idx) }

/-! PSNs (R129, R140). -/

def psnMod : Nat := 2 ^ 24
def psnAdd (p n : Nat) : Nat := (p + n) % psnMod
def psnSub (p q : Nat) : Nat := (p + psnMod - q % psnMod) % psnMod

/-- The path MTU in bytes. -/
def pmtuBytes (code : Nat) : Nat := 128 * 2 ^ code

/-- Packets that carry `len` bytes at a path MTU. -/
def packetCount (len pmtu : Nat) : Nat := max 1 ((len + pmtu - 1) / pmtu)

def State.pmtu (s : State) (idx : Nat) : Nat := pmtuBytes (s.ctx idx Ctx.PMTU)

/-- Bytes of a frame from destination address through FCS that carries `payload` bytes behind `ext` bytes of extended
transport headers. -/
def frameBytes (ipv6 : Bool) (ext payload : Nat) : Nat := 14 + (if ipv6 then 40 else 20) + 8 + 12 + ext + (payload + 3) / 4 * 4 + 4 + 4

/-- Payload bytes of packet `i` of a message (R136). -/
def packetPayload (len pmtu i : Nat) : Nat := min pmtu (len - i * pmtu)

/-- The frames of a message's packets from `i` on, with `first` bytes of extended headers in its first packet and `last` in its
last. -/
def messageFrames (ipv6 : Bool) (len pmtu first last i : Nat) : List Nat :=
  let n := packetCount len pmtu
  (List.range (n - i)).map fun k =>
    frameBytes ipv6 ((if i + k = 0 then first else 0) + (if i + k + 1 = n then last else 0)) (packetPayload len pmtu (i + k))

/-- Extended header bytes of the first and of the last packet of a work request: RETH of a WRITE, IETH of a SEND with
Invalidate. -/
def extendedBytes (opcode : Nat) : Nat × Nat := (if opcode = 2 then 16 else 0, if opcode = 1 then 4 else 0)

/-- Frames that a queue pair has sent count in TX_BYTES. -/
def State.sentFrames (s : State) (idx : Nat) (frames : List Nat) : State := s.countCtx idx Ctx.TX_BYTES (frames.foldl (· + ·) 0)

/-- One frame sent with `ext` bytes of extended headers and no payload. -/
def State.sent (s : State) (idx ext : Nat) : State := s.sentFrames idx [frameBytes (s.ctx idx Ctx.IPV6 == 1) ext 0]

/-- Send one acknowledgement. -/
def State.sendAck (s : State) (idx psn : Nat) : State :=
  ((s.emit (.rdma idx (.ack psn (s.ctx idx Ctx.MSN)))).onQp idx fun q => { q with unacked := 0 }).sent idx 4

/-- Both retry counts at the values of RETRY (R141). -/
def State.restoreRetries (s : State) (idx : Nat) : State := s.setCtx idx Ctx.RETRIES_LEFT (s.ctx idx Ctx.RETRY)

/-! Sending (R136). -/

/-- Start a SEND or RDMA WRITE of `len` bytes: its PSNs from NPSN, kept until acknowledged. -/
def State.startSend (s : State) (idx opcode len : Nat) (signal : Bool) (wrId : Nat) (out : Nat → RdmaOut) : State :=
  let pmtu := s.pmtu idx
  let n := packetCount len pmtu
  let psn := s.ctx idx Ctx.NPSN
  let ext := extendedBytes opcode
  let s := (s.setCtx idx Ctx.NPSN (psnAdd psn n)).sentFrames idx (messageFrames (s.ctx idx Ctx.IPV6 == 1) len pmtu ext.1 ext.2 0)
  (s.onRdma fun r => { r with works := r.works ++ [⟨idx, r.nextWork, opcode, signal, wrId, len, psn, n, 0⟩],
                              nextWork := r.nextWork + 1 }).emit (.rdma idx (out psn))

/-! RDMA READ requests (R137–R139). -/

/-- R137: the pieces of a transfer: at most 512 response packets each; offset and length. -/
def readPieces (pmtu len : Nat) : List (Nat × Nat) :=
  (List.range ((len + 512 * pmtu - 1) / (512 * pmtu))).map fun i => (i * (512 * pmtu), min (512 * pmtu) (len - i * (512 * pmtu)))

/-- One READ request to be made: where its data goes, its length, and the remote address and key. -/
structure ReadPiece where
  target : ReadTarget
  len : Nat
  raddr : Nat
  rkey : Nat
  deriving DecidableEq, Repr

/-- The requests that fetch a command's data, from byte `off` of its transfer, from the host memory of its descriptors. -/
def fetchPieces (pmtu : Nat) (key : CmdKey) : List KeyedSgl → Nat → List ReadPiece
  | [], _ => []
  | d :: ds, off =>
    (readPieces pmtu d.len).map (fun (o, n) => ⟨.command key (off + o), n, d.addr + o, d.key⟩) ++ fetchPieces pmtu key ds (off + d.len)

/-- Trackers in use. -/
def State.trackersUsed (s : State) : List Nat := s.rdma.reads.filterMap (·.tracker)

/-- The lowest free of the 8,192 trackers. -/
def State.freeTracker (s : State) : Option Nat :=
  (List.range (min 8192 (s.rdma.reads.length + 1))).find? fun n => !s.trackersUsed.contains n

/-- RD_TRK of the context shows its outstanding requests. -/
def State.showReads (s : State) (idx : Nat) : State :=
  let l := s.rdma.reads.filter fun r => r.qp == idx && r.tracker.isSome
  let s := s.setCtx idx Ctx.RD_OUT l.length
  s.each (List.range 16) fun n s => s.setCtx idx (Ctx.RD_TRK n)
    (match l[n]? with | some r => r.tracker.getD 0 * 2 ^ 48 + r.firstPsn * 2 ^ 24 + r.packets | none => 0)

/-- A queue pair has READ requests that are not sent yet. -/
def State.readsWait (s : State) (idx : Nat) : Bool := s.rdma.reads.any fun r => r.qp == idx && r.tracker.isNone

/-- R137: send a waiting READ request if a tracker is free and RD_OUT is below ORD; requests of one queue pair leave in
order. -/
def State.grantRead (s : State) (idx : Nat) : State :=
  match s.rdma.reads.find? (fun r => r.qp == idx && r.tracker.isNone), s.freeTracker with
  | some r, some t =>
    if s.ctx idx Ctx.STATE == qpReady && s.ctx idx Ctx.RD_OUT < s.ctx idx Ctx.ORD then
      let psn := s.ctx idx Ctx.NPSN
      let change := fun q : ReadRequest =>
        if q.qp == r.qp && q.work == r.work && q.target == r.target then { q with tracker := some t, firstPsn := psn } else q
      let s := s.onRdma fun x => { x with
        reads := x.reads.map change
        works := x.works.map fun w => if w.num == r.work && w.packets == 0 then { w with firstPsn := psn } else w }
      let s := s.onRdma fun x => { x with
        works := x.works.map fun w => if w.num == r.work then { w with packets := w.packets + r.packets } else w }
      let s := (s.setCtx idx Ctx.NPSN (psnAdd psn r.packets)).sent idx 16
      (s.showReads idx).emit (.rdma idx (.readRequest psn r.packets r.raddr r.rkey r.len))
    else s
  | _, _ => s

/-- Send as many of a queue pair's waiting READ requests as may be: ORD is at most 16. -/
def State.grantReads (s : State) (idx : Nat) : State := s.each (List.range 16) fun _ s => s.grantRead idx

/-- Ask for `len` bytes from the remote side: one work request, its READ requests queued, as many sent as may be. -/
def State.startRead (s : State) (idx len : Nat) (signal : Bool) (wrId : Nat) (pieces : List ReadPiece) : State :=
  let pmtu := s.pmtu idx
  let w := s.rdma.nextWork
  (s.onRdma fun r => { r with
    nextWork := w + 1
    works := r.works ++ [⟨idx, w, 3, signal, wrId, len, 0, 0, pieces.length⟩]
    reads := r.reads ++ pieces.map fun p => ⟨idx, w, p.target, p.len, p.raddr, p.rkey, packetCount p.len pmtu, 0, none, []⟩ }).grantReads idx

/-! Queue pairs and queues. -/

/-- A queue pair whose packets go out and are sent again until acknowledged: Ready, or Draining (log 114). -/
def State.qpSends (s : State) (idx : Nat) : Bool := s.ctx idx Ctx.STATE == qpReady || s.ctx idx Ctx.STATE == qpDraining

/-- R136: cells of SEND and RDMA WRITE packets that are not acknowledged. -/
def State.holdsCells (s : State) (idx : Nat) : Bool :=
  s.rdma.works.any fun w => w.qp == idx && w.opcode < 3 && 2 ^ 23 ≤ psnSub (s.ctx idx Ctx.UNA_PSN) (psnAdd w.firstPsn w.packets)

def State.controller (s : State) (id : Nat) : Option Controller := getBy Controller.cntlid id s.host.controllers
def State.onController (s : State) (id : Nat) (f : Controller → Controller) : State :=
  s.onHost fun h => { h with controllers := setBy Controller.cntlid id f h.controllers }

/-- The queue pair that carries a controller's queue. -/
def State.queuePairOf (s : State) (ctrl qid : Nat) : Option Nat :=
  match s.controller ctrl with
  | some c => (c.queues.find? (·.1 == qid)).map (·.2)
  | none => none

/-- R119: authentication is still due on the queue that carries a command. -/
def State.authDue (s : State) (key : CmdKey) : Bool :=
  match s.queuePairOf key.ctrl key.qid with
  | some idx => (s.qp idx).authDue
  | none => false

/-- R119: the step a transaction has come to; at 0 it has succeeded. -/
def QueuePair.authTo (q : QueuePair) (step : Nat) : QueuePair := { q with auth := step, authDue := q.authDue && step != 0 }

/-- R80, Table 5.5: Ready to Draining: the queue pair stops accepting capsules. -/
def State.drainQueuePair (s : State) (idx : Nat) : State :=
  if s.ctx idx Ctx.STATE == qpReady then s.setCtx idx Ctx.STATE qpDraining else s

/-! The context cache (R124, R125, R127). -/

def cacheSet (idx : Nat) : Nat := idx % 2048
/-- R122. -/
def pipelineOf (idx : Nat) : Nat := idx % 16

def State.pipeline (s : State) (transmit : Bool) (n : Nat) : Pipeline :=
  (s.rdma.pipelines.find? fun p => p.transmit == transmit && p.num == n).getD ⟨transmit, n, none, [], [], 0, []⟩

def State.putPipeline (s : State) (p : Pipeline) : State :=
  s.onRdma fun r => { r with pipelines := p :: r.pipelines.filter fun q => !(q.transmit == p.transmit && q.num == p.num) }

/-- A lookup hits in the cache or in the pipeline's eviction buffer. -/
def State.contextHit (s : State) (p : Pipeline) (idx : Nat) : Bool :=
  s.rdma.cache.any (·.idx == idx) || p.evict.contains idx

/-- Use a cached context: it becomes the most recently used. -/
def State.touchContext (s : State) (idx : Nat) : State :=
  match s.rdma.cache.find? (·.idx == idx) with
  | some c => s.onRdma fun r => { r with cache := c :: r.cache.filter (·.idx != idx) }
  | none => s

/-- What a packet meets on its way to its context. -/
inductive Lookup where
  | hit | parked | missed | stalled
  deriving DecidableEq, Repr

def State.lookup (s : State) (p : Pipeline) (idx : Nat) : Lookup :=
  if !p.stalled.isEmpty then .stalled
  else if s.contextHit p idx then .hit
  else match p.fill with
  | none => .missed
  | some j => if j = idx then .parked else .stalled

/-- R124, R125: a packet reaches its pipeline: it is served on a hit, parked behind the fill of its context, takes the
miss slot, or stalls the pipeline. -/
def State.throughPipeline (s : State) (transmit : Bool) (idx : Nat) (i : PipeItem) (serve : State → State) : State :=
  let p := s.pipeline transmit (pipelineOf idx)
  match s.lookup p idx with
  | .hit => ((serve (s.touchContext idx)).count QPC_HIT.addr).event 0x10 (pipelineOf idx)
  | .parked => s.putPipeline { p with parked := p.parked ++ [i] }
  | .missed => ((s.putPipeline { p with fill := some idx, parked := [i] }).count QPC_MISS.addr).event 0x11 (pipelineOf idx)
  | .stalled =>
    (s.putPipeline { p with stalled := p.stalled ++ [(idx, i)], stalledAt := if p.stalled.isEmpty then s.now else p.stalledAt }).began
      (!p.stalled.isEmpty) 0x12 (pipelineOf idx)

/-- Pinned contexts in the set of a context. -/
def State.pinsOfSet (s : State) (idx : Nat) : Nat :=
  (s.rdma.qps.filter fun q => cacheSet q.idx == cacheSet idx && q.get Ctx.PIN == 1).length

/-- R127: the context a fill evicts from its set: the least recently used whose PIN flag is clear, if the set is full. -/
def State.victim (s : State) (idx : Nat) : Option CachedContext :=
  let l := s.rdma.cache.filter fun c => cacheSet c.idx == cacheSet idx
  if l.length < 8 then none else (l.filter fun c => s.ctx c.idx Ctx.PIN == 0).getLast?

/-- R127: a fill returns and is installed; a dirty victim moves to the pipeline's eviction buffer. -/
def State.installContext (s : State) (p : Pipeline) (idx : Nat) : State :=
  let v := s.victim idx
  let s := s.onRdma fun r => { r with
    cache := ⟨idx, false⟩ :: r.cache.filter fun c => c.idx != idx && some c.idx != v.map (·.idx) }
  match v with
  | some c => if c.dirty then s.putPipeline { p with evict := p.evict ++ [c.idx] } else s.putPipeline p
  | none => s.putPipeline p

/-! What a queue pair sends through its transmit pipeline (R122, R124). -/

/-- The descriptors of the host memory of a command's data (R46): of an I/O command in the table, or of an admin command. -/
def State.sglOf (s : State) (key : CmdKey) : List KeyedSgl :=
  match s.host.commands.find? (·.key == key) with
  | some c => c.sgl
  | none => ((s.host.adminEntries.find? (·.key == key)).map (·.sgl)).getD []

/-- The first `n` bytes of the host memory that descriptors name. -/
def cutSgl : List KeyedSgl → Nat → List KeyedSgl
  | [], _ => []
  | d :: ds, n => if n = 0 then [] else { d with len := min d.len n } :: cutSgl ds (n - d.len)

/-- Bytes laid over the host memory that descriptors name. -/
def spreadOver : List KeyedSgl → Bytes → List (KeyedSgl × Bytes)
  | [], _ => []
  | d :: ds, bs => if bs.isEmpty then [] else (d, bs.take d.len) :: spreadOver ds (bs.drop d.len)

/-- The descriptors name at least `len` bytes. -/
def sglHolds (sgl : List KeyedSgl) (len : Nat) : Bool := decide (len ≤ (sgl.map (·.len)).foldl (· + ·) 0)

/-- NVMe 2.0's completion queue entry as a response capsule carries it (log 156): Dword 0 (8 bytes for Property Get), SQHD, the
command identifier and the status. -/
def responseCapsule (key : CmdKey) (sqhd status : Nat) (dnr : Bool) (dword0 : Nat) : Bytes :=
  leBytes 8 dword0 ++ leBytes 2 sqhd ++ leBytes 2 0 ++ leBytes 2 key.cid ++ leBytes 2 (status * 2 + (if dnr then 2 ^ 15 else 0))

/-- Start one work request of an NVMe queue pair's send ring. -/
def State.startItem (s : State) (idx : Nat) (m : SendItem) : State :=
  if !s.qpSends idx then s else
  match m with
  | .response capsule none => s.startSend idx 0 capsule.length false 0 fun psn => .send psn capsule
  | .response capsule (some k) => s.startSend idx 1 capsule.length false 0 fun psn => .sendInvalidate psn capsule k
  | .data parts => s.each parts fun (d, bs) s => s.startSend idx 2 bs.length false 0 fun psn => .write psn d.addr d.key bs
  | .fetch key source =>
    if s.host.commands.any (·.key == key) then
      s.startRead idx ((source.map (·.len)).foldl (· + ·) 0) false 0 (fetchPieces (s.pmtu idx) key source 0)
    else s

/-- R136: start what waits in an NVMe queue pair's send ring, in order, as far as its READ requests can be sent; `fuel` is what
waits. -/
def State.pumpSends (s : State) (idx : Nat) : Nat → State
  | 0 => s
  | n + 1 =>
    let s := s.grantReads idx
    if s.readsWait idx then s else
    match s.rdma.sends.find? (·.1 == idx) with
    | none => s
    | some (_, m) => ((s.onRdma fun r => { r with sends := r.sends.eraseP (·.1 == idx) }).startItem idx m).pumpSends idx n

def State.runSends (s : State) (idx : Nat) : State := s.pumpSends idx (s.rdma.sends.length + 1)

/-- An item of a send ring has its context at hand. -/
def State.serveSend (s : State) (idx : Nat) (m : SendItem) : State :=
  (s.onRdma fun r => { r with sends := r.sends ++ [(idx, m)] }).runSends idx

/-- The flow engine writes a work request into an NVMe queue pair's send ring. -/
def State.transmit (s : State) (idx : Nat) (m : SendItem) : State :=
  s.throughPipeline true idx (.send m) fun s => s.serveSend idx m

/-- R132: a response capsule is queued for sending: the receive slot of its command is posted again, and SQHD advances. -/
def State.queueResponse (s : State) (idx : Nat) (key : CmdKey) (status : Nat) (dnr : Bool) (dword0 : Nat) (invalidate : Option Nat) : State :=
  let depth := s.ctx idx Ctx.RQ_DEPTH
  let head := if depth = 0 then 0 else (s.ctx idx Ctx.SQHD + 1) % depth
  let s := s.setCtx idx Ctx.RQ_POSTED (min depth (s.ctx idx Ctx.RQ_POSTED + 1))
  (s.setCtx idx Ctx.SQHD head).transmit idx (.response (responseCapsule key head status dnr dword0) invalidate)

/-- Post a completion (Table 3.7: status is type × 256 + code). Over RDMA the response capsule is queued for sending. On the
direct port a status that cannot be posted is lost (R378). -/
def State.respond (s : State) (key : CmdKey) (status : Nat) (dnr : Bool) (dword0 : Nat := 0) (invalidate : Option Nat := none) : State :=
  if key.ctrl = s.directId then (if s.directRuns then (s.emit (.completion key status dnr dword0)).directCompletion key.qid else s) else
  let s := s.emit (.completion key status dnr dword0)
  match s.queuePairOf key.ctrl key.qid with
  | none => s
  | some idx => if s.qpSends idx then s.queueResponse idx key status dnr dword0 invalidate else s

/-- Send read data to the host buffer: RDMA WRITE packets on the command's queue pair, or PCIe writes on the direct
port; the blocks go out as they stand in the extended format. -/
def State.sendData (s : State) (key : CmdKey) (blocks : List (Nat × Bytes)) : State :=
  let bytes := blocks.flatMap (·.2)
  if key.ctrl = s.directId then (if s.directRuns then ((s.emit (.hostData key blocks)).emit (.direct (.dataWrite bytes.length (bitOf (s.cfgWord 0 0x78) 4)))).writeTlps bytes.length else s) else
  let sgl := s.sglOf key
  let s := s.emit (.hostData key blocks)
  match s.queuePairOf key.ctrl key.qid with
  | none => s
  | some idx => if bytes.isEmpty then s else s.transmit idx (.data (spreadOver sgl bytes))

end Sys2Proof.Machine
end

