-- ==== Sys2Proof/Machine/Stripes.lean ====
section
/-! DEFINITION. The operations of the data path under the host commands: geometry in force, translation and location
(R208–R210, R234), commands to members, the journal (R223–R225), accumulating and closing a stripe (R215–R221), and
freeing held copies (R23). -/

set_option Elab.async false

namespace Sys2Proof.Machine

/-! Geometry in force. -/

/-- QDL_GEOM of a set. -/
def State.geom (s : State) (set : Nat) : Geom :=
  ⟨s.rd (QDL_GEOM.NMEM set), s.rd (QDL_GEOM.KDATA set), s.rd (QDL_GEOM.MPAR set), s.rd (QDL_GEOM.SPARE set),
   s.rd (QDL_GEOM.BLOCKS set)⟩

/-- QDL_GEOM_NEXT of a set. -/
def State.geomNext (s : State) (set : Nat) : Geom :=
  ⟨s.rd (QDL_GEOM_NEXT.NMEM set), s.rd (QDL_GEOM_NEXT.KDATA set), s.rd (QDL_GEOM_NEXT.MPAR set),
   s.rd (QDL_GEOM_NEXT.SPARE set), s.rd (QDL_GEOM_NEXT.BLOCKS set)⟩

/-- The geometry a generation of the set stands for: the next layout for GEN_NEXT, else the active one. -/
def State.nextLayout (s : State) (set gen : Nat) : Bool :=
  gen != s.rd (QDL_GEN.GEN set) && gen == s.rd (QDL_GEN.GEN_NEXT set)

def State.geomOf (s : State) (set gen : Nat) : Geom := if s.nextLayout set gen then s.geomNext set else s.geom set
def State.figOf (s : State) (set gen : Nat) : List FigRow := if s.nextLayout set gen then s.store.figNext else s.store.fig

/-- R199: the members' common capacity in blocks. -/
def State.memberCapacity (s : State) (set : Nat) : Nat := ((s.store.memberBlocks.find? (·.1 == set)).map (·.2)).getD 0

/-- R262, R267: the layout bit of an extent: its move has switched, or it was taken in the next layout and has no move. -/
def State.layoutBit (s : State) (nsid ext : Nat) : Bool :=
  match s.store.moves.find? fun m => m.nsid == nsid && m.ext == ext with
  | some m => m.state == .switched || m.state == .freed
  | none => true

/-- R208, R262: translate a namespace LBA; none where the namespace has no such extent. -/
def State.translate (s : State) (ns : Namespace) (lba : Nat) : Option Place :=
  match ns.extents[lba / 262144]? with
  | none => none
  | some x =>
    let gen := if s.layoutBit ns.nsid (lba / 262144) && s.rd (RBD_SSTAT.PROM ns.set) == 1 then s.rd (QDL_GEN.GEN_NEXT ns.set)
      else s.rd (QDL_GEN.GEN ns.set)
    let p := (s.geomOf ns.set gen).blockPlace x (lba % 262144)
    some ⟨ns.set, gen, p.stripe, p.strip, p.row, none⟩

/-- R208: translate the tag block that holds the host tag of an LBA. -/
def State.translateTag (s : State) (ns : Namespace) (lba : Nat) : Option Place :=
  match s.translate ns lba, ns.extents[lba / 262144]? with
  | some q, some x =>
    let p := (s.geomOf ns.set q.gen).tagPlace x (lba % 262144)
    some ⟨ns.set, q.gen, p.stripe, p.strip, p.row, none⟩
  | _, _ => none

/-- R216, R262: the map bit of a stripe, in the map of its layout. -/
def State.mapBit (s : State) (set gen stripe : Nat) : Bool :=
  if s.nextLayout set gen then s.store.stripeMapNext.contains (set, stripe)
  else s.store.mapAllSet.contains set != s.store.stripeMap.contains (set, stripe)

/-- A list of stripes with one put in or taken out. -/
def putStripe (l : List (Nat × Nat)) (a : Nat × Nat) (v : Bool) : List (Nat × Nat) :=
  if v then (if l.contains a then l else a :: l) else l.filter (· != a)

/-- R284: a page of mirrored metadata has changed: map kind, set and the bit changed; 32,768 bits lie in a page. -/
def State.touchPage (s : State) (kind set bit : Nat) : State :=
  let p := (kind, set, bit / 32768)
  if s.energy.dirtyPages.contains p then s else
  (s.onEnergy fun e => { e with dirtyPages := p :: e.dirtyPages
                                mirrorFast := e.mirrorFast || 65536 ≤ e.dirtyPages.length + 1
                                mapWait := e.mapWait || 196608 ≤ e.dirtyPages.length + 1 }).wr VLT_MAPDIRTY.N (s.energy.dirtyPages.length + 1)

/-- R216: set or clear a stripe's map bit. After a lost map the list holds the stripes cleared since. -/
def State.writeMapBit (s : State) (set gen stripe : Nat) (v : Bool) : State :=
  if s.nextLayout set gen then (s.touchPage 1 set stripe).onStore fun x => { x with stripeMapNext := putStripe x.stripeMapNext (set, stripe) v }
  else (s.touchPage 0 set stripe).onStore fun x => { x with stripeMap := putStripe x.stripeMap (set, stripe) (v != x.mapAllSet.contains set) }

/-! Members. -/

/-- R210: the spare column in which a valid substitution of member `u` lies. A layout whose s is not above z takes the
substitution as absent (R265). -/
def State.substitution (s : State) (set u spares : Nat) : Option Nat :=
  (List.range (min spares 4)).find? fun z => s.flag (QDL_SUB.VALID set z) && s.rd (QDL_SUB.MEMBER set z) == u

/-- The place of a stripe among all of a set: its number in the active layout; during a Promenade the next layout's stripes
come after those (R265, log 169). -/
def State.pos (s : State) (set gen stripe : Nat) : Nat :=
  if s.nextLayout set gen then (s.geom set).stripes (s.memberCapacity set) + stripe else stripe

/-- The generation and number of the stripe at a position. -/
def State.stripeAt (s : State) (set p : Nat) : Nat × Nat :=
  let last := (s.geom set).stripes (s.memberCapacity set)
  if p < last then (s.rd (QDL_GEN.GEN set), p) else (s.rd (QDL_GEN.GEN_NEXT set), p - last)

/-- R234: the rebuild bit of a position under a substitution. -/
def State.rebuildBit (s : State) (set z p : Nat) : Bool := s.store.rebuilt.contains (set, z, p)

/-- R255: a position whose strip of `u` is not yet copied back. -/
def State.awaitsCopyBack (s : State) (set u p : Nat) : Bool :=
  s.store.copyBack.contains (set, u) && s.rd64 (RBD_CPOS.addr set) ≤ p

/-- R210, R234, R255: the member that holds strip `i` of a stripe now: the member itself, its spare location once rebuilt,
or none. -/
def State.holder (s : State) (set gen stripe i : Nat) : Option Nat :=
  let g := s.geomOf set gen
  let u := g.member (s.figOf set gen) set stripe i
  if s.flag (QDL_MEM.FAILED set u) || s.awaitsCopyBack set u (s.pos set gen stripe) then
    match s.substitution set u g.s with
    | some z => if s.rebuildBit set z (s.pos set gen stripe) then some (g.spareMember (s.figOf set gen) set stripe z) else none
    | none => none
  else some u

/-- The member that holds strip `i` of a stripe before R210. -/
def State.homeMember (s : State) (set gen stripe i : Nat) : Nat := (s.geomOf set gen).member (s.figOf set gen) set stripe i

/-- Whether a stripe holds a strip of member `u`. -/
def State.stripeHolds (s : State) (set gen stripe u : Nat) : Bool :=
  (List.range (s.geomOf set gen).w).any fun i => s.homeMember set gen stripe i == u

/-- The stripe at a position holds a strip of a substitution's member, in a layout that has its spare column (R265). -/
def State.posHolds (s : State) (set p z u : Nat) : Bool :=
  let q := s.stripeAt set p
  Decidable.decide (z < (s.geomOf set q.1).s) && s.stripeHolds set q.1 q.2 u

/-- The valid substitutions of a set that are rebuilding: spare column and member. -/
def State.rebuilding (s : State) (set : Nat) : List (Nat × Nat) :=
  (List.range 4).filterMap fun z =>
    if s.flag (QDL_SUB.VALID set z) && s.rd (QDL_SUB.STATE set z) == 1 then some (z, s.rd (QDL_SUB.MEMBER set z)) else none

/-- Strips of the stripe at a position that lie on failed members and whose rebuild bit is clear. -/
def State.missingStrips (s : State) (set p : Nat) : Nat :=
  let q := s.stripeAt set p
  ((List.range (s.geomOf set q.1).w).filter fun i =>
    let u := s.homeMember set q.1 q.2 i
    s.flag (QDL_MEM.FAILED set u) && !((s.substitution set u (s.geomOf set q.1).s).any fun z => s.rebuildBit set z p)).length

/-- Table 9.1: the stripe at a position is of class A. -/
def State.isClassA (s : State) (set p : Nat) : Bool :=
  (s.geomOf set (s.stripeAt set p).1).m ≤ s.missingStrips set p && 0 < s.missingStrips set p

/-- Table 9.1: a counted stripe of class A is left. -/
def State.classA (s : State) (set : Nat) : Bool := s.store.counted.any fun p => p.1 == set && s.isClassA set p.2

/-- R240: DONE and STATE of a set. -/
def State.showRebuild (s : State) (set : Nat) : State :=
  let sub := s.rebuilding set
  let done := (s.store.counted.filter fun p => p.1 == set &&
    sub.all fun (z, u) => !s.posHolds set p.2 z u || s.rebuildBit set z p.2).length
  let s := if sub.isEmpty then s else
    (s.setReg (RBD_DONE.addr set) (BitVec.ofNat 64 done)).setReg (RBD_TOTAL.addr set)
      (BitVec.ofNat 64 (s.store.counted.filter (·.1 == set)).length)
  s.wr (RBD_SSTAT.STATE set) (if s.classA set then 2 else if s.store.copyBack.any (·.1 == set) then 3 else if sub.isEmpty then 0 else 1)

/-- R234: set the rebuild bit of a position. -/
def State.setRebuildBit (s : State) (set z p : Nat) : State :=
  (s.touchPage (2 + z) set p).onStore fun x => { x with rebuilt := if x.rebuilt.contains (set, z, p) then x.rebuilt else (set, z, p) :: x.rebuilt }

/-- The rebuilding substitutions whose strip the stripe at a position holds. -/
def State.rebuildingAt (s : State) (set p : Nat) : List (Nat × Nat) := (s.rebuilding set).filter fun (z, u) => s.posHolds set p z u

/-- R241 step 5: set the rebuild bits of a position. -/
def State.setRebuilt (s : State) (set p : Nat) : State := s.each (s.rebuildingAt set p) fun q s => s.setRebuildBit set q.1 p

/-- R234: clear the rebuild bits of a spare column that a test picks, each in its page. -/
def State.clearRebuildBits (s : State) (set z : Nat) (p : Nat → Bool) : State :=
  let gone := s.store.rebuilt.filter fun r => r.1 == set && r.2.1 == z && p r.2.2
  (s.each gone fun r s => s.touchPage (2 + z) set r.2.2).onStore fun x => { x with
    rebuilt := x.rebuilt.filter fun r => !(r.1 == set && r.2.1 == z && p r.2.2) }

/-- R238: a deallocated stripe takes its rebuild bits without member I/O, counted once. -/
def State.skipRebuild (s : State) (set p : Nat) : State :=
  if (s.rebuildingAt set p).all fun q => s.rebuildBit set q.1 p then s
  else ((s.setRebuilt set p).count RBD_SKIPPED.addr).showRebuild set

/-- R216, R238: set or clear a stripe's map bit; a bit that clears during a rebuild sets the stripe's rebuild bits. -/
def State.setMapBit (s : State) (set gen stripe : Nat) (v : Bool) : State :=
  let s := s.writeMapBit set gen stripe v
  if v then s else s.skipRebuild set (s.pos set gen stripe)

/-- The slot of a member (QDL_MEMu). -/
def State.slotOf (s : State) (set u : Nat) : Nat := s.rd (QDL_MEM.SLOT set u)

/-- The least number of a list. -/
def leastOf : List Nat → Option Nat
  | [] => none
  | a :: l => match leastOf l with | some b => some (min a b) | none => some a

/-- R199: the common capacity of members 0 to n − 1, from what their slots' checks found. -/
def State.commonCapacity (s : State) (set n : Nat) : Nat :=
  (leastOf ((List.range n).map fun u => ((s.store.slotBlocks.find? (·.1 == s.slotOf set u)).map (·.2)).getD 0)).getD 0

/-- R209: a translation, with the member that holds its strip now and that member's slot. -/
def State.resolve (s : State) (p : Place) : Place :=
  { p with member := (s.holder p.set p.gen p.stripe p.strip).map fun u => (u, s.slotOf p.set u) }

/-- R209: the member and slot a translation sends to: those of its decode while that member has not failed, else those that
hold the strip now. -/
def State.target (s : State) (set gen stripe strip : Nat) (member : Option (Nat × Nat)) : Option (Nat × Nat) :=
  match member with
  | some (u, k) => if s.flag (QDL_MEM.FAILED set u) then (s.holder set gen stripe strip).map fun v => (v, s.slotOf set v) else some (u, k)
  | none => (s.holder set gen stripe strip).map fun v => (v, s.slotOf set v)

/-- Send one command to a drive: a write carries the 64-bit guard of its bytes, with PRACT clear and all PRCHK bits set
(R211). -/
def State.issue (s : State) (kind : OpKind) (slot set stripe strip row member mba gen : Nat) (content : Bytes) (why : OpPurpose) : State :=
  let op : MemberOp := {
    id := s.store.nextOp
    slot := slot
    kind := kind
    set := set
    stripe := stripe
    strip := strip
    row := row
    member := member
    mba := mba
    gen := gen
    content := content
    purpose := why
    retries := 0
    timeouts := 0
    sentAt := s.now
    guard := if kind == .write then (Config.guard64 content).toNat else 0
    pract := false
    prchk := if kind == .write then 7 else 0 }
  ((s.onStore fun x => { x with ops := x.ops ++ [op], nextOp := x.nextOp + 1 }).count (SLT_CMDS.addr slot)).emit (.memberCmd op) |>.postedTo slot kind

/-- Send one command to a named member, in a named slot, for a strip. -/
def State.sendStripAt (s : State) (kind : OpKind) (u slot set gen stripe strip row : Nat) (content : Bytes) (why : OpPurpose) : State :=
  s.issue kind slot set stripe strip row u ((s.geomOf set gen).memberBlock stripe strip row) gen content why

/-- Send one command to the member that holds a strip; nothing is sent where no location holds it. -/
def State.sendMember (s : State) (kind : OpKind) (set gen stripe strip row : Nat) (content : Bytes) (why : OpPurpose) : State :=
  match s.holder set gen stripe strip with
  | none => s
  | some u => s.sendStripAt kind u (s.slotOf set u) set gen stripe strip row content why

/-- Send one command to a named member at a named block. -/
def State.sendMemberAt (s : State) (kind : OpKind) (set u mba : Nat) (content : Bytes) (why : OpPurpose) : State :=
  s.issue kind (s.slotOf set u) set 0 0 0 u mba (s.rd (QDL_GEN.GEN set)) content why

/-- Table 4.13: a walk runs on a set: a sanitize on every set, a format on its namespace's. -/
def State.walkRunsOn (s : State) (set : Nat) : Bool :=
  s.admin.ops.any fun o => o.state == 1 && (o.slot == 8 || s.host.namespaces.any fun n => n.nsid == o.newest.nsid && n.set == set)

/-! Journal. -/

/-- A value kept per set. -/
def perSet (l : List (Nat × Nat)) (set : Nat) : Nat := ((l.find? (·.1 == set)).map (·.2)).getD 0
def putPerSet (l : List (Nat × Nat)) (set v : Nat) : List (Nat × Nat) := putBy (·.1) (set, v) l

/-- The lowest free of the 262,144 journal slots (R224). -/
def State.freeJournalSlot (s : State) : Option Nat :=
  (List.range (min 262144 (s.store.journal.length + 1))).find? fun n => !(s.store.journal.any (·.slot == n))

/-- R223: make a record of an entry: the next SEQ of its set, this measure; it replaces the slot's entry. -/
def State.journalRecord (s : State) (e : JournalEntry) : State :=
  let seq := perSet s.store.jseq e.set + 1
  let e := { e with seq := seq, meas := s.measure, persisted := false }
  let s := s.onStore fun x => { x with journal := putBy JournalEntry.slot e x.journal, jseq := putPerSet x.jseq e.set seq,
                                       records := x.records ++ [e], unwritten := x.unwritten ++ [e] }
  s.wr QDL_JSTAT.LIVE (s.store.journal.filter (·.state != 3)).length

/-- The journal drives of a set that are in service (R225): member indices, without members that have failed (R247). -/
def State.journalDrives (s : State) (set : Nat) : List Nat :=
  ((if s.flag (QDL_JDRV.V0 set) then [s.rd (QDL_JDRV.J0 set)] else []) ++
  (if s.flag (QDL_JDRV.V1 set) then [s.rd (QDL_JDRV.J1 set)] else []) ++
  (if s.flag (QDL_JDRV.V2 set) then [s.rd (QDL_JDRV.J2 set)] else [])).filter fun u => !s.flag (QDL_MEM.FAILED set u)

/-! Open stripes. -/

def OpenStripe.isAt (o : OpenStripe) (set stripe : Nat) : Bool := o.set == set && o.stripe == stripe

def State.openStripe (s : State) (set stripe : Nat) : Option OpenStripe := s.store.openStripes.find? (·.isAt set stripe)

/-- Change an open stripe in place. -/
def State.onStripe (s : State) (set stripe : Nat) (f : OpenStripe → OpenStripe) : State :=
  s.onStore fun x => { x with openStripes := x.openStripes.map (fun o => if o.isAt set stripe then f o else o) }

/-- R218: a write-type command accepted with its room: what it covers will be written. -/
def HostCmd.writesNow (c : HostCmd) : Bool :=
  (c.kind == .write || c.kind == .copy || c.kind == .writeZeroes || c.kind == .dsm && c.deallocate) &&
  (c.stage == .fetch || c.stage == .move || c.stage == .held)

/-- R218: the writes accepted for a stripe, those accumulated and those still to come, cover every data block of it. -/
def State.covered (s : State) (o : OpenStripe) : Bool :=
  (List.range (s.geomOf o.set o.gen).k).all fun i => (List.range 8).all fun j => o.written.contains (i, j) ||
    s.host.commands.any fun c => c.writesNow && c.places.any fun p => p.any fun p =>
      p.set == o.set && p.stripe == o.stripe && p.strip == i && p.row == j

/-- R218: the stripe posts a block at once: its map bit was clear when it opened, or its writes cover every data block. -/
def State.postsAtOnce (s : State) (o : OpenStripe) : Bool := o.clearAtOpen || s.covered o

/-- QDL_STAT: open stripes and those that hold waiting copies. -/
def State.showOpen (s : State) : State :=
  s.wrs [(QDL_STAT.OPEN, s.store.openStripes.length),
         (QDL_STAT.DEFER, (s.store.openStripes.filter fun o =>
            o.phase == .opened && !s.postsAtOnce o).length)]

/-- R214: add one block to a stripe's accumulator row. -/
def accAdd (m : Nat) (acc : List (Nat × Nat × Bytes)) (row strip : Nat) (d : Bytes) : List (Nat × Nat × Bytes) :=
  (List.range m).foldl (fun acc p =>
    let add := scaleBytes (parityCoeff p strip) d
    match acc.find? (fun a => a.1 == row && a.2.1 == p) with
    | some _ => acc.map fun a => if a.1 == row && a.2.1 == p then (row, p, xorBytes a.2.2 add) else a
    | none => (row, p, add) :: acc) acc

/-- The partial parity of a row. -/
def accGet (acc : List (Nat × Nat × Bytes)) (row p : Nat) : Bytes :=
  ((acc.find? fun a => a.1 == row && a.2.1 == p).map (·.2.2)).getD (zeroBlock)

/-- The rows that have changed. -/
def OpenStripe.rows (o : OpenStripe) : List Nat := (List.range 8).filter fun j => o.written.any (·.2 == j)

/-- Data blocks of a row written since the stripe opened (u of R221). -/
def OpenStripe.writtenIn (o : OpenStripe) (row : Nat) : List Nat := (o.written.filter (·.2 == row)).map (·.1)

/-- Copies of one block, newest first. -/
def State.copiesOf (s : State) (nsid lba : Nat) : List HeldCopy :=
  (s.store.copies.filter fun c => c.nsid == nsid && c.lba == lba).reverse

/-- The newest copy of one stripe block that its open stripe has accumulated. -/
def State.stripeCopy (s : State) (set stripe strip row : Nat) : Option HeldCopy :=
  (s.store.copies.filter fun c => c.set == set && c.stripe == stripe && c.strip == strip && c.row == row && c.accumulated &&
    !c.reported).getLast?

/-! Counts of dirty data (R272). -/

def State.dirtyBlocks (s : State) : Nat := s.rd VLT_DIRTY.N
def State.showDirty (s : State) : State :=
  s.wrs [(VLT_DIRTY.N, s.store.copies.length), (VLT_WTHELD.N, (s.store.copies.filter fun c => !c.writeBack).length),
         (VLT_MIRROR.N, s.store.mirrors.length)]

/-- R70: a read waits for this copy to become durable, so it stays held until the read has resumed. -/
def State.awaited (s : State) (id : Nat) : Bool := s.host.commands.any fun h => h.awaits.any (·.2 == id)

/-- R23: whether a copy may be freed: its stripe fully reported, the copy durable, and no read waiting for it. -/
def State.freeable (s : State) (c : HeldCopy) : Bool := c.reported && c.durable && !s.awaited c.id

/-- R544: the recovery of a copy that has been freed is abandoned. -/
def State.abandonRecoveries (s : State) (gone : List HeldCopy) : State :=
  let ended := s.integrity.recoveries.filter fun r => gone.any fun c => r.item == .heldCopy c.id
  s.each ended fun r s =>
    (s.onIntegrity fun x => { x with recoveries := dropBy Recovery.id r.id x.recoveries }).integrityFault 11 1 0 r.addr r.test

/-- R23: free every held copy that may be freed; each leaves the dirty count. -/
def State.freeCopies (s : State) : State :=
  let gone := s.store.copies.filter s.freeable
  let s := s.abandonRecoveries gone
  ((s.onStore fun x => { x with copies := x.copies.filter (fun c => !s.freeable c) }).onEnergy
    fun e => { e with restored := e.restored.filter (fun i => !(gone.any (·.id == i))) }).showDirty

/-! Posting. -/

/-- A command of a host read, or of a tag block that host commands need. -/
def OpPurpose.ofHost : OpPurpose → Bool
  | .host .. | .tagBlock .. => true
  | _ => false

/-- Whether an earlier post of the same block is outstanding (R219), or a host's read of the block's content before it: such a
read must not return content that is not yet durable, or another version's tag (R23, R60; log 148). -/
def State.postOutstanding (s : State) (c : HeldCopy) : Bool :=
  s.store.ops.any fun o => o.set == c.set && o.stripe == c.stripe && o.strip == c.strip && o.row == c.row &&
    (o.kind == .write || o.kind == .dealloc || o.purpose.ofHost)

/-- R225: a write-through stripe's Open record is on at least two regions and on every region in service. -/
def State.openRecordWritten (s : State) (o : OpenStripe) : Bool :=
  let mine := s.store.journal.filter fun e => e.set == o.set && (e.slot == o.slot || e.tstripes.contains o.stripe)
  2 ≤ (s.journalDrives o.set).length && !mine.isEmpty && mine.all (·.persisted)

/-- R325: a group that this module led and whose lease is no longer valid: no further drive command is issued for it. -/
def State.leaseGone (s : State) (g : Nat) : Bool := s.token.groups.any fun t => t.group == g && (t.role == .lapsed || t.role == .lost)

/-- R218, R219, R225, R236, R325, R336: whether a copy may be posted to its member now. -/
def State.mayPost (s : State) (o : OpenStripe) (c : HeldCopy) : Bool :=
  !s.link.waiting.contains c.id && !s.leaseGone c.group &&
  !c.posted && c.accumulated && !s.postOutstanding c && !s.store.locked.contains (c.set, c.stripe) &&
  (c.writeBack || s.openRecordWritten o) && (s.postsAtOnce o || (o.phase != .opened && !o.rowsLeft.contains c.row))

/-- R218, R235: post one copy. Where the member has failed and the rebuild bit is clear nothing is sent: the parity
carries the content. -/
def State.postCopy (s : State) (c : HeldCopy) : State :=
  let s := s.onStore fun x => { x with copies := setBy HeldCopy.id c.id (fun y => { y with posted := true }) x.copies }
  match s.target c.set c.gen c.stripe c.strip c.member with
  | none => s
  | some (u, k) => s.sendStripAt (if c.dealloc then .dealloc else .write) u k c.set c.gen c.stripe c.strip c.row c.content (.copy c.id)

/-- R223: every block that a stripe has accumulated is a deallocation. -/
def State.onlyDealloc (s : State) (set stripe : Nat) : Bool :=
  (s.store.copies.filter fun c => c.set == set && c.stripe == stripe && c.accumulated && !c.reported).all (·.dealloc)

/-- Every data block of the stripe has been deallocated since it opened (R222, whole-stripe deallocation). -/
def State.whollyDeallocated (s : State) (o : OpenStripe) : Bool :=
  o.written.length == 8 * (s.geomOf o.set o.gen).k &&
  o.written.all fun (i, j) => (s.stripeCopy o.set o.stripe i j).any (·.dealloc)

/-- Write the parity blocks of a row; in a stripe wholly deallocated the parity is deallocated as well (R222). -/
def State.writeParity (s : State) (o : OpenStripe) (row : Nat) (parity : List Bytes) : State :=
  let g := s.geomOf o.set o.gen
  let kind := if s.whollyDeallocated o then OpKind.dealloc else .write
  s.each (List.range g.m) fun p s => s.sendMember kind o.set o.gen o.stripe (g.k + p) row (parity.getD p []) .parity

/-- R225: whether blocks of the stripe still wait for the journal: it takes write-through writes and its record is not yet
on the regions. -/
def State.waitsForRecord (s : State) (o : OpenStripe) : Bool :=
  s.leaseGone o.group || (s.store.copies.any fun c => c.set == o.set && c.stripe == o.stripe && c.accumulated && !c.reported && !c.writeBack) &&
  !s.openRecordWritten o

/-- R225: post the parity of the rows that waited for the journal; such a row is finished. -/
def State.postParity (s : State) (set stripe : Nat) : State :=
  match s.openStripe set stripe with
  | none => s
  | some o =>
    if o.held.isEmpty || s.waitsForRecord o then s else
    let s := s.each o.held fun (row, parity) s => s.writeParity o row parity
    s.onStripe set stripe fun o =>
      let left := o.rowsLeft.filter fun j => !o.held.any (·.1 == j)
      { o with rowsLeft := left, held := [], phase := if left.isEmpty then .posting else o.phase }

/-- Post the blocks of a stripe that may be posted: parity that waited, then its copies. -/
def State.postReady (s : State) (set stripe : Nat) : State :=
  let s := s.postParity set stripe
  (s.store.copies.filter fun c => c.set == set && c.stripe == stripe).foldl (fun s c =>
    match s.openStripe set stripe with
    | some o => if s.mayPost o c then s.postCopy c else s
    | none => s) s

/-! Closing. -/

/-- R221: the method of a row with u written blocks: no read, reconstruct, or read-modify-write; and the strips read. A row
whose old content has gone, because a written block of it has been posted, closes by the other method. -/
def closeReads (g : Geom) (clear posted : Bool) (written : List Nat) : Option (RowPurpose × List Nat) :=
  if clear || written.length == g.k then none
  else if posted || g.k - written.length ≤ written.length + g.m then
    some (.closeReconstruct, (List.range g.k).filter fun i => !written.contains i)
  else some (.closeModify, written ++ (List.range g.m).map (g.k + ·))

/-- Start reading strips of a row for a purpose. Strips with no location count as bad at once. -/
def State.startJob (s : State) (set gen stripe row : Nat) (strips : List Nat) (why : RowPurpose) : State :=
  let present := strips.filter fun i => (s.holder set gen stripe i).isSome
  let absent := strips.filter fun i => (s.holder set gen stripe i).isNone
  let id := s.store.nextJob
  let s := s.onStore fun x => { x with
      nextJob := id + 1
      jobs := x.jobs ++ [⟨id, set, stripe, row, gen, present, [], absent, [], why⟩] }
  s.each present fun i s => s.sendMember .read set gen stripe i row [] (.row id)

/-- R221: which counter a row's method adds to. -/
def State.countClose (s : State) (g : Geom) (clear posted : Bool) (written : List Nat) : State :=
  match closeReads g clear posted written with
  | none => s.count (if clear then QDL_CLOSE_ZERO.addr else QDL_CLOSE_FULL.addr)
  | some (.closeModify, _) => s.count QDL_CLOSE_RMW.addr
  | some _ => s.count QDL_CLOSE_RECON.addr

/-- One row of a close has its parity: write it when the journal lets it, and let the row's copies be posted. -/
def State.rowParity (s : State) (o : OpenStripe) (row : Nat) (parity : Nat → Bytes) : State :=
  let blocks := (List.range (s.geomOf o.set o.gen).m).map parity
  (s.onStripe o.set o.stripe fun o => { o with held := o.held ++ [(row, blocks)] }).postReady o.set o.stripe

/-- R221: begin the close of an open stripe: the Closing record, then each changed row by its method. -/
def State.closeStripe (s : State) (set stripe : Nat) : State :=
  match s.openStripe set stripe with
  | none => s
  | some o =>
    if o.phase != .opened then s
    else if s.store.locked.contains (set, stripe) || s.leaseGone o.group then s.onStripe set stripe fun o => { o with closeDue := true } else
    let g := s.geomOf set o.gen
    let s := match s.store.journal.find? (·.slot == o.slot) with
      | some e => s.journalRecord { e with state := 2 }
      | none => s
    let s := (s.onStripe set stripe fun o => { o with phase := .closing, rowsLeft := o.rows }).event 0x22 set
    (s.each o.rows fun row s =>
      let posted := s.store.copies.any fun c => c.set == set && c.stripe == stripe && c.row == row && c.accumulated && c.posted
      let s := s.countClose g o.clearAtOpen posted (o.writtenIn row)
      match closeReads g o.clearAtOpen posted (o.writtenIn row) with
      | none => s.rowParity o row (accGet o.acc row)
      | some (why, strips) => s.startJob set o.gen stripe row strips why).showOpen

/-- The stripe that Table 8.5 closes when the limit is reached: the least recently written. -/
def oldestWritten (l : List OpenStripe) : Option OpenStripe :=
  l.foldl (fun best o => match best with | none => some o | some b => if o.lastWrite < b.lastWrite then some o else some b) none

/-- Table 8.5: make place for a new open stripe under QDL_OPEN.MAX and DMAX. -/
def State.makeOpenRoom (s : State) : State :=
  let opened := s.store.openStripes.filter (·.phase == .opened)
  let s := if s.rd QDL_OPEN.MAX ≤ opened.length then
      match oldestWritten opened with | some o => s.closeStripe o.set o.stripe | none => s
    else s
  let waiting := s.store.openStripes.filter fun o => o.phase == .opened && !s.postsAtOnce o
  if s.rd QDL_OPEN.DMAX ≤ waiting.length then
    match oldestWritten waiting with | some o => s.closeStripe o.set o.stripe | none => s
  else s

/-- R411: the addresses from 2^63 up stand for host tag blocks. -/
def isTagLba (lba : Nat) : Bool := 2 ^ 63 ≤ lba

/-- R223: a tag stripe has no journal entry of its own: the entries of the data stripes that change it name it. -/
def noJournalSlot : Nat := 262144

/-- R216, R223: open a stripe for a write: its journal entry first, then its map bit. A stripe that finds no journal slot free
does not open yet (R224). -/
def State.openFor (s : State) (group nsid set gen stripe : Nat) (tag : Bool) : State :=
  match s.openStripe set stripe, if tag then some noJournalSlot else s.freeJournalSlot with
  | some _, _ => s
  | none, none => s
  | none, some slot =>
    let s := s.makeOpenRoom
    let clear := !s.mapBit set gen stripe
    let s := if tag then s else s.journalRecord ⟨slot, 0, 0, set, stripe, gen, 1, 0, 0, if clear then 1 else 0, [], [], false⟩
    let s := s.setMapBit set gen stripe true
    (s.onStore fun x => { x with
      nextOpen := x.nextOpen + 1
      openStripes := x.openStripes ++ [⟨set, stripe, group, nsid, gen, x.nextOpen, slot, clear, .opened,
        s.measure, [], [], [], false, tag, false, []⟩] }).showOpen

/-- R223: the masks of a journal entry after a block of strip `i`, row `j` is written. -/
def JournalEntry.touch (e : JournalEntry) (i j : Nat) : JournalEntry :=
  { e with dmask := e.dmask ||| 2 ^ i, rmask := e.rmask ||| 2 ^ j }

/-- R223: FLAGS bit 3 of a journal entry: its stripe's blocks are deallocations only. -/
def JournalEntry.markDealloc (e : JournalEntry) (only : Bool) : JournalEntry :=
  { e with flags := if only then e.flags ||| 8 else e.flags &&& 7 }

/-- R223: the entry of a data stripe names a tag stripe that the same writes change, and the data strip changed in it. -/
def JournalEntry.touchTag (e : JournalEntry) (stripe strip : Nat) : JournalEntry :=
  match e.tstripes.idxOf? stripe with
  | some n => { e with tmasks := e.tmasks.set n (e.tmasks.getD n 0 ||| 2 ^ strip) }
  | none => { e with
      tstripes := e.tstripes ++ [stripe]
      tmasks := e.tmasks ++ [2 ^ strip]
      flags := e.flags ||| (if e.tstripes.isEmpty then 2 else 4) }

def State.touchTagStripe (s : State) (p q : Place) : State :=
  match s.openStripe p.set p.stripe with
  | none => s
  | some o =>
    match s.store.journal.find? (·.slot == o.slot) with
    | some e => if e.touchTag q.stripe q.strip != e then s.journalRecord (e.touchTag q.stripe q.strip) else s
    | none => s

/-- R219: the newest copy of a block that its open stripe has accumulated. -/
def State.accumulatedCopy (s : State) (c : HeldCopy) : Option HeldCopy :=
  (s.store.copies.filter fun d => d.accumulated && !d.reported && d.set == c.set && d.stripe == c.stripe && d.strip == c.strip &&
    d.row == c.row).getLast?

/-- R214, R219, R223: add a held copy to its open stripe: the block's earlier content is taken out of the accumulator,
the new content added, and a journal record made if the entry's masks change. -/
def State.addToStripe (s : State) (c : HeldCopy) (o : OpenStripe) : State :=
  let m := (s.geomOf c.set c.gen).m
  let acc := match s.accumulatedCopy c with | some d => accAdd m o.acc c.row c.strip d.content | none => o.acc
  let acc := accAdd m acc c.row c.strip c.content
  let s := s.onStore fun x => { x with copies := setBy HeldCopy.id c.id (fun y => { y with accumulated := true }) x.copies }
  let s := s.onStripe c.set c.stripe fun o => { o with
    acc := acc
    lastWrite := s.measure
    idle := false
    written := if o.written.contains (c.strip, c.row) then o.written else o.written ++ [(c.strip, c.row)] }
  match s.store.journal.find? (·.slot == o.slot) with
  | some e =>
    let e' := (e.touch c.strip c.row).markDealloc (s.onlyDealloc c.set c.stripe)
    if e' != e then s.journalRecord e' else s
  | none => s

/-- A held copy joins its stripe, which opens if it is not open. While the stripe is being closed the copy waits until
it has retired (DEDUCED, log 7), as it does while the other layout's stripe of the same number is open, which closes (log 169). -/
def State.accumulate (s : State) (c : HeldCopy) : State :=
  let s := s.openFor c.group c.nsid c.set c.gen c.stripe (isTagLba c.lba)
  match s.openStripe c.set c.stripe with
  | none => s
  | some o => if o.gen != c.gen then s.closeStripe c.set c.stripe else if o.phase == .opened then s.addToStripe c o else s

/-- R21, R271: a whole new block becomes a held copy; in write-back mode its mirror copy waits for the link. A deallocated
block is mirrored as the block of zeroes it is (R63, R222; log 149). -/
def State.holdBlock (s : State) (ns : Namespace) (p : Place) (lba : Nat) (content : Bytes) (dealloc wb : Bool)
    (ptag : Nat) (key : Option CmdKey) : State :=
  let c : HeldCopy := ⟨s.store.nextCopy, ns.group, ns.nsid, lba, p.set, p.stripe, p.strip, p.row, p.gen, content, dealloc,
    ptag, wb, none, false, key, false, false, false, p.member⟩
  let s := s.onStore fun x => { x with copies := x.copies ++ [c], nextCopy := x.nextCopy + 1 }
  let s := if wb then s.onLink fun l => { l with waiting := l.waiting ++ [c.id] } else s
  ((s.accumulate c).showDirty).showOpen

/-- Table 8.5, first row: close a stripe whose every data block has been accumulated. -/
def State.closeIfFull (s : State) (set stripe : Nat) : State :=
  match s.openStripe set stripe with
  | some o => if o.written.length == 8 * (s.geomOf set o.gen).k then s.closeStripe set stripe else s
  | none => s

/-- R217: a stripe with write-through copies whose commands have nothing more to write closes. -/
def State.closeIfThrough (s : State) (set stripe : Nat) : State :=
  if s.store.copies.any fun c => c.set == set && c.stripe == stripe && c.accumulated && !c.reported && !c.writeBack &&
      !(s.host.commands.any fun h => c.cmd == some h.key && h.stage != .held)
  then s.closeStripe set stripe else s

/-- R224: held copies that found no journal slot join their stripes once one is free. -/
def State.accumulateWaiting (s : State) : State :=
  s.each (s.store.copies.filter fun c => !c.accumulated && s.store.assembled.contains c.set && (s.openStripe c.set c.stripe).isNone) fun c s =>
    if (s.store.copies.any fun d => d.id == c.id && !d.accumulated) && (s.openStripe c.set c.stripe).isNone then
      ((s.accumulate c).closeIfFull c.set c.stripe).closeIfThrough c.set c.stripe
    else s

/-! Retiring. -/

/-- R225: whether every journal region in service holds an entry's newest record; with no journal drive in service there
is none to hold it. -/
def State.recordOnJournal (s : State) (e : JournalEntry) : Bool := e.persisted || (s.journalDrives e.set).isEmpty

/-- R223: Retired entries leave the journal once their record is written. -/
def State.dropRetired (s : State) : State :=
  let s := s.onStore fun x => { x with journal := x.journal.filter fun e => !(e.state == 3 && s.recordOnJournal e) }
  s.wr QDL_JSTAT.LIVE (s.store.journal.filter (·.state != 3)).length

/-- R223, R228: a stripe is open, or has its parity formed from the data after a loss of the journal. -/
def State.stripeBusy (s : State) (set stripe : Nat) : Bool :=
  s.store.openStripes.any (·.isAt set stripe) ||
  s.store.steps.any fun p => p.set == set && p.stripe == stripe && p.why == .recovery

/-- R223: an entry that names a stripe is Retired once neither its stripe nor a tag stripe of it is busy. -/
def State.retireEntries (s : State) (set stripe : Nat) : State :=
  s.each (s.store.journal.filter fun e => e.set == set && e.state != 3 && (e.stripe == stripe || e.tstripes.contains stripe) &&
      !s.stripeBusy set e.stripe && !e.tstripes.any (s.stripeBusy set))
    fun e s => s.journalRecord { e with state := 3 }

/-- Table 9.6: a stripe of an extent that is being moved closes: if it has been copied its dirty bit sets. -/
def State.markDirty (s : State) (o : OpenStripe) : State :=
  let x := o.stripe / (s.geomOf o.set o.gen).perExtent
  if s.nextLayout o.set o.gen then s else
  s.onStore fun st => { st with moves := st.moves.map fun m =>
    if m.set == o.set && m.source == x && (m.state == .copying || m.state == .catchUp) && !m.dirty.contains o.stripe then
      { m with dirty := m.dirty ++ [o.stripe] } else m }

/-- R236: lock a stripe. -/
def State.lockStripe (s : State) (set stripe : Nat) : State :=
  s.onStore fun x => { x with locked := putStripe x.locked (set, stripe) true }

/-- R236, R241 steps 2 and 3: lock the stripe and read its strips, row by row. A copy back reads its one strip from the
spare location where that holds it. -/
def State.beginStep (s : State) (p : StripeStep) (strips : List Nat) : State :=
  let s := (s.onStore fun x => { x with steps := x.steps.map fun q =>
    if q.set == p.set && q.stripe == p.stripe then { q with started := true } else q }).lockStripe p.set p.stripe
  s.each p.rowsLeft fun row s => s.startJob p.set p.gen p.stripe row strips p.why

/-- The strips a step reads: all of them, or for a copy back the one at its spare location when its bit is set. -/
def State.stepStrips (s : State) (p : StripeStep) : List Nat :=
  let all := List.range (s.geomOf p.set p.gen).w
  match s.store.copyBack.find? (·.1 == p.set), p.why with
  | some (_, u), .copyBack =>
    match all.find? fun i => s.homeMember p.set p.gen p.stripe i == u && (s.holder p.set p.gen p.stripe i).isSome with
    | some i => [i]
    | none => all
  | _, _ => all

/-- Begin the steps that waited for a stripe to close. -/
def State.beginSteps (s : State) (set stripe : Nat) : State :=
  s.each (s.store.steps.filter fun p => p.set == set && p.stripe == stripe && !p.started) fun p s => s.beginStep p (s.stepStrips p)

/-- R241 step 1: start a step on a stripe; an open stripe is closed first. -/
def State.startStep (s : State) (set gen stripe : Nat) (why : RowPurpose) (rows : List Nat) : State :=
  let s := s.onStore fun x => { x with steps := x.steps ++ [⟨set, gen, stripe, why, false, rows, 0, false⟩] }
  match s.openStripe set stripe with
  | some _ => s.closeStripe set stripe
  | none => s.beginSteps set stripe

/-- Retire a stripe whose members have all reported (R223, R23): its entry becomes Retired; its copies are reported, and
write-through copies are durable. Copies that came while it closed now open it again. -/
def State.retireStripe (s : State) (o : OpenStripe) : State :=
  let empty := s.whollyDeallocated o
  let s := s.markDirty o
  let s := if empty then s.setMapBit o.set o.gen o.stripe false else s
  let mine := fun c : HeldCopy => c.set == o.set && c.stripe == o.stripe && c.accumulated
  let s := s.onStore fun x => { x with
    openStripes := x.openStripes.filter (fun q => !q.isAt o.set o.stripe),
    retired := x.retired ++ [(o.set, o.stripe)],
    copies := x.copies.map (fun c => if mine c then { c with reported := true, durable := c.durable || !c.writeBack } else c) }
  let s := s.retireEntries o.set o.stripe
  let later := s.store.copies.filter fun c => c.set == o.set && c.stripe == o.stripe && !c.accumulated
  let s := s.beginSteps o.set o.stripe
  let s := (s.each later fun c s => s.accumulate c).freeCopies.dropRetired
  ((s.closeIfFull o.set o.stripe).closeIfThrough o.set o.stripe).showOpen

/-- Whether every member written for a stripe has reported. -/
def State.stripeQuiet (s : State) (o : OpenStripe) : Bool :=
  o.phase == .posting && o.rowsLeft.isEmpty &&
  !(s.store.ops.any fun p => p.set == o.set && p.stripe == o.stripe && p.kind != .read) &&
  (s.store.copies.filter fun c => c.set == o.set && c.stripe == o.stripe && c.accumulated).all (·.posted)

/-- Retire a stripe if it is quiet. -/
def State.tryRetire (s : State) (set stripe : Nat) : State :=
  match s.openStripe set stripe with
  | some o => if s.stripeQuiet o then s.retireStripe o else s
  | none => s

/-- R236: unlock a stripe, unless a step or a lost row still holds it: its blocks are posted, and a close that waited runs. -/
def State.unlockStripe (s : State) (set stripe : Nat) : State :=
  if s.store.lostFixes.any (fun f => f.set == set && f.stripe == stripe) ||
     s.store.steps.any (fun p => p.set == set && p.stripe == stripe && p.started) then s else
  let s := (s.onStore fun x => { x with locked := putStripe x.locked (set, stripe) false }).postReady set stripe
  match s.openStripe set stripe with
  | some o => if o.closeDue then s.closeStripe set stripe else s
  | none => s

/-! Lost blocks (R242–R246). -/

/-- The namespace and block-row-0 LBA of a data strip, from the extent maps. -/
def State.stripOwner (s : State) (set gen stripe strip : Nat) : Option (Nat × Nat) :=
  let g := s.geomOf set gen
  let x := stripe / g.perExtent
  let b := stripe % g.perExtent * (8 * g.k) + strip * 8
  s.host.namespaces.findSome? fun ns =>
    if ns.set == set && !ns.deleted && stripe % g.perExtent < g.e then
      (ns.extents.idxOf? x).map fun e => (ns.nsid, e * 262144 + b)
    else none

/-- The namespace and first LBA whose host tags lie in a row of a tag strip; none in a data stripe. -/
def State.tagOwner (s : State) (set gen stripe strip row : Nat) : Option (Namespace × Nat) :=
  let g := s.geomOf set gen
  let x := stripe / g.perExtent
  let tb := (stripe % g.perExtent - g.e) * (8 * g.k) + strip * 8 + row
  if stripe % g.perExtent < g.e || 128 ≤ tb then none else
  s.host.namespaces.findSome? fun ns =>
    if ns.set == set && !ns.deleted then (ns.extents.idxOf? x).map fun e => (ns, e * 262144 + tb * 2048) else none

def LostEntry.isAt (e : LostEntry) (set stripe strip : Nat) : Bool := e.set == set && e.stripe == stripe && e.strip == strip

/-- R246: the set fails, and stays failed until it is deleted. -/
def State.failSet (s : State) (set : Nat) : State :=
  s.onStore fun x => { x with failedSets := if x.failedSets.contains set then x.failedSets else set :: x.failedSets }

/-- R243 step 1, R246: enter rows of one strip in the lost-block map; a full map fails the set. -/
def State.enterLost (s : State) (set stripe strip lba nsid rmask cause : Nat) : State :=
  if s.store.lost.any (·.isAt set stripe strip) then
    (s.onStore fun x => { x with lost := x.lost.map fun e => if e.isAt set stripe strip then
      { e with rmask := e.rmask ||| rmask, durable := false } else e }).count RBD_MARKS.addr
  else if 64512 ≤ s.store.lost.length then (s.flagFault RBD_LOST.FULL 4 1 0x21).failSet set
  else (s.onStore fun x => { x with lost := x.lost ++
    [⟨set, stripe, strip, lba, nsid, s.measure, rmask, cause, false, true⟩] }).count RBD_MARKS.addr

/-- R242, third case: the host tags in a lost tag block are lost with it: every strip of blocks they belong to. -/
def State.loseTags (s : State) (ns : Namespace) (first : Nat) : State :=
  if ns.lbaf = 0 then s else
  s.each (List.range 256) fun n s =>
    match s.translate ns (first + 8 * n) with
    | none => s
    | some p =>
      let s := (s.enterLost p.set p.stripe p.strip (first + 8 * n) ns.nsid 255 5).lockStripe p.set p.stripe
      let fixes := (List.range 8).map fun j => LostFix.mk p.set p.stripe p.gen j [p.strip] []
      s.onStore fun x => { x with lostFixes := x.lostFixes ++ fixes }

/-- R242, R243: the missing data blocks of a row are lost: entered in the map where they belong to a namespace; their
locations and the row's parity wait for the entries to be durable, and the stripe stays locked. -/
def State.loseRow (s : State) (set gen stripe row cause : Nat) (strips : List Nat) (parity : List Bytes) : State :=
  let s := s.each strips fun i s =>
    match s.stripOwner set gen stripe i, s.tagOwner set gen stripe i row with
    | some (nsid, lba), _ => s.enterLost set stripe i lba nsid (2 ^ row) cause
    | none, some (ns, first) => s.loseTags ns first
    | none, none => s
  let s := (s.onStore fun x => { x with lostFixes := x.lostFixes ++ [⟨set, stripe, gen, row, strips, parity⟩] }).lockStripe set stripe
  s.wr RBD_LOST.USED s.store.lost.length

/-- Whether a namespace block is held by the lost-block map. -/
def State.isLost (s : State) (nsid lba : Nat) : Bool :=
  s.store.lost.any fun e => e.nsid == nsid && e.lba ≤ lba && lba < e.lba + 8 && bitOf e.rmask (lba - e.lba)

/-- R244: a full write of a block clears its mark; an entry whose RMASK falls to 0 is freed. -/
def State.clearLost (s : State) (nsid lba : Nat) : State :=
  if s.isLost nsid lba then
    let s := s.onStore fun x => { x with lost := (x.lost.map fun e =>
      if e.nsid == nsid && e.lba ≤ lba && lba < e.lba + 8 && bitOf e.rmask (lba - e.lba) then
        { e with rmask := e.rmask - 2 ^ (lba - e.lba) } else e).filter (·.rmask != 0) }
    (s.count RBD_CLEARS.addr).wr RBD_LOST.USED s.store.lost.length
  else s

end Sys2Proof.Machine
end

