-- ==== Sys2Proof/Machine/Witness.lean ====
section
/-! DEFINITION. The witness drives and their areas, drives addressed by slot, and the jobs that the Caller grants. -/

set_option Elab.async false

namespace Sys2Proof.Machine

/-- Jobs of Table 19.4 that the phrase in force grants (R478). -/
def State.granted (s : State) (job : Nat) : Bool := bitOf (s.rd CAL_GRANT.JOBS) job

/-! Witness areas. -/

/-- The set and member of a slot's drive, if it is a member. -/
def State.memberOfSlot (s : State) (slot : Nat) : Option (Nat × Nat) :=
  (List.range 4).findSome? fun set => ((List.range 48).find? fun u => s.flag (QDL_MEM.VALID set u) && s.slotOf set u == slot).map (set, ·)

/-- The drive of a slot is a member that has failed. -/
def State.slotFailed (s : State) (slot : Nat) : Bool := (s.memberOfSlot slot).any fun m => s.flag (QDL_MEM.FAILED m.1 m.2)

/-- The witness drives in service: witness index and slot. A member that has failed is none. -/
def State.witnesses (s : State) : List (Nat × Nat) :=
  ([(0, s.rd LTK_WIT.W0), (1, s.rd LTK_WIT.W1), (2, s.rd LTK_WIT.W2), (3, s.rd LTK_WIT.W3), (4, s.rd LTK_WIT.W4)].take
    (s.rd LTK_WITC.COUNT)).filter fun w => bitOf (s.rd LTK_WITC.V) w.1 && !s.slotFailed w.2

/-- R319: witnesses that make a majority. -/
def State.majority (s : State) : Nat := s.rd LTK_WITC.COUNT / 2 + 1

/-- Send one command to a drive by slot, at a block outside the layout. -/
def State.sendSlot (s : State) (kind : OpKind) (slot block : Nat) (content : Bytes) (why : OpPurpose) : State :=
  let (set, u) := (s.memberOfSlot slot).getD (0, 0)
  s.issue kind slot set 0 0 0 u block 0 content why

end Sys2Proof.Machine
end

