-- ==== Sys2Proof/Machine/HostOps.lean ====
section
/-! DEFINITION. The progress of a host I/O command (chapter Host I/O Semantics): acceptance, slots, range locks, dirty
room, protection information, writing and reading blocks, reservations, completion and release, and aborting. -/

set_option Elab.async false

namespace Sys2Proof.Machine

/-! Statuses of Table 3.7, as type × 256 + code. -/
def stOk : Nat := 0
def stInvalidOpcode : Nat := 0x001
def stInvalidField : Nat := 0x002
def stDataTransfer : Nat := 0x004
def stAbortedSqDeletion : Nat := 0x008
def stInvalidNamespace : Nat := 0x00B
def stSequence : Nat := 0x00C
def stLbaRange : Nat := 0x080
def stNotReady : Nat := 0x082
def stResvConflict : Nat := 0x083
def stFormatInProgress : Nat := 0x084
def stUnrecovered : Nat := 0x281
def stGuard : Nat := 0x282
def stAppTag : Nat := 0x283
def stRefTag : Nat := 0x284
def stCompare : Nat := 0x285
def stAnaLoss : Nat := 0x301
def stAnaInaccessible : Nat := 0x302
def stAnaTransition : Nat := 0x303

/-- The DNR column of Table 3.7. -/
def dnrOf (status : Nat) : Bool :=
  !([stOk, stDataTransfer, stAbortedSqDeletion, stNotReady, stFormatInProgress, stAnaLoss, stAnaInaccessible, stAnaTransition].contains status)

/-! Namespaces and ANA. -/

def State.namespace (s : State) (nsid : Nat) : Option Namespace := s.host.namespaces.find? fun n => n.nsid == nsid
def State.onNamespace (s : State) (nsid : Nat) (f : Namespace → Namespace) : State :=
  s.onHost fun h => { h with namespaces := h.namespaces.map fun n => if n.nsid == nsid then f n else n }

/-- R52: this module leads the group. -/
def State.leads (s : State) (g : Nat) : Bool := bitOf (s.rd LTK_STAT.LEAD) g

/-- R53: a namespace this module leads is in write-back mode. -/
def State.writeBackNow (s : State) (n : Namespace) : Bool :=
  n.configuredWb && s.flag NRG_STAT.COVER && s.leads n.group && s.rd EZL_STAT.STATE == 3 && bitOf (s.rd EZL_STAT.JOINED) n.group

/-- Table 3.6: the ANA state of a group. -/
def State.anaState (s : State) (g : Nat) : Nat :=
  if bitOf (s.rd LTK_STAT.CHANGE) g then anaChange
  else if bitOf (s.rd LTK_STAT.PLOSS) g then anaPersistentLoss
  else if s.leads g then
    if s.host.namespaces.any fun n => n.group == g && !n.deleted && !n.writeBack then anaNonOptimized else anaOptimized
  else anaInaccessible

/-- Table 3.6: the status of an I/O command in a state that runs none. -/
def anaStatus (st : Nat) : Option Nat :=
  if st = anaChange then some stAnaTransition else if st = anaPersistentLoss then some stAnaLoss
  else if st = anaInaccessible then some stAnaInaccessible else none

/-- Complete the oldest Asynchronous Event Request of a controller with an event (Dword 0: type, information, log page). -/
def State.completeAer (s : State) (c : Controller) (type info page : Nat) : State :=
  match c.aers with
  | [] => s
  | cid :: rest => (s.onController c.cntlid fun x => { x with aers := rest }).respond ⟨c.cntlid, 0, cid⟩ stOk false
      (type + info * 256 + page * 65536)

/-- R85: each controller with a request outstanding that enabled the ANA notice is told. -/
def State.tellAna (s : State) : State := s.each s.host.controllers fun c s => if bitOf c.aec 11 then s.completeAer c 2 3 0x0C else s

/-- R85: a group's state changed: each controller with a request outstanding that enabled the notice is told, and
management sessions get notice type 2. -/
def State.reportAna (s : State) : State :=
  s.each (List.range 8) fun g s =>
    let st := s.anaState g
    if s.host.ana.getD g anaInaccessible = st then s else
    let s := s.onHost fun h => { h with ana := h.ana.set g st, anaChanges := h.anaChanges.set g (h.anaChanges.getD g 0 + 1) }
    s.tellAna.notify (.anaChange g st)

/-! Commands. -/

/-- R72: the commands of Table 3.2 that bring no data: they belong to the measure in which they are decoded. -/
def IoKind.dataless : IoKind → Bool
  | .flush | .writeZeroes | .dsm | .resvRegister | .resvReport | .resvAcquire | .resvRelease => true
  | .write | .read | .compare | .verify | .copy => false

def State.command (s : State) (key : CmdKey) : Option HostCmd := s.host.commands.find? (·.key == key)
def State.onCommand (s : State) (key : CmdKey) (f : HostCmd → HostCmd) : State :=
  s.onHost fun h => { h with commands := h.commands.map fun c => if c.key == key then f c else c }

/-- R267: what becomes of one extent of a deleted namespace: it leaves the plan of a Promenade, and waits for
deallocation where it lies. -/
def State.giveUpExtent (s : State) (ns : Namespace) (e x : Nat) : State :=
  let next := s.layoutBit ns.nsid e && s.rd (RBD_SSTAT.PROM ns.set) == 1
  s.onStore fun y => { y with
    moves := y.moves.filter fun m => next || !(m.nsid == ns.nsid && m.ext == e)
    deletedExtents := y.deletedExtents ++ [⟨ns.set, x, ns.group, next⟩] }

/-- R91, R207: a deleted namespace leaves the table once no command on it remains; its extents stay with its group until
they are deallocated. -/
def State.reapNamespaces (s : State) : State :=
  s.each (s.host.namespaces.filter fun ns => ns.deleted && !(s.host.commands.any (·.nsid == ns.nsid))) fun ns s =>
    (s.each ns.extents.zipIdx fun (x, e) s => s.giveUpExtent ns e x).onHost fun h => { h with
      namespaces := h.namespaces.filter (·.nsid != ns.nsid) }

/-- A command leaves the table; the copies of its blocks stay, with no command behind them. The tag blocks of a namespace are
kept only while it has commands. -/
def State.dropCommand (s : State) (key : CmdKey) : State :=
  let s := s.onHost fun h => { h with commands := h.commands.filter (·.key != key) }
  (s.onStore fun x => { x with
    copies := x.copies.map fun c => if c.cmd == some key then { c with cmd := none } else c
    tagBlocks := x.tagBlocks.filter fun t => s.host.commands.any (·.nsid == t.nsid) }).reapNamespaces

/-- R95: a failed command enters its controller's error log. -/
def State.logError (s : State) (key : CmdKey) (st : Nat) : State :=
  if st = stOk then s else s.onController key.ctrl fun c => { c with
    errors := (((c.errors.head?.map (·.1)).getD 0 + 1, key.qid, key.cid, st) :: c.errors).take 256 }

/-- A command ends: it leaves the table, and its status is queued for sending. -/
def State.endCommand (s : State) (c : HostCmd) (status : Nat) : State :=
  (((s.dropCommand c.key).onHost fun h => { h with served := true }).logError c.key status).respond c.key status (dnrOf status) 0 c.invalidate

/-- Record the first failure of a command. -/
def State.failCommand (s : State) (key : CmdKey) (status : Nat) : State :=
  s.onCommand key fun c => if c.status = stOk then { c with status := status } else c

/-! Range locks (R65–R68). -/

/-- The locks of Table 3.2: exclusive or shared, with their ranges. -/
def HostCmd.locks (c : HostCmd) : List (Bool × BlockRange) :=
  let all : BlockRange := ⟨0, 2 ^ 64⟩
  match c.kind with
  | .flush => []
  | .write | .writeZeroes => [(true, c.range)]
  | .read | .compare | .verify => [(false, c.range)]
  | .dsm => if c.deallocate then c.ranges.map fun r => (true, r) else []
  | .copy => c.ranges.map (fun r => (false, r)) ++ [(true, c.range)]
  | .resvRegister | .resvAcquire | .resvRelease => [(true, all)]
  | .resvReport => [(false, all)]

def rangesMeet (a b : BlockRange) : Bool := a.first < b.first + b.count && b.first < a.first + a.count

/-- R65: two lists of locks conflict. -/
def locksConflict (a b : List (Bool × BlockRange)) : Bool := a.any fun x => b.any fun y => (x.1 || y.1) && rangesMeet x.2 y.2

/-- R66: no earlier command of the same queue holds or awaits a lock that conflicts with this command's. -/
def State.lockFree (s : State) (c : HostCmd) : Bool :=
  !(s.host.commands.any fun d => d.order < c.order && d.key.ctrl == c.key.ctrl && d.key.qid == c.key.qid && d.stage != .slot &&
      d.nsid == c.nsid && locksConflict d.locks c.locks)

/-! Dirty room (R272–R274). -/

/-- Blocks reserved by commands and not yet turned into held copies. -/
def State.roomReserved (s : State) (writeThrough : Bool) : Nat :=
  (s.host.commands.filter fun c => !writeThrough || !c.writeBack).foldl (fun n c => n + c.room) 0

/-- R273: whether a reservation of `n` blocks succeeds; ceilings in blocks of 4,096 bytes, GB decimal. A write also waits
for a free journal slot (R224), and for the map mirror to catch up (R284). -/
def State.roomFits (s : State) (wb : Bool) (n : Nat) : Bool :=
  let dirty := s.store.copies.length + s.roomReserved false + n
  s.store.journal.length < 262144 && !s.energy.mapWait &&
  (if wb then dirty ≤ s.rd VLT_CEIL.D
   else ((s.store.copies.filter fun c => !c.writeBack).length + s.roomReserved true + n) * 4096 ≤ s.rd VLT_CFG.WTA * 10 ^ 9 &&
        dirty * 4096 ≤ 40 * 10 ^ 9)

/-- R273: room is granted in decode order across the module. -/
def State.roomTurn (s : State) (c : HostCmd) : Bool :=
  !(s.host.commands.any fun d => d.stage == .room && d.order < c.order)

def State.showRoomWait (s : State) : State :=
  if s.host.commands.any (·.stage == .room) then (s.wr VLT_STAT.WAITING 1).began (s.flag VLT_STAT.WAITING) 0x51 0 else s.wr VLT_STAT.WAITING 0

/-- A write-back command of group `g` waits for its measure to commit: the condition of event 0x0032, which may begin. -/
def State.awaitsCommit (s : State) (g : Nat) (f : State → State) : State :=
  let t := f s
  if t.condition 0x32 g then t.began (s.condition 0x32 g) 0x32 g else t

/-! Protection information (R57–R60). -/

/-- Metadata bytes of a format (Table 3.3). -/
def metadataBytes (lbaf : Nat) : Nat := if lbaf = 1 then 8 else if lbaf = 2 then 16 else 0

/-- Bytes of one block as the host transfers it: PRACT keeps protection information inside the module. -/
def transferBytes (ns : Namespace) (pract : Bool) : Nat := 4096 + (if pract then 0 else metadataBytes ns.lbaf)

/-- A big-endian number, as NVMe protection information lays it out. -/
def beNat (bs : Bytes) : Nat := leNat bs.reverse
def beBytes (n v : Nat) : Bytes := (leBytes n v).reverse

/-- The protection information of a block: guard over the data, application tag, reference tag from the LBA. -/
def protectionInfo (lbaf : Nat) (data : Bytes) (tag lba : Nat) : Bytes :=
  if lbaf = 1 then beBytes 2 (Config.guard16 data).toNat ++ beBytes 2 tag ++ beBytes 4 (lba % 2 ^ 32)
  else if lbaf = 2 then beBytes 8 (Config.guard64 data).toNat ++ beBytes 2 tag ++ beBytes 6 (lba % 2 ^ 48)
  else []

/-- The application tag in a transferred block's metadata. -/
def tagIn (lbaf : Nat) (md : Bytes) : Nat := beNat ((md.drop (if lbaf = 1 then 2 else 8)).take 2)

/-- R58: whether an application tag passes the LBAT and LBATM check. -/
def tagPasses (tag lbat lbatm : Nat) : Bool := tag &&& lbatm == lbat &&& lbatm

/-- R58: the check of a transferred block on a write; 0 when it passes. A tag of 0xFFFF disables checking. -/
def checkWritten (lbaf prchk lbat lbatm lba : Nat) (data md : Bytes) : Nat :=
  let tag := tagIn lbaf md
  if lbaf = 0 || tag = 0xFFFF then stOk
  else
    let want := protectionInfo lbaf data tag lba
    let g := if lbaf = 1 then 2 else 8
    if bitOf prchk 2 && md.take g != want.take g then stGuard
    else if bitOf prchk 1 && !tagPasses tag lbat lbatm then stAppTag
    else if bitOf prchk 0 && md.drop (g + 2) != want.drop (g + 2) then stRefTag
    else stOk

/-- R411: a block as it is stored: ciphertext under the namespace's key where the namespace is encrypted. -/
def State.toStored (s : State) (ns : Namespace) (unit : Nat) (data : Bytes) : Bytes :=
  if ns.encrypted then Config.xtsEncrypt (s.slotKey (namespaceSlot ns.nsid)) unit data else data
def State.toPlain (s : State) (ns : Namespace) (unit : Nat) (stored : Bytes) : Bytes :=
  if ns.encrypted then Config.xtsDecrypt (s.slotKey (namespaceSlot ns.nsid)) unit stored else stored

/-- A block of an encrypted namespace has passed a cipher engine (log 119). -/
def State.xtsBlock (s : State) (ns : Namespace) : State := if ns.encrypted then s.count CIP_XTS_BYTES.addr 4096 else s

/-! Host application tags (R59, R60, R208): 2,048 of them, two bytes each, in a tag block. -/

/-- R411: the data unit number of the tag block of an LBA; and the first LBA of a tag block. -/
def tagUnit (lba : Nat) : Nat := 2 ^ 63 + lba / 2048
def tagFirst (unit : Nat) : Nat := (unit - 2 ^ 63) * 2048

/-- R49: the tag block of blocks that are all deallocated. -/
def emptyTagBlock : Bytes := List.replicate 4096 255

/-- The tag of an LBA in its tag block; and the tag block with one tag changed. -/
def tagAt (block : Bytes) (lba : Nat) : Nat := leNat ((block.drop (lba % 2048 * 2)).take 2)
def putTag (block : Bytes) (lba tag : Nat) : Bytes :=
  block.take (lba % 2048 * 2) ++ leBytes 2 tag ++ block.drop (lba % 2048 * 2 + 2)

/-- A tag block as it stands now, where the module has it: the one at hand, else its newest held copy; a tag block of a
deallocated stripe holds no tag. -/
def State.knownTags (s : State) (ns : Namespace) (unit : Nat) : Option Bytes :=
  match s.store.tagBlocks.find? (fun t => t.nsid == ns.nsid && t.unit == unit), s.copiesOf ns.nsid unit, s.translateTag ns (tagFirst unit) with
  | some t, _, _ => some t.content
  | none, c :: _, _ => some (s.toPlain ns unit c.content)
  | none, [], some q => if s.mapBit q.set q.gen q.stripe then none else some emptyTagBlock
  | none, [], none => some emptyTagBlock

/-- Keep a tag block at hand. -/
def State.keepTags (s : State) (ns : Namespace) (unit : Nat) (content : Bytes) : State :=
  s.onStore fun x => { x with tagBlocks := ⟨ns.nsid, unit, content⟩ :: x.tagBlocks.filter fun t => !(t.nsid == ns.nsid && t.unit == unit) }

/-- The tag blocks of a namespace, or of all, are at hand no more. -/
def State.forgetTags (s : State) (p : Nat → Bool) : State := s.onStore fun x => { x with tagBlocks := x.tagBlocks.filter fun t => !p t.nsid }

/-! Writing blocks. -/

/-- A command writes a stripe: its completion waits for the stripe's members (R74). -/
def State.writesStripe (s : State) (key : CmdKey) (p : Place) : State :=
  s.onCommand key fun c => { c with stripes := if c.stripes.contains (p.set, p.stripe) then c.stripes else c.stripes ++ [(p.set, p.stripe)] }

/-- R208, R209: where a tag block lies in the layout of a data block whose tag it holds. -/
def State.tagPlaceOf (s : State) (p : Place) (unit : Nat) : Place :=
  let g := s.geomOf p.set p.gen
  let q := g.tagPlace (p.stripe / g.perExtent) (tagFirst unit % 262144)
  ⟨p.set, p.gen, q.stripe, q.strip, q.row, none⟩

/-- R60: one version of a tag block: held and mirrored beside the data whose tags it holds; the journal entry of each data
stripe of those blocks names the tag stripe (R223). -/
def State.writeTagBlock (s : State) (c : HostCmd) (ns : Namespace) (unit : Nat) (content : Bytes) (places : List Place) : State :=
  match places with
  | [] => s
  | p :: _ =>
    let q := s.resolve (s.tagPlaceOf p unit)
    let s := ((s.keepTags ns unit content).xtsBlock ns).holdBlock ns q unit (s.toStored ns unit content) false c.writeBack 0xFFFF (some c.key)
    let s := s.each places fun p s => s.touchTagStripe p q
    (s.writesStripe c.key q).closeIfFull q.set q.stripe

/-- One block of new content, whole in DRAM: held, accumulated, mirrored; its tag block with it (R21, R60, R244). -/
def State.writeBlock (s : State) (c : HostCmd) (ns : Namespace) (p : Place) (lba : Nat) (data : Bytes) (tag : Nat) : State :=
  let s := ((s.clearLost ns.nsid lba).xtsBlock ns).holdBlock ns p lba (s.toStored ns lba data) false c.writeBack tag (some c.key)
  let s := s.writesStripe c.key p
  let s := if ns.lbaf = 0 then s else
    s.writeTagBlock c ns (tagUnit lba) (putTag ((s.knownTags ns (tagUnit lba)).getD emptyTagBlock) lba tag) [p]
  s.closeIfFull p.set p.stripe

/-- A link still has to accept a mirror copy of the command. -/
def State.mirrorsWait (s : State) (key : CmdKey) : Bool :=
  s.link.waiting.any fun i => s.store.copies.any fun c => c.id == i && c.cmd == some key

/-- R74, R225: in write-through mode, every member written for the command has reported and every journal region holds
the Retired records. -/
def State.writtenThrough (s : State) (c : HostCmd) : Bool :=
  !(s.store.copies.any fun h => h.cmd == some c.key && !h.reported) &&
  !(s.store.journal.any fun e => c.stripes.contains (e.set, e.stripe) && (e.state != 3 || !s.recordOnJournal e)) &&
  !(s.store.openStripes.any fun o => c.stripes.contains (o.set, o.stripe))

/-- R74: release a write-through command that is done. -/
def State.releaseWriteThrough (s : State) (key : CmdKey) : State :=
  match s.command key with
  | some c => if c.stage == .held && !c.writeBack && s.writtenThrough c then s.endCommand c c.status else s
  | none => s

/-- R74: release every write-through command that is done. -/
def State.releaseAllWriteThrough (s : State) : State := s.each (s.host.commands.map (·.key)) fun k s => s.releaseWriteThrough k

/-- Every block of a write-type command has been placed or refused: in write-through mode its stripes close (R217); it is
held for the release rule (R72, R74). -/
def State.finishWrite (s : State) (key : CmdKey) : State :=
  match s.command key with
  | none => s
  | some c =>
    let s := s.awaitsCommit c.group fun s => s.onCommand key fun c => { c with stage := .held, room := 0, meas := some (c.meas.getD s.measure) }
    if c.writeBack then s
    else (s.each c.stripes fun p s => s.closeStripe p.1 p.2).releaseWriteThrough key

/-- One transferred block of a Write: checked, then written, or refused (Table 3.7). -/
def State.placeBlock (s : State) (key : CmdKey) (idx : Nat) (block : Bytes) : State :=
  match s.command key with
  | none => s
  | some c =>
    match s.namespace c.nsid, c.places.getD idx none with
    | some ns, some p =>
      let lba := c.range.first + idx
      let data := block.take 4096
      let md := block.drop 4096
      let bad := if c.pract then stOk else checkWritten ns.lbaf c.prchk c.lbat c.lbatm lba data md
      let s := s.onCommand key fun c => { c with placed := c.placed ++ [idx], room := c.room - 1 }
      if bad = stOk then
        s.writeBlock c ns p lba data (if ns.lbaf = 0 then 0xFFFF else if c.pract then c.lbat else tagIn ns.lbaf md)
      else s.failCommand key bad
    | _, _ => s

/-- The bytes of a run that the pieces hold whole, taken piece by piece. -/
def gather (pieces : List (Nat × Bytes)) : Nat → Nat → Nat → Option Bytes
  | 0, _, len => if len = 0 then some [] else none
  | fuel + 1, off, len =>
    if len = 0 then some [] else
    match pieces.find? (fun p => p.1 ≤ off && off < p.1 + p.2.length) with
    | none => none
    | some p =>
      let part := ((p.2.drop (off - p.1)).take len)
      (gather pieces fuel (off + part.length) (len - part.length)).map (part ++ ·)

/-- Block `idx` of a command's transfer, if all its bytes are there. -/
def HostCmd.block (c : HostCmd) (size idx : Nat) : Option Bytes := gather c.pieces (c.pieces.length + 1) (size * idx) size

/-! Reading blocks. -/

/-- R49: what the host gets for a deallocated block. -/
def deallocatedData : Bytes := zeroBlock

/-- The blocks a read-type command covers, with their places: for Copy, its sources in order. -/
def HostCmd.readBlocks (c : HostCmd) : List Nat :=
  if c.kind = .copy then c.ranges.flatMap fun r => (List.range r.count).map (r.first + ·)
  else (List.range c.range.count).map (c.range.first + ·)

/-- A block as the host receives it (R59). -/
def blockForHost (ns : Namespace) (pract : Bool) (lba : Nat) (data : Bytes) (tag : Nat) : Bytes :=
  data ++ (if pract then [] else protectionInfo ns.lbaf data tag lba)

/-- R58: the application tag check of a block read. -/
def checkRead (lbaf prchk lbat lbatm tag : Nat) : Nat :=
  if lbaf ≠ 0 && bitOf prchk 1 && tag ≠ 0xFFFF && !tagPasses tag lbat lbatm then stAppTag else stOk

/-- R230: read the row from k other members of the stripe, and count the degraded read. -/
def State.startDegraded (s : State) (set gen stripe row : Nat) (why : RowPurpose) (strip : Nat) : State :=
  let g := s.geomOf set gen
  let others := (List.range g.w).filter fun i => i != strip && (s.holder set gen stripe i).isSome
  let s := (s.startJob set gen stripe row (others.take g.k) why).count QDL_DEGRADED_RD.addr |>.event 0x21 set
  s.onStore fun x => { x with jobs := x.jobs.map fun q => if q.id == x.nextJob - 1 then { q with bad := strip :: q.bad } else q }

/-- Table 9.1, class B: a stripe read degraded since the rebuild began, while the promotion list has room. -/
def State.promoteStripe (s : State) (set p : Nat) : State :=
  if (s.rebuilding set).isEmpty || s.store.promoted.contains (set, p) || 4096 ≤ s.store.promoted.length then s
  else s.onStore fun x => { x with promoted := x.promoted ++ [(set, p)] }

/-- Read one stored block from the member of its translation, or reconstruct it where no location holds it. -/
def State.readStored (s : State) (p : Place) (why : OpPurpose) (degraded : RowPurpose) : State :=
  match s.target p.set p.gen p.stripe p.strip p.member with
  | some (u, k) => s.sendStripAt .read u k p.set p.gen p.stripe p.strip p.row [] why
  | none => (s.promoteStripe p.set (s.pos p.set p.gen p.stripe)).startDegraded p.set p.gen p.stripe p.row degraded p.strip

/-- Read a tag block that is not at hand, unless it is being read already. -/
def State.startTagRead (s : State) (ns : Namespace) (unit : Nat) : State :=
  if (s.knownTags ns unit).isSome || s.store.ops.any (·.purpose == .tagBlock ns.nsid unit) ||
     s.store.jobs.any (fun j => match j.purpose with | .degradedTags n u _ => n == ns.nsid && u == unit | _ => false) then s else
  match s.translateTag ns (tagFirst unit) with
  | none => s
  | some q => s.readStored q (.tagBlock ns.nsid unit) (.degradedTags ns.nsid unit q.strip)

/-- Whether every tag block of a list is at hand; and reading those that are not. A namespace without host PI needs none. -/
def State.tagsKnown (s : State) (ns : Namespace) (units : List Nat) : Bool := ns.lbaf == 0 || units.all fun u => (s.knownTags ns u).isSome
def State.askTags (s : State) (ns : Namespace) (units : List Nat) : State :=
  if ns.lbaf = 0 then s else s.each units fun u s => s.startTagRead ns u

/-- The tag blocks of the blocks a Copy writes. -/
def HostCmd.destUnits (c : HostCmd) : List Nat := ((List.range c.range.count).map fun i => tagUnit (c.range.first + i)).eraseDups

/-- Every block a read-type command needs has come: it returns its data, its judgement, or for a Copy writes it. -/
def State.finishRead (s : State) (key : CmdKey) : State :=
  match s.command key with
  | none => s
  | some c =>
    match s.namespace c.nsid with
    | none => s.endCommand c stInvalidNamespace
    | some ns =>
      let blocks := c.readBlocks
      let at' := fun i => (c.got.find? (·.1 == i)).map fun g => (g.2.1, ((c.tagsAt.find? (·.1 == i)).map (·.2)).getD g.2.2)
      if c.status ≠ stOk then s.endCommand c c.status
      else if !c.tagWaits.isEmpty || !((List.range blocks.length).all fun i => (at' i).isSome) then s
      else if c.kind = .copy && !s.tagsKnown ns c.destUnits then s.askTags ns c.destUnits
      else
        let got := blocks.zipIdx.map fun (lba, i) => (lba, (at' i).getD ([], 0xFFFF))
        let bad := (got.map fun g => checkRead ns.lbaf c.prchk c.lbat c.lbatm g.2.2).find? (· != stOk)
        match c.kind with
        | .compare =>
          let size := transferBytes ns c.pract
          let want := (List.range blocks.length).map fun i => c.block size i
          let sent := if c.pract then none else (want.zipIdx.map fun (b, i) =>
            checkWritten ns.lbaf c.prchk c.lbat c.lbatm (c.range.first + i) ((b.getD []).take 4096) ((b.getD []).drop 4096)).find? (· != stOk)
          if want.any (·.isNone) then s
          else if sent.isSome then s.endCommand c (sent.getD 0)
          else if bad.isSome then s.endCommand c (bad.getD 0)
          else if want.map (fun b => (b.getD []).take 4096) == got.map (·.2.1) then s.endCommand c stOk
          else s.endCommand c stCompare
        | .copy =>
          let s := s.onCommand key fun c => { c with placed := List.range blocks.length, room := 0 }
          let s := s.each got.zipIdx fun (g, i) s =>
            match c.places.getD i none with
            | some p => s.writeBlock c ns p (c.range.first + i) g.2.1 g.2.2
            | none => s
          s.finishWrite key
        | .verify => s.endCommand c (bad.getD stOk)
        | _ =>
          if bad.isSome then s.endCommand c (bad.getD 0)
          else (s.sendData key (got.zipIdx.map fun (g, i) => (i, blockForHost ns c.pract g.1 g.2.1 g.2.2))).endCommand c stOk

/-- One block of a read-type command has come. -/
def State.gotBlock (s : State) (key : CmdKey) (idx : Nat) (data : Bytes) (tag : Nat) : State :=
  (s.onCommand key fun c => { c with got := (idx, data, tag) :: c.got.filter (·.1 != idx) }).finishRead key

/-- The plain content and tag of a held copy. -/
def State.copyPlain (s : State) (ns : Namespace) (c : HeldCopy) : Bytes × Nat :=
  if c.dealloc then (deallocatedData, 0xFFFF) else (s.toPlain ns c.lba c.content, c.tag)

/-- R24, R70, R210, R216, R242: one block of a read: the newest held copy if there is one (waiting until it is durable),
zeroes where the stripe is deallocated, an error where the block is lost, else a member read, or the reconstruction of
its row where no member holds it. -/
def State.readBlock (s : State) (c : HostCmd) (ns : Namespace) (idx lba : Nat) : State :=
  match s.copiesOf ns.nsid lba with
  | h :: _ =>
    if h.durable then
      let (d, t) := s.copyPlain ns h
      s.onCommand c.key fun c => { c with got := (idx, d, t) :: c.got }
    else s.onCommand c.key fun c => { c with awaits := c.awaits ++ [(idx, h.id)] }
  | [] =>
    match (if c.kind = .copy then c.srcPlaces else c.places).getD idx none with
    | none => s.failCommand c.key stLbaRange
    | some p =>
      if !s.mapBit p.set p.gen p.stripe then
        s.onCommand c.key fun c => { c with got := (idx, deallocatedData, 0xFFFF) :: c.got }
      else if s.isLost ns.nsid lba then s.failCommand c.key stUnrecovered
      else
        let s := s.readStored p (.host c.key idx) (.degradedRead c.key idx p.strip)
        if ns.lbaf = 0 then s else
        match s.knownTags ns (tagUnit lba) with
        | some b => s.onCommand c.key fun c => { c with tagsAt := c.tagsAt ++ [(idx, tagAt b lba)] }
        | none => (s.onCommand c.key fun c => { c with tagWaits := c.tagWaits ++ [(idx, tagUnit lba)] }).startTagRead ns (tagUnit lba)

/-- A command's read of every block it needs. -/
def State.startReading (s : State) (key : CmdKey) : State :=
  match s.command key with
  | none => s
  | some c =>
    match s.namespace c.nsid with
    | none => s.endCommand c stInvalidNamespace
    | some ns => (s.each c.readBlocks.zipIdx fun (lba, i) s => s.readBlock c ns i lba).finishRead key

/-! Deallocating blocks (R222). -/

/-- The blocks a Write Zeroes or a deallocation covers, each with its place. -/
def HostCmd.deallocated (c : HostCmd) : List (Nat × Place) :=
  let lbas := if c.kind == .dsm then c.ranges.flatMap fun r => (List.range r.count).map (r.first + ·)
    else (List.range c.range.count).map (c.range.first + ·)
  (lbas.zip c.places).filterMap fun (lba, p) => p.map fun p => (lba, p)

/-- R222: those of them whose stripe is not deallocated already. -/
def State.toDealloc (s : State) (c : HostCmd) : List (Nat × Place) := c.deallocated.filter fun (_, p) => s.mapBit p.set p.gen p.stripe

/-- The tag blocks that a deallocation changes. -/
def State.deallocUnits (s : State) (c : HostCmd) : List Nat := ((s.toDealloc c).map fun (lba, _) => tagUnit lba).eraseDups

/-- R222: deallocate a run of blocks: nothing where the stripe is deallocated already, else new blocks of zeroes whose
posting is a deallocation; their application tags become 0xFFFF (R49, R60). -/
def State.deallocBlocks (s : State) (c : HostCmd) (ns : Namespace) : State :=
  let todo := s.toDealloc c
  let units := if ns.lbaf = 0 then [] else s.deallocUnits c
  let s := s.each c.deallocated fun (lba, _) s => s.clearLost ns.nsid lba
  let s := s.each todo fun (lba, p) s => (s.holdBlock ns p lba zeroBlock true c.writeBack 0xFFFF (some c.key)).writesStripe c.key p
  let s := s.each units fun u s =>
    let mine := todo.filter fun (lba, _) => tagUnit lba == u
    let block := mine.foldl (fun b (lba, _) => putTag b lba 0xFFFF) ((s.knownTags ns u).getD emptyTagBlock)
    s.writeTagBlock c ns u block (mine.map (·.2))
  match s.command c.key with
  | some c => s.each c.stripes fun p s => s.closeIfFull p.1 p.2
  | none => s

/-- A deallocation runs once the tag blocks it changes are at hand. -/
def State.tryDealloc (s : State) (key : CmdKey) : State :=
  match s.command key with
  | none => s
  | some c =>
    match s.namespace c.nsid with
    | none => s.endCommand c stInvalidNamespace
    | some ns =>
      if c.stage = .fetch && s.tagsKnown ns (s.deallocUnits c) then (s.deallocBlocks c ns).finishWrite key else s

/-! Reservations (R52). -/

def Reservation.keyOf (r : Reservation) (host : Nat) : Option Nat := (r.registrants.find? (·.1 == host)).map (·.2)
def Reservation.allRegistrants (r : Reservation) : Bool := r.rtype == 5 || r.rtype == 6
def Reservation.holds (r : Reservation) (host : Nat) : Bool :=
  r.rtype != 0 && (r.holder == some host || (r.allRegistrants && (r.keyOf host).isSome))

/-- Whether an access by a host conflicts with the reservation (NVMe reservation rules). -/
def Reservation.conflicts (r : Reservation) (host : Nat) (write : Bool) : Bool :=
  if r.rtype = 0 || r.holds host then false
  else
    let registered := (r.keyOf host).isSome
    if r.rtype = 1 then write
    else if r.rtype = 2 then true
    else if r.rtype = 3 || r.rtype = 5 then write && !registered
    else !registered

/-- The status of a reservation command, judged at decode. -/
def Reservation.judge (r : Reservation) (host : Nat) : ResvRequest → Nat
  | .register action crkey _ =>
    match r.keyOf host with
    | none => if action = 0 then stOk else stResvConflict
    | some k => if action = 0 then stResvConflict else if k = crkey.toNat then stOk else stResvConflict
  | .acquire action rtype crkey _ =>
    if rtype = 0 || 6 < rtype || 2 < action then stInvalidField
    else if r.keyOf host ≠ some crkey.toNat then stResvConflict
    else if action = 0 && r.rtype ≠ 0 && !(r.holds host && r.rtype == rtype) then stResvConflict
    else stOk
  | .release action rtype crkey =>
    if 1 < action then stInvalidField
    else if r.keyOf host ≠ some crkey.toNat then stResvConflict
    else if action = 0 && r.holds host && r.rtype ≠ rtype then stInvalidField
    else stOk

/-- The reservation without one registrant. -/
def Reservation.remove (r : Reservation) (host : Nat) : Reservation :=
  let left := r.registrants.filter (·.1 != host)
  let drop := r.holder == some host && !r.allRegistrants || r.allRegistrants && left.isEmpty
  { r with
    registrants := left
    rtype := if drop then 0 else r.rtype
    holder := if drop then none else r.holder }

/-- The effect of a reservation command. -/
def Reservation.apply (r : Reservation) (host : Nat) : ResvRequest → Reservation
  | .register action _ nrkey =>
    let r' := if action = 1 then r.remove host
      else { r with registrants := (host, nrkey.toNat) :: r.registrants.filter (·.1 != host) }
    { r' with generation := r.generation + 1 }
  | .acquire action rtype _ prkey =>
    if action = 0 then { r with rtype := rtype, holder := some host }
    else
      let gone := (r.registrants.filter fun x => x.2 == prkey.toNat && x.1 != host).map (·.1)
      let taken := r.rtype == 0 || gone.any (fun h => r.holder == some h) || r.holds host
      { r with
        registrants := r.registrants.filter fun x => !gone.contains x.1
        rtype := if taken then rtype else r.rtype
        holder := if taken then some host else r.holder
        generation := r.generation + 1 }
  | .release action _ _ =>
    if action = 1 then { r with registrants := [], rtype := 0, holder := none, generation := r.generation + 1 }
    else if r.holds host then { r with rtype := 0, holder := none } else r

/-- Hosts whose registration a Preempt and Abort removes. -/
def Reservation.preempted (r : Reservation) (host : Nat) : ResvRequest → List Nat
  | .acquire 2 _ _ prkey => (r.registrants.filter fun x => x.2 == prkey.toNat && x.1 != host).map (·.1)
  | _ => []

/-- The host of a controller. -/
def State.hostOf (s : State) (ctrl : Nat) : Nat := match s.controller ctrl with | some c => c.hostId | none => 0

/-- R47: the extended reservation report of a namespace. -/
def Reservation.report (r : Reservation) : Bytes :=
  leBytes 4 r.generation ++ leBytes 1 r.rtype ++ leBytes 2 r.registrants.length ++ leBytes 57 0 ++
  r.registrants.flatMap fun (h, k) =>
    leBytes 2 0xFFFF ++ leBytes 1 (if r.holds h then 1 else 0) ++ leBytes 5 0 ++ leBytes 8 k ++ leBytes 16 h ++ leBytes 32 0

/-- Apply a reservation change to its namespace; its metadata is kept through power loss with the group's state. -/
def State.changeReservation (s : State) (nsid host : Nat) (q : ResvRequest) : State :=
  s.onNamespace nsid fun n => { n with resv := n.resv.apply host q }

/-- R52: the reservation of a namespace with every change made whose measure has not committed: what the state copy of their
measures carries, and what a later reservation command is judged against. -/
def State.reservationNow (s : State) (ns : Namespace) : Reservation :=
  (s.host.resvPending.filter (·.nsid == ns.nsid)).foldl (fun r p => r.apply p.host p.request) ns.resv

/-- R52, Table 3.5: the reservation changes that a test picks take effect, in order. -/
def State.applyReservationsOf (s : State) (due : PendingReservation → Bool) : State :=
  let now := s.host.resvPending.filter due
  (s.onHost fun h => { h with resvPending := h.resvPending.filter fun p => !due p }).each now fun p s =>
    s.changeReservation p.nsid p.host p.request

/-- Those of measures up to `n`, which have committed; and all, once no follow is left to commit them. -/
def State.applyReservationsUpTo (s : State) (n : Nat) : State := s.applyReservationsOf fun p => p.meas ≤ n
def State.applyReservations (s : State) : State := s.applyReservationsOf fun _ => true

/-! From stage to stage. -/

/-- The data fetch of a Write or Compare: the capsule's data, or RDMA READ requests for host memory (R137); a direct-port
command's fetch is the direct port's. -/
def State.startFetch (s : State) (key : CmdKey) (len : Nat) : State :=
  match s.command key with
  | none => s
  | some c =>
    match c.buffer with
    | .inCapsule d => s.onCommand key fun c => { c with pieces := [(0, d)] }
    | .remote =>
      if key.ctrl = s.directId then s.directFetch len fun off => .data key off else
      match s.queuePairOf key.ctrl key.qid with
      | some idx => s.transmit idx (.fetch key (cutSgl c.sgl len))
      | none => s

/-- Form the blocks whose bytes have all come: a Write places them, a Compare sees whether it can end. -/
def State.formBlocks (s : State) (key : CmdKey) : State :=
  match s.command key with
  | none => s
  | some c =>
    match s.namespace c.nsid with
    | none => s
    | some ns =>
      if c.kind = .compare then s.finishRead key
      else if c.stage ≠ .fetch then s
      else
        let size := transferBytes ns c.pract
        let s := s.each ((List.range c.range.count).filter fun i => !c.placed.contains i) fun i s =>
          match c.block size i with
          | some b =>
            let unit := tagUnit (c.range.first + i)
            if s.tagsKnown ns [unit] then s.placeBlock key i b else s.startTagRead ns unit
          | none => s
        match s.command key with
        | some c => if c.placed.length = c.range.count then s.finishWrite key else s
        | none => s

/-- Bytes of a command's data arrive at an offset of its transfer. -/
def State.dataArrives (s : State) (key : CmdKey) (off : Nat) (bs : Bytes) : State :=
  (s.onCommand key fun c => { c with pieces := c.pieces ++ [(off, bs)] }).formBlocks key

/-- R273: try to reserve the room of a command that waits for it; with the room, its fetch or its reads start. -/
def State.tryRoom (s : State) (key : CmdKey) : State :=
  match s.command key with
  | none => s
  | some c =>
    match s.namespace c.nsid with
    | none => s.endCommand c stInvalidNamespace
    | some ns =>
      if c.stage = .room && s.roomTurn c && s.roomFits c.writeBack c.range.count then
        let s := s.count VLT_ROOM_WAIT_NS.addr (s.now - c.since)
        let s := (s.onCommand key fun c => { c with stage := .fetch, room := c.range.count }).showRoomWait
        if c.kind = .copy then (s.onCommand key fun c => { c with stage := .move }).startReading key
        else (s.startFetch key (c.range.count * transferBytes ns c.pract)).formBlocks key
      else s

/-- Begin to wait for room, and take it at once if it is there. -/
def State.askRoom (s : State) (key : CmdKey) : State :=
  let s := s.onCommand key fun c => { c with stage := .room, since := s.now }
  let t := s.tryRoom key
  match t.command key with
  | some c => if c.stage = .room then (t.count VLT_ROOM_WAITS.addr).showRoomWait else t
  | none => t

/-! Aborting (R78, Table 3.5). -/

/-- A READ request that fetches data of a command. -/
def ReadRequest.fetches (r : ReadRequest) (key : CmdKey) : Bool := match r.target with | .command k _ => k == key | _ => false

/-- The fetch of a command's data stops: requests that are not sent go, and what outstanding ones still bring is placed
nowhere. -/
def State.dropReads (s : State) (key : CmdKey) : State :=
  let gone := s.rdma.reads.filter fun r => r.fetches key && r.tracker.isNone
  s.onRdma fun r => { r with
    reads := (r.reads.filter fun q => !(q.fetches key && q.tracker.isNone)).map fun q =>
      if q.fetches key then { q with target := .nowhere } else q
    works := r.works.map fun w => { w with reads := w.reads - (gone.filter (·.work == w.num)).length } }

/-- R78: the fate of one command at a controller reset: its fetches and reads stop; blocks already whole go on to commit;
status Command Aborted due to SQ Deletion. -/
def State.abortCommand (s : State) (c : HostCmd) : State :=
  let s := s.dropReads c.key
  let s := s.onDirect fun d => { d with reads := d.reads.filter fun q =>
    q.sent || (match q.what with | .data k _ => k != c.key | .entry .. => true) }
  s.endCommand c stAbortedSqDeletion

/-- A reservation command has its lock: judged, the commands of the hosts that a Preempt and Abort preempts aborted, and its
change made now or left to its measure's commit. -/
def State.runReservation (s : State) (c : HostCmd) (ns : Namespace) (q : ResvRequest) : State :=
  let host := s.hostOf c.key.ctrl
  let resv := s.reservationNow ns
  let st := resv.judge host q
  if st ≠ stOk then s.endCommand c st else
  let gone := resv.preempted host q
  let s := s.each (s.host.commands.filter fun d => d.nsid == ns.nsid && gone.contains (s.hostOf d.key.ctrl)) fun d s => s.abortCommand d
  if c.writeBack then
    s.awaitsCommit c.group fun s =>
      let n := c.meas.getD s.measure
      (s.onHost fun h => { h with resvPending := h.resvPending ++ [⟨c.key, ns.nsid, host, n, q⟩] }).onCommand c.key fun c =>
        { c with stage := .held, meas := some n }
  else (s.changeReservation ns.nsid host q).endCommand c stOk

/-- A command has all its locks (R67): what its kind does next. -/
def State.runLocked (s : State) (key : CmdKey) : State :=
  match s.command key with
  | none => s
  | some c =>
    if c.kind = .flush then
      if c.writeBack then s.awaitsCommit c.group fun s => s.onCommand key fun c => { c with stage := .held, meas := some (c.meas.getD s.measure) }
      else s.endCommand c stOk
    else match s.namespace c.nsid with
    | none => s.endCommand c stInvalidNamespace
    | some ns =>
      match c.kind with
      | .write | .copy => s.askRoom key
      | .read | .verify => (s.onCommand key fun c => { c with stage := .move }).startReading key
      | .compare =>
        let s := s.onCommand key fun c => { c with stage := .move }
        (s.startFetch key (c.range.count * transferBytes ns c.pract)).startReading key
      | .writeZeroes => ((s.onCommand key fun c => { c with stage := .fetch }).askTags ns (s.deallocUnits c)).tryDealloc key
      | .dsm =>
        if c.deallocate then ((s.onCommand key fun c => { c with stage := .fetch }).askTags ns (s.deallocUnits c)).tryDealloc key
        else s.endCommand c stOk
      | .resvReport => (s.sendData key [(0, (s.reservationNow ns).report)]).endCommand c stOk
      | .flush => s
      | .resvRegister | .resvAcquire | .resvRelease =>
        match c.resv with
        | some q => s.runReservation c ns q
        | none => s

/-- R263: a move in Catch-up or Armed holds new writes to its extent, before their data fetch. -/
def State.moveHolds (s : State) (c : HostCmd) : Bool :=
  s.store.moves.any fun m => m.nsid == c.nsid && (m.state == .catchUp || m.state == .armed) &&
    c.locks.any fun l => l.1 && rangesMeet l.2 ⟨m.ext * 262144, 262144⟩ && c.kind != .resvRegister && c.kind != .resvAcquire &&
      c.kind != .resvRelease

/-- R593: while the vault is Idle or Restoring, write-type commands wait as for room; R44: and until the measure grid runs; R284: and
while the map mirror is behind. -/
def State.vaultHolds (s : State) (c : HostCmd) : Bool :=
  (s.rd VLT_STAT.STATE == 0 || s.rd VLT_STAT.STATE == 4 || !s.gridRuns || s.energy.mapWait) &&
  (c.kind == .write || c.kind == .writeZeroes || c.kind == .copy || (c.kind == .dsm && c.deallocate))

/-- R66: grant a waiting command its locks if nothing earlier on its queue conflicts. -/
def State.tryLock (s : State) (key : CmdKey) : State :=
  match s.command key with
  | none => s
  | some c => if c.stage = .lock && s.lockFree c && !s.moveHolds c && !s.vaultHolds c then s.runLocked key else s

/-- R50: slots taken by commands in progress. -/
def State.slotsTaken (s : State) : Nat := (s.host.commands.filter (·.stage != .slot)).length

/-- R50: give a waiting command its slot, in its queue's arrival order. -/
def State.trySlot (s : State) (key : CmdKey) : State :=
  match s.command key with
  | none => s
  | some c =>
    let earlier := s.host.commands.any fun d => d.stage == .slot && d.order < c.order && d.key.ctrl == c.key.ctrl && d.key.qid == c.key.qid
    if c.stage = .slot && !earlier && s.slotsTaken < 262144 then
      (s.onCommand key fun c => { c with stage := .lock }).tryLock key
    else s

/-! Controller resets (R78, Table 3.5). -/

/-- R78: every command of a controller meets its fate. -/
def State.abortCommands (s : State) (ctrl : Nat) (queue : Option Nat) : State :=
  (s.each (s.host.commands.filter fun c => c.key.ctrl == ctrl && (match queue with | some q => c.key.qid == q | none => true))
    fun c s => s.abortCommand c).showRoomWait

/-- R77, R78, R80: a controller reset: the commands' fates, then the I/O connections go, and CSTS.RDY reads 0. The admin
connection goes as well where the association ends, and with it the controller and its attachments. -/
def State.resetController (s : State) (ctrl : Nat) (endAssociation : Bool) : State :=
  match s.controller ctrl with
  | none => s
  | some c =>
    let s := s.abortCommands ctrl none
    let s := s.each (c.queues.filter fun q => q.1 != 0 || endAssociation) fun q s => s.drainQueuePair q.2
    let s := s.onController ctrl fun c => { c with
      enabled := false
      ready := false
      shst := 0
      cc := c.cc / 2 * 2
      aers := []
      queues := c.queues.filter fun q => q.1 == 0 && !endAssociation }
    let s := s.onHost fun h => { h with adminEntries := h.adminEntries.filter (·.key.ctrl != ctrl) }
    let s := s.onAdmin fun a => { a with
      ops := a.ops.map fun o => if o.cmd.any (·.ctrl == ctrl) then { o with cmd := none } else o
      forwards := a.forwards.filter (·.key.ctrl != ctrl) }
    if endAssociation then s.onHost fun h => { h with
      controllers := h.controllers.filter (·.cntlid != ctrl)
      namespaces := h.namespaces.map fun n => { n with attached := n.attached.filter (· != ctrl) } } else s

/-- Table 5.5: a Ready queue pair becomes Draining; an admin queue's is the connection failure of R77. -/
def State.endQueuePair (s : State) (idx : Nat) : State :=
  let s := s.drainQueuePair idx
  if (s.qp idx).bound && s.ctx idx Ctx.SVC == 0 && s.ctx idx Ctx.QID == 0 then s.resetController (s.ctx idx Ctx.CNTLID) true else s

/-- R117: the module ends a connection with a disconnect request. -/
def State.disconnect (s : State) (idx : Nat) : State := (s.endQueuePair idx).emit (.rdma idx .disconnect)

/-- R119: end the connection that carries a queue. -/
def State.endConnection (s : State) (key : CmdKey) : State :=
  match s.queuePairOf key.ctrl key.qid with
  | some idx => s.disconnect idx
  | none => s


/-! Acceptance. -/

/-- R106: the newest operation of a slot that this module knows of, its own or its peer's: its STATE, and its newest durable
record, or while it has none the record it starts from. -/
def State.opShown (s : State) (slot : Nat) : Option (Nat × ProgressRecord) :=
  let mine := (getBy LongOp.slot slot s.admin.ops).map fun o => (o.state, o.durable.getD { o.newest with next := 0, flags := o.newest.flags &&& 6 })
  match mine, (s.admin.peerOps.find? (·.1 == slot)).map (·.2) with
  | some a, some b => if a.2.opId < b.2.opId || (a.2.opId == b.2.opId && Decidable.decide (a.2.seq < b.2.seq)) then some b else some a
  | some a, none => some a
  | none, b => b

/-- The link carries messages: Linked or Paired. -/
def State.linkUp (s : State) : Bool := s.rd EZL_STAT.STATE == 2 || s.rd EZL_STAT.STATE == 3

/-- R107, R109: this module is the one that walks a slot: the lead of its group; for a sanitize the module that leads. -/
def State.walksHere (s : State) (slot : Nat) : Bool := if slot = 8 then s.rd LTK_STAT.LEAD != 0 else s.leads slot

/-- R109: operations whose lead has gone elsewhere wait here to be resumed. -/
def State.yieldWalks (s : State) : State := s.onAdmin fun a => { a with
  ops := a.ops.map fun o => if o.state == 1 && !s.walksHere o.slot then { o with state := 3, walking := [], ahead := [], retiring := false } else o }

/-- R110: the peer's formats and this module's that are not over. -/
def State.formatRuns (s : State) (slot : Nat) : Bool := (s.opShown slot).any fun o => o.1 != 4 && o.1 != 5

/-- R104: a sanitize of the pair runs, or has failed: I/O completes with Namespace Not Ready. -/
def State.sanitizeHolds (s : State) : Bool := (s.opShown 8).any (·.1 != 4)

/-- R47, R81: what every I/O command meets first, whatever its opcode: a controller that takes no command or has been told to
shut down, then its FUSE field. -/
def State.ioCheck (s : State) (e : IoEntry) : Option Nat :=
  match s.controller e.key.ctrl with
  | none => some stSequence
  | some c =>
    if s.authDue e.key || !c.enabled || c.shst ≠ 0 then some stSequence
    else if e.fuse ≠ 0 then some stInvalidField
    else none

/-- What every I/O command meets before its own limits (R47, R52, R81, R83, R86, Table 3.7): the status that refuses it, if
one does, else its namespace. The order of the checks is the model's (log 8). -/
def State.admission (s : State) (e : IoEntry) : Except Nat Namespace :=
  match s.ioCheck e with
  | some st => .error st
  | none =>
    if s.sanitizeHolds then .error stNotReady
    else match s.namespace e.nsid with
    | none => .error stInvalidNamespace
    | some ns =>
      if ns.deleted || !ns.attached.contains e.key.ctrl then .error stInvalidNamespace
      else if ns.formatting then .error stFormatInProgress
      else match anaStatus (s.anaState ns.group) with
      | some st => .error st
      | none =>
        if !s.store.assembled.contains ns.set || s.store.failedSets.contains ns.set || s.admin.activationStage = 2 then .error stNotReady
        else .ok ns

/-- A command as it enters the table. -/
def State.newCommand (s : State) (e : IoEntry) (kind : IoKind) (ns : Namespace) : HostCmd where
  key := e.key
  order := s.host.nextOrder
  kind := kind
  nsid := e.nsid
  group := ns.group
  range := ⟨0, 0⟩
  ranges := []
  stage := .slot
  writeBack := ns.writeBack
  meas := if kind.dataless then some s.measure else none
  invalidate := e.invalidate
  buffer := .remote
  sgl := e.sgl
  prchk := 0
  pract := false
  lbat := 0
  lbatm := 0
  deallocate := false
  resv := none
  places := []
  srcPlaces := []
  since := 0
  pieces := []
  placed := []
  got := []
  tagsAt := []
  tagWaits := []
  awaits := []
  room := 0
  stripes := []
  status := stOk

/-- Enter a command into the table and let it go as far as it can. -/
def State.enter (s : State) (c : HostCmd) : State :=
  ((s.onHost fun h => { h with commands := h.commands ++ [c], nextOrder := h.nextOrder + 1 }).event 0x50 c.group c.range.count).trySlot c.key

/-- Refuse a command with a status; while authentication is due it ends the connection instead (R119). -/
def State.refuse (s : State) (e : IoEntry) (st : Nat) : State :=
  if s.authDue e.key then s.endConnection e.key else (s.logError e.key st).respond e.key st (dnrOf st) 0 e.invalidate

/-- The places of a run of blocks, as they lie at decode (R209). -/
def State.placesOf (s : State) (ns : Namespace) (r : BlockRange) : List (Option Place) :=
  (List.range r.count).map fun i => (s.translate ns (r.first + i)).map s.resolve

/-- The capsule, or the host memory that its descriptors name, holds the `len` bytes that a command transfers; a direct-port
command's is described by PRPs (R372). -/
def State.dataHolds (s : State) (e : IoEntry) (kind : IoKind) (buffer : HostBuffer) (len : Nat) : Bool :=
  if kind = .read || kind = .write || kind = .compare then
    match buffer with
    | .inCapsule d => decide (len ≤ d.length)
    | .remote => e.key.ctrl == s.directId || sglHolds e.sgl len
  else true

/-- A command on one range of blocks: its limit, the namespace's end, the reservation, then the table. -/
def State.acceptRange (s : State) (e : IoEntry) (kind : IoKind) (r : IoRange) (buffer : HostBuffer) (limit : Nat) (write : Bool) : State :=
  match s.admission e with
  | .error st => s.refuse e st
  | .ok ns =>
    if limit < r.range.count then s.refuse e stInvalidField
    else if ns.blocks < r.range.first + r.range.count then s.refuse e stLbaRange
    else if (s.reservationNow ns).conflicts (s.hostOf e.key.ctrl) write then s.refuse e stResvConflict
    else if !s.dataHolds e kind buffer (r.range.count * transferBytes ns r.pract) then s.refuse e stDataTransfer
    else s.enter { s.newCommand e kind ns with
      range := r.range
      buffer := buffer
      pract := r.pract
      prchk := r.prchk
      lbat := r.lbat
      lbatm := r.lbatm
      places := s.placesOf ns r.range }

/-! Statuses of Table 4.15. -/
def stSanitizeFailed : Nat := 0x01C
def stSanitizeInProgress : Nat := 0x01D
def stAerLimit : Nat := 0x105
def stFirmwareSlot : Nat := 0x106
def stFirmwareImage : Nat := 0x107
def stLogPage : Nat := 0x109
def stInvalidFormat : Nat := 0x10A
def stNotSaveable : Nat := 0x10D
def stNotChangeable : Nat := 0x10E
def stActivationProhibited : Nat := 0x113
def stOverlap : Nat := 0x114
def stNoCapacity : Nat := 0x115
def stNoIdentifier : Nat := 0x116
def stAttached : Nat := 0x118
def stNotAttached : Nat := 0x11A
def stThin : Nat := 0x11B
def stControllerList : Nat := 0x11C

/-- R111: DNR of an admin status. -/
def adminDnr (st : Nat) : Bool := dnrOf st && st != stSanitizeInProgress

/-- CNTLIDs of the peer's position (Table 4.3): a command that the peer passed over the link (R90). -/
def State.isPeers (s : State) (ctrl : Nat) : Bool := decide (0x1000 < ctrl) != (s.cfg.position == 1)

/-- Post an admin status; a failure enters the controller's error log. The status of a command that the peer passed on goes
back on channel 0. -/
def State.endAdmin (s : State) (key : CmdKey) (st : Nat) (dword0 : Nat := 0) : State :=
  let entry := s.host.adminEntries.find? (·.key == key)
  let s := s.onHost fun h => { h with adminEntries := h.adminEntries.filter (·.key != key) }
  if (s.controller key.ctrl).isNone && s.isPeers key.ctrl then
    s.emit (.message 0 (leBytes 2 key.ctrl ++ leBytes 2 key.qid ++ leBytes 2 key.cid ++ leBytes 2 st ++ leBytes 4 dword0))
  else
    (s.logError key st).respond key st (adminDnr st) dword0 (entry.bind (·.invalidate))

/-! Release (R72, R73, R75). -/

/-- R72: a write-back command of measure N may be released at the boundary that ends `ending`; the copies of the blocks it
deallocates are durable as well, and a reservation change of its is made. -/
def State.releasableAt (s : State) (ending : Nat) (c : HostCmd) : Bool :=
  c.stage == .held && c.writeBack && !s.mirrorsWait c.key &&
  !(s.store.copies.any fun h => h.cmd == some c.key && !h.durable) && !(s.host.resvPending.any (·.key == c.key)) &&
  (match c.meas with | some n => decide (n + 1 ≤ ending) && decide (n < s.link.acked) | none => false)

/-- Sort commands by the measure they belong to (R73); within a measure by a rank that is free (log 9). -/
def insertByMeasure (c : HostCmd) : List HostCmd → List HostCmd
  | [] => [c]
  | d :: ds =>
    if c.meas.getD 0 < d.meas.getD 0 || (c.meas == d.meas && Decidable.decide (Config.completionRank c.order < Config.completionRank d.order)) then c :: d :: ds else d :: insertByMeasure c ds

/-- R72, R73: release at the boundary that ends `ending`. -/
def State.releaseAtBoundary (s : State) (ending : Nat) : State :=
  let go := (s.host.commands.filter (s.releasableAt ending)).foldl (fun l c => insertByMeasure c l) []
  s.each go fun c s => s.endCommand c c.status

end Sys2Proof.Machine
end

