-- ==== Sys2Proof/Machine/WalkOps.lean ====
section
/-! DEFINITION. The walks of Format NVM and Sanitize (R103–R109): progress records, units, the retirement of keys, the end
of an operation. -/

set_option Elab.async false

namespace Sys2Proof.Machine

/-! Progress records (Table 4.12). -/

/-- R108: floor(65,536 × NEXT_UNIT / UNITS). -/
def progressProg (r : ProgressRecord) : Nat := if r.units = 0 then 0 else 65536 * r.next / r.units

def progressBytes (r : ProgressRecord) : Bytes :=
  leBytes 1 1 ++ leBytes 1 r.kind ++ leBytes 1 r.group ++ leBytes 1 r.flags ++ leBytes 4 r.nsid ++ leBytes 8 r.opId ++
  leBytes 8 r.seq ++ leBytes 4 r.units ++ leBytes 4 r.next ++ leBytes 1 r.lbaf ++ leBytes 1 r.owpass ++ leBytes 2 (progressProg r) ++
  leBytes 4 r.ovrpat ++ leBytes 8 r.measure ++ leBytes 16 0

/-- A structure packed from fields: offset, size, value. -/
def packFields (size : Nat) (l : List (Nat × Nat × Nat)) : Bytes :=
  leBytes size (l.foldl (fun n f => n + f.2.2 % 256 ^ f.2.1 * 256 ^ f.1) 0)

/-- The 64 bytes of an operation in log page 0xC2 (Table 4.11). -/
def opEntry (slot state : Nat) (r : ProgressRecord) (rate eta : Nat) : Bytes :=
  packFields 64 [(0, 1, slot), (1, 1, r.kind), (2, 1, state), (3, 1, r.flags), (4, 4, r.nsid), (8, 8, r.opId), (16, 4, r.units),
    (20, 4, r.next), (24, 2, progressProg r), (26, 1, r.lbaf), (27, 1, r.owpass), (28, 4, rate), (32, 4, eta), (40, 8, r.measure)]

def State.longOp (s : State) (slot : Nat) : Option LongOp := getBy LongOp.slot slot s.admin.ops
def State.onLongOp (s : State) (slot : Nat) (f : LongOp → LongOp) : State :=
  s.onAdmin fun a => { a with ops := setBy LongOp.slot slot f a.ops }

/-- The records of a slot's ring that the vault holds. -/
def State.vaultRecords (s : State) (slot : Nat) : List ProgressRecord := (s.admin.records.filter (·.1 == slot)).map (·.2)

/-- R108, R415: the highest SEQ of a slot's ring that the vault or the peer's state copies hold. -/
def State.progressHigh (s : State) (slot : Nat) : Nat :=
  ((s.vaultRecords slot).map (·.seq) ++ (s.admin.peerOps.filter (·.1 == slot)).map (·.2.2.seq)).foldl max 0

/-- R108: SEQ of a slot's next record, above every one of either lead. -/
def State.nextProgressSeq (s : State) (slot : Nat) : Nat := s.progressHigh slot + 1

/-- R108, Table 16.4: write a progress record: sealed once, to the vault and to every witness, in ring slot SEQ mod 4. -/
def State.writeProgress (s : State) (slot : Nat) (r : ProgressRecord) : State :=
  let r := { r with seq := s.nextProgressSeq slot, measure := s.measure }
  match s.sealRecord 1 (leBytes 1 5 ++ leBytes 1 r.group ++ leBytes 2 0) r.seq [] (progressBytes r) with
  | none => s.refuseCounter
  | some (c, tag, s) =>
    let s := s.onAdmin fun a => { a with
      records := (slot, r) :: (a.records.filter fun p => p.1 == slot).take 3 ++ a.records.filter fun p => p.1 != slot
      ops := setBy LongOp.slot slot (fun o => { o with newest := r }) a.ops }
    s.each s.witnesses fun (_, d) s =>
      s.sendSlot .write d (16 + 4 * slot + r.seq % 4) (c ++ tag ++ List.replicate 4016 0) (.progress slot r.seq)

/-! Keys (R406). -/

/-- R406 step 2: the blobs of the surviving namespaces are wrapped again under the new KEK. -/
def State.rewrapAll (s : State) (g : Nat) (kek : Bytes) : State :=
  s.each s.host.namespaces fun n s =>
    match s.openBlob n.blob with
    | some (1, _, owner, key) => s.keepBlob n.nsid (keyBlob 1 g owner (Config.kwWrap kek key))
    | _ => s

/-- R406: the keys can be retired: the pair's root key is there and the random source good. -/
def State.canRetire (s : State) : Bool := s.keys.prk.isSome && s.flag CIP_STAT.DRBG_OK

/-- R406 steps 1 to 3: the slots are zeroised on both modules, a new KEK is drawn, and it goes to the peer under the PRK. -/
def State.retireKeys (s : State) (nsids : List Nat) : State :=
  let s := s.each nsids fun n s => ((s.zeroiseSlot (namespaceSlot n)).keepBlob n []).emit (.message 2 (leBytes 1 7 ++ leBytes 4 n))
  match s.keys.prk with
  | none => s
  | some prk =>
    if nsids.isEmpty || !s.flag CIP_STAT.DRBG_OK then s
    else
      let (g, kek, s) := s.newKek
      ((s.rewrapAll g kek).emit (.message 2 (leBytes 1 9 ++ Config.kwWrap (Config.kdf prk labelKek (g % 256)) kek))).ratchetAlone

/-- R91, R405: a new namespace key in its slot, under the KEK in force. A key with equal halves is refused. -/
def State.installKey (s : State) (nsid : Nat) : State :=
  match s.kek (s.rd CIP_STAT.KEKGEN) with
  | none => s
  | some k =>
    if !s.flag CIP_STAT.DRBG_OK then s
    else
      let gen := s.rd CIP_STAT.KEKGEN
      let (key, s) := s.random 64
      if halvesEqual key then s else (s.loadSlot (namespaceSlot nsid) 1 gen key).keepBlob nsid (keyBlob 1 gen nsid (Config.kwWrap k key))

/-! Scope of a walk. -/

/-- R103: units of 256 MiB of a namespace's LBA space. -/
def formatUnits (ns : Namespace) : Nat := (ns.blocks + 65535) / 65536

/-- R104: units of 256 MiB of member capacity of one set, outside the reserved areas; and of every set. -/
def State.setUnits (s : State) (set : Nat) : Nat :=
  if s.flag (QDL_GEOM.VALID set) then ((s.memberCapacity set - 262144) * (s.geom set).n + 65535) / 65536 else 0

/-- Table 4.12 KINDs. -/
def kindCrypto : Nat := 0x14

/-- Units of a sanitize: Crypto Erase has one more, its first (R104). -/
def State.sanitizeUnits (s : State) (kind : Nat) : Nat :=
  ((List.range 4).map s.setUnits).foldl (· + ·) 0 + (if kind = kindCrypto then 1 else 0)

/-- A stripe leaves the walk deallocated: its map bit clears (R222), with the marks of its lost blocks. -/
def State.walkStripe (s : State) (set gen stripe : Nat) : State :=
  let s := if s.mapBit set gen stripe then s.setMapBit set gen stripe false else s
  (s.onStore fun x => { x with lost := x.lost.filter fun e => !(e.set == set && e.stripe == stripe) })

/-- R103: unit `u` of a format has been deallocated: the stripes whose last block lies in it, and with the last unit of an
extent its tag stripes. -/
def State.walkFormatUnit (s : State) (ns : Namespace) (u : Nat) : State :=
  match s.translate ns (u * 65536), ns.extents[u / 4]? with
  | some p, some x =>
    let g := s.geomOf ns.set p.gen
    let first := u % 4 * 65536
    let data := (List.range g.e).filter fun t => first < 8 * g.k * (t + 1) && 8 * g.k * (t + 1) ≤ first + 65536
    let rest := if u % 4 = 3 then (List.range g.perExtent).filter fun t => 262144 < 8 * g.k * (t + 1) else []
    s.each (data ++ rest) fun t s => s.walkStripe ns.set p.gen (x * g.perExtent + t)
  | _, _ => s

/-- Where unit `u` of a sanitize lies: the set, and the unit within it. -/
def State.sanitizePlace (s : State) (u : Nat) : Option (Nat × Nat) :=
  (List.range 4).foldl (fun (acc : Option (Nat × Nat) × Nat) set =>
    match acc with
    | (some p, n) => (some p, n)
    | (none, n) => if n < s.setUnits set then (some (set, n), n) else (none, n - s.setUnits set)) (none, u) |>.1

/-- The slices of a layout of a set that a walk has covered after `done` units: it goes through the members' blocks in rising
order, all members together (DESIGN CHOICE, log 43). -/
def State.slicesWalked (s : State) (set : Nat) (g : Geom) (done : Nat) : Nat :=
  if s.setUnits set ≤ done then g.slices (s.memberCapacity set) else done * 65536 / (s.geom set).n / (8 * g.h)

/-- The layouts a set's member blocks hold: the one in effect, and one being built by a Promenade. -/
def State.layouts (s : State) (set : Nat) : List Nat :=
  s.rd (QDL_GEN.GEN set) :: (if s.rd (RBD_SSTAT.PROM set) = 1 then [s.rd (QDL_GEN.GEN_NEXT set)] else [])

/-- The stripes in unit `n` of a set's walk, with the generation of their layout. -/
def State.unitStripes (s : State) (set n : Nat) : List (Nat × Nat) :=
  (s.layouts set).flatMap fun gen =>
    let g := s.geomOf set gen
    let a := s.slicesWalked set g n * g.t
    (List.range (s.slicesWalked set g (n + 1) * g.t - a)).map fun i => (gen, a + i)

/-- The set and the unit within it of unit `u` of a sanitize; none for the first unit of a Crypto Erase. -/
def State.sanitizeUnit (s : State) (kind u : Nat) : Option (Nat × Nat) :=
  if kind = kindCrypto then (if u = 0 then none else s.sanitizePlace (u - 1)) else s.sanitizePlace u

/-- Whether a stripe belongs to a namespace that is not encrypted at rest. -/
def State.plainStripe (s : State) (set gen stripe : Nat) : Bool :=
  s.host.namespaces.any fun n => n.set == set && !n.encrypted && n.extents.contains (stripe / (s.geomOf set gen).perExtent)

/-- The tag stripes of every extent of a layout. -/
def Geom.allTagStripes (g : Geom) (blocks : Nat) : List Nat :=
  (List.range (g.extents blocks)).flatMap fun x => (List.range g.tagStripes).map fun t => x * g.perExtent + g.e + t

/-- R104: a unit of a sanitize is done. The first unit of a Crypto Erase erases the vault's destage area and resets the tag maps;
the destage area is in every sanitize's scope. -/
def State.walkSanitizeUnit (s : State) (kind u : Nat) : State :=
  let s := if u = 0 then (s.onEnergy fun e => { e with images := [] }).forgetTags fun _ => true else s
  match s.sanitizeUnit kind u with
  | none => s.each (List.range 4) fun set s => s.each (s.layouts set) fun gen s =>
      s.each ((s.geomOf set gen).allTagStripes (s.memberCapacity set)) fun t s => s.walkStripe set gen t
  | some (set, n) => s.each (s.unitStripes set n) fun (gen, t) s => s.walkStripe set gen t

/-- R104: the patterns of an Overwrite, one a pass; OIPBP inverts between passes. -/
def overwritePatterns (r : ProgressRecord) : List Nat :=
  (List.range r.owpass).map fun i => if bitOf r.flags 2 && i % 2 == 1 then 2 ^ 32 - 1 - r.ovrpat % 2 ^ 32 else r.ovrpat % 2 ^ 32

/-- R103, R104: what is done to the blocks of a unit. -/
def State.unitWork (s : State) (r : ProgressRecord) (u : Nat) : WalkWork :=
  if r.kind = 0x12 then .zeroes
  else if r.kind = 0x13 then .overwrite (overwritePatterns r)
  else if r.kind = kindCrypto then
    match s.sanitizeUnit r.kind u with
    | none => .resetTags
    | some (set, n) => .crypto (((s.unitStripes set n).filter fun (gen, t) => s.plainStripe set gen t).map fun (gen, t) => (set, gen, t))
  else .deallocate

/-! Progress. -/

/-- Format: commands already decoded, open stripes and held copies of the namespace; sanitize: every command, and every
lead of the peer. -/
def State.walkDrained (s : State) (o : LongOp) : Bool :=
  if o.slot = 8 then s.host.commands.isEmpty && s.link.peerLeads == 0
  else !(s.host.commands.any (·.nsid == o.newest.nsid)) && !(s.store.openStripes.any (·.nsid == o.newest.nsid)) &&
    !(s.store.copies.any (·.nsid == o.newest.nsid))

/-- The key of the operation is still to be retired: SES 1 and 2 of an encrypted namespace, and every sanitize. -/
def State.keyDue (s : State) (o : LongOp) : Bool :=
  !bitOf o.newest.flags 0 && (o.slot == 8 || ((o.newest.kind == 2 || o.newest.kind == 3) &&
    (s.namespace o.newest.nsid).any (·.encrypted)))

/-- The namespaces whose keys an operation retires. -/
def State.keysOf (s : State) (o : LongOp) : List Nat :=
  if o.slot = 8 then (s.host.namespaces.filter (·.encrypted)).map (·.nsid) else [o.newest.nsid]

/-- R104 step 3: every DRAM copy and every live journal entry goes; the follow is told. -/
def State.discardCopies (s : State) : State :=
  let s := s.each (s.store.journal.filter (·.state != 3)) fun e s => s.journalRecord { e with state := 3 }
  (s.onStore fun x => { x with
    retired := x.retired ++ x.openStripes.map fun o => (o.set, o.stripe)
    copies := []
    mirrors := []
    openStripes := []
    locked := [] }).showDirty

/-- R103 step 3, R104 steps 3 and 4: the discard of DRAM copies, then the retirement of the keys and the new keys. It waits while
the keys cannot be retired. -/
def State.startRetirement (s : State) (o : LongOp) : State :=
  if !(s.keysOf o).isEmpty && !s.canRetire then s else
  let s := if o.slot = 8 then s.discardCopies else s
  let s := s.retireKeys (s.keysOf o)
  (s.each (s.keysOf o) fun n s => s.installKey n).onLongOp o.slot fun o => { o with retiring := true }

/-- Namespaces of an operation that are encrypted and have no key: the draw was refused (R405), or made while the key store could
give none. -/
def State.keyless (s : State) (o : LongOp) : List Nat :=
  (s.keysOf o).filter fun n => (s.namespace n).any fun n => n.encrypted && n.blob.isEmpty

/-- R406: the retirement has ended; a record with FLAGS bit 0 is written, and a sanitize's command completes. -/
def State.endRetirement (s : State) (o : LongOp) : State :=
  let s := s.onLongOp o.slot fun o => { o with retiring := false }
  let s := s.writeProgress o.slot { o.newest with flags := o.newest.flags ||| 1 }
  if o.slot = 8 then
    match o.cmd with
    | some key => (s.onLongOp 8 fun o => { o with cmd := none }).endAdmin key stOk
    | none => s
  else s

/-- R108: start the units that the newest durable record lets begin: at most two ahead. -/
def State.startUnits (s : State) (o : LongOp) : State :=
  let most := match o.durable with | some d => min o.newest.units (d.next + 2) | none => 0
  let go := ((List.range most).filter fun u => o.newest.next ≤ u && !o.walking.contains u && !o.ahead.contains u)
  (s.onLongOp o.slot fun o => { o with walking := o.walking ++ go }).emits (go.map fun u => .walkUnit o.slot u (s.unitWork o.newest u))

/-- R103, R104, R107: one walk goes as far as it can: the Caller grants it (WALK), its record is durable, its commands are
done, its keys retired; then its units begin. -/
def State.advanceWalk (s : State) (o : LongOp) : State :=
  if o.state ≠ 1 ∨ o.durable.isNone ∨ bitOf o.newest.flags 4 ∨ !s.granted 5 then s
  else if !s.walkDrained o then
    s.each (s.store.openStripes.filter fun p => o.slot == 8 || p.nsid == o.newest.nsid) fun p s =>
      if p.phase == .opened then s.closeStripe p.set p.stripe else s
  else if s.keyDue o then
    if !o.retiring then s.startRetirement o
    else if !(s.keyless o).isEmpty then s.each (s.keyless o) fun n s => s.installKey n
    else if s.keys.ratchetMeasure.isNone then s.endRetirement o else s
  else s.startUnits o

/-- Every walk that this module leads goes on; the others wait to be resumed. -/
def State.advanceWalks (s : State) : State :=
  let s := s.yieldWalks
  s.each s.admin.ops fun o s => s.advanceWalk o

/-- A controller is told that its namespaces changed (Table 4.4, page 0x04). -/
def State.namespaceChanged (s : State) (ctrl nsid : Nat) : State :=
  match s.controller ctrl with
  | some c =>
    let s := s.onController ctrl fun x => { x with changedNs := if x.changedNs.contains nsid then x.changedNs else x.changedNs ++ [nsid] }
    if bitOf c.aec 8 then s.completeAer c 2 0 0x04 else s
  | none => s

/-- R105: the end of an operation: the namespace takes its format and every block reads as deallocated. -/
def State.endOperation (s : State) (o : LongOp) : State :=
  let failed := bitOf o.newest.flags 3
  let s := s.onLongOp o.slot fun o => { o with state := if failed then 5 else 4, cmd := none }
  let s := if o.slot = 8 then s.forgetTags fun _ => true
    else (s.onNamespace o.newest.nsid fun n => { n with formatting := false, lbaf := o.newest.lbaf }).forgetTags (· == o.newest.nsid)
  let s := match o.cmd with
    | some key => s.endAdmin key stOk
    | none => s
  let s := s.each s.host.controllers fun c s =>
    if o.slot = 8 then s.completeAer c 6 1 0x81
    else if (s.namespace o.newest.nsid).any (·.attached.contains c.cntlid) then s.namespaceChanged c.cntlid o.newest.nsid
    else s
  s.notify (.longOpEnded (opEntry o.slot (if failed then 5 else 4) (o.durable.getD o.newest) 0 0))

end Sys2Proof.Machine
end

