-- ==== Sys2Proof/Machine/Jobs.lean ====
section
/-! DEFINITION. Rows read whole (R221, R230, R241, R243, R253, R255, R261): what becomes of a row of a stripe once every
block asked for has come back or failed, for each purpose it is read for. -/

set_option Elab.async false

namespace Sys2Proof.Machine

def RowJob.find (j : RowJob) (i : Nat) : Option Bytes := (j.got.find? (·.1 == i)).map (·.2)

/-- The data strips of a row that have not come back. -/
def RowJob.missing (j : RowJob) (g : Geom) : List Nat := (List.range g.k).filter fun i => (j.find i).isNone

/-- The row's parity with every missing data block counted as zero (R243 step 4). -/
def RowJob.zeroParity (j : RowJob) (g : Geom) : List Bytes :=
  (List.range g.m).map fun p => parityOf p 4096 ((List.range g.k).map fun i => (j.find i).getD zeroBlock)

/-- Strips neither read nor found bad. -/
def RowJob.unread (j : RowJob) (g : Geom) : List Nat := (List.range g.w).filter fun i => (j.find i).isNone && !j.bad.contains i

/-- Read the rest of a row for the same purpose, keeping what has come back. -/
def State.extendJob (s : State) (j : RowJob) (strips : List Nat) (why : RowPurpose) : State :=
  let s := s.startJob j.set j.gen j.stripe j.row strips why
  s.onStore fun x => { x with jobs := x.jobs.map fun q => if q.id == x.nextJob - 1 then
    { q with got := j.got, bad := j.bad ++ q.bad, empty := j.empty } else q }

/-! Closing (R221). -/

/-- The full new row of a stripe: newly written blocks over the old row. -/
def State.newRow (s : State) (o : OpenStripe) (row : Nat) (old : List Bytes) : List Bytes :=
  old.zipIdx.map fun (d, i) =>
    if (o.writtenIn row).contains i then ((s.stripeCopy o.set o.stripe i row).map (·.content)).getD d else d

/-- R221: every read a closing row needs has come back: form its parity, or close by the other method and solve, or lose
what cannot be solved (R242, CAUSE 0x02). -/
def State.finishCloseRow (s : State) (job : RowJob) : State :=
  match s.openStripe job.set job.stripe with
  | none => s
  | some o =>
    let g := s.geomOf job.set job.gen
    let at' := fun i => (job.find i).getD zeroBlock
    if job.bad.isEmpty then
      match job.purpose with
      | .closeModify =>
        s.rowParity o job.row fun p =>
          (o.writtenIn job.row).foldl (fun v i => xorBytes v (scaleBytes (parityCoeff p i) (at' i)))
            (xorBytes (accGet o.acc job.row p) (at' (g.k + p)))
      | _ =>
        s.rowParity o job.row fun p =>
          ((List.range g.k).filter fun i => !(o.writtenIn job.row).contains i).foldl
            (fun v i => xorBytes v (scaleBytes (parityCoeff p i) (at' i))) (accGet o.acc job.row p)
    else if !(job.unread g).isEmpty then s.extendJob job (job.unread g) .closeReconstruct
    else
      match solveRow g.k g.m 4096 job.find with
      | some old => s.rowParity o job.row fun p => parityOf p 4096 (s.newRow o job.row old)
      | none =>
        let gone := (job.missing g).filter fun i => !(o.writtenIn job.row).contains i
        let row := s.newRow o job.row ((List.range g.k).map at')
        s.loseRow job.set job.gen job.stripe job.row 2 gone ((List.range g.m).map fun p => parityOf p 4096 row)

/-! Degraded reads (R230, R231). -/

/-- A stored block reaches the command that reads it; none is a deallocated block, whose tag is 0xFFFF (R49, R213). -/
def State.deliver (s : State) (key : CmdKey) (idx : Nat) (stored : Option Bytes) : State :=
  match s.command key with
  | none => s
  | some c =>
    match s.namespace c.nsid, stored with
    | none, _ => s
    | some _, none => (s.onCommand key fun c => { c with
        tagsAt := c.tagsAt.filter (·.1 != idx)
        tagWaits := c.tagWaits.filter (·.1 != idx) }).gotBlock key idx deallocatedData 0xFFFF
    | some ns, some d => (s.xtsBlock ns).gotBlock key idx (s.toPlain ns (c.readBlocks.getD idx 0) d) 0xFFFF

/-- A command that waited for a tag block goes on. -/
def State.resumeTags (s : State) (key : CmdKey) : State :=
  match s.command key with
  | none => s
  | some c =>
    if c.kind == .write then s.formBlocks key
    else if c.kind == .writeZeroes || c.kind == .dsm then s.tryDealloc key
    else if c.stage = .move then s.finishRead key else s

/-- A tag block has come, plain: it is at hand while its namespace has commands, and those that waited for it go on (R60). -/
def State.tagsArrive (s : State) (nsid unit : Nat) (block : Bytes) : State :=
  match s.namespace nsid with
  | none => s
  | some ns =>
    let waiting := (s.host.commands.filter (·.nsid == nsid)).map (·.key)
    if waiting.isEmpty then s else
    let s := if (s.knownTags ns unit).isSome then s else s.keepTags ns unit block
    let s := s.onHost fun h => { h with commands := h.commands.map fun c => if c.nsid == nsid then { c with
        tagsAt := c.tagsAt ++ (c.tagWaits.filter (·.2 == unit)).map fun (i, _) => (i, tagAt block (c.readBlocks.getD i 0))
        tagWaits := c.tagWaits.filter (·.2 != unit) } else c }
    s.each waiting fun k s => s.resumeTags k

/-- A stored tag block has come; none where it is deallocated, so that it holds no tag. -/
def State.tagsRead (s : State) (nsid unit : Nat) (stored : Option Bytes) : State :=
  match s.namespace nsid, stored with
  | none, _ => s
  | some _, none => s.tagsArrive nsid unit emptyTagBlock
  | some ns, some d => (s.xtsBlock ns).tagsArrive nsid unit (s.toPlain ns unit d)

/-- R242, third case: a tag block is lost, and with it the blocks whose tags it held: reads of them fail, and a write starts from
a tag block that holds no tag. -/
def State.tagsLost (s : State) (nsid unit : Nat) : State :=
  let s := s.each ((s.host.commands.filter fun c => c.nsid == nsid && c.tagWaits.any (·.2 == unit)).map (·.key)) fun k s => s.failCommand k stUnrecovered
  s.tagsArrive nsid unit emptyTagBlock

/-- What a reconstructed block stands for: in an encrypted namespace a block of zeroes is a deallocated one (log 34). -/
def State.reconstructed (s : State) (key : CmdKey) (d : Bytes) : Option Bytes :=
  match s.command key with
  | none => some d
  | some c =>
    match s.namespace c.nsid with
    | some ns => if ns.encrypted && d == zeroBlock then none else some d
    | none => some d

/-- R251: bad blocks found by a degraded read, on members that still hold them, wait for repair. -/
def State.noteBad (s : State) (j : RowJob) : State :=
  s.each (j.bad.filter fun i => (s.holder j.set j.gen j.stripe i).isSome) fun i s => s.onStore fun x =>
    { x with badFound := if x.badFound.contains (j.set, s.pos j.set j.gen j.stripe, i, j.row) then x.badFound else
      x.badFound ++ [(j.set, s.pos j.set j.gen j.stripe, i, j.row)] }

/-- R230: a row read for one of its blocks: solved, the block goes where it is wanted; else the rest of the row is read; else the
row's missing blocks are lost (R242). -/
def State.finishSolve (s : State) (j : RowJob) (strip : Nat) (good : State → Bytes → State) (lost : State → State) : State :=
  let g := s.geomOf j.set j.gen
  match solveRow g.k g.m 4096 j.find with
  | some data => good (s.noteBad j) (data.getD strip [])
  | none =>
    let more := (j.unread g).filter fun i => (s.holder j.set j.gen j.stripe i).isSome
    if !more.isEmpty then s.extendJob j more j.purpose
    else lost (s.loseRow j.set j.gen j.stripe j.row 2 (j.missing g) (j.zeroParity g))

def State.finishDegraded (s : State) (j : RowJob) (key : CmdKey) (idx strip : Nat) : State :=
  s.finishSolve j strip (fun s d => s.deliver key idx (s.reconstructed key d)) fun s => (s.failCommand key stUnrecovered).finishRead key

/-- A tag block reconstructed; in an encrypted namespace a block of zeroes is a deallocated one (log 34). -/
def State.finishDegradedTags (s : State) (j : RowJob) (nsid unit strip : Nat) : State :=
  s.finishSolve j strip
    (fun s d => s.tagsRead nsid unit (if (s.namespace nsid).any (·.encrypted) && d == zeroBlock then none else some d))
    fun s => s.tagsLost nsid unit

/-! Steps on a locked stripe (R241, R251, R253, R255, R228). -/

/-- Send a command to a named member for a strip. -/
def State.sendStripTo (s : State) (kind : OpKind) (u set gen stripe strip row : Nat) (content : Bytes) (why : OpPurpose) : State :=
  s.sendStripAt kind u (s.slotOf set u) set gen stripe strip row content why

def State.onStep (s : State) (set stripe : Nat) (f : StripeStep → StripeStep) : State :=
  s.onStore fun x => { x with steps := x.steps.map fun p => if p.set == set && p.stripe == stripe then f p else p }

def State.step? (s : State) (set stripe : Nat) : Option StripeStep :=
  s.store.steps.find? fun p => p.set == set && p.stripe == stripe

/-- A write of a step. -/
def State.stepWrite (s : State) (u set gen stripe strip row : Nat) (content : Bytes) : State :=
  (s.onStep set stripe fun p => { p with writes := p.writes + 1 }).sendStripTo .write u set gen stripe strip row content .step

/-- Strips of rebuilding substitutions whose bit is clear, with the members of their spare locations. -/
def State.spareTargets (s : State) (set gen stripe : Nat) : List (Nat × Nat) :=
  let g := s.geomOf set gen
  (s.rebuildingAt set (s.pos set gen stripe)).flatMap fun (z, u) =>
    if s.rebuildBit set z (s.pos set gen stripe) then [] else
    ((List.range g.w).filter fun i => s.homeMember set gen stripe i == u).map fun i => (i, g.spareMember (s.figOf set gen) set stripe z)

/-- A step ends: a scrub moves its position, a copy back frees the spare location and moves its cursor; an entry that
was recovered is Retired; the stripe is unlocked. A rebuild step ends by its own event. -/
def State.tryEndStep (s : State) (set stripe : Nat) : State :=
  match s.step? set stripe with
  | none => s
  | some p =>
    if !p.started || !p.rowsLeft.isEmpty || p.writes ≠ 0 || s.store.lostFixes.any (fun f => f.set == set && f.stripe == stripe) ||
       p.why == .rebuild then s else
    let s : State := match p.why with
      | .scrub =>
        let s := if p.found then s else s.count RBD_SCRUB_STRIPES.addr
        if s.rd64 (RBD_SPOS.addr set) ≤ stripe then s.setReg (RBD_SPOS.addr set) (BitVec.ofNat 64 (stripe + 1)) else s
      | .copyBack =>
        match s.store.copyBack.find? (·.1 == set) with
        | none => s
        | some (_, u) =>
          let g := s.geomOf set p.gen
          let s : State := match s.substitution set u g.s with
            | some z =>
              if s.rebuildBit set z (s.pos set p.gen stripe) then
                s.each ((List.range g.w).filter fun i => s.homeMember set p.gen stripe i == u) fun i s =>
                  s.each (List.range 8) fun j s =>
                    s.sendStripTo .dealloc (g.spareMember (s.figOf set p.gen) set stripe z) set p.gen stripe i j [] .background
              else s
            | none => s
          s.setReg (RBD_CPOS.addr set) (BitVec.ofNat 64 (s.pos set p.gen stripe + 1))
      | _ => s
    let s := s.onStore fun x => { x with steps := x.steps.filter fun q => !(q.set == set && q.stripe == stripe) }
    ((s.retireEntries set stripe).unlockStripe set stripe).showRebuild set

/-- A row of a step is done. -/
def State.stepRowDone (s : State) (j : RowJob) : State :=
  (s.onStep j.set j.stripe fun p => { p with rowsLeft := p.rowsLeft.filter (· != j.row) }).tryEndStep j.set j.stripe

/-- CAUSE of Table 9.2 for a step. -/
def stepCause : RowPurpose → Nat
  | .repair => 2 | .recovery => 3 | .scrub => 4 | _ => 1

/-- Write the strips of a row that were bad back to their own locations. -/
def State.writeBackBad (s : State) (j : RowJob) (block : Nat → Bytes) : State :=
  s.each (j.bad.eraseDups) fun i s =>
    match s.holder j.set j.gen j.stripe i with
    | some u => s.stepWrite u j.set j.gen j.stripe i j.row (block i)
    | none => s

/-- A row of a step has been solved: what the step writes. -/
def State.stepRowSolved (s : State) (j : RowJob) (g : Geom) (data : List Bytes) : State :=
  let block := fun i => if i < g.k then data.getD i [] else parityOf (i - g.k) 4096 data
  match j.purpose with
  | .rebuild =>
    (s.each (s.spareTargets j.set j.gen j.stripe) fun (i, u) s => s.stepWrite u j.set j.gen j.stripe i j.row (block i)).writeBackBad j block
  | .repair => (s.writeBackBad j block).count RBD_REPAIRS.addr
  | .scrub =>
    if j.bad.any fun i => (s.holder j.set j.gen j.stripe i).isSome then
      ((s.onStep j.set j.stripe fun p => { p with found := true }).writeBackBad j block).count RBD_REPAIRS.addr
    else if (List.range g.m).all fun p => (j.find (g.k + p)).all (· == block (g.k + p)) then s
    else
      let s := (s.onStep j.set j.stripe fun p => { p with found := true }).each (List.range g.m) fun p s =>
        match s.holder j.set j.gen j.stripe (g.k + p) with
        | some u => s.stepWrite u j.set j.gen j.stripe (g.k + p) j.row (block (g.k + p))
        | none => s
      (s.plainFault 4 1 0x21).count RBD_SCRUB_PARFIX.addr
  | .copyBack =>
    match s.store.copyBack.find? (·.1 == j.set) with
    | some (_, u) => s.each ((List.range g.w).filter fun i => s.homeMember j.set j.gen j.stripe i == u) fun i s =>
        s.stepWrite u j.set j.gen j.stripe i j.row (block i)
    | none => s
  | _ => s

/-- A row of a step has come back: solved and written, or lost (R243). A copy back that read its one strip well needs no
solving. -/
def State.finishStepRow (s : State) (j : RowJob) : State :=
  let g := s.geomOf j.set j.gen
  if j.purpose == .recovery then
    if (j.missing g).isEmpty then
      (s.each (List.range g.m) fun p s =>
        match s.holder j.set j.gen j.stripe (g.k + p) with
        | some u => s.stepWrite u j.set j.gen j.stripe (g.k + p) j.row
            (parityOf p 4096 ((List.range g.k).map fun i => (j.find i).getD zeroBlock))
        | none => s).stepRowDone j
    else (s.loseRow j.set j.gen j.stripe j.row 3 (j.missing g) (j.zeroParity g)).stepRowDone j
  else match j.purpose, j.got with
  | .copyBack, [(i, d)] =>
    match s.store.copyBack.find? (·.1 == j.set) with
    | some (_, u) => if j.bad.isEmpty then (s.stepWrite u j.set j.gen j.stripe i j.row d).stepRowDone j else
        s.extendJob j (j.unread g) .copyBack
    | none => s.stepRowDone j
  | _, _ =>
    match solveRow g.k g.m 4096 j.find with
    | some data => (s.stepRowSolved j g data).stepRowDone j
    | none =>
      if j.purpose == .copyBack && !(j.unread g).isEmpty then s.extendJob j (j.unread g) .copyBack
      else ((s.onStep j.set j.stripe fun p => { p with found := true }).loseRow j.set j.gen j.stripe j.row (stepCause j.purpose)
        (j.missing g) (j.zeroParity g)).stepRowDone j

/-! Lost rows whose entries are durable (R243 steps 3 and 4). -/

/-- Whether the entries of a lost row are durable; a row with none entered waits for nothing. -/
def State.fixReady (s : State) (f : LostFix) : Bool :=
  !(s.store.lost.any fun e => e.set == f.set && !e.durable &&
      (e.stripe == f.stripe || (e.cause == 5 && f.stripe % (s.geomOf f.set f.gen).perExtent ≥ (s.geomOf f.set f.gen).e)))

/-- Where a strip of the stripe may be written now: its location, or its spare location while a step rebuilds it. -/
def State.writeTarget (s : State) (set gen stripe i : Nat) : Option Nat :=
  match s.holder set gen stripe i with
  | some u => some u
  | none => ((s.spareTargets set gen stripe).find? (·.1 == i)).map (·.2)

/-- Write a lost row's parity: as the close's parity where the stripe is closing, else as a write of the step or of the
background. -/
def State.writeLostParity (s : State) (f : LostFix) (parity : List Bytes) : State :=
  let g := s.geomOf f.set f.gen
  match s.openStripe f.set f.stripe with
  | some o =>
    if o.phase == .closing && o.rowsLeft.contains f.row then s.rowParity o f.row fun p => parity.getD p [] else
    s.each (List.range g.m) fun p s => s.sendMember .write f.set f.gen f.stripe (g.k + p) f.row (parity.getD p []) .background
  | none =>
    s.each (List.range g.m) fun p s =>
      match s.writeTarget f.set f.gen f.stripe (g.k + p), s.step? f.set f.stripe with
      | some u, some _ => s.stepWrite u f.set f.gen f.stripe (g.k + p) f.row (parity.getD p [])
      | some u, none => s.sendStripTo .write u f.set f.gen f.stripe (g.k + p) f.row (parity.getD p []) .background
      | none, _ => s

/-- R243 steps 3 and 4 of one row: its lost blocks are deallocated and its parity rewritten. -/
def State.settleFix (s : State) (f : LostFix) : State :=
  let s := s.onStore fun x => { x with lostFixes := x.lostFixes.filter (· != f) }
  let s := s.each f.strips fun i s => s.sendMember .dealloc f.set f.gen f.stripe i f.row [] .background
  let s := if f.parity.isEmpty then
      s.startJob f.set f.gen f.stripe f.row ((List.range (s.geomOf f.set f.gen).k).filter fun i => !f.strips.contains i) .lostParity
    else s.writeLostParity f f.parity
  (s.tryEndStep f.set f.stripe).unlockStripe f.set f.stripe

/-- Settle every lost row whose entries are durable. -/
def State.settleLost (s : State) : State := s.each (s.store.lostFixes.filter s.fixReady) fun f s => s.settleFix f

/-! Promenade copies (R261). -/

def State.onMove (s : State) (nsid ext : Nat) (f : ExtentMove → ExtentMove) : State :=
  s.onStore fun x => { x with moves := x.moves.map fun m => if m.nsid == nsid && m.ext == ext then f m else m }

/-- The blocks of an extent as units: 262,144 data blocks, then 128 tag blocks. The units of stripe `j` of an extent. -/
def Geom.unitsOf (g : Geom) (j : Nat) : List Nat :=
  if j < g.e then ((List.range (8 * g.k)).map (j * (8 * g.k) + ·)).filter (· < 262144)
  else (((List.range (8 * g.k)).map ((j - g.e) * (8 * g.k) + ·)).filter (· < 128)).map (262144 + ·)

/-- Where unit `n` of set extent `x` lies. -/
def Geom.unitPlace (g : Geom) (x n : Nat) : BlockPlace := if n < 262144 then g.blockPlace x n else g.tagPlace x ((n - 262144) * 2048)

/-- The unit at strip `i`, row `r` of a stripe. -/
def Geom.unitAt (g : Geom) (stripe i r : Nat) : Nat :=
  let j := stripe % g.perExtent
  if j < g.e then j * (8 * g.k) + i * 8 + r else 262144 + (j - g.e) * (8 * g.k) + i * 8 + r

/-- A write of a Promenade copy. -/
def State.promWrite (s : State) (m : ExtentMove) (kind : OpKind) (stripe strip row : Nat) (content : Bytes) : State :=
  let gen := s.rd (QDL_GEN.GEN_NEXT m.set)
  match s.holder m.set gen stripe strip with
  | none => s
  | some u => (s.onMove m.nsid m.ext fun m => { m with writes := m.writes + 1 }).sendStripTo kind u m.set gen stripe strip row content
      (.promenade m.nsid m.ext)

/-- Write a destination stripe from the source blocks that have come: a full-stripe write with its parity, or a
deallocated stripe where every source stripe is deallocated. -/
def State.writeDestination (s : State) (m : ExtentMove) (j : Nat) : State :=
  let g := s.geomNext m.set
  let gen := s.rd (QDL_GEN.GEN_NEXT m.set)
  let stripe := m.dest * g.perExtent + j
  let block := fun i r => (m.blocks.find? (·.1 == g.unitAt stripe i r)).bind (·.2)
  let s := s.writeMapBit m.set gen stripe (!m.blocks.isEmpty)
  (s.each (List.range 8) fun r s =>
    let s := s.each (List.range g.k) fun i s =>
      match block i r with
      | some d => s.promWrite m .write stripe i r d
      | none => s.promWrite m .dealloc stripe i r []
    s.each (List.range g.m) fun p s =>
      if m.blocks.isEmpty then s.promWrite m .dealloc stripe (g.k + p) r []
      else s.promWrite m .write stripe (g.k + p) r (parityOf p 4096 ((List.range g.k).map fun i => (block i r).getD zeroBlock))).count
    RBD_PROM_STRIPES.addr

/-- Read the source blocks of the next destination stripe of a pass. -/
def State.copyNext (s : State) (nsid ext : Nat) : State :=
  match s.store.moves.find? fun m => m.nsid == nsid && m.ext == ext with
  | none => s
  | some m =>
    match m.toCopy with
    | [] => s
    | j :: rest =>
      let g := s.geom m.set
      let gen := s.rd (QDL_GEN.GEN m.set)
      let places := ((s.geomNext m.set).unitsOf j).map (g.unitPlace m.source)
      let rows := ((places.filter fun p => s.mapBit m.set gen p.stripe).map fun p => (p.stripe, p.row)).eraseDups
      let s := s.onMove nsid ext fun m => { m with toCopy := rest, copying := some j, blocks := [], jobs := rows.length }
      if rows.isEmpty then s.writeDestination { m with blocks := [] } j
      else s.each rows fun (st, r) s => s.startJob m.set gen st r
        ((places.filter fun p => p.stripe == st && p.row == r).map (·.strip)) (.promenade nsid ext)

/-- A source row of a Promenade copy has come back: a block that is bad is solved, one that is lost is left out. -/
def State.finishPromRow (s : State) (j : RowJob) (nsid ext : Nat) : State :=
  let g := s.geomOf j.set j.gen
  if !j.bad.isEmpty && (solveRow g.k g.m 4096 j.find).isNone && !(j.unread g).isEmpty then s.extendJob j (j.unread g) j.purpose else
  let s : State := match j.bad.isEmpty, solveRow g.k g.m 4096 j.find with
    | false, none => s.loseRow j.set j.gen j.stripe j.row 2 (j.missing g) (j.zeroParity g)
    | _, _ => s
  let data := (solveRow g.k g.m 4096 j.find).getD ((List.range g.k).map fun i => (j.find i).getD [])
  let have' := (List.range g.k).filter fun i => (j.find i).isSome || (j.bad.contains i && (solveRow g.k g.m 4096 j.find).isSome)
  let s := s.onMove nsid ext fun m => { m with
    jobs := m.jobs - 1
    blocks := m.blocks ++ have'.map fun i => (g.unitAt j.stripe i j.row, if j.empty.contains i then none else some (data.getD i [])) }
  match s.store.moves.find? fun m => m.nsid == nsid && m.ext == ext with
  | some m => if m.jobs = 0 then (match m.copying with | some d => s.writeDestination m d | none => s) else s
  | none => s

/-- The source stripes and blocks of an extent that is being moved are quiet: nothing held, open or under way in it. -/
def State.moveQuiet (s : State) (m : ExtentMove) : Bool :=
  let g := s.geom m.set
  let inExt := fun stripe => stripe / g.perExtent == m.source
  !(s.store.copies.any fun c => c.set == m.set && inExt c.stripe) && !(s.store.openStripes.any fun o => o.set == m.set && inExt o.stripe) &&
  !(s.host.commands.any fun c => c.nsid == m.nsid && c.stage != .slot && c.stage != .lock &&
      c.places.any fun p => p.any fun p => p.set == m.set && inExt p.stripe && !s.nextLayout m.set p.gen)

/-- The destination stripes that take blocks of a source stripe. -/
def State.destinationsOf (s : State) (set stripe : Nat) : List Nat :=
  let g := s.geom set
  let units := g.unitsOf (stripe % g.perExtent)
  (List.range (s.geomNext set).perExtent).filter fun j => ((s.geomNext set).unitsOf j).any units.contains

/-- Start the pass that copies a move's dirty stripes again. -/
def State.copyDirty (s : State) (m : ExtentMove) : State :=
  (s.onMove m.nsid m.ext fun m => { m with
    toCopy := (m.dirty.flatMap (s.destinationsOf m.set)).eraseDups
    dirty := [] }).copyNext m.nsid m.ext

/-- Table 9.6: in Catch-up the dirty stripes are copied once every accepted write has committed and its stripes closed. -/
def State.catchUpKick (s : State) : State :=
  s.each (s.store.moves.filter fun m => m.state == .catchUp && m.copying.isNone && m.toCopy.isEmpty && !m.dirty.isEmpty)
    fun m s => if s.moveQuiet m then s.copyDirty m else s

/-- Table 8.5: while the dirty ceiling leaves less than 2 MiB of room, the oldest open stripes close until it is free. -/
def State.closeForRoom (s : State) : State :=
  let room := s.rd VLT_CEIL.D - s.rd VLT_DIRTY.N
  let held := fun o : OpenStripe => (s.store.copies.filter fun c => c.set == o.set && c.stripe == o.stripe).length
  let closing := ((s.store.openStripes.filter (·.phase != .opened)).map held).foldl (· + ·) 0
  (s.store.openStripes.filter (·.phase == .opened)).foldl
    (fun (free, s) o => if free < 512 then (free + held o, s.closeStripe o.set o.stripe) else (free, s)) (room + closing, s) |>.2

/-! All purposes. -/

/-- A row whose every block asked for has come back, by its purpose. -/
def State.finishJob (s : State) (j : RowJob) : State :=
  let s := s.onStore fun x => { x with jobs := x.jobs.filter (·.id != j.id) }
  match j.purpose with
  | .closeReconstruct | .closeModify => s.finishCloseRow j
  | .degradedRead key idx strip => s.finishDegraded j key idx strip
  | .degradedTags nsid unit strip => s.finishDegradedTags j nsid unit strip
  | .rebuild | .repair | .scrub | .copyBack | .recovery => s.finishStepRow j
  | .promenade nsid ext => s.finishPromRow j nsid ext
  | .lostParity => s.writeLostParity ⟨j.set, j.stripe, j.gen, j.row, [], []⟩ (j.zeroParity (s.geomOf j.set j.gen))

/-- Finish the jobs that wait for nothing, one after another, until `fuel` runs out or none is left. -/
def State.runJobsFor (s : State) : Nat → State
  | 0 => s
  | n + 1 =>
    match s.store.jobs.find? (·.waiting.isEmpty) with
    | some j => (s.finishJob j).runJobsFor n
    | none => s

/-- What an open stripe may do now: post the blocks that waited for a host's read (R219), close where the writes that opened it
are all in (R217), retire where its members have all reported. -/
def State.goOn (s : State) (o : OpenStripe) : State :=
  ((s.postReady o.set o.stripe).closeIfThrough o.set o.stripe).tryRetire o.set o.stripe

/-- What follows at once from a command on the data path: jobs with nothing to wait for end, lost rows whose entries are
durable settle, held copies that found no journal slot join their stripes, open stripes go on, done write-through commands are
released, and walks go on. -/
def State.runJobs (s : State) : State :=
  let s := s.runJobsFor (4 * s.store.jobs.length + 8)
  let s := s.settleLost.accumulateWaiting
  let s := (s.closeForRoom.each s.store.openStripes fun o s => s.goOn o).catchUpKick
  ((s.runJobsFor (4 * s.store.jobs.length + 8)).releaseAllWriteThrough).advanceWalks

/-- A command on the data path. -/
def onData (s : State) (f : State → State) : Host.Outcome State Fault Refusal := onSoc s fun s => (f s).runJobs

end Sys2Proof.Machine
end

