-- ==== Sys2Proof/Machine/Members.lean ====
section
/-! DEFINITION. What members answer, and what a failed member leaves behind (R23, R213, R230, R233, R235, R247, R256, R354):
commands to members ending, journal blocks, the lost-block map, and the failing of a member. -/

set_option Elab.async false

namespace Sys2Proof.Machine

/-! The journal in the journal regions (R225–R227). -/

/-- A journal record as its 64 bytes (Table 8.7). -/
def JournalEntry.bytes (e : JournalEntry) : Bytes :=
  leBytes 8 e.seq ++ leBytes 8 e.meas ++ leBytes 8 e.stripe ++ leBytes 2 e.gen ++ leBytes 1 e.state ++ leBytes 1 e.set ++
  leBytes 2 e.dmask ++ leBytes 1 e.rmask ++ leBytes 1 e.flags ++ leBytes 8 (e.tstripes.getD 0 0) ++ leBytes 8 (e.tstripes.getD 1 0) ++
  leBytes 2 (e.tmasks.getD 0 0) ++ leBytes 2 (e.tmasks.getD 1 0) ++ leBytes 4 e.slot ++ leBytes 8 0

/-- A journal record read from its 64 bytes (Table 8.7). -/
def recordFrom (writer : Nat) (b : Bytes) : RecoveredRecord :=
  let flags := numAt b 31 1
  let keep := fun l : List Nat => (if bitOf flags 1 then l.take 1 else []) ++ if bitOf flags 2 then l.drop 1 else []
  { writer := writer
    slot := numAt b 52 4
    seq := numAt b 0 8
    meas := numAt b 8 8
    stripe := numAt b 16 8
    gen := numAt b 24 2
    state := numAt b 26 1
    dmask := numAt b 28 2
    rmask := numAt b 30 1
    flags := flags
    tstripes := keep [numAt b 32 8, numAt b 40 8]
    tmasks := keep [numAt b 48 2, numAt b 50 2] }

/-- R226: the IV head of the journal blocks of a set and writer (Table 16.4). -/
def journalHead (set writer : Nat) : Bytes := leBytes 1 2 ++ leBytes 1 set ++ leBytes 1 writer ++ leBytes 1 0

/-- R228: the set of a journal block read from a member and the records in it; none where its tag does not verify. -/
def State.journalIn (s : State) (b : Bytes) : Option (Nat × List RecoveredRecord) :=
  let set := numAt b 16 1
  let w := numAt b 18 1
  let iv := journalHead set w ++ (leBytes 8 (numAt b 0 8)).reverse
  let aad := b.take 32 ++ (b.drop 48).take 16
  let c := (b.drop 64).take 4032
  if Config.gcmTag (s.slotKey 1) iv aad c == (b.drop 32).take 16 then
    let text := Config.gcmEncrypt (s.slotKey 1) iv aad c
    some (set, (List.range (numAt b 17 1)).map fun n => recordFrom w ((text.drop (64 * n)).take 64))
  else none

/-- R228: the records of a set in the journal blocks read from its journal drives. -/
def State.journalOf (s : State) (set : Nat) (blocks : List Bytes) : List RecoveredRecord :=
  blocks.flatMap fun b => match s.journalIn b with
    | some (t, l) => if t == set then l else []
    | none => []

/-- R413, R417: what reading journal blocks leaves in the key store: each mismatch is counted and recorded, and the contexts'
high-waters and this module's BSEQ rise to the highest value found. -/
def State.noteJournal (s : State) (blocks : List Bytes) : State :=
  s.each blocks fun b s => match s.journalIn b with
    | none => s.tagMismatch 1
    | some (set, _) =>
      let w := numAt b 18 1
      let bseq := numAt b 0 8
      let s := s.raiseHighWater 1 (leNat (journalHead set w)) bseq
      if w = s.cfg.position then s.onStore fun x => { x with bseq := putPerSet x.bseq set (max (perSet x.bseq set) bseq) } else s

/-- A record is the newest of its slot. -/
def State.newestRecord (s : State) (e : JournalEntry) : Bool := s.store.journal.any fun d => d.slot == e.slot && d.seq == e.seq

/-- R227: the records the next block must carry forward: newest of their slots and not Retired, in the block it overwrites. -/
def State.carried (s : State) (set bseq : Nat) : List JournalEntry :=
  match s.store.jblocks.find? fun b => b.set == set && b.bseq + 8192 == bseq with
  | some b => b.records.filter fun e => e.state != 3 && s.newestRecord e
  | none => []

/-- R226: form the next journal block of a set from records and send it to the given members. -/
def State.writeJournalBlock (s : State) (set : Nat) (records : List JournalEntry) (members : List Nat) : State :=
  let bseq := perSet s.store.bseq set + 1
  let entries := s.carried set bseq ++ records
  let w := s.cfg.position
  let head := leBytes 8 bseq ++ leBytes 8 s.measure ++ leBytes 1 set ++ leBytes 1 entries.length ++ leBytes 1 w ++ leBytes 13 0
  match s.sealRecord 1 (journalHead set w) bseq (head ++ leBytes 16 0)
      (padTo 4032 (entries.flatMap (·.bytes))) with
  | none => s.refuseCounter
  | some (c, tag, s) =>
    let s := s.onStore fun x => { x with
      bseq := putPerSet x.bseq set bseq
      jblocks := ⟨set, bseq, entries⟩ :: x.jblocks.filter fun b => !(b.set == set && b.bseq + 8192 == bseq) }
    (s.each members fun u s => s.sendMemberAt .write set u (1024 + 8192 * w + bseq % 8192) (head ++ tag ++ leBytes 16 0 ++ c)
      (.journal bseq)).count QDL_JBLK_W.addr

/-- R226, R227: write records in consecutive journal blocks, each with what it must carry forward and as many of the records as
then fit, until all are written. -/
def State.writeJournalBlocks (s : State) (set : Nat) (members : List Nat) : Nat → List JournalEntry → State
  | 0, _ => s
  | fuel + 1, records =>
    let room := 63 - (s.carried set (perSet s.store.bseq set + 1)).length
    if records.isEmpty then s
    else (s.writeJournalBlock set (records.take room) members).writeJournalBlocks set members fuel (records.drop room)

/-- R225, R247: the members to which the journal blocks of a set go: its journal drives, and those that are being made ones. -/
def State.journalTargets (s : State) (set : Nat) : List Nat :=
  let made := (s.store.rehome.filter fun r => r.1 == set && !s.flag (QDL_MEM.FAILED set r.2.2)).map (·.2.2)
  s.journalDrives set ++ made.filter fun u => !(s.journalDrives set).contains u

/-- R225: a record may be written: in write-through mode at once, its Retired record too, in write-back mode in the measure after
its own. -/
def State.recordDue (s : State) (e : JournalEntry) : Bool :=
  e.meas < s.measure || s.store.openStripes.any (fun o => o.slot == e.slot && s.store.copies.any fun c =>
    c.set == o.set && c.stripe == o.stripe && !c.writeBack) ||
  (e.state == 3 && s.host.commands.any fun c => !c.writeBack && c.stripes.contains (e.set, e.stripe))

/-- R225, R227: write the next journal block of a set to its journal drives: what it must carry forward, then the records due. -/
def State.journalBlockWrite (s : State) (set : Nat) : State :=
  let bseq := perSet s.store.bseq set + 1
  let waiting := s.store.unwritten.filter fun e => e.set == set && s.recordDue e
  let due := waiting.take (63 - (s.carried set bseq).length)
  if waiting.isEmpty || (s.journalDrives set).isEmpty then s else
  (s.writeJournalBlock set due (s.journalTargets set)).onStore fun x => { x with unwritten := x.unwritten.filter fun e => !due.contains e }

/-- A journal block is on every region it was sent to: the newest records in it are persisted, stripes that waited for
them post, and Retired entries leave. -/
def State.journalBlockDone (s : State) (set bseq : Nat) : State :=
  if s.store.ops.any fun o => o.set == set && o.purpose == .journal bseq then s else
  match s.store.jblocks.find? fun b => b.set == set && b.bseq == bseq with
  | none => s
  | some b =>
    let mark := fun e : JournalEntry => if b.records.any (fun d => d.slot == e.slot && d.seq == e.seq) then { e with persisted := true } else e
    let s := s.onStore fun x => { x with journal := x.journal.map mark }
    (s.each s.store.openStripes fun o s => s.postReady o.set o.stripe).dropRetired

/-- R247: once every block sent to a re-homed journal drive is written, Ronhenko names the member with Vx set; until that takes
effect the drive goes on receiving what the others do. -/
def State.rehomeDone (s : State) (set member : Nat) : State :=
  match s.store.rehome.find? fun r => r.1 == set && r.2.2 == member with
  | none => s
  | some (_, x, _) =>
    if s.store.ops.any fun o => o.set == set && o.member == member && (match o.purpose with | .journal _ => true | _ => false) then s else
    let (v, j) := if x = 0 then (QDL_JDRV.V0 set, QDL_JDRV.J0 set) else if x = 1 then (QDL_JDRV.V1 set, QDL_JDRV.J1 set)
      else (QDL_JDRV.V2 set, QDL_JDRV.J2 set)
    (s.queueRwm j member).queueRwm v 1

/-- R247: the re-homing of a journal drive has ended at the boundary that put the drive in service; one whose member has failed
ends without it. -/
def State.endRehome (s : State) : State :=
  s.onStore fun y => { y with rehome := y.rehome.filter fun (set, _, u) =>
    !(s.journalDrives set).contains u && !s.flag (QDL_MEM.FAILED set u) }

/-! The lost-block map in the witness areas (R245). -/

def LostEntry.bytes (e : LostEntry) : Bytes :=
  leBytes 8 e.stripe ++ leBytes 8 e.lba ++ leBytes 8 e.meas ++ leBytes 4 e.nsid ++ leBytes 1 e.set ++ leBytes 1 e.strip ++
  leBytes 1 e.rmask ++ leBytes 1 e.cause

/-- An entry read from its 32 bytes (Table 9.2). It was made durable when its block was written. -/
def lostEntryFrom (b : Bytes) : LostEntry :=
  { set := numAt b 28 1
    stripe := numAt b 0 8
    strip := numAt b 29 1
    lba := numAt b 8 8
    nsid := numAt b 24 4
    meas := numAt b 16 8
    rmask := numAt b 30 1
    cause := numAt b 31 1
    durable := true
    own := false }

/-- R245: the IV head of the lost-map blocks of a writer (Table 16.4). -/
def lostHead (writer : Nat) : Bytes := leBytes 1 4 ++ leBytes 1 writer ++ leBytes 2 0

/-- R245: the MSEQ and the entries of a lost-map block read from a witness area; none where its tag does not verify. -/
def State.lostIn (s : State) (b : Bytes) : Option (Nat × List LostEntry) :=
  let mseq := numAt b 0 8
  let iv := lostHead (numAt b 18 1) ++ (leBytes 8 mseq).reverse
  let aad := b.take 32
  let c := (b.drop 64).take 4032
  if Config.gcmTag (s.slotKey 1) iv aad c == (b.drop 32).take 16 then
    let text := Config.gcmEncrypt (s.slotKey 1) iv aad c
    some (mseq, (List.range (min 126 (numAt b 16 2))).map fun n => lostEntryFrom ((text.drop (32 * n)).take 32))
  else none

/-- R413, R417: what reading lost-map blocks leaves: each mismatch is counted and recorded, the contexts' high-waters rise, and MSEQ
goes on from the highest whose tag verifies. -/
def State.noteLost (s : State) (blocks : List Bytes) : State :=
  s.each blocks fun b s => match s.lostIn b with
    | none => s.tagMismatch 1
    | some (mseq, _) =>
      (s.raiseHighWater 1 (leNat (lostHead (numAt b 18 1))) mseq).onStore fun x => { x with mseq := max x.mseq mseq }

/-- R245, R591: the entries of a set in the lost-map blocks read from a majority of witness areas, of each place the block with the
highest MSEQ. -/
def State.lostOf (s : State) (set : Nat) (blocks : List (Nat × Bytes)) : List LostEntry :=
  let good := blocks.filterMap fun (place, b) => (s.lostIn b).map fun (mseq, es) => (place, mseq, es)
  let newest := good.filter fun p => !(good.any fun q => q.1 == p.1 && Decidable.decide (p.2.1 < q.2.1))
  (newest.flatMap (·.2.2)).eraseDups.filter (·.set == set)

/-- R591: the lost blocks of a set that the module does not hold are entered again from the witness areas. -/
def State.restoreLost (s : State) (set : Nat) (blocks : List (Nat × Bytes)) : State :=
  let s := s.noteLost (blocks.map (·.2))
  let here := s.store.lost
  let found := (s.lostOf set blocks).filter fun e => !(here.any fun d => d.isAt e.set e.stripe e.strip)
  (s.onStore fun x => { x with lost := x.lost ++ found }).wr RBD_LOST.USED (here.length + found.length)
/-- The entries that a lost-map block carried are durable, as far as they still stand as written. -/
def State.entriesDurable (s : State) (keys : List (Nat × Nat × Nat × Nat)) : State :=
  let mark := fun e : LostEntry => if keys.contains (e.set, e.stripe, e.strip, e.rmask) then { e with durable := true } else e
  s.onStore fun x => { x with lost := x.lost.map mark }

/-- One witness has answered the write of a lost-map block. -/
def State.lostBlockDone (s : State) (mseq : Nat) (ok : Bool) : State :=
  match s.store.lostWrites.find? (·.mseq == mseq) with
  | none => s
  | some w =>
    let w := { w with written := w.written + (if ok then 1 else 0), outstanding := w.outstanding - 1 }
    let s := s.onStore fun x => { x with lostWrites := (x.lostWrites.map fun v => if v.mseq == mseq then w else v).filter (·.outstanding != 0) }
    if w.written = s.majority && ok then
      let theirs := s.store.lost.filter fun e => !e.own && w.entries.contains (e.set, e.stripe, e.strip, e.rmask)
      let s := s.entriesDurable w.entries
      match theirs.getLast? with
      | some e => s.emit (.message 2 (leBytes 1 11 ++ e.bytes))
      | none => s
    else s

/-! Failing a member (R233, R235, R247, R256, R265). -/

/-- Table 9.6, last row: copies of moves under way are discarded and their held writes released. -/
def State.discardMoves (s : State) (set : Nat) : State :=
  s.onStore fun x => { x with
    moves := x.moves.map fun m =>
      if m.set == set && (m.state == .copying || m.state == .catchUp || m.state == .armed) then
        { m with state := .waiting, toCopy := [], dirty := [], copying := none, blocks := [], jobs := 0, writes := 0 } else m
    jobs := x.jobs.filter fun j => !(j.set == set && (match j.purpose with | .promenade .. => true | _ => false))
    ops := x.ops.filter fun o => !(o.set == set && (match o.purpose with | .promenade .. => true | _ => false)) }

/-- R263: the writes that a move held try their locks again. -/
def State.releaseHeldWrites (s : State) : State :=
  s.each ((s.host.commands.filter (·.stage == .lock)).map (·.key)) fun k s => s.tryLock k

/-- A write that a failed member never completed counts as reported (R235, R354); other ends are as its purpose has. -/
def State.writeReported (s : State) (o : MemberOp) (ok : Bool) : State :=
  match o.purpose with
  | .copy _ | .parity => (s.postReady o.set o.stripe).tryRetire o.set o.stripe
  | .step => (s.onStep o.set o.stripe fun p => { p with writes := p.writes - 1 }).tryEndStep o.set o.stripe
  | .journal bseq => (s.journalBlockDone o.set bseq).rehomeDone o.set o.member
  | .lostMap mseq => s.lostBlockDone mseq ok
  | .promenade nsid ext =>
    let s := s.onMove nsid ext fun m => { m with writes := m.writes - 1 }
    match s.store.moves.find? fun m => m.nsid == nsid && m.ext == ext with
    | some m => if m.writes = 0 && m.jobs = 0 && m.copying.isSome then
        (s.onMove nsid ext fun m => { m with copying := none, blocks := [] }).copyNext nsid ext else s
    | none => s
  | _ => s

/-- A block that a read asked for is bad or cannot be had: the row job counts it bad, a host read is reconstructed. -/
def State.readBad (s : State) (o : MemberOp) : State :=
  match o.purpose with
  | .row id => s.onStore fun x => { x with jobs := x.jobs.map fun j => if j.id == id then
      { j with waiting := j.waiting.filter (· != o.strip), bad := o.strip :: j.bad } else j }
  | .host key idx => (s.promoteStripe o.set (s.pos o.set o.gen o.stripe)).startDegraded o.set o.gen o.stripe o.row (.degradedRead key idx o.strip) o.strip
  | .tagBlock nsid unit => (s.promoteStripe o.set (s.pos o.set o.gen o.stripe)).startDegraded o.set o.gen o.stripe o.row (.degradedTags nsid unit o.strip) o.strip
  | _ => s

def State.dropOp (s : State) (id : Nat) : State := s.onStore fun x => { x with ops := x.ops.filter (·.id != id) }

/-- R354: the fate of one command outstanding on a drive that is lost. -/
def State.opLost (s : State) (o : MemberOp) : State :=
  let s := s.dropOp o.id
  if o.kind == .read then s.readBad o else s.writeReported o false

/-- R354: the fate of every command outstanding on the drive in a slot. -/
def State.opsLost (s : State) (slot : Nat) : State := s.each (s.store.ops.filter (·.slot == slot)) fun o s => s.opLost o

/-- RBD_SSTAT.FAILED of a set. -/
def State.showFailed (s : State) (set : Nat) : State :=
  s.wr (RBD_SSTAT.FAILED set) (min 3 ((List.range 48).filter fun u => s.flag (QDL_MEM.FAILED set u)).length)

/-- R247: Ronhenko clears Vx of a journal drive that has failed. -/
def State.dropJournalDrive (s : State) (set u : Nat) : State :=
  ((s.when (s.flag (QDL_JDRV.V0 set) && s.rd (QDL_JDRV.J0 set) == u) (·.queueRwm (QDL_JDRV.V0 set) 0)).when
    (s.flag (QDL_JDRV.V1 set) && s.rd (QDL_JDRV.J1 set) == u) (·.queueRwm (QDL_JDRV.V1 set) 0)).when
    (s.flag (QDL_JDRV.V2 set) && s.rd (QDL_JDRV.J2 set) == u) (·.queueRwm (QDL_JDRV.V2 set) 0)

/-- R233: Ronhenko writes the substitution to the lowest spare column that is free. -/
def State.substitute (s : State) (set u : Nat) : State :=
  match (List.range (s.geom set).s).find? fun z => s.lastWritten (QDL_SUB.VALID set z) == 0 with
  | some z => ((s.queueRwm (QDL_SUB.MEMBER set z) u).queueRwm (QDL_SUB.STATE set z) 1).queueRwm (QDL_SUB.VALID set z) 1
  | none => s

/-- R256: a replacement fails during its copy back: the bits below the cursor clear, and the substitution rebuilds again. -/
def State.copyBackFails (s : State) (set u : Nat) : State :=
  if !s.store.copyBack.contains (set, u) then s else
  let s : State := match s.substitution set u (s.geom set).s with
    | some z => (s.queueRwm (QDL_SUB.STATE set z) 1).clearRebuildBits set z fun b => Decidable.decide (b < s.rd64 (RBD_CPOS.addr set))
    | none => s
  s.onStore fun x => { x with copyBack := x.copyBack.filter (· != (set, u)) }

/-- R233, R235, R220, R247, R256, R265: a member fails: FAILED sets, its outstanding commands meet their fate, but for an orderly
removal, where they run on (`keep`, R352); its open stripes close, and Ronhenko writes the substitution, or takes up again the
one that a copy back was to end. -/
def State.failMemberBut (s : State) (set u : Nat) (keep : Bool) : State :=
  if s.flag (QDL_MEM.FAILED set u) || !s.flag (QDL_MEM.VALID set u) then s else
  let again := s.store.copyBack.contains (set, u) && (s.substitution set u (s.geom set).s).isSome
  let s := s.onAdmin fun a => { a with ops := a.ops.map fun o => if o.slot == 8 && o.state == 1 then { o with failed := true } else o }
  let s := (s.wr (QDL_MEM.FAILED set u) 1).showFailed set
  let s := if keep then s else s.opsLost (s.slotOf set u)
  let s := ((s.copyBackFails set u).dropJournalDrive set u)
  let s := if again then s else s.substitute set u
  let s := ((s.discardMoves set).releaseHeldWrites).showRebuild set
  s.each (s.store.openStripes.filter fun o => o.set == set && s.stripeHolds set o.gen o.stripe u) fun o s => s.closeStripe o.set o.stripe

def State.failMember (s : State) (set u : Nat) : State := s.failMemberBut set u false

/-! Rows. -/

/-- R218, R223, R225, R336: a block in the shared buffer is posted to its member once its stripe allows it. -/
def execStripPost (set stripe : Nat) (s : State) : Host.Outcome State Fault Refusal := onData s fun s => s.postReady set stripe

/-- R23: a member reports a write. -/
def execMemberWriteComplete (op : Nat) (s : State) : Host.Outcome State Fault Refusal :=
  onData s fun s =>
    match s.store.ops.find? (·.id == op) with
    | some o => if o.kind == .read then s else (s.dropOp op).writeReported o true
    | none => s

/-- R213: whether a member block is bad, and the counter that says how; a block whose application tag is 0xFFFF is
deallocated and has no check. -/
def blockCheck (guardOk refOk : Bool) (appTag gen : Nat) : Option Nat :=
  if appTag = 0xFFFF then none else if !guardOk then some QDL_CHK_GUARD.addr else if !refOk then some QDL_CHK_REF.addr
  else if appTag ≠ gen then some QDL_CHK_GEN.addr else none

/-- R213, R229: a good block reaches what it was read for. -/
def State.readGood (s : State) (o : MemberOp) (content : Bytes) (empty : Bool) : State :=
  match o.purpose with
  | .row id => s.onStore fun x => { x with jobs := x.jobs.map fun j => if j.id == id then
      { j with waiting := j.waiting.filter (· != o.strip), got := (o.strip, if empty then zeroBlock else content) :: j.got,
               empty := if empty then o.strip :: j.empty else j.empty } else j }
  | .host key idx => s.deliver key idx (if empty then none else some content)
  | .tagBlock nsid unit => s.tagsRead nsid unit (if empty then none else some content)
  | _ => s

/-- R213, R230: a member returns a block with its checks' outcome: guard, reference tag, and the application tag it carries. -/
def execMemberReadComplete (op : Nat) (content : Bytes) (guardOk refOk : Bool) (appTag : Nat) (s : State) :
    Host.Outcome State Fault Refusal :=
  onData s fun s =>
    match s.store.ops.find? (·.id == op) with
    | none => s
    | some o =>
      if o.kind != .read then s else
      let s := (s.dropOp op).moved 2 o.slot false 4096
      match blockCheck guardOk refOk appTag o.gen with
      | some counter => (s.count counter).readBad o
      | none => s.readGood o content (appTag == 0xFFFF)

end Sys2Proof.Machine
end

