-- ==== Sys2Proof/Machine/Quadrille.lean ====
section
/-! DEFINITION. The figure memory, stripe closing and the stripe journal's commands (chapter Quadrille Layout). -/

set_option Elab.async false

namespace Sys2Proof.Machine

/-! Figure memory (R205, Table 8.12). -/

/-- A row as its 64 bytes (Table 8.2). -/
def FigRow.bytes (r : FigRow) : Bytes :=
  let head := (r.cols.map (leBytes 1)).flatten ++ leBytes 2 r.row ++ leBytes 2 r.gen ++ leBytes 1 r.n ++ leBytes 1 r.spare ++ leBytes 6 0
  head ++ leBytes 4 (Config.crc32c head).toNat

/-- A row from the 64 bytes in QDL_FIG_DATA. -/
def figRowOf (set : Nat) (bs : Bytes) : FigRow where
  set := set
  row := leNat ((bs.drop 48).take 2)
  cols := (bs.take 48).map (·.toNat)
  gen := leNat ((bs.drop 50).take 2)
  n := leNat ((bs.drop 52).take 1)
  spare := leNat ((bs.drop 53).take 1)

def putFigRow (l : List FigRow) (r : FigRow) : List FigRow := r :: l.filter fun q => !(q.set == r.set && q.row == r.row)

/-- The word written for a figure command. -/
def figWord (op set row : Nat) : Word := BitVec.ofNat 32 (op * 2 ^ 22 + set % 4 * 2 ^ 19 + row % 4096)

/-- R205: write DATA to a next-generation row: STATUS 0, or 1 a row that fails, 2 no such set, 3 no such row. -/
def State.figWrite (s : State) (set row : Nat) : State :=
  let g := s.geomNext set
  let bs := s.getWords (QDL_FIG_DATA.addr 0) 16
  let r := figRowOf set bs
  if !s.flag (QDL_GEOM_NEXT.VALID set) then s.wr QDL_FIG_CMD.STATUS 2
  else if g.f ≤ row then s.wr QDL_FIG_CMD.STATUS 3
  else if figRowAccepted r.cols r.row r.n r.spare row g && Config.crc32c (bs.take 60) == BitVec.ofNat 32 (leNat (bs.drop 60)) then
    (s.onStore fun x => { x with figNext := putFigRow x.figNext r }).wr QDL_FIG_CMD.STATUS 0
  else s.wr QDL_FIG_CMD.STATUS 1

/-- Read a row of a figure into DATA. -/
def State.figRead (s : State) (set row : Nat) (valid : Bool) (g : Geom) (fig : List FigRow) : State :=
  if !valid then s.wr QDL_FIG_CMD.STATUS 2
  else if g.f ≤ row then s.wr QDL_FIG_CMD.STATUS 3
  else
    let bs := match fig.find? fun r => r.set == set && r.row == row with | some r => r.bytes | none => List.replicate 64 0
    (s.setWords (QDL_FIG_DATA.addr 0) 16 bs).wr QDL_FIG_CMD.STATUS 0

def execFigWriteNext (who : Requester) (set row : Nat) (s : State) : Host.Outcome State Fault Refusal :=
  onSoc s fun s => s.commandWrite who QDL_FIG_CMD.addr (figWord 1 set row) fun s => s.figWrite (set % 4) (row % 4096)
def execFigReadActive (who : Requester) (set row : Nat) (s : State) : Host.Outcome State Fault Refusal :=
  onSoc s fun s => s.commandWrite who QDL_FIG_CMD.addr (figWord 2 set row) fun s =>
    s.figRead (set % 4) (row % 4096) (s.flag (QDL_GEOM.VALID (set % 4))) (s.geom (set % 4)) s.store.fig
def execFigReadNext (who : Requester) (set row : Nat) (s : State) : Host.Outcome State Fault Refusal :=
  onSoc s fun s => s.commandWrite who QDL_FIG_CMD.addr (figWord 3 set row) fun s =>
    s.figRead (set % 4) (row % 4096) (s.flag (QDL_GEOM_NEXT.VALID (set % 4))) (s.geomNext (set % 4)) s.store.figNext

/-! Closing (R220, R221). -/

/-- R220, R478: the Caller's destage work closes an idle open stripe in a phrase that grants it. -/
def execStripeClose (set stripe : Nat) (s : State) : Host.Outcome State Fault Refusal :=
  onData s fun s =>
    match s.openStripe set stripe with
    | some o => if o.idle && s.granted 4 then s.closeStripe set stripe else s
    | none => s

/-- R220: no write for QDL_OPEN.IDLE measures hands an open stripe to the destage work. -/
def execStripeIdleTimeout (set stripe : Nat) (s : State) : Host.Outcome State Fault Refusal :=
  onSoc s fun s => s.onStripe set stripe fun o =>
    if o.phase == .opened && s.rd QDL_OPEN.IDLE ≤ s.measure - o.lastWrite then { o with idle := true } else o

/-! The journal (R225–R228). -/

def execJournalBlockWrite (set : Nat) (s : State) : Host.Outcome State Fault Refusal := onData s fun s => s.journalBlockWrite set

/-- A recovered record as a journal entry of this module. -/
def entryOf (set : Nat) (r : RecoveredRecord) : JournalEntry :=
  ⟨r.slot, r.seq, r.meas, set, r.stripe, r.gen, r.state, r.dmask, r.rmask, r.flags, r.tstripes, r.tmasks, true⟩

/-- R228: for each writer and slot, the record with the highest SEQ. -/
def newestRecords : List RecoveredRecord → List RecoveredRecord
  | [] => []
  | r :: rs =>
    let l := newestRecords rs
    if l.any fun q => q.writer == r.writer && q.slot == r.slot && r.seq ≤ q.seq then l
    else r :: l.filter fun q => !(q.writer == r.writer && q.slot == r.slot)

/-- The rows of a mask. -/
def maskRows (m : Nat) : List Nat := (List.range 8).filter (bitOf m)

/-- Table 8.9: the stripe of a live record, and its tag stripes, have their rows' parity formed from the data again. -/
def State.recoverEntry (s : State) (e : JournalEntry) : State :=
  let s := s.startStep e.set e.gen e.stripe .recovery (maskRows e.rmask)
  s.each e.tstripes fun st s => if (s.step? e.set st).isSome then s else s.startStep e.set e.gen st .recovery (List.range 8)

/-- R228: an entry is finished from its held copies: its stripe opens again under it, its blocks are posted again, and it
closes. An entry with no held copy left has its parity formed from the data. -/
def State.finishEntry (s : State) (e : JournalEntry) : State :=
  let mine := s.store.copies.filter fun c => c.set == e.set && c.stripe == e.stripe && !c.reported
  match mine with
  | [] => s.recoverEntry e
  | c :: _ =>
    let s : State := match s.openStripe e.set e.stripe with
      | some _ => s
      | none => s.onStore fun x => { x with
        nextOpen := x.nextOpen + 1
        openStripes := x.openStripes ++ [⟨e.set, e.stripe, c.group, c.nsid, e.gen, x.nextOpen, e.slot, bitOf e.flags 0, .opened,
          s.measure, [], [], [], false, false, false, []⟩] }
    let again := fun c : HeldCopy => if c.set == e.set && c.stripe == e.stripe && !c.reported then
      { c with posted := false, accumulated := false } else c
    let s := s.onStore fun x => { x with copies := x.copies.map again }
    (s.each (s.store.copies.filter fun c => c.set == e.set && c.stripe == e.stripe && !c.reported) fun c s => s.accumulate c).closeStripe
      e.set e.stripe

end Sys2Proof.Machine
end

