-- ==== Sys2Proof/Machine/Rebuild.lean ====
section
/-! DEFINITION. Rebuild, copy back, repair, scrub, lost blocks and journal re-homing (chapter Rebuild and Promenade). -/

set_option Elab.async false

namespace Sys2Proof.Machine

/-! Whose work a stripe is (R207, R241). -/

/-- The group of the namespace that owns a stripe of a layout, if one does. -/
def State.stripeGroup (s : State) (set gen stripe : Nat) : Option Nat :=
  let x := stripe / (s.geomOf set gen).perExtent
  let moving := s.rd (RBD_SSTAT.PROM set) == 1
  (s.host.namespaces.find? fun ns => ns.set == set && !ns.deleted && ns.extents.zipIdx.any fun (y, e) =>
    y == x && (!moving || s.layoutBit ns.nsid e == s.nextLayout set gen)).map (·.group)

/-- R207: the group of a deleted namespace whose extent waits for deallocation. -/
def State.deletedGroup (s : State) (set gen stripe : Nat) : Option Nat :=
  (s.store.deletedExtents.find? fun d => d.set == set && d.next == s.nextLayout set gen &&
    d.ext == stripe / (s.geomOf set gen).perExtent).map (·.group)

/-- R207: whether this module takes the steps on a stripe: the group's lead, and for an extent of no group the module at
position 0, or the module at position 1 while the other does not run. -/
def State.stripeMine (s : State) (set gen stripe : Nat) : Bool :=
  match s.stripeGroup set gen stripe, s.deletedGroup set gen stripe with
  | some g, _ => s.leads g
  | none, some g => s.leads g
  | none, none => s.cfg.position == 0 || !s.link.peerSeated

/-- R207: deallocate a stripe that is never solved: every strip and spare location; its map bit clears, which sets its
rebuild bits. -/
def State.deallocStripe (s : State) (set gen stripe : Nat) : State :=
  let g := s.geomOf set gen
  let s := s.each (List.range g.w) fun i s => s.each (List.range 8) fun j s => s.sendMember .dealloc set gen stripe i j [] .background
  let s := s.each (s.spareTargets set gen stripe) fun (i, u) s => s.each (List.range 8) fun j s =>
    s.sendStripTo .dealloc u set gen stripe i j [] .background
  let s := s.setMapBit set gen stripe false
  (s.setRebuilt set (s.pos set gen stripe)).showRebuild set

/-- Start a step on a stripe, or deallocate a stripe that belongs to no namespace (R207). -/
def State.stepOn (s : State) (set gen stripe : Nat) (why : RowPurpose) (rows : List Nat) : State :=
  if (s.step? set stripe).isSome then s
  else if (s.stripeGroup set gen stripe).isNone then s.deallocStripe set gen stripe
  else s.startStep set gen stripe why rows

/-! Rebuild (R237–R241). -/

/-- A counted position with a clear bit and no step under way. -/
def State.rebuildDue (s : State) (set p : Nat) : Bool :=
  let q := s.stripeAt set p
  (s.step? set q.2).isNone && s.stripeMine set q.1 q.2 && (s.rebuildingAt set p).any fun r => !s.rebuildBit set r.1 p

/-- Table 9.1: the position of the next stripe to rebuild: class A by rising stripe, then class B in the promotion list's order,
then the rest by rising stripe. -/
def State.nextRebuild (s : State) (set : Nat) : Option Nat :=
  let due := ((s.store.counted.filter fun p => p.1 == set && s.rebuildDue set p.2)).map (·.2)
  match leastOf (due.filter (s.isClassA set)) with
  | some st => some st
  | none =>
    match s.store.promoted.find? fun p => p.1 == set && due.contains p.2 with
    | some p => some p.2
    | none => leastOf due

/-- R237, R241: a rebuild step on the next stripe, in a phrase that grants the job; a stripe whose map bit is clear needs
no step (R238). -/
def execRebuildStep (set : Nat) (s : State) : Host.Outcome State Fault Refusal :=
  onData s fun s =>
    if !s.granted 3 || s.energy.mapWait then s else
    match s.nextRebuild set with
    | some p => s.stepOn set (s.stripeAt set p).1 (s.stripeAt set p).2 .rebuild (List.range 8)
    | none => s

/-- R241 step 5: every write of a rebuild step has reported: the stripe's bits set and it is unlocked; a substitution
whose stripes are all rebuilt reads rebuilt. -/
def execRebuildStepComplete (set stripe : Nat) (s : State) : Host.Outcome State Fault Refusal :=
  onData s fun s =>
    match s.step? set stripe with
    | none => s
    | some p =>
      if p.why != .rebuild || !p.started || !p.rowsLeft.isEmpty || p.writes ≠ 0 ||
         s.store.lostFixes.any (fun f => f.set == set && f.stripe == stripe) then s else
      let at' := s.pos set p.gen stripe
      let s := (s.setRebuilt set at').onStore fun x => { x with
        steps := x.steps.filter fun q => !(q.set == set && q.stripe == stripe)
        promoted := x.promoted.filter (· != (set, at')) }
      let s := ((s.count RBD_STRIPES.addr).unlockStripe set stripe).showRebuild set
      s.each (s.rebuilding set) fun (z, u) s =>
        if s.store.counted.all fun q => q.1 != set || !s.posHolds set q.2 z u || s.rebuildBit set z q.2 then
          s.queueRwm (QDL_SUB.STATE set z) 2
        else s

/-- The stripes of a set: of the active layout, and while a Promenade builds of the next. -/
def State.positions (s : State) (set : Nat) : Nat :=
  let gn := s.geomNext set
  (s.geom set).stripes (s.memberCapacity set) +
    if s.rd (RBD_SSTAT.PROM set) = 1 then gn.stripes (s.commonCapacity set gn.n) else 0

/-- R234, R238, R240: a substitution takes effect at a boundary, or rebuilds again after its copy back failed (`again`): a new one
has every rebuild bit clear; its stripes count in TOTAL (from 0 again when no other was rebuilding), and those whose map bit is
clear take their bits at once. -/
def State.beginSubstitution (s : State) (set z u : Nat) (again : Bool) : State :=
  let s := if again then s else s.clearRebuildBits set z fun _ => true
  let first := (s.rebuilding set).all fun p => p.1 == z
  let mine := ((List.range (s.positions set)).filter fun p => s.posHolds set p z u).map (set, ·)
  let s := s.onStore fun x =>
    let kept := if first then x.counted.filter (·.1 != set) else x.counted
    { x with
      counted := kept ++ mine.filter fun p => !kept.contains p
      promoted := if first then x.promoted.filter (·.1 != set) else x.promoted }
  (s.each mine fun p s => if s.mapBit set (s.stripeAt set p.2).1 (s.stripeAt set p.2).2 then s else s.skipRebuild set p.2).showRebuild set

/-- R233: the substitutions that a boundary made rebuilding begin: those that were not so in `old`. -/
def State.beginSubstitutions (s old : State) : State :=
  s.each (List.range 4) fun set s =>
    s.each ((s.rebuilding set).filter fun p => !(old.rebuilding set).contains p) fun (z, u) s =>
      s.beginSubstitution set z u (old.flag (QDL_SUB.VALID set z) && old.rd (QDL_SUB.MEMBER set z) == u)

/-- R233: QDL_MEMu.FAILED sets. -/
def execMemberFailed (set member : Nat) (s : State) : Host.Outcome State Fault Refusal := onData s fun s => s.failMember set member

/-! Lost blocks (R243, R245). -/

/-- R245: this module writes the lost-map region: the one at position 0 while it holds a lease, else the one at 1. -/
def State.writesLostMap (s : State) : Bool :=
  if s.cfg.position = 0 then s.rd LTK_STAT.LEAD != 0 else s.link.peerLeads == 0

/-- R245: a module that starts writing the region goes on from the highest MSEQ whose tag verifies among the blocks it read from
a majority of witness areas. -/
def State.startLostMap (s : State) (found : List Bytes) : State :=
  if s.store.lostWriter then s else (s.noteLost found).onStore fun x => { x with lostWriter := true }

/-- R245: write one block of the lost-map region, with the entries of its place, to every witness area in service. -/
def execLostMapWrite (block : Nat) (found : List Bytes) (s : State) : Host.Outcome State Fault Refusal :=
  onData s fun s =>
    let entries := (s.store.lost.drop (126 * block)).take 126
    if !s.writesLostMap || 512 ≤ block || s.witnesses.isEmpty then s else
    let s := s.startLostMap found
    let mseq := s.store.mseq + 1
    let w := s.cfg.position
    let head := leBytes 8 mseq ++ leBytes 8 s.measure ++ leBytes 2 entries.length ++ leBytes 1 w ++ leBytes 13 0
    match s.sealRecord 1 (lostHead w) mseq head (padTo 4032 (entries.flatMap (·.bytes))) with
    | none => s.refuseCounter
    | some (c, tag, s) =>
      let keys := entries.map fun e => (e.set, e.stripe, e.strip, e.rmask)
      let s := s.onStore fun x => { x with
        mseq := mseq
        lostWrites := x.lostWrites ++ [⟨mseq, keys, 0, s.witnesses.length⟩] }
      s.each s.witnesses fun (_, slot) s => s.sendSlot .write slot (64 + block) (head ++ tag ++ leBytes 16 0 ++ c) (.lostMap mseq)

/-- R245: the writer's channel-2 message: this module's entries up to the named one are on a majority of witness areas. -/
def execLostMapDurable (set stripe strip : Nat) (s : State) : Host.Outcome State Fault Refusal :=
  onData s fun s =>
    match s.store.lost.findIdx? fun e => e.own && e.isAt set stripe strip with
    | none => s
    | some n =>
      let lost := (s.store.lost.zipIdx).map fun (e, i) => if e.own && i ≤ n then { e with durable := true } else e
      s.onStore fun x => { x with lost := lost }

/-! A failed journal drive (R247). -/

/-- R247: the member that replaces a failed journal drive: the lowest-numbered that is no witness drive, else the
lowest-numbered, among those not failed, not journal drives and in a slot group of their own. -/
def State.journalCandidate (s : State) (set : Nat) : Option Nat :=
  let drives := s.journalDrives set
  let fit := (List.range (s.geom set).n).filter fun u => s.flag (QDL_MEM.VALID set u) && !s.flag (QDL_MEM.FAILED set u) &&
    !drives.contains u && !(drives.any fun d => s.slotOf set d / 4 == s.slotOf set u / 4)
  match fit.find? fun u => !(s.witnesses.any fun w => w.2 == s.slotOf set u) with
  | some u => some u
  | none => fit.head?

/-- R247: journal drive `drive` of the set is replaced: every live record of this module is written into its ring of the
chosen member's region, in consecutive ring blocks. -/
def execJournalRehome (set drive : Nat) (s : State) : Host.Outcome State Fault Refusal :=
  onData s fun s =>
    let v := if drive = 0 then s.flag (QDL_JDRV.V0 set) else if drive = 1 then s.flag (QDL_JDRV.V1 set) else s.flag (QDL_JDRV.V2 set)
    if v || 2 < drive || s.store.rehome.any fun r => r.1 == set && r.2.1 == drive then s else
    match s.journalCandidate set with
    | none => s
    | some u =>
      let live := s.store.journal.filter fun e => e.set == set && e.state != 3
      let s := s.onStore fun x => { x with rehome := x.rehome ++ [(set, drive, u)] }
      (s.writeJournalBlocks set [u] (8192 + live.length) live).rehomeDone set u

/-! Repair and scrub (R251–R253). -/

/-- R251: repair a bad block that a degraded read found, in the stripe at a position. -/
def execRepairStep (set at' strip row : Nat) (s : State) : Host.Outcome State Fault Refusal :=
  onData s fun s =>
    if s.flag RBD_CTL.REPAIR_EN && s.store.badFound.contains (set, at', strip, row) && s.stripeMine set (s.stripeAt set at').1 (s.stripeAt set at').2 &&
       (s.step? set (s.stripeAt set at').2).isNone then
      (s.onStore fun x => { x with badFound := x.badFound.filter (· != (set, at', strip, row)) }).stepOn set (s.stripeAt set at').1
        (s.stripeAt set at').2 .repair [row]
    else s

/-- R252, R207: the stripes that a pass has still to visit: from its position on, with their map bits set, this module's to scrub. -/
def State.scrubDue (s : State) (set stripe : Nat) : Bool :=
  let gen := s.rd (QDL_GEN.GEN set)
  Decidable.decide (s.rd64 (RBD_SPOS.addr set) ≤ stripe) && s.mapBit set gen stripe && s.stripeMine set gen stripe

/-- R252: scrub visits the stripes due in ascending order; one that is open or has a live journal entry is visited again later in
the pass. With none left the pass starts again. -/
def execScrubStep (set stripe : Nat) (s : State) : Host.Outcome State Fault Refusal :=
  onData s fun s =>
    let gen := s.rd (QDL_GEN.GEN set)
    if !s.flag RBD_CTL.SCRUB_EN || s.rd (RBD_SSTAT.STATE set) ≠ 0 || s.rd (RBD_SSTAT.PROM set) ≠ 0 || !s.granted 6 then s
    else
      let busy := (s.openStripe set stripe).isSome || s.store.journal.any fun e => e.set == set && e.stripe == stripe
      let again := s.store.revisit.contains (set, stripe)
      match (List.range ((s.geom set).stripes (s.memberCapacity set))).find? (s.scrubDue set) with
      | some next =>
        if again && !busy then (s.onStore fun x => { x with revisit := x.revisit.filter (· != (set, stripe)) }).stepOn set gen stripe .scrub (List.range 8)
        else if next ≠ stripe then s
        else if busy then (s.onStore fun x => { x with revisit := x.revisit ++ [(set, stripe)] }).setReg (RBD_SPOS.addr set) (BitVec.ofNat 64 (stripe + 1))
        else s.stepOn set gen stripe .scrub (List.range 8)
      | none =>
        if again && !busy then (s.onStore fun x => { x with revisit := x.revisit.filter (· != (set, stripe)) }).stepOn set gen stripe .scrub (List.range 8)
        else if s.store.revisit.any (·.1 == set) then s else s.setReg (RBD_SPOS.addr set) 0

/-! Replacement and copy back (R254–R256). -/

/-- R254: a replacement drive takes effect: FAILED clears and copy back begins at stripe 0. -/
def State.acceptReplacement (s : State) (set u : Nat) : State :=
  if !s.flag (QDL_MEM.FAILED set u) then s else
  (((((s.wr (QDL_MEM.FAILED set u) 0).setReg (RBD_CPOS.addr set) 0).onStore fun x => { x with
    copyBack := x.copyBack.filter (·.1 != set) ++ [(set, u)] }).showFailed set)).showRebuild set

def execReplacementAccept (set member : Nat) (s : State) : Host.Outcome State Fault Refusal :=
  onData s fun s =>
    let blocks := ((s.store.slotBlocks.find? (·.1 == s.slotOf set member)).map (·.2)).getD 0
    if s.rd (SLT_STAT.STATE (s.slotOf set member)) = 5 && s.memberCapacity set ≤ blocks then s.acceptReplacement set member else s

/-- R255: copy the next stripe that holds a strip of the replaced member, if it is this module's to write (R207); the peer's are
copied there, and its position comes in the state copy (Table 11.5). Past the last, Ronhenko frees the spare column, whose
locations all hold nothing then. -/
def execCopyBackStep (set : Nat) (s : State) : Host.Outcome State Fault Refusal :=
  onData s fun s =>
    match s.store.copyBack.find? (·.1 == set) with
    | none => s
    | some (_, u) =>
      if !s.granted 3 || s.energy.mapWait || s.store.steps.any fun p => p.set == set && p.why == .copyBack then s else
      match (List.range (s.positions set)).find? fun p => s.rd64 (RBD_CPOS.addr set) ≤ p &&
          s.stripeHolds set (s.stripeAt set p).1 (s.stripeAt set p).2 u with
      | some p =>
        let s := s.setReg (RBD_CPOS.addr set) (BitVec.ofNat 64 p)
        let q := s.stripeAt set p
        if !s.stripeMine set q.1 q.2 then s
        else if (s.stripeGroup set q.1 q.2).isNone then
          (s.stepOn set q.1 q.2 .copyBack (List.range 8)).setReg (RBD_CPOS.addr set) (BitVec.ofNat 64 (p + 1))
        else s.stepOn set q.1 q.2 .copyBack (List.range 8)
      | none =>
        let s := s.setReg (RBD_CPOS.addr set) (BitVec.ofNat 64 (s.positions set))
        let s : State := match s.substitution set u (s.geom set).s with
          | some z => ((s.queueRwm (QDL_SUB.VALID set z) 0).queueRwm (QDL_SUB.STATE set z) 0).clearRebuildBits set z fun _ => true
          | none => s
        (s.onStore fun x => { x with copyBack := x.copyBack.filter (· != (set, u)) }).showRebuild set

/-! Deleted namespaces (R207, R222). -/

/-- R222: nothing of a deleted extent is left: no map bit, no stripe open, no command at a member. -/
def State.extentGone (s : State) (set ext : Nat) : Bool :=
  let g := s.geom set
  let mine := fun st y : Nat => st == set && y / g.perExtent == ext
  !(s.store.ops.any fun o => mine o.set o.stripe) && !(s.store.openStripes.any fun o => mine o.set o.stripe) &&
  (List.range g.perExtent).all fun y => !s.mapBit set (s.rd (QDL_GEN.GEN set)) (ext * g.perExtent + y)

/-- The background work takes a stripe of a deleted namespace's extent; the extent is free once all of it is deallocated. -/
def execDeletedExtentDeallocate (set stripe : Nat) (s : State) : Host.Outcome State Fault Refusal :=
  onData s fun s =>
    match s.deletedGroup set (s.rd (QDL_GEN.GEN set)) stripe with
    | none => s
    | some group =>
      if !s.leads group || s.energy.mapWait || (s.step? set stripe).isSome || s.store.locked.contains (set, stripe) || (s.openStripe set stripe).isSome then s else
      let s := if s.mapBit set (s.rd (QDL_GEN.GEN set)) stripe then s.deallocStripe set (s.rd (QDL_GEN.GEN set)) stripe else s
      let ext := stripe / (s.geom set).perExtent
      if s.extentGone set ext then
        s.onStore fun x => { x with deletedExtents := x.deletedExtents.filter fun d => !(d.set == set && d.ext == ext && !d.next) }
      else s

end Sys2Proof.Machine
end

