-- ==== Sys2Proof/Machine/Promenade.lean ====
section
/-! DEFINITION. Promenade and the layout epochs (R257–R268): starting, planning, moving extents, the final epoch, and
making and deleting a set. -/

set_option Elab.async false

namespace Sys2Proof.Machine

/-! Conditions (R257, R268). -/

/-- R212: the generation after one. -/
def nextGeneration (g : Nat) : Nat := if g = 0xFFFE then 1 else g + 1

/-- Condition 2: the next geometry meets R200, with every member valid, and no smaller than the set. -/
def State.nextGeometryLegal (s : State) (set : Nat) : Bool :=
  let g := s.geomNext set
  g.legal (s.commonCapacity set g.n) && (s.geom set).n ≤ g.n && (List.range g.n).all fun u => s.flag (QDL_MEM.VALID set u)

/-- Condition 3: every row of the next figure is written and carries GEN_NEXT. -/
def State.nextFigureComplete (s : State) (set : Nat) : Bool :=
  (List.range (s.geomNext set).f).all fun r =>
    s.store.figNext.any fun q => q.set == set && q.row == r && q.gen == s.rd (QDL_GEN.GEN_NEXT set)

/-- Condition 4: GEN_NEXT follows GEN. -/
def State.nextGenerationFollows (s : State) (set : Nat) : Bool :=
  s.rd (QDL_GEN.GEN_NEXT set) == nextGeneration (s.rd (QDL_GEN.GEN set))

/-- No substitution of the set is valid, and no Promenade runs (condition 1). -/
def State.setFree (s : State) (set : Nat) : Bool :=
  !((List.range 4).any fun z => s.flag (QDL_SUB.VALID set z)) && s.rd (RBD_SSTAT.PROM set) == 0

/-- The word of a layout command. -/
def layoutWord (op set : Nat) : Word := BitVec.ofNat 32 (op * 2 ^ 22 + set % 4 * 2 ^ 19)

/-! The plan (R258, R259). -/

/-- The extents of a set that belong to namespaces: namespace, namespace extent, set extent. -/
def State.allocatedExtents (s : State) (set : Nat) : List (Nat × Nat × Nat) :=
  (s.host.namespaces.filter fun ns => ns.set == set && !ns.deleted).flatMap fun ns =>
    ns.extents.zipIdx.map fun (x, e) => (ns.nsid, e, x)

/-- Insert an extent so that the highest set extents come first. -/
def insertHighest (a : Nat × Nat × Nat) : List (Nat × Nat × Nat) → List (Nat × Nat × Nat)
  | [] => [a]
  | b :: bs => if b.2.2 < a.2.2 then a :: b :: bs else b :: insertHighest a bs

/-- R259: the greatest next extent below `y` that overlaps no extent in `blocking`. -/
def nextFreeExtent (g gn : Geom) (blocking : List Nat) : Nat → Option Nat
  | 0 => none
  | y + 1 =>
    if blocking.any fun x => rangesOverlap (gn.extentRange y) (g.extentRange x) then nextFreeExtent g gn blocking y else some y

/-- R259: destinations for the extents, highest first; `held` are deleted extents still to be deallocated. -/
def planMoves (g gn : Geom) (set : Nat) (held : List Nat) : Nat → List (Nat × Nat × Nat) → Option (List ExtentMove)
  | _, [] => some []
  | y, a :: rest =>
    match nextFreeExtent g gn (a.2.2 :: rest.map (·.2.2) ++ held) y with
    | none => none
    | some d =>
      match planMoves g gn set held d rest with
      | none => none
      | some l => some (⟨set, a.1, a.2.1, a.2.2, d, .waiting, [], [], 0, none, [], 0, 0⟩ :: l)

/-- The plan of a set, or none where it does not complete. -/
def State.plan (s : State) (set : Nat) : Option (List ExtentMove) :=
  let gn := s.geomNext set
  planMoves (s.geom set) gn set ((s.store.deletedExtents.filter (·.set == set)).map (·.ext))
    (gn.extents (s.commonCapacity set gn.n)) ((s.allocatedExtents set).foldl (fun l a => insertHighest a l) [])

/-- R257: start a Promenade: STATUS of the first condition that fails, else the plan is kept and PROM reads 1. -/
def State.promenadeStart (s : State) (set : Nat) : State :=
  if !s.setFree set then s.wr RBD_PCMD.STATUS 1
  else if !s.nextGeometryLegal set then s.wr RBD_PCMD.STATUS 2
  else if !s.nextFigureComplete set then s.wr RBD_PCMD.STATUS 3
  else if !s.nextGenerationFollows set then s.wr RBD_PCMD.STATUS 4
  else match s.plan set with
    | none => s.wr RBD_PCMD.STATUS 5
    | some l => (s.onStore fun x => { x with moves := x.moves ++ l }).wrs
        [(RBD_PCMD.STATUS, 0), (RBD_SSTAT.PROM set, 1), (RBD_PEXT_TOTAL.N set, l.length), (RBD_PEXT_DONE.N set, 0)]

def execPromenadeStart (who : Requester) (set : Nat) (s : State) : Host.Outcome State Fault Refusal :=
  onSoc s fun s => s.commandWrite who RBD_PCMD.addr (layoutWord 1 set) fun s => s.promenadeStart (set % 4)

/-- R268: arm a layout epoch of a set for the current measure + 2. -/
def State.armLayoutEpoch (s : State) (set kind : Nat) : State :=
  s.onStore fun x => { x with epochs := x.epochs ++ [⟨set, kind, s.measure + 2⟩] }

/-- R268: create an empty set: conditions 2 to 4, and no set under this number (log 36). -/
def State.setCreate (s : State) (set : Nat) : State :=
  if s.rd (QDL_GEN.GEN set) ≠ 0 || s.store.epochs.any (·.set == set) then s.wr RBD_PCMD.STATUS 1
  else if !s.nextGeometryLegal set then s.wr RBD_PCMD.STATUS 2
  else if !s.nextFigureComplete set then s.wr RBD_PCMD.STATUS 3
  else if !s.nextGenerationFollows set then s.wr RBD_PCMD.STATUS 4
  else (s.armLayoutEpoch set 0).wr RBD_PCMD.STATUS 0

def execSetCreate (who : Requester) (set : Nat) (s : State) : Host.Outcome State Fault Refusal :=
  onSoc s fun s => s.commandWrite who RBD_PCMD.addr (layoutWord 2 set) fun s => s.setCreate (set % 4)

/-- R268: delete a set that holds no extent, through the same kind of epoch. -/
def State.setDelete (s : State) (set : Nat) : State :=
  if !s.flag (QDL_GEOM.VALID set) then s.wr RBD_PCMD.STATUS 2
  else if !(s.allocatedExtents set).isEmpty || s.store.deletedExtents.any (·.set == set) then s.wr RBD_PCMD.STATUS 6
  else if s.store.epochs.any (·.set == set) || s.rd (RBD_SSTAT.PROM set) ≠ 0 then s.wr RBD_PCMD.STATUS 1
  else (s.armLayoutEpoch set 1).wr RBD_PCMD.STATUS 0

def execSetDelete (who : Requester) (set : Nat) (s : State) : Host.Outcome State Fault Refusal :=
  onSoc s fun s => s.commandWrite who RBD_PCMD.addr (layoutWord 3 set) fun s => s.setDelete (set % 4)

/-! Moves (R260–R263). -/

def State.move (s : State) (nsid ext : Nat) : Option ExtentMove := s.store.moves.find? fun m => m.nsid == nsid && m.ext == ext

/-- R260: every old extent whose range overlaps the destination has reached Freed. -/
def State.destinationFree (s : State) (m : ExtentMove) : Bool :=
  !(s.store.moves.any fun n => n.set == m.set && n.state != .freed &&
      rangesOverlap ((s.geomNext m.set).extentRange m.dest) ((s.geom m.set).extentRange n.source))

/-- R261: the spare-column strips of a destination's slices, one block at a time: slice, spare column, strip row, row. -/
def State.deallocSpares (s : State) (m : ExtentMove) : State :=
  let g := s.geomNext m.set
  let first := m.dest * g.perExtent / g.t
  let last := (m.dest * g.perExtent + g.perExtent - 1) / g.t
  s.each ((List.range (last + 1 - first)).map (first + ·)) fun L s => s.each (List.range g.s) fun z s =>
    s.each (List.range (8 * g.h)) fun b s =>
      s.sendMemberAt .dealloc m.set (g.spareMember s.store.figNext m.set (L * g.t) z) (262144 + L * g.h * 8 + b) [] .background

/-- R260, R261: a waiting move starts copying: within PAR, with its destination free, while the Promenade job is granted
and no substitution rebuilds (R265). -/
def execPromenadeMoveStart (nsid ext : Nat) (s : State) : Host.Outcome State Fault Refusal :=
  onData s fun s =>
    match s.move nsid ext with
    | none => s
    | some m =>
      let busy := (s.store.moves.filter fun n => n.set == m.set && (n.state == .copying || n.state == .catchUp)).length
      if m.state == .waiting && !s.energy.mapWait && s.destinationFree m && busy < s.rd RBD_PROM.PAR && s.granted 7 && !s.walkRunsOn m.set && s.rd (RBD_SSTAT.STATE m.set) == 0 then
        ((s.onMove nsid ext fun m => { m with
          state := .copying
          toCopy := List.range (s.geomNext m.set).perExtent
          dirty := [] }).deallocSpares m).copyNext nsid ext
      else s

/-- A pass of a move has nothing left to copy and nothing outstanding. -/
def ExtentMove.passOver (m : ExtentMove) : Bool := m.toCopy.isEmpty && m.copying.isNone && m.jobs == 0 && m.writes == 0

/-- Table 9.6: a pass ends: the dirty stripes are copied again, or, with CATCH or fewer, new writes are held. -/
def execPromenadeCopyPassEnd (nsid ext : Nat) (s : State) : Host.Outcome State Fault Refusal :=
  onData s fun s =>
    match s.move nsid ext with
    | none => s
    | some m =>
      if m.state != .copying || !m.passOver || s.walkRunsOn m.set then s
      else if s.rd RBD_PROM.CATCH < m.dirty.length then s.copyDirty m
      else s.onMove nsid ext fun m => { m with state := .catchUp }

/-- Table 9.6: the last catch-up copy write has reported: a layout epoch is armed for the current measure + 2. -/
def execPromenadeCatchupDone (nsid ext : Nat) (s : State) : Host.Outcome State Fault Refusal :=
  onData s fun s =>
    match s.move nsid ext with
    | none => s
    | some m =>
      if m.state == .catchUp && m.passOver && m.dirty.isEmpty && s.moveQuiet m then
        s.onMove nsid ext fun m => { m with state := .armed, target := s.measure + 2 }
      else s

/-- A list with one place set. -/
def setPlace (l : List Nat) (i v : Nat) : List Nat := l.set i v

/-- R261: lost-map entries of an extent move to the destination's stripes. -/
def State.moveLost (s : State) (m : ExtentMove) : State :=
  let gn := s.geomNext m.set
  let mv := fun e : LostEntry =>
    if e.set == m.set && e.nsid == m.nsid && e.lba / 262144 == m.ext then
      let p := gn.blockPlace m.dest (e.lba % 262144)
      { e with stripe := p.stripe, strip := p.strip }
    else e
  s.onStore fun x => { x with lost := x.lost.map mv }

/-- Commands of a namespace that have not begun are translated again (R261: released in the next layout). -/
def State.retranslate (s : State) (nsid : Nat) : State :=
  match s.namespace nsid with
  | none => s
  | some ns =>
    let again := fun c : HostCmd => if c.nsid == nsid && (c.stage == .lock || c.stage == .slot) then
      { c with
        places := if c.kind == .dsm then (if c.deallocate then c.ranges.flatMap (s.placesOf ns) else []) else s.placesOf ns c.range
        srcPlaces := if c.kind == .copy then c.ranges.flatMap (s.placesOf ns) else [] } else c
    s.onHost fun h => { h with commands := h.commands.map again }

/-- R261: an armed layout epoch switches an extent: its map entry, its layout bit, its held writes. -/
def State.switchExtent (s : State) (m : ExtentMove) : State :=
  let s := (s.onMove m.nsid m.ext fun m => { m with state := .switched }).moveLost m
  let s := s.onNamespace m.nsid fun ns => { ns with extents := setPlace ns.extents m.ext m.dest }
  (s.retranslate m.nsid).releaseHeldWrites

/-- R261: no command translated in the old layout for the extent is left. -/
def State.oldLayoutQuiet (s : State) (m : ExtentMove) : Bool :=
  let g := s.geom m.set
  !(s.host.commands.any fun c => c.nsid == m.nsid && c.places.any fun p => p.any fun p =>
      p.set == m.set && p.gen == s.rd (QDL_GEN.GEN m.set) && p.stripe / g.perExtent == m.source)

/-- R261: free an extent's old range. -/
def execPromenadeOldRangeFree (nsid ext : Nat) (s : State) : Host.Outcome State Fault Refusal :=
  onData s fun s =>
    match s.move nsid ext with
    | none => s
    | some m =>
      if m.state == .switched && (s.oldLayoutQuiet m || s.rd (RBD_SSTAT.PROM m.set) == 2) then
        let s := s.onMove nsid ext fun m => { m with state := .freed }
        s.wr (RBD_PEXT_DONE.N m.set) (s.rd (RBD_PEXT_DONE.N m.set) + 1)
      else s

/-- R264: when every extent has reached Switched, arm the final layout epoch for the current measure + 2. -/
def execPromenadeFinalEpoch (set : Nat) (s : State) : Host.Outcome State Fault Refusal :=
  onSoc s fun s =>
    if s.rd (RBD_SSTAT.PROM set) = 1 && !(s.store.epochs.any (·.set == set)) &&
       (s.store.moves.filter (·.set == set)).all (fun m => m.state == .switched || m.state == .freed) then s.armLayoutEpoch set 2
    else s

/-- The derived registers of a set's active geometry (R200, R203, R206). -/
def State.showGeometry (s : State) (set : Nat) : State :=
  let g := s.geom set
  let blocks := s.memberCapacity set
  (s.wrs [(QDL_SLICES.SLICES set, g.slices blocks), (QDL_HT.T set, g.t), (QDL_HT.H set, g.h)]).setReg (QDL_CAP.addr set)
    (BitVec.ofNat 64 (g.capacity blocks))

/-- The next geometry, figure and generation of a set become active. -/
def State.activateLayout (s : State) (set : Nat) : State :=
  let cap := s.commonCapacity set (s.geomNext set).n
  let s := s.wrs [(QDL_GEOM.VALID set, 1), (QDL_GEOM.NMEM set, s.rd (QDL_GEOM_NEXT.NMEM set)),
    (QDL_GEOM.KDATA set, s.rd (QDL_GEOM_NEXT.KDATA set)), (QDL_GEOM.MPAR set, s.rd (QDL_GEOM_NEXT.MPAR set)),
    (QDL_GEOM.SPARE set, s.rd (QDL_GEOM_NEXT.SPARE set)), (QDL_GEOM.BLOCKS set, s.rd (QDL_GEOM_NEXT.BLOCKS set)),
    (QDL_GEN.GEN set, s.rd (QDL_GEN.GEN_NEXT set)), (QDL_GEN.GEN_NEXT set, 0)]
  (s.onStore fun x => { x with
    memberBlocks := putPerSet x.memberBlocks set cap
    fig := x.fig.filter (·.set != set) ++ x.figNext.filter (·.set == set)
    figNext := x.figNext.filter (·.set != set) }).showGeometry set

/-- R264: the old ranges that no new extent occupies are deallocated, block by block on every member. -/
def State.drainOldRanges (s : State) (set : Nat) (g gn : Geom) : State :=
  let moves := s.store.moves.filter (·.set == set)
  let new := ((s.allocatedExtents set).map (·.2.2) ++ moves.map (·.dest)).map gn.extentRange
  s.each moves fun m s =>
    let r := g.extentRange m.source
    s.each ((List.range (r.2 + 1 - r.1)).map (r.1 + ·)) fun b s =>
      if new.any fun n => n.1 ≤ b && b ≤ n.2 then s
      else s.each (List.range g.n) fun u s => s.sendMemberAt .dealloc set u b [] .background

/-- Positions of a set's stripes after the next layout has become the active one of `last` stripes (log 169). -/
def nextPositions (set last : Nat) (l : List (Nat × Nat)) : List (Nat × Nat) :=
  (l.filter fun p => p.1 != set || decide (last ≤ p.2)).map fun p => if p.1 == set then (p.1, p.2 - last) else p

/-- R264: the final epoch of a Promenade takes effect; what is kept per stripe position follows (log 169). -/
def State.finalEpoch (s : State) (set : Nat) : State :=
  let g := s.geom set
  let gn := s.geomNext set
  let last := g.stripes (s.memberCapacity set)
  let s := (s.activateLayout set).onStore fun x => { x with
    rebuilt := (x.rebuilt.filter fun r => r.1 != set || Decidable.decide (last ≤ r.2.2)).map fun r => if r.1 == set then (r.1, r.2.1, r.2.2 - last) else r
    counted := nextPositions set last x.counted
    promoted := nextPositions set last x.promoted
    badFound := (x.badFound.filter fun b => b.1 != set || Decidable.decide (last ≤ b.2.1)).map fun b => if b.1 == set then (b.1, b.2.1 - last, b.2.2) else b
    stripeMap := x.stripeMap.filter (·.1 != set) ++ x.stripeMapNext.filter (·.1 == set)
    stripeMapNext := x.stripeMapNext.filter (·.1 != set)
    mapAllSet := x.mapAllSet.filter (· != set)
    deletedExtents := (x.deletedExtents.filter fun d => d.set != set || d.next).map fun d =>
      if d.set == set then { d with next := false } else d }
  let s := s.setReg (RBD_CPOS.addr set) (BitVec.ofNat 64 (s.rd64 (RBD_CPOS.addr set) - last))
  ((s.wr (RBD_SSTAT.PROM set) 2).drainOldRanges set g gn).showRebuild set

/-- R264: every extent has reached Freed: the Promenade ends. -/
def execPromenadeDrainDone (set : Nat) (s : State) : Host.Outcome State Fault Refusal :=
  onSoc s fun s =>
    if s.rd (RBD_SSTAT.PROM set) = 2 && (s.store.moves.filter (·.set == set)).all (·.state == .freed) &&
       !(s.store.ops.any fun o => o.set == set && o.purpose == .background && o.kind == .dealloc) then
      (s.onStore fun x => { x with moves := x.moves.filter (·.set != set) }).wr (RBD_SSTAT.PROM set) 0
    else s

/-- R268: delete a set at its epoch: GEOM.VALID clears, its generation reads 0, and it is no longer assembled or failed. -/
def State.dropSet (s : State) (set : Nat) : State :=
  ((s.wrs [(QDL_GEOM.VALID set, 0), (QDL_GEN.GEN set, 0)]).onStore fun x => { x with
    fig := x.fig.filter (·.set != set)
    stripeMap := x.stripeMap.filter (·.1 != set)
    mapAllSet := x.mapAllSet.filter (· != set)
    assembled := x.assembled.filter (· != set)
    failedSets := x.failedSets.filter (· != set) })

/-- R268: create a set at its epoch: an empty layout that is assembled at once. -/
def State.makeSet (s : State) (set : Nat) : State :=
  (s.activateLayout set).onStore fun x => { x with
    stripeMap := x.stripeMap.filter (·.1 != set)
    mapAllSet := x.mapAllSet.filter (· != set)
    assembled := if x.assembled.contains set then x.assembled else set :: x.assembled }

/-- Step 5 of Table 2.6: the layout epochs whose target is the new measure, or one that a step of the clock passed over (R43).
They are armed here, so none can be Missed (Table 9.6). -/
def State.layoutEpochs (s : State) (n : Nat) : State :=
  let s := s.each (s.store.moves.filter fun m => m.state == .armed && m.target ≤ n) fun m s => s.switchExtent m
  s.each (s.store.epochs.filter (·.target ≤ n)) fun e s =>
    let s := s.onStore fun x => { x with epochs := x.epochs.filter (· != e) }
    if e.kind = 0 then s.makeSet e.set else if e.kind = 1 then s.dropSet e.set else s.finalEpoch e.set

end Sys2Proof.Machine
end

