-- ==== Sys2Proof/Machine/Protection.lean ====
section
/-! DEFINITION. Reading the protection set-up (R447–R451): objects in effect, who a host is, what a principal may do. -/

set_option Elab.async false

namespace Sys2Proof.Machine

/-- An object instance, if it was ever set. -/
def State.guarded (s : State) (object inst : Nat) : Option GuardedObject :=
  s.two.objects.find? fun o => o.object == object && o.inst == inst

/-- Its content in effect, from offset 4 of its body; empty when absent or removed (R448). -/
def State.content (s : State) (object inst : Nat) : Bytes := match s.guarded object inst with | some o => o.content | none => []

/-- R447: an instance's revision. -/
def State.revision (s : State) (object inst : Nat) : Nat := match s.guarded object inst with | some o => o.revision | none => 0

/-! Principals (Table 18.2). -/

def State.role (s : State) (p : Nat) : Nat := numAt (s.content 1 p) 0 1
def State.enabled (s : State) (p : Nat) : Bool := bitOf (numAt (s.content 1 p) 1 1) 0
def State.principalKey (s : State) (p : Nat) : Bytes := ((s.content 1 p).drop 4).take 32

/-- A principal that exists and is enabled. -/
def State.principalLive (s : State) (p : Nat) : Bool := !(s.content 1 p).isEmpty && s.enabled p

/-! Host access entries (Table 18.3) and masks. -/

/-- Entries of the two direct-port positions (R450). -/
def directEntry (position : Nat) : Nat := 4094 + position

/-- A zero-padded name, without its padding. -/
def trimZeros (bs : Bytes) : Bytes := (bs.reverse.dropWhile (· == 0)).reverse

/-- R450: whether an entry admits a host. -/
def admitsHost (content nqn : Bytes) (hostId : Nat) : Bool :=
  !content.isEmpty && !bitOf (numAt content 0 1) 1 && trimZeros (content.drop 84) == trimZeros nqn &&
  (numAt content 4 16 == 0 || numAt content 4 16 == hostId)

/-- The host access entries that let in a host: the instances. -/
def State.hostEntries (s : State) (nqn : Bytes) (hostId : Nat) : List Nat :=
  (s.two.objects.filter fun o => o.object == 2 && admitsHost o.content nqn hostId).map (·.inst)

/-- The entries that let in a controller's host: the direct-port controller has its position's own (R450). -/
def State.entriesOf (s : State) (c : Controller) : List Nat :=
  if c.direct then (if (s.content 2 (directEntry s.cfg.position)).isEmpty then [] else [directEntry s.cfg.position])
  else s.hostEntries c.hostNqn c.hostId

/-- R92: the namespace mask admits the controller's host. -/
def State.maskAdmits (s : State) (nsid : Nat) (c : Controller) : Bool :=
  (s.entriesOf c).any fun e => bitOf (numAt (s.content 3 nsid) (e / 8) 1) (e % 8)

/-- R92: it admits the host of a controller of the peer. -/
def State.maskAdmitsPeer (s : State) (nsid cntlid : Nat) : Bool :=
  match s.host.peerControllers.find? (·.1 == cntlid) with
  | none => false
  | some (_, nqn, hostId) =>
    (if cntlid % 0x1000 = 0 then [directEntry (1 - s.cfg.position)] else s.hostEntries nqn hostId).any fun e =>
      bitOf (numAt (s.content 3 nsid) (e / 8) 1) (e % 8)

/-- R119: the DH-HMAC-CHAP key of a host, if an entry that admits it holds one. -/
def State.chapKey (s : State) (nqn : Bytes) (hostId : Nat) : Option Bytes :=
  ((s.hostEntries nqn hostId).find? fun e => bitOf (numAt (s.content 2 e) 0 1) 0).map fun e =>
    ((s.content 2 e).drop 20).take (numAt (s.content 2 e) 2 1)

/-! The registers. -/

/-- R456, R459: TWO_STAT, the revision and the digest show the set-up. -/
def State.showSetup (s : State) : State :=
  let s := s.wrs [(TWO_STAT.CLAIMED, if s.two.claimed then 1 else 0), (TWO_STAT.ADOPT, if s.two.adopt then 1 else 0),
    (TWO_STAT.PRK, if s.keys.prk.isSome then 1 else 0),
    (TWO_STAT.OPEN, (s.two.proposals.filter fun p => p.state == .opened || p.state == .armed).length)]
  s.setReg TWO_REV.addr (BitVec.ofNat 64 (setupRevision s.two.objects))

/-- TWO_PERMp shows a partition's content. -/
def State.showPermissions (s : State) (p : Nat) : State := s.setWords (TWO_PERM.addr p 0) 9 (padTo 36 (s.content 4 p))

/-- R576: PMC_PENp takes bit 0 of GRANTS. -/
def State.loadPen (s : State) (p : Nat) : State := s.wr (PMC_PEN.PEN p) (s.permBits p 0 8 8)

/-- The state that a partition's clusters show (R507). -/
def State.partitionState (s : State) (p : Nat) : Nat :=
  match (List.range 8).find? fun c => s.rd (CLU_PSTAT.PART c) == p with
  | some c => s.rd (CLU_PSTAT.STATE c)
  | none => 0

/-- CLU_PSTAT and GUARD_ON show who holds each cluster (R504, R505), and the state of its partition. -/
def State.showPartitions (s : State) : State :=
  let states := (List.range 8).map s.partitionState
  s.each (List.range 8) fun c s =>
    match s.clusterOwner c with
    | some p => s.wrs [(CLU_PSTAT.PART c, p), (CLU_CTL.GUARD_ON c, 1), (CLU_PSTAT.STATE c, states.getD p 0)]
    | none => s.wrs [(CLU_PSTAT.PART c, 15), (CLU_CTL.GUARD_ON c, 0), (CLU_PSTAT.STATE c, 0)]

/-- The whole set-up in effect, as its registers show it after a reset (R447, R459). -/
def State.loadSetup (s : State) : State :=
  let s := s.showSetup.each (List.range 8) fun p s => s.showPermissions p
  let life := s.content 7 0
  (s.wr TWO_CFG.LIFE (if life.isEmpty then 600 else max 60 (min (numAt life 0 4) 86400))).showPartitions

end Sys2Proof.Machine
end

