-- ==== Sys2Proof/Machine/Reset.lean ====
section
/-! DEFINITION. Cold reset and module reset (R12, R36, R408, R446, R556, R560, R591): what each keeps. -/

set_option Elab.async false

namespace Sys2Proof.Machine

/-- The always-on register blocks, which a module reset leaves unchanged (R12): EFU_, NRG_ and WFL_. -/
def alwaysOnBlock (n : Nat) : Bool := n == 0x03 || n == 0x04 || n == 0x05

/-- A register cell that a module reset keeps: the always-on blocks and the latch record (R560). -/
def keptCell (c : RegCell) : Bool :=
  match blockNumber c.addr with
  | some n => alwaysOnBlock n || (FLT_LATCH.addr 0 ≤ c.addr && c.addr < FLT_LATCH.addr 16)
  | none => false

/-- A register cell that a cold reset keeps: the entry's configuration and record (R385, R400), the latch record, and what the last
capacity test stored in place of the factory values (R495, log 173). -/
def keptColdCell (c : RegCell) : Bool :=
  [EFU_CFG.addr, EFU_LAST.addr, NRG_EFULL.addr, NRG_LASTTEST.addr, WFL_CAP.addr, WFL_ESR.addr].contains c.addr || (FLT_LATCH.addr 0 ≤ c.addr && c.addr < FLT_LATCH.addr 16)

/-- R556: count a reset in the stored configuration. -/
def StoredConfig.nextBoot (c : StoredConfig) : StoredConfig := { c with boot := c.boot + 1 }

/-- The set configuration that the stored configuration holds (R549): the registers of QDL_ and the witness names. -/
def storedCell (c : RegCell) : Bool :=
  match blockNumber c.addr with
  | some n => n == 0x20 && 0x1000 ≤ blockOffset c.addr
  | none => false

/-- The parts of the host state that the stored configuration holds: namespaces and policies (R54, R549). -/
def Hosts.stored (h : Hosts) : Hosts := { Hosts.atReset with namespaces := h.namespaces, policies := h.policies }

/-- The parts of the layout state that the stored configuration holds (R205, R549), and what the journal regions of the members
hold: their blocks, whose SEQ and BSEQ go on from the last (R223, R226, R227). -/
def Store.stored (x : Store) : Store :=
  { Store.atReset with
    fig := x.fig
    figNext := x.figNext
    memberBlocks := x.memberBlocks
    slotBlocks := x.slotBlocks
    moves := x.moves
    jseq := x.jseq
    bseq := x.bseq
    jblocks := x.jblocks
    deletedExtents := x.deletedExtents }

/-- The vault's flash: images and the map mirror, and which of its pages were behind when the module was reset. -/
def Energy.flash (e : Energy) : Energy :=
  { Energy.atReset with images := e.images, mapMirror := e.mapMirror, stalePages := e.dirtyPages ++ e.stalePages }

/-- The key store's flash (R406): KEKs and the pair root key. -/
def Keys.flash (k : Keys) : Keys := { Keys.atReset with keks := k.keks, prk := k.prk }

/-- The link's own formats, serial number, what it knows of the peer's seat, and the EPOCH to send: it goes on from the end of
the reservation in flash (R414), which advances by 65,536 at a time. -/
def Link.kept (l : Link) : Link :=
  { Link.atReset with epochTx := (l.epochTx / 65536 + 1) * 65536, scfOwn := l.scfOwn, scfMin := l.scfMin, scfMax := l.scfMax, serial := l.serial, peerSeated := l.peerSeated }

/-- The image a slot stores. -/
def Admin.image (a : Admin) (slot : Nat) : Bytes := match getBy FirmwareImage.slot slot a.images with | some i => i.image | none => []

/-- R109: the record to resume from: the highest SEQ of some records. -/
def newestRecord (l : List ProgressRecord) : Option ProgressRecord :=
  l.foldl (fun acc r => match acc with
    | some a => if a.seq < r.seq then some r else some a
    | none => some r) none

/-- R104, R106, R109: an operation as the vault's records leave it at a reset: one that is not over waits to be resumed, a sanitize
that failed stays Failed, another that is over is none since the module started. -/
def Admin.waitingOp (a : Admin) (slot : Nat) : Option LongOp :=
  match newestRecord ((a.records.filter (·.1 == slot)).map (·.2)) with
  | none => none
  | some r =>
    if r.flags / 16 % 2 = 0 then some ⟨slot, 3, r, some r, [], [], none, false, r.flags / 8 % 2 == 1⟩
    else if slot = 8 ∧ r.flags / 8 % 2 = 1 then some ⟨slot, 5, r, some r, [], [], none, false, true⟩ else none

/-- R99, R100, R102, R104, R106, R108: what a reset leaves of the firmware and the long operations: the slots and records in
flash, and the leads to give back after a sanitize. An image still on trial gives way to the one before it; the image of a slot
marked by commit action 2 runs only if its signatures verify again. An image that did not run before runs on trial. -/
def Admin.restart (a : Admin) : Admin :=
  let want := if a.trial then a.previousSlot else a.nextSlot
  let good := !a.recheck || want == a.runningSlot || (Config.imageSigned (a.image want) && Config.imageLmsSigned (a.image want))
  let slot := if good then want else a.runningSlot
  { Admin.commissioned with
    ops := (List.range 9).filterMap a.waitingOp
    records := a.records
    images := a.images
    runningSlot := slot
    nextSlot := slot
    running := a.image slot
    minSvn := a.minSvn
    trial := !a.trial && a.image slot != a.running
    previousSlot := if a.trial then a.previousSlot else a.runningSlot
    leadsBefore := a.leadsBefore }

/-- R447, R455, R457: the set-up and its log are in flash; proposals are lost. -/
def TwoStep.flash (t : TwoStep) : TwoStep := { t with proposals := [], fromPeer := none }

/-- What both resets start from: the reset state with everything that outlives a reset. -/
def State.restart (s : State) (kept : RegCell → Bool) : State :=
  { State.reset with
    pending := s.pending
    out := s.out
    draws := s.draws
    regs := s.regs.filter kept
    cfg := { s.cfg.nextBoot with sets := s.regs.filter storedCell ++ s.cfg.sets.filter fun c => !(s.regs.any fun d => storedCell d && d.addr == c.addr) }
    flt := { Faults.atReset with latched := s.flt.latched }
    host := s.host.stored
    store := s.store.stored
    energy := s.energy.flash
    link := s.link.kept
    keys := s.keys.flash
    admin := s.admin.restart
    two := s.two.flash
    entry := s.entry }

/-- Registers that take their value from the stored configuration at a reset: MLEN (R36), MCP_CFG (R446), the count of
resets (R556), the latch's presence (R560). -/
def State.loadStored (s : State) : State :=
  let s := (s.wrs [(MEAS_CTL.MLEN, s.cfg.mlen), (FLT_BOOT.BOOT, s.cfg.boot)]).setReg MCP_CFG.addr s.cfg.mcpCfg
  let s := s.loadSetup
  let s := match s.keys.keks with
    | k :: _ => s.wr CIP_STAT.KEKGEN k.gen
    | [] => s
  if s.flt.latched.isSome then s.wr FLT_STAT.LATCHV 1 else s

/-- Table 14.8: after a reset both functions of the direct port are in Reset, and its pins are as they were; the port trains
again while DIR_PERST_N is high. A module reset leaves PME_En and PME_Status, a cold reset clears them (R382). -/
def State.restartDirect (s : State) (old : Direct) (keepPme : Bool) : State :=
  let s := s.onDirect fun d => { d with
    perstLow := old.perstLow
    cableIn := old.cableIn
    pmeEn := keepPme && old.pmeEn
    pmeStatus := keepPme && old.pmeStatus }
  let s := s.wrs [(DPT_STAT.PERST, if old.perstLow then 1 else 0), (DPT_STAT.CBL, if old.cableIn then 1 else 0)]
  if old.cableIn && !old.perstLow then s.emit (.direct .train) else s

/-- R347: what SLT_STAT shows of the power outputs that this module pulls low. -/
def State.showPulls (s : State) : State := s.each s.slots.pulled fun k s => s.wrs [(SLT_STAT.PWR_OWN k, 1), (SLT_STAT.PWR_NET k, 1)]

/-- R12: a module reset. Everything but the always-on domain returns to its reset value; the Wallflower and the power
entry stay as they are, and the store's level with them. A module that holds itself in reset goes on doing so (R29, R584). -/
def State.moduleReset (s : State) : State :=
  State.showPulls { ((s.restart keptCell).loadStored).restartDirect s.direct true with
    clock := { Clock.atReset with heldInReset := s.clock.heldInReset }
    slots := { Slots.atReset with pulled := s.slots.pulled }
    wall := s.wall
    energy := { s.energy.flash with level := s.energy.level, coverRun := s.energy.coverRun, testDue := s.energy.testDue } }

/-- R493, R397: the module reset that follows a power-fail decision re-arms it; a store left Off charges again (Table 10.4). -/
def State.rearmReset (s : State) : State :=
  let s := s.moduleReset.wr WFL_STAT.PFD 0
  let s := s.onWall fun w => { w with rules := w.rules.filter fun r => 2 ≤ r.rule }
  if s.rd NRG_STAT.STATE = 6 then s.wr NRG_STAT.STATE 1 else s

/-- R12: a cold reset: only the entry's record and configuration, the latch, the last capacity test, the flash and the stored
configuration stay. The store starts again from Empty and charges (Table 10.4); one that has failed stays Failed (R282). EFU_LAST is loaded from the record (R385). -/
def State.coldReset (s : State) : State :=
  let pulled := s.slots.pulled
  let failed := s.rd NRG_STAT.STATE == 5 || Decidable.decide (s.rd NRG_EFULL.MJ < 90000)
  let worn := Decidable.decide (s.rd NRG_EFULL.MJ < 240000)
  let s := (((s.restart keptColdCell).loadStored).restartDirect s.direct false).emits (pulled.map fun k => .pin (.slotPower k) true)
  s.wrs [(EFU_LAST.CAUSE, s.entry.cause), (EFU_LAST.IPEAK, s.entry.ipeak), (EFU_LAST.VIN, s.entry.vin), (NRG_STAT.STATE, if failed then 5 else 1),
    (NRG_STAT.HEALTH, if failed then 2 else if worn then 1 else 0)]

end Sys2Proof.Machine
end

