-- ==== Sys2Proof/Machine/Power.lean ====
section
/-! DEFINITION. The Caller's phrase decision, cluster levels, and the power domains' entry handshake (chapter The Caller and
Power States). -/

set_option Elab.async false

namespace Sys2Proof.Machine

/-! Levels (R460–R463). -/

/-- Load-side estimate of a level, mW (Table 19.1). -/
def levelMw (l : Nat) : Nat := [7750, 5800, 4600, 3150, 2050, 1500].getD l 1500
/-- Clock divisor of a level (Table 19.1). -/
def levelDivisor (l : Nat) : Nat := [6, 7, 8, 10, 13, 16].getD l 16

/-- R463: the level a cluster wants, from its utilisation and limits. -/
def wantLevel (util up down cur fastest : Nat) : Nat :=
  let down := if up ≤ down then up - 1 else down
  max fastest (if up < util then cur - 1 else if util < down then min 5 (cur + 1) else cur)

/-- A cluster's domain is Off (domains 64–71). -/
def State.clusterOff (s : State) (c : Nat) : Bool := s.domainState (64 + c) == 2

/-! Jobs (Table 19.4, R478). -/

def State.jobDemanded (s : State) (j : Nat) : Bool :=
  if j = 0 then true
  else if j = 1 then !s.store.badFound.isEmpty || !s.store.rehome.isEmpty || s.token.seeding.isSome || (List.range 4).any (fun set => s.flag (QDL_GEOM.VALID set) && (s.journalDrives set).length < 3)
  else bitOf (s.rd CAL_DEMAND.JOBS) (j - 2)

def State.anyClassA (s : State) : Bool := (List.range 4).any s.classA

def State.jobHeld (s : State) (j : Nat) : Bool := 2 ≤ j && bitOf (s.rd CAL_HOLD.JOBS) (j - 2) && !(j == 3 && s.anyClassA)

/-- R281: energy left after the test's discharge still covers the dirty data. -/
def State.testFits (s : State) : Bool :=
  ((s.rd NRG_EUSE.MJ - s.rd NRG_EFULL.MJ / 10 - 60000) * 10 ^ 9 / (3750 * 4096)) ≥ s.rd VLT_DIRTY.N

/-- A long-operation walk runs (R107). -/
def State.walkRuns (s : State) : Bool := s.admin.ops.any (·.state == 1)

/-- R281: a capacity test is due: asked for, or TEST_DAYS have passed since the last. -/
def State.testIsDue (s : State) : Bool :=
  s.energy.testDue || s.rd64 NRG_LASTTEST.addr + s.rd NRG_CFG.TEST_DAYS * 86400 ≤ s.now / 10 ^ 9

/-- R332: the standby self-test of a followed group is due. -/
def State.selfTestDue (s : State) : Bool :=
  s.token.groups.any fun t => s.link.following.contains t.group &&
    (t.testAsked || Decidable.decide (t.lastTest + s.rd LTK_TIMERS.STEST ≤ s.now / 10 ^ 9))

def State.jobEligible (s : State) (j : Nat) : Bool :=
  if j = 2 then s.selfTestDue
  else if j = 3 then (List.range 4).any fun set => !(s.rebuilding set).isEmpty || s.store.copyBack.any (·.1 == set)
  else if j = 4 then s.store.openStripes.any (·.idle)
  else if j = 5 then s.walkRuns
  else if j = 6 then s.flag RBD_CTL.SCRUB_EN
  else if j = 7 then (List.range 4).any fun set => s.rd (RBD_SSTAT.PROM set) != 0 && !s.walkRunsOn set
  else if j = 8 then s.rd NRG_STAT.STATE == 2 && s.testIsDue && s.testFits
  else true

/-- Input-side estimate of a job, mW, with a rebuild priority. -/
def State.jobMw (s : State) (rb j : Nat) : Nat :=
  if j = 0 then (if s.rd NRG_STAT.STATE = 1 then s.rd NRG_CFG.CHG_W * 1000 else 1000)
  else if j = 3 then (if rb = 2 then 12000 else if rb = 1 then 6000 else 2000)
  else [1000, 2000, 1000, 2000, 4000, 16000, 2000, 10000, 1000].getD j 0

/-- Ranks of Table 19.4, times two; DESTAGE ranks with 3 while a write waits for room. -/
def State.jobRank (s : State) (j : Nat) : Nat :=
  if j = 4 && s.flag VLT_STAT.WAITING then 5 else [2, 4, 6, 8, 10, 12, 14, 16, 18].getD j 0

/-! The decision (R477, R479), in 1/91 mW so that division by 0.91 is exact. -/

structure Plan where
  levels : List Nat
  jobs : List Nat
  rb : Nat
  deriving DecidableEq, Repr

/-- Estimate of a plan: the base, the clusters' levels through the converters, and the jobs. -/
def State.estimate (s : State) (base : Int) (p : Plan) : Int :=
  base + ((p.levels.zipIdx.map fun (l, c) => if s.clusterOff c then 0 else levelMw l * 100).foldl (· + ·) 0 : Nat) +
    ((p.jobs.map fun j => s.jobMw p.rb j * 91).foldl (· + ·) 0 : Nat)

/-- R479: the step-down pick: the cluster with the fastest level below `floor`, ties by the lower UTIL, then the higher
number. -/
def State.stepPick (s : State) (levels : List Nat) (floor : Nat) : Option Nat :=
  (levels.zipIdx.filter fun (l, _) => l < floor).foldl (fun best (l, c) =>
    match best with
    | none => some c
    | some b =>
      let lb := levels.getD b 5
      if l < lb || (l == lb && s.rd (CAL_CL.UTIL c) ≤ s.rd (CAL_CL.UTIL b)) then some c else some b) none

/-- Step clusters down while the estimate exceeds the budget and one is faster than `floor`. -/
def State.stepDown (s : State) (budget base : Int) (floor : Nat) : Nat → Plan → Plan
  | 0, p => p
  | n + 1, p =>
    if s.estimate base p ≤ budget then p else
    match s.stepPick p.levels floor with
    | some c => s.stepDown budget base floor n { p with levels := p.levels.set c (p.levels.getD c 5 + 1) }
    | none => p

/-- Reduce REBUILD by one: full, raised, background, not granted. -/
def Plan.reduce (p : Plan) : Plan := if p.rb = 0 then { p with jobs := p.jobs.filter (· != 3) } else { p with rb := p.rb - 1 }

/-- Drop jobs from the lowest rank while the estimate exceeds the budget. -/
def State.dropJobs (s : State) (budget base : Int) : Nat → Plan → Plan
  | 0, p => p
  | n + 1, p =>
    if s.estimate base p ≤ budget then p else
    let droppable := p.jobs.filter fun j => j != 0 && j != 1 && !(j == 3 && s.anyClassA)
    match droppable.foldl (fun best j => match best with
        | none => some j
        | some b => if s.jobRank b ≤ s.jobRank j then some j else some b) none with
    | some j => s.dropJobs budget base n (if j = 3 then p.reduce else { p with jobs := p.jobs.filter (· != j) })
    | none => p

/-- Reduce REBUILD towards background while the estimate exceeds the budget. -/
def State.reduceRebuild (s : State) (budget base : Int) : Nat → Plan → Plan
  | 0, p => p
  | n + 1, p => if s.estimate base p ≤ budget || p.rb = 0 then p else s.reduceRebuild budget base n { p with rb := p.rb - 1 }

/-- The thermal clamp of a fired Wallflower rule (Table 20.3, OP 0x04). -/
def State.thermalClamp (s : State) : Bool :=
  s.wall.inForce.any fun r => r.act % 256 == 4 && s.wall.rules.any fun q => q.rule == r.rule && q.fired

/-- R477: headroom, °C. -/
def State.headroom (s : State) (tj : Int) : Int := if s.thermalClamp then 0 else (s.rd CAL_THERM.LIMIT : Int) - tj

/-- R477: the budget, mW, and whether thermal reduction applies. -/
def State.budgetMw (s : State) (h : Int) : Int × Bool :=
  let b : Int := ((min (s.rd CAL_CFG.CAP_W) (s.rd CAL_BUDGET.SHELF_W) : Nat) : Int) * 1000 - s.rd CAL_CFG.MARGIN * 1000
  if h < s.rd CAL_THERM.WARN then (b - s.rd CAL_THERM.WPC * ((s.rd CAL_THERM.WARN : Int) - max h 0) * 1000, true) else (b, false)

/-- R479: the decision of a phrase, from PIN, TJMAX and the state. -/
def State.decidePhrase (s : State) (pin : Nat) (tj : Int) (tjDomain : Nat) : PhraseDecision :=
  let h := s.headroom tj
  let (mw, therm) := s.budgetMw h
  let budget := mw * 91
  let now : Plan := ⟨(List.range 8).map fun c => s.rd (CAL_CL.CUR c), (List.range 9).filter s.granted, s.rd CAL_GRANT.RBPRIO⟩
  let base := (pin : Int) * 91 - s.estimate 0 now
  let jobs := (List.range 9).filter fun j => s.jobDemanded j && !s.jobHeld j && s.jobEligible j
  let p : Plan := if h ≤ 0 then ⟨List.replicate 8 5, [0, 1] ++ (if s.anyClassA then [3] else []), 0⟩
    else ⟨(List.range 8).map fun c => s.rd (CAL_CL.WANT c), jobs, 2⟩
  let p := s.stepDown budget base (s.rd CAL_CFG.FLOOR) 40 p
  let p := s.dropJobs budget base 12 p
  let p := s.stepDown budget base 5 40 p
  let p := s.reduceRebuild budget base 2 p
  let est := s.estimate base p
  let pace := s.rd CAL_GRANT.PACE
  let pace' := if budget < est then min (pace + 1) 3 else if (pin : Int) ≤ mw - 10000 && 0 < pace then pace - 1 else pace
  ⟨p.levels, p.jobs.foldl (fun m j => m ||| 2 ^ j) 0, p.rb, pace', decide (budget < est) && pace' == 3, therm, (est / 91).toNat, pin,
    tj.toNat % 256 + (if tj < 0 then (256 + tj).toNat else 0), tjDomain⟩

/-- R463: each cluster's utilisation and wanted level. -/
def State.showWants (s : State) (utils : List Nat) : State :=
  s.each (List.range 8) fun c s =>
    let u := utils.getD c 0
    s.wrs [(CAL_CL.UTIL c, u),
      (CAL_CL.WANT c, wantLevel u (s.rd CAL_CFG.UP) (s.rd CAL_CFG.DOWN) (s.rd (CAL_CL.CUR c)) (s.rd (CAL_CL.MAX c)))]

/-- R476: at the start of measure 31 of a phrase the Caller computes its decision, once. -/
def execPhraseDecision (pinMw : Nat) (tj : Int) (tjDomain : Nat) (utils : List Nat) (s : State) : Host.Outcome State Fault Refusal :=
  onSoc s fun s =>
    if !s.gridRuns || s.measure % 32 ≠ 31 || s.power.pending.isSome then s else
    let s := s.showWants utils
    (s.onPower fun p => { p with pending := some (s.decidePhrase pinMw tj tjDomain) }).wr CAL_DEMAND.BASE
      ((if s.rd NRG_STAT.STATE = 1 then 1 else 0) + (if s.jobDemanded 1 then 2 else 0))

/-! Level changes (R461, R462). -/

/-- Start a cluster's change to a level: voltage first to raise, divisor first to lower; a voltage that failed on a lower
is asked for again. -/
def State.startLevel (s : State) (c lvl : Nat) : State :=
  let cur := s.rd (CAL_CL.CUR c)
  if s.flag (CAL_CL.HELD c) then s
  else if s.flag (CAL_CL.BUSY c) then s.onPower fun p => { p with deferred := putBy (·.1) (c, lvl) p.deferred }
  else if lvl < cur then
    ((s.wr (CAL_CL.BUSY c) 1).emit (.avs c (cur - 1))).onPower fun p => { p with
      changes := p.changes ++ [⟨c, cur - 1, true, s.now⟩]
      retry := p.retry.filter (· != c) }
  else if cur < lvl || s.power.retry.contains c then
    ((s.wrs [(CLK_DOM.DIV c, levelDivisor lvl), (CAL_CL.CUR c, lvl), (CAL_CL.BUSY c, 1)]).emit (.avs c lvl)).onPower fun p => { p with
      changes := p.changes ++ [⟨c, lvl, false, s.now⟩]
      retry := p.retry.filter (· != c) }
  else s

/-- R30, R463: a cluster takes a level with no regulator change: one that is Off, or powers up; its divisor follows. -/
def State.takeLevel (s : State) (c lvl : Nat) : State := s.wrs [(CLK_DOM.DIV c, levelDivisor lvl), (CAL_CL.CUR c, lvl)]

/-- R461: a decision that waited for a cluster's change is applied when the change ends. -/
def State.applyDeferred (s : State) (c : Nat) : State :=
  match s.power.deferred.find? (·.1 == c) with
  | some (_, lvl) => (s.onPower fun p => { p with deferred := p.deferred.filter (·.1 != c) }).startLevel c lvl
  | none => s

/-- A cluster's change ends. -/
def State.endChange (s : State) (c : Nat) : State :=
  (s.wr (CAL_CL.BUSY c) 0).onPower fun p => { p with changes := p.changes.filter (·.cluster != c) }

/-- R461: the regulator acknowledges a voltage request; a raise now takes its divisor. -/
def execAvsAck (cluster : Nat) (s : State) : Host.Outcome State Fault Refusal :=
  onSoc s fun s =>
    match s.power.changes.find? (·.cluster == cluster) with
    | none => s
    | some ch =>
      let s := if ch.raise then s.wrs [(CLK_DOM.DIV cluster, levelDivisor ch.target), (CAL_CL.CUR cluster, ch.target)] else s
      let s := (s.endChange cluster).onPower fun p => { p with avsFails := p.avsFails.filter (·.1 != cluster) }
      (s.count CAL_LVL_CHANGES.addr).applyDeferred cluster

/-- R462: a voltage request is not acknowledged within 50 µs. -/
def execAvsTimeout (cluster : Nat) (s : State) : Host.Outcome State Fault Refusal :=
  onSoc s fun s =>
    match s.power.changes.find? (·.cluster == cluster) with
    | none => s
    | some ch =>
      if s.now < ch.since + 50000 then s else
      let fails := perSet s.power.avsFails cluster + 1
      let s := ((s.endChange cluster).count CAL_AVS_FAIL.addr).onPower fun p => { p with
        avsFails := putPerSet p.avsFails cluster fails
        retry := if ch.raise then p.retry else p.retry ++ [cluster] }
      let s := s.wr (CAL_CL.AVSERR cluster) 1
      if 3 ≤ fails then (s.wrs [(CAL_CL.HELD cluster, 1), (CAL_STAT.HELDLVL, 1)]).plainFault 5 1 0x06 cluster
      else s.applyDeferred cluster

/-- Step 9 of Table 2.6 (R476, R481): the decision takes effect at the phrase boundary. -/
def State.applyDecision (s : State) : State :=
  match s.power.pending with
  | none => s
  | some d =>
    let wasShort := s.flag CAL_STAT.SHORT
    let wasPaced := s.rd CAL_GRANT.PACE != 0
    let s := s.onPower fun p => { p with pending := none }
    let s := s.wrs [(CAL_GRANT.RBPRIO, d.rbPrio), (CAL_GRANT.PACE, d.pace), (CAL_GRANT.JOBS, d.jobs), (CAL_PIN.MW, d.pin),
      (CAL_PEST.MW, d.estimateMw), (CAL_TJ.DOMAIN, d.tjDomain), (CAL_TJ.TJMAX, d.tj), (CAL_STAT.SHORT, if d.short then 1 else 0),
      (CAL_STAT.THERM, if d.therm then 1 else 0),
      (CAL_STAT.LIMITED, if (d.levels.zipIdx.any fun (l, c) => s.rd (CAL_CL.WANT c) < l) then 1 else 0)]
    let s := s.each (List.range 4) fun set s => s.wr (RBD_SSTAT.PRIO set) d.rbPrio
    let s := s.count CAL_DECISIONS.addr
    let s := if d.short then ((if wasShort then s else s.flagFault CAL_STAT.SHORT 5 1 0x06).count CAL_SHORT.addr).event 0x60 0 else s
    let s := if s.rd CAL_GRANT.PACE ≠ 0 then s.began wasPaced 0x61 0 else s
    s.each d.levels.zipIdx fun (l, c) s => if s.clusterOff c then s.takeLevel c l else s.startLevel c l

/-! Domains (R464–R472). -/

/-- Table 19.2, column Gated. -/
def mayGate (d : Nat) : Bool := d < 112 || d == 151

/-- Table 19.2: Ronhenko keeps at least one of its own cores On. -/
def State.coreMayOff (s : State) (d : Nat) : Bool :=
  (s.clusterOwner (d / 8)).isSome || (List.range 64).any fun e => e != d && (s.clusterOwner (e / 8)).isNone && s.domainState e == 0

/-- Table 19.2, Off while Active by idleness: cores, clusters with all eight cores off, engines while MINENG others stay On. -/
def State.mayIdleOff (s : State) (d : Nat) : Bool :=
  if d < 64 then s.coreMayOff d
  else if d < 72 then (List.range 8).all fun i => s.domainState (8 * (d - 64) + i) == 2
  else if 80 ≤ d ∧ d < 96 then s.rd PWR_CFG.MINENG ≤ (((List.range 16).map (80 + ·)).filter fun e => e != d && s.domainState e == 0).length
  else if 96 ≤ d ∧ d < 112 then s.rd PWR_CFG.MINENG ≤ (((List.range 16).map (96 + ·)).filter fun e => e != d && s.domainState e == 0).length
  else false

/-- R357: SLT_ states in which a slot's group may be powered off: Empty, Off, Refused. -/
def slotRests (st : Nat) : Bool := st == 0 || st == 6 || st == 8

/-- Table 19.2, Off while Active by PWR_CMD. What idleness may take off, a command may (DEDUCED, log 188). -/
def State.mayCommandOff (s : State) (d : Nat) : Bool :=
  if d < 112 then s.mayIdleOff d
  else if 112 ≤ d ∧ d < 116 then s.cfg.disabledPorts.contains (d - 112)
  else if 116 ≤ d ∧ d < 128 then (List.range 4).all fun i => slotRests (s.rd (SLT_STAT.STATE (4 * (d - 116) + i)))
  else if d = 128 then s.flag DPT_STAT.PERST
  else if d = 129 then !s.flag EZL_CTL.EN
  else false

/-- The registers of a domain's block take their reset values (R466). -/
def State.dropDomainRegs (s : State) (d : Nat) : State :=
  let mine := fun a => match blockNumber a with | some n => blockDomain n == some d | none => false
  (s.onRegs fun l => l.filter fun c => !mine c.addr).onRwm fun l => l.filter fun w => !mine w.addr

/-- GATED of the clock domains whose units the Caller gates: a cluster's while its domain is Gated, the parity and cipher
clocks while all their engines are (log 111). RUN of the domain stays 1 (DESIGN CHOICE, log 142). -/
def State.showClockGates (s : State) (d : Nat) : State :=
  let all := fun (lo n : Nat) => if (List.range n).all fun i => s.domainState (lo + i) == 1 then 1 else 0
  if 64 ≤ d && d < 72 then s.wr (CLK_DOM.GATED (d - 64)) (all d 1)
  else if 80 ≤ d && d < 96 then s.wr (CLK_DOM.GATED 11) (all 80 16)
  else if 96 ≤ d && d < 112 then s.wr (CLK_DOM.GATED 12) (all 96 16)
  else s

/-- Show a domain's state; a core's also in CLU_PSTAT.ON. -/
def State.setDomain (s : State) (d st : Nat) : State :=
  let s := s.wr (domainField d) st
  if d < 64 then s.wr ⟨CLU_PSTAT.addr (d / 8), d % 8, d % 8⟩ (if st = 0 then 1 else 0) else s.showClockGates d

/-- A domain powers off: nothing it held survives (R466), its caches written back first (R510). -/
def State.powerOffDomain (s : State) (d : Nat) : State :=
  let s := (((s.cachesOff d).setDomain d 2).count PWR_OFF_EVTS.addr).dropDomainRegs d
  s.onSlots fun x => { x with
    holds := x.holds.filter fun h => 116 + h.slot / 4 != d
    reports := x.reports.filter fun r => 116 + r.1 / 4 != d }

/-- A domain is On: from Off its registers start at their reset values. A cluster takes the level it wants (R463). -/
def State.powerOnDomain (s : State) (d : Nat) : State :=
  if s.domainState d = 0 then s
  else
    let s := if s.domainState d = 2 then (s.dropDomainRegs d).showPulls.showPartitions else s
    let s := if 64 ≤ d ∧ d < 72 then s.takeLevel (d - 64) (s.rd (CAL_CL.WANT (d - 64))) else s
    (s.setDomain d 0).onPower fun p => { p with entries := p.entries.filter (·.domain != d) }

/-- A refused entry: the domain keeps its state, and the refusal is shown (R468). -/
def State.entryRefused (s : State) (d back : Nat) (byCommand : Bool) : State :=
  let s := ((s.setDomain d back).wrs [(PWR_STAT.REFUSED, 1), (PWR_STAT.RDOM, d)]).count PWR_REFUSALS.addr
  let s := s.onPower fun p => { p with entries := p.entries.filter (·.domain != d) }
  if byCommand then s.wrs [(PWR_CMD.BUSY, 0), (PWR_CMD.STATUS, 1)] else s

/-- An accepted entry reaches its goal. -/
def State.entryAccepted (s : State) (d : Nat) (goal : EntryGoal) : State :=
  let s := s.onPower fun p => { p with entries := p.entries.filter (·.domain != d) }
  match goal with
  | .gated => (s.setDomain d 1).count PWR_GATE_EVTS.addr
  | .off => s.powerOffDomain d
  | .offByCommand => (s.powerOffDomain d).wrs [(PWR_CMD.BUSY, 0), (PWR_CMD.STATUS, 0)]

/-- R467, R468: a domain's answer in an entry that has had `delays` Delay answers. -/
def State.handshake (s : State) (d back : Nat) (goal : EntryGoal) (delays : Nat) (a : HandshakeAnswer) : State :=
  match a with
  | .accept => s.entryAccepted d goal
  | .refuse | .silent => s.entryRefused d back (goal == .offByCommand)
  | .delay n =>
    if n = 0 || 1000 < n || 8 ≤ delays then s.entryRefused d back (goal == .offByCommand)
    else
      let s := if goal == .offByCommand then s.wr PWR_CMD.BUSY 1 else s
      (s.setDomain d 3).onPower fun p => { p with
        entries := p.entries.filter (·.domain != d) ++ [⟨d, goal, delays + 1, back, s.now + 1000 * n⟩] }

/-- The NOIDLE bit of a domain. -/
def State.noIdle (s : State) (d : Nat) : Bool := bitOf (s.rd (PWR_NOIDLE.BITS (d / 32))) (d % 32)

/-- Table 19.3: an On domain idle for IDLE1_NS. -/
def execDomainIdleGate (domain : Nat) (answer : HandshakeAnswer) (s : State) : Host.Outcome State Fault Refusal :=
  onSoc s fun s =>
    if mayGate domain && s.domainState domain == 0 && !s.noIdle domain then s.handshake domain 0 .gated 0 answer else s

/-- Table 19.3: a Gated domain idle for IDLE2_US. -/
def execDomainIdleOff (domain : Nat) (answer : HandshakeAnswer) (s : State) : Host.Outcome State Fault Refusal :=
  onSoc s fun s =>
    if s.mayIdleOff domain && s.domainState domain == 1 && !s.noIdle domain then s.handshake domain 1 .off 0 answer else s

/-- R468: after a Delay the domain is asked again. -/
def execHandshakeDelayExpiry (domain : Nat) (answer : HandshakeAnswer) (s : State) : Host.Outcome State Fault Refusal :=
  onSoc s fun s =>
    match s.power.entries.find? (·.domain == domain) with
    | some e => if s.now < e.due then s else s.handshake domain e.back e.goal e.delays answer
    | none => s

/-- R469: work arrives for a Gated or Off domain. -/
def execDomainWake (domain : Nat) (s : State) : Host.Outcome State Fault Refusal :=
  onSoc s fun s => if domain < 155 && (s.domainState domain == 1 || s.domainState domain == 2) then s.powerOnDomain domain else s

/-- The word of a power command. -/
def pwrWord (op domain : Nat) : Word := BitVec.ofNat 32 (op * 2 ^ 16 + domain % 256)

/-- R472: PWR_CMD wake. -/
def execPwrWakeDomain (who : Requester) (domain : Nat) (s : State) : Host.Outcome State Fault Refusal :=
  onSoc s fun s => s.commandWrite who PWR_CMD.addr (pwrWord 1 domain) fun s =>
    if s.flag PWR_CMD.BUSY then s
    else if 155 ≤ domain then s.wr PWR_CMD.STATUS 3
    else (s.powerOnDomain domain).wr PWR_CMD.STATUS 0

/-- R467, Table 19.2: PWR_CMD power off. -/
def execPwrPowerOffDomain (who : Requester) (domain : Nat) (answer : HandshakeAnswer) (s : State) : Host.Outcome State Fault Refusal :=
  onSoc s fun s => s.commandWrite who PWR_CMD.addr (pwrWord 2 domain) fun s =>
    if s.flag PWR_CMD.BUSY then s
    else if !s.mayCommandOff domain then s.wr PWR_CMD.STATUS 3
    else if s.domainState domain = 2 then s.wr PWR_CMD.STATUS 0
    else s.handshake domain (s.domainState domain) .offByCommand 0 answer

end Sys2Proof.Machine
end

