-- ==== Sys2Proof/Machine/Shaper.lean ====
section
/-! DEFINITION. Token buckets of the queue pairs (R184), in thousandths of a bit: a rate of 1 Mb/s adds 1 in each
nanosecond. -/

set_option Elab.async false

namespace Sys2Proof.Machine

/-- The port and lane a queue pair sends on. -/
def State.qpPort (s : State) (qp : Nat) : Nat := s.ctx qp Ctx.LANE / 8

/-- NETp_QPS.BURST, as a level. -/
def State.fullBucket (s : State) (qp : Nat) : Int := 8000 * s.rd (NET_QPS.BURST (s.qpPort qp))

/-- The level of a bucket now: it fills at RATE up to BURST, and starts full. -/
def State.bucketLevel (s : State) (qp : Nat) : Int :=
  match getBy TokenBucket.qp qp s.gates.buckets with
  | some b => min (s.fullBucket qp) (b.level + s.ctx qp Ctx.RATE * (s.now - b.at_))
  | none => s.fullBucket qp

def State.setBucket (s : State) (qp : Nat) (level : Int) : State :=
  s.onGates fun g => { g with buckets := putBy TokenBucket.qp (TokenBucket.mk qp level s.now) g.buckets }

/-- Settle a bucket before its RATE changes. -/
def State.settleBucket (s : State) (qp : Nat) : State :=
  if s.gates.buckets.any (·.qp == qp) then s.setBucket qp (s.bucketLevel qp) else s

/-- R184: LIMITED is set on a queue pair that was not shaped: its bucket starts full. -/
def State.refillBucket (s : State) (qp : Nat) : State :=
  if s.ctx qp Ctx.LIMITED = 1 then s else s.onGates fun g => { g with buckets := dropBy TokenBucket.qp qp g.buckets }

/-- R184: a queue pair may start a frame. -/
def State.bucketPermits (s : State) (qp : Nat) : Bool := s.ctx qp Ctx.LIMITED != 1 || decide (0 < s.bucketLevel qp)

/-- Starting a frame takes its bytes. -/
def State.takeTokens (s : State) (qp bytes : Nat) : State :=
  if s.ctx qp Ctx.LIMITED = 1 then s.setBucket qp (s.bucketLevel qp - 8000 * bytes) else s

end Sys2Proof.Machine
end

