-- ==== Sys2Proof/Machine/Rdma.lean ====
section
/-! DEFINITION. RDMA transport rows: connections, inbound packets, READ responses, acknowledgements and retransmission, work
requests and waits, rate control, the context cache and QPC_CMD (chapter RDMA Transport). -/

set_option Elab.async false

namespace Sys2Proof.Machine

/-! Work requests (Table 5.10). -/

/-- A work request as it stands in a send ring. -/
structure WorkRequest where
  opcode : Nat
  wait : Bool
  signal : Bool
  fence : Bool
  wgen : Nat
  wqpn : Nat
  wcnt : Nat
  invKey : Nat
  laddr : Nat
  len : Nat
  rkey : Nat
  raddr : Nat
  wrId : Nat
  deriving DecidableEq, Repr

def State.workRequest (s : State) (idx n : Nat) : WorkRequest :=
  let a := s.ctx idx Ctx.SQ_BASE + 64 * n
  let f := s.loadNat (a + 1) 1
  ⟨s.loadNat a 1, bitOf f 0, bitOf f 1, bitOf f 2, s.loadNat (a + 2) 2, s.loadNat (a + 4) 3, s.loadNat (a + 8) 4,
   s.loadNat (a + 12) 4, s.loadNat (a + 16) 8, s.loadNat (a + 24) 4, s.loadNat (a + 28) 4, s.loadNat (a + 32) 8,
   s.loadNat (a + 40) 8⟩

/-- R146: the 16-byte completion record at the next slot of a service queue pair's completion ring, which has as many
slots as the send ring (DEDUCED, log 10). -/
def State.completionRecord (s : State) (idx wrId status opcode moved : Nat) : State :=
  let slot := perSet s.rdma.cqSlot idx
  let rec' := leBytes 8 wrId ++ leBytes 1 status ++ leBytes 1 opcode ++ leBytes 2 0 ++ leBytes 4 moved
  (s.storeBytes (s.ctx idx Ctx.CQ_BASE + 16 * slot) rec').onRdma fun r =>
    { r with cqSlot := putPerSet r.cqSlot idx ((slot + 1) % max 1 (s.ctx idx Ctx.SQ_SIZE)) }

/-- One work request completes: CCNT advances (R139), and a signalled one of a service queue pair writes its record. -/
def State.completeWork (s : State) (idx wrId status opcode moved : Nat) (signal : Bool) : State :=
  let s := s.countCtx idx Ctx.CCNT
  if signal && s.ctx idx Ctx.SVC == 1 then s.completionRecord idx wrId status opcode moved else s

/-- What a waiting work request finds (R143, R144). -/
inductive WaitResult where
  | go | wait | invalid
  deriving DecidableEq, Repr

def State.evaluateWait (s : State) (w : WorkRequest) : WaitResult :=
  if !w.wait && w.opcode != 0x10 then .go else
  let j := qpnIndex w.wqpn
  let st := s.ctx j Ctx.STATE
  if st == qpFree || s.ctx j Ctx.GEN != w.wgen || st == qpError || st == qpDraining then .invalid
  else if 0 ≤ (BitVec.ofNat 32 (s.ctx j Ctx.CCNT) - BitVec.ofNat 32 w.wcnt).toInt then .go
  else .wait

/-- The work request that fails a queue pair: the one at the head of its send ring, or the started one that has a PSN. -/
inductive FailedWork where
  | head
  | psn (p : Nat)
  deriving DecidableEq, Repr

/-- A started work request has a PSN. -/
def Work.covers (w : Work) (p : Nat) : Bool := decide (psnSub p w.firstPsn < w.packets)

/-- R146, R113, Table 5.5: a queue pair enters Error, from Draining too (log 114): the work request that failed it completes with
its own status, every other one not complete, started or posted, with 0x01; its commands meet Table 3.5; an admin queue's failure
resets its controller (R77). -/
def State.toError (s : State) (idx : Nat) (cause : Option (FailedWork × Nat)) : State :=
  if !s.qpSends idx then s else
  let s := s.setCtx idx Ctx.STATE qpError
  let started := s.rdma.works.filter (·.qp == idx)
  let size := max 1 (s.ctx idx Ctx.SQ_SIZE)
  let posted := if s.ctx idx Ctx.SVC == 1 then
      (List.range ((s.ctx idx Ctx.SQ_TAIL + size - s.ctx idx Ctx.SQ_HEAD) % size)).map fun i => s.workRequest idx ((s.ctx idx Ctx.SQ_HEAD + i) % size)
    else []
  let status := fun hit : FailedWork → Bool => match cause with | some (f, st) => if hit f then st else 1 | none => 1
  let s := s.each started fun w s =>
    s.completeWork idx w.wrId (status fun f => match f with | .psn p => w.covers p | .head => false) w.opcode 0 w.signal
  let s := s.each posted.zipIdx fun (w, i) s => s.completeWork idx w.wrId (status fun f => f == .head && i == 0) w.opcode 0 w.signal
  let s := s.setCtx idx Ctx.SQ_HEAD (s.ctx idx Ctx.SQ_TAIL)
  let s := s.onRdma fun r => { r with
    works := r.works.filter (·.qp != idx)
    reads := r.reads.filter (·.qp != idx)
    sends := r.sends.filter (·.1 != idx)
    discarded := r.discarded.filter (·.1 != idx)
    waiting := r.waiting.filter (· != idx)
    stepTimers := r.stepTimers.filter (· != idx)
    rnrTimers := r.rnrTimers.filter (· != idx) }
  if s.ctx idx Ctx.SVC == 1 then s
  else if s.ctx idx Ctx.QID == 0 then s.resetController (s.ctx idx Ctx.CNTLID) true
  else s.abortCommands (s.ctx idx Ctx.CNTLID) (some (s.ctx idx Ctx.QID))

/-- Start one work request (R136, R137); a length above 2 MiB is a length error. -/
def State.startWork (s : State) (idx : Nat) (w : WorkRequest) : State :=
  if w.opcode = 3 then s.startRead idx w.len w.signal w.wrId
    ((readPieces (s.pmtu idx) w.len).map fun (o, n) => ⟨.memory (w.laddr + o), n, w.raddr + o, w.rkey⟩)
  else if w.opcode = 0x10 then
    s.onRdma fun r => { r with works := r.works ++ [⟨idx, r.nextWork, 0x10, w.signal, w.wrId, 0, 0, 0, 0⟩], nextWork := r.nextWork + 1 }
  else s.startSend idx w.opcode w.len w.signal w.wrId fun psn =>
    let bs := s.load (w.laddr % 2 ^ 48) w.len
    if w.opcode = 2 then .write psn w.raddr w.rkey bs
    else if w.opcode = 1 then .sendInvalidate psn bs w.invKey
    else .send psn bs

/-- R145: an earlier RDMA READ of the queue pair has not completed. -/
def State.readsOutstanding (s : State) (idx : Nat) : Bool := s.rdma.works.any fun w => w.qp == idx && w.opcode == 3

/-- A send ring is parked; WAIT_QPN, WAIT_GEN and WAIT_CNT name what it waits for, if it waits on a count (R143, Table 5.4). -/
def State.parkRing (s : State) (idx : Nat) (on : Option WorkRequest) : State :=
  let s := s.onRdma fun r => { r with waiting := idx :: r.waiting.filter (· != idx) }
  match on with
  | some w => ((s.setCtx idx Ctx.WAIT_QPN (2 ^ 24 + w.wqpn % 2 ^ 24)).setCtx idx Ctx.WAIT_GEN w.wgen).setCtx idx Ctx.WAIT_CNT w.wcnt
  | none => s

/-- R136, R143–R145: start a service send ring's work requests in order, as far as waits, fences and READ requests that are not
all sent let them; `fuel` is the entries the ring can hold. -/
def State.runRing (s : State) (idx : Nat) : Nat → State
  | 0 => s
  | n + 1 =>
    if s.ctx idx Ctx.STATE != qpReady || s.ctx idx Ctx.SQ_HEAD == s.ctx idx Ctx.SQ_TAIL then s else
    if s.readsWait idx then s.parkRing idx none else
    let w := s.workRequest idx (s.ctx idx Ctx.SQ_HEAD)
    match s.evaluateWait w with
    | .invalid => s.toError idx (some (.head, 5))
    | .wait => s.parkRing idx (some w)
    | .go =>
      if 2 ^ 21 < w.len then s.toError idx (some (.head, 6))
      else if w.fence && s.readsOutstanding idx then s.parkRing idx none
      else
        let s := (s.setCtx idx Ctx.WAIT_QPN (s.ctx idx Ctx.WAIT_QPN % 2 ^ 24)).startWork idx w
        (s.setCtx idx Ctx.SQ_HEAD ((s.ctx idx Ctx.SQ_HEAD + 1) % max 1 (s.ctx idx Ctx.SQ_SIZE))).runRing idx n

/-- R144: look again at every parked ring; each is taken off the list and put back if it still waits. A ring that fails
puts its queue pair into Error, which can fail further rings: they are looked at in the next round. -/
def State.evaluateWaits (s : State) : Nat → State
  | 0 => s
  | n + 1 =>
    let l := s.rdma.waiting
    let t := s.each l fun idx s => (s.onRdma fun r => { r with waiting := r.waiting.filter (· != idx) }).runRing idx (s.ctx idx Ctx.SQ_SIZE)
    if t.rdma.waiting = l then t else t.evaluateWaits n

/-- Rings to look at: no more rounds than queue pairs can change anything. -/
def State.wakeWaits (s : State) : State := s.evaluateWaits (s.rdma.qps.length + 1)

/-- A queue pair enters Error, and the rings that wait on it are looked at. -/
def State.queuePairError (s : State) (idx : Nat) (cause : Option (FailedWork × Nat)) : State := (s.toError idx cause).wakeWaits

/-! Packets received. -/

/-- The time in microseconds, low 32 bits. -/
def State.nowUs (s : State) : Nat := s.now / 1000 % 2 ^ 32
def since32 (now then' : Nat) : Nat := (now + 2 ^ 32 - then' % 2 ^ 32) % 2 ^ 32

/-- R147: a CE-marked packet accepted for a queue pair. -/
def State.congestion (s : State) (idx : Nat) (ce : Bool) : State :=
  if !ce then s else
  let s := s.countCtx idx Ctx.ECN_RX
  if s.ctx idx Ctx.LAST_CNP = 0 && s.ctx idx Ctx.CNP_TX = 0 || s.rd QPC_CNP.GAP ≤ since32 s.nowUs (s.ctx idx Ctx.LAST_CNP) then
    let s := ((s.setCtx idx Ctx.LAST_CNP s.nowUs).countCtx idx Ctx.CNP_TX).count QPC_CNP_TX.addr
    (s.sent idx 16).emit (.rdma idx (.cnp (s.rd QPC_CNP.DSCP) (s.rd QPC_CNP.CLASS)))
  else s

/-- R113: send a NAK that ends the queue pair. -/
def State.nakError (s : State) (idx : Nat) (kind : NakKind) : State :=
  ((s.emit (.rdma idx (.nak kind (s.ctx idx Ctx.EPSN)))).sent idx 4).queuePairError idx none

/-- R131: acknowledge at once, or once for every 16 packets accepted. -/
def State.acknowledge (s : State) (idx psn : Nat) (now : Bool) : State :=
  let s := s.onQp idx fun q => { q with unacked := q.unacked + 1 }
  if now || 16 ≤ (s.qp idx).unacked then s.sendAck idx psn else s

/-- A frame accepted counts in RX_BYTES. -/
def State.received (s : State) (idx ext len : Nat) : State :=
  s.countCtx idx Ctx.RX_BYTES (frameBytes (s.ctx idx Ctx.IPV6 == 1) ext len)

/-- Accept an expected packet: EPSN advances and NAK_SENT clears (Table 5.7). -/
def State.acceptPsn (s : State) (idx ext len : Nat) : State :=
  let s := s.setCtx idx Ctx.EPSN (psnAdd (s.ctx idx Ctx.EPSN) 1)
  (s.setCtx idx Ctx.NAK_SENT 0).received idx ext len

/-- Table 5.7: what becomes of a request packet by its PSN; `expected` is what an expected one does. -/
def State.classify (s : State) (idx psn : Nat) (expected : State → State) : State :=
  if s.ctx idx Ctx.STATE != qpReady then s else
  let d := psnSub psn (s.ctx idx Ctx.EPSN)
  if d = 0 then expected s
  else if d < 2 ^ 23 then
    if s.ctx idx Ctx.NAK_SENT = 0 then
      (((s.setCtx idx Ctx.NAK_SENT 1).countCtx idx Ctx.SEQ_NAKS).sent idx 4).emit (.rdma idx (.nak .sequence (s.ctx idx Ctx.EPSN)))
    else s
  else ((s.countCtx idx Ctx.DUP_PKTS).count QPC_DUP.addr).sendAck idx (psnSub (s.ctx idx Ctx.EPSN) 1)

/-- R117, R119: the first capsule of a queue must be Connect, and while authentication is required only its two commands
pass; anything else ends the connection. -/
def State.capsuleAllowed (s : State) (idx : Nat) (capsule : Bytes) : Bool :=
  let fabrics := leNat (capsule.take 1) == 0x7F
  let fctype := leNat ((capsule.drop 4).take 1)
  if !(s.qp idx).bound then fabrics && fctype == 1
  else !(s.qp idx).authDue || fabrics && (fctype == 5 || fctype == 6)

/-- A whole capsule: to the decoder, which runs it as the command row of its opcode (log 11). -/
def State.takeCapsule (s : State) (idx : Nat) (capsule : Bytes) : State :=
  if s.capsuleAllowed idx capsule then s.emit (.capsule idx capsule) else s.disconnect idx

/-- An expected SEND packet (R131–R134). -/
def State.expectedSend (s : State) (idx psn : Nat) (op : BthOp) (ce : Bool) (payload : Bytes) : State :=
  let starts := op == .sendFirst || op == .sendOnly
  let ends := op == .sendLast || op == .sendOnly
  if op == .notAccepted then s.nakError idx .invalidRequest
  else if starts && s.ctx idx Ctx.RQ_POSTED = 0 then
    ((s.countCtx idx Ctx.RNR_NAKS).sent idx 4).emit (.rdma idx (.rnrNak (s.ctx idx Ctx.EPSN) (s.ctx idx Ctx.RNR_TMR % 32)))
  else
    let message := (if starts then [] else (s.qp idx).message) ++ payload
    if 8256 < message.length then s.nakError idx .invalidRequest
    else
      let s := s.acceptPsn idx 0 payload.length
      let s := if starts then (s.setCtx idx Ctx.RQ_POSTED (s.ctx idx Ctx.RQ_POSTED - 1)).setCtx idx Ctx.MSG_PSN psn else s
      let s := s.setCtx idx Ctx.MSG_CELLS (if ends then 0 else (message.length + 255) / 256)
      let s := s.onQp idx fun q => { q with message := if ends then [] else message }
      let s := if ends then s.setCtx idx Ctx.MSN (s.ctx idx Ctx.MSN + 1) else s
      let s := (s.acknowledge idx psn ends).congestion idx ce
      if ends then s.takeCapsule idx message else s

/-- R135: a RETH names RKEY and a range inside the window of a queue pair that takes inbound WRITEs. -/
def State.windowHolds (s : State) (idx rkey addr len : Nat) : Bool :=
  s.ctx idx Ctx.SVC == 1 && s.ctx idx Ctx.RWR_EN == 1 && rkey == s.ctx idx Ctx.RKEY &&
  decide (s.ctx idx Ctx.MR_BASE ≤ addr) && decide (addr + len ≤ s.ctx idx Ctx.MR_BASE + s.ctx idx Ctx.MR_LEN)

/-- An expected RDMA WRITE packet (R113, R135). The first packet's RETH gives the message's key, address and length; each packet
goes where the one before it ended. A packet beyond the RETH's length, or one of no message begun, is outside its range. -/
def State.expectedWrite (s : State) (idx psn : Nat) (part : MessagePart) (rkey addr len : Nat) (ce : Bool) (payload : Bytes) : State :=
  let starts := part == .first || part == .only
  let ends := part == .last || part == .only
  match (if starts then (if s.windowHolds idx rkey addr len then some (addr, len) else none) else (s.qp idx).write) with
  | none => s.nakError idx .remoteAccess
  | some (at_, left) =>
    if left < payload.length || s.ctx idx Ctx.RWR_EN = 0 then s.nakError idx .remoteAccess else
    let s := (s.acceptPsn idx (if starts then 16 else 0) payload.length).storeBytes at_ payload
    let s := if starts then (s.setCtx idx Ctx.MSG_PSN psn).setCtx idx Ctx.MSG_CELLS 0 else s
    let s := s.onQp idx fun q => { q with write := if ends then none else some (at_ + payload.length, left - payload.length) }
    let s := if ends then s.setCtx idx Ctx.MSN (s.ctx idx Ctx.MSN + 1) else s
    (s.acknowledge idx psn false).congestion idx ce

/-! Retransmission (R140, R141). -/

/-- The first packet of a request that its map does not mark. -/
def ReadRequest.firstMissing (r : ReadRequest) : Option Nat := (List.range r.packets).find? fun n => !r.map.contains n

/-- The frames of a work request that are sent again from a PSN on: its packets, or for a READ the requests that still miss
responses, each asking from its first missing packet (Table 5.9). -/
def State.framesAgain (s : State) (w : Work) (psn : Nat) : List Nat :=
  let v6 := s.ctx w.qp Ctx.IPV6 == 1
  let stop := psnAdd w.firstPsn w.packets
  if w.packets = 0 || 2 ^ 23 ≤ psnSub stop psn || stop = psn then []
  else if w.opcode = 3 then
    (s.rdma.reads.filter fun r => r.work == w.num && r.tracker.isSome && r.firstMissing.isSome &&
      psnSub (psnAdd r.firstPsn (r.packets - 1)) psn < 2 ^ 23).map fun _ => frameBytes v6 16 0
  else
    let from_ := if psnSub psn w.firstPsn < w.packets then psnSub psn w.firstPsn else 0
    messageFrames v6 w.len (s.pmtu w.qp) (extendedBytes w.opcode).1 (extendedBytes w.opcode).2 from_

/-- Packets sent again from a PSN, in go-back-N order. Data whose retained cells were discarded is fetched again first (R178). -/
def State.resend (s : State) (idx psn : Nat) : State :=
  let frames := (s.rdma.works.filter (·.qp == idx)).flatMap fun w => s.framesAgain w psn
  let n := frames.length
  let again := s.rdma.discarded.filter fun d => d.1 == idx && psnSub d.2 psn < 2 ^ 23
  let s := (s.onRdma fun r => { r with discarded := r.discarded.filter fun d => !again.contains d }).emits
    (again.map fun d => .rdma idx (.refetch d.2))
  (((s.countCtx idx Ctx.RETRANS n).count QPC_RETRANS.addr n).sentFrames idx frames).emit (.rdma idx (.resend psn n))

/-- Take one retry off; at 0 the queue pair enters Error. -/
def State.retryFrom (s : State) (idx psn : Nat) : State :=
  let left := s.ctx idx Ctx.RETRIES_LEFT % 8 - 1
  let s := s.setCtx idx Ctx.RETRIES_LEFT (s.ctx idx Ctx.RETRIES_LEFT / 8 * 8 + left)
  if left = 0 then s.queuePairError idx (some (.psn psn, 2)) else s.resend idx psn

/-- Outstanding READ requests of a queue pair, in the order sent. -/
def State.outstandingReads (s : State) (idx : Nat) : List ReadRequest := s.rdma.reads.filter fun r => r.qp == idx && r.tracker.isSome

/-- The first missing PSN of the earliest request with a gap. -/
def State.readGap (s : State) (idx : Nat) : Option Nat :=
  (s.outstandingReads idx).findSome? fun r => r.firstMissing.map fun n => psnAdd r.firstPsn n

/-- R140: an ACK or NAK with this PSN counts. -/
def State.ackValid (s : State) (idx psn : Nat) : Bool :=
  psnSub psn (s.ctx idx Ctx.UNA_PSN) < psnSub (s.ctx idx Ctx.NPSN) (s.ctx idx Ctx.UNA_PSN)

/-- R138: a READ response packet. -/
def State.readResponse (s : State) (idx psn : Nat) (ce : Bool) (payload : Bytes) : State :=
  if !s.qpSends idx then s else
  match (s.outstandingReads idx).find? (fun r => psnSub psn r.firstPsn < r.packets) with
  | none => s
  | some r =>
    let n := psnSub psn r.firstPsn
    if r.map.contains n then s else
    let s := s.onRdma fun x => { x with reads := x.reads.map fun q =>
      if q.tracker == r.tracker then { q with map := n :: q.map } else q }
    let s := (s.restoreRetries idx).received idx (if n = 0 || n + 1 = r.packets then 4 else 0) payload.length
    let s := match r.target with
      | .memory a => s.storeBytes (a + n * s.pmtu idx) payload
      | .command key off => s.dataArrives key (off + n * s.pmtu idx) payload
      | .nowhere => s
    let s := s.congestion idx ce
    match (s.outstandingReads idx).find? (fun q => q.firstMissing.isSome) with
    | some q =>
      if q.tracker != r.tracker && psnSub r.firstPsn q.firstPsn < 2 ^ 23 then
        s.retryFrom idx (psnAdd q.firstPsn (q.firstMissing.getD 0))
      else s
    | none => s

/-- R140: an ACK. -/
def State.ackArrives (s : State) (idx psn : Nat) : State :=
  if s.ackValid idx psn then
    let s := s.onRdma fun r => { r with discarded := r.discarded.filter fun d => d.1 != idx || decide (psnSub d.2 (psnAdd psn 1) < 2 ^ 23) }
    ((s.received idx 4 0).setCtx idx Ctx.UNA_PSN (psnAdd psn 1)).restoreRetries idx
  else s.count QPC_DROP.addr

/-- R140, R141, R113: a NAK. -/
def State.nakArrives (s : State) (idx psn : Nat) (kind : NakKind) : State :=
  if !s.ackValid idx psn then s.count QPC_DROP.addr else
  let s := s.received idx 4 0
  match kind with
  | .sequence => ((s.setCtx idx Ctx.UNA_PSN psn).countCtx idx Ctx.SEQ_NAKS).resend idx psn
  | .rnr =>
    let s := s.countCtx idx Ctx.RNR_NAKS
    let all := s.ctx idx Ctx.RETRIES_LEFT
    let left := all / 16 % 8
    if s.ctx idx Ctx.RETRY / 16 % 8 = 7 then s.onRdma fun r => { r with rnrTimers := idx :: r.rnrTimers.filter (· != idx) }
    else
      let s := s.setCtx idx Ctx.RETRIES_LEFT (all % 16 + (left - 1) * 16)
      if left - 1 = 0 then s.queuePairError idx (some (.psn psn, 2))
      else s.onRdma fun r => { r with rnrTimers := idx :: r.rnrTimers.filter (· != idx) }
  | .invalidRequest => s.queuePairError idx (some (.psn psn, 4))
  | .remoteAccess => s.queuePairError idx (some (.psn psn, 3))

/-! Rate control (R148). -/

/-- LANE_RATE of a queue pair, Mb/s. -/
def State.qpLaneRate (s : State) (idx : Nat) : Nat := s.laneRateMb (s.ctx idx Ctx.LANE / 8)

/-- on_cnp. -/
def State.onCnp (s : State) (idx : Nat) : State :=
  let s := (((s.countCtx idx Ctx.CNP_RX).received idx 16 0).count QPC_CNP_RX.addr).event 0x13 0
  if since32 s.nowUs (s.ctx idx Ctx.LAST_CUT) < s.rd QPC_RC1.CUT_HOLD then s else
  let rate := s.ctx idx Ctx.RATE
  let s := (s.settleBucket idx).refillBucket idx
  let s := s.setCtx idx Ctx.TARGET rate
  let s := s.setCtx idx Ctx.RATE (max (s.rd QPC_RC3.RMIN) (rate - rate * s.rd QPC_RC0.CUT / 256))
  let s := ((s.setCtx idx Ctx.LAST_CUT s.nowUs).setCtx idx Ctx.STAGE 0).setCtx idx Ctx.LIMITED 1
  s.onRdma fun r => { r with stepTimers := idx :: r.stepTimers.filter (· != idx) }

/-- on_step_timer. -/
def State.onStepTimer (s : State) (idx : Nat) : State :=
  let lane := s.qpLaneRate idx
  let add := s.rd QPC_RC2.ADD
  let s := s.setCtx idx Ctx.STAGE (s.ctx idx Ctx.STAGE + 1)
  let s := if 4 < s.ctx idx Ctx.STAGE then s.setCtx idx Ctx.TARGET (min lane (s.ctx idx Ctx.TARGET + add)) else s
  let s := (s.settleBucket idx).setCtx idx Ctx.RATE ((s.ctx idx Ctx.RATE + s.ctx idx Ctx.TARGET) / 2)
  if lane - add / 8 ≤ s.ctx idx Ctx.RATE && s.ctx idx Ctx.TARGET = lane then
    ((s.setCtx idx Ctx.RATE lane).setCtx idx Ctx.LIMITED 0).onRdma fun r => { r with stepTimers := r.stepTimers.filter (· != idx) }
  else s

/-! What each packet or timer does once its context is at hand. -/

/-- R141: the ACK timeout of a queue pair with packets unacknowledged. -/
def State.ackTimeout (s : State) (idx : Nat) : State :=
  if !s.qpSends idx || s.ctx idx Ctx.UNA_PSN = s.ctx idx Ctx.NPSN then s
  else s.retryFrom idx ((s.readGap idx).getD (s.ctx idx Ctx.UNA_PSN))

def State.rnrExpiry (s : State) (idx : Nat) : State :=
  if s.rdma.rnrTimers.contains idx then
    (s.onRdma fun r => { r with rnrTimers := r.rnrTimers.filter (· != idx) }).resend idx (s.ctx idx Ctx.UNA_PSN)
  else s

/-- R142: a doorbell reaches its context. -/
def State.doorbell (s : State) (idx tail : Nat) : State :=
  if s.ctx idx Ctx.STATE != qpReady || s.ctx idx Ctx.SVC = 0 then s
  else ((s.setCtx idx Ctx.SQ_TAIL tail).runRing idx (s.ctx idx Ctx.SQ_SIZE)).wakeWaits

/-- R137: READ requests that waited are sent, and what waited behind them in the send ring goes on. -/
def State.readsGo (s : State) (idx : Nat) : State := (s.runSends idx).wakeWaits

/-- The effect of a packet or timer that was let through its pipeline; the other commands never pass one. -/
def State.servePacket (s : State) : Instr → State
  | .inboundRequest qpn psn op ce _ payload => s.classify (qpnIndex qpn) psn fun s => s.expectedSend (qpnIndex qpn) psn op ce payload
  | .inboundRdmaWrite qpn psn part rkey addr len ce _ payload =>
    s.classify (qpnIndex qpn) psn fun s => s.expectedWrite (qpnIndex qpn) psn part rkey addr len ce payload
  | .rdmaReadResponse qpn psn ce _ payload => s.readResponse (qpnIndex qpn) psn ce payload
  | .ackReceived qpn psn => s.ackArrives (qpnIndex qpn) psn
  | .nakReceived qpn psn kind => s.nakArrives (qpnIndex qpn) psn kind
  | .cnpReceived qpn => s.onCnp (qpnIndex qpn)
  | .ackTimeout idx => s.ackTimeout idx
  | .rnrTimerExpiry idx => s.rnrExpiry idx
  | .rateStepTimer idx => if s.rdma.stepTimers.contains idx then s.onStepTimer idx else s
  | .qpcDoorbell _ idx tail => s.doorbell idx tail
  | .readTrackerGrant idx => s.readsGo idx
  | _ => s

/-- What passes a pipeline, once its context is at hand. -/
def State.serveItem (s : State) (idx : Nat) : PipeItem → State
  | .row i => s.servePacket i
  | .send m => s.serveSend idx m

/-- The pipeline kind and context of a packet or timer. -/
def packetContext : Instr → Option (Bool × Nat)
  | .inboundRequest qpn _ _ _ _ _ => some (false, qpnIndex qpn)
  | .inboundRdmaWrite qpn _ _ _ _ _ _ _ _ => some (false, qpnIndex qpn)
  | .rdmaReadResponse qpn _ _ _ _ => some (false, qpnIndex qpn)
  | .ackReceived qpn _ => some (false, qpnIndex qpn)
  | .nakReceived qpn _ _ => some (false, qpnIndex qpn)
  | .cnpReceived qpn => some (false, qpnIndex qpn)
  | .ackTimeout idx => some (true, idx)
  | .rnrTimerExpiry idx => some (true, idx)
  | .rateStepTimer idx => some (true, idx)
  | .qpcDoorbell _ idx _ => some (true, idx)
  | .readTrackerGrant idx => some (true, idx)
  | _ => none

/-- A packet or timer enters its pipeline. -/
def State.passPacket (s : State) (i : Instr) : State :=
  match packetContext i with
  | some (tx, idx) => s.throughPipeline tx idx (.row i) fun s => s.servePacket i
  | none => s

/-- R114: discard a packet silently. -/
def State.packetIn (s : State) (qpn : Nat) (bad : Bool) (i : Instr) : State :=
  if bad || !s.qpnInUse qpn then s.count QPC_DROP.addr else s.passPacket i

def execInboundRequest (qpn psn : Nat) (op : BthOp) (ce bad : Bool) (payload : Bytes) (s : State) : Host.Outcome State Fault Refusal :=
  onSoc s fun s => s.packetIn qpn bad (.inboundRequest qpn psn op ce bad payload)

def execInboundRdmaWrite (qpn psn : Nat) (part : MessagePart) (rkey addr len : Nat) (ce bad : Bool) (payload : Bytes) (s : State) :
    Host.Outcome State Fault Refusal :=
  onSoc s fun s => s.packetIn qpn bad (.inboundRdmaWrite qpn psn part rkey addr len ce bad payload)

def execRdmaReadResponse (qpn psn : Nat) (ce bad : Bool) (payload : Bytes) (s : State) : Host.Outcome State Fault Refusal :=
  onSoc s fun s => s.packetIn qpn bad (.rdmaReadResponse qpn psn ce bad payload)

def execAckReceived (qpn psn : Nat) (s : State) : Host.Outcome State Fault Refusal :=
  onSoc s fun s => s.packetIn qpn false (.ackReceived qpn psn)

def execNakReceived (qpn psn : Nat) (kind : NakKind) (s : State) : Host.Outcome State Fault Refusal :=
  onSoc s fun s => s.packetIn qpn false (.nakReceived qpn psn kind)

def execCnpReceived (qpn : Nat) (s : State) : Host.Outcome State Fault Refusal :=
  onSoc s fun s => s.packetIn qpn false (.cnpReceived qpn)

def execAckTimeout (idx : Nat) (s : State) : Host.Outcome State Fault Refusal :=
  onSoc s fun s => if s.qpSends idx then s.passPacket (.ackTimeout idx) else s

def execRnrTimerExpiry (idx : Nat) (s : State) : Host.Outcome State Fault Refusal :=
  onSoc s fun s => if s.rdma.rnrTimers.contains idx then s.passPacket (.rnrTimerExpiry idx) else s

def execRateStepTimer (idx : Nat) (s : State) : Host.Outcome State Fault Refusal :=
  onSoc s fun s => if s.rdma.stepTimers.contains idx then s.passPacket (.rateStepTimer idx) else s

/-- R124, R125, R127: the fill of a pipeline's miss slot returns. A dirty victim needs a place in the eviction buffer. The
parked packets are served in order; a stalled packet then takes the slot, and those behind it go on. -/
def execContextFillComplete (transmit : Bool) (pipe : Nat) (s : State) : Host.Outcome State Fault Refusal :=
  onSoc s fun s =>
    let p := s.pipeline transmit pipe
    match p.fill with
    | none => s
    | some idx =>
      if 2 ≤ p.evict.length && (s.victim idx).any (·.dirty) then s else
      let s := s.installContext { p with
        fill := none
        parked := []
        stalled := [] } idx
      let s := s.each p.parked fun i s => s.serveItem idx i
      let s := if p.stalled.isEmpty then s else s.count QPC_STALL_NS.addr (s.now - p.stalledAt)
      s.each p.stalled fun (j, i) s => s.throughPipeline transmit j i fun s => s.serveItem j i

/-- R127: a victim's write-back ends. -/
def execEvictionWritebackComplete (transmit : Bool) (pipe idx : Nat) (s : State) : Host.Outcome State Fault Refusal :=
  onSoc s fun s =>
    let p := s.pipeline transmit pipe
    if p.evict.contains idx then s.putPipeline { p with evict := p.evict.filter (· != idx) } else s

/-! Requests and work requests that complete. -/

/-- R139: a READ request whose map is full completes and gives its tracker back. -/
def execReadRequestComplete (tracker : Nat) (s : State) : Host.Outcome State Fault Refusal :=
  onSoc s fun s =>
    match s.rdma.reads.find? (·.tracker == some tracker) with
    | none => s
    | some r =>
      if r.map.length < r.packets then s else
      let s := s.onRdma fun x => { x with
        reads := x.reads.filter (·.tracker != some tracker)
        works := x.works.map fun w => if w.num = r.work then { w with reads := w.reads - 1 } else w }
      let stop := psnAdd r.firstPsn r.packets
      let s := if psnSub stop (s.ctx r.qp Ctx.UNA_PSN) < 2 ^ 23 then s.setCtx r.qp Ctx.UNA_PSN stop else s
      s.showReads r.qp

/-- R137: a READ request that waited is sent. -/
def execReadTrackerGrant (idx : Nat) (s : State) : Host.Outcome State Fault Refusal :=
  onSoc s fun s => if s.readsWait idx then s.passPacket (.readTrackerGrant idx) else s

/-- A work request has nothing left to wait for: a READ's requests have completed, a SEND or WRITE is acknowledged. -/
def State.workDone (s : State) (w : Work) : Bool :=
  if w.opcode = 3 then w.reads == 0
  else if w.opcode = 0x10 then true
  else psnSub (s.ctx w.qp Ctx.UNA_PSN) (psnAdd w.firstPsn w.packets) < 2 ^ 23

/-- R139, R146, R144: the oldest started work request of a queue pair completes. -/
def execWorkRequestComplete (idx : Nat) (s : State) : Host.Outcome State Fault Refusal :=
  onSoc s fun s =>
    match s.rdma.works.find? (·.qp == idx) with
    | none => s
    | some w =>
      if s.workDone w then
        ((s.onRdma fun r => { r with works := r.works.filter (·.num != w.num) }).completeWork idx w.wrId 0 w.opcode w.len w.signal).wakeWaits
      else s

/-! Connections (Table 5.5). -/

/-- R115: every condition of an acceptable request: the status value of the RDMA transport binding (log 158) for the first
that fails. -/
def State.connectionRefused (s : State) (c : ConnectRequest) : Option Nat :=
  if c.recfmt ≠ 0 then some 2
  else if 128 < c.qid then some 3
  else if c.hsqsize < 2 || 1024 < c.hsqsize then some 4
  else if c.hrqsize ≠ c.hsqsize then some 5
  else if s.freeContext.isNone || (c.qid = 0 && 4096 ≤ s.host.controllers.length) then some 6
  else none

/-- R116: the context of an accepted connection. -/
def State.connectionContext (s : State) (c : ConnectRequest) (idx : Nat) : QueuePair :=
  let gen := nextGen (s.ctx idx Ctx.GEN)
  let retry := s.rd QPC_DEF.RNR_RETRY * 16 + s.rd QPC_DEF.RETRY
  let lane := s.laneRateMb c.port
  { (([(Ctx.STATE, qpConnecting), (Ctx.GEN, gen), (Ctx.LQPN, qpnOf idx gen), (Ctx.RQPN, c.rqpn), (Ctx.QID, c.qid),
      (Ctx.LANE, c.port * 8 + c.lane), (Ctx.PMTU, min c.pmtu 5), (Ctx.ACK_TMO, s.rd QPC_DEF.ACK_TMO), (Ctx.RETRY, retry),
      (Ctx.RETRIES_LEFT, retry), (Ctx.RNR_TMR, s.rd QPC_DEF.RNR_TMR), (Ctx.EPSN, c.hostPsn), (Ctx.NPSN, c.ownPsn),
      (Ctx.UNA_PSN, c.ownPsn), (Ctx.RQ_DEPTH, c.hsqsize), (Ctx.ORD, min c.responder 16), (Ctx.RATE, lane),
      (Ctx.TARGET, lane), (Ctx.IPV6, if c.ipv6 then 1 else 0), (Ctx.REMOTE_IP, c.remoteIp), (Ctx.LOCAL_IP, c.localIp),
      (Ctx.REMOTE_MAC, c.remoteMac), (Ctx.UDP_SPORT, c.udpSport), (Ctx.DSCP, c.dscp), (Ctx.TCLASS, c.tclass), (Ctx.TGRP, c.tgrp)]).foldl (fun q f => q.set f.1 f.2) (QueuePair.blank idx)) with port := c.port }

def execConnectionRequest (c : ConnectRequest) (s : State) : Host.Outcome State Fault Refusal :=
  onSoc s fun s =>
    if c.tcpPort ≠ s.rd QPC_CTL.SVC_PORT then s.emit (.connectionReject c.port none)
    else match s.connectionRefused c with
    | some st => s.emit (.connectionReject c.port (some st))
    | none =>
      let q := s.connectionContext c (s.freeContext.getD 0)
      (s.putContext q).emit (.connectionReply c.port (q.get Ctx.LQPN) c.hsqsize)

def execReadyToUse (idx : Nat) (s : State) : Host.Outcome State Fault Refusal :=
  onSoc s fun s =>
    if s.ctx idx Ctx.STATE = qpConnecting then (s.setCtx idx Ctx.STATE qpReady).setCtx idx Ctx.RQ_POSTED (s.ctx idx Ctx.RQ_DEPTH)
    else s

def execConnectingTimeout (idx : Nat) (s : State) : Host.Outcome State Fault Refusal :=
  onSoc s fun s => if s.ctx idx Ctx.STATE = qpConnecting then s.dropContext idx else s

def execConnectionReject (idx : Nat) (s : State) : Host.Outcome State Fault Refusal :=
  onSoc s fun s => if s.ctx idx Ctx.STATE = qpConnecting then s.dropContext idx else s

/-- Table 5.5: a disconnect request, received or sent. -/
def execDisconnectRequest (idx : Nat) (s : State) : Host.Outcome State Fault Refusal :=
  onSoc s fun s => if s.ctx idx Ctx.STATE = qpReady then s.endQueuePair idx else s

/-- Commands of a queue pair's queue still in the table; another queue pair may carry the queue by now (R118). -/
def State.queueBusy (s : State) (idx : Nat) : Bool :=
  s.ctx idx Ctx.SVC = 0 && (s.queuePairOf (s.ctx idx Ctx.CNTLID) (s.ctx idx Ctx.QID)).all (· == idx) && s.host.commands.any fun c => c.key.ctrl == s.ctx idx Ctx.CNTLID && c.key.qid == s.ctx idx Ctx.QID

/-- Table 5.5, R118: Error becomes Draining once the queue's commands have met their fate; a Draining queue pair is freed
once its last cell is released. -/
def execQueuePairDrained (idx : Nat) (s : State) : Host.Outcome State Fault Refusal :=
  onSoc s fun s =>
    if s.queueBusy idx then s
    else if s.ctx idx Ctx.STATE = qpError then s.setCtx idx Ctx.STATE qpDraining
    else if s.ctx idx Ctx.STATE = qpDraining && !s.holdsCells idx then
      let ctrl := s.ctx idx Ctx.CNTLID
      (s.dropContext idx).onController ctrl fun c => { c with queues := c.queues.filter (·.2 != idx) }
    else s

/-! Doorbell and QPC_CMD. -/

/-- OWNER of a requester (Table 5.4). -/
def ownerOf : Requester → Nat
  | .partition p => p + 1
  | _ => 0

/-- R142: a QPC_DB write; one from a writer that does not own the context is discarded and recorded. -/
def execQpcDoorbell (who : Requester) (idx tail : Nat) (s : State) : Host.Outcome State Fault Refusal :=
  onSoc s fun s =>
    let idx := idx % 2 ^ 17
    s.commandWrite who QPC_DB.addr (BitVec.ofNat 32 (idx * 2 ^ 15 + tail % 2 ^ 15)) fun s =>
    if s.ctx idx Ctx.OWNER = ownerOf who then s.passPacket (.qpcDoorbell who idx (tail % 2 ^ 15))
    else s.fault { cls := 2, code := 0x84, severity := 1, source := 0x18, addr := idx,
                   part := match who with | .partition p => p | _ => 255 }

/-- R149: a QPC_CMD operation on the context of QPC_CMD_IDX: ignored while BUSY, 0x02 for a partition that does not own it
(`anyOwner` for Create, which has no owner yet). -/
def State.qpcCommand (s : State) (who : Requester) (op : Nat) (anyOwner : Bool) (act : Nat → State → Nat × State) : State :=
  s.commandWrite who QPC_CMD.addr (BitVec.ofNat 32 op) fun s =>
    if s.flag QPC_CMD.BUSY then s else
    let idx := s.rd QPC_CMD_IDX.IDX
    if !anyOwner && ownerOf who != 0 && s.ctx idx Ctx.OWNER != ownerOf who then s.wr QPC_CMD.STATUS 2
    else
      let (st, t) := act idx s
      t.wr QPC_CMD.STATUS st

/-- Contexts a partition owns. -/
def State.contextsOwned (s : State) (owner : Nat) : Nat :=
  (s.rdma.qps.filter fun q => q.get Ctx.STATE != qpFree && q.get Ctx.OWNER == owner).length

/-- Whether an image can be a context. -/
def imageGood (q : QueuePair) : Bool :=
  1 ≤ q.get Ctx.PMTU && q.get Ctx.PMTU ≤ 5 && 2 ≤ q.get Ctx.SQ_SIZE && q.get Ctx.SQ_SIZE ≤ 32768 && q.get Ctx.ORD ≤ 16

/-- R149, Table 5.5: Create from the image at QPC_CMD_ADDR; OWNER and SVC are set whatever the image holds. -/
def execQpcCreate (who : Requester) (s : State) : Host.Outcome State Fault Refusal :=
  onSoc s fun s => s.qpcCommand who 1 true fun idx s =>
    let image : QueuePair := { QueuePair.blank idx with img := BitVec.ofNat 4096 (s.loadNat (s.rd64 QPC_CMD_ADDR.addr) 512) }
    if s.ctx idx Ctx.STATE ≠ qpFree then (3, s)
    else if (match who with | .partition p => decide (s.partQueuePairs p ≤ s.contextsOwned (p + 1)) | _ => false) then (1, s)
    else if !imageGood image then (4, s)
    else
      let gen := nextGen (s.ctx idx Ctx.GEN)
      let lane := s.laneRateMb (image.get Ctx.LANE / 8)
      let q := ([(Ctx.STATE, qpReady), (Ctx.GEN, gen), (Ctx.LQPN, qpnOf idx gen), (Ctx.OWNER, ownerOf who), (Ctx.SVC, 1), (Ctx.PIN, 0),
        (Ctx.CNTLID, 0), (Ctx.RETRIES_LEFT, image.get Ctx.RETRY), (Ctx.UNA_PSN, image.get Ctx.NPSN), (Ctx.RD_OUT, 0), (Ctx.RATE, lane),
        (Ctx.TARGET, lane), (Ctx.LIMITED, 0), (Ctx.NAK_SENT, 0), (Ctx.RQ_POSTED, image.get Ctx.RQ_DEPTH)] ++
        (List.range 16).map fun n => (Ctx.RD_TRK n, 0)).foldl (fun (q : QueuePair) (f : CtxFld × Nat) => q.set f.1 f.2) image
      (0, s.putContext q)

/-- R150: Read a snapshot of the context into memory; FW reads 0 to partitions. -/
def execQpcRead (who : Requester) (s : State) : Host.Outcome State Fault Refusal :=
  onSoc s fun s => s.qpcCommand who 2 false fun idx s =>
    let q := if ownerOf who = 0 then s.qp idx else (s.qp idx).set Ctx.FW 0
    (0, s.storeBytes (s.rd64 QPC_CMD_ADDR.addr) (leBytes 512 q.img.toNat))

/-- Table 5.5: Destroy: Ready to Draining. -/
def execQpcDestroy (who : Requester) (s : State) : Host.Outcome State Fault Refusal :=
  onSoc s fun s => s.qpcCommand who 3 false fun idx s =>
    if s.ctx idx Ctx.STATE = qpReady then (0, s.endQueuePair idx) else (3, s)

/-- Table 5.5: Flush: Ready to Error. -/
def execQpcFlush (who : Requester) (s : State) : Host.Outcome State Fault Refusal :=
  onSoc s fun s => s.qpcCommand who 4 false fun idx s =>
    if s.ctx idx Ctx.STATE = qpReady then (0, s.queuePairError idx none) else (3, s)

/-- R127: at most four contexts of a set are pinned. -/
def execQpcPin (who : Requester) (s : State) : Host.Outcome State Fault Refusal :=
  onSoc s fun s => s.qpcCommand who 5 false fun idx s =>
    if s.ctx idx Ctx.STATE = qpFree then (3, s)
    else if s.ctx idx Ctx.PIN = 1 then (0, s)
    else if 4 ≤ s.pinsOfSet idx then (5, s)
    else (0, s.setCtx idx Ctx.PIN 1)

def execQpcUnpin (who : Requester) (s : State) : Host.Outcome State Fault Refusal :=
  onSoc s fun s => s.qpcCommand who 6 false fun idx s =>
    if s.ctx idx Ctx.STATE = qpFree then (3, s) else (0, s.setCtx idx Ctx.PIN 0)

end Sys2Proof.Machine
end

