-- ==== Sys2Proof/Machine/AdminOps.lean ====
section
/-! DEFINITION. What admin commands share: their checks, their statuses, asynchronous events, the Identify structures and the
log pages (chapter Admin Commands and Long Operations). -/

set_option Elab.async false

namespace Sys2Proof.Machine

/-- R104: the status that a sanitize of the pair gives to commands outside its lists; `listed` commands pass. -/
def State.sanitizeStatus (s : State) (listed : Bool) : Option Nat :=
  match s.opShown 8 with
  | some (st, _) => if listed || st = 4 then none else some (if st = 5 then stSanitizeFailed else stSanitizeInProgress)
  | none => none

/-- R104: a Fabrics command while a sanitize runs or has failed. -/
def State.fabricsRun (s : State) (key : CmdKey) (f : State → State) : State :=
  match s.sanitizeStatus false with
  | some st => s.endAdmin key st
  | none => f s

/-- An admin command arrives with the descriptors of its data: its response invalidates their key, and its data lies where they
say (R46, R114). -/
def State.enterAdmin (s : State) (e : AdminEntry) : State :=
  s.onHost fun h => { h with adminEntries := e :: h.adminEntries.filter (·.key != e.key) }

/-- What every admin command meets: authentication still due ends the connection (R119), a controller that is not enabled
or was shut down refuses it (R81), a sanitize refuses those outside its list (R104). -/
def State.adminRun (s : State) (key : CmdKey) (listed : Bool) (f : State → State) : State :=
  match s.controller key.ctrl with
  | none =>
    if s.isPeers key.ctrl then
      match s.sanitizeStatus listed with
      | some st => s.endAdmin key st
      | none => f s
    else s
  | some c =>
    if s.authDue key then s.endConnection key
    else if !c.enabled || c.shst ≠ 0 then s.endAdmin key stSequence
    else match s.sanitizeStatus listed with
    | some st => s.endAdmin key st
    | none => f s

/-- ASCII text padded with spaces. -/
def paddedText (size : Nat) (t : Bytes) : Bytes := (t ++ List.replicate size 32).take size

/-- The bytes of an ASCII string. -/
def ascii (t : String) : Bytes := t.toList.map fun c => BitVec.ofNat 8 c.toNat

/-- Decimal digits of a number, as ASCII. -/
def decimal (n : Nat) : Bytes := ascii (toString n)

/-! Firmware images (Table 4.8). -/

def State.image (s : State) (slot : Nat) : Bytes := s.admin.image slot
def imageFr (image : Bytes) : Bytes := (image.drop 8).take 8
def imageSvn (image : Bytes) : Nat := numAt image 16 4

/-- FR of the running image. -/
def State.runningFr (s : State) : Bytes := paddedText 8 (imageFr s.admin.running)

/-! Identify (Tables 4.2, 4.3, 3.1); the places of the fields are those of NVMe 2.0 (PRESUMED, log 40). The subsystem serial number,
16 bytes in Table 11.4, is printed as decimal digits, and SN shows the first 20 of them (DESIGN CHOICE, log 152). -/

def State.subsystemNqn (s : State) : Bytes := ascii "nqn.2023-06.ciermevo.skalen:pair-" ++ decimal s.link.serial

/-- R105: percentage of a namespace's format still to walk, rounded up, on whichever module walks it (R86). -/
def State.fpi (s : State) (ns : Namespace) : Nat :=
  match s.opShown ns.group with
  | some (_, r) => if ns.formatting && r.nsid == ns.nsid && r.units != 0 then
      0x80 + ((r.units - r.next) * 100 + r.units - 1) / r.units else 0x80
  | none => 0x80

/-- LBA format entries: metadata size and 4,096-byte data. -/
def lbaFormats (off : Nat) : List (Nat × Nat × Nat) := [(off, 4, 12 * 65536), (off + 4, 4, 12 * 65536 + 8), (off + 8, 4, 12 * 65536 + 16)]

/-- The 16 bytes of a namespace's NGUID or UUID, which the spec does not give. -/
def namespaceId (uuid : Bool) (nsid : Nat) : Bytes := Config.bytesOf 16 (Config.namespaceIdByte uuid nsid)

def State.identifyNamespace (s : State) (ns : Namespace) : Bytes :=
  packFields 4096 ([(0, 8, ns.blocks), (8, 8, ns.blocks), (16, 8, ns.blocks), (25, 1, 2), (26, 1, ns.lbaf + (if ns.lbaf = 0 then 0 else 16)), (27, 1, 1), (28, 1, 0x19),
    (29, 1, if ns.lbaf = 0 then 0 else 1), (30, 1, 1), (31, 1, 0x7F), (32, 1, s.fpi ns), (33, 1, 0x11), (74, 2, 512), (76, 4, 16384), (80, 1, 127), (92, 4, ns.group + 1),
    (104, 16, leNat (namespaceId false ns.nsid))] ++ lbaFormats 128)

def State.identifyController (s : State) (c : Controller) : Bytes :=
  packFields 4096 [(0, 2, 0x1C4E), (2, 2, 0x1C4E), (4, 20, leNat (paddedText 20 (decimal s.link.serial))),
    (24, 40, leNat (paddedText 40 (ascii "Skalen SKM-4896"))), (64, 8, leNat s.runningFr), (76, 1, 0x0B), (77, 1, 9), (78, 2, c.cntlid),
    (80, 4, 0x00020000), (256, 2, 0x000E), (258, 1, 3), (259, 1, 15), (260, 1, 0x14), (261, 1, 0x06), (262, 1, 255), (319, 1, 1),
    (320, 2, if c.direct then 0 else 1), (328, 4, 7), (342, 1, 2), (343, 1, 0x5F), (344, 4, 8), (348, 4, 8), (512, 1, 0x66), (513, 1, 0x44), (516, 4, 8192),
    (520, 2, 0x01BD), (522, 2, 0), (524, 1, 0x04), (525, 1, 0), (526, 2, 0), (528, 2, 0), (532, 2, 0), (534, 2, 0x0003),
    (768, 256, leNat (s.subsystemNqn)), (1792, 4, 516), (1796, 4, 1)]

/-- A list of identifiers above `after`, 4 bytes each. -/
def idList (size : Nat) (ids : List Nat) : Bytes := (ids.flatMap fun i => leBytes size i)

/-- Numbers in rising order. -/
def insertNat (n : Nat) : List Nat → List Nat
  | [] => [n]
  | m :: ms => if n ≤ m then n :: m :: ms else m :: insertNat n ms
def sortNat (l : List Nat) : List Nat := l.foldl (fun a n => insertNat n a) []

def padBytes (n : Nat) (bs : Bytes) : Bytes := bs.take n ++ List.replicate (n - bs.length) 0

/-- Table 4.2: the data of a CNS value, or the status that refuses it. -/
def State.identify (s : State) (c : Controller) (cns nsid cntid : Nat) : Except Nat Bytes :=
  let live := s.host.namespaces.filter fun n => !n.deleted
  let mine := live.filter fun n => n.attached.contains c.cntlid
  let listed := fun l : List Namespace => padBytes 4096 (idList 4 ((sortNat ((l.filter fun n => nsid < n.nsid).map (·.nsid))).take 1024))
  let active := mine.find? (·.nsid == nsid)
  let allocated := live.find? (·.nsid == nsid)
  let ofNs := fun (n : Option Namespace) (f : Namespace → Bytes) =>
    match n with
    | some n => Except.ok (f n)
    | none => if 1 ≤ nsid && nsid ≤ 8192 then Except.ok (List.replicate 4096 0) else Except.error stInvalidNamespace
  match cns with
  | 0x00 => ofNs active s.identifyNamespace
  | 0x01 => .ok (s.identifyController c)
  | 0x02 => .ok (listed mine)
  | 0x03 => ofNs active fun n => padBytes 4096 ([2, 16, 0, 0] ++ namespaceId false n.nsid ++ [3, 16, 0, 0] ++ namespaceId true n.nsid)
  | 0x05 => ofNs active fun _ => packFields 4096 [(12, 4, 0), (16, 4, 0), (20, 4, 0x100)]
  | 0x06 => .ok (List.replicate 4096 0)
  | 0x08 => ofNs active fun n => packFields 4096 [(1, 1, 1), (2, 1, 0x7F), (3, 1, s.fpi n), (4, 4, n.group + 1), (14, 1, 1)]
  | 0x10 => .ok (listed live)
  | 0x11 => ofNs allocated s.identifyNamespace
  | 0x12 =>
    match allocated with
    | some n =>
      let ids := (sortNat (n.attached.filter (cntid ≤ ·))).take 2047
      .ok (padBytes 4096 (leBytes 2 ids.length ++ idList 2 ids))
    | none => .error stInvalidNamespace
  | 0x13 =>
    let ids := (sortNat ((s.host.controllers.map (·.cntlid) ++ s.host.peerControllers.map (·.1)).filter (cntid ≤ ·))).take 2047
    .ok (padBytes 4096 (leBytes 2 ids.length ++ idList 2 ids))
  | 0x1C => .ok (packFields 4096 [(0, 8, 1)])
  | _ => .error stInvalidField

/-! Log pages (Table 4.4). -/

/-- R97: the header of a vendor page: version, number of entries, measure. -/
def State.pageHeader (s : State) (entries : Nat) : Bytes := packFields 64 [(0, 1, 1), (1, 1, entries), (8, 8, s.measure)]

/-- The sets that exist. -/
def State.sets (s : State) : List Nat := (List.range 4).filter fun z => s.flag (QDL_GEOM.VALID z)

/-- Member slots of a set, as bits. -/
def State.memberMask (s : State) (set : Nat) : Nat :=
  (List.range 48).foldl (fun m u => if s.flag (QDL_MEM.VALID set u) then m ||| 2 ^ s.slotOf set u else m) 0

/-- Table 4.5. -/
def State.geometryEntry (s : State) (set : Nat) : Bytes :=
  let prom := s.rd (RBD_SSTAT.PROM set)
  packFields 128 [(0, 1, set), (1, 1, s.rd (QDL_GEOM.KDATA set)), (2, 1, s.rd (QDL_GEOM.MPAR set)), (3, 1, s.rd (QDL_GEOM.SPARE set)),
    (4, 2, s.rd (QDL_GEN.GEN set)), (6, 1, prom), (8, 2, if prom = 0 then 0 else s.rd (QDL_GEN.GEN_NEXT set)), (10, 2, (s.geom set).f),
    (16, 8, s.memberMask set), (24, 8, s.rd64 (QDL_CAP.addr set)), (32, 8, (s.allocatedExtents set).length * 262144)]

/-- Failed members of a set, by slot. -/
def State.failedSlots (s : State) (set : Nat) : List Nat :=
  ((List.range 48).filter fun u => s.flag (QDL_MEM.VALID set u) && s.flag (QDL_MEM.FAILED set u)).map (s.slotOf set)

/-- Blocks that the lost-block map holds of a set: the rows its entries mark. -/
def State.lostBlocks (s : State) (set : Nat) : Nat :=
  ((s.store.lost.filter (·.set == set)).map fun e => ((List.range 8).filter (bitOf e.rmask)).length).foldl (· + ·) 0

/-- R240: ETA from the stripes completed per second, a number the spec leaves open; unknown while none completes. -/
def State.rebuildEta (s : State) (set perSecond : Nat) : Nat :=
  let left := s.rd64 (RBD_TOTAL.addr set) - s.rd64 (RBD_DONE.addr set)
  if left = 0 then 0 else if perSecond = 0 then 0xFFFFFFFF else min (left / perSecond) 0xFFFFFFFE

/-- Table 4.6: an idle set reads nothing from survivors; else the rate over the last second is not stated (R240). -/
def State.rebuildEntry (s : State) (set rate perSecond : Nat) : Bytes :=
  let f := (s.failedSlots set ++ [255, 255, 255]).take 3
  packFields 128 [(0, 1, set), (1, 1, s.rd (RBD_SSTAT.STATE set)), (2, 1, s.rd (RBD_SSTAT.FAILED set)), (4, 1, f.getD 0 255),
    (5, 1, f.getD 1 255), (6, 1, f.getD 2 255), (7, 1, s.rd (RBD_SSTAT.PRIO set)), (8, 8, s.rd64 (RBD_DONE.addr set)),
    (16, 8, s.rd64 (RBD_TOTAL.addr set)), (24, 4, if s.rd (RBD_SSTAT.STATE set) = 0 then 0 else rate), (28, 4, s.rebuildEta set perSecond),
    (32, 8, s.lostBlocks set)]

/-- STATE of Table 4.11: a running operation is suspended while the Caller grants no walk, and waits to be resumed while no module
that leads walks it. -/
def State.opState (s : State) (slot st : Nat) : Nat :=
  if st ≠ 1 then st
  else if (s.longOp slot).any (·.state == 1) && s.walksHere slot then (if s.granted 5 then 1 else 2)
  else if s.linkUp && (if slot = 8 then s.link.peerLeads != 0 else bitOf s.link.peerLeads slot) then 1 else 3

/-- Table 4.11: an operation shows its newest durable record, and none while it has none (R108). The rate and the estimate are the
lead's own and not stated; an operation that does not run here has no rate, and one that is over no time left. -/
def State.longOpEntry (s : State) (slot rate eta : Nat) : Bytes :=
  match if (s.longOp slot).any (·.durable.isNone) then none else s.opShown slot with
  | none => packFields 64 [(0, 1, slot)]
  | some (st, r) =>
    let here := st == 1 && (s.longOp slot).any (·.state == 1)
    opEntry slot (s.opState slot st) r (if here then rate else 0) (if here then eta else if st = 4 || st = 5 then 0 else 0xFFFFFFFF)

/-- R96: SMART Critical Warning: bit 4 while the store does not cover 1 GB. -/
def State.criticalWarning (s : State) : Nat := if s.flag NRG_STAT.COVER then 0 else 0x10

/-- Composite temperature, K: the hottest SoC junction. -/
def State.compositeKelvin (s : State) : Nat :=
  let t := s.rd CAL_TJ.TJMAX
  if t < 128 then 273 + t else 17 + t

/-- SSTAT of log page 0x81 (NVMe 2.0): never sanitized, completed, in progress, failed. -/
def State.sanitizePage (s : State) : Bytes :=
  match s.opShown 8 with
  | none => packFields 512 [(0, 2, 0xFFFF)]
  | some (st, r) =>
    packFields 512 [(0, 2, if st = 4 then 0xFFFF else progressProg r), (2, 2, if st = 4 then 1 else if st = 5 then 3 else 2)]

def State.anaPage (s : State) : Bytes :=
  packFields 16 [(0, 8, s.host.anaChanges.foldl (· + ·) 0), (8, 2, 8)] ++ (List.range 8).flatMap fun g =>
    let ids := sortNat ((s.host.namespaces.filter fun n => n.group == g && !n.deleted).map (·.nsid))
    packFields 32 [(0, 4, g + 1), (4, 4, ids.length), (8, 8, s.host.anaChanges.getD g 0), (16, 1, s.anaState g)] ++ idList 4 ids

/-- Opcodes of Tables 4.1 and 3.2, for log page 0x05. -/
def adminOpcodes : List Nat := [0x02, 0x06, 0x08, 0x09, 0x0A, 0x0C, 0x0D, 0x10, 0x11, 0x15, 0x18, 0x7F, 0x80, 0x84]
def ioOpcodes : List Nat := [0x00, 0x01, 0x02, 0x05, 0x08, 0x09, 0x0C, 0x0D, 0x0E, 0x11, 0x15, 0x19]
def effectsPage : Bytes :=
  let row := fun l : List Nat => (List.range 256).flatMap fun o => leBytes 4 (if l.contains o then 1 else 0)
  row adminOpcodes ++ row ioOpcodes ++ List.replicate 2048 0

/-- The content of a log page, and the state after it is read (log page 0x04 starts again); free values where the spec
leaves a field open. Page 0x02 for an NSID other than 0xFFFFFFFF is an invalid field (DESIGN CHOICE, log 153). -/
def State.logPage (s : State) (c : Controller) (nsid lid : Nat) : Except Nat (Bytes × State) :=
  match lid with
  | 0x01 => .ok (padBytes (256 * 64) (c.errors.flatMap fun (n, qid, cid, st) =>
      packFields 64 [(0, 8, n), (8, 2, qid), (10, 2, cid), (12, 2, st * 2)]), s)
  | 0x02 =>
    if nsid ≠ 0xFFFFFFFF then .error stInvalidField
    else
      let (d, t) := s.draw
      .ok (leBytes 1 s.criticalWarning ++ leBytes 2 s.compositeKelvin ++ Config.freeBytes 509 d, t)
  | 0x03 => .ok (packFields 512 [(0, 1, s.admin.runningSlot + (if s.admin.nextSlot ≠ s.admin.runningSlot then s.admin.nextSlot * 16 else 0)),
      (8, 8, leNat (imageFr (s.image 1))), (16, 8, leNat (imageFr (s.image 2)))], s)
  | 0x04 => .ok (padBytes 4096 (idList 4 (if 1024 < c.changedNs.length then [0xFFFFFFFF] else sortNat c.changedNs)), s.onController c.cntlid fun x => { x with changedNs := [] })
  | 0x05 => .ok (effectsPage, s)
  | 0x0C => .ok (s.anaPage, s)
  | 0x81 => .ok (s.sanitizePage, s)
  | 0xC0 => .ok (s.pageHeader s.sets.length ++ s.sets.flatMap s.geometryEntry, s)
  | 0xC1 =>
    let (d, t) := s.drawMany 8
    .ok (s.pageHeader s.sets.length ++ s.sets.flatMap fun z => s.rebuildEntry z (d (2 * z)) (d (2 * z + 1)), t)
  | 0xC2 =>
    let (d, t) := s.drawMany 18
    .ok (s.pageHeader 9 ++ (List.range 9).flatMap fun z => s.longOpEntry z (d (2 * z)) (d (2 * z + 1)), t)
  | _ => .error stLogPage

end Sys2Proof.Machine
end

