-- ==== Sys2Proof/Machine/Admin.lean ====
section
/-! DEFINITION. The admin commands: Identify, log pages, features, namespaces, firmware storing, Fabrics (chapters Admin
Commands and Long Operations, RDMA Transport). -/

set_option Elab.async false

namespace Sys2Proof.Machine

/-! Reading. -/

/-- Return data for an admin command and complete it. -/
def State.answerData (s : State) (key : CmdKey) (data : Bytes) (dword0 : Nat := 0) : State :=
  (s.sendData key [(0, data)]).endAdmin key stOk dword0

/-- R95, Table 4.1: Get Log Page; the offset and length are multiples of 4. -/
def execGetLogPage (e : AdminEntry) (nsid lid offset length : Nat) (s : State) : Host.Outcome State Fault Refusal :=
  onSoc s fun s => (s.enterAdmin e).adminRun e.key true fun s =>
    if offset % 4 ≠ 0 || length % 4 ≠ 0 then s.endAdmin e.key stInvalidField
    else match s.controller e.key.ctrl with
    | none => s.endAdmin e.key stInvalidField
    | some c =>
      match s.logPage c nsid lid with
      | .error st => s.endAdmin e.key st
      | .ok (page, s) => s.answerData e.key ((page.drop offset).take length)

/-- R93, R94. -/
def execIdentify (e : AdminEntry) (cns nsid cntid : Nat) (s : State) : Host.Outcome State Fault Refusal :=
  onSoc s fun s => (s.enterAdmin e).adminRun e.key true fun s =>
    match s.controller e.key.ctrl with
    | none => s.endAdmin e.key stInvalidField
    | some c =>
      match s.identify c cns nsid cntid with
      | .error st => s.endAdmin e.key st
      | .ok d => s.answerData e.key d

/-- Table 4.1: Abort never aborts. -/
def execAbort (key : CmdKey) (s : State) : Host.Outcome State Fault Refusal :=
  onSoc s fun s => s.adminRun key false fun s => s.endAdmin key stOk 1

/-- R77: Keep Alive restarts the timer. -/
def execKeepAlive (key : CmdKey) (s : State) : Host.Outcome State Fault Refusal :=
  onSoc s fun s => s.adminRun key true fun s =>
    if (s.controller key.ctrl).any (·.direct) then s.endAdmin key stInvalidOpcode
    else (s.onController key.ctrl fun c => { c with kaAt := s.now }).endAdmin key stOk

/-- Table 4.1: up to 16 outstanding. -/
def execAsynchronousEventRequest (key : CmdKey) (s : State) : Host.Outcome State Fault Refusal :=
  onSoc s fun s => s.adminRun key true fun s =>
    match s.controller key.ctrl with
    | none => s.endAdmin key stInvalidField
    | some c =>
      if 16 ≤ c.aers.length then s.endAdmin key stAerLimit
      else s.onController key.ctrl fun x => { x with aers := x.aers ++ [key.cid] }

/-- R47, R89: an opcode outside Table 3.2, after what every command meets first; on an admin queue one outside Table 4.1. -/
def execUnknownIoOpcode (e : IoEntry) (s : State) : Host.Outcome State Fault Refusal :=
  onData s fun s =>
    if e.key.qid = 0 then s.adminRun e.key false fun s => s.endAdmin e.key stInvalidOpcode else s.refuse e ((s.ioCheck e).getD stInvalidOpcode)

/-! Features (Table 4.7). -/

/-- The features of Table 4.7 that are supported, and those that may be saved. -/
def featureKnown (fid : Nat) : Bool :=
  [0x01, 0x02, 0x04, 0x05, 0x07, 0x0B, 0x0E, 0x0F, 0x81, 0x82, 0x83, 0xC0].contains fid
def featureSaveable (fid : Nat) : Bool := fid == 0x04 || fid == 0x0B || fid == 0x82

/-- Default values of the features. -/
def featureDefault (fid : Nat) : Nat :=
  if fid = 0x04 then 368 else if fid = 0x07 then 127 * 65536 + 127 else if fid = 0x0F then 0 else if fid = 0x83 then 1 else 0

/-- A feature's value set on a controller; the reservation mask is kept per namespace. -/
def featureSlot (fid nsid : Nat) : Nat := if fid = 0x82 then fid + 256 * nsid else fid

/-- The saved value of a feature, else its default. -/
def State.savedFeature (s : State) (fid nsid : Nat) : Nat :=
  match s.cfg.features.find? fun f => f.1 == fid && (fid != 0x82 || f.2.1 == nsid) with
  | some f => f.2.2
  | none => featureDefault fid

/-- The current value of a feature. -/
def State.feature (s : State) (c : Controller) (fid nsid : Nat) : Nat :=
  if fid = 0x0B then c.aec
  else if fid = 0x0F then c.kato
  else if fid = 0xC0 then
    match s.namespace nsid with
    | some n => (if n.writeBack then 1 else 0) + (if n.configuredWb then 2 else 0)
    | none => 0
  else match c.features.find? (·.1 == featureSlot fid nsid) with
  | some f => f.2
  | none => s.savedFeature fid nsid

/-- R98: Keep Alive in steps of 100 ms within its range (Table 4.7). -/
def katoStored (v : Nat) : Nat := (max 1000 (min v 60000) + 99) / 100 * 100

/-- What a Set Features does: the status that refuses it, or the value stored. -/
def State.featureCheck (s : State) (fid nsid value : Nat) : Except Nat Nat :=
  match fid with
  | 0x02 => if value % 32 = 0 then .ok value else .error stInvalidField
  | 0x05 => if value % 131072 = 0 then .ok value else .error stInvalidField
  | 0x07 =>
    if value % 65536 = 65535 ∨ value / 65536 % 65536 = 65535 then .error stInvalidField
    else .ok (min (value / 65536 % 65536) 127 * 65536 + min (value % 65536) 127)
  | 0x0E | 0xC0 => .error stNotChangeable
  | 0x0F => .ok (katoStored value)
  | 0x82 => if (s.namespace nsid).isSome || nsid = 0xFFFFFFFF then .ok value else .error stInvalidNamespace
  | 0x83 => if bitOf value 0 then .ok 1 else .error stNotChangeable
  | _ => .ok value

/-- The namespaces that a Set of the reservation mask acts on: NSID 0xFFFFFFFF stands for all that are attached to the controller
(NVMe 2.0). Other features have no namespace. -/
def State.featureScope (s : State) (ctrl fid nsid : Nat) : List Nat :=
  if fid = 0x82 ∧ nsid = 0xFFFFFFFF then (s.host.namespaces.filter fun n => !n.deleted && n.attached.contains ctrl).map (·.nsid) else [nsid]

/-- R98: Set Features. -/
def State.setFeature (s : State) (key : CmdKey) (fid : Nat) (save : Bool) (nsid value : Nat) : State :=
  if !featureKnown fid then s.endAdmin key stInvalidField
  else if save && !featureSaveable fid then s.endAdmin key stNotSaveable
  else match s.featureCheck fid nsid value with
  | .error st => s.endAdmin key st
  | .ok v =>
    let ids := s.featureScope key.ctrl fid nsid
    let s := s.onController key.ctrl fun c =>
      if fid = 0x0B then { c with aec := v }
      else if fid = 0x0F then { c with kato := v }
      else if fid = 0x81 then { c with hostId := v }
      else if fid = 0x01 then c
      else { c with features := ids.foldl (fun l n => putBy (·.1) (featureSlot fid n, v) l) c.features }
    let put := fun (l : List (Nat × Nat × Nat)) (n : Nat) => (fid, n, v) :: l.filter fun f => !(f.1 == fid && f.2.1 == n)
    let s := if save then s.onCfg fun x => { x with features := ids.foldl put x.features } else s
    s.endAdmin key stOk (if fid = 0x07 then v else 0)

def execSetFeatures (e : AdminEntry) (fid : Nat) (save : Bool) (nsid value : Nat) (s : State) : Host.Outcome State Fault Refusal :=
  onSoc s fun s => (s.enterAdmin e).adminRun e.key false fun s => s.setFeature e.key fid save nsid value

/-- Capabilities of a feature (NVMe 2.0): saveable, namespace specific, changeable. -/
def featureCapabilities (fid : Nat) : Nat :=
  (if featureSaveable fid then 1 else 0) + (if fid = 0x82 ∨ fid = 0x83 ∨ fid = 0xC0 then 2 else 0) +
  (if fid = 0x0E ∨ fid = 0xC0 then 0 else 4)

/-- R98: Get Features: SEL 0 current, 1 default, 2 saved, 3 capabilities. Timestamp and host identifier come as data. -/
def State.getFeature (s : State) (key : CmdKey) (fid sel nsid : Nat) : State :=
  match s.controller key.ctrl with
  | none => s.endAdmin key stInvalidField
  | some c =>
    if !featureKnown fid || 3 < sel then s.endAdmin key stInvalidField
    else if (fid = 0xC0 || fid = 0x82) && (s.namespace nsid).isNone then
      s.endAdmin key (if nsid = 0xFFFFFFFF then stInvalidField else stInvalidNamespace)
    else if sel = 3 then s.endAdmin key stOk (featureCapabilities fid)
    else if fid = 0x0E then s.answerData key (leBytes 6 (s.now / 10 ^ 6) ++ [0, 0])
    else if fid = 0x81 then s.answerData key (leBytes 16 c.hostId)
    else s.endAdmin key stOk (if sel = 0 then s.feature c fid nsid else if sel = 1 then featureDefault fid else s.savedFeature fid nsid)

def execGetFeatures (e : AdminEntry) (fid sel nsid : Nat) (s : State) : Host.Outcome State Fault Refusal :=
  onSoc s fun s => (s.enterAdmin e).adminRun e.key true fun s => s.getFeature e.key fid sel nsid

/-! Namespace commands and their forwarding (R90–R92). -/

/-- R90: run a namespace command where the group is led: here, on the peer, or nowhere. -/
def State.atLead (s : State) (key : CmdKey) (opcode nsid g : Nat) (operands : Bytes) (here : State → State) : State :=
  if s.leads g then here s
  else if s.linkUp && bitOf s.link.peerLeads g then
    (s.onAdmin fun a => { a with forwards := a.forwards ++ [⟨key, opcode, nsid⟩] }).emit
      (.message 0 (leBytes 2 key.ctrl ++ leBytes 2 key.qid ++ leBytes 2 key.cid ++ leBytes 1 opcode ++ leBytes 4 nsid ++ operands))
  else s.endAdmin key stAnaInaccessible

/-- Set extents of a set that no namespace, deleted extent or Promenade uses, in rising order; while a Promenade builds,
extents of the next layout outside the plan (R267). -/
def State.freeExtents (s : State) (set : Nat) : List Nat :=
  let taken := (s.allocatedExtents set).map (·.2.2) ++ ((s.host.namespaces.filter fun n => n.set == set && n.deleted).flatMap (·.extents))
  if s.rd (RBD_SSTAT.PROM set) = 1 then
    let g := s.geom set
    let gn := s.geomNext set
    let old := (s.store.moves.filter fun m => m.set == set && m.state != .freed).map (·.source) ++
      (s.store.deletedExtents.filter fun d => d.set == set && !d.next).map (·.ext)
    let dest := (s.store.moves.filter (·.set == set)).map (·.dest) ++
      (s.store.deletedExtents.filter fun d => d.set == set && d.next).map (·.ext) ++ taken
    (List.range (gn.extents (s.commonCapacity set gn.n))).filter fun x => !dest.contains x &&
      !(old.any fun o => rangesOverlap (gn.extentRange x) (g.extentRange o))
  else
    (List.range ((s.geom set).extents (s.memberCapacity set))).filter fun x => !taken.contains x &&
      !(s.store.deletedExtents.any fun d => d.set == set && d.ext == x)

/-- R91: the lowest namespace identifier not in use. -/
def State.freeNsid (s : State) : Option Nat :=
  ((List.range 8192).map (· + 1)).find? fun n => !(s.host.namespaces.any (·.nsid == n))

/-- R91: create a namespace in a group this module leads. One that is encrypted at rest exists only with its key: where none can be
generated the command ends as Namespace Not Ready (DESIGN CHOICE, log 151). -/
def State.createNamespace (s : State) (key : CmdKey) (nsze lbaf g : Nat) : State :=
  let p := s.host.policies.getD g ⟨0, true, true⟩
  let count := (nsze + 262143) / 262144
  let free := if s.flag (QDL_GEOM.VALID p.set) then s.freeExtents p.set else []
  if free.length < count then s.endAdmin key stNoCapacity
  else match s.freeNsid with
  | none => s.endAdmin key stNoIdentifier
  | some n =>
    let ns : Namespace := {
      nsid := n
      group := g
      set := p.set
      blocks := count * 262144
      lbaf := lbaf
      configuredWb := p.writeBack
      writeBack := false
      encrypted := p.encrypted
      extents := free.take count
      attached := []
      formatting := false
      resv := ⟨0, none, [], 0⟩
      deleted := false
      blob := [] }
    let t := s.onHost fun h => { h with namespaces := h.namespaces ++ [{ ns with writeBack := s.writeBackNow ns }] }
    let t := if p.encrypted then t.installKey n else t
    if p.encrypted && (t.namespace n).all (·.blob.isEmpty) then s.endAdmin key stNotReady
    else t.reportAna.endAdmin key stOk n

/-- R91: create: NSZE against NCAP, the group, the format (one outside Table 3.3 is an Invalid Format: DESIGN CHOICE, log 151); then
at the group's lead. -/
def execNamespaceManagementCreate (e : AdminEntry) (nsze ncap lbaf anagrpid : Nat) (s : State) : Host.Outcome State Fault Refusal :=
  onSoc s fun s => (s.enterAdmin e).adminRun e.key false fun s =>
    if nsze ≠ ncap then s.endAdmin e.key stThin
    else if anagrpid = 0 || 8 < anagrpid then s.endAdmin e.key stInvalidField
    else if 2 < lbaf then s.endAdmin e.key stInvalidFormat
    else s.atLead e.key 0x0D 0 (anagrpid - 1) (leBytes 8 nsze ++ leBytes 1 lbaf ++ leBytes 1 anagrpid) fun s => s.createNamespace e.key nsze lbaf (anagrpid - 1)

/-- R91: delete: detached everywhere; its capacity is freed once its commands have completed. -/
def State.deleteNamespace (s : State) (nsid : Nat) : State :=
  match s.namespace nsid with
  | none => s
  | some n =>
    let s := s.onNamespace nsid fun n => { n with attached := [], deleted := true }
    (s.each n.attached fun c s => s.namespaceChanged c nsid).reportAna.reapNamespaces

/-- The namespace a command names, not deleted. -/
def State.liveNamespace (s : State) (nsid : Nat) : Option Namespace := (s.namespace nsid).filter (!·.deleted)

def execNamespaceManagementDelete (key : CmdKey) (nsid : Nat) (s : State) : Host.Outcome State Fault Refusal :=
  onSoc s fun s => s.adminRun key false fun s =>
    match s.liveNamespace nsid with
    | none => s.endAdmin key stInvalidNamespace
    | some n =>
      if n.formatting then s.endAdmin key stFormatInProgress
      else s.atLead key 0x0D nsid n.group [] fun s => (s.deleteNamespace nsid).endAdmin key stOk

/-- R90: the lead's status of a command passed to it is posted. -/
def execAdminCommandForward (key : CmdKey) (status dword0 : Nat) (s : State) : Host.Outcome State Fault Refusal :=
  onSoc s fun s =>
    if s.admin.forwards.any (·.key == key) then
      (s.onAdmin fun a => { a with forwards := a.forwards.filter (·.key != key) }).endAdmin key status dword0
    else s

/-- R92: attach: every controller exists on either module, its host is admitted by the mask, and it is not attached already. -/
def State.attachNamespace (s : State) (key : CmdKey) (n : Namespace) (ctrls : List Nat) : State :=
  if ctrls.isEmpty || !(ctrls.all fun c => (s.controller c).any (s.maskAdmits n.nsid) || s.maskAdmitsPeer n.nsid c) then
    s.endAdmin key stControllerList
  else if ctrls.any n.attached.contains then s.endAdmin key stAttached
  else
    let s := s.onNamespace n.nsid fun n => { n with attached := n.attached ++ ctrls }
    (s.each ctrls fun c s => s.namespaceChanged c n.nsid).endAdmin key stOk

def execNamespaceAttach (e : AdminEntry) (nsid : Nat) (controllers : List Nat) (s : State) : Host.Outcome State Fault Refusal :=
  onSoc s fun s => (s.enterAdmin e).adminRun e.key false fun s =>
    match s.liveNamespace nsid with
    | none => s.endAdmin e.key stInvalidNamespace
    | some n => s.atLead e.key 0x15 nsid n.group (leBytes 1 0 ++ controllers.flatMap (leBytes 2)) fun s => s.attachNamespace e.key n controllers

/-- R92: detach; a namespace being formatted stays attached (Table 4.13). -/
def State.detachNamespace (s : State) (key : CmdKey) (n : Namespace) (ctrls : List Nat) : State :=
  if n.formatting then s.endAdmin key stFormatInProgress
  else if ctrls.isEmpty then s.endAdmin key stControllerList
  else if !(ctrls.all n.attached.contains) then s.endAdmin key stNotAttached
  else
    let s := s.onNamespace n.nsid fun n => { n with attached := n.attached.filter fun c => !ctrls.contains c }
    (s.each ctrls fun c s => s.namespaceChanged c n.nsid).endAdmin key stOk

def execNamespaceDetach (e : AdminEntry) (nsid : Nat) (controllers : List Nat) (s : State) : Host.Outcome State Fault Refusal :=
  onSoc s fun s => (s.enterAdmin e).adminRun e.key false fun s =>
    match s.liveNamespace nsid with
    | none => s.endAdmin e.key stInvalidNamespace
    | some n => s.atLead e.key 0x15 nsid n.group (leBytes 1 1 ++ controllers.flatMap (leBytes 2)) fun s => s.detachNamespace e.key n controllers

/-! Firmware (R99–R101). -/

/-- R99: a piece: offset and length multiples of 4 KiB, but for a final piece that ends on any dword; within 64 MiB; no
overlap with a piece held. The status, and the pieces after. -/
def stagePiece (staging : List (Nat × Bytes)) (offset : Nat) (data : Bytes) : Except Nat (List (Nat × Bytes)) :=
  if offset % 4096 ≠ 0 || data.length % 4 ≠ 0 || data.isEmpty || 64 * 2 ^ 20 < offset + data.length then .error stInvalidField
  else if staging.any fun p => offset < p.1 + p.2.length && p.1 < offset + data.length then .error stOverlap
  else .ok (putBy (·.1) (offset, data) staging)

/-- The status of staging a piece, and the state after. -/
def State.stageImage (s : State) (offset : Nat) (data : Bytes) : Nat × State :=
  match stagePiece s.admin.staging offset data with
  | .error st => (st, s)
  | .ok l => (stOk, s.onAdmin fun a => { a with staging := l })

def execFirmwareImageDownload (e : AdminEntry) (offset : Nat) (data : Bytes) (s : State) : Host.Outcome State Fault Refusal :=
  onSoc s fun s => (s.enterAdmin e).adminRun e.key false fun s =>
    let (st, s) := s.stageImage offset data
    s.endAdmin e.key st

/-- The staged image, if the pieces leave no gap. -/
def stagedImage (staging : List (Nat × Bytes)) : Option Bytes :=
  staging.foldl (fun acc p => match acc with
    | some bs => if p.1 = bs.length then some (bs ++ p.2) else none
    | none => none) (some [])

/-- R100: the checks of an image, in order; the peer's formats as last shown. -/
def State.imageGood (s : State) (image : Bytes) : Bool :=
  64 ≤ image.length && numAt image 0 4 == 1 && numAt image 4 4 == image.length && Config.imageSigned image &&
  Config.imageLmsSigned image && s.admin.minSvn ≤ imageSvn image &&
  (match s.link.peer with
   | some p => decide (numAt image 22 2 ≤ p.scfOwn) && decide (p.scfOwn ≤ numAt image 24 2) && decide (p.scfMin ≤ numAt image 20 2) &&
      decide (numAt image 20 2 ≤ p.scfMax)
   | none => true)

/-- Table 4.9: slot 0 selects the slot that does not run. -/
def State.commitSlot (s : State) (slot : Nat) : Nat := if slot = 0 then 3 - s.admin.runningSlot else slot

/-- Table 4.9, R100: commit actions 0, 1 and 3: check the staged image and store it. The status, and the state after. -/
def State.storeImage (s : State) (slot : Nat) : Nat × State :=
  if 2 < slot then (stFirmwareSlot, s)
  else match stagedImage s.admin.staging with
  | none => (stFirmwareImage, s)
  | some image =>
    if s.imageGood image then
      (stOk, s.onAdmin fun a => { a with images := putBy FirmwareImage.slot ⟨s.commitSlot slot, image⟩ a.images, staging := [] })
    else (stFirmwareImage, s)

/-- Table 4.9: commit action 1. -/
def State.storeImageNext (s : State) (slot : Nat) : Nat × State :=
  let (st, t) := s.storeImage slot
  if st = stOk then (stOk, t.onAdmin fun a => { a with nextSlot := s.commitSlot slot, recheck := false }) else (st, t)

/-- Table 4.9: commit action 2. Slot 0 names no slot here. -/
def State.markImage (s : State) (slot : Nat) : Nat × State :=
  if slot = 0 ∨ 2 < slot then (stFirmwareSlot, s)
  else if (s.image slot).isEmpty && slot ≠ s.admin.runningSlot then (stFirmwareImage, s)
  else (stOk, s.onAdmin fun a => { a with nextSlot := slot, recheck := true })

/-- R101: whether activation is prohibited: the peer is itself activating, until its state copies after the reload tell otherwise, or
a cut-in, hand-over or hand-back is under way. -/
def State.activationProhibited (s : State) : Bool :=
  s.admin.peerActivating || s.rd LTK_CSTAT.STATE != 0 || s.rd LTK_STAT.CHANGE != 0

/-- Table 4.9: commit action 3: checked and stored; activation then begins (R82, R83). -/
def State.commitActivate (s : State) (slot : Nat) : Nat × State :=
  if s.activationProhibited then (stActivationProhibited, s)
  else
    let (st, t) := s.storeImage slot
    if st = stOk then (stOk, t.onAdmin fun a => { a with activating := some (s.commitSlot slot) }) else (st, t)

/-- An admin commit: its status is posted. -/
def State.commitDone (r : Nat × State) (key : CmdKey) : State := r.2.endAdmin key r.1

/-- Table 4.9: commit action 0; the commit actions 4 to 7 end as Invalid Field. -/
def execFirmwareCommitStore (key : CmdKey) (slot action : Nat) (s : State) : Host.Outcome State Fault Refusal :=
  onSoc s fun s => s.adminRun key false fun s => if action = 0 then State.commitDone (s.storeImage slot) key else s.endAdmin key stInvalidField
def execFirmwareCommitStoreNext (key : CmdKey) (slot : Nat) (s : State) : Host.Outcome State Fault Refusal :=
  onSoc s fun s => s.adminRun key false fun s => State.commitDone (s.storeImageNext slot) key
def execFirmwareCommitMark (key : CmdKey) (slot : Nat) (s : State) : Host.Outcome State Fault Refusal :=
  onSoc s fun s => s.adminRun key false fun s => State.commitDone (s.markImage slot) key
def execFirmwareCommitActivate (key : CmdKey) (slot : Nat) (s : State) : Host.Outcome State Fault Refusal :=
  onSoc s fun s => s.adminRun key false fun s => State.commitDone (s.commitActivate slot) key

/-- R102: the trial ends, at the first rejoin as follow or the first I/O served: the minimum security version rises. -/
def State.endTrial (s : State) : State :=
  if s.admin.trial then
    (s.onAdmin fun a => { a with trial := false, minSvn := max a.minSvn (imageSvn a.running) }).notify (.trialEnded s.runningFr)
  else s

/-- The image has rejoined the peer as follow; with no peer, it has served I/O. -/
def State.trialOver (s : State) : Bool := !s.link.following.isEmpty || (!s.link.peerSeated && s.host.served)

def execFirmwareTrialEnd (s : State) : Host.Outcome State Fault Refusal := onSoc s fun s => if s.trialOver then s.endTrial else s

/-- R102: 120 s without the trial's end: the slot that ran before runs at the next reset. -/
def execFirmwareTrialTimeout (s : State) : Host.Outcome State Fault Refusal :=
  onSoc s fun s => if s.admin.trial && Decidable.decide (120 * 10 ^ 9 ≤ s.now) then s.onAdmin fun a => { a with nextSlot := a.previousSlot } else s

/-! Fabrics (R117–R120). -/

/-- Type 0x1 statuses of Table 5.2. -/
def stConnectFormat : Nat := 0x180
def stConnectBusy : Nat := 0x181
def stConnectParameters : Nat := 0x182
def stConnectHost : Nat := 0x184

/-- The lowest free CNTLID of this module's position (Table 4.3). -/
def State.freeCntlid (s : State) : Option Nat :=
  ((List.range 0x0FFF).map fun n => s.cfg.position * 0x1000 + n + 1).find? fun n => (s.controller n).isNone

/-- A new fabric controller. -/
def State.newController (s : State) (id : Nat) (c : ConnectCapsule) : Controller where
  cntlid := id
  hostId := c.hostId
  hostNqn := c.hostNqn
  direct := false
  enabled := false
  ready := false
  shst := 0
  cc := 0
  kato := c.kato
  kaAt := s.now
  aers := []
  aec := s.savedFeature 0x0B 0
  queues := []
  features := []
  errors := []
  changedNs := []

/-- Queues the Number of Queues feature allows. -/
def State.queueLimit (s : State) (c : Controller) : Nat := s.feature c 0x07 0 % 65536 + 1

/-- Table 5.2: the checks of a Connect on a queue pair, in order: the failure status, or the controller it binds to (none
for a new one). -/
def State.connectCheck (s : State) (qp : Nat) (c : ConnectCapsule) : Except Nat (Option Controller) :=
  if c.recfmt ≠ 0 then .error stConnectFormat
  else if (s.hostEntries c.hostNqn c.hostId).isEmpty then .error stConnectHost
  else if c.qid ≠ s.ctx qp Ctx.QID then .error stConnectParameters
  else if c.qid = 0 then
    if c.cntlid ≠ 0xFFFF || c.sqsize + 1 ≠ s.ctx qp Ctx.RQ_DEPTH then .error stConnectParameters
    else if 4096 ≤ s.host.controllers.length || s.freeCntlid.isNone then .error stConnectBusy
    else .ok none
  else match s.controller c.cntlid with
  | some x =>
    if x.hostNqn == c.hostNqn && x.hostId == c.hostId && !(x.queues.any fun q => q.1 == c.qid && s.ctx q.2 Ctx.STATE == qpReady) &&
       !(s.host.commands.any fun h => h.key.ctrl == x.cntlid && h.key.qid == c.qid) && c.qid ≤ s.queueLimit x &&
       c.sqsize + 1 == s.ctx qp Ctx.RQ_DEPTH then .ok (some x)
    else .error stConnectParameters
  | none => .error stConnectParameters

/-- The response of a Connect on its queue pair; a failure leaves the queue pair unbound. Connect Controller Busy is posted
with DNR clear. -/
def State.connectReply (s : State) (qp ctrl qid cid status dword0 : Nat) : State :=
  let dnr := adminDnr status && status != stConnectBusy
  (s.emit (.completion ⟨ctrl, qid, cid⟩ status dnr dword0)).queueResponse qp ⟨ctrl, qid, cid⟩ status dnr dword0 none

/-- R127: Ronhenko pins an admin queue's context, where fewer than four of its set are pinned. -/
def State.pinContext (s : State) (idx : Nat) : State :=
  if s.pinsOfSet idx < 4 then s.setCtx idx Ctx.PIN 1 else s

/-- A queue pair is bound to a controller's queue in the place of one that ended (R118), its authentication due where the host has a key (R119); an admin queue's
context is pinned (R127). -/
def State.bindQueue (s : State) (ctrl qid qp : Nat) (due : Bool) : State :=
  let s := s.onController ctrl fun x => { x with queues := x.queues.filter (·.1 != qid) ++ [(qid, qp)] }
  let s := (s.setCtx qp Ctx.CNTLID ctrl).onQp qp fun q => { q with
    bound := true
    authDue := due }
  if qid = 0 then s.pinContext qp else s

/-- R117, R119: Fabrics Connect: a controller is created, or an I/O queue bound; Dword 0 carries the CNTLID, and bit 16 asks
for authentication where the host access list holds a key. -/
def State.connect (s : State) (qp cid : Nat) (c : ConnectCapsule) : State :=
  if (s.qp qp).bound || s.ctx qp Ctx.STATE ≠ qpReady then s
  else match (match s.sanitizeStatus false with | some st => Except.error st | none => s.connectCheck qp c) with
  | .error st => s.connectReply qp c.cntlid c.qid cid st 0
  | .ok old =>
    let auth := if (s.chapKey c.hostNqn c.hostId).isSome then 1 else 0
    let id := match old with | some x => x.cntlid | none => s.freeCntlid.getD 0
    let s := match old with
      | some _ => s
      | none => s.onHost fun h => { h with controllers := h.controllers ++ [s.newController id c] }
    let s := s.bindQueue id c.qid qp (auth == 1)
    s.connectReply qp id c.qid cid stOk (id + auth * 65536)

def execConnect (qp cid : Nat) (c : ConnectCapsule) (s : State) : Host.Outcome State Fault Refusal := onSoc s fun s => s.connect qp cid c

/-- Table 5.3: CAP of Table 3.1. -/
def capValue : Nat := 1023 + 1 * 2 ^ 16 + 4 * 2 ^ 24 + 1 * 2 ^ 37

/-- CSTS: RDY, SHST. -/
def Controller.csts (c : Controller) : Nat := (if c.ready then 1 else 0) + c.shst * 4

/-- R120: Property Get; no Fabrics command applies on the direct port (R372). -/
def execPropertyGet (key : CmdKey) (offset size : Nat) (s : State) : Host.Outcome State Fault Refusal :=
  onSoc s fun s =>
    match s.controller key.ctrl with
    | none => s
    | some c =>
      if c.direct then s.endAdmin key stInvalidOpcode
      else if s.authDue key then s.endConnection key else s.fabricsRun key fun s =>
      match (if offset = 0x00 && size = 8 then some capValue
             else if offset = 0x08 && size = 4 then some 0x00020000
             else if offset = 0x14 && size = 4 then some c.cc
             else if offset = 0x1C && size = 4 then some c.csts
             else none) with
      | some v => s.endAdmin key stOk v
      | none => s.endAdmin key stInvalidField

/-- R120, R77, R81: CC written: EN set makes the controller ready, EN cleared resets it, SHN asks for shutdown. -/
def State.writeCc (s : State) (ctrl v : Nat) : State :=
  match s.controller ctrl with
  | none => s
  | some c =>
    let was := c.enabled
    let s := s.onController ctrl fun x => { x with cc := v }
    let s := if bitOf v 0 then (if was then s else s.onController ctrl fun x => { x with enabled := true, ready := true })
      else if was then s.resetController ctrl false else s
    if bitOf v 0 && v / 2 ^ 14 % 4 ≠ 0 && c.shst = 0 then s.onController ctrl fun x => { x with shst := 1 } else s

def execPropertySet (key : CmdKey) (offset size value : Nat) (s : State) : Host.Outcome State Fault Refusal :=
  onSoc s fun s =>
    match s.controller key.ctrl with
    | none => s
    | some c =>
      if c.direct then s.endAdmin key stInvalidOpcode
      else if s.authDue key then s.endConnection key
      else s.fabricsRun key fun s =>
        if offset = 0x14 && size = 4 then (s.writeCc key.ctrl value).endAdmin key stOk else s.endAdmin key stInvalidField

/-- R119: an AUTH_Negotiate message of NVMe 2.0 that the module can go on from (log 157): no secure channel concatenation, and a
DH-HMAC-CHAP descriptor that offers SHA-256, SHA-384 or SHA-512 and one of the six DH groups. -/
def negotiable (m : Bytes) : Bool :=
  numAt m 6 1 == 0 && (List.range (numAt m 7 1)).any fun i =>
    let d := (m.drop (8 + 64 * i)).take 64
    numAt d 0 1 == 1 && ((d.drop 4).take (min 30 (numAt d 2 1))).any (fun h => 1 ≤ h.toNat && h.toNat ≤ 3) &&
      ((d.drop 34).take (min 30 (numAt d 3 1))).any (fun g => g.toNat ≤ 5)

/-- R119: Authentication Send: negotiate, reply, then the host's success; the message's second byte is its identifier
(NVMe 2.0), and byte 8 of a reply says whether the host presents a challenge. A message out of turn, or a reply that does not prove the key, fails the transaction. -/
def execAuthenticationSend (e : AdminEntry) (message : Bytes) (s : State) : Host.Outcome State Fault Refusal :=
  onSoc s fun s =>
    let s := s.enterAdmin e
    match s.controller e.key.ctrl with
    | none => s
    | some c =>
      if c.direct then s.endAdmin e.key stInvalidOpcode else s.fabricsRun e.key fun s =>
      match s.queuePairOf e.key.ctrl e.key.qid, s.chapKey c.hostNqn c.hostId with
      | none, _ => s
      | some _, none => s.endAdmin e.key stInvalidField
      | some q, some k =>
        let id := numAt message 1 1
        let step := (s.qp q).auth
        let enter := fun n => (s.onQp q (·.authTo n)).endAdmin e.key stOk
        if id = 0x00 then (if negotiable message then enter 2 else s.endConnection e.key)
        else if id = 0x02 && step = 3 then
          (if Config.chapVerifies k message then enter (if numAt message 8 1 = 1 then 6 else 4) else s.endConnection e.key)
        else if id = 0x04 && step = 5 then enter 0
        else s.endConnection e.key

/-- R119: Authentication Receive: the module's challenge, then its success; a host that presented no challenge is done
with that. -/
def execAuthenticationReceive (e : AdminEntry) (length : Nat) (s : State) : Host.Outcome State Fault Refusal :=
  onSoc s fun s =>
    let s := s.enterAdmin e
    match s.controller e.key.ctrl with
    | none => s
    | some c =>
      if c.direct then s.endAdmin e.key stInvalidOpcode else s.fabricsRun e.key fun s =>
      match s.queuePairOf e.key.ctrl e.key.qid, s.chapKey c.hostNqn c.hostId with
      | none, _ => s
      | some _, none => s.endAdmin e.key stInvalidField
      | some q, some k =>
        let step := (s.qp q).auth
        let send := fun n => (s.onQp q (·.authTo n)).answerData e.key (Config.bytesOf length (Config.chapByte k step))
        if step = 2 then send 3 else if step = 4 then send 0 else if step = 6 then send 5 else s.endConnection e.key

end Sys2Proof.Machine
end

