-- ==== Sys2Proof/Machine/Clocks.lean ====
section
/-! DEFINITION. The clocks and the time counter: PLL lock, the root fault, forward steps, the PTP lock state machine and
starting the grid (chapter The Measure and the Clocks). -/

set_option Elab.async false

namespace Sys2Proof.Machine

/-! Lock states of Table 2.10. -/
def lockIdle : Nat := 0
def lockAcquiring : Nat := 1
def lockLocked : Nat := 2
def lockHoldover : Nat := 3
def lockUnlocked : Nat := 4

/-- R32: what one PTP-domain cycle adds, in units of 2^-32 ns: 2 ns × (1 + RATE × 2^-40). The rounding of the part below
2^-32 ns is not stated (Config.rateRoundsUp). -/
def tickAmount (rate : Word) : Nat :=
  (2 ^ 33 + rate.toInt / 128).toNat + (if rate.toNat % 128 ≠ 0 && Config.rateRoundsUp rate then 1 else 0)

/-- The counter with its fraction, as one number of 2^-32 ns. -/
def Clock.fixed (c : Clock) : Nat := c.timeNs.toNat * 2 ^ 32 + c.timeFrac.toNat

/-- The counter set from a number of 2^-32 ns, modulo 2^64 ns. -/
def Clock.setFixed (c : Clock) (t : Nat) : Clock :=
  { c with timeNs := BitVec.ofNat 64 (t / 2 ^ 32), timeFrac := BitVec.ofNat 32 t }

/-- The rate correction in effect. -/
def State.rate (s : State) : Word := BitVec.ofNat 32 (s.rd MEAS_RATE.RATE)

/-- R27, R32: one cycle of the PTP domain, which does not run before the PLL has locked. -/
def State.tick (s : State) : State :=
  if s.flag (CLK_DOM.RUN 21) then (s.onClock fun c => c.setFixed (c.fixed + tickAmount s.rate)).levelCycles 1 else s

/-- R40: run the counter on to the cycle in which it first reaches `t` nanoseconds (no change if it has). -/
def State.runTo (s : State) (t : Nat) : State :=
  let d := t * 2 ^ 32 - s.clock.fixed
  let a := tickAmount s.rate
  (s.onClock fun c => c.setFixed (c.fixed + (d + a - 1) / a * a)).levelCycles ((d + a - 1) / a)

/-- R27: the PLL locks after the root is stable, and the derived domains start. -/
def execPllLock (s : State) : Host.Outcome State Fault Refusal :=
  onAlways s fun s =>
    if s.clock.heldInReset || !s.power.on || s.power.dormant then s else
    (s.wrs [(CLK_STAT.PLL_LOCK, 1), (CLK_STAT.ROOT_OK, 1)]).each (List.range 25) fun n s => s.wr (CLK_DOM.RUN n) 1

/-- R33: add the accepted forward steps to the counter, modulo 2^64. -/
def State.addSteps (s : State) : State :=
  s.onClock fun c => { c with timeNs := c.timeNs + c.stepSum, stepSum := 0 }

/-- R33: the states in which a forward step is accepted while the grid runs. -/
def stepAccepted (run : Bool) (lock : Nat) : Bool := !run || lock == lockIdle || lock == lockAcquiring || lock == lockUnlocked

/-- R33, R589: a write of MEAS_STEP_HI requests a forward step of the time counter. -/
def execMeasStepRequest (who : Requester) (value : Word) (s : State) : Host.Outcome State Fault Refusal :=
  onSoc s fun s => s.commandWrite who (MEAS_STEP.addr + 4) value fun s =>
    if stepAccepted s.gridRuns (s.rd MEAS_STAT.STATE) then
      s.onClock fun c => { c with stepSum := c.stepSum + s.pairRequest who MEAS_STEP.addr value }
    else s.wr MEAS_STAT.STEP_REJ 1

/-- R33: while the grid does not run, an accepted step is added within 10 cycles; otherwise the boundary adds it. -/
def execTimeStepApply (s : State) : Host.Outcome State Fault Refusal :=
  onSoc s fun s => if s.gridRuns then s else s.addSteps

/-- R35: an offset is in tolerance if its magnitude does not exceed TOL. -/
def State.inTolerance (s : State) (offset : Word) : Bool := decide (offset.toInt.natAbs ≤ s.rd MEAS_TOL.TOL)

/-- Table 2.5: the next lock state of a write to MEAS_OFFS, from the state, the judgement and the new count. -/
def lockAfterOffset (lock : Nat) (inTol : Bool) (count : Nat) : Nat :=
  if lock = lockIdle then lockIdle
  else if inTol then
    if lock = lockHoldover then lockLocked
    else if (lock = lockAcquiring ∨ lock = lockUnlocked) ∧ count = 16 then lockLocked else lock
  else if lock = lockLocked ∨ lock = lockHoldover then lockAcquiring else lock

/-- R34, R35: a servo write of the offset from the master. In Free, where Table 2.5 has no event for it, it is only stored: the
count stays (DESIGN CHOICE, log 143). -/
def State.offsetWritten (s : State) (offset : Word) : State :=
  let lock := s.rd MEAS_STAT.STATE
  let s := s.wr MEAS_OFFS.OFFS offset.toNat
  if lock = lockIdle then s else
  let inTol := s.inTolerance offset
  let count := if inTol then min 16 (s.rd MEAS_STAT.INTOL + 1) else 0
  (s.wrs [(MEAS_STAT.INTOL, count), (MEAS_STAT.STATE, lockAfterOffset lock inTol count)]).onClock
    fun c => { c with holdover := false }

def execMeasOffsWrite (offset : Word) (s : State) : Host.Outcome State Fault Refusal :=
  onSoc s fun s => s.commandWrite .ronhenko MEAS_OFFS.addr offset fun s => s.offsetWritten offset

/-- R35: a write of MEAS_CTL.SRC. A reserved value is not stored; a change to a port clears the count. -/
def State.sourceWritten (s : State) (src : Nat) : State :=
  if 4 < src then s
  else if src = 0 then (s.wrs [(MEAS_CTL.SRC, 0), (MEAS_STAT.STATE, lockIdle)]).onClock fun c => { c with holdover := false }
  else if s.rd MEAS_STAT.STATE = lockIdle ∨ s.rd MEAS_CTL.SRC ≠ src then
    (s.wrs [(MEAS_CTL.SRC, src), (MEAS_STAT.INTOL, 0), (MEAS_STAT.STATE, lockAcquiring)]).onClock
      fun c => { c with holdover := false }
  else s

def execMeasSrcWrite (src : Nat) (s : State) : Host.Outcome State Fault Refusal :=
  onSoc s fun s => s.sourceWritten src

/-- R35: two seconds in Locked without a write of MEAS_OFFS. -/
def execOffsetWriteTimeout (s : State) : Host.Outcome State Fault Refusal :=
  onSoc s fun s =>
    if s.rd MEAS_STAT.STATE = lockLocked then (s.wr MEAS_STAT.STATE lockHoldover).onClock fun c => { c with holdover := true }
    else s

/-- R35, Table 23.17: the holdover timer reaches HOLD. -/
def execHoldoverExpiry (s : State) : Host.Outcome State Fault Refusal :=
  onSoc s fun s =>
    if s.rd MEAS_STAT.STATE = lockHoldover then
      let s := (s.wr MEAS_STAT.STATE lockUnlocked).onClock fun c => { c with holdover := false }
      s.fault { cls := 6, code := 0x80, severity := 3, source := 2, data := (s.reg MEAS_STAT.addr).toNat, dataOff := 4 }
    else s

/-- R44: setting RUN starts the grid; the first measure is the one the counter stands in. -/
def execMeasRunSet (s : State) : Host.Outcome State Fault Refusal :=
  onSoc s fun s =>
    if s.gridRuns then s
    else ((s.wr MEAS_CTL.RUN 1).onClock fun c => { c with current := BitVec.ofNat 64 s.measureNumber }).onFlt fun x => { x with watchdogAt := s.now }

end Sys2Proof.Machine
end

