-- ==== Sys2Proof/Machine/Pools.lean ====
section
/-! DEFINITION. The pools of cells of the shared buffer (R154–R160): the attachments' reserves, the shared pool and the headrooms,
with what the Emzifen link retains (R299). -/

set_option Elab.async false

namespace Sys2Proof.Machine

/-- Bytes of a payload. A mirror copy's are the block's 4,096 and the 16 of its internal protection information; a record's
length in a state copy is the record's own (Config.stateRecordBytes). -/
def LinkPayload.size : LinkPayload → Nat
  | .empty => 0
  | .mirror _ => 4112
  | .bytes bs => bs.length
  | .state c => c.records.foldl (fun n r => n + Config.stateRecordBytes r.2) 64
  | .marker _ => 128
  | .resume _ => 32

/-- Cells of 256 bytes that a frame takes: header, payload and tag. -/
def LinkFrame.cells (f : LinkFrame) : Nat := (f.length + 48 + 255) / 256

/-- Bytes of a frame with its header and tag. -/
def LinkFrame.whole (f : LinkFrame) : Nat := f.length + 48

/-- R154: cells of a frame. -/
def cellsOf (bytes : Nat) : Nat := (bytes + 255) / 256

def Frame.cells (f : Frame) : Nat := f.reserve + f.shared + f.headroom

/-- Cells of the frames that satisfy a test. -/
def State.cellSum (s : State) (keep : Frame → Bool) (part : Frame → Nat) : Nat :=
  ((s.switch.frames.filter keep).map part).foldl (· + ·) 0

/-- R299: cells of the frames that the Emzifen link retains; they count against attachment 9. -/
def State.retainedCells (s : State) : Nat := (s.link.retained.map LinkFrame.cells).foldl (· + ·) 0

/-- Those of them that the reserve of attachment 9 holds; the others are in the shared pool. -/
def State.retainedReserve (s : State) : Nat :=
  min s.retainedCells (s.rd (SWC_ATT_MIN.CELLS 9) - s.cellSum (·.src == 9) (·.reserve))

def State.reserveUse (s : State) (a : Nat) : Nat := s.cellSum (·.src == a) (·.reserve) + if a = 9 then s.retainedReserve else 0
def State.headroomUse (s : State) (p c : Nat) : Nat := s.cellSum (fun f => f.src == p && f.cls == c) (·.headroom)
def State.sharedUse (s : State) (p c : Nat) : Nat := s.cellSum (fun f => f.src == p && f.cls == c) (·.shared)
def State.attachmentUse (s : State) (a : Nat) : Nat := s.cellSum (·.src == a) (·.cells) + if a = 9 then s.retainedCells else 0

/-- What the reserves and the headrooms keep from the shared pool. -/
def State.keptCells (s : State) : Nat :=
  ((List.range 12).map fun a => max (s.rd (SWC_ATT_MIN.CELLS a)) (s.reserveUse a)).foldl (· + ·) 0 +
  ((List.range 32).map fun i => max (s.rd (SWC_HDRM.CELLS (i / 8) (i % 8))) (s.headroomUse (i / 8) (i % 8))).foldl (· + ·) 0

/-- F: free cells of the shared pool. -/
def State.freeShared (s : State) : Nat :=
  524288 - s.keptCells - s.cellSum (fun _ => true) (·.shared) - (s.retainedCells - s.retainedReserve)

/-- SWC_FREE and SWC_DESC_FREE. -/
def State.showPools (s : State) : State :=
  s.wrs [(SWC_FREE.FREE, 524288 - s.cellSum (fun _ => true) Frame.cells - s.retainedCells), (SWC_DESC_FREE.FREE, 262144 - s.switch.frames.length)]

/-- R158: shared use is below α × F less `margin` cells. -/
def State.belowShare (s : State) (p c margin : Nat) : Bool :=
  (s.sharedUse p c + margin) * 64 < s.freeShared * 2 ^ s.rd (SWC_PFC.ALPHA p c)

/-- A port's class has sent XOFF and not yet XON (R159). -/
def State.xoffSent (s : State) (p c : Nat) : Bool := s.switch.xoff.any fun x => x.port == p && x.cls == c

/-- Where the cells of one copy come from: reserve, shared pool, headroom. -/
structure CellSplit where
  reserve : Nat
  shared : Nat
  headroom : Nat
  deriving DecidableEq, Repr

/-- R156–R160: the cells of a frame of `n` cells, or none when it is refused. -/
def State.takeCells (s : State) (src cls n : Nat) : Option CellSplit :=
  let r := min n (s.rd (SWC_ATT_MIN.CELLS src) - s.reserveUse src)
  let rest := n - r
  if 262144 ≤ s.switch.frames.length then none
  else if rest = 0 then some ⟨n, 0, 0⟩
  else if 4 ≤ src then
    if rest ≤ s.freeShared && s.attachmentUse src + n ≤ s.rd (SWC_ATT_MAX.CELLS src) then some ⟨r, rest, 0⟩ else none
  else if !s.xoffSent src cls && s.belowShare src cls 0 && rest ≤ s.freeShared then some ⟨r, rest, 0⟩
  else if s.flag (SWC_PFC.LOSSLESS src cls) && rest + s.headroomUse src cls ≤ s.rd (SWC_HDRM.CELLS src cls) then some ⟨r, 0, rest⟩
  else none

end Sys2Proof.Machine
end

