-- ==== Sys2Proof/Machine/Entry.lean ====
section
/-! DEFINITION. The power entry (chapter Power Entry): its states, latch, openings and record; and the Wallflower's digital
inputs, which the entry's changes move at once (R487). -/

set_option Elab.async false

namespace Sys2Proof.Machine

/-! Digital inputs. -/

/-- R487: digital input `i` takes a level; the edge is seen by the next sweep. -/
def State.setInput (s : State) (i : Nat) (level : Bool) : State :=
  let f : Fld := ⟨WFL_DIN.addr (i / 32), i % 32, i % 32⟩
  if s.flag f == level then s
  else (s.wr f (if level then 1 else 0)).onWall fun w => { w with edges := w.edges ++ [(i, level)] }

/-! States of Table 15.2. -/

def entryUnseated : Nat := 0
def entryDebounce : Nat := 1
def entryRamping : Nat := 2
def entryQualifying : Nat := 3
def entryOn : Nat := 4
def entryOpen : Nat := 5
def entryLatched : Nat := 6

def State.entryState (s : State) : Nat := s.rd EFU_STAT.STATE

/-- The entry takes a state; input 103 is 1 while it reads Open. -/
def State.setEntry (s : State) (st : Nat) : State := (s.wr EFU_STAT.STATE st).setInput 103 (st == entryOpen)

/-- The gate conducts or ramps: Ramping, Qualifying or On. -/
def State.gateOn (s : State) : Bool := entryRamping ≤ s.entryState && s.entryState ≤ entryOn

/-- PG_OUT released or low; it is input 102. -/
def State.setPg (s : State) (released : Bool) : State :=
  if s.flag EFU_STAT.PG == released then s
  else ((s.wr EFU_STAT.PG (if released then 1 else 0)).setInput 102 released).emit (.pin .pgOut released)

/-- The seating inputs: true while high, that is not seated. -/
def State.setSeats (s : State) (aHigh bHigh : Bool) : State :=
  ((s.wrs [(EFU_STAT.SEATA, if aHigh then 0 else 1), (EFU_STAT.SEATB, if bHigh then 0 else 1)]).setInput 98 aHigh).setInput 99 bHigh

def State.setEnable (s : State) (high : Bool) : State := (s.wr EFU_STAT.EN (if high then 1 else 0)).setInput 100 high

def State.setCycleIn (s : State) (low : Bool) : State := (s.wr EFU_STAT.CYCIN (if low then 1 else 0)).setInput 101 (!low)

def State.seated (s : State) : Bool := s.flag EFU_STAT.SEATA && s.flag EFU_STAT.SEATB

/-- R388: the start conditions. -/
def State.startConditions (s : State) (vin : Nat) : Bool :=
  s.seated && s.flag EFU_STAT.EN && (!s.flag EFU_STAT.CYCIN || !s.flag EFU_CFG.PEER_EN) && decide (10600 ≤ vin)

/-- R385, Table 15.8: the entry record. -/
def State.recordEntry (s : State) (cause ipeak vin : Nat) : State :=
  (s.onEntry fun e => { e with cause := cause, ipeak := ipeak, vin := vin }).wrs
    [(EFU_LAST.CAUSE, cause), (EFU_LAST.IPEAK, ipeak), (EFU_LAST.VIN, vin)]

/-- R391: the timer stops without a latch; its start is counted. -/
def State.stopTimer (s : State) : State := if s.flag EFU_STAT.LIMIT then (s.wr EFU_STAT.LIMIT 0).count EFU_LIMIT_EVTS.addr else s

/-- R395: the fault timer starts; from On the entry returns to Qualifying with PG_OUT low. -/
def State.startTimer (s : State) : State :=
  if s.flag EFU_STAT.LIMIT || !s.gateOn then s else
  let s := s.wr EFU_STAT.LIMIT 1
  if s.entryState = entryOn then ((s.setPg false).setEntry entryQualifying).count EFU_PG_DROPS.addr else s

/-- The module goes Off: nothing outside flash, the entry and the bank keeps a state. -/
def State.goOff (s : State) : State := s.onPower fun _ => { Power.atReset with on := false }

/-- R393: a latch: the gate and the module off, the bank disconnected with the energy it holds, no decision. -/
def State.latchEntry (s : State) (cause ipeak vin : Nat) : State :=
  if !s.gateOn then s else
  let s := ((((s.wr EFU_STAT.LIMIT 0).setPg false).recordEntry cause ipeak vin).setEntry entryLatched).emit (.gate false)
  let s := if s.rd NRG_STAT.STATE = 5 then s else s.wr NRG_STAT.STATE 6
  s.goOff

/-- R396: an opening: the gate off, the bank connected. -/
def State.openEntry (s : State) (cause ipeak vin : Nat) : State :=
  if !s.gateOn then s else
  ((((s.stopTimer).setPg false).recordEntry cause ipeak vin).setEntry entryOpen).emit (.gate false)

/-- R398: both modules assert toward each other: neither cycles, and each writes a fault record (Table 23.17). -/
def State.mutualCycle (s : State) : State :=
  s.fault { cls := 5, code := 0x80, severity := 1, source := 3, data := (s.reg EFU_STAT.addr).toNat % 2 ^ 32 }

/-- Table 15.5: what an opening event does, with CAUSE and the inputs it moves. -/
def State.openingEvent (s : State) (e : OpeningEvent) (ipeak vin : Nat) : State :=
  match e with
  | .seat a b => if a || b then (s.setSeats a b).openEntry 3 ipeak vin else s
  | .enable => (s.setEnable false).openEntry 4 ipeak vin
  | .peerCycle =>
    let s := s.setCycleIn true
    if s.flag EFU_STAT.PCYC then s.mutualCycle
    else if s.flag EFU_CFG.PEER_EN then s.openEntry 5 ipeak vin else s
  | .selfCycle => s.openEntry 6 ipeak vin
  | .overvoltage => s.openEntry 7 ipeak vin
  | .reverse => s.openEntry 8 ipeak vin
  | .undervoltage => s.openEntry 9 ipeak vin

/-! Commands. -/

/-- Table 15.2: the seating inputs change without an opening: both low starts the debounce; one high unseats. -/
def execSeatChange (seatA seatB : Bool) (s : State) : Host.Outcome State Fault Refusal :=
  onAlways s fun s =>
    let s := s.setSeats (!seatA) (!seatB)
    if s.entryState = entryUnseated && s.seated then s.setEntry entryDebounce
    else if (s.entryState = entryDebounce || s.entryState = entryLatched) && !s.seated then s.setEntry entryUnseated
    else if s.entryState = entryOpen && !s.power.on && !s.seated then s.setEntry entryUnseated
    else s

/-- Table 15.2: a start condition changes in Debounce; the 10 ms start again when all are met. -/
def execEntryStartConditionChange (enable cycleLow : Bool) (s : State) : Host.Outcome State Fault Refusal :=
  onAlways s fun s => (s.setEnable enable).setCycleIn cycleLow

/-- The start conditions have held for 10 ms. -/
def execEntryDebounceEnd (vin : Nat) (s : State) : Host.Outcome State Fault Refusal :=
  onAlways s fun s =>
    if s.entryState = entryDebounce && s.startConditions vin then ((s.setEntry entryRamping).wr EFU_VIN.MV vin).emit (.gate true) else s

/-- VDS is below 0.3 V. -/
def execRampComplete (s : State) : Host.Outcome State Fault Refusal :=
  onAlways s fun s => if s.entryState = entryRamping then s.setEntry entryQualifying else s

/-- R394: the count reaches 100,000; if the fault timer starts in the same cycle, PG_OUT stays low. -/
def execQualificationComplete (timerStarts : Bool) (s : State) : Host.Outcome State Fault Refusal :=
  onAlways s fun s =>
    if s.entryState = entryQualifying && !s.flag EFU_STAT.LIMIT then
      if timerStarts then s.startTimer else (s.setEntry entryOn).setPg true
    else s

/-- The Wallflower raises the rails and releases the module from reset: a cold power-up (R12). -/
def execRailSequence (s : State) : Host.Outcome State Fault Refusal :=
  onAlways s fun s => if s.entryState = entryOn && s.flag EFU_STAT.PG && !s.power.on then s.coldReset else s

def execCurrentLimitEngage (s : State) : Host.Outcome State Fault Refusal := onAlways s State.startTimer

def execCurrentLimitClear (s : State) : Host.Outcome State Fault Refusal := onAlways s State.stopTimer

/-- R391: the timer reaches 8 ms. -/
def execFaultTimerExpiry (ipeak vin : Nat) (s : State) : Host.Outcome State Fault Refusal :=
  onAlways s fun s => if s.flag EFU_STAT.LIMIT then s.latchEntry 1 ipeak vin else s

/-- R392: current above 60 A. -/
def execFastTrip (ipeak vin : Nat) (s : State) : Host.Outcome State Fault Refusal :=
  onAlways s fun s => s.latchEntry 2 ipeak vin

def execEntryOpening (event : OpeningEvent) (ipeak vin : Nat) (s : State) : Host.Outcome State Fault Refusal :=
  onAlways s fun s => s.openingEvent event ipeak vin

/-- Table 15.2: what clears a latch. -/
def execEntryLatchClear (by_ : LatchClear) (s : State) : Host.Outcome State Fault Refusal :=
  onAlways s fun s =>
    match by_ with
    | .enable => if s.entryState = entryLatched then (s.setEnable true).setEntry entryDebounce else s
    | .cycle => if s.entryState = entryLatched && s.flag EFU_CFG.PEER_EN then (s.setCycleIn false).setEntry entryDebounce else s
    | .seat a b =>
      if (a || b) && (s.entryState = entryLatched || s.entryState = entryDebounce) then (s.setSeats a b).setEntry entryUnseated else s

/-- R397, Table 15.2: the module is Off, OFF_MS has passed and the start conditions are met; an unseated module leaves
Open for Unseated. -/
def execEntryRestart (vin : Nat) (s : State) : Host.Outcome State Fault Refusal :=
  onAlways s fun s =>
    if s.entryState = entryOpen && !s.power.on then
      if !s.seated then s.setEntry entryUnseated
      else if s.startConditions vin then s.setEntry entryDebounce else s
    else s

/-- R397: the store's state in which an opened module is Off: Off, Failed, or Empty with no destage running. -/
def State.storeDone (s : State) : Bool :=
  s.rd NRG_STAT.STATE == 6 || s.rd NRG_STAT.STATE == 5 || (s.rd NRG_STAT.STATE == 0 && !(s.energy.decided && s.energy.writesImage))

/-- R397, R501: after an opening the module goes Off; a cycle that was held has then happened. -/
def execModuleOff (s : State) : Host.Outcome State Fault Refusal :=
  onAlways s fun s => if !s.gateOn && s.power.on && s.storeDone then s.goOff.wr WFL_STAT.CYCPEND 0 else s

/-- R385: below 8 V the entry controller is unpowered: the gate is off, the latch, the record and EFU_CFG are lost, and
with them the latch record of R560. -/
def execBiasLoss (s : State) : Host.Outcome State Fault Refusal :=
  onAlways s fun s =>
    let gone := fun a => a == EFU_CFG.addr || a == EFU_LAST.addr || (FLT_LATCH.addr 0 ≤ a && a < FLT_LATCH.addr 16)
    let s := if s.gateOn then s.emit (.gate false) else s
    let s := (((s.wrs [(EFU_STAT.LIMIT, 0), (FLT_STAT.LATCHV, 0)]).setPg false).setEntry entryUnseated).onEntry fun _ => Entry.atBias
    (s.onRegs fun l => l.filter fun c => !gone c.addr).onFlt fun x => { x with latched := none }

/-- R386: PEER_CYCLE_N is released after 10 ms. -/
def execPeerCycleRelease (s : State) : Host.Outcome State Fault Refusal :=
  onAlways s fun s => if s.flag EFU_STAT.PCYC then (s.wr EFU_STAT.PCYC 0).emit (.pin .peerCycle true) else s

end Sys2Proof.Machine
end

