-- ==== Sys2Proof/Machine/Vault.lean ====
section
/-! DEFINITION. The energy store, the power-fail decision, the vault's image and its restore (chapter Write-Back Cache,
Energy Store and Vault, and the energy rules of The Wallflower). -/

set_option Elab.async false

namespace Sys2Proof.Machine

/-! Energy (R276–R278, R494). -/

/-- A signed 16-bit channel value. -/
def signed16 (v : Nat) : Int := (BitVec.ofNat 16 v).toInt

/-- R494: E before its factors, as a numerator over 4 × 10^14 mJ, from the sum of 200 VBANK samples in mV. -/
def State.bankEnergy (s : State) (vbankSum : Nat) : Nat :=
  let e2 := 2 * (1600000 + 598 * s.rd WFL_ESR.ESR)
  47 * s.rd WFL_CAP.C * (vbankSum * vbankSum - e2 * e2)

def bankScale : Nat := 4 * 10 ^ 14

/-- The two bank temperatures in 0.1 °C: the colder and the hotter. -/
def State.bankTemps (s : State) : Int × Int :=
  let a := signed16 (s.rd (WFL_VAL.FILT 6))
  let b := signed16 (s.rd (WFL_VAL.FILT 7))
  (min a b, max a b)

/-- R281: the last test is older than twice TEST_DAYS. -/
def State.testOverdue (s : State) : Bool :=
  s.rd64 NRG_LASTTEST.addr + 2 * s.rd NRG_CFG.TEST_DAYS * 86400 < s.now / 10 ^ 9

/-- R276, R494: E_usable in mJ, rounded down, 0 where the factors leave less. -/
def State.usableEnergy (s : State) (vbankSum : Nat) : Nat :=
  let (cold, hot) := s.bankTemps
  let e : Int := (s.bankEnergy vbankSum : Int)
  let (e, d) := if cold < 100 then (e * (1000 - 2 * (100 - cold)), 1000) else (e, 1)
  let (e, d) := if 600 < hot then (e * (1000 - (hot - 600)), d * 1000) else (e, d)
  let (e, d) := if s.flag NRG_STAT.OVERDUE then (e * 3, d * 4) else (e, d)
  (e / ((bankScale * d : Nat) : Int)).toNat

/-- R277: D_energy in blocks. -/
def State.energyBlocks (s : State) : Nat :=
  if s.rd NRG_STAT.STATE = 5 ∨ s.rd VLT_STAT.STATE = 6 then 0
  else (s.rd NRG_EUSE.MJ - 60000) * 10 ^ 9 / (3750 * 4096)

/-- R96, R445: the change of COVER, or of the store's state, is told. -/
def State.coverEvent (s : State) : State :=
  s.each s.host.controllers fun c s => if bitOf c.aec 4 then s.completeAer c 1 0 2 else s

/-- R278: the energy condition after one computation. -/
def State.showCover (s : State) (enough : Bool) : State :=
  let run := if enough then min 100 (s.energy.coverRun + 1) else 0
  let s := s.onEnergy fun e => { e with coverRun := run }
  let met := if run = 100 then 1 else if run = 0 then 0 else s.rd NRG_STAT.COVER
  if met = s.rd NRG_STAT.COVER then s
  else
    let s := s.wr NRG_STAT.COVER met
    s.coverEvent.notify (.energyState (BitVec.ofNat 32 (s.reg NRG_STAT.addr).toNat))

/-- R277: the ceiling from the newest E_usable. -/
def State.showCeiling (s : State) : State :=
  let den := s.energyBlocks
  let cfg := s.rd VLT_CFG.DCFG * 10 ^ 9 / 4096
  (s.wrs [(VLT_DEN.D, den), (VLT_CEIL.D, min cfg den), (VLT_STAT.LIMITED, if den < cfg then 1 else 0)]).showCover
    (decide (10 ^ 9 / 4096 ≤ den))

/-- The Wallflower works: the module is on or Dormant. -/
def State.wallRuns (s : State) : Bool := s.power.on || s.power.dormant

/-- The store takes a state; sessions that subscribed are told. -/
def State.setStore (s : State) (st : Nat) : State :=
  if s.rd NRG_STAT.STATE = st then s else
  let s := s.wr NRG_STAT.STATE st
  s.notify (.energyState (BitVec.ofNat 32 (s.reg NRG_STAT.addr).toNat))

/-- R276, R494: one measurement. A discharge that reaches 750 mJ is over (Table 10.4). -/
def execEnergyMeasurement (vbankSum : Nat) (s : State) : Host.Outcome State Fault Refusal :=
  onAlways s fun s =>
    if !s.wallRuns then s else
    let level := s.bankEnergy vbankSum / bankScale
    let s := if s.rd NRG_STAT.STATE = 1 then s.count NRG_CHARGE_MJ.addr (level - s.energy.level) else s
    let s := s.onEnergy fun e => { e with level := level }
    let s := s.wr NRG_STAT.OVERDUE (if s.testOverdue then 1 else 0)
    let (cold, hot) := s.bankTemps
    let s := s.wrs [(NRG_EUSE.MJ, s.usableEnergy vbankSum), (NRG_STAT.DERATE, if cold < 100 ∨ 600 < hot then 1 else 0),
      (NRG_TEMP.C, (BitVec.ofInt 8 (hot / 10)).toNat), (EFU_VIN.MV, s.rd (WFL_VAL.RAW 0)), (EFU_IIN.MA, 10 * s.rd (WFL_VAL.RAW 1))]
    let s := if s.rd NRG_STAT.STATE = 4 && s.rd NRG_EUSE.MJ ≤ 750 then s.setStore 6 else s
    if s.power.on && !s.power.dormant && !s.clock.heldInReset then s.showCeiling
    else s.showCover (decide (10 ^ 9 / 4096 ≤ s.energyBlocks))

/-! The store (Table 10.4). -/

/-- Table 10.4, last row; R282: the store fails. -/
def State.failStore (s : State) : State :=
  if s.rd NRG_STAT.STATE = 5 then s else ((s.wr NRG_STAT.HEALTH 2).setStore 5).plainFault 5 1 4

/-- R282: health from EFULL; a store below 90 J fails. -/
def State.judgeStore (s : State) : State :=
  let e := s.rd NRG_EFULL.MJ
  if e < 90000 then s.failStore
  else if e < 240000 then (if s.rd NRG_STAT.HEALTH = 1 then s else (s.wr NRG_STAT.HEALTH 1).plainFault 5 1 4)
  else s.wr NRG_STAT.HEALTH 0

def execChargeComplete (s : State) : Host.Outcome State Fault Refusal :=
  onAlways s fun s =>
    if s.wallRuns && s.rd NRG_STAT.STATE == 1 && decide (98 * s.rd NRG_EFULL.MJ ≤ 100 * s.energy.level) then s.setStore 2 else s

def execChargeLevelDrop (s : State) : Host.Outcome State Fault Refusal :=
  onAlways s fun s =>
    if s.wallRuns && s.rd NRG_STAT.STATE == 2 && decide (100 * s.energy.level < 95 * s.rd NRG_EFULL.MJ) then s.setStore 1 else s

/-- R281: a capacity test is asked for. -/
def execNrgTestRequest (who : Requester) (s : State) : Host.Outcome State Fault Refusal :=
  onSoc s fun s => s.commandWrite who NRG_CMD.addr 1 fun s => s.onEnergy fun e => { e with testDue := true }

/-- R281: a due test starts in a phrase that grants it. -/
def execCapacityTestStart (s : State) : Host.Outcome State Fault Refusal :=
  onSoc s fun s =>
    if s.rd NRG_STAT.STATE == 2 && s.testIsDue && s.granted 8 && s.testFits then
      (s.setStore 3).onEnergy fun e => { e with testDue := false }
    else s

/-- R495: the measurement is done: capacitance, resistance, EFULL at 44.0 V, health. -/
def execCapacityTestDone (cap esr : Nat) (s : State) : Host.Outcome State Fault Refusal :=
  onAlways s fun s =>
    if s.wallRuns && s.rd NRG_STAT.STATE == 3 then
      let s := (s.wrs [(WFL_CAP.C, cap), (WFL_ESR.ESR, esr)]).count NRG_TESTS.addr
      let s := s.setReg NRG_LASTTEST.addr (BitVec.ofNat 64 (s.now / 10 ^ 9))
      ((s.wr NRG_EFULL.MJ (s.bankEnergy 8800000 / bankScale)).setStore 1).judgeStore
    else s

def execStoreFailure (unbalanced : Bool) (s : State) : Host.Outcome State Fault Refusal :=
  onAlways s fun s => if s.wallRuns && (unbalanced || s.rd NRG_EFULL.MJ < 90000) then s.failStore else s

/-! The power-fail decision (R286, R493, R593). -/

/-- R593: a decision now would write an image. -/
def State.wouldSeal (s : State) : Bool := (s.rd VLT_STAT.STATE == 1 || s.rd VLT_STAT.STATE == 5) && s.rd NRG_STAT.STATE != 5

/-- R493, R286: the decision: made once; the ports stop, no completion goes, member writes in flight are abandoned. -/
def State.powerFailDecision (s : State) : State :=
  if s.flag WFL_STAT.PFD || !s.wallRuns then s else
  let image := s.wouldSeal && !s.power.dormant && !s.clock.heldInReset
  let s := (s.wr WFL_STAT.PFD 1).count WFL_PFD.addr
  let s := if s.rd NRG_STAT.STATE = 5 ∨ s.rd NRG_STAT.STATE = 6 then s else (s.setStore 4).count NRG_DISCHARGES.addr
  let s := s.onEnergy fun e => { e with
    decided := true
    quiesced := false
    writesImage := image
    eStart := s.rd NRG_EUSE.MJ
    decidedAt := s.now
    decidedMeasure := s.measure }
  let s := s.onStore fun x => { x with ops := [], jobs := [] }
  if image then s.wr VLT_STAT.STATE 2 else s

def execPowerFailDecision (s : State) : Host.Outcome State Fault Refusal :=
  onAlways s fun s => if s.entryState = entryLatched then s else s.powerFailDecision

/-- R286 step 4: the domains powered off: network ports, drive ports, flow engines, and every cluster but the lowest that
is not Off (with its cores). -/
def State.quiesceDomains (s : State) : List Nat :=
  let keep := ((List.range 8).find? fun c => !s.clusterOff c).getD 0
  ((List.range 8).filter (· != keep)).flatMap (fun c => (64 + c) :: (List.range 8).map (8 * c + ·)) ++
    (List.range 8).map (72 + ·) ++ (List.range 16).map (112 + ·)

/-- R286: the quiesce ends; with no image to write the store is done (Table 10.4). -/
def execQuiesceComplete (s : State) : Host.Outcome State Fault Refusal :=
  onAlways s fun s =>
    if !s.energy.decided || s.energy.quiesced then s else
    let s := s.onEnergy fun e => { e with quiesced := true }
    let s := s.each (s.quiesceDomains.filter fun d => s.domainState d != 2) fun d s => s.powerOffDomain d
    if !s.energy.writesImage && s.rd NRG_STAT.STATE == 4 then s.setStore 6 else s

/-! The image (R287, Table 10.8). -/

/-- Order of copies in a section: by measure, those without one last. -/
def copyMeasure (c : HeldCopy) : Nat := c.meas.getD (2 ^ 64)

def insertCopy (c : HeldCopy) : List HeldCopy → List HeldCopy
  | [] => [c]
  | d :: ds => if copyMeasure c < copyMeasure d then c :: d :: ds else d :: insertCopy c ds

def insertMirror (c : MirrorCopy) : List MirrorCopy → List MirrorCopy
  | [] => [c]
  | d :: ds => if c.meas < d.meas then c :: d :: ds else d :: insertMirror c ds

/-- Copies of one kind and group in ascending measure. -/
def State.sectionCopies (s : State) (wb : Bool) (g : Nat) : List HeldCopy :=
  (s.store.copies.filter fun c => c.writeBack == wb && c.group == g).foldr insertCopy []

/-- R287 step 4: the committed mirror copies of a group, in ascending measure. -/
def State.sectionMirrors (s : State) (g : Nat) : List MirrorCopy :=
  (s.store.mirrors.filter fun c => c.committed && c.group == g).foldr insertMirror []

/-- The sections of an image in order: kind and group. The module writes a lead section for each group it leads or holds
copies of, and a mirror section for each group it follows or holds mirror copies of. -/
def State.sectionsToWrite (s : State) : List (Nat × Nat) :=
  let gs := List.range 8
  [(1, 255)] ++ (gs.filter fun g => s.leads g || !(s.sectionCopies true g).isEmpty).map ((2, ·)) ++
    (gs.filter fun g => !(s.sectionCopies false g).isEmpty).map ((3, ·)) ++
    (gs.filter fun g => s.link.following.contains g || !(s.sectionMirrors g).isEmpty).map ((4, ·))

/-- Copies that a section holds. -/
def State.sectionSize (s : State) (k : Nat × Nat) : Nat :=
  if k.1 = 2 then (s.sectionCopies true k.2).length else if k.1 = 3 then (s.sectionCopies false k.2).length
  else if k.1 = 4 then (s.sectionMirrors k.2).length else 0

/-- The directory entry of a section of which `n` copies are written. -/
def State.imageSection (s : State) (k : Nat × Nat) (whole : Bool) : ImageSection :=
  let first := if k.1 = 4 then ((s.sectionMirrors k.2).head?.map (·.meas)).getD 0
    else if k.1 = 1 then 0 else ((s.sectionCopies (k.1 == 2) k.2).head?.bind (·.meas)).getD 0
  ⟨k.1, k.2, whole, first, (if k.1 = 4 then s.link.committed else s.link.acked) - 1⟩

/-- R287 step 1: the metadata. -/
def State.vaultMeta (s : State) : VaultMeta where
  journal := s.store.journal
  peerJournal := s.store.peerJournal
  mapAllSet := s.store.mapAllSet
  stripeMap := s.store.stripeMap
  stripeMapNext := s.store.stripeMapNext
  rebuilt := s.store.rebuilt
  lost := s.store.lost
  moves := s.store.moves
  namespaces := s.host.namespaces
  scrubAt := (List.range 4).map fun set => s.rd64 (RBD_SPOS.addr set)

/-- The image area that does not hold the newest sealed image (R287). -/
def State.nextArea (s : State) : Nat := if s.energy.images.isEmpty then 0 else 1 - s.rd VLT_STAT.AREA

/-- The image with `whole` sections written and `extra` copies of the next. -/
def State.sealedImage (s : State) (whole extra : Nat) : VaultImage :=
  let all := s.sectionsToWrite
  let done := all.take whole
  let cut := (all.drop whole).take 1
  let kept := done.map (·, none) ++ cut.map (·, some extra)
  let takeN := fun {α : Type} (l : List α) (n : Option Nat) => match n with | none => l | some n => l.take n
  { iseq := s.rd64 VLT_ISEQ.addr + 1
    meas := s.energy.decidedMeasure
    time := s.energy.decidedAt
    eStart := s.energy.eStart
    eSeal := s.rd NRG_EUSE.MJ
    complete := all.length ≤ whole
    retired := false
    inputBack := s.gateOn
    area := s.nextArea
    sections := done.map (fun k => s.imageSection k true) ++ cut.map fun k => s.imageSection k false
    metadata := if 1 ≤ whole then some s.vaultMeta else none
    copies := kept.flatMap fun (k, n) => if k.1 = 2 ∨ k.1 = 3 then takeN (s.sectionCopies (k.1 == 2) k.2) n else []
    mirrors := kept.flatMap fun (k, n) => if k.1 = 4 then takeN (s.sectionMirrors k.2) n else [] }

/-- R287, R288: the last section is written, or energy or area runs out: the header is written and the image sealed. With
input present the module resets, and a held cycle follows (R397, R501); else it goes Off. -/
def execDestageSeal (whole extra : Nat) (s : State) : Host.Outcome State Fault Refusal :=
  onAlways s fun s =>
    if !(s.energy.quiesced && s.energy.writesImage && s.rd VLT_STAT.STATE == 2) then s else
    let i := s.sealedImage whole extra
    let s := s.onEnergy fun e => { e with images := i :: e.images.filter (·.area != i.area), writesImage := false }
    let s := (s.wrs [(VLT_STAT.STATE, 3), (VLT_STAT.AREA, i.area), (VLT_STAT.PARTIAL, if i.complete then 0 else 1)]).count VLT_DESTAGES.addr
    let s := (s.setReg VLT_ISEQ.addr (BitVec.ofNat 64 i.iseq)).setStore (if s.rd NRG_STAT.STATE = 5 then 5 else 6)
    if s.gateOn then
      let held := s.flag WFL_STAT.CYCPEND
      let s := s.rearmReset
      if held then (s.count WFL_CYCLES.addr).openEntry 6 0 (s.rd EFU_VIN.MV) else s
    else s.goOff.wr WFL_STAT.CYCPEND 0

/-- R593: no image is to be written and input holds the bus up: a module reset, 10 ms after the decision. -/
def execDecisionResetTimer (s : State) : Host.Outcome State Fault Refusal :=
  onAlways s fun s =>
    if s.energy.decided && !s.energy.writesImage && s.power.on && s.gateOn then
      let held := s.flag WFL_STAT.CYCPEND
      let s := s.rearmReset
      if held then (s.count WFL_CYCLES.addr).openEntry 6 0 (s.rd EFU_VIN.MV) else s
    else s

/-! Restore at power-up (R289–R293). -/

/-- The newest sealed image whose RETIRED bit is clear, among those whose header tag verifies. -/
def State.imageToRestore (s : State) (badTags : List Nat) : Option VaultImage :=
  (s.energy.images.filter fun i => !i.retired && !badTags.contains i.area).foldl (fun best i =>
    match best with
    | none => some i
    | some b => if b.iseq < i.iseq then some i else some b) none

/-- The stripes (or bits) of a page of the map mirror. -/
def pageBits (page : Nat) : List Nat := (List.range 32768).map (page * 32768 + ·)

/-- R591, R293: the maps from the map mirror; a page not copied in time has every stripe map bit set (R216) and its rebuild
bits clear (R234). Without a mirror every stripe map bit counts as set. -/
def State.loadMirror (s : State) : State :=
  match s.energy.mapMirror with
  | none => s.onStore fun x => { x with mapAllSet := [0, 1, 2, 3], stripeMap := [] }
  | some m =>
    let stale := fun (k set bit : Nat) => s.energy.stalePages.contains (k, set, bit / 32768)
    let fresh := m.stripeMap.filter fun (set, b) => !stale 0 set b
    let forced :=
      (s.energy.stalePages.filter fun p => p.1 == 0 && !m.mapAllSet.contains p.2.1).flatMap fun (_, set, page) => (pageBits page).map ((set, ·))
    let forcedNext := (s.energy.stalePages.filter fun p => p.1 == 1).flatMap fun (_, set, page) => (pageBits page).map ((set, ·))
    let s := s.onStore fun x => { x with
      mapAllSet := m.mapAllSet
      stripeMap := fresh ++ forced
      stripeMapNext := (m.stripeMapNext.filter fun (set, b) => !stale 1 set b) ++ forcedNext
      rebuilt := m.rebuilt.filter fun (set, z, b) => !stale (2 + z) set b }
    (s.each (m.scrubAt.zipIdx) fun (v, set) s => s.setReg (RBD_SPOS.addr set) (BitVec.ofNat 64 v)).onEnergy fun e => { e with stalePages := [] }

/-- R291: the journal and the maps from the metadata section. -/
def State.loadMeta (s : State) (m : VaultMeta) : State :=
  let s := s.onStore fun x => { x with
    journal := m.journal
    peerJournal := m.peerJournal
    journalHeld := true
    mapAllSet := m.mapAllSet
    stripeMap := m.stripeMap
    stripeMapNext := m.stripeMapNext
    rebuilt := m.rebuilt
    lost := m.lost
    moves := m.moves
    tagBlocks := []
    jseq := m.journal.foldl (fun l e => putPerSet l e.set (max (perSet l e.set) e.seq)) x.jseq }
  let s := s.onHost fun h => { h with namespaces := m.namespaces }
  s.each (m.scrubAt.zipIdx) fun (v, set) s => s.setReg (RBD_SPOS.addr set) (BitVec.ofNat 64 v)

/-- VLT_ISEQ and AREA from the images in flash. -/
def State.showImages (s : State) : State :=
  match s.energy.images.foldl (fun best i => match best with
      | none => some i
      | some b => if b.iseq < i.iseq then some i else some b) (none : Option VaultImage) with
  | some i => (s.setReg VLT_ISEQ.addr (BitVec.ofNat 64 i.iseq)).wr VLT_STAT.AREA i.area
  | none => s

/-- Table 10.7: the start-up self-check passes. -/
def execVaultSelfCheck (s : State) : Host.Outcome State Fault Refusal :=
  onSoc s fun s =>
    if s.rd VLT_STAT.STATE != 0 then s else
    let s := s.showImages
    if (s.imageToRestore []).isSome then s.wr VLT_STAT.STATE 4 else s.loadMirror.wr VLT_STAT.STATE 1

/-- R289, R293: the header slots are read: a header whose tag fails empties its area, with a record; the newest image left
is taken, its metadata restored, and the section summaries are exchanged. -/
def execVaultRestore (badTags : List Nat) (s : State) : Host.Outcome State Fault Refusal :=
  onSoc s fun s =>
    if s.rd VLT_STAT.STATE != 4 || s.energy.restoring.isSome || !s.flag MIN_STAT.FILLED then s else
    let bad := s.energy.images.filter fun i => badTags.contains i.area
    let s := s.each bad fun i s => s.plainFault 5 1 0x22 i.area
    let s := s.onEnergy fun e => { e with images := e.images.filter fun i => !badTags.contains i.area }
    match s.imageToRestore [] with
    | none => s.loadMirror.wr VLT_STAT.STATE 1
    | some i =>
      let s := s.onEnergy fun e => { e with restoring := some i.area, choices := [], installed := [], restored := [] }
      let s := match i.metadata with
        | some m => s.loadMeta m
        | none => s.loadMirror.plainFault 5 1 0x22 i.area
      s.emit (.message 1 (i.sections.flatMap fun k =>
        leBytes 1 k.group ++ leBytes 1 k.kind ++ leBytes 1 (if k.complete then 1 else 0) ++ leBytes 8 k.lastCommitted))

/-- The image being restored. -/
def State.restoringImage (s : State) : Option VaultImage :=
  s.energy.restoring.bind fun a => s.energy.images.find? (·.area == a)

/-- The best of the sections of one group: the higher LAST_COMMITTED, and lead copies over mirror copies. -/
def bestSection (l : List SectionSummary) (g : Nat) : Option SectionSummary :=
  (l.filter fun x => x.group == g && (x.kind == 2 || x.kind == 4)).foldl (fun best x => match best with
    | none => some x
    | some b => if b.lastCommitted < x.lastCommitted ∨ (b.lastCommitted = x.lastCommitted ∧ x.kind < b.kind) then some x else some b) none

/-- R290: the decision for one group. Where both sections are of one kind and measure, position 0's is taken. -/
def State.chooseSection (s : State) (i : VaultImage) (p : PeerSummary) (g : Nat) : RestoreChoice :=
  let own := bestSection (i.sections.map fun k => ⟨k.group, k.kind, k.lastCommitted, k.complete⟩) g
  if bitOf p.leads g && p.runSince < i.meas then ⟨g, .discard, true⟩
  else match own, bestSection p.sections g with
    | some o, none => ⟨g, .own, o.complete⟩
    | none, some q => ⟨g, .peer, q.complete⟩
    | none, none => ⟨g, .own, true⟩
    | some o, some q =>
      let mine := q.lastCommitted < o.lastCommitted || (o.lastCommitted == q.lastCommitted &&
        (decide (o.kind < q.kind) || (o.kind == q.kind && s.cfg.position == 0)))
      if mine then ⟨g, .own, o.complete⟩ else ⟨g, .peer, q.complete⟩

/-- R292: RETIRED is set; the vault is Armed. -/
def State.retireImage (s : State) : State :=
  match s.energy.restoring with
  | none => s
  | some a => (s.onEnergy fun e => { e with
      images := e.images.map fun i => if i.area == a then { i with retired := true } else i
      restoring := none }).wr VLT_STAT.STATE 1

/-- Table 10.7: when every group's sections are decided and its copies held, the vault is Retiring; with nothing to
restore, RETIRED is set at once (R292). -/
def State.tryEndRestore (s : State) : State :=
  if s.rd VLT_STAT.STATE == 4 && s.energy.restoring.isSome && (List.range 8).all s.energy.installed.contains then
    let s := (s.wr VLT_STAT.STATE 5).count VLT_RESTORES.addr
    if s.energy.restored.isEmpty then s.retireImage else s
  else s

/-- R290: with the peer's summaries, or without an answer, the decisions for all groups; a discarded group has nothing to
install. -/
def State.decideSections (s : State) (p : PeerSummary) : State :=
  match s.restoringImage with
  | none => s
  | some i =>
    if s.rd VLT_STAT.STATE != 4 || !s.energy.choices.isEmpty then s else
    let cs := (List.range 8).map (s.chooseSection i p)
    let done := (cs.filter fun c => c.choice == .discard).map (·.group)
    (s.onEnergy fun e => { e with choices := cs, installed := done }).tryEndRestore

def execSectionSummary (peer : PeerSummary) (s : State) : Host.Outcome State Fault Refusal := onSoc s fun s => s.decideSections peer

/-- R290: no peer answers within 1 s. -/
def execSummaryTimeout (s : State) : Host.Outcome State Fault Refusal := onSoc s fun s => s.decideSections ⟨[], 0, 0⟩

/-- Where a block lies by its address in the namespace, tag blocks included (R411). -/
def State.locate (s : State) (ns : Namespace) (lba : Nat) : Option Place :=
  if isTagLba lba then s.translateTag ns (tagFirst lba) else s.translate ns lba

/-- R291, R335: a copy from an image or a mirror becomes a held copy, durable, not yet posted. -/
def State.takeCopy (s : State) (b : RestoredBlock) : State :=
  match s.namespace b.nsid with
  | none => s
  | some ns =>
    match s.locate ns b.lba with
    | none => s
    | some p =>
      let c : HeldCopy := ⟨s.store.nextCopy, ns.group, b.nsid, b.lba, p.set, p.stripe, p.strip, p.row, p.gen, b.content, b.dealloc,
        b.tag, b.writeBack, some b.meas, true, none, false, false, false, none⟩
      (s.onStore fun x => { x with copies := x.copies ++ [c], nextCopy := x.nextCopy + 1 }).showDirty

def HeldCopy.block (c : HeldCopy) : RestoredBlock := ⟨c.nsid, c.lba, c.content, c.dealloc, c.tag, c.writeBack, c.meas.getD 0⟩
def MirrorCopy.block (c : MirrorCopy) : RestoredBlock := ⟨c.nsid, c.lba, c.content, c.dealloc, c.tag, true, c.meas⟩

/-- The blocks of a group that this module's image holds: of the better of its lead and mirror sections, and its
write-through copies. -/
def VaultImage.blocks (i : VaultImage) (g : Nat) : List RestoredBlock :=
  let wt := (i.copies.filter fun c => c.group == g && !c.writeBack).map HeldCopy.block
  match bestSection (i.sections.map fun k => ⟨k.group, k.kind, k.lastCommitted, k.complete⟩) g with
  | none => wt
  | some k => (if k.kind = 2 then (i.copies.filter fun c => c.group == g && c.writeBack).map HeldCopy.block
      else (i.mirrors.filter fun c => c.group == g).map MirrorCopy.block) ++ wt

/-- R290: the winner's blocks, the other's where the winner's section is cut short and for write-through copies. -/
def restoreBlocks (c : RestoreChoice) (own peer : List RestoredBlock) : List RestoredBlock :=
  let fill := fun (first rest : List RestoredBlock) =>
    first.filter (·.writeBack) ++ (if c.whole then [] else rest.filter fun b =>
      b.writeBack && !(first.any fun a => a.nsid == b.nsid && a.lba == b.lba)) ++ first.filter (!·.writeBack) ++ rest.filter (!·.writeBack)
  match c.choice with
  | .discard => []
  | .own => fill own peer
  | .peer => fill peer own

/-- The namespace whose extents hold a stripe of a set. -/
def State.stripeOwner (s : State) (set gen stripe : Nat) : Option Namespace :=
  s.host.namespaces.find? fun ns => ns.set == set && ns.extents.contains (stripe / (s.geomOf set gen).perExtent)

/-- R228, R335: a live entry of the peer's journal becomes an entry of this module's, under a slot of its own; it waits while no
slot is free (R224). -/
def State.adoptEntry (s : State) (e : JournalEntry) : State :=
  match s.freeJournalSlot with
  | none => s
  | some slot =>
  let s := s.onStore fun x => { x with peerJournal := x.peerJournal.filter fun q => !(q.set == e.set && q.stripe == e.stripe) }
  let s := s.journalRecord { e with slot := slot, state := 1, persisted := false }
  match s.store.journal.find? (·.slot == slot) with
  | some e => s.finishEntry e
  | none => s

/-- R291: finish the live entries, own and the peer's, of a group's stripes in assembled sets; copies whose stripe has no
entry open it and close. -/
def State.finishGroup (s : State) (g : Nat) : State :=
  let mine := fun e : JournalEntry => e.state != 3 && s.store.assembled.contains e.set &&
    (s.stripeOwner e.set e.gen e.stripe).any (·.group == g)
  let s := (s.each (s.store.journal.filter mine) fun e s => s.finishEntry e).each (s.store.peerJournal.filter mine) fun e s => s.adoptEntry e
  s.each (s.store.copies.filter fun c => c.group == g && !c.accumulated && s.store.assembled.contains c.set) fun c s =>
    match s.store.copies.find? (·.id == c.id) with
    | some c => if c.accumulated then s else (s.accumulate c).closeStripe c.set c.stripe
    | none => s

/-- R291: the winner of a group's token installs its copies; the other module has sent what it holds. -/
def execRestoreInstall (group : Nat) (fromPeer : List RestoredBlock) (s : State) : Host.Outcome State Fault Refusal :=
  onData s fun s =>
    match s.restoringImage, s.energy.choices.find? (·.group == group) with
    | some i, some c =>
      if s.energy.installed.contains group || !(s.leads group || bitOf s.link.peerLeads group) then s
      else
        let blocks := if s.leads group then restoreBlocks c (i.blocks group) fromPeer else []
        let first := s.store.nextCopy
        let s := s.each blocks fun b s => s.takeCopy b
        let ids := (s.store.copies.filter fun c => first ≤ c.id).map (·.id)
        let s := s.onEnergy fun e => { e with restored := e.restored ++ ids, installed := group :: e.installed }
        (s.finishGroup group).tryEndRestore
    | _, _ => s

/-- R292: every restored copy has been freed. -/
def execVaultRetire (s : State) : Host.Outcome State Fault Refusal :=
  onSoc s fun s => if s.rd VLT_STAT.STATE == 5 && s.energy.restored.isEmpty then s.retireImage else s

/-- Table 10.7: a flash fault. -/
def execVaultFault (s : State) : Host.Outcome State Fault Refusal :=
  onSoc s fun s => if s.rd VLT_STAT.STATE = 6 then s else (s.wr VLT_STAT.STATE 6).plainFault 5 1 0x22

/-! Assembly (R228, R326, R549). -/

/-- R549: a set's registers from the stored configuration. -/
def State.loadSet (s : State) (set : Nat) : State :=
  let page := fun c : RegCell => decide (QDL_GEOM.addr set ≤ c.addr) && decide (c.addr < QDL_GEOM.addr set + 256)
  if s.regs.any page then s else (s.cfg.sets.filter page).foldl (fun s c => s.setReg c.addr c.val) s

/-- R327: the key in force, drawn from the key store's random source at the first registration, and then sent to the peer. -/
def State.ownKey (s : State) : Nat × State :=
  if s.rd64 LTK_KEY.addr != 0 then (s.rd64 LTK_KEY.addr, s) else
  let (bs, s) := s.random 6
  let k := 0xC1 * 2 ^ 56 + s.cfg.position * 2 ^ 48 + leNat bs
  let s := s.setReg LTK_KEY.addr (BitVec.ofNat 64 k)
  (k, if s.linkUp then s.emit (.message 2 (leBytes 1 2 ++ leBytes 8 k)) else s)

/-- R326: register on one member, asking for Persist Through Power Loss where its drive supports it, and acquire the reservation if
it holds none. -/
def State.registerOn (s : State) (slot : Nat) : State :=
  let (k, s) := s.ownKey
  let persist := s.slots.reports.any fun r => r.1 == slot && r.2.persists
  let s := s.onToken fun t => { t with registered := slot :: t.registered.filter (· != slot) }
  (s.emit (.memberResv slot (.register k persist))).emit (.memberResv slot (.acquire k))

/-- The slots of a set's present members. -/
def State.memberSlots (s : State) (set : Nat) : List Nat :=
  ((List.range 48).filter fun u => s.flag (QDL_MEM.VALID set u) && !s.flag (QDL_MEM.FAILED set u)).map fun u => s.slotOf set u

/-- R326: at assembly, once the grid runs, the module registers on every member. -/
def execSetAssembly (set : Nat) (s : State) : Host.Outcome State Fault Refusal :=
  onSoc s fun s =>
    let s := s.loadSet set
    if s.flag (QDL_GEOM.VALID set) && s.gridRuns then s.each (s.memberSlots set) fun d s => s.registerOn d else s

/-- The set answers I/O from now on. -/
def State.assembleSet (s : State) (set : Nat) : State :=
  let s := s.loadSet set
  if s.store.assembled.contains set || !s.flag (QDL_GEOM.VALID set) then s
  else s.onStore fun x => { x with assembled := set :: x.assembled }

/-- R228: the live entries of a set are finished from held copies, this module's and those of the peer's journal whose groups this
module leads. -/
def State.finishSet (s : State) (set : Nat) : State :=
  let s := s.each (s.store.journal.filter fun e => e.set == set && e.state != 3) fun e s => s.finishEntry e
  s.each (s.store.peerJournal.filter fun e => e.set == set && e.state != 3 &&
    (s.stripeOwner e.set e.gen e.stripe).any (fun n => s.leads n.group)) fun e s => s.adoptEntry e

/-- R228, Table 8.9: recovery from the journal regions alone, of the stripes that the peer does not lead (R207): this module's own
records become entries again. -/
def State.recoverSet (s : State) (set : Nat) (found : List RecoveredRecord) : State :=
  let newest := newestRecords found
  let mine := newest.filter (·.writer == s.cfg.position)
  let s := s.onStore fun x => { x with
    journal := (mine.filter (·.state != 3)).foldl (fun l r => putBy JournalEntry.slot (entryOf set r) l) x.journal
    jseq := putPerSet x.jseq set (max (perSet x.jseq set) (mine.foldl (fun n r => max n r.seq) 0)) }
  s.each (newest.filter fun r => r.state != 3 && (s.stripeOwner set r.gen r.stripe).all fun n => !bitOf s.link.peerLeads n.group) fun r s => s.recoverEntry (entryOf set r)

/-- R228, Table 8.9: a set is assembled; its journal is restored and every live entry finished: from held copies where the
vault or the peer has given the journal, or the set was assembled before, else from the journal blocks that every journal drive
that answers returns. Then the lost-block map comes from the witness areas too (R591). -/
def execJournalRecovery (set : Nat) (blocks : List Bytes) (lost : List (Nat × Bytes)) (s : State) : Host.Outcome State Fault Refusal :=
  onData s fun s =>
    let held := s.store.journalHeld || s.store.assembled.contains set
    let s := s.assembleSet set
    if held then s.finishSet set else ((s.noteJournal blocks).restoreLost set lost).recoverSet set (s.journalOf set blocks)

/-! The map mirror (R284). -/

/-- Put a page of this module's maps into the mirror. -/
def State.mirrorPage (s : State) (m : VaultMeta) (p : Nat × Nat × Nat) : VaultMeta :=
  let inPage := fun (k set b : Nat) => k == p.1 && set == p.2.1 && b / 32768 == p.2.2
  { m with
    mapAllSet := s.store.mapAllSet
    stripeMap := (m.stripeMap.filter fun (set, b) => !inPage 0 set b) ++ s.store.stripeMap.filter fun (set, b) => inPage 0 set b
    stripeMapNext := (m.stripeMapNext.filter fun (set, b) => !inPage 1 set b) ++ s.store.stripeMapNext.filter fun (set, b) => inPage 1 set b
    rebuilt := (m.rebuilt.filter fun (set, z, b) => !inPage (2 + z) set b) ++ s.store.rebuilt.filter fun (set, z, b) => inPage (2 + z) set b
    scrubAt := (List.range 4).map fun set => s.rd64 (RBD_SPOS.addr set) }

/-- R284: copy the oldest changed pages, with the thresholds of the raised rate and of the wait. -/
def State.copyPages (s : State) (n : Nat) : State :=
  let ps := s.energy.dirtyPages.reverse.take n
  let m := ps.foldl s.mirrorPage (s.energy.mapMirror.getD s.vaultMeta)
  let left := (s.energy.dirtyPages.reverse.drop n).reverse
  let s := s.onEnergy fun e => { e with
    mapMirror := some m
    dirtyPages := left
    mirrorFast := e.mirrorFast && decide (32768 ≤ left.length)
    mapWait := e.mapWait && decide (131072 ≤ left.length) }
  (s.wr VLT_MAPDIRTY.N left.length).count VLT_MAP_PAGES.addr ps.length

def execMapMirrorCopy (pages : Nat) (s : State) : Host.Outcome State Fault Refusal :=
  onData s fun s => if s.rd VLT_STAT.STATE = 1 then s.copyPages pages else s

end Sys2Proof.Machine
end

