-- ==== Sys2Proof/Machine/Link.lean ====
section
/-! DEFINITION. The Emzifen link (chapter The Emzifen Link): frames and acknowledgement, link states and pairing, windows,
messages, mirroring, state copies and the commit. -/

set_option Elab.async false

namespace Sys2Proof.Machine

/-! Link states of Table 11.2. -/

def linkDown : Nat := 0
def linkTraining : Nat := 1
def linkLinked : Nat := 2
def linkPaired : Nat := 3
def State.linkState (s : State) : Nat := s.rd EZL_STAT.STATE
def State.paired (s : State) : Bool := s.linkState == linkPaired

/-! Sending. -/

/-- A frame goes out, or comes in, and is counted; its payload passes a cipher engine (log 119). -/
def State.countFrame (s : State) (out : Bool) (bytes : Nat) : State :=
  (((s.count CIP_GCM_BYTES.addr (bytes - 48)).count (if out then EZL_TX_FRAMES.addr else EZL_RX_FRAMES.addr)).event (if out then 0x30 else 0x31) 0 bytes).moved 4 0 out bytes

/-- EZL_RETAIN, and the switch core's pools, of which the retained cells are part (R299). -/
def State.showRetained (s : State) : State := (s.wr EZL_RETAIN.CELLS s.retainedCells).showPools

/-- R157, R299: the link may take cells for one more frame of `n`; at SWC_ATT9_MAX, or without shared cells, it waits. -/
def State.linkCredit (s : State) (n : Nat) : Bool := (s.takeCells 9 0 n).isSome

/-- R308: the STATUS of a send slot. -/
def State.writeSlotStatus (s : State) (chan slot status : Nat) : State :=
  let base := s.rd (EZL_CH_BASE_HI.BASE chan) * 2 ^ 32 + s.rd (EZL_CH_BASE_LO.BASE chan) * 2 ^ 21
  s.storeBytes (base + 4096 * (256 + slot) + 4) (leBytes 1 status)

def State.onChannel (s : State) (c : Nat) (f : Channel → Channel) : State :=
  let old := (s.link.channels.find? (·.chan == c)).getD ⟨c, [], none, 0, 0, 0⟩
  s.onLink fun l => { l with channels := putBy Channel.chan (f old) l.channels }

def State.channel (s : State) (c : Nat) : Channel := (s.link.channels.find? (·.chan == c)).getD ⟨c, [], none, 0, 0, 0⟩

/-- R313: what the follow has not committed is discarded. -/
def State.discardUncommitted (s : State) : State :=
  ((s.onStore fun x => { x with mirrors := x.mirrors.filter (·.committed) }).onLink fun l => { l with rxMeasures := [] }).showDirty

/-- The head message of a channel is answered with a STATUS; the next one is at the head from now on. -/
def State.answerMessage (s : State) (c status : Nat) : State :=
  match (s.channel c).sending with
  | [] => s
  | (slot, _) :: _ => (s.writeSlotStatus c slot status).onChannel c fun x => { x with sending := x.sending.drop 1, sentAs := none, headSince := s.now }

/-- The link enters a state of Table 11.2. -/
def State.enterLink (s : State) (st : Nat) : State := (s.wr EZL_STAT.STATE st).onLink fun l => { l with since := s.now }

/-- R309, R313: the link enters Training: messages whose delivery is unconfirmed become indeterminate, and frames that no
measure retains are dropped. -/
def State.enterTraining (s : State) : State :=
  let s := s.enterLink linkTraining
  let s := s.each (s.link.channels.filter (·.sentAs.isSome)) fun c s => s.answerMessage c.chan 2
  (s.discardUncommitted.onLink fun l => { l with retained := l.retained.filter (·.meas != 0) }).showRetained

/-- R296: a fast retrain. -/
def State.fastRetrain (s : State) : State :=
  if s.linkUp then
    let p := s.paired
    ((s.enterTraining).onLink fun l => { l with fromPaired := p }).count EZL_RETRAIN.addr
  else s

/-- R298, R299: send a frame under the next LSEQ; it is retained. While the link retrains from Paired, a frame that carries a
measure is retained for the resend (R313). At the LSEQ limit a fast retrain starts (R414). -/
def State.sendFrame (s : State) (type : FrameType) (win group key meas offset : Nat) (p : LinkPayload) (last : Bool := false) : State :=
  let f : LinkFrame := ⟨type, last, false, win, group, key, meas, offset, p.size, s.link.txSeq, p⟩
  let hold := fun s : State => if meas = 0 then s else (s.onLink fun l => { l with retained := l.retained ++ [f] }).showRetained
  if !s.linkUp then (if s.linkState = linkTraining && s.link.fromPaired then hold s else s)
  else if 2 ^ 32 - 1 ≤ s.link.txSeq then hold s.refuseCounter.fastRetrain
  else ((((s.onLink fun l => { l with txSeq := l.txSeq + 1, retained := l.retained ++ [f] }).countFrame true f.whole).emit (.linkFrame f))).showRetained

/-- R298: acknowledge the frames received in order, by the last one's LSEQ (2^64 − 1 before the first); `gap` asks for a
replay. -/
def State.linkAck (s : State) (gap : Bool) : State :=
  (s.onLink fun l => { l with sinceAck := 0 }).sendFrame .ack 0 0 0 0 ((s.link.rxSeq + 2 ^ 64 - 1) % 2 ^ 64) .empty gap

/-- The values this module shows (R301). -/
def State.pairValues (s : State) : PairValues :=
  ⟨s.rd MEAS_STAT.STATE, s.rd MEAS_CTL.MLEN, s.link.scfOwn, s.link.scfMin, s.link.scfMax, s.link.serial⟩

/-- R301: the first condition that fails (Table 11.8, NOPAIR), or 0. -/
def State.pairFault (s : State) : Nat :=
  match s.link.peer with
  | none => 5
  | some p =>
    let own := s.pairValues
    let locked := fun (l : Nat) => l == lockLocked || l == lockHoldover
    if !locked own.lock || !locked p.lock then 1
    else if own.mlen ≠ p.mlen then 2
    else if !(p.scfMin ≤ own.scfOwn && own.scfOwn ≤ p.scfMax && own.scfMin ≤ p.scfOwn && p.scfOwn ≤ own.scfMax) then 3
    else if own.serial ≠ p.serial then 4 else 0

def State.showPairing (s : State) : State := s.wr EZL_STAT.NOPAIR s.pairFault

/-! The health word (R331, Table 12.4). -/

def State.token? (s : State) (g : Nat) : GroupToken := (s.token.groups.find? (·.group == g)).getD (GroupToken.atReset g)
def State.onGroup (s : State) (g : Nat) (f : GroupToken → GroupToken) : State :=
  s.onToken fun t => { t with groups := setBy GroupToken.group g f t.groups }

/-- Bits of the groups for which something holds. -/
def groupBits (p : Nat → Bool) : Nat := (List.range 8).foldl (fun n g => if p g then n + 2 ^ g else n) 0

def State.lapsedBits (s : State) : Nat := groupBits fun g => (s.token? g).role == .lapsed
def State.lostModule (s : State) : Bool := s.token.groups.any (·.role == .lost)

/-- The next health word. -/
def State.healthWord (s : State) : Nat :=
  let bit := fun (b : Bool) (n : Nat) => if b then 2 ^ n else 0
  ((s.rd64 LTK_HEALTH.addr / 2 ^ 48 + 1) % 2 ^ 16) * 2 ^ 48 + s.rd LTK_STAT.LEAD * 2 ^ 40 +
    groupBits (fun g => (s.token? g).ready) * 2 ^ 32 + s.lapsedBits * 2 ^ 24 + min 5 s.token.witOk * 2 ^ 21 +
    bit s.token.surrender 20 + bit (s.link.following.all fun g => (s.token? g).ready) 19 + bit (s.flag NRG_STAT.COVER) 18 +
    bit s.lostModule 17

def cutFollowing : Nat := 0
def cutSuspect : Nat := 1
def cutWaiting : Nat := 2
def cutClaiming : Nat := 3
def cutFencing : Nat := 4
def cutTaking : Nat := 5

/-- Bits of the cut-in's groups. -/
def State.cutGroups (s : State) : List Nat := (List.range 8).filter (bitOf (s.rd LTK_CSTAT.GROUPS))

/-- Table 12.5: the cut-in ends without a take: its groups report Inaccessible. -/
def State.stopCutIn (s : State) : State :=
  let gs := s.rd LTK_CSTAT.GROUPS
  (s.wrs [(LTK_STAT.CHANGE, s.rd LTK_STAT.CHANGE - (s.rd LTK_STAT.CHANGE &&& gs)),
    (LTK_STAT.NOLEAD, s.rd LTK_STAT.NOLEAD - (s.rd LTK_STAT.NOLEAD &&& gs)), (LTK_CSTAT.GROUPS, 0), (LTK_CSTAT.STATE, cutFollowing)]).reportAna

/-- LAPSED bits of the peer's health word for groups this module follows. -/
def State.peerLapsed (s : State) : Bool :=
  s.link.following.any fun g => bitOf (s.rd64 LTK_PHEALTH.addr / 2 ^ 24) g

/-- R331, Table 12.5: a health word arrives. One with LAPSED clear ends the wait of a cut-in. Its LEASED bits tell which groups
no module leads (LTK_STAT.NOLEAD). -/
def State.healthArrived (s : State) (w : Nat) : State :=
  let since := fun t : GroupToken => if bitOf (w / 2 ^ 32) t.group then some (t.readySince.getD s.now) else none
  let s := (s.setReg LTK_PHEALTH.addr (BitVec.ofNat 64 w)).onToken fun t => { t with
    lastHealth := s.measure
    healthSeen := true
    groups := t.groups.map fun g => { g with readySince := since g } }
  let s := if s.rd LTK_CSTAT.STATE = cutWaiting && !s.peerLapsed then s.stopCutIn else s
  s.wr LTK_STAT.NOLEAD (groupBits fun g => !s.leads g && !bitOf (w / 2 ^ 40) g)

/-! State copies (R311, R314, Table 11.5). -/

def StateRecord.type : StateRecord → Nat
  | .journal .. => 1 | .retired .. => 2 | .extents .. => 3 | .mapBit .. => 4 | .rebuilt .. => 5 | .lost .. => 6
  | .reservation .. => 7 | .move .. => 8
  | .config .. | .policy .. | .nsRecord .. | .nsGone .. | .longOp .. | .controllers .. | .activating .. => 9
  | .scrubAt .. | .copyAt .. => 10

/-- Elements of `new` that `old` lacks. -/
def added {α : Type} [BEq α] (old new : List α) : List α := new.filter fun a => !old.contains a

def MoveState.number : MoveState → Nat
  | .waiting => 0 | .copying => 1 | .catchUp => 2 | .armed => 3 | .switched => 4 | .freed => 5
def moveStateOf (n : Nat) : MoveState := [.waiting, .copying, .catchUp, .armed, .switched].getD n .freed

/-- This module leads a group with a namespace in the set. -/
def State.leadsIn (s : State) (set : Nat) : Bool := s.host.namespaces.any fun n => n.set == set && !n.deleted && s.leads n.group

/-- What this module would tell its peer of: everything its led groups' state holds. -/
def State.view (s : State) : SentView where
  map := s.store.stripeMap
  mapAllSet := s.store.mapAllSet
  mapNext := s.store.stripeMapNext
  rebuilt := s.store.rebuilt
  lost := s.store.lost.filter fun e => e.own || (s.namespace e.nsid).any fun n => s.leads n.group
  moves := s.store.moves.filter fun m => (s.namespace m.nsid).any fun n => s.leads n.group
  namespaces := (s.host.namespaces.filter fun n => s.leads n.group).map fun n => { n with resv := s.reservationNow n }
  policies := s.host.policies
  scrubAt := ((List.range 4).filter s.leadsIn).map fun set => (set, s.rd64 (RBD_SPOS.addr set))
  copyAt := s.store.copyBack.map fun (set, u) => (set, u, s.rd64 (RBD_CPOS.addr set))
  ops := s.admin.ops.map fun o => (o.slot, (s.opShown o.slot).getD (o.state, o.newest))
  controllers := some (s.host.controllers.map fun c => (c.cntlid, c.hostNqn, c.hostId))
  activating := some s.admin.activating.isSome

def recordOf (e : JournalEntry) : RecoveredRecord :=
  ⟨0, e.slot, e.seq, e.meas, e.stripe, e.gen, e.state, e.dmask, e.rmask, e.flags, e.tstripes, e.tmasks⟩

/-- The records of what differs between two views; the map bits and rebuild bits go to group 0 (the spec gives none). -/
def State.changes (s : State) (old : SentView) : List (Nat × StateRecord) :=
  let new := s.view
  let bits := fun (second : Bool) (v : Nat → Bool) (l : List (Nat × Nat)) =>
    (l.map fun p => (0, StateRecord.mapBit second p.1 p.2 (v p.1)) : List (Nat × StateRecord))
  bits false (fun set => !new.mapAllSet.contains set) (added old.map new.map) ++ bits false new.mapAllSet.contains (added new.map old.map) ++
  bits true (fun _ => true) (added old.mapNext new.mapNext) ++ bits true (fun _ => false) (added new.mapNext old.mapNext) ++
  ((added old.rebuilt new.rebuilt).map fun (set, z, b) => (0, StateRecord.rebuilt set z b true)) ++
  ((added new.rebuilt old.rebuilt).map fun (set, z, b) => (0, StateRecord.rebuilt set z b false)) ++
  ((added old.lost new.lost).map fun e => (0, StateRecord.lost e.set e.stripe e.strip e.lba e.nsid e.meas e.rmask e.cause)) ++
  ((old.lost.filter fun e => !(s.store.lost.any fun d => d.isAt e.set e.stripe e.strip)).map fun e =>
    (0, StateRecord.lost e.set e.stripe e.strip e.lba e.nsid e.meas 0 e.cause)) ++
  ((added old.moves new.moves).map fun m => (0, StateRecord.move m.set m.nsid m.ext m.source m.dest m.state.number)) ++
  ((added old.namespaces new.namespaces).flatMap fun n =>
    [(n.group, StateRecord.nsRecord n.nsid n.group n.set n.blocks n.lbaf n.configuredWb n.encrypted n.formatting n.deleted
      n.attached n.blob), (n.group, .extents n.nsid n.extents),
     (n.group, .reservation n.nsid n.resv.rtype n.resv.holder n.resv.registrants n.resv.generation)]) ++
  ((old.namespaces.filter fun n => (s.namespace n.nsid).isNone).map fun n => (n.group, StateRecord.nsGone n.nsid)) ++
  (((added (old.policies.zipIdx) (new.policies.zipIdx)).filter fun (_, g) => s.leads g).map fun (p, g) =>
    (g, StateRecord.policy g p.set p.writeBack p.encrypted)) ++
  ((added old.scrubAt new.scrubAt).map fun (set, p) => (0, StateRecord.scrubAt set p)) ++
  ((added old.copyAt new.copyAt).map fun (set, u, p) => (0, StateRecord.copyAt set u p)) ++
  ((added old.ops new.ops).map fun (slot, st, r) => (if slot = 8 then 0 else slot, StateRecord.longOp slot st r)) ++
  (if old.controllers == new.controllers then [] else [(0, .controllers (new.controllers.getD []))]) ++
  (if old.activating == new.activating then [] else [(0, .activating (new.activating.getD false))])

/-- R314: the full content that the baseline of some groups adds: the live journal, the whole view, and what is retired. -/
def State.baselineRecords (s : State) : List (Nat × StateRecord) :=
  (s.store.journal.map fun e => (0, StateRecord.journal e.set (recordOf e))) ++ s.changes SentView.empty

/-- The records of a list that fit into so many bytes, and those left. -/
def fitRecords (room : Nat) : List (Nat × StateRecord) → List (Nat × StateRecord) × List (Nat × StateRecord)
  | [] => ([], [])
  | r :: l =>
    if Config.stateRecordBytes r.2 ≤ room then
      ((r :: (fitRecords (room - Config.stateRecordBytes r.2) l).1), (fitRecords (room - Config.stateRecordBytes r.2) l).2)
    else ([], r :: l)

/-- Bytes of a list of records. -/
def recordBytes (l : List (Nat × StateRecord)) : Nat := l.foldl (fun n r => n + Config.stateRecordBytes r.2) 0

/-- A journal record of the same set and slot as one of a list, which is newer. -/
def journalNewer (l : List (Nat × StateRecord)) (r : Nat × StateRecord) : Bool :=
  match r.2 with
  | .journal set e => l.any fun q => match q.2 with | .journal t d => t == set && d.slot == e.slot | _ => false
  | _ => false

/-- R314: the baselines that are due begin: their records go before what has changed since. -/
def State.startBaseline (s : State) : State :=
  if s.link.baseline.isEmpty then s else
  s.onLink fun l => { l with
    baselineGroups := l.baselineGroups ++ l.baseline.filter (!l.baselineGroups.contains ·)
    baselineLeft := s.baselineRecords
    baseline := []
    sent := s.view }

/-- R311: the journal records, retirements and configuration of the measure, which go at once. -/
def State.measureRecords (s : State) : List (Nat × StateRecord) :=
  (s.store.records.map fun e => (0, StateRecord.journal e.set (recordOf e))) ++
    (s.store.retired.map fun (set, st) => (0, StateRecord.retired set st)) ++
    s.link.applied.map fun w => (0, StateRecord.config w.addr w.hi w.lo w.val)

/-- R311, R314: the state copy of measure N, at most 4 MiB: the records of the measure, then what a baseline still has to send, with
every change since at its end. -/
def State.stateCopy (s : State) (n health : Nat) : StateCopy × List (Nat × StateRecord) :=
  let now := s.measureRecords
  let (fit, left) := fitRecords (4194304 - recordBytes now)
    ((s.link.baselineLeft.filter fun r => !journalNewer now r) ++ s.changes s.link.sent)
  ({ meas := n
     health := BitVec.ofNat 64 health
     values := s.pairValues
     leads := s.rd LTK_STAT.LEAD
     baseline := !s.link.baselineGroups.isEmpty
     lastBaseline := !s.link.baselineGroups.isEmpty && left.isEmpty
     groups := s.link.baselineGroups
     records := now ++ fit }, left)

/-- Table 11.1: the pieces of a state copy, one to a frame, each with as many records as its payload's 8,256 bytes hold, at least
one; the first piece has the header. -/
def copyPieces (c : StateCopy) : Nat → List (Nat × StateRecord) → List StateCopy
  | 0, l => [{ c with records := l }]
  | fuel + 1, l =>
    let (fit, left) := fitRecords 8192 l
    let (fit, left) := if fit.isEmpty then (l.take 1, l.drop 1) else (fit, left)
    if left.isEmpty then [{ c with records := fit }] else { c with records := fit } :: copyPieces c fuel left

/-- R311: send the pieces of a state copy in window 8, each at the offset where the one before ends. -/
def State.sendPieces (s : State) (n offset : Nat) : List StateCopy → State
  | [] => s
  | [c] => s.sendFrame .stateCopy 8 0 (s.rd (EZL_WIN_CTL.KEY 8)) n offset (.state c) true
  | c :: l => (s.sendFrame .stateCopy 8 0 (s.rd (EZL_WIN_CTL.KEY 8)) n offset (.state c)).sendPieces n (offset + (LinkPayload.state c).size) l

/-- R311, R331: at step 7 of Table 2.6 the state copy and the marker of measure N go, with the health word; in a Training
entered from Paired they wait for the return (R313); while Linked the health word goes on channel 2. -/
def State.sendStateCopy (s : State) (n : Nat) : State :=
  let h := s.healthWord
  let s := s.setReg LTK_HEALTH.addr (BitVec.ofNat 64 h)
  let clear := fun t : State => (t.onStore fun x => { x with records := [], retired := [] }).onLink fun l => { l with applied := [] }
  if s.paired || (s.linkState == linkTraining && s.link.fromPaired) then
    let s := s.startBaseline
    let (c, left) := s.stateCopy n h
    let t := (s.link.txMeasures.find? (·.meas == n)).getD ⟨n, []⟩
    let counts := (List.range 8).map fun g => ((t.frames.find? (·.1 == g)).map (·.2)).getD (0, 0)
    let s := s.sendPieces n 0 (copyPieces c c.records.length c.records)
    let s := s.sendFrame .marker 0 0 0 n 0 (.marker counts)
    let s := s.onLink fun l => { l with
      txMeasures := putBy TxMeasure.meas t l.txMeasures
      sent := s.view
      baselineLeft := left
      baselineSent := l.baselineSent ++ (if c.lastBaseline then c.groups.map (·, n) else [])
      baselineGroups := if c.lastBaseline then [] else l.baselineGroups
      mirrorSlots := l.mirrorSlots.map fun m =>
        if m.retiredIn.isNone && !(s.store.copies.any (·.id == m.copy)) then { m with retiredIn := some n } else m }
    clear s
  else if s.linkState = linkLinked then
    let v := s.pairValues
    clear (s.emit (.message 2 (leBytes 1 1 ++ leBytes 8 h ++ leBytes 2 v.scfOwn ++ leBytes 1 v.mlen ++ leBytes 1 v.lock ++
      leBytes 1 (s.rd LTK_STAT.LEAD) ++ leBytes 16 v.serial ++ leBytes 2 v.scfMin ++ leBytes 2 v.scfMax)))
  else clear s

/-! The follow is lost, the link leaves Paired (R315, R316). -/

/-- R316: this module follows no group until a new baseline commits. -/
def State.stopFollowing (s : State) : State :=
  s.discardUncommitted.onLink fun l => { l with following := [], followNext := [], baselineNamed := none }

/-- R315: the follow is lost for every group: retained cells go; copies not yet durable become write-through copies, durable
at once where every member has reported (R70), and their commands' completions wait for the members (R74); reservation changes
whose measure can no longer commit take effect (R52). -/
def State.loseFollow (s : State) : State :=
  if s.rd EZL_STAT.JOINED = 0 && s.link.retained.isEmpty && s.link.waiting.isEmpty && s.link.baseline.isEmpty && s.link.baselineGroups.isEmpty &&
     s.link.baselineSent.isEmpty then s
  else
    let s := (s.wr EZL_STAT.JOINED 0).flagFault EZL_STAT.FOLLOW_LOST 3 1 0x24
    let s := s.onLink fun l => { l with
      retained := []
      waiting := []
      mirrorSlots := []
      txMeasures := []
      baseline := []
      baselineGroups := []
      baselineLeft := []
      baselineSent := []
      joining := []
      holdAccept := none }
    let s := s.onStore fun x => { x with copies := x.copies.map fun c =>
      if c.durable then c else { c with writeBack := false, durable := c.reported } }
    let uncommitted := fun c : HostCmd => c.stage == .held && c.writeBack && !(c.meas.any fun n => decide (n < s.link.acked))
    let s := s.onHost fun h => { h with commands := h.commands.map fun c => if uncommitted c then { c with writeBack := false } else c }
    s.applyReservations.showRetained.freeCopies

/-- R308: receive slots that the peer has posted on a channel. -/
def State.roomOn (s : State) (c : Nat) : Nat := ((s.link.peerRoom.find? (·.1 == c)).map (·.2)).getD 0

/-- R308: send the head message of a channel while the link carries messages, a receive slot is posted for it and the link has cells
for it (R299); else it waits. -/
def State.pumpChannel (s : State) (c : Nat) : State :=
  match (s.channel c).sending with
  | [] => s
  | (_, m) :: _ =>
    if (s.channel c).sentAs.isSome || !s.linkUp || s.roomOn c = 0 || !s.linkCredit (cellsOf (m.length + 48)) then s
    else
      let q := s.link.txSeq
      let s := s.onLink fun l => { l with peerRoom := l.peerRoom.map fun p => if p.1 == c then (c, p.2 - 1) else p }
      let s := s.sendFrame .message c 0 0 0 0 (.bytes m) true
      if s.linkUp then s.onChannel c fun x => { x with sentAs := some q } else s

/-- The head message of a channel is answered with a STATUS, and the next goes. -/
def State.endMessage (s : State) (c status : Nat) : State := if (s.channel c).sending.isEmpty then s else (s.answerMessage c status).pumpChannel c

/-- The link goes to a state outside Paired other than through a retrain that returns to it. -/
def State.leavePaired (s : State) : State :=
  if s.paired || s.link.fromPaired then
    let s := (s.loseFollow.stopFollowing).onLink fun l => { l with fromPaired := false }
    if s.keys.ratchetMeasure.isNone then s else s.destroyOldKeks
  else s

/-- R300: the link goes Down: retained cells are released. -/
def State.linkGoesDown (s : State) : State :=
  let s := (s.leavePaired.enterLink linkDown).wr EZL_STAT.WIDTH 0
  let s := s.each (s.link.channels.filter (·.sentAs.isSome)) fun c s => s.endMessage c.chan 2
  (s.onLink fun l => { l with retained := [], peer := none, peerLeads := 0, peerRoom := [] }).showRetained.showPairing

def execLinkEnable (who : Requester) (value : Word) (s : State) : Host.Outcome State Fault Refusal :=
  onSoc s fun s => s.commandWrite who EZL_CTL.addr (value ||| 0x80000000#32) fun s => (s.wr EZL_CTL.EN 1).tryTrain

/-- The peer is pulled, or EN is cleared by a write. -/
def execPeerRemoved (cleared : Option (Requester × Word)) (s : State) : Host.Outcome State Fault Refusal :=
  onSoc s fun s =>
    match cleared with
    | some (who, v) => s.commandWrite who EZL_CTL.addr (v &&& 0x7FFFFFFF#32) fun s => (s.wr EZL_CTL.EN 0).linkGoesDown.runJobs
    | none => ((s.onLink fun l => { l with peerSeated := false }).linkGoesDown).runJobs

def execPeerSeated (s : State) : Host.Outcome State Fault Refusal :=
  onSoc s fun s => (s.onLink fun l => { l with peerSeated := true }).tryTrain

/-- R296: the widest of 16, 8 or 4 lanes that all pass, as WIDTH codes it. -/
def linkWidth (lanes : Nat) : Nat :=
  if lanes % 2 ^ 16 = 2 ^ 16 - 1 then 3 else if lanes % 256 = 255 then 2 else if lanes % 16 = 15 then 1 else 0

/-- R313: resend every retained measure from the oldest whose commit has not come, as new frames; a mirror copy that went poisoned
belongs to a later measure (R312). -/
def State.resendMeasures (s : State) : State :=
  let old := s.link.retained.filter fun f => f.meas != 0 && !f.poison
  let s := s.onLink fun l => { l with retained := l.retained.filter (·.meas == 0) }
  old.foldl (fun s f =>
    let f := { f with lseq := s.link.txSeq }
    (((s.onLink fun l => { l with txSeq := l.txSeq + 1, retained := l.retained ++ [f] }).countFrame true f.whole).emit (.linkFrame f))) s

/-- R296: the width that training reaches, 0 for none: a fast retrain keeps the width it had, which full training begins without. -/
def State.trainedWidth (s : State) (lanes : Nat) : Nat :=
  let w := s.rd EZL_STAT.WIDTH
  if w = 0 then linkWidth lanes else if w ≤ linkWidth lanes then w else 0

/-- Table 11.2: training reaches a width: resume under a new EPOCH, LSEQ from 0; a return to Paired, within 20 µs, resends. At the
EPOCH limit the link is held Down (R414). -/
def execLinkTrained (lanes : Nat) (s : State) : Host.Outcome State Fault Refusal :=
  onData s fun s =>
    let w := s.trainedWidth lanes
    if s.linkState ≠ linkTraining ∨ w = 0 then s
    else if 2 ^ 32 - 2 ≤ s.link.epochTx then s.refuseCounter.linkGoesDown.plainFault 9 1 0x24
    else
    let back := s.link.fromPaired && s.pairFault == 0 && decide (s.now ≤ s.link.since + 20000)
    let s := if back then s else s.leavePaired
    let s := (s.wrs [(EZL_STAT.WIDTH, w), (EZL_LANES.LANES, lanes % 2 ^ 16)]).enterLink (if back then linkPaired else linkLinked)
    let s := s.onLink fun l => { l with txSeq := 0, rxSeq := 0, sinceAck := 0, epochTx := l.epochTx + 1, fromPaired := false }
    let s := s.sendFrame .resume 0 0 0 0 s.link.epochTx (.resume s.pairValues)
    let s := if back || s.rd64 LTK_KEY.addr = 0 then s else s.emit (.message 2 (leBytes 1 2 ++ leBytes 8 (s.rd64 LTK_KEY.addr)))
    let s := if back then s else s.emit (.message 3 ([4, 0] ++ ((List.range 48).filter fun k => s.rd (SLT_STAT.STATE k) == 8).flatMap (leBytes 1)))
    let s := if back then
        let oldest := (s.link.txMeasures.head?.map (·.meas))
        (s.resendMeasures).onLink fun l => { l with holdAccept := oldest }
      else s
    s.each s.link.channels fun c s => s.pumpChannel c.chan

/-- Table 11.2: 50 ms of Training without a width. -/
def execTrainingTimeout (s : State) : Host.Outcome State Fault Refusal :=
  onData s fun s => if s.linkState = linkTraining && s.link.since + 50000000 ≤ s.now then s.linkGoesDown.plainFault 3 1 0x24 else s

/-- Table 11.2: the retry, 1 s after the link went Down. -/
def execTrainingRetry (s : State) : Host.Outcome State Fault Refusal :=
  onSoc s fun s => if s.link.since + 1000000000 ≤ s.now then s.tryTrain else s

def execFastRetrain (s : State) : Host.Outcome State Fault Refusal := onData s State.fastRetrain

/-- R296, R315: the fast retrain fails: full training follows, and the link has left Paired. -/
def execFastRetrainFail (s : State) : Host.Outcome State Fault Refusal :=
  onData s fun s => if s.linkState = linkTraining && s.rd EZL_STAT.WIDTH != 0 then (s.leavePaired.enterLink linkTraining).wr EZL_STAT.WIDTH 0 else s

/-! Receiving (R297, R298). -/

/-- A frame arrives: accepted only with its tag verified and with the LSEQ expected; a gap asks for a replay, and every
64th frame is acknowledged. -/
def State.receive (s : State) (h : FrameHead) (f : State → State) : State :=
  if !s.linkUp then s else
  let s := s.countFrame false (h.length + 48)
  if !h.tagOk then (s.count EZL_TAG_FAIL.addr).tagMismatch 3
  else if h.lseq ≠ s.link.rxSeq then (if s.link.rxSeq < h.lseq then s.linkAck true else s)
  else
    let s := f (s.onLink fun l => { l with rxSeq := l.rxSeq + 1, sinceAck := l.sinceAck + 1 })
    if 64 ≤ s.link.sinceAck then s.linkAck false else s

/-- R298, R299: an acknowledgement releases the frames that no measure retains and confirms messages; one that marks a gap
has every later frame sent again as it was. With it comes what the receive slots are that the peer has posted (log 174). -/
def execLinkAckReceived (h : FrameHead) (gap : Bool) (room : List (Nat × Nat)) (s : State) : Host.Outcome State Fault Refusal :=
  onSoc s fun s => s.receive h fun s =>
    let next := (h.offset + 1) % 2 ^ 64
    let s := (s.onLink fun l => { l with retained := l.retained.filter (fun f => f.meas != 0 || next ≤ f.lseq), peerRoom := room }).showRetained
    let s := s.each (s.link.channels.filter fun c => c.sentAs.any fun q => decide (q < next)) fun c s => s.endMessage c.chan 1
    let s := s.each s.link.channels fun c s => s.pumpChannel c.chan
    if gap then (s.emits ((s.link.retained.filter fun f => decide (next ≤ f.lseq)).map .linkFrame)).count EZL_REPLAY.addr else s

def execLinkAckTimer (s : State) : Host.Outcome State Fault Refusal :=
  onSoc s fun s => if 0 < s.link.sinceAck then s.linkAck false else s

/-! Windows (R303–R305). -/

/-- The active window registers. -/
def State.window (s : State) (w : Nat) : Window where
  win := w
  base := s.rd (EZL_WIN_BASE_HI.BASE w) * 2 ^ 32 + s.rd (EZL_WIN_BASE_LO.BASE w) * 4096
  len := s.rd (EZL_WIN_LEN.LEN w) * 4096
  valid := s.flag (EZL_WIN_CTL.VALID w)
  wr := s.flag (EZL_WIN_CTL.WR w)
  key := s.rd (EZL_WIN_CTL.KEY w)

/-- R304: keep the window set of the measure that ends, of three in all. -/
def State.keepWindows (s : State) (meas : Nat) : State :=
  s.onLink fun l => { l with windowSets := (⟨meas, (List.range 64).map s.window⟩ :: l.windowSets).take 2 }

/-- R304: the window that a frame stamped `meas` uses. -/
def State.windowFor (s : State) (meas w : Nat) : Option Window :=
  if s.measure ≤ meas then some (s.window w)
  else (s.link.windowSets.find? (·.meas == meas)).bind fun x => x.windows.find? (·.win == w)

/-- R303: the address at which a frame is placed. -/
def placeAt (win : Option Window) (h : FrameHead) : Option Nat :=
  match win with
  | none => none
  | some w => if w.valid && w.wr && w.key == h.key && h.offset + h.length ≤ w.len then some (w.base + h.offset) else none

/-- R303: a frame that fails a check. -/
def State.rejectFrame (s : State) (h : FrameHead) : State := (s.count EZL_WIN_REJ.addr).plainFault 3 1 0x24 h.win

/-- R305: stamped C or earlier. -/
def State.isOld (s : State) (h : FrameHead) : Bool := h.meas < s.link.committed

/-- One more mirror frame placed for a group of a measure. -/
def addFrame (g bytes : Nat) (l : List (Nat × Nat × Nat)) : List (Nat × Nat × Nat) :=
  let old := ((l.find? (·.1 == g)).map (·.2)).getD (0, 0)
  putBy (·.1) (g, old.1 + 1, old.2 + bytes) l

def State.onRx (s : State) (meas : Nat) (f : RxMeasure → RxMeasure) : State :=
  let old := (s.link.rxMeasures.find? (·.meas == meas)).getD ⟨meas, [], none, false⟩
  s.onLink fun l => { l with rxMeasures := putBy RxMeasure.meas (f old) l.rxMeasures }

/-- R303, R305, R312: a mirror copy: placed, a duplicate, rejected, or poisoned and so dropped. -/
def State.mirrorArrives (s : State) (h : FrameHead) (b : MirrorBlock) : State :=
  if !s.paired || h.poison then s
  else if s.isOld h then s.count EZL_DUP.addr
  else
    let p := (s.namespace b.nsid).bind fun ns => s.locate ns b.lba
    let s := match p with
      | some p => s.onLink fun l => { l with heard := (h.meas, p.set, p.gen, p.stripe) :: l.heard }
      | none => s
    match placeAt (s.windowFor h.meas h.win) h with
    | none => s.rejectFrame h
    | some _ =>
      let (set, stripe) := match p with | some p => (p.set, p.stripe) | none => (0, 0)
      let c : MirrorCopy := ⟨h.group, h.meas, h.offset, b.nsid, b.lba, b.tag, set, stripe, b.content, b.dealloc, false⟩
      ((s.onStore fun x => { x with mirrors := x.mirrors ++ [c] }).onRx h.meas fun r => { r with frames := addFrame h.group h.length r.frames }).showDirty

def execMirrorCopyReceived (h : FrameHead) (b : MirrorBlock) (s : State) : Host.Outcome State Fault Refusal :=
  onSoc s fun s => s.receive h fun s => s.mirrorArrives h b

/-- R303–R305: a window write, unstamped only into windows 9–15. -/
def execWindowWriteReceived (h : FrameHead) (payload : Bytes) (s : State) : Host.Outcome State Fault Refusal :=
  onSoc s fun s => s.receive h fun s =>
    let free := h.meas == 0 && 9 ≤ h.win && h.win ≤ 15
    if h.poison then s
    else if !free && s.isOld h then s.count EZL_DUP.addr
    else match placeAt (if free then some (s.window h.win) else s.windowFor h.meas h.win) h with
      | none => s.rejectFrame h
      | some a => s.storeBytes a (payload.take h.length)

/-! Messages (R307–R309). -/

/-- The send slots from the next one up to `post`, at most 256. -/
def slotsUpTo (next post : Nat) : List Nat := (List.range ((post + 256 - next) % 256)).map fun i => (next + i) % 256

def execMessageSendPost (who : Requester) (chan post : Nat) (s : State) : Host.Outcome State Fault Refusal :=
  onSoc s fun s => if 16 ≤ chan then s else s.commandWrite who (EZL_CH_TXPOST.addr chan) (BitVec.ofNat 32 post) fun s =>
    let base := s.rd (EZL_CH_BASE_HI.BASE chan) * 2 ^ 32 + s.rd (EZL_CH_BASE_LO.BASE chan) * 2 ^ 21
    let s := s.wr (EZL_CH_TXPOST.POST chan) (post % 256)
    if !s.flag (EZL_CH_BASE_HI.OPEN chan) then s else
    let new := (slotsUpTo (s.channel chan).nextSend (post % 256)).map fun k =>
      let a := base + 4096 * (256 + k)
      (k, s.load (a + 16) (min 4080 (s.loadNat a 4)))
    (s.onChannel chan fun x => { x with
      sending := x.sending ++ new
      nextSend := post % 256
      headSince := if x.sending.isEmpty then s.now else x.headSince }).pumpChannel chan

def execMessageReceivePost (who : Requester) (chan post : Nat) (s : State) : Host.Outcome State Fault Refusal :=
  onSoc s fun s => if 16 ≤ chan then s else s.commandWrite who (EZL_CH_RXPOST.addr chan) (BitVec.ofNat 32 post) fun s =>
    s.wr (EZL_CH_RXPOST.POST chan) (post % 256)

/-- R308: a message that still waits 1 ms after it reached the head is withdrawn. -/
def execMessageWithdraw (chan : Nat) (s : State) : Host.Outcome State Fault Refusal :=
  onSoc s fun s => if (s.channel chan).sentAs.isNone && decide ((s.channel chan).headSince + 1000000 ≤ s.now) then s.endMessage chan 3 else s

/-! Mirroring and the commit (R310–R314). -/

/-- R306: a mirror slot may be written again: its copy is retired on the follow, by a committed state copy, and the commit of its
content came at least two measures ago. -/
def State.slotFree (s : State) (m : MirrorSlot) : Bool :=
  m.retiredIn.any (fun n => decide (n < s.link.acked)) && m.ackedIn.any (fun n => decide (n + 2 ≤ s.measure))

/-- R310: the lowest mirror slot of a group that may be written. -/
def State.freeMirrorSlot (s : State) (g : Nat) : Nat :=
  let busy := (s.link.mirrorSlots.filter fun m => m.group == g && !s.slotFree m).map (·.slot)
  ((List.range (busy.length + 1)).find? fun k => !busy.contains k).getD busy.length

/-- R22: the link accepts the oldest waiting mirror copy, once it has cells for it (R299), and stamps it with the current measure;
its command belongs to that measure. -/
def State.acceptMirror (s : State) : State :=
  match s.link.waiting with
  | [] => s
  | i :: rest =>
    if !s.paired || s.link.holdAccept.isSome || !s.linkCredit (cellsOf 4160) then s else
    let s := s.onLink fun l => { l with waiting := rest }
    match s.store.copies.find? (·.id == i) with
    | none => s
    | some c =>
      let n := s.measure
      let s := s.onStore fun x => { x with copies := setBy HeldCopy.id i (fun c => { c with meas := some n }) x.copies }
      let s := match c.cmd with
        | some k => s.onCommand k fun h => if h.kind.dataless then h else { h with meas := some n }
        | none => s
      let t := (s.link.txMeasures.find? (·.meas == n)).getD ⟨n, []⟩
      let k := s.freeMirrorSlot c.group
      let s := s.onLink fun l => { l with
        txMeasures := putBy TxMeasure.meas { t with frames := addFrame c.group 4112 t.frames } l.txMeasures
        mirrorSlots := ⟨c.group, k, i, none, none⟩ :: l.mirrorSlots.filter fun m => !(m.group == c.group && m.slot == k) }
      s.sendFrame .mirror c.group c.group (s.rd (EZL_WIN_CTL.KEY c.group)) n (4112 * k) (.mirror ⟨c.nsid, c.lba, c.tag, c.content, c.dealloc⟩)

def execMirrorCopyAccept (s : State) : Host.Outcome State Fault Refusal := onData s State.acceptMirror

/-- R313, R331: a frame of a state copy arrives; the last one makes it whole, and its health word and values count. -/
def execStateCopyReceived (h : FrameHead) (copy : StateCopy) (last : Bool) (s : State) : Host.Outcome State Fault Refusal :=
  onSoc s fun s => s.receive h fun s =>
    if !s.paired then s
    else if s.isOld h then s.count EZL_DUP.addr
    else
      let s := s.onRx h.meas fun r => { r with
        whole := last
        copy := some (match r.copy with | some c => { copy with records := c.records ++ copy.records } | none => copy) }
      if last then ((s.onLink fun l => { l with peer := some copy.values, peerLeads := copy.leads }).healthArrived copy.health.toNat).showPairing
      else s

/-- Step 2 of R313: one record takes effect on the follow; `n` is the measure committed. -/
def State.applyRecord (s : State) (n : Nat) : StateRecord → State
  | .journal set r =>
    let e := { entryOf set r with meas := n }
    let others := s.store.peerJournal.filter fun q => !(q.set == set && q.slot == r.slot)
    s.onStore fun x => { x with peerJournal := if r.state = 3 then others else others ++ [e] }
  | .retired set stripe =>
    (s.onStore fun x => { x with mirrors := x.mirrors.filter fun c => !(c.set == set && c.stripe == stripe && c.meas ≤ n) }).showDirty
  | .extents nsid map => s.onNamespace nsid fun x => { x with extents := map }
  | .mapBit second set stripe v =>
    if second then (s.touchPage 1 set stripe).onStore fun x => { x with stripeMapNext := putStripe x.stripeMapNext (set, stripe) v }
    else (s.touchPage 0 set stripe).onStore fun x => { x with stripeMap := putStripe x.stripeMap (set, stripe) (v != x.mapAllSet.contains set) }
  | .rebuilt set z stripe v => if v then s.setRebuildBit set z stripe else s.clearRebuildBits set z fun b => b == stripe
  | .lost set stripe strip lba nsid meas rmask cause =>
    let e : LostEntry := ⟨set, stripe, strip, lba, nsid, meas, rmask, cause, true, false⟩
    s.onStore fun x => { x with lost := x.lost.filter (fun q => !q.isAt set stripe strip) ++ (if rmask = 0 then [] else [e]) }
  | .reservation nsid rtype holder regs gen => s.onNamespace nsid fun x => { x with resv := ⟨rtype, holder, regs, gen⟩ }
  | .move set nsid ext source dest phase =>
    let m : ExtentMove := ⟨set, nsid, ext, source, dest, moveStateOf phase, [], [], 0, none, [], 0, 0⟩
    s.onStore fun x => { x with moves := x.moves.filter (fun q => !(q.nsid == nsid && q.ext == ext)) ++ [m] }
  | .config addr hi lo val => s.onLink fun l => { l with peerConfig := putBy (fun w : RwmWrite => w.addr * 64 + w.lo) ⟨addr, hi, lo, val⟩ l.peerConfig }
  | .policy g set wb enc => s.onHost fun h => { h with policies := h.policies.set g ⟨set, wb, enc⟩ }
  | .nsRecord nsid group set blocks lbaf wb enc formatting deleted attached blob =>
    let old := match s.namespace nsid with | some n => n.attached | none => []
    let attached := attached.filter fun c => s.isPeers c || (s.controller c).isSome
    let n : Namespace := match s.namespace nsid with
      | some n => n
      | none => ⟨nsid, group, set, blocks, lbaf, wb, false, enc, [], [], false, ⟨0, none, [], 0⟩, false, []⟩
    let n := { n with group := group, configuredWb := wb, lbaf := lbaf, formatting := formatting, deleted := deleted, attached := attached, blob := blob }
    let s := s.onHost fun h => { h with namespaces := putBy Namespace.nsid n h.namespaces }
    s.each (added old attached ++ added attached old) fun c s => s.namespaceChanged c nsid
  | .nsGone nsid => s.onHost fun h => { h with namespaces := dropBy Namespace.nsid nsid h.namespaces }
  | .scrubAt set p => if s.leadsIn set then s else s.setReg (RBD_SPOS.addr set) (BitVec.ofNat 64 p)
  | .copyAt set u p =>
    if s.store.copyBack.contains (set, u) && Decidable.decide (s.rd64 (RBD_CPOS.addr set) < p) then s.setReg (RBD_CPOS.addr set) (BitVec.ofNat 64 p) else s
  | .longOp slot st r => s.onAdmin fun a => { a with peerOps := putBy (·.1) (slot, st, r) a.peerOps }
  | .activating v => s.onAdmin fun a => { a with peerActivating := v }
  | .controllers l => s.onHost fun h => { h with peerControllers := l }

/-- R314: a baseline holds the full content, so what this module held of its groups goes at its first copy: the peer's journal, the
lost blocks, moves and map bits of their namespaces. -/
def State.clearForBaseline (s : State) (c : StateCopy) : State :=
  let mine := s.host.namespaces.filter fun n => c.groups.contains n.group
  let ids := mine.map (·.nsid)
  let covers := fun (set stripe : Nat) => mine.any fun n => n.set == set && n.extents.contains (stripe / (s.geom set).perExtent)
  (s.onStore fun x => { x with
    peerJournal := []
    lost := x.lost.filter fun e => e.own || !ids.contains e.nsid
    moves := x.moves.filter fun m => !ids.contains m.nsid
    stripeMap := x.stripeMap.filter fun p => x.mapAllSet.contains p.1 || !covers p.1 p.2 }).onLink fun l => { l with
    baselineNamed := some [] }

/-- R314: the namespaces that a baseline copy names; with its last copy those of its groups that none has named go. -/
def State.noteBaseline (s : State) (c : StateCopy) : State :=
  let named := s.link.baselineNamed.getD [] ++ c.records.filterMap fun r => match r.2 with | .nsRecord nsid .. => some nsid | _ => none
  if c.lastBaseline then
    (s.onHost fun h => { h with namespaces := h.namespaces.filter fun n => !(c.groups.contains n.group && !named.contains n.nsid) }).onLink
      fun l => { l with baselineNamed := none }
  else s.onLink fun l => { l with baselineNamed := some named }

/-- R313: measure N commits on the follow: its mirror copies are durable, the records take effect, and the commit goes. A
committed last baseline makes this module the follow of its groups at the next boundary (R314); older mirror copies of
those groups go with it. -/
def State.commitMeasure (s : State) (n : Nat) (c : StateCopy) : State :=
  let s := if c.lastBaseline then s.onStore fun x => { x with journalHeld := true, mirrors := x.mirrors.filter fun m => !(c.groups.contains m.group && m.committed) } else s
  let s := s.onStore fun x => { x with mirrors := x.mirrors.map fun m => if m.meas == n then { m with committed := true } else m }
  let s := if c.baseline && s.link.baselineNamed.isNone then s.clearForBaseline c else s
  let s := s.each c.records fun r s => s.applyRecord n r.2
  let s := if c.baseline then s.noteBaseline c else s
  let s := s.onLink fun l => { l with
    committed := n + 1
    firstMarker := false
    rxMeasures := l.rxMeasures.filter fun r => n < r.meas
    heard := l.heard.filter fun x => n < x.1
    followNext := if c.lastBaseline then l.followNext ++ c.groups else l.followNext }
  ((s.setReg EZL_CSENT.addr (BitVec.ofNat 64 n)).sendFrame .commit 0 0 0 n 0 .empty).showDirty

/-- The counts of a marker that are not zero. -/
def markerCounts (counts : List (Nat × Nat)) : List (Nat × Nat × Nat) :=
  (counts.zipIdx.filter fun (c, _) => c.1 != 0).map fun (c, g) => (g, c.1, c.2)

/-- R305, R313: a commit marker: answered at once for a measure already committed; committed when everything of the
measure has been placed and the measure before it; a resend is asked for where the counts or the state copy do not agree. The
first marker since the entry to Paired needs no measure before it. -/
def execCommitMarkerReceived (h : FrameHead) (counts : List (Nat × Nat)) (s : State) : Host.Outcome State Fault Refusal :=
  onSoc s fun s => s.receive h fun s =>
    if !s.paired then s
    else if s.isOld h then s.sendFrame .commit 0 0 0 (s.link.committed - 1) 0 .empty
    else
      let r := (s.link.rxMeasures.find? (·.meas == h.meas)).getD ⟨h.meas, [], none, false⟩
      let s := s.onLink fun l => { l with markerSeen := max l.markerSeen (h.meas + 1) }
      let next := h.meas == s.link.committed || s.link.firstMarker
      let good := r.whole && r.frames == markerCounts counts
      match good, r.copy with
      | true, some c => if next then s.commitMeasure h.meas c else s
      | _, _ => (s.sendFrame .resend 0 0 0 h.meas 0 .empty).discardUncommitted

/-- The lead learns that measure N has committed: copies of N and before are durable (R70), retained frames go, reads and
reservations that waited go on. -/
def State.measureAcked (s : State) (n : Nat) : State :=
  if n < s.link.acked then s else
  let s := s.setReg EZL_CRCVD.addr (BitVec.ofNat 64 n)
  let s := s.onLink fun l => { l with
    acked := n + 1
    retained := l.retained.filter fun f => f.meas == 0 || n < f.meas
    txMeasures := l.txMeasures.filter fun t => n < t.meas
    mirrorSlots := l.mirrorSlots.map fun m =>
      if m.ackedIn.isNone && !(l.retained.any fun f => f.type == .mirror && f.win == m.group && f.offset == 4112 * m.slot && n < f.meas)
      then { m with ackedIn := some s.measure } else m
    holdAccept := if l.holdAccept.any (fun m => decide (m ≤ n)) then none else l.holdAccept
    joining := l.joining ++ ((l.baselineSent.filter fun b => b.2 ≤ n).map (·.1))
    baselineSent := l.baselineSent.filter fun b => n < b.2 }
  let commit := fun c : HeldCopy => if c.writeBack && c.meas.any (fun m => decide (m ≤ n)) then { c with durable := true } else c
  let s := s.onStore fun x => { x with copies := x.copies.map commit }
  let s := s.applyReservationsUpTo n
  let s := if s.keys.ratchetMeasure.any (fun m => decide (m ≤ n)) then s.destroyOldKeks.emit (.message 2 (leBytes 1 8)) else s
  (s.showRetained).freeCopies

/-- R73: the follow's commit of measure N. -/
def execCommitReceived (h : FrameHead) (s : State) : Host.Outcome State Fault Refusal :=
  onData s fun s => s.receive h fun s => s.measureAcked h.meas

/-- R313: the lead resends. -/
def execResendRequestReceived (h : FrameHead) (s : State) : Host.Outcome State Fault Refusal :=
  onSoc s fun s => s.receive h fun s => s.resendMeasures.count EZL_RESEND.addr

/-- R301, R414: a resume is accepted only with an EPOCH (its OFFSET) above the last one accepted. -/
def execResumeReceived (h : FrameHead) (values : PairValues) (s : State) : Host.Outcome State Fault Refusal :=
  onSoc s fun s => s.receive h fun s =>
    if h.offset ≤ s.link.epochRx then s
    else (s.onLink fun l => { l with epochRx := h.offset, peer := some values }).showPairing

/-- R315: a commit has not come by the boundary that ends N + CTMO; baselines are due again (R314). -/
def execFollowLost (s : State) : Host.Outcome State Fault Refusal :=
  onData s fun s =>
    if s.paired && s.link.txMeasures.any (fun t => decide (t.meas + s.rd EZL_CTL.CTMO < s.measure)) then
      s.loseFollow.onLink fun l => { l with baseline := (List.range 8).filter s.leads }
    else s

/-- R316: no later marker has come for CTMO measures. -/
def execLeadSilenceTimeout (s : State) : Host.Outcome State Fault Refusal :=
  onSoc s fun s => if s.paired && s.link.markerSeen ≤ s.link.committed && s.link.committed + s.rd EZL_CTL.CTMO ≤ s.measure then s.stopFollowing else s

/-! At a boundary. -/

/-- R300, R301, R314: at the boundary that begins measure N a Linked link whose conditions all hold enters Paired and the
baselines of the led groups are due; a Paired link with a condition failing leaves. -/
def State.pairAtBoundary (s : State) (n : Nat) : State :=
  let s := (if s.linkState != linkDown && !s.linkKeyed then s.linkGoesDown else s).showPairing
  if s.linkState = linkLinked && s.pairFault == 0 && s.link.peer.isSome then
    let led := (List.range 8).filter s.leads
    (s.wr EZL_STAT.STATE linkPaired).onLink fun l => { l with committed := n, acked := n, baseline := led, rxMeasures := [], firstMarker := true, markerSeen := n }
  else if s.paired && s.pairFault != 0 then (s.leavePaired).wr EZL_STAT.STATE linkLinked
  else s

/-- R314: groups whose baseline has committed have a follow from this boundary; groups of the peer's whose baseline this
module committed are followed, and tested at once (R332). -/
def State.joinAtBoundary (s : State) : State :=
  let bits := s.link.joining.foldl (fun n g => n ||| 2 ^ g) (s.rd EZL_STAT.JOINED)
  let s := s.wr EZL_STAT.JOINED bits
  let new := s.link.followNext
  let s := s.onLink fun l => { l with joining := [], followNext := [], following := l.following ++ new.filter (!l.following.contains ·) }
  s.each new fun g s => s.onGroup g fun t => { t with testAsked := true, lastTest := s.now / 10 ^ 9 }

end Sys2Proof.Machine
end

