-- ==== Sys2Proof/Machine/Slots.lean ====
section
/-! DEFINITION. Drive slots (chapter Drive Slots): bringing a drive up, orderly removal, containment, the peer's slot events,
slot commands, command timeouts and errors, the sideband and the indicators. -/

set_option Elab.async false

namespace Sys2Proof.Machine

/-! Slot states of Table 13.2, as SLT_STAT.STATE shows them. -/
def slotEmpty : Nat := 0
def slotDebounce : Nat := 1
def slotPowering : Nat := 2
def slotTraining : Nat := 3
def slotChecking : Nat := 4
def slotReady : Nat := 5
def slotRefused : Nat := 6
def slotRemoving : Nat := 7
def slotOff : Nat := 8
def slotContained : Nat := 9

def State.slotState (s : State) (k : Nat) : Nat := s.rd (SLT_STAT.STATE k)

def SlotHold.blank (k : Nat) : SlotHold := ⟨k, 0, false, 0, false, 0, 0⟩
def State.slotHold (s : State) (k : Nat) : SlotHold := (getBy SlotHold.slot k s.slots.holds).getD (SlotHold.blank k)
def State.onHold (s : State) (k : Nat) (f : SlotHold → SlotHold) : State :=
  s.onSlots fun x => { x with holds := putBy SlotHold.slot (f (s.slotHold k)) x.holds }

/-- A slot enters a state; the time of that state starts. -/
def State.setSlot (s : State) (k st : Nat) : State :=
  (s.wr (SLT_STAT.STATE k) st).onHold k fun h => { h with since := s.now, ending := false, debounced := false }

/-- A slot has been in its state for a time in ms (Table 13.2). -/
def State.slotTime (s : State) (k ms : Nat) : Bool := Decidable.decide ((s.slotHold k).since + ms * 1000000 ≤ s.now)

/-- An SLT_EVT bit sets, and management hears of it (R356, Table 17.6). -/
def State.slotEvent (s : State) (k : Nat) (f : Fld) : State :=
  let s := s.wr f 1
  s.notify (.slotEvent k (BitVec.ofNat 32 (s.reg (SLT_EVT.addr k)).toNat))

/-- A message to the peer on channel 3: what happened (1 a slot event, 2 Off entered, 3 Off left, 5 Ready), the slot, the REASON. The
layout is the model's. -/
def State.tellPeerSlot (s : State) (what k reason : Nat) : State := s.emit (.message 3 (leBytes 1 what ++ leBytes 1 k ++ leBytes 1 reason))

/-! Power and link of a slot. -/

/-- Pull SLOT_PWRENk_N low: the slot is Powering, and its reference clock runs (Table 13.1). -/
def State.powerSlot (s : State) (k : Nat) : State :=
  let s := (s.onSlots fun x => { x with pulled := k :: x.pulled.filter (· != k) }).wrs
    [(SLT_STAT.PWR_OWN k, 1), (SLT_STAT.PWR_NET k, 1)]
  (s.setSlot k slotPowering).emits [.pin (.slotPower k) false, .pin (.slotRefclk k) true]

/-- The drive's link is down (R353). -/
def State.slotLinkDown (s : State) (k : Nat) : State :=
  if s.flag (SLT_LSTAT.UP k) then (s.setReg (SLT_LSTAT.addr k) 0).slotEvent k (SLT_EVT.LINK_CHG k) else s

/-- Assert DRV_PERSTk_N and release SLOT_PWRENk_N. The line stays low if the peer pulls it, which the module cannot tell but
for a slot that the peer holds Off. -/
def State.releaseSlotPower (s : State) (k : Nat) : State :=
  let s := (s.onSlots fun x => { x with pulled := x.pulled.filter (· != k) }).wr (SLT_STAT.PWR_OWN k) 0
  let (v, s) := if s.slots.peerOff.contains k then (0, s) else s.draw
  (s.wr (SLT_STAT.PWR_NET k) (v % 2)).emits [.pin (.slotReset k) false, .pin (.slotPower k) true, .pin (.slotRefclk k) false]

/-- Debounce is over: Off if the peer holds the slot Off, else Powering, once R590 allows it. -/
def State.slotGo (s : State) (k : Nat) : State :=
  if s.slots.peerOff.contains k then s.setSlot k slotOff
  else if s.slots.listKnown then s.powerSlot k
  else s.onHold k fun h => { h with debounced := true }

/-- R590: slots that have waited for the peer's list. -/
def State.slotsGo (s : State) : State :=
  s.each (List.range 48) fun k s => if s.slotState k == slotDebounce && (s.slotHold k).debounced then s.slotGo k else s

/-! Failing the member of a slot (R355). -/

/-- The member whose drive a slot holds, if it has not failed. -/
def State.liveMember (s : State) (k : Nat) : Option (Nat × Nat) :=
  match s.memberOfSlot k with
  | some (set, u) => if s.flag (QDL_MEM.FAILED set u) then none else some (set, u)
  | none => none

/-- A slot event with a REASON: the member fails here at once, and on the peer when the message comes. -/
def State.slotMemberFails (s : State) (k reason : Nat) : State :=
  match s.liveMember k with
  | some (set, u) => ((s.wr (SLT_STAT.REASON k) reason).failMember set u).tellPeerSlot 1 k reason
  | none => s

/-- R353–R355: containment: the link is disabled, every command outstanding meets its fate, and the member fails. -/
def State.containSlot (s : State) (k reason : Nat) : State :=
  let s := ((s.wr (SLT_STAT.REASON k) reason).setSlot k slotContained).slotLinkDown k
  let s := (s.count (SLT_DPC.addr k)).flagFault (SLT_EVT.CONTAIN k) 4 1 (0x28 + k) k
  ((s.slotEvent k (SLT_EVT.CONTAIN k)).slotMemberFails k reason).opsLost k

/-! Bring-up rows. -/

/-- PRSNTk_N goes low. -/
def execPresenceChange (slot : Nat) (s : State) : Host.Outcome State Fault Refusal :=
  onSoc s fun s => if slot < 48 && s.slotState slot == slotEmpty then s.setSlot slot slotDebounce else s

/-- PRSNTk_N goes high before 50 ms. -/
def execSlotDebounceBreak (slot : Nat) (s : State) : Host.Outcome State Fault Refusal :=
  onSoc s fun s => if s.slotState slot = slotDebounce && !(s.slotHold slot).debounced then s.setSlot slot slotEmpty else s

def execSlotDebounceEnd (slot : Nat) (s : State) : Host.Outcome State Fault Refusal :=
  onSoc s fun s =>
    if s.slotState slot = slotDebounce && s.slotTime slot 50 then ((s.wr (SLT_STAT.PRSNT slot) 1).slotEvent slot (SLT_EVT.PRSNT_CHG slot)).slotGo slot else s

/-- R590: the peer's list of slots it holds Off. -/
def execOffListReceived (slots : List Nat) (s : State) : Host.Outcome State Fault Refusal :=
  onSoc s fun s => (s.onSlots fun x => { x with peerOff := slots, listKnown := true }).slotsGo

/-- R590: 2 s since start-up without the link reaching Linked. -/
def execOffListTimeout (s : State) : Host.Outcome State Fault Refusal :=
  onSoc s fun s => if linkLinked ≤ s.linkState || s.now < 2 * 10 ^ 9 then s else (s.onSlots fun x => { x with listKnown := true }).slotsGo

def execSlotPoweringEnd (slot : Nat) (s : State) : Host.Outcome State Fault Refusal :=
  onSoc s fun s => if s.slotState slot = slotPowering && s.slotTime slot 100 then (s.setSlot slot slotTraining).emit (.pin (.slotReset slot) true) else s

/-- R344: whether a link is accepted. Speed codes 4, 5 and 6 are 16, 32 and 64 GT/s. -/
def linkAccepted (l : SlotLink) : Bool :=
  4 ≤ l.speed && l.speed ≤ 6 && (l.width == 1 || l.width == 2) && (if l.speed = 6 then l.flit else l.flit == l.offered)

/-- R344: below 64 GT/s ×2. -/
def linkDegraded (l : SlotLink) : Bool := l.speed < 6 || l.width < 2

def execSlotLinkUp (slot : Nat) (link : SlotLink) (s : State) : Host.Outcome State Fault Refusal :=
  onSoc s fun s =>
    if s.slotState slot != slotTraining || s.slotTime slot 2000 || !linkAccepted link then s else
    let s := (s.wrs [(SLT_LSTAT.UP slot, 1), (SLT_LSTAT.FLIT slot, if link.flit then 1 else 0), (SLT_LSTAT.SPEED slot, link.speed),
      (SLT_LSTAT.WIDTH slot, link.width)]).setSlot slot slotChecking
    let s := if linkDegraded link then s.flagFault (SLT_LSTAT.DEGRADED slot) 4 1 (0x28 + slot) slot else s
    (s.slotEvent slot (SLT_EVT.LINK_CHG slot)).emit (.driveAdmin slot .enable)

def execSlotTrainingTimeout (slot : Nat) (s : State) : Host.Outcome State Fault Refusal :=
  onSoc s fun s =>
    if s.slotState slot = slotTraining && s.slotTime slot 2000 then
      ((s.wr (SLT_STAT.REASON slot) 1).setSlot slot slotRefused).emit (.pin (.slotReset slot) false)
    else s

/-- R349: the REASONs of the checks that a drive fails, in their order (Table 13.7). -/
def failedChecks (r : DriveReport) : List Nat :=
  [(7, r.ready), (2, r.dualPort), (3, r.oneNamespace),
   (4, r.dataBytes == 4096 && r.metaBytes == 16 && r.protection == 1 && r.guardBits == 64 && r.storageTag == 0),
   (5, r.readsZero && r.deallocates), (6, r.reserves)].filterMap fun (reason, ok) => if ok then none else some reason

/-- R349: the checks end: the first that the drive fails gives the REASON; a drive that fails none is Ready. -/
def execSlotCheckComplete (slot : Nat) (report : DriveReport) (s : State) : Host.Outcome State Fault Refusal :=
  onSoc s fun s =>
    if s.slotState slot ≠ slotChecking then s else
    let s := s.onSlots fun x => { x with reports := putBy (·.1) (slot, report) x.reports }
    match failedChecks report with
    | reason :: _ => (s.wr (SLT_STAT.REASON slot) reason).setSlot slot slotRefused
    | [] =>
      let s := (s.wr (SLT_STAT.REASON slot) 0).setSlot slot slotReady
      let s := s.onStore fun x => { x with slotBlocks := putPerSet x.slotBlocks slot report.blocks }
      let s := (s.notify (.slotEvent slot (BitVec.ofNat 32 (s.reg (SLT_EVT.addr slot)).toNat))).tellPeerSlot 5 slot 0
      match s.memberOfSlot slot with
      | some (set, _) => if s.store.assembled.contains set then s.registerOn slot else s
      | none => s

/-! Removal (R351, R352). -/

/-- A failed member whose substitution is absent or rebuilding. -/
def State.unrebuilt (s : State) (set u : Nat) : Bool :=
  match s.substitution set u 4 with
  | some z => s.rd (QDL_SUB.STATE set z) == 1
  | none => true

/-- R351: the removal test of a Ready slot. A drive whose member has failed already is not tested (Table 13.5). -/
def State.removalRefused (s : State) (k : Nat) : Bool :=
  match s.liveMember k with
  | none => false
  | some (set, _) =>
    let failed := (List.range 48).filter fun u => s.flag (QDL_MEM.FAILED set u) && s.unrebuilt set u
    let wit := s.witnesses
    (s.geom set).m ≤ failed.length + 1 || (wit.any (·.2 == k) && wit.length - 1 < s.majority)

/-- States in which an attention press is accepted (Table 13.2). -/
def slotRemovable (st : Nat) : Bool := (1 ≤ st && st ≤ 6) || st == 9

/-- The removal is over: the link is disabled, the drive's power is released, and the peer is told. -/
def State.removalOver (s : State) (k : Nat) : State :=
  let s := (s.slotLinkDown k).releaseSlotPower k
  let s := ((s.wr (SLT_STAT.REASON k) 0).setSlot k slotOff).wr (SLT_CMD.BUSY k) 0
  (s.slotEvent k (SLT_EVT.REMOVE_DONE k)).tellPeerSlot 2 k 0

/-- R352: the removal ends: the member fails if it has not; the commands already sent to the drive end first. -/
def State.endRemoval (s : State) (k : Nat) : State :=
  let s : State := match s.liveMember k with
    | some (set, u) => ((s.wr (SLT_STAT.REASON k) 0).failMemberBut set u true).tellPeerSlot 1 k 0
    | none => s
  if s.store.ops.any (·.slot == k) then (s.setSlot k slotRemoving).onHold k fun h => { h with ending := true } else s.removalOver k

/-- R352: removals whose drives have no command outstanding any more. -/
def State.endRemovals (s : State) : State :=
  s.each ((s.slots.holds.filter (·.ending)).map (·.slot)) fun k s =>
    if s.slotState k != slotRemoving || s.store.ops.any (·.slot == k) then s else s.removalOver k

/-- The blink of a refusal: 10 s. -/
def State.refuseRemoval (s : State) (k : Nat) : State :=
  (s.slotEvent k (SLT_EVT.REFUSED k)).onHold k fun h => { h with blinkUntil := s.now + 10 ^ 10 }

/-- R351: ATTNk_N held low 20 ms (`low`), or high again. -/
def execAttentionPress (slot : Nat) (low : Bool) (s : State) : Host.Outcome State Fault Refusal :=
  onSoc s fun s =>
    let s := s.wr (SLT_STAT.ATTN slot) (if low then 1 else 0)
    if !low || !s.flag (SLT_CTL.ATTN_EN slot) then s else
    let s := s.slotEvent slot (SLT_EVT.ATTN_PRESS slot)
    let st := s.slotState slot
    if st = slotRemoving then
      if (s.slotHold slot).ending || s.slotTime slot 5000 then s else (s.setSlot slot (s.slotHold slot).back).slotEvent slot (SLT_EVT.CANCEL slot)
    else if !slotRemovable st then s
    else if st == slotReady && s.removalRefused slot then s.refuseRemoval slot
    else (s.onHold slot fun h => { h with back := st }).setSlot slot slotRemoving

def execRemovalTimerEnd (slot : Nat) (s : State) : Host.Outcome State Fault Refusal :=
  onData s fun s => if s.slotState slot = slotRemoving && !(s.slotHold slot).ending && s.slotTime slot 5000 then s.endRemoval slot else s

def execContainment (slot reason : Nat) (s : State) : Host.Outcome State Fault Refusal :=
  onData s fun s =>
    if s.slotState slot = slotReady then ((if reason = 9 then s.count (SLT_UNCORR.addr slot) else s)).containSlot slot reason else s

/-- PRSNTk_N high for 1 ms. -/
def execSurpriseRemoval (slot : Nat) (s : State) : Host.Outcome State Fault Refusal :=
  onData s fun s =>
    if s.slotState slot = slotEmpty then s else
    let s := if s.slotState slot = slotReady then s.containSlot slot 8 else ((s.slotMemberFails slot 8).opsLost slot).slotLinkDown slot
    let s := (((s.releaseSlotPower slot).setSlot slot slotEmpty).wr (SLT_STAT.PRSNT slot) 0).wr (SLT_CMD.BUSY slot) 0
    let s := (s.onSlots fun x => { x with reports := x.reports.filter (·.1 != slot) }).onToken fun t => { t with
      registered := t.registered.filter (· != slot) }
    let s := s.onStore fun x => { x with slotBlocks := x.slotBlocks.filter (·.1 != slot) }
    s.slotEvent slot (SLT_EVT.PRSNT_CHG slot)

/-- R355, R590: the peer tells of one of its slots. -/
def execPeerSlotEvent (slot : Nat) (news : PeerSlotNews) (s : State) : Host.Outcome State Fault Refusal :=
  onData s fun s =>
    match news with
    | .failed _ => match s.liveMember slot with | some (set, u) => s.failMember set u | none => s
    | .entersOff =>
      let s := s.onSlots fun x => { x with peerOff := slot :: x.peerOff.filter (· != slot) }
      let s := if s.flag (SLT_STAT.PWR_OWN slot) then s else s.wr (SLT_STAT.PWR_NET slot) 0
      s.slotsGo
    | .leavesOff => (s.onSlots fun x => { x with peerOff := x.peerOff.filter (· != slot) }).wr (SLT_STAT.PWR_NET slot) 1
    | .ready present => if !present && (s.liveMember slot).isSome then s.registerOn slot else s

/-! Slot commands (Table 13.8). -/

/-- A write of SLT_CMD: ignored while BUSY, else run to its STATUS; an off that awaits commands to the drive stays BUSY. -/
def State.slotCommand (s : State) (who : Requester) (k op : Nat) (act : State → Nat × State) : State :=
  if 48 ≤ k then s else
  s.commandWrite who (SLT_CMD.addr k) (BitVec.ofNat 32 (op * 2 ^ 16)) fun s =>
    if s.flag (SLT_CMD.BUSY k) then s else
    let (st, s) := act s
    s.wrs [(SLT_CMD.STATUS k, st), (SLT_CMD.BUSY k, if (s.slotHold k).ending then 1 else 0)]

def execSlotPowerOn (who : Requester) (slot : Nat) (s : State) : Host.Outcome State Fault Refusal :=
  onSoc s fun s => s.slotCommand who slot 1 fun s =>
    if s.slotState slot = slotOff then (0, (s.powerSlot slot).tellPeerSlot 3 slot 0) else (1, s)

/-- SLT_CMD off, with the removal test in Ready, or forced off without it. -/
def State.slotOffCommand (s : State) (k : Nat) (forced : Bool) : Nat × State :=
  let st := s.slotState k
  if (!slotRemovable st && st != slotRemoving) || (s.slotHold k).ending then (1, s)
  else if st == slotReady && !forced && s.removalRefused k then (2, s.refuseRemoval k)
  else (0, s.endRemoval k)

def execSlotOff (who : Requester) (slot : Nat) (s : State) : Host.Outcome State Fault Refusal :=
  onData s fun s => s.slotCommand who slot 2 fun s => s.slotOffCommand slot false

def execSlotForcedOff (who : Requester) (slot : Nat) (s : State) : Host.Outcome State Fault Refusal :=
  onData s fun s => s.slotCommand who slot 3 fun s => s.slotOffCommand slot true

def execSlotRetrain (who : Requester) (slot : Nat) (s : State) : Host.Outcome State Fault Refusal :=
  onSoc s fun s => s.slotCommand who slot 4 fun s =>
    if s.slotState slot == slotContained || s.slotState slot == slotRefused then
      (0, ((s.slotLinkDown slot).setSlot slot slotTraining).emits [.pin (.slotReset slot) false, .pin (.slotReset slot) true])
    else (1, s)

/-- R350: the drive of a slot fails check 3, 4 or 5 alone. -/
def State.preparable (s : State) (k : Nat) : Bool :=
  match s.slots.reports.find? (·.1 == k) with
  | some (_, r) => failedChecks r == [3] || failedChecks r == [4] || failedChecks r == [5]
  | none => false

/-- R350: prepare, with what the drive shows: whether block 0 holds a witness header of another subsystem, and whether the format
succeeded. -/
def execSlotPrepare (who : Requester) (slot : Nat) (foreignHeader formatted : Bool) (s : State) : Host.Outcome State Fault Refusal :=
  onSoc s fun s => s.slotCommand who slot 5 fun s =>
    if s.slotState slot ≠ slotRefused then (1, s)
    else if !s.preparable slot || s.rd (SLT_STAT.REASON slot) = 1 || foreignHeader then (3, s)
    else
      let s := s.emit (.driveAdmin slot .format)
      if formatted then (0, s.setSlot slot slotChecking) else (3, s)

/-! Commands that time out or end with an error (R358, R592). -/

/-- Send a command again as it stands, with its counts changed. -/
def State.resendOp (s : State) (o : MemberOp) : State :=
  let o := { o with sentAt := s.now }
  ((s.onStore fun x => { x with ops := x.ops.map fun p => if p.id == o.id then o else p }).count (SLT_RETRIES.addr o.slot)).emit (.memberCmd o) |>.postedTo o.slot o.kind

def execMemberCommandTimeout (op : Nat) (s : State) : Host.Outcome State Fault Refusal :=
  onData s fun s =>
    match s.store.ops.find? (·.id == op) with
    | none => s
    | some o =>
      if s.now < o.sentAt + s.rd (SLT_CFG.CMD_TMO o.slot) * 1000000 then s else
      let s := (s.count (SLT_TMO.addr o.slot)).emit (.driveAdmin o.slot (.abort op))
      if o.timeouts < 3 then s.resendOp { o with timeouts := o.timeouts + 1 }
      else if s.slotState o.slot = slotRemoving then (s.opLost o).slotMemberFails o.slot 0xB
      else s.containSlot o.slot 0xB

/-- R104: a walk's write that failed after its retries fails the operation. -/
def State.walkWriteFailed (s : State) (o : MemberOp) : State :=
  match o.purpose with
  | .walk slot => s.onAdmin fun a => { a with ops := a.ops.map fun p => if p.slot == slot then { p with failed := true } else p }
  | _ => s

def execMemberCommandError (op : Nat) (s : State) : Host.Outcome State Fault Refusal :=
  onData s fun s =>
    match s.store.ops.find? (·.id == op) with
    | none => s
    | some o =>
      if o.retries < 3 then s.resendOp { o with retries := o.retries + 1 }
      else if o.kind == .read then s.opLost o
      else
        let s := s.walkWriteFailed o
        match s.liveMember o.slot with
        | some _ => s.slotMemberFails o.slot 0xD
        | none => s.opLost o

/-! The sideband and the indicators. -/

/-- R361: one read of a present drive over its SMBus. -/
def execSidebandPoll (slot : Nat) (reading : Option MiReading) (s : State) : Host.Outcome State Fault Refusal :=
  onSoc s fun s =>
    if !s.flag (SLT_STAT.PRSNT slot) then s else
    match reading with
    | some r =>
      (s.wrs [(SLT_MI.MI_OK slot, 1), (SLT_MI.FLAGS slot, r.flags), (SLT_MI.WARN slot, r.warn), (SLT_MI.TEMP slot, r.temp)]).onHold slot
        fun h => { h with miFails := 0 }
    | none =>
      let n := (s.slotHold slot).miFails + 1
      let s := ((s.wr (SLT_MI.MI_OK slot) 0).count (SLT_MI_ERR.addr slot)).onHold slot fun h => { h with miFails := n }
      if n = 3 then (s.flagFault (SLT_EVT.MI_FAIL slot) 4 1 (0x28 + slot) slot).slotEvent slot (SLT_EVT.MI_FAIL slot) else s

/-- R360: a blink of the time counter: half a second on, half a second off. -/
def State.blink (s : State) : Bool := s.now / 500000000 % 2 == 0

/-- Table 13.4: the three SGPIO bits of a slot: power, attention blink, attention. -/
def State.sgpioBits (s : State) (k : Nat) : List Bool :=
  let st := s.slotState k
  let awaits := match s.memberOfSlot k with
    | some (set, u) => s.flag (QDL_MEM.FAILED set u) && !s.unrebuilt set u
    | none => false
  [ (if st == slotRemoving then s.blink else (2 ≤ st && st ≤ 6) || st == slotContained),
    (s.flag (SLT_CTL.LOCATE k) || decide (s.now < (s.slotHold k).blinkUntil) || awaits) && s.blink,
    st == slotRefused || st == slotContained ]

/-- R359: a frame: three bits a slot, from slot 0. -/
def State.sgpioFrame (s : State) : List Bool := (List.range 48).flatMap s.sgpioBits

end Sys2Proof.Machine
end

