-- ==== Sys2Proof/Machine/LeadToken.lean ====
section
/-! DEFINITION. Lead tokens (chapter Lead Token and Cut-In): renewal and lapse, the fence, the standby self-test, the cut-in,
hand-over and hand-back, witness replacement and the LTK_CMD operations. -/

set_option Elab.async false

namespace Sys2Proof.Machine

/-! Token records (Table 12.2, R321). -/

/-- Bytes 0–63 of a group's record. -/
def tokenHead (r : TokenRecord) (g serial : Nat) : Bytes :=
  leBytes 1 1 ++ leBytes 1 g ++ leBytes 1 r.holder ++ leBytes 1 ((if r.released then 1 else 0) + (if r.handover then 2 else 0)) ++
  leBytes 4 r.leaseUs ++ leBytes 8 r.seq ++ leBytes 8 r.epoch ++ leBytes 8 r.issued ++ leBytes 8 r.expires ++ leBytes 8 r.key ++
  leBytes 16 serial

/-- The record that a block holds. -/
def recordIn (r : TokenRead) : TokenRecord :=
  let b := r.block
  { holder := numAt b 2 1
    released := bitOf (numAt b 3 1) 0
    handover := bitOf (numAt b 3 1) 1
    leaseUs := numAt b 4 4
    seq := numAt b 8 8
    epoch := numAt b 16 8
    issued := numAt b 24 8
    expires := numAt b 32 8
    key := numAt b 40 8 }

/-- The IV head of a record (Table 16.4). -/
def tokenContext (witness g holder : Nat) : Bytes := leBytes 1 3 ++ leBytes 1 witness ++ leBytes 1 g ++ leBytes 1 holder

/-- The tag of a block read verifies. -/
def State.tokenTagOk (s : State) (r : TokenRead) : Bool :=
  let iv := tokenContext r.witness r.group (recordIn r).holder ++ (leBytes 8 (recordIn r).seq).reverse
  Config.gcmTag (s.slotKey 1) iv (r.block.take 64) [] == (r.block.drop 64).take 16

/-- R321: a read counts as answered: its tag verifies, and it is this group's record of this subsystem. -/
def State.tokenGood (s : State) (r : TokenRead) : Bool :=
  s.tokenTagOk r && numAt r.block 0 1 == 1 && numAt r.block 1 1 == r.group && numAt r.block 48 16 == s.link.serial

/-- R321: the reads of a group that count as answered, one of each witness in service. -/
def State.answeredReads (s : State) (g : Nat) (l : List TokenRead) : List TokenRead :=
  s.witnesses.filterMap fun w => l.find? fun r => r.group == g && r.witness == w.1 && s.tokenGood r

/-- What reading records leaves: a mismatch is counted and recorded (R417), the contexts' high-waters rise (R413), and the SEQ of
the group with them. -/
def State.noteTokens (s : State) (l : List TokenRead) : State :=
  s.each l fun r s =>
    if !s.tokenTagOk r then s.tagMismatch 1 else
    let t := recordIn r
    (s.raiseHighWater 1 (leNat (tokenContext r.witness r.group t.holder)) t.seq).onGroup r.group fun x => { x with
      lastSeq := max x.lastSeq t.seq }

/-- Newer blocks take the place of older ones, witness by witness. -/
def mergeReads (old new : List TokenRead) : List TokenRead := new ++ old.filter fun o => !new.any fun n => n.witness == o.witness

/-- R334: reads of a group are kept. The wait starts anew unless they return what this module knew already. -/
def State.keepReads (s : State) (g : Nat) (l : List TokenRead) : State :=
  s.onGroup g fun t => { t with
    read := mergeReads t.read l
    readAt := if l.all t.read.contains then t.readAt else s.now }

/-- The newest of some records. -/
def newestToken (l : List TokenRead) : TokenRecord := l.foldl (fun r x => if r.seq ≤ (recordIn x).seq then recordIn x else r) TokenRecord.blank

/-! Writing records and roles. -/

def State.leaseUs (s : State) : Nat := s.rd LTK_CFG.LEASE * 1000

/-- Table 12.2: SEQ is plus 1 at each write of the record. -/
def State.nextTokenSeq (s : State) (g : Nat) (r : TokenRecord) : Nat := max r.seq (s.token? g).lastSeq + 1

/-- Table 12.2: this module's next record over `r`: a new EPOCH when the holder changes. -/
def State.nextRecord (s : State) (g : Nat) (r : TokenRecord) : TokenRecord where
  holder := s.cfg.position
  released := false
  handover := false
  leaseUs := s.leaseUs
  seq := s.nextTokenSeq g r
  epoch := if r.holder = s.cfg.position then r.epoch else r.epoch + 1
  issued := s.now
  expires := s.now + 1000 * s.leaseUs
  key := s.rd64 LTK_KEY.addr

/-- Send a record to one witness: to one in service with a compare against the block it holds as far as this module knows (R321);
the tag is the witness's own (R412). -/
def State.sendToken (s : State) (w : Nat × Nat) (g : Nat) (r : TokenRecord) (fused : Bool) : State :=
  let head := tokenHead r g s.link.serial
  match s.sealRecord 1 (tokenContext w.1 g r.holder) r.seq head [] with
  | none => s.refuseCounter
  | some (_, tag, s) =>
    let block := padTo 4096 (head ++ tag)
    let known := ((s.token? g).read.find? (·.witness == w.1)).map (·.block)
    let s := s.onGroup g fun t => { t with sent := mergeReads t.sent [⟨g, w.1, block⟩], lastSeq := max t.lastSeq r.seq }
    if fused then
      match known with
      | some c => s.emit (.tokenWrite w.2 g (some c) block)
      | none => s.emit (.tokenRead w.2 g)
    else s.emit (.tokenWrite w.2 g none block)

/-- Write a group's record in one pass over some witnesses. -/
def State.writeTokenTo (s : State) (g : Nat) (r : TokenRecord) (ws : List (Nat × Nat)) : State :=
  s.each ws fun w s => s.sendToken w g r true

/-- Start a pass for a group: its record goes to every witness in service, and, from the holder, to one that is being seeded
(R322, R341). -/
def State.writeToken (s : State) (g : Nat) (r : TokenRecord) : State :=
  let s := (s.onGroup g fun t => { t with writing := some r, sent := [] }).writeTokenTo g r s.witnesses
  match s.token.seeding with
  | some p => if r.holder = s.cfg.position && !p.written.contains g then s.sendToken (p.witness, p.slot) g r false else s
  | none => s

/-- The witnesses of a pass that completed their writes: each holds the block sent to it from now on. -/
def State.passGranted (s : State) (g : Nat) (granted : List Nat) : State :=
  s.onGroup g fun t => { t with read := mergeReads t.read (t.sent.filter fun r => granted.contains r.witness) }

/-- Witnesses in service that granted the pass under way. -/
def State.grants (s : State) (g : Nat) (granted : List Nat) : Nat :=
  (s.witnesses.filter fun w => granted.contains w.1 && (s.token? g).sent.any (·.witness == w.1)).length

/-- Read a group's record from every witness. -/
def State.readToken (s : State) (g : Nat) : State := s.emits (s.witnesses.map fun w => .tokenRead w.2 g)

/-- Set or clear one group's bit of a field. -/
def State.setBit (s : State) (f : Fld) (g : Nat) (v : Bool) : State :=
  s.wr f (s.rd f - (if bitOf (s.rd f) g then 2 ^ g else 0) + (if v then 2 ^ g else 0))

/-- Management sessions are told that the leads have changed since they were `before` (Table 17.6). -/
def State.tellLeads (s : State) (before : Nat) : State :=
  if s.rd LTK_STAT.LEAD = before then s else s.notify (.leadChange (BitVec.ofNat 32 (s.reg LTK_STAT.addr).toNat))

/-- LTK_STAT shows a group led here, with no transition under way. What the lapse of its lease held back goes on (R325). -/
def State.beginLead (s : State) (g : Nat) : State :=
  let before := s.rd LTK_STAT.LEAD
  let s := (((s.setBit LTK_STAT.LEAD g true).setBit LTK_STAT.CHANGE g false).setBit LTK_STAT.NOLEAD g false).setBit LTK_STAT.PLOSS g false
  let s := s.onGroup g fun t => { t with role := .leading, phase := .idle, release := false }
  let s := s.onLink fun l => { l with
    following := l.following.filter (· != g)
    baseline := if s.paired && !l.baseline.contains g then l.baseline ++ [g] else l.baseline }
  (s.each (s.store.openStripes.filter (·.group == g)) fun o s =>
    (if o.closeDue then s.closeStripe o.set o.stripe else s).postReady o.set o.stripe).reportAna.tellLeads before

/-- This module leads the group no longer; `none` is whether no module leads it, as far as this one can tell. -/
def State.endLead (s : State) (g : Nat) (none : Bool) : State :=
  ((((s.setBit LTK_STAT.LEAD g false).setBit LTK_STAT.CHANGE g false).setBit LTK_STAT.NOLEAD g none).setBit EZL_STAT.JOINED g false).yieldWalks.reportAna.tellLeads
    (s.rd LTK_STAT.LEAD)

/-- The LTK_CMD operation under way ends for one group; with the last group it is done. A failure's STATUS stays. -/
def State.commandGroup (s : State) (g status : Nat) : State :=
  match s.token.command with
  | some (op, l) =>
    if !l.contains g then s else
    let l := l.filter (· != g)
    let s := if status = 0 then s else s.wr LTK_CMD.STATUS status
    if l.isEmpty then (s.wr LTK_CMD.BUSY 0).onToken fun t => { t with command := none, surrender := t.surrender && op != 2 }
    else s.onToken fun t => { t with command := some (op, l) }
  | none => s

/-- Commands of a group end with a status: their fetches and reads stop. -/
def State.cutCommands (s : State) (g status : Nat) (which : HostCmd → Bool) : State :=
  (s.each (s.host.commands.filter fun c => c.group == g && which c) fun c s =>
    (s.dropReads c.key).endCommand c status).showRoomWait

/-- R70: every write of a held command is durable; its completion is released at the next boundary. -/
def State.commandDurable (s : State) (c : HostCmd) : Bool :=
  c.stage == .held && (if c.writeBack then !s.mirrorsWait c.key && c.meas.any (fun n => decide (n < s.link.acked)) else s.writtenThrough c)

/-- R325: the lease of a group is no longer valid. -/
def State.stopGroup (s : State) (g : Nat) (role : LeadRole) : State :=
  let s := s.cutCommands g stAnaInaccessible fun c => !s.commandDurable c
  (s.onGroup g fun t => { t with role := role, phase := .idle, writing := none }).endLead g true

/-! Renewal (R322–R325). -/

/-- The roles in which a module writes its record at each pass. -/
def LeadRole.renews : LeadRole → Bool
  | .leading | .handing | .lapsed | .trying | .claimed => true
  | .none | .lost => false

/-- R322, Table 12.3: a pass, once every RENEW. -/
def execLeaseRenewal (s : State) : Host.Outcome State Fault Refusal :=
  onSoc s fun s =>
    if s.token.passAt.any fun p => Decidable.decide (s.now < p + 1000 * s.rd LTK_CFG.RENEW) then s else
    (s.onToken fun t => { t with passAt := some s.now }).each s.token.groups fun t s =>
      if t.role.renews && t.phase != .writing then s.writeToken t.group (s.nextRecord t.group t.record) else s

/-- The record under way was granted on a majority: the lease stands on it, or the hand-over is done. -/
def State.recordGranted (s : State) (t : GroupToken) (r : TokenRecord) : State :=
  let g := t.group
  let s := (s.onGroup g fun t => { t with record := r, writing := none }).setReg (LTK_EXP.addr g) (BitVec.ofNat 64 r.expires)
  if t.phase == .writing then
    let s := (s.onGroup g fun t => { t with role := .none, phase := .idle, release := false }).endLead g t.release
    let s := if t.release then s else (s.count LTK_HANDOVERS.addr).emit (.message 2 (leBytes 1 3 ++ leBytes 1 g ++ leBytes 8 r.seq ++ leBytes 8 r.epoch))
    s.commandGroup g 0
  else
    let s := s.count LTK_RENEWS.addr
    if t.role == .lapsed || t.role == .trying then (s.beginLead g).commandGroup g 0 else s

/-- R341: a record that a pass wrote to a witness being seeded stands there; the peer hears of it. -/
def State.seedingGranted (s : State) (g : Nat) (granted : List Nat) : State :=
  match s.token.seeding with
  | some p =>
    if granted.contains p.witness && (s.token? g).sent.any (·.witness == p.witness) && !p.written.contains g then
      (s.onToken fun t => { t with seeding := some { p with written := g :: p.written } }).emit
        (.message 2 (leBytes 1 13 ++ leBytes 1 (2 ^ g)))
    else s
  | none => s

/-- R323: whether a record read again after a failed compare names the peer; a hand-over's own record does not count. -/
def State.peerNamed (s : State) (g : Nat) (l : List TokenRead) : Bool :=
  (s.answeredReads g l).any fun r => (recordIn r).holder == 1 - s.cfg.position && !(s.token? g).sent.contains r && !(s.token? g).offered.contains r

/-- R322, R323: the end of a pass for one group: the witnesses that completed their writes, and the records read again from those
whose compare failed. -/
def execRenewalComplete (group : Nat) (granted : List Nat) (reads : List TokenRead) (s : State) : Host.Outcome State Fault Refusal :=
  onData s fun s =>
    let t := s.token? group
    match t.writing with
    | none => s
    | some r =>
      let n := s.grants group granted
      let peer := s.peerNamed group reads
      let s := (((s.noteTokens reads).passGranted group granted).keepReads group (s.answeredReads group reads)).seedingGranted group granted
      let s := (s.count LTK_WIT_ERR.addr (s.witnesses.length - n)).onToken fun x => { x with witOk := n }
      if peer then (((s.count LTK_RENEW_FAIL.addr).stopGroup group .none).setBit LTK_STAT.NOLEAD group false).commandGroup group 4
      else if s.majority ≤ n then s.recordGranted (s.token? group) r
      else
        let s := s.count LTK_RENEW_FAIL.addr
        if t.phase == .writing then s
        else (s.onGroup group fun t => { t with writing := none }).when (t.role == .trying) (·.commandGroup group 2)

/-- R324, R325: the lease of the latest granted renewal has run out. -/
def execLeaseExpiry (group : Nat) (s : State) : Host.Outcome State Fault Refusal :=
  onData s fun s =>
    let t := s.token? group
    if (t.role == .leading || t.role == .handing || t.role == .claimed) && t.record.expires ≤ s.now then
      (s.stopGroup group .lapsed).commandGroup group 2
    else s

/-! Lost (R330). -/

def execModuleFenced (s : State) : Host.Outcome State Fault Refusal :=
  onData s fun s =>
    if s.lostModule then s else
    let led := s.rd LTK_STAT.LEAD
    let s := s.each (List.range 8) fun g s =>
      if !bitOf led g then s else
      (s.cutCommands g stAnaLoss fun _ => true).onGroup g fun t => { t with role := .lost, phase := .idle, writing := none }
    let s := s.onToken fun t => { t with groups := t.groups.map fun x => if led = 0 then { x with role := .lost } else x }
    let s := (s.wrs [(LTK_STAT.LEAD, 0), (LTK_STAT.CHANGE, 0), (LTK_STAT.PLOSS, s.rd LTK_STAT.PLOSS ||| led)]).yieldWalks.reportAna.tellLeads led
    s.fault { cls := 7, code := 0x83, severity := 4, source := 0x25, addr := led, data := (s.reg LTK_STAT.addr).toNat }

/-! The standby self-test (R332). -/

/-- A test of a followed group is due: asked for, or its interval has passed and the phrase grants the job. -/
def State.testDue (s : State) (g : Nat) : Bool :=
  s.link.following.contains g && ((s.token? g).testAsked ||
    ((s.token? g).lastTest + s.rd LTK_TIMERS.STEST ≤ s.now / 10 ^ 9 && s.granted 2))

/-- The sets that hold an extent of a group. -/
def State.setsOf (s : State) (g : Nat) : List Nat :=
  (List.range 4).filter fun set => s.host.namespaces.any fun n => n.group == g && n.set == set

/-- R332: a test ran: the records read, the slots whose member lacks this module's key, and those whose Reservation Report shows
another type or whose reserved area did not read. It passes with a majority of records verified, every member right, and every
measure committed whose marker has come. -/
def execStandbySelfTest (group : Nat) (reads : List TokenRead) (absent bad : List Nat) (s : State) : Host.Outcome State Fault Refusal :=
  onSoc s fun s =>
    if !s.testDue group then s else
    let slots := (s.setsOf group).flatMap s.memberSlots
    let passed := s.majority ≤ (s.answeredReads group reads).length && !(slots.any fun k => absent.contains k || bad.contains k) &&
      s.link.markerSeen ≤ s.link.committed
    let s := (s.noteTokens reads).onGroup group fun t => { t with ready := passed, testAsked := false, lastTest := s.now / 10 ^ 9 }
    let s := if passed then s else (s.count LTK_STEST_FAIL.addr).fault
      { cls := 4, code := 0x80, severity := 1, source := 0x25, addr := group, data := s.rd64 LTK_HEALTH.addr / 2 ^ 32, dataOff := 0x2C }
    (s.each (slots.filter absent.contains) fun k s => s.registerOn k).commandGroup group 0

/-! Cut-in (R333–R337). -/

/-- No health word for MISS measures. -/
def State.peerSilent (s : State) : Bool := s.rd LTK_CFG.MISS ≤ s.measure - s.token.lastHealth

def execPeerSuspect (s : State) : Host.Outcome State Fault Refusal :=
  onSoc s fun s =>
    if s.rd LTK_CSTAT.STATE = cutFollowing && !s.link.following.isEmpty && (s.peerSilent || s.peerLapsed) then
      let gs := (List.range 8).filter fun g => !s.leads g && (s.link.following.contains g || bitOf s.link.peerLeads g)
      let s := (s.wrs [(LTK_CSTAT.STATE, cutSuspect), (LTK_CSTAT.GROUPS, groupBits gs.contains)]).onToken fun t => { t with
        healthSeen := false
        rereadAt := s.now }
      s.each gs fun g s => s.readToken g
    else s

/-- Show EXPIRES of the newest record read from a majority (Table 12.8). -/
def State.showExpiry (s : State) (g : Nat) (l : List TokenRead) : State :=
  if s.majority ≤ l.length then s.setReg (LTK_EXP.addr g) (BitVec.ofNat 64 (newestToken l).expires) else s

/-- Witnesses whose record has changed since it was last read. -/
def changedReads (old new : List TokenRead) : Nat :=
  (new.filter fun n => old.any fun o => o.witness == n.witness && o != n).length

/-- Reads answered in Suspect: with a majority for every group, the wait starts for the groups that name the peer. -/
def State.suspectReads (s : State) (reads : List TokenRead) : State :=
  let gs := s.cutGroups
  if !(gs.all fun g => s.majority ≤ (s.answeredReads g reads).length) then s else
  let take := gs.filter fun g => (newestToken (s.answeredReads g reads)).holder == 1 - s.cfg.position
  let s := s.each gs fun g s => ((s.showExpiry g (s.answeredReads g reads)).keepReads g (s.answeredReads g reads)).onGroup g fun t => { t with readAt := s.now }
  if take.isEmpty then s.stopCutIn else
  (s.wrs [(LTK_CSTAT.GROUPS, groupBits take.contains), (LTK_CSTAT.STATE, cutWaiting),
    (LTK_STAT.CHANGE, s.rd LTK_STAT.CHANGE ||| groupBits take.contains)]).reportAna

/-- Reads answered in Waiting: a record changed on a majority stops the cut-in; changed elsewhere, the group's wait starts anew. -/
def State.waitingReads (s : State) (reads : List TokenRead) : State :=
  let changed := fun g => changedReads (s.token? g).read (s.answeredReads g reads)
  let stop := s.cutGroups.any fun g => Decidable.decide (s.majority ≤ changed g)
  let s := s.each s.cutGroups fun g s => s.keepReads g (s.answeredReads g reads)
  if stop then s.stopCutIn else s

/-- R334: records read are what their witnesses hold. -/
def execTokenRecordReadComplete (reads : List TokenRead) (s : State) : Host.Outcome State Fault Refusal :=
  onSoc s fun s =>
    let s := s.noteTokens reads
    if s.rd LTK_CSTAT.STATE = cutSuspect then s.suspectReads reads
    else if s.rd LTK_CSTAT.STATE = cutWaiting then s.waitingReads reads
    else s.each (List.range 8) fun g s => (s.showExpiry g (s.answeredReads g reads)).keepReads g (s.answeredReads g reads)

/-- Write the claims of the cut-in's groups (Table 12.5). -/
def State.writeClaims (s : State) : State :=
  (s.each s.cutGroups fun g s =>
    if (s.token? g).role == .claimed then s
    else s.writeToken g (s.nextRecord g (newestToken (s.token? g).read))).onToken fun t => { t with rereadAt := s.now }

/-- Table 12.5: reads and claims are repeated every RENEW. -/
def execCutInReread (s : State) : Host.Outcome State Fault Refusal :=
  onSoc s fun s =>
    if s.now < s.token.rereadAt + 1000 * s.rd LTK_CFG.RENEW then s
    else if s.rd LTK_CSTAT.STATE = cutClaiming then s.writeClaims
    else if s.rd LTK_CSTAT.STATE = cutSuspect || s.rd LTK_CSTAT.STATE = cutWaiting then
      let suspect := s.rd LTK_CSTAT.STATE == cutSuspect
      let s := s.onToken fun t => { t with rereadAt := s.now }
      s.each s.cutGroups fun g s => (s.when suspect (·.setBit LTK_STAT.NOLEAD g true)).readToken g
    else s

/-- R328: the old lead's keys, from the records about to be taken. -/
def State.noteOldKeys (s : State) : State :=
  s.onToken fun t => { t with oldKeys := (s.cutGroups.map fun g => (newestToken (s.token? g).read).key).eraseDups }

/-- R334, R338: the time at which a group's record that names the peer may be written: the lease and the guard of 250 µs after the
reads, and 2 × RENEW more while the peer is known to be retrying. -/
def State.claimAt (s : State) (g : Nat) : Nat :=
  (s.token? g).readAt + 1000 * ((s.token? g).read.map fun r => (recordIn r).leaseUs).foldl max 0 + 250000 +
    (if !s.peerSilent && bitOf (s.rd64 LTK_PHEALTH.addr / 2 ^ 24) g then 2000 * s.rd LTK_CFG.RENEW else 0)

def execCutInWaitEnd (s : State) : Host.Outcome State Fault Refusal :=
  onSoc s fun s =>
    if s.rd LTK_CSTAT.STATE = cutWaiting && s.cutGroups.all (fun g => decide (s.claimAt g ≤ s.now)) then
      let (_, s) := s.ownKey
      ((s.noteOldKeys.wr LTK_CSTAT.STATE cutClaiming).each s.cutGroups fun g s => s.setBit LTK_STAT.NOLEAD g true).writeClaims
    else s

/-- Table 12.5: a group's claim has been granted on a majority. -/
def State.gainGroup (s : State) (g : Nat) : State :=
  (((s.onGroup g fun t => match t.writing with | some r => { t with role := .claimed, record := r, writing := none } | none => t).setBit
    LTK_STAT.LEAD g true).setBit LTK_STAT.NOLEAD g false).tellLeads (s.rd LTK_STAT.LEAD)

/-- Table 12.5: a claim fails: HOLDER 0xFF with RELEASED goes over each record gained. -/
def State.giveUpClaims (s : State) : State :=
  let gs := s.cutGroups
  let before := s.rd LTK_STAT.LEAD
  let mine := fun (s : State) (g : Nat) (w : Nat × Nat) => (s.token? g).read.any fun r => r.witness == w.1 && (recordIn r).holder == s.cfg.position
  let s := s.each gs fun g s =>
    let t := s.token? g
    let base := (t.writing.getD t.record)
    let r := { base with holder := 255, released := true, handover := false, seq := s.nextTokenSeq g base }
    let s := (s.writeTokenTo g r (s.witnesses.filter (mine s g))).setBit LTK_STAT.LEAD g false
    s.onGroup g fun t => { t with role := .none, writing := none }
  (s.yieldWalks.stopCutIn.each gs fun g s => s.setBit LTK_STAT.NOLEAD g true).tellLeads before

/-- Claims that witnesses granted, and those whose compare failed there: group and witness. -/
def execClaimComplete (granted failed : List (Nat × Nat)) (s : State) : Host.Outcome State Fault Refusal :=
  onSoc s fun s =>
    if s.rd LTK_CSTAT.STATE ≠ cutClaiming then s else
    let of := fun (l : List (Nat × Nat)) g => (l.filter (·.1 == g)).map (·.2)
    let won := s.cutGroups.filter fun g => (s.token? g).writing.isSome && Decidable.decide (s.majority ≤ s.grants g (of granted g))
    let lost := s.cutGroups.any fun g => Decidable.decide (s.majority ≤ s.grants g (of failed g))
    let s := s.each s.cutGroups fun g s => s.passGranted g (of granted g)
    let s := s.each won fun g s => s.gainGroup g
    if lost then s.giveUpClaims
    else if s.cutGroups.all fun g => (s.token? g).role == .claimed then s.wr LTK_CSTAT.STATE cutFencing
    else s

/-- R328: the slots of every present member of every set that holds an extent of a taken group. -/
def State.fenceSlots (s : State) : List Nat := ((s.cutGroups.flatMap s.setsOf).eraseDups.flatMap s.memberSlots).eraseDups

/-- R328: the fence: this module's key is registered where it is not yet, and the old lead's is preempted everywhere. -/
def execFence (s : State) : Host.Outcome State Fault Refusal :=
  onSoc s fun s =>
    if s.rd LTK_CSTAT.STATE ≠ cutFencing then s else
    let (k, s) := s.ownKey
    let slots := s.fenceSlots
    let s := s.each (slots.filter fun d => !s.token.registered.contains d) fun d s => s.registerOn d
    (s.emits (slots.flatMap fun d => s.token.oldKeys.map fun old => .memberResv d (.preempt k old))).onToken fun t => { t with fenceLeft := slots }

/-- R335: take the state: committed mirror copies become held copies, and every suspect stripe is reconciled: those whose
entry is held from their copies, those found in the journal regions in records newer than the last commit, those heard of after
it, and those with held copies and no entry. -/
def State.takeState (s : State) (blocks : List Bytes) : State :=
  let gs := s.cutGroups
  let heard := (s.link.heard.map fun h => h.2).eraseDups
  let s := s.discardUncommitted.onLink fun l => { l with heard := [] }
  let mine := s.store.mirrors.filter fun m => gs.contains m.group
  let s := s.onStore fun x => { x with mirrors := x.mirrors.filter fun m => !gs.contains m.group }
  let first := s.store.nextCopy
  let s := s.each mine fun m s => s.takeCopy m.block
  let taken := fun (set gen stripe : Nat) => (s.stripeOwner set gen stripe).any fun n => gs.contains n.group
  let entries := s.store.peerJournal.filter fun e => e.state != 3 && taken e.set e.gen e.stripe
  let s := s.each entries fun e s => s.adoptEntry e
  let known := entries.map fun e => (e.set, e.gen, e.stripe)
  let found := (List.range 4).flatMap fun set =>
    ((newestRecords (s.journalOf set blocks)).filter fun r => r.state != 3 && Decidable.decide (s.link.committed ≤ r.meas)).map fun r => (set, r)
  let found := found.filter fun p => taken p.1 p.2.gen p.2.stripe && !known.contains (p.1, p.2.gen, p.2.stripe)
  let s := s.each found fun p s => (s.recoverEntry (entryOf p.1 p.2)).setMapBit p.1 p.2.gen p.2.stripe true
  let known2 := known ++ found.map fun p => (p.1, p.2.gen, p.2.stripe)
  let others := heard.filter fun h => !known2.contains h
  let s := s.each others fun h s => (s.startStep h.1 h.2.1 h.2.2 .recovery (List.range 8)).setMapBit h.1 h.2.1 h.2.2 true
  let bare := ((s.store.copies.filter fun c => first ≤ c.id && !known.contains (c.set, c.gen, c.stripe)).map
    fun c => (c.set, c.gen, c.stripe)).eraseDups
  let s := s.each (bare.filter fun b => !(known2 ++ others).contains b) fun b s => s.startStep b.1 b.2.1 b.2.2 .recovery (List.range 8)
  let s := s.each bare fun b s =>
    (s.each (s.store.copies.filter fun c => c.set == b.1 && c.stripe == b.2.2 && first ≤ c.id && !c.accumulated) fun c s =>
      s.accumulate c).closeStripe b.1 b.2.2
  s.onToken fun t => { t with suspects := (known2 ++ others ++ bare).eraseDups }

/-- R328, R335: every present member has answered or been failed. -/
def execFenceComplete (failed : List Nat) (blocks : List Bytes) (s : State) : Host.Outcome State Fault Refusal :=
  onData s fun s =>
    if s.rd LTK_CSTAT.STATE ≠ cutFencing then s else
    let s := s.each failed fun k s => s.slotMemberFails k 0xC
    ((s.wr LTK_CSTAT.STATE cutTaking).onToken fun t => { t with fenceLeft := [] }).noteJournal blocks |>.takeState blocks

/-- A suspect stripe is reconciled: no step, no close and no lock is left on it. -/
def State.reconciled (s : State) (b : Nat × Nat × Nat) : Bool :=
  (s.openStripe b.1 b.2.2).isNone && !(s.store.steps.any fun p => p.set == b.1 && p.stripe == b.2.2) && !s.store.locked.contains (b.1, b.2.2)

def execTakeComplete (s : State) : Host.Outcome State Fault Refusal :=
  onSoc s fun s =>
    if s.rd LTK_CSTAT.STATE = cutTaking && s.token.suspects.all s.reconciled then
      s.onToken fun t => { t with leadNext := s.cutGroups }
    else s

/-- R337: the old lead's health word is still absent PCYC after Taking ended. -/
def execPeerCycle (s : State) : Host.Outcome State Fault Refusal :=
  onSoc s fun s =>
    match s.token.takenAt with
    | some t =>
      if s.rd LTK_TIMERS.PCYC ≠ 0 && !s.token.healthSeen && t + s.rd LTK_TIMERS.PCYC * 1000000 ≤ s.now then
        ((s.wr EFU_STAT.PCYC 1).emit (.pin .peerCycle false)).onToken fun x => { x with takenAt := none }
      else s
    | none => s

/-! Replacing a witness (R341). -/

/-- R349: a drive that may be named as a witness: its slot is Ready, and it offers a fused Compare and Write. -/
def State.mayWitness (s : State) (k : Nat) : Bool := s.slotState k == slotReady && s.slots.reports.any fun r => r.1 == k && r.2.fused

/-- The lowest-numbered member that has not failed, in a slot group that no remaining witness uses. -/
def State.newWitness (s : State) (w : Nat) : Option Nat :=
  let used := (s.witnesses.filter (·.1 != w)).map (·.2 / 4)
  ((List.range 4).flatMap s.memberSlots).find? fun k => !used.contains (k / 4) && s.mayWitness k

def witnessSlot (w : Nat) : Fld := [LTK_WIT.W0, LTK_WIT.W1, LTK_WIT.W2, LTK_WIT.W3].getD w LTK_WIT.W4

/-- R341: a witness is to be replaced, and this module chooses: the one at position 0, or the one that runs alone. -/
def State.choosesWitness (s : State) (w : Nat) : Bool :=
  Decidable.decide (w < s.rd LTK_WITC.COUNT) && !s.witnesses.any (·.1 == w) && s.token.seeding.isNone && (s.cfg.position == 0 || s.linkState == linkDown)

/-- R341: with no majority left, a module seeds only after a lease plus the guard has passed for every record. -/
def State.seedWaitOver (s : State) : Bool :=
  (List.range 8).all fun g => !(s.token? g).read.isEmpty &&
    Decidable.decide ((s.token? g).readAt + 1000 * ((s.token? g).read.map fun r => (recordIn r).leaseUs).foldl max 0 + 250000 ≤ s.now)

/-- R341 steps 1 to 3: the chooser writes the witness header, and the record of each group that has no holder, as it reads it from the
surviving majority; of every group where no majority is left. Each holder's records follow in its next renewal pass. -/
def State.startSeeding (s : State) (w k : Nat) (reads : List TokenRead) : State :=
  let few := Decidable.decide (s.witnesses.length < s.majority)
  let head := padTo 4096 (leBytes 16 s.link.serial ++ leBytes 1 w)
  let s := (s.sendSlot .write k 0 head .background).onToken fun t => { t with seeding := some ⟨w, k, []⟩ }
  let s := if s.linkUp then s.emit (.message 2 (leBytes 1 12 ++ leBytes 1 w ++ leBytes 1 k)) else s
  let gs := (List.range 8).filter fun g =>
    let l := s.answeredReads g reads
    if few then !l.isEmpty else s.majority ≤ l.length && (newestToken l).holder == 255
  let s := s.each gs fun g s =>
    let r := newestToken (s.answeredReads g reads)
    s.sendToken (w, k) g { r with seq := s.nextTokenSeq g r } false
  let s := s.onToken fun t => { t with seeding := t.seeding.map fun p => { p with written := gs } }
  if s.linkUp then s.emit (.message 2 (leBytes 1 13 ++ leBytes 1 (groupBits gs.contains))) else s

def execWitnessReplace (witness : Nat) (reads : List TokenRead) (s : State) : Host.Outcome State Fault Refusal :=
  onSoc s fun s =>
    if !s.choosesWitness witness then s else
    let s := (s.noteTokens reads).each (List.range 8) fun g s => s.keepReads g (s.answeredReads g reads)
    if s.witnesses.length < s.majority && !s.seedWaitOver then s else
    match s.newWitness witness with
    | none => s
    | some k => s.startSeeding witness k reads

/-- R341 step 4: at the boundary after the last record is written, the new witness is in service. -/
def State.seedingAtBoundary (s : State) : State :=
  match s.token.seeding with
  | some p =>
    if (List.range 8).all p.written.contains then
      (s.wrs [(witnessSlot p.witness, p.slot), (LTK_WITC.V, s.rd LTK_WITC.V ||| 2 ^ p.witness)]).onToken fun t => { t with seeding := none }
    else s
  | none => s

/-! Hand-over and hand-back (R339, R340). -/

/-- R339: the peer's health word shows READY for the group, and the group has joined. -/
def State.peerReady (s : State) (g : Nat) : Bool := bitOf (s.rd64 LTK_PHEALTH.addr / 2 ^ 32) g && bitOf (s.rd EZL_STAT.JOINED) g

/-- R339 steps 1 and 2: report Change, complete commands whose data movement has not begun, and close the open stripes. -/
def State.startHandOver (s : State) (g : Nat) (release : Bool) : State :=
  if !s.leads g || (s.token? g).role != .leading then s else
  let s := ((s.setBit LTK_STAT.CHANGE g true).onGroup g fun t => { t with role := .handing, phase := .closing, release := release }).reportAna
  let s := s.cutCommands g stAnaTransition fun c => c.stage == .slot || c.stage == .lock || c.stage == .room
  s.each (s.store.openStripes.filter (·.group == g)) fun o s => s.closeStripe o.set o.stripe

/-- R339 step 4: the record that names the peer, or no holder for a release. -/
def State.handRecord (s : State) (t : GroupToken) : TokenRecord :=
  { t.record with
    leaseUs := s.leaseUs
    holder := if t.release then 255 else 1 - s.cfg.position
    released := t.release
    handover := !t.release
    seq := s.nextTokenSeq t.group t.record
    epoch := t.record.epoch + 1
    issued := s.now
    expires := s.now + 1000 * s.leaseUs
    key := if t.release then t.record.key else s.token.peerKey }

/-- A hand-over moves on: stripes closed and completions gone, the state copy of the measure `n` just begun committed, the
record written. -/
def State.handProgress (s : State) (n : Nat) (t : GroupToken) : State :=
  let g := t.group
  let write := fun s : State => ((s.onGroup g fun t => { t with phase := .writing }).writeToken g (s.handRecord t)).onGroup g fun t => { t with
    offered := t.sent }
  match t.phase with
  | .closing =>
    if s.store.openStripes.any (·.group == g) || s.host.commands.any (·.group == g) then s
    else if bitOf (s.rd EZL_STAT.JOINED) g then s.onGroup g fun t => { t with phase := .committing n }
    else if t.release then write s
    else (s.onGroup g fun t => { t with role := .leading, phase := .idle }).setBit LTK_STAT.CHANGE g false |>.reportAna |>.commandGroup g 1
  | .committing m => if m < s.link.acked then write s else s
  | .idle | .writing => s

/-- What the boundary that begins measure `n` does for the tokens: groups taken are led, hand-overs move on, a seeded witness is in service, and leads that a
sanitize took go back (R104). -/
def State.tokenAtBoundary (s : State) (n : Nat) : State :=
  let taken := s.token.leadNext
  let s := if taken.isEmpty then s else
    let s := s.each taken fun g s => s.beginLead g
    ((s.wrs [(LTK_CSTAT.STATE, cutFollowing), (LTK_CSTAT.GROUPS, 0)]).count LTK_CUTINS.addr).onToken fun t => { t with
      leadNext := []
      suspects := []
      takenAt := some s.now }
  let s := (s.each (s.token.groups.filter (·.role == .handing)) fun t s => s.handProgress n t).seedingAtBoundary
  if s.admin.leadsBefore ≠ 0 && !(s.admin.ops.any fun o => o.slot == 8 && o.state != 4 && o.state != 5) then
    (s.each ((List.range 8).filter fun g => bitOf s.admin.leadsBefore g && s.peerReady g) fun g s => s.startHandOver g false).onAdmin
      fun a => { a with leadsBefore := 0 }
  else s

/-- The holder itself starts a hand-over: for a firmware activation, a sanitize of the peer's, or an entry to Dormant. -/
def execHandOver (group : Nat) (s : State) : Host.Outcome State Fault Refusal :=
  onData s fun s => if s.peerReady group then s.startHandOver group false else s

/-- R339 step 5, as the peer: it has read the record that names it from a majority, and renews it. -/
def execHandOverGranted (group : Nat) (reads : List TokenRead) (s : State) : Host.Outcome State Fault Refusal :=
  onSoc s fun s =>
    let l := (s.answeredReads group reads).filter fun r => (recordIn r).holder == s.cfg.position && (recordIn r).handover
    if s.leads group || s.flag FLT_STAT.PARKED || l.length < s.majority then s else
    let r := newestToken l
    let s := (s.noteTokens reads).keepReads group (s.answeredReads group reads)
    let (_, s) := s.ownKey
    (s.onGroup group fun t => { t with role := .trying, record := r }).writeToken group (s.nextRecord group r)

/-- R339: the write of step 4 is not granted within RENEW. -/
def execHandOverTimeout (group : Nat) (s : State) : Host.Outcome State Fault Refusal :=
  onSoc s fun s =>
    let t := s.token? group
    if t.role == .handing && t.phase == .writing && t.writing.any (fun r => Decidable.decide (r.issued + 1000 * s.rd LTK_CFG.RENEW ≤ s.now)) then
      ((((s.onGroup group fun t => { t with role := .leading, phase := .idle, release := false, writing := none }).setBit
        LTK_STAT.CHANGE group false).reportAna).commandGroup group 2)
    else s

def execHandBack (group : Nat) (s : State) : Host.Outcome State Fault Refusal :=
  onData s fun s =>
    let home := (s.rd LTK_HOME.HOME / 2 ^ group) % 2
    let held := (s.token? group).readySince.any fun t => decide (t + s.rd LTK_HOME.HBDELAY * 1000000 ≤ s.now)
    if bitOf (s.rd LTK_HOME.HBEN) group && home != s.cfg.position && held && s.peerReady group && !s.token.surrender &&
       !bitOf (s.rd64 LTK_PHEALTH.addr) 20 then s.startHandOver group false
    else s

/-! Trying for a group that no module leads (R338). -/

/-- R338: whether this module is the one to try first: the record names it, or names none and this is the home module. -/
def State.firstToTry (s : State) (g : Nat) (r : TokenRecord) : Bool :=
  r.holder == s.cfg.position || (r.holder == 255 && (s.rd LTK_HOME.HOME / 2 ^ g) % 2 == s.cfg.position)

/-- R338: a try is due: asked for by a command, or RENEW after the last. -/
def State.tryDue (s : State) (g : Nat) : Bool :=
  s.token.command.any (fun c => c.1 == 4 && c.2.contains g) ||
    (s.token? g).triedAt.all fun t => Decidable.decide (t + 1000 * s.rd LTK_CFG.RENEW ≤ s.now)

/-- Take a group whose record protects no other module's lease. -/
def State.tryFree (s : State) (g : Nat) (r : TokenRecord) : State :=
  let (_, s) := s.ownKey
  (s.onGroup g fun t => { t with role := .trying, record := r }).writeToken g (s.nextRecord g r)

/-- Take a group whose record names the peer, as a cut-in takes it, with the fence. -/
def State.tryHeld (s : State) (g : Nat) : State :=
  let (_, s) := s.ownKey
  let s := (s.wrs [(LTK_CSTAT.STATE, cutClaiming), (LTK_CSTAT.GROUPS, 2 ^ g)]).setBit LTK_STAT.CHANGE g true
  s.noteOldKeys.reportAna.writeClaims

/-- Try for a group with its records as read. A record that names this module, and one that holds no holder or is RELEASED for the
module that tries first, is written at once; the other module waits 2 × RENEW after the reads; one that names the peer is taken
after the wait of R334. -/
def execLeadTokenTry (group : Nat) (reads : List TokenRead) (s : State) : Host.Outcome State Fault Refusal :=
  onSoc s fun s =>
    if s.leads group || s.flag FLT_STAT.PARKED || (s.token? group).role != .none || !s.tryDue group then s else
    let l := s.answeredReads group reads
    let s := ((s.noteTokens reads).keepReads group l).onGroup group fun t => { t with triedAt := some s.now }
    if l.length < s.majority then s.commandGroup group 2
    else
      let s := s.showExpiry group l
      let r := newestToken l
      let free := r.holder == 255 || r.released || r.holder == s.cfg.position
      if free then
        if s.firstToTry group r || (s.token? group).readAt + 2000 * s.rd LTK_CFG.RENEW ≤ s.now then s.tryFree group r else s
      else if s.rd LTK_CSTAT.STATE ≠ cutFollowing || s.now < s.claimAt group then s.commandGroup group 4
      else s.tryHeld group

/-! LTK_CMD (Table 12.11). -/

def ltkWord (op g : Nat) : Word := BitVec.ofNat 32 (op * 2 ^ 16 + g % 8)

/-- A write of LTK_CMD: ignored while BUSY. `act` answers a STATUS at once, or the groups that the operation runs on. -/
def State.tokenCommand (s : State) (who : Requester) (op g : Nat) (act : State → Except Nat (List Nat × State)) : State :=
  s.commandWrite who LTK_CMD.addr (ltkWord op g) fun s =>
    if s.flag LTK_CMD.BUSY then s else
    match act s with
    | .error st => s.wr LTK_CMD.STATUS st
    | .ok (gs, t) =>
      if gs.isEmpty then t.wr LTK_CMD.STATUS 0
      else (t.wrs [(LTK_CMD.BUSY, 1), (LTK_CMD.STATUS, 0)]).onToken fun x => { x with command := some (op, gs) }

def execLtkHandOverGroup (who : Requester) (group : Nat) (s : State) : Host.Outcome State Fault Refusal :=
  onData s fun s => s.tokenCommand who 1 group fun s =>
    let g := group % 8
    if !s.leads g then .error 3 else if !s.peerReady g then .error 1 else .ok ([g], s.startHandOver g false)

def execLtkHandOverAll (who : Requester) (s : State) : Host.Outcome State Fault Refusal :=
  onData s fun s => s.tokenCommand who 2 0 fun s =>
    let gs := (List.range 8).filter s.leads
    if !gs.all s.peerReady then .error 1
    else .ok (gs, (s.each gs fun g s => s.startHandOver g false).onToken fun t => { t with surrender := !gs.isEmpty })

def execLtkReleaseGroup (who : Requester) (group : Nat) (s : State) : Host.Outcome State Fault Refusal :=
  onData s fun s => s.tokenCommand who 3 group fun s =>
    let g := group % 8
    if !s.leads g then .error 3 else .ok ([g], s.startHandOver g true)

def execLtkAcquireGroup (who : Requester) (group : Nat) (s : State) : Host.Outcome State Fault Refusal :=
  onSoc s fun s => s.tokenCommand who 4 group fun s =>
    let g := group % 8
    if s.leads g then .ok ([], s) else if bitOf s.link.peerLeads g && !s.peerSilent then .error 4 else .ok ([g], s.readToken g)

def execLtkRunSelfTest (who : Requester) (s : State) : Host.Outcome State Fault Refusal :=
  onSoc s fun s => s.tokenCommand who 5 0 fun s =>
    .ok (s.link.following, s.each s.link.following fun g s => s.onGroup g fun t => { t with testAsked := true })

end Sys2Proof.Machine
end

