-- ==== Sys2Proof/Machine/Activation.lean ====
section
/-! DEFINITION. Activating firmware: rolling with a healthy peer (R82), an outage without one (R83). -/

set_option Elab.async false

namespace Sys2Proof.Machine

/-- R82: the peer is healthy and follows every group this module leads. -/
def State.rollingPossible (s : State) : Bool := s.paired && ((List.range 8).filter s.leads).all s.peerReady

/-- The activation is an outage: commands whose data movement has not begun complete with Namespace Not Ready. -/
def State.beginOutage (s : State) : State :=
  (s.each (List.range 8) fun g s => s.cutCommands g stNotReady fun c => c.stage == .slot || c.stage == .lock || c.stage == .room).onAdmin
    fun a => { a with activationStage := 2 }

/-- R82, R83: the activation begins, and each controller that enabled the notice is told (log 41). -/
def State.beginActivation (s : State) : State :=
  let s := s.each s.host.controllers fun c s => if bitOf c.aec 9 then s.completeAer c 2 1 3 else s
  if s.rollingPossible then
    (s.each ((List.range 8).filter s.leads) fun g s => s.startHandOver g false).onToken (fun t => { t with surrender := true }) |>.onAdmin
      fun a => { a with activationStage := 1 }
  else s.beginOutage

/-- R82 step 5, R83: the associations end, and the module resets into the new image, on trial (R102). -/
def State.reload (s : State) (slot : Nat) : State :=
  let s := s.each (s.host.controllers.map (·.cntlid)) fun c s => s.resetController c true
  (s.onAdmin fun a => { a with nextSlot := slot }).moduleReset

/-- One move of the activation asked for by commit action 3: it begins, waits for hand-overs and commands, and reloads. A
hand-over that failed makes it an outage. -/
def execFirmwareActivation (s : State) : Host.Outcome State Fault Refusal :=
  onData s fun s =>
    match s.admin.activating with
    | none => s
    | some slot =>
      if s.admin.activationStage = 0 then s.beginActivation
      else if s.admin.activationStage = 1 && s.token.groups.any (·.role == .leading) then
        (s.onToken fun t => { t with surrender := false }).beginOutage
      else if !s.host.commands.isEmpty || (s.admin.activationStage == 1 && s.rd LTK_STAT.LEAD != 0) then s
      else s.reload slot

end Sys2Proof.Machine
end

