-- ==== Sys2Proof/Machine/Ewq.lean ====
section
/-! DEFINITION. Engine work queues (chapter Engine Work Queues): posting, prefetch, priority, the descriptor opcodes with
their address and field checks, fragment tables, completion records and queue states. -/

set_option Elab.async false

namespace Sys2Proof.Machine

/-! Queue states (Table 22.5). -/
def ewqDisabled : Nat := 0
def ewqRunning : Nat := 1
def ewqQuiescing : Nat := 2
def ewqError : Nat := 3

def State.engineQueue (s : State) (q : Nat) : EngineQueue := (getBy EngineQueue.queue q s.ewq.queues).getD ⟨q, 0, [], []⟩
def State.putEngineQueue (s : State) (e : EngineQueue) : State :=
  s.onEwq fun x => { x with queues := putBy EngineQueue.queue e x.queues }

/-- Ring entries of a queue. -/
def State.ewqSize (s : State) (q : Nat) : Nat := 2 ^ s.rd (EWQ_QCTL.SIZE q)

/-- R525: a difference of two counts modulo 2^16. -/
def count16 (a b : Nat) : Nat := (a + 65536 - b % 65536) % 65536

/-- R520: `len` bytes at `addr` lie in the memory of the queue's owner. -/
def State.ewqOwns (s : State) (q addr len : Nat) : Bool :=
  match s.queueSetOwner (q / 4) with
  | none => addr + len ≤ dramBytes
  | some p => s.partMemBase p ≤ addr && addr + len ≤ s.partMemBase p + s.partMemLen p

/-! Descriptors (Table 22.1). -/

def descField (d : Bytes) (off n : Nat) : Nat := leNat ((d.drop off).take n)
def descOpcode (d : Bytes) : Nat := descField d 0 1
def descFlag (d : Bytes) (bit : Nat) : Bool := bitOf (descField d 1 1) bit
def descNsrc (d : Bytes) : Nat := descField d 2 1
def descMpar (d : Bytes) : Nat := descField d 3 1
def descSlot (d : Bytes) : Nat := descField d 4 2
def descAadLen (d : Bytes) : Nat := descField d 6 2
def descLen (d : Bytes) : Nat := descField d 8 4
def descUnit (d : Bytes) : Nat := descField d 12 4
def descSrc (d : Bytes) : Nat := descField d 16 8
def descDst (d : Bytes) : Nat := descField d 24 8
def descAux (d : Bytes) : Nat := descField d 32 8
def descIvt (d : Bytes) : Nat := descField d 40 16
def descWrId (d : Bytes) : Nat := descField d 56 8

/-- The pool an opcode runs on (R521): 0 parity, 1 cipher, 2 key store, 3 for an unknown opcode. -/
def ewqPool (op : Nat) : Nat :=
  if 1 ≤ op ∧ op ≤ 3 then 0 else if 4 ≤ op ∧ op ≤ 8 then 1 else if op = 9 then 2 else 3

/-- Table 22.1: fields in range and reserved bits zero, by opcode. -/
def descInRange (d : Bytes) : Bool :=
  let op := descOpcode d
  let parity := op == 2 || op == 3
  let noText := op == 8 || op == 9
  descField d 1 1 < 32 &&
  (if parity then 2 ≤ descNsrc d && descNsrc d ≤ 16 && 1 ≤ descMpar d && descMpar d ≤ 3 else descNsrc d == 0 && descMpar d == 0) &&
  (if noText then descLen d == 0 else 1 ≤ descLen d && descLen d ≤ 2 ^ 24) &&
  (if op == 4 || op == 5 then descUnit d ≤ 2 ^ 24 else op == 9 || descUnit d == 0) &&
  ((6 ≤ op && op ≤ 9) || descAux d == 0) && (op < 6 || 8 < op || descField d 52 4 == 0)

/-! Fragment tables (R529). -/

/-- What a walk found: its fragments, the entries that the descriptor may still read, and the LINK entries it has taken. -/
abbrev Walked := List (Nat × Nat) × Nat × Nat

/-- Walk a fragment table: what it found, or the code and the address of the error. `fuel` is the entries still allowed
(4,096 in all), `hops` the LINK entries taken. -/
def State.walkFragments (s : State) (q : Nat) : Nat → Nat → Nat → List (Nat × Nat) → Except (Nat × Nat) Walked
  | 0, _, addr, _ => .error (5, addr)
  | fuel + 1, hops, addr, acc =>
    if !s.ewqOwns q addr 16 then .error (3, addr) else
    let a := s.loadNat addr 8
    let len := s.loadNat (addr + 8) 4
    let flags := s.loadNat (addr + 12) 4
    if 4 ≤ flags ∨ 2 ^ 48 ≤ a then .error (2, addr)
    else if flags % 2 = 1 then
      if 256 ≤ hops then .error (5, addr)
      else if len ≠ 0 ∨ a % 16 ≠ 0 then .error (2, addr)
      else s.walkFragments q fuel (hops + 1) a acc
    else if len = 0 then .error (4, addr)
    else if 2 ^ 24 < len then .error (2, addr)
    else if !s.ewqOwns q a len then .error (3, a)
    else if flags / 2 % 2 = 1 then .ok (acc ++ [(a, len)], fuel, hops)
    else s.walkFragments q fuel hops (addr + 16) (acc ++ [(a, len)])

/-- The pieces of a buffer of `len` bytes: one piece, or the fragments of its table, with what the descriptor's walks have left. -/
def State.ewqBuffer (s : State) (q addr len : Nat) (indirect : Bool) (fuel hops : Nat) : Except (Nat × Nat) Walked :=
  if indirect then
    match s.walkFragments q fuel hops addr [] with
    | .error e => .error e
    | .ok w => if (w.1.map (·.2)).foldl (· + ·) 0 = len then .ok w else .error (4, addr)
  else if s.ewqOwns q addr len then .ok ([(addr, len)], fuel, hops)
  else .error (3, addr)

/-- R529: the source and the destination of a descriptor, their tables walked together. -/
def State.ewqBuffers (s : State) (q : Nat) (d : Bytes) : Except (Nat × Nat) (List (Nat × Nat) × List (Nat × Nat)) :=
  match s.ewqBuffer q (descSrc d) (descLen d) (descFlag d 2) 4096 0 with
  | .error e => .error e
  | .ok (src, fuel, hops) =>
    match s.ewqBuffer q (descDst d) (descLen d) (descFlag d 3) fuel hops with
    | .error e => .error e
    | .ok (dst, _) => .ok (src, dst)

/-- The addresses of a list at `addr`, each a buffer of `len` bytes in the owner's memory. -/
def State.ewqList (s : State) (q addr n len : Nat) : Except (Nat × Nat) (List Nat) :=
  if !s.ewqOwns q addr (8 * n) then .error (3, addr) else
  let l := (List.range n).map fun i => s.loadNat (addr + 8 * i) 8
  match l.find? (fun a => !s.ewqOwns q a len) with
  | some a => .error (3, a)
  | none => .ok l

def State.loadPieces (s : State) (l : List (Nat × Nat)) : Bytes := l.flatMap fun (a, n) => s.load a n

def State.storePieces (s : State) : List (Nat × Nat) → Bytes → State
  | [], _ => s
  | (a, n) :: l, bs => (s.storeBytes a (bs.take n)).storePieces l (bs.drop n)

def piecesOverlap (a b : List (Nat × Nat)) : Bool :=
  a.any fun (x, n) => b.any fun (y, m) => decide (x < y + m ∧ y < x + n)

/-- R528: write the output, or undefined content where source and destination overlap in a way not allowed. -/
def State.storeOutput (s : State) (src dst : List (Nat × Nat)) (sameAllowed : Bool) (bs : Bytes) : State :=
  if piecesOverlap src dst && !(sameAllowed && src == dst) then
    (s.storePieces dst (Config.freeBytes bs.length s.draws)).onDraws (· + 1)
  else s.storePieces dst bs

/-! What each opcode does: status, result, address of the error, and the state after. -/

abbrev EwqEnd := Nat × Nat × Nat × State

def State.ewqFail (s : State) (e : Nat × Nat) : EwqEnd := (e.1, 0, e.2, s)

/-- A code that no address causes: what QERRADDR then shows is a free value (log 118). -/
def State.ewqRefuse (s : State) (code : Nat) : EwqEnd := let (n, t) := s.draw; (code, 0, n % 2 ^ 48, t)

/-- Copy. -/
def State.ewqCopy (s : State) (q : Nat) (d : Bytes) : EwqEnd :=
  match s.ewqBuffers q d with
  | .ok (src, dst) => (0, descLen d, 0, s.storeOutput src dst true (s.loadPieces src))
  | .error e => s.ewqFail e

/-- Parity: P, Q and V over the sources. -/
def State.ewqParity (s : State) (q : Nat) (d : Bytes) : EwqEnd :=
  let len := descLen d
  match s.ewqList q (descSrc d) (descNsrc d) len, s.ewqList q (descDst d) (descMpar d) len with
  | .ok src, .ok dst =>
    let data := src.map fun a => s.load a len
    (0, len, 0, s.each dst.zipIdx fun (a, p) t =>
      t.storeOutput (src.map (·, len)) [(a, len)] false (parityOf p len data))
  | .error e, _ => s.ewqFail e
  | _, .error e => s.ewqFail e

/-- The first place where two runs of bytes differ. -/
def firstDifference (a b : Bytes) : Option Nat := (a.zip b).findIdx? fun (x, y) => x != y

/-- Parity Check: code 0x0D with the first mismatching byte offset. -/
def State.ewqParityCheck (s : State) (q : Nat) (d : Bytes) : EwqEnd :=
  let len := descLen d
  match s.ewqList q (descSrc d) (descNsrc d + descMpar d) len with
  | .error e => s.ewqFail e
  | .ok l =>
    let data := (l.take (descNsrc d)).map fun a => s.load a len
    let bad := (l.drop (descNsrc d)).zipIdx.filterMap fun (a, p) => firstDifference (parityOf p len data) (s.load a len)
    match bad with
    | [] => (0, len, 0, s)
    | x :: xs => (0x0D, xs.foldl min x, 0, s)

/-- R527: the slot is permitted to the queue's owner and holds a key of `n` bytes. -/
def State.ewqKey (s : State) (q slot n : Nat) : Option Bytes :=
  let allowed := match s.queueSetOwner (q / 4) with
    | none => true
    | some p => partitionOfSlot slot == some p
  match s.keySlot slot with
  | some k => if allowed && k.key.length == n then some k.key else none
  | none => none

/-- The data units of a text, each with its sequence number. -/
def xtsUnits (f : Nat → Bytes → Bytes) (unit : Nat) : Nat → Nat → Bytes → Bytes
  | 0, _, _ => []
  | n + 1, i, bs => f i (bs.take unit) ++ xtsUnits f unit n (i + 1) (bs.drop unit)

/-- XTS encrypt or decrypt. -/
def State.ewqXts (s : State) (q : Nat) (d : Bytes) (enc : Bool) : EwqEnd :=
  let len := descLen d
  let unit := descUnit d
  if unit < 16 ∨ len % unit ≠ 0 then s.ewqRefuse 0x0C else
  match s.ewqKey q (descSlot d) 64 with
  | none => s.ewqRefuse 9
  | some key =>
    match s.ewqBuffers q d with
    | .ok (src, dst) =>
      let f := fun i bs => if enc then Config.xtsEncrypt key (i % 2 ^ 128) bs else Config.xtsDecrypt key (i % 2 ^ 128) bs
      (0, len, 0, (s.storeOutput src dst true (xtsUnits f unit (len / unit) (descIvt d) (s.loadPieces src))).count CIP_XTS_BYTES.addr len)
    | .error e => s.ewqFail e

/-- R412: the IV of a descriptor, its context and its big-endian counter. -/
def descIv (d : Bytes) : Bytes := (d.drop 40).take 12
def descContext (d : Bytes) : Nat := leNat ((d.drop 40).take 4)
def descCounter (d : Bytes) : Nat := leNat ((d.drop 44).take 8).reverse

/-- GCM encrypt, and GMAC as the encryption of nothing: the counter is checked (R527, R413), then the ciphertext and
the tag are written. -/
def State.ewqGcmEncrypt (s : State) (q : Nat) (d : Bytes) : EwqEnd :=
  let len := descLen d
  let tagAt := if descOpcode d = 8 then descDst d else descDst d + len
  match s.ewqKey q (descSlot d) 32 with
  | none => s.ewqRefuse 9
  | some key =>
    if !s.ewqOwns q (descAux d) (descAadLen d) then (3, 0, descAux d, s) else
    match if descOpcode d = 8 then Except.ok ([], []) else s.ewqBuffers q d with
    | .ok (src, dst) =>
      if !s.ewqOwns q tagAt 16 then (3, 0, tagAt, s)
      else if !s.counterAccepted (descSlot d) (descContext d) (descCounter d) 64 then (s.count CIP_REFUSED.addr).ewqRefuse 0x0A
      else
        let aad := s.load (descAux d) (descAadLen d)
        let text := s.loadPieces src
        let c := Config.gcmEncrypt key (descIv d) aad text
        let s := s.setHighWater (descSlot d) (descContext d) (descCounter d)
        (0, len, 0, ((s.storeOutput src dst false c).storeBytes tagAt (Config.gcmTag key (descIv d) aad c)).count CIP_GCM_BYTES.addr len)
    | .error e => s.ewqFail e

/-- GCM decrypt (R416, R417): the tag is verified before any byte is written. -/
def State.ewqGcmDecrypt (s : State) (q : Nat) (d : Bytes) : EwqEnd :=
  let len := descLen d
  match s.ewqKey q (descSlot d) 32 with
  | none => s.ewqRefuse 9
  | some key =>
    if !s.ewqOwns q (descAux d) (descAadLen d) then (3, 0, descAux d, s)
    else if !s.ewqOwns q (descSrc d + len) 16 then (3, 0, descSrc d + len, s) else
    match s.ewqBuffers q d with
    | .ok (src, dst) =>
      let aad := s.load (descAux d) (descAadLen d)
      let c := s.loadPieces src
      if Config.gcmTag key (descIv d) aad c = s.load (descSrc d + len) 16 then
        (0, len, 0, (s.storeOutput src dst false (Config.gcmEncrypt key (descIv d) aad c)).count CIP_GCM_BYTES.addr len)
      else (0x0B, 0, 0, s.tagMismatch (descSlot d))
    | .error e => s.ewqFail e

/-- R527: a key command descriptor, as the CIP_KCMD operation it names. -/
def descKeyCommand (d : Bytes) (who : Requester) : KeyCommand :=
  ⟨descUnit d % 16, descSlot d, descAux d, descUnit d, who⟩

def State.ewqKeyCommand (s : State) (q : Nat) (d : Bytes) : EwqEnd :=
  let allowed := match s.queueSetOwner (q / 4) with
    | none => true
    | some p => (descUnit d % 16 == 2 || descUnit d % 16 == 3 || descUnit d % 16 == 7) && partitionOfSlot (descSlot d) == some p
  if !allowed then s.ewqRefuse 9
  else if !s.ewqOwns q (descAux d) 16 then (3, 0, descAux d, s) else
  let (status, t) := s.keyOperation (descKeyCommand d .ronhenko)
  let t := t.count CIP_KEY_CMDS.addr
  if status = 0 then (0, 0, 0, t) else (0x0E, status, 0, t)

/-- A descriptor's whole effect. -/
def State.ewqExecute (s : State) (q : Nat) (d : Bytes) : EwqEnd :=
  let op := descOpcode d
  if ewqPool op = 3 then s.ewqRefuse 1
  else if !descInRange d then s.ewqRefuse 2
  else if op = 1 then s.ewqCopy q d
  else if op = 2 then s.ewqParity q d
  else if op = 3 then s.ewqParityCheck q d
  else if op = 4 then s.ewqXts q d true
  else if op = 5 then s.ewqXts q d false
  else if op = 7 then s.ewqGcmDecrypt q d
  else if op = 9 then s.ewqKeyCommand q d
  else s.ewqGcmEncrypt q d

/-! Prefetch, choice and start. -/

/-- R526: a running queue keeps the next descriptor to start and up to 8 beyond it. -/
def State.prefetch (s : State) (q : Nat) : State :=
  if s.rd (EWQ_QSTAT.STATE q) != ewqRunning || s.flag (EWQ_QCMD.BUSY q) then s else
  let e := s.engineQueue q
  let n := min 9 (count16 (s.rd (EWQ_QTAIL.TAIL q)) e.next)
  let want := (List.range n).map fun i => (e.next + i) % 65536
  let fetched := want.map fun c =>
    match e.prefetched.find? (·.count == c) with
    | some p => p
    | none => ⟨c, s.load (s.rd64 (EWQ_QBASE.addr q) + 64 * (c % s.ewqSize q)) 64⟩
  s.putEngineQueue { e with prefetched := fetched }

/-- R524: the descriptor that the queue could start now. -/
def State.startable (s : State) (q : Nat) : Option Bytes :=
  let e := s.engineQueue q
  if s.rd (EWQ_QSTAT.STATE q) != ewqRunning then none else
  match e.prefetched.find? (·.count == e.next) with
  | none => none
  | some p =>
    if (e.running.filter (!·.finished)).length ≥ 16 then none
    else if descFlag p.bytes 1 && !e.running.isEmpty then none
    else if descOpcode p.bytes == 9 && s.slotBusy (descKeyCommand p.bytes .ronhenko) then none
    else some p.bytes

/-- R523: the queue that a pool's next free engine takes from: sets in round robin after the last one served, the
highest-priority queue of the set. -/
def State.nextQueue (s : State) (pool : Nat) : Option Nat :=
  let last := ((s.ewq.lastSet.find? (·.1 == pool)).map (·.2)).getD 31
  ((List.range 32).map fun i => (last + 1 + i) % 32).findSome? fun set =>
    ((List.range 4).map (4 * set + ·)).find? fun q => (s.startable q).any fun d => ewqPool (descOpcode d) == pool

/-- Show the number in flight. -/
def State.showInFlight (s : State) (q : Nat) : State :=
  s.wr (EWQ_QSTAT.INFL q) ((s.engineQueue q).running.filter (!·.finished)).length

/-- R522, R469: work for a pool of which no engine is On wakes one: the lowest-numbered that is Gated, or else Off (DESIGN CHOICE,
log 190). -/
def State.wakeEngine (s : State) (pool : Nat) : State :=
  if 1 < pool then s else
  let engines := (List.range 16).map (80 + 16 * pool + ·)
  if engines.any fun d => s.domainState d == 0 then s else
  match (engines.find? fun d => s.domainState d == 1).or (engines.find? fun d => s.domainState d == 2) with
  | some d => s.powerOnDomain d
  | none => s

/-- Take the queue's next descriptor and run it on its engine; its slot is loaded until it finishes (R409). -/
def State.startDescriptor (s : State) (q : Nat) (d : Bytes) : State :=
  let pool := ewqPool (descOpcode d)
  let (status, result, errAddr, t) := s.ewqExecute q d
  let t := t.wakeEngine pool
  let e := t.engineQueue q
  let t := t.putEngineQueue { e with
    next := (e.next + 1) % 65536
    prefetched := e.prefetched.filter (·.count != e.next)
    running := e.running ++ [⟨e.next, d, status, result, errAddr, false⟩] }
  let t := t.onEwq fun x => { x with lastSet := (pool, q / 4) :: x.lastSet.filter (·.1 != pool) }
  let t := if pool = 1 then t.onKeys fun k => { k with inUse := descSlot d :: k.inUse } else t
  ((t.count EWQ_DESC.addr).showInFlight q).prefetch q

/-- An engine takes a descriptor of one opcode from a queue: it does so when the queue is the pool's next (R523) and its
next descriptor has that opcode. -/
def State.takeDescriptor (s : State) (q op : Nat) : State :=
  match s.startable q with
  | some d => if descOpcode d == op && s.nextQueue (ewqPool op) == some q then s.startDescriptor q d else s
  | none => s

def execEwqCopy (queue : Nat) (s : State) : Host.Outcome State Fault Refusal := onSoc s fun s => s.takeDescriptor queue 1
def execEwqParity (queue : Nat) (s : State) : Host.Outcome State Fault Refusal := onSoc s fun s => s.takeDescriptor queue 2
def execEwqParityCheck (queue : Nat) (s : State) : Host.Outcome State Fault Refusal := onSoc s fun s => s.takeDescriptor queue 3
def execEwqXtsEncrypt (queue : Nat) (s : State) : Host.Outcome State Fault Refusal := onSoc s fun s => s.takeDescriptor queue 4
def execEwqXtsDecrypt (queue : Nat) (s : State) : Host.Outcome State Fault Refusal := onSoc s fun s => s.takeDescriptor queue 5
def execEwqGcmEncrypt (queue : Nat) (s : State) : Host.Outcome State Fault Refusal := onSoc s fun s => s.takeDescriptor queue 6
def execEwqGcmDecrypt (queue : Nat) (s : State) : Host.Outcome State Fault Refusal := onSoc s fun s => s.takeDescriptor queue 7
def execEwqGmac (queue : Nat) (s : State) : Host.Outcome State Fault Refusal := onSoc s fun s => s.takeDescriptor queue 8
def execEwqKeyCommand (queue : Nat) (s : State) : Host.Outcome State Fault Refusal := onSoc s fun s => s.takeDescriptor queue 9

/-! Ends. -/

/-- Table 22.4: the codes that halt a queue. -/
def ewqHalts (code : Nat) : Bool := (1 ≤ code && code ≤ 0x0A) || code == 0x0C || code == 0x0F

/-- R532: a halting code. -/
def State.ewqHalt (s : State) (q code addr : Nat) : State :=
  let s := s.wrs [(EWQ_QSTAT.STATE q, ewqError), (EWQ_QSTAT.ERR q, code), (EWQ_QSTAT.LATCH q, 0)]
  let e := s.engineQueue q
  ((s.setReg (EWQ_QERRADDR.addr q) (BitVec.ofNat 64 addr)).putEngineQueue { e with prefetched := [] }).count EWQ_ERRORS.addr

/-- A record (R530). -/
def ewqRecord (r : EwqRun) : Bytes :=
  leBytes 8 (descWrId r.bytes) ++ leBytes 1 r.status ++ leBytes 1 (descOpcode r.bytes) ++ leBytes 2 0 ++ leBytes 4 r.result

/-- R530, R531: the oldest descriptor's record, HEAD and CCNT; a record that cannot be written halts with 0x0F. -/
def State.ewqRetire (s : State) (q : Nat) (r : EwqRun) : State :=
  let slot := s.rd64 (EWQ_QCBASE.addr q) + 16 * (r.count % s.ewqSize q)
  let wants := descFlag r.bytes 0 || r.status != 0
  let written := wants && s.ewqOwns q slot 16
  let s := if !wants then s
    else if s.ewqOwns q slot 16 then s.storeBytes slot (ewqRecord r)
    else s.ewqHalt q 0x0F slot
  let s := s.wrs [(EWQ_QHEAD.HEAD q, (s.rd (EWQ_QHEAD.HEAD q) + 1) % 65536), (EWQ_QCCNT.CCNT q, (s.rd (EWQ_QCCNT.CCNT q) + 1) % 2 ^ 32)]
  let s := s.count EWQ_BYTES.addr (if r.status = 0 then r.result else 0)
  if descFlag r.bytes 4 && written then (s.wr (EWQ_QSTAT.IRQP q) 1).emit (.interrupt (.engineQueue q)) else s

/-- R531: write records in ring order, as far as the oldest descriptors have finished. -/
def State.ewqDrain (s : State) (q : Nat) : List EwqRun → State
  | [] => s
  | r :: rs => if r.finished then
      let s := s.ewqRetire q r
      (s.putEngineQueue { s.engineQueue q with running := rs }).ewqDrain q rs
    else s

/-- Table 22.5: a queue that quiesces with nothing in flight is Disabled, or Running if an enable was latched. -/
def State.ewqQuiesce (s : State) (q : Nat) : State :=
  if s.rd (EWQ_QSTAT.STATE q) == ewqQuiescing && (s.engineQueue q).running.isEmpty then
    if s.flag (EWQ_QSTAT.LATCH q) then
      let e := s.engineQueue q
      ((s.wrs [(EWQ_QSTAT.LATCH q, 0), (EWQ_QSTAT.STATE q, ewqRunning)]).putEngineQueue
        { e with next := s.rd (EWQ_QHEAD.HEAD q), prefetched := [] }).prefetch q
    else s.wr (EWQ_QSTAT.STATE q) ewqDisabled
  else s

/-- A descriptor in flight finishes with a status. -/
def State.ewqFinish (s : State) (q count : Nat) (f : EwqRun → EwqRun) : State :=
  let e := s.engineQueue q
  match e.running.find? (fun r => r.count == count && !r.finished) with
  | none => s
  | some r =>
    let r := f r
    let s := s.putEngineQueue { e with running := e.running.map fun x => if x.count = count then { r with finished := true } else x }
    let s := if ewqPool (descOpcode r.bytes) = 1 then s.releaseSlot (descSlot r.bytes) else s
    let s := if ewqHalts r.status then s.ewqHalt q r.status r.errAddr else s
    (((s.ewqDrain q (s.engineQueue q).running).showInFlight q).ewqQuiesce q).prefetch q

/-- R531: a descriptor finishes. A descriptor with an unknown opcode needs no engine: it starts and ends here, code 0x01. -/
def execEwqDescriptorComplete (queue count : Nat) (s : State) : Host.Outcome State Fault Refusal :=
  onSoc s fun s =>
    let s := match s.startable queue with
      | some d => if ewqPool (descOpcode d) == 3 && (s.engineQueue queue).next == count then s.startDescriptor queue d else s
      | none => s
    s.ewqFinish queue count id

/-- R533: a queue read without response in 10 µs: of a descriptor in flight, or of the descriptor being fetched. -/
def execEwqReadTimeout (queue count addr : Nat) (s : State) : Host.Outcome State Fault Refusal :=
  onSoc s fun s =>
    let s := match s.startable queue with
      | some d => if (s.engineQueue queue).next == count then
          let e := s.engineQueue queue
          s.putEngineQueue { e with
            next := (e.next + 1) % 65536
            prefetched := e.prefetched.filter (·.count != count)
            running := e.running ++ [EwqRun.mk count d 6 0 addr false] }
        else s
      | none => s
    s.ewqFinish queue count fun r => { r with status := 6, result := 0, errAddr := addr }

/-! Queue commands. -/

/-- R525: the new tail is valid. -/
def State.tailValid (s : State) (q tail : Nat) : Bool :=
  let h := s.rd (EWQ_QHEAD.HEAD q)
  count16 tail h ≤ s.ewqSize q && count16 (s.rd (EWQ_QTAIL.TAIL q)) h ≤ count16 tail h

/-- R525: the doorbell. -/
def execEwqDoorbell (who : Requester) (queue tail : Nat) (s : State) : Host.Outcome State Fault Refusal :=
  onSoc s fun s => if 128 ≤ queue then s else s.commandWrite who (EWQ_QTAIL.addr queue) (BitVec.ofNat 32 (tail % 65536)) fun s =>
    if s.tailValid queue (tail % 65536) then (s.wr (EWQ_QTAIL.TAIL queue) (tail % 65536)).prefetch queue
    else (s.count EWQ_DB_REJ.addr).plainFault 2 1 0x78 queue

/-- The QCTL word that changes EN and leaves SIZE as it is. -/
def State.qctlWord (s : State) (q en : Nat) : Word := BitVec.ofNat 32 (en * 2 ^ 31 + s.rd (EWQ_QCTL.SIZE q))

/-- Table 22.5: a write of 1 to EN. -/
def execEwqEnable (who : Requester) (queue : Nat) (s : State) : Host.Outcome State Fault Refusal :=
  onSoc s fun s => if 128 ≤ queue then s else s.commandWrite who (EWQ_QCTL.addr queue) (s.qctlWord queue 1) fun s =>
    let s := s.wr (EWQ_QCTL.EN queue) 1
    let st := s.rd (EWQ_QSTAT.STATE queue)
    if st = ewqDisabled then
      let ring := s.rd64 (EWQ_QBASE.addr queue)
      let cring := s.rd64 (EWQ_QCBASE.addr queue)
      if !s.ewqOwns queue ring (64 * s.ewqSize queue) then s.ewqHalt queue 3 ring
      else if !s.ewqOwns queue cring (16 * s.ewqSize queue) then s.ewqHalt queue 3 cring
      else ((s.wr (EWQ_QSTAT.STATE queue) ewqRunning).putEngineQueue
        { s.engineQueue queue with next := s.rd (EWQ_QHEAD.HEAD queue), prefetched := [] }).prefetch queue
    else if st = ewqQuiescing then s.wr (EWQ_QSTAT.LATCH queue) 1
    else s

/-- Table 22.5: a write of 0 to EN. -/
def execEwqDisable (who : Requester) (queue : Nat) (s : State) : Host.Outcome State Fault Refusal :=
  onSoc s fun s => if 128 ≤ queue then s else s.commandWrite who (EWQ_QCTL.addr queue) (s.qctlWord queue 0) fun s =>
    let s := s.wr (EWQ_QCTL.EN queue) 0
    if s.rd (EWQ_QSTAT.STATE queue) = ewqRunning then
      ((s.wr (EWQ_QSTAT.STATE queue) ewqQuiescing).putEngineQueue { s.engineQueue queue with prefetched := [] }).ewqQuiesce queue
    else s

/-- The QCMD word of an operation. -/
def qcmdWord (op : Nat) : Word := BitVec.ofNat 32 (op * 2 ^ 16)

/-- R526: the invalidate discards the prefetched descriptors in one cycle and records the first not started. -/
def execEwqInvalidate (who : Requester) (queue : Nat) (s : State) : Host.Outcome State Fault Refusal :=
  onSoc s fun s => if 128 ≤ queue then s else s.commandWrite who (EWQ_QCMD.addr queue) (qcmdWord 1) fun s =>
    if s.flag (EWQ_QCMD.BUSY queue) then s
    else (s.wrs [(EWQ_QCMD.BUSY queue, 1), (EWQ_QCMD.STARTED queue, (s.engineQueue queue).next)]).putEngineQueue
      { s.engineQueue queue with prefetched := [] }

/-- R526: every discarded fetch has returned; the queue fetches again. -/
def execEwqInvalidateDone (queue : Nat) (s : State) : Host.Outcome State Fault Refusal :=
  onSoc s fun s => if s.flag (EWQ_QCMD.BUSY queue) then (s.wr (EWQ_QCMD.BUSY queue) 0).prefetch queue else s

/-- R535: reset a queue: nothing further starts, descriptors in flight stop without records, counts go to 0. -/
def State.resetEngineQueue (s : State) (q : Nat) : State :=
  let slots := ((s.engineQueue q).running.filter fun r => !r.finished && ewqPool (descOpcode r.bytes) == 1).map fun r => descSlot r.bytes
  let s := s.wrs [(EWQ_QSTAT.STATE q, ewqDisabled), (EWQ_QSTAT.LATCH q, 0), (EWQ_QSTAT.ERR q, 0), (EWQ_QSTAT.INFL q, 0),
    (EWQ_QHEAD.HEAD q, 0), (EWQ_QTAIL.TAIL q, 0), (EWQ_QCCNT.CCNT q, 0)]
  let s := (s.setReg (EWQ_QERRADDR.addr q) 0).putEngineQueue ⟨q, 0, [], []⟩
  s.each slots fun k s => s.releaseSlot k

def execEwqReset (who : Requester) (queue : Nat) (s : State) : Host.Outcome State Fault Refusal :=
  onSoc s fun s => if 128 ≤ queue then s else s.commandWrite who (EWQ_QCMD.addr queue) (qcmdWord 2) fun s =>
    if s.flag (EWQ_QCMD.BUSY queue) then s else s.resetEngineQueue queue

end Sys2Proof.Machine
end

