-- ==== Sys2Proof/Machine/Clusters.lean ====
section
/-! DEFINITION. Clusters, service partitions and core accesses (chapter Service Cores and Caches). -/

set_option Elab.async false

namespace Sys2Proof.Machine

/-! States of Table 21.1. -/
def partStopped : Nat := 0
def partRunning : Nat := 1
def partResetting : Nat := 2

/-- The clusters of a partition. -/
def State.clustersOf (s : State) (p : Nat) : List Nat := (List.range 8).filter fun c => s.clusterOwner c == some p

def coresOf (c : Nat) : List Nat := (List.range 8).map (8 * c + ·)

/-- The partition's memory holds an address. -/
def State.inPartition (s : State) (p addr : Nat) : Bool :=
  decide (s.partMemBase p ≤ addr) && decide (addr < s.partMemBase p + s.partMemLen p)

/-- Its clusters show a state. -/
def State.setPartition (s : State) (p st : Nat) : State := s.each (s.clustersOf p) fun c s => s.wr (CLU_PSTAT.STATE c) st

/-- Table 21.1: every core of the partition starts at ENTRY of cluster `c`, if it lies inside its memory. -/
def State.startPartition (s : State) (p c : Nat) : State :=
  let entry := s.rd64 (CLU_ENTRY.addr c) % 2 ^ 48
  if !s.inPartition p entry then s.wr (CLU_PCMD.STATUS c) 2
  else
    let s := ((s.setPartition p partRunning).wr (CLU_PCMD.STATUS c) 0).loadPen p
    s.each (s.clustersOf p) fun k s => (s.wr (CLU_PSTAT.ON k) 0xFF).emits ((coresOf k).map fun n => .core n (.start entry p))

/-- Registers that a partition reset returns to their reset values (Table 0.5a): of the engine queues, those of the sets that
the partition holds (R519). -/
def partitionCell (clusters queueSets : List Nat) (p addr : Nat) : Bool :=
  match findReg addr with
  | none => false
  | some h =>
    (h.block / 8 == 0x0E && clusters.contains h.inst && !h.is (CLU_ENTRY.addr 0) && !h.is (CLU_SEED.addr 0) && !h.is (CLU_CTL.addr 0)) ||
    (h.block == 0x78 && 0x1000 ≤ h.row.off && queueSets.contains (h.i / 4)) ||
    (h.is (PMC_PEN.addr 0) && h.i == p) ||
    ((h.is (PMC_SEL.addr 0) || h.is (PMC_CNT.addr 0)) && 16 + 4 * p ≤ h.i && h.i ≤ 19 + 4 * p) ||
    (h.is (PMC_CEVT.addr 0 0) && clusters.contains h.i)

/-- R508: a partition reset, to its last step. -/
def State.resetPartition (s : State) (p : Nat) : State :=
  let clusters := s.clustersOf p
  let s := s.each clusters fun c s => s.emits ((coresOf c).map fun n => .core n .stop)
  let s := s.each ((List.range 128).filter fun q => s.queueSetOwner (q / 4) == some p) fun q s => s.resetEngineQueue q
  let s := s.each (s.rdma.qps.filter fun q => q.get Ctx.STATE != qpFree && q.get Ctx.OWNER == p + 1) fun q s =>
    (s.queuePairError q.idx none).dropContext q.idx
  let s := s.each (s.channel (8 + p)).sending fun _ s => s.endMessage (8 + p) 2
  let s := s.each clusters fun c s => s.resetClusterCaches c
  let drop := partitionCell clusters ((List.range 32).filter fun q => s.queueSetOwner q == some p) p
  let s := (s.onRegs fun l => l.filter fun c => !drop c.addr).onRwm fun l => l.filter fun w => !drop w.addr
  (s.each clusters fun c s => s.wrs [(CLU_PSTAT.STATE c, partResetting), (CLU_PCMD.BUSY c, 1)]).showPartitions

/-- R507: the reset completes. -/
def State.partitionResetDone (s : State) (p : Nat) : State :=
  match s.clustersOf p with
  | [] => s
  | c :: rest =>
    if s.rd (CLU_PSTAT.STATE c) ≠ partResetting then s
    else
      let s := (s.setPartition p partStopped).each (c :: rest) fun k s => s.wrs [(CLU_PCMD.BUSY k, 0), (CLU_PCMD.STATUS k, 0)]
      if s.flag (CLU_CTL.AUTOSTART c) then s.startPartition p c else s

def pcmdWord (op : Nat) : Word := BitVec.ofNat 32 (op * 2 ^ 16)

/-- A partition command acts on all clusters of the partition (R507). -/
def State.partitionCommand (s : State) (who : Requester) (cluster op : Nat) (act : Nat → State → State) : State :=
  if 8 ≤ cluster then s else
  s.commandWrite who (CLU_PCMD.addr cluster) (pcmdWord op) fun s =>
    if s.flag (CLU_PCMD.BUSY cluster) then s
    else match s.clusterOwner cluster with
      | none => s.wr (CLU_PCMD.STATUS cluster) 3
      | some p => act p s

def execPartitionStart (who : Requester) (cluster : Nat) (s : State) : Host.Outcome State Fault Refusal :=
  onSoc s fun s => s.partitionCommand who cluster 1 fun p s =>
    if s.rd (CLU_PSTAT.STATE cluster) = partStopped then s.startPartition p cluster else s.wr (CLU_PCMD.STATUS cluster) 1

def execPartitionReset (who : Requester) (cluster : Nat) (s : State) : Host.Outcome State Fault Refusal :=
  onSoc s fun s => s.partitionCommand who cluster 2 fun p s =>
    if s.rd (CLU_PSTAT.STATE cluster) = partRunning then s.resetPartition p else s.wr (CLU_PCMD.STATUS cluster) 1

def execPartitionResetComplete (part : Nat) (s : State) : Host.Outcome State Fault Refusal :=
  onSoc s fun s => s.partitionResetDone part

/-! CLU_MAINT (Table 21.8). -/

/-- The word of a maintenance write. -/
def maintWord (core op : Nat) : Word := BitVec.ofNat 32 (core % 8 * 2 ^ 8 + op)

/-- A whole-cache operation: it dooms the fills in flight in its caches, walks them, and ends when those have come back. -/
def State.maintain (s : State) (who : Requester) (cluster core op : Nat) (own : Cache → Bool) (walk : State → State) : State :=
  if 8 ≤ cluster then s else
  s.commandWrite who (CLU_MAINT.addr cluster) (maintWord core op) fun s =>
    if s.flag (CLU_MAINT.BUSY cluster) then s
    else ((walk (s.doom (fun _ => true) own)).wr (CLU_MAINT.BUSY cluster) 1).endMaintenance

def execL1dClean (who : Requester) (cluster core : Nat) (s : State) : Host.Outcome State Fault Refusal :=
  onSoc s fun s => s.maintain who cluster core 1 (·.id == l1dOf (8 * cluster + core % 8)) fun s => s.cleanL1d (l1dOf (8 * cluster + core % 8))

def execL1dCleanInvalidate (who : Requester) (cluster core : Nat) (s : State) : Host.Outcome State Fault Refusal :=
  onSoc s fun s => s.maintain who cluster core 2 (·.id == l1dOf (8 * cluster + core % 8)) fun s =>
    (s.cleanL1d (l1dOf (8 * cluster + core % 8))).emptyCache (l1dOf (8 * cluster + core % 8))

def execL1iInvalidate (who : Requester) (cluster core : Nat) (s : State) : Host.Outcome State Fault Refusal :=
  onSoc s fun s => s.maintain who cluster core 3 (·.id == l1iOf (8 * cluster + core % 8)) fun s => s.emptyCache (l1iOf (8 * cluster + core % 8))

def execClusterClean (who : Requester) (cluster : Nat) (s : State) : Host.Outcome State Fault Refusal :=
  onSoc s fun s => s.maintain who cluster 0 4 (cacheCluster ·.id == cluster) fun s => s.cleanCluster cluster

def execClusterCleanInvalidate (who : Requester) (cluster : Nat) (s : State) : Host.Outcome State Fault Refusal :=
  onSoc s fun s => s.maintain who cluster 0 5 (cacheCluster ·.id == cluster) fun s =>
    (s.cleanCluster cluster).each (List.range 17) fun n s => s.emptyCache (17 * cluster + n)

/-! Accesses of the cores (R505, R506, R512). -/

/-- Where a core's access goes. -/
inductive CorePath where
  /-- The core does not run. -/
  | held
  | guarded
  | register (who : Requester)
  | uncached
  | cached
  deriving DecidableEq, Repr

/-- The core does not run: its cluster is stopped, its domains are not On, or its partition is not Running. -/
def State.coreHeld (s : State) (core : Nat) : Bool :=
  64 ≤ core || s.caches.stopped.contains (core / 8) || s.domainState core != 0 || s.domainState (64 + core / 8) != 0 ||
  (match s.clusterOwner (core / 8) with
    | some _ => s.rd (CLU_PSTAT.STATE (core / 8)) != partRunning
    | none => false)

/-- The guard of R505, and what R506 lets a core cache. The cores of one partition are one requester of R6 and R589, and all of
Ronhenko's are one, with management (DESIGN CHOICE, log 138). -/
def State.corePath (s : State) (core addr : Nat) : CorePath :=
  if s.coreHeld core then .held
  else match s.clusterOwner (core / 8) with
    | some p =>
      if (blockNumber addr).isSome then .register (.partition p)
      else if s.inPartition p addr then .cached else .guarded
    | none =>
      if (blockNumber addr).isSome then .register .ronhenko
      else if (List.range 8).any fun p => s.inPartition p addr then .uncached else .cached

/-- R505: the guard stops an access. -/
def State.guardFault (s : State) (core addr : Nat) : State :=
  (s.fault { cls := 2, code := 0x83, severity := 1, source := 0x70 + core / 8, addr := addr,
             part := (s.clusterOwner (core / 8)).getD 255 }).coreEvent core 0x07 |>.emit (.core core .accessFault)

/-- R506: an access that no cache keeps: the newest copy is read; a store reaches DRAM, and no copy stays. -/
def State.uncachedAccess (s : State) (core : Nat) (a : CoreAccess) : State :=
  let line := a.addr / 64
  match a.kind with
  | .store => ((((s.cleanLine line).dropLine line).storeBytes a.addr (a.data.take a.len))).emit (.core core .done)
  | _ => s.emit (.core core (.data (((s.newestLine line).drop (a.addr % 64)).take a.len)))

def execCacheFillReturn (cluster cache : Nat) (s : State) : Host.Outcome State Fault Refusal :=
  onSoc s fun s => if cluster < 8 ∧ cache < 16 then s.fillReturns (17 * cluster + cache) else s

def execVictimWritebackAck (cluster cache : Nat) (s : State) : Host.Outcome State Fault Refusal :=
  onSoc s fun s => if cluster < 8 ∧ cache < 16 then s.victimAcked (17 * cluster + cache) else s

def execCboOperation (core : Nat) (op : CboOp) (addr : Nat) (s : State) : Host.Outcome State Fault Refusal :=
  onSoc s fun s =>
    match s.corePath core addr with
    | .held => s
    | .guarded => s.guardFault core addr
    | .register _ => s.emit (.core core .done)
    | _ => s.cbo core op (addr / 64)

end Sys2Proof.Machine
end

