-- ==== Sys2Proof/Machine/McpOps.lean ====
section
/-! DEFINITION. Management packets and sessions (chapter Management Command Packets): the header, acceptance, replies on every
transport, the mailbox, ending a session, and the running of an accepted request. -/

set_option Elab.async false

namespace Sys2Proof.Machine

/-! The header (Table 17.1). -/

def pktVersion (b : Bytes) : Nat := numAt b 0 1
def pktKind (b : Bytes) : Nat := numAt b 1 1
def pktSealed (b : Bytes) : Bool := bitOf (numAt b 2 2) 0
def pktSession (b : Bytes) : Nat := numAt b 4 4
def pktSeq (b : Bytes) : Nat := numAt b 8 8
def pktTag (b : Bytes) : Nat := numAt b 16 2
def pktOpcode (b : Bytes) : Nat := numAt b 18 2
def pktLength (b : Bytes) : Nat := numAt b 24 4
def pktParams (b : Bytes) : Bytes := (b.drop 32).take (pktLength b)

/-- R419, R421: the version, LENGTH and size of a packet are right, and it is a request. -/
def pktFormed (b : Bytes) : Bool :=
  pktVersion b == 1 && pktKind b == 1 && pktLength b ≤ 4048 && 32 + pktLength b + (if pktSealed b then 16 else 0) ≤ b.length && b.length ≤ 4096

/-! Opcodes (Table 17.4). -/

/-- The least role of an opcode: 0 for "—", 1 Monitor, 2 Operator, 3 Guardian; none for an unlisted opcode (R436). -/
def opcodeRole (op : Nat) : Option Nat :=
  if op = 1 ∨ op = 2 ∨ op = 3 ∨ op = 0x10 then some 0
  else if (0x11 ≤ op ∧ op ≤ 0x14) ∨ (0x100 ≤ op ∧ op ≤ 0x104) ∨ op = 0x303 then some 1
  else if 0x200 ≤ op ∧ op ≤ 0x20B then some 2
  else if 0x300 ≤ op ∧ op ≤ 0x302 then some 3
  else none

/-- Requests marked S. -/
def opcodeSerial (op : Nat) : Bool :=
  op == 0x11 || (0x200 ≤ op && op ≤ 0x206) || (0x209 ≤ op && op ≤ 0x20B) || (0x300 ≤ op && op ≤ 0x302)

/-- R436: whether a parameter length fits the opcode's form. -/
def lengthFits (op n : Nat) (p : Bytes) : Bool :=
  if op = 1 ∨ op = 2 ∨ op = 3 ∨ op = 0x12 ∨ op = 0x101 ∨ op = 0x205 then n == 0
  else if op = 0x10 then n == 212
  else if op = 0x11 ∨ op = 0x13 ∨ op = 0x104 ∨ (0x201 ≤ op ∧ op ≤ 0x204) ∨ op = 0x206 ∨ op = 0x207 ∨ op = 0x209 ∨ op = 0x20B then n == 4
  else if op = 0x14 ∨ op = 0x100 ∨ op = 0x103 ∨ op = 0x302 ∨ op = 0x303 ∨ op = 0x20A then n == 8
  else if op = 0x102 then n == 16
  else if op = 0x200 then 8 ≤ n && n == 8 + 4 * numAt p 4 2
  else if op = 0x208 then 8 ≤ n && n == 8 + numAt p 4 4
  else if op = 0x300 then 16 ≤ n
  else n == 56

/-- Reserved parameter fields of an opcode: offset and size. -/
def reservedFields (op : Nat) : List (Nat × Nat) :=
  if op = 0x10 ∨ (0x201 ≤ op ∧ op ≤ 0x203) ∨ op = 0x207 ∨ op = 0x209 ∨ op = 0x300 then [(2, 2)]
  else if op = 0x100 ∨ op = 0x200 then [(1, 1), (6, 2)]
  else if op = 0x102 ∨ op = 0x206 ∨ op = 0x20B then [(1, 3)]
  else []

/-! Replies. -/

/-- An unsealed packet of the module's: kind, session word, TAG, opcode, status, parameters. -/
def plainPacket (session tag opcode status : Nat) (params : Bytes) : Bytes := packetHeader 2 0 session 0 tag opcode status params.length ++ params

/-- R425: write a reply into its mailbox slot, and free the request slot. -/
def State.mailboxReply (s : State) (slot : Nat) (bytes : Bytes) : State :=
  let s := s.setWords (MCP_RPL.addr (1024 * slot)) 1024 (padTo 4096 bytes)
  let bit := 2 ^ slot
  (s.wrs [(MCP_REQ_BUSY.BUSY, s.rd MCP_REQ_BUSY.BUSY - (s.rd MCP_REQ_BUSY.BUSY &&& bit)), (MCP_RPL_RDY.RDY, s.rd MCP_RPL_RDY.RDY ||| bit)]).fire 1 0

/-- Send a packet to an address: into the mailbox, where it waits while the reply slot is taken, or on its transport. -/
def State.sendPacket (s : State) (dest : McpAddress) (via : Nat) (bytes : Bytes) : State :=
  let s := s.count MCP_TX.addr
  if dest.transport = 5 then
    if bitOf (s.rd MCP_RPL_RDY.RDY) via then s.onMcp fun m => { m with waiting := m.waiting ++ [⟨via, bytes⟩] }
    else s.mailboxReply via bytes
  else s.packetOut dest.transport dest.address bytes

/-- A mailbox request that is dropped with no reply frees its slot. -/
def State.dropPacket (s : State) (from_ : McpAddress) (via : Nat) : State :=
  let s := s.count MCP_DROP.addr
  if from_.transport = 5 then s.wr MCP_REQ_BUSY.BUSY (s.rd MCP_REQ_BUSY.BUSY - (s.rd MCP_REQ_BUSY.BUSY &&& 2 ^ via)) else s

/-! Sessions. -/

def State.session (s : State) (slot : Nat) : Option McpSession := getBy McpSession.slot slot s.mcp.sessions
def State.onSession (s : State) (slot : Nat) (f : McpSession → McpSession) : State :=
  s.onMcp fun m => { m with sessions := setBy McpSession.slot slot f m.sessions }

def State.showMcp (s : State) : State :=
  s.wrs [(MCP_STAT.SESSIONS, s.mcp.sessions.length), (MCP_STAT.CHALLENGES, s.mcp.challenges.length)]

/-- R432, R435: a session ends: its slot is zeroised; what it had in progress gets no reply. -/
def State.endSession (s : State) (slot : Nat) : State :=
  match s.session slot with
  | none => s
  | some m =>
    let busy := if m.bound.transport = 5 then (m.requests.map (·.via)).foldl (fun n v => n ||| 2 ^ v) 0 else 0
    let s := s.wr MCP_REQ_BUSY.BUSY (s.rd MCP_REQ_BUSY.BUSY - (s.rd MCP_REQ_BUSY.BUSY &&& busy))
    ((s.onMcp fun x => { x with sessions := x.sessions.filter (·.slot != slot) }).zeroiseSlot slot).showMcp

/-- R428: the mailbox empties, and the sessions bound to it end. -/
def State.resetMailbox (s : State) : State :=
  let s := s.each (s.mcp.sessions.filter (·.bound.transport == 5)) fun m s => s.endSession m.slot
  let s := s.onMcp fun m => { m with
    waiting := []
    plain := m.plain.filter (·.from_.transport != 5) }
  let s := s.onRegs fun l => l.filter fun c => !(MCP_NTC.addr 0 ≤ c.addr && c.addr < MCP_NTC.addr 0 + 0xF000 && blockNumber c.addr == some 0x0D)
  s.wrs [(MCP_REQ_BUSY.BUSY, 0), (MCP_RPL_RDY.RDY, 0), (MCP_NTC_HEAD.HEAD, 0), (MCP_NTC_TAIL.TAIL, 0)]

/-! A request found by session slot and TAG; slot 0 names a request outside a session. -/

structure McpCall where
  session : Option McpSession
  from_ : McpAddress
  via : Nat
  tag : Nat
  opcode : Nat
  seq : Nat
  started : Bool
  timedOut : Bool
  bytes : Bytes
  params : Bytes
  deriving DecidableEq, Repr

def State.call (s : State) (slot tag : Nat) : Option McpCall :=
  if slot = 0 then
    (s.mcp.plain.find? (·.tag == tag)).map fun p => ⟨none, p.from_, p.via, p.tag, p.opcode, 0, false, false, p.bytes, pktParams p.bytes⟩
  else
    match s.session slot with
    | none => none
    | some m => (m.requests.find? (·.tag == tag)).map fun r =>
        ⟨some m, m.bound, r.via, r.tag, r.opcode, r.seq, r.startedAt.isSome, r.timedOut, r.bytes,
          Config.gcmEncrypt m.key (packetIv false r.seq) (r.bytes.take 32) (pktParams r.bytes)⟩

/-- Seal and send a reply in a session; the session keeps it for a copy of the request (R433). -/
def State.sealedReply (s : State) (m : McpSession) (c : McpCall) (status : Nat) (params : Bytes) : State :=
  match s.session m.slot with
  | none => s
  | some m =>
    let b := sealPacket m 2 c.tag c.opcode status params
    ((s.onSession m.slot fun x => { x with
      sent := x.sent + 1
      recent := x.recent.map fun r => if r.seq == c.seq then { r with reply := some b } else r }).count CIP_GCM_BYTES.addr params.length).sendPacket
        c.from_ c.via b

/-- A request has its reply: sealed, or unsealed for the opcodes of role "—" (R443); it leaves the list. A request that was
answered at its limit is only dropped (R444). -/
def State.reply (s : State) (c : McpCall) (status : Nat) (params : Bytes := []) : State :=
  let plain := opcodeRole c.opcode == some 0 || status == 0x208
  match c.session with
  | none =>
    (s.onMcp fun x => { x with plain := x.plain.filter fun p => !(p.tag == c.tag && p.from_ == c.from_) }).sendPacket c.from_ c.via
      (plainPacket (pktSession c.bytes) c.tag c.opcode status params)
  | some m =>
    let s := if c.timedOut then s
      else if plain then
        let b := plainPacket m.word c.tag c.opcode status params
        (s.onSession m.slot fun x => { x with recent := x.recent.map fun r => if r.seq == c.seq then { r with reply := some b } else r }).sendPacket
          c.from_ c.via b
      else s.sealedReply m c status params
    s.onSession m.slot fun x => { x with requests := x.requests.filter (·.seq != c.seq) }

/-- R434: whether a request may start: in SEQ order, and around requests marked S one at a time. -/
def McpCall.mayStart (c : McpCall) : Bool :=
  match c.session with
  | none => true
  | some m =>
    let before := m.requests.filter fun r => r.seq < c.seq && !r.timedOut
    !c.started && before.all (·.startedAt.isSome) && !(before.any fun r => opcodeSerial r.opcode) && (!opcodeSerial c.opcode || before.isEmpty)

/-- The principal's role as it is now (R452). -/
def State.callRole (s : State) (c : McpCall) : Nat :=
  match c.session with
  | some m => s.role m.principal
  | none => 0

/-- Run an accepted request of an opcode: the role and the length are checked, then the meaning answers. -/
def State.runCall (s : State) (slot tag opcode : Nat) (act : McpCall → State → State) : State :=
  match s.call slot tag with
  | none => s
  | some c =>
    if c.opcode != opcode || !c.mayStart then s
    else if s.callRole c < (opcodeRole opcode).getD 0 then s.reply c 0x302
    else if !lengthFits opcode c.params.length c.params then s.reply c 0x102
    else if (reservedFields opcode).any fun f => numAt c.params f.1 f.2 != 0 then s.reply c 0x104
    else act c s

/-- The request starts and is answered later. -/
def State.startCall (s : State) (c : McpCall) : State :=
  match c.session with
  | some m => s.onSession m.slot fun x => { x with requests := x.requests.map fun r => if r.seq == c.seq then { r with startedAt := some s.now } else r }
  | none => s

/-- A reply with status 0x0204 and its detail in the first parameter byte (Table 18.7, R438, R441). -/
def State.refuseCall (s : State) (c : McpCall) (detail : Nat) (rest : Bytes := []) : State := s.reply c 0x204 (leBytes 1 detail ++ rest)

/-! Acceptance (R421, R433, R434). -/

/-- A request in a session. -/
def State.acceptSealed (s : State) (m : McpSession) (via : Nat) (b : Bytes) : State :=
  let seq := pktSeq b
  let c : McpCall := ⟨some m, m.bound, via, pktTag b, pktOpcode b, seq, false, false, b, []⟩
  if seq ≤ m.mark then
    match m.recent.find? (·.seq == seq) with
    | some r =>
      if r.bytes != b then (s.count MCP_REPLAY.addr).dropPacket m.bound via
      else match r.reply with
        | some bytes => (s.count MCP_DUP_REPLY.addr).sendPacket m.bound via bytes
        | none => s.dropPacket m.bound via
    | none => (s.count MCP_REPLAY.addr).dropPacket m.bound via
  else
    let s := s.onSession m.slot fun x => { x with
      mark := seq
      lastUsed := s.now
      recent := (⟨seq, b, none⟩ :: x.recent).take 32 }
    if (opcodeRole c.opcode).isNone then s.reply c 0x101
    else if 8 ≤ (m.requests.filter (!·.timedOut)).length then s.reply c 0x402
    else if m.requests.any fun r => r.tag == c.tag && !r.timedOut then s.reply c 0x207
    else s.onSession m.slot fun x => { x with requests := x.requests ++ [⟨seq, c.tag, c.opcode, b, via, none, false⟩] }

/-- A packet from an address. -/
def State.acceptPacket (s : State) (from_ : McpAddress) (via : Nat) (b : Bytes) : State :=
  let s := s.count MCP_RX.addr
  if !pktFormed b then s.dropPacket from_ via
  else if pktSealed b then
    match s.mcp.sessions.find? fun m => m.word == pktSession b with
    | none => s.sendPacket from_ via (plainPacket (pktSession b) (pktTag b) (pktOpcode b) 0x208 [])
    | some m =>
      if m.bound != from_ then s.dropPacket from_ via
      else
        let h := b.take 32
        let tag := (b.drop (32 + pktLength b)).take 16
        if Config.gcmTag m.key (packetIv false (pktSeq b)) h (pktParams b) != tag then
          ((s.count MCP_TAG_FAIL.addr).tagMismatch m.slot).dropPacket from_ via
        else (s.count CIP_GCM_BYTES.addr (pktLength b)).acceptSealed m via b
  else if (opcodeRole (pktOpcode b)) = some 0 then
    s.onMcp fun x => { x with plain := x.plain ++ [⟨from_, pktTag b, pktOpcode b, b, via⟩] }
  else s.sendPacket from_ via (plainPacket (pktSession b) (pktTag b) (pktOpcode b) 0x208 [])

end Sys2Proof.Machine
end

