-- ==== Sys2Proof/Machine/TwoStep.lean ====
section
/-! DEFINITION. Two-Step (chapter Two-Step and the Protection Set-Up): proposals, confirms, commits and their effects, the
claim, and the agreement of a pair. -/

set_option Elab.async false

namespace Sys2Proof.Machine

/-! Bodies (R448, R451). -/

def bodyInst (b : Bytes) : Nat := numAt b 0 2
def bodyOp (b : Bytes) : Nat := numAt b 2 1
def bodyContent (b : Bytes) : Bytes := b.drop 4

/-- Bytes of an object's content, and its instances (Table 18.1). -/
def contentLength (object : Nat) : Nat := if object = 1 then 52 else if object = 2 then 308 else if object = 3 then 512
  else if object = 4 then 36 else if object = 5 then 32 else 4
def instanceExists (object i : Nat) : Bool := if object = 1 then 1 ≤ i && i ≤ 16 else if object = 2 then i ≤ 4095
  else if object = 3 then 1 ≤ i && i ≤ 8192 else if object = 4 then i ≤ 7 else i == 0

def principalValid (c : Bytes) : Bool :=
  1 ≤ numAt c 0 1 && numAt c 0 1 ≤ 3 && numAt c 1 1 ≤ 1 && numAt c 2 2 == 0 && (c.drop 36).all fun b => decide (b.toNat < 128)

def hostEntryValid (inst : Nat) (c : Bytes) : Bool :=
  let flags := numAt c 0 1
  let klen := numAt c 2 1
  let key := (c.drop 20).take 64
  flags ≤ 15 && numAt c 3 1 == 0 && (flags / 4 == 0 || bitOf flags 1) && (inst < 4094 || bitOf flags 1) &&
  (if bitOf flags 0 then
    1 ≤ numAt c 1 1 && numAt c 1 1 ≤ 3 && (klen == 32 || klen == 48 || klen == 64) && (key.drop klen).all (· == 0)
  else klen == 0 && key.all (· == 0))

/-- Content of Table 18.4, read as numbers: clusters, base, length. -/
def permClusters (c : Bytes) : Nat := numAt c 0 1
def permRange (c : Bytes) : Nat × Nat := (numAt c 4 8, numAt c 12 8)

/-- R504: Ronhenko always holds clusters 0 and 1. -/
def permissionValid (c : Bytes) : Bool :=
  permClusters c % 4 == 0 &&
  numAt c 1 1 ≤ 3 && numAt c 2 2 ≤ 16384 && numAt c 4 8 < 2 ^ 48 && numAt c 4 8 % 2 ^ 21 == 0 && numAt c 12 8 % 2 ^ 21 == 0 &&
  numAt c 20 2 == 0 && numAt c 28 1 ≤ 15 && numAt c 29 7 == 0

/-- Two partitions of the module share no cluster and no memory. -/
def permissionsApart (a b : Bytes) : Bool :=
  let (ab, al) := permRange a
  let (bb, bl) := permRange b
  permClusters a &&& permClusters b == 0 && (al == 0 || bl == 0 || ab + al ≤ bb || bb + bl ≤ ab)

/-- Enabled Guardians. -/
def State.guardians (s : State) : List Nat := (List.range 17).filter fun p => s.principalLive p && s.role p == 3

/-- The principals of a claim body: instance and content. -/
def claimPrincipals (b : Bytes) : List (Nat × Bytes) :=
  (List.range (numAt b 40 1)).map fun i => (numAt b (44 + 56 * i) 2, (b.drop (48 + 56 * i)).take 52)

def claimValid (b : Bytes) : Bool :=
  let n := numAt b 40 1
  let ps := claimPrincipals b
  b.length == 44 + 56 * n && bodyInst b == 0 && bodyOp b == 1 && numAt b 3 1 == 0 && numAt b 4 1 ≤ 1 && numAt b 5 3 == 0 && numAt b 41 3 == 0 &&
  2 ≤ n && n ≤ 16 && ((List.range n).all fun i => numAt b (46 + 56 * i) 2 == 0) &&
  (ps.all fun p => 1 ≤ p.1 && p.1 ≤ 16 && principalValid p.2) &&
  2 ≤ (ps.filter fun p => numAt p.2 0 1 == 3 && bitOf (numAt p.2 1 1) 0).length

/-- R451: whether a body may be proposed. -/
def State.bodyValid (s : State) (object : Nat) (b : Bytes) : Bool :=
  let i := bodyInst b
  let c := bodyContent b
  if object = 6 then claimValid b
  else if b.length < 4 || numAt b 3 1 ≠ 0 || !instanceExists object i || !([1, 2, 3, 4, 5, 7].contains object) then false
  else if bodyOp b = 2 then c.isEmpty && (object != 1 || 2 ≤ (s.guardians.filter (· != i)).length)
  else if bodyOp b ≠ 1 || c.length ≠ contentLength object then false
  else if object = 1 then principalValid c
  else if object = 2 then hostEntryValid i c
  else if object = 4 then permissionValid c && ((List.range 8).filter (· != i)).all fun p => permissionsApart c (s.content 4 p)
  else if object = 7 then numAt c 0 4 < 2 ^ 17
  else true

/-- R453, R456: whether the object may be written in this state. -/
def State.objectWritable (s : State) (object : Nat) (b : Bytes) : Bool :=
  if !s.two.claimed then object == 6
  else if object = 6 then false
  else if object = 5 then (if bodyOp b = 1 then s.keys.prk.isNone else !((List.range 4).any fun set => s.flag (QDL_GEOM.VALID set)))
  else true

/-! Proposals. -/

def ProposalState.number : ProposalState → Nat
  | .opened => 0 | .armed => 1 | .applied => 2 | .stale => 3 | .expired => 4 | .withdrawn => 5 | .missed => 6

/-- R454: the digest of a proposal. -/
def Proposal.digest (p : Proposal) : Bytes :=
  Config.sha384 (leBytes 8 p.number ++ leBytes 2 p.object ++ leBytes 8 p.target ++ leBytes 2 p.proposer ++ leBytes 8 p.base ++ visibleBody p.object p.body)

/-- The record of a proposal (Table 18.10). -/
def Proposal.record (p : Proposal) : Bytes :=
  leBytes 8 p.number ++ leBytes 2 p.object ++ leBytes 1 p.state.number ++ leBytes 1 p.counted.length ++ leBytes 2 p.proposer ++ leBytes 2 0 ++
  leBytes 8 p.armedFor ++ p.digest ++ leBytes 8 p.base ++ leBytes 48 0

def Proposal.live (p : Proposal) : Bool := p.state == .opened || p.state == .armed

def State.onProposal (s : State) (number : Nat) (f : Proposal → Proposal) : State :=
  s.onTwo fun t => { t with proposals := setBy Proposal.number number f t.proposals }

/-- TWO_PREC shows the proposal of the selected slot. -/
def State.showProposals (s : State) : State :=
  let bytes := match s.two.proposals.find? (·.slot == s.rd TWO_PSEL.SEL) with | some p => p.record | none => leBytes 128 0
  s.showSetup.setWords (TWO_PREC.addr 0) 32 bytes

/-- The lowest slot that holds no live proposal. -/
def State.freeProposalSlot (s : State) : Option Nat := (List.range 16).find? fun k => !(s.two.proposals.any fun p => p.slot == k && p.live)

/-- Put a proposal into its slot. -/
def State.putProposal (s : State) (p : Proposal) : State :=
  s.onTwo fun t => { t with proposals := t.proposals.filter (fun q => q.slot != p.slot && q.number != p.number) ++ [p] }

/-- A proposal as it goes to the peer on channel 2 (R454): kind 4; the layout is the model's. -/
def Proposal.message (p : Proposal) : Bytes :=
  leBytes 1 4 ++ leBytes 8 p.number ++ leBytes 2 p.object ++ leBytes 8 p.target ++ leBytes 2 p.proposer ++ leBytes 8 p.base ++ leBytes 2 p.body.length ++ p.body

/-- R454, R455: open a proposal: its number, or the refusal's status and detail. -/
def State.propose (s : State) (proposer object target : Nat) (body : Bytes) (session : Nat := 0) : Except (Nat × Nat) (Nat × State) :=
  if !s.objectWritable object body then .error (0x204, 7)
  else if !s.bodyValid object body then .error (0x204, 6)
  else if pairScoped object && s.flag TWO_STAT.MISMATCH then .error (0x205, 0)
  else if 16 ≤ (s.two.proposals.filter Proposal.live).length then .error (0x204, 4)
  else
    let number := s.cfg.position * 2 ^ 63 + (s.two.counter + 1) % 2 ^ 63
    let p : Proposal := ⟨s.freeProposalSlot.getD 0, number, object, body, .opened, proposer, if proposer = 0 then [] else [proposer], target, 0,
      s.revision object (bodyInst body), s.now, if object = 6 then session else 0⟩
    let s := (s.onTwo fun t => { t with counter := t.counter + 1 }).putProposal p
    let s := if pairScoped object && s.paired then s.emit (.message 2 p.message) else s
    .ok (number, (s.notify (.proposalOpen (BitVec.ofNat 64 number))).showProposals)

/-- R455: the proposal arms for T, or is missed. -/
def State.arm (s : State) (p : Proposal) : Except (Nat × Nat) (Nat × State) :=
  if p.target ≠ 0 && p.target < s.measure + 2 then .error (0x206, 0)
  else
    let t := if p.target = 0 then s.measure + 4 else p.target
    let s := s.onProposal p.number fun q => { q with state := .armed, armedFor := t }
    let s := if pairScoped p.object && s.paired then s.emit (.message 2 (leBytes 1 5 ++ leBytes 8 p.number ++ leBytes 8 t)) else s
    .ok (t, s.showProposals)

/-- R43, R455: a proposal enters Missed; a target already past is an action that MEAS_STAT reports too. -/
def State.missProposal (s : State) (p : Proposal) (t : Nat) : State :=
  let s := (s.onProposal p.number fun q => { q with state := .missed }).wr TWO_STAT.MISSED 1
  (if t ≤ s.measure then s.missedTarget t else s).showProposals

/-- The refusal of a confirm or withdraw for a proposal in a state other than Open (Table 18.7). -/
def refusalDetail (st : ProposalState) : Nat := match st with | .stale | .expired | .missed => 5 | _ => 3

/-- R454: a confirm: the target measure, or the refusal, with the state after. A claim is confirmed by its own session (R456). -/
def State.confirm (s : State) (principal number : Nat) (digest : Bytes) (session : Nat := 0) : Except (Nat × Nat × State) (Nat × State) :=
  match s.two.proposals.find? (·.number == number) with
  | none => .error (0x204, 3, s)
  | some p =>
    if p.state != .opened then .error (0x204, refusalDetail p.state, s)
    else if p.object = 6 && p.session ≠ session then .error (0x204, 7, s)
    else if p.object ≠ 6 && p.counted.contains principal then .error (0x204, 1, s)
    else if digest != p.digest then .error (0x204, 2, s)
    else
      let p := { p with counted := principal :: p.counted.filter (· != principal) }
      let s := s.onProposal number fun _ => p
      if p.counted.length < 2 && p.object ≠ 6 then .ok (p.target, s.showProposals)
      else match s.arm p with
        | .ok r => .ok r
        | .error (st, d) => .error (st, d, s.missProposal p p.target)

/-- Withdraw: by the proposer or any Guardian. -/
def State.withdraw (s : State) (number : Nat) : Except Nat State :=
  match s.two.proposals.find? (·.number == number) with
  | none => .error 3
  | some p => if p.state == .opened then .ok (s.onProposal number fun q => { q with state := .withdrawn }).showProposals else .error (refusalDetail p.state)

/-! Commits (R452, R454, R457). -/

/-- The content of an instance in effect. -/
def State.putObject (s : State) (object inst : Nat) (content : Bytes) : State :=
  s.onTwo fun t => { t with objects := insertObject ⟨object, inst, content, s.revision object inst + 1⟩ t.objects }

/-- A principal removed, disabled or given a new key loses its sessions. -/
def State.principalChanged (s : State) (p : Nat) (oldKey : Bytes) : State :=
  if s.principalLive p && s.principalKey p == oldKey then s
  else s.each (s.mcp.sessions.filter (·.principal == p)) fun m s => s.endSession m.slot

/-- Associations that no entry admits any longer end as for a keep-alive expiry. -/
def State.hostEntryChanged (s : State) : State :=
  s.each (s.host.controllers.filter fun c => (s.entriesOf c).isEmpty) fun c s => s.resetController c.cntlid true

/-- A cleared mask bit detaches the namespace from the controllers it no longer admits. -/
def State.maskChanged (s : State) (nsid : Nat) : State :=
  match s.namespace nsid with
  | none => s
  | some ns =>
    let out := s.host.controllers.filter fun c => ns.attached.contains c.cntlid && !s.maskAdmits nsid c
    let peers := s.host.peerControllers.filter fun c => !s.maskAdmitsPeer nsid c.1
    let s := s.onNamespace nsid fun n => { n with
      attached := n.attached.filter fun c => !(out.any (·.cntlid == c)) && !(peers.any (·.1 == c)) }
    s.each out fun c s => s.namespaceChanged c.cntlid nsid

/-- A partition that loses a cluster is reset before the change; the lost cluster is Ronhenko's afterwards, with no command running. A
queue set that it loses is reset first (R519). -/
def State.resetBeforeLoss (s : State) (p : Nat) (old new : Bytes) : State :=
  let sets := ((List.range 4).filter fun i => bitOf (numAt old 28 1) i && !bitOf (numAt new 28 1) i).map (4 * p + ·)
  let s := s.each (sets.flatMap fun t => (List.range 4).map (4 * t + ·)) fun q s => s.resetEngineQueue q
  let lost := (List.range 8).filter fun c => bitOf (permClusters old) c && !bitOf (permClusters new) c
  if lost.isEmpty then s else (s.resetPartition p).each lost fun c s => s.wrs [(CLU_PCMD.BUSY c, 0), (CLU_PCMD.STATUS c, 0)]

/-- A window or channel that a partition loses is cleared. -/
def State.permissionsChanged (s : State) (p : Nat) (old : Bytes) : State :=
  let new := s.content 4 p
  let s := s.each ((List.range 64).filter fun w => bitOf (numAt old 20 8) w && !bitOf (numAt new 20 8) w) fun w s => s.wr (EZL_WIN_CTL.VALID w) 0
  let s := if bitOf (numAt old 1 1) 1 && !bitOf (numAt new 1 1) 1 then s.wr (EZL_CH_BASE_HI.OPEN (8 + p)) 0 else s
  ((s.showPermissions p).loadPen p).showPartitions

/-- R452: the effects of a commit on one instance; a claim sets the principals, the PRK and ADOPT. -/
def State.applyBody (s : State) (object : Nat) (body : Bytes) : State :=
  let i := bodyInst body
  let content := if bodyOp body = 1 then bodyContent body else []
  if object = 6 then
    let key := s.principalKey 1
    let s := if (claimPrincipals body).any (·.1 == 1) then s else s.putObject 1 1 []
    let s := (s.each (claimPrincipals body) fun p s => s.putObject 1 p.1 p.2).principalChanged 1 key
    let s := (s.onTwo fun t => { t with claimed := true, adopt := bitOf (numAt body 4 1) 0 }).putObject 5 0 ((body.drop 8).take 32)
    (s.onKeys fun k => { k with prk := some ((body.drop 8).take 32) }).keyDerivePair.2
  else
    let old := s.content object i
    let oldKey := s.principalKey i
    let s := (s.when (object == 4) fun s => s.resetBeforeLoss i old content).putObject object i content
    if object = 1 then s.principalChanged i oldKey
    else if object = 2 then s.hostEntryChanged
    else if object = 3 then s.maskChanged i
    else if object = 4 then s.permissionsChanged i old
    else if object = 5 then
      let s := s.onKeys fun k => { k with prk := if content.isEmpty then none else some content }
      if content.isEmpty then ((s.zeroiseSlot 1).zeroiseSlot 2).zeroiseSlot 3 else s.keyDerivePair.2
    else s.wr TWO_CFG.LIFE (if content.isEmpty then 600 else max 60 (min (numAt content 0 4) 86400))

/-- Other proposals of the instance are stale, but those that are due at the same boundary. -/
def State.staleOthers (s : State) (object inst number t : Nat) : State :=
  s.onTwo fun x => { x with proposals := x.proposals.map fun q =>
    if q.object == object && bodyInst q.body == inst && q.number != number && (q.state == .opened || (q.state == .armed && Decidable.decide (t < q.armedFor)))
    then { q with state := .stale } else q }

/-- R457: log a pair-scoped commit; MISMATCH clears when the digests have become equal. -/
def State.logCommit (s : State) (c : LoggedCommit) : State :=
  let s := if pairScoped c.object then s.onTwo fun t => { t with log := (c :: t.log).take 256 } else s
  if s.flag TWO_STAT.MISMATCH && setupDigest s.two.objects == s.two.peerDigest then s.wr TWO_STAT.MISMATCH 0 else s

/-- Apply one armed proposal at the boundary that begins measure `n`. -/
def State.applyProposal (s : State) (n : Nat) (p : Proposal) : State :=
  let s := s.applyBody p.object p.body
  let s := s.onProposal p.number fun q => { q with state := .applied }
  (s.staleOthers p.object (bodyInst p.body) p.number n).logCommit ⟨p.number, p.object, p.body, p.base, p.digest⟩

/-- Armed proposals of a measure, in PROPOSAL order. -/
def insertProposal (p : Proposal) : List Proposal → List Proposal
  | [] => [p]
  | q :: qs => if p.number ≤ q.number then p :: q :: qs else q :: insertProposal p qs

/-- R457: the peer's commits that this module lacks, or its instances wholesale, at the second boundary after entry. -/
def State.agreeAtBoundary (s : State) (n : Nat) : State :=
  match s.two.fromPeer with
  | none => s
  | some (t, commits, objects) =>
    if n < t then s else
    let s := s.onTwo fun x => { x with fromPeer := none }
    let s := s.each commits fun c s => ((s.applyBody c.object c.body).staleOthers c.object (bodyInst c.body) c.number n).logCommit c
    if objects.isEmpty then s
    else
      let mine := fun o : GuardedObject => !pairScoped o.object
      let keys := (List.range 17).map s.principalKey
      let s := s.onTwo fun x => { x with
        objects := (objects.filter fun o => pairScoped o.object).foldl (fun l o => insertObject o l) (x.objects.filter mine)
        adopt := false }
      let s := s.each (List.range 17) fun p s => s.principalChanged p (keys.getD p [])
      let s := s.hostEntryChanged.each (s.host.namespaces.map (·.nsid)) fun n s => s.maskChanged n
      if s.flag TWO_STAT.MISMATCH && setupDigest s.two.objects == s.two.peerDigest then s.wr TWO_STAT.MISMATCH 0 else s

/-- Step 3 of Table 2.6: at the boundary that begins measure `n`, commits armed for it are applied, and those armed for an
earlier one are missed (R43). -/
def State.commitAtBoundary (s : State) (n : Nat) : State :=
  let due := (s.two.proposals.filter fun p => p.state == .armed && p.armedFor ≤ n).foldl (fun l p => insertProposal p l) []
  if due.isEmpty && s.two.fromPeer.isNone then s
  else ((s.each due fun p s => s.applyProposal n p).agreeAtBoundary n).showProposals

/-! What the peer sends on channel 2. -/

/-- A copy of the peer's proposal: taken if this module lacks it and a slot is free. -/
def State.takeProposal (s : State) (m : Bytes) : State :=
  let number := numAt m 1 8
  if s.two.proposals.any (·.number == number) then s else
  match s.freeProposalSlot with
  | none => s
  | some k =>
    let proposer := numAt m 19 2
    let p : Proposal := ⟨k, number, numAt m 9 2, (m.drop 31).take (numAt m 29 2), .opened, proposer, if proposer = 0 then [] else [proposer],
      numAt m 11 8, 0, numAt m 21 8, s.now, 0⟩
    ((s.putProposal p).notify (.proposalOpen (BitVec.ofNat 64 number))).showProposals

/-- The arm of a pair-scoped proposal: late, it is missed (R43). -/
def State.takeArm (s : State) (m : Bytes) : State :=
  let number := numAt m 1 8
  let t := numAt m 9 8
  match s.two.proposals.find? (·.number == number) with
  | none => s
  | some p =>
    if p.state != .opened then s
    else if t ≤ s.measure then s.missProposal p t
    else (s.onProposal number fun q => { q with state := .armed, armedFor := t }).showProposals

/-- What the peer sends of a proposal: its copy or its arm. -/
def State.takeShared (s : State) (m : Bytes) : State := if numAt m 0 1 = 5 then s.takeArm m else s.takeProposal m

/-- Each lacking commit's base is this module's revision of its instance, as the earlier ones leave it. -/
def State.basesMatch (s : State) : List LoggedCommit → Bool
  | [] => true
  | c :: cs => c.base == s.revision c.object (bodyInst c.body) &&
      (s.putObject c.object (bodyInst c.body) (if bodyOp c.body = 1 then bodyContent c.body else [])).basesMatch cs

/-! Rows. -/

/-- R594: a write to an RWT field makes a proposal with proposer principal 0. A write that can make none is answered all the
same, and leaves no trace (DESIGN CHOICE, log 141). -/
def State.rwtProposal (s : State) (addr : Nat) (v : Word) : State :=
  let body : Option (Nat × Bytes) :=
    if addr = TWO_CFG.addr then some (7, setBody 0 (leBytes 4 (v.toNat % 2 ^ 17)))
    else
      let off := addr - TWO_PERM.addr 0 0
      if TWO_PERM.addr 0 0 ≤ addr && off / 64 < 8 && off % 64 / 4 < 9 then
        let c := padTo 36 (s.content 4 (off / 64))
        let w := off % 64 / 4
        some (4, setBody (off / 64) (c.take (4 * w) ++ leBytes 4 v.toNat ++ c.drop (4 * w + 4)))
      else none
  match body with
  | some (object, b) => match s.propose 0 object 0 b with | .ok (_, t) => t | .error _ => s
  | none => s

def execProposalExpiry (number : Nat) (s : State) : Host.Outcome State Fault Refusal :=
  onSoc s fun s =>
    match s.two.proposals.find? (·.number == number) with
    | some p =>
      if p.state == .opened && decide (p.since + s.rd TWO_CFG.LIFE * 10 ^ 9 ≤ s.now) then
        (s.onProposal number fun q => { q with state := .expired }).showProposals
      else s
    | none => s

/-- R455, R457: at an entry to Paired: the peer's set-up digest, its log (in its order), its instances, and its open
pair-scoped proposals as messages. -/
def execSetupDigestExchange (digest : Bytes) (log : List LoggedCommit) (objects : List GuardedObject) (proposals : List Bytes) (s : State) :
    Host.Outcome State Fault Refusal :=
  onSoc s fun s =>
    if !s.paired then s else
    let s := s.each proposals fun m s => s.takeShared m
    let s := s.onTwo fun t => { t with peerDigest := digest }
    if digest == setupDigest s.two.objects then s.wr TWO_STAT.MISMATCH 0 else
    let lacking := log.filter fun c => !(s.two.log.any fun d => d.number == c.number)
    let ahead := s.two.log.any fun d => !(log.any fun c => c.number == d.number)
    if !lacking.isEmpty && s.basesMatch lacking then s.onTwo fun t => { t with fromPeer := some (s.measure + 2, lacking, []) }
    else if s.two.adopt then s.onTwo fun t => { t with fromPeer := some (s.measure + 2, [], objects) }
    else if lacking.isEmpty && ahead then s
    else s.flagFault TWO_STAT.MISMATCH 8 1 0x0B

end Sys2Proof.Machine
end

