-- ==== Sys2Proof/Machine/Coordination.lean ====
section
/-! DEFINITION. Messages received on the Emzifen channels (R308), and what those of channel 2 tell Ronhenko. -/

set_option Elab.async false

namespace Sys2Proof.Machine

/-- A message between the two Ronhenkos on channel 2, by its kind: 1 a health word with the values of R301; 2 a registration
key (R327); 4 a proposal, 5 the measure for which it arms (R455); 7 a namespace key to retire, 8 the destruction of old KEKs
(R406); 10 the groups to hand over for a sanitize (R104); 12 a witness index and the slot chosen for it, 13 the groups whose records are written
there (R341). Kinds 3, 6, 9 and 11 come as rows of their own: a lead handed over
(R339), a request for a copy (R545), a KEK (R406), lost-map entries that are durable (R245). The numbering and the layout
are the model's. -/
def State.coordination (s : State) (m : Bytes) : State :=
  if numAt m 0 1 = 1 then
    let v : PairValues := ⟨numAt m 12 1, numAt m 11 1, numAt m 9 2, numAt m 30 2, numAt m 32 2, numAt m 14 16⟩
    ((s.onLink fun l => { l with peer := some v, peerLeads := numAt m 13 1 }).healthArrived (numAt m 1 8)).showPairing
  else if numAt m 0 1 = 2 then s.onToken fun t => { t with peerKey := numAt m 1 8 }
  else if numAt m 0 1 = 4 then s.takeProposal m
  else if numAt m 0 1 = 5 then s.takeArm m
  else if numAt m 0 1 = 7 then (s.zeroiseSlot (namespaceSlot (numAt m 1 4))).keepBlob (numAt m 1 4) []
  else if numAt m 0 1 = 8 then s.destroyOldKeks
  else if numAt m 0 1 = 12 then s.onToken fun t => { t with seeding := some ⟨numAt m 1 1, numAt m 2 1, []⟩ }
  else if numAt m 0 1 = 13 then s.onToken fun t => { t with seeding := t.seeding.map fun p => { p with
    written := p.written ++ (List.range 8).filter fun g => bitOf (numAt m 1 1) g && !p.written.contains g } }
  else if numAt m 0 1 = 10 then s.each ((List.range 8).filter fun g => bitOf (numAt m 1 1) g && s.leads g && s.peerReady g) fun g s => s.startHandOver g false
  else s

/-! Group Policy between the modules (R442). -/

/-- The policy a group will have from a measure on. -/
def State.policyFrom (s : State) (g : Nat) : GroupPolicy :=
  match (s.host.policyChanges.filter fun p => p.group == g && p.nsid == 0).getLast? with
  | some p => p.policy
  | none => s.host.policies.getD g ⟨0, true, true⟩

/-- R442: as the lead: the change of a request's parameters is assigned to the coming boundary. Status, reply parameters. -/
def State.setPolicy (s : State) (params : Bytes) : Nat × Bytes × State :=
  let g := numAt params 0 1
  let set := numAt params 1 1
  let cache := numAt params 2 1
  let crypt := numAt params 3 1
  let nsid := numAt params 4 4
  let t := s.measure + 1
  let answer := fun s : State =>
    let p := s.policyFrom g
    (0, leBytes 1 g ++ leBytes 1 p.set ++ leBytes 1 (if p.writeBack then 1 else 0) ++ leBytes 1 (if p.encrypted then 1 else 0) ++ leBytes 8 t, s)
  if 1 < cache then (0x103, [], s)
  else if nsid ≠ 0 then
    if set ≠ 0xFF ∨ crypt ≠ 0xFF then (0x103, [], s)
    else if !((s.namespace nsid).any fun n => n.group == g) then (0x106, [], s)
    else answer (s.onHost fun h => { h with policyChanges := h.policyChanges ++ [⟨g, nsid, t, ⟨0, cache == 1, true⟩⟩] })
  else if 1 < crypt then (0x103, [], s)
  else if 4 ≤ set || !s.flag (QDL_GEOM.VALID set) then (0x106, [], s)
  else answer (s.onHost fun h => { h with policyChanges := h.policyChanges ++ [⟨g, 0, t, ⟨set, cache == 1, crypt == 1⟩⟩] })

/-- A Group Policy message on channel 0: 0xFFFF, which is no CNTLID of a passed-on admin command; 1 for the request or 2 for the
answer; the session slot and the TAG. -/
def policyHead (kind slot tag : Nat) : Bytes := leBytes 2 0xFFFF ++ leBytes 1 kind ++ leBytes 1 slot ++ leBytes 2 tag

/-- R90, R442: a message on channel 0: a request for a policy that this module answers as the lead, or the lead's answer. -/
def State.policyMessage (s : State) (m : Bytes) : State :=
  if numAt m 0 2 ≠ 0xFFFF then s
  else if numAt m 2 1 = 1 then
    let (st, b, t) := if s.leads (numAt m 6 1) then s.setPolicy (m.drop 6) else (0x201, [], s)
    t.emit (.message 0 (policyHead 2 (numAt m 3 1) (numAt m 4 2) ++ leBytes 2 st ++ b))
  else
    match s.call (numAt m 3 1) (numAt m 4 2) with
    | some c => if c.opcode = 0x20A && c.started then s.reply c (numAt m 6 2) (m.drop 8) else s
    | none => s

/-- R308: a message fills the next posted receive slot of its channel. -/
def execMessageReceived (h : FrameHead) (payload : Bytes) (s : State) : Host.Outcome State Fault Refusal :=
  onSoc s fun s => s.receive h fun s =>
    let c := h.win
    let s := if c = 2 then s.coordination payload else if c = 0 then s.policyMessage payload else s
    let next := (s.channel c).nextRecv
    if !s.flag (EZL_CH_BASE_HI.OPEN c) || next = s.rd (EZL_CH_RXPOST.POST c) then s else
    let base := s.rd (EZL_CH_BASE_HI.BASE c) * 2 ^ 32 + s.rd (EZL_CH_BASE_LO.BASE c) * 2 ^ 21
    let cell := leBytes 4 payload.length ++ leBytes 1 1 ++ leBytes 3 0 ++ leBytes 8 s.measure ++ payload
    (s.storeBytes (base + 4096 * next) cell).onChannel c fun x => { x with nextRecv := (next + 1) % 256 }

end Sys2Proof.Machine
end

