-- ==== Sys2Proof/Machine/Dormant.lean ====
section
/-! DEFINITION. Entering Dormant and waking (R473–R475, R498): the entry's ordered steps, what ends it, and the start after a
wake. -/

set_option Elab.async false

namespace Sys2Proof.Machine

/-- The entry under way ends: the domains are as before it, leads handed over stay with the peer. -/
def State.endEntry (s : State) : State :=
  ((s.wr PWR_STAT.MSTATE 0).onPower fun p => { p with
    dormantStep := none
    dormantFor := none
    refuser := none }).onToken fun t => { t with surrender := false }

/-- It ends with a refusal of a domain, or of a hand-over (0xFF): the asker is told (R441, Table 19.12). -/
def State.refuseDormant (s : State) (detail : Nat) (status : Nat := 1) : State :=
  let asker := s.power.dormantFor
  let s := s.endEntry
  match asker with
  | some (slot, tag) => match s.call slot tag with
    | some c => s.refuseCall c detail
    | none => s
  | none => s.wrs [(PWR_CMD.BUSY, 0), (PWR_CMD.STATUS, status)]

/-- A refused entry, as PWR_STAT shows it. -/
def State.dormantRefused (s : State) (rdom : Nat) : State :=
  ((s.wrs [(PWR_STAT.REFUSED, 1), (PWR_STAT.RDOM, rdom)]).count PWR_REFUSALS.addr).refuseDormant rdom

/-- R473 steps 1 and 2: an entry begins, asked for by a command or by a request of a session. `refuser` is the domain that will
answer Refuse at step 5, if one will. -/
def State.enterDormant (s : State) (refuser : Option Nat) (asker : Option (Nat × Nat)) : State :=
  let gs := (List.range 8).filter s.leads
  let s := s.onPower fun p => { p with
    dormantFor := asker
    refuser := refuser }
  if !gs.all s.peerReady then s.dormantRefused 0xFF
  else
    let s := if asker.isNone then s.wrs [(PWR_CMD.BUSY, 1), (PWR_CMD.STATUS, 0)] else s
    let s := (s.wr PWR_STAT.MSTATE 1).onPower fun p => { p with dormantStep := some (if gs.isEmpty then 3 else 2) }
    (s.each gs fun g s => s.startHandOver g false).onToken fun t => { t with surrender := true }

def execPwrEnterDormant (who : Requester) (refuser : Option Nat) (s : State) : Host.Outcome State Fault Refusal :=
  onData s fun s => s.commandWrite who PWR_CMD.addr (pwrWord 3 0) fun s =>
    if s.flag PWR_CMD.BUSY || s.power.dormantStep.isSome then s else s.enterDormant refuser none

/-- R473: what asked for the entry is answered: a management request, or PWR_CMD. -/
def State.answerDormant (s : State) : State :=
  match s.power.dormantFor with
  | some (slot, tag) => match s.call slot tag with
    | some c => s.reply c 0 (leBytes 4 3)
    | none => s
  | none => s.wrs [(PWR_CMD.BUSY, 0), (PWR_CMD.STATUS, 0)]

/-- R473 steps 5 to 7, once the link is down: the entry ends where a domain refuses, else the module is Dormant. -/
def State.fallAsleep (s : State) : State :=
  match s.power.refuser with
  | some d => s.dormantRefused d
  | none =>
    let s := s.answerDormant.each s.mcp.sessions fun m s => s.endSession m.slot
    let s := s.each ((List.range 56).map (8 + ·)) fun k s => s.zeroiseSlot k
    ((s.wr WFL_STAT.DORMANT 1).count PWR_DORMANT.addr).onPower fun p => { p with
      dormant := true
      dormantStep := none
      dormantFor := none }

/-- R473 steps 4 to 7. -/
def State.sleep (s : State) : State :=
  let s := s.each (s.host.controllers.map (·.cntlid)) fun c s => s.resetController c true
  (s.wr EZL_CTL.EN 0).linkGoesDown.fallAsleep

/-- What a boundary does for an entry under way: hand-overs end, dirty data and held completions go, the module sleeps. -/
def State.dormantAtBoundary (s : State) : State :=
  match s.power.dormantStep with
  | none => s
  | some n =>
    if n = 2 && s.token.groups.any (·.role == .handing) then s
    else if n = 2 && (List.range 8).any s.leads then s.dormantRefused 0xFF
    else
      let s := s.onPower fun p => { p with dormantStep := some 3 }
      if s.rd VLT_DIRTY.N = 0 && !(s.host.commands.any (·.stage == .held)) then s.sleep else s

/-! Waking (R474, R475, R498). -/

/-- A register cell that Dormant keeps: the Wallflower's, the key store's, the latch. -/
def dormantCell (c : RegCell) : Bool := keptCell c || blockNumber c.addr == some 0x0C

/-- R475: every block except domains 152 and 153 starts as at a module reset; the records made in Dormant enter the ring. -/
def State.startAfterDormant (s : State) : State :=
  let made := s.flt.dormant
  let gap := s.flt.gap
  let keys := s.keys
  let boot := s.cfg.boot
  let kept := s.regs.filter dormantCell
  let t := s.moduleReset
  let t := State.showPulls { t with
    regs := kept
    keys := keys
    cfg := { t.cfg with boot := boot } }.loadStored
  let t := (t.wrs [(CIP_STAT.INIT, 0), (WFL_STAT.DORMANT, 0), (PWR_STAT.MSTATE, 2)]).onFlt fun x => { x with gap := gap }
  t.each made.reverse fun r t => t.newRecord r

/-- R498: a wake event of a source: in Dormant the module starts; before step 7 of an entry it ends the entry (R474). -/
def State.wake (s : State) (source : Nat) : State :=
  if !bitOf (s.rd WFL_WAKE.EN) source || (!s.power.dormant && s.power.dormantStep.isNone) then s
  else
    let s := (s.wr WFL_WAKECAUSE.SRC (s.rd WFL_WAKECAUSE.SRC ||| 2 ^ source)).count WFL_WAKES.addr
    if s.power.dormant then s.startAfterDormant else (s.wr PWR_STAT.ABORTED 1).refuseDormant 0xFF 2

def execDormantWake (source : Nat) (s : State) : Host.Outcome State Fault Refusal :=
  onAlways s fun s => if source < 6 then s.wake source else s

end Sys2Proof.Machine
end

