-- ==== Sys2Proof/Machine/Wallflower.lean ====
section
/-! DEFINITION. The Wallflower (chapter The Wallflower): channels and filters, digital inputs, the rule sweep, waking and the
self power cycle. -/

set_option Elab.async false

namespace Sys2Proof.Machine

/-! Channels (R484–R486). -/

def channelSigned (ch : Nat) : Bool := ch == 4 || (6 ≤ ch && ch ≤ 25) || ch == 29 || ch == 30

/-- R485: sensors that lose power with their domain. -/
def channelSwitched (ch : Nat) : Bool := (10 ≤ ch && ch ≤ 25) || ch == 27 || ch == 28

/-- A 16-bit channel value in the channel's unit. -/
def channelValue (ch v : Nat) : Int := if channelSigned ch then signed16 v else v

/-- R486: one step of the filter. -/
def filterStep (ch shift : Nat) (filt raw : Int) : Int :=
  let d := raw - filt
  filt + d / (2 ^ shift : Nat) + (if d % (2 ^ shift : Nat) ≠ 0 && Config.filterRoundsUp ch d then 1 else 0)

def execAnalogSample (ch : Nat) (raw : Word) (s : State) : Host.Outcome State Fault Refusal :=
  onAlways s fun s =>
    if !s.wallRuns || 32 ≤ ch then s else
    let v := raw.toNat % 65536
    if v = 0x8000 || (channelSwitched ch && s.power.dormant) then s.wrs [(WFL_VAL.RAW ch, 0x8000), (WFL_VAL.FILT ch, 0x8000)]
    else
      let restart := s.wall.restart.contains ch || s.rd (WFL_VAL.FILT ch) == 0x8000
      let f := if restart then channelValue ch v else
        filterStep ch (s.rd (WFL_FLT.SHIFT ch)) (channelValue ch (s.rd (WFL_VAL.FILT ch))) (channelValue ch v)
      (s.wrs [(WFL_VAL.RAW ch, v), (WFL_VAL.FILT ch, (BitVec.ofInt 16 f).toNat)]).onWall fun w => { w with
        restart := w.restart.filter (· != ch) }

/-! Digital inputs (R487, R497). -/

def State.inputHigh (s : State) (i : Nat) : Bool := s.flag ⟨WFL_DIN.addr (i / 32), i % 32, i % 32⟩

/-- R497: a drive-port group comes On: its slots start from Empty and read the present levels. -/
def State.wakeSlots (s : State) (g : Nat) : State :=
  if s.domainState (116 + g) ≠ 2 then s
  else
    (s.powerOnDomain (116 + g)).each ((List.range 4).map (4 * g + ·)) fun k s =>
      let s := s.wr (SLT_STAT.ATTN k) (if s.inputHigh (48 + k) then 0 else 1)
      if s.inputHigh k then s else s.setSlot k slotDebounce

/-- What an input's new level does beside the rules: domains that are Off come On, a Dormant module wakes (R497, R498). -/
def State.inputActs (s : State) (i : Nat) (high : Bool) : State :=
  if i < 96 then (if s.running then s.wakeSlots (i % 48 / 4) else s)
  else if i ≤ 97 then
    let s := if s.running && s.domainState 128 == 2 && (i == 97 || high) then s.powerOnDomain 128 else s
    if i == 96 && high && !s.inputHigh 97 then s.wake 2 else s
  else if i = 104 && high then s.wake 0
  else if i = 105 && high then s.wake 1
  else s

def execDigitalInputChange (input : Nat) (high : Bool) (s : State) : Host.Outcome State Fault Refusal :=
  onAlways s fun s =>
    if s.wallRuns && (input ≤ 97 || input == 104 || input == 105) && s.inputHigh input != high then
      (s.setInput input high).inputActs input high
    else s

/-! Rules (R488–R492). -/

/-- A rule in force; one never applied is as its registers were at reset. -/
def State.ruleInForce (s : State) (r : Nat) : RuleSetting := (getBy RuleSetting.rule r s.wall.inForce).getD ⟨r, 0, 0, 0, 0⟩

def State.ruleState (s : State) (r : Nat) : RuleState := (getBy RuleState.rule r s.wall.rules).getD ⟨r, false, 0, false⟩

def State.putRule (s : State) (x : RuleState) : State := s.onWall fun w => { w with rules := putBy RuleState.rule x w.rules }

/-- R490: at the start of a sweep the rules written since the last one apply, with their persistence clear. -/
def State.applyRules (s : State) : State :=
  (s.each s.wall.toApply fun r s =>
    let x : RuleSetting := ⟨r, (s.reg (WFL_RULE_CTL.addr r)).toNat, (s.reg (WFL_RULE_THR.addr r)).toNat, (s.reg (WFL_RULE_PER.addr r)).toNat,
      (s.reg (WFL_RULE_ACT.addr r)).toNat⟩
    (s.onWall fun w => { w with inForce := putBy RuleSetting.rule x w.inForce }).putRule ⟨r, false, 0, false⟩).onWall
      fun w => { w with toApply := [] }

/-- An edge of an input since the last sweep. -/
def State.sawEdge (s : State) (i : Nat) (rose : Bool) : Bool := s.wall.edges.contains (i, rose)

/-- An analog comparison with its hysteresis (R488): once true, until the value has crossed back past THRESH by HYST. -/
def compareAnalog (cmp : Nat) (held : Bool) (thresh hyst v : Int) : Bool :=
  if cmp = 0 then decide (thresh < v) || (held && decide (thresh - hyst < v))
  else if cmp = 1 then decide (v < thresh) || (held && decide (v < thresh + hyst))
  else false

/-- Whether a rule's condition is true before AND_EN, and whether it is an edge. -/
def State.ruleCondition (s : State) (x : RuleSetting) (held : Bool) : Bool × Bool :=
  if x.rule = 0 then (s.sawEdge 103 true, true)
  else if x.rule = 1 then (s.entryState == entryOn && decide (s.rd (WFL_VAL.RAW 2) < 10400), false)
  else if x.rule = 2 then (s.sawEdge 102 false, true)
  else if x.rule = 3 then
    (decide (3000 < ((2 * s.rd (WFL_VAL.RAW 5) : Nat) - (s.rd (WFL_VAL.RAW 3) : Nat) : Int).natAbs), false)
  else
    let kind := extractBits x.ctl 29 28
    let cmp := extractBits x.ctl 27 26
    let src := extractBits x.ctl 25 19
    if kind ≤ 1 then
      let v := if kind = 0 then s.rd (WFL_VAL.FILT src) else s.rd (WFL_VAL.RAW src)
      let thr := channelValue src (extractBits x.thr 31 16)
      (src < 32 && v != 0x8000 && compareAnalog cmp held thr (extractBits x.thr 15 0) (channelValue src v), false)
    else if kind = 2 then ((cmp == 0 && !s.inputHigh src) || (cmp == 1 && s.inputHigh src), false)
    else (((cmp == 0 || cmp == 2) && s.sawEdge src false) || ((cmp == 1 || cmp == 2) && s.sawEdge src true), true)

/-- PERSIST of a rule, µs: 20 µs and 10 ms for fixed rules 1 and 3. -/
def persistUs (x : RuleSetting) : Nat := if x.rule = 1 then 20 else if x.rule = 3 then 10000 else x.per % 2 ^ 24

/-- Whether a rule is evaluated (R492). -/
def State.ruleRuns (s : State) (x : RuleSetting) : Bool :=
  if x.rule < 4 then !(x.rule < 2 && s.entryState == entryLatched) else bitOf x.ctl 31

/-- R489: one rule of a sweep: whether it fires now. -/
def State.evaluateRule (s : State) (r : Nat) : Bool × State :=
  let x := s.ruleInForce r
  if !s.ruleRuns x then (false, s)
  else
    let y := s.ruleState r
    let (c, edge) := s.ruleCondition x y.held
    let true_ := c && (r < 4 || !bitOf x.ctl 18 || (s.ruleState (extractBits x.ctl 17 12)).fired)
    let n := if true_ then y.sweeps + 1 else 0
    let fires := true_ && !y.fired && (edge || decide (persistUs x * 100 ≤ (n - 1) * 256))
    (fires, s.putRule ⟨r, c, n, true_ && (y.fired || fires)⟩)

/-- Firing: the rule's bit, its count, its record and its interrupt. -/
def State.ruleFired (s : State) (r : Nat) : State :=
  let act := (s.ruleInForce r).act
  let s := (s.wr ⟨WFL_FIRED.addr, r, r⟩ 1).count WFL_FIRES.addr
  let word := s.rd64 WFL_FIRED.addr / 2 ^ (32 * (r / 32)) % 2 ^ 32
  let s := if r = 2 || (4 ≤ r && bitOf act 31) then
      s.fault { cls := 5, code := r, severity := 1, source := 5, data := word, dataOff := 0x30 + 4 * (r / 32) }
    else s
  if (r = 2 || (4 ≤ r && bitOf act 30)) && !s.power.dormant then s.emit (.interrupt (.rule r)) else s

/-- R500, R501: a self power cycle: the Wallflower writes EFU_CMD.CYCLE, or holds it after a decision. -/
def State.selfCycle (s : State) : State :=
  if s.flag WFL_STAT.PFD then s.wr WFL_STAT.CYCPEND 1
  else ((s.wr WFL_STAT.CYCPEND 1).count WFL_CYCLES.addr).openingEvent .selfCycle 0 (s.rd EFU_VIN.MV)

/-- R565: the ladder history gets a step taken for a cause other than a management command, before the step is taken. -/
def State.noteStep (s : State) (step : Nat) : State :=
  s.onCfg fun c => { c with ladder := ⟨step, s.clock.timeNs⟩ :: c.ladder }

/-- The action and argument of a rule: a decision for fixed rules 0 and 1, the store's failure (6) for rule 3. -/
def State.ruleAction (s : State) (r : Nat) : Nat × Nat :=
  if r < 2 then (5, 0) else if r = 2 then (0, 0) else if r = 3 then (6, 0)
  else
    let op := (s.ruleInForce r).act % 256
    (op, if op = 2 then extractBits (s.ruleInForce r).act 15 8 else 0)

/-- R491: an action, once per sweep. The thermal clamp lasts while its rule stays fired and needs nothing here. -/
def State.takeAction (s : State) (a : Nat × Nat) : State :=
  let decided := s.flag WFL_STAT.PFD
  if a.1 = 1 then (if decided then s else s.wake 5)
  else if a.1 = 2 then (if decided || !s.running || !(112 ≤ a.2 && a.2 ≤ 129) then s
    else if 116 ≤ a.2 && a.2 < 128 then s.wakeSlots (a.2 - 116) else s.powerOnDomain a.2)
  else if a.1 = 3 then (if s.running then s.noteStep 4 else s).selfCycle
  else if a.1 = 5 then s.powerFailDecision
  else if a.1 = 6 then s.failStore
  else s

/-- R489–R491: one sweep of the 64 rules. -/
def State.sweep (s : State) : State :=
  let s := s.applyRules
  let (fired, s) := (List.range 64).foldl (fun (p : List Nat × State) r =>
    let (f, t) := p.2.evaluateRule r
    (if f then p.1 ++ [r] else p.1, t)) ([], s)
  let s := s.onWall fun w => { w with edges := [] }
  let s := s.each fired fun r s => s.ruleFired r
  s.each (fired.map s.ruleAction).eraseDups fun a s => s.takeAction a

def execRuleSweep (s : State) : Host.Outcome State Fault Refusal :=
  onAlways s fun s => if s.wallRuns then s.sweep else s

/-- R490, R492: a write to WFL_RULEr_CTL; one to a fixed rule is discarded. -/
def execRuleCtlWrite (who : Requester) (rule : Nat) (value : Word) (s : State) : Host.Outcome State Fault Refusal :=
  onSoc s fun s =>
    if 64 ≤ rule then s
    else if rule < 4 then s.emit (.regDone who (WFL_RULE_CTL.addr rule))
    else s.commandWrite who (WFL_RULE_CTL.addr rule) value fun s =>
      let v := value.toNat
      s.wrs [(WFL_RULE_CTL.EN rule, extractBits v 31 31), (WFL_RULE_CTL.KIND rule, extractBits v 29 28),
        (WFL_RULE_CTL.CMP rule, extractBits v 27 26), (WFL_RULE_CTL.SRC rule, extractBits v 25 19),
        (WFL_RULE_CTL.AND_EN rule, extractBits v 18 18), (WFL_RULE_CTL.AND rule, extractBits v 17 12)]

/-! WFL_CMD and the wake sources (R498–R500). -/

/-- Ronhenko's own commands to the Wallflower: it still runs during a destage, after the decision (R286, R501). -/
def onRonhenko (s : State) (f : State → State) : Host.Outcome State Fault Refusal :=
  onAlways s fun s => if s.power.on && !s.power.dormant && !s.clock.heldInReset then f s else s

def execCycleArm (who : Requester) (s : State) : Host.Outcome State Fault Refusal :=
  onRonhenko s fun s => s.commandWrite who WFL_CMD.addr 1 fun s => s.onWall fun w => { w with armed := some s.now }

/-- R500: a go within 1 ms of an arm. -/
def execCycleGo (who : Requester) (s : State) : Host.Outcome State Fault Refusal :=
  onRonhenko s fun s => s.commandWrite who WFL_CMD.addr 2 fun s =>
    match s.wall.armed with
    | some t =>
      let s := s.onWall fun w => { w with armed := none }
      if s.now - t ≤ 1000000 then s.selfCycle else s
    | none => s

/-- R499: PEER_CYCLE_N is driven low for 100 µs. -/
def execPeerWakePulse (who : Requester) (s : State) : Host.Outcome State Fault Refusal :=
  onRonhenko s fun s => s.commandWrite who WFL_CMD.addr 3 fun s => s.emits [.pin .peerCycle false, .pin .peerCycle true]

def execWakePulse (s : State) : Host.Outcome State Fault Refusal := onAlways s fun s => s.wake 3

def execWakeTimerExpiry (s : State) : Host.Outcome State Fault Refusal :=
  onAlways s fun s => if s.power.dormant && s.rd WFL_WTIMER.SECS != 0 then (s.wr WFL_WTIMER.SECS 0).wake 4 else s

end Sys2Proof.Machine
end

