-- ==== Sys2Proof/Machine/Mcp.lean ====
section
/-! DEFINITION. Management opcodes (chapter Management Command Packets): packets as they arrive, sessions, and what each
opcode answers. An opcode's command names the request by session slot and TAG; slot 0 is a request outside a session. -/

set_option Elab.async false

namespace Sys2Proof.Machine

/-- The state that an outcome leads to; the present one when it leads to none. -/
def nextOf (o : Host.Outcome State Fault Refusal) (s : State) : State := match o with | .next t => t | _ => s

/-! Arrival (R421–R428). -/

def State.entryRecord (s : State) : Bytes :=
  leBytes 4 (s.reg EFU_LAST.addr).toNat ++ leBytes 4 (if s.entryState = entryOn then (s.reg EFU_STAT.addr).toNat else 0)

def State.identityRecord (s : State) : Bytes :=
  leBytes 4 (s.reg SYS_ID.addr).toNat ++ leBytes 4 (s.reg SYS_BUILD.addr).toNat ++ paddedText 16 (decimal s.link.serial) ++ Config.moduleSerial ++
  leBytes 1 s.cfg.position ++ leBytes 7 0 ++ s.runningFr

/-- R423: what answers while the entry is not On, or in Dormant: nothing but the records, plain. -/
def State.answerAsleep (s : State) (from_ : McpAddress) (b : Bytes) (identity : Bool) : State :=
  let send := fun st ps => s.emit (.packet from_.transport from_.address (plainPacket (pktSession b) (pktTag b) (pktOpcode b) st ps))
  if !pktFormed b then s
  else if !pktSealed b && pktOpcode b == 3 then send 0 s.entryRecord
  else if identity && !pktSealed b && pktOpcode b == 1 then send 0 s.identityRecord
  else send 0x20A []

/-- R423, R424: in Dormant, a request that the Wallflower does not answer, or a datagram to the management port, wakes the
module and is discarded. -/
def State.packetInDormant (s : State) (from_ : McpAddress) (b : Bytes) : State :=
  if from_.transport = 1 ∨ from_.transport = 2 then
    if pktFormed b && !pktSealed b && (pktOpcode b == 3 || pktOpcode b == 1) then s.answerAsleep from_ b true else s.wake 1
  else if from_.transport = 3 then s.wake 0
  else s

/-- R424: whether packets of a transport are accepted. -/
def State.transportOpen (s : State) (t : Nat) : Bool := t ≤ 2 || (t == 3 && s.flag MCP_CFG.MGMT_EN) || (t == 4 && s.flag MCP_CFG.FRONT_EN)

/-! MCTP control messages (R422, R423), laid out as DMTF DSP0236 lays them out (PRESUMED, log 134). -/

/-- The endpoint ID of a binding; 0 until one is assigned. -/
def State.eid (s : State) (binding : Nat) : Nat := match s.entry.eids.find? (·.1 == binding) with | some e => e.2 | none => 0

/-- The data of a response, from its completion code on, and the endpoint ID it leaves. -/
def State.mctpAnswer (s : State) (binding command : Nat) (data : Bytes) : Bytes × Nat :=
  let eid := s.eid binding
  if command = 1 then
    let op := numAt data 0 1 % 4
    let new := numAt data 1 1
    if data.length < 2 then (leBytes 1 3, eid)
    else if op ≤ 1 then
      if 8 ≤ new ∧ new < 255 then (leBytes 2 0 ++ leBytes 1 new ++ leBytes 1 0, new) else (leBytes 1 2, eid)
    else (leBytes 1 2, eid)
  else if command = 2 then (leBytes 1 0 ++ leBytes 1 eid ++ leBytes 2 0, eid)
  else if command = 4 then
    if numAt data 0 1 = 0xFF ∨ numAt data 0 1 = 0 ∨ numAt data 0 1 = 5 ∨ numAt data 0 1 = 0x7E then
      let n := (Config.mctpVersionCount (numAt data 0 1)).val
      (leBytes 1 0 ++ leBytes 1 n ++ Config.bytesOf (4 * n) (Config.mctpVersionByte (numAt data 0 1)), eid)
    else (leBytes 1 0x80, eid)
  else if command = 5 then (leBytes 1 0 ++ leBytes 1 3 ++ leBytes 1 0 ++ leBytes 1 5 ++ leBytes 1 0x7E, eid)
  else (leBytes 1 5, eid)

/-- A control message: a request is answered, anything else is no concern of the module's. -/
def State.mctpControl (s : State) (from_ : McpAddress) (m : Bytes) : State :=
  if m.length < 2 || !bitOf (numAt m 0 1) 7 then s
  else
    let (answer, eid) := s.mctpAnswer from_.transport (numAt m 1 1) (m.drop 2)
    (s.onEntry fun e => { e with eids := putBy (·.1) (from_.transport, eid) e.eids }).emit
      (.mctpControl from_.transport from_.address (leBytes 1 0 ++ leBytes 1 (numAt m 0 1 % 128) ++ leBytes 1 (numAt m 1 1) ++ answer))

/-- What answers a message on an MCTP binding now: the entry controller from bias on SMBus while the entry is not On, the Wallflower in
Dormant on SMBus and I3C, the module while it runs (R423). -/
def State.mctpAnswers (s : State) (binding : Nat) : Bool :=
  if s.entryState ≠ entryOn then binding == 1
  else if s.power.dormant then binding == 1 || binding == 2
  else binding ≤ 2 && s.running && s.flag MCP_STAT.READY

/-- R424: fragments of a datagram: the first one starts the second in which the last must come. -/
def State.fragmentArrived (s : State) (from_ : McpAddress) (id : Nat) (whole : Bool) (bytes : Bytes) : State :=
  let mine := fun d : McpDatagram => d.id == id && d.source == from_
  let live := s.mcp.datagrams.find? fun d => mine d && Decidable.decide (s.now < d.since + 10 ^ 9)
  if !whole then
    if live.isSome then s
    else s.onMcp fun m => { m with datagrams := (m.datagrams.filter fun d => !mine d) ++ [⟨id, from_, s.now⟩] }
  else
    let s := s.onMcp fun m => { m with datagrams := m.datagrams.filter fun d => !mine d }
    if live.isSome && bytes.length + 8 ≤ 4200 then s.acceptPacket from_ 0 bytes else s

/-- R421–R424: a message arrives whole on an MCTP binding, of type 0x00 (control) or 0x7E with vendor ID 0x1C4E (a packet), or a
datagram on a port; or a fragment of a datagram: its number, and whether it completes it. -/
def execMcpPacketReceived (from_ : McpAddress) (type : Nat) (bytes : Bytes) (fragment : Option (Nat × Bool)) (s : State) :
    Host.Outcome State Fault Refusal :=
  onAlways s fun s =>
    if from_.transport ≤ 2 ∧ type ≠ 0x7E then
      if type = 0 && s.mctpAnswers from_.transport then s.mctpControl from_ bytes else s
    else if s.entryState ≠ entryOn then (if from_.transport = 1 then s.answerAsleep from_ bytes false else s)
    else if s.power.dormant then s.packetInDormant from_ bytes
    else if !s.running || !s.flag MCP_STAT.READY || !s.transportOpen from_.transport then s
    else match fragment with
      | none => s.acceptPacket from_ 0 bytes
      | some (id, whole) => s.fragmentArrived from_ id whole bytes

def execFragmentTimeout (from_ : McpAddress) (id : Nat) (s : State) : Host.Outcome State Fault Refusal :=
  onSoc s fun s => s.onMcp fun m => { m with
    datagrams := m.datagrams.filter fun d => !(d.id == id && d.source == from_ && Decidable.decide (d.since + 10 ^ 9 ≤ s.now)) }

/-- A request as its header measures it. -/
def wholePacket (b : Bytes) : Bytes := b.take (32 + pktLength b + (if pktSealed b then 16 else 0))

/-- R425, R426: a request slot is posted. -/
def State.postRequest (s : State) (k : Nat) : State :=
  if bitOf (s.rd MCP_REQ_BUSY.BUSY) k then s.count MCP_MBX_REJ.addr
  else
    let s := s.wr MCP_REQ_BUSY.BUSY (s.rd MCP_REQ_BUSY.BUSY ||| 2 ^ k)
    s.acceptPacket ⟨5, 0⟩ k (wholePacket (s.getWords (MCP_REQ.addr (1024 * k)) 1024))

def execMcpReqDoorbell (who : Requester) (mask : Nat) (s : State) : Host.Outcome State Fault Refusal :=
  onSoc s fun s => s.commandWrite who MCP_REQ_DB.addr (BitVec.ofNat 32 (mask % 16)) fun s =>
    s.each ((List.range 4).filter (bitOf mask)) fun k s => s.postRequest k

/-- R425: the reply that waits for a slot goes into it. -/
def State.replyNext (s : State) (k : Nat) : State :=
  match s.mcp.waiting.find? (·.slot == k) with
  | some w => (s.onMcp fun m => { m with waiting := m.waiting.erase w }).mailboxReply k w.bytes
  | none => s

def execMcpRplRdyClear (who : Requester) (bits : Nat) (s : State) : Host.Outcome State Fault Refusal :=
  onSoc s fun s => s.commandWrite who MCP_RPL_RDY.addr (BitVec.ofNat 32 (bits % 16)) fun s =>
    let s := s.wr MCP_RPL_RDY.RDY (s.rd MCP_RPL_RDY.RDY - (s.rd MCP_RPL_RDY.RDY &&& bits % 16))
    s.each ((List.range 4).filter fun k => bitOf bits k && !bitOf (s.rd MCP_RPL_RDY.RDY) k) fun k s => s.replyNext k

def execMcpNtcTailWrite (who : Requester) (tail : Nat) (s : State) : Host.Outcome State Fault Refusal :=
  onSoc s fun s => s.commandWrite who MCP_NTC_TAIL.addr (BitVec.ofNat 32 (tail % 16)) fun s =>
    s.wr MCP_NTC_TAIL.TAIL (tail % 16)

/-! Role —: outside a session, or sealed in one. -/

/-- The key slot under which a request for an opcode of role — is held: 0 outside a session (R421, R443). -/
def State.openSlot (s : State) (tag opcode : Nat) : Nat :=
  if s.mcp.plain.any (·.tag == tag) then 0
  else match s.mcp.sessions.find? fun m => m.requests.any fun r => r.tag == tag && r.opcode == opcode with
    | some m => m.slot
    | none => 0

def execGetIdentity (tag : Nat) (s : State) : Host.Outcome State Fault Refusal :=
  onSoc s fun s => s.runCall (s.openSlot tag 1) tag 1 fun c s => s.reply c 0 s.identityRecord

/-- R429: a challenge, the oldest of more than 64 evicted. -/
def execGetChallenge (tag : Nat) (s : State) : Host.Outcome State Fault Refusal :=
  onSoc s fun s => s.runCall (s.openSlot tag 2) tag 2 fun c s =>
    let (v, s) := s.random 32
    let s := s.onMcp fun m => { m with challenges := (m.challenges ++ [McpChallenge.mk v s.now]).drop (m.challenges.length - 63) }
    s.showMcp.reply c 0 v

def execChallengeExpiry (s : State) : Host.Outcome State Fault Refusal :=
  onSoc s fun s => (s.onMcp fun m => { m with challenges := m.challenges.filter fun x => decide (s.now < x.issued + 10 ^ 10) }).showMcp

def execGetEntryRecord (tag : Nat) (s : State) : Host.Outcome State Fault Refusal :=
  onSoc s fun s => s.runCall (s.openSlot tag 3) tag 3 fun c s => s.reply c 0 s.entryRecord

/-- R431: a failed MAC; the eighth within 60 s locks the principal out for 60 s. -/
def State.macFailed (s : State) (p : Nat) : State :=
  let old := getBy McpLockout.principal p s.mcp.lockouts
  let fails := s.now :: ((match old with | some l => l.failures | none => []).filter fun t => decide (s.now < t + 60 * 10 ^ 9))
  let until_ := if 8 ≤ fails.length then s.now + 60 * 10 ^ 9 else match old with | some l => l.until_ | none => 0
  s.onMcp fun m => { m with lockouts := putBy McpLockout.principal ⟨p, fails, until_⟩ m.lockouts }

def State.lockedOut (s : State) (p : Nat) : Bool := (getBy McpLockout.principal p s.mcp.lockouts).any fun l => decide (s.now < l.until_)

/-- R430: the generation a slot takes at its next open. -/
def sessionGeneration (g : Nat) : Nat := if (g + 1) % 2 ^ 24 = 0 then 1 else (g + 1) % 2 ^ 24

/-- R429, R430: the checks passed: the session opens and the unsealed reply goes. -/
def State.openSession (s : State) (c : McpCall) (p slot : Nat) (challenge nonce share : Bytes) : State :=
  let g := sessionGeneration (match s.mcp.generations.find? (·.1 == slot) with | some x => x.2 | none => 0)
  let word := leBytes 4 (g * 256 + slot)
  let d := s.draws
  let s := s.onDraws (· + 1)
  let k := Config.hmac (s.principalKey p) (Config.ecdhSecret d share)
  let sk := Config.kdfLong k (ascii "mcp-session") (challenge ++ nonce ++ word)
  let s := s.onMcp fun m => { m with
    generations := putBy (·.1) (slot, g) m.generations
    sessions := putBy McpSession.slot ⟨slot, g, p, c.from_, sk, 0, 0, [], [], 0, s.now⟩ m.sessions }
  let s := (s.loadSlot slot 0 0 sk).showMcp
  let body := word ++ leBytes 1 (s.role p) ++ leBytes 3 0 ++ Config.ecdhShare d
  let head := packetHeader 2 0 (pktSession c.bytes) 0 c.tag c.opcode 0 152
  s.reply c 0 (body ++ Config.hmac k (ascii "mcp-confirm" ++ c.bytes ++ head ++ body))

/-- R431, R456: Session Open: the checks of Table 17.3 in order; the challenge is used up. -/
def execSessionOpen (tag : Nat) (s : State) : Host.Outcome State Fault Refusal :=
  onSoc s fun s => s.runCall (s.openSlot tag 0x10) tag 0x10 fun c s =>
    let p := numAt c.params 0 2
    let challenge := (c.params.drop 4).take 32
    let held := s.mcp.challenges.any fun x => x.value == challenge && decide (s.now < x.issued + 10 ^ 10)
    let t := (s.onMcp fun m => { m with challenges := m.challenges.filter (·.value != challenge) }).showMcp
    let unclaimed := !s.two.claimed && !(c.from_.transport == 5 || c.from_.transport == 1 || c.from_.transport == 2)
    if !s.principalLive p || unclaimed then t.reply c 0x305
    else if s.lockedOut p then t.reply c 0x306
    else if !held then t.reply c 0x304
    else if Config.hmac (s.principalKey p) (c.bytes.take 32 ++ c.params.take 164) != c.params.drop 164 then (t.macFailed p).reply c 0x301
    else if 4 ≤ (s.mcp.sessions.filter (·.principal == p)).length then t.reply c 0x403
    else match (List.range 56).find? fun i => (s.session (8 + i)).isNone with
      | none => t.reply c 0x401
      | some i => t.openSession c p (8 + i) challenge ((c.params.drop 36).take 32) ((c.params.drop 68).take 96)

/-! Sessions (R432, R435). -/

def execSessionReset (slot tag : Nat) (s : State) : Host.Outcome State Fault Refusal :=
  onSoc s fun s => s.runCall slot tag 0x11 fun c s =>
    let target := numAt c.params 0 4
    match s.session slot with
    | none => s
    | some me =>
      if target = 0 ∨ target = me.word then (s.reply c 0).endSession slot
      else match s.mcp.sessions.find? fun m => m.word == target && m.principal == me.principal with
        | some m => (s.reply c 0).endSession m.slot
        | none => s.reply c 0x208

def execSessionList (slot tag : Nat) (s : State) : Host.Outcome State Fault Refusal :=
  onSoc s fun s => s.runCall slot tag 0x12 fun c s =>
    let mine := s.mcp.sessions.filter fun m => c.session.any fun x => x.principal == m.principal
    s.reply c 0 (leBytes 1 mine.length ++ leBytes 3 0 ++ mine.flatMap fun m =>
      leBytes 4 m.word ++ leBytes 1 m.bound.transport ++ leBytes 3 0 ++ leBytes 4 ((s.now - m.lastUsed) / 10 ^ 9))

/-- R432: IDLE seconds with no accepted request and none in progress. -/
def execSessionIdleTimeout (slot : Nat) (s : State) : Host.Outcome State Fault Refusal :=
  onSoc s fun s =>
    match s.session slot with
    | some m => if m.requests.isEmpty && decide (m.lastUsed + s.rd MCP_CFG.IDLE * 10 ^ 9 ≤ s.now) then s.endSession slot else s
    | none => s

/-- R444: a request still running 10 s after its start. -/
def execRequestTimeout (slot tag : Nat) (s : State) : Host.Outcome State Fault Refusal :=
  onSoc s fun s =>
    match s.call slot tag with
    | none => s
    | some c =>
      match c.session with
      | none => s
      | some m =>
        if c.timedOut || !(m.requests.any fun r => r.seq == c.seq && r.startedAt.any fun t => Decidable.decide (t + 10 ^ 10 ≤ s.now)) then s
        else (s.sealedReply m c 0x602 []).onSession slot fun x => { x with
          requests := x.requests.map fun r => if r.seq == c.seq then { r with timedOut := true } else r }

/-! Notices (R445). -/

/-- Notice types that exist. -/
def noticeMask : Nat := 0x1FE

def execNoticeSubscribe (slot tag : Nat) (s : State) : Host.Outcome State Fault Refusal :=
  onSoc s fun s => s.runCall slot tag 0x13 fun c s =>
    let mask := numAt c.params 0 4 &&& noticeMask
    (s.onSession slot fun m => { m with mask := mask }).reply c 0 (leBytes 4 mask)

def execGetNotices (slot tag : Nat) (s : State) : Host.Outcome State Fault Refusal :=
  onSoc s fun s => s.runCall slot tag 0x14 fun c s =>
    let l := ((s.mcp.notices.reverse.filter fun n => numAt c.params 0 8 ≤ n.number).take 16)
    s.reply c 0 (leBytes 1 l.length ++ leBytes 7 0 ++ l.flatMap fun n => n.params false)

/-! Reads. -/

/-- R437: words read as Ronhenko, rising; the index of the first that failed. -/
def State.readWords (s : State) (addr : Nat) (i : Nat) : Nat → Bytes × Option Nat × State
  | 0 => ([], none, s)
  | n + 1 =>
    let (w, bad, s) : Word × Bool × State := match s.reach addr 4 with
      | .reached => let (v, t) := s.readReg .ronhenko addr; (v, false, t)
      | .off b d => (BitVec.ofNat 32 0xFFFFFFFF, true, s.offAccess b d)
      | .badSize | .unassigned => (BitVec.ofNat 32 0xFFFFFFFF, true, s)
    let (l, e, s) := s.readWords (addr + 4) (i + 1) n
    (leBytes 4 w.toNat ++ l, if bad then some i else e, s)

/-- FIRST_ERR. -/
def firstErr (e : Option Nat) : Bytes := leBytes 4 (e.getD 0xFFFFFFFF)

/-- Address of a register request, or the status that refuses it: block, offset, and up to `most` words. -/
def registerSpan (p : Bytes) (most : Nat) : Except Nat (Nat × Nat) :=
  let n := numAt p 4 2
  if n = 0 ∨ most < n then .error 0x103
  else if (findBlock (numAt p 0 1) blockTable).isNone || 0x10000 < numAt p 2 2 + 4 * n then .error 0x106
  else .ok (0x00F000000000 + numAt p 0 1 * 0x10000 + numAt p 2 2, n)

def execModuleStatus (slot tag : Nat) (s : State) : Host.Outcome State Fault Refusal :=
  onSoc s fun s => s.runCall slot tag 0x101 fun c s =>
    let w := fun a => leBytes 4 (s.reg a).toNat
    s.reply c 0 (w MEAS_STAT.addr ++ w NRG_STAT.addr ++ w VLT_STAT.addr ++ w EZL_STAT.addr ++ w LTK_STAT.addr ++ w EFU_STAT.addr ++
      leBytes 8 s.measureNumber ++ leBytes 8 (s.rd64 LTK_HEALTH.addr) ++ leBytes 8 (s.rd64 LTK_PHEALTH.addr))

/-- The reader of a log page from management: no controller of a host. -/
def noController : Controller where
  cntlid := 0
  hostId := 0
  hostNqn := []
  direct := false
  enabled := false
  ready := false
  shst := 0
  cc := 0
  kato := 0
  kaAt := 0
  aers := []
  aec := 0
  queues := []
  features := []
  errors := []
  changedNs := []

def execLogPageRead (slot tag : Nat) (s : State) : Host.Outcome State Fault Refusal :=
  onSoc s fun s => s.runCall slot tag 0x102 fun c s =>
    let off := numAt c.params 8 4
    let len := numAt c.params 12 4
    if 4032 < len then s.reply c 0x103
    else match s.logPage noController (numAt c.params 4 4) (numAt c.params 0 1) with
      | .error st => s.reply c (if st = stLogPage then 0x106 else 0x103)
      | .ok (b, t) => if b.length < off then s.reply c 0x103 else t.reply c 0 ((b.drop off).take len)

/-- R559: records from FROM, or from the oldest held, oldest first; they count as read. -/
def execFaultRecordsRead (slot tag : Nat) (s : State) : Host.Outcome State Fault Refusal :=
  onSoc s fun s => s.runCall slot tag 0x103 fun c s =>
    let l := (s.flt.ring.reverse.filter fun r => numAt c.params 0 8 ≤ r.number).take 63
    let s := s.onFlt fun x => { x with ring := x.ring.map fun r => if l.any (·.number == r.number) then { r with read := true } else r }
    s.reply c 0 (l.flatMap FaultRecord.bytes)

def execLongOperationStatus (slot tag : Nat) (s : State) : Host.Outcome State Fault Refusal :=
  onSoc s fun s => s.runCall slot tag 0x104 fun c s =>
    match s.logPage noController 0 0xC2 with
    | .error _ => s.reply c 0x106
    | .ok (b, t) => if b.length < numAt c.params 0 4 then s.reply c 0x103 else t.reply c 0 ((b.drop (numAt c.params 0 4)).take 4048)

/-! Commands that reply when BUSY clears (R438). -/

def State.leadReply (s : State) (c : McpCall) : State :=
  let st := s.rd LTK_CMD.STATUS
  s.reply c (if st = 0 then 0 else 0x204) (leBytes 1 st ++ leBytes 3 0 ++ leBytes 4 (s.reg LTK_STAT.addr).toNat)

def State.slotReply (s : State) (c : McpCall) : State :=
  let k := numAt c.params 0 1
  let st := s.rd (SLT_CMD.STATUS k)
  s.reply c (if st = 0 then 0 else 0x204) (leBytes 1 st ++ leBytes 3 0 ++ leBytes 4 (s.reg (SLT_STAT.addr k)).toNat)

def State.layoutReply (s : State) (c : McpCall) : State :=
  let st := s.rd RBD_PCMD.STATUS
  s.reply c (if st = 0 then 0 else 0x204) (leBytes 1 st ++ leBytes 3 0)

/-- Whether the command of a started request still runs. -/
def State.callBusy (s : State) (c : McpCall) : Bool :=
  if c.opcode = 0x201 then s.flag LTK_CMD.BUSY
  else if c.opcode = 0x202 then s.flag (SLT_CMD.BUSY (numAt c.params 0 1))
  else if c.opcode = 0x203 then s.flag RBD_PCMD.BUSY else true

/-- A started request whose command has ended is replied to. -/
def State.finishCall (s : State) (slot tag : Nat) : State :=
  match s.call slot tag with
  | none => s
  | some c =>
    if s.callBusy c then s
    else if c.opcode = 0x201 then s.leadReply c else if c.opcode = 0x202 then s.slotReply c else s.layoutReply c

/-- The request writes its command register; it is refused while that is busy. -/
def State.runCommand (s : State) (c : McpCall) (slot : Nat) (o : State → Host.Outcome State Fault Refusal) : State :=
  if s.callBusy c then s.reply c 0x202
  else
    let t := nextOf (o s) s
    (t.startCall c).finishCall slot c.tag

def execLeadCommand (slot tag : Nat) (s : State) : Host.Outcome State Fault Refusal :=
  onSoc s fun s => s.runCall slot tag 0x201 fun c s =>
    let op := numAt c.params 0 1
    let g := numAt c.params 1 1
    if op = 0 ∨ 5 < op then s.reply c 0x103
    else if 8 ≤ g then s.reply c 0x106
    else s.runCommand c slot fun s =>
      if op = 1 then execLtkHandOverGroup .ronhenko g s else if op = 2 then execLtkHandOverAll .ronhenko s
      else if op = 3 then execLtkReleaseGroup .ronhenko g s else if op = 4 then execLtkAcquireGroup .ronhenko g s
      else execLtkRunSelfTest .ronhenko s

/-- The outcome of a prepare is as the drive shows it (R350). -/
def execSlotCommand (slot tag : Nat) (foreignHeader formatted : Bool) (s : State) : Host.Outcome State Fault Refusal :=
  onSoc s fun s => s.runCall slot tag 0x202 fun c s =>
    let k := numAt c.params 0 1
    let op := numAt c.params 1 1
    if 48 ≤ k then s.reply c 0x106
    else if op = 0 ∨ 5 < op then s.reply c 0x103
    else s.runCommand c slot fun s =>
      if op = 1 then execSlotPowerOn .ronhenko k s else if op = 2 then execSlotOff .ronhenko k s
      else if op = 3 then execSlotForcedOff .ronhenko k s else if op = 4 then execSlotRetrain .ronhenko k s
      else execSlotPrepare .ronhenko k foreignHeader formatted s

def execLayoutCommand (slot tag : Nat) (s : State) : Host.Outcome State Fault Refusal :=
  onSoc s fun s => s.runCall slot tag 0x203 fun c s =>
    let set := numAt c.params 0 1
    let op := numAt c.params 1 1
    if 4 ≤ set then s.reply c 0x106
    else if op = 0 ∨ 3 < op then s.reply c 0x103
    else s.runCommand c slot fun s =>
      if op = 1 then execPromenadeStart .ronhenko set s else if op = 2 then execSetCreate .ronhenko set s else execSetDelete .ronhenko set s

/-! Resets and power (R439, R441, R482). -/

/-- The reply goes, and the action follows 10 ms later. -/
def State.actLater (s : State) (cycle : Bool) : State := s.onMcp fun m => { m with action := some ⟨cycle, s.now + 10 ^ 7⟩ }

def execModuleReset (slot tag : Nat) (s : State) : Host.Outcome State Fault Refusal :=
  onData s fun s => s.runCall slot tag 0x204 fun c s =>
    let gs := (List.range 8).filter s.leads
    if bitOf (numAt c.params 0 4) 0 && !gs.isEmpty && gs.all s.peerReady then
      (s.each gs fun g s => s.startHandOver g false).startCall c |>.onMcp fun m => { m with
        resetAfter := some (slot, c.tag, s.rd LTK_STAT.LEAD) }
    else (s.reply c 0 (leBytes 4 0)).actLater false

def execPowerCycle (slot tag : Nat) (s : State) : Host.Outcome State Fault Refusal :=
  onSoc s fun s => s.runCall slot tag 0x205 fun c s => (s.reply c 0).actLater true

def execSetPowerState (slot tag : Nat) (refuser : Option Nat) (s : State) : Host.Outcome State Fault Refusal :=
  onData s fun s => s.runCall slot tag 0x206 fun c s =>
    let st := numAt c.params 0 1
    if st = 1 then s.reply c 0 (leBytes 4 1)
    else if st ≠ 3 then s.reply c 0x103
    else if s.power.dormantStep.isSome then s.reply c 0x202
    else (s.startCall c).enterDormant refuser (some (slot, c.tag))

def execShelfBudget (slot tag : Nat) (s : State) : Host.Outcome State Fault Refusal :=
  onSoc s fun s => s.runCall slot tag 0x207 fun c s =>
    let w := numAt c.params 0 2
    if w < 50 ∨ 250 < w then s.reply c 0x103 else (s.wr CAL_BUDGET.SHELF_W w).reply c 0 (leBytes 4 w)

/-! Firmware (R440). -/

def execFirmwareDownload (slot tag : Nat) (s : State) : Host.Outcome State Fault Refusal :=
  onSoc s fun s => s.runCall slot tag 0x208 fun c s =>
    let len := numAt c.params 4 4
    if len < 4 ∨ 4040 < len then s.reply c 0x103
    else
      let (st, t) := s.stageImage (numAt c.params 0 4) (c.params.drop 8)
      t.reply c (if st = stOk then 0 else if st = stOverlap then 0x404 else 0x103)

/-- The management status of a commit's NVMe status. -/
def commitStatus (st : Nat) : Nat :=
  if st = stOk then 0 else if st = stFirmwareImage then 0x503 else if st = stActivationProhibited then 0x20B else 0x103

def execMcpFirmwareCommit (slot tag : Nat) (s : State) : Host.Outcome State Fault Refusal :=
  onSoc s fun s => s.runCall slot tag 0x209 fun c s =>
    let k := numAt c.params 0 1
    let ca := numAt c.params 1 1
    if 3 < ca then s.reply c 0x103
    else if ca = 3 && s.sanitizeHolds then s.reply c 0x209
    else
      let (st, t) := if ca = 0 then s.storeImage k else if ca = 1 then s.storeImageNext k else if ca = 2 then s.markImage k else s.commitActivate k
      if st = stOk then t.reply c 0 (leBytes 4 (if ca = 2 then k else s.commitSlot k)) else t.reply c (commitStatus st)

/-! Policies (R54, R442). -/

/-- R442: the lead answers at once; the peer, when it leads, on channel 0. -/
def execGroupPolicy (slot tag : Nat) (s : State) : Host.Outcome State Fault Refusal :=
  onSoc s fun s => s.runCall slot tag 0x20A fun c s =>
    let g := numAt c.params 0 1
    if 8 ≤ g then s.reply c 0x106
    else if s.leads g then
      let (st, b, t) := s.setPolicy c.params
      t.reply c st b
    else if s.linkUp && bitOf s.link.peerLeads g then
      (s.startCall c).emit (.message 0 (policyHead 1 slot tag ++ c.params))
    else s.reply c 0x201

def execSetMeasureLength (slot tag : Nat) (s : State) : Host.Outcome State Fault Refusal :=
  onSoc s fun s => s.runCall slot tag 0x20B fun c s =>
    let m := numAt c.params 0 1
    if 4 < m then s.reply c 0x103
    else (s.onCfg fun x => { x with mlen := m }).reply c 0 (leBytes 1 m ++ leBytes 1 (s.rd MEAS_CTL.MLEN) ++ leBytes 2 0)

/-! Two-Step (R454, R455). -/

/-- The principal of a request. -/
def McpCall.principal (c : McpCall) : Nat := match c.session with | some m => m.principal | none => 0

/-- Its SESSION word. -/
def McpCall.sessionWord (c : McpCall) : Nat := match c.session with | some m => m.word | none => 0

/-- A refusal of Two-Step: its detail goes with status 0x0204. -/
def State.twoStepRefused (s : State) (c : McpCall) (st detail : Nat) : State := if st = 0x204 then s.refuseCall c detail else s.reply c st

def execTwoStepPropose (slot tag : Nat) (s : State) : Host.Outcome State Fault Refusal :=
  onSoc s fun s => s.runCall slot tag 0x300 fun c s =>
    match s.propose c.principal (numAt c.params 0 2) (numAt c.params 4 8) (c.params.drop 12) c.sessionWord with
    | .ok (n, t) => t.reply c 0 (leBytes 8 n)
    | .error (st, d) => s.twoStepRefused c st d

def execTwoStepConfirm (slot tag : Nat) (s : State) : Host.Outcome State Fault Refusal :=
  onSoc s fun s => s.runCall slot tag 0x301 fun c s =>
    match s.confirm c.principal (numAt c.params 0 8) (c.params.drop 8) c.sessionWord with
    | .ok (n, t) => t.reply c 0 (leBytes 8 n)
    | .error (st, d, t) => t.twoStepRefused c st d

def execTwoStepWithdraw (slot tag : Nat) (s : State) : Host.Outcome State Fault Refusal :=
  onSoc s fun s => s.runCall slot tag 0x302 fun c s =>
    match s.withdraw (numAt c.params 0 8) with
    | .ok t => t.reply c 0
    | .error d => s.refuseCall c d

/-- A proposal as Two-Step Status shows it: its record, then its visible body. -/
def Proposal.status (p : Proposal) : Bytes := p.record ++ visibleBody p.object p.body

def execTwoStepStatus (slot tag : Nat) (s : State) : Host.Outcome State Fault Refusal :=
  onSoc s fun s => s.runCall slot tag 0x303 fun c s =>
    let n := numAt c.params 0 8
    if n = 0 then s.reply c 0 (((s.two.proposals.filter Proposal.live).flatMap Proposal.status).take 4048)
    else match s.two.proposals.find? (·.number == n) with
      | some p => s.reply c 0 (p.status.take 4048)
      | none => s.refuseCall c 3

/-! At a boundary. -/

/-- R439: the hand-overs asked for by a Module Reset have ended. -/
def State.resetAfterHandOver (s : State) : State :=
  match s.mcp.resetAfter with
  | none => s
  | some (slot, tag, before) =>
    if s.token.groups.any (·.role == .handing) then s
    else
      let s := s.onMcp fun m => { m with resetAfter := none }
      let given := before - (before &&& s.rd LTK_STAT.LEAD)
      (match s.call slot tag with | some c => s.reply c 0 (leBytes 1 given ++ leBytes 3 0) | none => s).actLater false

/-- Started requests whose commands have ended are replied to. -/
def State.mcpAtBoundary (s : State) : State :=
  let s := s.resetAfterHandOver
  s.each (s.mcp.sessions.flatMap fun m => (m.requests.filter (·.startedAt.isSome)).map fun r => (m.slot, r.tag)) fun p s => s.finishCall p.1 p.2

end Sys2Proof.Machine
end

