-- ==== Sys2Proof/Machine/Spdm.lean ====
section
/-! DEFINITION. The SPDM responder (R458, Table 18.9). The messages are laid out as DMTF DSP0274 1.3 lays them out (PRESUMED, log
44), and fields that neither it nor R458 fixes are free values. -/

set_option Elab.async false

namespace Sys2Proof.Machine

/-- A reply to a request on a midplane or direct-port binding; `asleep` is what Dormant does with it. -/
def State.spdm (s : State) (from_ : McpAddress) (asleep : State → State) (ans : State → Bytes × State) : State :=
  if 2 < from_.transport then s
  else if s.power.dormant then (if from_.transport = 0 then s else asleep s)
  else if !s.running || !s.flag MCP_STAT.READY then s
  else let (b, t) := ans s; t.emit (.packet from_.transport from_.address b)

/-- The header of a response: version, code, two parameters. -/
def spdmHead (code p1 p2 : Nat) : Bytes := leBytes 1 0x13 ++ leBytes 1 code ++ leBytes 1 p1 ++ leBytes 1 p2

/-- A field left open. -/
def spdmOpen (code off n : Nat) : Bytes := Config.bytesOf n fun i => Config.spdmByte code (off + i)

/-- ERROR, invalid request. -/
def spdmError : Bytes := spdmHead 0x7F 1 0

def execSpdmGetVersion (from_ : McpAddress) (s : State) : Host.Outcome State Fault Refusal :=
  onAlways s fun s => s.spdm from_ (·.wake 1) fun s => ([0x10, 0x04, 0, 0, 0, 1, 0x00, 0x13], s)

/-- Certificates, challenge, and signed measurements; no key exchange, no secure session. -/
def execSpdmGetCapabilities (from_ : McpAddress) (s : State) : Host.Outcome State Fault Refusal :=
  onAlways s fun s => s.spdm from_ (·.wake 1) fun s =>
    (spdmHead 0x61 0 0 ++ leBytes 1 0 ++ spdmOpen 0x61 5 1 ++ leBytes 2 0 ++ leBytes 4 0x16 ++ spdmOpen 0x61 12 8, s)

/-- ECDSA P-384 with SHA-384, whatever else was offered. -/
def execSpdmNegotiateAlgorithms (from_ : McpAddress) (s : State) : Host.Outcome State Fault Refusal :=
  onAlways s fun s => s.spdm from_ (·.wake 1) fun s =>
    (spdmHead 0x63 0 0 ++ leBytes 2 36 ++ leBytes 1 1 ++ leBytes 1 0 ++ leBytes 4 4 ++ leBytes 4 0x80 ++ leBytes 4 2 ++ leBytes 16 0, s)

def execSpdmGetDigests (from_ : McpAddress) (s : State) : Host.Outcome State Fault Refusal :=
  onAlways s fun s => s.spdm from_ (·.wake 1) fun s => (spdmHead 1 0 1 ++ Config.sha384 Config.certificateChain, s)

/-- A part of the chain in a slot. -/
def certificatePart (slot off len : Nat) : Bytes :=
  if slot ≠ 0 ∨ Config.certificateChain.length < off then spdmError
  else
    let b := (Config.certificateChain.drop off).take len
    spdmHead 2 0 0 ++ leBytes 2 b.length ++ leBytes 2 (Config.certificateChain.length - off - b.length) ++ b

/-- The chain is answered in Dormant too, from the Wallflower. -/
def execSpdmGetCertificate (from_ : McpAddress) (slot offset length : Nat) (s : State) : Host.Outcome State Fault Refusal :=
  onAlways s fun s =>
    s.spdm from_ (fun s => s.emit (.packet from_.transport from_.address (certificatePart slot offset length))) fun s =>
      (certificatePart slot offset length, s)

/-! Measurements. -/

def State.measurement (s : State) (i : Nat) : Bytes :=
  if i = 1 then Config.sha384 Config.bootRom
  else if i = 2 then Config.sha384 s.admin.running
  else if i = 3 then s.runningFr ++ leBytes 4 (imageSvn s.admin.running) ++ leBytes 4 s.admin.minSvn
  else if i = 4 then setupDigest s.two.objects ++ leBytes 8 (setupRevision s.two.objects) ++ leBytes 4 (s.reg TWO_STAT.addr).toNat
  else leBytes 4 (s.reg SYS_ID.addr).toNat ++ leBytes 4 (s.reg SYS_BUILD.addr).toNat ++ Config.moduleSerial

/-- A measurement block with its header; the value's type is left open. -/
def State.measurementBlock (s : State) (i : Nat) : Bytes :=
  let v := s.measurement i
  leBytes 1 i ++ leBytes 1 1 ++ leBytes 2 (v.length + 3) ++ spdmOpen 0x60 i 1 ++ leBytes 2 v.length ++ v

/-- A response signed with the device certificate key. -/
def spdmSigned (request body : Bytes) : Bytes := body ++ Config.sign (request ++ body)

def execSpdmChallenge (from_ : McpAddress) (request : Bytes) (s : State) : Host.Outcome State Fault Refusal :=
  onAlways s fun s => s.spdm from_ (·.wake 1) fun s =>
    if numAt request 2 1 ≠ 0 then (spdmError, s)
    else
      let (n, s) := s.random 32
      let sum := if numAt request 3 1 = 0 then [] else Config.sha384 ((List.range 5).flatMap fun i => s.measurementBlock (i + 1))
      (spdmSigned request (spdmHead 3 0 1 ++ Config.sha384 Config.certificateChain ++ n ++ sum ++ leBytes 2 0 ++ (request.drop 36).take 8), s)

/-- One block, all of them (operation 0xFF), or their number (0); signed when the request asks. -/
def execSpdmGetMeasurements (from_ : McpAddress) (request : Bytes) (s : State) : Host.Outcome State Fault Refusal :=
  onAlways s fun s => s.spdm from_ (·.wake 1) fun s =>
    let op := numAt request 3 1
    if 5 < op ∧ op ≠ 0xFF then (spdmError, s)
    else
      let blocks := if op = 0 then [] else if op = 0xFF then (List.range 5).map (· + 1) else [op]
      let rec_ := blocks.flatMap s.measurementBlock
      let (n, s) := s.random 32
      let body := spdmHead 0x60 (if op = 0 then 5 else 0) 0 ++ leBytes 1 blocks.length ++ leBytes 3 rec_.length ++ rec_ ++ n ++ leBytes 2 0
      if bitOf (numAt request 2 1) 0 then (spdmSigned request (body ++ (request.drop 37).take 8), s) else (body ++ (request.drop 4).take 8, s)

end Sys2Proof.Machine
end

