-- ==== Sys2Proof/Machine/Direct.lean ====
section
/-! DEFINITION. The direct port (chapter Direct Port): pins and link, configuration requests, function 0's controller and its
reads, and shutting a function down. -/

set_option Elab.async false

namespace Sys2Proof.Machine

/-! Configuration space (R367). -/

/-- The capability structures: where each lies, its size as PCIe gives it (log 45), its ID, whether function 1 has it too. -/
def capabilities : List (Nat × Nat × Nat × Bool) :=
  [(0x40, 8, 0x01, true), (0x50, 12, 0x11, true), (0x70, 60, 0x10, true), (0x100, 72, 0x0001, true), (0x150, 12, 0x0003, true),
   (0x160, 44, 0x0019, false), (0x1A0, 12, 0x0025, false), (0x1B0, 48, 0x0026, false), (0x200, 48, 0x002A, false),
   (0x240, 32, 0x0031, false), (0x280, 72, 0x0027, false), (0x300, 32, 0x0032, false)]

def capsOf (f : Nat) : List (Nat × Nat × Nat × Bool) := capabilities.filter fun c => f == 0 || c.2.2.2

/-- The structure that holds an offset. -/
def capAt (f offset : Nat) : Option (Nat × Nat × Nat × Bool) := (capsOf f).find? fun c => c.1 ≤ offset && offset < c.1 + c.2.1

/-- Where the structure after one begins: 0 after the last of its space. -/
def nextCap (f start : Nat) : Nat :=
  (((capsOf f).find? fun c => start < c.1 && (start < 0x100) == (c.1 < 0x100)).map (·.1)).getD 0

/-- The header word of a structure: ID and next pointer; the bits between are the ROM's. -/
def capHeader (f start id : Nat) (rest : Nat) : Nat :=
  if start < 0x100 then depositBits (depositBits rest 7 0 id) 15 8 (nextCap f start)
  else depositBits (depositBits rest 15 0 id) 31 20 (nextCap f start)

/-- BARs: function, offset of its low word, size; each is 64 bits wide. -/
def bars : List (Nat × Nat × Nat) := [(0, 0x10, 0x4000), (1, 0x10, 0x10000), (1, 0x18, 0x1000000), (1, 0x20, 0x1000)]

/-- The read-only part of a configuration word (Tables 14.2 to 14.4). -/
def State.romPart (s : State) (f offset : Nat) : Nat :=
  let rest := (Config.romWord f offset).toNat
  if offset = 0x00 then (if f = 0 then 0x48961C4E else 0x48971C4E)
  else if offset = 0x04 then 0x00100000
  else if offset = 0x08 then (if f = 0 then 0x01080200 else 0x08800000) + (s.reg SYS_ID.addr).toNat / 256 % 256
  else if offset = 0x0C then 0x00800000
  else if bars.any fun b => b.1 == f && b.2.1 == offset then 4
  else if offset = 0x2C then 0x48961C4E
  else if offset = 0x34 then 0x40
  else if offset < 0x40 then 0
  else match capAt f offset with
  | none => 0
  | some (start, _, id, _) =>
    if offset = 0x40 then capHeader f start id (if f = 0 then 0x00030000 else 0xC0030000)
    else if offset = 0x44 then 0
    else if offset = 0x50 then capHeader f start id ((if f = 0 then 128 else 3) * 2 ^ 16)
    else if offset = 0x54 then (if f = 0 then 0x2000 else 0x0004)
    else if offset = 0x58 then (if f = 0 then 0x3000 else 0x0804)
    else if offset = start then capHeader f start id rest
    else if offset = 0x74 then depositBits (depositBits (depositBits rest 28 28 1) 5 5 1) 2 0 2
    else if offset = 0x78 then 0
    else if offset = 0x94 then depositBits rest 4 0 1
    else if offset = 0x98 then 0
    else if offset = 0x154 then numAt Config.moduleSerial 0 4
    else if offset = 0x158 then numAt Config.moduleSerial 4 4
    else rest

/-- The bits of a configuration word that the host may write. -/
def cfgMask (f offset : Nat) : Nat :=
  if offset = 0x04 then 0x0546
  else if offset = 0x3C then 0xFF
  else if offset = 0x30 && f = 0 then 0xFFFC0001
  else match bars.find? fun b => b.1 == f && (b.2.1 == offset || b.2.1 + 4 == offset) with
  | some b => if b.2.1 = offset then 2 ^ 32 - b.2.2 else 0xFFFFFFFF
  | none =>
    if offset = 0x50 then 0xC0000000
    else if offset = 0x78 then 0x7FFF
    else if offset = 0x98 then 0xFFFF
    else if offset < 0x70 then 0
    else match capAt f offset with
    | some (start, _) => if offset = start then 0 else (Config.romMask f offset).toNat
    | none => 0

/-- The bits of a status that the module keeps live: PMCSR, and Transactions Pending of Device Status. -/
def State.statusPart (s : State) (f offset : Nat) : Nat :=
  if offset = 0x44 then s.rd (DPT_FSTAT.DSTATE f) +
    (if f = 1 && s.direct.pmeEn then 2 ^ 8 else 0) + (if f = 1 && s.direct.pmeStatus then 2 ^ 15 else 0)
  else if offset = 0x78 then s.rd (DPT_FSTAT.TPEND f) * 2 ^ 21
  else 0

/-- What a read of a configuration word returns. -/
def State.cfgRead (s : State) (f offset : Nat) : Word :=
  let m := cfgMask f offset
  BitVec.ofNat 32 ((s.romPart f offset - (s.romPart f offset &&& m)) ||| (s.cfgWord f offset &&& m) ||| s.statusPart f offset)

/-! The controller of function 0 (R372). -/

def State.freshDirect (s : State) : Controller where
  cntlid := s.directId
  hostId := 0
  hostNqn := []
  direct := true
  enabled := false
  ready := false
  shst := 0
  cc := 0
  kato := 0
  kaAt := 0
  aers := []
  aec := s.savedFeature 0x0B 0
  queues := []
  features := []
  errors := []
  changedNs := []

/-- The controller is among those of R45 while the direct-host entry of its position admits it (R450). -/
def State.ensureDirect (s : State) : State :=
  if (s.controller s.directId).isSome || (s.content 2 (directEntry s.cfg.position)).isEmpty || 4096 ≤ s.host.controllers.length then s
  else s.onHost fun h => { h with controllers := h.controllers ++ [s.freshDirect] }

def State.directEnabled (s : State) : Bool := match s.controller s.directId with | some c => c.enabled | none => false

/-- R378, Table 3.5: function 0's commands meet their fate; no status can be posted. -/
def State.directFate (s : State) : State := s.abortCommands s.directId none

/-- The NVMe registers of function 0 at their reset values; its queues are gone. -/
def State.resetNvme (s : State) : State :=
  s.onDirect fun d => { d with
    tails := []
    slots := []
    heads := []
    cfs := false
    intm := 0
    aqa := 0
    asq := 0
    acq := 0 }

/-- All registers of a function at their reset values, but for PME_En and PME_Status (R382). -/
def State.resetFnRegs (s : State) (f : Nat) : State :=
  let s := s.onFn f fun _ => DirectFn.atReset
  if f = 0 then ((s.resetController s.directId true).resetNvme).ensureDirect else s

/-! Shut-downs (R377–R380). -/

/-- Latched enables show in LATCH. -/
def State.showLatch (s : State) (f : Nat) : State :=
  let x := s.direct.fn f
  s.wr (DPT_FSTAT.LATCH f) (if x.latchBme || x.latchCc || x.latchD0 then 1 else 0)

/-- A function stops: no new request, TPEND until what is outstanding has ended. Reads not yet sent never are. -/
def State.quiesce (s : State) (f cause : Nat) : State :=
  let s := s.wrs [(DPT_FSTAT.STATE f, fnQuiescing), (DPT_FSTAT.TPEND f, 1), (DPT_FSTAT.CAUSE f, cause), (DPT_FSTAT.BME f, 0)]
  if f = 0 then s.onDirect fun d => { d with reads := d.reads.filter (·.sent) } else s

/-- R378: function 0 loses its bus mastering with CC.EN set. -/
def State.directFatal (s : State) (f : Nat) : State :=
  if f = 0 && s.directEnabled then (s.onDirect fun d => { d with cfs := true }).directFate else s

def State.clearBme (s : State) (f : Nat) : State :=
  let s := s.putCfg f 0x04 (depositBits (s.cfgWord f 0x04) 2 2 0)
  if s.fnState f = fnRunning then ((s.quiesce f 0x01).wr DPT_EVT.BME_OFF 1).directFatal f
  else (s.onFn f fun x => { x with latchBme := false }).showLatch f

def State.setBme (s : State) (f : Nat) : State :=
  let s := s.putCfg f 0x04 (depositBits (s.cfgWord f 0x04) 2 2 1)
  if s.fnState f = fnQuiescing then
    if s.rd (DPT_FSTAT.DSTATE f) = 0 || (s.direct.fn f).latchD0 then (s.onFn f fun x => { x with latchBme := true }).showLatch f else s
  else if s.fnState f = fnIdle && s.rd (DPT_FSTAT.DSTATE f) = 0 then
    let s := s.wrs [(DPT_FSTAT.STATE f, fnRunning), (DPT_FSTAT.BME f, 1)]
    if f = 0 then s.sendDirectReads else s
  else s

/-- R380: an FLR; of function 1, it empties the mailbox (R428). -/
def State.startFlr (s : State) (f : Nat) : State :=
  let s := ((s.quiesce f 0x02).wr DPT_EVT.FLR 1).count DPT_FLR.addr
  let s := (s.onFn f fun x => { x with flr := true, flrAt := s.now, latchBme := false, latchCc := false, latchD0 := false }).showLatch f
  if f = 0 then s.directFate else s.resetMailbox

/-- R382: entry to D3hot. -/
def State.enterD3 (s : State) (f : Nat) : State :=
  if s.rd (DPT_FSTAT.DSTATE f) = 3 then s else
  let run := s.fnState f = fnRunning
  let s := s.wrs [(DPT_FSTAT.DSTATE f, 3), (DPT_FSTAT.CAUSE f, 0x05), (DPT_EVT.D3, 1)]
  if run then (s.quiesce f 0x05).directFatal f else s

/-- R382: a return to D0: an enable, which resets the function's registers. -/
def State.returnD0 (s : State) (f : Nat) : State :=
  if s.rd (DPT_FSTAT.DSTATE f) ≠ 3 then s
  else if s.fnState f = fnQuiescing then (s.onFn f fun x => { x with latchD0 := true }).showLatch f
  else (s.resetFnRegs f).wrs [(DPT_FSTAT.DSTATE f, 0), (DPT_FSTAT.BME f, 0)]

/-- R372, R378, Table 14.6: the host writes CC. -/
def State.directCc (s : State) (v : Nat) : State :=
  let s := s.ensureDirect
  if bitOf v 0 then
    if s.directEnabled then s.writeCc s.directId v
    else if s.fnState 0 = fnQuiescing then
      ((s.onController s.directId fun c => { c with cc := v }).onFn 0 fun x => { x with latchCc := true }).showLatch 0
    else s.writeCc s.directId v
  else if s.directEnabled then ((s.writeCc s.directId v).resetNvme).wr (DPT_FSTAT.CAUSE 0) 0x06
  else ((s.writeCc s.directId v).onFn 0 fun x => { x with latchCc := false }).showLatch 0

/-- Table 14.5, last row of Quiescing: everything outstanding has ended. -/
def State.quiesced (s : State) (f : Nat) : State :=
  if s.fnState f ≠ fnQuiescing || (f = 0 && s.direct.reads.any (·.sent)) then s else
  let x := s.direct.fn f
  let s := (s.wrs [(DPT_FSTAT.TPEND f, 0)]).onFn f fun y => { y with flr := false, latchBme := false, latchCc := false, latchD0 := false }
  let s := s.showLatch f
  if x.flr then (s.resetFnRegs f).wrs [(DPT_FSTAT.DSTATE f, 0), (DPT_FSTAT.STATE f, fnIdle)]
  else
    let s := if x.latchD0 then (s.resetFnRegs f).wr (DPT_FSTAT.DSTATE f) 0 else s
    let s := s.wr (DPT_FSTAT.STATE f) fnIdle
    let s := if x.latchBme then s.setBme f else s
    if x.latchCc then (match s.controller s.directId with | some c => s.directCc c.cc | none => s) else s

/-- Table 14.5, last row: both functions go to Reset; nothing outstanding is waited for, and the link is down. -/
def State.portReset (s : State) (cause : Option Nat) : State :=
  let s := s.each [0, 1] fun f s => s.wrs [(DPT_FSTAT.STATE f, fnReset), (DPT_FSTAT.BME f, 0), (DPT_FSTAT.LATCH f, 0),
    (DPT_FSTAT.TPEND f, 0), (DPT_FSTAT.DSTATE f, 0), (DPT_FSTAT.OUTRD f, 0), (DPT_FSTAT.CAUSE f, cause.getD (s.rd (DPT_FSTAT.CAUSE f)))]
  let s := (s.onDirect fun d => { d with reads := [] }).directFate
  let s := ((s.resetFnRegs 0).resetFnRegs 1).resetMailbox
  (s.wrs [(DPT_STAT.UP, 0), (DPT_STAT.FLIT, 0), (DPT_STAT.DEGRADED, 0), (DPT_STAT.SPEED, 0), (DPT_STAT.WIDTH, 0)]).emit (.direct .linkDown)

/-! The link (R363, R366). -/

/-- The port may train: a cable is mated, DIR_PERST_N is high, and EN is 1. -/
def State.directMayTrain (s : State) : Bool := s.direct.cableIn && !s.direct.perstLow && s.flag DPT_CTL.EN

/-- R382: DIR_WAKE_N is held until DIR_PERST_N is deasserted. -/
def State.releaseWake (s : State) : State := if s.flag DPT_STAT.WAKE then (s.wr DPT_STAT.WAKE 0).emit (.pin .dirWake true) else s

def execDirPerstDeassert (s : State) : Host.Outcome State Fault Refusal :=
  onAlways s fun s =>
    let s := ((s.onDirect fun d => { d with perstLow := false, perstAt := s.now }).wr DPT_STAT.PERST 0).releaseWake
    if s.running && s.directMayTrain then s.emit (.direct .train) else s

def execDirPerstAssert (s : State) : Host.Outcome State Fault Refusal :=
  onAlways s fun s =>
    let s := (s.onDirect fun d => { d with perstLow := true }).wr DPT_STAT.PERST 1
    if s.running && s.direct.cableIn then (((s.wr DPT_EVT.PERST 1).count DPT_PERST.addr).portReset (some 0x04)).runJobs else s

/-- Table 14.1: while DIR_CPRSNT_N is high the port is kept in reset. -/
def execCablePresenceChange (mated : Bool) (s : State) : Host.Outcome State Fault Refusal :=
  onAlways s fun s =>
    let s := (s.onDirect fun d => { d with cableIn := mated }).wr DPT_STAT.CBL (if mated then 1 else 0)
    if !s.running then s
    else if !mated then (s.portReset none).runJobs
    else if s.directMayTrain then s.emit (.direct .train) else s

/-- R363, Table 14.5: the link is up: its speed code, its width and whether it runs in FLIT mode. -/
def execDirectLinkUp (speed width : Nat) (flit : Bool) (s : State) : Host.Outcome State Fault Refusal :=
  onSoc s fun s =>
    if !s.directMayTrain || s.flag DPT_STAT.UP then s else
    let s := s.wrs [(DPT_STAT.UP, 1), (DPT_STAT.FLIT, if flit then 1 else 0), (DPT_STAT.SPEED, speed), (DPT_STAT.WIDTH, width)]
    let s := if speed < 6 || width < 16 then s.flagFault DPT_STAT.DEGRADED 3 1 0x60 else s
    (s.each [0, 1] fun f s => s.wr (DPT_FSTAT.STATE f) fnIdle).ensureDirect

/-- R379: a hot reset; the link retrains. -/
def execHotReset (s : State) : Host.Outcome State Fault Refusal :=
  onData s fun s =>
    if !s.flag DPT_STAT.UP then s else
    (((s.wr DPT_EVT.HOTRST 1).count DPT_HOTRST.addr).portReset (some 0x03)).emit (.direct .train)

/-! Requests of the host. -/

/-- R366, R380: a function answers configuration requests with Request Retry Status in Reset and during an FLR. -/
def State.cfgReady (s : State) (f : Nat) : Bool := s.flag DPT_STAT.UP && f < 2 && s.fnState f != fnReset && !(s.direct.fn f).flr

/-- Vectors pending and no longer masked fire. -/
def State.firePending (s : State) (f : Nat) : State :=
  s.each (s.direct.fn f).pba fun v s =>
    if !bitOf (s.cfgWord f 0x50) 31 || bitOf (s.cfgWord f 0x50) 30 || s.vectorMasked f v then s
    else (s.onFn f fun x => { x with pba := x.pba.filter (· != v) }).fire f v

/-- The bytes of a write that are enabled, over the old word. -/
def mergeEnabled (old new enables : Nat) : Nat :=
  (List.range 4).foldl (fun w i => if bitOf enables i then depositBits w (8 * i + 7) (8 * i) (extractBits new (8 * i + 7) (8 * i)) else w) old

/-- A write of a configuration word, with what some of its bits start. -/
def State.cfgWrite (s : State) (f offset v enables : Nat) : State :=
  let m := cfgMask f offset
  let old := s.cfgWord f offset
  let w := mergeEnabled old v enables
  let s := s.putCfg f offset ((old - (old &&& m)) ||| (w &&& m))
  if offset = 0x04 then
    (if bitOf old 2 && !bitOf w 2 then s.clearBme f else if !bitOf old 2 && bitOf w 2 then s.setBme f else s)
  else if offset = 0x44 then
    let p := mergeEnabled 0 v enables
    let s := if f = 1 then s.onDirect fun d => { d with
        pmeEn := if bitOf enables 1 then bitOf v 8 else d.pmeEn
        pmeStatus := d.pmeStatus && !bitOf p 15 } else s
    if !bitOf enables 0 then s else if v % 4 = 3 then s.enterD3 f else if v % 4 = 0 then s.returnD0 f else s
  else if offset = 0x50 then s.firePending f
  else if offset = 0x78 && bitOf enables 1 && bitOf v 15 then s.startFlr f
  else s

/-- R366, R367, R380: a configuration request of function `f`: byte enables of a write. -/
def execConfigRequest (f offset : Nat) (write : Bool) (value : Word) (enables : Nat) (s : State) : Host.Outcome State Fault Refusal :=
  onData s fun s =>
    if !s.flag DPT_STAT.UP then s
    else if 2 ≤ f then s.emit (.direct .unsupported)
    else if !s.cfgReady f then s.emit (.direct .retry)
    else
      let o := offset / 4 * 4
      if write then (s.cfgWrite f o value.toNat enables).emit (.direct .done)
      else s.emit (.direct (.data 4 ((s.cfgRead f o).setWidth 64)))

/-- R377: a configuration write that does no more than start this event. -/
def State.cfgEvent (s : State) (f : Nat) (act : State → State) : State :=
  if !s.flag DPT_STAT.UP || 2 ≤ f then s else if s.cfgReady f then (act s).emit (.direct .done) else s.emit (.direct .retry)

def execBusMasterEnableClear (f : Nat) (s : State) : Host.Outcome State Fault Refusal := onData s fun s => s.cfgEvent f (·.clearBme f)
def execBusMasterEnableSet (f : Nat) (s : State) : Host.Outcome State Fault Refusal := onData s fun s => s.cfgEvent f (·.setBme f)
def execFunctionLevelReset (f : Nat) (s : State) : Host.Outcome State Fault Refusal := onData s fun s => s.cfgEvent f (·.startFlr f)
def execD3hotEntry (f : Nat) (s : State) : Host.Outcome State Fault Refusal := onData s fun s => s.cfgEvent f (·.enterD3 f)
def execD0Return (f : Nat) (s : State) : Host.Outcome State Fault Refusal := onData s fun s => s.cfgEvent f (·.returnD0 f)

/-- R381: an FLR has not completed within 20 ms; TPEND stays set. -/
def execFlrTimeout (f : Nat) (s : State) : Host.Outcome State Fault Refusal :=
  onSoc s fun s => if f < 2 && (s.direct.fn f).flr && Decidable.decide ((s.direct.fn f).flrAt + 20000000 ≤ s.now) then s.plainFault 3 1 0x60 f else s

/-- R377: every outstanding read has ended and every posted write is sent. -/
def execFunctionQuiesced (f : Nat) (s : State) : Host.Outcome State Fault Refusal :=
  onData s fun s => if f < 2 then s.quiesced f else s

/-! Function 0's queues (R375). -/

/-- A submission queue doorbell: entries up to the new tail are fetched, each by a read of its own. -/
def State.sqDoorbell (s : State) (queue tail size : Nat) : State :=
  let old := ((s.direct.tails.find? (·.1 == queue)).map (·.2)).getD 0
  if !s.directEnabled || s.direct.cfs || s.fnState 0 = fnQuiescing || 128 < queue || size ≤ tail || (1024 < size && queue ≠ 0) || 4096 < size then s
  else
    let s := s.onDirect fun d => { d with tails := putBy (·.1) (queue, tail) d.tails }
    s.each (List.range ((tail + size - old % size) % size)) fun i s => s.directFetch 64 fun _ => .entry queue ((old + i) % size)

def execSqDoorbell (queue tail size : Nat) (s : State) : Host.Outcome State Fault Refusal := onData s fun s => s.sqDoorbell queue tail size

/-- A read request has ended. -/
def State.endDirectRead (s : State) (tag : Nat) : State :=
  ((s.onDirect fun d => { d with reads := d.reads.filter (·.tag != tag) }).showDirectReads).sendDirectReads

/-- R375, R377: a completion of a read: placed at its own offset; once a shut-down has begun it is discarded. -/
def State.directArrives (s : State) (r : DirectRead) (data : Bytes) : State :=
  let bs := data.take (r.len - r.got.length)
  let s := (s.event 0x52 0 bs.length).moved 3 0 false bs.length
  let r' := { r with got := r.got ++ bs }
  let s := s.onDirect fun d => { d with reads := d.reads.map fun q => if q.tag == r.tag then r' else q }
  let whole := r.len ≤ r'.got.length
  if s.fnState 0 = fnQuiescing then
    let s := (s.count DPT_CPL_DISC.addr).wr DPT_EVT.DISCARD 1
    if whole then s.endDirectRead r.tag else s
  else
    let s := match r.what with
      | .data key off => s.dataArrives key (off + r.got.length) bs
      | .entry q slot => if whole then s.emit (.direct (.entry q slot r'.got)) else s
    if whole then s.endDirectRead r.tag else s

def execDirectReadCompletion (tag : Nat) (data : Bytes) (s : State) : Host.Outcome State Fault Refusal :=
  onData s fun s =>
    match s.direct.reads.find? fun r => r.tag == tag && r.sent with
    | some r => s.directArrives r data
    | none => s

/-- R369: the shortest completion timeout, in ns, of what the host selects in Device Control 2: 10 ms at reset, 50 µs and 1 ms for the
two parts of Range A as PCIe has them (log 184). -/
def State.directTimeout (s : State) : Nat :=
  let v := s.cfgWord 0 0x98 % 16
  if v = 1 then 50000 else if v = 2 then 1000000 else 10000000

/-- R369: a read times out; its command ends with Data Transfer Error. -/
def execDirectCompletionTimeout (tag : Nat) (s : State) : Host.Outcome State Fault Refusal :=
  onData s fun s =>
    match s.direct.reads.find? fun r => r.tag == tag && r.sent with
    | none => s
    | some r =>
      if s.now < r.sentAt + s.directTimeout then s else
      let s := ((s.count DPT_CTO.addr).wr DPT_EVT.CTO 1).endDirectRead tag
      match r.what with
      | .data key _ => match s.command key with | some c => s.endCommand c stDataTransfer | none => s
      | .entry .. => s

/-! Function 0's NVMe registers (Table 14.4). -/

def nvmeRegister (cap vs intm cc csts aqa asq acq offset : Nat) : Nat :=
  if offset = 0x00 then cap % 2 ^ 32 else if offset = 0x04 then cap / 2 ^ 32
  else if offset = 0x08 then vs
  else if offset = 0x0C || offset = 0x10 then intm
  else if offset = 0x14 then cc
  else if offset = 0x1C then csts
  else if offset = 0x24 then aqa
  else if offset = 0x28 then asq % 2 ^ 32 else if offset = 0x2C then asq / 2 ^ 32
  else if offset = 0x30 then acq % 2 ^ 32 else if offset = 0x34 then acq / 2 ^ 32
  else 0

def State.readNvme (s : State) (offset : Nat) : Nat :=
  let d := s.direct
  let c := s.controller s.directId
  nvmeRegister capValue 0x00020000 d.intm ((c.map (·.cc)).getD 0) ((c.map (·.csts)).getD 0 + (if d.cfs then 2 else 0)) d.aqa d.asq d.acq offset

def State.writeNvme (s : State) (offset v : Nat) : State :=
  let low := fun old : Nat => old / 2 ^ 32 * 2 ^ 32 + v
  let high := fun old : Nat => v * 2 ^ 32 + old % 2 ^ 32
  if offset = 0x0C then s.onDirect fun d => { d with intm := d.intm ||| v }
  else if offset = 0x10 then s.onDirect fun d => { d with intm := d.intm - (d.intm &&& v) }
  else if offset = 0x14 then s.directCc v
  else if offset = 0x24 then s.onDirect fun d => { d with aqa := v }
  else if offset = 0x28 then s.onDirect fun d => { d with asq := low d.asq }
  else if offset = 0x2C then s.onDirect fun d => { d with asq := high d.asq }
  else if offset = 0x30 then s.onDirect fun d => { d with acq := low d.acq }
  else if offset = 0x34 then s.onDirect fun d => { d with acq := high d.acq }
  else s

/-- A doorbell in BAR0: tails at even places, heads at odd ones. The size of an I/O queue is not among what function 0 shows
here: where the tail has wrapped, the entries before the wrap are as many as a free number says (log 46). -/
def State.nvmeDoorbell (s : State) (place v : Nat) : State :=
  let queue := place / 2
  if place % 2 = 1 then s.onDirect fun d => { d with heads := putBy (·.1) (queue, v) d.heads }
  else
    let old := ((s.direct.tails.find? (·.1 == queue)).map (·.2)).getD 0
    if queue = 0 then s.sqDoorbell 0 v (s.direct.aqa % 4096 + 1)
    else if old ≤ v then s.sqDoorbell queue v 1024
    else
      let (n, s) := s.draw
      s.sqDoorbell queue v (old + 1 + n % (1024 - old))

/-- A word of the MSI-X table or the pending bits. -/
def State.readMsix (s : State) (f offset : Nat) : Nat :=
  (((s.direct.fn f).msix.find? (·.1 == offset)).map (·.2)).getD (if offset % 16 = 12 then 1 else 0)

def State.readPba (s : State) (f offset : Nat) : Nat :=
  ((s.direct.fn f).pba.filter fun v => v / 32 == offset / 4).foldl (fun w v => w + 2 ^ (v % 32)) 0

def State.writeMsix (s : State) (f offset v : Nat) : State :=
  (s.onFn f fun x => { x with msix := putBy (·.1) (offset, v) x.msix }).firePending f

end Sys2Proof.Machine
end

