-- ==== Sys2Proof/Machine/GateOps.lean ====
section
/-! DEFINITION. Gate lists, open spans and credits (chapter Time Gates and Shapers). Rates are in Mb/s, so that a rate times
nanoseconds is thousandths of a bit. -/

set_option Elab.async false

namespace Sys2Proof.Machine

/-! Gate lists (R187, R188, R192). -/

/-- The entries of a port's list before its first INTERVAL of 0: gates and interval. -/
def State.gateEntries (s : State) (p : Nat) (shadow : Bool) : Nat → List (Nat × Nat)
  | 0 => []
  | n + 1 =>
    let i := 256 - (n + 1)
    let interval := if shadow then s.rd (NET_GCL_S1.INTERVAL p i) else s.rd (NET_GCL_A1.INTERVAL p i)
    if interval = 0 then []
    else (if shadow then s.rd (NET_GCL_S0.GATES p i) else s.rd (NET_GCL_A0.GATES p i), interval) :: s.gateEntries p shadow n

/-- R187: the cycle ends a list that is longer; the last entry of a shorter one holds to the end of the cycle. -/
def fitCycle (cycle : Nat) : List (Nat × Nat) → List (Nat × Nat)
  | [] => []
  | (g, n) :: l => if cycle ≤ n ∨ l.isEmpty then [(g, cycle)] else (g, n) :: fitCycle (cycle - n) l

/-- The active list over one cycle. -/
def State.gatePlan (s : State) (p : Nat) : List (Nat × Nat) := fitCycle (s.rd (NET_GCYCLE_ACT.NS p)) (s.gateEntries p false 256)

/-- R192: whether the active list governs the gates. -/
def State.gatesGovern (s : State) (p : Nat) : Bool :=
  s.flag (NET_GCTL.EN p) && s.gridRuns && s.rd (NET_GCL_A1.INTERVAL p 0) != 0

/-- A port's value in a list kept by port. -/
def byPort (l : List (Nat × Nat)) (p : Nat) : Nat := ((l.find? (·.1 == p)).map (·.2)).getD 0

/-- R188: the position in the cycle. -/
def State.gatePosition (s : State) (p : Nat) : Nat := (s.now - byPort s.gates.start p) % s.rd (NET_GCYCLE_ACT.NS p)

/-- What is left of the entry that covers a position, and the entries after it. -/
def fromPosition : Nat → List (Nat × Nat) → List (Nat × Nat)
  | _, [] => []
  | pos, (g, n) :: l => if pos < n then (g, n - pos) :: l else fromPosition (pos - n) l

/-- The gate states in force. -/
def State.openGates (s : State) (p : Nat) : Nat :=
  if s.gatesGovern p then ((fromPosition (s.gatePosition p) (s.gatePlan p)).head?.map (·.1)).getD 0xFF else 0xFF

/-- How long a class stays open from the start of a list, and whether to its end. -/
def openRun (c : Nat) : List (Nat × Nat) → Nat × Bool
  | [] => (0, true)
  | (g, n) :: l => if bitOf g c then let (m, all) := openRun c l; (n + m, all) else (0, false)

/-- R189: how long class `c` stays open from now, across the cycle's end: none where nothing closes it. -/
def State.openSpan (s : State) (p c : Nat) : Option Nat :=
  if !s.gatesGovern p then none else
  let plan := s.gatePlan p
  let (n, all) := openRun c (fromPosition (s.gatePosition p) plan)
  if !all then some n else
  let (m, whole) := openRun c plan
  if whole then none else some (n + m)

/-- The longest open span from each place of a doubled cycle. -/
def longestRun (c : Nat) : List (Nat × Nat) → Nat
  | [] => 0
  | e :: l => max (openRun c (e :: l)).1 (longestRun c l)

/-- R190: the longest open span of a class in the active list: none where it is never closed. -/
def State.longestSpan (s : State) (p c : Nat) : Option Nat :=
  if !s.gatesGovern p then none else
  let plan := s.gatePlan p
  if (openRun c plan).2 then none else some (longestRun c (plan ++ plan))

/-- R195: how long until an armed switchover closes class `c`: none where it does not. -/
def State.armedClose (s : State) (p c : Nat) : Option Nat :=
  if s.flag (NET_GSTAT.ARMED p) && s.gridRuns && s.rd (NET_GCL_S1.INTERVAL p 0) != 0 && !bitOf (s.rd (NET_GCL_S0.GATES p 0)) c then
    some (byPort s.gates.targets p * s.measureNs - s.now)
  else none

/-- A frame of so many bytes ends within a span at the lane rate. -/
def fitsSpan (bytes rate : Nat) : Option Nat → Bool
  | none => true
  | some span => 8000 * bytes ≤ span * rate

/-! Frames of a lane. -/

def Frame.lane (f : Frame) : Nat := f.queue % 8

/-- The queue pair that a frame of the flow engines belongs to. -/
def Frame.qp (f : Frame) : Option Nat := if f.src = 4 ∧ f.flow < 131072 then some f.flow else none

/-- The frame waits for, or leaves on, this lane (R198). -/
def Frame.on (f : Frame) (at_ : LaneClass) : Bool := f.dest == at_.port && f.lane == at_.lane && f.cls == at_.cls

def State.waits (s : State) (at_ : LaneClass) : Bool := s.switch.frames.any fun f => f.on at_ && f.stage == .queued
def State.sends (s : State) (at_ : LaneClass) : Bool := s.switch.frames.any fun f => f.on at_ && f.stage == .sending
def State.laneSends (s : State) (p l : Nat) : Bool := s.switch.frames.any fun f => f.dest == p && f.lane == l && f.stage == .sending

/-- R186: a received pause holds the class. -/
def State.paused (s : State) (at_ : LaneClass) : Bool := s.switch.pauses.any fun x => x.at_ == at_

/-! Credit (R196). -/

def LaneClass.key (a : LaneClass) : Nat := 64 * a.port + 8 * a.lane + a.cls
def Credit.key (c : Credit) : Nat := c.of_.key

/-- The slope of a credit as things stand, in thousandths of a bit per nanosecond. -/
def State.creditSlope (s : State) (a : LaneClass) : Int :=
  let idle := s.rd (NET_CBS.IDLE a.port a.lane a.cls)
  if s.sends a then idle - s.laneRateMb a.port
  else if s.waits a && bitOf (s.rd (NET_GSTAT.OPEN a.port)) a.cls && !s.paused a then idle
  else 0

/-- The credit now. -/
def State.creditLevel (s : State) (a : LaneClass) : Int :=
  match getBy Credit.key a.key s.gates.credits with
  | some c =>
    let n := c.level + s.creditSlope a * (s.now - c.at_)
    if 0 < n && !s.waits a && !s.sends a then 0 else n
  | none => 0

def State.setCredit (s : State) (a : LaneClass) (level : Int) : State :=
  s.onGates fun g => { g with credits := putBy Credit.key (Credit.mk a level s.now) g.credits }

/-- Settle the credit of a class before something that its slope depends on changes. -/
def State.settleCredit (s : State) (a : LaneClass) : State :=
  if a.port < 4 && s.flag (NET_CBS.EN a.port a.lane a.cls) then s.setCredit a (s.creditLevel a) else s

/-- Settle, change, and set a credit above 0 to 0 if the queue is then empty. -/
def State.aroundCredit (s : State) (a : LaneClass) (f : State → State) : State := (f (s.settleCredit a)).settleCredit a

/-- R181: the shaper lets the class send. -/
def State.creditPermits (s : State) (a : LaneClass) : Bool :=
  !s.flag (NET_CBS.EN a.port a.lane a.cls) || decide (0 ≤ s.creditLevel a)

/-- The classes of a port's lanes. -/
def State.portClasses (s : State) (p : Nat) : List LaneClass :=
  (List.range (s.cfg.lanes.getD p 1)).flatMap fun l => (List.range 8).map fun c => LaneClass.mk p l c

/-- R189: lane-nanoseconds that waiting frames held open classes of a lane idle, up to now; what they hold is judged anew. -/
def State.settleGuards (s : State) (p l : Nat) : State :=
  let mine := fun g : LaneClass × Nat => g.1.port == p && g.1.lane == l
  match s.gates.guards.find? mine with
  | none => s
  | some g => (s.count (NET_GUARD_NS.addr p) (s.now - g.2)).onGates fun x => { x with guards := x.guards.filter (!mine ·) }

/-- The gate states of a port change to those of its new place in the cycle: credits and held lanes are settled. -/
def State.showGates (s : State) (p : Nat) : State :=
  let s := s.each (s.portClasses p) fun a s => s.settleCredit a
  let s := s.each (List.range (s.cfg.lanes.getD p 1)) fun l s => s.settleGuards p l
  s.wr (NET_GSTAT.OPEN p) (s.openGates p)

end Sys2Proof.Machine
end

