-- ==== Sys2Proof/Machine/SwitchOps.lean ====
section
/-! DEFINITION. Frames inside the switch core: the pools of cells, admission, copies, sequence numbers, the resequencers, the
queues and the release of frames (chapter Switch Core and Shared Buffer). -/

set_option Elab.async false

namespace Sys2Proof.Machine

/-- Entry `i` of Table 6.9's counters. -/
def switchCounters : List Nat :=
  [SWC_CELLS_W.addr, SWC_CELLS_R.addr, SWC_STOMP.addr, SWC_POISON.addr, SWC_UNDERRUN.addr, SWC_DROP_LOSSY.addr, SWC_DROP_HDRM.addr,
   SWC_DROP_NOMATCH.addr, SWC_DROP_WD.addr, SWC_ECN_MARK.addr, SWC_RSQ_SKIP.addr, SWC_RSQ_TMO.addr, SWC_SEQ_OVF.addr]

/-- The switch discards a frame and counts it in counter `i` of Table 6.9 (event 0x0005). -/
def State.switchDrop (s : State) (i : Nat) : State := (s.count (switchCounters.getD i 0)).event 0x05 i

/-! Frames and their cells (R154). -/

/-- The tail of a frame is written (DONE of Table 6.3). -/
def State.tailWritten (s : State) (f : Frame) : Bool := decide (f.tailAt ≤ s.now)

/-- Table 6.2: the link words of a frame's cells, by cell. -/
def Frame.linkWords (f : Frame) : List (Nat × Nat) :=
  f.chain.zipIdx.map fun (c, i) =>
    let last := i + 1 = f.chain.length
    (c, (if last then 0 else f.chain.getD (i + 1) 0) * 2 ^ 13 + (if last then f.bytes - 256 * i else 256) * 2 ^ 4 +
      (if last then 8 else 0) + (if last && f.poison then 4 else 0))

/-- Table 6.3: a frame's descriptor, its tail written or not. -/
def Frame.descriptor (f : Frame) (done : Bool) : Bytes :=
  let head := f.chain.headD 0
  let flag := fun (b : Bool) n => if b then 2 ^ n else 0
  leBytes 4 head ++ leBytes 4 (if done then f.chain.getLastD 0 else head) ++ leBytes 2 (if done then f.bytes else 0) ++
  leBytes 1 (f.src + f.ingressLane * 16) ++ leBytes 1 f.dest ++ leBytes 2 f.queue ++ leBytes 1 f.cls ++
  leBytes 1 (flag f.ct 0 + flag done 1 + flag f.poison 2 + flag f.ordered 3 + flag f.skip 4 + flag f.ecn 5) ++
  leBytes 4 f.flow ++ leBytes 2 f.seq ++ leBytes 2 f.epoch ++ leBytes 4 f.ts ++ leBytes 4 0

/-- The first free cell from one on, around the 524,288; `fuel` is how many may be taken. -/
def freeCellFrom (used : List Nat) (c : Nat) : Nat → Nat
  | 0 => c % 524288
  | n + 1 => if used.contains (c % 524288) then freeCellFrom used (c + 1) n else c % 524288

/-- Free cells for a frame, each from the place that a free number names on: which bank is the least pending is a matter of
cycles (R153, log 164). -/
def pickCells (used : List Nat) (pick : Nat → Nat) : Nat → List Nat
  | 0 => []
  | n + 1 =>
    let l := pickCells used pick n
    l ++ [freeCellFrom (used ++ l) (pick n) (used.length + n + 1)]

/-- The cells of the frames inside. -/
def State.cellsUsed (s : State) : List Nat := s.switch.frames.flatMap (·.chain)

/-- R159: XON goes out for the classes whose shared use has fallen far enough. -/
def State.sendXon (s : State) : State :=
  s.each s.switch.xoff fun x s =>
    if s.belowShare x.port x.cls (s.rd (SWC_PFC.XON_OFF x.port x.cls)) then
      (s.emit (.frame (.pfc x.port x.lane x.cls false))).onSwitch fun w => { w with xoff := w.xoff.filter (· != x) }
    else s

/-! The forwarding table (Table 6.5). -/

def zeroEntry : Bytes := List.replicate 16 0

def entryAt (l : List FwdEntry) (i : Nat) : Bytes := ((getBy FwdEntry.idx i l).map (·.bytes)).getD zeroEntry

def putEntry (l : List FwdEntry) (i : Nat) (b : Bytes) : List FwdEntry :=
  if b = zeroEntry then dropBy FwdEntry.idx i l else putBy FwdEntry.idx ⟨i, b⟩ l

/-- A valid entry that matches a frame; one whose ACT is reserved matches nothing. -/
def entryMatches (e : Bytes) (f : FrameOffer) : Bool :=
  let ctl := numAt e 0 1
  bitOf ctl 0 && numAt e 12 1 ≤ 2 && numAt e 1 1 % 16 == f.src &&
  (!bitOf ctl 1 || numAt e 1 1 / 16 == f.lane) && (!bitOf ctl 2 || numAt e 2 2 == f.etype) &&
  (!bitOf ctl 3 || numAt e 4 2 == f.udp) && (!bitOf ctl 4 || numAt e 6 1 % 64 == f.dscp)

/-- The destinations of an entry: attachment and queue. -/
def entryDests (e : Bytes) : List (Nat × Nat) :=
  let d := fun n : Nat => (n / 256 % 16, n % 256)
  d (numAt e 8 2) :: (if numAt e 10 2 = 0xFFFF then [] else [d (numAt e 10 2)])

/-- Attachments whose frames the table forwards. -/
def tableForwards (src : Nat) : Bool := src < 4 || src == 8 || src == 9

/-- R172, R173: a frame's destinations and class; none when it is discarded, with whether it is counted. -/
def State.forwarding (s : State) (f : FrameOffer) : Except Bool (List (Nat × Nat) × Nat) :=
  match s.switch.active.find? fun e => entryMatches e.bytes f with
  | none => .error true
  | some e => if numAt e.bytes 12 1 = 0 then .ok (entryDests e.bytes, numAt e.bytes 7 1 % 8) else .error (numAt e.bytes 12 1 == 2)

/-- R165: whether a copy of a frame is ORDERED: a flow engine marks every frame toward a NET port, Ronhenko every mirror frame
toward the link, other writers those they mark; a reserved flow orders nothing. -/
def copyOrdered (f : FrameOffer) (dest : Nat) : Bool :=
  decide (f.flow < 131080) && ((f.ordered && decide (4 ≤ f.src)) || (f.src == 4 && decide (dest < 4)) || (dest == 9 && decide (131072 ≤ f.flow)))

/-! Sequence numbers and the resequencers (R165–R171). -/

def sameFlow (flow dest : Nat) (n : FlowNumber) : Bool := n.flow == flow && n.dest == dest

def flowNumber (l : List FlowNumber) (flow dest : Nat) : Nat := ((l.find? (sameFlow flow dest)).map (·.num)).getD 0

def putFlow (l : List FlowNumber) (flow dest num : Nat) : List FlowNumber := ⟨flow, dest, num % 65536⟩ :: l.filter (!sameFlow flow dest ·)

/-- R166: the SEQ of a copy, and the counter after it; none when the flow has four other destinations. -/
def State.takeSeq (s : State) (flow dest : Nat) : Option Nat × State :=
  let known := s.switch.sequences.any (sameFlow flow dest)
  if !known && 4 ≤ (s.switch.sequences.filter (·.flow == flow)).length then
    (none, (s.count SWC_SEQ_OVF.addr).flagFault SWC_STAT.SEQ_OVF 3 1 0x1C flow)
  else
    let n := flowNumber s.switch.sequences flow dest
    (some n, s.onSwitch fun w => { w with sequences := putFlow w.sequences flow dest (n + 1) })

/-- Frames of a flow toward a destination, before and behind the resequencer. -/
def State.flowFrames (s : State) (flow dest : Nat) : Nat :=
  (s.switch.frames.filter fun f => f.ordered && f.flow == flow && f.dest == dest).length

/-- Change one frame. -/
def State.onFrame (s : State) (id : Nat) (f : Frame → Frame) : State :=
  s.onSwitch fun w => { w with frames := setBy Frame.id id f w.frames }

def State.frame? (s : State) (id : Nat) : Option Frame := getBy Frame.id id s.switch.frames

/-- The NET lane and class a frame goes to. -/
def Frame.laneClass (f : Frame) : LaneClass := ⟨f.dest, f.lane, f.cls⟩

/-- Do something that changes what waits on a frame's lane. -/
def State.aroundFrame (s : State) (f : Frame) (g : State → State) : State :=
  if f.dest < 4 then s.aroundCredit f.laneClass g else g s

/-- R155: a frame's cells and descriptor are free. -/
def State.dropFrame (s : State) (f : Frame) : State :=
  (s.aroundFrame f fun s => s.onSwitch fun w => { w with frames := dropBy Frame.id f.id w.frames }).showPools.sendXon

/-- A frame whose SEQ was taken is discarded before it is resequenced: a SKIP takes its place (R169). -/
def Frame.toSkip (f : Frame) : Frame := { f with skip := true, reserve := 0, shared := 0, headroom := 0, chain := [], poison := false }

/-- A frame reaches its destination's queue, behind what waits there; watchdog discard takes it (R162). -/
def State.enqueueFrame (s : State) (f : Frame) : State :=
  if f.skip then s.dropFrame f
  else if f.dest < 4 && s.switch.discarding.contains f.laneClass then ((s.dropFrame f).switchDrop 8).emit (.frame (.discarded f.id))
  else s.aroundFrame f fun s => s.onSwitch fun w => { w with
    frames := dropBy Frame.id f.id w.frames ++ [{ f with stage := .queued, ct := !s.tailWritten f && 4 ≤ f.dest && f.dest != 7 && f.dest != 8 }] }

/-- R168: every held frame that follows in order is released, and E advances past it. -/
def State.releaseHeld (s : State) (dest flow : Nat) : Nat → State
  | 0 => s
  | n + 1 =>
    let e := flowNumber s.switch.expected flow dest
    match s.switch.frames.find? fun f => f.stage == .tracked && f.dest == dest && f.flow == flow && f.seq == e with
    | none => s
    | some f => ((s.enqueueFrame f).onSwitch fun w => { w with expected := putFlow w.expected flow dest (e + 1) }).releaseHeld dest flow n

/-- Flows that hold a tracker of a destination's resequencer. -/
def State.trackerFlows (s : State) (dest : Nat) : List Nat :=
  ((s.switch.frames.filter fun f => f.stage == .tracked && f.dest == dest).map (·.flow)).eraseDups

/-- Table 6.4. -/
def State.classifyFrame (s : State) (f : Frame) : State :=
  let e := flowNumber s.switch.expected f.flow f.dest
  let d := (f.seq + 65536 - e % 65536) % 65536
  if d = 0 then
    ((s.enqueueFrame f).onSwitch fun w => { w with expected := putFlow w.expected f.flow f.dest (e + 1) }).releaseHeld f.dest f.flow 256
  else if d < 256 then
    let flows := s.trackerFlows f.dest
    let free := flows.contains f.flow || flows.length < 4096
    s.onFrame f.id fun x => { x with stage := if free then .tracked else .overflow }
  else (((s.dropFrame f).switchDrop 10).plainFault 3 1 0x1C f.flow).emit (.frame (.discarded f.id))

/-- A NET lane of this frame is store-and-forward (Table 6.8). -/
def State.storeAndForward (s : State) (p : Nat) : Bool := !s.flag SWC_CTL.CT_EN || s.laneRateMb p == 800000

/-- A frame reaches its resequencer. A frame already known bad toward a store-and-forward lane, and one of a class in
watchdog discard, leave a SKIP. -/
def State.reachResequencer (s : State) (f : Frame) : State :=
  if f.skip then s.classifyFrame f
  else if f.dest < 4 && f.poison && s.storeAndForward f.dest then
    let s := ((s.onFrame f.id Frame.toSkip).showPools.sendXon).emit (.frame (.discarded f.id))
    s.classifyFrame f.toSkip
  else if f.dest < 4 && s.switch.discarding.contains f.laneClass then
    let s := (((s.onFrame f.id Frame.toSkip).showPools.sendXon).switchDrop 8).emit (.frame (.discarded f.id))
    s.classifyFrame f.toSkip
  else s.classifyFrame f

/-! Admission. -/

/-- What every copy of an offered frame carries. -/
structure Decision where
  dests : List (Nat × Nat)
  cls : Nat
  ecn : Bool
  epoch : Nat
  counted : Bool
  deriving DecidableEq, Repr

/-- One copy is written: its cells, its SEQ, and its way to the resequencer or the queue. -/
def State.writeCopy (s : State) (f : FrameOffer) (d : Decision) (dest queue : Nat) (c : CellSplit) : State :=
  let (seq, s) := if copyOrdered f dest then s.takeSeq f.flow dest else (none, s)
  let (pick, s) := s.drawMany (cellsOf f.bytes)
  let id := s.switch.nextFrame
  let fr := Frame.mk id f.src f.lane dest queue d.cls f.content (pickCells s.cellsUsed pick (cellsOf f.bytes)) (s.now + f.tail) false
    c.reserve c.shared c.headroom false seq.isSome false d.ecn f.flow (seq.getD 0) d.epoch d.counted (f.kind != .other) f.psn f.copy
    (s.now % 2 ^ 32) .arriving
  let s := (s.onSwitch fun w => { w with frames := w.frames ++ [fr], nextFrame := w.nextFrame + 1 }).count SWC_CELLS_W.addr fr.cells
  let s := if 0 < c.headroom && !s.xoffSent f.src d.cls then
      (s.emit (.frame (.pfc f.src f.lane d.cls true))).onSwitch fun w => { w with xoff := LaneClass.mk f.src f.lane d.cls :: w.xoff }
    else s
  if fr.ordered then s else s.enqueueFrame fr

/-- R164: write every copy, or none: the state with all of them, if each finds its cells. -/
def State.writeCopies (s : State) (f : FrameOffer) (d : Decision) : List (Nat × Nat) → Option State
  | [] => some s
  | (dest, queue) :: l =>
    match s.takeCells f.src d.cls (cellsOf f.bytes) with
    | none => none
    | some c => (s.writeCopy f d dest queue c).writeCopies f d l

/-- R161: whether an ECN-capable packet is marked; the chance is a free number. -/
def State.marksEcn (s : State) (f : FrameOffer) (cls : Nat) : Bool × State :=
  if !(f.ect && f.src < 4) then (false, s) else
  let o := s.sharedUse f.src cls
  let kmin := 16 * s.rd (SWC_ECN.KMIN cls)
  let kmax := 16 * s.rd (SWC_ECN.KMAX cls)
  if o < kmin then (false, s)
  else if kmax ≤ o ∨ kmax ≤ kmin then (true, s)
  else (decide (s.draw.1 % (256 * (kmax - kmin)) < s.rd (SWC_ECN.PMAX cls) * (o - kmin)), s.draw.2)

/-- R21, R163: the destinations of a host write's cells: the DRAM cache, the member, the parity engine, and in write-back mode
the link. -/
def State.hostWriteDests (s : State) (nsid slot : Nat) : List (Nat × Nat) :=
  match s.namespace nsid with
  | some ns => [(10, 0), (7, slot), (6, ns.set)] ++ (if ns.writeBack then [(9, ns.group)] else [])
  | none => []

/-- The destinations and class of an offer: by the table, or as its engine names them. PTP messages that a port originates go to
the port itself, in class 7; CNPs have the class of QPC_CNP (R147, R183). -/
def State.decide (s : State) (f : FrameOffer) : Except Bool Decision :=
  let real := fun l : List (Nat × Nat) => l.filter (·.1 < 12)
  if f.kind = .ptp && f.src < 4 then .ok ⟨[(f.src, f.lane)], 7, false, f.epoch, false⟩
  else if tableForwards f.src then
    match s.forwarding f with
    | .error counted => .error counted
    | .ok (l, c) => .ok ⟨real l, c, false, s.rd SWC_EPOCH.CUR, true⟩
  else
    let named := match f.hostWrite with | some (nsid, slot) => s.hostWriteDests nsid slot | none => f.dests
    let cls := if f.kind = .cnp then s.rd QPC_CNP.CLASS else f.cls % 8
    .ok ⟨(real named).take 8, cls, false, f.epoch, false⟩

/-- R167: with its copies the flow would have more than 256 frames inside toward one of the destinations. -/
def State.flowFull (s : State) (f : FrameOffer) (d : Decision) : Bool :=
  d.dests.any fun x => copyOrdered f x.1 && Decidable.decide (256 < s.flowFrames f.flow x.1 + (d.dests.filter (·.1 == x.1)).length)

/-- Try to take an offer in: none when it must wait at its writer. -/
def State.tryAdmit (s : State) (f : FrameOffer) (d : Decision) : Option State :=
  if d.dests.isEmpty then some s
  else if s.flowFull f d then none
  else (s.writeCopies f d d.dests).map State.showPools

/-- A frame of a NET port that finds no cell (R159, R160). -/
def State.refuseFrame (s : State) (f : FrameOffer) (cls : Nat) : State :=
  if s.flag (SWC_PFC.LOSSLESS f.src cls) then (s.switchDrop 6).flagFault SWC_STAT.HDRM_EXH 3 1 0x1C f.src else s.switchDrop 5

/-- R156–R164, R172, R173: a frame at its first cell. -/
def State.admitFrame (s : State) (f : FrameOffer) : State :=
  if f.bytes = 0 ∨ 33024 < f.bytes ∨ 11 < f.src then s else
  let s := if f.src < 4 then
      ((s.event 0x01 (8 * f.src + f.lane) f.bytes).moved 0 (8 * f.src + f.lane) false f.bytes).moved 1 f.src false f.bytes
    else s
  match s.decide f with
  | .error counted => if counted then s.switchDrop 7 else s
  | .ok d =>
    let blocked := s.switch.waiting.any fun w => w.src == f.src && w.flow == f.flow
    let m := s.marksEcn f d.cls
    match if blocked then none else m.2.tryAdmit f { d with ecn := m.1 } with
    | some t => if m.1 && !d.dests.isEmpty then t.count SWC_ECN_MARK.addr else t
    | none => if f.src < 4 then s.refuseFrame f d.cls else s.onSwitch fun w => { w with waiting := w.waiting ++ [f] }

/-- Frames that wait at their writers are offered again, oldest first; later frames of a writer's flow stay behind one that
still waits. In the boundary window those that the table forwards wait on (R42, R174). -/
def State.retryWaiting (s : State) : State :=
  let kept := fun f : FrameOffer => s.clock.windowOpen && tableForwards f.src
  let l := s.switch.waiting
  let s := s.onSwitch fun w => { w with waiting := [] }
  s.each l fun f s => if kept f then s.onSwitch fun w => { w with waiting := w.waiting ++ [f] } else s.admitFrame f

/-- R174: the frames of the epoch before CUR are gone. -/
def State.oldEpochGone (s : State) : Bool :=
  !s.switch.frames.any fun f => f.counted && f.epoch == (s.rd SWC_EPOCH.CUR + 65535) % 65536

end Sys2Proof.Machine
end

