-- ==== Sys2Proof/Machine/Switch.lean ====
section
/-! DEFINITION. Switch core rows: admission, read, resequencing, pause and watchdog, the forwarding table and its epochs (chapter
Switch Core and Shared Buffer). -/

set_option Elab.async false

namespace Sys2Proof.Machine

/-- R42: an event that meets the boundary window is held until it ends. -/
def State.orHold (s : State) (i : Instr) (f : State → State) : State :=
  if s.clock.windowOpen then s.onClock fun c => { c with held := c.held ++ [i] } else f s

def execFrameAdmission (f : FrameOffer) (s : State) : Host.Outcome State Fault Refusal :=
  onSoc s fun s => if tableForwards f.src then s.orHold (.frameAdmission f) (·.admitFrame f) else s.admitFrame f

/-! Reading (R155, R175–R178). -/

/-- A frame leaves on its NET lane and is counted there (R180). -/
def State.leavesLane (s : State) (f : Frame) : State :=
  ((s.event 0x02 (8 * f.dest + f.lane) f.bytes).moved 0 (8 * f.dest + f.lane) true f.bytes).moved 1 f.dest true f.bytes

/-- One byte into a CRC-32, eight bits from the lowest on. -/
def crcBits : Nat → Word → Word
  | 0, c => c
  | n + 1, c => crcBits n (if c.getLsbD 0 then (c >>> 1) ^^^ 0xEDB88320 else c >>> 1)

/-- R176: the CRC-32 of an Ethernet frame's bytes (log 165). -/
def crc32 (bs : Bytes) : Word := ~~~(bs.foldl (fun c b => crcBits 8 (c ^^^ b.setWidth 32)) 0xFFFFFFFF)

/-- R178: the flow engine discards the cells it retains for an RDMA WRITE packet that was stomped. -/
def State.discardRetained (s : State) (f : Frame) : State :=
  match f.qp, f.psn with
  | some q, some p => s.onRdma fun r => { r with discarded := (q, p) :: r.discarded.filter (· != (q, p)) }
  | _, _ => s

/-- R177: the writer of a copy toward a drive port or the direct port makes it again: a strip from the held DRAM copy, another
engine's frame from its source. What the forwarding table sent came from outside, and its sender is told. -/
def State.copyAgain (s : State) (f : Frame) : State :=
  if tableForwards f.src then s
  else s.admitFrame { src := if f.dest = 7 then 10 else f.src, lane := 0, content := f.content, tail := 0, etype := 0, udp := 0,
                      dscp := 0, ect := false, kind := .other, dests := [(f.dest, f.queue)], hostWrite := none, cls := f.cls,
                      flow := f.flow, ordered := false, epoch := f.epoch, psn := none, copy := none }

/-- R312: a mirror copy went poisoned: it is not counted in its measure's marker, and waits to be sent again from its held copy, in
the measure that is then current. -/
def State.mirrorAgain (s : State) (id : Nat) : State :=
  match s.store.copies.find? (·.id == id) with
  | none => s
  | some c =>
    match c.meas with
    | none => s
    | some n =>
      if c.durable || !(s.link.mirrorSlots.any (·.copy == id)) then s else
      let slot := (s.link.mirrorSlots.find? (·.copy == id)).map (·.slot)
      let less := fun t : TxMeasure => if t.meas = n then
        { t with frames := t.frames.map fun f => if f.1 = c.group then (f.1, f.2.1 - 1, f.2.2 - 4112) else f } else t
      let bad := fun f : LinkFrame =>
        if f.type == .mirror && f.meas == n && f.win == c.group && slot == some (f.offset / 4112) then { f with poison := true } else f
      (s.onLink fun l => { l with
        txMeasures := l.txMeasures.map less
        retained := l.retained.map bad
        mirrorSlots := l.mirrorSlots.filter (·.copy != id)
        waiting := id :: l.waiting.filter (· != id) }).onStore fun x => { x with
          copies := setBy HeldCopy.id id (fun c => { c with meas := none }) x.copies }

/-- Table 6.8: a frame with a bad cell. -/
def State.badFrame (s : State) (f : Frame) : State :=
  if f.dest < 4 then
    if s.storeAndForward f.dest then s.emit (.frame (.discarded f.id))
    else
      let sent := f.content.take (f.bytes - 4)
      (((s.leavesLane f).count SWC_STOMP.addr).emit (.frame (.stomped f.id sent (~~~(crc32 sent))))).discardRetained f
  else if f.dest = 9 then
    let s := s.emit (.frame (.poisoned f.id f.dest))
    match f.copy with
    | some id => s.mirrorAgain id
    | none => s
  else if f.dest = 7 ∨ f.dest = 8 then s.emit (.frame (.again f.id f.src))
  else
    let s := (s.switchDrop 3).emit (.frame (.poisoned f.id f.dest))
    if f.dest = 4 && f.src < 4 then s.count QPC_DROP.addr else s

/-- R153: the longest wait of a read, in BUF cycles. -/
def State.noteWait (s : State) (wait : Nat) : State := s.wr SWC_BANK_WAIT_MAX.WAIT (max (s.rd SWC_BANK_WAIT_MAX.WAIT) wait)

/-- R155: a destination has read the last cell of a frame, the longest of its reads after `wait` cycles. -/
def State.readFrame (s : State) (f : Frame) (bad : Option BadTail) (wait : Nat) : State :=
  let s := (s.noteWait wait).count SWC_CELLS_R.addr f.cells
  let s := if bad = some .underrun then s.count SWC_UNDERRUN.addr else s
  let s := if f.poison || bad.isSome then s.badFrame f
    else (if f.dest < 4 then s.leavesLane f else s).emit (.frame (.delivered f.id f.dest f.queue f.content f.ecn))
  let s := s.dropFrame f
  (if (f.poison || bad.isSome) && (f.dest == 7 || f.dest == 8) then s.copyAgain f else s).retryWaiting

/-- A frame is read from its queue, or on the NET lane where it was started; its last cell is written by then, but for an
underrun. -/
def execFrameReadComplete (frame : Nat) (bad : Option BadTail) (wait : Nat) (s : State) : Host.Outcome State Fault Refusal :=
  onSoc s fun s =>
    match s.frame? frame with
    | some f =>
      if f.stage == (if f.dest < 4 then .sending else .queued) && (s.tailWritten f || bad == some .underrun) then s.readFrame f bad wait else s
    | none => s

def execResequencerArrival (frame : Nat) (s : State) : Host.Outcome State Fault Refusal :=
  onSoc s fun s =>
    match s.frame? frame with
    | some f => if f.ordered && f.stage == .arriving then (s.reachResequencer f).retryWaiting else s
    | none => s

/-- R170: E advances to the lowest held number. -/
def execResequencerTimeout (dest flow : Nat) (s : State) : Host.Outcome State Fault Refusal :=
  onSoc s fun s =>
    let e := flowNumber s.switch.expected flow dest
    let held := (s.switch.frames.filter fun f => f.stage == .tracked && f.dest == dest && f.flow == flow).map
      fun f => (f.seq + 65536 - e % 65536) % 65536
    match held.min? with
    | none => s
    | some d =>
      let s := (s.count SWC_RSQ_TMO.addr d).onSwitch fun w => { w with expected := putFlow w.expected flow dest (e + d) }
      ((s.plainFault 3 1 0x1C flow).releaseHeld dest flow 256).retryWaiting

/-- R171: a frame of the overflow list is classified again. -/
def execTrackerFree (dest : Nat) (s : State) : Host.Outcome State Fault Refusal :=
  onSoc s fun s =>
    match s.switch.frames.find? fun f => f.stage == .overflow && f.dest == dest with
    | some f => if (s.trackerFlows dest).length < 4096 then (s.classifyFrame f).retryWaiting else s
    | none => s

/-! Pause (R162, R186). -/

/-- The number of a lane's class as a source of events. -/
def pauseSource (a : LaneClass) : Nat := 8 * (8 * a.port + a.lane) + a.cls

/-- R186: XOFF holds the class for `quanta` times 512 bit times at the lane rate; 0 is XON. -/
def execPfcPauseReceived (port lane cls quanta : Nat) (s : State) : Host.Outcome State Fault Refusal :=
  onSoc s fun s =>
    if 4 ≤ port ∨ s.cfg.lanes.getD port 1 ≤ lane ∨ 8 ≤ cls then s else
    let a := LaneClass.mk port lane cls
    let old := s.switch.pauses.find? (·.at_ == a)
    s.aroundCredit a fun s =>
      let rest := s.switch.pauses.filter (·.at_ != a)
      if quanta = 0 then s.onSwitch fun w => { w with pauses := rest }
      else
        let ns := (quanta * 512000 + s.laneRateMb port - 1) / s.laneRateMb port
        let held := old.filter fun p => s.now < p.until_
        let p := Pause.mk a (s.now + ns) ((held.map (·.since)).getD s.now)
        (s.onSwitch fun w => { w with
          pauses := rest ++ [p]
          lastPause := (a, s.now) :: w.lastPause.filter (·.1 != a) }).began held.isSome 0x03 (pauseSource a)

def execPauseExpiry (port lane cls : Nat) (s : State) : Host.Outcome State Fault Refusal :=
  onSoc s fun s =>
    let a := LaneClass.mk port lane cls
    if s.switch.pauses.any fun p => p.at_ == a && p.until_ ≤ s.now then
      s.aroundCredit a fun s => s.onSwitch fun w => { w with pauses := w.pauses.filter (·.at_ != a) }
    else s

/-- R162: a class that a pause holds, and has held for SWC_PFCWD.TIME without a break, begins watchdog discard; what it has queued
goes. -/
def execPfcWatchdogExpiry (port lane cls : Nat) (s : State) : Host.Outcome State Fault Refusal :=
  onSoc s fun s =>
    let a := LaneClass.mk port lane cls
    let due := s.switch.pauses.any fun p => p.at_ == a && p.since + 1000000 * s.rd SWC_PFCWD.TIME ≤ min s.now p.until_
    if !due || s.switch.discarding.contains a then s else
    let s := (s.onSwitch fun w => { w with discarding := w.discarding ++ [a] }).flagFault SWC_STAT.WD 3 1 0x1C (pauseSource a)
    (s.each (s.switch.frames.filter fun f => f.on a && f.stage == .queued) fun f s =>
      ((s.dropFrame f).switchDrop 8).emit (.frame (.discarded f.id))).retryWaiting

/-- R162: watchdog discard ends when no pause has been received for the class for SWC_PFCWD.TIME. -/
def execPfcWatchdogEnd (port lane cls : Nat) (s : State) : Host.Outcome State Fault Refusal :=
  onSoc s fun s =>
    let a := LaneClass.mk port lane cls
    let last := ((s.switch.lastPause.find? (·.1 == a)).map (·.2)).getD 0
    if s.now < last + 1000000 * s.rd SWC_PFCWD.TIME then s else s.onSwitch fun w => { w with discarding := w.discarding.filter (· != a) }

/-! The forwarding table and its epochs (R174). -/

def State.armEpoch (s : State) (target : Nat) : State :=
  if s.flag SWC_EPOCH.DRAIN_PEND then s.wr SWC_STAT.FT_BUSY 1
  else if target ≤ s.measure then (s.wr SWC_EPOCH.ARMED 0).missedTarget target
  else (s.wr SWC_EPOCH.ARMED 1).onSwitch fun w => { w with epochTarget := target }

def execEpochArm (who : Requester) (value : Word) (s : State) : Host.Outcome State Fault Refusal :=
  onSoc s fun s => s.orHold (.epochArm who value) fun s => s.commandWrite who (SWC_EPOCH_TGT.addr + 4) value fun s =>
    (s.wr ⟨SWC_EPOCH_TGT.addr, 63, 32⟩ value.toNat).armEpoch (s.pairRequest who SWC_EPOCH_TGT.addr value).toNat

/-- The DATA registers as an entry, and an entry into them. -/
def State.ftData (s : State) : Bytes := s.getWords (SWC_FT_DATA.addr 0) 4
def State.showEntry (s : State) (e : Bytes) : State := s.setWords (SWC_FT_DATA.addr 0) 4 e

def State.ftWriteShadow (s : State) : State :=
  if s.flag SWC_EPOCH.DRAIN_PEND then s.wr SWC_STAT.FT_BUSY 1
  else s.onSwitch fun w => { w with shadow := putEntry w.shadow (s.rd SWC_FT_CMD.IDX) s.ftData }

/-- The three operations of SWC_FT_CMD. -/
def State.ftCommand (s : State) (op : Nat) : State :=
  if op = 1 then s.ftWriteShadow
  else if op = 2 then s.showEntry (entryAt s.switch.active (s.rd SWC_FT_CMD.IDX))
  else if op = 3 then s.showEntry (entryAt s.switch.shadow (s.rd SWC_FT_CMD.IDX))
  else s

/-- A write of SWC_FT_CMD with an operation and an index. -/
def State.ftWrite (s : State) (who : Requester) (op idx : Nat) : State :=
  s.commandWrite who SWC_FT_CMD.addr (BitVec.ofNat 32 (op * 65536 + idx % 1024)) fun s => s.ftCommand op

def execFtWriteShadow (who : Requester) (idx : Nat) (s : State) : Host.Outcome State Fault Refusal :=
  onSoc s fun s => s.orHold (.ftWriteShadow who idx) fun s => s.ftWrite who 1 idx

def execFtReadActive (who : Requester) (idx : Nat) (s : State) : Host.Outcome State Fault Refusal :=
  onSoc s fun s => s.orHold (.ftReadActive who idx) fun s => s.ftWrite who 2 idx

def execFtReadShadow (who : Requester) (idx : Nat) (s : State) : Host.Outcome State Fault Refusal :=
  onSoc s fun s => s.orHold (.ftReadShadow who idx) fun s => s.ftWrite who 3 idx

/-- Step 5 of Table 2.6: an armed advance takes place. -/
def State.advanceEpoch (s : State) (n : Nat) : State :=
  if s.flag SWC_EPOCH.ARMED && s.switch.epochTarget ≤ n then
    (s.wrs [(SWC_EPOCH.ARMED, 0), (SWC_EPOCH.DRAIN_PEND, 1), (SWC_EPOCH.CUR, (s.rd SWC_EPOCH.CUR + 1) % 65536)]).onSwitch
      fun w => { w with active := w.shadow, shadow := w.active }
  else s

/-- The last frame of the old epoch has left. -/
def execEpochDrained (s : State) : Host.Outcome State Fault Refusal :=
  onSoc s fun s =>
    if s.flag SWC_EPOCH.DRAIN_PEND && s.oldEpochGone then
      (s.wrs [(SWC_EPOCH.DRAIN_PEND, 0), (SWC_STAT.DRAINED, 1)]).onSwitch fun w => { w with shadow := w.active }
    else s

/-! RWM changes (R10). -/

/-- A reserve or headroom takes effect only if the shared pool can give the cells up; false leaves the old value. -/
def State.poolFits (s : State) (f : Fld) (v : Nat) : Bool :=
  (s.wr f v).keptCells + s.cellSum (fun _ => true) (·.shared) ≤ 524288

/-- The address is a reserve or a headroom. -/
def isPoolRegister (addr : Nat) : Bool :=
  (SWC_ATT_MIN.addr 0 ≤ addr && addr < SWC_ATT_MIN.addr 12 && (addr - SWC_ATT_MIN.addr 0) % 8 == 0) ||
  (SWC_HDRM.addr 0 0 ≤ addr && addr < SWC_HDRM.addr 4 0)

end Sys2Proof.Machine
end

