-- ==== Sys2Proof/Machine/Gates.lean ====
section
/-! DEFINITION. Egress arbiter, gate list and calendar wheel rows (chapter Time Gates and Shapers). -/

set_option Elab.async false

namespace Sys2Proof.Machine

/-! Deficit round robin (R183, R185). -/

/-- One contender: who, its quantum at the next visit and at those of later rounds, whether the next visit is in a later round,
the bytes of the frame it would send, its deficit. -/
structure Contender where
  who : Nat
  quantum : Nat
  later : Nat
  again : Bool
  need : Nat
  deficit : Nat
  deriving DecidableEq, Repr

/-- Serve the first contender whose deficit covers its frame; each contender visited gets its quantum, the first only if it
has not had it. The winner at the head, and every contender with its deficit. -/
def serveRound : Nat → Bool → List Contender → Option (Nat × List Contender)
  | 0, _, _ => none
  | _ + 1, _, [] => none
  | n + 1, paid, c :: l =>
    let d := if paid then c.deficit else c.deficit + c.quantum
    if c.need ≤ d then some (c.who, { c with deficit := d } :: l) else serveRound n false (l ++ [{ c with deficit := d, quantum := c.later, again := true }])

/-- Contenders in the order of their turns: from the one whose turn it is, in rising order and around. -/
def fromTurn (turn : Nat) (l : List Contender) : List Contender :=
  l.filter (turn ≤ ·.who) ++ (l.filter (·.who < turn)).map fun c => { c with quantum := c.later, again := true }

/-- Visits that are enough for a winner: a frame of 33,024 bytes needs at most 129 quanta of 256 bytes, in rounds of the later
quanta. -/
def enoughVisits (l : List Contender) : Nat := 131 * (l.length + 1)

def Deficit.is (a : LaneClass) (group who : Nat) (d : Deficit) : Bool := d.at_ == a && d.group == group && d.who == who

def State.deficit (s : State) (a : LaneClass) (group who : Nat) : Nat :=
  ((s.gates.deficits.find? (Deficit.is a group who)).map (·.bytes)).getD 0

def State.turn (s : State) (a : LaneClass) (group : Nat) (isGroup : Bool) : Option Turn :=
  s.gates.turns.find? fun t => t.at_ == a && t.isGroup == isGroup && (isGroup || t.group == group)

/-- The round among some contenders: of the groups of a class, or of the queue pairs of a group. -/
def State.round (s : State) (a : LaneClass) (group : Nat) (isGroup : Bool) (l : List Contender) : Option (Nat × List Contender) :=
  match s.turn a group isGroup with
  | none => serveRound (enoughVisits l) false (l.map fun c => { c with quantum := c.later, again := true })
  | some t =>
    let ordered := fromTurn t.turn l
    serveRound (enoughVisits l) (t.paid && (ordered.head?.map (·.who)) == some t.turn) ordered

/-- Keep what a round did, once its winner starts a frame of `bytes` bytes. -/
def State.keepRound (s : State) (a : LaneClass) (group : Nat) (isGroup : Bool) (winner bytes : Nat) (l : List Contender) : State :=
  let deficitOf := fun c : Contender =>
    Deficit.mk a (if isGroup then c.who else group) (if isGroup then 0 else c.who + 1) (c.deficit - (if c.who = winner then bytes else 0))
  let mine := fun d : Deficit => d.at_ == a && (if isGroup then d.who == 0 else d.group == group && d.who != 0)
  let turn := Turn.mk a group isGroup winner true
  s.onGates fun g => { g with
    deficits := g.deficits.filter (!mine ·) ++ l.map deficitOf
    turns := g.turns.filter (fun t => !(t.at_ == a && t.isGroup == isGroup && (isGroup || t.group == group))) ++ [turn] }

/-! Levels 2 and 3. -/

/-- R183: the tenant group a frame waits in; 63 for frames of no queue pair. -/
def State.frameGroup (s : State) (f : Frame) : Nat :=
  match f.qp with | some q => s.ctx q Ctx.TGRP | none => 63

/-- The queue within its group: a queue pair's, or the one queue of group 63. -/
def Frame.member (f : Frame) : Nat := f.qp.getD 0

/-- The place of its queue among those of a class. -/
def Frame.place (f : Frame) : Nat := match f.qp with | some q => q + 1 | none => 0

/-- R183: heads of the queue pairs of a class that may send, in rising order. -/
def State.heads (s : State) (a : LaneClass) (skip : List Nat) : List Frame :=
  let l := s.switch.frames.filter fun f => f.on a && f.stage == .queued && !f.priority && !skip.contains f.id
  let first := fun f : Frame => (l.find? fun g => g.qp == f.qp).map (·.id) == some f.id
  let permits := fun f : Frame => match f.qp with | some q => s.bucketPermits q | none => true
  (l.filter fun f => first f && permits f).foldl (fun r f => putBy Frame.place f r) []

/-- The frame that a group would send, with what its round does. -/
structure GroupChoice where
  group : Nat
  frame : Frame
  queues : List Contender
  deriving DecidableEq, Repr

def State.groupChoice (s : State) (a : LaneClass) (heads : List Frame) (g : Nat) : Option GroupChoice :=
  let l := heads.filter fun f => s.frameGroup f == g
  match s.round a g false (l.map fun f => ⟨f.member, 4096, 4096, false, f.bytes, s.deficit a g (f.member + 1)⟩) with
  | none => none
  | some (who, queues) => (l.find? fun f => f.member == who).map fun f => ⟨g, f, queues⟩

/-- R185: a group's quantum: its effective weight × 256. -/
def State.groupQuantum (s : State) (p g n : Nat) (leaf : Bool) : Nat := s.rd (NET_TGW.WEIGHT p g) * (if leaf then n else 1) * 256

/-- The frame chosen for a class, and what starting it keeps. -/
structure Choice where
  frame : Frame
  keep : State → State

/-- R185: the eligible queue pairs of a group as counted at the start of the class's group round. -/
def State.roundCount (s : State) (a : LaneClass) (g : Nat) : Nat :=
  ((((s.gates.counts.find? (·.1 == a)).map (·.2)).getD []).find? (·.1 == g)).elim 0 (·.2)

/-- A group round starts with these counts. -/
def State.startRound (s : State) (a : LaneClass) (counts : List (Nat × Nat)) : State :=
  s.onGates fun x => { x with counts := (a, counts) :: x.counts.filter (·.1 != a) }

/-- Deficit round robin among the groups; a group that is visited in a later round than the present one has the quantum of that
round's count. -/
def State.chooseGroup (s : State) (a : LaneClass) (heads : List Frame) (leaf : Bool) : Option Choice :=
  let groups := (List.range 64).filter fun g => heads.any fun f => s.frameGroup f == g
  let choices := groups.filterMap (s.groupChoice a heads)
  let count := fun g : Nat => (heads.filter fun f => s.frameGroup f == g).length
  match s.round a 0 true (choices.map fun c => ⟨c.group, s.groupQuantum a.port c.group (s.roundCount a c.group) leaf,
      s.groupQuantum a.port c.group (count c.group) leaf, false, c.frame.bytes, s.deficit a c.group 0⟩) with
  | none => none
  | some (g, l) =>
    let fresh := (l.head?.map (·.again)).getD false
    (choices.find? fun c => c.group == g).map fun c =>
      ⟨c.frame, fun s =>
        let s := if fresh then s.startRound a (groups.map fun g => (g, count g)) else s
        (s.keepRound a 0 true g c.frame.bytes l).keepRound a g false c.frame.member c.frame.bytes c.queues⟩

/-- R197: the slot in force. -/
def State.wheelSlot (s : State) (p : Nat) : Nat :=
  (s.now - byPort s.gates.wheelStart p) / s.rd (NET_WHEEL.SLOT_NS p) % (s.rd (NET_WHEEL.LEN p) + 1)

/-- R183, R197: the frame chosen for a class: the priority queue, then the wheel's group, or the groups by their weights. -/
def State.chooseFrame (s : State) (a : LaneClass) (skip : List Nat) : Option Choice :=
  match s.switch.frames.find? fun f => f.on a && f.stage == .queued && f.priority && !skip.contains f.id with
  | some f => some ⟨f, fun s => s⟩
  | none =>
    let heads := s.heads a skip
    if !s.flag (NET_WHEEL.EN a.port) then s.chooseGroup a heads (s.flag (NET_ARB.LEAF a.port))
    else
      match s.groupChoice a heads (s.rd (NET_WHL.GROUP a.port (s.wheelSlot a.port))) with
      | some c => some ⟨c.frame, fun s => s.keepRound a c.group false c.frame.member c.frame.bytes c.queues⟩
      | none => if s.flag (NET_WHEEL.FILL a.port) then s.chooseGroup a heads false else none

/-! Starting a frame (R181, R182, R189, R190, R195). -/

/-- R189: bytes that the fit of a frame is judged by: GMAXF while its tail is not written. -/
def State.fitBytes (s : State) (f : Frame) : Nat := if s.tailWritten f then f.bytes else s.rd (NET_GMAXF.BYTES f.dest)

/-- R190: a frame that is longer than every open span is discarded. -/
def State.discardOversize (s : State) (f : Frame) : State :=
  (((s.dropFrame f).count (NET_OVERSIZE.addr f.dest)).flagFault (NET_GSTAT.OVERSIZE f.dest) 3 1 (0x10 + f.dest)).emit (.frame (.discarded f.id))

/-- R189, R195: the frame ends before its class closes. -/
def State.fits (s : State) (a : LaneClass) (bytes : Nat) : Bool :=
  fitsSpan bytes (s.laneRateMb a.port) (s.openSpan a.port a.cls) && fitsSpan bytes (s.laneRateMb a.port) (s.armedClose a.port a.cls)

/-- The chosen frame leaves. -/
def State.startFrame (s : State) (a : LaneClass) (c : Choice) : State :=
  let f := c.frame
  let s := s.settleCredit a
  let s := match f.qp with | some q => if f.priority then s else s.takeTokens q f.bytes | none => s
  ((c.keep s).onFrame f.id fun x => { x with stage := .sending, ct := !s.tailWritten f }).emit (.frame (.start f.id a.port a.lane a.cls))

/-- A frame that waits for its gate holds the open class idle. -/
def State.holdIdle (s : State) (a : LaneClass) (was : Bool) : State :=
  (s.onGates fun g => { g with guards := g.guards ++ [(a, s.now)] }).began was 0x04 (pauseSource a)

/-- One class after another, from class `n − 1` down: the first that is eligible serves. `held` are the classes that waiting
frames held idle before. -/
def State.serveClasses (s : State) (p l : Nat) (skip : List Nat) (held : List LaneClass) : Nat → State
  | 0 => s
  | n + 1 =>
    let a := LaneClass.mk p l n
    if !bitOf (s.openGates p) n || s.paused a || !s.creditPermits a then s.serveClasses p l skip held n else
    match s.chooseFrame a skip with
    | none => s.serveClasses p l skip held n
    | some c =>
      if s.fits a (s.fitBytes c.frame) then s.startFrame a c
      else (s.holdIdle a (held.contains a)).serveClasses p l skip held n

/-- A frame is the head of its queue: the class's priority queue, or that of its queue pair. -/
def State.isHead (s : State) (f : Frame) : Bool :=
  (s.switch.frames.find? fun g => g.on f.laneClass && g.stage == .queued && g.priority == f.priority && (f.priority || g.qp == f.qp)).map (·.id) ==
    some f.id

/-- R190: frames at the head of a class that can never start go first. -/
def State.dropOversize (s : State) (p l : Nat) : State :=
  s.each (s.switch.frames.filter fun f => f.dest == p && f.lane == l && f.stage == .queued && s.tailWritten f) fun f s =>
    if fitsSpan f.bytes (s.laneRateMb p) (s.longestSpan p f.cls) || !s.isHead f then s else s.discardOversize f

/-- R182: the lane picks a frame. On a store-and-forward lane a frame whose tail is not written is not there to pick. -/
def State.laneStart (s : State) (p l : Nat) : State :=
  if 4 ≤ p ∨ s.cfg.lanes.getD p 1 ≤ l then s else
  if s.laneSends p l then s else
  let held := (s.gates.guards.filter fun g => g.1.port == p && g.1.lane == l).map (·.1)
  let s := (s.settleGuards p l).dropOversize p l
  let unwritten := (s.switch.frames.filter fun f => !s.tailWritten f).map (·.id)
  s.serveClasses p l (if s.storeAndForward p then unwritten else []) held 8

def execLaneFrameStart (port lane : Nat) (s : State) : Host.Outcome State Fault Refusal :=
  onSoc s fun s => s.orHold (.laneFrameStart port lane) fun s => (s.laneStart port lane).retryWaiting

/-- R188: the position enters the next entry. -/
def execGateEntryChange (port : Nat) (s : State) : Host.Outcome State Fault Refusal :=
  onSoc s fun s => if 4 ≤ port then s else s.orHold (.gateEntryChange port) fun s => s.showGates port

/-! Switchover (R193–R195). -/

def State.armGates (s : State) (p target : Nat) : State :=
  if target ≤ s.measure then (s.wrs [(NET_GSTAT.ARMED p, 0), (NET_GSTAT.MISSED p, 1)]).missedTarget target
  else (s.wr (NET_GSTAT.ARMED p) 1).onGates fun g => { g with targets := (p, target) :: g.targets.filter (·.1 != p) }

def execGateSwitchoverArm (who : Requester) (port : Nat) (value : Word) (s : State) : Host.Outcome State Fault Refusal :=
  onSoc s fun s =>
    if 4 ≤ port then s else
    s.orHold (.gateSwitchoverArm who port value) fun s => s.commandWrite who (NET_GTGT.addr port + 4) value fun s =>
      (s.wr ⟨NET_GTGT.addr port, 63, 32⟩ value.toNat).armGates port (s.pairRequest who (NET_GTGT.addr port) value).toNat

/-- Step 6 of Table 2.6 for one port: the shadow list and cycle become active as they stand; `t` is the boundary's instant. -/
def State.switchGates (s : State) (n t p : Nat) : State :=
  if !(s.flag (NET_GSTAT.ARMED p) && byPort s.gates.targets p ≤ n) then s else
  let s := s.each (s.portClasses p) fun a s => s.settleCredit a
  let s := s.each (List.range 256) fun i s =>
    s.wrs [(NET_GCL_A0.GATES p i, s.rd (NET_GCL_S0.GATES p i)), (NET_GCL_A1.INTERVAL p i, s.rd (NET_GCL_S1.INTERVAL p i))]
  let s := (s.wrs [(NET_GCYCLE_ACT.NS p, s.rd (NET_GCYCLE.NS p)), (NET_GSTAT.ARMED p, 0)]).count (NET_SWITCHES.addr p)
  s.onGates fun g => { g with start := (p, t) :: g.start.filter (·.1 != p) }

/-- R191: after a forward step, frames under way whose gate the new position shows closed are counted. -/
def State.countOverruns (s : State) : State :=
  s.each (s.switch.frames.filter fun f => f.dest < 4 && f.stage == .sending) fun f s =>
    if bitOf (s.openGates f.dest) f.cls then s else s.count (NET_OVERRUN.addr f.dest)

/-! Calendar wheel (R197). -/

/-- The next slot is in force: every lane of the port that sends nothing picks a frame anew. -/
def execWheelSlotChange (port : Nat) (s : State) : Host.Outcome State Fault Refusal :=
  onSoc s fun s =>
    if port < 4 && s.flag (NET_WHEEL.EN port) then s.orHold (.wheelSlotChange port) fun s =>
      (s.each (List.range (s.cfg.lanes.getD port 1)) fun l s => s.laneStart port l).retryWaiting
    else s

/-- EN of the wheel becomes 1 at a boundary. -/
def State.startWheel (s : State) (p t : Nat) : State :=
  s.onGates fun g => { g with wheelStart := (p, t) :: g.wheelStart.filter (·.1 != p) }

end Sys2Proof.Machine
end

