-- ==== Sys2Proof/Machine/Ladder.lean ====
section
/-! DEFINITION. The recovery ladder (R562–R566): taking steps 3 and 4, the watchdog, the latch, and what start-up decides. -/

set_option Elab.async false

namespace Sys2Proof.Machine

/-- The groups led that a healthy peer is ready to take (R339). -/
def State.handable (s : State) : List Nat := (List.range 8).filter fun g => s.leads g && s.peerReady g

/-- Step 3: the leads go to the peer first where asked and possible; the module resets when no hand-over runs. -/
def State.takeStep3 (s : State) (handFirst : Bool) : State :=
  let s := s.noteStep 3
  let gs := if handFirst then s.handable else []
  if gs.isEmpty then s.moduleReset
  else (s.each gs fun g s => s.startHandOver g false).onFlt fun x => { x with afterHandOver := true }

/-- Step 4, asked of the Wallflower (R500). -/
def State.takeStep4 (s : State) : State := (s.noteStep 4).selfCycle

/-- What waits for a boundary: a step 3 whose hand-overs have ended, and the step 3 of a fenced module (R330). -/
def State.ladderAtBoundary (s : State) : State :=
  if s.flt.afterHandOver && !(s.token.groups.any (·.role == .handing)) then s.moduleReset
  else if s.lostModule && !s.flt.afterHandOver then s.takeStep3 false
  else s

/-! The watchdog (R564). -/

def execWatchdogRestart (who : Requester) (value : Word) (s : State) : Host.Outcome State Fault Refusal :=
  onSoc s fun s => s.commandWrite who FLT_WDOG.addr value fun s =>
    if value = 0xA5#32 then s.onFlt fun x => { x with watchdogAt := s.now } else s

def execWatchdogExpiry (s : State) : Host.Outcome State Fault Refusal :=
  onSoc s fun s =>
    let period := s.rd FLT_CFG.WDOG
    if period = 0 || !s.gridRuns || s.now < s.flt.watchdogAt + 1000000 * period then s else
    let s := s.count FLT_WDOG_EXP.addr
    (s.fault { cls := 7, code := 0x82, severity := 4, source := 9, data := (s.reg FLT_CFG.addr).toNat, dataOff := 4 }).takeStep3 false

/-! FLT_CMD (Table 23.16). -/

def fltWord (op : Nat) : Word := BitVec.ofNat 32 (op * 65536)

/-- A ladder command: ignored while one runs, refused while parked. -/
def State.ladderCommand (s : State) (who : Requester) (op : Nat) (act : State → State) : State :=
  s.commandWrite who FLT_CMD.addr (fltWord op) fun s =>
    if s.flag FLT_CMD.BUSY then s
    else if s.flag FLT_STAT.PARKED then s.wr FLT_CMD.STATUS 2
    else act (s.wr FLT_CMD.STATUS 0)

def execFltStep3Handover (who : Requester) (s : State) : Host.Outcome State Fault Refusal :=
  onData s fun s => s.ladderCommand who 1 fun s =>
    let t := s.takeStep3 true
    if t.flt.afterHandOver then t.wr FLT_CMD.BUSY 1 else t

def execFltStep3 (who : Requester) (s : State) : Host.Outcome State Fault Refusal :=
  onSoc s fun s => s.ladderCommand who 2 fun s => s.takeStep3 false

def execFltStep4 (who : Requester) (s : State) : Host.Outcome State Fault Refusal :=
  onSoc s fun s => s.ladderCommand who 3 State.takeStep4

/-! Start-up (R560, R565, R566, R584). -/

/-- R560: the latch record enters the ring with PRIOR set, under the next NUMBER. -/
def execLatchCopy (s : State) : Host.Outcome State Fault Refusal :=
  onSoc s fun s =>
    match s.flt.latched with
    | some r => if s.flag FLT_STAT.LATCHV then (s.enterRing { r with flags := r.flags ||| 2, read := false }).wr FLT_STAT.LATCHV 0 else s
    | none => s

/-- Steps of the history within the last ESC minutes. -/
def State.recentSteps (s : State) : List LadderEntry :=
  s.cfg.ladder.filter fun e => s.now - e.time.toNat ≤ s.rd FLT_CFG.ESC * 60 * 10 ^ 9

/-- R566: the module is parked. -/
def State.park (s : State) : State :=
  let s := s.wr FLT_STAT.PARKED 1
  s.fault { cls := 7, code := 0x84, severity := 4, source := 9, data := (s.reg FLT_LADDER.addr).toNat, dataOff := 0x24 }

/-- Table 23.9. -/
def execStartupEscalation (s : State) : Host.Outcome State Fault Refusal :=
  onSoc s fun s =>
    let l := s.recentSteps
    let count := fun k : Nat => (l.filter (·.step == k)).length
    let s := s.wrs [(FLT_LADDER.S3, min 255 (count 3)), (FLT_LADDER.S4, min 255 (count 4)),
      (FLT_LADDER.LAST, (l.head?.map (·.step)).getD 0)]
    if 3 ≤ count 4 then s.park else if 3 ≤ count 3 then s.takeStep4 else s

/-- R566: a module reset for a management command, and a power-up after loss of bias, clear the history of a parked module. -/
def State.clearHistory (s : State) : State :=
  if s.flag FLT_STAT.PARKED then s.onCfg fun c => { c with ladder := [] } else s

/-- R29, R584: the module holds itself in module reset; the record is in the latch before. -/
def State.holdInReset (s : State) (e : FaultEvent) : State :=
  let s := s.fault e
  s.moduleReset.onClock fun c => { c with heldInReset := true }

/-- R584: read at a cold or module reset, so the module stays in the reset that runs. -/
def execPositionMismatch (s : State) : Host.Outcome State Fault Refusal :=
  onAlways s fun s =>
    if s.clock.heldInReset then s else
    (s.fault { cls := 7, code := 0x81, severity := 4, source := 255 }).onClock fun c => { c with heldInReset := true }

/-- R381: a function still in Reset 100 ms after DIR_PERST_N has gone high. -/
def execFunctionResetTimeout (f : Nat) (s : State) : Host.Outcome State Fault Refusal :=
  onData s fun s =>
    if s.direct.perstLow || !s.direct.cableIn || !s.flag DPT_CTL.EN || 1 < f || s.fnState f != 0 || s.now < s.direct.perstAt + 100000000 then s
    else s.takeStep3 true

end Sys2Proof.Machine
end

