-- ==== Sys2Proof/Machine/MemIntegrity.lean ====
section
/-! DEFINITION. Parity errors and recovery, the sweeps, the leaky buckets and the checker test (chapter Integrity, Faults and the
Recovery Ladder). -/

set_option Elab.async false

namespace Sys2Proof.Machine

/-- The region of Tables 23.1 and 23.2. -/
def regionOf : BadItem → Nat
  | .heldCopy _ => 0
  | .mirrorCopy .. => 1
  | .directory _ => 2
  | .journal _ | .stripeMap _ | .rebuildBits _ | .scrubAt _ | .lostMap | .extentMap | .reservations | .promenade | .faultRing => 3
  | .code _ => 4
  | .writableData => 5
  | .engineBuffer => 6
  | .partitionMemory p => 7 + p % 8
  | .contextBacking _ => 15
  | .frameCell _ | .freeCell | .accumulatorCell .. => 16
  | .frameChain _ => 17
  | .cachedContext _ => 18
  | .forwardingEntry _ | .sequenceCounter .. | .expectedNumber .. => 19
  | .figures => 20
  | .commandState _ => 21
  | .keySlot _ => 22
  | .wallflowerSram => 23
  | .cache c .. => 24 + c % 8
  | .prefetched _ | .ringState _ => 32

/-! Records and buckets (R553, R554, R557). -/

/-- R553, R554: a bucket rises; crossing the threshold interrupts once. -/
def State.fillBucket (s : State) (r : Nat) (addr : Nat) : State :=
  let n := s.rd (MIN_BKT.N r)
  let s := s.wr (MIN_BKT.N r) (min 255 (n + 1))
  let th := s.rd MIN_LEAK.THRESH
  if n ≤ th && th < min 255 (n + 1) then
    let s := s.setReg (MIN_IRQ.addr (r / 32)) (s.reg (MIN_IRQ.addr (r / 32)) ||| BitVec.ofNat 64 (2 ^ (r % 32)))
    (s.emit (.interrupt (.bucket r))).integrityFault 8 3 r addr false
  else s

/-- An event that adds to its region's bucket, unless a test made it. -/
def State.bucketEvent (s : State) (r addr : Nat) (test : Bool) : State := if test then s else s.fillBucket r addr

/-- A recovered error, with its code of Table 23.7. -/
def State.recovered (s : State) (code r addr : Nat) (test : Bool) : State :=
  ((s.count MIN_RECOVERED.addr).integrityFault code 2 r addr test).bucketEvent r addr test

/-- Memory with no redundancy: told to its owner. -/
def State.toldOwner (s : State) (r addr : Nat) (test : Bool) : State := s.integrityFault 10 1 r addr test

/-- R551: a fatal error. -/
def State.fatalError (s : State) (r addr : Nat) (test : Bool) : State :=
  ((s.wr MIN_ERR.FATAL 1).count MIN_FATAL.addr).integrityFault 9 4 r addr test

/-! What the memory controller records, and the test of R555. -/

/-- Whether a test made this error; an armed test of an SRAM region is used by it. -/
def State.tested (s : State) (r addr : Nat) : Bool :=
  if r < 16 then s.integrity.bad.any fun b => b.1 == addr / 64 && b.2
  else s.flag MIN_STAT.ARMED && s.rd MIN_TEST.REGION == r

def State.useTest (s : State) (r : Nat) (test : Bool) : State :=
  if !test then s else
  let s := s.count MIN_TEST_HITS.addr
  if r < 16 then s else s.wrs [(MIN_STAT.ARMED, 0), (MIN_TEST.ARM, 0)]

/-- MIN_ERR, MIN_EADDR and MIN_DETECT. -/
def State.recordError (s : State) (r addr bytes : Nat) (sweep : Bool) : State :=
  let s := if s.flag MIN_ERR.VALID then s.wr MIN_ERR.MULTI 1 else s.wr MIN_ERR.VALID 1
  let s := s.wrs [(MIN_ERR.FATAL, 0), (MIN_ERR.SWEEP, if sweep then 1 else 0), (MIN_ERR.REGION, r),
    (MIN_ERR.CHAN, if r < 16 then (Config.dramChannel addr).val else 0x3F), (MIN_ERR.BYTES, bytes % 65536)]
  ((s.setReg MIN_EADDR.addr (BitVec.ofNat 64 addr)).count MIN_DETECT.addr).event 0x70 r

/-! R542: what the reader does. -/

/-- The descriptor under way on an engine queue ends with code 0x08. -/
def State.endDescriptor (s : State) (q addr : Nat) : State :=
  match (s.engineQueue q).running.find? (!·.finished) with
  | some r => s.ewqFinish q r.count fun x => { x with status := 8, result := 0, errAddr := addr }
  | none => s

def State.badRead (s : State) (reader : BadReader) (addr : Nat) : State :=
  match reader with
  | .block (some f) => s.onFrame f fun x => { x with poison := true }
  | .block none => s
  | .engineQueue q => if q < 128 then s.endDescriptor q addr else s
  | .core c => (s.dropLine (addr / 64)).emit (.core c .accessFault)
  | .sweep => s

/-! Recoveries of regions 0, 1 and 3 (R543–R550). -/

/-- R546: the accumulator solves the copy: every other accumulated copy of its row is readable. -/
def State.accumulatorSolves (s : State) (c : HeldCopy) : Bool :=
  let bad := s.integrity.recoveries.map (·.item)
  c.accumulated && ((s.openStripe c.set c.stripe).any fun o => o.acc.any fun a => a.1 == c.row) &&
  !(s.store.copies.any fun d => d.set == c.set && d.stripe == c.stripe && d.row == c.row && d.id != c.id && d.accumulated &&
      bad.contains (.heldCopy d.id))

/-- Table 23.1: the sources of a held copy. -/
def State.copySources (s : State) (c : HeldCopy) : List RecoverySource :=
  let member := if c.reported then [RecoverySource.member] else []
  let acc := if s.accumulatorSolves c then [RecoverySource.accumulator] else []
  if c.writeBack then (if s.paired then [.peer] else []) ++ member ++ acc
  else member ++ (if c.cmd.isSome then [.hostBuffer] else []) ++ acc

/-- Tables 23.1 and 23.3. -/
def State.sourcesOf (s : State) (item : BadItem) : List RecoverySource :=
  let peer := if s.paired then [RecoverySource.peer] else []
  match item with
  | .heldCopy id => match s.store.copies.find? (·.id == id) with | some c => s.copySources c | none => []
  | .mirrorCopy .. => peer
  | .stripeMap set | .rebuildBits set | .scrubAt set =>
    peer ++ (if s.energy.dirtyPages.any fun p => p.2.1 == set then [] else [.refetch]) ++ [.rebuilt]
  | .journal _ => peer ++ [.refetch, .rebuilt]
  | .lostMap | .extentMap | .reservations | .promenade => peer ++ [.refetch]
  | _ => []

/-- Whether an item is recovered from sources in turn. -/
def recoversInTurn (i : BadItem) : Bool := regionOf i == 0 || regionOf i == 1 || (regionOf i == 3 && i != .faultRing)

/-- R545: ask the peer; the model's layout of the request: group, namespace, block, measure. -/
def State.askPeer (s : State) (item : BadItem) : State :=
  let ask := fun g nsid lba meas : Nat => s.emit (.message 2 (leBytes 1 6 ++ leBytes 1 g ++ leBytes 4 nsid ++ leBytes 8 lba ++ leBytes 8 meas))
  match item with
  | .heldCopy id => match s.store.copies.find? (·.id == id) with
    | some c => ask c.group c.nsid c.lba (c.meas.getD 0)
    | none => s
  | .mirrorCopy g nsid lba meas => ask g nsid lba meas
  | _ => s

def State.dropRecovery (s : State) (id : Nat) : State := s.onIntegrity fun x => { x with recoveries := dropBy Recovery.id id x.recoveries }

/-- The line is good again. -/
def State.lineGood (s : State) (addr : Nat) : State := s.onIntegrity fun x => { x with bad := x.bad.filter (·.1 != addr / 64) }

/-- Table 23.3: the last resort. -/
def State.lastResort (s : State) (item : BadItem) : State :=
  match item with
  | .journal slot => s.onStore fun x => { x with journal := x.journal.filter (·.slot != slot) }
  | .stripeMap set => s.onStore fun x => { x with mapAllSet := set :: x.mapAllSet.filter (· != set), stripeMap := x.stripeMap.filter (·.1 != set) }
  | .rebuildBits set => (s.onStore fun x => { x with rebuilt := x.rebuilt.filter (·.1 != set) }).showRebuild set
  | .scrubAt set => s.setReg (RBD_SPOS.addr set) 0
  | _ => s

/-- R550: a copy that nothing restores. One whose completion is not released fails its command; any other is lost. -/
def State.loseCopy (s : State) (c : HeldCopy) (addr : Nat) (test : Bool) : State :=
  let drop := fun s : State => (s.onStore fun x => { x with copies := x.copies.filter (·.id != c.id) }).showDirty
  match c.cmd with
  | some k => drop (s.failCommand k stDataTransfer)
  | none =>
    let s := drop (s.loseRow c.set c.gen c.stripe c.row 2 [c.strip] [])
    ((s.count MIN_LOST.addr).integrityFault 7 3 0 addr test).bucketEvent 0 addr test

/-- No source remains. -/
def State.noSource (s : State) (r : Recovery) : State :=
  let s := s.dropRecovery r.id
  match r.item with
  | .heldCopy id => match s.store.copies.find? (·.id == id) with
    | some c => s.loseCopy c r.addr r.test
    | none => s
  | .mirrorCopy g nsid lba meas =>
    ((s.onStore fun x => { x with mirrors := x.mirrors.filter fun m => !(m.group == g && m.nsid == nsid && m.lba == lba && m.meas == meas) }).showDirty).toldOwner
      1 r.addr r.test
  | i => s.toldOwner (regionOf i) r.addr r.test

/-- The code of Table 23.7 of a source. -/
def sourceCode : RecoverySource → Nat
  | .refetch => 1 | .peer => 2 | .member => 3 | .accumulator => 4 | .hostBuffer => 5 | .rebuilt => 6

/-- The recovery turns to its next source: the last resort acts at once. -/
def State.nextSource (s : State) (r : Recovery) : State :=
  match r.sources with
  | [] => s.noSource r
  | .peer :: _ => s.askPeer r.item
  | .rebuilt :: _ => (((s.dropRecovery r.id).lastResort r.item).lineGood r.addr).recovered 6 (regionOf r.item) r.addr r.test
  | _ => s

def State.startRecovery (s : State) (item : BadItem) (reader : BadReader) (addr : Nat) (test : Bool) : State :=
  let r := Recovery.mk s.integrity.nextRecovery item addr test (s.sourcesOf item) [reader] s.now
  (s.onIntegrity fun x => { x with recoveries := x.recoveries ++ [r], nextRecovery := x.nextRecovery + 1 }).nextSource r

/-- The present source has failed. -/
def State.sourceFailed (s : State) (r : Recovery) : State :=
  let r := { r with sources := r.sources.drop 1, askedAt := s.now }
  (s.onIntegrity fun x => { x with recoveries := setBy Recovery.id r.id (fun _ => r) x.recoveries }).nextSource r

/-! Regions recovered at once (Tables 23.1, 23.2 and 21.5, R128, R547). -/

/-- R128: a context that cannot be had: the packets parked behind it go, and the queue pair enters Error. -/
def State.contextLost (s : State) (idx r addr : Nat) (test : Bool) : State :=
  let s := s.onRdma fun x => { x with pipelines := x.pipelines.map fun p => if p.fill == some idx then { p with parked := [] } else p }
  (s.queuePairError idx none).toldOwner r addr test

/-- A frame whose chain is broken is discarded as poisoned, with a SKIP where its SEQ is awaited. -/
def State.breakFrame (s : State) (id : Nat) : State :=
  match s.frame? id with
  | none => s
  | some f =>
    let s := (s.switchDrop 3).emit (.frame (.discarded id))
    if f.ordered && f.stage != .queued && f.stage != .sending then (s.onFrame id Frame.toSkip).showPools.sendXon else (s.dropFrame f).retryWaiting

/-- The accumulator of a stripe is discarded: every changed row closes by reconstruct, reading what is not held. -/
def State.dropAccumulator (s : State) (set stripe : Nat) : State :=
  match s.openStripe set stripe with
  | none => s
  | some o =>
    if o.phase == .posting || s.store.locked.contains (set, stripe) then s else
    let g := s.geomOf set o.gen
    let rows := if o.phase == .opened then o.rows else o.rowsLeft
    let s := match o.phase, s.store.journal.find? (·.slot == o.slot) with
      | .opened, some e => (s.journalRecord { e with state := 2 }).event 0x22 set
      | _, _ => s
    let s := s.onStore fun x => { x with jobs := x.jobs.filter fun j => !(j.set == set && j.stripe == stripe && (j.purpose == .closeModify || j.purpose == .closeReconstruct)) }
    let s := s.onStripe set stripe fun o => { o with phase := .closing, rowsLeft := rows, held := [] }
    (s.each rows fun row s =>
      let written := o.writtenIn row
      let read := (List.range g.k).filter fun i => (s.stripeCopy set stripe i row).isNone && (!o.clearAtOpen || written.contains i)
      let s := s.count QDL_CLOSE_RECON.addr
      if read.isEmpty then s.rowParity o row (accGet o.acc row) else s.startJob set o.gen stripe row read .closeReconstruct).showOpen

/-- R552, R517: what a cache error shows in its cluster. -/
def State.cacheError (s : State) (cluster cache array set way : Nat) (fatal : Bool) : State :=
  s.wrs [(CLU_PERR.VALID cluster, 1), (CLU_PERR.FATAL cluster, if fatal then 1 else 0), (CLU_PERR.CACHE cluster, cache),
    (CLU_PERR.ARRAY cluster, array), (CLU_PERR.WAY cluster, way), (CLU_PERR.SET cluster, set)]

/-- Table 21.5: a fatal error stops the cluster's cores; its partition is reset, or the module takes step 3. -/
def State.cacheFatal (s : State) (cluster addr : Nat) (test : Bool) : State :=
  let s := (s.onCaches fun x => { x with stopped := cluster :: x.stopped.filter (· != cluster) }).emits
    ((coresOf cluster).map fun n => .core n .stop)
  let s := ((s.count (CLU_FATAL.addr cluster)).fatalError (24 + cluster) addr test).bucketEvent (24 + cluster) addr test
  match s.clusterOwner cluster with
  | some p => s.resetPartition p
  | none => s.takeStep3 true

/-- A dirty line with bad data goes to DRAM, and is bad there. -/
def State.poisonLine (s : State) (l : CacheLine) : State :=
  ((s.storeBytes (l.line * 64) l.bytes).dropLine l.line).onIntegrity fun x => { x with bad := (l.line, false) :: x.bad.filter (·.1 != l.line) }

/-- Table 21.5. -/
def State.cacheParity (s : State) (cluster cache array set way addr : Nat) (test : Bool) : State :=
  let id := 17 * cluster + cache
  let c := s.cache id
  let line := c.inWay set way
  let isL2 := cache == 16
  let isL1i := !isL2 && cache % 2 == 0
  if isL1i then
    let s := s.cacheError cluster cache array set way false
    ((s.putCache { c with lines := c.lines.filter (·.set != set) }).count (CLU_L1_REFETCH.addr cluster)).recovered 1 (24 + cluster) addr test
  else if array = 0 && !(line.any (·.dirty)) then
    let s := s.cacheError cluster cache array set way false
    let s := match line with | some l => if isL2 then s.evictFromCluster cluster l.line else s.putCache (c.drop l.line) | none => s
    (s.count (if isL2 then CLU_L2_REFETCH.addr cluster else CLU_L1_REFETCH.addr cluster)).recovered 1 (24 + cluster) addr test
  else
    let s := s.cacheError cluster cache array set way true
    let s := match line with | some l => if array = 0 then s.poisonLine l else s | none => s
    s.cacheFatal cluster addr test

/-- R547: a directory entry is rebuilt from its slot and the journal. A slot that no live entry names is free (log 191). The model
numbers a slot of the pool by its copy. -/
def State.rebuildDirectory (s : State) (slot : Nat) : State :=
  let named := fun c : HeldCopy => s.store.journal.any fun e => e.state != 3 && e.set == c.set && (e.stripe == c.stripe || e.tstripes.contains c.stripe)
  (s.onStore fun x => { x with copies := x.copies.filter fun c => !(c.id == slot && c.reported && !named c) }).showDirty

/-- R551: Ronhenko's own memory: a code line is fetched again from a good image; anything else is fatal. -/
def State.ronhenkoMemory (s : State) (good canRun : Bool) (r addr : Nat) (test : Bool) : State :=
  if good then s.recovered 1 r addr test else (s.fatalError r addr test).takeStep3 canRun

/-- A bad HEAD, TAIL or CCNT halts the queue. -/
def State.haltRing (s : State) (q addr : Nat) (r : Nat) (test : Bool) : State := (s.ewqHalt q 8 addr).toldOwner r addr test

/-- What the module does at once. -/
def State.recoverNow (s : State) (item : BadItem) (addr : Nat) (test : Bool) : State :=
  let r := (regionOf item)
  match item with
  | .directory slot => (s.rebuildDirectory slot).recovered 1 r addr test
  | .code good => s.ronhenkoMemory good true r addr test
  | .writableData => s.ronhenkoMemory false false r addr test
  | .contextBacking idx => s.contextLost idx r addr test
  | .cachedContext idx =>
    if s.rdma.cache.any fun c => c.idx == idx && c.dirty then s.contextLost idx r addr test else s.recovered 1 r addr test
  | .frameCell f => (s.onFrame f fun x => { x with poison := true }).recovered 1 r addr test
  | .freeCell => s.recovered 1 r addr test
  | .accumulatorCell set stripe => (s.dropAccumulator set stripe).recovered 1 r addr test
  | .frameChain f => (s.breakFrame f).recovered 1 r addr test
  | .forwardingEntry _ | .figures => s.recovered 1 r addr test
  | .sequenceCounter flow dest =>
    (s.onSwitch fun w => { w with sequences := w.sequences.map fun n => if sameFlow flow dest n then { n with num := 0 } else n }).recovered 1 r addr test
  | .expectedNumber _ _ => s.recovered 1 r addr test
  | .commandState qp => (s.queuePairError qp none).toldOwner r addr test
  -- a session slot's session ends; any other key is derived or unwrapped again and is the same key
  | .keySlot k => (s.endSession k).recovered 1 r addr test
  | .wallflowerSram => s.recovered 1 r addr test
  | .cache c n array set way => s.cacheParity (c % 8) (n % 17) array set way addr test
  | .prefetched q =>
    ((s.putEngineQueue { s.engineQueue q with prefetched := [] }).prefetch q).recovered 1 r addr test
  | .ringState q => s.haltRing q addr r test
  | _ => (s.onIntegrity fun x => { x with bad := (addr / 64, test) :: x.bad.filter (·.1 != addr / 64) }).toldOwner r addr test

/-- The recovery of an item that runs. -/
def State.recoveryOf (s : State) (item : BadItem) (addr : Nat) : Option Recovery :=
  s.integrity.recoveries.find? fun r => r.item == item && r.addr == addr

/-- R542, R543: a bad line or word is read. -/
def State.parityError (s : State) (item : BadItem) (reader : BadReader) (addr bytes : Nat) : State :=
  match s.recoveryOf item addr with
  | some r =>
    (s.onIntegrity fun x => { x with recoveries := setBy Recovery.id r.id (fun r => { r with readers := r.readers ++ [reader] }) x.recoveries }).badRead
      reader addr
  | none =>
    let test := s.tested (regionOf item) addr
    let s := (s.useTest (regionOf item) test).recordError (regionOf item) addr bytes (reader == .sweep)
    let s := s.badRead reader addr
    if recoversInTurn item then s.startRecovery item reader addr test else s.recoverNow item addr test

def execParityError (item : BadItem) (reader : BadReader) (addr bytes : Nat) (s : State) : Host.Outcome State Fault Refusal :=
  onData s fun s => s.parityError item reader addr bytes

/-- R543, R544: the present source restores the line or fails, or the line was written again or freed first. -/
def execRecoveryComplete (id : Nat) (how : RecoveryEnd) (s : State) : Host.Outcome State Fault Refusal :=
  onData s fun s =>
    match getBy Recovery.id id s.integrity.recoveries with
    | none => s
    | some r =>
      match how with
      | .rewritten => ((s.dropRecovery id).lineGood r.addr).integrityFault 11 1 (regionOf r.item) r.addr r.test
      | .failed => s.sourceFailed r
      | .restored => ((s.dropRecovery id).lineGood r.addr).recovered ((r.sources.head?.map sourceCode).getD 1) (regionOf r.item) r.addr r.test

/-- R545: as the peer: the copy goes into window 9 without a measure; a copy that is gone is not answered. -/
def execPeerCopyRequest (group nsid lba meas : Nat) (s : State) : Host.Outcome State Fault Refusal :=
  onSoc s fun s =>
    let send := fun b : MirrorBlock => s.sendFrame .window 9 group (s.rd (EZL_WIN_CTL.KEY 9)) 0 0 (.mirror b)
    match s.store.mirrors.find? fun m => m.group == group && m.nsid == nsid && m.lba == lba && m.meas == meas with
    | some m => send ⟨m.nsid, m.lba, m.tag, m.content, m.dealloc⟩
    | none =>
      match s.store.copies.find? fun c => c.group == group && c.nsid == nsid && c.lba == lba && c.meas == some meas with
      | some c => send ⟨c.nsid, c.lba, c.tag, c.content, c.dealloc⟩
      | none => s

/-- R545: a peer that does not answer within 100 µs counts as no source. -/
def execPeerRestoreTimeout (id : Nat) (s : State) : Host.Outcome State Fault Refusal :=
  onData s fun s =>
    match getBy Recovery.id id s.integrity.recoveries with
    | some r => if r.sources.head? == some .peer && Decidable.decide (r.askedAt + 100000 ≤ s.now) then s.sourceFailed r else s
    | none => s

/-! The sweep, the leak and the test (R552, R553, R555). -/

/-- The next DRAM line is read; MIN_SWEPT_GB counts each 10^9 bytes. -/
def State.sweepLine (s : State) : State :=
  let n := s.integrity.sweepLine
  let s := s.onIntegrity fun x => { x with sweepLine := (n + 1) % 2 ^ 32 }
  if n * 64 / 10 ^ 9 < (n + 1) * 64 / 10 ^ 9 then s.count MIN_SWEPT_GB.addr else s

/-- A sweep reads its next line or cell: of DRAM while MIN_SWEEP.EN is 1, of the shared buffer. -/
def execMemorySweep (buffer : Bool) (found : Option BadItem) (bytes : Nat) (s : State) : Host.Outcome State Fault Refusal :=
  onData s fun s =>
    if !s.flag MIN_STAT.FILLED || (!buffer && !s.flag MIN_SWEEP.EN) then s else
    let addr := if buffer then s.integrity.sweepCell else 64 * s.integrity.sweepLine
    let s := if buffer then s.onIntegrity fun x => { x with sweepCell := (x.sweepCell + 1) % 524288 } else s.sweepLine
    match found with
    | none => s
    | some i => s.parityError i .sweep addr bytes

/-- R553: every MIN_LEAK.INTERVAL from the last write of MIN_LEAK, every bucket above 0 loses 1. -/
def execBucketLeak (s : State) : Host.Outcome State Fault Refusal :=
  onSoc s fun s =>
    let next := s.integrity.leakAt + 1000000 * s.rd MIN_LEAK.INTERVAL
    if s.now < next then s else
    (s.onIntegrity fun x => { x with leakAt := next }).each (List.range 33) fun r s => s.wr (MIN_BKT.N r) (s.rd (MIN_BKT.N r) - 1)

/-- R555: a write of MIN_TEST. -/
def execMinTestArm (who : Requester) (value : Word) (s : State) : Host.Outcome State Fault Refusal :=
  onSoc s fun s => s.commandWrite who MIN_TEST.addr value fun s =>
    let arm := if bitOf value.toNat 31 then 1 else 0
    (s.wrs [(MIN_TEST.ARM, arm), (MIN_STAT.ARMED, arm)]).onIntegrity fun x => { x with armedAt := s.now }

/-- R555: a test unused for 1 s disarms. -/
def execMinTestExpiry (s : State) : Host.Outcome State Fault Refusal :=
  onSoc s fun s =>
    if s.flag MIN_STAT.ARMED && Decidable.decide (s.integrity.armedAt + 1000000000 ≤ s.now) then s.wrs [(MIN_STAT.ARMED, 0), (MIN_TEST.ARM, 0), (MIN_STAT.EXPIRED, 1)] else s

end Sys2Proof.Machine
end

