-- ==== Sys2Proof/Machine/Pmc.lean ====
section
/-! DEFINITION. Performance counter rows and the window monitors (chapter Performance Counters). -/

set_option Elab.async false

namespace Sys2Proof.Machine

/-- R571: a write of a counter's _HI loads both halves at once; an event of the same cycle is added after. -/
def execPmcCounterPreset (who : Requester) (counter : Nat) (value : Word) (s : State) : Host.Outcome State Fault Refusal :=
  onSoc s fun s =>
    if 48 ≤ counter then s else
    s.commandWrite who (PMC_CNT.addr counter + 4) value fun s =>
      s.setReg (PMC_CNT.addr counter) (BitVec.ofNat 64 ((s.pairRequest who (PMC_CNT.addr counter) value).toNat % 2 ^ 48))

/-! Monitors (R572–R574). -/

/-- R574: CLR at the start of a window. -/
def State.clearMonitor (s : State) (w : Nat) : State :=
  if !s.pmc.clears.contains w then s else
  (s.wrs [(PMC_BW_MIN.V w, 0xFFFFFFFF), (PMC_BW_MAX.V w, 0), (PMC_BW_WINS.V w, 0), (PMC_BW_SKIP.V w, 0)]).onPmc fun x => { x with
    clears := x.clears.filter (· != w) }

/-- R573, R574: an ended window goes into the registers, or counts as skipped. -/
def State.showWindow (s : State) (w bytes : Nat) (dirty : Bool) : State :=
  if dirty then s.wr (PMC_BW_SKIP.V w) ((s.rd (PMC_BW_SKIP.V w) + 1) % 2 ^ 32)
  else s.wrs [(PMC_BW_LAST.V w, bytes % 2 ^ 32), (PMC_BW_MIN.V w, min (s.rd (PMC_BW_MIN.V w)) bytes),
    (PMC_BW_MAX.V w, max (s.rd (PMC_BW_MAX.V w)) bytes), (PMC_BW_WINS.V w, (s.rd (PMC_BW_WINS.V w) + 1) % 2 ^ 32)]

def Monitor.key (m : Monitor) : Nat := m.num

def State.onMonitor (s : State) (w : Nat) (f : Monitor → Monitor) : State :=
  s.onPmc fun x => { x with monitors := setBy Monitor.key w f x.monitors }

/-- The oldest window that has ended. -/
def execMonitorWindowEnd (monitor : Nat) (s : State) : Host.Outcome State Fault Refusal :=
  onSoc s fun s =>
    match getBy Monitor.key monitor s.pmc.monitors with
    | none => s
    | some m =>
      match m.ended with
      | [] => s
      | (bytes, dirty) :: rest =>
        let s := ((s.onMonitor monitor fun m => { m with ended := rest }).showWindow monitor bytes dirty).clearMonitor monitor
        if m.on || !rest.isEmpty then s else s.onPmc fun x => { x with monitors := dropBy Monitor.key monitor x.monitors }

def execMonitorClear (who : Requester) (monitor : Nat) (s : State) : Host.Outcome State Fault Refusal :=
  onSoc s fun s =>
    if 16 ≤ monitor then s else
    let word := (s.reg (PMC_BW_CTL.addr monitor)).toNat % 2 ^ 30 + 2 ^ 30 + 2 ^ 31 * s.lastWritten (PMC_BW_CTL.EN monitor)
    s.commandWrite who (PMC_BW_CTL.addr monitor) (BitVec.ofNat 32 word) fun s =>
      s.onPmc fun x => { x with clears := monitor :: x.clears.filter (· != monitor) }

/-- The monitor runs as its registers stand. -/
def State.monitorOn (s : State) (w : Nat) : Bool := s.flag PMC_CTL.RUN && s.flag (PMC_BW_CTL.EN w)

/-- The power domain of the port that a monitor watches (Table 19.2); none for an unswitched one. -/
def State.monitorDomain (s : State) (w : Nat) : Option Nat :=
  let k := s.rd (PMC_BW_CTL.KIND w)
  let i := s.rd (PMC_BW_CTL.INDEX w)
  if k = 0 ∧ i < 32 then some (112 + i / 8) else if k = 1 ∧ i < 4 then some (112 + i)
  else if k = 2 ∧ i < 48 then some (116 + i / 4) else if k = 3 then some 128 else if k = 4 then some 129 else none

/-- What the boundary that begins measure `n` does for one monitor: a window that ends is set aside and the next begins. WIN is
read when EN becomes 1; a monitor that starts in the middle of a window will discard that window. With EN 0 no window begins. -/
def State.monitorBoundary (s : State) (n : Nat) (stepped : Bool) (w : Nat) : State :=
  let off := match s.monitorDomain w with | some d => s.domainState d == 2 | none => false
  let on := s.monitorOn w
  let win := max 1 (s.rd (PMC_BW_CTL.WIN w))
  match getBy Monitor.key w s.pmc.monitors with
  | none =>
    if !on then s else
    let s := if n % win = 0 then s.clearMonitor w else s
    s.onPmc fun x => { x with monitors := putBy Monitor.key (Monitor.mk w 0 (n % win != 0 || off) win [] true) x.monitors }
  | some m =>
    let win := if on && !m.on then win else m.win
    if m.win = 0 then
      if on then s.onMonitor w fun m => { m with bytes := 0, dirty := n % win != 0 || off, win := win, on := true } else s
    else
      let dirty := m.dirty || stepped || off || !on
      if n % m.win = 0 then
        s.onMonitor w fun m => { m with
          bytes := 0
          dirty := off || !on || n % win != 0
          win := if on then win else 0
          ended := m.ended ++ [(m.bytes, dirty)]
          on := on }
      else s.onMonitor w fun m => { m with dirty := dirty, win := win, on := on }

def State.monitorsAtBoundary (s : State) (n : Nat) (stepped : Bool) : State :=
  s.each (List.range 16) fun w s => s.monitorBoundary n stepped w

end Sys2Proof.Machine
end

