-- ==== Sys2Proof/Machine/Boundary.lean ====
section
/-! DEFINITION. The measure boundary (R33, R38, R40–R43): the ordered actions of Table 2.6. -/

set_option Elab.async false

namespace Sys2Proof.Machine

/-! Step 2: RWM writes (R7, R10). -/

/-- The lane class whose shaper register is at an address. -/
def shaperClass (addr : Nat) : Option LaneClass :=
  (List.range 4).findSome? fun p => (List.range 8).findSome? fun l => (List.range 8).findSome? fun c =>
    if NET_CBS.addr p l c = addr then some (LaneClass.mk p l c) else none

/-- The port whose wheel register is at an address. -/
def wheelPort (addr : Nat) : Option Nat := (List.range 4).find? fun p => NET_WHEEL.addr p == addr

/-- The port whose token bucket depth is at an address. -/
def burstPort (addr : Nat) : Option Nat := (List.range 4).find? fun p => NET_QPS.addr p == addr

/-- R184: the buckets of a port's shaped queue pairs as they stand, before their depth changes. -/
def State.settleBuckets (s : State) (p : Nat) : State :=
  s.each (s.rdma.qps.filter fun q => q.get Ctx.LIMITED == 1 && s.qpPort q.idx == p) fun q s => s.setBucket q.idx (s.bucketLevel q.idx)

/-- One waiting write takes effect; true if it did. A reserve or a headroom that the shared pool cannot give up keeps its old
value (R156). A change of a shaper's EN sets its credit to 0 (R196); B_w is the boundary at which EN of a wheel becomes 1
(R197). `t` is the boundary's instant. -/
def State.applyRwm (s : State) (t : Nat) (w : RwmWrite) : State :=
  let f : Fld := ⟨w.addr, w.hi, w.lo⟩
  if isPoolRegister w.addr && !s.poolFits f w.val then s.wr SWC_STAT.POOL_REJ 1
  else
    let s := match burstPort w.addr with | some p => s.settleBuckets p | none => s
    let new := (match shaperClass w.addr with | some a => s.settleCredit a | none => s).wr f w.val
    let new := match shaperClass w.addr with
      | some a => if s.rd (NET_CBS.EN a.port a.lane a.cls) = new.rd (NET_CBS.EN a.port a.lane a.cls) then new else new.setCredit a 0
      | none => new
    let new := match wheelPort w.addr with
      | some p => if !s.flag (NET_WHEEL.EN p) && new.flag (NET_WHEEL.EN p) then new.startWheel p t else new
      | none => new
    new.onLink fun l => { l with applied := l.applied ++ [w] }

/-- R317: a window lies in its owner's memory: for Ronhenko, module DRAM that no partition holds. -/
def State.windowInside (s : State) (w : Nat) : Bool :=
  let x := s.window w
  let owner := s.rd (EZL_WIN_CTL.OWNER w)
  if owner = 0 then
    Decidable.decide (x.base + x.len ≤ dramBytes) && (List.range 8).all fun p =>
      s.partMemLen p == 0 || Decidable.decide (x.base + x.len ≤ s.partMemBase p) || Decidable.decide (s.partMemBase p + s.partMemLen p ≤ x.base)
  else
    Decidable.decide (owner ≤ 8) && Decidable.decide (s.partMemBase (owner - 1) ≤ x.base) &&
      Decidable.decide (x.base + x.len ≤ s.partMemBase (owner - 1) + s.partMemLen (owner - 1))

/-- R317: a changed window that does not lie in its owner's memory keeps the registers that it had before its shadow moved. -/
def State.checkWindow (s old : State) (w : Nat) : State :=
  let regs := [EZL_WIN_BASE_LO.addr w, EZL_WIN_BASE_HI.addr w, EZL_WIN_LEN.addr w, EZL_WIN_CTL.addr w]
  if regs.all (fun a => s.reg a == old.reg a) || !s.flag (EZL_WIN_CTL.VALID w) || s.windowInside w then s
  else ((s.each regs fun a s => s.setReg a (old.reg a)).onLink fun l => { l with
    applied := l.applied.filter fun x => !regs.contains x.addr }).plainFault 8 1 0x24 (EZL_WIN_BASE_LO.addr w)

/-- A shadowed window register of the Emzifen link (R317), which moves to active in step 4 of Table 2.6 and not in step 2. -/
def isWindowRegister (addr : Nat) : Bool :=
  match findReg addr with
  | some h => h.block == 0x24 && decide (0x1000 ≤ h.row.off)
  | none => false

/-- The registers of the layout whose values are judged whole at the boundary (Tables 8.16 and 8.17): QDL_JDRV of a set, or QDL_SUBz. -/
inductive LayoutRegister where
  | jdrv (set : Nat)
  | sub (set z : Nat)
  deriving DecidableEq, Repr

def layoutRegister (addr : Nat) : Option LayoutRegister :=
  (List.range 4).findSome? fun set =>
    if addr == QDL_JDRV.addr set then some (.jdrv set)
    else ((List.range 4).find? fun z => addr == QDL_SUB.addr set z).map fun z => .sub set z

/-- No member of a list occurs twice in it. -/
def noTwice : List Nat → Bool
  | [] => true
  | a :: l => !l.contains a && noTwice l

/-- Tables 8.16, 8.17: a layout register's value may be applied. The drives that QDL_JDRV names are those whose V is set
(DEDUCED, log 168). -/
def State.layoutAccepts (s : State) : LayoutRegister → Bool
  | .jdrv set =>
    let drives := (if s.flag (QDL_JDRV.V0 set) then [s.rd (QDL_JDRV.J0 set)] else []) ++
      (if s.flag (QDL_JDRV.V1 set) then [s.rd (QDL_JDRV.J1 set)] else []) ++ if s.flag (QDL_JDRV.V2 set) then [s.rd (QDL_JDRV.J2 set)] else []
    noTwice drives && noTwice (drives.map fun u => s.slotOf set u / 4)
  | .sub set z =>
    Decidable.decide (z < (s.geom set).s) && !((List.range 4).any fun y =>
      y != z && s.flag (QDL_SUB.VALID set y) && s.rd (QDL_SUB.MEMBER set y) == s.rd (QDL_SUB.MEMBER set z))

/-- Tables 8.16, 8.17: the writes of one layout register take effect together, unless its new value is one that is not applied. -/
def State.applyLayout (s : State) (t : Nat) (addr : Nat) : State :=
  match layoutRegister addr with
  | none => s
  | some r =>
    let new := s.each (s.rwm.filter fun w => w.addr == addr) fun w s => s.applyRwm t w
    if new.layoutAccepts r then new else s.plainFault 8 1 0x20 addr

/-- R10: the writes of the measure that ends take effect: those of the window registers, or the others, the layout registers last
and in the order of their first write. -/
def State.applyRwms (s : State) (t : Nat) (windows : Bool) : State :=
  let due := fun w : RwmWrite => isWindowRegister w.addr == windows
  let layout := ((s.rwm.filter fun w => due w && (layoutRegister w.addr).isSome).map (·.addr)).eraseDups
  let s := s.each (s.rwm.filter fun w => due w && (layoutRegister w.addr).isNone) fun w s => s.applyRwm t w
  (s.each layout fun a s => s.applyLayout t a).onRwm fun l => l.filter fun w => !due w

/-! Modes of the namespaces (R53–R56). -/

/-- R54: policy changes assigned to a measure that has begun take effect. -/
def State.applyPolicy (s : State) (p : PolicyChange) : State :=
  if p.nsid ≠ 0 then s.onNamespace p.nsid fun n => { n with configuredWb := p.policy.writeBack }
  else s.onHost fun h => { h with policies := h.policies.set p.group p.policy }

def State.applyPolicies (s : State) (n : Nat) : State :=
  let due := fun p : PolicyChange => Decidable.decide (p.target ≤ n)
  (s.each (s.host.policyChanges.filter due) fun p s => s.applyPolicy p).onHost fun h => { h with
    policyChanges := h.policyChanges.filter fun p => !due p }

/-- R55, R56: modes change, and each led group with such a change, as each whose ANA state changes, is reported. The open stripes of a namespace that leaves
write-back mode close (R217). -/
def State.applyModes (s : State) : State :=
  let leaving := s.host.namespaces.filter fun n => n.writeBack && !s.writeBackNow n
  let changing := s.host.namespaces.filter fun n => n.writeBack != s.writeBackNow n
  let s := s.count VLT_MODE_CHANGES.addr changing.length
  let s := s.onHost fun h => { h with namespaces := h.namespaces.map fun n => { n with writeBack := s.writeBackNow n } }
  let s := s.each (s.store.openStripes.filter fun o => leaving.any (·.nsid == o.nsid)) fun o s => s.closeStripe o.set o.stripe
  let s := s.each ((List.range 8).filter fun g => changing.any (·.group == g) && s.leads g && s.anaState g == s.host.ana.getD g anaInaccessible)
    fun _ s => s.tellAna
  s.reportAna

/-! The boundary. -/

/-- Steps 2 to 6: every change of configuration. -/
def State.configureAtBoundary (s : State) (n : Nat) : State :=
  let t := n * s.measureNs
  let before := s
  let s := (((s.applyRwms t false).beginSubstitutions before).endRehome).sendXon
  let s := s.commitAtBoundary n
  let old := s
  let s := s.applyRwms t true
  let s := s.each (List.range 64) fun w s => s.checkWindow old w
  let s := s.each (List.range 4) fun set s => s.showRebuild set
  let s := (s.advanceEpoch n).layoutEpochs n
  let s := s.each (List.range 4) fun p s => s.switchGates n t p
  s.applyPolicies n

/-- What else a boundary brings, beside Table 2.6: entry to and exit from Paired, joins, modes, leads, the Dormant entry,
removals whose drives have gone quiet (R352), management requests, monitors. -/
def State.othersAtBoundary (s : State) (n : Nat) (stepped : Bool) : State :=
  let s := ((s.pairAtBoundary n).joinAtBoundary.tokenAtBoundary n).applyModes
  let s := if s.writesLostMap then s else s.onStore fun x => { x with lostWriter := false }
  let s := s.endRemovals.dormantAtBoundary.mcpAtBoundary.monitorsAtBoundary n stepped
  if stepped then s.countOverruns else s

/-- R41: the boundary instant: accepted steps are added (R33), the measure ends, and the actions follow in order. -/
def State.boundary (s : State) : State :=
  let old := s.measure
  let s := s.runTo ((old + 1) * s.measureNs)
  let stepped := s.clock.stepSum != 0
  let s := s.addSteps
  let n := s.measureNumber
  let s := (s.keepWindows old).onClock fun c => { c with current := BitVec.ofNat 64 n, windowOpen := true, windowEnd := s.now + 250 }
  let s := (s.configureAtBoundary n).sendStateCopy old
  let s := s.releaseAtBoundary old
  let s := if phraseOf old = phraseOf n then s else s.applyDecision
  s.othersAtBoundary n stepped

/-- R439: the action of a management request comes due: a power cycle, or a module reset. -/
def State.dueAction (s : State) : State :=
  match s.mcp.action with
  | none => s
  | some a =>
    if s.now < a.due then s
    else if a.cycle then (s.onMcp fun m => { m with action := none }).selfCycle
    else s.clearHistory.moduleReset

end Sys2Proof.Machine
end

