-- ==== Sys2Proof/Machine/Routing.lean ====
section
/-! DEFINITION. A register write as its address and value alone (R437, R17): which command of its own it starts. The part of
such a command that only the world can answer (a domain's answer, what a prepare finds) is then a free number. -/

set_option Elab.async false

namespace Sys2Proof.Machine

/-- The state a meaning answers. -/
def after (o : Host.Outcome State Fault Refusal) (s : State) : State :=
  match o with
  | .next t => t
  | .fault _ | .refused _ => s

/-- Writes of plain fields that more follows from at once: EN of the direct port (R366), the sweep's EN, the configuration
kept across a module reset (R446), the watchdog's period from WDOG becoming nonzero (R564), the proposal slot shown. -/
def State.plainEffects (old s : State) : State :=
  let s := if old.flag DPT_CTL.EN && !s.flag DPT_CTL.EN then s.portReset none
    else if !old.flag DPT_CTL.EN && s.directMayTrain then s.emit (.direct .train) else s
  let s := if s.flag MIN_STAT.FILLED then s.wr MIN_STAT.SWEEPING (s.rd MIN_SWEEP.EN) else s
  let s := if s.reg MCP_CFG.addr == old.reg MCP_CFG.addr then s else s.onCfg fun c => { c with mcpCfg := s.reg MCP_CFG.addr }
  let s := if old.rd FLT_CFG.WDOG = 0 && s.rd FLT_CFG.WDOG != 0 then s.onFlt fun x => { x with watchdogAt := s.now } else s
  if s.rd TWO_PSEL.SEL = old.rd TWO_PSEL.SEL then s else s.showProposals

/-- Whether a write of a register is carried out. -/
def State.takesWrite (s : State) (who : Requester) (addr width : Nat) : Bool :=
  s.reach addr width == .reached && (findReg addr).any (s.mayWrite who ·)

/-- A write of plain fields. The buckets' interval runs from the last write of MIN_LEAK (R553). -/
def State.plainWrite (s : State) (who : Requester) (addr width : Nat) (v : Word) : State :=
  let t := s.plainEffects (s.writeRegister who addr width v)
  if addr = MIN_LEAK.addr && s.takesWrite who addr width then t.onIntegrity fun x => { x with leakAt := s.now } else t

/-- A free answer to an entry handshake (R467). -/
def State.freeAnswer (s : State) : HandshakeAnswer × State :=
  let (n, s) := s.draw
  (if n % 4 = 0 then .accept else if n % 4 = 1 then .refuse else if n % 4 = 2 then .delay (n / 4 % 256) else .silent, s)

/-- The operation of a command register with OP at [19:16], by its number. -/
def opAt16 (v : Word) : Nat := extractBits v.toNat 19 16

/-- A write of CIP_KCMD, QPC_CMD, QDL_FIG_CMD, RBD_PCMD or LTK_CMD: the command of its OP, if it names one. -/
def State.routeCommand (s : State) (who : Requester) (h : RegHit) (v : Word) : Option (Host.Outcome State Fault Refusal) :=
  let n := v.toNat
  if h.is CIP_KCMD.addr then
    let slot := extractBits n 13 0
    match extractBits n 23 20 with
    | 1 => some (execKeyGenerate who slot s) | 2 => some (execKeyUnwrap who slot s) | 3 => some (execKeyZeroise who slot s)
    | 4 => some (execKeyDerivePair who s) | 5 => some (execKekRatchet who s) | 6 => some (execHighWaterLoad who slot s)
    | 7 => some (execSlotStatusRead who slot s) | 8 => some (execKekImport who s) | _ => none
  else if h.is QPC_CMD.addr then
    match extractBits n 3 0 with
    | 1 => some (execQpcCreate who s) | 2 => some (execQpcRead who s) | 3 => some (execQpcDestroy who s)
    | 4 => some (execQpcFlush who s) | 5 => some (execQpcPin who s) | 6 => some (execQpcUnpin who s) | _ => none
  else if h.is QDL_FIG_CMD.addr then
    let set := extractBits n 20 19
    let row := extractBits n 11 0
    match extractBits n 23 22 with
    | 1 => some (execFigWriteNext who set row s) | 2 => some (execFigReadActive who set row s)
    | 3 => some (execFigReadNext who set row s) | _ => none
  else if h.is RBD_PCMD.addr then
    let set := extractBits n 20 19
    match extractBits n 23 22 with
    | 1 => some (execPromenadeStart who set s) | 2 => some (execSetCreate who set s) | 3 => some (execSetDelete who set s)
    | _ => none
  else if h.is LTK_CMD.addr then
    let g := extractBits n 2 0
    match opAt16 v with
    | 1 => some (execLtkHandOverGroup who g s) | 2 => some (execLtkHandOverAll who s) | 3 => some (execLtkReleaseGroup who g s)
    | 4 => some (execLtkAcquireGroup who g s) | 5 => some (execLtkRunSelfTest who s) | _ => none
  else if h.is SWC_FT_CMD.addr then
    let idx := extractBits n 9 0
    match extractBits n 17 16 with
    | 1 => some (execFtWriteShadow who idx s) | 2 => some (execFtReadActive who idx s) | 3 => some (execFtReadShadow who idx s)
    | _ => none
  else if h.is PWR_CMD.addr then
    let d := extractBits n 7 0
    match opAt16 v with
    | 1 => some (execPwrWakeDomain who d s)
    | 2 => some (let (a, s) := s.freeAnswer; execPwrPowerOffDomain who d a s)
    | 3 => some (let (m, s) := s.draw; execPwrEnterDormant who (if m % 256 < 155 then some (m % 256) else none) s)
    | _ => none
  else if h.is FLT_CMD.addr then
    match opAt16 v with
    | 1 => some (execFltStep3Handover who s) | 2 => some (execFltStep3 who s) | 3 => some (execFltStep4 who s) | _ => none
  else if h.is WFL_CMD.addr then
    match extractBits n 3 0 with
    | 1 => some (execCycleArm who s) | 2 => some (execCycleGo who s) | 3 => some (execPeerWakePulse who s) | _ => none
  else none

/-- A write of a command register of a slot, a cluster or an engine queue. -/
def State.routeIndexed (s : State) (who : Requester) (h : RegHit) (v : Word) : Option (Host.Outcome State Fault Refusal) :=
  let n := v.toNat
  if h.is (SLT_CMD.addr 0) then
    match opAt16 v with
    | 1 => some (execSlotPowerOn who h.inst s) | 2 => some (execSlotOff who h.inst s) | 3 => some (execSlotForcedOff who h.inst s)
    | 4 => some (execSlotRetrain who h.inst s)
    | 5 => some (let (m, s) := s.draw; execSlotPrepare who h.inst (m % 2 == 1) (m / 2 % 2 == 1) s)
    | _ => none
  else if h.is (CLU_PCMD.addr 0) then
    match opAt16 v with
    | 1 => some (execPartitionStart who h.inst s) | 2 => some (execPartitionReset who h.inst s) | _ => none
  else if h.is (CLU_MAINT.addr 0) then
    let core := extractBits n 10 8
    match extractBits n 3 0 with
    | 1 => some (execL1dClean who h.inst core s) | 2 => some (execL1dCleanInvalidate who h.inst core s)
    | 3 => some (execL1iInvalidate who h.inst core s) | 4 => some (execClusterClean who h.inst s)
    | 5 => some (execClusterCleanInvalidate who h.inst s) | _ => none
  else if h.is (EWQ_QTAIL.addr 0) then some (execEwqDoorbell who h.i (extractBits n 15 0) s)
  else if h.is (EWQ_QCMD.addr 0) then
    match opAt16 v with
    | 1 => some (execEwqInvalidate who h.i s) | 2 => some (execEwqReset who h.i s) | _ => none
  else if h.is (EZL_CH_TXPOST.addr 0) then some (execMessageSendPost who h.i (extractBits n 7 0) s)
  else if h.is (EZL_CH_RXPOST.addr 0) then some (execMessageReceivePost who h.i (extractBits n 7 0) s)
  else if h.is (WFL_RULE_CTL.addr 0) then some (execRuleCtlWrite who h.i v s)
  else if h.is (NET_GTGT.addr 0) && h.high then some (execGateSwitchoverArm who h.inst v s)
  else if h.is (PMC_CNT.addr 0) && h.high then some (execPmcCounterPreset who h.i v s)
  else none

/-- A write of a register whose every write is a command. -/
def State.routeSingle (s : State) (who : Requester) (h : RegHit) (v : Word) : Option (Host.Outcome State Fault Refusal) :=
  let n := v.toNat
  if h.is MEAS_STEP.addr && h.high then some (execMeasStepRequest who v s)
  else if h.is MEAS_OFFS.addr && s.mayWrite who h then some (execMeasOffsWrite v s)
  else if h.is SWC_EPOCH_TGT.addr && h.high then some (execEpochArm who v s)
  else if h.is QPC_DB.addr then some (execQpcDoorbell who (n / 2 ^ 15) (n % 2 ^ 15) s)
  else if h.is NRG_CMD.addr && bitOf n 0 then some (execNrgTestRequest who s)
  else if h.is MIN_TEST.addr then some (execMinTestArm who v s)
  else if h.is FLT_WDOG.addr then some (execWatchdogRestart who v s)
  else if h.is MCP_REQ_DB.addr then some (execMcpReqDoorbell who (n % 16) s)
  else if h.is MCP_RPL_RDY.addr then some (execMcpRplRdyClear who (n % 16) s)
  else if h.is MCP_NTC_TAIL.addr then some (execMcpNtcTailWrite who (n % 16) s)
  else if h.is EZL_CTL.addr && bitOf n 31 && !s.flag EZL_CTL.EN then some (execLinkEnable who v s)
  else if h.is EZL_CTL.addr && !bitOf n 31 && s.flag EZL_CTL.EN then some (execPeerRemoved (some (who, v)) s)
  else none

/-- What follows a permitted write of the plain fields of a register that has commands beside them: SRC and RUN of MEAS_CTL,
EN of an engine queue, CLR of a monitor. -/
def State.mixedEffects (s : State) (who : Requester) (h : RegHit) (v : Word) : State :=
  let n := v.toNat
  if !s.mayWrite who h then s
  else if h.is MEAS_CTL.addr then
    let s := after (execMeasSrcWrite (extractBits n 7 4) s) s
    if bitOf n 31 then after (execMeasRunSet s) s else s
  else if h.is (EWQ_QCTL.addr 0) then after (if bitOf n 31 then execEwqEnable who h.i s else execEwqDisable who h.i s) s
  else if h.is (PMC_BW_CTL.addr 0) && bitOf n 30 then after (execMonitorClear who h.i s) s
  else s

/-- A 32-bit write, whatever its register: the command it starts, or its plain fields. -/
def State.writeAny (s : State) (who : Requester) (addr : Nat) (v : Word) : State :=
  match findReg addr with
  | none => s.plainWrite who addr 4 v
  | some h =>
    match (s.routeCommand who h v).or ((s.routeIndexed who h v).or (s.routeSingle who h v)) with
    | some o => after o s
    | none => (s.plainWrite who addr 4 v).mixedEffects who h v

/-- The answers that a register access sends to a requester on the module's own interconnect. -/
def isRegAnswer : Output → Bool
  | .regValue .. | .regDone .. | .regError .. => true
  | _ => false

/-- A write whose answer takes another path: a packet's reply, or a PCIe completion. -/
def State.quietWrite (s : State) (who : Requester) (addr : Nat) (v : Word) : State :=
  ((s.onOut fun _ => []).writeAny who addr v).onOut fun l => l.filter (!isRegAnswer ·) ++ s.out

/-- R42: whether any of `n` words from an address belongs to a register that a boundary changes. -/
def anyBoundaryRegister (addr : Nat) : Nat → Bool
  | 0 => false
  | n + 1 => boundaryRegister addr || anyBoundaryRegister (addr + 4) n

/-- An access to a run of words waits for the end of the boundary window if it touches what the boundary changes. -/
def State.orHoldAccess (s : State) (i : Instr) (addr n : Nat) (f : State → State) : State :=
  if anyBoundaryRegister addr n then s.orHold i f else f s

end Sys2Proof.Machine
end

