-- ==== Sys2Proof/Machine/Registers.lean ====
section
/-! DEFINITION. The register accesses (R5–R17, R437, R471, R594) and the host's memory requests to the direct port (R370). -/

set_option Elab.async false

namespace Sys2Proof.Machine

def execPlainRegisterWrite (who : Requester) (addr width : Nat) (value : Word) (s : State) : Host.Outcome State Fault Refusal :=
  onData s fun s => s.orHoldAccess (.plainRegisterWrite who addr width value) addr 1 (·.plainWrite who addr width value)

def execRcRegisterRead (who : Requester) (addr width : Nat) (s : State) : Host.Outcome State Fault Refusal :=
  onSoc s fun s => s.orHoldAccess (.rcRegisterRead who addr width) addr 1 (·.readRegister who addr width)

def execLowWordRead (who : Requester) (addr : Nat) (s : State) : Host.Outcome State Fault Refusal :=
  onSoc s fun s => s.orHoldAccess (.lowWordRead who addr) addr 1 (·.readRegister who addr 4)

/-- R15: if the address is assigned after all, the access is an ordinary one: a read, or a write of 0. -/
def execUnassignedBlockAccess (who : Requester) (addr : Nat) (write : Bool) (s : State) : Host.Outcome State Fault Refusal :=
  onSoc s fun s =>
    if !assigned addr then s.unassignedAccess who addr write
    else s.orHoldAccess (.unassignedBlockAccess who addr write) addr 1 fun s =>
      if write then s.writeAny who addr 0 else s.readRegister who addr 4

/-- R471: if the domain is On after all, the access is an ordinary one: a read, or a write of 0. -/
def execOffDomainAccess (who : Requester) (addr : Nat) (write : Bool) (s : State) : Host.Outcome State Fault Refusal :=
  onSoc s fun s => s.orHoldAccess (.offDomainAccess who addr write) addr 1 fun s =>
    if write then s.writeAny who addr 0 else s.readRegister who addr 4

/-- R594. -/
def execRwtFieldWrite (who : Requester) (addr : Nat) (value : Word) (s : State) : Host.Outcome State Fault Refusal :=
  onSoc s fun s => s.orHoldAccess (.rwtFieldWrite who addr value) addr 1 fun s =>
    s.commandWrite who addr value fun s => s.rwtProposal addr value

/-! The direct host (R16, R17). -/

/-- R16: a denied access: a fault record, all ones. -/
def State.denyDirect (s : State) (offset : Nat) (write : Bool) : State :=
  (s.fault { cls := 2, code := 0x81, severity := 1, source := 0x60, addr := offset }).emit
    (.direct (if write then .done else .data 4 0xFFFFFFFF))

/-- An RWT field of the register at an address. -/
def holdsRwt (addr : Nat) : Bool :=
  match findReg addr with
  | some h => h.row.fields.any (·.acc == .rwt)
  | none => false

/-- R17: the block and register may be written by a management Register Write (R437). -/
def managementMayWrite (addr : Nat) : Bool :=
  match findReg addr with
  | some h => managementWrites h
  | none => match blockNumber addr with | some n => !([0x00, 0x0B, 0x0C, 0x0D, 0x08, 0x09].contains n) | none => false

/-- R17: one access through PF1 BAR2. An access to a domain that is not On is counted (R471) where the entry grants the direct
host register reads, and not where R17 denies it whatever the domain (DESIGN CHOICE, log 140). -/
def State.directHostAccess (s : State) (offset : Nat) (write : Bool) (v : Word) : State :=
  let addr := 0x00F000000000 + offset
  if offset % 4 ≠ 0 || 0x1000000 ≤ offset then s.denyDirect offset write
  else match s.reach addr 4 with
  | .badSize | .unassigned => s.denyDirect offset write
  | .off b d =>
    if bitOf s.directRights 2 then (s.offAccess b d).denyDirect offset write else s.denyDirect offset write
  | .reached =>
    if !write then
      if bitOf s.directRights 2 then (s.readReg .directHost addr).2.emit (.direct (.data 4 ((s.readReg .directHost addr).1.setWidth 64)))
      else s.denyDirect offset write
    else if !(bitOf s.directRights 2 && bitOf s.directRights 3) then s.denyDirect offset write
    else if holdsRwt addr then s.emit (.direct .done)
    else if !managementMayWrite addr then s.denyDirect offset write
    else (s.quietWrite .directHost addr v).emit (.direct .done)

def execDirectHostRegisterAccess (offset : Nat) (write : Bool) (value : Word) (s : State) : Host.Outcome State Fault Refusal :=
  onData s fun s => s.orHoldAccess (.directHostRegisterAccess offset write value) (0x00F000000000 + offset) 1
    (·.directHostAccess offset write value)

/-! Memory requests of the host (R370, R371, Table 14.4). -/

/-- Where a memory address falls: function, BAR offset in configuration space (0x30 for the expansion ROM), and place in it. -/
def State.barHit (s : State) (addr : Nat) : Option (Nat × Nat × Nat) :=
  let rom := s.cfgWord 0 0x30
  if s.memorySpace 0 && bitOf rom 0 && rom / 2 ^ 18 * 2 ^ 18 ≤ addr && addr < rom / 2 ^ 18 * 2 ^ 18 + 2 ^ 18 then
    some (0, 0x30, addr % 2 ^ 18)
  else
    (bars.find? fun b =>
      let base := s.cfgWord b.1 (b.2.1 + 4) * 2 ^ 32 + s.cfgWord b.1 b.2.1 / 16 * 16
      s.memorySpace b.1 && s.fnState b.1 != fnReset && base / b.2.2 * b.2.2 ≤ addr && addr < base / b.2.2 * b.2.2 + b.2.2).map
      fun b => (b.1, b.2.1, addr % b.2.2)

/-- The MSI-X table of a function: its BAR, its place there, its size in bytes; and its pending bits. -/
def msixTable (f : Nat) : Nat × Nat × Nat := if f = 0 then (0x10, 0x2000, 16 * 129) else (0x20, 0, 16 * 4)
def msixPba (f : Nat) : Nat × Nat × Nat := if f = 0 then (0x10, 0x3000, 24) else (0x20, 0x800, 8)

/-- Whether a place of a BAR lies in a table. -/
def inTable (t : Nat × Nat × Nat) (bar place : Nat) : Bool := t.1 == bar && t.2.1 ≤ place && place < t.2.1 + t.2.2

/-- A read of one word of a BAR. -/
def State.barRead (s : State) (f bar place : Nat) : Nat × State :=
  if bar = 0x30 then (leNat ((List.range 4).map fun i => Config.expansionRom (place + i)), s)
  else if inTable (msixTable f) bar place then (s.readMsix f (place - (msixTable f).2.1), s)
  else if inTable (msixPba f) bar place then (s.readPba f (place - (msixPba f).2.1), s)
  else if f = 0 then (if place < 0x1000 then s.readNvme place else 0, s)
  else if bar = 0x10 then
    let a := 0x00F000000000 + 0x0D * 0x10000 + place
    ((s.readReg .directHost a).1.toNat, (s.readReg .directHost a).2)
  else (0, s)

/-- A write of one word of a BAR. -/
def State.barWrite (s : State) (f bar place v : Nat) : State :=
  if bar = 0x30 then s
  else if inTable (msixTable f) bar place then s.writeMsix f (place - (msixTable f).2.1) v
  else if f = 0 then
    if place < 0x1000 then s.writeNvme place v
    else if 0x1000 ≤ place && place < 0x1408 then s.nvmeDoorbell ((place - 0x1000) / 4) v
    else s
  else if bar = 0x10 then s.quietWrite .directHost (0x00F000000000 + 0x0D * 0x10000 + place) (BitVec.ofNat 32 v)
  else s

/-- R370: an access that meets no rule of the BARs. -/
def State.badBarAccess (s : State) (place width : Nat) (write : Bool) : State :=
  (s.plainFault 2 1 0x60 place).emit (.direct (if write then .done else .data width (BitVec.ofNat 64 (2 ^ (8 * width) - 1))))

/-- R370: a memory request of `width` bytes. -/
def State.barAccess (s : State) (addr width : Nat) (write : Bool) (v : DWord) : State :=
  match s.barHit addr with
  | none => s.emit (.direct .unsupported)
  | some (f, bar, place) =>
    if f = 1 && bar = 0x18 then
      (if width = 4 && place % 4 = 0 then s.directHostAccess place write (v.setWidth 32) else s.badBarAccess place width write)
    else if width = 4 && place % 4 = 0 then
      if write then (s.barWrite f bar place (v.toNat % 2 ^ 32)).emit (.direct .done)
      else (s.barRead f bar place).2.emit (.direct (.data 4 (BitVec.ofNat 64 (s.barRead f bar place).1)))
    else if width = 8 && place % 8 = 0 && inTable (msixTable f) bar place then
      if write then ((s.barWrite f bar place (v.toNat % 2 ^ 32)).barWrite f bar (place + 4) (v.toNat / 2 ^ 32)).emit (.direct .done)
      else s.emit (.direct (.data 8 (BitVec.ofNat 64 ((s.barRead f bar place).1 + (s.barRead f bar (place + 4)).1 * 2 ^ 32))))
    else s.badBarAccess place width write

/-- The register address that a memory request reaches, if it reaches one. -/
def State.barRegister (s : State) (addr : Nat) : Nat :=
  match s.barHit addr with
  | some (1, 0x18, place) => 0x00F000000000 + place
  | _ => 0

def execBarAccess (addr width : Nat) (write : Bool) (value : DWord) (s : State) : Host.Outcome State Fault Refusal :=
  onData s fun s =>
    if !s.flag DPT_STAT.UP then s
    else s.orHoldAccess (.barAccess addr width write value) (s.barRegister addr) 1 (·.barAccess addr width write value)

/-! Management register access (R437). -/

/-- The address that a request starts at, for the boundary window. -/
def State.callRegister (s : State) (slot tag : Nat) : Nat × Nat :=
  match s.call slot tag with
  | some c => match registerSpan c.params 1008 with | .ok a => a | .error _ => (0, 0)
  | none => (0, 0)

def execRegisterRead (slot tag : Nat) (s : State) : Host.Outcome State Fault Refusal :=
  onSoc s fun s => s.orHoldAccess (.registerRead slot tag) (s.callRegister slot tag).1 (s.callRegister slot tag).2 fun s =>
    s.runCall slot tag 0x100 fun c s =>
      match registerSpan c.params 1008 with
      | .error st => s.reply c st
      | .ok (a, n) =>
        let (l, e, s) := s.readWords a 0 n
        s.reply c (if e.isSome then 0x105 else 0) (firstErr e ++ l)

/-- R437: the words in order, up to the first that fails: its index. -/
def State.writeWords (s : State) (addr i : Nat) : Nat → Bytes → Option Nat × State
  | 0, _ => (none, s)
  | n + 1, bs =>
    match s.reach addr 4 with
    | .reached => (s.quietWrite .ronhenko addr (BitVec.ofNat 32 (leNat (bs.take 4)))).writeWords (addr + 4) (i + 1) n (bs.drop 4)
    | .off b d => (some i, s.offAccess b d)
    | .badSize | .unassigned => (some i, s)

def execRegisterWrite (slot tag : Nat) (s : State) : Host.Outcome State Fault Refusal :=
  onData s fun s => s.orHoldAccess (.registerWrite slot tag) (s.callRegister slot tag).1 (s.callRegister slot tag).2 fun s =>
    s.runCall slot tag 0x200 fun c s =>
      match registerSpan c.params 64 with
      | .error st => s.reply c st
      | .ok (a, n) =>
        if (List.range n).any fun i => holdsRwt (a + 4 * i) then s.reply c 0x203
        else if (List.range n).any fun i => !managementMayWrite (a + 4 * i) then s.reply c 0x303
        else
          let (e, s) := s.writeWords a 0 n (c.params.drop 8)
          s.reply c (if e.isSome then 0x105 else 0) (firstErr e)

end Sys2Proof.Machine
end

