-- ==== Sys2Proof/Machine/Cores.lean ====
section
/-! DEFINITION. The accesses of the cores (R505, R506, R512), to memory and to registers, and reads of their own counters (R575,
R578). -/

set_option Elab.async false

namespace Sys2Proof.Machine

/-- R578: mcounteren of a core of partition `p`, as Ronhenko's monitor keeps it: TM (bit 1) is 1; CY, IR and HPM3 to HPM10 (bits
0, 2 and 3 to 10) equal PEN. -/
def State.mcounteren (s : State) (p : Nat) : Nat := if s.counterRead p then 0x7FF else 2

/-- R575: the value of a core's counter. The time CSR is the time counter divided by 10 (Table 21.2); cycles and retired
instructions are not modelled, and read as free numbers (log 146). -/
def State.coreCounter (s : State) (core k : Nat) : DWord × State :=
  if k = 1 then (BitVec.ofNat 64 (s.now / 10), s)
  else if k = 0 ∨ k = 2 then (BitVec.ofNat 64 s.draw.1, s.draw.2)
  else (((s.pmc.hpm.find? fun h => h.core == core && h.k == k).map (·.num)).getD 0, s)

/-- R578: whether a core may read a counter: Ronhenko's cores any that a core has, a partition's as mcounteren allows. -/
def State.counterEnabled (s : State) (core k : Nat) : Bool :=
  match s.clusterOwner (core / 8) with
  | some p => bitOf (s.mcounteren p) k
  | none => Decidable.decide (k < 11)

/-- R578: a core reads one of its counters. A counter whose bit of mcounteren is 0, or that no core has, raises an
illegal-instruction exception. -/
def State.readCounter (s : State) (core k : Nat) : State :=
  if s.coreHeld core then s
  else if s.counterEnabled core k then (s.coreCounter core k).2.emit (.core core (.data (leBytes 8 (s.coreCounter core k).1.toNat)))
  else s.emit (.core core .illegalInstruction)

/-- A core's store to a register: a whole word does what a write of the register does, with the command that it starts (R7,
R589); another size is turned away (R5). -/
def State.coreWrite (s : State) (who : Requester) (a : CoreAccess) : State :=
  let v : Word := BitVec.ofNat 32 (leNat a.data)
  if a.len = 4 then s.writeAny who a.addr v else s.writeRegister who a.addr a.len v

/-- R505: the guard of a partition's cluster stops a register access that no owning chapter grants the partition. -/
def State.guardStops (s : State) (who : Requester) (a : CoreAccess) : Bool :=
  match who with
  | .partition _ =>
    match findReg a.addr with
    | some h => if a.kind = .store then !s.mayWrite who h else !s.mayRead who h
    | none => true
  | _ => false

/-- A core's access: within one line, its data as long as it says. -/
def State.coreAccess (s : State) (core : Nat) (a : CoreAccess) : State :=
  let a := { a with len := min a.len (64 - a.addr % 64), data := a.data.take (min a.len (64 - a.addr % 64)) }
  match s.corePath core a.addr with
  | .held => s
  | .guarded => s.guardFault core a.addr
  | .register who =>
    if s.guardStops who a then s.guardFault core a.addr
    else match a.kind with
    | .store => (s.coreWrite who a).runJobs
    | _ => s.readRegister who a.addr a.len
  | .uncached => s.uncachedAccess core a
  | .cached => s.cachedAccess core a

/-- A core's access, or a read of a counter. An access to a register that a boundary changes waits for the end of the boundary
window (R42). -/
def execCoreAccess (core : Nat) (access : CoreAccess) (s : State) : Host.Outcome State Fault Refusal :=
  onSoc s fun s =>
    if access.kind = .counter then s.readCounter core access.addr
    else s.orHoldAccess (.coreAccess core access) access.addr 1 (·.coreAccess core access)

end Sys2Proof.Machine
end

