-- ==== Sys2Proof/Machine/HostIo.lean ====
section
/-! DEFINITION. The I/O commands of Table 3.2, the grants a waiting command takes, and what ends a controller's commands
(chapter Host I/O Semantics). -/

set_option Elab.async false

namespace Sys2Proof.Machine

/-- R75: a Flush. The broadcast NSID stands for every namespace of the controller that this module leads: with none it
completes, and what the first of them meets stands for all (log 147). -/
def State.flush (s : State) (e : IoEntry) : State :=
  if e.nsid = 0xFFFFFFFF then
    let mine := s.host.namespaces.filter fun n => !n.deleted && n.attached.contains e.key.ctrl && s.leads n.group
    match mine with
    | [] => s.refuse e ((s.ioCheck e).getD (if s.sanitizeHolds then stNotReady else stOk))
    | ns :: _ =>
      match s.admission { e with nsid := ns.nsid } with
      | .error st => s.refuse e st
      | .ok _ => s.enter { s.newCommand e .flush ns with writeBack := mine.any (·.writeBack) }
  else match s.admission e with
  | .error st => s.refuse e st
  | .ok ns => s.enter (s.newCommand e .flush ns)

def execFlush (e : IoEntry) (s : State) : Host.Outcome State Fault Refusal := onData s fun s => s.flush e

/-- R21, R66, R72, R273: a Write of up to 512 blocks. -/
def execWrite (e : IoEntry) (r : IoRange) (buffer : HostBuffer) (s : State) : Host.Outcome State Fault Refusal :=
  onData s fun s => s.acceptRange e .write r buffer 512 true

/-- R24: a Read of up to 512 blocks. -/
def execRead (e : IoEntry) (r : IoRange) (s : State) : Host.Outcome State Fault Refusal :=
  onData s fun s => s.acceptRange e .read r .remote 512 false

/-- R47: a Compare of up to 512 blocks. -/
def execCompare (e : IoEntry) (r : IoRange) (buffer : HostBuffer) (s : State) : Host.Outcome State Fault Refusal :=
  onData s fun s => s.acceptRange e .compare r buffer 512 false

/-- R222: Write Zeroes of up to 65,536 blocks. -/
def execWriteZeroes (e : IoEntry) (r : IoRange) (s : State) : Host.Outcome State Fault Refusal :=
  onData s fun s => s.acceptRange e .writeZeroes r .remote 65536 true

/-- R47: Verify of up to 65,536 blocks. -/
def execVerify (e : IoEntry) (r : IoRange) (s : State) : Host.Outcome State Fault Refusal :=
  onData s fun s => s.acceptRange e .verify r .remote 65536 false

/-- R222: Dataset Management of up to 256 ranges; without Deallocate its hints are accepted and ignored. -/
def execDatasetManagement (e : IoEntry) (ranges : List BlockRange) (deallocate : Bool) (s : State) : Host.Outcome State Fault Refusal :=
  onData s fun s =>
    match s.admission e with
    | .error st => s.refuse e st
    | .ok ns =>
      if 256 < ranges.length then s.refuse e stInvalidField
      else if deallocate && ranges.any (fun r => decide (ns.blocks < r.first + r.count)) then s.refuse e stLbaRange
      else if deallocate && (s.reservationNow ns).conflicts (s.hostOf e.key.ctrl) true then s.refuse e stResvConflict
      else s.enter { s.newCommand e .dsm ns with
        ranges := ranges
        deallocate := deallocate
        places := if deallocate then ranges.flatMap (s.placesOf ns) else [] }

/-- R52: the reservation commands share their way in; `ok` says that the command's own fields are. -/
def State.acceptReservation (s : State) (e : IoEntry) (kind : IoKind) (ok : Bool) (q : Option ResvRequest) : State :=
  match s.admission e with
  | .error st => s.refuse e st
  | .ok ns => if ok then s.enter { s.newCommand e kind ns with resv := q } else s.refuse e stInvalidField

def execReservationRegister (e : IoEntry) (action : Nat) (crkey nrkey : DWord) (s : State) : Host.Outcome State Fault Refusal :=
  onData s fun s => s.acceptReservation e .resvRegister (action ≤ 2) (some (.register action crkey nrkey))

/-- Table 3.2: the extended data structure only. -/
def execReservationReport (e : IoEntry) (extended : Bool) (s : State) : Host.Outcome State Fault Refusal :=
  onData s fun s => s.acceptReservation e .resvReport extended none

/-- R52: Acquire, Preempt, or Preempt and Abort. -/
def execReservationAcquire (e : IoEntry) (action rtype : Nat) (crkey prkey : DWord) (s : State) : Host.Outcome State Fault Refusal :=
  onData s fun s => s.acceptReservation e .resvAcquire true (some (.acquire action rtype crkey prkey))

def execReservationRelease (e : IoEntry) (action rtype : Nat) (crkey : DWord) (s : State) : Host.Outcome State Fault Refusal :=
  onData s fun s => s.acceptReservation e .resvRelease true (some (.release action rtype crkey))

/-- Table 3.1: MSRC 127, MSSRL 512, MCL 16,384. -/
def copyWithinLimits (sources : List BlockRange) : Bool :=
  1 ≤ sources.length && sources.length ≤ 128 && sources.all (fun r => 1 ≤ r.count && r.count ≤ 512) &&
  (sources.map (·.count)).foldl (· + ·) 0 ≤ 16384

/-- R67: Copy within one namespace. -/
def execCopy (e : IoEntry) (sources : List BlockRange) (dest : Nat) (s : State) : Host.Outcome State Fault Refusal :=
  onData s fun s =>
    match s.admission e with
    | .error st => s.refuse e st
    | .ok ns =>
      let range : BlockRange := ⟨dest, (sources.map (·.count)).foldl (· + ·) 0⟩
      if !copyWithinLimits sources || sources.any (fun r => rangesMeet r range) then s.refuse e stInvalidField
      else if (range :: sources).any (fun r => decide (ns.blocks < r.first + r.count)) then s.refuse e stLbaRange
      else if (s.reservationNow ns).conflicts (s.hostOf e.key.ctrl) true || (s.reservationNow ns).conflicts (s.hostOf e.key.ctrl) false then
        s.refuse e stResvConflict
      else s.enter { s.newCommand e .copy ns with
        range := range
        ranges := sources
        places := s.placesOf ns range
        srcPlaces := sources.flatMap (s.placesOf ns) }

/-- R50. -/
def execCommandSlotGrant (key : CmdKey) (s : State) : Host.Outcome State Fault Refusal := onData s fun s => s.trySlot key

/-- R66, R67. -/
def execRangeLockGrant (key : CmdKey) (s : State) : Host.Outcome State Fault Refusal := onData s fun s => s.tryLock key

/-- R273. -/
def execDirtyRoomGrant (key : CmdKey) (s : State) : Host.Outcome State Fault Refusal := onData s fun s => s.tryRoom key

/-- R70: a read that waited for held copies takes those that have become durable. -/
def execReadDurableResume (key : CmdKey) (s : State) : Host.Outcome State Fault Refusal :=
  onData s fun s =>
    match s.command key with
    | none => s
    | some c =>
      match s.namespace c.nsid with
      | none => s
      | some ns =>
        let ready := c.awaits.filterMap fun (i, id) => ((getBy HeldCopy.id id s.store.copies).filter (·.durable)).map fun h => (i, h)
        let s := s.onCommand key fun c => { c with
          awaits := c.awaits.filter fun a => !(ready.any (·.1 == a.1))
          got := ready.map (fun (i, h) => (i, s.copyPlain ns h)) ++ c.got }
        (s.finishRead key).freeCopies

/-- R78: a controller is reset; `ends` when its cause also ends the association (R77). -/
def execControllerReset (ctrl : Nat) (ends : Bool) (s : State) : Host.Outcome State Fault Refusal :=
  onData s fun s => s.resetController ctrl ends

/-- R77: the keep-alive timer of a controller that runs one expires: KATO milliseconds since it last started. -/
def execKeepAliveExpiry (ctrl : Nat) (s : State) : Host.Outcome State Fault Refusal :=
  onData s fun s =>
    match s.controller ctrl with
    | some c => if c.kato ≠ 0 && c.kaAt + c.kato * 10 ^ 6 ≤ s.now then s.resetController ctrl true else s
    | none => s

/-- R81: every completion has been sent after a shutdown notification. -/
def execShutdownComplete (ctrl : Nat) (s : State) : Host.Outcome State Fault Refusal :=
  onData s fun s =>
    match s.controller ctrl with
    | some c =>
      if c.shst = 1 && !(s.host.commands.any fun h => h.key.ctrl == ctrl) then s.onController ctrl fun c => { c with shst := 2 } else s
    | none => s

end Sys2Proof.Machine
end

