-- ==== Sys2Proof/Machine/Resets.lean ====
section
/-! DEFINITION. The boundary and the end of its window (R41, R42), the resets (R12), the memory fill (R540) and the root
clock's fault (R29). -/

set_option Elab.async false

namespace Sys2Proof.Machine

/-- An event held over the boundary window takes place. -/
def State.replay (s : State) (i : Instr) : State :=
  match i with
  | .frameAdmission f => after (execFrameAdmission f s) s
  | .laneFrameStart port lane => after (execLaneFrameStart port lane s) s
  | .wheelSlotChange port => after (execWheelSlotChange port s) s
  | .gateEntryChange port => after (execGateEntryChange port s) s
  | .epochArm who v => after (execEpochArm who v s) s
  | .ftWriteShadow who idx => after (execFtWriteShadow who idx s) s
  | .ftReadActive who idx => after (execFtReadActive who idx s) s
  | .ftReadShadow who idx => after (execFtReadShadow who idx s) s
  | .gateSwitchoverArm who port v => after (execGateSwitchoverArm who port v s) s
  | .plainRegisterWrite who a w v => after (execPlainRegisterWrite who a w v s) s
  | .rcRegisterRead who a w => after (execRcRegisterRead who a w s) s
  | .lowWordRead who a => after (execLowWordRead who a s) s
  | .unassignedBlockAccess who a w => after (execUnassignedBlockAccess who a w s) s
  | .offDomainAccess who a w => after (execOffDomainAccess who a w s) s
  | .rwtFieldWrite who a v => after (execRwtFieldWrite who a v s) s
  | .directHostRegisterAccess o w v => after (execDirectHostRegisterAccess o w v s) s
  | .barAccess a n w v => after (execBarAccess a n w v s) s
  | .registerRead slot tag => after (execRegisterRead slot tag s) s
  | .registerWrite slot tag => after (execRegisterWrite slot tag s) s
  | .coreAccess core a => after (execCoreAccess core a s) s
  | _ => s

/-- R42: the window ends; gates show their new states, and held events follow in the order they came. -/
def State.endWindow (s : State) : State :=
  let held := s.clock.held
  let s := (s.runTo s.clock.windowEnd).onClock fun c => { c with windowOpen := false, held := [] }
  ((s.each (List.range 4) fun p s => s.showGates p).each held fun i s => s.replay i).retryWaiting

/-- R41. A boundary that comes while the window before it is open ends that window first. -/
def execMeasureBoundary (s : State) : Host.Outcome State Fault Refusal :=
  onData s fun s =>
    if !s.gridRuns then s
    else (if s.clock.windowOpen then s.endWindow else s).boundary.ladderAtBoundary.dueAction

def execBoundaryWindowEnd (s : State) : Host.Outcome State Fault Refusal :=
  onData s fun s => if s.clock.windowOpen then s.endWindow else s

/-- R32, R40: what one cycle of the PTP domain brings while no command waits. A cycle in which the counter first reaches the next
boundary of the grid is that boundary (R41), and one that ends the boundary window ends it (R42; log 2). -/
def State.idle (s : State) : State :=
  let t := s.tick
  if s.running && s.gridRuns && Decidable.decide ((s.measure + 1) * s.measureNs ≤ t.now) then after (execMeasureBoundary s) s
  else if s.running && s.clock.windowOpen && Decidable.decide (s.clock.windowEnd ≤ t.now) then after (execBoundaryWindowEnd s) s
  else t

/-- R12, R566: power applied from Off. After a loss of bias (R385) the history of a parked module is cleared. -/
def execColdReset (s : State) : Host.Outcome State Fault Refusal :=
  onAlways s fun s => (if s.entry.cause = 0 then s.clearHistory else s).coldReset

/-- R12, R493: a module reset. One that follows a power-fail decision re-arms it. -/
def execModuleResetTaken (s : State) : Host.Outcome State Fault Refusal :=
  onAlways s fun s =>
    if s.clock.heldInReset || !s.power.on || s.power.dormant then s
    else if s.flag WFL_STAT.PFD then s.rearmReset else s.moduleReset

/-- R540: the fill ends: sweeps may run (R552), the cores of Ronhenko's clusters are released, the random generator and the
self-tests of the cipher engine have passed, and packets are accepted. -/
def execMemoryFillComplete (s : State) : Host.Outcome State Fault Refusal :=
  onData s fun s =>
    if s.flag MIN_STAT.FILLED then s else
    let s := s.wrs [(MIN_STAT.FILLED, 1), (MIN_STAT.SWEEPING, s.rd MIN_SWEEP.EN), (CIP_STAT.DRBG_OK, 1), (CIP_STAT.KAT_OK, 1),
      (MCP_STAT.READY, 1), (PWR_STAT.MSTATE, 0)]
    s.each ((List.range 8).filter fun c => (s.clusterOwner c).isNone) fun c s => s.wr (CLU_PSTAT.ON c) 0xFF

/-- R29: the event is in the latch, and the module holds itself in module reset. Whether the monitor saw edges is the world's. -/
def execRootClockFault (s : State) : Host.Outcome State Fault Refusal :=
  onAlways s fun s =>
    if s.clock.heldInReset || !s.power.on then s else
    let (n, s) := s.draw
    let s := s.wrs [(CLK_STAT.PLL_LOCK, 0), (CLK_STAT.ROOT_OK, n % 2)]
    let data := (s.reg CLK_STAT.addr).toNat
    s.holdInReset { cls := 7, code := 0x80, severity := 4, source := 1, data := data }

end Sys2Proof.Machine
end

