-- ==== Sys2Proof/Machine/Walk.lean ====
section
/-! DEFINITION. Format NVM, Sanitize, their units, progress records and resumption (R103–R110). -/

set_option Elab.async false

namespace Sys2Proof.Machine

/-- A new long operation in its slot, and its first record, before any change to data or keys (R108). -/
def State.startOperation (s : State) (slot : Nat) (r : ProgressRecord) (key : CmdKey) : State :=
  (s.onAdmin fun a => { a with ops := putBy LongOp.slot ⟨slot, 1, r, none, [], [], some key, false, false⟩ a.ops }).writeProgress slot r

/-- R58, R103: the parameters of a format: the status that refuses it. The module offers protection Type 1 only. -/
def formatCheck (ns : Namespace) (lbaf ses pi : Nat) : Option Nat :=
  if 2 < ses then some stInvalidField
  else if 2 < lbaf || (ses = 2 && !ns.encrypted) || 1 < pi then some stInvalidFormat
  else none

/-- R103: begin a format at the group's lead: new I/O is refused from here on. One format per group (R107, Table 4.13). -/
def State.startFormat (s : State) (key : CmdKey) (ns : Namespace) (lbaf ses : Nat) : State :=
  if s.formatRuns ns.group then s.endAdmin key stFormatInProgress
  else
    let r : ProgressRecord := ⟨0, ses + 1, ns.group, 0, ns.nsid, s.measure, formatUnits ns, 0, lbaf, 0, 0, s.measure⟩
    (s.onNamespace ns.nsid fun n => { n with formatting := true }).startOperation ns.group r key

/-- R58, R103: Format NVM; `pi` is the protection type asked for. -/
def execFormatNvm (key : CmdKey) (nsid lbaf ses pi : Nat) (s : State) : Host.Outcome State Fault Refusal :=
  onData s fun s => s.adminRun key false fun s =>
    if nsid = 0xFFFFFFFF then s.endAdmin key stInvalidField
    else match s.liveNamespace nsid with
    | none => s.endAdmin key stInvalidNamespace
    | some n =>
      match formatCheck n lbaf ses pi with
      | some st => s.endAdmin key st
      | none => s.atLead key 0x80 nsid n.group (leBytes 1 lbaf ++ leBytes 1 ses) fun s => s.startFormat key n lbaf ses

/-- R104 step 1: the peer is asked for the leads it holds (R339). -/
def State.askLeads (s : State) : State :=
  if s.linkUp && s.link.peerLeads ≠ 0 then s.emit (.message 2 (leBytes 1 10 ++ leBytes 1 s.link.peerLeads)) else s

/-- Table 4.13, R104: begin a sanitize: not while a format or a sanitize runs. The peer is asked for its leads (R339), and
the groups it holds are remembered. -/
def State.startSanitize (s : State) (key : CmdKey) (kind flags owpass ovrpat : Nat) : State :=
  if s.formatRuns 8 then s.endAdmin key stSanitizeInProgress
  else if (List.range 8).any s.formatRuns then s.endAdmin key stFormatInProgress
  else
    let r : ProgressRecord := ⟨0, kind, 255, flags, 0, s.measure, s.sanitizeUnits kind, 0, 0, owpass, ovrpat, s.measure⟩
    let s := s.onAdmin fun a => { a with leadsBefore := s.link.peerLeads }
    s.askLeads.startOperation 8 r key

/-- FLAGS of Table 4.12 for AUSE and OIPBP. -/
def sanitizeFlags (ause oipbp : Bool) : Nat := (if ause then 2 else 0) + (if oipbp then 4 else 0)

/-- R104: sanitize commands pass a Failed sanitize, and meet a running one in their own check. -/
def State.sanitizeRun (s : State) (key : CmdKey) (f : State → State) : State := s.adminRun key true f

def execSanitizeBlockErase (key : CmdKey) (ause : Bool) (s : State) : Host.Outcome State Fault Refusal :=
  onData s fun s => s.sanitizeRun key fun s => s.startSanitize key 0x12 (sanitizeFlags ause false) 0 0

/-- R104: OWPASS must be 1 to 4. -/
def execSanitizeOverwrite (key : CmdKey) (ause oipbp : Bool) (owpass ovrpat : Nat) (s : State) : Host.Outcome State Fault Refusal :=
  onData s fun s => s.sanitizeRun key fun s =>
    if owpass = 0 || 4 < owpass then s.endAdmin key stInvalidField
    else s.startSanitize key 0x13 (sanitizeFlags ause oipbp) owpass ovrpat

def execSanitizeCryptoErase (key : CmdKey) (ause : Bool) (s : State) : Host.Outcome State Fault Refusal :=
  onData s fun s => s.sanitizeRun key fun s => s.startSanitize key kindCrypto (sanitizeFlags ause false) 0 0

/-- R104: Exit Failure Mode: accepted only where the failed sanitize had AUSE set. The operation is over then: its record without
bit 3 of FLAGS takes the place of the failed one, here or, where the peer walked it, in a slot of this module's own (log 154). -/
def execSanitizeExitFailureMode (key : CmdKey) (s : State) : Host.Outcome State Fault Refusal :=
  onData s fun s => s.sanitizeRun key fun s =>
    match s.opShown 8 with
    | some (st, r) =>
      if st = 5 then
        if bitOf r.flags 1 then
          let ended := { r with flags := r.flags - r.flags / 8 % 2 * 8 }
          ((s.onAdmin fun a => { a with ops := putBy LongOp.slot ⟨8, 4, ended, some ended, [], [], none, false, false⟩ a.ops }).writeProgress 8 ended
            |>.onLongOp 8 fun o => { o with durable := some o.newest }).endAdmin key stOk
        else s.endAdmin key stSanitizeFailed
      else if st = 4 then s.endAdmin key stOk
      else s.endAdmin key stSanitizeInProgress
    | none => s.endAdmin key stOk

/-- The first unit not complete, from NEXT_UNIT and the units that ended ahead of it. -/
def nextUnit (ahead : List Nat) : Nat → Nat → Nat
  | 0, n => n
  | fuel + 1, n => if ahead.contains n then nextUnit ahead fuel (n + 1) else n

/-- R108: a unit has completed on all its members: its blocks read as deallocated, and a record with NEXT_UNIT advanced is
written, the last one with FLAGS bit 4; bit 3 from the first that follows a failed member write or member (R104, R110). -/
def State.unitDone (s : State) (o : LongOp) (unit : Nat) (failed : Bool) : State :=
  let s := if o.slot = 8 then s.walkSanitizeUnit o.newest.kind unit
    else match s.namespace o.newest.nsid with
    | some ns => s.walkFormatUnit ns unit
    | none => s
  let ahead := o.ahead ++ [unit]
  let next := nextUnit ahead (ahead.length + 1) o.newest.next
  let bad := o.failed || failed
  let s := s.onLongOp o.slot fun o => { o with walking := o.walking.filter (· != unit), ahead := ahead.filter (next ≤ ·), failed := bad }
  if next = o.newest.next then s
  else s.writeProgress o.slot { o.newest with
    next := next
    flags := o.newest.flags ||| (if next = o.newest.units then 16 else 0) ||| (if bad && o.slot = 8 then 8 else 0) }

def execWalkUnitComplete (slot unit : Nat) (failed : Bool) (s : State) : Host.Outcome State Fault Refusal :=
  onData s fun s =>
    match s.longOp slot with
    | some o => if o.walking.contains unit then s.unitDone o unit failed else s
    | none => s

/-- R108, R109: a record is durable: the walk may advance, or, with FLAGS bit 4, the operation ends. An operation of no
units ends with its first record's successor. -/
def State.recordDurable (s : State) (o : LongOp) (r : ProgressRecord) : State :=
  let s := s.onLongOp o.slot fun o => { o with durable := if (o.durable.map (·.seq)).getD 0 ≤ r.seq then some r else o.durable }
  if bitOf r.flags 4 then s.endOperation { o with newest := r }
  else if o.newest.units = 0 && r.seq = o.newest.seq && !s.keyDue o then s.writeProgress o.slot { o.newest with flags := o.newest.flags ||| 16 }
  else s

def execProgressRecordDurable (slot seq : Nat) (s : State) : Host.Outcome State Fault Refusal :=
  onData s fun s =>
    match s.longOp slot, (s.vaultRecords slot).find? (·.seq == seq) with
    | some o, some r => if o.state = 4 || o.state = 5 then s else s.recordDurable o r
    | _, _ => s

/-! Resuming (R109, R415). -/

/-- The fields of a progress record from its 64 bytes (Table 4.12). -/
def progressOf (b : Bytes) : ProgressRecord where
  seq := numAt b 16 8
  kind := numAt b 1 1
  group := numAt b 2 1
  flags := numAt b 3 1
  nsid := numAt b 4 4
  opId := numAt b 8 8
  units := numAt b 24 4
  next := numAt b 28 4
  lbaf := numAt b 32 1
  owpass := numAt b 33 1
  ovrpat := numAt b 36 4
  measure := numAt b 40 8

/-- IV bytes 0 to 3 of a slot's records. -/
def progressHead (slot : Nat) : Bytes := leBytes 1 5 ++ leBytes 1 (if slot = 8 then 255 else slot) ++ leBytes 2 0

/-- Whether a copy's tag verifies under a SEQ. -/
def State.copyVerifies (s : State) (slot : Nat) (block : Bytes) (seq : Nat) : Bool :=
  Config.gcmTag (s.slotKey 1) (progressHead slot ++ (leBytes 8 seq).reverse) [] (block.take 64) == (block.drop 64).take 16

/-- R415: the candidates below 4 × `n` that fall in place `p` of a ring, the highest first: the one under which the tag verifies. -/
def State.searchSeq (s : State) (slot p : Nat) (block : Bytes) : Nat → Option Nat
  | 0 => none
  | n + 1 => if s.copyVerifies slot block (4 * n + p) then some (4 * n + p) else s.searchSeq slot p block n

/-- R109, R415: the SEQ of a copy: where the vault or the peer holds the ring's high-water, one of the eight around it that fall in
the ring (DEDUCED, log 155); else by search of every candidate below 2^32. -/
def State.seqOf (s : State) (slot : Nat) (c : ProgressCopy) : Option Nat :=
  let high := s.progressHigh slot
  if high = 0 then s.searchSeq slot (c.place % 4) c.block (2 ^ 30)
  else ((List.range 8).map fun i => high + 4 - i).find? fun q => q % 4 == c.place % 4 && s.copyVerifies slot c.block q

/-- The record that a copy holds, where its tag verifies. -/
def State.recordIn (s : State) (slot : Nat) (c : ProgressCopy) : Option ProgressRecord :=
  (s.seqOf slot c).map fun q =>
    progressOf (Config.gcmEncrypt (s.slotKey 1) (progressHead slot ++ (leBytes 8 q).reverse) [] (c.block.take 64))

/-- R109: the sets that an operation walks are assembled. -/
def State.walkAssembled (s : State) (slot nsid : Nat) : Bool :=
  if slot = 8 then s.sets.all s.store.assembled.contains else (s.namespace nsid).any fun n => s.store.assembled.contains n.set

/-- R109: the module that leads the operation's group reads its records and resumes the walk at NEXT_UNIT; the namespace
keeps its state until the final record. An operation whose newest record is final is over, or has Failed. A sanitize asks the
peer for its leads again. -/
def execWalkResume (slot : Nat) (found : List ProgressCopy) (s : State) : Host.Outcome State Fault Refusal :=
  onData s fun s =>
    let s := s.yieldWalks
    if 8 < slot || !s.walksHere slot || (s.longOp slot).any (fun o => o.state == 1) then s
    else match newestRecord (s.vaultRecords slot ++ found.filterMap (s.recordIn slot)) with
    | none => s
    | some r =>
      if !s.walkAssembled slot r.nsid then s else
      let ended := bitOf r.flags 4
      let st := if ended then (if bitOf r.flags 3 then 5 else 4) else 1
      let s := (s.raiseHighWater 1 (leNat (progressHead slot)) r.seq).onAdmin fun a => { a with
        records := (slot, r) :: (a.records.filter fun p => p.1 == slot && p.2.seq != r.seq).take 3 ++ a.records.filter fun p => p.1 != slot
        ops := putBy LongOp.slot ⟨slot, st, r, some r, [], [], none, false, bitOf r.flags 3⟩ a.ops }
      if ended then s
      else if slot = 8 then s.askLeads else s.onNamespace r.nsid fun n => { n with formatting := true }

end Sys2Proof.Machine
end

