-- ==== Sys2Proof/Machine/Dispatch.lean ====
section
/-! DEFINITION. Which meaning each command has: one arm per row of the opcode table. -/

namespace Sys2Proof.Machine
open Host

def exec (i : Instr) (s : State) : Host.Outcome State Fault Refusal :=
  match i with
  | .plainRegisterWrite who addr width value => Sys2Proof.Machine.execPlainRegisterWrite who addr width value s
  | .rcRegisterRead who addr width => Sys2Proof.Machine.execRcRegisterRead who addr width s
  | .lowWordRead who addr => Sys2Proof.Machine.execLowWordRead who addr s
  | .unassignedBlockAccess who addr write => Sys2Proof.Machine.execUnassignedBlockAccess who addr write s
  | .directHostRegisterAccess offset write value => Sys2Proof.Machine.execDirectHostRegisterAccess offset write value s
  | .offDomainAccess who addr write => Sys2Proof.Machine.execOffDomainAccess who addr write s
  | .registerRead slot tag => Sys2Proof.Machine.execRegisterRead slot tag s
  | .registerWrite slot tag => Sys2Proof.Machine.execRegisterWrite slot tag s
  | .rwtFieldWrite who addr value => Sys2Proof.Machine.execRwtFieldWrite who addr value s
  | .coldReset => Sys2Proof.Machine.execColdReset s
  | .moduleResetTaken => Sys2Proof.Machine.execModuleResetTaken s
  | .memoryFillComplete => Sys2Proof.Machine.execMemoryFillComplete s
  | .pllLock => Sys2Proof.Machine.execPllLock s
  | .rootClockFault => Sys2Proof.Machine.execRootClockFault s
  | .measureBoundary => Sys2Proof.Machine.execMeasureBoundary s
  | .boundaryWindowEnd => Sys2Proof.Machine.execBoundaryWindowEnd s
  | .measStepRequest who value => Sys2Proof.Machine.execMeasStepRequest who value s
  | .timeStepApply => Sys2Proof.Machine.execTimeStepApply s
  | .measOffsWrite offset => Sys2Proof.Machine.execMeasOffsWrite offset s
  | .measSrcWrite src => Sys2Proof.Machine.execMeasSrcWrite src s
  | .offsetWriteTimeout => Sys2Proof.Machine.execOffsetWriteTimeout s
  | .holdoverExpiry => Sys2Proof.Machine.execHoldoverExpiry s
  | .measRunSet => Sys2Proof.Machine.execMeasRunSet s
  | .flush e => Sys2Proof.Machine.execFlush e s
  | .write e r buffer => Sys2Proof.Machine.execWrite e r buffer s
  | .read e r => Sys2Proof.Machine.execRead e r s
  | .compare e r buffer => Sys2Proof.Machine.execCompare e r buffer s
  | .writeZeroes e r => Sys2Proof.Machine.execWriteZeroes e r s
  | .datasetManagement e ranges deallocate => Sys2Proof.Machine.execDatasetManagement e ranges deallocate s
  | .verify e r => Sys2Proof.Machine.execVerify e r s
  | .reservationRegister e action crkey nrkey => Sys2Proof.Machine.execReservationRegister e action crkey nrkey s
  | .reservationReport e extended => Sys2Proof.Machine.execReservationReport e extended s
  | .reservationAcquire e action rtype crkey prkey => Sys2Proof.Machine.execReservationAcquire e action rtype crkey prkey s
  | .reservationRelease e action rtype crkey => Sys2Proof.Machine.execReservationRelease e action rtype crkey s
  | .copy e sources dest => Sys2Proof.Machine.execCopy e sources dest s
  | .unknownIoOpcode e => Sys2Proof.Machine.execUnknownIoOpcode e s
  | .commandSlotGrant key => Sys2Proof.Machine.execCommandSlotGrant key s
  | .rangeLockGrant key => Sys2Proof.Machine.execRangeLockGrant key s
  | .dirtyRoomGrant key => Sys2Proof.Machine.execDirtyRoomGrant key s
  | .mirrorCopyAccept => Sys2Proof.Machine.execMirrorCopyAccept s
  | .stripPost set stripe => Sys2Proof.Machine.execStripPost set stripe s
  | .memberWriteComplete op => Sys2Proof.Machine.execMemberWriteComplete op s
  | .memberReadComplete op content guardOk refOk appTag => Sys2Proof.Machine.execMemberReadComplete op content guardOk refOk appTag s
  | .readDurableResume key => Sys2Proof.Machine.execReadDurableResume key s
  | .controllerReset ctrl ends => Sys2Proof.Machine.execControllerReset ctrl ends s
  | .keepAliveExpiry ctrl => Sys2Proof.Machine.execKeepAliveExpiry ctrl s
  | .shutdownComplete ctrl => Sys2Proof.Machine.execShutdownComplete ctrl s
  | .firmwareActivation => Sys2Proof.Machine.execFirmwareActivation s
  | .firmwareTrialEnd => Sys2Proof.Machine.execFirmwareTrialEnd s
  | .firmwareTrialTimeout => Sys2Proof.Machine.execFirmwareTrialTimeout s
  | .getLogPage e nsid lid offset length => Sys2Proof.Machine.execGetLogPage e nsid lid offset length s
  | .identify e cns nsid cntid => Sys2Proof.Machine.execIdentify e cns nsid cntid s
  | .abort key => Sys2Proof.Machine.execAbort key s
  | .setFeatures e fid save nsid value => Sys2Proof.Machine.execSetFeatures e fid save nsid value s
  | .getFeatures e fid sel nsid => Sys2Proof.Machine.execGetFeatures e fid sel nsid s
  | .asynchronousEventRequest key => Sys2Proof.Machine.execAsynchronousEventRequest key s
  | .namespaceManagementCreate e nsze ncap lbaf anagrpid => Sys2Proof.Machine.execNamespaceManagementCreate e nsze ncap lbaf anagrpid s
  | .namespaceManagementDelete key nsid => Sys2Proof.Machine.execNamespaceManagementDelete key nsid s
  | .adminCommandForward key status dword0 => Sys2Proof.Machine.execAdminCommandForward key status dword0 s
  | .firmwareImageDownload e offset data => Sys2Proof.Machine.execFirmwareImageDownload e offset data s
  | .firmwareCommitStore key slot action => Sys2Proof.Machine.execFirmwareCommitStore key slot action s
  | .firmwareCommitStoreNext key slot => Sys2Proof.Machine.execFirmwareCommitStoreNext key slot s
  | .firmwareCommitMark key slot => Sys2Proof.Machine.execFirmwareCommitMark key slot s
  | .firmwareCommitActivate key slot => Sys2Proof.Machine.execFirmwareCommitActivate key slot s
  | .namespaceAttach e nsid controllers => Sys2Proof.Machine.execNamespaceAttach e nsid controllers s
  | .namespaceDetach e nsid controllers => Sys2Proof.Machine.execNamespaceDetach e nsid controllers s
  | .keepAlive key => Sys2Proof.Machine.execKeepAlive key s
  | .connect qp cid c => Sys2Proof.Machine.execConnect qp cid c s
  | .propertyGet key offset size => Sys2Proof.Machine.execPropertyGet key offset size s
  | .propertySet key offset size value => Sys2Proof.Machine.execPropertySet key offset size value s
  | .authenticationSend e message => Sys2Proof.Machine.execAuthenticationSend e message s
  | .authenticationReceive e length => Sys2Proof.Machine.execAuthenticationReceive e length s
  | .formatNvm key nsid lbaf ses pi => Sys2Proof.Machine.execFormatNvm key nsid lbaf ses pi s
  | .sanitizeExitFailureMode key => Sys2Proof.Machine.execSanitizeExitFailureMode key s
  | .sanitizeBlockErase key ause => Sys2Proof.Machine.execSanitizeBlockErase key ause s
  | .sanitizeOverwrite key ause oipbp owpass ovrpat => Sys2Proof.Machine.execSanitizeOverwrite key ause oipbp owpass ovrpat s
  | .sanitizeCryptoErase key ause => Sys2Proof.Machine.execSanitizeCryptoErase key ause s
  | .walkUnitComplete slot unit failed => Sys2Proof.Machine.execWalkUnitComplete slot unit failed s
  | .progressRecordDurable slot seq => Sys2Proof.Machine.execProgressRecordDurable slot seq s
  | .walkResume slot found => Sys2Proof.Machine.execWalkResume slot found s
  | .connectionRequest c => Sys2Proof.Machine.execConnectionRequest c s
  | .readyToUse idx => Sys2Proof.Machine.execReadyToUse idx s
  | .connectingTimeout idx => Sys2Proof.Machine.execConnectingTimeout idx s
  | .disconnectRequest idx => Sys2Proof.Machine.execDisconnectRequest idx s
  | .queuePairDrained idx => Sys2Proof.Machine.execQueuePairDrained idx s
  | .inboundRequest qpn psn op ce bad payload => Sys2Proof.Machine.execInboundRequest qpn psn op ce bad payload s
  | .inboundRdmaWrite qpn psn part rkey addr len ce bad payload => Sys2Proof.Machine.execInboundRdmaWrite qpn psn part rkey addr len ce bad payload s
  | .rdmaReadResponse qpn psn ce bad payload => Sys2Proof.Machine.execRdmaReadResponse qpn psn ce bad payload s
  | .readRequestComplete tracker => Sys2Proof.Machine.execReadRequestComplete tracker s
  | .readTrackerGrant idx => Sys2Proof.Machine.execReadTrackerGrant idx s
  | .ackReceived qpn psn => Sys2Proof.Machine.execAckReceived qpn psn s
  | .nakReceived qpn psn kind => Sys2Proof.Machine.execNakReceived qpn psn kind s
  | .ackTimeout idx => Sys2Proof.Machine.execAckTimeout idx s
  | .rnrTimerExpiry idx => Sys2Proof.Machine.execRnrTimerExpiry idx s
  | .cnpReceived qpn => Sys2Proof.Machine.execCnpReceived qpn s
  | .rateStepTimer idx => Sys2Proof.Machine.execRateStepTimer idx s
  | .contextFillComplete transmit pipe => Sys2Proof.Machine.execContextFillComplete transmit pipe s
  | .evictionWritebackComplete transmit pipe idx => Sys2Proof.Machine.execEvictionWritebackComplete transmit pipe idx s
  | .qpcDoorbell who idx tail => Sys2Proof.Machine.execQpcDoorbell who idx tail s
  | .workRequestComplete idx => Sys2Proof.Machine.execWorkRequestComplete idx s
  | .qpcCreate who => Sys2Proof.Machine.execQpcCreate who s
  | .qpcRead who => Sys2Proof.Machine.execQpcRead who s
  | .qpcDestroy who => Sys2Proof.Machine.execQpcDestroy who s
  | .qpcFlush who => Sys2Proof.Machine.execQpcFlush who s
  | .qpcPin who => Sys2Proof.Machine.execQpcPin who s
  | .qpcUnpin who => Sys2Proof.Machine.execQpcUnpin who s
  | .frameAdmission f => Sys2Proof.Machine.execFrameAdmission f s
  | .frameReadComplete frame bad wait => Sys2Proof.Machine.execFrameReadComplete frame bad wait s
  | .resequencerArrival frame => Sys2Proof.Machine.execResequencerArrival frame s
  | .resequencerTimeout dest flow => Sys2Proof.Machine.execResequencerTimeout dest flow s
  | .trackerFree dest => Sys2Proof.Machine.execTrackerFree dest s
  | .pfcPauseReceived port lane cls quanta => Sys2Proof.Machine.execPfcPauseReceived port lane cls quanta s
  | .pauseExpiry port lane cls => Sys2Proof.Machine.execPauseExpiry port lane cls s
  | .pfcWatchdogExpiry port lane cls => Sys2Proof.Machine.execPfcWatchdogExpiry port lane cls s
  | .pfcWatchdogEnd port lane cls => Sys2Proof.Machine.execPfcWatchdogEnd port lane cls s
  | .epochArm who value => Sys2Proof.Machine.execEpochArm who value s
  | .ftWriteShadow who idx => Sys2Proof.Machine.execFtWriteShadow who idx s
  | .ftReadActive who idx => Sys2Proof.Machine.execFtReadActive who idx s
  | .ftReadShadow who idx => Sys2Proof.Machine.execFtReadShadow who idx s
  | .epochDrained => Sys2Proof.Machine.execEpochDrained s
  | .laneFrameStart port lane => Sys2Proof.Machine.execLaneFrameStart port lane s
  | .gateEntryChange port => Sys2Proof.Machine.execGateEntryChange port s
  | .gateSwitchoverArm who port value => Sys2Proof.Machine.execGateSwitchoverArm who port value s
  | .wheelSlotChange port => Sys2Proof.Machine.execWheelSlotChange port s
  | .figWriteNext who set row => Sys2Proof.Machine.execFigWriteNext who set row s
  | .figReadActive who set row => Sys2Proof.Machine.execFigReadActive who set row s
  | .figReadNext who set row => Sys2Proof.Machine.execFigReadNext who set row s
  | .stripeClose set stripe => Sys2Proof.Machine.execStripeClose set stripe s
  | .stripeIdleTimeout set stripe => Sys2Proof.Machine.execStripeIdleTimeout set stripe s
  | .journalBlockWrite set => Sys2Proof.Machine.execJournalBlockWrite set s
  | .journalRecovery set blocks lost => Sys2Proof.Machine.execJournalRecovery set blocks lost s
  | .setAssembly set => Sys2Proof.Machine.execSetAssembly set s
  | .memberFailed set member => Sys2Proof.Machine.execMemberFailed set member s
  | .rebuildStep set => Sys2Proof.Machine.execRebuildStep set s
  | .rebuildStepComplete set stripe => Sys2Proof.Machine.execRebuildStepComplete set stripe s
  | .lostMapWrite block found => Sys2Proof.Machine.execLostMapWrite block found s
  | .lostMapDurable set stripe strip => Sys2Proof.Machine.execLostMapDurable set stripe strip s
  | .journalRehome set drive => Sys2Proof.Machine.execJournalRehome set drive s
  | .repairStep set stripe strip row => Sys2Proof.Machine.execRepairStep set stripe strip row s
  | .scrubStep set stripe => Sys2Proof.Machine.execScrubStep set stripe s
  | .replacementAccept set member => Sys2Proof.Machine.execReplacementAccept set member s
  | .copyBackStep set => Sys2Proof.Machine.execCopyBackStep set s
  | .promenadeStart who set => Sys2Proof.Machine.execPromenadeStart who set s
  | .setCreate who set => Sys2Proof.Machine.execSetCreate who set s
  | .setDelete who set => Sys2Proof.Machine.execSetDelete who set s
  | .promenadeMoveStart nsid ext => Sys2Proof.Machine.execPromenadeMoveStart nsid ext s
  | .promenadeCopyPassEnd nsid ext => Sys2Proof.Machine.execPromenadeCopyPassEnd nsid ext s
  | .promenadeCatchupDone nsid ext => Sys2Proof.Machine.execPromenadeCatchupDone nsid ext s
  | .promenadeOldRangeFree nsid ext => Sys2Proof.Machine.execPromenadeOldRangeFree nsid ext s
  | .promenadeFinalEpoch set => Sys2Proof.Machine.execPromenadeFinalEpoch set s
  | .promenadeDrainDone set => Sys2Proof.Machine.execPromenadeDrainDone set s
  | .energyMeasurement vbankSum => Sys2Proof.Machine.execEnergyMeasurement vbankSum s
  | .chargeComplete => Sys2Proof.Machine.execChargeComplete s
  | .chargeLevelDrop => Sys2Proof.Machine.execChargeLevelDrop s
  | .nrgTestRequest who => Sys2Proof.Machine.execNrgTestRequest who s
  | .capacityTestStart => Sys2Proof.Machine.execCapacityTestStart s
  | .capacityTestDone cap esr => Sys2Proof.Machine.execCapacityTestDone cap esr s
  | .storeFailure unbalanced => Sys2Proof.Machine.execStoreFailure unbalanced s
  | .powerFailDecision => Sys2Proof.Machine.execPowerFailDecision s
  | .quiesceComplete => Sys2Proof.Machine.execQuiesceComplete s
  | .destageSeal whole extra => Sys2Proof.Machine.execDestageSeal whole extra s
  | .decisionResetTimer => Sys2Proof.Machine.execDecisionResetTimer s
  | .vaultSelfCheck => Sys2Proof.Machine.execVaultSelfCheck s
  | .vaultRestore badTags => Sys2Proof.Machine.execVaultRestore badTags s
  | .sectionSummary peer => Sys2Proof.Machine.execSectionSummary peer s
  | .summaryTimeout => Sys2Proof.Machine.execSummaryTimeout s
  | .restoreInstall group fromPeer => Sys2Proof.Machine.execRestoreInstall group fromPeer s
  | .vaultRetire => Sys2Proof.Machine.execVaultRetire s
  | .vaultFault => Sys2Proof.Machine.execVaultFault s
  | .mapMirrorCopy pages => Sys2Proof.Machine.execMapMirrorCopy pages s
  | .linkEnable who value => Sys2Proof.Machine.execLinkEnable who value s
  | .linkTrained lanes => Sys2Proof.Machine.execLinkTrained lanes s
  | .trainingTimeout => Sys2Proof.Machine.execTrainingTimeout s
  | .trainingRetry => Sys2Proof.Machine.execTrainingRetry s
  | .fastRetrain => Sys2Proof.Machine.execFastRetrain s
  | .peerRemoved cleared => Sys2Proof.Machine.execPeerRemoved cleared s
  | .linkAckReceived h gap room => Sys2Proof.Machine.execLinkAckReceived h gap room s
  | .linkAckTimer => Sys2Proof.Machine.execLinkAckTimer s
  | .mirrorCopyReceived h b => Sys2Proof.Machine.execMirrorCopyReceived h b s
  | .windowWriteReceived h payload => Sys2Proof.Machine.execWindowWriteReceived h payload s
  | .messageReceived h payload => Sys2Proof.Machine.execMessageReceived h payload s
  | .stateCopyReceived h copy last => Sys2Proof.Machine.execStateCopyReceived h copy last s
  | .commitMarkerReceived h counts => Sys2Proof.Machine.execCommitMarkerReceived h counts s
  | .commitReceived h => Sys2Proof.Machine.execCommitReceived h s
  | .resendRequestReceived h => Sys2Proof.Machine.execResendRequestReceived h s
  | .resumeReceived h values => Sys2Proof.Machine.execResumeReceived h values s
  | .messageSendPost who chan post => Sys2Proof.Machine.execMessageSendPost who chan post s
  | .messageReceivePost who chan post => Sys2Proof.Machine.execMessageReceivePost who chan post s
  | .messageWithdraw chan => Sys2Proof.Machine.execMessageWithdraw chan s
  | .followLost => Sys2Proof.Machine.execFollowLost s
  | .leadSilenceTimeout => Sys2Proof.Machine.execLeadSilenceTimeout s
  | .leaseRenewal => Sys2Proof.Machine.execLeaseRenewal s
  | .renewalComplete group granted reads => Sys2Proof.Machine.execRenewalComplete group granted reads s
  | .leaseExpiry group => Sys2Proof.Machine.execLeaseExpiry group s
  | .peerSuspect => Sys2Proof.Machine.execPeerSuspect s
  | .cutInWaitEnd => Sys2Proof.Machine.execCutInWaitEnd s
  | .claimComplete granted failed => Sys2Proof.Machine.execClaimComplete granted failed s
  | .fence => Sys2Proof.Machine.execFence s
  | .fenceComplete failed blocks => Sys2Proof.Machine.execFenceComplete failed blocks s
  | .takeComplete => Sys2Proof.Machine.execTakeComplete s
  | .peerCycle => Sys2Proof.Machine.execPeerCycle s
  | .moduleFenced => Sys2Proof.Machine.execModuleFenced s
  | .standbySelfTest group reads absent bad => Sys2Proof.Machine.execStandbySelfTest group reads absent bad s
  | .handOver group => Sys2Proof.Machine.execHandOver group s
  | .handOverGranted group reads => Sys2Proof.Machine.execHandOverGranted group reads s
  | .handBack group => Sys2Proof.Machine.execHandBack group s
  | .witnessReplace witness reads => Sys2Proof.Machine.execWitnessReplace witness reads s
  | .ltkHandOverGroup who group => Sys2Proof.Machine.execLtkHandOverGroup who group s
  | .ltkHandOverAll who => Sys2Proof.Machine.execLtkHandOverAll who s
  | .ltkReleaseGroup who group => Sys2Proof.Machine.execLtkReleaseGroup who group s
  | .ltkAcquireGroup who group => Sys2Proof.Machine.execLtkAcquireGroup who group s
  | .ltkRunSelfTest who => Sys2Proof.Machine.execLtkRunSelfTest who s
  | .presenceChange slot => Sys2Proof.Machine.execPresenceChange slot s
  | .slotDebounceEnd slot => Sys2Proof.Machine.execSlotDebounceEnd slot s
  | .offListReceived slots => Sys2Proof.Machine.execOffListReceived slots s
  | .offListTimeout => Sys2Proof.Machine.execOffListTimeout s
  | .slotPoweringEnd slot => Sys2Proof.Machine.execSlotPoweringEnd slot s
  | .slotLinkUp slot link => Sys2Proof.Machine.execSlotLinkUp slot link s
  | .slotTrainingTimeout slot => Sys2Proof.Machine.execSlotTrainingTimeout slot s
  | .slotCheckComplete slot report => Sys2Proof.Machine.execSlotCheckComplete slot report s
  | .attentionPress slot low => Sys2Proof.Machine.execAttentionPress slot low s
  | .removalTimerEnd slot => Sys2Proof.Machine.execRemovalTimerEnd slot s
  | .containment slot reason => Sys2Proof.Machine.execContainment slot reason s
  | .surpriseRemoval slot => Sys2Proof.Machine.execSurpriseRemoval slot s
  | .peerSlotEvent slot news => Sys2Proof.Machine.execPeerSlotEvent slot news s
  | .slotPowerOn who slot => Sys2Proof.Machine.execSlotPowerOn who slot s
  | .slotOff who slot => Sys2Proof.Machine.execSlotOff who slot s
  | .slotForcedOff who slot => Sys2Proof.Machine.execSlotForcedOff who slot s
  | .slotRetrain who slot => Sys2Proof.Machine.execSlotRetrain who slot s
  | .slotPrepare who slot foreignHeader formatted => Sys2Proof.Machine.execSlotPrepare who slot foreignHeader formatted s
  | .memberCommandTimeout op => Sys2Proof.Machine.execMemberCommandTimeout op s
  | .memberCommandError op => Sys2Proof.Machine.execMemberCommandError op s
  | .sidebandPoll slot reading => Sys2Proof.Machine.execSidebandPoll slot reading s
  | .dirPerstDeassert => Sys2Proof.Machine.execDirPerstDeassert s
  | .dirPerstAssert => Sys2Proof.Machine.execDirPerstAssert s
  | .cablePresenceChange mated => Sys2Proof.Machine.execCablePresenceChange mated s
  | .configRequest f offset write value enables => Sys2Proof.Machine.execConfigRequest f offset write value enables s
  | .barAccess addr width write value => Sys2Proof.Machine.execBarAccess addr width write value s
  | .sqDoorbell queue tail size => Sys2Proof.Machine.execSqDoorbell queue tail size s
  | .directReadCompletion tag data => Sys2Proof.Machine.execDirectReadCompletion tag data s
  | .directCompletionTimeout tag => Sys2Proof.Machine.execDirectCompletionTimeout tag s
  | .busMasterEnableClear f => Sys2Proof.Machine.execBusMasterEnableClear f s
  | .busMasterEnableSet f => Sys2Proof.Machine.execBusMasterEnableSet f s
  | .functionLevelReset f => Sys2Proof.Machine.execFunctionLevelReset f s
  | .flrTimeout f => Sys2Proof.Machine.execFlrTimeout f s
  | .d3hotEntry f => Sys2Proof.Machine.execD3hotEntry f s
  | .d0Return f => Sys2Proof.Machine.execD0Return f s
  | .hotReset => Sys2Proof.Machine.execHotReset s
  | .functionQuiesced f => Sys2Proof.Machine.execFunctionQuiesced f s
  | .seatChange seatA seatB => Sys2Proof.Machine.execSeatChange seatA seatB s
  | .entryDebounceEnd vin => Sys2Proof.Machine.execEntryDebounceEnd vin s
  | .rampComplete => Sys2Proof.Machine.execRampComplete s
  | .qualificationComplete timerStarts => Sys2Proof.Machine.execQualificationComplete timerStarts s
  | .railSequence => Sys2Proof.Machine.execRailSequence s
  | .currentLimitEngage => Sys2Proof.Machine.execCurrentLimitEngage s
  | .currentLimitClear => Sys2Proof.Machine.execCurrentLimitClear s
  | .faultTimerExpiry ipeak vin => Sys2Proof.Machine.execFaultTimerExpiry ipeak vin s
  | .fastTrip ipeak vin => Sys2Proof.Machine.execFastTrip ipeak vin s
  | .entryOpening event ipeak vin => Sys2Proof.Machine.execEntryOpening event ipeak vin s
  | .entryLatchClear by_ => Sys2Proof.Machine.execEntryLatchClear by_ s
  | .entryRestart vin => Sys2Proof.Machine.execEntryRestart vin s
  | .moduleOff => Sys2Proof.Machine.execModuleOff s
  | .biasLoss => Sys2Proof.Machine.execBiasLoss s
  | .peerCycleRelease => Sys2Proof.Machine.execPeerCycleRelease s
  | .keyGenerate who slot => Sys2Proof.Machine.execKeyGenerate who slot s
  | .keyUnwrap who slot => Sys2Proof.Machine.execKeyUnwrap who slot s
  | .keyZeroise who slot => Sys2Proof.Machine.execKeyZeroise who slot s
  | .keyDerivePair who => Sys2Proof.Machine.execKeyDerivePair who s
  | .kekRatchet who => Sys2Proof.Machine.execKekRatchet who s
  | .highWaterLoad who slot => Sys2Proof.Machine.execHighWaterLoad who slot s
  | .slotStatusRead who slot => Sys2Proof.Machine.execSlotStatusRead who slot s
  | .kekImport who => Sys2Proof.Machine.execKekImport who s
  | .mcpPacketReceived from_ type bytes fragment => Sys2Proof.Machine.execMcpPacketReceived from_ type bytes fragment s
  | .mcpReqDoorbell who mask => Sys2Proof.Machine.execMcpReqDoorbell who mask s
  | .mcpRplRdyClear who bits => Sys2Proof.Machine.execMcpRplRdyClear who bits s
  | .mcpNtcTailWrite who tail => Sys2Proof.Machine.execMcpNtcTailWrite who tail s
  | .fragmentTimeout from_ id => Sys2Proof.Machine.execFragmentTimeout from_ id s
  | .getIdentity tag => Sys2Proof.Machine.execGetIdentity tag s
  | .getChallenge tag => Sys2Proof.Machine.execGetChallenge tag s
  | .getEntryRecord tag => Sys2Proof.Machine.execGetEntryRecord tag s
  | .sessionOpen tag => Sys2Proof.Machine.execSessionOpen tag s
  | .sessionReset slot tag => Sys2Proof.Machine.execSessionReset slot tag s
  | .sessionList slot tag => Sys2Proof.Machine.execSessionList slot tag s
  | .noticeSubscribe slot tag => Sys2Proof.Machine.execNoticeSubscribe slot tag s
  | .getNotices slot tag => Sys2Proof.Machine.execGetNotices slot tag s
  | .moduleStatus slot tag => Sys2Proof.Machine.execModuleStatus slot tag s
  | .logPageRead slot tag => Sys2Proof.Machine.execLogPageRead slot tag s
  | .faultRecordsRead slot tag => Sys2Proof.Machine.execFaultRecordsRead slot tag s
  | .longOperationStatus slot tag => Sys2Proof.Machine.execLongOperationStatus slot tag s
  | .leadCommand slot tag => Sys2Proof.Machine.execLeadCommand slot tag s
  | .slotCommand slot tag foreignHeader formatted => Sys2Proof.Machine.execSlotCommand slot tag foreignHeader formatted s
  | .layoutCommand slot tag => Sys2Proof.Machine.execLayoutCommand slot tag s
  | .moduleReset slot tag => Sys2Proof.Machine.execModuleReset slot tag s
  | .powerCycle slot tag => Sys2Proof.Machine.execPowerCycle slot tag s
  | .setPowerState slot tag refuser => Sys2Proof.Machine.execSetPowerState slot tag refuser s
  | .shelfBudget slot tag => Sys2Proof.Machine.execShelfBudget slot tag s
  | .firmwareDownload slot tag => Sys2Proof.Machine.execFirmwareDownload slot tag s
  | .mcpFirmwareCommit slot tag => Sys2Proof.Machine.execMcpFirmwareCommit slot tag s
  | .groupPolicy slot tag => Sys2Proof.Machine.execGroupPolicy slot tag s
  | .setMeasureLength slot tag => Sys2Proof.Machine.execSetMeasureLength slot tag s
  | .twoStepPropose slot tag => Sys2Proof.Machine.execTwoStepPropose slot tag s
  | .twoStepConfirm slot tag => Sys2Proof.Machine.execTwoStepConfirm slot tag s
  | .twoStepWithdraw slot tag => Sys2Proof.Machine.execTwoStepWithdraw slot tag s
  | .twoStepStatus slot tag => Sys2Proof.Machine.execTwoStepStatus slot tag s
  | .sessionIdleTimeout slot => Sys2Proof.Machine.execSessionIdleTimeout slot s
  | .requestTimeout slot tag => Sys2Proof.Machine.execRequestTimeout slot tag s
  | .proposalExpiry number => Sys2Proof.Machine.execProposalExpiry number s
  | .setupDigestExchange digest log objects proposals => Sys2Proof.Machine.execSetupDigestExchange digest log objects proposals s
  | .spdmGetVersion from_ => Sys2Proof.Machine.execSpdmGetVersion from_ s
  | .spdmGetCapabilities from_ => Sys2Proof.Machine.execSpdmGetCapabilities from_ s
  | .spdmNegotiateAlgorithms from_ => Sys2Proof.Machine.execSpdmNegotiateAlgorithms from_ s
  | .spdmGetDigests from_ => Sys2Proof.Machine.execSpdmGetDigests from_ s
  | .spdmGetCertificate from_ slot offset length => Sys2Proof.Machine.execSpdmGetCertificate from_ slot offset length s
  | .spdmChallenge from_ request => Sys2Proof.Machine.execSpdmChallenge from_ request s
  | .spdmGetMeasurements from_ request => Sys2Proof.Machine.execSpdmGetMeasurements from_ request s
  | .phraseDecision pinMw tj tjDomain utils => Sys2Proof.Machine.execPhraseDecision pinMw tj tjDomain utils s
  | .avsAck cluster => Sys2Proof.Machine.execAvsAck cluster s
  | .avsTimeout cluster => Sys2Proof.Machine.execAvsTimeout cluster s
  | .domainIdleGate domain answer => Sys2Proof.Machine.execDomainIdleGate domain answer s
  | .domainIdleOff domain answer => Sys2Proof.Machine.execDomainIdleOff domain answer s
  | .handshakeDelayExpiry domain answer => Sys2Proof.Machine.execHandshakeDelayExpiry domain answer s
  | .domainWake domain => Sys2Proof.Machine.execDomainWake domain s
  | .pwrWakeDomain who domain => Sys2Proof.Machine.execPwrWakeDomain who domain s
  | .pwrPowerOffDomain who domain answer => Sys2Proof.Machine.execPwrPowerOffDomain who domain answer s
  | .pwrEnterDormant who refuser => Sys2Proof.Machine.execPwrEnterDormant who refuser s
  | .dormantWake source => Sys2Proof.Machine.execDormantWake source s
  | .analogSample ch raw => Sys2Proof.Machine.execAnalogSample ch raw s
  | .digitalInputChange input high => Sys2Proof.Machine.execDigitalInputChange input high s
  | .ruleSweep => Sys2Proof.Machine.execRuleSweep s
  | .ruleCtlWrite who rule value => Sys2Proof.Machine.execRuleCtlWrite who rule value s
  | .cycleArm who => Sys2Proof.Machine.execCycleArm who s
  | .cycleGo who => Sys2Proof.Machine.execCycleGo who s
  | .peerWakePulse who => Sys2Proof.Machine.execPeerWakePulse who s
  | .wakePulse => Sys2Proof.Machine.execWakePulse s
  | .wakeTimerExpiry => Sys2Proof.Machine.execWakeTimerExpiry s
  | .partitionStart who cluster => Sys2Proof.Machine.execPartitionStart who cluster s
  | .partitionReset who cluster => Sys2Proof.Machine.execPartitionReset who cluster s
  | .partitionResetComplete part => Sys2Proof.Machine.execPartitionResetComplete part s
  | .l1dClean who cluster core => Sys2Proof.Machine.execL1dClean who cluster core s
  | .l1dCleanInvalidate who cluster core => Sys2Proof.Machine.execL1dCleanInvalidate who cluster core s
  | .l1iInvalidate who cluster core => Sys2Proof.Machine.execL1iInvalidate who cluster core s
  | .clusterClean who cluster => Sys2Proof.Machine.execClusterClean who cluster s
  | .clusterCleanInvalidate who cluster => Sys2Proof.Machine.execClusterCleanInvalidate who cluster s
  | .cacheFillReturn cluster cache => Sys2Proof.Machine.execCacheFillReturn cluster cache s
  | .victimWritebackAck cluster cache => Sys2Proof.Machine.execVictimWritebackAck cluster cache s
  | .cboOperation core op addr => Sys2Proof.Machine.execCboOperation core op addr s
  | .ewqDoorbell who queue tail => Sys2Proof.Machine.execEwqDoorbell who queue tail s
  | .ewqEnable who queue => Sys2Proof.Machine.execEwqEnable who queue s
  | .ewqDisable who queue => Sys2Proof.Machine.execEwqDisable who queue s
  | .ewqInvalidate who queue => Sys2Proof.Machine.execEwqInvalidate who queue s
  | .ewqInvalidateDone queue => Sys2Proof.Machine.execEwqInvalidateDone queue s
  | .ewqReset who queue => Sys2Proof.Machine.execEwqReset who queue s
  | .ewqCopy queue => Sys2Proof.Machine.execEwqCopy queue s
  | .ewqParity queue => Sys2Proof.Machine.execEwqParity queue s
  | .ewqParityCheck queue => Sys2Proof.Machine.execEwqParityCheck queue s
  | .ewqXtsEncrypt queue => Sys2Proof.Machine.execEwqXtsEncrypt queue s
  | .ewqXtsDecrypt queue => Sys2Proof.Machine.execEwqXtsDecrypt queue s
  | .ewqGcmEncrypt queue => Sys2Proof.Machine.execEwqGcmEncrypt queue s
  | .ewqGcmDecrypt queue => Sys2Proof.Machine.execEwqGcmDecrypt queue s
  | .ewqGmac queue => Sys2Proof.Machine.execEwqGmac queue s
  | .ewqKeyCommand queue => Sys2Proof.Machine.execEwqKeyCommand queue s
  | .ewqDescriptorComplete queue count => Sys2Proof.Machine.execEwqDescriptorComplete queue count s
  | .ewqReadTimeout queue count addr => Sys2Proof.Machine.execEwqReadTimeout queue count addr s
  | .parityError item reader addr bytes => Sys2Proof.Machine.execParityError item reader addr bytes s
  | .recoveryComplete id how => Sys2Proof.Machine.execRecoveryComplete id how s
  | .peerCopyRequest group nsid lba meas => Sys2Proof.Machine.execPeerCopyRequest group nsid lba meas s
  | .peerRestoreTimeout id => Sys2Proof.Machine.execPeerRestoreTimeout id s
  | .memorySweep buffer found bytes => Sys2Proof.Machine.execMemorySweep buffer found bytes s
  | .bucketLeak => Sys2Proof.Machine.execBucketLeak s
  | .minTestArm who value => Sys2Proof.Machine.execMinTestArm who value s
  | .minTestExpiry => Sys2Proof.Machine.execMinTestExpiry s
  | .watchdogRestart who value => Sys2Proof.Machine.execWatchdogRestart who value s
  | .watchdogExpiry => Sys2Proof.Machine.execWatchdogExpiry s
  | .fltStep3Handover who => Sys2Proof.Machine.execFltStep3Handover who s
  | .fltStep3 who => Sys2Proof.Machine.execFltStep3 who s
  | .fltStep4 who => Sys2Proof.Machine.execFltStep4 who s
  | .latchCopy => Sys2Proof.Machine.execLatchCopy s
  | .startupEscalation => Sys2Proof.Machine.execStartupEscalation s
  | .positionMismatch => Sys2Proof.Machine.execPositionMismatch s
  | .pmcCounterPreset who counter value => Sys2Proof.Machine.execPmcCounterPreset who counter value s
  | .monitorWindowEnd monitor => Sys2Proof.Machine.execMonitorWindowEnd monitor s
  | .monitorClear who monitor => Sys2Proof.Machine.execMonitorClear who monitor s
  | .coreAccess core access => Sys2Proof.Machine.execCoreAccess core access s
  | .entryStartConditionChange enable cycleLow => Sys2Proof.Machine.execEntryStartConditionChange enable cycleLow s
  | .slotDebounceBreak slot => Sys2Proof.Machine.execSlotDebounceBreak slot s
  | .peerSeated => Sys2Proof.Machine.execPeerSeated s
  | .fastRetrainFail => Sys2Proof.Machine.execFastRetrainFail s
  | .directLinkUp speed width flit => Sys2Proof.Machine.execDirectLinkUp speed width flit s
  | .functionResetTimeout f => Sys2Proof.Machine.execFunctionResetTimeout f s
  | .connectionReject idx => Sys2Proof.Machine.execConnectionReject idx s
  | .challengeExpiry => Sys2Proof.Machine.execChallengeExpiry s
  | .handOverTimeout group => Sys2Proof.Machine.execHandOverTimeout group s
  | .tokenRecordReadComplete reads => Sys2Proof.Machine.execTokenRecordReadComplete reads s
  | .cutInReread => Sys2Proof.Machine.execCutInReread s
  | .leadTokenTry group reads => Sys2Proof.Machine.execLeadTokenTry group reads s
  | .deletedExtentDeallocate set stripe => Sys2Proof.Machine.execDeletedExtentDeallocate set stripe s

end Sys2Proof.Machine
end

