-- ==== Sys2Proof/Safety.lean ====
section
/-! DEFINITION. The terms the statements use: the canonical form of the sorted parts of the state, the invariant of a step,
and what a request meets before its own effect: a write of a command register, a management request, an admin command. -/

set_option Elab.async false

namespace Sys2Proof

/-- The register file and the module memory are in their canonical forms, so that equal contents are equal data. -/
def Machine.State.Canonical (s : Machine.State) : Prop :=
  Machine.RegFile.Canonical s.regs ∧ Machine.Memory.wf s.mem

/-- `who` reaches the register at `a` and may write it (R5, R15, R471, R505). -/
def Machine.State.Opens (s : Machine.State) (who : Requester) (a : Nat) : Prop :=
  s.reach a 4 = .reached ∧ ∃ h, Machine.findReg a = some h ∧ s.mayWrite who h = true

/-- The state in which a command register's command acts: its plain fields hold what was written. -/
def Machine.State.written (s : Machine.State) (a : Nat) (v : Word) : Machine.State :=
  match Machine.findReg a with
  | some h => s.writeFields h (h.base a) v.toNat
  | none => s

/-- The write of a command register is answered: the word of a pair is noted (R589) and the access ends without error. -/
def Machine.State.answered (t : Machine.State) (who : Requester) (a : Nat) (v : Word) : Machine.State :=
  match Machine.findReg a with
  | some h => (t.notePairWrite who h a v).emit (.regDone who a)
  | none => t

/-- A management request `c` that waits under a session slot and a TAG and meets every check of its opcode: the role, the
length and the reserved bytes (R434–R436). -/
structure Machine.State.Requests (s : Machine.State) (slot tag opcode : Nat) (c : Machine.McpCall) : Prop where
  waits : s.call slot tag = some c
  isFor : c.opcode = opcode
  mayRun : c.mayStart = true
  roleHeld : (Machine.opcodeRole opcode).getD 0 ≤ s.callRole c
  rightLength : Machine.lengthFits opcode c.params.length c.params = true
  noReserved : (Machine.reservedFields opcode).all (fun f => Machine.numAt c.params f.1 f.2 == 0) = true

/-- An admin command that meets no refusal of R81, R104 or R119: its controller is enabled, authenticated and not shut down,
and no sanitize holds it. -/
structure Machine.State.AdminOpen (s : Machine.State) (key : CmdKey) (listed : Bool) (c : Machine.Controller) : Prop where
  controller : s.controller key.ctrl = some c
  authenticated : s.authDue key = false
  enabled : c.enabled = true
  notShut : c.shst = 0
  notSanitizing : s.sanitizeStatus listed = none

/-- A frame that R297 and R298 accept: the link is up, its tag verifies, and its LSEQ is the one expected. -/
structure Machine.State.Accepts (s : Machine.State) (h : FrameHead) : Prop where
  up : s.linkUp = true
  tag : h.tagOk = true
  inOrder : h.lseq = s.link.rxSeq

/-- The state in which an accepted frame acts: it is counted, and the next LSEQ is expected. -/
def Machine.State.expectNext (s : Machine.State) (h : FrameHead) : Machine.State :=
  (s.countFrame false (h.length + 48)).onLink fun l => { l with rxSeq := l.rxSeq + 1, sinceAck := l.sinceAck + 1 }

/-- Every 64th frame received since the last acknowledgement is acknowledged (R298). -/
def Machine.State.acknowledged (s : Machine.State) : Machine.State := if 64 ≤ s.link.sinceAck then s.linkAck false else s

/-- Commands that reach the always-on domain: the power entry, the energy store, the Wallflower and its wake paths, resets, the
pins of the direct port, the management port, and SPDM. Every other command reaches the SoC only (R12, R286, R493). -/
def Instr.reachesAlwaysOn : Instr → Bool
  | .energyMeasurement _ | .chargeComplete | .chargeLevelDrop | .capacityTestDone _ _ | .storeFailure _
  | .powerFailDecision | .quiesceComplete | .destageSeal _ _ | .decisionResetTimer | .coldReset | .moduleResetTaken
  | .rootClockFault | .pllLock | .positionMismatch | .mcpPacketReceived _ _ _ _ | .spdmGetVersion _
  | .spdmGetCapabilities _ | .spdmNegotiateAlgorithms _ | .spdmGetDigests _ | .spdmGetCertificate _ _ _ _
  | .spdmChallenge _ _ | .spdmGetMeasurements _ _ | .dormantWake _ | .dirPerstDeassert | .dirPerstAssert
  | .cablePresenceChange _ | .seatChange _ _ | .entryStartConditionChange _ _ | .entryDebounceEnd _ | .rampComplete
  | .qualificationComplete _ | .railSequence | .currentLimitEngage | .currentLimitClear | .faultTimerExpiry _ _
  | .fastTrip _ _ | .entryOpening _ _ _ | .entryLatchClear _ | .entryRestart _ | .moduleOff | .biasLoss
  | .peerCycleRelease | .analogSample _ _ | .digitalInputChange _ _ | .ruleSweep | .cycleArm _ | .cycleGo _
  | .peerWakePulse _ | .wakePulse | .wakeTimerExpiry => true
  | _ => false

/-! Frames. -/

/-- The register blocks of Table 0.6. -/
inductive Block where
  | sys | clk | meas | qpc | swc | net | qdl | rbd | nrg | vlt | ezl | ltk | slt | dpt | efu | cip | mcp | two | cal | pwr | wfl | clu | ewq | min | flt | pmc
  deriving DecidableEq, Repr

/-- The number of a block's first instance in Table 0.6, and how many it has. -/
def Block.first : Block → Nat × Nat
  | .sys => (0x00, 1)
  | .clk => (0x01, 1)
  | .meas => (0x02, 1)
  | .qpc => (0x18, 1)
  | .swc => (0x1c, 1)
  | .net => (0x10, 4)
  | .qdl => (0x20, 1)
  | .rbd => (0x21, 1)
  | .nrg => (0x04, 1)
  | .vlt => (0x22, 1)
  | .ezl => (0x24, 1)
  | .ltk => (0x25, 1)
  | .slt => (0x28, 48)
  | .dpt => (0x60, 1)
  | .efu => (0x03, 1)
  | .cip => (0x0c, 1)
  | .mcp => (0x0d, 1)
  | .two => (0x0b, 1)
  | .cal => (0x06, 1)
  | .pwr => (0x07, 1)
  | .wfl => (0x05, 1)
  | .clu => (0x70, 8)
  | .ewq => (0x78, 1)
  | .min => (0x08, 1)
  | .flt => (0x09, 1)
  | .pmc => (0x0a, 1)

/-- The parts of the state that the frame statements speak of: every field of State but the queue and the outputs (of which
Obligations.ExecKeepsQueueAndOutputs speaks), the registers block by block. -/
inductive Part where
  | draws | rwm | hiLatch | lowWord | clock | cfg | flt | mcp | power | host | store | energy | link | rdma |
  mem | keys | ewq | wall | entry | admin | two | token | slots | caches | direct | switch | gates | integrity
  | pmc
  | regs (b : Block)
  deriving DecidableEq, Repr

/-- The part is the same in both states. -/
def Part.same : Part → Machine.State → Machine.State → Prop
  | .mem, s, t => ∀ a, Machine.Memory.get a t.mem = Machine.Memory.get a s.mem
  | .draws, s, t => t.draws = s.draws
  | .rwm, s, t => t.rwm = s.rwm
  | .hiLatch, s, t => t.hiLatch = s.hiLatch
  | .lowWord, s, t => t.lowWord = s.lowWord
  | .clock, s, t => t.clock = s.clock
  | .cfg, s, t => t.cfg = s.cfg
  | .flt, s, t => t.flt = s.flt
  | .mcp, s, t => t.mcp = s.mcp
  | .power, s, t => t.power = s.power
  | .host, s, t => t.host = s.host
  | .store, s, t => t.store = s.store
  | .energy, s, t => t.energy = s.energy
  | .link, s, t => t.link = s.link
  | .rdma, s, t => t.rdma = s.rdma
  | .keys, s, t => t.keys = s.keys
  | .ewq, s, t => t.ewq = s.ewq
  | .wall, s, t => t.wall = s.wall
  | .entry, s, t => t.entry = s.entry
  | .admin, s, t => t.admin = s.admin
  | .two, s, t => t.two = s.two
  | .token, s, t => t.token = s.token
  | .slots, s, t => t.slots = s.slots
  | .caches, s, t => t.caches = s.caches
  | .direct, s, t => t.direct = s.direct
  | .switch, s, t => t.switch = s.switch
  | .gates, s, t => t.gates = s.gates
  | .integrity, s, t => t.integrity = s.integrity
  | .pmc, s, t => t.pmc = s.pmc
  | .regs b, s, t => ∀ a n, Machine.blockNumber a = some n → b.first.1 ≤ n → n < b.first.1 + b.first.2 → t.reg a = s.reg a

/-- What a notice to management may change: the notices, and what carries them out. -/
def Part.told : List Part :=
  [.mcp, .direct, .pmc, .regs .dpt, .regs .cip, .regs .mcp, .regs .pmc]

/-- What a fault record may change: the ring, and what tells of it. -/
def Part.faulted : List Part :=
  Part.told ++ [.flt, .regs .flt]

/-- What a write of a register may change beside the register and its command: the fields that wait for the boundary, the words of
pairs, the record of an access turned away, and what tells of it. -/
def Part.accessed : List Part :=
  Part.faulted ++ [.rwm, .lowWord, .regs .pwr]

/-- What the completion of a host's command may change. -/
def Part.completed : List Part :=
  [.draws, .host, .store, .rdma, .admin, .direct, .pmc, .regs .qpc, .regs .vlt, .regs .dpt, .regs .pmc]

/-- What serving the commands of hosts may change (R209, R217 and what they start). -/
def Part.served : List Part :=
  [.draws, .flt, .mcp, .host, .store, .energy, .link, .rdma, .keys, .admin, .direct, .integrity, .pmc, .regs .qpc,
   .regs .qdl, .regs .rbd, .regs .vlt, .regs .slt, .regs .dpt, .regs .cip, .regs .mcp, .regs .flt, .regs .pmc]

/-- The registers of every block. -/
def Part.registers : List Part :=
  [.regs .sys, .regs .clk, .regs .meas, .regs .qpc, .regs .swc, .regs .net, .regs .qdl, .regs .rbd, .regs .nrg,
   .regs .vlt, .regs .ezl, .regs .ltk, .regs .slt, .regs .dpt, .regs .efu, .regs .cip, .regs .mcp, .regs .two,
   .regs .cal, .regs .pwr, .regs .wfl, .regs .clu, .regs .ewq, .regs .min, .regs .flt, .regs .pmc]

/-- What a reset, a wake from Dormant or a loss of the bias supply may change. -/
def Part.everything : List Part :=
  [.draws, .rwm, .hiLatch, .lowWord, .clock, .cfg, .flt, .mcp, .power, .host, .store, .energy, .link, .rdma, .mem,
   .keys, .ewq, .wall, .entry, .admin, .two, .token, .slots, .caches, .direct, .switch, .gates, .integrity, .pmc] ++
   Part.registers

/-- What a command may change, by the rules of its meaning: what it writes itself, and what its effect may start (a notice, a
fault record, counters, the commands of hosts it serves). All else it leaves as it is. -/
def Instr.touches : Instr → List Part
  | .plainRegisterWrite .. => Part.registers ++ Part.served ++ [.rwm, .lowWord, .clock, .cfg, .wall]
  | .rcRegisterRead .. | .lowWordRead .. => Part.registers ++ Part.faulted ++ [.hiLatch, .clock]
  | .unassignedBlockAccess .. | .directHostRegisterAccess .. | .offDomainAccess .. | .registerWrite ..
  | .coldReset | .moduleResetTaken | .rootClockFault | .measureBoundary | .boundaryWindowEnd
  | .firmwareActivation | .destageSeal .. | .decisionResetTimer | .barAccess .. | .railSequence
  | .mcpPacketReceived .. | .spdmGetVersion .. | .spdmGetCapabilities .. | .spdmNegotiateAlgorithms ..
  | .spdmGetDigests .. | .spdmChallenge .. | .spdmGetMeasurements .. | .dormantWake .. | .digitalInputChange ..
  | .ruleSweep | .wakePulse | .wakeTimerExpiry | .parityError .. | .memorySweep .. | .watchdogExpiry
  | .fltStep3Handover .. | .fltStep3 .. | .coreAccess .. | .functionResetTimeout .. => Part.everything
  | .registerRead .. => Part.registers ++ [.hiLatch, .clock, .mcp, .direct, .pmc]
  | .rwtFieldWrite .. => Part.registers ++ Part.accessed ++ [.clock, .wall, .two]
  | .memoryFillComplete => Part.served ++ [.regs .pwr, .regs .clu, .regs .min]
  | .pllLock => [.regs .clk]
  | .measStepRequest .. | .measOffsWrite .. => Part.accessed ++ [.clock, .regs .meas]
  | .timeStepApply => [.clock]
  | .measSrcWrite .. | .offsetWriteTimeout => [.clock, .regs .meas]
  | .holdoverExpiry => Part.faulted ++ [.clock, .regs .meas]
  | .measRunSet => [.clock, .flt, .regs .meas]
  | .flush .. | .write .. | .read .. | .compare .. | .writeZeroes .. | .datasetManagement .. | .verify ..
  | .reservationRegister .. | .reservationReport .. | .reservationAcquire .. | .reservationRelease .. | .copy ..
  | .unknownIoOpcode .. | .commandSlotGrant .. | .rangeLockGrant .. | .dirtyRoomGrant .. | .stripPost ..
  | .memberReadComplete .. | .readDurableResume .. | .controllerReset .. | .keepAliveExpiry ..
  | .shutdownComplete .. | .formatNvm .. | .sanitizeExitFailureMode .. | .sanitizeBlockErase ..
  | .sanitizeOverwrite .. | .sanitizeCryptoErase .. | .walkUnitComplete .. | .progressRecordDurable ..
  | .walkResume .. | .stripeClose .. | .journalBlockWrite .. | .journalRecovery .. | .rebuildStep ..
  | .lostMapWrite .. | .lostMapDurable .. | .repairStep .. | .scrubStep .. | .replacementAccept ..
  | .promenadeMoveStart .. | .promenadeCopyPassEnd .. | .promenadeCatchupDone .. | .promenadeOldRangeFree ..
  | .restoreInstall .. | .mapMirrorCopy .. | .dirPerstAssert | .cablePresenceChange .. | .configRequest ..
  | .sqDoorbell .. | .directReadCompletion .. | .directCompletionTimeout .. | .busMasterEnableClear ..
  | .busMasterEnableSet .. | .functionLevelReset .. | .d3hotEntry .. | .d0Return .. | .hotReset
  | .functionQuiesced .. | .deletedExtentDeallocate .. => Part.served
  | .mirrorCopyAccept | .linkTrained .. | .trainingTimeout | .fastRetrain | .commitReceived .. =>
    Part.served ++ [.mem, .regs .swc, .regs .ezl, .regs .min]
  | .memberWriteComplete .. | .memberFailed .. | .rebuildStepComplete .. | .journalRehome .. | .copyBackStep ..
  | .memberCommandError .. => Part.served ++ [.rwm]
  | .firmwareTrialEnd | .firmwareDownload .. | .mcpFirmwareCommit .. => Part.told ++ [.admin]
  | .firmwareTrialTimeout => [.admin]
  | .getLogPage .. | .identify .. | .abort .. | .getFeatures .. | .asynchronousEventRequest ..
  | .firmwareImageDownload .. | .firmwareCommitStore .. | .firmwareCommitStoreNext .. | .firmwareCommitMark ..
  | .firmwareCommitActivate .. | .namespaceAttach .. | .namespaceDetach .. | .keepAlive .. | .propertyGet ..
  | .propertySet .. | .authenticationSend .. | .authenticationReceive .. | .disconnectRequest .. => Part.completed
  | .setFeatures .. => Part.completed ++ [.cfg]
  | .namespaceManagementCreate .. => Part.completed ++ [.mcp, .keys, .regs .cip, .regs .mcp]
  | .namespaceManagementDelete .. => Part.completed ++ [.mcp, .regs .cip, .regs .mcp]
  | .adminCommandForward .. => [.draws, .host, .rdma, .admin, .direct, .pmc, .regs .qpc, .regs .dpt, .regs .pmc]
  | .connect .. => [.host, .rdma, .regs .qpc, .regs .pmc]
  | .connectionRequest .. | .connectingTimeout .. | .connectionReject .. => [.rdma, .switch, .regs .qpc]
  | .readyToUse .. | .readRequestComplete .. | .evictionWritebackComplete .. => [.rdma]
  | .queuePairDrained .. => [.host, .rdma, .switch, .regs .qpc]
  | .inboundRequest .. | .inboundRdmaWrite .. | .rdmaReadResponse .. | .readTrackerGrant .. | .ackReceived ..
  | .nakReceived .. | .ackTimeout .. | .rnrTimerExpiry .. | .cnpReceived .. | .rateStepTimer ..
  | .contextFillComplete .. =>
    Part.completed ++ [.energy, .link, .mem, .gates, .integrity, .regs .qdl, .regs .rbd, .regs .slt, .regs .cip,
      .regs .min]
  | .qpcDoorbell .. =>
    Part.accessed ++ Part.completed ++ [.energy, .link, .mem, .gates, .integrity, .regs .qdl, .regs .rbd, .regs
      .slt, .regs .min]
  | .workRequestComplete .. => Part.completed ++ [.mem, .integrity, .regs .min]
  | .qpcCreate .. => Part.accessed ++ [.rdma, .switch, .regs .qpc]
  | .qpcRead .. => Part.accessed ++ [.mem, .integrity, .regs .qpc, .regs .min]
  | .qpcDestroy .. => Part.accessed ++ Part.completed
  | .qpcFlush .. => Part.accessed ++ Part.completed ++ [.mem, .integrity, .regs .min]
  | .qpcPin .. | .qpcUnpin .. => Part.accessed ++ [.rdma, .regs .qpc]
  | .frameAdmission .. => Part.faulted ++ [.draws, .clock, .switch, .gates, .regs .swc]
  | .frameReadComplete .. => Part.faulted ++ [.draws, .store, .link, .rdma, .switch, .gates, .regs .qpc, .regs .swc]
  | .resequencerArrival .. | .resequencerTimeout .. | .trackerFree .. | .pfcWatchdogExpiry .. =>
    Part.faulted ++ [.draws, .switch, .gates, .regs .swc]
  | .pfcPauseReceived .. => [.switch, .gates, .regs .pmc]
  | .pauseExpiry .. => [.switch, .gates]
  | .pfcWatchdogEnd .. => [.switch]
  | .epochArm .. => Part.accessed ++ [.clock, .switch, .regs .meas, .regs .swc]
  | .ftWriteShadow .. | .ftReadActive .. | .ftReadShadow .. => Part.accessed ++ [.clock, .switch, .regs .swc]
  | .epochDrained => [.switch, .regs .swc]
  | .laneFrameStart .. | .wheelSlotChange .. =>
    Part.faulted ++ [.draws, .clock, .switch, .gates, .regs .swc, .regs .net]
  | .gateEntryChange .. => [.clock, .gates, .regs .net]
  | .gateSwitchoverArm .. => Part.accessed ++ [.clock, .gates, .regs .meas, .regs .net]
  | .figWriteNext .. => Part.accessed ++ [.store, .regs .qdl]
  | .figReadActive .. | .figReadNext .. => Part.accessed ++ [.regs .qdl]
  | .stripeIdleTimeout .. | .promenadeFinalEpoch .. => [.store]
  | .setAssembly .. => [.draws, .token, .regs .qdl, .regs .ltk]
  | .promenadeStart .. | .setCreate .. | .setDelete .. | .layoutCommand .. => Part.accessed ++ [.store, .regs .rbd]
  | .promenadeDrainDone .. => [.store, .regs .rbd]
  | .energyMeasurement .. =>
    Part.told ++ [.draws, .host, .energy, .rdma, .regs .qpc, .regs .nrg, .regs .vlt, .regs .efu, .regs .wfl]
  | .chargeComplete | .chargeLevelDrop => Part.told ++ [.regs .nrg]
  | .nrgTestRequest .. => Part.accessed ++ [.energy, .regs .nrg]
  | .capacityTestStart => Part.told ++ [.energy, .regs .nrg]
  | .capacityTestDone .. => Part.faulted ++ [.regs .nrg, .regs .wfl]
  | .storeFailure .. => Part.faulted ++ [.regs .nrg]
  | .powerFailDecision => Part.told ++ [.store, .energy, .regs .nrg, .regs .vlt, .regs .wfl]
  | .quiesceComplete => Part.registers ++ [.rwm, .mcp, .energy, .mem, .slots, .caches, .direct, .integrity, .pmc]
  | .vaultSelfCheck => [.store, .energy, .regs .rbd, .regs .vlt]
  | .vaultRestore .. => Part.faulted ++ [.host, .store, .energy, .regs .rbd, .regs .vlt]
  | .sectionSummary .. | .summaryTimeout | .vaultRetire => [.energy, .regs .vlt]
  | .vaultFault => Part.faulted ++ [.regs .vlt]
  | .linkEnable .. => Part.accessed ++ [.link, .regs .ezl]
  | .trainingRetry | .peerSeated => [.link, .regs .ezl]
  | .peerRemoved .. => Part.served ++ [.rwm, .lowWord, .mem, .regs .swc, .regs .ezl, .regs .pwr, .regs .min]
  | .linkAckReceived .. | .mirrorCopyReceived .. | .windowWriteReceived .. | .resendRequestReceived ..
  | .resumeReceived .. =>
    Part.faulted ++ [.store, .link, .mem, .integrity, .regs .swc, .regs .vlt, .regs .ezl, .regs .min]
  | .linkAckTimer | .messageWithdraw .. | .peerCopyRequest .. =>
    [.store, .link, .mem, .integrity, .pmc, .regs .swc, .regs .vlt, .regs .ezl, .regs .cip, .regs .min, .regs
      .pmc]
  | .messageReceived .. =>
    Part.faulted ++ [.draws, .host, .store, .link, .rdma, .mem, .keys, .two, .token, .integrity, .regs .meas,
      .regs .qpc, .regs .swc, .regs .qdl, .regs .vlt, .regs .ezl, .regs .ltk, .regs .slt, .regs .two, .regs .min]
  | .stateCopyReceived .. =>
    Part.faulted ++ [.draws, .host, .store, .link, .rdma, .mem, .token, .integrity, .regs .qpc, .regs .swc,
      .regs .vlt, .regs .ezl, .regs .ltk, .regs .min]
  | .commitMarkerReceived .. =>
    Part.completed ++ Part.faulted ++ [.energy, .link, .mem, .integrity, .regs .swc, .regs .rbd, .regs .ezl,
      .regs .min]
  | .messageSendPost .. =>
    Part.accessed ++ [.store, .link, .mem, .integrity, .regs .swc, .regs .vlt, .regs .ezl, .regs .min]
  | .messageReceivePost .. => Part.accessed ++ [.regs .ezl]
  | .followLost | .fastRetrainFail => Part.served ++ [.regs .swc, .regs .ezl]
  | .leadSilenceTimeout => [.store, .link, .regs .vlt]
  | .leaseRenewal => [.keys, .token, .regs .cip]
  | .renewalComplete .. | .leaseExpiry .. => Part.served ++ [.token, .regs .ezl, .regs .ltk]
  | .peerSuspect => [.token, .regs .ltk]
  | .cutInWaitEnd => [.draws, .keys, .token, .regs .ltk, .regs .cip]
  | .claimComplete .. => Part.told ++ [.draws, .host, .rdma, .keys, .admin, .token, .regs .qpc, .regs .ltk]
  | .fence => [.draws, .token, .regs .ltk]
  | .fenceComplete .. => Part.served ++ [.rwm, .token, .regs .ltk]
  | .takeComplete => [.token]
  | .peerCycle => [.token, .regs .efu]
  | .moduleFenced | .handOver .. | .handBack .. | .moduleReset .. => Part.served ++ [.token, .regs .ltk]
  | .standbySelfTest .. | .handOverGranted .. => Part.faulted ++ [.draws, .keys, .token, .regs .ltk]
  | .witnessReplace .. => Part.faulted ++ [.store, .keys, .token, .regs .slt]
  | .ltkHandOverGroup .. | .ltkHandOverAll .. | .ltkReleaseGroup .. | .leadCommand .. =>
    Part.served ++ [.rwm, .lowWord, .token, .regs .ltk, .regs .pwr]
  | .ltkAcquireGroup .. | .ltkRunSelfTest .. => Part.accessed ++ [.token, .regs .ltk]
  | .presenceChange .. | .offListReceived .. | .offListTimeout | .slotPoweringEnd .. | .slotTrainingTimeout ..
  | .slotDebounceBreak .. => [.slots, .regs .slt]
  | .slotDebounceEnd .. | .attentionPress .. => Part.told ++ [.slots, .regs .slt]
  | .slotLinkUp .. | .sidebandPoll .. => Part.faulted ++ [.slots, .regs .slt]
  | .slotCheckComplete .. => Part.told ++ [.draws, .store, .token, .slots, .regs .ltk, .regs .slt]
  | .removalTimerEnd .. | .containment .. | .memberCommandTimeout .. => Part.served ++ [.rwm, .slots]
  | .surpriseRemoval .. => Part.served ++ [.rwm, .token, .slots]
  | .peerSlotEvent .. => Part.served ++ [.rwm, .token, .slots, .regs .ltk]
  | .slotPowerOn .. | .slotRetrain .. | .slotPrepare .. => Part.accessed ++ [.slots, .regs .slt]
  | .slotOff .. | .slotForcedOff .. | .slotCommand .. => Part.served ++ [.rwm, .lowWord, .slots, .regs .pwr]
  | .dirPerstDeassert => [.direct, .regs .dpt]
  | .flrTimeout .. => Part.faulted
  | .seatChange .. | .entryDebounceEnd .. | .rampComplete | .qualificationComplete .. | .currentLimitEngage
  | .entryLatchClear .. | .entryRestart .. | .entryStartConditionChange .. => [.wall, .regs .efu, .regs .wfl]
  | .currentLimitClear | .peerCycleRelease => [.regs .efu]
  | .faultTimerExpiry .. | .fastTrip .. => [.power, .wall, .entry, .regs .nrg, .regs .efu, .regs .wfl]
  | .entryOpening .. => Part.faulted ++ [.wall, .entry, .regs .efu, .regs .wfl]
  | .moduleOff => [.power, .regs .wfl]
  | .biasLoss => [.flt, .wall, .entry, .regs .efu, .regs .wfl, .regs .flt]
  | .keyGenerate .. | .keyUnwrap .. | .keyZeroise .. | .keyDerivePair .. | .kekRatchet .. | .highWaterLoad ..
  | .slotStatusRead .. | .kekImport .. =>
    Part.accessed ++ [.draws, .host, .link, .mem, .keys, .integrity, .regs .ezl, .regs .min]
  | .mcpReqDoorbell .. | .mcpRplRdyClear .. | .mcpNtcTailWrite .. | .watchdogRestart .. | .pmcCounterPreset ..
  | .monitorClear .. => Part.accessed
  | .fragmentTimeout .. => [.mcp]
  | .getIdentity .. | .getEntryRecord .. | .sessionList .. | .noticeSubscribe .. | .getNotices ..
  | .moduleStatus .. | .powerCycle .. | .twoStepStatus .. | .requestTimeout .. => Part.told
  | .getChallenge .. => Part.told ++ [.draws]
  | .sessionOpen .. => Part.told ++ [.draws, .keys]
  | .sessionReset .. => Part.told ++ [.keys]
  | .logPageRead .. | .longOperationStatus .. => Part.told ++ [.draws, .host]
  | .faultRecordsRead .. => Part.told ++ [.flt]
  | .setPowerState .. => Part.served ++ [.power, .token, .regs .ltk, .regs .pwr]
  | .shelfBudget .. => Part.told ++ [.regs .cal]
  | .groupPolicy .. => Part.told ++ [.host]
  | .setMeasureLength .. => Part.told ++ [.cfg]
  | .twoStepPropose .. | .twoStepWithdraw .. => Part.told ++ [.two, .regs .two]
  | .twoStepConfirm .. | .setupDigestExchange .. => Part.faulted ++ [.two, .regs .meas, .regs .two]
  | .sessionIdleTimeout .. => [.mcp, .keys, .regs .cip, .regs .mcp]
  | .proposalExpiry .. => [.two, .regs .two]
  | .spdmGetCertificate .. => []
  | .phraseDecision .. => [.power, .regs .cal]
  | .avsAck .. => [.power, .regs .clk, .regs .cal]
  | .avsTimeout .. => Part.faulted ++ [.power, .regs .clk, .regs .cal]
  | .domainIdleGate .. | .domainIdleOff .. | .handshakeDelayExpiry .. =>
    Part.registers ++ [.rwm, .power, .mem, .slots, .caches, .integrity]
  | .domainWake .. => Part.registers ++ [.rwm, .power]
  | .pwrWakeDomain .. => Part.registers ++ Part.accessed ++ [.power]
  | .pwrPowerOffDomain .. => Part.registers ++ Part.accessed ++ [.power, .mem, .slots, .caches, .integrity]
  | .pwrEnterDormant .. => Part.served ++ [.rwm, .lowWord, .power, .token, .regs .ltk, .regs .pwr]
  | .analogSample .. => [.wall, .regs .wfl]
  | .ruleCtlWrite .. | .cycleArm .. | .peerWakePulse .. => Part.accessed ++ [.wall, .regs .wfl]
  | .cycleGo .. => Part.accessed ++ [.wall, .entry, .regs .efu, .regs .wfl]
  | .partitionStart .. => Part.accessed ++ [.regs .clu]
  | .partitionReset .. =>
    Part.registers ++ Part.completed ++ Part.accessed ++ [.link, .mem, .keys, .ewq, .caches, .switch,
      .integrity]
  | .partitionResetComplete .. => [.regs .clu, .regs .pmc]
  | .l1dClean .. | .l1dCleanInvalidate .. | .clusterClean .. | .clusterCleanInvalidate .. =>
    Part.accessed ++ [.mem, .caches, .integrity, .regs .clu, .regs .min]
  | .l1iInvalidate .. => Part.accessed ++ [.caches, .regs .clu]
  | .cacheFillReturn .. | .victimWritebackAck .. => [.mem, .caches, .integrity, .pmc, .regs .clu, .regs .min]
  | .cboOperation .. => Part.faulted ++ [.mem, .caches, .integrity, .regs .clu, .regs .min]
  | .ewqDoorbell .. | .ewqEnable .. | .ewqDisable .. | .ewqInvalidate .. => Part.accessed ++ [.ewq, .regs .ewq]
  | .ewqInvalidateDone .. => [.ewq, .regs .ewq]
  | .ewqReset .. =>
    Part.accessed ++ [.draws, .host, .link, .mem, .keys, .ewq, .integrity, .regs .ezl, .regs .ewq, .regs .min]
  | .ewqCopy .. | .ewqParity .. | .ewqParityCheck .. | .ewqXtsEncrypt .. | .ewqXtsDecrypt .. | .ewqGcmEncrypt ..
  | .ewqGcmDecrypt .. | .ewqGmac .. | .ewqKeyCommand .. | .ewqDescriptorComplete .. =>
    Part.registers ++ Part.faulted ++ [.draws, .rwm, .power, .host, .link, .mem, .keys, .ewq, .integrity]
  | .ewqReadTimeout .. =>
    Part.faulted ++ [.draws, .host, .link, .mem, .keys, .ewq, .integrity, .regs .ezl, .regs .ewq, .regs .min]
  | .recoveryComplete .. | .peerRestoreTimeout .. => Part.served ++ [.regs .min]
  | .bucketLeak => [.integrity, .regs .min]
  | .minTestArm .. => Part.accessed ++ [.integrity, .regs .min]
  | .minTestExpiry => [.regs .min]
  | .fltStep4 .. => Part.accessed ++ [.cfg, .wall, .entry, .regs .efu, .regs .wfl]
  | .latchCopy => [.flt, .regs .flt]
  | .startupEscalation => Part.faulted ++ [.cfg, .wall, .entry, .regs .efu, .regs .wfl]
  | .positionMismatch => Part.faulted ++ [.clock]
  | .monitorWindowEnd .. => [.pmc, .regs .pmc]
  | .directLinkUp .. => Part.faulted ++ [.host]
  | .challengeExpiry => [.mcp, .regs .mcp]
  | .handOverTimeout .. => Part.told ++ [.draws, .host, .rdma, .token, .regs .qpc, .regs .ltk]
  | .tokenRecordReadComplete .. | .leadTokenTry .. =>
    Part.faulted ++ [.draws, .host, .rdma, .keys, .token, .regs .qpc, .regs .ltk]
  | .cutInReread => [.keys, .token, .regs .ltk, .regs .cip]

/-- The families of commands that the frame statements go by. -/
inductive Family where
  /-- Registers, clocks, resets, the recovery ladder, memory integrity, counters (chapters 0, 2, 23, 24). -/
  | registers
  /-- The power entry, the Wallflower, the Caller and the power domains (chapters 15, 19, 20). -/
  | power
  /-- Clusters and caches, keys, engine work queues (chapters 16, 21, 22). -/
  | engines
  /-- The Emzifen link and the lead tokens (chapters 11, 12). -/
  | peer
  /-- Layout, rebuild, Promenade, journal and members (chapters 1, 8, 9). -/
  | layout
  /-- The switch core and the gates (chapters 6, 7). -/
  | fabric
  /-- Format and sanitize, Two-Step, drive slots (chapters 4, 13, 18). -/
  | walks
  /-- The energy store, the vault, management and SPDM (chapters 10, 17). -/
  | vault
  /-- The direct port, host I/O, RDMA (chapters 3, 5, 14). -/
  | hosts
  /-- Admin commands (chapter 4). -/
  | admin
  deriving DecidableEq, Repr

/-- The family of a command. -/
def Instr.family : Instr → Family
  | .plainRegisterWrite .. | .rcRegisterRead .. | .lowWordRead .. | .unassignedBlockAccess ..
  | .directHostRegisterAccess .. | .offDomainAccess .. | .registerRead .. | .registerWrite .. | .rwtFieldWrite ..
  | .coldReset | .moduleResetTaken | .memoryFillComplete | .pllLock | .rootClockFault | .measureBoundary
  | .boundaryWindowEnd | .measStepRequest .. | .timeStepApply | .measOffsWrite .. | .measSrcWrite ..
  | .offsetWriteTimeout | .holdoverExpiry | .measRunSet | .barAccess .. | .parityError .. | .recoveryComplete ..
  | .peerCopyRequest .. | .peerRestoreTimeout .. | .memorySweep .. | .bucketLeak | .minTestArm ..
  | .minTestExpiry | .watchdogRestart .. | .watchdogExpiry | .fltStep3Handover .. | .fltStep3 .. | .fltStep4 ..
  | .latchCopy | .startupEscalation | .positionMismatch | .pmcCounterPreset .. | .monitorWindowEnd ..
  | .monitorClear .. | .functionResetTimeout .. => .registers
  | .seatChange .. | .entryDebounceEnd .. | .rampComplete | .qualificationComplete .. | .railSequence
  | .currentLimitEngage | .currentLimitClear | .faultTimerExpiry .. | .fastTrip .. | .entryOpening ..
  | .entryLatchClear .. | .entryRestart .. | .moduleOff | .biasLoss | .peerCycleRelease | .phraseDecision ..
  | .avsAck .. | .avsTimeout .. | .domainIdleGate .. | .domainIdleOff .. | .handshakeDelayExpiry ..
  | .domainWake .. | .pwrWakeDomain .. | .pwrPowerOffDomain .. | .pwrEnterDormant .. | .dormantWake ..
  | .analogSample .. | .digitalInputChange .. | .ruleSweep | .ruleCtlWrite .. | .cycleArm .. | .cycleGo ..
  | .peerWakePulse .. | .wakePulse | .wakeTimerExpiry | .entryStartConditionChange .. => .power
  | .keyGenerate .. | .keyUnwrap .. | .keyZeroise .. | .keyDerivePair .. | .kekRatchet .. | .highWaterLoad ..
  | .slotStatusRead .. | .kekImport .. | .partitionStart .. | .partitionReset .. | .partitionResetComplete ..
  | .l1dClean .. | .l1dCleanInvalidate .. | .l1iInvalidate .. | .clusterClean .. | .clusterCleanInvalidate ..
  | .cacheFillReturn .. | .victimWritebackAck .. | .cboOperation .. | .ewqDoorbell .. | .ewqEnable ..
  | .ewqDisable .. | .ewqInvalidate .. | .ewqInvalidateDone .. | .ewqReset .. | .ewqCopy .. | .ewqParity ..
  | .ewqParityCheck .. | .ewqXtsEncrypt .. | .ewqXtsDecrypt .. | .ewqGcmEncrypt .. | .ewqGcmDecrypt ..
  | .ewqGmac .. | .ewqKeyCommand .. | .ewqDescriptorComplete .. | .ewqReadTimeout .. | .coreAccess .. =>
    .engines
  | .mirrorCopyAccept | .linkEnable .. | .linkTrained .. | .trainingTimeout | .trainingRetry | .fastRetrain
  | .peerRemoved .. | .linkAckReceived .. | .linkAckTimer | .mirrorCopyReceived .. | .windowWriteReceived ..
  | .messageReceived .. | .stateCopyReceived .. | .commitMarkerReceived .. | .commitReceived ..
  | .resendRequestReceived .. | .resumeReceived .. | .messageSendPost .. | .messageReceivePost ..
  | .messageWithdraw .. | .followLost | .leadSilenceTimeout | .leaseRenewal | .renewalComplete ..
  | .leaseExpiry .. | .peerSuspect | .cutInWaitEnd | .claimComplete .. | .fence | .fenceComplete ..
  | .takeComplete | .peerCycle | .moduleFenced | .standbySelfTest .. | .handOver .. | .handOverGranted ..
  | .handBack .. | .witnessReplace .. | .ltkHandOverGroup .. | .ltkHandOverAll .. | .ltkReleaseGroup ..
  | .ltkAcquireGroup .. | .ltkRunSelfTest .. | .peerSeated | .fastRetrainFail | .handOverTimeout ..
  | .tokenRecordReadComplete .. | .cutInReread | .leadTokenTry .. => .peer
  | .stripPost .. | .memberWriteComplete .. | .memberReadComplete .. | .figWriteNext .. | .figReadActive ..
  | .figReadNext .. | .stripeClose .. | .stripeIdleTimeout .. | .journalBlockWrite .. | .memberFailed ..
  | .rebuildStep .. | .rebuildStepComplete .. | .lostMapWrite .. | .lostMapDurable .. | .journalRehome ..
  | .repairStep .. | .scrubStep .. | .replacementAccept .. | .copyBackStep .. | .promenadeStart ..
  | .setCreate .. | .setDelete .. | .promenadeMoveStart .. | .promenadeCopyPassEnd .. | .promenadeCatchupDone ..
  | .promenadeOldRangeFree .. | .promenadeFinalEpoch .. | .promenadeDrainDone .. | .deletedExtentDeallocate .. =>
    .layout
  | .frameAdmission .. | .frameReadComplete .. | .resequencerArrival .. | .resequencerTimeout ..
  | .trackerFree .. | .pfcPauseReceived .. | .pauseExpiry .. | .pfcWatchdogExpiry .. | .pfcWatchdogEnd ..
  | .epochArm .. | .ftWriteShadow .. | .ftReadActive .. | .ftReadShadow .. | .epochDrained | .laneFrameStart ..
  | .gateEntryChange .. | .gateSwitchoverArm .. | .wheelSlotChange .. => .fabric
  | .firmwareActivation | .formatNvm .. | .sanitizeExitFailureMode .. | .sanitizeBlockErase ..
  | .sanitizeOverwrite .. | .sanitizeCryptoErase .. | .walkUnitComplete .. | .progressRecordDurable ..
  | .walkResume .. | .presenceChange .. | .slotDebounceEnd .. | .offListReceived .. | .offListTimeout
  | .slotPoweringEnd .. | .slotLinkUp .. | .slotTrainingTimeout .. | .slotCheckComplete .. | .attentionPress ..
  | .removalTimerEnd .. | .containment .. | .surpriseRemoval .. | .peerSlotEvent .. | .slotPowerOn ..
  | .slotOff .. | .slotForcedOff .. | .slotRetrain .. | .slotPrepare .. | .memberCommandTimeout ..
  | .memberCommandError .. | .sidebandPoll .. | .proposalExpiry .. | .setupDigestExchange ..
  | .slotDebounceBreak .. => .walks
  | .journalRecovery .. | .setAssembly .. | .energyMeasurement .. | .chargeComplete | .chargeLevelDrop
  | .nrgTestRequest .. | .capacityTestStart | .capacityTestDone .. | .storeFailure .. | .powerFailDecision
  | .quiesceComplete | .destageSeal .. | .decisionResetTimer | .vaultSelfCheck | .vaultRestore ..
  | .sectionSummary .. | .summaryTimeout | .restoreInstall .. | .vaultRetire | .vaultFault | .mapMirrorCopy ..
  | .mcpPacketReceived .. | .mcpReqDoorbell .. | .mcpRplRdyClear .. | .mcpNtcTailWrite .. | .fragmentTimeout ..
  | .getIdentity .. | .getChallenge .. | .getEntryRecord .. | .sessionOpen .. | .sessionReset ..
  | .sessionList .. | .noticeSubscribe .. | .getNotices .. | .moduleStatus .. | .logPageRead ..
  | .faultRecordsRead .. | .longOperationStatus .. | .leadCommand .. | .slotCommand .. | .layoutCommand ..
  | .moduleReset .. | .powerCycle .. | .setPowerState .. | .shelfBudget .. | .firmwareDownload ..
  | .mcpFirmwareCommit .. | .groupPolicy .. | .setMeasureLength .. | .twoStepPropose .. | .twoStepConfirm ..
  | .twoStepWithdraw .. | .twoStepStatus .. | .sessionIdleTimeout .. | .requestTimeout .. | .spdmGetVersion ..
  | .spdmGetCapabilities .. | .spdmNegotiateAlgorithms .. | .spdmGetDigests .. | .spdmGetCertificate ..
  | .spdmChallenge .. | .spdmGetMeasurements .. | .challengeExpiry => .vault
  | .flush .. | .write .. | .read .. | .compare .. | .writeZeroes .. | .datasetManagement .. | .verify ..
  | .reservationRegister .. | .reservationReport .. | .reservationAcquire .. | .reservationRelease .. | .copy ..
  | .unknownIoOpcode .. | .commandSlotGrant .. | .rangeLockGrant .. | .dirtyRoomGrant .. | .readDurableResume ..
  | .controllerReset .. | .keepAliveExpiry .. | .shutdownComplete .. | .connectionRequest .. | .readyToUse ..
  | .connectingTimeout .. | .disconnectRequest .. | .queuePairDrained .. | .inboundRequest ..
  | .inboundRdmaWrite .. | .rdmaReadResponse .. | .readRequestComplete .. | .readTrackerGrant ..
  | .ackReceived .. | .nakReceived .. | .ackTimeout .. | .rnrTimerExpiry .. | .cnpReceived .. | .rateStepTimer ..
  | .contextFillComplete .. | .evictionWritebackComplete .. | .qpcDoorbell .. | .workRequestComplete ..
  | .qpcCreate .. | .qpcRead .. | .qpcDestroy .. | .qpcFlush .. | .qpcPin .. | .qpcUnpin .. | .dirPerstDeassert
  | .dirPerstAssert | .cablePresenceChange .. | .configRequest .. | .sqDoorbell .. | .directReadCompletion ..
  | .directCompletionTimeout .. | .busMasterEnableClear .. | .busMasterEnableSet .. | .functionLevelReset ..
  | .flrTimeout .. | .d3hotEntry .. | .d0Return .. | .hotReset | .functionQuiesced .. | .directLinkUp ..
  | .connectionReject .. => .hosts
  | .firmwareTrialEnd | .firmwareTrialTimeout | .getLogPage .. | .identify .. | .abort .. | .setFeatures ..
  | .getFeatures .. | .asynchronousEventRequest .. | .namespaceManagementCreate ..
  | .namespaceManagementDelete .. | .adminCommandForward .. | .firmwareImageDownload .. | .firmwareCommitStore ..
  | .firmwareCommitStoreNext .. | .firmwareCommitMark .. | .firmwareCommitActivate .. | .namespaceAttach ..
  | .namespaceDetach .. | .keepAlive .. | .connect .. | .propertyGet .. | .propertySet ..
  | .authenticationSend .. | .authenticationReceive .. => .admin

/-! Stores. -/

/-- The bytes of memory, as address and length, that a key command stores to: a blob (R405), the rewrapped blobs and the KEK
behind them (R406), a slot's status (R402). -/
def Machine.KeyCommand.stores (c : Machine.KeyCommand) : List (Nat × Nat) :=
  if c.op = 1 then [(c.addr, 80)] else if c.op = 5 then [(c.addr, 80 * c.arg + 40)] else if c.op = 7 then [(c.addr, 16)] else []

/-- The bytes that a descriptor stores to when its engine takes it: the pieces of its destination, and a tag behind them. -/
def Machine.State.descriptorStores (s : Machine.State) (q : Nat) (d : Bytes) : List (Nat × Nat) :=
  let len := Machine.descLen d
  let pieces := match s.ewqBuffers q d with
    | .ok (_, dst) => dst
    | .error _ => []
  match Machine.descOpcode d with
  | 2 => match s.ewqList q (Machine.descDst d) (Machine.descMpar d) len with
    | .ok l => l.map (·, len)
    | .error _ => []
  | 3 => []
  | 6 => (Machine.descDst d + len, 16) :: pieces
  | 8 => [(Machine.descDst d, 16)]
  | 9 => (Machine.descKeyCommand d .ronhenko).stores
  | _ => pieces

/-- The completion ring of a queue, and what a key command that waits for a slot stores to. -/
def Machine.State.completionStores (s : Machine.State) (q : Nat) : List (Nat × Nat) :=
  (s.rd64 (Machine.EWQ_QCBASE.addr q), 16 * s.ewqSize q) :: (match s.keys.waiting with | some c => c.stores | none => [])

/-- No byte of memory outside these has changed. -/
def Machine.State.storesOnly (s t : Machine.State) (l : List (Nat × Nat)) : Prop :=
  ∀ a, (∀ r ∈ l, a < r.1 ∨ r.1 + r.2 ≤ a) → Machine.Memory.get a t.mem = Machine.Memory.get a s.mem

end Sys2Proof
end

