-- ==== Sys2Proof/Certificates/Slice0/Obligations.lean ====
section
/-! DEFINITION. The statements for the provers. -/

set_option Elab.async false

open Sys2Proof Sys2Proof.Machine

/-- For every command and state, the step of the state with the command at the front of its queue is exec of the command
on the state with the rest of the queue. -/
def Obligations.StepRunsFrontCommand : Prop :=
  ∀ (c : Instr) (rest : List Instr) (s : State),
    step { s with pending := c :: rest } = exec c { s with pending := rest }

/-- A step on an empty queue in which neither a boundary nor the end of its window falls due answers a next state in which
the time counter with its fraction has gained one cycle of R32, if the PTP clock runs, and is the same otherwise; memory and
queue stay. One in which the counter reaches the next boundary of the running grid is that boundary. That an empty queue lets
a cycle pass is the model's choice (log 2). -/
def Obligations.StepOfEmptyQueueIsOneCycle : Prop :=
  (∀ s : State, s.pending = [] → (s.gridRuns = true → s.tick.now < (s.measure + 1) * s.measureNs) →
    (s.clock.windowOpen = true → s.tick.now < s.clock.windowEnd) → ∃ t, step s = .next t ∧ t.pending = [] ∧ t.mem = s.mem ∧
    t.clock.fixed = (if s.flag (CLK_DOM.RUN 21) then (s.clock.fixed + tickAmount s.rate) % 2 ^ 96 else s.clock.fixed)) ∧
  (∀ s : State, s.pending = [] → s.running = true → s.gridRuns = true → (s.measure + 1) * s.measureNs ≤ s.tick.now →
    step s = exec .measureBoundary s)

/-- The register file and the memory of the reset state are in their canonical forms, its queue is empty and it has sent
nothing. -/
def Obligations.ResetIsCanonical : Prop :=
  State.reset.Canonical ∧ State.reset.pending = [] ∧ State.reset.out = []

/-- From every state in canonical form, whatever its queue holds, a step that answers a next state answers one in
canonical form: registers by rising address and none at its reset value, memory by rising address and no byte that an
unlisted address reads as. -/
def Obligations.StepKeepsCanonicalForm : Prop :=
  ∀ s t : State, s.Canonical → step s = .next t → t.Canonical

/-- Whatever the command and the state: when exec answers a next state, the queue of waiting commands is the one before,
and what the module had sent before is still the older part of what it has sent. -/
def Obligations.ExecKeepsQueueAndOutputs : Prop :=
  ∀ (c : Instr) (s t : State), exec c s = .next t → t.pending = s.pending ∧ ∃ l, t.out = l ++ s.out

/-- No command faults or is refused, whatever the state: the module answers each with a next state. -/
def Obligations.EveryCommandAnswersNextState : Prop :=
  ∀ (c : Instr) (s : State), ∃ t, exec c s = .next t

/-- While the SoC does not run (before its PLL locks, held in module reset, Off, Dormant, or past a power-fail decision),
every command but those of the always-on domain leaves the whole state as it was. -/
def Obligations.HeldModuleIgnoresSocCommands : Prop :=
  ∀ (c : Instr) (s : State), s.running = false → c.reachesAlwaysOn = false → exec c s = .next s

/-- While the SoC runs and no boundary window is open: a write that reaches a register its requester may write, and that
the block does not discard, stores the plain fields (with what EN of the direct port, the sweep, MCP_CFG, MIN_LEAK and
TWO_PSEL bring at once) and is answered; a read returns the value shown and clears RC fields; a read of a low word returns it
and latches the high word; an access to an unassigned block or to a domain that is not On is recorded and answered
with an error; a write to an RWT field makes its proposal. -/
def Obligations.RegisterAccessesComplete : Prop :=
  (∀ (s : State) who a (v : Word) h, s.running = true → s.clock.windowOpen = false → s.Opens who a → findReg a = some h →
    s.writeIgnored h = false → s.writeBlocked h = false → a ≠ MIN_LEAK.addr →
    exec (.plainRegisterWrite who a 4 v) s = .next (s.plainEffects ((s.written a v).answered who a v)).runJobs) ∧
  (∀ (s : State) who (v : Word), s.running = true → s.clock.windowOpen = false → s.Opens who MIN_LEAK.addr →
    exec (.plainRegisterWrite who MIN_LEAK.addr 4 v) s = .next ((s.plainEffects ((s.written MIN_LEAK.addr v).answered who
      MIN_LEAK.addr v)).onIntegrity fun x => { x with leakAt := s.now }).runJobs) ∧
  (∀ (s : State) who a h, s.running = true → s.clock.windowOpen = false → s.reach a 4 = .reached → findReg a = some h →
    s.mayRead who h = true →
    exec (.rcRegisterRead who a 4) s = .next ((s.readReg who a).2.emit (.regValue who a (s.readReg who a).1))) ∧
  (∀ (s : State) who a h, s.running = true → s.clock.windowOpen = false → s.reach a 4 = .reached → findReg a = some h →
    s.mayRead who h = true → h.row.wide = true → h.high = false → h.row.fields.any (fun f => f.acc == .wo) = false →
    ∃ t, exec (.lowWordRead who a) s = .next t ∧
      t.out = .regValue who a (BitVec.ofNat 32 (s.liveValue a).toNat) :: s.out ∧
      findPair t.hiLatch who a = some (BitVec.ofNat 32 ((s.liveValue a).toNat / 2 ^ 32)) ∧ t.regs = s.regs ∧ t.mem = s.mem) ∧
  (∀ (s : State) who a write, s.running = true → assigned a = false →
    exec (.unassignedBlockAccess who a write) s =
      .next ((s.fault { cls := 2, code := 0x80, severity := 1, source := 255, addr := a }).emit
        (.regError who a (if write then none else some 0xFFFFFFFF)))) ∧
  (∀ (s : State) who a b d, s.running = true → s.clock.windowOpen = false → s.reach a 4 = .off b d →
    exec (.offDomainAccess who a false) s = .next ((s.offAccess b d).emit (.regError who a (some 0xFFFFFFFF)))) ∧
  (∀ (s : State) who a b d, s.running = true → s.clock.windowOpen = false → s.reach a 4 = .off b d → findReg a = none →
    exec (.offDomainAccess who a true) s = .next (s.plainEffects ((s.offAccess b d).emit (.regError who a none)))) ∧
  (∀ (s : State) who a (v : Word), s.running = true → s.clock.windowOpen = false → s.Opens who a →
    exec (.rwtFieldWrite who a v) s = .next (((s.written a v).rwtProposal a v).answered who a v))

/-- While the SoC runs and no boundary window is open: with REGRD the direct host reads a register through PF1 BAR2, with
REGWR too it writes one that holds no RWT field and that management may write; while the port is up a four-byte memory
request of the host reads or writes the word of its BAR; a management Register Read returns its words and a Register
Write, with no RWT and no forbidden register among them, writes its words. -/
def Obligations.DirectAndManagementRegisterAccessesComplete : Prop :=
  (∀ (s : State) off (v : Word), s.running = true → s.clock.windowOpen = false → off % 4 = 0 → off < 0x1000000 →
    s.reach (0x00F000000000 + off) 4 = .reached → bitOf s.directRights 2 = true →
    exec (.directHostRegisterAccess off false v) s =
      .next ((s.readReg .directHost (0x00F000000000 + off)).2.emit
        (.direct (.data 4 ((s.readReg .directHost (0x00F000000000 + off)).1.setWidth 64)))).runJobs) ∧
  (∀ (s : State) off (v : Word), s.running = true → s.clock.windowOpen = false → off % 4 = 0 → off < 0x1000000 →
    s.reach (0x00F000000000 + off) 4 = .reached → bitOf s.directRights 2 = true → bitOf s.directRights 3 = true →
    holdsRwt (0x00F000000000 + off) = false → managementMayWrite (0x00F000000000 + off) = true →
    exec (.directHostRegisterAccess off true v) s =
      .next ((s.quietWrite .directHost (0x00F000000000 + off) v).emit (.direct .done)).runJobs) ∧
  (∀ (s : State) a (v : DWord) f bar place, s.running = true → s.clock.windowOpen = false → s.flag DPT_STAT.UP = true →
    s.barHit a = some (f, bar, place) → ¬(f = 1 ∧ bar = 0x18) → place % 4 = 0 →
    exec (.barAccess a 4 false v) s =
      .next ((s.barRead f bar place).2.emit (.direct (.data 4 (BitVec.ofNat 64 (s.barRead f bar place).1)))).runJobs ∧
    exec (.barAccess a 4 true v) s = .next ((s.barWrite f bar place (v.toNat % 2 ^ 32)).emit (.direct .done)).runJobs) ∧
  (∀ (s : State) slot tag c a n, s.running = true → s.clock.windowOpen = false → s.Requests slot tag 0x100 c →
    registerSpan c.params 1008 = .ok (a, n) →
    exec (.registerRead slot tag) s = .next ((s.readWords a 0 n).2.2.reply c (if (s.readWords a 0 n).2.1.isSome then 0x105 else 0)
      (firstErr (s.readWords a 0 n).2.1 ++ (s.readWords a 0 n).1))) ∧
  (∀ (s : State) slot tag c a n, s.running = true → s.clock.windowOpen = false → s.Requests slot tag 0x200 c →
    registerSpan c.params 64 = .ok (a, n) → (List.range n).all (fun i => !holdsRwt (a + 4 * i)) = true →
    (List.range n).all (fun i => managementMayWrite (a + 4 * i)) = true →
    exec (.registerWrite slot tag) s = .next ((s.writeWords a 0 n (c.params.drop 8)).2.reply c
      (if (s.writeWords a 0 n (c.params.drop 8)).1.isSome then 0x105 else 0)
      (firstErr (s.writeWords a 0 n (c.params.drop 8)).1)).runJobs)

/-- For every requester and every aligned four-byte access that reaches an assigned block at an offset without a register:
the read returns 0 and changes nothing, the write changes nothing, and both are answered without error. -/
def Obligations.EmptyOffsetReadsZeroAndIgnoresWrites : Prop :=
  ∀ (s : State) who a (v : Word), s.reach a 4 = .reached → findReg a = none →
    s.readRegister who a 4 = s.emit (.regValue who a 0) ∧ s.writeRegister who a 4 v = s.emit (.regDone who a)

/-- A narrower, wider or misaligned access is answered with an error and changes nothing else. An access to a block whose
domain is not On is answered with an error, a read of it with all ones too; it changes PWR_OFFACC and its counter and no other register, and every
other part of the state is the same. -/
def Obligations.BadAccessesLeaveRegisters : Prop :=
  (∀ (s : State) who a w (v : Word), w ≠ 4 ∨ a % 4 ≠ 0 →
    s.writeRegister who a w v = s.emit (.regError who a none) ∧ s.readRegister who a w = s.emit (.regError who a none)) ∧
  (∀ (s : State) who a b d (v : Word), s.reach a 4 = .off b d →
    (s.writeRegister who a 4 v).out = .regError who a none :: s.out ∧
    (s.readRegister who a 4).out = .regError who a (some 0xFFFFFFFF) :: s.out ∧
    { s.writeRegister who a 4 v with out := (s.readRegister who a 4).out } = s.readRegister who a 4 ∧
    (∀ x, x ≠ PWR_OFFACC.addr → x ≠ PWR_OFFACC_CNT.addr → (s.readRegister who a 4).reg x = s.reg x) ∧
    (s.readRegister who a 4).reg PWR_OFFACC_CNT.addr = s.reg PWR_OFFACC_CNT.addr + 1 ∧
    { s.readRegister who a 4 with regs := s.regs, out := s.out } = s)

/-- For every readable register pair: the low read returns the low word and latches the high word as it is then; the
requester's next read of the high word returns the latched word, whatever the pair holds by then, and uses it up; a
read of the high word with nothing latched returns the live high word. -/
def Obligations.LowWordReadLatchesHighWord : Prop :=
  ∀ (s u : State) who a h h', findReg a = some h → findReg (a + 4) = some h' → h.row.wide = true → h.high = false →
    h'.row = h.row → h'.high = true → h.row.fields.any (fun f => f.acc == .wo) = false →
    (s.readReg who a).1 = BitVec.ofNat 32 (s.liveValue a).toNat ∧
    (findPair u.hiLatch who a = findPair (s.readReg who a).2.hiLatch who a →
      (u.readReg who (a + 4)).1 = BitVec.ofNat 32 ((s.liveValue a).toNat / 2 ^ 32) ∧
      findPair (u.readReg who (a + 4)).2.hiLatch who a = none) ∧
    (findPair u.hiLatch who a = none → (u.readReg who (a + 4)).1 = BitVec.ofNat 32 ((u.liveValue a).toNat / 2 ^ 32))

/-- While the module is powered, not Dormant and not held in module reset, the lock of the PLL starts every clock domain. While the SoC runs: an accepted
MEAS_STEP request adds its value to the steps that wait and uses up the requester's low word; while the grid does not
run the accepted steps enter the counter; a write of SRC is judged; setting RUN starts the grid in the measure the
counter stands in; a boundary of the running grid has its actions; the end of an open window releases what it held.
Cold resets, module resets and the two faults that hold the module in reset have the effect of their rules. -/
def Obligations.ClockCommandsComplete : Prop :=
  (∀ s : State, s.clock.heldInReset = false → s.power.on = true → s.power.dormant = false →
    ∃ t, exec .pllLock s = .next t ∧ t.rd CLK_STAT.PLL_LOCK = 1 ∧
    t.rd CLK_STAT.ROOT_OK = 1 ∧ (∀ n < 25, t.rd (CLK_DOM.RUN n) = 1) ∧ t.clock = s.clock ∧ t.out = s.out) ∧
  (∀ (s : State) who (v : Word), s.running = true → s.Opens who (MEAS_STEP.addr + 4) →
    stepAccepted s.gridRuns (s.rd MEAS_STAT.STATE) = true →
    ∃ t, exec (.measStepRequest who v) s = .next t ∧ t.regs = s.regs ∧ findPair t.lowWord who MEAS_STEP.addr = none ∧
      t.clock = { s.clock with stepSum := s.clock.stepSum + s.pairRequest who MEAS_STEP.addr v }) ∧
  (∀ s : State, s.running = true → s.gridRuns = false → ∃ t, exec .timeStepApply s = .next t ∧
    t.clock = { s.clock with timeNs := s.clock.timeNs + s.clock.stepSum, stepSum := 0 } ∧ t.regs = s.regs ∧ t.out = s.out) ∧
  (∀ (s : State) src, s.running = true → 1 ≤ src → src ≤ 4 → s.rd MEAS_CTL.SRC ≠ src →
    ∃ t, exec (.measSrcWrite src) s = .next t ∧ t.rd MEAS_CTL.SRC = src ∧ t.rd MEAS_STAT.STATE = lockAcquiring ∧
      t.rd MEAS_STAT.INTOL = 0 ∧ t.rd MEAS_RATE.RATE = s.rd MEAS_RATE.RATE) ∧
  (∀ s : State, s.running = true → s.gridRuns = false → ∃ t, exec .measRunSet s = .next t ∧ t.gridRuns = true ∧
    t.clock = { s.clock with current := BitVec.ofNat 64 s.measureNumber } ∧ t.out = s.out) ∧
  (∀ s : State, s.running = true → s.gridRuns = true → s.clock.windowOpen = false →
    exec .measureBoundary s = .next s.boundary.ladderAtBoundary.dueAction.runJobs) ∧
  (∀ s : State, s.running = true → s.clock.windowOpen = true → exec .boundaryWindowEnd s = .next s.endWindow.runJobs) ∧
  (∀ s : State, s.entry.cause ≠ 0 → exec .coldReset s = .next s.coldReset) ∧
  (∀ s : State, s.clock.heldInReset = false → s.power.on = true → s.power.dormant = false →
    exec .moduleResetTaken s = .next (if s.flag WFL_STAT.PFD then s.rearmReset else s.moduleReset)) ∧
  (∀ s : State, s.running = true → s.flag MIN_STAT.FILLED = false → ∃ u : State, exec .memoryFillComplete s = .next u.runJobs ∧
    u.rd MIN_STAT.FILLED = 1 ∧ u.rd MCP_STAT.READY = 1 ∧ u.rd CIP_STAT.DRBG_OK = 1 ∧ u.rd PWR_STAT.MSTATE = 0 ∧ u.out = s.out) ∧
  (∀ s : State, s.clock.heldInReset = false → s.power.on = true → ∃ t, exec .rootClockFault s = .next t ∧
    t.clock.heldInReset = true ∧ t.running = false) ∧
  (∀ s : State, s.clock.heldInReset = false → ∃ t, exec .positionMismatch s = .next t ∧ t.clock.heldInReset = true ∧
    t.running = false)

/-- While the SoC runs: each write of MEAS_OFFS stores the offset, counts consecutive in-tolerance writes up to 16 outside
Free, and moves the state as Table 2.5 gives (an offset is in tolerance if its magnitude does not exceed TOL); 2 s in
Locked without a write start Holdover; Holdover that reaches HOLD becomes Unlocked; SRC 0 makes it Free, a reserved
SRC changes nothing. MEAS_RATE keeps its value at each. -/
def Obligations.LockStateFollowsTable : Prop :=
  (∀ (s : State) (offset : Word), s.running = true → s.Opens .ronhenko MEAS_OFFS.addr →
    ∃ t, exec (.measOffsWrite offset) s = .next t ∧ t.rd MEAS_OFFS.OFFS = offset.toNat ∧
      t.rd MEAS_RATE.RATE = s.rd MEAS_RATE.RATE ∧
      (s.rd MEAS_STAT.STATE = lockIdle → t.rd MEAS_STAT.STATE = lockIdle ∧ t.rd MEAS_STAT.INTOL = s.rd MEAS_STAT.INTOL) ∧
      (s.rd MEAS_STAT.STATE ≠ lockIdle → offset.toInt.natAbs ≤ s.rd MEAS_TOL.TOL →
        t.rd MEAS_STAT.INTOL = min 16 (s.rd MEAS_STAT.INTOL + 1) ∧
        ((s.rd MEAS_STAT.STATE = lockAcquiring ∨ s.rd MEAS_STAT.STATE = lockUnlocked) →
          t.rd MEAS_STAT.STATE = if 15 ≤ s.rd MEAS_STAT.INTOL then lockLocked else s.rd MEAS_STAT.STATE) ∧
        ((s.rd MEAS_STAT.STATE = lockLocked ∨ s.rd MEAS_STAT.STATE = lockHoldover) → t.rd MEAS_STAT.STATE = lockLocked)) ∧
      (s.rd MEAS_STAT.STATE ≠ lockIdle → s.rd MEAS_TOL.TOL < offset.toInt.natAbs → t.rd MEAS_STAT.INTOL = 0 ∧
        ((s.rd MEAS_STAT.STATE = lockLocked ∨ s.rd MEAS_STAT.STATE = lockHoldover) → t.rd MEAS_STAT.STATE = lockAcquiring) ∧
        ((s.rd MEAS_STAT.STATE = lockAcquiring ∨ s.rd MEAS_STAT.STATE = lockUnlocked) →
          t.rd MEAS_STAT.STATE = s.rd MEAS_STAT.STATE))) ∧
  (∀ s : State, s.running = true → s.rd MEAS_STAT.STATE = lockLocked → ∃ t, exec .offsetWriteTimeout s = .next t ∧
    t.rd MEAS_STAT.STATE = lockHoldover ∧ t.clock.holdover = true ∧ t.rd MEAS_RATE.RATE = s.rd MEAS_RATE.RATE) ∧
  (∀ s : State, s.running = true → s.rd MEAS_STAT.STATE = lockHoldover → ∃ u : State, u.rd MEAS_STAT.STATE = lockUnlocked ∧
    u.clock.holdover = false ∧ u.rd MEAS_RATE.RATE = s.rd MEAS_RATE.RATE ∧
    exec .holdoverExpiry s = .next (u.fault
      { cls := 6, code := 0x80, severity := 3, source := 2, data := (u.reg MEAS_STAT.addr).toNat, dataOff := 4 })) ∧
  (∀ s : State, s.running = true → ∃ t, exec (.measSrcWrite 0) s = .next t ∧ t.rd MEAS_CTL.SRC = 0 ∧
    t.rd MEAS_STAT.STATE = lockIdle ∧ t.rd MEAS_RATE.RATE = s.rd MEAS_RATE.RATE) ∧
  (∀ (s : State) src, 4 < src → exec (.measSrcWrite src) s = .next s)

/-- While the SoC runs: the watchdog restarts on its value and its expiry takes step 3 with a record; FLT_CMD operations
take their ladder step when no command runs and the module is not parked; the latch is copied into the ring with
PRIOR; the start-up escalation shows the ladder counts; a function reset timeout takes step 3; parity errors and the
ends of recoveries are handled; the peer's request for a copy is answered from a mirror copy; a sweep moves on;
buckets leak; the parity test is armed and expires; a counter preset loads both halves; an ended monitor window is
shown; a monitor clear is noted. -/
def Obligations.LadderAndCounterCommandsComplete : Prop :=
  (∀ (s : State) who, s.running = true → s.Opens who FLT_WDOG.addr → ∃ t, exec (.watchdogRestart who 0xA5#32) s = .next t ∧
    t.flt = { s.flt with watchdogAt := s.now } ∧ t.regs = s.regs) ∧
  (∀ s : State, s.running = true → s.rd FLT_CFG.WDOG ≠ 0 → s.gridRuns = true → s.flt.watchdogAt + 1000000 * s.rd FLT_CFG.WDOG ≤ s.now →
    exec .watchdogExpiry s = .next (((s.count FLT_WDOG_EXP.addr).fault
      { cls := 7, code := 0x82, severity := 4, source := 9, data := ((s.count FLT_WDOG_EXP.addr).reg FLT_CFG.addr).toNat,
        dataOff := 4 }).takeStep3 false)) ∧
  (∀ (s : State) who, s.running = true → s.Opens who FLT_CMD.addr → s.flag FLT_CMD.BUSY = false → s.flag FLT_STAT.PARKED = false →
    exec (.fltStep3Handover who) s = .next ((if ((s.wr FLT_CMD.STATUS 0).takeStep3 true).flt.afterHandOver
      then ((s.wr FLT_CMD.STATUS 0).takeStep3 true).wr FLT_CMD.BUSY 1
      else (s.wr FLT_CMD.STATUS 0).takeStep3 true).answered who FLT_CMD.addr (fltWord 1)).runJobs ∧
    exec (.fltStep3 who) s = .next (((s.wr FLT_CMD.STATUS 0).takeStep3 false).answered who FLT_CMD.addr (fltWord 2)) ∧
    exec (.fltStep4 who) s = .next ((s.wr FLT_CMD.STATUS 0).takeStep4.answered who FLT_CMD.addr (fltWord 3))) ∧
  (∀ (s : State) r, s.running = true → s.flt.latched = some r → s.flag FLT_STAT.LATCHV = true →
    exec .latchCopy s = .next ((s.enterRing { r with flags := r.flags ||| 2, read := false }).wr FLT_STAT.LATCHV 0)) ∧
  (∀ s : State, s.running = true → (s.recentSteps.filter (·.step == 4)).length < 3 → (s.recentSteps.filter (·.step == 3)).length < 3 →
    ∃ t, exec .startupEscalation s = .next t ∧ t.rd FLT_LADDER.S3 = (s.recentSteps.filter (·.step == 3)).length ∧
      t.rd FLT_LADDER.S4 = (s.recentSteps.filter (·.step == 4)).length ∧ t.out = s.out) ∧
  (∀ (s : State) f, s.running = true → s.direct.perstLow = false → s.direct.cableIn = true → s.flag DPT_CTL.EN = true → f ≤ 1 →
    s.fnState f = 0 → s.direct.perstAt + 100000000 ≤ s.now →
    exec (.functionResetTimeout f) s = .next (s.takeStep3 true).runJobs) ∧
  (∀ (s : State) item reader a n, s.running = true → exec (.parityError item reader a n) s = .next (s.parityError item reader a n).runJobs) ∧
  (∀ (s : State) id r, s.running = true → getBy Recovery.id id s.integrity.recoveries = some r →
    exec (.recoveryComplete id .restored) s = .next (((s.dropRecovery id).lineGood r.addr).recovered
      ((r.sources.head?.map sourceCode).getD 1) (regionOf r.item) r.addr r.test).runJobs ∧
    exec (.recoveryComplete id .failed) s = .next (s.sourceFailed r).runJobs ∧
    exec (.recoveryComplete id .rewritten) s =
      .next (((s.dropRecovery id).lineGood r.addr).integrityFault 11 1 (regionOf r.item) r.addr r.test).runJobs ∧
    (r.sources.head? = some .peer → r.askedAt + 100000 ≤ s.now →
      exec (.peerRestoreTimeout id) s = .next (s.sourceFailed r).runJobs)) ∧
  (∀ (s : State) group nsid lba meas m, s.running = true →
    (s.store.mirrors.find? fun m => m.group == group && m.nsid == nsid && m.lba == lba && m.meas == meas) = some m →
    exec (.peerCopyRequest group nsid lba meas) s = .next
      (s.sendFrame .window 9 group (s.rd (EZL_WIN_CTL.KEY 9)) 0 0 (.mirror ⟨m.nsid, m.lba, m.tag, m.content, m.dealloc⟩))) ∧
  (∀ (s : State) n, s.running = true → s.flag MIN_STAT.FILLED = true →
    exec (.memorySweep true none n) s = .next (s.onIntegrity fun x => { x with sweepCell := (x.sweepCell + 1) % 524288 }).runJobs ∧
    (s.flag MIN_SWEEP.EN = true → exec (.memorySweep false none n) s = .next s.sweepLine.runJobs)) ∧
  (∀ s : State, s.running = true → s.integrity.leakAt + 1000000 * s.rd MIN_LEAK.INTERVAL ≤ s.now →
    ∃ t, exec .bucketLeak s = .next t ∧ (∀ r < 33, t.rd (MIN_BKT.N r) = s.rd (MIN_BKT.N r) - 1) ∧ t.out = s.out ∧
      t.integrity = { s.integrity with leakAt := s.integrity.leakAt + 1000000 * s.rd MIN_LEAK.INTERVAL }) ∧
  (∀ (s : State) who (v : Word), s.running = true → s.Opens who MIN_TEST.addr → v.toNat / 2 ^ 31 = 1 →
    ∃ t, exec (.minTestArm who v) s = .next t ∧ t.rd MIN_STAT.ARMED = 1 ∧ t.rd MIN_TEST.ARM = 1) ∧
  (∀ s : State, s.running = true → s.flag MIN_STAT.ARMED = true → s.integrity.armedAt + 1000000000 ≤ s.now →
    ∃ t, exec .minTestExpiry s = .next t ∧
    t.rd MIN_STAT.ARMED = 0 ∧ t.rd MIN_STAT.EXPIRED = 1 ∧ t.rd MIN_TEST.ARM = 0 ∧ t.out = s.out) ∧
  (∀ (s : State) who n (v : Word), s.running = true → n < 48 → s.Opens who (PMC_CNT.addr n + 4) →
    ∃ t, exec (.pmcCounterPreset who n v) s = .next t ∧
      t.rd64 (PMC_CNT.addr n) = (s.pairRequest who (PMC_CNT.addr n) v).toNat % 2 ^ 48) ∧
  (∀ (s : State) who n, s.running = true → n < 16 → s.Opens who (PMC_BW_CTL.addr n) →
    ∃ t, exec (.monitorClear who n) s = .next t ∧ n ∈ t.pmc.clears) ∧
  (∀ (s : State) k m bytes dirty rest, s.running = true → getBy Monitor.key k s.pmc.monitors = some m →
    m.ended = (bytes, dirty) :: rest → (m.on || !rest.isEmpty) = true →
    exec (.monitorWindowEnd k) s =
      .next (((s.onMonitor k fun m => { m with ended := rest }).showWindow k bytes dirty).clearMonitor k))

/-- Both seats low take an unseated entry to Debounce; start conditions met for 10 ms turn the gate on in Ramping; VDS
below 0.3 V starts Qualifying; its 100,000 cycles end in On with PG_OUT released, or, if the fault timer starts in the
same cycle, with PG_OUT low; the rail sequence is a cold reset; engagement of the limit starts the fault timer, and
from On returns to Qualifying with PG_OUT low; its end stops the timer and counts it; its expiry and a fast trip latch
the entry Off with the record of the cause; an enabled source of an opening opens the entry; EN, PEER_CYCLE_N and the
seats clear a latch; a restart starts the debounce; after an opening the module goes Off; PEER_CYCLE_N is released;
below 8 V the entry is unseated with LIMIT clear. -/
def Obligations.EntryCommandsComplete : Prop :=
  (∀ s : State, s.entryState = entryUnseated → ∃ t, exec (.seatChange true true) s = .next t ∧ t.entryState = entryDebounce ∧
    t.flag EFU_STAT.SEATA = true ∧ t.flag EFU_STAT.SEATB = true ∧ t.out = s.out) ∧
  (∀ (s : State) enable cycleLow, ∃ t, exec (.entryStartConditionChange enable cycleLow) s = .next t ∧
    t.flag EFU_STAT.EN = enable ∧ t.flag EFU_STAT.CYCIN = cycleLow ∧ t.entryState = s.entryState ∧ t.out = s.out) ∧
  (∀ (s : State) vin, s.entryState = entryDebounce → s.flag EFU_STAT.SEATA = true → s.flag EFU_STAT.SEATB = true →
    s.flag EFU_STAT.EN = true → (s.flag EFU_STAT.CYCIN = false ∨ s.flag EFU_CFG.PEER_EN = false) → 10600 ≤ vin → vin < 65536 →
    ∃ t, exec (.entryDebounceEnd vin) s = .next t ∧ t.entryState = entryRamping ∧ t.rd EFU_VIN.MV = vin ∧
      t.out = .gate true :: s.out) ∧
  (∀ s : State, s.entryState = entryRamping → ∃ t, exec .rampComplete s = .next t ∧ t.entryState = entryQualifying ∧ t.out = s.out) ∧
  (∀ s : State, s.entryState = entryQualifying → s.flag EFU_STAT.LIMIT = false →
    (∃ t, exec (.qualificationComplete false) s = .next t ∧ t.entryState = entryOn ∧ t.flag EFU_STAT.PG = true) ∧
    (∃ t, exec (.qualificationComplete true) s = .next t ∧ t.entryState = entryQualifying ∧ t.flag EFU_STAT.LIMIT = true ∧
      t.rd EFU_STAT.PG = s.rd EFU_STAT.PG)) ∧
  (∀ s : State, s.entryState = entryOn → s.flag EFU_STAT.PG = true → s.power.on = false → exec .railSequence s = .next s.coldReset) ∧
  (∀ s : State, s.entryState = entryOn → s.flag EFU_STAT.LIMIT = false → ∃ t, exec .currentLimitEngage s = .next t ∧
    t.flag EFU_STAT.LIMIT = true ∧ t.entryState = entryQualifying ∧ t.flag EFU_STAT.PG = false) ∧
  (∀ s : State, s.flag EFU_STAT.LIMIT = true → ∃ t, exec .currentLimitClear s = .next t ∧ t.flag EFU_STAT.LIMIT = false ∧
    t.entryState = s.entryState ∧ t.reg EFU_LIMIT_EVTS.addr = s.reg EFU_LIMIT_EVTS.addr + 1) ∧
  (∀ (s : State) ipeak vin, entryRamping ≤ s.entryState → s.entryState ≤ entryOn →
    (s.flag EFU_STAT.LIMIT = true → ∃ t, exec (.faultTimerExpiry ipeak vin) s = .next t ∧ t.entryState = entryLatched ∧
      t.entry.cause = 1 ∧ t.rd EFU_LAST.CAUSE = 1 ∧ t.flag EFU_STAT.PG = false ∧ t.power.on = false) ∧
    (∃ t, exec (.fastTrip ipeak vin) s = .next t ∧ t.entryState = entryLatched ∧ t.entry.cause = 2 ∧ t.rd EFU_LAST.CAUSE = 2 ∧
      t.flag EFU_STAT.PG = false ∧ t.power.on = false ∧
      t.rd NRG_STAT.STATE = if s.rd NRG_STAT.STATE = 5 then 5 else 6) ∧
    (∃ t, exec (.entryOpening .overvoltage ipeak vin) s = .next t ∧ t.entryState = entryOpen ∧ t.rd EFU_LAST.CAUSE = 7 ∧
      t.flag EFU_STAT.PG = false ∧ t.power = s.power) ∧
    (∃ t, exec (.entryOpening .enable ipeak vin) s = .next t ∧ t.entryState = entryOpen ∧ t.rd EFU_LAST.CAUSE = 4 ∧
      t.flag EFU_STAT.EN = false)) ∧
  (∀ s : State, s.entryState = entryLatched →
    (∃ t, exec (.entryLatchClear .enable) s = .next t ∧ t.entryState = entryDebounce ∧ t.flag EFU_STAT.EN = true) ∧
    (s.flag EFU_CFG.PEER_EN = true → ∃ t, exec (.entryLatchClear .cycle) s = .next t ∧ t.entryState = entryDebounce) ∧
    (∃ t, exec (.entryLatchClear (.seat true false)) s = .next t ∧ t.entryState = entryUnseated)) ∧
  (∀ (s : State) vin, s.entryState = entryOpen → s.power.on = false → s.startConditions vin = true →
    ∃ t, exec (.entryRestart vin) s = .next t ∧ t.entryState = entryDebounce ∧ t.rd EFU_LAST.CAUSE = s.rd EFU_LAST.CAUSE) ∧
  (∀ s : State, s.gateOn = false → s.power.on = true → s.rd NRG_STAT.STATE = 6 → ∃ t, exec .moduleOff s = .next t ∧
    t.power.on = false ∧ t.running = false ∧ t.rd WFL_STAT.CYCPEND = 0) ∧
  (∀ s : State, ∃ t, exec .biasLoss s = .next t ∧ t.entryState = entryUnseated ∧ t.flag EFU_STAT.LIMIT = false ∧
    t.flag EFU_STAT.PG = false ∧ t.flt.latched = none) ∧
  (∀ s : State, s.flag EFU_STAT.PCYC = true → ∃ t, exec .peerCycleRelease s = .next t ∧ t.flag EFU_STAT.PCYC = false ∧
    t.entryState = s.entryState ∧ t.out = .pin .peerCycle true :: s.out)

/-- While the Wallflower runs: a sample of a channel whose filter restarts is shown raw and filtered, the code 0x8000
shows both as invalid; a change of a digital input is shown; a sweep is taken. A write of a programmable rule's
control word stores its fields, one of a fixed rule is discarded and answered. ARM notes its moment, a go within 1 ms
of it is a self power cycle, a peer wake pulses PEER_CYCLE_N. In Dormant an enabled wake source or pulse is shown,
counted and starts the module; expiry of the wake timer wakes as source 4. -/
def Obligations.WallflowerCommandsComplete : Prop :=
  (∀ (s : State) ch (raw : Word), s.wallRuns = true → ch < 32 →
    (raw.toNat % 65536 = 0x8000 → ∃ t, exec (.analogSample ch raw) s = .next t ∧ t.rd (WFL_VAL.RAW ch) = 0x8000 ∧
      t.rd (WFL_VAL.FILT ch) = 0x8000) ∧
    (raw.toNat % 65536 ≠ 0x8000 → s.power.dormant = false → s.rd (WFL_VAL.FILT ch) = 0x8000 →
      ∃ t, exec (.analogSample ch raw) s = .next t ∧ t.rd (WFL_VAL.RAW ch) = raw.toNat % 65536 ∧
        t.rd (WFL_VAL.FILT ch) = raw.toNat % 65536 ∧ t.out = s.out)) ∧
  (∀ (s : State) i high, s.wallRuns = true → 96 ≤ i → i ≤ 97 → s.inputHigh i = !high → s.power.dormant = false →
    s.domainState 128 ≠ 2 → ∃ t, exec (.digitalInputChange i high) s = .next t ∧ t.inputHigh i = high ∧
      (i, high) ∈ t.wall.edges) ∧
  (∀ s : State, s.wallRuns = true → exec .ruleSweep s = .next s.sweep) ∧
  (∀ (s : State) who r (v : Word), s.running = true → 4 ≤ r → r < 64 → s.Opens who (WFL_RULE_CTL.addr r) →
    ∃ t, exec (.ruleCtlWrite who r v) s = .next t ∧ t.rd (WFL_RULE_CTL.EN r) = v.toNat / 2 ^ 31 ∧
      t.rd (WFL_RULE_CTL.KIND r) = v.toNat / 2 ^ 28 % 4 ∧ t.rd (WFL_RULE_CTL.CMP r) = v.toNat / 2 ^ 26 % 4 ∧
      t.rd (WFL_RULE_CTL.SRC r) = v.toNat / 2 ^ 19 % 128 ∧ t.rd (WFL_RULE_CTL.AND_EN r) = v.toNat / 2 ^ 18 % 2 ∧
      t.rd (WFL_RULE_CTL.AND r) = v.toNat / 2 ^ 12 % 64) ∧
  (∀ (s : State) who r (v : Word), s.running = true → r < 4 →
    exec (.ruleCtlWrite who r v) s = .next (s.emit (.regDone who (WFL_RULE_CTL.addr r)))) ∧
  (∀ (s : State) who, s.power.on = true → s.power.dormant = false → s.clock.heldInReset = false → s.Opens who WFL_CMD.addr →
    (∃ t, exec (.cycleArm who) s = .next t ∧ t.wall.armed = some s.now ∧ t.regs = s.regs) ∧
    (∀ at_, s.wall.armed = some at_ → s.now - at_ ≤ 1000000 →
      exec (.cycleGo who) s = .next ((({ s with wall := { s.wall with armed := none } } : State).selfCycle).answered who WFL_CMD.addr 2)) ∧
    (∃ t, exec (.peerWakePulse who) s = .next t ∧ t.regs = s.regs ∧
      t.out = .regDone who WFL_CMD.addr :: .pin .peerCycle true :: .pin .peerCycle false :: s.out)) ∧
  (∀ (s : State) source, s.power.dormant = true → source < 6 → bitOf (s.rd WFL_WAKE.EN) source = true →
    exec (.dormantWake source) s = .next ((s.wr WFL_WAKECAUSE.SRC (s.rd WFL_WAKECAUSE.SRC ||| 2 ^ source)).count
      WFL_WAKES.addr).startAfterDormant) ∧
  (∀ s : State, s.power.dormant = true → bitOf (s.rd WFL_WAKE.EN) 3 = true →
    exec .wakePulse s = .next ((s.wr WFL_WAKECAUSE.SRC (s.rd WFL_WAKECAUSE.SRC ||| 8)).count WFL_WAKES.addr).startAfterDormant) ∧
  (∀ s : State, s.power.dormant = true → s.rd WFL_WTIMER.SECS ≠ 0 →
    exec .wakeTimerExpiry s = .next ((s.wr WFL_WTIMER.SECS 0).wake 4))

/-- While the SoC runs: an idle domain that Table 19.2 lets be gated is Gated on Accept and counted, and stays On on
Refuse with REFUSED and RDOM; a Gated domain that may go off is Off on Accept; a Delay of 1 to 1,000 µs shows the
domain changing, and its expiry asks again; work or a wake command brings a domain On; a permitted power-off command
ends with the domain Off and STATUS 0; PWR_CMD operation 3 begins the entry to Dormant. -/
def Obligations.PowerDomainCommandsComplete : Prop :=
  (∀ (s : State) d, s.running = true → (d < 112 ∨ d = 151) → s.domainState d = 0 → s.noIdle d = false →
    (∃ t, exec (.domainIdleGate d .accept) s = .next t ∧ t.domainState d = 1 ∧
      t.reg PWR_GATE_EVTS.addr = s.reg PWR_GATE_EVTS.addr + 1) ∧
    (∃ t, exec (.domainIdleGate d .refuse) s = .next t ∧ t.domainState d = 0 ∧ t.rd PWR_STAT.REFUSED = 1 ∧
      t.rd PWR_STAT.RDOM = d) ∧
    (∀ n, 1 ≤ n → n ≤ 1000 → ∃ t, exec (.domainIdleGate d (.delay n)) s = .next t ∧ t.domainState d = 3 ∧
      ⟨d, .gated, 1, 0, s.now + 1000 * n⟩ ∈ t.power.entries)) ∧
  (∀ (s : State) d, s.running = true → s.mayIdleOff d = true → s.domainState d = 1 → s.noIdle d = false →
    ∃ t, exec (.domainIdleOff d .accept) s = .next t ∧ t.domainState d = 2) ∧
  (∀ (s : State) d e, s.running = true → s.power.entries.find? (·.domain == d) = some e → e.goal = .gated → d < 155 →
    e.due ≤ s.now →
    (∃ t, exec (.handshakeDelayExpiry d .accept) s = .next t ∧ t.domainState d = 1) ∧
    (∃ t, exec (.handshakeDelayExpiry d .refuse) s = .next t ∧ t.domainState d = e.back % 4 ∧ t.rd PWR_STAT.REFUSED = 1)) ∧
  (∀ (s : State) d, s.running = true → d < 155 → (s.domainState d = 1 ∨ s.domainState d = 2) →
    ∃ t, exec (.domainWake d) s = .next t ∧ t.domainState d = 0) ∧
  (∀ (s : State) who d, s.running = true → s.Opens who PWR_CMD.addr → s.flag PWR_CMD.BUSY = false →
    (d < 155 → ∃ t, exec (.pwrWakeDomain who d) s = .next t ∧ t.domainState d = 0 ∧ t.rd PWR_CMD.STATUS = 0) ∧
    (s.mayCommandOff d = true → (s.domainState d = 0 ∨ s.domainState d = 1) →
      ∃ t, exec (.pwrPowerOffDomain who d .accept) s = .next t ∧ t.domainState d = 2 ∧ t.rd PWR_CMD.STATUS = 0 ∧
        t.rd PWR_CMD.BUSY = 0) ∧
    (∀ refuser u, s.power.dormantStep = none → u = s.written PWR_CMD.addr (pwrWord 3 0) →
      exec (.pwrEnterDormant who refuser) s =
        .next ((u.enterDormant refuser none).answered who PWR_CMD.addr (pwrWord 3 0)).runJobs))

/-- While the SoC runs: at the start of measure 31 the utilisations are shown and the decision of R479 waits for the
phrase boundary; the acknowledgement of a raise writes the divisor and the level and ends the change, that of a lower
ends the change; a timeout sets AVSERR, and the third in a row on a cluster holds it. -/
def Obligations.CallerCommandsComplete : Prop :=
  (∀ (s : State) pin tj d utils, s.running = true → s.gridRuns = true → s.measure % 32 = 31 → s.power.pending = none →
    ∃ t, exec (.phraseDecision pin tj d utils) s = .next t ∧
    t.power.pending = some ((s.showWants utils).decidePhrase pin tj d) ∧ t.power.changes = s.power.changes ∧ t.out = s.out) ∧
  (∀ (s : State) c ch, s.running = true → c < 8 → s.power.changes.find? (·.cluster == c) = some ch →
    s.power.deferred = [] → ch.target < 6 →
    ∃ t, exec (.avsAck c) s = .next t ∧ t.flag (CAL_CL.BUSY c) = false ∧
      (ch.raise = true → t.rd (CAL_CL.CUR c) = ch.target ∧ t.rd (CLK_DOM.DIV c) = levelDivisor ch.target) ∧
      (ch.raise = false → t.rd (CAL_CL.CUR c) = s.rd (CAL_CL.CUR c) ∧ t.rd (CLK_DOM.DIV c) = s.rd (CLK_DOM.DIV c)) ∧
      t.power.changes.all (·.cluster != c) = true ∧ t.out = s.out) ∧
  (∀ (s : State) c ch, s.running = true → c < 8 → s.power.changes.find? (·.cluster == c) = some ch →
    s.power.deferred = [] → ch.since + 50000 ≤ s.now →
    ∃ t, exec (.avsTimeout c) s = .next t ∧ t.flag (CAL_CL.AVSERR c) = true ∧ t.flag (CAL_CL.BUSY c) = false ∧
      t.rd (CAL_CL.CUR c) = s.rd (CAL_CL.CUR c) ∧
      (2 ≤ perSet s.power.avsFails c → t.flag (CAL_CL.HELD c) = true))

/-- While the SoC runs: a partition start on a stopped partition whose ENTRY lies in its memory sets it running with every
core started at ENTRY, and STATUS 2 where ENTRY lies outside; a reset of a running partition begins its sequence and
shows Resetting and BUSY; its completion shows Stopped; each maintenance operation acts on its caches and is done once
the fills in flight that it dooms have come back; a load that its L1D holds returns the line's bytes and a miss takes
the slot; a fill in flight that returns completes; the L2's acknowledgement takes the oldest victim; a cbo operation
acts on its line. -/
def Obligations.ClusterAndCacheCommandsComplete : Prop :=
  (∀ (s u : State) who c p, s.running = true → c < 8 → s.Opens who (CLU_PCMD.addr c) →
    u = s.written (CLU_PCMD.addr c) (pcmdWord 1) → u.flag (CLU_PCMD.BUSY c) = false → u.clusterOwner c = some p →
    u.rd (CLU_PSTAT.STATE c) = partStopped →
    (u.inPartition p (u.rd64 (CLU_ENTRY.addr c) % 2 ^ 48) = false → ∃ t, exec (.partitionStart who c) s = .next t ∧
      t.rd (CLU_PCMD.STATUS c) = 2 ∧ t.rd (CLU_PSTAT.STATE c) = partStopped) ∧
    (u.inPartition p (u.rd64 (CLU_ENTRY.addr c) % 2 ^ 48) = true →
      exec (.partitionStart who c) s = .next ((u.startPartition p c).answered who (CLU_PCMD.addr c) (pcmdWord 1)) ∧
      (u.startPartition p c).rd (CLU_PSTAT.STATE c) = partRunning ∧ (u.startPartition p c).rd (CLU_PSTAT.ON c) = 0xFF ∧
      (u.startPartition p c).rd (CLU_PCMD.STATUS c) = 0)) ∧
  (∀ (s u : State) who c p, s.running = true → c < 8 → s.Opens who (CLU_PCMD.addr c) →
    u = s.written (CLU_PCMD.addr c) (pcmdWord 2) → u.flag (CLU_PCMD.BUSY c) = false → u.clusterOwner c = some p →
    u.rd (CLU_PSTAT.STATE c) = partRunning →
    exec (.partitionReset who c) s = .next ((u.resetPartition p).answered who (CLU_PCMD.addr c) (pcmdWord 2))) ∧
  (∀ (s : State) p c rest, s.running = true → s.clustersOf p = c :: rest → s.rd (CLU_PSTAT.STATE c) = partResetting →
    s.flag (CLU_CTL.AUTOSTART c) = false → ∃ t, exec (.partitionResetComplete p) s = .next t ∧
      (∀ k ∈ s.clustersOf p, t.rd (CLU_PSTAT.STATE k) = partStopped ∧ t.rd (CLU_PCMD.BUSY k) = 0 ∧
        t.rd (CLU_PCMD.STATUS k) = 0) ∧ t.out = s.out) ∧
  (∀ (s : State) who c core, s.running = true → c < 8 → s.Opens who (CLU_MAINT.addr c) → s.flag (CLU_MAINT.BUSY c) = false →
    (∀ u, u = s.written (CLU_MAINT.addr c) (maintWord core 1) →
      exec (.l1dClean who c core) s = .next (((((u.doom (fun _ => true) (·.id == l1dOf (8 * c + core % 8))).cleanL1d
        (l1dOf (8 * c + core % 8))).wr (CLU_MAINT.BUSY c) 1).endMaintenance).answered who (CLU_MAINT.addr c) (maintWord core 1))) ∧
    (∀ u, u = s.written (CLU_MAINT.addr c) (maintWord core 2) →
      exec (.l1dCleanInvalidate who c core) s = .next ((((((u.doom (fun _ => true) (·.id == l1dOf (8 * c + core % 8))).cleanL1d
        (l1dOf (8 * c + core % 8))).emptyCache (l1dOf (8 * c + core % 8))).wr (CLU_MAINT.BUSY c) 1).endMaintenance).answered
          who (CLU_MAINT.addr c) (maintWord core 2))) ∧
    (∀ u, u = s.written (CLU_MAINT.addr c) (maintWord core 3) →
      exec (.l1iInvalidate who c core) s = .next (((((u.doom (fun _ => true) (·.id == l1iOf (8 * c + core % 8))).emptyCache
        (l1iOf (8 * c + core % 8))).wr (CLU_MAINT.BUSY c) 1).endMaintenance).answered who (CLU_MAINT.addr c) (maintWord core 3))) ∧
    (∀ u, u = s.written (CLU_MAINT.addr c) (maintWord 0 4) →
      exec (.clusterClean who c) s = .next (((((u.doom (fun _ => true) (cacheCluster ·.id == c)).cleanCluster c).wr
        (CLU_MAINT.BUSY c) 1).endMaintenance).answered who (CLU_MAINT.addr c) (maintWord 0 4))) ∧
    (∀ u, u = s.written (CLU_MAINT.addr c) (maintWord 0 5) →
      exec (.clusterCleanInvalidate who c) s = .next ((((((u.doom (fun _ => true) (cacheCluster ·.id == c)).cleanCluster c).each
        (List.range 17) fun n s => s.emptyCache (17 * c + n)).wr (CLU_MAINT.BUSY c) 1).endMaintenance).answered
          who (CLU_MAINT.addr c) (maintWord 0 5)))) ∧
  (∀ (s : State) core (a : CoreAccess) l, s.running = true → a.len ≤ 64 - a.addr % 64 → a.data = [] → a.kind = .load →
    s.corePath core a.addr = .cached → (s.cache (l1dOf core)).stalled = [] →
    (s.cache (l1dOf core)).find (a.addr / 64) = some l → ∃ t, exec (.coreAccess core a) s = .next t ∧ t.regs = s.regs ∧
      t.mem = s.mem ∧ t.caches = s.caches ∧
      t.out = .core (cacheCore (l1dOf core)) (.data ((l.bytes.drop (a.addr % 64)).take a.len)) :: s.out) ∧
  (∀ (s : State) c n m, s.running = true → c < 8 → n < 16 → (s.cache (17 * c + n)).misses = [m] → m.evict = false →
    exec (.cacheFillReturn c n) s = .next (s.completeFill (17 * c + n) m)) ∧
  (∀ (s : State) c n v rest, s.running = true → c < 8 → n < 16 → (s.cache (17 * c + n)).victims = v :: rest →
    exec (.victimWritebackAck c n) s = .next (s.victimAcked (17 * c + n))) ∧
  (∀ (s : State) core op a, s.running = true → s.corePath core a = .cached →
    exec (.cboOperation core op a) s = .next (s.cbo core op (a / 64)))

/-- While the SoC runs and no key command runs, no operation in flight holds a slot and INIT is 0 (a zeroise needs no INIT
0): generate draws a key whose halves differ, loads it and stores its blob under the current KEK; unwrap loads the key
of a blob that fits the slot; zeroise empties the slot; derive loads slots 0 to 3 from the device key and the pair
root key; the ratchet makes the next KEK and rewraps the listed blobs, and stays under way while the link is Paired; a
high-water load raises and never lowers; slot status stores 16 bytes; an import takes the peer's next KEK. Which bytes
of the 16 hold kind, valid and KEKGEN is the model's choice (log 6). -/
def Obligations.KeyCommandsComplete : Prop :=
  ∀ (s : State) who slot, s.running = true → s.Opens who CIP_KCMD.addr → s.flag CIP_KCMD.BUSY = false → s.keys.inUse = [] →
    slot < 8320 →
    (∃ t, exec (.keyZeroise who slot) s = .next t ∧ t.rd CIP_KCMD.STATUS = 0 ∧ t.rd CIP_KCMD.BUSY = 0 ∧ t.keySlot slot = none ∧
      t.mem = s.mem) ∧
    (s.flag CIP_STAT.INIT = false →
      (∀ kek, 128 ≤ slot → s.flag CIP_STAT.DRBG_OK = true → s.kek (s.rd CIP_STAT.KEKGEN) = some kek →
        halvesEqual (s.random 64).1 = false → ∃ t, exec (.keyGenerate who slot) s = .next t ∧ t.rd CIP_KCMD.STATUS = 0 ∧
          t.keySlot slot = some ⟨slot, 1, (s.random 64).1, s.rd CIP_STAT.KEKGEN⟩ ∧
          t.mem = (s.storeBytes (s.rd64 CIP_KCMD_ADDR.addr) (keyBlob 1 (s.rd CIP_STAT.KEKGEN) (slot - 127)
            (Config.kwWrap kek (s.random 64).1))).mem) ∧
      (∀ kind gen owner key, s.openBlob (s.load (s.rd64 CIP_KCMD_ADDR.addr) 80) = some (kind, gen, owner, key) →
        blobFits slot kind owner = true → (kind = 2 ∨ halvesEqual key = false) →
        ∃ t, exec (.keyUnwrap who slot) s = .next t ∧ t.rd CIP_KCMD.STATUS = 0 ∧ t.keySlot slot = some ⟨slot, kind, key, gen⟩ ∧
          t.mem = s.mem) ∧
      (∀ prk, s.keys.prk = some prk → ∃ t, exec (.keyDerivePair who) s = .next t ∧ t.rd CIP_KCMD.STATUS = 0 ∧
        t.slotKey 0 = Config.kdf Config.deviceKey labelVault 0 ∧ t.slotKey 1 = Config.kdf prk labelJournal 0 ∧
        t.slotKey 2 = Config.kdf prk labelLink s.cfg.position ∧ t.slotKey 3 = Config.kdf prk labelLink (1 - s.cfg.position)) ∧
      (∀ prk v, s.flag CIP_STAT.DRBG_OK = true → s.keys.prk = some prk →
        s.newKek.2.2.rewrap s.newKek.1 s.newKek.2.1 (s.rd64 CIP_KCMD_ARG.addr) (s.rd64 CIP_KCMD_ADDR.addr) = some v →
        ∃ t, exec (.kekRatchet who) s = .next t ∧ t.rd CIP_KCMD.STATUS = 0 ∧ t.rd CIP_STAT.RATCHET = (if s.rd EZL_STAT.STATE = 3 then 1 else 0) ∧
          t.rd CIP_STAT.KEKGEN = (s.rd CIP_STAT.KEKGEN + 1) % 65536) ∧
      (∀ k, s.keySlot slot = some k → (∃ t, exec (.highWaterLoad who slot) s = .next t ∧ t.rd CIP_KCMD.STATUS = 0 ∧
          t.highWater slot (s.loadNat (s.rd64 CIP_KCMD_ADDR.addr) 4) = some (max (s.rd64 CIP_KCMD_ARG.addr)
            ((s.highWater slot (s.loadNat (s.rd64 CIP_KCMD_ADDR.addr) 4)).getD 0))) ∧
        (∃ t, exec (.slotStatusRead who slot) s = .next t ∧ t.rd CIP_KCMD.STATUS = 0 ∧
          t.mem = (s.storeBytes (s.rd64 CIP_KCMD_ADDR.addr)
            (leBytes 1 k.kind ++ leBytes 1 1 ++ leBytes 2 k.kekgen ++ leBytes 12 0)).mem)) ∧
      (∀ prk kek, s.keys.prk = some prk → Config.kwUnwrap (Config.kdf prk labelKek ((s.rd CIP_STAT.KEKGEN + 1) % 65536 % 256))
          (s.load (s.rd64 CIP_KCMD_ADDR.addr) 40) = some kek →
        ∃ t, exec (.kekImport who) s = .next t ∧ t.rd CIP_KCMD.STATUS = 0 ∧ t.rd CIP_STAT.KEKGEN = (s.rd CIP_STAT.KEKGEN + 1) % 65536 ∧
          t.kek ((s.rd CIP_STAT.KEKGEN + 1) % 65536) = some kek))

/-- While the SoC runs: when a pool's next engine takes from a queue, the queue's next descriptor of that opcode starts
with its execution's effect; a finished descriptor, or one whose read gets no response, is drained in ring order; a
valid doorbell moves TAIL and prefetches; an enable with both rings in the owner's memory starts a Disabled queue from
HEAD; a shut-down with work in flight is Quiescing, and with none Disabled; an invalidate discards what was prefetched
and records STARTED; its end lets the queue fetch; a reset leaves the queue Disabled with its counts 0. -/
def Obligations.EngineQueueCommandsComplete : Prop :=
  (∀ (s : State) q d, s.running = true → s.startable q = some d →
    (s.nextQueue 0 = some q →
      (descOpcode d = 1 → exec (.ewqCopy q) s = .next (s.startDescriptor q d)) ∧
      (descOpcode d = 2 → exec (.ewqParity q) s = .next (s.startDescriptor q d)) ∧
      (descOpcode d = 3 → exec (.ewqParityCheck q) s = .next (s.startDescriptor q d))) ∧
    (s.nextQueue 1 = some q →
      (descOpcode d = 4 → exec (.ewqXtsEncrypt q) s = .next (s.startDescriptor q d)) ∧
      (descOpcode d = 5 → exec (.ewqXtsDecrypt q) s = .next (s.startDescriptor q d)) ∧
      (descOpcode d = 6 → exec (.ewqGcmEncrypt q) s = .next (s.startDescriptor q d)) ∧
      (descOpcode d = 7 → exec (.ewqGcmDecrypt q) s = .next (s.startDescriptor q d)) ∧
      (descOpcode d = 8 → exec (.ewqGmac q) s = .next (s.startDescriptor q d))) ∧
    (s.nextQueue 2 = some q → descOpcode d = 9 → exec (.ewqKeyCommand q) s = .next (s.startDescriptor q d))) ∧
  (∀ (s : State) q count r, s.running = true → (∀ d, s.startable q = some d → (s.engineQueue q).next ≠ count) →
    (s.engineQueue q).running.find? (fun r => r.count == count && !r.finished) = some r →
    exec (.ewqDescriptorComplete q count) s = .next (s.ewqFinish q count id) ∧
    (∀ a, exec (.ewqReadTimeout q count a) s =
      .next (s.ewqFinish q count fun r => { r with status := 6, result := 0, errAddr := a }))) ∧
  (∀ (s : State) who q tail, s.running = true → q < 128 → tail < 65536 → s.Opens who (EWQ_QTAIL.addr q) → s.tailValid q tail = true →
    ∃ t, exec (.ewqDoorbell who q tail) s = .next t ∧ t.rd (EWQ_QTAIL.TAIL q) = tail ∧
      (s.rd (EWQ_QSTAT.STATE q) = ewqRunning → s.flag (EWQ_QCMD.BUSY q) = false →
        ((t.engineQueue q).prefetched).length = min 9 (count16 tail (s.engineQueue q).next))) ∧
  (∀ (s : State) who q, s.running = true → q < 128 → s.Opens who (EWQ_QCTL.addr q) →
    s.rd (EWQ_QSTAT.STATE q) = ewqDisabled → s.ewqOwns q (s.rd64 (EWQ_QBASE.addr q)) (64 * s.ewqSize q) = true →
    s.ewqOwns q (s.rd64 (EWQ_QCBASE.addr q)) (16 * s.ewqSize q) = true → 4 ≤ s.rd (EWQ_QCTL.SIZE q) → s.rd (EWQ_QCTL.SIZE q) ≤ 12 →
    ∃ t, exec (.ewqEnable who q) s = .next t ∧ t.rd (EWQ_QSTAT.STATE q) = ewqRunning ∧ t.rd (EWQ_QCTL.EN q) = 1 ∧
      (t.engineQueue q).next = s.rd (EWQ_QHEAD.HEAD q)) ∧
  (∀ (s : State) who q, s.running = true → q < 128 → s.Opens who (EWQ_QCTL.addr q) → s.rd (EWQ_QSTAT.STATE q) = ewqRunning →
    ((s.engineQueue q).running ≠ [] → ∃ t, exec (.ewqDisable who q) s = .next t ∧ t.rd (EWQ_QSTAT.STATE q) = ewqQuiescing ∧
      (t.engineQueue q).prefetched = [] ∧ (t.engineQueue q).running = (s.engineQueue q).running) ∧
    ((s.engineQueue q).running = [] → s.flag (EWQ_QSTAT.LATCH q) = false →
      ∃ t, exec (.ewqDisable who q) s = .next t ∧ t.rd (EWQ_QSTAT.STATE q) = ewqDisabled)) ∧
  (∀ (s : State) who q, s.running = true → q < 128 → s.Opens who (EWQ_QCMD.addr q) → s.flag (EWQ_QCMD.BUSY q) = false →
    (∃ t, exec (.ewqInvalidate who q) s = .next t ∧ t.rd (EWQ_QCMD.BUSY q) = 1 ∧
      t.rd (EWQ_QCMD.STARTED q) = (s.engineQueue q).next % 65536 ∧ (t.engineQueue q).prefetched = [] ∧ t.mem = s.mem) ∧
    (s.keys.waiting = none → ∃ t, exec (.ewqReset who q) s = .next t ∧ t.rd (EWQ_QSTAT.STATE q) = ewqDisabled ∧ t.rd (EWQ_QHEAD.HEAD q) = 0 ∧
      t.rd (EWQ_QTAIL.TAIL q) = 0 ∧ t.rd (EWQ_QCCNT.CCNT q) = 0 ∧ t.rd (EWQ_QSTAT.ERR q) = 0 ∧ t.engineQueue q = ⟨q, 0, [], []⟩ ∧
      t.mem = s.mem)) ∧
  (∀ (s : State) q, s.running = true → q < 128 → s.flag (EWQ_QCMD.BUSY q) = true → ∃ t, exec (.ewqInvalidateDone q) s = .next t ∧
    t.rd (EWQ_QCMD.BUSY q) = 0 ∧ t.mem = s.mem)

/-- While the SoC runs: with EN set, the peer seated, the link keys loaded and the module not parked, the link trains from
Down; a removal or EN cleared takes it Down; training that reaches a width is Linked with LSEQ from 0 and the next
EPOCH, one that times out is Down; a fast retrain is Training and counted, and its failure leaves Paired; messages are
posted, received and withdrawn; an acknowledgement that is due is sent; the oldest waiting mirror copy is accepted; a
follow whose commit is CTMO measures late is lost and baselines are due again, and a follow without a marker for CTMO
measures follows no group. -/
def Obligations.LinkStateCommandsComplete : Prop :=
  (∀ (s : State) who (v : Word), s.running = true → s.Opens who EZL_CTL.addr → s.linkState = linkDown → s.link.peerSeated = true →
    s.linkKeyed = true → s.flag FLT_STAT.PARKED = false → ∃ t, exec (.linkEnable who v) s = .next t ∧ t.linkState = linkTraining ∧ t.rd EZL_CTL.EN = 1) ∧
  (∀ s : State, s.running = true → exec (.peerRemoved none) s =
    .next ((({ s with link := { s.link with peerSeated := false } } : State).linkGoesDown).runJobs)) ∧
  (∀ (s : State) who (v : Word), s.running = true → s.Opens who EZL_CTL.addr → exec (.peerRemoved (some (who, v))) s =
    .next (((((s.written EZL_CTL.addr (v &&& 0x7FFFFFFF#32)).wr EZL_CTL.EN 0).linkGoesDown).runJobs).answered who EZL_CTL.addr
      (v &&& 0x7FFFFFFF#32))) ∧
  (∀ s : State, s.linkGoesDown.linkState = linkDown ∧ s.linkGoesDown.link.retained = [] ∧ s.linkGoesDown.link.peer = none) ∧
  (∀ s : State, s.running = true → s.linkState = linkDown → s.flag EZL_CTL.EN = true → s.linkKeyed = true → s.flag FLT_STAT.PARKED = false →
    (∃ t, exec .peerSeated s = .next t ∧ t.linkState = linkTraining ∧ t.link.peerSeated = true) ∧
    (s.link.peerSeated = true → s.link.since + 1000000000 ≤ s.now → ∃ t, exec .trainingRetry s = .next t ∧
      t.linkState = linkTraining ∧ t.link = { s.link with since := s.now })) ∧
  (∀ (s : State) lanes, s.running = true → s.linkState = linkTraining → linkWidth lanes ≠ 0 → s.link.fromPaired = false →
    s.rd EZL_STAT.WIDTH = 0 → s.link.channels = [] → s.link.epochTx < 2 ^ 32 - 2 → ∃ u : State, exec (.linkTrained lanes) s = .next u.runJobs ∧ u.linkState = linkLinked ∧
      u.rd EZL_STAT.WIDTH = linkWidth lanes ∧ u.link.txSeq = 1 ∧ u.link.rxSeq = 0 ∧ u.link.epochTx = s.link.epochTx + 1) ∧
  (∀ s : State, s.running = true → s.linkState = linkTraining → s.link.since + 50000000 ≤ s.now →
    exec .trainingTimeout s = .next (s.linkGoesDown.plainFault 3 1 0x24).runJobs) ∧
  (∀ s : State, s.running = true → s.linkUp = true → ∃ u : State, exec .fastRetrain s = .next u.runJobs ∧ u.linkState = linkTraining ∧
    u.link.fromPaired = s.paired ∧ u.reg EZL_RETRAIN.addr = s.reg EZL_RETRAIN.addr + 1) ∧
  (∀ s : State, s.running = true → s.linkState = linkTraining → s.rd EZL_STAT.WIDTH ≠ 0 →
    exec .fastRetrainFail s = .next ((s.leavePaired.enterLink linkTraining).wr EZL_STAT.WIDTH 0).runJobs ∧
    (s.link.fromPaired = true → s.leavePaired.link.fromPaired = false ∧ s.leavePaired.link.following = [])) ∧
  (∀ (s : State) who c post, s.running = true → c < 16 → post < 256 → s.Opens who (EZL_CH_RXPOST.addr c) →
    ∃ t, exec (.messageReceivePost who c post) s = .next t ∧ t.rd (EZL_CH_RXPOST.POST c) = post ∧ t.link = s.link) ∧
  (∀ (s : State) who c post, s.running = true → c < 16 → post < 256 → s.Opens who (EZL_CH_TXPOST.addr c) →
    s.flag (EZL_CH_BASE_HI.OPEN c) = true → s.linkUp = false →
    ∃ t, exec (.messageSendPost who c post) s = .next t ∧ t.rd (EZL_CH_TXPOST.POST c) = post ∧
      (t.channel c).sending.map (·.1) = (s.channel c).sending.map (·.1) ++ slotsUpTo (s.channel c).nextSend post ∧
      (t.channel c).nextSend = post ∧ t.mem = s.mem) ∧
  (∀ (s : State) c, s.running = true → (s.channel c).sentAs = none →
    (s.channel c).headSince + 1000000 ≤ s.now → exec (.messageWithdraw c) s = .next (s.endMessage c 3)) ∧
  (∀ s : State, s.running = true → s.linkUp = true → 0 < s.link.sinceAck → s.link.txSeq < 2 ^ 32 - 1 → ∃ t, exec .linkAckTimer s = .next t ∧
    t.link.sinceAck = 0 ∧ t.link.txSeq = s.link.txSeq + 1 ∧ t.mem = s.mem) ∧
  (∀ (s : State) i rest c, s.running = true → s.paired = true → s.link.waiting = i :: rest → s.link.holdAccept = none →
    s.linkCredit (cellsOf 4160) = true → s.link.txSeq < 2 ^ 32 - 1 → s.store.copies.find? (·.id == i) = some c → c.cmd = none → ∃ u : State, exec .mirrorCopyAccept s = .next u.runJobs ∧
      u.link.waiting = rest ∧ u.link.txSeq = s.link.txSeq + 1 ∧
      (u.store.copies.find? (·.id == i)) = some { c with meas := some s.measure }) ∧
  (∀ s : State, s.running = true → s.paired = true →
    (s.link.txMeasures.any (fun t => decide (t.meas + s.rd EZL_CTL.CTMO < s.measure)) = true →
      exec .followLost s = .next (({ s.loseFollow with
        link := { s.loseFollow.link with baseline := (List.range 8).filter s.leads } } : State)).runJobs) ∧
    (s.link.markerSeen ≤ s.link.committed → s.link.committed + s.rd EZL_CTL.CTMO ≤ s.measure → ∃ t, exec .leadSilenceTimeout s = .next t ∧ t.link.following = [] ∧
      t.link.rxMeasures = [] ∧ t.store.mirrors = s.store.mirrors.filter (·.committed)))

/-- While the SoC runs, a frame that arrives with its tag verified and with the LSEQ expected is counted and acts, and the
64th since the last acknowledgement is acknowledged: an acknowledgement releases what no measure retains; a message
fills the next posted slot; a mirror copy and a window write are placed where their window allows; a state copy is
kept; a marker whose measure is whole commits it; a commit advances what is durable; a resend request has the retained
measures sent again; a resume with a later EPOCH brings the peer's values. -/
def Obligations.LinkFramesComplete : Prop :=
  ∀ (s : State) (h : FrameHead), s.running = true → s.Accepts h →
    (∀ room u, u = ((s.expectNext h).onLink fun l => { l with
        retained := l.retained.filter fun f => f.meas != 0 || decide ((h.offset + 1) % 2 ^ 64 ≤ f.lseq)
        peerRoom := room }).showRetained →
      u.link.channels = [] → exec (.linkAckReceived h false room) s = .next u.acknowledged) ∧
    (∀ payload, h.win ≠ 2 → (h.win = 0 → numAt payload 0 2 ≠ 0xFFFF) → h.win < 16 → s.flag (EZL_CH_BASE_HI.OPEN h.win) = true →
      (s.channel h.win).nextRecv ≠ s.rd (EZL_CH_RXPOST.POST h.win) → s.link.sinceAck < 63 →
      ∃ t, exec (.messageReceived h payload) s = .next t ∧ (t.channel h.win).nextRecv = ((s.channel h.win).nextRecv + 1) % 256 ∧
        t.link.rxSeq = s.link.rxSeq + 1 ∧
        t.mem = (s.storeBytes (s.rd (EZL_CH_BASE_HI.BASE h.win) * 2 ^ 32 + s.rd (EZL_CH_BASE_LO.BASE h.win) * 2 ^ 21 +
          4096 * (s.channel h.win).nextRecv)
          (leBytes 4 payload.length ++ leBytes 1 1 ++ leBytes 3 0 ++ leBytes 8 s.measure ++ payload)).mem) ∧
    (∀ b a, s.paired = true → h.poison = false → s.isOld h = false → placeAt (s.windowFor h.meas h.win) h = some a →
      s.link.sinceAck < 63 → ∃ t, exec (.mirrorCopyReceived h b) s = .next t ∧
        t.store.mirrors.length = s.store.mirrors.length + 1 ∧ t.link.rxSeq = s.link.rxSeq + 1) ∧
    (∀ payload a, h.poison = false → h.meas = 0 → 9 ≤ h.win → h.win ≤ 15 → placeAt (some (s.window h.win)) h = some a →
      s.link.sinceAck < 63 → ∃ t, exec (.windowWriteReceived h payload) s = .next t ∧
        t.mem = (s.storeBytes a (payload.take h.length)).mem ∧
        t.link.rxSeq = s.link.rxSeq + 1) ∧
    (∀ copy last, s.paired = true → s.isOld h = false → exec (.stateCopyReceived h copy last) s = .next
      (let t := (s.expectNext h).onRx h.meas fun r => { r with
        whole := last
        copy := some (match r.copy with | some c => { copy with records := c.records ++ copy.records } | none => copy) }
      (if last then ((t.onLink fun l => { l with peer := some copy.values, peerLeads := copy.leads }).healthArrived
        copy.health.toNat).showPairing else t).acknowledged)) ∧
    (∀ counts r c, s.paired = true → h.meas = s.link.committed → s.link.rxMeasures.find? (·.meas == h.meas) = some r →
      r.whole = true → r.frames = markerCounts counts → r.copy = some c →
      exec (.commitMarkerReceived h counts) s =
        .next (((s.expectNext h).onLink fun l => { l with markerSeen := max l.markerSeen (h.meas + 1) }).commitMeasure h.meas
          c).acknowledged) ∧
    exec (.commitReceived h) s = .next ((s.expectNext h).measureAcked h.meas).acknowledged.runJobs ∧
    exec (.resendRequestReceived h) s = .next ((s.expectNext h).resendMeasures.count EZL_RESEND.addr).acknowledged ∧
    (∀ values, s.link.epochRx < h.offset → s.link.sinceAck < 63 → ∃ t, exec (.resumeReceived h values) s = .next t ∧
      t.link.epochRx = h.offset ∧ t.link.peer = some values ∧ t.link.rxSeq = s.link.rxSeq + 1 ∧ t.mem = s.mem)

/-- While the SoC runs: once every RENEW the record of each led group is written in one pass; a pass granted on a majority
advances the lease; a lease that has run out is Lapsed and stops the group; a module that finds itself fenced is Lost with a
fault record; a standby self-test that finds all right sets READY; MISS silent measures make a follow Suspect; a majority of
reads starts the wait for the groups that name the peer; reads and claims are repeated every RENEW; the wait's end writes the
claims; claims granted on a majority for every group start the fence; the fence is sent to every present member; its end takes
the state; the last suspect stripe reconciled lets the groups be led at the next boundary; an old lead that stays silent PCYC
ms is cycled. -/
def Obligations.LeaseAndCutInCommandsComplete : Prop :=
  (∀ s : State, s.running = true → (s.token.groups.map (·.group)).Nodup →
    (∀ p, s.token.passAt = some p → p + 1000 * s.rd LTK_CFG.RENEW ≤ s.now) →
    ∃ u, exec .leaseRenewal s = .next u ∧ u.token.passAt = some s.now ∧ u.mem = s.mem ∧
      ∀ t ∈ s.token.groups, t.role.renews = true → t.phase ≠ .writing →
        (u.token? t.group).writing = some (s.nextRecord t.group t.record)) ∧
  (∀ (s : State) g r granted reads, s.running = true → (s.token? g).writing = some r → s.token.groups.any (·.group == g) = true →
    g < 8 → (s.token? g).role = .leading → (s.token? g).phase = .idle → s.peerNamed g reads = false →
    s.majority ≤ s.grants g granted → ∃ u : State, exec (.renewalComplete g granted reads) s = .next u.runJobs ∧
      (u.token? g).record = r ∧ (u.token? g).writing = none ∧ (u.token? g).role = .leading ∧
      u.reg (LTK_EXP.addr g) = BitVec.ofNat 64 r.expires ∧ u.token.witOk = s.grants g granted) ∧
  (∀ (s : State) g, s.running = true → (s.token? g).role = .leading → (s.token? g).record.expires ≤ s.now →
    exec (.leaseExpiry g) s = .next ((s.stopGroup g .lapsed).commandGroup g 2).runJobs) ∧
  (∀ s : State, s.running = true → s.lostModule = false → ∃ u : State, u.rd LTK_STAT.LEAD = 0 ∧ u.rd LTK_STAT.CHANGE = 0 ∧
    u.rd LTK_STAT.PLOSS = s.rd LTK_STAT.PLOSS ||| s.rd LTK_STAT.LEAD ∧
    exec .moduleFenced s = .next (u.fault
      { cls := 7, code := 0x83, severity := 4, source := 0x25, addr := s.rd LTK_STAT.LEAD, data := (u.reg LTK_STAT.addr).toNat
        }).runJobs) ∧
  (∀ (s : State) g reads absent bad, s.running = true → s.token.groups.any (·.group == g) = true → s.testDue g = true →
    s.majority ≤ (s.answeredReads g reads).length →
    (((s.setsOf g).flatMap s.memberSlots).any fun k => absent.contains k || bad.contains k) = false →
    s.link.markerSeen ≤ s.link.committed → ∃ u, exec (.standbySelfTest g reads absent bad) s = .next u ∧
      (u.token? g).ready = true ∧ (u.token? g).testAsked = false ∧ (u.token? g).lastTest = s.now / 10 ^ 9 ∧ u.mem = s.mem) ∧
  (∀ s : State, s.running = true → s.rd LTK_CSTAT.STATE = cutFollowing → s.link.following ≠ [] → s.peerSilent = true →
    ∃ u, exec .peerSuspect s = .next u ∧ u.rd LTK_CSTAT.STATE = cutSuspect ∧ u.token.healthSeen = false ∧
      u.rd LTK_CSTAT.GROUPS = groupBits ((List.range 8).filter fun g =>
        !s.leads g && (s.link.following.contains g || bitOf s.link.peerLeads g)).contains) ∧
  (∀ (s : State) reads, s.running = true → s.rd LTK_CSTAT.STATE = cutSuspect → s.cutGroups ≠ [] →
    (∀ g ∈ s.cutGroups, s.token.groups.any (·.group == g) = true ∧ s.majority ≤ (s.answeredReads g reads).length ∧
      (newestToken (s.answeredReads g reads)).holder = 1 - s.cfg.position) →
    ∃ u, exec (.tokenRecordReadComplete reads) s = .next u ∧ u.rd LTK_CSTAT.STATE = cutWaiting ∧
      ∀ g ∈ s.cutGroups, (u.token? g).readAt = s.now) ∧
  (∀ s : State, s.running = true → s.token.rereadAt + 1000 * s.rd LTK_CFG.RENEW ≤ s.now →
    (s.rd LTK_CSTAT.STATE = cutWaiting → ∃ u, exec .cutInReread s = .next u ∧ u.regs = s.regs ∧ u.mem = s.mem ∧
      u.token = { s.token with rereadAt := s.now } ∧ ∀ g ∈ s.cutGroups, ∀ w ∈ s.witnesses, Output.tokenRead w.2 g ∈ u.out) ∧
    (s.rd LTK_CSTAT.STATE = cutClaiming → exec .cutInReread s = .next s.writeClaims)) ∧
  (∀ s : State, s.running = true → s.rd LTK_CSTAT.STATE = cutWaiting → (∀ g ∈ s.cutGroups, s.claimAt g ≤ s.now) →
    ∃ u, exec .cutInWaitEnd s = .next u ∧ u.rd LTK_CSTAT.STATE = cutClaiming ∧ u.token.rereadAt = s.now ∧
      ∀ g ∈ s.cutGroups, s.token.groups.any (·.group == g) = true → (s.token? g).role ≠ .claimed →
        ∃ r, (u.token? g).writing = some r ∧ r.holder = s.cfg.position ∧ r.issued = s.now ∧
          r.expires = s.now + 1000 * s.leaseUs) ∧
  (∀ (s : State) granted, s.running = true → s.rd LTK_CSTAT.STATE = cutClaiming → 0 < s.majority →
    (∀ g ∈ s.cutGroups, (s.token? g).writing ≠ none ∧ s.token.groups.any (·.group == g) = true ∧
      s.majority ≤ s.grants g ((granted.filter (·.1 == g)).map (·.2))) →
    ∃ u, exec (.claimComplete granted []) s = .next u ∧ u.rd LTK_CSTAT.STATE = cutFencing ∧
      (∀ g ∈ s.cutGroups, (u.token? g).role = .claimed ∧ bitOf (u.rd LTK_STAT.LEAD) g = true)) ∧
  (∀ s : State, s.running = true → s.rd LTK_CSTAT.STATE = cutFencing →
    (∃ u, exec .fence s = .next u ∧ u.token.fenceLeft = s.fenceSlots ∧ u.rd LTK_CSTAT.STATE = cutFencing) ∧
    (∀ blocks, exec (.fenceComplete [] blocks) s = .next (((({ s.wr LTK_CSTAT.STATE cutTaking with
      token := { s.token with fenceLeft := [] } } : State).noteJournal blocks).takeState blocks)).runJobs)) ∧
  (∀ s : State, s.running = true → s.rd LTK_CSTAT.STATE = cutTaking → s.token.suspects.all s.reconciled = true →
    ∃ u, exec .takeComplete s = .next u ∧ u.token.leadNext = s.cutGroups ∧ u.regs = s.regs ∧ u.out = s.out) ∧
  (∀ (s : State) at_, s.running = true → s.token.takenAt = some at_ → s.rd LTK_TIMERS.PCYC ≠ 0 → s.token.healthSeen = false →
    at_ + s.rd LTK_TIMERS.PCYC * 1000000 ≤ s.now → ∃ u, exec .peerCycle s = .next u ∧ u.rd EFU_STAT.PCYC = 1 ∧
      u.out = .pin .peerCycle false :: s.out)

/-- While the SoC runs: a hand-over, a hand-back whose conditions hold and the LTK_CMD operations 1 to 3 start the closing
of R339 for the groups they name; a record that hands a group to this module, read from a majority, is tried for; a
hand-over whose write is not granted within RENEW leads again; a module that reads its own record from a majority tries for
it; a failed witness is replaced by the member chosen; acquire reads the group's record; a self-test is asked for each
followed group. -/
def Obligations.HandOverCommandsComplete : Prop :=
  (∀ (s : State) g, s.running = true → s.peerReady g = true → exec (.handOver g) s = .next (s.startHandOver g false).runJobs) ∧
  (∀ (s : State) g, s.running = true → bitOf (s.rd LTK_HOME.HBEN) g = true →
    (s.rd LTK_HOME.HOME / 2 ^ g) % 2 ≠ s.cfg.position →
    (s.token? g).readySince.any (fun t => decide (t + s.rd LTK_HOME.HBDELAY * 1000000 ≤ s.now)) = true →
    s.peerReady g = true → s.token.surrender = false → bitOf (s.rd64 LTK_PHEALTH.addr) 20 = false →
    exec (.handBack g) s = .next (s.startHandOver g false).runJobs) ∧
  (∀ (s : State) g, g < 8 → s.leads g = true → (s.token? g).role = .leading → s.token.groups.any (·.group == g) = true →
    ((s.startHandOver g false).token? g).role = .handing ∧ ((s.startHandOver g false).token? g).phase = .closing) ∧
  (∀ (s : State) g reads l, s.running = true → s.leads g = false → s.flag FLT_STAT.PARKED = false →
    l = (s.answeredReads g reads).filter (fun r => (recordIn r).holder == s.cfg.position && (recordIn r).handover) →
    s.majority ≤ l.length → s.token.groups.any (·.group == g) = true →
    ∃ u v, exec (.handOverGranted g reads) s = .next u ∧ (u.token? g).role = .trying ∧ (u.token? g).record = newestToken l ∧
      (u.token? g).writing = some v ∧ v.holder = s.cfg.position ∧ v.issued = s.now ∧ v.expires = s.now + 1000 * s.leaseUs) ∧
  (∀ (s : State) g r, s.running = true → (s.token? g).role = .handing → (s.token? g).phase = .writing →
    (s.token? g).writing = some r → r.issued + 1000 * s.rd LTK_CFG.RENEW ≤ s.now → s.token.groups.any (·.group == g) = true →
    ∃ u, exec (.handOverTimeout g) s = .next u ∧ (u.token? g).role = .leading ∧ (u.token? g).writing = none) ∧
  (∀ (s : State) g reads r, s.running = true → s.leads g = false → s.flag FLT_STAT.PARKED = false → (s.token? g).role = .none →
    s.tryDue g = true → s.token.groups.any (·.group == g) = true → s.majority ≤ (s.answeredReads g reads).length →
    r = newestToken (s.answeredReads g reads) → r.holder = s.cfg.position →
    ∃ u, exec (.leadTokenTry g reads) s = .next u ∧ (u.token? g).role = .trying ∧ (u.token? g).record = r) ∧
  (∀ (s : State) w k reads, s.running = true → s.choosesWitness w = true → s.majority ≤ s.witnesses.length →
    s.newWitness w = some k → ∃ u l, exec (.witnessReplace w reads) s = .next u ∧ u.token.seeding = some ⟨w, k, l⟩ ∧
      u.rd LTK_WITC.V = s.rd LTK_WITC.V) ∧
  (∀ (s u : State) who g, s.running = true → s.Opens who LTK_CMD.addr → g < 8 → s.flag LTK_CMD.BUSY = false →
    (u = s.written LTK_CMD.addr (ltkWord 1 g) → u.leads g = true → u.peerReady g = true →
      exec (.ltkHandOverGroup who g) s = .next (({ (u.startHandOver g false).wrs [(LTK_CMD.BUSY, 1), (LTK_CMD.STATUS, 0)] with
        token := { (u.startHandOver g false).token with command := some (1, [g]) } } : State).answered who LTK_CMD.addr
          (ltkWord 1 g)).runJobs) ∧
    (u = s.written LTK_CMD.addr (ltkWord 3 g) → u.leads g = true →
      exec (.ltkReleaseGroup who g) s = .next (({ (u.startHandOver g true).wrs [(LTK_CMD.BUSY, 1), (LTK_CMD.STATUS, 0)] with
        token := { (u.startHandOver g true).token with command := some (3, [g]) } } : State).answered who LTK_CMD.addr
          (ltkWord 3 g)).runJobs) ∧
    (u = s.written LTK_CMD.addr (ltkWord 2 0) → (List.range 8).filter u.leads = [g] → u.peerReady g = true →
      exec (.ltkHandOverAll who) s = .next (({ (u.startHandOver g false).wrs [(LTK_CMD.BUSY, 1), (LTK_CMD.STATUS, 0)] with
        token := { (u.startHandOver g false).token with surrender := true, command := some (2, [g]) } } : State).answered who
          LTK_CMD.addr (ltkWord 2 0)).runJobs) ∧
    (s.leads g = false → (bitOf s.link.peerLeads g = false ∨ s.peerSilent = true) →
      ∃ t, exec (.ltkAcquireGroup who g) s = .next t ∧ t.rd LTK_CMD.BUSY = 1 ∧ t.token.command = some (4, [g])) ∧
    (∃ t, exec (.ltkRunSelfTest who) s = .next t ∧ t.rd LTK_CMD.STATUS = 0 ∧
      (s.link.following ≠ [] → t.token.command = some (5, s.link.following) ∧ t.rd LTK_CMD.BUSY = 1)))

/-- While the SoC runs: a row whose form and CRC are right enters the next figure with STATUS 0, and a row in range is
read into DATA; an idle stripe closes in a granted phrase, and one without a write for IDLE measures is idle; the
records due are written in one journal block; a Promenade, a set's creation and its deletion that meet their
conditions end with STATUS 0 and their plan or epoch; a waiting move starts copying, a pass ends in catch-up, catch-up
arms an epoch two measures ahead, a quiet old range is freed, all moves switched arm the final epoch, and all freed
ends the Promenade. -/
def Obligations.LayoutAndPromenadeCommandsComplete : Prop :=
  (∀ (s u : State) who set row, s.running = true → s.Opens who QDL_FIG_CMD.addr → set < 4 → row < 4096 →
    (u = s.written QDL_FIG_CMD.addr (figWord 1 set row) → u.flag (QDL_GEOM_NEXT.VALID set) = true → row < (u.geomNext set).f →
      figRowAccepted (figRowOf set (u.getWords (QDL_FIG_DATA.addr 0) 16)).cols (figRowOf set (u.getWords (QDL_FIG_DATA.addr 0) 16)).row
        (figRowOf set (u.getWords (QDL_FIG_DATA.addr 0) 16)).n (figRowOf set (u.getWords (QDL_FIG_DATA.addr 0) 16)).spare row
        (u.geomNext set) = true →
      Config.crc32c ((u.getWords (QDL_FIG_DATA.addr 0) 16).take 60) =
        BitVec.ofNat 32 (leNat ((u.getWords (QDL_FIG_DATA.addr 0) 16).drop 60)) →
      ∃ t, exec (.figWriteNext who set row) s = .next t ∧ t.rd QDL_FIG_CMD.STATUS = 0 ∧
        t.store.figNext = putFigRow s.store.figNext (figRowOf set (u.getWords (QDL_FIG_DATA.addr 0) 16))) ∧
    (u = s.written QDL_FIG_CMD.addr (figWord 2 set row) → u.flag (QDL_GEOM.VALID set) = true → row < (u.geom set).f →
      exec (.figReadActive who set row) s = .next (((u.setWords (QDL_FIG_DATA.addr 0) 16
        (match u.store.fig.find? fun r => r.set == set && r.row == row with
         | some r => r.bytes | none => List.replicate 64 0)).wr QDL_FIG_CMD.STATUS 0).answered who QDL_FIG_CMD.addr (figWord 2 set row))) ∧
    (u = s.written QDL_FIG_CMD.addr (figWord 3 set row) → u.flag (QDL_GEOM_NEXT.VALID set) = true → row < (u.geomNext set).f →
      exec (.figReadNext who set row) s = .next (((u.setWords (QDL_FIG_DATA.addr 0) 16
        (match u.store.figNext.find? fun r => r.set == set && r.row == row with
         | some r => r.bytes | none => List.replicate 64 0)).wr QDL_FIG_CMD.STATUS 0).answered who QDL_FIG_CMD.addr (figWord 3 set row)))) ∧
  (∀ (s : State) set stripe o, s.running = true → s.openStripe set stripe = some o →
    (o.idle = true → s.granted 4 = true → exec (.stripeClose set stripe) s = .next (s.closeStripe set stripe).runJobs) ∧
    (o.phase = .opened → s.rd QDL_OPEN.IDLE ≤ s.measure - o.lastWrite → ∃ t, exec (.stripeIdleTimeout set stripe) s = .next t ∧
      t.openStripe set stripe = some { o with idle := true } ∧ t.regs = s.regs ∧ t.out = s.out)) ∧
  (∀ (s t : State) set waiting due, s.running = true → s.journalDrives set ≠ [] →
    waiting = (s.store.unwritten.filter fun e => e.set == set && s.recordDue e) → waiting ≠ [] →
    due = waiting.take (63 - (s.carried set (perSet s.store.bseq set + 1)).length) →
    t = s.writeJournalBlock set due (s.journalTargets set) → exec (.journalBlockWrite set) s = .next
      ({ t with store := { t.store with unwritten := t.store.unwritten.filter fun e => !due.contains e } } : State).runJobs) ∧
  (∀ (s u : State) who set, s.running = true → s.Opens who RBD_PCMD.addr → set < 4 →
    (∀ l, u = s.written RBD_PCMD.addr (layoutWord 1 set) → u.setFree set = true → u.nextGeometryLegal set = true →
      u.nextFigureComplete set = true → u.nextGenerationFollows set = true → u.plan set = some l →
      ∃ t, exec (.promenadeStart who set) s = .next t ∧ t.rd RBD_PCMD.STATUS = 0 ∧ t.rd (RBD_SSTAT.PROM set) = 1 ∧
        t.rd (RBD_PEXT_DONE.N set) = 0 ∧ t.store.moves = s.store.moves ++ l) ∧
    (u = s.written RBD_PCMD.addr (layoutWord 2 set) → u.rd (QDL_GEN.GEN set) = 0 → u.store.epochs.any (·.set == set) = false →
      u.nextGeometryLegal set = true → u.nextFigureComplete set = true → u.nextGenerationFollows set = true →
      ∃ t, exec (.setCreate who set) s = .next t ∧ t.rd RBD_PCMD.STATUS = 0 ∧
        t.store.epochs = s.store.epochs ++ [⟨set, 0, s.measure + 2⟩]) ∧
    (u = s.written RBD_PCMD.addr (layoutWord 3 set) → u.flag (QDL_GEOM.VALID set) = true → u.allocatedExtents set = [] →
      u.store.deletedExtents.any (·.set == set) = false → u.store.epochs.any (·.set == set) = false → u.rd (RBD_SSTAT.PROM set) = 0 →
      ∃ t, exec (.setDelete who set) s = .next t ∧ t.rd RBD_PCMD.STATUS = 0 ∧
        t.store.epochs = s.store.epochs ++ [⟨set, 1, s.measure + 2⟩])) ∧
  (∀ (s : State) nsid ext m, s.running = true → s.move nsid ext = some m →
    (m.state = .waiting → s.energy.mapWait = false → s.walkRunsOn m.set = false → s.destinationFree m = true →
      (s.store.moves.filter fun n => n.set == m.set && (n.state == .copying || n.state == .catchUp)).length < s.rd RBD_PROM.PAR →
      s.granted 7 = true → s.rd (RBD_SSTAT.STATE m.set) = 0 → exec (.promenadeMoveStart nsid ext) s =
        .next ((((s.onMove nsid ext fun m => { m with
          state := .copying, toCopy := List.range (s.geomNext m.set).perExtent, dirty := [] }).deallocSpares m).copyNext nsid ext)).runJobs) ∧
    (m.state = .copying → m.passOver = true → s.walkRunsOn m.set = false → m.dirty.length ≤ s.rd RBD_PROM.CATCH →
      exec (.promenadeCopyPassEnd nsid ext) s = .next (s.onMove nsid ext fun m => { m with state := .catchUp }).runJobs) ∧
    (m.state = .catchUp → m.passOver = true → m.dirty = [] → s.moveQuiet m = true → exec (.promenadeCatchupDone nsid ext) s =
      .next (s.onMove nsid ext fun m => { m with state := .armed, target := s.measure + 2 }).runJobs) ∧
    (m.state = .switched → s.oldLayoutQuiet m = true → ∃ u : State, exec (.promenadeOldRangeFree nsid ext) s = .next u.runJobs ∧
      u.store = (s.onMove nsid ext fun m => { m with state := .freed }).store)) ∧
  (∀ (s : State) set, s.running = true → set < 4 →
    (s.rd (RBD_SSTAT.PROM set) = 1 → s.store.epochs.any (·.set == set) = false →
      (s.store.moves.filter (·.set == set)).all (fun m => m.state == .switched || m.state == .freed) = true →
      ∃ t, exec (.promenadeFinalEpoch set) s = .next t ∧ t.store.epochs = s.store.epochs ++ [⟨set, 2, s.measure + 2⟩] ∧
        t.regs = s.regs) ∧
    (s.rd (RBD_SSTAT.PROM set) = 2 → (s.store.moves.filter (·.set == set)).all (·.state == .freed) = true →
      (s.store.ops.any fun o => o.set == set && o.purpose == .background && o.kind == .dealloc) = false →
      ∃ t, exec (.promenadeDrainDone set) s = .next t ∧ t.rd (RBD_SSTAT.PROM set) = 0 ∧
        t.store.moves = s.store.moves.filter (·.set != set)))

/-- While the SoC runs: in a granted phrase the next rebuild step in the order of Table 9.1 starts, and its end sets the
stripe's bits; a failed member, a replacement, a repair, a scrub visit and a copy-back step take the action of their
rule; a lost-map block is written to every witness and reported durable; a lost journal drive's records are written
into the chosen member's region; a deleted extent's stripe is deallocated by the group's lead; waiting blocks are
posted; a write that a member reports leaves the outstanding commands and counts as reported; a good block reaches
what it was read for, a bad one is counted and reconstructed. -/
def Obligations.RebuildAndMemberCommandsComplete : Prop :=
  (∀ (s : State) set at', s.running = true → s.granted 3 = true → s.energy.mapWait = false → s.nextRebuild set = some at' →
    exec (.rebuildStep set) s =
      .next (s.stepOn set (s.stripeAt set at').1 (s.stripeAt set at').2 .rebuild (List.range 8)).runJobs) ∧
  (∀ (s u v : State) set stripe p, s.running = true → s.step? set stripe = some p → p.why = .rebuild → p.started = true →
    p.rowsLeft = [] → p.writes = 0 → s.store.lostFixes.any (fun f => f.set == set && f.stripe == stripe) = false →
    u = s.setRebuilt set (s.pos set p.gen stripe) →
    v = ((({ u with store := { u.store with
          steps := u.store.steps.filter fun q => !(q.set == set && q.stripe == stripe)
          promoted := u.store.promoted.filter (· != (set, s.pos set p.gen stripe)) } } : State).count
        RBD_STRIPES.addr).unlockStripe set stripe).showRebuild set →
    exec (.rebuildStepComplete set stripe) s = .next (v.each (v.rebuilding set) fun (z, m) t =>
      if t.store.counted.all fun q => q.1 != set || !t.posHolds set q.2 z m || t.rebuildBit set z q.2 then
        t.queueRwm (QDL_SUB.STATE set z) 2 else t).runJobs) ∧
  (∀ (s : State) set u, s.running = true → exec (.memberFailed set u) s = .next (s.failMember set u).runJobs) ∧
  (∀ (s u t : State) block found entries q head c tag, s.running = true → s.writesLostMap = true → block < 512 →
    s.witnesses ≠ [] → entries = (s.store.lost.drop (126 * block)).take 126 → u = s.startLostMap found → q = u.store.mseq + 1 →
    head = leBytes 8 q ++ leBytes 8 u.measure ++ leBytes 2 entries.length ++ leBytes 1 u.cfg.position ++ leBytes 13 0 →
    u.sealRecord 1 (lostHead u.cfg.position) q head (padTo 4032 (entries.flatMap (·.bytes))) = some (c, tag, t) →
    exec (.lostMapWrite block found) s = .next ((({ t with store := { t.store with
        mseq := q
        lostWrites := t.store.lostWrites ++ [⟨q, entries.map fun e => (e.set, e.stripe, e.strip, e.rmask), 0,
          t.witnesses.length⟩] } } : State).each t.witnesses fun w t =>
      t.sendSlot .write w.2 (64 + block) (head ++ tag ++ leBytes 16 0 ++ c) (.lostMap q))).runJobs) ∧
  (∀ (s : State) set stripe strip n, s.running = true →
    (s.store.lost.findIdx? fun e => e.own && e.isAt set stripe strip) = some n → exec (.lostMapDurable set stripe strip) s = .next
      (({ s with store := { s.store with lost := s.store.lost.zipIdx.map fun (e, i) =>
        if e.own && i ≤ n then { e with durable := true } else e } } : State)).runJobs) ∧
  (∀ (s : State) set drive u live, s.running = true → drive ≤ 2 → (drive = 0 → s.flag (QDL_JDRV.V0 set) = false) →
    (drive = 1 → s.flag (QDL_JDRV.V1 set) = false) → (drive = 2 → s.flag (QDL_JDRV.V2 set) = false) →
    (s.store.rehome.any fun r => r.1 == set && r.2.1 == drive) = false → s.journalCandidate set = some u →
    live = (s.store.journal.filter fun e => e.set == set && e.state != 3) → exec (.journalRehome set drive) s =
      .next (((({ s with store := { s.store with rehome := s.store.rehome ++ [(set, drive, u)] } } : State).writeJournalBlocks
        set [u] (8192 + live.length) live).rehomeDone set u)).runJobs) ∧
  (∀ (s : State) set at' gen stripe strip row, s.running = true → s.flag RBD_CTL.REPAIR_EN = true →
    s.store.badFound.contains (set, at', strip, row) = true → s.stripeAt set at' = (gen, stripe) →
    s.stripeMine set gen stripe = true → s.step? set stripe = none →
    exec (.repairStep set at' strip row) s = .next ((({ s with store := { s.store with
      badFound := s.store.badFound.filter (· != (set, at', strip, row)) } } : State).stepOn set gen stripe .repair [row])).runJobs) ∧
  (∀ (s : State) set stripe gen due busy, s.running = true → s.flag RBD_CTL.SCRUB_EN = true → s.rd (RBD_SSTAT.STATE set) = 0 →
    s.rd (RBD_SSTAT.PROM set) = 0 → s.granted 6 = true → gen = s.rd (QDL_GEN.GEN set) →
    due = (List.range ((s.geom set).stripes (s.memberCapacity set))).find? (s.scrubDue set) →
    busy = ((s.openStripe set stripe).isSome || s.store.journal.any fun e => e.set == set && e.stripe == stripe) →
    (due = none → s.store.revisit.any (·.1 == set) = false →
      exec (.scrubStep set stripe) s = .next (s.setReg (RBD_SPOS.addr set) 0).runJobs) ∧
    (due = some stripe → s.store.revisit.contains (set, stripe) = false →
      (busy = false → exec (.scrubStep set stripe) s = .next (s.stepOn set gen stripe .scrub (List.range 8)).runJobs) ∧
      (busy = true → exec (.scrubStep set stripe) s = .next (({ s with store := { s.store with
        revisit := s.store.revisit ++ [(set, stripe)] } } : State).setReg (RBD_SPOS.addr set) (BitVec.ofNat 64 (stripe + 1))).runJobs)) ∧
    (s.store.revisit.contains (set, stripe) = true → busy = false → exec (.scrubStep set stripe) s =
      .next (({ s with store := { s.store with revisit := s.store.revisit.filter (· != (set, stripe)) } } : State).stepOn set gen
        stripe .scrub (List.range 8)).runJobs)) ∧
  (∀ (s : State) set u b, s.running = true → s.rd (SLT_STAT.STATE (s.slotOf set u)) = 5 →
    s.store.slotBlocks.find? (·.1 == s.slotOf set u) = some (s.slotOf set u, b) → s.memberCapacity set ≤ b →
    s.flag (QDL_MEM.FAILED set u) = true → exec (.replacementAccept set u) s = .next (s.acceptReplacement set u).runJobs) ∧
  (∀ (s t : State) set u at' gen stripe, s.running = true → s.store.copyBack.find? (·.1 == set) = some (set, u) →
    s.granted 3 = true → s.energy.mapWait = false → (s.store.steps.any fun p => p.set == set && p.why == .copyBack) = false →
    ((List.range (s.positions set)).find? fun p =>
      decide (s.rd64 (RBD_CPOS.addr set) ≤ p) && s.stripeHolds set (s.stripeAt set p).1 (s.stripeAt set p).2 u) = some at' →
    t = s.setReg (RBD_CPOS.addr set) (BitVec.ofNat 64 at') → t.stripeAt set at' = (gen, stripe) →
    t.stripeMine set gen stripe = true → (t.stripeGroup set gen stripe).isSome = true →
    exec (.copyBackStep set) s = .next (t.stepOn set gen stripe .copyBack (List.range 8)).runJobs) ∧
  (∀ (s t : State) set stripe g gen, s.running = true → gen = s.rd (QDL_GEN.GEN set) → s.deletedGroup set gen stripe = some g →
    s.leads g = true → s.energy.mapWait = false → s.step? set stripe = none → s.store.locked.contains (set, stripe) = false →
    s.openStripe set stripe = none → t = (if s.mapBit set gen stripe then s.deallocStripe set gen stripe else s) →
    (t.extentGone set (stripe / (t.geom set).perExtent) = false → exec (.deletedExtentDeallocate set stripe) s = .next t.runJobs) ∧
    (t.extentGone set (stripe / (t.geom set).perExtent) = true → exec (.deletedExtentDeallocate set stripe) s =
      .next ({ t with store := { t.store with deletedExtents := t.store.deletedExtents.filter fun d =>
        !(d.set == set && d.ext == stripe / (t.geom set).perExtent && !d.next) } } : State).runJobs)) ∧
  (∀ (s : State) set stripe, s.running = true → exec (.stripPost set stripe) s = .next (s.postReady set stripe).runJobs) ∧
  (∀ (s : State) op o, s.running = true → s.store.ops.find? (·.id == op) = some o →
    (o.kind ≠ .read → exec (.memberWriteComplete op) s = .next (((s.dropOp op).writeReported o true)).runJobs) ∧
    (∀ content, o.kind = .read →
      exec (.memberReadComplete op content true true o.gen) s =
        .next ((((s.dropOp op).moved 2 o.slot false 4096).readGood o content (o.gen == 0xFFFF))).runJobs ∧
      (∀ refOk tag, tag ≠ 0xFFFF → exec (.memberReadComplete op content false refOk tag) s =
        .next (((((s.dropOp op).moved 2 o.slot false 4096).count QDL_CHK_GUARD.addr).readBad o)).runJobs)))

/-- While the SoC runs: an offered frame of an engine is admitted, and one of a NET port outside a boundary window; a
frame at its destination is read, a frame at its resequencer is classified, a resequencer's timeout advances to the
lowest held number, and a freed tracker takes a frame of the overflow list; XOFF holds a class for its quanta and XON
or expiry ends it; the watchdog discards a class held for TIME, and its end stops that; outside a boundary window an
epoch arms for a target ahead, and the table's shadow is written and its entries read; the last frame of the old epoch
drains it. -/
def Obligations.SwitchCommandsComplete : Prop :=
  (∀ (s : State) f, s.running = true → (tableForwards f.src = false ∨ s.clock.windowOpen = false) →
    exec (.frameAdmission f) s = .next (s.admitFrame f)) ∧
  (∀ (s : State) id f bad wait, s.running = true → s.frame? id = some f →
    ((f.dest < 4 ∧ f.stage = .sending) ∨ (4 ≤ f.dest ∧ f.stage = .queued)) → (f.tailAt ≤ s.now ∨ bad = some .underrun) →
    exec (.frameReadComplete id bad wait) s = .next (s.readFrame f bad wait)) ∧
  (∀ (s : State) id f, s.running = true → s.frame? id = some f → f.ordered = true → f.stage = .arriving →
    exec (.resequencerArrival id) s = .next (s.reachResequencer f).retryWaiting) ∧
  (∀ (s : State) dest flow d, s.running = true → ((s.switch.frames.filter fun f =>
      f.stage == .tracked && f.dest == dest && f.flow == flow).map fun f =>
        (f.seq + 65536 - flowNumber s.switch.expected flow dest % 65536) % 65536).min? = some d →
    exec (.resequencerTimeout dest flow) s = .next
      ((((({ s.count SWC_RSQ_TMO.addr d with switch := { s.switch with
        expected := putFlow s.switch.expected flow dest (flowNumber s.switch.expected flow dest + d) } } : State).plainFault
          3 1 0x1C flow).releaseHeld dest flow 256).retryWaiting))) ∧
  (∀ (s : State) dest f, s.running = true → (s.switch.frames.find? fun f => f.stage == .overflow && f.dest == dest) = some f →
    (s.trackerFlows dest).length < 4096 → exec (.trackerFree dest) s = .next (s.classifyFrame f).retryWaiting) ∧
  (∀ (s : State) p l c, s.running = true → p < 4 → l < s.cfg.lanes.getD p 1 → c < 8 →
    (∀ q, 0 < q → ∃ t, exec (.pfcPauseReceived p l c q) s = .next t ∧ t.paused ⟨p, l, c⟩ = true ∧
      (∀ x ∈ t.switch.pauses, x.at_ = ⟨p, l, c⟩ →
        x.until_ = s.now + (q * 512000 + s.laneRateMb p - 1) / s.laneRateMb p) ∧ t.switch.frames = s.switch.frames) ∧
    (∃ t, exec (.pfcPauseReceived p l c 0) s = .next t ∧ t.paused ⟨p, l, c⟩ = false ∧ t.switch.frames = s.switch.frames)) ∧
  (∀ (s : State) p l c x, s.running = true → x ∈ s.switch.pauses → x.at_ = ⟨p, l, c⟩ → x.until_ ≤ s.now →
    ∃ t, exec (.pauseExpiry p l c) s = .next t ∧ t.paused ⟨p, l, c⟩ = false ∧ t.switch.frames = s.switch.frames) ∧
  (∀ (s : State) p l c x, s.running = true → x ∈ s.switch.pauses → x.at_ = ⟨p, l, c⟩ →
    x.since + 1000000 * s.rd SWC_PFCWD.TIME ≤ s.now → x.since + 1000000 * s.rd SWC_PFCWD.TIME ≤ x.until_ → (⟨p, l, c⟩ : LaneClass) ∉ s.switch.discarding →
    exec (.pfcWatchdogExpiry p l c) s = .next
      (let u := ({ s with switch := { s.switch with discarding := s.switch.discarding ++ [⟨p, l, c⟩] } } : State).flagFault
        SWC_STAT.WD 3 1 0x1C (pauseSource ⟨p, l, c⟩)
       (u.each (u.switch.frames.filter fun f => f.on ⟨p, l, c⟩ && f.stage == .queued) fun f s =>
        ((s.dropFrame f).switchDrop 8).emit (.frame (.discarded f.id))).retryWaiting)) ∧
  (∀ (s : State) p l c, s.running = true →
    ((s.switch.lastPause.find? (·.1 == ⟨p, l, c⟩)).map (·.2)).getD 0 + 1000000 * s.rd SWC_PFCWD.TIME ≤ s.now → ∃ t, exec (.pfcWatchdogEnd p l c) s = .next t ∧
    t.switch.discarding = s.switch.discarding.filter (· != ⟨p, l, c⟩) ∧ t.regs = s.regs ∧ t.out = s.out) ∧
  (∀ (s : State) who (v : Word), s.running = true → s.clock.windowOpen = false → s.Opens who (SWC_EPOCH_TGT.addr + 4) →
    s.flag SWC_EPOCH.DRAIN_PEND = false → s.measure < (s.pairRequest who SWC_EPOCH_TGT.addr v).toNat →
    ∃ t, exec (.epochArm who v) s = .next t ∧ t.rd SWC_EPOCH.ARMED = 1 ∧
      t.switch.epochTarget = (s.pairRequest who SWC_EPOCH_TGT.addr v).toNat) ∧
  (∀ (s : State) who idx, s.running = true → s.clock.windowOpen = false → s.Opens who SWC_FT_CMD.addr → idx < 1024 →
    s.flag SWC_EPOCH.DRAIN_PEND = false →
    (∃ t, exec (.ftWriteShadow who idx) s = .next t ∧ t.switch.shadow = putEntry s.switch.shadow idx s.ftData ∧
      t.switch.active = s.switch.active) ∧
    ((entryAt s.switch.active idx).length = 16 → ∃ t, exec (.ftReadActive who idx) s = .next t ∧ t.ftData = entryAt s.switch.active idx ∧ t.switch = s.switch) ∧
    ((entryAt s.switch.shadow idx).length = 16 → ∃ t, exec (.ftReadShadow who idx) s = .next t ∧ t.ftData = entryAt s.switch.shadow idx ∧ t.switch = s.switch)) ∧
  (∀ s : State, s.running = true → s.flag SWC_EPOCH.DRAIN_PEND = true → s.oldEpochGone = true → ∃ t, exec .epochDrained s = .next t ∧
    t.rd SWC_EPOCH.DRAIN_PEND = 0 ∧ t.rd SWC_STAT.DRAINED = 1 ∧ t.switch.shadow = s.switch.active ∧ t.out = s.out)

/-- While the SoC runs and no boundary window is open: a lane that can start a frame serves its classes from 7 down; a
gate entry change shows the gates of the place in the cycle; a switchover arms for a target ahead and is missed for
another. With the wheel running, the next slot lets every lane of the port pick a frame anew. -/
def Obligations.GateCommandsComplete : Prop :=
  (∀ (s : State) p l, s.running = true → s.clock.windowOpen = false →
    exec (.laneFrameStart p l) s = .next (s.laneStart p l).retryWaiting) ∧
  (∀ (s : State) p, s.running = true → s.clock.windowOpen = false → p < 4 → ∃ t, exec (.gateEntryChange p) s = .next t ∧
    t.rd (NET_GSTAT.OPEN p) = s.openGates p % 256 ∧ t.switch = s.switch ∧ t.out = s.out) ∧
  (∀ (s : State) who p (v : Word), s.running = true → s.clock.windowOpen = false → p < 4 → s.Opens who (NET_GTGT.addr p + 4) →
    (s.measure < (s.pairRequest who (NET_GTGT.addr p) v).toNat → ∃ t, exec (.gateSwitchoverArm who p v) s = .next t ∧
      t.rd (NET_GSTAT.ARMED p) = 1 ∧ byPort t.gates.targets p = (s.pairRequest who (NET_GTGT.addr p) v).toNat) ∧
    ((s.pairRequest who (NET_GTGT.addr p) v).toNat ≤ s.measure → ∃ t, exec (.gateSwitchoverArm who p v) s = .next t ∧
      t.rd (NET_GSTAT.ARMED p) = 0 ∧ t.rd (NET_GSTAT.MISSED p) = 1 ∧ t.rd MEAS_STAT.MISSED = 1)) ∧
  (∀ (s : State) p, s.running = true → s.clock.windowOpen = false → p < 4 → s.flag (NET_WHEEL.EN p) = true →
    exec (.wheelSlotChange p) s =
      .next (s.each (List.range (s.cfg.lanes.getD p 1)) fun l s => s.laneStart p l).retryWaiting)

/-- While the SoC runs: a format of a namespace led here, with its parameters legal and no format in its group, marks the
namespace and writes the operation's first record before any change to data or keys; each sanitize action likewise
with its kind, flags and units while neither a format nor a sanitize runs, and the peer is asked for its leads; Exit Failure
Mode ends a failed sanitize that had AUSE; a unit that ends is deallocated and NEXT_UNIT advances; a durable record lets the
walk advance, and the final one ends the operation; a lead whose sets are assembled resumes a walk from its newest record, and
leaves one that is over as it ended. -/
def Obligations.WalkCommandsComplete : Prop :=
  (∀ (s : State) key nsid lbaf ses pi c n, s.running = true → s.AdminOpen key false c → nsid ≠ 0xFFFFFFFF →
    s.liveNamespace nsid = some n → ses ≤ 2 → lbaf ≤ 2 → pi ≤ 1 → (ses = 2 → n.encrypted = true) → s.leads n.group = true →
    s.formatRuns n.group = false → exec (.formatNvm key nsid lbaf ses pi) s =
      .next ((s.onNamespace n.nsid fun n => { n with formatting := true }).startOperation
        n.group ⟨0, ses + 1, n.group, 0, n.nsid, s.measure, formatUnits n, 0, lbaf, 0, 0, s.measure⟩ key).runJobs) ∧
  (∀ (s u : State) key c, s.running = true → s.AdminOpen key true c → s.formatRuns 8 = false →
    (List.range 8).any s.formatRuns = false → u = (s.onAdmin fun a => { a with leadsBefore := s.link.peerLeads }).askLeads →
    (∀ ause, exec (.sanitizeBlockErase key ause) s = .next (u.startOperation 8
      ⟨0, 0x12, 255, if ause then 2 else 0, 0, s.measure, s.sanitizeUnits 0x12, 0, 0, 0, 0, s.measure⟩ key).runJobs) ∧
    (∀ ause oipbp owpass ovrpat, 1 ≤ owpass → owpass ≤ 4 → exec (.sanitizeOverwrite key ause oipbp owpass ovrpat) s = .next (u.startOperation 8
      ⟨0, 0x13, 255, (if ause then 2 else 0) + (if oipbp then 4 else 0), 0, s.measure, s.sanitizeUnits 0x13, 0, 0, owpass, ovrpat, s.measure⟩ key).runJobs) ∧
    (∀ ause, exec (.sanitizeCryptoErase key ause) s = .next (u.startOperation 8
      ⟨0, 0x14, 255, if ause then 2 else 0, 0, s.measure, s.sanitizeUnits 0x14, 0, 0, 0, 0, s.measure⟩ key).runJobs)) ∧
  (∀ (s u : State) key c, s.running = true → s.AdminOpen key true c →
    (∀ r ended, s.opShown 8 = some (5, r) → bitOf r.flags 1 = true → ended = { r with flags := r.flags - r.flags / 8 % 2 * 8 } →
      u = (s.onAdmin fun a => { a with
        ops := putBy LongOp.slot ⟨8, 4, ended, some ended, [], [], none, false, false⟩ a.ops }).writeProgress 8 ended →
      exec (.sanitizeExitFailureMode key) s =
        .next ((u.onLongOp 8 fun o => { o with durable := some o.newest }).endAdmin key stOk).runJobs) ∧
    ((∀ o, s.opShown 8 = some o → o.1 = 4) → exec (.sanitizeExitFailureMode key) s = .next (s.endAdmin key stOk).runJobs)) ∧
  (∀ (s : State) slot unit failed o, s.running = true → s.longOp slot = some o → unit ∈ o.walking →
    exec (.walkUnitComplete slot unit failed) s = .next (s.unitDone o unit failed).runJobs) ∧
  (∀ (s : State) slot seq o r, s.running = true → s.longOp slot = some o →
    (s.vaultRecords slot).find? (·.seq == seq) = some r → o.state ≠ 4 → o.state ≠ 5 →
    (bitOf r.flags 4 = true → exec (.progressRecordDurable slot seq) s = .next ((s.onLongOp o.slot fun o => { o with
      durable := if (o.durable.map (·.seq)).getD 0 ≤ r.seq then some r else o.durable }).endOperation { o with newest := r }).runJobs) ∧
    (bitOf r.flags 4 = false → o.newest.units ≠ 0 → exec (.progressRecordDurable slot seq) s = .next (s.onLongOp o.slot fun o => { o with
      durable := if (o.durable.map (·.seq)).getD 0 ≤ r.seq then some r else o.durable }).runJobs)) ∧
  (∀ (s u : State) slot found r, s.running = true → slot ≤ 8 → u = s.yieldWalks → u.walksHere slot = true →
    (u.longOp slot).any (fun o => o.state == 1) = false →
    newestRecord (u.vaultRecords slot ++ found.filterMap (u.recordIn slot)) = some r → u.walkAssembled slot r.nsid = true →
    ∃ v : State, v.host = s.host ∧ v.out = s.out ∧ v.longOp slot =
      some ⟨slot, if bitOf r.flags 4 then (if bitOf r.flags 3 then 5 else 4) else 1, r, some r, [], [], none, false, bitOf r.flags 3⟩ ∧
      exec (.walkResume slot found) s = .next (if bitOf r.flags 4 then v else if slot = 8 then v.askLeads
        else v.onNamespace r.nsid fun n => { n with formatting := true }).runJobs)

/-- While the SoC runs: an open proposal past its life is expired; equal set-up digests clear MISMATCH; the commits
lacking here, when their bases match, are adopted for the second boundary after; set-ups that do not agree set
MISMATCH; an activation tells the controllers that asked and begins as an outage, or with a healthy peer by handing its groups
over; a hand-over that failed makes it an outage; with no command left, and no lead where it hands over, it ends associations
and resets into the new slot. -/
def Obligations.ProposalAndActivationCommandsComplete : Prop :=
  (∀ (s : State) number p, s.running = true → s.two.proposals.find? (·.number == number) = some p → p.state = .opened →
    p.since + s.rd TWO_CFG.LIFE * 10 ^ 9 ≤ s.now → ∃ t, exec (.proposalExpiry number) s = .next t ∧
      t.two = (s.onProposal number fun q => { q with state := .expired }).two ∧ t.mem = s.mem ∧ t.out = s.out) ∧
  (∀ (s u : State) digest log objects proposals, s.running = true → s.paired = true → u = s.each proposals (fun m s => s.takeShared m) →
    (digest = setupDigest u.two.objects → ∃ t, exec (.setupDigestExchange digest log objects proposals) s = .next t ∧
      t.rd TWO_STAT.MISMATCH = 0 ∧ t.two = { u.two with peerDigest := digest } ∧ t.out = u.out) ∧
    (digest ≠ setupDigest u.two.objects → ∀ lacking, lacking = log.filter (fun c => !(u.two.log.any fun d => d.number == c.number)) →
      (lacking ≠ [] → u.basesMatch lacking = true → ∃ t, exec (.setupDigestExchange digest log objects proposals) s = .next t ∧
        t.two = { u.two with peerDigest := digest, fromPeer := some (u.measure + 2, lacking, []) } ∧ t.regs = u.regs) ∧
      (lacking ≠ [] → u.basesMatch lacking = false → u.two.adopt = false → ∃ t, exec (.setupDigestExchange digest log objects proposals) s = .next t ∧
        t.rd TWO_STAT.MISMATCH = 1 ∧ t.two = { u.two with peerDigest := digest }))) ∧
  (∀ (s : State) slot, s.running = true → s.admin.activating = some slot →
    (∀ u : State, s.admin.activationStage = 0 →
      u = (s.each s.host.controllers fun c s => if bitOf c.aec 9 then s.completeAer c 2 1 3 else s) →
      (u.rollingPossible = false → exec .firmwareActivation s = .next u.beginOutage.runJobs) ∧
      (u.rollingPossible = true → exec .firmwareActivation s = .next
        (((u.each ((List.range 8).filter u.leads) fun g s => s.startHandOver g false).onToken fun t => { t with surrender := true }).onAdmin
          fun a => { a with activationStage := 1 }).runJobs)) ∧
    (s.admin.activationStage = 1 → s.token.groups.any (·.role == .leading) = true → exec .firmwareActivation s =
      .next (s.onToken fun t => { t with surrender := false }).beginOutage.runJobs) ∧
    (s.admin.activationStage = 1 → s.token.groups.any (·.role == .leading) = false → s.host.commands = [] → s.rd LTK_STAT.LEAD = 0 →
      exec .firmwareActivation s = .next (s.reload slot).runJobs) ∧
    (s.admin.activationStage = 2 → s.host.commands = [] → exec .firmwareActivation s = .next (s.reload slot).runJobs))

/-- While the SoC runs: presence begins the debounce and its loss ends it; after 50 ms of it the slot goes Off where the peer
holds it so, Powering where the list is known, and waits otherwise; powered for 100 ms, it trains; an accepted link brings it to
Checking and 2 s without one to Refused; checks that pass make it Ready and a failed one Refused with its REASON; a
sideband reading is shown, and a failed one clears MI_OK. -/
def Obligations.SlotInsertionCommandsComplete : Prop :=
  ∀ (s : State) k, s.running = true → k < 48 →
    (s.slotState k = slotEmpty → ∃ t, exec (.presenceChange k) s = .next t ∧ t.rd (SLT_STAT.STATE k) = slotDebounce ∧
      (t.slotHold k).since = s.now ∧ t.mem = s.mem ∧ t.out = s.out) ∧
    (s.slotState k = slotDebounce → (s.slotHold k).debounced = false → ∃ t, exec (.slotDebounceBreak k) s = .next t ∧
      t.rd (SLT_STAT.STATE k) = slotEmpty ∧ (t.slotHold k).debounced = false ∧ t.mem = s.mem ∧ t.out = s.out) ∧
    (s.slotState k = slotDebounce → s.slotTime k 50 = true →
      (k ∈ s.slots.peerOff → ∃ t, exec (.slotDebounceEnd k) s = .next t ∧ t.rd (SLT_STAT.STATE k) = slotOff ∧
        t.rd (SLT_STAT.PRSNT k) = 1 ∧ t.rd (SLT_EVT.PRSNT_CHG k) = 1) ∧
      (k ∉ s.slots.peerOff → s.slots.listKnown = true → ∃ t, exec (.slotDebounceEnd k) s = .next t ∧
        t.rd (SLT_STAT.STATE k) = slotPowering ∧ t.rd (SLT_STAT.PRSNT k) = 1 ∧ t.rd (SLT_STAT.PWR_OWN k) = 1 ∧
        t.rd (SLT_STAT.PWR_NET k) = 1 ∧ k ∈ t.slots.pulled) ∧
      (k ∉ s.slots.peerOff → s.slots.listKnown = false → ∃ t, exec (.slotDebounceEnd k) s = .next t ∧
        t.rd (SLT_STAT.STATE k) = slotDebounce ∧ (t.slotHold k).debounced = true ∧ t.rd (SLT_STAT.PRSNT k) = 1)) ∧
    (s.slotState k = slotPowering → s.slotTime k 100 = true → ∃ t, exec (.slotPoweringEnd k) s = .next t ∧
      t.rd (SLT_STAT.STATE k) = slotTraining ∧ t.out = .pin (.slotReset k) true :: s.out ∧ t.mem = s.mem) ∧
    (s.slotState k = slotTraining → (∀ link, s.slotTime k 2000 = false → linkAccepted link = true →
        ∃ t, exec (.slotLinkUp k link) s = .next t ∧
        t.rd (SLT_STAT.STATE k) = slotChecking ∧ t.rd (SLT_LSTAT.UP k) = 1 ∧ t.rd (SLT_LSTAT.SPEED k) = link.speed ∧
        t.rd (SLT_LSTAT.WIDTH k) = link.width ∧ (linkDegraded link = true → t.rd (SLT_LSTAT.DEGRADED k) = 1)) ∧
      (s.slotTime k 2000 = true → ∃ t, exec (.slotTrainingTimeout k) s = .next t ∧ t.rd (SLT_STAT.STATE k) = slotRefused ∧
        t.rd (SLT_STAT.REASON k) = 1 ∧ t.out = .pin (.slotReset k) false :: s.out)) ∧
    (s.slotState k = slotChecking → ∀ report, (∀ reason more, failedChecks report = reason :: more →
        ∃ t, exec (.slotCheckComplete k report) s = .next t ∧
        t.rd (SLT_STAT.STATE k) = slotRefused ∧ t.rd (SLT_STAT.REASON k) = reason ∧ t.out = s.out) ∧
      (failedChecks report = [] → ∃ t, exec (.slotCheckComplete k report) s = .next t ∧ t.rd (SLT_STAT.STATE k) = slotReady ∧
        t.rd (SLT_STAT.REASON k) = 0 ∧ t.store.slotBlocks = putPerSet s.store.slotBlocks k report.blocks)) ∧
    (s.flag (SLT_STAT.PRSNT k) = true → (∀ r : MiReading, r.flags < 256 → r.warn < 256 → r.temp < 256 →
        ∃ t, exec (.sidebandPoll k (some r)) s = .next t ∧ t.rd (SLT_MI.MI_OK k) = 1 ∧ t.rd (SLT_MI.TEMP k) = r.temp ∧
          (t.slotHold k).miFails = 0 ∧ t.out = s.out) ∧
      (∃ t, exec (.sidebandPoll k none) s = .next t ∧ t.rd (SLT_MI.MI_OK k) = 0 ∧
        (t.slotHold k).miFails = (s.slotHold k).miFails + 1 ∧ ((s.slotHold k).miFails = 2 → t.rd (SLT_EVT.MI_FAIL k) = 1))) ∧
    (∀ slots, exec (.offListReceived slots) s = .next (s.onSlots fun x => { x with peerOff := slots, listKnown := true }).slotsGo) ∧
    (s.linkState < linkLinked → 2 * 10 ^ 9 ≤ s.now → exec .offListTimeout s =
      .next (s.onSlots fun x => { x with listKnown := true }).slotsGo)

/-- While the SoC runs: an attention press that is not refused begins a removal, and one within 5 s in Removing cancels it; the
removal's end, an accepted off and a forced off release the drive; a Ready slot is contained with its REASON, and a
drive pulled out leaves its slot Empty; the peer's slot news is acted on; power on, retrain and prepare move a slot in
the states of their rules with STATUS 0; a member command that timed out or failed is sent again up to three times, and then
its slot is contained, its member fails or it meets its fate. -/
def Obligations.SlotRemovalCommandsComplete : Prop :=
  (∀ (s : State) k, s.running = true → k < 48 →
    (∃ t, exec (.attentionPress k false) s = .next t ∧ t.rd (SLT_STAT.ATTN k) = 0 ∧ t.slots = s.slots ∧ t.out = s.out) ∧
    (s.flag (SLT_CTL.ATTN_EN k) = true → (s.slotState k = slotRemoving → (s.slotHold k).ending = false → s.slotTime k 5000 = false →
        ∃ t, exec (.attentionPress k true) s = .next t ∧
        t.rd (SLT_STAT.ATTN k) = 1 ∧ t.rd (SLT_EVT.CANCEL k) = 1 ∧ t.rd (SLT_STAT.STATE k) = (s.slotHold k).back % 16) ∧
      (∀ u : State, slotRemovable (s.slotState k) = true → u = (s.wr (SLT_STAT.ATTN k) 1).slotEvent k (SLT_EVT.ATTN_PRESS k) →
        (s.slotState k = slotReady → u.removalRefused k = false) → ∃ t, exec (.attentionPress k true) s = .next t ∧
          t = (u.onHold k fun h => { h with back := s.slotState k }).setSlot k slotRemoving ∧
          t.rd (SLT_STAT.STATE k) = slotRemoving ∧ (t.slotHold k).back = s.slotState k ∧ t.rd (SLT_EVT.ATTN_PRESS k) = 1)) ∧
    (s.slotState k = slotRemoving → (s.slotHold k).ending = false → s.slotTime k 5000 = true →
      exec (.removalTimerEnd k) s = .next (s.endRemoval k).runJobs) ∧
    (s.slotState k = slotReady → ∀ reason, reason ≠ 9 → exec (.containment k reason) s = .next (s.containSlot k reason).runJobs) ∧
    (s.slotState k = slotReady → exec (.containment k 9) s = .next ((s.count (SLT_UNCORR.addr k)).containSlot k 9).runJobs) ∧
    (s.slotState k ≠ slotEmpty → ∃ u : State, exec (.surpriseRemoval k) s = .next u.runJobs ∧ u.rd (SLT_STAT.STATE k) = slotEmpty ∧
      u.rd (SLT_STAT.PRSNT k) = 0 ∧ u.rd (SLT_EVT.PRSNT_CHG k) = 1 ∧ (u.slotHold k).debounced = false)) ∧
  (∀ (s : State) k, s.running = true → k < 48 →
    (∀ reason set u, s.liveMember k = some (set, u) → exec (.peerSlotEvent k (.failed reason)) s = .next (s.failMember set u).runJobs) ∧
    (∀ u, u = (s.onSlots fun x => { x with peerOff := k :: x.peerOff.filter (· != k) }) → exec (.peerSlotEvent k .entersOff) s =
      .next (if s.flag (SLT_STAT.PWR_OWN k) then u else u.wr (SLT_STAT.PWR_NET k) 0).slotsGo.runJobs) ∧
    (exec (.peerSlotEvent k .leavesOff) s =
      .next ((s.onSlots fun x => { x with peerOff := x.peerOff.filter (· != k) }).wr (SLT_STAT.PWR_NET k) 1).runJobs) ∧
    ((s.liveMember k).isSome = true → exec (.peerSlotEvent k (.ready false)) s = .next (s.registerOn k).runJobs)) ∧
  (∀ (s : State) who k a, s.running = true → k < 48 → a = SLT_CMD.addr k → s.Opens who a → s.flag (SLT_CMD.BUSY k) = false →
    (s.slotState k = slotOff → ∃ t, exec (.slotPowerOn who k) s = .next t ∧ t.rd (SLT_CMD.STATUS k) = 0 ∧
      t.rd (SLT_STAT.STATE k) = slotPowering ∧ t.rd (SLT_STAT.PWR_OWN k) = 1 ∧ k ∈ t.slots.pulled) ∧
    (∀ u : State, u = (s.written a 0x20000).endRemoval k → slotRemovable (s.slotState k) = true ∨ s.slotState k = slotRemoving →
      (s.slotHold k).ending = false → (s.slotState k = slotReady → (s.written a 0x20000).removalRefused k = false) →
      exec (.slotOff who k) s = .next ((u.wrs [(SLT_CMD.STATUS k, 0),
        (SLT_CMD.BUSY k, if (u.slotHold k).ending then 1 else 0)]).answered who a 0x20000).runJobs) ∧
    (∀ u : State, u = (s.written a 0x30000).endRemoval k → slotRemovable (s.slotState k) = true ∨ s.slotState k = slotRemoving →
      (s.slotHold k).ending = false →
      exec (.slotForcedOff who k) s = .next ((u.wrs [(SLT_CMD.STATUS k, 0),
        (SLT_CMD.BUSY k, if (u.slotHold k).ending then 1 else 0)]).answered who a 0x30000).runJobs) ∧
    (s.slotState k = slotContained ∨ s.slotState k = slotRefused → ∃ t, exec (.slotRetrain who k) s = .next t ∧
      t.rd (SLT_CMD.STATUS k) = 0 ∧ t.rd (SLT_STAT.STATE k) = slotTraining ∧ t.rd (SLT_LSTAT.UP k) = 0) ∧
    (s.slotState k = slotRefused → s.preparable k = true → s.rd (SLT_STAT.REASON k) ≠ 1 →
      ∃ t, exec (.slotPrepare who k false true) s = .next t ∧ t.rd (SLT_CMD.STATUS k) = 0 ∧
        t.rd (SLT_STAT.STATE k) = slotChecking)) ∧
  (∀ (s u : State) op o, s.running = true → s.store.ops.find? (·.id == op) = some o →
    (o.sentAt + s.rd (SLT_CFG.CMD_TMO o.slot) * 1000000 ≤ s.now →
      u = (s.count (SLT_TMO.addr o.slot)).emit (.driveAdmin o.slot (.abort op)) →
      (o.timeouts < 3 → exec (.memberCommandTimeout op) s = .next (u.resendOp { o with timeouts := o.timeouts + 1 }).runJobs) ∧
      (3 ≤ o.timeouts → u.slotState o.slot ≠ slotRemoving → exec (.memberCommandTimeout op) s =
        .next (u.containSlot o.slot 0xB).runJobs) ∧
      (3 ≤ o.timeouts → u.slotState o.slot = slotRemoving → exec (.memberCommandTimeout op) s =
        .next ((u.opLost o).slotMemberFails o.slot 0xB).runJobs)) ∧
    (o.retries < 3 → exec (.memberCommandError op) s = .next (s.resendOp { o with retries := o.retries + 1 }).runJobs) ∧
    (3 ≤ o.retries → o.kind = .read → exec (.memberCommandError op) s = .next (s.opLost o).runJobs) ∧
    (3 ≤ o.retries → o.kind ≠ .read → u = s.walkWriteFailed o → exec (.memberCommandError op) s =
      .next (if (u.liveMember o.slot).isSome then u.slotMemberFails o.slot 0xD else u.opLost o).runJobs))

/-- A measurement while the Wallflower works takes the bank's level and shows the usable energy and the derating. A
charging store that reaches 98% of EFULL is Ready, and a Ready one below 95% charges. A test asked for is due; a due,
granted test that the energy allows starts; its end shows capacitance, resistance and EFULL and judges the health. An
unbalanced store or one under 90 J fails. The decision of a power failure is made once: PFD sets, outstanding member
writes are dropped, the store discharges, and an image is begun where one would seal. The quiesce's end powers its
domains off. -/
def Obligations.EnergyStoreCommandsComplete : Prop :=
  (∀ (s : State) v, s.wallRuns = true → ∃ t, exec (.energyMeasurement v) s = .next t ∧ t.energy.level = s.bankEnergy v / bankScale ∧
    t.rd NRG_STAT.DERATE = (if s.bankTemps.1 < 100 ∨ 600 < s.bankTemps.2 then 1 else 0) ∧
    (s.rd NRG_STAT.STATE = 1 → t.reg NRG_CHARGE_MJ.addr =
      s.reg NRG_CHARGE_MJ.addr + BitVec.ofNat 64 (s.bankEnergy v / bankScale - s.energy.level)) ∧
    (s.testOverdue = s.flag NRG_STAT.OVERDUE → t.rd NRG_EUSE.MJ = s.usableEnergy v % 2 ^ 20)) ∧
  (∀ s : State, s.wallRuns = true → (s.rd NRG_STAT.STATE = 1 → 98 * s.rd NRG_EFULL.MJ ≤ 100 * s.energy.level →
      ∃ t, exec .chargeComplete s = .next t ∧ t.rd NRG_STAT.STATE = 2 ∧ t.energy = s.energy) ∧
    (s.rd NRG_STAT.STATE = 2 → 100 * s.energy.level < 95 * s.rd NRG_EFULL.MJ →
      ∃ t, exec .chargeLevelDrop s = .next t ∧ t.rd NRG_STAT.STATE = 1 ∧ t.energy = s.energy) ∧
    (∀ unbalanced, s.rd NRG_STAT.STATE ≠ 5 → unbalanced = true ∨ s.rd NRG_EFULL.MJ < 90000 →
      ∃ t, exec (.storeFailure unbalanced) s = .next t ∧ t.rd NRG_STAT.STATE = 5 ∧ t.rd NRG_STAT.HEALTH = 2)) ∧
  (∀ (s : State) who, s.running = true → s.Opens who NRG_CMD.addr → ∃ t, exec (.nrgTestRequest who) s = .next t ∧
    t.energy = { s.energy with testDue := true } ∧ t.mem = s.mem) ∧
  (∀ s : State, s.running = true → s.rd NRG_STAT.STATE = 2 → s.testIsDue = true → s.granted 8 = true → s.testFits = true →
    ∃ t, exec .capacityTestStart s = .next t ∧ t.rd NRG_STAT.STATE = 3 ∧ t.energy = { s.energy with testDue := false }) ∧
  (∀ (s : State) cap esr e, s.wallRuns = true → s.rd NRG_STAT.STATE = 3 → cap < 2 ^ 20 → esr < 2 ^ 16 →
    e = (s.wrs [(WFL_CAP.C, cap), (WFL_ESR.ESR, esr)]).bankEnergy 8800000 / bankScale → e < 2 ^ 20 →
    ∃ t, exec (.capacityTestDone cap esr) s = .next t ∧ t.rd WFL_CAP.C = cap ∧ t.rd WFL_ESR.ESR = esr ∧ t.rd NRG_EFULL.MJ = e ∧
      t.reg NRG_LASTTEST.addr = BitVec.ofNat 64 (s.now / 10 ^ 9) ∧
      (240000 ≤ e → t.rd NRG_STAT.STATE = 1 ∧ t.rd NRG_STAT.HEALTH = 0) ∧
      (90000 ≤ e → e < 240000 → t.rd NRG_STAT.STATE = 1 ∧ t.rd NRG_STAT.HEALTH = 1) ∧
      (e < 90000 → t.rd NRG_STAT.STATE = 5 ∧ t.rd NRG_STAT.HEALTH = 2)) ∧
  (∀ s : State, s.entryState ≠ entryLatched → s.flag WFL_STAT.PFD = false → s.wallRuns = true →
    ∃ t, exec .powerFailDecision s = .next t ∧ t.rd WFL_STAT.PFD = 1 ∧ t.energy.decided = true ∧ t.energy.quiesced = false ∧
      t.energy.writesImage = (s.wouldSeal && !s.power.dormant && !s.clock.heldInReset) ∧ t.energy.decidedMeasure = s.measure ∧
      t.store = { s.store with ops := [], jobs := [] } ∧
      (s.rd NRG_STAT.STATE ≠ 5 → s.rd NRG_STAT.STATE ≠ 6 → t.rd NRG_STAT.STATE = 4) ∧
      (t.energy.writesImage = true → t.rd VLT_STAT.STATE = 2)) ∧
  (∀ s u : State, s.energy.decided = true → s.energy.quiesced = false → u = ((s.onEnergy fun e => { e with quiesced := true }).each
      (s.quiesceDomains.filter fun d => s.domainState d != 2) fun d s => s.powerOffDomain d) →
    (u.energy.writesImage = true ∨ u.rd NRG_STAT.STATE ≠ 4 → exec .quiesceComplete s = .next u) ∧
    (u.energy.writesImage = false → u.rd NRG_STAT.STATE = 4 → exec .quiesceComplete s = .next (u.setStore 6)))

/-- A seal after the quiesce keeps the image in flash and, with no input, leaves the module off; a decision with no image
and input present resets the module. While the SoC runs: the self-check ends Armed or in a restore; a restore takes
the newest image and empties areas with bad headers; summaries, or 1 s without them, decide every group's section; the
leader of a group installs its copies; a restore whose copies have gone retires the image; a flash fault is Failed; a
set is loaded and registered on; its journal is recovered; map pages are copied. -/
def Obligations.VaultCommandsComplete : Prop :=
  (∀ (s : State) whole extra, s.energy.quiesced = true → s.energy.writesImage = true → s.rd VLT_STAT.STATE = 2 → s.gateOn = false →
    ∃ t, exec (.destageSeal whole extra) s = .next t ∧ t.rd VLT_STAT.STATE = 3 ∧ t.power.on = false ∧ t.energy.writesImage = false ∧
      ∃ i, i ∈ t.energy.images ∧ i.area = t.rd VLT_STAT.AREA ∧ i.iseq = s.rd64 VLT_ISEQ.addr + 1 ∧ i.retired = false ∧
        i.meas = s.energy.decidedMeasure ∧ i.sections = (s.sealedImage whole extra).sections) ∧
  (∀ (s : State), s.energy.decided = true → s.energy.writesImage = false → s.power.on = true → s.gateOn = true →
    (s.flag WFL_STAT.CYCPEND = false → exec .decisionResetTimer s = .next s.rearmReset) ∧
    (s.flag WFL_STAT.CYCPEND = true → exec .decisionResetTimer s =
      .next ((s.rearmReset.count WFL_CYCLES.addr).openEntry 6 0 (s.rearmReset.rd EFU_VIN.MV)))) ∧
  (∀ s : State, s.running = true → s.rd VLT_STAT.STATE = 0 → ∃ t, exec .vaultSelfCheck s = .next t ∧
    (s.imageToRestore [] ≠ none → t.rd VLT_STAT.STATE = 4) ∧ (s.imageToRestore [] = none → t.rd VLT_STAT.STATE = 1) ∧
    t.energy.images = s.energy.images ∧ t.out = s.out) ∧
  (∀ (s : State) bad, s.running = true → s.rd VLT_STAT.STATE = 4 → s.energy.restoring = none → s.flag MIN_STAT.FILLED = true →
    ∃ t, exec (.vaultRestore bad) s = .next t ∧ t.energy.images = s.energy.images.filter (fun i => !bad.contains i.area) ∧
      (s.imageToRestore bad = none → t.rd VLT_STAT.STATE = 1) ∧
      (∀ i, s.imageToRestore bad = some i → t.energy.restoring = some i.area ∧ t.energy.choices = [] ∧ t.energy.restored = [])) ∧
  (∀ (s u : State) i peer, s.running = true → s.restoringImage = some i → s.rd VLT_STAT.STATE = 4 → s.energy.choices = [] →
    (u = s.onEnergy (fun e => { e with
        choices := (List.range 8).map (s.chooseSection i peer)
        installed := (((List.range 8).map (s.chooseSection i peer)).filter fun c => c.choice == .discard).map (·.group) }) →
      exec (.sectionSummary peer) s = .next u.tryEndRestore) ∧
    (u = s.onEnergy (fun e => { e with
        choices := (List.range 8).map (s.chooseSection i ⟨[], 0, 0⟩)
        installed := (((List.range 8).map (s.chooseSection i ⟨[], 0, 0⟩)).filter fun c => c.choice == .discard).map (·.group) }) →
      exec .summaryTimeout s = .next u.tryEndRestore)) ∧
  (∀ (s u : State) group fromPeer i c, s.running = true → s.restoringImage = some i → s.energy.choices.find? (·.group == group) = some c →
    group ∉ s.energy.installed → s.leads group = true → u = s.each (restoreBlocks c (i.blocks group) fromPeer) (fun b s => s.takeCopy b) →
    exec (.restoreInstall group fromPeer) s = .next ((u.onEnergy fun e => { e with
      restored := e.restored ++ (u.store.copies.filter fun c => s.store.nextCopy ≤ c.id).map (·.id)
      installed := group :: e.installed }).finishGroup group).tryEndRestore.runJobs) ∧
  (∀ (s : State) a, s.running = true → s.rd VLT_STAT.STATE = 5 → s.energy.restored = [] → s.energy.restoring = some a →
    ∃ t, exec .vaultRetire s = .next t ∧ t.rd VLT_STAT.STATE = 1 ∧ t.energy.restoring = none ∧
      (∀ i ∈ t.energy.images, i.area = a → i.retired = true)) ∧
  (∀ s : State, s.running = true → s.rd VLT_STAT.STATE ≠ 6 → ∃ t, exec .vaultFault s = .next t ∧ t.rd VLT_STAT.STATE = 6 ∧
    t.energy = s.energy ∧ t.store = s.store) ∧
  (∀ (s : State) set, s.running = true → (s.loadSet set).flag (QDL_GEOM.VALID set) = true → (s.loadSet set).gridRuns = true →
    exec (.setAssembly set) s = .next ((s.loadSet set).each ((s.loadSet set).memberSlots set) fun d s => s.registerOn d)) ∧
  (∀ (s u v : State) set blocks lost, s.running = true → u = s.assembleSet set →
    v = (u.each (u.store.journal.filter fun e => e.set == set && e.state != 3) fun e s => s.finishEntry e) →
    (s.store.journalHeld = true ∨ s.store.assembled.contains set = true → exec (.journalRecovery set blocks lost) s =
      .next (v.each (v.store.peerJournal.filter fun e => e.set == set && e.state != 3 &&
        (v.stripeOwner e.set e.gen e.stripe).any (fun n => v.leads n.group)) fun e s => s.adoptEntry e).runJobs) ∧
    (s.store.journalHeld = false → s.store.assembled.contains set = false → exec (.journalRecovery set blocks lost) s =
      .next (((u.noteJournal blocks).restoreLost set lost).recoverSet set (u.journalOf set blocks)).runJobs)) ∧
  (∀ (s : State) n, s.running = true → s.rd VLT_STAT.STATE = 1 → exec (.mapMirrorCopy n) s = .next (s.copyPages n).runJobs)

/-- A packet on an open transport is accepted, and an MCTP control message is answered; while the entry is not On the Wallflower answers a midplane packet, and in
Dormant it answers the entry record and wakes the module for the rest. While the SoC runs: a fragment is held and
forgotten at its time limit; a doorbell posts the free slots it names; a reply taken frees its slot for the next; the
notice tail moves; old challenges expire; an idle session ends; a request still running at 10 s has its reply with
status 0x0602. The layout of control messages is taken from DSP0236 (PRESUMED, log 134). -/
def Obligations.ManagementTransportCommandsComplete : Prop :=
  (∀ (s : State) a type b, s.entryState = entryOn → s.power.dormant = false → s.running = true → s.flag MCP_STAT.READY = true →
    s.transportOpen a.transport = true → (a.transport ≤ 2 → type = 0x7E) →
    exec (.mcpPacketReceived a type b none) s = .next (s.acceptPacket a 0 b) ∧
    (∀ id rest, rest = (s.mcp.datagrams.filter fun d => !(d.id == id && d.source == a)) →
      ((s.mcp.datagrams.find? fun d => (d.id == id && d.source == a) && decide (s.now < d.since + 10 ^ 9)) = none →
        exec (.mcpPacketReceived a type b (some (id, false))) s = .next (s.onMcp fun m => { m with datagrams := rest ++ [⟨id, a, s.now⟩] })) ∧
      ((s.mcp.datagrams.find? fun d => (d.id == id && d.source == a) && decide (s.now < d.since + 10 ^ 9)).isSome = true →
        b.length + 8 ≤ 4200 → exec (.mcpPacketReceived a type b (some (id, true))) s =
          .next ((s.onMcp fun m => { m with datagrams := rest }).acceptPacket a 0 b)))) ∧
  (∀ (s : State) a b f, a.transport ≤ 2 → s.mctpAnswers a.transport = true →
    exec (.mcpPacketReceived a 0 b f) s = .next (s.mctpControl a b)) ∧
  (∀ (s : State) a b f, s.entryState ≠ entryOn → a.transport = 1 → pktFormed b = true → pktSealed b = false → pktOpcode b = 3 →
    exec (.mcpPacketReceived a 0x7E b f) s =
      .next (s.emit (.packet 1 a.address (plainPacket (pktSession b) (pktTag b) 3 0 s.entryRecord)))) ∧
  (∀ (s : State) a type b f, s.entryState = entryOn → s.power.dormant = true →
    (a.transport = 1 ∨ a.transport = 2 → type = 0x7E → pktFormed b = true → pktSealed b = true →
      exec (.mcpPacketReceived a type b f) s = .next (s.wake 1)) ∧
    (a.transport = 3 → exec (.mcpPacketReceived a type b f) s = .next (s.wake 0))) ∧
  (∀ (s : State) a id, s.running = true → exec (.fragmentTimeout a id) s = .next (s.onMcp fun m => { m with
    datagrams := m.datagrams.filter fun d => !(d.id == id && d.source == a && decide (d.since + 10 ^ 9 ≤ s.now)) })) ∧
  (∀ (s : State) who mask, s.running = true → s.Opens who MCP_REQ_DB.addr → exec (.mcpReqDoorbell who mask) s =
    .next ((s.each ((List.range 4).filter (bitOf mask)) fun k s => s.postRequest k).answered who MCP_REQ_DB.addr
      (BitVec.ofNat 32 (mask % 16)))) ∧
  (∀ (s u : State) who bits, s.running = true → s.Opens who MCP_RPL_RDY.addr →
    u = s.wr MCP_RPL_RDY.RDY (s.rd MCP_RPL_RDY.RDY - (s.rd MCP_RPL_RDY.RDY &&& bits % 16)) → exec (.mcpRplRdyClear who bits) s =
      .next ((u.each ((List.range 4).filter fun k => bitOf bits k && !bitOf (u.rd MCP_RPL_RDY.RDY) k) fun k s => s.replyNext k).answered
        who MCP_RPL_RDY.addr (BitVec.ofNat 32 (bits % 16)))) ∧
  (∀ (s : State) who tail, s.running = true → tail < 16 → s.Opens who MCP_NTC_TAIL.addr → ∃ t, exec (.mcpNtcTailWrite who tail) s = .next t ∧
    t.rd MCP_NTC_TAIL.TAIL = tail ∧ t.mcp = s.mcp ∧ t.mem = s.mem) ∧
  (∀ s : State, s.running = true → ∃ t, exec .challengeExpiry s = .next t ∧
    t.mcp.challenges = s.mcp.challenges.filter (fun x => decide (s.now < x.issued + 10 ^ 10)) ∧ t.mcp.sessions = s.mcp.sessions ∧ t.out = s.out) ∧
  (∀ (s : State) slot m, s.running = true → s.session slot = some m → m.requests = [] → m.lastUsed + s.rd MCP_CFG.IDLE * 10 ^ 9 ≤ s.now →
    ∃ t, exec (.sessionIdleTimeout slot) s = .next t ∧ t.session slot = none ∧ t.keySlot slot = none) ∧
  (∀ (s : State) slot tag c m, s.running = true → s.call slot tag = some c → c.session = some m → c.timedOut = false →
    (m.requests.any fun r => r.seq == c.seq && r.startedAt.any fun t => decide (t + 10 ^ 10 ≤ s.now)) = true →
    exec (.requestTimeout slot tag) s = .next ((s.sealedReply m c 0x602 []).onSession slot fun x => { x with
      requests := x.requests.map fun r => if r.seq == c.seq then { r with timedOut := true } else r }))

/-- While the SoC runs and the management port is ready: version 1.3, the algorithms ECDSA P-384 and SHA-384, the digest
of the chain, a part of the chain, a signed challenge response with a fresh nonce, and measurement blocks, each
answered to its sender. The chain is answered in Dormant too; another request wakes the module. The message layout is
taken from DSP0274 (PRESUMED, log 44). -/
def Obligations.SpdmCommandsComplete : Prop :=
  (∀ (s : State) a, a.transport ≤ 2 → s.power.dormant = false → s.running = true → s.flag MCP_STAT.READY = true →
    exec (.spdmGetVersion a) s = .next (s.emit (.packet a.transport a.address [0x10, 0x04, 0, 0, 0, 1, 0x00, 0x13])) ∧
    (∃ b : Bytes, exec (.spdmGetCapabilities a) s = .next (s.emit (.packet a.transport a.address b)) ∧ b.take 4 = [0x13, 0x61, 0, 0] ∧
      b.length = 20) ∧
    (∃ b : Bytes, exec (.spdmNegotiateAlgorithms a) s = .next (s.emit (.packet a.transport a.address b)) ∧ b.length = 36 ∧
      numAt b 12 4 = 0x80 ∧ numAt b 16 4 = 2) ∧
    exec (.spdmGetDigests a) s = .next (s.emit (.packet a.transport a.address
      ([0x13, 0x01, 0, 1] ++ Config.sha384 Config.certificateChain))) ∧
    (∀ off len, off ≤ Config.certificateChain.length → exec (.spdmGetCertificate a 0 off len) s = .next (s.emit (.packet a.transport a.address
      ([0x13, 0x02, 0, 0] ++ leBytes 2 ((Config.certificateChain.drop off).take len).length ++
       leBytes 2 (Config.certificateChain.length - off - ((Config.certificateChain.drop off).take len).length) ++
       (Config.certificateChain.drop off).take len)))) ∧
    (∀ request body, numAt request 2 1 = 0 → numAt request 3 1 = 0 →
      body = [0x13, 0x03, 0, 1] ++ Config.sha384 Config.certificateChain ++ (s.random 32).1 ++ [0, 0] ++ (request.drop 36).take 8 →
      exec (.spdmChallenge a request) s = .next ((s.random 32).2.emit (.packet a.transport a.address (body ++ Config.sign (request ++ body))))) ∧
    (∀ request i body, 1 ≤ i → i ≤ 5 → numAt request 3 1 = i →
      body = [0x13, 0x60, 0, 0] ++ [1] ++ leBytes 3 (s.measurementBlock i).length ++ s.measurementBlock i ++ (s.random 32).1 ++ [0, 0] →
      (bitOf (numAt request 2 1) 0 = false → exec (.spdmGetMeasurements a request) s =
        .next ((s.random 32).2.emit (.packet a.transport a.address (body ++ (request.drop 4).take 8)))) ∧
      (bitOf (numAt request 2 1) 0 = true → exec (.spdmGetMeasurements a request) s =
        .next ((s.random 32).2.emit (.packet a.transport a.address (body ++ (request.drop 37).take 8 ++
          Config.sign (request ++ (body ++ (request.drop 37).take 8)))))))) ∧
  (∀ (s : State) a, a.transport = 1 ∨ a.transport = 2 → s.power.dormant = true →
    exec (.spdmGetVersion a) s = .next (s.wake 1) ∧
    (∀ slot off len, exec (.spdmGetCertificate a slot off len) s =
      .next (s.emit (.packet a.transport a.address (certificatePart slot off len)))))

/-- While the SoC runs, a request that meets the checks of R434 to R436: identity, entry record and challenge are answered
with status 0, and the challenge is remembered; a Session Open whose principal, challenge and proof are right opens a
free session slot; reset ends a session of the principal, list shows its sessions, subscribe sets the mask, and
notices, status, log pages, fault records and long operations are read with status 0. -/
def Obligations.RecordAndSessionRequestsComplete : Prop :=
  (∀ (s : State) tag c, s.running = true →
    (s.Requests (s.openSlot tag 1) tag 1 c → exec (.getIdentity tag) s = .next (s.reply c 0 s.identityRecord)) ∧
    (s.Requests (s.openSlot tag 3) tag 3 c → exec (.getEntryRecord tag) s = .next (s.reply c 0 s.entryRecord)) ∧
    (s.Requests (s.openSlot tag 2) tag 2 c → ∃ u : State, exec (.getChallenge tag) s = .next (u.reply c 0 (s.random 32).1) ∧
      u.mcp.challenges = (s.mcp.challenges ++ [(⟨(s.random 32).1, s.now⟩ : McpChallenge)]).drop (s.mcp.challenges.length - 63) ∧ u.out = s.out) ∧
    (∀ i, s.Requests (s.openSlot tag 0x10) tag 0x10 c → s.principalLive (numAt c.params 0 2) = true → s.lockedOut (numAt c.params 0 2) = false →
      (s.two.claimed = true ∨ c.from_.transport = 5 ∨ c.from_.transport = 1 ∨ c.from_.transport = 2) →
      (s.mcp.challenges.any fun x => x.value == (c.params.drop 4).take 32 && decide (s.now < x.issued + 10 ^ 10)) = true →
      Config.hmac (s.principalKey (numAt c.params 0 2)) (c.bytes.take 32 ++ c.params.take 164) = c.params.drop 164 →
      (s.mcp.sessions.filter (·.principal == numAt c.params 0 2)).length < 4 →
      ((List.range 56).find? fun i => (s.session (8 + i)).isNone) = some i → exec (.sessionOpen tag) s =
        .next ((s.onMcp fun m => { m with challenges := m.challenges.filter (·.value != (c.params.drop 4).take 32) }).showMcp.openSession c
          (numAt c.params 0 2) (8 + i) ((c.params.drop 4).take 32) ((c.params.drop 36).take 32) ((c.params.drop 68).take 96)))) ∧
  (∀ (s : State) slot tag c, s.running = true →
    (∀ me, s.Requests slot tag 0x11 c → s.session slot = some me →
      (numAt c.params 0 4 = 0 ∨ numAt c.params 0 4 = me.word → exec (.sessionReset slot tag) s = .next ((s.reply c 0).endSession slot)) ∧
      (∀ m, numAt c.params 0 4 ≠ 0 → numAt c.params 0 4 ≠ me.word →
        (s.mcp.sessions.find? fun m => m.word == numAt c.params 0 4 && m.principal == me.principal) = some m →
        exec (.sessionReset slot tag) s = .next ((s.reply c 0).endSession m.slot))) ∧
    (∀ me mine, s.Requests slot tag 0x12 c → c.session = some me → mine = s.mcp.sessions.filter (fun m => me.principal == m.principal) →
      exec (.sessionList slot tag) s = .next (s.reply c 0 (leBytes 1 mine.length ++ [0, 0, 0] ++ mine.flatMap fun m =>
        leBytes 4 m.word ++ leBytes 1 m.bound.transport ++ [0, 0, 0] ++ leBytes 4 ((s.now - m.lastUsed) / 10 ^ 9)))) ∧
    (s.Requests slot tag 0x13 c → exec (.noticeSubscribe slot tag) s = .next ((s.onSession slot fun m => { m with
      mask := numAt c.params 0 4 &&& noticeMask }).reply c 0 (leBytes 4 (numAt c.params 0 4 &&& noticeMask)))) ∧
    (∀ l, s.Requests slot tag 0x14 c → l = (s.mcp.notices.reverse.filter fun n => numAt c.params 0 8 ≤ n.number).take 16 →
      exec (.getNotices slot tag) s = .next (s.reply c 0 (leBytes 1 l.length ++ [0, 0, 0, 0, 0, 0, 0] ++ l.flatMap fun n => n.params false))) ∧
    (s.Requests slot tag 0x101 c → ∃ b : Bytes, exec (.moduleStatus slot tag) s = .next (s.reply c 0 b) ∧ b.length = 48 ∧
      numAt b 0 4 = (s.reg MEAS_STAT.addr).toNat % 2 ^ 32 ∧ numAt b 4 4 = (s.reg NRG_STAT.addr).toNat % 2 ^ 32 ∧
      numAt b 8 4 = (s.reg VLT_STAT.addr).toNat % 2 ^ 32) ∧
    (∀ b t, s.Requests slot tag 0x102 c → numAt c.params 12 4 ≤ 4032 →
      s.logPage noController (numAt c.params 4 4) (numAt c.params 0 1) = .ok (b, t) → numAt c.params 8 4 ≤ b.length →
      exec (.logPageRead slot tag) s = .next (t.reply c 0 ((b.drop (numAt c.params 8 4)).take (numAt c.params 12 4)))) ∧
    (∀ l, s.Requests slot tag 0x103 c → l = (s.flt.ring.reverse.filter fun r => numAt c.params 0 8 ≤ r.number).take 63 →
      exec (.faultRecordsRead slot tag) s = .next ((s.onFlt fun x => { x with
        ring := x.ring.map fun r => if l.any (·.number == r.number) then { r with read := true } else r }).reply c 0 (l.flatMap FaultRecord.bytes))) ∧
    (∀ b t, s.Requests slot tag 0x104 c → s.logPage noController 0 0xC2 = .ok (b, t) → numAt c.params 0 4 ≤ b.length →
      exec (.longOperationStatus slot tag) s = .next (t.reply c 0 ((b.drop (numAt c.params 0 4)).take 4048))))

/-- While the SoC runs, a request that meets the checks of R434 to R436: lead, slot and layout commands run the command
register's own command and finish when it ends; a module reset and a power cycle are answered first and act 10 ms
later, a graceful reset hands the groups over first; power state On is answered, and Dormant begins an entry; the shelf budget is taken; firmware is staged and
committed; a group's policy, led here, is assigned to the coming boundary, and one that the peer leads is passed on; the measure length is stored for the next reset. -/
def Obligations.OperatorRequestsComplete : Prop :=
  (∀ (s t : State) slot tag c, s.running = true → s.Requests slot tag 0x201 c → numAt c.params 1 1 < 8 → s.callBusy c = false →
    ((numAt c.params 0 1 = 1 ∧ exec (.ltkHandOverGroup .ronhenko (numAt c.params 1 1)) s = .next t) ∨
     (numAt c.params 0 1 = 2 ∧ exec (.ltkHandOverAll .ronhenko) s = .next t) ∨
     (numAt c.params 0 1 = 3 ∧ exec (.ltkReleaseGroup .ronhenko (numAt c.params 1 1)) s = .next t) ∨
     (numAt c.params 0 1 = 4 ∧ exec (.ltkAcquireGroup .ronhenko (numAt c.params 1 1)) s = .next t) ∨
     (numAt c.params 0 1 = 5 ∧ exec (.ltkRunSelfTest .ronhenko) s = .next t)) →
    exec (.leadCommand slot tag) s = .next ((t.startCall c).finishCall slot c.tag)) ∧
  (∀ (s t : State) slot tag c x y, s.running = true → s.Requests slot tag 0x202 c → numAt c.params 0 1 < 48 → s.callBusy c = false →
    ((numAt c.params 1 1 = 1 ∧ exec (.slotPowerOn .ronhenko (numAt c.params 0 1)) s = .next t) ∨
     (numAt c.params 1 1 = 2 ∧ exec (.slotOff .ronhenko (numAt c.params 0 1)) s = .next t) ∨
     (numAt c.params 1 1 = 3 ∧ exec (.slotForcedOff .ronhenko (numAt c.params 0 1)) s = .next t) ∨
     (numAt c.params 1 1 = 4 ∧ exec (.slotRetrain .ronhenko (numAt c.params 0 1)) s = .next t) ∨
     (numAt c.params 1 1 = 5 ∧ exec (.slotPrepare .ronhenko (numAt c.params 0 1) x y) s = .next t)) →
    exec (.slotCommand slot tag x y) s = .next ((t.startCall c).finishCall slot c.tag)) ∧
  (∀ (s t : State) slot tag c, s.running = true → s.Requests slot tag 0x203 c → numAt c.params 0 1 < 4 → s.callBusy c = false →
    ((numAt c.params 1 1 = 1 ∧ exec (.promenadeStart .ronhenko (numAt c.params 0 1)) s = .next t) ∨
     (numAt c.params 1 1 = 2 ∧ exec (.setCreate .ronhenko (numAt c.params 0 1)) s = .next t) ∨
     (numAt c.params 1 1 = 3 ∧ exec (.setDelete .ronhenko (numAt c.params 0 1)) s = .next t)) →
    exec (.layoutCommand slot tag) s = .next ((t.startCall c).finishCall slot c.tag)) ∧
  (∀ (s : State) slot tag c, s.running = true →
    (s.Requests slot tag 0x204 c → bitOf (numAt c.params 0 4) 0 = false ∨ s.rd LTK_STAT.LEAD % 256 = 0 →
      ∃ u : State, exec (.moduleReset slot tag) s = .next u.runJobs ∧ u = (s.reply c 0 [0, 0, 0, 0]).onMcp fun m => { m with
        action := some ⟨false, (s.reply c 0 [0, 0, 0, 0]).now + 10 ^ 7⟩ }) ∧
    (∀ gs, s.Requests slot tag 0x204 c → bitOf (numAt c.params 0 4) 0 = true → gs = (List.range 8).filter s.leads → gs ≠ [] →
      gs.all s.peerReady = true → exec (.moduleReset slot tag) s = .next (((s.each gs fun g s => s.startHandOver g false).startCall
        c).onMcp fun m => { m with resetAfter := some (slot, c.tag, s.rd LTK_STAT.LEAD) }).runJobs) ∧
    (s.Requests slot tag 0x205 c → exec (.powerCycle slot tag) s = .next ((s.reply c 0).onMcp fun m => { m with
        action := some ⟨true, (s.reply c 0).now + 10 ^ 7⟩ })) ∧
    (∀ refuser, s.Requests slot tag 0x206 c →
      (numAt c.params 0 1 = 1 → exec (.setPowerState slot tag refuser) s = .next (s.reply c 0 [1, 0, 0, 0]).runJobs) ∧
      (numAt c.params 0 1 = 3 → s.power.dormantStep = none → exec (.setPowerState slot tag refuser) s =
        .next ((s.startCall c).enterDormant refuser (some (slot, c.tag))).runJobs)) ∧
    (s.Requests slot tag 0x207 c → 50 ≤ numAt c.params 0 2 → numAt c.params 0 2 ≤ 250 → exec (.shelfBudget slot tag) s =
      .next ((s.wr CAL_BUDGET.SHELF_W (numAt c.params 0 2)).reply c 0 (leBytes 4 (numAt c.params 0 2)))) ∧
    (∀ t, s.Requests slot tag 0x208 c → 4 ≤ numAt c.params 4 4 → numAt c.params 4 4 ≤ 4040 →
      s.stageImage (numAt c.params 0 4) (c.params.drop 8) = (stOk, t) → exec (.firmwareDownload slot tag) s = .next (t.reply c 0)) ∧
    (∀ t, s.Requests slot tag 0x209 c → (numAt c.params 1 1 = 3 → s.sanitizeHolds = false) →
      ((numAt c.params 1 1 = 0 ∧ s.storeImage (numAt c.params 0 1) = (stOk, t)) ∨
       (numAt c.params 1 1 = 1 ∧ s.storeImageNext (numAt c.params 0 1) = (stOk, t)) ∨
       (numAt c.params 1 1 = 2 ∧ s.markImage (numAt c.params 0 1) = (stOk, t)) ∨
       (numAt c.params 1 1 = 3 ∧ s.commitActivate (numAt c.params 0 1) = (stOk, t))) →
      exec (.mcpFirmwareCommit slot tag) s = .next (t.reply c 0 (leBytes 4
        (if numAt c.params 1 1 = 2 then numAt c.params 0 1 else s.commitSlot (numAt c.params 0 1))))) ∧
    (s.Requests slot tag 0x20A c → numAt c.params 0 1 < 8 →
      (s.leads (numAt c.params 0 1) = true → numAt c.params 2 1 ≤ 1 →
        (∀ u, numAt c.params 4 4 = 0 → numAt c.params 1 1 < 4 → s.flag (QDL_GEOM.VALID (numAt c.params 1 1)) = true →
          numAt c.params 3 1 ≤ 1 → u = s.onHost (fun h => { h with policyChanges := h.policyChanges ++
            [⟨numAt c.params 0 1, 0, s.measure + 1, ⟨numAt c.params 1 1, numAt c.params 2 1 == 1, numAt c.params 3 1 == 1⟩⟩] }) →
          ∃ b, exec (.groupPolicy slot tag) s = .next (u.reply c 0 b)) ∧
        (∀ u, numAt c.params 4 4 ≠ 0 → numAt c.params 1 1 = 0xFF → numAt c.params 3 1 = 0xFF →
          ((s.namespace (numAt c.params 4 4)).any fun n => n.group == numAt c.params 0 1) = true →
          u = s.onHost (fun h => { h with policyChanges := h.policyChanges ++
            [⟨numAt c.params 0 1, numAt c.params 4 4, s.measure + 1, ⟨0, numAt c.params 2 1 == 1, true⟩⟩] }) →
          ∃ b, exec (.groupPolicy slot tag) s = .next (u.reply c 0 b))) ∧
      (s.leads (numAt c.params 0 1) = false → s.linkUp = true → bitOf s.link.peerLeads (numAt c.params 0 1) = true →
        exec (.groupPolicy slot tag) s = .next ((s.startCall c).emit (.message 0 (policyHead 1 slot tag ++ c.params))))) ∧
    (s.Requests slot tag 0x20B c → numAt c.params 0 1 ≤ 4 → exec (.setMeasureLength slot tag) s =
      .next ((s.onCfg fun x => { x with mlen := numAt c.params 0 1 }).reply c 0
        (leBytes 1 (numAt c.params 0 1) ++ leBytes 1 (s.rd MEAS_CTL.MLEN) ++ [0, 0]))))

/-- While the SoC runs, a request of a Guardian that meets the checks of R434 to R436: a proposal that may be opened is
opened and answered with its number; a confirm of an open proposal by another principal with the right digest counts,
and the second arms it for its target or for four measures ahead; the proposer or any Guardian withdraws an open
proposal; the status of live proposals, or of one, is read. -/
def Obligations.TwoStepRequestsComplete : Prop :=
  ∀ (s : State) slot tag c, s.running = true →
    (∀ n t, s.Requests slot tag 0x300 c → s.propose c.principal (numAt c.params 0 2) (numAt c.params 4 8) (c.params.drop 12) c.sessionWord = .ok (n, t) →
      exec (.twoStepPropose slot tag) s = .next (t.reply c 0 (leBytes 8 n))) ∧
    (∀ p, s.Requests slot tag 0x301 c → s.two.proposals.find? (·.number == numAt c.params 0 8) = some p → p.state = .opened →
      p.object ≠ 6 → c.principal ∉ p.counted → c.params.drop 8 = p.digest →
      (p.counted = [] → ∃ u : State, exec (.twoStepConfirm slot tag) s = .next (u.reply c 0 (leBytes 8 p.target)) ∧
        u.two.proposals.find? (·.number == numAt c.params 0 8) = some { p with counted := [c.principal] }) ∧
      (p.counted ≠ [] → p.target = 0 → ∃ u : State, exec (.twoStepConfirm slot tag) s = .next (u.reply c 0 (leBytes 8 (s.measure + 4))) ∧
        u.two.proposals.find? (·.number == numAt c.params 0 8) = some { p with
          counted := c.principal :: p.counted.filter (· != c.principal), state := .armed, armedFor := s.measure + 4 }) ∧
      (p.counted ≠ [] → s.measure + 2 ≤ p.target → ∃ u : State, exec (.twoStepConfirm slot tag) s = .next (u.reply c 0 (leBytes 8 p.target)) ∧
        u.two.proposals.find? (·.number == numAt c.params 0 8) = some { p with
          counted := c.principal :: p.counted.filter (· != c.principal), state := .armed, armedFor := p.target })) ∧
    (∀ p, s.Requests slot tag 0x302 c → s.two.proposals.find? (·.number == numAt c.params 0 8) = some p → p.state = .opened →
      ∃ u : State, exec (.twoStepWithdraw slot tag) s = .next (u.reply c 0) ∧
        u.two.proposals.find? (·.number == numAt c.params 0 8) = some { p with state := .withdrawn }) ∧
    (s.Requests slot tag 0x303 c → numAt c.params 0 8 = 0 → exec (.twoStepStatus slot tag) s =
      .next (s.reply c 0 (((s.two.proposals.filter Proposal.live).flatMap Proposal.status).take 4048))) ∧
    (∀ p, s.Requests slot tag 0x303 c → numAt c.params 0 8 ≠ 0 → s.two.proposals.find? (·.number == numAt c.params 0 8) = some p →
      exec (.twoStepStatus slot tag) s = .next (s.reply c 0 (p.status.take 4048)))

/-- The port's reset pin and cable are followed, whether the SoC runs or not. While it runs: the link comes up with its
speed and width and both functions Idle; a hot reset resets the port; a configuration request of a ready function is
answered, each bus-master, FLR and power-state event has its effect, and one of a function not ready is retried; a
function quiesced goes Idle; a doorbell of the enabled controller fetches its entries; a read's data arrives, and its
time-out ends it. -/
def Obligations.DirectPortCommandsComplete : Prop :=
  (∀ s : State, (∃ t, exec (.cablePresenceChange true) s = .next t ∧ t.direct.cableIn = true ∧ t.rd DPT_STAT.CBL = 1) ∧
    (s.running = false → ∃ t, exec (.cablePresenceChange false) s = .next t ∧ t.direct.cableIn = false ∧ t.rd DPT_STAT.CBL = 0) ∧
    (s.running = true → exec (.cablePresenceChange false) s =
      .next ((((s.onDirect fun d => { d with cableIn := false }).wr DPT_STAT.CBL 0).portReset none).runJobs))) ∧
  (∀ s : State, ∃ t, exec .dirPerstDeassert s = .next t ∧ t.direct.perstLow = false ∧ t.rd DPT_STAT.PERST = 0 ∧ t.rd DPT_STAT.WAKE = 0) ∧
  (∀ s : State, (s.running = false ∨ s.direct.cableIn = false → ∃ t, exec .dirPerstAssert s = .next t ∧ t.direct.perstLow = true ∧
      t.rd DPT_STAT.PERST = 1 ∧ t.out = s.out) ∧
    (s.running = true → s.direct.cableIn = true → exec .dirPerstAssert s = .next ((((((s.onDirect fun d => { d with
      perstLow := true }).wr DPT_STAT.PERST 1).wr DPT_EVT.PERST 1).count DPT_PERST.addr).portReset (some 0x04)).runJobs))) ∧
  (∀ (s : State) speed width flit, s.running = true → s.directMayTrain = true → s.flag DPT_STAT.UP = false → speed < 16 → width < 32 →
    ∃ t, exec (.directLinkUp speed width flit) s = .next t ∧ t.rd DPT_STAT.UP = 1 ∧ t.rd DPT_STAT.SPEED = speed ∧
      t.rd DPT_STAT.WIDTH = width ∧ t.fnState 0 = fnIdle ∧ t.fnState 1 = fnIdle ∧
      (speed < 6 ∨ width < 16 → t.rd DPT_STAT.DEGRADED = 1)) ∧
  (∀ s : State, s.running = true → s.flag DPT_STAT.UP = true → exec .hotReset s = .next ((((s.wr DPT_EVT.HOTRST 1).count
    DPT_HOTRST.addr).portReset (some 0x03)).emit (.direct .train)).runJobs) ∧
  (∀ (s : State) f offset (v : Word) en, s.running = true → s.cfgReady f = true →
    exec (.configRequest f offset true v en) s = .next ((s.cfgWrite f (offset / 4 * 4) v.toNat en).emit (.direct .done)).runJobs ∧
    exec (.configRequest f offset false v en) s = .next (s.emit (.direct (.data 4 ((s.cfgRead f (offset / 4 * 4)).setWidth 64)))).runJobs ∧
    exec (.busMasterEnableClear f) s = .next ((s.clearBme f).emit (.direct .done)).runJobs ∧
    exec (.busMasterEnableSet f) s = .next ((s.setBme f).emit (.direct .done)).runJobs ∧
    exec (.functionLevelReset f) s = .next ((s.startFlr f).emit (.direct .done)).runJobs ∧
    exec (.d3hotEntry f) s = .next ((s.enterD3 f).emit (.direct .done)).runJobs ∧
    exec (.d0Return f) s = .next ((s.returnD0 f).emit (.direct .done)).runJobs) ∧
  (∀ (s : State) f offset w (v : Word) en, s.running = true → s.flag DPT_STAT.UP = true → f < 2 → s.cfgReady f = false →
    exec (.configRequest f offset w v en) s = .next (s.emit (.direct .retry)).runJobs) ∧
  (∀ (s : State) f, s.running = true → f < 2 → (s.direct.fn f).flr = true →
    (s.direct.fn f).flrAt + 20000000 ≤ s.now → exec (.flrTimeout f) s = .next (s.plainFault 3 1 0x60 f)) ∧
  (∀ (s : State) f, s.running = true → f < 2 → s.fnState f = fnQuiescing → (f = 0 → s.direct.reads.any (·.sent) = false) →
    (s.direct.fn f).latchBme = false → (s.direct.fn f).latchCc = false → ∃ u : State, exec (.functionQuiesced f) s = .next u.runJobs ∧
      u.fnState f = fnIdle ∧
      ((s.direct.fn f).flr = false → (s.direct.fn f).latchD0 = false → u.rd (DPT_FSTAT.TPEND f) = 0)) ∧
  (∀ (s : State) q tail size old, s.running = true → s.directEnabled = true → s.direct.cfs = false → s.fnState 0 ≠ fnQuiescing →
    q ≤ 128 → tail < size → (q = 0 ∨ size ≤ 1024) → size ≤ 4096 → old = ((s.direct.tails.find? (·.1 == q)).map (·.2)).getD 0 →
    exec (.sqDoorbell q tail size) s = .next ((s.onDirect fun d => { d with tails := putBy (·.1) (q, tail) d.tails }).each
      (List.range ((tail + size - old % size) % size)) fun i s => s.directFetch 64 fun _ => .entry q ((old + i) % size)).runJobs) ∧
  (∀ (s : State) tag data r, s.running = true → (s.direct.reads.find? fun r => r.tag == tag && r.sent) = some r →
    exec (.directReadCompletion tag data) s = .next (s.directArrives r data).runJobs ∧
    (∀ key off c, r.sentAt + s.directTimeout ≤ s.now → r.what = .data key off → (((s.count DPT_CTO.addr).wr DPT_EVT.CTO 1).endDirectRead tag).command key = some c →
      exec (.directCompletionTimeout tag) s =
        .next ((((s.count DPT_CTO.addr).wr DPT_EVT.CTO 1).endDirectRead tag).endCommand c stDataTransfer).runJobs))

/-- While the SoC runs, a command that R47, R52, R81 and R86 admit, within its limit, its namespace's end, its reservation
and the memory its descriptors name: write, read, compare, Write Zeroes, Verify, Dataset Management, Copy, Flush and the
reservation commands enter the table with the range, places and data of their entry; a reservation action or structure
that Table 3.2 does not have is refused. An opcode outside the table is refused. Slots, locks and room are granted where
they are free; reads take copies that have become durable; a controller is reset, its keep-alive expires after its time
and its shutdown completes. -/
def Obligations.HostIoCommandsComplete : Prop :=
  (∀ (s : State) (e : IoEntry) (r : IoRange) ns (c : IoKind → HostCmd), s.running = true → s.admission e = .ok ns →
    r.range.first + r.range.count ≤ ns.blocks → (∀ k, c k = { s.newCommand e k ns with
      range := r.range, pract := r.pract, prchk := r.prchk, lbat := r.lbat, lbatm := r.lbatm, places := s.placesOf ns r.range }) →
    (r.range.count ≤ 512 → (s.reservationNow ns).conflicts (s.hostOf e.key.ctrl) true = false →
      ∀ buffer, s.dataHolds e .write buffer (r.range.count * transferBytes ns r.pract) = true →
        exec (.write e r buffer) s = .next (s.enter { c .write with buffer := buffer }).runJobs) ∧
    (r.range.count ≤ 512 → (s.reservationNow ns).conflicts (s.hostOf e.key.ctrl) false = false →
      (s.dataHolds e .read .remote (r.range.count * transferBytes ns r.pract) = true →
        exec (.read e r) s = .next (s.enter (c .read)).runJobs) ∧
      ∀ buffer, s.dataHolds e .compare buffer (r.range.count * transferBytes ns r.pract) = true →
        exec (.compare e r buffer) s = .next (s.enter { c .compare with buffer := buffer }).runJobs) ∧
    (r.range.count ≤ 65536 → (s.reservationNow ns).conflicts (s.hostOf e.key.ctrl) true = false →
      exec (.writeZeroes e r) s = .next (s.enter (c .writeZeroes)).runJobs) ∧
    (r.range.count ≤ 65536 → (s.reservationNow ns).conflicts (s.hostOf e.key.ctrl) false = false →
      exec (.verify e r) s = .next (s.enter (c .verify)).runJobs)) ∧
  (∀ (s : State) (e : IoEntry) ns, s.running = true → s.admission e = .ok ns →
    (∀ ranges deallocate, ranges.length ≤ 256 → (deallocate = true → ranges.any (fun r => decide (ns.blocks < r.first + r.count)) = false ∧
        (s.reservationNow ns).conflicts (s.hostOf e.key.ctrl) true = false) → exec (.datasetManagement e ranges deallocate) s =
      .next (s.enter { s.newCommand e .dsm ns with
        ranges := ranges, deallocate := deallocate, places := if deallocate then ranges.flatMap (s.placesOf ns) else [] }).runJobs) ∧
    (∀ sources dest total, total = (⟨dest, (sources.map BlockRange.count).foldl (· + ·) 0⟩ : BlockRange) →
      copyWithinLimits sources = true → sources.any (fun r => rangesMeet r total) = false →
      (total :: sources).any (fun r => decide (ns.blocks < r.first + r.count)) = false →
      (s.reservationNow ns).conflicts (s.hostOf e.key.ctrl) true = false →
      (s.reservationNow ns).conflicts (s.hostOf e.key.ctrl) false = false →
      exec (.copy e sources dest) s = .next (s.enter { s.newCommand e .copy ns with
        range := total, ranges := sources, places := s.placesOf ns total, srcPlaces := sources.flatMap (s.placesOf ns) }).runJobs) ∧
    (e.nsid ≠ 0xFFFFFFFF → exec (.flush e) s = .next (s.enter (s.newCommand e .flush ns)).runJobs) ∧
    (∀ action crkey nrkey, exec (.reservationRegister e action crkey nrkey) s = .next (if action ≤ 2 then
      s.enter { s.newCommand e .resvRegister ns with resv := some (.register action crkey nrkey) } else s.refuse e stInvalidField).runJobs) ∧
    (∀ extended, exec (.reservationReport e extended) s = .next (if extended then
      s.enter { s.newCommand e .resvReport ns with resv := none } else s.refuse e stInvalidField).runJobs) ∧
    (∀ action rtype crkey prkey, exec (.reservationAcquire e action rtype crkey prkey) s =
      .next (s.enter { s.newCommand e .resvAcquire ns with resv := some (.acquire action rtype crkey prkey) }).runJobs) ∧
    (∀ action rtype crkey, exec (.reservationRelease e action rtype crkey) s =
      .next (s.enter { s.newCommand e .resvRelease ns with resv := some (.release action rtype crkey) }).runJobs)) ∧
  (∀ (s : State) (e : IoEntry) ns rest, s.running = true → e.nsid = 0xFFFFFFFF →
    (s.host.namespaces.filter fun n => !n.deleted && n.attached.contains e.key.ctrl && s.leads n.group) = ns :: rest →
    s.admission { e with nsid := ns.nsid } = .ok ns → exec (.flush e) s =
      .next (s.enter { s.newCommand e .flush ns with writeBack := (ns :: rest).any (·.writeBack) }).runJobs) ∧
  (∀ (s : State) (e : IoEntry), s.running = true → e.key.qid ≠ 0 → exec (.unknownIoOpcode e) s =
    .next (s.refuse e ((s.ioCheck e).getD stInvalidOpcode)).runJobs) ∧
  (∀ (s : State) key c, s.running = true → s.command key = some c →
    (c.stage = .slot → s.slotsTaken < 262144 → (s.host.commands.any fun d => d.stage == .slot && d.order < c.order &&
        d.key.ctrl == c.key.ctrl && d.key.qid == c.key.qid) = false →
      exec (.commandSlotGrant key) s = .next ((s.onCommand key fun c => { c with stage := .lock }).tryLock key).runJobs) ∧
    (c.stage = .lock → s.lockFree c = true → s.moveHolds c = false → s.vaultHolds c = false →
      exec (.rangeLockGrant key) s = .next (s.runLocked key).runJobs) ∧
    (∀ ns u, s.namespace c.nsid = some ns → c.stage = .room → s.roomTurn c = true → s.roomFits c.writeBack c.range.count = true →
      u = ((s.count VLT_ROOM_WAIT_NS.addr (s.now - c.since)).onCommand key fun c => { c with
        stage := .fetch, room := c.range.count }).showRoomWait →
      (c.kind = .copy → exec (.dirtyRoomGrant key) s = .next ((u.onCommand key fun c => { c with stage := .move }).startReading key).runJobs) ∧
      (c.kind ≠ .copy → exec (.dirtyRoomGrant key) s =
        .next ((u.startFetch key (c.range.count * transferBytes ns c.pract)).formBlocks key).runJobs)) ∧
    (∀ ns ready u, s.namespace c.nsid = some ns → ready = c.awaits.filterMap (fun (i, id) =>
        ((getBy HeldCopy.id id s.store.copies).filter (·.durable)).map fun h => (i, h)) →
      u = s.onCommand key (fun c => { c with
        awaits := c.awaits.filter fun a => !(ready.any (·.1 == a.1))
        got := ready.map (fun (i, h) => (i, s.copyPlain ns h)) ++ c.got }) →
      exec (.readDurableResume key) s = .next (u.finishRead key).freeCopies.runJobs)) ∧
  (∀ (s : State) ctrl c ends, s.running = true → s.controller ctrl = some c →
    exec (.controllerReset ctrl ends) s = .next (s.resetController ctrl ends).runJobs ∧
    (c.kato ≠ 0 → c.kaAt + c.kato * 10 ^ 6 ≤ s.now → exec (.keepAliveExpiry ctrl) s = .next (s.resetController ctrl true).runJobs) ∧
    (c.shst = 1 → (s.host.commands.any fun h => h.key.ctrl == ctrl) = false →
      exec (.shutdownComplete ctrl) s = .next (s.onController ctrl fun c => { c with shst := 2 }).runJobs))

/-- While the SoC runs and the context is cached, the context of a good packet of a queue pair in use, and of a timer that
runs, becomes the most recently used, the packet is served, and a hit is counted: a request and an RDMA Write by their
PSN, a READ response, an ACK, a NAK and a CNP by their rules, and the ACK timeout, the receiver-not-ready timer and the
rate step; a doorbell of the context's owner runs its ring, and another's is recorded. A bad packet is counted and
discarded. -/
def Obligations.RdmaPacketCommandsComplete : Prop :=
  (∀ (s u : State) qpn idx (hit : State → State), s.running = true → idx = qpnIndex qpn → s.qpnInUse qpn = true →
    s.lookup (s.pipeline false (pipelineOf idx)) idx = .hit → u = s.touchContext idx →
    (∀ t : State, hit t = (t.count QPC_HIT.addr).event 0x10 (pipelineOf idx)) →
    (∀ psn op ce payload, exec (.inboundRequest qpn psn op ce false payload) s =
      .next (hit (u.classify idx psn fun s => s.expectedSend idx psn op ce payload))) ∧
    (∀ psn part rkey addr len ce payload, exec (.inboundRdmaWrite qpn psn part rkey addr len ce false payload) s =
      .next (hit (u.classify idx psn fun s => s.expectedWrite idx psn part rkey addr len ce payload))) ∧
    (∀ psn ce payload, exec (.rdmaReadResponse qpn psn ce false payload) s = .next (hit (u.readResponse idx psn ce payload))) ∧
    (∀ psn, s.ackValid idx psn = true → exec (.ackReceived qpn psn) s =
      .next (hit ((((u.onRdma fun r => { r with
        discarded := r.discarded.filter fun d => d.1 != idx || decide (psnSub d.2 (psnAdd psn 1) < 2 ^ 23) }).received idx 4 0).setCtx idx
          Ctx.UNA_PSN (psnAdd psn 1)).restoreRetries idx))) ∧
    (∀ psn kind, exec (.nakReceived qpn psn kind) s = .next (hit (u.nakArrives idx psn kind))) ∧
    (exec (.cnpReceived qpn) s = .next (hit (u.onCnp idx)))) ∧
  (∀ (s : State) qpn psn, s.running = true →
    (∀ op ce payload, exec (.inboundRequest qpn psn op ce true payload) s = .next (s.count QPC_DROP.addr)) ∧
    (∀ part rkey addr len ce payload, exec (.inboundRdmaWrite qpn psn part rkey addr len ce true payload) s = .next (s.count QPC_DROP.addr)) ∧
    (∀ ce payload, exec (.rdmaReadResponse qpn psn ce true payload) s = .next (s.count QPC_DROP.addr))) ∧
  (∀ (s u : State) idx (hit : State → State), s.running = true → s.lookup (s.pipeline true (pipelineOf idx)) idx = .hit →
    u = s.touchContext idx → (∀ t : State, hit t = (t.count QPC_HIT.addr).event 0x10 (pipelineOf idx)) →
    (s.qpSends idx = true → s.ctx idx Ctx.UNA_PSN ≠ s.ctx idx Ctx.NPSN → exec (.ackTimeout idx) s =
      .next (hit (u.retryFrom idx ((u.readGap idx).getD (s.ctx idx Ctx.UNA_PSN))))) ∧
    (s.rdma.rnrTimers.contains idx = true → exec (.rnrTimerExpiry idx) s =
      .next (hit ((u.onRdma fun r => { r with rnrTimers := r.rnrTimers.filter (· != idx) }).resend idx (s.ctx idx Ctx.UNA_PSN)))) ∧
    (s.rdma.stepTimers.contains idx = true → exec (.rateStepTimer idx) s = .next (hit (u.onStepTimer idx))) ∧
    (∀ who tail, idx < 2 ^ 17 → tail < 2 ^ 15 → s.Opens who QPC_DB.addr → s.ctx idx Ctx.OWNER = ownerOf who →
      exec (.qpcDoorbell who idx tail) s =
        .next ((hit (u.doorbell idx tail)).answered who QPC_DB.addr (BitVec.ofNat 32 (idx * 2 ^ 15 + tail))))) ∧
  (∀ (s : State) who idx tail, s.running = true → idx < 2 ^ 17 → tail < 2 ^ 15 → s.Opens who QPC_DB.addr → s.ctx idx Ctx.OWNER ≠ ownerOf who →
    exec (.qpcDoorbell who idx tail) s = .next ((s.fault
      { cls := 2, code := 0x84, severity := 1, source := 0x18, addr := idx, part := match who with | .partition p => p | _ => 255 }).answered who QPC_DB.addr (BitVec.ofNat 32 (idx * 2 ^ 15 + tail))))

/-- While the SoC runs: an acceptable connection request takes a free context, Connecting, and is answered with its number and
queue size, and another one is rejected; ready-to-use makes it Ready with its receive queue posted, and a reject or
time-out frees it; a disconnect drains a Ready pair, and ends the controller of an admin queue; a drained one is freed. A
fill is installed and its parked packets served; a written-back victim leaves the buffer. A full READ gives its tracker
back, a waiting one is sent, and a finished work request completes. Create, read, destroy, flush, pin and unpin end with
STATUS 0. -/
def Obligations.QueuePairCommandsComplete : Prop :=
  (∀ (s : State) c, s.running = true →
    (∀ q, c.tcpPort = s.rd QPC_CTL.SVC_PORT → s.connectionRefused c = none → q = s.connectionContext c (s.freeContext.getD 0) →
      exec (.connectionRequest c) s = .next ((s.putContext q).emit (.connectionReply c.port (q.get Ctx.LQPN) c.hsqsize))) ∧
    (∀ st, c.tcpPort = s.rd QPC_CTL.SVC_PORT → s.connectionRefused c = some st →
      exec (.connectionRequest c) s = .next (s.emit (.connectionReject c.port (some st)))) ∧
    (c.tcpPort ≠ s.rd QPC_CTL.SVC_PORT → exec (.connectionRequest c) s = .next (s.emit (.connectionReject c.port none)))) ∧
  (∀ (s : State) idx, s.running = true →
    (s.ctx idx Ctx.STATE = qpConnecting → (∃ t, exec (.readyToUse idx) s = .next t ∧ t.ctx idx Ctx.STATE = qpReady ∧
        t.ctx idx Ctx.RQ_POSTED = s.ctx idx Ctx.RQ_DEPTH ∧ t.regs = s.regs ∧ t.out = s.out) ∧
      (∃ t, exec (.connectingTimeout idx) s = .next t ∧ t.ctx idx Ctx.STATE = qpFree ∧ t.ctx idx Ctx.GEN = s.ctx idx Ctx.GEN ∧ t.out = s.out) ∧
      (∃ t, exec (.connectionReject idx) s = .next t ∧ t.ctx idx Ctx.STATE = qpFree ∧ t.ctx idx Ctx.GEN = s.ctx idx Ctx.GEN ∧ t.out = s.out)) ∧
    (s.ctx idx Ctx.STATE = qpReady →
      ((s.qp idx).bound = false ∨ s.ctx idx Ctx.SVC = 1 ∨ s.ctx idx Ctx.QID ≠ 0 →
        ∃ t, exec (.disconnectRequest idx) s = .next t ∧ t.ctx idx Ctx.STATE = qpDraining ∧ t.host = s.host ∧ t.out = s.out) ∧
      ((s.qp idx).bound = true → s.ctx idx Ctx.SVC = 0 → s.ctx idx Ctx.QID = 0 → exec (.disconnectRequest idx) s =
        .next ((s.setCtx idx Ctx.STATE qpDraining).resetController (s.ctx idx Ctx.CNTLID) true))) ∧
    (s.queueBusy idx = false → (s.ctx idx Ctx.STATE = qpError → ∃ t, exec (.queuePairDrained idx) s = .next t ∧
        t.ctx idx Ctx.STATE = qpDraining ∧ t.host = s.host) ∧
      (s.ctx idx Ctx.STATE = qpDraining → s.holdsCells idx = false → ∃ t, exec (.queuePairDrained idx) s = .next t ∧ t.ctx idx Ctx.STATE = qpFree ∧
        t.ctx idx Ctx.GEN = s.ctx idx Ctx.GEN))) ∧
  (∀ (s : State) tx pipe, s.running = true →
    (∀ idx u p, p = s.pipeline tx pipe → p.fill = some idx → ((s.victim idx).any (·.dirty) = false ∨ p.evict.length < 2) →
      u = (s.installContext { p with fill := none, parked := [], stalled := [] } idx).each p.parked (fun i s => s.serveItem idx i) →
        exec (.contextFillComplete tx pipe) s =
          .next ((if p.stalled.isEmpty then u else u.count QPC_STALL_NS.addr (u.now - p.stalledAt)).each p.stalled fun (j, i) s =>
            s.throughPipeline tx j i fun s => s.serveItem j i)) ∧
    (∀ idx, idx ∈ (s.pipeline tx pipe).evict → exec (.evictionWritebackComplete tx pipe idx) s =
      .next (s.putPipeline { s.pipeline tx pipe with evict := (s.pipeline tx pipe).evict.filter (· != idx) }))) ∧
  (∀ (s : State) tracker r, s.running = true → s.rdma.reads.find? (·.tracker == some tracker) = some r → r.packets ≤ r.map.length →
    ∃ t, exec (.readRequestComplete tracker) s = .next t ∧ t.rdma.reads = s.rdma.reads.filter (·.tracker != some tracker) ∧
      t.rdma.works = s.rdma.works.map (fun w => if w.num = r.work then { w with reads := w.reads - 1 } else w) ∧ t.out = s.out) ∧
  (∀ (s : State) idx, s.running = true →
    (s.readsWait idx = true → s.lookup (s.pipeline true (pipelineOf idx)) idx = .hit → exec (.readTrackerGrant idx) s =
      .next ((((s.touchContext idx).readsGo idx).count QPC_HIT.addr).event 0x10 (pipelineOf idx))) ∧
    (∀ w, s.rdma.works.find? (·.qp == idx) = some w → s.workDone w = true → exec (.workRequestComplete idx) s =
      .next (((s.onRdma fun r => { r with works := r.works.filter (·.num != w.num) }).completeWork idx w.wrId 0 w.opcode w.len
        w.signal).wakeWaits)) ∧
    (∀ r t, (s.rdma.reads.find? fun r => r.qp == idx && r.tracker.isNone) = some r → s.freeTracker = some t →
      s.ctx idx Ctx.STATE = qpReady → s.ctx idx Ctx.RD_OUT < s.ctx idx Ctx.ORD →
        (s.grantRead idx).out = .rdma idx (.readRequest (s.ctx idx Ctx.NPSN) r.packets r.raddr r.rkey r.len) :: s.out)) ∧
  (∀ (s : State) who idx, s.running = true → s.Opens who QPC_CMD.addr → s.flag QPC_CMD.BUSY = false → idx = s.rd QPC_CMD_IDX.IDX →
    (∀ image, image = ({ QueuePair.blank idx with img := BitVec.ofNat 4096 (s.loadNat (s.rd64 QPC_CMD_ADDR.addr) 512) } : QueuePair) →
      s.ctx idx Ctx.STATE = qpFree → (∀ p, who = .partition p → s.contextsOwned (p + 1) < s.partQueuePairs p) → Machine.imageGood image = true →
      ∃ t, exec (.qpcCreate who) s = .next t ∧ t.rd QPC_CMD.STATUS = 0 ∧ t.ctx idx Ctx.STATE = qpReady ∧
        t.ctx idx Ctx.OWNER = ownerOf who % 256 ∧ t.ctx idx Ctx.SVC = 1 ∧ t.ctx idx Ctx.GEN = nextGen (s.ctx idx Ctx.GEN) ∧ t.mem = s.mem) ∧
    (ownerOf who = 0 ∨ s.ctx idx Ctx.OWNER = ownerOf who →
      (∃ t, exec (.qpcRead who) s = .next t ∧ t.rd QPC_CMD.STATUS = 0 ∧ t.mem = (s.storeBytes (s.rd64 QPC_CMD_ADDR.addr) (leBytes 512
        (if ownerOf who = 0 then s.qp idx else (s.qp idx).set Ctx.FW 0).img.toNat)).mem ∧ t.rdma = s.rdma) ∧
      (s.ctx idx Ctx.STATE = qpReady →
        exec (.qpcDestroy who) s = .next (((s.endQueuePair idx).wr QPC_CMD.STATUS 0).answered who QPC_CMD.addr 3) ∧
        ((s.qp idx).bound = false ∨ s.ctx idx Ctx.SVC = 1 ∨ s.ctx idx Ctx.QID ≠ 0 → (s.endQueuePair idx).ctx idx Ctx.STATE = qpDraining) ∧
        exec (.qpcFlush who) s = .next (((s.queuePairError idx none).wr QPC_CMD.STATUS 0).answered who QPC_CMD.addr 4)) ∧
      (s.ctx idx Ctx.STATE ≠ qpFree → (s.ctx idx Ctx.PIN = 1 ∨ s.pinsOfSet idx < 4) → ∃ t, exec (.qpcPin who) s = .next t ∧
          t.rd QPC_CMD.STATUS = 0 ∧ t.ctx idx Ctx.PIN = 1 ∧ t.mem = s.mem) ∧
      (s.ctx idx Ctx.STATE ≠ qpFree → ∃ t, exec (.qpcUnpin who) s = .next t ∧ t.rd QPC_CMD.STATUS = 0 ∧ t.ctx idx Ctx.PIN = 0 ∧
        t.mem = s.mem)))

/-- While the SoC runs, for a controller that is enabled, authenticated and not shut down, while no sanitize holds the command:
log pages, Identify and features are returned with status 0; Abort aborts nothing; Keep Alive restarts the timer; an event
request is held; a namespace whose group is led here is created, deleted, attached and detached; a command passed to the
lead completes with its status; images are staged and committed with the status of their checks; a firmware trial ends
or times out; an opcode outside the table is refused. Property Get and Set, Connect and the authentication messages act
before that. -/
def Obligations.AdminCommandsComplete : Prop :=
  (∀ (s u : State) (e : AdminEntry) c, s.running = true → s.AdminOpen e.key true c → u = s.enterAdmin e →
    (∀ nsid lid offset length page t, offset % 4 = 0 → length % 4 = 0 → u.logPage c nsid lid = .ok (page, t) →
      exec (.getLogPage e nsid lid offset length) s = .next (t.answerData e.key ((page.drop offset).take length))) ∧
    (∀ cns nsid cntid d, u.identify c cns nsid cntid = .ok d → exec (.identify e cns nsid cntid) s = .next (u.answerData e.key d)) ∧
    (∀ fid sel nsid, featureKnown fid = true → sel ≤ 3 → (fid = 0xC0 ∨ fid = 0x82 → (s.namespace nsid).isSome = true) →
      (sel = 3 → exec (.getFeatures e fid sel nsid) s = .next (u.endAdmin e.key stOk (featureCapabilities fid))) ∧
      (sel ≠ 3 → fid = 0x0E → exec (.getFeatures e fid sel nsid) s = .next (u.answerData e.key (leBytes 6 (s.now / 10 ^ 6) ++ [0, 0]))) ∧
      (sel ≠ 3 → fid = 0x81 → exec (.getFeatures e fid sel nsid) s = .next (u.answerData e.key (leBytes 16 c.hostId))) ∧
      (sel ≠ 3 → fid ≠ 0x0E → fid ≠ 0x81 → exec (.getFeatures e fid sel nsid) s = .next (u.endAdmin e.key stOk
        (if sel = 0 then u.feature c fid nsid else if sel = 1 then featureDefault fid else u.savedFeature fid nsid))))) ∧
  (∀ (s : State) key c, s.running = true → s.AdminOpen key true c →
    (exec (.keepAlive key) s = .next (if c.direct then s.endAdmin key stInvalidOpcode
      else (s.onController key.ctrl fun c => { c with kaAt := s.now }).endAdmin key stOk)) ∧
    (c.aers.length < 16 → exec (.asynchronousEventRequest key) s = .next (s.onController key.ctrl fun x => { x with aers := x.aers ++ [key.cid] }))) ∧
  (∀ (s u : State) (e : AdminEntry) c, s.running = true → s.AdminOpen e.key false c → u = s.enterAdmin e →
    (∀ nsid value v, s.featureCheck 0x0B nsid value = .ok v → exec (.setFeatures e 0x0B false nsid value) s =
      .next ((u.onController e.key.ctrl fun c => { c with aec := v }).endAdmin e.key stOk 0)) ∧
    (∀ nsid value v, s.featureCheck 0x0F nsid value = .ok v → exec (.setFeatures e 0x0F false nsid value) s =
      .next ((u.onController e.key.ctrl fun c => { c with kato := v }).endAdmin e.key stOk 0)) ∧
    (∀ fid nsid value v, featureKnown fid = true → fid ∉ [0x01, 0x0B, 0x0F, 0x81] → s.featureCheck fid nsid value = .ok v →
      exec (.setFeatures e fid false nsid value) s = .next ((u.onController e.key.ctrl fun c => { c with
        features := (s.featureScope e.key.ctrl fid nsid).foldl (fun l n => putBy (·.1) (featureSlot fid n, v) l) c.features }).endAdmin
          e.key stOk (if fid = 0x07 then v else 0))) ∧
    (∀ size lbaf g, 1 ≤ g → g ≤ 8 → lbaf ≤ 2 → s.leads (g - 1) = true →
      exec (.namespaceManagementCreate e size size lbaf g) s = .next (u.createNamespace e.key size lbaf (g - 1))) ∧
    (∀ nsid n, s.liveNamespace nsid = some n → s.leads n.group = true →
      (∀ ctrls, ctrls ≠ [] → ctrls.all (fun c => (u.controller c).any (u.maskAdmits n.nsid) || u.maskAdmitsPeer n.nsid c) = true →
        ctrls.any n.attached.contains = false → exec (.namespaceAttach e nsid ctrls) s =
          .next (((u.onNamespace n.nsid fun n => { n with attached := n.attached ++ ctrls }).each ctrls
            fun c s => s.namespaceChanged c n.nsid).endAdmin e.key stOk)) ∧
      (∀ ctrls, n.formatting = false → ctrls ≠ [] → ctrls.all n.attached.contains = true → exec (.namespaceDetach e nsid ctrls) s =
        .next (((u.onNamespace n.nsid fun n => { n with attached := n.attached.filter fun c => !ctrls.contains c }).each ctrls
          fun c s => s.namespaceChanged c n.nsid).endAdmin e.key stOk))) ∧
    (∀ offset data l, stagePiece s.admin.staging offset data = .ok l → exec (.firmwareImageDownload e offset data) s =
      .next ((u.onAdmin fun a => { a with staging := l }).endAdmin e.key stOk))) ∧
  (∀ (s : State) key c, s.running = true → s.AdminOpen key false c →
    (exec (.abort key) s = .next (s.endAdmin key stOk 1)) ∧
    (∀ e : IoEntry, e.key = key → key.qid = 0 → exec (.unknownIoOpcode e) s = .next (s.endAdmin key stInvalidOpcode).runJobs) ∧
    (∀ nsid n, s.liveNamespace nsid = some n → s.leads n.group = true → n.formatting = false →
      exec (.namespaceManagementDelete key nsid) s = .next ((s.deleteNamespace nsid).endAdmin key stOk)) ∧
    (∀ slot action, action ≠ 0 → exec (.firmwareCommitStore key slot action) s = .next (s.endAdmin key stInvalidField)) ∧
    (∀ slot st t, (s.storeImage slot = (st, t) → exec (.firmwareCommitStore key slot 0) s = .next (t.endAdmin key st)) ∧
      (s.storeImageNext slot = (st, t) → exec (.firmwareCommitStoreNext key slot) s = .next (t.endAdmin key st)) ∧
      (s.markImage slot = (st, t) → exec (.firmwareCommitMark key slot) s = .next (t.endAdmin key st)) ∧
      (s.commitActivate slot = (st, t) → exec (.firmwareCommitActivate key slot) s = .next (t.endAdmin key st)))) ∧
  (∀ (s : State) key status dword0, s.running = true → s.admin.forwards.any (·.key == key) = true →
    exec (.adminCommandForward key status dword0) s =
      .next ((s.onAdmin fun a => { a with forwards := a.forwards.filter (·.key != key) }).endAdmin key status dword0)) ∧
  (∀ s : State, s.running = true → s.admin.trial = true →
    (s.trialOver = true → ∃ t, exec .firmwareTrialEnd s = .next t ∧ t.admin.trial = false ∧
      t.admin.minSvn = max s.admin.minSvn (imageSvn s.admin.running)) ∧
    (120 * 10 ^ 9 ≤ s.now → exec .firmwareTrialTimeout s = .next (s.onAdmin fun a => { a with nextSlot := a.previousSlot }))) ∧
  (∀ (s : State) qp cid c auth, s.running = true → (s.qp qp).bound = false → s.ctx qp Ctx.STATE = qpReady → s.sanitizeStatus false = none →
    auth = (if (s.chapKey c.hostNqn c.hostId).isSome then 1 else 0) →
    (s.connectCheck qp c = .ok none → ∀ id, id = s.freeCntlid.getD 0 → exec (.connect qp cid c) s =
      .next (((s.onHost fun h => { h with controllers := h.controllers ++ [s.newController id c] }).bindQueue id c.qid qp (auth == 1)).connectReply
        qp id c.qid cid stOk (id + auth * 65536))) ∧
    (∀ old, s.connectCheck qp c = .ok (some old) → exec (.connect qp cid c) s =
      .next ((s.bindQueue old.cntlid c.qid qp (auth == 1)).connectReply qp old.cntlid c.qid cid stOk (old.cntlid + auth * 65536))) ∧
    (∀ st, s.connectCheck qp c = .error st → exec (.connect qp cid c) s = .next (s.connectReply qp c.cntlid c.qid cid st 0))) ∧
  (∀ (s : State) key c, s.running = true → s.controller key.ctrl = some c → c.direct = false → s.sanitizeStatus false = none →
    (s.authDue key = false →
      (exec (.propertyGet key 0x00 8) s = .next (s.endAdmin key stOk capValue)) ∧
      (exec (.propertyGet key 0x08 4) s = .next (s.endAdmin key stOk 0x00020000)) ∧
      (exec (.propertyGet key 0x14 4) s = .next (s.endAdmin key stOk c.cc)) ∧
      (exec (.propertyGet key 0x1C 4) s = .next (s.endAdmin key stOk c.csts)) ∧
      (∀ v, exec (.propertySet key 0x14 4 v) s = .next ((s.writeCc key.ctrl v).endAdmin key stOk))) ∧
    (∀ e u k q, e.key = key → u = s.enterAdmin e → s.chapKey c.hostNqn c.hostId = some k → s.queuePairOf key.ctrl key.qid = some q →
      (∀ m, numAt m 1 1 = 0 → negotiable m = true → exec (.authenticationSend e m) s = .next ((u.onQp q (·.authTo 2)).endAdmin key stOk)) ∧
      (∀ m n, numAt m 1 1 = 2 → (s.qp q).auth = 3 → Config.chapVerifies k m = true → n = (if numAt m 8 1 = 1 then 6 else 4) →
        exec (.authenticationSend e m) s = .next ((u.onQp q (·.authTo n)).endAdmin key stOk)) ∧
      (∀ m, numAt m 1 1 = 4 → (s.qp q).auth = 5 → exec (.authenticationSend e m) s =
        .next ((u.onQp q (·.authTo 0)).endAdmin key stOk)) ∧
      (∀ length n step, step = (s.qp q).auth → (step = 2 ∧ n = 3 ∨ step = 4 ∧ n = 0 ∨ step = 6 ∧ n = 5) →
        exec (.authenticationReceive e length) s =
          .next ((u.onQp q (·.authTo n)).answerData key (Config.bytesOf length (Config.chapByte k step))))))

/-- For every command of the family, in every state: each part of the state that Instr.touches does not list for the
command is the same after it as before. The parts are the fields of State, every byte of memory, and the registers
block by block. What Instr.touches lists includes what the effect may start (a notice, a fault record, counters,
commands of hosts served next); the queue and the outputs have their own statement (ExecKeepsQueueAndOutputs). -/
def Obligations.RegisterClockAndCounterFrames : Prop :=
  ∀ (c : Instr) (s t : State) (p : Part), c.family = .registers → exec c s = .next t → p ∉ c.touches → p.same s t

/-- For every command of the family, in every state: each part of the state that Instr.touches does not list for the
command is the same after it as before. The parts are the fields of State, every byte of memory, and the registers
block by block. What Instr.touches lists includes what the effect may start (a notice, a fault record, counters,
commands of hosts served next); the queue and the outputs have their own statement (ExecKeepsQueueAndOutputs). -/
def Obligations.EntryWallflowerAndPowerFrames : Prop :=
  ∀ (c : Instr) (s t : State) (p : Part), c.family = .power → exec c s = .next t → p ∉ c.touches → p.same s t

/-- For every command of the family, in every state: each part of the state that Instr.touches does not list for the
command is the same after it as before. The parts are the fields of State, every byte of memory, and the registers
block by block. What Instr.touches lists includes what the effect may start (a notice, a fault record, counters,
commands of hosts served next); the queue and the outputs have their own statement (ExecKeepsQueueAndOutputs). -/
def Obligations.ClusterCipherAndEngineFrames : Prop :=
  ∀ (c : Instr) (s t : State) (p : Part), c.family = .engines → exec c s = .next t → p ∉ c.touches → p.same s t

/-- For every command of the family, in every state: each part of the state that Instr.touches does not list for the
command is the same after it as before. The parts are the fields of State, every byte of memory, and the registers
block by block. What Instr.touches lists includes what the effect may start (a notice, a fault record, counters,
commands of hosts served next); the queue and the outputs have their own statement (ExecKeepsQueueAndOutputs). -/
def Obligations.LinkAndTokenFrames : Prop :=
  ∀ (c : Instr) (s t : State) (p : Part), c.family = .peer → exec c s = .next t → p ∉ c.touches → p.same s t

/-- For every command of the family, in every state: each part of the state that Instr.touches does not list for the
command is the same after it as before. The parts are the fields of State, every byte of memory, and the registers
block by block. What Instr.touches lists includes what the effect may start (a notice, a fault record, counters,
commands of hosts served next); the queue and the outputs have their own statement (ExecKeepsQueueAndOutputs). -/
def Obligations.LayoutAndMemberFrames : Prop :=
  ∀ (c : Instr) (s t : State) (p : Part), c.family = .layout → exec c s = .next t → p ∉ c.touches → p.same s t

/-- For every command of the family, in every state: each part of the state that Instr.touches does not list for the
command is the same after it as before. The parts are the fields of State, every byte of memory, and the registers
block by block. What Instr.touches lists includes what the effect may start (a notice, a fault record, counters,
commands of hosts served next); the queue and the outputs have their own statement (ExecKeepsQueueAndOutputs). -/
def Obligations.SwitchAndGateFrames : Prop :=
  ∀ (c : Instr) (s t : State) (p : Part), c.family = .fabric → exec c s = .next t → p ∉ c.touches → p.same s t

/-- For every command of the family, in every state: each part of the state that Instr.touches does not list for the
command is the same after it as before. The parts are the fields of State, every byte of memory, and the registers
block by block. What Instr.touches lists includes what the effect may start (a notice, a fault record, counters,
commands of hosts served next); the queue and the outputs have their own statement (ExecKeepsQueueAndOutputs). -/
def Obligations.WalkProposalAndSlotFrames : Prop :=
  ∀ (c : Instr) (s t : State) (p : Part), c.family = .walks → exec c s = .next t → p ∉ c.touches → p.same s t

/-- For every command of the family, in every state: each part of the state that Instr.touches does not list for the
command is the same after it as before. The parts are the fields of State, every byte of memory, and the registers
block by block. What Instr.touches lists includes what the effect may start (a notice, a fault record, counters,
commands of hosts served next); the queue and the outputs have their own statement (ExecKeepsQueueAndOutputs). -/
def Obligations.EnergyVaultAndManagementFrames : Prop :=
  ∀ (c : Instr) (s t : State) (p : Part), c.family = .vault → exec c s = .next t → p ∉ c.touches → p.same s t

/-- For every command of the family, in every state: each part of the state that Instr.touches does not list for the
command is the same after it as before. The parts are the fields of State, every byte of memory, and the registers
block by block. What Instr.touches lists includes what the effect may start (a notice, a fault record, counters,
commands of hosts served next); the queue and the outputs have their own statement (ExecKeepsQueueAndOutputs). -/
def Obligations.DirectHostIoAndRdmaFrames : Prop :=
  ∀ (c : Instr) (s t : State) (p : Part), c.family = .hosts → exec c s = .next t → p ∉ c.touches → p.same s t

/-- For every command of the family, in every state: each part of the state that Instr.touches does not list for the
command is the same after it as before. The parts are the fields of State, every byte of memory, and the registers
block by block. What Instr.touches lists includes what the effect may start (a notice, a fault record, counters,
commands of hosts served next); the queue and the outputs have their own statement (ExecKeepsQueueAndOutputs). -/
def Obligations.AdminCommandFrames : Prop :=
  ∀ (c : Instr) (s t : State) (p : Part), c.family = .admin → exec c s = .next t → p ∉ c.touches → p.same s t

/-- A key command stores only to the bytes its operation names at CIP_KCMD_ADDR: 80 bytes for a blob, 80 bytes for each
rewrapped blob and 40 behind them, 16 bytes for a slot's status, none for the others. The read of a context stores
only to the 512 bytes at QPC_CMD_ADDR. Every other byte of memory reads as before. -/
def Obligations.KeyAndContextStoresStayInPlace : Prop :=
  (∀ (s t : State) who slot, exec (.keyGenerate who slot) s = .next t →
    s.storesOnly t (KeyCommand.mk 1 slot (s.rd64 CIP_KCMD_ADDR.addr) (s.rd64 CIP_KCMD_ARG.addr) who).stores) ∧
  (∀ (s t : State) who, exec (.kekRatchet who) s = .next t →
    s.storesOnly t (KeyCommand.mk 5 0 (s.rd64 CIP_KCMD_ADDR.addr) (s.rd64 CIP_KCMD_ARG.addr) who).stores) ∧
  (∀ (s t : State) who slot, exec (.slotStatusRead who slot) s = .next t →
    s.storesOnly t (KeyCommand.mk 7 slot (s.rd64 CIP_KCMD_ADDR.addr) (s.rd64 CIP_KCMD_ARG.addr) who).stores) ∧
  (∀ (s t : State) who slot, exec (.keyUnwrap who slot) s = .next t → s.storesOnly t []) ∧
  (∀ (s t : State) who slot, exec (.keyZeroise who slot) s = .next t → s.storesOnly t []) ∧
  (∀ (s t : State) who, exec (.keyDerivePair who) s = .next t → s.storesOnly t []) ∧
  (∀ (s t : State) who slot, exec (.highWaterLoad who slot) s = .next t → s.storesOnly t []) ∧
  (∀ (s t : State) who, exec (.kekImport who) s = .next t → s.storesOnly t []) ∧
  (∀ (s t : State) who, exec (.qpcRead who) s = .next t → s.storesOnly t [(s.rd64 QPC_CMD_ADDR.addr, 512)])

/-- An engine that takes a descriptor stores only to the pieces of the descriptor's destination, a tag behind them and
what a key operation names; a queue with no descriptor to start stores nothing. A descriptor that ends, or whose read
is not answered, stores only to the slots of its queue's completion ring and to what a key command that waited for its
slot names. Every other byte of memory reads as before. -/
def Obligations.EngineStoresStayInPlace : Prop :=
  (∀ (s t : State) q c, c ∈ [Instr.ewqCopy q, .ewqParity q, .ewqParityCheck q, .ewqXtsEncrypt q, .ewqXtsDecrypt q, .ewqGcmEncrypt q,
      .ewqGcmDecrypt q, .ewqGmac q, .ewqKeyCommand q] → exec c s = .next t →
    s.storesOnly t (match s.startable q with | some d => s.descriptorStores q d | none => [])) ∧
  (∀ (s t : State) q n, exec (.ewqDescriptorComplete q n) s = .next t → s.storesOnly t (s.completionStores q)) ∧
  (∀ (s t : State) q n a, exec (.ewqReadTimeout q n a) s = .next t → s.storesOnly t (s.completionStores q))

/-- For each of the 48 counters: an amount that fits is added and nothing else changes. An amount that would take it past
2^48 − 1 leaves it at 2^48 − 1 with SAT set and at the remainder of the addition with SAT clear; in both cases its bit
of PMC_OVF is 1 and the other bits are as before, and its owner receives an interrupt exactly when IRQ is set and the
bit was 0. -/
def Obligations.CounterOverflowSaturatesOrWraps : Prop :=
  ∀ (s : State) i n, i < 48 → s.rd64 (PMC_CNT.addr i) < 2 ^ 48 →
    (s.rd64 (PMC_CNT.addr i) + n < 2 ^ 48 →
      (s.addCounter i n).rd64 (PMC_CNT.addr i) = s.rd64 (PMC_CNT.addr i) + n ∧ (s.addCounter i n).out = s.out ∧
      (s.addCounter i n).rd64 PMC_OVF.addr = s.rd64 PMC_OVF.addr) ∧
    (2 ^ 48 ≤ s.rd64 (PMC_CNT.addr i) + n →
      (s.flag (PMC_SEL.SAT i) = true → (s.addCounter i n).rd64 (PMC_CNT.addr i) = 2 ^ 48 - 1) ∧
      (s.flag (PMC_SEL.SAT i) = false → (s.addCounter i n).rd64 (PMC_CNT.addr i) = (s.rd64 (PMC_CNT.addr i) + n) % 2 ^ 48) ∧
      bitOf ((s.addCounter i n).rd64 PMC_OVF.addr) i = true ∧
      (∀ j, j ≠ i → bitOf ((s.addCounter i n).rd64 PMC_OVF.addr) j = bitOf (s.rd64 PMC_OVF.addr) j) ∧
      ((s.flag (PMC_SEL.IRQ i) = true ∧ bitOf (s.rd64 PMC_OVF.addr) i = false) → (s.addCounter i n).out = .counterOverflow i :: s.out) ∧
      (¬(s.flag (PMC_SEL.IRQ i) = true ∧ bitOf (s.rd64 PMC_OVF.addr) i = false) → (s.addCounter i n).out = s.out))

/-- Outside Dormant: an event whose SOURCE, CODE, REGION and ADDR are those of the newest record, at most 1 ms after that
record's TIME, adds 1 to that record's REPEAT up to 0xFFFF_FFFF; the ring has no new record, nothing is sent, and of
the registers only FLT_COALESCED changes. An event that differs in one of the four, or comes later, makes a new
record. -/
def Obligations.RepeatedFaultsCoalesce : Prop :=
  ∀ (s : State) e old rest, s.power.dormant = false → s.flt.ring = old :: rest →
    ((s.faultRecord e).source = old.source → (s.faultRecord e).code = old.code → (s.faultRecord e).region = old.region →
      (s.faultRecord e).addr = old.addr → (s.faultRecord e).time.toNat - old.time.toNat ≤ 1000000 →
      (s.fault e).flt = { s.flt with ring := { old with rep := min (old.rep + 1) 0xFFFFFFFF } :: rest } ∧ (s.fault e).out = s.out ∧
      (s.fault e).mcp = s.mcp ∧ ∀ a, a ≠ FLT_COALESCED.addr → (s.fault e).reg a = s.reg a) ∧
    ((s.faultRecord e).source ≠ old.source ∨ (s.faultRecord e).code ≠ old.code ∨ (s.faultRecord e).region ≠ old.region ∨
      (s.faultRecord e).addr ≠ old.addr ∨ 1000000 < (s.faultRecord e).time.toNat - old.time.toNat →
      s.fault e = s.newRecord (s.faultRecord e))
end

