-- ==== Sys2Proof/Laws/Mem.lean ====
section
/-! SUPPORT. What the memory's operations do: every one keeps the canonical form, and a byte reads as last stored. -/

set_option Elab.async false

namespace Sys2Proof.Machine

theorem Memory.mem_erase {a : Nat} {c : Host.Cell} {m : List Host.Cell} : c ∈ Memory.erase a m ↔ c ∈ m ∧ c.1 ≠ a := by
  induction m with
  | nil => simp [Memory.erase]
  | cons d ds ih =>
    unfold Memory.erase
    by_cases h : d.1 = a
    · rw [if_pos h, ih]
      constructor
      · exact fun ⟨m, n⟩ => ⟨List.mem_cons_of_mem _ m, n⟩
      · rintro ⟨m, n⟩
        rcases List.mem_cons.1 m with rfl | m
        · exact absurd h n
        · exact ⟨m, n⟩
    · rw [if_neg h, List.mem_cons, ih, List.mem_cons]
      constructor
      · rintro (rfl | ⟨m, n⟩)
        · exact ⟨.inl rfl, h⟩
        · exact ⟨.inr m, n⟩
      · rintro ⟨rfl | m, n⟩
        · exact .inl rfl
        · exact .inr ⟨m, n⟩

theorem Memory.mem_insert {c d : Host.Cell} {m : List Host.Cell} : c ∈ Memory.insert d m ↔ c = d ∨ c ∈ m := by
  induction m with
  | nil => simp [Memory.insert]
  | cons e es ih =>
    unfold Memory.insert
    split
    · simp
    · simp only [List.mem_cons, ih]
      constructor
      · rintro (h | h | h) <;> simp [h]
      · rintro (h | h | h) <;> simp [h]

theorem Memory.erase_rising {a : Nat} {m : List Host.Cell} (h : m.Pairwise (fun c d => c.1 < d.1)) :
    (Memory.erase a m).Pairwise (fun c d => c.1 < d.1) := by
  induction m with
  | nil => simp [Memory.erase]
  | cons d ds ih =>
    rw [List.pairwise_cons] at h
    unfold Memory.erase
    split
    · exact ih h.2
    · exact List.pairwise_cons.2 ⟨fun c m => h.1 c (Memory.mem_erase.1 m).1, ih h.2⟩

theorem Memory.insert_rising {c : Host.Cell} {m : List Host.Cell} (h : m.Pairwise (fun c d => c.1 < d.1))
    (n : ∀ d ∈ m, d.1 ≠ c.1) : (Memory.insert c m).Pairwise (fun c d => c.1 < d.1) := by
  induction m with
  | nil => simp [Memory.insert]
  | cons d ds ih =>
    have h' := h
    rw [List.pairwise_cons] at h
    unfold Memory.insert
    split
    · rename_i lt
      refine List.pairwise_cons.2 ⟨fun e m => ?_, h'⟩
      rcases List.mem_cons.1 m with rfl | m
      · exact lt
      · exact Nat.lt_trans lt (h.1 e m)
    · refine List.pairwise_cons.2 ⟨fun e m => ?_, ih h.2 fun e m => n e (List.mem_cons_of_mem _ m)⟩
      rcases Memory.mem_insert.1 m with rfl | m
      · have := n d (List.mem_cons_self ..)
        omega
      · exact h.1 e m

/-- Storing a byte keeps the canonical form. -/
theorem Memory.set_wf {a : Nat} {b : Byte} {m : List Host.Cell} (h : Memory.wf m) : Memory.wf (Memory.set a b m) := by
  unfold Memory.set
  split
  · exact ⟨Memory.erase_rising h.1, fun c m => h.2 c (Memory.mem_erase.1 m).1⟩
  · rename_i ne
    refine ⟨Memory.insert_rising (Memory.erase_rising h.1) fun d m => (Memory.mem_erase.1 m).2, fun c m => ?_⟩
    rcases Memory.mem_insert.1 m with rfl | m
    · exact ne
    · exact h.2 c (Memory.mem_erase.1 m).1

/-- Storing bytes keeps the canonical form. -/
theorem Memory.setMany_wf {bs : Bytes} : ∀ {a : Nat} {m : List Host.Cell}, Memory.wf m → Memory.wf (Memory.setMany a bs m) := by
  induction bs with
  | nil => exact fun h => h
  | cons b bs ih => exact fun h => ih (Memory.set_wf h)

theorem Memory.get_erase_self {a : Nat} {m : List Host.Cell} : Memory.get a (Memory.erase a m) = Memory.unlisted := by
  induction m with
  | nil => rfl
  | cons d ds ih =>
    unfold Memory.erase
    split
    · exact ih
    · rename_i h
      simp [Memory.get, h, ih]

theorem Memory.get_erase_ne {a b : Nat} {m : List Host.Cell} (h : a ≠ b) : Memory.get a (Memory.erase b m) = Memory.get a m := by
  induction m with
  | nil => rfl
  | cons d ds ih =>
    unfold Memory.erase
    split
    · rename_i e
      have : ¬ d.1 = a := by omega
      simp [Memory.get, this, ih]
    · simp only [Memory.get, ih]

theorem Memory.get_insert_self {c : Host.Cell} {m : List Host.Cell} (n : ∀ d ∈ m, d.1 ≠ c.1) :
    Memory.get c.1 (Memory.insert c m) = c.2 := by
  induction m with
  | nil => simp [Memory.insert, Memory.get]
  | cons d ds ih =>
    have e := n d (List.mem_cons_self ..)
    unfold Memory.insert
    split
    · simp [Memory.get]
    · simp [Memory.get, e, ih fun x m => n x (List.mem_cons_of_mem _ m)]

theorem Memory.get_insert_ne {a : Nat} {c : Host.Cell} {m : List Host.Cell} (h : c.1 ≠ a) :
    Memory.get a (Memory.insert c m) = Memory.get a m := by
  induction m with
  | nil => simp [Memory.insert, Memory.get, h]
  | cons d ds ih =>
    unfold Memory.insert
    split
    · simp [Memory.get, h]
    · simp only [Memory.get, ih]

/-- A byte reads as last stored. -/
@[simp] theorem Memory.get_set_self (a : Nat) (b : Byte) (m : List Host.Cell) : Memory.get a (Memory.set a b m) = b := by
  unfold Memory.set
  split
  · rename_i e
    rw [Memory.get_erase_self, e]
  · exact Memory.get_insert_self (c := (a, b)) fun d m => (Memory.mem_erase.1 m).2

/-- Storing a byte leaves every other as it was. -/
theorem Memory.get_set_ne {a b : Nat} (h : a ≠ b) (v : Byte) (m : List Host.Cell) :
    Memory.get a (Memory.set b v m) = Memory.get a m := by
  unfold Memory.set
  split
  · exact Memory.get_erase_ne h
  · rw [Memory.get_insert_ne (c := (b, v)) (Ne.symm h), Memory.get_erase_ne h]

/-- Storing bytes leaves every byte outside them as it was. -/
theorem Memory.get_setMany_outside {a : Nat} {bs : Bytes} : ∀ {b : Nat} {m : List Host.Cell},
    a < b ∨ b + bs.length ≤ a → Memory.get a (Memory.setMany b bs m) = Memory.get a m := by
  induction bs with
  | nil => exact fun _ => rfl
  | cons v bs ih =>
    intro b m h
    simp only [List.length_cons] at h
    rw [Memory.setMany, ih (by omega), Memory.get_set_ne (by omega)]

end Sys2Proof.Machine
end

