-- ==== Sys2Proof/Laws/RegFile.lean ====
section
/-! SUPPORT. What the register file's operations do: reading what was stored, and the canonical form kept. -/

set_option Elab.async false

namespace Sys2Proof.Machine

theorem RegFile.mem_erase {a : Nat} {c : RegCell} {l : List RegCell} : c ∈ RegFile.erase a l ↔ c ∈ l ∧ c.addr ≠ a := by
  induction l with
  | nil => simp [RegFile.erase]
  | cons d ds ih =>
    unfold RegFile.erase
    by_cases h : d.addr = a
    · rw [if_pos h, ih]
      constructor
      · exact fun ⟨m, n⟩ => ⟨List.mem_cons_of_mem _ m, n⟩
      · rintro ⟨m, n⟩
        rcases List.mem_cons.1 m with rfl | m
        · exact absurd h n
        · exact ⟨m, n⟩
    · rw [if_neg h, List.mem_cons, ih, List.mem_cons]
      constructor
      · rintro (rfl | ⟨m, n⟩)
        · exact ⟨.inl rfl, h⟩
        · exact ⟨.inr m, n⟩
      · rintro ⟨rfl | m, n⟩
        · exact .inl rfl
        · exact .inr ⟨m, n⟩

theorem RegFile.mem_insert {c d : RegCell} {l : List RegCell} : c ∈ RegFile.insert d l ↔ c = d ∨ c ∈ l := by
  induction l with
  | nil => simp [RegFile.insert]
  | cons e es ih =>
    unfold RegFile.insert
    split
    · simp
    · simp only [List.mem_cons, ih]
      constructor
      · rintro (h | h | h) <;> simp [h]
      · rintro (h | h | h) <;> simp [h]

theorem RegFile.erase_rising {a : Nat} {l : List RegCell} (h : l.Pairwise (fun c d => c.addr < d.addr)) :
    (RegFile.erase a l).Pairwise (fun c d => c.addr < d.addr) := by
  induction l with
  | nil => simp [RegFile.erase]
  | cons d ds ih =>
    rw [List.pairwise_cons] at h
    unfold RegFile.erase
    split
    · exact ih h.2
    · exact List.pairwise_cons.2 ⟨fun c m => h.1 c (RegFile.mem_erase.1 m).1, ih h.2⟩

theorem RegFile.insert_rising {c : RegCell} {l : List RegCell} (h : l.Pairwise (fun c d => c.addr < d.addr))
    (n : ∀ d ∈ l, d.addr ≠ c.addr) : (RegFile.insert c l).Pairwise (fun c d => c.addr < d.addr) := by
  induction l with
  | nil => simp [RegFile.insert]
  | cons d ds ih =>
    have h' := h
    rw [List.pairwise_cons] at h
    unfold RegFile.insert
    split
    · rename_i lt
      refine List.pairwise_cons.2 ⟨fun e m => ?_, h'⟩
      rcases List.mem_cons.1 m with rfl | m
      · exact lt
      · exact Nat.lt_trans lt (h.1 e m)
    · rename_i nlt
      refine List.pairwise_cons.2 ⟨fun e m => ?_, ih h.2 fun e m => n e (List.mem_cons_of_mem _ m)⟩
      rcases RegFile.mem_insert.1 m with rfl | m
      · have := n d (List.mem_cons_self ..)
        omega
      · exact h.1 e m

/-- Storing a register keeps the canonical form. -/
theorem RegFile.set_canonical {a : Nat} {v : DWord} {l : List RegCell} (h : RegFile.Canonical l) :
    RegFile.Canonical (RegFile.set a v l) := by
  unfold RegFile.set
  split
  · exact ⟨RegFile.erase_rising h.1, fun c m => h.2 c (RegFile.mem_erase.1 m).1⟩
  · rename_i ne
    refine ⟨RegFile.insert_rising (RegFile.erase_rising h.1) fun d m => (RegFile.mem_erase.1 m).2, fun c m => ?_⟩
    rcases RegFile.mem_insert.1 m with rfl | m
    · exact ne
    · exact h.2 c (RegFile.mem_erase.1 m).1

/-- Leaving registers out keeps the canonical form. -/
theorem RegFile.filter_canonical {p : RegCell → Bool} {l : List RegCell} (h : RegFile.Canonical l) :
    RegFile.Canonical (l.filter p) :=
  ⟨h.1.filter _, fun c m => h.2 c (List.mem_filter.1 m).1⟩

theorem RegFile.find_erase_self {a : Nat} {l : List RegCell} : RegFile.find a (RegFile.erase a l) = none := by
  induction l with
  | nil => rfl
  | cons d ds ih =>
    unfold RegFile.erase
    split
    · exact ih
    · rename_i h
      simp [RegFile.find, h, ih]

theorem RegFile.find_erase_ne {a b : Nat} {l : List RegCell} (h : a ≠ b) : RegFile.find a (RegFile.erase b l) = RegFile.find a l := by
  induction l with
  | nil => rfl
  | cons d ds ih =>
    unfold RegFile.erase
    split
    · rename_i e
      have : ¬ d.addr = a := by omega
      simp [RegFile.find, this, ih]
    · simp only [RegFile.find, ih]

theorem RegFile.find_insert_self {c : RegCell} {l : List RegCell} (n : RegFile.find c.addr l = none) :
    RegFile.find c.addr (RegFile.insert c l) = some c.val := by
  induction l with
  | nil => simp [RegFile.insert, RegFile.find]
  | cons d ds ih =>
    unfold RegFile.insert
    by_cases e : d.addr = c.addr
    · simp [RegFile.find, e] at n
    · rw [RegFile.find, if_neg e] at n
      split
      · simp [RegFile.find]
      · simp [RegFile.find, e, ih n]

theorem RegFile.find_insert_ne {a : Nat} {c : RegCell} {l : List RegCell} (h : c.addr ≠ a) :
    RegFile.find a (RegFile.insert c l) = RegFile.find a l := by
  induction l with
  | nil => simp [RegFile.insert, RegFile.find, h]
  | cons d ds ih =>
    unfold RegFile.insert
    split
    · simp [RegFile.find, h]
    · simp only [RegFile.find, ih]

/-- A register reads as what was last stored in it. -/
@[simp] theorem RegFile.get_set_self (a : Nat) (v : DWord) (l : List RegCell) : RegFile.get a (RegFile.set a v l) = v := by
  unfold RegFile.set
  split
  · rename_i e
    simp [RegFile.get, RegFile.find_erase_self, e]
  · have := RegFile.find_insert_self (c := ⟨a, v⟩) (l := RegFile.erase a l) RegFile.find_erase_self
    simp [RegFile.get, this]

/-- Storing one register leaves every other as it was. -/
theorem RegFile.get_set_ne {a b : Nat} (h : a ≠ b) (v : DWord) (l : List RegCell) :
    RegFile.get a (RegFile.set b v l) = RegFile.get a l := by
  unfold RegFile.set
  split
  · simp [RegFile.get, RegFile.find_erase_ne h]
  · simp [RegFile.get, RegFile.find_insert_ne (c := ⟨b, v⟩) (Ne.symm h), RegFile.find_erase_ne h]

end Sys2Proof.Machine
end

