-- ==== Sys2Proof/Laws/After.lean ====
section
/-! SUPPORT. What every operation on the state may change, and what it keeps: the canonical forms, the queue of waiting commands,
and what has been sent. One lemma an operation, in the files of this folder, each named after its operation. Sets of parts are
numbers here, a bit a part, so that inclusion is computed. -/

set_option Elab.async false

namespace Sys2Proof.Machine

/-- The bit of a block in a set of parts. -/
def blockBit : Block → Nat
  | .sys => 29
  | .clk => 30
  | .meas => 31
  | .qpc => 32
  | .swc => 33
  | .net => 34
  | .qdl => 35
  | .rbd => 36
  | .nrg => 37
  | .vlt => 38
  | .ezl => 39
  | .ltk => 40
  | .slt => 41
  | .dpt => 42
  | .efu => 43
  | .cip => 44
  | .mcp => 45
  | .two => 46
  | .cal => 47
  | .pwr => 48
  | .wfl => 49
  | .clu => 50
  | .ewq => 51
  | .min => 52
  | .flt => 53
  | .pmc => 54

/-- The bit of a part in a set of parts. -/
def partBit : Part → Nat
  | .draws => 0
  | .rwm => 1
  | .hiLatch => 2
  | .lowWord => 3
  | .clock => 4
  | .cfg => 5
  | .flt => 6
  | .mcp => 7
  | .power => 8
  | .host => 9
  | .store => 10
  | .energy => 11
  | .link => 12
  | .rdma => 13
  | .mem => 14
  | .keys => 15
  | .ewq => 16
  | .wall => 17
  | .entry => 18
  | .admin => 19
  | .two => 20
  | .token => 21
  | .slots => 22
  | .caches => 23
  | .direct => 24
  | .switch => 25
  | .gates => 26
  | .integrity => 27
  | .pmc => 28
  | .regs b => blockBit b

/-- The set that holds the block with a number, empty if Table 0.6 has none. -/
def blockMask (n : Nat) : Nat :=
  if n = 0x00 then 0x20000000
  else if n = 0x01 then 0x40000000
  else if n = 0x02 then 0x80000000
  else if n = 0x18 then 0x100000000
  else if n = 0x1c then 0x200000000
  else if 0x10 ≤ n ∧ n < 0x10 + 4 then 0x400000000
  else if n = 0x20 then 0x800000000
  else if n = 0x21 then 0x1000000000
  else if n = 0x04 then 0x2000000000
  else if n = 0x22 then 0x4000000000
  else if n = 0x24 then 0x8000000000
  else if n = 0x25 then 0x10000000000
  else if 0x28 ≤ n ∧ n < 0x28 + 48 then 0x20000000000
  else if n = 0x60 then 0x40000000000
  else if n = 0x03 then 0x80000000000
  else if n = 0x0c then 0x100000000000
  else if n = 0x0d then 0x200000000000
  else if n = 0x0b then 0x400000000000
  else if n = 0x06 then 0x800000000000
  else if n = 0x07 then 0x1000000000000
  else if n = 0x05 then 0x2000000000000
  else if 0x70 ≤ n ∧ n < 0x70 + 8 then 0x4000000000000
  else if n = 0x78 then 0x8000000000000
  else if n = 0x08 then 0x10000000000000
  else if n = 0x09 then 0x20000000000000
  else if n = 0x0a then 0x40000000000000
  else 0

/-- The set that holds the block of a register's address. -/
def regMask (a : Nat) : Nat := match blockNumber a with | some n => blockMask n | none => 0

/-- Every part of the set `m` is one of the set `t`. -/
@[irreducible] def Within (m t : Nat) : Prop := m &&& t = m

/-- The set holds the block of the register at `a`. -/
@[irreducible] def RegIn (a T : Nat) : Prop := Within (regMask a) T

theorem Within.mono {a m t : Nat} (h : Within m t) (e : a &&& m = a) : Within a t := by
  unfold Within at *
  rw [← e, Nat.and_assoc, h]

theorem Within.bit {m t i : Nat} (h : Within m t) (e : m.testBit i = true) : t.testBit i = true := by
  unfold Within at h
  have : (m &&& t).testBit i = true := by rw [h]; exact e
  rw [Nat.testBit_and, Bool.and_eq_true] at this
  exact this.2

theorem blockMask_all : ∀ j < 48, ∀ b : Block, j < b.first.2 → (blockMask (b.first.1 + j)).testBit (blockBit b) = true := by
  intro j h b
  cases b <;> revert j <;> decide

theorem blockMask_bit {b : Block} {n : Nat} (h : b.first.1 ≤ n) (g : n < b.first.1 + b.first.2) :
    (blockMask n).testBit (blockBit b) = true := by
  have k := blockMask_all (n - b.first.1) (by cases b <;> simp only [Block.first] at h g ⊢ <;> omega) b (by omega)
  rwa [Nat.add_sub_cancel' h] at k

/-- An address outside the blocks of the set. -/
theorem regMask_bit {a n T : Nat} {b : Block} (r : RegIn a T) (e : T.testBit (blockBit b) = false)
    (k : blockNumber a = some n) : ¬(b.first.1 ≤ n ∧ n < b.first.1 + b.first.2) := fun g => by
  have : (regMask a).testBit (blockBit b) = true := by
    unfold regMask
    rw [k]
    exact blockMask_bit g.1 g.2
  unfold RegIn at r
  rw [Within.bit r this] at e
  cases e

theorem blockNumber_blockAddr {n off : Nat} (h : n < 256) : blockNumber (blockAddr n off) = some n := by
  have := Nat.mod_lt off (y := 0x10000) (by decide)
  unfold blockNumber blockAddr
  rw [if_pos (by omega)]
  congr 1
  omega

/-- A register of one block is in a set that holds the block. -/
theorem RegIn.block {n off m T : Nat} (h : Within m T) (k : n < 256) (e : blockMask n &&& m = blockMask n) :
    RegIn (blockAddr n off) T := by
  unfold RegIn regMask
  rw [blockNumber_blockAddr k]
  exact h.mono e

theorem blockMask_net {k m : Nat} (e : 0x400000000 &&& m = 0x400000000) :
    blockMask (0x10 + k % 4) &&& m = blockMask (0x10 + k % 4) := by
  have g := Nat.mod_lt k (y := 4) (by decide)
  have all : ∀ j < 4, blockMask (0x10 + j) = 0x400000000 := by decide
  rw [all _ g]
  exact e

theorem blockMask_slt {k m : Nat} (e : 0x20000000000 &&& m = 0x20000000000) :
    blockMask (0x28 + k % 48) &&& m = blockMask (0x28 + k % 48) := by
  have g := Nat.mod_lt k (y := 48) (by decide)
  have all : ∀ j < 48, blockMask (0x28 + j) = 0x20000000000 := by decide
  rw [all _ g]
  exact e

theorem blockMask_clu {k m : Nat} (e : 0x4000000000000 &&& m = 0x4000000000000) :
    blockMask (0x70 + k % 8) &&& m = blockMask (0x70 + k % 8) := by
  have g := Nat.mod_lt k (y := 8) (by decide)
  have all : ∀ j < 8, blockMask (0x70 + j) = 0x4000000000000 := by decide
  rw [all _ g]
  exact e

/-- A register outside the Wallflower's block. -/
theorem NotWall {n off : Nat} {P : Prop} (k : n < 256) (h : n ≠ 5) : blockNumber (blockAddr n off) = some 5 → P := fun e => by
  rw [blockNumber_blockAddr k] at e
  injection e with e
  exact absurd e h

theorem NotWall.word {n off i : Nat} {P : Prop} (g : off % 0x10000 + i < 0x10000) (k : n < 256) (h : n ≠ 5) :
    blockNumber (blockAddr n off + i) = some 5 → P := fun e => by
  have q : blockAddr n off + i = blockAddr n (off % 0x10000 + i) := by unfold blockAddr; omega
  exact NotWall k h (q ▸ e)

/-- A word within the block of a register. -/
theorem RegIn.word {n off i m T : Nat} (g : off % 0x10000 + i < 0x10000) (h : Within m T) (k : n < 256)
    (e : blockMask n &&& m = blockMask n) : RegIn (blockAddr n off + i) T := by
  have q : blockAddr n off + i = blockAddr n (off % 0x10000 + i) := by unfold blockAddr; omega
  rw [q]
  exact RegIn.block h k e

/-- Every register is of a block of a set that holds them all. -/
theorem RegIn.all {a m T : Nat} (h : Within m T) (e : 0x7fffffe0000000 &&& m = 0x7fffffe0000000) : RegIn a T := by
  have k : ∀ n, blockMask n &&& 0x7fffffe0000000 = blockMask n := fun n => by
    have ite : ∀ (c : Prop) [Decidable c] (x y : Nat), x &&& 0x7fffffe0000000 = x → y &&& 0x7fffffe0000000 = y →
        (if c then x else y) &&& 0x7fffffe0000000 = if c then x else y := fun _ _ _ _ h g => by split <;> assumption
    exact ite _ _ _ rfl (ite _ _ _ rfl (ite _ _ _ rfl (ite _ _ _ rfl (ite _ _ _ rfl (ite _ _ _ rfl (ite _ _ _ rfl (ite _ _ _ rfl (ite _ _ _ rfl (ite _ _ _ rfl (ite _ _ _ rfl (ite _ _ _ rfl (ite _ _ _ rfl (ite _ _ _ rfl (ite _ _ _ rfl (ite _ _ _ rfl (ite _ _ _ rfl (ite _ _ _ rfl (ite _ _ _ rfl (ite _ _ _ rfl (ite _ _ _ rfl (ite _ _ _ rfl (ite _ _ _ rfl (ite _ _ _ rfl (ite _ _ _ rfl (ite _ _ _ rfl (rfl))))))))))))))))))))))))))
  unfold RegIn regMask
  split
  · exact (h.mono e).mono (k _)
  · unfold Within
    exact Nat.zero_and T

/-- Every part that is not in the set `T` is the same. -/
def Part.sameOut (T : Nat) (b s : State) : Prop := ∀ p : Part, T.testBit (partBit p) = false → p.same b s

theorem Part.same_refl (p : Part) (s : State) : p.same s s := by
  cases p <;> first | rfl | exact fun _ => rfl | exact fun _ _ _ _ _ => rfl

theorem Part.same_trans {p : Part} {a b c : State} (h : p.same a b) (g : p.same b c) : p.same a c := by
  cases p <;> first
    | exact Eq.trans g h
    | exact fun x => (g x).trans (h x)
    | exact fun x n i j k => (g x n i j k).trans (h x n i j k)

theorem Part.same_onOut {p : Part} {a s : State} {f : List Output → List Output} (h : p.same a s) : p.same a (s.onOut f) := by
  cases p <;> exact h

theorem Part.same_offOut {p : Part} {a s : State} {f : List Output → List Output} (h : p.same (a.onOut f) s) : p.same a s := by
  cases p <;> exact h

/-- `s` comes after `b`: canonical if `b` was, with `b`'s queue, with all that `b` had sent, and different from `b` in parts of
the set `T` only. -/
def After (T : Nat) (b s : State) : Prop :=
  (b.Canonical → s.Canonical) ∧ s.pending = b.pending ∧ (∃ l, s.out = l ++ b.out) ∧ Part.sameOut T b s

theorem After.refl {T : Nat} (s : State) : After T s s := ⟨id, rfl, ⟨[], rfl⟩, fun p _ => Part.same_refl p s⟩

theorem After.trans {T : Nat} {a b c : State} (h : After T a b) (g : After T b c) : After T a c := by
  obtain ⟨h1, h2, ⟨l, h3⟩, h4⟩ := h
  obtain ⟨g1, g2, ⟨k, g3⟩, g4⟩ := g
  exact ⟨g1 ∘ h1, g2.trans h2, ⟨k ++ l, by rw [g3, h3, List.append_assoc]⟩, fun p e => Part.same_trans (h4 p e) (g4 p e)⟩

/-- Nothing of the registers, the memory, the queue and the outputs has changed, and of the other parts only those of `T`. -/
theorem After.same {T : Nat} {b s t : State} (h : After T b s) (r : t.regs = s.regs) (m : t.mem = s.mem)
    (p : t.pending = s.pending) (o : t.out = s.out) (q : Part.sameOut T s t) : After T b t := by
  obtain ⟨h1, h2, ⟨l, h3⟩, h4⟩ := h
  refine ⟨fun c => ?_, p.trans h2, ⟨l, o.trans h3⟩, fun p e => Part.same_trans (h4 p e) (q p e)⟩
  have := h1 c
  exact ⟨r ▸ this.1, m ▸ this.2⟩

/-- One part of the set has changed. -/
theorem After.field {T : Nat} {b s t : State} (q : Part) (ht : Within (2 ^ partBit q) T) (h : After T b s) (r : t.regs = s.regs)
    (m : t.mem = s.mem) (p : t.pending = s.pending) (o : t.out = s.out) (k : ∀ x, x ≠ q → x.same s t) : After T b t :=
  h.same r m p o fun x e => k x fun g => by
    subst g
    rw [ht.bit Nat.testBit_two_pow_self] at e
    cases e

theorem After.ite {T : Nat} {b x y : State} {c : Prop} [Decidable c] (hx : After T b x) (hy : After T b y) : After T b (if c then x else y) := by
  split <;> assumption

theorem After.letState {T : Nat} {b e : State} {f : State → State} (he : After T b e) (hf : ∀ s, After T b s → After T b (f s)) :
    After T b (let s := e; f s) := hf e he

theorem After.fold {α : Type} {T : Nat} {b s : State} {f : State → α → State} {l : List α} (h : After T b s)
    (hf : ∀ s a, After T b s → After T b (f s a)) : After T b (l.foldl f s) := by
  induction l generalizing s with
  | nil => exact h
  | cons a l ih => exact ih (hf s a h)

/-- The registers of a list of writes are of blocks of the set. -/
def FieldsIn (T : Nat) (l : List (Fld × Nat)) : Prop := ∀ x ∈ l, RegIn x.1.addr T

theorem FieldsIn.nil {T : Nat} : FieldsIn T [] := fun _ h => nomatch h

theorem FieldsIn.cons {T v : Nat} {f : Fld} {l : List (Fld × Nat)} (h : RegIn f.addr T) (g : FieldsIn T l) :
    FieldsIn T ((f, v) :: l) := fun x m => by
  cases m with
  | head => exact h
  | tail _ m => exact g x m

/-- What an outcome leads to, where it is a next state. -/
def AfterOut (T : Nat) (b : State) (o : Host.Outcome State Fault Refusal) : Prop := ∀ t, o = .next t → After T b t

/-- What an optional state is, where there is one. -/
def AfterOpt (T : Nat) (b : State) (o : Option State) : Prop := ∀ t, o = some t → After T b t

theorem AfterOut.ofNext {T : Nat} {b s : State} (h : After T b s) : AfterOut T b (.next s) := by
  intro t e
  injection e with e
  exact e ▸ h

theorem AfterOpt.ofSome {T : Nat} {b s : State} (h : After T b s) : AfterOpt T b (some s) := by
  intro t e
  injection e with e
  exact e ▸ h

theorem AfterOpt.ofNone {T : Nat} {b : State} : AfterOpt T b none := fun _ e => nomatch e

theorem After.ofOpt {T : Nat} {b t : State} {o : Option State} (e : o = some t) (h : AfterOpt T b o) : After T b t := h t e

theorem After.ofPair {α : Type} {T : Nat} {b t : State} {a : α} {e : α × State} (q : e = (a, t)) (h : After T b e.2) : After T b t := by
  rw [q] at h
  exact h

theorem After.ofTriple {α β : Type} {T : Nat} {b t : State} {x : α} {y : β} {e : α × β × State} (q : e = (x, y, t)) (h : After T b e.2.2) :
    After T b t := by
  rw [q] at h
  exact h

theorem RegFile.find_filter {a : Nat} {p : RegCell → Bool} {l : List RegCell} (h : ∀ c : RegCell, c.addr = a → p c = true) :
    RegFile.find a (l.filter p) = RegFile.find a l := by
  induction l with
  | nil => rfl
  | cons c l ih =>
    by_cases e : c.addr = a
    · rw [List.filter_cons_of_pos (h c e)]
      simp [RegFile.find, e]
    · cases g : p c
      · rw [List.filter_cons_of_neg (by simp [g]), ih]
        simp [RegFile.find, e]
      · rw [List.filter_cons_of_pos g]
        simp [RegFile.find, e, ih]

/-- Registers of blocks of the set may be left out. -/
theorem After.filterRegs {T : Nat} {b s : State} (p : RegCell → Bool) (k : ∀ c, p c = false → RegIn c.addr T)
    (h : After T b s) : After T b (s.onRegs fun l => l.filter p) := by
  obtain ⟨c, q, l, o⟩ := h
  refine ⟨fun k => ⟨RegFile.filter_canonical (c k).1, (c k).2⟩, q, l, fun x e => Part.same_trans (o x e) ?_⟩
  cases x <;> first | rfl | exact fun _ => rfl | skip
  rename_i x
  intro a n i j g
  show RegFile.get a (s.regs.filter p) = RegFile.get a s.regs
  unfold RegFile.get
  rw [RegFile.find_filter fun d hd => by
    cases y : p d
    · exact absurd ⟨j, g⟩ (regMask_bit (hd ▸ k d y) e i)
    · rfl]

/-- What the state in an optional result is, where there is one. -/
def AfterSome {α : Type} (T : Nat) (b : State) (f : α → State) (o : Option α) : Prop := ∀ v, o = some v → After T b (f v)

/-- What the state in a result is, where it is no error. -/
def AfterEx {ε α : Type} (T : Nat) (b : State) (f : α → State) (e : Except ε α) : Prop := ∀ v, e = .ok v → After T b (f v)

theorem AfterSome.ofSome {α : Type} {T : Nat} {b : State} {f : α → State} {v : α} (h : After T b (f v)) : AfterSome T b f (some v) := by
  intro w e
  injection e with e
  exact e ▸ h

theorem AfterSome.ofNone {α : Type} {T : Nat} {b : State} {f : α → State} : AfterSome T b f none := fun _ e => nomatch e

theorem AfterEx.ofOk {ε α : Type} {T : Nat} {b : State} {f : α → State} {v : α} (h : After T b (f v)) :
    AfterEx (ε := ε) T b f (.ok v) := by
  intro w e
  injection e with e
  exact e ▸ h

theorem AfterEx.ofError {ε α : Type} {T : Nat} {b : State} {f : α → State} {x : ε} : AfterEx T b f (.error x) := fun _ e => nomatch e

theorem After.ofSealed {α β : Type} {T : Nat} {b t : State} {x : α} {y : β} {o : Option (α × β × State)} (q : o = some (x, y, t))
    (h : AfterSome T b (fun v => v.2.2) o) : After T b t := h _ q

theorem After.ofOkPair {ε α : Type} {T : Nat} {b t : State} {x : α} {e : Except ε (α × State)} (q : e = .ok (x, t))
    (h : AfterEx T b (fun v => v.2) e) : After T b t := h _ q

theorem After.ofOk {ε : Type} {T : Nat} {b t : State} {e : Except ε State} (q : e = .ok t) (h : AfterEx T b (fun v => v) e) : After T b t := h _ q

/-- What a routed command leads to, where a write starts one. -/
def AfterRoute (T : Nat) (b : State) (r : Option (Host.Outcome State Fault Refusal)) : Prop := ∀ o, r = some o → AfterOut T b o

theorem AfterRoute.ofSome {T : Nat} {b : State} {o : Host.Outcome State Fault Refusal} (h : AfterOut T b o) : AfterRoute T b (some o) := by
  intro p e
  injection e with e
  exact e ▸ h

theorem AfterRoute.ofNone {T : Nat} {b : State} : AfterRoute T b none := fun _ e => nomatch e

theorem AfterRoute.or {T : Nat} {b : State} {r q : Option (Host.Outcome State Fault Refusal)} (h : AfterRoute T b r) (g : AfterRoute T b q) :
    AfterRoute T b (r.or q) := by
  cases r with
  | none => exact g
  | some o => exact h

/-- A state that has sent nothing leads on to one whose outputs, filtered, go on top of what was sent before. -/
theorem After.quiet {T : Nat} {b s t : State} (h : After T b s) (g : After T (s.onOut fun _ => []) t) (p : Output → Bool) :
    After T b (t.onOut fun l => l.filter p ++ s.out) := by
  obtain ⟨h1, h2, ⟨l, h3⟩, h4⟩ := h
  obtain ⟨g1, g2, _, g4⟩ := g
  exact ⟨fun c => g1 (h1 c), g2.trans h2, ⟨t.out.filter p ++ l, by
    show t.out.filter p ++ s.out = _
    rw [h3, List.append_assoc]⟩, fun x e => Part.same_trans (h4 x e) (Part.same_onOut (Part.same_offOut (g4 x e)))⟩

theorem AfterRoute.ite {T : Nat} {b : State} {c : Prop} [Decidable c] {x y : Option (Host.Outcome State Fault Refusal)}
    (hx : AfterRoute T b x) (hy : AfterRoute T b y) : AfterRoute T b (if c then x else y) := by
  split <;> assumption

end Sys2Proof.Machine
end

