-- ==== Sys2Proof/Laws/After/Updates.lean ====
section
/-! SUPPORT. What the operations of Updates keep (Laws/After.lean). -/

set_option Elab.async false

namespace Sys2Proof.Machine

theorem State.onStore_after {b T} (x0) (x1) (ht : Within 0x400 T) (h1 : After T b x0) :
    After T b (@State.onStore x0 x1) :=
  After.field .store ht h1 rfl rfl rfl rfl fun x k => by cases x <;> first | exact absurd rfl k | rfl | exact fun _ _ _ _ _ => rfl | exact fun _ => rfl

theorem State.onWall_after {b T} (x0) (x1) (ht : Within 0x20000 T) (h1 : After T b x0) :
    After T b (@State.onWall x0 x1) :=
  After.field .wall ht h1 rfl rfl rfl rfl fun x k => by cases x <;> first | exact absurd rfl k | rfl | exact fun _ _ _ _ _ => rfl | exact fun _ => rfl

theorem State.onEntry_after {b T} (x0) (x1) (ht : Within 0x40000 T) (h1 : After T b x0) :
    After T b (@State.onEntry x0 x1) :=
  After.field .entry ht h1 rfl rfl rfl rfl fun x k => by cases x <;> first | exact absurd rfl k | rfl | exact fun _ _ _ _ _ => rfl | exact fun _ => rfl

theorem State.onCfg_after {b T} (x0) (x1) (ht : Within 0x20 T) (h1 : After T b x0) :
    After T b (@State.onCfg x0 x1) :=
  After.field .cfg ht h1 rfl rfl rfl rfl fun x k => by cases x <;> first | exact absurd rfl k | rfl | exact fun _ _ _ _ _ => rfl | exact fun _ => rfl

theorem State.onHost_after {b T} (x0) (x1) (ht : Within 0x200 T) (h1 : After T b x0) :
    After T b (@State.onHost x0 x1) :=
  After.field .host ht h1 rfl rfl rfl rfl fun x k => by cases x <;> first | exact absurd rfl k | rfl | exact fun _ _ _ _ _ => rfl | exact fun _ => rfl

theorem State.onEnergy_after {b T} (x0) (x1) (ht : Within 0x800 T) (h1 : After T b x0) :
    After T b (@State.onEnergy x0 x1) :=
  After.field .energy ht h1 rfl rfl rfl rfl fun x k => by cases x <;> first | exact absurd rfl k | rfl | exact fun _ _ _ _ _ => rfl | exact fun _ => rfl

theorem State.onHiLatch_after {b T} (x0) (x1) (ht : Within 0x4 T) (h1 : After T b x0) :
    After T b (@State.onHiLatch x0 x1) :=
  After.field .hiLatch ht h1 rfl rfl rfl rfl fun x k => by cases x <;> first | exact absurd rfl k | rfl | exact fun _ _ _ _ _ => rfl | exact fun _ => rfl

theorem State.onCaches_after {b T} (x0) (x1) (ht : Within 0x800000 T) (h1 : After T b x0) :
    After T b (@State.onCaches x0 x1) :=
  After.field .caches ht h1 rfl rfl rfl rfl fun x k => by cases x <;> first | exact absurd rfl k | rfl | exact fun _ _ _ _ _ => rfl | exact fun _ => rfl

theorem State.onDirect_after {b T} (x0) (x1) (ht : Within 0x1000000 T) (h1 : After T b x0) :
    After T b (@State.onDirect x0 x1) :=
  After.field .direct ht h1 rfl rfl rfl rfl fun x k => by cases x <;> first | exact absurd rfl k | rfl | exact fun _ _ _ _ _ => rfl | exact fun _ => rfl

theorem State.onLowWord_after {b T} (x0) (x1) (ht : Within 0x8 T) (h1 : After T b x0) :
    After T b (@State.onLowWord x0 x1) :=
  After.field .lowWord ht h1 rfl rfl rfl rfl fun x k => by cases x <;> first | exact absurd rfl k | rfl | exact fun _ _ _ _ _ => rfl | exact fun _ => rfl

theorem State.onEwq_after {b T} (x0) (x1) (ht : Within 0x10000 T) (h1 : After T b x0) :
    After T b (@State.onEwq x0 x1) :=
  After.field .ewq ht h1 rfl rfl rfl rfl fun x k => by cases x <;> first | exact absurd rfl k | rfl | exact fun _ _ _ _ _ => rfl | exact fun _ => rfl

theorem State.onDraws_after {b T} (x0) (x1) (ht : Within 0x1 T) (h1 : After T b x0) :
    After T b (@State.onDraws x0 x1) :=
  After.field .draws ht h1 rfl rfl rfl rfl fun x k => by cases x <;> first | exact absurd rfl k | rfl | exact fun _ _ _ _ _ => rfl | exact fun _ => rfl

theorem State.onTwo_after {b T} (x0) (x1) (ht : Within 0x100000 T) (h1 : After T b x0) :
    After T b (@State.onTwo x0 x1) :=
  After.field .two ht h1 rfl rfl rfl rfl fun x k => by cases x <;> first | exact absurd rfl k | rfl | exact fun _ _ _ _ _ => rfl | exact fun _ => rfl

theorem State.onClock_after {b T} (x0) (x1) (ht : Within 0x10 T) (h1 : After T b x0) :
    After T b (@State.onClock x0 x1) :=
  After.field .clock ht h1 rfl rfl rfl rfl fun x k => by cases x <;> first | exact absurd rfl k | rfl | exact fun _ _ _ _ _ => rfl | exact fun _ => rfl

theorem State.onMcp_after {b T} (x0) (x1) (ht : Within 0x80 T) (h1 : After T b x0) :
    After T b (@State.onMcp x0 x1) :=
  After.field .mcp ht h1 rfl rfl rfl rfl fun x k => by cases x <;> first | exact absurd rfl k | rfl | exact fun _ _ _ _ _ => rfl | exact fun _ => rfl

theorem State.onIntegrity_after {b T} (x0) (x1) (ht : Within 0x8000000 T) (h1 : After T b x0) :
    After T b (@State.onIntegrity x0 x1) :=
  After.field .integrity ht h1 rfl rfl rfl rfl fun x k => by cases x <;> first | exact absurd rfl k | rfl | exact fun _ _ _ _ _ => rfl | exact fun _ => rfl

theorem State.onRdma_after {b T} (x0) (x1) (ht : Within 0x2000 T) (h1 : After T b x0) :
    After T b (@State.onRdma x0 x1) :=
  After.field .rdma ht h1 rfl rfl rfl rfl fun x k => by cases x <;> first | exact absurd rfl k | rfl | exact fun _ _ _ _ _ => rfl | exact fun _ => rfl

theorem State.onToken_after {b T} (x0) (x1) (ht : Within 0x200000 T) (h1 : After T b x0) :
    After T b (@State.onToken x0 x1) :=
  After.field .token ht h1 rfl rfl rfl rfl fun x k => by cases x <;> first | exact absurd rfl k | rfl | exact fun _ _ _ _ _ => rfl | exact fun _ => rfl

theorem State.onLink_after {b T} (x0) (x1) (ht : Within 0x1000 T) (h1 : After T b x0) :
    After T b (@State.onLink x0 x1) :=
  After.field .link ht h1 rfl rfl rfl rfl fun x k => by cases x <;> first | exact absurd rfl k | rfl | exact fun _ _ _ _ _ => rfl | exact fun _ => rfl

theorem State.onSwitch_after {b T} (x0) (x1) (ht : Within 0x2000000 T) (h1 : After T b x0) :
    After T b (@State.onSwitch x0 x1) :=
  After.field .switch ht h1 rfl rfl rfl rfl fun x k => by cases x <;> first | exact absurd rfl k | rfl | exact fun _ _ _ _ _ => rfl | exact fun _ => rfl

theorem State.onAdmin_after {b T} (x0) (x1) (ht : Within 0x80000 T) (h1 : After T b x0) :
    After T b (@State.onAdmin x0 x1) :=
  After.field .admin ht h1 rfl rfl rfl rfl fun x k => by cases x <;> first | exact absurd rfl k | rfl | exact fun _ _ _ _ _ => rfl | exact fun _ => rfl

theorem State.onPower_after {b T} (x0) (x1) (ht : Within 0x100 T) (h1 : After T b x0) :
    After T b (@State.onPower x0 x1) :=
  After.field .power ht h1 rfl rfl rfl rfl fun x k => by cases x <;> first | exact absurd rfl k | rfl | exact fun _ _ _ _ _ => rfl | exact fun _ => rfl

theorem State.onPmc_after {b T} (x0) (x1) (ht : Within 0x10000000 T) (h1 : After T b x0) :
    After T b (@State.onPmc x0 x1) :=
  After.field .pmc ht h1 rfl rfl rfl rfl fun x k => by cases x <;> first | exact absurd rfl k | rfl | exact fun _ _ _ _ _ => rfl | exact fun _ => rfl

theorem State.onRwm_after {b T} (x0) (x1) (ht : Within 0x2 T) (h1 : After T b x0) :
    After T b (@State.onRwm x0 x1) :=
  After.field .rwm ht h1 rfl rfl rfl rfl fun x k => by cases x <;> first | exact absurd rfl k | rfl | exact fun _ _ _ _ _ => rfl | exact fun _ => rfl

theorem State.onSlots_after {b T} (x0) (x1) (ht : Within 0x400000 T) (h1 : After T b x0) :
    After T b (@State.onSlots x0 x1) :=
  After.field .slots ht h1 rfl rfl rfl rfl fun x k => by cases x <;> first | exact absurd rfl k | rfl | exact fun _ _ _ _ _ => rfl | exact fun _ => rfl

theorem State.onFlt_after {b T} (x0) (x1) (ht : Within 0x40 T) (h1 : After T b x0) :
    After T b (@State.onFlt x0 x1) :=
  After.field .flt ht h1 rfl rfl rfl rfl fun x k => by cases x <;> first | exact absurd rfl k | rfl | exact fun _ _ _ _ _ => rfl | exact fun _ => rfl

theorem State.onKeys_after {b T} (x0) (x1) (ht : Within 0x8000 T) (h1 : After T b x0) :
    After T b (@State.onKeys x0 x1) :=
  After.field .keys ht h1 rfl rfl rfl rfl fun x k => by cases x <;> first | exact absurd rfl k | rfl | exact fun _ _ _ _ _ => rfl | exact fun _ => rfl

theorem State.onGates_after {b T} (x0) (x1) (ht : Within 0x4000000 T) (h1 : After T b x0) :
    After T b (@State.onGates x0 x1) :=
  After.field .gates ht h1 rfl rfl rfl rfl fun x k => by cases x <;> first | exact absurd rfl k | rfl | exact fun _ _ _ _ _ => rfl | exact fun _ => rfl

end Sys2Proof.Machine
end

