-- ==== Sys2Proof/Laws/After/Access.lean ====
section
/-! SUPPORT. What the operations of Access keep (Laws/After.lean). -/

set_option Elab.async false
set_option linter.all false

namespace Sys2Proof.Machine

theorem State.setReg_after {b T} (x0) (x1) (x2) (hr : RegIn x1 T) (h1 : After T b x0) : After T b (@State.setReg x0 x1 x2) := by
  obtain ⟨c, p, l, o⟩ := h1
  refine ⟨fun k => ⟨RegFile.set_canonical (c k).1, (c k).2⟩, p, l, fun x e => Part.same_trans (o x e) ?_⟩
  cases x <;> first | rfl | exact fun _ => rfl | skip
  rename_i x
  exact fun a n i j g => RegFile.get_set_ne (fun y => regMask_bit hr e (y ▸ i) ⟨j, g⟩) _ _

theorem State.wr_after {b T} (x0) (x1) (x2) (hr : RegIn x1.addr T) (h1 : After T b x0) : After T b (@State.wr x0 x1 x2) :=
  State.setReg_after _ _ _ hr h1

theorem State.count_after {b T} (x0) (x1) (x2) (hr : RegIn x1 T) (h1 : After T b x0) : After T b (@State.count x0 x1 x2) :=
  State.setReg_after _ _ _ hr h1

theorem State.wrs_after {b T} (x0) (x1) (hr : FieldsIn T x1) (h1 : After T b x0) : After T b (@State.wrs x0 x1) := by
  induction x1 generalizing x0 with
  | nil => exact h1
  | cons c l ih =>
    exact ih _ (fun x m => hr x (List.mem_cons_of_mem _ m)) (State.wr_after _ _ _ (hr c List.mem_cons_self) h1)

theorem State.emit_after {b T} (x0) (x1) (h1 : After T b x0) : After T b (@State.emit x0 x1) := by
  obtain ⟨c, p, ⟨l, o⟩, q⟩ := h1
  exact ⟨fun k => c k, p, ⟨x1 :: l, by simp [State.emit, State.onOut, o]⟩, fun x e => Part.same_onOut (q x e)⟩

theorem State.emits_after {b T} (x0) (x1) (h1 : After T b x0) : After T b (@State.emits x0 x1) := by
  obtain ⟨c, p, ⟨l, o⟩, q⟩ := h1
  exact ⟨fun k => c k, p, ⟨x1.reverse ++ l, by simp [State.emits, State.onOut, o]⟩, fun x e => Part.same_onOut (q x e)⟩

theorem State.draw_after {b T} (x0) (ht : Within 0x1 T) (h1 : After T b x0) :
    After T b (Prod.snd ((@State.draw x0))) := by
  unfold State.draw
  try dsimp only
  repeat' first
    | with_reducible assumption
    | with_reducible apply State.onDraws_after

theorem State.drawMany_after {b T} (x0) (x1) (ht : Within 0x1 T) (h1 : After T b x0) :
    After T b (Prod.snd (@State.drawMany x0 x1)) := by
  unfold State.drawMany
  try dsimp only
  repeat' first
    | with_reducible assumption
    | with_reducible apply State.onDraws_after
    | with_reducible exact Within.mono ht rfl
    | exact RegIn.block ht (by decide) rfl
    | with_reducible apply AfterRoute.ite
    | split
    | (with_reducible intro _)
    | with_reducible apply AfterOut.ofNext
    | with_reducible apply AfterOpt.ofSome
    | with_reducible exact AfterOpt.ofNone
    | (with_reducible refine After.ofPair (by assumption) ?_)
    | (with_reducible refine After.ofTriple (by assumption) ?_)
    | (with_reducible refine After.ofOpt (by assumption) ?_)
    | with_reducible apply AfterSome.ofSome
    | with_reducible apply AfterRoute.ofSome
    | with_reducible exact AfterRoute.ofNone
    | with_reducible exact AfterSome.ofNone
    | with_reducible apply AfterEx.ofOk
    | with_reducible exact AfterEx.ofError
    | (with_reducible refine After.ofSealed (by assumption) ?_)
    | (with_reducible refine After.ofOkPair (by assumption) ?_)
    | (with_reducible refine After.ofOk (by assumption) ?_)
    | with_reducible apply After.fold

theorem State.random_after {b T} (x0) (x1) (ht : Within 0x1 T) (h1 : After T b x0) :
    After T b (Prod.snd ((@State.random x0 x1))) := by
  unfold State.random
  try dsimp only
  repeat' first
    | with_reducible assumption
    | with_reducible apply State.onDraws_after

theorem State.when_after {b T} (x0) (x1) (x2) (h1 : After T b x0) (h3 : ∀ y0, After T b y0 → After T b (x2 y0)) :
    After T b (@State.when x0 x1 x2) := by
  unfold State.when
  try dsimp only
  repeat' first
    | with_reducible assumption
    | with_reducible apply h3
    | with_reducible apply AfterRoute.ite
    | split

theorem State.each_after {b T} (α) (x0) (l : List α) (f) (h : After T b x0) (hf : ∀ a s, After T b s → After T b (f a s)) :
    After T b (@State.each α x0 l f) := by
  induction l generalizing x0 with
  | nil => exact h
  | cons a l ih => exact ih _ (hf a x0 h)

theorem onSoc_after {b T} (x0) (x1) (h1 : After T b x0) (h2 : ∀ y0, After T b y0 → After T b (x1 y0)) :
    AfterOut T b ((@onSoc x0 x1)) := by
  exact AfterOut.ofNext (After.ite (h2 _ h1) h1)

theorem onAlways_after {b T} (x0) (x1) (h1 : After T b x0) (h2 : ∀ y0, After T b y0 → After T b (x1 y0)) :
    AfterOut T b ((@onAlways x0 x1)) := by
  exact AfterOut.ofNext (h2 _ h1)

end Sys2Proof.Machine
end

