-- ==== Sys2Proof/Laws/After/Counters.lean ====
section
/-! SUPPORT. What the operations of Counters keep (Laws/After.lean). -/

set_option Elab.async false
set_option linter.all false

namespace Sys2Proof.Machine

theorem State.addCounter_after {b T} (x0) (x1) (x2) (ht : Within 0x40000000000000 T) (h1 : After T b x0) :
    After T b (@State.addCounter x0 x1 x2) := by
  unfold State.addCounter
  try dsimp only
  repeat' first
    | with_reducible assumption
    | with_reducible apply State.setReg_after
    | with_reducible apply State.emit_after
    | with_reducible exact Within.mono ht rfl
    | exact RegIn.block ht (by decide) rfl
    | with_reducible apply AfterRoute.ite
    | split

theorem State.event_after {b T} (x0) (x1) (x2) (x3) (ht : Within 0x40000000000000 T) (h1 : After T b x0) :
    After T b (@State.event x0 x1 x2 x3) := by
  unfold State.event
  try dsimp only
  repeat' first
    | with_reducible assumption
    | with_reducible apply State.each_after
    | with_reducible apply State.addCounter_after
    | with_reducible exact Within.mono ht rfl
    | with_reducible apply AfterRoute.ite
    | split
    | (with_reducible intro _)

theorem State.began_after {b T} (x0) (x1) (x2) (x3) (ht : Within 0x40000000000000 T) (h1 : After T b x0) :
    After T b (@State.began x0 x1 x2 x3) := by
  unfold State.began
  try dsimp only
  repeat' first
    | with_reducible assumption
    | with_reducible apply State.event_after
    | with_reducible exact Within.mono ht rfl
    | with_reducible apply AfterRoute.ite
    | split

theorem State.levelCycles_after {b T} (x0) (x1) (ht : Within 0x40000000000000 T) (h1 : After T b x0) :
    After T b (@State.levelCycles x0 x1) := by
  unfold State.levelCycles
  try dsimp only
  repeat' first
    | with_reducible assumption
    | with_reducible apply State.each_after
    | with_reducible apply State.addCounter_after
    | with_reducible exact Within.mono ht rfl
    | with_reducible apply AfterRoute.ite
    | split
    | (with_reducible intro _)

theorem State.moved_after {b T} (x0) (x1) (x2) (x3) (x4) (ht : Within 0x10000000 T) (h1 : After T b x0) :
    After T b (@State.moved x0 x1 x2 x3 x4) := by
  unfold State.moved
  try dsimp only
  repeat' first
    | with_reducible assumption
    | with_reducible apply State.onPmc_after
    | with_reducible exact Within.mono ht rfl
    | with_reducible apply AfterRoute.ite
    | split

theorem State.postedTo_after {b T} (x0) (x1) (x2) (ht : Within 0x40000010000000 T) (h1 : After T b x0) :
    After T b (@State.postedTo x0 x1 x2) := by
  unfold State.postedTo
  try dsimp only
  repeat' first
    | with_reducible assumption
    | with_reducible apply State.event_after
    | with_reducible apply State.moved_after
    | with_reducible exact Within.mono ht rfl
    | with_reducible apply AfterRoute.ite
    | split

theorem State.coreEvent_after {b T} (x0) (x1) (x2) (x3) (ht : Within 0x10000000 T) (h1 : After T b x0) :
    After T b (@State.coreEvent x0 x1 x2 x3) := by
  unfold State.coreEvent
  try dsimp only
  repeat' first
    | with_reducible assumption
    | with_reducible apply State.each_after
    | with_reducible apply State.onPmc_after
    | with_reducible exact Within.mono ht rfl
    | with_reducible apply AfterRoute.ite
    | split
    | (with_reducible intro _)

end Sys2Proof.Machine
end

