-- ==== Sys2Proof/Laws/After/DirectOps.lean ====
section
/-! SUPPORT. What the operations of DirectOps keep (Laws/After.lean). -/

set_option Elab.async false
set_option linter.all false

namespace Sys2Proof.Machine

theorem State.onFn_after {b T} (x0) (x1) (x2) (ht : Within 0x1000000 T) (h1 : After T b x0) :
    After T b (@State.onFn x0 x1 x2) := by
  unfold State.onFn
  try dsimp only
  repeat' first
    | with_reducible assumption
    | with_reducible apply State.onDirect_after

theorem State.putCfg_after {b T} (x0) (x1) (x2) (x3) (ht : Within 0x1000000 T) (h1 : After T b x0) :
    After T b (@State.putCfg x0 x1 x2 x3) := by
  unfold State.putCfg
  try dsimp only
  repeat' first
    | with_reducible assumption
    | with_reducible apply State.onFn_after

theorem State.writeTlps_after {b T} (x0) (x1) (ht : Within 0x40040010000000 T) (h1 : After T b x0) :
    After T b (@State.writeTlps x0 x1) := by
  unfold State.writeTlps
  try dsimp only
  repeat' first
    | with_reducible assumption
    | with_reducible apply State.each_after
    | with_reducible apply State.count_after
    | with_reducible apply State.moved_after
    | with_reducible apply State.event_after
    | with_reducible exact Within.mono ht rfl
    | exact RegIn.block ht (by decide) rfl
    | with_reducible apply AfterRoute.ite
    | split
    | (with_reducible intro _)

theorem State.fire_after {b T} (x0) (x1) (x2) (ht : Within 0x40040011000000 T) (h1 : After T b x0) :
    After T b (@State.fire x0 x1 x2) := by
  unfold State.fire
  try dsimp only
  repeat' first
    | with_reducible assumption
    | with_reducible apply State.onFn_after
    | with_reducible apply State.emit_after
    | with_reducible apply State.writeTlps_after
    | with_reducible exact Within.mono ht rfl
    | with_reducible apply AfterRoute.ite
    | split

theorem State.raisePme_after {b T} (x0) (ht : Within 0x40001000000 T) (h1 : After T b x0) :
    After T b (@State.raisePme x0) := by
  unfold State.raisePme
  try dsimp only
  repeat' first
    | with_reducible assumption
    | with_reducible apply State.onDirect_after
    | with_reducible apply State.emit_after
    | with_reducible apply State.wrs_after
    | with_reducible exact Within.mono ht rfl
    | exact RegIn.block ht (by decide) rfl
    | with_reducible apply FieldsIn.cons
    | with_reducible exact FieldsIn.nil
    | with_reducible apply AfterRoute.ite
    | split

theorem State.showDirectReads_after {b T} (x0) (ht : Within 0x40000000000 T) (h1 : After T b x0) :
    After T b (@State.showDirectReads x0) := by
  unfold State.showDirectReads
  try dsimp only
  repeat' first
    | with_reducible assumption
    | with_reducible apply State.wr_after
    | with_reducible exact Within.mono ht rfl
    | exact RegIn.block ht (by decide) rfl

theorem State.sendDirectRead_after {b T} (x0) (x1) (ht : Within 0x40040001000000 T) (h1 : After T b x0) :
    After T b (@State.sendDirectRead x0 x1) := by
  unfold State.sendDirectRead
  try dsimp only
  repeat' first
    | with_reducible assumption
    | with_reducible apply State.onDirect_after
    | with_reducible apply State.showDirectReads_after
    | with_reducible apply State.emit_after
    | with_reducible apply State.event_after
    | with_reducible apply State.count_after
    | with_reducible exact Within.mono ht rfl
    | exact RegIn.block ht (by decide) rfl
    | with_reducible apply AfterRoute.ite
    | split
    | (with_reducible intro _)
    | with_reducible apply AfterOut.ofNext
    | with_reducible apply AfterOpt.ofSome
    | with_reducible exact AfterOpt.ofNone
    | (with_reducible refine After.ofPair (by assumption) ?_)
    | (with_reducible refine After.ofTriple (by assumption) ?_)
    | (with_reducible refine After.ofOpt (by assumption) ?_)
    | with_reducible apply AfterSome.ofSome
    | with_reducible apply AfterRoute.ofSome
    | with_reducible exact AfterRoute.ofNone
    | with_reducible exact AfterSome.ofNone
    | with_reducible apply AfterEx.ofOk
    | with_reducible exact AfterEx.ofError
    | (with_reducible refine After.ofSealed (by assumption) ?_)
    | (with_reducible refine After.ofOkPair (by assumption) ?_)
    | (with_reducible refine After.ofOk (by assumption) ?_)
    | with_reducible apply After.fold

theorem State.sendDirectReads_after {b T} (x0) (ht : Within 0x40040001000000 T) (h1 : After T b x0) :
    After T b (@State.sendDirectReads x0) := by
  unfold State.sendDirectReads
  try dsimp only
  repeat' first
    | with_reducible assumption
    | with_reducible apply State.each_after
    | with_reducible apply State.sendDirectRead_after
    | with_reducible exact Within.mono ht rfl
    | with_reducible apply AfterRoute.ite
    | split
    | (with_reducible intro _)

theorem State.directFetch_after {b T} (x0) (x1) (x2) (ht : Within 0x40040001000000 T) (h1 : After T b x0) :
    After T b (@State.directFetch x0 x1 x2) := by
  unfold State.directFetch
  try dsimp only
  repeat' first
    | with_reducible assumption
    | with_reducible apply State.sendDirectReads_after
    | with_reducible apply State.onDirect_after
    | with_reducible exact Within.mono ht rfl
    | exact RegIn.block ht (by decide) rfl
    | with_reducible apply AfterRoute.ite
    | split
    | (with_reducible intro _)
    | with_reducible apply AfterOut.ofNext
    | with_reducible apply AfterOpt.ofSome
    | with_reducible exact AfterOpt.ofNone
    | (with_reducible refine After.ofPair (by assumption) ?_)
    | (with_reducible refine After.ofTriple (by assumption) ?_)
    | (with_reducible refine After.ofOpt (by assumption) ?_)
    | with_reducible apply AfterSome.ofSome
    | with_reducible apply AfterRoute.ofSome
    | with_reducible exact AfterRoute.ofNone
    | with_reducible exact AfterSome.ofNone
    | with_reducible apply AfterEx.ofOk
    | with_reducible exact AfterEx.ofError
    | (with_reducible refine After.ofSealed (by assumption) ?_)
    | (with_reducible refine After.ofOkPair (by assumption) ?_)
    | (with_reducible refine After.ofOk (by assumption) ?_)
    | with_reducible apply After.fold

theorem State.directCompletion_after {b T} (x0) (x1) (ht : Within 0x40040011000001 T) (h1 : After T b x0) :
    After T b (@State.directCompletion x0 x1) := by
  unfold State.directCompletion
  try dsimp only
  repeat' first
    | with_reducible assumption
    | with_reducible apply State.onDirect_after
    | with_reducible apply State.draw_after
    | with_reducible apply State.emit_after
    | with_reducible apply State.writeTlps_after
    | with_reducible apply State.fire_after
    | with_reducible exact Within.mono ht rfl
    | with_reducible apply AfterRoute.ite
    | split

end Sys2Proof.Machine
end

