-- ==== Sys2Proof/Laws/After/Ops.lean ====
section
/-! SUPPORT. What the operations of Ops keep (Laws/After.lean). -/

set_option Elab.async false
set_option linter.all false

namespace Sys2Proof.Machine

theorem State.setWords_after {b T} (x0) (x1) (x2) (x3) (hr : ∀ i < x2, RegIn (x1 + 4 * i) T) (h1 : After T b x0) :
    After T b (@State.setWords x0 x1 x2 x3) := by
  induction x2 generalizing x0 x1 x3 with
  | zero => simpa only [State.setWords] using h1
  | succ n ih =>
    refine ih _ _ _ (fun i k => ?_) (State.setReg_after _ _ _ (hr 0 (Nat.succ_pos n)) h1)
    have := hr (i + 1) (Nat.succ_lt_succ k)
    rwa [Nat.mul_add, ← Nat.add_assoc, Nat.add_right_comm] at this

theorem State.noticeSent_after {b T} (x0) (x1) (x2) (ht : Within 0x300000000080 T) (h1 : After T b x0) :
    After T b (@State.noticeSent x0 x1 x2) := by
  unfold State.noticeSent
  try dsimp only
  repeat' first
    | with_reducible assumption
    | with_reducible apply State.count_after
    | with_reducible apply State.onMcp_after
    | with_reducible exact Within.mono ht rfl
    | exact RegIn.block ht (by decide) rfl
    | with_reducible apply AfterRoute.ite
    | split
    | (with_reducible intro _)
    | with_reducible apply AfterOut.ofNext
    | with_reducible apply AfterOpt.ofSome
    | with_reducible exact AfterOpt.ofNone
    | (with_reducible refine After.ofPair (by assumption) ?_)
    | (with_reducible refine After.ofTriple (by assumption) ?_)
    | (with_reducible refine After.ofOpt (by assumption) ?_)
    | with_reducible apply AfterSome.ofSome
    | with_reducible apply AfterRoute.ofSome
    | with_reducible exact AfterRoute.ofNone
    | with_reducible exact AfterSome.ofNone
    | with_reducible apply AfterEx.ofOk
    | with_reducible exact AfterEx.ofError
    | (with_reducible refine After.ofSealed (by assumption) ?_)
    | (with_reducible refine After.ofOkPair (by assumption) ?_)
    | (with_reducible refine After.ofOk (by assumption) ?_)
    | with_reducible apply After.fold

theorem State.packetOut_after {b T} (x0) (x1) (x2) (x3) (h1 : After T b x0) :
    After T b (@State.packetOut x0 x1 x2 x3) := by
  unfold State.packetOut
  try dsimp only
  repeat' first
    | with_reducible assumption
    | with_reducible apply State.emit_after
    | exact RegIn.block ht (by decide) rfl
    | with_reducible apply AfterRoute.ite
    | split
    | (with_reducible intro _)
    | with_reducible apply AfterOut.ofNext
    | with_reducible apply AfterOpt.ofSome
    | with_reducible exact AfterOpt.ofNone
    | (with_reducible refine After.ofPair (by assumption) ?_)
    | (with_reducible refine After.ofTriple (by assumption) ?_)
    | (with_reducible refine After.ofOpt (by assumption) ?_)
    | with_reducible apply AfterSome.ofSome
    | with_reducible apply AfterRoute.ofSome
    | with_reducible exact AfterRoute.ofNone
    | with_reducible exact AfterSome.ofNone
    | with_reducible apply AfterEx.ofOk
    | with_reducible exact AfterEx.ofError
    | (with_reducible refine After.ofSealed (by assumption) ?_)
    | (with_reducible refine After.ofOkPair (by assumption) ?_)
    | (with_reducible refine After.ofOk (by assumption) ?_)
    | with_reducible apply After.fold

theorem State.mailboxNotice_after {b T} (x0) (x1) (x2) (ht : Within 0x40340011000080 T) (h1 : After T b x0) :
    After T b (@State.mailboxNotice x0 x1 x2) := by
  unfold State.mailboxNotice
  try dsimp only
  repeat' first
    | with_reducible assumption
    | with_reducible apply State.onMcp_after
    | with_reducible apply State.count_after
    | with_reducible apply State.setWords_after
    | with_reducible apply State.wr_after
    | with_reducible apply State.raisePme_after
    | with_reducible apply State.fire_after
    | with_reducible apply State.noticeSent_after
    | with_reducible exact Within.mono ht rfl
    | exact RegIn.block ht (by decide) rfl
    | exact RegIn.word (by omega) ht (by omega) rfl
    | with_reducible apply AfterRoute.ite
    | split
    | (with_reducible intro _)
    | with_reducible apply AfterOut.ofNext
    | with_reducible apply AfterOpt.ofSome
    | with_reducible exact AfterOpt.ofNone
    | (with_reducible refine After.ofPair (by assumption) ?_)
    | (with_reducible refine After.ofTriple (by assumption) ?_)
    | (with_reducible refine After.ofOpt (by assumption) ?_)
    | with_reducible apply AfterSome.ofSome
    | with_reducible apply AfterRoute.ofSome
    | with_reducible exact AfterRoute.ofNone
    | with_reducible exact AfterSome.ofNone
    | with_reducible apply AfterEx.ofOk
    | with_reducible exact AfterEx.ofError
    | (with_reducible refine After.ofSealed (by assumption) ?_)
    | (with_reducible refine After.ofOkPair (by assumption) ?_)
    | (with_reducible refine After.ofOk (by assumption) ?_)
    | with_reducible apply After.fold

theorem State.deliverNotice_after {b T} (x0) (x1) (x2) (ht : Within 0x40340011000080 T) (h1 : After T b x0) :
    After T b (@State.deliverNotice x0 x1 x2) := by
  unfold State.deliverNotice
  try dsimp only
  repeat' first
    | with_reducible assumption
    | with_reducible apply State.mailboxNotice_after
    | with_reducible apply State.noticeSent_after
    | with_reducible apply State.packetOut_after
    | with_reducible exact Within.mono ht rfl
    | exact RegIn.block ht (by decide) rfl
    | with_reducible apply AfterRoute.ite
    | split
    | (with_reducible intro _)
    | with_reducible apply AfterOut.ofNext
    | with_reducible apply AfterOpt.ofSome
    | with_reducible exact AfterOpt.ofNone
    | (with_reducible refine After.ofPair (by assumption) ?_)
    | (with_reducible refine After.ofTriple (by assumption) ?_)
    | (with_reducible refine After.ofOpt (by assumption) ?_)
    | with_reducible apply AfterSome.ofSome
    | with_reducible apply AfterRoute.ofSome
    | with_reducible exact AfterRoute.ofNone
    | with_reducible exact AfterSome.ofNone
    | with_reducible apply AfterEx.ofOk
    | with_reducible exact AfterEx.ofError
    | (with_reducible refine After.ofSealed (by assumption) ?_)
    | (with_reducible refine After.ofOkPair (by assumption) ?_)
    | (with_reducible refine After.ofOk (by assumption) ?_)
    | with_reducible apply After.fold

theorem State.notify_after {b T} (x0) (x1) (ht : Within 0x40340011000080 T) (h1 : After T b x0) :
    After T b (@State.notify x0 x1) := by
  unfold State.notify
  try dsimp only
  repeat' first
    | with_reducible assumption
    | with_reducible apply State.each_after
    | with_reducible apply State.onMcp_after
    | with_reducible apply State.deliverNotice_after
    | with_reducible exact Within.mono ht rfl
    | with_reducible apply AfterRoute.ite
    | split
    | (with_reducible intro _)

theorem State.enterRing_after {b T} (x0) (x1) (ht : Within 0x20000000000040 T) (h1 : After T b x0) :
    After T b (@State.enterRing x0 x1) := by
  unfold State.enterRing
  try dsimp only
  repeat' first
    | with_reducible assumption
    | with_reducible apply State.count_after
    | with_reducible apply State.onFlt_after
    | with_reducible exact Within.mono ht rfl
    | exact RegIn.block ht (by decide) rfl
    | with_reducible apply AfterRoute.ite
    | split

theorem State.latchRecord_after {b T} (x0) (x1) (ht : Within 0x20000000000040 T) (h1 : After T b x0) :
    After T b (@State.latchRecord x0 x1) := by
  unfold State.latchRecord
  try dsimp only
  repeat' first
    | with_reducible assumption
    | with_reducible apply State.onFlt_after
    | with_reducible apply State.wr_after
    | with_reducible apply State.setWords_after
    | with_reducible exact Within.mono ht rfl
    | exact RegIn.block ht (by decide) rfl
    | exact RegIn.word (by omega) ht (by omega) rfl
    | with_reducible apply AfterRoute.ite
    | split
    | (with_reducible intro _)

theorem State.raisePend_after {b T} (x0) (x1) (ht : Within 0x20000000000000 T) (h1 : After T b x0) :
    After T b (@State.raisePend x0 x1) := by
  unfold State.raisePend
  try dsimp only
  repeat' first
    | with_reducible assumption
    | with_reducible apply State.wr_after
    | with_reducible apply State.emit_after
    | with_reducible exact Within.mono ht rfl
    | exact RegIn.block ht (by decide) rfl
    | with_reducible apply AfterRoute.ite
    | split

theorem State.newRecord_after {b T} (x0) (x1) (ht : Within 0x603400110000c0 T) (h1 : After T b x0) :
    After T b (@State.newRecord x0 x1) := by
  unfold State.newRecord
  try dsimp only
  repeat' first
    | with_reducible assumption
    | with_reducible apply State.latchRecord_after
    | with_reducible apply State.raisePend_after
    | with_reducible apply State.enterRing_after
    | with_reducible apply State.notify_after
    | with_reducible exact Within.mono ht rfl
    | with_reducible apply AfterRoute.ite
    | split

theorem State.dormantRecord_after {b T} (x0) (x1) (ht : Within 0x40 T) (h1 : After T b x0) :
    After T b (@State.dormantRecord x0 x1) := by
  unfold State.dormantRecord
  try dsimp only
  repeat' first
    | with_reducible assumption
    | with_reducible apply State.onFlt_after
    | with_reducible exact Within.mono ht rfl
    | with_reducible apply AfterRoute.ite
    | split

theorem State.coalesceDormant_after {b T} (x0) (ht : Within 0x20000000000040 T) (h1 : After T b x0) :
    After T b (@State.coalesceDormant x0) := by
  unfold State.coalesceDormant
  try dsimp only
  repeat' first
    | with_reducible assumption
    | with_reducible apply State.count_after
    | with_reducible apply State.onFlt_after
    | with_reducible exact Within.mono ht rfl
    | exact RegIn.block ht (by decide) rfl
    | with_reducible apply AfterRoute.ite
    | split
    | (with_reducible intro _)
    | with_reducible apply AfterOut.ofNext
    | with_reducible apply AfterOpt.ofSome
    | with_reducible exact AfterOpt.ofNone
    | (with_reducible refine After.ofPair (by assumption) ?_)
    | (with_reducible refine After.ofTriple (by assumption) ?_)
    | (with_reducible refine After.ofOpt (by assumption) ?_)
    | with_reducible apply AfterSome.ofSome
    | with_reducible apply AfterRoute.ofSome
    | with_reducible exact AfterRoute.ofNone
    | with_reducible exact AfterSome.ofNone
    | with_reducible apply AfterEx.ofOk
    | with_reducible exact AfterEx.ofError
    | (with_reducible refine After.ofSealed (by assumption) ?_)
    | (with_reducible refine After.ofOkPair (by assumption) ?_)
    | (with_reducible refine After.ofOk (by assumption) ?_)
    | with_reducible apply After.fold

theorem State.fault_after {b T} (x0) (x1) (ht : Within 0x603400110000c0 T) (h1 : After T b x0) :
    After T b (@State.fault x0 x1) := by
  unfold State.fault
  try dsimp only
  repeat' first
    | with_reducible assumption
    | with_reducible apply State.coalesceDormant_after
    | with_reducible apply State.dormantRecord_after
    | with_reducible apply State.newRecord_after
    | with_reducible apply State.count_after
    | with_reducible apply State.onFlt_after
    | with_reducible exact Within.mono ht rfl
    | exact RegIn.block ht (by decide) rfl
    | with_reducible apply AfterRoute.ite
    | split
    | (with_reducible intro _)
    | with_reducible apply AfterOut.ofNext
    | with_reducible apply AfterOpt.ofSome
    | with_reducible exact AfterOpt.ofNone
    | (with_reducible refine After.ofPair (by assumption) ?_)
    | (with_reducible refine After.ofTriple (by assumption) ?_)
    | (with_reducible refine After.ofOpt (by assumption) ?_)
    | with_reducible apply AfterSome.ofSome
    | with_reducible apply AfterRoute.ofSome
    | with_reducible exact AfterRoute.ofNone
    | with_reducible exact AfterSome.ofNone
    | with_reducible apply AfterEx.ofOk
    | with_reducible exact AfterEx.ofError
    | (with_reducible refine After.ofSealed (by assumption) ?_)
    | (with_reducible refine After.ofOkPair (by assumption) ?_)
    | (with_reducible refine After.ofOk (by assumption) ?_)
    | with_reducible apply After.fold

theorem State.integrityFault_after {b T} (x0) (x1) (x2) (x3) (x4) (x5) (ht : Within 0x603400110000c0 T) (h1 : After T b x0) :
    After T b (@State.integrityFault x0 x1 x2 x3 x4 x5) := by
  unfold State.integrityFault
  try dsimp only
  repeat' first
    | with_reducible assumption
    | with_reducible apply State.fault_after

end Sys2Proof.Machine
end

