-- ==== Sys2Proof/Laws/After/RdmaOps.lean ====
section
/-! SUPPORT. What the operations of RdmaOps keep (Laws/After.lean). -/

set_option Elab.async false
set_option linter.all false

namespace Sys2Proof.Machine

theorem State.onQp_after {b T} (x0) (x1) (x2) (ht : Within 0x2000 T) (h1 : After T b x0) :
    After T b (@State.onQp x0 x1 x2) := by
  unfold State.onQp
  try dsimp only
  repeat' first
    | with_reducible assumption
    | with_reducible apply State.onRdma_after

theorem State.setCtx_after {b T} (x0) (x1) (x2) (x3) (ht : Within 0x2000 T) (h1 : After T b x0) :
    After T b (@State.setCtx x0 x1 x2 x3) := by
  unfold State.setCtx
  try dsimp only
  repeat' first
    | with_reducible assumption
    | with_reducible apply State.onRdma_after
    | with_reducible exact Within.mono ht rfl
    | exact RegIn.block ht (by decide) rfl
    | with_reducible apply AfterRoute.ite
    | split
    | (with_reducible intro _)
    | with_reducible apply AfterOut.ofNext
    | with_reducible apply AfterOpt.ofSome
    | with_reducible exact AfterOpt.ofNone
    | (with_reducible refine After.ofPair (by assumption) ?_)
    | (with_reducible refine After.ofTriple (by assumption) ?_)
    | (with_reducible refine After.ofOpt (by assumption) ?_)
    | with_reducible apply AfterSome.ofSome
    | with_reducible apply AfterRoute.ofSome
    | with_reducible exact AfterRoute.ofNone
    | with_reducible exact AfterSome.ofNone
    | with_reducible apply AfterEx.ofOk
    | with_reducible exact AfterEx.ofError
    | (with_reducible refine After.ofSealed (by assumption) ?_)
    | (with_reducible refine After.ofOkPair (by assumption) ?_)
    | (with_reducible refine After.ofOk (by assumption) ?_)
    | with_reducible apply After.fold

theorem State.countCtx_after {b T} (x0) (x1) (x2) (x3) (ht : Within 0x2000 T) (h1 : After T b x0) :
    After T b (@State.countCtx x0 x1 x2 x3) := by
  unfold State.countCtx
  try dsimp only
  repeat' first
    | with_reducible assumption
    | with_reducible apply State.setCtx_after

theorem State.showContexts_after {b T} (x0) (ht : Within 0x100000000 T) (h1 : After T b x0) :
    After T b (@State.showContexts x0) := by
  unfold State.showContexts
  try dsimp only
  repeat' first
    | with_reducible assumption
    | with_reducible apply State.wr_after
    | with_reducible exact Within.mono ht rfl
    | exact RegIn.block ht (by decide) rfl

theorem State.resetFlow_after {b T} (x0) (x1) (ht : Within 0x2000000 T) (h1 : After T b x0) :
    After T b (@State.resetFlow x0 x1) := by
  unfold State.resetFlow
  try dsimp only
  repeat' first
    | with_reducible assumption
    | with_reducible apply State.onSwitch_after

theorem State.putContext_after {b T} (x0) (x1) (ht : Within 0x102002000 T) (h1 : After T b x0) :
    After T b (@State.putContext x0 x1) := by
  unfold State.putContext
  try dsimp only
  repeat' first
    | with_reducible assumption
    | with_reducible apply State.showContexts_after
    | with_reducible apply State.resetFlow_after
    | with_reducible apply State.onRdma_after
    | with_reducible exact Within.mono ht rfl

theorem State.dropContext_after {b T} (x0) (x1) (ht : Within 0x102002000 T) (h1 : After T b x0) :
    After T b (@State.dropContext x0 x1) := by
  unfold State.dropContext
  try dsimp only
  repeat' first
    | with_reducible assumption
    | with_reducible apply State.putContext_after
    | with_reducible apply State.onRdma_after
    | with_reducible exact Within.mono ht rfl
    | exact RegIn.block ht (by decide) rfl
    | with_reducible apply AfterRoute.ite
    | split
    | (with_reducible intro _)
    | with_reducible apply AfterOut.ofNext
    | with_reducible apply AfterOpt.ofSome
    | with_reducible exact AfterOpt.ofNone
    | (with_reducible refine After.ofPair (by assumption) ?_)
    | (with_reducible refine After.ofTriple (by assumption) ?_)
    | (with_reducible refine After.ofOpt (by assumption) ?_)
    | with_reducible apply AfterSome.ofSome
    | with_reducible apply AfterRoute.ofSome
    | with_reducible exact AfterRoute.ofNone
    | with_reducible exact AfterSome.ofNone
    | with_reducible apply AfterEx.ofOk
    | with_reducible exact AfterEx.ofError
    | (with_reducible refine After.ofSealed (by assumption) ?_)
    | (with_reducible refine After.ofOkPair (by assumption) ?_)
    | (with_reducible refine After.ofOk (by assumption) ?_)
    | with_reducible apply After.fold

theorem State.sentFrames_after {b T} (x0) (x1) (x2) (ht : Within 0x2000 T) (h1 : After T b x0) :
    After T b (@State.sentFrames x0 x1 x2) := by
  unfold State.sentFrames
  try dsimp only
  repeat' first
    | with_reducible assumption
    | with_reducible apply State.countCtx_after
    | with_reducible exact Within.mono ht rfl
    | exact RegIn.block ht (by decide) rfl
    | with_reducible apply AfterRoute.ite
    | split
    | (with_reducible intro _)
    | with_reducible apply AfterOut.ofNext
    | with_reducible apply AfterOpt.ofSome
    | with_reducible exact AfterOpt.ofNone
    | (with_reducible refine After.ofPair (by assumption) ?_)
    | (with_reducible refine After.ofTriple (by assumption) ?_)
    | (with_reducible refine After.ofOpt (by assumption) ?_)
    | with_reducible apply AfterSome.ofSome
    | with_reducible apply AfterRoute.ofSome
    | with_reducible exact AfterRoute.ofNone
    | with_reducible exact AfterSome.ofNone
    | with_reducible apply AfterEx.ofOk
    | with_reducible exact AfterEx.ofError
    | (with_reducible refine After.ofSealed (by assumption) ?_)
    | (with_reducible refine After.ofOkPair (by assumption) ?_)
    | (with_reducible refine After.ofOk (by assumption) ?_)
    | with_reducible apply After.fold

theorem State.sent_after {b T} (x0) (x1) (x2) (ht : Within 0x2000 T) (h1 : After T b x0) :
    After T b (@State.sent x0 x1 x2) := by
  unfold State.sent
  try dsimp only
  repeat' first
    | with_reducible assumption
    | with_reducible apply State.sentFrames_after
    | with_reducible exact Within.mono ht rfl
    | exact RegIn.block ht (by decide) rfl
    | with_reducible apply AfterRoute.ite
    | split
    | (with_reducible intro _)
    | with_reducible apply AfterOut.ofNext
    | with_reducible apply AfterOpt.ofSome
    | with_reducible exact AfterOpt.ofNone
    | (with_reducible refine After.ofPair (by assumption) ?_)
    | (with_reducible refine After.ofTriple (by assumption) ?_)
    | (with_reducible refine After.ofOpt (by assumption) ?_)
    | with_reducible apply AfterSome.ofSome
    | with_reducible apply AfterRoute.ofSome
    | with_reducible exact AfterRoute.ofNone
    | with_reducible exact AfterSome.ofNone
    | with_reducible apply AfterEx.ofOk
    | with_reducible exact AfterEx.ofError
    | (with_reducible refine After.ofSealed (by assumption) ?_)
    | (with_reducible refine After.ofOkPair (by assumption) ?_)
    | (with_reducible refine After.ofOk (by assumption) ?_)
    | with_reducible apply After.fold

theorem State.sendAck_after {b T} (x0) (x1) (x2) (ht : Within 0x2000 T) (h1 : After T b x0) :
    After T b (@State.sendAck x0 x1 x2) := by
  unfold State.sendAck
  try dsimp only
  repeat' first
    | with_reducible assumption
    | with_reducible apply State.sent_after
    | with_reducible apply State.onQp_after
    | with_reducible apply State.emit_after
    | with_reducible exact Within.mono ht rfl
    | exact RegIn.block ht (by decide) rfl
    | with_reducible apply AfterRoute.ite
    | split
    | (with_reducible intro _)
    | with_reducible apply AfterOut.ofNext
    | with_reducible apply AfterOpt.ofSome
    | with_reducible exact AfterOpt.ofNone
    | (with_reducible refine After.ofPair (by assumption) ?_)
    | (with_reducible refine After.ofTriple (by assumption) ?_)
    | (with_reducible refine After.ofOpt (by assumption) ?_)
    | with_reducible apply AfterSome.ofSome
    | with_reducible apply AfterRoute.ofSome
    | with_reducible exact AfterRoute.ofNone
    | with_reducible exact AfterSome.ofNone
    | with_reducible apply AfterEx.ofOk
    | with_reducible exact AfterEx.ofError
    | (with_reducible refine After.ofSealed (by assumption) ?_)
    | (with_reducible refine After.ofOkPair (by assumption) ?_)
    | (with_reducible refine After.ofOk (by assumption) ?_)
    | with_reducible apply After.fold

theorem State.restoreRetries_after {b T} (x0) (x1) (ht : Within 0x2000 T) (h1 : After T b x0) :
    After T b (@State.restoreRetries x0 x1) := by
  unfold State.restoreRetries
  try dsimp only
  repeat' first
    | with_reducible assumption
    | with_reducible apply State.setCtx_after

theorem State.startSend_after {b T} (x0) (x1) (x2) (x3) (x4) (x5) (x6) (ht : Within 0x2000 T) (h1 : After T b x0) :
    After T b (@State.startSend x0 x1 x2 x3 x4 x5 x6) := by
  unfold State.startSend
  try dsimp only
  repeat' first
    | with_reducible assumption
    | with_reducible apply State.sentFrames_after
    | with_reducible apply State.setCtx_after
    | with_reducible apply State.emit_after
    | with_reducible apply State.onRdma_after
    | with_reducible exact Within.mono ht rfl
    | exact RegIn.block ht (by decide) rfl
    | with_reducible apply AfterRoute.ite
    | split
    | (with_reducible intro _)
    | with_reducible apply AfterOut.ofNext
    | with_reducible apply AfterOpt.ofSome
    | with_reducible exact AfterOpt.ofNone
    | (with_reducible refine After.ofPair (by assumption) ?_)
    | (with_reducible refine After.ofTriple (by assumption) ?_)
    | (with_reducible refine After.ofOpt (by assumption) ?_)
    | with_reducible apply AfterSome.ofSome
    | with_reducible apply AfterRoute.ofSome
    | with_reducible exact AfterRoute.ofNone
    | with_reducible exact AfterSome.ofNone
    | with_reducible apply AfterEx.ofOk
    | with_reducible exact AfterEx.ofError
    | (with_reducible refine After.ofSealed (by assumption) ?_)
    | (with_reducible refine After.ofOkPair (by assumption) ?_)
    | (with_reducible refine After.ofOk (by assumption) ?_)
    | with_reducible apply After.fold

theorem State.showReads_after {b T} (x0) (x1) (ht : Within 0x2000 T) (h1 : After T b x0) :
    After T b (@State.showReads x0 x1) := by
  unfold State.showReads
  try dsimp only
  repeat' first
    | with_reducible assumption
    | with_reducible apply State.setCtx_after
    | with_reducible apply State.each_after
    | with_reducible exact Within.mono ht rfl
    | with_reducible apply AfterRoute.ite
    | split
    | (with_reducible intro _)

theorem State.grantRead_after {b T} (x0) (x1) (ht : Within 0x2000 T) (h1 : After T b x0) :
    After T b (@State.grantRead x0 x1) := by
  unfold State.grantRead
  try dsimp only
  repeat' first
    | with_reducible assumption
    | with_reducible apply State.onRdma_after
    | with_reducible apply State.sent_after
    | with_reducible apply State.setCtx_after
    | with_reducible apply State.emit_after
    | with_reducible apply State.showReads_after
    | with_reducible exact Within.mono ht rfl
    | exact RegIn.block ht (by decide) rfl
    | with_reducible apply AfterRoute.ite
    | split
    | (with_reducible intro _)
    | with_reducible apply AfterOut.ofNext
    | with_reducible apply AfterOpt.ofSome
    | with_reducible exact AfterOpt.ofNone
    | (with_reducible refine After.ofPair (by assumption) ?_)
    | (with_reducible refine After.ofTriple (by assumption) ?_)
    | (with_reducible refine After.ofOpt (by assumption) ?_)
    | with_reducible apply AfterSome.ofSome
    | with_reducible apply AfterRoute.ofSome
    | with_reducible exact AfterRoute.ofNone
    | with_reducible exact AfterSome.ofNone
    | with_reducible apply AfterEx.ofOk
    | with_reducible exact AfterEx.ofError
    | (with_reducible refine After.ofSealed (by assumption) ?_)
    | (with_reducible refine After.ofOkPair (by assumption) ?_)
    | (with_reducible refine After.ofOk (by assumption) ?_)
    | with_reducible apply After.fold

theorem State.grantReads_after {b T} (x0) (x1) (ht : Within 0x2000 T) (h1 : After T b x0) :
    After T b (@State.grantReads x0 x1) := by
  unfold State.grantReads
  try dsimp only
  repeat' first
    | with_reducible assumption
    | with_reducible apply State.each_after
    | with_reducible apply State.grantRead_after
    | with_reducible exact Within.mono ht rfl
    | exact RegIn.block ht (by decide) rfl
    | with_reducible apply AfterRoute.ite
    | split
    | (with_reducible intro _)
    | with_reducible apply AfterOut.ofNext
    | with_reducible apply AfterOpt.ofSome
    | with_reducible exact AfterOpt.ofNone
    | (with_reducible refine After.ofPair (by assumption) ?_)
    | (with_reducible refine After.ofTriple (by assumption) ?_)
    | (with_reducible refine After.ofOpt (by assumption) ?_)
    | with_reducible apply AfterSome.ofSome
    | with_reducible apply AfterRoute.ofSome
    | with_reducible exact AfterRoute.ofNone
    | with_reducible exact AfterSome.ofNone
    | with_reducible apply AfterEx.ofOk
    | with_reducible exact AfterEx.ofError
    | (with_reducible refine After.ofSealed (by assumption) ?_)
    | (with_reducible refine After.ofOkPair (by assumption) ?_)
    | (with_reducible refine After.ofOk (by assumption) ?_)
    | with_reducible apply After.fold

theorem State.startRead_after {b T} (x0) (x1) (x2) (x3) (x4) (x5) (ht : Within 0x2000 T) (h1 : After T b x0) :
    After T b (@State.startRead x0 x1 x2 x3 x4 x5) := by
  unfold State.startRead
  try dsimp only
  repeat' first
    | with_reducible assumption
    | with_reducible apply State.grantReads_after
    | with_reducible apply State.onRdma_after
    | with_reducible exact Within.mono ht rfl
    | exact RegIn.block ht (by decide) rfl
    | with_reducible apply AfterRoute.ite
    | split
    | (with_reducible intro _)
    | with_reducible apply AfterOut.ofNext
    | with_reducible apply AfterOpt.ofSome
    | with_reducible exact AfterOpt.ofNone
    | (with_reducible refine After.ofPair (by assumption) ?_)
    | (with_reducible refine After.ofTriple (by assumption) ?_)
    | (with_reducible refine After.ofOpt (by assumption) ?_)
    | with_reducible apply AfterSome.ofSome
    | with_reducible apply AfterRoute.ofSome
    | with_reducible exact AfterRoute.ofNone
    | with_reducible exact AfterSome.ofNone
    | with_reducible apply AfterEx.ofOk
    | with_reducible exact AfterEx.ofError
    | (with_reducible refine After.ofSealed (by assumption) ?_)
    | (with_reducible refine After.ofOkPair (by assumption) ?_)
    | (with_reducible refine After.ofOk (by assumption) ?_)
    | with_reducible apply After.fold

theorem State.onController_after {b T} (x0) (x1) (x2) (ht : Within 0x200 T) (h1 : After T b x0) :
    After T b (@State.onController x0 x1 x2) := by
  unfold State.onController
  try dsimp only
  repeat' first
    | with_reducible assumption
    | with_reducible apply State.onHost_after

theorem State.drainQueuePair_after {b T} (x0) (x1) (ht : Within 0x2000 T) (h1 : After T b x0) :
    After T b (@State.drainQueuePair x0 x1) := by
  unfold State.drainQueuePair
  try dsimp only
  repeat' first
    | with_reducible assumption
    | with_reducible apply State.setCtx_after
    | with_reducible exact Within.mono ht rfl
    | with_reducible apply AfterRoute.ite
    | split

theorem State.putPipeline_after {b T} (x0) (x1) (ht : Within 0x2000 T) (h1 : After T b x0) :
    After T b (@State.putPipeline x0 x1) := by
  unfold State.putPipeline
  try dsimp only
  repeat' first
    | with_reducible assumption
    | with_reducible apply State.onRdma_after

theorem State.touchContext_after {b T} (x0) (x1) (ht : Within 0x2000 T) (h1 : After T b x0) :
    After T b (@State.touchContext x0 x1) := by
  unfold State.touchContext
  try dsimp only
  repeat' first
    | with_reducible assumption
    | with_reducible apply State.onRdma_after
    | with_reducible exact Within.mono ht rfl
    | exact RegIn.block ht (by decide) rfl
    | with_reducible apply AfterRoute.ite
    | split
    | (with_reducible intro _)
    | with_reducible apply AfterOut.ofNext
    | with_reducible apply AfterOpt.ofSome
    | with_reducible exact AfterOpt.ofNone
    | (with_reducible refine After.ofPair (by assumption) ?_)
    | (with_reducible refine After.ofTriple (by assumption) ?_)
    | (with_reducible refine After.ofOpt (by assumption) ?_)
    | with_reducible apply AfterSome.ofSome
    | with_reducible apply AfterRoute.ofSome
    | with_reducible exact AfterRoute.ofNone
    | with_reducible exact AfterSome.ofNone
    | with_reducible apply AfterEx.ofOk
    | with_reducible exact AfterEx.ofError
    | (with_reducible refine After.ofSealed (by assumption) ?_)
    | (with_reducible refine After.ofOkPair (by assumption) ?_)
    | (with_reducible refine After.ofOk (by assumption) ?_)
    | with_reducible apply After.fold

theorem State.throughPipeline_after {b T} (x0) (x1) (x2) (x3) (x4) (ht : Within 0x40000100002000 T) (h1 : After T b x0) (h5 : ∀ y0, After T b y0 → After T b (x4 y0)) :
    After T b (@State.throughPipeline x0 x1 x2 x3 x4) := by
  unfold State.throughPipeline
  try dsimp only
  repeat' first
    | with_reducible assumption
    | with_reducible apply h5
    | with_reducible apply State.event_after
    | with_reducible apply State.count_after
    | with_reducible apply State.touchContext_after
    | with_reducible apply State.putPipeline_after
    | with_reducible apply State.began_after
    | with_reducible exact Within.mono ht rfl
    | exact RegIn.block ht (by decide) rfl
    | with_reducible apply AfterRoute.ite
    | split
    | (with_reducible intro _)
    | with_reducible apply AfterOut.ofNext
    | with_reducible apply AfterOpt.ofSome
    | with_reducible exact AfterOpt.ofNone
    | (with_reducible refine After.ofPair (by assumption) ?_)
    | (with_reducible refine After.ofTriple (by assumption) ?_)
    | (with_reducible refine After.ofOpt (by assumption) ?_)
    | with_reducible apply AfterSome.ofSome
    | with_reducible apply AfterRoute.ofSome
    | with_reducible exact AfterRoute.ofNone
    | with_reducible exact AfterSome.ofNone
    | with_reducible apply AfterEx.ofOk
    | with_reducible exact AfterEx.ofError
    | (with_reducible refine After.ofSealed (by assumption) ?_)
    | (with_reducible refine After.ofOkPair (by assumption) ?_)
    | (with_reducible refine After.ofOk (by assumption) ?_)
    | with_reducible apply After.fold

theorem State.installContext_after {b T} (x0) (x1) (x2) (ht : Within 0x2000 T) (h1 : After T b x0) :
    After T b (@State.installContext x0 x1 x2) := by
  unfold State.installContext
  try dsimp only
  repeat' first
    | with_reducible assumption
    | with_reducible apply State.onRdma_after
    | with_reducible apply State.putPipeline_after
    | with_reducible exact Within.mono ht rfl
    | with_reducible apply AfterRoute.ite
    | split

theorem State.startItem_after {b T} (x0) (x1) (x2) (ht : Within 0x2000 T) (h1 : After T b x0) :
    After T b (@State.startItem x0 x1 x2) := by
  unfold State.startItem
  try dsimp only
  repeat' first
    | with_reducible assumption
    | with_reducible apply State.startSend_after
    | with_reducible apply State.each_after
    | with_reducible apply State.startRead_after
    | with_reducible exact Within.mono ht rfl
    | exact RegIn.block ht (by decide) rfl
    | with_reducible apply AfterRoute.ite
    | split
    | (with_reducible intro _)
    | with_reducible apply AfterOut.ofNext
    | with_reducible apply AfterOpt.ofSome
    | with_reducible exact AfterOpt.ofNone
    | (with_reducible refine After.ofPair (by assumption) ?_)
    | (with_reducible refine After.ofTriple (by assumption) ?_)
    | (with_reducible refine After.ofOpt (by assumption) ?_)
    | with_reducible apply AfterSome.ofSome
    | with_reducible apply AfterRoute.ofSome
    | with_reducible exact AfterRoute.ofNone
    | with_reducible exact AfterSome.ofNone
    | with_reducible apply AfterEx.ofOk
    | with_reducible exact AfterEx.ofError
    | (with_reducible refine After.ofSealed (by assumption) ?_)
    | (with_reducible refine After.ofOkPair (by assumption) ?_)
    | (with_reducible refine After.ofOk (by assumption) ?_)
    | with_reducible apply After.fold

theorem State.pumpSends_after {b T} (x0) (x1) (x2) (ht : Within 0x2000 T) (h1 : After T b x0) :
    After T b (@State.pumpSends x0 x1 x2) := by
  induction x2 generalizing x0 x1 with
  | zero =>
    unfold State.pumpSends
    try dsimp only
    repeat' first
      | with_reducible assumption
      | with_reducible apply State.grantReads_after
      | with_reducible apply State.startItem_after
      | with_reducible apply State.onRdma_after
      | with_reducible exact Within.mono ht rfl
      | exact RegIn.block ht (by decide) rfl
      | exact RegIn.word (by omega) ht (by omega) rfl
      | with_reducible apply AfterRoute.ite
      | split
      | (with_reducible intro _)
      | with_reducible apply AfterOut.ofNext
      | with_reducible apply AfterOpt.ofSome
      | with_reducible exact AfterOpt.ofNone
      | (with_reducible refine After.ofPair (by assumption) ?_)
      | (with_reducible refine After.ofTriple (by assumption) ?_)
      | (with_reducible refine After.ofOpt (by assumption) ?_)
      | with_reducible apply AfterSome.ofSome
      | with_reducible apply AfterRoute.ofSome
      | with_reducible exact AfterRoute.ofNone
      | with_reducible exact AfterSome.ofNone
      | with_reducible apply AfterEx.ofOk
      | with_reducible exact AfterEx.ofError
      | (with_reducible refine After.ofSealed (by assumption) ?_)
      | (with_reducible refine After.ofOkPair (by assumption) ?_)
      | (with_reducible refine After.ofOk (by assumption) ?_)
      | with_reducible apply After.fold
  | succ n ih =>
    unfold State.pumpSends
    try dsimp only
    repeat' first
      | with_reducible assumption
      | with_reducible apply ih
      | with_reducible apply State.grantReads_after
      | with_reducible apply State.startItem_after
      | with_reducible apply State.onRdma_after
      | with_reducible exact Within.mono ht rfl
      | exact RegIn.block ht (by decide) rfl
      | exact RegIn.word (by omega) ht (by omega) rfl
      | with_reducible apply AfterRoute.ite
      | split
      | (with_reducible intro _)
      | with_reducible apply AfterOut.ofNext
      | with_reducible apply AfterOpt.ofSome
      | with_reducible exact AfterOpt.ofNone
      | (with_reducible refine After.ofPair (by assumption) ?_)
      | (with_reducible refine After.ofTriple (by assumption) ?_)
      | (with_reducible refine After.ofOpt (by assumption) ?_)
      | with_reducible apply AfterSome.ofSome
      | with_reducible apply AfterRoute.ofSome
      | with_reducible exact AfterRoute.ofNone
      | with_reducible exact AfterSome.ofNone
      | with_reducible apply AfterEx.ofOk
      | with_reducible exact AfterEx.ofError
      | (with_reducible refine After.ofSealed (by assumption) ?_)
      | (with_reducible refine After.ofOkPair (by assumption) ?_)
      | (with_reducible refine After.ofOk (by assumption) ?_)
      | with_reducible apply After.fold

theorem State.runSends_after {b T} (x0) (x1) (ht : Within 0x2000 T) (h1 : After T b x0) :
    After T b (@State.runSends x0 x1) := by
  unfold State.runSends
  try dsimp only
  repeat' first
    | with_reducible assumption
    | with_reducible apply State.pumpSends_after
    | with_reducible exact Within.mono ht rfl
    | exact RegIn.block ht (by decide) rfl
    | with_reducible apply AfterRoute.ite
    | split
    | (with_reducible intro _)
    | with_reducible apply AfterOut.ofNext
    | with_reducible apply AfterOpt.ofSome
    | with_reducible exact AfterOpt.ofNone
    | (with_reducible refine After.ofPair (by assumption) ?_)
    | (with_reducible refine After.ofTriple (by assumption) ?_)
    | (with_reducible refine After.ofOpt (by assumption) ?_)
    | with_reducible apply AfterSome.ofSome
    | with_reducible apply AfterRoute.ofSome
    | with_reducible exact AfterRoute.ofNone
    | with_reducible exact AfterSome.ofNone
    | with_reducible apply AfterEx.ofOk
    | with_reducible exact AfterEx.ofError
    | (with_reducible refine After.ofSealed (by assumption) ?_)
    | (with_reducible refine After.ofOkPair (by assumption) ?_)
    | (with_reducible refine After.ofOk (by assumption) ?_)
    | with_reducible apply After.fold

theorem State.serveSend_after {b T} (x0) (x1) (x2) (ht : Within 0x2000 T) (h1 : After T b x0) :
    After T b (@State.serveSend x0 x1 x2) := by
  unfold State.serveSend
  try dsimp only
  repeat' first
    | with_reducible assumption
    | with_reducible apply State.runSends_after
    | with_reducible apply State.onRdma_after
    | with_reducible exact Within.mono ht rfl
    | exact RegIn.block ht (by decide) rfl
    | with_reducible apply AfterRoute.ite
    | split
    | (with_reducible intro _)
    | with_reducible apply AfterOut.ofNext
    | with_reducible apply AfterOpt.ofSome
    | with_reducible exact AfterOpt.ofNone
    | (with_reducible refine After.ofPair (by assumption) ?_)
    | (with_reducible refine After.ofTriple (by assumption) ?_)
    | (with_reducible refine After.ofOpt (by assumption) ?_)
    | with_reducible apply AfterSome.ofSome
    | with_reducible apply AfterRoute.ofSome
    | with_reducible exact AfterRoute.ofNone
    | with_reducible exact AfterSome.ofNone
    | with_reducible apply AfterEx.ofOk
    | with_reducible exact AfterEx.ofError
    | (with_reducible refine After.ofSealed (by assumption) ?_)
    | (with_reducible refine After.ofOkPair (by assumption) ?_)
    | (with_reducible refine After.ofOk (by assumption) ?_)
    | with_reducible apply After.fold

theorem State.transmit_after {b T} (x0) (x1) (x2) (ht : Within 0x40000100002000 T) (h1 : After T b x0) :
    After T b (@State.transmit x0 x1 x2) := by
  unfold State.transmit
  try dsimp only
  repeat' first
    | with_reducible assumption
    | with_reducible apply State.throughPipeline_after
    | with_reducible apply State.serveSend_after
    | with_reducible exact Within.mono ht rfl
    | exact RegIn.block ht (by decide) rfl
    | with_reducible apply AfterRoute.ite
    | split
    | (with_reducible intro _)
    | with_reducible apply AfterOut.ofNext
    | with_reducible apply AfterOpt.ofSome
    | with_reducible exact AfterOpt.ofNone
    | (with_reducible refine After.ofPair (by assumption) ?_)
    | (with_reducible refine After.ofTriple (by assumption) ?_)
    | (with_reducible refine After.ofOpt (by assumption) ?_)
    | with_reducible apply AfterSome.ofSome
    | with_reducible apply AfterRoute.ofSome
    | with_reducible exact AfterRoute.ofNone
    | with_reducible exact AfterSome.ofNone
    | with_reducible apply AfterEx.ofOk
    | with_reducible exact AfterEx.ofError
    | (with_reducible refine After.ofSealed (by assumption) ?_)
    | (with_reducible refine After.ofOkPair (by assumption) ?_)
    | (with_reducible refine After.ofOk (by assumption) ?_)
    | with_reducible apply After.fold

theorem State.queueResponse_after {b T} (x0) (x1) (x2) (x3) (x4) (x5) (x6) (ht : Within 0x40000100002000 T) (h1 : After T b x0) :
    After T b (@State.queueResponse x0 x1 x2 x3 x4 x5 x6) := by
  unfold State.queueResponse
  try dsimp only
  repeat' first
    | with_reducible assumption
    | with_reducible apply State.setCtx_after
    | with_reducible apply State.transmit_after
    | with_reducible exact Within.mono ht rfl
    | exact RegIn.block ht (by decide) rfl
    | with_reducible apply AfterRoute.ite
    | split
    | (with_reducible intro _)
    | with_reducible apply AfterOut.ofNext
    | with_reducible apply AfterOpt.ofSome
    | with_reducible exact AfterOpt.ofNone
    | (with_reducible refine After.ofPair (by assumption) ?_)
    | (with_reducible refine After.ofTriple (by assumption) ?_)
    | (with_reducible refine After.ofOpt (by assumption) ?_)
    | with_reducible apply AfterSome.ofSome
    | with_reducible apply AfterRoute.ofSome
    | with_reducible exact AfterRoute.ofNone
    | with_reducible exact AfterSome.ofNone
    | with_reducible apply AfterEx.ofOk
    | with_reducible exact AfterEx.ofError
    | (with_reducible refine After.ofSealed (by assumption) ?_)
    | (with_reducible refine After.ofOkPair (by assumption) ?_)
    | (with_reducible refine After.ofOk (by assumption) ?_)
    | with_reducible apply After.fold

theorem State.respond_after {b T} (x0) (x1) (x2) (x3) (x4) (x5) (ht : Within 0x40040111002001 T) (h1 : After T b x0) :
    After T b (@State.respond x0 x1 x2 x3 x4 x5) := by
  unfold State.respond
  try dsimp only
  repeat' first
    | with_reducible assumption
    | with_reducible apply State.directCompletion_after
    | with_reducible apply State.emit_after
    | with_reducible apply State.queueResponse_after
    | with_reducible exact Within.mono ht rfl
    | exact RegIn.block ht (by decide) rfl
    | with_reducible apply AfterRoute.ite
    | split
    | (with_reducible intro _)
    | with_reducible apply AfterOut.ofNext
    | with_reducible apply AfterOpt.ofSome
    | with_reducible exact AfterOpt.ofNone
    | (with_reducible refine After.ofPair (by assumption) ?_)
    | (with_reducible refine After.ofTriple (by assumption) ?_)
    | (with_reducible refine After.ofOpt (by assumption) ?_)
    | with_reducible apply AfterSome.ofSome
    | with_reducible apply AfterRoute.ofSome
    | with_reducible exact AfterRoute.ofNone
    | with_reducible exact AfterSome.ofNone
    | with_reducible apply AfterEx.ofOk
    | with_reducible exact AfterEx.ofError
    | (with_reducible refine After.ofSealed (by assumption) ?_)
    | (with_reducible refine After.ofOkPair (by assumption) ?_)
    | (with_reducible refine After.ofOk (by assumption) ?_)
    | with_reducible apply After.fold

theorem State.sendData_after {b T} (x0) (x1) (x2) (ht : Within 0x40040110002000 T) (h1 : After T b x0) :
    After T b (@State.sendData x0 x1 x2) := by
  unfold State.sendData
  try dsimp only
  repeat' first
    | with_reducible assumption
    | with_reducible apply State.writeTlps_after
    | with_reducible apply State.emit_after
    | with_reducible apply State.transmit_after
    | with_reducible exact Within.mono ht rfl
    | exact RegIn.block ht (by decide) rfl
    | with_reducible apply AfterRoute.ite
    | split
    | (with_reducible intro _)
    | with_reducible apply AfterOut.ofNext
    | with_reducible apply AfterOpt.ofSome
    | with_reducible exact AfterOpt.ofNone
    | (with_reducible refine After.ofPair (by assumption) ?_)
    | (with_reducible refine After.ofTriple (by assumption) ?_)
    | (with_reducible refine After.ofOpt (by assumption) ?_)
    | with_reducible apply AfterSome.ofSome
    | with_reducible apply AfterRoute.ofSome
    | with_reducible exact AfterRoute.ofNone
    | with_reducible exact AfterSome.ofNone
    | with_reducible apply AfterEx.ofOk
    | with_reducible exact AfterEx.ofError
    | (with_reducible refine After.ofSealed (by assumption) ?_)
    | (with_reducible refine After.ofOkPair (by assumption) ?_)
    | (with_reducible refine After.ofOk (by assumption) ?_)
    | with_reducible apply After.fold

end Sys2Proof.Machine
end

