-- ==== Sys2Proof/Laws/After/Operands.lean ====
section
/-! SUPPORT. What the operations of Operands keep (Laws/After.lean). -/

set_option Elab.async false
set_option linter.all false

namespace Sys2Proof.Machine

theorem State.offAccess_after {b T} (x0) (x1) (x2) (ht : Within 0x1000000000000 T) (h1 : After T b x0) :
    After T b (@State.offAccess x0 x1 x2) := by
  unfold State.offAccess
  try dsimp only
  repeat' first
    | with_reducible assumption
    | with_reducible apply State.wr_after
    | with_reducible apply State.wrs_after
    | with_reducible apply State.count_after
    | with_reducible exact Within.mono ht rfl
    | exact RegIn.block ht (by decide) rfl
    | with_reducible apply FieldsIn.cons
    | with_reducible exact FieldsIn.nil
    | with_reducible apply AfterRoute.ite
    | split

theorem State.queueRwm_after {b T} (x0) (x1) (x2) (ht : Within 0x2 T) (h1 : After T b x0) :
    After T b (@State.queueRwm x0 x1 x2) := by
  unfold State.queueRwm
  try dsimp only
  repeat' first
    | with_reducible assumption
    | with_reducible apply State.onRwm_after

theorem writtenPart_addr (h : RegHit) (base : Nat) (f : FieldRow) (v : Nat) : (writtenPart h base f v).1.addr = base := by
  unfold writtenPart
  split
  · split <;> rfl
  · rfl

theorem State.writeField_after {b T} (x0) (x1) (x2) (x3) (x4) (hr : RegIn x2 T) (ht : Within 0x2 T) (h1 : After T b x0) :
    After T b (@State.writeField x0 x1 x2 x3 x4) := by
  have r : RegIn (writtenPart x1 x2 x3 x4).1.addr T := (writtenPart_addr x1 x2 x3 x4).symm ▸ hr
  unfold State.writeField
  generalize writtenPart x1 x2 x3 x4 = p at r
  obtain ⟨fl, x⟩ := p
  dsimp only at r ⊢
  split
  · exact h1
  split
  · exact h1
  · exact h1
  · exact h1
  · exact h1
  · split
    · exact State.wr_after _ _ _ r h1
    · exact h1
  · split
    · exact State.queueRwm_after _ _ _ (ht.mono rfl) h1
    · exact h1
  · exact State.wr_after _ _ _ r h1
  · exact State.wr_after _ _ _ r h1

theorem State.wallWritten_after {b T} (x0) (x1) (ht : Within 0x2000000020000 T) (h1 : After T b x0) :
    After T b (@State.wallWritten x0 x1) := by
  unfold State.wallWritten
  try dsimp only
  repeat' first
    | with_reducible assumption
    | with_reducible apply State.onWall_after
    | with_reducible apply State.wr_after
    | with_reducible exact Within.mono ht rfl
    | exact RegIn.block ht (by decide) rfl
    | with_reducible apply AfterRoute.ite
    | split

theorem State.writeFields_after {b T} (x0) (x1 : RegHit) (x2) (x3) (hr : RegIn x2 T) (ht : Within 0x60000000000002 T)
    (hw : x1.block = 5 → Within 0x2000000020000 T) (h1 : After T b x0) : After T b (@State.writeFields x0 x1 x2 x3) := by
  unfold State.writeFields
  split
  · exact h1
  extract_lets t
  have h2 : After T b t := After.fold h1 fun s f h => State.writeField_after _ _ _ _ _ hr (ht.mono rfl) h
  split
  · exact State.wr_after _ _ _ (RegIn.block ht (by decide) rfl) h2
  split
  · exact State.wr_after _ _ _ (RegIn.block ht (by decide) rfl) h2
  split
  · rename_i e
    exact State.wallWritten_after _ _ (hw (eq_of_beq e)) h2
  · exact h2

theorem State.deniedWrite_after {b T} (x0) (x1) (x2) (x3) (x4) (ht : Within 0x603400110000c0 T) (h1 : After T b x0) :
    After T b (@State.deniedWrite x0 x1 x2 x3 x4) := by
  unfold State.deniedWrite
  try dsimp only
  repeat' first
    | with_reducible assumption
    | with_reducible apply State.fault_after
    | with_reducible exact Within.mono ht rfl
    | with_reducible apply AfterRoute.ite
    | split

theorem State.notePairWrite_after {b T} (x0) (x1) (x2) (x3) (x4) (ht : Within 0x8 T) (h1 : After T b x0) :
    After T b (@State.notePairWrite x0 x1 x2 x3 x4) := by
  unfold State.notePairWrite
  try dsimp only
  repeat' first
    | with_reducible assumption
    | with_reducible apply State.onLowWord_after
    | with_reducible exact Within.mono ht rfl
    | with_reducible apply AfterRoute.ite
    | split

theorem State.applyWrite_after {b T} (x0) (x1) (x2) (x3) (ht : Within 0x7ffffff10200ca T) (h1 : After T b x0) :
    After T b (@State.applyWrite x0 x1 x2 x3) := by
  unfold State.applyWrite
  try dsimp only
  repeat' first
    | with_reducible assumption
    | with_reducible apply State.emit_after
    | with_reducible apply State.count_after
    | with_reducible apply State.deniedWrite_after
    | with_reducible apply State.notePairWrite_after
    | with_reducible apply State.writeFields_after
    | with_reducible exact Within.mono ht rfl
    | exact RegIn.block ht (by decide) rfl
    | exact RegIn.all ht rfl
    | with_reducible apply AfterRoute.ite
    | split
    | (with_reducible intro _)

theorem State.unassignedAccess_after {b T} (x0) (x1) (x2) (x3) (ht : Within 0x603400110000c0 T) (h1 : After T b x0) :
    After T b (@State.unassignedAccess x0 x1 x2 x3) := by
  unfold State.unassignedAccess
  try dsimp only
  repeat' first
    | with_reducible assumption
    | with_reducible apply State.emit_after
    | with_reducible apply State.fault_after
    | with_reducible exact Within.mono ht rfl
    | exact RegIn.block ht (by decide) rfl
    | with_reducible apply AfterRoute.ite
    | split
    | (with_reducible intro _)
    | with_reducible apply AfterOut.ofNext
    | with_reducible apply AfterOpt.ofSome
    | with_reducible exact AfterOpt.ofNone
    | (with_reducible refine After.ofPair (by assumption) ?_)
    | (with_reducible refine After.ofTriple (by assumption) ?_)
    | (with_reducible refine After.ofOpt (by assumption) ?_)
    | with_reducible apply AfterSome.ofSome
    | with_reducible apply AfterRoute.ofSome
    | with_reducible exact AfterRoute.ofNone
    | with_reducible exact AfterSome.ofNone
    | with_reducible apply AfterEx.ofOk
    | with_reducible exact AfterEx.ofError
    | (with_reducible refine After.ofSealed (by assumption) ?_)
    | (with_reducible refine After.ofOkPair (by assumption) ?_)
    | (with_reducible refine After.ofOk (by assumption) ?_)
    | with_reducible apply After.fold

theorem State.writeRegister_after {b T} (x0) (x1) (x2) (x3) (x4) (ht : Within 0x7ffffff10200ca T) (h1 : After T b x0) :
    After T b (@State.writeRegister x0 x1 x2 x3 x4) := by
  unfold State.writeRegister
  try dsimp only
  repeat' first
    | with_reducible assumption
    | with_reducible apply State.emit_after
    | with_reducible apply State.unassignedAccess_after
    | with_reducible apply State.offAccess_after
    | with_reducible apply State.applyWrite_after
    | with_reducible apply State.deniedWrite_after
    | with_reducible exact Within.mono ht rfl
    | exact RegIn.block ht (by decide) rfl
    | with_reducible apply AfterRoute.ite
    | split
    | (with_reducible intro _)
    | with_reducible apply AfterOut.ofNext
    | with_reducible apply AfterOpt.ofSome
    | with_reducible exact AfterOpt.ofNone
    | (with_reducible refine After.ofPair (by assumption) ?_)
    | (with_reducible refine After.ofTriple (by assumption) ?_)
    | (with_reducible refine After.ofOpt (by assumption) ?_)
    | with_reducible apply AfterSome.ofSome
    | with_reducible apply AfterRoute.ofSome
    | with_reducible exact AfterRoute.ofNone
    | with_reducible exact AfterSome.ofNone
    | with_reducible apply AfterEx.ofOk
    | with_reducible exact AfterEx.ofError
    | (with_reducible refine After.ofSealed (by assumption) ?_)
    | (with_reducible refine After.ofOkPair (by assumption) ?_)
    | (with_reducible refine After.ofOk (by assumption) ?_)
    | with_reducible apply After.fold

theorem State.clearOnRead_after {b T} (x0) (x1) (x2) (ht : Within 0x7fffffe0000000 T) (h1 : After T b x0) :
    After T b (@State.clearOnRead x0 x1 x2) := by
  unfold State.clearOnRead
  exact After.fold h1 fun s f h => After.ite (State.wr_after _ _ _ (RegIn.all ht rfl) h) h

theorem State.readReg_after {b T} (x0) (x1) (x2) (ht : Within 0x7fffffe0000004 T) (h1 : After T b x0) :
    After T b (Prod.snd ((@State.readReg x0 x1 x2))) := by
  unfold State.readReg
  try dsimp only
  repeat' first
    | with_reducible assumption
    | with_reducible apply State.onHiLatch_after
    | with_reducible apply State.clearOnRead_after
    | with_reducible exact Within.mono ht rfl
    | with_reducible apply AfterRoute.ite
    | split

theorem State.readRegister_after {b T} (x0) (x1) (x2) (x3) (ht : Within 0x7ffffff10000c4 T) (h1 : After T b x0) :
    After T b (@State.readRegister x0 x1 x2 x3) := by
  unfold State.readRegister
  try dsimp only
  repeat' first
    | with_reducible assumption
    | with_reducible apply State.emit_after
    | with_reducible apply State.unassignedAccess_after
    | with_reducible apply State.offAccess_after
    | with_reducible apply State.readReg_after
    | with_reducible apply State.deniedWrite_after
    | with_reducible exact Within.mono ht rfl
    | exact RegIn.block ht (by decide) rfl
    | with_reducible apply AfterRoute.ite
    | split
    | (with_reducible intro _)
    | with_reducible apply AfterOut.ofNext
    | with_reducible apply AfterOpt.ofSome
    | with_reducible exact AfterOpt.ofNone
    | (with_reducible refine After.ofPair (by assumption) ?_)
    | (with_reducible refine After.ofTriple (by assumption) ?_)
    | (with_reducible refine After.ofOpt (by assumption) ?_)
    | with_reducible apply AfterSome.ofSome
    | with_reducible apply AfterRoute.ofSome
    | with_reducible exact AfterRoute.ofNone
    | with_reducible exact AfterSome.ofNone
    | with_reducible apply AfterEx.ofOk
    | with_reducible exact AfterEx.ofError
    | (with_reducible refine After.ofSealed (by assumption) ?_)
    | (with_reducible refine After.ofOkPair (by assumption) ?_)
    | (with_reducible refine After.ofOk (by assumption) ?_)
    | with_reducible apply After.fold

end Sys2Proof.Machine
end

