-- ==== Sys2Proof/Laws/After/Flags.lean ====
section
/-! SUPPORT. What the operations of Flags keep (Laws/After.lean). -/

set_option Elab.async false
set_option linter.all false

namespace Sys2Proof.Machine

theorem State.flagFault_after {b T} (x0) (x1) (x2) (x3) (x4) (x5) (hr : RegIn x1.addr T) (ht : Within 0x603400110000c0 T) (h1 : After T b x0) :
    After T b (@State.flagFault x0 x1 x2 x3 x4 x5) := by
  unfold State.flagFault
  try dsimp only
  repeat' first
    | with_reducible assumption
    | with_reducible apply State.wr_after
    | with_reducible apply State.fault_after

theorem State.plainFault_after {b T} (x0) (x1) (x2) (x3) (x4) (ht : Within 0x603400110000c0 T) (h1 : After T b x0) :
    After T b (@State.plainFault x0 x1 x2 x3 x4) := by
  unfold State.plainFault
  try dsimp only
  repeat' first
    | with_reducible assumption
    | with_reducible apply State.fault_after

theorem State.missedTarget_after {b T} (x0) (x1) (ht : Within 0x603400910000c0 T) (h1 : After T b x0) :
    After T b (@State.missedTarget x0 x1) := by
  unfold State.missedTarget
  try dsimp only
  repeat' first
    | with_reducible assumption
    | with_reducible apply State.flagFault_after
    | with_reducible exact Within.mono ht rfl
    | exact RegIn.block ht (by decide) rfl

theorem findRow_high {n i off : Nat} : ∀ {l : List RegRow} {h : RegHit}, findRow n i off l = some h →
    h.block = n ∧ (h.high = true → 4 ≤ off) := by
  have word : ∀ {w : Bool} {r : Nat}, wordOf w r = some true → 4 ≤ r := fun {w r} e => by
    unfold wordOf at e
    split at e
    · cases e
    · split at e
      · rename_i g
        simp only [Bool.and_eq_true, beq_iff_eq] at g
        omega
      · cases e
  intro l
  induction l with
  | nil => exact fun e => nomatch e
  | cons r l ih =>
    intro h e
    unfold findRow at e
    split at e
    · rename_i i j k g
      injection e with e
      subst e
      refine ⟨rfl, fun d => ?_⟩
      dsimp only at d
      subst d
      unfold RegRow.find at g
      split at g
      · cases g
      split at g
      · rw [Option.map_eq_some_iff] at g
        obtain ⟨x, y, z⟩ := g
        cases z
        have := word y
        omega
      · split at g
        · rw [Option.map_eq_some_iff] at g
          obtain ⟨x, y, z⟩ := g
          cases z
          have := Nat.le_trans (word y) (Nat.mod_le _ _)
          omega
        · cases g
      · split at g
        · rw [Option.map_eq_some_iff] at g
          obtain ⟨x, y, z⟩ := g
          cases z
          have := Nat.le_trans (Nat.le_trans (word y) (Nat.mod_le _ _)) (Nat.mod_le _ _)
          omega
        · cases g
    · exact ih e

theorem low_div {x : Nat} (h : 4 ≤ x % 0x10000) : (x - 4) / 0x10000 = x / 0x10000 := by omega

theorem low_mod {a : Nat} (h : 0x00F000000000 ≤ a) : (a - 0x00F000000000) % 0x10000 = a % 0x10000 := by omega

theorem home_low {a : Nat} (h : 0x00F000000000 ≤ a) (k : 4 ≤ a % 0x10000) : 0x00F000000000 ≤ a - 4 := by
  have := low_mod h
  omega

theorem home_div {a : Nat} (h : 0x00F000000000 ≤ a) (k : 4 ≤ a % 0x10000) :
    (a - 4 - 0x00F000000000) / 0x10000 = (a - 0x00F000000000) / 0x10000 := by
  rw [Nat.sub_right_comm]
  exact low_div (by rw [low_mod h]; exact k)

/-- The register at an address is of the address's block, and so is its home. -/
theorem findReg_home {a : Nat} {h : RegHit} (e : findReg a = some h) :
    blockNumber a = some h.block ∧ blockNumber (h.base a) = blockNumber a := by
  unfold findReg at e
  split at e
  · rename_i n g
    split at e
    · obtain ⟨k, l⟩ := findRow_high e
      refine ⟨k ▸ g, ?_⟩
      unfold RegHit.base
      split
      · rename_i d
        have m := l d
        rw [g]
        unfold blockOffset at m
        unfold blockNumber at g ⊢
        split at g
        · injection g with g
          rename_i w
          rw [if_pos ⟨home_low w.1 m, Nat.lt_of_le_of_lt (Nat.sub_le a 4) w.2⟩, home_div w.1 m, g]
        · cases g
      · rfl
    · cases e
  · cases e

theorem State.commandWrite_after {b T} (x0) (x1) (x2) (x3) (x4) (ht : Within 0x613400110000ca T) (hr : RegIn x2 T)
    (hw : blockNumber x2 = some 5 → Within 0x2000000020000 T) (h1 : After T b x0) (h5 : ∀ y0, After T b y0 → After T b (x4 y0)) :
    After T b (@State.commandWrite x0 x1 x2 x3 x4) := by
  unfold State.commandWrite
  split
  · exact State.emit_after _ _ h1
  · exact State.unassignedAccess_after _ _ _ _ (ht.mono rfl) h1
  · exact State.emit_after _ _ (State.offAccess_after _ _ _ (ht.mono rfl) h1)
  split
  · exact State.emit_after _ _ h1
  rename_i h e
  obtain ⟨k, l⟩ := findReg_home e
  split
  · refine State.emit_after _ _ (State.notePairWrite_after _ _ _ _ _ (ht.mono rfl) (h5 _ (State.writeFields_after _ _ _ _ ?_ (ht.mono rfl) ?_ h1)))
    · unfold RegIn regMask at hr ⊢
      rw [l]
      exact hr
    · exact fun g => hw (g ▸ k)
  · exact State.emit_after _ _ (State.deniedWrite_after _ _ _ _ _ (ht.mono rfl) h1)

end Sys2Proof.Machine
end

