-- ==== Sys2Proof/Laws/After/Stripes.lean ====
section
/-! SUPPORT. What the operations of Stripes keep (Laws/After.lean). -/

set_option Elab.async false
set_option linter.all false

namespace Sys2Proof.Machine

theorem State.touchPage_after {b T} (x0) (x1) (x2) (x3) (ht : Within 0x4000000800 T) (h1 : After T b x0) :
    After T b (@State.touchPage x0 x1 x2 x3) := by
  unfold State.touchPage
  try dsimp only
  repeat' first
    | with_reducible assumption
    | with_reducible apply State.wr_after
    | with_reducible apply State.onEnergy_after
    | with_reducible exact Within.mono ht rfl
    | exact RegIn.block ht (by decide) rfl
    | with_reducible apply AfterRoute.ite
    | split

theorem State.writeMapBit_after {b T} (x0) (x1) (x2) (x3) (x4) (ht : Within 0x4000000c00 T) (h1 : After T b x0) :
    After T b (@State.writeMapBit x0 x1 x2 x3 x4) := by
  unfold State.writeMapBit
  try dsimp only
  repeat' first
    | with_reducible assumption
    | with_reducible apply State.onStore_after
    | with_reducible apply State.touchPage_after
    | with_reducible exact Within.mono ht rfl
    | exact RegIn.block ht (by decide) rfl
    | with_reducible apply AfterRoute.ite
    | split
    | (with_reducible intro _)
    | with_reducible apply AfterOut.ofNext
    | with_reducible apply AfterOpt.ofSome
    | with_reducible exact AfterOpt.ofNone
    | (with_reducible refine After.ofPair (by assumption) ?_)
    | (with_reducible refine After.ofTriple (by assumption) ?_)
    | (with_reducible refine After.ofOpt (by assumption) ?_)
    | with_reducible apply AfterSome.ofSome
    | with_reducible apply AfterRoute.ofSome
    | with_reducible exact AfterRoute.ofNone
    | with_reducible exact AfterSome.ofNone
    | with_reducible apply AfterEx.ofOk
    | with_reducible exact AfterEx.ofError
    | (with_reducible refine After.ofSealed (by assumption) ?_)
    | (with_reducible refine After.ofOkPair (by assumption) ?_)
    | (with_reducible refine After.ofOk (by assumption) ?_)
    | with_reducible apply After.fold

theorem State.showRebuild_after {b T} (x0) (x1) (ht : Within 0x1000000000 T) (h1 : After T b x0) :
    After T b (@State.showRebuild x0 x1) := by
  unfold State.showRebuild
  try dsimp only
  repeat' first
    | with_reducible assumption
    | with_reducible apply State.setReg_after
    | with_reducible apply State.wr_after
    | with_reducible exact Within.mono ht rfl
    | exact RegIn.block ht (by decide) rfl
    | with_reducible apply AfterRoute.ite
    | split
    | (with_reducible intro _)
    | with_reducible apply AfterOut.ofNext
    | with_reducible apply AfterOpt.ofSome
    | with_reducible exact AfterOpt.ofNone
    | (with_reducible refine After.ofPair (by assumption) ?_)
    | (with_reducible refine After.ofTriple (by assumption) ?_)
    | (with_reducible refine After.ofOpt (by assumption) ?_)
    | with_reducible apply AfterSome.ofSome
    | with_reducible apply AfterRoute.ofSome
    | with_reducible exact AfterRoute.ofNone
    | with_reducible exact AfterSome.ofNone
    | with_reducible apply AfterEx.ofOk
    | with_reducible exact AfterEx.ofError
    | (with_reducible refine After.ofSealed (by assumption) ?_)
    | (with_reducible refine After.ofOkPair (by assumption) ?_)
    | (with_reducible refine After.ofOk (by assumption) ?_)
    | with_reducible apply After.fold

theorem State.setRebuildBit_after {b T} (x0) (x1) (x2) (x3) (ht : Within 0x4000000c00 T) (h1 : After T b x0) :
    After T b (@State.setRebuildBit x0 x1 x2 x3) := by
  unfold State.setRebuildBit
  try dsimp only
  repeat' first
    | with_reducible assumption
    | with_reducible apply State.onStore_after
    | with_reducible apply State.touchPage_after
    | with_reducible exact Within.mono ht rfl
    | exact RegIn.block ht (by decide) rfl
    | with_reducible apply AfterRoute.ite
    | split
    | (with_reducible intro _)
    | with_reducible apply AfterOut.ofNext
    | with_reducible apply AfterOpt.ofSome
    | with_reducible exact AfterOpt.ofNone
    | (with_reducible refine After.ofPair (by assumption) ?_)
    | (with_reducible refine After.ofTriple (by assumption) ?_)
    | (with_reducible refine After.ofOpt (by assumption) ?_)
    | with_reducible apply AfterSome.ofSome
    | with_reducible apply AfterRoute.ofSome
    | with_reducible exact AfterRoute.ofNone
    | with_reducible exact AfterSome.ofNone
    | with_reducible apply AfterEx.ofOk
    | with_reducible exact AfterEx.ofError
    | (with_reducible refine After.ofSealed (by assumption) ?_)
    | (with_reducible refine After.ofOkPair (by assumption) ?_)
    | (with_reducible refine After.ofOk (by assumption) ?_)
    | with_reducible apply After.fold

theorem State.setRebuilt_after {b T} (x0) (x1) (x2) (ht : Within 0x4000000c00 T) (h1 : After T b x0) :
    After T b (@State.setRebuilt x0 x1 x2) := by
  unfold State.setRebuilt
  try dsimp only
  repeat' first
    | with_reducible assumption
    | with_reducible apply State.each_after
    | with_reducible apply State.setRebuildBit_after
    | with_reducible exact Within.mono ht rfl
    | exact RegIn.block ht (by decide) rfl
    | with_reducible apply AfterRoute.ite
    | split
    | (with_reducible intro _)
    | with_reducible apply AfterOut.ofNext
    | with_reducible apply AfterOpt.ofSome
    | with_reducible exact AfterOpt.ofNone
    | (with_reducible refine After.ofPair (by assumption) ?_)
    | (with_reducible refine After.ofTriple (by assumption) ?_)
    | (with_reducible refine After.ofOpt (by assumption) ?_)
    | with_reducible apply AfterSome.ofSome
    | with_reducible apply AfterRoute.ofSome
    | with_reducible exact AfterRoute.ofNone
    | with_reducible exact AfterSome.ofNone
    | with_reducible apply AfterEx.ofOk
    | with_reducible exact AfterEx.ofError
    | (with_reducible refine After.ofSealed (by assumption) ?_)
    | (with_reducible refine After.ofOkPair (by assumption) ?_)
    | (with_reducible refine After.ofOk (by assumption) ?_)
    | with_reducible apply After.fold

theorem State.clearRebuildBits_after {b T} (x0) (x1) (x2) (x3) (ht : Within 0x4000000c00 T) (h1 : After T b x0) :
    After T b (@State.clearRebuildBits x0 x1 x2 x3) := by
  unfold State.clearRebuildBits
  try dsimp only
  repeat' first
    | with_reducible assumption
    | with_reducible apply State.onStore_after
    | with_reducible apply State.each_after
    | with_reducible apply State.touchPage_after
    | with_reducible exact Within.mono ht rfl
    | exact RegIn.block ht (by decide) rfl
    | with_reducible apply AfterRoute.ite
    | split
    | (with_reducible intro _)
    | with_reducible apply AfterOut.ofNext
    | with_reducible apply AfterOpt.ofSome
    | with_reducible exact AfterOpt.ofNone
    | (with_reducible refine After.ofPair (by assumption) ?_)
    | (with_reducible refine After.ofTriple (by assumption) ?_)
    | (with_reducible refine After.ofOpt (by assumption) ?_)
    | with_reducible apply AfterSome.ofSome
    | with_reducible apply AfterRoute.ofSome
    | with_reducible exact AfterRoute.ofNone
    | with_reducible exact AfterSome.ofNone
    | with_reducible apply AfterEx.ofOk
    | with_reducible exact AfterEx.ofError
    | (with_reducible refine After.ofSealed (by assumption) ?_)
    | (with_reducible refine After.ofOkPair (by assumption) ?_)
    | (with_reducible refine After.ofOk (by assumption) ?_)
    | with_reducible apply After.fold

theorem State.skipRebuild_after {b T} (x0) (x1) (x2) (ht : Within 0x5000000c00 T) (h1 : After T b x0) :
    After T b (@State.skipRebuild x0 x1 x2) := by
  unfold State.skipRebuild
  try dsimp only
  repeat' first
    | with_reducible assumption
    | with_reducible apply State.showRebuild_after
    | with_reducible apply State.count_after
    | with_reducible apply State.setRebuilt_after
    | with_reducible exact Within.mono ht rfl
    | exact RegIn.block ht (by decide) rfl
    | with_reducible apply AfterRoute.ite
    | split
    | (with_reducible intro _)
    | with_reducible apply AfterOut.ofNext
    | with_reducible apply AfterOpt.ofSome
    | with_reducible exact AfterOpt.ofNone
    | (with_reducible refine After.ofPair (by assumption) ?_)
    | (with_reducible refine After.ofTriple (by assumption) ?_)
    | (with_reducible refine After.ofOpt (by assumption) ?_)
    | with_reducible apply AfterSome.ofSome
    | with_reducible apply AfterRoute.ofSome
    | with_reducible exact AfterRoute.ofNone
    | with_reducible exact AfterSome.ofNone
    | with_reducible apply AfterEx.ofOk
    | with_reducible exact AfterEx.ofError
    | (with_reducible refine After.ofSealed (by assumption) ?_)
    | (with_reducible refine After.ofOkPair (by assumption) ?_)
    | (with_reducible refine After.ofOk (by assumption) ?_)
    | with_reducible apply After.fold

theorem State.setMapBit_after {b T} (x0) (x1) (x2) (x3) (x4) (ht : Within 0x5000000c00 T) (h1 : After T b x0) :
    After T b (@State.setMapBit x0 x1 x2 x3 x4) := by
  unfold State.setMapBit
  try dsimp only
  repeat' first
    | with_reducible assumption
    | with_reducible apply State.writeMapBit_after
    | with_reducible apply State.skipRebuild_after
    | with_reducible exact Within.mono ht rfl
    | exact RegIn.block ht (by decide) rfl
    | with_reducible apply AfterRoute.ite
    | split
    | (with_reducible intro _)
    | with_reducible apply AfterOut.ofNext
    | with_reducible apply AfterOpt.ofSome
    | with_reducible exact AfterOpt.ofNone
    | (with_reducible refine After.ofPair (by assumption) ?_)
    | (with_reducible refine After.ofTriple (by assumption) ?_)
    | (with_reducible refine After.ofOpt (by assumption) ?_)
    | with_reducible apply AfterSome.ofSome
    | with_reducible apply AfterRoute.ofSome
    | with_reducible exact AfterRoute.ofNone
    | with_reducible exact AfterSome.ofNone
    | with_reducible apply AfterEx.ofOk
    | with_reducible exact AfterEx.ofError
    | (with_reducible refine After.ofSealed (by assumption) ?_)
    | (with_reducible refine After.ofOkPair (by assumption) ?_)
    | (with_reducible refine After.ofOk (by assumption) ?_)
    | with_reducible apply After.fold

theorem State.issue_after {b T} (x0) (x1) (x2) (x3) (x4) (x5) (x6) (x7) (x8) (x9) (x10) (x11) (ht : Within 0x40020010000400 T) (h1 : After T b x0) :
    After T b (@State.issue x0 x1 x2 x3 x4 x5 x6 x7 x8 x9 x10 x11) := by
  unfold State.issue
  try dsimp only
  repeat' first
    | with_reducible assumption
    | with_reducible apply State.postedTo_after
    | with_reducible apply State.emit_after
    | with_reducible apply State.count_after
    | with_reducible apply State.onStore_after
    | with_reducible exact Within.mono ht rfl
    | exact RegIn.block ht (by decide) rfl
    | exact RegIn.block ht (by omega) (by with_reducible exact blockMask_slt rfl)
    | with_reducible apply AfterRoute.ite
    | split
    | (with_reducible intro _)
    | with_reducible apply AfterOut.ofNext
    | with_reducible apply AfterOpt.ofSome
    | with_reducible exact AfterOpt.ofNone
    | (with_reducible refine After.ofPair (by assumption) ?_)
    | (with_reducible refine After.ofTriple (by assumption) ?_)
    | (with_reducible refine After.ofOpt (by assumption) ?_)
    | with_reducible apply AfterSome.ofSome
    | with_reducible apply AfterRoute.ofSome
    | with_reducible exact AfterRoute.ofNone
    | with_reducible exact AfterSome.ofNone
    | with_reducible apply AfterEx.ofOk
    | with_reducible exact AfterEx.ofError
    | (with_reducible refine After.ofSealed (by assumption) ?_)
    | (with_reducible refine After.ofOkPair (by assumption) ?_)
    | (with_reducible refine After.ofOk (by assumption) ?_)
    | with_reducible apply After.fold

theorem State.sendStripAt_after {b T} (x0) (x1) (x2) (x3) (x4) (x5) (x6) (x7) (x8) (x9) (x10) (ht : Within 0x40020010000400 T) (h1 : After T b x0) :
    After T b (@State.sendStripAt x0 x1 x2 x3 x4 x5 x6 x7 x8 x9 x10) := by
  unfold State.sendStripAt
  try dsimp only
  repeat' first
    | with_reducible assumption
    | with_reducible apply State.issue_after
    | with_reducible exact Within.mono ht rfl
    | exact RegIn.block ht (by decide) rfl
    | with_reducible apply AfterRoute.ite
    | split
    | (with_reducible intro _)
    | with_reducible apply AfterOut.ofNext
    | with_reducible apply AfterOpt.ofSome
    | with_reducible exact AfterOpt.ofNone
    | (with_reducible refine After.ofPair (by assumption) ?_)
    | (with_reducible refine After.ofTriple (by assumption) ?_)
    | (with_reducible refine After.ofOpt (by assumption) ?_)
    | with_reducible apply AfterSome.ofSome
    | with_reducible apply AfterRoute.ofSome
    | with_reducible exact AfterRoute.ofNone
    | with_reducible exact AfterSome.ofNone
    | with_reducible apply AfterEx.ofOk
    | with_reducible exact AfterEx.ofError
    | (with_reducible refine After.ofSealed (by assumption) ?_)
    | (with_reducible refine After.ofOkPair (by assumption) ?_)
    | (with_reducible refine After.ofOk (by assumption) ?_)
    | with_reducible apply After.fold

theorem State.sendMember_after {b T} (x0) (x1) (x2) (x3) (x4) (x5) (x6) (x7) (x8) (ht : Within 0x40020010000400 T) (h1 : After T b x0) :
    After T b (@State.sendMember x0 x1 x2 x3 x4 x5 x6 x7 x8) := by
  unfold State.sendMember
  try dsimp only
  repeat' first
    | with_reducible assumption
    | with_reducible apply State.sendStripAt_after
    | with_reducible exact Within.mono ht rfl
    | exact RegIn.block ht (by decide) rfl
    | with_reducible apply AfterRoute.ite
    | split
    | (with_reducible intro _)
    | with_reducible apply AfterOut.ofNext
    | with_reducible apply AfterOpt.ofSome
    | with_reducible exact AfterOpt.ofNone
    | (with_reducible refine After.ofPair (by assumption) ?_)
    | (with_reducible refine After.ofTriple (by assumption) ?_)
    | (with_reducible refine After.ofOpt (by assumption) ?_)
    | with_reducible apply AfterSome.ofSome
    | with_reducible apply AfterRoute.ofSome
    | with_reducible exact AfterRoute.ofNone
    | with_reducible exact AfterSome.ofNone
    | with_reducible apply AfterEx.ofOk
    | with_reducible exact AfterEx.ofError
    | (with_reducible refine After.ofSealed (by assumption) ?_)
    | (with_reducible refine After.ofOkPair (by assumption) ?_)
    | (with_reducible refine After.ofOk (by assumption) ?_)
    | with_reducible apply After.fold

theorem State.sendMemberAt_after {b T} (x0) (x1) (x2) (x3) (x4) (x5) (x6) (ht : Within 0x40020010000400 T) (h1 : After T b x0) :
    After T b (@State.sendMemberAt x0 x1 x2 x3 x4 x5 x6) := by
  unfold State.sendMemberAt
  try dsimp only
  repeat' first
    | with_reducible assumption
    | with_reducible apply State.issue_after
    | with_reducible exact Within.mono ht rfl
    | exact RegIn.block ht (by decide) rfl
    | with_reducible apply AfterRoute.ite
    | split
    | (with_reducible intro _)
    | with_reducible apply AfterOut.ofNext
    | with_reducible apply AfterOpt.ofSome
    | with_reducible exact AfterOpt.ofNone
    | (with_reducible refine After.ofPair (by assumption) ?_)
    | (with_reducible refine After.ofTriple (by assumption) ?_)
    | (with_reducible refine After.ofOpt (by assumption) ?_)
    | with_reducible apply AfterSome.ofSome
    | with_reducible apply AfterRoute.ofSome
    | with_reducible exact AfterRoute.ofNone
    | with_reducible exact AfterSome.ofNone
    | with_reducible apply AfterEx.ofOk
    | with_reducible exact AfterEx.ofError
    | (with_reducible refine After.ofSealed (by assumption) ?_)
    | (with_reducible refine After.ofOkPair (by assumption) ?_)
    | (with_reducible refine After.ofOk (by assumption) ?_)
    | with_reducible apply After.fold

theorem State.journalRecord_after {b T} (x0) (x1) (ht : Within 0x800000400 T) (h1 : After T b x0) :
    After T b (@State.journalRecord x0 x1) := by
  unfold State.journalRecord
  try dsimp only
  repeat' first
    | with_reducible assumption
    | with_reducible apply State.onStore_after
    | with_reducible apply State.wr_after
    | with_reducible exact Within.mono ht rfl
    | exact RegIn.block ht (by decide) rfl
    | with_reducible apply AfterRoute.ite
    | split
    | (with_reducible intro _)
    | with_reducible apply AfterOut.ofNext
    | with_reducible apply AfterOpt.ofSome
    | with_reducible exact AfterOpt.ofNone
    | (with_reducible refine After.ofPair (by assumption) ?_)
    | (with_reducible refine After.ofTriple (by assumption) ?_)
    | (with_reducible refine After.ofOpt (by assumption) ?_)
    | with_reducible apply AfterSome.ofSome
    | with_reducible apply AfterRoute.ofSome
    | with_reducible exact AfterRoute.ofNone
    | with_reducible exact AfterSome.ofNone
    | with_reducible apply AfterEx.ofOk
    | with_reducible exact AfterEx.ofError
    | (with_reducible refine After.ofSealed (by assumption) ?_)
    | (with_reducible refine After.ofOkPair (by assumption) ?_)
    | (with_reducible refine After.ofOk (by assumption) ?_)
    | with_reducible apply After.fold

theorem State.onStripe_after {b T} (x0) (x1) (x2) (x3) (ht : Within 0x400 T) (h1 : After T b x0) :
    After T b (@State.onStripe x0 x1 x2 x3) := by
  unfold State.onStripe
  try dsimp only
  repeat' first
    | with_reducible assumption
    | with_reducible apply State.onStore_after

theorem State.showOpen_after {b T} (x0) (ht : Within 0x800000000 T) (h1 : After T b x0) :
    After T b (@State.showOpen x0) := by
  unfold State.showOpen
  try dsimp only
  repeat' first
    | with_reducible assumption
    | with_reducible apply State.wrs_after
    | with_reducible exact Within.mono ht rfl
    | exact RegIn.block ht (by decide) rfl
    | with_reducible apply FieldsIn.cons
    | with_reducible exact FieldsIn.nil
    | with_reducible apply AfterRoute.ite
    | split
    | (with_reducible intro _)
    | with_reducible apply AfterOut.ofNext
    | with_reducible apply AfterOpt.ofSome
    | with_reducible exact AfterOpt.ofNone
    | (with_reducible refine After.ofPair (by assumption) ?_)
    | (with_reducible refine After.ofTriple (by assumption) ?_)
    | (with_reducible refine After.ofOpt (by assumption) ?_)
    | with_reducible apply AfterSome.ofSome
    | with_reducible apply AfterRoute.ofSome
    | with_reducible exact AfterRoute.ofNone
    | with_reducible exact AfterSome.ofNone
    | with_reducible apply AfterEx.ofOk
    | with_reducible exact AfterEx.ofError
    | (with_reducible refine After.ofSealed (by assumption) ?_)
    | (with_reducible refine After.ofOkPair (by assumption) ?_)
    | (with_reducible refine After.ofOk (by assumption) ?_)
    | with_reducible apply After.fold

theorem State.showDirty_after {b T} (x0) (ht : Within 0x4000000000 T) (h1 : After T b x0) :
    After T b (@State.showDirty x0) := by
  unfold State.showDirty
  try dsimp only
  repeat' first
    | with_reducible assumption
    | with_reducible apply State.wrs_after
    | with_reducible exact Within.mono ht rfl
    | exact RegIn.block ht (by decide) rfl
    | with_reducible apply FieldsIn.cons
    | with_reducible exact FieldsIn.nil

theorem State.abandonRecoveries_after {b T} (x0) (x1) (ht : Within 0x603400190000c0 T) (h1 : After T b x0) :
    After T b (@State.abandonRecoveries x0 x1) := by
  unfold State.abandonRecoveries
  try dsimp only
  repeat' first
    | with_reducible assumption
    | with_reducible apply State.each_after
    | with_reducible apply State.integrityFault_after
    | with_reducible apply State.onIntegrity_after
    | with_reducible exact Within.mono ht rfl
    | exact RegIn.block ht (by decide) rfl
    | with_reducible apply AfterRoute.ite
    | split
    | (with_reducible intro _)
    | with_reducible apply AfterOut.ofNext
    | with_reducible apply AfterOpt.ofSome
    | with_reducible exact AfterOpt.ofNone
    | (with_reducible refine After.ofPair (by assumption) ?_)
    | (with_reducible refine After.ofTriple (by assumption) ?_)
    | (with_reducible refine After.ofOpt (by assumption) ?_)
    | with_reducible apply AfterSome.ofSome
    | with_reducible apply AfterRoute.ofSome
    | with_reducible exact AfterRoute.ofNone
    | with_reducible exact AfterSome.ofNone
    | with_reducible apply AfterEx.ofOk
    | with_reducible exact AfterEx.ofError
    | (with_reducible refine After.ofSealed (by assumption) ?_)
    | (with_reducible refine After.ofOkPair (by assumption) ?_)
    | (with_reducible refine After.ofOk (by assumption) ?_)
    | with_reducible apply After.fold

theorem State.freeCopies_after {b T} (x0) (ht : Within 0x60344019000cc0 T) (h1 : After T b x0) :
    After T b (@State.freeCopies x0) := by
  unfold State.freeCopies
  try dsimp only
  repeat' first
    | with_reducible assumption
    | with_reducible apply State.abandonRecoveries_after
    | with_reducible apply State.showDirty_after
    | with_reducible apply State.onEnergy_after
    | with_reducible apply State.onStore_after
    | with_reducible exact Within.mono ht rfl
    | exact RegIn.block ht (by decide) rfl
    | with_reducible apply AfterRoute.ite
    | split
    | (with_reducible intro _)
    | with_reducible apply AfterOut.ofNext
    | with_reducible apply AfterOpt.ofSome
    | with_reducible exact AfterOpt.ofNone
    | (with_reducible refine After.ofPair (by assumption) ?_)
    | (with_reducible refine After.ofTriple (by assumption) ?_)
    | (with_reducible refine After.ofOpt (by assumption) ?_)
    | with_reducible apply AfterSome.ofSome
    | with_reducible apply AfterRoute.ofSome
    | with_reducible exact AfterRoute.ofNone
    | with_reducible exact AfterSome.ofNone
    | with_reducible apply AfterEx.ofOk
    | with_reducible exact AfterEx.ofError
    | (with_reducible refine After.ofSealed (by assumption) ?_)
    | (with_reducible refine After.ofOkPair (by assumption) ?_)
    | (with_reducible refine After.ofOk (by assumption) ?_)
    | with_reducible apply After.fold

theorem State.postCopy_after {b T} (x0) (x1) (ht : Within 0x40020010000400 T) (h1 : After T b x0) :
    After T b (@State.postCopy x0 x1) := by
  unfold State.postCopy
  try dsimp only
  repeat' first
    | with_reducible assumption
    | with_reducible apply State.onStore_after
    | with_reducible apply State.sendStripAt_after
    | with_reducible exact Within.mono ht rfl
    | exact RegIn.block ht (by decide) rfl
    | with_reducible apply AfterRoute.ite
    | split
    | (with_reducible intro _)
    | with_reducible apply AfterOut.ofNext
    | with_reducible apply AfterOpt.ofSome
    | with_reducible exact AfterOpt.ofNone
    | (with_reducible refine After.ofPair (by assumption) ?_)
    | (with_reducible refine After.ofTriple (by assumption) ?_)
    | (with_reducible refine After.ofOpt (by assumption) ?_)
    | with_reducible apply AfterSome.ofSome
    | with_reducible apply AfterRoute.ofSome
    | with_reducible exact AfterRoute.ofNone
    | with_reducible exact AfterSome.ofNone
    | with_reducible apply AfterEx.ofOk
    | with_reducible exact AfterEx.ofError
    | (with_reducible refine After.ofSealed (by assumption) ?_)
    | (with_reducible refine After.ofOkPair (by assumption) ?_)
    | (with_reducible refine After.ofOk (by assumption) ?_)
    | with_reducible apply After.fold

theorem State.writeParity_after {b T} (x0) (x1) (x2) (x3) (ht : Within 0x40020010000400 T) (h1 : After T b x0) :
    After T b (@State.writeParity x0 x1 x2 x3) := by
  unfold State.writeParity
  try dsimp only
  repeat' first
    | with_reducible assumption
    | with_reducible apply State.each_after
    | with_reducible apply State.sendMember_after
    | with_reducible exact Within.mono ht rfl
    | with_reducible apply AfterRoute.ite
    | split
    | (with_reducible intro _)

theorem State.postParity_after {b T} (x0) (x1) (x2) (ht : Within 0x40020010000400 T) (h1 : After T b x0) :
    After T b (@State.postParity x0 x1 x2) := by
  unfold State.postParity
  try dsimp only
  repeat' first
    | with_reducible assumption
    | with_reducible apply State.each_after
    | with_reducible apply State.writeParity_after
    | with_reducible apply State.onStripe_after
    | with_reducible exact Within.mono ht rfl
    | with_reducible apply AfterRoute.ite
    | split
    | (with_reducible intro _)

theorem State.postReady_after {b T} (x0) (x1) (x2) (ht : Within 0x40020010000400 T) (h1 : After T b x0) :
    After T b (@State.postReady x0 x1 x2) := by
  unfold State.postReady
  try dsimp only
  repeat' first
    | with_reducible assumption
    | with_reducible apply State.postParity_after
    | with_reducible apply State.postCopy_after
    | with_reducible exact Within.mono ht rfl
    | with_reducible apply AfterRoute.ite
    | split
    | (with_reducible intro _)
    | with_reducible apply AfterOut.ofNext
    | with_reducible apply AfterOpt.ofSome
    | with_reducible exact AfterOpt.ofNone
    | (with_reducible refine After.ofPair (by assumption) ?_)
    | (with_reducible refine After.ofTriple (by assumption) ?_)
    | (with_reducible refine After.ofOpt (by assumption) ?_)
    | with_reducible apply AfterSome.ofSome
    | with_reducible apply AfterRoute.ofSome
    | with_reducible exact AfterRoute.ofNone
    | with_reducible exact AfterSome.ofNone
    | with_reducible apply AfterEx.ofOk
    | with_reducible exact AfterEx.ofError
    | (with_reducible refine After.ofSealed (by assumption) ?_)
    | (with_reducible refine After.ofOkPair (by assumption) ?_)
    | (with_reducible refine After.ofOk (by assumption) ?_)
    | with_reducible apply After.fold

theorem State.startJob_after {b T} (x0) (x1) (x2) (x3) (x4) (x5) (x6) (ht : Within 0x40020010000400 T) (h1 : After T b x0) :
    After T b (@State.startJob x0 x1 x2 x3 x4 x5 x6) := by
  unfold State.startJob
  try dsimp only
  repeat' first
    | with_reducible assumption
    | with_reducible apply State.onStore_after
    | with_reducible apply State.each_after
    | with_reducible apply State.sendMember_after
    | with_reducible exact Within.mono ht rfl
    | with_reducible apply AfterRoute.ite
    | split
    | (with_reducible intro _)

theorem State.countClose_after {b T} (x0) (x1) (x2) (x3) (x4) (ht : Within 0x800000000 T) (h1 : After T b x0) :
    After T b (@State.countClose x0 x1 x2 x3 x4) := by
  unfold State.countClose
  try dsimp only
  repeat' first
    | with_reducible assumption
    | with_reducible apply State.count_after
    | with_reducible exact Within.mono ht rfl
    | exact RegIn.block ht (by decide) rfl
    | with_reducible apply AfterRoute.ite
    | split
    | (with_reducible intro _)
    | with_reducible apply AfterOut.ofNext
    | with_reducible apply AfterOpt.ofSome
    | with_reducible exact AfterOpt.ofNone
    | (with_reducible refine After.ofPair (by assumption) ?_)
    | (with_reducible refine After.ofTriple (by assumption) ?_)
    | (with_reducible refine After.ofOpt (by assumption) ?_)
    | with_reducible apply AfterSome.ofSome
    | with_reducible apply AfterRoute.ofSome
    | with_reducible exact AfterRoute.ofNone
    | with_reducible exact AfterSome.ofNone
    | with_reducible apply AfterEx.ofOk
    | with_reducible exact AfterEx.ofError
    | (with_reducible refine After.ofSealed (by assumption) ?_)
    | (with_reducible refine After.ofOkPair (by assumption) ?_)
    | (with_reducible refine After.ofOk (by assumption) ?_)
    | with_reducible apply After.fold

theorem State.rowParity_after {b T} (x0) (x1) (x2) (x3) (ht : Within 0x40020010000400 T) (h1 : After T b x0) :
    After T b (@State.rowParity x0 x1 x2 x3) := by
  unfold State.rowParity
  try dsimp only
  repeat' first
    | with_reducible assumption
    | with_reducible apply State.postReady_after
    | with_reducible apply State.onStripe_after
    | with_reducible exact Within.mono ht rfl

theorem State.closeStripe_after {b T} (x0) (x1) (x2) (ht : Within 0x40020810000400 T) (h1 : After T b x0) :
    After T b (@State.closeStripe x0 x1 x2) := by
  unfold State.closeStripe
  try dsimp only
  repeat' first
    | with_reducible assumption
    | with_reducible apply State.onStripe_after
    | with_reducible apply State.journalRecord_after
    | with_reducible apply State.event_after
    | with_reducible apply State.showOpen_after
    | with_reducible apply State.each_after
    | with_reducible apply State.countClose_after
    | with_reducible apply State.rowParity_after
    | with_reducible apply State.startJob_after
    | with_reducible exact Within.mono ht rfl
    | exact RegIn.block ht (by decide) rfl
    | with_reducible apply AfterRoute.ite
    | split
    | (with_reducible intro _)
    | with_reducible apply AfterOut.ofNext
    | with_reducible apply AfterOpt.ofSome
    | with_reducible exact AfterOpt.ofNone
    | (with_reducible refine After.ofPair (by assumption) ?_)
    | (with_reducible refine After.ofTriple (by assumption) ?_)
    | (with_reducible refine After.ofOpt (by assumption) ?_)
    | with_reducible apply AfterSome.ofSome
    | with_reducible apply AfterRoute.ofSome
    | with_reducible exact AfterRoute.ofNone
    | with_reducible exact AfterSome.ofNone
    | with_reducible apply AfterEx.ofOk
    | with_reducible exact AfterEx.ofError
    | (with_reducible refine After.ofSealed (by assumption) ?_)
    | (with_reducible refine After.ofOkPair (by assumption) ?_)
    | (with_reducible refine After.ofOk (by assumption) ?_)
    | with_reducible apply After.fold

theorem State.makeOpenRoom_after {b T} (x0) (ht : Within 0x40020810000400 T) (h1 : After T b x0) :
    After T b (@State.makeOpenRoom x0) := by
  unfold State.makeOpenRoom
  try dsimp only
  repeat' first
    | with_reducible assumption
    | with_reducible apply State.closeStripe_after
    | with_reducible exact Within.mono ht rfl
    | exact RegIn.block ht (by decide) rfl
    | with_reducible apply AfterRoute.ite
    | split
    | (with_reducible intro _)
    | with_reducible apply AfterOut.ofNext
    | with_reducible apply AfterOpt.ofSome
    | with_reducible exact AfterOpt.ofNone
    | (with_reducible refine After.ofPair (by assumption) ?_)
    | (with_reducible refine After.ofTriple (by assumption) ?_)
    | (with_reducible refine After.ofOpt (by assumption) ?_)
    | with_reducible apply AfterSome.ofSome
    | with_reducible apply AfterRoute.ofSome
    | with_reducible exact AfterRoute.ofNone
    | with_reducible exact AfterSome.ofNone
    | with_reducible apply AfterEx.ofOk
    | with_reducible exact AfterEx.ofError
    | (with_reducible refine After.ofSealed (by assumption) ?_)
    | (with_reducible refine After.ofOkPair (by assumption) ?_)
    | (with_reducible refine After.ofOk (by assumption) ?_)
    | with_reducible apply After.fold

theorem State.openFor_after {b T} (x0) (x1) (x2) (x3) (x4) (x5) (x6) (ht : Within 0x40025810000c00 T) (h1 : After T b x0) :
    After T b (@State.openFor x0 x1 x2 x3 x4 x5 x6) := by
  unfold State.openFor
  try dsimp only
  repeat' first
    | with_reducible assumption
    | with_reducible apply State.makeOpenRoom_after
    | with_reducible apply State.journalRecord_after
    | with_reducible apply State.setMapBit_after
    | with_reducible apply State.showOpen_after
    | with_reducible apply State.onStore_after
    | with_reducible exact Within.mono ht rfl
    | exact RegIn.block ht (by decide) rfl
    | with_reducible apply AfterRoute.ite
    | split
    | (with_reducible intro _)
    | with_reducible apply AfterOut.ofNext
    | with_reducible apply AfterOpt.ofSome
    | with_reducible exact AfterOpt.ofNone
    | (with_reducible refine After.ofPair (by assumption) ?_)
    | (with_reducible refine After.ofTriple (by assumption) ?_)
    | (with_reducible refine After.ofOpt (by assumption) ?_)
    | with_reducible apply AfterSome.ofSome
    | with_reducible apply AfterRoute.ofSome
    | with_reducible exact AfterRoute.ofNone
    | with_reducible exact AfterSome.ofNone
    | with_reducible apply AfterEx.ofOk
    | with_reducible exact AfterEx.ofError
    | (with_reducible refine After.ofSealed (by assumption) ?_)
    | (with_reducible refine After.ofOkPair (by assumption) ?_)
    | (with_reducible refine After.ofOk (by assumption) ?_)
    | with_reducible apply After.fold

theorem State.touchTagStripe_after {b T} (x0) (x1) (x2) (ht : Within 0x800000400 T) (h1 : After T b x0) :
    After T b (@State.touchTagStripe x0 x1 x2) := by
  unfold State.touchTagStripe
  try dsimp only
  repeat' first
    | with_reducible assumption
    | with_reducible apply State.journalRecord_after
    | with_reducible exact Within.mono ht rfl
    | with_reducible apply AfterRoute.ite
    | split

theorem State.addToStripe_after {b T} (x0) (x1) (x2) (ht : Within 0x800000400 T) (h1 : After T b x0) :
    After T b (@State.addToStripe x0 x1 x2) := by
  unfold State.addToStripe
  try dsimp only
  repeat' first
    | with_reducible assumption
    | with_reducible apply State.onStore_after
    | with_reducible apply State.onStripe_after
    | with_reducible apply State.journalRecord_after
    | with_reducible exact Within.mono ht rfl
    | exact RegIn.block ht (by decide) rfl
    | with_reducible apply AfterRoute.ite
    | split
    | (with_reducible intro _)
    | with_reducible apply AfterOut.ofNext
    | with_reducible apply AfterOpt.ofSome
    | with_reducible exact AfterOpt.ofNone
    | (with_reducible refine After.ofPair (by assumption) ?_)
    | (with_reducible refine After.ofTriple (by assumption) ?_)
    | (with_reducible refine After.ofOpt (by assumption) ?_)
    | with_reducible apply AfterSome.ofSome
    | with_reducible apply AfterRoute.ofSome
    | with_reducible exact AfterRoute.ofNone
    | with_reducible exact AfterSome.ofNone
    | with_reducible apply AfterEx.ofOk
    | with_reducible exact AfterEx.ofError
    | (with_reducible refine After.ofSealed (by assumption) ?_)
    | (with_reducible refine After.ofOkPair (by assumption) ?_)
    | (with_reducible refine After.ofOk (by assumption) ?_)
    | with_reducible apply After.fold

theorem State.accumulate_after {b T} (x0) (x1) (ht : Within 0x40025810000c00 T) (h1 : After T b x0) :
    After T b (@State.accumulate x0 x1) := by
  unfold State.accumulate
  try dsimp only
  repeat' first
    | with_reducible assumption
    | with_reducible apply State.openFor_after
    | with_reducible apply State.closeStripe_after
    | with_reducible apply State.addToStripe_after
    | with_reducible exact Within.mono ht rfl
    | exact RegIn.block ht (by decide) rfl
    | with_reducible apply AfterRoute.ite
    | split
    | (with_reducible intro _)
    | with_reducible apply AfterOut.ofNext
    | with_reducible apply AfterOpt.ofSome
    | with_reducible exact AfterOpt.ofNone
    | (with_reducible refine After.ofPair (by assumption) ?_)
    | (with_reducible refine After.ofTriple (by assumption) ?_)
    | (with_reducible refine After.ofOpt (by assumption) ?_)
    | with_reducible apply AfterSome.ofSome
    | with_reducible apply AfterRoute.ofSome
    | with_reducible exact AfterRoute.ofNone
    | with_reducible exact AfterSome.ofNone
    | with_reducible apply AfterEx.ofOk
    | with_reducible exact AfterEx.ofError
    | (with_reducible refine After.ofSealed (by assumption) ?_)
    | (with_reducible refine After.ofOkPair (by assumption) ?_)
    | (with_reducible refine After.ofOk (by assumption) ?_)
    | with_reducible apply After.fold

theorem State.holdBlock_after {b T} (x0) (x1) (x2) (x3) (x4) (x5) (x6) (x7) (x8) (ht : Within 0x40025810001c00 T) (h1 : After T b x0) :
    After T b (@State.holdBlock x0 x1 x2 x3 x4 x5 x6 x7 x8) := by
  unfold State.holdBlock
  try dsimp only
  repeat' first
    | with_reducible assumption
    | with_reducible apply State.onStore_after
    | with_reducible apply State.onLink_after
    | with_reducible apply State.showOpen_after
    | with_reducible apply State.showDirty_after
    | with_reducible apply State.accumulate_after
    | with_reducible exact Within.mono ht rfl
    | exact RegIn.block ht (by decide) rfl
    | with_reducible apply AfterRoute.ite
    | split
    | (with_reducible intro _)
    | with_reducible apply AfterOut.ofNext
    | with_reducible apply AfterOpt.ofSome
    | with_reducible exact AfterOpt.ofNone
    | (with_reducible refine After.ofPair (by assumption) ?_)
    | (with_reducible refine After.ofTriple (by assumption) ?_)
    | (with_reducible refine After.ofOpt (by assumption) ?_)
    | with_reducible apply AfterSome.ofSome
    | with_reducible apply AfterRoute.ofSome
    | with_reducible exact AfterRoute.ofNone
    | with_reducible exact AfterSome.ofNone
    | with_reducible apply AfterEx.ofOk
    | with_reducible exact AfterEx.ofError
    | (with_reducible refine After.ofSealed (by assumption) ?_)
    | (with_reducible refine After.ofOkPair (by assumption) ?_)
    | (with_reducible refine After.ofOk (by assumption) ?_)
    | with_reducible apply After.fold

theorem State.closeIfFull_after {b T} (x0) (x1) (x2) (ht : Within 0x40020810000400 T) (h1 : After T b x0) :
    After T b (@State.closeIfFull x0 x1 x2) := by
  unfold State.closeIfFull
  try dsimp only
  repeat' first
    | with_reducible assumption
    | with_reducible apply State.closeStripe_after
    | with_reducible exact Within.mono ht rfl
    | with_reducible apply AfterRoute.ite
    | split

theorem State.closeIfThrough_after {b T} (x0) (x1) (x2) (ht : Within 0x40020810000400 T) (h1 : After T b x0) :
    After T b (@State.closeIfThrough x0 x1 x2) := by
  unfold State.closeIfThrough
  try dsimp only
  repeat' first
    | with_reducible assumption
    | with_reducible apply State.closeStripe_after
    | with_reducible exact Within.mono ht rfl
    | exact RegIn.block ht (by decide) rfl
    | with_reducible apply AfterRoute.ite
    | split
    | (with_reducible intro _)
    | with_reducible apply AfterOut.ofNext
    | with_reducible apply AfterOpt.ofSome
    | with_reducible exact AfterOpt.ofNone
    | (with_reducible refine After.ofPair (by assumption) ?_)
    | (with_reducible refine After.ofTriple (by assumption) ?_)
    | (with_reducible refine After.ofOpt (by assumption) ?_)
    | with_reducible apply AfterSome.ofSome
    | with_reducible apply AfterRoute.ofSome
    | with_reducible exact AfterRoute.ofNone
    | with_reducible exact AfterSome.ofNone
    | with_reducible apply AfterEx.ofOk
    | with_reducible exact AfterEx.ofError
    | (with_reducible refine After.ofSealed (by assumption) ?_)
    | (with_reducible refine After.ofOkPair (by assumption) ?_)
    | (with_reducible refine After.ofOk (by assumption) ?_)
    | with_reducible apply After.fold

theorem State.accumulateWaiting_after {b T} (x0) (ht : Within 0x40025810000c00 T) (h1 : After T b x0) :
    After T b (@State.accumulateWaiting x0) := by
  unfold State.accumulateWaiting
  try dsimp only
  repeat' first
    | with_reducible assumption
    | with_reducible apply State.each_after
    | with_reducible apply State.closeIfThrough_after
    | with_reducible apply State.closeIfFull_after
    | with_reducible apply State.accumulate_after
    | with_reducible exact Within.mono ht rfl
    | exact RegIn.block ht (by decide) rfl
    | with_reducible apply AfterRoute.ite
    | split
    | (with_reducible intro _)
    | with_reducible apply AfterOut.ofNext
    | with_reducible apply AfterOpt.ofSome
    | with_reducible exact AfterOpt.ofNone
    | (with_reducible refine After.ofPair (by assumption) ?_)
    | (with_reducible refine After.ofTriple (by assumption) ?_)
    | (with_reducible refine After.ofOpt (by assumption) ?_)
    | with_reducible apply AfterSome.ofSome
    | with_reducible apply AfterRoute.ofSome
    | with_reducible exact AfterRoute.ofNone
    | with_reducible exact AfterSome.ofNone
    | with_reducible apply AfterEx.ofOk
    | with_reducible exact AfterEx.ofError
    | (with_reducible refine After.ofSealed (by assumption) ?_)
    | (with_reducible refine After.ofOkPair (by assumption) ?_)
    | (with_reducible refine After.ofOk (by assumption) ?_)
    | with_reducible apply After.fold

theorem State.dropRetired_after {b T} (x0) (ht : Within 0x800000400 T) (h1 : After T b x0) :
    After T b (@State.dropRetired x0) := by
  unfold State.dropRetired
  try dsimp only
  repeat' first
    | with_reducible assumption
    | with_reducible apply State.onStore_after
    | with_reducible apply State.wr_after
    | with_reducible exact Within.mono ht rfl
    | exact RegIn.block ht (by decide) rfl

theorem State.retireEntries_after {b T} (x0) (x1) (x2) (ht : Within 0x800000400 T) (h1 : After T b x0) :
    After T b (@State.retireEntries x0 x1 x2) := by
  unfold State.retireEntries
  try dsimp only
  repeat' first
    | with_reducible assumption
    | with_reducible apply State.each_after
    | with_reducible apply State.journalRecord_after
    | with_reducible exact Within.mono ht rfl
    | exact RegIn.block ht (by decide) rfl
    | with_reducible apply AfterRoute.ite
    | split
    | (with_reducible intro _)
    | with_reducible apply AfterOut.ofNext
    | with_reducible apply AfterOpt.ofSome
    | with_reducible exact AfterOpt.ofNone
    | (with_reducible refine After.ofPair (by assumption) ?_)
    | (with_reducible refine After.ofTriple (by assumption) ?_)
    | (with_reducible refine After.ofOpt (by assumption) ?_)
    | with_reducible apply AfterSome.ofSome
    | with_reducible apply AfterRoute.ofSome
    | with_reducible exact AfterRoute.ofNone
    | with_reducible exact AfterSome.ofNone
    | with_reducible apply AfterEx.ofOk
    | with_reducible exact AfterEx.ofError
    | (with_reducible refine After.ofSealed (by assumption) ?_)
    | (with_reducible refine After.ofOkPair (by assumption) ?_)
    | (with_reducible refine After.ofOk (by assumption) ?_)
    | with_reducible apply After.fold

theorem State.markDirty_after {b T} (x0) (x1) (ht : Within 0x400 T) (h1 : After T b x0) :
    After T b (@State.markDirty x0 x1) := by
  unfold State.markDirty
  try dsimp only
  repeat' first
    | with_reducible assumption
    | with_reducible apply State.onStore_after
    | with_reducible exact Within.mono ht rfl
    | with_reducible apply AfterRoute.ite
    | split

theorem State.lockStripe_after {b T} (x0) (x1) (x2) (ht : Within 0x400 T) (h1 : After T b x0) :
    After T b (@State.lockStripe x0 x1 x2) := by
  unfold State.lockStripe
  try dsimp only
  repeat' first
    | with_reducible assumption
    | with_reducible apply State.onStore_after

theorem State.beginStep_after {b T} (x0) (x1) (x2) (ht : Within 0x40020010000400 T) (h1 : After T b x0) :
    After T b (@State.beginStep x0 x1 x2) := by
  unfold State.beginStep
  try dsimp only
  repeat' first
    | with_reducible assumption
    | with_reducible apply State.lockStripe_after
    | with_reducible apply State.onStore_after
    | with_reducible apply State.each_after
    | with_reducible apply State.startJob_after
    | with_reducible exact Within.mono ht rfl
    | exact RegIn.block ht (by decide) rfl
    | with_reducible apply AfterRoute.ite
    | split
    | (with_reducible intro _)
    | with_reducible apply AfterOut.ofNext
    | with_reducible apply AfterOpt.ofSome
    | with_reducible exact AfterOpt.ofNone
    | (with_reducible refine After.ofPair (by assumption) ?_)
    | (with_reducible refine After.ofTriple (by assumption) ?_)
    | (with_reducible refine After.ofOpt (by assumption) ?_)
    | with_reducible apply AfterSome.ofSome
    | with_reducible apply AfterRoute.ofSome
    | with_reducible exact AfterRoute.ofNone
    | with_reducible exact AfterSome.ofNone
    | with_reducible apply AfterEx.ofOk
    | with_reducible exact AfterEx.ofError
    | (with_reducible refine After.ofSealed (by assumption) ?_)
    | (with_reducible refine After.ofOkPair (by assumption) ?_)
    | (with_reducible refine After.ofOk (by assumption) ?_)
    | with_reducible apply After.fold

theorem State.beginSteps_after {b T} (x0) (x1) (x2) (ht : Within 0x40020010000400 T) (h1 : After T b x0) :
    After T b (@State.beginSteps x0 x1 x2) := by
  unfold State.beginSteps
  try dsimp only
  repeat' first
    | with_reducible assumption
    | with_reducible apply State.each_after
    | with_reducible apply State.beginStep_after
    | with_reducible exact Within.mono ht rfl
    | with_reducible apply AfterRoute.ite
    | split
    | (with_reducible intro _)

theorem State.startStep_after {b T} (x0) (x1) (x2) (x3) (x4) (x5) (ht : Within 0x40020810000400 T) (h1 : After T b x0) :
    After T b (@State.startStep x0 x1 x2 x3 x4 x5) := by
  unfold State.startStep
  try dsimp only
  repeat' first
    | with_reducible assumption
    | with_reducible apply State.onStore_after
    | with_reducible apply State.closeStripe_after
    | with_reducible apply State.beginSteps_after
    | with_reducible exact Within.mono ht rfl
    | exact RegIn.block ht (by decide) rfl
    | with_reducible apply AfterRoute.ite
    | split
    | (with_reducible intro _)
    | with_reducible apply AfterOut.ofNext
    | with_reducible apply AfterOpt.ofSome
    | with_reducible exact AfterOpt.ofNone
    | (with_reducible refine After.ofPair (by assumption) ?_)
    | (with_reducible refine After.ofTriple (by assumption) ?_)
    | (with_reducible refine After.ofOpt (by assumption) ?_)
    | with_reducible apply AfterSome.ofSome
    | with_reducible apply AfterRoute.ofSome
    | with_reducible exact AfterRoute.ofNone
    | with_reducible exact AfterSome.ofNone
    | with_reducible apply AfterEx.ofOk
    | with_reducible exact AfterEx.ofError
    | (with_reducible refine After.ofSealed (by assumption) ?_)
    | (with_reducible refine After.ofOkPair (by assumption) ?_)
    | (with_reducible refine After.ofOk (by assumption) ?_)
    | with_reducible apply After.fold

theorem State.retireStripe_after {b T} (x0) (x1) (ht : Within 0x60365819000cc0 T) (h1 : After T b x0) :
    After T b (@State.retireStripe x0 x1) := by
  unfold State.retireStripe
  try dsimp only
  repeat' first
    | with_reducible assumption
    | with_reducible apply State.markDirty_after
    | with_reducible apply State.setMapBit_after
    | with_reducible apply State.onStore_after
    | with_reducible apply State.retireEntries_after
    | with_reducible apply State.beginSteps_after
    | with_reducible apply State.dropRetired_after
    | with_reducible apply State.freeCopies_after
    | with_reducible apply State.each_after
    | with_reducible apply State.accumulate_after
    | with_reducible apply State.showOpen_after
    | with_reducible apply State.closeIfThrough_after
    | with_reducible apply State.closeIfFull_after
    | with_reducible exact Within.mono ht rfl
    | exact RegIn.block ht (by decide) rfl
    | with_reducible apply AfterRoute.ite
    | split
    | (with_reducible intro _)
    | with_reducible apply AfterOut.ofNext
    | with_reducible apply AfterOpt.ofSome
    | with_reducible exact AfterOpt.ofNone
    | (with_reducible refine After.ofPair (by assumption) ?_)
    | (with_reducible refine After.ofTriple (by assumption) ?_)
    | (with_reducible refine After.ofOpt (by assumption) ?_)
    | with_reducible apply AfterSome.ofSome
    | with_reducible apply AfterRoute.ofSome
    | with_reducible exact AfterRoute.ofNone
    | with_reducible exact AfterSome.ofNone
    | with_reducible apply AfterEx.ofOk
    | with_reducible exact AfterEx.ofError
    | (with_reducible refine After.ofSealed (by assumption) ?_)
    | (with_reducible refine After.ofOkPair (by assumption) ?_)
    | (with_reducible refine After.ofOk (by assumption) ?_)
    | with_reducible apply After.fold

theorem State.tryRetire_after {b T} (x0) (x1) (x2) (ht : Within 0x60365819000cc0 T) (h1 : After T b x0) :
    After T b (@State.tryRetire x0 x1 x2) := by
  unfold State.tryRetire
  try dsimp only
  repeat' first
    | with_reducible assumption
    | with_reducible apply State.retireStripe_after
    | with_reducible exact Within.mono ht rfl
    | with_reducible apply AfterRoute.ite
    | split

theorem State.unlockStripe_after {b T} (x0) (x1) (x2) (ht : Within 0x40020810000400 T) (h1 : After T b x0) :
    After T b (@State.unlockStripe x0 x1 x2) := by
  unfold State.unlockStripe
  try dsimp only
  repeat' first
    | with_reducible assumption
    | with_reducible apply State.postReady_after
    | with_reducible apply State.onStore_after
    | with_reducible apply State.closeStripe_after
    | with_reducible exact Within.mono ht rfl
    | with_reducible apply AfterRoute.ite
    | split

theorem State.failSet_after {b T} (x0) (x1) (ht : Within 0x400 T) (h1 : After T b x0) :
    After T b (@State.failSet x0 x1) := by
  unfold State.failSet
  try dsimp only
  repeat' first
    | with_reducible assumption
    | with_reducible apply State.onStore_after

theorem State.enterLost_after {b T} (x0) (x1) (x2) (x3) (x4) (x5) (x6) (x7) (ht : Within 0x603410110004c0 T) (h1 : After T b x0) :
    After T b (@State.enterLost x0 x1 x2 x3 x4 x5 x6 x7) := by
  unfold State.enterLost
  try dsimp only
  repeat' first
    | with_reducible assumption
    | with_reducible apply State.count_after
    | with_reducible apply State.onStore_after
    | with_reducible apply State.failSet_after
    | with_reducible apply State.flagFault_after
    | with_reducible exact Within.mono ht rfl
    | exact RegIn.block ht (by decide) rfl
    | with_reducible apply AfterRoute.ite
    | split

theorem State.loseTags_after {b T} (x0) (x1) (x2) (ht : Within 0x603410110004c0 T) (h1 : After T b x0) :
    After T b (@State.loseTags x0 x1 x2) := by
  unfold State.loseTags
  try dsimp only
  repeat' first
    | with_reducible assumption
    | with_reducible apply State.each_after
    | with_reducible apply State.lockStripe_after
    | with_reducible apply State.enterLost_after
    | with_reducible apply State.onStore_after
    | with_reducible exact Within.mono ht rfl
    | with_reducible apply AfterRoute.ite
    | split
    | (with_reducible intro _)

theorem State.loseRow_after {b T} (x0) (x1) (x2) (x3) (x4) (x5) (x6) (x7) (ht : Within 0x603410110004c0 T) (h1 : After T b x0) :
    After T b (@State.loseRow x0 x1 x2 x3 x4 x5 x6 x7) := by
  unfold State.loseRow
  try dsimp only
  repeat' first
    | with_reducible assumption
    | with_reducible apply State.each_after
    | with_reducible apply State.enterLost_after
    | with_reducible apply State.loseTags_after
    | with_reducible apply State.lockStripe_after
    | with_reducible apply State.onStore_after
    | with_reducible apply State.wr_after
    | with_reducible exact Within.mono ht rfl
    | exact RegIn.block ht (by decide) rfl
    | with_reducible apply AfterRoute.ite
    | split
    | (with_reducible intro _)

theorem State.clearLost_after {b T} (x0) (x1) (x2) (ht : Within 0x1000000400 T) (h1 : After T b x0) :
    After T b (@State.clearLost x0 x1 x2) := by
  unfold State.clearLost
  try dsimp only
  repeat' first
    | with_reducible assumption
    | with_reducible apply State.onStore_after
    | with_reducible apply State.wr_after
    | with_reducible apply State.count_after
    | with_reducible exact Within.mono ht rfl
    | exact RegIn.block ht (by decide) rfl
    | with_reducible apply AfterRoute.ite
    | split

end Sys2Proof.Machine
end

