-- ==== Sys2Proof/Laws/After/HostOps.lean ====
section
/-! SUPPORT. What the operations of HostOps keep (Laws/After.lean). -/

set_option Elab.async false
set_option linter.all false

namespace Sys2Proof.Machine

theorem State.onNamespace_after {b T} (x0) (x1) (x2) (ht : Within 0x200 T) (h1 : After T b x0) :
    After T b (@State.onNamespace x0 x1 x2) := by
  unfold State.onNamespace
  try dsimp only
  repeat' first
    | with_reducible assumption
    | with_reducible apply State.onHost_after

theorem State.completeAer_after {b T} (x0) (x1) (x2) (x3) (x4) (ht : Within 0x40040111002201 T) (h1 : After T b x0) :
    After T b (@State.completeAer x0 x1 x2 x3 x4) := by
  unfold State.completeAer
  try dsimp only
  repeat' first
    | with_reducible assumption
    | with_reducible apply State.respond_after
    | with_reducible apply State.onController_after
    | with_reducible exact Within.mono ht rfl
    | with_reducible apply AfterRoute.ite
    | split

theorem State.tellAna_after {b T} (x0) (ht : Within 0x40040111002201 T) (h1 : After T b x0) :
    After T b (@State.tellAna x0) := by
  unfold State.tellAna
  try dsimp only
  repeat' first
    | with_reducible assumption
    | with_reducible apply State.each_after
    | with_reducible apply State.completeAer_after
    | with_reducible exact Within.mono ht rfl
    | with_reducible apply AfterRoute.ite
    | split
    | (with_reducible intro _)

theorem State.reportAna_after {b T} (x0) (ht : Within 0x40340111002281 T) (h1 : After T b x0) :
    After T b (@State.reportAna x0) := by
  unfold State.reportAna
  try dsimp only
  repeat' first
    | with_reducible assumption
    | with_reducible apply State.each_after
    | with_reducible apply State.onHost_after
    | with_reducible apply State.notify_after
    | with_reducible apply State.tellAna_after
    | with_reducible exact Within.mono ht rfl
    | with_reducible apply AfterRoute.ite
    | split
    | (with_reducible intro _)

theorem State.onCommand_after {b T} (x0) (x1) (x2) (ht : Within 0x200 T) (h1 : After T b x0) :
    After T b (@State.onCommand x0 x1 x2) := by
  unfold State.onCommand
  try dsimp only
  repeat' first
    | with_reducible assumption
    | with_reducible apply State.onHost_after

theorem State.giveUpExtent_after {b T} (x0) (x1) (x2) (x3) (ht : Within 0x400 T) (h1 : After T b x0) :
    After T b (@State.giveUpExtent x0 x1 x2 x3) := by
  unfold State.giveUpExtent
  try dsimp only
  repeat' first
    | with_reducible assumption
    | with_reducible apply State.onStore_after

theorem State.reapNamespaces_after {b T} (x0) (ht : Within 0x600 T) (h1 : After T b x0) :
    After T b (@State.reapNamespaces x0) := by
  unfold State.reapNamespaces
  try dsimp only
  repeat' first
    | with_reducible assumption
    | with_reducible apply State.each_after
    | with_reducible apply State.onHost_after
    | with_reducible apply State.giveUpExtent_after
    | with_reducible exact Within.mono ht rfl
    | with_reducible apply AfterRoute.ite
    | split
    | (with_reducible intro _)

theorem State.dropCommand_after {b T} (x0) (x1) (ht : Within 0x600 T) (h1 : After T b x0) :
    After T b (@State.dropCommand x0 x1) := by
  unfold State.dropCommand
  try dsimp only
  repeat' first
    | with_reducible assumption
    | with_reducible apply State.onHost_after
    | with_reducible apply State.reapNamespaces_after
    | with_reducible apply State.onStore_after
    | with_reducible exact Within.mono ht rfl
    | exact RegIn.block ht (by decide) rfl
    | with_reducible apply AfterRoute.ite
    | split
    | (with_reducible intro _)
    | with_reducible apply AfterOut.ofNext
    | with_reducible apply AfterOpt.ofSome
    | with_reducible exact AfterOpt.ofNone
    | (with_reducible refine After.ofPair (by assumption) ?_)
    | (with_reducible refine After.ofTriple (by assumption) ?_)
    | (with_reducible refine After.ofOpt (by assumption) ?_)
    | with_reducible apply AfterSome.ofSome
    | with_reducible apply AfterRoute.ofSome
    | with_reducible exact AfterRoute.ofNone
    | with_reducible exact AfterSome.ofNone
    | with_reducible apply AfterEx.ofOk
    | with_reducible exact AfterEx.ofError
    | (with_reducible refine After.ofSealed (by assumption) ?_)
    | (with_reducible refine After.ofOkPair (by assumption) ?_)
    | (with_reducible refine After.ofOk (by assumption) ?_)
    | with_reducible apply After.fold

theorem State.logError_after {b T} (x0) (x1) (x2) (ht : Within 0x200 T) (h1 : After T b x0) :
    After T b (@State.logError x0 x1 x2) := by
  unfold State.logError
  try dsimp only
  repeat' first
    | with_reducible assumption
    | with_reducible apply State.onController_after
    | with_reducible exact Within.mono ht rfl
    | exact RegIn.block ht (by decide) rfl
    | with_reducible apply AfterRoute.ite
    | split
    | (with_reducible intro _)
    | with_reducible apply AfterOut.ofNext
    | with_reducible apply AfterOpt.ofSome
    | with_reducible exact AfterOpt.ofNone
    | (with_reducible refine After.ofPair (by assumption) ?_)
    | (with_reducible refine After.ofTriple (by assumption) ?_)
    | (with_reducible refine After.ofOpt (by assumption) ?_)
    | with_reducible apply AfterSome.ofSome
    | with_reducible apply AfterRoute.ofSome
    | with_reducible exact AfterRoute.ofNone
    | with_reducible exact AfterSome.ofNone
    | with_reducible apply AfterEx.ofOk
    | with_reducible exact AfterEx.ofError
    | (with_reducible refine After.ofSealed (by assumption) ?_)
    | (with_reducible refine After.ofOkPair (by assumption) ?_)
    | (with_reducible refine After.ofOk (by assumption) ?_)
    | with_reducible apply After.fold

theorem State.endCommand_after {b T} (x0) (x1) (x2) (ht : Within 0x40040111002601 T) (h1 : After T b x0) :
    After T b (@State.endCommand x0 x1 x2) := by
  unfold State.endCommand
  try dsimp only
  repeat' first
    | with_reducible assumption
    | with_reducible apply State.respond_after
    | with_reducible apply State.logError_after
    | with_reducible apply State.onHost_after
    | with_reducible apply State.dropCommand_after
    | with_reducible exact Within.mono ht rfl
    | exact RegIn.block ht (by decide) rfl
    | with_reducible apply AfterRoute.ite
    | split
    | (with_reducible intro _)
    | with_reducible apply AfterOut.ofNext
    | with_reducible apply AfterOpt.ofSome
    | with_reducible exact AfterOpt.ofNone
    | (with_reducible refine After.ofPair (by assumption) ?_)
    | (with_reducible refine After.ofTriple (by assumption) ?_)
    | (with_reducible refine After.ofOpt (by assumption) ?_)
    | with_reducible apply AfterSome.ofSome
    | with_reducible apply AfterRoute.ofSome
    | with_reducible exact AfterRoute.ofNone
    | with_reducible exact AfterSome.ofNone
    | with_reducible apply AfterEx.ofOk
    | with_reducible exact AfterEx.ofError
    | (with_reducible refine After.ofSealed (by assumption) ?_)
    | (with_reducible refine After.ofOkPair (by assumption) ?_)
    | (with_reducible refine After.ofOk (by assumption) ?_)
    | with_reducible apply After.fold

theorem State.failCommand_after {b T} (x0) (x1) (x2) (ht : Within 0x200 T) (h1 : After T b x0) :
    After T b (@State.failCommand x0 x1 x2) := by
  unfold State.failCommand
  try dsimp only
  repeat' first
    | with_reducible assumption
    | with_reducible apply State.onCommand_after

theorem State.showRoomWait_after {b T} (x0) (ht : Within 0x40004000000000 T) (h1 : After T b x0) :
    After T b (@State.showRoomWait x0) := by
  unfold State.showRoomWait
  try dsimp only
  repeat' first
    | with_reducible assumption
    | with_reducible apply State.began_after
    | with_reducible apply State.wr_after
    | with_reducible exact Within.mono ht rfl
    | exact RegIn.block ht (by decide) rfl
    | with_reducible apply AfterRoute.ite
    | split

theorem State.awaitsCommit_after {b T} (x0) (x1) (x2) (ht : Within 0x40000000000000 T) (h1 : After T b x0) (h3 : ∀ y0, After T b y0 → After T b (x2 y0)) :
    After T b (@State.awaitsCommit x0 x1 x2) := by
  unfold State.awaitsCommit
  try dsimp only
  repeat' first
    | with_reducible assumption
    | with_reducible apply State.began_after
    | with_reducible apply h3
    | with_reducible exact Within.mono ht rfl
    | with_reducible apply AfterRoute.ite
    | split

theorem State.xtsBlock_after {b T} (x0) (x1) (ht : Within 0x100000000000 T) (h1 : After T b x0) :
    After T b (@State.xtsBlock x0 x1) := by
  unfold State.xtsBlock
  try dsimp only
  repeat' first
    | with_reducible assumption
    | with_reducible apply State.count_after
    | with_reducible exact Within.mono ht rfl
    | exact RegIn.block ht (by decide) rfl
    | with_reducible apply AfterRoute.ite
    | split

theorem State.keepTags_after {b T} (x0) (x1) (x2) (x3) (ht : Within 0x400 T) (h1 : After T b x0) :
    After T b (@State.keepTags x0 x1 x2 x3) := by
  unfold State.keepTags
  try dsimp only
  repeat' first
    | with_reducible assumption
    | with_reducible apply State.onStore_after
    | with_reducible exact Within.mono ht rfl
    | exact RegIn.block ht (by decide) rfl
    | with_reducible apply AfterRoute.ite
    | split
    | (with_reducible intro _)
    | with_reducible apply AfterOut.ofNext
    | with_reducible apply AfterOpt.ofSome
    | with_reducible exact AfterOpt.ofNone
    | (with_reducible refine After.ofPair (by assumption) ?_)
    | (with_reducible refine After.ofTriple (by assumption) ?_)
    | (with_reducible refine After.ofOpt (by assumption) ?_)
    | with_reducible apply AfterSome.ofSome
    | with_reducible apply AfterRoute.ofSome
    | with_reducible exact AfterRoute.ofNone
    | with_reducible exact AfterSome.ofNone
    | with_reducible apply AfterEx.ofOk
    | with_reducible exact AfterEx.ofError
    | (with_reducible refine After.ofSealed (by assumption) ?_)
    | (with_reducible refine After.ofOkPair (by assumption) ?_)
    | (with_reducible refine After.ofOk (by assumption) ?_)
    | with_reducible apply After.fold

theorem State.forgetTags_after {b T} (x0) (x1) (ht : Within 0x400 T) (h1 : After T b x0) :
    After T b (@State.forgetTags x0 x1) := by
  unfold State.forgetTags
  try dsimp only
  repeat' first
    | with_reducible assumption
    | with_reducible apply State.onStore_after
    | with_reducible exact Within.mono ht rfl
    | exact RegIn.block ht (by decide) rfl
    | with_reducible apply AfterRoute.ite
    | split
    | (with_reducible intro _)
    | with_reducible apply AfterOut.ofNext
    | with_reducible apply AfterOpt.ofSome
    | with_reducible exact AfterOpt.ofNone
    | (with_reducible refine After.ofPair (by assumption) ?_)
    | (with_reducible refine After.ofTriple (by assumption) ?_)
    | (with_reducible refine After.ofOpt (by assumption) ?_)
    | with_reducible apply AfterSome.ofSome
    | with_reducible apply AfterRoute.ofSome
    | with_reducible exact AfterRoute.ofNone
    | with_reducible exact AfterSome.ofNone
    | with_reducible apply AfterEx.ofOk
    | with_reducible exact AfterEx.ofError
    | (with_reducible refine After.ofSealed (by assumption) ?_)
    | (with_reducible refine After.ofOkPair (by assumption) ?_)
    | (with_reducible refine After.ofOk (by assumption) ?_)
    | with_reducible apply After.fold

theorem State.writesStripe_after {b T} (x0) (x1) (x2) (ht : Within 0x200 T) (h1 : After T b x0) :
    After T b (@State.writesStripe x0 x1 x2) := by
  unfold State.writesStripe
  try dsimp only
  repeat' first
    | with_reducible assumption
    | with_reducible apply State.onCommand_after
    | with_reducible exact Within.mono ht rfl
    | exact RegIn.block ht (by decide) rfl
    | with_reducible apply AfterRoute.ite
    | split
    | (with_reducible intro _)
    | with_reducible apply AfterOut.ofNext
    | with_reducible apply AfterOpt.ofSome
    | with_reducible exact AfterOpt.ofNone
    | (with_reducible refine After.ofPair (by assumption) ?_)
    | (with_reducible refine After.ofTriple (by assumption) ?_)
    | (with_reducible refine After.ofOpt (by assumption) ?_)
    | with_reducible apply AfterSome.ofSome
    | with_reducible apply AfterRoute.ofSome
    | with_reducible exact AfterRoute.ofNone
    | with_reducible exact AfterSome.ofNone
    | with_reducible apply AfterEx.ofOk
    | with_reducible exact AfterEx.ofError
    | (with_reducible refine After.ofSealed (by assumption) ?_)
    | (with_reducible refine After.ofOkPair (by assumption) ?_)
    | (with_reducible refine After.ofOk (by assumption) ?_)
    | with_reducible apply After.fold

theorem State.writeTagBlock_after {b T} (x0) (x1) (x2) (x3) (x4) (x5) (ht : Within 0x40125810001e00 T) (h1 : After T b x0) :
    After T b (@State.writeTagBlock x0 x1 x2 x3 x4 x5) := by
  unfold State.writeTagBlock
  try dsimp only
  repeat' first
    | with_reducible assumption
    | with_reducible apply State.holdBlock_after
    | with_reducible apply State.xtsBlock_after
    | with_reducible apply State.keepTags_after
    | with_reducible apply State.each_after
    | with_reducible apply State.touchTagStripe_after
    | with_reducible apply State.closeIfFull_after
    | with_reducible apply State.writesStripe_after
    | with_reducible exact Within.mono ht rfl
    | exact RegIn.block ht (by decide) rfl
    | with_reducible apply AfterRoute.ite
    | split
    | (with_reducible intro _)
    | with_reducible apply AfterOut.ofNext
    | with_reducible apply AfterOpt.ofSome
    | with_reducible exact AfterOpt.ofNone
    | (with_reducible refine After.ofPair (by assumption) ?_)
    | (with_reducible refine After.ofTriple (by assumption) ?_)
    | (with_reducible refine After.ofOpt (by assumption) ?_)
    | with_reducible apply AfterSome.ofSome
    | with_reducible apply AfterRoute.ofSome
    | with_reducible exact AfterRoute.ofNone
    | with_reducible exact AfterSome.ofNone
    | with_reducible apply AfterEx.ofOk
    | with_reducible exact AfterEx.ofError
    | (with_reducible refine After.ofSealed (by assumption) ?_)
    | (with_reducible refine After.ofOkPair (by assumption) ?_)
    | (with_reducible refine After.ofOk (by assumption) ?_)
    | with_reducible apply After.fold

theorem State.writeBlock_after {b T} (x0) (x1) (x2) (x3) (x4) (x5) (x6) (ht : Within 0x40125810001e00 T) (h1 : After T b x0) :
    After T b (@State.writeBlock x0 x1 x2 x3 x4 x5 x6) := by
  unfold State.writeBlock
  try dsimp only
  repeat' first
    | with_reducible assumption
    | with_reducible apply State.holdBlock_after
    | with_reducible apply State.xtsBlock_after
    | with_reducible apply State.clearLost_after
    | with_reducible apply State.writesStripe_after
    | with_reducible apply State.writeTagBlock_after
    | with_reducible apply State.closeIfFull_after
    | with_reducible exact Within.mono ht rfl
    | exact RegIn.block ht (by decide) rfl
    | with_reducible apply AfterRoute.ite
    | split
    | (with_reducible intro _)
    | with_reducible apply AfterOut.ofNext
    | with_reducible apply AfterOpt.ofSome
    | with_reducible exact AfterOpt.ofNone
    | (with_reducible refine After.ofPair (by assumption) ?_)
    | (with_reducible refine After.ofTriple (by assumption) ?_)
    | (with_reducible refine After.ofOpt (by assumption) ?_)
    | with_reducible apply AfterSome.ofSome
    | with_reducible apply AfterRoute.ofSome
    | with_reducible exact AfterRoute.ofNone
    | with_reducible exact AfterSome.ofNone
    | with_reducible apply AfterEx.ofOk
    | with_reducible exact AfterEx.ofError
    | (with_reducible refine After.ofSealed (by assumption) ?_)
    | (with_reducible refine After.ofOkPair (by assumption) ?_)
    | (with_reducible refine After.ofOk (by assumption) ?_)
    | with_reducible apply After.fold

theorem State.releaseWriteThrough_after {b T} (x0) (x1) (ht : Within 0x40040111002601 T) (h1 : After T b x0) :
    After T b (@State.releaseWriteThrough x0 x1) := by
  unfold State.releaseWriteThrough
  try dsimp only
  repeat' first
    | with_reducible assumption
    | with_reducible apply State.endCommand_after
    | with_reducible exact Within.mono ht rfl
    | with_reducible apply AfterRoute.ite
    | split

theorem State.releaseAllWriteThrough_after {b T} (x0) (ht : Within 0x40040111002601 T) (h1 : After T b x0) :
    After T b (@State.releaseAllWriteThrough x0) := by
  unfold State.releaseAllWriteThrough
  try dsimp only
  repeat' first
    | with_reducible assumption
    | with_reducible apply State.each_after
    | with_reducible apply State.releaseWriteThrough_after
    | with_reducible exact Within.mono ht rfl
    | with_reducible apply AfterRoute.ite
    | split
    | (with_reducible intro _)

theorem State.finishWrite_after {b T} (x0) (x1) (ht : Within 0x40060911002601 T) (h1 : After T b x0) :
    After T b (@State.finishWrite x0 x1) := by
  unfold State.finishWrite
  try dsimp only
  repeat' first
    | with_reducible assumption
    | with_reducible apply State.awaitsCommit_after
    | with_reducible apply State.onCommand_after
    | with_reducible apply State.releaseWriteThrough_after
    | with_reducible apply State.each_after
    | with_reducible apply State.closeStripe_after
    | with_reducible exact Within.mono ht rfl
    | with_reducible apply AfterRoute.ite
    | split
    | (with_reducible intro _)

theorem State.placeBlock_after {b T} (x0) (x1) (x2) (x3) (ht : Within 0x40125810001e00 T) (h1 : After T b x0) :
    After T b (@State.placeBlock x0 x1 x2 x3) := by
  unfold State.placeBlock
  try dsimp only
  repeat' first
    | with_reducible assumption
    | with_reducible apply State.onCommand_after
    | with_reducible apply State.writeBlock_after
    | with_reducible apply State.failCommand_after
    | with_reducible exact Within.mono ht rfl
    | with_reducible apply AfterRoute.ite
    | split

theorem State.startDegraded_after {b T} (x0) (x1) (x2) (x3) (x4) (x5) (x6) (ht : Within 0x40020810000400 T) (h1 : After T b x0) :
    After T b (@State.startDegraded x0 x1 x2 x3 x4 x5 x6) := by
  unfold State.startDegraded
  try dsimp only
  repeat' first
    | with_reducible assumption
    | with_reducible apply State.event_after
    | with_reducible apply State.count_after
    | with_reducible apply State.startJob_after
    | with_reducible apply State.onStore_after
    | with_reducible exact Within.mono ht rfl
    | exact RegIn.block ht (by decide) rfl

theorem State.promoteStripe_after {b T} (x0) (x1) (x2) (ht : Within 0x400 T) (h1 : After T b x0) :
    After T b (@State.promoteStripe x0 x1 x2) := by
  unfold State.promoteStripe
  try dsimp only
  repeat' first
    | with_reducible assumption
    | with_reducible apply State.onStore_after
    | with_reducible exact Within.mono ht rfl
    | exact RegIn.block ht (by decide) rfl
    | with_reducible apply AfterRoute.ite
    | split
    | (with_reducible intro _)
    | with_reducible apply AfterOut.ofNext
    | with_reducible apply AfterOpt.ofSome
    | with_reducible exact AfterOpt.ofNone
    | (with_reducible refine After.ofPair (by assumption) ?_)
    | (with_reducible refine After.ofTriple (by assumption) ?_)
    | (with_reducible refine After.ofOpt (by assumption) ?_)
    | with_reducible apply AfterSome.ofSome
    | with_reducible apply AfterRoute.ofSome
    | with_reducible exact AfterRoute.ofNone
    | with_reducible exact AfterSome.ofNone
    | with_reducible apply AfterEx.ofOk
    | with_reducible exact AfterEx.ofError
    | (with_reducible refine After.ofSealed (by assumption) ?_)
    | (with_reducible refine After.ofOkPair (by assumption) ?_)
    | (with_reducible refine After.ofOk (by assumption) ?_)
    | with_reducible apply After.fold

theorem State.readStored_after {b T} (x0) (x1) (x2) (x3) (ht : Within 0x40020810000400 T) (h1 : After T b x0) :
    After T b (@State.readStored x0 x1 x2 x3) := by
  unfold State.readStored
  try dsimp only
  repeat' first
    | with_reducible assumption
    | with_reducible apply State.sendStripAt_after
    | with_reducible apply State.startDegraded_after
    | with_reducible apply State.promoteStripe_after
    | with_reducible exact Within.mono ht rfl
    | exact RegIn.block ht (by decide) rfl
    | with_reducible apply AfterRoute.ite
    | split
    | (with_reducible intro _)
    | with_reducible apply AfterOut.ofNext
    | with_reducible apply AfterOpt.ofSome
    | with_reducible exact AfterOpt.ofNone
    | (with_reducible refine After.ofPair (by assumption) ?_)
    | (with_reducible refine After.ofTriple (by assumption) ?_)
    | (with_reducible refine After.ofOpt (by assumption) ?_)
    | with_reducible apply AfterSome.ofSome
    | with_reducible apply AfterRoute.ofSome
    | with_reducible exact AfterRoute.ofNone
    | with_reducible exact AfterSome.ofNone
    | with_reducible apply AfterEx.ofOk
    | with_reducible exact AfterEx.ofError
    | (with_reducible refine After.ofSealed (by assumption) ?_)
    | (with_reducible refine After.ofOkPair (by assumption) ?_)
    | (with_reducible refine After.ofOk (by assumption) ?_)
    | with_reducible apply After.fold

theorem State.startTagRead_after {b T} (x0) (x1) (x2) (ht : Within 0x40020810000400 T) (h1 : After T b x0) :
    After T b (@State.startTagRead x0 x1 x2) := by
  unfold State.startTagRead
  try dsimp only
  repeat' first
    | with_reducible assumption
    | with_reducible apply State.readStored_after
    | with_reducible exact Within.mono ht rfl
    | exact RegIn.block ht (by decide) rfl
    | with_reducible apply AfterRoute.ite
    | split
    | (with_reducible intro _)
    | with_reducible apply AfterOut.ofNext
    | with_reducible apply AfterOpt.ofSome
    | with_reducible exact AfterOpt.ofNone
    | (with_reducible refine After.ofPair (by assumption) ?_)
    | (with_reducible refine After.ofTriple (by assumption) ?_)
    | (with_reducible refine After.ofOpt (by assumption) ?_)
    | with_reducible apply AfterSome.ofSome
    | with_reducible apply AfterRoute.ofSome
    | with_reducible exact AfterRoute.ofNone
    | with_reducible exact AfterSome.ofNone
    | with_reducible apply AfterEx.ofOk
    | with_reducible exact AfterEx.ofError
    | (with_reducible refine After.ofSealed (by assumption) ?_)
    | (with_reducible refine After.ofOkPair (by assumption) ?_)
    | (with_reducible refine After.ofOk (by assumption) ?_)
    | with_reducible apply After.fold

theorem State.askTags_after {b T} (x0) (x1) (x2) (ht : Within 0x40020810000400 T) (h1 : After T b x0) :
    After T b (@State.askTags x0 x1 x2) := by
  unfold State.askTags
  try dsimp only
  repeat' first
    | with_reducible assumption
    | with_reducible apply State.each_after
    | with_reducible apply State.startTagRead_after
    | with_reducible exact Within.mono ht rfl
    | exact RegIn.block ht (by decide) rfl
    | with_reducible apply AfterRoute.ite
    | split
    | (with_reducible intro _)
    | with_reducible apply AfterOut.ofNext
    | with_reducible apply AfterOpt.ofSome
    | with_reducible exact AfterOpt.ofNone
    | (with_reducible refine After.ofPair (by assumption) ?_)
    | (with_reducible refine After.ofTriple (by assumption) ?_)
    | (with_reducible refine After.ofOpt (by assumption) ?_)
    | with_reducible apply AfterSome.ofSome
    | with_reducible apply AfterRoute.ofSome
    | with_reducible exact AfterRoute.ofNone
    | with_reducible exact AfterSome.ofNone
    | with_reducible apply AfterEx.ofOk
    | with_reducible exact AfterEx.ofError
    | (with_reducible refine After.ofSealed (by assumption) ?_)
    | (with_reducible refine After.ofOkPair (by assumption) ?_)
    | (with_reducible refine After.ofOk (by assumption) ?_)
    | with_reducible apply After.fold

theorem State.finishRead_after {b T} (x0) (x1) (ht : Within 0x40165911003e01 T) (h1 : After T b x0) :
    After T b (@State.finishRead x0 x1) := by
  unfold State.finishRead
  try dsimp only
  repeat' first
    | with_reducible assumption
    | with_reducible apply State.endCommand_after
    | with_reducible apply State.askTags_after
    | with_reducible apply State.onCommand_after
    | with_reducible apply State.each_after
    | with_reducible apply State.writeBlock_after
    | with_reducible apply State.finishWrite_after
    | with_reducible apply State.sendData_after
    | with_reducible exact Within.mono ht rfl
    | exact RegIn.block ht (by decide) rfl
    | with_reducible apply AfterRoute.ite
    | split
    | (with_reducible intro _)
    | with_reducible apply AfterOut.ofNext
    | with_reducible apply AfterOpt.ofSome
    | with_reducible exact AfterOpt.ofNone
    | (with_reducible refine After.ofPair (by assumption) ?_)
    | (with_reducible refine After.ofTriple (by assumption) ?_)
    | (with_reducible refine After.ofOpt (by assumption) ?_)
    | with_reducible apply AfterSome.ofSome
    | with_reducible apply AfterRoute.ofSome
    | with_reducible exact AfterRoute.ofNone
    | with_reducible exact AfterSome.ofNone
    | with_reducible apply AfterEx.ofOk
    | with_reducible exact AfterEx.ofError
    | (with_reducible refine After.ofSealed (by assumption) ?_)
    | (with_reducible refine After.ofOkPair (by assumption) ?_)
    | (with_reducible refine After.ofOk (by assumption) ?_)
    | with_reducible apply After.fold

theorem State.gotBlock_after {b T} (x0) (x1) (x2) (x3) (x4) (ht : Within 0x40165911003e01 T) (h1 : After T b x0) :
    After T b (@State.gotBlock x0 x1 x2 x3 x4) := by
  unfold State.gotBlock
  try dsimp only
  repeat' first
    | with_reducible assumption
    | with_reducible apply State.finishRead_after
    | with_reducible apply State.onCommand_after
    | with_reducible exact Within.mono ht rfl

theorem State.readBlock_after {b T} (x0) (x1) (x2) (x3) (x4) (ht : Within 0x40020810000600 T) (h1 : After T b x0) :
    After T b (@State.readBlock x0 x1 x2 x3 x4) := by
  unfold State.readBlock
  try dsimp only
  repeat' first
    | with_reducible assumption
    | with_reducible apply State.onCommand_after
    | with_reducible apply State.failCommand_after
    | with_reducible apply State.readStored_after
    | with_reducible apply State.startTagRead_after
    | with_reducible exact Within.mono ht rfl
    | exact RegIn.block ht (by decide) rfl
    | with_reducible apply AfterRoute.ite
    | split
    | (with_reducible intro _)
    | with_reducible apply AfterOut.ofNext
    | with_reducible apply AfterOpt.ofSome
    | with_reducible exact AfterOpt.ofNone
    | (with_reducible refine After.ofPair (by assumption) ?_)
    | (with_reducible refine After.ofTriple (by assumption) ?_)
    | (with_reducible refine After.ofOpt (by assumption) ?_)
    | with_reducible apply AfterSome.ofSome
    | with_reducible apply AfterRoute.ofSome
    | with_reducible exact AfterRoute.ofNone
    | with_reducible exact AfterSome.ofNone
    | with_reducible apply AfterEx.ofOk
    | with_reducible exact AfterEx.ofError
    | (with_reducible refine After.ofSealed (by assumption) ?_)
    | (with_reducible refine After.ofOkPair (by assumption) ?_)
    | (with_reducible refine After.ofOk (by assumption) ?_)
    | with_reducible apply After.fold

theorem State.startReading_after {b T} (x0) (x1) (ht : Within 0x40165911003e01 T) (h1 : After T b x0) :
    After T b (@State.startReading x0 x1) := by
  unfold State.startReading
  try dsimp only
  repeat' first
    | with_reducible assumption
    | with_reducible apply State.endCommand_after
    | with_reducible apply State.finishRead_after
    | with_reducible apply State.each_after
    | with_reducible apply State.readBlock_after
    | with_reducible exact Within.mono ht rfl
    | with_reducible apply AfterRoute.ite
    | split
    | (with_reducible intro _)

theorem State.deallocBlocks_after {b T} (x0) (x1) (x2) (ht : Within 0x40125810001e00 T) (h1 : After T b x0) :
    After T b (@State.deallocBlocks x0 x1 x2) := by
  unfold State.deallocBlocks
  try dsimp only
  repeat' first
    | with_reducible assumption
    | with_reducible apply State.each_after
    | with_reducible apply State.clearLost_after
    | with_reducible apply State.writesStripe_after
    | with_reducible apply State.holdBlock_after
    | with_reducible apply State.writeTagBlock_after
    | with_reducible apply State.closeIfFull_after
    | with_reducible exact Within.mono ht rfl
    | exact RegIn.block ht (by decide) rfl
    | with_reducible apply AfterRoute.ite
    | split
    | (with_reducible intro _)
    | with_reducible apply AfterOut.ofNext
    | with_reducible apply AfterOpt.ofSome
    | with_reducible exact AfterOpt.ofNone
    | (with_reducible refine After.ofPair (by assumption) ?_)
    | (with_reducible refine After.ofTriple (by assumption) ?_)
    | (with_reducible refine After.ofOpt (by assumption) ?_)
    | with_reducible apply AfterSome.ofSome
    | with_reducible apply AfterRoute.ofSome
    | with_reducible exact AfterRoute.ofNone
    | with_reducible exact AfterSome.ofNone
    | with_reducible apply AfterEx.ofOk
    | with_reducible exact AfterEx.ofError
    | (with_reducible refine After.ofSealed (by assumption) ?_)
    | (with_reducible refine After.ofOkPair (by assumption) ?_)
    | (with_reducible refine After.ofOk (by assumption) ?_)
    | with_reducible apply After.fold

theorem State.tryDealloc_after {b T} (x0) (x1) (ht : Within 0x40165911003e01 T) (h1 : After T b x0) :
    After T b (@State.tryDealloc x0 x1) := by
  unfold State.tryDealloc
  try dsimp only
  repeat' first
    | with_reducible assumption
    | with_reducible apply State.endCommand_after
    | with_reducible apply State.finishWrite_after
    | with_reducible apply State.deallocBlocks_after
    | with_reducible exact Within.mono ht rfl
    | exact RegIn.block ht (by decide) rfl
    | with_reducible apply AfterRoute.ite
    | split
    | (with_reducible intro _)
    | with_reducible apply AfterOut.ofNext
    | with_reducible apply AfterOpt.ofSome
    | with_reducible exact AfterOpt.ofNone
    | (with_reducible refine After.ofPair (by assumption) ?_)
    | (with_reducible refine After.ofTriple (by assumption) ?_)
    | (with_reducible refine After.ofOpt (by assumption) ?_)
    | with_reducible apply AfterSome.ofSome
    | with_reducible apply AfterRoute.ofSome
    | with_reducible exact AfterRoute.ofNone
    | with_reducible exact AfterSome.ofNone
    | with_reducible apply AfterEx.ofOk
    | with_reducible exact AfterEx.ofError
    | (with_reducible refine After.ofSealed (by assumption) ?_)
    | (with_reducible refine After.ofOkPair (by assumption) ?_)
    | (with_reducible refine After.ofOk (by assumption) ?_)
    | with_reducible apply After.fold

theorem State.changeReservation_after {b T} (x0) (x1) (x2) (x3) (ht : Within 0x200 T) (h1 : After T b x0) :
    After T b (@State.changeReservation x0 x1 x2 x3) := by
  unfold State.changeReservation
  try dsimp only
  repeat' first
    | with_reducible assumption
    | with_reducible apply State.onNamespace_after

theorem State.applyReservationsOf_after {b T} (x0) (x1) (ht : Within 0x200 T) (h1 : After T b x0) :
    After T b (@State.applyReservationsOf x0 x1) := by
  unfold State.applyReservationsOf
  try dsimp only
  repeat' first
    | with_reducible assumption
    | with_reducible apply State.each_after
    | with_reducible apply State.onHost_after
    | with_reducible apply State.changeReservation_after
    | with_reducible exact Within.mono ht rfl
    | exact RegIn.block ht (by decide) rfl
    | with_reducible apply AfterRoute.ite
    | split
    | (with_reducible intro _)
    | with_reducible apply AfterOut.ofNext
    | with_reducible apply AfterOpt.ofSome
    | with_reducible exact AfterOpt.ofNone
    | (with_reducible refine After.ofPair (by assumption) ?_)
    | (with_reducible refine After.ofTriple (by assumption) ?_)
    | (with_reducible refine After.ofOpt (by assumption) ?_)
    | with_reducible apply AfterSome.ofSome
    | with_reducible apply AfterRoute.ofSome
    | with_reducible exact AfterRoute.ofNone
    | with_reducible exact AfterSome.ofNone
    | with_reducible apply AfterEx.ofOk
    | with_reducible exact AfterEx.ofError
    | (with_reducible refine After.ofSealed (by assumption) ?_)
    | (with_reducible refine After.ofOkPair (by assumption) ?_)
    | (with_reducible refine After.ofOk (by assumption) ?_)
    | with_reducible apply After.fold

theorem State.applyReservationsUpTo_after {b T} (x0) (x1) (ht : Within 0x200 T) (h1 : After T b x0) :
    After T b (@State.applyReservationsUpTo x0 x1) := by
  unfold State.applyReservationsUpTo
  try dsimp only
  repeat' first
    | with_reducible assumption
    | with_reducible apply State.applyReservationsOf_after
    | with_reducible exact Within.mono ht rfl
    | exact RegIn.block ht (by decide) rfl
    | with_reducible apply AfterRoute.ite
    | split
    | (with_reducible intro _)
    | with_reducible apply AfterOut.ofNext
    | with_reducible apply AfterOpt.ofSome
    | with_reducible exact AfterOpt.ofNone
    | (with_reducible refine After.ofPair (by assumption) ?_)
    | (with_reducible refine After.ofTriple (by assumption) ?_)
    | (with_reducible refine After.ofOpt (by assumption) ?_)
    | with_reducible apply AfterSome.ofSome
    | with_reducible apply AfterRoute.ofSome
    | with_reducible exact AfterRoute.ofNone
    | with_reducible exact AfterSome.ofNone
    | with_reducible apply AfterEx.ofOk
    | with_reducible exact AfterEx.ofError
    | (with_reducible refine After.ofSealed (by assumption) ?_)
    | (with_reducible refine After.ofOkPair (by assumption) ?_)
    | (with_reducible refine After.ofOk (by assumption) ?_)
    | with_reducible apply After.fold

theorem State.applyReservations_after {b T} (x0) (ht : Within 0x200 T) (h1 : After T b x0) :
    After T b (@State.applyReservations x0) := by
  unfold State.applyReservations
  try dsimp only
  repeat' first
    | with_reducible assumption
    | with_reducible apply State.applyReservationsOf_after
    | with_reducible exact Within.mono ht rfl
    | exact RegIn.block ht (by decide) rfl
    | with_reducible apply AfterRoute.ite
    | split
    | (with_reducible intro _)
    | with_reducible apply AfterOut.ofNext
    | with_reducible apply AfterOpt.ofSome
    | with_reducible exact AfterOpt.ofNone
    | (with_reducible refine After.ofPair (by assumption) ?_)
    | (with_reducible refine After.ofTriple (by assumption) ?_)
    | (with_reducible refine After.ofOpt (by assumption) ?_)
    | with_reducible apply AfterSome.ofSome
    | with_reducible apply AfterRoute.ofSome
    | with_reducible exact AfterRoute.ofNone
    | with_reducible exact AfterSome.ofNone
    | with_reducible apply AfterEx.ofOk
    | with_reducible exact AfterEx.ofError
    | (with_reducible refine After.ofSealed (by assumption) ?_)
    | (with_reducible refine After.ofOkPair (by assumption) ?_)
    | (with_reducible refine After.ofOk (by assumption) ?_)
    | with_reducible apply After.fold

theorem State.startFetch_after {b T} (x0) (x1) (x2) (ht : Within 0x40040101002200 T) (h1 : After T b x0) :
    After T b (@State.startFetch x0 x1 x2) := by
  unfold State.startFetch
  try dsimp only
  repeat' first
    | with_reducible assumption
    | with_reducible apply State.onCommand_after
    | with_reducible apply State.directFetch_after
    | with_reducible apply State.transmit_after
    | with_reducible exact Within.mono ht rfl
    | exact RegIn.block ht (by decide) rfl
    | with_reducible apply AfterRoute.ite
    | split
    | (with_reducible intro _)
    | with_reducible apply AfterOut.ofNext
    | with_reducible apply AfterOpt.ofSome
    | with_reducible exact AfterOpt.ofNone
    | (with_reducible refine After.ofPair (by assumption) ?_)
    | (with_reducible refine After.ofTriple (by assumption) ?_)
    | (with_reducible refine After.ofOpt (by assumption) ?_)
    | with_reducible apply AfterSome.ofSome
    | with_reducible apply AfterRoute.ofSome
    | with_reducible exact AfterRoute.ofNone
    | with_reducible exact AfterSome.ofNone
    | with_reducible apply AfterEx.ofOk
    | with_reducible exact AfterEx.ofError
    | (with_reducible refine After.ofSealed (by assumption) ?_)
    | (with_reducible refine After.ofOkPair (by assumption) ?_)
    | (with_reducible refine After.ofOk (by assumption) ?_)
    | with_reducible apply After.fold

theorem State.formBlocks_after {b T} (x0) (x1) (ht : Within 0x40165911003e01 T) (h1 : After T b x0) :
    After T b (@State.formBlocks x0 x1) := by
  unfold State.formBlocks
  try dsimp only
  repeat' first
    | with_reducible assumption
    | with_reducible apply State.finishRead_after
    | with_reducible apply State.each_after
    | with_reducible apply State.placeBlock_after
    | with_reducible apply State.startTagRead_after
    | with_reducible apply State.finishWrite_after
    | with_reducible exact Within.mono ht rfl
    | exact RegIn.block ht (by decide) rfl
    | with_reducible apply AfterRoute.ite
    | split
    | (with_reducible intro _)
    | with_reducible apply AfterOut.ofNext
    | with_reducible apply AfterOpt.ofSome
    | with_reducible exact AfterOpt.ofNone
    | (with_reducible refine After.ofPair (by assumption) ?_)
    | (with_reducible refine After.ofTriple (by assumption) ?_)
    | (with_reducible refine After.ofOpt (by assumption) ?_)
    | with_reducible apply AfterSome.ofSome
    | with_reducible apply AfterRoute.ofSome
    | with_reducible exact AfterRoute.ofNone
    | with_reducible exact AfterSome.ofNone
    | with_reducible apply AfterEx.ofOk
    | with_reducible exact AfterEx.ofError
    | (with_reducible refine After.ofSealed (by assumption) ?_)
    | (with_reducible refine After.ofOkPair (by assumption) ?_)
    | (with_reducible refine After.ofOk (by assumption) ?_)
    | with_reducible apply After.fold

theorem State.dataArrives_after {b T} (x0) (x1) (x2) (x3) (ht : Within 0x40165911003e01 T) (h1 : After T b x0) :
    After T b (@State.dataArrives x0 x1 x2 x3) := by
  unfold State.dataArrives
  try dsimp only
  repeat' first
    | with_reducible assumption
    | with_reducible apply State.formBlocks_after
    | with_reducible apply State.onCommand_after
    | with_reducible exact Within.mono ht rfl

theorem State.tryRoom_after {b T} (x0) (x1) (ht : Within 0x40165911003e01 T) (h1 : After T b x0) :
    After T b (@State.tryRoom x0 x1) := by
  unfold State.tryRoom
  try dsimp only
  repeat' first
    | with_reducible assumption
    | with_reducible apply State.endCommand_after
    | with_reducible apply State.count_after
    | with_reducible apply State.showRoomWait_after
    | with_reducible apply State.onCommand_after
    | with_reducible apply State.startReading_after
    | with_reducible apply State.formBlocks_after
    | with_reducible apply State.startFetch_after
    | with_reducible exact Within.mono ht rfl
    | exact RegIn.block ht (by decide) rfl
    | with_reducible apply AfterRoute.ite
    | split

theorem State.askRoom_after {b T} (x0) (x1) (ht : Within 0x40165911003e01 T) (h1 : After T b x0) :
    After T b (@State.askRoom x0 x1) := by
  unfold State.askRoom
  try dsimp only
  repeat' first
    | with_reducible assumption
    | with_reducible apply State.onCommand_after
    | with_reducible apply State.tryRoom_after
    | with_reducible apply State.showRoomWait_after
    | with_reducible apply State.count_after
    | with_reducible exact Within.mono ht rfl
    | exact RegIn.block ht (by decide) rfl
    | with_reducible apply AfterRoute.ite
    | split

theorem State.dropReads_after {b T} (x0) (x1) (ht : Within 0x2000 T) (h1 : After T b x0) :
    After T b (@State.dropReads x0 x1) := by
  unfold State.dropReads
  try dsimp only
  repeat' first
    | with_reducible assumption
    | with_reducible apply State.onRdma_after
    | with_reducible exact Within.mono ht rfl
    | exact RegIn.block ht (by decide) rfl
    | with_reducible apply AfterRoute.ite
    | split
    | (with_reducible intro _)
    | with_reducible apply AfterOut.ofNext
    | with_reducible apply AfterOpt.ofSome
    | with_reducible exact AfterOpt.ofNone
    | (with_reducible refine After.ofPair (by assumption) ?_)
    | (with_reducible refine After.ofTriple (by assumption) ?_)
    | (with_reducible refine After.ofOpt (by assumption) ?_)
    | with_reducible apply AfterSome.ofSome
    | with_reducible apply AfterRoute.ofSome
    | with_reducible exact AfterRoute.ofNone
    | with_reducible exact AfterSome.ofNone
    | with_reducible apply AfterEx.ofOk
    | with_reducible exact AfterEx.ofError
    | (with_reducible refine After.ofSealed (by assumption) ?_)
    | (with_reducible refine After.ofOkPair (by assumption) ?_)
    | (with_reducible refine After.ofOk (by assumption) ?_)
    | with_reducible apply After.fold

theorem State.abortCommand_after {b T} (x0) (x1) (ht : Within 0x40040111002601 T) (h1 : After T b x0) :
    After T b (@State.abortCommand x0 x1) := by
  unfold State.abortCommand
  try dsimp only
  repeat' first
    | with_reducible assumption
    | with_reducible apply State.dropReads_after
    | with_reducible apply State.onDirect_after
    | with_reducible apply State.endCommand_after
    | with_reducible exact Within.mono ht rfl
    | exact RegIn.block ht (by decide) rfl
    | with_reducible apply AfterRoute.ite
    | split
    | (with_reducible intro _)
    | with_reducible apply AfterOut.ofNext
    | with_reducible apply AfterOpt.ofSome
    | with_reducible exact AfterOpt.ofNone
    | (with_reducible refine After.ofPair (by assumption) ?_)
    | (with_reducible refine After.ofTriple (by assumption) ?_)
    | (with_reducible refine After.ofOpt (by assumption) ?_)
    | with_reducible apply AfterSome.ofSome
    | with_reducible apply AfterRoute.ofSome
    | with_reducible exact AfterRoute.ofNone
    | with_reducible exact AfterSome.ofNone
    | with_reducible apply AfterEx.ofOk
    | with_reducible exact AfterEx.ofError
    | (with_reducible refine After.ofSealed (by assumption) ?_)
    | (with_reducible refine After.ofOkPair (by assumption) ?_)
    | (with_reducible refine After.ofOk (by assumption) ?_)
    | with_reducible apply After.fold

theorem State.runReservation_after {b T} (x0) (x1) (x2) (x3) (ht : Within 0x40040111002601 T) (h1 : After T b x0) :
    After T b (@State.runReservation x0 x1 x2 x3) := by
  unfold State.runReservation
  try dsimp only
  repeat' first
    | with_reducible assumption
    | with_reducible apply State.endCommand_after
    | with_reducible apply State.each_after
    | with_reducible apply State.abortCommand_after
    | with_reducible apply State.awaitsCommit_after
    | with_reducible apply State.onCommand_after
    | with_reducible apply State.onHost_after
    | with_reducible apply State.changeReservation_after
    | with_reducible exact Within.mono ht rfl
    | exact RegIn.block ht (by decide) rfl
    | with_reducible apply AfterRoute.ite
    | split
    | (with_reducible intro _)
    | with_reducible apply AfterOut.ofNext
    | with_reducible apply AfterOpt.ofSome
    | with_reducible exact AfterOpt.ofNone
    | (with_reducible refine After.ofPair (by assumption) ?_)
    | (with_reducible refine After.ofTriple (by assumption) ?_)
    | (with_reducible refine After.ofOpt (by assumption) ?_)
    | with_reducible apply AfterSome.ofSome
    | with_reducible apply AfterRoute.ofSome
    | with_reducible exact AfterRoute.ofNone
    | with_reducible exact AfterSome.ofNone
    | with_reducible apply AfterEx.ofOk
    | with_reducible exact AfterEx.ofError
    | (with_reducible refine After.ofSealed (by assumption) ?_)
    | (with_reducible refine After.ofOkPair (by assumption) ?_)
    | (with_reducible refine After.ofOk (by assumption) ?_)
    | with_reducible apply After.fold

theorem State.runLocked_after {b T} (x0) (x1) (ht : Within 0x40165911003e01 T) (h1 : After T b x0) :
    After T b (@State.runLocked x0 x1) := by
  unfold State.runLocked
  try dsimp only
  repeat' first
    | with_reducible assumption
    | with_reducible apply State.awaitsCommit_after
    | with_reducible apply State.onCommand_after
    | with_reducible apply State.endCommand_after
    | with_reducible apply State.askRoom_after
    | with_reducible apply State.startReading_after
    | with_reducible apply State.startFetch_after
    | with_reducible apply State.tryDealloc_after
    | with_reducible apply State.askTags_after
    | with_reducible apply State.sendData_after
    | with_reducible apply State.runReservation_after
    | with_reducible exact Within.mono ht rfl
    | exact RegIn.block ht (by decide) rfl
    | with_reducible apply AfterRoute.ite
    | split
    | (with_reducible intro _)
    | with_reducible apply AfterOut.ofNext
    | with_reducible apply AfterOpt.ofSome
    | with_reducible exact AfterOpt.ofNone
    | (with_reducible refine After.ofPair (by assumption) ?_)
    | (with_reducible refine After.ofTriple (by assumption) ?_)
    | (with_reducible refine After.ofOpt (by assumption) ?_)
    | with_reducible apply AfterSome.ofSome
    | with_reducible apply AfterRoute.ofSome
    | with_reducible exact AfterRoute.ofNone
    | with_reducible exact AfterSome.ofNone
    | with_reducible apply AfterEx.ofOk
    | with_reducible exact AfterEx.ofError
    | (with_reducible refine After.ofSealed (by assumption) ?_)
    | (with_reducible refine After.ofOkPair (by assumption) ?_)
    | (with_reducible refine After.ofOk (by assumption) ?_)
    | with_reducible apply After.fold

theorem State.tryLock_after {b T} (x0) (x1) (ht : Within 0x40165911003e01 T) (h1 : After T b x0) :
    After T b (@State.tryLock x0 x1) := by
  unfold State.tryLock
  try dsimp only
  repeat' first
    | with_reducible assumption
    | with_reducible apply State.runLocked_after
    | with_reducible exact Within.mono ht rfl
    | with_reducible apply AfterRoute.ite
    | split

theorem State.trySlot_after {b T} (x0) (x1) (ht : Within 0x40165911003e01 T) (h1 : After T b x0) :
    After T b (@State.trySlot x0 x1) := by
  unfold State.trySlot
  try dsimp only
  repeat' first
    | with_reducible assumption
    | with_reducible apply State.tryLock_after
    | with_reducible apply State.onCommand_after
    | with_reducible exact Within.mono ht rfl
    | with_reducible apply AfterRoute.ite
    | split

theorem State.abortCommands_after {b T} (x0) (x1) (x2) (ht : Within 0x40044111002601 T) (h1 : After T b x0) :
    After T b (@State.abortCommands x0 x1 x2) := by
  unfold State.abortCommands
  try dsimp only
  repeat' first
    | with_reducible assumption
    | with_reducible apply State.showRoomWait_after
    | with_reducible apply State.each_after
    | with_reducible apply State.abortCommand_after
    | with_reducible exact Within.mono ht rfl
    | with_reducible apply AfterRoute.ite
    | split
    | (with_reducible intro _)

theorem State.resetController_after {b T} (x0) (x1) (x2) (ht : Within 0x40044111082601 T) (h1 : After T b x0) :
    After T b (@State.resetController x0 x1 x2) := by
  unfold State.resetController
  try dsimp only
  repeat' first
    | with_reducible assumption
    | with_reducible apply State.abortCommands_after
    | with_reducible apply State.each_after
    | with_reducible apply State.drainQueuePair_after
    | with_reducible apply State.onController_after
    | with_reducible apply State.onHost_after
    | with_reducible apply State.onAdmin_after
    | with_reducible exact Within.mono ht rfl
    | exact RegIn.block ht (by decide) rfl
    | with_reducible apply AfterRoute.ite
    | split
    | (with_reducible intro _)
    | with_reducible apply AfterOut.ofNext
    | with_reducible apply AfterOpt.ofSome
    | with_reducible exact AfterOpt.ofNone
    | (with_reducible refine After.ofPair (by assumption) ?_)
    | (with_reducible refine After.ofTriple (by assumption) ?_)
    | (with_reducible refine After.ofOpt (by assumption) ?_)
    | with_reducible apply AfterSome.ofSome
    | with_reducible apply AfterRoute.ofSome
    | with_reducible exact AfterRoute.ofNone
    | with_reducible exact AfterSome.ofNone
    | with_reducible apply AfterEx.ofOk
    | with_reducible exact AfterEx.ofError
    | (with_reducible refine After.ofSealed (by assumption) ?_)
    | (with_reducible refine After.ofOkPair (by assumption) ?_)
    | (with_reducible refine After.ofOk (by assumption) ?_)
    | with_reducible apply After.fold

theorem State.endQueuePair_after {b T} (x0) (x1) (ht : Within 0x40044111082601 T) (h1 : After T b x0) :
    After T b (@State.endQueuePair x0 x1) := by
  unfold State.endQueuePair
  try dsimp only
  repeat' first
    | with_reducible assumption
    | with_reducible apply State.drainQueuePair_after
    | with_reducible apply State.resetController_after
    | with_reducible exact Within.mono ht rfl
    | exact RegIn.block ht (by decide) rfl
    | with_reducible apply AfterRoute.ite
    | split
    | (with_reducible intro _)
    | with_reducible apply AfterOut.ofNext
    | with_reducible apply AfterOpt.ofSome
    | with_reducible exact AfterOpt.ofNone
    | (with_reducible refine After.ofPair (by assumption) ?_)
    | (with_reducible refine After.ofTriple (by assumption) ?_)
    | (with_reducible refine After.ofOpt (by assumption) ?_)
    | with_reducible apply AfterSome.ofSome
    | with_reducible apply AfterRoute.ofSome
    | with_reducible exact AfterRoute.ofNone
    | with_reducible exact AfterSome.ofNone
    | with_reducible apply AfterEx.ofOk
    | with_reducible exact AfterEx.ofError
    | (with_reducible refine After.ofSealed (by assumption) ?_)
    | (with_reducible refine After.ofOkPair (by assumption) ?_)
    | (with_reducible refine After.ofOk (by assumption) ?_)
    | with_reducible apply After.fold

theorem State.disconnect_after {b T} (x0) (x1) (ht : Within 0x40044111082601 T) (h1 : After T b x0) :
    After T b (@State.disconnect x0 x1) := by
  unfold State.disconnect
  try dsimp only
  repeat' first
    | with_reducible assumption
    | with_reducible apply State.emit_after
    | with_reducible apply State.endQueuePair_after
    | with_reducible exact Within.mono ht rfl
    | exact RegIn.block ht (by decide) rfl
    | with_reducible apply AfterRoute.ite
    | split
    | (with_reducible intro _)
    | with_reducible apply AfterOut.ofNext
    | with_reducible apply AfterOpt.ofSome
    | with_reducible exact AfterOpt.ofNone
    | (with_reducible refine After.ofPair (by assumption) ?_)
    | (with_reducible refine After.ofTriple (by assumption) ?_)
    | (with_reducible refine After.ofOpt (by assumption) ?_)
    | with_reducible apply AfterSome.ofSome
    | with_reducible apply AfterRoute.ofSome
    | with_reducible exact AfterRoute.ofNone
    | with_reducible exact AfterSome.ofNone
    | with_reducible apply AfterEx.ofOk
    | with_reducible exact AfterEx.ofError
    | (with_reducible refine After.ofSealed (by assumption) ?_)
    | (with_reducible refine After.ofOkPair (by assumption) ?_)
    | (with_reducible refine After.ofOk (by assumption) ?_)
    | with_reducible apply After.fold

theorem State.endConnection_after {b T} (x0) (x1) (ht : Within 0x40044111082601 T) (h1 : After T b x0) :
    After T b (@State.endConnection x0 x1) := by
  unfold State.endConnection
  try dsimp only
  repeat' first
    | with_reducible assumption
    | with_reducible apply State.disconnect_after
    | with_reducible exact Within.mono ht rfl
    | with_reducible apply AfterRoute.ite
    | split

theorem State.yieldWalks_after {b T} (x0) (ht : Within 0x80000 T) (h1 : After T b x0) :
    After T b (@State.yieldWalks x0) := by
  unfold State.yieldWalks
  try dsimp only
  repeat' first
    | with_reducible assumption
    | with_reducible apply State.onAdmin_after
    | with_reducible exact Within.mono ht rfl
    | exact RegIn.block ht (by decide) rfl
    | with_reducible apply AfterRoute.ite
    | split
    | (with_reducible intro _)
    | with_reducible apply AfterOut.ofNext
    | with_reducible apply AfterOpt.ofSome
    | with_reducible exact AfterOpt.ofNone
    | (with_reducible refine After.ofPair (by assumption) ?_)
    | (with_reducible refine After.ofTriple (by assumption) ?_)
    | (with_reducible refine After.ofOpt (by assumption) ?_)
    | with_reducible apply AfterSome.ofSome
    | with_reducible apply AfterRoute.ofSome
    | with_reducible exact AfterRoute.ofNone
    | with_reducible exact AfterSome.ofNone
    | with_reducible apply AfterEx.ofOk
    | with_reducible exact AfterEx.ofError
    | (with_reducible refine After.ofSealed (by assumption) ?_)
    | (with_reducible refine After.ofOkPair (by assumption) ?_)
    | (with_reducible refine After.ofOk (by assumption) ?_)
    | with_reducible apply After.fold

theorem State.enter_after {b T} (x0) (x1) (ht : Within 0x40165911003e01 T) (h1 : After T b x0) :
    After T b (@State.enter x0 x1) := by
  unfold State.enter
  try dsimp only
  repeat' first
    | with_reducible assumption
    | with_reducible apply State.trySlot_after
    | with_reducible apply State.event_after
    | with_reducible apply State.onHost_after
    | with_reducible exact Within.mono ht rfl

theorem State.refuse_after {b T} (x0) (x1) (x2) (ht : Within 0x40044111082601 T) (h1 : After T b x0) :
    After T b (@State.refuse x0 x1 x2) := by
  unfold State.refuse
  try dsimp only
  repeat' first
    | with_reducible assumption
    | with_reducible apply State.endConnection_after
    | with_reducible apply State.respond_after
    | with_reducible apply State.logError_after
    | with_reducible exact Within.mono ht rfl
    | exact RegIn.block ht (by decide) rfl
    | with_reducible apply AfterRoute.ite
    | split
    | (with_reducible intro _)
    | with_reducible apply AfterOut.ofNext
    | with_reducible apply AfterOpt.ofSome
    | with_reducible exact AfterOpt.ofNone
    | (with_reducible refine After.ofPair (by assumption) ?_)
    | (with_reducible refine After.ofTriple (by assumption) ?_)
    | (with_reducible refine After.ofOpt (by assumption) ?_)
    | with_reducible apply AfterSome.ofSome
    | with_reducible apply AfterRoute.ofSome
    | with_reducible exact AfterRoute.ofNone
    | with_reducible exact AfterSome.ofNone
    | with_reducible apply AfterEx.ofOk
    | with_reducible exact AfterEx.ofError
    | (with_reducible refine After.ofSealed (by assumption) ?_)
    | (with_reducible refine After.ofOkPair (by assumption) ?_)
    | (with_reducible refine After.ofOk (by assumption) ?_)
    | with_reducible apply After.fold

theorem State.acceptRange_after {b T} (x0) (x1) (x2) (x3) (x4) (x5) (x6) (ht : Within 0x40165911083e01 T) (h1 : After T b x0) :
    After T b (@State.acceptRange x0 x1 x2 x3 x4 x5 x6) := by
  unfold State.acceptRange
  try dsimp only
  repeat' first
    | with_reducible assumption
    | with_reducible apply State.refuse_after
    | with_reducible apply State.enter_after
    | with_reducible exact Within.mono ht rfl
    | exact RegIn.block ht (by decide) rfl
    | with_reducible apply AfterRoute.ite
    | split
    | (with_reducible intro _)
    | with_reducible apply AfterOut.ofNext
    | with_reducible apply AfterOpt.ofSome
    | with_reducible exact AfterOpt.ofNone
    | (with_reducible refine After.ofPair (by assumption) ?_)
    | (with_reducible refine After.ofTriple (by assumption) ?_)
    | (with_reducible refine After.ofOpt (by assumption) ?_)
    | with_reducible apply AfterSome.ofSome
    | with_reducible apply AfterRoute.ofSome
    | with_reducible exact AfterRoute.ofNone
    | with_reducible exact AfterSome.ofNone
    | with_reducible apply AfterEx.ofOk
    | with_reducible exact AfterEx.ofError
    | (with_reducible refine After.ofSealed (by assumption) ?_)
    | (with_reducible refine After.ofOkPair (by assumption) ?_)
    | (with_reducible refine After.ofOk (by assumption) ?_)
    | with_reducible apply After.fold

theorem State.endAdmin_after {b T} (x0) (x1) (x2) (x3) (ht : Within 0x40040111002201 T) (h1 : After T b x0) :
    After T b (@State.endAdmin x0 x1 x2 x3) := by
  unfold State.endAdmin
  try dsimp only
  repeat' first
    | with_reducible assumption
    | with_reducible apply State.onHost_after
    | with_reducible apply State.emit_after
    | with_reducible apply State.respond_after
    | with_reducible apply State.logError_after
    | with_reducible exact Within.mono ht rfl
    | exact RegIn.block ht (by decide) rfl
    | with_reducible apply AfterRoute.ite
    | split
    | (with_reducible intro _)
    | with_reducible apply AfterOut.ofNext
    | with_reducible apply AfterOpt.ofSome
    | with_reducible exact AfterOpt.ofNone
    | (with_reducible refine After.ofPair (by assumption) ?_)
    | (with_reducible refine After.ofTriple (by assumption) ?_)
    | (with_reducible refine After.ofOpt (by assumption) ?_)
    | with_reducible apply AfterSome.ofSome
    | with_reducible apply AfterRoute.ofSome
    | with_reducible exact AfterRoute.ofNone
    | with_reducible exact AfterSome.ofNone
    | with_reducible apply AfterEx.ofOk
    | with_reducible exact AfterEx.ofError
    | (with_reducible refine After.ofSealed (by assumption) ?_)
    | (with_reducible refine After.ofOkPair (by assumption) ?_)
    | (with_reducible refine After.ofOk (by assumption) ?_)
    | with_reducible apply After.fold

theorem State.releaseAtBoundary_after {b T} (x0) (x1) (ht : Within 0x40040111002601 T) (h1 : After T b x0) :
    After T b (@State.releaseAtBoundary x0 x1) := by
  unfold State.releaseAtBoundary
  try dsimp only
  repeat' first
    | with_reducible assumption
    | with_reducible apply State.each_after
    | with_reducible apply State.endCommand_after
    | with_reducible exact Within.mono ht rfl
    | with_reducible apply AfterRoute.ite
    | split
    | (with_reducible intro _)

end Sys2Proof.Machine
end

