-- ==== Sys2Proof/Laws/After/Mem.lean ====
section
/-! SUPPORT. What the operations of Mem keep (Laws/After.lean). -/

set_option Elab.async false
set_option linter.all false

namespace Sys2Proof.Machine

theorem State.markStore_after {b T} (x0) (x1) (x2) (ht : Within 0x10000008000000 T) (h1 : After T b x0) :
    After T b (@State.markStore x0 x1 x2) := by
  unfold State.markStore
  try dsimp only
  repeat' first
    | with_reducible assumption
    | with_reducible apply State.onIntegrity_after
    | with_reducible apply State.wrs_after
    | with_reducible exact Within.mono ht rfl
    | exact RegIn.block ht (by decide) rfl
    | with_reducible apply FieldsIn.cons
    | with_reducible exact FieldsIn.nil
    | with_reducible apply AfterRoute.ite
    | split

theorem State.storeBytes_after {b T} (x0) (x1) (x2) (ht : Within 0x10000008004000 T) (h1 : After T b x0) : After T b (@State.storeBytes x0 x1 x2) := by
  have h2 : After T b (x0.onMem (Memory.setMany x1 x2)) := by
    obtain ⟨c, p, l, o⟩ := h1
    refine ⟨fun k => ⟨(c k).1, Memory.setMany_wf (c k).2⟩, p, l, fun x e => Part.same_trans (o x e) ?_⟩
    cases x <;> first | rfl | exact fun _ _ _ _ _ => rfl | skip
    rw [ht.bit rfl] at e
    cases e
  exact State.markStore_after _ _ _ (ht.mono rfl) h2

end Sys2Proof.Machine
end

