-- ==== Sys2Proof/Laws/After/Cipher.lean ====
section
/-! SUPPORT. What the operations of Cipher keep (Laws/After.lean). -/

set_option Elab.async false
set_option linter.all false

namespace Sys2Proof.Machine

theorem State.loadSlot_after {b T} (x0) (x1) (x2) (x3) (x4) (ht : Within 0x8000 T) (h1 : After T b x0) :
    After T b (@State.loadSlot x0 x1 x2 x3 x4) := by
  unfold State.loadSlot
  try dsimp only
  repeat' first
    | with_reducible assumption
    | with_reducible apply State.onKeys_after

theorem State.zeroiseSlot_after {b T} (x0) (x1) (ht : Within 0x100000008000 T) (h1 : After T b x0) :
    After T b (@State.zeroiseSlot x0 x1) := by
  unfold State.zeroiseSlot
  try dsimp only
  repeat' first
    | with_reducible assumption
    | with_reducible apply State.onKeys_after
    | with_reducible apply State.wr_after
    | with_reducible exact Within.mono ht rfl
    | exact RegIn.block ht (by decide) rfl
    | with_reducible apply AfterRoute.ite
    | split

theorem State.setHighWater_after {b T} (x0) (x1) (x2) (x3) (ht : Within 0x8000 T) (h1 : After T b x0) :
    After T b (@State.setHighWater x0 x1 x2 x3) := by
  unfold State.setHighWater
  try dsimp only
  repeat' first
    | with_reducible assumption
    | with_reducible apply State.onKeys_after

theorem State.refuseCounter_after {b T} (x0) (ht : Within 0x100000000000 T) (h1 : After T b x0) :
    After T b (@State.refuseCounter x0) := by
  unfold State.refuseCounter
  try dsimp only
  repeat' first
    | with_reducible assumption
    | with_reducible apply State.count_after
    | with_reducible exact Within.mono ht rfl
    | exact RegIn.block ht (by decide) rfl

theorem State.raiseHighWater_after {b T} (x0) (x1) (x2) (x3) (ht : Within 0x8000 T) (h1 : After T b x0) :
    After T b (@State.raiseHighWater x0 x1 x2 x3) := by
  unfold State.raiseHighWater
  try dsimp only
  repeat' first
    | with_reducible assumption
    | with_reducible apply State.setHighWater_after
    | with_reducible exact Within.mono ht rfl
    | with_reducible apply AfterRoute.ite
    | split

theorem State.sealRecord_after {b T} (x0) (x1) (x2) (x3) (x4) (x5) (ht : Within 0x100000008000 T) (h1 : After T b x0) :
    AfterSome T b (fun v => v.2.2) ((@State.sealRecord x0 x1 x2 x3 x4 x5)) := by
  unfold State.sealRecord
  try dsimp only
  repeat' first
    | with_reducible assumption
    | with_reducible apply State.count_after
    | with_reducible apply State.setHighWater_after
    | with_reducible exact Within.mono ht rfl
    | exact RegIn.block ht (by decide) rfl
    | with_reducible apply AfterRoute.ite
    | split
    | (with_reducible intro _)
    | with_reducible apply AfterOut.ofNext
    | with_reducible apply AfterOpt.ofSome
    | with_reducible exact AfterOpt.ofNone
    | (with_reducible refine After.ofPair (by assumption) ?_)
    | (with_reducible refine After.ofTriple (by assumption) ?_)
    | (with_reducible refine After.ofOpt (by assumption) ?_)
    | with_reducible apply AfterSome.ofSome
    | with_reducible apply AfterRoute.ofSome
    | with_reducible exact AfterRoute.ofNone
    | with_reducible exact AfterSome.ofNone

theorem State.tagMismatch_after {b T} (x0) (x1) (ht : Within 0x603400110000c0 T) (h1 : After T b x0) :
    After T b (@State.tagMismatch x0 x1) := by
  unfold State.tagMismatch
  try dsimp only
  repeat' first
    | with_reducible assumption
    | with_reducible apply State.plainFault_after
    | with_reducible apply State.count_after
    | with_reducible exact Within.mono ht rfl
    | exact RegIn.block ht (by decide) rfl

theorem State.tryTrain_after {b T} (x0) (ht : Within 0x8000001000 T) (h1 : After T b x0) :
    After T b (@State.tryTrain x0) := by
  unfold State.tryTrain
  try dsimp only
  repeat' first
    | with_reducible assumption
    | with_reducible apply State.onLink_after
    | with_reducible apply State.wr_after
    | with_reducible exact Within.mono ht rfl
    | exact RegIn.block ht (by decide) rfl
    | with_reducible apply AfterRoute.ite
    | split
    | (with_reducible intro _)
    | with_reducible apply AfterOut.ofNext
    | with_reducible apply AfterOpt.ofSome
    | with_reducible exact AfterOpt.ofNone
    | (with_reducible refine After.ofPair (by assumption) ?_)
    | (with_reducible refine After.ofTriple (by assumption) ?_)
    | (with_reducible refine After.ofOpt (by assumption) ?_)
    | with_reducible apply AfterSome.ofSome
    | with_reducible apply AfterRoute.ofSome
    | with_reducible exact AfterRoute.ofNone
    | with_reducible exact AfterSome.ofNone
    | with_reducible apply AfterEx.ofOk
    | with_reducible exact AfterEx.ofError
    | (with_reducible refine After.ofSealed (by assumption) ?_)
    | (with_reducible refine After.ofOkPair (by assumption) ?_)
    | (with_reducible refine After.ofOk (by assumption) ?_)
    | with_reducible apply After.fold

theorem State.keepBlob_after {b T} (x0) (x1) (x2) (ht : Within 0x200 T) (h1 : After T b x0) :
    After T b (@State.keepBlob x0 x1 x2) := by
  unfold State.keepBlob
  try dsimp only
  repeat' first
    | with_reducible assumption
    | with_reducible apply State.onHost_after

theorem State.keyGenerate_after {b T} (x0) (x1) (x2) (ht : Within 0x1000000800c201 T) (h1 : After T b x0) :
    After T b (Prod.snd ((@State.keyGenerate x0 x1 x2))) := by
  unfold State.keyGenerate
  try dsimp only
  repeat' first
    | with_reducible assumption
    | with_reducible apply State.random_after
    | with_reducible apply State.storeBytes_after
    | with_reducible apply State.keepBlob_after
    | with_reducible apply State.loadSlot_after
    | with_reducible exact Within.mono ht rfl
    | with_reducible apply AfterRoute.ite
    | split

theorem State.keyUnwrap_after {b T} (x0) (x1) (x2) (ht : Within 0x603400110080c0 T) (h1 : After T b x0) :
    After T b (Prod.snd ((@State.keyUnwrap x0 x1 x2))) := by
  unfold State.keyUnwrap
  try dsimp only
  repeat' first
    | with_reducible assumption
    | with_reducible apply State.tagMismatch_after
    | with_reducible apply State.loadSlot_after
    | with_reducible exact Within.mono ht rfl
    | with_reducible apply AfterRoute.ite
    | split

theorem State.keyZeroise_after {b T} (x0) (x1) (ht : Within 0x100000008000 T) (h1 : After T b x0) :
    After T b (Prod.snd ((@State.keyZeroise x0 x1))) := by
  unfold State.keyZeroise
  try dsimp only
  repeat' first
    | with_reducible assumption
    | with_reducible apply State.zeroiseSlot_after
    | with_reducible exact Within.mono ht rfl
    | with_reducible apply AfterRoute.ite
    | split

theorem State.keyDerivePair_after {b T} (x0) (ht : Within 0x8000009000 T) (h1 : After T b x0) :
    After T b (Prod.snd ((@State.keyDerivePair x0))) := by
  unfold State.keyDerivePair
  try dsimp only
  repeat' first
    | with_reducible assumption
    | with_reducible apply State.tryTrain_after
    | with_reducible apply State.loadSlot_after
    | with_reducible exact Within.mono ht rfl
    | with_reducible apply AfterRoute.ite
    | split

theorem State.rewrap_after {b T} (x0) (x1) (x2) (x3) (x4) (ht : Within 0x10000008004200 T) (h1 : After T b x0) :
    AfterOpt T b ((@State.rewrap x0 x1 x2 x3 x4)) := by
  induction x3 generalizing x0 x4 with
  | zero =>
    unfold State.rewrap
    try dsimp only
    repeat' first
      | with_reducible assumption
      | with_reducible apply State.keepBlob_after
      | with_reducible apply State.storeBytes_after
      | with_reducible exact Within.mono ht rfl
      | with_reducible apply AfterRoute.ite
      | split
      | (with_reducible intro _)
      | with_reducible apply AfterOut.ofNext
      | with_reducible apply AfterOpt.ofSome
  | succ n ih =>
    unfold State.rewrap
    try dsimp only
    repeat' first
      | with_reducible assumption
      | with_reducible apply State.keepBlob_after
      | with_reducible apply State.storeBytes_after
      | with_reducible apply ih
      | with_reducible exact Within.mono ht rfl
      | with_reducible apply AfterRoute.ite
      | split
      | (with_reducible intro _)
      | with_reducible apply AfterOut.ofNext
      | with_reducible apply AfterOpt.ofSome
      | with_reducible exact AfterOpt.ofNone

theorem State.newKek_after {b T} (x0) (ht : Within 0x100000008001 T) (h1 : After T b x0) :
    After T b (Prod.snd (Prod.snd ((@State.newKek x0)))) := by
  unfold State.newKek
  try dsimp only
  repeat' first
    | with_reducible assumption
    | with_reducible apply State.random_after
    | with_reducible apply State.onKeys_after
    | with_reducible apply State.wrs_after
    | with_reducible exact Within.mono ht rfl
    | exact RegIn.block ht (by decide) rfl
    | with_reducible apply FieldsIn.cons
    | with_reducible exact FieldsIn.nil

theorem State.destroyOldKeks_after {b T} (x0) (ht : Within 0x100000008000 T) (h1 : After T b x0) :
    After T b (@State.destroyOldKeks x0) := by
  unfold State.destroyOldKeks
  try dsimp only
  repeat' first
    | with_reducible assumption
    | with_reducible apply State.onKeys_after
    | with_reducible apply State.wr_after
    | with_reducible exact Within.mono ht rfl
    | exact RegIn.block ht (by decide) rfl

theorem State.ratchetAlone_after {b T} (x0) (ht : Within 0x100000008000 T) (h1 : After T b x0) :
    After T b (@State.ratchetAlone x0) := by
  unfold State.ratchetAlone
  try dsimp only
  repeat' first
    | with_reducible assumption
    | with_reducible apply State.destroyOldKeks_after
    | with_reducible exact Within.mono ht rfl
    | with_reducible apply AfterRoute.ite
    | split

theorem State.kekRatchet_after {b T} (x0) (x1) (x2) (ht : Within 0x1010000800c201 T) (h1 : After T b x0) :
    After T b (Prod.snd ((@State.kekRatchet x0 x1 x2))) := by
  unfold State.kekRatchet
  try dsimp only
  repeat' first
    | with_reducible assumption
    | with_reducible apply State.newKek_after
    | with_reducible apply State.rewrap_after
    | with_reducible apply State.ratchetAlone_after
    | with_reducible apply State.storeBytes_after
    | with_reducible exact Within.mono ht rfl
    | with_reducible apply AfterRoute.ite
    | split
    | (with_reducible intro _)
    | with_reducible apply AfterOut.ofNext
    | with_reducible apply AfterOpt.ofSome
    | with_reducible exact AfterOpt.ofNone
    | (with_reducible refine After.ofPair (by assumption) ?_)
    | (with_reducible refine After.ofTriple (by assumption) ?_)
    | (with_reducible refine After.ofOpt (by assumption) ?_)

theorem State.highWaterLoad_after {b T} (x0) (x1) (x2) (x3) (ht : Within 0x8000 T) (h1 : After T b x0) :
    After T b (Prod.snd ((@State.highWaterLoad x0 x1 x2 x3))) := by
  unfold State.highWaterLoad
  try dsimp only
  repeat' first
    | with_reducible assumption
    | with_reducible apply State.raiseHighWater_after
    | with_reducible exact Within.mono ht rfl
    | with_reducible apply AfterRoute.ite
    | split

theorem State.slotStatus_after {b T} (x0) (x1) (x2) (ht : Within 0x10000008004000 T) (h1 : After T b x0) :
    After T b (Prod.snd ((@State.slotStatus x0 x1 x2))) := by
  unfold State.slotStatus
  try dsimp only
  repeat' first
    | with_reducible assumption
    | with_reducible apply State.storeBytes_after
    | with_reducible exact Within.mono ht rfl
    | with_reducible apply AfterRoute.ite
    | split

theorem State.kekImport_after {b T} (x0) (x1) (ht : Within 0x603400110080c0 T) (h1 : After T b x0) :
    After T b (Prod.snd (@State.kekImport x0 x1)) := by
  unfold State.kekImport
  try dsimp only
  repeat' first
    | with_reducible assumption
    | with_reducible apply State.tagMismatch_after
    | with_reducible apply State.onKeys_after
    | with_reducible apply State.wr_after
    | with_reducible exact Within.mono ht rfl
    | exact RegIn.block ht (by decide) rfl
    | with_reducible apply AfterRoute.ite
    | split
    | (with_reducible intro _)
    | with_reducible apply AfterOut.ofNext
    | with_reducible apply AfterOpt.ofSome
    | with_reducible exact AfterOpt.ofNone
    | (with_reducible refine After.ofPair (by assumption) ?_)
    | (with_reducible refine After.ofTriple (by assumption) ?_)
    | (with_reducible refine After.ofOpt (by assumption) ?_)
    | with_reducible apply AfterSome.ofSome
    | with_reducible apply AfterRoute.ofSome
    | with_reducible exact AfterRoute.ofNone
    | with_reducible exact AfterSome.ofNone
    | with_reducible apply AfterEx.ofOk
    | with_reducible exact AfterEx.ofError
    | (with_reducible refine After.ofSealed (by assumption) ?_)
    | (with_reducible refine After.ofOkPair (by assumption) ?_)
    | (with_reducible refine After.ofOk (by assumption) ?_)
    | with_reducible apply After.fold

theorem State.keyOperation_after {b T} (x0) (x1) (ht : Within 0x7034801900d2c1 T) (h1 : After T b x0) :
    After T b (Prod.snd ((@State.keyOperation x0 x1))) := by
  unfold State.keyOperation
  try dsimp only
  repeat' first
    | with_reducible assumption
    | with_reducible apply State.keyGenerate_after
    | with_reducible apply State.keyUnwrap_after
    | with_reducible apply State.keyZeroise_after
    | with_reducible apply State.keyDerivePair_after
    | with_reducible apply State.kekRatchet_after
    | with_reducible apply State.highWaterLoad_after
    | with_reducible apply State.slotStatus_after
    | with_reducible apply State.kekImport_after
    | with_reducible exact Within.mono ht rfl
    | with_reducible apply AfterRoute.ite
    | split

theorem State.runKeyCommand_after {b T} (x0) (x1) (ht : Within 0x7034801900d2c1 T) (h1 : After T b x0) :
    After T b (@State.runKeyCommand x0 x1) := by
  unfold State.runKeyCommand
  try dsimp only
  repeat' first
    | with_reducible assumption
    | with_reducible apply State.onKeys_after
    | with_reducible apply State.wr_after
    | with_reducible apply State.keyOperation_after
    | with_reducible apply State.count_after
    | with_reducible apply State.wrs_after
    | with_reducible exact Within.mono ht rfl
    | exact RegIn.block ht (by decide) rfl
    | with_reducible apply FieldsIn.cons
    | with_reducible exact FieldsIn.nil
    | with_reducible apply AfterRoute.ite
    | split

theorem State.releaseSlot_after {b T} (x0) (x1) (ht : Within 0x7034801900d2c1 T) (h1 : After T b x0) :
    After T b (@State.releaseSlot x0 x1) := by
  unfold State.releaseSlot
  try dsimp only
  repeat' first
    | with_reducible assumption
    | with_reducible apply State.onKeys_after
    | with_reducible apply State.runKeyCommand_after
    | with_reducible exact Within.mono ht rfl
    | with_reducible apply AfterRoute.ite
    | split

theorem State.keyCommandWrite_after {b T} (x0) (x1) (x2) (x3) (ht : Within 0x7134801900d2cb T) (h1 : After T b x0) :
    After T b (@State.keyCommandWrite x0 x1 x2 x3) := by
  unfold State.keyCommandWrite
  try dsimp only
  repeat' first
    | with_reducible assumption
    | with_reducible apply State.commandWrite_after
    | with_reducible apply State.runKeyCommand_after
    | with_reducible exact Within.mono ht rfl
    | exact RegIn.block ht (by decide) rfl
    | exact NotWall (by omega) (by omega)
    | with_reducible apply AfterRoute.ite
    | split
    | (with_reducible intro _)

theorem execKeyGenerate_after {b T} (x0) (x1) (x2) (ht : Within 0x7134801900d2cb T) (h3 : After T b x2) :
    AfterOut T b ((@execKeyGenerate x0 x1 x2)) := by
  unfold execKeyGenerate
  try dsimp only
  repeat' first
    | with_reducible assumption
    | with_reducible apply onSoc_after
    | with_reducible apply State.keyCommandWrite_after
    | with_reducible exact Within.mono ht rfl
    | with_reducible apply AfterRoute.ite
    | split
    | (with_reducible intro _)

theorem execKeyUnwrap_after {b T} (x0) (x1) (x2) (ht : Within 0x7134801900d2cb T) (h3 : After T b x2) :
    AfterOut T b ((@execKeyUnwrap x0 x1 x2)) := by
  unfold execKeyUnwrap
  try dsimp only
  repeat' first
    | with_reducible assumption
    | with_reducible apply onSoc_after
    | with_reducible apply State.keyCommandWrite_after
    | with_reducible exact Within.mono ht rfl
    | with_reducible apply AfterRoute.ite
    | split
    | (with_reducible intro _)

theorem execKeyZeroise_after {b T} (x0) (x1) (x2) (ht : Within 0x7134801900d2cb T) (h3 : After T b x2) :
    AfterOut T b ((@execKeyZeroise x0 x1 x2)) := by
  unfold execKeyZeroise
  try dsimp only
  repeat' first
    | with_reducible assumption
    | with_reducible apply onSoc_after
    | with_reducible apply State.keyCommandWrite_after
    | with_reducible exact Within.mono ht rfl
    | with_reducible apply AfterRoute.ite
    | split
    | (with_reducible intro _)

theorem execKeyDerivePair_after {b T} (x0) (x1) (ht : Within 0x7134801900d2cb T) (h2 : After T b x1) :
    AfterOut T b ((@execKeyDerivePair x0 x1)) := by
  unfold execKeyDerivePair
  try dsimp only
  repeat' first
    | with_reducible assumption
    | with_reducible apply onSoc_after
    | with_reducible apply State.keyCommandWrite_after
    | with_reducible exact Within.mono ht rfl
    | with_reducible apply AfterRoute.ite
    | split
    | (with_reducible intro _)

theorem execKekRatchet_after {b T} (x0) (x1) (ht : Within 0x7134801900d2cb T) (h2 : After T b x1) :
    AfterOut T b ((@execKekRatchet x0 x1)) := by
  unfold execKekRatchet
  try dsimp only
  repeat' first
    | with_reducible assumption
    | with_reducible apply onSoc_after
    | with_reducible apply State.keyCommandWrite_after
    | with_reducible exact Within.mono ht rfl
    | with_reducible apply AfterRoute.ite
    | split
    | (with_reducible intro _)

theorem execHighWaterLoad_after {b T} (x0) (x1) (x2) (ht : Within 0x7134801900d2cb T) (h3 : After T b x2) :
    AfterOut T b ((@execHighWaterLoad x0 x1 x2)) := by
  unfold execHighWaterLoad
  try dsimp only
  repeat' first
    | with_reducible assumption
    | with_reducible apply onSoc_after
    | with_reducible apply State.keyCommandWrite_after
    | with_reducible exact Within.mono ht rfl
    | with_reducible apply AfterRoute.ite
    | split
    | (with_reducible intro _)

theorem execSlotStatusRead_after {b T} (x0) (x1) (x2) (ht : Within 0x7134801900d2cb T) (h3 : After T b x2) :
    AfterOut T b ((@execSlotStatusRead x0 x1 x2)) := by
  unfold execSlotStatusRead
  try dsimp only
  repeat' first
    | with_reducible assumption
    | with_reducible apply onSoc_after
    | with_reducible apply State.keyCommandWrite_after
    | with_reducible exact Within.mono ht rfl
    | with_reducible apply AfterRoute.ite
    | split
    | (with_reducible intro _)

theorem execKekImport_after {b T} (x0) (x1) (ht : Within 0x7134801900d2cb T) (h2 : After T b x1) :
    AfterOut T b ((@execKekImport x0 x1)) := by
  unfold execKekImport
  try dsimp only
  repeat' first
    | with_reducible assumption
    | with_reducible apply onSoc_after
    | with_reducible apply State.keyCommandWrite_after
    | with_reducible exact Within.mono ht rfl
    | with_reducible apply AfterRoute.ite
    | split
    | (with_reducible intro _)

end Sys2Proof.Machine
end

