-- ==== Sys2Proof/Laws/After/Witness.lean ====
section
/-! SUPPORT. What the operations of Witness keep (Laws/After.lean). -/

set_option Elab.async false
set_option linter.all false

namespace Sys2Proof.Machine

theorem State.sendSlot_after {b T} (x0) (x1) (x2) (x3) (x4) (x5) (ht : Within 0x40020010000400 T) (h1 : After T b x0) :
    After T b (@State.sendSlot x0 x1 x2 x3 x4 x5) := by
  unfold State.sendSlot
  try dsimp only
  repeat' first
    | with_reducible assumption
    | with_reducible apply State.issue_after
    | with_reducible exact Within.mono ht rfl
    | exact RegIn.block ht (by decide) rfl
    | with_reducible apply AfterRoute.ite
    | split
    | (with_reducible intro _)
    | with_reducible apply AfterOut.ofNext
    | with_reducible apply AfterOpt.ofSome
    | with_reducible exact AfterOpt.ofNone
    | (with_reducible refine After.ofPair (by assumption) ?_)
    | (with_reducible refine After.ofTriple (by assumption) ?_)
    | (with_reducible refine After.ofOpt (by assumption) ?_)
    | with_reducible apply AfterSome.ofSome
    | with_reducible apply AfterRoute.ofSome
    | with_reducible exact AfterRoute.ofNone
    | with_reducible exact AfterSome.ofNone
    | with_reducible apply AfterEx.ofOk
    | with_reducible exact AfterEx.ofError
    | (with_reducible refine After.ofSealed (by assumption) ?_)
    | (with_reducible refine After.ofOkPair (by assumption) ?_)
    | (with_reducible refine After.ofOk (by assumption) ?_)
    | with_reducible apply After.fold

end Sys2Proof.Machine
end

