-- ==== Sys2Proof/Laws/After/WalkOps.lean ====
section
/-! SUPPORT. What the operations of WalkOps keep (Laws/After.lean). -/

set_option Elab.async false
set_option linter.all false

namespace Sys2Proof.Machine

theorem State.onLongOp_after {b T} (x0) (x1) (x2) (ht : Within 0x80000 T) (h1 : After T b x0) :
    After T b (@State.onLongOp x0 x1 x2) := by
  unfold State.onLongOp
  try dsimp only
  repeat' first
    | with_reducible assumption
    | with_reducible apply State.onAdmin_after

theorem State.writeProgress_after {b T} (x0) (x1) (x2) (ht : Within 0x40120010088400 T) (h1 : After T b x0) :
    After T b (@State.writeProgress x0 x1 x2) := by
  unfold State.writeProgress
  try dsimp only
  repeat' first
    | with_reducible assumption
    | with_reducible apply State.sealRecord_after
    | with_reducible apply State.refuseCounter_after
    | with_reducible apply State.onAdmin_after
    | with_reducible apply State.each_after
    | with_reducible apply State.sendSlot_after
    | with_reducible exact Within.mono ht rfl
    | with_reducible apply AfterRoute.ite
    | split
    | (with_reducible intro _)
    | with_reducible apply AfterOut.ofNext
    | with_reducible apply AfterOpt.ofSome
    | with_reducible exact AfterOpt.ofNone
    | (with_reducible refine After.ofPair (by assumption) ?_)
    | (with_reducible refine After.ofTriple (by assumption) ?_)
    | (with_reducible refine After.ofOpt (by assumption) ?_)
    | with_reducible apply AfterSome.ofSome
    | with_reducible apply AfterRoute.ofSome
    | with_reducible exact AfterRoute.ofNone
    | with_reducible exact AfterSome.ofNone
    | with_reducible apply AfterEx.ofOk
    | with_reducible exact AfterEx.ofError
    | (with_reducible refine After.ofSealed (by assumption) ?_)

theorem State.rewrapAll_after {b T} (x0) (x1) (x2) (ht : Within 0x200 T) (h1 : After T b x0) :
    After T b (@State.rewrapAll x0 x1 x2) := by
  unfold State.rewrapAll
  try dsimp only
  repeat' first
    | with_reducible assumption
    | with_reducible apply State.each_after
    | with_reducible apply State.keepBlob_after
    | with_reducible exact Within.mono ht rfl
    | with_reducible apply AfterRoute.ite
    | split
    | (with_reducible intro _)

theorem State.retireKeys_after {b T} (x0) (x1) (ht : Within 0x100000008201 T) (h1 : After T b x0) :
    After T b (@State.retireKeys x0 x1) := by
  unfold State.retireKeys
  try dsimp only
  repeat' first
    | with_reducible assumption
    | with_reducible apply State.each_after
    | with_reducible apply State.emit_after
    | with_reducible apply State.keepBlob_after
    | with_reducible apply State.zeroiseSlot_after
    | with_reducible apply State.newKek_after
    | with_reducible apply State.ratchetAlone_after
    | with_reducible apply State.rewrapAll_after
    | with_reducible exact Within.mono ht rfl
    | with_reducible apply AfterRoute.ite
    | split
    | (with_reducible intro _)

theorem State.installKey_after {b T} (x0) (x1) (ht : Within 0x8201 T) (h1 : After T b x0) :
    After T b (@State.installKey x0 x1) := by
  unfold State.installKey
  try dsimp only
  repeat' first
    | with_reducible assumption
    | with_reducible apply State.random_after
    | with_reducible apply State.keepBlob_after
    | with_reducible apply State.loadSlot_after
    | with_reducible exact Within.mono ht rfl
    | with_reducible apply AfterRoute.ite
    | split

theorem State.walkStripe_after {b T} (x0) (x1) (x2) (x3) (ht : Within 0x5000000c00 T) (h1 : After T b x0) :
    After T b (@State.walkStripe x0 x1 x2 x3) := by
  unfold State.walkStripe
  try dsimp only
  repeat' first
    | with_reducible assumption
    | with_reducible apply State.setMapBit_after
    | with_reducible apply State.onStore_after
    | with_reducible exact Within.mono ht rfl
    | with_reducible apply AfterRoute.ite
    | split

theorem State.walkFormatUnit_after {b T} (x0) (x1) (x2) (ht : Within 0x5000000c00 T) (h1 : After T b x0) :
    After T b (@State.walkFormatUnit x0 x1 x2) := by
  unfold State.walkFormatUnit
  try dsimp only
  repeat' first
    | with_reducible assumption
    | with_reducible apply State.each_after
    | with_reducible apply State.walkStripe_after
    | with_reducible exact Within.mono ht rfl
    | with_reducible apply AfterRoute.ite
    | split
    | (with_reducible intro _)

theorem State.walkSanitizeUnit_after {b T} (x0) (x1) (x2) (ht : Within 0x5000000c00 T) (h1 : After T b x0) :
    After T b (@State.walkSanitizeUnit x0 x1 x2) := by
  unfold State.walkSanitizeUnit
  try dsimp only
  repeat' first
    | with_reducible assumption
    | with_reducible apply State.forgetTags_after
    | with_reducible apply State.onEnergy_after
    | with_reducible apply State.each_after
    | with_reducible apply State.walkStripe_after
    | with_reducible exact Within.mono ht rfl
    | exact RegIn.block ht (by decide) rfl
    | with_reducible apply AfterRoute.ite
    | split
    | (with_reducible intro _)
    | with_reducible apply AfterOut.ofNext
    | with_reducible apply AfterOpt.ofSome
    | with_reducible exact AfterOpt.ofNone
    | (with_reducible refine After.ofPair (by assumption) ?_)
    | (with_reducible refine After.ofTriple (by assumption) ?_)
    | (with_reducible refine After.ofOpt (by assumption) ?_)
    | with_reducible apply AfterSome.ofSome
    | with_reducible apply AfterRoute.ofSome
    | with_reducible exact AfterRoute.ofNone
    | with_reducible exact AfterSome.ofNone
    | with_reducible apply AfterEx.ofOk
    | with_reducible exact AfterEx.ofError
    | (with_reducible refine After.ofSealed (by assumption) ?_)
    | (with_reducible refine After.ofOkPair (by assumption) ?_)
    | (with_reducible refine After.ofOk (by assumption) ?_)
    | with_reducible apply After.fold

theorem State.discardCopies_after {b T} (x0) (ht : Within 0x4800000400 T) (h1 : After T b x0) :
    After T b (@State.discardCopies x0) := by
  unfold State.discardCopies
  try dsimp only
  repeat' first
    | with_reducible assumption
    | with_reducible apply State.each_after
    | with_reducible apply State.journalRecord_after
    | with_reducible apply State.showDirty_after
    | with_reducible apply State.onStore_after
    | with_reducible exact Within.mono ht rfl
    | exact RegIn.block ht (by decide) rfl
    | with_reducible apply AfterRoute.ite
    | split
    | (with_reducible intro _)
    | with_reducible apply AfterOut.ofNext
    | with_reducible apply AfterOpt.ofSome
    | with_reducible exact AfterOpt.ofNone
    | (with_reducible refine After.ofPair (by assumption) ?_)
    | (with_reducible refine After.ofTriple (by assumption) ?_)
    | (with_reducible refine After.ofOpt (by assumption) ?_)
    | with_reducible apply AfterSome.ofSome
    | with_reducible apply AfterRoute.ofSome
    | with_reducible exact AfterRoute.ofNone
    | with_reducible exact AfterSome.ofNone
    | with_reducible apply AfterEx.ofOk
    | with_reducible exact AfterEx.ofError
    | (with_reducible refine After.ofSealed (by assumption) ?_)
    | (with_reducible refine After.ofOkPair (by assumption) ?_)
    | (with_reducible refine After.ofOk (by assumption) ?_)
    | with_reducible apply After.fold

theorem State.startRetirement_after {b T} (x0) (x1) (ht : Within 0x104800088601 T) (h1 : After T b x0) :
    After T b (@State.startRetirement x0 x1) := by
  unfold State.startRetirement
  try dsimp only
  repeat' first
    | with_reducible assumption
    | with_reducible apply State.discardCopies_after
    | with_reducible apply State.retireKeys_after
    | with_reducible apply State.onLongOp_after
    | with_reducible apply State.each_after
    | with_reducible apply State.installKey_after
    | with_reducible exact Within.mono ht rfl
    | exact RegIn.block ht (by decide) rfl
    | with_reducible apply AfterRoute.ite
    | split
    | (with_reducible intro _)
    | with_reducible apply AfterOut.ofNext
    | with_reducible apply AfterOpt.ofSome
    | with_reducible exact AfterOpt.ofNone
    | (with_reducible refine After.ofPair (by assumption) ?_)
    | (with_reducible refine After.ofTriple (by assumption) ?_)
    | (with_reducible refine After.ofOpt (by assumption) ?_)
    | with_reducible apply AfterSome.ofSome
    | with_reducible apply AfterRoute.ofSome
    | with_reducible exact AfterRoute.ofNone
    | with_reducible exact AfterSome.ofNone
    | with_reducible apply AfterEx.ofOk
    | with_reducible exact AfterEx.ofError
    | (with_reducible refine After.ofSealed (by assumption) ?_)
    | (with_reducible refine After.ofOkPair (by assumption) ?_)
    | (with_reducible refine After.ofOk (by assumption) ?_)
    | with_reducible apply After.fold

theorem State.endRetirement_after {b T} (x0) (x1) (ht : Within 0x4016011108a601 T) (h1 : After T b x0) :
    After T b (@State.endRetirement x0 x1) := by
  unfold State.endRetirement
  try dsimp only
  repeat' first
    | with_reducible assumption
    | with_reducible apply State.onLongOp_after
    | with_reducible apply State.writeProgress_after
    | with_reducible apply State.endAdmin_after
    | with_reducible exact Within.mono ht rfl
    | exact RegIn.block ht (by decide) rfl
    | with_reducible apply AfterRoute.ite
    | split
    | (with_reducible intro _)
    | with_reducible apply AfterOut.ofNext
    | with_reducible apply AfterOpt.ofSome
    | with_reducible exact AfterOpt.ofNone
    | (with_reducible refine After.ofPair (by assumption) ?_)
    | (with_reducible refine After.ofTriple (by assumption) ?_)
    | (with_reducible refine After.ofOpt (by assumption) ?_)
    | with_reducible apply AfterSome.ofSome
    | with_reducible apply AfterRoute.ofSome
    | with_reducible exact AfterRoute.ofNone
    | with_reducible exact AfterSome.ofNone
    | with_reducible apply AfterEx.ofOk
    | with_reducible exact AfterEx.ofError
    | (with_reducible refine After.ofSealed (by assumption) ?_)
    | (with_reducible refine After.ofOkPair (by assumption) ?_)
    | (with_reducible refine After.ofOk (by assumption) ?_)
    | with_reducible apply After.fold

theorem State.startUnits_after {b T} (x0) (x1) (ht : Within 0x80000 T) (h1 : After T b x0) :
    After T b (@State.startUnits x0 x1) := by
  unfold State.startUnits
  try dsimp only
  repeat' first
    | with_reducible assumption
    | with_reducible apply State.emits_after
    | with_reducible apply State.onLongOp_after
    | with_reducible exact Within.mono ht rfl
    | exact RegIn.block ht (by decide) rfl
    | with_reducible apply AfterRoute.ite
    | split
    | (with_reducible intro _)
    | with_reducible apply AfterOut.ofNext
    | with_reducible apply AfterOpt.ofSome
    | with_reducible exact AfterOpt.ofNone
    | (with_reducible refine After.ofPair (by assumption) ?_)
    | (with_reducible refine After.ofTriple (by assumption) ?_)
    | (with_reducible refine After.ofOpt (by assumption) ?_)
    | with_reducible apply AfterSome.ofSome
    | with_reducible apply AfterRoute.ofSome
    | with_reducible exact AfterRoute.ofNone
    | with_reducible exact AfterSome.ofNone
    | with_reducible apply AfterEx.ofOk
    | with_reducible exact AfterEx.ofError
    | (with_reducible refine After.ofSealed (by assumption) ?_)
    | (with_reducible refine After.ofOkPair (by assumption) ?_)
    | (with_reducible refine After.ofOk (by assumption) ?_)
    | with_reducible apply After.fold

theorem State.advanceWalk_after {b T} (x0) (x1) (ht : Within 0x4016491108a601 T) (h1 : After T b x0) :
    After T b (@State.advanceWalk x0 x1) := by
  unfold State.advanceWalk
  try dsimp only
  repeat' first
    | with_reducible assumption
    | with_reducible apply State.each_after
    | with_reducible apply State.closeStripe_after
    | with_reducible apply State.startRetirement_after
    | with_reducible apply State.installKey_after
    | with_reducible apply State.endRetirement_after
    | with_reducible apply State.startUnits_after
    | with_reducible exact Within.mono ht rfl
    | exact RegIn.block ht (by decide) rfl
    | with_reducible apply AfterRoute.ite
    | split
    | (with_reducible intro _)
    | with_reducible apply AfterOut.ofNext
    | with_reducible apply AfterOpt.ofSome
    | with_reducible exact AfterOpt.ofNone
    | (with_reducible refine After.ofPair (by assumption) ?_)
    | (with_reducible refine After.ofTriple (by assumption) ?_)
    | (with_reducible refine After.ofOpt (by assumption) ?_)
    | with_reducible apply AfterSome.ofSome
    | with_reducible apply AfterRoute.ofSome
    | with_reducible exact AfterRoute.ofNone
    | with_reducible exact AfterSome.ofNone
    | with_reducible apply AfterEx.ofOk
    | with_reducible exact AfterEx.ofError
    | (with_reducible refine After.ofSealed (by assumption) ?_)
    | (with_reducible refine After.ofOkPair (by assumption) ?_)
    | (with_reducible refine After.ofOk (by assumption) ?_)
    | with_reducible apply After.fold

theorem State.advanceWalks_after {b T} (x0) (ht : Within 0x4016491108a601 T) (h1 : After T b x0) :
    After T b (@State.advanceWalks x0) := by
  unfold State.advanceWalks
  try dsimp only
  repeat' first
    | with_reducible assumption
    | with_reducible apply State.yieldWalks_after
    | with_reducible apply State.each_after
    | with_reducible apply State.advanceWalk_after
    | with_reducible exact Within.mono ht rfl
    | exact RegIn.block ht (by decide) rfl
    | with_reducible apply AfterRoute.ite
    | split
    | (with_reducible intro _)
    | with_reducible apply AfterOut.ofNext
    | with_reducible apply AfterOpt.ofSome
    | with_reducible exact AfterOpt.ofNone
    | (with_reducible refine After.ofPair (by assumption) ?_)
    | (with_reducible refine After.ofTriple (by assumption) ?_)
    | (with_reducible refine After.ofOpt (by assumption) ?_)
    | with_reducible apply AfterSome.ofSome
    | with_reducible apply AfterRoute.ofSome
    | with_reducible exact AfterRoute.ofNone
    | with_reducible exact AfterSome.ofNone
    | with_reducible apply AfterEx.ofOk
    | with_reducible exact AfterEx.ofError
    | (with_reducible refine After.ofSealed (by assumption) ?_)
    | (with_reducible refine After.ofOkPair (by assumption) ?_)
    | (with_reducible refine After.ofOk (by assumption) ?_)
    | with_reducible apply After.fold

theorem State.namespaceChanged_after {b T} (x0) (x1) (x2) (ht : Within 0x40040111002201 T) (h1 : After T b x0) :
    After T b (@State.namespaceChanged x0 x1 x2) := by
  unfold State.namespaceChanged
  try dsimp only
  repeat' first
    | with_reducible assumption
    | with_reducible apply State.onController_after
    | with_reducible apply State.completeAer_after
    | with_reducible exact Within.mono ht rfl
    | with_reducible apply AfterRoute.ite
    | split

theorem State.endOperation_after {b T} (x0) (x1) (ht : Within 0x40340111082681 T) (h1 : After T b x0) :
    After T b (@State.endOperation x0 x1) := by
  unfold State.endOperation
  try dsimp only
  repeat' first
    | with_reducible assumption
    | with_reducible apply State.onLongOp_after
    | with_reducible apply State.forgetTags_after
    | with_reducible apply State.onNamespace_after
    | with_reducible apply State.endAdmin_after
    | with_reducible apply State.each_after
    | with_reducible apply State.completeAer_after
    | with_reducible apply State.namespaceChanged_after
    | with_reducible apply State.notify_after
    | with_reducible exact Within.mono ht rfl
    | exact RegIn.block ht (by decide) rfl
    | with_reducible apply AfterRoute.ite
    | split
    | (with_reducible intro _)
    | with_reducible apply AfterOut.ofNext
    | with_reducible apply AfterOpt.ofSome
    | with_reducible exact AfterOpt.ofNone
    | (with_reducible refine After.ofPair (by assumption) ?_)
    | (with_reducible refine After.ofTriple (by assumption) ?_)
    | (with_reducible refine After.ofOpt (by assumption) ?_)
    | with_reducible apply AfterSome.ofSome
    | with_reducible apply AfterRoute.ofSome
    | with_reducible exact AfterRoute.ofNone
    | with_reducible exact AfterSome.ofNone
    | with_reducible apply AfterEx.ofOk
    | with_reducible exact AfterEx.ofError
    | (with_reducible refine After.ofSealed (by assumption) ?_)
    | (with_reducible refine After.ofOkPair (by assumption) ?_)
    | (with_reducible refine After.ofOk (by assumption) ?_)
    | with_reducible apply After.fold

end Sys2Proof.Machine
end

