-- ==== Sys2Proof/Laws/After/Jobs.lean ====
section
/-! SUPPORT. What the operations of Jobs keep (Laws/After.lean). -/

set_option Elab.async false
set_option linter.all false

namespace Sys2Proof.Machine

theorem State.extendJob_after {b T} (x0) (x1) (x2) (x3) (ht : Within 0x40020010000400 T) (h1 : After T b x0) :
    After T b (@State.extendJob x0 x1 x2 x3) := by
  unfold State.extendJob
  try dsimp only
  repeat' first
    | with_reducible assumption
    | with_reducible apply State.startJob_after
    | with_reducible apply State.onStore_after
    | with_reducible exact Within.mono ht rfl

theorem State.finishCloseRow_after {b T} (x0) (x1) (ht : Within 0x603610110004c0 T) (h1 : After T b x0) :
    After T b (@State.finishCloseRow x0 x1) := by
  unfold State.finishCloseRow
  try dsimp only
  repeat' first
    | with_reducible assumption
    | with_reducible apply State.rowParity_after
    | with_reducible apply State.extendJob_after
    | with_reducible apply State.loseRow_after
    | with_reducible exact Within.mono ht rfl
    | with_reducible apply AfterRoute.ite
    | split

theorem State.deliver_after {b T} (x0) (x1) (x2) (x3) (ht : Within 0x40165911003e01 T) (h1 : After T b x0) :
    After T b (@State.deliver x0 x1 x2 x3) := by
  unfold State.deliver
  try dsimp only
  repeat' first
    | with_reducible assumption
    | with_reducible apply State.gotBlock_after
    | with_reducible apply State.onCommand_after
    | with_reducible apply State.xtsBlock_after
    | with_reducible exact Within.mono ht rfl
    | exact RegIn.block ht (by decide) rfl
    | with_reducible apply AfterRoute.ite
    | split
    | (with_reducible intro _)
    | with_reducible apply AfterOut.ofNext
    | with_reducible apply AfterOpt.ofSome
    | with_reducible exact AfterOpt.ofNone
    | (with_reducible refine After.ofPair (by assumption) ?_)
    | (with_reducible refine After.ofTriple (by assumption) ?_)
    | (with_reducible refine After.ofOpt (by assumption) ?_)
    | with_reducible apply AfterSome.ofSome
    | with_reducible apply AfterRoute.ofSome
    | with_reducible exact AfterRoute.ofNone
    | with_reducible exact AfterSome.ofNone
    | with_reducible apply AfterEx.ofOk
    | with_reducible exact AfterEx.ofError
    | (with_reducible refine After.ofSealed (by assumption) ?_)
    | (with_reducible refine After.ofOkPair (by assumption) ?_)
    | (with_reducible refine After.ofOk (by assumption) ?_)
    | with_reducible apply After.fold

theorem State.resumeTags_after {b T} (x0) (x1) (ht : Within 0x40165911003e01 T) (h1 : After T b x0) :
    After T b (@State.resumeTags x0 x1) := by
  unfold State.resumeTags
  try dsimp only
  repeat' first
    | with_reducible assumption
    | with_reducible apply State.formBlocks_after
    | with_reducible apply State.tryDealloc_after
    | with_reducible apply State.finishRead_after
    | with_reducible exact Within.mono ht rfl
    | exact RegIn.block ht (by decide) rfl
    | with_reducible apply AfterRoute.ite
    | split
    | (with_reducible intro _)
    | with_reducible apply AfterOut.ofNext
    | with_reducible apply AfterOpt.ofSome
    | with_reducible exact AfterOpt.ofNone
    | (with_reducible refine After.ofPair (by assumption) ?_)
    | (with_reducible refine After.ofTriple (by assumption) ?_)
    | (with_reducible refine After.ofOpt (by assumption) ?_)
    | with_reducible apply AfterSome.ofSome
    | with_reducible apply AfterRoute.ofSome
    | with_reducible exact AfterRoute.ofNone
    | with_reducible exact AfterSome.ofNone
    | with_reducible apply AfterEx.ofOk
    | with_reducible exact AfterEx.ofError
    | (with_reducible refine After.ofSealed (by assumption) ?_)
    | (with_reducible refine After.ofOkPair (by assumption) ?_)
    | (with_reducible refine After.ofOk (by assumption) ?_)
    | with_reducible apply After.fold

theorem State.tagsArrive_after {b T} (x0) (x1) (x2) (x3) (ht : Within 0x40165911003e01 T) (h1 : After T b x0) :
    After T b (@State.tagsArrive x0 x1 x2 x3) := by
  unfold State.tagsArrive
  try dsimp only
  repeat' first
    | with_reducible assumption
    | with_reducible apply State.keepTags_after
    | with_reducible apply State.onHost_after
    | with_reducible apply State.each_after
    | with_reducible apply State.resumeTags_after
    | with_reducible exact Within.mono ht rfl
    | exact RegIn.block ht (by decide) rfl
    | with_reducible apply AfterRoute.ite
    | split
    | (with_reducible intro _)
    | with_reducible apply AfterOut.ofNext
    | with_reducible apply AfterOpt.ofSome
    | with_reducible exact AfterOpt.ofNone
    | (with_reducible refine After.ofPair (by assumption) ?_)
    | (with_reducible refine After.ofTriple (by assumption) ?_)
    | (with_reducible refine After.ofOpt (by assumption) ?_)
    | with_reducible apply AfterSome.ofSome
    | with_reducible apply AfterRoute.ofSome
    | with_reducible exact AfterRoute.ofNone
    | with_reducible exact AfterSome.ofNone
    | with_reducible apply AfterEx.ofOk
    | with_reducible exact AfterEx.ofError
    | (with_reducible refine After.ofSealed (by assumption) ?_)
    | (with_reducible refine After.ofOkPair (by assumption) ?_)
    | (with_reducible refine After.ofOk (by assumption) ?_)
    | with_reducible apply After.fold

theorem State.tagsRead_after {b T} (x0) (x1) (x2) (x3) (ht : Within 0x40165911003e01 T) (h1 : After T b x0) :
    After T b (@State.tagsRead x0 x1 x2 x3) := by
  unfold State.tagsRead
  try dsimp only
  repeat' first
    | with_reducible assumption
    | with_reducible apply State.tagsArrive_after
    | with_reducible apply State.xtsBlock_after
    | with_reducible exact Within.mono ht rfl
    | exact RegIn.block ht (by decide) rfl
    | with_reducible apply AfterRoute.ite
    | split
    | (with_reducible intro _)
    | with_reducible apply AfterOut.ofNext
    | with_reducible apply AfterOpt.ofSome
    | with_reducible exact AfterOpt.ofNone
    | (with_reducible refine After.ofPair (by assumption) ?_)
    | (with_reducible refine After.ofTriple (by assumption) ?_)
    | (with_reducible refine After.ofOpt (by assumption) ?_)
    | with_reducible apply AfterSome.ofSome
    | with_reducible apply AfterRoute.ofSome
    | with_reducible exact AfterRoute.ofNone
    | with_reducible exact AfterSome.ofNone
    | with_reducible apply AfterEx.ofOk
    | with_reducible exact AfterEx.ofError
    | (with_reducible refine After.ofSealed (by assumption) ?_)
    | (with_reducible refine After.ofOkPair (by assumption) ?_)
    | (with_reducible refine After.ofOk (by assumption) ?_)
    | with_reducible apply After.fold

theorem State.tagsLost_after {b T} (x0) (x1) (x2) (ht : Within 0x40165911003e01 T) (h1 : After T b x0) :
    After T b (@State.tagsLost x0 x1 x2) := by
  unfold State.tagsLost
  try dsimp only
  repeat' first
    | with_reducible assumption
    | with_reducible apply State.each_after
    | with_reducible apply State.failCommand_after
    | with_reducible apply State.tagsArrive_after
    | with_reducible exact Within.mono ht rfl
    | exact RegIn.block ht (by decide) rfl
    | with_reducible apply AfterRoute.ite
    | split
    | (with_reducible intro _)
    | with_reducible apply AfterOut.ofNext
    | with_reducible apply AfterOpt.ofSome
    | with_reducible exact AfterOpt.ofNone
    | (with_reducible refine After.ofPair (by assumption) ?_)
    | (with_reducible refine After.ofTriple (by assumption) ?_)
    | (with_reducible refine After.ofOpt (by assumption) ?_)
    | with_reducible apply AfterSome.ofSome
    | with_reducible apply AfterRoute.ofSome
    | with_reducible exact AfterRoute.ofNone
    | with_reducible exact AfterSome.ofNone
    | with_reducible apply AfterEx.ofOk
    | with_reducible exact AfterEx.ofError
    | (with_reducible refine After.ofSealed (by assumption) ?_)
    | (with_reducible refine After.ofOkPair (by assumption) ?_)
    | (with_reducible refine After.ofOk (by assumption) ?_)
    | with_reducible apply After.fold

theorem State.noteBad_after {b T} (x0) (x1) (ht : Within 0x400 T) (h1 : After T b x0) :
    After T b (@State.noteBad x0 x1) := by
  unfold State.noteBad
  try dsimp only
  repeat' first
    | with_reducible assumption
    | with_reducible apply State.each_after
    | with_reducible apply State.onStore_after
    | with_reducible exact Within.mono ht rfl
    | exact RegIn.block ht (by decide) rfl
    | with_reducible apply AfterRoute.ite
    | split
    | (with_reducible intro _)
    | with_reducible apply AfterOut.ofNext
    | with_reducible apply AfterOpt.ofSome
    | with_reducible exact AfterOpt.ofNone
    | (with_reducible refine After.ofPair (by assumption) ?_)
    | (with_reducible refine After.ofTriple (by assumption) ?_)
    | (with_reducible refine After.ofOpt (by assumption) ?_)
    | with_reducible apply AfterSome.ofSome
    | with_reducible apply AfterRoute.ofSome
    | with_reducible exact AfterRoute.ofNone
    | with_reducible exact AfterSome.ofNone
    | with_reducible apply AfterEx.ofOk
    | with_reducible exact AfterEx.ofError
    | (with_reducible refine After.ofSealed (by assumption) ?_)
    | (with_reducible refine After.ofOkPair (by assumption) ?_)
    | (with_reducible refine After.ofOk (by assumption) ?_)
    | with_reducible apply After.fold

theorem State.finishSolve_after {b T} (x0) (x1) (x2) (x3) (x4) (ht : Within 0x603610110004c0 T) (h1 : After T b x0) (h4 : ∀ y0 y1, After T b y0 → After T b (x3 y0 y1)) (h5 : ∀ y0, After T b y0 → After T b (x4 y0)) :
    After T b (@State.finishSolve x0 x1 x2 x3 x4) := by
  unfold State.finishSolve
  try dsimp only
  repeat' first
    | with_reducible assumption
    | with_reducible apply h4
    | with_reducible apply h5
    | with_reducible apply State.noteBad_after
    | with_reducible apply State.extendJob_after
    | with_reducible apply State.loseRow_after
    | with_reducible exact Within.mono ht rfl
    | exact RegIn.block ht (by decide) rfl
    | with_reducible apply AfterRoute.ite
    | split
    | (with_reducible intro _)
    | with_reducible apply AfterOut.ofNext
    | with_reducible apply AfterOpt.ofSome
    | with_reducible exact AfterOpt.ofNone
    | (with_reducible refine After.ofPair (by assumption) ?_)
    | (with_reducible refine After.ofTriple (by assumption) ?_)
    | (with_reducible refine After.ofOpt (by assumption) ?_)
    | with_reducible apply AfterSome.ofSome
    | with_reducible apply AfterRoute.ofSome
    | with_reducible exact AfterRoute.ofNone
    | with_reducible exact AfterSome.ofNone
    | with_reducible apply AfterEx.ofOk
    | with_reducible exact AfterEx.ofError
    | (with_reducible refine After.ofSealed (by assumption) ?_)
    | (with_reducible refine After.ofOkPair (by assumption) ?_)
    | (with_reducible refine After.ofOk (by assumption) ?_)
    | with_reducible apply After.fold

theorem State.finishDegraded_after {b T} (x0) (x1) (x2) (x3) (x4) (ht : Within 0x60365911003ec1 T) (h1 : After T b x0) :
    After T b (@State.finishDegraded x0 x1 x2 x3 x4) := by
  unfold State.finishDegraded
  try dsimp only
  repeat' first
    | with_reducible assumption
    | with_reducible apply State.finishSolve_after
    | with_reducible apply State.deliver_after
    | with_reducible apply State.finishRead_after
    | with_reducible apply State.failCommand_after
    | with_reducible exact Within.mono ht rfl
    | exact RegIn.block ht (by decide) rfl
    | with_reducible apply AfterRoute.ite
    | split
    | (with_reducible intro _)
    | with_reducible apply AfterOut.ofNext
    | with_reducible apply AfterOpt.ofSome
    | with_reducible exact AfterOpt.ofNone
    | (with_reducible refine After.ofPair (by assumption) ?_)
    | (with_reducible refine After.ofTriple (by assumption) ?_)
    | (with_reducible refine After.ofOpt (by assumption) ?_)
    | with_reducible apply AfterSome.ofSome
    | with_reducible apply AfterRoute.ofSome
    | with_reducible exact AfterRoute.ofNone
    | with_reducible exact AfterSome.ofNone
    | with_reducible apply AfterEx.ofOk
    | with_reducible exact AfterEx.ofError
    | (with_reducible refine After.ofSealed (by assumption) ?_)
    | (with_reducible refine After.ofOkPair (by assumption) ?_)
    | (with_reducible refine After.ofOk (by assumption) ?_)
    | with_reducible apply After.fold

theorem State.finishDegradedTags_after {b T} (x0) (x1) (x2) (x3) (x4) (ht : Within 0x60365911003ec1 T) (h1 : After T b x0) :
    After T b (@State.finishDegradedTags x0 x1 x2 x3 x4) := by
  unfold State.finishDegradedTags
  try dsimp only
  repeat' first
    | with_reducible assumption
    | with_reducible apply State.finishSolve_after
    | with_reducible apply State.tagsRead_after
    | with_reducible apply State.tagsLost_after
    | with_reducible exact Within.mono ht rfl
    | exact RegIn.block ht (by decide) rfl
    | with_reducible apply AfterRoute.ite
    | split
    | (with_reducible intro _)
    | with_reducible apply AfterOut.ofNext
    | with_reducible apply AfterOpt.ofSome
    | with_reducible exact AfterOpt.ofNone
    | (with_reducible refine After.ofPair (by assumption) ?_)
    | (with_reducible refine After.ofTriple (by assumption) ?_)
    | (with_reducible refine After.ofOpt (by assumption) ?_)
    | with_reducible apply AfterSome.ofSome
    | with_reducible apply AfterRoute.ofSome
    | with_reducible exact AfterRoute.ofNone
    | with_reducible exact AfterSome.ofNone
    | with_reducible apply AfterEx.ofOk
    | with_reducible exact AfterEx.ofError
    | (with_reducible refine After.ofSealed (by assumption) ?_)
    | (with_reducible refine After.ofOkPair (by assumption) ?_)
    | (with_reducible refine After.ofOk (by assumption) ?_)
    | with_reducible apply After.fold

theorem State.sendStripTo_after {b T} (x0) (x1) (x2) (x3) (x4) (x5) (x6) (x7) (x8) (x9) (ht : Within 0x40020010000400 T) (h1 : After T b x0) :
    After T b (@State.sendStripTo x0 x1 x2 x3 x4 x5 x6 x7 x8 x9) := by
  unfold State.sendStripTo
  try dsimp only
  repeat' first
    | with_reducible assumption
    | with_reducible apply State.sendStripAt_after
    | with_reducible exact Within.mono ht rfl
    | exact RegIn.block ht (by decide) rfl
    | with_reducible apply AfterRoute.ite
    | split
    | (with_reducible intro _)
    | with_reducible apply AfterOut.ofNext
    | with_reducible apply AfterOpt.ofSome
    | with_reducible exact AfterOpt.ofNone
    | (with_reducible refine After.ofPair (by assumption) ?_)
    | (with_reducible refine After.ofTriple (by assumption) ?_)
    | (with_reducible refine After.ofOpt (by assumption) ?_)
    | with_reducible apply AfterSome.ofSome
    | with_reducible apply AfterRoute.ofSome
    | with_reducible exact AfterRoute.ofNone
    | with_reducible exact AfterSome.ofNone
    | with_reducible apply AfterEx.ofOk
    | with_reducible exact AfterEx.ofError
    | (with_reducible refine After.ofSealed (by assumption) ?_)
    | (with_reducible refine After.ofOkPair (by assumption) ?_)
    | (with_reducible refine After.ofOk (by assumption) ?_)
    | with_reducible apply After.fold

theorem State.onStep_after {b T} (x0) (x1) (x2) (x3) (ht : Within 0x400 T) (h1 : After T b x0) :
    After T b (@State.onStep x0 x1 x2 x3) := by
  unfold State.onStep
  try dsimp only
  repeat' first
    | with_reducible assumption
    | with_reducible apply State.onStore_after

theorem State.stepWrite_after {b T} (x0) (x1) (x2) (x3) (x4) (x5) (x6) (x7) (ht : Within 0x40020010000400 T) (h1 : After T b x0) :
    After T b (@State.stepWrite x0 x1 x2 x3 x4 x5 x6 x7) := by
  unfold State.stepWrite
  try dsimp only
  repeat' first
    | with_reducible assumption
    | with_reducible apply State.sendStripTo_after
    | with_reducible apply State.onStep_after
    | with_reducible exact Within.mono ht rfl

theorem State.tryEndStep_after {b T} (x0) (x1) (x2) (ht : Within 0x40021810000400 T) (h1 : After T b x0) :
    After T b (@State.tryEndStep x0 x1 x2) := by
  unfold State.tryEndStep
  try dsimp only
  repeat' first
    | with_reducible assumption
    | with_reducible apply State.count_after
    | with_reducible apply State.setReg_after
    | with_reducible apply State.each_after
    | with_reducible apply State.sendStripTo_after
    | with_reducible apply State.onStore_after
    | with_reducible apply State.showRebuild_after
    | with_reducible apply State.unlockStripe_after
    | with_reducible apply State.retireEntries_after
    | with_reducible exact Within.mono ht rfl
    | exact RegIn.block ht (by decide) rfl
    | with_reducible apply AfterRoute.ite
    | split
    | (with_reducible intro _)
    | with_reducible apply AfterOut.ofNext
    | with_reducible apply AfterOpt.ofSome
    | with_reducible exact AfterOpt.ofNone
    | (with_reducible refine After.ofPair (by assumption) ?_)
    | (with_reducible refine After.ofTriple (by assumption) ?_)
    | (with_reducible refine After.ofOpt (by assumption) ?_)
    | with_reducible apply AfterSome.ofSome
    | with_reducible apply AfterRoute.ofSome
    | with_reducible exact AfterRoute.ofNone
    | with_reducible exact AfterSome.ofNone
    | with_reducible apply AfterEx.ofOk
    | with_reducible exact AfterEx.ofError
    | (with_reducible refine After.ofSealed (by assumption) ?_)
    | (with_reducible refine After.ofOkPair (by assumption) ?_)
    | (with_reducible refine After.ofOk (by assumption) ?_)
    | with_reducible apply After.fold

theorem State.stepRowDone_after {b T} (x0) (x1) (ht : Within 0x40021810000400 T) (h1 : After T b x0) :
    After T b (@State.stepRowDone x0 x1) := by
  unfold State.stepRowDone
  try dsimp only
  repeat' first
    | with_reducible assumption
    | with_reducible apply State.tryEndStep_after
    | with_reducible apply State.onStep_after
    | with_reducible exact Within.mono ht rfl

theorem State.writeBackBad_after {b T} (x0) (x1) (x2) (ht : Within 0x40020010000400 T) (h1 : After T b x0) :
    After T b (@State.writeBackBad x0 x1 x2) := by
  unfold State.writeBackBad
  try dsimp only
  repeat' first
    | with_reducible assumption
    | with_reducible apply State.each_after
    | with_reducible apply State.stepWrite_after
    | with_reducible exact Within.mono ht rfl
    | with_reducible apply AfterRoute.ite
    | split
    | (with_reducible intro _)

theorem State.stepRowSolved_after {b T} (x0) (x1) (x2) (x3) (ht : Within 0x603610110004c0 T) (h1 : After T b x0) :
    After T b (@State.stepRowSolved x0 x1 x2 x3) := by
  unfold State.stepRowSolved
  try dsimp only
  repeat' first
    | with_reducible assumption
    | with_reducible apply State.writeBackBad_after
    | with_reducible apply State.each_after
    | with_reducible apply State.stepWrite_after
    | with_reducible apply State.count_after
    | with_reducible apply State.onStep_after
    | with_reducible apply State.plainFault_after
    | with_reducible exact Within.mono ht rfl
    | exact RegIn.block ht (by decide) rfl
    | with_reducible apply AfterRoute.ite
    | split
    | (with_reducible intro _)
    | with_reducible apply AfterOut.ofNext
    | with_reducible apply AfterOpt.ofSome
    | with_reducible exact AfterOpt.ofNone
    | (with_reducible refine After.ofPair (by assumption) ?_)
    | (with_reducible refine After.ofTriple (by assumption) ?_)
    | (with_reducible refine After.ofOpt (by assumption) ?_)
    | with_reducible apply AfterSome.ofSome
    | with_reducible apply AfterRoute.ofSome
    | with_reducible exact AfterRoute.ofNone
    | with_reducible exact AfterSome.ofNone
    | with_reducible apply AfterEx.ofOk
    | with_reducible exact AfterEx.ofError
    | (with_reducible refine After.ofSealed (by assumption) ?_)
    | (with_reducible refine After.ofOkPair (by assumption) ?_)
    | (with_reducible refine After.ofOk (by assumption) ?_)
    | with_reducible apply After.fold

theorem State.finishStepRow_after {b T} (x0) (x1) (ht : Within 0x603618110004c0 T) (h1 : After T b x0) :
    After T b (@State.finishStepRow x0 x1) := by
  unfold State.finishStepRow
  try dsimp only
  repeat' first
    | with_reducible assumption
    | with_reducible apply State.stepRowDone_after
    | with_reducible apply State.each_after
    | with_reducible apply State.stepWrite_after
    | with_reducible apply State.loseRow_after
    | with_reducible apply State.extendJob_after
    | with_reducible apply State.stepRowSolved_after
    | with_reducible apply State.onStep_after
    | with_reducible exact Within.mono ht rfl
    | with_reducible apply AfterRoute.ite
    | split
    | (with_reducible intro _)

theorem State.writeLostParity_after {b T} (x0) (x1) (x2) (ht : Within 0x40020010000400 T) (h1 : After T b x0) :
    After T b (@State.writeLostParity x0 x1 x2) := by
  unfold State.writeLostParity
  try dsimp only
  repeat' first
    | with_reducible assumption
    | with_reducible apply State.rowParity_after
    | with_reducible apply State.each_after
    | with_reducible apply State.sendMember_after
    | with_reducible apply State.stepWrite_after
    | with_reducible apply State.sendStripTo_after
    | with_reducible exact Within.mono ht rfl
    | with_reducible apply AfterRoute.ite
    | split
    | (with_reducible intro _)

theorem State.settleFix_after {b T} (x0) (x1) (ht : Within 0x40021810000400 T) (h1 : After T b x0) :
    After T b (@State.settleFix x0 x1) := by
  unfold State.settleFix
  try dsimp only
  repeat' first
    | with_reducible assumption
    | with_reducible apply State.onStore_after
    | with_reducible apply State.each_after
    | with_reducible apply State.sendMember_after
    | with_reducible apply State.startJob_after
    | with_reducible apply State.writeLostParity_after
    | with_reducible apply State.unlockStripe_after
    | with_reducible apply State.tryEndStep_after
    | with_reducible exact Within.mono ht rfl
    | with_reducible apply AfterRoute.ite
    | split
    | (with_reducible intro _)

theorem State.settleLost_after {b T} (x0) (ht : Within 0x40021810000400 T) (h1 : After T b x0) :
    After T b (@State.settleLost x0) := by
  unfold State.settleLost
  try dsimp only
  repeat' first
    | with_reducible assumption
    | with_reducible apply State.each_after
    | with_reducible apply State.settleFix_after
    | with_reducible exact Within.mono ht rfl
    | with_reducible apply AfterRoute.ite
    | split
    | (with_reducible intro _)

theorem State.onMove_after {b T} (x0) (x1) (x2) (x3) (ht : Within 0x400 T) (h1 : After T b x0) :
    After T b (@State.onMove x0 x1 x2 x3) := by
  unfold State.onMove
  try dsimp only
  repeat' first
    | with_reducible assumption
    | with_reducible apply State.onStore_after

theorem State.promWrite_after {b T} (x0) (x1) (x2) (x3) (x4) (x5) (x6) (ht : Within 0x40020010000400 T) (h1 : After T b x0) :
    After T b (@State.promWrite x0 x1 x2 x3 x4 x5 x6) := by
  unfold State.promWrite
  try dsimp only
  repeat' first
    | with_reducible assumption
    | with_reducible apply State.sendStripTo_after
    | with_reducible apply State.onMove_after
    | with_reducible exact Within.mono ht rfl
    | with_reducible apply AfterRoute.ite
    | split

theorem State.writeDestination_after {b T} (x0) (x1) (x2) (ht : Within 0x40025010000c00 T) (h1 : After T b x0) :
    After T b (@State.writeDestination x0 x1 x2) := by
  unfold State.writeDestination
  try dsimp only
  repeat' first
    | with_reducible assumption
    | with_reducible apply State.writeMapBit_after
    | with_reducible apply State.count_after
    | with_reducible apply State.each_after
    | with_reducible apply State.promWrite_after
    | with_reducible exact Within.mono ht rfl
    | exact RegIn.block ht (by decide) rfl
    | with_reducible apply AfterRoute.ite
    | split
    | (with_reducible intro _)

theorem State.copyNext_after {b T} (x0) (x1) (x2) (ht : Within 0x40025010000c00 T) (h1 : After T b x0) :
    After T b (@State.copyNext x0 x1 x2) := by
  unfold State.copyNext
  try dsimp only
  repeat' first
    | with_reducible assumption
    | with_reducible apply State.onMove_after
    | with_reducible apply State.writeDestination_after
    | with_reducible apply State.each_after
    | with_reducible apply State.startJob_after
    | with_reducible exact Within.mono ht rfl
    | with_reducible apply AfterRoute.ite
    | split
    | (with_reducible intro _)

theorem State.finishPromRow_after {b T} (x0) (x1) (x2) (x3) (ht : Within 0x60365011000cc0 T) (h1 : After T b x0) :
    After T b (@State.finishPromRow x0 x1 x2 x3) := by
  unfold State.finishPromRow
  try dsimp only
  repeat' first
    | with_reducible assumption
    | with_reducible apply State.extendJob_after
    | with_reducible apply State.loseRow_after
    | with_reducible apply State.onMove_after
    | with_reducible apply State.writeDestination_after
    | with_reducible exact Within.mono ht rfl
    | with_reducible apply AfterRoute.ite
    | split

theorem State.copyDirty_after {b T} (x0) (x1) (ht : Within 0x40025010000c00 T) (h1 : After T b x0) :
    After T b (@State.copyDirty x0 x1) := by
  unfold State.copyDirty
  try dsimp only
  repeat' first
    | with_reducible assumption
    | with_reducible apply State.copyNext_after
    | with_reducible apply State.onMove_after
    | with_reducible exact Within.mono ht rfl

theorem State.catchUpKick_after {b T} (x0) (ht : Within 0x40025010000c00 T) (h1 : After T b x0) :
    After T b (@State.catchUpKick x0) := by
  unfold State.catchUpKick
  try dsimp only
  repeat' first
    | with_reducible assumption
    | with_reducible apply State.each_after
    | with_reducible apply State.copyDirty_after
    | with_reducible exact Within.mono ht rfl
    | with_reducible apply AfterRoute.ite
    | split
    | (with_reducible intro _)

theorem State.closeForRoom_after {b T} (x0) (ht : Within 0x40020810000400 T) (h1 : After T b x0) : After T b (@State.closeForRoom x0) := by
  unfold State.closeForRoom
  dsimp only
  generalize x0.rd VLT_CEIL.D - x0.rd VLT_DIRTY.N + _ = n
  generalize List.filter (fun x : OpenStripe => x.phase == StripePhase.opened) x0.store.openStripes = l
  have key : ∀ (p : Nat × State), After T b p.2 → After T b (l.foldl (fun (p : Nat × State) o =>
      if p.1 < 512 then (p.1 + (x0.store.copies.filter fun c => c.set == o.set && c.stripe == o.stripe).length,
        p.2.closeStripe o.set o.stripe) else (p.1, p.2)) p).2 := by
    induction l with
    | nil => exact fun p h => h
    | cons o l ih =>
      intro p h
      refine ih _ ?_
      dsimp only
      split
      · exact State.closeStripe_after _ _ _ (ht.mono rfl) h
      · exact h
  exact key (n, x0) h1

theorem State.finishJob_after {b T} (x0) (x1) (ht : Within 0x60365911003ec1 T) (h1 : After T b x0) :
    After T b (@State.finishJob x0 x1) := by
  unfold State.finishJob
  try dsimp only
  repeat' first
    | with_reducible assumption
    | with_reducible apply State.onStore_after
    | with_reducible apply State.finishCloseRow_after
    | with_reducible apply State.finishDegraded_after
    | with_reducible apply State.finishDegradedTags_after
    | with_reducible apply State.finishStepRow_after
    | with_reducible apply State.finishPromRow_after
    | with_reducible apply State.writeLostParity_after
    | with_reducible exact Within.mono ht rfl
    | exact RegIn.block ht (by decide) rfl
    | with_reducible apply AfterRoute.ite
    | split
    | (with_reducible intro _)
    | with_reducible apply AfterOut.ofNext
    | with_reducible apply AfterOpt.ofSome
    | with_reducible exact AfterOpt.ofNone
    | (with_reducible refine After.ofPair (by assumption) ?_)
    | (with_reducible refine After.ofTriple (by assumption) ?_)
    | (with_reducible refine After.ofOpt (by assumption) ?_)
    | with_reducible apply AfterSome.ofSome
    | with_reducible apply AfterRoute.ofSome
    | with_reducible exact AfterRoute.ofNone
    | with_reducible exact AfterSome.ofNone
    | with_reducible apply AfterEx.ofOk
    | with_reducible exact AfterEx.ofError
    | (with_reducible refine After.ofSealed (by assumption) ?_)
    | (with_reducible refine After.ofOkPair (by assumption) ?_)
    | (with_reducible refine After.ofOk (by assumption) ?_)
    | with_reducible apply After.fold

theorem State.runJobsFor_after {b T} (x0) (x1) (ht : Within 0x60365911003ec1 T) (h1 : After T b x0) :
    After T b (@State.runJobsFor x0 x1) := by
  induction x1 generalizing x0 with
  | zero =>
    unfold State.runJobsFor
    try dsimp only
    repeat' first
      | with_reducible assumption
  | succ n ih =>
    unfold State.runJobsFor
    try dsimp only
    repeat' first
      | with_reducible assumption
      | with_reducible apply State.finishJob_after
      | with_reducible apply ih
      | with_reducible exact Within.mono ht rfl
      | with_reducible apply AfterRoute.ite
      | split

theorem State.goOn_after {b T} (x0) (x1) (ht : Within 0x60365819000cc0 T) (h1 : After T b x0) :
    After T b (@State.goOn x0 x1) := by
  unfold State.goOn
  try dsimp only
  repeat' first
    | with_reducible assumption
    | with_reducible apply State.tryRetire_after
    | with_reducible apply State.closeIfThrough_after
    | with_reducible apply State.postReady_after
    | with_reducible exact Within.mono ht rfl
    | exact RegIn.block ht (by decide) rfl
    | with_reducible apply AfterRoute.ite
    | split
    | (with_reducible intro _)
    | with_reducible apply AfterOut.ofNext
    | with_reducible apply AfterOpt.ofSome
    | with_reducible exact AfterOpt.ofNone
    | (with_reducible refine After.ofPair (by assumption) ?_)
    | (with_reducible refine After.ofTriple (by assumption) ?_)
    | (with_reducible refine After.ofOpt (by assumption) ?_)
    | with_reducible apply AfterSome.ofSome
    | with_reducible apply AfterRoute.ofSome
    | with_reducible exact AfterRoute.ofNone
    | with_reducible exact AfterSome.ofNone
    | with_reducible apply AfterEx.ofOk
    | with_reducible exact AfterEx.ofError
    | (with_reducible refine After.ofSealed (by assumption) ?_)
    | (with_reducible refine After.ofOkPair (by assumption) ?_)
    | (with_reducible refine After.ofOk (by assumption) ?_)
    | with_reducible apply After.fold

theorem State.runJobs_after {b T} (x0) (ht : Within 0x6036591908bec1 T) (h1 : After T b x0) :
    After T b (@State.runJobs x0) := by
  unfold State.runJobs
  try dsimp only
  repeat' first
    | with_reducible assumption
    | with_reducible apply State.runJobsFor_after
    | with_reducible apply State.accumulateWaiting_after
    | with_reducible apply State.settleLost_after
    | with_reducible apply State.catchUpKick_after
    | with_reducible apply State.each_after
    | with_reducible apply State.closeForRoom_after
    | with_reducible apply State.goOn_after
    | with_reducible apply State.advanceWalks_after
    | with_reducible apply State.releaseAllWriteThrough_after
    | with_reducible exact Within.mono ht rfl
    | exact RegIn.block ht (by decide) rfl
    | with_reducible apply AfterRoute.ite
    | split
    | (with_reducible intro _)
    | with_reducible apply AfterOut.ofNext
    | with_reducible apply AfterOpt.ofSome
    | with_reducible exact AfterOpt.ofNone
    | (with_reducible refine After.ofPair (by assumption) ?_)
    | (with_reducible refine After.ofTriple (by assumption) ?_)
    | (with_reducible refine After.ofOpt (by assumption) ?_)
    | with_reducible apply AfterSome.ofSome
    | with_reducible apply AfterRoute.ofSome
    | with_reducible exact AfterRoute.ofNone
    | with_reducible exact AfterSome.ofNone
    | with_reducible apply AfterEx.ofOk
    | with_reducible exact AfterEx.ofError
    | (with_reducible refine After.ofSealed (by assumption) ?_)
    | (with_reducible refine After.ofOkPair (by assumption) ?_)
    | (with_reducible refine After.ofOk (by assumption) ?_)
    | with_reducible apply After.fold

theorem onData_after {b T} (x0) (x1) (ht : Within 0x6036591908bec1 T) (h1 : After T b x0) (h2 : ∀ y0, After T b y0 → After T b (x1 y0)) :
    AfterOut T b ((@onData x0 x1)) := by
  unfold onData
  try dsimp only
  repeat' first
    | with_reducible assumption
    | with_reducible apply onSoc_after
    | with_reducible apply State.runJobs_after
    | with_reducible apply h2
    | with_reducible exact Within.mono ht rfl
    | with_reducible apply AfterRoute.ite
    | split
    | (with_reducible intro _)

end Sys2Proof.Machine
end

