-- ==== Sys2Proof/Laws/After/Link.lean ====
section
/-! SUPPORT. What the operations of Link keep (Laws/After.lean). -/

set_option Elab.async false
set_option linter.all false

namespace Sys2Proof.Machine

theorem State.countFrame_after {b T} (x0) (x1) (x2) (ht : Within 0x40108010000000 T) (h1 : After T b x0) :
    After T b (@State.countFrame x0 x1 x2) := by
  unfold State.countFrame
  try dsimp only
  repeat' first
    | with_reducible assumption
    | with_reducible apply State.moved_after
    | with_reducible apply State.event_after
    | with_reducible apply State.count_after
    | with_reducible exact Within.mono ht rfl
    | exact RegIn.block ht (by decide) rfl
    | with_reducible apply AfterRoute.ite
    | split

theorem State.showRetained_after {b T} (x0) (ht : Within 0x8200000000 T) (h1 : After T b x0) :
    After T b (@State.showRetained x0) := by
  unfold State.showRetained
  try dsimp only
  repeat' first
    | with_reducible assumption
    | with_reducible apply State.showPools_after
    | with_reducible apply State.wr_after
    | with_reducible exact Within.mono ht rfl
    | exact RegIn.block ht (by decide) rfl
    | with_reducible apply AfterRoute.ite
    | split
    | (with_reducible intro _)
    | with_reducible apply AfterOut.ofNext
    | with_reducible apply AfterOpt.ofSome
    | with_reducible exact AfterOpt.ofNone
    | (with_reducible refine After.ofPair (by assumption) ?_)
    | (with_reducible refine After.ofTriple (by assumption) ?_)
    | (with_reducible refine After.ofOpt (by assumption) ?_)
    | with_reducible apply AfterSome.ofSome
    | with_reducible apply AfterRoute.ofSome
    | with_reducible exact AfterRoute.ofNone
    | with_reducible exact AfterSome.ofNone
    | with_reducible apply AfterEx.ofOk
    | with_reducible exact AfterEx.ofError
    | (with_reducible refine After.ofSealed (by assumption) ?_)
    | (with_reducible refine After.ofOkPair (by assumption) ?_)
    | (with_reducible refine After.ofOk (by assumption) ?_)
    | with_reducible apply After.fold

theorem State.writeSlotStatus_after {b T} (x0) (x1) (x2) (x3) (ht : Within 0x10000008004000 T) (h1 : After T b x0) :
    After T b (@State.writeSlotStatus x0 x1 x2 x3) := by
  unfold State.writeSlotStatus
  try dsimp only
  repeat' first
    | with_reducible assumption
    | with_reducible apply State.storeBytes_after

theorem State.onChannel_after {b T} (x0) (x1) (x2) (ht : Within 0x1000 T) (h1 : After T b x0) :
    After T b (@State.onChannel x0 x1 x2) := by
  unfold State.onChannel
  try dsimp only
  repeat' first
    | with_reducible assumption
    | with_reducible apply State.onLink_after
    | with_reducible exact Within.mono ht rfl
    | exact RegIn.block ht (by decide) rfl
    | with_reducible apply AfterRoute.ite
    | split
    | (with_reducible intro _)
    | with_reducible apply AfterOut.ofNext
    | with_reducible apply AfterOpt.ofSome
    | with_reducible exact AfterOpt.ofNone
    | (with_reducible refine After.ofPair (by assumption) ?_)
    | (with_reducible refine After.ofTriple (by assumption) ?_)
    | (with_reducible refine After.ofOpt (by assumption) ?_)
    | with_reducible apply AfterSome.ofSome
    | with_reducible apply AfterRoute.ofSome
    | with_reducible exact AfterRoute.ofNone
    | with_reducible exact AfterSome.ofNone
    | with_reducible apply AfterEx.ofOk
    | with_reducible exact AfterEx.ofError
    | (with_reducible refine After.ofSealed (by assumption) ?_)
    | (with_reducible refine After.ofOkPair (by assumption) ?_)
    | (with_reducible refine After.ofOk (by assumption) ?_)
    | with_reducible apply After.fold

theorem State.discardUncommitted_after {b T} (x0) (ht : Within 0x4000001400 T) (h1 : After T b x0) :
    After T b (@State.discardUncommitted x0) := by
  unfold State.discardUncommitted
  try dsimp only
  repeat' first
    | with_reducible assumption
    | with_reducible apply State.showDirty_after
    | with_reducible apply State.onLink_after
    | with_reducible apply State.onStore_after
    | with_reducible exact Within.mono ht rfl

theorem State.answerMessage_after {b T} (x0) (x1) (x2) (ht : Within 0x10000008005000 T) (h1 : After T b x0) :
    After T b (@State.answerMessage x0 x1 x2) := by
  unfold State.answerMessage
  try dsimp only
  repeat' first
    | with_reducible assumption
    | with_reducible apply State.onChannel_after
    | with_reducible apply State.writeSlotStatus_after
    | with_reducible exact Within.mono ht rfl
    | exact RegIn.block ht (by decide) rfl
    | with_reducible apply AfterRoute.ite
    | split
    | (with_reducible intro _)
    | with_reducible apply AfterOut.ofNext
    | with_reducible apply AfterOpt.ofSome
    | with_reducible exact AfterOpt.ofNone
    | (with_reducible refine After.ofPair (by assumption) ?_)
    | (with_reducible refine After.ofTriple (by assumption) ?_)
    | (with_reducible refine After.ofOpt (by assumption) ?_)
    | with_reducible apply AfterSome.ofSome
    | with_reducible apply AfterRoute.ofSome
    | with_reducible exact AfterRoute.ofNone
    | with_reducible exact AfterSome.ofNone
    | with_reducible apply AfterEx.ofOk
    | with_reducible exact AfterEx.ofError
    | (with_reducible refine After.ofSealed (by assumption) ?_)
    | (with_reducible refine After.ofOkPair (by assumption) ?_)
    | (with_reducible refine After.ofOk (by assumption) ?_)
    | with_reducible apply After.fold

theorem State.enterLink_after {b T} (x0) (x1) (ht : Within 0x8000001000 T) (h1 : After T b x0) :
    After T b (@State.enterLink x0 x1) := by
  unfold State.enterLink
  try dsimp only
  repeat' first
    | with_reducible assumption
    | with_reducible apply State.onLink_after
    | with_reducible apply State.wr_after
    | with_reducible exact Within.mono ht rfl
    | exact RegIn.block ht (by decide) rfl
    | with_reducible apply AfterRoute.ite
    | split
    | (with_reducible intro _)
    | with_reducible apply AfterOut.ofNext
    | with_reducible apply AfterOpt.ofSome
    | with_reducible exact AfterOpt.ofNone
    | (with_reducible refine After.ofPair (by assumption) ?_)
    | (with_reducible refine After.ofTriple (by assumption) ?_)
    | (with_reducible refine After.ofOpt (by assumption) ?_)
    | with_reducible apply AfterSome.ofSome
    | with_reducible apply AfterRoute.ofSome
    | with_reducible exact AfterRoute.ofNone
    | with_reducible exact AfterSome.ofNone
    | with_reducible apply AfterEx.ofOk
    | with_reducible exact AfterEx.ofError
    | (with_reducible refine After.ofSealed (by assumption) ?_)
    | (with_reducible refine After.ofOkPair (by assumption) ?_)
    | (with_reducible refine After.ofOk (by assumption) ?_)
    | with_reducible apply After.fold

theorem State.enterTraining_after {b T} (x0) (ht : Within 0x1000c208005400 T) (h1 : After T b x0) :
    After T b (@State.enterTraining x0) := by
  unfold State.enterTraining
  try dsimp only
  repeat' first
    | with_reducible assumption
    | with_reducible apply State.enterLink_after
    | with_reducible apply State.each_after
    | with_reducible apply State.answerMessage_after
    | with_reducible apply State.showRetained_after
    | with_reducible apply State.onLink_after
    | with_reducible apply State.discardUncommitted_after
    | with_reducible exact Within.mono ht rfl
    | exact RegIn.block ht (by decide) rfl
    | with_reducible apply AfterRoute.ite
    | split
    | (with_reducible intro _)
    | with_reducible apply AfterOut.ofNext
    | with_reducible apply AfterOpt.ofSome
    | with_reducible exact AfterOpt.ofNone
    | (with_reducible refine After.ofPair (by assumption) ?_)
    | (with_reducible refine After.ofTriple (by assumption) ?_)
    | (with_reducible refine After.ofOpt (by assumption) ?_)
    | with_reducible apply AfterSome.ofSome
    | with_reducible apply AfterRoute.ofSome
    | with_reducible exact AfterRoute.ofNone
    | with_reducible exact AfterSome.ofNone
    | with_reducible apply AfterEx.ofOk
    | with_reducible exact AfterEx.ofError
    | (with_reducible refine After.ofSealed (by assumption) ?_)
    | (with_reducible refine After.ofOkPair (by assumption) ?_)
    | (with_reducible refine After.ofOk (by assumption) ?_)
    | with_reducible apply After.fold

theorem State.fastRetrain_after {b T} (x0) (ht : Within 0x1000c208005400 T) (h1 : After T b x0) :
    After T b (@State.fastRetrain x0) := by
  unfold State.fastRetrain
  try dsimp only
  repeat' first
    | with_reducible assumption
    | with_reducible apply State.count_after
    | with_reducible apply State.onLink_after
    | with_reducible apply State.enterTraining_after
    | with_reducible exact Within.mono ht rfl
    | exact RegIn.block ht (by decide) rfl
    | with_reducible apply AfterRoute.ite
    | split

theorem State.sendFrame_after {b T} (x0) (x1) (x2) (x3) (x4) (x5) (x6) (x7) (x8) (ht : Within 0x5010c218005400 T) (h1 : After T b x0) :
    After T b (@State.sendFrame x0 x1 x2 x3 x4 x5 x6 x7 x8) := by
  unfold State.sendFrame
  try dsimp only
  repeat' first
    | with_reducible assumption
    | with_reducible apply State.showRetained_after
    | with_reducible apply State.onLink_after
    | with_reducible apply State.fastRetrain_after
    | with_reducible apply State.refuseCounter_after
    | with_reducible apply State.emit_after
    | with_reducible apply State.countFrame_after
    | with_reducible exact Within.mono ht rfl
    | with_reducible apply AfterRoute.ite
    | split

theorem State.linkAck_after {b T} (x0) (x1) (ht : Within 0x5010c218005400 T) (h1 : After T b x0) :
    After T b (@State.linkAck x0 x1) := by
  unfold State.linkAck
  try dsimp only
  repeat' first
    | with_reducible assumption
    | with_reducible apply State.sendFrame_after
    | with_reducible apply State.onLink_after
    | with_reducible exact Within.mono ht rfl

theorem State.showPairing_after {b T} (x0) (ht : Within 0x8000000000 T) (h1 : After T b x0) :
    After T b (@State.showPairing x0) := by
  unfold State.showPairing
  try dsimp only
  repeat' first
    | with_reducible assumption
    | with_reducible apply State.wr_after
    | with_reducible exact Within.mono ht rfl
    | exact RegIn.block ht (by decide) rfl

theorem State.onGroup_after {b T} (x0) (x1) (x2) (ht : Within 0x200000 T) (h1 : After T b x0) :
    After T b (@State.onGroup x0 x1 x2) := by
  unfold State.onGroup
  try dsimp only
  repeat' first
    | with_reducible assumption
    | with_reducible apply State.onToken_after

theorem State.stopCutIn_after {b T} (x0) (ht : Within 0x40350111002281 T) (h1 : After T b x0) :
    After T b (@State.stopCutIn x0) := by
  unfold State.stopCutIn
  try dsimp only
  repeat' first
    | with_reducible assumption
    | with_reducible apply State.reportAna_after
    | with_reducible apply State.wrs_after
    | with_reducible exact Within.mono ht rfl
    | exact RegIn.block ht (by decide) rfl
    | with_reducible apply FieldsIn.cons
    | with_reducible exact FieldsIn.nil

theorem State.healthArrived_after {b T} (x0) (x1) (ht : Within 0x40350111202281 T) (h1 : After T b x0) :
    After T b (@State.healthArrived x0 x1) := by
  unfold State.healthArrived
  try dsimp only
  repeat' first
    | with_reducible assumption
    | with_reducible apply State.onToken_after
    | with_reducible apply State.setReg_after
    | with_reducible apply State.stopCutIn_after
    | with_reducible apply State.wr_after
    | with_reducible exact Within.mono ht rfl
    | exact RegIn.block ht (by decide) rfl
    | with_reducible apply AfterRoute.ite
    | split

theorem State.startBaseline_after {b T} (x0) (ht : Within 0x1000 T) (h1 : After T b x0) :
    After T b (@State.startBaseline x0) := by
  unfold State.startBaseline
  try dsimp only
  repeat' first
    | with_reducible assumption
    | with_reducible apply State.onLink_after
    | with_reducible exact Within.mono ht rfl
    | exact RegIn.block ht (by decide) rfl
    | with_reducible apply AfterRoute.ite
    | split
    | (with_reducible intro _)
    | with_reducible apply AfterOut.ofNext
    | with_reducible apply AfterOpt.ofSome
    | with_reducible exact AfterOpt.ofNone
    | (with_reducible refine After.ofPair (by assumption) ?_)
    | (with_reducible refine After.ofTriple (by assumption) ?_)
    | (with_reducible refine After.ofOpt (by assumption) ?_)
    | with_reducible apply AfterSome.ofSome
    | with_reducible apply AfterRoute.ofSome
    | with_reducible exact AfterRoute.ofNone
    | with_reducible exact AfterSome.ofNone
    | with_reducible apply AfterEx.ofOk
    | with_reducible exact AfterEx.ofError
    | (with_reducible refine After.ofSealed (by assumption) ?_)
    | (with_reducible refine After.ofOkPair (by assumption) ?_)
    | (with_reducible refine After.ofOk (by assumption) ?_)
    | with_reducible apply After.fold

theorem State.sendPieces_after {b T} (x0) (x1) (x2) (x3) (ht : Within 0x5010c218005400 T) (h1 : After T b x0) :
    After T b (@State.sendPieces x0 x1 x2 x3) := by
  induction x3 generalizing x0 x2 with
  | nil => exact h1
  | cons c l ih =>
    cases l with
    | nil =>
      unfold State.sendPieces
      exact State.sendFrame_after _ _ _ _ _ _ _ _ _ (ht.mono rfl) h1
    | cons d l =>
      unfold State.sendPieces
      exact ih _ _ (State.sendFrame_after _ _ _ _ _ _ _ _ _ (ht.mono rfl) h1)

theorem State.sendStateCopy_after {b T} (x0) (x1) (ht : Within 0x5011c218005400 T) (h1 : After T b x0) :
    After T b (@State.sendStateCopy x0 x1) := by
  unfold State.sendStateCopy
  try dsimp only
  repeat' first
    | with_reducible assumption
    | with_reducible apply State.setReg_after
    | with_reducible apply State.onLink_after
    | with_reducible apply State.onStore_after
    | with_reducible apply State.startBaseline_after
    | with_reducible apply State.sendPieces_after
    | with_reducible apply State.sendFrame_after
    | with_reducible apply State.emit_after
    | with_reducible exact Within.mono ht rfl
    | exact RegIn.block ht (by decide) rfl
    | with_reducible apply AfterRoute.ite
    | split
    | (with_reducible intro _)
    | with_reducible apply AfterOut.ofNext
    | with_reducible apply AfterOpt.ofSome
    | with_reducible exact AfterOpt.ofNone
    | (with_reducible refine After.ofPair (by assumption) ?_)
    | (with_reducible refine After.ofTriple (by assumption) ?_)
    | (with_reducible refine After.ofOpt (by assumption) ?_)
    | with_reducible apply AfterSome.ofSome
    | with_reducible apply AfterRoute.ofSome
    | with_reducible exact AfterRoute.ofNone
    | with_reducible exact AfterSome.ofNone
    | with_reducible apply AfterEx.ofOk
    | with_reducible exact AfterEx.ofError
    | (with_reducible refine After.ofSealed (by assumption) ?_)
    | (with_reducible refine After.ofOkPair (by assumption) ?_)
    | (with_reducible refine After.ofOk (by assumption) ?_)
    | with_reducible apply After.fold

theorem State.stopFollowing_after {b T} (x0) (ht : Within 0x4000001400 T) (h1 : After T b x0) :
    After T b (@State.stopFollowing x0) := by
  unfold State.stopFollowing
  try dsimp only
  repeat' first
    | with_reducible assumption
    | with_reducible apply State.onLink_after
    | with_reducible apply State.discardUncommitted_after
    | with_reducible exact Within.mono ht rfl
    | exact RegIn.block ht (by decide) rfl
    | with_reducible apply AfterRoute.ite
    | split
    | (with_reducible intro _)
    | with_reducible apply AfterOut.ofNext
    | with_reducible apply AfterOpt.ofSome
    | with_reducible exact AfterOpt.ofNone
    | (with_reducible refine After.ofPair (by assumption) ?_)
    | (with_reducible refine After.ofTriple (by assumption) ?_)
    | (with_reducible refine After.ofOpt (by assumption) ?_)
    | with_reducible apply AfterSome.ofSome
    | with_reducible apply AfterRoute.ofSome
    | with_reducible exact AfterRoute.ofNone
    | with_reducible exact AfterSome.ofNone
    | with_reducible apply AfterEx.ofOk
    | with_reducible exact AfterEx.ofError
    | (with_reducible refine After.ofSealed (by assumption) ?_)
    | (with_reducible refine After.ofOkPair (by assumption) ?_)
    | (with_reducible refine After.ofOk (by assumption) ?_)
    | with_reducible apply After.fold

theorem State.loseFollow_after {b T} (x0) (ht : Within 0x6034c219001ec0 T) (h1 : After T b x0) :
    After T b (@State.loseFollow x0) := by
  unfold State.loseFollow
  try dsimp only
  repeat' first
    | with_reducible assumption
    | with_reducible apply State.flagFault_after
    | with_reducible apply State.wr_after
    | with_reducible apply State.onLink_after
    | with_reducible apply State.onStore_after
    | with_reducible apply State.onHost_after
    | with_reducible apply State.freeCopies_after
    | with_reducible apply State.showRetained_after
    | with_reducible apply State.applyReservations_after
    | with_reducible exact Within.mono ht rfl
    | exact RegIn.block ht (by decide) rfl
    | with_reducible apply AfterRoute.ite
    | split
    | (with_reducible intro _)
    | with_reducible apply AfterOut.ofNext
    | with_reducible apply AfterOpt.ofSome
    | with_reducible exact AfterOpt.ofNone
    | (with_reducible refine After.ofPair (by assumption) ?_)
    | (with_reducible refine After.ofTriple (by assumption) ?_)
    | (with_reducible refine After.ofOpt (by assumption) ?_)
    | with_reducible apply AfterSome.ofSome
    | with_reducible apply AfterRoute.ofSome
    | with_reducible exact AfterRoute.ofNone
    | with_reducible exact AfterSome.ofNone
    | with_reducible apply AfterEx.ofOk
    | with_reducible exact AfterEx.ofError
    | (with_reducible refine After.ofSealed (by assumption) ?_)
    | (with_reducible refine After.ofOkPair (by assumption) ?_)
    | (with_reducible refine After.ofOk (by assumption) ?_)
    | with_reducible apply After.fold

theorem State.pumpChannel_after {b T} (x0) (x1) (ht : Within 0x5010c218005400 T) (h1 : After T b x0) :
    After T b (@State.pumpChannel x0 x1) := by
  unfold State.pumpChannel
  try dsimp only
  repeat' first
    | with_reducible assumption
    | with_reducible apply State.onLink_after
    | with_reducible apply State.sendFrame_after
    | with_reducible apply State.onChannel_after
    | with_reducible exact Within.mono ht rfl
    | exact RegIn.block ht (by decide) rfl
    | with_reducible apply AfterRoute.ite
    | split
    | (with_reducible intro _)
    | with_reducible apply AfterOut.ofNext
    | with_reducible apply AfterOpt.ofSome
    | with_reducible exact AfterOpt.ofNone
    | (with_reducible refine After.ofPair (by assumption) ?_)
    | (with_reducible refine After.ofTriple (by assumption) ?_)
    | (with_reducible refine After.ofOpt (by assumption) ?_)
    | with_reducible apply AfterSome.ofSome
    | with_reducible apply AfterRoute.ofSome
    | with_reducible exact AfterRoute.ofNone
    | with_reducible exact AfterSome.ofNone
    | with_reducible apply AfterEx.ofOk
    | with_reducible exact AfterEx.ofError
    | (with_reducible refine After.ofSealed (by assumption) ?_)
    | (with_reducible refine After.ofOkPair (by assumption) ?_)
    | (with_reducible refine After.ofOk (by assumption) ?_)
    | with_reducible apply After.fold

theorem State.endMessage_after {b T} (x0) (x1) (x2) (ht : Within 0x5010c218005400 T) (h1 : After T b x0) :
    After T b (@State.endMessage x0 x1 x2) := by
  unfold State.endMessage
  try dsimp only
  repeat' first
    | with_reducible assumption
    | with_reducible apply State.pumpChannel_after
    | with_reducible apply State.answerMessage_after
    | with_reducible exact Within.mono ht rfl
    | with_reducible apply AfterRoute.ite
    | split

theorem State.leavePaired_after {b T} (x0) (ht : Within 0x6034c219009ec0 T) (h1 : After T b x0) :
    After T b (@State.leavePaired x0) := by
  unfold State.leavePaired
  try dsimp only
  repeat' first
    | with_reducible assumption
    | with_reducible apply State.onLink_after
    | with_reducible apply State.stopFollowing_after
    | with_reducible apply State.loseFollow_after
    | with_reducible apply State.destroyOldKeks_after
    | with_reducible exact Within.mono ht rfl
    | with_reducible apply AfterRoute.ite
    | split

theorem State.linkGoesDown_after {b T} (x0) (ht : Within 0x7034c21900dec0 T) (h1 : After T b x0) :
    After T b (@State.linkGoesDown x0) := by
  unfold State.linkGoesDown
  try dsimp only
  repeat' first
    | with_reducible assumption
    | with_reducible apply State.wr_after
    | with_reducible apply State.enterLink_after
    | with_reducible apply State.leavePaired_after
    | with_reducible apply State.each_after
    | with_reducible apply State.endMessage_after
    | with_reducible apply State.showPairing_after
    | with_reducible apply State.showRetained_after
    | with_reducible apply State.onLink_after
    | with_reducible exact Within.mono ht rfl
    | exact RegIn.block ht (by decide) rfl
    | with_reducible apply AfterRoute.ite
    | split
    | (with_reducible intro _)
    | with_reducible apply AfterOut.ofNext
    | with_reducible apply AfterOpt.ofSome
    | with_reducible exact AfterOpt.ofNone
    | (with_reducible refine After.ofPair (by assumption) ?_)
    | (with_reducible refine After.ofTriple (by assumption) ?_)
    | (with_reducible refine After.ofOpt (by assumption) ?_)
    | with_reducible apply AfterSome.ofSome
    | with_reducible apply AfterRoute.ofSome
    | with_reducible exact AfterRoute.ofNone
    | with_reducible exact AfterSome.ofNone
    | with_reducible apply AfterEx.ofOk
    | with_reducible exact AfterEx.ofError
    | (with_reducible refine After.ofSealed (by assumption) ?_)
    | (with_reducible refine After.ofOkPair (by assumption) ?_)
    | (with_reducible refine After.ofOk (by assumption) ?_)
    | with_reducible apply After.fold

theorem execLinkEnable_after {b T} (x0) (x1) (x2) (ht : Within 0x613480110010ca T) (h3 : After T b x2) :
    AfterOut T b ((@execLinkEnable x0 x1 x2)) := by
  unfold execLinkEnable
  try dsimp only
  repeat' first
    | with_reducible assumption
    | with_reducible apply onSoc_after
    | with_reducible apply State.commandWrite_after
    | with_reducible apply State.tryTrain_after
    | with_reducible apply State.wr_after
    | with_reducible exact Within.mono ht rfl
    | exact RegIn.block ht (by decide) rfl
    | exact NotWall (by omega) (by omega)
    | with_reducible apply AfterRoute.ite
    | split
    | (with_reducible intro _)

theorem execPeerRemoved_after {b T} (x0) (x1) (ht : Within 0x7136db1908fecb T) (h2 : After T b x1) :
    AfterOut T b ((@execPeerRemoved x0 x1)) := by
  unfold execPeerRemoved
  try dsimp only
  repeat' first
    | with_reducible assumption
    | with_reducible apply onSoc_after
    | with_reducible apply State.commandWrite_after
    | with_reducible apply State.runJobs_after
    | with_reducible apply State.linkGoesDown_after
    | with_reducible apply State.wr_after
    | with_reducible apply State.onLink_after
    | with_reducible exact Within.mono ht rfl
    | exact RegIn.block ht (by decide) rfl
    | exact NotWall (by omega) (by omega)
    | with_reducible apply AfterRoute.ite
    | split
    | (with_reducible intro _)

theorem execPeerSeated_after {b T} (x0) (ht : Within 0x8000001000 T) (h1 : After T b x0) :
    AfterOut T b ((@execPeerSeated x0)) := by
  unfold execPeerSeated
  try dsimp only
  repeat' first
    | with_reducible assumption
    | with_reducible apply onSoc_after
    | with_reducible apply State.tryTrain_after
    | with_reducible apply State.onLink_after
    | with_reducible exact Within.mono ht rfl
    | with_reducible apply AfterRoute.ite
    | split
    | (with_reducible intro _)

theorem State.resendMeasures_after {b T} (x0) (ht : Within 0x40108010001000 T) (h1 : After T b x0) :
    After T b (@State.resendMeasures x0) := by
  unfold State.resendMeasures
  try dsimp only
  repeat' first
    | with_reducible assumption
    | with_reducible apply State.onLink_after
    | with_reducible apply State.emit_after
    | with_reducible apply State.countFrame_after
    | with_reducible exact Within.mono ht rfl
    | exact RegIn.block ht (by decide) rfl
    | with_reducible apply AfterRoute.ite
    | split
    | (with_reducible intro _)
    | with_reducible apply AfterOut.ofNext
    | with_reducible apply AfterOpt.ofSome
    | with_reducible exact AfterOpt.ofNone
    | (with_reducible refine After.ofPair (by assumption) ?_)
    | (with_reducible refine After.ofTriple (by assumption) ?_)
    | (with_reducible refine After.ofOpt (by assumption) ?_)
    | with_reducible apply AfterSome.ofSome
    | with_reducible apply AfterRoute.ofSome
    | with_reducible exact AfterRoute.ofNone
    | with_reducible exact AfterSome.ofNone
    | with_reducible apply AfterEx.ofOk
    | with_reducible exact AfterEx.ofError
    | (with_reducible refine After.ofSealed (by assumption) ?_)
    | (with_reducible refine After.ofOkPair (by assumption) ?_)
    | (with_reducible refine After.ofOk (by assumption) ?_)
    | with_reducible apply After.fold

theorem execLinkTrained_after {b T} (x0) (x1) (ht : Within 0x7036db1908fec1 T) (h2 : After T b x1) :
    AfterOut T b (@execLinkTrained x0 x1) := by
  unfold execLinkTrained
  try dsimp only
  repeat' first
    | with_reducible assumption
    | with_reducible apply onData_after
    | with_reducible apply State.plainFault_after
    | with_reducible apply State.linkGoesDown_after
    | with_reducible apply State.refuseCounter_after
    | with_reducible apply State.leavePaired_after
    | with_reducible apply State.enterLink_after
    | with_reducible apply State.wrs_after
    | with_reducible apply State.onLink_after
    | with_reducible apply State.sendFrame_after
    | with_reducible apply State.emit_after
    | with_reducible apply State.resendMeasures_after
    | with_reducible apply State.each_after
    | with_reducible apply State.pumpChannel_after
    | with_reducible exact Within.mono ht rfl
    | exact RegIn.block ht (by decide) rfl
    | with_reducible apply FieldsIn.cons
    | with_reducible exact FieldsIn.nil
    | with_reducible apply AfterRoute.ite
    | split
    | (with_reducible intro _)
    | with_reducible apply AfterOut.ofNext
    | with_reducible apply AfterOpt.ofSome
    | with_reducible exact AfterOpt.ofNone
    | (with_reducible refine After.ofPair (by assumption) ?_)
    | (with_reducible refine After.ofTriple (by assumption) ?_)
    | (with_reducible refine After.ofOpt (by assumption) ?_)
    | with_reducible apply AfterSome.ofSome
    | with_reducible apply AfterRoute.ofSome
    | with_reducible exact AfterRoute.ofNone
    | with_reducible exact AfterSome.ofNone
    | with_reducible apply AfterEx.ofOk
    | with_reducible exact AfterEx.ofError
    | (with_reducible refine After.ofSealed (by assumption) ?_)
    | (with_reducible refine After.ofOkPair (by assumption) ?_)
    | (with_reducible refine After.ofOk (by assumption) ?_)
    | with_reducible apply After.fold

theorem execTrainingTimeout_after {b T} (x0) (ht : Within 0x7036db1908fec1 T) (h1 : After T b x0) :
    AfterOut T b (@execTrainingTimeout x0) := by
  unfold execTrainingTimeout
  try dsimp only
  repeat' first
    | with_reducible assumption
    | with_reducible apply onData_after
    | with_reducible apply State.plainFault_after
    | with_reducible apply State.linkGoesDown_after
    | with_reducible exact Within.mono ht rfl
    | exact RegIn.block ht (by decide) rfl
    | with_reducible apply AfterRoute.ite
    | split
    | (with_reducible intro _)
    | with_reducible apply AfterOut.ofNext
    | with_reducible apply AfterOpt.ofSome
    | with_reducible exact AfterOpt.ofNone
    | (with_reducible refine After.ofPair (by assumption) ?_)
    | (with_reducible refine After.ofTriple (by assumption) ?_)
    | (with_reducible refine After.ofOpt (by assumption) ?_)
    | with_reducible apply AfterSome.ofSome
    | with_reducible apply AfterRoute.ofSome
    | with_reducible exact AfterRoute.ofNone
    | with_reducible exact AfterSome.ofNone
    | with_reducible apply AfterEx.ofOk
    | with_reducible exact AfterEx.ofError
    | (with_reducible refine After.ofSealed (by assumption) ?_)
    | (with_reducible refine After.ofOkPair (by assumption) ?_)
    | (with_reducible refine After.ofOk (by assumption) ?_)
    | with_reducible apply After.fold

theorem execTrainingRetry_after {b T} (x0) (ht : Within 0x8000001000 T) (h1 : After T b x0) :
    AfterOut T b (@execTrainingRetry x0) := by
  unfold execTrainingRetry
  try dsimp only
  repeat' first
    | with_reducible assumption
    | with_reducible apply onSoc_after
    | with_reducible apply State.tryTrain_after
    | with_reducible exact Within.mono ht rfl
    | exact RegIn.block ht (by decide) rfl
    | with_reducible apply AfterRoute.ite
    | split
    | (with_reducible intro _)
    | with_reducible apply AfterOut.ofNext
    | with_reducible apply AfterOpt.ofSome
    | with_reducible exact AfterOpt.ofNone
    | (with_reducible refine After.ofPair (by assumption) ?_)
    | (with_reducible refine After.ofTriple (by assumption) ?_)
    | (with_reducible refine After.ofOpt (by assumption) ?_)
    | with_reducible apply AfterSome.ofSome
    | with_reducible apply AfterRoute.ofSome
    | with_reducible exact AfterRoute.ofNone
    | with_reducible exact AfterSome.ofNone
    | with_reducible apply AfterEx.ofOk
    | with_reducible exact AfterEx.ofError
    | (with_reducible refine After.ofSealed (by assumption) ?_)
    | (with_reducible refine After.ofOkPair (by assumption) ?_)
    | (with_reducible refine After.ofOk (by assumption) ?_)
    | with_reducible apply After.fold

theorem execFastRetrain_after {b T} (x0) (ht : Within 0x7036db1908fec1 T) (h1 : After T b x0) :
    AfterOut T b ((@execFastRetrain x0)) := by
  unfold execFastRetrain
  try dsimp only
  repeat' first
    | with_reducible assumption
    | with_reducible apply onData_after
    | with_reducible apply State.fastRetrain_after
    | with_reducible exact Within.mono ht rfl
    | with_reducible apply AfterRoute.ite
    | split
    | (with_reducible intro _)

theorem execFastRetrainFail_after {b T} (x0) (ht : Within 0x6036db1908bec1 T) (h1 : After T b x0) :
    AfterOut T b (@execFastRetrainFail x0) := by
  unfold execFastRetrainFail
  try dsimp only
  repeat' first
    | with_reducible assumption
    | with_reducible apply onData_after
    | with_reducible apply State.wr_after
    | with_reducible apply State.enterLink_after
    | with_reducible apply State.leavePaired_after
    | with_reducible exact Within.mono ht rfl
    | exact RegIn.block ht (by decide) rfl
    | with_reducible apply AfterRoute.ite
    | split
    | (with_reducible intro _)
    | with_reducible apply AfterOut.ofNext
    | with_reducible apply AfterOpt.ofSome
    | with_reducible exact AfterOpt.ofNone
    | (with_reducible refine After.ofPair (by assumption) ?_)
    | (with_reducible refine After.ofTriple (by assumption) ?_)
    | (with_reducible refine After.ofOpt (by assumption) ?_)
    | with_reducible apply AfterSome.ofSome
    | with_reducible apply AfterRoute.ofSome
    | with_reducible exact AfterRoute.ofNone
    | with_reducible exact AfterSome.ofNone
    | with_reducible apply AfterEx.ofOk
    | with_reducible exact AfterEx.ofError
    | (with_reducible refine After.ofSealed (by assumption) ?_)
    | (with_reducible refine After.ofOkPair (by assumption) ?_)
    | (with_reducible refine After.ofOk (by assumption) ?_)
    | with_reducible apply After.fold

theorem State.receive_after {b T} (x0) (x1) (x2) (ht : Within 0x7034c2190054c0 T) (h1 : After T b x0) (h3 : ∀ y0, After T b y0 → After T b (x2 y0)) :
    After T b (@State.receive x0 x1 x2) := by
  unfold State.receive
  try dsimp only
  repeat' first
    | with_reducible assumption
    | with_reducible apply h3
    | with_reducible apply State.countFrame_after
    | with_reducible apply State.tagMismatch_after
    | with_reducible apply State.count_after
    | with_reducible apply State.linkAck_after
    | with_reducible apply State.onLink_after
    | with_reducible exact Within.mono ht rfl
    | exact RegIn.block ht (by decide) rfl
    | with_reducible apply AfterRoute.ite
    | split
    | (with_reducible intro _)
    | with_reducible apply AfterOut.ofNext
    | with_reducible apply AfterOpt.ofSome
    | with_reducible exact AfterOpt.ofNone
    | (with_reducible refine After.ofPair (by assumption) ?_)
    | (with_reducible refine After.ofTriple (by assumption) ?_)
    | (with_reducible refine After.ofOpt (by assumption) ?_)
    | with_reducible apply AfterSome.ofSome
    | with_reducible apply AfterRoute.ofSome
    | with_reducible exact AfterRoute.ofNone
    | with_reducible exact AfterSome.ofNone
    | with_reducible apply AfterEx.ofOk
    | with_reducible exact AfterEx.ofError
    | (with_reducible refine After.ofSealed (by assumption) ?_)
    | (with_reducible refine After.ofOkPair (by assumption) ?_)
    | (with_reducible refine After.ofOk (by assumption) ?_)
    | with_reducible apply After.fold

theorem execLinkAckReceived_after {b T} (x0) (x1) (x2) (x3) (ht : Within 0x7034c2190054c0 T) (h4 : After T b x3) :
    AfterOut T b (@execLinkAckReceived x0 x1 x2 x3) := by
  unfold execLinkAckReceived
  try dsimp only
  repeat' first
    | with_reducible assumption
    | with_reducible apply onSoc_after
    | with_reducible apply State.receive_after
    | with_reducible apply State.showRetained_after
    | with_reducible apply State.onLink_after
    | with_reducible apply State.each_after
    | with_reducible apply State.endMessage_after
    | with_reducible apply State.pumpChannel_after
    | with_reducible apply State.count_after
    | with_reducible apply State.emits_after
    | with_reducible exact Within.mono ht rfl
    | exact RegIn.block ht (by decide) rfl
    | with_reducible apply AfterRoute.ite
    | split
    | (with_reducible intro _)
    | with_reducible apply AfterOut.ofNext
    | with_reducible apply AfterOpt.ofSome
    | with_reducible exact AfterOpt.ofNone
    | (with_reducible refine After.ofPair (by assumption) ?_)
    | (with_reducible refine After.ofTriple (by assumption) ?_)
    | (with_reducible refine After.ofOpt (by assumption) ?_)
    | with_reducible apply AfterSome.ofSome
    | with_reducible apply AfterRoute.ofSome
    | with_reducible exact AfterRoute.ofNone
    | with_reducible exact AfterSome.ofNone
    | with_reducible apply AfterEx.ofOk
    | with_reducible exact AfterEx.ofError
    | (with_reducible refine After.ofSealed (by assumption) ?_)
    | (with_reducible refine After.ofOkPair (by assumption) ?_)
    | (with_reducible refine After.ofOk (by assumption) ?_)
    | with_reducible apply After.fold

theorem execLinkAckTimer_after {b T} (x0) (ht : Within 0x5010c218005400 T) (h1 : After T b x0) :
    AfterOut T b ((@execLinkAckTimer x0)) := by
  unfold execLinkAckTimer
  try dsimp only
  repeat' first
    | with_reducible assumption
    | with_reducible apply onSoc_after
    | with_reducible apply State.linkAck_after
    | with_reducible exact Within.mono ht rfl
    | with_reducible apply AfterRoute.ite
    | split
    | (with_reducible intro _)

theorem State.keepWindows_after {b T} (x0) (x1) (ht : Within 0x1000 T) (h1 : After T b x0) :
    After T b (@State.keepWindows x0 x1) := by
  unfold State.keepWindows
  try dsimp only
  repeat' first
    | with_reducible assumption
    | with_reducible apply State.onLink_after

theorem State.rejectFrame_after {b T} (x0) (x1) (ht : Within 0x603480110000c0 T) (h1 : After T b x0) :
    After T b (@State.rejectFrame x0 x1) := by
  unfold State.rejectFrame
  try dsimp only
  repeat' first
    | with_reducible assumption
    | with_reducible apply State.plainFault_after
    | with_reducible apply State.count_after
    | with_reducible exact Within.mono ht rfl
    | exact RegIn.block ht (by decide) rfl

theorem State.onRx_after {b T} (x0) (x1) (x2) (ht : Within 0x1000 T) (h1 : After T b x0) :
    After T b (@State.onRx x0 x1 x2) := by
  unfold State.onRx
  try dsimp only
  repeat' first
    | with_reducible assumption
    | with_reducible apply State.onLink_after

theorem State.mirrorArrives_after {b T} (x0) (x1) (x2) (ht : Within 0x6034c0110014c0 T) (h1 : After T b x0) :
    After T b (@State.mirrorArrives x0 x1 x2) := by
  unfold State.mirrorArrives
  try dsimp only
  repeat' first
    | with_reducible assumption
    | with_reducible apply State.count_after
    | with_reducible apply State.onLink_after
    | with_reducible apply State.rejectFrame_after
    | with_reducible apply State.showDirty_after
    | with_reducible apply State.onRx_after
    | with_reducible apply State.onStore_after
    | with_reducible exact Within.mono ht rfl
    | exact RegIn.block ht (by decide) rfl
    | with_reducible apply AfterRoute.ite
    | split
    | (with_reducible intro _)
    | with_reducible apply AfterOut.ofNext
    | with_reducible apply AfterOpt.ofSome
    | with_reducible exact AfterOpt.ofNone
    | (with_reducible refine After.ofPair (by assumption) ?_)
    | (with_reducible refine After.ofTriple (by assumption) ?_)
    | (with_reducible refine After.ofOpt (by assumption) ?_)
    | with_reducible apply AfterSome.ofSome
    | with_reducible apply AfterRoute.ofSome
    | with_reducible exact AfterRoute.ofNone
    | with_reducible exact AfterSome.ofNone
    | with_reducible apply AfterEx.ofOk
    | with_reducible exact AfterEx.ofError
    | (with_reducible refine After.ofSealed (by assumption) ?_)
    | (with_reducible refine After.ofOkPair (by assumption) ?_)
    | (with_reducible refine After.ofOk (by assumption) ?_)
    | with_reducible apply After.fold

theorem execMirrorCopyReceived_after {b T} (x0) (x1) (x2) (ht : Within 0x7034c2190054c0 T) (h3 : After T b x2) :
    AfterOut T b ((@execMirrorCopyReceived x0 x1 x2)) := by
  unfold execMirrorCopyReceived
  try dsimp only
  repeat' first
    | with_reducible assumption
    | with_reducible apply onSoc_after
    | with_reducible apply State.receive_after
    | with_reducible apply State.mirrorArrives_after
    | with_reducible exact Within.mono ht rfl
    | with_reducible apply AfterRoute.ite
    | split
    | (with_reducible intro _)

theorem execWindowWriteReceived_after {b T} (x0) (x1) (x2) (ht : Within 0x7034c2190054c0 T) (h3 : After T b x2) :
    AfterOut T b (@execWindowWriteReceived x0 x1 x2) := by
  unfold execWindowWriteReceived
  try dsimp only
  repeat' first
    | with_reducible assumption
    | with_reducible apply onSoc_after
    | with_reducible apply State.receive_after
    | with_reducible apply State.count_after
    | with_reducible apply State.rejectFrame_after
    | with_reducible apply State.storeBytes_after
    | with_reducible exact Within.mono ht rfl
    | exact RegIn.block ht (by decide) rfl
    | with_reducible apply AfterRoute.ite
    | split
    | (with_reducible intro _)
    | with_reducible apply AfterOut.ofNext
    | with_reducible apply AfterOpt.ofSome
    | with_reducible exact AfterOpt.ofNone
    | (with_reducible refine After.ofPair (by assumption) ?_)
    | (with_reducible refine After.ofTriple (by assumption) ?_)
    | (with_reducible refine After.ofOpt (by assumption) ?_)
    | with_reducible apply AfterSome.ofSome
    | with_reducible apply AfterRoute.ofSome
    | with_reducible exact AfterRoute.ofNone
    | with_reducible exact AfterSome.ofNone
    | with_reducible apply AfterEx.ofOk
    | with_reducible exact AfterEx.ofError
    | (with_reducible refine After.ofSealed (by assumption) ?_)
    | (with_reducible refine After.ofOkPair (by assumption) ?_)
    | (with_reducible refine After.ofOk (by assumption) ?_)
    | with_reducible apply After.fold

theorem execMessageSendPost_after {b T} (x0) (x1) (x2) (x3) (ht : Within 0x7134c2190054ca T) (h4 : After T b x3) :
    AfterOut T b (@execMessageSendPost x0 x1 x2 x3) := by
  unfold execMessageSendPost
  try dsimp only
  repeat' first
    | with_reducible assumption
    | with_reducible apply onSoc_after
    | with_reducible apply State.commandWrite_after
    | with_reducible apply State.wr_after
    | with_reducible apply State.pumpChannel_after
    | with_reducible apply State.onChannel_after
    | with_reducible exact Within.mono ht rfl
    | exact RegIn.block ht (by decide) rfl
    | exact NotWall (by omega) (by omega)
    | with_reducible apply AfterRoute.ite
    | split
    | (with_reducible intro _)
    | with_reducible apply AfterOut.ofNext
    | with_reducible apply AfterOpt.ofSome
    | with_reducible exact AfterOpt.ofNone
    | (with_reducible refine After.ofPair (by assumption) ?_)
    | (with_reducible refine After.ofTriple (by assumption) ?_)
    | (with_reducible refine After.ofOpt (by assumption) ?_)
    | with_reducible apply AfterSome.ofSome
    | with_reducible apply AfterRoute.ofSome
    | with_reducible exact AfterRoute.ofNone
    | with_reducible exact AfterSome.ofNone
    | with_reducible apply AfterEx.ofOk
    | with_reducible exact AfterEx.ofError
    | (with_reducible refine After.ofSealed (by assumption) ?_)
    | (with_reducible refine After.ofOkPair (by assumption) ?_)
    | (with_reducible refine After.ofOk (by assumption) ?_)
    | with_reducible apply After.fold

theorem execMessageReceivePost_after {b T} (x0) (x1) (x2) (x3) (ht : Within 0x613480110000ca T) (h4 : After T b x3) :
    AfterOut T b ((@execMessageReceivePost x0 x1 x2 x3)) := by
  unfold execMessageReceivePost
  try dsimp only
  repeat' first
    | with_reducible assumption
    | with_reducible apply onSoc_after
    | with_reducible apply State.commandWrite_after
    | with_reducible apply State.wr_after
    | with_reducible exact Within.mono ht rfl
    | exact RegIn.block ht (by decide) rfl
    | exact NotWall (by omega) (by omega)
    | with_reducible apply AfterRoute.ite
    | split
    | (with_reducible intro _)

theorem execMessageWithdraw_after {b T} (x0) (x1) (ht : Within 0x5010c218005400 T) (h2 : After T b x1) :
    AfterOut T b (@execMessageWithdraw x0 x1) := by
  unfold execMessageWithdraw
  try dsimp only
  repeat' first
    | with_reducible assumption
    | with_reducible apply onSoc_after
    | with_reducible apply State.endMessage_after
    | with_reducible exact Within.mono ht rfl
    | exact RegIn.block ht (by decide) rfl
    | with_reducible apply AfterRoute.ite
    | split
    | (with_reducible intro _)
    | with_reducible apply AfterOut.ofNext
    | with_reducible apply AfterOpt.ofSome
    | with_reducible exact AfterOpt.ofNone
    | (with_reducible refine After.ofPair (by assumption) ?_)
    | (with_reducible refine After.ofTriple (by assumption) ?_)
    | (with_reducible refine After.ofOpt (by assumption) ?_)
    | with_reducible apply AfterSome.ofSome
    | with_reducible apply AfterRoute.ofSome
    | with_reducible exact AfterRoute.ofNone
    | with_reducible exact AfterSome.ofNone
    | with_reducible apply AfterEx.ofOk
    | with_reducible exact AfterEx.ofError
    | (with_reducible refine After.ofSealed (by assumption) ?_)
    | (with_reducible refine After.ofOkPair (by assumption) ?_)
    | (with_reducible refine After.ofOk (by assumption) ?_)
    | with_reducible apply After.fold

theorem State.acceptMirror_after {b T} (x0) (ht : Within 0x5010c218005600 T) (h1 : After T b x0) :
    After T b (@State.acceptMirror x0) := by
  unfold State.acceptMirror
  try dsimp only
  repeat' first
    | with_reducible assumption
    | with_reducible apply State.onLink_after
    | with_reducible apply State.onStore_after
    | with_reducible apply State.onCommand_after
    | with_reducible apply State.sendFrame_after
    | with_reducible exact Within.mono ht rfl
    | exact RegIn.block ht (by decide) rfl
    | with_reducible apply AfterRoute.ite
    | split
    | (with_reducible intro _)
    | with_reducible apply AfterOut.ofNext
    | with_reducible apply AfterOpt.ofSome
    | with_reducible exact AfterOpt.ofNone
    | (with_reducible refine After.ofPair (by assumption) ?_)
    | (with_reducible refine After.ofTriple (by assumption) ?_)
    | (with_reducible refine After.ofOpt (by assumption) ?_)
    | with_reducible apply AfterSome.ofSome
    | with_reducible apply AfterRoute.ofSome
    | with_reducible exact AfterRoute.ofNone
    | with_reducible exact AfterSome.ofNone
    | with_reducible apply AfterEx.ofOk
    | with_reducible exact AfterEx.ofError
    | (with_reducible refine After.ofSealed (by assumption) ?_)
    | (with_reducible refine After.ofOkPair (by assumption) ?_)
    | (with_reducible refine After.ofOk (by assumption) ?_)
    | with_reducible apply After.fold

theorem execMirrorCopyAccept_after {b T} (x0) (ht : Within 0x7036db1908fec1 T) (h1 : After T b x0) :
    AfterOut T b ((@execMirrorCopyAccept x0)) := by
  unfold execMirrorCopyAccept
  try dsimp only
  repeat' first
    | with_reducible assumption
    | with_reducible apply onData_after
    | with_reducible apply State.acceptMirror_after
    | with_reducible exact Within.mono ht rfl
    | with_reducible apply AfterRoute.ite
    | split
    | (with_reducible intro _)

theorem execStateCopyReceived_after {b T} (x0) (x1) (x2) (x3) (ht : Within 0x7035c3192076c1 T) (h4 : After T b x3) :
    AfterOut T b ((@execStateCopyReceived x0 x1 x2 x3)) := by
  unfold execStateCopyReceived
  try dsimp only
  repeat' first
    | with_reducible assumption
    | with_reducible apply onSoc_after
    | with_reducible apply State.receive_after
    | with_reducible apply State.count_after
    | with_reducible apply State.onRx_after
    | with_reducible apply State.showPairing_after
    | with_reducible apply State.healthArrived_after
    | with_reducible apply State.onLink_after
    | with_reducible exact Within.mono ht rfl
    | exact RegIn.block ht (by decide) rfl
    | with_reducible apply AfterRoute.ite
    | split
    | (with_reducible intro _)

theorem State.applyRecord_after {b T} (x0) (x1) (x2) (ht : Within 0x40045111083e01 T) (h1 : After T b x0) :
    After T b (@State.applyRecord x0 x1 x2) := by
  unfold State.applyRecord
  try dsimp only
  repeat' first
    | with_reducible assumption
    | with_reducible apply State.onStore_after
    | with_reducible apply State.showDirty_after
    | with_reducible apply State.onNamespace_after
    | with_reducible apply State.touchPage_after
    | with_reducible apply State.setRebuildBit_after
    | with_reducible apply State.clearRebuildBits_after
    | with_reducible apply State.onLink_after
    | with_reducible apply State.onHost_after
    | with_reducible apply State.each_after
    | with_reducible apply State.namespaceChanged_after
    | with_reducible apply State.setReg_after
    | with_reducible apply State.onAdmin_after
    | with_reducible exact Within.mono ht rfl
    | exact RegIn.block ht (by decide) rfl
    | with_reducible apply AfterRoute.ite
    | split
    | (with_reducible intro _)
    | with_reducible apply AfterOut.ofNext
    | with_reducible apply AfterOpt.ofSome
    | with_reducible exact AfterOpt.ofNone
    | (with_reducible refine After.ofPair (by assumption) ?_)
    | (with_reducible refine After.ofTriple (by assumption) ?_)
    | (with_reducible refine After.ofOpt (by assumption) ?_)
    | with_reducible apply AfterSome.ofSome
    | with_reducible apply AfterRoute.ofSome
    | with_reducible exact AfterRoute.ofNone
    | with_reducible exact AfterSome.ofNone
    | with_reducible apply AfterEx.ofOk
    | with_reducible exact AfterEx.ofError
    | (with_reducible refine After.ofSealed (by assumption) ?_)
    | (with_reducible refine After.ofOkPair (by assumption) ?_)
    | (with_reducible refine After.ofOk (by assumption) ?_)
    | with_reducible apply After.fold

theorem State.clearForBaseline_after {b T} (x0) (x1) (ht : Within 0x1400 T) (h1 : After T b x0) :
    After T b (@State.clearForBaseline x0 x1) := by
  unfold State.clearForBaseline
  try dsimp only
  repeat' first
    | with_reducible assumption
    | with_reducible apply State.onLink_after
    | with_reducible apply State.onStore_after
    | with_reducible exact Within.mono ht rfl
    | exact RegIn.block ht (by decide) rfl
    | with_reducible apply AfterRoute.ite
    | split
    | (with_reducible intro _)
    | with_reducible apply AfterOut.ofNext
    | with_reducible apply AfterOpt.ofSome
    | with_reducible exact AfterOpt.ofNone
    | (with_reducible refine After.ofPair (by assumption) ?_)
    | (with_reducible refine After.ofTriple (by assumption) ?_)
    | (with_reducible refine After.ofOpt (by assumption) ?_)
    | with_reducible apply AfterSome.ofSome
    | with_reducible apply AfterRoute.ofSome
    | with_reducible exact AfterRoute.ofNone
    | with_reducible exact AfterSome.ofNone
    | with_reducible apply AfterEx.ofOk
    | with_reducible exact AfterEx.ofError
    | (with_reducible refine After.ofSealed (by assumption) ?_)
    | (with_reducible refine After.ofOkPair (by assumption) ?_)
    | (with_reducible refine After.ofOk (by assumption) ?_)
    | with_reducible apply After.fold

theorem State.noteBaseline_after {b T} (x0) (x1) (ht : Within 0x1200 T) (h1 : After T b x0) :
    After T b (@State.noteBaseline x0 x1) := by
  unfold State.noteBaseline
  try dsimp only
  repeat' first
    | with_reducible assumption
    | with_reducible apply State.onLink_after
    | with_reducible apply State.onHost_after
    | with_reducible exact Within.mono ht rfl
    | exact RegIn.block ht (by decide) rfl
    | with_reducible apply AfterRoute.ite
    | split
    | (with_reducible intro _)
    | with_reducible apply AfterOut.ofNext
    | with_reducible apply AfterOpt.ofSome
    | with_reducible exact AfterOpt.ofNone
    | (with_reducible refine After.ofPair (by assumption) ?_)
    | (with_reducible refine After.ofTriple (by assumption) ?_)
    | (with_reducible refine After.ofOpt (by assumption) ?_)
    | with_reducible apply AfterSome.ofSome
    | with_reducible apply AfterRoute.ofSome
    | with_reducible exact AfterRoute.ofNone
    | with_reducible exact AfterSome.ofNone
    | with_reducible apply AfterEx.ofOk
    | with_reducible exact AfterEx.ofError
    | (with_reducible refine After.ofSealed (by assumption) ?_)
    | (with_reducible refine After.ofOkPair (by assumption) ?_)
    | (with_reducible refine After.ofOk (by assumption) ?_)
    | with_reducible apply After.fold

theorem State.commitMeasure_after {b T} (x0) (x1) (x2) (ht : Within 0x5014d319087e01 T) (h1 : After T b x0) :
    After T b (@State.commitMeasure x0 x1 x2) := by
  unfold State.commitMeasure
  try dsimp only
  repeat' first
    | with_reducible assumption
    | with_reducible apply State.onStore_after
    | with_reducible apply State.clearForBaseline_after
    | with_reducible apply State.each_after
    | with_reducible apply State.applyRecord_after
    | with_reducible apply State.noteBaseline_after
    | with_reducible apply State.onLink_after
    | with_reducible apply State.showDirty_after
    | with_reducible apply State.sendFrame_after
    | with_reducible apply State.setReg_after
    | with_reducible exact Within.mono ht rfl
    | exact RegIn.block ht (by decide) rfl
    | with_reducible apply AfterRoute.ite
    | split
    | (with_reducible intro _)
    | with_reducible apply AfterOut.ofNext
    | with_reducible apply AfterOpt.ofSome
    | with_reducible exact AfterOpt.ofNone
    | (with_reducible refine After.ofPair (by assumption) ?_)
    | (with_reducible refine After.ofTriple (by assumption) ?_)
    | (with_reducible refine After.ofOpt (by assumption) ?_)
    | with_reducible apply AfterSome.ofSome
    | with_reducible apply AfterRoute.ofSome
    | with_reducible exact AfterRoute.ofNone
    | with_reducible exact AfterSome.ofNone
    | with_reducible apply AfterEx.ofOk
    | with_reducible exact AfterEx.ofError
    | (with_reducible refine After.ofSealed (by assumption) ?_)
    | (with_reducible refine After.ofOkPair (by assumption) ?_)
    | (with_reducible refine After.ofOk (by assumption) ?_)
    | with_reducible apply After.fold

theorem execCommitMarkerReceived_after {b T} (x0) (x1) (x2) (ht : Within 0x7034d319087ec1 T) (h3 : After T b x2) :
    AfterOut T b (@execCommitMarkerReceived x0 x1 x2) := by
  unfold execCommitMarkerReceived
  try dsimp only
  repeat' first
    | with_reducible assumption
    | with_reducible apply onSoc_after
    | with_reducible apply State.receive_after
    | with_reducible apply State.sendFrame_after
    | with_reducible apply State.onLink_after
    | with_reducible apply State.commitMeasure_after
    | with_reducible apply State.discardUncommitted_after
    | with_reducible exact Within.mono ht rfl
    | exact RegIn.block ht (by decide) rfl
    | with_reducible apply AfterRoute.ite
    | split
    | (with_reducible intro _)
    | with_reducible apply AfterOut.ofNext
    | with_reducible apply AfterOpt.ofSome
    | with_reducible exact AfterOpt.ofNone
    | (with_reducible refine After.ofPair (by assumption) ?_)
    | (with_reducible refine After.ofTriple (by assumption) ?_)
    | (with_reducible refine After.ofOpt (by assumption) ?_)
    | with_reducible apply AfterSome.ofSome
    | with_reducible apply AfterRoute.ofSome
    | with_reducible exact AfterRoute.ofNone
    | with_reducible exact AfterSome.ofNone
    | with_reducible apply AfterEx.ofOk
    | with_reducible exact AfterEx.ofError
    | (with_reducible refine After.ofSealed (by assumption) ?_)
    | (with_reducible refine After.ofOkPair (by assumption) ?_)
    | (with_reducible refine After.ofOk (by assumption) ?_)
    | with_reducible apply After.fold

theorem State.measureAcked_after {b T} (x0) (x1) (ht : Within 0x6034c219009ec0 T) (h1 : After T b x0) :
    After T b (@State.measureAcked x0 x1) := by
  unfold State.measureAcked
  try dsimp only
  repeat' first
    | with_reducible assumption
    | with_reducible apply State.setReg_after
    | with_reducible apply State.onLink_after
    | with_reducible apply State.onStore_after
    | with_reducible apply State.applyReservationsUpTo_after
    | with_reducible apply State.emit_after
    | with_reducible apply State.destroyOldKeks_after
    | with_reducible apply State.freeCopies_after
    | with_reducible apply State.showRetained_after
    | with_reducible exact Within.mono ht rfl
    | exact RegIn.block ht (by decide) rfl
    | with_reducible apply AfterRoute.ite
    | split
    | (with_reducible intro _)
    | with_reducible apply AfterOut.ofNext
    | with_reducible apply AfterOpt.ofSome
    | with_reducible exact AfterOpt.ofNone
    | (with_reducible refine After.ofPair (by assumption) ?_)
    | (with_reducible refine After.ofTriple (by assumption) ?_)
    | (with_reducible refine After.ofOpt (by assumption) ?_)
    | with_reducible apply AfterSome.ofSome
    | with_reducible apply AfterRoute.ofSome
    | with_reducible exact AfterRoute.ofNone
    | with_reducible exact AfterSome.ofNone
    | with_reducible apply AfterEx.ofOk
    | with_reducible exact AfterEx.ofError
    | (with_reducible refine After.ofSealed (by assumption) ?_)
    | (with_reducible refine After.ofOkPair (by assumption) ?_)
    | (with_reducible refine After.ofOk (by assumption) ?_)
    | with_reducible apply After.fold

theorem execCommitReceived_after {b T} (x0) (x1) (ht : Within 0x7036db1908fec1 T) (h2 : After T b x1) :
    AfterOut T b ((@execCommitReceived x0 x1)) := by
  unfold execCommitReceived
  try dsimp only
  repeat' first
    | with_reducible assumption
    | with_reducible apply onData_after
    | with_reducible apply State.receive_after
    | with_reducible apply State.measureAcked_after
    | with_reducible exact Within.mono ht rfl
    | with_reducible apply AfterRoute.ite
    | split
    | (with_reducible intro _)

theorem execResendRequestReceived_after {b T} (x0) (x1) (ht : Within 0x7034c2190054c0 T) (h2 : After T b x1) :
    AfterOut T b ((@execResendRequestReceived x0 x1)) := by
  unfold execResendRequestReceived
  try dsimp only
  repeat' first
    | with_reducible assumption
    | with_reducible apply onSoc_after
    | with_reducible apply State.receive_after
    | with_reducible apply State.count_after
    | with_reducible apply State.resendMeasures_after
    | with_reducible exact Within.mono ht rfl
    | exact RegIn.block ht (by decide) rfl
    | with_reducible apply AfterRoute.ite
    | split
    | (with_reducible intro _)

theorem execResumeReceived_after {b T} (x0) (x1) (x2) (ht : Within 0x7034c2190054c0 T) (h3 : After T b x2) :
    AfterOut T b ((@execResumeReceived x0 x1 x2)) := by
  unfold execResumeReceived
  try dsimp only
  repeat' first
    | with_reducible assumption
    | with_reducible apply onSoc_after
    | with_reducible apply State.receive_after
    | with_reducible apply State.showPairing_after
    | with_reducible apply State.onLink_after
    | with_reducible exact Within.mono ht rfl
    | with_reducible apply AfterRoute.ite
    | split
    | (with_reducible intro _)

theorem execFollowLost_after {b T} (x0) (ht : Within 0x6036db1908bec1 T) (h1 : After T b x0) :
    AfterOut T b ((@execFollowLost x0)) := by
  unfold execFollowLost
  try dsimp only
  repeat' first
    | with_reducible assumption
    | with_reducible apply onData_after
    | with_reducible apply State.onLink_after
    | with_reducible apply State.loseFollow_after
    | with_reducible exact Within.mono ht rfl
    | with_reducible apply AfterRoute.ite
    | split
    | (with_reducible intro _)

theorem execLeadSilenceTimeout_after {b T} (x0) (ht : Within 0x4000001400 T) (h1 : After T b x0) :
    AfterOut T b (@execLeadSilenceTimeout x0) := by
  unfold execLeadSilenceTimeout
  try dsimp only
  repeat' first
    | with_reducible assumption
    | with_reducible apply onSoc_after
    | with_reducible apply State.stopFollowing_after
    | with_reducible exact Within.mono ht rfl
    | exact RegIn.block ht (by decide) rfl
    | with_reducible apply AfterRoute.ite
    | split
    | (with_reducible intro _)
    | with_reducible apply AfterOut.ofNext
    | with_reducible apply AfterOpt.ofSome
    | with_reducible exact AfterOpt.ofNone
    | (with_reducible refine After.ofPair (by assumption) ?_)
    | (with_reducible refine After.ofTriple (by assumption) ?_)
    | (with_reducible refine After.ofOpt (by assumption) ?_)
    | with_reducible apply AfterSome.ofSome
    | with_reducible apply AfterRoute.ofSome
    | with_reducible exact AfterRoute.ofNone
    | with_reducible exact AfterSome.ofNone
    | with_reducible apply AfterEx.ofOk
    | with_reducible exact AfterEx.ofError
    | (with_reducible refine After.ofSealed (by assumption) ?_)
    | (with_reducible refine After.ofOkPair (by assumption) ?_)
    | (with_reducible refine After.ofOk (by assumption) ?_)
    | with_reducible apply After.fold

theorem State.pairAtBoundary_after {b T} (x0) (x1) (ht : Within 0x7034c21900dec0 T) (h1 : After T b x0) :
    After T b (@State.pairAtBoundary x0 x1) := by
  unfold State.pairAtBoundary
  try dsimp only
  repeat' first
    | with_reducible assumption
    | with_reducible apply State.showPairing_after
    | with_reducible apply State.linkGoesDown_after
    | with_reducible apply State.onLink_after
    | with_reducible apply State.wr_after
    | with_reducible apply State.leavePaired_after
    | with_reducible exact Within.mono ht rfl
    | exact RegIn.block ht (by decide) rfl
    | with_reducible apply AfterRoute.ite
    | split
    | (with_reducible intro _)
    | with_reducible apply AfterOut.ofNext
    | with_reducible apply AfterOpt.ofSome
    | with_reducible exact AfterOpt.ofNone
    | (with_reducible refine After.ofPair (by assumption) ?_)
    | (with_reducible refine After.ofTriple (by assumption) ?_)
    | (with_reducible refine After.ofOpt (by assumption) ?_)
    | with_reducible apply AfterSome.ofSome
    | with_reducible apply AfterRoute.ofSome
    | with_reducible exact AfterRoute.ofNone
    | with_reducible exact AfterSome.ofNone
    | with_reducible apply AfterEx.ofOk
    | with_reducible exact AfterEx.ofError
    | (with_reducible refine After.ofSealed (by assumption) ?_)
    | (with_reducible refine After.ofOkPair (by assumption) ?_)
    | (with_reducible refine After.ofOk (by assumption) ?_)
    | with_reducible apply After.fold

theorem State.joinAtBoundary_after {b T} (x0) (ht : Within 0x8000201000 T) (h1 : After T b x0) :
    After T b (@State.joinAtBoundary x0) := by
  unfold State.joinAtBoundary
  try dsimp only
  repeat' first
    | with_reducible assumption
    | with_reducible apply State.wr_after
    | with_reducible apply State.onLink_after
    | with_reducible apply State.each_after
    | with_reducible apply State.onGroup_after
    | with_reducible exact Within.mono ht rfl
    | exact RegIn.block ht (by decide) rfl
    | with_reducible apply AfterRoute.ite
    | split
    | (with_reducible intro _)

end Sys2Proof.Machine
end

