-- ==== Sys2Proof/Laws/After/Members.lean ====
section
/-! SUPPORT. What the operations of Members keep (Laws/After.lean). -/

set_option Elab.async false
set_option linter.all false

namespace Sys2Proof.Machine

theorem State.noteJournal_after {b T} (x0) (x1) (ht : Within 0x603400110084c0 T) (h1 : After T b x0) :
    After T b (@State.noteJournal x0 x1) := by
  unfold State.noteJournal
  try dsimp only
  repeat' first
    | with_reducible assumption
    | with_reducible apply State.each_after
    | with_reducible apply State.tagMismatch_after
    | with_reducible apply State.raiseHighWater_after
    | with_reducible apply State.onStore_after
    | with_reducible exact Within.mono ht rfl
    | exact RegIn.block ht (by decide) rfl
    | with_reducible apply AfterRoute.ite
    | split
    | (with_reducible intro _)
    | with_reducible apply AfterOut.ofNext
    | with_reducible apply AfterOpt.ofSome
    | with_reducible exact AfterOpt.ofNone
    | (with_reducible refine After.ofPair (by assumption) ?_)
    | (with_reducible refine After.ofTriple (by assumption) ?_)
    | (with_reducible refine After.ofOpt (by assumption) ?_)
    | with_reducible apply AfterSome.ofSome
    | with_reducible apply AfterRoute.ofSome
    | with_reducible exact AfterRoute.ofNone
    | with_reducible exact AfterSome.ofNone
    | with_reducible apply AfterEx.ofOk
    | with_reducible exact AfterEx.ofError
    | (with_reducible refine After.ofSealed (by assumption) ?_)
    | (with_reducible refine After.ofOkPair (by assumption) ?_)
    | (with_reducible refine After.ofOk (by assumption) ?_)
    | with_reducible apply After.fold

theorem State.writeJournalBlock_after {b T} (x0) (x1) (x2) (x3) (ht : Within 0x40120810008400 T) (h1 : After T b x0) :
    After T b (@State.writeJournalBlock x0 x1 x2 x3) := by
  unfold State.writeJournalBlock
  try dsimp only
  repeat' first
    | with_reducible assumption
    | with_reducible apply State.sealRecord_after
    | with_reducible apply State.refuseCounter_after
    | with_reducible apply State.onStore_after
    | with_reducible apply State.count_after
    | with_reducible apply State.each_after
    | with_reducible apply State.sendMemberAt_after
    | with_reducible exact Within.mono ht rfl
    | exact RegIn.block ht (by decide) rfl
    | with_reducible apply AfterRoute.ite
    | split
    | (with_reducible intro _)
    | with_reducible apply AfterOut.ofNext
    | with_reducible apply AfterOpt.ofSome
    | with_reducible exact AfterOpt.ofNone
    | (with_reducible refine After.ofPair (by assumption) ?_)
    | (with_reducible refine After.ofTriple (by assumption) ?_)
    | (with_reducible refine After.ofOpt (by assumption) ?_)
    | with_reducible apply AfterSome.ofSome
    | with_reducible apply AfterRoute.ofSome
    | with_reducible exact AfterRoute.ofNone
    | with_reducible exact AfterSome.ofNone
    | with_reducible apply AfterEx.ofOk
    | with_reducible exact AfterEx.ofError
    | (with_reducible refine After.ofSealed (by assumption) ?_)
    | (with_reducible refine After.ofOkPair (by assumption) ?_)
    | (with_reducible refine After.ofOk (by assumption) ?_)
    | with_reducible apply After.fold

theorem State.writeJournalBlocks_after {b T} (x0) (x1) (x2) (x3) (x4) (ht : Within 0x40120810008400 T) (h1 : After T b x0) :
    After T b (@State.writeJournalBlocks x0 x1 x2 x3 x4) := by
  induction x3 generalizing x0 x1 x2 x4 with
  | zero =>
    unfold State.writeJournalBlocks
    try dsimp only
    repeat' first
      | with_reducible assumption
      | with_reducible apply State.writeJournalBlock_after
      | with_reducible exact Within.mono ht rfl
      | exact RegIn.block ht (by decide) rfl
      | exact RegIn.word (by omega) ht (by omega) rfl
      | with_reducible apply AfterRoute.ite
      | split
      | (with_reducible intro _)
      | with_reducible apply AfterOut.ofNext
      | with_reducible apply AfterOpt.ofSome
      | with_reducible exact AfterOpt.ofNone
      | (with_reducible refine After.ofPair (by assumption) ?_)
      | (with_reducible refine After.ofTriple (by assumption) ?_)
      | (with_reducible refine After.ofOpt (by assumption) ?_)
      | with_reducible apply AfterSome.ofSome
      | with_reducible apply AfterRoute.ofSome
      | with_reducible exact AfterRoute.ofNone
      | with_reducible exact AfterSome.ofNone
      | with_reducible apply AfterEx.ofOk
      | with_reducible exact AfterEx.ofError
      | (with_reducible refine After.ofSealed (by assumption) ?_)
      | (with_reducible refine After.ofOkPair (by assumption) ?_)
      | (with_reducible refine After.ofOk (by assumption) ?_)
      | with_reducible apply After.fold
  | succ n ih =>
    unfold State.writeJournalBlocks
    try dsimp only
    repeat' first
      | with_reducible assumption
      | with_reducible apply ih
      | with_reducible apply State.writeJournalBlock_after
      | with_reducible exact Within.mono ht rfl
      | exact RegIn.block ht (by decide) rfl
      | exact RegIn.word (by omega) ht (by omega) rfl
      | with_reducible apply AfterRoute.ite
      | split
      | (with_reducible intro _)
      | with_reducible apply AfterOut.ofNext
      | with_reducible apply AfterOpt.ofSome
      | with_reducible exact AfterOpt.ofNone
      | (with_reducible refine After.ofPair (by assumption) ?_)
      | (with_reducible refine After.ofTriple (by assumption) ?_)
      | (with_reducible refine After.ofOpt (by assumption) ?_)
      | with_reducible apply AfterSome.ofSome
      | with_reducible apply AfterRoute.ofSome
      | with_reducible exact AfterRoute.ofNone
      | with_reducible exact AfterSome.ofNone
      | with_reducible apply AfterEx.ofOk
      | with_reducible exact AfterEx.ofError
      | (with_reducible refine After.ofSealed (by assumption) ?_)
      | (with_reducible refine After.ofOkPair (by assumption) ?_)
      | (with_reducible refine After.ofOk (by assumption) ?_)
      | with_reducible apply After.fold

theorem State.journalBlockWrite_after {b T} (x0) (x1) (ht : Within 0x40120810008400 T) (h1 : After T b x0) :
    After T b (@State.journalBlockWrite x0 x1) := by
  unfold State.journalBlockWrite
  try dsimp only
  repeat' first
    | with_reducible assumption
    | with_reducible apply State.onStore_after
    | with_reducible apply State.writeJournalBlock_after
    | with_reducible exact Within.mono ht rfl
    | exact RegIn.block ht (by decide) rfl
    | with_reducible apply AfterRoute.ite
    | split
    | (with_reducible intro _)
    | with_reducible apply AfterOut.ofNext
    | with_reducible apply AfterOpt.ofSome
    | with_reducible exact AfterOpt.ofNone
    | (with_reducible refine After.ofPair (by assumption) ?_)
    | (with_reducible refine After.ofTriple (by assumption) ?_)
    | (with_reducible refine After.ofOpt (by assumption) ?_)
    | with_reducible apply AfterSome.ofSome
    | with_reducible apply AfterRoute.ofSome
    | with_reducible exact AfterRoute.ofNone
    | with_reducible exact AfterSome.ofNone
    | with_reducible apply AfterEx.ofOk
    | with_reducible exact AfterEx.ofError
    | (with_reducible refine After.ofSealed (by assumption) ?_)
    | (with_reducible refine After.ofOkPair (by assumption) ?_)
    | (with_reducible refine After.ofOk (by assumption) ?_)
    | with_reducible apply After.fold

theorem State.journalBlockDone_after {b T} (x0) (x1) (x2) (ht : Within 0x40020810000400 T) (h1 : After T b x0) :
    After T b (@State.journalBlockDone x0 x1 x2) := by
  unfold State.journalBlockDone
  try dsimp only
  repeat' first
    | with_reducible assumption
    | with_reducible apply State.onStore_after
    | with_reducible apply State.dropRetired_after
    | with_reducible apply State.each_after
    | with_reducible apply State.postReady_after
    | with_reducible exact Within.mono ht rfl
    | with_reducible apply AfterRoute.ite
    | split
    | (with_reducible intro _)

theorem State.rehomeDone_after {b T} (x0) (x1) (x2) (ht : Within 0x2 T) (h1 : After T b x0) :
    After T b (@State.rehomeDone x0 x1 x2) := by
  unfold State.rehomeDone
  try dsimp only
  repeat' first
    | with_reducible assumption
    | with_reducible apply State.queueRwm_after
    | with_reducible exact Within.mono ht rfl
    | exact RegIn.block ht (by decide) rfl
    | with_reducible apply AfterRoute.ite
    | split
    | (with_reducible intro _)
    | with_reducible apply AfterOut.ofNext
    | with_reducible apply AfterOpt.ofSome
    | with_reducible exact AfterOpt.ofNone
    | (with_reducible refine After.ofPair (by assumption) ?_)
    | (with_reducible refine After.ofTriple (by assumption) ?_)
    | (with_reducible refine After.ofOpt (by assumption) ?_)
    | with_reducible apply AfterSome.ofSome
    | with_reducible apply AfterRoute.ofSome
    | with_reducible exact AfterRoute.ofNone
    | with_reducible exact AfterSome.ofNone
    | with_reducible apply AfterEx.ofOk
    | with_reducible exact AfterEx.ofError
    | (with_reducible refine After.ofSealed (by assumption) ?_)
    | (with_reducible refine After.ofOkPair (by assumption) ?_)
    | (with_reducible refine After.ofOk (by assumption) ?_)
    | with_reducible apply After.fold

theorem State.endRehome_after {b T} (x0) (ht : Within 0x400 T) (h1 : After T b x0) :
    After T b (@State.endRehome x0) := by
  unfold State.endRehome
  try dsimp only
  repeat' first
    | with_reducible assumption
    | with_reducible apply State.onStore_after
    | with_reducible exact Within.mono ht rfl
    | exact RegIn.block ht (by decide) rfl
    | with_reducible apply AfterRoute.ite
    | split
    | (with_reducible intro _)
    | with_reducible apply AfterOut.ofNext
    | with_reducible apply AfterOpt.ofSome
    | with_reducible exact AfterOpt.ofNone
    | (with_reducible refine After.ofPair (by assumption) ?_)
    | (with_reducible refine After.ofTriple (by assumption) ?_)
    | (with_reducible refine After.ofOpt (by assumption) ?_)
    | with_reducible apply AfterSome.ofSome
    | with_reducible apply AfterRoute.ofSome
    | with_reducible exact AfterRoute.ofNone
    | with_reducible exact AfterSome.ofNone
    | with_reducible apply AfterEx.ofOk
    | with_reducible exact AfterEx.ofError
    | (with_reducible refine After.ofSealed (by assumption) ?_)
    | (with_reducible refine After.ofOkPair (by assumption) ?_)
    | (with_reducible refine After.ofOk (by assumption) ?_)
    | with_reducible apply After.fold

theorem State.noteLost_after {b T} (x0) (x1) (ht : Within 0x603400110084c0 T) (h1 : After T b x0) :
    After T b (@State.noteLost x0 x1) := by
  unfold State.noteLost
  try dsimp only
  repeat' first
    | with_reducible assumption
    | with_reducible apply State.each_after
    | with_reducible apply State.tagMismatch_after
    | with_reducible apply State.onStore_after
    | with_reducible apply State.raiseHighWater_after
    | with_reducible exact Within.mono ht rfl
    | exact RegIn.block ht (by decide) rfl
    | with_reducible apply AfterRoute.ite
    | split
    | (with_reducible intro _)
    | with_reducible apply AfterOut.ofNext
    | with_reducible apply AfterOpt.ofSome
    | with_reducible exact AfterOpt.ofNone
    | (with_reducible refine After.ofPair (by assumption) ?_)
    | (with_reducible refine After.ofTriple (by assumption) ?_)
    | (with_reducible refine After.ofOpt (by assumption) ?_)
    | with_reducible apply AfterSome.ofSome
    | with_reducible apply AfterRoute.ofSome
    | with_reducible exact AfterRoute.ofNone
    | with_reducible exact AfterSome.ofNone
    | with_reducible apply AfterEx.ofOk
    | with_reducible exact AfterEx.ofError
    | (with_reducible refine After.ofSealed (by assumption) ?_)
    | (with_reducible refine After.ofOkPair (by assumption) ?_)
    | (with_reducible refine After.ofOk (by assumption) ?_)
    | with_reducible apply After.fold

theorem State.restoreLost_after {b T} (x0) (x1) (x2) (ht : Within 0x603410110084c0 T) (h1 : After T b x0) :
    After T b (@State.restoreLost x0 x1 x2) := by
  unfold State.restoreLost
  try dsimp only
  repeat' first
    | with_reducible assumption
    | with_reducible apply State.noteLost_after
    | with_reducible apply State.wr_after
    | with_reducible apply State.onStore_after
    | with_reducible exact Within.mono ht rfl
    | exact RegIn.block ht (by decide) rfl
    | with_reducible apply AfterRoute.ite
    | split
    | (with_reducible intro _)
    | with_reducible apply AfterOut.ofNext
    | with_reducible apply AfterOpt.ofSome
    | with_reducible exact AfterOpt.ofNone
    | (with_reducible refine After.ofPair (by assumption) ?_)
    | (with_reducible refine After.ofTriple (by assumption) ?_)
    | (with_reducible refine After.ofOpt (by assumption) ?_)
    | with_reducible apply AfterSome.ofSome
    | with_reducible apply AfterRoute.ofSome
    | with_reducible exact AfterRoute.ofNone
    | with_reducible exact AfterSome.ofNone
    | with_reducible apply AfterEx.ofOk
    | with_reducible exact AfterEx.ofError
    | (with_reducible refine After.ofSealed (by assumption) ?_)
    | (with_reducible refine After.ofOkPair (by assumption) ?_)
    | (with_reducible refine After.ofOk (by assumption) ?_)
    | with_reducible apply After.fold

theorem State.entriesDurable_after {b T} (x0) (x1) (ht : Within 0x400 T) (h1 : After T b x0) :
    After T b (@State.entriesDurable x0 x1) := by
  unfold State.entriesDurable
  try dsimp only
  repeat' first
    | with_reducible assumption
    | with_reducible apply State.onStore_after

theorem State.lostBlockDone_after {b T} (x0) (x1) (x2) (ht : Within 0x400 T) (h1 : After T b x0) :
    After T b (@State.lostBlockDone x0 x1 x2) := by
  unfold State.lostBlockDone
  try dsimp only
  repeat' first
    | with_reducible assumption
    | with_reducible apply State.onStore_after
    | with_reducible apply State.entriesDurable_after
    | with_reducible apply State.emit_after
    | with_reducible exact Within.mono ht rfl
    | with_reducible apply AfterRoute.ite
    | split

theorem State.discardMoves_after {b T} (x0) (x1) (ht : Within 0x400 T) (h1 : After T b x0) :
    After T b (@State.discardMoves x0 x1) := by
  unfold State.discardMoves
  try dsimp only
  repeat' first
    | with_reducible assumption
    | with_reducible apply State.onStore_after

theorem State.releaseHeldWrites_after {b T} (x0) (ht : Within 0x40165911003e01 T) (h1 : After T b x0) :
    After T b (@State.releaseHeldWrites x0) := by
  unfold State.releaseHeldWrites
  try dsimp only
  repeat' first
    | with_reducible assumption
    | with_reducible apply State.each_after
    | with_reducible apply State.tryLock_after
    | with_reducible exact Within.mono ht rfl
    | with_reducible apply AfterRoute.ite
    | split
    | (with_reducible intro _)

theorem State.writeReported_after {b T} (x0) (x1) (x2) (ht : Within 0x60365819000cc2 T) (h1 : After T b x0) :
    After T b (@State.writeReported x0 x1 x2) := by
  unfold State.writeReported
  try dsimp only
  repeat' first
    | with_reducible assumption
    | with_reducible apply State.tryRetire_after
    | with_reducible apply State.postReady_after
    | with_reducible apply State.tryEndStep_after
    | with_reducible apply State.onStep_after
    | with_reducible apply State.rehomeDone_after
    | with_reducible apply State.journalBlockDone_after
    | with_reducible apply State.lostBlockDone_after
    | with_reducible apply State.onMove_after
    | with_reducible apply State.copyNext_after
    | with_reducible exact Within.mono ht rfl
    | with_reducible apply AfterRoute.ite
    | split

theorem State.readBad_after {b T} (x0) (x1) (ht : Within 0x40020810000400 T) (h1 : After T b x0) :
    After T b (@State.readBad x0 x1) := by
  unfold State.readBad
  try dsimp only
  repeat' first
    | with_reducible assumption
    | with_reducible apply State.onStore_after
    | with_reducible apply State.startDegraded_after
    | with_reducible apply State.promoteStripe_after
    | with_reducible exact Within.mono ht rfl
    | exact RegIn.block ht (by decide) rfl
    | with_reducible apply AfterRoute.ite
    | split
    | (with_reducible intro _)
    | with_reducible apply AfterOut.ofNext
    | with_reducible apply AfterOpt.ofSome
    | with_reducible exact AfterOpt.ofNone
    | (with_reducible refine After.ofPair (by assumption) ?_)
    | (with_reducible refine After.ofTriple (by assumption) ?_)
    | (with_reducible refine After.ofOpt (by assumption) ?_)
    | with_reducible apply AfterSome.ofSome
    | with_reducible apply AfterRoute.ofSome
    | with_reducible exact AfterRoute.ofNone
    | with_reducible exact AfterSome.ofNone
    | with_reducible apply AfterEx.ofOk
    | with_reducible exact AfterEx.ofError
    | (with_reducible refine After.ofSealed (by assumption) ?_)
    | (with_reducible refine After.ofOkPair (by assumption) ?_)
    | (with_reducible refine After.ofOk (by assumption) ?_)
    | with_reducible apply After.fold

theorem State.dropOp_after {b T} (x0) (x1) (ht : Within 0x400 T) (h1 : After T b x0) :
    After T b (@State.dropOp x0 x1) := by
  unfold State.dropOp
  try dsimp only
  repeat' first
    | with_reducible assumption
    | with_reducible apply State.onStore_after

theorem State.opLost_after {b T} (x0) (x1) (ht : Within 0x60365819000cc2 T) (h1 : After T b x0) :
    After T b (@State.opLost x0 x1) := by
  unfold State.opLost
  try dsimp only
  repeat' first
    | with_reducible assumption
    | with_reducible apply State.dropOp_after
    | with_reducible apply State.readBad_after
    | with_reducible apply State.writeReported_after
    | with_reducible exact Within.mono ht rfl
    | with_reducible apply AfterRoute.ite
    | split

theorem State.opsLost_after {b T} (x0) (x1) (ht : Within 0x60365819000cc2 T) (h1 : After T b x0) :
    After T b (@State.opsLost x0 x1) := by
  unfold State.opsLost
  try dsimp only
  repeat' first
    | with_reducible assumption
    | with_reducible apply State.each_after
    | with_reducible apply State.opLost_after
    | with_reducible exact Within.mono ht rfl
    | with_reducible apply AfterRoute.ite
    | split
    | (with_reducible intro _)

theorem State.showFailed_after {b T} (x0) (x1) (ht : Within 0x1000000000 T) (h1 : After T b x0) :
    After T b (@State.showFailed x0 x1) := by
  unfold State.showFailed
  try dsimp only
  repeat' first
    | with_reducible assumption
    | with_reducible apply State.wr_after
    | with_reducible exact Within.mono ht rfl
    | exact RegIn.block ht (by decide) rfl

theorem State.dropJournalDrive_after {b T} (x0) (x1) (x2) (ht : Within 0x2 T) (h1 : After T b x0) :
    After T b (@State.dropJournalDrive x0 x1 x2) := by
  unfold State.dropJournalDrive
  try dsimp only
  repeat' first
    | with_reducible assumption
    | with_reducible apply State.when_after
    | with_reducible apply State.queueRwm_after
    | with_reducible exact Within.mono ht rfl
    | with_reducible apply AfterRoute.ite
    | split
    | (with_reducible intro _)

theorem State.substitute_after {b T} (x0) (x1) (x2) (ht : Within 0x2 T) (h1 : After T b x0) :
    After T b (@State.substitute x0 x1 x2) := by
  unfold State.substitute
  try dsimp only
  repeat' first
    | with_reducible assumption
    | with_reducible apply State.queueRwm_after
    | with_reducible exact Within.mono ht rfl
    | with_reducible apply AfterRoute.ite
    | split

theorem State.copyBackFails_after {b T} (x0) (x1) (x2) (ht : Within 0x4000000c02 T) (h1 : After T b x0) :
    After T b (@State.copyBackFails x0 x1 x2) := by
  unfold State.copyBackFails
  try dsimp only
  repeat' first
    | with_reducible assumption
    | with_reducible apply State.clearRebuildBits_after
    | with_reducible apply State.queueRwm_after
    | with_reducible apply State.onStore_after
    | with_reducible exact Within.mono ht rfl
    | exact RegIn.block ht (by decide) rfl
    | with_reducible apply AfterRoute.ite
    | split
    | (with_reducible intro _)
    | with_reducible apply AfterOut.ofNext
    | with_reducible apply AfterOpt.ofSome
    | with_reducible exact AfterOpt.ofNone
    | (with_reducible refine After.ofPair (by assumption) ?_)
    | (with_reducible refine After.ofTriple (by assumption) ?_)
    | (with_reducible refine After.ofOpt (by assumption) ?_)
    | with_reducible apply AfterSome.ofSome
    | with_reducible apply AfterRoute.ofSome
    | with_reducible exact AfterRoute.ofNone
    | with_reducible exact AfterSome.ofNone
    | with_reducible apply AfterEx.ofOk
    | with_reducible exact AfterEx.ofError
    | (with_reducible refine After.ofSealed (by assumption) ?_)
    | (with_reducible refine After.ofOkPair (by assumption) ?_)
    | (with_reducible refine After.ofOk (by assumption) ?_)
    | with_reducible apply After.fold

theorem State.failMemberBut_after {b T} (x0) (x1) (x2) (x3) (ht : Within 0x60365919083ec3 T) (h1 : After T b x0) :
    After T b (@State.failMemberBut x0 x1 x2 x3) := by
  unfold State.failMemberBut
  try dsimp only
  repeat' first
    | with_reducible assumption
    | with_reducible apply State.onAdmin_after
    | with_reducible apply State.showFailed_after
    | with_reducible apply State.wr_after
    | with_reducible apply State.opsLost_after
    | with_reducible apply State.dropJournalDrive_after
    | with_reducible apply State.copyBackFails_after
    | with_reducible apply State.substitute_after
    | with_reducible apply State.showRebuild_after
    | with_reducible apply State.releaseHeldWrites_after
    | with_reducible apply State.discardMoves_after
    | with_reducible apply State.each_after
    | with_reducible apply State.closeStripe_after
    | with_reducible exact Within.mono ht rfl
    | exact RegIn.block ht (by decide) rfl
    | with_reducible apply AfterRoute.ite
    | split
    | (with_reducible intro _)
    | with_reducible apply AfterOut.ofNext
    | with_reducible apply AfterOpt.ofSome
    | with_reducible exact AfterOpt.ofNone
    | (with_reducible refine After.ofPair (by assumption) ?_)
    | (with_reducible refine After.ofTriple (by assumption) ?_)
    | (with_reducible refine After.ofOpt (by assumption) ?_)
    | with_reducible apply AfterSome.ofSome
    | with_reducible apply AfterRoute.ofSome
    | with_reducible exact AfterRoute.ofNone
    | with_reducible exact AfterSome.ofNone
    | with_reducible apply AfterEx.ofOk
    | with_reducible exact AfterEx.ofError
    | (with_reducible refine After.ofSealed (by assumption) ?_)
    | (with_reducible refine After.ofOkPair (by assumption) ?_)
    | (with_reducible refine After.ofOk (by assumption) ?_)
    | with_reducible apply After.fold

theorem State.failMember_after {b T} (x0) (x1) (x2) (ht : Within 0x60365919083ec3 T) (h1 : After T b x0) :
    After T b (@State.failMember x0 x1 x2) := by
  unfold State.failMember
  try dsimp only
  repeat' first
    | with_reducible assumption
    | with_reducible apply State.failMemberBut_after
    | with_reducible exact Within.mono ht rfl
    | exact RegIn.block ht (by decide) rfl
    | with_reducible apply AfterRoute.ite
    | split
    | (with_reducible intro _)
    | with_reducible apply AfterOut.ofNext
    | with_reducible apply AfterOpt.ofSome
    | with_reducible exact AfterOpt.ofNone
    | (with_reducible refine After.ofPair (by assumption) ?_)
    | (with_reducible refine After.ofTriple (by assumption) ?_)
    | (with_reducible refine After.ofOpt (by assumption) ?_)
    | with_reducible apply AfterSome.ofSome
    | with_reducible apply AfterRoute.ofSome
    | with_reducible exact AfterRoute.ofNone
    | with_reducible exact AfterSome.ofNone
    | with_reducible apply AfterEx.ofOk
    | with_reducible exact AfterEx.ofError
    | (with_reducible refine After.ofSealed (by assumption) ?_)
    | (with_reducible refine After.ofOkPair (by assumption) ?_)
    | (with_reducible refine After.ofOk (by assumption) ?_)
    | with_reducible apply After.fold

theorem execStripPost_after {b T} (x0) (x1) (x2) (ht : Within 0x6036591908bec1 T) (h3 : After T b x2) :
    AfterOut T b ((@execStripPost x0 x1 x2)) := by
  unfold execStripPost
  try dsimp only
  repeat' first
    | with_reducible assumption
    | with_reducible apply onData_after
    | with_reducible apply State.postReady_after
    | with_reducible exact Within.mono ht rfl
    | with_reducible apply AfterRoute.ite
    | split
    | (with_reducible intro _)

theorem execMemberWriteComplete_after {b T} (x0) (x1) (ht : Within 0x6036591908bec3 T) (h2 : After T b x1) :
    AfterOut T b ((@execMemberWriteComplete x0 x1)) := by
  unfold execMemberWriteComplete
  try dsimp only
  repeat' first
    | with_reducible assumption
    | with_reducible apply onData_after
    | with_reducible apply State.writeReported_after
    | with_reducible apply State.dropOp_after
    | with_reducible exact Within.mono ht rfl
    | with_reducible apply AfterRoute.ite
    | split
    | (with_reducible intro _)

theorem State.readGood_after {b T} (x0) (x1) (x2) (x3) (ht : Within 0x40165911003e01 T) (h1 : After T b x0) :
    After T b (@State.readGood x0 x1 x2 x3) := by
  unfold State.readGood
  try dsimp only
  repeat' first
    | with_reducible assumption
    | with_reducible apply State.onStore_after
    | with_reducible apply State.deliver_after
    | with_reducible apply State.tagsRead_after
    | with_reducible exact Within.mono ht rfl
    | exact RegIn.block ht (by decide) rfl
    | with_reducible apply AfterRoute.ite
    | split
    | (with_reducible intro _)
    | with_reducible apply AfterOut.ofNext
    | with_reducible apply AfterOpt.ofSome
    | with_reducible exact AfterOpt.ofNone
    | (with_reducible refine After.ofPair (by assumption) ?_)
    | (with_reducible refine After.ofTriple (by assumption) ?_)
    | (with_reducible refine After.ofOpt (by assumption) ?_)
    | with_reducible apply AfterSome.ofSome
    | with_reducible apply AfterRoute.ofSome
    | with_reducible exact AfterRoute.ofNone
    | with_reducible exact AfterSome.ofNone
    | with_reducible apply AfterEx.ofOk
    | with_reducible exact AfterEx.ofError
    | (with_reducible refine After.ofSealed (by assumption) ?_)
    | (with_reducible refine After.ofOkPair (by assumption) ?_)
    | (with_reducible refine After.ofOk (by assumption) ?_)
    | with_reducible apply After.fold

theorem blockCheck_in {g r a n T c m} (ht : Within m T) (e : 0x800000000 &&& m = 0x800000000)
    (k : blockCheck g r a n = some c) : RegIn c T := by
  unfold blockCheck at k
  split at k
  · cases k
  split at k
  · cases k
    exact RegIn.block ht (by omega) e
  split at k
  · cases k
    exact RegIn.block ht (by omega) e
  split at k
  · cases k
    exact RegIn.block ht (by omega) e
  · cases k

theorem execMemberReadComplete_after {b T} (x0) (x1) (x2) (x3) (x4) (x5) (ht : Within 0x6036591908bec1 T) (h6 : After T b x5) :
    AfterOut T b (execMemberReadComplete x0 x1 x2 x3 x4 x5) := by
  unfold execMemberReadComplete
  refine onData_after _ _ (ht.mono rfl) h6 fun s h => ?_
  split
  · exact h
  split
  · exact h
  have g := State.moved_after _ 2 ‹MemberOp›.slot false 4096 (ht.mono rfl) (State.dropOp_after s x0 (ht.mono rfl) h)
  extract_lets t
  split
  · rename_i e
    exact State.readBad_after _ _ (ht.mono rfl) (State.count_after _ _ _ (blockCheck_in ht rfl e) g)
  · exact State.readGood_after _ _ _ _ (ht.mono rfl) g

end Sys2Proof.Machine
end

