-- ==== Sys2Proof/Laws/After/Quadrille.lean ====
section
/-! SUPPORT. What the operations of Quadrille keep (Laws/After.lean). -/

set_option Elab.async false
set_option linter.all false

namespace Sys2Proof.Machine

theorem State.figWrite_after {b T} (x0) (x1) (x2) (ht : Within 0x800000400 T) (h1 : After T b x0) :
    After T b (@State.figWrite x0 x1 x2) := by
  unfold State.figWrite
  try dsimp only
  repeat' first
    | with_reducible assumption
    | with_reducible apply State.wr_after
    | with_reducible apply State.onStore_after
    | with_reducible exact Within.mono ht rfl
    | exact RegIn.block ht (by decide) rfl
    | with_reducible apply AfterRoute.ite
    | split

theorem State.figRead_after {b T} (x0) (x1) (x2) (x3) (x4) (x5) (ht : Within 0x800000000 T) (h1 : After T b x0) :
    After T b (@State.figRead x0 x1 x2 x3 x4 x5) := by
  unfold State.figRead
  try dsimp only
  repeat' first
    | with_reducible assumption
    | with_reducible apply State.wr_after
    | with_reducible apply State.setWords_after
    | with_reducible exact Within.mono ht rfl
    | exact RegIn.block ht (by decide) rfl
    | exact RegIn.word (by omega) ht (by omega) rfl
    | with_reducible apply AfterRoute.ite
    | split
    | (with_reducible intro _)

theorem execFigWriteNext_after {b T} (x0) (x1) (x2) (x3) (ht : Within 0x613408110004ca T) (h4 : After T b x3) :
    AfterOut T b ((@execFigWriteNext x0 x1 x2 x3)) := by
  unfold execFigWriteNext
  try dsimp only
  repeat' first
    | with_reducible assumption
    | with_reducible apply onSoc_after
    | with_reducible apply State.commandWrite_after
    | with_reducible apply State.figWrite_after
    | with_reducible exact Within.mono ht rfl
    | exact RegIn.block ht (by decide) rfl
    | exact NotWall (by omega) (by omega)
    | with_reducible apply AfterRoute.ite
    | split
    | (with_reducible intro _)

theorem execFigReadActive_after {b T} (x0) (x1) (x2) (x3) (ht : Within 0x613408110000ca T) (h4 : After T b x3) :
    AfterOut T b ((@execFigReadActive x0 x1 x2 x3)) := by
  unfold execFigReadActive
  try dsimp only
  repeat' first
    | with_reducible assumption
    | with_reducible apply onSoc_after
    | with_reducible apply State.commandWrite_after
    | with_reducible apply State.figRead_after
    | with_reducible exact Within.mono ht rfl
    | exact RegIn.block ht (by decide) rfl
    | exact NotWall (by omega) (by omega)
    | with_reducible apply AfterRoute.ite
    | split
    | (with_reducible intro _)

theorem execFigReadNext_after {b T} (x0) (x1) (x2) (x3) (ht : Within 0x613408110000ca T) (h4 : After T b x3) :
    AfterOut T b ((@execFigReadNext x0 x1 x2 x3)) := by
  unfold execFigReadNext
  try dsimp only
  repeat' first
    | with_reducible assumption
    | with_reducible apply onSoc_after
    | with_reducible apply State.commandWrite_after
    | with_reducible apply State.figRead_after
    | with_reducible exact Within.mono ht rfl
    | exact RegIn.block ht (by decide) rfl
    | exact NotWall (by omega) (by omega)
    | with_reducible apply AfterRoute.ite
    | split
    | (with_reducible intro _)

theorem execStripeClose_after {b T} (x0) (x1) (x2) (ht : Within 0x6036591908bec1 T) (h3 : After T b x2) :
    AfterOut T b ((@execStripeClose x0 x1 x2)) := by
  unfold execStripeClose
  try dsimp only
  repeat' first
    | with_reducible assumption
    | with_reducible apply onData_after
    | with_reducible apply State.closeStripe_after
    | with_reducible exact Within.mono ht rfl
    | with_reducible apply AfterRoute.ite
    | split
    | (with_reducible intro _)

theorem execStripeIdleTimeout_after {b T} (x0) (x1) (x2) (ht : Within 0x400 T) (h3 : After T b x2) :
    AfterOut T b ((@execStripeIdleTimeout x0 x1 x2)) := by
  unfold execStripeIdleTimeout
  try dsimp only
  repeat' first
    | with_reducible assumption
    | with_reducible apply onSoc_after
    | with_reducible apply State.onStripe_after
    | with_reducible exact Within.mono ht rfl
    | with_reducible apply AfterRoute.ite
    | split
    | (with_reducible intro _)

theorem execJournalBlockWrite_after {b T} (x0) (x1) (ht : Within 0x6036591908bec1 T) (h2 : After T b x1) :
    AfterOut T b ((@execJournalBlockWrite x0 x1)) := by
  unfold execJournalBlockWrite
  try dsimp only
  repeat' first
    | with_reducible assumption
    | with_reducible apply onData_after
    | with_reducible apply State.journalBlockWrite_after
    | with_reducible exact Within.mono ht rfl
    | with_reducible apply AfterRoute.ite
    | split
    | (with_reducible intro _)

theorem State.recoverEntry_after {b T} (x0) (x1) (ht : Within 0x40020810000400 T) (h1 : After T b x0) :
    After T b (@State.recoverEntry x0 x1) := by
  unfold State.recoverEntry
  try dsimp only
  repeat' first
    | with_reducible assumption
    | with_reducible apply State.startStep_after
    | with_reducible apply State.each_after
    | with_reducible exact Within.mono ht rfl
    | exact RegIn.block ht (by decide) rfl
    | with_reducible apply AfterRoute.ite
    | split
    | (with_reducible intro _)
    | with_reducible apply AfterOut.ofNext
    | with_reducible apply AfterOpt.ofSome
    | with_reducible exact AfterOpt.ofNone
    | (with_reducible refine After.ofPair (by assumption) ?_)
    | (with_reducible refine After.ofTriple (by assumption) ?_)
    | (with_reducible refine After.ofOpt (by assumption) ?_)
    | with_reducible apply AfterSome.ofSome
    | with_reducible apply AfterRoute.ofSome
    | with_reducible exact AfterRoute.ofNone
    | with_reducible exact AfterSome.ofNone
    | with_reducible apply AfterEx.ofOk
    | with_reducible exact AfterEx.ofError
    | (with_reducible refine After.ofSealed (by assumption) ?_)
    | (with_reducible refine After.ofOkPair (by assumption) ?_)
    | (with_reducible refine After.ofOk (by assumption) ?_)
    | with_reducible apply After.fold

theorem State.finishEntry_after {b T} (x0) (x1) (ht : Within 0x40025810000c00 T) (h1 : After T b x0) :
    After T b (@State.finishEntry x0 x1) := by
  unfold State.finishEntry
  try dsimp only
  repeat' first
    | with_reducible assumption
    | with_reducible apply State.recoverEntry_after
    | with_reducible apply State.onStore_after
    | with_reducible apply State.closeStripe_after
    | with_reducible apply State.each_after
    | with_reducible apply State.accumulate_after
    | with_reducible exact Within.mono ht rfl
    | with_reducible apply AfterRoute.ite
    | split
    | (with_reducible intro _)

end Sys2Proof.Machine
end

