-- ==== Sys2Proof/Laws/After/Protection.lean ====
section
/-! SUPPORT. What the operations of Protection keep (Laws/After.lean). -/

set_option Elab.async false
set_option linter.all false

namespace Sys2Proof.Machine

theorem State.showSetup_after {b T} (x0) (ht : Within 0x400000000000 T) (h1 : After T b x0) :
    After T b (@State.showSetup x0) := by
  unfold State.showSetup
  try dsimp only
  repeat' first
    | with_reducible assumption
    | with_reducible apply State.wrs_after
    | with_reducible apply State.setReg_after
    | with_reducible exact Within.mono ht rfl
    | exact RegIn.block ht (by decide) rfl
    | with_reducible apply FieldsIn.cons
    | with_reducible exact FieldsIn.nil

theorem State.showPermissions_after {b T} (x0) (x1) (ht : Within 0x400000000000 T) (h1 : After T b x0) :
    After T b (@State.showPermissions x0 x1) := by
  unfold State.showPermissions
  try dsimp only
  repeat' first
    | with_reducible assumption
    | with_reducible apply State.setWords_after
    | with_reducible exact Within.mono ht rfl
    | exact RegIn.block ht (by decide) rfl
    | exact RegIn.word (by omega) ht (by omega) rfl
    | with_reducible apply AfterRoute.ite
    | split
    | (with_reducible intro _)

theorem State.loadPen_after {b T} (x0) (x1) (ht : Within 0x40000000000000 T) (h1 : After T b x0) :
    After T b (@State.loadPen x0 x1) := by
  unfold State.loadPen
  try dsimp only
  repeat' first
    | with_reducible assumption
    | with_reducible apply State.wr_after
    | with_reducible exact Within.mono ht rfl
    | exact RegIn.block ht (by decide) rfl

theorem State.showPartitions_after {b T} (x0) (ht : Within 0x4000000000000 T) (h1 : After T b x0) :
    After T b (@State.showPartitions x0) := by
  unfold State.showPartitions
  try dsimp only
  repeat' first
    | with_reducible assumption
    | with_reducible apply State.each_after
    | with_reducible apply State.wrs_after
    | with_reducible exact Within.mono ht rfl
    | exact RegIn.block ht (by omega) (by with_reducible exact blockMask_clu rfl)
    | with_reducible apply FieldsIn.cons
    | with_reducible exact FieldsIn.nil
    | with_reducible apply AfterRoute.ite
    | split
    | (with_reducible intro _)

theorem State.loadSetup_after {b T} (x0) (ht : Within 0x4400000000000 T) (h1 : After T b x0) :
    After T b (@State.loadSetup x0) := by
  unfold State.loadSetup
  try dsimp only
  repeat' first
    | with_reducible assumption
    | with_reducible apply State.each_after
    | with_reducible apply State.showSetup_after
    | with_reducible apply State.showPermissions_after
    | with_reducible apply State.showPartitions_after
    | with_reducible apply State.wr_after
    | with_reducible exact Within.mono ht rfl
    | exact RegIn.block ht (by decide) rfl
    | with_reducible apply AfterRoute.ite
    | split
    | (with_reducible intro _)

end Sys2Proof.Machine
end

