-- ==== Sys2Proof/Laws/After/Reset.lean ====
section
/-! SUPPORT. What the operations of Reset keep (Laws/After.lean). -/

set_option Elab.async false
set_option linter.all false

namespace Sys2Proof.Machine

theorem State.restart_after {b T} (x0) (x1) (ht : Within 0x7fffffffffffff T) (h1 : After T b x0) : After T b (@State.restart x0 x1) := by
  obtain ⟨c, p, l, o⟩ := h1
  exact ⟨fun k => ⟨RegFile.filter_canonical (c k).1, ⟨List.Pairwise.nil, fun _ m => absurd m List.not_mem_nil⟩⟩, p, l,
    fun x e => by rw [ht.bit (by cases x <;> first | rfl | (rename_i x; cases x <;> rfl))] at e; cases e⟩

theorem State.loadStored_after {b T} (x0) (ht : Within 0x24700080000000 T) (h1 : After T b x0) :
    After T b (@State.loadStored x0) := by
  unfold State.loadStored
  try dsimp only
  repeat' first
    | with_reducible assumption
    | with_reducible apply State.setReg_after
    | with_reducible apply State.wrs_after
    | with_reducible apply State.loadSetup_after
    | with_reducible apply State.wr_after
    | with_reducible exact Within.mono ht rfl
    | exact RegIn.block ht (by decide) rfl
    | with_reducible apply FieldsIn.cons
    | with_reducible exact FieldsIn.nil
    | with_reducible apply AfterRoute.ite
    | split

theorem State.restartDirect_after {b T} (x0) (x1) (x2) (ht : Within 0x40001000000 T) (h1 : After T b x0) :
    After T b (@State.restartDirect x0 x1 x2) := by
  unfold State.restartDirect
  try dsimp only
  repeat' first
    | with_reducible assumption
    | with_reducible apply State.onDirect_after
    | with_reducible apply State.wrs_after
    | with_reducible apply State.emit_after
    | with_reducible exact Within.mono ht rfl
    | exact RegIn.block ht (by decide) rfl
    | with_reducible apply FieldsIn.cons
    | with_reducible exact FieldsIn.nil
    | with_reducible apply AfterRoute.ite
    | split

theorem State.showPulls_after {b T} (x0) (ht : Within 0x20000000000 T) (h1 : After T b x0) :
    After T b (@State.showPulls x0) := by
  unfold State.showPulls
  try dsimp only
  repeat' first
    | with_reducible assumption
    | with_reducible apply State.each_after
    | with_reducible apply State.wrs_after
    | with_reducible exact Within.mono ht rfl
    | exact RegIn.block ht (by omega) (by with_reducible exact blockMask_slt rfl)
    | with_reducible apply FieldsIn.cons
    | with_reducible exact FieldsIn.nil
    | with_reducible apply AfterRoute.ite
    | split
    | (with_reducible intro _)

theorem State.moduleReset_after {b T} (x0) (ht : Within 0x7fffffffffffff T) (h1 : After T b x0) : After T b (@State.moduleReset x0) := by
  unfold State.moduleReset
  have h := State.restartDirect_after _ x0.direct true (ht.mono rfl) (State.loadStored_after _ (ht.mono rfl) (State.restart_after x0 keptCell ht h1))
  exact State.showPulls_after _ (ht.mono rfl) (h.same rfl rfl rfl rfl
    fun x e => by rw [ht.bit (by cases x <;> first | rfl | (rename_i x; cases x <;> rfl))] at e; cases e)

theorem State.rearmReset_after {b T} (x0) (ht : Within 0x7fffffffffffff T) (h1 : After T b x0) :
    After T b (@State.rearmReset x0) := by
  unfold State.rearmReset
  try dsimp only
  repeat' first
    | with_reducible assumption
    | with_reducible apply State.wr_after
    | with_reducible apply State.moduleReset_after
    | with_reducible apply State.onWall_after
    | with_reducible exact Within.mono ht rfl
    | exact RegIn.block ht (by decide) rfl
    | exact RegIn.all ht rfl
    | with_reducible apply AfterRoute.ite
    | split

theorem State.coldReset_after {b T} (x0) (ht : Within 0x7fffffffffffff T) (h1 : After T b x0) :
    After T b (@State.coldReset x0) := by
  unfold State.coldReset
  try dsimp only
  repeat' first
    | with_reducible assumption
    | with_reducible apply State.emits_after
    | with_reducible apply State.restartDirect_after
    | with_reducible apply State.loadStored_after
    | with_reducible apply State.restart_after
    | with_reducible apply State.wrs_after
    | with_reducible exact Within.mono ht rfl
    | exact RegIn.block ht (by decide) rfl
    | with_reducible apply FieldsIn.cons
    | with_reducible exact FieldsIn.nil
    | with_reducible apply AfterRoute.ite
    | split
    | (with_reducible intro _)
    | with_reducible apply AfterOut.ofNext
    | with_reducible apply AfterOpt.ofSome
    | with_reducible exact AfterOpt.ofNone
    | (with_reducible refine After.ofPair (by assumption) ?_)
    | (with_reducible refine After.ofTriple (by assumption) ?_)
    | (with_reducible refine After.ofOpt (by assumption) ?_)
    | with_reducible apply AfterSome.ofSome
    | with_reducible apply AfterRoute.ofSome
    | with_reducible exact AfterRoute.ofNone
    | with_reducible exact AfterSome.ofNone
    | with_reducible apply AfterEx.ofOk
    | with_reducible exact AfterEx.ofError
    | (with_reducible refine After.ofSealed (by assumption) ?_)
    | (with_reducible refine After.ofOkPair (by assumption) ?_)
    | (with_reducible refine After.ofOk (by assumption) ?_)
    | with_reducible apply After.fold

end Sys2Proof.Machine
end

