-- ==== Sys2Proof/Laws/After/Entry.lean ====
section
/-! SUPPORT. What the operations of Entry keep (Laws/After.lean). -/

set_option Elab.async false
set_option linter.all false

namespace Sys2Proof.Machine

theorem State.setInput_after {b T} (x0) (x1) (x2) (ht : Within 0x2000000020000 T) (h1 : After T b x0) :
    After T b (@State.setInput x0 x1 x2) := by
  unfold State.setInput
  try dsimp only
  repeat' first
    | with_reducible assumption
    | with_reducible apply State.onWall_after
    | with_reducible apply State.wr_after
    | with_reducible exact Within.mono ht rfl
    | exact RegIn.block ht (by decide) rfl
    | with_reducible apply AfterRoute.ite
    | split

theorem State.setEntry_after {b T} (x0) (x1) (ht : Within 0x2080000020000 T) (h1 : After T b x0) :
    After T b (@State.setEntry x0 x1) := by
  unfold State.setEntry
  try dsimp only
  repeat' first
    | with_reducible assumption
    | with_reducible apply State.setInput_after
    | with_reducible apply State.wr_after
    | with_reducible exact Within.mono ht rfl
    | exact RegIn.block ht (by decide) rfl

theorem State.setPg_after {b T} (x0) (x1) (ht : Within 0x2080000020000 T) (h1 : After T b x0) :
    After T b (@State.setPg x0 x1) := by
  unfold State.setPg
  try dsimp only
  repeat' first
    | with_reducible assumption
    | with_reducible apply State.emit_after
    | with_reducible apply State.setInput_after
    | with_reducible apply State.wr_after
    | with_reducible exact Within.mono ht rfl
    | exact RegIn.block ht (by decide) rfl
    | with_reducible apply AfterRoute.ite
    | split

theorem State.setSeats_after {b T} (x0) (x1) (x2) (ht : Within 0x2080000020000 T) (h1 : After T b x0) :
    After T b (@State.setSeats x0 x1 x2) := by
  unfold State.setSeats
  try dsimp only
  repeat' first
    | with_reducible assumption
    | with_reducible apply State.setInput_after
    | with_reducible apply State.wrs_after
    | with_reducible exact Within.mono ht rfl
    | exact RegIn.block ht (by decide) rfl
    | with_reducible apply FieldsIn.cons
    | with_reducible exact FieldsIn.nil

theorem State.setEnable_after {b T} (x0) (x1) (ht : Within 0x2080000020000 T) (h1 : After T b x0) :
    After T b (@State.setEnable x0 x1) := by
  unfold State.setEnable
  try dsimp only
  repeat' first
    | with_reducible assumption
    | with_reducible apply State.setInput_after
    | with_reducible apply State.wr_after
    | with_reducible exact Within.mono ht rfl
    | exact RegIn.block ht (by decide) rfl

theorem State.setCycleIn_after {b T} (x0) (x1) (ht : Within 0x2080000020000 T) (h1 : After T b x0) :
    After T b (@State.setCycleIn x0 x1) := by
  unfold State.setCycleIn
  try dsimp only
  repeat' first
    | with_reducible assumption
    | with_reducible apply State.setInput_after
    | with_reducible apply State.wr_after
    | with_reducible exact Within.mono ht rfl
    | exact RegIn.block ht (by decide) rfl

theorem State.recordEntry_after {b T} (x0) (x1) (x2) (x3) (ht : Within 0x80000040000 T) (h1 : After T b x0) :
    After T b (@State.recordEntry x0 x1 x2 x3) := by
  unfold State.recordEntry
  try dsimp only
  repeat' first
    | with_reducible assumption
    | with_reducible apply State.wrs_after
    | with_reducible apply State.onEntry_after
    | with_reducible exact Within.mono ht rfl
    | exact RegIn.block ht (by decide) rfl
    | with_reducible apply FieldsIn.cons
    | with_reducible exact FieldsIn.nil

theorem State.stopTimer_after {b T} (x0) (ht : Within 0x80000000000 T) (h1 : After T b x0) :
    After T b (@State.stopTimer x0) := by
  unfold State.stopTimer
  try dsimp only
  repeat' first
    | with_reducible assumption
    | with_reducible apply State.count_after
    | with_reducible apply State.wr_after
    | with_reducible exact Within.mono ht rfl
    | exact RegIn.block ht (by decide) rfl
    | with_reducible apply AfterRoute.ite
    | split

theorem State.startTimer_after {b T} (x0) (ht : Within 0x2080000020000 T) (h1 : After T b x0) :
    After T b (@State.startTimer x0) := by
  unfold State.startTimer
  try dsimp only
  repeat' first
    | with_reducible assumption
    | with_reducible apply State.wr_after
    | with_reducible apply State.count_after
    | with_reducible apply State.setEntry_after
    | with_reducible apply State.setPg_after
    | with_reducible exact Within.mono ht rfl
    | exact RegIn.block ht (by decide) rfl
    | with_reducible apply AfterRoute.ite
    | split

theorem State.goOff_after {b T} (x0) (ht : Within 0x100 T) (h1 : After T b x0) :
    After T b (@State.goOff x0) := by
  unfold State.goOff
  try dsimp only
  repeat' first
    | with_reducible assumption
    | with_reducible apply State.onPower_after

theorem State.latchEntry_after {b T} (x0) (x1) (x2) (x3) (ht : Within 0x2082000060100 T) (h1 : After T b x0) :
    After T b (@State.latchEntry x0 x1 x2 x3) := by
  unfold State.latchEntry
  try dsimp only
  repeat' first
    | with_reducible assumption
    | with_reducible apply State.emit_after
    | with_reducible apply State.setEntry_after
    | with_reducible apply State.recordEntry_after
    | with_reducible apply State.setPg_after
    | with_reducible apply State.wr_after
    | with_reducible apply State.goOff_after
    | with_reducible exact Within.mono ht rfl
    | exact RegIn.block ht (by decide) rfl
    | with_reducible apply AfterRoute.ite
    | split

theorem State.openEntry_after {b T} (x0) (x1) (x2) (x3) (ht : Within 0x2080000060000 T) (h1 : After T b x0) :
    After T b (@State.openEntry x0 x1 x2 x3) := by
  unfold State.openEntry
  try dsimp only
  repeat' first
    | with_reducible assumption
    | with_reducible apply State.emit_after
    | with_reducible apply State.setEntry_after
    | with_reducible apply State.recordEntry_after
    | with_reducible apply State.setPg_after
    | with_reducible apply State.stopTimer_after
    | with_reducible exact Within.mono ht rfl
    | with_reducible apply AfterRoute.ite
    | split

theorem State.mutualCycle_after {b T} (x0) (ht : Within 0x603400110000c0 T) (h1 : After T b x0) :
    After T b (@State.mutualCycle x0) := by
  unfold State.mutualCycle
  try dsimp only
  repeat' first
    | with_reducible assumption
    | with_reducible apply State.fault_after

theorem State.openingEvent_after {b T} (x0) (x1) (x2) (x3) (ht : Within 0x623c00110600c0 T) (h1 : After T b x0) :
    After T b (@State.openingEvent x0 x1 x2 x3) := by
  unfold State.openingEvent
  try dsimp only
  repeat' first
    | with_reducible assumption
    | with_reducible apply State.openEntry_after
    | with_reducible apply State.setSeats_after
    | with_reducible apply State.setEnable_after
    | with_reducible apply State.setCycleIn_after
    | with_reducible apply State.mutualCycle_after
    | with_reducible exact Within.mono ht rfl
    | with_reducible apply AfterRoute.ite
    | split

theorem execSeatChange_after {b T} (x0) (x1) (x2) (ht : Within 0x2080000020000 T) (h3 : After T b x2) :
    AfterOut T b ((@execSeatChange x0 x1 x2)) := by
  unfold execSeatChange
  try dsimp only
  repeat' first
    | with_reducible assumption
    | with_reducible apply onAlways_after
    | with_reducible apply State.setSeats_after
    | with_reducible apply State.setEntry_after
    | with_reducible exact Within.mono ht rfl
    | with_reducible apply AfterRoute.ite
    | split
    | (with_reducible intro _)

theorem execEntryStartConditionChange_after {b T} (x0) (x1) (x2) (ht : Within 0x2080000020000 T) (h3 : After T b x2) :
    AfterOut T b ((@execEntryStartConditionChange x0 x1 x2)) := by
  unfold execEntryStartConditionChange
  try dsimp only
  repeat' first
    | with_reducible assumption
    | with_reducible apply onAlways_after
    | with_reducible apply State.setCycleIn_after
    | with_reducible apply State.setEnable_after
    | with_reducible exact Within.mono ht rfl
    | with_reducible apply AfterRoute.ite
    | split
    | (with_reducible intro _)

theorem execEntryDebounceEnd_after {b T} (x0) (x1) (ht : Within 0x2080000020000 T) (h2 : After T b x1) :
    AfterOut T b ((@execEntryDebounceEnd x0 x1)) := by
  unfold execEntryDebounceEnd
  try dsimp only
  repeat' first
    | with_reducible assumption
    | with_reducible apply onAlways_after
    | with_reducible apply State.emit_after
    | with_reducible apply State.wr_after
    | with_reducible apply State.setEntry_after
    | with_reducible exact Within.mono ht rfl
    | exact RegIn.block ht (by decide) rfl
    | with_reducible apply AfterRoute.ite
    | split
    | (with_reducible intro _)

theorem execRampComplete_after {b T} (x0) (ht : Within 0x2080000020000 T) (h1 : After T b x0) :
    AfterOut T b ((@execRampComplete x0)) := by
  unfold execRampComplete
  try dsimp only
  repeat' first
    | with_reducible assumption
    | with_reducible apply onAlways_after
    | with_reducible apply State.setEntry_after
    | with_reducible exact Within.mono ht rfl
    | with_reducible apply AfterRoute.ite
    | split
    | (with_reducible intro _)

theorem execQualificationComplete_after {b T} (x0) (x1) (ht : Within 0x2080000020000 T) (h2 : After T b x1) :
    AfterOut T b ((@execQualificationComplete x0 x1)) := by
  unfold execQualificationComplete
  try dsimp only
  repeat' first
    | with_reducible assumption
    | with_reducible apply onAlways_after
    | with_reducible apply State.startTimer_after
    | with_reducible apply State.setPg_after
    | with_reducible apply State.setEntry_after
    | with_reducible exact Within.mono ht rfl
    | with_reducible apply AfterRoute.ite
    | split
    | (with_reducible intro _)

theorem execRailSequence_after {b T} (x0) (ht : Within 0x7fffffffffffff T) (h1 : After T b x0) :
    AfterOut T b ((@execRailSequence x0)) := by
  unfold execRailSequence
  try dsimp only
  repeat' first
    | with_reducible assumption
    | with_reducible apply onAlways_after
    | with_reducible apply State.coldReset_after
    | with_reducible exact Within.mono ht rfl
    | with_reducible apply AfterRoute.ite
    | split
    | (with_reducible intro _)

theorem execCurrentLimitEngage_after {b T} (x0) (ht : Within 0x2080000020000 T) (h1 : After T b x0) :
    AfterOut T b ((@execCurrentLimitEngage x0)) := by
  unfold execCurrentLimitEngage
  try dsimp only
  repeat' first
    | with_reducible assumption
    | with_reducible apply onAlways_after
    | with_reducible apply State.startTimer_after
    | with_reducible exact Within.mono ht rfl
    | with_reducible apply AfterRoute.ite
    | split
    | (with_reducible intro _)

theorem execCurrentLimitClear_after {b T} (x0) (ht : Within 0x80000000000 T) (h1 : After T b x0) :
    AfterOut T b ((@execCurrentLimitClear x0)) := by
  unfold execCurrentLimitClear
  try dsimp only
  repeat' first
    | with_reducible assumption
    | with_reducible apply onAlways_after
    | with_reducible apply State.stopTimer_after
    | with_reducible exact Within.mono ht rfl
    | with_reducible apply AfterRoute.ite
    | split
    | (with_reducible intro _)

theorem execFaultTimerExpiry_after {b T} (x0) (x1) (x2) (ht : Within 0x2082000060100 T) (h3 : After T b x2) :
    AfterOut T b ((@execFaultTimerExpiry x0 x1 x2)) := by
  unfold execFaultTimerExpiry
  try dsimp only
  repeat' first
    | with_reducible assumption
    | with_reducible apply onAlways_after
    | with_reducible apply State.latchEntry_after
    | with_reducible exact Within.mono ht rfl
    | with_reducible apply AfterRoute.ite
    | split
    | (with_reducible intro _)

theorem execFastTrip_after {b T} (x0) (x1) (x2) (ht : Within 0x2082000060100 T) (h3 : After T b x2) :
    AfterOut T b ((@execFastTrip x0 x1 x2)) := by
  unfold execFastTrip
  try dsimp only
  repeat' first
    | with_reducible assumption
    | with_reducible apply onAlways_after
    | with_reducible apply State.latchEntry_after
    | with_reducible exact Within.mono ht rfl
    | with_reducible apply AfterRoute.ite
    | split
    | (with_reducible intro _)

theorem execEntryOpening_after {b T} (x0) (x1) (x2) (x3) (ht : Within 0x623c00110600c0 T) (h4 : After T b x3) :
    AfterOut T b ((@execEntryOpening x0 x1 x2 x3)) := by
  unfold execEntryOpening
  try dsimp only
  repeat' first
    | with_reducible assumption
    | with_reducible apply onAlways_after
    | with_reducible apply State.openingEvent_after
    | with_reducible exact Within.mono ht rfl
    | with_reducible apply AfterRoute.ite
    | split
    | (with_reducible intro _)

theorem execEntryLatchClear_after {b T} (x0) (x1) (ht : Within 0x2080000020000 T) (h2 : After T b x1) :
    AfterOut T b ((@execEntryLatchClear x0 x1)) := by
  unfold execEntryLatchClear
  try dsimp only
  repeat' first
    | with_reducible assumption
    | with_reducible apply onAlways_after
    | with_reducible apply State.setEntry_after
    | with_reducible apply State.setEnable_after
    | with_reducible apply State.setCycleIn_after
    | with_reducible apply State.setSeats_after
    | with_reducible exact Within.mono ht rfl
    | with_reducible apply AfterRoute.ite
    | split
    | (with_reducible intro _)

theorem execEntryRestart_after {b T} (x0) (x1) (ht : Within 0x2080000020000 T) (h2 : After T b x1) :
    AfterOut T b ((@execEntryRestart x0 x1)) := by
  unfold execEntryRestart
  try dsimp only
  repeat' first
    | with_reducible assumption
    | with_reducible apply onAlways_after
    | with_reducible apply State.setEntry_after
    | with_reducible exact Within.mono ht rfl
    | with_reducible apply AfterRoute.ite
    | split
    | (with_reducible intro _)

theorem execModuleOff_after {b T} (x0) (ht : Within 0x2000000000100 T) (h1 : After T b x0) :
    AfterOut T b ((@execModuleOff x0)) := by
  unfold execModuleOff
  try dsimp only
  repeat' first
    | with_reducible assumption
    | with_reducible apply onAlways_after
    | with_reducible apply State.wr_after
    | with_reducible apply State.goOff_after
    | with_reducible exact Within.mono ht rfl
    | exact RegIn.block ht (by decide) rfl
    | with_reducible apply AfterRoute.ite
    | split
    | (with_reducible intro _)

theorem execBiasLoss_after {b T} (x0) (ht : Within 0x22080000060040 T) (h1 : After T b x0) : AfterOut T b (execBiasLoss x0) := by
  unfold execBiasLoss
  refine onAlways_after _ _ h1 fun s h => ?_
  dsimp only
  refine State.onFlt_after _ _ (ht.mono rfl) (After.filterRegs _ (fun c k => ?_) (State.onEntry_after _ _ (ht.mono rfl)
    (State.setEntry_after _ _ (ht.mono rfl) (State.setPg_after _ _ (ht.mono rfl) (State.wrs_after _ _ (FieldsIn.cons
      (RegIn.block ht (by omega) rfl) (FieldsIn.cons (RegIn.block ht (by omega) rfl) FieldsIn.nil)) ?_)))))
  · simp only [Bool.not_eq_false', Bool.or_eq_true, beq_iff_eq, Bool.and_eq_true, decide_eq_true_eq] at k
    rcases k with (k | k) | ⟨k, l⟩
    · exact k ▸ RegIn.block ht (by omega) rfl
    · exact k ▸ RegIn.block ht (by omega) rfl
    · obtain ⟨i, e⟩ := Nat.exists_eq_add_of_le k
      have g : i < 64 := by
        rw [e] at l
        exact Nat.lt_of_add_lt_add_left l
      rw [e]
      exact RegIn.word (by omega) ht (by omega) rfl
  · exact After.ite (State.emit_after _ _ h) h

theorem execPeerCycleRelease_after {b T} (x0) (ht : Within 0x80000000000 T) (h1 : After T b x0) :
    AfterOut T b ((@execPeerCycleRelease x0)) := by
  unfold execPeerCycleRelease
  try dsimp only
  repeat' first
    | with_reducible assumption
    | with_reducible apply onAlways_after
    | with_reducible apply State.emit_after
    | with_reducible apply State.wr_after
    | with_reducible exact Within.mono ht rfl
    | exact RegIn.block ht (by decide) rfl
    | with_reducible apply AfterRoute.ite
    | split
    | (with_reducible intro _)

end Sys2Proof.Machine
end

