-- ==== Sys2Proof/Laws/After/Caches.lean ====
section
/-! SUPPORT. What the operations of Caches keep (Laws/After.lean). -/

set_option Elab.async false
set_option linter.all false

namespace Sys2Proof.Machine

theorem State.putCache_after {b T} (x0) (x1) (ht : Within 0x800000 T) (h1 : After T b x0) :
    After T b (@State.putCache x0 x1) := by
  unfold State.putCache
  try dsimp only
  repeat' first
    | with_reducible assumption
    | with_reducible apply State.onCaches_after

theorem State.eachCache_after {b T} (x0) (x1) (ht : Within 0x800000 T) (h1 : After T b x0) :
    After T b (@State.eachCache x0 x1) := by
  unfold State.eachCache
  try dsimp only
  repeat' first
    | with_reducible assumption
    | with_reducible apply State.onCaches_after

theorem State.cleanLine_after {b T} (x0) (x1) (ht : Within 0x10000008804000 T) (h1 : After T b x0) :
    After T b (@State.cleanLine x0 x1) := by
  unfold State.cleanLine
  try dsimp only
  repeat' first
    | with_reducible assumption
    | with_reducible apply State.eachCache_after
    | with_reducible apply State.storeBytes_after
    | with_reducible exact Within.mono ht rfl
    | with_reducible apply AfterRoute.ite
    | split

theorem State.dropLine_after {b T} (x0) (x1) (ht : Within 0x800000 T) (h1 : After T b x0) :
    After T b (@State.dropLine x0 x1) := by
  unfold State.dropLine
  try dsimp only
  repeat' first
    | with_reducible assumption
    | with_reducible apply State.eachCache_after

theorem State.evictFromCluster_after {b T} (x0) (x1) (x2) (ht : Within 0x10000008804000 T) (h1 : After T b x0) :
    After T b (@State.evictFromCluster x0 x1 x2) := by
  unfold State.evictFromCluster
  try dsimp only
  repeat' first
    | with_reducible assumption
    | with_reducible apply State.storeBytes_after
    | with_reducible apply State.eachCache_after
    | with_reducible exact Within.mono ht rfl
    | with_reducible apply AfterRoute.ite
    | split

theorem State.serveHit_after {b T} (x0) (x1) (x2) (x3) (ht : Within 0x800000 T) (h1 : After T b x0) :
    After T b (@State.serveHit x0 x1 x2 x3) := by
  unfold State.serveHit
  try dsimp only
  repeat' first
    | with_reducible assumption
    | with_reducible apply State.emit_after
    | with_reducible apply State.eachCache_after
    | with_reducible apply State.putCache_after
    | with_reducible exact Within.mono ht rfl
    | exact RegIn.block ht (by decide) rfl
    | with_reducible apply AfterRoute.ite
    | split
    | (with_reducible intro _)
    | with_reducible apply AfterOut.ofNext
    | with_reducible apply AfterOpt.ofSome
    | with_reducible exact AfterOpt.ofNone
    | (with_reducible refine After.ofPair (by assumption) ?_)
    | (with_reducible refine After.ofTriple (by assumption) ?_)
    | (with_reducible refine After.ofOpt (by assumption) ?_)
    | with_reducible apply AfterSome.ofSome
    | with_reducible apply AfterRoute.ofSome
    | with_reducible exact AfterRoute.ofNone
    | with_reducible exact AfterSome.ofNone
    | with_reducible apply AfterEx.ofOk
    | with_reducible exact AfterEx.ofError
    | (with_reducible refine After.ofSealed (by assumption) ?_)
    | (with_reducible refine After.ofOkPair (by assumption) ?_)
    | (with_reducible refine After.ofOk (by assumption) ?_)
    | with_reducible apply After.fold

theorem State.startMiss_after {b T} (x0) (x1) (x2) (x3) (ht : Within 0x10000018804000 T) (h1 : After T b x0) :
    After T b (@State.startMiss x0 x1 x2 x3) := by
  unfold State.startMiss
  try dsimp only
  repeat' first
    | with_reducible assumption
    | with_reducible apply State.evictFromCluster_after
    | with_reducible apply State.putCache_after
    | with_reducible apply State.coreEvent_after
    | with_reducible exact Within.mono ht rfl
    | with_reducible apply AfterRoute.ite
    | split

theorem State.lookupAccess_after {b T} (x0) (x1) (x2) (ht : Within 0x14000018804000 T) (h1 : After T b x0) :
    After T b (@State.lookupAccess x0 x1 x2) := by
  unfold State.lookupAccess
  try dsimp only
  repeat' first
    | with_reducible assumption
    | with_reducible apply State.serveHit_after
    | with_reducible apply State.putCache_after
    | with_reducible apply State.coreEvent_after
    | with_reducible apply State.count_after
    | with_reducible apply State.startMiss_after
    | with_reducible exact Within.mono ht rfl
    | exact RegIn.block ht (by omega) (by with_reducible exact blockMask_clu rfl)
    | with_reducible apply AfterRoute.ite
    | split

theorem State.cachedAccess_after {b T} (x0) (x1) (x2) (ht : Within 0x14000018804000 T) (h1 : After T b x0) :
    After T b (@State.cachedAccess x0 x1 x2) := by
  unfold State.cachedAccess
  try dsimp only
  repeat' first
    | with_reducible assumption
    | with_reducible apply State.lookupAccess_after
    | with_reducible apply State.putCache_after
    | with_reducible exact Within.mono ht rfl
    | with_reducible apply AfterRoute.ite
    | split

theorem State.replayStalled_after {b T} (x0) (x1) (x2) (ht : Within 0x14000018804000 T) (h1 : After T b x0) :
    After T b (@State.replayStalled x0 x1 x2) := by
  induction x2 generalizing x0 with
  | zero =>
    unfold State.replayStalled
    try dsimp only
    repeat' first
      | with_reducible assumption
  | succ n ih =>
    unfold State.replayStalled
    try dsimp only
    repeat' first
      | with_reducible assumption
      | with_reducible apply State.lookupAccess_after
      | with_reducible apply State.putCache_after
      | with_reducible apply ih
      | with_reducible exact Within.mono ht rfl
      | with_reducible apply AfterRoute.ite
      | split

theorem State.doom_after {b T} (x0) (x1) (x2) (ht : Within 0x800000 T) (h1 : After T b x0) :
    After T b (@State.doom x0 x1 x2) := by
  unfold State.doom
  try dsimp only
  repeat' first
    | with_reducible assumption
    | with_reducible apply State.eachCache_after

theorem State.actCbo_after {b T} (x0) (x1) (x2) (ht : Within 0x10000008804000 T) (h1 : After T b x0) :
    After T b (@State.actCbo x0 x1 x2) := by
  unfold State.actCbo
  try dsimp only
  repeat' first
    | with_reducible assumption
    | with_reducible apply State.cleanLine_after
    | with_reducible apply State.dropLine_after
    | with_reducible exact Within.mono ht rfl
    | with_reducible apply AfterRoute.ite
    | split

theorem State.endMaintenance_after {b T} (x0) (ht : Within 0x4000000000000 T) (h1 : After T b x0) :
    After T b (@State.endMaintenance x0) := by
  unfold State.endMaintenance
  try dsimp only
  repeat' first
    | with_reducible assumption
    | with_reducible apply State.each_after
    | with_reducible apply State.wr_after
    | with_reducible exact Within.mono ht rfl
    | exact RegIn.block ht (by omega) (by with_reducible exact blockMask_clu rfl)
    | with_reducible apply AfterRoute.ite
    | split
    | (with_reducible intro _)

theorem State.retryCbos_after {b T} (x0) (ht : Within 0x14000008804000 T) (h1 : After T b x0) :
    After T b (@State.retryCbos x0) := by
  unfold State.retryCbos
  try dsimp only
  repeat' first
    | with_reducible assumption
    | with_reducible apply State.endMaintenance_after
    | with_reducible apply State.each_after
    | with_reducible apply State.emit_after
    | with_reducible apply State.actCbo_after
    | with_reducible apply State.onCaches_after
    | with_reducible exact Within.mono ht rfl
    | with_reducible apply AfterRoute.ite
    | split
    | (with_reducible intro _)

theorem State.cbo_after {b T} (x0) (x1) (x2) (x3) (ht : Within 0x14000008804000 T) (h1 : After T b x0) :
    After T b (@State.cbo x0 x1 x2 x3) := by
  unfold State.cbo
  try dsimp only
  repeat' first
    | with_reducible assumption
    | with_reducible apply State.doom_after
    | with_reducible apply State.retryCbos_after
    | with_reducible apply State.onCaches_after
    | with_reducible exact Within.mono ht rfl

theorem State.completeFill_after {b T} (x0) (x1) (x2) (ht : Within 0x14000018804000 T) (h1 : After T b x0) :
    After T b (@State.completeFill x0 x1 x2) := by
  unfold State.completeFill
  try dsimp only
  repeat' first
    | with_reducible assumption
    | with_reducible apply State.putCache_after
    | with_reducible apply State.cleanLine_after
    | with_reducible apply State.eachCache_after
    | with_reducible apply State.serveHit_after
    | with_reducible apply State.evictFromCluster_after
    | with_reducible apply State.coreEvent_after
    | with_reducible apply State.replayStalled_after
    | with_reducible apply State.retryCbos_after
    | with_reducible apply State.count_after
    | with_reducible exact Within.mono ht rfl
    | exact RegIn.block ht (by omega) (by with_reducible exact blockMask_clu rfl)
    | with_reducible apply AfterRoute.ite
    | split

theorem State.fillReturns_after {b T} (x0) (x1) (ht : Within 0x14000018804000 T) (h1 : After T b x0) :
    After T b (@State.fillReturns x0 x1) := by
  unfold State.fillReturns
  try dsimp only
  repeat' first
    | with_reducible assumption
    | with_reducible apply State.putCache_after
    | with_reducible apply State.completeFill_after
    | with_reducible exact Within.mono ht rfl
    | with_reducible apply AfterRoute.ite
    | split

theorem State.placeVictim_after {b T} (x0) (x1) (ht : Within 0x14000018804000 T) (h1 : After T b x0) :
    After T b (@State.placeVictim x0 x1) := by
  unfold State.placeVictim
  try dsimp only
  repeat' first
    | with_reducible assumption
    | with_reducible apply State.putCache_after
    | with_reducible apply State.completeFill_after
    | with_reducible exact Within.mono ht rfl
    | with_reducible apply AfterRoute.ite
    | split

theorem State.returnVictim_after {b T} (x0) (x1) (x2) (ht : Within 0x14000018804000 T) (h1 : After T b x0) :
    After T b (@State.returnVictim x0 x1 x2) := by
  unfold State.returnVictim
  try dsimp only
  repeat' first
    | with_reducible assumption
    | with_reducible apply State.putCache_after
    | with_reducible apply State.each_after
    | with_reducible apply State.lookupAccess_after
    | with_reducible exact Within.mono ht rfl
    | with_reducible apply AfterRoute.ite
    | split
    | (with_reducible intro _)

theorem State.victimAcked_after {b T} (x0) (x1) (ht : Within 0x14000018804000 T) (h1 : After T b x0) :
    After T b (@State.victimAcked x0 x1) := by
  unfold State.victimAcked
  try dsimp only
  repeat' first
    | with_reducible assumption
    | with_reducible apply State.putCache_after
    | with_reducible apply State.storeBytes_after
    | with_reducible apply State.returnVictim_after
    | with_reducible apply State.replayStalled_after
    | with_reducible apply State.retryCbos_after
    | with_reducible apply State.placeVictim_after
    | with_reducible exact Within.mono ht rfl
    | with_reducible apply AfterRoute.ite
    | split

theorem State.cleanL1d_after {b T} (x0) (x1) (ht : Within 0x10000008804000 T) (h1 : After T b x0) :
    After T b (@State.cleanL1d x0 x1) := by
  unfold State.cleanL1d
  try dsimp only
  repeat' first
    | with_reducible assumption
    | with_reducible apply State.each_after
    | with_reducible apply State.putCache_after
    | with_reducible apply State.storeBytes_after
    | with_reducible exact Within.mono ht rfl
    | with_reducible apply AfterRoute.ite
    | split
    | (with_reducible intro _)

theorem State.cleanCluster_after {b T} (x0) (x1) (ht : Within 0x10000008804000 T) (h1 : After T b x0) :
    After T b (@State.cleanCluster x0 x1) := by
  unfold State.cleanCluster
  try dsimp only
  repeat' first
    | with_reducible assumption
    | with_reducible apply State.each_after
    | with_reducible apply State.cleanL1d_after
    | with_reducible apply State.putCache_after
    | with_reducible apply State.storeBytes_after
    | with_reducible exact Within.mono ht rfl
    | with_reducible apply AfterRoute.ite
    | split
    | (with_reducible intro _)

theorem State.emptyCache_after {b T} (x0) (x1) (ht : Within 0x800000 T) (h1 : After T b x0) :
    After T b (@State.emptyCache x0 x1) := by
  unfold State.emptyCache
  try dsimp only
  repeat' first
    | with_reducible assumption
    | with_reducible apply State.putCache_after

theorem State.cachesOff_after {b T} (x0) (x1) (ht : Within 0x10000008804000 T) (h1 : After T b x0) :
    After T b (@State.cachesOff x0 x1) := by
  unfold State.cachesOff
  try dsimp only
  repeat' first
    | with_reducible assumption
    | with_reducible apply State.cleanL1d_after
    | with_reducible apply State.putCache_after
    | with_reducible apply State.cleanCluster_after
    | with_reducible apply State.each_after
    | with_reducible exact Within.mono ht rfl
    | with_reducible apply AfterRoute.ite
    | split
    | (with_reducible intro _)

theorem State.resetClusterCaches_after {b T} (x0) (x1) (ht : Within 0x800000 T) (h1 : After T b x0) :
    After T b (@State.resetClusterCaches x0 x1) := by
  unfold State.resetClusterCaches
  try dsimp only
  repeat' first
    | with_reducible assumption
    | with_reducible apply State.each_after
    | with_reducible apply State.putCache_after
    | with_reducible apply State.onCaches_after
    | with_reducible exact Within.mono ht rfl
    | with_reducible apply AfterRoute.ite
    | split
    | (with_reducible intro _)

end Sys2Proof.Machine
end

