-- ==== Sys2Proof/Laws/After/Power.lean ====
section
/-! SUPPORT. What the operations of Power keep (Laws/After.lean). -/

set_option Elab.async false
set_option linter.all false

namespace Sys2Proof.Machine

theorem State.showWants_after {b T} (x0) (x1) (ht : Within 0x800000000000 T) (h1 : After T b x0) :
    After T b (@State.showWants x0 x1) := by
  unfold State.showWants
  try dsimp only
  repeat' first
    | with_reducible assumption
    | with_reducible apply State.each_after
    | with_reducible apply State.wrs_after
    | with_reducible exact Within.mono ht rfl
    | exact RegIn.block ht (by decide) rfl
    | with_reducible apply FieldsIn.cons
    | with_reducible exact FieldsIn.nil
    | with_reducible apply AfterRoute.ite
    | split
    | (with_reducible intro _)

theorem execPhraseDecision_after {b T} (x0) (x1) (x2) (x3) (x4) (ht : Within 0x800000000100 T) (h5 : After T b x4) :
    AfterOut T b (@execPhraseDecision x0 x1 x2 x3 x4) := by
  unfold execPhraseDecision
  try dsimp only
  repeat' first
    | with_reducible assumption
    | with_reducible apply onSoc_after
    | with_reducible apply State.showWants_after
    | with_reducible apply State.wr_after
    | with_reducible apply State.onPower_after
    | with_reducible exact Within.mono ht rfl
    | exact RegIn.block ht (by decide) rfl
    | with_reducible apply AfterRoute.ite
    | split
    | (with_reducible intro _)
    | with_reducible apply AfterOut.ofNext
    | with_reducible apply AfterOpt.ofSome
    | with_reducible exact AfterOpt.ofNone
    | (with_reducible refine After.ofPair (by assumption) ?_)
    | (with_reducible refine After.ofTriple (by assumption) ?_)
    | (with_reducible refine After.ofOpt (by assumption) ?_)
    | with_reducible apply AfterSome.ofSome
    | with_reducible apply AfterRoute.ofSome
    | with_reducible exact AfterRoute.ofNone
    | with_reducible exact AfterSome.ofNone
    | with_reducible apply AfterEx.ofOk
    | with_reducible exact AfterEx.ofError
    | (with_reducible refine After.ofSealed (by assumption) ?_)
    | (with_reducible refine After.ofOkPair (by assumption) ?_)
    | (with_reducible refine After.ofOk (by assumption) ?_)
    | with_reducible apply After.fold

theorem State.startLevel_after {b T} (x0) (x1) (x2) (ht : Within 0x800040000100 T) (h1 : After T b x0) :
    After T b (@State.startLevel x0 x1 x2) := by
  unfold State.startLevel
  try dsimp only
  repeat' first
    | with_reducible assumption
    | with_reducible apply State.onPower_after
    | with_reducible apply State.emit_after
    | with_reducible apply State.wr_after
    | with_reducible apply State.wrs_after
    | with_reducible exact Within.mono ht rfl
    | exact RegIn.block ht (by decide) rfl
    | with_reducible apply FieldsIn.cons
    | with_reducible exact FieldsIn.nil
    | with_reducible apply AfterRoute.ite
    | split
    | (with_reducible intro _)
    | with_reducible apply AfterOut.ofNext
    | with_reducible apply AfterOpt.ofSome
    | with_reducible exact AfterOpt.ofNone
    | (with_reducible refine After.ofPair (by assumption) ?_)
    | (with_reducible refine After.ofTriple (by assumption) ?_)
    | (with_reducible refine After.ofOpt (by assumption) ?_)
    | with_reducible apply AfterSome.ofSome
    | with_reducible apply AfterRoute.ofSome
    | with_reducible exact AfterRoute.ofNone
    | with_reducible exact AfterSome.ofNone
    | with_reducible apply AfterEx.ofOk
    | with_reducible exact AfterEx.ofError
    | (with_reducible refine After.ofSealed (by assumption) ?_)
    | (with_reducible refine After.ofOkPair (by assumption) ?_)
    | (with_reducible refine After.ofOk (by assumption) ?_)
    | with_reducible apply After.fold

theorem State.takeLevel_after {b T} (x0) (x1) (x2) (ht : Within 0x800040000000 T) (h1 : After T b x0) :
    After T b (@State.takeLevel x0 x1 x2) := by
  unfold State.takeLevel
  try dsimp only
  repeat' first
    | with_reducible assumption
    | with_reducible apply State.wrs_after
    | with_reducible exact Within.mono ht rfl
    | exact RegIn.block ht (by decide) rfl
    | with_reducible apply FieldsIn.cons
    | with_reducible exact FieldsIn.nil
    | with_reducible apply AfterRoute.ite
    | split
    | (with_reducible intro _)
    | with_reducible apply AfterOut.ofNext
    | with_reducible apply AfterOpt.ofSome
    | with_reducible exact AfterOpt.ofNone
    | (with_reducible refine After.ofPair (by assumption) ?_)
    | (with_reducible refine After.ofTriple (by assumption) ?_)
    | (with_reducible refine After.ofOpt (by assumption) ?_)
    | with_reducible apply AfterSome.ofSome
    | with_reducible apply AfterRoute.ofSome
    | with_reducible exact AfterRoute.ofNone
    | with_reducible exact AfterSome.ofNone
    | with_reducible apply AfterEx.ofOk
    | with_reducible exact AfterEx.ofError
    | (with_reducible refine After.ofSealed (by assumption) ?_)
    | (with_reducible refine After.ofOkPair (by assumption) ?_)
    | (with_reducible refine After.ofOk (by assumption) ?_)
    | with_reducible apply After.fold

theorem State.applyDeferred_after {b T} (x0) (x1) (ht : Within 0x800040000100 T) (h1 : After T b x0) :
    After T b (@State.applyDeferred x0 x1) := by
  unfold State.applyDeferred
  try dsimp only
  repeat' first
    | with_reducible assumption
    | with_reducible apply State.startLevel_after
    | with_reducible apply State.onPower_after
    | with_reducible exact Within.mono ht rfl
    | with_reducible apply AfterRoute.ite
    | split

theorem State.endChange_after {b T} (x0) (x1) (ht : Within 0x800000000100 T) (h1 : After T b x0) :
    After T b (@State.endChange x0 x1) := by
  unfold State.endChange
  try dsimp only
  repeat' first
    | with_reducible assumption
    | with_reducible apply State.onPower_after
    | with_reducible apply State.wr_after
    | with_reducible exact Within.mono ht rfl
    | exact RegIn.block ht (by decide) rfl

theorem execAvsAck_after {b T} (x0) (x1) (ht : Within 0x800040000100 T) (h2 : After T b x1) :
    AfterOut T b ((@execAvsAck x0 x1)) := by
  unfold execAvsAck
  try dsimp only
  repeat' first
    | with_reducible assumption
    | with_reducible apply onSoc_after
    | with_reducible apply State.wrs_after
    | with_reducible apply State.onPower_after
    | with_reducible apply State.endChange_after
    | with_reducible apply State.applyDeferred_after
    | with_reducible apply State.count_after
    | with_reducible exact Within.mono ht rfl
    | exact RegIn.block ht (by decide) rfl
    | with_reducible apply FieldsIn.cons
    | with_reducible exact FieldsIn.nil
    | with_reducible apply AfterRoute.ite
    | split
    | (with_reducible intro _)

theorem execAvsTimeout_after {b T} (x0) (x1) (ht : Within 0x60b400510001c0 T) (h2 : After T b x1) :
    AfterOut T b (@execAvsTimeout x0 x1) := by
  unfold execAvsTimeout
  try dsimp only
  repeat' first
    | with_reducible assumption
    | with_reducible apply onSoc_after
    | with_reducible apply State.onPower_after
    | with_reducible apply State.count_after
    | with_reducible apply State.endChange_after
    | with_reducible apply State.wr_after
    | with_reducible apply State.plainFault_after
    | with_reducible apply State.wrs_after
    | with_reducible apply State.applyDeferred_after
    | with_reducible exact Within.mono ht rfl
    | exact RegIn.block ht (by decide) rfl
    | with_reducible apply FieldsIn.cons
    | with_reducible exact FieldsIn.nil
    | with_reducible apply AfterRoute.ite
    | split
    | (with_reducible intro _)
    | with_reducible apply AfterOut.ofNext
    | with_reducible apply AfterOpt.ofSome
    | with_reducible exact AfterOpt.ofNone
    | (with_reducible refine After.ofPair (by assumption) ?_)
    | (with_reducible refine After.ofTriple (by assumption) ?_)
    | (with_reducible refine After.ofOpt (by assumption) ?_)
    | with_reducible apply AfterSome.ofSome
    | with_reducible apply AfterRoute.ofSome
    | with_reducible exact AfterRoute.ofNone
    | with_reducible exact AfterSome.ofNone
    | with_reducible apply AfterEx.ofOk
    | with_reducible exact AfterEx.ofError
    | (with_reducible refine After.ofSealed (by assumption) ?_)
    | (with_reducible refine After.ofOkPair (by assumption) ?_)
    | (with_reducible refine After.ofOk (by assumption) ?_)
    | with_reducible apply After.fold

theorem State.applyDecision_after {b T} (x0) (ht : Within 0x60b410510001c0 T) (h1 : After T b x0) :
    After T b (@State.applyDecision x0) := by
  unfold State.applyDecision
  try dsimp only
  repeat' first
    | with_reducible assumption
    | with_reducible apply State.onPower_after
    | with_reducible apply State.wrs_after
    | with_reducible apply State.each_after
    | with_reducible apply State.wr_after
    | with_reducible apply State.count_after
    | with_reducible apply State.event_after
    | with_reducible apply State.flagFault_after
    | with_reducible apply State.began_after
    | with_reducible apply State.takeLevel_after
    | with_reducible apply State.startLevel_after
    | with_reducible exact Within.mono ht rfl
    | exact RegIn.block ht (by decide) rfl
    | with_reducible apply FieldsIn.cons
    | with_reducible exact FieldsIn.nil
    | with_reducible apply AfterRoute.ite
    | split
    | (with_reducible intro _)
    | with_reducible apply AfterOut.ofNext
    | with_reducible apply AfterOpt.ofSome
    | with_reducible exact AfterOpt.ofNone
    | (with_reducible refine After.ofPair (by assumption) ?_)
    | (with_reducible refine After.ofTriple (by assumption) ?_)
    | (with_reducible refine After.ofOpt (by assumption) ?_)
    | with_reducible apply AfterSome.ofSome
    | with_reducible apply AfterRoute.ofSome
    | with_reducible exact AfterRoute.ofNone
    | with_reducible exact AfterSome.ofNone
    | with_reducible apply AfterEx.ofOk
    | with_reducible exact AfterEx.ofError
    | (with_reducible refine After.ofSealed (by assumption) ?_)
    | (with_reducible refine After.ofOkPair (by assumption) ?_)
    | (with_reducible refine After.ofOk (by assumption) ?_)
    | with_reducible apply After.fold

theorem State.dropDomainRegs_after {b T} (x0) (x1) (ht : Within 0x7fffffe0000002 T) (h1 : After T b x0) :
    After T b (@State.dropDomainRegs x0 x1) := by
  unfold State.dropDomainRegs
  try dsimp only
  repeat' first
    | with_reducible assumption
    | with_reducible apply State.onRwm_after
    | with_reducible exact Within.mono ht rfl
    | exact RegIn.all ht rfl
    | with_reducible apply AfterRoute.ite
    | split
    | (with_reducible intro _)
    | with_reducible apply AfterOut.ofNext
    | with_reducible apply AfterOpt.ofSome
    | with_reducible exact AfterOpt.ofNone
    | (with_reducible refine After.ofPair (by assumption) ?_)
    | (with_reducible refine After.ofTriple (by assumption) ?_)
    | (with_reducible refine After.ofOpt (by assumption) ?_)
    | with_reducible apply AfterSome.ofSome
    | with_reducible apply AfterRoute.ofSome
    | with_reducible exact AfterRoute.ofNone
    | with_reducible exact AfterSome.ofNone
    | with_reducible apply AfterEx.ofOk
    | with_reducible exact AfterEx.ofError
    | (with_reducible refine After.ofSealed (by assumption) ?_)
    | (with_reducible refine After.ofOkPair (by assumption) ?_)
    | (with_reducible refine After.ofOk (by assumption) ?_)
    | with_reducible apply After.fold
    | with_reducible apply After.filterRegs

theorem State.showClockGates_after {b T} (x0) (x1) (ht : Within 0x40000000 T) (h1 : After T b x0) :
    After T b (@State.showClockGates x0 x1) := by
  unfold State.showClockGates
  try dsimp only
  repeat' first
    | with_reducible assumption
    | with_reducible apply State.wr_after
    | with_reducible exact Within.mono ht rfl
    | exact RegIn.block ht (by decide) rfl
    | with_reducible apply AfterRoute.ite
    | split

theorem State.setDomain_after {b T} (x0) (x1) (x2) (ht : Within 0x5000040000000 T) (h1 : After T b x0) :
    After T b (@State.setDomain x0 x1 x2) := by
  unfold State.setDomain
  try dsimp only
  repeat' first
    | with_reducible assumption
    | with_reducible apply State.wr_after
    | with_reducible apply State.showClockGates_after
    | with_reducible exact Within.mono ht rfl
    | exact RegIn.block ht (by omega) (by first | with_reducible exact blockMask_clu rfl | rfl)
    | with_reducible apply AfterRoute.ite
    | split

theorem State.powerOffDomain_after {b T} (x0) (x1) (ht : Within 0x7fffffe8c04002 T) (h1 : After T b x0) :
    After T b (@State.powerOffDomain x0 x1) := by
  unfold State.powerOffDomain
  try dsimp only
  repeat' first
    | with_reducible assumption
    | with_reducible apply State.dropDomainRegs_after
    | with_reducible apply State.count_after
    | with_reducible apply State.setDomain_after
    | with_reducible apply State.cachesOff_after
    | with_reducible apply State.onSlots_after
    | with_reducible exact Within.mono ht rfl
    | exact RegIn.block ht (by decide) rfl
    | with_reducible apply AfterRoute.ite
    | split
    | (with_reducible intro _)
    | with_reducible apply AfterOut.ofNext
    | with_reducible apply AfterOpt.ofSome
    | with_reducible exact AfterOpt.ofNone
    | (with_reducible refine After.ofPair (by assumption) ?_)
    | (with_reducible refine After.ofTriple (by assumption) ?_)
    | (with_reducible refine After.ofOpt (by assumption) ?_)
    | with_reducible apply AfterSome.ofSome
    | with_reducible apply AfterRoute.ofSome
    | with_reducible exact AfterRoute.ofNone
    | with_reducible exact AfterSome.ofNone
    | with_reducible apply AfterEx.ofOk
    | with_reducible exact AfterEx.ofError
    | (with_reducible refine After.ofSealed (by assumption) ?_)
    | (with_reducible refine After.ofOkPair (by assumption) ?_)
    | (with_reducible refine After.ofOk (by assumption) ?_)
    | with_reducible apply After.fold

theorem State.powerOnDomain_after {b T} (x0) (x1) (ht : Within 0x7fffffe0000102 T) (h1 : After T b x0) :
    After T b (@State.powerOnDomain x0 x1) := by
  unfold State.powerOnDomain
  try dsimp only
  repeat' first
    | with_reducible assumption
    | with_reducible apply State.showPartitions_after
    | with_reducible apply State.showPulls_after
    | with_reducible apply State.dropDomainRegs_after
    | with_reducible apply State.takeLevel_after
    | with_reducible apply State.onPower_after
    | with_reducible apply State.setDomain_after
    | with_reducible exact Within.mono ht rfl
    | exact RegIn.block ht (by decide) rfl
    | with_reducible apply AfterRoute.ite
    | split
    | (with_reducible intro _)
    | with_reducible apply AfterOut.ofNext
    | with_reducible apply AfterOpt.ofSome
    | with_reducible exact AfterOpt.ofNone
    | (with_reducible refine After.ofPair (by assumption) ?_)
    | (with_reducible refine After.ofTriple (by assumption) ?_)
    | (with_reducible refine After.ofOpt (by assumption) ?_)
    | with_reducible apply AfterSome.ofSome
    | with_reducible apply AfterRoute.ofSome
    | with_reducible exact AfterRoute.ofNone
    | with_reducible exact AfterSome.ofNone
    | with_reducible apply AfterEx.ofOk
    | with_reducible exact AfterEx.ofError
    | (with_reducible refine After.ofSealed (by assumption) ?_)
    | (with_reducible refine After.ofOkPair (by assumption) ?_)
    | (with_reducible refine After.ofOk (by assumption) ?_)
    | with_reducible apply After.fold

theorem State.entryRefused_after {b T} (x0) (x1) (x2) (x3) (ht : Within 0x5000040000100 T) (h1 : After T b x0) :
    After T b (@State.entryRefused x0 x1 x2 x3) := by
  unfold State.entryRefused
  try dsimp only
  repeat' first
    | with_reducible assumption
    | with_reducible apply State.count_after
    | with_reducible apply State.wrs_after
    | with_reducible apply State.setDomain_after
    | with_reducible apply State.onPower_after
    | with_reducible exact Within.mono ht rfl
    | exact RegIn.block ht (by decide) rfl
    | with_reducible apply FieldsIn.cons
    | with_reducible exact FieldsIn.nil
    | with_reducible apply AfterRoute.ite
    | split

theorem State.entryAccepted_after {b T} (x0) (x1) (x2) (ht : Within 0x7fffffe8c04102 T) (h1 : After T b x0) :
    After T b (@State.entryAccepted x0 x1 x2) := by
  unfold State.entryAccepted
  try dsimp only
  repeat' first
    | with_reducible assumption
    | with_reducible apply State.onPower_after
    | with_reducible apply State.count_after
    | with_reducible apply State.setDomain_after
    | with_reducible apply State.powerOffDomain_after
    | with_reducible apply State.wrs_after
    | with_reducible exact Within.mono ht rfl
    | exact RegIn.block ht (by decide) rfl
    | exact RegIn.all ht rfl
    | with_reducible apply FieldsIn.cons
    | with_reducible exact FieldsIn.nil
    | with_reducible apply AfterRoute.ite
    | split

theorem State.handshake_after {b T} (x0) (x1) (x2) (x3) (x4) (x5) (ht : Within 0x7fffffe8c04102 T) (h1 : After T b x0) :
    After T b (@State.handshake x0 x1 x2 x3 x4 x5) := by
  unfold State.handshake
  try dsimp only
  repeat' first
    | with_reducible assumption
    | with_reducible apply State.entryAccepted_after
    | with_reducible apply State.entryRefused_after
    | with_reducible apply State.wr_after
    | with_reducible apply State.onPower_after
    | with_reducible apply State.setDomain_after
    | with_reducible exact Within.mono ht rfl
    | exact RegIn.block ht (by decide) rfl
    | with_reducible apply AfterRoute.ite
    | split
    | (with_reducible intro _)
    | with_reducible apply AfterOut.ofNext
    | with_reducible apply AfterOpt.ofSome
    | with_reducible exact AfterOpt.ofNone
    | (with_reducible refine After.ofPair (by assumption) ?_)
    | (with_reducible refine After.ofTriple (by assumption) ?_)
    | (with_reducible refine After.ofOpt (by assumption) ?_)
    | with_reducible apply AfterSome.ofSome
    | with_reducible apply AfterRoute.ofSome
    | with_reducible exact AfterRoute.ofNone
    | with_reducible exact AfterSome.ofNone
    | with_reducible apply AfterEx.ofOk
    | with_reducible exact AfterEx.ofError
    | (with_reducible refine After.ofSealed (by assumption) ?_)
    | (with_reducible refine After.ofOkPair (by assumption) ?_)
    | (with_reducible refine After.ofOk (by assumption) ?_)
    | with_reducible apply After.fold

theorem execDomainIdleGate_after {b T} (x0) (x1) (x2) (ht : Within 0x7fffffe8c04102 T) (h3 : After T b x2) :
    AfterOut T b ((@execDomainIdleGate x0 x1 x2)) := by
  unfold execDomainIdleGate
  try dsimp only
  repeat' first
    | with_reducible assumption
    | with_reducible apply onSoc_after
    | with_reducible apply State.handshake_after
    | with_reducible exact Within.mono ht rfl
    | with_reducible apply AfterRoute.ite
    | split
    | (with_reducible intro _)

theorem execDomainIdleOff_after {b T} (x0) (x1) (x2) (ht : Within 0x7fffffe8c04102 T) (h3 : After T b x2) :
    AfterOut T b ((@execDomainIdleOff x0 x1 x2)) := by
  unfold execDomainIdleOff
  try dsimp only
  repeat' first
    | with_reducible assumption
    | with_reducible apply onSoc_after
    | with_reducible apply State.handshake_after
    | with_reducible exact Within.mono ht rfl
    | with_reducible apply AfterRoute.ite
    | split
    | (with_reducible intro _)

theorem execHandshakeDelayExpiry_after {b T} (x0) (x1) (x2) (ht : Within 0x7fffffe8c04102 T) (h3 : After T b x2) :
    AfterOut T b (@execHandshakeDelayExpiry x0 x1 x2) := by
  unfold execHandshakeDelayExpiry
  try dsimp only
  repeat' first
    | with_reducible assumption
    | with_reducible apply onSoc_after
    | with_reducible apply State.handshake_after
    | with_reducible exact Within.mono ht rfl
    | exact RegIn.block ht (by decide) rfl
    | with_reducible apply AfterRoute.ite
    | split
    | (with_reducible intro _)
    | with_reducible apply AfterOut.ofNext
    | with_reducible apply AfterOpt.ofSome
    | with_reducible exact AfterOpt.ofNone
    | (with_reducible refine After.ofPair (by assumption) ?_)
    | (with_reducible refine After.ofTriple (by assumption) ?_)
    | (with_reducible refine After.ofOpt (by assumption) ?_)
    | with_reducible apply AfterSome.ofSome
    | with_reducible apply AfterRoute.ofSome
    | with_reducible exact AfterRoute.ofNone
    | with_reducible exact AfterSome.ofNone
    | with_reducible apply AfterEx.ofOk
    | with_reducible exact AfterEx.ofError
    | (with_reducible refine After.ofSealed (by assumption) ?_)
    | (with_reducible refine After.ofOkPair (by assumption) ?_)
    | (with_reducible refine After.ofOk (by assumption) ?_)
    | with_reducible apply After.fold

theorem execDomainWake_after {b T} (x0) (x1) (ht : Within 0x7fffffe0000102 T) (h2 : After T b x1) :
    AfterOut T b ((@execDomainWake x0 x1)) := by
  unfold execDomainWake
  try dsimp only
  repeat' first
    | with_reducible assumption
    | with_reducible apply onSoc_after
    | with_reducible apply State.powerOnDomain_after
    | with_reducible exact Within.mono ht rfl
    | with_reducible apply AfterRoute.ite
    | split
    | (with_reducible intro _)

theorem execPwrWakeDomain_after {b T} (x0) (x1) (x2) (ht : Within 0x7ffffff10001ca T) (h3 : After T b x2) :
    AfterOut T b ((@execPwrWakeDomain x0 x1 x2)) := by
  unfold execPwrWakeDomain
  try dsimp only
  repeat' first
    | with_reducible assumption
    | with_reducible apply onSoc_after
    | with_reducible apply State.commandWrite_after
    | with_reducible apply State.wr_after
    | with_reducible apply State.powerOnDomain_after
    | with_reducible exact Within.mono ht rfl
    | exact RegIn.block ht (by decide) rfl
    | exact RegIn.all ht rfl
    | exact NotWall (by omega) (by omega)
    | with_reducible apply AfterRoute.ite
    | split
    | (with_reducible intro _)

theorem execPwrPowerOffDomain_after {b T} (x0) (x1) (x2) (x3) (ht : Within 0x7ffffff9c041ca T) (h4 : After T b x3) :
    AfterOut T b ((@execPwrPowerOffDomain x0 x1 x2 x3)) := by
  unfold execPwrPowerOffDomain
  try dsimp only
  repeat' first
    | with_reducible assumption
    | with_reducible apply onSoc_after
    | with_reducible apply State.commandWrite_after
    | with_reducible apply State.wr_after
    | with_reducible apply State.handshake_after
    | with_reducible exact Within.mono ht rfl
    | exact RegIn.block ht (by decide) rfl
    | exact RegIn.all ht rfl
    | exact NotWall (by omega) (by omega)
    | with_reducible apply AfterRoute.ite
    | split
    | (with_reducible intro _)

end Sys2Proof.Machine
end

