-- ==== Sys2Proof/Laws/After/Vault.lean ====
section
/-! SUPPORT. What the operations of Vault keep (Laws/After.lean). -/

set_option Elab.async false
set_option linter.all false

namespace Sys2Proof.Machine

theorem State.coverEvent_after {b T} (x0) (ht : Within 0x40040111002201 T) (h1 : After T b x0) :
    After T b (@State.coverEvent x0) := by
  unfold State.coverEvent
  try dsimp only
  repeat' first
    | with_reducible assumption
    | with_reducible apply State.each_after
    | with_reducible apply State.completeAer_after
    | with_reducible exact Within.mono ht rfl
    | with_reducible apply AfterRoute.ite
    | split
    | (with_reducible intro _)

theorem State.showCover_after {b T} (x0) (x1) (ht : Within 0x40342111002a81 T) (h1 : After T b x0) :
    After T b (@State.showCover x0 x1) := by
  unfold State.showCover
  try dsimp only
  repeat' first
    | with_reducible assumption
    | with_reducible apply State.onEnergy_after
    | with_reducible apply State.wr_after
    | with_reducible apply State.notify_after
    | with_reducible apply State.coverEvent_after
    | with_reducible exact Within.mono ht rfl
    | exact RegIn.block ht (by decide) rfl
    | with_reducible apply AfterRoute.ite
    | split

theorem State.showCeiling_after {b T} (x0) (ht : Within 0x40346111002a81 T) (h1 : After T b x0) :
    After T b (@State.showCeiling x0) := by
  unfold State.showCeiling
  try dsimp only
  repeat' first
    | with_reducible assumption
    | with_reducible apply State.showCover_after
    | with_reducible apply State.wrs_after
    | with_reducible exact Within.mono ht rfl
    | exact RegIn.block ht (by decide) rfl
    | with_reducible apply FieldsIn.cons
    | with_reducible exact FieldsIn.nil

theorem State.setStore_after {b T} (x0) (x1) (ht : Within 0x40342011000080 T) (h1 : After T b x0) :
    After T b (@State.setStore x0 x1) := by
  unfold State.setStore
  try dsimp only
  repeat' first
    | with_reducible assumption
    | with_reducible apply State.wr_after
    | with_reducible apply State.notify_after
    | with_reducible exact Within.mono ht rfl
    | exact RegIn.block ht (by decide) rfl
    | with_reducible apply AfterRoute.ite
    | split

theorem execEnergyMeasurement_after {b T} (x0) (x1) (ht : Within 0x423c6111002a81 T) (h2 : After T b x1) :
    AfterOut T b (@execEnergyMeasurement x0 x1) := by
  unfold execEnergyMeasurement
  try dsimp only
  repeat' first
    | with_reducible assumption
    | with_reducible apply onAlways_after
    | with_reducible apply State.count_after
    | with_reducible apply State.onEnergy_after
    | with_reducible apply State.wr_after
    | with_reducible apply State.wrs_after
    | with_reducible apply State.setStore_after
    | with_reducible apply State.showCeiling_after
    | with_reducible apply State.showCover_after
    | with_reducible exact Within.mono ht rfl
    | exact RegIn.block ht (by decide) rfl
    | with_reducible apply FieldsIn.cons
    | with_reducible exact FieldsIn.nil
    | with_reducible apply AfterRoute.ite
    | split
    | (with_reducible intro _)
    | with_reducible apply AfterOut.ofNext
    | with_reducible apply AfterOpt.ofSome
    | with_reducible exact AfterOpt.ofNone
    | (with_reducible refine After.ofPair (by assumption) ?_)
    | (with_reducible refine After.ofTriple (by assumption) ?_)
    | (with_reducible refine After.ofOpt (by assumption) ?_)
    | with_reducible apply AfterSome.ofSome
    | with_reducible apply AfterRoute.ofSome
    | with_reducible exact AfterRoute.ofNone
    | with_reducible exact AfterSome.ofNone
    | with_reducible apply AfterEx.ofOk
    | with_reducible exact AfterEx.ofError
    | (with_reducible refine After.ofSealed (by assumption) ?_)
    | (with_reducible refine After.ofOkPair (by assumption) ?_)
    | (with_reducible refine After.ofOk (by assumption) ?_)
    | with_reducible apply After.fold

theorem State.failStore_after {b T} (x0) (ht : Within 0x603420110000c0 T) (h1 : After T b x0) :
    After T b (@State.failStore x0) := by
  unfold State.failStore
  try dsimp only
  repeat' first
    | with_reducible assumption
    | with_reducible apply State.plainFault_after
    | with_reducible apply State.setStore_after
    | with_reducible apply State.wr_after
    | with_reducible exact Within.mono ht rfl
    | exact RegIn.block ht (by decide) rfl
    | with_reducible apply AfterRoute.ite
    | split

theorem State.judgeStore_after {b T} (x0) (ht : Within 0x603420110000c0 T) (h1 : After T b x0) :
    After T b (@State.judgeStore x0) := by
  unfold State.judgeStore
  try dsimp only
  repeat' first
    | with_reducible assumption
    | with_reducible apply State.failStore_after
    | with_reducible apply State.plainFault_after
    | with_reducible apply State.wr_after
    | with_reducible exact Within.mono ht rfl
    | exact RegIn.block ht (by decide) rfl
    | with_reducible apply AfterRoute.ite
    | split

theorem execChargeComplete_after {b T} (x0) (ht : Within 0x40342011000080 T) (h1 : After T b x0) :
    AfterOut T b ((@execChargeComplete x0)) := by
  unfold execChargeComplete
  try dsimp only
  repeat' first
    | with_reducible assumption
    | with_reducible apply onAlways_after
    | with_reducible apply State.setStore_after
    | with_reducible exact Within.mono ht rfl
    | with_reducible apply AfterRoute.ite
    | split
    | (with_reducible intro _)

theorem execChargeLevelDrop_after {b T} (x0) (ht : Within 0x40342011000080 T) (h1 : After T b x0) :
    AfterOut T b ((@execChargeLevelDrop x0)) := by
  unfold execChargeLevelDrop
  try dsimp only
  repeat' first
    | with_reducible assumption
    | with_reducible apply onAlways_after
    | with_reducible apply State.setStore_after
    | with_reducible exact Within.mono ht rfl
    | with_reducible apply AfterRoute.ite
    | split
    | (with_reducible intro _)

theorem execNrgTestRequest_after {b T} (x0) (x1) (ht : Within 0x613420110008ca T) (h2 : After T b x1) :
    AfterOut T b ((@execNrgTestRequest x0 x1)) := by
  unfold execNrgTestRequest
  try dsimp only
  repeat' first
    | with_reducible assumption
    | with_reducible apply onSoc_after
    | with_reducible apply State.commandWrite_after
    | with_reducible apply State.onEnergy_after
    | with_reducible exact Within.mono ht rfl
    | exact RegIn.block ht (by decide) rfl
    | exact NotWall (by omega) (by omega)
    | with_reducible apply AfterRoute.ite
    | split
    | (with_reducible intro _)

theorem execCapacityTestStart_after {b T} (x0) (ht : Within 0x40342011000880 T) (h1 : After T b x0) :
    AfterOut T b ((@execCapacityTestStart x0)) := by
  unfold execCapacityTestStart
  try dsimp only
  repeat' first
    | with_reducible assumption
    | with_reducible apply onSoc_after
    | with_reducible apply State.onEnergy_after
    | with_reducible apply State.setStore_after
    | with_reducible exact Within.mono ht rfl
    | with_reducible apply AfterRoute.ite
    | split
    | (with_reducible intro _)

theorem execCapacityTestDone_after {b T} (x0) (x1) (x2) (ht : Within 0x623420110000c0 T) (h3 : After T b x2) :
    AfterOut T b ((@execCapacityTestDone x0 x1 x2)) := by
  unfold execCapacityTestDone
  try dsimp only
  repeat' first
    | with_reducible assumption
    | with_reducible apply onAlways_after
    | with_reducible apply State.count_after
    | with_reducible apply State.wrs_after
    | with_reducible apply State.setReg_after
    | with_reducible apply State.judgeStore_after
    | with_reducible apply State.setStore_after
    | with_reducible apply State.wr_after
    | with_reducible exact Within.mono ht rfl
    | exact RegIn.block ht (by decide) rfl
    | with_reducible apply FieldsIn.cons
    | with_reducible exact FieldsIn.nil
    | with_reducible apply AfterRoute.ite
    | split
    | (with_reducible intro _)

theorem execStoreFailure_after {b T} (x0) (x1) (ht : Within 0x603420110000c0 T) (h2 : After T b x1) :
    AfterOut T b ((@execStoreFailure x0 x1)) := by
  unfold execStoreFailure
  try dsimp only
  repeat' first
    | with_reducible assumption
    | with_reducible apply onAlways_after
    | with_reducible apply State.failStore_after
    | with_reducible exact Within.mono ht rfl
    | with_reducible apply AfterRoute.ite
    | split
    | (with_reducible intro _)

theorem State.powerFailDecision_after {b T} (x0) (ht : Within 0x42346011000c80 T) (h1 : After T b x0) :
    After T b (@State.powerFailDecision x0) := by
  unfold State.powerFailDecision
  try dsimp only
  repeat' first
    | with_reducible assumption
    | with_reducible apply State.count_after
    | with_reducible apply State.wr_after
    | with_reducible apply State.setStore_after
    | with_reducible apply State.onEnergy_after
    | with_reducible apply State.onStore_after
    | with_reducible exact Within.mono ht rfl
    | exact RegIn.block ht (by decide) rfl
    | with_reducible apply AfterRoute.ite
    | split

theorem execPowerFailDecision_after {b T} (x0) (ht : Within 0x42346011000c80 T) (h1 : After T b x0) :
    AfterOut T b ((@execPowerFailDecision x0)) := by
  unfold execPowerFailDecision
  try dsimp only
  repeat' first
    | with_reducible assumption
    | with_reducible apply onAlways_after
    | with_reducible apply State.powerFailDecision_after
    | with_reducible exact Within.mono ht rfl
    | with_reducible apply AfterRoute.ite
    | split
    | (with_reducible intro _)

theorem execQuiesceComplete_after {b T} (x0) (ht : Within 0x7ffffff9c04882 T) (h1 : After T b x0) :
    AfterOut T b ((@execQuiesceComplete x0)) := by
  unfold execQuiesceComplete
  try dsimp only
  repeat' first
    | with_reducible assumption
    | with_reducible apply onAlways_after
    | with_reducible apply State.onEnergy_after
    | with_reducible apply State.each_after
    | with_reducible apply State.powerOffDomain_after
    | with_reducible apply State.setStore_after
    | with_reducible exact Within.mono ht rfl
    | with_reducible apply AfterRoute.ite
    | split
    | (with_reducible intro _)

theorem execDestageSeal_after {b T} (x0) (x1) (x2) (ht : Within 0x7fffffffffffff T) (h3 : After T b x2) :
    AfterOut T b ((@execDestageSeal x0 x1 x2)) := by
  unfold execDestageSeal
  try dsimp only
  repeat' first
    | with_reducible assumption
    | with_reducible apply onAlways_after
    | with_reducible apply State.onEnergy_after
    | with_reducible apply State.count_after
    | with_reducible apply State.wrs_after
    | with_reducible apply State.setStore_after
    | with_reducible apply State.setReg_after
    | with_reducible apply State.rearmReset_after
    | with_reducible apply State.openEntry_after
    | with_reducible apply State.wr_after
    | with_reducible apply State.goOff_after
    | with_reducible exact Within.mono ht rfl
    | exact RegIn.block ht (by decide) rfl
    | exact RegIn.all ht rfl
    | with_reducible apply FieldsIn.cons
    | with_reducible exact FieldsIn.nil
    | with_reducible apply AfterRoute.ite
    | split
    | (with_reducible intro _)

theorem execDecisionResetTimer_after {b T} (x0) (ht : Within 0x7fffffffffffff T) (h1 : After T b x0) :
    AfterOut T b ((@execDecisionResetTimer x0)) := by
  unfold execDecisionResetTimer
  try dsimp only
  repeat' first
    | with_reducible assumption
    | with_reducible apply onAlways_after
    | with_reducible apply State.rearmReset_after
    | with_reducible apply State.openEntry_after
    | with_reducible apply State.count_after
    | with_reducible exact Within.mono ht rfl
    | exact RegIn.block ht (by decide) rfl
    | exact RegIn.all ht rfl
    | with_reducible apply AfterRoute.ite
    | split
    | (with_reducible intro _)

theorem State.loadMirror_after {b T} (x0) (ht : Within 0x1000000c00 T) (h1 : After T b x0) :
    After T b (@State.loadMirror x0) := by
  unfold State.loadMirror
  try dsimp only
  repeat' first
    | with_reducible assumption
    | with_reducible apply State.onStore_after
    | with_reducible apply State.onEnergy_after
    | with_reducible apply State.each_after
    | with_reducible apply State.setReg_after
    | with_reducible exact Within.mono ht rfl
    | exact RegIn.block ht (by decide) rfl
    | with_reducible apply AfterRoute.ite
    | split
    | (with_reducible intro _)
    | with_reducible apply AfterOut.ofNext
    | with_reducible apply AfterOpt.ofSome
    | with_reducible exact AfterOpt.ofNone
    | (with_reducible refine After.ofPair (by assumption) ?_)
    | (with_reducible refine After.ofTriple (by assumption) ?_)
    | (with_reducible refine After.ofOpt (by assumption) ?_)
    | with_reducible apply AfterSome.ofSome
    | with_reducible apply AfterRoute.ofSome
    | with_reducible exact AfterRoute.ofNone
    | with_reducible exact AfterSome.ofNone
    | with_reducible apply AfterEx.ofOk
    | with_reducible exact AfterEx.ofError
    | (with_reducible refine After.ofSealed (by assumption) ?_)
    | (with_reducible refine After.ofOkPair (by assumption) ?_)
    | (with_reducible refine After.ofOk (by assumption) ?_)
    | with_reducible apply After.fold

theorem State.loadMeta_after {b T} (x0) (x1) (ht : Within 0x1000000600 T) (h1 : After T b x0) :
    After T b (@State.loadMeta x0 x1) := by
  unfold State.loadMeta
  try dsimp only
  repeat' first
    | with_reducible assumption
    | with_reducible apply State.onStore_after
    | with_reducible apply State.onHost_after
    | with_reducible apply State.each_after
    | with_reducible apply State.setReg_after
    | with_reducible exact Within.mono ht rfl
    | exact RegIn.block ht (by decide) rfl
    | with_reducible apply AfterRoute.ite
    | split
    | (with_reducible intro _)
    | with_reducible apply AfterOut.ofNext
    | with_reducible apply AfterOpt.ofSome
    | with_reducible exact AfterOpt.ofNone
    | (with_reducible refine After.ofPair (by assumption) ?_)
    | (with_reducible refine After.ofTriple (by assumption) ?_)
    | (with_reducible refine After.ofOpt (by assumption) ?_)
    | with_reducible apply AfterSome.ofSome
    | with_reducible apply AfterRoute.ofSome
    | with_reducible exact AfterRoute.ofNone
    | with_reducible exact AfterSome.ofNone
    | with_reducible apply AfterEx.ofOk
    | with_reducible exact AfterEx.ofError
    | (with_reducible refine After.ofSealed (by assumption) ?_)
    | (with_reducible refine After.ofOkPair (by assumption) ?_)
    | (with_reducible refine After.ofOk (by assumption) ?_)
    | with_reducible apply After.fold

theorem State.showImages_after {b T} (x0) (ht : Within 0x4000000000 T) (h1 : After T b x0) :
    After T b (@State.showImages x0) := by
  unfold State.showImages
  try dsimp only
  repeat' first
    | with_reducible assumption
    | with_reducible apply State.wr_after
    | with_reducible apply State.setReg_after
    | with_reducible exact Within.mono ht rfl
    | exact RegIn.block ht (by decide) rfl
    | with_reducible apply AfterRoute.ite
    | split

theorem execVaultSelfCheck_after {b T} (x0) (ht : Within 0x5000000c00 T) (h1 : After T b x0) :
    AfterOut T b ((@execVaultSelfCheck x0)) := by
  unfold execVaultSelfCheck
  try dsimp only
  repeat' first
    | with_reducible assumption
    | with_reducible apply onSoc_after
    | with_reducible apply State.showImages_after
    | with_reducible apply State.wr_after
    | with_reducible apply State.loadMirror_after
    | with_reducible exact Within.mono ht rfl
    | exact RegIn.block ht (by decide) rfl
    | with_reducible apply AfterRoute.ite
    | split
    | (with_reducible intro _)

theorem execVaultRestore_after {b T} (x0) (x1) (ht : Within 0x60345011000ec0 T) (h2 : After T b x1) :
    AfterOut T b ((@execVaultRestore x0 x1)) := by
  unfold execVaultRestore
  try dsimp only
  repeat' first
    | with_reducible assumption
    | with_reducible apply onSoc_after
    | with_reducible apply State.each_after
    | with_reducible apply State.plainFault_after
    | with_reducible apply State.onEnergy_after
    | with_reducible apply State.wr_after
    | with_reducible apply State.loadMirror_after
    | with_reducible apply State.loadMeta_after
    | with_reducible apply State.emit_after
    | with_reducible exact Within.mono ht rfl
    | exact RegIn.block ht (by decide) rfl
    | with_reducible apply AfterRoute.ite
    | split
    | (with_reducible intro _)

theorem State.retireImage_after {b T} (x0) (ht : Within 0x4000000800 T) (h1 : After T b x0) :
    After T b (@State.retireImage x0) := by
  unfold State.retireImage
  try dsimp only
  repeat' first
    | with_reducible assumption
    | with_reducible apply State.wr_after
    | with_reducible apply State.onEnergy_after
    | with_reducible exact Within.mono ht rfl
    | exact RegIn.block ht (by decide) rfl
    | with_reducible apply AfterRoute.ite
    | split

theorem State.tryEndRestore_after {b T} (x0) (ht : Within 0x4000000800 T) (h1 : After T b x0) :
    After T b (@State.tryEndRestore x0) := by
  unfold State.tryEndRestore
  try dsimp only
  repeat' first
    | with_reducible assumption
    | with_reducible apply State.count_after
    | with_reducible apply State.wr_after
    | with_reducible apply State.retireImage_after
    | with_reducible exact Within.mono ht rfl
    | exact RegIn.block ht (by decide) rfl
    | with_reducible apply AfterRoute.ite
    | split

theorem State.decideSections_after {b T} (x0) (x1) (ht : Within 0x4000000800 T) (h1 : After T b x0) :
    After T b (@State.decideSections x0 x1) := by
  unfold State.decideSections
  try dsimp only
  repeat' first
    | with_reducible assumption
    | with_reducible apply State.tryEndRestore_after
    | with_reducible apply State.onEnergy_after
    | with_reducible exact Within.mono ht rfl
    | with_reducible apply AfterRoute.ite
    | split

theorem execSectionSummary_after {b T} (x0) (x1) (ht : Within 0x4000000800 T) (h2 : After T b x1) :
    AfterOut T b ((@execSectionSummary x0 x1)) := by
  unfold execSectionSummary
  try dsimp only
  repeat' first
    | with_reducible assumption
    | with_reducible apply onSoc_after
    | with_reducible apply State.decideSections_after
    | with_reducible exact Within.mono ht rfl
    | with_reducible apply AfterRoute.ite
    | split
    | (with_reducible intro _)

theorem execSummaryTimeout_after {b T} (x0) (ht : Within 0x4000000800 T) (h1 : After T b x0) :
    AfterOut T b ((@execSummaryTimeout x0)) := by
  unfold execSummaryTimeout
  try dsimp only
  repeat' first
    | with_reducible assumption
    | with_reducible apply onSoc_after
    | with_reducible apply State.decideSections_after
    | with_reducible exact Within.mono ht rfl
    | with_reducible apply AfterRoute.ite
    | split
    | (with_reducible intro _)

theorem State.takeCopy_after {b T} (x0) (x1) (ht : Within 0x4000000400 T) (h1 : After T b x0) :
    After T b (@State.takeCopy x0 x1) := by
  unfold State.takeCopy
  try dsimp only
  repeat' first
    | with_reducible assumption
    | with_reducible apply State.showDirty_after
    | with_reducible apply State.onStore_after
    | with_reducible exact Within.mono ht rfl
    | exact RegIn.block ht (by decide) rfl
    | with_reducible apply AfterRoute.ite
    | split
    | (with_reducible intro _)
    | with_reducible apply AfterOut.ofNext
    | with_reducible apply AfterOpt.ofSome
    | with_reducible exact AfterOpt.ofNone
    | (with_reducible refine After.ofPair (by assumption) ?_)
    | (with_reducible refine After.ofTriple (by assumption) ?_)
    | (with_reducible refine After.ofOpt (by assumption) ?_)
    | with_reducible apply AfterSome.ofSome
    | with_reducible apply AfterRoute.ofSome
    | with_reducible exact AfterRoute.ofNone
    | with_reducible exact AfterSome.ofNone
    | with_reducible apply AfterEx.ofOk
    | with_reducible exact AfterEx.ofError
    | (with_reducible refine After.ofSealed (by assumption) ?_)
    | (with_reducible refine After.ofOkPair (by assumption) ?_)
    | (with_reducible refine After.ofOk (by assumption) ?_)
    | with_reducible apply After.fold

theorem State.adoptEntry_after {b T} (x0) (x1) (ht : Within 0x40025810000c00 T) (h1 : After T b x0) :
    After T b (@State.adoptEntry x0 x1) := by
  unfold State.adoptEntry
  try dsimp only
  repeat' first
    | with_reducible assumption
    | with_reducible apply State.onStore_after
    | with_reducible apply State.journalRecord_after
    | with_reducible apply State.finishEntry_after
    | with_reducible exact Within.mono ht rfl
    | exact RegIn.block ht (by decide) rfl
    | with_reducible apply AfterRoute.ite
    | split
    | (with_reducible intro _)
    | with_reducible apply AfterOut.ofNext
    | with_reducible apply AfterOpt.ofSome
    | with_reducible exact AfterOpt.ofNone
    | (with_reducible refine After.ofPair (by assumption) ?_)
    | (with_reducible refine After.ofTriple (by assumption) ?_)
    | (with_reducible refine After.ofOpt (by assumption) ?_)
    | with_reducible apply AfterSome.ofSome
    | with_reducible apply AfterRoute.ofSome
    | with_reducible exact AfterRoute.ofNone
    | with_reducible exact AfterSome.ofNone
    | with_reducible apply AfterEx.ofOk
    | with_reducible exact AfterEx.ofError
    | (with_reducible refine After.ofSealed (by assumption) ?_)
    | (with_reducible refine After.ofOkPair (by assumption) ?_)
    | (with_reducible refine After.ofOk (by assumption) ?_)
    | with_reducible apply After.fold

theorem State.finishGroup_after {b T} (x0) (x1) (ht : Within 0x40025810000c00 T) (h1 : After T b x0) :
    After T b (@State.finishGroup x0 x1) := by
  unfold State.finishGroup
  try dsimp only
  repeat' first
    | with_reducible assumption
    | with_reducible apply State.each_after
    | with_reducible apply State.finishEntry_after
    | with_reducible apply State.adoptEntry_after
    | with_reducible apply State.closeStripe_after
    | with_reducible apply State.accumulate_after
    | with_reducible exact Within.mono ht rfl
    | with_reducible apply AfterRoute.ite
    | split
    | (with_reducible intro _)

theorem execRestoreInstall_after {b T} (x0) (x1) (x2) (ht : Within 0x6036591908bec1 T) (h3 : After T b x2) :
    AfterOut T b ((@execRestoreInstall x0 x1 x2)) := by
  unfold execRestoreInstall
  try dsimp only
  repeat' first
    | with_reducible assumption
    | with_reducible apply onData_after
    | with_reducible apply State.each_after
    | with_reducible apply State.takeCopy_after
    | with_reducible apply State.onEnergy_after
    | with_reducible apply State.tryEndRestore_after
    | with_reducible apply State.finishGroup_after
    | with_reducible exact Within.mono ht rfl
    | with_reducible apply AfterRoute.ite
    | split
    | (with_reducible intro _)

theorem execVaultRetire_after {b T} (x0) (ht : Within 0x4000000800 T) (h1 : After T b x0) :
    AfterOut T b ((@execVaultRetire x0)) := by
  unfold execVaultRetire
  try dsimp only
  repeat' first
    | with_reducible assumption
    | with_reducible apply onSoc_after
    | with_reducible apply State.retireImage_after
    | with_reducible exact Within.mono ht rfl
    | with_reducible apply AfterRoute.ite
    | split
    | (with_reducible intro _)

theorem execVaultFault_after {b T} (x0) (ht : Within 0x603440110000c0 T) (h1 : After T b x0) :
    AfterOut T b ((@execVaultFault x0)) := by
  unfold execVaultFault
  try dsimp only
  repeat' first
    | with_reducible assumption
    | with_reducible apply onSoc_after
    | with_reducible apply State.plainFault_after
    | with_reducible apply State.wr_after
    | with_reducible exact Within.mono ht rfl
    | exact RegIn.block ht (by decide) rfl
    | with_reducible apply AfterRoute.ite
    | split
    | (with_reducible intro _)

theorem State.loadSet_after {b T} (x0) (x1) (ht : Within 0x800000000 T) (h1 : After T b x0) : After T b (State.loadSet x0 x1) := by
  unfold State.loadSet
  dsimp only
  split
  · exact h1
  have key : ∀ (l : List RegCell) s, After T b s → (∀ c ∈ l, RegIn c.addr T) →
      After T b (l.foldl (fun s c => s.setReg c.addr c.val) s) := by
    intro l
    induction l with
    | nil => exact fun s h _ => h
    | cons c l ih =>
      exact fun s h r => ih _ (State.setReg_after _ _ _ (r c List.mem_cons_self) h) fun d m => r d (List.mem_cons_of_mem c m)
  refine key _ _ h1 fun c m => ?_
  have k := (List.mem_filter.1 m).2
  simp only [Bool.and_eq_true, decide_eq_true_eq] at k
  obtain ⟨i, e⟩ := Nat.exists_eq_add_of_le k.1
  have g : i < 256 := by
    have := k.2
    rw [e] at this
    exact Nat.lt_of_add_lt_add_left this
  rw [e]
  exact RegIn.word (by omega) ht (by omega) rfl

theorem State.ownKey_after {b T} (x0) (ht : Within 0x10000000001 T) (h1 : After T b x0) :
    After T b (Prod.snd (@State.ownKey x0)) := by
  unfold State.ownKey
  try dsimp only
  repeat' first
    | with_reducible assumption
    | with_reducible apply State.random_after
    | with_reducible apply State.setReg_after
    | with_reducible apply State.emit_after
    | with_reducible exact Within.mono ht rfl
    | exact RegIn.block ht (by decide) rfl
    | with_reducible apply AfterRoute.ite
    | split
    | (with_reducible intro _)
    | with_reducible apply AfterOut.ofNext
    | with_reducible apply AfterOpt.ofSome
    | with_reducible exact AfterOpt.ofNone
    | (with_reducible refine After.ofPair (by assumption) ?_)
    | (with_reducible refine After.ofTriple (by assumption) ?_)
    | (with_reducible refine After.ofOpt (by assumption) ?_)
    | with_reducible apply AfterSome.ofSome
    | with_reducible apply AfterRoute.ofSome
    | with_reducible exact AfterRoute.ofNone
    | with_reducible exact AfterSome.ofNone
    | with_reducible apply AfterEx.ofOk
    | with_reducible exact AfterEx.ofError
    | (with_reducible refine After.ofSealed (by assumption) ?_)
    | (with_reducible refine After.ofOkPair (by assumption) ?_)
    | (with_reducible refine After.ofOk (by assumption) ?_)
    | with_reducible apply After.fold

theorem State.registerOn_after {b T} (x0) (x1) (ht : Within 0x10000200001 T) (h1 : After T b x0) :
    After T b (@State.registerOn x0 x1) := by
  unfold State.registerOn
  try dsimp only
  repeat' first
    | with_reducible assumption
    | with_reducible apply State.ownKey_after
    | with_reducible apply State.onToken_after
    | with_reducible apply State.emit_after
    | with_reducible exact Within.mono ht rfl
    | exact RegIn.block ht (by decide) rfl
    | with_reducible apply AfterRoute.ite
    | split
    | (with_reducible intro _)
    | with_reducible apply AfterOut.ofNext
    | with_reducible apply AfterOpt.ofSome
    | with_reducible exact AfterOpt.ofNone
    | (with_reducible refine After.ofPair (by assumption) ?_)
    | (with_reducible refine After.ofTriple (by assumption) ?_)
    | (with_reducible refine After.ofOpt (by assumption) ?_)
    | with_reducible apply AfterSome.ofSome
    | with_reducible apply AfterRoute.ofSome
    | with_reducible exact AfterRoute.ofNone
    | with_reducible exact AfterSome.ofNone
    | with_reducible apply AfterEx.ofOk
    | with_reducible exact AfterEx.ofError
    | (with_reducible refine After.ofSealed (by assumption) ?_)
    | (with_reducible refine After.ofOkPair (by assumption) ?_)
    | (with_reducible refine After.ofOk (by assumption) ?_)
    | with_reducible apply After.fold

theorem execSetAssembly_after {b T} (x0) (x1) (ht : Within 0x10800200001 T) (h2 : After T b x1) :
    AfterOut T b ((@execSetAssembly x0 x1)) := by
  unfold execSetAssembly
  try dsimp only
  repeat' first
    | with_reducible assumption
    | with_reducible apply onSoc_after
    | with_reducible apply State.loadSet_after
    | with_reducible apply State.each_after
    | with_reducible apply State.registerOn_after
    | with_reducible exact Within.mono ht rfl
    | with_reducible apply AfterRoute.ite
    | split
    | (with_reducible intro _)

theorem State.assembleSet_after {b T} (x0) (x1) (ht : Within 0x800000400 T) (h1 : After T b x0) :
    After T b (@State.assembleSet x0 x1) := by
  unfold State.assembleSet
  try dsimp only
  repeat' first
    | with_reducible assumption
    | with_reducible apply State.loadSet_after
    | with_reducible apply State.onStore_after
    | with_reducible exact Within.mono ht rfl
    | with_reducible apply AfterRoute.ite
    | split

theorem State.finishSet_after {b T} (x0) (x1) (ht : Within 0x40025810000c00 T) (h1 : After T b x0) :
    After T b (@State.finishSet x0 x1) := by
  unfold State.finishSet
  try dsimp only
  repeat' first
    | with_reducible assumption
    | with_reducible apply State.each_after
    | with_reducible apply State.finishEntry_after
    | with_reducible apply State.adoptEntry_after
    | with_reducible exact Within.mono ht rfl
    | exact RegIn.block ht (by decide) rfl
    | with_reducible apply AfterRoute.ite
    | split
    | (with_reducible intro _)
    | with_reducible apply AfterOut.ofNext
    | with_reducible apply AfterOpt.ofSome
    | with_reducible exact AfterOpt.ofNone
    | (with_reducible refine After.ofPair (by assumption) ?_)
    | (with_reducible refine After.ofTriple (by assumption) ?_)
    | (with_reducible refine After.ofOpt (by assumption) ?_)
    | with_reducible apply AfterSome.ofSome
    | with_reducible apply AfterRoute.ofSome
    | with_reducible exact AfterRoute.ofNone
    | with_reducible exact AfterSome.ofNone
    | with_reducible apply AfterEx.ofOk
    | with_reducible exact AfterEx.ofError
    | (with_reducible refine After.ofSealed (by assumption) ?_)
    | (with_reducible refine After.ofOkPair (by assumption) ?_)
    | (with_reducible refine After.ofOk (by assumption) ?_)
    | with_reducible apply After.fold

theorem State.recoverSet_after {b T} (x0) (x1) (x2) (ht : Within 0x40020810000400 T) (h1 : After T b x0) :
    After T b (@State.recoverSet x0 x1 x2) := by
  unfold State.recoverSet
  try dsimp only
  repeat' first
    | with_reducible assumption
    | with_reducible apply State.onStore_after
    | with_reducible apply State.each_after
    | with_reducible apply State.recoverEntry_after
    | with_reducible exact Within.mono ht rfl
    | exact RegIn.block ht (by decide) rfl
    | with_reducible apply AfterRoute.ite
    | split
    | (with_reducible intro _)
    | with_reducible apply AfterOut.ofNext
    | with_reducible apply AfterOpt.ofSome
    | with_reducible exact AfterOpt.ofNone
    | (with_reducible refine After.ofPair (by assumption) ?_)
    | (with_reducible refine After.ofTriple (by assumption) ?_)
    | (with_reducible refine After.ofOpt (by assumption) ?_)
    | with_reducible apply AfterSome.ofSome
    | with_reducible apply AfterRoute.ofSome
    | with_reducible exact AfterRoute.ofNone
    | with_reducible exact AfterSome.ofNone
    | with_reducible apply AfterEx.ofOk
    | with_reducible exact AfterEx.ofError
    | (with_reducible refine After.ofSealed (by assumption) ?_)
    | (with_reducible refine After.ofOkPair (by assumption) ?_)
    | (with_reducible refine After.ofOk (by assumption) ?_)
    | with_reducible apply After.fold

theorem execJournalRecovery_after {b T} (x0) (x1) (x2) (x3) (ht : Within 0x6036591908bec1 T) (h4 : After T b x3) :
    AfterOut T b (@execJournalRecovery x0 x1 x2 x3) := by
  unfold execJournalRecovery
  try dsimp only
  repeat' first
    | with_reducible assumption
    | with_reducible apply onData_after
    | with_reducible apply State.assembleSet_after
    | with_reducible apply State.finishSet_after
    | with_reducible apply State.recoverSet_after
    | with_reducible apply State.restoreLost_after
    | with_reducible apply State.noteJournal_after
    | with_reducible exact Within.mono ht rfl
    | exact RegIn.block ht (by decide) rfl
    | with_reducible apply AfterRoute.ite
    | split
    | (with_reducible intro _)
    | with_reducible apply AfterOut.ofNext
    | with_reducible apply AfterOpt.ofSome
    | with_reducible exact AfterOpt.ofNone
    | (with_reducible refine After.ofPair (by assumption) ?_)
    | (with_reducible refine After.ofTriple (by assumption) ?_)
    | (with_reducible refine After.ofOpt (by assumption) ?_)
    | with_reducible apply AfterSome.ofSome
    | with_reducible apply AfterRoute.ofSome
    | with_reducible exact AfterRoute.ofNone
    | with_reducible exact AfterSome.ofNone
    | with_reducible apply AfterEx.ofOk
    | with_reducible exact AfterEx.ofError
    | (with_reducible refine After.ofSealed (by assumption) ?_)
    | (with_reducible refine After.ofOkPair (by assumption) ?_)
    | (with_reducible refine After.ofOk (by assumption) ?_)
    | with_reducible apply After.fold

theorem State.copyPages_after {b T} (x0) (x1) (ht : Within 0x4000000800 T) (h1 : After T b x0) :
    After T b (@State.copyPages x0 x1) := by
  unfold State.copyPages
  try dsimp only
  repeat' first
    | with_reducible assumption
    | with_reducible apply State.onEnergy_after
    | with_reducible apply State.count_after
    | with_reducible apply State.wr_after
    | with_reducible exact Within.mono ht rfl
    | exact RegIn.block ht (by decide) rfl

theorem execMapMirrorCopy_after {b T} (x0) (x1) (ht : Within 0x6036591908bec1 T) (h2 : After T b x1) :
    AfterOut T b ((@execMapMirrorCopy x0 x1)) := by
  unfold execMapMirrorCopy
  try dsimp only
  repeat' first
    | with_reducible assumption
    | with_reducible apply onData_after
    | with_reducible apply State.copyPages_after
    | with_reducible exact Within.mono ht rfl
    | with_reducible apply AfterRoute.ite
    | split
    | (with_reducible intro _)

end Sys2Proof.Machine
end

