-- ==== Sys2Proof/Laws/After/Slots.lean ====
section
/-! SUPPORT. What the operations of Slots keep (Laws/After.lean). -/

set_option Elab.async false
set_option linter.all false

namespace Sys2Proof.Machine

theorem State.onHold_after {b T} (x0) (x1) (x2) (ht : Within 0x400000 T) (h1 : After T b x0) :
    After T b (@State.onHold x0 x1 x2) := by
  unfold State.onHold
  try dsimp only
  repeat' first
    | with_reducible assumption
    | with_reducible apply State.onSlots_after

theorem State.setSlot_after {b T} (x0) (x1) (x2) (ht : Within 0x20000400000 T) (h1 : After T b x0) :
    After T b (@State.setSlot x0 x1 x2) := by
  unfold State.setSlot
  try dsimp only
  repeat' first
    | with_reducible assumption
    | with_reducible apply State.onHold_after
    | with_reducible apply State.wr_after
    | with_reducible exact Within.mono ht rfl
    | exact RegIn.block ht (by decide) rfl
    | exact RegIn.block ht (by omega) (by with_reducible exact blockMask_slt rfl)
    | with_reducible apply AfterRoute.ite
    | split
    | (with_reducible intro _)
    | with_reducible apply AfterOut.ofNext
    | with_reducible apply AfterOpt.ofSome
    | with_reducible exact AfterOpt.ofNone
    | (with_reducible refine After.ofPair (by assumption) ?_)
    | (with_reducible refine After.ofTriple (by assumption) ?_)
    | (with_reducible refine After.ofOpt (by assumption) ?_)
    | with_reducible apply AfterSome.ofSome
    | with_reducible apply AfterRoute.ofSome
    | with_reducible exact AfterRoute.ofNone
    | with_reducible exact AfterSome.ofNone
    | with_reducible apply AfterEx.ofOk
    | with_reducible exact AfterEx.ofError
    | (with_reducible refine After.ofSealed (by assumption) ?_)
    | (with_reducible refine After.ofOkPair (by assumption) ?_)
    | (with_reducible refine After.ofOk (by assumption) ?_)
    | with_reducible apply After.fold

theorem State.slotEvent_after {b T} (x0) (x1) (x2) (hr : RegIn x2.addr T) (ht : Within 0x40340011000080 T) (h1 : After T b x0) :
    After T b (@State.slotEvent x0 x1 x2) := by
  unfold State.slotEvent
  try dsimp only
  repeat' first
    | with_reducible assumption
    | with_reducible apply State.wr_after
    | with_reducible apply State.notify_after

theorem State.tellPeerSlot_after {b T} (x0) (x1) (x2) (x3) (h1 : After T b x0) :
    After T b (@State.tellPeerSlot x0 x1 x2 x3) := by
  unfold State.tellPeerSlot
  try dsimp only
  repeat' first
    | with_reducible assumption
    | with_reducible apply State.emit_after

theorem State.powerSlot_after {b T} (x0) (x1) (ht : Within 0x20000400000 T) (h1 : After T b x0) :
    After T b (@State.powerSlot x0 x1) := by
  unfold State.powerSlot
  try dsimp only
  repeat' first
    | with_reducible assumption
    | with_reducible apply State.wrs_after
    | with_reducible apply State.onSlots_after
    | with_reducible apply State.emits_after
    | with_reducible apply State.setSlot_after
    | with_reducible exact Within.mono ht rfl
    | exact RegIn.block ht (by decide) rfl
    | exact RegIn.block ht (by omega) (by with_reducible exact blockMask_slt rfl)
    | with_reducible apply FieldsIn.cons
    | with_reducible exact FieldsIn.nil
    | with_reducible apply AfterRoute.ite
    | split
    | (with_reducible intro _)
    | with_reducible apply AfterOut.ofNext
    | with_reducible apply AfterOpt.ofSome
    | with_reducible exact AfterOpt.ofNone
    | (with_reducible refine After.ofPair (by assumption) ?_)
    | (with_reducible refine After.ofTriple (by assumption) ?_)
    | (with_reducible refine After.ofOpt (by assumption) ?_)
    | with_reducible apply AfterSome.ofSome
    | with_reducible apply AfterRoute.ofSome
    | with_reducible exact AfterRoute.ofNone
    | with_reducible exact AfterSome.ofNone
    | with_reducible apply AfterEx.ofOk
    | with_reducible exact AfterEx.ofError
    | (with_reducible refine After.ofSealed (by assumption) ?_)
    | (with_reducible refine After.ofOkPair (by assumption) ?_)
    | (with_reducible refine After.ofOk (by assumption) ?_)
    | with_reducible apply After.fold

theorem State.slotLinkDown_after {b T} (x0) (x1) (ht : Within 0x40360011000080 T) (h1 : After T b x0) :
    After T b (@State.slotLinkDown x0 x1) := by
  unfold State.slotLinkDown
  try dsimp only
  repeat' first
    | with_reducible assumption
    | with_reducible apply State.slotEvent_after
    | with_reducible apply State.setReg_after
    | with_reducible exact Within.mono ht rfl
    | exact RegIn.block ht (by omega) (by with_reducible exact blockMask_slt rfl)
    | with_reducible apply AfterRoute.ite
    | split

theorem State.releaseSlotPower_after {b T} (x0) (x1) (ht : Within 0x20000400001 T) (h1 : After T b x0) :
    After T b (@State.releaseSlotPower x0 x1) := by
  unfold State.releaseSlotPower
  try dsimp only
  repeat' first
    | with_reducible assumption
    | with_reducible apply State.wr_after
    | with_reducible apply State.onSlots_after
    | with_reducible apply State.draw_after
    | with_reducible apply State.emits_after
    | with_reducible exact Within.mono ht rfl
    | exact RegIn.block ht (by omega) (by with_reducible exact blockMask_slt rfl)
    | with_reducible apply AfterRoute.ite
    | split

theorem State.slotGo_after {b T} (x0) (x1) (ht : Within 0x20000400000 T) (h1 : After T b x0) :
    After T b (@State.slotGo x0 x1) := by
  unfold State.slotGo
  try dsimp only
  repeat' first
    | with_reducible assumption
    | with_reducible apply State.setSlot_after
    | with_reducible apply State.powerSlot_after
    | with_reducible apply State.onHold_after
    | with_reducible exact Within.mono ht rfl
    | exact RegIn.block ht (by decide) rfl
    | with_reducible apply AfterRoute.ite
    | split
    | (with_reducible intro _)
    | with_reducible apply AfterOut.ofNext
    | with_reducible apply AfterOpt.ofSome
    | with_reducible exact AfterOpt.ofNone
    | (with_reducible refine After.ofPair (by assumption) ?_)
    | (with_reducible refine After.ofTriple (by assumption) ?_)
    | (with_reducible refine After.ofOpt (by assumption) ?_)
    | with_reducible apply AfterSome.ofSome
    | with_reducible apply AfterRoute.ofSome
    | with_reducible exact AfterRoute.ofNone
    | with_reducible exact AfterSome.ofNone
    | with_reducible apply AfterEx.ofOk
    | with_reducible exact AfterEx.ofError
    | (with_reducible refine After.ofSealed (by assumption) ?_)
    | (with_reducible refine After.ofOkPair (by assumption) ?_)
    | (with_reducible refine After.ofOk (by assumption) ?_)
    | with_reducible apply After.fold

theorem State.slotsGo_after {b T} (x0) (ht : Within 0x20000400000 T) (h1 : After T b x0) :
    After T b (@State.slotsGo x0) := by
  unfold State.slotsGo
  try dsimp only
  repeat' first
    | with_reducible assumption
    | with_reducible apply State.each_after
    | with_reducible apply State.slotGo_after
    | with_reducible exact Within.mono ht rfl
    | with_reducible apply AfterRoute.ite
    | split
    | (with_reducible intro _)

theorem State.slotMemberFails_after {b T} (x0) (x1) (x2) (ht : Within 0x60365919083ec3 T) (h1 : After T b x0) :
    After T b (@State.slotMemberFails x0 x1 x2) := by
  unfold State.slotMemberFails
  try dsimp only
  repeat' first
    | with_reducible assumption
    | with_reducible apply State.tellPeerSlot_after
    | with_reducible apply State.failMember_after
    | with_reducible apply State.wr_after
    | with_reducible exact Within.mono ht rfl
    | exact RegIn.block ht (by omega) (by with_reducible exact blockMask_slt rfl)
    | with_reducible apply AfterRoute.ite
    | split

theorem State.containSlot_after {b T} (x0) (x1) (x2) (ht : Within 0x60365919483ec3 T) (h1 : After T b x0) :
    After T b (@State.containSlot x0 x1 x2) := by
  unfold State.containSlot
  try dsimp only
  repeat' first
    | with_reducible assumption
    | with_reducible apply State.slotLinkDown_after
    | with_reducible apply State.setSlot_after
    | with_reducible apply State.wr_after
    | with_reducible apply State.flagFault_after
    | with_reducible apply State.count_after
    | with_reducible apply State.opsLost_after
    | with_reducible apply State.slotMemberFails_after
    | with_reducible apply State.slotEvent_after
    | with_reducible exact Within.mono ht rfl
    | exact RegIn.block ht (by decide) rfl
    | exact RegIn.block ht (by omega) (by with_reducible exact blockMask_slt rfl)
    | with_reducible apply AfterRoute.ite
    | split
    | (with_reducible intro _)
    | with_reducible apply AfterOut.ofNext
    | with_reducible apply AfterOpt.ofSome
    | with_reducible exact AfterOpt.ofNone
    | (with_reducible refine After.ofPair (by assumption) ?_)
    | (with_reducible refine After.ofTriple (by assumption) ?_)
    | (with_reducible refine After.ofOpt (by assumption) ?_)
    | with_reducible apply AfterSome.ofSome
    | with_reducible apply AfterRoute.ofSome
    | with_reducible exact AfterRoute.ofNone
    | with_reducible exact AfterSome.ofNone
    | with_reducible apply AfterEx.ofOk
    | with_reducible exact AfterEx.ofError
    | (with_reducible refine After.ofSealed (by assumption) ?_)
    | (with_reducible refine After.ofOkPair (by assumption) ?_)
    | (with_reducible refine After.ofOk (by assumption) ?_)
    | with_reducible apply After.fold

theorem execPresenceChange_after {b T} (x0) (x1) (ht : Within 0x20000400000 T) (h2 : After T b x1) :
    AfterOut T b ((@execPresenceChange x0 x1)) := by
  unfold execPresenceChange
  try dsimp only
  repeat' first
    | with_reducible assumption
    | with_reducible apply onSoc_after
    | with_reducible apply State.setSlot_after
    | with_reducible exact Within.mono ht rfl
    | with_reducible apply AfterRoute.ite
    | split
    | (with_reducible intro _)

theorem execSlotDebounceBreak_after {b T} (x0) (x1) (ht : Within 0x20000400000 T) (h2 : After T b x1) :
    AfterOut T b (@execSlotDebounceBreak x0 x1) := by
  unfold execSlotDebounceBreak
  try dsimp only
  repeat' first
    | with_reducible assumption
    | with_reducible apply onSoc_after
    | with_reducible apply State.setSlot_after
    | with_reducible exact Within.mono ht rfl
    | exact RegIn.block ht (by decide) rfl
    | with_reducible apply AfterRoute.ite
    | split
    | (with_reducible intro _)
    | with_reducible apply AfterOut.ofNext
    | with_reducible apply AfterOpt.ofSome
    | with_reducible exact AfterOpt.ofNone
    | (with_reducible refine After.ofPair (by assumption) ?_)
    | (with_reducible refine After.ofTriple (by assumption) ?_)
    | (with_reducible refine After.ofOpt (by assumption) ?_)
    | with_reducible apply AfterSome.ofSome
    | with_reducible apply AfterRoute.ofSome
    | with_reducible exact AfterRoute.ofNone
    | with_reducible exact AfterSome.ofNone
    | with_reducible apply AfterEx.ofOk
    | with_reducible exact AfterEx.ofError
    | (with_reducible refine After.ofSealed (by assumption) ?_)
    | (with_reducible refine After.ofOkPair (by assumption) ?_)
    | (with_reducible refine After.ofOk (by assumption) ?_)
    | with_reducible apply After.fold

theorem execSlotDebounceEnd_after {b T} (x0) (x1) (ht : Within 0x40360011400080 T) (h2 : After T b x1) :
    AfterOut T b (@execSlotDebounceEnd x0 x1) := by
  unfold execSlotDebounceEnd
  try dsimp only
  repeat' first
    | with_reducible assumption
    | with_reducible apply onSoc_after
    | with_reducible apply State.slotGo_after
    | with_reducible apply State.slotEvent_after
    | with_reducible apply State.wr_after
    | with_reducible exact Within.mono ht rfl
    | exact RegIn.block ht (by decide) rfl
    | exact RegIn.block ht (by omega) (by with_reducible exact blockMask_slt rfl)
    | with_reducible apply AfterRoute.ite
    | split
    | (with_reducible intro _)
    | with_reducible apply AfterOut.ofNext
    | with_reducible apply AfterOpt.ofSome
    | with_reducible exact AfterOpt.ofNone
    | (with_reducible refine After.ofPair (by assumption) ?_)
    | (with_reducible refine After.ofTriple (by assumption) ?_)
    | (with_reducible refine After.ofOpt (by assumption) ?_)
    | with_reducible apply AfterSome.ofSome
    | with_reducible apply AfterRoute.ofSome
    | with_reducible exact AfterRoute.ofNone
    | with_reducible exact AfterSome.ofNone
    | with_reducible apply AfterEx.ofOk
    | with_reducible exact AfterEx.ofError
    | (with_reducible refine After.ofSealed (by assumption) ?_)
    | (with_reducible refine After.ofOkPair (by assumption) ?_)
    | (with_reducible refine After.ofOk (by assumption) ?_)
    | with_reducible apply After.fold

theorem execOffListReceived_after {b T} (x0) (x1) (ht : Within 0x20000400000 T) (h2 : After T b x1) :
    AfterOut T b ((@execOffListReceived x0 x1)) := by
  unfold execOffListReceived
  try dsimp only
  repeat' first
    | with_reducible assumption
    | with_reducible apply onSoc_after
    | with_reducible apply State.slotsGo_after
    | with_reducible apply State.onSlots_after
    | with_reducible exact Within.mono ht rfl
    | with_reducible apply AfterRoute.ite
    | split
    | (with_reducible intro _)

theorem execOffListTimeout_after {b T} (x0) (ht : Within 0x20000400000 T) (h1 : After T b x0) :
    AfterOut T b (@execOffListTimeout x0) := by
  unfold execOffListTimeout
  try dsimp only
  repeat' first
    | with_reducible assumption
    | with_reducible apply onSoc_after
    | with_reducible apply State.slotsGo_after
    | with_reducible apply State.onSlots_after
    | with_reducible exact Within.mono ht rfl
    | exact RegIn.block ht (by decide) rfl
    | with_reducible apply AfterRoute.ite
    | split
    | (with_reducible intro _)
    | with_reducible apply AfterOut.ofNext
    | with_reducible apply AfterOpt.ofSome
    | with_reducible exact AfterOpt.ofNone
    | (with_reducible refine After.ofPair (by assumption) ?_)
    | (with_reducible refine After.ofTriple (by assumption) ?_)
    | (with_reducible refine After.ofOpt (by assumption) ?_)
    | with_reducible apply AfterSome.ofSome
    | with_reducible apply AfterRoute.ofSome
    | with_reducible exact AfterRoute.ofNone
    | with_reducible exact AfterSome.ofNone
    | with_reducible apply AfterEx.ofOk
    | with_reducible exact AfterEx.ofError
    | (with_reducible refine After.ofSealed (by assumption) ?_)
    | (with_reducible refine After.ofOkPair (by assumption) ?_)
    | (with_reducible refine After.ofOk (by assumption) ?_)
    | with_reducible apply After.fold

theorem execSlotPoweringEnd_after {b T} (x0) (x1) (ht : Within 0x20000400000 T) (h2 : After T b x1) :
    AfterOut T b (@execSlotPoweringEnd x0 x1) := by
  unfold execSlotPoweringEnd
  try dsimp only
  repeat' first
    | with_reducible assumption
    | with_reducible apply onSoc_after
    | with_reducible apply State.emit_after
    | with_reducible apply State.setSlot_after
    | with_reducible exact Within.mono ht rfl
    | exact RegIn.block ht (by decide) rfl
    | with_reducible apply AfterRoute.ite
    | split
    | (with_reducible intro _)
    | with_reducible apply AfterOut.ofNext
    | with_reducible apply AfterOpt.ofSome
    | with_reducible exact AfterOpt.ofNone
    | (with_reducible refine After.ofPair (by assumption) ?_)
    | (with_reducible refine After.ofTriple (by assumption) ?_)
    | (with_reducible refine After.ofOpt (by assumption) ?_)
    | with_reducible apply AfterSome.ofSome
    | with_reducible apply AfterRoute.ofSome
    | with_reducible exact AfterRoute.ofNone
    | with_reducible exact AfterSome.ofNone
    | with_reducible apply AfterEx.ofOk
    | with_reducible exact AfterEx.ofError
    | (with_reducible refine After.ofSealed (by assumption) ?_)
    | (with_reducible refine After.ofOkPair (by assumption) ?_)
    | (with_reducible refine After.ofOk (by assumption) ?_)
    | with_reducible apply After.fold

theorem execSlotLinkUp_after {b T} (x0) (x1) (x2) (ht : Within 0x603600114000c0 T) (h3 : After T b x2) :
    AfterOut T b (@execSlotLinkUp x0 x1 x2) := by
  unfold execSlotLinkUp
  try dsimp only
  repeat' first
    | with_reducible assumption
    | with_reducible apply onSoc_after
    | with_reducible apply State.setSlot_after
    | with_reducible apply State.wrs_after
    | with_reducible apply State.flagFault_after
    | with_reducible apply State.emit_after
    | with_reducible apply State.slotEvent_after
    | with_reducible exact Within.mono ht rfl
    | exact RegIn.block ht (by decide) rfl
    | exact RegIn.block ht (by omega) (by with_reducible exact blockMask_slt rfl)
    | with_reducible apply FieldsIn.cons
    | with_reducible exact FieldsIn.nil
    | with_reducible apply AfterRoute.ite
    | split
    | (with_reducible intro _)
    | with_reducible apply AfterOut.ofNext
    | with_reducible apply AfterOpt.ofSome
    | with_reducible exact AfterOpt.ofNone
    | (with_reducible refine After.ofPair (by assumption) ?_)
    | (with_reducible refine After.ofTriple (by assumption) ?_)
    | (with_reducible refine After.ofOpt (by assumption) ?_)
    | with_reducible apply AfterSome.ofSome
    | with_reducible apply AfterRoute.ofSome
    | with_reducible exact AfterRoute.ofNone
    | with_reducible exact AfterSome.ofNone
    | with_reducible apply AfterEx.ofOk
    | with_reducible exact AfterEx.ofError
    | (with_reducible refine After.ofSealed (by assumption) ?_)
    | (with_reducible refine After.ofOkPair (by assumption) ?_)
    | (with_reducible refine After.ofOk (by assumption) ?_)
    | with_reducible apply After.fold

theorem execSlotTrainingTimeout_after {b T} (x0) (x1) (ht : Within 0x20000400000 T) (h2 : After T b x1) :
    AfterOut T b (@execSlotTrainingTimeout x0 x1) := by
  unfold execSlotTrainingTimeout
  try dsimp only
  repeat' first
    | with_reducible assumption
    | with_reducible apply onSoc_after
    | with_reducible apply State.emit_after
    | with_reducible apply State.setSlot_after
    | with_reducible apply State.wr_after
    | with_reducible exact Within.mono ht rfl
    | exact RegIn.block ht (by decide) rfl
    | exact RegIn.block ht (by omega) (by with_reducible exact blockMask_slt rfl)
    | with_reducible apply AfterRoute.ite
    | split
    | (with_reducible intro _)
    | with_reducible apply AfterOut.ofNext
    | with_reducible apply AfterOpt.ofSome
    | with_reducible exact AfterOpt.ofNone
    | (with_reducible refine After.ofPair (by assumption) ?_)
    | (with_reducible refine After.ofTriple (by assumption) ?_)
    | (with_reducible refine After.ofOpt (by assumption) ?_)
    | with_reducible apply AfterSome.ofSome
    | with_reducible apply AfterRoute.ofSome
    | with_reducible exact AfterRoute.ofNone
    | with_reducible exact AfterSome.ofNone
    | with_reducible apply AfterEx.ofOk
    | with_reducible exact AfterEx.ofError
    | (with_reducible refine After.ofSealed (by assumption) ?_)
    | (with_reducible refine After.ofOkPair (by assumption) ?_)
    | (with_reducible refine After.ofOk (by assumption) ?_)
    | with_reducible apply After.fold

theorem execSlotCheckComplete_after {b T} (x0) (x1) (x2) (ht : Within 0x40370011600481 T) (h3 : After T b x2) :
    AfterOut T b (@execSlotCheckComplete x0 x1 x2) := by
  unfold execSlotCheckComplete
  try dsimp only
  repeat' first
    | with_reducible assumption
    | with_reducible apply onSoc_after
    | with_reducible apply State.onSlots_after
    | with_reducible apply State.setSlot_after
    | with_reducible apply State.wr_after
    | with_reducible apply State.onStore_after
    | with_reducible apply State.tellPeerSlot_after
    | with_reducible apply State.notify_after
    | with_reducible apply State.registerOn_after
    | with_reducible exact Within.mono ht rfl
    | exact RegIn.block ht (by decide) rfl
    | exact RegIn.block ht (by omega) (by with_reducible exact blockMask_slt rfl)
    | with_reducible apply AfterRoute.ite
    | split
    | (with_reducible intro _)
    | with_reducible apply AfterOut.ofNext
    | with_reducible apply AfterOpt.ofSome
    | with_reducible exact AfterOpt.ofNone
    | (with_reducible refine After.ofPair (by assumption) ?_)
    | (with_reducible refine After.ofTriple (by assumption) ?_)
    | (with_reducible refine After.ofOpt (by assumption) ?_)
    | with_reducible apply AfterSome.ofSome
    | with_reducible apply AfterRoute.ofSome
    | with_reducible exact AfterRoute.ofNone
    | with_reducible exact AfterSome.ofNone
    | with_reducible apply AfterEx.ofOk
    | with_reducible exact AfterEx.ofError
    | (with_reducible refine After.ofSealed (by assumption) ?_)
    | (with_reducible refine After.ofOkPair (by assumption) ?_)
    | (with_reducible refine After.ofOk (by assumption) ?_)
    | with_reducible apply After.fold

theorem State.removalOver_after {b T} (x0) (x1) (ht : Within 0x40360011400081 T) (h1 : After T b x0) :
    After T b (@State.removalOver x0 x1) := by
  unfold State.removalOver
  try dsimp only
  repeat' first
    | with_reducible assumption
    | with_reducible apply State.releaseSlotPower_after
    | with_reducible apply State.slotLinkDown_after
    | with_reducible apply State.wr_after
    | with_reducible apply State.setSlot_after
    | with_reducible apply State.tellPeerSlot_after
    | with_reducible apply State.slotEvent_after
    | with_reducible exact Within.mono ht rfl
    | exact RegIn.block ht (by decide) rfl
    | exact RegIn.block ht (by omega) (by with_reducible exact blockMask_slt rfl)
    | with_reducible apply AfterRoute.ite
    | split
    | (with_reducible intro _)
    | with_reducible apply AfterOut.ofNext
    | with_reducible apply AfterOpt.ofSome
    | with_reducible exact AfterOpt.ofNone
    | (with_reducible refine After.ofPair (by assumption) ?_)
    | (with_reducible refine After.ofTriple (by assumption) ?_)
    | (with_reducible refine After.ofOpt (by assumption) ?_)
    | with_reducible apply AfterSome.ofSome
    | with_reducible apply AfterRoute.ofSome
    | with_reducible exact AfterRoute.ofNone
    | with_reducible exact AfterSome.ofNone
    | with_reducible apply AfterEx.ofOk
    | with_reducible exact AfterEx.ofError
    | (with_reducible refine After.ofSealed (by assumption) ?_)
    | (with_reducible refine After.ofOkPair (by assumption) ?_)
    | (with_reducible refine After.ofOk (by assumption) ?_)
    | with_reducible apply After.fold

theorem State.endRemoval_after {b T} (x0) (x1) (ht : Within 0x60365919483ec3 T) (h1 : After T b x0) :
    After T b (@State.endRemoval x0 x1) := by
  unfold State.endRemoval
  try dsimp only
  repeat' first
    | with_reducible assumption
    | with_reducible apply State.tellPeerSlot_after
    | with_reducible apply State.failMemberBut_after
    | with_reducible apply State.wr_after
    | with_reducible apply State.onHold_after
    | with_reducible apply State.setSlot_after
    | with_reducible apply State.removalOver_after
    | with_reducible exact Within.mono ht rfl
    | exact RegIn.block ht (by decide) rfl
    | exact RegIn.block ht (by omega) (by with_reducible exact blockMask_slt rfl)
    | with_reducible apply AfterRoute.ite
    | split
    | (with_reducible intro _)
    | with_reducible apply AfterOut.ofNext
    | with_reducible apply AfterOpt.ofSome
    | with_reducible exact AfterOpt.ofNone
    | (with_reducible refine After.ofPair (by assumption) ?_)
    | (with_reducible refine After.ofTriple (by assumption) ?_)
    | (with_reducible refine After.ofOpt (by assumption) ?_)
    | with_reducible apply AfterSome.ofSome
    | with_reducible apply AfterRoute.ofSome
    | with_reducible exact AfterRoute.ofNone
    | with_reducible exact AfterSome.ofNone
    | with_reducible apply AfterEx.ofOk
    | with_reducible exact AfterEx.ofError
    | (with_reducible refine After.ofSealed (by assumption) ?_)
    | (with_reducible refine After.ofOkPair (by assumption) ?_)
    | (with_reducible refine After.ofOk (by assumption) ?_)
    | with_reducible apply After.fold

theorem State.endRemovals_after {b T} (x0) (ht : Within 0x40360011400081 T) (h1 : After T b x0) :
    After T b (@State.endRemovals x0) := by
  unfold State.endRemovals
  try dsimp only
  repeat' first
    | with_reducible assumption
    | with_reducible apply State.each_after
    | with_reducible apply State.removalOver_after
    | with_reducible exact Within.mono ht rfl
    | exact RegIn.block ht (by decide) rfl
    | with_reducible apply AfterRoute.ite
    | split
    | (with_reducible intro _)
    | with_reducible apply AfterOut.ofNext
    | with_reducible apply AfterOpt.ofSome
    | with_reducible exact AfterOpt.ofNone
    | (with_reducible refine After.ofPair (by assumption) ?_)
    | (with_reducible refine After.ofTriple (by assumption) ?_)
    | (with_reducible refine After.ofOpt (by assumption) ?_)
    | with_reducible apply AfterSome.ofSome
    | with_reducible apply AfterRoute.ofSome
    | with_reducible exact AfterRoute.ofNone
    | with_reducible exact AfterSome.ofNone
    | with_reducible apply AfterEx.ofOk
    | with_reducible exact AfterEx.ofError
    | (with_reducible refine After.ofSealed (by assumption) ?_)
    | (with_reducible refine After.ofOkPair (by assumption) ?_)
    | (with_reducible refine After.ofOk (by assumption) ?_)
    | with_reducible apply After.fold

theorem State.refuseRemoval_after {b T} (x0) (x1) (ht : Within 0x40360011400080 T) (h1 : After T b x0) :
    After T b (@State.refuseRemoval x0 x1) := by
  unfold State.refuseRemoval
  try dsimp only
  repeat' first
    | with_reducible assumption
    | with_reducible apply State.onHold_after
    | with_reducible apply State.slotEvent_after
    | with_reducible exact Within.mono ht rfl
    | exact RegIn.block ht (by omega) (by with_reducible exact blockMask_slt rfl)

theorem execAttentionPress_after {b T} (x0) (x1) (x2) (ht : Within 0x40360011400080 T) (h3 : After T b x2) :
    AfterOut T b (@execAttentionPress x0 x1 x2) := by
  unfold execAttentionPress
  try dsimp only
  repeat' first
    | with_reducible assumption
    | with_reducible apply onSoc_after
    | with_reducible apply State.wr_after
    | with_reducible apply State.slotEvent_after
    | with_reducible apply State.setSlot_after
    | with_reducible apply State.refuseRemoval_after
    | with_reducible apply State.onHold_after
    | with_reducible exact Within.mono ht rfl
    | exact RegIn.block ht (by decide) rfl
    | exact RegIn.block ht (by omega) (by with_reducible exact blockMask_slt rfl)
    | with_reducible apply AfterRoute.ite
    | split
    | (with_reducible intro _)
    | with_reducible apply AfterOut.ofNext
    | with_reducible apply AfterOpt.ofSome
    | with_reducible exact AfterOpt.ofNone
    | (with_reducible refine After.ofPair (by assumption) ?_)
    | (with_reducible refine After.ofTriple (by assumption) ?_)
    | (with_reducible refine After.ofOpt (by assumption) ?_)
    | with_reducible apply AfterSome.ofSome
    | with_reducible apply AfterRoute.ofSome
    | with_reducible exact AfterRoute.ofNone
    | with_reducible exact AfterSome.ofNone
    | with_reducible apply AfterEx.ofOk
    | with_reducible exact AfterEx.ofError
    | (with_reducible refine After.ofSealed (by assumption) ?_)
    | (with_reducible refine After.ofOkPair (by assumption) ?_)
    | (with_reducible refine After.ofOk (by assumption) ?_)
    | with_reducible apply After.fold

theorem execRemovalTimerEnd_after {b T} (x0) (x1) (ht : Within 0x6036591948bec3 T) (h2 : After T b x1) :
    AfterOut T b (@execRemovalTimerEnd x0 x1) := by
  unfold execRemovalTimerEnd
  try dsimp only
  repeat' first
    | with_reducible assumption
    | with_reducible apply onData_after
    | with_reducible apply State.endRemoval_after
    | with_reducible exact Within.mono ht rfl
    | exact RegIn.block ht (by decide) rfl
    | with_reducible apply AfterRoute.ite
    | split
    | (with_reducible intro _)
    | with_reducible apply AfterOut.ofNext
    | with_reducible apply AfterOpt.ofSome
    | with_reducible exact AfterOpt.ofNone
    | (with_reducible refine After.ofPair (by assumption) ?_)
    | (with_reducible refine After.ofTriple (by assumption) ?_)
    | (with_reducible refine After.ofOpt (by assumption) ?_)
    | with_reducible apply AfterSome.ofSome
    | with_reducible apply AfterRoute.ofSome
    | with_reducible exact AfterRoute.ofNone
    | with_reducible exact AfterSome.ofNone
    | with_reducible apply AfterEx.ofOk
    | with_reducible exact AfterEx.ofError
    | (with_reducible refine After.ofSealed (by assumption) ?_)
    | (with_reducible refine After.ofOkPair (by assumption) ?_)
    | (with_reducible refine After.ofOk (by assumption) ?_)
    | with_reducible apply After.fold

theorem execContainment_after {b T} (x0) (x1) (x2) (ht : Within 0x6036591948bec3 T) (h3 : After T b x2) :
    AfterOut T b ((@execContainment x0 x1 x2)) := by
  unfold execContainment
  try dsimp only
  repeat' first
    | with_reducible assumption
    | with_reducible apply onData_after
    | with_reducible apply State.containSlot_after
    | with_reducible apply State.count_after
    | with_reducible exact Within.mono ht rfl
    | exact RegIn.block ht (by omega) (by with_reducible exact blockMask_slt rfl)
    | with_reducible apply AfterRoute.ite
    | split
    | (with_reducible intro _)

theorem execSurpriseRemoval_after {b T} (x0) (x1) (ht : Within 0x6036591968bec3 T) (h2 : After T b x1) :
    AfterOut T b (@execSurpriseRemoval x0 x1) := by
  unfold execSurpriseRemoval
  try dsimp only
  repeat' first
    | with_reducible assumption
    | with_reducible apply onData_after
    | with_reducible apply State.containSlot_after
    | with_reducible apply State.slotLinkDown_after
    | with_reducible apply State.opsLost_after
    | with_reducible apply State.slotMemberFails_after
    | with_reducible apply State.wr_after
    | with_reducible apply State.setSlot_after
    | with_reducible apply State.releaseSlotPower_after
    | with_reducible apply State.onToken_after
    | with_reducible apply State.onSlots_after
    | with_reducible apply State.onStore_after
    | with_reducible apply State.slotEvent_after
    | with_reducible exact Within.mono ht rfl
    | exact RegIn.block ht (by decide) rfl
    | exact RegIn.block ht (by omega) (by with_reducible exact blockMask_slt rfl)
    | with_reducible apply AfterRoute.ite
    | split
    | (with_reducible intro _)
    | with_reducible apply AfterOut.ofNext
    | with_reducible apply AfterOpt.ofSome
    | with_reducible exact AfterOpt.ofNone
    | (with_reducible refine After.ofPair (by assumption) ?_)
    | (with_reducible refine After.ofTriple (by assumption) ?_)
    | (with_reducible refine After.ofOpt (by assumption) ?_)
    | with_reducible apply AfterSome.ofSome
    | with_reducible apply AfterRoute.ofSome
    | with_reducible exact AfterRoute.ofNone
    | with_reducible exact AfterSome.ofNone
    | with_reducible apply AfterEx.ofOk
    | with_reducible exact AfterEx.ofError
    | (with_reducible refine After.ofSealed (by assumption) ?_)
    | (with_reducible refine After.ofOkPair (by assumption) ?_)
    | (with_reducible refine After.ofOk (by assumption) ?_)
    | with_reducible apply After.fold

theorem execPeerSlotEvent_after {b T} (x0) (x1) (x2) (ht : Within 0x6037591968bec3 T) (h3 : After T b x2) :
    AfterOut T b ((@execPeerSlotEvent x0 x1 x2)) := by
  unfold execPeerSlotEvent
  try dsimp only
  repeat' first
    | with_reducible assumption
    | with_reducible apply onData_after
    | with_reducible apply State.failMember_after
    | with_reducible apply State.onSlots_after
    | with_reducible apply State.wr_after
    | with_reducible apply State.slotsGo_after
    | with_reducible apply State.registerOn_after
    | with_reducible exact Within.mono ht rfl
    | exact RegIn.block ht (by omega) (by with_reducible exact blockMask_slt rfl)
    | with_reducible apply AfterRoute.ite
    | split
    | (with_reducible intro _)

theorem State.slotCommand_after {b T} (x0) (x1) (x2) (x3) (x4) (ht : Within 0x613600110000ca T) (h1 : After T b x0) (h5 : ∀ y0, After T b y0 → After T b (Prod.snd (x4 y0))) :
    After T b (@State.slotCommand x0 x1 x2 x3 x4) := by
  unfold State.slotCommand
  try dsimp only
  repeat' first
    | with_reducible assumption
    | with_reducible apply h5
    | with_reducible apply State.commandWrite_after
    | with_reducible apply State.wrs_after
    | with_reducible exact Within.mono ht rfl
    | exact RegIn.block ht (by decide) rfl
    | exact RegIn.block ht (by omega) (by with_reducible exact blockMask_slt rfl)
    | exact NotWall (by omega) (by omega)
    | with_reducible apply FieldsIn.cons
    | with_reducible exact FieldsIn.nil
    | with_reducible apply AfterRoute.ite
    | split
    | (with_reducible intro _)
    | with_reducible apply AfterOut.ofNext
    | with_reducible apply AfterOpt.ofSome
    | with_reducible exact AfterOpt.ofNone
    | (with_reducible refine After.ofPair (by assumption) ?_)
    | (with_reducible refine After.ofTriple (by assumption) ?_)
    | (with_reducible refine After.ofOpt (by assumption) ?_)
    | with_reducible apply AfterSome.ofSome
    | with_reducible apply AfterRoute.ofSome
    | with_reducible exact AfterRoute.ofNone
    | with_reducible exact AfterSome.ofNone
    | with_reducible apply AfterEx.ofOk
    | with_reducible exact AfterEx.ofError
    | (with_reducible refine After.ofSealed (by assumption) ?_)
    | (with_reducible refine After.ofOkPair (by assumption) ?_)
    | (with_reducible refine After.ofOk (by assumption) ?_)
    | with_reducible apply After.fold

theorem execSlotPowerOn_after {b T} (x0) (x1) (x2) (ht : Within 0x613600114000ca T) (h3 : After T b x2) :
    AfterOut T b ((@execSlotPowerOn x0 x1 x2)) := by
  unfold execSlotPowerOn
  try dsimp only
  repeat' first
    | with_reducible assumption
    | with_reducible apply onSoc_after
    | with_reducible apply State.slotCommand_after
    | with_reducible apply State.tellPeerSlot_after
    | with_reducible apply State.powerSlot_after
    | with_reducible exact Within.mono ht rfl
    | with_reducible apply AfterRoute.ite
    | split
    | (with_reducible intro _)

theorem State.slotOffCommand_after {b T} (x0) (x1) (x2) (ht : Within 0x60365919483ec3 T) (h1 : After T b x0) :
    After T b (Prod.snd (@State.slotOffCommand x0 x1 x2)) := by
  unfold State.slotOffCommand
  try dsimp only
  repeat' first
    | with_reducible assumption
    | with_reducible apply State.refuseRemoval_after
    | with_reducible apply State.endRemoval_after
    | with_reducible exact Within.mono ht rfl
    | exact RegIn.block ht (by decide) rfl
    | with_reducible apply AfterRoute.ite
    | split
    | (with_reducible intro _)
    | with_reducible apply AfterOut.ofNext
    | with_reducible apply AfterOpt.ofSome
    | with_reducible exact AfterOpt.ofNone
    | (with_reducible refine After.ofPair (by assumption) ?_)
    | (with_reducible refine After.ofTriple (by assumption) ?_)
    | (with_reducible refine After.ofOpt (by assumption) ?_)
    | with_reducible apply AfterSome.ofSome
    | with_reducible apply AfterRoute.ofSome
    | with_reducible exact AfterRoute.ofNone
    | with_reducible exact AfterSome.ofNone
    | with_reducible apply AfterEx.ofOk
    | with_reducible exact AfterEx.ofError
    | (with_reducible refine After.ofSealed (by assumption) ?_)
    | (with_reducible refine After.ofOkPair (by assumption) ?_)
    | (with_reducible refine After.ofOk (by assumption) ?_)
    | with_reducible apply After.fold

theorem execSlotOff_after {b T} (x0) (x1) (x2) (ht : Within 0x6136591948becb T) (h3 : After T b x2) :
    AfterOut T b ((@execSlotOff x0 x1 x2)) := by
  unfold execSlotOff
  try dsimp only
  repeat' first
    | with_reducible assumption
    | with_reducible apply onData_after
    | with_reducible apply State.slotCommand_after
    | with_reducible apply State.slotOffCommand_after
    | with_reducible exact Within.mono ht rfl
    | with_reducible apply AfterRoute.ite
    | split
    | (with_reducible intro _)

theorem execSlotForcedOff_after {b T} (x0) (x1) (x2) (ht : Within 0x6136591948becb T) (h3 : After T b x2) :
    AfterOut T b ((@execSlotForcedOff x0 x1 x2)) := by
  unfold execSlotForcedOff
  try dsimp only
  repeat' first
    | with_reducible assumption
    | with_reducible apply onData_after
    | with_reducible apply State.slotCommand_after
    | with_reducible apply State.slotOffCommand_after
    | with_reducible exact Within.mono ht rfl
    | with_reducible apply AfterRoute.ite
    | split
    | (with_reducible intro _)

theorem execSlotRetrain_after {b T} (x0) (x1) (x2) (ht : Within 0x613600114000ca T) (h3 : After T b x2) :
    AfterOut T b ((@execSlotRetrain x0 x1 x2)) := by
  unfold execSlotRetrain
  try dsimp only
  repeat' first
    | with_reducible assumption
    | with_reducible apply onSoc_after
    | with_reducible apply State.slotCommand_after
    | with_reducible apply State.emits_after
    | with_reducible apply State.setSlot_after
    | with_reducible apply State.slotLinkDown_after
    | with_reducible exact Within.mono ht rfl
    | with_reducible apply AfterRoute.ite
    | split
    | (with_reducible intro _)

theorem execSlotPrepare_after {b T} (x0) (x1) (x2) (x3) (x4) (ht : Within 0x613600114000ca T) (h5 : After T b x4) :
    AfterOut T b (@execSlotPrepare x0 x1 x2 x3 x4) := by
  unfold execSlotPrepare
  try dsimp only
  repeat' first
    | with_reducible assumption
    | with_reducible apply onSoc_after
    | with_reducible apply State.slotCommand_after
    | with_reducible apply State.emit_after
    | with_reducible apply State.setSlot_after
    | with_reducible exact Within.mono ht rfl
    | exact RegIn.block ht (by decide) rfl
    | with_reducible apply AfterRoute.ite
    | split
    | (with_reducible intro _)
    | with_reducible apply AfterOut.ofNext
    | with_reducible apply AfterOpt.ofSome
    | with_reducible exact AfterOpt.ofNone
    | (with_reducible refine After.ofPair (by assumption) ?_)
    | (with_reducible refine After.ofTriple (by assumption) ?_)
    | (with_reducible refine After.ofOpt (by assumption) ?_)
    | with_reducible apply AfterSome.ofSome
    | with_reducible apply AfterRoute.ofSome
    | with_reducible exact AfterRoute.ofNone
    | with_reducible exact AfterSome.ofNone
    | with_reducible apply AfterEx.ofOk
    | with_reducible exact AfterEx.ofError
    | (with_reducible refine After.ofSealed (by assumption) ?_)
    | (with_reducible refine After.ofOkPair (by assumption) ?_)
    | (with_reducible refine After.ofOk (by assumption) ?_)
    | with_reducible apply After.fold

theorem State.resendOp_after {b T} (x0) (x1) (ht : Within 0x40020010000400 T) (h1 : After T b x0) :
    After T b (@State.resendOp x0 x1) := by
  unfold State.resendOp
  try dsimp only
  repeat' first
    | with_reducible assumption
    | with_reducible apply State.postedTo_after
    | with_reducible apply State.emit_after
    | with_reducible apply State.count_after
    | with_reducible apply State.onStore_after
    | with_reducible exact Within.mono ht rfl
    | exact RegIn.block ht (by decide) rfl
    | exact RegIn.block ht (by omega) (by with_reducible exact blockMask_slt rfl)
    | with_reducible apply AfterRoute.ite
    | split
    | (with_reducible intro _)
    | with_reducible apply AfterOut.ofNext
    | with_reducible apply AfterOpt.ofSome
    | with_reducible exact AfterOpt.ofNone
    | (with_reducible refine After.ofPair (by assumption) ?_)
    | (with_reducible refine After.ofTriple (by assumption) ?_)
    | (with_reducible refine After.ofOpt (by assumption) ?_)
    | with_reducible apply AfterSome.ofSome
    | with_reducible apply AfterRoute.ofSome
    | with_reducible exact AfterRoute.ofNone
    | with_reducible exact AfterSome.ofNone
    | with_reducible apply AfterEx.ofOk
    | with_reducible exact AfterEx.ofError
    | (with_reducible refine After.ofSealed (by assumption) ?_)
    | (with_reducible refine After.ofOkPair (by assumption) ?_)
    | (with_reducible refine After.ofOk (by assumption) ?_)
    | with_reducible apply After.fold

theorem execMemberCommandTimeout_after {b T} (x0) (x1) (ht : Within 0x6036591948bec3 T) (h2 : After T b x1) :
    AfterOut T b (@execMemberCommandTimeout x0 x1) := by
  unfold execMemberCommandTimeout
  try dsimp only
  repeat' first
    | with_reducible assumption
    | with_reducible apply onData_after
    | with_reducible apply State.emit_after
    | with_reducible apply State.count_after
    | with_reducible apply State.resendOp_after
    | with_reducible apply State.slotMemberFails_after
    | with_reducible apply State.opLost_after
    | with_reducible apply State.containSlot_after
    | with_reducible exact Within.mono ht rfl
    | exact RegIn.block ht (by decide) rfl
    | exact RegIn.block ht (by omega) (by with_reducible exact blockMask_slt rfl)
    | with_reducible apply AfterRoute.ite
    | split
    | (with_reducible intro _)
    | with_reducible apply AfterOut.ofNext
    | with_reducible apply AfterOpt.ofSome
    | with_reducible exact AfterOpt.ofNone
    | (with_reducible refine After.ofPair (by assumption) ?_)
    | (with_reducible refine After.ofTriple (by assumption) ?_)
    | (with_reducible refine After.ofOpt (by assumption) ?_)
    | with_reducible apply AfterSome.ofSome
    | with_reducible apply AfterRoute.ofSome
    | with_reducible exact AfterRoute.ofNone
    | with_reducible exact AfterSome.ofNone
    | with_reducible apply AfterEx.ofOk
    | with_reducible exact AfterEx.ofError
    | (with_reducible refine After.ofSealed (by assumption) ?_)
    | (with_reducible refine After.ofOkPair (by assumption) ?_)
    | (with_reducible refine After.ofOk (by assumption) ?_)
    | with_reducible apply After.fold

theorem State.walkWriteFailed_after {b T} (x0) (x1) (ht : Within 0x80000 T) (h1 : After T b x0) :
    After T b (@State.walkWriteFailed x0 x1) := by
  unfold State.walkWriteFailed
  try dsimp only
  repeat' first
    | with_reducible assumption
    | with_reducible apply State.onAdmin_after
    | with_reducible exact Within.mono ht rfl
    | with_reducible apply AfterRoute.ite
    | split

theorem execMemberCommandError_after {b T} (x0) (x1) (ht : Within 0x6036591908bec3 T) (h2 : After T b x1) :
    AfterOut T b ((@execMemberCommandError x0 x1)) := by
  unfold execMemberCommandError
  try dsimp only
  repeat' first
    | with_reducible assumption
    | with_reducible apply onData_after
    | with_reducible apply State.resendOp_after
    | with_reducible apply State.opLost_after
    | with_reducible apply State.walkWriteFailed_after
    | with_reducible apply State.slotMemberFails_after
    | with_reducible exact Within.mono ht rfl
    | with_reducible apply AfterRoute.ite
    | split
    | (with_reducible intro _)

theorem execSidebandPoll_after {b T} (x0) (x1) (x2) (ht : Within 0x603600114000c0 T) (h3 : After T b x2) :
    AfterOut T b ((@execSidebandPoll x0 x1 x2)) := by
  unfold execSidebandPoll
  try dsimp only
  repeat' first
    | with_reducible assumption
    | with_reducible apply onSoc_after
    | with_reducible apply State.onHold_after
    | with_reducible apply State.wrs_after
    | with_reducible apply State.count_after
    | with_reducible apply State.wr_after
    | with_reducible apply State.slotEvent_after
    | with_reducible apply State.flagFault_after
    | with_reducible exact Within.mono ht rfl
    | exact RegIn.block ht (by omega) (by with_reducible exact blockMask_slt rfl)
    | with_reducible apply FieldsIn.cons
    | with_reducible exact FieldsIn.nil
    | with_reducible apply AfterRoute.ite
    | split
    | (with_reducible intro _)

end Sys2Proof.Machine
end

