-- ==== Sys2Proof/Laws/After/LeadToken.lean ====
section
/-! SUPPORT. What the operations of LeadToken keep (Laws/After.lean). -/

set_option Elab.async false
set_option linter.all false

namespace Sys2Proof.Machine

theorem State.noteTokens_after {b T} (x0) (x1) (ht : Within 0x603400112080c0 T) (h1 : After T b x0) :
    After T b (@State.noteTokens x0 x1) := by
  unfold State.noteTokens
  try dsimp only
  repeat' first
    | with_reducible assumption
    | with_reducible apply State.each_after
    | with_reducible apply State.tagMismatch_after
    | with_reducible apply State.onGroup_after
    | with_reducible apply State.raiseHighWater_after
    | with_reducible exact Within.mono ht rfl
    | exact RegIn.block ht (by decide) rfl
    | with_reducible apply AfterRoute.ite
    | split
    | (with_reducible intro _)
    | with_reducible apply AfterOut.ofNext
    | with_reducible apply AfterOpt.ofSome
    | with_reducible exact AfterOpt.ofNone
    | (with_reducible refine After.ofPair (by assumption) ?_)
    | (with_reducible refine After.ofTriple (by assumption) ?_)
    | (with_reducible refine After.ofOpt (by assumption) ?_)
    | with_reducible apply AfterSome.ofSome
    | with_reducible apply AfterRoute.ofSome
    | with_reducible exact AfterRoute.ofNone
    | with_reducible exact AfterSome.ofNone
    | with_reducible apply AfterEx.ofOk
    | with_reducible exact AfterEx.ofError
    | (with_reducible refine After.ofSealed (by assumption) ?_)
    | (with_reducible refine After.ofOkPair (by assumption) ?_)
    | (with_reducible refine After.ofOk (by assumption) ?_)
    | with_reducible apply After.fold

theorem State.keepReads_after {b T} (x0) (x1) (x2) (ht : Within 0x200000 T) (h1 : After T b x0) :
    After T b (@State.keepReads x0 x1 x2) := by
  unfold State.keepReads
  try dsimp only
  repeat' first
    | with_reducible assumption
    | with_reducible apply State.onGroup_after
    | with_reducible exact Within.mono ht rfl
    | exact RegIn.block ht (by decide) rfl
    | with_reducible apply AfterRoute.ite
    | split
    | (with_reducible intro _)
    | with_reducible apply AfterOut.ofNext
    | with_reducible apply AfterOpt.ofSome
    | with_reducible exact AfterOpt.ofNone
    | (with_reducible refine After.ofPair (by assumption) ?_)
    | (with_reducible refine After.ofTriple (by assumption) ?_)
    | (with_reducible refine After.ofOpt (by assumption) ?_)
    | with_reducible apply AfterSome.ofSome
    | with_reducible apply AfterRoute.ofSome
    | with_reducible exact AfterRoute.ofNone
    | with_reducible exact AfterSome.ofNone
    | with_reducible apply AfterEx.ofOk
    | with_reducible exact AfterEx.ofError
    | (with_reducible refine After.ofSealed (by assumption) ?_)
    | (with_reducible refine After.ofOkPair (by assumption) ?_)
    | (with_reducible refine After.ofOk (by assumption) ?_)
    | with_reducible apply After.fold

theorem State.sendToken_after {b T} (x0) (x1) (x2) (x3) (x4) (ht : Within 0x100000208000 T) (h1 : After T b x0) :
    After T b (@State.sendToken x0 x1 x2 x3 x4) := by
  unfold State.sendToken
  try dsimp only
  repeat' first
    | with_reducible assumption
    | with_reducible apply State.sealRecord_after
    | with_reducible apply State.refuseCounter_after
    | with_reducible apply State.onGroup_after
    | with_reducible apply State.emit_after
    | with_reducible exact Within.mono ht rfl
    | exact RegIn.block ht (by decide) rfl
    | with_reducible apply AfterRoute.ite
    | split
    | (with_reducible intro _)
    | with_reducible apply AfterOut.ofNext
    | with_reducible apply AfterOpt.ofSome
    | with_reducible exact AfterOpt.ofNone
    | (with_reducible refine After.ofPair (by assumption) ?_)
    | (with_reducible refine After.ofTriple (by assumption) ?_)
    | (with_reducible refine After.ofOpt (by assumption) ?_)
    | with_reducible apply AfterSome.ofSome
    | with_reducible apply AfterRoute.ofSome
    | with_reducible exact AfterRoute.ofNone
    | with_reducible exact AfterSome.ofNone
    | with_reducible apply AfterEx.ofOk
    | with_reducible exact AfterEx.ofError
    | (with_reducible refine After.ofSealed (by assumption) ?_)
    | (with_reducible refine After.ofOkPair (by assumption) ?_)
    | (with_reducible refine After.ofOk (by assumption) ?_)
    | with_reducible apply After.fold

theorem State.writeTokenTo_after {b T} (x0) (x1) (x2) (x3) (ht : Within 0x100000208000 T) (h1 : After T b x0) :
    After T b (@State.writeTokenTo x0 x1 x2 x3) := by
  unfold State.writeTokenTo
  try dsimp only
  repeat' first
    | with_reducible assumption
    | with_reducible apply State.each_after
    | with_reducible apply State.sendToken_after
    | with_reducible exact Within.mono ht rfl
    | exact RegIn.block ht (by decide) rfl
    | with_reducible apply AfterRoute.ite
    | split
    | (with_reducible intro _)
    | with_reducible apply AfterOut.ofNext
    | with_reducible apply AfterOpt.ofSome
    | with_reducible exact AfterOpt.ofNone
    | (with_reducible refine After.ofPair (by assumption) ?_)
    | (with_reducible refine After.ofTriple (by assumption) ?_)
    | (with_reducible refine After.ofOpt (by assumption) ?_)
    | with_reducible apply AfterSome.ofSome
    | with_reducible apply AfterRoute.ofSome
    | with_reducible exact AfterRoute.ofNone
    | with_reducible exact AfterSome.ofNone
    | with_reducible apply AfterEx.ofOk
    | with_reducible exact AfterEx.ofError
    | (with_reducible refine After.ofSealed (by assumption) ?_)
    | (with_reducible refine After.ofOkPair (by assumption) ?_)
    | (with_reducible refine After.ofOk (by assumption) ?_)
    | with_reducible apply After.fold

theorem State.writeToken_after {b T} (x0) (x1) (x2) (ht : Within 0x100000208000 T) (h1 : After T b x0) :
    After T b (@State.writeToken x0 x1 x2) := by
  unfold State.writeToken
  try dsimp only
  repeat' first
    | with_reducible assumption
    | with_reducible apply State.writeTokenTo_after
    | with_reducible apply State.onGroup_after
    | with_reducible apply State.sendToken_after
    | with_reducible exact Within.mono ht rfl
    | exact RegIn.block ht (by decide) rfl
    | with_reducible apply AfterRoute.ite
    | split
    | (with_reducible intro _)
    | with_reducible apply AfterOut.ofNext
    | with_reducible apply AfterOpt.ofSome
    | with_reducible exact AfterOpt.ofNone
    | (with_reducible refine After.ofPair (by assumption) ?_)
    | (with_reducible refine After.ofTriple (by assumption) ?_)
    | (with_reducible refine After.ofOpt (by assumption) ?_)
    | with_reducible apply AfterSome.ofSome
    | with_reducible apply AfterRoute.ofSome
    | with_reducible exact AfterRoute.ofNone
    | with_reducible exact AfterSome.ofNone
    | with_reducible apply AfterEx.ofOk
    | with_reducible exact AfterEx.ofError
    | (with_reducible refine After.ofSealed (by assumption) ?_)
    | (with_reducible refine After.ofOkPair (by assumption) ?_)
    | (with_reducible refine After.ofOk (by assumption) ?_)
    | with_reducible apply After.fold

theorem State.passGranted_after {b T} (x0) (x1) (x2) (ht : Within 0x200000 T) (h1 : After T b x0) :
    After T b (@State.passGranted x0 x1 x2) := by
  unfold State.passGranted
  try dsimp only
  repeat' first
    | with_reducible assumption
    | with_reducible apply State.onGroup_after
    | with_reducible exact Within.mono ht rfl
    | exact RegIn.block ht (by decide) rfl
    | with_reducible apply AfterRoute.ite
    | split
    | (with_reducible intro _)
    | with_reducible apply AfterOut.ofNext
    | with_reducible apply AfterOpt.ofSome
    | with_reducible exact AfterOpt.ofNone
    | (with_reducible refine After.ofPair (by assumption) ?_)
    | (with_reducible refine After.ofTriple (by assumption) ?_)
    | (with_reducible refine After.ofOpt (by assumption) ?_)
    | with_reducible apply AfterSome.ofSome
    | with_reducible apply AfterRoute.ofSome
    | with_reducible exact AfterRoute.ofNone
    | with_reducible exact AfterSome.ofNone
    | with_reducible apply AfterEx.ofOk
    | with_reducible exact AfterEx.ofError
    | (with_reducible refine After.ofSealed (by assumption) ?_)
    | (with_reducible refine After.ofOkPair (by assumption) ?_)
    | (with_reducible refine After.ofOk (by assumption) ?_)
    | with_reducible apply After.fold

theorem State.readToken_after {b T} (x0) (x1) (h1 : After T b x0) :
    After T b (@State.readToken x0 x1) := by
  unfold State.readToken
  try dsimp only
  repeat' first
    | with_reducible assumption
    | with_reducible apply State.emits_after

theorem State.setBit_after {b T} (x0) (x1) (x2) (x3) (hr : RegIn x1.addr T) (h1 : After T b x0) :
    After T b (@State.setBit x0 x1 x2 x3) := by
  unfold State.setBit
  try dsimp only
  repeat' first
    | with_reducible assumption
    | with_reducible apply State.wr_after

theorem State.tellLeads_after {b T} (x0) (x1) (ht : Within 0x40340011000080 T) (h1 : After T b x0) :
    After T b (@State.tellLeads x0 x1) := by
  unfold State.tellLeads
  try dsimp only
  repeat' first
    | with_reducible assumption
    | with_reducible apply State.notify_after
    | with_reducible exact Within.mono ht rfl
    | exact RegIn.block ht (by decide) rfl
    | with_reducible apply AfterRoute.ite
    | split
    | (with_reducible intro _)
    | with_reducible apply AfterOut.ofNext
    | with_reducible apply AfterOpt.ofSome
    | with_reducible exact AfterOpt.ofNone
    | (with_reducible refine After.ofPair (by assumption) ?_)
    | (with_reducible refine After.ofTriple (by assumption) ?_)
    | (with_reducible refine After.ofOpt (by assumption) ?_)
    | with_reducible apply AfterSome.ofSome
    | with_reducible apply AfterRoute.ofSome
    | with_reducible exact AfterRoute.ofNone
    | with_reducible exact AfterSome.ofNone
    | with_reducible apply AfterEx.ofOk
    | with_reducible exact AfterEx.ofError
    | (with_reducible refine After.ofSealed (by assumption) ?_)
    | (with_reducible refine After.ofOkPair (by assumption) ?_)
    | (with_reducible refine After.ofOk (by assumption) ?_)
    | with_reducible apply After.fold

theorem State.beginLead_after {b T} (x0) (x1) (ht : Within 0x40370911203681 T) (h1 : After T b x0) :
    After T b (@State.beginLead x0 x1) := by
  unfold State.beginLead
  try dsimp only
  repeat' first
    | with_reducible assumption
    | with_reducible apply State.setBit_after
    | with_reducible apply State.onGroup_after
    | with_reducible apply State.onLink_after
    | with_reducible apply State.tellLeads_after
    | with_reducible apply State.reportAna_after
    | with_reducible apply State.each_after
    | with_reducible apply State.postReady_after
    | with_reducible apply State.closeStripe_after
    | with_reducible exact Within.mono ht rfl
    | exact RegIn.block ht (by decide) rfl
    | with_reducible apply AfterRoute.ite
    | split
    | (with_reducible intro _)
    | with_reducible apply AfterOut.ofNext
    | with_reducible apply AfterOpt.ofSome
    | with_reducible exact AfterOpt.ofNone
    | (with_reducible refine After.ofPair (by assumption) ?_)
    | (with_reducible refine After.ofTriple (by assumption) ?_)
    | (with_reducible refine After.ofOpt (by assumption) ?_)
    | with_reducible apply AfterSome.ofSome
    | with_reducible apply AfterRoute.ofSome
    | with_reducible exact AfterRoute.ofNone
    | with_reducible exact AfterSome.ofNone
    | with_reducible apply AfterEx.ofOk
    | with_reducible exact AfterEx.ofError
    | (with_reducible refine After.ofSealed (by assumption) ?_)
    | (with_reducible refine After.ofOkPair (by assumption) ?_)
    | (with_reducible refine After.ofOk (by assumption) ?_)
    | with_reducible apply After.fold

theorem State.endLead_after {b T} (x0) (x1) (x2) (ht : Within 0x40358111082281 T) (h1 : After T b x0) :
    After T b (@State.endLead x0 x1 x2) := by
  unfold State.endLead
  try dsimp only
  repeat' first
    | with_reducible assumption
    | with_reducible apply State.tellLeads_after
    | with_reducible apply State.reportAna_after
    | with_reducible apply State.yieldWalks_after
    | with_reducible apply State.setBit_after
    | with_reducible exact Within.mono ht rfl
    | exact RegIn.block ht (by decide) rfl
    | with_reducible apply AfterRoute.ite
    | split
    | (with_reducible intro _)
    | with_reducible apply AfterOut.ofNext
    | with_reducible apply AfterOpt.ofSome
    | with_reducible exact AfterOpt.ofNone
    | (with_reducible refine After.ofPair (by assumption) ?_)
    | (with_reducible refine After.ofTriple (by assumption) ?_)
    | (with_reducible refine After.ofOpt (by assumption) ?_)
    | with_reducible apply AfterSome.ofSome
    | with_reducible apply AfterRoute.ofSome
    | with_reducible exact AfterRoute.ofNone
    | with_reducible exact AfterSome.ofNone
    | with_reducible apply AfterEx.ofOk
    | with_reducible exact AfterEx.ofError
    | (with_reducible refine After.ofSealed (by assumption) ?_)
    | (with_reducible refine After.ofOkPair (by assumption) ?_)
    | (with_reducible refine After.ofOk (by assumption) ?_)
    | with_reducible apply After.fold

theorem State.commandGroup_after {b T} (x0) (x1) (x2) (ht : Within 0x10000200000 T) (h1 : After T b x0) :
    After T b (@State.commandGroup x0 x1 x2) := by
  unfold State.commandGroup
  try dsimp only
  repeat' first
    | with_reducible assumption
    | with_reducible apply State.wr_after
    | with_reducible apply State.onToken_after
    | with_reducible exact Within.mono ht rfl
    | exact RegIn.block ht (by decide) rfl
    | with_reducible apply AfterRoute.ite
    | split

theorem State.cutCommands_after {b T} (x0) (x1) (x2) (x3) (ht : Within 0x40044111002601 T) (h1 : After T b x0) :
    After T b (@State.cutCommands x0 x1 x2 x3) := by
  unfold State.cutCommands
  try dsimp only
  repeat' first
    | with_reducible assumption
    | with_reducible apply State.showRoomWait_after
    | with_reducible apply State.each_after
    | with_reducible apply State.endCommand_after
    | with_reducible apply State.dropReads_after
    | with_reducible exact Within.mono ht rfl
    | exact RegIn.block ht (by decide) rfl
    | with_reducible apply AfterRoute.ite
    | split
    | (with_reducible intro _)
    | with_reducible apply AfterOut.ofNext
    | with_reducible apply AfterOpt.ofSome
    | with_reducible exact AfterOpt.ofNone
    | (with_reducible refine After.ofPair (by assumption) ?_)
    | (with_reducible refine After.ofTriple (by assumption) ?_)
    | (with_reducible refine After.ofOpt (by assumption) ?_)
    | with_reducible apply AfterSome.ofSome
    | with_reducible apply AfterRoute.ofSome
    | with_reducible exact AfterRoute.ofNone
    | with_reducible exact AfterSome.ofNone
    | with_reducible apply AfterEx.ofOk
    | with_reducible exact AfterEx.ofError
    | (with_reducible refine After.ofSealed (by assumption) ?_)
    | (with_reducible refine After.ofOkPair (by assumption) ?_)
    | (with_reducible refine After.ofOk (by assumption) ?_)
    | with_reducible apply After.fold

theorem State.stopGroup_after {b T} (x0) (x1) (x2) (ht : Within 0x4035c111282681 T) (h1 : After T b x0) :
    After T b (@State.stopGroup x0 x1 x2) := by
  unfold State.stopGroup
  try dsimp only
  repeat' first
    | with_reducible assumption
    | with_reducible apply State.cutCommands_after
    | with_reducible apply State.endLead_after
    | with_reducible apply State.onGroup_after
    | with_reducible exact Within.mono ht rfl

theorem execLeaseRenewal_after {b T} (x0) (ht : Within 0x100000208000 T) (h1 : After T b x0) :
    AfterOut T b (@execLeaseRenewal x0) := by
  unfold execLeaseRenewal
  try dsimp only
  repeat' first
    | with_reducible assumption
    | with_reducible apply onSoc_after
    | with_reducible apply State.each_after
    | with_reducible apply State.onToken_after
    | with_reducible apply State.writeToken_after
    | with_reducible exact Within.mono ht rfl
    | exact RegIn.block ht (by decide) rfl
    | with_reducible apply AfterRoute.ite
    | split
    | (with_reducible intro _)
    | with_reducible apply AfterOut.ofNext
    | with_reducible apply AfterOpt.ofSome
    | with_reducible exact AfterOpt.ofNone
    | (with_reducible refine After.ofPair (by assumption) ?_)
    | (with_reducible refine After.ofTriple (by assumption) ?_)
    | (with_reducible refine After.ofOpt (by assumption) ?_)
    | with_reducible apply AfterSome.ofSome
    | with_reducible apply AfterRoute.ofSome
    | with_reducible exact AfterRoute.ofNone
    | with_reducible exact AfterSome.ofNone
    | with_reducible apply AfterEx.ofOk
    | with_reducible exact AfterEx.ofError
    | (with_reducible refine After.ofSealed (by assumption) ?_)
    | (with_reducible refine After.ofOkPair (by assumption) ?_)
    | (with_reducible refine After.ofOk (by assumption) ?_)
    | with_reducible apply After.fold

theorem State.recordGranted_after {b T} (x0) (x1) (x2) (ht : Within 0x40378911283681 T) (h1 : After T b x0) :
    After T b (@State.recordGranted x0 x1 x2) := by
  unfold State.recordGranted
  try dsimp only
  repeat' first
    | with_reducible assumption
    | with_reducible apply State.setReg_after
    | with_reducible apply State.onGroup_after
    | with_reducible apply State.endLead_after
    | with_reducible apply State.emit_after
    | with_reducible apply State.count_after
    | with_reducible apply State.commandGroup_after
    | with_reducible apply State.beginLead_after
    | with_reducible exact Within.mono ht rfl
    | exact RegIn.block ht (by decide) rfl
    | with_reducible apply AfterRoute.ite
    | split

theorem State.seedingGranted_after {b T} (x0) (x1) (x2) (ht : Within 0x200000 T) (h1 : After T b x0) :
    After T b (@State.seedingGranted x0 x1 x2) := by
  unfold State.seedingGranted
  try dsimp only
  repeat' first
    | with_reducible assumption
    | with_reducible apply State.emit_after
    | with_reducible apply State.onToken_after
    | with_reducible exact Within.mono ht rfl
    | exact RegIn.block ht (by decide) rfl
    | with_reducible apply AfterRoute.ite
    | split
    | (with_reducible intro _)
    | with_reducible apply AfterOut.ofNext
    | with_reducible apply AfterOpt.ofSome
    | with_reducible exact AfterOpt.ofNone
    | (with_reducible refine After.ofPair (by assumption) ?_)
    | (with_reducible refine After.ofTriple (by assumption) ?_)
    | (with_reducible refine After.ofOpt (by assumption) ?_)
    | with_reducible apply AfterSome.ofSome
    | with_reducible apply AfterRoute.ofSome
    | with_reducible exact AfterRoute.ofNone
    | with_reducible exact AfterSome.ofNone
    | with_reducible apply AfterEx.ofOk
    | with_reducible exact AfterEx.ofError
    | (with_reducible refine After.ofSealed (by assumption) ?_)
    | (with_reducible refine After.ofOkPair (by assumption) ?_)
    | (with_reducible refine After.ofOk (by assumption) ?_)
    | with_reducible apply After.fold

theorem execRenewalComplete_after {b T} (x0) (x1) (x2) (x3) (ht : Within 0x6037d91928bec1 T) (h4 : After T b x3) :
    AfterOut T b (@execRenewalComplete x0 x1 x2 x3) := by
  unfold execRenewalComplete
  try dsimp only
  repeat' first
    | with_reducible assumption
    | with_reducible apply onData_after
    | with_reducible apply State.seedingGranted_after
    | with_reducible apply State.keepReads_after
    | with_reducible apply State.passGranted_after
    | with_reducible apply State.noteTokens_after
    | with_reducible apply State.onToken_after
    | with_reducible apply State.count_after
    | with_reducible apply State.commandGroup_after
    | with_reducible apply State.setBit_after
    | with_reducible apply State.stopGroup_after
    | with_reducible apply State.recordGranted_after
    | with_reducible apply State.when_after
    | with_reducible apply State.onGroup_after
    | with_reducible exact Within.mono ht rfl
    | exact RegIn.block ht (by decide) rfl
    | with_reducible apply AfterRoute.ite
    | split
    | (with_reducible intro _)
    | with_reducible apply AfterOut.ofNext
    | with_reducible apply AfterOpt.ofSome
    | with_reducible exact AfterOpt.ofNone
    | (with_reducible refine After.ofPair (by assumption) ?_)
    | (with_reducible refine After.ofTriple (by assumption) ?_)
    | (with_reducible refine After.ofOpt (by assumption) ?_)
    | with_reducible apply AfterSome.ofSome
    | with_reducible apply AfterRoute.ofSome
    | with_reducible exact AfterRoute.ofNone
    | with_reducible exact AfterSome.ofNone
    | with_reducible apply AfterEx.ofOk
    | with_reducible exact AfterEx.ofError
    | (with_reducible refine After.ofSealed (by assumption) ?_)
    | (with_reducible refine After.ofOkPair (by assumption) ?_)
    | (with_reducible refine After.ofOk (by assumption) ?_)
    | with_reducible apply After.fold

theorem execLeaseExpiry_after {b T} (x0) (x1) (ht : Within 0x6037d91928bec1 T) (h2 : After T b x1) :
    AfterOut T b ((@execLeaseExpiry x0 x1)) := by
  unfold execLeaseExpiry
  try dsimp only
  repeat' first
    | with_reducible assumption
    | with_reducible apply onData_after
    | with_reducible apply State.commandGroup_after
    | with_reducible apply State.stopGroup_after
    | with_reducible exact Within.mono ht rfl
    | with_reducible apply AfterRoute.ite
    | split
    | (with_reducible intro _)

theorem execModuleFenced_after {b T} (x0) (ht : Within 0x6037591928bec1 T) (h1 : After T b x0) :
    AfterOut T b (@execModuleFenced x0) := by
  unfold execModuleFenced
  try dsimp only
  repeat' first
    | with_reducible assumption
    | with_reducible apply onData_after
    | with_reducible apply State.each_after
    | with_reducible apply State.onGroup_after
    | with_reducible apply State.cutCommands_after
    | with_reducible apply State.onToken_after
    | with_reducible apply State.tellLeads_after
    | with_reducible apply State.reportAna_after
    | with_reducible apply State.yieldWalks_after
    | with_reducible apply State.wrs_after
    | with_reducible apply State.fault_after
    | with_reducible exact Within.mono ht rfl
    | exact RegIn.block ht (by decide) rfl
    | with_reducible apply FieldsIn.cons
    | with_reducible exact FieldsIn.nil
    | with_reducible apply AfterRoute.ite
    | split
    | (with_reducible intro _)
    | with_reducible apply AfterOut.ofNext
    | with_reducible apply AfterOpt.ofSome
    | with_reducible exact AfterOpt.ofNone
    | (with_reducible refine After.ofPair (by assumption) ?_)
    | (with_reducible refine After.ofTriple (by assumption) ?_)
    | (with_reducible refine After.ofOpt (by assumption) ?_)
    | with_reducible apply AfterSome.ofSome
    | with_reducible apply AfterRoute.ofSome
    | with_reducible exact AfterRoute.ofNone
    | with_reducible exact AfterSome.ofNone
    | with_reducible apply AfterEx.ofOk
    | with_reducible exact AfterEx.ofError
    | (with_reducible refine After.ofSealed (by assumption) ?_)
    | (with_reducible refine After.ofOkPair (by assumption) ?_)
    | (with_reducible refine After.ofOk (by assumption) ?_)
    | with_reducible apply After.fold

theorem execStandbySelfTest_after {b T} (x0) (x1) (x2) (x3) (x4) (ht : Within 0x603500112080c1 T) (h5 : After T b x4) :
    AfterOut T b (@execStandbySelfTest x0 x1 x2 x3 x4) := by
  unfold execStandbySelfTest
  try dsimp only
  repeat' first
    | with_reducible assumption
    | with_reducible apply onSoc_after
    | with_reducible apply State.onGroup_after
    | with_reducible apply State.noteTokens_after
    | with_reducible apply State.fault_after
    | with_reducible apply State.count_after
    | with_reducible apply State.commandGroup_after
    | with_reducible apply State.each_after
    | with_reducible apply State.registerOn_after
    | with_reducible exact Within.mono ht rfl
    | exact RegIn.block ht (by decide) rfl
    | with_reducible apply AfterRoute.ite
    | split
    | (with_reducible intro _)
    | with_reducible apply AfterOut.ofNext
    | with_reducible apply AfterOpt.ofSome
    | with_reducible exact AfterOpt.ofNone
    | (with_reducible refine After.ofPair (by assumption) ?_)
    | (with_reducible refine After.ofTriple (by assumption) ?_)
    | (with_reducible refine After.ofOpt (by assumption) ?_)
    | with_reducible apply AfterSome.ofSome
    | with_reducible apply AfterRoute.ofSome
    | with_reducible exact AfterRoute.ofNone
    | with_reducible exact AfterSome.ofNone
    | with_reducible apply AfterEx.ofOk
    | with_reducible exact AfterEx.ofError
    | (with_reducible refine After.ofSealed (by assumption) ?_)
    | (with_reducible refine After.ofOkPair (by assumption) ?_)
    | (with_reducible refine After.ofOk (by assumption) ?_)
    | with_reducible apply After.fold

theorem execPeerSuspect_after {b T} (x0) (ht : Within 0x10000200000 T) (h1 : After T b x0) :
    AfterOut T b (@execPeerSuspect x0) := by
  unfold execPeerSuspect
  try dsimp only
  repeat' first
    | with_reducible assumption
    | with_reducible apply onSoc_after
    | with_reducible apply State.onToken_after
    | with_reducible apply State.wrs_after
    | with_reducible apply State.each_after
    | with_reducible apply State.readToken_after
    | with_reducible exact Within.mono ht rfl
    | exact RegIn.block ht (by decide) rfl
    | with_reducible apply FieldsIn.cons
    | with_reducible exact FieldsIn.nil
    | with_reducible apply AfterRoute.ite
    | split
    | (with_reducible intro _)
    | with_reducible apply AfterOut.ofNext
    | with_reducible apply AfterOpt.ofSome
    | with_reducible exact AfterOpt.ofNone
    | (with_reducible refine After.ofPair (by assumption) ?_)
    | (with_reducible refine After.ofTriple (by assumption) ?_)
    | (with_reducible refine After.ofOpt (by assumption) ?_)
    | with_reducible apply AfterSome.ofSome
    | with_reducible apply AfterRoute.ofSome
    | with_reducible exact AfterRoute.ofNone
    | with_reducible exact AfterSome.ofNone
    | with_reducible apply AfterEx.ofOk
    | with_reducible exact AfterEx.ofError
    | (with_reducible refine After.ofSealed (by assumption) ?_)
    | (with_reducible refine After.ofOkPair (by assumption) ?_)
    | (with_reducible refine After.ofOk (by assumption) ?_)
    | with_reducible apply After.fold

theorem State.showExpiry_after {b T} (x0) (x1) (x2) (ht : Within 0x10000000000 T) (h1 : After T b x0) :
    After T b (@State.showExpiry x0 x1 x2) := by
  unfold State.showExpiry
  try dsimp only
  repeat' first
    | with_reducible assumption
    | with_reducible apply State.setReg_after
    | with_reducible exact Within.mono ht rfl
    | exact RegIn.block ht (by decide) rfl
    | with_reducible apply AfterRoute.ite
    | split

theorem State.suspectReads_after {b T} (x0) (x1) (ht : Within 0x40350111202281 T) (h1 : After T b x0) :
    After T b (@State.suspectReads x0 x1) := by
  unfold State.suspectReads
  try dsimp only
  repeat' first
    | with_reducible assumption
    | with_reducible apply State.each_after
    | with_reducible apply State.onGroup_after
    | with_reducible apply State.keepReads_after
    | with_reducible apply State.showExpiry_after
    | with_reducible apply State.stopCutIn_after
    | with_reducible apply State.reportAna_after
    | with_reducible apply State.wrs_after
    | with_reducible exact Within.mono ht rfl
    | exact RegIn.block ht (by decide) rfl
    | with_reducible apply FieldsIn.cons
    | with_reducible exact FieldsIn.nil
    | with_reducible apply AfterRoute.ite
    | split
    | (with_reducible intro _)
    | with_reducible apply AfterOut.ofNext
    | with_reducible apply AfterOpt.ofSome
    | with_reducible exact AfterOpt.ofNone
    | (with_reducible refine After.ofPair (by assumption) ?_)
    | (with_reducible refine After.ofTriple (by assumption) ?_)
    | (with_reducible refine After.ofOpt (by assumption) ?_)
    | with_reducible apply AfterSome.ofSome
    | with_reducible apply AfterRoute.ofSome
    | with_reducible exact AfterRoute.ofNone
    | with_reducible exact AfterSome.ofNone
    | with_reducible apply AfterEx.ofOk
    | with_reducible exact AfterEx.ofError
    | (with_reducible refine After.ofSealed (by assumption) ?_)
    | (with_reducible refine After.ofOkPair (by assumption) ?_)
    | (with_reducible refine After.ofOk (by assumption) ?_)
    | with_reducible apply After.fold

theorem State.waitingReads_after {b T} (x0) (x1) (ht : Within 0x40350111202281 T) (h1 : After T b x0) :
    After T b (@State.waitingReads x0 x1) := by
  unfold State.waitingReads
  try dsimp only
  repeat' first
    | with_reducible assumption
    | with_reducible apply State.each_after
    | with_reducible apply State.keepReads_after
    | with_reducible apply State.stopCutIn_after
    | with_reducible exact Within.mono ht rfl
    | exact RegIn.block ht (by decide) rfl
    | with_reducible apply AfterRoute.ite
    | split
    | (with_reducible intro _)
    | with_reducible apply AfterOut.ofNext
    | with_reducible apply AfterOpt.ofSome
    | with_reducible exact AfterOpt.ofNone
    | (with_reducible refine After.ofPair (by assumption) ?_)
    | (with_reducible refine After.ofTriple (by assumption) ?_)
    | (with_reducible refine After.ofOpt (by assumption) ?_)
    | with_reducible apply AfterSome.ofSome
    | with_reducible apply AfterRoute.ofSome
    | with_reducible exact AfterRoute.ofNone
    | with_reducible exact AfterSome.ofNone
    | with_reducible apply AfterEx.ofOk
    | with_reducible exact AfterEx.ofError
    | (with_reducible refine After.ofSealed (by assumption) ?_)
    | (with_reducible refine After.ofOkPair (by assumption) ?_)
    | (with_reducible refine After.ofOk (by assumption) ?_)
    | with_reducible apply After.fold

theorem execTokenRecordReadComplete_after {b T} (x0) (x1) (ht : Within 0x6035011120a2c1 T) (h2 : After T b x1) :
    AfterOut T b (@execTokenRecordReadComplete x0 x1) := by
  unfold execTokenRecordReadComplete
  try dsimp only
  repeat' first
    | with_reducible assumption
    | with_reducible apply onSoc_after
    | with_reducible apply State.noteTokens_after
    | with_reducible apply State.suspectReads_after
    | with_reducible apply State.waitingReads_after
    | with_reducible apply State.each_after
    | with_reducible apply State.keepReads_after
    | with_reducible apply State.showExpiry_after
    | with_reducible exact Within.mono ht rfl
    | exact RegIn.block ht (by decide) rfl
    | with_reducible apply AfterRoute.ite
    | split
    | (with_reducible intro _)
    | with_reducible apply AfterOut.ofNext
    | with_reducible apply AfterOpt.ofSome
    | with_reducible exact AfterOpt.ofNone
    | (with_reducible refine After.ofPair (by assumption) ?_)
    | (with_reducible refine After.ofTriple (by assumption) ?_)
    | (with_reducible refine After.ofOpt (by assumption) ?_)
    | with_reducible apply AfterSome.ofSome
    | with_reducible apply AfterRoute.ofSome
    | with_reducible exact AfterRoute.ofNone
    | with_reducible exact AfterSome.ofNone
    | with_reducible apply AfterEx.ofOk
    | with_reducible exact AfterEx.ofError
    | (with_reducible refine After.ofSealed (by assumption) ?_)
    | (with_reducible refine After.ofOkPair (by assumption) ?_)
    | (with_reducible refine After.ofOk (by assumption) ?_)
    | with_reducible apply After.fold

theorem State.writeClaims_after {b T} (x0) (ht : Within 0x100000208000 T) (h1 : After T b x0) :
    After T b (@State.writeClaims x0) := by
  unfold State.writeClaims
  try dsimp only
  repeat' first
    | with_reducible assumption
    | with_reducible apply State.onToken_after
    | with_reducible apply State.each_after
    | with_reducible apply State.writeToken_after
    | with_reducible exact Within.mono ht rfl
    | exact RegIn.block ht (by decide) rfl
    | with_reducible apply AfterRoute.ite
    | split
    | (with_reducible intro _)
    | with_reducible apply AfterOut.ofNext
    | with_reducible apply AfterOpt.ofSome
    | with_reducible exact AfterOpt.ofNone
    | (with_reducible refine After.ofPair (by assumption) ?_)
    | (with_reducible refine After.ofTriple (by assumption) ?_)
    | (with_reducible refine After.ofOpt (by assumption) ?_)
    | with_reducible apply AfterSome.ofSome
    | with_reducible apply AfterRoute.ofSome
    | with_reducible exact AfterRoute.ofNone
    | with_reducible exact AfterSome.ofNone
    | with_reducible apply AfterEx.ofOk
    | with_reducible exact AfterEx.ofError
    | (with_reducible refine After.ofSealed (by assumption) ?_)
    | (with_reducible refine After.ofOkPair (by assumption) ?_)
    | (with_reducible refine After.ofOk (by assumption) ?_)
    | with_reducible apply After.fold

theorem execCutInReread_after {b T} (x0) (ht : Within 0x110000208000 T) (h1 : After T b x0) :
    AfterOut T b (@execCutInReread x0) := by
  unfold execCutInReread
  try dsimp only
  repeat' first
    | with_reducible assumption
    | with_reducible apply onSoc_after
    | with_reducible apply State.writeClaims_after
    | with_reducible apply State.onToken_after
    | with_reducible apply State.each_after
    | with_reducible apply State.readToken_after
    | with_reducible apply State.when_after
    | with_reducible apply State.setBit_after
    | with_reducible exact Within.mono ht rfl
    | exact RegIn.block ht (by decide) rfl
    | with_reducible apply AfterRoute.ite
    | split
    | (with_reducible intro _)
    | with_reducible apply AfterOut.ofNext
    | with_reducible apply AfterOpt.ofSome
    | with_reducible exact AfterOpt.ofNone
    | (with_reducible refine After.ofPair (by assumption) ?_)
    | (with_reducible refine After.ofTriple (by assumption) ?_)
    | (with_reducible refine After.ofOpt (by assumption) ?_)
    | with_reducible apply AfterSome.ofSome
    | with_reducible apply AfterRoute.ofSome
    | with_reducible exact AfterRoute.ofNone
    | with_reducible exact AfterSome.ofNone
    | with_reducible apply AfterEx.ofOk
    | with_reducible exact AfterEx.ofError
    | (with_reducible refine After.ofSealed (by assumption) ?_)
    | (with_reducible refine After.ofOkPair (by assumption) ?_)
    | (with_reducible refine After.ofOk (by assumption) ?_)
    | with_reducible apply After.fold

theorem State.noteOldKeys_after {b T} (x0) (ht : Within 0x200000 T) (h1 : After T b x0) :
    After T b (@State.noteOldKeys x0) := by
  unfold State.noteOldKeys
  try dsimp only
  repeat' first
    | with_reducible assumption
    | with_reducible apply State.onToken_after
    | with_reducible exact Within.mono ht rfl
    | exact RegIn.block ht (by decide) rfl
    | with_reducible apply AfterRoute.ite
    | split
    | (with_reducible intro _)
    | with_reducible apply AfterOut.ofNext
    | with_reducible apply AfterOpt.ofSome
    | with_reducible exact AfterOpt.ofNone
    | (with_reducible refine After.ofPair (by assumption) ?_)
    | (with_reducible refine After.ofTriple (by assumption) ?_)
    | (with_reducible refine After.ofOpt (by assumption) ?_)
    | with_reducible apply AfterSome.ofSome
    | with_reducible apply AfterRoute.ofSome
    | with_reducible exact AfterRoute.ofNone
    | with_reducible exact AfterSome.ofNone
    | with_reducible apply AfterEx.ofOk
    | with_reducible exact AfterEx.ofError
    | (with_reducible refine After.ofSealed (by assumption) ?_)
    | (with_reducible refine After.ofOkPair (by assumption) ?_)
    | (with_reducible refine After.ofOk (by assumption) ?_)
    | with_reducible apply After.fold

theorem execCutInWaitEnd_after {b T} (x0) (ht : Within 0x110000208001 T) (h1 : After T b x0) :
    AfterOut T b (@execCutInWaitEnd x0) := by
  unfold execCutInWaitEnd
  try dsimp only
  repeat' first
    | with_reducible assumption
    | with_reducible apply onSoc_after
    | with_reducible apply State.ownKey_after
    | with_reducible apply State.writeClaims_after
    | with_reducible apply State.each_after
    | with_reducible apply State.wr_after
    | with_reducible apply State.noteOldKeys_after
    | with_reducible apply State.setBit_after
    | with_reducible exact Within.mono ht rfl
    | exact RegIn.block ht (by decide) rfl
    | with_reducible apply AfterRoute.ite
    | split
    | (with_reducible intro _)
    | with_reducible apply AfterOut.ofNext
    | with_reducible apply AfterOpt.ofSome
    | with_reducible exact AfterOpt.ofNone
    | (with_reducible refine After.ofPair (by assumption) ?_)
    | (with_reducible refine After.ofTriple (by assumption) ?_)
    | (with_reducible refine After.ofOpt (by assumption) ?_)
    | with_reducible apply AfterSome.ofSome
    | with_reducible apply AfterRoute.ofSome
    | with_reducible exact AfterRoute.ofNone
    | with_reducible exact AfterSome.ofNone
    | with_reducible apply AfterEx.ofOk
    | with_reducible exact AfterEx.ofError
    | (with_reducible refine After.ofSealed (by assumption) ?_)
    | (with_reducible refine After.ofOkPair (by assumption) ?_)
    | (with_reducible refine After.ofOk (by assumption) ?_)
    | with_reducible apply After.fold

theorem State.gainGroup_after {b T} (x0) (x1) (ht : Within 0x40350011200080 T) (h1 : After T b x0) :
    After T b (@State.gainGroup x0 x1) := by
  unfold State.gainGroup
  try dsimp only
  repeat' first
    | with_reducible assumption
    | with_reducible apply State.tellLeads_after
    | with_reducible apply State.setBit_after
    | with_reducible apply State.onGroup_after
    | with_reducible exact Within.mono ht rfl
    | exact RegIn.block ht (by decide) rfl
    | with_reducible apply AfterRoute.ite
    | split
    | (with_reducible intro _)
    | with_reducible apply AfterOut.ofNext
    | with_reducible apply AfterOpt.ofSome
    | with_reducible exact AfterOpt.ofNone
    | (with_reducible refine After.ofPair (by assumption) ?_)
    | (with_reducible refine After.ofTriple (by assumption) ?_)
    | (with_reducible refine After.ofOpt (by assumption) ?_)
    | with_reducible apply AfterSome.ofSome
    | with_reducible apply AfterRoute.ofSome
    | with_reducible exact AfterRoute.ofNone
    | with_reducible exact AfterSome.ofNone
    | with_reducible apply AfterEx.ofOk
    | with_reducible exact AfterEx.ofError
    | (with_reducible refine After.ofSealed (by assumption) ?_)
    | (with_reducible refine After.ofOkPair (by assumption) ?_)
    | (with_reducible refine After.ofOk (by assumption) ?_)
    | with_reducible apply After.fold

theorem State.giveUpClaims_after {b T} (x0) (ht : Within 0x4035011128a281 T) (h1 : After T b x0) :
    After T b (@State.giveUpClaims x0) := by
  unfold State.giveUpClaims
  try dsimp only
  repeat' first
    | with_reducible assumption
    | with_reducible apply State.each_after
    | with_reducible apply State.setBit_after
    | with_reducible apply State.writeTokenTo_after
    | with_reducible apply State.onGroup_after
    | with_reducible apply State.tellLeads_after
    | with_reducible apply State.stopCutIn_after
    | with_reducible apply State.yieldWalks_after
    | with_reducible exact Within.mono ht rfl
    | exact RegIn.block ht (by decide) rfl
    | with_reducible apply AfterRoute.ite
    | split
    | (with_reducible intro _)
    | with_reducible apply AfterOut.ofNext
    | with_reducible apply AfterOpt.ofSome
    | with_reducible exact AfterOpt.ofNone
    | (with_reducible refine After.ofPair (by assumption) ?_)
    | (with_reducible refine After.ofTriple (by assumption) ?_)
    | (with_reducible refine After.ofOpt (by assumption) ?_)
    | with_reducible apply AfterSome.ofSome
    | with_reducible apply AfterRoute.ofSome
    | with_reducible exact AfterRoute.ofNone
    | with_reducible exact AfterSome.ofNone
    | with_reducible apply AfterEx.ofOk
    | with_reducible exact AfterEx.ofError
    | (with_reducible refine After.ofSealed (by assumption) ?_)
    | (with_reducible refine After.ofOkPair (by assumption) ?_)
    | (with_reducible refine After.ofOk (by assumption) ?_)
    | with_reducible apply After.fold

theorem execClaimComplete_after {b T} (x0) (x1) (x2) (ht : Within 0x4035011128a281 T) (h3 : After T b x2) :
    AfterOut T b (@execClaimComplete x0 x1 x2) := by
  unfold execClaimComplete
  try dsimp only
  repeat' first
    | with_reducible assumption
    | with_reducible apply onSoc_after
    | with_reducible apply State.each_after
    | with_reducible apply State.passGranted_after
    | with_reducible apply State.gainGroup_after
    | with_reducible apply State.giveUpClaims_after
    | with_reducible apply State.wr_after
    | with_reducible exact Within.mono ht rfl
    | exact RegIn.block ht (by decide) rfl
    | with_reducible apply AfterRoute.ite
    | split
    | (with_reducible intro _)
    | with_reducible apply AfterOut.ofNext
    | with_reducible apply AfterOpt.ofSome
    | with_reducible exact AfterOpt.ofNone
    | (with_reducible refine After.ofPair (by assumption) ?_)
    | (with_reducible refine After.ofTriple (by assumption) ?_)
    | (with_reducible refine After.ofOpt (by assumption) ?_)
    | with_reducible apply AfterSome.ofSome
    | with_reducible apply AfterRoute.ofSome
    | with_reducible exact AfterRoute.ofNone
    | with_reducible exact AfterSome.ofNone
    | with_reducible apply AfterEx.ofOk
    | with_reducible exact AfterEx.ofError
    | (with_reducible refine After.ofSealed (by assumption) ?_)
    | (with_reducible refine After.ofOkPair (by assumption) ?_)
    | (with_reducible refine After.ofOk (by assumption) ?_)
    | with_reducible apply After.fold

theorem execFence_after {b T} (x0) (ht : Within 0x10000200001 T) (h1 : After T b x0) :
    AfterOut T b (@execFence x0) := by
  unfold execFence
  try dsimp only
  repeat' first
    | with_reducible assumption
    | with_reducible apply onSoc_after
    | with_reducible apply State.ownKey_after
    | with_reducible apply State.each_after
    | with_reducible apply State.registerOn_after
    | with_reducible apply State.onToken_after
    | with_reducible apply State.emits_after
    | with_reducible exact Within.mono ht rfl
    | exact RegIn.block ht (by decide) rfl
    | with_reducible apply AfterRoute.ite
    | split
    | (with_reducible intro _)
    | with_reducible apply AfterOut.ofNext
    | with_reducible apply AfterOpt.ofSome
    | with_reducible exact AfterOpt.ofNone
    | (with_reducible refine After.ofPair (by assumption) ?_)
    | (with_reducible refine After.ofTriple (by assumption) ?_)
    | (with_reducible refine After.ofOpt (by assumption) ?_)
    | with_reducible apply AfterSome.ofSome
    | with_reducible apply AfterRoute.ofSome
    | with_reducible exact AfterRoute.ofNone
    | with_reducible exact AfterSome.ofNone
    | with_reducible apply AfterEx.ofOk
    | with_reducible exact AfterEx.ofError
    | (with_reducible refine After.ofSealed (by assumption) ?_)
    | (with_reducible refine After.ofOkPair (by assumption) ?_)
    | (with_reducible refine After.ofOk (by assumption) ?_)
    | with_reducible apply After.fold

theorem State.takeState_after {b T} (x0) (x1) (ht : Within 0x40025810201c00 T) (h1 : After T b x0) :
    After T b (@State.takeState x0 x1) := by
  unfold State.takeState
  try dsimp only
  repeat' first
    | with_reducible assumption
    | with_reducible apply State.onLink_after
    | with_reducible apply State.discardUncommitted_after
    | with_reducible apply State.onStore_after
    | with_reducible apply State.each_after
    | with_reducible apply State.takeCopy_after
    | with_reducible apply State.adoptEntry_after
    | with_reducible apply State.setMapBit_after
    | with_reducible apply State.recoverEntry_after
    | with_reducible apply State.startStep_after
    | with_reducible apply State.closeStripe_after
    | with_reducible apply State.accumulate_after
    | with_reducible apply State.onToken_after
    | with_reducible exact Within.mono ht rfl
    | exact RegIn.block ht (by decide) rfl
    | with_reducible apply AfterRoute.ite
    | split
    | (with_reducible intro _)
    | with_reducible apply AfterOut.ofNext
    | with_reducible apply AfterOpt.ofSome
    | with_reducible exact AfterOpt.ofNone
    | (with_reducible refine After.ofPair (by assumption) ?_)
    | (with_reducible refine After.ofTriple (by assumption) ?_)
    | (with_reducible refine After.ofOpt (by assumption) ?_)
    | with_reducible apply AfterSome.ofSome
    | with_reducible apply AfterRoute.ofSome
    | with_reducible exact AfterRoute.ofNone
    | with_reducible exact AfterSome.ofNone
    | with_reducible apply AfterEx.ofOk
    | with_reducible exact AfterEx.ofError
    | (with_reducible refine After.ofSealed (by assumption) ?_)
    | (with_reducible refine After.ofOkPair (by assumption) ?_)
    | (with_reducible refine After.ofOk (by assumption) ?_)
    | with_reducible apply After.fold

theorem execFenceComplete_after {b T} (x0) (x1) (x2) (ht : Within 0x6037591928bec3 T) (h3 : After T b x2) :
    AfterOut T b (@execFenceComplete x0 x1 x2) := by
  unfold execFenceComplete
  try dsimp only
  repeat' first
    | with_reducible assumption
    | with_reducible apply onData_after
    | with_reducible apply State.each_after
    | with_reducible apply State.slotMemberFails_after
    | with_reducible apply State.takeState_after
    | with_reducible apply State.noteJournal_after
    | with_reducible apply State.onToken_after
    | with_reducible apply State.wr_after
    | with_reducible exact Within.mono ht rfl
    | exact RegIn.block ht (by decide) rfl
    | with_reducible apply AfterRoute.ite
    | split
    | (with_reducible intro _)
    | with_reducible apply AfterOut.ofNext
    | with_reducible apply AfterOpt.ofSome
    | with_reducible exact AfterOpt.ofNone
    | (with_reducible refine After.ofPair (by assumption) ?_)
    | (with_reducible refine After.ofTriple (by assumption) ?_)
    | (with_reducible refine After.ofOpt (by assumption) ?_)
    | with_reducible apply AfterSome.ofSome
    | with_reducible apply AfterRoute.ofSome
    | with_reducible exact AfterRoute.ofNone
    | with_reducible exact AfterSome.ofNone
    | with_reducible apply AfterEx.ofOk
    | with_reducible exact AfterEx.ofError
    | (with_reducible refine After.ofSealed (by assumption) ?_)
    | (with_reducible refine After.ofOkPair (by assumption) ?_)
    | (with_reducible refine After.ofOk (by assumption) ?_)
    | with_reducible apply After.fold

theorem execTakeComplete_after {b T} (x0) (ht : Within 0x200000 T) (h1 : After T b x0) :
    AfterOut T b ((@execTakeComplete x0)) := by
  unfold execTakeComplete
  try dsimp only
  repeat' first
    | with_reducible assumption
    | with_reducible apply onSoc_after
    | with_reducible apply State.onToken_after
    | with_reducible exact Within.mono ht rfl
    | with_reducible apply AfterRoute.ite
    | split
    | (with_reducible intro _)

theorem execPeerCycle_after {b T} (x0) (ht : Within 0x80000200000 T) (h1 : After T b x0) :
    AfterOut T b ((@execPeerCycle x0)) := by
  unfold execPeerCycle
  try dsimp only
  repeat' first
    | with_reducible assumption
    | with_reducible apply onSoc_after
    | with_reducible apply State.onToken_after
    | with_reducible apply State.emit_after
    | with_reducible apply State.wr_after
    | with_reducible exact Within.mono ht rfl
    | exact RegIn.block ht (by decide) rfl
    | with_reducible apply AfterRoute.ite
    | split
    | (with_reducible intro _)

theorem State.startSeeding_after {b T} (x0) (x1) (x2) (x3) (ht : Within 0x40120010208400 T) (h1 : After T b x0) :
    After T b (@State.startSeeding x0 x1 x2 x3) := by
  unfold State.startSeeding
  try dsimp only
  repeat' first
    | with_reducible assumption
    | with_reducible apply State.onToken_after
    | with_reducible apply State.sendSlot_after
    | with_reducible apply State.emit_after
    | with_reducible apply State.each_after
    | with_reducible apply State.sendToken_after
    | with_reducible exact Within.mono ht rfl
    | exact RegIn.block ht (by decide) rfl
    | with_reducible apply AfterRoute.ite
    | split
    | (with_reducible intro _)
    | with_reducible apply AfterOut.ofNext
    | with_reducible apply AfterOpt.ofSome
    | with_reducible exact AfterOpt.ofNone
    | (with_reducible refine After.ofPair (by assumption) ?_)
    | (with_reducible refine After.ofTriple (by assumption) ?_)
    | (with_reducible refine After.ofOpt (by assumption) ?_)
    | with_reducible apply AfterSome.ofSome
    | with_reducible apply AfterRoute.ofSome
    | with_reducible exact AfterRoute.ofNone
    | with_reducible exact AfterSome.ofNone
    | with_reducible apply AfterEx.ofOk
    | with_reducible exact AfterEx.ofError
    | (with_reducible refine After.ofSealed (by assumption) ?_)
    | (with_reducible refine After.ofOkPair (by assumption) ?_)
    | (with_reducible refine After.ofOk (by assumption) ?_)
    | with_reducible apply After.fold

theorem execWitnessReplace_after {b T} (x0) (x1) (x2) (ht : Within 0x603600112084c0 T) (h3 : After T b x2) :
    AfterOut T b (@execWitnessReplace x0 x1 x2) := by
  unfold execWitnessReplace
  try dsimp only
  repeat' first
    | with_reducible assumption
    | with_reducible apply onSoc_after
    | with_reducible apply State.each_after
    | with_reducible apply State.noteTokens_after
    | with_reducible apply State.keepReads_after
    | with_reducible apply State.startSeeding_after
    | with_reducible exact Within.mono ht rfl
    | exact RegIn.block ht (by decide) rfl
    | with_reducible apply AfterRoute.ite
    | split
    | (with_reducible intro _)
    | with_reducible apply AfterOut.ofNext
    | with_reducible apply AfterOpt.ofSome
    | with_reducible exact AfterOpt.ofNone
    | (with_reducible refine After.ofPair (by assumption) ?_)
    | (with_reducible refine After.ofTriple (by assumption) ?_)
    | (with_reducible refine After.ofOpt (by assumption) ?_)
    | with_reducible apply AfterSome.ofSome
    | with_reducible apply AfterRoute.ofSome
    | with_reducible exact AfterRoute.ofNone
    | with_reducible exact AfterSome.ofNone
    | with_reducible apply AfterEx.ofOk
    | with_reducible exact AfterEx.ofError
    | (with_reducible refine After.ofSealed (by assumption) ?_)
    | (with_reducible refine After.ofOkPair (by assumption) ?_)
    | (with_reducible refine After.ofOk (by assumption) ?_)
    | with_reducible apply After.fold

theorem witnessSlot_in {w m T : Nat} (ht : Within m T) (e : blockMask 0x25 &&& m = blockMask 0x25) : RegIn (witnessSlot w).addr T :=
  have k : ∀ off, RegIn (blockAddr 0x25 off) T := fun _ => RegIn.block ht (by decide) e
  match w with
  | 0 | 1 | 2 | 3 => k _
  | _ + 4 => k _

theorem State.seedingAtBoundary_after {b T} (x0) (ht : Within 0x10000200000 T) (h1 : After T b x0) :
    After T b (@State.seedingAtBoundary x0) := by
  unfold State.seedingAtBoundary
  try dsimp only
  repeat' first
    | with_reducible assumption
    | with_reducible apply State.onToken_after
    | with_reducible apply State.wrs_after
    | with_reducible exact Within.mono ht rfl
    | exact witnessSlot_in ht rfl
    | exact RegIn.block ht (by decide) rfl
    | with_reducible apply FieldsIn.cons
    | with_reducible exact FieldsIn.nil
    | with_reducible apply AfterRoute.ite
    | split

theorem State.startHandOver_after {b T} (x0) (x1) (x2) (ht : Within 0x40374911202681 T) (h1 : After T b x0) :
    After T b (@State.startHandOver x0 x1 x2) := by
  unfold State.startHandOver
  try dsimp only
  repeat' first
    | with_reducible assumption
    | with_reducible apply State.reportAna_after
    | with_reducible apply State.onGroup_after
    | with_reducible apply State.setBit_after
    | with_reducible apply State.cutCommands_after
    | with_reducible apply State.each_after
    | with_reducible apply State.closeStripe_after
    | with_reducible exact Within.mono ht rfl
    | exact RegIn.block ht (by decide) rfl
    | with_reducible apply AfterRoute.ite
    | split
    | (with_reducible intro _)

theorem State.handProgress_after {b T} (x0) (x1) (x2) (ht : Within 0x4035011120a281 T) (h1 : After T b x0) :
    After T b (@State.handProgress x0 x1 x2) := by
  unfold State.handProgress
  try dsimp only
  repeat' first
    | with_reducible assumption
    | with_reducible apply State.onGroup_after
    | with_reducible apply State.writeToken_after
    | with_reducible apply State.commandGroup_after
    | with_reducible apply State.reportAna_after
    | with_reducible apply State.setBit_after
    | with_reducible exact Within.mono ht rfl
    | exact RegIn.block ht (by decide) rfl
    | with_reducible apply AfterRoute.ite
    | split
    | (with_reducible intro _)
    | with_reducible apply AfterOut.ofNext
    | with_reducible apply AfterOpt.ofSome
    | with_reducible exact AfterOpt.ofNone
    | (with_reducible refine After.ofPair (by assumption) ?_)
    | (with_reducible refine After.ofTriple (by assumption) ?_)
    | (with_reducible refine After.ofOpt (by assumption) ?_)
    | with_reducible apply AfterSome.ofSome
    | with_reducible apply AfterRoute.ofSome
    | with_reducible exact AfterRoute.ofNone
    | with_reducible exact AfterSome.ofNone
    | with_reducible apply AfterEx.ofOk
    | with_reducible exact AfterEx.ofError
    | (with_reducible refine After.ofSealed (by assumption) ?_)
    | (with_reducible refine After.ofOkPair (by assumption) ?_)
    | (with_reducible refine After.ofOk (by assumption) ?_)
    | with_reducible apply After.fold

theorem State.tokenAtBoundary_after {b T} (x0) (x1) (ht : Within 0x4037491128b681 T) (h1 : After T b x0) :
    After T b (@State.tokenAtBoundary x0 x1) := by
  unfold State.tokenAtBoundary
  try dsimp only
  repeat' first
    | with_reducible assumption
    | with_reducible apply State.each_after
    | with_reducible apply State.beginLead_after
    | with_reducible apply State.onToken_after
    | with_reducible apply State.count_after
    | with_reducible apply State.wrs_after
    | with_reducible apply State.seedingAtBoundary_after
    | with_reducible apply State.handProgress_after
    | with_reducible apply State.onAdmin_after
    | with_reducible apply State.startHandOver_after
    | with_reducible exact Within.mono ht rfl
    | exact RegIn.block ht (by decide) rfl
    | with_reducible apply FieldsIn.cons
    | with_reducible exact FieldsIn.nil
    | with_reducible apply AfterRoute.ite
    | split
    | (with_reducible intro _)
    | with_reducible apply AfterOut.ofNext
    | with_reducible apply AfterOpt.ofSome
    | with_reducible exact AfterOpt.ofNone
    | (with_reducible refine After.ofPair (by assumption) ?_)
    | (with_reducible refine After.ofTriple (by assumption) ?_)
    | (with_reducible refine After.ofOpt (by assumption) ?_)
    | with_reducible apply AfterSome.ofSome
    | with_reducible apply AfterRoute.ofSome
    | with_reducible exact AfterRoute.ofNone
    | with_reducible exact AfterSome.ofNone
    | with_reducible apply AfterEx.ofOk
    | with_reducible exact AfterEx.ofError
    | (with_reducible refine After.ofSealed (by assumption) ?_)
    | (with_reducible refine After.ofOkPair (by assumption) ?_)
    | (with_reducible refine After.ofOk (by assumption) ?_)
    | with_reducible apply After.fold

theorem execHandOver_after {b T} (x0) (x1) (ht : Within 0x6037591928bec1 T) (h2 : After T b x1) :
    AfterOut T b ((@execHandOver x0 x1)) := by
  unfold execHandOver
  try dsimp only
  repeat' first
    | with_reducible assumption
    | with_reducible apply onData_after
    | with_reducible apply State.startHandOver_after
    | with_reducible exact Within.mono ht rfl
    | with_reducible apply AfterRoute.ite
    | split
    | (with_reducible intro _)

theorem execHandOverGranted_after {b T} (x0) (x1) (x2) (ht : Within 0x603500112080c1 T) (h3 : After T b x2) :
    AfterOut T b (@execHandOverGranted x0 x1 x2) := by
  unfold execHandOverGranted
  try dsimp only
  repeat' first
    | with_reducible assumption
    | with_reducible apply onSoc_after
    | with_reducible apply State.keepReads_after
    | with_reducible apply State.noteTokens_after
    | with_reducible apply State.ownKey_after
    | with_reducible apply State.writeToken_after
    | with_reducible apply State.onGroup_after
    | with_reducible exact Within.mono ht rfl
    | exact RegIn.block ht (by decide) rfl
    | with_reducible apply AfterRoute.ite
    | split
    | (with_reducible intro _)
    | with_reducible apply AfterOut.ofNext
    | with_reducible apply AfterOpt.ofSome
    | with_reducible exact AfterOpt.ofNone
    | (with_reducible refine After.ofPair (by assumption) ?_)
    | (with_reducible refine After.ofTriple (by assumption) ?_)
    | (with_reducible refine After.ofOpt (by assumption) ?_)
    | with_reducible apply AfterSome.ofSome
    | with_reducible apply AfterRoute.ofSome
    | with_reducible exact AfterRoute.ofNone
    | with_reducible exact AfterSome.ofNone
    | with_reducible apply AfterEx.ofOk
    | with_reducible exact AfterEx.ofError
    | (with_reducible refine After.ofSealed (by assumption) ?_)
    | (with_reducible refine After.ofOkPair (by assumption) ?_)
    | (with_reducible refine After.ofOk (by assumption) ?_)
    | with_reducible apply After.fold

theorem execHandOverTimeout_after {b T} (x0) (x1) (ht : Within 0x40350111202281 T) (h2 : After T b x1) :
    AfterOut T b (@execHandOverTimeout x0 x1) := by
  unfold execHandOverTimeout
  try dsimp only
  repeat' first
    | with_reducible assumption
    | with_reducible apply onSoc_after
    | with_reducible apply State.commandGroup_after
    | with_reducible apply State.reportAna_after
    | with_reducible apply State.setBit_after
    | with_reducible apply State.onGroup_after
    | with_reducible exact Within.mono ht rfl
    | exact RegIn.block ht (by decide) rfl
    | with_reducible apply AfterRoute.ite
    | split
    | (with_reducible intro _)
    | with_reducible apply AfterOut.ofNext
    | with_reducible apply AfterOpt.ofSome
    | with_reducible exact AfterOpt.ofNone
    | (with_reducible refine After.ofPair (by assumption) ?_)
    | (with_reducible refine After.ofTriple (by assumption) ?_)
    | (with_reducible refine After.ofOpt (by assumption) ?_)
    | with_reducible apply AfterSome.ofSome
    | with_reducible apply AfterRoute.ofSome
    | with_reducible exact AfterRoute.ofNone
    | with_reducible exact AfterSome.ofNone
    | with_reducible apply AfterEx.ofOk
    | with_reducible exact AfterEx.ofError
    | (with_reducible refine After.ofSealed (by assumption) ?_)
    | (with_reducible refine After.ofOkPair (by assumption) ?_)
    | (with_reducible refine After.ofOk (by assumption) ?_)
    | with_reducible apply After.fold

theorem execHandBack_after {b T} (x0) (x1) (ht : Within 0x6037591928bec1 T) (h2 : After T b x1) :
    AfterOut T b ((@execHandBack x0 x1)) := by
  unfold execHandBack
  try dsimp only
  repeat' first
    | with_reducible assumption
    | with_reducible apply onData_after
    | with_reducible apply State.startHandOver_after
    | with_reducible exact Within.mono ht rfl
    | with_reducible apply AfterRoute.ite
    | split
    | (with_reducible intro _)

theorem State.tryFree_after {b T} (x0) (x1) (x2) (ht : Within 0x110000208001 T) (h1 : After T b x0) :
    After T b (@State.tryFree x0 x1 x2) := by
  unfold State.tryFree
  try dsimp only
  repeat' first
    | with_reducible assumption
    | with_reducible apply State.ownKey_after
    | with_reducible apply State.writeToken_after
    | with_reducible apply State.onGroup_after
    | with_reducible exact Within.mono ht rfl
    | exact RegIn.block ht (by decide) rfl
    | with_reducible apply AfterRoute.ite
    | split
    | (with_reducible intro _)
    | with_reducible apply AfterOut.ofNext
    | with_reducible apply AfterOpt.ofSome
    | with_reducible exact AfterOpt.ofNone
    | (with_reducible refine After.ofPair (by assumption) ?_)
    | (with_reducible refine After.ofTriple (by assumption) ?_)
    | (with_reducible refine After.ofOpt (by assumption) ?_)
    | with_reducible apply AfterSome.ofSome
    | with_reducible apply AfterRoute.ofSome
    | with_reducible exact AfterRoute.ofNone
    | with_reducible exact AfterSome.ofNone
    | with_reducible apply AfterEx.ofOk
    | with_reducible exact AfterEx.ofError
    | (with_reducible refine After.ofSealed (by assumption) ?_)
    | (with_reducible refine After.ofOkPair (by assumption) ?_)
    | (with_reducible refine After.ofOk (by assumption) ?_)
    | with_reducible apply After.fold

theorem State.tryHeld_after {b T} (x0) (x1) (ht : Within 0x4035011120a281 T) (h1 : After T b x0) :
    After T b (@State.tryHeld x0 x1) := by
  unfold State.tryHeld
  try dsimp only
  repeat' first
    | with_reducible assumption
    | with_reducible apply State.ownKey_after
    | with_reducible apply State.setBit_after
    | with_reducible apply State.wrs_after
    | with_reducible apply State.writeClaims_after
    | with_reducible apply State.reportAna_after
    | with_reducible apply State.noteOldKeys_after
    | with_reducible exact Within.mono ht rfl
    | exact RegIn.block ht (by decide) rfl
    | with_reducible apply FieldsIn.cons
    | with_reducible exact FieldsIn.nil
    | with_reducible apply AfterRoute.ite
    | split
    | (with_reducible intro _)
    | with_reducible apply AfterOut.ofNext
    | with_reducible apply AfterOpt.ofSome
    | with_reducible exact AfterOpt.ofNone
    | (with_reducible refine After.ofPair (by assumption) ?_)
    | (with_reducible refine After.ofTriple (by assumption) ?_)
    | (with_reducible refine After.ofOpt (by assumption) ?_)
    | with_reducible apply AfterSome.ofSome
    | with_reducible apply AfterRoute.ofSome
    | with_reducible exact AfterRoute.ofNone
    | with_reducible exact AfterSome.ofNone
    | with_reducible apply AfterEx.ofOk
    | with_reducible exact AfterEx.ofError
    | (with_reducible refine After.ofSealed (by assumption) ?_)
    | (with_reducible refine After.ofOkPair (by assumption) ?_)
    | (with_reducible refine After.ofOk (by assumption) ?_)
    | with_reducible apply After.fold

theorem execLeadTokenTry_after {b T} (x0) (x1) (x2) (ht : Within 0x6035011120a2c1 T) (h3 : After T b x2) :
    AfterOut T b (@execLeadTokenTry x0 x1 x2) := by
  unfold execLeadTokenTry
  try dsimp only
  repeat' first
    | with_reducible assumption
    | with_reducible apply onSoc_after
    | with_reducible apply State.onGroup_after
    | with_reducible apply State.keepReads_after
    | with_reducible apply State.noteTokens_after
    | with_reducible apply State.commandGroup_after
    | with_reducible apply State.showExpiry_after
    | with_reducible apply State.tryFree_after
    | with_reducible apply State.tryHeld_after
    | with_reducible exact Within.mono ht rfl
    | exact RegIn.block ht (by decide) rfl
    | with_reducible apply AfterRoute.ite
    | split
    | (with_reducible intro _)
    | with_reducible apply AfterOut.ofNext
    | with_reducible apply AfterOpt.ofSome
    | with_reducible exact AfterOpt.ofNone
    | (with_reducible refine After.ofPair (by assumption) ?_)
    | (with_reducible refine After.ofTriple (by assumption) ?_)
    | (with_reducible refine After.ofOpt (by assumption) ?_)
    | with_reducible apply AfterSome.ofSome
    | with_reducible apply AfterRoute.ofSome
    | with_reducible exact AfterRoute.ofNone
    | with_reducible exact AfterSome.ofNone
    | with_reducible apply AfterEx.ofOk
    | with_reducible exact AfterEx.ofError
    | (with_reducible refine After.ofSealed (by assumption) ?_)
    | (with_reducible refine After.ofOkPair (by assumption) ?_)
    | (with_reducible refine After.ofOk (by assumption) ?_)
    | with_reducible apply After.fold

theorem State.tokenCommand_after {b T} (x0) (x1) (x2) (x3) (x4) (ht : Within 0x613500112000ca T) (h1 : After T b x0) (h5 : ∀ y0, After T b y0 → AfterEx T b (fun v => v.2) ((x4 y0))) :
    After T b (@State.tokenCommand x0 x1 x2 x3 x4) := by
  unfold State.tokenCommand
  try dsimp only
  repeat' first
    | with_reducible assumption
    | with_reducible apply State.commandWrite_after
    | with_reducible apply State.wr_after
    | with_reducible apply State.onToken_after
    | with_reducible apply State.wrs_after
    | with_reducible apply h5
    | with_reducible exact Within.mono ht rfl
    | exact RegIn.block ht (by decide) rfl
    | with_reducible apply FieldsIn.cons
    | with_reducible exact FieldsIn.nil
    | exact NotWall (by omega) (by omega)
    | with_reducible apply AfterRoute.ite
    | split
    | (with_reducible intro _)
    | with_reducible apply AfterOut.ofNext
    | with_reducible apply AfterOpt.ofSome
    | with_reducible exact AfterOpt.ofNone
    | (with_reducible refine After.ofPair (by assumption) ?_)
    | (with_reducible refine After.ofTriple (by assumption) ?_)
    | (with_reducible refine After.ofOpt (by assumption) ?_)
    | with_reducible apply AfterSome.ofSome
    | with_reducible apply AfterRoute.ofSome
    | with_reducible exact AfterRoute.ofNone
    | with_reducible exact AfterSome.ofNone
    | with_reducible apply AfterEx.ofOk
    | with_reducible exact AfterEx.ofError
    | (with_reducible refine After.ofSealed (by assumption) ?_)
    | (with_reducible refine After.ofOkPair (by assumption) ?_)

theorem execLtkHandOverGroup_after {b T} (x0) (x1) (x2) (ht : Within 0x6137591928becb T) (h3 : After T b x2) :
    AfterOut T b ((@execLtkHandOverGroup x0 x1 x2)) := by
  unfold execLtkHandOverGroup
  try dsimp only
  repeat' first
    | with_reducible assumption
    | with_reducible apply onData_after
    | with_reducible apply State.tokenCommand_after
    | with_reducible apply State.startHandOver_after
    | with_reducible exact Within.mono ht rfl
    | with_reducible apply AfterRoute.ite
    | split
    | (with_reducible intro _)
    | with_reducible apply AfterOut.ofNext
    | with_reducible apply AfterOpt.ofSome
    | with_reducible exact AfterOpt.ofNone
    | (with_reducible refine After.ofPair (by assumption) ?_)
    | (with_reducible refine After.ofTriple (by assumption) ?_)
    | (with_reducible refine After.ofOpt (by assumption) ?_)
    | with_reducible apply AfterSome.ofSome
    | with_reducible apply AfterRoute.ofSome
    | with_reducible exact AfterRoute.ofNone
    | with_reducible exact AfterSome.ofNone
    | with_reducible apply AfterEx.ofOk
    | with_reducible exact AfterEx.ofError

theorem execLtkHandOverAll_after {b T} (x0) (x1) (ht : Within 0x6137591928becb T) (h2 : After T b x1) :
    AfterOut T b ((@execLtkHandOverAll x0 x1)) := by
  unfold execLtkHandOverAll
  try dsimp only
  repeat' first
    | with_reducible assumption
    | with_reducible apply onData_after
    | with_reducible apply State.tokenCommand_after
    | with_reducible apply State.onToken_after
    | with_reducible apply State.each_after
    | with_reducible apply State.startHandOver_after
    | with_reducible exact Within.mono ht rfl
    | with_reducible apply AfterRoute.ite
    | split
    | (with_reducible intro _)
    | with_reducible apply AfterOut.ofNext
    | with_reducible apply AfterOpt.ofSome
    | with_reducible exact AfterOpt.ofNone
    | (with_reducible refine After.ofPair (by assumption) ?_)
    | (with_reducible refine After.ofTriple (by assumption) ?_)
    | (with_reducible refine After.ofOpt (by assumption) ?_)
    | with_reducible apply AfterSome.ofSome
    | with_reducible apply AfterRoute.ofSome
    | with_reducible exact AfterRoute.ofNone
    | with_reducible exact AfterSome.ofNone
    | with_reducible apply AfterEx.ofOk
    | with_reducible exact AfterEx.ofError

theorem execLtkReleaseGroup_after {b T} (x0) (x1) (x2) (ht : Within 0x6137591928becb T) (h3 : After T b x2) :
    AfterOut T b ((@execLtkReleaseGroup x0 x1 x2)) := by
  unfold execLtkReleaseGroup
  try dsimp only
  repeat' first
    | with_reducible assumption
    | with_reducible apply onData_after
    | with_reducible apply State.tokenCommand_after
    | with_reducible apply State.startHandOver_after
    | with_reducible exact Within.mono ht rfl
    | with_reducible apply AfterRoute.ite
    | split
    | (with_reducible intro _)
    | with_reducible apply AfterOut.ofNext
    | with_reducible apply AfterOpt.ofSome
    | with_reducible exact AfterOpt.ofNone
    | (with_reducible refine After.ofPair (by assumption) ?_)
    | (with_reducible refine After.ofTriple (by assumption) ?_)
    | (with_reducible refine After.ofOpt (by assumption) ?_)
    | with_reducible apply AfterSome.ofSome
    | with_reducible apply AfterRoute.ofSome
    | with_reducible exact AfterRoute.ofNone
    | with_reducible exact AfterSome.ofNone
    | with_reducible apply AfterEx.ofOk
    | with_reducible exact AfterEx.ofError

theorem execLtkAcquireGroup_after {b T} (x0) (x1) (x2) (ht : Within 0x613500112000ca T) (h3 : After T b x2) :
    AfterOut T b ((@execLtkAcquireGroup x0 x1 x2)) := by
  unfold execLtkAcquireGroup
  try dsimp only
  repeat' first
    | with_reducible assumption
    | with_reducible apply onSoc_after
    | with_reducible apply State.tokenCommand_after
    | with_reducible apply State.readToken_after
    | with_reducible exact Within.mono ht rfl
    | with_reducible apply AfterRoute.ite
    | split
    | (with_reducible intro _)
    | with_reducible apply AfterOut.ofNext
    | with_reducible apply AfterOpt.ofSome
    | with_reducible exact AfterOpt.ofNone
    | (with_reducible refine After.ofPair (by assumption) ?_)
    | (with_reducible refine After.ofTriple (by assumption) ?_)
    | (with_reducible refine After.ofOpt (by assumption) ?_)
    | with_reducible apply AfterSome.ofSome
    | with_reducible apply AfterRoute.ofSome
    | with_reducible exact AfterRoute.ofNone
    | with_reducible exact AfterSome.ofNone
    | with_reducible apply AfterEx.ofOk
    | with_reducible exact AfterEx.ofError

theorem execLtkRunSelfTest_after {b T} (x0) (x1) (ht : Within 0x613500112000ca T) (h2 : After T b x1) :
    AfterOut T b ((@execLtkRunSelfTest x0 x1)) := by
  unfold execLtkRunSelfTest
  try dsimp only
  repeat' first
    | with_reducible assumption
    | with_reducible apply onSoc_after
    | with_reducible apply State.tokenCommand_after
    | with_reducible apply State.each_after
    | with_reducible apply State.onGroup_after
    | with_reducible exact Within.mono ht rfl
    | with_reducible apply AfterRoute.ite
    | split
    | (with_reducible intro _)
    | with_reducible apply AfterOut.ofNext
    | with_reducible apply AfterOpt.ofSome
    | with_reducible exact AfterOpt.ofNone
    | (with_reducible refine After.ofPair (by assumption) ?_)
    | (with_reducible refine After.ofTriple (by assumption) ?_)
    | (with_reducible refine After.ofOpt (by assumption) ?_)
    | with_reducible apply AfterSome.ofSome
    | with_reducible apply AfterRoute.ofSome
    | with_reducible exact AfterRoute.ofNone
    | with_reducible exact AfterSome.ofNone
    | with_reducible apply AfterEx.ofOk

end Sys2Proof.Machine
end

