-- ==== Sys2Proof/Laws/After/Activation.lean ====
section
/-! SUPPORT. What the operations of Activation keep (Laws/After.lean). -/

set_option Elab.async false
set_option linter.all false

namespace Sys2Proof.Machine

theorem State.beginOutage_after {b T} (x0) (ht : Within 0x40044111082601 T) (h1 : After T b x0) :
    After T b (@State.beginOutage x0) := by
  unfold State.beginOutage
  try dsimp only
  repeat' first
    | with_reducible assumption
    | with_reducible apply State.onAdmin_after
    | with_reducible apply State.each_after
    | with_reducible apply State.cutCommands_after
    | with_reducible exact Within.mono ht rfl
    | with_reducible apply AfterRoute.ite
    | split
    | (with_reducible intro _)

theorem State.beginActivation_after {b T} (x0) (ht : Within 0x40374911282681 T) (h1 : After T b x0) :
    After T b (@State.beginActivation x0) := by
  unfold State.beginActivation
  try dsimp only
  repeat' first
    | with_reducible assumption
    | with_reducible apply State.each_after
    | with_reducible apply State.completeAer_after
    | with_reducible apply State.onAdmin_after
    | with_reducible apply State.onToken_after
    | with_reducible apply State.startHandOver_after
    | with_reducible apply State.beginOutage_after
    | with_reducible exact Within.mono ht rfl
    | with_reducible apply AfterRoute.ite
    | split
    | (with_reducible intro _)

theorem State.reload_after {b T} (x0) (x1) (ht : Within 0x7fffffffffffff T) (h1 : After T b x0) :
    After T b (@State.reload x0 x1) := by
  unfold State.reload
  try dsimp only
  repeat' first
    | with_reducible assumption
    | with_reducible apply State.each_after
    | with_reducible apply State.resetController_after
    | with_reducible apply State.moduleReset_after
    | with_reducible apply State.onAdmin_after
    | with_reducible exact Within.mono ht rfl
    | with_reducible apply AfterRoute.ite
    | split
    | (with_reducible intro _)

theorem execFirmwareActivation_after {b T} (x0) (ht : Within 0x7fffffffffffff T) (h1 : After T b x0) :
    AfterOut T b ((@execFirmwareActivation x0)) := by
  unfold execFirmwareActivation
  try dsimp only
  repeat' first
    | with_reducible assumption
    | with_reducible apply onData_after
    | with_reducible apply State.beginActivation_after
    | with_reducible apply State.beginOutage_after
    | with_reducible apply State.onToken_after
    | with_reducible apply State.reload_after
    | with_reducible exact Within.mono ht rfl
    | with_reducible apply AfterRoute.ite
    | split
    | (with_reducible intro _)

end Sys2Proof.Machine
end

