-- ==== Sys2Proof/Laws/After/AdminOps.lean ====
section
/-! SUPPORT. What the operations of AdminOps keep (Laws/After.lean). -/

set_option Elab.async false
set_option linter.all false

namespace Sys2Proof.Machine

theorem State.fabricsRun_after {b T} (x0) (x1) (x2) (ht : Within 0x40040111002201 T) (h1 : After T b x0) (h3 : ∀ y0, After T b y0 → After T b (x2 y0)) :
    After T b (@State.fabricsRun x0 x1 x2) := by
  unfold State.fabricsRun
  try dsimp only
  repeat' first
    | with_reducible assumption
    | with_reducible apply h3
    | with_reducible apply State.endAdmin_after
    | with_reducible exact Within.mono ht rfl
    | exact RegIn.block ht (by decide) rfl
    | with_reducible apply AfterRoute.ite
    | split
    | (with_reducible intro _)
    | with_reducible apply AfterOut.ofNext
    | with_reducible apply AfterOpt.ofSome
    | with_reducible exact AfterOpt.ofNone
    | (with_reducible refine After.ofPair (by assumption) ?_)
    | (with_reducible refine After.ofTriple (by assumption) ?_)
    | (with_reducible refine After.ofOpt (by assumption) ?_)
    | with_reducible apply AfterSome.ofSome
    | with_reducible apply AfterRoute.ofSome
    | with_reducible exact AfterRoute.ofNone
    | with_reducible exact AfterSome.ofNone
    | with_reducible apply AfterEx.ofOk
    | with_reducible exact AfterEx.ofError
    | (with_reducible refine After.ofSealed (by assumption) ?_)
    | (with_reducible refine After.ofOkPair (by assumption) ?_)
    | (with_reducible refine After.ofOk (by assumption) ?_)
    | with_reducible apply After.fold

theorem State.enterAdmin_after {b T} (x0) (x1) (ht : Within 0x200 T) (h1 : After T b x0) :
    After T b (@State.enterAdmin x0 x1) := by
  unfold State.enterAdmin
  try dsimp only
  repeat' first
    | with_reducible assumption
    | with_reducible apply State.onHost_after
    | with_reducible exact Within.mono ht rfl
    | exact RegIn.block ht (by decide) rfl
    | with_reducible apply AfterRoute.ite
    | split
    | (with_reducible intro _)
    | with_reducible apply AfterOut.ofNext
    | with_reducible apply AfterOpt.ofSome
    | with_reducible exact AfterOpt.ofNone
    | (with_reducible refine After.ofPair (by assumption) ?_)
    | (with_reducible refine After.ofTriple (by assumption) ?_)
    | (with_reducible refine After.ofOpt (by assumption) ?_)
    | with_reducible apply AfterSome.ofSome
    | with_reducible apply AfterRoute.ofSome
    | with_reducible exact AfterRoute.ofNone
    | with_reducible exact AfterSome.ofNone
    | with_reducible apply AfterEx.ofOk
    | with_reducible exact AfterEx.ofError
    | (with_reducible refine After.ofSealed (by assumption) ?_)
    | (with_reducible refine After.ofOkPair (by assumption) ?_)
    | (with_reducible refine After.ofOk (by assumption) ?_)
    | with_reducible apply After.fold

theorem State.adminRun_after {b T} (x0) (x1) (x2) (x3) (ht : Within 0x40044111082601 T) (h1 : After T b x0) (h4 : ∀ y0, After T b y0 → After T b (x3 y0)) :
    After T b (@State.adminRun x0 x1 x2 x3) := by
  unfold State.adminRun
  try dsimp only
  repeat' first
    | with_reducible assumption
    | with_reducible apply State.endAdmin_after
    | with_reducible apply State.endConnection_after
    | with_reducible apply h4
    | with_reducible exact Within.mono ht rfl
    | with_reducible apply AfterRoute.ite
    | split

theorem State.logPage_after {b T} (x0) (x1) (x2) (x3) (ht : Within 0x201 T) (h1 : After T b x0) :
    AfterEx T b (fun v => v.2) (@State.logPage x0 x1 x2 x3) := by
  unfold State.logPage
  try dsimp only
  repeat' first
    | with_reducible assumption
    | with_reducible apply State.draw_after
    | with_reducible apply State.onController_after
    | with_reducible apply State.drawMany_after
    | with_reducible exact Within.mono ht rfl
    | exact RegIn.block ht (by decide) rfl
    | with_reducible apply AfterRoute.ite
    | split
    | (with_reducible intro _)
    | with_reducible apply AfterOut.ofNext
    | with_reducible apply AfterOpt.ofSome
    | with_reducible exact AfterOpt.ofNone
    | (with_reducible refine After.ofPair (by assumption) ?_)
    | (with_reducible refine After.ofTriple (by assumption) ?_)
    | (with_reducible refine After.ofOpt (by assumption) ?_)
    | with_reducible apply AfterSome.ofSome
    | with_reducible apply AfterRoute.ofSome
    | with_reducible exact AfterRoute.ofNone
    | with_reducible exact AfterSome.ofNone
    | with_reducible apply AfterEx.ofOk
    | with_reducible exact AfterEx.ofError
    | (with_reducible refine After.ofSealed (by assumption) ?_)
    | (with_reducible refine After.ofOkPair (by assumption) ?_)
    | (with_reducible refine After.ofOk (by assumption) ?_)
    | with_reducible apply After.fold

end Sys2Proof.Machine
end

