-- ==== Sys2Proof/Laws/After/Admin.lean ====
section
/-! SUPPORT. What the operations of Admin keep (Laws/After.lean). -/

set_option Elab.async false
set_option linter.all false

namespace Sys2Proof.Machine

theorem State.answerData_after {b T} (x0) (x1) (x2) (x3) (ht : Within 0x40040111002201 T) (h1 : After T b x0) :
    After T b (@State.answerData x0 x1 x2 x3) := by
  unfold State.answerData
  try dsimp only
  repeat' first
    | with_reducible assumption
    | with_reducible apply State.endAdmin_after
    | with_reducible apply State.sendData_after
    | with_reducible exact Within.mono ht rfl

theorem execGetLogPage_after {b T} (x0) (x1) (x2) (x3) (x4) (x5) (ht : Within 0x40044111082601 T) (h6 : After T b x5) :
    AfterOut T b (@execGetLogPage x0 x1 x2 x3 x4 x5) := by
  unfold execGetLogPage
  try dsimp only
  repeat' first
    | with_reducible assumption
    | with_reducible apply onSoc_after
    | with_reducible apply State.adminRun_after
    | with_reducible apply State.enterAdmin_after
    | with_reducible apply State.endAdmin_after
    | with_reducible apply State.logPage_after
    | with_reducible apply State.answerData_after
    | with_reducible exact Within.mono ht rfl
    | exact RegIn.block ht (by decide) rfl
    | with_reducible apply AfterRoute.ite
    | split
    | (with_reducible intro _)
    | with_reducible apply AfterOut.ofNext
    | with_reducible apply AfterOpt.ofSome
    | with_reducible exact AfterOpt.ofNone
    | (with_reducible refine After.ofPair (by assumption) ?_)
    | (with_reducible refine After.ofTriple (by assumption) ?_)
    | (with_reducible refine After.ofOpt (by assumption) ?_)
    | with_reducible apply AfterSome.ofSome
    | with_reducible apply AfterRoute.ofSome
    | with_reducible exact AfterRoute.ofNone
    | with_reducible exact AfterSome.ofNone
    | with_reducible apply AfterEx.ofOk
    | with_reducible exact AfterEx.ofError
    | (with_reducible refine After.ofSealed (by assumption) ?_)
    | (with_reducible refine After.ofOkPair (by assumption) ?_)
    | (with_reducible refine After.ofOk (by assumption) ?_)
    | with_reducible apply After.fold

theorem execIdentify_after {b T} (x0) (x1) (x2) (x3) (x4) (ht : Within 0x40044111082601 T) (h5 : After T b x4) :
    AfterOut T b (@execIdentify x0 x1 x2 x3 x4) := by
  unfold execIdentify
  try dsimp only
  repeat' first
    | with_reducible assumption
    | with_reducible apply onSoc_after
    | with_reducible apply State.adminRun_after
    | with_reducible apply State.enterAdmin_after
    | with_reducible apply State.endAdmin_after
    | with_reducible apply State.answerData_after
    | with_reducible exact Within.mono ht rfl
    | exact RegIn.block ht (by decide) rfl
    | with_reducible apply AfterRoute.ite
    | split
    | (with_reducible intro _)
    | with_reducible apply AfterOut.ofNext
    | with_reducible apply AfterOpt.ofSome
    | with_reducible exact AfterOpt.ofNone
    | (with_reducible refine After.ofPair (by assumption) ?_)
    | (with_reducible refine After.ofTriple (by assumption) ?_)
    | (with_reducible refine After.ofOpt (by assumption) ?_)
    | with_reducible apply AfterSome.ofSome
    | with_reducible apply AfterRoute.ofSome
    | with_reducible exact AfterRoute.ofNone
    | with_reducible exact AfterSome.ofNone
    | with_reducible apply AfterEx.ofOk
    | with_reducible exact AfterEx.ofError
    | (with_reducible refine After.ofSealed (by assumption) ?_)
    | (with_reducible refine After.ofOkPair (by assumption) ?_)
    | (with_reducible refine After.ofOk (by assumption) ?_)
    | with_reducible apply After.fold

theorem execAbort_after {b T} (x0) (x1) (ht : Within 0x40044111082601 T) (h2 : After T b x1) :
    AfterOut T b ((@execAbort x0 x1)) := by
  unfold execAbort
  try dsimp only
  repeat' first
    | with_reducible assumption
    | with_reducible apply onSoc_after
    | with_reducible apply State.adminRun_after
    | with_reducible apply State.endAdmin_after
    | with_reducible exact Within.mono ht rfl
    | with_reducible apply AfterRoute.ite
    | split
    | (with_reducible intro _)

theorem execKeepAlive_after {b T} (x0) (x1) (ht : Within 0x40044111082601 T) (h2 : After T b x1) :
    AfterOut T b (@execKeepAlive x0 x1) := by
  unfold execKeepAlive
  try dsimp only
  repeat' first
    | with_reducible assumption
    | with_reducible apply onSoc_after
    | with_reducible apply State.adminRun_after
    | with_reducible apply State.endAdmin_after
    | with_reducible apply State.onController_after
    | with_reducible exact Within.mono ht rfl
    | exact RegIn.block ht (by decide) rfl
    | with_reducible apply AfterRoute.ite
    | split
    | (with_reducible intro _)
    | with_reducible apply AfterOut.ofNext
    | with_reducible apply AfterOpt.ofSome
    | with_reducible exact AfterOpt.ofNone
    | (with_reducible refine After.ofPair (by assumption) ?_)
    | (with_reducible refine After.ofTriple (by assumption) ?_)
    | (with_reducible refine After.ofOpt (by assumption) ?_)
    | with_reducible apply AfterSome.ofSome
    | with_reducible apply AfterRoute.ofSome
    | with_reducible exact AfterRoute.ofNone
    | with_reducible exact AfterSome.ofNone
    | with_reducible apply AfterEx.ofOk
    | with_reducible exact AfterEx.ofError
    | (with_reducible refine After.ofSealed (by assumption) ?_)
    | (with_reducible refine After.ofOkPair (by assumption) ?_)
    | (with_reducible refine After.ofOk (by assumption) ?_)
    | with_reducible apply After.fold

theorem execAsynchronousEventRequest_after {b T} (x0) (x1) (ht : Within 0x40044111082601 T) (h2 : After T b x1) :
    AfterOut T b ((@execAsynchronousEventRequest x0 x1)) := by
  unfold execAsynchronousEventRequest
  try dsimp only
  repeat' first
    | with_reducible assumption
    | with_reducible apply onSoc_after
    | with_reducible apply State.adminRun_after
    | with_reducible apply State.endAdmin_after
    | with_reducible apply State.onController_after
    | with_reducible exact Within.mono ht rfl
    | with_reducible apply AfterRoute.ite
    | split
    | (with_reducible intro _)

theorem execUnknownIoOpcode_after {b T} (x0) (x1) (ht : Within 0x6036591908bec1 T) (h2 : After T b x1) :
    AfterOut T b (@execUnknownIoOpcode x0 x1) := by
  unfold execUnknownIoOpcode
  try dsimp only
  repeat' first
    | with_reducible assumption
    | with_reducible apply onData_after
    | with_reducible apply State.adminRun_after
    | with_reducible apply State.endAdmin_after
    | with_reducible apply State.refuse_after
    | with_reducible exact Within.mono ht rfl
    | exact RegIn.block ht (by decide) rfl
    | with_reducible apply AfterRoute.ite
    | split
    | (with_reducible intro _)
    | with_reducible apply AfterOut.ofNext
    | with_reducible apply AfterOpt.ofSome
    | with_reducible exact AfterOpt.ofNone
    | (with_reducible refine After.ofPair (by assumption) ?_)
    | (with_reducible refine After.ofTriple (by assumption) ?_)
    | (with_reducible refine After.ofOpt (by assumption) ?_)
    | with_reducible apply AfterSome.ofSome
    | with_reducible apply AfterRoute.ofSome
    | with_reducible exact AfterRoute.ofNone
    | with_reducible exact AfterSome.ofNone
    | with_reducible apply AfterEx.ofOk
    | with_reducible exact AfterEx.ofError
    | (with_reducible refine After.ofSealed (by assumption) ?_)
    | (with_reducible refine After.ofOkPair (by assumption) ?_)
    | (with_reducible refine After.ofOk (by assumption) ?_)
    | with_reducible apply After.fold

theorem State.setFeature_after {b T} (x0) (x1) (x2) (x3) (x4) (x5) (ht : Within 0x40040111002221 T) (h1 : After T b x0) :
    After T b (@State.setFeature x0 x1 x2 x3 x4 x5) := by
  unfold State.setFeature
  try dsimp only
  repeat' first
    | with_reducible assumption
    | with_reducible apply State.endAdmin_after
    | with_reducible apply State.onController_after
    | with_reducible apply State.onCfg_after
    | with_reducible exact Within.mono ht rfl
    | exact RegIn.block ht (by decide) rfl
    | with_reducible apply AfterRoute.ite
    | split
    | (with_reducible intro _)
    | with_reducible apply AfterOut.ofNext
    | with_reducible apply AfterOpt.ofSome
    | with_reducible exact AfterOpt.ofNone
    | (with_reducible refine After.ofPair (by assumption) ?_)
    | (with_reducible refine After.ofTriple (by assumption) ?_)
    | (with_reducible refine After.ofOpt (by assumption) ?_)
    | with_reducible apply AfterSome.ofSome
    | with_reducible apply AfterRoute.ofSome
    | with_reducible exact AfterRoute.ofNone
    | with_reducible exact AfterSome.ofNone
    | with_reducible apply AfterEx.ofOk
    | with_reducible exact AfterEx.ofError
    | (with_reducible refine After.ofSealed (by assumption) ?_)
    | (with_reducible refine After.ofOkPair (by assumption) ?_)
    | (with_reducible refine After.ofOk (by assumption) ?_)
    | with_reducible apply After.fold

theorem execSetFeatures_after {b T} (x0) (x1) (x2) (x3) (x4) (x5) (ht : Within 0x40044111082621 T) (h6 : After T b x5) :
    AfterOut T b (@execSetFeatures x0 x1 x2 x3 x4 x5) := by
  unfold execSetFeatures
  try dsimp only
  repeat' first
    | with_reducible assumption
    | with_reducible apply onSoc_after
    | with_reducible apply State.adminRun_after
    | with_reducible apply State.enterAdmin_after
    | with_reducible apply State.setFeature_after
    | with_reducible exact Within.mono ht rfl
    | exact RegIn.block ht (by decide) rfl
    | with_reducible apply AfterRoute.ite
    | split
    | (with_reducible intro _)
    | with_reducible apply AfterOut.ofNext
    | with_reducible apply AfterOpt.ofSome
    | with_reducible exact AfterOpt.ofNone
    | (with_reducible refine After.ofPair (by assumption) ?_)
    | (with_reducible refine After.ofTriple (by assumption) ?_)
    | (with_reducible refine After.ofOpt (by assumption) ?_)
    | with_reducible apply AfterSome.ofSome
    | with_reducible apply AfterRoute.ofSome
    | with_reducible exact AfterRoute.ofNone
    | with_reducible exact AfterSome.ofNone
    | with_reducible apply AfterEx.ofOk
    | with_reducible exact AfterEx.ofError
    | (with_reducible refine After.ofSealed (by assumption) ?_)
    | (with_reducible refine After.ofOkPair (by assumption) ?_)
    | (with_reducible refine After.ofOk (by assumption) ?_)
    | with_reducible apply After.fold

theorem State.getFeature_after {b T} (x0) (x1) (x2) (x3) (x4) (ht : Within 0x40040111002201 T) (h1 : After T b x0) :
    After T b (@State.getFeature x0 x1 x2 x3 x4) := by
  unfold State.getFeature
  try dsimp only
  repeat' first
    | with_reducible assumption
    | with_reducible apply State.endAdmin_after
    | with_reducible apply State.answerData_after
    | with_reducible exact Within.mono ht rfl
    | exact RegIn.block ht (by decide) rfl
    | with_reducible apply AfterRoute.ite
    | split
    | (with_reducible intro _)
    | with_reducible apply AfterOut.ofNext
    | with_reducible apply AfterOpt.ofSome
    | with_reducible exact AfterOpt.ofNone
    | (with_reducible refine After.ofPair (by assumption) ?_)
    | (with_reducible refine After.ofTriple (by assumption) ?_)
    | (with_reducible refine After.ofOpt (by assumption) ?_)
    | with_reducible apply AfterSome.ofSome
    | with_reducible apply AfterRoute.ofSome
    | with_reducible exact AfterRoute.ofNone
    | with_reducible exact AfterSome.ofNone
    | with_reducible apply AfterEx.ofOk
    | with_reducible exact AfterEx.ofError
    | (with_reducible refine After.ofSealed (by assumption) ?_)
    | (with_reducible refine After.ofOkPair (by assumption) ?_)
    | (with_reducible refine After.ofOk (by assumption) ?_)
    | with_reducible apply After.fold

theorem execGetFeatures_after {b T} (x0) (x1) (x2) (x3) (x4) (ht : Within 0x40044111082601 T) (h5 : After T b x4) :
    AfterOut T b (@execGetFeatures x0 x1 x2 x3 x4) := by
  unfold execGetFeatures
  try dsimp only
  repeat' first
    | with_reducible assumption
    | with_reducible apply onSoc_after
    | with_reducible apply State.adminRun_after
    | with_reducible apply State.enterAdmin_after
    | with_reducible apply State.getFeature_after
    | with_reducible exact Within.mono ht rfl
    | exact RegIn.block ht (by decide) rfl
    | with_reducible apply AfterRoute.ite
    | split
    | (with_reducible intro _)
    | with_reducible apply AfterOut.ofNext
    | with_reducible apply AfterOpt.ofSome
    | with_reducible exact AfterOpt.ofNone
    | (with_reducible refine After.ofPair (by assumption) ?_)
    | (with_reducible refine After.ofTriple (by assumption) ?_)
    | (with_reducible refine After.ofOpt (by assumption) ?_)
    | with_reducible apply AfterSome.ofSome
    | with_reducible apply AfterRoute.ofSome
    | with_reducible exact AfterRoute.ofNone
    | with_reducible exact AfterSome.ofNone
    | with_reducible apply AfterEx.ofOk
    | with_reducible exact AfterEx.ofError
    | (with_reducible refine After.ofSealed (by assumption) ?_)
    | (with_reducible refine After.ofOkPair (by assumption) ?_)
    | (with_reducible refine After.ofOk (by assumption) ?_)
    | with_reducible apply After.fold

theorem State.atLead_after {b T} (x0) (x1) (x2) (x3) (x4) (x5) (x6) (ht : Within 0x40040111082201 T) (h1 : After T b x0) (h7 : ∀ y0, After T b y0 → After T b (x6 y0)) :
    After T b (@State.atLead x0 x1 x2 x3 x4 x5 x6) := by
  unfold State.atLead
  try dsimp only
  repeat' first
    | with_reducible assumption
    | with_reducible apply State.emit_after
    | with_reducible apply State.onAdmin_after
    | with_reducible apply State.endAdmin_after
    | with_reducible apply h7
    | with_reducible exact Within.mono ht rfl
    | with_reducible apply AfterRoute.ite
    | split

theorem State.createNamespace_after {b T} (x0) (x1) (x2) (x3) (x4) (ht : Within 0x4034011100a281 T) (h1 : After T b x0) :
    After T b (@State.createNamespace x0 x1 x2 x3 x4) := by
  unfold State.createNamespace
  try dsimp only
  repeat' first
    | with_reducible assumption
    | with_reducible apply State.endAdmin_after
    | with_reducible apply State.onHost_after
    | with_reducible apply State.installKey_after
    | with_reducible apply State.reportAna_after
    | with_reducible exact Within.mono ht rfl
    | exact RegIn.block ht (by decide) rfl
    | with_reducible apply AfterRoute.ite
    | split
    | (with_reducible intro _)
    | with_reducible apply AfterOut.ofNext
    | with_reducible apply AfterOpt.ofSome
    | with_reducible exact AfterOpt.ofNone
    | (with_reducible refine After.ofPair (by assumption) ?_)
    | (with_reducible refine After.ofTriple (by assumption) ?_)
    | (with_reducible refine After.ofOpt (by assumption) ?_)
    | with_reducible apply AfterSome.ofSome
    | with_reducible apply AfterRoute.ofSome
    | with_reducible exact AfterRoute.ofNone
    | with_reducible exact AfterSome.ofNone
    | with_reducible apply AfterEx.ofOk
    | with_reducible exact AfterEx.ofError
    | (with_reducible refine After.ofSealed (by assumption) ?_)
    | (with_reducible refine After.ofOkPair (by assumption) ?_)
    | (with_reducible refine After.ofOk (by assumption) ?_)
    | with_reducible apply After.fold

theorem execNamespaceManagementCreate_after {b T} (x0) (x1) (x2) (x3) (x4) (x5) (ht : Within 0x4034411108a681 T) (h6 : After T b x5) :
    AfterOut T b (@execNamespaceManagementCreate x0 x1 x2 x3 x4 x5) := by
  unfold execNamespaceManagementCreate
  try dsimp only
  repeat' first
    | with_reducible assumption
    | with_reducible apply onSoc_after
    | with_reducible apply State.adminRun_after
    | with_reducible apply State.enterAdmin_after
    | with_reducible apply State.endAdmin_after
    | with_reducible apply State.atLead_after
    | with_reducible apply State.createNamespace_after
    | with_reducible exact Within.mono ht rfl
    | exact RegIn.block ht (by decide) rfl
    | with_reducible apply AfterRoute.ite
    | split
    | (with_reducible intro _)
    | with_reducible apply AfterOut.ofNext
    | with_reducible apply AfterOpt.ofSome
    | with_reducible exact AfterOpt.ofNone
    | (with_reducible refine After.ofPair (by assumption) ?_)
    | (with_reducible refine After.ofTriple (by assumption) ?_)
    | (with_reducible refine After.ofOpt (by assumption) ?_)
    | with_reducible apply AfterSome.ofSome
    | with_reducible apply AfterRoute.ofSome
    | with_reducible exact AfterRoute.ofNone
    | with_reducible exact AfterSome.ofNone
    | with_reducible apply AfterEx.ofOk
    | with_reducible exact AfterEx.ofError
    | (with_reducible refine After.ofSealed (by assumption) ?_)
    | (with_reducible refine After.ofOkPair (by assumption) ?_)
    | (with_reducible refine After.ofOk (by assumption) ?_)
    | with_reducible apply After.fold

theorem State.deleteNamespace_after {b T} (x0) (x1) (ht : Within 0x40340111002681 T) (h1 : After T b x0) :
    After T b (@State.deleteNamespace x0 x1) := by
  unfold State.deleteNamespace
  try dsimp only
  repeat' first
    | with_reducible assumption
    | with_reducible apply State.onNamespace_after
    | with_reducible apply State.reapNamespaces_after
    | with_reducible apply State.reportAna_after
    | with_reducible apply State.each_after
    | with_reducible apply State.namespaceChanged_after
    | with_reducible exact Within.mono ht rfl
    | exact RegIn.block ht (by decide) rfl
    | with_reducible apply AfterRoute.ite
    | split
    | (with_reducible intro _)
    | with_reducible apply AfterOut.ofNext
    | with_reducible apply AfterOpt.ofSome
    | with_reducible exact AfterOpt.ofNone
    | (with_reducible refine After.ofPair (by assumption) ?_)
    | (with_reducible refine After.ofTriple (by assumption) ?_)
    | (with_reducible refine After.ofOpt (by assumption) ?_)
    | with_reducible apply AfterSome.ofSome
    | with_reducible apply AfterRoute.ofSome
    | with_reducible exact AfterRoute.ofNone
    | with_reducible exact AfterSome.ofNone
    | with_reducible apply AfterEx.ofOk
    | with_reducible exact AfterEx.ofError
    | (with_reducible refine After.ofSealed (by assumption) ?_)
    | (with_reducible refine After.ofOkPair (by assumption) ?_)
    | (with_reducible refine After.ofOk (by assumption) ?_)
    | with_reducible apply After.fold

theorem execNamespaceManagementDelete_after {b T} (x0) (x1) (x2) (ht : Within 0x40344111082681 T) (h3 : After T b x2) :
    AfterOut T b ((@execNamespaceManagementDelete x0 x1 x2)) := by
  unfold execNamespaceManagementDelete
  try dsimp only
  repeat' first
    | with_reducible assumption
    | with_reducible apply onSoc_after
    | with_reducible apply State.adminRun_after
    | with_reducible apply State.endAdmin_after
    | with_reducible apply State.atLead_after
    | with_reducible apply State.deleteNamespace_after
    | with_reducible exact Within.mono ht rfl
    | with_reducible apply AfterRoute.ite
    | split
    | (with_reducible intro _)

theorem execAdminCommandForward_after {b T} (x0) (x1) (x2) (x3) (ht : Within 0x40040111082201 T) (h4 : After T b x3) :
    AfterOut T b ((@execAdminCommandForward x0 x1 x2 x3)) := by
  unfold execAdminCommandForward
  try dsimp only
  repeat' first
    | with_reducible assumption
    | with_reducible apply onSoc_after
    | with_reducible apply State.endAdmin_after
    | with_reducible apply State.onAdmin_after
    | with_reducible exact Within.mono ht rfl
    | with_reducible apply AfterRoute.ite
    | split
    | (with_reducible intro _)

theorem State.attachNamespace_after {b T} (x0) (x1) (x2) (x3) (ht : Within 0x40040111002201 T) (h1 : After T b x0) :
    After T b (@State.attachNamespace x0 x1 x2 x3) := by
  unfold State.attachNamespace
  try dsimp only
  repeat' first
    | with_reducible assumption
    | with_reducible apply State.endAdmin_after
    | with_reducible apply State.onNamespace_after
    | with_reducible apply State.each_after
    | with_reducible apply State.namespaceChanged_after
    | with_reducible exact Within.mono ht rfl
    | exact RegIn.block ht (by decide) rfl
    | with_reducible apply AfterRoute.ite
    | split
    | (with_reducible intro _)
    | with_reducible apply AfterOut.ofNext
    | with_reducible apply AfterOpt.ofSome
    | with_reducible exact AfterOpt.ofNone
    | (with_reducible refine After.ofPair (by assumption) ?_)
    | (with_reducible refine After.ofTriple (by assumption) ?_)
    | (with_reducible refine After.ofOpt (by assumption) ?_)
    | with_reducible apply AfterSome.ofSome
    | with_reducible apply AfterRoute.ofSome
    | with_reducible exact AfterRoute.ofNone
    | with_reducible exact AfterSome.ofNone
    | with_reducible apply AfterEx.ofOk
    | with_reducible exact AfterEx.ofError
    | (with_reducible refine After.ofSealed (by assumption) ?_)
    | (with_reducible refine After.ofOkPair (by assumption) ?_)
    | (with_reducible refine After.ofOk (by assumption) ?_)
    | with_reducible apply After.fold

theorem execNamespaceAttach_after {b T} (x0) (x1) (x2) (x3) (ht : Within 0x40044111082601 T) (h4 : After T b x3) :
    AfterOut T b (@execNamespaceAttach x0 x1 x2 x3) := by
  unfold execNamespaceAttach
  try dsimp only
  repeat' first
    | with_reducible assumption
    | with_reducible apply onSoc_after
    | with_reducible apply State.adminRun_after
    | with_reducible apply State.enterAdmin_after
    | with_reducible apply State.endAdmin_after
    | with_reducible apply State.atLead_after
    | with_reducible apply State.attachNamespace_after
    | with_reducible exact Within.mono ht rfl
    | exact RegIn.block ht (by decide) rfl
    | with_reducible apply AfterRoute.ite
    | split
    | (with_reducible intro _)
    | with_reducible apply AfterOut.ofNext
    | with_reducible apply AfterOpt.ofSome
    | with_reducible exact AfterOpt.ofNone
    | (with_reducible refine After.ofPair (by assumption) ?_)
    | (with_reducible refine After.ofTriple (by assumption) ?_)
    | (with_reducible refine After.ofOpt (by assumption) ?_)
    | with_reducible apply AfterSome.ofSome
    | with_reducible apply AfterRoute.ofSome
    | with_reducible exact AfterRoute.ofNone
    | with_reducible exact AfterSome.ofNone
    | with_reducible apply AfterEx.ofOk
    | with_reducible exact AfterEx.ofError
    | (with_reducible refine After.ofSealed (by assumption) ?_)
    | (with_reducible refine After.ofOkPair (by assumption) ?_)
    | (with_reducible refine After.ofOk (by assumption) ?_)
    | with_reducible apply After.fold

theorem State.detachNamespace_after {b T} (x0) (x1) (x2) (x3) (ht : Within 0x40040111002201 T) (h1 : After T b x0) :
    After T b (@State.detachNamespace x0 x1 x2 x3) := by
  unfold State.detachNamespace
  try dsimp only
  repeat' first
    | with_reducible assumption
    | with_reducible apply State.endAdmin_after
    | with_reducible apply State.onNamespace_after
    | with_reducible apply State.each_after
    | with_reducible apply State.namespaceChanged_after
    | with_reducible exact Within.mono ht rfl
    | with_reducible apply AfterRoute.ite
    | split
    | (with_reducible intro _)

theorem execNamespaceDetach_after {b T} (x0) (x1) (x2) (x3) (ht : Within 0x40044111082601 T) (h4 : After T b x3) :
    AfterOut T b (@execNamespaceDetach x0 x1 x2 x3) := by
  unfold execNamespaceDetach
  try dsimp only
  repeat' first
    | with_reducible assumption
    | with_reducible apply onSoc_after
    | with_reducible apply State.adminRun_after
    | with_reducible apply State.enterAdmin_after
    | with_reducible apply State.endAdmin_after
    | with_reducible apply State.atLead_after
    | with_reducible apply State.detachNamespace_after
    | with_reducible exact Within.mono ht rfl
    | exact RegIn.block ht (by decide) rfl
    | with_reducible apply AfterRoute.ite
    | split
    | (with_reducible intro _)
    | with_reducible apply AfterOut.ofNext
    | with_reducible apply AfterOpt.ofSome
    | with_reducible exact AfterOpt.ofNone
    | (with_reducible refine After.ofPair (by assumption) ?_)
    | (with_reducible refine After.ofTriple (by assumption) ?_)
    | (with_reducible refine After.ofOpt (by assumption) ?_)
    | with_reducible apply AfterSome.ofSome
    | with_reducible apply AfterRoute.ofSome
    | with_reducible exact AfterRoute.ofNone
    | with_reducible exact AfterSome.ofNone
    | with_reducible apply AfterEx.ofOk
    | with_reducible exact AfterEx.ofError
    | (with_reducible refine After.ofSealed (by assumption) ?_)
    | (with_reducible refine After.ofOkPair (by assumption) ?_)
    | (with_reducible refine After.ofOk (by assumption) ?_)
    | with_reducible apply After.fold

theorem State.stageImage_after {b T} (x0) (x1) (x2) (ht : Within 0x80000 T) (h1 : After T b x0) :
    After T b (Prod.snd ((@State.stageImage x0 x1 x2))) := by
  unfold State.stageImage
  try dsimp only
  repeat' first
    | with_reducible assumption
    | with_reducible apply State.onAdmin_after
    | with_reducible exact Within.mono ht rfl
    | with_reducible apply AfterRoute.ite
    | split

theorem execFirmwareImageDownload_after {b T} (x0) (x1) (x2) (x3) (ht : Within 0x40044111082601 T) (h4 : After T b x3) :
    AfterOut T b (@execFirmwareImageDownload x0 x1 x2 x3) := by
  unfold execFirmwareImageDownload
  try dsimp only
  repeat' first
    | with_reducible assumption
    | with_reducible apply onSoc_after
    | with_reducible apply State.adminRun_after
    | with_reducible apply State.enterAdmin_after
    | with_reducible apply State.stageImage_after
    | with_reducible apply State.endAdmin_after
    | with_reducible exact Within.mono ht rfl
    | exact RegIn.block ht (by decide) rfl
    | with_reducible apply AfterRoute.ite
    | split
    | (with_reducible intro _)
    | with_reducible apply AfterOut.ofNext
    | with_reducible apply AfterOpt.ofSome
    | with_reducible exact AfterOpt.ofNone
    | (with_reducible refine After.ofPair (by assumption) ?_)
    | (with_reducible refine After.ofTriple (by assumption) ?_)
    | (with_reducible refine After.ofOpt (by assumption) ?_)
    | with_reducible apply AfterSome.ofSome
    | with_reducible apply AfterRoute.ofSome
    | with_reducible exact AfterRoute.ofNone
    | with_reducible exact AfterSome.ofNone
    | with_reducible apply AfterEx.ofOk
    | with_reducible exact AfterEx.ofError
    | (with_reducible refine After.ofSealed (by assumption) ?_)
    | (with_reducible refine After.ofOkPair (by assumption) ?_)
    | (with_reducible refine After.ofOk (by assumption) ?_)
    | with_reducible apply After.fold

theorem State.storeImage_after {b T} (x0) (x1) (ht : Within 0x80000 T) (h1 : After T b x0) :
    After T b (Prod.snd ((@State.storeImage x0 x1))) := by
  unfold State.storeImage
  try dsimp only
  repeat' first
    | with_reducible assumption
    | with_reducible apply State.onAdmin_after
    | with_reducible exact Within.mono ht rfl
    | with_reducible apply AfterRoute.ite
    | split

theorem State.storeImageNext_after {b T} (x0) (x1) (ht : Within 0x80000 T) (h1 : After T b x0) :
    After T b (Prod.snd (@State.storeImageNext x0 x1)) := by
  unfold State.storeImageNext
  try dsimp only
  repeat' first
    | with_reducible assumption
    | with_reducible apply State.storeImage_after
    | with_reducible apply State.onAdmin_after
    | with_reducible exact Within.mono ht rfl
    | exact RegIn.block ht (by decide) rfl
    | with_reducible apply AfterRoute.ite
    | split
    | (with_reducible intro _)
    | with_reducible apply AfterOut.ofNext
    | with_reducible apply AfterOpt.ofSome
    | with_reducible exact AfterOpt.ofNone
    | (with_reducible refine After.ofPair (by assumption) ?_)
    | (with_reducible refine After.ofTriple (by assumption) ?_)
    | (with_reducible refine After.ofOpt (by assumption) ?_)
    | with_reducible apply AfterSome.ofSome
    | with_reducible apply AfterRoute.ofSome
    | with_reducible exact AfterRoute.ofNone
    | with_reducible exact AfterSome.ofNone
    | with_reducible apply AfterEx.ofOk
    | with_reducible exact AfterEx.ofError
    | (with_reducible refine After.ofSealed (by assumption) ?_)
    | (with_reducible refine After.ofOkPair (by assumption) ?_)
    | (with_reducible refine After.ofOk (by assumption) ?_)
    | with_reducible apply After.fold

theorem State.markImage_after {b T} (x0) (x1) (ht : Within 0x80000 T) (h1 : After T b x0) :
    After T b (Prod.snd (@State.markImage x0 x1)) := by
  unfold State.markImage
  try dsimp only
  repeat' first
    | with_reducible assumption
    | with_reducible apply State.onAdmin_after
    | with_reducible exact Within.mono ht rfl
    | exact RegIn.block ht (by decide) rfl
    | with_reducible apply AfterRoute.ite
    | split
    | (with_reducible intro _)
    | with_reducible apply AfterOut.ofNext
    | with_reducible apply AfterOpt.ofSome
    | with_reducible exact AfterOpt.ofNone
    | (with_reducible refine After.ofPair (by assumption) ?_)
    | (with_reducible refine After.ofTriple (by assumption) ?_)
    | (with_reducible refine After.ofOpt (by assumption) ?_)
    | with_reducible apply AfterSome.ofSome
    | with_reducible apply AfterRoute.ofSome
    | with_reducible exact AfterRoute.ofNone
    | with_reducible exact AfterSome.ofNone
    | with_reducible apply AfterEx.ofOk
    | with_reducible exact AfterEx.ofError
    | (with_reducible refine After.ofSealed (by assumption) ?_)
    | (with_reducible refine After.ofOkPair (by assumption) ?_)
    | (with_reducible refine After.ofOk (by assumption) ?_)
    | with_reducible apply After.fold

theorem State.commitActivate_after {b T} (x0) (x1) (ht : Within 0x80000 T) (h1 : After T b x0) :
    After T b (Prod.snd ((@State.commitActivate x0 x1))) := by
  unfold State.commitActivate
  try dsimp only
  repeat' first
    | with_reducible assumption
    | with_reducible apply State.storeImage_after
    | with_reducible apply State.onAdmin_after
    | with_reducible exact Within.mono ht rfl
    | with_reducible apply AfterRoute.ite
    | split

theorem State.commitDone_after {b T} (r : Nat × State) (key) (ht : Within 0x40040111002201 T) (h : After T b r.2) : After T b (@State.commitDone r key) :=
  State.endAdmin_after _ _ _ _ (ht.mono rfl) h

theorem execFirmwareCommitStore_after {b T} (x0) (x1) (x2) (x3) (ht : Within 0x40044111082601 T) (h4 : After T b x3) :
    AfterOut T b (@execFirmwareCommitStore x0 x1 x2 x3) := by
  unfold execFirmwareCommitStore
  try dsimp only
  repeat' first
    | with_reducible assumption
    | with_reducible apply onSoc_after
    | with_reducible apply State.adminRun_after
    | with_reducible apply State.commitDone_after
    | with_reducible apply State.storeImage_after
    | with_reducible apply State.endAdmin_after
    | with_reducible exact Within.mono ht rfl
    | exact RegIn.block ht (by decide) rfl
    | with_reducible apply AfterRoute.ite
    | split
    | (with_reducible intro _)
    | with_reducible apply AfterOut.ofNext
    | with_reducible apply AfterOpt.ofSome
    | with_reducible exact AfterOpt.ofNone
    | (with_reducible refine After.ofPair (by assumption) ?_)
    | (with_reducible refine After.ofTriple (by assumption) ?_)
    | (with_reducible refine After.ofOpt (by assumption) ?_)
    | with_reducible apply AfterSome.ofSome
    | with_reducible apply AfterRoute.ofSome
    | with_reducible exact AfterRoute.ofNone
    | with_reducible exact AfterSome.ofNone
    | with_reducible apply AfterEx.ofOk
    | with_reducible exact AfterEx.ofError
    | (with_reducible refine After.ofSealed (by assumption) ?_)
    | (with_reducible refine After.ofOkPair (by assumption) ?_)
    | (with_reducible refine After.ofOk (by assumption) ?_)
    | with_reducible apply After.fold

theorem execFirmwareCommitStoreNext_after {b T} (x0) (x1) (x2) (ht : Within 0x40044111082601 T) (h3 : After T b x2) :
    AfterOut T b ((@execFirmwareCommitStoreNext x0 x1 x2)) := by
  unfold execFirmwareCommitStoreNext
  try dsimp only
  repeat' first
    | with_reducible assumption
    | with_reducible apply onSoc_after
    | with_reducible apply State.adminRun_after
    | with_reducible apply State.commitDone_after
    | with_reducible apply State.storeImageNext_after
    | with_reducible exact Within.mono ht rfl
    | with_reducible apply AfterRoute.ite
    | split
    | (with_reducible intro _)

theorem execFirmwareCommitMark_after {b T} (x0) (x1) (x2) (ht : Within 0x40044111082601 T) (h3 : After T b x2) :
    AfterOut T b ((@execFirmwareCommitMark x0 x1 x2)) := by
  unfold execFirmwareCommitMark
  try dsimp only
  repeat' first
    | with_reducible assumption
    | with_reducible apply onSoc_after
    | with_reducible apply State.adminRun_after
    | with_reducible apply State.commitDone_after
    | with_reducible apply State.markImage_after
    | with_reducible exact Within.mono ht rfl
    | with_reducible apply AfterRoute.ite
    | split
    | (with_reducible intro _)

theorem execFirmwareCommitActivate_after {b T} (x0) (x1) (x2) (ht : Within 0x40044111082601 T) (h3 : After T b x2) :
    AfterOut T b ((@execFirmwareCommitActivate x0 x1 x2)) := by
  unfold execFirmwareCommitActivate
  try dsimp only
  repeat' first
    | with_reducible assumption
    | with_reducible apply onSoc_after
    | with_reducible apply State.adminRun_after
    | with_reducible apply State.commitDone_after
    | with_reducible apply State.commitActivate_after
    | with_reducible exact Within.mono ht rfl
    | with_reducible apply AfterRoute.ite
    | split
    | (with_reducible intro _)

theorem State.endTrial_after {b T} (x0) (ht : Within 0x40340011080080 T) (h1 : After T b x0) :
    After T b (@State.endTrial x0) := by
  unfold State.endTrial
  try dsimp only
  repeat' first
    | with_reducible assumption
    | with_reducible apply State.notify_after
    | with_reducible apply State.onAdmin_after
    | with_reducible exact Within.mono ht rfl
    | exact RegIn.block ht (by decide) rfl
    | with_reducible apply AfterRoute.ite
    | split
    | (with_reducible intro _)
    | with_reducible apply AfterOut.ofNext
    | with_reducible apply AfterOpt.ofSome
    | with_reducible exact AfterOpt.ofNone
    | (with_reducible refine After.ofPair (by assumption) ?_)
    | (with_reducible refine After.ofTriple (by assumption) ?_)
    | (with_reducible refine After.ofOpt (by assumption) ?_)
    | with_reducible apply AfterSome.ofSome
    | with_reducible apply AfterRoute.ofSome
    | with_reducible exact AfterRoute.ofNone
    | with_reducible exact AfterSome.ofNone
    | with_reducible apply AfterEx.ofOk
    | with_reducible exact AfterEx.ofError
    | (with_reducible refine After.ofSealed (by assumption) ?_)
    | (with_reducible refine After.ofOkPair (by assumption) ?_)
    | (with_reducible refine After.ofOk (by assumption) ?_)
    | with_reducible apply After.fold

theorem execFirmwareTrialEnd_after {b T} (x0) (ht : Within 0x40340011080080 T) (h1 : After T b x0) :
    AfterOut T b (@execFirmwareTrialEnd x0) := by
  unfold execFirmwareTrialEnd
  try dsimp only
  repeat' first
    | with_reducible assumption
    | with_reducible apply onSoc_after
    | with_reducible apply State.endTrial_after
    | with_reducible exact Within.mono ht rfl
    | exact RegIn.block ht (by decide) rfl
    | with_reducible apply AfterRoute.ite
    | split
    | (with_reducible intro _)
    | with_reducible apply AfterOut.ofNext
    | with_reducible apply AfterOpt.ofSome
    | with_reducible exact AfterOpt.ofNone
    | (with_reducible refine After.ofPair (by assumption) ?_)
    | (with_reducible refine After.ofTriple (by assumption) ?_)
    | (with_reducible refine After.ofOpt (by assumption) ?_)
    | with_reducible apply AfterSome.ofSome
    | with_reducible apply AfterRoute.ofSome
    | with_reducible exact AfterRoute.ofNone
    | with_reducible exact AfterSome.ofNone
    | with_reducible apply AfterEx.ofOk
    | with_reducible exact AfterEx.ofError
    | (with_reducible refine After.ofSealed (by assumption) ?_)
    | (with_reducible refine After.ofOkPair (by assumption) ?_)
    | (with_reducible refine After.ofOk (by assumption) ?_)
    | with_reducible apply After.fold

theorem execFirmwareTrialTimeout_after {b T} (x0) (ht : Within 0x80000 T) (h1 : After T b x0) :
    AfterOut T b (@execFirmwareTrialTimeout x0) := by
  unfold execFirmwareTrialTimeout
  try dsimp only
  repeat' first
    | with_reducible assumption
    | with_reducible apply onSoc_after
    | with_reducible apply State.onAdmin_after
    | with_reducible exact Within.mono ht rfl
    | exact RegIn.block ht (by decide) rfl
    | with_reducible apply AfterRoute.ite
    | split
    | (with_reducible intro _)
    | with_reducible apply AfterOut.ofNext
    | with_reducible apply AfterOpt.ofSome
    | with_reducible exact AfterOpt.ofNone
    | (with_reducible refine After.ofPair (by assumption) ?_)
    | (with_reducible refine After.ofTriple (by assumption) ?_)
    | (with_reducible refine After.ofOpt (by assumption) ?_)
    | with_reducible apply AfterSome.ofSome
    | with_reducible apply AfterRoute.ofSome
    | with_reducible exact AfterRoute.ofNone
    | with_reducible exact AfterSome.ofNone
    | with_reducible apply AfterEx.ofOk
    | with_reducible exact AfterEx.ofError
    | (with_reducible refine After.ofSealed (by assumption) ?_)
    | (with_reducible refine After.ofOkPair (by assumption) ?_)
    | (with_reducible refine After.ofOk (by assumption) ?_)
    | with_reducible apply After.fold

theorem State.connectReply_after {b T} (x0) (x1) (x2) (x3) (x4) (x5) (x6) (ht : Within 0x40000100002000 T) (h1 : After T b x0) :
    After T b (@State.connectReply x0 x1 x2 x3 x4 x5 x6) := by
  unfold State.connectReply
  try dsimp only
  repeat' first
    | with_reducible assumption
    | with_reducible apply State.queueResponse_after
    | with_reducible apply State.emit_after
    | with_reducible exact Within.mono ht rfl
    | exact RegIn.block ht (by decide) rfl
    | with_reducible apply AfterRoute.ite
    | split
    | (with_reducible intro _)
    | with_reducible apply AfterOut.ofNext
    | with_reducible apply AfterOpt.ofSome
    | with_reducible exact AfterOpt.ofNone
    | (with_reducible refine After.ofPair (by assumption) ?_)
    | (with_reducible refine After.ofTriple (by assumption) ?_)
    | (with_reducible refine After.ofOpt (by assumption) ?_)
    | with_reducible apply AfterSome.ofSome
    | with_reducible apply AfterRoute.ofSome
    | with_reducible exact AfterRoute.ofNone
    | with_reducible exact AfterSome.ofNone
    | with_reducible apply AfterEx.ofOk
    | with_reducible exact AfterEx.ofError
    | (with_reducible refine After.ofSealed (by assumption) ?_)
    | (with_reducible refine After.ofOkPair (by assumption) ?_)
    | (with_reducible refine After.ofOk (by assumption) ?_)
    | with_reducible apply After.fold

theorem State.pinContext_after {b T} (x0) (x1) (ht : Within 0x2000 T) (h1 : After T b x0) :
    After T b (@State.pinContext x0 x1) := by
  unfold State.pinContext
  try dsimp only
  repeat' first
    | with_reducible assumption
    | with_reducible apply State.setCtx_after
    | with_reducible exact Within.mono ht rfl
    | with_reducible apply AfterRoute.ite
    | split

theorem State.bindQueue_after {b T} (x0) (x1) (x2) (x3) (x4) (ht : Within 0x2200 T) (h1 : After T b x0) :
    After T b (@State.bindQueue x0 x1 x2 x3 x4) := by
  unfold State.bindQueue
  try dsimp only
  repeat' first
    | with_reducible assumption
    | with_reducible apply State.onController_after
    | with_reducible apply State.onQp_after
    | with_reducible apply State.setCtx_after
    | with_reducible apply State.pinContext_after
    | with_reducible exact Within.mono ht rfl
    | exact RegIn.block ht (by decide) rfl
    | with_reducible apply AfterRoute.ite
    | split
    | (with_reducible intro _)
    | with_reducible apply AfterOut.ofNext
    | with_reducible apply AfterOpt.ofSome
    | with_reducible exact AfterOpt.ofNone
    | (with_reducible refine After.ofPair (by assumption) ?_)
    | (with_reducible refine After.ofTriple (by assumption) ?_)
    | (with_reducible refine After.ofOpt (by assumption) ?_)
    | with_reducible apply AfterSome.ofSome
    | with_reducible apply AfterRoute.ofSome
    | with_reducible exact AfterRoute.ofNone
    | with_reducible exact AfterSome.ofNone
    | with_reducible apply AfterEx.ofOk
    | with_reducible exact AfterEx.ofError
    | (with_reducible refine After.ofSealed (by assumption) ?_)
    | (with_reducible refine After.ofOkPair (by assumption) ?_)
    | (with_reducible refine After.ofOk (by assumption) ?_)
    | with_reducible apply After.fold

theorem State.connect_after {b T} (x0) (x1) (x2) (x3) (ht : Within 0x40000100002200 T) (h1 : After T b x0) :
    After T b (@State.connect x0 x1 x2 x3) := by
  unfold State.connect
  try dsimp only
  repeat' first
    | with_reducible assumption
    | with_reducible apply State.connectReply_after
    | with_reducible apply State.onHost_after
    | with_reducible apply State.bindQueue_after
    | with_reducible exact Within.mono ht rfl
    | exact RegIn.block ht (by decide) rfl
    | with_reducible apply AfterRoute.ite
    | split
    | (with_reducible intro _)
    | with_reducible apply AfterOut.ofNext
    | with_reducible apply AfterOpt.ofSome
    | with_reducible exact AfterOpt.ofNone
    | (with_reducible refine After.ofPair (by assumption) ?_)
    | (with_reducible refine After.ofTriple (by assumption) ?_)
    | (with_reducible refine After.ofOpt (by assumption) ?_)
    | with_reducible apply AfterSome.ofSome
    | with_reducible apply AfterRoute.ofSome
    | with_reducible exact AfterRoute.ofNone
    | with_reducible exact AfterSome.ofNone
    | with_reducible apply AfterEx.ofOk
    | with_reducible exact AfterEx.ofError
    | (with_reducible refine After.ofSealed (by assumption) ?_)
    | (with_reducible refine After.ofOkPair (by assumption) ?_)
    | (with_reducible refine After.ofOk (by assumption) ?_)
    | with_reducible apply After.fold

theorem execConnect_after {b T} (x0) (x1) (x2) (x3) (ht : Within 0x40000100002200 T) (h4 : After T b x3) :
    AfterOut T b ((@execConnect x0 x1 x2 x3)) := by
  unfold execConnect
  try dsimp only
  repeat' first
    | with_reducible assumption
    | with_reducible apply onSoc_after
    | with_reducible apply State.connect_after
    | with_reducible exact Within.mono ht rfl
    | with_reducible apply AfterRoute.ite
    | split
    | (with_reducible intro _)

theorem execPropertyGet_after {b T} (x0) (x1) (x2) (x3) (ht : Within 0x40044111082601 T) (h4 : After T b x3) :
    AfterOut T b (@execPropertyGet x0 x1 x2 x3) := by
  unfold execPropertyGet
  try dsimp only
  repeat' first
    | with_reducible assumption
    | with_reducible apply onSoc_after
    | with_reducible apply State.endAdmin_after
    | with_reducible apply State.endConnection_after
    | with_reducible apply State.fabricsRun_after
    | with_reducible exact Within.mono ht rfl
    | exact RegIn.block ht (by decide) rfl
    | with_reducible apply AfterRoute.ite
    | split
    | (with_reducible intro _)
    | with_reducible apply AfterOut.ofNext
    | with_reducible apply AfterOpt.ofSome
    | with_reducible exact AfterOpt.ofNone
    | (with_reducible refine After.ofPair (by assumption) ?_)
    | (with_reducible refine After.ofTriple (by assumption) ?_)
    | (with_reducible refine After.ofOpt (by assumption) ?_)
    | with_reducible apply AfterSome.ofSome
    | with_reducible apply AfterRoute.ofSome
    | with_reducible exact AfterRoute.ofNone
    | with_reducible exact AfterSome.ofNone
    | with_reducible apply AfterEx.ofOk
    | with_reducible exact AfterEx.ofError
    | (with_reducible refine After.ofSealed (by assumption) ?_)
    | (with_reducible refine After.ofOkPair (by assumption) ?_)
    | (with_reducible refine After.ofOk (by assumption) ?_)
    | with_reducible apply After.fold

theorem State.writeCc_after {b T} (x0) (x1) (x2) (ht : Within 0x40044111082601 T) (h1 : After T b x0) :
    After T b (@State.writeCc x0 x1 x2) := by
  unfold State.writeCc
  try dsimp only
  repeat' first
    | with_reducible assumption
    | with_reducible apply State.onController_after
    | with_reducible apply State.resetController_after
    | with_reducible exact Within.mono ht rfl
    | with_reducible apply AfterRoute.ite
    | split

theorem execPropertySet_after {b T} (x0) (x1) (x2) (x3) (x4) (ht : Within 0x40044111082601 T) (h5 : After T b x4) :
    AfterOut T b (@execPropertySet x0 x1 x2 x3 x4) := by
  unfold execPropertySet
  try dsimp only
  repeat' first
    | with_reducible assumption
    | with_reducible apply onSoc_after
    | with_reducible apply State.endAdmin_after
    | with_reducible apply State.endConnection_after
    | with_reducible apply State.fabricsRun_after
    | with_reducible apply State.writeCc_after
    | with_reducible exact Within.mono ht rfl
    | exact RegIn.block ht (by decide) rfl
    | with_reducible apply AfterRoute.ite
    | split
    | (with_reducible intro _)
    | with_reducible apply AfterOut.ofNext
    | with_reducible apply AfterOpt.ofSome
    | with_reducible exact AfterOpt.ofNone
    | (with_reducible refine After.ofPair (by assumption) ?_)
    | (with_reducible refine After.ofTriple (by assumption) ?_)
    | (with_reducible refine After.ofOpt (by assumption) ?_)
    | with_reducible apply AfterSome.ofSome
    | with_reducible apply AfterRoute.ofSome
    | with_reducible exact AfterRoute.ofNone
    | with_reducible exact AfterSome.ofNone
    | with_reducible apply AfterEx.ofOk
    | with_reducible exact AfterEx.ofError
    | (with_reducible refine After.ofSealed (by assumption) ?_)
    | (with_reducible refine After.ofOkPair (by assumption) ?_)
    | (with_reducible refine After.ofOk (by assumption) ?_)
    | with_reducible apply After.fold

theorem execAuthenticationSend_after {b T} (x0) (x1) (x2) (ht : Within 0x40044111082601 T) (h3 : After T b x2) :
    AfterOut T b (@execAuthenticationSend x0 x1 x2) := by
  unfold execAuthenticationSend
  try dsimp only
  repeat' first
    | with_reducible assumption
    | with_reducible apply onSoc_after
    | with_reducible apply State.enterAdmin_after
    | with_reducible apply State.endAdmin_after
    | with_reducible apply State.fabricsRun_after
    | with_reducible apply State.onQp_after
    | with_reducible apply State.endConnection_after
    | with_reducible exact Within.mono ht rfl
    | exact RegIn.block ht (by decide) rfl
    | with_reducible apply AfterRoute.ite
    | split
    | (with_reducible intro _)
    | with_reducible apply AfterOut.ofNext
    | with_reducible apply AfterOpt.ofSome
    | with_reducible exact AfterOpt.ofNone
    | (with_reducible refine After.ofPair (by assumption) ?_)
    | (with_reducible refine After.ofTriple (by assumption) ?_)
    | (with_reducible refine After.ofOpt (by assumption) ?_)
    | with_reducible apply AfterSome.ofSome
    | with_reducible apply AfterRoute.ofSome
    | with_reducible exact AfterRoute.ofNone
    | with_reducible exact AfterSome.ofNone
    | with_reducible apply AfterEx.ofOk
    | with_reducible exact AfterEx.ofError
    | (with_reducible refine After.ofSealed (by assumption) ?_)
    | (with_reducible refine After.ofOkPair (by assumption) ?_)
    | (with_reducible refine After.ofOk (by assumption) ?_)
    | with_reducible apply After.fold

theorem execAuthenticationReceive_after {b T} (x0) (x1) (x2) (ht : Within 0x40044111082601 T) (h3 : After T b x2) :
    AfterOut T b (@execAuthenticationReceive x0 x1 x2) := by
  unfold execAuthenticationReceive
  try dsimp only
  repeat' first
    | with_reducible assumption
    | with_reducible apply onSoc_after
    | with_reducible apply State.enterAdmin_after
    | with_reducible apply State.endAdmin_after
    | with_reducible apply State.fabricsRun_after
    | with_reducible apply State.answerData_after
    | with_reducible apply State.onQp_after
    | with_reducible apply State.endConnection_after
    | with_reducible exact Within.mono ht rfl
    | exact RegIn.block ht (by decide) rfl
    | with_reducible apply AfterRoute.ite
    | split
    | (with_reducible intro _)
    | with_reducible apply AfterOut.ofNext
    | with_reducible apply AfterOpt.ofSome
    | with_reducible exact AfterOpt.ofNone
    | (with_reducible refine After.ofPair (by assumption) ?_)
    | (with_reducible refine After.ofTriple (by assumption) ?_)
    | (with_reducible refine After.ofOpt (by assumption) ?_)
    | with_reducible apply AfterSome.ofSome
    | with_reducible apply AfterRoute.ofSome
    | with_reducible exact AfterRoute.ofNone
    | with_reducible exact AfterSome.ofNone
    | with_reducible apply AfterEx.ofOk
    | with_reducible exact AfterEx.ofError
    | (with_reducible refine After.ofSealed (by assumption) ?_)
    | (with_reducible refine After.ofOkPair (by assumption) ?_)
    | (with_reducible refine After.ofOk (by assumption) ?_)
    | with_reducible apply After.fold

end Sys2Proof.Machine
end

