-- ==== Sys2Proof/Laws/After/Clocks.lean ====
section
/-! SUPPORT. What the operations of Clocks keep (Laws/After.lean). -/

set_option Elab.async false
set_option linter.all false

namespace Sys2Proof.Machine

theorem State.tick_after {b T} (x0) (ht : Within 0x40000000000010 T) (h1 : After T b x0) :
    After T b (@State.tick x0) := by
  unfold State.tick
  try dsimp only
  repeat' first
    | with_reducible assumption
    | with_reducible apply State.levelCycles_after
    | with_reducible apply State.onClock_after
    | with_reducible exact Within.mono ht rfl
    | with_reducible apply AfterRoute.ite
    | split

theorem State.runTo_after {b T} (x0) (x1) (ht : Within 0x40000000000010 T) (h1 : After T b x0) :
    After T b (@State.runTo x0 x1) := by
  unfold State.runTo
  try dsimp only
  repeat' first
    | with_reducible assumption
    | with_reducible apply State.levelCycles_after
    | with_reducible apply State.onClock_after
    | with_reducible exact Within.mono ht rfl

theorem execPllLock_after {b T} (x0) (ht : Within 0x40000000 T) (h1 : After T b x0) :
    AfterOut T b (@execPllLock x0) := by
  unfold execPllLock
  try dsimp only
  repeat' first
    | with_reducible assumption
    | with_reducible apply onAlways_after
    | with_reducible apply State.each_after
    | with_reducible apply State.wrs_after
    | with_reducible apply State.wr_after
    | with_reducible exact Within.mono ht rfl
    | exact RegIn.block ht (by decide) rfl
    | with_reducible apply FieldsIn.cons
    | with_reducible exact FieldsIn.nil
    | with_reducible apply AfterRoute.ite
    | split
    | (with_reducible intro _)
    | with_reducible apply AfterOut.ofNext
    | with_reducible apply AfterOpt.ofSome
    | with_reducible exact AfterOpt.ofNone
    | (with_reducible refine After.ofPair (by assumption) ?_)
    | (with_reducible refine After.ofTriple (by assumption) ?_)
    | (with_reducible refine After.ofOpt (by assumption) ?_)
    | with_reducible apply AfterSome.ofSome
    | with_reducible apply AfterRoute.ofSome
    | with_reducible exact AfterRoute.ofNone
    | with_reducible exact AfterSome.ofNone
    | with_reducible apply AfterEx.ofOk
    | with_reducible exact AfterEx.ofError
    | (with_reducible refine After.ofSealed (by assumption) ?_)
    | (with_reducible refine After.ofOkPair (by assumption) ?_)
    | (with_reducible refine After.ofOk (by assumption) ?_)
    | with_reducible apply After.fold

theorem State.addSteps_after {b T} (x0) (ht : Within 0x10 T) (h1 : After T b x0) :
    After T b (@State.addSteps x0) := by
  unfold State.addSteps
  try dsimp only
  repeat' first
    | with_reducible assumption
    | with_reducible apply State.onClock_after

theorem execMeasStepRequest_after {b T} (x0) (x1) (x2) (ht : Within 0x613400910000da T) (h3 : After T b x2) :
    AfterOut T b ((@execMeasStepRequest x0 x1 x2)) := by
  unfold execMeasStepRequest
  try dsimp only
  repeat' first
    | with_reducible assumption
    | with_reducible apply onSoc_after
    | with_reducible apply State.commandWrite_after
    | with_reducible apply State.onClock_after
    | with_reducible apply State.wr_after
    | with_reducible exact Within.mono ht rfl
    | exact RegIn.block ht (by decide) rfl
    | exact RegIn.word (by omega) ht (by omega) rfl
    | exact NotWall.word (by omega) (by omega) (by omega)
    | with_reducible apply AfterRoute.ite
    | split
    | (with_reducible intro _)

theorem execTimeStepApply_after {b T} (x0) (ht : Within 0x10 T) (h1 : After T b x0) :
    AfterOut T b ((@execTimeStepApply x0)) := by
  unfold execTimeStepApply
  try dsimp only
  repeat' first
    | with_reducible assumption
    | with_reducible apply onSoc_after
    | with_reducible apply State.addSteps_after
    | with_reducible exact Within.mono ht rfl
    | with_reducible apply AfterRoute.ite
    | split
    | (with_reducible intro _)

theorem State.offsetWritten_after {b T} (x0) (x1) (ht : Within 0x80000010 T) (h1 : After T b x0) :
    After T b (@State.offsetWritten x0 x1) := by
  unfold State.offsetWritten
  try dsimp only
  repeat' first
    | with_reducible assumption
    | with_reducible apply State.wr_after
    | with_reducible apply State.onClock_after
    | with_reducible apply State.wrs_after
    | with_reducible exact Within.mono ht rfl
    | exact RegIn.block ht (by decide) rfl
    | with_reducible apply FieldsIn.cons
    | with_reducible exact FieldsIn.nil
    | with_reducible apply AfterRoute.ite
    | split

theorem execMeasOffsWrite_after {b T} (x0) (x1) (ht : Within 0x613400910000da T) (h2 : After T b x1) :
    AfterOut T b ((@execMeasOffsWrite x0 x1)) := by
  unfold execMeasOffsWrite
  try dsimp only
  repeat' first
    | with_reducible assumption
    | with_reducible apply onSoc_after
    | with_reducible apply State.commandWrite_after
    | with_reducible apply State.offsetWritten_after
    | with_reducible exact Within.mono ht rfl
    | exact RegIn.block ht (by decide) rfl
    | exact NotWall (by omega) (by omega)
    | with_reducible apply AfterRoute.ite
    | split
    | (with_reducible intro _)

theorem State.sourceWritten_after {b T} (x0) (x1) (ht : Within 0x80000010 T) (h1 : After T b x0) :
    After T b (@State.sourceWritten x0 x1) := by
  unfold State.sourceWritten
  try dsimp only
  repeat' first
    | with_reducible assumption
    | with_reducible apply State.onClock_after
    | with_reducible apply State.wrs_after
    | with_reducible exact Within.mono ht rfl
    | exact RegIn.block ht (by decide) rfl
    | with_reducible apply FieldsIn.cons
    | with_reducible exact FieldsIn.nil
    | with_reducible apply AfterRoute.ite
    | split

theorem execMeasSrcWrite_after {b T} (x0) (x1) (ht : Within 0x80000010 T) (h2 : After T b x1) :
    AfterOut T b ((@execMeasSrcWrite x0 x1)) := by
  unfold execMeasSrcWrite
  try dsimp only
  repeat' first
    | with_reducible assumption
    | with_reducible apply onSoc_after
    | with_reducible apply State.sourceWritten_after
    | with_reducible exact Within.mono ht rfl
    | with_reducible apply AfterRoute.ite
    | split
    | (with_reducible intro _)

theorem execOffsetWriteTimeout_after {b T} (x0) (ht : Within 0x80000010 T) (h1 : After T b x0) :
    AfterOut T b ((@execOffsetWriteTimeout x0)) := by
  unfold execOffsetWriteTimeout
  try dsimp only
  repeat' first
    | with_reducible assumption
    | with_reducible apply onSoc_after
    | with_reducible apply State.onClock_after
    | with_reducible apply State.wr_after
    | with_reducible exact Within.mono ht rfl
    | exact RegIn.block ht (by decide) rfl
    | with_reducible apply AfterRoute.ite
    | split
    | (with_reducible intro _)

theorem execHoldoverExpiry_after {b T} (x0) (ht : Within 0x603400910000d0 T) (h1 : After T b x0) :
    AfterOut T b ((@execHoldoverExpiry x0)) := by
  unfold execHoldoverExpiry
  try dsimp only
  repeat' first
    | with_reducible assumption
    | with_reducible apply onSoc_after
    | with_reducible apply State.onClock_after
    | with_reducible apply State.wr_after
    | with_reducible apply State.fault_after
    | with_reducible exact Within.mono ht rfl
    | exact RegIn.block ht (by decide) rfl
    | with_reducible apply AfterRoute.ite
    | split
    | (with_reducible intro _)

theorem execMeasRunSet_after {b T} (x0) (ht : Within 0x80000050 T) (h1 : After T b x0) :
    AfterOut T b ((@execMeasRunSet x0)) := by
  unfold execMeasRunSet
  try dsimp only
  repeat' first
    | with_reducible assumption
    | with_reducible apply onSoc_after
    | with_reducible apply State.onFlt_after
    | with_reducible apply State.onClock_after
    | with_reducible apply State.wr_after
    | with_reducible exact Within.mono ht rfl
    | exact RegIn.block ht (by decide) rfl
    | with_reducible apply AfterRoute.ite
    | split
    | (with_reducible intro _)

end Sys2Proof.Machine
end

