-- ==== Sys2Proof/Laws/After/McpOps.lean ====
section
/-! SUPPORT. What the operations of McpOps keep (Laws/After.lean). -/

set_option Elab.async false
set_option linter.all false

namespace Sys2Proof.Machine

theorem State.mailboxReply_after {b T} (x0) (x1) (x2) (ht : Within 0x40240011000000 T) (h1 : After T b x0) :
    After T b (@State.mailboxReply x0 x1 x2) := by
  unfold State.mailboxReply
  try dsimp only
  repeat' first
    | with_reducible assumption
    | with_reducible apply State.setWords_after
    | with_reducible apply State.fire_after
    | with_reducible apply State.wrs_after
    | with_reducible exact Within.mono ht rfl
    | exact RegIn.block ht (by decide) rfl
    | exact RegIn.word (by omega) ht (by omega) rfl
    | with_reducible apply FieldsIn.cons
    | with_reducible exact FieldsIn.nil
    | with_reducible apply AfterRoute.ite
    | split
    | (with_reducible intro _)

theorem State.sendPacket_after {b T} (x0) (x1) (x2) (x3) (ht : Within 0x40240011000080 T) (h1 : After T b x0) :
    After T b (@State.sendPacket x0 x1 x2 x3) := by
  unfold State.sendPacket
  try dsimp only
  repeat' first
    | with_reducible assumption
    | with_reducible apply State.count_after
    | with_reducible apply State.onMcp_after
    | with_reducible apply State.mailboxReply_after
    | with_reducible apply State.packetOut_after
    | with_reducible exact Within.mono ht rfl
    | exact RegIn.block ht (by decide) rfl
    | with_reducible apply AfterRoute.ite
    | split
    | (with_reducible intro _)
    | with_reducible apply AfterOut.ofNext
    | with_reducible apply AfterOpt.ofSome
    | with_reducible exact AfterOpt.ofNone
    | (with_reducible refine After.ofPair (by assumption) ?_)
    | (with_reducible refine After.ofTriple (by assumption) ?_)
    | (with_reducible refine After.ofOpt (by assumption) ?_)
    | with_reducible apply AfterSome.ofSome
    | with_reducible apply AfterRoute.ofSome
    | with_reducible exact AfterRoute.ofNone
    | with_reducible exact AfterSome.ofNone
    | with_reducible apply AfterEx.ofOk
    | with_reducible exact AfterEx.ofError
    | (with_reducible refine After.ofSealed (by assumption) ?_)
    | (with_reducible refine After.ofOkPair (by assumption) ?_)
    | (with_reducible refine After.ofOk (by assumption) ?_)
    | with_reducible apply After.fold

theorem State.dropPacket_after {b T} (x0) (x1) (x2) (ht : Within 0x200000000000 T) (h1 : After T b x0) :
    After T b (@State.dropPacket x0 x1 x2) := by
  unfold State.dropPacket
  try dsimp only
  repeat' first
    | with_reducible assumption
    | with_reducible apply State.count_after
    | with_reducible apply State.wr_after
    | with_reducible exact Within.mono ht rfl
    | exact RegIn.block ht (by decide) rfl
    | with_reducible apply AfterRoute.ite
    | split

theorem State.onSession_after {b T} (x0) (x1) (x2) (ht : Within 0x80 T) (h1 : After T b x0) :
    After T b (@State.onSession x0 x1 x2) := by
  unfold State.onSession
  try dsimp only
  repeat' first
    | with_reducible assumption
    | with_reducible apply State.onMcp_after

theorem State.showMcp_after {b T} (x0) (ht : Within 0x200000000000 T) (h1 : After T b x0) :
    After T b (@State.showMcp x0) := by
  unfold State.showMcp
  try dsimp only
  repeat' first
    | with_reducible assumption
    | with_reducible apply State.wrs_after
    | with_reducible exact Within.mono ht rfl
    | exact RegIn.block ht (by decide) rfl
    | with_reducible apply FieldsIn.cons
    | with_reducible exact FieldsIn.nil

theorem State.endSession_after {b T} (x0) (x1) (ht : Within 0x300000008080 T) (h1 : After T b x0) :
    After T b (@State.endSession x0 x1) := by
  unfold State.endSession
  try dsimp only
  repeat' first
    | with_reducible assumption
    | with_reducible apply State.wr_after
    | with_reducible apply State.showMcp_after
    | with_reducible apply State.zeroiseSlot_after
    | with_reducible apply State.onMcp_after
    | with_reducible exact Within.mono ht rfl
    | exact RegIn.block ht (by decide) rfl
    | with_reducible apply AfterRoute.ite
    | split

theorem State.resetMailbox_after {b T} (x0) (ht : Within 0x300000008080 T) (h1 : After T b x0) : After T b (State.resetMailbox x0) := by
  unfold State.resetMailbox
  dsimp only
  have r : ∀ n, n = 13 → ∀ a, blockNumber a = some n → RegIn a T := fun n e a k => by
    unfold RegIn regMask
    rw [k, e]
    exact ht.mono rfl
  refine State.wrs_after _ _ (FieldsIn.cons (RegIn.block ht (by omega) rfl) (FieldsIn.cons (RegIn.block ht (by omega) rfl)
    (FieldsIn.cons (RegIn.block ht (by omega) rfl) (FieldsIn.cons (RegIn.block ht (by omega) rfl) FieldsIn.nil))))
    (After.filterRegs _ (fun c k => ?_) (State.onMcp_after _ _ (ht.mono rfl) (State.each_after _ _ _ _ h1 fun m s h =>
      State.endSession_after _ _ (ht.mono rfl) h)))
  simp only [Bool.not_eq_false', Bool.and_eq_true, beq_iff_eq] at k
  exact r 13 rfl _ k.2

theorem State.sealedReply_after {b T} (x0) (x1) (x2) (x3) (x4) (ht : Within 0x40340011000080 T) (h1 : After T b x0) :
    After T b (@State.sealedReply x0 x1 x2 x3 x4) := by
  unfold State.sealedReply
  try dsimp only
  repeat' first
    | with_reducible assumption
    | with_reducible apply State.sendPacket_after
    | with_reducible apply State.count_after
    | with_reducible apply State.onSession_after
    | with_reducible exact Within.mono ht rfl
    | exact RegIn.block ht (by decide) rfl
    | with_reducible apply AfterRoute.ite
    | split
    | (with_reducible intro _)
    | with_reducible apply AfterOut.ofNext
    | with_reducible apply AfterOpt.ofSome
    | with_reducible exact AfterOpt.ofNone
    | (with_reducible refine After.ofPair (by assumption) ?_)
    | (with_reducible refine After.ofTriple (by assumption) ?_)
    | (with_reducible refine After.ofOpt (by assumption) ?_)
    | with_reducible apply AfterSome.ofSome
    | with_reducible apply AfterRoute.ofSome
    | with_reducible exact AfterRoute.ofNone
    | with_reducible exact AfterSome.ofNone
    | with_reducible apply AfterEx.ofOk
    | with_reducible exact AfterEx.ofError
    | (with_reducible refine After.ofSealed (by assumption) ?_)
    | (with_reducible refine After.ofOkPair (by assumption) ?_)
    | (with_reducible refine After.ofOk (by assumption) ?_)
    | with_reducible apply After.fold

theorem State.reply_after {b T} (x0) (x1) (x2) (x3) (ht : Within 0x40340011000080 T) (h1 : After T b x0) :
    After T b (@State.reply x0 x1 x2 x3) := by
  unfold State.reply
  try dsimp only
  repeat' first
    | with_reducible assumption
    | with_reducible apply State.sendPacket_after
    | with_reducible apply State.onMcp_after
    | with_reducible apply State.onSession_after
    | with_reducible apply State.sealedReply_after
    | with_reducible exact Within.mono ht rfl
    | with_reducible apply AfterRoute.ite
    | split

theorem State.runCall_after {b T} (x0) (x1) (x2) (x3) (x4) (ht : Within 0x40340011000080 T) (h1 : After T b x0) (h5 : ∀ y0 y1, After T b y1 → After T b (x4 y0 y1)) :
    After T b (@State.runCall x0 x1 x2 x3 x4) := by
  unfold State.runCall
  try dsimp only
  repeat' first
    | with_reducible assumption
    | with_reducible apply State.reply_after
    | with_reducible apply h5
    | with_reducible exact Within.mono ht rfl
    | with_reducible apply AfterRoute.ite
    | split

theorem State.startCall_after {b T} (x0) (x1) (ht : Within 0x80 T) (h1 : After T b x0) :
    After T b (@State.startCall x0 x1) := by
  unfold State.startCall
  try dsimp only
  repeat' first
    | with_reducible assumption
    | with_reducible apply State.onSession_after
    | with_reducible exact Within.mono ht rfl
    | exact RegIn.block ht (by decide) rfl
    | with_reducible apply AfterRoute.ite
    | split
    | (with_reducible intro _)
    | with_reducible apply AfterOut.ofNext
    | with_reducible apply AfterOpt.ofSome
    | with_reducible exact AfterOpt.ofNone
    | (with_reducible refine After.ofPair (by assumption) ?_)
    | (with_reducible refine After.ofTriple (by assumption) ?_)
    | (with_reducible refine After.ofOpt (by assumption) ?_)
    | with_reducible apply AfterSome.ofSome
    | with_reducible apply AfterRoute.ofSome
    | with_reducible exact AfterRoute.ofNone
    | with_reducible exact AfterSome.ofNone
    | with_reducible apply AfterEx.ofOk
    | with_reducible exact AfterEx.ofError
    | (with_reducible refine After.ofSealed (by assumption) ?_)
    | (with_reducible refine After.ofOkPair (by assumption) ?_)
    | (with_reducible refine After.ofOk (by assumption) ?_)
    | with_reducible apply After.fold

theorem State.refuseCall_after {b T} (x0) (x1) (x2) (x3) (ht : Within 0x40340011000080 T) (h1 : After T b x0) :
    After T b (@State.refuseCall x0 x1 x2 x3) := by
  unfold State.refuseCall
  try dsimp only
  repeat' first
    | with_reducible assumption
    | with_reducible apply State.reply_after

theorem State.acceptSealed_after {b T} (x0) (x1) (x2) (x3) (ht : Within 0x40340011000080 T) (h1 : After T b x0) :
    After T b (@State.acceptSealed x0 x1 x2 x3) := by
  unfold State.acceptSealed
  try dsimp only
  repeat' first
    | with_reducible assumption
    | with_reducible apply State.dropPacket_after
    | with_reducible apply State.count_after
    | with_reducible apply State.sendPacket_after
    | with_reducible apply State.onSession_after
    | with_reducible apply State.reply_after
    | with_reducible exact Within.mono ht rfl
    | exact RegIn.block ht (by decide) rfl
    | with_reducible apply AfterRoute.ite
    | split
    | (with_reducible intro _)
    | with_reducible apply AfterOut.ofNext
    | with_reducible apply AfterOpt.ofSome
    | with_reducible exact AfterOpt.ofNone
    | (with_reducible refine After.ofPair (by assumption) ?_)
    | (with_reducible refine After.ofTriple (by assumption) ?_)
    | (with_reducible refine After.ofOpt (by assumption) ?_)
    | with_reducible apply AfterSome.ofSome
    | with_reducible apply AfterRoute.ofSome
    | with_reducible exact AfterRoute.ofNone
    | with_reducible exact AfterSome.ofNone
    | with_reducible apply AfterEx.ofOk
    | with_reducible exact AfterEx.ofError
    | (with_reducible refine After.ofSealed (by assumption) ?_)
    | (with_reducible refine After.ofOkPair (by assumption) ?_)
    | (with_reducible refine After.ofOk (by assumption) ?_)
    | with_reducible apply After.fold

theorem State.acceptPacket_after {b T} (x0) (x1) (x2) (x3) (ht : Within 0x603400110000c0 T) (h1 : After T b x0) :
    After T b (@State.acceptPacket x0 x1 x2 x3) := by
  unfold State.acceptPacket
  try dsimp only
  repeat' first
    | with_reducible assumption
    | with_reducible apply State.count_after
    | with_reducible apply State.dropPacket_after
    | with_reducible apply State.sendPacket_after
    | with_reducible apply State.tagMismatch_after
    | with_reducible apply State.acceptSealed_after
    | with_reducible apply State.onMcp_after
    | with_reducible exact Within.mono ht rfl
    | exact RegIn.block ht (by decide) rfl
    | with_reducible apply AfterRoute.ite
    | split
    | (with_reducible intro _)
    | with_reducible apply AfterOut.ofNext
    | with_reducible apply AfterOpt.ofSome
    | with_reducible exact AfterOpt.ofNone
    | (with_reducible refine After.ofPair (by assumption) ?_)
    | (with_reducible refine After.ofTriple (by assumption) ?_)
    | (with_reducible refine After.ofOpt (by assumption) ?_)
    | with_reducible apply AfterSome.ofSome
    | with_reducible apply AfterRoute.ofSome
    | with_reducible exact AfterRoute.ofNone
    | with_reducible exact AfterSome.ofNone
    | with_reducible apply AfterEx.ofOk
    | with_reducible exact AfterEx.ofError
    | (with_reducible refine After.ofSealed (by assumption) ?_)
    | (with_reducible refine After.ofOkPair (by assumption) ?_)
    | (with_reducible refine After.ofOk (by assumption) ?_)
    | with_reducible apply After.fold

end Sys2Proof.Machine
end

