-- ==== Sys2Proof/Laws/After/Dormant.lean ====
section
/-! SUPPORT. What the operations of Dormant keep (Laws/After.lean). -/

set_option Elab.async false
set_option linter.all false

namespace Sys2Proof.Machine

theorem State.endEntry_after {b T} (x0) (ht : Within 0x1000000200100 T) (h1 : After T b x0) :
    After T b (@State.endEntry x0) := by
  unfold State.endEntry
  try dsimp only
  repeat' first
    | with_reducible assumption
    | with_reducible apply State.onToken_after
    | with_reducible apply State.onPower_after
    | with_reducible apply State.wr_after
    | with_reducible exact Within.mono ht rfl
    | exact RegIn.block ht (by decide) rfl

theorem State.refuseDormant_after {b T} (x0) (x1) (x2) (ht : Within 0x41340011200180 T) (h1 : After T b x0) :
    After T b (@State.refuseDormant x0 x1 x2) := by
  unfold State.refuseDormant
  try dsimp only
  repeat' first
    | with_reducible assumption
    | with_reducible apply State.endEntry_after
    | with_reducible apply State.refuseCall_after
    | with_reducible apply State.wrs_after
    | with_reducible exact Within.mono ht rfl
    | exact RegIn.block ht (by decide) rfl
    | with_reducible apply FieldsIn.cons
    | with_reducible exact FieldsIn.nil
    | with_reducible apply AfterRoute.ite
    | split

theorem State.dormantRefused_after {b T} (x0) (x1) (ht : Within 0x41340011200180 T) (h1 : After T b x0) :
    After T b (@State.dormantRefused x0 x1) := by
  unfold State.dormantRefused
  try dsimp only
  repeat' first
    | with_reducible assumption
    | with_reducible apply State.refuseDormant_after
    | with_reducible apply State.count_after
    | with_reducible apply State.wrs_after
    | with_reducible exact Within.mono ht rfl
    | exact RegIn.block ht (by decide) rfl
    | with_reducible apply FieldsIn.cons
    | with_reducible exact FieldsIn.nil

theorem State.enterDormant_after {b T} (x0) (x1) (x2) (ht : Within 0x41374911202781 T) (h1 : After T b x0) :
    After T b (@State.enterDormant x0 x1 x2) := by
  unfold State.enterDormant
  try dsimp only
  repeat' first
    | with_reducible assumption
    | with_reducible apply State.onPower_after
    | with_reducible apply State.dormantRefused_after
    | with_reducible apply State.wrs_after
    | with_reducible apply State.wr_after
    | with_reducible apply State.onToken_after
    | with_reducible apply State.each_after
    | with_reducible apply State.startHandOver_after
    | with_reducible exact Within.mono ht rfl
    | exact RegIn.block ht (by decide) rfl
    | with_reducible apply FieldsIn.cons
    | with_reducible exact FieldsIn.nil
    | with_reducible apply AfterRoute.ite
    | split
    | (with_reducible intro _)

theorem execPwrEnterDormant_after {b T} (x0) (x1) (x2) (ht : Within 0x6137591928bfcb T) (h3 : After T b x2) :
    AfterOut T b ((@execPwrEnterDormant x0 x1 x2)) := by
  unfold execPwrEnterDormant
  try dsimp only
  repeat' first
    | with_reducible assumption
    | with_reducible apply onData_after
    | with_reducible apply State.commandWrite_after
    | with_reducible apply State.enterDormant_after
    | with_reducible exact Within.mono ht rfl
    | exact RegIn.block ht (by decide) rfl
    | exact NotWall (by omega) (by omega)
    | with_reducible apply AfterRoute.ite
    | split
    | (with_reducible intro _)

theorem State.answerDormant_after {b T} (x0) (ht : Within 0x41340011000080 T) (h1 : After T b x0) :
    After T b (@State.answerDormant x0) := by
  unfold State.answerDormant
  try dsimp only
  repeat' first
    | with_reducible assumption
    | with_reducible apply State.reply_after
    | with_reducible apply State.wrs_after
    | with_reducible exact Within.mono ht rfl
    | exact RegIn.block ht (by decide) rfl
    | with_reducible apply FieldsIn.cons
    | with_reducible exact FieldsIn.nil
    | with_reducible apply AfterRoute.ite
    | split

theorem State.fallAsleep_after {b T} (x0) (ht : Within 0x43340011208180 T) (h1 : After T b x0) :
    After T b (@State.fallAsleep x0) := by
  unfold State.fallAsleep
  try dsimp only
  repeat' first
    | with_reducible assumption
    | with_reducible apply State.dormantRefused_after
    | with_reducible apply State.each_after
    | with_reducible apply State.answerDormant_after
    | with_reducible apply State.endSession_after
    | with_reducible apply State.zeroiseSlot_after
    | with_reducible apply State.onPower_after
    | with_reducible apply State.count_after
    | with_reducible apply State.wr_after
    | with_reducible exact Within.mono ht rfl
    | exact RegIn.block ht (by decide) rfl
    | with_reducible apply AfterRoute.ite
    | split
    | (with_reducible intro _)

theorem State.sleep_after {b T} (x0) (ht : Within 0x7334c31928ffc1 T) (h1 : After T b x0) :
    After T b (@State.sleep x0) := by
  unfold State.sleep
  try dsimp only
  repeat' first
    | with_reducible assumption
    | with_reducible apply State.each_after
    | with_reducible apply State.resetController_after
    | with_reducible apply State.fallAsleep_after
    | with_reducible apply State.linkGoesDown_after
    | with_reducible apply State.wr_after
    | with_reducible exact Within.mono ht rfl
    | exact RegIn.block ht (by decide) rfl
    | with_reducible apply AfterRoute.ite
    | split
    | (with_reducible intro _)

theorem State.dormantAtBoundary_after {b T} (x0) (ht : Within 0x7334c31928ffc1 T) (h1 : After T b x0) :
    After T b (@State.dormantAtBoundary x0) := by
  unfold State.dormantAtBoundary
  try dsimp only
  repeat' first
    | with_reducible assumption
    | with_reducible apply State.dormantRefused_after
    | with_reducible apply State.onPower_after
    | with_reducible apply State.sleep_after
    | with_reducible exact Within.mono ht rfl
    | with_reducible apply AfterRoute.ite
    | split

theorem State.startAfterDormant_after {b T} (x0) (ht : Within 0x7fffffffffffff T) (h1 : After T b x0) : After T b (@State.startAfterDormant x0) := by
  have any : ∀ s t, Part.sameOut T s t := fun s t x e => by
    rw [ht.bit (by cases x <;> first | rfl | (rename_i x; cases x <;> rfl))] at e
    cases e
  unfold State.startAfterDormant
  have kept : After T b { x0.moduleReset with regs := x0.regs.filter dormantCell } := by
    obtain ⟨c, p, l, o⟩ := State.moduleReset_after x0 ht h1
    exact ⟨fun k => ⟨RegFile.filter_canonical (h1.1 k).1, (c k).2⟩, p, l, any _ _⟩
  refine State.each_after _ _ _ _ ?_ fun r t h => State.newRecord_after _ _ (ht.mono rfl) h
  refine State.onFlt_after _ _ (ht.mono rfl) (State.wrs_after _ _ (fun _ _ => RegIn.all ht rfl)
    (State.showPulls_after _ (ht.mono rfl) (State.loadStored_after _ (ht.mono rfl) ?_)))
  exact kept.same rfl rfl rfl rfl (any _ _)

theorem State.wake_after {b T} (x0) (x1) (ht : Within 0x7fffffffffffff T) (h1 : After T b x0) :
    After T b (@State.wake x0 x1) := by
  unfold State.wake
  try dsimp only
  repeat' first
    | with_reducible assumption
    | with_reducible apply State.count_after
    | with_reducible apply State.wr_after
    | with_reducible apply State.startAfterDormant_after
    | with_reducible apply State.refuseDormant_after
    | with_reducible exact Within.mono ht rfl
    | exact RegIn.block ht (by decide) rfl
    | exact RegIn.all ht rfl
    | with_reducible apply AfterRoute.ite
    | split

theorem execDormantWake_after {b T} (x0) (x1) (ht : Within 0x7fffffffffffff T) (h2 : After T b x1) :
    AfterOut T b ((@execDormantWake x0 x1)) := by
  unfold execDormantWake
  try dsimp only
  repeat' first
    | with_reducible assumption
    | with_reducible apply onAlways_after
    | with_reducible apply State.wake_after
    | with_reducible exact Within.mono ht rfl
    | with_reducible apply AfterRoute.ite
    | split
    | (with_reducible intro _)

end Sys2Proof.Machine
end

