-- ==== Sys2Proof/Laws/After/GateOps.lean ====
section
/-! SUPPORT. What the operations of GateOps keep (Laws/After.lean). -/

set_option Elab.async false
set_option linter.all false

namespace Sys2Proof.Machine

theorem State.setCredit_after {b T} (x0) (x1) (x2) (ht : Within 0x4000000 T) (h1 : After T b x0) :
    After T b (@State.setCredit x0 x1 x2) := by
  unfold State.setCredit
  try dsimp only
  repeat' first
    | with_reducible assumption
    | with_reducible apply State.onGates_after

theorem State.settleCredit_after {b T} (x0) (x1) (ht : Within 0x4000000 T) (h1 : After T b x0) :
    After T b (@State.settleCredit x0 x1) := by
  unfold State.settleCredit
  try dsimp only
  repeat' first
    | with_reducible assumption
    | with_reducible apply State.setCredit_after
    | with_reducible exact Within.mono ht rfl
    | with_reducible apply AfterRoute.ite
    | split

theorem State.aroundCredit_after {b T} (x0) (x1) (x2) (ht : Within 0x4000000 T) (h1 : After T b x0) (h3 : ∀ y0, After T b y0 → After T b (x2 y0)) :
    After T b (@State.aroundCredit x0 x1 x2) := by
  unfold State.aroundCredit
  try dsimp only
  repeat' first
    | with_reducible assumption
    | with_reducible apply State.settleCredit_after
    | with_reducible apply h3

theorem State.settleGuards_after {b T} (x0) (x1) (x2) (ht : Within 0x404000000 T) (h1 : After T b x0) :
    After T b (@State.settleGuards x0 x1 x2) := by
  unfold State.settleGuards
  try dsimp only
  repeat' first
    | with_reducible assumption
    | with_reducible apply State.onGates_after
    | with_reducible apply State.count_after
    | with_reducible exact Within.mono ht rfl
    | exact RegIn.block ht (by omega) (by with_reducible exact blockMask_net rfl)
    | with_reducible apply AfterRoute.ite
    | split

theorem State.showGates_after {b T} (x0) (x1) (ht : Within 0x404000000 T) (h1 : After T b x0) :
    After T b (@State.showGates x0 x1) := by
  unfold State.showGates
  try dsimp only
  repeat' first
    | with_reducible assumption
    | with_reducible apply State.each_after
    | with_reducible apply State.settleCredit_after
    | with_reducible apply State.settleGuards_after
    | with_reducible apply State.wr_after
    | with_reducible exact Within.mono ht rfl
    | exact RegIn.block ht (by omega) (by with_reducible exact blockMask_net rfl)
    | with_reducible apply AfterRoute.ite
    | split
    | (with_reducible intro _)

end Sys2Proof.Machine
end

