-- ==== Sys2Proof/Laws/After/Shaper.lean ====
section
/-! SUPPORT. What the operations of Shaper keep (Laws/After.lean). -/

set_option Elab.async false
set_option linter.all false

namespace Sys2Proof.Machine

theorem State.setBucket_after {b T} (x0) (x1) (x2) (ht : Within 0x4000000 T) (h1 : After T b x0) :
    After T b (@State.setBucket x0 x1 x2) := by
  unfold State.setBucket
  try dsimp only
  repeat' first
    | with_reducible assumption
    | with_reducible apply State.onGates_after

theorem State.settleBucket_after {b T} (x0) (x1) (ht : Within 0x4000000 T) (h1 : After T b x0) :
    After T b (@State.settleBucket x0 x1) := by
  unfold State.settleBucket
  try dsimp only
  repeat' first
    | with_reducible assumption
    | with_reducible apply State.setBucket_after
    | with_reducible exact Within.mono ht rfl
    | with_reducible apply AfterRoute.ite
    | split

theorem State.refillBucket_after {b T} (x0) (x1) (ht : Within 0x4000000 T) (h1 : After T b x0) :
    After T b (@State.refillBucket x0 x1) := by
  unfold State.refillBucket
  try dsimp only
  repeat' first
    | with_reducible assumption
    | with_reducible apply State.onGates_after
    | with_reducible exact Within.mono ht rfl
    | with_reducible apply AfterRoute.ite
    | split

theorem State.takeTokens_after {b T} (x0) (x1) (x2) (ht : Within 0x4000000 T) (h1 : After T b x0) :
    After T b (@State.takeTokens x0 x1 x2) := by
  unfold State.takeTokens
  try dsimp only
  repeat' first
    | with_reducible assumption
    | with_reducible apply State.setBucket_after
    | with_reducible exact Within.mono ht rfl
    | with_reducible apply AfterRoute.ite
    | split

end Sys2Proof.Machine
end

