-- ==== Sys2Proof/Laws/After/SwitchOps.lean ====
section
/-! SUPPORT. What the operations of SwitchOps keep (Laws/After.lean). -/

set_option Elab.async false
set_option linter.all false

namespace Sys2Proof.Machine

theorem State.switchDrop_after {b T} (x0) (x1) (ht : Within 0x40000200000000 T) (h1 : After T b x0) : After T b (@State.switchDrop x0 x1) := by
  have r : RegIn (switchCounters.getD x1 0) T := by
    by_cases g : x1 < 13
    · have all : ∀ i < 13, regMask (switchCounters.getD i 0) &&& 0x200000000 = regMask (switchCounters.getD i 0) := by decide
      unfold RegIn
      exact (ht.mono rfl : Within 0x200000000 T).mono (all _ g)
    · have : switchCounters.getD x1 0 = 0 := by
        rw [List.getD_eq_getElem?_getD, List.getElem?_eq_none (Nat.le_of_not_lt g)]
        rfl
      rw [this]
      unfold RegIn Within
      exact Nat.zero_and T
  exact State.event_after _ _ _ _ (ht.mono rfl) (State.count_after _ _ _ r h1)

theorem State.sendXon_after {b T} (x0) (ht : Within 0x2000000 T) (h1 : After T b x0) :
    After T b (@State.sendXon x0) := by
  unfold State.sendXon
  try dsimp only
  repeat' first
    | with_reducible assumption
    | with_reducible apply State.each_after
    | with_reducible apply State.onSwitch_after
    | with_reducible apply State.emit_after
    | with_reducible exact Within.mono ht rfl
    | with_reducible apply AfterRoute.ite
    | split
    | (with_reducible intro _)

theorem State.takeSeq_after {b T} (x0) (x1) (x2) (ht : Within 0x603402130000c0 T) (h1 : After T b x0) :
    After T b (Prod.snd ((@State.takeSeq x0 x1 x2))) := by
  unfold State.takeSeq
  try dsimp only
  repeat' first
    | with_reducible assumption
    | with_reducible apply State.flagFault_after
    | with_reducible apply State.count_after
    | with_reducible apply State.onSwitch_after
    | with_reducible exact Within.mono ht rfl
    | exact RegIn.block ht (by decide) rfl
    | with_reducible apply AfterRoute.ite
    | split

theorem State.onFrame_after {b T} (x0) (x1) (x2) (ht : Within 0x2000000 T) (h1 : After T b x0) :
    After T b (@State.onFrame x0 x1 x2) := by
  unfold State.onFrame
  try dsimp only
  repeat' first
    | with_reducible assumption
    | with_reducible apply State.onSwitch_after

theorem State.aroundFrame_after {b T} (x0) (x1) (x2) (ht : Within 0x4000000 T) (h1 : After T b x0) (h3 : ∀ y0, After T b y0 → After T b (x2 y0)) :
    After T b (@State.aroundFrame x0 x1 x2) := by
  unfold State.aroundFrame
  try dsimp only
  repeat' first
    | with_reducible assumption
    | with_reducible apply State.aroundCredit_after
    | with_reducible apply h3
    | with_reducible exact Within.mono ht rfl
    | with_reducible apply AfterRoute.ite
    | split

theorem State.dropFrame_after {b T} (x0) (x1) (ht : Within 0x206000000 T) (h1 : After T b x0) :
    After T b (@State.dropFrame x0 x1) := by
  unfold State.dropFrame
  try dsimp only
  repeat' first
    | with_reducible assumption
    | with_reducible apply State.sendXon_after
    | with_reducible apply State.showPools_after
    | with_reducible apply State.aroundFrame_after
    | with_reducible apply State.onSwitch_after
    | with_reducible exact Within.mono ht rfl
    | with_reducible apply AfterRoute.ite
    | split
    | (with_reducible intro _)

theorem State.enqueueFrame_after {b T} (x0) (x1) (ht : Within 0x40000206000000 T) (h1 : After T b x0) :
    After T b (@State.enqueueFrame x0 x1) := by
  unfold State.enqueueFrame
  try dsimp only
  repeat' first
    | with_reducible assumption
    | with_reducible apply State.dropFrame_after
    | with_reducible apply State.emit_after
    | with_reducible apply State.switchDrop_after
    | with_reducible apply State.aroundFrame_after
    | with_reducible apply State.onSwitch_after
    | with_reducible exact Within.mono ht rfl
    | exact RegIn.block ht (by decide) rfl
    | with_reducible apply AfterRoute.ite
    | split
    | (with_reducible intro _)
    | with_reducible apply AfterOut.ofNext
    | with_reducible apply AfterOpt.ofSome
    | with_reducible exact AfterOpt.ofNone
    | (with_reducible refine After.ofPair (by assumption) ?_)
    | (with_reducible refine After.ofTriple (by assumption) ?_)
    | (with_reducible refine After.ofOpt (by assumption) ?_)
    | with_reducible apply AfterSome.ofSome
    | with_reducible apply AfterRoute.ofSome
    | with_reducible exact AfterRoute.ofNone
    | with_reducible exact AfterSome.ofNone
    | with_reducible apply AfterEx.ofOk
    | with_reducible exact AfterEx.ofError
    | (with_reducible refine After.ofSealed (by assumption) ?_)
    | (with_reducible refine After.ofOkPair (by assumption) ?_)
    | (with_reducible refine After.ofOk (by assumption) ?_)
    | with_reducible apply After.fold

theorem State.releaseHeld_after {b T} (x0) (x1) (x2) (x3) (ht : Within 0x40000206000000 T) (h1 : After T b x0) :
    After T b (@State.releaseHeld x0 x1 x2 x3) := by
  induction x3 generalizing x0 with
  | zero =>
    unfold State.releaseHeld
    try dsimp only
    repeat' first
      | with_reducible assumption
  | succ n ih =>
    unfold State.releaseHeld
    try dsimp only
    repeat' first
      | with_reducible assumption
      | with_reducible apply State.onSwitch_after
      | with_reducible apply State.enqueueFrame_after
      | with_reducible apply ih
      | with_reducible exact Within.mono ht rfl
      | with_reducible apply AfterRoute.ite
      | split

theorem State.classifyFrame_after {b T} (x0) (x1) (ht : Within 0x603402170000c0 T) (h1 : After T b x0) :
    After T b (@State.classifyFrame x0 x1) := by
  unfold State.classifyFrame
  try dsimp only
  repeat' first
    | with_reducible assumption
    | with_reducible apply State.releaseHeld_after
    | with_reducible apply State.onSwitch_after
    | with_reducible apply State.enqueueFrame_after
    | with_reducible apply State.onFrame_after
    | with_reducible apply State.emit_after
    | with_reducible apply State.plainFault_after
    | with_reducible apply State.switchDrop_after
    | with_reducible apply State.dropFrame_after
    | with_reducible exact Within.mono ht rfl
    | with_reducible apply AfterRoute.ite
    | split

theorem State.reachResequencer_after {b T} (x0) (x1) (ht : Within 0x603402170000c0 T) (h1 : After T b x0) :
    After T b (@State.reachResequencer x0 x1) := by
  unfold State.reachResequencer
  try dsimp only
  repeat' first
    | with_reducible assumption
    | with_reducible apply State.classifyFrame_after
    | with_reducible apply State.emit_after
    | with_reducible apply State.sendXon_after
    | with_reducible apply State.showPools_after
    | with_reducible apply State.onFrame_after
    | with_reducible apply State.switchDrop_after
    | with_reducible exact Within.mono ht rfl
    | with_reducible apply AfterRoute.ite
    | split

theorem State.writeCopy_after {b T} (x0) (x1) (x2) (x3) (x4) (x5) (ht : Within 0x603402170000c1 T) (h1 : After T b x0) :
    After T b (@State.writeCopy x0 x1 x2 x3 x4 x5) := by
  unfold State.writeCopy
  try dsimp only
  repeat' first
    | with_reducible assumption
    | with_reducible apply State.takeSeq_after
    | with_reducible apply State.drawMany_after
    | with_reducible apply State.count_after
    | with_reducible apply State.onSwitch_after
    | with_reducible apply State.emit_after
    | with_reducible apply State.enqueueFrame_after
    | with_reducible exact Within.mono ht rfl
    | exact RegIn.block ht (by decide) rfl
    | with_reducible apply AfterRoute.ite
    | split
    | (with_reducible intro _)
    | with_reducible apply AfterOut.ofNext
    | with_reducible apply AfterOpt.ofSome
    | with_reducible exact AfterOpt.ofNone
    | (with_reducible refine After.ofPair (by assumption) ?_)
    | (with_reducible refine After.ofTriple (by assumption) ?_)
    | (with_reducible refine After.ofOpt (by assumption) ?_)
    | with_reducible apply AfterSome.ofSome
    | with_reducible apply AfterRoute.ofSome
    | with_reducible exact AfterRoute.ofNone
    | with_reducible exact AfterSome.ofNone
    | with_reducible apply AfterEx.ofOk
    | with_reducible exact AfterEx.ofError
    | (with_reducible refine After.ofSealed (by assumption) ?_)
    | (with_reducible refine After.ofOkPair (by assumption) ?_)
    | (with_reducible refine After.ofOk (by assumption) ?_)
    | with_reducible apply After.fold

theorem State.writeCopies_after {b T} (x0) (x1) (x2) (x3) (ht : Within 0x603402170000c1 T) (h1 : After T b x0) :
    AfterOpt T b ((@State.writeCopies x0 x1 x2 x3)) := by
  induction x3 generalizing x0 with
  | nil =>
    unfold State.writeCopies
    try dsimp only
    repeat' first
      | with_reducible assumption
      | with_reducible apply State.writeCopy_after
      | with_reducible exact Within.mono ht rfl
      | with_reducible apply AfterRoute.ite
      | split
      | (with_reducible intro _)
      | with_reducible apply AfterOut.ofNext
      | with_reducible apply AfterOpt.ofSome
  | cons a l ih =>
    unfold State.writeCopies
    try dsimp only
    repeat' first
      | with_reducible assumption
      | with_reducible apply State.writeCopy_after
      | with_reducible apply ih
      | with_reducible exact Within.mono ht rfl
      | with_reducible apply AfterRoute.ite
      | split
      | (with_reducible intro _)
      | with_reducible apply AfterOut.ofNext
      | with_reducible apply AfterOpt.ofSome
      | with_reducible exact AfterOpt.ofNone

theorem State.marksEcn_after {b T} (x0) (x1) (x2) (ht : Within 0x1 T) (h1 : After T b x0) :
    After T b (Prod.snd ((@State.marksEcn x0 x1 x2))) := by
  unfold State.marksEcn
  try dsimp only
  repeat' first
    | with_reducible assumption
    | with_reducible apply State.draw_after
    | with_reducible exact Within.mono ht rfl
    | with_reducible apply AfterRoute.ite
    | split

theorem State.tryAdmit_after {b T} (x0) (x1) (x2) (ht : Within 0x603402170000c1 T) (h1 : After T b x0) : AfterOpt T b (@State.tryAdmit x0 x1 x2) := by
  unfold State.tryAdmit
  split
  · exact AfterOpt.ofSome h1
  split
  · exact AfterOpt.ofNone
  · have g := State.writeCopies_after x0 x1 x2 x2.dests (ht.mono rfl) h1
    cases e : x0.writeCopies x1 x2 x2.dests with
    | none => exact AfterOpt.ofNone
    | some t => exact AfterOpt.ofSome (State.showPools_after _ (ht.mono rfl) (g t e))

theorem State.refuseFrame_after {b T} (x0) (x1) (x2) (ht : Within 0x603402110000c0 T) (h1 : After T b x0) :
    After T b (@State.refuseFrame x0 x1 x2) := by
  unfold State.refuseFrame
  try dsimp only
  repeat' first
    | with_reducible assumption
    | with_reducible apply State.flagFault_after
    | with_reducible apply State.switchDrop_after
    | with_reducible exact Within.mono ht rfl
    | exact RegIn.block ht (by decide) rfl
    | with_reducible apply AfterRoute.ite
    | split

theorem State.admitFrame_after {b T} (x0) (x1) (ht : Within 0x603402170000c1 T) (h1 : After T b x0) :
    After T b (@State.admitFrame x0 x1) := by
  unfold State.admitFrame
  try dsimp only
  repeat' first
    | with_reducible assumption
    | with_reducible apply State.moved_after
    | with_reducible apply State.event_after
    | with_reducible apply State.switchDrop_after
    | with_reducible apply State.marksEcn_after
    | with_reducible apply State.tryAdmit_after
    | with_reducible apply State.count_after
    | with_reducible apply State.refuseFrame_after
    | with_reducible apply State.onSwitch_after
    | with_reducible exact Within.mono ht rfl
    | exact RegIn.block ht (by decide) rfl
    | with_reducible apply AfterRoute.ite
    | split
    | (with_reducible intro _)
    | with_reducible apply AfterOut.ofNext
    | with_reducible apply AfterOpt.ofSome
    | with_reducible exact AfterOpt.ofNone
    | (with_reducible refine After.ofPair (by assumption) ?_)
    | (with_reducible refine After.ofTriple (by assumption) ?_)
    | (with_reducible refine After.ofOpt (by assumption) ?_)

theorem State.retryWaiting_after {b T} (x0) (ht : Within 0x603402170000c1 T) (h1 : After T b x0) :
    After T b (@State.retryWaiting x0) := by
  unfold State.retryWaiting
  try dsimp only
  repeat' first
    | with_reducible assumption
    | with_reducible apply State.onSwitch_after
    | with_reducible apply State.each_after
    | with_reducible apply State.admitFrame_after
    | with_reducible exact Within.mono ht rfl
    | exact RegIn.block ht (by decide) rfl
    | with_reducible apply AfterRoute.ite
    | split
    | (with_reducible intro _)
    | with_reducible apply AfterOut.ofNext
    | with_reducible apply AfterOpt.ofSome
    | with_reducible exact AfterOpt.ofNone
    | (with_reducible refine After.ofPair (by assumption) ?_)
    | (with_reducible refine After.ofTriple (by assumption) ?_)
    | (with_reducible refine After.ofOpt (by assumption) ?_)
    | with_reducible apply AfterSome.ofSome
    | with_reducible apply AfterRoute.ofSome
    | with_reducible exact AfterRoute.ofNone
    | with_reducible exact AfterSome.ofNone
    | with_reducible apply AfterEx.ofOk
    | with_reducible exact AfterEx.ofError
    | (with_reducible refine After.ofSealed (by assumption) ?_)
    | (with_reducible refine After.ofOkPair (by assumption) ?_)
    | (with_reducible refine After.ofOk (by assumption) ?_)
    | with_reducible apply After.fold

end Sys2Proof.Machine
end

