-- ==== Sys2Proof/Laws/After/Switch.lean ====
section
/-! SUPPORT. What the operations of Switch keep (Laws/After.lean). -/

set_option Elab.async false
set_option linter.all false

namespace Sys2Proof.Machine

theorem State.orHold_after {b T} (x0) (x1) (x2) (ht : Within 0x10 T) (h1 : After T b x0) (h3 : ∀ y0, After T b y0 → After T b (x2 y0)) :
    After T b (@State.orHold x0 x1 x2) := by
  unfold State.orHold
  try dsimp only
  repeat' first
    | with_reducible assumption
    | with_reducible apply State.onClock_after
    | with_reducible apply h3
    | with_reducible exact Within.mono ht rfl
    | with_reducible apply AfterRoute.ite
    | split

theorem execFrameAdmission_after {b T} (x0) (x1) (ht : Within 0x603402170000d1 T) (h2 : After T b x1) :
    AfterOut T b ((@execFrameAdmission x0 x1)) := by
  unfold execFrameAdmission
  try dsimp only
  repeat' first
    | with_reducible assumption
    | with_reducible apply onSoc_after
    | with_reducible apply State.orHold_after
    | with_reducible apply State.admitFrame_after
    | with_reducible exact Within.mono ht rfl
    | with_reducible apply AfterRoute.ite
    | split
    | (with_reducible intro _)

theorem State.leavesLane_after {b T} (x0) (x1) (ht : Within 0x40000010000000 T) (h1 : After T b x0) :
    After T b (@State.leavesLane x0 x1) := by
  unfold State.leavesLane
  try dsimp only
  repeat' first
    | with_reducible assumption
    | with_reducible apply State.moved_after
    | with_reducible apply State.event_after
    | with_reducible exact Within.mono ht rfl

theorem State.discardRetained_after {b T} (x0) (x1) (ht : Within 0x2000 T) (h1 : After T b x0) :
    After T b (@State.discardRetained x0 x1) := by
  unfold State.discardRetained
  try dsimp only
  repeat' first
    | with_reducible assumption
    | with_reducible apply State.onRdma_after
    | with_reducible exact Within.mono ht rfl
    | exact RegIn.block ht (by decide) rfl
    | with_reducible apply AfterRoute.ite
    | split
    | (with_reducible intro _)
    | with_reducible apply AfterOut.ofNext
    | with_reducible apply AfterOpt.ofSome
    | with_reducible exact AfterOpt.ofNone
    | (with_reducible refine After.ofPair (by assumption) ?_)
    | (with_reducible refine After.ofTriple (by assumption) ?_)
    | (with_reducible refine After.ofOpt (by assumption) ?_)
    | with_reducible apply AfterSome.ofSome
    | with_reducible apply AfterRoute.ofSome
    | with_reducible exact AfterRoute.ofNone
    | with_reducible exact AfterSome.ofNone
    | with_reducible apply AfterEx.ofOk
    | with_reducible exact AfterEx.ofError
    | (with_reducible refine After.ofSealed (by assumption) ?_)
    | (with_reducible refine After.ofOkPair (by assumption) ?_)
    | (with_reducible refine After.ofOk (by assumption) ?_)
    | with_reducible apply After.fold

theorem State.copyAgain_after {b T} (x0) (x1) (ht : Within 0x603402170000c1 T) (h1 : After T b x0) :
    After T b (@State.copyAgain x0 x1) := by
  unfold State.copyAgain
  try dsimp only
  repeat' first
    | with_reducible assumption
    | with_reducible apply State.admitFrame_after
    | with_reducible exact Within.mono ht rfl
    | exact RegIn.block ht (by decide) rfl
    | with_reducible apply AfterRoute.ite
    | split
    | (with_reducible intro _)
    | with_reducible apply AfterOut.ofNext
    | with_reducible apply AfterOpt.ofSome
    | with_reducible exact AfterOpt.ofNone
    | (with_reducible refine After.ofPair (by assumption) ?_)
    | (with_reducible refine After.ofTriple (by assumption) ?_)
    | (with_reducible refine After.ofOpt (by assumption) ?_)
    | with_reducible apply AfterSome.ofSome
    | with_reducible apply AfterRoute.ofSome
    | with_reducible exact AfterRoute.ofNone
    | with_reducible exact AfterSome.ofNone
    | with_reducible apply AfterEx.ofOk
    | with_reducible exact AfterEx.ofError
    | (with_reducible refine After.ofSealed (by assumption) ?_)
    | (with_reducible refine After.ofOkPair (by assumption) ?_)
    | (with_reducible refine After.ofOk (by assumption) ?_)
    | with_reducible apply After.fold

theorem State.mirrorAgain_after {b T} (x0) (x1) (ht : Within 0x1400 T) (h1 : After T b x0) :
    After T b (@State.mirrorAgain x0 x1) := by
  unfold State.mirrorAgain
  try dsimp only
  repeat' first
    | with_reducible assumption
    | with_reducible apply State.onStore_after
    | with_reducible apply State.onLink_after
    | with_reducible exact Within.mono ht rfl
    | exact RegIn.block ht (by decide) rfl
    | with_reducible apply AfterRoute.ite
    | split
    | (with_reducible intro _)
    | with_reducible apply AfterOut.ofNext
    | with_reducible apply AfterOpt.ofSome
    | with_reducible exact AfterOpt.ofNone
    | (with_reducible refine After.ofPair (by assumption) ?_)
    | (with_reducible refine After.ofTriple (by assumption) ?_)
    | (with_reducible refine After.ofOpt (by assumption) ?_)
    | with_reducible apply AfterSome.ofSome
    | with_reducible apply AfterRoute.ofSome
    | with_reducible exact AfterRoute.ofNone
    | with_reducible exact AfterSome.ofNone
    | with_reducible apply AfterEx.ofOk
    | with_reducible exact AfterEx.ofError
    | (with_reducible refine After.ofSealed (by assumption) ?_)
    | (with_reducible refine After.ofOkPair (by assumption) ?_)
    | (with_reducible refine After.ofOk (by assumption) ?_)
    | with_reducible apply After.fold

theorem State.badFrame_after {b T} (x0) (x1) (ht : Within 0x40000310003400 T) (h1 : After T b x0) :
    After T b (@State.badFrame x0 x1) := by
  unfold State.badFrame
  try dsimp only
  repeat' first
    | with_reducible assumption
    | with_reducible apply State.emit_after
    | with_reducible apply State.discardRetained_after
    | with_reducible apply State.count_after
    | with_reducible apply State.leavesLane_after
    | with_reducible apply State.mirrorAgain_after
    | with_reducible apply State.switchDrop_after
    | with_reducible exact Within.mono ht rfl
    | exact RegIn.block ht (by decide) rfl
    | with_reducible apply AfterRoute.ite
    | split
    | (with_reducible intro _)
    | with_reducible apply AfterOut.ofNext
    | with_reducible apply AfterOpt.ofSome
    | with_reducible exact AfterOpt.ofNone
    | (with_reducible refine After.ofPair (by assumption) ?_)
    | (with_reducible refine After.ofTriple (by assumption) ?_)
    | (with_reducible refine After.ofOpt (by assumption) ?_)
    | with_reducible apply AfterSome.ofSome
    | with_reducible apply AfterRoute.ofSome
    | with_reducible exact AfterRoute.ofNone
    | with_reducible exact AfterSome.ofNone
    | with_reducible apply AfterEx.ofOk
    | with_reducible exact AfterEx.ofError
    | (with_reducible refine After.ofSealed (by assumption) ?_)
    | (with_reducible refine After.ofOkPair (by assumption) ?_)
    | (with_reducible refine After.ofOk (by assumption) ?_)
    | with_reducible apply After.fold

theorem State.noteWait_after {b T} (x0) (x1) (ht : Within 0x200000000 T) (h1 : After T b x0) :
    After T b (@State.noteWait x0 x1) := by
  unfold State.noteWait
  try dsimp only
  repeat' first
    | with_reducible assumption
    | with_reducible apply State.wr_after
    | with_reducible exact Within.mono ht rfl
    | exact RegIn.block ht (by decide) rfl
    | with_reducible apply AfterRoute.ite
    | split
    | (with_reducible intro _)
    | with_reducible apply AfterOut.ofNext
    | with_reducible apply AfterOpt.ofSome
    | with_reducible exact AfterOpt.ofNone
    | (with_reducible refine After.ofPair (by assumption) ?_)
    | (with_reducible refine After.ofTriple (by assumption) ?_)
    | (with_reducible refine After.ofOpt (by assumption) ?_)
    | with_reducible apply AfterSome.ofSome
    | with_reducible apply AfterRoute.ofSome
    | with_reducible exact AfterRoute.ofNone
    | with_reducible exact AfterSome.ofNone
    | with_reducible apply AfterEx.ofOk
    | with_reducible exact AfterEx.ofError
    | (with_reducible refine After.ofSealed (by assumption) ?_)
    | (with_reducible refine After.ofOkPair (by assumption) ?_)
    | (with_reducible refine After.ofOk (by assumption) ?_)
    | with_reducible apply After.fold

theorem State.readFrame_after {b T} (x0) (x1) (x2) (x3) (ht : Within 0x603403170034c1 T) (h1 : After T b x0) :
    After T b (@State.readFrame x0 x1 x2 x3) := by
  unfold State.readFrame
  try dsimp only
  repeat' first
    | with_reducible assumption
    | with_reducible apply State.count_after
    | with_reducible apply State.noteWait_after
    | with_reducible apply State.badFrame_after
    | with_reducible apply State.emit_after
    | with_reducible apply State.leavesLane_after
    | with_reducible apply State.dropFrame_after
    | with_reducible apply State.retryWaiting_after
    | with_reducible apply State.copyAgain_after
    | with_reducible exact Within.mono ht rfl
    | exact RegIn.block ht (by decide) rfl
    | with_reducible apply AfterRoute.ite
    | split
    | (with_reducible intro _)
    | with_reducible apply AfterOut.ofNext
    | with_reducible apply AfterOpt.ofSome
    | with_reducible exact AfterOpt.ofNone
    | (with_reducible refine After.ofPair (by assumption) ?_)
    | (with_reducible refine After.ofTriple (by assumption) ?_)
    | (with_reducible refine After.ofOpt (by assumption) ?_)
    | with_reducible apply AfterSome.ofSome
    | with_reducible apply AfterRoute.ofSome
    | with_reducible exact AfterRoute.ofNone
    | with_reducible exact AfterSome.ofNone
    | with_reducible apply AfterEx.ofOk
    | with_reducible exact AfterEx.ofError
    | (with_reducible refine After.ofSealed (by assumption) ?_)
    | (with_reducible refine After.ofOkPair (by assumption) ?_)
    | (with_reducible refine After.ofOk (by assumption) ?_)
    | with_reducible apply After.fold

theorem execFrameReadComplete_after {b T} (x0) (x1) (x2) (x3) (ht : Within 0x603403170034c1 T) (h4 : After T b x3) :
    AfterOut T b (@execFrameReadComplete x0 x1 x2 x3) := by
  unfold execFrameReadComplete
  try dsimp only
  repeat' first
    | with_reducible assumption
    | with_reducible apply onSoc_after
    | with_reducible apply State.readFrame_after
    | with_reducible exact Within.mono ht rfl
    | exact RegIn.block ht (by decide) rfl
    | with_reducible apply AfterRoute.ite
    | split
    | (with_reducible intro _)
    | with_reducible apply AfterOut.ofNext
    | with_reducible apply AfterOpt.ofSome
    | with_reducible exact AfterOpt.ofNone
    | (with_reducible refine After.ofPair (by assumption) ?_)
    | (with_reducible refine After.ofTriple (by assumption) ?_)
    | (with_reducible refine After.ofOpt (by assumption) ?_)
    | with_reducible apply AfterSome.ofSome
    | with_reducible apply AfterRoute.ofSome
    | with_reducible exact AfterRoute.ofNone
    | with_reducible exact AfterSome.ofNone
    | with_reducible apply AfterEx.ofOk
    | with_reducible exact AfterEx.ofError
    | (with_reducible refine After.ofSealed (by assumption) ?_)
    | (with_reducible refine After.ofOkPair (by assumption) ?_)
    | (with_reducible refine After.ofOk (by assumption) ?_)
    | with_reducible apply After.fold

theorem execResequencerArrival_after {b T} (x0) (x1) (ht : Within 0x603402170000c1 T) (h2 : After T b x1) :
    AfterOut T b ((@execResequencerArrival x0 x1)) := by
  unfold execResequencerArrival
  try dsimp only
  repeat' first
    | with_reducible assumption
    | with_reducible apply onSoc_after
    | with_reducible apply State.retryWaiting_after
    | with_reducible apply State.reachResequencer_after
    | with_reducible exact Within.mono ht rfl
    | with_reducible apply AfterRoute.ite
    | split
    | (with_reducible intro _)

theorem execResequencerTimeout_after {b T} (x0) (x1) (x2) (ht : Within 0x603402170000c1 T) (h3 : After T b x2) :
    AfterOut T b ((@execResequencerTimeout x0 x1 x2)) := by
  unfold execResequencerTimeout
  try dsimp only
  repeat' first
    | with_reducible assumption
    | with_reducible apply onSoc_after
    | with_reducible apply State.onSwitch_after
    | with_reducible apply State.count_after
    | with_reducible apply State.retryWaiting_after
    | with_reducible apply State.releaseHeld_after
    | with_reducible apply State.plainFault_after
    | with_reducible exact Within.mono ht rfl
    | exact RegIn.block ht (by decide) rfl
    | with_reducible apply AfterRoute.ite
    | split
    | (with_reducible intro _)

theorem execTrackerFree_after {b T} (x0) (x1) (ht : Within 0x603402170000c1 T) (h2 : After T b x1) :
    AfterOut T b ((@execTrackerFree x0 x1)) := by
  unfold execTrackerFree
  try dsimp only
  repeat' first
    | with_reducible assumption
    | with_reducible apply onSoc_after
    | with_reducible apply State.retryWaiting_after
    | with_reducible apply State.classifyFrame_after
    | with_reducible exact Within.mono ht rfl
    | with_reducible apply AfterRoute.ite
    | split
    | (with_reducible intro _)

theorem execPfcPauseReceived_after {b T} (x0) (x1) (x2) (x3) (x4) (ht : Within 0x40000006000000 T) (h5 : After T b x4) :
    AfterOut T b (@execPfcPauseReceived x0 x1 x2 x3 x4) := by
  unfold execPfcPauseReceived
  try dsimp only
  repeat' first
    | with_reducible assumption
    | with_reducible apply onSoc_after
    | with_reducible apply State.aroundCredit_after
    | with_reducible apply State.onSwitch_after
    | with_reducible apply State.began_after
    | with_reducible exact Within.mono ht rfl
    | exact RegIn.block ht (by decide) rfl
    | with_reducible apply AfterRoute.ite
    | split
    | (with_reducible intro _)
    | with_reducible apply AfterOut.ofNext
    | with_reducible apply AfterOpt.ofSome
    | with_reducible exact AfterOpt.ofNone
    | (with_reducible refine After.ofPair (by assumption) ?_)
    | (with_reducible refine After.ofTriple (by assumption) ?_)
    | (with_reducible refine After.ofOpt (by assumption) ?_)
    | with_reducible apply AfterSome.ofSome
    | with_reducible apply AfterRoute.ofSome
    | with_reducible exact AfterRoute.ofNone
    | with_reducible exact AfterSome.ofNone
    | with_reducible apply AfterEx.ofOk
    | with_reducible exact AfterEx.ofError
    | (with_reducible refine After.ofSealed (by assumption) ?_)
    | (with_reducible refine After.ofOkPair (by assumption) ?_)
    | (with_reducible refine After.ofOk (by assumption) ?_)
    | with_reducible apply After.fold

theorem execPauseExpiry_after {b T} (x0) (x1) (x2) (x3) (ht : Within 0x6000000 T) (h4 : After T b x3) :
    AfterOut T b ((@execPauseExpiry x0 x1 x2 x3)) := by
  unfold execPauseExpiry
  try dsimp only
  repeat' first
    | with_reducible assumption
    | with_reducible apply onSoc_after
    | with_reducible apply State.aroundCredit_after
    | with_reducible apply State.onSwitch_after
    | with_reducible exact Within.mono ht rfl
    | with_reducible apply AfterRoute.ite
    | split
    | (with_reducible intro _)

theorem execPfcWatchdogExpiry_after {b T} (x0) (x1) (x2) (x3) (ht : Within 0x603402170000c1 T) (h4 : After T b x3) :
    AfterOut T b (@execPfcWatchdogExpiry x0 x1 x2 x3) := by
  unfold execPfcWatchdogExpiry
  try dsimp only
  repeat' first
    | with_reducible assumption
    | with_reducible apply onSoc_after
    | with_reducible apply State.flagFault_after
    | with_reducible apply State.onSwitch_after
    | with_reducible apply State.retryWaiting_after
    | with_reducible apply State.each_after
    | with_reducible apply State.emit_after
    | with_reducible apply State.switchDrop_after
    | with_reducible apply State.dropFrame_after
    | with_reducible exact Within.mono ht rfl
    | exact RegIn.block ht (by decide) rfl
    | with_reducible apply AfterRoute.ite
    | split
    | (with_reducible intro _)
    | with_reducible apply AfterOut.ofNext
    | with_reducible apply AfterOpt.ofSome
    | with_reducible exact AfterOpt.ofNone
    | (with_reducible refine After.ofPair (by assumption) ?_)
    | (with_reducible refine After.ofTriple (by assumption) ?_)
    | (with_reducible refine After.ofOpt (by assumption) ?_)
    | with_reducible apply AfterSome.ofSome
    | with_reducible apply AfterRoute.ofSome
    | with_reducible exact AfterRoute.ofNone
    | with_reducible exact AfterSome.ofNone
    | with_reducible apply AfterEx.ofOk
    | with_reducible exact AfterEx.ofError
    | (with_reducible refine After.ofSealed (by assumption) ?_)
    | (with_reducible refine After.ofOkPair (by assumption) ?_)
    | (with_reducible refine After.ofOk (by assumption) ?_)
    | with_reducible apply After.fold

theorem execPfcWatchdogEnd_after {b T} (x0) (x1) (x2) (x3) (ht : Within 0x2000000 T) (h4 : After T b x3) :
    AfterOut T b (@execPfcWatchdogEnd x0 x1 x2 x3) := by
  unfold execPfcWatchdogEnd
  try dsimp only
  repeat' first
    | with_reducible assumption
    | with_reducible apply onSoc_after
    | with_reducible apply State.onSwitch_after
    | with_reducible exact Within.mono ht rfl
    | exact RegIn.block ht (by decide) rfl
    | with_reducible apply AfterRoute.ite
    | split
    | (with_reducible intro _)
    | with_reducible apply AfterOut.ofNext
    | with_reducible apply AfterOpt.ofSome
    | with_reducible exact AfterOpt.ofNone
    | (with_reducible refine After.ofPair (by assumption) ?_)
    | (with_reducible refine After.ofTriple (by assumption) ?_)
    | (with_reducible refine After.ofOpt (by assumption) ?_)
    | with_reducible apply AfterSome.ofSome
    | with_reducible apply AfterRoute.ofSome
    | with_reducible exact AfterRoute.ofNone
    | with_reducible exact AfterSome.ofNone
    | with_reducible apply AfterEx.ofOk
    | with_reducible exact AfterEx.ofError
    | (with_reducible refine After.ofSealed (by assumption) ?_)
    | (with_reducible refine After.ofOkPair (by assumption) ?_)
    | (with_reducible refine After.ofOk (by assumption) ?_)
    | with_reducible apply After.fold

theorem State.armEpoch_after {b T} (x0) (x1) (ht : Within 0x603402930000c0 T) (h1 : After T b x0) :
    After T b (@State.armEpoch x0 x1) := by
  unfold State.armEpoch
  try dsimp only
  repeat' first
    | with_reducible assumption
    | with_reducible apply State.wr_after
    | with_reducible apply State.missedTarget_after
    | with_reducible apply State.onSwitch_after
    | with_reducible exact Within.mono ht rfl
    | exact RegIn.block ht (by decide) rfl
    | with_reducible apply AfterRoute.ite
    | split

theorem execEpochArm_after {b T} (x0) (x1) (x2) (ht : Within 0x613402930000da T) (h3 : After T b x2) :
    AfterOut T b ((@execEpochArm x0 x1 x2)) := by
  unfold execEpochArm
  try dsimp only
  repeat' first
    | with_reducible assumption
    | with_reducible apply onSoc_after
    | with_reducible apply State.orHold_after
    | with_reducible apply State.commandWrite_after
    | with_reducible apply State.armEpoch_after
    | with_reducible apply State.wr_after
    | with_reducible exact Within.mono ht rfl
    | exact RegIn.block ht (by decide) rfl
    | exact RegIn.word (by omega) ht (by omega) rfl
    | exact NotWall.word (by omega) (by omega) (by omega)
    | with_reducible apply AfterRoute.ite
    | split
    | (with_reducible intro _)

theorem State.showEntry_after {b T} (x0) (x1) (ht : Within 0x200000000 T) (h1 : After T b x0) :
    After T b (@State.showEntry x0 x1) := by
  unfold State.showEntry
  try dsimp only
  repeat' first
    | with_reducible assumption
    | with_reducible apply State.setWords_after
    | with_reducible exact Within.mono ht rfl
    | exact RegIn.block ht (by decide) rfl
    | exact RegIn.word (by omega) ht (by omega) rfl
    | with_reducible apply AfterRoute.ite
    | split
    | (with_reducible intro _)

theorem State.ftWriteShadow_after {b T} (x0) (ht : Within 0x202000000 T) (h1 : After T b x0) :
    After T b (@State.ftWriteShadow x0) := by
  unfold State.ftWriteShadow
  try dsimp only
  repeat' first
    | with_reducible assumption
    | with_reducible apply State.wr_after
    | with_reducible apply State.onSwitch_after
    | with_reducible exact Within.mono ht rfl
    | exact RegIn.block ht (by decide) rfl
    | with_reducible apply AfterRoute.ite
    | split

theorem State.ftCommand_after {b T} (x0) (x1) (ht : Within 0x202000000 T) (h1 : After T b x0) :
    After T b (@State.ftCommand x0 x1) := by
  unfold State.ftCommand
  try dsimp only
  repeat' first
    | with_reducible assumption
    | with_reducible apply State.ftWriteShadow_after
    | with_reducible apply State.showEntry_after
    | with_reducible exact Within.mono ht rfl
    | with_reducible apply AfterRoute.ite
    | split

theorem State.ftWrite_after {b T} (x0) (x1) (x2) (x3) (ht : Within 0x613402130000ca T) (h1 : After T b x0) :
    After T b (@State.ftWrite x0 x1 x2 x3) := by
  unfold State.ftWrite
  try dsimp only
  repeat' first
    | with_reducible assumption
    | with_reducible apply State.commandWrite_after
    | with_reducible apply State.ftCommand_after
    | with_reducible exact Within.mono ht rfl
    | exact RegIn.block ht (by decide) rfl
    | exact NotWall (by omega) (by omega)
    | with_reducible apply AfterRoute.ite
    | split
    | (with_reducible intro _)

theorem execFtWriteShadow_after {b T} (x0) (x1) (x2) (ht : Within 0x613402130000da T) (h3 : After T b x2) :
    AfterOut T b ((@execFtWriteShadow x0 x1 x2)) := by
  unfold execFtWriteShadow
  try dsimp only
  repeat' first
    | with_reducible assumption
    | with_reducible apply onSoc_after
    | with_reducible apply State.orHold_after
    | with_reducible apply State.ftWrite_after
    | with_reducible exact Within.mono ht rfl
    | with_reducible apply AfterRoute.ite
    | split
    | (with_reducible intro _)

theorem execFtReadActive_after {b T} (x0) (x1) (x2) (ht : Within 0x613402130000da T) (h3 : After T b x2) :
    AfterOut T b ((@execFtReadActive x0 x1 x2)) := by
  unfold execFtReadActive
  try dsimp only
  repeat' first
    | with_reducible assumption
    | with_reducible apply onSoc_after
    | with_reducible apply State.orHold_after
    | with_reducible apply State.ftWrite_after
    | with_reducible exact Within.mono ht rfl
    | with_reducible apply AfterRoute.ite
    | split
    | (with_reducible intro _)

theorem execFtReadShadow_after {b T} (x0) (x1) (x2) (ht : Within 0x613402130000da T) (h3 : After T b x2) :
    AfterOut T b ((@execFtReadShadow x0 x1 x2)) := by
  unfold execFtReadShadow
  try dsimp only
  repeat' first
    | with_reducible assumption
    | with_reducible apply onSoc_after
    | with_reducible apply State.orHold_after
    | with_reducible apply State.ftWrite_after
    | with_reducible exact Within.mono ht rfl
    | with_reducible apply AfterRoute.ite
    | split
    | (with_reducible intro _)

theorem State.advanceEpoch_after {b T} (x0) (x1) (ht : Within 0x202000000 T) (h1 : After T b x0) :
    After T b (@State.advanceEpoch x0 x1) := by
  unfold State.advanceEpoch
  try dsimp only
  repeat' first
    | with_reducible assumption
    | with_reducible apply State.onSwitch_after
    | with_reducible apply State.wrs_after
    | with_reducible exact Within.mono ht rfl
    | exact RegIn.block ht (by decide) rfl
    | with_reducible apply FieldsIn.cons
    | with_reducible exact FieldsIn.nil
    | with_reducible apply AfterRoute.ite
    | split

theorem execEpochDrained_after {b T} (x0) (ht : Within 0x202000000 T) (h1 : After T b x0) :
    AfterOut T b ((@execEpochDrained x0)) := by
  unfold execEpochDrained
  try dsimp only
  repeat' first
    | with_reducible assumption
    | with_reducible apply onSoc_after
    | with_reducible apply State.onSwitch_after
    | with_reducible apply State.wrs_after
    | with_reducible exact Within.mono ht rfl
    | exact RegIn.block ht (by decide) rfl
    | with_reducible apply FieldsIn.cons
    | with_reducible exact FieldsIn.nil
    | with_reducible apply AfterRoute.ite
    | split
    | (with_reducible intro _)

end Sys2Proof.Machine
end

