-- ==== Sys2Proof/Laws/After/Gates.lean ====
section
/-! SUPPORT. What the operations of Gates keep (Laws/After.lean). -/

set_option Elab.async false
set_option linter.all false

namespace Sys2Proof.Machine

theorem State.keepRound_after {b T} (x0) (x1) (x2) (x3) (x4) (x5) (x6) (ht : Within 0x4000000 T) (h1 : After T b x0) :
    After T b (@State.keepRound x0 x1 x2 x3 x4 x5 x6) := by
  unfold State.keepRound
  try dsimp only
  repeat' first
    | with_reducible assumption
    | with_reducible apply State.onGates_after

theorem State.startRound_after {b T} (x0) (x1) (x2) (ht : Within 0x4000000 T) (h1 : After T b x0) :
    After T b (@State.startRound x0 x1 x2) := by
  unfold State.startRound
  try dsimp only
  repeat' first
    | with_reducible assumption
    | with_reducible apply State.onGates_after
    | with_reducible exact Within.mono ht rfl
    | exact RegIn.block ht (by decide) rfl
    | with_reducible apply AfterRoute.ite
    | split
    | (with_reducible intro _)
    | with_reducible apply AfterOut.ofNext
    | with_reducible apply AfterOpt.ofSome
    | with_reducible exact AfterOpt.ofNone
    | (with_reducible refine After.ofPair (by assumption) ?_)
    | (with_reducible refine After.ofTriple (by assumption) ?_)
    | (with_reducible refine After.ofOpt (by assumption) ?_)
    | with_reducible apply AfterSome.ofSome
    | with_reducible apply AfterRoute.ofSome
    | with_reducible exact AfterRoute.ofNone
    | with_reducible exact AfterSome.ofNone
    | with_reducible apply AfterEx.ofOk
    | with_reducible exact AfterEx.ofError
    | (with_reducible refine After.ofSealed (by assumption) ?_)
    | (with_reducible refine After.ofOkPair (by assumption) ?_)
    | (with_reducible refine After.ofOk (by assumption) ?_)
    | with_reducible apply After.fold

theorem State.discardOversize_after {b T} (x0) (x1) (ht : Within 0x603406170000c0 T) (h1 : After T b x0) :
    After T b (@State.discardOversize x0 x1) := by
  unfold State.discardOversize
  try dsimp only
  repeat' first
    | with_reducible assumption
    | with_reducible apply State.emit_after
    | with_reducible apply State.flagFault_after
    | with_reducible apply State.count_after
    | with_reducible apply State.dropFrame_after
    | with_reducible exact Within.mono ht rfl
    | exact RegIn.block ht (by omega) (by with_reducible exact blockMask_net rfl)

/-- What a chosen frame's round keeps. -/
def Choice.Keeps (T : Nat) (c : Choice) : Prop := ∀ b s, After T b s → After T b (c.keep s)

theorem Choice.keep_after {b T} (c : Choice) (s) (k : c.Keeps T) (h : After T b s) : After T b (c.keep s) := k b s h

theorem State.startFrame_after {b T} (x0) (x1) (x2 : Choice) (k : x2.Keeps T) (ht : Within 0x6000000 T) (h1 : After T b x0) : After T b (@State.startFrame x0 x1 x2) := by
  unfold State.startFrame
  extract_lets f t u
  have hv : After T b t := State.settleCredit_after _ _ (ht.mono rfl) h1
  have hu : After T b u := by
    dsimp only [u]
    split
    · split
      · exact hv
      · exact State.takeTokens_after _ _ _ (ht.mono rfl) hv
    · exact hv
  exact State.emit_after _ _ (State.onFrame_after _ _ _ (ht.mono rfl) (k _ _ hu))

theorem State.holdIdle_after {b T} (x0) (x1) (x2) (ht : Within 0x40000004000000 T) (h1 : After T b x0) :
    After T b (@State.holdIdle x0 x1 x2) := by
  unfold State.holdIdle
  try dsimp only
  repeat' first
    | with_reducible assumption
    | with_reducible apply State.began_after
    | with_reducible apply State.onGates_after
    | with_reducible exact Within.mono ht rfl

theorem State.chooseGroup_keeps {T} {s : State} {a heads leaf c} (ht : Within 0x4000000 T) (e : s.chooseGroup a heads leaf = some c) : c.Keeps T := by
  unfold State.chooseGroup at e
  dsimp only at e
  split at e
  · cases e
  · rename_i g l _
    cases f : List.find? (fun c : GroupChoice => c.group == g) (List.filterMap (s.groupChoice a heads)
        (List.filter (fun g => heads.any fun f => s.frameGroup f == g) (List.range 64))) with
    | none => simp [f] at e
    | some x =>
      simp only [f, Option.map_some, Option.some.injEq] at e
      exact e ▸ fun b s h => State.keepRound_after _ _ _ _ _ _ _ ht (State.keepRound_after _ _ _ _ _ _ _ ht
        (After.ite (State.startRound_after _ _ _ ht h) h))

theorem State.chooseFrame_keeps {T} {s : State} {a skip c} (ht : Within 0x4000000 T) (e : s.chooseFrame a skip = some c) : c.Keeps T := by
  unfold State.chooseFrame at e
  split at e
  · injection e with e
    exact e ▸ fun b s h => h
  dsimp only at e
  split at e
  · exact State.chooseGroup_keeps ht e
  split at e
  · injection e with e
    exact e ▸ fun b s h => State.keepRound_after _ _ _ _ _ _ _ ht h
  split at e
  · exact State.chooseGroup_keeps ht e
  · cases e

theorem State.serveClasses_after {b T} (x1) (x2) (x3) (x4) (x5) (ht : Within 0x40000006000000 T) : ∀ x0, After T b x0 →
    After T b (@State.serveClasses x0 x1 x2 x3 x4 x5) := by
  induction x5 with
  | zero => exact fun x0 h => h
  | succ n ih =>
    intro x0 h
    unfold State.serveClasses
    extract_lets a
    split
    · exact ih _ h
    split
    · exact ih _ h
    · rename_i c e
      split
      · exact State.startFrame_after _ _ _ (State.chooseFrame_keeps (ht.mono rfl) e) (ht.mono rfl) h
      · exact ih _ (State.holdIdle_after _ _ _ (ht.mono rfl) h)

theorem State.dropOversize_after {b T} (x0) (x1) (x2) (ht : Within 0x603406170000c0 T) (h1 : After T b x0) :
    After T b (@State.dropOversize x0 x1 x2) := by
  unfold State.dropOversize
  try dsimp only
  repeat' first
    | with_reducible assumption
    | with_reducible apply State.each_after
    | with_reducible apply State.discardOversize_after
    | with_reducible exact Within.mono ht rfl
    | exact RegIn.block ht (by decide) rfl
    | with_reducible apply AfterRoute.ite
    | split
    | (with_reducible intro _)
    | with_reducible apply AfterOut.ofNext
    | with_reducible apply AfterOpt.ofSome
    | with_reducible exact AfterOpt.ofNone
    | (with_reducible refine After.ofPair (by assumption) ?_)
    | (with_reducible refine After.ofTriple (by assumption) ?_)
    | (with_reducible refine After.ofOpt (by assumption) ?_)
    | with_reducible apply AfterSome.ofSome
    | with_reducible apply AfterRoute.ofSome
    | with_reducible exact AfterRoute.ofNone
    | with_reducible exact AfterSome.ofNone
    | with_reducible apply AfterEx.ofOk
    | with_reducible exact AfterEx.ofError
    | (with_reducible refine After.ofSealed (by assumption) ?_)
    | (with_reducible refine After.ofOkPair (by assumption) ?_)
    | (with_reducible refine After.ofOk (by assumption) ?_)
    | with_reducible apply After.fold

theorem State.laneStart_after {b T} (x0) (x1) (x2) (ht : Within 0x603406170000c0 T) (h1 : After T b x0) :
    After T b (@State.laneStart x0 x1 x2) := by
  unfold State.laneStart
  try dsimp only
  repeat' first
    | with_reducible assumption
    | with_reducible apply State.dropOversize_after
    | with_reducible apply State.settleGuards_after
    | with_reducible apply State.serveClasses_after
    | with_reducible exact Within.mono ht rfl
    | exact RegIn.block ht (by decide) rfl
    | with_reducible apply AfterRoute.ite
    | split
    | (with_reducible intro _)
    | with_reducible apply AfterOut.ofNext
    | with_reducible apply AfterOpt.ofSome
    | with_reducible exact AfterOpt.ofNone
    | (with_reducible refine After.ofPair (by assumption) ?_)
    | (with_reducible refine After.ofTriple (by assumption) ?_)
    | (with_reducible refine After.ofOpt (by assumption) ?_)
    | with_reducible apply AfterSome.ofSome
    | with_reducible apply AfterRoute.ofSome
    | with_reducible exact AfterRoute.ofNone
    | with_reducible exact AfterSome.ofNone
    | with_reducible apply AfterEx.ofOk
    | with_reducible exact AfterEx.ofError
    | (with_reducible refine After.ofSealed (by assumption) ?_)
    | (with_reducible refine After.ofOkPair (by assumption) ?_)
    | (with_reducible refine After.ofOk (by assumption) ?_)
    | with_reducible apply After.fold

theorem execLaneFrameStart_after {b T} (x0) (x1) (x2) (ht : Within 0x603406170000d1 T) (h3 : After T b x2) :
    AfterOut T b (@execLaneFrameStart x0 x1 x2) := by
  unfold execLaneFrameStart
  try dsimp only
  repeat' first
    | with_reducible assumption
    | with_reducible apply onSoc_after
    | with_reducible apply State.orHold_after
    | with_reducible apply State.retryWaiting_after
    | with_reducible apply State.laneStart_after
    | with_reducible exact Within.mono ht rfl
    | exact RegIn.block ht (by decide) rfl
    | with_reducible apply AfterRoute.ite
    | split
    | (with_reducible intro _)
    | with_reducible apply AfterOut.ofNext
    | with_reducible apply AfterOpt.ofSome
    | with_reducible exact AfterOpt.ofNone
    | (with_reducible refine After.ofPair (by assumption) ?_)
    | (with_reducible refine After.ofTriple (by assumption) ?_)
    | (with_reducible refine After.ofOpt (by assumption) ?_)
    | with_reducible apply AfterSome.ofSome
    | with_reducible apply AfterRoute.ofSome
    | with_reducible exact AfterRoute.ofNone
    | with_reducible exact AfterSome.ofNone
    | with_reducible apply AfterEx.ofOk
    | with_reducible exact AfterEx.ofError
    | (with_reducible refine After.ofSealed (by assumption) ?_)
    | (with_reducible refine After.ofOkPair (by assumption) ?_)
    | (with_reducible refine After.ofOk (by assumption) ?_)
    | with_reducible apply After.fold

theorem execGateEntryChange_after {b T} (x0) (x1) (ht : Within 0x404000010 T) (h2 : After T b x1) :
    AfterOut T b ((@execGateEntryChange x0 x1)) := by
  unfold execGateEntryChange
  try dsimp only
  repeat' first
    | with_reducible assumption
    | with_reducible apply onSoc_after
    | with_reducible apply State.orHold_after
    | with_reducible apply State.showGates_after
    | with_reducible exact Within.mono ht rfl
    | with_reducible apply AfterRoute.ite
    | split
    | (with_reducible intro _)

theorem State.armGates_after {b T} (x0) (x1) (x2) (ht : Within 0x603404950000c0 T) (h1 : After T b x0) :
    After T b (@State.armGates x0 x1 x2) := by
  unfold State.armGates
  try dsimp only
  repeat' first
    | with_reducible assumption
    | with_reducible apply State.missedTarget_after
    | with_reducible apply State.wrs_after
    | with_reducible apply State.onGates_after
    | with_reducible apply State.wr_after
    | with_reducible exact Within.mono ht rfl
    | exact RegIn.block ht (by omega) (by with_reducible exact blockMask_net rfl)
    | with_reducible apply FieldsIn.cons
    | with_reducible exact FieldsIn.nil
    | with_reducible apply AfterRoute.ite
    | split

theorem execGateSwitchoverArm_after {b T} (x0) (x1) (x2) (x3) (ht : Within 0x613404950000da T) (h4 : After T b x3) :
    AfterOut T b ((@execGateSwitchoverArm x0 x1 x2 x3)) := by
  unfold execGateSwitchoverArm
  try dsimp only
  repeat' first
    | with_reducible assumption
    | with_reducible apply onSoc_after
    | with_reducible apply State.orHold_after
    | with_reducible apply State.commandWrite_after
    | with_reducible apply State.armGates_after
    | with_reducible apply State.wr_after
    | with_reducible exact Within.mono ht rfl
    | exact RegIn.block ht (by omega) (by with_reducible exact blockMask_net rfl)
    | exact RegIn.word (by omega) ht (by omega) (by with_reducible exact blockMask_net rfl)
    | exact NotWall.word (by omega) (by omega) (by omega)
    | with_reducible apply AfterRoute.ite
    | split
    | (with_reducible intro _)

theorem State.switchGates_after {b T} (x0) (x1) (x2) (x3) (ht : Within 0x404000000 T) (h1 : After T b x0) :
    After T b (@State.switchGates x0 x1 x2 x3) := by
  unfold State.switchGates
  try dsimp only
  repeat' first
    | with_reducible assumption
    | with_reducible apply State.each_after
    | with_reducible apply State.settleCredit_after
    | with_reducible apply State.wrs_after
    | with_reducible apply State.count_after
    | with_reducible apply State.onGates_after
    | with_reducible exact Within.mono ht rfl
    | exact RegIn.block ht (by omega) (by with_reducible exact blockMask_net rfl)
    | with_reducible apply FieldsIn.cons
    | with_reducible exact FieldsIn.nil
    | with_reducible apply AfterRoute.ite
    | split
    | (with_reducible intro _)

theorem State.countOverruns_after {b T} (x0) (ht : Within 0x400000000 T) (h1 : After T b x0) :
    After T b (@State.countOverruns x0) := by
  unfold State.countOverruns
  try dsimp only
  repeat' first
    | with_reducible assumption
    | with_reducible apply State.each_after
    | with_reducible apply State.count_after
    | with_reducible exact Within.mono ht rfl
    | exact RegIn.block ht (by omega) (by with_reducible exact blockMask_net rfl)
    | with_reducible apply AfterRoute.ite
    | split
    | (with_reducible intro _)

theorem execWheelSlotChange_after {b T} (x0) (x1) (ht : Within 0x603406170000d1 T) (h2 : After T b x1) :
    AfterOut T b (@execWheelSlotChange x0 x1) := by
  unfold execWheelSlotChange
  try dsimp only
  repeat' first
    | with_reducible assumption
    | with_reducible apply onSoc_after
    | with_reducible apply State.orHold_after
    | with_reducible apply State.retryWaiting_after
    | with_reducible apply State.each_after
    | with_reducible apply State.laneStart_after
    | with_reducible exact Within.mono ht rfl
    | exact RegIn.block ht (by decide) rfl
    | with_reducible apply AfterRoute.ite
    | split
    | (with_reducible intro _)
    | with_reducible apply AfterOut.ofNext
    | with_reducible apply AfterOpt.ofSome
    | with_reducible exact AfterOpt.ofNone
    | (with_reducible refine After.ofPair (by assumption) ?_)
    | (with_reducible refine After.ofTriple (by assumption) ?_)
    | (with_reducible refine After.ofOpt (by assumption) ?_)
    | with_reducible apply AfterSome.ofSome
    | with_reducible apply AfterRoute.ofSome
    | with_reducible exact AfterRoute.ofNone
    | with_reducible exact AfterSome.ofNone
    | with_reducible apply AfterEx.ofOk
    | with_reducible exact AfterEx.ofError
    | (with_reducible refine After.ofSealed (by assumption) ?_)
    | (with_reducible refine After.ofOkPair (by assumption) ?_)
    | (with_reducible refine After.ofOk (by assumption) ?_)
    | with_reducible apply After.fold

theorem State.startWheel_after {b T} (x0) (x1) (x2) (ht : Within 0x4000000 T) (h1 : After T b x0) :
    After T b (@State.startWheel x0 x1 x2) := by
  unfold State.startWheel
  try dsimp only
  repeat' first
    | with_reducible assumption
    | with_reducible apply State.onGates_after
    | with_reducible exact Within.mono ht rfl
    | exact RegIn.block ht (by decide) rfl
    | with_reducible apply AfterRoute.ite
    | split
    | (with_reducible intro _)
    | with_reducible apply AfterOut.ofNext
    | with_reducible apply AfterOpt.ofSome
    | with_reducible exact AfterOpt.ofNone
    | (with_reducible refine After.ofPair (by assumption) ?_)
    | (with_reducible refine After.ofTriple (by assumption) ?_)
    | (with_reducible refine After.ofOpt (by assumption) ?_)
    | with_reducible apply AfterSome.ofSome
    | with_reducible apply AfterRoute.ofSome
    | with_reducible exact AfterRoute.ofNone
    | with_reducible exact AfterSome.ofNone
    | with_reducible apply AfterEx.ofOk
    | with_reducible exact AfterEx.ofError
    | (with_reducible refine After.ofSealed (by assumption) ?_)
    | (with_reducible refine After.ofOkPair (by assumption) ?_)
    | (with_reducible refine After.ofOk (by assumption) ?_)
    | with_reducible apply After.fold

end Sys2Proof.Machine
end

