-- ==== Sys2Proof/Laws/After/Wallflower.lean ====
section
/-! SUPPORT. What the operations of Wallflower keep (Laws/After.lean). -/

set_option Elab.async false
set_option linter.all false

namespace Sys2Proof.Machine

theorem execAnalogSample_after {b T} (x0) (x1) (x2) (ht : Within 0x2000000020000 T) (h3 : After T b x2) :
    AfterOut T b ((@execAnalogSample x0 x1 x2)) := by
  unfold execAnalogSample
  try dsimp only
  repeat' first
    | with_reducible assumption
    | with_reducible apply onAlways_after
    | with_reducible apply State.wrs_after
    | with_reducible apply State.onWall_after
    | with_reducible exact Within.mono ht rfl
    | exact RegIn.block ht (by decide) rfl
    | with_reducible apply FieldsIn.cons
    | with_reducible exact FieldsIn.nil
    | with_reducible apply AfterRoute.ite
    | split
    | (with_reducible intro _)

theorem State.wakeSlots_after {b T} (x0) (x1) (ht : Within 0x7fffffe0400102 T) (h1 : After T b x0) :
    After T b (@State.wakeSlots x0 x1) := by
  unfold State.wakeSlots
  try dsimp only
  repeat' first
    | with_reducible assumption
    | with_reducible apply State.each_after
    | with_reducible apply State.powerOnDomain_after
    | with_reducible apply State.wr_after
    | with_reducible apply State.setSlot_after
    | with_reducible exact Within.mono ht rfl
    | exact RegIn.all ht rfl
    | with_reducible apply AfterRoute.ite
    | split
    | (with_reducible intro _)

theorem State.inputActs_after {b T} (x0) (x1) (x2) (ht : Within 0x7fffffffffffff T) (h1 : After T b x0) :
    After T b (@State.inputActs x0 x1 x2) := by
  unfold State.inputActs
  try dsimp only
  repeat' first
    | with_reducible assumption
    | with_reducible apply State.wakeSlots_after
    | with_reducible apply State.powerOnDomain_after
    | with_reducible apply State.wake_after
    | with_reducible exact Within.mono ht rfl
    | with_reducible apply AfterRoute.ite
    | split

theorem execDigitalInputChange_after {b T} (x0) (x1) (x2) (ht : Within 0x7fffffffffffff T) (h3 : After T b x2) :
    AfterOut T b ((@execDigitalInputChange x0 x1 x2)) := by
  unfold execDigitalInputChange
  try dsimp only
  repeat' first
    | with_reducible assumption
    | with_reducible apply onAlways_after
    | with_reducible apply State.inputActs_after
    | with_reducible apply State.setInput_after
    | with_reducible exact Within.mono ht rfl
    | with_reducible apply AfterRoute.ite
    | split
    | (with_reducible intro _)

theorem State.putRule_after {b T} (x0) (x1) (ht : Within 0x20000 T) (h1 : After T b x0) :
    After T b (@State.putRule x0 x1) := by
  unfold State.putRule
  try dsimp only
  repeat' first
    | with_reducible assumption
    | with_reducible apply State.onWall_after

theorem State.applyRules_after {b T} (x0) (ht : Within 0x20000 T) (h1 : After T b x0) :
    After T b (@State.applyRules x0) := by
  unfold State.applyRules
  try dsimp only
  repeat' first
    | with_reducible assumption
    | with_reducible apply State.onWall_after
    | with_reducible apply State.each_after
    | with_reducible apply State.putRule_after
    | with_reducible exact Within.mono ht rfl
    | with_reducible apply AfterRoute.ite
    | split
    | (with_reducible intro _)

theorem State.evaluateRule_after {b T} (x0) (x1) (ht : Within 0x20000 T) (h1 : After T b x0) :
    After T b (Prod.snd ((@State.evaluateRule x0 x1))) := by
  unfold State.evaluateRule
  try dsimp only
  repeat' first
    | with_reducible assumption
    | with_reducible apply State.putRule_after
    | with_reducible exact Within.mono ht rfl
    | with_reducible apply AfterRoute.ite
    | split

theorem State.ruleFired_after {b T} (x0) (x1) (ht : Within 0x623400110000c0 T) (h1 : After T b x0) :
    After T b (@State.ruleFired x0 x1) := by
  unfold State.ruleFired
  try dsimp only
  repeat' first
    | with_reducible assumption
    | with_reducible apply State.count_after
    | with_reducible apply State.wr_after
    | with_reducible apply State.fault_after
    | with_reducible apply State.emit_after
    | with_reducible exact Within.mono ht rfl
    | exact RegIn.block ht (by decide) rfl
    | with_reducible apply AfterRoute.ite
    | split

theorem State.selfCycle_after {b T} (x0) (ht : Within 0x623c00110600c0 T) (h1 : After T b x0) :
    After T b (@State.selfCycle x0) := by
  unfold State.selfCycle
  try dsimp only
  repeat' first
    | with_reducible assumption
    | with_reducible apply State.wr_after
    | with_reducible apply State.openingEvent_after
    | with_reducible apply State.count_after
    | with_reducible exact Within.mono ht rfl
    | exact RegIn.block ht (by decide) rfl
    | with_reducible apply AfterRoute.ite
    | split

theorem State.noteStep_after {b T} (x0) (x1) (ht : Within 0x20 T) (h1 : After T b x0) :
    After T b (@State.noteStep x0 x1) := by
  unfold State.noteStep
  try dsimp only
  repeat' first
    | with_reducible assumption
    | with_reducible apply State.onCfg_after

theorem State.takeAction_after {b T} (x0) (x1) (ht : Within 0x7fffffffffffff T) (h1 : After T b x0) :
    After T b (@State.takeAction x0 x1) := by
  unfold State.takeAction
  try dsimp only
  repeat' first
    | with_reducible assumption
    | with_reducible apply State.wake_after
    | with_reducible apply State.wakeSlots_after
    | with_reducible apply State.powerOnDomain_after
    | with_reducible apply State.selfCycle_after
    | with_reducible apply State.noteStep_after
    | with_reducible apply State.powerFailDecision_after
    | with_reducible apply State.failStore_after
    | with_reducible exact Within.mono ht rfl
    | with_reducible apply AfterRoute.ite
    | split

theorem State.sweep_after {b T} (x0) (ht : Within 0x7fffffffffffff T) (h1 : After T b x0) : After T b (@State.sweep x0) := by
  unfold State.sweep
  extract_lets t
  have hr : After T b t := State.applyRules_after _ (ht.mono rfl) h1
  have key : ∀ (l : List Nat) (p : List Nat × State), After T b p.2 →
      After T b (l.foldl (fun (p : List Nat × State) r =>
        let (f, t) := p.2.evaluateRule r
        (if f then p.1 ++ [r] else p.1, t)) p).2 := by
    intro l
    induction l with
    | nil => exact fun p h => h
    | cons r l ih => exact fun p h => ih _ (State.evaluateRule_after _ _ (ht.mono rfl) h)
  split
  rename_i fired u e
  have hu : After T b u := After.ofPair e (key _ _ hr)
  extract_lets v w
  have hv : After T b v := State.onWall_after _ _ (ht.mono rfl) hu
  have hw : After T b w := State.each_after _ _ _ _ hv fun a s h => State.ruleFired_after _ _ (ht.mono rfl) h
  exact State.each_after _ _ _ _ hw fun a s h => State.takeAction_after _ _ (ht.mono rfl) h

theorem execRuleSweep_after {b T} (x0) (ht : Within 0x7fffffffffffff T) (h1 : After T b x0) :
    AfterOut T b ((@execRuleSweep x0)) := by
  unfold execRuleSweep
  try dsimp only
  repeat' first
    | with_reducible assumption
    | with_reducible apply onAlways_after
    | with_reducible apply State.sweep_after
    | with_reducible exact Within.mono ht rfl
    | with_reducible apply AfterRoute.ite
    | split
    | (with_reducible intro _)

theorem execRuleCtlWrite_after {b T} (x0) (x1) (x2) (x3) (ht : Within 0x633400110200ca T) (h4 : After T b x3) :
    AfterOut T b ((@execRuleCtlWrite x0 x1 x2 x3)) := by
  unfold execRuleCtlWrite
  try dsimp only
  repeat' first
    | with_reducible assumption
    | with_reducible apply onSoc_after
    | with_reducible apply State.emit_after
    | with_reducible apply State.commandWrite_after
    | with_reducible apply State.wrs_after
    | with_reducible exact Within.mono ht rfl
    | exact RegIn.block ht (by decide) rfl
    | with_reducible apply FieldsIn.cons
    | with_reducible exact FieldsIn.nil
    | exact fun _ => Within.mono ht rfl
    | with_reducible apply AfterRoute.ite
    | split
    | (with_reducible intro _)

theorem onRonhenko_after {b T} (x0) (x1) (h1 : After T b x0) (h2 : ∀ y0, After T b y0 → After T b (x1 y0)) :
    AfterOut T b ((@onRonhenko x0 x1)) := by
  unfold onRonhenko
  try dsimp only
  repeat' first
    | with_reducible assumption
    | with_reducible apply onAlways_after
    | with_reducible apply h2
    | with_reducible apply AfterRoute.ite
    | split
    | (with_reducible intro _)

theorem execCycleArm_after {b T} (x0) (x1) (ht : Within 0x633400110200ca T) (h2 : After T b x1) :
    AfterOut T b ((@execCycleArm x0 x1)) := by
  unfold execCycleArm
  try dsimp only
  repeat' first
    | with_reducible assumption
    | with_reducible apply onRonhenko_after
    | with_reducible apply State.commandWrite_after
    | with_reducible apply State.onWall_after
    | with_reducible exact Within.mono ht rfl
    | exact RegIn.block ht (by decide) rfl
    | exact fun _ => Within.mono ht rfl
    | with_reducible apply AfterRoute.ite
    | split
    | (with_reducible intro _)

theorem execCycleGo_after {b T} (x0) (x1) (ht : Within 0x633c00110600ca T) (h2 : After T b x1) :
    AfterOut T b ((@execCycleGo x0 x1)) := by
  unfold execCycleGo
  try dsimp only
  repeat' first
    | with_reducible assumption
    | with_reducible apply onRonhenko_after
    | with_reducible apply State.commandWrite_after
    | with_reducible apply State.onWall_after
    | with_reducible apply State.selfCycle_after
    | with_reducible exact Within.mono ht rfl
    | exact RegIn.block ht (by decide) rfl
    | exact fun _ => Within.mono ht rfl
    | with_reducible apply AfterRoute.ite
    | split
    | (with_reducible intro _)

theorem execPeerWakePulse_after {b T} (x0) (x1) (ht : Within 0x633400110200ca T) (h2 : After T b x1) :
    AfterOut T b ((@execPeerWakePulse x0 x1)) := by
  unfold execPeerWakePulse
  try dsimp only
  repeat' first
    | with_reducible assumption
    | with_reducible apply onRonhenko_after
    | with_reducible apply State.commandWrite_after
    | with_reducible apply State.emits_after
    | with_reducible exact Within.mono ht rfl
    | exact RegIn.block ht (by decide) rfl
    | exact fun _ => Within.mono ht rfl
    | with_reducible apply AfterRoute.ite
    | split
    | (with_reducible intro _)

theorem execWakePulse_after {b T} (x0) (ht : Within 0x7fffffffffffff T) (h1 : After T b x0) :
    AfterOut T b ((@execWakePulse x0)) := by
  unfold execWakePulse
  try dsimp only
  repeat' first
    | with_reducible assumption
    | with_reducible apply onAlways_after
    | with_reducible apply State.wake_after
    | with_reducible exact Within.mono ht rfl
    | with_reducible apply AfterRoute.ite
    | split
    | (with_reducible intro _)

theorem execWakeTimerExpiry_after {b T} (x0) (ht : Within 0x7fffffffffffff T) (h1 : After T b x0) :
    AfterOut T b ((@execWakeTimerExpiry x0)) := by
  unfold execWakeTimerExpiry
  try dsimp only
  repeat' first
    | with_reducible assumption
    | with_reducible apply onAlways_after
    | with_reducible apply State.wake_after
    | with_reducible apply State.wr_after
    | with_reducible exact Within.mono ht rfl
    | exact RegIn.block ht (by decide) rfl
    | exact RegIn.all ht rfl
    | with_reducible apply AfterRoute.ite
    | split
    | (with_reducible intro _)

end Sys2Proof.Machine
end

