-- ==== Sys2Proof/Laws/After/Ladder.lean ====
section
/-! SUPPORT. What the operations of Ladder keep (Laws/After.lean). -/

set_option Elab.async false
set_option linter.all false

namespace Sys2Proof.Machine

theorem State.takeStep3_after {b T} (x0) (x1) (ht : Within 0x7fffffffffffff T) (h1 : After T b x0) :
    After T b (@State.takeStep3 x0 x1) := by
  unfold State.takeStep3
  try dsimp only
  repeat' first
    | with_reducible assumption
    | with_reducible apply State.noteStep_after
    | with_reducible apply State.moduleReset_after
    | with_reducible apply State.onFlt_after
    | with_reducible apply State.each_after
    | with_reducible apply State.startHandOver_after
    | with_reducible exact Within.mono ht rfl
    | with_reducible apply AfterRoute.ite
    | split
    | (with_reducible intro _)

theorem State.takeStep4_after {b T} (x0) (ht : Within 0x623c00110600e0 T) (h1 : After T b x0) :
    After T b (@State.takeStep4 x0) := by
  unfold State.takeStep4
  try dsimp only
  repeat' first
    | with_reducible assumption
    | with_reducible apply State.selfCycle_after
    | with_reducible apply State.noteStep_after
    | with_reducible exact Within.mono ht rfl

theorem State.ladderAtBoundary_after {b T} (x0) (ht : Within 0x7fffffffffffff T) (h1 : After T b x0) :
    After T b (@State.ladderAtBoundary x0) := by
  unfold State.ladderAtBoundary
  try dsimp only
  repeat' first
    | with_reducible assumption
    | with_reducible apply State.moduleReset_after
    | with_reducible apply State.takeStep3_after
    | with_reducible exact Within.mono ht rfl
    | with_reducible apply AfterRoute.ite
    | split

theorem execWatchdogRestart_after {b T} (x0) (x1) (x2) (ht : Within 0x613400110000ca T) (h3 : After T b x2) :
    AfterOut T b ((@execWatchdogRestart x0 x1 x2)) := by
  unfold execWatchdogRestart
  try dsimp only
  repeat' first
    | with_reducible assumption
    | with_reducible apply onSoc_after
    | with_reducible apply State.commandWrite_after
    | with_reducible apply State.onFlt_after
    | with_reducible exact Within.mono ht rfl
    | exact RegIn.block ht (by decide) rfl
    | exact NotWall (by omega) (by omega)
    | with_reducible apply AfterRoute.ite
    | split
    | (with_reducible intro _)

theorem execWatchdogExpiry_after {b T} (x0) (ht : Within 0x7fffffffffffff T) (h1 : After T b x0) :
    AfterOut T b ((@execWatchdogExpiry x0)) := by
  unfold execWatchdogExpiry
  try dsimp only
  repeat' first
    | with_reducible assumption
    | with_reducible apply onSoc_after
    | with_reducible apply State.count_after
    | with_reducible apply State.takeStep3_after
    | with_reducible apply State.fault_after
    | with_reducible exact Within.mono ht rfl
    | exact RegIn.block ht (by decide) rfl
    | exact RegIn.all ht rfl
    | with_reducible apply AfterRoute.ite
    | split
    | (with_reducible intro _)

theorem State.ladderCommand_after {b T} (x0) (x1) (x2) (x3) (ht : Within 0x613400110000ca T) (h1 : After T b x0) (h4 : ∀ y0, After T b y0 → After T b (x3 y0)) :
    After T b (@State.ladderCommand x0 x1 x2 x3) := by
  unfold State.ladderCommand
  try dsimp only
  repeat' first
    | with_reducible assumption
    | with_reducible apply State.commandWrite_after
    | with_reducible apply State.wr_after
    | with_reducible apply h4
    | with_reducible exact Within.mono ht rfl
    | exact RegIn.block ht (by decide) rfl
    | exact NotWall (by omega) (by omega)
    | with_reducible apply AfterRoute.ite
    | split
    | (with_reducible intro _)

theorem execFltStep3Handover_after {b T} (x0) (x1) (ht : Within 0x7fffffffffffff T) (h2 : After T b x1) :
    AfterOut T b ((@execFltStep3Handover x0 x1)) := by
  unfold execFltStep3Handover
  try dsimp only
  repeat' first
    | with_reducible assumption
    | with_reducible apply onData_after
    | with_reducible apply State.ladderCommand_after
    | with_reducible apply State.takeStep3_after
    | with_reducible apply State.wr_after
    | with_reducible exact Within.mono ht rfl
    | exact RegIn.block ht (by decide) rfl
    | exact RegIn.all ht rfl
    | with_reducible apply AfterRoute.ite
    | split
    | (with_reducible intro _)

theorem execFltStep3_after {b T} (x0) (x1) (ht : Within 0x7fffffffffffff T) (h2 : After T b x1) :
    AfterOut T b ((@execFltStep3 x0 x1)) := by
  unfold execFltStep3
  try dsimp only
  repeat' first
    | with_reducible assumption
    | with_reducible apply onSoc_after
    | with_reducible apply State.ladderCommand_after
    | with_reducible apply State.takeStep3_after
    | with_reducible exact Within.mono ht rfl
    | with_reducible apply AfterRoute.ite
    | split
    | (with_reducible intro _)

theorem execFltStep4_after {b T} (x0) (x1) (ht : Within 0x633c00110600ea T) (h2 : After T b x1) :
    AfterOut T b ((@execFltStep4 x0 x1)) := by
  unfold execFltStep4
  try dsimp only
  repeat' first
    | with_reducible assumption
    | with_reducible apply onSoc_after
    | with_reducible apply State.ladderCommand_after
    | with_reducible apply State.takeStep4_after
    | with_reducible exact Within.mono ht rfl
    | with_reducible apply AfterRoute.ite
    | split
    | (with_reducible intro _)

theorem execLatchCopy_after {b T} (x0) (ht : Within 0x20000000000040 T) (h1 : After T b x0) :
    AfterOut T b ((@execLatchCopy x0)) := by
  unfold execLatchCopy
  try dsimp only
  repeat' first
    | with_reducible assumption
    | with_reducible apply onSoc_after
    | with_reducible apply State.wr_after
    | with_reducible apply State.enterRing_after
    | with_reducible exact Within.mono ht rfl
    | exact RegIn.block ht (by decide) rfl
    | with_reducible apply AfterRoute.ite
    | split
    | (with_reducible intro _)

theorem State.park_after {b T} (x0) (ht : Within 0x603400110000c0 T) (h1 : After T b x0) :
    After T b (@State.park x0) := by
  unfold State.park
  try dsimp only
  repeat' first
    | with_reducible assumption
    | with_reducible apply State.wr_after
    | with_reducible apply State.fault_after
    | with_reducible exact Within.mono ht rfl
    | exact RegIn.block ht (by decide) rfl

theorem execStartupEscalation_after {b T} (x0) (ht : Within 0x623c00110600e0 T) (h1 : After T b x0) :
    AfterOut T b ((@execStartupEscalation x0)) := by
  unfold execStartupEscalation
  try dsimp only
  repeat' first
    | with_reducible assumption
    | with_reducible apply onSoc_after
    | with_reducible apply State.wrs_after
    | with_reducible apply State.park_after
    | with_reducible apply State.takeStep4_after
    | with_reducible exact Within.mono ht rfl
    | exact RegIn.block ht (by decide) rfl
    | with_reducible apply FieldsIn.cons
    | with_reducible exact FieldsIn.nil
    | with_reducible apply AfterRoute.ite
    | split
    | (with_reducible intro _)

theorem State.clearHistory_after {b T} (x0) (ht : Within 0x20 T) (h1 : After T b x0) :
    After T b (@State.clearHistory x0) := by
  unfold State.clearHistory
  try dsimp only
  repeat' first
    | with_reducible assumption
    | with_reducible apply State.onCfg_after
    | with_reducible exact Within.mono ht rfl
    | with_reducible apply AfterRoute.ite
    | split

theorem State.holdInReset_after {b T} (x0) (x1) (ht : Within 0x7fffffffffffff T) (h1 : After T b x0) :
    After T b (@State.holdInReset x0 x1) := by
  unfold State.holdInReset
  try dsimp only
  repeat' first
    | with_reducible assumption
    | with_reducible apply State.fault_after
    | with_reducible apply State.onClock_after
    | with_reducible apply State.moduleReset_after
    | with_reducible exact Within.mono ht rfl

theorem execPositionMismatch_after {b T} (x0) (ht : Within 0x603400110000d0 T) (h1 : After T b x0) :
    AfterOut T b ((@execPositionMismatch x0)) := by
  unfold execPositionMismatch
  try dsimp only
  repeat' first
    | with_reducible assumption
    | with_reducible apply onAlways_after
    | with_reducible apply State.onClock_after
    | with_reducible apply State.fault_after
    | with_reducible exact Within.mono ht rfl
    | with_reducible apply AfterRoute.ite
    | split
    | (with_reducible intro _)

theorem execFunctionResetTimeout_after {b T} (x0) (x1) (ht : Within 0x7fffffffffffff T) (h2 : After T b x1) :
    AfterOut T b (@execFunctionResetTimeout x0 x1) := by
  unfold execFunctionResetTimeout
  try dsimp only
  repeat' first
    | with_reducible assumption
    | with_reducible apply onData_after
    | with_reducible apply State.takeStep3_after
    | with_reducible exact Within.mono ht rfl
    | exact RegIn.block ht (by decide) rfl
    | with_reducible apply AfterRoute.ite
    | split
    | (with_reducible intro _)
    | with_reducible apply AfterOut.ofNext
    | with_reducible apply AfterOpt.ofSome
    | with_reducible exact AfterOpt.ofNone
    | (with_reducible refine After.ofPair (by assumption) ?_)
    | (with_reducible refine After.ofTriple (by assumption) ?_)
    | (with_reducible refine After.ofOpt (by assumption) ?_)
    | with_reducible apply AfterSome.ofSome
    | with_reducible apply AfterRoute.ofSome
    | with_reducible exact AfterRoute.ofNone
    | with_reducible exact AfterSome.ofNone
    | with_reducible apply AfterEx.ofOk
    | with_reducible exact AfterEx.ofError
    | (with_reducible refine After.ofSealed (by assumption) ?_)
    | (with_reducible refine After.ofOkPair (by assumption) ?_)
    | (with_reducible refine After.ofOk (by assumption) ?_)
    | with_reducible apply After.fold

end Sys2Proof.Machine
end

