-- ==== Sys2Proof/Laws/After/Ewq.lean ====
section
/-! SUPPORT. What the operations of Ewq keep (Laws/After.lean). -/

set_option Elab.async false
set_option linter.all false

namespace Sys2Proof.Machine

theorem State.putEngineQueue_after {b T} (x0) (x1) (ht : Within 0x10000 T) (h1 : After T b x0) :
    After T b (@State.putEngineQueue x0 x1) := by
  unfold State.putEngineQueue
  try dsimp only
  repeat' first
    | with_reducible assumption
    | with_reducible apply State.onEwq_after

theorem State.storePieces_after {b T} (x0) (x1) (x2) (ht : Within 0x10000008004000 T) (h1 : After T b x0) :
    After T b (@State.storePieces x0 x1 x2) := by
  induction x1 generalizing x0 x2 with
  | nil =>
    unfold State.storePieces
    try dsimp only
    repeat' first
      | with_reducible assumption
  | cons a l ih =>
    unfold State.storePieces
    try dsimp only
    repeat' first
      | with_reducible assumption
      | with_reducible apply State.storeBytes_after
      | with_reducible apply ih

theorem State.storeOutput_after {b T} (x0) (x1) (x2) (x3) (x4) (ht : Within 0x10000008004001 T) (h1 : After T b x0) :
    After T b (@State.storeOutput x0 x1 x2 x3 x4) := by
  unfold State.storeOutput
  try dsimp only
  repeat' first
    | with_reducible assumption
    | with_reducible apply State.onDraws_after
    | with_reducible apply State.storePieces_after
    | with_reducible exact Within.mono ht rfl
    | with_reducible apply AfterRoute.ite
    | split

theorem State.ewqFail_after {b T} (x0) (x1) (h1 : After T b x0) :
    After T b (Prod.snd (Prod.snd (Prod.snd ((@State.ewqFail x0 x1))))) := by
  unfold State.ewqFail
  try dsimp only
  repeat' first
    | with_reducible assumption

theorem State.ewqRefuse_after {b T} (x0) (x1) (ht : Within 0x1 T) (h1 : After T b x0) :
    After T b (Prod.snd (Prod.snd (Prod.snd ((@State.ewqRefuse x0 x1))))) := by
  unfold State.ewqRefuse
  try dsimp only
  repeat' first
    | with_reducible assumption
    | with_reducible apply State.draw_after

theorem State.ewqCopy_after {b T} (x0) (x1) (x2) (ht : Within 0x10000008004001 T) (h1 : After T b x0) :
    After T b (Prod.snd (Prod.snd (Prod.snd (@State.ewqCopy x0 x1 x2)))) := by
  unfold State.ewqCopy
  try dsimp only
  repeat' first
    | with_reducible assumption
    | with_reducible apply State.storeOutput_after
    | with_reducible apply State.ewqFail_after
    | with_reducible exact Within.mono ht rfl
    | exact RegIn.block ht (by decide) rfl
    | with_reducible apply AfterRoute.ite
    | split
    | (with_reducible intro _)
    | with_reducible apply AfterOut.ofNext
    | with_reducible apply AfterOpt.ofSome
    | with_reducible exact AfterOpt.ofNone
    | (with_reducible refine After.ofPair (by assumption) ?_)
    | (with_reducible refine After.ofTriple (by assumption) ?_)
    | (with_reducible refine After.ofOpt (by assumption) ?_)
    | with_reducible apply AfterSome.ofSome
    | with_reducible apply AfterRoute.ofSome
    | with_reducible exact AfterRoute.ofNone
    | with_reducible exact AfterSome.ofNone
    | with_reducible apply AfterEx.ofOk
    | with_reducible exact AfterEx.ofError
    | (with_reducible refine After.ofSealed (by assumption) ?_)
    | (with_reducible refine After.ofOkPair (by assumption) ?_)
    | (with_reducible refine After.ofOk (by assumption) ?_)
    | with_reducible apply After.fold

theorem State.ewqParity_after {b T} (x0) (x1) (x2) (ht : Within 0x10000008004001 T) (h1 : After T b x0) :
    After T b (Prod.snd (Prod.snd (Prod.snd ((@State.ewqParity x0 x1 x2))))) := by
  unfold State.ewqParity
  try dsimp only
  repeat' first
    | with_reducible assumption
    | with_reducible apply State.each_after
    | with_reducible apply State.storeOutput_after
    | with_reducible apply State.ewqFail_after
    | with_reducible exact Within.mono ht rfl
    | with_reducible apply AfterRoute.ite
    | split
    | (with_reducible intro _)

theorem State.ewqParityCheck_after {b T} (x0) (x1) (x2) (h1 : After T b x0) :
    After T b (Prod.snd (Prod.snd (Prod.snd ((@State.ewqParityCheck x0 x1 x2))))) := by
  unfold State.ewqParityCheck
  try dsimp only
  repeat' first
    | with_reducible assumption
    | with_reducible apply State.ewqFail_after
    | with_reducible apply AfterRoute.ite
    | split

theorem State.ewqXts_after {b T} (x0) (x1) (x2) (x3) (ht : Within 0x10100008004001 T) (h1 : After T b x0) :
    After T b (Prod.snd (Prod.snd (Prod.snd (@State.ewqXts x0 x1 x2 x3)))) := by
  unfold State.ewqXts
  try dsimp only
  repeat' first
    | with_reducible assumption
    | with_reducible apply State.ewqRefuse_after
    | with_reducible apply State.count_after
    | with_reducible apply State.storeOutput_after
    | with_reducible apply State.ewqFail_after
    | with_reducible exact Within.mono ht rfl
    | exact RegIn.block ht (by decide) rfl
    | with_reducible apply AfterRoute.ite
    | split
    | (with_reducible intro _)
    | with_reducible apply AfterOut.ofNext
    | with_reducible apply AfterOpt.ofSome
    | with_reducible exact AfterOpt.ofNone
    | (with_reducible refine After.ofPair (by assumption) ?_)
    | (with_reducible refine After.ofTriple (by assumption) ?_)
    | (with_reducible refine After.ofOpt (by assumption) ?_)
    | with_reducible apply AfterSome.ofSome
    | with_reducible apply AfterRoute.ofSome
    | with_reducible exact AfterRoute.ofNone
    | with_reducible exact AfterSome.ofNone
    | with_reducible apply AfterEx.ofOk
    | with_reducible exact AfterEx.ofError
    | (with_reducible refine After.ofSealed (by assumption) ?_)
    | (with_reducible refine After.ofOkPair (by assumption) ?_)
    | (with_reducible refine After.ofOk (by assumption) ?_)
    | with_reducible apply After.fold

theorem State.ewqGcmEncrypt_after {b T} (x0) (x1) (x2) (ht : Within 0x1010000800c001 T) (h1 : After T b x0) :
    After T b (Prod.snd (Prod.snd (Prod.snd (@State.ewqGcmEncrypt x0 x1 x2)))) := by
  unfold State.ewqGcmEncrypt
  try dsimp only
  repeat' first
    | with_reducible assumption
    | with_reducible apply State.ewqRefuse_after
    | with_reducible apply State.count_after
    | with_reducible apply State.setHighWater_after
    | with_reducible apply State.storeBytes_after
    | with_reducible apply State.storeOutput_after
    | with_reducible apply State.ewqFail_after
    | with_reducible exact Within.mono ht rfl
    | exact RegIn.block ht (by decide) rfl
    | with_reducible apply AfterRoute.ite
    | split
    | (with_reducible intro _)
    | with_reducible apply AfterOut.ofNext
    | with_reducible apply AfterOpt.ofSome
    | with_reducible exact AfterOpt.ofNone
    | (with_reducible refine After.ofPair (by assumption) ?_)
    | (with_reducible refine After.ofTriple (by assumption) ?_)
    | (with_reducible refine After.ofOpt (by assumption) ?_)
    | with_reducible apply AfterSome.ofSome
    | with_reducible apply AfterRoute.ofSome
    | with_reducible exact AfterRoute.ofNone
    | with_reducible exact AfterSome.ofNone
    | with_reducible apply AfterEx.ofOk
    | with_reducible exact AfterEx.ofError
    | (with_reducible refine After.ofSealed (by assumption) ?_)
    | (with_reducible refine After.ofOkPair (by assumption) ?_)
    | (with_reducible refine After.ofOk (by assumption) ?_)
    | with_reducible apply After.fold

theorem State.ewqGcmDecrypt_after {b T} (x0) (x1) (x2) (ht : Within 0x703400190040c1 T) (h1 : After T b x0) :
    After T b (Prod.snd (Prod.snd (Prod.snd (@State.ewqGcmDecrypt x0 x1 x2)))) := by
  unfold State.ewqGcmDecrypt
  try dsimp only
  repeat' first
    | with_reducible assumption
    | with_reducible apply State.ewqRefuse_after
    | with_reducible apply State.count_after
    | with_reducible apply State.storeOutput_after
    | with_reducible apply State.tagMismatch_after
    | with_reducible apply State.ewqFail_after
    | with_reducible exact Within.mono ht rfl
    | exact RegIn.block ht (by decide) rfl
    | with_reducible apply AfterRoute.ite
    | split
    | (with_reducible intro _)
    | with_reducible apply AfterOut.ofNext
    | with_reducible apply AfterOpt.ofSome
    | with_reducible exact AfterOpt.ofNone
    | (with_reducible refine After.ofPair (by assumption) ?_)
    | (with_reducible refine After.ofTriple (by assumption) ?_)
    | (with_reducible refine After.ofOpt (by assumption) ?_)
    | with_reducible apply AfterSome.ofSome
    | with_reducible apply AfterRoute.ofSome
    | with_reducible exact AfterRoute.ofNone
    | with_reducible exact AfterSome.ofNone
    | with_reducible apply AfterEx.ofOk
    | with_reducible exact AfterEx.ofError
    | (with_reducible refine After.ofSealed (by assumption) ?_)
    | (with_reducible refine After.ofOkPair (by assumption) ?_)
    | (with_reducible refine After.ofOk (by assumption) ?_)
    | with_reducible apply After.fold

theorem State.ewqKeyCommand_after {b T} (x0) (x1) (x2) (ht : Within 0x7034801900d2c1 T) (h1 : After T b x0) :
    After T b (Prod.snd (Prod.snd (Prod.snd ((@State.ewqKeyCommand x0 x1 x2))))) := by
  unfold State.ewqKeyCommand
  try dsimp only
  repeat' first
    | with_reducible assumption
    | with_reducible apply State.ewqRefuse_after
    | with_reducible apply State.keyOperation_after
    | with_reducible apply State.count_after
    | with_reducible exact Within.mono ht rfl
    | exact RegIn.block ht (by decide) rfl
    | with_reducible apply AfterRoute.ite
    | split

theorem State.ewqExecute_after {b T} (x0) (x1) (x2) (ht : Within 0x7034801900d2c1 T) (h1 : After T b x0) :
    After T b (Prod.snd (Prod.snd (Prod.snd ((@State.ewqExecute x0 x1 x2))))) := by
  unfold State.ewqExecute
  try dsimp only
  repeat' first
    | with_reducible assumption
    | with_reducible apply State.ewqRefuse_after
    | with_reducible apply State.ewqCopy_after
    | with_reducible apply State.ewqParity_after
    | with_reducible apply State.ewqParityCheck_after
    | with_reducible apply State.ewqXts_after
    | with_reducible apply State.ewqGcmDecrypt_after
    | with_reducible apply State.ewqKeyCommand_after
    | with_reducible apply State.ewqGcmEncrypt_after
    | with_reducible exact Within.mono ht rfl
    | with_reducible apply AfterRoute.ite
    | split

theorem State.prefetch_after {b T} (x0) (x1) (ht : Within 0x10000 T) (h1 : After T b x0) :
    After T b (@State.prefetch x0 x1) := by
  unfold State.prefetch
  try dsimp only
  repeat' first
    | with_reducible assumption
    | with_reducible apply State.putEngineQueue_after
    | with_reducible exact Within.mono ht rfl
    | with_reducible apply AfterRoute.ite
    | split

theorem State.showInFlight_after {b T} (x0) (x1) (ht : Within 0x8000000000000 T) (h1 : After T b x0) :
    After T b (@State.showInFlight x0 x1) := by
  unfold State.showInFlight
  try dsimp only
  repeat' first
    | with_reducible assumption
    | with_reducible apply State.wr_after
    | with_reducible exact Within.mono ht rfl
    | exact RegIn.block ht (by decide) rfl

theorem State.wakeEngine_after {b T} (x0) (x1) (ht : Within 0x7fffffe0000102 T) (h1 : After T b x0) :
    After T b (@State.wakeEngine x0 x1) := by
  unfold State.wakeEngine
  try dsimp only
  repeat' first
    | with_reducible assumption
    | with_reducible apply State.powerOnDomain_after
    | with_reducible exact Within.mono ht rfl
    | exact RegIn.block ht (by decide) rfl
    | with_reducible apply AfterRoute.ite
    | split
    | (with_reducible intro _)
    | with_reducible apply AfterOut.ofNext
    | with_reducible apply AfterOpt.ofSome
    | with_reducible exact AfterOpt.ofNone
    | (with_reducible refine After.ofPair (by assumption) ?_)
    | (with_reducible refine After.ofTriple (by assumption) ?_)
    | (with_reducible refine After.ofOpt (by assumption) ?_)
    | with_reducible apply AfterSome.ofSome
    | with_reducible apply AfterRoute.ofSome
    | with_reducible exact AfterRoute.ofNone
    | with_reducible exact AfterSome.ofNone
    | with_reducible apply AfterEx.ofOk
    | with_reducible exact AfterEx.ofError
    | (with_reducible refine After.ofSealed (by assumption) ?_)
    | (with_reducible refine After.ofOkPair (by assumption) ?_)
    | (with_reducible refine After.ofOk (by assumption) ?_)
    | with_reducible apply After.fold

theorem State.startDescriptor_after {b T} (x0) (x1) (x2) (ht : Within 0x7ffffff901d3c3 T) (h1 : After T b x0) :
    After T b (@State.startDescriptor x0 x1 x2) := by
  unfold State.startDescriptor
  try dsimp only
  repeat' first
    | with_reducible assumption
    | with_reducible apply State.ewqExecute_after
    | with_reducible apply State.wakeEngine_after
    | with_reducible apply State.putEngineQueue_after
    | with_reducible apply State.onEwq_after
    | with_reducible apply State.onKeys_after
    | with_reducible apply State.prefetch_after
    | with_reducible apply State.showInFlight_after
    | with_reducible apply State.count_after
    | with_reducible exact Within.mono ht rfl
    | exact RegIn.block ht (by decide) rfl
    | with_reducible apply AfterRoute.ite
    | split
    | (with_reducible intro _)
    | with_reducible apply AfterOut.ofNext
    | with_reducible apply AfterOpt.ofSome
    | with_reducible exact AfterOpt.ofNone
    | (with_reducible refine After.ofPair (by assumption) ?_)
    | (with_reducible refine After.ofTriple (by assumption) ?_)
    | (with_reducible refine After.ofOpt (by assumption) ?_)
    | with_reducible apply AfterSome.ofSome
    | with_reducible apply AfterRoute.ofSome
    | with_reducible exact AfterRoute.ofNone
    | with_reducible exact AfterSome.ofNone
    | with_reducible apply AfterEx.ofOk
    | with_reducible exact AfterEx.ofError
    | (with_reducible refine After.ofSealed (by assumption) ?_)
    | (with_reducible refine After.ofOkPair (by assumption) ?_)
    | (with_reducible refine After.ofOk (by assumption) ?_)
    | with_reducible apply After.fold

theorem State.takeDescriptor_after {b T} (x0) (x1) (x2) (ht : Within 0x7ffffff901d3c3 T) (h1 : After T b x0) :
    After T b (@State.takeDescriptor x0 x1 x2) := by
  unfold State.takeDescriptor
  try dsimp only
  repeat' first
    | with_reducible assumption
    | with_reducible apply State.startDescriptor_after
    | with_reducible exact Within.mono ht rfl
    | with_reducible apply AfterRoute.ite
    | split

theorem execEwqCopy_after {b T} (x0) (x1) (ht : Within 0x7ffffff901d3c3 T) (h2 : After T b x1) :
    AfterOut T b ((@execEwqCopy x0 x1)) := by
  unfold execEwqCopy
  try dsimp only
  repeat' first
    | with_reducible assumption
    | with_reducible apply onSoc_after
    | with_reducible apply State.takeDescriptor_after
    | with_reducible exact Within.mono ht rfl
    | with_reducible apply AfterRoute.ite
    | split
    | (with_reducible intro _)

theorem execEwqParity_after {b T} (x0) (x1) (ht : Within 0x7ffffff901d3c3 T) (h2 : After T b x1) :
    AfterOut T b ((@execEwqParity x0 x1)) := by
  unfold execEwqParity
  try dsimp only
  repeat' first
    | with_reducible assumption
    | with_reducible apply onSoc_after
    | with_reducible apply State.takeDescriptor_after
    | with_reducible exact Within.mono ht rfl
    | with_reducible apply AfterRoute.ite
    | split
    | (with_reducible intro _)

theorem execEwqParityCheck_after {b T} (x0) (x1) (ht : Within 0x7ffffff901d3c3 T) (h2 : After T b x1) :
    AfterOut T b ((@execEwqParityCheck x0 x1)) := by
  unfold execEwqParityCheck
  try dsimp only
  repeat' first
    | with_reducible assumption
    | with_reducible apply onSoc_after
    | with_reducible apply State.takeDescriptor_after
    | with_reducible exact Within.mono ht rfl
    | with_reducible apply AfterRoute.ite
    | split
    | (with_reducible intro _)

theorem execEwqXtsEncrypt_after {b T} (x0) (x1) (ht : Within 0x7ffffff901d3c3 T) (h2 : After T b x1) :
    AfterOut T b ((@execEwqXtsEncrypt x0 x1)) := by
  unfold execEwqXtsEncrypt
  try dsimp only
  repeat' first
    | with_reducible assumption
    | with_reducible apply onSoc_after
    | with_reducible apply State.takeDescriptor_after
    | with_reducible exact Within.mono ht rfl
    | with_reducible apply AfterRoute.ite
    | split
    | (with_reducible intro _)

theorem execEwqXtsDecrypt_after {b T} (x0) (x1) (ht : Within 0x7ffffff901d3c3 T) (h2 : After T b x1) :
    AfterOut T b ((@execEwqXtsDecrypt x0 x1)) := by
  unfold execEwqXtsDecrypt
  try dsimp only
  repeat' first
    | with_reducible assumption
    | with_reducible apply onSoc_after
    | with_reducible apply State.takeDescriptor_after
    | with_reducible exact Within.mono ht rfl
    | with_reducible apply AfterRoute.ite
    | split
    | (with_reducible intro _)

theorem execEwqGcmEncrypt_after {b T} (x0) (x1) (ht : Within 0x7ffffff901d3c3 T) (h2 : After T b x1) :
    AfterOut T b ((@execEwqGcmEncrypt x0 x1)) := by
  unfold execEwqGcmEncrypt
  try dsimp only
  repeat' first
    | with_reducible assumption
    | with_reducible apply onSoc_after
    | with_reducible apply State.takeDescriptor_after
    | with_reducible exact Within.mono ht rfl
    | with_reducible apply AfterRoute.ite
    | split
    | (with_reducible intro _)

theorem execEwqGcmDecrypt_after {b T} (x0) (x1) (ht : Within 0x7ffffff901d3c3 T) (h2 : After T b x1) :
    AfterOut T b ((@execEwqGcmDecrypt x0 x1)) := by
  unfold execEwqGcmDecrypt
  try dsimp only
  repeat' first
    | with_reducible assumption
    | with_reducible apply onSoc_after
    | with_reducible apply State.takeDescriptor_after
    | with_reducible exact Within.mono ht rfl
    | with_reducible apply AfterRoute.ite
    | split
    | (with_reducible intro _)

theorem execEwqGmac_after {b T} (x0) (x1) (ht : Within 0x7ffffff901d3c3 T) (h2 : After T b x1) :
    AfterOut T b ((@execEwqGmac x0 x1)) := by
  unfold execEwqGmac
  try dsimp only
  repeat' first
    | with_reducible assumption
    | with_reducible apply onSoc_after
    | with_reducible apply State.takeDescriptor_after
    | with_reducible exact Within.mono ht rfl
    | with_reducible apply AfterRoute.ite
    | split
    | (with_reducible intro _)

theorem execEwqKeyCommand_after {b T} (x0) (x1) (ht : Within 0x7ffffff901d3c3 T) (h2 : After T b x1) :
    AfterOut T b ((@execEwqKeyCommand x0 x1)) := by
  unfold execEwqKeyCommand
  try dsimp only
  repeat' first
    | with_reducible assumption
    | with_reducible apply onSoc_after
    | with_reducible apply State.takeDescriptor_after
    | with_reducible exact Within.mono ht rfl
    | with_reducible apply AfterRoute.ite
    | split
    | (with_reducible intro _)

theorem State.ewqHalt_after {b T} (x0) (x1) (x2) (x3) (ht : Within 0x8000000010000 T) (h1 : After T b x0) :
    After T b (@State.ewqHalt x0 x1 x2 x3) := by
  unfold State.ewqHalt
  try dsimp only
  repeat' first
    | with_reducible assumption
    | with_reducible apply State.wrs_after
    | with_reducible apply State.count_after
    | with_reducible apply State.putEngineQueue_after
    | with_reducible apply State.setReg_after
    | with_reducible exact Within.mono ht rfl
    | exact RegIn.block ht (by decide) rfl
    | with_reducible apply FieldsIn.cons
    | with_reducible exact FieldsIn.nil

theorem State.ewqRetire_after {b T} (x0) (x1) (x2) (ht : Within 0x18000008014000 T) (h1 : After T b x0) :
    After T b (@State.ewqRetire x0 x1 x2) := by
  unfold State.ewqRetire
  try dsimp only
  repeat' first
    | with_reducible assumption
    | with_reducible apply State.storeBytes_after
    | with_reducible apply State.ewqHalt_after
    | with_reducible apply State.wrs_after
    | with_reducible apply State.count_after
    | with_reducible apply State.emit_after
    | with_reducible apply State.wr_after
    | with_reducible exact Within.mono ht rfl
    | exact RegIn.block ht (by decide) rfl
    | with_reducible apply FieldsIn.cons
    | with_reducible exact FieldsIn.nil
    | with_reducible apply AfterRoute.ite
    | split
    | (with_reducible intro _)
    | with_reducible apply AfterOut.ofNext
    | with_reducible apply AfterOpt.ofSome
    | with_reducible exact AfterOpt.ofNone
    | (with_reducible refine After.ofPair (by assumption) ?_)
    | (with_reducible refine After.ofTriple (by assumption) ?_)
    | (with_reducible refine After.ofOpt (by assumption) ?_)
    | with_reducible apply AfterSome.ofSome
    | with_reducible apply AfterRoute.ofSome
    | with_reducible exact AfterRoute.ofNone
    | with_reducible exact AfterSome.ofNone
    | with_reducible apply AfterEx.ofOk
    | with_reducible exact AfterEx.ofError
    | (with_reducible refine After.ofSealed (by assumption) ?_)
    | (with_reducible refine After.ofOkPair (by assumption) ?_)
    | (with_reducible refine After.ofOk (by assumption) ?_)
    | with_reducible apply After.fold

theorem State.ewqDrain_after {b T} (x0) (x1) (x2) (ht : Within 0x18000008014000 T) (h1 : After T b x0) :
    After T b (@State.ewqDrain x0 x1 x2) := by
  induction x2 generalizing x0 with
  | nil =>
    unfold State.ewqDrain
    try dsimp only
    repeat' first
      | with_reducible assumption
  | cons a l ih =>
    unfold State.ewqDrain
    try dsimp only
    repeat' first
      | with_reducible assumption
      | with_reducible apply State.ewqRetire_after
      | with_reducible apply State.putEngineQueue_after
      | with_reducible apply ih
      | with_reducible exact Within.mono ht rfl
      | with_reducible apply AfterRoute.ite
      | split

theorem State.ewqQuiesce_after {b T} (x0) (x1) (ht : Within 0x8000000010000 T) (h1 : After T b x0) :
    After T b (@State.ewqQuiesce x0 x1) := by
  unfold State.ewqQuiesce
  try dsimp only
  repeat' first
    | with_reducible assumption
    | with_reducible apply State.prefetch_after
    | with_reducible apply State.putEngineQueue_after
    | with_reducible apply State.wrs_after
    | with_reducible apply State.wr_after
    | with_reducible exact Within.mono ht rfl
    | exact RegIn.block ht (by decide) rfl
    | with_reducible apply FieldsIn.cons
    | with_reducible exact FieldsIn.nil
    | with_reducible apply AfterRoute.ite
    | split

theorem State.ewqFinish_after {b T} (x0) (x1) (x2) (x3) (ht : Within 0x7834801901d2c1 T) (h1 : After T b x0) :
    After T b (@State.ewqFinish x0 x1 x2 x3) := by
  unfold State.ewqFinish
  try dsimp only
  repeat' first
    | with_reducible assumption
    | with_reducible apply State.putEngineQueue_after
    | with_reducible apply State.releaseSlot_after
    | with_reducible apply State.ewqHalt_after
    | with_reducible apply State.prefetch_after
    | with_reducible apply State.ewqQuiesce_after
    | with_reducible apply State.showInFlight_after
    | with_reducible apply State.ewqDrain_after
    | with_reducible exact Within.mono ht rfl
    | with_reducible apply AfterRoute.ite
    | split

theorem execEwqDescriptorComplete_after {b T} (x0) (x1) (x2) (ht : Within 0x7ffffff901d3c3 T) (h3 : After T b x2) :
    AfterOut T b ((@execEwqDescriptorComplete x0 x1 x2)) := by
  unfold execEwqDescriptorComplete
  try dsimp only
  repeat' first
    | with_reducible assumption
    | with_reducible apply onSoc_after
    | with_reducible apply State.startDescriptor_after
    | with_reducible apply State.ewqFinish_after
    | with_reducible exact Within.mono ht rfl
    | with_reducible apply AfterRoute.ite
    | split
    | (with_reducible intro _)

theorem execEwqReadTimeout_after {b T} (x0) (x1) (x2) (x3) (ht : Within 0x7834801901d2c1 T) (h4 : After T b x3) :
    AfterOut T b ((@execEwqReadTimeout x0 x1 x2 x3)) := by
  unfold execEwqReadTimeout
  try dsimp only
  repeat' first
    | with_reducible assumption
    | with_reducible apply onSoc_after
    | with_reducible apply State.putEngineQueue_after
    | with_reducible apply State.ewqFinish_after
    | with_reducible exact Within.mono ht rfl
    | with_reducible apply AfterRoute.ite
    | split
    | (with_reducible intro _)

theorem execEwqDoorbell_after {b T} (x0) (x1) (x2) (x3) (ht : Within 0x693400110100ca T) (h4 : After T b x3) :
    AfterOut T b ((@execEwqDoorbell x0 x1 x2 x3)) := by
  unfold execEwqDoorbell
  try dsimp only
  repeat' first
    | with_reducible assumption
    | with_reducible apply onSoc_after
    | with_reducible apply State.commandWrite_after
    | with_reducible apply State.prefetch_after
    | with_reducible apply State.wr_after
    | with_reducible apply State.plainFault_after
    | with_reducible apply State.count_after
    | with_reducible exact Within.mono ht rfl
    | exact RegIn.block ht (by decide) rfl
    | exact NotWall (by omega) (by omega)
    | with_reducible apply AfterRoute.ite
    | split
    | (with_reducible intro _)

theorem execEwqEnable_after {b T} (x0) (x1) (x2) (ht : Within 0x693400110100ca T) (h3 : After T b x2) :
    AfterOut T b ((@execEwqEnable x0 x1 x2)) := by
  unfold execEwqEnable
  try dsimp only
  repeat' first
    | with_reducible assumption
    | with_reducible apply onSoc_after
    | with_reducible apply State.commandWrite_after
    | with_reducible apply State.wr_after
    | with_reducible apply State.ewqHalt_after
    | with_reducible apply State.prefetch_after
    | with_reducible apply State.putEngineQueue_after
    | with_reducible exact Within.mono ht rfl
    | exact RegIn.block ht (by decide) rfl
    | exact NotWall (by omega) (by omega)
    | with_reducible apply AfterRoute.ite
    | split
    | (with_reducible intro _)

theorem execEwqDisable_after {b T} (x0) (x1) (x2) (ht : Within 0x693400110100ca T) (h3 : After T b x2) :
    AfterOut T b ((@execEwqDisable x0 x1 x2)) := by
  unfold execEwqDisable
  try dsimp only
  repeat' first
    | with_reducible assumption
    | with_reducible apply onSoc_after
    | with_reducible apply State.commandWrite_after
    | with_reducible apply State.wr_after
    | with_reducible apply State.ewqQuiesce_after
    | with_reducible apply State.putEngineQueue_after
    | with_reducible exact Within.mono ht rfl
    | exact RegIn.block ht (by decide) rfl
    | exact NotWall (by omega) (by omega)
    | with_reducible apply AfterRoute.ite
    | split
    | (with_reducible intro _)

theorem execEwqInvalidate_after {b T} (x0) (x1) (x2) (ht : Within 0x693400110100ca T) (h3 : After T b x2) :
    AfterOut T b ((@execEwqInvalidate x0 x1 x2)) := by
  unfold execEwqInvalidate
  try dsimp only
  repeat' first
    | with_reducible assumption
    | with_reducible apply onSoc_after
    | with_reducible apply State.commandWrite_after
    | with_reducible apply State.putEngineQueue_after
    | with_reducible apply State.wrs_after
    | with_reducible exact Within.mono ht rfl
    | exact RegIn.block ht (by decide) rfl
    | with_reducible apply FieldsIn.cons
    | with_reducible exact FieldsIn.nil
    | exact NotWall (by omega) (by omega)
    | with_reducible apply AfterRoute.ite
    | split
    | (with_reducible intro _)

theorem execEwqInvalidateDone_after {b T} (x0) (x1) (ht : Within 0x8000000010000 T) (h2 : After T b x1) :
    AfterOut T b ((@execEwqInvalidateDone x0 x1)) := by
  unfold execEwqInvalidateDone
  try dsimp only
  repeat' first
    | with_reducible assumption
    | with_reducible apply onSoc_after
    | with_reducible apply State.prefetch_after
    | with_reducible apply State.wr_after
    | with_reducible exact Within.mono ht rfl
    | exact RegIn.block ht (by decide) rfl
    | with_reducible apply AfterRoute.ite
    | split
    | (with_reducible intro _)

theorem State.resetEngineQueue_after {b T} (x0) (x1) (ht : Within 0x7834801901d2c1 T) (h1 : After T b x0) :
    After T b (@State.resetEngineQueue x0 x1) := by
  unfold State.resetEngineQueue
  try dsimp only
  repeat' first
    | with_reducible assumption
    | with_reducible apply State.wrs_after
    | with_reducible apply State.putEngineQueue_after
    | with_reducible apply State.setReg_after
    | with_reducible apply State.each_after
    | with_reducible apply State.releaseSlot_after
    | with_reducible exact Within.mono ht rfl
    | exact RegIn.block ht (by decide) rfl
    | with_reducible apply FieldsIn.cons
    | with_reducible exact FieldsIn.nil
    | with_reducible apply AfterRoute.ite
    | split
    | (with_reducible intro _)

theorem execEwqReset_after {b T} (x0) (x1) (x2) (ht : Within 0x7934801901d2cb T) (h3 : After T b x2) :
    AfterOut T b ((@execEwqReset x0 x1 x2)) := by
  unfold execEwqReset
  try dsimp only
  repeat' first
    | with_reducible assumption
    | with_reducible apply onSoc_after
    | with_reducible apply State.commandWrite_after
    | with_reducible apply State.resetEngineQueue_after
    | with_reducible exact Within.mono ht rfl
    | exact RegIn.block ht (by decide) rfl
    | exact NotWall (by omega) (by omega)
    | with_reducible apply AfterRoute.ite
    | split
    | (with_reducible intro _)

end Sys2Proof.Machine
end

