-- ==== Sys2Proof/Laws/After/Rdma.lean ====
section
/-! SUPPORT. What the operations of Rdma keep (Laws/After.lean). -/

set_option Elab.async false
set_option linter.all false

namespace Sys2Proof.Machine

theorem State.completionRecord_after {b T} (x0) (x1) (x2) (x3) (x4) (x5) (ht : Within 0x10000008006000 T) (h1 : After T b x0) :
    After T b (@State.completionRecord x0 x1 x2 x3 x4 x5) := by
  unfold State.completionRecord
  try dsimp only
  repeat' first
    | with_reducible assumption
    | with_reducible apply State.onRdma_after
    | with_reducible apply State.storeBytes_after
    | with_reducible exact Within.mono ht rfl

theorem State.completeWork_after {b T} (x0) (x1) (x2) (x3) (x4) (x5) (x6) (ht : Within 0x10000008006000 T) (h1 : After T b x0) :
    After T b (@State.completeWork x0 x1 x2 x3 x4 x5 x6) := by
  unfold State.completeWork
  try dsimp only
  repeat' first
    | with_reducible assumption
    | with_reducible apply State.countCtx_after
    | with_reducible apply State.completionRecord_after
    | with_reducible exact Within.mono ht rfl
    | with_reducible apply AfterRoute.ite
    | split

theorem State.toError_after {b T} (x0) (x1) (x2) (ht : Within 0x50044119086601 T) (h1 : After T b x0) :
    After T b (@State.toError x0 x1 x2) := by
  unfold State.toError
  split
  · exact h1
  extract_lets s started size posted status t u v w
  have hs : After T b s := State.setCtx_after _ _ _ _ (ht.mono rfl) h1
  have ht1 : After T b t := State.each_after _ _ _ _ hs fun _ _ h => State.completeWork_after _ _ _ _ _ _ _ (ht.mono rfl) h
  have hu : After T b u := State.each_after _ _ _ _ ht1 fun _ _ h => State.completeWork_after _ _ _ _ _ _ _ (ht.mono rfl) h
  have hv : After T b v := State.setCtx_after _ _ _ _ (ht.mono rfl) hu
  have hw : After T b w := State.onRdma_after _ _ (ht.mono rfl) hv
  split
  · exact hw
  split
  · exact State.resetController_after _ _ _ (ht.mono rfl) hw
  · exact State.abortCommands_after _ _ _ (ht.mono rfl) hw

theorem State.startWork_after {b T} (x0) (x1) (x2) (ht : Within 0x2000 T) (h1 : After T b x0) :
    After T b (@State.startWork x0 x1 x2) := by
  unfold State.startWork
  try dsimp only
  repeat' first
    | with_reducible assumption
    | with_reducible apply State.startRead_after
    | with_reducible apply State.onRdma_after
    | with_reducible apply State.startSend_after
    | with_reducible exact Within.mono ht rfl
    | exact RegIn.block ht (by decide) rfl
    | with_reducible apply AfterRoute.ite
    | split
    | (with_reducible intro _)
    | with_reducible apply AfterOut.ofNext
    | with_reducible apply AfterOpt.ofSome
    | with_reducible exact AfterOpt.ofNone
    | (with_reducible refine After.ofPair (by assumption) ?_)
    | (with_reducible refine After.ofTriple (by assumption) ?_)
    | (with_reducible refine After.ofOpt (by assumption) ?_)
    | with_reducible apply AfterSome.ofSome
    | with_reducible apply AfterRoute.ofSome
    | with_reducible exact AfterRoute.ofNone
    | with_reducible exact AfterSome.ofNone
    | with_reducible apply AfterEx.ofOk
    | with_reducible exact AfterEx.ofError
    | (with_reducible refine After.ofSealed (by assumption) ?_)
    | (with_reducible refine After.ofOkPair (by assumption) ?_)
    | (with_reducible refine After.ofOk (by assumption) ?_)
    | with_reducible apply After.fold

theorem State.parkRing_after {b T} (x0) (x1) (x2) (ht : Within 0x2000 T) (h1 : After T b x0) :
    After T b (@State.parkRing x0 x1 x2) := by
  unfold State.parkRing
  try dsimp only
  repeat' first
    | with_reducible assumption
    | with_reducible apply State.onRdma_after
    | with_reducible apply State.setCtx_after
    | with_reducible exact Within.mono ht rfl
    | exact RegIn.block ht (by decide) rfl
    | with_reducible apply AfterRoute.ite
    | split
    | (with_reducible intro _)
    | with_reducible apply AfterOut.ofNext
    | with_reducible apply AfterOpt.ofSome
    | with_reducible exact AfterOpt.ofNone
    | (with_reducible refine After.ofPair (by assumption) ?_)
    | (with_reducible refine After.ofTriple (by assumption) ?_)
    | (with_reducible refine After.ofOpt (by assumption) ?_)
    | with_reducible apply AfterSome.ofSome
    | with_reducible apply AfterRoute.ofSome
    | with_reducible exact AfterRoute.ofNone
    | with_reducible exact AfterSome.ofNone
    | with_reducible apply AfterEx.ofOk
    | with_reducible exact AfterEx.ofError
    | (with_reducible refine After.ofSealed (by assumption) ?_)
    | (with_reducible refine After.ofOkPair (by assumption) ?_)
    | (with_reducible refine After.ofOk (by assumption) ?_)
    | with_reducible apply After.fold

theorem State.runRing_after {b T} (x0) (x1) (x2) (ht : Within 0x50044119086601 T) (h1 : After T b x0) :
    After T b (@State.runRing x0 x1 x2) := by
  induction x2 generalizing x0 x1 with
  | zero =>
    unfold State.runRing
    try dsimp only
    repeat' first
      | with_reducible assumption
      | with_reducible apply State.parkRing_after
      | with_reducible apply State.toError_after
      | with_reducible apply State.startWork_after
      | with_reducible apply State.setCtx_after
      | with_reducible exact Within.mono ht rfl
      | exact RegIn.block ht (by decide) rfl
      | exact RegIn.word (by omega) ht (by omega) rfl
      | with_reducible apply AfterRoute.ite
      | split
      | (with_reducible intro _)
      | with_reducible apply AfterOut.ofNext
      | with_reducible apply AfterOpt.ofSome
      | with_reducible exact AfterOpt.ofNone
      | (with_reducible refine After.ofPair (by assumption) ?_)
      | (with_reducible refine After.ofTriple (by assumption) ?_)
      | (with_reducible refine After.ofOpt (by assumption) ?_)
      | with_reducible apply AfterSome.ofSome
      | with_reducible apply AfterRoute.ofSome
      | with_reducible exact AfterRoute.ofNone
      | with_reducible exact AfterSome.ofNone
      | with_reducible apply AfterEx.ofOk
      | with_reducible exact AfterEx.ofError
      | (with_reducible refine After.ofSealed (by assumption) ?_)
      | (with_reducible refine After.ofOkPair (by assumption) ?_)
      | (with_reducible refine After.ofOk (by assumption) ?_)
      | with_reducible apply After.fold
  | succ n ih =>
    unfold State.runRing
    try dsimp only
    repeat' first
      | with_reducible assumption
      | with_reducible apply ih
      | with_reducible apply State.parkRing_after
      | with_reducible apply State.toError_after
      | with_reducible apply State.startWork_after
      | with_reducible apply State.setCtx_after
      | with_reducible exact Within.mono ht rfl
      | exact RegIn.block ht (by decide) rfl
      | exact RegIn.word (by omega) ht (by omega) rfl
      | with_reducible apply AfterRoute.ite
      | split
      | (with_reducible intro _)
      | with_reducible apply AfterOut.ofNext
      | with_reducible apply AfterOpt.ofSome
      | with_reducible exact AfterOpt.ofNone
      | (with_reducible refine After.ofPair (by assumption) ?_)
      | (with_reducible refine After.ofTriple (by assumption) ?_)
      | (with_reducible refine After.ofOpt (by assumption) ?_)
      | with_reducible apply AfterSome.ofSome
      | with_reducible apply AfterRoute.ofSome
      | with_reducible exact AfterRoute.ofNone
      | with_reducible exact AfterSome.ofNone
      | with_reducible apply AfterEx.ofOk
      | with_reducible exact AfterEx.ofError
      | (with_reducible refine After.ofSealed (by assumption) ?_)
      | (with_reducible refine After.ofOkPair (by assumption) ?_)
      | (with_reducible refine After.ofOk (by assumption) ?_)
      | with_reducible apply After.fold

theorem State.evaluateWaits_after {b T} (x0) (x1) (ht : Within 0x50044119086601 T) (h1 : After T b x0) :
    After T b (@State.evaluateWaits x0 x1) := by
  induction x1 generalizing x0 with
  | zero =>
    unfold State.evaluateWaits
    try dsimp only
    repeat' first
      | with_reducible assumption
  | succ n ih =>
    unfold State.evaluateWaits
    try dsimp only
    repeat' first
      | with_reducible assumption
      | with_reducible apply State.each_after
      | with_reducible apply State.runRing_after
      | with_reducible apply State.onRdma_after
      | with_reducible apply ih
      | with_reducible exact Within.mono ht rfl
      | with_reducible apply AfterRoute.ite
      | split
      | (with_reducible intro _)

theorem State.wakeWaits_after {b T} (x0) (ht : Within 0x50044119086601 T) (h1 : After T b x0) :
    After T b (@State.wakeWaits x0) := by
  unfold State.wakeWaits
  try dsimp only
  repeat' first
    | with_reducible assumption
    | with_reducible apply State.evaluateWaits_after

theorem State.queuePairError_after {b T} (x0) (x1) (x2) (ht : Within 0x50044119086601 T) (h1 : After T b x0) :
    After T b (@State.queuePairError x0 x1 x2) := by
  unfold State.queuePairError
  try dsimp only
  repeat' first
    | with_reducible assumption
    | with_reducible apply State.wakeWaits_after
    | with_reducible apply State.toError_after
    | with_reducible exact Within.mono ht rfl
    | exact RegIn.block ht (by decide) rfl
    | with_reducible apply AfterRoute.ite
    | split
    | (with_reducible intro _)
    | with_reducible apply AfterOut.ofNext
    | with_reducible apply AfterOpt.ofSome
    | with_reducible exact AfterOpt.ofNone
    | (with_reducible refine After.ofPair (by assumption) ?_)
    | (with_reducible refine After.ofTriple (by assumption) ?_)
    | (with_reducible refine After.ofOpt (by assumption) ?_)
    | with_reducible apply AfterSome.ofSome
    | with_reducible apply AfterRoute.ofSome
    | with_reducible exact AfterRoute.ofNone
    | with_reducible exact AfterSome.ofNone
    | with_reducible apply AfterEx.ofOk
    | with_reducible exact AfterEx.ofError
    | (with_reducible refine After.ofSealed (by assumption) ?_)
    | (with_reducible refine After.ofOkPair (by assumption) ?_)
    | (with_reducible refine After.ofOk (by assumption) ?_)
    | with_reducible apply After.fold

theorem State.congestion_after {b T} (x0) (x1) (x2) (ht : Within 0x100002000 T) (h1 : After T b x0) :
    After T b (@State.congestion x0 x1 x2) := by
  unfold State.congestion
  try dsimp only
  repeat' first
    | with_reducible assumption
    | with_reducible apply State.countCtx_after
    | with_reducible apply State.count_after
    | with_reducible apply State.setCtx_after
    | with_reducible apply State.emit_after
    | with_reducible apply State.sent_after
    | with_reducible exact Within.mono ht rfl
    | exact RegIn.block ht (by decide) rfl
    | with_reducible apply AfterRoute.ite
    | split
    | (with_reducible intro _)
    | with_reducible apply AfterOut.ofNext
    | with_reducible apply AfterOpt.ofSome
    | with_reducible exact AfterOpt.ofNone
    | (with_reducible refine After.ofPair (by assumption) ?_)
    | (with_reducible refine After.ofTriple (by assumption) ?_)
    | (with_reducible refine After.ofOpt (by assumption) ?_)
    | with_reducible apply AfterSome.ofSome
    | with_reducible apply AfterRoute.ofSome
    | with_reducible exact AfterRoute.ofNone
    | with_reducible exact AfterSome.ofNone
    | with_reducible apply AfterEx.ofOk
    | with_reducible exact AfterEx.ofError
    | (with_reducible refine After.ofSealed (by assumption) ?_)
    | (with_reducible refine After.ofOkPair (by assumption) ?_)
    | (with_reducible refine After.ofOk (by assumption) ?_)
    | with_reducible apply After.fold

theorem State.nakError_after {b T} (x0) (x1) (x2) (ht : Within 0x50044119086601 T) (h1 : After T b x0) :
    After T b (@State.nakError x0 x1 x2) := by
  unfold State.nakError
  try dsimp only
  repeat' first
    | with_reducible assumption
    | with_reducible apply State.queuePairError_after
    | with_reducible apply State.sent_after
    | with_reducible apply State.emit_after
    | with_reducible exact Within.mono ht rfl
    | exact RegIn.block ht (by decide) rfl
    | with_reducible apply AfterRoute.ite
    | split
    | (with_reducible intro _)
    | with_reducible apply AfterOut.ofNext
    | with_reducible apply AfterOpt.ofSome
    | with_reducible exact AfterOpt.ofNone
    | (with_reducible refine After.ofPair (by assumption) ?_)
    | (with_reducible refine After.ofTriple (by assumption) ?_)
    | (with_reducible refine After.ofOpt (by assumption) ?_)
    | with_reducible apply AfterSome.ofSome
    | with_reducible apply AfterRoute.ofSome
    | with_reducible exact AfterRoute.ofNone
    | with_reducible exact AfterSome.ofNone
    | with_reducible apply AfterEx.ofOk
    | with_reducible exact AfterEx.ofError
    | (with_reducible refine After.ofSealed (by assumption) ?_)
    | (with_reducible refine After.ofOkPair (by assumption) ?_)
    | (with_reducible refine After.ofOk (by assumption) ?_)
    | with_reducible apply After.fold

theorem State.acknowledge_after {b T} (x0) (x1) (x2) (x3) (ht : Within 0x2000 T) (h1 : After T b x0) :
    After T b (@State.acknowledge x0 x1 x2 x3) := by
  unfold State.acknowledge
  try dsimp only
  repeat' first
    | with_reducible assumption
    | with_reducible apply State.onQp_after
    | with_reducible apply State.sendAck_after
    | with_reducible exact Within.mono ht rfl
    | with_reducible apply AfterRoute.ite
    | split

theorem State.received_after {b T} (x0) (x1) (x2) (x3) (ht : Within 0x2000 T) (h1 : After T b x0) :
    After T b (@State.received x0 x1 x2 x3) := by
  unfold State.received
  try dsimp only
  repeat' first
    | with_reducible assumption
    | with_reducible apply State.countCtx_after
    | with_reducible exact Within.mono ht rfl
    | exact RegIn.block ht (by decide) rfl
    | with_reducible apply AfterRoute.ite
    | split
    | (with_reducible intro _)
    | with_reducible apply AfterOut.ofNext
    | with_reducible apply AfterOpt.ofSome
    | with_reducible exact AfterOpt.ofNone
    | (with_reducible refine After.ofPair (by assumption) ?_)
    | (with_reducible refine After.ofTriple (by assumption) ?_)
    | (with_reducible refine After.ofOpt (by assumption) ?_)
    | with_reducible apply AfterSome.ofSome
    | with_reducible apply AfterRoute.ofSome
    | with_reducible exact AfterRoute.ofNone
    | with_reducible exact AfterSome.ofNone
    | with_reducible apply AfterEx.ofOk
    | with_reducible exact AfterEx.ofError
    | (with_reducible refine After.ofSealed (by assumption) ?_)
    | (with_reducible refine After.ofOkPair (by assumption) ?_)
    | (with_reducible refine After.ofOk (by assumption) ?_)
    | with_reducible apply After.fold

theorem State.acceptPsn_after {b T} (x0) (x1) (x2) (x3) (ht : Within 0x2000 T) (h1 : After T b x0) :
    After T b (@State.acceptPsn x0 x1 x2 x3) := by
  unfold State.acceptPsn
  try dsimp only
  repeat' first
    | with_reducible assumption
    | with_reducible apply State.setCtx_after
    | with_reducible apply State.received_after
    | with_reducible exact Within.mono ht rfl
    | exact RegIn.block ht (by decide) rfl
    | with_reducible apply AfterRoute.ite
    | split
    | (with_reducible intro _)
    | with_reducible apply AfterOut.ofNext
    | with_reducible apply AfterOpt.ofSome
    | with_reducible exact AfterOpt.ofNone
    | (with_reducible refine After.ofPair (by assumption) ?_)
    | (with_reducible refine After.ofTriple (by assumption) ?_)
    | (with_reducible refine After.ofOpt (by assumption) ?_)
    | with_reducible apply AfterSome.ofSome
    | with_reducible apply AfterRoute.ofSome
    | with_reducible exact AfterRoute.ofNone
    | with_reducible exact AfterSome.ofNone
    | with_reducible apply AfterEx.ofOk
    | with_reducible exact AfterEx.ofError
    | (with_reducible refine After.ofSealed (by assumption) ?_)
    | (with_reducible refine After.ofOkPair (by assumption) ?_)
    | (with_reducible refine After.ofOk (by assumption) ?_)
    | with_reducible apply After.fold

theorem State.classify_after {b T} (x0) (x1) (x2) (x3) (ht : Within 0x100002000 T) (h1 : After T b x0) (h4 : ∀ y0, After T b y0 → After T b (x3 y0)) :
    After T b (@State.classify x0 x1 x2 x3) := by
  unfold State.classify
  try dsimp only
  repeat' first
    | with_reducible assumption
    | with_reducible apply h4
    | with_reducible apply State.emit_after
    | with_reducible apply State.sent_after
    | with_reducible apply State.countCtx_after
    | with_reducible apply State.setCtx_after
    | with_reducible apply State.sendAck_after
    | with_reducible apply State.count_after
    | with_reducible exact Within.mono ht rfl
    | exact RegIn.block ht (by decide) rfl
    | with_reducible apply AfterRoute.ite
    | split
    | (with_reducible intro _)
    | with_reducible apply AfterOut.ofNext
    | with_reducible apply AfterOpt.ofSome
    | with_reducible exact AfterOpt.ofNone
    | (with_reducible refine After.ofPair (by assumption) ?_)
    | (with_reducible refine After.ofTriple (by assumption) ?_)
    | (with_reducible refine After.ofOpt (by assumption) ?_)
    | with_reducible apply AfterSome.ofSome
    | with_reducible apply AfterRoute.ofSome
    | with_reducible exact AfterRoute.ofNone
    | with_reducible exact AfterSome.ofNone
    | with_reducible apply AfterEx.ofOk
    | with_reducible exact AfterEx.ofError
    | (with_reducible refine After.ofSealed (by assumption) ?_)
    | (with_reducible refine After.ofOkPair (by assumption) ?_)
    | (with_reducible refine After.ofOk (by assumption) ?_)
    | with_reducible apply After.fold

theorem State.takeCapsule_after {b T} (x0) (x1) (x2) (ht : Within 0x40044111082601 T) (h1 : After T b x0) :
    After T b (@State.takeCapsule x0 x1 x2) := by
  unfold State.takeCapsule
  try dsimp only
  repeat' first
    | with_reducible assumption
    | with_reducible apply State.emit_after
    | with_reducible apply State.disconnect_after
    | with_reducible exact Within.mono ht rfl
    | with_reducible apply AfterRoute.ite
    | split

theorem State.expectedSend_after {b T} (x0) (x1) (x2) (x3) (x4) (x5) (ht : Within 0x50044119086601 T) (h1 : After T b x0) :
    After T b (@State.expectedSend x0 x1 x2 x3 x4 x5) := by
  unfold State.expectedSend
  try dsimp only
  repeat' first
    | with_reducible assumption
    | with_reducible apply State.nakError_after
    | with_reducible apply State.emit_after
    | with_reducible apply State.sent_after
    | with_reducible apply State.countCtx_after
    | with_reducible apply State.acceptPsn_after
    | with_reducible apply State.setCtx_after
    | with_reducible apply State.onQp_after
    | with_reducible apply State.congestion_after
    | with_reducible apply State.acknowledge_after
    | with_reducible apply State.takeCapsule_after
    | with_reducible exact Within.mono ht rfl
    | exact RegIn.block ht (by decide) rfl
    | with_reducible apply AfterRoute.ite
    | split
    | (with_reducible intro _)
    | with_reducible apply AfterOut.ofNext
    | with_reducible apply AfterOpt.ofSome
    | with_reducible exact AfterOpt.ofNone
    | (with_reducible refine After.ofPair (by assumption) ?_)
    | (with_reducible refine After.ofTriple (by assumption) ?_)
    | (with_reducible refine After.ofOpt (by assumption) ?_)
    | with_reducible apply AfterSome.ofSome
    | with_reducible apply AfterRoute.ofSome
    | with_reducible exact AfterRoute.ofNone
    | with_reducible exact AfterSome.ofNone
    | with_reducible apply AfterEx.ofOk
    | with_reducible exact AfterEx.ofError
    | (with_reducible refine After.ofSealed (by assumption) ?_)
    | (with_reducible refine After.ofOkPair (by assumption) ?_)
    | (with_reducible refine After.ofOk (by assumption) ?_)
    | with_reducible apply After.fold

theorem State.expectedWrite_after {b T} (x0) (x1) (x2) (x3) (x4) (x5) (x6) (x7) (x8) (ht : Within 0x50044119086601 T) (h1 : After T b x0) :
    After T b (@State.expectedWrite x0 x1 x2 x3 x4 x5 x6 x7 x8) := by
  unfold State.expectedWrite
  try dsimp only
  repeat' first
    | with_reducible assumption
    | with_reducible apply State.nakError_after
    | with_reducible apply State.storeBytes_after
    | with_reducible apply State.acceptPsn_after
    | with_reducible apply State.setCtx_after
    | with_reducible apply State.onQp_after
    | with_reducible apply State.congestion_after
    | with_reducible apply State.acknowledge_after
    | with_reducible exact Within.mono ht rfl
    | exact RegIn.block ht (by decide) rfl
    | with_reducible apply AfterRoute.ite
    | split
    | (with_reducible intro _)
    | with_reducible apply AfterOut.ofNext
    | with_reducible apply AfterOpt.ofSome
    | with_reducible exact AfterOpt.ofNone
    | (with_reducible refine After.ofPair (by assumption) ?_)
    | (with_reducible refine After.ofTriple (by assumption) ?_)
    | (with_reducible refine After.ofOpt (by assumption) ?_)
    | with_reducible apply AfterSome.ofSome
    | with_reducible apply AfterRoute.ofSome
    | with_reducible exact AfterRoute.ofNone
    | with_reducible exact AfterSome.ofNone
    | with_reducible apply AfterEx.ofOk
    | with_reducible exact AfterEx.ofError
    | (with_reducible refine After.ofSealed (by assumption) ?_)
    | (with_reducible refine After.ofOkPair (by assumption) ?_)
    | (with_reducible refine After.ofOk (by assumption) ?_)
    | with_reducible apply After.fold

theorem State.resend_after {b T} (x0) (x1) (x2) (ht : Within 0x100002000 T) (h1 : After T b x0) :
    After T b (@State.resend x0 x1 x2) := by
  unfold State.resend
  try dsimp only
  repeat' first
    | with_reducible assumption
    | with_reducible apply State.emits_after
    | with_reducible apply State.onRdma_after
    | with_reducible apply State.emit_after
    | with_reducible apply State.sentFrames_after
    | with_reducible apply State.count_after
    | with_reducible apply State.countCtx_after
    | with_reducible exact Within.mono ht rfl
    | exact RegIn.block ht (by decide) rfl
    | with_reducible apply AfterRoute.ite
    | split
    | (with_reducible intro _)
    | with_reducible apply AfterOut.ofNext
    | with_reducible apply AfterOpt.ofSome
    | with_reducible exact AfterOpt.ofNone
    | (with_reducible refine After.ofPair (by assumption) ?_)
    | (with_reducible refine After.ofTriple (by assumption) ?_)
    | (with_reducible refine After.ofOpt (by assumption) ?_)
    | with_reducible apply AfterSome.ofSome
    | with_reducible apply AfterRoute.ofSome
    | with_reducible exact AfterRoute.ofNone
    | with_reducible exact AfterSome.ofNone
    | with_reducible apply AfterEx.ofOk
    | with_reducible exact AfterEx.ofError
    | (with_reducible refine After.ofSealed (by assumption) ?_)
    | (with_reducible refine After.ofOkPair (by assumption) ?_)
    | (with_reducible refine After.ofOk (by assumption) ?_)
    | with_reducible apply After.fold

theorem State.retryFrom_after {b T} (x0) (x1) (x2) (ht : Within 0x50044119086601 T) (h1 : After T b x0) :
    After T b (@State.retryFrom x0 x1 x2) := by
  unfold State.retryFrom
  try dsimp only
  repeat' first
    | with_reducible assumption
    | with_reducible apply State.setCtx_after
    | with_reducible apply State.queuePairError_after
    | with_reducible apply State.resend_after
    | with_reducible exact Within.mono ht rfl
    | exact RegIn.block ht (by decide) rfl
    | with_reducible apply AfterRoute.ite
    | split
    | (with_reducible intro _)
    | with_reducible apply AfterOut.ofNext
    | with_reducible apply AfterOpt.ofSome
    | with_reducible exact AfterOpt.ofNone
    | (with_reducible refine After.ofPair (by assumption) ?_)
    | (with_reducible refine After.ofTriple (by assumption) ?_)
    | (with_reducible refine After.ofOpt (by assumption) ?_)
    | with_reducible apply AfterSome.ofSome
    | with_reducible apply AfterRoute.ofSome
    | with_reducible exact AfterRoute.ofNone
    | with_reducible exact AfterSome.ofNone
    | with_reducible apply AfterEx.ofOk
    | with_reducible exact AfterEx.ofError
    | (with_reducible refine After.ofSealed (by assumption) ?_)
    | (with_reducible refine After.ofOkPair (by assumption) ?_)
    | (with_reducible refine After.ofOk (by assumption) ?_)
    | with_reducible apply After.fold

theorem State.readResponse_after {b T} (x0) (x1) (x2) (x3) (x4) (ht : Within 0x50165919087e01 T) (h1 : After T b x0) :
    After T b (@State.readResponse x0 x1 x2 x3 x4) := by
  unfold State.readResponse
  try dsimp only
  repeat' first
    | with_reducible assumption
    | with_reducible apply State.onRdma_after
    | with_reducible apply State.received_after
    | with_reducible apply State.restoreRetries_after
    | with_reducible apply State.storeBytes_after
    | with_reducible apply State.dataArrives_after
    | with_reducible apply State.congestion_after
    | with_reducible apply State.retryFrom_after
    | with_reducible exact Within.mono ht rfl
    | exact RegIn.block ht (by decide) rfl
    | with_reducible apply AfterRoute.ite
    | split
    | (with_reducible intro _)
    | with_reducible apply AfterOut.ofNext
    | with_reducible apply AfterOpt.ofSome
    | with_reducible exact AfterOpt.ofNone
    | (with_reducible refine After.ofPair (by assumption) ?_)
    | (with_reducible refine After.ofTriple (by assumption) ?_)
    | (with_reducible refine After.ofOpt (by assumption) ?_)
    | with_reducible apply AfterSome.ofSome
    | with_reducible apply AfterRoute.ofSome
    | with_reducible exact AfterRoute.ofNone
    | with_reducible exact AfterSome.ofNone
    | with_reducible apply AfterEx.ofOk
    | with_reducible exact AfterEx.ofError
    | (with_reducible refine After.ofSealed (by assumption) ?_)
    | (with_reducible refine After.ofOkPair (by assumption) ?_)
    | (with_reducible refine After.ofOk (by assumption) ?_)
    | with_reducible apply After.fold

theorem State.ackArrives_after {b T} (x0) (x1) (x2) (ht : Within 0x100002000 T) (h1 : After T b x0) :
    After T b (@State.ackArrives x0 x1 x2) := by
  unfold State.ackArrives
  try dsimp only
  repeat' first
    | with_reducible assumption
    | with_reducible apply State.onRdma_after
    | with_reducible apply State.restoreRetries_after
    | with_reducible apply State.setCtx_after
    | with_reducible apply State.received_after
    | with_reducible apply State.count_after
    | with_reducible exact Within.mono ht rfl
    | exact RegIn.block ht (by decide) rfl
    | with_reducible apply AfterRoute.ite
    | split
    | (with_reducible intro _)
    | with_reducible apply AfterOut.ofNext
    | with_reducible apply AfterOpt.ofSome
    | with_reducible exact AfterOpt.ofNone
    | (with_reducible refine After.ofPair (by assumption) ?_)
    | (with_reducible refine After.ofTriple (by assumption) ?_)
    | (with_reducible refine After.ofOpt (by assumption) ?_)
    | with_reducible apply AfterSome.ofSome
    | with_reducible apply AfterRoute.ofSome
    | with_reducible exact AfterRoute.ofNone
    | with_reducible exact AfterSome.ofNone
    | with_reducible apply AfterEx.ofOk
    | with_reducible exact AfterEx.ofError
    | (with_reducible refine After.ofSealed (by assumption) ?_)
    | (with_reducible refine After.ofOkPair (by assumption) ?_)
    | (with_reducible refine After.ofOk (by assumption) ?_)
    | with_reducible apply After.fold

theorem State.nakArrives_after {b T} (x0) (x1) (x2) (x3) (ht : Within 0x50044119086601 T) (h1 : After T b x0) :
    After T b (@State.nakArrives x0 x1 x2 x3) := by
  unfold State.nakArrives
  try dsimp only
  repeat' first
    | with_reducible assumption
    | with_reducible apply State.count_after
    | with_reducible apply State.received_after
    | with_reducible apply State.resend_after
    | with_reducible apply State.countCtx_after
    | with_reducible apply State.setCtx_after
    | with_reducible apply State.onRdma_after
    | with_reducible apply State.queuePairError_after
    | with_reducible exact Within.mono ht rfl
    | exact RegIn.block ht (by decide) rfl
    | with_reducible apply AfterRoute.ite
    | split
    | (with_reducible intro _)
    | with_reducible apply AfterOut.ofNext
    | with_reducible apply AfterOpt.ofSome
    | with_reducible exact AfterOpt.ofNone
    | (with_reducible refine After.ofPair (by assumption) ?_)
    | (with_reducible refine After.ofTriple (by assumption) ?_)
    | (with_reducible refine After.ofOpt (by assumption) ?_)
    | with_reducible apply AfterSome.ofSome
    | with_reducible apply AfterRoute.ofSome
    | with_reducible exact AfterRoute.ofNone
    | with_reducible exact AfterSome.ofNone
    | with_reducible apply AfterEx.ofOk
    | with_reducible exact AfterEx.ofError
    | (with_reducible refine After.ofSealed (by assumption) ?_)
    | (with_reducible refine After.ofOkPair (by assumption) ?_)
    | (with_reducible refine After.ofOk (by assumption) ?_)
    | with_reducible apply After.fold

theorem State.onCnp_after {b T} (x0) (x1) (ht : Within 0x40000104002000 T) (h1 : After T b x0) :
    After T b (@State.onCnp x0 x1) := by
  unfold State.onCnp
  try dsimp only
  repeat' first
    | with_reducible assumption
    | with_reducible apply State.event_after
    | with_reducible apply State.count_after
    | with_reducible apply State.received_after
    | with_reducible apply State.countCtx_after
    | with_reducible apply State.refillBucket_after
    | with_reducible apply State.settleBucket_after
    | with_reducible apply State.setCtx_after
    | with_reducible apply State.onRdma_after
    | with_reducible exact Within.mono ht rfl
    | exact RegIn.block ht (by decide) rfl
    | with_reducible apply AfterRoute.ite
    | split
    | (with_reducible intro _)
    | with_reducible apply AfterOut.ofNext
    | with_reducible apply AfterOpt.ofSome
    | with_reducible exact AfterOpt.ofNone
    | (with_reducible refine After.ofPair (by assumption) ?_)
    | (with_reducible refine After.ofTriple (by assumption) ?_)
    | (with_reducible refine After.ofOpt (by assumption) ?_)
    | with_reducible apply AfterSome.ofSome
    | with_reducible apply AfterRoute.ofSome
    | with_reducible exact AfterRoute.ofNone
    | with_reducible exact AfterSome.ofNone
    | with_reducible apply AfterEx.ofOk
    | with_reducible exact AfterEx.ofError
    | (with_reducible refine After.ofSealed (by assumption) ?_)
    | (with_reducible refine After.ofOkPair (by assumption) ?_)
    | (with_reducible refine After.ofOk (by assumption) ?_)
    | with_reducible apply After.fold

theorem State.onStepTimer_after {b T} (x0) (x1) (ht : Within 0x4002000 T) (h1 : After T b x0) :
    After T b (@State.onStepTimer x0 x1) := by
  unfold State.onStepTimer
  try dsimp only
  repeat' first
    | with_reducible assumption
    | with_reducible apply State.setCtx_after
    | with_reducible apply State.settleBucket_after
    | with_reducible apply State.onRdma_after
    | with_reducible exact Within.mono ht rfl
    | with_reducible apply AfterRoute.ite
    | split

theorem State.ackTimeout_after {b T} (x0) (x1) (ht : Within 0x50044119086601 T) (h1 : After T b x0) :
    After T b (@State.ackTimeout x0 x1) := by
  unfold State.ackTimeout
  try dsimp only
  repeat' first
    | with_reducible assumption
    | with_reducible apply State.retryFrom_after
    | with_reducible exact Within.mono ht rfl
    | with_reducible apply AfterRoute.ite
    | split

theorem State.rnrExpiry_after {b T} (x0) (x1) (ht : Within 0x100002000 T) (h1 : After T b x0) :
    After T b (@State.rnrExpiry x0 x1) := by
  unfold State.rnrExpiry
  try dsimp only
  repeat' first
    | with_reducible assumption
    | with_reducible apply State.resend_after
    | with_reducible apply State.onRdma_after
    | with_reducible exact Within.mono ht rfl
    | with_reducible apply AfterRoute.ite
    | split

theorem State.doorbell_after {b T} (x0) (x1) (x2) (ht : Within 0x50044119086601 T) (h1 : After T b x0) :
    After T b (@State.doorbell x0 x1 x2) := by
  unfold State.doorbell
  try dsimp only
  repeat' first
    | with_reducible assumption
    | with_reducible apply State.wakeWaits_after
    | with_reducible apply State.runRing_after
    | with_reducible apply State.setCtx_after
    | with_reducible exact Within.mono ht rfl
    | exact RegIn.block ht (by decide) rfl
    | with_reducible apply AfterRoute.ite
    | split
    | (with_reducible intro _)
    | with_reducible apply AfterOut.ofNext
    | with_reducible apply AfterOpt.ofSome
    | with_reducible exact AfterOpt.ofNone
    | (with_reducible refine After.ofPair (by assumption) ?_)
    | (with_reducible refine After.ofTriple (by assumption) ?_)
    | (with_reducible refine After.ofOpt (by assumption) ?_)
    | with_reducible apply AfterSome.ofSome
    | with_reducible apply AfterRoute.ofSome
    | with_reducible exact AfterRoute.ofNone
    | with_reducible exact AfterSome.ofNone
    | with_reducible apply AfterEx.ofOk
    | with_reducible exact AfterEx.ofError
    | (with_reducible refine After.ofSealed (by assumption) ?_)
    | (with_reducible refine After.ofOkPair (by assumption) ?_)
    | (with_reducible refine After.ofOk (by assumption) ?_)
    | with_reducible apply After.fold

theorem State.readsGo_after {b T} (x0) (x1) (ht : Within 0x50044119086601 T) (h1 : After T b x0) :
    After T b (@State.readsGo x0 x1) := by
  unfold State.readsGo
  try dsimp only
  repeat' first
    | with_reducible assumption
    | with_reducible apply State.wakeWaits_after
    | with_reducible apply State.runSends_after
    | with_reducible exact Within.mono ht rfl
    | exact RegIn.block ht (by decide) rfl
    | with_reducible apply AfterRoute.ite
    | split
    | (with_reducible intro _)
    | with_reducible apply AfterOut.ofNext
    | with_reducible apply AfterOpt.ofSome
    | with_reducible exact AfterOpt.ofNone
    | (with_reducible refine After.ofPair (by assumption) ?_)
    | (with_reducible refine After.ofTriple (by assumption) ?_)
    | (with_reducible refine After.ofOpt (by assumption) ?_)
    | with_reducible apply AfterSome.ofSome
    | with_reducible apply AfterRoute.ofSome
    | with_reducible exact AfterRoute.ofNone
    | with_reducible exact AfterSome.ofNone
    | with_reducible apply AfterEx.ofOk
    | with_reducible exact AfterEx.ofError
    | (with_reducible refine After.ofSealed (by assumption) ?_)
    | (with_reducible refine After.ofOkPair (by assumption) ?_)
    | (with_reducible refine After.ofOk (by assumption) ?_)
    | with_reducible apply After.fold

theorem State.servePacket_after {b T} (x0) (x1) (ht : Within 0x5016591d087e01 T) (h1 : After T b x0) :
    After T b (@State.servePacket x0 x1) := by
  unfold State.servePacket
  try dsimp only
  repeat' first
    | with_reducible assumption
    | with_reducible apply State.classify_after
    | with_reducible apply State.expectedSend_after
    | with_reducible apply State.expectedWrite_after
    | with_reducible apply State.readResponse_after
    | with_reducible apply State.ackArrives_after
    | with_reducible apply State.nakArrives_after
    | with_reducible apply State.onCnp_after
    | with_reducible apply State.ackTimeout_after
    | with_reducible apply State.rnrExpiry_after
    | with_reducible apply State.onStepTimer_after
    | with_reducible apply State.doorbell_after
    | with_reducible apply State.readsGo_after
    | with_reducible exact Within.mono ht rfl
    | exact RegIn.block ht (by decide) rfl
    | with_reducible apply AfterRoute.ite
    | split
    | (with_reducible intro _)
    | with_reducible apply AfterOut.ofNext
    | with_reducible apply AfterOpt.ofSome
    | with_reducible exact AfterOpt.ofNone
    | (with_reducible refine After.ofPair (by assumption) ?_)
    | (with_reducible refine After.ofTriple (by assumption) ?_)
    | (with_reducible refine After.ofOpt (by assumption) ?_)
    | with_reducible apply AfterSome.ofSome
    | with_reducible apply AfterRoute.ofSome
    | with_reducible exact AfterRoute.ofNone
    | with_reducible exact AfterSome.ofNone
    | with_reducible apply AfterEx.ofOk
    | with_reducible exact AfterEx.ofError
    | (with_reducible refine After.ofSealed (by assumption) ?_)
    | (with_reducible refine After.ofOkPair (by assumption) ?_)
    | (with_reducible refine After.ofOk (by assumption) ?_)
    | with_reducible apply After.fold

theorem State.serveItem_after {b T} (x0) (x1) (x2) (ht : Within 0x5016591d087e01 T) (h1 : After T b x0) :
    After T b (@State.serveItem x0 x1 x2) := by
  unfold State.serveItem
  try dsimp only
  repeat' first
    | with_reducible assumption
    | with_reducible apply State.servePacket_after
    | with_reducible apply State.serveSend_after
    | with_reducible exact Within.mono ht rfl
    | exact RegIn.block ht (by decide) rfl
    | with_reducible apply AfterRoute.ite
    | split
    | (with_reducible intro _)
    | with_reducible apply AfterOut.ofNext
    | with_reducible apply AfterOpt.ofSome
    | with_reducible exact AfterOpt.ofNone
    | (with_reducible refine After.ofPair (by assumption) ?_)
    | (with_reducible refine After.ofTriple (by assumption) ?_)
    | (with_reducible refine After.ofOpt (by assumption) ?_)
    | with_reducible apply AfterSome.ofSome
    | with_reducible apply AfterRoute.ofSome
    | with_reducible exact AfterRoute.ofNone
    | with_reducible exact AfterSome.ofNone
    | with_reducible apply AfterEx.ofOk
    | with_reducible exact AfterEx.ofError
    | (with_reducible refine After.ofSealed (by assumption) ?_)
    | (with_reducible refine After.ofOkPair (by assumption) ?_)
    | (with_reducible refine After.ofOk (by assumption) ?_)
    | with_reducible apply After.fold

theorem State.passPacket_after {b T} (x0) (x1) (ht : Within 0x5016591d087e01 T) (h1 : After T b x0) :
    After T b (@State.passPacket x0 x1) := by
  unfold State.passPacket
  try dsimp only
  repeat' first
    | with_reducible assumption
    | with_reducible apply State.throughPipeline_after
    | with_reducible apply State.servePacket_after
    | with_reducible exact Within.mono ht rfl
    | exact RegIn.block ht (by decide) rfl
    | with_reducible apply AfterRoute.ite
    | split
    | (with_reducible intro _)
    | with_reducible apply AfterOut.ofNext
    | with_reducible apply AfterOpt.ofSome
    | with_reducible exact AfterOpt.ofNone
    | (with_reducible refine After.ofPair (by assumption) ?_)
    | (with_reducible refine After.ofTriple (by assumption) ?_)
    | (with_reducible refine After.ofOpt (by assumption) ?_)
    | with_reducible apply AfterSome.ofSome
    | with_reducible apply AfterRoute.ofSome
    | with_reducible exact AfterRoute.ofNone
    | with_reducible exact AfterSome.ofNone
    | with_reducible apply AfterEx.ofOk
    | with_reducible exact AfterEx.ofError
    | (with_reducible refine After.ofSealed (by assumption) ?_)
    | (with_reducible refine After.ofOkPair (by assumption) ?_)
    | (with_reducible refine After.ofOk (by assumption) ?_)
    | with_reducible apply After.fold

theorem State.packetIn_after {b T} (x0) (x1) (x2) (x3) (ht : Within 0x5016591d087e01 T) (h1 : After T b x0) :
    After T b (@State.packetIn x0 x1 x2 x3) := by
  unfold State.packetIn
  try dsimp only
  repeat' first
    | with_reducible assumption
    | with_reducible apply State.count_after
    | with_reducible apply State.passPacket_after
    | with_reducible exact Within.mono ht rfl
    | exact RegIn.block ht (by decide) rfl
    | with_reducible apply AfterRoute.ite
    | split

theorem execInboundRequest_after {b T} (x0) (x1) (x2) (x3) (x4) (x5) (x6) (ht : Within 0x5016591d087e01 T) (h7 : After T b x6) :
    AfterOut T b ((@execInboundRequest x0 x1 x2 x3 x4 x5 x6)) := by
  unfold execInboundRequest
  try dsimp only
  repeat' first
    | with_reducible assumption
    | with_reducible apply onSoc_after
    | with_reducible apply State.packetIn_after
    | with_reducible exact Within.mono ht rfl
    | with_reducible apply AfterRoute.ite
    | split
    | (with_reducible intro _)

theorem execInboundRdmaWrite_after {b T} (x0) (x1) (x2) (x3) (x4) (x5) (x6) (x7) (x8) (x9) (ht : Within 0x5016591d087e01 T) (h10 : After T b x9) :
    AfterOut T b (@execInboundRdmaWrite x0 x1 x2 x3 x4 x5 x6 x7 x8 x9) := by
  unfold execInboundRdmaWrite
  try dsimp only
  repeat' first
    | with_reducible assumption
    | with_reducible apply onSoc_after
    | with_reducible apply State.packetIn_after
    | with_reducible exact Within.mono ht rfl
    | exact RegIn.block ht (by decide) rfl
    | with_reducible apply AfterRoute.ite
    | split
    | (with_reducible intro _)
    | with_reducible apply AfterOut.ofNext
    | with_reducible apply AfterOpt.ofSome
    | with_reducible exact AfterOpt.ofNone
    | (with_reducible refine After.ofPair (by assumption) ?_)
    | (with_reducible refine After.ofTriple (by assumption) ?_)
    | (with_reducible refine After.ofOpt (by assumption) ?_)
    | with_reducible apply AfterSome.ofSome
    | with_reducible apply AfterRoute.ofSome
    | with_reducible exact AfterRoute.ofNone
    | with_reducible exact AfterSome.ofNone
    | with_reducible apply AfterEx.ofOk
    | with_reducible exact AfterEx.ofError
    | (with_reducible refine After.ofSealed (by assumption) ?_)
    | (with_reducible refine After.ofOkPair (by assumption) ?_)
    | (with_reducible refine After.ofOk (by assumption) ?_)
    | with_reducible apply After.fold

theorem execRdmaReadResponse_after {b T} (x0) (x1) (x2) (x3) (x4) (x5) (ht : Within 0x5016591d087e01 T) (h6 : After T b x5) :
    AfterOut T b ((@execRdmaReadResponse x0 x1 x2 x3 x4 x5)) := by
  unfold execRdmaReadResponse
  try dsimp only
  repeat' first
    | with_reducible assumption
    | with_reducible apply onSoc_after
    | with_reducible apply State.packetIn_after
    | with_reducible exact Within.mono ht rfl
    | with_reducible apply AfterRoute.ite
    | split
    | (with_reducible intro _)

theorem execAckReceived_after {b T} (x0) (x1) (x2) (ht : Within 0x5016591d087e01 T) (h3 : After T b x2) :
    AfterOut T b ((@execAckReceived x0 x1 x2)) := by
  unfold execAckReceived
  try dsimp only
  repeat' first
    | with_reducible assumption
    | with_reducible apply onSoc_after
    | with_reducible apply State.packetIn_after
    | with_reducible exact Within.mono ht rfl
    | with_reducible apply AfterRoute.ite
    | split
    | (with_reducible intro _)

theorem execNakReceived_after {b T} (x0) (x1) (x2) (x3) (ht : Within 0x5016591d087e01 T) (h4 : After T b x3) :
    AfterOut T b ((@execNakReceived x0 x1 x2 x3)) := by
  unfold execNakReceived
  try dsimp only
  repeat' first
    | with_reducible assumption
    | with_reducible apply onSoc_after
    | with_reducible apply State.packetIn_after
    | with_reducible exact Within.mono ht rfl
    | with_reducible apply AfterRoute.ite
    | split
    | (with_reducible intro _)

theorem execCnpReceived_after {b T} (x0) (x1) (ht : Within 0x5016591d087e01 T) (h2 : After T b x1) :
    AfterOut T b ((@execCnpReceived x0 x1)) := by
  unfold execCnpReceived
  try dsimp only
  repeat' first
    | with_reducible assumption
    | with_reducible apply onSoc_after
    | with_reducible apply State.packetIn_after
    | with_reducible exact Within.mono ht rfl
    | with_reducible apply AfterRoute.ite
    | split
    | (with_reducible intro _)

theorem execAckTimeout_after {b T} (x0) (x1) (ht : Within 0x5016591d087e01 T) (h2 : After T b x1) :
    AfterOut T b ((@execAckTimeout x0 x1)) := by
  unfold execAckTimeout
  try dsimp only
  repeat' first
    | with_reducible assumption
    | with_reducible apply onSoc_after
    | with_reducible apply State.passPacket_after
    | with_reducible exact Within.mono ht rfl
    | with_reducible apply AfterRoute.ite
    | split
    | (with_reducible intro _)

theorem execRnrTimerExpiry_after {b T} (x0) (x1) (ht : Within 0x5016591d087e01 T) (h2 : After T b x1) :
    AfterOut T b ((@execRnrTimerExpiry x0 x1)) := by
  unfold execRnrTimerExpiry
  try dsimp only
  repeat' first
    | with_reducible assumption
    | with_reducible apply onSoc_after
    | with_reducible apply State.passPacket_after
    | with_reducible exact Within.mono ht rfl
    | with_reducible apply AfterRoute.ite
    | split
    | (with_reducible intro _)

theorem execRateStepTimer_after {b T} (x0) (x1) (ht : Within 0x5016591d087e01 T) (h2 : After T b x1) :
    AfterOut T b ((@execRateStepTimer x0 x1)) := by
  unfold execRateStepTimer
  try dsimp only
  repeat' first
    | with_reducible assumption
    | with_reducible apply onSoc_after
    | with_reducible apply State.passPacket_after
    | with_reducible exact Within.mono ht rfl
    | with_reducible apply AfterRoute.ite
    | split
    | (with_reducible intro _)

theorem execContextFillComplete_after {b T} (x0) (x1) (x2) (ht : Within 0x5016591d087e01 T) (h3 : After T b x2) :
    AfterOut T b (@execContextFillComplete x0 x1 x2) := by
  unfold execContextFillComplete
  try dsimp only
  repeat' first
    | with_reducible assumption
    | with_reducible apply onSoc_after
    | with_reducible apply State.installContext_after
    | with_reducible apply State.each_after
    | with_reducible apply State.serveItem_after
    | with_reducible apply State.count_after
    | with_reducible apply State.throughPipeline_after
    | with_reducible exact Within.mono ht rfl
    | exact RegIn.block ht (by decide) rfl
    | with_reducible apply AfterRoute.ite
    | split
    | (with_reducible intro _)
    | with_reducible apply AfterOut.ofNext
    | with_reducible apply AfterOpt.ofSome
    | with_reducible exact AfterOpt.ofNone
    | (with_reducible refine After.ofPair (by assumption) ?_)
    | (with_reducible refine After.ofTriple (by assumption) ?_)
    | (with_reducible refine After.ofOpt (by assumption) ?_)
    | with_reducible apply AfterSome.ofSome
    | with_reducible apply AfterRoute.ofSome
    | with_reducible exact AfterRoute.ofNone
    | with_reducible exact AfterSome.ofNone
    | with_reducible apply AfterEx.ofOk
    | with_reducible exact AfterEx.ofError
    | (with_reducible refine After.ofSealed (by assumption) ?_)
    | (with_reducible refine After.ofOkPair (by assumption) ?_)
    | (with_reducible refine After.ofOk (by assumption) ?_)
    | with_reducible apply After.fold

theorem execEvictionWritebackComplete_after {b T} (x0) (x1) (x2) (x3) (ht : Within 0x2000 T) (h4 : After T b x3) :
    AfterOut T b ((@execEvictionWritebackComplete x0 x1 x2 x3)) := by
  unfold execEvictionWritebackComplete
  try dsimp only
  repeat' first
    | with_reducible assumption
    | with_reducible apply onSoc_after
    | with_reducible apply State.putPipeline_after
    | with_reducible exact Within.mono ht rfl
    | with_reducible apply AfterRoute.ite
    | split
    | (with_reducible intro _)

theorem execReadRequestComplete_after {b T} (x0) (x1) (ht : Within 0x2000 T) (h2 : After T b x1) :
    AfterOut T b ((@execReadRequestComplete x0 x1)) := by
  unfold execReadRequestComplete
  try dsimp only
  repeat' first
    | with_reducible assumption
    | with_reducible apply onSoc_after
    | with_reducible apply State.onRdma_after
    | with_reducible apply State.setCtx_after
    | with_reducible apply State.showReads_after
    | with_reducible exact Within.mono ht rfl
    | with_reducible apply AfterRoute.ite
    | split
    | (with_reducible intro _)

theorem execReadTrackerGrant_after {b T} (x0) (x1) (ht : Within 0x5016591d087e01 T) (h2 : After T b x1) :
    AfterOut T b (@execReadTrackerGrant x0 x1) := by
  unfold execReadTrackerGrant
  try dsimp only
  repeat' first
    | with_reducible assumption
    | with_reducible apply onSoc_after
    | with_reducible apply State.passPacket_after
    | with_reducible exact Within.mono ht rfl
    | exact RegIn.block ht (by decide) rfl
    | with_reducible apply AfterRoute.ite
    | split
    | (with_reducible intro _)
    | with_reducible apply AfterOut.ofNext
    | with_reducible apply AfterOpt.ofSome
    | with_reducible exact AfterOpt.ofNone
    | (with_reducible refine After.ofPair (by assumption) ?_)
    | (with_reducible refine After.ofTriple (by assumption) ?_)
    | (with_reducible refine After.ofOpt (by assumption) ?_)
    | with_reducible apply AfterSome.ofSome
    | with_reducible apply AfterRoute.ofSome
    | with_reducible exact AfterRoute.ofNone
    | with_reducible exact AfterSome.ofNone
    | with_reducible apply AfterEx.ofOk
    | with_reducible exact AfterEx.ofError
    | (with_reducible refine After.ofSealed (by assumption) ?_)
    | (with_reducible refine After.ofOkPair (by assumption) ?_)
    | (with_reducible refine After.ofOk (by assumption) ?_)
    | with_reducible apply After.fold

theorem execWorkRequestComplete_after {b T} (x0) (x1) (ht : Within 0x50044119086601 T) (h2 : After T b x1) :
    AfterOut T b ((@execWorkRequestComplete x0 x1)) := by
  unfold execWorkRequestComplete
  try dsimp only
  repeat' first
    | with_reducible assumption
    | with_reducible apply onSoc_after
    | with_reducible apply State.wakeWaits_after
    | with_reducible apply State.completeWork_after
    | with_reducible apply State.onRdma_after
    | with_reducible exact Within.mono ht rfl
    | with_reducible apply AfterRoute.ite
    | split
    | (with_reducible intro _)

theorem execConnectionRequest_after {b T} (x0) (x1) (ht : Within 0x102002000 T) (h2 : After T b x1) :
    AfterOut T b (@execConnectionRequest x0 x1) := by
  unfold execConnectionRequest
  try dsimp only
  repeat' first
    | with_reducible assumption
    | with_reducible apply onSoc_after
    | with_reducible apply State.emit_after
    | with_reducible apply State.putContext_after
    | with_reducible exact Within.mono ht rfl
    | exact RegIn.block ht (by decide) rfl
    | with_reducible apply AfterRoute.ite
    | split
    | (with_reducible intro _)
    | with_reducible apply AfterOut.ofNext
    | with_reducible apply AfterOpt.ofSome
    | with_reducible exact AfterOpt.ofNone
    | (with_reducible refine After.ofPair (by assumption) ?_)
    | (with_reducible refine After.ofTriple (by assumption) ?_)
    | (with_reducible refine After.ofOpt (by assumption) ?_)
    | with_reducible apply AfterSome.ofSome
    | with_reducible apply AfterRoute.ofSome
    | with_reducible exact AfterRoute.ofNone
    | with_reducible exact AfterSome.ofNone
    | with_reducible apply AfterEx.ofOk
    | with_reducible exact AfterEx.ofError
    | (with_reducible refine After.ofSealed (by assumption) ?_)
    | (with_reducible refine After.ofOkPair (by assumption) ?_)
    | (with_reducible refine After.ofOk (by assumption) ?_)
    | with_reducible apply After.fold

theorem execReadyToUse_after {b T} (x0) (x1) (ht : Within 0x2000 T) (h2 : After T b x1) :
    AfterOut T b ((@execReadyToUse x0 x1)) := by
  unfold execReadyToUse
  try dsimp only
  repeat' first
    | with_reducible assumption
    | with_reducible apply onSoc_after
    | with_reducible apply State.setCtx_after
    | with_reducible exact Within.mono ht rfl
    | with_reducible apply AfterRoute.ite
    | split
    | (with_reducible intro _)

theorem execConnectingTimeout_after {b T} (x0) (x1) (ht : Within 0x102002000 T) (h2 : After T b x1) :
    AfterOut T b ((@execConnectingTimeout x0 x1)) := by
  unfold execConnectingTimeout
  try dsimp only
  repeat' first
    | with_reducible assumption
    | with_reducible apply onSoc_after
    | with_reducible apply State.dropContext_after
    | with_reducible exact Within.mono ht rfl
    | with_reducible apply AfterRoute.ite
    | split
    | (with_reducible intro _)

theorem execConnectionReject_after {b T} (x0) (x1) (ht : Within 0x102002000 T) (h2 : After T b x1) :
    AfterOut T b ((@execConnectionReject x0 x1)) := by
  unfold execConnectionReject
  try dsimp only
  repeat' first
    | with_reducible assumption
    | with_reducible apply onSoc_after
    | with_reducible apply State.dropContext_after
    | with_reducible exact Within.mono ht rfl
    | with_reducible apply AfterRoute.ite
    | split
    | (with_reducible intro _)

theorem execDisconnectRequest_after {b T} (x0) (x1) (ht : Within 0x40044111082601 T) (h2 : After T b x1) :
    AfterOut T b (@execDisconnectRequest x0 x1) := by
  unfold execDisconnectRequest
  try dsimp only
  repeat' first
    | with_reducible assumption
    | with_reducible apply onSoc_after
    | with_reducible apply State.endQueuePair_after
    | with_reducible exact Within.mono ht rfl
    | exact RegIn.block ht (by decide) rfl
    | with_reducible apply AfterRoute.ite
    | split
    | (with_reducible intro _)
    | with_reducible apply AfterOut.ofNext
    | with_reducible apply AfterOpt.ofSome
    | with_reducible exact AfterOpt.ofNone
    | (with_reducible refine After.ofPair (by assumption) ?_)
    | (with_reducible refine After.ofTriple (by assumption) ?_)
    | (with_reducible refine After.ofOpt (by assumption) ?_)
    | with_reducible apply AfterSome.ofSome
    | with_reducible apply AfterRoute.ofSome
    | with_reducible exact AfterRoute.ofNone
    | with_reducible exact AfterSome.ofNone
    | with_reducible apply AfterEx.ofOk
    | with_reducible exact AfterEx.ofError
    | (with_reducible refine After.ofSealed (by assumption) ?_)
    | (with_reducible refine After.ofOkPair (by assumption) ?_)
    | (with_reducible refine After.ofOk (by assumption) ?_)
    | with_reducible apply After.fold

theorem execQueuePairDrained_after {b T} (x0) (x1) (ht : Within 0x102002200 T) (h2 : After T b x1) :
    AfterOut T b ((@execQueuePairDrained x0 x1)) := by
  unfold execQueuePairDrained
  try dsimp only
  repeat' first
    | with_reducible assumption
    | with_reducible apply onSoc_after
    | with_reducible apply State.setCtx_after
    | with_reducible apply State.onController_after
    | with_reducible apply State.dropContext_after
    | with_reducible exact Within.mono ht rfl
    | with_reducible apply AfterRoute.ite
    | split
    | (with_reducible intro _)

theorem execQpcDoorbell_after {b T} (x0) (x1) (x2) (x3) (ht : Within 0x7136591d087ecb T) (h4 : After T b x3) :
    AfterOut T b ((@execQpcDoorbell x0 x1 x2 x3)) := by
  unfold execQpcDoorbell
  try dsimp only
  repeat' first
    | with_reducible assumption
    | with_reducible apply onSoc_after
    | with_reducible apply State.commandWrite_after
    | with_reducible apply State.passPacket_after
    | with_reducible apply State.fault_after
    | with_reducible exact Within.mono ht rfl
    | exact RegIn.block ht (by decide) rfl
    | exact NotWall (by omega) (by omega)
    | with_reducible apply AfterRoute.ite
    | split
    | (with_reducible intro _)

theorem State.qpcCommand_after {b T} (x0) (x1) (x2) (x3) (x4) (ht : Within 0x613401110000ca T) (h1 : After T b x0) (h5 : ∀ y0 y1, After T b y1 → After T b (Prod.snd ((x4 y0 y1)))) :
    After T b (@State.qpcCommand x0 x1 x2 x3 x4) := by
  unfold State.qpcCommand
  try dsimp only
  repeat' first
    | with_reducible assumption
    | with_reducible apply State.commandWrite_after
    | with_reducible apply State.wr_after
    | with_reducible apply h5
    | with_reducible exact Within.mono ht rfl
    | exact RegIn.block ht (by decide) rfl
    | exact NotWall (by omega) (by omega)
    | with_reducible apply AfterRoute.ite
    | split
    | (with_reducible intro _)

theorem execQpcCreate_after {b T} (x0) (x1) (ht : Within 0x613401130020ca T) (h2 : After T b x1) :
    AfterOut T b ((@execQpcCreate x0 x1)) := by
  unfold execQpcCreate
  try dsimp only
  repeat' first
    | with_reducible assumption
    | with_reducible apply onSoc_after
    | with_reducible apply State.qpcCommand_after
    | with_reducible apply State.putContext_after
    | with_reducible exact Within.mono ht rfl
    | with_reducible apply AfterRoute.ite
    | split
    | (with_reducible intro _)

theorem execQpcRead_after {b T} (x0) (x1) (ht : Within 0x713401190040ca T) (h2 : After T b x1) :
    AfterOut T b ((@execQpcRead x0 x1)) := by
  unfold execQpcRead
  try dsimp only
  repeat' first
    | with_reducible assumption
    | with_reducible apply onSoc_after
    | with_reducible apply State.qpcCommand_after
    | with_reducible apply State.storeBytes_after
    | with_reducible exact Within.mono ht rfl
    | with_reducible apply AfterRoute.ite
    | split
    | (with_reducible intro _)

theorem execQpcDestroy_after {b T} (x0) (x1) (ht : Within 0x613441110826cb T) (h2 : After T b x1) :
    AfterOut T b (@execQpcDestroy x0 x1) := by
  unfold execQpcDestroy
  try dsimp only
  repeat' first
    | with_reducible assumption
    | with_reducible apply onSoc_after
    | with_reducible apply State.qpcCommand_after
    | with_reducible apply State.endQueuePair_after
    | with_reducible exact Within.mono ht rfl
    | exact RegIn.block ht (by decide) rfl
    | with_reducible apply AfterRoute.ite
    | split
    | (with_reducible intro _)
    | with_reducible apply AfterOut.ofNext
    | with_reducible apply AfterOpt.ofSome
    | with_reducible exact AfterOpt.ofNone
    | (with_reducible refine After.ofPair (by assumption) ?_)
    | (with_reducible refine After.ofTriple (by assumption) ?_)
    | (with_reducible refine After.ofOpt (by assumption) ?_)
    | with_reducible apply AfterSome.ofSome
    | with_reducible apply AfterRoute.ofSome
    | with_reducible exact AfterRoute.ofNone
    | with_reducible exact AfterSome.ofNone
    | with_reducible apply AfterEx.ofOk
    | with_reducible exact AfterEx.ofError
    | (with_reducible refine After.ofSealed (by assumption) ?_)
    | (with_reducible refine After.ofOkPair (by assumption) ?_)
    | (with_reducible refine After.ofOk (by assumption) ?_)
    | with_reducible apply After.fold

theorem execQpcFlush_after {b T} (x0) (x1) (ht : Within 0x713441190866cb T) (h2 : After T b x1) :
    AfterOut T b (@execQpcFlush x0 x1) := by
  unfold execQpcFlush
  try dsimp only
  repeat' first
    | with_reducible assumption
    | with_reducible apply onSoc_after
    | with_reducible apply State.qpcCommand_after
    | with_reducible apply State.queuePairError_after
    | with_reducible exact Within.mono ht rfl
    | exact RegIn.block ht (by decide) rfl
    | with_reducible apply AfterRoute.ite
    | split
    | (with_reducible intro _)
    | with_reducible apply AfterOut.ofNext
    | with_reducible apply AfterOpt.ofSome
    | with_reducible exact AfterOpt.ofNone
    | (with_reducible refine After.ofPair (by assumption) ?_)
    | (with_reducible refine After.ofTriple (by assumption) ?_)
    | (with_reducible refine After.ofOpt (by assumption) ?_)
    | with_reducible apply AfterSome.ofSome
    | with_reducible apply AfterRoute.ofSome
    | with_reducible exact AfterRoute.ofNone
    | with_reducible exact AfterSome.ofNone
    | with_reducible apply AfterEx.ofOk
    | with_reducible exact AfterEx.ofError
    | (with_reducible refine After.ofSealed (by assumption) ?_)
    | (with_reducible refine After.ofOkPair (by assumption) ?_)
    | (with_reducible refine After.ofOk (by assumption) ?_)
    | with_reducible apply After.fold

theorem execQpcPin_after {b T} (x0) (x1) (ht : Within 0x613401110020ca T) (h2 : After T b x1) :
    AfterOut T b ((@execQpcPin x0 x1)) := by
  unfold execQpcPin
  try dsimp only
  repeat' first
    | with_reducible assumption
    | with_reducible apply onSoc_after
    | with_reducible apply State.qpcCommand_after
    | with_reducible apply State.setCtx_after
    | with_reducible exact Within.mono ht rfl
    | with_reducible apply AfterRoute.ite
    | split
    | (with_reducible intro _)

theorem execQpcUnpin_after {b T} (x0) (x1) (ht : Within 0x613401110020ca T) (h2 : After T b x1) :
    AfterOut T b ((@execQpcUnpin x0 x1)) := by
  unfold execQpcUnpin
  try dsimp only
  repeat' first
    | with_reducible assumption
    | with_reducible apply onSoc_after
    | with_reducible apply State.qpcCommand_after
    | with_reducible apply State.setCtx_after
    | with_reducible exact Within.mono ht rfl
    | with_reducible apply AfterRoute.ite
    | split
    | (with_reducible intro _)

end Sys2Proof.Machine
end

