-- ==== Sys2Proof/Laws/After/Clusters.lean ====
section
/-! SUPPORT. What the operations of Clusters keep (Laws/After.lean). -/

set_option Elab.async false
set_option linter.all false

namespace Sys2Proof.Machine

theorem State.setPartition_after {b T} (x0) (x1) (x2) (ht : Within 0x4000000000000 T) (h1 : After T b x0) :
    After T b (@State.setPartition x0 x1 x2) := by
  unfold State.setPartition
  try dsimp only
  repeat' first
    | with_reducible assumption
    | with_reducible apply State.each_after
    | with_reducible apply State.wr_after
    | with_reducible exact Within.mono ht rfl
    | exact RegIn.block ht (by omega) (by with_reducible exact blockMask_clu rfl)
    | with_reducible apply AfterRoute.ite
    | split
    | (with_reducible intro _)

theorem State.startPartition_after {b T} (x0) (x1) (x2) (ht : Within 0x44000000000000 T) (h1 : After T b x0) :
    After T b (@State.startPartition x0 x1 x2) := by
  unfold State.startPartition
  try dsimp only
  repeat' first
    | with_reducible assumption
    | with_reducible apply State.wr_after
    | with_reducible apply State.loadPen_after
    | with_reducible apply State.setPartition_after
    | with_reducible apply State.each_after
    | with_reducible apply State.emits_after
    | with_reducible exact Within.mono ht rfl
    | exact RegIn.block ht (by omega) (by with_reducible exact blockMask_clu rfl)
    | with_reducible apply AfterRoute.ite
    | split
    | (with_reducible intro _)

theorem State.resetPartition_after {b T} (x0) (x1) (ht : Within 0x7ffffffb89f6c3 T) (h1 : After T b x0) :
    After T b (@State.resetPartition x0 x1) := by
  unfold State.resetPartition
  try dsimp only
  repeat' first
    | with_reducible assumption
    | with_reducible apply State.each_after
    | with_reducible apply State.emits_after
    | with_reducible apply State.resetEngineQueue_after
    | with_reducible apply State.dropContext_after
    | with_reducible apply State.queuePairError_after
    | with_reducible apply State.endMessage_after
    | with_reducible apply State.resetClusterCaches_after
    | with_reducible apply State.onRwm_after
    | with_reducible apply State.showPartitions_after
    | with_reducible apply State.wrs_after
    | with_reducible exact Within.mono ht rfl
    | exact RegIn.block ht (by decide) rfl
    | exact RegIn.block ht (by omega) (by with_reducible exact blockMask_clu rfl)
    | with_reducible apply FieldsIn.cons
    | with_reducible exact FieldsIn.nil
    | with_reducible apply After.filterRegs
    | exact RegIn.all ht rfl
    | with_reducible apply AfterRoute.ite
    | split
    | (with_reducible intro _)
    | with_reducible apply AfterOut.ofNext
    | with_reducible apply AfterOpt.ofSome
    | with_reducible exact AfterOpt.ofNone
    | (with_reducible refine After.ofPair (by assumption) ?_)
    | (with_reducible refine After.ofTriple (by assumption) ?_)
    | (with_reducible refine After.ofOpt (by assumption) ?_)
    | with_reducible apply AfterSome.ofSome
    | with_reducible apply AfterRoute.ofSome
    | with_reducible exact AfterRoute.ofNone
    | with_reducible exact AfterSome.ofNone
    | with_reducible apply AfterEx.ofOk
    | with_reducible exact AfterEx.ofError
    | (with_reducible refine After.ofSealed (by assumption) ?_)
    | (with_reducible refine After.ofOkPair (by assumption) ?_)
    | (with_reducible refine After.ofOk (by assumption) ?_)
    | with_reducible apply After.fold

theorem State.partitionResetDone_after {b T} (x0) (x1) (ht : Within 0x44000000000000 T) (h1 : After T b x0) :
    After T b (@State.partitionResetDone x0 x1) := by
  unfold State.partitionResetDone
  try dsimp only
  repeat' first
    | with_reducible assumption
    | with_reducible apply State.each_after
    | with_reducible apply State.setPartition_after
    | with_reducible apply State.wrs_after
    | with_reducible apply State.startPartition_after
    | with_reducible exact Within.mono ht rfl
    | exact RegIn.block ht (by omega) (by with_reducible exact blockMask_clu rfl)
    | with_reducible apply FieldsIn.cons
    | with_reducible exact FieldsIn.nil
    | with_reducible apply AfterRoute.ite
    | split
    | (with_reducible intro _)

theorem State.partitionCommand_after {b T} (x0) (x1) (x2) (x3) (x4) (ht : Within 0x653400110000ca T) (h1 : After T b x0) (h5 : ∀ y0 y1, After T b y1 → After T b (x4 y0 y1)) :
    After T b (@State.partitionCommand x0 x1 x2 x3 x4) := by
  unfold State.partitionCommand
  try dsimp only
  repeat' first
    | with_reducible assumption
    | with_reducible apply State.commandWrite_after
    | with_reducible apply State.wr_after
    | with_reducible apply h5
    | with_reducible exact Within.mono ht rfl
    | exact RegIn.block ht (by omega) (by with_reducible exact blockMask_clu rfl)
    | exact NotWall (by omega) (by omega)
    | with_reducible apply AfterRoute.ite
    | split
    | (with_reducible intro _)

theorem execPartitionStart_after {b T} (x0) (x1) (x2) (ht : Within 0x653400110000ca T) (h3 : After T b x2) :
    AfterOut T b ((@execPartitionStart x0 x1 x2)) := by
  unfold execPartitionStart
  try dsimp only
  repeat' first
    | with_reducible assumption
    | with_reducible apply onSoc_after
    | with_reducible apply State.partitionCommand_after
    | with_reducible apply State.startPartition_after
    | with_reducible apply State.wr_after
    | with_reducible exact Within.mono ht rfl
    | exact RegIn.block ht (by omega) (by with_reducible exact blockMask_clu rfl)
    | with_reducible apply AfterRoute.ite
    | split
    | (with_reducible intro _)

theorem execPartitionReset_after {b T} (x0) (x1) (x2) (ht : Within 0x7ffffffb89f6cb T) (h3 : After T b x2) :
    AfterOut T b ((@execPartitionReset x0 x1 x2)) := by
  unfold execPartitionReset
  try dsimp only
  repeat' first
    | with_reducible assumption
    | with_reducible apply onSoc_after
    | with_reducible apply State.partitionCommand_after
    | with_reducible apply State.resetPartition_after
    | with_reducible apply State.wr_after
    | with_reducible exact Within.mono ht rfl
    | exact RegIn.block ht (by omega) (by with_reducible exact blockMask_clu rfl)
    | exact RegIn.all ht rfl
    | with_reducible apply AfterRoute.ite
    | split
    | (with_reducible intro _)

theorem execPartitionResetComplete_after {b T} (x0) (x1) (ht : Within 0x44000000000000 T) (h2 : After T b x1) :
    AfterOut T b ((@execPartitionResetComplete x0 x1)) := by
  unfold execPartitionResetComplete
  try dsimp only
  repeat' first
    | with_reducible assumption
    | with_reducible apply onSoc_after
    | with_reducible apply State.partitionResetDone_after
    | with_reducible exact Within.mono ht rfl
    | with_reducible apply AfterRoute.ite
    | split
    | (with_reducible intro _)

theorem State.maintain_after {b T} (x0) (x1) (x2) (x3) (x4) (x5) (x6) (ht : Within 0x653400118000ca T) (h1 : After T b x0) (h7 : ∀ y0, After T b y0 → After T b (x6 y0)) :
    After T b (@State.maintain x0 x1 x2 x3 x4 x5 x6) := by
  unfold State.maintain
  try dsimp only
  repeat' first
    | with_reducible assumption
    | with_reducible apply State.commandWrite_after
    | with_reducible apply State.endMaintenance_after
    | with_reducible apply State.wr_after
    | with_reducible apply State.doom_after
    | with_reducible apply h7
    | with_reducible exact Within.mono ht rfl
    | exact RegIn.block ht (by omega) (by with_reducible exact blockMask_clu rfl)
    | exact NotWall (by omega) (by omega)
    | with_reducible apply AfterRoute.ite
    | split
    | (with_reducible intro _)

theorem execL1dClean_after {b T} (x0) (x1) (x2) (x3) (ht : Within 0x753400198040ca T) (h4 : After T b x3) :
    AfterOut T b ((@execL1dClean x0 x1 x2 x3)) := by
  unfold execL1dClean
  try dsimp only
  repeat' first
    | with_reducible assumption
    | with_reducible apply onSoc_after
    | with_reducible apply State.maintain_after
    | with_reducible apply State.cleanL1d_after
    | with_reducible exact Within.mono ht rfl
    | with_reducible apply AfterRoute.ite
    | split
    | (with_reducible intro _)

theorem execL1dCleanInvalidate_after {b T} (x0) (x1) (x2) (x3) (ht : Within 0x753400198040ca T) (h4 : After T b x3) :
    AfterOut T b ((@execL1dCleanInvalidate x0 x1 x2 x3)) := by
  unfold execL1dCleanInvalidate
  try dsimp only
  repeat' first
    | with_reducible assumption
    | with_reducible apply onSoc_after
    | with_reducible apply State.maintain_after
    | with_reducible apply State.emptyCache_after
    | with_reducible apply State.cleanL1d_after
    | with_reducible exact Within.mono ht rfl
    | with_reducible apply AfterRoute.ite
    | split
    | (with_reducible intro _)

theorem execL1iInvalidate_after {b T} (x0) (x1) (x2) (x3) (ht : Within 0x653400118000ca T) (h4 : After T b x3) :
    AfterOut T b ((@execL1iInvalidate x0 x1 x2 x3)) := by
  unfold execL1iInvalidate
  try dsimp only
  repeat' first
    | with_reducible assumption
    | with_reducible apply onSoc_after
    | with_reducible apply State.maintain_after
    | with_reducible apply State.emptyCache_after
    | with_reducible exact Within.mono ht rfl
    | with_reducible apply AfterRoute.ite
    | split
    | (with_reducible intro _)

theorem execClusterClean_after {b T} (x0) (x1) (x2) (ht : Within 0x753400198040ca T) (h3 : After T b x2) :
    AfterOut T b ((@execClusterClean x0 x1 x2)) := by
  unfold execClusterClean
  try dsimp only
  repeat' first
    | with_reducible assumption
    | with_reducible apply onSoc_after
    | with_reducible apply State.maintain_after
    | with_reducible apply State.cleanCluster_after
    | with_reducible exact Within.mono ht rfl
    | with_reducible apply AfterRoute.ite
    | split
    | (with_reducible intro _)

theorem execClusterCleanInvalidate_after {b T} (x0) (x1) (x2) (ht : Within 0x753400198040ca T) (h3 : After T b x2) :
    AfterOut T b ((@execClusterCleanInvalidate x0 x1 x2)) := by
  unfold execClusterCleanInvalidate
  try dsimp only
  repeat' first
    | with_reducible assumption
    | with_reducible apply onSoc_after
    | with_reducible apply State.maintain_after
    | with_reducible apply State.each_after
    | with_reducible apply State.cleanCluster_after
    | with_reducible apply State.emptyCache_after
    | with_reducible exact Within.mono ht rfl
    | with_reducible apply AfterRoute.ite
    | split
    | (with_reducible intro _)

theorem State.guardFault_after {b T} (x0) (x1) (x2) (ht : Within 0x603400110000c0 T) (h1 : After T b x0) :
    After T b (@State.guardFault x0 x1 x2) := by
  unfold State.guardFault
  try dsimp only
  repeat' first
    | with_reducible assumption
    | with_reducible apply State.emit_after
    | with_reducible apply State.coreEvent_after
    | with_reducible apply State.fault_after
    | with_reducible exact Within.mono ht rfl

theorem State.uncachedAccess_after {b T} (x0) (x1) (x2) (ht : Within 0x10000008804000 T) (h1 : After T b x0) :
    After T b (@State.uncachedAccess x0 x1 x2) := by
  unfold State.uncachedAccess
  try dsimp only
  repeat' first
    | with_reducible assumption
    | with_reducible apply State.emit_after
    | with_reducible apply State.storeBytes_after
    | with_reducible apply State.dropLine_after
    | with_reducible apply State.cleanLine_after
    | with_reducible exact Within.mono ht rfl
    | with_reducible apply AfterRoute.ite
    | split

theorem execCacheFillReturn_after {b T} (x0) (x1) (x2) (ht : Within 0x14000018804000 T) (h3 : After T b x2) :
    AfterOut T b ((@execCacheFillReturn x0 x1 x2)) := by
  unfold execCacheFillReturn
  try dsimp only
  repeat' first
    | with_reducible assumption
    | with_reducible apply onSoc_after
    | with_reducible apply State.fillReturns_after
    | with_reducible exact Within.mono ht rfl
    | with_reducible apply AfterRoute.ite
    | split
    | (with_reducible intro _)

theorem execVictimWritebackAck_after {b T} (x0) (x1) (x2) (ht : Within 0x14000018804000 T) (h3 : After T b x2) :
    AfterOut T b ((@execVictimWritebackAck x0 x1 x2)) := by
  unfold execVictimWritebackAck
  try dsimp only
  repeat' first
    | with_reducible assumption
    | with_reducible apply onSoc_after
    | with_reducible apply State.victimAcked_after
    | with_reducible exact Within.mono ht rfl
    | with_reducible apply AfterRoute.ite
    | split
    | (with_reducible intro _)

theorem execCboOperation_after {b T} (x0) (x1) (x2) (x3) (ht : Within 0x743400198040c0 T) (h4 : After T b x3) :
    AfterOut T b ((@execCboOperation x0 x1 x2 x3)) := by
  unfold execCboOperation
  try dsimp only
  repeat' first
    | with_reducible assumption
    | with_reducible apply onSoc_after
    | with_reducible apply State.guardFault_after
    | with_reducible apply State.emit_after
    | with_reducible apply State.cbo_after
    | with_reducible exact Within.mono ht rfl
    | with_reducible apply AfterRoute.ite
    | split
    | (with_reducible intro _)

end Sys2Proof.Machine
end

