-- ==== Sys2Proof/Laws/After/TwoStep.lean ====
section
/-! SUPPORT. What the operations of TwoStep keep (Laws/After.lean). -/

set_option Elab.async false
set_option linter.all false

namespace Sys2Proof.Machine

theorem State.onProposal_after {b T} (x0) (x1) (x2) (ht : Within 0x100000 T) (h1 : After T b x0) :
    After T b (@State.onProposal x0 x1 x2) := by
  unfold State.onProposal
  try dsimp only
  repeat' first
    | with_reducible assumption
    | with_reducible apply State.onTwo_after

theorem State.showProposals_after {b T} (x0) (ht : Within 0x400000000000 T) (h1 : After T b x0) :
    After T b (@State.showProposals x0) := by
  unfold State.showProposals
  try dsimp only
  repeat' first
    | with_reducible assumption
    | with_reducible apply State.setWords_after
    | with_reducible apply State.showSetup_after
    | with_reducible exact Within.mono ht rfl
    | exact RegIn.block ht (by decide) rfl
    | exact RegIn.word (by omega) ht (by omega) rfl
    | with_reducible apply AfterRoute.ite
    | split
    | (with_reducible intro _)

theorem State.putProposal_after {b T} (x0) (x1) (ht : Within 0x100000 T) (h1 : After T b x0) :
    After T b (@State.putProposal x0 x1) := by
  unfold State.putProposal
  try dsimp only
  repeat' first
    | with_reducible assumption
    | with_reducible apply State.onTwo_after

theorem State.propose_after {b T} (x0) (x1) (x2) (x3) (x4) (x5) (ht : Within 0x40740011100080 T) (h1 : After T b x0) :
    AfterEx T b (fun v => v.2) (@State.propose x0 x1 x2 x3 x4 x5) := by
  unfold State.propose
  try dsimp only
  repeat' first
    | with_reducible assumption
    | with_reducible apply State.putProposal_after
    | with_reducible apply State.onTwo_after
    | with_reducible apply State.emit_after
    | with_reducible apply State.showProposals_after
    | with_reducible apply State.notify_after
    | with_reducible exact Within.mono ht rfl
    | exact RegIn.block ht (by decide) rfl
    | with_reducible apply AfterRoute.ite
    | split
    | (with_reducible intro _)
    | with_reducible apply AfterOut.ofNext
    | with_reducible apply AfterOpt.ofSome
    | with_reducible exact AfterOpt.ofNone
    | (with_reducible refine After.ofPair (by assumption) ?_)
    | (with_reducible refine After.ofTriple (by assumption) ?_)
    | (with_reducible refine After.ofOpt (by assumption) ?_)
    | with_reducible apply AfterSome.ofSome
    | with_reducible apply AfterRoute.ofSome
    | with_reducible exact AfterRoute.ofNone
    | with_reducible exact AfterSome.ofNone
    | with_reducible apply AfterEx.ofOk
    | with_reducible exact AfterEx.ofError
    | (with_reducible refine After.ofSealed (by assumption) ?_)
    | (with_reducible refine After.ofOkPair (by assumption) ?_)
    | (with_reducible refine After.ofOk (by assumption) ?_)
    | with_reducible apply After.fold

theorem State.arm_after {b T} (x0) (x1) (ht : Within 0x400000100000 T) (h1 : After T b x0) :
    AfterEx T b (fun v => v.2) ((@State.arm x0 x1)) := by
  unfold State.arm
  try dsimp only
  repeat' first
    | with_reducible assumption
    | with_reducible apply State.onProposal_after
    | with_reducible apply State.emit_after
    | with_reducible apply State.showProposals_after
    | with_reducible exact Within.mono ht rfl
    | with_reducible apply AfterRoute.ite
    | split
    | (with_reducible intro _)
    | with_reducible apply AfterOut.ofNext
    | with_reducible apply AfterOpt.ofSome
    | with_reducible exact AfterOpt.ofNone
    | (with_reducible refine After.ofPair (by assumption) ?_)
    | (with_reducible refine After.ofTriple (by assumption) ?_)
    | (with_reducible refine After.ofOpt (by assumption) ?_)
    | with_reducible apply AfterSome.ofSome
    | with_reducible apply AfterRoute.ofSome
    | with_reducible exact AfterRoute.ofNone
    | with_reducible exact AfterSome.ofNone
    | with_reducible apply AfterEx.ofOk
    | with_reducible exact AfterEx.ofError

theorem State.missProposal_after {b T} (x0) (x1) (x2) (ht : Within 0x607400911000c0 T) (h1 : After T b x0) :
    After T b (@State.missProposal x0 x1 x2) := by
  unfold State.missProposal
  try dsimp only
  repeat' first
    | with_reducible assumption
    | with_reducible apply State.wr_after
    | with_reducible apply State.onProposal_after
    | with_reducible apply State.showProposals_after
    | with_reducible apply State.missedTarget_after
    | with_reducible exact Within.mono ht rfl
    | exact RegIn.block ht (by decide) rfl
    | with_reducible apply AfterRoute.ite
    | split

theorem State.confirm_after_error {b T} (x0 : State) (x1) (x2) (x3) (x4) (ht : Within 0x607400911000c0 T) (h1 : After T b x0) {st d t}
    (e : State.confirm x0 x1 x2 x3 x4 = .error (st, d, t)) : After T b t := by
  unfold State.confirm at e
  split at e
  · injection e with e; cases e; exact h1
  iterate 4
    split at e
    · injection e with e; cases e; exact h1
  dsimp only at e
  split at e
  · cases e
  split at e
  · cases e
  · injection e with e
    cases e
    exact State.missProposal_after _ _ _ (ht.mono rfl) (State.onProposal_after _ _ _ (ht.mono rfl) h1)

theorem State.confirm_after {b T} (x0) (x1) (x2) (x3) (x4) (ht : Within 0x607400911000c0 T) (h1 : After T b x0) :
    AfterEx T b (fun v => v.2) (@State.confirm x0 x1 x2 x3 x4) := by
  unfold State.confirm
  try dsimp only
  repeat' first
    | with_reducible assumption
    | with_reducible apply State.onProposal_after
    | with_reducible apply State.showProposals_after
    | with_reducible apply State.arm_after
    | with_reducible apply State.missProposal_after
    | with_reducible exact Within.mono ht rfl
    | exact RegIn.block ht (by decide) rfl
    | with_reducible apply AfterRoute.ite
    | split
    | (with_reducible intro _)
    | with_reducible apply AfterOut.ofNext
    | with_reducible apply AfterOpt.ofSome
    | with_reducible exact AfterOpt.ofNone
    | (with_reducible refine After.ofPair (by assumption) ?_)
    | (with_reducible refine After.ofTriple (by assumption) ?_)
    | (with_reducible refine After.ofOpt (by assumption) ?_)
    | with_reducible apply AfterSome.ofSome
    | with_reducible apply AfterRoute.ofSome
    | with_reducible exact AfterRoute.ofNone
    | with_reducible exact AfterSome.ofNone
    | with_reducible apply AfterEx.ofOk
    | with_reducible exact AfterEx.ofError
    | (with_reducible refine After.ofSealed (by assumption) ?_)
    | (with_reducible refine After.ofOkPair (by assumption) ?_)
    | (with_reducible refine After.ofOk (by assumption) ?_)
    | with_reducible apply After.fold

theorem State.withdraw_after {b T} (x0) (x1) (ht : Within 0x400000100000 T) (h1 : After T b x0) : AfterEx T b (fun v => v) (@State.withdraw x0 x1) := by
  unfold State.withdraw
  try dsimp only
  repeat' first
    | with_reducible assumption
    | with_reducible apply State.showProposals_after
    | with_reducible apply State.onProposal_after
    | split
    | with_reducible apply AfterEx.ofOk
    | with_reducible exact AfterEx.ofError
    | with_reducible exact Within.mono ht rfl

theorem State.putObject_after {b T} (x0) (x1) (x2) (x3) (ht : Within 0x100000 T) (h1 : After T b x0) :
    After T b (@State.putObject x0 x1 x2 x3) := by
  unfold State.putObject
  try dsimp only
  repeat' first
    | with_reducible assumption
    | with_reducible apply State.onTwo_after

theorem State.principalChanged_after {b T} (x0) (x1) (x2) (ht : Within 0x300000008080 T) (h1 : After T b x0) :
    After T b (@State.principalChanged x0 x1 x2) := by
  unfold State.principalChanged
  try dsimp only
  repeat' first
    | with_reducible assumption
    | with_reducible apply State.each_after
    | with_reducible apply State.endSession_after
    | with_reducible exact Within.mono ht rfl
    | with_reducible apply AfterRoute.ite
    | split
    | (with_reducible intro _)

theorem State.hostEntryChanged_after {b T} (x0) (ht : Within 0x40044111082601 T) (h1 : After T b x0) :
    After T b (@State.hostEntryChanged x0) := by
  unfold State.hostEntryChanged
  try dsimp only
  repeat' first
    | with_reducible assumption
    | with_reducible apply State.each_after
    | with_reducible apply State.resetController_after
    | with_reducible exact Within.mono ht rfl
    | with_reducible apply AfterRoute.ite
    | split
    | (with_reducible intro _)

theorem State.maskChanged_after {b T} (x0) (x1) (ht : Within 0x40040111002201 T) (h1 : After T b x0) :
    After T b (@State.maskChanged x0 x1) := by
  unfold State.maskChanged
  try dsimp only
  repeat' first
    | with_reducible assumption
    | with_reducible apply State.onNamespace_after
    | with_reducible apply State.each_after
    | with_reducible apply State.namespaceChanged_after
    | with_reducible exact Within.mono ht rfl
    | exact RegIn.block ht (by decide) rfl
    | with_reducible apply AfterRoute.ite
    | split
    | (with_reducible intro _)
    | with_reducible apply AfterOut.ofNext
    | with_reducible apply AfterOpt.ofSome
    | with_reducible exact AfterOpt.ofNone
    | (with_reducible refine After.ofPair (by assumption) ?_)
    | (with_reducible refine After.ofTriple (by assumption) ?_)
    | (with_reducible refine After.ofOpt (by assumption) ?_)
    | with_reducible apply AfterSome.ofSome
    | with_reducible apply AfterRoute.ofSome
    | with_reducible exact AfterRoute.ofNone
    | with_reducible exact AfterSome.ofNone
    | with_reducible apply AfterEx.ofOk
    | with_reducible exact AfterEx.ofError
    | (with_reducible refine After.ofSealed (by assumption) ?_)
    | (with_reducible refine After.ofOkPair (by assumption) ?_)
    | (with_reducible refine After.ofOk (by assumption) ?_)
    | with_reducible apply After.fold

theorem State.resetBeforeLoss_after {b T} (x0) (x1) (x2) (x3) (ht : Within 0x7ffffffb89f6c3 T) (h1 : After T b x0) :
    After T b (@State.resetBeforeLoss x0 x1 x2 x3) := by
  unfold State.resetBeforeLoss
  try dsimp only
  repeat' first
    | with_reducible assumption
    | with_reducible apply State.each_after
    | with_reducible apply State.resetEngineQueue_after
    | with_reducible apply State.resetPartition_after
    | with_reducible apply State.wrs_after
    | with_reducible exact Within.mono ht rfl
    | exact RegIn.block ht (by decide) rfl
    | exact RegIn.block ht (by omega) (by with_reducible exact blockMask_clu rfl)
    | with_reducible apply FieldsIn.cons
    | with_reducible exact FieldsIn.nil
    | with_reducible apply AfterRoute.ite
    | split
    | (with_reducible intro _)
    | with_reducible apply AfterOut.ofNext
    | with_reducible apply AfterOpt.ofSome
    | with_reducible exact AfterOpt.ofNone
    | (with_reducible refine After.ofPair (by assumption) ?_)
    | (with_reducible refine After.ofTriple (by assumption) ?_)
    | (with_reducible refine After.ofOpt (by assumption) ?_)
    | with_reducible apply AfterSome.ofSome
    | with_reducible apply AfterRoute.ofSome
    | with_reducible exact AfterRoute.ofNone
    | with_reducible exact AfterSome.ofNone
    | with_reducible apply AfterEx.ofOk
    | with_reducible exact AfterEx.ofError
    | (with_reducible refine After.ofSealed (by assumption) ?_)
    | (with_reducible refine After.ofOkPair (by assumption) ?_)
    | (with_reducible refine After.ofOk (by assumption) ?_)
    | with_reducible apply After.fold

theorem State.permissionsChanged_after {b T} (x0) (x1) (x2) (ht : Within 0x44408000000000 T) (h1 : After T b x0) :
    After T b (@State.permissionsChanged x0 x1 x2) := by
  unfold State.permissionsChanged
  try dsimp only
  repeat' first
    | with_reducible assumption
    | with_reducible apply State.each_after
    | with_reducible apply State.wr_after
    | with_reducible apply State.showPartitions_after
    | with_reducible apply State.loadPen_after
    | with_reducible apply State.showPermissions_after
    | with_reducible exact Within.mono ht rfl
    | exact RegIn.block ht (by decide) rfl
    | with_reducible apply AfterRoute.ite
    | split
    | (with_reducible intro _)
    | with_reducible apply AfterOut.ofNext
    | with_reducible apply AfterOpt.ofSome
    | with_reducible exact AfterOpt.ofNone
    | (with_reducible refine After.ofPair (by assumption) ?_)
    | (with_reducible refine After.ofTriple (by assumption) ?_)
    | (with_reducible refine After.ofOpt (by assumption) ?_)
    | with_reducible apply AfterSome.ofSome
    | with_reducible apply AfterRoute.ofSome
    | with_reducible exact AfterRoute.ofNone
    | with_reducible exact AfterSome.ofNone
    | with_reducible apply AfterEx.ofOk
    | with_reducible exact AfterEx.ofError
    | (with_reducible refine After.ofSealed (by assumption) ?_)
    | (with_reducible refine After.ofOkPair (by assumption) ?_)
    | (with_reducible refine After.ofOk (by assumption) ?_)
    | with_reducible apply After.fold

theorem State.applyBody_after {b T} (x0) (x1) (x2) (ht : Within 0x7ffffffb99f6c3 T) (h1 : After T b x0) :
    After T b (@State.applyBody x0 x1 x2) := by
  unfold State.applyBody
  try dsimp only
  repeat' first
    | with_reducible assumption
    | with_reducible apply State.putObject_after
    | with_reducible apply State.principalChanged_after
    | with_reducible apply State.each_after
    | with_reducible apply State.onTwo_after
    | with_reducible apply State.keyDerivePair_after
    | with_reducible apply State.onKeys_after
    | with_reducible apply State.when_after
    | with_reducible apply State.resetBeforeLoss_after
    | with_reducible apply State.hostEntryChanged_after
    | with_reducible apply State.maskChanged_after
    | with_reducible apply State.permissionsChanged_after
    | with_reducible apply State.zeroiseSlot_after
    | with_reducible apply State.wr_after
    | with_reducible exact Within.mono ht rfl
    | exact RegIn.block ht (by decide) rfl
    | with_reducible apply AfterRoute.ite
    | split
    | (with_reducible intro _)
    | with_reducible apply AfterOut.ofNext
    | with_reducible apply AfterOpt.ofSome
    | with_reducible exact AfterOpt.ofNone
    | (with_reducible refine After.ofPair (by assumption) ?_)
    | (with_reducible refine After.ofTriple (by assumption) ?_)
    | (with_reducible refine After.ofOpt (by assumption) ?_)
    | with_reducible apply AfterSome.ofSome
    | with_reducible apply AfterRoute.ofSome
    | with_reducible exact AfterRoute.ofNone
    | with_reducible exact AfterSome.ofNone
    | with_reducible apply AfterEx.ofOk
    | with_reducible exact AfterEx.ofError
    | (with_reducible refine After.ofSealed (by assumption) ?_)
    | (with_reducible refine After.ofOkPair (by assumption) ?_)
    | (with_reducible refine After.ofOk (by assumption) ?_)
    | with_reducible apply After.fold

theorem State.staleOthers_after {b T} (x0) (x1) (x2) (x3) (x4) (ht : Within 0x100000 T) (h1 : After T b x0) :
    After T b (@State.staleOthers x0 x1 x2 x3 x4) := by
  unfold State.staleOthers
  try dsimp only
  repeat' first
    | with_reducible assumption
    | with_reducible apply State.onTwo_after

theorem State.logCommit_after {b T} (x0) (x1) (ht : Within 0x400000100000 T) (h1 : After T b x0) :
    After T b (@State.logCommit x0 x1) := by
  unfold State.logCommit
  try dsimp only
  repeat' first
    | with_reducible assumption
    | with_reducible apply State.onTwo_after
    | with_reducible apply State.wr_after
    | with_reducible exact Within.mono ht rfl
    | exact RegIn.block ht (by decide) rfl
    | with_reducible apply AfterRoute.ite
    | split

theorem State.applyProposal_after {b T} (x0) (x1) (x2) (ht : Within 0x7ffffffb99f6c3 T) (h1 : After T b x0) :
    After T b (@State.applyProposal x0 x1 x2) := by
  unfold State.applyProposal
  try dsimp only
  repeat' first
    | with_reducible assumption
    | with_reducible apply State.applyBody_after
    | with_reducible apply State.onProposal_after
    | with_reducible apply State.logCommit_after
    | with_reducible apply State.staleOthers_after
    | with_reducible exact Within.mono ht rfl

theorem State.agreeAtBoundary_after {b T} (x0) (x1) (ht : Within 0x7ffffffb99f6c3 T) (h1 : After T b x0) :
    After T b (@State.agreeAtBoundary x0 x1) := by
  unfold State.agreeAtBoundary
  try dsimp only
  repeat' first
    | with_reducible assumption
    | with_reducible apply State.onTwo_after
    | with_reducible apply State.each_after
    | with_reducible apply State.logCommit_after
    | with_reducible apply State.staleOthers_after
    | with_reducible apply State.applyBody_after
    | with_reducible apply State.principalChanged_after
    | with_reducible apply State.hostEntryChanged_after
    | with_reducible apply State.maskChanged_after
    | with_reducible apply State.wr_after
    | with_reducible exact Within.mono ht rfl
    | exact RegIn.block ht (by decide) rfl
    | exact RegIn.all ht rfl
    | with_reducible apply AfterRoute.ite
    | split
    | (with_reducible intro _)

theorem State.commitAtBoundary_after {b T} (x0) (x1) (ht : Within 0x7ffffffb99f6c3 T) (h1 : After T b x0) :
    After T b (@State.commitAtBoundary x0 x1) := by
  unfold State.commitAtBoundary
  try dsimp only
  repeat' first
    | with_reducible assumption
    | with_reducible apply State.showProposals_after
    | with_reducible apply State.agreeAtBoundary_after
    | with_reducible apply State.each_after
    | with_reducible apply State.applyProposal_after
    | with_reducible exact Within.mono ht rfl
    | with_reducible apply AfterRoute.ite
    | split
    | (with_reducible intro _)

theorem State.takeProposal_after {b T} (x0) (x1) (ht : Within 0x40740011100080 T) (h1 : After T b x0) :
    After T b (@State.takeProposal x0 x1) := by
  unfold State.takeProposal
  try dsimp only
  repeat' first
    | with_reducible assumption
    | with_reducible apply State.showProposals_after
    | with_reducible apply State.notify_after
    | with_reducible apply State.putProposal_after
    | with_reducible exact Within.mono ht rfl
    | exact RegIn.block ht (by decide) rfl
    | with_reducible apply AfterRoute.ite
    | split
    | (with_reducible intro _)
    | with_reducible apply AfterOut.ofNext
    | with_reducible apply AfterOpt.ofSome
    | with_reducible exact AfterOpt.ofNone
    | (with_reducible refine After.ofPair (by assumption) ?_)
    | (with_reducible refine After.ofTriple (by assumption) ?_)
    | (with_reducible refine After.ofOpt (by assumption) ?_)
    | with_reducible apply AfterSome.ofSome
    | with_reducible apply AfterRoute.ofSome
    | with_reducible exact AfterRoute.ofNone
    | with_reducible exact AfterSome.ofNone
    | with_reducible apply AfterEx.ofOk
    | with_reducible exact AfterEx.ofError
    | (with_reducible refine After.ofSealed (by assumption) ?_)
    | (with_reducible refine After.ofOkPair (by assumption) ?_)
    | (with_reducible refine After.ofOk (by assumption) ?_)
    | with_reducible apply After.fold

theorem State.takeArm_after {b T} (x0) (x1) (ht : Within 0x607400911000c0 T) (h1 : After T b x0) :
    After T b (@State.takeArm x0 x1) := by
  unfold State.takeArm
  try dsimp only
  repeat' first
    | with_reducible assumption
    | with_reducible apply State.missProposal_after
    | with_reducible apply State.showProposals_after
    | with_reducible apply State.onProposal_after
    | with_reducible exact Within.mono ht rfl
    | with_reducible apply AfterRoute.ite
    | split

theorem State.takeShared_after {b T} (x0) (x1) (ht : Within 0x607400911000c0 T) (h1 : After T b x0) :
    After T b (@State.takeShared x0 x1) := by
  unfold State.takeShared
  try dsimp only
  repeat' first
    | with_reducible assumption
    | with_reducible apply State.takeArm_after
    | with_reducible apply State.takeProposal_after
    | with_reducible exact Within.mono ht rfl
    | with_reducible apply AfterRoute.ite
    | split

theorem State.rwtProposal_after {b T} (x0) (x1) (x2) (ht : Within 0x40740011100080 T) (h1 : After T b x0) :
    After T b (@State.rwtProposal x0 x1 x2) := by
  unfold State.rwtProposal
  try dsimp only
  repeat' first
    | with_reducible assumption
    | with_reducible apply State.propose_after
    | with_reducible exact Within.mono ht rfl
    | with_reducible apply AfterRoute.ite
    | split
    | (with_reducible intro _)
    | with_reducible apply AfterOut.ofNext
    | with_reducible apply AfterOpt.ofSome
    | with_reducible exact AfterOpt.ofNone
    | (with_reducible refine After.ofPair (by assumption) ?_)
    | (with_reducible refine After.ofTriple (by assumption) ?_)
    | (with_reducible refine After.ofOpt (by assumption) ?_)
    | with_reducible apply AfterSome.ofSome
    | with_reducible apply AfterRoute.ofSome
    | with_reducible exact AfterRoute.ofNone
    | with_reducible exact AfterSome.ofNone
    | with_reducible apply AfterEx.ofOk
    | with_reducible exact AfterEx.ofError
    | (with_reducible refine After.ofSealed (by assumption) ?_)
    | (with_reducible refine After.ofOkPair (by assumption) ?_)

theorem execProposalExpiry_after {b T} (x0) (x1) (ht : Within 0x400000100000 T) (h2 : After T b x1) :
    AfterOut T b ((@execProposalExpiry x0 x1)) := by
  unfold execProposalExpiry
  try dsimp only
  repeat' first
    | with_reducible assumption
    | with_reducible apply onSoc_after
    | with_reducible apply State.showProposals_after
    | with_reducible apply State.onProposal_after
    | with_reducible exact Within.mono ht rfl
    | with_reducible apply AfterRoute.ite
    | split
    | (with_reducible intro _)

theorem execSetupDigestExchange_after {b T} (x0) (x1) (x2) (x3) (x4) (ht : Within 0x607400911000c0 T) (h5 : After T b x4) :
    AfterOut T b ((@execSetupDigestExchange x0 x1 x2 x3 x4)) := by
  unfold execSetupDigestExchange
  try dsimp only
  repeat' first
    | with_reducible assumption
    | with_reducible apply onSoc_after
    | with_reducible apply State.each_after
    | with_reducible apply State.takeShared_after
    | with_reducible apply State.onTwo_after
    | with_reducible apply State.wr_after
    | with_reducible apply State.flagFault_after
    | with_reducible exact Within.mono ht rfl
    | exact RegIn.block ht (by decide) rfl
    | with_reducible apply AfterRoute.ite
    | split
    | (with_reducible intro _)

end Sys2Proof.Machine
end

