-- ==== Sys2Proof/Laws/After/Coordination.lean ====
section
/-! SUPPORT. What the operations of Coordination keep (Laws/After.lean). -/

set_option Elab.async false
set_option linter.all false

namespace Sys2Proof.Machine

theorem State.coordination_after {b T} (x0) (x1) (ht : Within 0x6077c99130b6c1 T) (h1 : After T b x0) :
    After T b (@State.coordination x0 x1) := by
  unfold State.coordination
  try dsimp only
  repeat' first
    | with_reducible assumption
    | with_reducible apply State.showPairing_after
    | with_reducible apply State.healthArrived_after
    | with_reducible apply State.onLink_after
    | with_reducible apply State.onToken_after
    | with_reducible apply State.takeProposal_after
    | with_reducible apply State.takeArm_after
    | with_reducible apply State.keepBlob_after
    | with_reducible apply State.zeroiseSlot_after
    | with_reducible apply State.destroyOldKeks_after
    | with_reducible apply State.each_after
    | with_reducible apply State.startHandOver_after
    | with_reducible exact Within.mono ht rfl
    | exact RegIn.block ht (by decide) rfl
    | with_reducible apply AfterRoute.ite
    | split
    | (with_reducible intro _)
    | with_reducible apply AfterOut.ofNext
    | with_reducible apply AfterOpt.ofSome
    | with_reducible exact AfterOpt.ofNone
    | (with_reducible refine After.ofPair (by assumption) ?_)
    | (with_reducible refine After.ofTriple (by assumption) ?_)
    | (with_reducible refine After.ofOpt (by assumption) ?_)
    | with_reducible apply AfterSome.ofSome
    | with_reducible apply AfterRoute.ofSome
    | with_reducible exact AfterRoute.ofNone
    | with_reducible exact AfterSome.ofNone
    | with_reducible apply AfterEx.ofOk
    | with_reducible exact AfterEx.ofError
    | (with_reducible refine After.ofSealed (by assumption) ?_)
    | (with_reducible refine After.ofOkPair (by assumption) ?_)
    | (with_reducible refine After.ofOk (by assumption) ?_)
    | with_reducible apply After.fold

theorem State.setPolicy_after {b T} (x0) (x1) (ht : Within 0x200 T) (h1 : After T b x0) :
    After T b (Prod.snd (Prod.snd (@State.setPolicy x0 x1))) := by
  unfold State.setPolicy
  try dsimp only
  repeat' first
    | with_reducible assumption
    | with_reducible apply State.onHost_after
    | with_reducible exact Within.mono ht rfl
    | exact RegIn.block ht (by decide) rfl
    | with_reducible apply AfterRoute.ite
    | split
    | (with_reducible intro _)
    | with_reducible apply AfterOut.ofNext
    | with_reducible apply AfterOpt.ofSome
    | with_reducible exact AfterOpt.ofNone
    | (with_reducible refine After.ofPair (by assumption) ?_)
    | (with_reducible refine After.ofTriple (by assumption) ?_)
    | (with_reducible refine After.ofOpt (by assumption) ?_)
    | with_reducible apply AfterSome.ofSome
    | with_reducible apply AfterRoute.ofSome
    | with_reducible exact AfterRoute.ofNone
    | with_reducible exact AfterSome.ofNone
    | with_reducible apply AfterEx.ofOk
    | with_reducible exact AfterEx.ofError
    | (with_reducible refine After.ofSealed (by assumption) ?_)
    | (with_reducible refine After.ofOkPair (by assumption) ?_)
    | (with_reducible refine After.ofOk (by assumption) ?_)
    | with_reducible apply After.fold

theorem State.policyMessage_after {b T} (x0) (x1) (ht : Within 0x40340011000280 T) (h1 : After T b x0) :
    After T b (@State.policyMessage x0 x1) := by
  unfold State.policyMessage
  try dsimp only
  repeat' first
    | with_reducible assumption
    | with_reducible apply State.setPolicy_after
    | with_reducible apply State.emit_after
    | with_reducible apply State.reply_after
    | with_reducible exact Within.mono ht rfl
    | exact RegIn.block ht (by decide) rfl
    | with_reducible apply AfterRoute.ite
    | split
    | (with_reducible intro _)
    | with_reducible apply AfterOut.ofNext
    | with_reducible apply AfterOpt.ofSome
    | with_reducible exact AfterOpt.ofNone
    | (with_reducible refine After.ofPair (by assumption) ?_)
    | (with_reducible refine After.ofTriple (by assumption) ?_)
    | (with_reducible refine After.ofOpt (by assumption) ?_)
    | with_reducible apply AfterSome.ofSome
    | with_reducible apply AfterRoute.ofSome
    | with_reducible exact AfterRoute.ofNone
    | with_reducible exact AfterSome.ofNone
    | with_reducible apply AfterEx.ofOk
    | with_reducible exact AfterEx.ofError
    | (with_reducible refine After.ofSealed (by assumption) ?_)
    | (with_reducible refine After.ofOkPair (by assumption) ?_)
    | (with_reducible refine After.ofOk (by assumption) ?_)
    | with_reducible apply After.fold

theorem execMessageReceived_after {b T} (x0) (x1) (x2) (ht : Within 0x7077cb9930f6c1 T) (h3 : After T b x2) :
    AfterOut T b (@execMessageReceived x0 x1 x2) := by
  unfold execMessageReceived
  try dsimp only
  repeat' first
    | with_reducible assumption
    | with_reducible apply onSoc_after
    | with_reducible apply State.receive_after
    | with_reducible apply State.coordination_after
    | with_reducible apply State.policyMessage_after
    | with_reducible apply State.onChannel_after
    | with_reducible apply State.storeBytes_after
    | with_reducible exact Within.mono ht rfl
    | exact RegIn.block ht (by decide) rfl
    | with_reducible apply AfterRoute.ite
    | split
    | (with_reducible intro _)
    | with_reducible apply AfterOut.ofNext
    | with_reducible apply AfterOpt.ofSome
    | with_reducible exact AfterOpt.ofNone
    | (with_reducible refine After.ofPair (by assumption) ?_)
    | (with_reducible refine After.ofTriple (by assumption) ?_)
    | (with_reducible refine After.ofOpt (by assumption) ?_)
    | with_reducible apply AfterSome.ofSome
    | with_reducible apply AfterRoute.ofSome
    | with_reducible exact AfterRoute.ofNone
    | with_reducible exact AfterSome.ofNone
    | with_reducible apply AfterEx.ofOk
    | with_reducible exact AfterEx.ofError
    | (with_reducible refine After.ofSealed (by assumption) ?_)
    | (with_reducible refine After.ofOkPair (by assumption) ?_)
    | (with_reducible refine After.ofOk (by assumption) ?_)
    | with_reducible apply After.fold

end Sys2Proof.Machine
end

