-- ==== Sys2Proof/Laws/After/Promenade.lean ====
section
/-! SUPPORT. What the operations of Promenade keep (Laws/After.lean). -/

set_option Elab.async false
set_option linter.all false

namespace Sys2Proof.Machine

theorem State.promenadeStart_after {b T} (x0) (x1) (ht : Within 0x1000000400 T) (h1 : After T b x0) :
    After T b (@State.promenadeStart x0 x1) := by
  unfold State.promenadeStart
  try dsimp only
  repeat' first
    | with_reducible assumption
    | with_reducible apply State.wr_after
    | with_reducible apply State.wrs_after
    | with_reducible apply State.onStore_after
    | with_reducible exact Within.mono ht rfl
    | exact RegIn.block ht (by decide) rfl
    | with_reducible apply FieldsIn.cons
    | with_reducible exact FieldsIn.nil
    | with_reducible apply AfterRoute.ite
    | split

theorem execPromenadeStart_after {b T} (x0) (x1) (x2) (ht : Within 0x613410110004ca T) (h3 : After T b x2) :
    AfterOut T b ((@execPromenadeStart x0 x1 x2)) := by
  unfold execPromenadeStart
  try dsimp only
  repeat' first
    | with_reducible assumption
    | with_reducible apply onSoc_after
    | with_reducible apply State.commandWrite_after
    | with_reducible apply State.promenadeStart_after
    | with_reducible exact Within.mono ht rfl
    | exact RegIn.block ht (by decide) rfl
    | exact NotWall (by omega) (by omega)
    | with_reducible apply AfterRoute.ite
    | split
    | (with_reducible intro _)

theorem State.armLayoutEpoch_after {b T} (x0) (x1) (x2) (ht : Within 0x400 T) (h1 : After T b x0) :
    After T b (@State.armLayoutEpoch x0 x1 x2) := by
  unfold State.armLayoutEpoch
  try dsimp only
  repeat' first
    | with_reducible assumption
    | with_reducible apply State.onStore_after

theorem State.setCreate_after {b T} (x0) (x1) (ht : Within 0x1000000400 T) (h1 : After T b x0) :
    After T b (@State.setCreate x0 x1) := by
  unfold State.setCreate
  try dsimp only
  repeat' first
    | with_reducible assumption
    | with_reducible apply State.wr_after
    | with_reducible apply State.armLayoutEpoch_after
    | with_reducible exact Within.mono ht rfl
    | exact RegIn.block ht (by decide) rfl
    | with_reducible apply AfterRoute.ite
    | split

theorem execSetCreate_after {b T} (x0) (x1) (x2) (ht : Within 0x613410110004ca T) (h3 : After T b x2) :
    AfterOut T b ((@execSetCreate x0 x1 x2)) := by
  unfold execSetCreate
  try dsimp only
  repeat' first
    | with_reducible assumption
    | with_reducible apply onSoc_after
    | with_reducible apply State.commandWrite_after
    | with_reducible apply State.setCreate_after
    | with_reducible exact Within.mono ht rfl
    | exact RegIn.block ht (by decide) rfl
    | exact NotWall (by omega) (by omega)
    | with_reducible apply AfterRoute.ite
    | split
    | (with_reducible intro _)

theorem State.setDelete_after {b T} (x0) (x1) (ht : Within 0x1000000400 T) (h1 : After T b x0) :
    After T b (@State.setDelete x0 x1) := by
  unfold State.setDelete
  try dsimp only
  repeat' first
    | with_reducible assumption
    | with_reducible apply State.wr_after
    | with_reducible apply State.armLayoutEpoch_after
    | with_reducible exact Within.mono ht rfl
    | exact RegIn.block ht (by decide) rfl
    | with_reducible apply AfterRoute.ite
    | split

theorem execSetDelete_after {b T} (x0) (x1) (x2) (ht : Within 0x613410110004ca T) (h3 : After T b x2) :
    AfterOut T b ((@execSetDelete x0 x1 x2)) := by
  unfold execSetDelete
  try dsimp only
  repeat' first
    | with_reducible assumption
    | with_reducible apply onSoc_after
    | with_reducible apply State.commandWrite_after
    | with_reducible apply State.setDelete_after
    | with_reducible exact Within.mono ht rfl
    | exact RegIn.block ht (by decide) rfl
    | exact NotWall (by omega) (by omega)
    | with_reducible apply AfterRoute.ite
    | split
    | (with_reducible intro _)

theorem State.deallocSpares_after {b T} (x0) (x1) (ht : Within 0x40020010000400 T) (h1 : After T b x0) :
    After T b (@State.deallocSpares x0 x1) := by
  unfold State.deallocSpares
  try dsimp only
  repeat' first
    | with_reducible assumption
    | with_reducible apply State.each_after
    | with_reducible apply State.sendMemberAt_after
    | with_reducible exact Within.mono ht rfl
    | with_reducible apply AfterRoute.ite
    | split
    | (with_reducible intro _)

theorem execPromenadeMoveStart_after {b T} (x0) (x1) (x2) (ht : Within 0x6036591908bec1 T) (h3 : After T b x2) :
    AfterOut T b (@execPromenadeMoveStart x0 x1 x2) := by
  unfold execPromenadeMoveStart
  try dsimp only
  repeat' first
    | with_reducible assumption
    | with_reducible apply onData_after
    | with_reducible apply State.copyNext_after
    | with_reducible apply State.deallocSpares_after
    | with_reducible apply State.onMove_after
    | with_reducible exact Within.mono ht rfl
    | exact RegIn.block ht (by decide) rfl
    | with_reducible apply AfterRoute.ite
    | split
    | (with_reducible intro _)
    | with_reducible apply AfterOut.ofNext
    | with_reducible apply AfterOpt.ofSome
    | with_reducible exact AfterOpt.ofNone
    | (with_reducible refine After.ofPair (by assumption) ?_)
    | (with_reducible refine After.ofTriple (by assumption) ?_)
    | (with_reducible refine After.ofOpt (by assumption) ?_)
    | with_reducible apply AfterSome.ofSome
    | with_reducible apply AfterRoute.ofSome
    | with_reducible exact AfterRoute.ofNone
    | with_reducible exact AfterSome.ofNone
    | with_reducible apply AfterEx.ofOk
    | with_reducible exact AfterEx.ofError
    | (with_reducible refine After.ofSealed (by assumption) ?_)
    | (with_reducible refine After.ofOkPair (by assumption) ?_)
    | (with_reducible refine After.ofOk (by assumption) ?_)
    | with_reducible apply After.fold

theorem execPromenadeCopyPassEnd_after {b T} (x0) (x1) (x2) (ht : Within 0x6036591908bec1 T) (h3 : After T b x2) :
    AfterOut T b (@execPromenadeCopyPassEnd x0 x1 x2) := by
  unfold execPromenadeCopyPassEnd
  try dsimp only
  repeat' first
    | with_reducible assumption
    | with_reducible apply onData_after
    | with_reducible apply State.copyDirty_after
    | with_reducible apply State.onMove_after
    | with_reducible exact Within.mono ht rfl
    | exact RegIn.block ht (by decide) rfl
    | with_reducible apply AfterRoute.ite
    | split
    | (with_reducible intro _)
    | with_reducible apply AfterOut.ofNext
    | with_reducible apply AfterOpt.ofSome
    | with_reducible exact AfterOpt.ofNone
    | (with_reducible refine After.ofPair (by assumption) ?_)
    | (with_reducible refine After.ofTriple (by assumption) ?_)
    | (with_reducible refine After.ofOpt (by assumption) ?_)
    | with_reducible apply AfterSome.ofSome
    | with_reducible apply AfterRoute.ofSome
    | with_reducible exact AfterRoute.ofNone
    | with_reducible exact AfterSome.ofNone
    | with_reducible apply AfterEx.ofOk
    | with_reducible exact AfterEx.ofError
    | (with_reducible refine After.ofSealed (by assumption) ?_)
    | (with_reducible refine After.ofOkPair (by assumption) ?_)
    | (with_reducible refine After.ofOk (by assumption) ?_)
    | with_reducible apply After.fold

theorem execPromenadeCatchupDone_after {b T} (x0) (x1) (x2) (ht : Within 0x6036591908bec1 T) (h3 : After T b x2) :
    AfterOut T b ((@execPromenadeCatchupDone x0 x1 x2)) := by
  unfold execPromenadeCatchupDone
  try dsimp only
  repeat' first
    | with_reducible assumption
    | with_reducible apply onData_after
    | with_reducible apply State.onMove_after
    | with_reducible exact Within.mono ht rfl
    | with_reducible apply AfterRoute.ite
    | split
    | (with_reducible intro _)

theorem State.moveLost_after {b T} (x0) (x1) (ht : Within 0x400 T) (h1 : After T b x0) :
    After T b (@State.moveLost x0 x1) := by
  unfold State.moveLost
  try dsimp only
  repeat' first
    | with_reducible assumption
    | with_reducible apply State.onStore_after

theorem State.retranslate_after {b T} (x0) (x1) (ht : Within 0x200 T) (h1 : After T b x0) :
    After T b (@State.retranslate x0 x1) := by
  unfold State.retranslate
  try dsimp only
  repeat' first
    | with_reducible assumption
    | with_reducible apply State.onHost_after
    | with_reducible exact Within.mono ht rfl
    | exact RegIn.block ht (by decide) rfl
    | with_reducible apply AfterRoute.ite
    | split
    | (with_reducible intro _)
    | with_reducible apply AfterOut.ofNext
    | with_reducible apply AfterOpt.ofSome
    | with_reducible exact AfterOpt.ofNone
    | (with_reducible refine After.ofPair (by assumption) ?_)
    | (with_reducible refine After.ofTriple (by assumption) ?_)
    | (with_reducible refine After.ofOpt (by assumption) ?_)
    | with_reducible apply AfterSome.ofSome
    | with_reducible apply AfterRoute.ofSome
    | with_reducible exact AfterRoute.ofNone
    | with_reducible exact AfterSome.ofNone
    | with_reducible apply AfterEx.ofOk
    | with_reducible exact AfterEx.ofError
    | (with_reducible refine After.ofSealed (by assumption) ?_)
    | (with_reducible refine After.ofOkPair (by assumption) ?_)
    | (with_reducible refine After.ofOk (by assumption) ?_)
    | with_reducible apply After.fold

theorem State.switchExtent_after {b T} (x0) (x1) (ht : Within 0x40165911003e01 T) (h1 : After T b x0) :
    After T b (@State.switchExtent x0 x1) := by
  unfold State.switchExtent
  try dsimp only
  repeat' first
    | with_reducible assumption
    | with_reducible apply State.moveLost_after
    | with_reducible apply State.onMove_after
    | with_reducible apply State.onNamespace_after
    | with_reducible apply State.releaseHeldWrites_after
    | with_reducible apply State.retranslate_after
    | with_reducible exact Within.mono ht rfl

theorem execPromenadeOldRangeFree_after {b T} (x0) (x1) (x2) (ht : Within 0x6036591908bec1 T) (h3 : After T b x2) :
    AfterOut T b ((@execPromenadeOldRangeFree x0 x1 x2)) := by
  unfold execPromenadeOldRangeFree
  try dsimp only
  repeat' first
    | with_reducible assumption
    | with_reducible apply onData_after
    | with_reducible apply State.onMove_after
    | with_reducible apply State.wr_after
    | with_reducible exact Within.mono ht rfl
    | exact RegIn.block ht (by decide) rfl
    | with_reducible apply AfterRoute.ite
    | split
    | (with_reducible intro _)

theorem execPromenadeFinalEpoch_after {b T} (x0) (x1) (ht : Within 0x400 T) (h2 : After T b x1) :
    AfterOut T b ((@execPromenadeFinalEpoch x0 x1)) := by
  unfold execPromenadeFinalEpoch
  try dsimp only
  repeat' first
    | with_reducible assumption
    | with_reducible apply onSoc_after
    | with_reducible apply State.armLayoutEpoch_after
    | with_reducible exact Within.mono ht rfl
    | with_reducible apply AfterRoute.ite
    | split
    | (with_reducible intro _)

theorem State.showGeometry_after {b T} (x0) (x1) (ht : Within 0x800000000 T) (h1 : After T b x0) :
    After T b (@State.showGeometry x0 x1) := by
  unfold State.showGeometry
  try dsimp only
  repeat' first
    | with_reducible assumption
    | with_reducible apply State.setReg_after
    | with_reducible apply State.wrs_after
    | with_reducible exact Within.mono ht rfl
    | exact RegIn.block ht (by decide) rfl
    | with_reducible apply FieldsIn.cons
    | with_reducible exact FieldsIn.nil

theorem State.activateLayout_after {b T} (x0) (x1) (ht : Within 0x800000400 T) (h1 : After T b x0) :
    After T b (@State.activateLayout x0 x1) := by
  unfold State.activateLayout
  try dsimp only
  repeat' first
    | with_reducible assumption
    | with_reducible apply State.wrs_after
    | with_reducible apply State.showGeometry_after
    | with_reducible apply State.onStore_after
    | with_reducible exact Within.mono ht rfl
    | exact RegIn.block ht (by decide) rfl
    | with_reducible apply FieldsIn.cons
    | with_reducible exact FieldsIn.nil

theorem State.drainOldRanges_after {b T} (x0) (x1) (x2) (x3) (ht : Within 0x40020010000400 T) (h1 : After T b x0) :
    After T b (@State.drainOldRanges x0 x1 x2 x3) := by
  unfold State.drainOldRanges
  try dsimp only
  repeat' first
    | with_reducible assumption
    | with_reducible apply State.each_after
    | with_reducible apply State.sendMemberAt_after
    | with_reducible exact Within.mono ht rfl
    | with_reducible apply AfterRoute.ite
    | split
    | (with_reducible intro _)

theorem State.finalEpoch_after {b T} (x0) (x1) (ht : Within 0x40021810000400 T) (h1 : After T b x0) :
    After T b (@State.finalEpoch x0 x1) := by
  unfold State.finalEpoch
  try dsimp only
  repeat' first
    | with_reducible assumption
    | with_reducible apply State.onStore_after
    | with_reducible apply State.activateLayout_after
    | with_reducible apply State.setReg_after
    | with_reducible apply State.showRebuild_after
    | with_reducible apply State.drainOldRanges_after
    | with_reducible apply State.wr_after
    | with_reducible exact Within.mono ht rfl
    | exact RegIn.block ht (by decide) rfl
    | with_reducible apply AfterRoute.ite
    | split
    | (with_reducible intro _)
    | with_reducible apply AfterOut.ofNext
    | with_reducible apply AfterOpt.ofSome
    | with_reducible exact AfterOpt.ofNone
    | (with_reducible refine After.ofPair (by assumption) ?_)
    | (with_reducible refine After.ofTriple (by assumption) ?_)
    | (with_reducible refine After.ofOpt (by assumption) ?_)
    | with_reducible apply AfterSome.ofSome
    | with_reducible apply AfterRoute.ofSome
    | with_reducible exact AfterRoute.ofNone
    | with_reducible exact AfterSome.ofNone
    | with_reducible apply AfterEx.ofOk
    | with_reducible exact AfterEx.ofError
    | (with_reducible refine After.ofSealed (by assumption) ?_)
    | (with_reducible refine After.ofOkPair (by assumption) ?_)
    | (with_reducible refine After.ofOk (by assumption) ?_)
    | with_reducible apply After.fold

theorem execPromenadeDrainDone_after {b T} (x0) (x1) (ht : Within 0x1000000400 T) (h2 : After T b x1) :
    AfterOut T b ((@execPromenadeDrainDone x0 x1)) := by
  unfold execPromenadeDrainDone
  try dsimp only
  repeat' first
    | with_reducible assumption
    | with_reducible apply onSoc_after
    | with_reducible apply State.wr_after
    | with_reducible apply State.onStore_after
    | with_reducible exact Within.mono ht rfl
    | exact RegIn.block ht (by decide) rfl
    | with_reducible apply AfterRoute.ite
    | split
    | (with_reducible intro _)

theorem State.dropSet_after {b T} (x0) (x1) (ht : Within 0x800000400 T) (h1 : After T b x0) :
    After T b (@State.dropSet x0 x1) := by
  unfold State.dropSet
  try dsimp only
  repeat' first
    | with_reducible assumption
    | with_reducible apply State.onStore_after
    | with_reducible apply State.wrs_after
    | with_reducible exact Within.mono ht rfl
    | exact RegIn.block ht (by decide) rfl
    | with_reducible apply FieldsIn.cons
    | with_reducible exact FieldsIn.nil
    | with_reducible apply AfterRoute.ite
    | split
    | (with_reducible intro _)
    | with_reducible apply AfterOut.ofNext
    | with_reducible apply AfterOpt.ofSome
    | with_reducible exact AfterOpt.ofNone
    | (with_reducible refine After.ofPair (by assumption) ?_)
    | (with_reducible refine After.ofTriple (by assumption) ?_)
    | (with_reducible refine After.ofOpt (by assumption) ?_)
    | with_reducible apply AfterSome.ofSome
    | with_reducible apply AfterRoute.ofSome
    | with_reducible exact AfterRoute.ofNone
    | with_reducible exact AfterSome.ofNone
    | with_reducible apply AfterEx.ofOk
    | with_reducible exact AfterEx.ofError
    | (with_reducible refine After.ofSealed (by assumption) ?_)
    | (with_reducible refine After.ofOkPair (by assumption) ?_)
    | (with_reducible refine After.ofOk (by assumption) ?_)
    | with_reducible apply After.fold

theorem State.makeSet_after {b T} (x0) (x1) (ht : Within 0x800000400 T) (h1 : After T b x0) :
    After T b (@State.makeSet x0 x1) := by
  unfold State.makeSet
  try dsimp only
  repeat' first
    | with_reducible assumption
    | with_reducible apply State.onStore_after
    | with_reducible apply State.activateLayout_after
    | with_reducible exact Within.mono ht rfl
    | exact RegIn.block ht (by decide) rfl
    | with_reducible apply AfterRoute.ite
    | split
    | (with_reducible intro _)
    | with_reducible apply AfterOut.ofNext
    | with_reducible apply AfterOpt.ofSome
    | with_reducible exact AfterOpt.ofNone
    | (with_reducible refine After.ofPair (by assumption) ?_)
    | (with_reducible refine After.ofTriple (by assumption) ?_)
    | (with_reducible refine After.ofOpt (by assumption) ?_)
    | with_reducible apply AfterSome.ofSome
    | with_reducible apply AfterRoute.ofSome
    | with_reducible exact AfterRoute.ofNone
    | with_reducible exact AfterSome.ofNone
    | with_reducible apply AfterEx.ofOk
    | with_reducible exact AfterEx.ofError
    | (with_reducible refine After.ofSealed (by assumption) ?_)
    | (with_reducible refine After.ofOkPair (by assumption) ?_)
    | (with_reducible refine After.ofOk (by assumption) ?_)
    | with_reducible apply After.fold

theorem State.layoutEpochs_after {b T} (x0) (x1) (ht : Within 0x40165911003e01 T) (h1 : After T b x0) :
    After T b (@State.layoutEpochs x0 x1) := by
  unfold State.layoutEpochs
  try dsimp only
  repeat' first
    | with_reducible assumption
    | with_reducible apply State.each_after
    | with_reducible apply State.switchExtent_after
    | with_reducible apply State.onStore_after
    | with_reducible apply State.makeSet_after
    | with_reducible apply State.dropSet_after
    | with_reducible apply State.finalEpoch_after
    | with_reducible exact Within.mono ht rfl
    | exact RegIn.block ht (by decide) rfl
    | with_reducible apply AfterRoute.ite
    | split
    | (with_reducible intro _)
    | with_reducible apply AfterOut.ofNext
    | with_reducible apply AfterOpt.ofSome
    | with_reducible exact AfterOpt.ofNone
    | (with_reducible refine After.ofPair (by assumption) ?_)
    | (with_reducible refine After.ofTriple (by assumption) ?_)
    | (with_reducible refine After.ofOpt (by assumption) ?_)
    | with_reducible apply AfterSome.ofSome
    | with_reducible apply AfterRoute.ofSome
    | with_reducible exact AfterRoute.ofNone
    | with_reducible exact AfterSome.ofNone
    | with_reducible apply AfterEx.ofOk
    | with_reducible exact AfterEx.ofError
    | (with_reducible refine After.ofSealed (by assumption) ?_)
    | (with_reducible refine After.ofOkPair (by assumption) ?_)
    | (with_reducible refine After.ofOk (by assumption) ?_)
    | with_reducible apply After.fold

end Sys2Proof.Machine
end

