-- ==== Sys2Proof/Laws/After/Mcp.lean ====
section
/-! SUPPORT. What the operations of Mcp keep (Laws/After.lean). -/

set_option Elab.async false
set_option linter.all false

namespace Sys2Proof.Machine

theorem nextOf_after {b T} (x0) (x1) (h2 : After T b x1) (h : AfterOut T b x0) : After T b (nextOf x0 x1) := by
  unfold nextOf
  split
  · exact h _ rfl
  · exact h2

theorem State.answerAsleep_after {b T} (x0) (x1) (x2) (x3) (h1 : After T b x0) :
    After T b (@State.answerAsleep x0 x1 x2 x3) := by
  unfold State.answerAsleep
  try dsimp only
  repeat' first
    | with_reducible assumption
    | with_reducible apply State.emit_after
    | with_reducible apply AfterRoute.ite
    | split

theorem State.packetInDormant_after {b T} (x0) (x1) (x2) (ht : Within 0x7fffffffffffff T) (h1 : After T b x0) :
    After T b (@State.packetInDormant x0 x1 x2) := by
  unfold State.packetInDormant
  try dsimp only
  repeat' first
    | with_reducible assumption
    | with_reducible apply State.answerAsleep_after
    | with_reducible apply State.wake_after
    | with_reducible exact Within.mono ht rfl
    | with_reducible apply AfterRoute.ite
    | split

theorem State.mctpControl_after {b T} (x0) (x1) (x2) (ht : Within 0x40000 T) (h1 : After T b x0) :
    After T b (@State.mctpControl x0 x1 x2) := by
  unfold State.mctpControl
  try dsimp only
  repeat' first
    | with_reducible assumption
    | with_reducible apply State.emit_after
    | with_reducible apply State.onEntry_after
    | with_reducible exact Within.mono ht rfl
    | exact RegIn.block ht (by decide) rfl
    | with_reducible apply AfterRoute.ite
    | split
    | (with_reducible intro _)
    | with_reducible apply AfterOut.ofNext
    | with_reducible apply AfterOpt.ofSome
    | with_reducible exact AfterOpt.ofNone
    | (with_reducible refine After.ofPair (by assumption) ?_)
    | (with_reducible refine After.ofTriple (by assumption) ?_)
    | (with_reducible refine After.ofOpt (by assumption) ?_)
    | with_reducible apply AfterSome.ofSome
    | with_reducible apply AfterRoute.ofSome
    | with_reducible exact AfterRoute.ofNone
    | with_reducible exact AfterSome.ofNone
    | with_reducible apply AfterEx.ofOk
    | with_reducible exact AfterEx.ofError
    | (with_reducible refine After.ofSealed (by assumption) ?_)
    | (with_reducible refine After.ofOkPair (by assumption) ?_)
    | (with_reducible refine After.ofOk (by assumption) ?_)
    | with_reducible apply After.fold

theorem State.fragmentArrived_after {b T} (x0) (x1) (x2) (x3) (x4) (ht : Within 0x603400110000c0 T) (h1 : After T b x0) :
    After T b (@State.fragmentArrived x0 x1 x2 x3 x4) := by
  unfold State.fragmentArrived
  try dsimp only
  repeat' first
    | with_reducible assumption
    | with_reducible apply State.onMcp_after
    | with_reducible apply State.acceptPacket_after
    | with_reducible exact Within.mono ht rfl
    | exact RegIn.block ht (by decide) rfl
    | with_reducible apply AfterRoute.ite
    | split
    | (with_reducible intro _)
    | with_reducible apply AfterOut.ofNext
    | with_reducible apply AfterOpt.ofSome
    | with_reducible exact AfterOpt.ofNone
    | (with_reducible refine After.ofPair (by assumption) ?_)
    | (with_reducible refine After.ofTriple (by assumption) ?_)
    | (with_reducible refine After.ofOpt (by assumption) ?_)
    | with_reducible apply AfterSome.ofSome
    | with_reducible apply AfterRoute.ofSome
    | with_reducible exact AfterRoute.ofNone
    | with_reducible exact AfterSome.ofNone
    | with_reducible apply AfterEx.ofOk
    | with_reducible exact AfterEx.ofError
    | (with_reducible refine After.ofSealed (by assumption) ?_)
    | (with_reducible refine After.ofOkPair (by assumption) ?_)
    | (with_reducible refine After.ofOk (by assumption) ?_)
    | with_reducible apply After.fold

theorem execMcpPacketReceived_after {b T} (x0) (x1) (x2) (x3) (x4) (ht : Within 0x7fffffffffffff T) (h5 : After T b x4) :
    AfterOut T b (@execMcpPacketReceived x0 x1 x2 x3 x4) := by
  unfold execMcpPacketReceived
  try dsimp only
  repeat' first
    | with_reducible assumption
    | with_reducible apply onAlways_after
    | with_reducible apply State.mctpControl_after
    | with_reducible apply State.answerAsleep_after
    | with_reducible apply State.packetInDormant_after
    | with_reducible apply State.acceptPacket_after
    | with_reducible apply State.fragmentArrived_after
    | with_reducible exact Within.mono ht rfl
    | exact RegIn.block ht (by decide) rfl
    | with_reducible apply AfterRoute.ite
    | split
    | (with_reducible intro _)
    | with_reducible apply AfterOut.ofNext
    | with_reducible apply AfterOpt.ofSome
    | with_reducible exact AfterOpt.ofNone
    | (with_reducible refine After.ofPair (by assumption) ?_)
    | (with_reducible refine After.ofTriple (by assumption) ?_)
    | (with_reducible refine After.ofOpt (by assumption) ?_)
    | with_reducible apply AfterSome.ofSome
    | with_reducible apply AfterRoute.ofSome
    | with_reducible exact AfterRoute.ofNone
    | with_reducible exact AfterSome.ofNone
    | with_reducible apply AfterEx.ofOk
    | with_reducible exact AfterEx.ofError
    | (with_reducible refine After.ofSealed (by assumption) ?_)
    | (with_reducible refine After.ofOkPair (by assumption) ?_)
    | (with_reducible refine After.ofOk (by assumption) ?_)
    | with_reducible apply After.fold

theorem execFragmentTimeout_after {b T} (x0) (x1) (x2) (ht : Within 0x80 T) (h3 : After T b x2) :
    AfterOut T b (@execFragmentTimeout x0 x1 x2) := by
  unfold execFragmentTimeout
  try dsimp only
  repeat' first
    | with_reducible assumption
    | with_reducible apply onSoc_after
    | with_reducible apply State.onMcp_after
    | with_reducible exact Within.mono ht rfl
    | exact RegIn.block ht (by decide) rfl
    | with_reducible apply AfterRoute.ite
    | split
    | (with_reducible intro _)
    | with_reducible apply AfterOut.ofNext
    | with_reducible apply AfterOpt.ofSome
    | with_reducible exact AfterOpt.ofNone
    | (with_reducible refine After.ofPair (by assumption) ?_)
    | (with_reducible refine After.ofTriple (by assumption) ?_)
    | (with_reducible refine After.ofOpt (by assumption) ?_)
    | with_reducible apply AfterSome.ofSome
    | with_reducible apply AfterRoute.ofSome
    | with_reducible exact AfterRoute.ofNone
    | with_reducible exact AfterSome.ofNone
    | with_reducible apply AfterEx.ofOk
    | with_reducible exact AfterEx.ofError
    | (with_reducible refine After.ofSealed (by assumption) ?_)
    | (with_reducible refine After.ofOkPair (by assumption) ?_)
    | (with_reducible refine After.ofOk (by assumption) ?_)
    | with_reducible apply After.fold

theorem State.postRequest_after {b T} (x0) (x1) (ht : Within 0x603400110000c0 T) (h1 : After T b x0) :
    After T b (@State.postRequest x0 x1) := by
  unfold State.postRequest
  try dsimp only
  repeat' first
    | with_reducible assumption
    | with_reducible apply State.count_after
    | with_reducible apply State.wr_after
    | with_reducible apply State.acceptPacket_after
    | with_reducible exact Within.mono ht rfl
    | exact RegIn.block ht (by decide) rfl
    | with_reducible apply AfterRoute.ite
    | split

theorem execMcpReqDoorbell_after {b T} (x0) (x1) (x2) (ht : Within 0x613400110000ca T) (h3 : After T b x2) :
    AfterOut T b ((@execMcpReqDoorbell x0 x1 x2)) := by
  unfold execMcpReqDoorbell
  try dsimp only
  repeat' first
    | with_reducible assumption
    | with_reducible apply onSoc_after
    | with_reducible apply State.commandWrite_after
    | with_reducible apply State.each_after
    | with_reducible apply State.postRequest_after
    | with_reducible exact Within.mono ht rfl
    | exact RegIn.block ht (by decide) rfl
    | exact NotWall (by omega) (by omega)
    | with_reducible apply AfterRoute.ite
    | split
    | (with_reducible intro _)

theorem State.replyNext_after {b T} (x0) (x1) (ht : Within 0x40240011000080 T) (h1 : After T b x0) :
    After T b (@State.replyNext x0 x1) := by
  unfold State.replyNext
  try dsimp only
  repeat' first
    | with_reducible assumption
    | with_reducible apply State.mailboxReply_after
    | with_reducible apply State.onMcp_after
    | with_reducible exact Within.mono ht rfl
    | with_reducible apply AfterRoute.ite
    | split

theorem execMcpRplRdyClear_after {b T} (x0) (x1) (x2) (ht : Within 0x613400110000ca T) (h3 : After T b x2) :
    AfterOut T b ((@execMcpRplRdyClear x0 x1 x2)) := by
  unfold execMcpRplRdyClear
  try dsimp only
  repeat' first
    | with_reducible assumption
    | with_reducible apply onSoc_after
    | with_reducible apply State.commandWrite_after
    | with_reducible apply State.wr_after
    | with_reducible apply State.each_after
    | with_reducible apply State.replyNext_after
    | with_reducible exact Within.mono ht rfl
    | exact RegIn.block ht (by decide) rfl
    | exact NotWall (by omega) (by omega)
    | with_reducible apply AfterRoute.ite
    | split
    | (with_reducible intro _)

theorem execMcpNtcTailWrite_after {b T} (x0) (x1) (x2) (ht : Within 0x613400110000ca T) (h3 : After T b x2) :
    AfterOut T b ((@execMcpNtcTailWrite x0 x1 x2)) := by
  unfold execMcpNtcTailWrite
  try dsimp only
  repeat' first
    | with_reducible assumption
    | with_reducible apply onSoc_after
    | with_reducible apply State.commandWrite_after
    | with_reducible apply State.wr_after
    | with_reducible exact Within.mono ht rfl
    | exact RegIn.block ht (by decide) rfl
    | exact NotWall (by omega) (by omega)
    | with_reducible apply AfterRoute.ite
    | split
    | (with_reducible intro _)

theorem execGetIdentity_after {b T} (x0) (x1) (ht : Within 0x40340011000080 T) (h2 : After T b x1) :
    AfterOut T b ((@execGetIdentity x0 x1)) := by
  unfold execGetIdentity
  try dsimp only
  repeat' first
    | with_reducible assumption
    | with_reducible apply onSoc_after
    | with_reducible apply State.runCall_after
    | with_reducible apply State.reply_after
    | with_reducible exact Within.mono ht rfl
    | with_reducible apply AfterRoute.ite
    | split
    | (with_reducible intro _)

theorem execGetChallenge_after {b T} (x0) (x1) (ht : Within 0x40340011000081 T) (h2 : After T b x1) :
    AfterOut T b ((@execGetChallenge x0 x1)) := by
  unfold execGetChallenge
  try dsimp only
  repeat' first
    | with_reducible assumption
    | with_reducible apply onSoc_after
    | with_reducible apply State.runCall_after
    | with_reducible apply State.random_after
    | with_reducible apply State.onMcp_after
    | with_reducible apply State.reply_after
    | with_reducible apply State.showMcp_after
    | with_reducible exact Within.mono ht rfl
    | with_reducible apply AfterRoute.ite
    | split
    | (with_reducible intro _)

theorem execChallengeExpiry_after {b T} (x0) (ht : Within 0x200000000080 T) (h1 : After T b x0) :
    AfterOut T b ((@execChallengeExpiry x0)) := by
  unfold execChallengeExpiry
  try dsimp only
  repeat' first
    | with_reducible assumption
    | with_reducible apply onSoc_after
    | with_reducible apply State.showMcp_after
    | with_reducible apply State.onMcp_after
    | with_reducible exact Within.mono ht rfl
    | with_reducible apply AfterRoute.ite
    | split
    | (with_reducible intro _)

theorem execGetEntryRecord_after {b T} (x0) (x1) (ht : Within 0x40340011000080 T) (h2 : After T b x1) :
    AfterOut T b ((@execGetEntryRecord x0 x1)) := by
  unfold execGetEntryRecord
  try dsimp only
  repeat' first
    | with_reducible assumption
    | with_reducible apply onSoc_after
    | with_reducible apply State.runCall_after
    | with_reducible apply State.reply_after
    | with_reducible exact Within.mono ht rfl
    | with_reducible apply AfterRoute.ite
    | split
    | (with_reducible intro _)

theorem State.macFailed_after {b T} (x0) (x1) (ht : Within 0x80 T) (h1 : After T b x0) :
    After T b (@State.macFailed x0 x1) := by
  unfold State.macFailed
  try dsimp only
  repeat' first
    | with_reducible assumption
    | with_reducible apply State.onMcp_after

theorem State.openSession_after {b T} (x0) (x1) (x2) (x3) (x4) (x5) (x6) (ht : Within 0x40340011008081 T) (h1 : After T b x0) :
    After T b (@State.openSession x0 x1 x2 x3 x4 x5 x6) := by
  unfold State.openSession
  try dsimp only
  repeat' first
    | with_reducible assumption
    | with_reducible apply State.onDraws_after
    | with_reducible apply State.onMcp_after
    | with_reducible apply State.showMcp_after
    | with_reducible apply State.loadSlot_after
    | with_reducible apply State.reply_after
    | with_reducible exact Within.mono ht rfl

theorem execSessionOpen_after {b T} (x0) (x1) (ht : Within 0x40340011008081 T) (h2 : After T b x1) :
    AfterOut T b ((@execSessionOpen x0 x1)) := by
  unfold execSessionOpen
  try dsimp only
  repeat' first
    | with_reducible assumption
    | with_reducible apply onSoc_after
    | with_reducible apply State.runCall_after
    | with_reducible apply State.showMcp_after
    | with_reducible apply State.onMcp_after
    | with_reducible apply State.reply_after
    | with_reducible apply State.macFailed_after
    | with_reducible apply State.openSession_after
    | with_reducible exact Within.mono ht rfl
    | with_reducible apply AfterRoute.ite
    | split
    | (with_reducible intro _)

theorem execSessionReset_after {b T} (x0) (x1) (x2) (ht : Within 0x40340011008080 T) (h3 : After T b x2) :
    AfterOut T b (@execSessionReset x0 x1 x2) := by
  unfold execSessionReset
  try dsimp only
  repeat' first
    | with_reducible assumption
    | with_reducible apply onSoc_after
    | with_reducible apply State.runCall_after
    | with_reducible apply State.endSession_after
    | with_reducible apply State.reply_after
    | with_reducible exact Within.mono ht rfl
    | exact RegIn.block ht (by decide) rfl
    | with_reducible apply AfterRoute.ite
    | split
    | (with_reducible intro _)
    | with_reducible apply AfterOut.ofNext
    | with_reducible apply AfterOpt.ofSome
    | with_reducible exact AfterOpt.ofNone
    | (with_reducible refine After.ofPair (by assumption) ?_)
    | (with_reducible refine After.ofTriple (by assumption) ?_)
    | (with_reducible refine After.ofOpt (by assumption) ?_)
    | with_reducible apply AfterSome.ofSome
    | with_reducible apply AfterRoute.ofSome
    | with_reducible exact AfterRoute.ofNone
    | with_reducible exact AfterSome.ofNone
    | with_reducible apply AfterEx.ofOk
    | with_reducible exact AfterEx.ofError
    | (with_reducible refine After.ofSealed (by assumption) ?_)
    | (with_reducible refine After.ofOkPair (by assumption) ?_)
    | (with_reducible refine After.ofOk (by assumption) ?_)
    | with_reducible apply After.fold

theorem execSessionList_after {b T} (x0) (x1) (x2) (ht : Within 0x40340011000080 T) (h3 : After T b x2) :
    AfterOut T b ((@execSessionList x0 x1 x2)) := by
  unfold execSessionList
  try dsimp only
  repeat' first
    | with_reducible assumption
    | with_reducible apply onSoc_after
    | with_reducible apply State.runCall_after
    | with_reducible apply State.reply_after
    | with_reducible exact Within.mono ht rfl
    | with_reducible apply AfterRoute.ite
    | split
    | (with_reducible intro _)

theorem execSessionIdleTimeout_after {b T} (x0) (x1) (ht : Within 0x300000008080 T) (h2 : After T b x1) :
    AfterOut T b ((@execSessionIdleTimeout x0 x1)) := by
  unfold execSessionIdleTimeout
  try dsimp only
  repeat' first
    | with_reducible assumption
    | with_reducible apply onSoc_after
    | with_reducible apply State.endSession_after
    | with_reducible exact Within.mono ht rfl
    | with_reducible apply AfterRoute.ite
    | split
    | (with_reducible intro _)

theorem execRequestTimeout_after {b T} (x0) (x1) (x2) (ht : Within 0x40340011000080 T) (h3 : After T b x2) :
    AfterOut T b (@execRequestTimeout x0 x1 x2) := by
  unfold execRequestTimeout
  try dsimp only
  repeat' first
    | with_reducible assumption
    | with_reducible apply onSoc_after
    | with_reducible apply State.onSession_after
    | with_reducible apply State.sealedReply_after
    | with_reducible exact Within.mono ht rfl
    | exact RegIn.block ht (by decide) rfl
    | with_reducible apply AfterRoute.ite
    | split
    | (with_reducible intro _)
    | with_reducible apply AfterOut.ofNext
    | with_reducible apply AfterOpt.ofSome
    | with_reducible exact AfterOpt.ofNone
    | (with_reducible refine After.ofPair (by assumption) ?_)
    | (with_reducible refine After.ofTriple (by assumption) ?_)
    | (with_reducible refine After.ofOpt (by assumption) ?_)
    | with_reducible apply AfterSome.ofSome
    | with_reducible apply AfterRoute.ofSome
    | with_reducible exact AfterRoute.ofNone
    | with_reducible exact AfterSome.ofNone
    | with_reducible apply AfterEx.ofOk
    | with_reducible exact AfterEx.ofError
    | (with_reducible refine After.ofSealed (by assumption) ?_)
    | (with_reducible refine After.ofOkPair (by assumption) ?_)
    | (with_reducible refine After.ofOk (by assumption) ?_)
    | with_reducible apply After.fold

theorem execNoticeSubscribe_after {b T} (x0) (x1) (x2) (ht : Within 0x40340011000080 T) (h3 : After T b x2) :
    AfterOut T b ((@execNoticeSubscribe x0 x1 x2)) := by
  unfold execNoticeSubscribe
  try dsimp only
  repeat' first
    | with_reducible assumption
    | with_reducible apply onSoc_after
    | with_reducible apply State.runCall_after
    | with_reducible apply State.reply_after
    | with_reducible apply State.onSession_after
    | with_reducible exact Within.mono ht rfl
    | with_reducible apply AfterRoute.ite
    | split
    | (with_reducible intro _)

theorem execGetNotices_after {b T} (x0) (x1) (x2) (ht : Within 0x40340011000080 T) (h3 : After T b x2) :
    AfterOut T b ((@execGetNotices x0 x1 x2)) := by
  unfold execGetNotices
  try dsimp only
  repeat' first
    | with_reducible assumption
    | with_reducible apply onSoc_after
    | with_reducible apply State.runCall_after
    | with_reducible apply State.reply_after
    | with_reducible exact Within.mono ht rfl
    | with_reducible apply AfterRoute.ite
    | split
    | (with_reducible intro _)

theorem State.readWords_after {b T} (x0) (x1) (x2) (x3) (ht : Within 0x7fffffe0000004 T) (h1 : After T b x0) :
    After T b (Prod.snd (Prod.snd ((@State.readWords x0 x1 x2 x3)))) := by
  induction x3 generalizing x0 x1 x2 with
  | zero =>
    unfold State.readWords
    try dsimp only
    repeat' first
      | with_reducible assumption
  | succ n ih =>
    unfold State.readWords
    try dsimp only
    repeat' first
      | with_reducible assumption
      | with_reducible apply State.readReg_after
      | with_reducible apply State.offAccess_after
      | with_reducible apply ih
      | with_reducible exact Within.mono ht rfl
      | with_reducible apply AfterRoute.ite
      | split

theorem execModuleStatus_after {b T} (x0) (x1) (x2) (ht : Within 0x40340011000080 T) (h3 : After T b x2) :
    AfterOut T b ((@execModuleStatus x0 x1 x2)) := by
  unfold execModuleStatus
  try dsimp only
  repeat' first
    | with_reducible assumption
    | with_reducible apply onSoc_after
    | with_reducible apply State.runCall_after
    | with_reducible apply State.reply_after
    | with_reducible exact Within.mono ht rfl
    | with_reducible apply AfterRoute.ite
    | split
    | (with_reducible intro _)

theorem execLogPageRead_after {b T} (x0) (x1) (x2) (ht : Within 0x40340011000281 T) (h3 : After T b x2) :
    AfterOut T b ((@execLogPageRead x0 x1 x2)) := by
  unfold execLogPageRead
  try dsimp only
  repeat' first
    | with_reducible assumption
    | with_reducible apply onSoc_after
    | with_reducible apply State.runCall_after
    | with_reducible apply State.reply_after
    | with_reducible apply State.logPage_after
    | with_reducible exact Within.mono ht rfl
    | with_reducible apply AfterRoute.ite
    | split
    | (with_reducible intro _)
    | with_reducible apply AfterOut.ofNext
    | with_reducible apply AfterOpt.ofSome
    | with_reducible exact AfterOpt.ofNone
    | (with_reducible refine After.ofPair (by assumption) ?_)
    | (with_reducible refine After.ofTriple (by assumption) ?_)
    | (with_reducible refine After.ofOpt (by assumption) ?_)
    | with_reducible apply AfterSome.ofSome
    | with_reducible apply AfterRoute.ofSome
    | with_reducible exact AfterRoute.ofNone
    | with_reducible exact AfterSome.ofNone
    | with_reducible apply AfterEx.ofOk
    | with_reducible exact AfterEx.ofError
    | (with_reducible refine After.ofSealed (by assumption) ?_)
    | (with_reducible refine After.ofOkPair (by assumption) ?_)

theorem execFaultRecordsRead_after {b T} (x0) (x1) (x2) (ht : Within 0x403400110000c0 T) (h3 : After T b x2) :
    AfterOut T b ((@execFaultRecordsRead x0 x1 x2)) := by
  unfold execFaultRecordsRead
  try dsimp only
  repeat' first
    | with_reducible assumption
    | with_reducible apply onSoc_after
    | with_reducible apply State.runCall_after
    | with_reducible apply State.onFlt_after
    | with_reducible apply State.reply_after
    | with_reducible exact Within.mono ht rfl
    | with_reducible apply AfterRoute.ite
    | split
    | (with_reducible intro _)

theorem execLongOperationStatus_after {b T} (x0) (x1) (x2) (ht : Within 0x40340011000281 T) (h3 : After T b x2) :
    AfterOut T b ((@execLongOperationStatus x0 x1 x2)) := by
  unfold execLongOperationStatus
  try dsimp only
  repeat' first
    | with_reducible assumption
    | with_reducible apply onSoc_after
    | with_reducible apply State.runCall_after
    | with_reducible apply State.logPage_after
    | with_reducible apply State.reply_after
    | with_reducible exact Within.mono ht rfl
    | with_reducible apply AfterRoute.ite
    | split
    | (with_reducible intro _)
    | with_reducible apply AfterOut.ofNext
    | with_reducible apply AfterOpt.ofSome
    | with_reducible exact AfterOpt.ofNone
    | (with_reducible refine After.ofPair (by assumption) ?_)
    | (with_reducible refine After.ofTriple (by assumption) ?_)
    | (with_reducible refine After.ofOpt (by assumption) ?_)
    | with_reducible apply AfterSome.ofSome
    | with_reducible apply AfterRoute.ofSome
    | with_reducible exact AfterRoute.ofNone
    | with_reducible exact AfterSome.ofNone
    | with_reducible apply AfterEx.ofOk
    | with_reducible exact AfterEx.ofError
    | (with_reducible refine After.ofSealed (by assumption) ?_)
    | (with_reducible refine After.ofOkPair (by assumption) ?_)

theorem State.leadReply_after {b T} (x0) (x1) (ht : Within 0x40340011000080 T) (h1 : After T b x0) :
    After T b (@State.leadReply x0 x1) := by
  unfold State.leadReply
  try dsimp only
  repeat' first
    | with_reducible assumption
    | with_reducible apply State.reply_after

theorem State.slotReply_after {b T} (x0) (x1) (ht : Within 0x40340011000080 T) (h1 : After T b x0) :
    After T b (@State.slotReply x0 x1) := by
  unfold State.slotReply
  try dsimp only
  repeat' first
    | with_reducible assumption
    | with_reducible apply State.reply_after

theorem State.layoutReply_after {b T} (x0) (x1) (ht : Within 0x40340011000080 T) (h1 : After T b x0) :
    After T b (@State.layoutReply x0 x1) := by
  unfold State.layoutReply
  try dsimp only
  repeat' first
    | with_reducible assumption
    | with_reducible apply State.reply_after

theorem State.finishCall_after {b T} (x0) (x1) (x2) (ht : Within 0x40340011000080 T) (h1 : After T b x0) :
    After T b (@State.finishCall x0 x1 x2) := by
  unfold State.finishCall
  try dsimp only
  repeat' first
    | with_reducible assumption
    | with_reducible apply State.leadReply_after
    | with_reducible apply State.slotReply_after
    | with_reducible apply State.layoutReply_after
    | with_reducible exact Within.mono ht rfl
    | with_reducible apply AfterRoute.ite
    | split

theorem State.runCommand_after {b T} (x0) (x1) (x2) (x3) (ht : Within 0x40340011000080 T) (h1 : After T b x0) (h4 : ∀ y0, After T b y0 → AfterOut T b ((x3 y0))) :
    After T b (@State.runCommand x0 x1 x2 x3) := by
  unfold State.runCommand
  try dsimp only
  repeat' first
    | with_reducible assumption
    | with_reducible apply State.reply_after
    | with_reducible apply nextOf_after
    | with_reducible apply State.finishCall_after
    | with_reducible apply State.startCall_after
    | with_reducible apply h4
    | with_reducible exact Within.mono ht rfl
    | with_reducible apply AfterRoute.ite
    | split

theorem execLeadCommand_after {b T} (x0) (x1) (x2) (ht : Within 0x6137591928becb T) (h3 : After T b x2) :
    AfterOut T b ((@execLeadCommand x0 x1 x2)) := by
  unfold execLeadCommand
  try dsimp only
  repeat' first
    | with_reducible assumption
    | with_reducible apply onSoc_after
    | with_reducible apply State.runCall_after
    | with_reducible apply State.reply_after
    | with_reducible apply State.runCommand_after
    | with_reducible apply execLtkHandOverGroup_after
    | with_reducible apply execLtkHandOverAll_after
    | with_reducible apply execLtkReleaseGroup_after
    | with_reducible apply execLtkAcquireGroup_after
    | with_reducible apply execLtkRunSelfTest_after
    | with_reducible exact Within.mono ht rfl
    | with_reducible apply AfterRoute.ite
    | split
    | (with_reducible intro _)

theorem execSlotCommand_after {b T} (x0) (x1) (x2) (x3) (x4) (ht : Within 0x6136591948becb T) (h5 : After T b x4) :
    AfterOut T b (@execSlotCommand x0 x1 x2 x3 x4) := by
  unfold execSlotCommand
  try dsimp only
  repeat' first
    | with_reducible assumption
    | with_reducible apply onSoc_after
    | with_reducible apply State.runCall_after
    | with_reducible apply State.reply_after
    | with_reducible apply State.runCommand_after
    | with_reducible apply execSlotPowerOn_after
    | with_reducible apply execSlotOff_after
    | with_reducible apply execSlotForcedOff_after
    | with_reducible apply execSlotRetrain_after
    | with_reducible apply execSlotPrepare_after
    | with_reducible exact Within.mono ht rfl
    | exact RegIn.block ht (by decide) rfl
    | with_reducible apply AfterRoute.ite
    | split
    | (with_reducible intro _)
    | with_reducible apply AfterOut.ofNext
    | with_reducible apply AfterOpt.ofSome
    | with_reducible exact AfterOpt.ofNone
    | (with_reducible refine After.ofPair (by assumption) ?_)
    | (with_reducible refine After.ofTriple (by assumption) ?_)
    | (with_reducible refine After.ofOpt (by assumption) ?_)
    | with_reducible apply AfterSome.ofSome
    | with_reducible apply AfterRoute.ofSome
    | with_reducible exact AfterRoute.ofNone
    | with_reducible exact AfterSome.ofNone
    | with_reducible apply AfterEx.ofOk
    | with_reducible exact AfterEx.ofError
    | (with_reducible refine After.ofSealed (by assumption) ?_)
    | (with_reducible refine After.ofOkPair (by assumption) ?_)
    | (with_reducible refine After.ofOk (by assumption) ?_)
    | with_reducible apply After.fold

theorem execLayoutCommand_after {b T} (x0) (x1) (x2) (ht : Within 0x613410110004ca T) (h3 : After T b x2) :
    AfterOut T b ((@execLayoutCommand x0 x1 x2)) := by
  unfold execLayoutCommand
  try dsimp only
  repeat' first
    | with_reducible assumption
    | with_reducible apply onSoc_after
    | with_reducible apply State.runCall_after
    | with_reducible apply State.reply_after
    | with_reducible apply State.runCommand_after
    | with_reducible apply execPromenadeStart_after
    | with_reducible apply execSetCreate_after
    | with_reducible apply execSetDelete_after
    | with_reducible exact Within.mono ht rfl
    | with_reducible apply AfterRoute.ite
    | split
    | (with_reducible intro _)

theorem State.actLater_after {b T} (x0) (x1) (ht : Within 0x80 T) (h1 : After T b x0) :
    After T b (@State.actLater x0 x1) := by
  unfold State.actLater
  try dsimp only
  repeat' first
    | with_reducible assumption
    | with_reducible apply State.onMcp_after

theorem execModuleReset_after {b T} (x0) (x1) (x2) (ht : Within 0x6037591928bec1 T) (h3 : After T b x2) :
    AfterOut T b ((@execModuleReset x0 x1 x2)) := by
  unfold execModuleReset
  try dsimp only
  repeat' first
    | with_reducible assumption
    | with_reducible apply onData_after
    | with_reducible apply State.runCall_after
    | with_reducible apply State.onMcp_after
    | with_reducible apply State.startCall_after
    | with_reducible apply State.each_after
    | with_reducible apply State.startHandOver_after
    | with_reducible apply State.actLater_after
    | with_reducible apply State.reply_after
    | with_reducible exact Within.mono ht rfl
    | with_reducible apply AfterRoute.ite
    | split
    | (with_reducible intro _)

theorem execPowerCycle_after {b T} (x0) (x1) (x2) (ht : Within 0x40340011000080 T) (h3 : After T b x2) :
    AfterOut T b ((@execPowerCycle x0 x1 x2)) := by
  unfold execPowerCycle
  try dsimp only
  repeat' first
    | with_reducible assumption
    | with_reducible apply onSoc_after
    | with_reducible apply State.runCall_after
    | with_reducible apply State.actLater_after
    | with_reducible apply State.reply_after
    | with_reducible exact Within.mono ht rfl
    | with_reducible apply AfterRoute.ite
    | split
    | (with_reducible intro _)

theorem execSetPowerState_after {b T} (x0) (x1) (x2) (x3) (ht : Within 0x6137591928bfc1 T) (h4 : After T b x3) :
    AfterOut T b ((@execSetPowerState x0 x1 x2 x3)) := by
  unfold execSetPowerState
  try dsimp only
  repeat' first
    | with_reducible assumption
    | with_reducible apply onData_after
    | with_reducible apply State.runCall_after
    | with_reducible apply State.reply_after
    | with_reducible apply State.enterDormant_after
    | with_reducible apply State.startCall_after
    | with_reducible exact Within.mono ht rfl
    | with_reducible apply AfterRoute.ite
    | split
    | (with_reducible intro _)

theorem execShelfBudget_after {b T} (x0) (x1) (x2) (ht : Within 0x40b40011000080 T) (h3 : After T b x2) :
    AfterOut T b ((@execShelfBudget x0 x1 x2)) := by
  unfold execShelfBudget
  try dsimp only
  repeat' first
    | with_reducible assumption
    | with_reducible apply onSoc_after
    | with_reducible apply State.runCall_after
    | with_reducible apply State.reply_after
    | with_reducible apply State.wr_after
    | with_reducible exact Within.mono ht rfl
    | exact RegIn.block ht (by decide) rfl
    | with_reducible apply AfterRoute.ite
    | split
    | (with_reducible intro _)

theorem execFirmwareDownload_after {b T} (x0) (x1) (x2) (ht : Within 0x40340011080080 T) (h3 : After T b x2) :
    AfterOut T b ((@execFirmwareDownload x0 x1 x2)) := by
  unfold execFirmwareDownload
  try dsimp only
  repeat' first
    | with_reducible assumption
    | with_reducible apply onSoc_after
    | with_reducible apply State.runCall_after
    | with_reducible apply State.reply_after
    | with_reducible apply State.stageImage_after
    | with_reducible exact Within.mono ht rfl
    | with_reducible apply AfterRoute.ite
    | split
    | (with_reducible intro _)

theorem execMcpFirmwareCommit_after {b T} (x0) (x1) (x2) (ht : Within 0x40340011080080 T) (h3 : After T b x2) :
    AfterOut T b (@execMcpFirmwareCommit x0 x1 x2) := by
  unfold execMcpFirmwareCommit
  try dsimp only
  repeat' first
    | with_reducible assumption
    | with_reducible apply onSoc_after
    | with_reducible apply State.runCall_after
    | with_reducible apply State.reply_after
    | with_reducible apply State.storeImage_after
    | with_reducible apply State.storeImageNext_after
    | with_reducible apply State.markImage_after
    | with_reducible apply State.commitActivate_after
    | with_reducible exact Within.mono ht rfl
    | exact RegIn.block ht (by decide) rfl
    | with_reducible apply AfterRoute.ite
    | split
    | (with_reducible intro _)
    | with_reducible apply AfterOut.ofNext
    | with_reducible apply AfterOpt.ofSome
    | with_reducible exact AfterOpt.ofNone
    | (with_reducible refine After.ofPair (by assumption) ?_)
    | (with_reducible refine After.ofTriple (by assumption) ?_)
    | (with_reducible refine After.ofOpt (by assumption) ?_)
    | with_reducible apply AfterSome.ofSome
    | with_reducible apply AfterRoute.ofSome
    | with_reducible exact AfterRoute.ofNone
    | with_reducible exact AfterSome.ofNone
    | with_reducible apply AfterEx.ofOk
    | with_reducible exact AfterEx.ofError
    | (with_reducible refine After.ofSealed (by assumption) ?_)
    | (with_reducible refine After.ofOkPair (by assumption) ?_)
    | (with_reducible refine After.ofOk (by assumption) ?_)
    | with_reducible apply After.fold

theorem execGroupPolicy_after {b T} (x0) (x1) (x2) (ht : Within 0x40340011000280 T) (h3 : After T b x2) :
    AfterOut T b (@execGroupPolicy x0 x1 x2) := by
  unfold execGroupPolicy
  try dsimp only
  repeat' first
    | with_reducible assumption
    | with_reducible apply onSoc_after
    | with_reducible apply State.runCall_after
    | with_reducible apply State.reply_after
    | with_reducible apply State.setPolicy_after
    | with_reducible apply State.emit_after
    | with_reducible apply State.startCall_after
    | with_reducible exact Within.mono ht rfl
    | exact RegIn.block ht (by decide) rfl
    | with_reducible apply AfterRoute.ite
    | split
    | (with_reducible intro _)
    | with_reducible apply AfterOut.ofNext
    | with_reducible apply AfterOpt.ofSome
    | with_reducible exact AfterOpt.ofNone
    | (with_reducible refine After.ofPair (by assumption) ?_)
    | (with_reducible refine After.ofTriple (by assumption) ?_)
    | (with_reducible refine After.ofOpt (by assumption) ?_)
    | with_reducible apply AfterSome.ofSome
    | with_reducible apply AfterRoute.ofSome
    | with_reducible exact AfterRoute.ofNone
    | with_reducible exact AfterSome.ofNone
    | with_reducible apply AfterEx.ofOk
    | with_reducible exact AfterEx.ofError
    | (with_reducible refine After.ofSealed (by assumption) ?_)
    | (with_reducible refine After.ofOkPair (by assumption) ?_)
    | (with_reducible refine After.ofOk (by assumption) ?_)
    | with_reducible apply After.fold

theorem execSetMeasureLength_after {b T} (x0) (x1) (x2) (ht : Within 0x403400110000a0 T) (h3 : After T b x2) :
    AfterOut T b ((@execSetMeasureLength x0 x1 x2)) := by
  unfold execSetMeasureLength
  try dsimp only
  repeat' first
    | with_reducible assumption
    | with_reducible apply onSoc_after
    | with_reducible apply State.runCall_after
    | with_reducible apply State.reply_after
    | with_reducible apply State.onCfg_after
    | with_reducible exact Within.mono ht rfl
    | with_reducible apply AfterRoute.ite
    | split
    | (with_reducible intro _)

theorem State.twoStepRefused_after {b T} (x0) (x1) (x2) (x3) (ht : Within 0x40340011000080 T) (h1 : After T b x0) :
    After T b (@State.twoStepRefused x0 x1 x2 x3) := by
  unfold State.twoStepRefused
  try dsimp only
  repeat' first
    | with_reducible assumption
    | with_reducible apply State.refuseCall_after
    | with_reducible apply State.reply_after
    | with_reducible exact Within.mono ht rfl
    | with_reducible apply AfterRoute.ite
    | split

theorem execTwoStepPropose_after {b T} (x0) (x1) (x2) (ht : Within 0x40740011100080 T) (h3 : After T b x2) :
    AfterOut T b (@execTwoStepPropose x0 x1 x2) := by
  unfold execTwoStepPropose
  try dsimp only
  repeat' first
    | with_reducible assumption
    | with_reducible apply onSoc_after
    | with_reducible apply State.runCall_after
    | with_reducible apply State.propose_after
    | with_reducible apply State.reply_after
    | with_reducible apply State.twoStepRefused_after
    | with_reducible exact Within.mono ht rfl
    | exact RegIn.block ht (by decide) rfl
    | with_reducible apply AfterRoute.ite
    | split
    | (with_reducible intro _)
    | with_reducible apply AfterOut.ofNext
    | with_reducible apply AfterOpt.ofSome
    | with_reducible exact AfterOpt.ofNone
    | (with_reducible refine After.ofPair (by assumption) ?_)
    | (with_reducible refine After.ofTriple (by assumption) ?_)
    | (with_reducible refine After.ofOpt (by assumption) ?_)
    | with_reducible apply AfterSome.ofSome
    | with_reducible apply AfterRoute.ofSome
    | with_reducible exact AfterRoute.ofNone
    | with_reducible exact AfterSome.ofNone
    | with_reducible apply AfterEx.ofOk
    | with_reducible exact AfterEx.ofError
    | (with_reducible refine After.ofSealed (by assumption) ?_)
    | (with_reducible refine After.ofOkPair (by assumption) ?_)
    | (with_reducible refine After.ofOk (by assumption) ?_)
    | with_reducible apply After.fold

theorem execTwoStepConfirm_after {b T} (x0) (x1) (x2) (ht : Within 0x607400911000c0 T) (h3 : After T b x2) : AfterOut T b (execTwoStepConfirm x0 x1 x2) := by
  unfold execTwoStepConfirm
  refine onSoc_after _ _ h3 fun s h => State.runCall_after _ _ _ _ _ (ht.mono rfl) h fun c s h => ?_
  split
  · rename_i n t e
    exact State.reply_after _ _ _ _ (ht.mono rfl) (State.confirm_after _ _ _ _ _ (ht.mono rfl) h _ e)
  · rename_i st d t e
    exact State.twoStepRefused_after _ _ _ _ (ht.mono rfl) (State.confirm_after_error _ _ _ _ _ (ht.mono rfl) h e)

theorem execTwoStepWithdraw_after {b T} (x0) (x1) (x2) (ht : Within 0x40740011100080 T) (h3 : After T b x2) :
    AfterOut T b ((@execTwoStepWithdraw x0 x1 x2)) := by
  unfold execTwoStepWithdraw
  try dsimp only
  repeat' first
    | with_reducible assumption
    | with_reducible apply onSoc_after
    | with_reducible apply State.runCall_after
    | with_reducible apply State.withdraw_after
    | with_reducible apply State.reply_after
    | with_reducible apply State.refuseCall_after
    | with_reducible exact Within.mono ht rfl
    | with_reducible apply AfterRoute.ite
    | split
    | (with_reducible intro _)
    | with_reducible apply AfterOut.ofNext
    | with_reducible apply AfterOpt.ofSome
    | with_reducible exact AfterOpt.ofNone
    | (with_reducible refine After.ofPair (by assumption) ?_)
    | (with_reducible refine After.ofTriple (by assumption) ?_)
    | (with_reducible refine After.ofOpt (by assumption) ?_)
    | with_reducible apply AfterSome.ofSome
    | with_reducible apply AfterRoute.ofSome
    | with_reducible exact AfterRoute.ofNone
    | with_reducible exact AfterSome.ofNone
    | with_reducible apply AfterEx.ofOk
    | with_reducible exact AfterEx.ofError
    | (with_reducible refine After.ofSealed (by assumption) ?_)
    | (with_reducible refine After.ofOkPair (by assumption) ?_)
    | (with_reducible refine After.ofOk (by assumption) ?_)

theorem execTwoStepStatus_after {b T} (x0) (x1) (x2) (ht : Within 0x40340011000080 T) (h3 : After T b x2) :
    AfterOut T b ((@execTwoStepStatus x0 x1 x2)) := by
  unfold execTwoStepStatus
  try dsimp only
  repeat' first
    | with_reducible assumption
    | with_reducible apply onSoc_after
    | with_reducible apply State.runCall_after
    | with_reducible apply State.reply_after
    | with_reducible apply State.refuseCall_after
    | with_reducible exact Within.mono ht rfl
    | with_reducible apply AfterRoute.ite
    | split
    | (with_reducible intro _)

theorem State.resetAfterHandOver_after {b T} (x0) (ht : Within 0x40340011000080 T) (h1 : After T b x0) :
    After T b (@State.resetAfterHandOver x0) := by
  unfold State.resetAfterHandOver
  try dsimp only
  repeat' first
    | with_reducible assumption
    | with_reducible apply State.onMcp_after
    | with_reducible apply State.actLater_after
    | with_reducible apply State.reply_after
    | with_reducible exact Within.mono ht rfl
    | with_reducible apply AfterRoute.ite
    | split

theorem State.mcpAtBoundary_after {b T} (x0) (ht : Within 0x40340011000080 T) (h1 : After T b x0) :
    After T b (@State.mcpAtBoundary x0) := by
  unfold State.mcpAtBoundary
  try dsimp only
  repeat' first
    | with_reducible assumption
    | with_reducible apply State.resetAfterHandOver_after
    | with_reducible apply State.each_after
    | with_reducible apply State.finishCall_after
    | with_reducible exact Within.mono ht rfl
    | exact RegIn.block ht (by decide) rfl
    | with_reducible apply AfterRoute.ite
    | split
    | (with_reducible intro _)
    | with_reducible apply AfterOut.ofNext
    | with_reducible apply AfterOpt.ofSome
    | with_reducible exact AfterOpt.ofNone
    | (with_reducible refine After.ofPair (by assumption) ?_)
    | (with_reducible refine After.ofTriple (by assumption) ?_)
    | (with_reducible refine After.ofOpt (by assumption) ?_)
    | with_reducible apply AfterSome.ofSome
    | with_reducible apply AfterRoute.ofSome
    | with_reducible exact AfterRoute.ofNone
    | with_reducible exact AfterSome.ofNone
    | with_reducible apply AfterEx.ofOk
    | with_reducible exact AfterEx.ofError
    | (with_reducible refine After.ofSealed (by assumption) ?_)
    | (with_reducible refine After.ofOkPair (by assumption) ?_)
    | (with_reducible refine After.ofOk (by assumption) ?_)
    | with_reducible apply After.fold

end Sys2Proof.Machine
end

