-- ==== Sys2Proof/Laws/After/Pmc.lean ====
section
/-! SUPPORT. What the operations of Pmc keep (Laws/After.lean). -/

set_option Elab.async false
set_option linter.all false

namespace Sys2Proof.Machine

theorem execPmcCounterPreset_after {b T} (x0) (x1) (x2) (x3) (ht : Within 0x613400110000ca T) (h4 : After T b x3) :
    AfterOut T b ((@execPmcCounterPreset x0 x1 x2 x3)) := by
  unfold execPmcCounterPreset
  try dsimp only
  repeat' first
    | with_reducible assumption
    | with_reducible apply onSoc_after
    | with_reducible apply State.commandWrite_after
    | with_reducible apply State.setReg_after
    | with_reducible exact Within.mono ht rfl
    | exact RegIn.block ht (by decide) rfl
    | exact RegIn.word (by omega) ht (by omega) rfl
    | exact NotWall.word (by omega) (by omega) (by omega)
    | with_reducible apply AfterRoute.ite
    | split
    | (with_reducible intro _)

theorem State.clearMonitor_after {b T} (x0) (x1) (ht : Within 0x40000010000000 T) (h1 : After T b x0) :
    After T b (@State.clearMonitor x0 x1) := by
  unfold State.clearMonitor
  try dsimp only
  repeat' first
    | with_reducible assumption
    | with_reducible apply State.onPmc_after
    | with_reducible apply State.wrs_after
    | with_reducible exact Within.mono ht rfl
    | exact RegIn.block ht (by decide) rfl
    | with_reducible apply FieldsIn.cons
    | with_reducible exact FieldsIn.nil
    | with_reducible apply AfterRoute.ite
    | split

theorem State.showWindow_after {b T} (x0) (x1) (x2) (x3) (ht : Within 0x40000000000000 T) (h1 : After T b x0) :
    After T b (@State.showWindow x0 x1 x2 x3) := by
  unfold State.showWindow
  try dsimp only
  repeat' first
    | with_reducible assumption
    | with_reducible apply State.wr_after
    | with_reducible apply State.wrs_after
    | with_reducible exact Within.mono ht rfl
    | exact RegIn.block ht (by decide) rfl
    | with_reducible apply FieldsIn.cons
    | with_reducible exact FieldsIn.nil
    | with_reducible apply AfterRoute.ite
    | split

theorem State.onMonitor_after {b T} (x0) (x1) (x2) (ht : Within 0x10000000 T) (h1 : After T b x0) :
    After T b (@State.onMonitor x0 x1 x2) := by
  unfold State.onMonitor
  try dsimp only
  repeat' first
    | with_reducible assumption
    | with_reducible apply State.onPmc_after

theorem execMonitorWindowEnd_after {b T} (x0) (x1) (ht : Within 0x40000010000000 T) (h2 : After T b x1) :
    AfterOut T b ((@execMonitorWindowEnd x0 x1)) := by
  unfold execMonitorWindowEnd
  try dsimp only
  repeat' first
    | with_reducible assumption
    | with_reducible apply onSoc_after
    | with_reducible apply State.clearMonitor_after
    | with_reducible apply State.showWindow_after
    | with_reducible apply State.onMonitor_after
    | with_reducible apply State.onPmc_after
    | with_reducible exact Within.mono ht rfl
    | with_reducible apply AfterRoute.ite
    | split
    | (with_reducible intro _)

theorem execMonitorClear_after {b T} (x0) (x1) (x2) (ht : Within 0x613400110000ca T) (h3 : After T b x2) :
    AfterOut T b ((@execMonitorClear x0 x1 x2)) := by
  unfold execMonitorClear
  try dsimp only
  repeat' first
    | with_reducible assumption
    | with_reducible apply onSoc_after
    | with_reducible apply State.commandWrite_after
    | with_reducible apply State.onPmc_after
    | with_reducible exact Within.mono ht rfl
    | exact RegIn.block ht (by decide) rfl
    | exact NotWall (by omega) (by omega)
    | with_reducible apply AfterRoute.ite
    | split
    | (with_reducible intro _)

theorem State.monitorBoundary_after {b T} (x0) (x1) (x2) (x3) (ht : Within 0x40000010000000 T) (h1 : After T b x0) :
    After T b (@State.monitorBoundary x0 x1 x2 x3) := by
  unfold State.monitorBoundary
  try dsimp only
  repeat' first
    | with_reducible assumption
    | with_reducible apply State.clearMonitor_after
    | with_reducible apply State.onPmc_after
    | with_reducible apply State.onMonitor_after
    | with_reducible exact Within.mono ht rfl
    | exact RegIn.block ht (by decide) rfl
    | with_reducible apply AfterRoute.ite
    | split
    | (with_reducible intro _)
    | with_reducible apply AfterOut.ofNext
    | with_reducible apply AfterOpt.ofSome
    | with_reducible exact AfterOpt.ofNone
    | (with_reducible refine After.ofPair (by assumption) ?_)
    | (with_reducible refine After.ofTriple (by assumption) ?_)
    | (with_reducible refine After.ofOpt (by assumption) ?_)
    | with_reducible apply AfterSome.ofSome
    | with_reducible apply AfterRoute.ofSome
    | with_reducible exact AfterRoute.ofNone
    | with_reducible exact AfterSome.ofNone
    | with_reducible apply AfterEx.ofOk
    | with_reducible exact AfterEx.ofError
    | (with_reducible refine After.ofSealed (by assumption) ?_)
    | (with_reducible refine After.ofOkPair (by assumption) ?_)
    | (with_reducible refine After.ofOk (by assumption) ?_)
    | with_reducible apply After.fold

theorem State.monitorsAtBoundary_after {b T} (x0) (x1) (x2) (ht : Within 0x40000010000000 T) (h1 : After T b x0) :
    After T b (@State.monitorsAtBoundary x0 x1 x2) := by
  unfold State.monitorsAtBoundary
  try dsimp only
  repeat' first
    | with_reducible assumption
    | with_reducible apply State.each_after
    | with_reducible apply State.monitorBoundary_after
    | with_reducible exact Within.mono ht rfl
    | with_reducible apply AfterRoute.ite
    | split
    | (with_reducible intro _)

end Sys2Proof.Machine
end

