-- ==== Sys2Proof/Laws/After/Rebuild.lean ====
section
/-! SUPPORT. What the operations of Rebuild keep (Laws/After.lean). -/

set_option Elab.async false
set_option linter.all false

namespace Sys2Proof.Machine

theorem State.deallocStripe_after {b T} (x0) (x1) (x2) (x3) (ht : Within 0x40025010000c00 T) (h1 : After T b x0) :
    After T b (@State.deallocStripe x0 x1 x2 x3) := by
  unfold State.deallocStripe
  try dsimp only
  repeat' first
    | with_reducible assumption
    | with_reducible apply State.each_after
    | with_reducible apply State.sendMember_after
    | with_reducible apply State.sendStripTo_after
    | with_reducible apply State.setMapBit_after
    | with_reducible apply State.showRebuild_after
    | with_reducible apply State.setRebuilt_after
    | with_reducible exact Within.mono ht rfl
    | exact RegIn.block ht (by decide) rfl
    | with_reducible apply AfterRoute.ite
    | split
    | (with_reducible intro _)
    | with_reducible apply AfterOut.ofNext
    | with_reducible apply AfterOpt.ofSome
    | with_reducible exact AfterOpt.ofNone
    | (with_reducible refine After.ofPair (by assumption) ?_)
    | (with_reducible refine After.ofTriple (by assumption) ?_)
    | (with_reducible refine After.ofOpt (by assumption) ?_)
    | with_reducible apply AfterSome.ofSome
    | with_reducible apply AfterRoute.ofSome
    | with_reducible exact AfterRoute.ofNone
    | with_reducible exact AfterSome.ofNone
    | with_reducible apply AfterEx.ofOk
    | with_reducible exact AfterEx.ofError
    | (with_reducible refine After.ofSealed (by assumption) ?_)
    | (with_reducible refine After.ofOkPair (by assumption) ?_)
    | (with_reducible refine After.ofOk (by assumption) ?_)
    | with_reducible apply After.fold

theorem State.stepOn_after {b T} (x0) (x1) (x2) (x3) (x4) (x5) (ht : Within 0x40025810000c00 T) (h1 : After T b x0) :
    After T b (@State.stepOn x0 x1 x2 x3 x4 x5) := by
  unfold State.stepOn
  try dsimp only
  repeat' first
    | with_reducible assumption
    | with_reducible apply State.deallocStripe_after
    | with_reducible apply State.startStep_after
    | with_reducible exact Within.mono ht rfl
    | exact RegIn.block ht (by decide) rfl
    | with_reducible apply AfterRoute.ite
    | split
    | (with_reducible intro _)
    | with_reducible apply AfterOut.ofNext
    | with_reducible apply AfterOpt.ofSome
    | with_reducible exact AfterOpt.ofNone
    | (with_reducible refine After.ofPair (by assumption) ?_)
    | (with_reducible refine After.ofTriple (by assumption) ?_)
    | (with_reducible refine After.ofOpt (by assumption) ?_)
    | with_reducible apply AfterSome.ofSome
    | with_reducible apply AfterRoute.ofSome
    | with_reducible exact AfterRoute.ofNone
    | with_reducible exact AfterSome.ofNone
    | with_reducible apply AfterEx.ofOk
    | with_reducible exact AfterEx.ofError
    | (with_reducible refine After.ofSealed (by assumption) ?_)
    | (with_reducible refine After.ofOkPair (by assumption) ?_)
    | (with_reducible refine After.ofOk (by assumption) ?_)
    | with_reducible apply After.fold

theorem execRebuildStep_after {b T} (x0) (x1) (ht : Within 0x6036591908bec1 T) (h2 : After T b x1) :
    AfterOut T b (@execRebuildStep x0 x1) := by
  unfold execRebuildStep
  try dsimp only
  repeat' first
    | with_reducible assumption
    | with_reducible apply onData_after
    | with_reducible apply State.stepOn_after
    | with_reducible exact Within.mono ht rfl
    | exact RegIn.block ht (by decide) rfl
    | with_reducible apply AfterRoute.ite
    | split
    | (with_reducible intro _)
    | with_reducible apply AfterOut.ofNext
    | with_reducible apply AfterOpt.ofSome
    | with_reducible exact AfterOpt.ofNone
    | (with_reducible refine After.ofPair (by assumption) ?_)
    | (with_reducible refine After.ofTriple (by assumption) ?_)
    | (with_reducible refine After.ofOpt (by assumption) ?_)
    | with_reducible apply AfterSome.ofSome
    | with_reducible apply AfterRoute.ofSome
    | with_reducible exact AfterRoute.ofNone
    | with_reducible exact AfterSome.ofNone
    | with_reducible apply AfterEx.ofOk
    | with_reducible exact AfterEx.ofError
    | (with_reducible refine After.ofSealed (by assumption) ?_)
    | (with_reducible refine After.ofOkPair (by assumption) ?_)
    | (with_reducible refine After.ofOk (by assumption) ?_)
    | with_reducible apply After.fold

theorem execRebuildStepComplete_after {b T} (x0) (x1) (x2) (ht : Within 0x6036591908bec3 T) (h3 : After T b x2) :
    AfterOut T b (@execRebuildStepComplete x0 x1 x2) := by
  unfold execRebuildStepComplete
  try dsimp only
  repeat' first
    | with_reducible assumption
    | with_reducible apply onData_after
    | with_reducible apply State.onStore_after
    | with_reducible apply State.setRebuilt_after
    | with_reducible apply State.showRebuild_after
    | with_reducible apply State.unlockStripe_after
    | with_reducible apply State.count_after
    | with_reducible apply State.each_after
    | with_reducible apply State.queueRwm_after
    | with_reducible exact Within.mono ht rfl
    | exact RegIn.block ht (by decide) rfl
    | with_reducible apply AfterRoute.ite
    | split
    | (with_reducible intro _)
    | with_reducible apply AfterOut.ofNext
    | with_reducible apply AfterOpt.ofSome
    | with_reducible exact AfterOpt.ofNone
    | (with_reducible refine After.ofPair (by assumption) ?_)
    | (with_reducible refine After.ofTriple (by assumption) ?_)
    | (with_reducible refine After.ofOpt (by assumption) ?_)
    | with_reducible apply AfterSome.ofSome
    | with_reducible apply AfterRoute.ofSome
    | with_reducible exact AfterRoute.ofNone
    | with_reducible exact AfterSome.ofNone
    | with_reducible apply AfterEx.ofOk
    | with_reducible exact AfterEx.ofError
    | (with_reducible refine After.ofSealed (by assumption) ?_)
    | (with_reducible refine After.ofOkPair (by assumption) ?_)
    | (with_reducible refine After.ofOk (by assumption) ?_)
    | with_reducible apply After.fold

theorem State.beginSubstitution_after {b T} (x0) (x1) (x2) (x3) (x4) (ht : Within 0x5000000c00 T) (h1 : After T b x0) :
    After T b (@State.beginSubstitution x0 x1 x2 x3 x4) := by
  unfold State.beginSubstitution
  try dsimp only
  repeat' first
    | with_reducible assumption
    | with_reducible apply State.clearRebuildBits_after
    | with_reducible apply State.onStore_after
    | with_reducible apply State.showRebuild_after
    | with_reducible apply State.each_after
    | with_reducible apply State.skipRebuild_after
    | with_reducible exact Within.mono ht rfl
    | exact RegIn.block ht (by decide) rfl
    | with_reducible apply AfterRoute.ite
    | split
    | (with_reducible intro _)
    | with_reducible apply AfterOut.ofNext
    | with_reducible apply AfterOpt.ofSome
    | with_reducible exact AfterOpt.ofNone
    | (with_reducible refine After.ofPair (by assumption) ?_)
    | (with_reducible refine After.ofTriple (by assumption) ?_)
    | (with_reducible refine After.ofOpt (by assumption) ?_)
    | with_reducible apply AfterSome.ofSome
    | with_reducible apply AfterRoute.ofSome
    | with_reducible exact AfterRoute.ofNone
    | with_reducible exact AfterSome.ofNone
    | with_reducible apply AfterEx.ofOk
    | with_reducible exact AfterEx.ofError
    | (with_reducible refine After.ofSealed (by assumption) ?_)
    | (with_reducible refine After.ofOkPair (by assumption) ?_)
    | (with_reducible refine After.ofOk (by assumption) ?_)
    | with_reducible apply After.fold

theorem State.beginSubstitutions_after {b T} (x0) (x1) (ht : Within 0x5000000c00 T) (h1 : After T b x0) (h2 : After T b x1) :
    After T b (@State.beginSubstitutions x0 x1) := by
  unfold State.beginSubstitutions
  try dsimp only
  repeat' first
    | with_reducible assumption
    | with_reducible apply State.each_after
    | with_reducible apply State.beginSubstitution_after
    | with_reducible exact Within.mono ht rfl
    | exact RegIn.block ht (by decide) rfl
    | with_reducible apply AfterRoute.ite
    | split
    | (with_reducible intro _)
    | with_reducible apply AfterOut.ofNext
    | with_reducible apply AfterOpt.ofSome
    | with_reducible exact AfterOpt.ofNone
    | (with_reducible refine After.ofPair (by assumption) ?_)
    | (with_reducible refine After.ofTriple (by assumption) ?_)
    | (with_reducible refine After.ofOpt (by assumption) ?_)
    | with_reducible apply AfterSome.ofSome
    | with_reducible apply AfterRoute.ofSome
    | with_reducible exact AfterRoute.ofNone
    | with_reducible exact AfterSome.ofNone
    | with_reducible apply AfterEx.ofOk
    | with_reducible exact AfterEx.ofError
    | (with_reducible refine After.ofSealed (by assumption) ?_)
    | (with_reducible refine After.ofOkPair (by assumption) ?_)
    | (with_reducible refine After.ofOk (by assumption) ?_)
    | with_reducible apply After.fold

theorem execMemberFailed_after {b T} (x0) (x1) (x2) (ht : Within 0x6036591908bec3 T) (h3 : After T b x2) :
    AfterOut T b ((@execMemberFailed x0 x1 x2)) := by
  unfold execMemberFailed
  try dsimp only
  repeat' first
    | with_reducible assumption
    | with_reducible apply onData_after
    | with_reducible apply State.failMember_after
    | with_reducible exact Within.mono ht rfl
    | with_reducible apply AfterRoute.ite
    | split
    | (with_reducible intro _)

theorem State.startLostMap_after {b T} (x0) (x1) (ht : Within 0x603400110084c0 T) (h1 : After T b x0) :
    After T b (@State.startLostMap x0 x1) := by
  unfold State.startLostMap
  try dsimp only
  repeat' first
    | with_reducible assumption
    | with_reducible apply State.onStore_after
    | with_reducible apply State.noteLost_after
    | with_reducible exact Within.mono ht rfl
    | exact RegIn.block ht (by decide) rfl
    | with_reducible apply AfterRoute.ite
    | split
    | (with_reducible intro _)
    | with_reducible apply AfterOut.ofNext
    | with_reducible apply AfterOpt.ofSome
    | with_reducible exact AfterOpt.ofNone
    | (with_reducible refine After.ofPair (by assumption) ?_)
    | (with_reducible refine After.ofTriple (by assumption) ?_)
    | (with_reducible refine After.ofOpt (by assumption) ?_)
    | with_reducible apply AfterSome.ofSome
    | with_reducible apply AfterRoute.ofSome
    | with_reducible exact AfterRoute.ofNone
    | with_reducible exact AfterSome.ofNone
    | with_reducible apply AfterEx.ofOk
    | with_reducible exact AfterEx.ofError
    | (with_reducible refine After.ofSealed (by assumption) ?_)
    | (with_reducible refine After.ofOkPair (by assumption) ?_)
    | (with_reducible refine After.ofOk (by assumption) ?_)
    | with_reducible apply After.fold

theorem execLostMapWrite_after {b T} (x0) (x1) (x2) (ht : Within 0x6036591908bec1 T) (h3 : After T b x2) :
    AfterOut T b (@execLostMapWrite x0 x1 x2) := by
  unfold execLostMapWrite
  try dsimp only
  repeat' first
    | with_reducible assumption
    | with_reducible apply onData_after
    | with_reducible apply State.startLostMap_after
    | with_reducible apply State.sealRecord_after
    | with_reducible apply State.refuseCounter_after
    | with_reducible apply State.onStore_after
    | with_reducible apply State.each_after
    | with_reducible apply State.sendSlot_after
    | with_reducible exact Within.mono ht rfl
    | exact RegIn.block ht (by decide) rfl
    | with_reducible apply AfterRoute.ite
    | split
    | (with_reducible intro _)
    | with_reducible apply AfterOut.ofNext
    | with_reducible apply AfterOpt.ofSome
    | with_reducible exact AfterOpt.ofNone
    | (with_reducible refine After.ofPair (by assumption) ?_)
    | (with_reducible refine After.ofTriple (by assumption) ?_)
    | (with_reducible refine After.ofOpt (by assumption) ?_)
    | with_reducible apply AfterSome.ofSome
    | with_reducible apply AfterRoute.ofSome
    | with_reducible exact AfterRoute.ofNone
    | with_reducible exact AfterSome.ofNone
    | with_reducible apply AfterEx.ofOk
    | with_reducible exact AfterEx.ofError
    | (with_reducible refine After.ofSealed (by assumption) ?_)
    | (with_reducible refine After.ofOkPair (by assumption) ?_)
    | (with_reducible refine After.ofOk (by assumption) ?_)
    | with_reducible apply After.fold

theorem execLostMapDurable_after {b T} (x0) (x1) (x2) (x3) (ht : Within 0x6036591908bec1 T) (h4 : After T b x3) :
    AfterOut T b ((@execLostMapDurable x0 x1 x2 x3)) := by
  unfold execLostMapDurable
  try dsimp only
  repeat' first
    | with_reducible assumption
    | with_reducible apply onData_after
    | with_reducible apply State.onStore_after
    | with_reducible exact Within.mono ht rfl
    | with_reducible apply AfterRoute.ite
    | split
    | (with_reducible intro _)

theorem execJournalRehome_after {b T} (x0) (x1) (x2) (ht : Within 0x6036591908bec3 T) (h3 : After T b x2) :
    AfterOut T b (@execJournalRehome x0 x1 x2) := by
  unfold execJournalRehome
  try dsimp only
  repeat' first
    | with_reducible assumption
    | with_reducible apply onData_after
    | with_reducible apply State.onStore_after
    | with_reducible apply State.rehomeDone_after
    | with_reducible apply State.writeJournalBlocks_after
    | with_reducible exact Within.mono ht rfl
    | exact RegIn.block ht (by decide) rfl
    | with_reducible apply AfterRoute.ite
    | split
    | (with_reducible intro _)
    | with_reducible apply AfterOut.ofNext
    | with_reducible apply AfterOpt.ofSome
    | with_reducible exact AfterOpt.ofNone
    | (with_reducible refine After.ofPair (by assumption) ?_)
    | (with_reducible refine After.ofTriple (by assumption) ?_)
    | (with_reducible refine After.ofOpt (by assumption) ?_)
    | with_reducible apply AfterSome.ofSome
    | with_reducible apply AfterRoute.ofSome
    | with_reducible exact AfterRoute.ofNone
    | with_reducible exact AfterSome.ofNone
    | with_reducible apply AfterEx.ofOk
    | with_reducible exact AfterEx.ofError
    | (with_reducible refine After.ofSealed (by assumption) ?_)
    | (with_reducible refine After.ofOkPair (by assumption) ?_)
    | (with_reducible refine After.ofOk (by assumption) ?_)
    | with_reducible apply After.fold

theorem execRepairStep_after {b T} (x0) (x1) (x2) (x3) (x4) (ht : Within 0x6036591908bec1 T) (h5 : After T b x4) :
    AfterOut T b (@execRepairStep x0 x1 x2 x3 x4) := by
  unfold execRepairStep
  try dsimp only
  repeat' first
    | with_reducible assumption
    | with_reducible apply onData_after
    | with_reducible apply State.stepOn_after
    | with_reducible apply State.onStore_after
    | with_reducible exact Within.mono ht rfl
    | exact RegIn.block ht (by decide) rfl
    | with_reducible apply AfterRoute.ite
    | split
    | (with_reducible intro _)
    | with_reducible apply AfterOut.ofNext
    | with_reducible apply AfterOpt.ofSome
    | with_reducible exact AfterOpt.ofNone
    | (with_reducible refine After.ofPair (by assumption) ?_)
    | (with_reducible refine After.ofTriple (by assumption) ?_)
    | (with_reducible refine After.ofOpt (by assumption) ?_)
    | with_reducible apply AfterSome.ofSome
    | with_reducible apply AfterRoute.ofSome
    | with_reducible exact AfterRoute.ofNone
    | with_reducible exact AfterSome.ofNone
    | with_reducible apply AfterEx.ofOk
    | with_reducible exact AfterEx.ofError
    | (with_reducible refine After.ofSealed (by assumption) ?_)
    | (with_reducible refine After.ofOkPair (by assumption) ?_)
    | (with_reducible refine After.ofOk (by assumption) ?_)
    | with_reducible apply After.fold

theorem execScrubStep_after {b T} (x0) (x1) (x2) (ht : Within 0x6036591908bec1 T) (h3 : After T b x2) :
    AfterOut T b (@execScrubStep x0 x1 x2) := by
  unfold execScrubStep
  try dsimp only
  repeat' first
    | with_reducible assumption
    | with_reducible apply onData_after
    | with_reducible apply State.stepOn_after
    | with_reducible apply State.onStore_after
    | with_reducible apply State.setReg_after
    | with_reducible exact Within.mono ht rfl
    | exact RegIn.block ht (by decide) rfl
    | with_reducible apply AfterRoute.ite
    | split
    | (with_reducible intro _)
    | with_reducible apply AfterOut.ofNext
    | with_reducible apply AfterOpt.ofSome
    | with_reducible exact AfterOpt.ofNone
    | (with_reducible refine After.ofPair (by assumption) ?_)
    | (with_reducible refine After.ofTriple (by assumption) ?_)
    | (with_reducible refine After.ofOpt (by assumption) ?_)
    | with_reducible apply AfterSome.ofSome
    | with_reducible apply AfterRoute.ofSome
    | with_reducible exact AfterRoute.ofNone
    | with_reducible exact AfterSome.ofNone
    | with_reducible apply AfterEx.ofOk
    | with_reducible exact AfterEx.ofError
    | (with_reducible refine After.ofSealed (by assumption) ?_)
    | (with_reducible refine After.ofOkPair (by assumption) ?_)
    | (with_reducible refine After.ofOk (by assumption) ?_)
    | with_reducible apply After.fold

theorem State.acceptReplacement_after {b T} (x0) (x1) (x2) (ht : Within 0x1800000400 T) (h1 : After T b x0) :
    After T b (@State.acceptReplacement x0 x1 x2) := by
  unfold State.acceptReplacement
  try dsimp only
  repeat' first
    | with_reducible assumption
    | with_reducible apply State.showRebuild_after
    | with_reducible apply State.showFailed_after
    | with_reducible apply State.onStore_after
    | with_reducible apply State.setReg_after
    | with_reducible apply State.wr_after
    | with_reducible exact Within.mono ht rfl
    | exact RegIn.block ht (by decide) rfl
    | with_reducible apply AfterRoute.ite
    | split

theorem execReplacementAccept_after {b T} (x0) (x1) (x2) (ht : Within 0x6036591908bec1 T) (h3 : After T b x2) :
    AfterOut T b ((@execReplacementAccept x0 x1 x2)) := by
  unfold execReplacementAccept
  try dsimp only
  repeat' first
    | with_reducible assumption
    | with_reducible apply onData_after
    | with_reducible apply State.acceptReplacement_after
    | with_reducible exact Within.mono ht rfl
    | with_reducible apply AfterRoute.ite
    | split
    | (with_reducible intro _)

theorem execCopyBackStep_after {b T} (x0) (x1) (ht : Within 0x6036591908bec3 T) (h2 : After T b x1) : AfterOut T b (execCopyBackStep x0 x1) := by
  delta execCopyBackStep
  refine onData_after _ _ (ht.mono rfl) h2 fun s h => ?_
  split
  · exact h
  split
  · exact h
  split
  · extract_lets -lift +onlyGivenNames v q
    have hv : After T b v := State.setReg_after _ _ _ (RegIn.block ht (by decide) rfl) h
    split
    · exact hv
    split
    · exact State.setReg_after _ _ _ (RegIn.block ht (by decide) rfl) (State.stepOn_after _ _ _ _ _ _ (ht.mono rfl) hv)
    · exact State.stepOn_after _ _ _ _ _ _ (ht.mono rfl) hv
  · extract_lets -lift +onlyGivenNames t q
    have hu : After T b t := State.setReg_after _ _ _ (RegIn.block ht (by decide) rfl) h
    have hq : After T b q := by
      dsimp only [q]
      split
      · exact State.clearRebuildBits_after _ _ _ _ (ht.mono rfl) (State.queueRwm_after _ _ _ (ht.mono rfl) (State.queueRwm_after _ _ _ (ht.mono rfl) hu))
      · exact hu
    exact State.showRebuild_after _ _ (ht.mono rfl) (State.onStore_after _ _ (ht.mono rfl) hq)

theorem execDeletedExtentDeallocate_after {b T} (x0) (x1) (x2) (ht : Within 0x6036591908bec1 T) (h3 : After T b x2) :
    AfterOut T b (@execDeletedExtentDeallocate x0 x1 x2) := by
  unfold execDeletedExtentDeallocate
  try dsimp only
  repeat' first
    | with_reducible assumption
    | with_reducible apply onData_after
    | with_reducible apply State.deallocStripe_after
    | with_reducible apply State.onStore_after
    | with_reducible exact Within.mono ht rfl
    | exact RegIn.block ht (by decide) rfl
    | with_reducible apply AfterRoute.ite
    | split
    | (with_reducible intro _)
    | with_reducible apply AfterOut.ofNext
    | with_reducible apply AfterOpt.ofSome
    | with_reducible exact AfterOpt.ofNone
    | (with_reducible refine After.ofPair (by assumption) ?_)
    | (with_reducible refine After.ofTriple (by assumption) ?_)
    | (with_reducible refine After.ofOpt (by assumption) ?_)
    | with_reducible apply AfterSome.ofSome
    | with_reducible apply AfterRoute.ofSome
    | with_reducible exact AfterRoute.ofNone
    | with_reducible exact AfterSome.ofNone
    | with_reducible apply AfterEx.ofOk
    | with_reducible exact AfterEx.ofError
    | (with_reducible refine After.ofSealed (by assumption) ?_)
    | (with_reducible refine After.ofOkPair (by assumption) ?_)
    | (with_reducible refine After.ofOk (by assumption) ?_)
    | with_reducible apply After.fold

end Sys2Proof.Machine
end

