-- ==== Sys2Proof/Laws/After/Boundary.lean ====
section
/-! SUPPORT. What the operations of Boundary keep (Laws/After.lean). -/

set_option Elab.async false
set_option linter.all false

namespace Sys2Proof.Machine

theorem State.settleBuckets_after {b T} (x0) (x1) (ht : Within 0x4000000 T) (h1 : After T b x0) :
    After T b (@State.settleBuckets x0 x1) := by
  unfold State.settleBuckets
  try dsimp only
  repeat' first
    | with_reducible assumption
    | with_reducible apply State.each_after
    | with_reducible apply State.setBucket_after
    | with_reducible exact Within.mono ht rfl
    | exact RegIn.block ht (by decide) rfl
    | with_reducible apply AfterRoute.ite
    | split
    | (with_reducible intro _)
    | with_reducible apply AfterOut.ofNext
    | with_reducible apply AfterOpt.ofSome
    | with_reducible exact AfterOpt.ofNone
    | (with_reducible refine After.ofPair (by assumption) ?_)
    | (with_reducible refine After.ofTriple (by assumption) ?_)
    | (with_reducible refine After.ofOpt (by assumption) ?_)
    | with_reducible apply AfterSome.ofSome
    | with_reducible apply AfterRoute.ofSome
    | with_reducible exact AfterRoute.ofNone
    | with_reducible exact AfterSome.ofNone
    | with_reducible apply AfterEx.ofOk
    | with_reducible exact AfterEx.ofError
    | (with_reducible refine After.ofSealed (by assumption) ?_)
    | (with_reducible refine After.ofOkPair (by assumption) ?_)
    | (with_reducible refine After.ofOk (by assumption) ?_)
    | with_reducible apply After.fold

theorem State.applyRwm_after {b T} (x0) (x1) (x2) (ht : Within 0x7fffffe4001000 T) (h1 : After T b x0) :
    After T b (@State.applyRwm x0 x1 x2) := by
  unfold State.applyRwm
  try dsimp only
  repeat' first
    | with_reducible assumption
    | with_reducible apply State.wr_after
    | with_reducible apply State.settleBuckets_after
    | with_reducible apply State.settleCredit_after
    | with_reducible apply State.setCredit_after
    | with_reducible apply State.startWheel_after
    | with_reducible apply State.onLink_after
    | with_reducible exact Within.mono ht rfl
    | exact RegIn.block ht (by decide) rfl
    | exact RegIn.word (by omega) ht (by omega) rfl
    | exact RegIn.all ht rfl
    | with_reducible apply AfterRoute.ite
    | split
    | (with_reducible intro _)
    | with_reducible apply AfterOut.ofNext
    | with_reducible apply AfterOpt.ofSome
    | with_reducible exact AfterOpt.ofNone
    | (with_reducible refine After.ofPair (by assumption) ?_)
    | (with_reducible refine After.ofTriple (by assumption) ?_)
    | (with_reducible refine After.ofOpt (by assumption) ?_)
    | with_reducible apply AfterSome.ofSome
    | with_reducible apply AfterRoute.ofSome
    | with_reducible exact AfterRoute.ofNone
    | with_reducible exact AfterSome.ofNone
    | with_reducible apply AfterEx.ofOk
    | with_reducible exact AfterEx.ofError
    | (with_reducible refine After.ofSealed (by assumption) ?_)
    | (with_reducible refine After.ofOkPair (by assumption) ?_)
    | (with_reducible refine After.ofOk (by assumption) ?_)
    | with_reducible apply After.fold

theorem State.checkWindow_after {b T} (x0) (x1) (x2) (ht : Within 0x603480110010c0 T) (h1 : After T b x0) :
    After T b (@State.checkWindow x0 x1 x2) := by
  unfold State.checkWindow
  dsimp only
  split
  · exact h1
  refine State.plainFault_after _ _ _ _ _ (ht.mono rfl) (State.onLink_after _ _ (ht.mono rfl) ?_)
  have e (s) (a) (r : RegIn a T) (h : After T b s) : After T b (s.setReg a (x1.reg a)) := State.setReg_after _ _ _ r h
  exact e _ _ (RegIn.block ht (by omega) rfl) (e _ _ (RegIn.block ht (by omega) rfl) (e _ _ (RegIn.block ht (by omega) rfl)
    (e _ _ (RegIn.block ht (by omega) rfl) h1)))

theorem State.applyLayout_after {b T} (x0) (x1) (x2) (ht : Within 0x7ffffff50010c0 T) (h1 : After T b x0) :
    After T b (@State.applyLayout x0 x1 x2) := by
  unfold State.applyLayout
  try dsimp only
  repeat' first
    | with_reducible assumption
    | with_reducible apply State.each_after
    | with_reducible apply State.applyRwm_after
    | with_reducible apply State.plainFault_after
    | with_reducible exact Within.mono ht rfl
    | exact RegIn.block ht (by decide) rfl
    | with_reducible apply AfterRoute.ite
    | split
    | (with_reducible intro _)
    | with_reducible apply AfterOut.ofNext
    | with_reducible apply AfterOpt.ofSome
    | with_reducible exact AfterOpt.ofNone
    | (with_reducible refine After.ofPair (by assumption) ?_)
    | (with_reducible refine After.ofTriple (by assumption) ?_)
    | (with_reducible refine After.ofOpt (by assumption) ?_)
    | with_reducible apply AfterSome.ofSome
    | with_reducible apply AfterRoute.ofSome
    | with_reducible exact AfterRoute.ofNone
    | with_reducible exact AfterSome.ofNone
    | with_reducible apply AfterEx.ofOk
    | with_reducible exact AfterEx.ofError
    | (with_reducible refine After.ofSealed (by assumption) ?_)
    | (with_reducible refine After.ofOkPair (by assumption) ?_)
    | (with_reducible refine After.ofOk (by assumption) ?_)
    | with_reducible apply After.fold

theorem State.applyRwms_after {b T} (x0) (x1) (x2) (ht : Within 0x7ffffff50010c2 T) (h1 : After T b x0) :
    After T b (@State.applyRwms x0 x1 x2) := by
  unfold State.applyRwms
  try dsimp only
  repeat' first
    | with_reducible assumption
    | with_reducible apply State.each_after
    | with_reducible apply State.applyRwm_after
    | with_reducible apply State.onRwm_after
    | with_reducible apply State.applyLayout_after
    | with_reducible exact Within.mono ht rfl
    | exact RegIn.block ht (by decide) rfl
    | with_reducible apply AfterRoute.ite
    | split
    | (with_reducible intro _)
    | with_reducible apply AfterOut.ofNext
    | with_reducible apply AfterOpt.ofSome
    | with_reducible exact AfterOpt.ofNone
    | (with_reducible refine After.ofPair (by assumption) ?_)
    | (with_reducible refine After.ofTriple (by assumption) ?_)
    | (with_reducible refine After.ofOpt (by assumption) ?_)
    | with_reducible apply AfterSome.ofSome
    | with_reducible apply AfterRoute.ofSome
    | with_reducible exact AfterRoute.ofNone
    | with_reducible exact AfterSome.ofNone
    | with_reducible apply AfterEx.ofOk
    | with_reducible exact AfterEx.ofError
    | (with_reducible refine After.ofSealed (by assumption) ?_)
    | (with_reducible refine After.ofOkPair (by assumption) ?_)
    | (with_reducible refine After.ofOk (by assumption) ?_)
    | with_reducible apply After.fold

theorem State.applyPolicy_after {b T} (x0) (x1) (ht : Within 0x200 T) (h1 : After T b x0) :
    After T b (@State.applyPolicy x0 x1) := by
  unfold State.applyPolicy
  try dsimp only
  repeat' first
    | with_reducible assumption
    | with_reducible apply State.onNamespace_after
    | with_reducible apply State.onHost_after
    | with_reducible exact Within.mono ht rfl
    | with_reducible apply AfterRoute.ite
    | split

theorem State.applyPolicies_after {b T} (x0) (x1) (ht : Within 0x200 T) (h1 : After T b x0) :
    After T b (@State.applyPolicies x0 x1) := by
  unfold State.applyPolicies
  try dsimp only
  repeat' first
    | with_reducible assumption
    | with_reducible apply State.onHost_after
    | with_reducible apply State.each_after
    | with_reducible apply State.applyPolicy_after
    | with_reducible exact Within.mono ht rfl
    | with_reducible apply AfterRoute.ite
    | split
    | (with_reducible intro _)

theorem State.applyModes_after {b T} (x0) (ht : Within 0x40364911002681 T) (h1 : After T b x0) :
    After T b (@State.applyModes x0) := by
  unfold State.applyModes
  try dsimp only
  repeat' first
    | with_reducible assumption
    | with_reducible apply State.count_after
    | with_reducible apply State.onHost_after
    | with_reducible apply State.each_after
    | with_reducible apply State.closeStripe_after
    | with_reducible apply State.tellAna_after
    | with_reducible apply State.reportAna_after
    | with_reducible exact Within.mono ht rfl
    | exact RegIn.block ht (by decide) rfl
    | with_reducible apply AfterRoute.ite
    | split
    | (with_reducible intro _)

theorem State.configureAtBoundary_after {b T} (x0) (x1) (ht : Within 0x7fffffff99fec3 T) (h1 : After T b x0) :
    After T b (@State.configureAtBoundary x0 x1) := by
  unfold State.configureAtBoundary
  try dsimp only
  repeat' first
    | with_reducible assumption
    | with_reducible apply State.sendXon_after
    | with_reducible apply State.endRehome_after
    | with_reducible apply State.beginSubstitutions_after
    | with_reducible apply State.applyRwms_after
    | with_reducible apply State.commitAtBoundary_after
    | with_reducible apply State.each_after
    | with_reducible apply State.checkWindow_after
    | with_reducible apply State.showRebuild_after
    | with_reducible apply State.layoutEpochs_after
    | with_reducible apply State.advanceEpoch_after
    | with_reducible apply State.switchGates_after
    | with_reducible apply State.applyPolicies_after
    | with_reducible exact Within.mono ht rfl
    | exact RegIn.block ht (by decide) rfl
    | with_reducible apply AfterRoute.ite
    | split
    | (with_reducible intro _)
    | with_reducible apply AfterOut.ofNext
    | with_reducible apply AfterOpt.ofSome
    | with_reducible exact AfterOpt.ofNone
    | (with_reducible refine After.ofPair (by assumption) ?_)
    | (with_reducible refine After.ofTriple (by assumption) ?_)
    | (with_reducible refine After.ofOpt (by assumption) ?_)
    | with_reducible apply AfterSome.ofSome
    | with_reducible apply AfterRoute.ofSome
    | with_reducible exact AfterRoute.ofNone
    | with_reducible exact AfterSome.ofNone
    | with_reducible apply AfterEx.ofOk
    | with_reducible exact AfterEx.ofError
    | (with_reducible refine After.ofSealed (by assumption) ?_)
    | (with_reducible refine After.ofOkPair (by assumption) ?_)
    | (with_reducible refine After.ofOk (by assumption) ?_)
    | with_reducible apply After.fold

theorem State.othersAtBoundary_after {b T} (x0) (x1) (x2) (ht : Within 0x7337cf1968ffc1 T) (h1 : After T b x0) :
    After T b (@State.othersAtBoundary x0 x1 x2) := by
  unfold State.othersAtBoundary
  try dsimp only
  repeat' first
    | with_reducible assumption
    | with_reducible apply State.applyModes_after
    | with_reducible apply State.tokenAtBoundary_after
    | with_reducible apply State.joinAtBoundary_after
    | with_reducible apply State.pairAtBoundary_after
    | with_reducible apply State.onStore_after
    | with_reducible apply State.monitorsAtBoundary_after
    | with_reducible apply State.mcpAtBoundary_after
    | with_reducible apply State.dormantAtBoundary_after
    | with_reducible apply State.endRemovals_after
    | with_reducible apply State.countOverruns_after
    | with_reducible exact Within.mono ht rfl
    | exact RegIn.block ht (by decide) rfl
    | with_reducible apply AfterRoute.ite
    | split
    | (with_reducible intro _)
    | with_reducible apply AfterOut.ofNext
    | with_reducible apply AfterOpt.ofSome
    | with_reducible exact AfterOpt.ofNone
    | (with_reducible refine After.ofPair (by assumption) ?_)
    | (with_reducible refine After.ofTriple (by assumption) ?_)
    | (with_reducible refine After.ofOpt (by assumption) ?_)
    | with_reducible apply AfterSome.ofSome
    | with_reducible apply AfterRoute.ofSome
    | with_reducible exact AfterRoute.ofNone
    | with_reducible exact AfterSome.ofNone
    | with_reducible apply AfterEx.ofOk
    | with_reducible exact AfterEx.ofError
    | (with_reducible refine After.ofSealed (by assumption) ?_)
    | (with_reducible refine After.ofOkPair (by assumption) ?_)
    | (with_reducible refine After.ofOk (by assumption) ?_)
    | with_reducible apply After.fold

theorem State.boundary_after {b T} (x0) (ht : Within 0x7ffffffff9ffd3 T) (h1 : After T b x0) :
    After T b (@State.boundary x0) := by
  unfold State.boundary
  try dsimp only
  repeat' first
    | with_reducible assumption
    | with_reducible apply State.runTo_after
    | with_reducible apply State.addSteps_after
    | with_reducible apply State.onClock_after
    | with_reducible apply State.keepWindows_after
    | with_reducible apply State.sendStateCopy_after
    | with_reducible apply State.configureAtBoundary_after
    | with_reducible apply State.releaseAtBoundary_after
    | with_reducible apply State.applyDecision_after
    | with_reducible apply State.othersAtBoundary_after
    | with_reducible exact Within.mono ht rfl
    | with_reducible apply AfterRoute.ite
    | split

theorem State.dueAction_after {b T} (x0) (ht : Within 0x7fffffffffffff T) (h1 : After T b x0) :
    After T b (@State.dueAction x0) := by
  unfold State.dueAction
  try dsimp only
  repeat' first
    | with_reducible assumption
    | with_reducible apply State.selfCycle_after
    | with_reducible apply State.onMcp_after
    | with_reducible apply State.moduleReset_after
    | with_reducible apply State.clearHistory_after
    | with_reducible exact Within.mono ht rfl
    | with_reducible apply AfterRoute.ite
    | split

end Sys2Proof.Machine
end

