-- ==== Sys2Proof/Laws/After/Direct.lean ====
section
/-! SUPPORT. What the operations of Direct keep (Laws/After.lean). -/

set_option Elab.async false
set_option linter.all false

namespace Sys2Proof.Machine

theorem State.ensureDirect_after {b T} (x0) (ht : Within 0x200 T) (h1 : After T b x0) :
    After T b (@State.ensureDirect x0) := by
  unfold State.ensureDirect
  try dsimp only
  repeat' first
    | with_reducible assumption
    | with_reducible apply State.onHost_after
    | with_reducible exact Within.mono ht rfl
    | with_reducible apply AfterRoute.ite
    | split

theorem State.directFate_after {b T} (x0) (ht : Within 0x40044111002601 T) (h1 : After T b x0) :
    After T b (@State.directFate x0) := by
  unfold State.directFate
  try dsimp only
  repeat' first
    | with_reducible assumption
    | with_reducible apply State.abortCommands_after

theorem State.resetNvme_after {b T} (x0) (ht : Within 0x1000000 T) (h1 : After T b x0) :
    After T b (@State.resetNvme x0) := by
  unfold State.resetNvme
  try dsimp only
  repeat' first
    | with_reducible assumption
    | with_reducible apply State.onDirect_after

theorem State.resetFnRegs_after {b T} (x0) (x1) (ht : Within 0x40044111082601 T) (h1 : After T b x0) :
    After T b (@State.resetFnRegs x0 x1) := by
  unfold State.resetFnRegs
  try dsimp only
  repeat' first
    | with_reducible assumption
    | with_reducible apply State.onFn_after
    | with_reducible apply State.ensureDirect_after
    | with_reducible apply State.resetNvme_after
    | with_reducible apply State.resetController_after
    | with_reducible exact Within.mono ht rfl
    | with_reducible apply AfterRoute.ite
    | split

theorem State.showLatch_after {b T} (x0) (x1) (ht : Within 0x40000000000 T) (h1 : After T b x0) :
    After T b (@State.showLatch x0 x1) := by
  unfold State.showLatch
  try dsimp only
  repeat' first
    | with_reducible assumption
    | with_reducible apply State.wr_after
    | with_reducible exact Within.mono ht rfl
    | exact RegIn.block ht (by decide) rfl

theorem State.quiesce_after {b T} (x0) (x1) (x2) (ht : Within 0x40001000000 T) (h1 : After T b x0) :
    After T b (@State.quiesce x0 x1 x2) := by
  unfold State.quiesce
  try dsimp only
  repeat' first
    | with_reducible assumption
    | with_reducible apply State.wrs_after
    | with_reducible apply State.onDirect_after
    | with_reducible exact Within.mono ht rfl
    | exact RegIn.block ht (by decide) rfl
    | with_reducible apply FieldsIn.cons
    | with_reducible exact FieldsIn.nil
    | with_reducible apply AfterRoute.ite
    | split

theorem State.directFatal_after {b T} (x0) (x1) (ht : Within 0x40044111002601 T) (h1 : After T b x0) :
    After T b (@State.directFatal x0 x1) := by
  unfold State.directFatal
  try dsimp only
  repeat' first
    | with_reducible assumption
    | with_reducible apply State.directFate_after
    | with_reducible apply State.onDirect_after
    | with_reducible exact Within.mono ht rfl
    | with_reducible apply AfterRoute.ite
    | split

theorem State.clearBme_after {b T} (x0) (x1) (ht : Within 0x40044111002601 T) (h1 : After T b x0) :
    After T b (@State.clearBme x0 x1) := by
  unfold State.clearBme
  try dsimp only
  repeat' first
    | with_reducible assumption
    | with_reducible apply State.putCfg_after
    | with_reducible apply State.directFatal_after
    | with_reducible apply State.wr_after
    | with_reducible apply State.quiesce_after
    | with_reducible apply State.showLatch_after
    | with_reducible apply State.onFn_after
    | with_reducible exact Within.mono ht rfl
    | exact RegIn.block ht (by decide) rfl
    | with_reducible apply AfterRoute.ite
    | split

theorem State.setBme_after {b T} (x0) (x1) (ht : Within 0x40040001000000 T) (h1 : After T b x0) :
    After T b (@State.setBme x0 x1) := by
  unfold State.setBme
  try dsimp only
  repeat' first
    | with_reducible assumption
    | with_reducible apply State.putCfg_after
    | with_reducible apply State.showLatch_after
    | with_reducible apply State.onFn_after
    | with_reducible apply State.wrs_after
    | with_reducible apply State.sendDirectReads_after
    | with_reducible exact Within.mono ht rfl
    | exact RegIn.block ht (by decide) rfl
    | with_reducible apply FieldsIn.cons
    | with_reducible exact FieldsIn.nil
    | with_reducible apply AfterRoute.ite
    | split

theorem State.startFlr_after {b T} (x0) (x1) (ht : Within 0x4034411100a681 T) (h1 : After T b x0) :
    After T b (@State.startFlr x0 x1) := by
  unfold State.startFlr
  try dsimp only
  repeat' first
    | with_reducible assumption
    | with_reducible apply State.count_after
    | with_reducible apply State.wr_after
    | with_reducible apply State.quiesce_after
    | with_reducible apply State.showLatch_after
    | with_reducible apply State.onFn_after
    | with_reducible apply State.directFate_after
    | with_reducible apply State.resetMailbox_after
    | with_reducible exact Within.mono ht rfl
    | exact RegIn.block ht (by decide) rfl
    | with_reducible apply AfterRoute.ite
    | split
    | (with_reducible intro _)
    | with_reducible apply AfterOut.ofNext
    | with_reducible apply AfterOpt.ofSome
    | with_reducible exact AfterOpt.ofNone
    | (with_reducible refine After.ofPair (by assumption) ?_)
    | (with_reducible refine After.ofTriple (by assumption) ?_)
    | (with_reducible refine After.ofOpt (by assumption) ?_)
    | with_reducible apply AfterSome.ofSome
    | with_reducible apply AfterRoute.ofSome
    | with_reducible exact AfterRoute.ofNone
    | with_reducible exact AfterSome.ofNone
    | with_reducible apply AfterEx.ofOk
    | with_reducible exact AfterEx.ofError
    | (with_reducible refine After.ofSealed (by assumption) ?_)
    | (with_reducible refine After.ofOkPair (by assumption) ?_)
    | (with_reducible refine After.ofOk (by assumption) ?_)
    | with_reducible apply After.fold

theorem State.enterD3_after {b T} (x0) (x1) (ht : Within 0x40044111002601 T) (h1 : After T b x0) :
    After T b (@State.enterD3 x0 x1) := by
  unfold State.enterD3
  try dsimp only
  repeat' first
    | with_reducible assumption
    | with_reducible apply State.wrs_after
    | with_reducible apply State.directFatal_after
    | with_reducible apply State.quiesce_after
    | with_reducible exact Within.mono ht rfl
    | exact RegIn.block ht (by decide) rfl
    | with_reducible apply FieldsIn.cons
    | with_reducible exact FieldsIn.nil
    | with_reducible apply AfterRoute.ite
    | split

theorem State.returnD0_after {b T} (x0) (x1) (ht : Within 0x40044111082601 T) (h1 : After T b x0) :
    After T b (@State.returnD0 x0 x1) := by
  unfold State.returnD0
  try dsimp only
  repeat' first
    | with_reducible assumption
    | with_reducible apply State.showLatch_after
    | with_reducible apply State.onFn_after
    | with_reducible apply State.wrs_after
    | with_reducible apply State.resetFnRegs_after
    | with_reducible exact Within.mono ht rfl
    | exact RegIn.block ht (by decide) rfl
    | with_reducible apply FieldsIn.cons
    | with_reducible exact FieldsIn.nil
    | with_reducible apply AfterRoute.ite
    | split

theorem State.directCc_after {b T} (x0) (x1) (ht : Within 0x40044111082601 T) (h1 : After T b x0) :
    After T b (@State.directCc x0 x1) := by
  unfold State.directCc
  try dsimp only
  repeat' first
    | with_reducible assumption
    | with_reducible apply State.ensureDirect_after
    | with_reducible apply State.writeCc_after
    | with_reducible apply State.showLatch_after
    | with_reducible apply State.onFn_after
    | with_reducible apply State.onController_after
    | with_reducible apply State.wr_after
    | with_reducible apply State.resetNvme_after
    | with_reducible exact Within.mono ht rfl
    | exact RegIn.block ht (by decide) rfl
    | with_reducible apply AfterRoute.ite
    | split

theorem State.quiesced_after {b T} (x0) (x1) (ht : Within 0x40044111082601 T) (h1 : After T b x0) :
    After T b (@State.quiesced x0 x1) := by
  unfold State.quiesced
  try dsimp only
  repeat' first
    | with_reducible assumption
    | with_reducible apply State.onFn_after
    | with_reducible apply State.wrs_after
    | with_reducible apply State.showLatch_after
    | with_reducible apply State.resetFnRegs_after
    | with_reducible apply State.wr_after
    | with_reducible apply State.setBme_after
    | with_reducible apply State.directCc_after
    | with_reducible exact Within.mono ht rfl
    | exact RegIn.block ht (by decide) rfl
    | with_reducible apply FieldsIn.cons
    | with_reducible exact FieldsIn.nil
    | with_reducible apply AfterRoute.ite
    | split

theorem State.portReset_after {b T} (x0) (x1) (ht : Within 0x4034411108a681 T) (h1 : After T b x0) :
    After T b (@State.portReset x0 x1) := by
  unfold State.portReset
  try dsimp only
  repeat' first
    | with_reducible assumption
    | with_reducible apply State.each_after
    | with_reducible apply State.wrs_after
    | with_reducible apply State.directFate_after
    | with_reducible apply State.onDirect_after
    | with_reducible apply State.resetMailbox_after
    | with_reducible apply State.resetFnRegs_after
    | with_reducible apply State.emit_after
    | with_reducible exact Within.mono ht rfl
    | exact RegIn.block ht (by decide) rfl
    | with_reducible apply FieldsIn.cons
    | with_reducible exact FieldsIn.nil
    | with_reducible apply AfterRoute.ite
    | split
    | (with_reducible intro _)

theorem State.releaseWake_after {b T} (x0) (ht : Within 0x40000000000 T) (h1 : After T b x0) :
    After T b (@State.releaseWake x0) := by
  unfold State.releaseWake
  try dsimp only
  repeat' first
    | with_reducible assumption
    | with_reducible apply State.emit_after
    | with_reducible apply State.wr_after
    | with_reducible exact Within.mono ht rfl
    | exact RegIn.block ht (by decide) rfl
    | with_reducible apply AfterRoute.ite
    | split

theorem execDirPerstDeassert_after {b T} (x0) (ht : Within 0x40001000000 T) (h1 : After T b x0) :
    AfterOut T b (@execDirPerstDeassert x0) := by
  unfold execDirPerstDeassert
  try dsimp only
  repeat' first
    | with_reducible assumption
    | with_reducible apply onAlways_after
    | with_reducible apply State.releaseWake_after
    | with_reducible apply State.wr_after
    | with_reducible apply State.onDirect_after
    | with_reducible apply State.emit_after
    | with_reducible exact Within.mono ht rfl
    | exact RegIn.block ht (by decide) rfl
    | with_reducible apply AfterRoute.ite
    | split
    | (with_reducible intro _)
    | with_reducible apply AfterOut.ofNext
    | with_reducible apply AfterOpt.ofSome
    | with_reducible exact AfterOpt.ofNone
    | (with_reducible refine After.ofPair (by assumption) ?_)
    | (with_reducible refine After.ofTriple (by assumption) ?_)
    | (with_reducible refine After.ofOpt (by assumption) ?_)
    | with_reducible apply AfterSome.ofSome
    | with_reducible apply AfterRoute.ofSome
    | with_reducible exact AfterRoute.ofNone
    | with_reducible exact AfterSome.ofNone
    | with_reducible apply AfterEx.ofOk
    | with_reducible exact AfterEx.ofError
    | (with_reducible refine After.ofSealed (by assumption) ?_)
    | (with_reducible refine After.ofOkPair (by assumption) ?_)
    | (with_reducible refine After.ofOk (by assumption) ?_)
    | with_reducible apply After.fold

theorem execDirPerstAssert_after {b T} (x0) (ht : Within 0x6036591908bec1 T) (h1 : After T b x0) :
    AfterOut T b ((@execDirPerstAssert x0)) := by
  unfold execDirPerstAssert
  try dsimp only
  repeat' first
    | with_reducible assumption
    | with_reducible apply onAlways_after
    | with_reducible apply State.wr_after
    | with_reducible apply State.onDirect_after
    | with_reducible apply State.runJobs_after
    | with_reducible apply State.portReset_after
    | with_reducible apply State.count_after
    | with_reducible exact Within.mono ht rfl
    | exact RegIn.block ht (by decide) rfl
    | with_reducible apply AfterRoute.ite
    | split
    | (with_reducible intro _)

theorem execCablePresenceChange_after {b T} (x0) (x1) (ht : Within 0x6036591908bec1 T) (h2 : After T b x1) :
    AfterOut T b ((@execCablePresenceChange x0 x1)) := by
  unfold execCablePresenceChange
  try dsimp only
  repeat' first
    | with_reducible assumption
    | with_reducible apply onAlways_after
    | with_reducible apply State.wr_after
    | with_reducible apply State.onDirect_after
    | with_reducible apply State.runJobs_after
    | with_reducible apply State.portReset_after
    | with_reducible apply State.emit_after
    | with_reducible exact Within.mono ht rfl
    | exact RegIn.block ht (by decide) rfl
    | with_reducible apply AfterRoute.ite
    | split
    | (with_reducible intro _)

theorem execDirectLinkUp_after {b T} (x0) (x1) (x2) (x3) (ht : Within 0x603400110002c0 T) (h4 : After T b x3) :
    AfterOut T b ((@execDirectLinkUp x0 x1 x2 x3)) := by
  unfold execDirectLinkUp
  try dsimp only
  repeat' first
    | with_reducible assumption
    | with_reducible apply onSoc_after
    | with_reducible apply State.wrs_after
    | with_reducible apply State.flagFault_after
    | with_reducible apply State.ensureDirect_after
    | with_reducible apply State.each_after
    | with_reducible apply State.wr_after
    | with_reducible exact Within.mono ht rfl
    | exact RegIn.block ht (by decide) rfl
    | with_reducible apply FieldsIn.cons
    | with_reducible exact FieldsIn.nil
    | with_reducible apply AfterRoute.ite
    | split
    | (with_reducible intro _)

theorem execHotReset_after {b T} (x0) (ht : Within 0x6036591908bec1 T) (h1 : After T b x0) :
    AfterOut T b ((@execHotReset x0)) := by
  unfold execHotReset
  try dsimp only
  repeat' first
    | with_reducible assumption
    | with_reducible apply onData_after
    | with_reducible apply State.emit_after
    | with_reducible apply State.portReset_after
    | with_reducible apply State.count_after
    | with_reducible apply State.wr_after
    | with_reducible exact Within.mono ht rfl
    | exact RegIn.block ht (by decide) rfl
    | with_reducible apply AfterRoute.ite
    | split
    | (with_reducible intro _)

theorem State.firePending_after {b T} (x0) (x1) (ht : Within 0x40040011000000 T) (h1 : After T b x0) :
    After T b (@State.firePending x0 x1) := by
  unfold State.firePending
  try dsimp only
  repeat' first
    | with_reducible assumption
    | with_reducible apply State.each_after
    | with_reducible apply State.fire_after
    | with_reducible apply State.onFn_after
    | with_reducible exact Within.mono ht rfl
    | with_reducible apply AfterRoute.ite
    | split
    | (with_reducible intro _)

theorem State.cfgWrite_after {b T} (x0) (x1) (x2) (x3) (x4) (ht : Within 0x4034411108a681 T) (h1 : After T b x0) :
    After T b (@State.cfgWrite x0 x1 x2 x3 x4) := by
  unfold State.cfgWrite
  try dsimp only
  repeat' first
    | with_reducible assumption
    | with_reducible apply State.putCfg_after
    | with_reducible apply State.clearBme_after
    | with_reducible apply State.setBme_after
    | with_reducible apply State.onDirect_after
    | with_reducible apply State.enterD3_after
    | with_reducible apply State.returnD0_after
    | with_reducible apply State.firePending_after
    | with_reducible apply State.startFlr_after
    | with_reducible exact Within.mono ht rfl
    | with_reducible apply AfterRoute.ite
    | split

theorem execConfigRequest_after {b T} (x0) (x1) (x2) (x3) (x4) (x5) (ht : Within 0x6036591908bec1 T) (h6 : After T b x5) :
    AfterOut T b ((@execConfigRequest x0 x1 x2 x3 x4 x5)) := by
  unfold execConfigRequest
  try dsimp only
  repeat' first
    | with_reducible assumption
    | with_reducible apply onData_after
    | with_reducible apply State.emit_after
    | with_reducible apply State.cfgWrite_after
    | with_reducible exact Within.mono ht rfl
    | with_reducible apply AfterRoute.ite
    | split
    | (with_reducible intro _)

theorem State.cfgEvent_after {b T} (x0) (x1) (x2) (h1 : After T b x0) (h3 : ∀ y0, After T b y0 → After T b (x2 y0)) :
    After T b (@State.cfgEvent x0 x1 x2) := by
  unfold State.cfgEvent
  try dsimp only
  repeat' first
    | with_reducible assumption
    | with_reducible apply State.emit_after
    | with_reducible apply h3
    | with_reducible apply AfterRoute.ite
    | split

theorem execBusMasterEnableClear_after {b T} (x0) (x1) (ht : Within 0x6036591908bec1 T) (h2 : After T b x1) :
    AfterOut T b ((@execBusMasterEnableClear x0 x1)) := by
  unfold execBusMasterEnableClear
  try dsimp only
  repeat' first
    | with_reducible assumption
    | with_reducible apply onData_after
    | with_reducible apply State.cfgEvent_after
    | with_reducible apply State.clearBme_after
    | with_reducible exact Within.mono ht rfl
    | with_reducible apply AfterRoute.ite
    | split
    | (with_reducible intro _)

theorem execBusMasterEnableSet_after {b T} (x0) (x1) (ht : Within 0x6036591908bec1 T) (h2 : After T b x1) :
    AfterOut T b ((@execBusMasterEnableSet x0 x1)) := by
  unfold execBusMasterEnableSet
  try dsimp only
  repeat' first
    | with_reducible assumption
    | with_reducible apply onData_after
    | with_reducible apply State.cfgEvent_after
    | with_reducible apply State.setBme_after
    | with_reducible exact Within.mono ht rfl
    | with_reducible apply AfterRoute.ite
    | split
    | (with_reducible intro _)

theorem execFunctionLevelReset_after {b T} (x0) (x1) (ht : Within 0x6036591908bec1 T) (h2 : After T b x1) :
    AfterOut T b ((@execFunctionLevelReset x0 x1)) := by
  unfold execFunctionLevelReset
  try dsimp only
  repeat' first
    | with_reducible assumption
    | with_reducible apply onData_after
    | with_reducible apply State.cfgEvent_after
    | with_reducible apply State.startFlr_after
    | with_reducible exact Within.mono ht rfl
    | with_reducible apply AfterRoute.ite
    | split
    | (with_reducible intro _)

theorem execD3hotEntry_after {b T} (x0) (x1) (ht : Within 0x6036591908bec1 T) (h2 : After T b x1) :
    AfterOut T b ((@execD3hotEntry x0 x1)) := by
  unfold execD3hotEntry
  try dsimp only
  repeat' first
    | with_reducible assumption
    | with_reducible apply onData_after
    | with_reducible apply State.cfgEvent_after
    | with_reducible apply State.enterD3_after
    | with_reducible exact Within.mono ht rfl
    | with_reducible apply AfterRoute.ite
    | split
    | (with_reducible intro _)

theorem execD0Return_after {b T} (x0) (x1) (ht : Within 0x6036591908bec1 T) (h2 : After T b x1) :
    AfterOut T b ((@execD0Return x0 x1)) := by
  unfold execD0Return
  try dsimp only
  repeat' first
    | with_reducible assumption
    | with_reducible apply onData_after
    | with_reducible apply State.cfgEvent_after
    | with_reducible apply State.returnD0_after
    | with_reducible exact Within.mono ht rfl
    | with_reducible apply AfterRoute.ite
    | split
    | (with_reducible intro _)

theorem execFlrTimeout_after {b T} (x0) (x1) (ht : Within 0x603400110000c0 T) (h2 : After T b x1) :
    AfterOut T b (@execFlrTimeout x0 x1) := by
  unfold execFlrTimeout
  try dsimp only
  repeat' first
    | with_reducible assumption
    | with_reducible apply onSoc_after
    | with_reducible apply State.plainFault_after
    | with_reducible exact Within.mono ht rfl
    | exact RegIn.block ht (by decide) rfl
    | with_reducible apply AfterRoute.ite
    | split
    | (with_reducible intro _)
    | with_reducible apply AfterOut.ofNext
    | with_reducible apply AfterOpt.ofSome
    | with_reducible exact AfterOpt.ofNone
    | (with_reducible refine After.ofPair (by assumption) ?_)
    | (with_reducible refine After.ofTriple (by assumption) ?_)
    | (with_reducible refine After.ofOpt (by assumption) ?_)
    | with_reducible apply AfterSome.ofSome
    | with_reducible apply AfterRoute.ofSome
    | with_reducible exact AfterRoute.ofNone
    | with_reducible exact AfterSome.ofNone
    | with_reducible apply AfterEx.ofOk
    | with_reducible exact AfterEx.ofError
    | (with_reducible refine After.ofSealed (by assumption) ?_)
    | (with_reducible refine After.ofOkPair (by assumption) ?_)
    | (with_reducible refine After.ofOk (by assumption) ?_)
    | with_reducible apply After.fold

theorem execFunctionQuiesced_after {b T} (x0) (x1) (ht : Within 0x6036591908bec1 T) (h2 : After T b x1) :
    AfterOut T b ((@execFunctionQuiesced x0 x1)) := by
  unfold execFunctionQuiesced
  try dsimp only
  repeat' first
    | with_reducible assumption
    | with_reducible apply onData_after
    | with_reducible apply State.quiesced_after
    | with_reducible exact Within.mono ht rfl
    | with_reducible apply AfterRoute.ite
    | split
    | (with_reducible intro _)

theorem State.sqDoorbell_after {b T} (x0) (x1) (x2) (x3) (ht : Within 0x40040001000000 T) (h1 : After T b x0) :
    After T b (@State.sqDoorbell x0 x1 x2 x3) := by
  unfold State.sqDoorbell
  try dsimp only
  repeat' first
    | with_reducible assumption
    | with_reducible apply State.onDirect_after
    | with_reducible apply State.each_after
    | with_reducible apply State.directFetch_after
    | with_reducible exact Within.mono ht rfl
    | with_reducible apply AfterRoute.ite
    | split
    | (with_reducible intro _)

theorem execSqDoorbell_after {b T} (x0) (x1) (x2) (x3) (ht : Within 0x6036591908bec1 T) (h4 : After T b x3) :
    AfterOut T b ((@execSqDoorbell x0 x1 x2 x3)) := by
  unfold execSqDoorbell
  try dsimp only
  repeat' first
    | with_reducible assumption
    | with_reducible apply onData_after
    | with_reducible apply State.sqDoorbell_after
    | with_reducible exact Within.mono ht rfl
    | with_reducible apply AfterRoute.ite
    | split
    | (with_reducible intro _)

theorem State.endDirectRead_after {b T} (x0) (x1) (ht : Within 0x40040001000000 T) (h1 : After T b x0) :
    After T b (@State.endDirectRead x0 x1) := by
  unfold State.endDirectRead
  try dsimp only
  repeat' first
    | with_reducible assumption
    | with_reducible apply State.sendDirectReads_after
    | with_reducible apply State.showDirectReads_after
    | with_reducible apply State.onDirect_after
    | with_reducible exact Within.mono ht rfl

theorem State.directArrives_after {b T} (x0) (x1) (x2) (ht : Within 0x40165911003e01 T) (h1 : After T b x0) :
    After T b (@State.directArrives x0 x1 x2) := by
  unfold State.directArrives
  try dsimp only
  repeat' first
    | with_reducible assumption
    | with_reducible apply State.moved_after
    | with_reducible apply State.event_after
    | with_reducible apply State.onDirect_after
    | with_reducible apply State.wr_after
    | with_reducible apply State.count_after
    | with_reducible apply State.endDirectRead_after
    | with_reducible apply State.dataArrives_after
    | with_reducible apply State.emit_after
    | with_reducible exact Within.mono ht rfl
    | exact RegIn.block ht (by decide) rfl
    | with_reducible apply AfterRoute.ite
    | split

theorem execDirectReadCompletion_after {b T} (x0) (x1) (x2) (ht : Within 0x6036591908bec1 T) (h3 : After T b x2) :
    AfterOut T b ((@execDirectReadCompletion x0 x1 x2)) := by
  unfold execDirectReadCompletion
  try dsimp only
  repeat' first
    | with_reducible assumption
    | with_reducible apply onData_after
    | with_reducible apply State.directArrives_after
    | with_reducible exact Within.mono ht rfl
    | with_reducible apply AfterRoute.ite
    | split
    | (with_reducible intro _)

theorem execDirectCompletionTimeout_after {b T} (x0) (x1) (ht : Within 0x6036591908bec1 T) (h2 : After T b x1) :
    AfterOut T b (@execDirectCompletionTimeout x0 x1) := by
  unfold execDirectCompletionTimeout
  try dsimp only
  repeat' first
    | with_reducible assumption
    | with_reducible apply onData_after
    | with_reducible apply State.endDirectRead_after
    | with_reducible apply State.wr_after
    | with_reducible apply State.count_after
    | with_reducible apply State.endCommand_after
    | with_reducible exact Within.mono ht rfl
    | exact RegIn.block ht (by decide) rfl
    | with_reducible apply AfterRoute.ite
    | split
    | (with_reducible intro _)
    | with_reducible apply AfterOut.ofNext
    | with_reducible apply AfterOpt.ofSome
    | with_reducible exact AfterOpt.ofNone
    | (with_reducible refine After.ofPair (by assumption) ?_)
    | (with_reducible refine After.ofTriple (by assumption) ?_)
    | (with_reducible refine After.ofOpt (by assumption) ?_)
    | with_reducible apply AfterSome.ofSome
    | with_reducible apply AfterRoute.ofSome
    | with_reducible exact AfterRoute.ofNone
    | with_reducible exact AfterSome.ofNone
    | with_reducible apply AfterEx.ofOk
    | with_reducible exact AfterEx.ofError
    | (with_reducible refine After.ofSealed (by assumption) ?_)
    | (with_reducible refine After.ofOkPair (by assumption) ?_)
    | (with_reducible refine After.ofOk (by assumption) ?_)
    | with_reducible apply After.fold

theorem State.writeNvme_after {b T} (x0) (x1) (x2) (ht : Within 0x40044111082601 T) (h1 : After T b x0) :
    After T b (@State.writeNvme x0 x1 x2) := by
  unfold State.writeNvme
  try dsimp only
  repeat' first
    | with_reducible assumption
    | with_reducible apply State.onDirect_after
    | with_reducible apply State.directCc_after
    | with_reducible exact Within.mono ht rfl
    | with_reducible apply AfterRoute.ite
    | split

theorem State.nvmeDoorbell_after {b T} (x0) (x1) (x2) (ht : Within 0x40040001000001 T) (h1 : After T b x0) :
    After T b (@State.nvmeDoorbell x0 x1 x2) := by
  unfold State.nvmeDoorbell
  try dsimp only
  repeat' first
    | with_reducible assumption
    | with_reducible apply State.onDirect_after
    | with_reducible apply State.sqDoorbell_after
    | with_reducible apply State.draw_after
    | with_reducible exact Within.mono ht rfl
    | with_reducible apply AfterRoute.ite
    | split

theorem State.writeMsix_after {b T} (x0) (x1) (x2) (x3) (ht : Within 0x40040011000000 T) (h1 : After T b x0) :
    After T b (@State.writeMsix x0 x1 x2 x3) := by
  unfold State.writeMsix
  try dsimp only
  repeat' first
    | with_reducible assumption
    | with_reducible apply State.firePending_after
    | with_reducible apply State.onFn_after
    | with_reducible exact Within.mono ht rfl

end Sys2Proof.Machine
end

