-- ==== Sys2Proof/Laws/After/MemIntegrity.lean ====
section
/-! SUPPORT. What the operations of MemIntegrity keep (Laws/After.lean). -/

set_option Elab.async false
set_option linter.all false

namespace Sys2Proof.Machine

theorem State.fillBucket_after {b T} (x0) (x1) (x2) (ht : Within 0x703400110000c0 T) (h1 : After T b x0) :
    After T b (@State.fillBucket x0 x1 x2) := by
  unfold State.fillBucket
  try dsimp only
  repeat' first
    | with_reducible assumption
    | with_reducible apply State.wr_after
    | with_reducible apply State.setReg_after
    | with_reducible apply State.integrityFault_after
    | with_reducible apply State.emit_after
    | with_reducible exact Within.mono ht rfl
    | exact RegIn.block ht (by decide) rfl
    | with_reducible apply AfterRoute.ite
    | split

theorem State.bucketEvent_after {b T} (x0) (x1) (x2) (x3) (ht : Within 0x703400110000c0 T) (h1 : After T b x0) :
    After T b (@State.bucketEvent x0 x1 x2 x3) := by
  unfold State.bucketEvent
  try dsimp only
  repeat' first
    | with_reducible assumption
    | with_reducible apply State.fillBucket_after
    | with_reducible exact Within.mono ht rfl
    | with_reducible apply AfterRoute.ite
    | split

theorem State.recovered_after {b T} (x0) (x1) (x2) (x3) (x4) (ht : Within 0x703400110000c0 T) (h1 : After T b x0) :
    After T b (@State.recovered x0 x1 x2 x3 x4) := by
  unfold State.recovered
  try dsimp only
  repeat' first
    | with_reducible assumption
    | with_reducible apply State.bucketEvent_after
    | with_reducible apply State.integrityFault_after
    | with_reducible apply State.count_after
    | with_reducible exact Within.mono ht rfl
    | exact RegIn.block ht (by decide) rfl

theorem State.toldOwner_after {b T} (x0) (x1) (x2) (x3) (ht : Within 0x603400110000c0 T) (h1 : After T b x0) :
    After T b (@State.toldOwner x0 x1 x2 x3) := by
  unfold State.toldOwner
  try dsimp only
  repeat' first
    | with_reducible assumption
    | with_reducible apply State.integrityFault_after

theorem State.fatalError_after {b T} (x0) (x1) (x2) (x3) (ht : Within 0x703400110000c0 T) (h1 : After T b x0) :
    After T b (@State.fatalError x0 x1 x2 x3) := by
  unfold State.fatalError
  try dsimp only
  repeat' first
    | with_reducible assumption
    | with_reducible apply State.integrityFault_after
    | with_reducible apply State.count_after
    | with_reducible apply State.wr_after
    | with_reducible exact Within.mono ht rfl
    | exact RegIn.block ht (by decide) rfl

theorem State.useTest_after {b T} (x0) (x1) (x2) (ht : Within 0x10000000000000 T) (h1 : After T b x0) :
    After T b (@State.useTest x0 x1 x2) := by
  unfold State.useTest
  try dsimp only
  repeat' first
    | with_reducible assumption
    | with_reducible apply State.count_after
    | with_reducible apply State.wrs_after
    | with_reducible exact Within.mono ht rfl
    | exact RegIn.block ht (by decide) rfl
    | with_reducible apply FieldsIn.cons
    | with_reducible exact FieldsIn.nil
    | with_reducible apply AfterRoute.ite
    | split

theorem State.recordError_after {b T} (x0) (x1) (x2) (x3) (x4) (ht : Within 0x50000000000000 T) (h1 : After T b x0) :
    After T b (@State.recordError x0 x1 x2 x3 x4) := by
  unfold State.recordError
  try dsimp only
  repeat' first
    | with_reducible assumption
    | with_reducible apply State.wr_after
    | with_reducible apply State.wrs_after
    | with_reducible apply State.event_after
    | with_reducible apply State.count_after
    | with_reducible apply State.setReg_after
    | with_reducible exact Within.mono ht rfl
    | exact RegIn.block ht (by decide) rfl
    | with_reducible apply FieldsIn.cons
    | with_reducible exact FieldsIn.nil
    | with_reducible apply AfterRoute.ite
    | split

theorem State.endDescriptor_after {b T} (x0) (x1) (x2) (ht : Within 0x7834801901d2c1 T) (h1 : After T b x0) :
    After T b (@State.endDescriptor x0 x1 x2) := by
  unfold State.endDescriptor
  try dsimp only
  repeat' first
    | with_reducible assumption
    | with_reducible apply State.ewqFinish_after
    | with_reducible exact Within.mono ht rfl
    | with_reducible apply AfterRoute.ite
    | split

theorem State.badRead_after {b T} (x0) (x1) (x2) (ht : Within 0x7834801b81d2c1 T) (h1 : After T b x0) :
    After T b (@State.badRead x0 x1 x2) := by
  unfold State.badRead
  try dsimp only
  repeat' first
    | with_reducible assumption
    | with_reducible apply State.onFrame_after
    | with_reducible apply State.endDescriptor_after
    | with_reducible apply State.emit_after
    | with_reducible apply State.dropLine_after
    | with_reducible exact Within.mono ht rfl
    | with_reducible apply AfterRoute.ite
    | split

theorem State.askPeer_after {b T} (x0) (x1) (h1 : After T b x0) :
    After T b (@State.askPeer x0 x1) := by
  unfold State.askPeer
  try dsimp only
  repeat' first
    | with_reducible assumption
    | with_reducible apply State.emit_after
    | with_reducible apply AfterRoute.ite
    | split

theorem State.dropRecovery_after {b T} (x0) (x1) (ht : Within 0x8000000 T) (h1 : After T b x0) :
    After T b (@State.dropRecovery x0 x1) := by
  unfold State.dropRecovery
  try dsimp only
  repeat' first
    | with_reducible assumption
    | with_reducible apply State.onIntegrity_after

theorem State.lineGood_after {b T} (x0) (x1) (ht : Within 0x8000000 T) (h1 : After T b x0) :
    After T b (@State.lineGood x0 x1) := by
  unfold State.lineGood
  try dsimp only
  repeat' first
    | with_reducible assumption
    | with_reducible apply State.onIntegrity_after

theorem State.lastResort_after {b T} (x0) (x1) (ht : Within 0x1000000400 T) (h1 : After T b x0) :
    After T b (@State.lastResort x0 x1) := by
  unfold State.lastResort
  try dsimp only
  repeat' first
    | with_reducible assumption
    | with_reducible apply State.onStore_after
    | with_reducible apply State.showRebuild_after
    | with_reducible apply State.setReg_after
    | with_reducible exact Within.mono ht rfl
    | exact RegIn.block ht (by decide) rfl
    | with_reducible apply AfterRoute.ite
    | split
    | (with_reducible intro _)
    | with_reducible apply AfterOut.ofNext
    | with_reducible apply AfterOpt.ofSome
    | with_reducible exact AfterOpt.ofNone
    | (with_reducible refine After.ofPair (by assumption) ?_)
    | (with_reducible refine After.ofTriple (by assumption) ?_)
    | (with_reducible refine After.ofOpt (by assumption) ?_)
    | with_reducible apply AfterSome.ofSome
    | with_reducible apply AfterRoute.ofSome
    | with_reducible exact AfterRoute.ofNone
    | with_reducible exact AfterSome.ofNone
    | with_reducible apply AfterEx.ofOk
    | with_reducible exact AfterEx.ofError
    | (with_reducible refine After.ofSealed (by assumption) ?_)
    | (with_reducible refine After.ofOkPair (by assumption) ?_)
    | (with_reducible refine After.ofOk (by assumption) ?_)
    | with_reducible apply After.fold

theorem State.loseCopy_after {b T} (x0) (x1) (x2) (x3) (ht : Within 0x703450110006c0 T) (h1 : After T b x0) :
    After T b (@State.loseCopy x0 x1 x2 x3) := by
  unfold State.loseCopy
  try dsimp only
  repeat' first
    | with_reducible assumption
    | with_reducible apply State.showDirty_after
    | with_reducible apply State.onStore_after
    | with_reducible apply State.failCommand_after
    | with_reducible apply State.loseRow_after
    | with_reducible apply State.bucketEvent_after
    | with_reducible apply State.integrityFault_after
    | with_reducible apply State.count_after
    | with_reducible exact Within.mono ht rfl
    | exact RegIn.block ht (by decide) rfl
    | with_reducible apply AfterRoute.ite
    | split

theorem State.noSource_after {b T} (x0) (x1) (ht : Within 0x703450190006c0 T) (h1 : After T b x0) :
    After T b (@State.noSource x0 x1) := by
  unfold State.noSource
  try dsimp only
  repeat' first
    | with_reducible assumption
    | with_reducible apply State.dropRecovery_after
    | with_reducible apply State.loseCopy_after
    | with_reducible apply State.toldOwner_after
    | with_reducible apply State.showDirty_after
    | with_reducible apply State.onStore_after
    | with_reducible exact Within.mono ht rfl
    | with_reducible apply AfterRoute.ite
    | split

theorem State.nextSource_after {b T} (x0) (x1) (ht : Within 0x703450190006c0 T) (h1 : After T b x0) :
    After T b (@State.nextSource x0 x1) := by
  unfold State.nextSource
  try dsimp only
  repeat' first
    | with_reducible assumption
    | with_reducible apply State.noSource_after
    | with_reducible apply State.askPeer_after
    | with_reducible apply State.recovered_after
    | with_reducible apply State.lineGood_after
    | with_reducible apply State.lastResort_after
    | with_reducible apply State.dropRecovery_after
    | with_reducible exact Within.mono ht rfl
    | with_reducible apply AfterRoute.ite
    | split

theorem State.startRecovery_after {b T} (x0) (x1) (x2) (x3) (x4) (ht : Within 0x703450190006c0 T) (h1 : After T b x0) :
    After T b (@State.startRecovery x0 x1 x2 x3 x4) := by
  unfold State.startRecovery
  try dsimp only
  repeat' first
    | with_reducible assumption
    | with_reducible apply State.nextSource_after
    | with_reducible apply State.onIntegrity_after
    | with_reducible exact Within.mono ht rfl
    | exact RegIn.block ht (by decide) rfl
    | with_reducible apply AfterRoute.ite
    | split
    | (with_reducible intro _)
    | with_reducible apply AfterOut.ofNext
    | with_reducible apply AfterOpt.ofSome
    | with_reducible exact AfterOpt.ofNone
    | (with_reducible refine After.ofPair (by assumption) ?_)
    | (with_reducible refine After.ofTriple (by assumption) ?_)
    | (with_reducible refine After.ofOpt (by assumption) ?_)
    | with_reducible apply AfterSome.ofSome
    | with_reducible apply AfterRoute.ofSome
    | with_reducible exact AfterRoute.ofNone
    | with_reducible exact AfterSome.ofNone
    | with_reducible apply AfterEx.ofOk
    | with_reducible exact AfterEx.ofError
    | (with_reducible refine After.ofSealed (by assumption) ?_)
    | (with_reducible refine After.ofOkPair (by assumption) ?_)
    | (with_reducible refine After.ofOk (by assumption) ?_)
    | with_reducible apply After.fold

theorem State.sourceFailed_after {b T} (x0) (x1) (ht : Within 0x703450190006c0 T) (h1 : After T b x0) :
    After T b (@State.sourceFailed x0 x1) := by
  unfold State.sourceFailed
  try dsimp only
  repeat' first
    | with_reducible assumption
    | with_reducible apply State.nextSource_after
    | with_reducible apply State.onIntegrity_after
    | with_reducible exact Within.mono ht rfl
    | exact RegIn.block ht (by decide) rfl
    | with_reducible apply AfterRoute.ite
    | split
    | (with_reducible intro _)
    | with_reducible apply AfterOut.ofNext
    | with_reducible apply AfterOpt.ofSome
    | with_reducible exact AfterOpt.ofNone
    | (with_reducible refine After.ofPair (by assumption) ?_)
    | (with_reducible refine After.ofTriple (by assumption) ?_)
    | (with_reducible refine After.ofOpt (by assumption) ?_)
    | with_reducible apply AfterSome.ofSome
    | with_reducible apply AfterRoute.ofSome
    | with_reducible exact AfterRoute.ofNone
    | with_reducible exact AfterSome.ofNone
    | with_reducible apply AfterEx.ofOk
    | with_reducible exact AfterEx.ofError
    | (with_reducible refine After.ofSealed (by assumption) ?_)
    | (with_reducible refine After.ofOkPair (by assumption) ?_)
    | (with_reducible refine After.ofOk (by assumption) ?_)
    | with_reducible apply After.fold

theorem State.contextLost_after {b T} (x0) (x1) (x2) (x3) (x4) (ht : Within 0x703441190866c1 T) (h1 : After T b x0) :
    After T b (@State.contextLost x0 x1 x2 x3 x4) := by
  unfold State.contextLost
  try dsimp only
  repeat' first
    | with_reducible assumption
    | with_reducible apply State.onRdma_after
    | with_reducible apply State.toldOwner_after
    | with_reducible apply State.queuePairError_after
    | with_reducible exact Within.mono ht rfl
    | exact RegIn.block ht (by decide) rfl
    | with_reducible apply AfterRoute.ite
    | split
    | (with_reducible intro _)
    | with_reducible apply AfterOut.ofNext
    | with_reducible apply AfterOpt.ofSome
    | with_reducible exact AfterOpt.ofNone
    | (with_reducible refine After.ofPair (by assumption) ?_)
    | (with_reducible refine After.ofTriple (by assumption) ?_)
    | (with_reducible refine After.ofOpt (by assumption) ?_)
    | with_reducible apply AfterSome.ofSome
    | with_reducible apply AfterRoute.ofSome
    | with_reducible exact AfterRoute.ofNone
    | with_reducible exact AfterSome.ofNone
    | with_reducible apply AfterEx.ofOk
    | with_reducible exact AfterEx.ofError
    | (with_reducible refine After.ofSealed (by assumption) ?_)
    | (with_reducible refine After.ofOkPair (by assumption) ?_)
    | (with_reducible refine After.ofOk (by assumption) ?_)
    | with_reducible apply After.fold

theorem State.breakFrame_after {b T} (x0) (x1) (ht : Within 0x603402170000c1 T) (h1 : After T b x0) :
    After T b (@State.breakFrame x0 x1) := by
  unfold State.breakFrame
  try dsimp only
  repeat' first
    | with_reducible assumption
    | with_reducible apply State.emit_after
    | with_reducible apply State.switchDrop_after
    | with_reducible apply State.sendXon_after
    | with_reducible apply State.showPools_after
    | with_reducible apply State.onFrame_after
    | with_reducible apply State.retryWaiting_after
    | with_reducible apply State.dropFrame_after
    | with_reducible exact Within.mono ht rfl
    | with_reducible apply AfterRoute.ite
    | split

theorem State.dropAccumulator_after {b T} (x0) (x1) (x2) (ht : Within 0x40020810000400 T) (h1 : After T b x0) :
    After T b (@State.dropAccumulator x0 x1 x2) := by
  unfold State.dropAccumulator
  try dsimp only
  repeat' first
    | with_reducible assumption
    | with_reducible apply State.event_after
    | with_reducible apply State.journalRecord_after
    | with_reducible apply State.onStore_after
    | with_reducible apply State.onStripe_after
    | with_reducible apply State.showOpen_after
    | with_reducible apply State.each_after
    | with_reducible apply State.count_after
    | with_reducible apply State.rowParity_after
    | with_reducible apply State.startJob_after
    | with_reducible exact Within.mono ht rfl
    | exact RegIn.block ht (by decide) rfl
    | with_reducible apply AfterRoute.ite
    | split
    | (with_reducible intro _)

theorem State.cacheError_after {b T} (x0) (x1) (x2) (x3) (x4) (x5) (x6) (ht : Within 0x4000000000000 T) (h1 : After T b x0) :
    After T b (@State.cacheError x0 x1 x2 x3 x4 x5 x6) := by
  unfold State.cacheError
  try dsimp only
  repeat' first
    | with_reducible assumption
    | with_reducible apply State.wrs_after
    | with_reducible exact Within.mono ht rfl
    | exact RegIn.block ht (by omega) (by with_reducible exact blockMask_clu rfl)
    | with_reducible apply FieldsIn.cons
    | with_reducible exact FieldsIn.nil

theorem State.cacheFatal_after {b T} (x0) (x1) (x2) (x3) (ht : Within 0x7fffffffffffff T) (h1 : After T b x0) :
    After T b (@State.cacheFatal x0 x1 x2 x3) := by
  unfold State.cacheFatal
  try dsimp only
  repeat' first
    | with_reducible assumption
    | with_reducible apply State.emits_after
    | with_reducible apply State.onCaches_after
    | with_reducible apply State.bucketEvent_after
    | with_reducible apply State.fatalError_after
    | with_reducible apply State.count_after
    | with_reducible apply State.resetPartition_after
    | with_reducible apply State.takeStep3_after
    | with_reducible exact Within.mono ht rfl
    | exact RegIn.block ht (by omega) (by with_reducible exact blockMask_clu rfl)
    | exact RegIn.all ht rfl
    | with_reducible apply AfterRoute.ite
    | split

theorem State.poisonLine_after {b T} (x0) (x1) (ht : Within 0x10000008804000 T) (h1 : After T b x0) :
    After T b (@State.poisonLine x0 x1) := by
  unfold State.poisonLine
  try dsimp only
  repeat' first
    | with_reducible assumption
    | with_reducible apply State.onIntegrity_after
    | with_reducible apply State.dropLine_after
    | with_reducible apply State.storeBytes_after
    | with_reducible exact Within.mono ht rfl

theorem State.cacheParity_after {b T} (x0) (x1) (x2) (x3) (x4) (x5) (x6) (x7) (ht : Within 0x7fffffffffffff T) (h1 : After T b x0) :
    After T b (@State.cacheParity x0 x1 x2 x3 x4 x5 x6 x7) := by
  unfold State.cacheParity
  try dsimp only
  repeat' first
    | with_reducible assumption
    | with_reducible apply State.cacheError_after
    | with_reducible apply State.recovered_after
    | with_reducible apply State.count_after
    | with_reducible apply State.putCache_after
    | with_reducible apply State.evictFromCluster_after
    | with_reducible apply State.poisonLine_after
    | with_reducible apply State.cacheFatal_after
    | with_reducible exact Within.mono ht rfl
    | exact RegIn.block ht (by omega) (by with_reducible exact blockMask_clu rfl)
    | exact RegIn.all ht rfl
    | with_reducible apply AfterRoute.ite
    | split

theorem State.rebuildDirectory_after {b T} (x0) (x1) (ht : Within 0x4000000400 T) (h1 : After T b x0) :
    After T b (@State.rebuildDirectory x0 x1) := by
  unfold State.rebuildDirectory
  try dsimp only
  repeat' first
    | with_reducible assumption
    | with_reducible apply State.showDirty_after
    | with_reducible apply State.onStore_after
    | with_reducible exact Within.mono ht rfl
    | exact RegIn.block ht (by decide) rfl
    | with_reducible apply AfterRoute.ite
    | split
    | (with_reducible intro _)
    | with_reducible apply AfterOut.ofNext
    | with_reducible apply AfterOpt.ofSome
    | with_reducible exact AfterOpt.ofNone
    | (with_reducible refine After.ofPair (by assumption) ?_)
    | (with_reducible refine After.ofTriple (by assumption) ?_)
    | (with_reducible refine After.ofOpt (by assumption) ?_)
    | with_reducible apply AfterSome.ofSome
    | with_reducible apply AfterRoute.ofSome
    | with_reducible exact AfterRoute.ofNone
    | with_reducible exact AfterSome.ofNone
    | with_reducible apply AfterEx.ofOk
    | with_reducible exact AfterEx.ofError
    | (with_reducible refine After.ofSealed (by assumption) ?_)
    | (with_reducible refine After.ofOkPair (by assumption) ?_)
    | (with_reducible refine After.ofOk (by assumption) ?_)
    | with_reducible apply After.fold

theorem State.ronhenkoMemory_after {b T} (x0) (x1) (x2) (x3) (x4) (x5) (ht : Within 0x7fffffffffffff T) (h1 : After T b x0) :
    After T b (@State.ronhenkoMemory x0 x1 x2 x3 x4 x5) := by
  unfold State.ronhenkoMemory
  try dsimp only
  repeat' first
    | with_reducible assumption
    | with_reducible apply State.recovered_after
    | with_reducible apply State.takeStep3_after
    | with_reducible apply State.fatalError_after
    | with_reducible exact Within.mono ht rfl
    | with_reducible apply AfterRoute.ite
    | split

theorem State.haltRing_after {b T} (x0) (x1) (x2) (x3) (x4) (ht : Within 0x683400110100c0 T) (h1 : After T b x0) :
    After T b (@State.haltRing x0 x1 x2 x3 x4) := by
  unfold State.haltRing
  try dsimp only
  repeat' first
    | with_reducible assumption
    | with_reducible apply State.toldOwner_after
    | with_reducible apply State.ewqHalt_after
    | with_reducible exact Within.mono ht rfl

theorem State.recoverNow_after {b T} (x0) (x1) (x2) (x3) (ht : Within 0x7fffffffffffff T) (h1 : After T b x0) :
    After T b (@State.recoverNow x0 x1 x2 x3) := by
  unfold State.recoverNow
  try dsimp only
  repeat' first
    | with_reducible assumption
    | with_reducible apply State.recovered_after
    | with_reducible apply State.rebuildDirectory_after
    | with_reducible apply State.ronhenkoMemory_after
    | with_reducible apply State.contextLost_after
    | with_reducible apply State.onFrame_after
    | with_reducible apply State.dropAccumulator_after
    | with_reducible apply State.breakFrame_after
    | with_reducible apply State.onSwitch_after
    | with_reducible apply State.toldOwner_after
    | with_reducible apply State.queuePairError_after
    | with_reducible apply State.endSession_after
    | with_reducible apply State.cacheParity_after
    | with_reducible apply State.prefetch_after
    | with_reducible apply State.putEngineQueue_after
    | with_reducible apply State.haltRing_after
    | with_reducible apply State.onIntegrity_after
    | with_reducible exact Within.mono ht rfl
    | exact RegIn.block ht (by decide) rfl
    | with_reducible apply AfterRoute.ite
    | split
    | (with_reducible intro _)
    | with_reducible apply AfterOut.ofNext
    | with_reducible apply AfterOpt.ofSome
    | with_reducible exact AfterOpt.ofNone
    | (with_reducible refine After.ofPair (by assumption) ?_)
    | (with_reducible refine After.ofTriple (by assumption) ?_)
    | (with_reducible refine After.ofOpt (by assumption) ?_)
    | with_reducible apply AfterSome.ofSome
    | with_reducible apply AfterRoute.ofSome
    | with_reducible exact AfterRoute.ofNone
    | with_reducible exact AfterSome.ofNone
    | with_reducible apply AfterEx.ofOk
    | with_reducible exact AfterEx.ofError
    | (with_reducible refine After.ofSealed (by assumption) ?_)
    | (with_reducible refine After.ofOkPair (by assumption) ?_)
    | (with_reducible refine After.ofOk (by assumption) ?_)
    | with_reducible apply After.fold

theorem State.parityError_after {b T} (x0) (x1) (x2) (x3) (x4) (ht : Within 0x7fffffffffffff T) (h1 : After T b x0) :
    After T b (@State.parityError x0 x1 x2 x3 x4) := by
  unfold State.parityError
  try dsimp only
  repeat' first
    | with_reducible assumption
    | with_reducible apply State.badRead_after
    | with_reducible apply State.onIntegrity_after
    | with_reducible apply State.recordError_after
    | with_reducible apply State.useTest_after
    | with_reducible apply State.startRecovery_after
    | with_reducible apply State.recoverNow_after
    | with_reducible exact Within.mono ht rfl
    | with_reducible apply AfterRoute.ite
    | split

theorem execParityError_after {b T} (x0) (x1) (x2) (x3) (x4) (ht : Within 0x7fffffffffffff T) (h5 : After T b x4) :
    AfterOut T b ((@execParityError x0 x1 x2 x3 x4)) := by
  unfold execParityError
  try dsimp only
  repeat' first
    | with_reducible assumption
    | with_reducible apply onData_after
    | with_reducible apply State.parityError_after
    | with_reducible exact Within.mono ht rfl
    | with_reducible apply AfterRoute.ite
    | split
    | (with_reducible intro _)

theorem execRecoveryComplete_after {b T} (x0) (x1) (x2) (ht : Within 0x7036591908bec1 T) (h3 : After T b x2) :
    AfterOut T b ((@execRecoveryComplete x0 x1 x2)) := by
  unfold execRecoveryComplete
  try dsimp only
  repeat' first
    | with_reducible assumption
    | with_reducible apply onData_after
    | with_reducible apply State.integrityFault_after
    | with_reducible apply State.lineGood_after
    | with_reducible apply State.dropRecovery_after
    | with_reducible apply State.sourceFailed_after
    | with_reducible apply State.recovered_after
    | with_reducible exact Within.mono ht rfl
    | with_reducible apply AfterRoute.ite
    | split
    | (with_reducible intro _)

theorem execPeerCopyRequest_after {b T} (x0) (x1) (x2) (x3) (x4) (ht : Within 0x5010c218005400 T) (h5 : After T b x4) :
    AfterOut T b (@execPeerCopyRequest x0 x1 x2 x3 x4) := by
  unfold execPeerCopyRequest
  try dsimp only
  repeat' first
    | with_reducible assumption
    | with_reducible apply onSoc_after
    | with_reducible apply State.sendFrame_after
    | with_reducible exact Within.mono ht rfl
    | exact RegIn.block ht (by decide) rfl
    | with_reducible apply AfterRoute.ite
    | split
    | (with_reducible intro _)
    | with_reducible apply AfterOut.ofNext
    | with_reducible apply AfterOpt.ofSome
    | with_reducible exact AfterOpt.ofNone
    | (with_reducible refine After.ofPair (by assumption) ?_)
    | (with_reducible refine After.ofTriple (by assumption) ?_)
    | (with_reducible refine After.ofOpt (by assumption) ?_)
    | with_reducible apply AfterSome.ofSome
    | with_reducible apply AfterRoute.ofSome
    | with_reducible exact AfterRoute.ofNone
    | with_reducible exact AfterSome.ofNone
    | with_reducible apply AfterEx.ofOk
    | with_reducible exact AfterEx.ofError
    | (with_reducible refine After.ofSealed (by assumption) ?_)
    | (with_reducible refine After.ofOkPair (by assumption) ?_)
    | (with_reducible refine After.ofOk (by assumption) ?_)
    | with_reducible apply After.fold

theorem execPeerRestoreTimeout_after {b T} (x0) (x1) (ht : Within 0x7036591908bec1 T) (h2 : After T b x1) :
    AfterOut T b (@execPeerRestoreTimeout x0 x1) := by
  unfold execPeerRestoreTimeout
  try dsimp only
  repeat' first
    | with_reducible assumption
    | with_reducible apply onData_after
    | with_reducible apply State.sourceFailed_after
    | with_reducible exact Within.mono ht rfl
    | exact RegIn.block ht (by decide) rfl
    | with_reducible apply AfterRoute.ite
    | split
    | (with_reducible intro _)
    | with_reducible apply AfterOut.ofNext
    | with_reducible apply AfterOpt.ofSome
    | with_reducible exact AfterOpt.ofNone
    | (with_reducible refine After.ofPair (by assumption) ?_)
    | (with_reducible refine After.ofTriple (by assumption) ?_)
    | (with_reducible refine After.ofOpt (by assumption) ?_)
    | with_reducible apply AfterSome.ofSome
    | with_reducible apply AfterRoute.ofSome
    | with_reducible exact AfterRoute.ofNone
    | with_reducible exact AfterSome.ofNone
    | with_reducible apply AfterEx.ofOk
    | with_reducible exact AfterEx.ofError
    | (with_reducible refine After.ofSealed (by assumption) ?_)
    | (with_reducible refine After.ofOkPair (by assumption) ?_)
    | (with_reducible refine After.ofOk (by assumption) ?_)
    | with_reducible apply After.fold

theorem State.sweepLine_after {b T} (x0) (ht : Within 0x10000008000000 T) (h1 : After T b x0) :
    After T b (@State.sweepLine x0) := by
  unfold State.sweepLine
  try dsimp only
  repeat' first
    | with_reducible assumption
    | with_reducible apply State.onIntegrity_after
    | with_reducible apply State.count_after
    | with_reducible exact Within.mono ht rfl
    | exact RegIn.block ht (by decide) rfl
    | with_reducible apply AfterRoute.ite
    | split

theorem execMemorySweep_after {b T} (x0) (x1) (x2) (x3) (ht : Within 0x7fffffffffffff T) (h4 : After T b x3) :
    AfterOut T b ((@execMemorySweep x0 x1 x2 x3)) := by
  unfold execMemorySweep
  try dsimp only
  repeat' first
    | with_reducible assumption
    | with_reducible apply onData_after
    | with_reducible apply State.onIntegrity_after
    | with_reducible apply State.sweepLine_after
    | with_reducible apply State.parityError_after
    | with_reducible exact Within.mono ht rfl
    | with_reducible apply AfterRoute.ite
    | split
    | (with_reducible intro _)

theorem execBucketLeak_after {b T} (x0) (ht : Within 0x10000008000000 T) (h1 : After T b x0) :
    AfterOut T b (@execBucketLeak x0) := by
  unfold execBucketLeak
  try dsimp only
  repeat' first
    | with_reducible assumption
    | with_reducible apply onSoc_after
    | with_reducible apply State.each_after
    | with_reducible apply State.onIntegrity_after
    | with_reducible apply State.wr_after
    | with_reducible exact Within.mono ht rfl
    | exact RegIn.block ht (by decide) rfl
    | with_reducible apply AfterRoute.ite
    | split
    | (with_reducible intro _)
    | with_reducible apply AfterOut.ofNext
    | with_reducible apply AfterOpt.ofSome
    | with_reducible exact AfterOpt.ofNone
    | (with_reducible refine After.ofPair (by assumption) ?_)
    | (with_reducible refine After.ofTriple (by assumption) ?_)
    | (with_reducible refine After.ofOpt (by assumption) ?_)
    | with_reducible apply AfterSome.ofSome
    | with_reducible apply AfterRoute.ofSome
    | with_reducible exact AfterRoute.ofNone
    | with_reducible exact AfterSome.ofNone
    | with_reducible apply AfterEx.ofOk
    | with_reducible exact AfterEx.ofError
    | (with_reducible refine After.ofSealed (by assumption) ?_)
    | (with_reducible refine After.ofOkPair (by assumption) ?_)
    | (with_reducible refine After.ofOk (by assumption) ?_)
    | with_reducible apply After.fold

theorem execMinTestArm_after {b T} (x0) (x1) (x2) (ht : Within 0x713400190000ca T) (h3 : After T b x2) :
    AfterOut T b (@execMinTestArm x0 x1 x2) := by
  unfold execMinTestArm
  try dsimp only
  repeat' first
    | with_reducible assumption
    | with_reducible apply onSoc_after
    | with_reducible apply State.commandWrite_after
    | with_reducible apply State.onIntegrity_after
    | with_reducible apply State.wrs_after
    | with_reducible exact Within.mono ht rfl
    | exact RegIn.block ht (by decide) rfl
    | exact NotWall (by omega) (by omega)
    | with_reducible apply FieldsIn.cons
    | with_reducible exact FieldsIn.nil
    | with_reducible apply AfterRoute.ite
    | split
    | (with_reducible intro _)
    | with_reducible apply AfterOut.ofNext
    | with_reducible apply AfterOpt.ofSome
    | with_reducible exact AfterOpt.ofNone
    | (with_reducible refine After.ofPair (by assumption) ?_)
    | (with_reducible refine After.ofTriple (by assumption) ?_)
    | (with_reducible refine After.ofOpt (by assumption) ?_)
    | with_reducible apply AfterSome.ofSome
    | with_reducible apply AfterRoute.ofSome
    | with_reducible exact AfterRoute.ofNone
    | with_reducible exact AfterSome.ofNone
    | with_reducible apply AfterEx.ofOk
    | with_reducible exact AfterEx.ofError
    | (with_reducible refine After.ofSealed (by assumption) ?_)
    | (with_reducible refine After.ofOkPair (by assumption) ?_)
    | (with_reducible refine After.ofOk (by assumption) ?_)
    | with_reducible apply After.fold

theorem execMinTestExpiry_after {b T} (x0) (ht : Within 0x10000000000000 T) (h1 : After T b x0) :
    AfterOut T b (@execMinTestExpiry x0) := by
  unfold execMinTestExpiry
  try dsimp only
  repeat' first
    | with_reducible assumption
    | with_reducible apply onSoc_after
    | with_reducible apply State.wrs_after
    | with_reducible exact Within.mono ht rfl
    | exact RegIn.block ht (by decide) rfl
    | with_reducible apply FieldsIn.cons
    | with_reducible exact FieldsIn.nil
    | with_reducible apply AfterRoute.ite
    | split
    | (with_reducible intro _)
    | with_reducible apply AfterOut.ofNext
    | with_reducible apply AfterOpt.ofSome
    | with_reducible exact AfterOpt.ofNone
    | (with_reducible refine After.ofPair (by assumption) ?_)
    | (with_reducible refine After.ofTriple (by assumption) ?_)
    | (with_reducible refine After.ofOpt (by assumption) ?_)
    | with_reducible apply AfterSome.ofSome
    | with_reducible apply AfterRoute.ofSome
    | with_reducible exact AfterRoute.ofNone
    | with_reducible exact AfterSome.ofNone
    | with_reducible apply AfterEx.ofOk
    | with_reducible exact AfterEx.ofError
    | (with_reducible refine After.ofSealed (by assumption) ?_)
    | (with_reducible refine After.ofOkPair (by assumption) ?_)
    | (with_reducible refine After.ofOk (by assumption) ?_)
    | with_reducible apply After.fold

end Sys2Proof.Machine
end

