-- ==== Sys2Proof/Laws/After/Routing.lean ====
section
/-! SUPPORT. What the operations of Routing keep (Laws/After.lean). -/

set_option Elab.async false
set_option linter.all false

namespace Sys2Proof.Machine

theorem after_after {b T} (x0) (x1) (h2 : After T b x1) (h : AfterOut T b x0) : After T b (after x0 x1) := by
  unfold after
  split
  · exact h _ rfl
  · exact h2
  · exact h2

theorem State.plainEffects_after {b T} (x0) (x1) (ht : Within 0x5074411108a6e1 T) (h1 : After T b x0) (h2 : After T b x1) :
    After T b (@State.plainEffects x0 x1) := by
  unfold State.plainEffects
  try dsimp only
  repeat' first
    | with_reducible assumption
    | with_reducible apply State.portReset_after
    | with_reducible apply State.emit_after
    | with_reducible apply State.wr_after
    | with_reducible apply State.onCfg_after
    | with_reducible apply State.onFlt_after
    | with_reducible apply State.showProposals_after
    | with_reducible exact Within.mono ht rfl
    | exact RegIn.block ht (by decide) rfl
    | with_reducible apply AfterRoute.ite
    | split
    | (with_reducible intro _)
    | with_reducible apply AfterOut.ofNext
    | with_reducible apply AfterOpt.ofSome
    | with_reducible exact AfterOpt.ofNone
    | (with_reducible refine After.ofPair (by assumption) ?_)
    | (with_reducible refine After.ofTriple (by assumption) ?_)
    | (with_reducible refine After.ofOpt (by assumption) ?_)
    | with_reducible apply AfterSome.ofSome
    | with_reducible apply AfterRoute.ofSome
    | with_reducible exact AfterRoute.ofNone
    | with_reducible exact AfterSome.ofNone
    | with_reducible apply AfterEx.ofOk
    | with_reducible exact AfterEx.ofError
    | (with_reducible refine After.ofSealed (by assumption) ?_)
    | (with_reducible refine After.ofOkPair (by assumption) ?_)
    | (with_reducible refine After.ofOk (by assumption) ?_)
    | with_reducible apply After.fold

theorem State.plainWrite_after {b T} (x0) (x1) (x2) (x3) (x4) (ht : Within 0x7ffffff90aa6eb T) (h1 : After T b x0) :
    After T b (@State.plainWrite x0 x1 x2 x3 x4) := by
  unfold State.plainWrite
  try dsimp only
  repeat' first
    | with_reducible assumption
    | with_reducible apply State.plainEffects_after
    | with_reducible apply State.writeRegister_after
    | with_reducible apply State.onIntegrity_after
    | with_reducible exact Within.mono ht rfl
    | exact RegIn.block ht (by decide) rfl
    | with_reducible apply AfterRoute.ite
    | split
    | (with_reducible intro _)
    | with_reducible apply AfterOut.ofNext
    | with_reducible apply AfterOpt.ofSome
    | with_reducible exact AfterOpt.ofNone
    | (with_reducible refine After.ofPair (by assumption) ?_)
    | (with_reducible refine After.ofTriple (by assumption) ?_)
    | (with_reducible refine After.ofOpt (by assumption) ?_)
    | with_reducible apply AfterSome.ofSome
    | with_reducible apply AfterRoute.ofSome
    | with_reducible exact AfterRoute.ofNone
    | with_reducible exact AfterSome.ofNone
    | with_reducible apply AfterEx.ofOk
    | with_reducible exact AfterEx.ofError
    | (with_reducible refine After.ofSealed (by assumption) ?_)
    | (with_reducible refine After.ofOkPair (by assumption) ?_)
    | (with_reducible refine After.ofOk (by assumption) ?_)
    | with_reducible apply After.fold

theorem State.freeAnswer_after {b T} (x0) (ht : Within 0x1 T) (h1 : After T b x0) :
    After T b (Prod.snd ((@State.freeAnswer x0))) := by
  unfold State.freeAnswer
  try dsimp only
  repeat' first
    | with_reducible assumption
    | with_reducible apply State.draw_after

theorem State.routeCommand_after {b T} (x0) (x1) (x2) (x3) (ht : Within 0x7fffffffffffff T) (h1 : After T b x0) :
    AfterRoute T b ((@State.routeCommand x0 x1 x2 x3)) := by
  unfold State.routeCommand
  try dsimp only
  repeat' first
    | with_reducible assumption
    | with_reducible apply execKeyGenerate_after
    | with_reducible apply execKeyUnwrap_after
    | with_reducible apply execKeyZeroise_after
    | with_reducible apply execKeyDerivePair_after
    | with_reducible apply execKekRatchet_after
    | with_reducible apply execHighWaterLoad_after
    | with_reducible apply execSlotStatusRead_after
    | with_reducible apply execKekImport_after
    | with_reducible apply execQpcCreate_after
    | with_reducible apply execQpcRead_after
    | with_reducible apply execQpcDestroy_after
    | with_reducible apply execQpcFlush_after
    | with_reducible apply execQpcPin_after
    | with_reducible apply execQpcUnpin_after
    | with_reducible apply execFigWriteNext_after
    | with_reducible apply execFigReadActive_after
    | with_reducible apply execFigReadNext_after
    | with_reducible apply execPromenadeStart_after
    | with_reducible apply execSetCreate_after
    | with_reducible apply execSetDelete_after
    | with_reducible apply execLtkHandOverGroup_after
    | with_reducible apply execLtkHandOverAll_after
    | with_reducible apply execLtkReleaseGroup_after
    | with_reducible apply execLtkAcquireGroup_after
    | with_reducible apply execLtkRunSelfTest_after
    | with_reducible apply execFtWriteShadow_after
    | with_reducible apply execFtReadActive_after
    | with_reducible apply execFtReadShadow_after
    | with_reducible apply execPwrWakeDomain_after
    | with_reducible apply State.freeAnswer_after
    | with_reducible apply execPwrPowerOffDomain_after
    | with_reducible apply State.draw_after
    | with_reducible apply execPwrEnterDormant_after
    | with_reducible apply execFltStep3Handover_after
    | with_reducible apply execFltStep3_after
    | with_reducible apply execFltStep4_after
    | with_reducible apply execCycleArm_after
    | with_reducible apply execCycleGo_after
    | with_reducible apply execPeerWakePulse_after
    | with_reducible exact Within.mono ht rfl
    | with_reducible apply AfterRoute.ite
    | split
    | (with_reducible intro _)
    | with_reducible apply AfterOut.ofNext
    | with_reducible apply AfterOpt.ofSome
    | with_reducible exact AfterOpt.ofNone
    | (with_reducible refine After.ofPair (by assumption) ?_)
    | (with_reducible refine After.ofTriple (by assumption) ?_)
    | (with_reducible refine After.ofOpt (by assumption) ?_)
    | with_reducible apply AfterSome.ofSome
    | with_reducible apply AfterRoute.ofSome
    | with_reducible exact AfterRoute.ofNone

theorem State.routeIndexed_after {b T} (x0) (x1) (x2) (x3) (ht : Within 0x7fffffffcbfedb T) (h1 : After T b x0) :
    AfterRoute T b (@State.routeIndexed x0 x1 x2 x3) := by
  unfold State.routeIndexed
  try dsimp only
  repeat' first
    | with_reducible assumption
    | with_reducible apply execSlotPowerOn_after
    | with_reducible apply execSlotOff_after
    | with_reducible apply execSlotForcedOff_after
    | with_reducible apply execSlotRetrain_after
    | with_reducible apply State.draw_after
    | with_reducible apply execSlotPrepare_after
    | with_reducible apply execPartitionStart_after
    | with_reducible apply execPartitionReset_after
    | with_reducible apply execL1dClean_after
    | with_reducible apply execL1dCleanInvalidate_after
    | with_reducible apply execL1iInvalidate_after
    | with_reducible apply execClusterClean_after
    | with_reducible apply execClusterCleanInvalidate_after
    | with_reducible apply execEwqDoorbell_after
    | with_reducible apply execEwqInvalidate_after
    | with_reducible apply execEwqReset_after
    | with_reducible apply execMessageSendPost_after
    | with_reducible apply execMessageReceivePost_after
    | with_reducible apply execRuleCtlWrite_after
    | with_reducible apply execGateSwitchoverArm_after
    | with_reducible apply execPmcCounterPreset_after
    | with_reducible exact Within.mono ht rfl
    | exact RegIn.block ht (by decide) rfl
    | with_reducible apply AfterRoute.ite
    | split
    | (with_reducible intro _)
    | with_reducible apply AfterOut.ofNext
    | with_reducible apply AfterOpt.ofSome
    | with_reducible exact AfterOpt.ofNone
    | (with_reducible refine After.ofPair (by assumption) ?_)
    | (with_reducible refine After.ofTriple (by assumption) ?_)
    | (with_reducible refine After.ofOpt (by assumption) ?_)
    | with_reducible apply AfterSome.ofSome
    | with_reducible apply AfterRoute.ofSome
    | with_reducible exact AfterRoute.ofNone
    | with_reducible exact AfterSome.ofNone
    | with_reducible apply AfterEx.ofOk
    | with_reducible exact AfterEx.ofError
    | (with_reducible refine After.ofSealed (by assumption) ?_)
    | (with_reducible refine After.ofOkPair (by assumption) ?_)
    | (with_reducible refine After.ofOk (by assumption) ?_)
    | with_reducible apply After.fold

theorem State.routeSingle_after {b T} (x0) (x1) (x2) (x3) (ht : Within 0x7136fb9f08fedb T) (h1 : After T b x0) :
    AfterRoute T b (@State.routeSingle x0 x1 x2 x3) := by
  unfold State.routeSingle
  try dsimp only
  repeat' first
    | with_reducible assumption
    | with_reducible apply execMeasStepRequest_after
    | with_reducible apply execMeasOffsWrite_after
    | with_reducible apply execEpochArm_after
    | with_reducible apply execQpcDoorbell_after
    | with_reducible apply execNrgTestRequest_after
    | with_reducible apply execMinTestArm_after
    | with_reducible apply execWatchdogRestart_after
    | with_reducible apply execMcpReqDoorbell_after
    | with_reducible apply execMcpRplRdyClear_after
    | with_reducible apply execMcpNtcTailWrite_after
    | with_reducible apply execLinkEnable_after
    | with_reducible apply execPeerRemoved_after
    | with_reducible exact Within.mono ht rfl
    | exact RegIn.block ht (by decide) rfl
    | with_reducible apply AfterRoute.ite
    | split
    | (with_reducible intro _)
    | with_reducible apply AfterOut.ofNext
    | with_reducible apply AfterOpt.ofSome
    | with_reducible exact AfterOpt.ofNone
    | (with_reducible refine After.ofPair (by assumption) ?_)
    | (with_reducible refine After.ofTriple (by assumption) ?_)
    | (with_reducible refine After.ofOpt (by assumption) ?_)
    | with_reducible apply AfterSome.ofSome
    | with_reducible apply AfterRoute.ofSome
    | with_reducible exact AfterRoute.ofNone
    | with_reducible exact AfterSome.ofNone
    | with_reducible apply AfterEx.ofOk
    | with_reducible exact AfterEx.ofError
    | (with_reducible refine After.ofSealed (by assumption) ?_)
    | (with_reducible refine After.ofOkPair (by assumption) ?_)
    | (with_reducible refine After.ofOk (by assumption) ?_)
    | with_reducible apply After.fold

theorem State.mixedEffects_after {b T} (x0) (x1) (x2) (x3) (ht : Within 0x693400910100da T) (h1 : After T b x0) :
    After T b (@State.mixedEffects x0 x1 x2 x3) := by
  unfold State.mixedEffects
  try dsimp only
  repeat' first
    | with_reducible assumption
    | with_reducible apply after_after
    | with_reducible apply execMeasSrcWrite_after
    | with_reducible apply execMeasRunSet_after
    | with_reducible apply execEwqEnable_after
    | with_reducible apply execEwqDisable_after
    | with_reducible apply execMonitorClear_after
    | with_reducible exact Within.mono ht rfl
    | with_reducible apply AfterRoute.ite
    | split

theorem State.writeAny_after {b T} (x0) (x1) (x2) (x3) (ht : Within 0x7fffffffffffff T) (h1 : After T b x0) : After T b (@State.writeAny x0 x1 x2 x3) := by
  unfold State.writeAny
  split
  · exact State.plainWrite_after _ _ _ _ _ (ht.mono rfl) h1
  · split
    · rename_i o e
      exact after_after _ _ h1 (AfterRoute.or (State.routeCommand_after _ _ _ _ (ht.mono rfl) h1)
        (AfterRoute.or (State.routeIndexed_after _ _ _ _ (ht.mono rfl) h1) (State.routeSingle_after _ _ _ _ (ht.mono rfl) h1)) o e)
    · exact State.mixedEffects_after _ _ _ _ (ht.mono rfl) (State.plainWrite_after _ _ _ _ _ (ht.mono rfl) h1)

theorem State.quietWrite_after {b T} (x0) (x1) (x2) (x3) (ht : Within 0x7fffffffffffff T) (h1 : After T b x0) : After T b (@State.quietWrite x0 x1 x2 x3) :=
  After.quiet h1 (State.writeAny_after _ _ _ _ ht (After.refl _)) _

theorem State.orHoldAccess_after {b T} (x0) (x1) (x2) (x3) (x4) (ht : Within 0x10 T) (h1 : After T b x0) (h5 : ∀ y0, After T b y0 → After T b (x4 y0)) :
    After T b (@State.orHoldAccess x0 x1 x2 x3 x4) := by
  unfold State.orHoldAccess
  try dsimp only
  repeat' first
    | with_reducible assumption
    | with_reducible apply State.orHold_after
    | with_reducible apply h5
    | with_reducible exact Within.mono ht rfl
    | with_reducible apply AfterRoute.ite
    | split

end Sys2Proof.Machine
end

