-- ==== Sys2Proof/Laws/After/Registers.lean ====
section
/-! SUPPORT. What the operations of Registers keep (Laws/After.lean). -/

set_option Elab.async false
set_option linter.all false

namespace Sys2Proof.Machine

theorem execPlainRegisterWrite_after {b T} (x0) (x1) (x2) (x3) (x4) (ht : Within 0x7ffffff90abefb T) (h5 : After T b x4) :
    AfterOut T b ((@execPlainRegisterWrite x0 x1 x2 x3 x4)) := by
  unfold execPlainRegisterWrite
  try dsimp only
  repeat' first
    | with_reducible assumption
    | with_reducible apply onData_after
    | with_reducible apply State.orHoldAccess_after
    | with_reducible apply State.plainWrite_after
    | with_reducible exact Within.mono ht rfl
    | with_reducible apply AfterRoute.ite
    | split
    | (with_reducible intro _)

theorem execRcRegisterRead_after {b T} (x0) (x1) (x2) (x3) (ht : Within 0x7ffffff10000d4 T) (h4 : After T b x3) :
    AfterOut T b ((@execRcRegisterRead x0 x1 x2 x3)) := by
  unfold execRcRegisterRead
  try dsimp only
  repeat' first
    | with_reducible assumption
    | with_reducible apply onSoc_after
    | with_reducible apply State.orHoldAccess_after
    | with_reducible apply State.readRegister_after
    | with_reducible exact Within.mono ht rfl
    | with_reducible apply AfterRoute.ite
    | split
    | (with_reducible intro _)

theorem execLowWordRead_after {b T} (x0) (x1) (x2) (ht : Within 0x7ffffff10000d4 T) (h3 : After T b x2) :
    AfterOut T b ((@execLowWordRead x0 x1 x2)) := by
  unfold execLowWordRead
  try dsimp only
  repeat' first
    | with_reducible assumption
    | with_reducible apply onSoc_after
    | with_reducible apply State.orHoldAccess_after
    | with_reducible apply State.readRegister_after
    | with_reducible exact Within.mono ht rfl
    | with_reducible apply AfterRoute.ite
    | split
    | (with_reducible intro _)

theorem execUnassignedBlockAccess_after {b T} (x0) (x1) (x2) (x3) (ht : Within 0x7fffffffffffff T) (h4 : After T b x3) :
    AfterOut T b (@execUnassignedBlockAccess x0 x1 x2 x3) := by
  unfold execUnassignedBlockAccess
  try dsimp only
  repeat' first
    | with_reducible assumption
    | with_reducible apply onSoc_after
    | with_reducible apply State.unassignedAccess_after
    | with_reducible apply State.orHoldAccess_after
    | with_reducible apply State.writeAny_after
    | with_reducible apply State.readRegister_after
    | with_reducible exact Within.mono ht rfl
    | exact RegIn.block ht (by decide) rfl
    | with_reducible apply AfterRoute.ite
    | split
    | (with_reducible intro _)
    | with_reducible apply AfterOut.ofNext
    | with_reducible apply AfterOpt.ofSome
    | with_reducible exact AfterOpt.ofNone
    | (with_reducible refine After.ofPair (by assumption) ?_)
    | (with_reducible refine After.ofTriple (by assumption) ?_)
    | (with_reducible refine After.ofOpt (by assumption) ?_)
    | with_reducible apply AfterSome.ofSome
    | with_reducible apply AfterRoute.ofSome
    | with_reducible exact AfterRoute.ofNone
    | with_reducible exact AfterSome.ofNone
    | with_reducible apply AfterEx.ofOk
    | with_reducible exact AfterEx.ofError
    | (with_reducible refine After.ofSealed (by assumption) ?_)
    | (with_reducible refine After.ofOkPair (by assumption) ?_)
    | (with_reducible refine After.ofOk (by assumption) ?_)
    | with_reducible apply After.fold

theorem execOffDomainAccess_after {b T} (x0) (x1) (x2) (x3) (ht : Within 0x7fffffffffffff T) (h4 : After T b x3) :
    AfterOut T b ((@execOffDomainAccess x0 x1 x2 x3)) := by
  unfold execOffDomainAccess
  try dsimp only
  repeat' first
    | with_reducible assumption
    | with_reducible apply onSoc_after
    | with_reducible apply State.orHoldAccess_after
    | with_reducible apply State.writeAny_after
    | with_reducible apply State.readRegister_after
    | with_reducible exact Within.mono ht rfl
    | with_reducible apply AfterRoute.ite
    | split
    | (with_reducible intro _)

theorem execRwtFieldWrite_after {b T} (x0) (x1) (x2) (x3) (ht : Within 0x7ffffff11200da T) (h4 : After T b x3) :
    AfterOut T b ((@execRwtFieldWrite x0 x1 x2 x3)) := by
  unfold execRwtFieldWrite
  try dsimp only
  repeat' first
    | with_reducible assumption
    | with_reducible apply onSoc_after
    | with_reducible apply State.orHoldAccess_after
    | with_reducible apply State.commandWrite_after
    | with_reducible apply State.rwtProposal_after
    | with_reducible exact Within.mono ht rfl
    | exact RegIn.all ht rfl
    | exact fun _ => Within.mono ht rfl
    | with_reducible apply AfterRoute.ite
    | split
    | (with_reducible intro _)

theorem State.denyDirect_after {b T} (x0) (x1) (x2) (ht : Within 0x603400110000c0 T) (h1 : After T b x0) :
    After T b (@State.denyDirect x0 x1 x2) := by
  unfold State.denyDirect
  try dsimp only
  repeat' first
    | with_reducible assumption
    | with_reducible apply State.emit_after
    | with_reducible apply State.fault_after

theorem State.directHostAccess_after {b T} (x0) (x1) (x2) (x3) (ht : Within 0x7fffffffffffff T) (h1 : After T b x0) :
    After T b (@State.directHostAccess x0 x1 x2 x3) := by
  unfold State.directHostAccess
  try dsimp only
  repeat' first
    | with_reducible assumption
    | with_reducible apply State.denyDirect_after
    | with_reducible apply State.offAccess_after
    | with_reducible apply State.emit_after
    | with_reducible apply State.readReg_after
    | with_reducible apply State.quietWrite_after
    | with_reducible exact Within.mono ht rfl
    | with_reducible apply AfterRoute.ite
    | split

theorem execDirectHostRegisterAccess_after {b T} (x0) (x1) (x2) (x3) (ht : Within 0x7fffffffffffff T) (h4 : After T b x3) :
    AfterOut T b ((@execDirectHostRegisterAccess x0 x1 x2 x3)) := by
  unfold execDirectHostRegisterAccess
  try dsimp only
  repeat' first
    | with_reducible assumption
    | with_reducible apply onData_after
    | with_reducible apply State.orHoldAccess_after
    | with_reducible apply State.directHostAccess_after
    | with_reducible exact Within.mono ht rfl
    | with_reducible apply AfterRoute.ite
    | split
    | (with_reducible intro _)

theorem State.barRead_after {b T} (x0) (x1) (x2) (x3) (ht : Within 0x7fffffe0000004 T) (h1 : After T b x0) :
    After T b (Prod.snd ((@State.barRead x0 x1 x2 x3))) := by
  unfold State.barRead
  try dsimp only
  repeat' first
    | with_reducible assumption
    | with_reducible apply State.readReg_after
    | with_reducible exact Within.mono ht rfl
    | with_reducible apply AfterRoute.ite
    | split

theorem State.barWrite_after {b T} (x0) (x1) (x2) (x3) (x4) (ht : Within 0x7fffffffffffff T) (h1 : After T b x0) :
    After T b (@State.barWrite x0 x1 x2 x3 x4) := by
  unfold State.barWrite
  try dsimp only
  repeat' first
    | with_reducible assumption
    | with_reducible apply State.writeMsix_after
    | with_reducible apply State.writeNvme_after
    | with_reducible apply State.nvmeDoorbell_after
    | with_reducible apply State.quietWrite_after
    | with_reducible exact Within.mono ht rfl
    | with_reducible apply AfterRoute.ite
    | split

theorem State.badBarAccess_after {b T} (x0) (x1) (x2) (x3) (ht : Within 0x603400110000c0 T) (h1 : After T b x0) :
    After T b (@State.badBarAccess x0 x1 x2 x3) := by
  unfold State.badBarAccess
  try dsimp only
  repeat' first
    | with_reducible assumption
    | with_reducible apply State.emit_after
    | with_reducible apply State.plainFault_after

theorem State.barAccess_after {b T} (x0) (x1) (x2) (x3) (x4) (ht : Within 0x7fffffffffffff T) (h1 : After T b x0) :
    After T b (@State.barAccess x0 x1 x2 x3 x4) := by
  unfold State.barAccess
  try dsimp only
  repeat' first
    | with_reducible assumption
    | with_reducible apply State.emit_after
    | with_reducible apply State.directHostAccess_after
    | with_reducible apply State.badBarAccess_after
    | with_reducible apply State.barWrite_after
    | with_reducible apply State.barRead_after
    | with_reducible exact Within.mono ht rfl
    | with_reducible apply AfterRoute.ite
    | split

theorem execBarAccess_after {b T} (x0) (x1) (x2) (x3) (x4) (ht : Within 0x7fffffffffffff T) (h5 : After T b x4) :
    AfterOut T b ((@execBarAccess x0 x1 x2 x3 x4)) := by
  unfold execBarAccess
  try dsimp only
  repeat' first
    | with_reducible assumption
    | with_reducible apply onData_after
    | with_reducible apply State.orHoldAccess_after
    | with_reducible apply State.barAccess_after
    | with_reducible exact Within.mono ht rfl
    | with_reducible apply AfterRoute.ite
    | split
    | (with_reducible intro _)

theorem execRegisterRead_after {b T} (x0) (x1) (x2) (ht : Within 0x7ffffff1000094 T) (h3 : After T b x2) :
    AfterOut T b ((@execRegisterRead x0 x1 x2)) := by
  unfold execRegisterRead
  try dsimp only
  repeat' first
    | with_reducible assumption
    | with_reducible apply onSoc_after
    | with_reducible apply State.orHoldAccess_after
    | with_reducible apply State.runCall_after
    | with_reducible apply State.reply_after
    | with_reducible apply State.readWords_after
    | with_reducible exact Within.mono ht rfl
    | with_reducible apply AfterRoute.ite
    | split
    | (with_reducible intro _)

theorem State.writeWords_after {b T} (x0) (x1) (x2) (x3) (x4) (ht : Within 0x7fffffffffffff T) (h1 : After T b x0) :
    After T b (Prod.snd ((@State.writeWords x0 x1 x2 x3 x4))) := by
  induction x3 generalizing x0 x1 x2 x4 with
  | zero =>
    unfold State.writeWords
    try dsimp only
    repeat' first
      | with_reducible assumption
  | succ n ih =>
    unfold State.writeWords
    try dsimp only
    repeat' first
      | with_reducible assumption
      | with_reducible apply State.quietWrite_after
      | with_reducible apply State.offAccess_after
      | with_reducible apply ih
      | with_reducible exact Within.mono ht rfl
      | with_reducible apply AfterRoute.ite
      | split

theorem execRegisterWrite_after {b T} (x0) (x1) (x2) (ht : Within 0x7fffffffffffff T) (h3 : After T b x2) :
    AfterOut T b ((@execRegisterWrite x0 x1 x2)) := by
  unfold execRegisterWrite
  try dsimp only
  repeat' first
    | with_reducible assumption
    | with_reducible apply onData_after
    | with_reducible apply State.orHoldAccess_after
    | with_reducible apply State.runCall_after
    | with_reducible apply State.reply_after
    | with_reducible apply State.writeWords_after
    | with_reducible exact Within.mono ht rfl
    | with_reducible apply AfterRoute.ite
    | split
    | (with_reducible intro _)

end Sys2Proof.Machine
end

