-- ==== Sys2Proof/Laws/After/Resets.lean ====
section
/-! SUPPORT. What the operations of Resets keep (Laws/After.lean). -/

set_option Elab.async false
set_option linter.all false

namespace Sys2Proof.Machine

theorem State.replay_after {b T} (x0) (x1) (ht : Within 0x7fffffffffffff T) (h1 : After T b x0) :
    After T b (@State.replay x0 x1) := by
  unfold State.replay
  try dsimp only
  repeat' first
    | with_reducible assumption
    | with_reducible apply after_after
    | with_reducible apply execFrameAdmission_after
    | with_reducible apply execLaneFrameStart_after
    | with_reducible apply execWheelSlotChange_after
    | with_reducible apply execGateEntryChange_after
    | with_reducible apply execEpochArm_after
    | with_reducible apply execFtWriteShadow_after
    | with_reducible apply execFtReadActive_after
    | with_reducible apply execFtReadShadow_after
    | with_reducible apply execGateSwitchoverArm_after
    | with_reducible apply execPlainRegisterWrite_after
    | with_reducible apply execRcRegisterRead_after
    | with_reducible apply execLowWordRead_after
    | with_reducible apply execUnassignedBlockAccess_after
    | with_reducible apply execOffDomainAccess_after
    | with_reducible apply execRwtFieldWrite_after
    | with_reducible apply execDirectHostRegisterAccess_after
    | with_reducible apply execBarAccess_after
    | with_reducible apply execRegisterRead_after
    | with_reducible apply execRegisterWrite_after
    | with_reducible apply execCoreAccess_after
    | with_reducible exact Within.mono ht rfl
    | exact RegIn.block ht (by decide) rfl
    | with_reducible apply AfterRoute.ite
    | split
    | (with_reducible intro _)
    | with_reducible apply AfterOut.ofNext
    | with_reducible apply AfterOpt.ofSome
    | with_reducible exact AfterOpt.ofNone
    | (with_reducible refine After.ofPair (by assumption) ?_)
    | (with_reducible refine After.ofTriple (by assumption) ?_)
    | (with_reducible refine After.ofOpt (by assumption) ?_)
    | with_reducible apply AfterSome.ofSome
    | with_reducible apply AfterRoute.ofSome
    | with_reducible exact AfterRoute.ofNone
    | with_reducible exact AfterSome.ofNone
    | with_reducible apply AfterEx.ofOk
    | with_reducible exact AfterEx.ofError
    | (with_reducible refine After.ofSealed (by assumption) ?_)
    | (with_reducible refine After.ofOkPair (by assumption) ?_)
    | (with_reducible refine After.ofOk (by assumption) ?_)
    | with_reducible apply After.fold

theorem State.endWindow_after {b T} (x0) (ht : Within 0x7fffffffffffff T) (h1 : After T b x0) :
    After T b (@State.endWindow x0) := by
  unfold State.endWindow
  try dsimp only
  repeat' first
    | with_reducible assumption
    | with_reducible apply State.onClock_after
    | with_reducible apply State.runTo_after
    | with_reducible apply State.retryWaiting_after
    | with_reducible apply State.each_after
    | with_reducible apply State.showGates_after
    | with_reducible apply State.replay_after
    | with_reducible exact Within.mono ht rfl
    | exact RegIn.block ht (by decide) rfl
    | with_reducible apply AfterRoute.ite
    | split
    | (with_reducible intro _)
    | with_reducible apply AfterOut.ofNext
    | with_reducible apply AfterOpt.ofSome
    | with_reducible exact AfterOpt.ofNone
    | (with_reducible refine After.ofPair (by assumption) ?_)
    | (with_reducible refine After.ofTriple (by assumption) ?_)
    | (with_reducible refine After.ofOpt (by assumption) ?_)
    | with_reducible apply AfterSome.ofSome
    | with_reducible apply AfterRoute.ofSome
    | with_reducible exact AfterRoute.ofNone
    | with_reducible exact AfterSome.ofNone
    | with_reducible apply AfterEx.ofOk
    | with_reducible exact AfterEx.ofError
    | (with_reducible refine After.ofSealed (by assumption) ?_)
    | (with_reducible refine After.ofOkPair (by assumption) ?_)
    | (with_reducible refine After.ofOk (by assumption) ?_)
    | with_reducible apply After.fold

theorem execMeasureBoundary_after {b T} (x0) (ht : Within 0x7fffffffffffff T) (h1 : After T b x0) :
    AfterOut T b ((@execMeasureBoundary x0)) := by
  unfold execMeasureBoundary
  try dsimp only
  repeat' first
    | with_reducible assumption
    | with_reducible apply onData_after
    | with_reducible apply State.dueAction_after
    | with_reducible apply State.ladderAtBoundary_after
    | with_reducible apply State.boundary_after
    | with_reducible apply State.endWindow_after
    | with_reducible exact Within.mono ht rfl
    | with_reducible apply AfterRoute.ite
    | split
    | (with_reducible intro _)

theorem execBoundaryWindowEnd_after {b T} (x0) (ht : Within 0x7fffffffffffff T) (h1 : After T b x0) :
    AfterOut T b ((@execBoundaryWindowEnd x0)) := by
  unfold execBoundaryWindowEnd
  try dsimp only
  repeat' first
    | with_reducible assumption
    | with_reducible apply onData_after
    | with_reducible apply State.endWindow_after
    | with_reducible exact Within.mono ht rfl
    | with_reducible apply AfterRoute.ite
    | split
    | (with_reducible intro _)

theorem State.idle_after {b T} (x0) (ht : Within 0x7fffffffffffff T) (h1 : After T b x0) :
    After T b (@State.idle x0) := by
  unfold State.idle
  try dsimp only
  repeat' first
    | with_reducible assumption
    | with_reducible apply State.tick_after
    | with_reducible apply after_after
    | with_reducible apply execMeasureBoundary_after
    | with_reducible apply execBoundaryWindowEnd_after
    | with_reducible exact Within.mono ht rfl
    | exact RegIn.block ht (by decide) rfl
    | with_reducible apply AfterRoute.ite
    | split
    | (with_reducible intro _)
    | with_reducible apply AfterOut.ofNext
    | with_reducible apply AfterOpt.ofSome
    | with_reducible exact AfterOpt.ofNone
    | (with_reducible refine After.ofPair (by assumption) ?_)
    | (with_reducible refine After.ofTriple (by assumption) ?_)
    | (with_reducible refine After.ofOpt (by assumption) ?_)
    | with_reducible apply AfterSome.ofSome
    | with_reducible apply AfterRoute.ofSome
    | with_reducible exact AfterRoute.ofNone
    | with_reducible exact AfterSome.ofNone
    | with_reducible apply AfterEx.ofOk
    | with_reducible exact AfterEx.ofError
    | (with_reducible refine After.ofSealed (by assumption) ?_)
    | (with_reducible refine After.ofOkPair (by assumption) ?_)
    | (with_reducible refine After.ofOk (by assumption) ?_)
    | with_reducible apply After.fold

theorem execColdReset_after {b T} (x0) (ht : Within 0x7fffffffffffff T) (h1 : After T b x0) :
    AfterOut T b ((@execColdReset x0)) := by
  unfold execColdReset
  try dsimp only
  repeat' first
    | with_reducible assumption
    | with_reducible apply onAlways_after
    | with_reducible apply State.coldReset_after
    | with_reducible apply State.clearHistory_after
    | with_reducible exact Within.mono ht rfl
    | with_reducible apply AfterRoute.ite
    | split
    | (with_reducible intro _)

theorem execModuleResetTaken_after {b T} (x0) (ht : Within 0x7fffffffffffff T) (h1 : After T b x0) :
    AfterOut T b ((@execModuleResetTaken x0)) := by
  unfold execModuleResetTaken
  try dsimp only
  repeat' first
    | with_reducible assumption
    | with_reducible apply onAlways_after
    | with_reducible apply State.rearmReset_after
    | with_reducible apply State.moduleReset_after
    | with_reducible exact Within.mono ht rfl
    | with_reducible apply AfterRoute.ite
    | split
    | (with_reducible intro _)

theorem execMemoryFillComplete_after {b T} (x0) (ht : Within 0x7536591908bec1 T) (h1 : After T b x0) :
    AfterOut T b ((@execMemoryFillComplete x0)) := by
  unfold execMemoryFillComplete
  try dsimp only
  repeat' first
    | with_reducible assumption
    | with_reducible apply onData_after
    | with_reducible apply State.wrs_after
    | with_reducible apply State.each_after
    | with_reducible apply State.wr_after
    | with_reducible exact Within.mono ht rfl
    | exact RegIn.block ht (by omega) (by first | with_reducible exact blockMask_clu rfl | rfl)
    | with_reducible apply FieldsIn.cons
    | with_reducible exact FieldsIn.nil
    | with_reducible apply AfterRoute.ite
    | split
    | (with_reducible intro _)

theorem execRootClockFault_after {b T} (x0) (ht : Within 0x7fffffffffffff T) (h1 : After T b x0) :
    AfterOut T b ((@execRootClockFault x0)) := by
  unfold execRootClockFault
  try dsimp only
  repeat' first
    | with_reducible assumption
    | with_reducible apply onAlways_after
    | with_reducible apply State.draw_after
    | with_reducible apply State.wrs_after
    | with_reducible apply State.holdInReset_after
    | with_reducible exact Within.mono ht rfl
    | exact RegIn.block ht (by decide) rfl
    | exact RegIn.all ht rfl
    | with_reducible apply FieldsIn.cons
    | with_reducible exact FieldsIn.nil
    | with_reducible apply AfterRoute.ite
    | split
    | (with_reducible intro _)

end Sys2Proof.Machine
end

