-- ==== Sys2Proof/Laws/After/Spdm.lean ====
section
/-! SUPPORT. What the operations of Spdm keep (Laws/After.lean). -/

set_option Elab.async false
set_option linter.all false

namespace Sys2Proof.Machine

theorem State.spdm_after {b T} (x0) (x1) (x2) (x3) (h1 : After T b x0) (h3 : ∀ y0, After T b y0 → After T b (x2 y0)) (h4 : ∀ y0, After T b y0 → After T b (Prod.snd ((x3 y0)))) :
    After T b (@State.spdm x0 x1 x2 x3) := by
  unfold State.spdm
  try dsimp only
  repeat' first
    | with_reducible assumption
    | with_reducible apply State.emit_after
    | with_reducible apply h3
    | with_reducible apply h4
    | with_reducible apply AfterRoute.ite
    | split

theorem execSpdmGetVersion_after {b T} (x0) (x1) (ht : Within 0x7fffffffffffff T) (h2 : After T b x1) :
    AfterOut T b ((@execSpdmGetVersion x0 x1)) := by
  unfold execSpdmGetVersion
  try dsimp only
  repeat' first
    | with_reducible assumption
    | with_reducible apply onAlways_after
    | with_reducible apply State.spdm_after
    | with_reducible apply State.wake_after
    | with_reducible exact Within.mono ht rfl
    | with_reducible apply AfterRoute.ite
    | split
    | (with_reducible intro _)

theorem execSpdmGetCapabilities_after {b T} (x0) (x1) (ht : Within 0x7fffffffffffff T) (h2 : After T b x1) :
    AfterOut T b ((@execSpdmGetCapabilities x0 x1)) := by
  unfold execSpdmGetCapabilities
  try dsimp only
  repeat' first
    | with_reducible assumption
    | with_reducible apply onAlways_after
    | with_reducible apply State.spdm_after
    | with_reducible apply State.wake_after
    | with_reducible exact Within.mono ht rfl
    | with_reducible apply AfterRoute.ite
    | split
    | (with_reducible intro _)

theorem execSpdmNegotiateAlgorithms_after {b T} (x0) (x1) (ht : Within 0x7fffffffffffff T) (h2 : After T b x1) :
    AfterOut T b ((@execSpdmNegotiateAlgorithms x0 x1)) := by
  unfold execSpdmNegotiateAlgorithms
  try dsimp only
  repeat' first
    | with_reducible assumption
    | with_reducible apply onAlways_after
    | with_reducible apply State.spdm_after
    | with_reducible apply State.wake_after
    | with_reducible exact Within.mono ht rfl
    | with_reducible apply AfterRoute.ite
    | split
    | (with_reducible intro _)

theorem execSpdmGetDigests_after {b T} (x0) (x1) (ht : Within 0x7fffffffffffff T) (h2 : After T b x1) :
    AfterOut T b ((@execSpdmGetDigests x0 x1)) := by
  unfold execSpdmGetDigests
  try dsimp only
  repeat' first
    | with_reducible assumption
    | with_reducible apply onAlways_after
    | with_reducible apply State.spdm_after
    | with_reducible apply State.wake_after
    | with_reducible exact Within.mono ht rfl
    | with_reducible apply AfterRoute.ite
    | split
    | (with_reducible intro _)

theorem execSpdmGetCertificate_after {b T} (x0) (x1) (x2) (x3) (x4) (h5 : After T b x4) :
    AfterOut T b ((@execSpdmGetCertificate x0 x1 x2 x3 x4)) := by
  unfold execSpdmGetCertificate
  try dsimp only
  repeat' first
    | with_reducible assumption
    | with_reducible apply onAlways_after
    | with_reducible apply State.spdm_after
    | with_reducible apply State.emit_after
    | with_reducible apply AfterRoute.ite
    | split
    | (with_reducible intro _)

theorem execSpdmChallenge_after {b T} (x0) (x1) (x2) (ht : Within 0x7fffffffffffff T) (h3 : After T b x2) :
    AfterOut T b ((@execSpdmChallenge x0 x1 x2)) := by
  unfold execSpdmChallenge
  try dsimp only
  repeat' first
    | with_reducible assumption
    | with_reducible apply onAlways_after
    | with_reducible apply State.spdm_after
    | with_reducible apply State.wake_after
    | with_reducible apply State.random_after
    | with_reducible exact Within.mono ht rfl
    | with_reducible apply AfterRoute.ite
    | split
    | (with_reducible intro _)

theorem execSpdmGetMeasurements_after {b T} (x0) (x1) (x2) (ht : Within 0x7fffffffffffff T) (h3 : After T b x2) :
    AfterOut T b ((@execSpdmGetMeasurements x0 x1 x2)) := by
  unfold execSpdmGetMeasurements
  try dsimp only
  repeat' first
    | with_reducible assumption
    | with_reducible apply onAlways_after
    | with_reducible apply State.spdm_after
    | with_reducible apply State.wake_after
    | with_reducible apply State.random_after
    | with_reducible exact Within.mono ht rfl
    | with_reducible apply AfterRoute.ite
    | split
    | (with_reducible intro _)

end Sys2Proof.Machine
end

