-- ==== Sys2Proof/Laws/After/Walk.lean ====
section
/-! SUPPORT. What the operations of Walk keep (Laws/After.lean). -/

set_option Elab.async false
set_option linter.all false

namespace Sys2Proof.Machine

theorem State.startOperation_after {b T} (x0) (x1) (x2) (x3) (ht : Within 0x40120010088400 T) (h1 : After T b x0) :
    After T b (@State.startOperation x0 x1 x2 x3) := by
  unfold State.startOperation
  try dsimp only
  repeat' first
    | with_reducible assumption
    | with_reducible apply State.writeProgress_after
    | with_reducible apply State.onAdmin_after
    | with_reducible exact Within.mono ht rfl

theorem State.startFormat_after {b T} (x0) (x1) (x2) (x3) (x4) (ht : Within 0x4016011108a601 T) (h1 : After T b x0) :
    After T b (@State.startFormat x0 x1 x2 x3 x4) := by
  unfold State.startFormat
  try dsimp only
  repeat' first
    | with_reducible assumption
    | with_reducible apply State.endAdmin_after
    | with_reducible apply State.startOperation_after
    | with_reducible apply State.onNamespace_after
    | with_reducible exact Within.mono ht rfl
    | exact RegIn.block ht (by decide) rfl
    | with_reducible apply AfterRoute.ite
    | split
    | (with_reducible intro _)
    | with_reducible apply AfterOut.ofNext
    | with_reducible apply AfterOpt.ofSome
    | with_reducible exact AfterOpt.ofNone
    | (with_reducible refine After.ofPair (by assumption) ?_)
    | (with_reducible refine After.ofTriple (by assumption) ?_)
    | (with_reducible refine After.ofOpt (by assumption) ?_)
    | with_reducible apply AfterSome.ofSome
    | with_reducible apply AfterRoute.ofSome
    | with_reducible exact AfterRoute.ofNone
    | with_reducible exact AfterSome.ofNone
    | with_reducible apply AfterEx.ofOk
    | with_reducible exact AfterEx.ofError
    | (with_reducible refine After.ofSealed (by assumption) ?_)
    | (with_reducible refine After.ofOkPair (by assumption) ?_)
    | (with_reducible refine After.ofOk (by assumption) ?_)
    | with_reducible apply After.fold

theorem execFormatNvm_after {b T} (x0) (x1) (x2) (x3) (x4) (x5) (ht : Within 0x6036591908bec1 T) (h6 : After T b x5) :
    AfterOut T b (@execFormatNvm x0 x1 x2 x3 x4 x5) := by
  unfold execFormatNvm
  try dsimp only
  repeat' first
    | with_reducible assumption
    | with_reducible apply onData_after
    | with_reducible apply State.adminRun_after
    | with_reducible apply State.endAdmin_after
    | with_reducible apply State.atLead_after
    | with_reducible apply State.startFormat_after
    | with_reducible exact Within.mono ht rfl
    | exact RegIn.block ht (by decide) rfl
    | with_reducible apply AfterRoute.ite
    | split
    | (with_reducible intro _)
    | with_reducible apply AfterOut.ofNext
    | with_reducible apply AfterOpt.ofSome
    | with_reducible exact AfterOpt.ofNone
    | (with_reducible refine After.ofPair (by assumption) ?_)
    | (with_reducible refine After.ofTriple (by assumption) ?_)
    | (with_reducible refine After.ofOpt (by assumption) ?_)
    | with_reducible apply AfterSome.ofSome
    | with_reducible apply AfterRoute.ofSome
    | with_reducible exact AfterRoute.ofNone
    | with_reducible exact AfterSome.ofNone
    | with_reducible apply AfterEx.ofOk
    | with_reducible exact AfterEx.ofError
    | (with_reducible refine After.ofSealed (by assumption) ?_)
    | (with_reducible refine After.ofOkPair (by assumption) ?_)
    | (with_reducible refine After.ofOk (by assumption) ?_)
    | with_reducible apply After.fold

theorem State.askLeads_after {b T} (x0) (h1 : After T b x0) :
    After T b (@State.askLeads x0) := by
  unfold State.askLeads
  try dsimp only
  repeat' first
    | with_reducible assumption
    | with_reducible apply State.emit_after
    | exact RegIn.block ht (by decide) rfl
    | with_reducible apply AfterRoute.ite
    | split
    | (with_reducible intro _)
    | with_reducible apply AfterOut.ofNext
    | with_reducible apply AfterOpt.ofSome
    | with_reducible exact AfterOpt.ofNone
    | (with_reducible refine After.ofPair (by assumption) ?_)
    | (with_reducible refine After.ofTriple (by assumption) ?_)
    | (with_reducible refine After.ofOpt (by assumption) ?_)
    | with_reducible apply AfterSome.ofSome
    | with_reducible apply AfterRoute.ofSome
    | with_reducible exact AfterRoute.ofNone
    | with_reducible exact AfterSome.ofNone
    | with_reducible apply AfterEx.ofOk
    | with_reducible exact AfterEx.ofError
    | (with_reducible refine After.ofSealed (by assumption) ?_)
    | (with_reducible refine After.ofOkPair (by assumption) ?_)
    | (with_reducible refine After.ofOk (by assumption) ?_)
    | with_reducible apply After.fold

theorem State.startSanitize_after {b T} (x0) (x1) (x2) (x3) (x4) (x5) (ht : Within 0x4016011108a601 T) (h1 : After T b x0) :
    After T b (@State.startSanitize x0 x1 x2 x3 x4 x5) := by
  unfold State.startSanitize
  try dsimp only
  repeat' first
    | with_reducible assumption
    | with_reducible apply State.endAdmin_after
    | with_reducible apply State.onAdmin_after
    | with_reducible apply State.startOperation_after
    | with_reducible apply State.askLeads_after
    | with_reducible exact Within.mono ht rfl
    | exact RegIn.block ht (by decide) rfl
    | with_reducible apply AfterRoute.ite
    | split
    | (with_reducible intro _)
    | with_reducible apply AfterOut.ofNext
    | with_reducible apply AfterOpt.ofSome
    | with_reducible exact AfterOpt.ofNone
    | (with_reducible refine After.ofPair (by assumption) ?_)
    | (with_reducible refine After.ofTriple (by assumption) ?_)
    | (with_reducible refine After.ofOpt (by assumption) ?_)
    | with_reducible apply AfterSome.ofSome
    | with_reducible apply AfterRoute.ofSome
    | with_reducible exact AfterRoute.ofNone
    | with_reducible exact AfterSome.ofNone
    | with_reducible apply AfterEx.ofOk
    | with_reducible exact AfterEx.ofError
    | (with_reducible refine After.ofSealed (by assumption) ?_)
    | (with_reducible refine After.ofOkPair (by assumption) ?_)
    | (with_reducible refine After.ofOk (by assumption) ?_)
    | with_reducible apply After.fold

theorem State.sanitizeRun_after {b T} (x0) (x1) (x2) (ht : Within 0x40044111082601 T) (h1 : After T b x0) (h3 : ∀ y0, After T b y0 → After T b (x2 y0)) :
    After T b (@State.sanitizeRun x0 x1 x2) := by
  unfold State.sanitizeRun
  try dsimp only
  repeat' first
    | with_reducible assumption
    | with_reducible apply State.adminRun_after

theorem execSanitizeBlockErase_after {b T} (x0) (x1) (x2) (ht : Within 0x6036591908bec1 T) (h3 : After T b x2) :
    AfterOut T b ((@execSanitizeBlockErase x0 x1 x2)) := by
  unfold execSanitizeBlockErase
  try dsimp only
  repeat' first
    | with_reducible assumption
    | with_reducible apply onData_after
    | with_reducible apply State.sanitizeRun_after
    | with_reducible apply State.startSanitize_after
    | with_reducible exact Within.mono ht rfl
    | with_reducible apply AfterRoute.ite
    | split
    | (with_reducible intro _)

theorem execSanitizeOverwrite_after {b T} (x0) (x1) (x2) (x3) (x4) (x5) (ht : Within 0x6036591908bec1 T) (h6 : After T b x5) :
    AfterOut T b ((@execSanitizeOverwrite x0 x1 x2 x3 x4 x5)) := by
  unfold execSanitizeOverwrite
  try dsimp only
  repeat' first
    | with_reducible assumption
    | with_reducible apply onData_after
    | with_reducible apply State.sanitizeRun_after
    | with_reducible apply State.endAdmin_after
    | with_reducible apply State.startSanitize_after
    | with_reducible exact Within.mono ht rfl
    | with_reducible apply AfterRoute.ite
    | split
    | (with_reducible intro _)

theorem execSanitizeCryptoErase_after {b T} (x0) (x1) (x2) (ht : Within 0x6036591908bec1 T) (h3 : After T b x2) :
    AfterOut T b ((@execSanitizeCryptoErase x0 x1 x2)) := by
  unfold execSanitizeCryptoErase
  try dsimp only
  repeat' first
    | with_reducible assumption
    | with_reducible apply onData_after
    | with_reducible apply State.sanitizeRun_after
    | with_reducible apply State.startSanitize_after
    | with_reducible exact Within.mono ht rfl
    | with_reducible apply AfterRoute.ite
    | split
    | (with_reducible intro _)

theorem execSanitizeExitFailureMode_after {b T} (x0) (x1) (ht : Within 0x6036591908bec1 T) (h2 : After T b x1) :
    AfterOut T b (@execSanitizeExitFailureMode x0 x1) := by
  unfold execSanitizeExitFailureMode
  try dsimp only
  repeat' first
    | with_reducible assumption
    | with_reducible apply onData_after
    | with_reducible apply State.sanitizeRun_after
    | with_reducible apply State.endAdmin_after
    | with_reducible apply State.onLongOp_after
    | with_reducible apply State.writeProgress_after
    | with_reducible apply State.onAdmin_after
    | with_reducible exact Within.mono ht rfl
    | exact RegIn.block ht (by decide) rfl
    | with_reducible apply AfterRoute.ite
    | split
    | (with_reducible intro _)
    | with_reducible apply AfterOut.ofNext
    | with_reducible apply AfterOpt.ofSome
    | with_reducible exact AfterOpt.ofNone
    | (with_reducible refine After.ofPair (by assumption) ?_)
    | (with_reducible refine After.ofTriple (by assumption) ?_)
    | (with_reducible refine After.ofOpt (by assumption) ?_)
    | with_reducible apply AfterSome.ofSome
    | with_reducible apply AfterRoute.ofSome
    | with_reducible exact AfterRoute.ofNone
    | with_reducible exact AfterSome.ofNone
    | with_reducible apply AfterEx.ofOk
    | with_reducible exact AfterEx.ofError
    | (with_reducible refine After.ofSealed (by assumption) ?_)
    | (with_reducible refine After.ofOkPair (by assumption) ?_)
    | (with_reducible refine After.ofOk (by assumption) ?_)
    | with_reducible apply After.fold

theorem State.unitDone_after {b T} (x0) (x1) (x2) (x3) (ht : Within 0x40125010088c00 T) (h1 : After T b x0) :
    After T b (@State.unitDone x0 x1 x2 x3) := by
  unfold State.unitDone
  try dsimp only
  repeat' first
    | with_reducible assumption
    | with_reducible apply State.walkSanitizeUnit_after
    | with_reducible apply State.walkFormatUnit_after
    | with_reducible apply State.onLongOp_after
    | with_reducible apply State.writeProgress_after
    | with_reducible exact Within.mono ht rfl
    | exact RegIn.block ht (by decide) rfl
    | with_reducible apply AfterRoute.ite
    | split
    | (with_reducible intro _)
    | with_reducible apply AfterOut.ofNext
    | with_reducible apply AfterOpt.ofSome
    | with_reducible exact AfterOpt.ofNone
    | (with_reducible refine After.ofPair (by assumption) ?_)
    | (with_reducible refine After.ofTriple (by assumption) ?_)
    | (with_reducible refine After.ofOpt (by assumption) ?_)
    | with_reducible apply AfterSome.ofSome
    | with_reducible apply AfterRoute.ofSome
    | with_reducible exact AfterRoute.ofNone
    | with_reducible exact AfterSome.ofNone
    | with_reducible apply AfterEx.ofOk
    | with_reducible exact AfterEx.ofError
    | (with_reducible refine After.ofSealed (by assumption) ?_)
    | (with_reducible refine After.ofOkPair (by assumption) ?_)
    | (with_reducible refine After.ofOk (by assumption) ?_)
    | with_reducible apply After.fold

theorem execWalkUnitComplete_after {b T} (x0) (x1) (x2) (x3) (ht : Within 0x6036591908bec1 T) (h4 : After T b x3) :
    AfterOut T b ((@execWalkUnitComplete x0 x1 x2 x3)) := by
  unfold execWalkUnitComplete
  try dsimp only
  repeat' first
    | with_reducible assumption
    | with_reducible apply onData_after
    | with_reducible apply State.unitDone_after
    | with_reducible exact Within.mono ht rfl
    | with_reducible apply AfterRoute.ite
    | split
    | (with_reducible intro _)

theorem State.recordDurable_after {b T} (x0) (x1) (x2) (ht : Within 0x4036011108a681 T) (h1 : After T b x0) :
    After T b (@State.recordDurable x0 x1 x2) := by
  unfold State.recordDurable
  try dsimp only
  repeat' first
    | with_reducible assumption
    | with_reducible apply State.onLongOp_after
    | with_reducible apply State.endOperation_after
    | with_reducible apply State.writeProgress_after
    | with_reducible exact Within.mono ht rfl
    | with_reducible apply AfterRoute.ite
    | split

theorem execProgressRecordDurable_after {b T} (x0) (x1) (x2) (ht : Within 0x6036591908bec1 T) (h3 : After T b x2) :
    AfterOut T b ((@execProgressRecordDurable x0 x1 x2)) := by
  unfold execProgressRecordDurable
  try dsimp only
  repeat' first
    | with_reducible assumption
    | with_reducible apply onData_after
    | with_reducible apply State.recordDurable_after
    | with_reducible exact Within.mono ht rfl
    | with_reducible apply AfterRoute.ite
    | split
    | (with_reducible intro _)

theorem execWalkResume_after {b T} (x0) (x1) (x2) (ht : Within 0x6036591908bec1 T) (h3 : After T b x2) :
    AfterOut T b (@execWalkResume x0 x1 x2) := by
  unfold execWalkResume
  try dsimp only
  repeat' first
    | with_reducible assumption
    | with_reducible apply onData_after
    | with_reducible apply State.yieldWalks_after
    | with_reducible apply State.onAdmin_after
    | with_reducible apply State.raiseHighWater_after
    | with_reducible apply State.askLeads_after
    | with_reducible apply State.onNamespace_after
    | with_reducible exact Within.mono ht rfl
    | exact RegIn.block ht (by decide) rfl
    | with_reducible apply AfterRoute.ite
    | split
    | (with_reducible intro _)
    | with_reducible apply AfterOut.ofNext
    | with_reducible apply AfterOpt.ofSome
    | with_reducible exact AfterOpt.ofNone
    | (with_reducible refine After.ofPair (by assumption) ?_)
    | (with_reducible refine After.ofTriple (by assumption) ?_)
    | (with_reducible refine After.ofOpt (by assumption) ?_)
    | with_reducible apply AfterSome.ofSome
    | with_reducible apply AfterRoute.ofSome
    | with_reducible exact AfterRoute.ofNone
    | with_reducible exact AfterSome.ofNone
    | with_reducible apply AfterEx.ofOk
    | with_reducible exact AfterEx.ofError
    | (with_reducible refine After.ofSealed (by assumption) ?_)
    | (with_reducible refine After.ofOkPair (by assumption) ?_)
    | (with_reducible refine After.ofOk (by assumption) ?_)
    | with_reducible apply After.fold

end Sys2Proof.Machine
end

