-- ==== Sys2Proof/Laws/Exec.lean ====
section
/-! SUPPORT. What `exec` does with each command is its meaning: one lemma per constructor, so that no proof unfolds `exec`. -/

set_option Elab.async false

namespace Sys2Proof.Machine

@[simp] theorem exec_plainRegisterWrite (who : Requester) (addr width : Nat) (value : Word) (s : State) : exec (.plainRegisterWrite who addr width value) s = execPlainRegisterWrite who addr width value s :=
  (rfl)
@[simp] theorem exec_rcRegisterRead (who : Requester) (addr width : Nat) (s : State) : exec (.rcRegisterRead who addr width) s = execRcRegisterRead who addr width s :=
  (rfl)
@[simp] theorem exec_lowWordRead (who : Requester) (addr : Nat) (s : State) : exec (.lowWordRead who addr) s = execLowWordRead who addr s :=
  (rfl)
@[simp] theorem exec_unassignedBlockAccess (who : Requester) (addr : Nat) (write : Bool) (s : State) : exec (.unassignedBlockAccess who addr write) s = execUnassignedBlockAccess who addr write s :=
  (rfl)
@[simp] theorem exec_directHostRegisterAccess (offset : Nat) (write : Bool) (value : Word) (s : State) : exec (.directHostRegisterAccess offset write value) s = execDirectHostRegisterAccess offset write value s :=
  (rfl)
@[simp] theorem exec_offDomainAccess (who : Requester) (addr : Nat) (write : Bool) (s : State) : exec (.offDomainAccess who addr write) s = execOffDomainAccess who addr write s :=
  (rfl)
@[simp] theorem exec_registerRead (slot tag : Nat) (s : State) : exec (.registerRead slot tag) s = execRegisterRead slot tag s :=
  (rfl)
@[simp] theorem exec_registerWrite (slot tag : Nat) (s : State) : exec (.registerWrite slot tag) s = execRegisterWrite slot tag s :=
  (rfl)
@[simp] theorem exec_rwtFieldWrite (who : Requester) (addr : Nat) (value : Word) (s : State) : exec (.rwtFieldWrite who addr value) s = execRwtFieldWrite who addr value s :=
  (rfl)
@[simp] theorem exec_coldReset (s : State) : exec (.coldReset) s = execColdReset s := (rfl)
@[simp] theorem exec_moduleResetTaken (s : State) : exec (.moduleResetTaken) s = execModuleResetTaken s := (rfl)
@[simp] theorem exec_memoryFillComplete (s : State) : exec (.memoryFillComplete) s = execMemoryFillComplete s :=
  (rfl)
@[simp] theorem exec_pllLock (s : State) : exec (.pllLock) s = execPllLock s := (rfl)
@[simp] theorem exec_rootClockFault (s : State) : exec (.rootClockFault) s = execRootClockFault s := (rfl)
@[simp] theorem exec_measureBoundary (s : State) : exec (.measureBoundary) s = execMeasureBoundary s := (rfl)
@[simp] theorem exec_boundaryWindowEnd (s : State) : exec (.boundaryWindowEnd) s = execBoundaryWindowEnd s := (rfl)
@[simp] theorem exec_measStepRequest (who : Requester) (value : Word) (s : State) : exec (.measStepRequest who value) s = execMeasStepRequest who value s :=
  (rfl)
@[simp] theorem exec_timeStepApply (s : State) : exec (.timeStepApply) s = execTimeStepApply s := (rfl)
@[simp] theorem exec_measOffsWrite (offset : Word) (s : State) : exec (.measOffsWrite offset) s = execMeasOffsWrite offset s :=
  (rfl)
@[simp] theorem exec_measSrcWrite (src : Nat) (s : State) : exec (.measSrcWrite src) s = execMeasSrcWrite src s :=
  (rfl)
@[simp] theorem exec_offsetWriteTimeout (s : State) : exec (.offsetWriteTimeout) s = execOffsetWriteTimeout s :=
  (rfl)
@[simp] theorem exec_holdoverExpiry (s : State) : exec (.holdoverExpiry) s = execHoldoverExpiry s := (rfl)
@[simp] theorem exec_measRunSet (s : State) : exec (.measRunSet) s = execMeasRunSet s := (rfl)
@[simp] theorem exec_flush (e : IoEntry) (s : State) : exec (.flush e) s = execFlush e s := (rfl)
@[simp] theorem exec_write (e : IoEntry) (r : IoRange) (buffer : HostBuffer) (s : State) : exec (.write e r buffer) s = execWrite e r buffer s :=
  (rfl)
@[simp] theorem exec_read (e : IoEntry) (r : IoRange) (s : State) : exec (.read e r) s = execRead e r s := (rfl)
@[simp] theorem exec_compare (e : IoEntry) (r : IoRange) (buffer : HostBuffer) (s : State) : exec (.compare e r buffer) s = execCompare e r buffer s :=
  (rfl)
@[simp] theorem exec_writeZeroes (e : IoEntry) (r : IoRange) (s : State) : exec (.writeZeroes e r) s = execWriteZeroes e r s :=
  (rfl)
@[simp] theorem exec_datasetManagement (e : IoEntry) (ranges : List BlockRange) (deallocate : Bool) (s : State) : exec (.datasetManagement e ranges deallocate) s = execDatasetManagement e ranges deallocate s :=
  (rfl)
@[simp] theorem exec_verify (e : IoEntry) (r : IoRange) (s : State) : exec (.verify e r) s = execVerify e r s :=
  (rfl)
@[simp] theorem exec_reservationRegister (e : IoEntry) (action : Nat) (crkey nrkey : DWord) (s : State) : exec (.reservationRegister e action crkey nrkey) s = execReservationRegister e action crkey nrkey s :=
  (rfl)
@[simp] theorem exec_reservationReport (e : IoEntry) (extended : Bool) (s : State) : exec (.reservationReport e extended) s = execReservationReport e extended s :=
  (rfl)
@[simp] theorem exec_reservationAcquire (e : IoEntry) (action rtype : Nat) (crkey prkey : DWord) (s : State) : exec (.reservationAcquire e action rtype crkey prkey) s = execReservationAcquire e action rtype crkey prkey s :=
  (rfl)
@[simp] theorem exec_reservationRelease (e : IoEntry) (action rtype : Nat) (crkey : DWord) (s : State) : exec (.reservationRelease e action rtype crkey) s = execReservationRelease e action rtype crkey s :=
  (rfl)
@[simp] theorem exec_copy (e : IoEntry) (sources : List BlockRange) (dest : Nat) (s : State) : exec (.copy e sources dest) s = execCopy e sources dest s :=
  (rfl)
@[simp] theorem exec_unknownIoOpcode (e : IoEntry) (s : State) : exec (.unknownIoOpcode e) s = execUnknownIoOpcode e s :=
  (rfl)
@[simp] theorem exec_commandSlotGrant (key : CmdKey) (s : State) : exec (.commandSlotGrant key) s = execCommandSlotGrant key s :=
  (rfl)
@[simp] theorem exec_rangeLockGrant (key : CmdKey) (s : State) : exec (.rangeLockGrant key) s = execRangeLockGrant key s :=
  (rfl)
@[simp] theorem exec_dirtyRoomGrant (key : CmdKey) (s : State) : exec (.dirtyRoomGrant key) s = execDirtyRoomGrant key s :=
  (rfl)
@[simp] theorem exec_mirrorCopyAccept (s : State) : exec (.mirrorCopyAccept) s = execMirrorCopyAccept s := (rfl)
@[simp] theorem exec_stripPost (set stripe : Nat) (s : State) : exec (.stripPost set stripe) s = execStripPost set stripe s :=
  (rfl)
@[simp] theorem exec_memberWriteComplete (op : Nat) (s : State) : exec (.memberWriteComplete op) s = execMemberWriteComplete op s :=
  (rfl)
@[simp] theorem exec_memberReadComplete (op : Nat) (content : Bytes) (guardOk refOk : Bool) (appTag : Nat) (s : State) : exec (.memberReadComplete op content guardOk refOk appTag) s = execMemberReadComplete op content guardOk refOk appTag s :=
  (rfl)
@[simp] theorem exec_readDurableResume (key : CmdKey) (s : State) : exec (.readDurableResume key) s = execReadDurableResume key s :=
  (rfl)
@[simp] theorem exec_controllerReset (ctrl : Nat) (ends : Bool) (s : State) : exec (.controllerReset ctrl ends) s = execControllerReset ctrl ends s :=
  (rfl)
@[simp] theorem exec_keepAliveExpiry (ctrl : Nat) (s : State) : exec (.keepAliveExpiry ctrl) s = execKeepAliveExpiry ctrl s :=
  (rfl)
@[simp] theorem exec_shutdownComplete (ctrl : Nat) (s : State) : exec (.shutdownComplete ctrl) s = execShutdownComplete ctrl s :=
  (rfl)
@[simp] theorem exec_firmwareActivation (s : State) : exec (.firmwareActivation) s = execFirmwareActivation s :=
  (rfl)
@[simp] theorem exec_firmwareTrialEnd (s : State) : exec (.firmwareTrialEnd) s = execFirmwareTrialEnd s := (rfl)
@[simp] theorem exec_firmwareTrialTimeout (s : State) : exec (.firmwareTrialTimeout) s = execFirmwareTrialTimeout s :=
  (rfl)
@[simp] theorem exec_getLogPage (e : AdminEntry) (nsid lid offset length : Nat) (s : State) : exec (.getLogPage e nsid lid offset length) s = execGetLogPage e nsid lid offset length s :=
  (rfl)
@[simp] theorem exec_identify (e : AdminEntry) (cns nsid cntid : Nat) (s : State) : exec (.identify e cns nsid cntid) s = execIdentify e cns nsid cntid s :=
  (rfl)
@[simp] theorem exec_abort (key : CmdKey) (s : State) : exec (.abort key) s = execAbort key s := (rfl)
@[simp] theorem exec_setFeatures (e : AdminEntry) (fid : Nat) (save : Bool) (nsid value : Nat) (s : State) : exec (.setFeatures e fid save nsid value) s = execSetFeatures e fid save nsid value s :=
  (rfl)
@[simp] theorem exec_getFeatures (e : AdminEntry) (fid sel nsid : Nat) (s : State) : exec (.getFeatures e fid sel nsid) s = execGetFeatures e fid sel nsid s :=
  (rfl)
@[simp] theorem exec_asynchronousEventRequest (key : CmdKey) (s : State) : exec (.asynchronousEventRequest key) s = execAsynchronousEventRequest key s :=
  (rfl)
@[simp] theorem exec_namespaceManagementCreate (e : AdminEntry) (nsze ncap lbaf anagrpid : Nat) (s : State) : exec (.namespaceManagementCreate e nsze ncap lbaf anagrpid) s = execNamespaceManagementCreate e nsze ncap lbaf anagrpid s :=
  (rfl)
@[simp] theorem exec_namespaceManagementDelete (key : CmdKey) (nsid : Nat) (s : State) : exec (.namespaceManagementDelete key nsid) s = execNamespaceManagementDelete key nsid s :=
  (rfl)
@[simp] theorem exec_adminCommandForward (key : CmdKey) (status dword0 : Nat) (s : State) : exec (.adminCommandForward key status dword0) s = execAdminCommandForward key status dword0 s :=
  (rfl)
@[simp] theorem exec_firmwareImageDownload (e : AdminEntry) (offset : Nat) (data : Bytes) (s : State) : exec (.firmwareImageDownload e offset data) s = execFirmwareImageDownload e offset data s :=
  (rfl)
@[simp] theorem exec_firmwareCommitStore (key : CmdKey) (slot action : Nat) (s : State) : exec (.firmwareCommitStore key slot action) s = execFirmwareCommitStore key slot action s :=
  (rfl)
@[simp] theorem exec_firmwareCommitStoreNext (key : CmdKey) (slot : Nat) (s : State) : exec (.firmwareCommitStoreNext key slot) s = execFirmwareCommitStoreNext key slot s :=
  (rfl)
@[simp] theorem exec_firmwareCommitMark (key : CmdKey) (slot : Nat) (s : State) : exec (.firmwareCommitMark key slot) s = execFirmwareCommitMark key slot s :=
  (rfl)
@[simp] theorem exec_firmwareCommitActivate (key : CmdKey) (slot : Nat) (s : State) : exec (.firmwareCommitActivate key slot) s = execFirmwareCommitActivate key slot s :=
  (rfl)
@[simp] theorem exec_namespaceAttach (e : AdminEntry) (nsid : Nat) (controllers : List Nat) (s : State) : exec (.namespaceAttach e nsid controllers) s = execNamespaceAttach e nsid controllers s :=
  (rfl)
@[simp] theorem exec_namespaceDetach (e : AdminEntry) (nsid : Nat) (controllers : List Nat) (s : State) : exec (.namespaceDetach e nsid controllers) s = execNamespaceDetach e nsid controllers s :=
  (rfl)
@[simp] theorem exec_keepAlive (key : CmdKey) (s : State) : exec (.keepAlive key) s = execKeepAlive key s := (rfl)
@[simp] theorem exec_connect (qp cid : Nat) (c : ConnectCapsule) (s : State) : exec (.connect qp cid c) s = execConnect qp cid c s :=
  (rfl)
@[simp] theorem exec_propertyGet (key : CmdKey) (offset size : Nat) (s : State) : exec (.propertyGet key offset size) s = execPropertyGet key offset size s :=
  (rfl)
@[simp] theorem exec_propertySet (key : CmdKey) (offset size value : Nat) (s : State) : exec (.propertySet key offset size value) s = execPropertySet key offset size value s :=
  (rfl)
@[simp] theorem exec_authenticationSend (e : AdminEntry) (message : Bytes) (s : State) : exec (.authenticationSend e message) s = execAuthenticationSend e message s :=
  (rfl)
@[simp] theorem exec_authenticationReceive (e : AdminEntry) (length : Nat) (s : State) : exec (.authenticationReceive e length) s = execAuthenticationReceive e length s :=
  (rfl)
@[simp] theorem exec_formatNvm (key : CmdKey) (nsid lbaf ses pi : Nat) (s : State) : exec (.formatNvm key nsid lbaf ses pi) s = execFormatNvm key nsid lbaf ses pi s :=
  (rfl)
@[simp] theorem exec_sanitizeExitFailureMode (key : CmdKey) (s : State) : exec (.sanitizeExitFailureMode key) s = execSanitizeExitFailureMode key s :=
  (rfl)
@[simp] theorem exec_sanitizeBlockErase (key : CmdKey) (ause : Bool) (s : State) : exec (.sanitizeBlockErase key ause) s = execSanitizeBlockErase key ause s :=
  (rfl)
@[simp] theorem exec_sanitizeOverwrite (key : CmdKey) (ause oipbp : Bool) (owpass ovrpat : Nat) (s : State) : exec (.sanitizeOverwrite key ause oipbp owpass ovrpat) s = execSanitizeOverwrite key ause oipbp owpass ovrpat s :=
  (rfl)
@[simp] theorem exec_sanitizeCryptoErase (key : CmdKey) (ause : Bool) (s : State) : exec (.sanitizeCryptoErase key ause) s = execSanitizeCryptoErase key ause s :=
  (rfl)
@[simp] theorem exec_walkUnitComplete (slot unit : Nat) (failed : Bool) (s : State) : exec (.walkUnitComplete slot unit failed) s = execWalkUnitComplete slot unit failed s :=
  (rfl)
@[simp] theorem exec_progressRecordDurable (slot seq : Nat) (s : State) : exec (.progressRecordDurable slot seq) s = execProgressRecordDurable slot seq s :=
  (rfl)
@[simp] theorem exec_walkResume (slot : Nat) (found : List ProgressCopy) (s : State) : exec (.walkResume slot found) s = execWalkResume slot found s :=
  (rfl)
@[simp] theorem exec_connectionRequest (c : ConnectRequest) (s : State) : exec (.connectionRequest c) s = execConnectionRequest c s :=
  (rfl)
@[simp] theorem exec_readyToUse (idx : Nat) (s : State) : exec (.readyToUse idx) s = execReadyToUse idx s := (rfl)
@[simp] theorem exec_connectingTimeout (idx : Nat) (s : State) : exec (.connectingTimeout idx) s = execConnectingTimeout idx s :=
  (rfl)
@[simp] theorem exec_disconnectRequest (idx : Nat) (s : State) : exec (.disconnectRequest idx) s = execDisconnectRequest idx s :=
  (rfl)
@[simp] theorem exec_queuePairDrained (idx : Nat) (s : State) : exec (.queuePairDrained idx) s = execQueuePairDrained idx s :=
  (rfl)
@[simp] theorem exec_inboundRequest (qpn psn : Nat) (op : BthOp) (ce bad : Bool) (payload : Bytes) (s : State) : exec (.inboundRequest qpn psn op ce bad payload) s = execInboundRequest qpn psn op ce bad payload s :=
  (rfl)
@[simp] theorem exec_inboundRdmaWrite (qpn psn : Nat) (part : MessagePart) (rkey addr len : Nat) (ce bad : Bool) (payload : Bytes) (s : State) : exec (.inboundRdmaWrite qpn psn part rkey addr len ce bad payload) s = execInboundRdmaWrite qpn psn part rkey addr len ce bad payload s :=
  (rfl)
@[simp] theorem exec_rdmaReadResponse (qpn psn : Nat) (ce bad : Bool) (payload : Bytes) (s : State) : exec (.rdmaReadResponse qpn psn ce bad payload) s = execRdmaReadResponse qpn psn ce bad payload s :=
  (rfl)
@[simp] theorem exec_readRequestComplete (tracker : Nat) (s : State) : exec (.readRequestComplete tracker) s = execReadRequestComplete tracker s :=
  (rfl)
@[simp] theorem exec_readTrackerGrant (idx : Nat) (s : State) : exec (.readTrackerGrant idx) s = execReadTrackerGrant idx s :=
  (rfl)
@[simp] theorem exec_ackReceived (qpn psn : Nat) (s : State) : exec (.ackReceived qpn psn) s = execAckReceived qpn psn s :=
  (rfl)
@[simp] theorem exec_nakReceived (qpn psn : Nat) (kind : NakKind) (s : State) : exec (.nakReceived qpn psn kind) s = execNakReceived qpn psn kind s :=
  (rfl)
@[simp] theorem exec_ackTimeout (idx : Nat) (s : State) : exec (.ackTimeout idx) s = execAckTimeout idx s := (rfl)
@[simp] theorem exec_rnrTimerExpiry (idx : Nat) (s : State) : exec (.rnrTimerExpiry idx) s = execRnrTimerExpiry idx s :=
  (rfl)
@[simp] theorem exec_cnpReceived (qpn : Nat) (s : State) : exec (.cnpReceived qpn) s = execCnpReceived qpn s := (rfl)
@[simp] theorem exec_rateStepTimer (idx : Nat) (s : State) : exec (.rateStepTimer idx) s = execRateStepTimer idx s :=
  (rfl)
@[simp] theorem exec_contextFillComplete (transmit : Bool) (pipe : Nat) (s : State) : exec (.contextFillComplete transmit pipe) s = execContextFillComplete transmit pipe s :=
  (rfl)
@[simp] theorem exec_evictionWritebackComplete (transmit : Bool) (pipe idx : Nat) (s : State) : exec (.evictionWritebackComplete transmit pipe idx) s = execEvictionWritebackComplete transmit pipe idx s :=
  (rfl)
@[simp] theorem exec_qpcDoorbell (who : Requester) (idx tail : Nat) (s : State) : exec (.qpcDoorbell who idx tail) s = execQpcDoorbell who idx tail s :=
  (rfl)
@[simp] theorem exec_workRequestComplete (idx : Nat) (s : State) : exec (.workRequestComplete idx) s = execWorkRequestComplete idx s :=
  (rfl)
@[simp] theorem exec_qpcCreate (who : Requester) (s : State) : exec (.qpcCreate who) s = execQpcCreate who s := (rfl)
@[simp] theorem exec_qpcRead (who : Requester) (s : State) : exec (.qpcRead who) s = execQpcRead who s := (rfl)
@[simp] theorem exec_qpcDestroy (who : Requester) (s : State) : exec (.qpcDestroy who) s = execQpcDestroy who s :=
  (rfl)
@[simp] theorem exec_qpcFlush (who : Requester) (s : State) : exec (.qpcFlush who) s = execQpcFlush who s := (rfl)
@[simp] theorem exec_qpcPin (who : Requester) (s : State) : exec (.qpcPin who) s = execQpcPin who s := (rfl)
@[simp] theorem exec_qpcUnpin (who : Requester) (s : State) : exec (.qpcUnpin who) s = execQpcUnpin who s := (rfl)
@[simp] theorem exec_frameAdmission (f : FrameOffer) (s : State) : exec (.frameAdmission f) s = execFrameAdmission f s :=
  (rfl)
@[simp] theorem exec_frameReadComplete (frame : Nat) (bad : Option BadTail) (wait : Nat) (s : State) : exec (.frameReadComplete frame bad wait) s = execFrameReadComplete frame bad wait s :=
  (rfl)
@[simp] theorem exec_resequencerArrival (frame : Nat) (s : State) : exec (.resequencerArrival frame) s = execResequencerArrival frame s :=
  (rfl)
@[simp] theorem exec_resequencerTimeout (dest flow : Nat) (s : State) : exec (.resequencerTimeout dest flow) s = execResequencerTimeout dest flow s :=
  (rfl)
@[simp] theorem exec_trackerFree (dest : Nat) (s : State) : exec (.trackerFree dest) s = execTrackerFree dest s :=
  (rfl)
@[simp] theorem exec_pfcPauseReceived (port lane cls quanta : Nat) (s : State) : exec (.pfcPauseReceived port lane cls quanta) s = execPfcPauseReceived port lane cls quanta s :=
  (rfl)
@[simp] theorem exec_pauseExpiry (port lane cls : Nat) (s : State) : exec (.pauseExpiry port lane cls) s = execPauseExpiry port lane cls s :=
  (rfl)
@[simp] theorem exec_pfcWatchdogExpiry (port lane cls : Nat) (s : State) : exec (.pfcWatchdogExpiry port lane cls) s = execPfcWatchdogExpiry port lane cls s :=
  (rfl)
@[simp] theorem exec_pfcWatchdogEnd (port lane cls : Nat) (s : State) : exec (.pfcWatchdogEnd port lane cls) s = execPfcWatchdogEnd port lane cls s :=
  (rfl)
@[simp] theorem exec_epochArm (who : Requester) (value : Word) (s : State) : exec (.epochArm who value) s = execEpochArm who value s :=
  (rfl)
@[simp] theorem exec_ftWriteShadow (who : Requester) (idx : Nat) (s : State) : exec (.ftWriteShadow who idx) s = execFtWriteShadow who idx s :=
  (rfl)
@[simp] theorem exec_ftReadActive (who : Requester) (idx : Nat) (s : State) : exec (.ftReadActive who idx) s = execFtReadActive who idx s :=
  (rfl)
@[simp] theorem exec_ftReadShadow (who : Requester) (idx : Nat) (s : State) : exec (.ftReadShadow who idx) s = execFtReadShadow who idx s :=
  (rfl)
@[simp] theorem exec_epochDrained (s : State) : exec (.epochDrained) s = execEpochDrained s := (rfl)
@[simp] theorem exec_laneFrameStart (port lane : Nat) (s : State) : exec (.laneFrameStart port lane) s = execLaneFrameStart port lane s :=
  (rfl)
@[simp] theorem exec_gateEntryChange (port : Nat) (s : State) : exec (.gateEntryChange port) s = execGateEntryChange port s :=
  (rfl)
@[simp] theorem exec_gateSwitchoverArm (who : Requester) (port : Nat) (value : Word) (s : State) : exec (.gateSwitchoverArm who port value) s = execGateSwitchoverArm who port value s :=
  (rfl)
@[simp] theorem exec_wheelSlotChange (port : Nat) (s : State) : exec (.wheelSlotChange port) s = execWheelSlotChange port s :=
  (rfl)
@[simp] theorem exec_figWriteNext (who : Requester) (set row : Nat) (s : State) : exec (.figWriteNext who set row) s = execFigWriteNext who set row s :=
  (rfl)
@[simp] theorem exec_figReadActive (who : Requester) (set row : Nat) (s : State) : exec (.figReadActive who set row) s = execFigReadActive who set row s :=
  (rfl)
@[simp] theorem exec_figReadNext (who : Requester) (set row : Nat) (s : State) : exec (.figReadNext who set row) s = execFigReadNext who set row s :=
  (rfl)
@[simp] theorem exec_stripeClose (set stripe : Nat) (s : State) : exec (.stripeClose set stripe) s = execStripeClose set stripe s :=
  (rfl)
@[simp] theorem exec_stripeIdleTimeout (set stripe : Nat) (s : State) : exec (.stripeIdleTimeout set stripe) s = execStripeIdleTimeout set stripe s :=
  (rfl)
@[simp] theorem exec_journalBlockWrite (set : Nat) (s : State) : exec (.journalBlockWrite set) s = execJournalBlockWrite set s :=
  (rfl)
@[simp] theorem exec_journalRecovery (set : Nat) (blocks : List Bytes) (lost : List (Nat × Bytes)) (s : State) : exec (.journalRecovery set blocks lost) s = execJournalRecovery set blocks lost s :=
  (rfl)
@[simp] theorem exec_setAssembly (set : Nat) (s : State) : exec (.setAssembly set) s = execSetAssembly set s := (rfl)
@[simp] theorem exec_memberFailed (set member : Nat) (s : State) : exec (.memberFailed set member) s = execMemberFailed set member s :=
  (rfl)
@[simp] theorem exec_rebuildStep (set : Nat) (s : State) : exec (.rebuildStep set) s = execRebuildStep set s := (rfl)
@[simp] theorem exec_rebuildStepComplete (set stripe : Nat) (s : State) : exec (.rebuildStepComplete set stripe) s = execRebuildStepComplete set stripe s :=
  (rfl)
@[simp] theorem exec_lostMapWrite (block : Nat) (found : List Bytes) (s : State) : exec (.lostMapWrite block found) s = execLostMapWrite block found s :=
  (rfl)
@[simp] theorem exec_lostMapDurable (set stripe strip : Nat) (s : State) : exec (.lostMapDurable set stripe strip) s = execLostMapDurable set stripe strip s :=
  (rfl)
@[simp] theorem exec_journalRehome (set drive : Nat) (s : State) : exec (.journalRehome set drive) s = execJournalRehome set drive s :=
  (rfl)
@[simp] theorem exec_repairStep (set at' strip row : Nat) (s : State) : exec (.repairStep set at' strip row) s = execRepairStep set at' strip row s :=
  (rfl)
@[simp] theorem exec_scrubStep (set stripe : Nat) (s : State) : exec (.scrubStep set stripe) s = execScrubStep set stripe s :=
  (rfl)
@[simp] theorem exec_replacementAccept (set member : Nat) (s : State) : exec (.replacementAccept set member) s = execReplacementAccept set member s :=
  (rfl)
@[simp] theorem exec_copyBackStep (set : Nat) (s : State) : exec (.copyBackStep set) s = execCopyBackStep set s :=
  (rfl)
@[simp] theorem exec_promenadeStart (who : Requester) (set : Nat) (s : State) : exec (.promenadeStart who set) s = execPromenadeStart who set s :=
  (rfl)
@[simp] theorem exec_setCreate (who : Requester) (set : Nat) (s : State) : exec (.setCreate who set) s = execSetCreate who set s :=
  (rfl)
@[simp] theorem exec_setDelete (who : Requester) (set : Nat) (s : State) : exec (.setDelete who set) s = execSetDelete who set s :=
  (rfl)
@[simp] theorem exec_promenadeMoveStart (nsid ext : Nat) (s : State) : exec (.promenadeMoveStart nsid ext) s = execPromenadeMoveStart nsid ext s :=
  (rfl)
@[simp] theorem exec_promenadeCopyPassEnd (nsid ext : Nat) (s : State) : exec (.promenadeCopyPassEnd nsid ext) s = execPromenadeCopyPassEnd nsid ext s :=
  (rfl)
@[simp] theorem exec_promenadeCatchupDone (nsid ext : Nat) (s : State) : exec (.promenadeCatchupDone nsid ext) s = execPromenadeCatchupDone nsid ext s :=
  (rfl)
@[simp] theorem exec_promenadeOldRangeFree (nsid ext : Nat) (s : State) : exec (.promenadeOldRangeFree nsid ext) s = execPromenadeOldRangeFree nsid ext s :=
  (rfl)
@[simp] theorem exec_promenadeFinalEpoch (set : Nat) (s : State) : exec (.promenadeFinalEpoch set) s = execPromenadeFinalEpoch set s :=
  (rfl)
@[simp] theorem exec_promenadeDrainDone (set : Nat) (s : State) : exec (.promenadeDrainDone set) s = execPromenadeDrainDone set s :=
  (rfl)
@[simp] theorem exec_energyMeasurement (vbankSum : Nat) (s : State) : exec (.energyMeasurement vbankSum) s = execEnergyMeasurement vbankSum s :=
  (rfl)
@[simp] theorem exec_chargeComplete (s : State) : exec (.chargeComplete) s = execChargeComplete s := (rfl)
@[simp] theorem exec_chargeLevelDrop (s : State) : exec (.chargeLevelDrop) s = execChargeLevelDrop s := (rfl)
@[simp] theorem exec_nrgTestRequest (who : Requester) (s : State) : exec (.nrgTestRequest who) s = execNrgTestRequest who s :=
  (rfl)
@[simp] theorem exec_capacityTestStart (s : State) : exec (.capacityTestStart) s = execCapacityTestStart s := (rfl)
@[simp] theorem exec_capacityTestDone (cap esr : Nat) (s : State) : exec (.capacityTestDone cap esr) s = execCapacityTestDone cap esr s :=
  (rfl)
@[simp] theorem exec_storeFailure (unbalanced : Bool) (s : State) : exec (.storeFailure unbalanced) s = execStoreFailure unbalanced s :=
  (rfl)
@[simp] theorem exec_powerFailDecision (s : State) : exec (.powerFailDecision) s = execPowerFailDecision s := (rfl)
@[simp] theorem exec_quiesceComplete (s : State) : exec (.quiesceComplete) s = execQuiesceComplete s := (rfl)
@[simp] theorem exec_destageSeal (whole extra : Nat) (s : State) : exec (.destageSeal whole extra) s = execDestageSeal whole extra s :=
  (rfl)
@[simp] theorem exec_decisionResetTimer (s : State) : exec (.decisionResetTimer) s = execDecisionResetTimer s :=
  (rfl)
@[simp] theorem exec_vaultSelfCheck (s : State) : exec (.vaultSelfCheck) s = execVaultSelfCheck s := (rfl)
@[simp] theorem exec_vaultRestore (badTags : List Nat) (s : State) : exec (.vaultRestore badTags) s = execVaultRestore badTags s :=
  (rfl)
@[simp] theorem exec_sectionSummary (peer : PeerSummary) (s : State) : exec (.sectionSummary peer) s = execSectionSummary peer s :=
  (rfl)
@[simp] theorem exec_summaryTimeout (s : State) : exec (.summaryTimeout) s = execSummaryTimeout s := (rfl)
@[simp] theorem exec_restoreInstall (group : Nat) (fromPeer : List RestoredBlock) (s : State) : exec (.restoreInstall group fromPeer) s = execRestoreInstall group fromPeer s :=
  (rfl)
@[simp] theorem exec_vaultRetire (s : State) : exec (.vaultRetire) s = execVaultRetire s := (rfl)
@[simp] theorem exec_vaultFault (s : State) : exec (.vaultFault) s = execVaultFault s := (rfl)
@[simp] theorem exec_mapMirrorCopy (pages : Nat) (s : State) : exec (.mapMirrorCopy pages) s = execMapMirrorCopy pages s :=
  (rfl)
@[simp] theorem exec_linkEnable (who : Requester) (value : Word) (s : State) : exec (.linkEnable who value) s = execLinkEnable who value s :=
  (rfl)
@[simp] theorem exec_linkTrained (lanes : Nat) (s : State) : exec (.linkTrained lanes) s = execLinkTrained lanes s :=
  (rfl)
@[simp] theorem exec_trainingTimeout (s : State) : exec (.trainingTimeout) s = execTrainingTimeout s := (rfl)
@[simp] theorem exec_trainingRetry (s : State) : exec (.trainingRetry) s = execTrainingRetry s := (rfl)
@[simp] theorem exec_fastRetrain (s : State) : exec (.fastRetrain) s = execFastRetrain s := (rfl)
@[simp] theorem exec_peerRemoved (cleared : Option (Requester × Word)) (s : State) : exec (.peerRemoved cleared) s = execPeerRemoved cleared s :=
  (rfl)
@[simp] theorem exec_linkAckReceived (h : FrameHead) (gap : Bool) (room : List (Nat × Nat)) (s : State) : exec (.linkAckReceived h gap room) s = execLinkAckReceived h gap room s :=
  (rfl)
@[simp] theorem exec_linkAckTimer (s : State) : exec (.linkAckTimer) s = execLinkAckTimer s := (rfl)
@[simp] theorem exec_mirrorCopyReceived (h : FrameHead) (b : MirrorBlock) (s : State) : exec (.mirrorCopyReceived h b) s = execMirrorCopyReceived h b s :=
  (rfl)
@[simp] theorem exec_windowWriteReceived (h : FrameHead) (payload : Bytes) (s : State) : exec (.windowWriteReceived h payload) s = execWindowWriteReceived h payload s :=
  (rfl)
@[simp] theorem exec_messageReceived (h : FrameHead) (payload : Bytes) (s : State) : exec (.messageReceived h payload) s = execMessageReceived h payload s :=
  (rfl)
@[simp] theorem exec_stateCopyReceived (h : FrameHead) (copy : StateCopy) (last : Bool) (s : State) : exec (.stateCopyReceived h copy last) s = execStateCopyReceived h copy last s :=
  (rfl)
@[simp] theorem exec_commitMarkerReceived (h : FrameHead) (counts : List (Nat × Nat)) (s : State) : exec (.commitMarkerReceived h counts) s = execCommitMarkerReceived h counts s :=
  (rfl)
@[simp] theorem exec_commitReceived (h : FrameHead) (s : State) : exec (.commitReceived h) s = execCommitReceived h s :=
  (rfl)
@[simp] theorem exec_resendRequestReceived (h : FrameHead) (s : State) : exec (.resendRequestReceived h) s = execResendRequestReceived h s :=
  (rfl)
@[simp] theorem exec_resumeReceived (h : FrameHead) (values : PairValues) (s : State) : exec (.resumeReceived h values) s = execResumeReceived h values s :=
  (rfl)
@[simp] theorem exec_messageSendPost (who : Requester) (chan post : Nat) (s : State) : exec (.messageSendPost who chan post) s = execMessageSendPost who chan post s :=
  (rfl)
@[simp] theorem exec_messageReceivePost (who : Requester) (chan post : Nat) (s : State) : exec (.messageReceivePost who chan post) s = execMessageReceivePost who chan post s :=
  (rfl)
@[simp] theorem exec_messageWithdraw (chan : Nat) (s : State) : exec (.messageWithdraw chan) s = execMessageWithdraw chan s :=
  (rfl)
@[simp] theorem exec_followLost (s : State) : exec (.followLost) s = execFollowLost s := (rfl)
@[simp] theorem exec_leadSilenceTimeout (s : State) : exec (.leadSilenceTimeout) s = execLeadSilenceTimeout s :=
  (rfl)
@[simp] theorem exec_leaseRenewal (s : State) : exec (.leaseRenewal) s = execLeaseRenewal s := (rfl)
@[simp] theorem exec_renewalComplete (group : Nat) (granted : List Nat) (reads : List TokenRead) (s : State) : exec (.renewalComplete group granted reads) s = execRenewalComplete group granted reads s :=
  (rfl)
@[simp] theorem exec_leaseExpiry (group : Nat) (s : State) : exec (.leaseExpiry group) s = execLeaseExpiry group s :=
  (rfl)
@[simp] theorem exec_peerSuspect (s : State) : exec (.peerSuspect) s = execPeerSuspect s := (rfl)
@[simp] theorem exec_cutInWaitEnd (s : State) : exec (.cutInWaitEnd) s = execCutInWaitEnd s := (rfl)
@[simp] theorem exec_claimComplete (granted failed : List (Nat × Nat)) (s : State) : exec (.claimComplete granted failed) s = execClaimComplete granted failed s :=
  (rfl)
@[simp] theorem exec_fence (s : State) : exec (.fence) s = execFence s := (rfl)
@[simp] theorem exec_fenceComplete (failed : List Nat) (blocks : List Bytes) (s : State) : exec (.fenceComplete failed blocks) s = execFenceComplete failed blocks s :=
  (rfl)
@[simp] theorem exec_takeComplete (s : State) : exec (.takeComplete) s = execTakeComplete s := (rfl)
@[simp] theorem exec_peerCycle (s : State) : exec (.peerCycle) s = execPeerCycle s := (rfl)
@[simp] theorem exec_moduleFenced (s : State) : exec (.moduleFenced) s = execModuleFenced s := (rfl)
@[simp] theorem exec_standbySelfTest (group : Nat) (reads : List TokenRead) (absent bad : List Nat) (s : State) : exec (.standbySelfTest group reads absent bad) s = execStandbySelfTest group reads absent bad s :=
  (rfl)
@[simp] theorem exec_handOver (group : Nat) (s : State) : exec (.handOver group) s = execHandOver group s := (rfl)
@[simp] theorem exec_handOverGranted (group : Nat) (reads : List TokenRead) (s : State) : exec (.handOverGranted group reads) s = execHandOverGranted group reads s :=
  (rfl)
@[simp] theorem exec_handBack (group : Nat) (s : State) : exec (.handBack group) s = execHandBack group s := (rfl)
@[simp] theorem exec_witnessReplace (witness : Nat) (reads : List TokenRead) (s : State) : exec (.witnessReplace witness reads) s = execWitnessReplace witness reads s :=
  (rfl)
@[simp] theorem exec_ltkHandOverGroup (who : Requester) (group : Nat) (s : State) : exec (.ltkHandOverGroup who group) s = execLtkHandOverGroup who group s :=
  (rfl)
@[simp] theorem exec_ltkHandOverAll (who : Requester) (s : State) : exec (.ltkHandOverAll who) s = execLtkHandOverAll who s :=
  (rfl)
@[simp] theorem exec_ltkReleaseGroup (who : Requester) (group : Nat) (s : State) : exec (.ltkReleaseGroup who group) s = execLtkReleaseGroup who group s :=
  (rfl)
@[simp] theorem exec_ltkAcquireGroup (who : Requester) (group : Nat) (s : State) : exec (.ltkAcquireGroup who group) s = execLtkAcquireGroup who group s :=
  (rfl)
@[simp] theorem exec_ltkRunSelfTest (who : Requester) (s : State) : exec (.ltkRunSelfTest who) s = execLtkRunSelfTest who s :=
  (rfl)
@[simp] theorem exec_presenceChange (slot : Nat) (s : State) : exec (.presenceChange slot) s = execPresenceChange slot s :=
  (rfl)
@[simp] theorem exec_slotDebounceEnd (slot : Nat) (s : State) : exec (.slotDebounceEnd slot) s = execSlotDebounceEnd slot s :=
  (rfl)
@[simp] theorem exec_offListReceived (slots : List Nat) (s : State) : exec (.offListReceived slots) s = execOffListReceived slots s :=
  (rfl)
@[simp] theorem exec_offListTimeout (s : State) : exec (.offListTimeout) s = execOffListTimeout s := (rfl)
@[simp] theorem exec_slotPoweringEnd (slot : Nat) (s : State) : exec (.slotPoweringEnd slot) s = execSlotPoweringEnd slot s :=
  (rfl)
@[simp] theorem exec_slotLinkUp (slot : Nat) (link : SlotLink) (s : State) : exec (.slotLinkUp slot link) s = execSlotLinkUp slot link s :=
  (rfl)
@[simp] theorem exec_slotTrainingTimeout (slot : Nat) (s : State) : exec (.slotTrainingTimeout slot) s = execSlotTrainingTimeout slot s :=
  (rfl)
@[simp] theorem exec_slotCheckComplete (slot : Nat) (report : DriveReport) (s : State) : exec (.slotCheckComplete slot report) s = execSlotCheckComplete slot report s :=
  (rfl)
@[simp] theorem exec_attentionPress (slot : Nat) (low : Bool) (s : State) : exec (.attentionPress slot low) s = execAttentionPress slot low s :=
  (rfl)
@[simp] theorem exec_removalTimerEnd (slot : Nat) (s : State) : exec (.removalTimerEnd slot) s = execRemovalTimerEnd slot s :=
  (rfl)
@[simp] theorem exec_containment (slot reason : Nat) (s : State) : exec (.containment slot reason) s = execContainment slot reason s :=
  (rfl)
@[simp] theorem exec_surpriseRemoval (slot : Nat) (s : State) : exec (.surpriseRemoval slot) s = execSurpriseRemoval slot s :=
  (rfl)
@[simp] theorem exec_peerSlotEvent (slot : Nat) (news : PeerSlotNews) (s : State) : exec (.peerSlotEvent slot news) s = execPeerSlotEvent slot news s :=
  (rfl)
@[simp] theorem exec_slotPowerOn (who : Requester) (slot : Nat) (s : State) : exec (.slotPowerOn who slot) s = execSlotPowerOn who slot s :=
  (rfl)
@[simp] theorem exec_slotOff (who : Requester) (slot : Nat) (s : State) : exec (.slotOff who slot) s = execSlotOff who slot s :=
  (rfl)
@[simp] theorem exec_slotForcedOff (who : Requester) (slot : Nat) (s : State) : exec (.slotForcedOff who slot) s = execSlotForcedOff who slot s :=
  (rfl)
@[simp] theorem exec_slotRetrain (who : Requester) (slot : Nat) (s : State) : exec (.slotRetrain who slot) s = execSlotRetrain who slot s :=
  (rfl)
@[simp] theorem exec_slotPrepare (who : Requester) (slot : Nat) (foreignHeader formatted : Bool) (s : State) : exec (.slotPrepare who slot foreignHeader formatted) s = execSlotPrepare who slot foreignHeader formatted s :=
  (rfl)
@[simp] theorem exec_memberCommandTimeout (op : Nat) (s : State) : exec (.memberCommandTimeout op) s = execMemberCommandTimeout op s :=
  (rfl)
@[simp] theorem exec_memberCommandError (op : Nat) (s : State) : exec (.memberCommandError op) s = execMemberCommandError op s :=
  (rfl)
@[simp] theorem exec_sidebandPoll (slot : Nat) (reading : Option MiReading) (s : State) : exec (.sidebandPoll slot reading) s = execSidebandPoll slot reading s :=
  (rfl)
@[simp] theorem exec_dirPerstDeassert (s : State) : exec (.dirPerstDeassert) s = execDirPerstDeassert s := (rfl)
@[simp] theorem exec_dirPerstAssert (s : State) : exec (.dirPerstAssert) s = execDirPerstAssert s := (rfl)
@[simp] theorem exec_cablePresenceChange (mated : Bool) (s : State) : exec (.cablePresenceChange mated) s = execCablePresenceChange mated s :=
  (rfl)
@[simp] theorem exec_configRequest (f offset : Nat) (write : Bool) (value : Word) (enables : Nat) (s : State) : exec (.configRequest f offset write value enables) s = execConfigRequest f offset write value enables s :=
  (rfl)
@[simp] theorem exec_barAccess (addr width : Nat) (write : Bool) (value : DWord) (s : State) : exec (.barAccess addr width write value) s = execBarAccess addr width write value s :=
  (rfl)
@[simp] theorem exec_sqDoorbell (queue tail size : Nat) (s : State) : exec (.sqDoorbell queue tail size) s = execSqDoorbell queue tail size s :=
  (rfl)
@[simp] theorem exec_directReadCompletion (tag : Nat) (data : Bytes) (s : State) : exec (.directReadCompletion tag data) s = execDirectReadCompletion tag data s :=
  (rfl)
@[simp] theorem exec_directCompletionTimeout (tag : Nat) (s : State) : exec (.directCompletionTimeout tag) s = execDirectCompletionTimeout tag s :=
  (rfl)
@[simp] theorem exec_busMasterEnableClear (f : Nat) (s : State) : exec (.busMasterEnableClear f) s = execBusMasterEnableClear f s :=
  (rfl)
@[simp] theorem exec_busMasterEnableSet (f : Nat) (s : State) : exec (.busMasterEnableSet f) s = execBusMasterEnableSet f s :=
  (rfl)
@[simp] theorem exec_functionLevelReset (f : Nat) (s : State) : exec (.functionLevelReset f) s = execFunctionLevelReset f s :=
  (rfl)
@[simp] theorem exec_flrTimeout (f : Nat) (s : State) : exec (.flrTimeout f) s = execFlrTimeout f s := (rfl)
@[simp] theorem exec_d3hotEntry (f : Nat) (s : State) : exec (.d3hotEntry f) s = execD3hotEntry f s := (rfl)
@[simp] theorem exec_d0Return (f : Nat) (s : State) : exec (.d0Return f) s = execD0Return f s := (rfl)
@[simp] theorem exec_hotReset (s : State) : exec (.hotReset) s = execHotReset s := (rfl)
@[simp] theorem exec_functionQuiesced (f : Nat) (s : State) : exec (.functionQuiesced f) s = execFunctionQuiesced f s :=
  (rfl)
@[simp] theorem exec_seatChange (seatA seatB : Bool) (s : State) : exec (.seatChange seatA seatB) s = execSeatChange seatA seatB s :=
  (rfl)
@[simp] theorem exec_entryDebounceEnd (vin : Nat) (s : State) : exec (.entryDebounceEnd vin) s = execEntryDebounceEnd vin s :=
  (rfl)
@[simp] theorem exec_rampComplete (s : State) : exec (.rampComplete) s = execRampComplete s := (rfl)
@[simp] theorem exec_qualificationComplete (timerStarts : Bool) (s : State) : exec (.qualificationComplete timerStarts) s = execQualificationComplete timerStarts s :=
  (rfl)
@[simp] theorem exec_railSequence (s : State) : exec (.railSequence) s = execRailSequence s := (rfl)
@[simp] theorem exec_currentLimitEngage (s : State) : exec (.currentLimitEngage) s = execCurrentLimitEngage s :=
  (rfl)
@[simp] theorem exec_currentLimitClear (s : State) : exec (.currentLimitClear) s = execCurrentLimitClear s := (rfl)
@[simp] theorem exec_faultTimerExpiry (ipeak vin : Nat) (s : State) : exec (.faultTimerExpiry ipeak vin) s = execFaultTimerExpiry ipeak vin s :=
  (rfl)
@[simp] theorem exec_fastTrip (ipeak vin : Nat) (s : State) : exec (.fastTrip ipeak vin) s = execFastTrip ipeak vin s :=
  (rfl)
@[simp] theorem exec_entryOpening (event : OpeningEvent) (ipeak vin : Nat) (s : State) : exec (.entryOpening event ipeak vin) s = execEntryOpening event ipeak vin s :=
  (rfl)
@[simp] theorem exec_entryLatchClear (by_ : LatchClear) (s : State) : exec (.entryLatchClear by_) s = execEntryLatchClear by_ s :=
  (rfl)
@[simp] theorem exec_entryRestart (vin : Nat) (s : State) : exec (.entryRestart vin) s = execEntryRestart vin s :=
  (rfl)
@[simp] theorem exec_moduleOff (s : State) : exec (.moduleOff) s = execModuleOff s := (rfl)
@[simp] theorem exec_biasLoss (s : State) : exec (.biasLoss) s = execBiasLoss s := (rfl)
@[simp] theorem exec_peerCycleRelease (s : State) : exec (.peerCycleRelease) s = execPeerCycleRelease s := (rfl)
@[simp] theorem exec_keyGenerate (who : Requester) (slot : Nat) (s : State) : exec (.keyGenerate who slot) s = execKeyGenerate who slot s :=
  (rfl)
@[simp] theorem exec_keyUnwrap (who : Requester) (slot : Nat) (s : State) : exec (.keyUnwrap who slot) s = execKeyUnwrap who slot s :=
  (rfl)
@[simp] theorem exec_keyZeroise (who : Requester) (slot : Nat) (s : State) : exec (.keyZeroise who slot) s = execKeyZeroise who slot s :=
  (rfl)
@[simp] theorem exec_keyDerivePair (who : Requester) (s : State) : exec (.keyDerivePair who) s = execKeyDerivePair who s :=
  (rfl)
@[simp] theorem exec_kekRatchet (who : Requester) (s : State) : exec (.kekRatchet who) s = execKekRatchet who s :=
  (rfl)
@[simp] theorem exec_highWaterLoad (who : Requester) (slot : Nat) (s : State) : exec (.highWaterLoad who slot) s = execHighWaterLoad who slot s :=
  (rfl)
@[simp] theorem exec_slotStatusRead (who : Requester) (slot : Nat) (s : State) : exec (.slotStatusRead who slot) s = execSlotStatusRead who slot s :=
  (rfl)
@[simp] theorem exec_kekImport (who : Requester) (s : State) : exec (.kekImport who) s = execKekImport who s := (rfl)
@[simp] theorem exec_mcpPacketReceived (from_ : McpAddress) (type : Nat) (bytes : Bytes) (fragment : Option (Nat × Bool)) (s : State) : exec (.mcpPacketReceived from_ type bytes fragment) s = execMcpPacketReceived from_ type bytes fragment s :=
  (rfl)
@[simp] theorem exec_mcpReqDoorbell (who : Requester) (mask : Nat) (s : State) : exec (.mcpReqDoorbell who mask) s = execMcpReqDoorbell who mask s :=
  (rfl)
@[simp] theorem exec_mcpRplRdyClear (who : Requester) (bits : Nat) (s : State) : exec (.mcpRplRdyClear who bits) s = execMcpRplRdyClear who bits s :=
  (rfl)
@[simp] theorem exec_mcpNtcTailWrite (who : Requester) (tail : Nat) (s : State) : exec (.mcpNtcTailWrite who tail) s = execMcpNtcTailWrite who tail s :=
  (rfl)
@[simp] theorem exec_fragmentTimeout (from_ : McpAddress) (id : Nat) (s : State) : exec (.fragmentTimeout from_ id) s = execFragmentTimeout from_ id s :=
  (rfl)
@[simp] theorem exec_getIdentity (tag : Nat) (s : State) : exec (.getIdentity tag) s = execGetIdentity tag s := (rfl)
@[simp] theorem exec_getChallenge (tag : Nat) (s : State) : exec (.getChallenge tag) s = execGetChallenge tag s :=
  (rfl)
@[simp] theorem exec_getEntryRecord (tag : Nat) (s : State) : exec (.getEntryRecord tag) s = execGetEntryRecord tag s :=
  (rfl)
@[simp] theorem exec_sessionOpen (tag : Nat) (s : State) : exec (.sessionOpen tag) s = execSessionOpen tag s := (rfl)
@[simp] theorem exec_sessionReset (slot tag : Nat) (s : State) : exec (.sessionReset slot tag) s = execSessionReset slot tag s :=
  (rfl)
@[simp] theorem exec_sessionList (slot tag : Nat) (s : State) : exec (.sessionList slot tag) s = execSessionList slot tag s :=
  (rfl)
@[simp] theorem exec_noticeSubscribe (slot tag : Nat) (s : State) : exec (.noticeSubscribe slot tag) s = execNoticeSubscribe slot tag s :=
  (rfl)
@[simp] theorem exec_getNotices (slot tag : Nat) (s : State) : exec (.getNotices slot tag) s = execGetNotices slot tag s :=
  (rfl)
@[simp] theorem exec_moduleStatus (slot tag : Nat) (s : State) : exec (.moduleStatus slot tag) s = execModuleStatus slot tag s :=
  (rfl)
@[simp] theorem exec_logPageRead (slot tag : Nat) (s : State) : exec (.logPageRead slot tag) s = execLogPageRead slot tag s :=
  (rfl)
@[simp] theorem exec_faultRecordsRead (slot tag : Nat) (s : State) : exec (.faultRecordsRead slot tag) s = execFaultRecordsRead slot tag s :=
  (rfl)
@[simp] theorem exec_longOperationStatus (slot tag : Nat) (s : State) : exec (.longOperationStatus slot tag) s = execLongOperationStatus slot tag s :=
  (rfl)
@[simp] theorem exec_leadCommand (slot tag : Nat) (s : State) : exec (.leadCommand slot tag) s = execLeadCommand slot tag s :=
  (rfl)
@[simp] theorem exec_slotCommand (slot tag : Nat) (foreignHeader formatted : Bool) (s : State) : exec (.slotCommand slot tag foreignHeader formatted) s = execSlotCommand slot tag foreignHeader formatted s :=
  (rfl)
@[simp] theorem exec_layoutCommand (slot tag : Nat) (s : State) : exec (.layoutCommand slot tag) s = execLayoutCommand slot tag s :=
  (rfl)
@[simp] theorem exec_moduleReset (slot tag : Nat) (s : State) : exec (.moduleReset slot tag) s = execModuleReset slot tag s :=
  (rfl)
@[simp] theorem exec_powerCycle (slot tag : Nat) (s : State) : exec (.powerCycle slot tag) s = execPowerCycle slot tag s :=
  (rfl)
@[simp] theorem exec_setPowerState (slot tag : Nat) (refuser : Option Nat) (s : State) : exec (.setPowerState slot tag refuser) s = execSetPowerState slot tag refuser s :=
  (rfl)
@[simp] theorem exec_shelfBudget (slot tag : Nat) (s : State) : exec (.shelfBudget slot tag) s = execShelfBudget slot tag s :=
  (rfl)
@[simp] theorem exec_firmwareDownload (slot tag : Nat) (s : State) : exec (.firmwareDownload slot tag) s = execFirmwareDownload slot tag s :=
  (rfl)
@[simp] theorem exec_mcpFirmwareCommit (slot tag : Nat) (s : State) : exec (.mcpFirmwareCommit slot tag) s = execMcpFirmwareCommit slot tag s :=
  (rfl)
@[simp] theorem exec_groupPolicy (slot tag : Nat) (s : State) : exec (.groupPolicy slot tag) s = execGroupPolicy slot tag s :=
  (rfl)
@[simp] theorem exec_setMeasureLength (slot tag : Nat) (s : State) : exec (.setMeasureLength slot tag) s = execSetMeasureLength slot tag s :=
  (rfl)
@[simp] theorem exec_twoStepPropose (slot tag : Nat) (s : State) : exec (.twoStepPropose slot tag) s = execTwoStepPropose slot tag s :=
  (rfl)
@[simp] theorem exec_twoStepConfirm (slot tag : Nat) (s : State) : exec (.twoStepConfirm slot tag) s = execTwoStepConfirm slot tag s :=
  (rfl)
@[simp] theorem exec_twoStepWithdraw (slot tag : Nat) (s : State) : exec (.twoStepWithdraw slot tag) s = execTwoStepWithdraw slot tag s :=
  (rfl)
@[simp] theorem exec_twoStepStatus (slot tag : Nat) (s : State) : exec (.twoStepStatus slot tag) s = execTwoStepStatus slot tag s :=
  (rfl)
@[simp] theorem exec_sessionIdleTimeout (slot : Nat) (s : State) : exec (.sessionIdleTimeout slot) s = execSessionIdleTimeout slot s :=
  (rfl)
@[simp] theorem exec_requestTimeout (slot tag : Nat) (s : State) : exec (.requestTimeout slot tag) s = execRequestTimeout slot tag s :=
  (rfl)
@[simp] theorem exec_proposalExpiry (number : Nat) (s : State) : exec (.proposalExpiry number) s = execProposalExpiry number s :=
  (rfl)
@[simp] theorem exec_setupDigestExchange (digest : Bytes) (log : List LoggedCommit) (objects : List GuardedObject) (proposals : List Bytes) (s : State) : exec (.setupDigestExchange digest log objects proposals) s = execSetupDigestExchange digest log objects proposals s :=
  (rfl)
@[simp] theorem exec_spdmGetVersion (from_ : McpAddress) (s : State) : exec (.spdmGetVersion from_) s = execSpdmGetVersion from_ s :=
  (rfl)
@[simp] theorem exec_spdmGetCapabilities (from_ : McpAddress) (s : State) : exec (.spdmGetCapabilities from_) s = execSpdmGetCapabilities from_ s :=
  (rfl)
@[simp] theorem exec_spdmNegotiateAlgorithms (from_ : McpAddress) (s : State) : exec (.spdmNegotiateAlgorithms from_) s = execSpdmNegotiateAlgorithms from_ s :=
  (rfl)
@[simp] theorem exec_spdmGetDigests (from_ : McpAddress) (s : State) : exec (.spdmGetDigests from_) s = execSpdmGetDigests from_ s :=
  (rfl)
@[simp] theorem exec_spdmGetCertificate (from_ : McpAddress) (slot offset length : Nat) (s : State) : exec (.spdmGetCertificate from_ slot offset length) s = execSpdmGetCertificate from_ slot offset length s :=
  (rfl)
@[simp] theorem exec_spdmChallenge (from_ : McpAddress) (request : Bytes) (s : State) : exec (.spdmChallenge from_ request) s = execSpdmChallenge from_ request s :=
  (rfl)
@[simp] theorem exec_spdmGetMeasurements (from_ : McpAddress) (request : Bytes) (s : State) : exec (.spdmGetMeasurements from_ request) s = execSpdmGetMeasurements from_ request s :=
  (rfl)
@[simp] theorem exec_phraseDecision (pinMw : Nat) (tj : Int) (tjDomain : Nat) (utils : List Nat) (s : State) : exec (.phraseDecision pinMw tj tjDomain utils) s = execPhraseDecision pinMw tj tjDomain utils s :=
  (rfl)
@[simp] theorem exec_avsAck (cluster : Nat) (s : State) : exec (.avsAck cluster) s = execAvsAck cluster s := (rfl)
@[simp] theorem exec_avsTimeout (cluster : Nat) (s : State) : exec (.avsTimeout cluster) s = execAvsTimeout cluster s :=
  (rfl)
@[simp] theorem exec_domainIdleGate (domain : Nat) (answer : HandshakeAnswer) (s : State) : exec (.domainIdleGate domain answer) s = execDomainIdleGate domain answer s :=
  (rfl)
@[simp] theorem exec_domainIdleOff (domain : Nat) (answer : HandshakeAnswer) (s : State) : exec (.domainIdleOff domain answer) s = execDomainIdleOff domain answer s :=
  (rfl)
@[simp] theorem exec_handshakeDelayExpiry (domain : Nat) (answer : HandshakeAnswer) (s : State) : exec (.handshakeDelayExpiry domain answer) s = execHandshakeDelayExpiry domain answer s :=
  (rfl)
@[simp] theorem exec_domainWake (domain : Nat) (s : State) : exec (.domainWake domain) s = execDomainWake domain s :=
  (rfl)
@[simp] theorem exec_pwrWakeDomain (who : Requester) (domain : Nat) (s : State) : exec (.pwrWakeDomain who domain) s = execPwrWakeDomain who domain s :=
  (rfl)
@[simp] theorem exec_pwrPowerOffDomain (who : Requester) (domain : Nat) (answer : HandshakeAnswer) (s : State) : exec (.pwrPowerOffDomain who domain answer) s = execPwrPowerOffDomain who domain answer s :=
  (rfl)
@[simp] theorem exec_pwrEnterDormant (who : Requester) (refuser : Option Nat) (s : State) : exec (.pwrEnterDormant who refuser) s = execPwrEnterDormant who refuser s :=
  (rfl)
@[simp] theorem exec_dormantWake (source : Nat) (s : State) : exec (.dormantWake source) s = execDormantWake source s :=
  (rfl)
@[simp] theorem exec_analogSample (ch : Nat) (raw : Word) (s : State) : exec (.analogSample ch raw) s = execAnalogSample ch raw s :=
  (rfl)
@[simp] theorem exec_digitalInputChange (input : Nat) (high : Bool) (s : State) : exec (.digitalInputChange input high) s = execDigitalInputChange input high s :=
  (rfl)
@[simp] theorem exec_ruleSweep (s : State) : exec (.ruleSweep) s = execRuleSweep s := (rfl)
@[simp] theorem exec_ruleCtlWrite (who : Requester) (rule : Nat) (value : Word) (s : State) : exec (.ruleCtlWrite who rule value) s = execRuleCtlWrite who rule value s :=
  (rfl)
@[simp] theorem exec_cycleArm (who : Requester) (s : State) : exec (.cycleArm who) s = execCycleArm who s := (rfl)
@[simp] theorem exec_cycleGo (who : Requester) (s : State) : exec (.cycleGo who) s = execCycleGo who s := (rfl)
@[simp] theorem exec_peerWakePulse (who : Requester) (s : State) : exec (.peerWakePulse who) s = execPeerWakePulse who s :=
  (rfl)
@[simp] theorem exec_wakePulse (s : State) : exec (.wakePulse) s = execWakePulse s := (rfl)
@[simp] theorem exec_wakeTimerExpiry (s : State) : exec (.wakeTimerExpiry) s = execWakeTimerExpiry s := (rfl)
@[simp] theorem exec_partitionStart (who : Requester) (cluster : Nat) (s : State) : exec (.partitionStart who cluster) s = execPartitionStart who cluster s :=
  (rfl)
@[simp] theorem exec_partitionReset (who : Requester) (cluster : Nat) (s : State) : exec (.partitionReset who cluster) s = execPartitionReset who cluster s :=
  (rfl)
@[simp] theorem exec_partitionResetComplete (part : Nat) (s : State) : exec (.partitionResetComplete part) s = execPartitionResetComplete part s :=
  (rfl)
@[simp] theorem exec_l1dClean (who : Requester) (cluster core : Nat) (s : State) : exec (.l1dClean who cluster core) s = execL1dClean who cluster core s :=
  (rfl)
@[simp] theorem exec_l1dCleanInvalidate (who : Requester) (cluster core : Nat) (s : State) : exec (.l1dCleanInvalidate who cluster core) s = execL1dCleanInvalidate who cluster core s :=
  (rfl)
@[simp] theorem exec_l1iInvalidate (who : Requester) (cluster core : Nat) (s : State) : exec (.l1iInvalidate who cluster core) s = execL1iInvalidate who cluster core s :=
  (rfl)
@[simp] theorem exec_clusterClean (who : Requester) (cluster : Nat) (s : State) : exec (.clusterClean who cluster) s = execClusterClean who cluster s :=
  (rfl)
@[simp] theorem exec_clusterCleanInvalidate (who : Requester) (cluster : Nat) (s : State) : exec (.clusterCleanInvalidate who cluster) s = execClusterCleanInvalidate who cluster s :=
  (rfl)
@[simp] theorem exec_cacheFillReturn (cluster cache : Nat) (s : State) : exec (.cacheFillReturn cluster cache) s = execCacheFillReturn cluster cache s :=
  (rfl)
@[simp] theorem exec_victimWritebackAck (cluster cache : Nat) (s : State) : exec (.victimWritebackAck cluster cache) s = execVictimWritebackAck cluster cache s :=
  (rfl)
@[simp] theorem exec_cboOperation (core : Nat) (op : CboOp) (addr : Nat) (s : State) : exec (.cboOperation core op addr) s = execCboOperation core op addr s :=
  (rfl)
@[simp] theorem exec_ewqDoorbell (who : Requester) (queue tail : Nat) (s : State) : exec (.ewqDoorbell who queue tail) s = execEwqDoorbell who queue tail s :=
  (rfl)
@[simp] theorem exec_ewqEnable (who : Requester) (queue : Nat) (s : State) : exec (.ewqEnable who queue) s = execEwqEnable who queue s :=
  (rfl)
@[simp] theorem exec_ewqDisable (who : Requester) (queue : Nat) (s : State) : exec (.ewqDisable who queue) s = execEwqDisable who queue s :=
  (rfl)
@[simp] theorem exec_ewqInvalidate (who : Requester) (queue : Nat) (s : State) : exec (.ewqInvalidate who queue) s = execEwqInvalidate who queue s :=
  (rfl)
@[simp] theorem exec_ewqInvalidateDone (queue : Nat) (s : State) : exec (.ewqInvalidateDone queue) s = execEwqInvalidateDone queue s :=
  (rfl)
@[simp] theorem exec_ewqReset (who : Requester) (queue : Nat) (s : State) : exec (.ewqReset who queue) s = execEwqReset who queue s :=
  (rfl)
@[simp] theorem exec_ewqCopy (queue : Nat) (s : State) : exec (.ewqCopy queue) s = execEwqCopy queue s := (rfl)
@[simp] theorem exec_ewqParity (queue : Nat) (s : State) : exec (.ewqParity queue) s = execEwqParity queue s := (rfl)
@[simp] theorem exec_ewqParityCheck (queue : Nat) (s : State) : exec (.ewqParityCheck queue) s = execEwqParityCheck queue s :=
  (rfl)
@[simp] theorem exec_ewqXtsEncrypt (queue : Nat) (s : State) : exec (.ewqXtsEncrypt queue) s = execEwqXtsEncrypt queue s :=
  (rfl)
@[simp] theorem exec_ewqXtsDecrypt (queue : Nat) (s : State) : exec (.ewqXtsDecrypt queue) s = execEwqXtsDecrypt queue s :=
  (rfl)
@[simp] theorem exec_ewqGcmEncrypt (queue : Nat) (s : State) : exec (.ewqGcmEncrypt queue) s = execEwqGcmEncrypt queue s :=
  (rfl)
@[simp] theorem exec_ewqGcmDecrypt (queue : Nat) (s : State) : exec (.ewqGcmDecrypt queue) s = execEwqGcmDecrypt queue s :=
  (rfl)
@[simp] theorem exec_ewqGmac (queue : Nat) (s : State) : exec (.ewqGmac queue) s = execEwqGmac queue s := (rfl)
@[simp] theorem exec_ewqKeyCommand (queue : Nat) (s : State) : exec (.ewqKeyCommand queue) s = execEwqKeyCommand queue s :=
  (rfl)
@[simp] theorem exec_ewqDescriptorComplete (queue count : Nat) (s : State) : exec (.ewqDescriptorComplete queue count) s = execEwqDescriptorComplete queue count s :=
  (rfl)
@[simp] theorem exec_ewqReadTimeout (queue count addr : Nat) (s : State) : exec (.ewqReadTimeout queue count addr) s = execEwqReadTimeout queue count addr s :=
  (rfl)
@[simp] theorem exec_parityError (item : BadItem) (reader : BadReader) (addr bytes : Nat) (s : State) : exec (.parityError item reader addr bytes) s = execParityError item reader addr bytes s :=
  (rfl)
@[simp] theorem exec_recoveryComplete (id : Nat) (how : RecoveryEnd) (s : State) : exec (.recoveryComplete id how) s = execRecoveryComplete id how s :=
  (rfl)
@[simp] theorem exec_peerCopyRequest (group nsid lba meas : Nat) (s : State) : exec (.peerCopyRequest group nsid lba meas) s = execPeerCopyRequest group nsid lba meas s :=
  (rfl)
@[simp] theorem exec_peerRestoreTimeout (id : Nat) (s : State) : exec (.peerRestoreTimeout id) s = execPeerRestoreTimeout id s :=
  (rfl)
@[simp] theorem exec_memorySweep (buffer : Bool) (found : Option BadItem) (bytes : Nat) (s : State) : exec (.memorySweep buffer found bytes) s = execMemorySweep buffer found bytes s :=
  (rfl)
@[simp] theorem exec_bucketLeak (s : State) : exec (.bucketLeak) s = execBucketLeak s := (rfl)
@[simp] theorem exec_minTestArm (who : Requester) (value : Word) (s : State) : exec (.minTestArm who value) s = execMinTestArm who value s :=
  (rfl)
@[simp] theorem exec_minTestExpiry (s : State) : exec (.minTestExpiry) s = execMinTestExpiry s := (rfl)
@[simp] theorem exec_watchdogRestart (who : Requester) (value : Word) (s : State) : exec (.watchdogRestart who value) s = execWatchdogRestart who value s :=
  (rfl)
@[simp] theorem exec_watchdogExpiry (s : State) : exec (.watchdogExpiry) s = execWatchdogExpiry s := (rfl)
@[simp] theorem exec_fltStep3Handover (who : Requester) (s : State) : exec (.fltStep3Handover who) s = execFltStep3Handover who s :=
  (rfl)
@[simp] theorem exec_fltStep3 (who : Requester) (s : State) : exec (.fltStep3 who) s = execFltStep3 who s := (rfl)
@[simp] theorem exec_fltStep4 (who : Requester) (s : State) : exec (.fltStep4 who) s = execFltStep4 who s := (rfl)
@[simp] theorem exec_latchCopy (s : State) : exec (.latchCopy) s = execLatchCopy s := (rfl)
@[simp] theorem exec_startupEscalation (s : State) : exec (.startupEscalation) s = execStartupEscalation s := (rfl)
@[simp] theorem exec_positionMismatch (s : State) : exec (.positionMismatch) s = execPositionMismatch s := (rfl)
@[simp] theorem exec_pmcCounterPreset (who : Requester) (counter : Nat) (value : Word) (s : State) : exec (.pmcCounterPreset who counter value) s = execPmcCounterPreset who counter value s :=
  (rfl)
@[simp] theorem exec_monitorWindowEnd (monitor : Nat) (s : State) : exec (.monitorWindowEnd monitor) s = execMonitorWindowEnd monitor s :=
  (rfl)
@[simp] theorem exec_monitorClear (who : Requester) (monitor : Nat) (s : State) : exec (.monitorClear who monitor) s = execMonitorClear who monitor s :=
  (rfl)
@[simp] theorem exec_coreAccess (core : Nat) (access : CoreAccess) (s : State) : exec (.coreAccess core access) s = execCoreAccess core access s :=
  (rfl)
@[simp] theorem exec_entryStartConditionChange (enable cycleLow : Bool) (s : State) : exec (.entryStartConditionChange enable cycleLow) s = execEntryStartConditionChange enable cycleLow s :=
  (rfl)
@[simp] theorem exec_slotDebounceBreak (slot : Nat) (s : State) : exec (.slotDebounceBreak slot) s = execSlotDebounceBreak slot s :=
  (rfl)
@[simp] theorem exec_peerSeated (s : State) : exec (.peerSeated) s = execPeerSeated s := (rfl)
@[simp] theorem exec_fastRetrainFail (s : State) : exec (.fastRetrainFail) s = execFastRetrainFail s := (rfl)
@[simp] theorem exec_directLinkUp (speed width : Nat) (flit : Bool) (s : State) : exec (.directLinkUp speed width flit) s = execDirectLinkUp speed width flit s :=
  (rfl)
@[simp] theorem exec_functionResetTimeout (f : Nat) (s : State) : exec (.functionResetTimeout f) s = execFunctionResetTimeout f s :=
  (rfl)
@[simp] theorem exec_connectionReject (idx : Nat) (s : State) : exec (.connectionReject idx) s = execConnectionReject idx s :=
  (rfl)
@[simp] theorem exec_challengeExpiry (s : State) : exec (.challengeExpiry) s = execChallengeExpiry s := (rfl)
@[simp] theorem exec_handOverTimeout (group : Nat) (s : State) : exec (.handOverTimeout group) s = execHandOverTimeout group s :=
  (rfl)
@[simp] theorem exec_tokenRecordReadComplete (reads : List TokenRead) (s : State) : exec (.tokenRecordReadComplete reads) s = execTokenRecordReadComplete reads s :=
  (rfl)
@[simp] theorem exec_cutInReread (s : State) : exec (.cutInReread) s = execCutInReread s := (rfl)
@[simp] theorem exec_leadTokenTry (group : Nat) (reads : List TokenRead) (s : State) : exec (.leadTokenTry group reads) s = execLeadTokenTry group reads s :=
  (rfl)
@[simp] theorem exec_deletedExtentDeallocate (set stripe : Nat) (s : State) : exec (.deletedExtentDeallocate set stripe) s = execDeletedExtentDeallocate set stripe s :=
  (rfl)

end Sys2Proof.Machine
end

