-- ==== Sys2Proof/Laws/State.lean ====
section
/-! SUPPORT. One lemma per field per update of State, each true by rfl. -/

set_option Elab.async false

namespace Sys2Proof.Machine

@[simp] theorem State.onPending_pending (s : State) (f : List Instr → List Instr) : (s.onPending f).pending = f s.pending := (rfl)
@[simp] theorem State.onPending_out (s : State) (f : List Instr → List Instr) : (s.onPending f).out = s.out := (rfl)
@[simp] theorem State.onPending_draws (s : State) (f : List Instr → List Instr) : (s.onPending f).draws = s.draws := (rfl)
@[simp] theorem State.onPending_regs (s : State) (f : List Instr → List Instr) : (s.onPending f).regs = s.regs := (rfl)
@[simp] theorem State.onPending_rwm (s : State) (f : List Instr → List Instr) : (s.onPending f).rwm = s.rwm := (rfl)
@[simp] theorem State.onPending_hiLatch (s : State) (f : List Instr → List Instr) : (s.onPending f).hiLatch = s.hiLatch := (rfl)
@[simp] theorem State.onPending_lowWord (s : State) (f : List Instr → List Instr) : (s.onPending f).lowWord = s.lowWord := (rfl)
@[simp] theorem State.onPending_clock (s : State) (f : List Instr → List Instr) : (s.onPending f).clock = s.clock := (rfl)
@[simp] theorem State.onPending_cfg (s : State) (f : List Instr → List Instr) : (s.onPending f).cfg = s.cfg := (rfl)
@[simp] theorem State.onPending_flt (s : State) (f : List Instr → List Instr) : (s.onPending f).flt = s.flt := (rfl)
@[simp] theorem State.onPending_mcp (s : State) (f : List Instr → List Instr) : (s.onPending f).mcp = s.mcp := (rfl)
@[simp] theorem State.onPending_power (s : State) (f : List Instr → List Instr) : (s.onPending f).power = s.power := (rfl)
@[simp] theorem State.onPending_host (s : State) (f : List Instr → List Instr) : (s.onPending f).host = s.host := (rfl)
@[simp] theorem State.onPending_store (s : State) (f : List Instr → List Instr) : (s.onPending f).store = s.store := (rfl)
@[simp] theorem State.onPending_energy (s : State) (f : List Instr → List Instr) : (s.onPending f).energy = s.energy := (rfl)
@[simp] theorem State.onPending_link (s : State) (f : List Instr → List Instr) : (s.onPending f).link = s.link := (rfl)
@[simp] theorem State.onPending_rdma (s : State) (f : List Instr → List Instr) : (s.onPending f).rdma = s.rdma := (rfl)
@[simp] theorem State.onPending_mem (s : State) (f : List Instr → List Instr) : (s.onPending f).mem = s.mem := (rfl)
@[simp] theorem State.onPending_keys (s : State) (f : List Instr → List Instr) : (s.onPending f).keys = s.keys := (rfl)
@[simp] theorem State.onPending_ewq (s : State) (f : List Instr → List Instr) : (s.onPending f).ewq = s.ewq := (rfl)
@[simp] theorem State.onPending_wall (s : State) (f : List Instr → List Instr) : (s.onPending f).wall = s.wall := (rfl)
@[simp] theorem State.onPending_entry (s : State) (f : List Instr → List Instr) : (s.onPending f).entry = s.entry := (rfl)
@[simp] theorem State.onPending_admin (s : State) (f : List Instr → List Instr) : (s.onPending f).admin = s.admin := (rfl)
@[simp] theorem State.onPending_two (s : State) (f : List Instr → List Instr) : (s.onPending f).two = s.two := (rfl)
@[simp] theorem State.onPending_token (s : State) (f : List Instr → List Instr) : (s.onPending f).token = s.token := (rfl)
@[simp] theorem State.onPending_slots (s : State) (f : List Instr → List Instr) : (s.onPending f).slots = s.slots := (rfl)
@[simp] theorem State.onPending_caches (s : State) (f : List Instr → List Instr) : (s.onPending f).caches = s.caches := (rfl)
@[simp] theorem State.onPending_direct (s : State) (f : List Instr → List Instr) : (s.onPending f).direct = s.direct := (rfl)
@[simp] theorem State.onPending_switch (s : State) (f : List Instr → List Instr) : (s.onPending f).switch = s.switch := (rfl)
@[simp] theorem State.onPending_gates (s : State) (f : List Instr → List Instr) : (s.onPending f).gates = s.gates := (rfl)
@[simp] theorem State.onPending_integrity (s : State) (f : List Instr → List Instr) : (s.onPending f).integrity = s.integrity := (rfl)
@[simp] theorem State.onPending_pmc (s : State) (f : List Instr → List Instr) : (s.onPending f).pmc = s.pmc := (rfl)
@[simp] theorem State.onOut_pending (s : State) (f : List Output → List Output) : (s.onOut f).pending = s.pending := (rfl)
@[simp] theorem State.onOut_out (s : State) (f : List Output → List Output) : (s.onOut f).out = f s.out := (rfl)
@[simp] theorem State.onOut_draws (s : State) (f : List Output → List Output) : (s.onOut f).draws = s.draws := (rfl)
@[simp] theorem State.onOut_regs (s : State) (f : List Output → List Output) : (s.onOut f).regs = s.regs := (rfl)
@[simp] theorem State.onOut_rwm (s : State) (f : List Output → List Output) : (s.onOut f).rwm = s.rwm := (rfl)
@[simp] theorem State.onOut_hiLatch (s : State) (f : List Output → List Output) : (s.onOut f).hiLatch = s.hiLatch := (rfl)
@[simp] theorem State.onOut_lowWord (s : State) (f : List Output → List Output) : (s.onOut f).lowWord = s.lowWord := (rfl)
@[simp] theorem State.onOut_clock (s : State) (f : List Output → List Output) : (s.onOut f).clock = s.clock := (rfl)
@[simp] theorem State.onOut_cfg (s : State) (f : List Output → List Output) : (s.onOut f).cfg = s.cfg := (rfl)
@[simp] theorem State.onOut_flt (s : State) (f : List Output → List Output) : (s.onOut f).flt = s.flt := (rfl)
@[simp] theorem State.onOut_mcp (s : State) (f : List Output → List Output) : (s.onOut f).mcp = s.mcp := (rfl)
@[simp] theorem State.onOut_power (s : State) (f : List Output → List Output) : (s.onOut f).power = s.power := (rfl)
@[simp] theorem State.onOut_host (s : State) (f : List Output → List Output) : (s.onOut f).host = s.host := (rfl)
@[simp] theorem State.onOut_store (s : State) (f : List Output → List Output) : (s.onOut f).store = s.store := (rfl)
@[simp] theorem State.onOut_energy (s : State) (f : List Output → List Output) : (s.onOut f).energy = s.energy := (rfl)
@[simp] theorem State.onOut_link (s : State) (f : List Output → List Output) : (s.onOut f).link = s.link := (rfl)
@[simp] theorem State.onOut_rdma (s : State) (f : List Output → List Output) : (s.onOut f).rdma = s.rdma := (rfl)
@[simp] theorem State.onOut_mem (s : State) (f : List Output → List Output) : (s.onOut f).mem = s.mem := (rfl)
@[simp] theorem State.onOut_keys (s : State) (f : List Output → List Output) : (s.onOut f).keys = s.keys := (rfl)
@[simp] theorem State.onOut_ewq (s : State) (f : List Output → List Output) : (s.onOut f).ewq = s.ewq := (rfl)
@[simp] theorem State.onOut_wall (s : State) (f : List Output → List Output) : (s.onOut f).wall = s.wall := (rfl)
@[simp] theorem State.onOut_entry (s : State) (f : List Output → List Output) : (s.onOut f).entry = s.entry := (rfl)
@[simp] theorem State.onOut_admin (s : State) (f : List Output → List Output) : (s.onOut f).admin = s.admin := (rfl)
@[simp] theorem State.onOut_two (s : State) (f : List Output → List Output) : (s.onOut f).two = s.two := (rfl)
@[simp] theorem State.onOut_token (s : State) (f : List Output → List Output) : (s.onOut f).token = s.token := (rfl)
@[simp] theorem State.onOut_slots (s : State) (f : List Output → List Output) : (s.onOut f).slots = s.slots := (rfl)
@[simp] theorem State.onOut_caches (s : State) (f : List Output → List Output) : (s.onOut f).caches = s.caches := (rfl)
@[simp] theorem State.onOut_direct (s : State) (f : List Output → List Output) : (s.onOut f).direct = s.direct := (rfl)
@[simp] theorem State.onOut_switch (s : State) (f : List Output → List Output) : (s.onOut f).switch = s.switch := (rfl)
@[simp] theorem State.onOut_gates (s : State) (f : List Output → List Output) : (s.onOut f).gates = s.gates := (rfl)
@[simp] theorem State.onOut_integrity (s : State) (f : List Output → List Output) : (s.onOut f).integrity = s.integrity := (rfl)
@[simp] theorem State.onOut_pmc (s : State) (f : List Output → List Output) : (s.onOut f).pmc = s.pmc := (rfl)
@[simp] theorem State.onDraws_pending (s : State) (f : Nat → Nat) : (s.onDraws f).pending = s.pending := (rfl)
@[simp] theorem State.onDraws_out (s : State) (f : Nat → Nat) : (s.onDraws f).out = s.out := (rfl)
@[simp] theorem State.onDraws_draws (s : State) (f : Nat → Nat) : (s.onDraws f).draws = f s.draws := (rfl)
@[simp] theorem State.onDraws_regs (s : State) (f : Nat → Nat) : (s.onDraws f).regs = s.regs := (rfl)
@[simp] theorem State.onDraws_rwm (s : State) (f : Nat → Nat) : (s.onDraws f).rwm = s.rwm := (rfl)
@[simp] theorem State.onDraws_hiLatch (s : State) (f : Nat → Nat) : (s.onDraws f).hiLatch = s.hiLatch := (rfl)
@[simp] theorem State.onDraws_lowWord (s : State) (f : Nat → Nat) : (s.onDraws f).lowWord = s.lowWord := (rfl)
@[simp] theorem State.onDraws_clock (s : State) (f : Nat → Nat) : (s.onDraws f).clock = s.clock := (rfl)
@[simp] theorem State.onDraws_cfg (s : State) (f : Nat → Nat) : (s.onDraws f).cfg = s.cfg := (rfl)
@[simp] theorem State.onDraws_flt (s : State) (f : Nat → Nat) : (s.onDraws f).flt = s.flt := (rfl)
@[simp] theorem State.onDraws_mcp (s : State) (f : Nat → Nat) : (s.onDraws f).mcp = s.mcp := (rfl)
@[simp] theorem State.onDraws_power (s : State) (f : Nat → Nat) : (s.onDraws f).power = s.power := (rfl)
@[simp] theorem State.onDraws_host (s : State) (f : Nat → Nat) : (s.onDraws f).host = s.host := (rfl)
@[simp] theorem State.onDraws_store (s : State) (f : Nat → Nat) : (s.onDraws f).store = s.store := (rfl)
@[simp] theorem State.onDraws_energy (s : State) (f : Nat → Nat) : (s.onDraws f).energy = s.energy := (rfl)
@[simp] theorem State.onDraws_link (s : State) (f : Nat → Nat) : (s.onDraws f).link = s.link := (rfl)
@[simp] theorem State.onDraws_rdma (s : State) (f : Nat → Nat) : (s.onDraws f).rdma = s.rdma := (rfl)
@[simp] theorem State.onDraws_mem (s : State) (f : Nat → Nat) : (s.onDraws f).mem = s.mem := (rfl)
@[simp] theorem State.onDraws_keys (s : State) (f : Nat → Nat) : (s.onDraws f).keys = s.keys := (rfl)
@[simp] theorem State.onDraws_ewq (s : State) (f : Nat → Nat) : (s.onDraws f).ewq = s.ewq := (rfl)
@[simp] theorem State.onDraws_wall (s : State) (f : Nat → Nat) : (s.onDraws f).wall = s.wall := (rfl)
@[simp] theorem State.onDraws_entry (s : State) (f : Nat → Nat) : (s.onDraws f).entry = s.entry := (rfl)
@[simp] theorem State.onDraws_admin (s : State) (f : Nat → Nat) : (s.onDraws f).admin = s.admin := (rfl)
@[simp] theorem State.onDraws_two (s : State) (f : Nat → Nat) : (s.onDraws f).two = s.two := (rfl)
@[simp] theorem State.onDraws_token (s : State) (f : Nat → Nat) : (s.onDraws f).token = s.token := (rfl)
@[simp] theorem State.onDraws_slots (s : State) (f : Nat → Nat) : (s.onDraws f).slots = s.slots := (rfl)
@[simp] theorem State.onDraws_caches (s : State) (f : Nat → Nat) : (s.onDraws f).caches = s.caches := (rfl)
@[simp] theorem State.onDraws_direct (s : State) (f : Nat → Nat) : (s.onDraws f).direct = s.direct := (rfl)
@[simp] theorem State.onDraws_switch (s : State) (f : Nat → Nat) : (s.onDraws f).switch = s.switch := (rfl)
@[simp] theorem State.onDraws_gates (s : State) (f : Nat → Nat) : (s.onDraws f).gates = s.gates := (rfl)
@[simp] theorem State.onDraws_integrity (s : State) (f : Nat → Nat) : (s.onDraws f).integrity = s.integrity := (rfl)
@[simp] theorem State.onDraws_pmc (s : State) (f : Nat → Nat) : (s.onDraws f).pmc = s.pmc := (rfl)
@[simp] theorem State.onRegs_pending (s : State) (f : List RegCell → List RegCell) : (s.onRegs f).pending = s.pending := (rfl)
@[simp] theorem State.onRegs_out (s : State) (f : List RegCell → List RegCell) : (s.onRegs f).out = s.out := (rfl)
@[simp] theorem State.onRegs_draws (s : State) (f : List RegCell → List RegCell) : (s.onRegs f).draws = s.draws := (rfl)
@[simp] theorem State.onRegs_regs (s : State) (f : List RegCell → List RegCell) : (s.onRegs f).regs = f s.regs := (rfl)
@[simp] theorem State.onRegs_rwm (s : State) (f : List RegCell → List RegCell) : (s.onRegs f).rwm = s.rwm := (rfl)
@[simp] theorem State.onRegs_hiLatch (s : State) (f : List RegCell → List RegCell) : (s.onRegs f).hiLatch = s.hiLatch := (rfl)
@[simp] theorem State.onRegs_lowWord (s : State) (f : List RegCell → List RegCell) : (s.onRegs f).lowWord = s.lowWord := (rfl)
@[simp] theorem State.onRegs_clock (s : State) (f : List RegCell → List RegCell) : (s.onRegs f).clock = s.clock := (rfl)
@[simp] theorem State.onRegs_cfg (s : State) (f : List RegCell → List RegCell) : (s.onRegs f).cfg = s.cfg := (rfl)
@[simp] theorem State.onRegs_flt (s : State) (f : List RegCell → List RegCell) : (s.onRegs f).flt = s.flt := (rfl)
@[simp] theorem State.onRegs_mcp (s : State) (f : List RegCell → List RegCell) : (s.onRegs f).mcp = s.mcp := (rfl)
@[simp] theorem State.onRegs_power (s : State) (f : List RegCell → List RegCell) : (s.onRegs f).power = s.power := (rfl)
@[simp] theorem State.onRegs_host (s : State) (f : List RegCell → List RegCell) : (s.onRegs f).host = s.host := (rfl)
@[simp] theorem State.onRegs_store (s : State) (f : List RegCell → List RegCell) : (s.onRegs f).store = s.store := (rfl)
@[simp] theorem State.onRegs_energy (s : State) (f : List RegCell → List RegCell) : (s.onRegs f).energy = s.energy := (rfl)
@[simp] theorem State.onRegs_link (s : State) (f : List RegCell → List RegCell) : (s.onRegs f).link = s.link := (rfl)
@[simp] theorem State.onRegs_rdma (s : State) (f : List RegCell → List RegCell) : (s.onRegs f).rdma = s.rdma := (rfl)
@[simp] theorem State.onRegs_mem (s : State) (f : List RegCell → List RegCell) : (s.onRegs f).mem = s.mem := (rfl)
@[simp] theorem State.onRegs_keys (s : State) (f : List RegCell → List RegCell) : (s.onRegs f).keys = s.keys := (rfl)
@[simp] theorem State.onRegs_ewq (s : State) (f : List RegCell → List RegCell) : (s.onRegs f).ewq = s.ewq := (rfl)
@[simp] theorem State.onRegs_wall (s : State) (f : List RegCell → List RegCell) : (s.onRegs f).wall = s.wall := (rfl)
@[simp] theorem State.onRegs_entry (s : State) (f : List RegCell → List RegCell) : (s.onRegs f).entry = s.entry := (rfl)
@[simp] theorem State.onRegs_admin (s : State) (f : List RegCell → List RegCell) : (s.onRegs f).admin = s.admin := (rfl)
@[simp] theorem State.onRegs_two (s : State) (f : List RegCell → List RegCell) : (s.onRegs f).two = s.two := (rfl)
@[simp] theorem State.onRegs_token (s : State) (f : List RegCell → List RegCell) : (s.onRegs f).token = s.token := (rfl)
@[simp] theorem State.onRegs_slots (s : State) (f : List RegCell → List RegCell) : (s.onRegs f).slots = s.slots := (rfl)
@[simp] theorem State.onRegs_caches (s : State) (f : List RegCell → List RegCell) : (s.onRegs f).caches = s.caches := (rfl)
@[simp] theorem State.onRegs_direct (s : State) (f : List RegCell → List RegCell) : (s.onRegs f).direct = s.direct := (rfl)
@[simp] theorem State.onRegs_switch (s : State) (f : List RegCell → List RegCell) : (s.onRegs f).switch = s.switch := (rfl)
@[simp] theorem State.onRegs_gates (s : State) (f : List RegCell → List RegCell) : (s.onRegs f).gates = s.gates := (rfl)
@[simp] theorem State.onRegs_integrity (s : State) (f : List RegCell → List RegCell) : (s.onRegs f).integrity = s.integrity := (rfl)
@[simp] theorem State.onRegs_pmc (s : State) (f : List RegCell → List RegCell) : (s.onRegs f).pmc = s.pmc := (rfl)
@[simp] theorem State.onRwm_pending (s : State) (f : List RwmWrite → List RwmWrite) : (s.onRwm f).pending = s.pending := (rfl)
@[simp] theorem State.onRwm_out (s : State) (f : List RwmWrite → List RwmWrite) : (s.onRwm f).out = s.out := (rfl)
@[simp] theorem State.onRwm_draws (s : State) (f : List RwmWrite → List RwmWrite) : (s.onRwm f).draws = s.draws := (rfl)
@[simp] theorem State.onRwm_regs (s : State) (f : List RwmWrite → List RwmWrite) : (s.onRwm f).regs = s.regs := (rfl)
@[simp] theorem State.onRwm_rwm (s : State) (f : List RwmWrite → List RwmWrite) : (s.onRwm f).rwm = f s.rwm := (rfl)
@[simp] theorem State.onRwm_hiLatch (s : State) (f : List RwmWrite → List RwmWrite) : (s.onRwm f).hiLatch = s.hiLatch := (rfl)
@[simp] theorem State.onRwm_lowWord (s : State) (f : List RwmWrite → List RwmWrite) : (s.onRwm f).lowWord = s.lowWord := (rfl)
@[simp] theorem State.onRwm_clock (s : State) (f : List RwmWrite → List RwmWrite) : (s.onRwm f).clock = s.clock := (rfl)
@[simp] theorem State.onRwm_cfg (s : State) (f : List RwmWrite → List RwmWrite) : (s.onRwm f).cfg = s.cfg := (rfl)
@[simp] theorem State.onRwm_flt (s : State) (f : List RwmWrite → List RwmWrite) : (s.onRwm f).flt = s.flt := (rfl)
@[simp] theorem State.onRwm_mcp (s : State) (f : List RwmWrite → List RwmWrite) : (s.onRwm f).mcp = s.mcp := (rfl)
@[simp] theorem State.onRwm_power (s : State) (f : List RwmWrite → List RwmWrite) : (s.onRwm f).power = s.power := (rfl)
@[simp] theorem State.onRwm_host (s : State) (f : List RwmWrite → List RwmWrite) : (s.onRwm f).host = s.host := (rfl)
@[simp] theorem State.onRwm_store (s : State) (f : List RwmWrite → List RwmWrite) : (s.onRwm f).store = s.store := (rfl)
@[simp] theorem State.onRwm_energy (s : State) (f : List RwmWrite → List RwmWrite) : (s.onRwm f).energy = s.energy := (rfl)
@[simp] theorem State.onRwm_link (s : State) (f : List RwmWrite → List RwmWrite) : (s.onRwm f).link = s.link := (rfl)
@[simp] theorem State.onRwm_rdma (s : State) (f : List RwmWrite → List RwmWrite) : (s.onRwm f).rdma = s.rdma := (rfl)
@[simp] theorem State.onRwm_mem (s : State) (f : List RwmWrite → List RwmWrite) : (s.onRwm f).mem = s.mem := (rfl)
@[simp] theorem State.onRwm_keys (s : State) (f : List RwmWrite → List RwmWrite) : (s.onRwm f).keys = s.keys := (rfl)
@[simp] theorem State.onRwm_ewq (s : State) (f : List RwmWrite → List RwmWrite) : (s.onRwm f).ewq = s.ewq := (rfl)
@[simp] theorem State.onRwm_wall (s : State) (f : List RwmWrite → List RwmWrite) : (s.onRwm f).wall = s.wall := (rfl)
@[simp] theorem State.onRwm_entry (s : State) (f : List RwmWrite → List RwmWrite) : (s.onRwm f).entry = s.entry := (rfl)
@[simp] theorem State.onRwm_admin (s : State) (f : List RwmWrite → List RwmWrite) : (s.onRwm f).admin = s.admin := (rfl)
@[simp] theorem State.onRwm_two (s : State) (f : List RwmWrite → List RwmWrite) : (s.onRwm f).two = s.two := (rfl)
@[simp] theorem State.onRwm_token (s : State) (f : List RwmWrite → List RwmWrite) : (s.onRwm f).token = s.token := (rfl)
@[simp] theorem State.onRwm_slots (s : State) (f : List RwmWrite → List RwmWrite) : (s.onRwm f).slots = s.slots := (rfl)
@[simp] theorem State.onRwm_caches (s : State) (f : List RwmWrite → List RwmWrite) : (s.onRwm f).caches = s.caches := (rfl)
@[simp] theorem State.onRwm_direct (s : State) (f : List RwmWrite → List RwmWrite) : (s.onRwm f).direct = s.direct := (rfl)
@[simp] theorem State.onRwm_switch (s : State) (f : List RwmWrite → List RwmWrite) : (s.onRwm f).switch = s.switch := (rfl)
@[simp] theorem State.onRwm_gates (s : State) (f : List RwmWrite → List RwmWrite) : (s.onRwm f).gates = s.gates := (rfl)
@[simp] theorem State.onRwm_integrity (s : State) (f : List RwmWrite → List RwmWrite) : (s.onRwm f).integrity = s.integrity := (rfl)
@[simp] theorem State.onRwm_pmc (s : State) (f : List RwmWrite → List RwmWrite) : (s.onRwm f).pmc = s.pmc := (rfl)
@[simp] theorem State.onHiLatch_pending (s : State) (f : List PairWord → List PairWord) : (s.onHiLatch f).pending = s.pending := (rfl)
@[simp] theorem State.onHiLatch_out (s : State) (f : List PairWord → List PairWord) : (s.onHiLatch f).out = s.out := (rfl)
@[simp] theorem State.onHiLatch_draws (s : State) (f : List PairWord → List PairWord) : (s.onHiLatch f).draws = s.draws := (rfl)
@[simp] theorem State.onHiLatch_regs (s : State) (f : List PairWord → List PairWord) : (s.onHiLatch f).regs = s.regs := (rfl)
@[simp] theorem State.onHiLatch_rwm (s : State) (f : List PairWord → List PairWord) : (s.onHiLatch f).rwm = s.rwm := (rfl)
@[simp] theorem State.onHiLatch_hiLatch (s : State) (f : List PairWord → List PairWord) : (s.onHiLatch f).hiLatch = f s.hiLatch := (rfl)
@[simp] theorem State.onHiLatch_lowWord (s : State) (f : List PairWord → List PairWord) : (s.onHiLatch f).lowWord = s.lowWord := (rfl)
@[simp] theorem State.onHiLatch_clock (s : State) (f : List PairWord → List PairWord) : (s.onHiLatch f).clock = s.clock := (rfl)
@[simp] theorem State.onHiLatch_cfg (s : State) (f : List PairWord → List PairWord) : (s.onHiLatch f).cfg = s.cfg := (rfl)
@[simp] theorem State.onHiLatch_flt (s : State) (f : List PairWord → List PairWord) : (s.onHiLatch f).flt = s.flt := (rfl)
@[simp] theorem State.onHiLatch_mcp (s : State) (f : List PairWord → List PairWord) : (s.onHiLatch f).mcp = s.mcp := (rfl)
@[simp] theorem State.onHiLatch_power (s : State) (f : List PairWord → List PairWord) : (s.onHiLatch f).power = s.power := (rfl)
@[simp] theorem State.onHiLatch_host (s : State) (f : List PairWord → List PairWord) : (s.onHiLatch f).host = s.host := (rfl)
@[simp] theorem State.onHiLatch_store (s : State) (f : List PairWord → List PairWord) : (s.onHiLatch f).store = s.store := (rfl)
@[simp] theorem State.onHiLatch_energy (s : State) (f : List PairWord → List PairWord) : (s.onHiLatch f).energy = s.energy := (rfl)
@[simp] theorem State.onHiLatch_link (s : State) (f : List PairWord → List PairWord) : (s.onHiLatch f).link = s.link := (rfl)
@[simp] theorem State.onHiLatch_rdma (s : State) (f : List PairWord → List PairWord) : (s.onHiLatch f).rdma = s.rdma := (rfl)
@[simp] theorem State.onHiLatch_mem (s : State) (f : List PairWord → List PairWord) : (s.onHiLatch f).mem = s.mem := (rfl)
@[simp] theorem State.onHiLatch_keys (s : State) (f : List PairWord → List PairWord) : (s.onHiLatch f).keys = s.keys := (rfl)
@[simp] theorem State.onHiLatch_ewq (s : State) (f : List PairWord → List PairWord) : (s.onHiLatch f).ewq = s.ewq := (rfl)
@[simp] theorem State.onHiLatch_wall (s : State) (f : List PairWord → List PairWord) : (s.onHiLatch f).wall = s.wall := (rfl)
@[simp] theorem State.onHiLatch_entry (s : State) (f : List PairWord → List PairWord) : (s.onHiLatch f).entry = s.entry := (rfl)
@[simp] theorem State.onHiLatch_admin (s : State) (f : List PairWord → List PairWord) : (s.onHiLatch f).admin = s.admin := (rfl)
@[simp] theorem State.onHiLatch_two (s : State) (f : List PairWord → List PairWord) : (s.onHiLatch f).two = s.two := (rfl)
@[simp] theorem State.onHiLatch_token (s : State) (f : List PairWord → List PairWord) : (s.onHiLatch f).token = s.token := (rfl)
@[simp] theorem State.onHiLatch_slots (s : State) (f : List PairWord → List PairWord) : (s.onHiLatch f).slots = s.slots := (rfl)
@[simp] theorem State.onHiLatch_caches (s : State) (f : List PairWord → List PairWord) : (s.onHiLatch f).caches = s.caches := (rfl)
@[simp] theorem State.onHiLatch_direct (s : State) (f : List PairWord → List PairWord) : (s.onHiLatch f).direct = s.direct := (rfl)
@[simp] theorem State.onHiLatch_switch (s : State) (f : List PairWord → List PairWord) : (s.onHiLatch f).switch = s.switch := (rfl)
@[simp] theorem State.onHiLatch_gates (s : State) (f : List PairWord → List PairWord) : (s.onHiLatch f).gates = s.gates := (rfl)
@[simp] theorem State.onHiLatch_integrity (s : State) (f : List PairWord → List PairWord) : (s.onHiLatch f).integrity = s.integrity := (rfl)
@[simp] theorem State.onHiLatch_pmc (s : State) (f : List PairWord → List PairWord) : (s.onHiLatch f).pmc = s.pmc := (rfl)
@[simp] theorem State.onLowWord_pending (s : State) (f : List PairWord → List PairWord) : (s.onLowWord f).pending = s.pending := (rfl)
@[simp] theorem State.onLowWord_out (s : State) (f : List PairWord → List PairWord) : (s.onLowWord f).out = s.out := (rfl)
@[simp] theorem State.onLowWord_draws (s : State) (f : List PairWord → List PairWord) : (s.onLowWord f).draws = s.draws := (rfl)
@[simp] theorem State.onLowWord_regs (s : State) (f : List PairWord → List PairWord) : (s.onLowWord f).regs = s.regs := (rfl)
@[simp] theorem State.onLowWord_rwm (s : State) (f : List PairWord → List PairWord) : (s.onLowWord f).rwm = s.rwm := (rfl)
@[simp] theorem State.onLowWord_hiLatch (s : State) (f : List PairWord → List PairWord) : (s.onLowWord f).hiLatch = s.hiLatch := (rfl)
@[simp] theorem State.onLowWord_lowWord (s : State) (f : List PairWord → List PairWord) : (s.onLowWord f).lowWord = f s.lowWord := (rfl)
@[simp] theorem State.onLowWord_clock (s : State) (f : List PairWord → List PairWord) : (s.onLowWord f).clock = s.clock := (rfl)
@[simp] theorem State.onLowWord_cfg (s : State) (f : List PairWord → List PairWord) : (s.onLowWord f).cfg = s.cfg := (rfl)
@[simp] theorem State.onLowWord_flt (s : State) (f : List PairWord → List PairWord) : (s.onLowWord f).flt = s.flt := (rfl)
@[simp] theorem State.onLowWord_mcp (s : State) (f : List PairWord → List PairWord) : (s.onLowWord f).mcp = s.mcp := (rfl)
@[simp] theorem State.onLowWord_power (s : State) (f : List PairWord → List PairWord) : (s.onLowWord f).power = s.power := (rfl)
@[simp] theorem State.onLowWord_host (s : State) (f : List PairWord → List PairWord) : (s.onLowWord f).host = s.host := (rfl)
@[simp] theorem State.onLowWord_store (s : State) (f : List PairWord → List PairWord) : (s.onLowWord f).store = s.store := (rfl)
@[simp] theorem State.onLowWord_energy (s : State) (f : List PairWord → List PairWord) : (s.onLowWord f).energy = s.energy := (rfl)
@[simp] theorem State.onLowWord_link (s : State) (f : List PairWord → List PairWord) : (s.onLowWord f).link = s.link := (rfl)
@[simp] theorem State.onLowWord_rdma (s : State) (f : List PairWord → List PairWord) : (s.onLowWord f).rdma = s.rdma := (rfl)
@[simp] theorem State.onLowWord_mem (s : State) (f : List PairWord → List PairWord) : (s.onLowWord f).mem = s.mem := (rfl)
@[simp] theorem State.onLowWord_keys (s : State) (f : List PairWord → List PairWord) : (s.onLowWord f).keys = s.keys := (rfl)
@[simp] theorem State.onLowWord_ewq (s : State) (f : List PairWord → List PairWord) : (s.onLowWord f).ewq = s.ewq := (rfl)
@[simp] theorem State.onLowWord_wall (s : State) (f : List PairWord → List PairWord) : (s.onLowWord f).wall = s.wall := (rfl)
@[simp] theorem State.onLowWord_entry (s : State) (f : List PairWord → List PairWord) : (s.onLowWord f).entry = s.entry := (rfl)
@[simp] theorem State.onLowWord_admin (s : State) (f : List PairWord → List PairWord) : (s.onLowWord f).admin = s.admin := (rfl)
@[simp] theorem State.onLowWord_two (s : State) (f : List PairWord → List PairWord) : (s.onLowWord f).two = s.two := (rfl)
@[simp] theorem State.onLowWord_token (s : State) (f : List PairWord → List PairWord) : (s.onLowWord f).token = s.token := (rfl)
@[simp] theorem State.onLowWord_slots (s : State) (f : List PairWord → List PairWord) : (s.onLowWord f).slots = s.slots := (rfl)
@[simp] theorem State.onLowWord_caches (s : State) (f : List PairWord → List PairWord) : (s.onLowWord f).caches = s.caches := (rfl)
@[simp] theorem State.onLowWord_direct (s : State) (f : List PairWord → List PairWord) : (s.onLowWord f).direct = s.direct := (rfl)
@[simp] theorem State.onLowWord_switch (s : State) (f : List PairWord → List PairWord) : (s.onLowWord f).switch = s.switch := (rfl)
@[simp] theorem State.onLowWord_gates (s : State) (f : List PairWord → List PairWord) : (s.onLowWord f).gates = s.gates := (rfl)
@[simp] theorem State.onLowWord_integrity (s : State) (f : List PairWord → List PairWord) : (s.onLowWord f).integrity = s.integrity := (rfl)
@[simp] theorem State.onLowWord_pmc (s : State) (f : List PairWord → List PairWord) : (s.onLowWord f).pmc = s.pmc := (rfl)
@[simp] theorem State.onClock_pending (s : State) (f : Clock → Clock) : (s.onClock f).pending = s.pending := (rfl)
@[simp] theorem State.onClock_out (s : State) (f : Clock → Clock) : (s.onClock f).out = s.out := (rfl)
@[simp] theorem State.onClock_draws (s : State) (f : Clock → Clock) : (s.onClock f).draws = s.draws := (rfl)
@[simp] theorem State.onClock_regs (s : State) (f : Clock → Clock) : (s.onClock f).regs = s.regs := (rfl)
@[simp] theorem State.onClock_rwm (s : State) (f : Clock → Clock) : (s.onClock f).rwm = s.rwm := (rfl)
@[simp] theorem State.onClock_hiLatch (s : State) (f : Clock → Clock) : (s.onClock f).hiLatch = s.hiLatch := (rfl)
@[simp] theorem State.onClock_lowWord (s : State) (f : Clock → Clock) : (s.onClock f).lowWord = s.lowWord := (rfl)
@[simp] theorem State.onClock_clock (s : State) (f : Clock → Clock) : (s.onClock f).clock = f s.clock := (rfl)
@[simp] theorem State.onClock_cfg (s : State) (f : Clock → Clock) : (s.onClock f).cfg = s.cfg := (rfl)
@[simp] theorem State.onClock_flt (s : State) (f : Clock → Clock) : (s.onClock f).flt = s.flt := (rfl)
@[simp] theorem State.onClock_mcp (s : State) (f : Clock → Clock) : (s.onClock f).mcp = s.mcp := (rfl)
@[simp] theorem State.onClock_power (s : State) (f : Clock → Clock) : (s.onClock f).power = s.power := (rfl)
@[simp] theorem State.onClock_host (s : State) (f : Clock → Clock) : (s.onClock f).host = s.host := (rfl)
@[simp] theorem State.onClock_store (s : State) (f : Clock → Clock) : (s.onClock f).store = s.store := (rfl)
@[simp] theorem State.onClock_energy (s : State) (f : Clock → Clock) : (s.onClock f).energy = s.energy := (rfl)
@[simp] theorem State.onClock_link (s : State) (f : Clock → Clock) : (s.onClock f).link = s.link := (rfl)
@[simp] theorem State.onClock_rdma (s : State) (f : Clock → Clock) : (s.onClock f).rdma = s.rdma := (rfl)
@[simp] theorem State.onClock_mem (s : State) (f : Clock → Clock) : (s.onClock f).mem = s.mem := (rfl)
@[simp] theorem State.onClock_keys (s : State) (f : Clock → Clock) : (s.onClock f).keys = s.keys := (rfl)
@[simp] theorem State.onClock_ewq (s : State) (f : Clock → Clock) : (s.onClock f).ewq = s.ewq := (rfl)
@[simp] theorem State.onClock_wall (s : State) (f : Clock → Clock) : (s.onClock f).wall = s.wall := (rfl)
@[simp] theorem State.onClock_entry (s : State) (f : Clock → Clock) : (s.onClock f).entry = s.entry := (rfl)
@[simp] theorem State.onClock_admin (s : State) (f : Clock → Clock) : (s.onClock f).admin = s.admin := (rfl)
@[simp] theorem State.onClock_two (s : State) (f : Clock → Clock) : (s.onClock f).two = s.two := (rfl)
@[simp] theorem State.onClock_token (s : State) (f : Clock → Clock) : (s.onClock f).token = s.token := (rfl)
@[simp] theorem State.onClock_slots (s : State) (f : Clock → Clock) : (s.onClock f).slots = s.slots := (rfl)
@[simp] theorem State.onClock_caches (s : State) (f : Clock → Clock) : (s.onClock f).caches = s.caches := (rfl)
@[simp] theorem State.onClock_direct (s : State) (f : Clock → Clock) : (s.onClock f).direct = s.direct := (rfl)
@[simp] theorem State.onClock_switch (s : State) (f : Clock → Clock) : (s.onClock f).switch = s.switch := (rfl)
@[simp] theorem State.onClock_gates (s : State) (f : Clock → Clock) : (s.onClock f).gates = s.gates := (rfl)
@[simp] theorem State.onClock_integrity (s : State) (f : Clock → Clock) : (s.onClock f).integrity = s.integrity := (rfl)
@[simp] theorem State.onClock_pmc (s : State) (f : Clock → Clock) : (s.onClock f).pmc = s.pmc := (rfl)
@[simp] theorem State.onCfg_pending (s : State) (f : StoredConfig → StoredConfig) : (s.onCfg f).pending = s.pending := (rfl)
@[simp] theorem State.onCfg_out (s : State) (f : StoredConfig → StoredConfig) : (s.onCfg f).out = s.out := (rfl)
@[simp] theorem State.onCfg_draws (s : State) (f : StoredConfig → StoredConfig) : (s.onCfg f).draws = s.draws := (rfl)
@[simp] theorem State.onCfg_regs (s : State) (f : StoredConfig → StoredConfig) : (s.onCfg f).regs = s.regs := (rfl)
@[simp] theorem State.onCfg_rwm (s : State) (f : StoredConfig → StoredConfig) : (s.onCfg f).rwm = s.rwm := (rfl)
@[simp] theorem State.onCfg_hiLatch (s : State) (f : StoredConfig → StoredConfig) : (s.onCfg f).hiLatch = s.hiLatch := (rfl)
@[simp] theorem State.onCfg_lowWord (s : State) (f : StoredConfig → StoredConfig) : (s.onCfg f).lowWord = s.lowWord := (rfl)
@[simp] theorem State.onCfg_clock (s : State) (f : StoredConfig → StoredConfig) : (s.onCfg f).clock = s.clock := (rfl)
@[simp] theorem State.onCfg_cfg (s : State) (f : StoredConfig → StoredConfig) : (s.onCfg f).cfg = f s.cfg := (rfl)
@[simp] theorem State.onCfg_flt (s : State) (f : StoredConfig → StoredConfig) : (s.onCfg f).flt = s.flt := (rfl)
@[simp] theorem State.onCfg_mcp (s : State) (f : StoredConfig → StoredConfig) : (s.onCfg f).mcp = s.mcp := (rfl)
@[simp] theorem State.onCfg_power (s : State) (f : StoredConfig → StoredConfig) : (s.onCfg f).power = s.power := (rfl)
@[simp] theorem State.onCfg_host (s : State) (f : StoredConfig → StoredConfig) : (s.onCfg f).host = s.host := (rfl)
@[simp] theorem State.onCfg_store (s : State) (f : StoredConfig → StoredConfig) : (s.onCfg f).store = s.store := (rfl)
@[simp] theorem State.onCfg_energy (s : State) (f : StoredConfig → StoredConfig) : (s.onCfg f).energy = s.energy := (rfl)
@[simp] theorem State.onCfg_link (s : State) (f : StoredConfig → StoredConfig) : (s.onCfg f).link = s.link := (rfl)
@[simp] theorem State.onCfg_rdma (s : State) (f : StoredConfig → StoredConfig) : (s.onCfg f).rdma = s.rdma := (rfl)
@[simp] theorem State.onCfg_mem (s : State) (f : StoredConfig → StoredConfig) : (s.onCfg f).mem = s.mem := (rfl)
@[simp] theorem State.onCfg_keys (s : State) (f : StoredConfig → StoredConfig) : (s.onCfg f).keys = s.keys := (rfl)
@[simp] theorem State.onCfg_ewq (s : State) (f : StoredConfig → StoredConfig) : (s.onCfg f).ewq = s.ewq := (rfl)
@[simp] theorem State.onCfg_wall (s : State) (f : StoredConfig → StoredConfig) : (s.onCfg f).wall = s.wall := (rfl)
@[simp] theorem State.onCfg_entry (s : State) (f : StoredConfig → StoredConfig) : (s.onCfg f).entry = s.entry := (rfl)
@[simp] theorem State.onCfg_admin (s : State) (f : StoredConfig → StoredConfig) : (s.onCfg f).admin = s.admin := (rfl)
@[simp] theorem State.onCfg_two (s : State) (f : StoredConfig → StoredConfig) : (s.onCfg f).two = s.two := (rfl)
@[simp] theorem State.onCfg_token (s : State) (f : StoredConfig → StoredConfig) : (s.onCfg f).token = s.token := (rfl)
@[simp] theorem State.onCfg_slots (s : State) (f : StoredConfig → StoredConfig) : (s.onCfg f).slots = s.slots := (rfl)
@[simp] theorem State.onCfg_caches (s : State) (f : StoredConfig → StoredConfig) : (s.onCfg f).caches = s.caches := (rfl)
@[simp] theorem State.onCfg_direct (s : State) (f : StoredConfig → StoredConfig) : (s.onCfg f).direct = s.direct := (rfl)
@[simp] theorem State.onCfg_switch (s : State) (f : StoredConfig → StoredConfig) : (s.onCfg f).switch = s.switch := (rfl)
@[simp] theorem State.onCfg_gates (s : State) (f : StoredConfig → StoredConfig) : (s.onCfg f).gates = s.gates := (rfl)
@[simp] theorem State.onCfg_integrity (s : State) (f : StoredConfig → StoredConfig) : (s.onCfg f).integrity = s.integrity := (rfl)
@[simp] theorem State.onCfg_pmc (s : State) (f : StoredConfig → StoredConfig) : (s.onCfg f).pmc = s.pmc := (rfl)
@[simp] theorem State.onFlt_pending (s : State) (f : Faults → Faults) : (s.onFlt f).pending = s.pending := (rfl)
@[simp] theorem State.onFlt_out (s : State) (f : Faults → Faults) : (s.onFlt f).out = s.out := (rfl)
@[simp] theorem State.onFlt_draws (s : State) (f : Faults → Faults) : (s.onFlt f).draws = s.draws := (rfl)
@[simp] theorem State.onFlt_regs (s : State) (f : Faults → Faults) : (s.onFlt f).regs = s.regs := (rfl)
@[simp] theorem State.onFlt_rwm (s : State) (f : Faults → Faults) : (s.onFlt f).rwm = s.rwm := (rfl)
@[simp] theorem State.onFlt_hiLatch (s : State) (f : Faults → Faults) : (s.onFlt f).hiLatch = s.hiLatch := (rfl)
@[simp] theorem State.onFlt_lowWord (s : State) (f : Faults → Faults) : (s.onFlt f).lowWord = s.lowWord := (rfl)
@[simp] theorem State.onFlt_clock (s : State) (f : Faults → Faults) : (s.onFlt f).clock = s.clock := (rfl)
@[simp] theorem State.onFlt_cfg (s : State) (f : Faults → Faults) : (s.onFlt f).cfg = s.cfg := (rfl)
@[simp] theorem State.onFlt_flt (s : State) (f : Faults → Faults) : (s.onFlt f).flt = f s.flt := (rfl)
@[simp] theorem State.onFlt_mcp (s : State) (f : Faults → Faults) : (s.onFlt f).mcp = s.mcp := (rfl)
@[simp] theorem State.onFlt_power (s : State) (f : Faults → Faults) : (s.onFlt f).power = s.power := (rfl)
@[simp] theorem State.onFlt_host (s : State) (f : Faults → Faults) : (s.onFlt f).host = s.host := (rfl)
@[simp] theorem State.onFlt_store (s : State) (f : Faults → Faults) : (s.onFlt f).store = s.store := (rfl)
@[simp] theorem State.onFlt_energy (s : State) (f : Faults → Faults) : (s.onFlt f).energy = s.energy := (rfl)
@[simp] theorem State.onFlt_link (s : State) (f : Faults → Faults) : (s.onFlt f).link = s.link := (rfl)
@[simp] theorem State.onFlt_rdma (s : State) (f : Faults → Faults) : (s.onFlt f).rdma = s.rdma := (rfl)
@[simp] theorem State.onFlt_mem (s : State) (f : Faults → Faults) : (s.onFlt f).mem = s.mem := (rfl)
@[simp] theorem State.onFlt_keys (s : State) (f : Faults → Faults) : (s.onFlt f).keys = s.keys := (rfl)
@[simp] theorem State.onFlt_ewq (s : State) (f : Faults → Faults) : (s.onFlt f).ewq = s.ewq := (rfl)
@[simp] theorem State.onFlt_wall (s : State) (f : Faults → Faults) : (s.onFlt f).wall = s.wall := (rfl)
@[simp] theorem State.onFlt_entry (s : State) (f : Faults → Faults) : (s.onFlt f).entry = s.entry := (rfl)
@[simp] theorem State.onFlt_admin (s : State) (f : Faults → Faults) : (s.onFlt f).admin = s.admin := (rfl)
@[simp] theorem State.onFlt_two (s : State) (f : Faults → Faults) : (s.onFlt f).two = s.two := (rfl)
@[simp] theorem State.onFlt_token (s : State) (f : Faults → Faults) : (s.onFlt f).token = s.token := (rfl)
@[simp] theorem State.onFlt_slots (s : State) (f : Faults → Faults) : (s.onFlt f).slots = s.slots := (rfl)
@[simp] theorem State.onFlt_caches (s : State) (f : Faults → Faults) : (s.onFlt f).caches = s.caches := (rfl)
@[simp] theorem State.onFlt_direct (s : State) (f : Faults → Faults) : (s.onFlt f).direct = s.direct := (rfl)
@[simp] theorem State.onFlt_switch (s : State) (f : Faults → Faults) : (s.onFlt f).switch = s.switch := (rfl)
@[simp] theorem State.onFlt_gates (s : State) (f : Faults → Faults) : (s.onFlt f).gates = s.gates := (rfl)
@[simp] theorem State.onFlt_integrity (s : State) (f : Faults → Faults) : (s.onFlt f).integrity = s.integrity := (rfl)
@[simp] theorem State.onFlt_pmc (s : State) (f : Faults → Faults) : (s.onFlt f).pmc = s.pmc := (rfl)
@[simp] theorem State.onMcp_pending (s : State) (f : Mcp → Mcp) : (s.onMcp f).pending = s.pending := (rfl)
@[simp] theorem State.onMcp_out (s : State) (f : Mcp → Mcp) : (s.onMcp f).out = s.out := (rfl)
@[simp] theorem State.onMcp_draws (s : State) (f : Mcp → Mcp) : (s.onMcp f).draws = s.draws := (rfl)
@[simp] theorem State.onMcp_regs (s : State) (f : Mcp → Mcp) : (s.onMcp f).regs = s.regs := (rfl)
@[simp] theorem State.onMcp_rwm (s : State) (f : Mcp → Mcp) : (s.onMcp f).rwm = s.rwm := (rfl)
@[simp] theorem State.onMcp_hiLatch (s : State) (f : Mcp → Mcp) : (s.onMcp f).hiLatch = s.hiLatch := (rfl)
@[simp] theorem State.onMcp_lowWord (s : State) (f : Mcp → Mcp) : (s.onMcp f).lowWord = s.lowWord := (rfl)
@[simp] theorem State.onMcp_clock (s : State) (f : Mcp → Mcp) : (s.onMcp f).clock = s.clock := (rfl)
@[simp] theorem State.onMcp_cfg (s : State) (f : Mcp → Mcp) : (s.onMcp f).cfg = s.cfg := (rfl)
@[simp] theorem State.onMcp_flt (s : State) (f : Mcp → Mcp) : (s.onMcp f).flt = s.flt := (rfl)
@[simp] theorem State.onMcp_mcp (s : State) (f : Mcp → Mcp) : (s.onMcp f).mcp = f s.mcp := (rfl)
@[simp] theorem State.onMcp_power (s : State) (f : Mcp → Mcp) : (s.onMcp f).power = s.power := (rfl)
@[simp] theorem State.onMcp_host (s : State) (f : Mcp → Mcp) : (s.onMcp f).host = s.host := (rfl)
@[simp] theorem State.onMcp_store (s : State) (f : Mcp → Mcp) : (s.onMcp f).store = s.store := (rfl)
@[simp] theorem State.onMcp_energy (s : State) (f : Mcp → Mcp) : (s.onMcp f).energy = s.energy := (rfl)
@[simp] theorem State.onMcp_link (s : State) (f : Mcp → Mcp) : (s.onMcp f).link = s.link := (rfl)
@[simp] theorem State.onMcp_rdma (s : State) (f : Mcp → Mcp) : (s.onMcp f).rdma = s.rdma := (rfl)
@[simp] theorem State.onMcp_mem (s : State) (f : Mcp → Mcp) : (s.onMcp f).mem = s.mem := (rfl)
@[simp] theorem State.onMcp_keys (s : State) (f : Mcp → Mcp) : (s.onMcp f).keys = s.keys := (rfl)
@[simp] theorem State.onMcp_ewq (s : State) (f : Mcp → Mcp) : (s.onMcp f).ewq = s.ewq := (rfl)
@[simp] theorem State.onMcp_wall (s : State) (f : Mcp → Mcp) : (s.onMcp f).wall = s.wall := (rfl)
@[simp] theorem State.onMcp_entry (s : State) (f : Mcp → Mcp) : (s.onMcp f).entry = s.entry := (rfl)
@[simp] theorem State.onMcp_admin (s : State) (f : Mcp → Mcp) : (s.onMcp f).admin = s.admin := (rfl)
@[simp] theorem State.onMcp_two (s : State) (f : Mcp → Mcp) : (s.onMcp f).two = s.two := (rfl)
@[simp] theorem State.onMcp_token (s : State) (f : Mcp → Mcp) : (s.onMcp f).token = s.token := (rfl)
@[simp] theorem State.onMcp_slots (s : State) (f : Mcp → Mcp) : (s.onMcp f).slots = s.slots := (rfl)
@[simp] theorem State.onMcp_caches (s : State) (f : Mcp → Mcp) : (s.onMcp f).caches = s.caches := (rfl)
@[simp] theorem State.onMcp_direct (s : State) (f : Mcp → Mcp) : (s.onMcp f).direct = s.direct := (rfl)
@[simp] theorem State.onMcp_switch (s : State) (f : Mcp → Mcp) : (s.onMcp f).switch = s.switch := (rfl)
@[simp] theorem State.onMcp_gates (s : State) (f : Mcp → Mcp) : (s.onMcp f).gates = s.gates := (rfl)
@[simp] theorem State.onMcp_integrity (s : State) (f : Mcp → Mcp) : (s.onMcp f).integrity = s.integrity := (rfl)
@[simp] theorem State.onMcp_pmc (s : State) (f : Mcp → Mcp) : (s.onMcp f).pmc = s.pmc := (rfl)
@[simp] theorem State.onPower_pending (s : State) (f : Power → Power) : (s.onPower f).pending = s.pending := (rfl)
@[simp] theorem State.onPower_out (s : State) (f : Power → Power) : (s.onPower f).out = s.out := (rfl)
@[simp] theorem State.onPower_draws (s : State) (f : Power → Power) : (s.onPower f).draws = s.draws := (rfl)
@[simp] theorem State.onPower_regs (s : State) (f : Power → Power) : (s.onPower f).regs = s.regs := (rfl)
@[simp] theorem State.onPower_rwm (s : State) (f : Power → Power) : (s.onPower f).rwm = s.rwm := (rfl)
@[simp] theorem State.onPower_hiLatch (s : State) (f : Power → Power) : (s.onPower f).hiLatch = s.hiLatch := (rfl)
@[simp] theorem State.onPower_lowWord (s : State) (f : Power → Power) : (s.onPower f).lowWord = s.lowWord := (rfl)
@[simp] theorem State.onPower_clock (s : State) (f : Power → Power) : (s.onPower f).clock = s.clock := (rfl)
@[simp] theorem State.onPower_cfg (s : State) (f : Power → Power) : (s.onPower f).cfg = s.cfg := (rfl)
@[simp] theorem State.onPower_flt (s : State) (f : Power → Power) : (s.onPower f).flt = s.flt := (rfl)
@[simp] theorem State.onPower_mcp (s : State) (f : Power → Power) : (s.onPower f).mcp = s.mcp := (rfl)
@[simp] theorem State.onPower_power (s : State) (f : Power → Power) : (s.onPower f).power = f s.power := (rfl)
@[simp] theorem State.onPower_host (s : State) (f : Power → Power) : (s.onPower f).host = s.host := (rfl)
@[simp] theorem State.onPower_store (s : State) (f : Power → Power) : (s.onPower f).store = s.store := (rfl)
@[simp] theorem State.onPower_energy (s : State) (f : Power → Power) : (s.onPower f).energy = s.energy := (rfl)
@[simp] theorem State.onPower_link (s : State) (f : Power → Power) : (s.onPower f).link = s.link := (rfl)
@[simp] theorem State.onPower_rdma (s : State) (f : Power → Power) : (s.onPower f).rdma = s.rdma := (rfl)
@[simp] theorem State.onPower_mem (s : State) (f : Power → Power) : (s.onPower f).mem = s.mem := (rfl)
@[simp] theorem State.onPower_keys (s : State) (f : Power → Power) : (s.onPower f).keys = s.keys := (rfl)
@[simp] theorem State.onPower_ewq (s : State) (f : Power → Power) : (s.onPower f).ewq = s.ewq := (rfl)
@[simp] theorem State.onPower_wall (s : State) (f : Power → Power) : (s.onPower f).wall = s.wall := (rfl)
@[simp] theorem State.onPower_entry (s : State) (f : Power → Power) : (s.onPower f).entry = s.entry := (rfl)
@[simp] theorem State.onPower_admin (s : State) (f : Power → Power) : (s.onPower f).admin = s.admin := (rfl)
@[simp] theorem State.onPower_two (s : State) (f : Power → Power) : (s.onPower f).two = s.two := (rfl)
@[simp] theorem State.onPower_token (s : State) (f : Power → Power) : (s.onPower f).token = s.token := (rfl)
@[simp] theorem State.onPower_slots (s : State) (f : Power → Power) : (s.onPower f).slots = s.slots := (rfl)
@[simp] theorem State.onPower_caches (s : State) (f : Power → Power) : (s.onPower f).caches = s.caches := (rfl)
@[simp] theorem State.onPower_direct (s : State) (f : Power → Power) : (s.onPower f).direct = s.direct := (rfl)
@[simp] theorem State.onPower_switch (s : State) (f : Power → Power) : (s.onPower f).switch = s.switch := (rfl)
@[simp] theorem State.onPower_gates (s : State) (f : Power → Power) : (s.onPower f).gates = s.gates := (rfl)
@[simp] theorem State.onPower_integrity (s : State) (f : Power → Power) : (s.onPower f).integrity = s.integrity := (rfl)
@[simp] theorem State.onPower_pmc (s : State) (f : Power → Power) : (s.onPower f).pmc = s.pmc := (rfl)
@[simp] theorem State.onHost_pending (s : State) (f : Hosts → Hosts) : (s.onHost f).pending = s.pending := (rfl)
@[simp] theorem State.onHost_out (s : State) (f : Hosts → Hosts) : (s.onHost f).out = s.out := (rfl)
@[simp] theorem State.onHost_draws (s : State) (f : Hosts → Hosts) : (s.onHost f).draws = s.draws := (rfl)
@[simp] theorem State.onHost_regs (s : State) (f : Hosts → Hosts) : (s.onHost f).regs = s.regs := (rfl)
@[simp] theorem State.onHost_rwm (s : State) (f : Hosts → Hosts) : (s.onHost f).rwm = s.rwm := (rfl)
@[simp] theorem State.onHost_hiLatch (s : State) (f : Hosts → Hosts) : (s.onHost f).hiLatch = s.hiLatch := (rfl)
@[simp] theorem State.onHost_lowWord (s : State) (f : Hosts → Hosts) : (s.onHost f).lowWord = s.lowWord := (rfl)
@[simp] theorem State.onHost_clock (s : State) (f : Hosts → Hosts) : (s.onHost f).clock = s.clock := (rfl)
@[simp] theorem State.onHost_cfg (s : State) (f : Hosts → Hosts) : (s.onHost f).cfg = s.cfg := (rfl)
@[simp] theorem State.onHost_flt (s : State) (f : Hosts → Hosts) : (s.onHost f).flt = s.flt := (rfl)
@[simp] theorem State.onHost_mcp (s : State) (f : Hosts → Hosts) : (s.onHost f).mcp = s.mcp := (rfl)
@[simp] theorem State.onHost_power (s : State) (f : Hosts → Hosts) : (s.onHost f).power = s.power := (rfl)
@[simp] theorem State.onHost_host (s : State) (f : Hosts → Hosts) : (s.onHost f).host = f s.host := (rfl)
@[simp] theorem State.onHost_store (s : State) (f : Hosts → Hosts) : (s.onHost f).store = s.store := (rfl)
@[simp] theorem State.onHost_energy (s : State) (f : Hosts → Hosts) : (s.onHost f).energy = s.energy := (rfl)
@[simp] theorem State.onHost_link (s : State) (f : Hosts → Hosts) : (s.onHost f).link = s.link := (rfl)
@[simp] theorem State.onHost_rdma (s : State) (f : Hosts → Hosts) : (s.onHost f).rdma = s.rdma := (rfl)
@[simp] theorem State.onHost_mem (s : State) (f : Hosts → Hosts) : (s.onHost f).mem = s.mem := (rfl)
@[simp] theorem State.onHost_keys (s : State) (f : Hosts → Hosts) : (s.onHost f).keys = s.keys := (rfl)
@[simp] theorem State.onHost_ewq (s : State) (f : Hosts → Hosts) : (s.onHost f).ewq = s.ewq := (rfl)
@[simp] theorem State.onHost_wall (s : State) (f : Hosts → Hosts) : (s.onHost f).wall = s.wall := (rfl)
@[simp] theorem State.onHost_entry (s : State) (f : Hosts → Hosts) : (s.onHost f).entry = s.entry := (rfl)
@[simp] theorem State.onHost_admin (s : State) (f : Hosts → Hosts) : (s.onHost f).admin = s.admin := (rfl)
@[simp] theorem State.onHost_two (s : State) (f : Hosts → Hosts) : (s.onHost f).two = s.two := (rfl)
@[simp] theorem State.onHost_token (s : State) (f : Hosts → Hosts) : (s.onHost f).token = s.token := (rfl)
@[simp] theorem State.onHost_slots (s : State) (f : Hosts → Hosts) : (s.onHost f).slots = s.slots := (rfl)
@[simp] theorem State.onHost_caches (s : State) (f : Hosts → Hosts) : (s.onHost f).caches = s.caches := (rfl)
@[simp] theorem State.onHost_direct (s : State) (f : Hosts → Hosts) : (s.onHost f).direct = s.direct := (rfl)
@[simp] theorem State.onHost_switch (s : State) (f : Hosts → Hosts) : (s.onHost f).switch = s.switch := (rfl)
@[simp] theorem State.onHost_gates (s : State) (f : Hosts → Hosts) : (s.onHost f).gates = s.gates := (rfl)
@[simp] theorem State.onHost_integrity (s : State) (f : Hosts → Hosts) : (s.onHost f).integrity = s.integrity := (rfl)
@[simp] theorem State.onHost_pmc (s : State) (f : Hosts → Hosts) : (s.onHost f).pmc = s.pmc := (rfl)
@[simp] theorem State.onStore_pending (s : State) (f : Store → Store) : (s.onStore f).pending = s.pending := (rfl)
@[simp] theorem State.onStore_out (s : State) (f : Store → Store) : (s.onStore f).out = s.out := (rfl)
@[simp] theorem State.onStore_draws (s : State) (f : Store → Store) : (s.onStore f).draws = s.draws := (rfl)
@[simp] theorem State.onStore_regs (s : State) (f : Store → Store) : (s.onStore f).regs = s.regs := (rfl)
@[simp] theorem State.onStore_rwm (s : State) (f : Store → Store) : (s.onStore f).rwm = s.rwm := (rfl)
@[simp] theorem State.onStore_hiLatch (s : State) (f : Store → Store) : (s.onStore f).hiLatch = s.hiLatch := (rfl)
@[simp] theorem State.onStore_lowWord (s : State) (f : Store → Store) : (s.onStore f).lowWord = s.lowWord := (rfl)
@[simp] theorem State.onStore_clock (s : State) (f : Store → Store) : (s.onStore f).clock = s.clock := (rfl)
@[simp] theorem State.onStore_cfg (s : State) (f : Store → Store) : (s.onStore f).cfg = s.cfg := (rfl)
@[simp] theorem State.onStore_flt (s : State) (f : Store → Store) : (s.onStore f).flt = s.flt := (rfl)
@[simp] theorem State.onStore_mcp (s : State) (f : Store → Store) : (s.onStore f).mcp = s.mcp := (rfl)
@[simp] theorem State.onStore_power (s : State) (f : Store → Store) : (s.onStore f).power = s.power := (rfl)
@[simp] theorem State.onStore_host (s : State) (f : Store → Store) : (s.onStore f).host = s.host := (rfl)
@[simp] theorem State.onStore_store (s : State) (f : Store → Store) : (s.onStore f).store = f s.store := (rfl)
@[simp] theorem State.onStore_energy (s : State) (f : Store → Store) : (s.onStore f).energy = s.energy := (rfl)
@[simp] theorem State.onStore_link (s : State) (f : Store → Store) : (s.onStore f).link = s.link := (rfl)
@[simp] theorem State.onStore_rdma (s : State) (f : Store → Store) : (s.onStore f).rdma = s.rdma := (rfl)
@[simp] theorem State.onStore_mem (s : State) (f : Store → Store) : (s.onStore f).mem = s.mem := (rfl)
@[simp] theorem State.onStore_keys (s : State) (f : Store → Store) : (s.onStore f).keys = s.keys := (rfl)
@[simp] theorem State.onStore_ewq (s : State) (f : Store → Store) : (s.onStore f).ewq = s.ewq := (rfl)
@[simp] theorem State.onStore_wall (s : State) (f : Store → Store) : (s.onStore f).wall = s.wall := (rfl)
@[simp] theorem State.onStore_entry (s : State) (f : Store → Store) : (s.onStore f).entry = s.entry := (rfl)
@[simp] theorem State.onStore_admin (s : State) (f : Store → Store) : (s.onStore f).admin = s.admin := (rfl)
@[simp] theorem State.onStore_two (s : State) (f : Store → Store) : (s.onStore f).two = s.two := (rfl)
@[simp] theorem State.onStore_token (s : State) (f : Store → Store) : (s.onStore f).token = s.token := (rfl)
@[simp] theorem State.onStore_slots (s : State) (f : Store → Store) : (s.onStore f).slots = s.slots := (rfl)
@[simp] theorem State.onStore_caches (s : State) (f : Store → Store) : (s.onStore f).caches = s.caches := (rfl)
@[simp] theorem State.onStore_direct (s : State) (f : Store → Store) : (s.onStore f).direct = s.direct := (rfl)
@[simp] theorem State.onStore_switch (s : State) (f : Store → Store) : (s.onStore f).switch = s.switch := (rfl)
@[simp] theorem State.onStore_gates (s : State) (f : Store → Store) : (s.onStore f).gates = s.gates := (rfl)
@[simp] theorem State.onStore_integrity (s : State) (f : Store → Store) : (s.onStore f).integrity = s.integrity := (rfl)
@[simp] theorem State.onStore_pmc (s : State) (f : Store → Store) : (s.onStore f).pmc = s.pmc := (rfl)
@[simp] theorem State.onEnergy_pending (s : State) (f : Energy → Energy) : (s.onEnergy f).pending = s.pending := (rfl)
@[simp] theorem State.onEnergy_out (s : State) (f : Energy → Energy) : (s.onEnergy f).out = s.out := (rfl)
@[simp] theorem State.onEnergy_draws (s : State) (f : Energy → Energy) : (s.onEnergy f).draws = s.draws := (rfl)
@[simp] theorem State.onEnergy_regs (s : State) (f : Energy → Energy) : (s.onEnergy f).regs = s.regs := (rfl)
@[simp] theorem State.onEnergy_rwm (s : State) (f : Energy → Energy) : (s.onEnergy f).rwm = s.rwm := (rfl)
@[simp] theorem State.onEnergy_hiLatch (s : State) (f : Energy → Energy) : (s.onEnergy f).hiLatch = s.hiLatch := (rfl)
@[simp] theorem State.onEnergy_lowWord (s : State) (f : Energy → Energy) : (s.onEnergy f).lowWord = s.lowWord := (rfl)
@[simp] theorem State.onEnergy_clock (s : State) (f : Energy → Energy) : (s.onEnergy f).clock = s.clock := (rfl)
@[simp] theorem State.onEnergy_cfg (s : State) (f : Energy → Energy) : (s.onEnergy f).cfg = s.cfg := (rfl)
@[simp] theorem State.onEnergy_flt (s : State) (f : Energy → Energy) : (s.onEnergy f).flt = s.flt := (rfl)
@[simp] theorem State.onEnergy_mcp (s : State) (f : Energy → Energy) : (s.onEnergy f).mcp = s.mcp := (rfl)
@[simp] theorem State.onEnergy_power (s : State) (f : Energy → Energy) : (s.onEnergy f).power = s.power := (rfl)
@[simp] theorem State.onEnergy_host (s : State) (f : Energy → Energy) : (s.onEnergy f).host = s.host := (rfl)
@[simp] theorem State.onEnergy_store (s : State) (f : Energy → Energy) : (s.onEnergy f).store = s.store := (rfl)
@[simp] theorem State.onEnergy_energy (s : State) (f : Energy → Energy) : (s.onEnergy f).energy = f s.energy := (rfl)
@[simp] theorem State.onEnergy_link (s : State) (f : Energy → Energy) : (s.onEnergy f).link = s.link := (rfl)
@[simp] theorem State.onEnergy_rdma (s : State) (f : Energy → Energy) : (s.onEnergy f).rdma = s.rdma := (rfl)
@[simp] theorem State.onEnergy_mem (s : State) (f : Energy → Energy) : (s.onEnergy f).mem = s.mem := (rfl)
@[simp] theorem State.onEnergy_keys (s : State) (f : Energy → Energy) : (s.onEnergy f).keys = s.keys := (rfl)
@[simp] theorem State.onEnergy_ewq (s : State) (f : Energy → Energy) : (s.onEnergy f).ewq = s.ewq := (rfl)
@[simp] theorem State.onEnergy_wall (s : State) (f : Energy → Energy) : (s.onEnergy f).wall = s.wall := (rfl)
@[simp] theorem State.onEnergy_entry (s : State) (f : Energy → Energy) : (s.onEnergy f).entry = s.entry := (rfl)
@[simp] theorem State.onEnergy_admin (s : State) (f : Energy → Energy) : (s.onEnergy f).admin = s.admin := (rfl)
@[simp] theorem State.onEnergy_two (s : State) (f : Energy → Energy) : (s.onEnergy f).two = s.two := (rfl)
@[simp] theorem State.onEnergy_token (s : State) (f : Energy → Energy) : (s.onEnergy f).token = s.token := (rfl)
@[simp] theorem State.onEnergy_slots (s : State) (f : Energy → Energy) : (s.onEnergy f).slots = s.slots := (rfl)
@[simp] theorem State.onEnergy_caches (s : State) (f : Energy → Energy) : (s.onEnergy f).caches = s.caches := (rfl)
@[simp] theorem State.onEnergy_direct (s : State) (f : Energy → Energy) : (s.onEnergy f).direct = s.direct := (rfl)
@[simp] theorem State.onEnergy_switch (s : State) (f : Energy → Energy) : (s.onEnergy f).switch = s.switch := (rfl)
@[simp] theorem State.onEnergy_gates (s : State) (f : Energy → Energy) : (s.onEnergy f).gates = s.gates := (rfl)
@[simp] theorem State.onEnergy_integrity (s : State) (f : Energy → Energy) : (s.onEnergy f).integrity = s.integrity := (rfl)
@[simp] theorem State.onEnergy_pmc (s : State) (f : Energy → Energy) : (s.onEnergy f).pmc = s.pmc := (rfl)
@[simp] theorem State.onLink_pending (s : State) (f : Link → Link) : (s.onLink f).pending = s.pending := (rfl)
@[simp] theorem State.onLink_out (s : State) (f : Link → Link) : (s.onLink f).out = s.out := (rfl)
@[simp] theorem State.onLink_draws (s : State) (f : Link → Link) : (s.onLink f).draws = s.draws := (rfl)
@[simp] theorem State.onLink_regs (s : State) (f : Link → Link) : (s.onLink f).regs = s.regs := (rfl)
@[simp] theorem State.onLink_rwm (s : State) (f : Link → Link) : (s.onLink f).rwm = s.rwm := (rfl)
@[simp] theorem State.onLink_hiLatch (s : State) (f : Link → Link) : (s.onLink f).hiLatch = s.hiLatch := (rfl)
@[simp] theorem State.onLink_lowWord (s : State) (f : Link → Link) : (s.onLink f).lowWord = s.lowWord := (rfl)
@[simp] theorem State.onLink_clock (s : State) (f : Link → Link) : (s.onLink f).clock = s.clock := (rfl)
@[simp] theorem State.onLink_cfg (s : State) (f : Link → Link) : (s.onLink f).cfg = s.cfg := (rfl)
@[simp] theorem State.onLink_flt (s : State) (f : Link → Link) : (s.onLink f).flt = s.flt := (rfl)
@[simp] theorem State.onLink_mcp (s : State) (f : Link → Link) : (s.onLink f).mcp = s.mcp := (rfl)
@[simp] theorem State.onLink_power (s : State) (f : Link → Link) : (s.onLink f).power = s.power := (rfl)
@[simp] theorem State.onLink_host (s : State) (f : Link → Link) : (s.onLink f).host = s.host := (rfl)
@[simp] theorem State.onLink_store (s : State) (f : Link → Link) : (s.onLink f).store = s.store := (rfl)
@[simp] theorem State.onLink_energy (s : State) (f : Link → Link) : (s.onLink f).energy = s.energy := (rfl)
@[simp] theorem State.onLink_link (s : State) (f : Link → Link) : (s.onLink f).link = f s.link := (rfl)
@[simp] theorem State.onLink_rdma (s : State) (f : Link → Link) : (s.onLink f).rdma = s.rdma := (rfl)
@[simp] theorem State.onLink_mem (s : State) (f : Link → Link) : (s.onLink f).mem = s.mem := (rfl)
@[simp] theorem State.onLink_keys (s : State) (f : Link → Link) : (s.onLink f).keys = s.keys := (rfl)
@[simp] theorem State.onLink_ewq (s : State) (f : Link → Link) : (s.onLink f).ewq = s.ewq := (rfl)
@[simp] theorem State.onLink_wall (s : State) (f : Link → Link) : (s.onLink f).wall = s.wall := (rfl)
@[simp] theorem State.onLink_entry (s : State) (f : Link → Link) : (s.onLink f).entry = s.entry := (rfl)
@[simp] theorem State.onLink_admin (s : State) (f : Link → Link) : (s.onLink f).admin = s.admin := (rfl)
@[simp] theorem State.onLink_two (s : State) (f : Link → Link) : (s.onLink f).two = s.two := (rfl)
@[simp] theorem State.onLink_token (s : State) (f : Link → Link) : (s.onLink f).token = s.token := (rfl)
@[simp] theorem State.onLink_slots (s : State) (f : Link → Link) : (s.onLink f).slots = s.slots := (rfl)
@[simp] theorem State.onLink_caches (s : State) (f : Link → Link) : (s.onLink f).caches = s.caches := (rfl)
@[simp] theorem State.onLink_direct (s : State) (f : Link → Link) : (s.onLink f).direct = s.direct := (rfl)
@[simp] theorem State.onLink_switch (s : State) (f : Link → Link) : (s.onLink f).switch = s.switch := (rfl)
@[simp] theorem State.onLink_gates (s : State) (f : Link → Link) : (s.onLink f).gates = s.gates := (rfl)
@[simp] theorem State.onLink_integrity (s : State) (f : Link → Link) : (s.onLink f).integrity = s.integrity := (rfl)
@[simp] theorem State.onLink_pmc (s : State) (f : Link → Link) : (s.onLink f).pmc = s.pmc := (rfl)
@[simp] theorem State.onRdma_pending (s : State) (f : Rdma → Rdma) : (s.onRdma f).pending = s.pending := (rfl)
@[simp] theorem State.onRdma_out (s : State) (f : Rdma → Rdma) : (s.onRdma f).out = s.out := (rfl)
@[simp] theorem State.onRdma_draws (s : State) (f : Rdma → Rdma) : (s.onRdma f).draws = s.draws := (rfl)
@[simp] theorem State.onRdma_regs (s : State) (f : Rdma → Rdma) : (s.onRdma f).regs = s.regs := (rfl)
@[simp] theorem State.onRdma_rwm (s : State) (f : Rdma → Rdma) : (s.onRdma f).rwm = s.rwm := (rfl)
@[simp] theorem State.onRdma_hiLatch (s : State) (f : Rdma → Rdma) : (s.onRdma f).hiLatch = s.hiLatch := (rfl)
@[simp] theorem State.onRdma_lowWord (s : State) (f : Rdma → Rdma) : (s.onRdma f).lowWord = s.lowWord := (rfl)
@[simp] theorem State.onRdma_clock (s : State) (f : Rdma → Rdma) : (s.onRdma f).clock = s.clock := (rfl)
@[simp] theorem State.onRdma_cfg (s : State) (f : Rdma → Rdma) : (s.onRdma f).cfg = s.cfg := (rfl)
@[simp] theorem State.onRdma_flt (s : State) (f : Rdma → Rdma) : (s.onRdma f).flt = s.flt := (rfl)
@[simp] theorem State.onRdma_mcp (s : State) (f : Rdma → Rdma) : (s.onRdma f).mcp = s.mcp := (rfl)
@[simp] theorem State.onRdma_power (s : State) (f : Rdma → Rdma) : (s.onRdma f).power = s.power := (rfl)
@[simp] theorem State.onRdma_host (s : State) (f : Rdma → Rdma) : (s.onRdma f).host = s.host := (rfl)
@[simp] theorem State.onRdma_store (s : State) (f : Rdma → Rdma) : (s.onRdma f).store = s.store := (rfl)
@[simp] theorem State.onRdma_energy (s : State) (f : Rdma → Rdma) : (s.onRdma f).energy = s.energy := (rfl)
@[simp] theorem State.onRdma_link (s : State) (f : Rdma → Rdma) : (s.onRdma f).link = s.link := (rfl)
@[simp] theorem State.onRdma_rdma (s : State) (f : Rdma → Rdma) : (s.onRdma f).rdma = f s.rdma := (rfl)
@[simp] theorem State.onRdma_mem (s : State) (f : Rdma → Rdma) : (s.onRdma f).mem = s.mem := (rfl)
@[simp] theorem State.onRdma_keys (s : State) (f : Rdma → Rdma) : (s.onRdma f).keys = s.keys := (rfl)
@[simp] theorem State.onRdma_ewq (s : State) (f : Rdma → Rdma) : (s.onRdma f).ewq = s.ewq := (rfl)
@[simp] theorem State.onRdma_wall (s : State) (f : Rdma → Rdma) : (s.onRdma f).wall = s.wall := (rfl)
@[simp] theorem State.onRdma_entry (s : State) (f : Rdma → Rdma) : (s.onRdma f).entry = s.entry := (rfl)
@[simp] theorem State.onRdma_admin (s : State) (f : Rdma → Rdma) : (s.onRdma f).admin = s.admin := (rfl)
@[simp] theorem State.onRdma_two (s : State) (f : Rdma → Rdma) : (s.onRdma f).two = s.two := (rfl)
@[simp] theorem State.onRdma_token (s : State) (f : Rdma → Rdma) : (s.onRdma f).token = s.token := (rfl)
@[simp] theorem State.onRdma_slots (s : State) (f : Rdma → Rdma) : (s.onRdma f).slots = s.slots := (rfl)
@[simp] theorem State.onRdma_caches (s : State) (f : Rdma → Rdma) : (s.onRdma f).caches = s.caches := (rfl)
@[simp] theorem State.onRdma_direct (s : State) (f : Rdma → Rdma) : (s.onRdma f).direct = s.direct := (rfl)
@[simp] theorem State.onRdma_switch (s : State) (f : Rdma → Rdma) : (s.onRdma f).switch = s.switch := (rfl)
@[simp] theorem State.onRdma_gates (s : State) (f : Rdma → Rdma) : (s.onRdma f).gates = s.gates := (rfl)
@[simp] theorem State.onRdma_integrity (s : State) (f : Rdma → Rdma) : (s.onRdma f).integrity = s.integrity := (rfl)
@[simp] theorem State.onRdma_pmc (s : State) (f : Rdma → Rdma) : (s.onRdma f).pmc = s.pmc := (rfl)
@[simp] theorem State.onMem_pending (s : State) (f : List Host.Cell → List Host.Cell) : (s.onMem f).pending = s.pending := (rfl)
@[simp] theorem State.onMem_out (s : State) (f : List Host.Cell → List Host.Cell) : (s.onMem f).out = s.out := (rfl)
@[simp] theorem State.onMem_draws (s : State) (f : List Host.Cell → List Host.Cell) : (s.onMem f).draws = s.draws := (rfl)
@[simp] theorem State.onMem_regs (s : State) (f : List Host.Cell → List Host.Cell) : (s.onMem f).regs = s.regs := (rfl)
@[simp] theorem State.onMem_rwm (s : State) (f : List Host.Cell → List Host.Cell) : (s.onMem f).rwm = s.rwm := (rfl)
@[simp] theorem State.onMem_hiLatch (s : State) (f : List Host.Cell → List Host.Cell) : (s.onMem f).hiLatch = s.hiLatch := (rfl)
@[simp] theorem State.onMem_lowWord (s : State) (f : List Host.Cell → List Host.Cell) : (s.onMem f).lowWord = s.lowWord := (rfl)
@[simp] theorem State.onMem_clock (s : State) (f : List Host.Cell → List Host.Cell) : (s.onMem f).clock = s.clock := (rfl)
@[simp] theorem State.onMem_cfg (s : State) (f : List Host.Cell → List Host.Cell) : (s.onMem f).cfg = s.cfg := (rfl)
@[simp] theorem State.onMem_flt (s : State) (f : List Host.Cell → List Host.Cell) : (s.onMem f).flt = s.flt := (rfl)
@[simp] theorem State.onMem_mcp (s : State) (f : List Host.Cell → List Host.Cell) : (s.onMem f).mcp = s.mcp := (rfl)
@[simp] theorem State.onMem_power (s : State) (f : List Host.Cell → List Host.Cell) : (s.onMem f).power = s.power := (rfl)
@[simp] theorem State.onMem_host (s : State) (f : List Host.Cell → List Host.Cell) : (s.onMem f).host = s.host := (rfl)
@[simp] theorem State.onMem_store (s : State) (f : List Host.Cell → List Host.Cell) : (s.onMem f).store = s.store := (rfl)
@[simp] theorem State.onMem_energy (s : State) (f : List Host.Cell → List Host.Cell) : (s.onMem f).energy = s.energy := (rfl)
@[simp] theorem State.onMem_link (s : State) (f : List Host.Cell → List Host.Cell) : (s.onMem f).link = s.link := (rfl)
@[simp] theorem State.onMem_rdma (s : State) (f : List Host.Cell → List Host.Cell) : (s.onMem f).rdma = s.rdma := (rfl)
@[simp] theorem State.onMem_mem (s : State) (f : List Host.Cell → List Host.Cell) : (s.onMem f).mem = f s.mem := (rfl)
@[simp] theorem State.onMem_keys (s : State) (f : List Host.Cell → List Host.Cell) : (s.onMem f).keys = s.keys := (rfl)
@[simp] theorem State.onMem_ewq (s : State) (f : List Host.Cell → List Host.Cell) : (s.onMem f).ewq = s.ewq := (rfl)
@[simp] theorem State.onMem_wall (s : State) (f : List Host.Cell → List Host.Cell) : (s.onMem f).wall = s.wall := (rfl)
@[simp] theorem State.onMem_entry (s : State) (f : List Host.Cell → List Host.Cell) : (s.onMem f).entry = s.entry := (rfl)
@[simp] theorem State.onMem_admin (s : State) (f : List Host.Cell → List Host.Cell) : (s.onMem f).admin = s.admin := (rfl)
@[simp] theorem State.onMem_two (s : State) (f : List Host.Cell → List Host.Cell) : (s.onMem f).two = s.two := (rfl)
@[simp] theorem State.onMem_token (s : State) (f : List Host.Cell → List Host.Cell) : (s.onMem f).token = s.token := (rfl)
@[simp] theorem State.onMem_slots (s : State) (f : List Host.Cell → List Host.Cell) : (s.onMem f).slots = s.slots := (rfl)
@[simp] theorem State.onMem_caches (s : State) (f : List Host.Cell → List Host.Cell) : (s.onMem f).caches = s.caches := (rfl)
@[simp] theorem State.onMem_direct (s : State) (f : List Host.Cell → List Host.Cell) : (s.onMem f).direct = s.direct := (rfl)
@[simp] theorem State.onMem_switch (s : State) (f : List Host.Cell → List Host.Cell) : (s.onMem f).switch = s.switch := (rfl)
@[simp] theorem State.onMem_gates (s : State) (f : List Host.Cell → List Host.Cell) : (s.onMem f).gates = s.gates := (rfl)
@[simp] theorem State.onMem_integrity (s : State) (f : List Host.Cell → List Host.Cell) : (s.onMem f).integrity = s.integrity := (rfl)
@[simp] theorem State.onMem_pmc (s : State) (f : List Host.Cell → List Host.Cell) : (s.onMem f).pmc = s.pmc := (rfl)
@[simp] theorem State.onKeys_pending (s : State) (f : Keys → Keys) : (s.onKeys f).pending = s.pending := (rfl)
@[simp] theorem State.onKeys_out (s : State) (f : Keys → Keys) : (s.onKeys f).out = s.out := (rfl)
@[simp] theorem State.onKeys_draws (s : State) (f : Keys → Keys) : (s.onKeys f).draws = s.draws := (rfl)
@[simp] theorem State.onKeys_regs (s : State) (f : Keys → Keys) : (s.onKeys f).regs = s.regs := (rfl)
@[simp] theorem State.onKeys_rwm (s : State) (f : Keys → Keys) : (s.onKeys f).rwm = s.rwm := (rfl)
@[simp] theorem State.onKeys_hiLatch (s : State) (f : Keys → Keys) : (s.onKeys f).hiLatch = s.hiLatch := (rfl)
@[simp] theorem State.onKeys_lowWord (s : State) (f : Keys → Keys) : (s.onKeys f).lowWord = s.lowWord := (rfl)
@[simp] theorem State.onKeys_clock (s : State) (f : Keys → Keys) : (s.onKeys f).clock = s.clock := (rfl)
@[simp] theorem State.onKeys_cfg (s : State) (f : Keys → Keys) : (s.onKeys f).cfg = s.cfg := (rfl)
@[simp] theorem State.onKeys_flt (s : State) (f : Keys → Keys) : (s.onKeys f).flt = s.flt := (rfl)
@[simp] theorem State.onKeys_mcp (s : State) (f : Keys → Keys) : (s.onKeys f).mcp = s.mcp := (rfl)
@[simp] theorem State.onKeys_power (s : State) (f : Keys → Keys) : (s.onKeys f).power = s.power := (rfl)
@[simp] theorem State.onKeys_host (s : State) (f : Keys → Keys) : (s.onKeys f).host = s.host := (rfl)
@[simp] theorem State.onKeys_store (s : State) (f : Keys → Keys) : (s.onKeys f).store = s.store := (rfl)
@[simp] theorem State.onKeys_energy (s : State) (f : Keys → Keys) : (s.onKeys f).energy = s.energy := (rfl)
@[simp] theorem State.onKeys_link (s : State) (f : Keys → Keys) : (s.onKeys f).link = s.link := (rfl)
@[simp] theorem State.onKeys_rdma (s : State) (f : Keys → Keys) : (s.onKeys f).rdma = s.rdma := (rfl)
@[simp] theorem State.onKeys_mem (s : State) (f : Keys → Keys) : (s.onKeys f).mem = s.mem := (rfl)
@[simp] theorem State.onKeys_keys (s : State) (f : Keys → Keys) : (s.onKeys f).keys = f s.keys := (rfl)
@[simp] theorem State.onKeys_ewq (s : State) (f : Keys → Keys) : (s.onKeys f).ewq = s.ewq := (rfl)
@[simp] theorem State.onKeys_wall (s : State) (f : Keys → Keys) : (s.onKeys f).wall = s.wall := (rfl)
@[simp] theorem State.onKeys_entry (s : State) (f : Keys → Keys) : (s.onKeys f).entry = s.entry := (rfl)
@[simp] theorem State.onKeys_admin (s : State) (f : Keys → Keys) : (s.onKeys f).admin = s.admin := (rfl)
@[simp] theorem State.onKeys_two (s : State) (f : Keys → Keys) : (s.onKeys f).two = s.two := (rfl)
@[simp] theorem State.onKeys_token (s : State) (f : Keys → Keys) : (s.onKeys f).token = s.token := (rfl)
@[simp] theorem State.onKeys_slots (s : State) (f : Keys → Keys) : (s.onKeys f).slots = s.slots := (rfl)
@[simp] theorem State.onKeys_caches (s : State) (f : Keys → Keys) : (s.onKeys f).caches = s.caches := (rfl)
@[simp] theorem State.onKeys_direct (s : State) (f : Keys → Keys) : (s.onKeys f).direct = s.direct := (rfl)
@[simp] theorem State.onKeys_switch (s : State) (f : Keys → Keys) : (s.onKeys f).switch = s.switch := (rfl)
@[simp] theorem State.onKeys_gates (s : State) (f : Keys → Keys) : (s.onKeys f).gates = s.gates := (rfl)
@[simp] theorem State.onKeys_integrity (s : State) (f : Keys → Keys) : (s.onKeys f).integrity = s.integrity := (rfl)
@[simp] theorem State.onKeys_pmc (s : State) (f : Keys → Keys) : (s.onKeys f).pmc = s.pmc := (rfl)
@[simp] theorem State.onEwq_pending (s : State) (f : Ewq → Ewq) : (s.onEwq f).pending = s.pending := (rfl)
@[simp] theorem State.onEwq_out (s : State) (f : Ewq → Ewq) : (s.onEwq f).out = s.out := (rfl)
@[simp] theorem State.onEwq_draws (s : State) (f : Ewq → Ewq) : (s.onEwq f).draws = s.draws := (rfl)
@[simp] theorem State.onEwq_regs (s : State) (f : Ewq → Ewq) : (s.onEwq f).regs = s.regs := (rfl)
@[simp] theorem State.onEwq_rwm (s : State) (f : Ewq → Ewq) : (s.onEwq f).rwm = s.rwm := (rfl)
@[simp] theorem State.onEwq_hiLatch (s : State) (f : Ewq → Ewq) : (s.onEwq f).hiLatch = s.hiLatch := (rfl)
@[simp] theorem State.onEwq_lowWord (s : State) (f : Ewq → Ewq) : (s.onEwq f).lowWord = s.lowWord := (rfl)
@[simp] theorem State.onEwq_clock (s : State) (f : Ewq → Ewq) : (s.onEwq f).clock = s.clock := (rfl)
@[simp] theorem State.onEwq_cfg (s : State) (f : Ewq → Ewq) : (s.onEwq f).cfg = s.cfg := (rfl)
@[simp] theorem State.onEwq_flt (s : State) (f : Ewq → Ewq) : (s.onEwq f).flt = s.flt := (rfl)
@[simp] theorem State.onEwq_mcp (s : State) (f : Ewq → Ewq) : (s.onEwq f).mcp = s.mcp := (rfl)
@[simp] theorem State.onEwq_power (s : State) (f : Ewq → Ewq) : (s.onEwq f).power = s.power := (rfl)
@[simp] theorem State.onEwq_host (s : State) (f : Ewq → Ewq) : (s.onEwq f).host = s.host := (rfl)
@[simp] theorem State.onEwq_store (s : State) (f : Ewq → Ewq) : (s.onEwq f).store = s.store := (rfl)
@[simp] theorem State.onEwq_energy (s : State) (f : Ewq → Ewq) : (s.onEwq f).energy = s.energy := (rfl)
@[simp] theorem State.onEwq_link (s : State) (f : Ewq → Ewq) : (s.onEwq f).link = s.link := (rfl)
@[simp] theorem State.onEwq_rdma (s : State) (f : Ewq → Ewq) : (s.onEwq f).rdma = s.rdma := (rfl)
@[simp] theorem State.onEwq_mem (s : State) (f : Ewq → Ewq) : (s.onEwq f).mem = s.mem := (rfl)
@[simp] theorem State.onEwq_keys (s : State) (f : Ewq → Ewq) : (s.onEwq f).keys = s.keys := (rfl)
@[simp] theorem State.onEwq_ewq (s : State) (f : Ewq → Ewq) : (s.onEwq f).ewq = f s.ewq := (rfl)
@[simp] theorem State.onEwq_wall (s : State) (f : Ewq → Ewq) : (s.onEwq f).wall = s.wall := (rfl)
@[simp] theorem State.onEwq_entry (s : State) (f : Ewq → Ewq) : (s.onEwq f).entry = s.entry := (rfl)
@[simp] theorem State.onEwq_admin (s : State) (f : Ewq → Ewq) : (s.onEwq f).admin = s.admin := (rfl)
@[simp] theorem State.onEwq_two (s : State) (f : Ewq → Ewq) : (s.onEwq f).two = s.two := (rfl)
@[simp] theorem State.onEwq_token (s : State) (f : Ewq → Ewq) : (s.onEwq f).token = s.token := (rfl)
@[simp] theorem State.onEwq_slots (s : State) (f : Ewq → Ewq) : (s.onEwq f).slots = s.slots := (rfl)
@[simp] theorem State.onEwq_caches (s : State) (f : Ewq → Ewq) : (s.onEwq f).caches = s.caches := (rfl)
@[simp] theorem State.onEwq_direct (s : State) (f : Ewq → Ewq) : (s.onEwq f).direct = s.direct := (rfl)
@[simp] theorem State.onEwq_switch (s : State) (f : Ewq → Ewq) : (s.onEwq f).switch = s.switch := (rfl)
@[simp] theorem State.onEwq_gates (s : State) (f : Ewq → Ewq) : (s.onEwq f).gates = s.gates := (rfl)
@[simp] theorem State.onEwq_integrity (s : State) (f : Ewq → Ewq) : (s.onEwq f).integrity = s.integrity := (rfl)
@[simp] theorem State.onEwq_pmc (s : State) (f : Ewq → Ewq) : (s.onEwq f).pmc = s.pmc := (rfl)
@[simp] theorem State.onWall_pending (s : State) (f : Wall → Wall) : (s.onWall f).pending = s.pending := (rfl)
@[simp] theorem State.onWall_out (s : State) (f : Wall → Wall) : (s.onWall f).out = s.out := (rfl)
@[simp] theorem State.onWall_draws (s : State) (f : Wall → Wall) : (s.onWall f).draws = s.draws := (rfl)
@[simp] theorem State.onWall_regs (s : State) (f : Wall → Wall) : (s.onWall f).regs = s.regs := (rfl)
@[simp] theorem State.onWall_rwm (s : State) (f : Wall → Wall) : (s.onWall f).rwm = s.rwm := (rfl)
@[simp] theorem State.onWall_hiLatch (s : State) (f : Wall → Wall) : (s.onWall f).hiLatch = s.hiLatch := (rfl)
@[simp] theorem State.onWall_lowWord (s : State) (f : Wall → Wall) : (s.onWall f).lowWord = s.lowWord := (rfl)
@[simp] theorem State.onWall_clock (s : State) (f : Wall → Wall) : (s.onWall f).clock = s.clock := (rfl)
@[simp] theorem State.onWall_cfg (s : State) (f : Wall → Wall) : (s.onWall f).cfg = s.cfg := (rfl)
@[simp] theorem State.onWall_flt (s : State) (f : Wall → Wall) : (s.onWall f).flt = s.flt := (rfl)
@[simp] theorem State.onWall_mcp (s : State) (f : Wall → Wall) : (s.onWall f).mcp = s.mcp := (rfl)
@[simp] theorem State.onWall_power (s : State) (f : Wall → Wall) : (s.onWall f).power = s.power := (rfl)
@[simp] theorem State.onWall_host (s : State) (f : Wall → Wall) : (s.onWall f).host = s.host := (rfl)
@[simp] theorem State.onWall_store (s : State) (f : Wall → Wall) : (s.onWall f).store = s.store := (rfl)
@[simp] theorem State.onWall_energy (s : State) (f : Wall → Wall) : (s.onWall f).energy = s.energy := (rfl)
@[simp] theorem State.onWall_link (s : State) (f : Wall → Wall) : (s.onWall f).link = s.link := (rfl)
@[simp] theorem State.onWall_rdma (s : State) (f : Wall → Wall) : (s.onWall f).rdma = s.rdma := (rfl)
@[simp] theorem State.onWall_mem (s : State) (f : Wall → Wall) : (s.onWall f).mem = s.mem := (rfl)
@[simp] theorem State.onWall_keys (s : State) (f : Wall → Wall) : (s.onWall f).keys = s.keys := (rfl)
@[simp] theorem State.onWall_ewq (s : State) (f : Wall → Wall) : (s.onWall f).ewq = s.ewq := (rfl)
@[simp] theorem State.onWall_wall (s : State) (f : Wall → Wall) : (s.onWall f).wall = f s.wall := (rfl)
@[simp] theorem State.onWall_entry (s : State) (f : Wall → Wall) : (s.onWall f).entry = s.entry := (rfl)
@[simp] theorem State.onWall_admin (s : State) (f : Wall → Wall) : (s.onWall f).admin = s.admin := (rfl)
@[simp] theorem State.onWall_two (s : State) (f : Wall → Wall) : (s.onWall f).two = s.two := (rfl)
@[simp] theorem State.onWall_token (s : State) (f : Wall → Wall) : (s.onWall f).token = s.token := (rfl)
@[simp] theorem State.onWall_slots (s : State) (f : Wall → Wall) : (s.onWall f).slots = s.slots := (rfl)
@[simp] theorem State.onWall_caches (s : State) (f : Wall → Wall) : (s.onWall f).caches = s.caches := (rfl)
@[simp] theorem State.onWall_direct (s : State) (f : Wall → Wall) : (s.onWall f).direct = s.direct := (rfl)
@[simp] theorem State.onWall_switch (s : State) (f : Wall → Wall) : (s.onWall f).switch = s.switch := (rfl)
@[simp] theorem State.onWall_gates (s : State) (f : Wall → Wall) : (s.onWall f).gates = s.gates := (rfl)
@[simp] theorem State.onWall_integrity (s : State) (f : Wall → Wall) : (s.onWall f).integrity = s.integrity := (rfl)
@[simp] theorem State.onWall_pmc (s : State) (f : Wall → Wall) : (s.onWall f).pmc = s.pmc := (rfl)
@[simp] theorem State.onEntry_pending (s : State) (f : Entry → Entry) : (s.onEntry f).pending = s.pending := (rfl)
@[simp] theorem State.onEntry_out (s : State) (f : Entry → Entry) : (s.onEntry f).out = s.out := (rfl)
@[simp] theorem State.onEntry_draws (s : State) (f : Entry → Entry) : (s.onEntry f).draws = s.draws := (rfl)
@[simp] theorem State.onEntry_regs (s : State) (f : Entry → Entry) : (s.onEntry f).regs = s.regs := (rfl)
@[simp] theorem State.onEntry_rwm (s : State) (f : Entry → Entry) : (s.onEntry f).rwm = s.rwm := (rfl)
@[simp] theorem State.onEntry_hiLatch (s : State) (f : Entry → Entry) : (s.onEntry f).hiLatch = s.hiLatch := (rfl)
@[simp] theorem State.onEntry_lowWord (s : State) (f : Entry → Entry) : (s.onEntry f).lowWord = s.lowWord := (rfl)
@[simp] theorem State.onEntry_clock (s : State) (f : Entry → Entry) : (s.onEntry f).clock = s.clock := (rfl)
@[simp] theorem State.onEntry_cfg (s : State) (f : Entry → Entry) : (s.onEntry f).cfg = s.cfg := (rfl)
@[simp] theorem State.onEntry_flt (s : State) (f : Entry → Entry) : (s.onEntry f).flt = s.flt := (rfl)
@[simp] theorem State.onEntry_mcp (s : State) (f : Entry → Entry) : (s.onEntry f).mcp = s.mcp := (rfl)
@[simp] theorem State.onEntry_power (s : State) (f : Entry → Entry) : (s.onEntry f).power = s.power := (rfl)
@[simp] theorem State.onEntry_host (s : State) (f : Entry → Entry) : (s.onEntry f).host = s.host := (rfl)
@[simp] theorem State.onEntry_store (s : State) (f : Entry → Entry) : (s.onEntry f).store = s.store := (rfl)
@[simp] theorem State.onEntry_energy (s : State) (f : Entry → Entry) : (s.onEntry f).energy = s.energy := (rfl)
@[simp] theorem State.onEntry_link (s : State) (f : Entry → Entry) : (s.onEntry f).link = s.link := (rfl)
@[simp] theorem State.onEntry_rdma (s : State) (f : Entry → Entry) : (s.onEntry f).rdma = s.rdma := (rfl)
@[simp] theorem State.onEntry_mem (s : State) (f : Entry → Entry) : (s.onEntry f).mem = s.mem := (rfl)
@[simp] theorem State.onEntry_keys (s : State) (f : Entry → Entry) : (s.onEntry f).keys = s.keys := (rfl)
@[simp] theorem State.onEntry_ewq (s : State) (f : Entry → Entry) : (s.onEntry f).ewq = s.ewq := (rfl)
@[simp] theorem State.onEntry_wall (s : State) (f : Entry → Entry) : (s.onEntry f).wall = s.wall := (rfl)
@[simp] theorem State.onEntry_entry (s : State) (f : Entry → Entry) : (s.onEntry f).entry = f s.entry := (rfl)
@[simp] theorem State.onEntry_admin (s : State) (f : Entry → Entry) : (s.onEntry f).admin = s.admin := (rfl)
@[simp] theorem State.onEntry_two (s : State) (f : Entry → Entry) : (s.onEntry f).two = s.two := (rfl)
@[simp] theorem State.onEntry_token (s : State) (f : Entry → Entry) : (s.onEntry f).token = s.token := (rfl)
@[simp] theorem State.onEntry_slots (s : State) (f : Entry → Entry) : (s.onEntry f).slots = s.slots := (rfl)
@[simp] theorem State.onEntry_caches (s : State) (f : Entry → Entry) : (s.onEntry f).caches = s.caches := (rfl)
@[simp] theorem State.onEntry_direct (s : State) (f : Entry → Entry) : (s.onEntry f).direct = s.direct := (rfl)
@[simp] theorem State.onEntry_switch (s : State) (f : Entry → Entry) : (s.onEntry f).switch = s.switch := (rfl)
@[simp] theorem State.onEntry_gates (s : State) (f : Entry → Entry) : (s.onEntry f).gates = s.gates := (rfl)
@[simp] theorem State.onEntry_integrity (s : State) (f : Entry → Entry) : (s.onEntry f).integrity = s.integrity := (rfl)
@[simp] theorem State.onEntry_pmc (s : State) (f : Entry → Entry) : (s.onEntry f).pmc = s.pmc := (rfl)
@[simp] theorem State.onAdmin_pending (s : State) (f : Admin → Admin) : (s.onAdmin f).pending = s.pending := (rfl)
@[simp] theorem State.onAdmin_out (s : State) (f : Admin → Admin) : (s.onAdmin f).out = s.out := (rfl)
@[simp] theorem State.onAdmin_draws (s : State) (f : Admin → Admin) : (s.onAdmin f).draws = s.draws := (rfl)
@[simp] theorem State.onAdmin_regs (s : State) (f : Admin → Admin) : (s.onAdmin f).regs = s.regs := (rfl)
@[simp] theorem State.onAdmin_rwm (s : State) (f : Admin → Admin) : (s.onAdmin f).rwm = s.rwm := (rfl)
@[simp] theorem State.onAdmin_hiLatch (s : State) (f : Admin → Admin) : (s.onAdmin f).hiLatch = s.hiLatch := (rfl)
@[simp] theorem State.onAdmin_lowWord (s : State) (f : Admin → Admin) : (s.onAdmin f).lowWord = s.lowWord := (rfl)
@[simp] theorem State.onAdmin_clock (s : State) (f : Admin → Admin) : (s.onAdmin f).clock = s.clock := (rfl)
@[simp] theorem State.onAdmin_cfg (s : State) (f : Admin → Admin) : (s.onAdmin f).cfg = s.cfg := (rfl)
@[simp] theorem State.onAdmin_flt (s : State) (f : Admin → Admin) : (s.onAdmin f).flt = s.flt := (rfl)
@[simp] theorem State.onAdmin_mcp (s : State) (f : Admin → Admin) : (s.onAdmin f).mcp = s.mcp := (rfl)
@[simp] theorem State.onAdmin_power (s : State) (f : Admin → Admin) : (s.onAdmin f).power = s.power := (rfl)
@[simp] theorem State.onAdmin_host (s : State) (f : Admin → Admin) : (s.onAdmin f).host = s.host := (rfl)
@[simp] theorem State.onAdmin_store (s : State) (f : Admin → Admin) : (s.onAdmin f).store = s.store := (rfl)
@[simp] theorem State.onAdmin_energy (s : State) (f : Admin → Admin) : (s.onAdmin f).energy = s.energy := (rfl)
@[simp] theorem State.onAdmin_link (s : State) (f : Admin → Admin) : (s.onAdmin f).link = s.link := (rfl)
@[simp] theorem State.onAdmin_rdma (s : State) (f : Admin → Admin) : (s.onAdmin f).rdma = s.rdma := (rfl)
@[simp] theorem State.onAdmin_mem (s : State) (f : Admin → Admin) : (s.onAdmin f).mem = s.mem := (rfl)
@[simp] theorem State.onAdmin_keys (s : State) (f : Admin → Admin) : (s.onAdmin f).keys = s.keys := (rfl)
@[simp] theorem State.onAdmin_ewq (s : State) (f : Admin → Admin) : (s.onAdmin f).ewq = s.ewq := (rfl)
@[simp] theorem State.onAdmin_wall (s : State) (f : Admin → Admin) : (s.onAdmin f).wall = s.wall := (rfl)
@[simp] theorem State.onAdmin_entry (s : State) (f : Admin → Admin) : (s.onAdmin f).entry = s.entry := (rfl)
@[simp] theorem State.onAdmin_admin (s : State) (f : Admin → Admin) : (s.onAdmin f).admin = f s.admin := (rfl)
@[simp] theorem State.onAdmin_two (s : State) (f : Admin → Admin) : (s.onAdmin f).two = s.two := (rfl)
@[simp] theorem State.onAdmin_token (s : State) (f : Admin → Admin) : (s.onAdmin f).token = s.token := (rfl)
@[simp] theorem State.onAdmin_slots (s : State) (f : Admin → Admin) : (s.onAdmin f).slots = s.slots := (rfl)
@[simp] theorem State.onAdmin_caches (s : State) (f : Admin → Admin) : (s.onAdmin f).caches = s.caches := (rfl)
@[simp] theorem State.onAdmin_direct (s : State) (f : Admin → Admin) : (s.onAdmin f).direct = s.direct := (rfl)
@[simp] theorem State.onAdmin_switch (s : State) (f : Admin → Admin) : (s.onAdmin f).switch = s.switch := (rfl)
@[simp] theorem State.onAdmin_gates (s : State) (f : Admin → Admin) : (s.onAdmin f).gates = s.gates := (rfl)
@[simp] theorem State.onAdmin_integrity (s : State) (f : Admin → Admin) : (s.onAdmin f).integrity = s.integrity := (rfl)
@[simp] theorem State.onAdmin_pmc (s : State) (f : Admin → Admin) : (s.onAdmin f).pmc = s.pmc := (rfl)
@[simp] theorem State.onTwo_pending (s : State) (f : TwoStep → TwoStep) : (s.onTwo f).pending = s.pending := (rfl)
@[simp] theorem State.onTwo_out (s : State) (f : TwoStep → TwoStep) : (s.onTwo f).out = s.out := (rfl)
@[simp] theorem State.onTwo_draws (s : State) (f : TwoStep → TwoStep) : (s.onTwo f).draws = s.draws := (rfl)
@[simp] theorem State.onTwo_regs (s : State) (f : TwoStep → TwoStep) : (s.onTwo f).regs = s.regs := (rfl)
@[simp] theorem State.onTwo_rwm (s : State) (f : TwoStep → TwoStep) : (s.onTwo f).rwm = s.rwm := (rfl)
@[simp] theorem State.onTwo_hiLatch (s : State) (f : TwoStep → TwoStep) : (s.onTwo f).hiLatch = s.hiLatch := (rfl)
@[simp] theorem State.onTwo_lowWord (s : State) (f : TwoStep → TwoStep) : (s.onTwo f).lowWord = s.lowWord := (rfl)
@[simp] theorem State.onTwo_clock (s : State) (f : TwoStep → TwoStep) : (s.onTwo f).clock = s.clock := (rfl)
@[simp] theorem State.onTwo_cfg (s : State) (f : TwoStep → TwoStep) : (s.onTwo f).cfg = s.cfg := (rfl)
@[simp] theorem State.onTwo_flt (s : State) (f : TwoStep → TwoStep) : (s.onTwo f).flt = s.flt := (rfl)
@[simp] theorem State.onTwo_mcp (s : State) (f : TwoStep → TwoStep) : (s.onTwo f).mcp = s.mcp := (rfl)
@[simp] theorem State.onTwo_power (s : State) (f : TwoStep → TwoStep) : (s.onTwo f).power = s.power := (rfl)
@[simp] theorem State.onTwo_host (s : State) (f : TwoStep → TwoStep) : (s.onTwo f).host = s.host := (rfl)
@[simp] theorem State.onTwo_store (s : State) (f : TwoStep → TwoStep) : (s.onTwo f).store = s.store := (rfl)
@[simp] theorem State.onTwo_energy (s : State) (f : TwoStep → TwoStep) : (s.onTwo f).energy = s.energy := (rfl)
@[simp] theorem State.onTwo_link (s : State) (f : TwoStep → TwoStep) : (s.onTwo f).link = s.link := (rfl)
@[simp] theorem State.onTwo_rdma (s : State) (f : TwoStep → TwoStep) : (s.onTwo f).rdma = s.rdma := (rfl)
@[simp] theorem State.onTwo_mem (s : State) (f : TwoStep → TwoStep) : (s.onTwo f).mem = s.mem := (rfl)
@[simp] theorem State.onTwo_keys (s : State) (f : TwoStep → TwoStep) : (s.onTwo f).keys = s.keys := (rfl)
@[simp] theorem State.onTwo_ewq (s : State) (f : TwoStep → TwoStep) : (s.onTwo f).ewq = s.ewq := (rfl)
@[simp] theorem State.onTwo_wall (s : State) (f : TwoStep → TwoStep) : (s.onTwo f).wall = s.wall := (rfl)
@[simp] theorem State.onTwo_entry (s : State) (f : TwoStep → TwoStep) : (s.onTwo f).entry = s.entry := (rfl)
@[simp] theorem State.onTwo_admin (s : State) (f : TwoStep → TwoStep) : (s.onTwo f).admin = s.admin := (rfl)
@[simp] theorem State.onTwo_two (s : State) (f : TwoStep → TwoStep) : (s.onTwo f).two = f s.two := (rfl)
@[simp] theorem State.onTwo_token (s : State) (f : TwoStep → TwoStep) : (s.onTwo f).token = s.token := (rfl)
@[simp] theorem State.onTwo_slots (s : State) (f : TwoStep → TwoStep) : (s.onTwo f).slots = s.slots := (rfl)
@[simp] theorem State.onTwo_caches (s : State) (f : TwoStep → TwoStep) : (s.onTwo f).caches = s.caches := (rfl)
@[simp] theorem State.onTwo_direct (s : State) (f : TwoStep → TwoStep) : (s.onTwo f).direct = s.direct := (rfl)
@[simp] theorem State.onTwo_switch (s : State) (f : TwoStep → TwoStep) : (s.onTwo f).switch = s.switch := (rfl)
@[simp] theorem State.onTwo_gates (s : State) (f : TwoStep → TwoStep) : (s.onTwo f).gates = s.gates := (rfl)
@[simp] theorem State.onTwo_integrity (s : State) (f : TwoStep → TwoStep) : (s.onTwo f).integrity = s.integrity := (rfl)
@[simp] theorem State.onTwo_pmc (s : State) (f : TwoStep → TwoStep) : (s.onTwo f).pmc = s.pmc := (rfl)
@[simp] theorem State.onToken_pending (s : State) (f : Token → Token) : (s.onToken f).pending = s.pending := (rfl)
@[simp] theorem State.onToken_out (s : State) (f : Token → Token) : (s.onToken f).out = s.out := (rfl)
@[simp] theorem State.onToken_draws (s : State) (f : Token → Token) : (s.onToken f).draws = s.draws := (rfl)
@[simp] theorem State.onToken_regs (s : State) (f : Token → Token) : (s.onToken f).regs = s.regs := (rfl)
@[simp] theorem State.onToken_rwm (s : State) (f : Token → Token) : (s.onToken f).rwm = s.rwm := (rfl)
@[simp] theorem State.onToken_hiLatch (s : State) (f : Token → Token) : (s.onToken f).hiLatch = s.hiLatch := (rfl)
@[simp] theorem State.onToken_lowWord (s : State) (f : Token → Token) : (s.onToken f).lowWord = s.lowWord := (rfl)
@[simp] theorem State.onToken_clock (s : State) (f : Token → Token) : (s.onToken f).clock = s.clock := (rfl)
@[simp] theorem State.onToken_cfg (s : State) (f : Token → Token) : (s.onToken f).cfg = s.cfg := (rfl)
@[simp] theorem State.onToken_flt (s : State) (f : Token → Token) : (s.onToken f).flt = s.flt := (rfl)
@[simp] theorem State.onToken_mcp (s : State) (f : Token → Token) : (s.onToken f).mcp = s.mcp := (rfl)
@[simp] theorem State.onToken_power (s : State) (f : Token → Token) : (s.onToken f).power = s.power := (rfl)
@[simp] theorem State.onToken_host (s : State) (f : Token → Token) : (s.onToken f).host = s.host := (rfl)
@[simp] theorem State.onToken_store (s : State) (f : Token → Token) : (s.onToken f).store = s.store := (rfl)
@[simp] theorem State.onToken_energy (s : State) (f : Token → Token) : (s.onToken f).energy = s.energy := (rfl)
@[simp] theorem State.onToken_link (s : State) (f : Token → Token) : (s.onToken f).link = s.link := (rfl)
@[simp] theorem State.onToken_rdma (s : State) (f : Token → Token) : (s.onToken f).rdma = s.rdma := (rfl)
@[simp] theorem State.onToken_mem (s : State) (f : Token → Token) : (s.onToken f).mem = s.mem := (rfl)
@[simp] theorem State.onToken_keys (s : State) (f : Token → Token) : (s.onToken f).keys = s.keys := (rfl)
@[simp] theorem State.onToken_ewq (s : State) (f : Token → Token) : (s.onToken f).ewq = s.ewq := (rfl)
@[simp] theorem State.onToken_wall (s : State) (f : Token → Token) : (s.onToken f).wall = s.wall := (rfl)
@[simp] theorem State.onToken_entry (s : State) (f : Token → Token) : (s.onToken f).entry = s.entry := (rfl)
@[simp] theorem State.onToken_admin (s : State) (f : Token → Token) : (s.onToken f).admin = s.admin := (rfl)
@[simp] theorem State.onToken_two (s : State) (f : Token → Token) : (s.onToken f).two = s.two := (rfl)
@[simp] theorem State.onToken_token (s : State) (f : Token → Token) : (s.onToken f).token = f s.token := (rfl)
@[simp] theorem State.onToken_slots (s : State) (f : Token → Token) : (s.onToken f).slots = s.slots := (rfl)
@[simp] theorem State.onToken_caches (s : State) (f : Token → Token) : (s.onToken f).caches = s.caches := (rfl)
@[simp] theorem State.onToken_direct (s : State) (f : Token → Token) : (s.onToken f).direct = s.direct := (rfl)
@[simp] theorem State.onToken_switch (s : State) (f : Token → Token) : (s.onToken f).switch = s.switch := (rfl)
@[simp] theorem State.onToken_gates (s : State) (f : Token → Token) : (s.onToken f).gates = s.gates := (rfl)
@[simp] theorem State.onToken_integrity (s : State) (f : Token → Token) : (s.onToken f).integrity = s.integrity := (rfl)
@[simp] theorem State.onToken_pmc (s : State) (f : Token → Token) : (s.onToken f).pmc = s.pmc := (rfl)
@[simp] theorem State.onSlots_pending (s : State) (f : Slots → Slots) : (s.onSlots f).pending = s.pending := (rfl)
@[simp] theorem State.onSlots_out (s : State) (f : Slots → Slots) : (s.onSlots f).out = s.out := (rfl)
@[simp] theorem State.onSlots_draws (s : State) (f : Slots → Slots) : (s.onSlots f).draws = s.draws := (rfl)
@[simp] theorem State.onSlots_regs (s : State) (f : Slots → Slots) : (s.onSlots f).regs = s.regs := (rfl)
@[simp] theorem State.onSlots_rwm (s : State) (f : Slots → Slots) : (s.onSlots f).rwm = s.rwm := (rfl)
@[simp] theorem State.onSlots_hiLatch (s : State) (f : Slots → Slots) : (s.onSlots f).hiLatch = s.hiLatch := (rfl)
@[simp] theorem State.onSlots_lowWord (s : State) (f : Slots → Slots) : (s.onSlots f).lowWord = s.lowWord := (rfl)
@[simp] theorem State.onSlots_clock (s : State) (f : Slots → Slots) : (s.onSlots f).clock = s.clock := (rfl)
@[simp] theorem State.onSlots_cfg (s : State) (f : Slots → Slots) : (s.onSlots f).cfg = s.cfg := (rfl)
@[simp] theorem State.onSlots_flt (s : State) (f : Slots → Slots) : (s.onSlots f).flt = s.flt := (rfl)
@[simp] theorem State.onSlots_mcp (s : State) (f : Slots → Slots) : (s.onSlots f).mcp = s.mcp := (rfl)
@[simp] theorem State.onSlots_power (s : State) (f : Slots → Slots) : (s.onSlots f).power = s.power := (rfl)
@[simp] theorem State.onSlots_host (s : State) (f : Slots → Slots) : (s.onSlots f).host = s.host := (rfl)
@[simp] theorem State.onSlots_store (s : State) (f : Slots → Slots) : (s.onSlots f).store = s.store := (rfl)
@[simp] theorem State.onSlots_energy (s : State) (f : Slots → Slots) : (s.onSlots f).energy = s.energy := (rfl)
@[simp] theorem State.onSlots_link (s : State) (f : Slots → Slots) : (s.onSlots f).link = s.link := (rfl)
@[simp] theorem State.onSlots_rdma (s : State) (f : Slots → Slots) : (s.onSlots f).rdma = s.rdma := (rfl)
@[simp] theorem State.onSlots_mem (s : State) (f : Slots → Slots) : (s.onSlots f).mem = s.mem := (rfl)
@[simp] theorem State.onSlots_keys (s : State) (f : Slots → Slots) : (s.onSlots f).keys = s.keys := (rfl)
@[simp] theorem State.onSlots_ewq (s : State) (f : Slots → Slots) : (s.onSlots f).ewq = s.ewq := (rfl)
@[simp] theorem State.onSlots_wall (s : State) (f : Slots → Slots) : (s.onSlots f).wall = s.wall := (rfl)
@[simp] theorem State.onSlots_entry (s : State) (f : Slots → Slots) : (s.onSlots f).entry = s.entry := (rfl)
@[simp] theorem State.onSlots_admin (s : State) (f : Slots → Slots) : (s.onSlots f).admin = s.admin := (rfl)
@[simp] theorem State.onSlots_two (s : State) (f : Slots → Slots) : (s.onSlots f).two = s.two := (rfl)
@[simp] theorem State.onSlots_token (s : State) (f : Slots → Slots) : (s.onSlots f).token = s.token := (rfl)
@[simp] theorem State.onSlots_slots (s : State) (f : Slots → Slots) : (s.onSlots f).slots = f s.slots := (rfl)
@[simp] theorem State.onSlots_caches (s : State) (f : Slots → Slots) : (s.onSlots f).caches = s.caches := (rfl)
@[simp] theorem State.onSlots_direct (s : State) (f : Slots → Slots) : (s.onSlots f).direct = s.direct := (rfl)
@[simp] theorem State.onSlots_switch (s : State) (f : Slots → Slots) : (s.onSlots f).switch = s.switch := (rfl)
@[simp] theorem State.onSlots_gates (s : State) (f : Slots → Slots) : (s.onSlots f).gates = s.gates := (rfl)
@[simp] theorem State.onSlots_integrity (s : State) (f : Slots → Slots) : (s.onSlots f).integrity = s.integrity := (rfl)
@[simp] theorem State.onSlots_pmc (s : State) (f : Slots → Slots) : (s.onSlots f).pmc = s.pmc := (rfl)
@[simp] theorem State.onCaches_pending (s : State) (f : Caches → Caches) : (s.onCaches f).pending = s.pending := (rfl)
@[simp] theorem State.onCaches_out (s : State) (f : Caches → Caches) : (s.onCaches f).out = s.out := (rfl)
@[simp] theorem State.onCaches_draws (s : State) (f : Caches → Caches) : (s.onCaches f).draws = s.draws := (rfl)
@[simp] theorem State.onCaches_regs (s : State) (f : Caches → Caches) : (s.onCaches f).regs = s.regs := (rfl)
@[simp] theorem State.onCaches_rwm (s : State) (f : Caches → Caches) : (s.onCaches f).rwm = s.rwm := (rfl)
@[simp] theorem State.onCaches_hiLatch (s : State) (f : Caches → Caches) : (s.onCaches f).hiLatch = s.hiLatch := (rfl)
@[simp] theorem State.onCaches_lowWord (s : State) (f : Caches → Caches) : (s.onCaches f).lowWord = s.lowWord := (rfl)
@[simp] theorem State.onCaches_clock (s : State) (f : Caches → Caches) : (s.onCaches f).clock = s.clock := (rfl)
@[simp] theorem State.onCaches_cfg (s : State) (f : Caches → Caches) : (s.onCaches f).cfg = s.cfg := (rfl)
@[simp] theorem State.onCaches_flt (s : State) (f : Caches → Caches) : (s.onCaches f).flt = s.flt := (rfl)
@[simp] theorem State.onCaches_mcp (s : State) (f : Caches → Caches) : (s.onCaches f).mcp = s.mcp := (rfl)
@[simp] theorem State.onCaches_power (s : State) (f : Caches → Caches) : (s.onCaches f).power = s.power := (rfl)
@[simp] theorem State.onCaches_host (s : State) (f : Caches → Caches) : (s.onCaches f).host = s.host := (rfl)
@[simp] theorem State.onCaches_store (s : State) (f : Caches → Caches) : (s.onCaches f).store = s.store := (rfl)
@[simp] theorem State.onCaches_energy (s : State) (f : Caches → Caches) : (s.onCaches f).energy = s.energy := (rfl)
@[simp] theorem State.onCaches_link (s : State) (f : Caches → Caches) : (s.onCaches f).link = s.link := (rfl)
@[simp] theorem State.onCaches_rdma (s : State) (f : Caches → Caches) : (s.onCaches f).rdma = s.rdma := (rfl)
@[simp] theorem State.onCaches_mem (s : State) (f : Caches → Caches) : (s.onCaches f).mem = s.mem := (rfl)
@[simp] theorem State.onCaches_keys (s : State) (f : Caches → Caches) : (s.onCaches f).keys = s.keys := (rfl)
@[simp] theorem State.onCaches_ewq (s : State) (f : Caches → Caches) : (s.onCaches f).ewq = s.ewq := (rfl)
@[simp] theorem State.onCaches_wall (s : State) (f : Caches → Caches) : (s.onCaches f).wall = s.wall := (rfl)
@[simp] theorem State.onCaches_entry (s : State) (f : Caches → Caches) : (s.onCaches f).entry = s.entry := (rfl)
@[simp] theorem State.onCaches_admin (s : State) (f : Caches → Caches) : (s.onCaches f).admin = s.admin := (rfl)
@[simp] theorem State.onCaches_two (s : State) (f : Caches → Caches) : (s.onCaches f).two = s.two := (rfl)
@[simp] theorem State.onCaches_token (s : State) (f : Caches → Caches) : (s.onCaches f).token = s.token := (rfl)
@[simp] theorem State.onCaches_slots (s : State) (f : Caches → Caches) : (s.onCaches f).slots = s.slots := (rfl)
@[simp] theorem State.onCaches_caches (s : State) (f : Caches → Caches) : (s.onCaches f).caches = f s.caches := (rfl)
@[simp] theorem State.onCaches_direct (s : State) (f : Caches → Caches) : (s.onCaches f).direct = s.direct := (rfl)
@[simp] theorem State.onCaches_switch (s : State) (f : Caches → Caches) : (s.onCaches f).switch = s.switch := (rfl)
@[simp] theorem State.onCaches_gates (s : State) (f : Caches → Caches) : (s.onCaches f).gates = s.gates := (rfl)
@[simp] theorem State.onCaches_integrity (s : State) (f : Caches → Caches) : (s.onCaches f).integrity = s.integrity := (rfl)
@[simp] theorem State.onCaches_pmc (s : State) (f : Caches → Caches) : (s.onCaches f).pmc = s.pmc := (rfl)
@[simp] theorem State.onDirect_pending (s : State) (f : Direct → Direct) : (s.onDirect f).pending = s.pending := (rfl)
@[simp] theorem State.onDirect_out (s : State) (f : Direct → Direct) : (s.onDirect f).out = s.out := (rfl)
@[simp] theorem State.onDirect_draws (s : State) (f : Direct → Direct) : (s.onDirect f).draws = s.draws := (rfl)
@[simp] theorem State.onDirect_regs (s : State) (f : Direct → Direct) : (s.onDirect f).regs = s.regs := (rfl)
@[simp] theorem State.onDirect_rwm (s : State) (f : Direct → Direct) : (s.onDirect f).rwm = s.rwm := (rfl)
@[simp] theorem State.onDirect_hiLatch (s : State) (f : Direct → Direct) : (s.onDirect f).hiLatch = s.hiLatch := (rfl)
@[simp] theorem State.onDirect_lowWord (s : State) (f : Direct → Direct) : (s.onDirect f).lowWord = s.lowWord := (rfl)
@[simp] theorem State.onDirect_clock (s : State) (f : Direct → Direct) : (s.onDirect f).clock = s.clock := (rfl)
@[simp] theorem State.onDirect_cfg (s : State) (f : Direct → Direct) : (s.onDirect f).cfg = s.cfg := (rfl)
@[simp] theorem State.onDirect_flt (s : State) (f : Direct → Direct) : (s.onDirect f).flt = s.flt := (rfl)
@[simp] theorem State.onDirect_mcp (s : State) (f : Direct → Direct) : (s.onDirect f).mcp = s.mcp := (rfl)
@[simp] theorem State.onDirect_power (s : State) (f : Direct → Direct) : (s.onDirect f).power = s.power := (rfl)
@[simp] theorem State.onDirect_host (s : State) (f : Direct → Direct) : (s.onDirect f).host = s.host := (rfl)
@[simp] theorem State.onDirect_store (s : State) (f : Direct → Direct) : (s.onDirect f).store = s.store := (rfl)
@[simp] theorem State.onDirect_energy (s : State) (f : Direct → Direct) : (s.onDirect f).energy = s.energy := (rfl)
@[simp] theorem State.onDirect_link (s : State) (f : Direct → Direct) : (s.onDirect f).link = s.link := (rfl)
@[simp] theorem State.onDirect_rdma (s : State) (f : Direct → Direct) : (s.onDirect f).rdma = s.rdma := (rfl)
@[simp] theorem State.onDirect_mem (s : State) (f : Direct → Direct) : (s.onDirect f).mem = s.mem := (rfl)
@[simp] theorem State.onDirect_keys (s : State) (f : Direct → Direct) : (s.onDirect f).keys = s.keys := (rfl)
@[simp] theorem State.onDirect_ewq (s : State) (f : Direct → Direct) : (s.onDirect f).ewq = s.ewq := (rfl)
@[simp] theorem State.onDirect_wall (s : State) (f : Direct → Direct) : (s.onDirect f).wall = s.wall := (rfl)
@[simp] theorem State.onDirect_entry (s : State) (f : Direct → Direct) : (s.onDirect f).entry = s.entry := (rfl)
@[simp] theorem State.onDirect_admin (s : State) (f : Direct → Direct) : (s.onDirect f).admin = s.admin := (rfl)
@[simp] theorem State.onDirect_two (s : State) (f : Direct → Direct) : (s.onDirect f).two = s.two := (rfl)
@[simp] theorem State.onDirect_token (s : State) (f : Direct → Direct) : (s.onDirect f).token = s.token := (rfl)
@[simp] theorem State.onDirect_slots (s : State) (f : Direct → Direct) : (s.onDirect f).slots = s.slots := (rfl)
@[simp] theorem State.onDirect_caches (s : State) (f : Direct → Direct) : (s.onDirect f).caches = s.caches := (rfl)
@[simp] theorem State.onDirect_direct (s : State) (f : Direct → Direct) : (s.onDirect f).direct = f s.direct := (rfl)
@[simp] theorem State.onDirect_switch (s : State) (f : Direct → Direct) : (s.onDirect f).switch = s.switch := (rfl)
@[simp] theorem State.onDirect_gates (s : State) (f : Direct → Direct) : (s.onDirect f).gates = s.gates := (rfl)
@[simp] theorem State.onDirect_integrity (s : State) (f : Direct → Direct) : (s.onDirect f).integrity = s.integrity := (rfl)
@[simp] theorem State.onDirect_pmc (s : State) (f : Direct → Direct) : (s.onDirect f).pmc = s.pmc := (rfl)
@[simp] theorem State.onSwitch_pending (s : State) (f : Switch → Switch) : (s.onSwitch f).pending = s.pending := (rfl)
@[simp] theorem State.onSwitch_out (s : State) (f : Switch → Switch) : (s.onSwitch f).out = s.out := (rfl)
@[simp] theorem State.onSwitch_draws (s : State) (f : Switch → Switch) : (s.onSwitch f).draws = s.draws := (rfl)
@[simp] theorem State.onSwitch_regs (s : State) (f : Switch → Switch) : (s.onSwitch f).regs = s.regs := (rfl)
@[simp] theorem State.onSwitch_rwm (s : State) (f : Switch → Switch) : (s.onSwitch f).rwm = s.rwm := (rfl)
@[simp] theorem State.onSwitch_hiLatch (s : State) (f : Switch → Switch) : (s.onSwitch f).hiLatch = s.hiLatch := (rfl)
@[simp] theorem State.onSwitch_lowWord (s : State) (f : Switch → Switch) : (s.onSwitch f).lowWord = s.lowWord := (rfl)
@[simp] theorem State.onSwitch_clock (s : State) (f : Switch → Switch) : (s.onSwitch f).clock = s.clock := (rfl)
@[simp] theorem State.onSwitch_cfg (s : State) (f : Switch → Switch) : (s.onSwitch f).cfg = s.cfg := (rfl)
@[simp] theorem State.onSwitch_flt (s : State) (f : Switch → Switch) : (s.onSwitch f).flt = s.flt := (rfl)
@[simp] theorem State.onSwitch_mcp (s : State) (f : Switch → Switch) : (s.onSwitch f).mcp = s.mcp := (rfl)
@[simp] theorem State.onSwitch_power (s : State) (f : Switch → Switch) : (s.onSwitch f).power = s.power := (rfl)
@[simp] theorem State.onSwitch_host (s : State) (f : Switch → Switch) : (s.onSwitch f).host = s.host := (rfl)
@[simp] theorem State.onSwitch_store (s : State) (f : Switch → Switch) : (s.onSwitch f).store = s.store := (rfl)
@[simp] theorem State.onSwitch_energy (s : State) (f : Switch → Switch) : (s.onSwitch f).energy = s.energy := (rfl)
@[simp] theorem State.onSwitch_link (s : State) (f : Switch → Switch) : (s.onSwitch f).link = s.link := (rfl)
@[simp] theorem State.onSwitch_rdma (s : State) (f : Switch → Switch) : (s.onSwitch f).rdma = s.rdma := (rfl)
@[simp] theorem State.onSwitch_mem (s : State) (f : Switch → Switch) : (s.onSwitch f).mem = s.mem := (rfl)
@[simp] theorem State.onSwitch_keys (s : State) (f : Switch → Switch) : (s.onSwitch f).keys = s.keys := (rfl)
@[simp] theorem State.onSwitch_ewq (s : State) (f : Switch → Switch) : (s.onSwitch f).ewq = s.ewq := (rfl)
@[simp] theorem State.onSwitch_wall (s : State) (f : Switch → Switch) : (s.onSwitch f).wall = s.wall := (rfl)
@[simp] theorem State.onSwitch_entry (s : State) (f : Switch → Switch) : (s.onSwitch f).entry = s.entry := (rfl)
@[simp] theorem State.onSwitch_admin (s : State) (f : Switch → Switch) : (s.onSwitch f).admin = s.admin := (rfl)
@[simp] theorem State.onSwitch_two (s : State) (f : Switch → Switch) : (s.onSwitch f).two = s.two := (rfl)
@[simp] theorem State.onSwitch_token (s : State) (f : Switch → Switch) : (s.onSwitch f).token = s.token := (rfl)
@[simp] theorem State.onSwitch_slots (s : State) (f : Switch → Switch) : (s.onSwitch f).slots = s.slots := (rfl)
@[simp] theorem State.onSwitch_caches (s : State) (f : Switch → Switch) : (s.onSwitch f).caches = s.caches := (rfl)
@[simp] theorem State.onSwitch_direct (s : State) (f : Switch → Switch) : (s.onSwitch f).direct = s.direct := (rfl)
@[simp] theorem State.onSwitch_switch (s : State) (f : Switch → Switch) : (s.onSwitch f).switch = f s.switch := (rfl)
@[simp] theorem State.onSwitch_gates (s : State) (f : Switch → Switch) : (s.onSwitch f).gates = s.gates := (rfl)
@[simp] theorem State.onSwitch_integrity (s : State) (f : Switch → Switch) : (s.onSwitch f).integrity = s.integrity := (rfl)
@[simp] theorem State.onSwitch_pmc (s : State) (f : Switch → Switch) : (s.onSwitch f).pmc = s.pmc := (rfl)
@[simp] theorem State.onGates_pending (s : State) (f : Gates → Gates) : (s.onGates f).pending = s.pending := (rfl)
@[simp] theorem State.onGates_out (s : State) (f : Gates → Gates) : (s.onGates f).out = s.out := (rfl)
@[simp] theorem State.onGates_draws (s : State) (f : Gates → Gates) : (s.onGates f).draws = s.draws := (rfl)
@[simp] theorem State.onGates_regs (s : State) (f : Gates → Gates) : (s.onGates f).regs = s.regs := (rfl)
@[simp] theorem State.onGates_rwm (s : State) (f : Gates → Gates) : (s.onGates f).rwm = s.rwm := (rfl)
@[simp] theorem State.onGates_hiLatch (s : State) (f : Gates → Gates) : (s.onGates f).hiLatch = s.hiLatch := (rfl)
@[simp] theorem State.onGates_lowWord (s : State) (f : Gates → Gates) : (s.onGates f).lowWord = s.lowWord := (rfl)
@[simp] theorem State.onGates_clock (s : State) (f : Gates → Gates) : (s.onGates f).clock = s.clock := (rfl)
@[simp] theorem State.onGates_cfg (s : State) (f : Gates → Gates) : (s.onGates f).cfg = s.cfg := (rfl)
@[simp] theorem State.onGates_flt (s : State) (f : Gates → Gates) : (s.onGates f).flt = s.flt := (rfl)
@[simp] theorem State.onGates_mcp (s : State) (f : Gates → Gates) : (s.onGates f).mcp = s.mcp := (rfl)
@[simp] theorem State.onGates_power (s : State) (f : Gates → Gates) : (s.onGates f).power = s.power := (rfl)
@[simp] theorem State.onGates_host (s : State) (f : Gates → Gates) : (s.onGates f).host = s.host := (rfl)
@[simp] theorem State.onGates_store (s : State) (f : Gates → Gates) : (s.onGates f).store = s.store := (rfl)
@[simp] theorem State.onGates_energy (s : State) (f : Gates → Gates) : (s.onGates f).energy = s.energy := (rfl)
@[simp] theorem State.onGates_link (s : State) (f : Gates → Gates) : (s.onGates f).link = s.link := (rfl)
@[simp] theorem State.onGates_rdma (s : State) (f : Gates → Gates) : (s.onGates f).rdma = s.rdma := (rfl)
@[simp] theorem State.onGates_mem (s : State) (f : Gates → Gates) : (s.onGates f).mem = s.mem := (rfl)
@[simp] theorem State.onGates_keys (s : State) (f : Gates → Gates) : (s.onGates f).keys = s.keys := (rfl)
@[simp] theorem State.onGates_ewq (s : State) (f : Gates → Gates) : (s.onGates f).ewq = s.ewq := (rfl)
@[simp] theorem State.onGates_wall (s : State) (f : Gates → Gates) : (s.onGates f).wall = s.wall := (rfl)
@[simp] theorem State.onGates_entry (s : State) (f : Gates → Gates) : (s.onGates f).entry = s.entry := (rfl)
@[simp] theorem State.onGates_admin (s : State) (f : Gates → Gates) : (s.onGates f).admin = s.admin := (rfl)
@[simp] theorem State.onGates_two (s : State) (f : Gates → Gates) : (s.onGates f).two = s.two := (rfl)
@[simp] theorem State.onGates_token (s : State) (f : Gates → Gates) : (s.onGates f).token = s.token := (rfl)
@[simp] theorem State.onGates_slots (s : State) (f : Gates → Gates) : (s.onGates f).slots = s.slots := (rfl)
@[simp] theorem State.onGates_caches (s : State) (f : Gates → Gates) : (s.onGates f).caches = s.caches := (rfl)
@[simp] theorem State.onGates_direct (s : State) (f : Gates → Gates) : (s.onGates f).direct = s.direct := (rfl)
@[simp] theorem State.onGates_switch (s : State) (f : Gates → Gates) : (s.onGates f).switch = s.switch := (rfl)
@[simp] theorem State.onGates_gates (s : State) (f : Gates → Gates) : (s.onGates f).gates = f s.gates := (rfl)
@[simp] theorem State.onGates_integrity (s : State) (f : Gates → Gates) : (s.onGates f).integrity = s.integrity := (rfl)
@[simp] theorem State.onGates_pmc (s : State) (f : Gates → Gates) : (s.onGates f).pmc = s.pmc := (rfl)
@[simp] theorem State.onIntegrity_pending (s : State) (f : Integrity → Integrity) : (s.onIntegrity f).pending = s.pending := (rfl)
@[simp] theorem State.onIntegrity_out (s : State) (f : Integrity → Integrity) : (s.onIntegrity f).out = s.out := (rfl)
@[simp] theorem State.onIntegrity_draws (s : State) (f : Integrity → Integrity) : (s.onIntegrity f).draws = s.draws := (rfl)
@[simp] theorem State.onIntegrity_regs (s : State) (f : Integrity → Integrity) : (s.onIntegrity f).regs = s.regs := (rfl)
@[simp] theorem State.onIntegrity_rwm (s : State) (f : Integrity → Integrity) : (s.onIntegrity f).rwm = s.rwm := (rfl)
@[simp] theorem State.onIntegrity_hiLatch (s : State) (f : Integrity → Integrity) : (s.onIntegrity f).hiLatch = s.hiLatch := (rfl)
@[simp] theorem State.onIntegrity_lowWord (s : State) (f : Integrity → Integrity) : (s.onIntegrity f).lowWord = s.lowWord := (rfl)
@[simp] theorem State.onIntegrity_clock (s : State) (f : Integrity → Integrity) : (s.onIntegrity f).clock = s.clock := (rfl)
@[simp] theorem State.onIntegrity_cfg (s : State) (f : Integrity → Integrity) : (s.onIntegrity f).cfg = s.cfg := (rfl)
@[simp] theorem State.onIntegrity_flt (s : State) (f : Integrity → Integrity) : (s.onIntegrity f).flt = s.flt := (rfl)
@[simp] theorem State.onIntegrity_mcp (s : State) (f : Integrity → Integrity) : (s.onIntegrity f).mcp = s.mcp := (rfl)
@[simp] theorem State.onIntegrity_power (s : State) (f : Integrity → Integrity) : (s.onIntegrity f).power = s.power := (rfl)
@[simp] theorem State.onIntegrity_host (s : State) (f : Integrity → Integrity) : (s.onIntegrity f).host = s.host := (rfl)
@[simp] theorem State.onIntegrity_store (s : State) (f : Integrity → Integrity) : (s.onIntegrity f).store = s.store := (rfl)
@[simp] theorem State.onIntegrity_energy (s : State) (f : Integrity → Integrity) : (s.onIntegrity f).energy = s.energy := (rfl)
@[simp] theorem State.onIntegrity_link (s : State) (f : Integrity → Integrity) : (s.onIntegrity f).link = s.link := (rfl)
@[simp] theorem State.onIntegrity_rdma (s : State) (f : Integrity → Integrity) : (s.onIntegrity f).rdma = s.rdma := (rfl)
@[simp] theorem State.onIntegrity_mem (s : State) (f : Integrity → Integrity) : (s.onIntegrity f).mem = s.mem := (rfl)
@[simp] theorem State.onIntegrity_keys (s : State) (f : Integrity → Integrity) : (s.onIntegrity f).keys = s.keys := (rfl)
@[simp] theorem State.onIntegrity_ewq (s : State) (f : Integrity → Integrity) : (s.onIntegrity f).ewq = s.ewq := (rfl)
@[simp] theorem State.onIntegrity_wall (s : State) (f : Integrity → Integrity) : (s.onIntegrity f).wall = s.wall := (rfl)
@[simp] theorem State.onIntegrity_entry (s : State) (f : Integrity → Integrity) : (s.onIntegrity f).entry = s.entry := (rfl)
@[simp] theorem State.onIntegrity_admin (s : State) (f : Integrity → Integrity) : (s.onIntegrity f).admin = s.admin := (rfl)
@[simp] theorem State.onIntegrity_two (s : State) (f : Integrity → Integrity) : (s.onIntegrity f).two = s.two := (rfl)
@[simp] theorem State.onIntegrity_token (s : State) (f : Integrity → Integrity) : (s.onIntegrity f).token = s.token := (rfl)
@[simp] theorem State.onIntegrity_slots (s : State) (f : Integrity → Integrity) : (s.onIntegrity f).slots = s.slots := (rfl)
@[simp] theorem State.onIntegrity_caches (s : State) (f : Integrity → Integrity) : (s.onIntegrity f).caches = s.caches := (rfl)
@[simp] theorem State.onIntegrity_direct (s : State) (f : Integrity → Integrity) : (s.onIntegrity f).direct = s.direct := (rfl)
@[simp] theorem State.onIntegrity_switch (s : State) (f : Integrity → Integrity) : (s.onIntegrity f).switch = s.switch := (rfl)
@[simp] theorem State.onIntegrity_gates (s : State) (f : Integrity → Integrity) : (s.onIntegrity f).gates = s.gates := (rfl)
@[simp] theorem State.onIntegrity_integrity (s : State) (f : Integrity → Integrity) : (s.onIntegrity f).integrity = f s.integrity := (rfl)
@[simp] theorem State.onIntegrity_pmc (s : State) (f : Integrity → Integrity) : (s.onIntegrity f).pmc = s.pmc := (rfl)
@[simp] theorem State.onPmc_pending (s : State) (f : Pmc → Pmc) : (s.onPmc f).pending = s.pending := (rfl)
@[simp] theorem State.onPmc_out (s : State) (f : Pmc → Pmc) : (s.onPmc f).out = s.out := (rfl)
@[simp] theorem State.onPmc_draws (s : State) (f : Pmc → Pmc) : (s.onPmc f).draws = s.draws := (rfl)
@[simp] theorem State.onPmc_regs (s : State) (f : Pmc → Pmc) : (s.onPmc f).regs = s.regs := (rfl)
@[simp] theorem State.onPmc_rwm (s : State) (f : Pmc → Pmc) : (s.onPmc f).rwm = s.rwm := (rfl)
@[simp] theorem State.onPmc_hiLatch (s : State) (f : Pmc → Pmc) : (s.onPmc f).hiLatch = s.hiLatch := (rfl)
@[simp] theorem State.onPmc_lowWord (s : State) (f : Pmc → Pmc) : (s.onPmc f).lowWord = s.lowWord := (rfl)
@[simp] theorem State.onPmc_clock (s : State) (f : Pmc → Pmc) : (s.onPmc f).clock = s.clock := (rfl)
@[simp] theorem State.onPmc_cfg (s : State) (f : Pmc → Pmc) : (s.onPmc f).cfg = s.cfg := (rfl)
@[simp] theorem State.onPmc_flt (s : State) (f : Pmc → Pmc) : (s.onPmc f).flt = s.flt := (rfl)
@[simp] theorem State.onPmc_mcp (s : State) (f : Pmc → Pmc) : (s.onPmc f).mcp = s.mcp := (rfl)
@[simp] theorem State.onPmc_power (s : State) (f : Pmc → Pmc) : (s.onPmc f).power = s.power := (rfl)
@[simp] theorem State.onPmc_host (s : State) (f : Pmc → Pmc) : (s.onPmc f).host = s.host := (rfl)
@[simp] theorem State.onPmc_store (s : State) (f : Pmc → Pmc) : (s.onPmc f).store = s.store := (rfl)
@[simp] theorem State.onPmc_energy (s : State) (f : Pmc → Pmc) : (s.onPmc f).energy = s.energy := (rfl)
@[simp] theorem State.onPmc_link (s : State) (f : Pmc → Pmc) : (s.onPmc f).link = s.link := (rfl)
@[simp] theorem State.onPmc_rdma (s : State) (f : Pmc → Pmc) : (s.onPmc f).rdma = s.rdma := (rfl)
@[simp] theorem State.onPmc_mem (s : State) (f : Pmc → Pmc) : (s.onPmc f).mem = s.mem := (rfl)
@[simp] theorem State.onPmc_keys (s : State) (f : Pmc → Pmc) : (s.onPmc f).keys = s.keys := (rfl)
@[simp] theorem State.onPmc_ewq (s : State) (f : Pmc → Pmc) : (s.onPmc f).ewq = s.ewq := (rfl)
@[simp] theorem State.onPmc_wall (s : State) (f : Pmc → Pmc) : (s.onPmc f).wall = s.wall := (rfl)
@[simp] theorem State.onPmc_entry (s : State) (f : Pmc → Pmc) : (s.onPmc f).entry = s.entry := (rfl)
@[simp] theorem State.onPmc_admin (s : State) (f : Pmc → Pmc) : (s.onPmc f).admin = s.admin := (rfl)
@[simp] theorem State.onPmc_two (s : State) (f : Pmc → Pmc) : (s.onPmc f).two = s.two := (rfl)
@[simp] theorem State.onPmc_token (s : State) (f : Pmc → Pmc) : (s.onPmc f).token = s.token := (rfl)
@[simp] theorem State.onPmc_slots (s : State) (f : Pmc → Pmc) : (s.onPmc f).slots = s.slots := (rfl)
@[simp] theorem State.onPmc_caches (s : State) (f : Pmc → Pmc) : (s.onPmc f).caches = s.caches := (rfl)
@[simp] theorem State.onPmc_direct (s : State) (f : Pmc → Pmc) : (s.onPmc f).direct = s.direct := (rfl)
@[simp] theorem State.onPmc_switch (s : State) (f : Pmc → Pmc) : (s.onPmc f).switch = s.switch := (rfl)
@[simp] theorem State.onPmc_gates (s : State) (f : Pmc → Pmc) : (s.onPmc f).gates = s.gates := (rfl)
@[simp] theorem State.onPmc_integrity (s : State) (f : Pmc → Pmc) : (s.onPmc f).integrity = s.integrity := (rfl)
@[simp] theorem State.onPmc_pmc (s : State) (f : Pmc → Pmc) : (s.onPmc f).pmc = f s.pmc := (rfl)

end Sys2Proof.Machine
end

