-- ==== Sys2Proof/Laws/Fields.lean ====
section
/-! SUPPORT. Reading a register field after a write: the field written holds the value, every other field keeps its own. -/

set_option Elab.async false

namespace Sys2Proof.Machine

theorem depositBits_testBit (w hi lo v i : Nat) (h : lo ≤ hi + 1) :
    (depositBits w hi lo v).testBit i = if i < lo then w.testBit i else if i ≤ hi then v.testBit (i - lo) else w.testBit i := by
  have e : depositBits w hi lo v = 2 ^ lo * (2 ^ (hi + 1 - lo) * (w / 2 ^ (hi + 1)) + v % 2 ^ (hi + 1 - lo)) + w % 2 ^ lo := by
    have : (2 : Nat) ^ (hi + 1) = 2 ^ lo * 2 ^ (hi + 1 - lo) := by rw [← Nat.pow_add]; congr 1; omega
    unfold depositBits
    generalize w / 2 ^ (hi + 1) = q
    rw [this, Nat.mul_add, Nat.mul_comm q, Nat.mul_comm (v % _), Nat.mul_assoc]
  rw [e, Nat.testBit_two_pow_mul_add _ (Nat.mod_lt _ (Nat.two_pow_pos lo))]
  by_cases a : i < lo
  · simp [a, Nat.testBit_mod_two_pow]
  · rw [if_neg a, if_neg a, Nat.testBit_two_pow_mul_add _ (Nat.mod_lt _ (Nat.two_pow_pos _)), Nat.testBit_mod_two_pow]
    by_cases b : i ≤ hi
    · have : i - lo < hi + 1 - lo := by omega
      simp [b, this]
    · have c : ¬ i - lo < hi + 1 - lo := by omega
      have d : hi + 1 + (i - lo - (hi + 1 - lo)) = i := by omega
      rw [if_neg c, if_neg b, ← Nat.shiftRight_eq_div_pow, Nat.testBit_shiftRight, d]

theorem extractBits_testBit (w hi lo i : Nat) : (extractBits w hi lo).testBit i = (decide (i < hi + 1 - lo) && w.testBit (lo + i)) := by
  rw [extractBits, Nat.testBit_mod_two_pow, ← Nat.shiftRight_eq_div_pow, Nat.testBit_shiftRight]

theorem depositBits_lt {w hi lo v : Nat} (h : lo ≤ hi + 1) (b : hi < 64) (c : w < 2 ^ 64) : depositBits w hi lo v < 2 ^ 64 := by
  refine Nat.lt_pow_two_of_testBit _ fun i m => ?_
  rw [depositBits_testBit _ _ _ _ _ h]
  have : w.testBit i = false := Nat.testBit_lt_two_pow (Nat.lt_of_lt_of_le c (Nat.pow_le_pow_right (by omega) m))
  split
  · exact this
  · split
    · omega
    · exact this

theorem extractBits_depositBits_self {w hi lo v : Nat} (h : lo ≤ hi + 1) :
    extractBits (depositBits w hi lo v) hi lo = v % 2 ^ (hi + 1 - lo) := by
  refine Nat.eq_of_testBit_eq fun i => ?_
  rw [extractBits_testBit, depositBits_testBit _ _ _ _ _ h, Nat.testBit_mod_two_pow]
  by_cases a : i < hi + 1 - lo
  · have b : ¬ lo + i < lo := by omega
    have c : lo + i ≤ hi := by omega
    simp [a, b, c]
  · simp [a]

theorem extractBits_depositBits_ne {w hi lo v hi' lo' : Nat} (h : lo ≤ hi + 1) (d : hi' < lo ∨ hi < lo') :
    extractBits (depositBits w hi lo v) hi' lo' = extractBits w hi' lo' := by
  refine Nat.eq_of_testBit_eq fun i => ?_
  rw [extractBits_testBit, extractBits_testBit, depositBits_testBit _ _ _ _ _ h]
  by_cases a : i < hi' + 1 - lo'
  · rcases d with d | d
    · have : lo' + i < lo := by omega
      simp [this]
    · have b : ¬ lo' + i < lo := by omega
      have c : ¬ lo' + i ≤ hi := by omega
      simp [b, c]
  · simp [a]

/-- A field inside one register (or pair): its bits in order, within 64. -/
abbrev Fld.inWord (f : Fld) : Prop := f.lo ≤ f.hi ∧ f.hi < 64

theorem State.reg_wr_ne {s : State} {f : Fld} {v a : Nat} (h : a ≠ f.addr) : (s.wr f v).reg a = s.reg a :=
  RegFile.get_set_ne h _ _

/-- A field reads as what was written to it, cut to its width. -/
theorem State.rd_wr_self {s : State} {f : Fld} {v : Nat} (h : f.inWord) : (s.wr f v).rd f = v % 2 ^ (f.hi + 1 - f.lo) := by
  have a : f.lo ≤ f.hi + 1 := by have := h.1; omega
  show extractBits ((RegFile.get f.addr (RegFile.set f.addr _ s.regs)).toNat) f.hi f.lo = _
  rw [RegFile.get_set_self, BitVec.toNat_ofNat, Nat.mod_eq_of_lt (depositBits_lt a h.2 (BitVec.isLt _)), extractBits_depositBits_self a]

/-- A write of one register's field leaves the fields of every other register. -/
theorem State.rd_wr_addr {s : State} {f g : Fld} {v : Nat} (h : g.addr ≠ f.addr) : (s.wr f v).rd g = s.rd g := by
  show extractBits ((s.wr f v).reg g.addr).toNat g.hi g.lo = _
  rw [State.reg_wr_ne h]
  rfl

/-- A write of one field leaves the fields that share no bit with it. -/
theorem State.rd_wr_bits {s : State} {f g : Fld} {v : Nat} (h : f.inWord) (d : g.hi < f.lo ∨ f.hi < g.lo) :
    (s.wr f v).rd g = s.rd g := by
  by_cases e : g.addr = f.addr
  · have a : f.lo ≤ f.hi + 1 := by have := h.1; omega
    show extractBits ((RegFile.get g.addr (RegFile.set f.addr _ s.regs)).toNat) g.hi g.lo = extractBits ((RegFile.get g.addr s.regs).toNat) g.hi g.lo
    rw [e, RegFile.get_set_self, BitVec.toNat_ofNat, Nat.mod_eq_of_lt (depositBits_lt a h.2 (BitVec.isLt _)), extractBits_depositBits_ne a d]
    rfl
  · exact State.rd_wr_addr e

/-- A register reads as what was stored in it. -/
@[simp] theorem State.reg_setReg_self (s : State) (a : Nat) (v : DWord) : (s.setReg a v).reg a = v := RegFile.get_set_self a v s.regs

/-- Storing one register leaves every other. -/
theorem State.reg_setReg_ne {s : State} {a b : Nat} (h : a ≠ b) (v : DWord) : (s.setReg b v).reg a = s.reg a := RegFile.get_set_ne h v s.regs

/-- A counter goes up by `n`, modulo 2^64. -/
@[simp] theorem State.reg_count_self (s : State) (a n : Nat) : (s.count a n).reg a = s.reg a + BitVec.ofNat 64 n :=
  RegFile.get_set_self a _ s.regs

/-! Beside the register file a register write changes nothing. -/

theorem State.setReg_with (s : State) (a : Nat) (v : DWord) (r : List RegCell) (o : List Output) :
    { s.setReg a v with regs := r, out := o } = { s with regs := r, out := o } := rfl
theorem State.wr_with (s : State) (f : Fld) (v : Nat) (r : List RegCell) (o : List Output) :
    { s.wr f v with regs := r, out := o } = { s with regs := r, out := o } := rfl
theorem State.count_with (s : State) (a n : Nat) (r : List RegCell) (o : List Output) :
    { s.count a n with regs := r, out := o } = { s with regs := r, out := o } := rfl

/-! A register does not depend on the rest of the state, nor the rest on a register write. -/

@[simp] theorem State.reg_onPending (s : State) (f : List Instr → List Instr) (a : Nat) : (s.onPending f).reg a = s.reg a := (rfl)
@[simp] theorem State.rd_onPending (s : State) (f : List Instr → List Instr) (g : Fld) : (s.onPending f).rd g = s.rd g := (rfl)
@[simp] theorem State.reg_onOut (s : State) (f : List Output → List Output) (a : Nat) : (s.onOut f).reg a = s.reg a := (rfl)
@[simp] theorem State.rd_onOut (s : State) (f : List Output → List Output) (g : Fld) : (s.onOut f).rd g = s.rd g := (rfl)
@[simp] theorem State.reg_onDraws (s : State) (f : Nat → Nat) (a : Nat) : (s.onDraws f).reg a = s.reg a := (rfl)
@[simp] theorem State.rd_onDraws (s : State) (f : Nat → Nat) (g : Fld) : (s.onDraws f).rd g = s.rd g := (rfl)
@[simp] theorem State.reg_onRwm (s : State) (f : List RwmWrite → List RwmWrite) (a : Nat) : (s.onRwm f).reg a = s.reg a := (rfl)
@[simp] theorem State.rd_onRwm (s : State) (f : List RwmWrite → List RwmWrite) (g : Fld) : (s.onRwm f).rd g = s.rd g := (rfl)
@[simp] theorem State.reg_onHiLatch (s : State) (f : List PairWord → List PairWord) (a : Nat) : (s.onHiLatch f).reg a = s.reg a := (rfl)
@[simp] theorem State.rd_onHiLatch (s : State) (f : List PairWord → List PairWord) (g : Fld) : (s.onHiLatch f).rd g = s.rd g := (rfl)
@[simp] theorem State.reg_onLowWord (s : State) (f : List PairWord → List PairWord) (a : Nat) : (s.onLowWord f).reg a = s.reg a := (rfl)
@[simp] theorem State.rd_onLowWord (s : State) (f : List PairWord → List PairWord) (g : Fld) : (s.onLowWord f).rd g = s.rd g := (rfl)
@[simp] theorem State.reg_onClock (s : State) (f : Clock → Clock) (a : Nat) : (s.onClock f).reg a = s.reg a := (rfl)
@[simp] theorem State.rd_onClock (s : State) (f : Clock → Clock) (g : Fld) : (s.onClock f).rd g = s.rd g := (rfl)
@[simp] theorem State.reg_onCfg (s : State) (f : StoredConfig → StoredConfig) (a : Nat) : (s.onCfg f).reg a = s.reg a := (rfl)
@[simp] theorem State.rd_onCfg (s : State) (f : StoredConfig → StoredConfig) (g : Fld) : (s.onCfg f).rd g = s.rd g := (rfl)
@[simp] theorem State.reg_onFlt (s : State) (f : Faults → Faults) (a : Nat) : (s.onFlt f).reg a = s.reg a := (rfl)
@[simp] theorem State.rd_onFlt (s : State) (f : Faults → Faults) (g : Fld) : (s.onFlt f).rd g = s.rd g := (rfl)
@[simp] theorem State.reg_onMcp (s : State) (f : Mcp → Mcp) (a : Nat) : (s.onMcp f).reg a = s.reg a := (rfl)
@[simp] theorem State.rd_onMcp (s : State) (f : Mcp → Mcp) (g : Fld) : (s.onMcp f).rd g = s.rd g := (rfl)
@[simp] theorem State.reg_onPower (s : State) (f : Power → Power) (a : Nat) : (s.onPower f).reg a = s.reg a := (rfl)
@[simp] theorem State.rd_onPower (s : State) (f : Power → Power) (g : Fld) : (s.onPower f).rd g = s.rd g := (rfl)
@[simp] theorem State.reg_onHost (s : State) (f : Hosts → Hosts) (a : Nat) : (s.onHost f).reg a = s.reg a := (rfl)
@[simp] theorem State.rd_onHost (s : State) (f : Hosts → Hosts) (g : Fld) : (s.onHost f).rd g = s.rd g := (rfl)
@[simp] theorem State.reg_onStore (s : State) (f : Store → Store) (a : Nat) : (s.onStore f).reg a = s.reg a := (rfl)
@[simp] theorem State.rd_onStore (s : State) (f : Store → Store) (g : Fld) : (s.onStore f).rd g = s.rd g := (rfl)
@[simp] theorem State.reg_onEnergy (s : State) (f : Energy → Energy) (a : Nat) : (s.onEnergy f).reg a = s.reg a := (rfl)
@[simp] theorem State.rd_onEnergy (s : State) (f : Energy → Energy) (g : Fld) : (s.onEnergy f).rd g = s.rd g := (rfl)
@[simp] theorem State.reg_onLink (s : State) (f : Link → Link) (a : Nat) : (s.onLink f).reg a = s.reg a := (rfl)
@[simp] theorem State.rd_onLink (s : State) (f : Link → Link) (g : Fld) : (s.onLink f).rd g = s.rd g := (rfl)
@[simp] theorem State.reg_onRdma (s : State) (f : Rdma → Rdma) (a : Nat) : (s.onRdma f).reg a = s.reg a := (rfl)
@[simp] theorem State.rd_onRdma (s : State) (f : Rdma → Rdma) (g : Fld) : (s.onRdma f).rd g = s.rd g := (rfl)
@[simp] theorem State.reg_onMem (s : State) (f : List Host.Cell → List Host.Cell) (a : Nat) : (s.onMem f).reg a = s.reg a := (rfl)
@[simp] theorem State.rd_onMem (s : State) (f : List Host.Cell → List Host.Cell) (g : Fld) : (s.onMem f).rd g = s.rd g := (rfl)
@[simp] theorem State.reg_onKeys (s : State) (f : Keys → Keys) (a : Nat) : (s.onKeys f).reg a = s.reg a := (rfl)
@[simp] theorem State.rd_onKeys (s : State) (f : Keys → Keys) (g : Fld) : (s.onKeys f).rd g = s.rd g := (rfl)
@[simp] theorem State.reg_onEwq (s : State) (f : Ewq → Ewq) (a : Nat) : (s.onEwq f).reg a = s.reg a := (rfl)
@[simp] theorem State.rd_onEwq (s : State) (f : Ewq → Ewq) (g : Fld) : (s.onEwq f).rd g = s.rd g := (rfl)
@[simp] theorem State.reg_onWall (s : State) (f : Wall → Wall) (a : Nat) : (s.onWall f).reg a = s.reg a := (rfl)
@[simp] theorem State.rd_onWall (s : State) (f : Wall → Wall) (g : Fld) : (s.onWall f).rd g = s.rd g := (rfl)
@[simp] theorem State.reg_onEntry (s : State) (f : Entry → Entry) (a : Nat) : (s.onEntry f).reg a = s.reg a := (rfl)
@[simp] theorem State.rd_onEntry (s : State) (f : Entry → Entry) (g : Fld) : (s.onEntry f).rd g = s.rd g := (rfl)
@[simp] theorem State.reg_onAdmin (s : State) (f : Admin → Admin) (a : Nat) : (s.onAdmin f).reg a = s.reg a := (rfl)
@[simp] theorem State.rd_onAdmin (s : State) (f : Admin → Admin) (g : Fld) : (s.onAdmin f).rd g = s.rd g := (rfl)
@[simp] theorem State.reg_onTwo (s : State) (f : TwoStep → TwoStep) (a : Nat) : (s.onTwo f).reg a = s.reg a := (rfl)
@[simp] theorem State.rd_onTwo (s : State) (f : TwoStep → TwoStep) (g : Fld) : (s.onTwo f).rd g = s.rd g := (rfl)
@[simp] theorem State.reg_onToken (s : State) (f : Token → Token) (a : Nat) : (s.onToken f).reg a = s.reg a := (rfl)
@[simp] theorem State.rd_onToken (s : State) (f : Token → Token) (g : Fld) : (s.onToken f).rd g = s.rd g := (rfl)
@[simp] theorem State.reg_onSlots (s : State) (f : Slots → Slots) (a : Nat) : (s.onSlots f).reg a = s.reg a := (rfl)
@[simp] theorem State.rd_onSlots (s : State) (f : Slots → Slots) (g : Fld) : (s.onSlots f).rd g = s.rd g := (rfl)
@[simp] theorem State.reg_onCaches (s : State) (f : Caches → Caches) (a : Nat) : (s.onCaches f).reg a = s.reg a := (rfl)
@[simp] theorem State.rd_onCaches (s : State) (f : Caches → Caches) (g : Fld) : (s.onCaches f).rd g = s.rd g := (rfl)
@[simp] theorem State.reg_onDirect (s : State) (f : Direct → Direct) (a : Nat) : (s.onDirect f).reg a = s.reg a := (rfl)
@[simp] theorem State.rd_onDirect (s : State) (f : Direct → Direct) (g : Fld) : (s.onDirect f).rd g = s.rd g := (rfl)
@[simp] theorem State.reg_onSwitch (s : State) (f : Switch → Switch) (a : Nat) : (s.onSwitch f).reg a = s.reg a := (rfl)
@[simp] theorem State.rd_onSwitch (s : State) (f : Switch → Switch) (g : Fld) : (s.onSwitch f).rd g = s.rd g := (rfl)
@[simp] theorem State.reg_onGates (s : State) (f : Gates → Gates) (a : Nat) : (s.onGates f).reg a = s.reg a := (rfl)
@[simp] theorem State.rd_onGates (s : State) (f : Gates → Gates) (g : Fld) : (s.onGates f).rd g = s.rd g := (rfl)
@[simp] theorem State.reg_onIntegrity (s : State) (f : Integrity → Integrity) (a : Nat) : (s.onIntegrity f).reg a = s.reg a := (rfl)
@[simp] theorem State.rd_onIntegrity (s : State) (f : Integrity → Integrity) (g : Fld) : (s.onIntegrity f).rd g = s.rd g := (rfl)
@[simp] theorem State.reg_onPmc (s : State) (f : Pmc → Pmc) (a : Nat) : (s.onPmc f).reg a = s.reg a := (rfl)
@[simp] theorem State.rd_onPmc (s : State) (f : Pmc → Pmc) (g : Fld) : (s.onPmc f).rd g = s.rd g := (rfl)
@[simp] theorem State.wr_pending (s : State) (f : Fld) (v : Nat) : (s.wr f v).pending = s.pending := (rfl)
@[simp] theorem State.wr_out (s : State) (f : Fld) (v : Nat) : (s.wr f v).out = s.out := (rfl)
@[simp] theorem State.wr_draws (s : State) (f : Fld) (v : Nat) : (s.wr f v).draws = s.draws := (rfl)
@[simp] theorem State.wr_rwm (s : State) (f : Fld) (v : Nat) : (s.wr f v).rwm = s.rwm := (rfl)
@[simp] theorem State.wr_hiLatch (s : State) (f : Fld) (v : Nat) : (s.wr f v).hiLatch = s.hiLatch := (rfl)
@[simp] theorem State.wr_lowWord (s : State) (f : Fld) (v : Nat) : (s.wr f v).lowWord = s.lowWord := (rfl)
@[simp] theorem State.wr_clock (s : State) (f : Fld) (v : Nat) : (s.wr f v).clock = s.clock := (rfl)
@[simp] theorem State.wr_cfg (s : State) (f : Fld) (v : Nat) : (s.wr f v).cfg = s.cfg := (rfl)
@[simp] theorem State.wr_flt (s : State) (f : Fld) (v : Nat) : (s.wr f v).flt = s.flt := (rfl)
@[simp] theorem State.wr_mcp (s : State) (f : Fld) (v : Nat) : (s.wr f v).mcp = s.mcp := (rfl)
@[simp] theorem State.wr_power (s : State) (f : Fld) (v : Nat) : (s.wr f v).power = s.power := (rfl)
@[simp] theorem State.wr_host (s : State) (f : Fld) (v : Nat) : (s.wr f v).host = s.host := (rfl)
@[simp] theorem State.wr_store (s : State) (f : Fld) (v : Nat) : (s.wr f v).store = s.store := (rfl)
@[simp] theorem State.wr_energy (s : State) (f : Fld) (v : Nat) : (s.wr f v).energy = s.energy := (rfl)
@[simp] theorem State.wr_link (s : State) (f : Fld) (v : Nat) : (s.wr f v).link = s.link := (rfl)
@[simp] theorem State.wr_rdma (s : State) (f : Fld) (v : Nat) : (s.wr f v).rdma = s.rdma := (rfl)
@[simp] theorem State.wr_mem (s : State) (f : Fld) (v : Nat) : (s.wr f v).mem = s.mem := (rfl)
@[simp] theorem State.wr_keys (s : State) (f : Fld) (v : Nat) : (s.wr f v).keys = s.keys := (rfl)
@[simp] theorem State.wr_ewq (s : State) (f : Fld) (v : Nat) : (s.wr f v).ewq = s.ewq := (rfl)
@[simp] theorem State.wr_wall (s : State) (f : Fld) (v : Nat) : (s.wr f v).wall = s.wall := (rfl)
@[simp] theorem State.wr_entry (s : State) (f : Fld) (v : Nat) : (s.wr f v).entry = s.entry := (rfl)
@[simp] theorem State.wr_admin (s : State) (f : Fld) (v : Nat) : (s.wr f v).admin = s.admin := (rfl)
@[simp] theorem State.wr_two (s : State) (f : Fld) (v : Nat) : (s.wr f v).two = s.two := (rfl)
@[simp] theorem State.wr_token (s : State) (f : Fld) (v : Nat) : (s.wr f v).token = s.token := (rfl)
@[simp] theorem State.wr_slots (s : State) (f : Fld) (v : Nat) : (s.wr f v).slots = s.slots := (rfl)
@[simp] theorem State.wr_caches (s : State) (f : Fld) (v : Nat) : (s.wr f v).caches = s.caches := (rfl)
@[simp] theorem State.wr_direct (s : State) (f : Fld) (v : Nat) : (s.wr f v).direct = s.direct := (rfl)
@[simp] theorem State.wr_switch (s : State) (f : Fld) (v : Nat) : (s.wr f v).switch = s.switch := (rfl)
@[simp] theorem State.wr_gates (s : State) (f : Fld) (v : Nat) : (s.wr f v).gates = s.gates := (rfl)
@[simp] theorem State.wr_integrity (s : State) (f : Fld) (v : Nat) : (s.wr f v).integrity = s.integrity := (rfl)
@[simp] theorem State.wr_pmc (s : State) (f : Fld) (v : Nat) : (s.wr f v).pmc = s.pmc := (rfl)

end Sys2Proof.Machine
end

