-- ==== Sys2Proof/Laws/Written.lean ====
section
/-! SUPPORT. A write of a register whose fields all have commands of their own (or cannot be written) stores nothing by itself. -/

set_option Elab.async false

namespace Sys2Proof.Machine

/-- The fields of such a register leave a plain write without effect. -/
theorem State.writeField_quiet {s : State} {h : RegHit} {b v : Nat} {f : FieldRow}
    (q : ((f.own && !(h.row.wide && !h.high && f.acc == .rw && h.block != 0x0A)) || f.acc == .ro || f.acc == .rc || f.acc == .wo ||
      f.acc == .rwt) = true) : s.writeField h b f v = s := by
  unfold State.writeField
  cases e : f.own && !(h.row.wide && !h.high && f.acc == .rw && h.block != 0x0A)
  · rw [e] at q
    cases a : f.acc <;> simp [a] at q ⊢
  · rfl

theorem State.writeFields_quiet {s : State} {h : RegHit} {b v : Nat}
    (q : h.row.fields.all (fun f => (f.own && !(h.row.wide && !h.high && f.acc == .rw && h.block != 0x0A)) || f.acc == .ro ||
      f.acc == .rc || f.acc == .wo || f.acc == .rwt) = true)
    (n : (h.is FLT_STAT.addr || h.is (PMC_SEL.addr 0) || h.block == 0x05) = false) : s.writeFields h b v = s := by
  have e : h.row.fields.foldl (fun s f => s.writeField h b f v) s = s := by
    generalize h.row.fields = l at q
    induction l with
    | nil => rfl
    | cons f fs ih =>
      rw [List.all_cons, Bool.and_eq_true] at q
      rw [List.foldl_cons, State.writeField_quiet q.1]
      exact ih q.2
  simp only [Bool.or_eq_false_iff] at n
  unfold State.writeFields
  split
  · rfl
  · simp [e, n.1.1, n.1.2, n.2]

/-- The state in which the command of such a register acts is the state before the write. -/
theorem State.written_quiet {s : State} {a : Nat} {v : Word} {h : RegHit} (r : findReg a = some h)
    (q : h.row.fields.all (fun f => (f.own && !(h.row.wide && !h.high && f.acc == .rw && h.block != 0x0A)) || f.acc == .ro ||
      f.acc == .rc || f.acc == .wo || f.acc == .rwt) = true)
    (n : (h.is FLT_STAT.addr || h.is (PMC_SEL.addr 0) || h.block == 0x05) = false) : s.written a v = s := by
  simp only [State.written, r]
  exact State.writeFields_quiet q n

/-- A write that reaches a command register has the command act, and is answered. -/
theorem State.commandWrite_opens {s : State} {who : Requester} {a : Nat} {v : Word} {act : State → State} (o : s.Opens who a) :
    s.commandWrite who a v act = (act (s.written a v)).answered who a v := by
  obtain ⟨reach, h, reg, may⟩ := o
  simp [State.commandWrite, State.written, State.answered, reach, reg, may]

/-! Answering a write touches what was sent and the words of pairs only. -/

@[simp] theorem State.answered_pending (t : State) (who : Requester) (a : Nat) (v : Word) : (t.answered who a v).pending = t.pending := by
  simp only [State.answered, State.notePairWrite, State.emit]; repeat' first | rfl | split
@[simp] theorem State.answered_draws (t : State) (who : Requester) (a : Nat) (v : Word) : (t.answered who a v).draws = t.draws := by
  simp only [State.answered, State.notePairWrite, State.emit]; repeat' first | rfl | split
@[simp] theorem State.answered_regs (t : State) (who : Requester) (a : Nat) (v : Word) : (t.answered who a v).regs = t.regs := by
  simp only [State.answered, State.notePairWrite, State.emit]; repeat' first | rfl | split
@[simp] theorem State.answered_rwm (t : State) (who : Requester) (a : Nat) (v : Word) : (t.answered who a v).rwm = t.rwm := by
  simp only [State.answered, State.notePairWrite, State.emit]; repeat' first | rfl | split
@[simp] theorem State.answered_hiLatch (t : State) (who : Requester) (a : Nat) (v : Word) : (t.answered who a v).hiLatch = t.hiLatch := by
  simp only [State.answered, State.notePairWrite, State.emit]; repeat' first | rfl | split
@[simp] theorem State.answered_clock (t : State) (who : Requester) (a : Nat) (v : Word) : (t.answered who a v).clock = t.clock := by
  simp only [State.answered, State.notePairWrite, State.emit]; repeat' first | rfl | split
@[simp] theorem State.answered_cfg (t : State) (who : Requester) (a : Nat) (v : Word) : (t.answered who a v).cfg = t.cfg := by
  simp only [State.answered, State.notePairWrite, State.emit]; repeat' first | rfl | split
@[simp] theorem State.answered_flt (t : State) (who : Requester) (a : Nat) (v : Word) : (t.answered who a v).flt = t.flt := by
  simp only [State.answered, State.notePairWrite, State.emit]; repeat' first | rfl | split
@[simp] theorem State.answered_mcp (t : State) (who : Requester) (a : Nat) (v : Word) : (t.answered who a v).mcp = t.mcp := by
  simp only [State.answered, State.notePairWrite, State.emit]; repeat' first | rfl | split
@[simp] theorem State.answered_power (t : State) (who : Requester) (a : Nat) (v : Word) : (t.answered who a v).power = t.power := by
  simp only [State.answered, State.notePairWrite, State.emit]; repeat' first | rfl | split
@[simp] theorem State.answered_host (t : State) (who : Requester) (a : Nat) (v : Word) : (t.answered who a v).host = t.host := by
  simp only [State.answered, State.notePairWrite, State.emit]; repeat' first | rfl | split
@[simp] theorem State.answered_store (t : State) (who : Requester) (a : Nat) (v : Word) : (t.answered who a v).store = t.store := by
  simp only [State.answered, State.notePairWrite, State.emit]; repeat' first | rfl | split
@[simp] theorem State.answered_energy (t : State) (who : Requester) (a : Nat) (v : Word) : (t.answered who a v).energy = t.energy := by
  simp only [State.answered, State.notePairWrite, State.emit]; repeat' first | rfl | split
@[simp] theorem State.answered_link (t : State) (who : Requester) (a : Nat) (v : Word) : (t.answered who a v).link = t.link := by
  simp only [State.answered, State.notePairWrite, State.emit]; repeat' first | rfl | split
@[simp] theorem State.answered_rdma (t : State) (who : Requester) (a : Nat) (v : Word) : (t.answered who a v).rdma = t.rdma := by
  simp only [State.answered, State.notePairWrite, State.emit]; repeat' first | rfl | split
@[simp] theorem State.answered_mem (t : State) (who : Requester) (a : Nat) (v : Word) : (t.answered who a v).mem = t.mem := by
  simp only [State.answered, State.notePairWrite, State.emit]; repeat' first | rfl | split
@[simp] theorem State.answered_keys (t : State) (who : Requester) (a : Nat) (v : Word) : (t.answered who a v).keys = t.keys := by
  simp only [State.answered, State.notePairWrite, State.emit]; repeat' first | rfl | split
@[simp] theorem State.answered_ewq (t : State) (who : Requester) (a : Nat) (v : Word) : (t.answered who a v).ewq = t.ewq := by
  simp only [State.answered, State.notePairWrite, State.emit]; repeat' first | rfl | split
@[simp] theorem State.answered_wall (t : State) (who : Requester) (a : Nat) (v : Word) : (t.answered who a v).wall = t.wall := by
  simp only [State.answered, State.notePairWrite, State.emit]; repeat' first | rfl | split
@[simp] theorem State.answered_entry (t : State) (who : Requester) (a : Nat) (v : Word) : (t.answered who a v).entry = t.entry := by
  simp only [State.answered, State.notePairWrite, State.emit]; repeat' first | rfl | split
@[simp] theorem State.answered_admin (t : State) (who : Requester) (a : Nat) (v : Word) : (t.answered who a v).admin = t.admin := by
  simp only [State.answered, State.notePairWrite, State.emit]; repeat' first | rfl | split
@[simp] theorem State.answered_two (t : State) (who : Requester) (a : Nat) (v : Word) : (t.answered who a v).two = t.two := by
  simp only [State.answered, State.notePairWrite, State.emit]; repeat' first | rfl | split
@[simp] theorem State.answered_token (t : State) (who : Requester) (a : Nat) (v : Word) : (t.answered who a v).token = t.token := by
  simp only [State.answered, State.notePairWrite, State.emit]; repeat' first | rfl | split
@[simp] theorem State.answered_slots (t : State) (who : Requester) (a : Nat) (v : Word) : (t.answered who a v).slots = t.slots := by
  simp only [State.answered, State.notePairWrite, State.emit]; repeat' first | rfl | split
@[simp] theorem State.answered_caches (t : State) (who : Requester) (a : Nat) (v : Word) : (t.answered who a v).caches = t.caches := by
  simp only [State.answered, State.notePairWrite, State.emit]; repeat' first | rfl | split
@[simp] theorem State.answered_direct (t : State) (who : Requester) (a : Nat) (v : Word) : (t.answered who a v).direct = t.direct := by
  simp only [State.answered, State.notePairWrite, State.emit]; repeat' first | rfl | split
@[simp] theorem State.answered_switch (t : State) (who : Requester) (a : Nat) (v : Word) : (t.answered who a v).switch = t.switch := by
  simp only [State.answered, State.notePairWrite, State.emit]; repeat' first | rfl | split
@[simp] theorem State.answered_gates (t : State) (who : Requester) (a : Nat) (v : Word) : (t.answered who a v).gates = t.gates := by
  simp only [State.answered, State.notePairWrite, State.emit]; repeat' first | rfl | split
@[simp] theorem State.answered_integrity (t : State) (who : Requester) (a : Nat) (v : Word) : (t.answered who a v).integrity = t.integrity := by
  simp only [State.answered, State.notePairWrite, State.emit]; repeat' first | rfl | split
@[simp] theorem State.answered_pmc (t : State) (who : Requester) (a : Nat) (v : Word) : (t.answered who a v).pmc = t.pmc := by
  simp only [State.answered, State.notePairWrite, State.emit]; repeat' first | rfl | split
@[simp] theorem State.answered_reg (t : State) (who : Requester) (a : Nat) (v : Word) (b : Nat) : (t.answered who a v).reg b = t.reg b := by
  simp only [State.reg, State.answered_regs]
@[simp] theorem State.answered_rd (t : State) (who : Requester) (a : Nat) (v : Word) (f : Fld) : (t.answered who a v).rd f = t.rd f := by
  simp only [State.rd, State.answered_reg]

/-- What every step over a list keeps is kept by the whole. -/
theorem State.each_keeps {α β : Type} (π : State → β) {f : α → State → State} (k : ∀ a s, π (f a s) = π s) (s : State) (l : List α) :
    π (s.each l f) = π s := by
  simp only [State.each]
  induction l generalizing s with
  | nil => rfl
  | cons a l ih => rw [List.foldl_cons, ih, k]

/-- An event changes registers and what the module sends, nothing else. -/
theorem State.event_keeps {β : Type} (π : State → β) (kr : ∀ s a v, π (State.setReg s a v) = π s) (ke : ∀ s o, π (State.emit s o) = π s)
    (s : State) (e src n : Nat) : π (s.event e src n) = π s := by
  unfold State.event
  split
  · rfl
  · refine State.each_keeps π ?_ s _
    intro i t
    have add : ∀ m, π (t.addCounter i m) = π t := by
      intro m
      unfold State.addCounter
      simp only
      repeat' first | (split) | rfl | (rw [ke]) | (rw [kr])
    repeat' first | rfl | exact add _ | split

@[simp] theorem State.event_link (s : State) (e src n : Nat) : (s.event e src n).link = s.link :=
  State.event_keeps (·.link) (fun _ _ _ => rfl) (fun _ _ => rfl) s e src n
@[simp] theorem State.event_mem (s : State) (e src n : Nat) : (s.event e src n).mem = s.mem :=
  State.event_keeps (·.mem) (fun _ _ _ => rfl) (fun _ _ => rfl) s e src n
@[simp] theorem State.event_store (s : State) (e src n : Nat) : (s.event e src n).store = s.store :=
  State.event_keeps (·.store) (fun _ _ _ => rfl) (fun _ _ => rfl) s e src n

theorem State.moved_keeps {β : Type} (π : State → β) (kp : ∀ s f, π (State.onPmc s f) = π s) (s : State) (k i : Nat) (o : Bool) (n : Nat) :
    π (s.moved k i o n) = π s := by
  unfold State.moved
  split
  · rfl
  · exact kp _ _

@[simp] theorem State.countFrame_link (s : State) (o : Bool) (n : Nat) : (s.countFrame o n).link = s.link := by
  rw [State.countFrame, State.moved_keeps (·.link) (fun _ _ => rfl), State.event_link]; rfl
@[simp] theorem State.countFrame_mem (s : State) (o : Bool) (n : Nat) : (s.countFrame o n).mem = s.mem := by
  rw [State.countFrame, State.moved_keeps (·.mem) (fun _ _ => rfl), State.event_mem]; rfl
@[simp] theorem State.countFrame_store (s : State) (o : Bool) (n : Nat) : (s.countFrame o n).store = s.store := by
  rw [State.countFrame, State.moved_keeps (·.store) (fun _ _ => rfl), State.event_store]; rfl

/-- An accepted frame acts, and may be acknowledged. -/
theorem State.receive_accepts {s : State} {h : FrameHead} {f : State → State} (a : s.Accepts h) :
    s.receive h f = (f (s.expectNext h)).acknowledged := by
  obtain ⟨up, tag, inOrder⟩ := a
  simp only [State.receive, up, tag, State.countFrame_link, inOrder, State.expectNext, State.acknowledged, Bool.not_true, Bool.false_eq_true, if_false,
    ne_eq, not_true_eq_false]
  rfl

/-- A request that meets every check is run. -/
theorem State.runCall_requests {s : State} {slot tag opcode : Nat} {c : McpCall} {act : McpCall → State → State}
    (r : s.Requests slot tag opcode c) : s.runCall slot tag opcode act = act c s := by
  obtain ⟨waits, rfl, mayRun, role, len, res⟩ := r
  have res' : ((reservedFields c.opcode).any fun f => numAt c.params f.1 f.2 != 0) = false := by
    rw [List.any_eq_false]
    intro f m
    have := List.all_eq_true.1 res f m
    simpa using this
  have role' : ¬ s.callRole c < (opcodeRole c.opcode).getD 0 := Nat.not_lt.2 role
  simp [State.runCall, waits, mayRun, role', len, res']

/-- An admin command that meets no refusal is run. -/
theorem State.adminRun_open {s : State} {key : CmdKey} {listed : Bool} {c : Controller} {f : State → State}
    (o : s.AdminOpen key listed c) : s.adminRun key listed f = f s := by
  obtain ⟨ctrl, auth, en, shst, san⟩ := o
  simp [State.adminRun, ctrl, auth, en, shst, san]

end Sys2Proof.Machine
end

