-- ==== Sys2Proof/WellFormed.lean ====
section
/-! DEFINITION. Which commands are well formed: every operand within the range that the spec's own numbering gives it. A command
outside it has no meaning of its own in the spec (no such port, slot, group); no meaning depends on this check. -/

set_option Elab.async false

namespace Sys2Proof

/-- R16: the eight partitions. -/
def Requester.wf : Requester → Bool
  | .partition p => decide (p < 8)
  | .ronhenko | .directHost | .wallflower => true

/-- Controller, queue and command identifiers have 16 bits. -/
def CmdKey.wf (k : CmdKey) : Bool := decide (k.ctrl < 65536) && decide (k.qid < 65536) && decide (k.cid < 65536)

/-- A range holds at least one block, and its blocks have 64-bit numbers. -/
def BlockRange.wf (r : BlockRange) : Bool := decide (0 < r.count) && decide (r.first + r.count ≤ 2 ^ 64)

/-- R46: one keyed descriptor, or up to 16 of a last segment. -/
def sglWf (l : List KeyedSgl) : Bool :=
  decide (l.length ≤ 16) && l.all fun d => decide (d.addr < 2 ^ 64) && decide (d.len < 2 ^ 24) && decide (d.key < 2 ^ 32)

def IoEntry.wf (e : IoEntry) : Bool := e.key.wf && decide (e.nsid < 2 ^ 32) && decide (e.fuse < 4) && sglWf e.sgl

def AdminEntry.wf (e : AdminEntry) : Bool := e.key.wf && sglWf e.sgl

def IoRange.wf (r : IoRange) : Bool := r.range.wf && decide (r.prchk < 8) && decide (r.lbat < 65536) && decide (r.lbatm < 65536)

/-- R430: six transports. -/
def McpAddress.wf (a : McpAddress) : Bool := decide (a.transport < 6)

/-- A core's access stays within one 64-byte line, and a store brings its bytes. -/
def CoreAccess.wf (a : CoreAccess) : Bool :=
  decide (0 < a.len) && decide (a.addr % 64 + a.len ≤ 64) && decide (a.addr + a.len ≤ 2 ^ 48) &&
  (match a.kind with | .store => a.data.length == a.len | .fetch | .load => true | .counter => decide (a.addr < 11) && a.len == 8)

/-- Table 11.1: 64 windows, 8 groups, a 16-bit key. -/
def FrameHead.wf (h : FrameHead) : Bool := decide (h.win < 64) && decide (h.group < 256) && decide (h.key < 65536)

/-- Twelve attachments (R154), eight lanes and classes; a frame holds at least one byte. -/
def FrameOffer.wf (f : FrameOffer) : Bool :=
  decide (f.src < 12) && decide (f.lane < 8) && decide (f.cls < 8) && decide (0 < f.bytes) && decide (f.flow < 2 ^ 18) &&
  (!f.ordered || decide (f.flow < 131080)) && f.psn.all (fun p => decide (p < 2 ^ 24)) && f.dests.all fun d => decide (d.1 < 12)

/-- Table 5.4: the widths of what the exchange gives a context; tenant groups 0 to 62 (chapter Time Gates and Shapers). -/
def ConnectRequest.wf (c : ConnectRequest) : Bool :=
  decide (c.port < 4) && decide (c.lane < 8) && decide (c.rqpn < 2 ^ 24) && decide (c.hostPsn < 2 ^ 24) && decide (c.ownPsn < 2 ^ 24) &&
  decide (c.remoteIp < 2 ^ 128) && decide (c.localIp < 2 ^ 128) && decide (c.remoteMac < 2 ^ 48) && decide (c.udpSport < 2 ^ 16) &&
  decide (c.dscp < 64) && decide (c.tclass < 8) && decide (c.tgrp < 63)

/-- A command is well formed. -/
def Instr.wf : Instr → Bool
  | .plainRegisterWrite who addr width _ => who.wf && decide (addr < 2 ^ 48) && [1, 2, 4, 8].contains width
  | .rcRegisterRead who addr width => who.wf && decide (addr < 2 ^ 48) && [1, 2, 4, 8].contains width
  | .lowWordRead who addr => who.wf && decide (addr < 2 ^ 48)
  | .unassignedBlockAccess who addr _ => who.wf && decide (addr < 2 ^ 48)
  | .directHostRegisterAccess offset _ _ => decide (offset < 2 ^ 24)
  | .offDomainAccess who addr _ => who.wf && decide (addr < 2 ^ 48)
  | .registerRead slot tag => decide (slot < 256) && decide (tag < 65536)
  | .registerWrite slot tag => decide (slot < 256) && decide (tag < 65536)
  | .rwtFieldWrite who addr _ => who.wf && decide (addr < 2 ^ 48)
  | .coldReset => true
  | .moduleResetTaken => true
  | .memoryFillComplete => true
  | .pllLock => true
  | .rootClockFault => true
  | .measureBoundary => true
  | .boundaryWindowEnd => true
  | .measStepRequest who _ => who.wf
  | .timeStepApply => true
  | .measOffsWrite _ => true
  | .measSrcWrite src => decide (src < 16)
  | .offsetWriteTimeout => true
  | .holdoverExpiry => true
  | .measRunSet => true
  | .flush e => e.wf
  | .write e r _ => e.wf && r.wf
  | .read e r => e.wf && r.wf
  | .compare e r _ => e.wf && r.wf
  | .writeZeroes e r => e.wf && r.wf
  | .datasetManagement e ranges _ => e.wf && ranges.all (·.wf)
  | .verify e r => e.wf && r.wf
  | .reservationRegister e _ _ _ => e.wf
  | .reservationReport e _ => e.wf
  | .reservationAcquire e _ _ _ _ => e.wf
  | .reservationRelease e _ _ _ => e.wf
  | .copy e sources _ => e.wf && sources.all (·.wf)
  | .unknownIoOpcode e => e.wf
  | .commandSlotGrant key => key.wf
  | .rangeLockGrant key => key.wf
  | .dirtyRoomGrant key => key.wf
  | .mirrorCopyAccept => true
  | .stripPost set _ => decide (set < 4)
  | .memberWriteComplete _ => true
  | .memberReadComplete _ _ _ _ _ => true
  | .readDurableResume key => key.wf
  | .controllerReset _ _ => true
  | .keepAliveExpiry _ => true
  | .shutdownComplete _ => true
  | .firmwareActivation => true
  | .firmwareTrialEnd => true
  | .firmwareTrialTimeout => true
  | .getLogPage e nsid lid _ _ => e.wf && decide (nsid < 2 ^ 32) && decide (lid < 256)
  | .identify e cns nsid _ => e.wf && decide (cns < 256) && decide (nsid < 2 ^ 32)
  | .abort key => key.wf
  | .setFeatures e fid _ nsid _ => e.wf && decide (fid < 256) && decide (nsid < 2 ^ 32)
  | .getFeatures e fid sel nsid => e.wf && decide (fid < 256) && decide (sel < 8) && decide (nsid < 2 ^ 32)
  | .asynchronousEventRequest key => key.wf
  | .namespaceManagementCreate e _ _ _ _ => e.wf
  | .namespaceManagementDelete key nsid => key.wf && decide (nsid < 2 ^ 32)
  | .adminCommandForward key _ _ => key.wf
  | .firmwareImageDownload e _ _ => e.wf
  | .firmwareCommitStore key slot action => key.wf && decide (slot < 8) && (action == 0 || (4 ≤ action && action ≤ 7))
  | .firmwareCommitStoreNext key slot => key.wf && decide (slot < 8)
  | .firmwareCommitMark key slot => key.wf && decide (slot < 8)
  | .firmwareCommitActivate key slot => key.wf && decide (slot < 8)
  | .namespaceAttach e nsid _ => e.wf && decide (nsid < 2 ^ 32)
  | .namespaceDetach e nsid _ => e.wf && decide (nsid < 2 ^ 32)
  | .keepAlive key => key.wf
  | .connect _ _ _ => true
  | .propertyGet key _ _ => key.wf
  | .propertySet key _ _ _ => key.wf
  | .authenticationSend e _ => e.wf
  | .authenticationReceive e _ => e.wf
  | .formatNvm key nsid lbaf ses pi => key.wf && decide (nsid < 2 ^ 32) && decide (lbaf < 64) && decide (ses < 8) && decide (pi < 8)
  | .sanitizeExitFailureMode key => key.wf
  | .sanitizeBlockErase key _ => key.wf
  | .sanitizeOverwrite key _ _ owpass ovrpat => key.wf && decide (owpass < 17) && decide (ovrpat < 2 ^ 32)
  | .sanitizeCryptoErase key _ => key.wf
  | .walkUnitComplete slot _ _ => decide (slot < 16)
  | .progressRecordDurable slot _ => decide (slot < 16)
  | .walkResume slot found => decide (slot < 16) && found.all fun c => decide (c.place < 4)
  | .connectionRequest c => c.wf
  | .readyToUse idx => decide (idx < 131072)
  | .connectingTimeout idx => decide (idx < 131072)
  | .disconnectRequest idx => decide (idx < 131072)
  | .queuePairDrained idx => decide (idx < 131072)
  | .inboundRequest qpn psn _ _ _ _ => decide (qpn < 2 ^ 24) && decide (psn < 2 ^ 24)
  | .inboundRdmaWrite qpn psn _ rkey addr len _ _ _ =>
    decide (qpn < 2 ^ 24) && decide (psn < 2 ^ 24) && decide (rkey < 2 ^ 32) && decide (addr < 2 ^ 64) && decide (len < 2 ^ 32)
  | .rdmaReadResponse qpn psn _ _ _ => decide (qpn < 2 ^ 24) && decide (psn < 2 ^ 24)
  | .readRequestComplete _ => true
  | .readTrackerGrant idx => decide (idx < 131072)
  | .ackReceived qpn psn => decide (qpn < 2 ^ 24) && decide (psn < 2 ^ 24)
  | .nakReceived qpn psn _ => decide (qpn < 2 ^ 24) && decide (psn < 2 ^ 24)
  | .ackTimeout idx => decide (idx < 131072)
  | .rnrTimerExpiry idx => decide (idx < 131072)
  | .cnpReceived qpn => decide (qpn < 2 ^ 24)
  | .rateStepTimer idx => decide (idx < 131072)
  | .contextFillComplete _ _ => true
  | .evictionWritebackComplete _ _ idx => decide (idx < 131072)
  | .qpcDoorbell who idx tail => who.wf && decide (idx < 131072) && decide (tail < 65536)
  | .workRequestComplete idx => decide (idx < 131072)
  | .qpcCreate who => who.wf
  | .qpcRead who => who.wf
  | .qpcDestroy who => who.wf
  | .qpcFlush who => who.wf
  | .qpcPin who => who.wf
  | .qpcUnpin who => who.wf
  | .frameAdmission f => f.wf
  | .frameReadComplete _ _ wait => decide (wait ≤ 40)
  | .resequencerArrival _ => true
  | .resequencerTimeout _ _ => true
  | .trackerFree _ => true
  | .pfcPauseReceived port lane cls quanta => decide (port < 4) && decide (lane < 8) && decide (cls < 8) && decide (quanta < 65536)
  | .pauseExpiry port lane cls => decide (port < 4) && decide (lane < 8) && decide (cls < 8)
  | .pfcWatchdogExpiry port lane cls => decide (port < 4) && decide (lane < 8) && decide (cls < 8)
  | .pfcWatchdogEnd port lane cls => decide (port < 4) && decide (lane < 8) && decide (cls < 8)
  | .epochArm who _ => who.wf
  | .ftWriteShadow who idx => who.wf && decide (idx < 1024)
  | .ftReadActive who idx => who.wf && decide (idx < 1024)
  | .ftReadShadow who idx => who.wf && decide (idx < 1024)
  | .epochDrained => true
  | .laneFrameStart port lane => decide (port < 4) && decide (lane < 8)
  | .gateEntryChange port => decide (port < 4)
  | .gateSwitchoverArm who port _ => who.wf && decide (port < 4)
  | .wheelSlotChange port => decide (port < 4)
  | .figWriteNext who set row => who.wf && decide (set < 4) && decide (row < 4096)
  | .figReadActive who set row => who.wf && decide (set < 4) && decide (row < 4096)
  | .figReadNext who set row => who.wf && decide (set < 4) && decide (row < 4096)
  | .stripeClose set _ => decide (set < 4)
  | .stripeIdleTimeout set _ => decide (set < 4)
  | .journalBlockWrite set => decide (set < 4)
  | .journalRecovery set _ _ => decide (set < 4)
  | .setAssembly set => decide (set < 4)
  | .memberFailed set member => decide (set < 4) && decide (member < 64)
  | .rebuildStep set => decide (set < 4)
  | .rebuildStepComplete set _ => decide (set < 4)
  | .lostMapWrite block _ => decide (block < 512)
  | .lostMapDurable set _ strip => decide (set < 4) && decide (strip < 64)
  | .journalRehome set _ => decide (set < 4)
  | .repairStep set _ strip row => decide (set < 4) && decide (strip < 64) && decide (row < 4096)
  | .scrubStep set _ => decide (set < 4)
  | .replacementAccept set member => decide (set < 4) && decide (member < 64)
  | .copyBackStep set => decide (set < 4)
  | .promenadeStart who set => who.wf && decide (set < 4)
  | .setCreate who set => who.wf && decide (set < 4)
  | .setDelete who set => who.wf && decide (set < 4)
  | .promenadeMoveStart nsid _ => decide (nsid < 2 ^ 32)
  | .promenadeCopyPassEnd nsid _ => decide (nsid < 2 ^ 32)
  | .promenadeCatchupDone nsid _ => decide (nsid < 2 ^ 32)
  | .promenadeOldRangeFree nsid _ => decide (nsid < 2 ^ 32)
  | .promenadeFinalEpoch set => decide (set < 4)
  | .promenadeDrainDone set => decide (set < 4)
  | .energyMeasurement _ => true
  | .chargeComplete => true
  | .chargeLevelDrop => true
  | .nrgTestRequest who => who.wf
  | .capacityTestStart => true
  | .capacityTestDone _ _ => true
  | .storeFailure _ => true
  | .powerFailDecision => true
  | .quiesceComplete => true
  | .destageSeal _ _ => true
  | .decisionResetTimer => true
  | .vaultSelfCheck => true
  | .vaultRestore _ => true
  | .sectionSummary _ => true
  | .summaryTimeout => true
  | .restoreInstall group _ => decide (group < 8)
  | .vaultRetire => true
  | .vaultFault => true
  | .mapMirrorCopy _ => true
  | .linkEnable who _ => who.wf
  | .linkTrained _ => true
  | .trainingTimeout => true
  | .trainingRetry => true
  | .fastRetrain => true
  | .peerRemoved _ => true
  | .linkAckReceived h _ room => h.wf && room.all fun p => decide (p.1 < 16) && decide (p.2 ≤ 256)
  | .linkAckTimer => true
  | .mirrorCopyReceived h _ => h.wf
  | .windowWriteReceived h _ => h.wf
  | .messageReceived h _ => h.wf
  | .stateCopyReceived h _ _ => h.wf
  | .commitMarkerReceived h _ => h.wf
  | .commitReceived h => h.wf
  | .resendRequestReceived h => h.wf
  | .resumeReceived h _ => h.wf
  | .messageSendPost who chan post => who.wf && decide (chan < 16) && decide (post < 256)
  | .messageReceivePost who chan post => who.wf && decide (chan < 16) && decide (post < 256)
  | .messageWithdraw chan => decide (chan < 16)
  | .followLost => true
  | .leadSilenceTimeout => true
  | .leaseRenewal => true
  | .renewalComplete group _ _ => decide (group < 8)
  | .leaseExpiry group => decide (group < 8)
  | .peerSuspect => true
  | .cutInWaitEnd => true
  | .claimComplete _ _ => true
  | .fence => true
  | .fenceComplete _ _ => true
  | .takeComplete => true
  | .peerCycle => true
  | .moduleFenced => true
  | .standbySelfTest group _ _ _ => decide (group < 8)
  | .handOver group => decide (group < 8)
  | .handOverGranted group _ => decide (group < 8)
  | .handBack group => decide (group < 8)
  | .witnessReplace witness _ => decide (witness < 5)
  | .ltkHandOverGroup who group => who.wf && decide (group < 8)
  | .ltkHandOverAll who => who.wf
  | .ltkReleaseGroup who group => who.wf && decide (group < 8)
  | .ltkAcquireGroup who group => who.wf && decide (group < 8)
  | .ltkRunSelfTest who => who.wf
  | .presenceChange slot => decide (slot < 48)
  | .slotDebounceEnd slot => decide (slot < 48)
  | .offListReceived _ => true
  | .offListTimeout => true
  | .slotPoweringEnd slot => decide (slot < 48)
  | .slotLinkUp slot _ => decide (slot < 48)
  | .slotTrainingTimeout slot => decide (slot < 48)
  | .slotCheckComplete slot _ => decide (slot < 48)
  | .attentionPress slot _ => decide (slot < 48)
  | .removalTimerEnd slot => decide (slot < 48)
  | .containment slot _ => decide (slot < 48)
  | .surpriseRemoval slot => decide (slot < 48)
  | .peerSlotEvent slot _ => decide (slot < 48)
  | .slotPowerOn who slot => who.wf && decide (slot < 48)
  | .slotOff who slot => who.wf && decide (slot < 48)
  | .slotForcedOff who slot => who.wf && decide (slot < 48)
  | .slotRetrain who slot => who.wf && decide (slot < 48)
  | .slotPrepare who slot _ _ => who.wf && decide (slot < 48)
  | .memberCommandTimeout _ => true
  | .memberCommandError _ => true
  | .sidebandPoll slot _ => decide (slot < 48)
  | .dirPerstDeassert => true
  | .dirPerstAssert => true
  | .cablePresenceChange _ => true
  | .configRequest f offset _ _ enables => decide (f < 2) && decide (offset < 4096) && decide (enables < 16)
  | .barAccess addr width _ _ => decide (addr < 2 ^ 64) && [1, 2, 4, 8].contains width
  | .sqDoorbell queue tail _ => decide (queue < 129) && decide (tail < 65536)
  | .directReadCompletion _ _ => true
  | .directCompletionTimeout _ => true
  | .busMasterEnableClear f => decide (f < 2)
  | .busMasterEnableSet f => decide (f < 2)
  | .functionLevelReset f => decide (f < 2)
  | .flrTimeout f => decide (f < 2)
  | .d3hotEntry f => decide (f < 2)
  | .d0Return f => decide (f < 2)
  | .hotReset => true
  | .functionQuiesced f => decide (f < 2)
  | .seatChange _ _ => true
  | .entryDebounceEnd _ => true
  | .rampComplete => true
  | .qualificationComplete _ => true
  | .railSequence => true
  | .currentLimitEngage => true
  | .currentLimitClear => true
  | .faultTimerExpiry _ _ => true
  | .fastTrip _ _ => true
  | .entryOpening _ _ _ => true
  | .entryLatchClear _ => true
  | .entryRestart _ => true
  | .moduleOff => true
  | .biasLoss => true
  | .peerCycleRelease => true
  | .keyGenerate who slot => who.wf && decide (slot < 16384)
  | .keyUnwrap who slot => who.wf && decide (slot < 16384)
  | .keyZeroise who slot => who.wf && decide (slot < 16384)
  | .keyDerivePair who => who.wf
  | .kekRatchet who => who.wf
  | .highWaterLoad who slot => who.wf && decide (slot < 16384)
  | .slotStatusRead who slot => who.wf && decide (slot < 16384)
  | .kekImport who => who.wf
  | .mcpPacketReceived from_ type _ _ => from_.wf && decide (type < 128)
  | .mcpReqDoorbell who mask => who.wf && decide (mask < 16)
  | .mcpRplRdyClear who bits => who.wf && decide (bits < 16)
  | .mcpNtcTailWrite who tail => who.wf && decide (tail < 65536)
  | .fragmentTimeout from_ _ => from_.wf
  | .getIdentity tag => decide (tag < 65536)
  | .getChallenge tag => decide (tag < 65536)
  | .getEntryRecord tag => decide (tag < 65536)
  | .sessionOpen tag => decide (tag < 65536)
  | .sessionReset slot tag => decide (slot < 256) && decide (tag < 65536)
  | .sessionList slot tag => decide (slot < 256) && decide (tag < 65536)
  | .noticeSubscribe slot tag => decide (slot < 256) && decide (tag < 65536)
  | .getNotices slot tag => decide (slot < 256) && decide (tag < 65536)
  | .moduleStatus slot tag => decide (slot < 256) && decide (tag < 65536)
  | .logPageRead slot tag => decide (slot < 256) && decide (tag < 65536)
  | .faultRecordsRead slot tag => decide (slot < 256) && decide (tag < 65536)
  | .longOperationStatus slot tag => decide (slot < 256) && decide (tag < 65536)
  | .leadCommand slot tag => decide (slot < 256) && decide (tag < 65536)
  | .slotCommand slot tag _ _ => decide (slot < 256) && decide (tag < 65536)
  | .layoutCommand slot tag => decide (slot < 256) && decide (tag < 65536)
  | .moduleReset slot tag => decide (slot < 256) && decide (tag < 65536)
  | .powerCycle slot tag => decide (slot < 256) && decide (tag < 65536)
  | .setPowerState slot tag _ => decide (slot < 256) && decide (tag < 65536)
  | .shelfBudget slot tag => decide (slot < 256) && decide (tag < 65536)
  | .firmwareDownload slot tag => decide (slot < 256) && decide (tag < 65536)
  | .mcpFirmwareCommit slot tag => decide (slot < 256) && decide (tag < 65536)
  | .groupPolicy slot tag => decide (slot < 256) && decide (tag < 65536)
  | .setMeasureLength slot tag => decide (slot < 256) && decide (tag < 65536)
  | .twoStepPropose slot tag => decide (slot < 256) && decide (tag < 65536)
  | .twoStepConfirm slot tag => decide (slot < 256) && decide (tag < 65536)
  | .twoStepWithdraw slot tag => decide (slot < 256) && decide (tag < 65536)
  | .twoStepStatus slot tag => decide (slot < 256) && decide (tag < 65536)
  | .sessionIdleTimeout slot => decide (slot < 256)
  | .requestTimeout slot tag => decide (slot < 256) && decide (tag < 65536)
  | .proposalExpiry _ => true
  | .setupDigestExchange _ _ _ _ => true
  | .spdmGetVersion from_ => from_.wf
  | .spdmGetCapabilities from_ => from_.wf
  | .spdmNegotiateAlgorithms from_ => from_.wf
  | .spdmGetDigests from_ => from_.wf
  | .spdmGetCertificate from_ slot _ _ => from_.wf && decide (slot < 256)
  | .spdmChallenge from_ _ => from_.wf
  | .spdmGetMeasurements from_ _ => from_.wf
  | .phraseDecision _ _ _ _ => true
  | .avsAck cluster => decide (cluster < 8)
  | .avsTimeout cluster => decide (cluster < 8)
  | .domainIdleGate domain _ => decide (domain < 155)
  | .domainIdleOff domain _ => decide (domain < 155)
  | .handshakeDelayExpiry domain _ => decide (domain < 155)
  | .domainWake domain => decide (domain < 155)
  | .pwrWakeDomain who domain => who.wf && decide (domain < 155)
  | .pwrPowerOffDomain who domain _ => who.wf && decide (domain < 155)
  | .pwrEnterDormant who _ => who.wf
  | .dormantWake _ => true
  | .analogSample ch _ => decide (ch < 32)
  | .digitalInputChange input _ => decide (input < 128)
  | .ruleSweep => true
  | .ruleCtlWrite who rule _ => who.wf && decide (rule < 64)
  | .cycleArm who => who.wf
  | .cycleGo who => who.wf
  | .peerWakePulse who => who.wf
  | .wakePulse => true
  | .wakeTimerExpiry => true
  | .partitionStart who cluster => who.wf && decide (cluster < 8)
  | .partitionReset who cluster => who.wf && decide (cluster < 8)
  | .partitionResetComplete part => decide (part < 8)
  | .l1dClean who cluster core => who.wf && decide (cluster < 8) && decide (core < 8)
  | .l1dCleanInvalidate who cluster core => who.wf && decide (cluster < 8) && decide (core < 8)
  | .l1iInvalidate who cluster core => who.wf && decide (cluster < 8) && decide (core < 8)
  | .clusterClean who cluster => who.wf && decide (cluster < 8)
  | .clusterCleanInvalidate who cluster => who.wf && decide (cluster < 8)
  | .cacheFillReturn cluster cache => decide (cluster < 8) && decide (cache < 17)
  | .victimWritebackAck cluster cache => decide (cluster < 8) && decide (cache < 17)
  | .cboOperation core _ addr => decide (core < 64) && decide (addr < 2 ^ 48)
  | .ewqDoorbell who queue tail => who.wf && decide (queue < 128) && decide (tail < 65536)
  | .ewqEnable who queue => who.wf && decide (queue < 128)
  | .ewqDisable who queue => who.wf && decide (queue < 128)
  | .ewqInvalidate who queue => who.wf && decide (queue < 128)
  | .ewqInvalidateDone queue => decide (queue < 128)
  | .ewqReset who queue => who.wf && decide (queue < 128)
  | .ewqCopy queue => decide (queue < 128)
  | .ewqParity queue => decide (queue < 128)
  | .ewqParityCheck queue => decide (queue < 128)
  | .ewqXtsEncrypt queue => decide (queue < 128)
  | .ewqXtsDecrypt queue => decide (queue < 128)
  | .ewqGcmEncrypt queue => decide (queue < 128)
  | .ewqGcmDecrypt queue => decide (queue < 128)
  | .ewqGmac queue => decide (queue < 128)
  | .ewqKeyCommand queue => decide (queue < 128)
  | .ewqDescriptorComplete queue _ => decide (queue < 128)
  | .ewqReadTimeout queue _ addr => decide (queue < 128) && decide (addr < 2 ^ 48)
  | .parityError _ _ addr _ => decide (addr < 2 ^ 48)
  | .recoveryComplete _ _ => true
  | .peerCopyRequest group nsid _ _ => decide (group < 8) && decide (nsid < 2 ^ 32)
  | .peerRestoreTimeout _ => true
  | .memorySweep _ _ _ => true
  | .bucketLeak => true
  | .minTestArm who _ => who.wf
  | .minTestExpiry => true
  | .watchdogRestart who _ => who.wf
  | .watchdogExpiry => true
  | .fltStep3Handover who => who.wf
  | .fltStep3 who => who.wf
  | .fltStep4 who => who.wf
  | .latchCopy => true
  | .startupEscalation => true
  | .positionMismatch => true
  | .pmcCounterPreset who counter _ => who.wf && decide (counter < 48)
  | .monitorWindowEnd monitor => decide (monitor < 16)
  | .monitorClear who monitor => who.wf && decide (monitor < 16)
  | .coreAccess core access => decide (core < 64) && access.wf
  | .entryStartConditionChange _ _ => true
  | .slotDebounceBreak slot => decide (slot < 48)
  | .peerSeated => true
  | .fastRetrainFail => true
  | .directLinkUp speed width _ => decide (speed < 8) && decide (width < 17)
  | .functionResetTimeout f => decide (f < 2)
  | .connectionReject idx => decide (idx < 131072)
  | .challengeExpiry => true
  | .handOverTimeout group => decide (group < 8)
  | .tokenRecordReadComplete _ => true
  | .cutInReread => true
  | .leadTokenTry group _ => decide (group < 8)
  | .deletedExtentDeallocate set _ => decide (set < 4)

end Sys2Proof
end

