-- ==== Sys2Proof/Tests/Slice0.lean ====
section
/-! SUPPORT. The package's own tests: every check of well-formedness refuses an ill-formed command, a few single steps, and for
each statement with hypotheses a concrete state and operands that meet them together, clause by clause. Where a clause names a
value the model leaves free (a cipher, a digest, random bytes), its witness assumes what that function answers. -/

namespace Sys2Proof.Tests
open Sys2Proof Sys2Proof.Machine
set_option maxRecDepth 20000
set_option Elab.async false
/-- A module that runs, at time 10^12 ns. -/
def on : State :=
  ((State.reset.onClock fun c => { c with heldInReset := false, timeNs := 10 ^ 12, current := 1000 }).onPower fun p => { p with on := true }).wr CLK_STAT.PLL_LOCK 1
/-- `Opens` as a value. -/
def opensB (s : State) (who : Requester) (a : Nat) : Bool :=
  (match s.reach a 4 with | .reached => true | _ => false) && (match findReg a with | some h => s.mayWrite who h | none => false)
theorem opens_of {s : State} {who : Requester} {a : Nat} (h : opensB s who a = true) : s.Opens who a := by
  unfold opensB at h
  rw [Bool.and_eq_true] at h
  obtain ⟨h1, h2⟩ := h
  constructor
  · cases e : s.reach a 4 <;> simp_all
  · cases e : findReg a with
    | none => simp_all
    | some x => exact ⟨x, rfl, by simp_all⟩
def okOf {α β : Type} (x : Except α β) (h : (match x with | .ok _ => true | .error _ => false) = true) : β :=
  match x, h with
  | .ok y, _ => y
theorem okOf_eq {α β : Type} (x : Except α β) (h : (match x with | .ok _ => true | .error _ => false) = true) : x = .ok (okOf x h) := by
  cases x with
  | ok y => rfl
  | error y => cases h
theorem plain_of (plain : ∀ iv i, Config.gcmStreamByte [] iv i = 0) (iv h p : Bytes) : Config.gcmEncrypt [] iv h p = p := by
  unfold Config.gcmEncrypt
  simp only [plain]
  exact (List.map_congr_left fun _ _ => BitVec.xor_zero).trans (List.zipIdx_map_fst 0 p)
theorem call_of (plain : ∀ iv i, Config.gcmStreamByte [] iv i = 0) {s : State} {slot tag : Nat} {c : McpCall} {m : McpSession} {r : McpRequest}
    (h0 : slot ≠ 0 := by decide) (h1 : s.session slot = some m := by decide +kernel) (h2 : m.requests.find? (·.tag == tag) = some r := by decide +kernel)
    (h3 : m.key = [] := by decide +kernel) (h4 : c = ⟨some m, m.bound, r.via, r.tag, r.opcode, r.seq, r.startedAt.isSome, r.timedOut, r.bytes, pktParams r.bytes⟩ := by decide +kernel) :
    s.call slot tag = some c := by
  subst h4
  unfold State.call
  rw [if_neg h0, h1]
  simp only [h2, h3, plain_of plain, Option.map_some]
def ctl1 : Controller := { cntlid := 1, hostId := 77, hostNqn := [], direct := false, enabled := true, ready := true, shst := 0, cc := 1, kato := 0, kaAt := 0, aers := [], aec := 0, queues := [(0, 5), (1, 6)], features := [], errors := [], changedNs := [] }
def key1 : CmdKey := ⟨1, 1, 9⟩
def ns1 : Namespace := { nsid := 1, group := 0, set := 0, blocks := 262144, lbaf := 0, configuredWb := true, writeBack := true, encrypted := true, extents := [0], attached := [1], formatting := false, resv := ⟨0, none, [], 0⟩, deleted := false, blob := [] }
def led : State := on.wr LTK_STAT.LEAD 1
def adm : State := led.onHost fun h => { h with controllers := [ctl1], namespaces := [ns1] }
def rec1 : ProgressRecord := ⟨5, 3, 0, 2, 1, 1, 4, 1, 0, 0, 0, 900⟩
def op1 (slot st : Nat) : LongOp := ⟨slot, st, rec1, some rec1, [1], [], none, false, false⟩
def memb : State := on.wrs [(QDL_MEM.VALID 0 2, 1), (QDL_MEM.SLOT 0 2, 3)]
def mop : MemberOp := ⟨7, 3, .write, 0, 0, 0, 0, 2, 0, 0, [], .parity, 0, 0, 0, 0, false, 0⟩


theorem okEq {α β : Type} [DecidableEq β] {x : Except α β} {y : β} (h : (match x with | .ok z => decide (z = y) | .error _ => false) = true) : x = .ok y := by
  cases x with
  | ok z => simp_all
  | error z => cases h
theorem hmac_of (mac : ∀ k m i, Config.hmacByte k m i = 0) (k m : Bytes) : Config.hmac k m = List.replicate 48 0 :=
  (congrArg (Config.bytesOf 48) (funext (mac k m))).trans (by decide)
theorem sha_of (sha : ∀ b i, Config.sha384Byte b i = 0) (b : Bytes) : Config.sha384 b = List.replicate 48 0 :=
  (congrArg (Config.bytesOf 48) (funext (sha b))).trans (by decide)
theorem digest_of (sha : ∀ b i, Config.sha384Byte b i = 0) {b : Bytes} {p : Proposal} (h : b = List.replicate 48 0) : b = p.digest := by
  rw [h, Proposal.digest, sha_of sha]
theorem setup_ne (sha : ∀ b i, Config.sha384Byte b i = 0) {l : List GuardedObject} : ([1] : Bytes) ≠ setupDigest l := by
  rw [setupDigest, sha_of sha]
  decide
/-- A byte run that begins with 1, the rest 0. -/
def one (i : Nat) : Byte := if i = 0 then 1 else 0
theorem random_halves (rnd : ∀ d i, Config.randomByte d i = one i) {s : State} : halvesEqual (s.random 64).1 = false := by
  have h : (s.random 64).1 = Config.bytesOf 64 one := congrArg (Config.bytesOf 64) (funext (rnd s.draws))
  rw [h]
  decide
theorem unwrap_of (ver : ∀ k w, Config.kwVerifies k w = true) (unwrap : ∀ k w i, Config.kwUnwrapByte k w i = one i) (k w : Bytes) {n : Nat}
    (h : w.length - 8 = n) : Config.kwUnwrap k w = some (Config.bytesOf n one) := by
  unfold Config.kwUnwrap
  rw [if_pos (ver k w), h]
  exact congrArg (fun f => some (Config.bytesOf n f)) (funext (unwrap k w))
theorem opened (ver : ∀ k w, Config.kwVerifies k w = true) (unwrap : ∀ k w i, Config.kwUnwrapByte k w i = one i) {s : State} {b : Bytes} {kind gen owner : Nat}
    (h : leNat (b.take 1) = kind ∧ leNat ((b.drop 2).take 2) = gen ∧ leNat ((b.drop 4).take 4) = owner)
    (h' : (s.blobKek kind gen owner).isSome = true ∧ ((b.drop 8).take (if kind = 2 then 40 else 72)).length = 72) :
    s.openBlob b = some (kind, gen, owner, Config.bytesOf 64 one) := by
  obtain ⟨rfl, rfl, rfl⟩ := h
  obtain ⟨h1, h2⟩ := h'
  obtain ⟨k, h1⟩ := Option.isSome_iff_exists.mp h1
  unfold State.openBlob
  simp only [h1, unwrap_of ver unwrap _ _ (n := 64) (by rw [h2]), Option.map_some]
theorem crc_of (crc : ∀ b, Config.crc32c b = 0) {b : Bytes} {n : Nat} (h : n = 0) : Config.crc32c b = BitVec.ofNat 32 n := by
  rw [crc, h]
  rfl
theorem get3 {α β γ : Type} (x : Option (α × β × γ)) (h : x.isSome = true) : x = some ((x.get h).1, (x.get h).2.1, (x.get h).2.2) := (Option.some_get h).symm
theorem gcmTag_of (tag : ∀ k iv h p i, Config.gcmTagByte k iv h p i = 0) (k iv h p : Bytes) : Config.gcmTag k iv h p = List.replicate 16 0 :=
  (congrArg (Config.bytesOf 16) (funext (tag k iv h p))).trans (by decide)
/-- `State.answeredReads` where every tag is 16 zero bytes. -/
def answeredZ (s : State) (g : Nat) (l : List TokenRead) : List TokenRead :=
  s.witnesses.filterMap fun w => l.find? fun r => r.group == g && r.witness == w.1 &&
    ((List.replicate 16 0 == (r.block.drop 64).take 16) && numAt r.block 0 1 == 1 && numAt r.block 1 1 == r.group && numAt r.block 48 16 == s.link.serial)
theorem answered_of (tag : ∀ k iv h p i, Config.gcmTagByte k iv h p i = 0) (s : State) (g : Nat) (l : List TokenRead) :
    s.answeredReads g l = answeredZ s g l := by
  unfold State.answeredReads State.tokenGood State.tokenTagOk
  simp only [gcmTag_of tag]
  rfl
/-- A token record read from the three witnesses. -/
def reads3 (r : TokenRecord) : List TokenRead := (List.range 3).map fun w => ⟨0, w, padTo 128 (tokenHead r 0 0)⟩

/-- A drive that passes every check. -/
def drive : DriveReport := ⟨true, true, true, 4096, 16, 1, 64, 0, true, true, true, true, true, 2 ^ 30⟩

def mrq (op : Nat) (p : Bytes) : McpRequest := ⟨1, 4, op, packetHeader 1 1 0x108 1 4 op 0 p.length ++ p, 0, none, false⟩
def ms (op : Nat) (p : Bytes) : McpSession := ⟨8, 1, 1, ⟨5, 0⟩, [], 1, 0, [mrq op p], [], 0, 0⟩
def mc (op : Nat) (p : Bytes) : McpCall := ⟨some (ms op p), ⟨5, 0⟩, 0, 4, op, 1, false, false, (mrq op p).bytes, p⟩
def mg (op : Nat) (p : Bytes) : State := on.onMcp fun m => { m with sessions := [ms op p] }
def pl (op : Nat) (p : Bytes) : McpCall := ⟨none, ⟨5, 0⟩, 0, 4, op, 0, false, false, packetHeader 1 0 0 0 4 op 0 p.length ++ p, p⟩
def pg (op : Nat) (p : Bytes) : State := on.onMcp fun m => { m with plain := [⟨⟨5, 0⟩, 4, op, packetHeader 1 0 0 0 4 op 0 p.length ++ p, 0⟩], challenges := [⟨List.replicate 32 9, on.now⟩] }
def sp : Bytes := [1, 0, 0, 0] ++ List.replicate 32 9 ++ List.replicate 128 0 ++ List.replicate 48 0
def m9 : McpSession := ⟨9, 1, 1, ⟨5, 0⟩, [], 1, 0, [], [], 0, 0⟩

namespace Ill
def en1 : IoEntry := ⟨key1, 1, 0, none, []⟩
def ea : AdminEntry := ⟨key1, none, []⟩
def rg : IoRange := ⟨⟨8, 4⟩, false, 0, 0, 0⟩
def cr : ConnectRequest := ⟨0, 1, 32, 32, 3, 4, 7, 1, 2, 0, 0, 4420, false, 1, 2, 3, 4, 0, 0, 5⟩
def fo : FrameOffer := ⟨0, 0, [7], 0, 0, 0, 0, false, .other, [], none, 0, 0, false, 0, none, none⟩
def fh : FrameHead := ⟨0, true, false, 0, 0, 0, 0, 0, 0⟩
def ac : CoreAccess := ⟨.load, 0x2008, 8, []⟩
def bw : Requester := .partition 8
def bk : CmdKey := ⟨1, 65536, 9⟩
def bd : AdminEntry := { ea with key := bk }
def be : IoEntry := { en1 with fuse := 4 }
def br : IoRange := { rg with lbat := 65536 }
def bc : ConnectRequest := { cr with tgrp := 63 }
def bf : FrameOffer := { fo with dests := [(12, 0)] }
def bh : FrameHead := { fh with win := 64 }
def ba : McpAddress := ⟨6, 0⟩
def bx : CoreAccess := { ac with addr := 0x2039 }
/-- One operand of each stands outside its range (1 of 5). -/
theorem test_illFormed1 : ([
    .flush { en1 with key := ⟨65536, 1, 9⟩ }, .flush { en1 with key := ⟨1, 1, 65536⟩ }, .flush { en1 with nsid := 2 ^ 32 },
    .read en1 { rg with range := ⟨2 ^ 64 - 3, 4⟩ }, .read en1 { rg with prchk := 8 }, .read en1 { rg with lbatm := 65536 },
    .coreAccess 0 { ac with len := 0 }, .coreAccess 0 ⟨.load, 2 ^ 48 - 4, 8, []⟩, .coreAccess 0 { ac with kind := .store },
    .linkAckReceived { fh with group := 256 } true [], .linkAckReceived { fh with key := 65536 } true [], .frameAdmission { fo with src := 12 },
    .frameAdmission { fo with lane := 8 }, .frameAdmission { fo with cls := 8 }, .frameAdmission { fo with content := [] }, .frameAdmission { fo with flow := 2 ^ 18 }, .frameAdmission { fo with flow := 131080, ordered := true },
    .frameAdmission { fo with psn := some (2 ^ 24) },
    .connectionRequest { cr with port := 4 }, .connectionRequest { cr with lane := 8 }, .connectionRequest { cr with rqpn := 2 ^ 24 },
    .connectionRequest { cr with hostPsn := 2 ^ 24 }, .connectionRequest { cr with ownPsn := 2 ^ 24 },
    .connectionRequest { cr with remoteIp := 2 ^ 128 }, .connectionRequest { cr with localIp := 2 ^ 128 },
    .connectionRequest { cr with remoteMac := 2 ^ 48 }, .connectionRequest { cr with udpSport := 2 ^ 16 }, .connectionRequest { cr with dscp := 64 },
    .connectionRequest { cr with tclass := 8 }, .plainRegisterWrite bw 0 4 0, .plainRegisterWrite .ronhenko (2 ^ 48) 4 0,
    .plainRegisterWrite .ronhenko 0 3 0, .rcRegisterRead bw 0 4, .rcRegisterRead .ronhenko (2 ^ 48) 4, .rcRegisterRead .ronhenko 0 3,
    .lowWordRead bw 0, .lowWordRead .ronhenko (2 ^ 48), .unassignedBlockAccess bw 0 true, .unassignedBlockAccess .ronhenko (2 ^ 48) true,
    .directHostRegisterAccess (2 ^ 24) true 0, .offDomainAccess bw 0 true, .offDomainAccess .ronhenko (2 ^ 48) true, .registerRead 256 0,
    .registerRead 0 65536, .registerWrite 256 0, .registerWrite 0 65536, .rwtFieldWrite bw 0 0, .rwtFieldWrite .ronhenko (2 ^ 48) 0,
    .measStepRequest bw 0, .measSrcWrite 16, .flush be, .write be rg .remote, .write en1 br .remote, .read be rg, .read en1 br,
    .compare be rg .remote, .compare en1 br .remote, .writeZeroes be rg, .writeZeroes en1 br, .datasetManagement be [⟨8, 4⟩] true,
    .datasetManagement en1 [⟨8, 0⟩] true, .verify be rg, .verify en1 br, .reservationRegister be 0 0 0, .reservationReport be true,
    .reservationAcquire be 0 0 0 0, .reservationRelease be 0 0 0, .copy be [⟨8, 4⟩] 0, .copy en1 [⟨8, 0⟩] 0, .unknownIoOpcode be,
    .commandSlotGrant bk, .rangeLockGrant bk, .dirtyRoomGrant bk, .stripPost 4 0, .readDurableResume bk, .getLogPage bd 0 0 0 0,
    .getLogPage ea (2 ^ 32) 0 0 0, .getLogPage ea 0 256 0 0, .identify bd 0 0 0, .identify ea 256 0 0, .identify ea 0 (2 ^ 32) 0, .abort bk,
    .setFeatures bd 0 true 0 0, .setFeatures ea 256 true 0 0, .setFeatures ea 0 true (2 ^ 32) 0, .getFeatures bd 0 0 0, .getFeatures ea 256 0 0,
    .getFeatures ea 0 8 0, .getFeatures ea 0 0 (2 ^ 32), .asynchronousEventRequest bk, .namespaceManagementCreate bd 0 0 0 0,
    .namespaceManagementDelete bk 0, .namespaceManagementDelete key1 (2 ^ 32), .adminCommandForward bk 0 0, .firmwareImageDownload bd 0 [],
    .firmwareCommitStore bk 0 0, .firmwareCommitStore key1 8 0, .firmwareCommitStore key1 0 3, .firmwareCommitStoreNext bk 0, .firmwareCommitStoreNext key1 8, .firmwareCommitMark bk 0,
    .firmwareCommitMark key1 8, .firmwareCommitActivate bk 0, .firmwareCommitActivate key1 8] : List Instr).all (fun c => !c.wf) = true := by decide +kernel
/-- One operand of each stands outside its range (2 of 5). -/
theorem test_illFormed2 : ([
    .namespaceAttach bd 0 [], .namespaceAttach ea (2 ^ 32) [], .namespaceDetach bd 0 [], .namespaceDetach ea (2 ^ 32) [], .keepAlive bk,
    .propertyGet bk 0 0, .propertySet bk 0 0 0, .authenticationSend bd [], .authenticationReceive bd 0, .formatNvm bk 0 0 0 0,
    .formatNvm key1 (2 ^ 32) 0 0 0, .sanitizeExitFailureMode bk, .sanitizeBlockErase bk true, .sanitizeOverwrite bk true true 0 0,
    .sanitizeOverwrite key1 true true 17 0, .sanitizeOverwrite key1 true true 0 (2 ^ 32), .sanitizeCryptoErase bk true, .walkUnitComplete 16 0 true,
    .progressRecordDurable 16 0, .walkResume 16 [], .connectionRequest bc, .readyToUse 131072, .connectingTimeout 131072, .disconnectRequest 131072,
    .queuePairDrained 131072, .inboundRequest (2 ^ 24) 0 .sendOnly true true [], .inboundRequest 0 (2 ^ 24) .sendOnly true true [],
    .inboundRdmaWrite (2 ^ 24) 0 .only 0 0 0 true true [], .inboundRdmaWrite 0 (2 ^ 24) .only 0 0 0 true true [],
    .inboundRdmaWrite 0 0 .only (2 ^ 32) 0 0 true true [], .inboundRdmaWrite 0 0 .only 0 (2 ^ 64) 0 true true [],
    .inboundRdmaWrite 0 0 .only 0 0 (2 ^ 32) true true [],
    .rdmaReadResponse (2 ^ 24) 0 true true [], .rdmaReadResponse 0 (2 ^ 24) true true [], .readTrackerGrant 131072, .ackReceived (2 ^ 24) 0,
    .ackReceived 0 (2 ^ 24), .nakReceived (2 ^ 24) 0 .rnr, .nakReceived 0 (2 ^ 24) .rnr, .ackTimeout 131072, .rnrTimerExpiry 131072,
    .cnpReceived (2 ^ 24), .rateStepTimer 131072, .evictionWritebackComplete true 0 131072, .qpcDoorbell bw 0 0, .qpcDoorbell .ronhenko 131072 0,
    .qpcDoorbell .ronhenko 0 65536, .workRequestComplete 131072, .qpcCreate bw, .qpcRead bw, .qpcDestroy bw, .qpcFlush bw, .qpcPin bw, .qpcUnpin bw,
    .frameAdmission bf, .pfcPauseReceived 4 0 0 0, .pfcPauseReceived 0 8 0 0, .pfcPauseReceived 0 0 8 0, .pfcPauseReceived 0 0 0 65536,
    .pauseExpiry 4 0 0, .pauseExpiry 0 8 0, .pauseExpiry 0 0 8, .pfcWatchdogExpiry 4 0 0, .pfcWatchdogExpiry 0 8 0, .pfcWatchdogExpiry 0 0 8,
    .pfcWatchdogEnd 4 0 0, .pfcWatchdogEnd 0 8 0, .pfcWatchdogEnd 0 0 8, .epochArm bw 0, .ftWriteShadow bw 0, .ftWriteShadow .ronhenko 1024,
    .ftReadActive bw 0, .ftReadActive .ronhenko 1024, .ftReadShadow bw 0, .ftReadShadow .ronhenko 1024, .laneFrameStart 4 0,
    .laneFrameStart 0 8, .gateEntryChange 4, .gateSwitchoverArm bw 0 0, .gateSwitchoverArm .ronhenko 4 0, .wheelSlotChange 4, .figWriteNext bw 0 0,
    .figWriteNext .ronhenko 4 0, .figWriteNext .ronhenko 0 4096, .figReadActive bw 0 0, .figReadActive .ronhenko 4 0, .figReadActive .ronhenko 0 4096,
    .figReadNext bw 0 0, .figReadNext .ronhenko 4 0, .figReadNext .ronhenko 0 4096, .stripeClose 4 0, .stripeIdleTimeout 4 0, .journalBlockWrite 4,
    .journalRecovery 4 [] [], .setAssembly 4, .memberFailed 4 0, .memberFailed 0 64, .rebuildStep 4, .rebuildStepComplete 4 0, .lostMapDurable 4 0 0,
    .lostMapDurable 0 0 64] : List Instr).all (fun c => !c.wf) = true := by decide +kernel
/-- One operand of each stands outside its range (3 of 5). -/
theorem test_illFormed3 : ([
    .journalRehome 4 0, .repairStep 4 0 0 0, .repairStep 0 0 64 0, .repairStep 0 0 0 4096, .scrubStep 4 0, .replacementAccept 4 0,
    .replacementAccept 0 64, .copyBackStep 4, .promenadeStart bw 0, .promenadeStart .ronhenko 4, .setCreate bw 0, .setCreate .ronhenko 4,
    .setDelete bw 0, .setDelete .ronhenko 4, .promenadeMoveStart (2 ^ 32) 0, .promenadeCopyPassEnd (2 ^ 32) 0, .promenadeCatchupDone (2 ^ 32) 0,
    .promenadeOldRangeFree (2 ^ 32) 0, .promenadeFinalEpoch 4, .promenadeDrainDone 4, .nrgTestRequest bw, .restoreInstall 8 [], .linkEnable bw 0,
    .linkAckReceived bh true [], .mirrorCopyReceived bh ⟨1, 0, 0, [], false⟩, .windowWriteReceived bh [], .messageReceived bh [],
    .stateCopyReceived bh ⟨0, 0, ⟨0, 0, 0, 0, 0, 0⟩, 0, false, false, [], []⟩ true, .commitMarkerReceived bh [], .commitReceived bh,
    .resendRequestReceived bh, .resumeReceived bh ⟨0, 0, 0, 0, 0, 0⟩, .messageSendPost bw 0 0, .messageSendPost .ronhenko 16 0,
    .messageSendPost .ronhenko 0 256, .messageReceivePost bw 0 0, .messageReceivePost .ronhenko 16 0, .messageReceivePost .ronhenko 0 256,
    .messageWithdraw 16, .renewalComplete 8 [] [], .leaseExpiry 8, .standbySelfTest 8 [] [] [], .handOver 8,
    .handOverGranted 8 [], .handBack 8, .witnessReplace 5 [], .ltkHandOverGroup bw 0, .ltkHandOverGroup .ronhenko 8,
    .ltkHandOverAll bw, .ltkReleaseGroup bw 0, .ltkReleaseGroup .ronhenko 8, .ltkAcquireGroup bw 0, .ltkAcquireGroup .ronhenko 8, .ltkRunSelfTest bw,
    .presenceChange 48, .slotDebounceEnd 48, .slotPoweringEnd 48, .slotLinkUp 48 ⟨5, 4, true, true⟩, .slotTrainingTimeout 48,
    .slotCheckComplete 48 drive, .attentionPress 48 true, .removalTimerEnd 48, .containment 48 0, .surpriseRemoval 48, .peerSlotEvent 48 .entersOff,
    .slotPowerOn bw 0, .slotPowerOn .ronhenko 48, .slotOff bw 0, .slotOff .ronhenko 48, .slotForcedOff bw 0, .slotForcedOff .ronhenko 48,
    .slotRetrain bw 0, .slotRetrain .ronhenko 48, .slotPrepare bw 0 true true, .slotPrepare .ronhenko 48 true true, .sidebandPoll 48 none,
    .configRequest 2 0 true 0 0, .configRequest 0 4096 true 0 0, .configRequest 0 0 true 0 16, .barAccess (2 ^ 64) 4 true 0, .barAccess 0 3 true 0,
    .sqDoorbell 129 0 0, .sqDoorbell 0 65536 0, .busMasterEnableClear 2, .busMasterEnableSet 2, .functionLevelReset 2, .flrTimeout 2, .d3hotEntry 2,
    .d0Return 2, .functionQuiesced 2, .keyGenerate bw 0, .keyGenerate .ronhenko 16384, .keyUnwrap bw 0, .keyUnwrap .ronhenko 16384, .keyZeroise bw 0,
    .keyZeroise .ronhenko 16384, .keyDerivePair bw, .kekRatchet bw, .highWaterLoad bw 0, .highWaterLoad .ronhenko 16384] : List Instr).all (fun c => !c.wf) = true := by decide +kernel
/-- One operand of each stands outside its range (4 of 5). -/
theorem test_illFormed4 : ([
    .slotStatusRead bw 0, .slotStatusRead .ronhenko 16384, .kekImport bw, .mcpPacketReceived ba 0 [] none, .mcpReqDoorbell bw 0,
    .mcpReqDoorbell .ronhenko 16, .mcpRplRdyClear bw 0, .mcpRplRdyClear .ronhenko 16, .mcpNtcTailWrite bw 0, .mcpNtcTailWrite .ronhenko 65536,
    .fragmentTimeout ba 0, .getIdentity 65536, .getChallenge 65536, .getEntryRecord 65536, .sessionOpen 65536, .sessionReset 256 0,
    .sessionReset 0 65536, .sessionList 256 0, .sessionList 0 65536, .noticeSubscribe 256 0, .noticeSubscribe 0 65536, .getNotices 256 0,
    .getNotices 0 65536, .moduleStatus 256 0, .moduleStatus 0 65536, .logPageRead 256 0, .logPageRead 0 65536, .faultRecordsRead 256 0,
    .faultRecordsRead 0 65536, .longOperationStatus 256 0, .longOperationStatus 0 65536, .leadCommand 256 0, .leadCommand 0 65536,
    .slotCommand 256 0 true true, .slotCommand 0 65536 true true, .layoutCommand 256 0, .layoutCommand 0 65536, .moduleReset 256 0,
    .moduleReset 0 65536, .powerCycle 256 0, .powerCycle 0 65536, .setPowerState 256 0 none, .setPowerState 0 65536 none, .shelfBudget 256 0,
    .shelfBudget 0 65536, .firmwareDownload 256 0, .firmwareDownload 0 65536, .mcpFirmwareCommit 256 0, .mcpFirmwareCommit 0 65536,
    .groupPolicy 256 0, .groupPolicy 0 65536, .setMeasureLength 256 0, .setMeasureLength 0 65536, .twoStepPropose 256 0,
    .twoStepPropose 0 65536, .twoStepConfirm 256 0, .twoStepConfirm 0 65536, .twoStepWithdraw 256 0, .twoStepWithdraw 0 65536, .twoStepStatus 256 0,
    .twoStepStatus 0 65536, .sessionIdleTimeout 256, .requestTimeout 256 0, .requestTimeout 0 65536, .spdmGetVersion ba, .spdmGetCapabilities ba,
    .spdmNegotiateAlgorithms ba, .spdmGetDigests ba, .spdmGetCertificate ba 0 0 0, .spdmGetCertificate ⟨2, 77⟩ 256 0 0, .spdmChallenge ba [],
    .spdmGetMeasurements ba [], .avsAck 8, .avsTimeout 8, .domainIdleGate 155 .accept, .domainIdleOff 155 .accept, .handshakeDelayExpiry 155 .accept,
    .domainWake 155, .pwrWakeDomain bw 0, .pwrWakeDomain .ronhenko 155, .pwrPowerOffDomain bw 0 .accept, .pwrPowerOffDomain .ronhenko 155 .accept,
    .pwrEnterDormant bw none, .analogSample 32 0, .digitalInputChange 128 true, .ruleCtlWrite bw 0 0, .ruleCtlWrite .ronhenko 64 0, .cycleArm bw,
    .cycleGo bw, .peerWakePulse bw, .partitionStart bw 0, .partitionStart .ronhenko 8, .partitionReset bw 0, .partitionReset .ronhenko 8,
    .partitionResetComplete 8, .l1dClean bw 0 0, .l1dClean .ronhenko 8 0, .l1dClean .ronhenko 0 8, .l1dCleanInvalidate bw 0 0,
    .l1dCleanInvalidate .ronhenko 8 0] : List Instr).all (fun c => !c.wf) = true := by decide +kernel
/-- One operand of each stands outside its range (5 of 5). -/
theorem test_illFormed5 : ([
    .l1dCleanInvalidate .ronhenko 0 8, .l1iInvalidate bw 0 0, .l1iInvalidate .ronhenko 8 0, .l1iInvalidate .ronhenko 0 8, .clusterClean bw 0,
    .clusterClean .ronhenko 8, .clusterCleanInvalidate bw 0, .clusterCleanInvalidate .ronhenko 8, .cacheFillReturn 8 0, .cacheFillReturn 0 17,
    .victimWritebackAck 8 0, .victimWritebackAck 0 17, .cboOperation 64 .clean 0, .cboOperation 0 .clean (2 ^ 48), .ewqDoorbell bw 0 0,
    .ewqDoorbell .ronhenko 128 0, .ewqDoorbell .ronhenko 0 65536, .ewqEnable bw 0, .ewqEnable .ronhenko 128, .ewqDisable bw 0,
    .ewqDisable .ronhenko 128, .ewqInvalidate bw 0, .ewqInvalidate .ronhenko 128, .ewqInvalidateDone 128, .ewqReset bw 0, .ewqReset .ronhenko 128,
    .ewqCopy 128, .ewqParity 128, .ewqParityCheck 128, .ewqXtsEncrypt 128, .ewqXtsDecrypt 128, .ewqGcmEncrypt 128, .ewqGcmDecrypt 128, .ewqGmac 128,
    .ewqKeyCommand 128, .ewqDescriptorComplete 128 0, .ewqReadTimeout 128 0 0, .ewqReadTimeout 0 0 (2 ^ 48), .parityError .lostMap .sweep (2 ^ 48) 0,
    .peerCopyRequest 8 0 0 0, .peerCopyRequest 0 (2 ^ 32) 0 0, .minTestArm bw 0, .watchdogRestart bw 0, .fltStep3Handover bw, .fltStep3 bw,
    .fltStep4 bw, .pmcCounterPreset bw 0 0, .pmcCounterPreset .ronhenko 48 0, .monitorWindowEnd 16, .monitorClear bw 0, .monitorClear .ronhenko 16,
    .coreAccess 64 ac, .coreAccess 0 bx, .slotDebounceBreak 48, .directLinkUp 8 4 true, .directLinkUp 0 17 true, .functionResetTimeout 2,
    .connectionReject 131072, .handOverTimeout 8, .leadTokenTry 8 [], .deletedExtentDeallocate 4 0,
    .flush { en1 with sgl := List.replicate 17 ⟨0, 1, 0⟩ }, .flush { en1 with sgl := [⟨2 ^ 64, 1, 0⟩] }, .flush { en1 with sgl := [⟨0, 2 ^ 24, 0⟩] },
    .flush { en1 with sgl := [⟨0, 1, 2 ^ 32⟩] }, .identify { ea with sgl := [⟨0, 1, 2 ^ 32⟩] } 0 0 0, .walkResume 0 [⟨4, []⟩],
    .frameReadComplete 0 none 41, .lostMapWrite 512 [], .linkAckReceived fh true [(16, 0)], .linkAckReceived fh true [(0, 257)],
    .mcpPacketReceived ⟨2, 77⟩ 128 [] none, .formatNvm key1 0 64 0 0, .formatNvm key1 0 0 8 0, .formatNvm key1 0 0 0 8,
    .coreAccess 0 ⟨.counter, 11, 8, []⟩, .coreAccess 0 ⟨.counter, 0, 4, []⟩] : List Instr).all (fun c => !c.wf) = true := by decide +kernel
/-- The same shapes with every operand in range. -/
theorem test_wellFormed : ([
    .plainRegisterWrite .ronhenko 0 4 0, .registerRead 0 0, .write en1 rg .remote, .copy en1 [⟨8, 4⟩] 0, .identify ea 0 0 0,
    .getFeatures ea 0 0 0, .sanitizeOverwrite key1 true true 0 0, .connectionRequest cr, .inboundRdmaWrite 0 0 .only 0 0 0 true true [],
    .qpcDoorbell .ronhenko 0 0, .frameAdmission fo, .pfcPauseReceived 0 0 0 0, .repairStep 0 0 0 0, .messageReceived fh [],
    .messageSendPost .ronhenko 0 0, .slotPrepare .ronhenko 0 true true, .barAccess 0 4 true 0, .mcpPacketReceived ⟨2, 77⟩ 0 [] none,
    .domainIdleOff 0 .accept, .l1dClean .ronhenko 0 0, .cacheFillReturn 0 0, .ewqReadTimeout 0 0 0, .peerCopyRequest 0 0 0 0, .coreAccess 0 ac,
    .directLinkUp 0 4 true] : List Instr).all Instr.wf = true := by decide +kernel
end Ill

/-- Witnesses for `Obligations.StepOfEmptyQueueIsOneCycle`, `ExecKeepsQueueAndOutputs`, `StepKeepsCanonicalForm` and
`HeldModuleIgnoresSocCommands`. -/
theorem witness_stepOfEmptyQueueIsOneCycle :
    (∃ (s : State), s.pending = [] ∧ (s.gridRuns = true → s.tick.now < (s.measure + 1) * s.measureNs) ∧ (s.clock.windowOpen = true → s.tick.now < s.clock.windowEnd)) ∧
    (∃ (s : State), s.pending = [] ∧ s.running = true ∧ s.gridRuns = true ∧ (s.measure + 1) * s.measureNs ≤ s.tick.now) :=
  ⟨⟨on, by decide +kernel⟩,
  ⟨on.wr MEAS_CTL.RUN 1, by decide +kernel⟩⟩
theorem witness_execKeepsQueueAndOutputs : ∃ c s t, exec c s = .next t ∧ s.pending ≠ [] :=
  ⟨.measRunSet, { on with pending := [.coldReset] }, _, rfl, by decide +kernel⟩
theorem witness_stepKeepsCanonicalForm : ∃ s t, s.Canonical ∧ step s = .next t ∧ s.mem ≠ [] :=
  ⟨{ on with pending := [.measRunSet], mem := [⟨64, 3⟩] }, _, ⟨by decide +kernel, by decide +kernel⟩, rfl, by decide +kernel⟩
theorem witness_heldModuleIgnoresSocCommands : ∃ c, ∃ s : State, s.running = false ∧ Instr.reachesAlwaysOn c = false :=
  ⟨.measRunSet, on.onClock fun c => { c with heldInReset := true }, by decide +kernel⟩

/-- Witnesses for `Obligations.RegisterAccessesComplete`: every clause's hypotheses hold together. -/
theorem witness_registerAccessesComplete :
    (∃ (s : State) (who : _) (a : _) (h : _), s.running = true ∧ s.clock.windowOpen = false ∧ s.Opens who a ∧ findReg a = some h ∧ s.writeIgnored h = false ∧ s.writeBlocked h = false ∧ a ≠ MIN_LEAK.addr) ∧
    (∃ (s : State) (who : _), s.running = true ∧ s.clock.windowOpen = false ∧ s.Opens who MIN_LEAK.addr) ∧
    (∃ (s : State) (who : _) (a : _) (h : _), s.running = true ∧ s.clock.windowOpen = false ∧ s.reach a 4 = .reached ∧ findReg a = some h ∧ s.mayRead who h = true) ∧
    (∃ (s : State) (who : _) (a : _) (h : _), s.running = true ∧ s.clock.windowOpen = false ∧ s.reach a 4 = .reached ∧ findReg a = some h ∧ s.mayRead who h = true ∧ h.row.wide = true ∧ h.high = false ∧ (h.row.fields.any (fun f => f.acc == .wo) = false)) ∧
    (∃ (s : State) (a : _), s.running = true ∧ assigned a = false) ∧
    (∃ (s : State) (a : _) (b : _) (d : _), s.running = true ∧ s.clock.windowOpen = false ∧ s.reach a 4 = .off b d) ∧
    (∃ (s : State) (a : _) (b : _) (d : _), s.running = true ∧ s.clock.windowOpen = false ∧ s.reach a 4 = .off b d ∧ findReg a = none) ∧
    (∃ (s : State) (who : _) (a : _), s.running = true ∧ s.clock.windowOpen = false ∧ s.Opens who a) :=
  ⟨⟨on, Requester.ronhenko, MEAS_OFFS.addr, (findReg MEAS_OFFS.addr).get (by decide +kernel), by decide +kernel, by decide +kernel, (opens_of (by decide +kernel)), (Option.some_get _).symm, by decide +kernel⟩,
  ⟨on, Requester.ronhenko, by decide +kernel, by decide +kernel, opens_of (by decide +kernel)⟩,
  ⟨on, Requester.ronhenko, MEAS_OFFS.addr, (findReg MEAS_OFFS.addr).get (by decide +kernel), by decide +kernel, by decide +kernel, by decide +kernel, (Option.some_get _).symm, by decide +kernel⟩,
  ⟨on, Requester.ronhenko, MEAS_TIME.addr, (findReg MEAS_TIME.addr).get (by decide +kernel), by decide +kernel, by decide +kernel, by decide +kernel, (Option.some_get _).symm, by decide +kernel⟩,
  ⟨on, 0x00F000F00000, by decide +kernel⟩,
  ⟨on.wr (domainField 129) 1, 0x00F000240004, 0x24, 129, by decide +kernel⟩,
  ⟨on.wr (domainField 129) 1, 0x00F00024FF00, 0x24, 129, by decide +kernel⟩,
  ⟨on, Requester.ronhenko, MEAS_OFFS.addr, by decide +kernel, by decide +kernel, (opens_of (by decide +kernel))⟩⟩

namespace DirectAndManagementRegisterAccessesComplete
def ent : Bytes := leBytes 4 0xF ++ List.replicate 100 0
def dh : State := { on with two := { on.two with objects := [⟨2, 4094 + on.cfg.position, ent, 1⟩] } }
def bh : State := ((on.wr DPT_STAT.UP 1).wrs [(DPT_FSTAT.STATE 0, fnIdle)]).onDirect fun d => { d with fn0 := { d.fn0 with cfg := [(4, 2), (0x10, 0x10000)] } }
/-- Witnesses for `Obligations.DirectAndManagementRegisterAccessesComplete`: every clause's hypotheses hold together. -/
theorem witness_directAndManagementRegisterAccessesComplete (plain : ∀ iv i, Config.gcmStreamByte [] iv i = 0) :
    (∃ (s : State) (off : _), s.running = true ∧ s.clock.windowOpen = false ∧ off % 4 = 0 ∧ off < 0x1000000 ∧ s.reach (0x00F000000000 + off) 4 = .reached ∧ bitOf s.directRights 2 = true) ∧
    (∃ (s : State) (off : _), s.running = true ∧ s.clock.windowOpen = false ∧ off % 4 = 0 ∧ off < 0x1000000 ∧ s.reach (0x00F000000000 + off) 4 = .reached ∧ bitOf s.directRights 2 = true ∧ bitOf s.directRights 3 = true ∧ holdsRwt (0x00F000000000 + off) = false ∧ managementMayWrite (0x00F000000000 + off) = true) ∧
    (∃ (s : State) (a : _) (f : _) (bar : _) (place : _), s.running = true ∧ s.clock.windowOpen = false ∧ s.flag DPT_STAT.UP = true ∧ s.barHit a = some (f, bar, place) ∧ ¬(f = 1 ∧ bar = 0x18) ∧ place % 4 = 0) ∧
    (∃ (s : State) (slot : _) (tag : _) (c : _) (a : _) (n : _), s.running = true ∧ s.clock.windowOpen = false ∧ s.Requests slot tag 0x100 c ∧ registerSpan c.params 1008 = .ok (a, n)) ∧
    (∃ (s : State) (slot : _) (tag : _) (c : _) (a : _) (n : _), s.running = true ∧ s.clock.windowOpen = false ∧ s.Requests slot tag 0x200 c ∧ registerSpan c.params 64 = .ok (a, n) ∧ (List.range n).all (fun i => !holdsRwt (a + 4 * i)) = true ∧ (List.range n).all (fun i => managementMayWrite (a + 4 * i)) = true) :=
  ⟨⟨dh, 0x20024, by decide +kernel⟩,
  ⟨dh, 0x20024, by decide +kernel⟩,
  ⟨bh, 0x10000, 0, 0x10, 0, by decide +kernel⟩,
  ⟨mg 0x100 [2, 0, 0, 0, 1, 0, 0, 0], 8, 4, mc 0x100 [2, 0, 0, 0, 1, 0, 0, 0], (okOf (registerSpan (mc 0x100 [2, 0, 0, 0, 1, 0, 0, 0]).params 1008) (by decide +kernel)).1, (okOf (registerSpan (mc 0x100 [2, 0, 0, 0, 1, 0, 0, 0]).params 1008) (by decide +kernel)).2, by decide +kernel, by decide +kernel, ⟨call_of plain (m := ms 0x100 [2, 0, 0, 0, 1, 0, 0, 0]) (r := mrq 0x100 [2, 0, 0, 0, 1, 0, 0, 0]), by decide +kernel, by decide +kernel, by decide +kernel, by decide +kernel, by decide +kernel⟩, (okOf_eq _ (by decide +kernel))⟩,
  ⟨mg 0x200 [2, 0, 0, 0, 1, 0, 0, 0, 1, 0, 0, 0], 8, 4, mc 0x200 [2, 0, 0, 0, 1, 0, 0, 0, 1, 0, 0, 0], (okOf (registerSpan (mc 0x200 [2, 0, 0, 0, 1, 0, 0, 0, 1, 0, 0, 0]).params 64) (by decide +kernel)).1, (okOf (registerSpan (mc 0x200 [2, 0, 0, 0, 1, 0, 0, 0, 1, 0, 0, 0]).params 64) (by decide +kernel)).2, by decide +kernel, by decide +kernel, ⟨call_of plain (m := ms 0x200 [2, 0, 0, 0, 1, 0, 0, 0, 1, 0, 0, 0]) (r := mrq 0x200 [2, 0, 0, 0, 1, 0, 0, 0, 1, 0, 0, 0]), by decide +kernel, by decide +kernel, by decide +kernel, by decide +kernel, by decide +kernel⟩, (okOf_eq _ (by decide +kernel)), by decide +kernel⟩⟩
end DirectAndManagementRegisterAccessesComplete

/-- Witnesses for `Obligations.EmptyOffsetReadsZeroAndIgnoresWrites`: every clause's hypotheses hold together. -/
theorem witness_emptyOffsetReadsZeroAndIgnoresWrites :
    (∃ (s : State) (a : _), s.reach a 4 = .reached ∧ findReg a = none) :=
  ⟨on, 0x00F000020F00, by decide +kernel⟩

/-- Witnesses for `Obligations.BadAccessesLeaveRegisters`: every clause's hypotheses hold together. -/
theorem witness_badAccessesLeaveRegisters :
    (∃ a w, (w ≠ 4 ∨ a % 4 ≠ 0)) ∧
    (∃ (s : State) (a : _) (b : _) (d : _), s.reach a 4 = .off b d) ∧
    (∃ (s : State) (a : _) (b : _) (d : _) (x : _), s.reach a 4 = .off b d ∧ x ≠ PWR_OFFACC.addr ∧ x ≠ PWR_OFFACC_CNT.addr) :=
  ⟨⟨0x00F000240004, 8, by decide +kernel⟩,
  ⟨on.wr (domainField 129) 1, 0x00F000240004, 0x24, 129, by decide +kernel⟩,
  ⟨on.wr (domainField 129) 1, 0x00F000240004, 0x24, 129, 0, by decide +kernel⟩⟩

/-- Witnesses for `Obligations.LowWordReadLatchesHighWord`: every clause's hypotheses hold together. -/
theorem witness_lowWordReadLatchesHighWord :
    (∃ a h h', findReg a = some h ∧ findReg (a + 4) = some h' ∧ h.row.wide = true ∧ h.high = false ∧ h'.row = h.row ∧ h'.high = true ∧ h.row.fields.any (fun f => f.acc == .wo) = false) ∧
    (∃ (s : State) (u : State) (who : _) (a : _) (h : _) (h' : _), findReg a = some h ∧ findReg (a + 4) = some h' ∧ h.row.wide = true ∧ h.high = false ∧ h'.row = h.row ∧ h'.high = true ∧ h.row.fields.any (fun f => f.acc == .wo) = false ∧ findPair u.hiLatch who a = findPair (s.readReg who a).2.hiLatch who a) ∧
    (∃ (u : State) (who : _) (a : _) (h : _) (h' : _), findReg a = some h ∧ findReg (a + 4) = some h' ∧ h.row.wide = true ∧ h.high = false ∧ h'.row = h.row ∧ h'.high = true ∧ h.row.fields.any (fun f => f.acc == .wo) = false ∧ findPair u.hiLatch who a = none) :=
  ⟨⟨MEAS_TIME.addr, (findReg MEAS_TIME.addr).get (by decide +kernel), (findReg (MEAS_TIME.addr + 4)).get (by decide +kernel), (Option.some_get _).symm, (Option.some_get _).symm, by decide +kernel⟩,
  ⟨on, (on.readReg Requester.ronhenko MEAS_TIME.addr).2, Requester.ronhenko, MEAS_TIME.addr, (findReg MEAS_TIME.addr).get (by decide +kernel), (findReg (MEAS_TIME.addr + 4)).get (by decide +kernel), (Option.some_get _).symm, (Option.some_get _).symm, by decide +kernel⟩,
  ⟨on, Requester.ronhenko, MEAS_TIME.addr, (findReg MEAS_TIME.addr).get (by decide +kernel), (findReg (MEAS_TIME.addr + 4)).get (by decide +kernel), (Option.some_get _).symm, (Option.some_get _).symm, by decide +kernel⟩⟩

namespace ClockCommandsComplete
def off : State := State.reset.onClock fun c => { c with heldInReset := false }
/-- Witnesses for `Obligations.ClockCommandsComplete`: every clause's hypotheses hold together. -/
theorem witness_clockCommandsComplete :
    (∃ (s : State), s.clock.heldInReset = false) ∧
    (∃ (s : State) (who : _), s.running = true ∧ s.Opens who (MEAS_STEP.addr + 4) ∧ stepAccepted s.gridRuns (s.rd MEAS_STAT.STATE) = true) ∧
    (∃ (s : State), s.running = true ∧ s.gridRuns = false) ∧
    (∃ (s : State) (src : _), s.running = true ∧ 1 ≤ src ∧ src ≤ 4 ∧ s.rd MEAS_CTL.SRC ≠ src) ∧
    (∃ (s : State), s.running = true ∧ s.gridRuns = true ∧ s.clock.windowOpen = false) ∧
    (∃ (s : State), s.running = true ∧ s.clock.windowOpen = true) ∧
    (∃ (s : State), s.entry.cause ≠ 0) ∧
    (∃ (s : State), s.clock.heldInReset = false ∧ s.power.on = true ∧ s.power.dormant = false) ∧
    (∃ (s : State), s.running = true ∧ s.flag MIN_STAT.FILLED = false) ∧
    (∃ (s : State), s.clock.heldInReset = false ∧ s.power.on = true) ∧
    (∃ (s : State), s.clock.heldInReset = false) :=
  ⟨⟨off, by decide +kernel⟩,
  ⟨on, Requester.ronhenko, by decide +kernel, (opens_of (by decide +kernel)), by decide +kernel⟩,
  ⟨on, by decide +kernel⟩,
  ⟨on, 2, by decide +kernel⟩,
  ⟨on.wr MEAS_CTL.RUN 1, by decide +kernel⟩,
  ⟨on.onClock fun c => { c with windowOpen := true }, by decide +kernel⟩,
  ⟨on.onEntry fun e => { e with cause := 1 }, by decide +kernel⟩,
  ⟨on, by decide +kernel⟩,
  ⟨on, by decide +kernel⟩,
  ⟨on, by decide +kernel⟩,
  ⟨on, by decide +kernel⟩⟩
end ClockCommandsComplete

/-- Witnesses for `Obligations.LockStateFollowsTable`: every clause's hypotheses hold together. -/
theorem witness_lockStateFollowsTable :
    (∃ (s : State), s.running = true ∧ s.Opens .ronhenko MEAS_OFFS.addr) ∧
    (∃ (s : State), s.running = true ∧ s.rd MEAS_STAT.STATE = lockLocked) ∧
    (∃ (s : State), s.running = true ∧ s.rd MEAS_STAT.STATE = lockHoldover) ∧
    (∃ (s : State), s.running = true) ∧
    (∃ src, 4 < src) :=
  ⟨⟨on, by decide +kernel, (opens_of (by decide +kernel))⟩,
  ⟨on.wr MEAS_STAT.STATE lockLocked, by decide +kernel⟩,
  ⟨on.wr MEAS_STAT.STATE lockHoldover, by decide +kernel⟩,
  ⟨on, by decide +kernel⟩,
  ⟨9, by decide +kernel⟩⟩

namespace LadderAndCounterCommandsComplete
def fr : FaultRecord := ⟨1, 1, 0, 0, 0, 9, 4, 0x782, 0, 0, 0, 0, 0, 0, 0, false⟩
def rc : Recovery := ⟨5, .heldCopy 7, 0x1000, false, [.peer], [.core 1], 0⟩
def rcs : State := on.onIntegrity fun x => { x with recoveries := [rc] }
def mc : MirrorCopy := ⟨0, 1000, 0, 1, 8, 0, 0, 0, [1], false, false⟩
def mo : Monitor := ⟨3, 0, false, 8, [(9, false)], true⟩
/-- Witnesses for `Obligations.LadderAndCounterCommandsComplete`: every clause's hypotheses hold together. -/
theorem witness_ladderAndCounterCommandsComplete :
    (∃ (s : State) (who : _), s.running = true ∧ s.Opens who FLT_WDOG.addr) ∧
    (∃ (s : State), s.running = true ∧ s.rd FLT_CFG.WDOG ≠ 0 ∧ s.gridRuns = true ∧ s.flt.watchdogAt + 1000000 * s.rd FLT_CFG.WDOG ≤ s.now) ∧
    (∃ (s : State) (who : _), s.running = true ∧ s.Opens who FLT_CMD.addr ∧ s.flag FLT_CMD.BUSY = false ∧ s.flag FLT_STAT.PARKED = false) ∧
    (∃ (s : State) (r : _), s.running = true ∧ s.flt.latched = some r ∧ s.flag FLT_STAT.LATCHV = true) ∧
    (∃ (s : State), s.running = true ∧ (s.recentSteps.filter (·.step == 4)).length < 3 ∧ (s.recentSteps.filter (·.step == 3)).length < 3) ∧
    (∃ (s : State) (f : _), s.running = true ∧ s.direct.perstLow = false ∧ s.direct.cableIn = true ∧ s.flag DPT_CTL.EN = true ∧ f ≤ 1 ∧ s.fnState f = 0 ∧ s.direct.perstAt + 100000000 ≤ s.now) ∧
    (∃ (s : State), s.running = true) ∧
    (∃ (s : State) (id : _) (r : _), s.running = true ∧ getBy Recovery.id id s.integrity.recoveries = some r) ∧
    (∃ (s : State) (id : _) (r : _), s.running = true ∧ getBy Recovery.id id s.integrity.recoveries = some r ∧ r.sources.head? = some .peer ∧ r.askedAt + 100000 ≤ s.now) ∧
    (∃ (s : State) (group : _) (nsid : _) (lba : _) (meas : _) (m : _), s.running = true ∧ ((s.store.mirrors.find? fun m => m.group == group && m.nsid == nsid && m.lba == lba && m.meas == meas) = some m)) ∧
    (∃ (s : State), s.running = true ∧ s.flag MIN_STAT.FILLED = true) ∧
    (∃ (s : State), s.running = true ∧ s.flag MIN_STAT.FILLED = true ∧ s.flag MIN_SWEEP.EN = true) ∧
    (∃ (s : State), s.running = true ∧ s.integrity.leakAt + 1000000 * s.rd MIN_LEAK.INTERVAL ≤ s.now) ∧
    (∃ (s : State) (who : _) (v : Word), s.running = true ∧ s.Opens who MIN_TEST.addr ∧ v.toNat / 2 ^ 31 = 1) ∧
    (∃ (s : State), s.running = true ∧ s.flag MIN_STAT.ARMED = true ∧ s.integrity.armedAt + 1000000000 ≤ s.now) ∧
    (∃ (s : State) (who : _) (n : _), s.running = true ∧ n < 48 ∧ s.Opens who (PMC_CNT.addr n + 4)) ∧
    (∃ (s : State) (who : _) (n : _), s.running = true ∧ n < 16 ∧ s.Opens who (PMC_BW_CTL.addr n)) ∧
    (∃ (s : State) (k : _) (m : _) (bytes : _) (dirty : _) (rest : _), s.running = true ∧ getBy Monitor.key k s.pmc.monitors = some m ∧ m.ended = (bytes, dirty) :: rest ∧ (m.on || !rest.isEmpty) = true) :=
  ⟨⟨on, Requester.ronhenko, by decide +kernel, (opens_of (by decide +kernel))⟩,
  ⟨(on.wrs [(FLT_CFG.WDOG, 5), (MEAS_CTL.RUN, 1)]), by decide +kernel⟩,
  ⟨on, Requester.ronhenko, by decide +kernel, (opens_of (by decide +kernel)), by decide +kernel⟩,
  ⟨(on.wr FLT_STAT.LATCHV 1).onFlt fun f => { f with latched := some fr }, (((on.wr FLT_STAT.LATCHV 1).onFlt fun f => { f with latched := some fr }).flt.latched).get (by decide +kernel), by decide +kernel, (Option.some_get _).symm, by decide +kernel⟩,
  ⟨on, by decide +kernel⟩,
  ⟨(on.wr DPT_CTL.EN 1).onDirect fun d => { d with perstLow := false, cableIn := true }, 1, by decide +kernel⟩,
  ⟨on, by decide +kernel⟩,
  ⟨rcs, 5, (getBy Recovery.id 5 rcs.integrity.recoveries).get (by decide +kernel), by decide +kernel, (Option.some_get _).symm⟩,
  ⟨rcs, 5, (getBy Recovery.id 5 rcs.integrity.recoveries).get (by decide +kernel), by decide +kernel, (Option.some_get _).symm, by decide +kernel⟩,
  ⟨on.onStore fun t => { t with mirrors := [mc] }, 0, 1, 8, 1000, (((on.onStore fun t => { t with mirrors := [mc] }).store.mirrors.find? fun m => m.group == 0 && m.nsid == 1 && m.lba == 8 && m.meas == 1000)).get (by decide +kernel), by decide +kernel, (Option.some_get _).symm⟩,
  ⟨on.wrs [(MIN_STAT.FILLED, 1), (MIN_SWEEP.EN, 1)], by decide +kernel⟩,
  ⟨on.wrs [(MIN_STAT.FILLED, 1), (MIN_SWEEP.EN, 1)], by decide +kernel⟩,
  ⟨on, by decide +kernel⟩,
  ⟨on, Requester.ronhenko, 0x80000000#32, by decide +kernel, (opens_of (by decide +kernel)), by decide +kernel⟩,
  ⟨on.wr MIN_STAT.ARMED 1, by decide +kernel⟩,
  ⟨on, Requester.ronhenko, 3, by decide +kernel, by decide +kernel, (opens_of (by decide +kernel))⟩,
  ⟨on, Requester.ronhenko, 3, by decide +kernel, by decide +kernel, (opens_of (by decide +kernel))⟩,
  ⟨on.onPmc fun p => { p with monitors := [mo] }, 3, (getBy Monitor.key 3 (on.onPmc fun p => { p with monitors := [mo] }).pmc.monitors).get (by decide +kernel), 9, false, [], by decide +kernel, (Option.some_get _).symm, by decide +kernel⟩⟩
end LadderAndCounterCommandsComplete

namespace EntryCommandsComplete
def es (n : Nat) : State := on.wrs [(EFU_STAT.STATE, n), (EFU_STAT.SEATA, 1), (EFU_STAT.SEATB, 1), (EFU_STAT.EN, 1)]
def dead : State := (es entryOn).onPower fun p => { p with on := false }
/-- Witnesses for `Obligations.EntryCommandsComplete`: every clause's hypotheses hold together. -/
theorem witness_entryCommandsComplete :
    (∃ (s : State), s.entryState = entryUnseated) ∧
    (∃ (s : State) (vin : _), s.entryState = entryDebounce ∧ s.flag EFU_STAT.SEATA = true ∧ s.flag EFU_STAT.SEATB = true ∧ s.flag EFU_STAT.EN = true ∧ ((s.flag EFU_STAT.CYCIN = false ∨ s.flag EFU_CFG.PEER_EN = false)) ∧ 10600 ≤ vin ∧ vin < 65536) ∧
    (∃ (s : State), s.entryState = entryRamping) ∧
    (∃ (s : State), s.entryState = entryQualifying ∧ s.flag EFU_STAT.LIMIT = false) ∧
    (∃ (s : State), s.entryState = entryOn ∧ s.flag EFU_STAT.PG = true ∧ s.power.on = false) ∧
    (∃ (s : State), s.entryState = entryOn ∧ s.flag EFU_STAT.LIMIT = false) ∧
    (∃ (s : State), s.flag EFU_STAT.LIMIT = true) ∧
    (∃ (s : State), entryRamping ≤ s.entryState ∧ s.entryState ≤ entryOn ∧ s.flag EFU_STAT.LIMIT = true) ∧
    (∃ (s : State), entryRamping ≤ s.entryState ∧ s.entryState ≤ entryOn) ∧
    (∃ (s : State), s.entryState = entryLatched) ∧
    (∃ (s : State), s.entryState = entryLatched ∧ s.flag EFU_CFG.PEER_EN = true) ∧
    (∃ (s : State) (vin : _), s.entryState = entryOpen ∧ s.power.on = false ∧ s.startConditions vin = true) ∧
    (∃ (s : State), s.gateOn = false ∧ s.power.on = true ∧ s.rd NRG_STAT.STATE = 6) ∧
    (∃ (s : State), s.flag EFU_STAT.PCYC = true) :=
  ⟨⟨es entryUnseated, by decide +kernel⟩,
  ⟨es entryDebounce, 12000, by decide +kernel⟩,
  ⟨es entryRamping, by decide +kernel⟩,
  ⟨es entryQualifying, by decide +kernel⟩,
  ⟨dead.wr EFU_STAT.PG 1, by decide +kernel⟩,
  ⟨es entryOn, by decide +kernel⟩,
  ⟨(es entryOn).wr EFU_STAT.LIMIT 1, by decide +kernel⟩,
  ⟨(es entryOn).wr EFU_STAT.LIMIT 1, by decide +kernel⟩,
  ⟨es entryOn, by decide +kernel⟩,
  ⟨(es entryLatched).wr EFU_CFG.PEER_EN 1, by decide +kernel⟩,
  ⟨(es entryLatched).wr EFU_CFG.PEER_EN 1, by decide +kernel⟩,
  ⟨dead.wr EFU_STAT.STATE entryOpen, 12000, by decide +kernel⟩,
  ⟨(es entryOpen).wr NRG_STAT.STATE 6, by decide +kernel⟩,
  ⟨on.wr EFU_STAT.PCYC 1, by decide +kernel⟩⟩
end EntryCommandsComplete

namespace WallflowerCommandsComplete
def dm : State := (on.onPower fun p => { p with dormant := true }).wrs [(WFL_WAKE.EN, 63), (WFL_WTIMER.SECS, 5)]
/-- Witnesses for `Obligations.WallflowerCommandsComplete`: every clause's hypotheses hold together. -/
theorem witness_wallflowerCommandsComplete :
    (∃ (s : State) (ch : _) (raw : Word), s.wallRuns = true ∧ ch < 32 ∧ raw.toNat % 65536 = 0x8000) ∧
    (∃ (s : State) (ch : _) (raw : Word), s.wallRuns = true ∧ ch < 32 ∧ raw.toNat % 65536 ≠ 0x8000 ∧ s.power.dormant = false ∧ s.rd (WFL_VAL.FILT ch) = 0x8000) ∧
    (∃ (s : State) (i : _) (high : _), s.wallRuns = true ∧ 96 ≤ i ∧ i ≤ 97 ∧ s.inputHigh i = !high ∧ s.power.dormant = false ∧ s.domainState 128 ≠ 2) ∧
    (∃ (s : State), s.wallRuns = true) ∧
    (∃ (s : State) (who : _) (r : _), s.running = true ∧ 4 ≤ r ∧ r < 64 ∧ s.Opens who (WFL_RULE_CTL.addr r)) ∧
    (∃ (s : State) (r : _), s.running = true ∧ r < 4) ∧
    (∃ (s : State) (who : _), s.power.on = true ∧ s.power.dormant = false ∧ s.clock.heldInReset = false ∧ s.Opens who WFL_CMD.addr) ∧
    (∃ (s : State) (who : _) (at_ : _), s.power.on = true ∧ s.power.dormant = false ∧ s.clock.heldInReset = false ∧ s.Opens who WFL_CMD.addr ∧ s.wall.armed = some at_ ∧ s.now - at_ ≤ 1000000) ∧
    (∃ (s : State) (source : _), s.power.dormant = true ∧ source < 6 ∧ bitOf (s.rd WFL_WAKE.EN) source = true) ∧
    (∃ (s : State), s.power.dormant = true ∧ bitOf (s.rd WFL_WAKE.EN) 3 = true) ∧
    (∃ (s : State), s.power.dormant = true ∧ s.rd WFL_WTIMER.SECS ≠ 0) :=
  ⟨⟨on, 3, 0x8000, by decide +kernel⟩,
  ⟨on.wr (WFL_VAL.FILT 3) 0x8000, 3, 1234, by decide +kernel⟩,
  ⟨on, 96, !(on.inputHigh 96), by decide +kernel⟩,
  ⟨on, by decide +kernel⟩,
  ⟨on, Requester.ronhenko, 5, by decide +kernel, by decide +kernel, by decide +kernel, (opens_of (by decide +kernel))⟩,
  ⟨on, 2, by decide +kernel⟩,
  ⟨on, Requester.ronhenko, by decide +kernel, by decide +kernel, by decide +kernel, (opens_of (by decide +kernel))⟩,
  ⟨{ on with wall := { on.wall with armed := some on.now } }, Requester.ronhenko, on.now, by decide +kernel, by decide +kernel, by decide +kernel, (opens_of (by decide +kernel)), by decide +kernel⟩,
  ⟨dm, 3, by decide +kernel⟩,
  ⟨dm, by decide +kernel⟩,
  ⟨dm, by decide +kernel⟩⟩
end WallflowerCommandsComplete

namespace PowerDomainCommandsComplete
def de : State := on.onPower fun p => { p with entries := [⟨5, .gated, 1, 0, 0⟩] }
/-- Witnesses for `Obligations.PowerDomainCommandsComplete`: every clause's hypotheses hold together. -/
theorem witness_powerDomainCommandsComplete :
    (∃ (s : State) (d : _), s.running = true ∧ (d < 112 ∨ d = 151) ∧ s.domainState d = 0 ∧ s.noIdle d = false) ∧
    (∃ (s : State) (d : _) (n : _), s.running = true ∧ (d < 112 ∨ d = 151) ∧ s.domainState d = 0 ∧ s.noIdle d = false ∧ 1 ≤ n ∧ n ≤ 1000) ∧
    (∃ (s : State) (d : _), s.running = true ∧ s.mayIdleOff d = true ∧ s.domainState d = 1 ∧ s.noIdle d = false) ∧
    (∃ (s : State) (d : _) (e : _), s.running = true ∧ s.power.entries.find? (·.domain == d) = some e ∧ e.goal = .gated ∧ d < 155 ∧ e.due ≤ s.now) ∧
    (∃ (s : State) (d : _), s.running = true ∧ d < 155 ∧ (s.domainState d = 1 ∨ s.domainState d = 2)) ∧
    (∃ (s : State) (who : _) (d : _), s.running = true ∧ s.Opens who PWR_CMD.addr ∧ s.flag PWR_CMD.BUSY = false ∧ d < 155) ∧
    (∃ (s : State) (who : _) (d : _), s.running = true ∧ s.Opens who PWR_CMD.addr ∧ s.flag PWR_CMD.BUSY = false ∧ s.mayCommandOff d = true ∧ (s.domainState d = 0 ∨ s.domainState d = 1)) ∧
    (∃ (s : State) (who : _) (u : _), s.running = true ∧ s.Opens who PWR_CMD.addr ∧ s.flag PWR_CMD.BUSY = false ∧ s.power.dormantStep = none ∧ u = s.written PWR_CMD.addr (pwrWord 3 0)) :=
  ⟨⟨on, 5, by decide +kernel⟩,
  ⟨on, 5, 7, by decide +kernel⟩,
  ⟨on.wr (domainField 5) 1, 5, by decide +kernel⟩,
  ⟨de, 5, (de.power.entries.find? (·.domain == 5)).get (by decide +kernel), by decide +kernel, (Option.some_get _).symm, by decide +kernel⟩,
  ⟨on.wr (domainField 5) 1, 5, by decide +kernel⟩,
  ⟨on, Requester.ronhenko, 5, by decide +kernel, (opens_of (by decide +kernel)), by decide +kernel⟩,
  ⟨on.wr DPT_STAT.PERST 1, Requester.ronhenko, 128, by decide +kernel, (opens_of (by decide +kernel)), by decide +kernel⟩,
  ⟨on, Requester.ronhenko, on.written PWR_CMD.addr (pwrWord 3 0), by decide +kernel, (opens_of (by decide +kernel)), by decide +kernel, by decide +kernel, rfl⟩⟩
end PowerDomainCommandsComplete

/-- Witnesses for `Obligations.CallerCommandsComplete`: every clause's hypotheses hold together. -/
theorem witness_callerCommandsComplete :
    (∃ (s : State), s.running = true ∧ s.gridRuns = true ∧ s.measure % 32 = 31 ∧ s.power.pending = none) ∧
    (∃ (s : State) (c : _) (ch : _), s.running = true ∧ c < 8 ∧ s.power.changes.find? (·.cluster == c) = some ch ∧ s.power.deferred = [] ∧ ch.target < 6) ∧
    (∃ (s : State) (c : _) (ch : _), s.running = true ∧ c < 8 ∧ s.power.changes.find? (·.cluster == c) = some ch ∧ s.power.deferred = [] ∧ ch.since + 50000 ≤ s.now) :=
  ⟨⟨(on.wr MEAS_CTL.RUN 1).onClock fun c => { c with current := 1023 }, by decide +kernel⟩,
  ⟨on.onPower fun p => { p with changes := [⟨2, 3, true, 0⟩] }, 2, ((on.onPower fun p => { p with changes := [⟨2, 3, true, 0⟩] }).power.changes.find? (·.cluster == 2)).get (by decide +kernel), by decide +kernel, by decide +kernel, (Option.some_get _).symm, by decide +kernel⟩,
  ⟨on.onPower fun p => { p with changes := [⟨2, 3, true, 0⟩] }, 2, ((on.onPower fun p => { p with changes := [⟨2, 3, true, 0⟩] }).power.changes.find? (·.cluster == 2)).get (by decide +kernel), by decide +kernel, by decide +kernel, (Option.some_get _).symm, by decide +kernel⟩⟩

namespace ClusterAndCacheCommandsComplete
def pt (st : Nat) : State := (on.wrs [(⟨TWO_PERM.addr 0 0, 7, 0⟩, 4), (⟨TWO_PERM.addr 0 1, 31, 0⟩, 0x1000), (⟨TWO_PERM.addr 0 3, 31, 0⟩, 0x10000), (CLU_PSTAT.STATE 2, st)]).setReg (CLU_ENTRY.addr 2) 0x2000
def ca (id : Nat) (f : Cache → Cache) : State := (pt partRunning).onCaches fun c => { c with caches := [f (blankCache 0xACE1 id)] }
def ac : CoreAccess := ⟨.load, 0x2008, 8, []⟩
/-- Witnesses for `Obligations.ClusterAndCacheCommandsComplete`: every clause's hypotheses hold together. -/
theorem witness_clusterAndCacheCommandsComplete :
    (∃ (s : State) (u : State) (who : _) (c : Nat) (p : _), s.running = true ∧ c < 8 ∧ s.Opens who (CLU_PCMD.addr c) ∧ u = s.written (CLU_PCMD.addr c) (pcmdWord 1) ∧ u.flag (CLU_PCMD.BUSY c) = false ∧ u.clusterOwner c = some p ∧ u.rd (CLU_PSTAT.STATE c) = partStopped ∧ u.inPartition p (u.rd64 (CLU_ENTRY.addr c) % 2 ^ 48) = false) ∧
    (∃ (s : State) (u : State) (who : _) (c : Nat) (p : _), s.running = true ∧ c < 8 ∧ s.Opens who (CLU_PCMD.addr c) ∧ u = s.written (CLU_PCMD.addr c) (pcmdWord 1) ∧ u.flag (CLU_PCMD.BUSY c) = false ∧ u.clusterOwner c = some p ∧ u.rd (CLU_PSTAT.STATE c) = partStopped ∧ u.inPartition p (u.rd64 (CLU_ENTRY.addr c) % 2 ^ 48) = true) ∧
    (∃ (s : State) (u : State) (who : _) (c : Nat) (p : _), s.running = true ∧ c < 8 ∧ s.Opens who (CLU_PCMD.addr c) ∧ u = s.written (CLU_PCMD.addr c) (pcmdWord 2) ∧ u.flag (CLU_PCMD.BUSY c) = false ∧ u.clusterOwner c = some p ∧ u.rd (CLU_PSTAT.STATE c) = partRunning) ∧
    (∃ (s : State) (p : _) (c : Nat) (rest : _), s.running = true ∧ s.clustersOf p = c :: rest ∧ s.rd (CLU_PSTAT.STATE c) = partResetting ∧ s.flag (CLU_CTL.AUTOSTART c) = false) ∧
    (∃ (s : State) (who : _) (c : Nat) (core : _) (u : _), s.running = true ∧ c < 8 ∧ s.Opens who (CLU_MAINT.addr c) ∧ s.flag (CLU_MAINT.BUSY c) = false ∧ u = s.written (CLU_MAINT.addr c) (maintWord core 1)) ∧
    (∃ (s : State) (who : _) (c : Nat) (core : _) (u : _), s.running = true ∧ c < 8 ∧ s.Opens who (CLU_MAINT.addr c) ∧ s.flag (CLU_MAINT.BUSY c) = false ∧ u = s.written (CLU_MAINT.addr c) (maintWord core 2)) ∧
    (∃ (s : State) (who : _) (c : Nat) (core : _) (u : _), s.running = true ∧ c < 8 ∧ s.Opens who (CLU_MAINT.addr c) ∧ s.flag (CLU_MAINT.BUSY c) = false ∧ u = s.written (CLU_MAINT.addr c) (maintWord core 3)) ∧
    (∃ (s : State) (who : _) (c : Nat) (u : _), s.running = true ∧ c < 8 ∧ s.Opens who (CLU_MAINT.addr c) ∧ s.flag (CLU_MAINT.BUSY c) = false ∧ u = s.written (CLU_MAINT.addr c) (maintWord 0 4)) ∧
    (∃ (s : State) (who : _) (c : Nat) (u : _), s.running = true ∧ c < 8 ∧ s.Opens who (CLU_MAINT.addr c) ∧ s.flag (CLU_MAINT.BUSY c) = false ∧ u = s.written (CLU_MAINT.addr c) (maintWord 0 5)) ∧
    (∃ (s : State) (core : _) (a : CoreAccess) (l : _), s.running = true ∧ a.len ≤ 64 - a.addr % 64 ∧ a.data = [] ∧ a.kind = .load ∧ s.corePath core a.addr = .cached ∧ (s.cache (l1dOf core)).stalled = [] ∧ (s.cache (l1dOf core)).find (a.addr / 64) = some l) ∧
    (∃ (s : State) (c : Nat) (n : Nat) (m : _), s.running = true ∧ c < 8 ∧ n < 16 ∧ (s.cache (17 * c + n)).misses = [m] ∧ m.evict = false) ∧
    (∃ (s : State) (c : Nat) (n : Nat) (v : _) (rest : _), s.running = true ∧ c < 8 ∧ n < 16 ∧ (s.cache (17 * c + n)).victims = v :: rest) ∧
    (∃ (s : State) (core : _) (a : _), s.running = true ∧ s.corePath core a = .cached) :=
  ⟨⟨(pt partStopped).setReg (CLU_ENTRY.addr 2) 0x200, ((pt partStopped).setReg (CLU_ENTRY.addr 2) 0x200).written (CLU_PCMD.addr 2) (pcmdWord 1), Requester.ronhenko, 2, 0, by decide +kernel, by decide +kernel, (opens_of (by decide +kernel)), rfl, by decide +kernel⟩,
  ⟨pt partStopped, (pt partStopped).written (CLU_PCMD.addr 2) (pcmdWord 1), Requester.ronhenko, 2, 0, by decide +kernel, by decide +kernel, (opens_of (by decide +kernel)), rfl, by decide +kernel⟩,
  ⟨pt partRunning, (pt partRunning).written (CLU_PCMD.addr 2) (pcmdWord 2), Requester.ronhenko, 2, 0, by decide +kernel, by decide +kernel, (opens_of (by decide +kernel)), rfl, by decide +kernel⟩,
  ⟨pt partResetting, 0, 2, ([] : List Nat), by decide +kernel⟩,
  ⟨pt partStopped, Requester.ronhenko, 2, 3, (pt partStopped).written (CLU_MAINT.addr 2) (maintWord 3 1), by decide +kernel, by decide +kernel, (opens_of (by decide +kernel)), by decide +kernel, rfl⟩,
  ⟨pt partStopped, Requester.ronhenko, 2, 3, (pt partStopped).written (CLU_MAINT.addr 2) (maintWord 3 2), by decide +kernel, by decide +kernel, (opens_of (by decide +kernel)), by decide +kernel, rfl⟩,
  ⟨pt partStopped, Requester.ronhenko, 2, 3, (pt partStopped).written (CLU_MAINT.addr 2) (maintWord 3 3), by decide +kernel, by decide +kernel, (opens_of (by decide +kernel)), by decide +kernel, rfl⟩,
  ⟨pt partStopped, Requester.ronhenko, 2, (pt partStopped).written (CLU_MAINT.addr 2) (maintWord 0 4), by decide +kernel, by decide +kernel, (opens_of (by decide +kernel)), by decide +kernel, rfl⟩,
  ⟨pt partStopped, Requester.ronhenko, 2, (pt partStopped).written (CLU_MAINT.addr 2) (maintWord 0 5), by decide +kernel, by decide +kernel, (opens_of (by decide +kernel)), by decide +kernel, rfl⟩,
  ⟨ca (l1dOf 16) fun c => { c with lines := [⟨0, 0, 0x2008 / 64, false, List.replicate 64 7⟩] }, 16, ac, (⟨0, 0, 0x2008 / 64, false, List.replicate 64 7⟩ : CacheLine), by decide +kernel⟩,
  ⟨ca 34 fun z1 => { z1 with misses := [⟨0, 0, 128, none, false, false, false⟩] }, 2, 0, (⟨0, 0, 128, none, false, false, false⟩ : CacheMiss), by decide +kernel⟩,
  ⟨ca 34 fun z2 => { z2 with victims := [⟨9, [1], []⟩] }, 2, 0, (⟨9, [1], []⟩ : CacheVictim), ([] : List CacheVictim), by decide +kernel⟩,
  ⟨pt partRunning, 16, 0x2008, by decide +kernel⟩⟩
end ClusterAndCacheCommandsComplete

/-- Witnesses for `Obligations.KeyCommandsComplete`: every clause's hypotheses hold together. -/
theorem witness_keyCommandsComplete (rnd : ∀ d i, Config.randomByte d i = one i) (ver : ∀ k w, Config.kwVerifies k w = true) (unwrap : ∀ k w i, Config.kwUnwrapByte k w i = one i) :
    (∃ (s : State) (who : _) (slot : _), s.running = true ∧ s.Opens who CIP_KCMD.addr ∧ s.flag CIP_KCMD.BUSY = false ∧ s.keys.inUse = [] ∧ slot < 8320) ∧
    (∃ (s : State) (who : _) (slot : _) (kek : _), s.running = true ∧ s.Opens who CIP_KCMD.addr ∧ s.flag CIP_KCMD.BUSY = false ∧ s.keys.inUse = [] ∧ slot < 8320 ∧ s.flag CIP_STAT.INIT = false ∧ 128 ≤ slot ∧ s.flag CIP_STAT.DRBG_OK = true ∧ s.kek (s.rd CIP_STAT.KEKGEN) = some kek ∧ halvesEqual (s.random 64).1 = false) ∧
    (∃ (s : State) (who : _) (slot : _) (kind : _) (gen : _) (owner : _) (key : _), s.running = true ∧ s.Opens who CIP_KCMD.addr ∧ s.flag CIP_KCMD.BUSY = false ∧ s.keys.inUse = [] ∧ slot < 8320 ∧ s.flag CIP_STAT.INIT = false ∧ s.openBlob (s.load (s.rd64 CIP_KCMD_ADDR.addr) 80) = some (kind, gen, owner, key) ∧ blobFits slot kind owner = true ∧ ((kind = 2 ∨ halvesEqual key = false))) ∧
    (∃ (s : State) (who : _) (slot : _) (prk : _), s.running = true ∧ s.Opens who CIP_KCMD.addr ∧ s.flag CIP_KCMD.BUSY = false ∧ s.keys.inUse = [] ∧ slot < 8320 ∧ s.flag CIP_STAT.INIT = false ∧ s.keys.prk = some prk) ∧
    (∃ (s : State) (who : _) (slot : _) (prk : _) (v : _), s.running = true ∧ s.Opens who CIP_KCMD.addr ∧ s.flag CIP_KCMD.BUSY = false ∧ s.keys.inUse = [] ∧ slot < 8320 ∧ s.flag CIP_STAT.INIT = false ∧ s.flag CIP_STAT.DRBG_OK = true ∧ s.keys.prk = some prk ∧ s.newKek.2.2.rewrap s.newKek.1 s.newKek.2.1 (s.rd64 CIP_KCMD_ARG.addr) (s.rd64 CIP_KCMD_ADDR.addr) = some v) ∧
    (∃ (s : State) (who : _) (slot : _) (k : _), s.running = true ∧ s.Opens who CIP_KCMD.addr ∧ s.flag CIP_KCMD.BUSY = false ∧ s.keys.inUse = [] ∧ slot < 8320 ∧ s.flag CIP_STAT.INIT = false ∧ s.keySlot slot = some k) ∧
    (∃ (s : State) (who : _) (slot : _) (prk : _) (kek : _), s.running = true ∧ s.Opens who CIP_KCMD.addr ∧ s.flag CIP_KCMD.BUSY = false ∧ s.keys.inUse = [] ∧ slot < 8320 ∧ s.flag CIP_STAT.INIT = false ∧ s.keys.prk = some prk ∧ Config.kwUnwrap (Config.kdf prk labelKek ((s.rd CIP_STAT.KEKGEN + 1) % 65536 % 256)) (s.load (s.rd64 CIP_KCMD_ADDR.addr) 40) = some kek) :=
  ⟨⟨on.wrs [(CIP_STAT.DRBG_OK, 1), (CIP_STAT.INIT, 0)], Requester.ronhenko, 200, by decide +kernel, (opens_of (by decide +kernel)), by decide +kernel⟩,
  ⟨(on.wrs [(CIP_STAT.DRBG_OK, 1), (CIP_STAT.INIT, 0)]).onKeys fun k => { k with keks := [⟨0, [1]⟩] }, Requester.ronhenko, 200, ([1] : Bytes), by decide +kernel, (opens_of (by decide +kernel)), by decide +kernel, by decide +kernel, by decide +kernel, by decide +kernel, by decide +kernel, by decide +kernel, by decide +kernel, (random_halves rnd)⟩,
  ⟨((on.wrs [(CIP_STAT.DRBG_OK, 1), (CIP_STAT.INIT, 0)]).onKeys fun k => { k with keks := [⟨0, [1]⟩] }).storeBytes 0 [1, 0, 0, 0, 73], Requester.ronhenko, 200, 1, 0, 73, Config.bytesOf 64 one, by decide +kernel, (opens_of (by decide +kernel)), by decide +kernel, by decide +kernel, by decide +kernel, by decide +kernel, (opened ver unwrap (by decide +kernel) (by decide +kernel)), by decide +kernel⟩,
  ⟨(on.wrs [(CIP_STAT.DRBG_OK, 1), (CIP_STAT.INIT, 0)]).onKeys fun k => { k with prk := some [2] }, Requester.ronhenko, 200, ([2] : Bytes), by decide +kernel, (opens_of (by decide +kernel)), by decide +kernel⟩,
  ⟨(on.wrs [(CIP_STAT.DRBG_OK, 1), (CIP_STAT.INIT, 0)]).onKeys fun k => { k with prk := some [2] }, Requester.ronhenko, 200, ([2] : Bytes), (((on.wrs [(CIP_STAT.DRBG_OK, 1), (CIP_STAT.INIT, 0)]).onKeys fun k => { k with prk := some [2] }).newKek.2.2.rewrap ((on.wrs [(CIP_STAT.DRBG_OK, 1), (CIP_STAT.INIT, 0)]).onKeys fun k => { k with prk := some [2] }).newKek.1 ((on.wrs [(CIP_STAT.DRBG_OK, 1), (CIP_STAT.INIT, 0)]).onKeys fun k => { k with prk := some [2] }).newKek.2.1 (((on.wrs [(CIP_STAT.DRBG_OK, 1), (CIP_STAT.INIT, 0)]).onKeys fun k => { k with prk := some [2] }).rd64 CIP_KCMD_ARG.addr) (((on.wrs [(CIP_STAT.DRBG_OK, 1), (CIP_STAT.INIT, 0)]).onKeys fun k => { k with prk := some [2] }).rd64 CIP_KCMD_ADDR.addr)).get (by decide +kernel), by decide +kernel, (opens_of (by decide +kernel)), by decide +kernel, by decide +kernel, by decide +kernel, by decide +kernel, by decide +kernel, by decide +kernel, (Option.some_get _).symm⟩,
  ⟨(on.wr CIP_STAT.INIT 0).onKeys fun z3 => { z3 with slots := [⟨200, 1, [1], 0⟩] }, Requester.ronhenko, 200, (⟨200, 1, [1], 0⟩ : KeySlot), by decide +kernel, (opens_of (by decide +kernel)), by decide +kernel⟩,
  ⟨(on.wrs [(CIP_STAT.DRBG_OK, 1), (CIP_STAT.INIT, 0)]).onKeys fun k => { k with prk := some [2] }, Requester.ronhenko, 200, ([2] : Bytes), Config.bytesOf 32 one, by decide +kernel, (opens_of (by decide +kernel)), by decide +kernel, by decide +kernel, by decide +kernel, by decide +kernel, by decide +kernel, (unwrap_of ver unwrap _ _ (by decide +kernel))⟩⟩

namespace EngineQueueCommandsComplete
def ds (op : Nat) : Bytes := op :: List.replicate 63 0
def eq (op : Nat) : State := (on.wrs [(EWQ_QSTAT.STATE 4, ewqRunning), (EWQ_QCTL.SIZE 4, 6)]).onEwq fun e => { e with queues := [⟨4, 0, [⟨0, ds op⟩], []⟩] }
def ru : State := (on.wrs [(EWQ_QSTAT.STATE 4, ewqRunning), (EWQ_QCTL.SIZE 4, 6)]).onEwq fun e => { e with queues := [⟨4, 1, [], [⟨0, ds 1, 0, 0, 0, false⟩]⟩] }
/-- Witnesses for `Obligations.EngineQueueCommandsComplete`: every clause's hypotheses hold together. -/
theorem witness_engineQueueCommandsComplete :
    (∃ (s : State) (q : _) (d : _), s.running = true ∧ s.startable q = some d ∧ s.nextQueue 0 = some q ∧ descOpcode d = 1) ∧
    (∃ (s : State) (q : _) (d : _), s.running = true ∧ s.startable q = some d ∧ s.nextQueue 0 = some q ∧ descOpcode d = 2) ∧
    (∃ (s : State) (q : _) (d : _), s.running = true ∧ s.startable q = some d ∧ s.nextQueue 0 = some q ∧ descOpcode d = 3) ∧
    (∃ (s : State) (q : _) (d : _), s.running = true ∧ s.startable q = some d ∧ s.nextQueue 1 = some q ∧ descOpcode d = 4) ∧
    (∃ (s : State) (q : _) (d : _), s.running = true ∧ s.startable q = some d ∧ s.nextQueue 1 = some q ∧ descOpcode d = 5) ∧
    (∃ (s : State) (q : _) (d : _), s.running = true ∧ s.startable q = some d ∧ s.nextQueue 1 = some q ∧ descOpcode d = 6) ∧
    (∃ (s : State) (q : _) (d : _), s.running = true ∧ s.startable q = some d ∧ s.nextQueue 1 = some q ∧ descOpcode d = 7) ∧
    (∃ (s : State) (q : _) (d : _), s.running = true ∧ s.startable q = some d ∧ s.nextQueue 1 = some q ∧ descOpcode d = 8) ∧
    (∃ (s : State) (q : _) (d : _), s.running = true ∧ s.startable q = some d ∧ s.nextQueue 2 = some q ∧ descOpcode d = 9) ∧
    (∃ (s : State) (q : _) (count : _) (r : _), s.running = true ∧ (∀ d, s.startable q = some d → (s.engineQueue q).next ≠ count) ∧ (s.engineQueue q).running.find? (fun r => r.count == count && !r.finished) = some r) ∧
    (∃ (s : State) (who : _) (q : _) (tail : _), s.running = true ∧ q < 128 ∧ tail < 65536 ∧ s.Opens who (EWQ_QTAIL.addr q) ∧ s.tailValid q tail = true) ∧
    (∃ (s : State) (who : _) (q : _), s.running = true ∧ q < 128 ∧ s.Opens who (EWQ_QCTL.addr q) ∧ s.rd (EWQ_QSTAT.STATE q) = ewqDisabled ∧ s.ewqOwns q (s.rd64 (EWQ_QBASE.addr q)) (64 * s.ewqSize q) = true ∧ s.ewqOwns q (s.rd64 (EWQ_QCBASE.addr q)) (16 * s.ewqSize q) = true ∧ 4 ≤ s.rd (EWQ_QCTL.SIZE q) ∧ s.rd (EWQ_QCTL.SIZE q) ≤ 12) ∧
    (∃ (s : State) (who : _) (q : _), s.running = true ∧ q < 128 ∧ s.Opens who (EWQ_QCTL.addr q) ∧ s.rd (EWQ_QSTAT.STATE q) = ewqRunning ∧ (s.engineQueue q).running ≠ []) ∧
    (∃ (s : State) (who : _) (q : _), s.running = true ∧ q < 128 ∧ s.Opens who (EWQ_QCTL.addr q) ∧ s.rd (EWQ_QSTAT.STATE q) = ewqRunning ∧ (s.engineQueue q).running = [] ∧ s.flag (EWQ_QSTAT.LATCH q) = false) ∧
    (∃ (s : State) (who : _) (q : _), s.running = true ∧ q < 128 ∧ s.Opens who (EWQ_QCMD.addr q) ∧ s.flag (EWQ_QCMD.BUSY q) = false) ∧
    (∃ (s : State) (who : _) (q : _), s.running = true ∧ q < 128 ∧ s.Opens who (EWQ_QCMD.addr q) ∧ s.flag (EWQ_QCMD.BUSY q) = false ∧ s.keys.waiting = none) ∧
    (∃ (s : State) (q : _), s.running = true ∧ q < 128 ∧ s.flag (EWQ_QCMD.BUSY q) = true) :=
  ⟨⟨eq 1, 4, ((eq 1).startable 4).get (by decide +kernel), by decide +kernel, (Option.some_get _).symm, by decide +kernel⟩,
  ⟨eq 2, 4, ((eq 2).startable 4).get (by decide +kernel), by decide +kernel, (Option.some_get _).symm, by decide +kernel⟩,
  ⟨eq 3, 4, ((eq 3).startable 4).get (by decide +kernel), by decide +kernel, (Option.some_get _).symm, by decide +kernel⟩,
  ⟨eq 4, 4, ((eq 4).startable 4).get (by decide +kernel), by decide +kernel, (Option.some_get _).symm, by decide +kernel⟩,
  ⟨eq 5, 4, ((eq 5).startable 4).get (by decide +kernel), by decide +kernel, (Option.some_get _).symm, by decide +kernel⟩,
  ⟨eq 6, 4, ((eq 6).startable 4).get (by decide +kernel), by decide +kernel, (Option.some_get _).symm, by decide +kernel⟩,
  ⟨eq 7, 4, ((eq 7).startable 4).get (by decide +kernel), by decide +kernel, (Option.some_get _).symm, by decide +kernel⟩,
  ⟨eq 8, 4, ((eq 8).startable 4).get (by decide +kernel), by decide +kernel, (Option.some_get _).symm, by decide +kernel⟩,
  ⟨eq 9, 4, ((eq 9).startable 4).get (by decide +kernel), by decide +kernel, (Option.some_get _).symm, by decide +kernel⟩,
  ⟨ru, 4, 0, ((ru.engineQueue 4).running.find? (fun r => r.count == 0 && !r.finished)).get (by decide +kernel), by decide +kernel, by decide +kernel, (Option.some_get _).symm⟩,
  ⟨eq 1, Requester.ronhenko, 4, 1, by decide +kernel, by decide +kernel, by decide +kernel, (opens_of (by decide +kernel)), by decide +kernel⟩,
  ⟨on.wr (EWQ_QCTL.SIZE 4) 6, Requester.ronhenko, 4, by decide +kernel, by decide +kernel, (opens_of (by decide +kernel)), by decide +kernel⟩,
  ⟨ru, Requester.ronhenko, 4, by decide +kernel, by decide +kernel, (opens_of (by decide +kernel)), by decide +kernel⟩,
  ⟨eq 1, Requester.ronhenko, 4, by decide +kernel, by decide +kernel, (opens_of (by decide +kernel)), by decide +kernel⟩,
  ⟨eq 1, Requester.ronhenko, 4, by decide +kernel, by decide +kernel, (opens_of (by decide +kernel)), by decide +kernel⟩,
  ⟨eq 1, Requester.ronhenko, 4, by decide +kernel, by decide +kernel, (opens_of (by decide +kernel)), by decide +kernel⟩,
  ⟨on.wr (EWQ_QCMD.BUSY 4) 1, 4, by decide +kernel⟩⟩
end EngineQueueCommandsComplete

namespace LinkStateCommandsComplete
def st (n : Nat) : State := (on.wrs [(EZL_STAT.STATE, n), (EZL_CTL.EN, 1), (EZL_CTL.CTMO, 16), (EZL_CH_BASE_HI.OPEN 3, 1)]).onLink fun l => { l with peerSeated := true, sinceAck := 3 }
def kd (s : State) : State := (s.loadSlot 2 0 0 [1]).loadSlot 3 0 0 [2]
def hc : HeldCopy := ⟨7, 0, 1, 8, 0, 0, 0, 0, 0, List.replicate 4096 1, false, 0, true, some 1000, true, none, true, true, true, none⟩
/-- Witnesses for `Obligations.LinkStateCommandsComplete`: every clause's hypotheses hold together. -/
theorem witness_linkStateCommandsComplete :
    (∃ (s : State) (who : _), s.running = true ∧ s.Opens who EZL_CTL.addr ∧ s.linkState = linkDown ∧ s.link.peerSeated = true ∧ s.linkKeyed = true ∧ s.flag FLT_STAT.PARKED = false) ∧
    (∃ (s : State), s.running = true) ∧
    (∃ (s : State) (who : _), s.running = true ∧ s.Opens who EZL_CTL.addr) ∧
    (∃ (s : State), s.running = true ∧ s.linkState = linkDown ∧ s.flag EZL_CTL.EN = true ∧ s.linkKeyed = true ∧ s.flag FLT_STAT.PARKED = false) ∧
    (∃ (s : State), s.running = true ∧ s.linkState = linkDown ∧ s.flag EZL_CTL.EN = true ∧ s.linkKeyed = true ∧ s.flag FLT_STAT.PARKED = false ∧ s.link.peerSeated = true ∧ s.link.since + 1000000000 ≤ s.now) ∧
    (∃ (s : State) (lanes : _), s.running = true ∧ s.linkState = linkTraining ∧ linkWidth lanes ≠ 0 ∧ s.link.fromPaired = false ∧ s.rd EZL_STAT.WIDTH = 0 ∧ s.link.channels = [] ∧ s.link.epochTx < 2 ^ 32 - 2) ∧
    (∃ (s : State), s.running = true ∧ s.linkState = linkTraining ∧ s.link.since + 50000000 ≤ s.now) ∧
    (∃ (s : State), s.running = true ∧ s.linkUp = true) ∧
    (∃ (s : State), s.running = true ∧ s.linkState = linkTraining ∧ s.rd EZL_STAT.WIDTH ≠ 0) ∧
    (∃ (s : State), s.running = true ∧ s.linkState = linkTraining ∧ s.rd EZL_STAT.WIDTH ≠ 0 ∧ s.link.fromPaired = true) ∧
    (∃ (s : State) (who : _) (c : _) (post : _), s.running = true ∧ c < 16 ∧ post < 256 ∧ s.Opens who (EZL_CH_RXPOST.addr c)) ∧
    (∃ (s : State) (who : _) (c : _) (post : _), s.running = true ∧ c < 16 ∧ post < 256 ∧ s.Opens who (EZL_CH_TXPOST.addr c) ∧ s.flag (EZL_CH_BASE_HI.OPEN c) = true ∧ s.linkUp = false) ∧
    (∃ (s : State) (c : _), s.running = true ∧ (s.channel c).sentAs = none ∧ (s.channel c).headSince + 1000000 ≤ s.now) ∧
    (∃ (s : State), s.running = true ∧ s.linkUp = true ∧ 0 < s.link.sinceAck ∧ s.link.txSeq < 2 ^ 32 - 1) ∧
    (∃ (s : State) (i : _) (rest : _) (c : _), s.running = true ∧ s.paired = true ∧ s.link.waiting = i :: rest ∧ s.link.holdAccept = none ∧ s.linkCredit (cellsOf 4160) = true ∧ s.link.txSeq < 2 ^ 32 - 1 ∧ s.store.copies.find? (·.id == i) = some c ∧ c.cmd = none) ∧
    (∃ (s : State), s.running = true ∧ s.paired = true ∧ (s.link.txMeasures.any (fun t => decide (t.meas + s.rd EZL_CTL.CTMO < s.measure)) = true)) ∧
    (∃ (s : State), s.running = true ∧ s.paired = true ∧ s.link.markerSeen ≤ s.link.committed ∧ s.link.committed + s.rd EZL_CTL.CTMO ≤ s.measure) :=
  ⟨⟨kd (st linkDown), Requester.ronhenko, by decide +kernel, (opens_of (by decide +kernel)), by decide +kernel⟩,
  ⟨kd (st linkDown), by decide +kernel⟩,
  ⟨kd (st linkDown), Requester.ronhenko, by decide +kernel, (opens_of (by decide +kernel))⟩,
  ⟨kd (st linkDown), by decide +kernel⟩,
  ⟨kd (st linkDown), by decide +kernel⟩,
  ⟨st linkTraining, 255, by decide +kernel⟩,
  ⟨st linkTraining, by decide +kernel⟩,
  ⟨st linkPaired, by decide +kernel⟩,
  ⟨(st linkTraining).wr EZL_STAT.WIDTH 1, by decide +kernel⟩,
  ⟨((st linkTraining).wr EZL_STAT.WIDTH 1).onLink fun l => { l with fromPaired := true }, by decide +kernel⟩,
  ⟨kd (st linkDown), Requester.ronhenko, 3, 9, by decide +kernel, by decide +kernel, by decide +kernel, (opens_of (by decide +kernel))⟩,
  ⟨kd (st linkDown), Requester.ronhenko, 3, 9, by decide +kernel, by decide +kernel, by decide +kernel, (opens_of (by decide +kernel)), by decide +kernel⟩,
  ⟨(st linkPaired).onLink fun l => { l with channels := [⟨3, [(1, [2])], none, 0, 2, 0⟩] }, 3, by decide +kernel⟩,
  ⟨st linkPaired, by decide +kernel⟩,
  ⟨((st linkPaired).onLink fun l => { l with waiting := [7] }).onStore fun t => { t with copies := [hc] }, 7, ([] : List Nat), hc, by decide +kernel⟩,
  ⟨(st linkPaired).onLink fun l => { l with txMeasures := [⟨5, []⟩] }, by decide +kernel⟩,
  ⟨st linkPaired, by decide +kernel⟩⟩
end LinkStateCommandsComplete

namespace LinkFramesComplete
def st : State := (on.wrs [(EZL_STAT.STATE, linkPaired), (EZL_CTL.EN, 1), (EZL_CH_BASE_HI.OPEN 3, 1), (EZL_CH_RXPOST.POST 3, 5), (EZL_WIN_LEN.LEN 9, 16), (EZL_WIN_CTL.VALID 9, 1), (EZL_WIN_CTL.WR 9, 1), (EZL_WIN_LEN.LEN 0, 16), (EZL_WIN_CTL.VALID 0, 1), (EZL_WIN_CTL.WR 0, 1)]).onLink fun l => { l with peerSeated := true, rxSeq := 4, committed := 5 }
def pv : PairValues := ⟨1, 1, 1, 1, 1, 77⟩
def cp : StateCopy := ⟨5, 0, pv, 0, false, false, [], []⟩
def hd (m w o len : Nat) : FrameHead := ⟨4, true, false, w, 0, 0, m, o, len⟩
/-- Witnesses for `Obligations.LinkFramesComplete`: every clause's hypotheses hold together. -/
theorem witness_linkFramesComplete :
    (∃ (s : State) (h : FrameHead), s.running = true ∧ s.Accepts h) ∧
    (∃ (s : State) (h : FrameHead) (room : _) (u : _), s.running = true ∧ s.Accepts h ∧ (u = ((s.expectNext h).onLink fun l => { l with retained := l.retained.filter fun f => f.meas != 0 || decide ((h.offset + 1) % 2 ^ 64 ≤ f.lseq), peerRoom := room }).showRetained) ∧ u.link.channels = []) ∧
    (∃ (s : State) (h : FrameHead) (payload : _), s.running = true ∧ s.Accepts h ∧ h.win ≠ 2 ∧ (h.win = 0 → numAt payload 0 2 ≠ 0xFFFF) ∧ h.win < 16 ∧ s.flag (EZL_CH_BASE_HI.OPEN h.win) = true ∧ (s.channel h.win).nextRecv ≠ s.rd (EZL_CH_RXPOST.POST h.win) ∧ s.link.sinceAck < 63) ∧
    (∃ (s : State) (h : FrameHead) (a : _), s.running = true ∧ s.Accepts h ∧ s.paired = true ∧ h.poison = false ∧ s.isOld h = false ∧ placeAt (s.windowFor h.meas h.win) h = some a ∧ s.link.sinceAck < 63) ∧
    (∃ (s : State) (h : FrameHead) (a : _), s.running = true ∧ s.Accepts h ∧ h.poison = false ∧ h.meas = 0 ∧ 9 ≤ h.win ∧ h.win ≤ 15 ∧ placeAt (some (s.window h.win)) h = some a ∧ s.link.sinceAck < 63) ∧
    (∃ (s : State) (h : FrameHead), s.running = true ∧ s.Accepts h ∧ s.paired = true ∧ s.isOld h = false) ∧
    (∃ (s : State) (h : FrameHead) (counts : _) (r : _) (c : _), s.running = true ∧ s.Accepts h ∧ s.paired = true ∧ h.meas = s.link.committed ∧ s.link.rxMeasures.find? (·.meas == h.meas) = some r ∧ r.whole = true ∧ r.frames = markerCounts counts ∧ r.copy = some c) ∧
    (∃ (s : State) (h : FrameHead), s.running = true ∧ s.Accepts h ∧ s.link.epochRx < h.offset ∧ s.link.sinceAck < 63) :=
  ⟨⟨st, hd 0 3 1 0, by decide +kernel, ⟨by decide +kernel, by decide +kernel, by decide +kernel⟩⟩,
  ⟨st, hd 0 3 1 0, [], ((st.expectNext (hd 0 3 1 0)).onLink fun l => { l with retained := l.retained.filter fun f => f.meas != 0 || decide (((hd 0 3 1 0).offset + 1) % 2 ^ 64 ≤ f.lseq), peerRoom := [] }).showRetained, by decide +kernel, ⟨by decide +kernel, by decide +kernel, by decide +kernel⟩, rfl, by decide +kernel⟩,
  ⟨st, hd 0 3 0 64, [], by decide +kernel, ⟨by decide +kernel, by decide +kernel, by decide +kernel⟩, by decide +kernel⟩,
  ⟨st, hd 1000 0 0 4096, (placeAt (st.windowFor (hd 1000 0 0 4096).meas (hd 1000 0 0 4096).win) (hd 1000 0 0 4096)).get (by decide +kernel), by decide +kernel, ⟨by decide +kernel, by decide +kernel, by decide +kernel⟩, by decide +kernel, by decide +kernel, by decide +kernel, (Option.some_get _).symm, by decide +kernel⟩,
  ⟨st, hd 0 9 0 64, (placeAt (some (st.window (hd 0 9 0 64).win)) (hd 0 9 0 64)).get (by decide +kernel), by decide +kernel, ⟨by decide +kernel, by decide +kernel, by decide +kernel⟩, by decide +kernel, by decide +kernel, by decide +kernel, by decide +kernel, (Option.some_get _).symm, by decide +kernel⟩,
  ⟨st, hd 1000 0 0 64, by decide +kernel, ⟨by decide +kernel, by decide +kernel, by decide +kernel⟩, by decide +kernel⟩,
  ⟨st.onLink fun l => { l with rxMeasures := [⟨5, [], some cp, true⟩] }, hd 5 0 0 0, ([] : List (Nat × Nat)), ((st.onLink fun l => { l with rxMeasures := [⟨5, [], some cp, true⟩] }).link.rxMeasures.find? (·.meas == (hd 5 0 0 0).meas)).get (by decide +kernel), cp, by decide +kernel, ⟨by decide +kernel, by decide +kernel, by decide +kernel⟩, by decide +kernel, by decide +kernel, (Option.some_get _).symm, by decide +kernel⟩,
  ⟨st, hd 0 0 9 0, by decide +kernel, ⟨by decide +kernel, by decide +kernel, by decide +kernel⟩, by decide +kernel⟩⟩
end LinkFramesComplete

namespace LeaseAndCutInCommandsComplete
def grp (g : GroupToken) : List GroupToken := (List.range 8).map fun n => if n = 0 then g else GroupToken.atReset n
def tr : TokenRecord := ⟨0, false, false, 500, 3, 1, 0, 10 ^ 13, 0⟩
def gt (r : LeadRole) : GroupToken := { GroupToken.atReset 0 with role := r, record := tr }
def tk (g : GroupToken) : State := (on.wrs [(LTK_WITC.COUNT, 3), (LTK_WITC.V, 7), (LTK_WIT.W1, 4), (LTK_WIT.W2, 8), (LTK_CFG.MISS, 4), (LTK_STAT.LEAD, 1)]).onToken fun t => { t with groups := grp g }
def cu (n : Nat) (g : GroupToken) : State := (tk g).wrs [(LTK_CSTAT.STATE, n), (LTK_CSTAT.GROUPS, 1)]
/-- Witnesses for `Obligations.LeaseAndCutInCommandsComplete`: every clause's hypotheses hold together. -/
theorem witness_leaseAndCutInCommandsComplete (tag : ∀ k iv h p i, Config.gcmTagByte k iv h p i = 0) :
    (∃ (s : State), s.running = true ∧ (s.token.groups.map (·.group)).Nodup ∧ (∀ p, s.token.passAt = some p → p + 1000 * s.rd LTK_CFG.RENEW ≤ s.now)) ∧
    (∃ (s : State) (g : _) (r : _) (granted : _) (reads : _), s.running = true ∧ (s.token? g).writing = some r ∧ s.token.groups.any (·.group == g) = true ∧ g < 8 ∧ (s.token? g).role = .leading ∧ (s.token? g).phase = .idle ∧ s.peerNamed g reads = false ∧ s.majority ≤ s.grants g granted) ∧
    (∃ (s : State) (g : _), s.running = true ∧ (s.token? g).role = .leading ∧ (s.token? g).record.expires ≤ s.now) ∧
    (∃ (s : State), s.running = true ∧ s.lostModule = false) ∧
    (∃ (s : State) (g : _) (reads : _) (absent : List Nat) (bad : List Nat), s.running = true ∧ s.token.groups.any (·.group == g) = true ∧ s.testDue g = true ∧ s.majority ≤ (s.answeredReads g reads).length ∧ ((((s.setsOf g).flatMap s.memberSlots).any fun k => absent.contains k || bad.contains k) = false) ∧ s.link.markerSeen ≤ s.link.committed) ∧
    (∃ (s : State), s.running = true ∧ s.rd LTK_CSTAT.STATE = cutFollowing ∧ s.link.following ≠ [] ∧ s.peerSilent = true) ∧
    (∃ (s : State) (reads : _), s.running = true ∧ s.rd LTK_CSTAT.STATE = cutSuspect ∧ s.cutGroups ≠ [] ∧ (∀ g ∈ s.cutGroups, s.token.groups.any (·.group == g) = true ∧ s.majority ≤ (s.answeredReads g reads).length ∧ (newestToken (s.answeredReads g reads)).holder = 1 - s.cfg.position)) ∧
    (∃ (s : State), s.running = true ∧ s.token.rereadAt + 1000 * s.rd LTK_CFG.RENEW ≤ s.now ∧ s.rd LTK_CSTAT.STATE = cutWaiting) ∧
    (∃ (s : State), s.running = true ∧ s.token.rereadAt + 1000 * s.rd LTK_CFG.RENEW ≤ s.now ∧ s.rd LTK_CSTAT.STATE = cutClaiming) ∧
    (∃ (s : State), s.running = true ∧ s.rd LTK_CSTAT.STATE = cutWaiting ∧ (∀ g ∈ s.cutGroups, s.claimAt g ≤ s.now)) ∧
    (∃ (s : State) (granted : List (Nat × Nat)), s.running = true ∧ s.rd LTK_CSTAT.STATE = cutClaiming ∧ 0 < s.majority ∧ (∀ g ∈ s.cutGroups, (s.token? g).writing ≠ none ∧ s.token.groups.any (·.group == g) = true ∧ s.majority ≤ s.grants g ((granted.filter (·.1 == g)).map (·.2)))) ∧
    (∃ (s : State), s.running = true ∧ s.rd LTK_CSTAT.STATE = cutFencing) ∧
    (∃ (s : State), s.running = true ∧ s.rd LTK_CSTAT.STATE = cutTaking ∧ s.token.suspects.all s.reconciled = true) ∧
    (∃ (s : State) (at_ : _), s.running = true ∧ s.token.takenAt = some at_ ∧ s.rd LTK_TIMERS.PCYC ≠ 0 ∧ s.token.healthSeen = false ∧ at_ + s.rd LTK_TIMERS.PCYC * 1000000 ≤ s.now) :=
  ⟨⟨tk (gt .leading), by decide +kernel, by decide +kernel, fun p h => by rw [show (tk (gt .leading)).token.passAt = none by decide +kernel] at h; cases h⟩,
  ⟨tk { gt .leading with writing := some tr, sent := reads3 tr }, 0, tr, [0, 1], [], by decide +kernel⟩,
  ⟨tk { gt .leading with record := { tr with expires := 10 } }, 0, by decide +kernel⟩,
  ⟨tk (gt .leading), by decide +kernel⟩,
  ⟨(tk { gt .none with testAsked := true }).onLink fun l => { l with following := [0] }, 0, reads3 tr, [], [], by decide +kernel, by decide +kernel, by decide +kernel, by rw [answered_of tag]; decide +kernel, by decide +kernel, by decide +kernel⟩,
  ⟨(cu cutFollowing (gt .none)).onLink fun l => { l with following := [0] }, by decide +kernel⟩,
  ⟨cu cutSuspect (gt .none), reads3 { tr with holder := 1 - on.cfg.position }, by decide +kernel, by decide +kernel, by decide +kernel, by simp only [answered_of tag]; decide +kernel⟩,
  ⟨cu cutWaiting (gt .none), by decide +kernel⟩,
  ⟨cu cutClaiming (gt .none), by decide +kernel⟩,
  ⟨cu cutWaiting (gt .none), by decide +kernel⟩,
  ⟨cu cutClaiming { gt .trying with writing := some tr, sent := reads3 tr }, [(0, 0), (0, 1)], by decide +kernel⟩,
  ⟨cu cutFencing (gt .claimed), by decide +kernel⟩,
  ⟨cu cutTaking (gt .claimed), by decide +kernel⟩,
  ⟨(tk (gt .leading)).onToken fun t => { t with takenAt := some 5 }, 5, by decide +kernel⟩⟩
end LeaseAndCutInCommandsComplete

namespace HandOverCommandsComplete
def grp (g : GroupToken) : List GroupToken := (List.range 8).map fun n => if n = 0 then g else GroupToken.atReset n
def tr : TokenRecord := ⟨0, false, false, 500, 3, 1, 0, 10 ^ 13, 0⟩
def gt (r : LeadRole) : GroupToken := { GroupToken.atReset 0 with role := r, record := tr }
def tk (g : GroupToken) : State := (((on.wrs [(LTK_WITC.COUNT, 3), (LTK_WITC.V, 7), (LTK_WIT.W1, 4), (LTK_WIT.W2, 8), (LTK_CFG.MISS, 4), (LTK_STAT.LEAD, 1), (EZL_STAT.JOINED, 255), (LTK_HOME.HBEN, 255), (LTK_HOME.HOME, 1), (LTK_HOME.HBDELAY, 0)]).setReg LTK_PHEALTH.addr (0xFF#64 <<< 32))).onToken fun t => { t with groups := grp g }
def nl (g : GroupToken) : State := (tk g).wr LTK_STAT.LEAD 0
/-- Witnesses for `Obligations.HandOverCommandsComplete`: every clause's hypotheses hold together. -/
theorem witness_handOverCommandsComplete (tag : ∀ k iv h p i, Config.gcmTagByte k iv h p i = 0) :
    (∃ (s : State) (g : _), s.running = true ∧ s.peerReady g = true) ∧
    (∃ (s : State) (g : _), s.running = true ∧ bitOf (s.rd LTK_HOME.HBEN) g = true ∧ (s.rd LTK_HOME.HOME / 2 ^ g) % 2 ≠ s.cfg.position ∧ ((s.token? g).readySince.any (fun t => decide (t + s.rd LTK_HOME.HBDELAY * 1000000 ≤ s.now)) = true) ∧ s.peerReady g = true ∧ s.token.surrender = false ∧ bitOf (s.rd64 LTK_PHEALTH.addr) 20 = false) ∧
    (∃ (s : State) (g : _), g < 8 ∧ s.leads g = true ∧ (s.token? g).role = .leading ∧ s.token.groups.any (·.group == g) = true) ∧
    (∃ (s : State) (g : _) (reads : _) (l : _), s.running = true ∧ s.leads g = false ∧ s.flag FLT_STAT.PARKED = false ∧ (l = (s.answeredReads g reads).filter (fun r => (recordIn r).holder == s.cfg.position && (recordIn r).handover)) ∧ s.majority ≤ l.length ∧ s.token.groups.any (·.group == g) = true) ∧
    (∃ (s : State) (g : _) (r : _), s.running = true ∧ (s.token? g).role = .handing ∧ (s.token? g).phase = .writing ∧ (s.token? g).writing = some r ∧ r.issued + 1000 * s.rd LTK_CFG.RENEW ≤ s.now ∧ s.token.groups.any (·.group == g) = true) ∧
    (∃ (s : State) (g : _) (reads : _) (r : _), s.running = true ∧ s.leads g = false ∧ s.flag FLT_STAT.PARKED = false ∧ (s.token? g).role = .none ∧ s.tryDue g = true ∧ s.token.groups.any (·.group == g) = true ∧ s.majority ≤ (s.answeredReads g reads).length ∧ r = newestToken (s.answeredReads g reads) ∧ r.holder = s.cfg.position) ∧
    (∃ (s : State) (w : _) (k : _), s.running = true ∧ s.choosesWitness w = true ∧ s.majority ≤ s.witnesses.length ∧ s.newWitness w = some k) ∧
    (∃ (s : State) (who : _) (g : _), s.running = true ∧ s.Opens who LTK_CMD.addr ∧ g < 8 ∧ s.flag LTK_CMD.BUSY = false) ∧
    (∃ (s : State) (u : State) (who : _) (g : _), s.running = true ∧ s.Opens who LTK_CMD.addr ∧ g < 8 ∧ s.flag LTK_CMD.BUSY = false ∧ u = s.written LTK_CMD.addr (ltkWord 1 g) ∧ u.leads g = true ∧ u.peerReady g = true) ∧
    (∃ (s : State) (u : State) (who : _) (g : _), s.running = true ∧ s.Opens who LTK_CMD.addr ∧ g < 8 ∧ s.flag LTK_CMD.BUSY = false ∧ u = s.written LTK_CMD.addr (ltkWord 3 g) ∧ u.leads g = true) ∧
    (∃ (s : State) (u : State) (who : _) (g : _), s.running = true ∧ s.Opens who LTK_CMD.addr ∧ g < 8 ∧ s.flag LTK_CMD.BUSY = false ∧ u = s.written LTK_CMD.addr (ltkWord 2 0) ∧ (List.range 8).filter u.leads = [g] ∧ u.peerReady g = true) ∧
    (∃ (s : State) (who : _) (g : _), s.running = true ∧ s.Opens who LTK_CMD.addr ∧ g < 8 ∧ s.flag LTK_CMD.BUSY = false ∧ s.leads g = false ∧ (bitOf s.link.peerLeads g = false ∨ s.peerSilent = true)) :=
  ⟨⟨tk (gt .leading), 0, by decide +kernel⟩,
  ⟨(tk { gt .leading with readySince := some 5 }), 0, by decide +kernel⟩,
  ⟨tk (gt .leading), 0, by decide +kernel⟩,
  ⟨nl (gt .none), 0, reads3 { tr with handover := true }, (answeredZ (nl (gt .none)) 0 (reads3 { tr with handover := true })).filter (fun r => (recordIn r).holder == (nl (gt .none)).cfg.position && (recordIn r).handover), by decide +kernel, by decide +kernel, by decide +kernel, by rw [answered_of tag], by decide +kernel, by decide +kernel⟩,
  ⟨tk { gt .handing with phase := .writing, writing := some tr }, 0, tr, by decide +kernel⟩,
  ⟨nl (gt .none), 0, reads3 tr, newestToken (answeredZ (nl (gt .none)) 0 (reads3 tr)), by decide +kernel, by decide +kernel, by decide +kernel, by decide +kernel, by decide +kernel, by decide +kernel, by rw [answered_of tag]; decide +kernel, by rw [answered_of tag], by decide +kernel⟩,
  ⟨((tk (gt .leading)).wrs [(QDL_MEM.VALID 0 2, 1), (QDL_MEM.SLOT 0 2, 24), (LTK_WITC.V, 5), (SLT_STAT.STATE 24, slotReady)]).onSlots fun x => { x with reports := [(24, drive)] }, 1, 24, by decide +kernel⟩,
  ⟨tk (gt .leading), Requester.ronhenko, 0, by decide +kernel, (opens_of (by decide +kernel)), by decide +kernel⟩,
  ⟨tk (gt .leading), (tk (gt .leading)).written LTK_CMD.addr (ltkWord 1 0), Requester.ronhenko, 0, by decide +kernel, (opens_of (by decide +kernel)), by decide +kernel, by decide +kernel, rfl, by decide +kernel⟩,
  ⟨tk (gt .leading), (tk (gt .leading)).written LTK_CMD.addr (ltkWord 3 0), Requester.ronhenko, 0, by decide +kernel, (opens_of (by decide +kernel)), by decide +kernel, by decide +kernel, rfl, by decide +kernel⟩,
  ⟨tk (gt .leading), (tk (gt .leading)).written LTK_CMD.addr (ltkWord 2 0), Requester.ronhenko, 0, by decide +kernel, (opens_of (by decide +kernel)), by decide +kernel, by decide +kernel, rfl, by decide +kernel⟩,
  ⟨nl (gt .none), Requester.ronhenko, 0, by decide +kernel, (opens_of (by decide +kernel)), by decide +kernel⟩⟩
end HandOverCommandsComplete

namespace LayoutAndPromenadeCommandsComplete
def figr (row : Nat) : FigRow := ⟨0, row, (List.range 6) ++ List.replicate 42 255, 1, 6, 1⟩
def lay : State := ((((led.wrs ((List.range 6).flatMap fun u => [(QDL_MEM.VALID 0 u, 1), (QDL_MEM.SLOT 0 u, 4 * u), (SLT_STAT.STATE (4 * u), 5)])).wrs [(QDL_GEOM.VALID 0, 1), (QDL_GEOM.NMEM 0, 6), (QDL_GEOM.KDATA 0, 4), (QDL_GEOM.MPAR 0, 1), (QDL_GEOM.SPARE 0, 1), (QDL_GEOM.BLOCKS 0, 1), (QDL_GEN.GEN 0, 1), (CAL_GRANT.JOBS, 511), (LTK_WITC.V, 7), (LTK_WITC.COUNT, 3), (LTK_WIT.W1, 4), (LTK_WIT.W2, 8), (LTK_STAT.LEAD, 1), (VLT_STAT.STATE, 1)]).onStore fun t => { t with fig := (List.range 6).map figr, memberBlocks := [(0, 400000)], assembled := [0], slotBlocks := (List.range 6).map fun u => (4 * u, 400000), stripeMap := [(0, 3)] })).onHost fun h => { h with namespaces := [ns1] }
def layN (g : Nat) : State := (lay.wrs [(QDL_GEOM_NEXT.VALID 0, 1), (QDL_GEOM_NEXT.NMEM 0, 6), (QDL_GEOM_NEXT.KDATA 0, 4), (QDL_GEOM_NEXT.MPAR 0, 1), (QDL_GEOM_NEXT.SPARE 0, 1), (QDL_GEOM_NEXT.BLOCKS 0, 1), (QDL_GEN.GEN 0, g), (QDL_GEN.GEN_NEXT 0, g + 1)]).onStore fun t => { t with figNext := (List.range 6).map fun r => { figr r with gen := g + 1 } }
def os (p : StripePhase) (idle : Bool) : OpenStripe := ⟨0, 3, 0, 1, 1, 0, 5, true, p, 1, [(0, 0)], [(0, 0, [1])], [], idle, false, false, []⟩
def je (st : Nat) : JournalEntry := ⟨5, 9, 1, 0, 3, 1, st, 1, 1, 0, [], [], false⟩
def mv (st : MoveState) : ExtentMove := ⟨0, 1, 0, 0, 1, st, [], [], 0, none, [], 0, 0⟩
def jr : State := (lay.wrs [(QDL_JDRV.V0 0, 1), (QDL_JDRV.J0 0, 0)]).onStore fun t => { t with unwritten := [je 1] }
def jw : List JournalEntry := jr.store.unwritten.filter fun e => e.set == 0 && jr.recordDue e
/-- Witnesses for `Obligations.LayoutAndPromenadeCommandsComplete`: every clause's hypotheses hold together. -/
theorem witness_layoutAndPromenadeCommandsComplete (crc : ∀ b, Config.crc32c b = 0) :
    (∃ (s : State) (u : State) (who : _) (set : _) (row : _), s.running = true ∧ s.Opens who QDL_FIG_CMD.addr ∧ set < 4 ∧ row < 4096 ∧ u = s.written QDL_FIG_CMD.addr (figWord 1 set row) ∧ u.flag (QDL_GEOM_NEXT.VALID set) = true ∧ row < (u.geomNext set).f ∧ figRowAccepted (figRowOf set (u.getWords (QDL_FIG_DATA.addr 0) 16)).cols (figRowOf set (u.getWords (QDL_FIG_DATA.addr 0) 16)).row (figRowOf set (u.getWords (QDL_FIG_DATA.addr 0) 16)).n (figRowOf set (u.getWords (QDL_FIG_DATA.addr 0) 16)).spare row (u.geomNext set) = true ∧ Config.crc32c ((u.getWords (QDL_FIG_DATA.addr 0) 16).take 60) = BitVec.ofNat 32 (leNat ((u.getWords (QDL_FIG_DATA.addr 0) 16).drop 60))) ∧
    (∃ (s : State) (u : State) (who : _) (set : _) (row : _), s.running = true ∧ s.Opens who QDL_FIG_CMD.addr ∧ set < 4 ∧ row < 4096 ∧ u = s.written QDL_FIG_CMD.addr (figWord 2 set row) ∧ u.flag (QDL_GEOM.VALID set) = true ∧ row < (u.geom set).f) ∧
    (∃ (s : State) (u : State) (who : _) (set : _) (row : _), s.running = true ∧ s.Opens who QDL_FIG_CMD.addr ∧ set < 4 ∧ row < 4096 ∧ u = s.written QDL_FIG_CMD.addr (figWord 3 set row) ∧ u.flag (QDL_GEOM_NEXT.VALID set) = true ∧ row < (u.geomNext set).f) ∧
    (∃ (s : State) (set : _) (stripe : _) (o : _), s.running = true ∧ s.openStripe set stripe = some o ∧ o.idle = true ∧ s.granted 4 = true) ∧
    (∃ (s : State) (set : _) (stripe : _) (o : _), s.running = true ∧ s.openStripe set stripe = some o ∧ o.phase = .opened ∧ s.rd QDL_OPEN.IDLE ≤ s.measure - o.lastWrite) ∧
    (∃ (s : State) (t : State) (set : _) (waiting : _) (due : _), s.running = true ∧ s.journalDrives set ≠ [] ∧ (waiting = (s.store.unwritten.filter fun e => e.set == set && s.recordDue e)) ∧ waiting ≠ [] ∧ due = waiting.take (63 - (s.carried set (perSet s.store.bseq set + 1)).length) ∧ t = s.writeJournalBlock set due (s.journalTargets set)) ∧
    (∃ (s : State) (u : State) (who : _) (set : _) (l : _), s.running = true ∧ s.Opens who RBD_PCMD.addr ∧ set < 4 ∧ u = s.written RBD_PCMD.addr (layoutWord 1 set) ∧ u.setFree set = true ∧ u.nextGeometryLegal set = true ∧ u.nextFigureComplete set = true ∧ u.nextGenerationFollows set = true ∧ u.plan set = some l) ∧
    (∃ (s : State) (u : State) (who : _) (set : _), s.running = true ∧ s.Opens who RBD_PCMD.addr ∧ set < 4 ∧ u = s.written RBD_PCMD.addr (layoutWord 2 set) ∧ u.rd (QDL_GEN.GEN set) = 0 ∧ u.store.epochs.any (·.set == set) = false ∧ u.nextGeometryLegal set = true ∧ u.nextFigureComplete set = true ∧ u.nextGenerationFollows set = true) ∧
    (∃ (s : State) (u : State) (who : _) (set : _), s.running = true ∧ s.Opens who RBD_PCMD.addr ∧ set < 4 ∧ u = s.written RBD_PCMD.addr (layoutWord 3 set) ∧ u.flag (QDL_GEOM.VALID set) = true ∧ u.allocatedExtents set = [] ∧ u.store.deletedExtents.any (·.set == set) = false ∧ u.store.epochs.any (·.set == set) = false ∧ u.rd (RBD_SSTAT.PROM set) = 0) ∧
    (∃ (s : State) (nsid : _) (ext : _) (m : _), s.running = true ∧ s.move nsid ext = some m ∧ m.state = .waiting ∧ s.energy.mapWait = false ∧ s.walkRunsOn m.set = false ∧ s.destinationFree m = true ∧ (s.store.moves.filter fun n => n.set == m.set && (n.state == .copying || n.state == .catchUp)).length < s.rd RBD_PROM.PAR ∧ s.granted 7 = true ∧ s.rd (RBD_SSTAT.STATE m.set) = 0) ∧
    (∃ (s : State) (nsid : _) (ext : _) (m : _), s.running = true ∧ s.move nsid ext = some m ∧ m.state = .copying ∧ m.passOver = true ∧ s.walkRunsOn m.set = false ∧ m.dirty.length ≤ s.rd RBD_PROM.CATCH) ∧
    (∃ (s : State) (nsid : _) (ext : _) (m : _), s.running = true ∧ s.move nsid ext = some m ∧ m.state = .catchUp ∧ m.passOver = true ∧ m.dirty = [] ∧ s.moveQuiet m = true) ∧
    (∃ (s : State) (nsid : _) (ext : _) (m : _), s.running = true ∧ s.move nsid ext = some m ∧ m.state = .switched ∧ s.oldLayoutQuiet m = true) ∧
    (∃ (s : State) (set : _), s.running = true ∧ set < 4 ∧ s.rd (RBD_SSTAT.PROM set) = 1 ∧ s.store.epochs.any (·.set == set) = false ∧ ((s.store.moves.filter (·.set == set)).all (fun m => m.state == .switched || m.state == .freed) = true)) ∧
    (∃ (s : State) (set : _), s.running = true ∧ set < 4 ∧ s.rd (RBD_SSTAT.PROM set) = 2 ∧ (s.store.moves.filter (·.set == set)).all (·.state == .freed) = true ∧ ((s.store.ops.any fun o => o.set == set && o.purpose == .background && o.kind == .dealloc) = false)) :=
  ⟨⟨(layN 1).setWords (QDL_FIG_DATA.addr 0) 16 ((List.range 6).map (BitVec.ofNat 8 ·) ++ List.replicate 42 255 ++ [2, 0, 0, 0, 6, 1] ++ List.replicate 10 0), ((layN 1).setWords (QDL_FIG_DATA.addr 0) 16 ((List.range 6).map (BitVec.ofNat 8 ·) ++ List.replicate 42 255 ++ [2, 0, 0, 0, 6, 1] ++ List.replicate 10 0)).written QDL_FIG_CMD.addr (figWord 1 0 2), Requester.ronhenko, 0, 2, by decide +kernel, (opens_of (by decide +kernel)), by decide +kernel, by decide +kernel, rfl, by decide +kernel, by decide +kernel, by decide +kernel, (crc_of crc (by decide +kernel))⟩,
  ⟨layN 1, (layN 1).written QDL_FIG_CMD.addr (figWord 2 0 2), Requester.ronhenko, 0, 2, by decide +kernel, (opens_of (by decide +kernel)), by decide +kernel, by decide +kernel, rfl, by decide +kernel⟩,
  ⟨layN 1, (layN 1).written QDL_FIG_CMD.addr (figWord 3 0 2), Requester.ronhenko, 0, 2, by decide +kernel, (opens_of (by decide +kernel)), by decide +kernel, by decide +kernel, rfl, by decide +kernel⟩,
  ⟨lay.onStore fun t => { t with openStripes := [os .opened true] }, 0, 3, os .opened true, by decide +kernel⟩,
  ⟨lay.onStore fun t => { t with openStripes := [os .opened false] }, 0, 3, os .opened false, by decide +kernel⟩,
  ⟨jr, jr.writeJournalBlock 0 (jw.take (63 - (jr.carried 0 (perSet jr.store.bseq 0 + 1)).length)) (jr.journalTargets 0), 0, jw, jw.take (63 - (jr.carried 0 (perSet jr.store.bseq 0 + 1)).length), by decide +kernel, by decide +kernel, rfl, by decide +kernel, rfl, rfl⟩,
  ⟨layN 1, (layN 1).written RBD_PCMD.addr (layoutWord 1 0), Requester.ronhenko, 0, (((layN 1).written RBD_PCMD.addr (layoutWord 1 0)).plan 0).get (by decide +kernel), by decide +kernel, (opens_of (by decide +kernel)), by decide +kernel, rfl, by decide +kernel, by decide +kernel, by decide +kernel, by decide +kernel, (Option.some_get _).symm⟩,
  ⟨layN 0, (layN 0).written RBD_PCMD.addr (layoutWord 2 0), Requester.ronhenko, 0, by decide +kernel, (opens_of (by decide +kernel)), by decide +kernel, rfl, by decide +kernel⟩,
  ⟨(layN 1).onHost fun h => { h with namespaces := [] }, ((layN 1).onHost fun h => { h with namespaces := [] }).written RBD_PCMD.addr (layoutWord 3 0), Requester.ronhenko, 0, by decide +kernel, (opens_of (by decide +kernel)), by decide +kernel, rfl, by decide +kernel⟩,
  ⟨(layN 1).onStore fun t => { t with moves := [{ mv .waiting with source := 0, dest := 5 }] }, 1, 0, { mv .waiting with source := 0, dest := 5 }, by decide +kernel⟩,
  ⟨(layN 1).onStore fun t => { t with moves := [mv .copying] }, 1, 0, mv .copying, by decide +kernel⟩,
  ⟨(layN 1).onStore fun t => { t with moves := [mv .catchUp] }, 1, 0, mv .catchUp, by decide +kernel⟩,
  ⟨(layN 1).onStore fun t => { t with moves := [mv .switched] }, 1, 0, mv .switched, by decide +kernel⟩,
  ⟨((layN 1).wr (RBD_SSTAT.PROM 0) 1).onStore fun t => { t with moves := [mv .switched] }, 0, by decide +kernel⟩,
  ⟨((layN 1).wr (RBD_SSTAT.PROM 0) 2).onStore fun t => { t with moves := [mv .freed] }, 0, by decide +kernel⟩⟩
end LayoutAndPromenadeCommandsComplete

namespace RebuildAndMemberCommandsComplete
def figr (row : Nat) : FigRow := ⟨0, row, (List.range 6) ++ List.replicate 42 255, 1, 6, 1⟩
def lay : State := ((((led.wrs ((List.range 6).flatMap fun u => [(QDL_MEM.VALID 0 u, 1), (QDL_MEM.SLOT 0 u, 4 * u), (SLT_STAT.STATE (4 * u), 5)])).wrs [(QDL_GEOM.VALID 0, 1), (QDL_GEOM.NMEM 0, 6), (QDL_GEOM.KDATA 0, 4), (QDL_GEOM.MPAR 0, 1), (QDL_GEOM.SPARE 0, 1), (QDL_GEOM.BLOCKS 0, 1), (QDL_GEN.GEN 0, 1), (CAL_GRANT.JOBS, 511), (LTK_WITC.V, 7), (LTK_WITC.COUNT, 3), (LTK_WIT.W1, 4), (LTK_WIT.W2, 8), (LTK_STAT.LEAD, 1), (VLT_STAT.STATE, 1)]).onStore fun t => { t with fig := (List.range 6).map figr, memberBlocks := [(0, 400000)], assembled := [0], slotBlocks := (List.range 6).map fun u => (4 * u, 400000), stripeMap := [(0, 3)] })).onHost fun h => { h with namespaces := [ns1] }
def layN (g : Nat) : State := (lay.wrs [(QDL_GEOM_NEXT.VALID 0, 1), (QDL_GEOM_NEXT.NMEM 0, 6), (QDL_GEOM_NEXT.KDATA 0, 4), (QDL_GEOM_NEXT.MPAR 0, 1), (QDL_GEOM_NEXT.SPARE 0, 1), (QDL_GEOM_NEXT.BLOCKS 0, 1), (QDL_GEN.GEN 0, g), (QDL_GEN.GEN_NEXT 0, g + 1)]).onStore fun t => { t with figNext := (List.range 6).map fun r => { figr r with gen := g + 1 } }
def os (p : StripePhase) (idle : Bool) : OpenStripe := ⟨0, 3, 0, 1, 1, 0, 5, true, p, 1, [(0, 0)], [(0, 0, [1])], [], idle, false, false, []⟩
def je (st : Nat) : JournalEntry := ⟨5, 9, 1, 0, 3, 1, st, 1, 1, 0, [], [], false⟩
def mv (st : MoveState) : ExtentMove := ⟨0, 1, 0, 0, 1, st, [], [], 0, none, [], 0, 0⟩
def rb : State := (lay.wrs [(QDL_MEM.FAILED 0 2, 1), (QDL_SUB.VALID 0 0, 1), (QDL_SUB.STATE 0 0, 1), (QDL_SUB.MEMBER 0 0, 2)]).onStore fun t => { t with counted := [(0, 3)] }
def stp (w : RowPurpose) : StripeStep := ⟨0, 1, 3, w, true, [], 0, false⟩
def sr : State := lay.onStore fun t => { t with steps := [stp .rebuild] }
def sc (f : Store → Store) : State := lay.onStore fun t => f { t with memberBlocks := [(0, 270000)] }
def cb : State := sc fun t => { t with copyBack := [(0, 2)] }
def de (l : List (Nat × Nat)) : State := lay.onStore fun t => { t with stripeMap := l, deletedExtents := [⟨0, 0, 0, false⟩, ⟨0, 3, 0, false⟩] }
def le : LostEntry := ⟨0, 3, 1, 8, 1, 5, 1, 1, false, true⟩
def oo (k : OpKind) : MemberOp := ⟨7, 4, k, 0, 3, 0, 0, 1, 9, 1, List.replicate 4096 1, .background, 0, 0, 0, 0, false, 0⟩
/-- Witnesses for `Obligations.RebuildAndMemberCommandsComplete`: every clause's hypotheses hold together. -/
theorem witness_rebuildAndMemberCommandsComplete :
    (∃ (s : State) (set : _) (at' : _), s.running = true ∧ s.granted 3 = true ∧ s.energy.mapWait = false ∧ s.nextRebuild set = some at') ∧
    (∃ (s : State) (u : State) (v : State) (set : _) (stripe : _) (p : _), s.running = true ∧ s.step? set stripe = some p ∧ p.why = .rebuild ∧ p.started = true ∧ p.rowsLeft = [] ∧ p.writes = 0 ∧ (s.store.lostFixes.any (fun f => f.set == set && f.stripe == stripe) = false) ∧ u = s.setRebuilt set (s.pos set p.gen stripe) ∧ (v = ((({ u with store := { u.store with steps := u.store.steps.filter fun q => !(q.set == set && q.stripe == stripe), promoted := u.store.promoted.filter (· != (set, s.pos set p.gen stripe)) } } : State).count RBD_STRIPES.addr).unlockStripe set stripe).showRebuild set)) ∧
    (∃ (s : State), s.running = true) ∧
    (∃ (s : State) (u : State) (t : State) (block : _) (found : _) (entries : _) (q : _) (head : _) (c : _) (tag : _), s.running = true ∧ s.writesLostMap = true ∧ block < 512 ∧ s.witnesses ≠ [] ∧ entries = (s.store.lost.drop (126 * block)).take 126 ∧ u = s.startLostMap found ∧ q = u.store.mseq + 1 ∧ head = leBytes 8 q ++ leBytes 8 u.measure ++ leBytes 2 entries.length ++ leBytes 1 u.cfg.position ++ leBytes 13 0 ∧ u.sealRecord 1 (lostHead u.cfg.position) q head (padTo 4032 (entries.flatMap (·.bytes))) = some (c, tag, t)) ∧
    (∃ (s : State) (set : _) (stripe : _) (strip : _) (n : _), s.running = true ∧ ((s.store.lost.findIdx? fun e => e.own && e.isAt set stripe strip) = some n)) ∧
    (∃ (s : State) (set : _) (drive : _) (u : _) (live : _), s.running = true ∧ drive ≤ 2 ∧ (drive = 0 → s.flag (QDL_JDRV.V0 set) = false) ∧ (drive = 1 → s.flag (QDL_JDRV.V1 set) = false) ∧ (drive = 2 → s.flag (QDL_JDRV.V2 set) = false) ∧ ((s.store.rehome.any fun r => r.1 == set && r.2.1 == drive) = false) ∧ s.journalCandidate set = some u ∧ (live = (s.store.journal.filter fun e => e.set == set && e.state != 3))) ∧
    (∃ (s : State) (set : _) (at' : _) (gen : _) (stripe : _) (strip : _) (row : _), s.running = true ∧ s.flag RBD_CTL.REPAIR_EN = true ∧ s.store.badFound.contains (set, at', strip, row) = true ∧ s.stripeAt set at' = (gen, stripe) ∧ s.stripeMine set gen stripe = true ∧ s.step? set stripe = none) ∧
    (∃ (s : State) (set : _) (stripe : _) (gen : _) (due : _) (busy : _), s.running = true ∧ s.flag RBD_CTL.SCRUB_EN = true ∧ s.rd (RBD_SSTAT.STATE set) = 0 ∧ s.rd (RBD_SSTAT.PROM set) = 0 ∧ s.granted 6 = true ∧ gen = s.rd (QDL_GEN.GEN set) ∧ due = (List.range ((s.geom set).stripes (s.memberCapacity set))).find? (s.scrubDue set) ∧ (busy = ((s.openStripe set stripe).isSome || s.store.journal.any fun e => e.set == set && e.stripe == stripe)) ∧ due = none ∧ s.store.revisit.any (·.1 == set) = false) ∧
    (∃ (s : State) (set : _) (stripe : _) (gen : _) (due : _) (busy : _), s.running = true ∧ s.flag RBD_CTL.SCRUB_EN = true ∧ s.rd (RBD_SSTAT.STATE set) = 0 ∧ s.rd (RBD_SSTAT.PROM set) = 0 ∧ s.granted 6 = true ∧ gen = s.rd (QDL_GEN.GEN set) ∧ due = (List.range ((s.geom set).stripes (s.memberCapacity set))).find? (s.scrubDue set) ∧ (busy = ((s.openStripe set stripe).isSome || s.store.journal.any fun e => e.set == set && e.stripe == stripe)) ∧ due = some stripe ∧ s.store.revisit.contains (set, stripe) = false ∧ busy = false) ∧
    (∃ (s : State) (set : _) (stripe : _) (gen : _) (due : _) (busy : _), s.running = true ∧ s.flag RBD_CTL.SCRUB_EN = true ∧ s.rd (RBD_SSTAT.STATE set) = 0 ∧ s.rd (RBD_SSTAT.PROM set) = 0 ∧ s.granted 6 = true ∧ gen = s.rd (QDL_GEN.GEN set) ∧ due = (List.range ((s.geom set).stripes (s.memberCapacity set))).find? (s.scrubDue set) ∧ (busy = ((s.openStripe set stripe).isSome || s.store.journal.any fun e => e.set == set && e.stripe == stripe)) ∧ due = some stripe ∧ s.store.revisit.contains (set, stripe) = false ∧ busy = true) ∧
    (∃ (s : State) (set : _) (stripe : _) (gen : _) (due : _) (busy : _), s.running = true ∧ s.flag RBD_CTL.SCRUB_EN = true ∧ s.rd (RBD_SSTAT.STATE set) = 0 ∧ s.rd (RBD_SSTAT.PROM set) = 0 ∧ s.granted 6 = true ∧ gen = s.rd (QDL_GEN.GEN set) ∧ due = (List.range ((s.geom set).stripes (s.memberCapacity set))).find? (s.scrubDue set) ∧ (busy = ((s.openStripe set stripe).isSome || s.store.journal.any fun e => e.set == set && e.stripe == stripe)) ∧ s.store.revisit.contains (set, stripe) = true ∧ busy = false) ∧
    (∃ (s : State) (set : _) (u : _) (b : _), s.running = true ∧ s.rd (SLT_STAT.STATE (s.slotOf set u)) = 5 ∧ s.store.slotBlocks.find? (·.1 == s.slotOf set u) = some (s.slotOf set u, b) ∧ s.memberCapacity set ≤ b ∧ s.flag (QDL_MEM.FAILED set u) = true) ∧
    (∃ (s : State) (t : State) (set : _) (u : _) (at' : _) (gen : _) (stripe : _), s.running = true ∧ s.store.copyBack.find? (·.1 == set) = some (set, u) ∧ s.granted 3 = true ∧ s.energy.mapWait = false ∧ ((s.store.steps.any fun p => p.set == set && p.why == .copyBack) = false) ∧ (((List.range (s.positions set)).find? fun p => decide (s.rd64 (RBD_CPOS.addr set) ≤ p) && s.stripeHolds set (s.stripeAt set p).1 (s.stripeAt set p).2 u) = some at') ∧ t = s.setReg (RBD_CPOS.addr set) (BitVec.ofNat 64 at') ∧ t.stripeAt set at' = (gen, stripe) ∧ t.stripeMine set gen stripe = true ∧ (t.stripeGroup set gen stripe).isSome = true) ∧
    (∃ (s : State) (t : State) (set : _) (stripe : _) (g : _) (gen : _), s.running = true ∧ gen = s.rd (QDL_GEN.GEN set) ∧ s.deletedGroup set gen stripe = some g ∧ s.leads g = true ∧ s.energy.mapWait = false ∧ s.step? set stripe = none ∧ s.store.locked.contains (set, stripe) = false ∧ s.openStripe set stripe = none ∧ t = (if s.mapBit set gen stripe then s.deallocStripe set gen stripe else s) ∧ t.extentGone set (stripe / (t.geom set).perExtent) = false) ∧
    (∃ (s : State) (t : State) (set : _) (stripe : _) (g : _) (gen : _), s.running = true ∧ gen = s.rd (QDL_GEN.GEN set) ∧ s.deletedGroup set gen stripe = some g ∧ s.leads g = true ∧ s.energy.mapWait = false ∧ s.step? set stripe = none ∧ s.store.locked.contains (set, stripe) = false ∧ s.openStripe set stripe = none ∧ t = (if s.mapBit set gen stripe then s.deallocStripe set gen stripe else s) ∧ t.extentGone set (stripe / (t.geom set).perExtent) = true) ∧
    (∃ (s : State) (op : _) (o : _), s.running = true ∧ s.store.ops.find? (·.id == op) = some o ∧ o.kind ≠ .read) ∧
    (∃ (s : State) (op : _) (o : _), s.running = true ∧ s.store.ops.find? (·.id == op) = some o ∧ o.kind = .read) ∧
    (∃ (s : State) (op : _) (o : _) (tag : _), s.running = true ∧ s.store.ops.find? (·.id == op) = some o ∧ o.kind = .read ∧ tag ≠ 0xFFFF) :=
  ⟨⟨rb, 0, (rb.nextRebuild 0).get (by decide +kernel), by decide +kernel, by decide +kernel, by decide +kernel, (Option.some_get _).symm⟩,
  ⟨sr, _, _, 0, 3, stp .rebuild, by decide +kernel, by decide +kernel, by decide +kernel, by decide +kernel, by decide +kernel, by decide +kernel, by decide +kernel, rfl, rfl⟩,
  ⟨lay, by decide +kernel⟩,
  ⟨lay.onStore fun t => { t with lost := [le], lostWriter := true }, _, _, 0, [], _, _, _, _, _, by decide +kernel, by decide +kernel, by decide +kernel, by decide +kernel, rfl, rfl, rfl, rfl, get3 _ (by decide +kernel)⟩,
  ⟨lay.onStore fun t => { t with lost := [le] }, 0, 3, 1, 0, by decide +kernel⟩,
  ⟨lay, 0, 0, (lay.journalCandidate 0).get (by decide +kernel), _, by decide +kernel, by decide, by decide +kernel, by decide +kernel, by decide +kernel, by decide +kernel, (Option.some_get _).symm, rfl⟩,
  ⟨lay.onStore fun t => { t with badFound := [(0, 3, 1, 0)] }, 0, 3, 1, 3, 1, 0, by decide +kernel⟩,
  ⟨lay.onStore fun t => { t with memberBlocks := [(0, 0)] }, 0, 5, 1, none, false, by decide +kernel⟩,
  ⟨sc id, 0, 3, 1, some 3, false, by decide +kernel⟩,
  ⟨sc fun t => { t with journal := [je 1] }, 0, 3, 1, some 3, true, by decide +kernel⟩,
  ⟨sc fun t => { t with revisit := [(0, 3)] }, 0, 3, 1, some 3, false, by decide +kernel⟩,
  ⟨rb, 0, 2, 400000, by decide +kernel⟩,
  ⟨cb, _, 0, 2, 0, 1, 0, by decide +kernel, by decide +kernel, by decide +kernel, by decide +kernel, by decide +kernel, by decide +kernel, rfl, by decide +kernel⟩,
  ⟨de [(0, 3), (0, 4)], _, 0, 3, 0, 1, by decide +kernel, by decide +kernel, by decide +kernel, by decide +kernel, by decide +kernel, by decide +kernel, by decide +kernel, by decide +kernel, rfl, by decide +kernel⟩,
  ⟨de [], _, 0, 3, 0, 1, by decide +kernel, by decide +kernel, by decide +kernel, by decide +kernel, by decide +kernel, by decide +kernel, by decide +kernel, by decide +kernel, rfl, by decide +kernel⟩,
  ⟨lay.onStore fun t => { t with ops := [oo .write] }, 7, oo .write, by decide +kernel⟩,
  ⟨lay.onStore fun t => { t with ops := [oo .read] }, 7, oo .read, by decide +kernel⟩,
  ⟨lay.onStore fun t => { t with ops := [oo .read] }, 7, oo .read, 5, by decide +kernel⟩⟩
end RebuildAndMemberCommandsComplete

namespace SwitchCommandsComplete
def fo : FrameOffer := ⟨0, 0, List.replicate 200 0, 0, 0x0800, 0, 0, false, .other, [(1, 0)], none, 3, 7, false, 0, none, none⟩
def fm (st : FrameStage) (ord : Bool) (seq : Nat) : Frame := ⟨9, 0, 0, 1, 0, 3, List.replicate 200 0, [], 0, false, 0, 0, 0, false, ord, false, false, 7, seq, 0, false, false, none, none, 5, st⟩
def sw (f : Frame) : State := on.onSwitch fun w => { w with frames := [f] }
/-- Witnesses for `Obligations.SwitchCommandsComplete`: every clause's hypotheses hold together. -/
theorem witness_switchCommandsComplete :
    (∃ (s : State) (f : FrameOffer), s.running = true ∧ (tableForwards f.src = false ∨ s.clock.windowOpen = false)) ∧
    (∃ (s : State) (id : _) (f : Frame) (bad : Option BadTail), s.running = true ∧ s.frame? id = some f ∧ ((f.dest < 4 ∧ f.stage = .sending) ∨ (4 ≤ f.dest ∧ f.stage = .queued)) ∧ (f.tailAt ≤ s.now ∨ bad = some .underrun)) ∧
    (∃ (s : State) (id : _) (f : Frame), s.running = true ∧ s.frame? id = some f ∧ f.ordered = true ∧ f.stage = .arriving) ∧
    (∃ (s : State) (dest : _) (flow : _) (d : _), s.running = true ∧ (((s.switch.frames.filter fun f => f.stage == .tracked && f.dest == dest && f.flow == flow).map fun f => (f.seq + 65536 - flowNumber s.switch.expected flow dest % 65536) % 65536).min? = some d)) ∧
    (∃ (s : State) (dest : _) (f : _), s.running = true ∧ ((s.switch.frames.find? fun f => f.stage == .overflow && f.dest == dest) = some f) ∧ (s.trackerFlows dest).length < 4096) ∧
    (∃ (s : State) (p : _) (l : _) (c : _), s.running = true ∧ p < 4 ∧ l < s.cfg.lanes.getD p 1 ∧ c < 8) ∧
    (∃ (s : State) (p : _) (l : _) (c : _) (q : _), s.running = true ∧ p < 4 ∧ l < s.cfg.lanes.getD p 1 ∧ c < 8 ∧ 0 < q) ∧
    (∃ (s : State) (p : _) (l : _) (c : _) (x : _), s.running = true ∧ x ∈ s.switch.pauses ∧ x.at_ = ⟨p, l, c⟩ ∧ x.until_ ≤ s.now) ∧
    (∃ (s : State) (p : _) (l : _) (c : _) (x : _), s.running = true ∧ x ∈ s.switch.pauses ∧ x.at_ = ⟨p, l, c⟩ ∧ x.since + 1000000 * s.rd SWC_PFCWD.TIME ≤ s.now ∧ x.since + 1000000 * s.rd SWC_PFCWD.TIME ≤ x.until_ ∧ (⟨p, l, c⟩ : LaneClass) ∉ s.switch.discarding) ∧
    (∃ (s : State) (p : _) (l : _) (c : _), s.running = true ∧ ((s.switch.lastPause.find? (·.1 == ⟨p, l, c⟩)).map (·.2)).getD 0 + 1000000 * s.rd SWC_PFCWD.TIME ≤ s.now) ∧
    (∃ (s : State) (who : _) (v : Word), s.running = true ∧ s.clock.windowOpen = false ∧ s.Opens who (SWC_EPOCH_TGT.addr + 4) ∧ s.flag SWC_EPOCH.DRAIN_PEND = false ∧ s.measure < (s.pairRequest who SWC_EPOCH_TGT.addr v).toNat) ∧
    (∃ (s : State) (who : _) (idx : _), s.running = true ∧ s.clock.windowOpen = false ∧ s.Opens who SWC_FT_CMD.addr ∧ idx < 1024 ∧ s.flag SWC_EPOCH.DRAIN_PEND = false) ∧
    (∃ (s : State) (who : _) (idx : _), s.running = true ∧ s.clock.windowOpen = false ∧ s.Opens who SWC_FT_CMD.addr ∧ idx < 1024 ∧ s.flag SWC_EPOCH.DRAIN_PEND = false ∧ (entryAt s.switch.active idx).length = 16) ∧
    (∃ (s : State) (who : _) (idx : _), s.running = true ∧ s.clock.windowOpen = false ∧ s.Opens who SWC_FT_CMD.addr ∧ idx < 1024 ∧ s.flag SWC_EPOCH.DRAIN_PEND = false ∧ (entryAt s.switch.shadow idx).length = 16) ∧
    (∃ (s : State), s.running = true ∧ s.flag SWC_EPOCH.DRAIN_PEND = true ∧ s.oldEpochGone = true) :=
  ⟨⟨on, fo, by decide +kernel⟩,
  ⟨sw (fm .sending false 0), 9, fm .sending false 0, none, by decide +kernel⟩,
  ⟨sw (fm .arriving true 0), 9, fm .arriving true 0, by decide +kernel⟩,
  ⟨sw (fm .tracked true 4), 1, 7, 4, by decide +kernel⟩,
  ⟨sw (fm .overflow true 4), 1, fm .overflow true 4, by decide +kernel⟩,
  ⟨on, 0, 0, 3, by decide +kernel⟩,
  ⟨on, 0, 0, 3, 5, by decide +kernel⟩,
  ⟨on.onSwitch fun w => { w with pauses := [⟨⟨0, 0, 3⟩, 5, 5⟩] }, 0, 0, 3, (⟨⟨0, 0, 3⟩, 5, 5⟩ : Pause), by decide +kernel⟩,
  ⟨on.onSwitch fun w => { w with pauses := [⟨⟨0, 0, 3⟩, 10 ^ 13, 5⟩] }, 0, 0, 3, (⟨⟨0, 0, 3⟩, 10 ^ 13, 5⟩ : Pause), by decide +kernel⟩,
  ⟨on, 0, 0, 3, by decide +kernel⟩,
  ⟨on, Requester.ronhenko, 0x7FFFFFFF#32, by decide +kernel, by decide +kernel, (opens_of (by decide +kernel)), by decide +kernel⟩,
  ⟨on, Requester.ronhenko, 10, by decide +kernel, by decide +kernel, (opens_of (by decide +kernel)), by decide +kernel⟩,
  ⟨on, Requester.ronhenko, 10, by decide +kernel, by decide +kernel, (opens_of (by decide +kernel)), by decide +kernel⟩,
  ⟨on, Requester.ronhenko, 10, by decide +kernel, by decide +kernel, (opens_of (by decide +kernel)), by decide +kernel⟩,
  ⟨on.wr SWC_EPOCH.DRAIN_PEND 1, by decide +kernel⟩⟩
end SwitchCommandsComplete

/-- Witnesses for `Obligations.GateCommandsComplete`: every clause's hypotheses hold together. -/
theorem witness_gateCommandsComplete :
    (∃ (s : State), s.running = true ∧ s.clock.windowOpen = false) ∧
    (∃ (s : State) (p : _), s.running = true ∧ s.clock.windowOpen = false ∧ p < 4) ∧
    (∃ (s : State) (who : _) (p : _) (v : Word), s.running = true ∧ s.clock.windowOpen = false ∧ p < 4 ∧ s.Opens who (NET_GTGT.addr p + 4) ∧ s.measure < (s.pairRequest who (NET_GTGT.addr p) v).toNat) ∧
    (∃ (s : State) (who : _) (p : _) (v : Word), s.running = true ∧ s.clock.windowOpen = false ∧ p < 4 ∧ s.Opens who (NET_GTGT.addr p + 4) ∧ (s.pairRequest who (NET_GTGT.addr p) v).toNat ≤ s.measure) ∧
    (∃ (s : State) (p : _), s.running = true ∧ s.clock.windowOpen = false ∧ p < 4 ∧ s.flag (NET_WHEEL.EN p) = true) :=
  ⟨⟨on, by decide +kernel⟩,
  ⟨on, 0, by decide +kernel⟩,
  ⟨on, Requester.ronhenko, 0, 0x7FFFFFFF#32, by decide +kernel, by decide +kernel, by decide +kernel, (opens_of (by decide +kernel)), by decide +kernel⟩,
  ⟨on, Requester.ronhenko, 0, 0, by decide +kernel, by decide +kernel, by decide +kernel, (opens_of (by decide +kernel)), by decide +kernel⟩,
  ⟨on.wr (NET_WHEEL.EN 0) 1, 0, by decide +kernel⟩⟩

def wr : State := (adm.onAdmin fun a => { a with records := [(0, rec1)] }).onStore fun x => { x with assembled := [0] }
/-- Witnesses for `Obligations.WalkCommandsComplete`: every clause's hypotheses hold together. -/
theorem witness_walkCommandsComplete :
    (∃ (s : State) (key : _) (nsid : _) (lbaf : _) (ses : _) (pi : _) (c : _) (n : _), s.running = true ∧ s.AdminOpen key false c ∧ nsid ≠ 0xFFFFFFFF ∧ s.liveNamespace nsid = some n ∧ ses ≤ 2 ∧ lbaf ≤ 2 ∧ pi ≤ 1 ∧ (ses = 2 → n.encrypted = true) ∧ s.leads n.group = true ∧ s.formatRuns n.group = false) ∧
    (∃ (s : State) (u : State) (key : _) (c : _), s.running = true ∧ s.AdminOpen key true c ∧ s.formatRuns 8 = false ∧ (List.range 8).any s.formatRuns = false ∧ (u = (s.onAdmin fun a => { a with leadsBefore := s.link.peerLeads }).askLeads)) ∧
    (∃ (s : State) (u : State) (key : _) (c : _) (owpass : _), s.running = true ∧ s.AdminOpen key true c ∧ s.formatRuns 8 = false ∧ (List.range 8).any s.formatRuns = false ∧ (u = (s.onAdmin fun a => { a with leadsBefore := s.link.peerLeads }).askLeads) ∧ 1 ≤ owpass ∧ owpass ≤ 4) ∧
    (∃ (s : State) (u : State) (key : _) (c : _) (r : _) (ended : _), s.running = true ∧ s.AdminOpen key true c ∧ s.opShown 8 = some (5, r) ∧ bitOf r.flags 1 = true ∧ ended = { r with flags := r.flags - r.flags / 8 % 2 * 8 } ∧ (u = (s.onAdmin fun a => { a with ops := putBy LongOp.slot ⟨8, 4, ended, some ended, [], [], none, false, false⟩ a.ops }).writeProgress 8 ended)) ∧
    (∃ (s : State) (key : _) (c : _), s.running = true ∧ s.AdminOpen key true c ∧ (∀ o, s.opShown 8 = some o → o.1 = 4)) ∧
    (∃ (s : State) (slot : _) (unit : _) (o : _), s.running = true ∧ s.longOp slot = some o ∧ unit ∈ o.walking) ∧
    (∃ (s : State) (slot : _) (seq : _) (o : _) (r : _), s.running = true ∧ s.longOp slot = some o ∧ (s.vaultRecords slot).find? (·.seq == seq) = some r ∧ o.state ≠ 4 ∧ o.state ≠ 5 ∧ bitOf r.flags 4 = true) ∧
    (∃ (s : State) (slot : _) (seq : _) (o : _) (r : _), s.running = true ∧ s.longOp slot = some o ∧ (s.vaultRecords slot).find? (·.seq == seq) = some r ∧ o.state ≠ 4 ∧ o.state ≠ 5 ∧ bitOf r.flags 4 = false ∧ o.newest.units ≠ 0) ∧
    (∃ (s : State) (u : State) (slot : _) (found : List ProgressCopy) (r : _), s.running = true ∧ slot ≤ 8 ∧ u = s.yieldWalks ∧ u.walksHere slot = true ∧ ((u.longOp slot).any (fun o => o.state == 1) = false) ∧ newestRecord (u.vaultRecords slot ++ found.filterMap (u.recordIn slot)) = some r ∧ u.walkAssembled slot r.nsid = true) :=
  ⟨⟨adm, key1, 1, 2, 2, 1, ctl1, ns1, by decide +kernel, ⟨by decide +kernel, by decide +kernel, by decide +kernel, by decide +kernel, by decide +kernel⟩, by decide +kernel⟩,
  ⟨adm, _, key1, ctl1, by decide +kernel, ⟨by decide +kernel, by decide +kernel, by decide +kernel, by decide +kernel, by decide +kernel⟩, by decide +kernel, by decide +kernel, rfl⟩,
  ⟨adm, _, key1, ctl1, 4, by decide +kernel, ⟨by decide +kernel, by decide +kernel, by decide +kernel, by decide +kernel, by decide +kernel⟩, by decide +kernel, by decide +kernel, rfl, by decide +kernel⟩,
  ⟨adm.onAdmin fun a => { a with ops := [op1 8 5] }, _, key1, ctl1, rec1, _, by decide +kernel, ⟨by decide +kernel, by decide +kernel, by decide +kernel, by decide +kernel, by decide +kernel⟩, by decide +kernel, by decide +kernel, rfl, rfl⟩,
  ⟨adm.onAdmin fun a => { a with ops := [op1 8 4] }, key1, ctl1, by decide +kernel, ⟨by decide +kernel, by decide +kernel, by decide +kernel, by decide +kernel, by decide +kernel⟩, by decide +kernel⟩,
  ⟨adm.onAdmin fun a => { a with ops := [op1 0 1] }, 0, 1, ((adm.onAdmin fun a => { a with ops := [op1 0 1] }).longOp 0).get (by decide +kernel), by decide +kernel, (Option.some_get _).symm, by decide +kernel⟩,
  ⟨adm.onAdmin fun a => { a with ops := [op1 0 1], records := [(0, { rec1 with flags := 16 })] }, 0, 5, ((adm.onAdmin fun a => { a with ops := [op1 0 1], records := [(0, { rec1 with flags := 16 })] }).longOp 0).get (by decide +kernel), (((adm.onAdmin fun a => { a with ops := [op1 0 1], records := [(0, { rec1 with flags := 16 })] }).vaultRecords 0).find? (·.seq == 5)).get (by decide +kernel), by decide +kernel, (Option.some_get _).symm, (Option.some_get _).symm, by decide +kernel⟩,
  ⟨adm.onAdmin fun a => { a with ops := [op1 0 1], records := [(0, rec1)] }, 0, 5, ((adm.onAdmin fun a => { a with ops := [op1 0 1], records := [(0, rec1)] }).longOp 0).get (by decide +kernel), (((adm.onAdmin fun a => { a with ops := [op1 0 1], records := [(0, rec1)] }).vaultRecords 0).find? (·.seq == 5)).get (by decide +kernel), by decide +kernel, (Option.some_get _).symm, (Option.some_get _).symm, by decide +kernel⟩,
  ⟨wr, _, 0, [], rec1, by decide +kernel, by decide +kernel, rfl, by decide +kernel⟩⟩

namespace ProposalAndActivationCommandsComplete
def prop1 : Proposal := ⟨0, 11, 1, [], .opened, 1, [1], 0, 0, 0, 0, 0⟩
def act (n : Nat) : State := on.onAdmin fun a => { a with activating := some 1, activationStage := n }
def prd : State := on.wr EZL_STAT.STATE linkPaired
def lc : LoggedCommit := ⟨9, 2, setBody 3 [], 0, []⟩
/-- Witnesses for `Obligations.ProposalAndActivationCommandsComplete`: every clause's hypotheses hold together. -/
theorem witness_proposalAndActivationCommandsComplete (sha : ∀ b i, Config.sha384Byte b i = 0) :
    (∃ (s : State) (number : _) (p : _), s.running = true ∧ s.two.proposals.find? (·.number == number) = some p ∧ p.state = .opened ∧ p.since + s.rd TWO_CFG.LIFE * 10 ^ 9 ≤ s.now) ∧
    (∃ (s : State) (u : State) (digest : _) (proposals : _), s.running = true ∧ s.paired = true ∧ (u = s.each proposals (fun m s => s.takeShared m)) ∧ digest = setupDigest u.two.objects) ∧
    (∃ (s : State) (u : State) (digest : _) (log : List LoggedCommit) (proposals : _) (lacking : _), s.running = true ∧ s.paired = true ∧ (u = s.each proposals (fun m s => s.takeShared m)) ∧ digest ≠ setupDigest u.two.objects ∧ (lacking = log.filter (fun c => !(u.two.log.any fun d => d.number == c.number))) ∧ lacking ≠ [] ∧ u.basesMatch lacking = true) ∧
    (∃ (s : State) (u : State) (digest : _) (log : List LoggedCommit) (proposals : _) (lacking : _), s.running = true ∧ s.paired = true ∧ (u = s.each proposals (fun m s => s.takeShared m)) ∧ digest ≠ setupDigest u.two.objects ∧ (lacking = log.filter (fun c => !(u.two.log.any fun d => d.number == c.number))) ∧ lacking ≠ [] ∧ u.basesMatch lacking = false ∧ u.two.adopt = false) ∧
    (∃ (s : State) (slot : _) (u : State), s.running = true ∧ s.admin.activating = some slot ∧ s.admin.activationStage = 0 ∧ (u = (s.each s.host.controllers fun c s => if bitOf c.aec 9 then s.completeAer c 2 1 3 else s)) ∧ u.rollingPossible = false) ∧
    (∃ (s : State) (slot : _) (u : State), s.running = true ∧ s.admin.activating = some slot ∧ s.admin.activationStage = 0 ∧ (u = (s.each s.host.controllers fun c s => if bitOf c.aec 9 then s.completeAer c 2 1 3 else s)) ∧ u.rollingPossible = true) ∧
    (∃ (s : State) (slot : _), s.running = true ∧ s.admin.activating = some slot ∧ s.admin.activationStage = 1 ∧ s.token.groups.any (·.role == .leading) = true) ∧
    (∃ (s : State) (slot : _), s.running = true ∧ s.admin.activating = some slot ∧ s.admin.activationStage = 1 ∧ s.token.groups.any (·.role == .leading) = false ∧ s.host.commands = [] ∧ s.rd LTK_STAT.LEAD = 0) ∧
    (∃ (s : State) (slot : _), s.running = true ∧ s.admin.activating = some slot ∧ s.admin.activationStage = 2 ∧ s.host.commands = []) :=
  ⟨⟨(on.onClock fun c => { c with timeNs := 10 ^ 15 }).onTwo fun t => { t with proposals := [prop1] }, 11, (((on.onClock fun c => { c with timeNs := 10 ^ 15 }).onTwo fun t => { t with proposals := [prop1] }).two.proposals.find? (·.number == 11)).get (by decide +kernel), by decide +kernel, (Option.some_get _).symm, by decide +kernel⟩,
  ⟨prd, prd.each ([[1, 2, 3]]) (fun m z7 => z7.takeShared m), setupDigest (prd.each ([[1, 2, 3]]) (fun m z7 => z7.takeShared m)).two.objects, [[1, 2, 3]], by decide +kernel, by decide +kernel, rfl, rfl⟩,
  ⟨prd, prd.each ([[1, 2, 3]]) (fun m z9 => z9.takeShared m), [1], [lc], [[1, 2, 3]], ([lc]).filter (fun c => !((prd.each ([[1, 2, 3]]) (fun m z9 => z9.takeShared m)).two.log.any fun d => d.number == c.number)), by decide +kernel, by decide +kernel, rfl, (setup_ne sha), rfl, by decide +kernel⟩,
  ⟨prd, prd.each ([[1, 2, 3]]) (fun m z11 => z11.takeShared m), [1], [{ lc with base := 5 }], [[1, 2, 3]], ([{ lc with base := 5 }]).filter (fun c => !((prd.each ([[1, 2, 3]]) (fun m z11 => z11.takeShared m)).two.log.any fun d => d.number == c.number)), by decide +kernel, by decide +kernel, rfl, (setup_ne sha), rfl, by decide +kernel⟩,
  ⟨act 0, 1, _, by decide +kernel, by decide +kernel, by decide +kernel, rfl, by decide +kernel⟩,
  ⟨((prd.wr EZL_STAT.JOINED 255).setReg LTK_PHEALTH.addr (BitVec.ofNat 64 (2 ^ 64 - 1))).onAdmin fun a => { a with activating := some 1 }, 1, _, by decide +kernel, by decide +kernel, by decide +kernel, rfl, by decide +kernel⟩,
  ⟨(act 1).onToken fun t => { t with groups := [{ GroupToken.atReset 0 with role := .leading }] }, 1, by decide +kernel⟩,
  ⟨act 1, 1, by decide +kernel⟩,
  ⟨on.onAdmin fun a => { a with activating := some 1, activationStage := 2 }, 1, by decide +kernel⟩⟩
end ProposalAndActivationCommandsComplete

/-- Witnesses for `Obligations.SlotInsertionCommandsComplete`: every clause's hypotheses hold together. -/
theorem witness_slotInsertionCommandsComplete :
    (∃ (s : State) (k : _), s.running = true ∧ k < 48 ∧ s.slotState k = slotEmpty) ∧
    (∃ (s : State) (k : _), s.running = true ∧ k < 48 ∧ s.slotState k = slotDebounce ∧ (s.slotHold k).debounced = false) ∧
    (∃ (s : State) (k : _), s.running = true ∧ k < 48 ∧ s.slotState k = slotDebounce ∧ s.slotTime k 50 = true ∧ k ∈ s.slots.peerOff) ∧
    (∃ (s : State) (k : _), s.running = true ∧ k < 48 ∧ s.slotState k = slotDebounce ∧ s.slotTime k 50 = true ∧ k ∉ s.slots.peerOff ∧ s.slots.listKnown = true) ∧
    (∃ (s : State) (k : _), s.running = true ∧ k < 48 ∧ s.slotState k = slotDebounce ∧ s.slotTime k 50 = true ∧ k ∉ s.slots.peerOff ∧ s.slots.listKnown = false) ∧
    (∃ (s : State) (k : _), s.running = true ∧ k < 48 ∧ s.slotState k = slotPowering ∧ s.slotTime k 100 = true) ∧
    (∃ (s : State) (k : _) (link : _), s.running = true ∧ k < 48 ∧ s.slotState k = slotTraining ∧ s.slotTime k 2000 = false ∧ linkAccepted link = true) ∧
    (∃ (s : State) (k : _), s.running = true ∧ k < 48 ∧ s.slotState k = slotTraining ∧ s.slotTime k 2000 = true) ∧
    (∃ (s : State) (k : _) (report : _) (reason : _) (more : _), s.running = true ∧ k < 48 ∧ s.slotState k = slotChecking ∧ failedChecks report = reason :: more) ∧
    (∃ (s : State) (k : _) (report : _), s.running = true ∧ k < 48 ∧ s.slotState k = slotChecking ∧ failedChecks report = []) ∧
    (∃ (s : State) (k : _), s.running = true ∧ k < 48 ∧ s.flag (SLT_STAT.PRSNT k) = true) ∧
    (∃ (s : State) (k : _) (r : MiReading), s.running = true ∧ k < 48 ∧ s.flag (SLT_STAT.PRSNT k) = true ∧ r.flags < 256 ∧ r.warn < 256 ∧ r.temp < 256) ∧
    (∃ (s : State) (k : _), s.running = true ∧ k < 48) ∧
    (∃ (s : State) (k : _), s.running = true ∧ k < 48 ∧ s.linkState < linkLinked ∧ 2 * 10 ^ 9 ≤ s.now) :=
  ⟨⟨on, 3, by decide +kernel⟩,
  ⟨on.wr (SLT_STAT.STATE 3) slotDebounce, 3, by decide +kernel⟩,
  ⟨(on.wr (SLT_STAT.STATE 3) slotDebounce).onSlots fun x => { x with peerOff := [3] }, 3, by decide +kernel⟩,
  ⟨(on.wr (SLT_STAT.STATE 3) slotDebounce).onSlots fun x => { x with listKnown := true }, 3, by decide +kernel⟩,
  ⟨on.wr (SLT_STAT.STATE 3) slotDebounce, 3, by decide +kernel⟩,
  ⟨on.wr (SLT_STAT.STATE 3) slotPowering, 3, by decide +kernel⟩,
  ⟨(on.wr (SLT_STAT.STATE 3) slotTraining).onHold 3 fun h => { h with since := 10 ^ 12 }, 3, ⟨6, 2, true, true⟩, by decide +kernel⟩,
  ⟨on.wr (SLT_STAT.STATE 3) slotTraining, 3, by decide +kernel⟩,
  ⟨on.wr (SLT_STAT.STATE 3) slotChecking, 3, { drive with ready := false, fused := false }, _, _, by decide +kernel, by decide +kernel, by decide +kernel, rfl⟩,
  ⟨on.wr (SLT_STAT.STATE 3) slotChecking, 3, drive, by decide +kernel⟩,
  ⟨(on.wr (SLT_STAT.PRSNT 3) 1).onHold 3 fun h => { h with miFails := 2 }, 3, by decide +kernel⟩,
  ⟨on.wr (SLT_STAT.PRSNT 3) 1, 3, ⟨255, 255, 255⟩, by decide +kernel⟩,
  ⟨on, 3, by decide +kernel⟩,
  ⟨on, 3, by decide +kernel⟩⟩

/-- Witnesses for `Obligations.SlotRemovalCommandsComplete`: every clause's hypotheses hold together. -/
theorem witness_slotRemovalCommandsComplete :
    (∃ (s : State) (k : _), s.running = true ∧ k < 48) ∧
    (∃ (s : State) (k : _), s.running = true ∧ k < 48 ∧ s.flag (SLT_CTL.ATTN_EN k) = true ∧ s.slotState k = slotRemoving ∧ (s.slotHold k).ending = false ∧ s.slotTime k 5000 = false) ∧
    (∃ (s : State) (k : _) (u : State), s.running = true ∧ k < 48 ∧ s.flag (SLT_CTL.ATTN_EN k) = true ∧ slotRemovable (s.slotState k) = true ∧ u = (s.wr (SLT_STAT.ATTN k) 1).slotEvent k (SLT_EVT.ATTN_PRESS k) ∧ (s.slotState k = slotReady → u.removalRefused k = false)) ∧
    (∃ (s : State) (k : _), s.running = true ∧ k < 48 ∧ s.slotState k = slotRemoving ∧ (s.slotHold k).ending = false ∧ s.slotTime k 5000 = true) ∧
    (∃ (s : State) (k : _) (reason : _), s.running = true ∧ k < 48 ∧ s.slotState k = slotReady ∧ reason ≠ 9) ∧
    (∃ (s : State) (k : _), s.running = true ∧ k < 48 ∧ s.slotState k = slotReady) ∧
    (∃ (s : State) (k : _), s.running = true ∧ k < 48 ∧ s.slotState k ≠ slotEmpty) ∧
    (∃ (s : State) (k : _) (set : _) (u : _), s.running = true ∧ k < 48 ∧ s.liveMember k = some (set, u)) ∧
    (∃ (s : State) (k : _) (u : _), s.running = true ∧ k < 48 ∧ (u = (s.onSlots fun x => { x with peerOff := k :: x.peerOff.filter (· != k) }))) ∧
    (∃ (s : State) (k : _), s.running = true ∧ k < 48 ∧ (s.liveMember k).isSome = true) ∧
    (∃ (s : State) (who : _) (k : _) (a : _), s.running = true ∧ k < 48 ∧ a = SLT_CMD.addr k ∧ s.Opens who a ∧ s.flag (SLT_CMD.BUSY k) = false ∧ s.slotState k = slotOff) ∧
    (∃ (s : State) (who : _) (k : _) (a : _) (u : State), s.running = true ∧ k < 48 ∧ a = SLT_CMD.addr k ∧ s.Opens who a ∧ s.flag (SLT_CMD.BUSY k) = false ∧ u = (s.written a 0x20000).endRemoval k ∧ (slotRemovable (s.slotState k) = true ∨ s.slotState k = slotRemoving) ∧ (s.slotHold k).ending = false ∧ (s.slotState k = slotReady → (s.written a 0x20000).removalRefused k = false)) ∧
    (∃ (s : State) (who : _) (k : _) (a : _) (u : State), s.running = true ∧ k < 48 ∧ a = SLT_CMD.addr k ∧ s.Opens who a ∧ s.flag (SLT_CMD.BUSY k) = false ∧ u = (s.written a 0x30000).endRemoval k ∧ (slotRemovable (s.slotState k) = true ∨ s.slotState k = slotRemoving) ∧ (s.slotHold k).ending = false) ∧
    (∃ (s : State) (who : _) (k : _) (a : _), s.running = true ∧ k < 48 ∧ a = SLT_CMD.addr k ∧ s.Opens who a ∧ s.flag (SLT_CMD.BUSY k) = false ∧ (s.slotState k = slotContained ∨ s.slotState k = slotRefused)) ∧
    (∃ (s : State) (who : _) (k : _) (a : _), s.running = true ∧ k < 48 ∧ a = SLT_CMD.addr k ∧ s.Opens who a ∧ s.flag (SLT_CMD.BUSY k) = false ∧ s.slotState k = slotRefused ∧ s.preparable k = true ∧ s.rd (SLT_STAT.REASON k) ≠ 1) ∧
    (∃ (s : State) (u : State) (op : _) (o : _), s.running = true ∧ s.store.ops.find? (·.id == op) = some o ∧ o.sentAt + s.rd (SLT_CFG.CMD_TMO o.slot) * 1000000 ≤ s.now ∧ u = (s.count (SLT_TMO.addr o.slot)).emit (.driveAdmin o.slot (.abort op)) ∧ o.timeouts < 3) ∧
    (∃ (s : State) (u : State) (op : _) (o : _), s.running = true ∧ s.store.ops.find? (·.id == op) = some o ∧ o.sentAt + s.rd (SLT_CFG.CMD_TMO o.slot) * 1000000 ≤ s.now ∧ u = (s.count (SLT_TMO.addr o.slot)).emit (.driveAdmin o.slot (.abort op)) ∧ 3 ≤ o.timeouts ∧ u.slotState o.slot ≠ slotRemoving) ∧
    (∃ (s : State) (u : State) (op : _) (o : _), s.running = true ∧ s.store.ops.find? (·.id == op) = some o ∧ o.sentAt + s.rd (SLT_CFG.CMD_TMO o.slot) * 1000000 ≤ s.now ∧ u = (s.count (SLT_TMO.addr o.slot)).emit (.driveAdmin o.slot (.abort op)) ∧ 3 ≤ o.timeouts ∧ u.slotState o.slot = slotRemoving) ∧
    (∃ (s : State) (op : _) (o : _), s.running = true ∧ s.store.ops.find? (·.id == op) = some o ∧ o.retries < 3) ∧
    (∃ (s : State) (op : _) (o : _), s.running = true ∧ s.store.ops.find? (·.id == op) = some o ∧ 3 ≤ o.retries ∧ o.kind = .read) ∧
    (∃ (s : State) (u : State) (op : _) (o : _), s.running = true ∧ s.store.ops.find? (·.id == op) = some o ∧ 3 ≤ o.retries ∧ o.kind ≠ .read ∧ u = s.walkWriteFailed o) :=
  ⟨⟨on, 3, by decide +kernel⟩,
  ⟨(on.wrs [(SLT_CTL.ATTN_EN 3, 1), (SLT_STAT.STATE 3, slotRemoving)]).onHold 3 fun h => { h with back := 6, since := 10 ^ 12 }, 3, by decide +kernel⟩,
  ⟨on.wrs [(SLT_CTL.ATTN_EN 3, 1), (SLT_STAT.STATE 3, slotReady)], 3, _, by decide +kernel, by decide +kernel, by decide +kernel, by decide +kernel, rfl, by decide +kernel⟩,
  ⟨memb.wrs [(SLT_STAT.STATE 3, slotRemoving)], 3, by decide +kernel⟩,
  ⟨memb.wrs [(SLT_STAT.STATE 3, slotReady), (SLT_LSTAT.UP 3, 1)], 3, 8, by decide +kernel⟩,
  ⟨memb.wrs [(SLT_STAT.STATE 3, slotReady), (SLT_LSTAT.UP 3, 1)], 3, by decide +kernel⟩,
  ⟨memb.wrs [(SLT_STAT.STATE 3, slotReady), (SLT_LSTAT.UP 3, 1)], 3, by decide +kernel⟩,
  ⟨memb, 3, 0, 2, by decide +kernel⟩,
  ⟨on, 3, _, by decide +kernel, by decide +kernel, rfl⟩,
  ⟨memb, 3, by decide +kernel⟩,
  ⟨on.wr (SLT_STAT.STATE 3) slotOff, .ronhenko, 3, SLT_CMD.addr 3, by decide +kernel, by decide +kernel, rfl, (opens_of (by decide +kernel)), by decide +kernel⟩,
  ⟨on.wr (SLT_STAT.STATE 3) slotReady, .ronhenko, 3, SLT_CMD.addr 3, _, by decide +kernel, by decide +kernel, rfl, (opens_of (by decide +kernel)), by decide +kernel, rfl, by decide +kernel⟩,
  ⟨memb.wr (SLT_STAT.STATE 3) slotReady, .ronhenko, 3, SLT_CMD.addr 3, _, by decide +kernel, by decide +kernel, rfl, (opens_of (by decide +kernel)), by decide +kernel, rfl, by decide +kernel⟩,
  ⟨on.wrs [(SLT_STAT.STATE 3, slotContained), (SLT_LSTAT.UP 3, 1)], .ronhenko, 3, SLT_CMD.addr 3, by decide +kernel, by decide +kernel, rfl, (opens_of (by decide +kernel)), by decide +kernel⟩,
  ⟨(on.wrs [(SLT_STAT.STATE 3, slotRefused), (SLT_STAT.REASON 3, 5)]).onSlots fun x => { x with reports := [(3, { drive with dataBytes := 512 })] }, .ronhenko, 3, SLT_CMD.addr 3, by decide +kernel, by decide +kernel, rfl, (opens_of (by decide +kernel)), by decide +kernel⟩,
  ⟨memb.onStore fun x => { x with ops := [mop] }, _, 7, mop, by decide +kernel, by decide +kernel, by decide +kernel, rfl, by decide +kernel⟩,
  ⟨(memb.wr (SLT_STAT.STATE 3) slotReady).onStore fun x => { x with ops := [{ mop with timeouts := 3 }] }, _, 7, { mop with timeouts := 3 }, by decide +kernel, by decide +kernel, by decide +kernel, rfl, by decide +kernel⟩,
  ⟨(memb.wr (SLT_STAT.STATE 3) slotRemoving).onStore fun x => { x with ops := [{ mop with timeouts := 3 }] }, _, 7, { mop with timeouts := 3 }, by decide +kernel, by decide +kernel, by decide +kernel, rfl, by decide +kernel⟩,
  ⟨memb.onStore fun x => { x with ops := [{ mop with retries := 2 }] }, 7, ((memb.onStore fun x => { x with ops := [{ mop with retries := 2 }] }).store.ops.find? (·.id == 7)).get (by decide +kernel), by decide +kernel, (Option.some_get _).symm, by decide +kernel⟩,
  ⟨memb.onStore fun x => { x with ops := [{ mop with retries := 3, kind := .read }] }, 7, ((memb.onStore fun x => { x with ops := [{ mop with retries := 3, kind := .read }] }).store.ops.find? (·.id == 7)).get (by decide +kernel), by decide +kernel, (Option.some_get _).symm, by decide +kernel⟩,
  ⟨memb.onStore fun x => { x with ops := [{ mop with retries := 3, purpose := .walk 0 }] }, _, 7, { mop with retries := 3, purpose := .walk 0 }, by decide +kernel, by decide +kernel, by decide +kernel, by decide +kernel, rfl⟩⟩

/-- Witnesses for `Obligations.EnergyStoreCommandsComplete`: every clause's hypotheses hold together. -/
theorem witness_energyStoreCommandsComplete :
    (∃ (s : State), s.wallRuns = true) ∧
    (∃ (s : State), s.wallRuns = true ∧ s.rd NRG_STAT.STATE = 1 ∧ 98 * s.rd NRG_EFULL.MJ ≤ 100 * s.energy.level) ∧
    (∃ (s : State), s.wallRuns = true ∧ s.rd NRG_STAT.STATE = 2 ∧ 100 * s.energy.level < 95 * s.rd NRG_EFULL.MJ) ∧
    (∃ (s : State) (unbalanced : _), s.wallRuns = true ∧ s.rd NRG_STAT.STATE ≠ 5 ∧ (unbalanced = true ∨ s.rd NRG_EFULL.MJ < 90000)) ∧
    (∃ (s : State) (who : _), s.running = true ∧ s.Opens who NRG_CMD.addr) ∧
    (∃ (s : State), s.running = true ∧ s.rd NRG_STAT.STATE = 2 ∧ s.testIsDue = true ∧ s.granted 8 = true ∧ s.testFits = true) ∧
    (∃ (s : State) (cap : _) (esr : _) (e : _), s.wallRuns = true ∧ s.rd NRG_STAT.STATE = 3 ∧ cap < 2 ^ 20 ∧ esr < 2 ^ 16 ∧ e = (s.wrs [(WFL_CAP.C, cap), (WFL_ESR.ESR, esr)]).bankEnergy 8800000 / bankScale ∧ e < 2 ^ 20) ∧
    (∃ (s : State), s.entryState ≠ entryLatched ∧ s.flag WFL_STAT.PFD = false ∧ s.wallRuns = true) ∧
    (∃ (s : State) (u : State), s.energy.decided = true ∧ s.energy.quiesced = false ∧ u = ((s.onEnergy fun e => { e with quiesced := true }).each (s.quiesceDomains.filter fun d => s.domainState d != 2) fun d s => s.powerOffDomain d) ∧ (u.energy.writesImage = true ∨ u.rd NRG_STAT.STATE ≠ 4)) ∧
    (∃ (s : State) (u : State), s.energy.decided = true ∧ s.energy.quiesced = false ∧ u = ((s.onEnergy fun e => { e with quiesced := true }).each (s.quiesceDomains.filter fun d => s.domainState d != 2) fun d s => s.powerOffDomain d) ∧ u.energy.writesImage = false ∧ u.rd NRG_STAT.STATE = 4) :=
  ⟨⟨on.wrs [(NRG_STAT.STATE, 1), (WFL_CAP.C, 900000), (WFL_ESR.ESR, 50), (WFL_VAL.FILT 6, 200), (WFL_VAL.FILT 7, 700)], by decide +kernel⟩,
  ⟨(on.wrs [(NRG_STAT.STATE, 1), (NRG_EFULL.MJ, 1000)]).onEnergy fun e => { e with level := 980 }, by decide +kernel⟩,
  ⟨(on.wrs [(NRG_STAT.STATE, 2), (NRG_EFULL.MJ, 1000)]).onEnergy fun e => { e with level := 949 }, by decide +kernel⟩,
  ⟨on, true, by decide +kernel⟩,
  ⟨on, .ronhenko, by decide +kernel, (opens_of (by decide +kernel))⟩,
  ⟨(on.wrs [(NRG_STAT.STATE, 2), (NRG_EFULL.MJ, 300000), (NRG_EUSE.MJ, 300000), (CAL_GRANT.JOBS, 256)]).onEnergy fun e => { e with testDue := true }, by decide +kernel⟩,
  ⟨on.wr NRG_STAT.STATE 3, 40000, 100, ((on.wr NRG_STAT.STATE 3).wrs [(WFL_CAP.C, 40000), (WFL_ESR.ESR, 100)]).bankEnergy 8800000 / bankScale, by decide +kernel, by decide +kernel, by decide +kernel, by decide +kernel, rfl, by decide +kernel⟩,
  ⟨on.wrs [(VLT_STAT.STATE, 1), (NRG_STAT.STATE, 2)], by decide +kernel⟩,
  ⟨(on.wr NRG_STAT.STATE 4).onEnergy fun e => { e with decided := true, writesImage := true }, ((((on.wr NRG_STAT.STATE 4).onEnergy fun e => { e with decided := true, writesImage := true }).onEnergy fun e => { e with quiesced := true }).each (((on.wr NRG_STAT.STATE 4).onEnergy fun e => { e with decided := true, writesImage := true }).quiesceDomains.filter fun d => ((on.wr NRG_STAT.STATE 4).onEnergy fun e => { e with decided := true, writesImage := true }).domainState d != 2) fun d z13 => z13.powerOffDomain d), by decide +kernel, by decide +kernel, rfl, by decide +kernel⟩,
  ⟨(on.wr NRG_STAT.STATE 4).onEnergy fun e => { e with decided := true }, ((((on.wr NRG_STAT.STATE 4).onEnergy fun e => { e with decided := true }).onEnergy fun e => { e with quiesced := true }).each (((on.wr NRG_STAT.STATE 4).onEnergy fun e => { e with decided := true }).quiesceDomains.filter fun d => ((on.wr NRG_STAT.STATE 4).onEnergy fun e => { e with decided := true }).domainState d != 2) fun d z15 => z15.powerOffDomain d), by decide +kernel, by decide +kernel, rfl, by decide +kernel⟩⟩

namespace VaultCommandsComplete
def img : VaultImage := { iseq := 5, meas := 3, time := 4, eStart := 1, eSeal := 1, complete := true, retired := false, inputBack := false, area := 1, sections := [⟨2, 0, true, 1, 2⟩], metadata := none, copies := [], mirrors := [] }
def ch : RestoreChoice := ⟨0, .own, true⟩
def va : State := memb.wrs [(QDL_GEOM.VALID 0, 1)]
/-- Witnesses for `Obligations.VaultCommandsComplete`: every clause's hypotheses hold together. -/
theorem witness_vaultCommandsComplete :
    (∃ (s : State), s.energy.quiesced = true ∧ s.energy.writesImage = true ∧ s.rd VLT_STAT.STATE = 2 ∧ s.gateOn = false) ∧
    (∃ (s : State), s.energy.decided = true ∧ s.energy.writesImage = false ∧ s.power.on = true ∧ s.gateOn = true ∧ s.flag WFL_STAT.CYCPEND = false) ∧
    (∃ (s : State), s.energy.decided = true ∧ s.energy.writesImage = false ∧ s.power.on = true ∧ s.gateOn = true ∧ s.flag WFL_STAT.CYCPEND = true) ∧
    (∃ (s : State), s.running = true ∧ s.rd VLT_STAT.STATE = 0) ∧
    (∃ (s : State), s.running = true ∧ s.rd VLT_STAT.STATE = 4 ∧ s.energy.restoring = none ∧ s.flag MIN_STAT.FILLED = true) ∧
    (∃ (s : State) (u : State) (i : _) (peer : _), s.running = true ∧ s.restoringImage = some i ∧ s.rd VLT_STAT.STATE = 4 ∧ s.energy.choices = [] ∧ u = s.onEnergy (fun e => { e with choices := (List.range 8).map (s.chooseSection i peer), installed := (((List.range 8).map (s.chooseSection i peer)).filter fun c => c.choice == .discard).map (·.group) })) ∧
    (∃ (s : State) (u : State) (i : _), s.running = true ∧ s.restoringImage = some i ∧ s.rd VLT_STAT.STATE = 4 ∧ s.energy.choices = [] ∧ u = s.onEnergy (fun e => { e with choices := (List.range 8).map (s.chooseSection i ⟨[], 0, 0⟩), installed := (((List.range 8).map (s.chooseSection i ⟨[], 0, 0⟩)).filter fun c => c.choice == .discard).map (·.group) })) ∧
    (∃ (s : State) (u : State) (group : _) (fromPeer : _) (i : _) (c : _), s.running = true ∧ s.restoringImage = some i ∧ s.energy.choices.find? (·.group == group) = some c ∧ group ∉ s.energy.installed ∧ s.leads group = true ∧ u = s.each (restoreBlocks c (i.blocks group) fromPeer) (fun b s => s.takeCopy b)) ∧
    (∃ (s : State) (a : _), s.running = true ∧ s.rd VLT_STAT.STATE = 5 ∧ s.energy.restored = [] ∧ s.energy.restoring = some a) ∧
    (∃ (s : State), s.running = true ∧ s.rd VLT_STAT.STATE ≠ 6) ∧
    (∃ (s : State) (set : _), s.running = true ∧ (s.loadSet set).flag (QDL_GEOM.VALID set) = true ∧ (s.loadSet set).gridRuns = true) ∧
    (∃ (s : State) (u : State) (v : State) (set : _), s.running = true ∧ u = s.assembleSet set ∧ (v = (u.each (u.store.journal.filter fun e => e.set == set && e.state != 3) fun e s => s.finishEntry e)) ∧ (s.store.journalHeld = true ∨ s.store.assembled.contains set = true)) ∧
    (∃ (s : State) (u : State) (v : State) (set : _), s.running = true ∧ u = s.assembleSet set ∧ (v = (u.each (u.store.journal.filter fun e => e.set == set && e.state != 3) fun e s => s.finishEntry e)) ∧ s.store.journalHeld = false ∧ s.store.assembled.contains set = false) ∧
    (∃ (s : State), s.running = true ∧ s.rd VLT_STAT.STATE = 1) :=
  ⟨⟨((on.wrs [(EFU_STAT.STATE, entryOpen), (VLT_STAT.STATE, 2), (VLT_STAT.AREA, 1)]).setReg VLT_ISEQ.addr 5).onEnergy fun e => { e with images := [img], quiesced := true, writesImage := true, decided := true }, by decide +kernel⟩,
  ⟨(on.wr EFU_STAT.STATE entryOn).onEnergy fun e => { e with decided := true }, by decide +kernel⟩,
  ⟨(on.wrs [(EFU_STAT.STATE, entryOn), (WFL_STAT.CYCPEND, 1)]).onEnergy fun e => { e with decided := true }, by decide +kernel⟩,
  ⟨on.onEnergy fun e => { e with images := [img] }, by decide +kernel⟩,
  ⟨(on.wrs [(VLT_STAT.STATE, 4), (MIN_STAT.FILLED, 1)]).onEnergy fun e => { e with images := [img, { img with area := 0, iseq := 9 }] }, by decide +kernel⟩,
  ⟨(on.wr VLT_STAT.STATE 4).onEnergy fun e => { e with images := [img], restoring := some 1 }, ((on.wr VLT_STAT.STATE 4).onEnergy fun e => { e with images := [img], restoring := some 1 }).onEnergy (fun e => { e with choices := (List.range 8).map (((on.wr VLT_STAT.STATE 4).onEnergy fun e => { e with images := [img], restoring := some 1 }).chooseSection img (⟨[], 1, 2⟩ : PeerSummary)), installed := (((List.range 8).map (((on.wr VLT_STAT.STATE 4).onEnergy fun e => { e with images := [img], restoring := some 1 }).chooseSection img (⟨[], 1, 2⟩ : PeerSummary))).filter fun c => c.choice == .discard).map (·.group) }), img, (⟨[], 1, 2⟩ : PeerSummary), by decide +kernel, by decide +kernel, by decide +kernel, by decide +kernel, rfl⟩,
  ⟨(on.wr VLT_STAT.STATE 4).onEnergy fun e => { e with images := [img], restoring := some 1 }, ((on.wr VLT_STAT.STATE 4).onEnergy fun e => { e with images := [img], restoring := some 1 }).onEnergy (fun e => { e with choices := (List.range 8).map (((on.wr VLT_STAT.STATE 4).onEnergy fun e => { e with images := [img], restoring := some 1 }).chooseSection img ⟨[], 0, 0⟩), installed := (((List.range 8).map (((on.wr VLT_STAT.STATE 4).onEnergy fun e => { e with images := [img], restoring := some 1 }).chooseSection img ⟨[], 0, 0⟩)).filter fun c => c.choice == .discard).map (·.group) }), img, by decide +kernel, by decide +kernel, by decide +kernel, by decide +kernel, rfl⟩,
  ⟨(led.wr VLT_STAT.STATE 4).onEnergy fun e => { e with images := [img], restoring := some 1, choices := [ch] }, ((led.wr VLT_STAT.STATE 4).onEnergy fun e => { e with images := [img], restoring := some 1, choices := [ch] }).each (restoreBlocks ch (img.blocks 0) ([] : List RestoredBlock)) (fun b z17 => z17.takeCopy b), 0, ([] : List RestoredBlock), img, ch, by decide +kernel, by decide +kernel, by decide +kernel, by decide +kernel, by decide +kernel, rfl⟩,
  ⟨(on.wr VLT_STAT.STATE 5).onEnergy fun e => { e with images := [img], restoring := some 1 }, 1, by decide +kernel⟩,
  ⟨on, by decide +kernel⟩,
  ⟨memb.wrs [(QDL_GEOM.VALID 0, 1), (MEAS_CTL.RUN, 1)], 0, by decide +kernel⟩,
  ⟨va.onStore fun x => { x with journalHeld := true }, _, _, 0, by decide +kernel, rfl, rfl, by decide +kernel⟩,
  ⟨va, _, _, 0, by decide +kernel, rfl, rfl, by decide +kernel⟩,
  ⟨on.wr VLT_STAT.STATE 1, by decide +kernel⟩⟩
end VaultCommandsComplete

namespace ManagementTransportCommandsComplete
def ent : State := on.wr EFU_STAT.STATE entryOn
def rdy : State := ent.wr MCP_STAT.READY 1
def dorm : State := ent.onPower fun p => { p with dormant := true }
def ask : Bytes := packetHeader 1 0 0 0 5 3 0 0
def sealedAsk : Bytes := packetHeader 1 1 8 1 5 3 0 0 ++ List.replicate 16 0
def ses1 : McpSession := ⟨8, 1, 1, ⟨5, 0⟩, [], 0, 0, [], [], 0, 0⟩
def req1 : McpRequest := ⟨1, 4, 0x101, [], 0, some 0, false⟩
/-- Witnesses for `Obligations.ManagementTransportCommandsComplete`: every clause's hypotheses hold together. -/
theorem witness_managementTransportCommandsComplete :
    (∃ (s : State) (a : McpAddress) (type : _), s.entryState = entryOn ∧ s.power.dormant = false ∧ s.running = true ∧ s.flag MCP_STAT.READY = true ∧ s.transportOpen a.transport = true ∧ (a.transport ≤ 2 → type = 0x7E)) ∧
    (∃ (s : State) (a : McpAddress) (type : _) (id : _) (rest : _), s.entryState = entryOn ∧ s.power.dormant = false ∧ s.running = true ∧ s.flag MCP_STAT.READY = true ∧ s.transportOpen a.transport = true ∧ (a.transport ≤ 2 → type = 0x7E) ∧ (rest = (s.mcp.datagrams.filter fun d => !(d.id == id && d.source == a))) ∧ ((s.mcp.datagrams.find? fun d => (d.id == id && d.source == a) && decide (s.now < d.since + 10 ^ 9)) = none)) ∧
    (∃ (s : State) (a : McpAddress) (type : _) (b : Bytes) (id : _) (rest : _), s.entryState = entryOn ∧ s.power.dormant = false ∧ s.running = true ∧ s.flag MCP_STAT.READY = true ∧ s.transportOpen a.transport = true ∧ (a.transport ≤ 2 → type = 0x7E) ∧ (rest = (s.mcp.datagrams.filter fun d => !(d.id == id && d.source == a))) ∧ ((s.mcp.datagrams.find? fun d => (d.id == id && d.source == a) && decide (s.now < d.since + 10 ^ 9)).isSome = true) ∧ b.length + 8 ≤ 4200) ∧
    (∃ (s : State) (a : McpAddress), a.transport ≤ 2 ∧ s.mctpAnswers a.transport = true) ∧
    (∃ (s : State) (a : McpAddress) (b : _), s.entryState ≠ entryOn ∧ a.transport = 1 ∧ pktFormed b = true ∧ pktSealed b = false ∧ pktOpcode b = 3) ∧
    (∃ (s : State) (a : McpAddress) (type : _) (b : _), s.entryState = entryOn ∧ s.power.dormant = true ∧ (a.transport = 1 ∨ a.transport = 2) ∧ type = 0x7E ∧ pktFormed b = true ∧ pktSealed b = true) ∧
    (∃ (s : State) (a : McpAddress), s.entryState = entryOn ∧ s.power.dormant = true ∧ a.transport = 3) ∧
    (∃ (s : State), s.running = true) ∧
    (∃ (s : State) (who : _), s.running = true ∧ s.Opens who MCP_REQ_DB.addr) ∧
    (∃ (s : State) (u : State) (who : _) (bits : _), s.running = true ∧ s.Opens who MCP_RPL_RDY.addr ∧ u = s.wr MCP_RPL_RDY.RDY (s.rd MCP_RPL_RDY.RDY - (s.rd MCP_RPL_RDY.RDY &&& bits % 16))) ∧
    (∃ (s : State) (who : _) (tail : _), s.running = true ∧ tail < 16 ∧ s.Opens who MCP_NTC_TAIL.addr) ∧
    (∃ (s : State) (slot : _) (m : _), s.running = true ∧ s.session slot = some m ∧ m.requests = [] ∧ m.lastUsed + s.rd MCP_CFG.IDLE * 10 ^ 9 ≤ s.now) ∧
    (∃ (s : State) (slot : _) (tag : _) (c : _) (m : _), s.running = true ∧ s.call slot tag = some c ∧ c.session = some m ∧ c.timedOut = false ∧ ((m.requests.any fun r => r.seq == c.seq && r.startedAt.any fun t => decide (t + 10 ^ 10 ≤ s.now)) = true)) :=
  ⟨⟨rdy, ⟨2, 77⟩, 0x7E, by decide +kernel⟩,
  ⟨rdy, ⟨2, 77⟩, 0x7E, 6, _, by decide +kernel, by decide +kernel, by decide +kernel, by decide +kernel, by decide +kernel, by decide +kernel, rfl, by decide +kernel⟩,
  ⟨rdy.onMcp fun m => { m with datagrams := [⟨6, ⟨2, 77⟩, 10 ^ 12⟩] }, ⟨2, 77⟩, 0x7E, [], 6, _, by decide +kernel, by decide +kernel, by decide +kernel, by decide +kernel, by decide +kernel, by decide +kernel, rfl, by decide +kernel⟩,
  ⟨rdy, ⟨2, 77⟩, by decide +kernel⟩,
  ⟨on.wr EFU_STAT.STATE entryOpen, (⟨1, 9⟩ : McpAddress), ask, by decide +kernel⟩,
  ⟨dorm, ⟨2, 77⟩, 0x7E, sealedAsk, by decide +kernel⟩,
  ⟨dorm, (⟨3, 9⟩ : McpAddress), by decide +kernel⟩,
  ⟨rdy.onMcp fun m => { m with challenges := [⟨[], 10 ^ 12 - 5⟩, ⟨[], 0⟩] }, by decide +kernel⟩,
  ⟨rdy, .directHost, by decide +kernel, (opens_of (by decide +kernel))⟩,
  ⟨rdy.wr MCP_RPL_RDY.RDY 7, (rdy.wr MCP_RPL_RDY.RDY 7).wr MCP_RPL_RDY.RDY ((rdy.wr MCP_RPL_RDY.RDY 7).rd MCP_RPL_RDY.RDY - ((rdy.wr MCP_RPL_RDY.RDY 7).rd MCP_RPL_RDY.RDY &&& 3 % 16)), .directHost, 3, by decide +kernel, (opens_of (by decide +kernel)), rfl⟩,
  ⟨rdy, .directHost, 15, by decide +kernel, by decide +kernel, (opens_of (by decide +kernel))⟩,
  ⟨rdy.onMcp fun m => { m with sessions := [ses1] }, 8, ((rdy.onMcp fun m => { m with sessions := [ses1] }).session 8).get (by decide +kernel), by decide +kernel, (Option.some_get _).symm, by decide +kernel⟩,
  ⟨rdy.onMcp fun m => { m with sessions := [{ ses1 with requests := [req1] }] }, 8, 4, ((rdy.onMcp fun m => { m with sessions := [{ ses1 with requests := [req1] }] }).call 8 4).get (by decide +kernel), ((((rdy.onMcp fun m => { m with sessions := [{ ses1 with requests := [req1] }] }).call 8 4).get (by decide +kernel)).session).get (by decide +kernel), by decide +kernel, (Option.some_get _).symm, (Option.some_get _).symm, by decide +kernel⟩⟩
end ManagementTransportCommandsComplete

namespace SpdmCommandsComplete
def rdy : State := on.wr MCP_STAT.READY 1
def dorm : State := on.onPower fun p => { p with dormant := true }
/-- Witnesses for `Obligations.SpdmCommandsComplete`: every clause's hypotheses hold together. -/
theorem witness_spdmCommandsComplete :
    (∃ (s : State) (a : McpAddress), a.transport ≤ 2 ∧ s.power.dormant = false ∧ s.running = true ∧ s.flag MCP_STAT.READY = true) ∧
    (∃ (s : State) (a : McpAddress) (off : _), a.transport ≤ 2 ∧ s.power.dormant = false ∧ s.running = true ∧ s.flag MCP_STAT.READY = true ∧ off ≤ Config.certificateChain.length) ∧
    (∃ (s : State) (a : McpAddress) (request : _) (body : _), a.transport ≤ 2 ∧ s.power.dormant = false ∧ s.running = true ∧ s.flag MCP_STAT.READY = true ∧ numAt request 2 1 = 0 ∧ numAt request 3 1 = 0 ∧ body = [0x13, 0x03, 0, 1] ++ Config.sha384 Config.certificateChain ++ (s.random 32).1 ++ [0, 0] ++ (request.drop 36).take 8) ∧
    (∃ (s : State) (a : McpAddress) (request : _) (i : _) (body : _), a.transport ≤ 2 ∧ s.power.dormant = false ∧ s.running = true ∧ s.flag MCP_STAT.READY = true ∧ 1 ≤ i ∧ i ≤ 5 ∧ numAt request 3 1 = i ∧ body = [0x13, 0x60, 0, 0] ++ [1] ++ leBytes 3 (s.measurementBlock i).length ++ s.measurementBlock i ++ (s.random 32).1 ++ [0, 0] ∧ bitOf (numAt request 2 1) 0 = false) ∧
    (∃ (s : State) (a : McpAddress) (request : _) (i : _) (body : _), a.transport ≤ 2 ∧ s.power.dormant = false ∧ s.running = true ∧ s.flag MCP_STAT.READY = true ∧ 1 ≤ i ∧ i ≤ 5 ∧ numAt request 3 1 = i ∧ body = [0x13, 0x60, 0, 0] ++ [1] ++ leBytes 3 (s.measurementBlock i).length ++ s.measurementBlock i ++ (s.random 32).1 ++ [0, 0] ∧ bitOf (numAt request 2 1) 0 = true) ∧
    (∃ (s : State) (a : McpAddress), (a.transport = 1 ∨ a.transport = 2) ∧ s.power.dormant = true) :=
  ⟨⟨rdy, (⟨2, 77⟩ : McpAddress), by decide +kernel⟩,
  ⟨rdy, (⟨2, 77⟩ : McpAddress), 0, by decide +kernel⟩,
  ⟨rdy, (⟨2, 77⟩ : McpAddress), ([0x13, 0x83, 0, 0] ++ List.replicate 40 7 : Bytes), [0x13, 0x03, 0, 1] ++ Config.sha384 Config.certificateChain ++ (rdy.random 32).1 ++ [0, 0] ++ (([0x13, 0x83, 0, 0] ++ List.replicate 40 7 : Bytes).drop 36).take 8, by decide +kernel, by decide +kernel, by decide +kernel, by decide +kernel, by decide +kernel, by decide +kernel, rfl⟩,
  ⟨rdy, (⟨2, 77⟩ : McpAddress), ([0x13, 0xE0, 0, 5] ++ List.replicate 40 7 : Bytes), 5, [0x13, 0x60, 0, 0] ++ [1] ++ leBytes 3 (rdy.measurementBlock 5).length ++ rdy.measurementBlock 5 ++ (rdy.random 32).1 ++ [0, 0], by decide +kernel, by decide +kernel, by decide +kernel, by decide +kernel, by decide +kernel, by decide +kernel, by decide +kernel, rfl, by decide +kernel⟩,
  ⟨rdy, (⟨2, 77⟩ : McpAddress), ([0x13, 0xE0, 1, 5] ++ List.replicate 40 7 : Bytes), 5, [0x13, 0x60, 0, 0] ++ [1] ++ leBytes 3 (rdy.measurementBlock 5).length ++ rdy.measurementBlock 5 ++ (rdy.random 32).1 ++ [0, 0], by decide +kernel, by decide +kernel, by decide +kernel, by decide +kernel, by decide +kernel, by decide +kernel, by decide +kernel, rfl, by decide +kernel⟩,
  ⟨dorm, (⟨2, 77⟩ : McpAddress), by decide +kernel⟩⟩
end SpdmCommandsComplete

/-- Witnesses for `Obligations.RecordAndSessionRequestsComplete`: every clause's hypotheses hold together. -/
theorem witness_recordAndSessionRequestsComplete (mac : ∀ k m i, Config.hmacByte k m i = 0) (plain : ∀ iv i, Config.gcmStreamByte [] iv i = 0) :
    (∃ (s : State) (tag : _) (c : _), s.running = true ∧ s.Requests (s.openSlot tag 1) tag 1 c) ∧
    (∃ (s : State) (tag : _) (c : _), s.running = true ∧ s.Requests (s.openSlot tag 3) tag 3 c) ∧
    (∃ (s : State) (tag : _) (c : _), s.running = true ∧ s.Requests (s.openSlot tag 2) tag 2 c) ∧
    (∃ (s : State) (tag : _) (c : _) (i : _), s.running = true ∧ s.Requests (s.openSlot tag 0x10) tag 0x10 c ∧ s.principalLive (numAt c.params 0 2) = true ∧ s.lockedOut (numAt c.params 0 2) = false ∧ (s.two.claimed = true ∨ c.from_.transport = 5 ∨ c.from_.transport = 1 ∨ c.from_.transport = 2) ∧ ((s.mcp.challenges.any fun x => x.value == (c.params.drop 4).take 32 && decide (s.now < x.issued + 10 ^ 10)) = true) ∧ Config.hmac (s.principalKey (numAt c.params 0 2)) (c.bytes.take 32 ++ c.params.take 164) = c.params.drop 164 ∧ (s.mcp.sessions.filter (·.principal == numAt c.params 0 2)).length < 4 ∧ (((List.range 56).find? fun i => (s.session (8 + i)).isNone) = some i)) ∧
    (∃ (s : State) (slot : _) (tag : _) (c : _) (me : _), s.running = true ∧ s.Requests slot tag 0x11 c ∧ s.session slot = some me ∧ (numAt c.params 0 4 = 0 ∨ numAt c.params 0 4 = me.word)) ∧
    (∃ (s : State) (slot : _) (tag : _) (c : _) (me : _) (m : _), s.running = true ∧ s.Requests slot tag 0x11 c ∧ s.session slot = some me ∧ numAt c.params 0 4 ≠ 0 ∧ numAt c.params 0 4 ≠ me.word ∧ (s.mcp.sessions.find? fun m => m.word == numAt c.params 0 4 && m.principal == me.principal) = some m) ∧
    (∃ (s : State) (slot : _) (tag : _) (c : _) (me : _) (mine : _), s.running = true ∧ s.Requests slot tag 0x12 c ∧ c.session = some me ∧ mine = s.mcp.sessions.filter (fun m => me.principal == m.principal)) ∧
    (∃ (s : State) (slot : _) (tag : _) (c : _), s.running = true ∧ s.Requests slot tag 0x13 c) ∧
    (∃ (s : State) (slot : _) (tag : _) (c : _) (l : _), s.running = true ∧ s.Requests slot tag 0x14 c ∧ l = (s.mcp.notices.reverse.filter fun n => numAt c.params 0 8 ≤ n.number).take 16) ∧
    (∃ (s : State) (slot : _) (tag : _) (c : _), s.running = true ∧ s.Requests slot tag 0x101 c) ∧
    (∃ (s : State) (slot : _) (tag : _) (c : _) (b : _) (t : _), s.running = true ∧ s.Requests slot tag 0x102 c ∧ numAt c.params 12 4 ≤ 4032 ∧ s.logPage noController (numAt c.params 4 4) (numAt c.params 0 1) = .ok (b, t) ∧ numAt c.params 8 4 ≤ b.length) ∧
    (∃ (s : State) (slot : _) (tag : _) (c : _) (l : _), s.running = true ∧ s.Requests slot tag 0x103 c ∧ l = (s.flt.ring.reverse.filter fun r => numAt c.params 0 8 ≤ r.number).take 63) ∧
    (∃ (s : State) (slot : _) (tag : _) (c : _) (b : _) (t : _), s.running = true ∧ s.Requests slot tag 0x104 c ∧ s.logPage noController 0 0xC2 = .ok (b, t) ∧ numAt c.params 0 4 ≤ b.length) :=
  ⟨⟨pg 1 [], 4, pl 1 [], by decide +kernel, ⟨by decide +kernel, by decide +kernel, by decide +kernel, by decide +kernel, by decide +kernel, by decide +kernel⟩⟩,
  ⟨pg 3 [], 4, pl 3 [], by decide +kernel, ⟨by decide +kernel, by decide +kernel, by decide +kernel, by decide +kernel, by decide +kernel, by decide +kernel⟩⟩,
  ⟨pg 2 [], 4, pl 2 [], by decide +kernel, ⟨by decide +kernel, by decide +kernel, by decide +kernel, by decide +kernel, by decide +kernel, by decide +kernel⟩⟩,
  ⟨pg 0x10 sp, 4, pl 0x10 sp, (((List.range 56).find? fun i => ((pg 0x10 sp).session (8 + i)).isNone)).get (by decide +kernel), by decide +kernel, ⟨by decide +kernel, by decide +kernel, by decide +kernel, by decide +kernel, by decide +kernel, by decide +kernel⟩, by decide +kernel, by decide +kernel, by decide +kernel, by decide +kernel, (hmac_of mac _ _), by decide +kernel, (Option.some_get _).symm⟩,
  ⟨mg 0x11 [0, 0, 0, 0], 8, 4, mc 0x11 [0, 0, 0, 0], ((mg 0x11 [0, 0, 0, 0]).session 8).get (by decide +kernel), by decide +kernel, ⟨call_of plain (m := ms 0x11 [0, 0, 0, 0]) (r := mrq 0x11 [0, 0, 0, 0]), by decide +kernel, by decide +kernel, by decide +kernel, by decide +kernel, by decide +kernel⟩, (Option.some_get _).symm, by decide +kernel⟩,
  ⟨(mg 0x11 (leBytes 4 m9.word)).onMcp fun m => { m with sessions := m.sessions ++ [m9] }, 8, 4, mc 0x11 (leBytes 4 m9.word), (((mg 0x11 (leBytes 4 m9.word)).onMcp fun m => { m with sessions := m.sessions ++ [m9] }).session 8).get (by decide +kernel), ((((mg 0x11 (leBytes 4 m9.word)).onMcp fun m => { m with sessions := m.sessions ++ [m9] }).mcp.sessions.find? fun m => m.word == numAt (mc 0x11 (leBytes 4 m9.word)).params 0 4 && m.principal == ((((mg 0x11 (leBytes 4 m9.word)).onMcp fun m => { m with sessions := m.sessions ++ [m9] }).session 8).get (by decide +kernel)).principal)).get (by decide +kernel), by decide +kernel, ⟨call_of plain (m := ms 0x11 (leBytes 4 m9.word)) (r := mrq 0x11 (leBytes 4 m9.word)), by decide +kernel, by decide +kernel, by decide +kernel, by decide +kernel, by decide +kernel⟩, (Option.some_get _).symm, by decide +kernel, by decide +kernel, (Option.some_get _).symm⟩,
  ⟨mg 0x12 [], 8, 4, mc 0x12 [], ms 0x12 [], (mg 0x12 []).mcp.sessions.filter (fun m => (ms 0x12 []).principal == m.principal), by decide +kernel, ⟨call_of plain (m := ms 0x12 []) (r := mrq 0x12 []), by decide +kernel, by decide +kernel, by decide +kernel, by decide +kernel, by decide +kernel⟩, by decide +kernel, rfl⟩,
  ⟨mg 0x13 [255, 0, 0, 0], 8, 4, mc 0x13 [255, 0, 0, 0], by decide +kernel, ⟨call_of plain (m := ms 0x13 [255, 0, 0, 0]) (r := mrq 0x13 [255, 0, 0, 0]), by decide +kernel, by decide +kernel, by decide +kernel, by decide +kernel, by decide +kernel⟩⟩,
  ⟨mg 0x14 (leBytes 8 0), 8, 4, mc 0x14 (leBytes 8 0), ((mg 0x14 (leBytes 8 0)).mcp.notices.reverse.filter fun n => numAt (mc 0x14 (leBytes 8 0)).params 0 8 ≤ n.number).take 16, by decide +kernel, ⟨call_of plain (m := ms 0x14 (leBytes 8 0)) (r := mrq 0x14 (leBytes 8 0)), by decide +kernel, by decide +kernel, by decide +kernel, by decide +kernel, by decide +kernel⟩, rfl⟩,
  ⟨mg 0x101 [], 8, 4, mc 0x101 [], by decide +kernel, ⟨call_of plain (m := ms 0x101 []) (r := mrq 0x101 []), by decide +kernel, by decide +kernel, by decide +kernel, by decide +kernel, by decide +kernel⟩⟩,
  ⟨mg 0x102 (leBytes 4 0xC2 ++ leBytes 8 0 ++ leBytes 4 4032), 8, 4, mc 0x102 (leBytes 4 0xC2 ++ leBytes 8 0 ++ leBytes 4 4032), (okOf ((mg 0x102 (leBytes 4 0xC2 ++ leBytes 8 0 ++ leBytes 4 4032)).logPage noController (numAt (mc 0x102 (leBytes 4 0xC2 ++ leBytes 8 0 ++ leBytes 4 4032)).params 4 4) (numAt (mc 0x102 (leBytes 4 0xC2 ++ leBytes 8 0 ++ leBytes 4 4032)).params 0 1)) (by decide +kernel)).1, (okOf ((mg 0x102 (leBytes 4 0xC2 ++ leBytes 8 0 ++ leBytes 4 4032)).logPage noController (numAt (mc 0x102 (leBytes 4 0xC2 ++ leBytes 8 0 ++ leBytes 4 4032)).params 4 4) (numAt (mc 0x102 (leBytes 4 0xC2 ++ leBytes 8 0 ++ leBytes 4 4032)).params 0 1)) (by decide +kernel)).2, by decide +kernel, ⟨call_of plain (m := ms 0x102 (leBytes 4 0xC2 ++ leBytes 8 0 ++ leBytes 4 4032)) (r := mrq 0x102 (leBytes 4 0xC2 ++ leBytes 8 0 ++ leBytes 4 4032)), by decide +kernel, by decide +kernel, by decide +kernel, by decide +kernel, by decide +kernel⟩, by decide +kernel, (okOf_eq _ (by decide +kernel)), by decide +kernel⟩,
  ⟨mg 0x103 (leBytes 8 0), 8, 4, mc 0x103 (leBytes 8 0), ((mg 0x103 (leBytes 8 0)).flt.ring.reverse.filter fun r => numAt (mc 0x103 (leBytes 8 0)).params 0 8 ≤ r.number).take 63, by decide +kernel, ⟨call_of plain (m := ms 0x103 (leBytes 8 0)) (r := mrq 0x103 (leBytes 8 0)), by decide +kernel, by decide +kernel, by decide +kernel, by decide +kernel, by decide +kernel⟩, rfl⟩,
  ⟨mg 0x104 (leBytes 4 0), 8, 4, mc 0x104 (leBytes 4 0), (okOf ((mg 0x104 (leBytes 4 0)).logPage noController 0 0xC2) (by decide +kernel)).1, (okOf ((mg 0x104 (leBytes 4 0)).logPage noController 0 0xC2) (by decide +kernel)).2, by decide +kernel, ⟨call_of plain (m := ms 0x104 (leBytes 4 0)) (r := mrq 0x104 (leBytes 4 0)), by decide +kernel, by decide +kernel, by decide +kernel, by decide +kernel, by decide +kernel⟩, (okOf_eq _ (by decide +kernel)), by decide +kernel⟩⟩

/-- Witnesses for `Obligations.OperatorRequestsComplete`: every clause's hypotheses hold together. -/
theorem witness_operatorRequestsComplete (plain : ∀ iv i, Config.gcmStreamByte [] iv i = 0) :
    (∃ (s : State) (t : State) (slot : _) (tag : _) (c : _), s.running = true ∧ s.Requests slot tag 0x201 c ∧ numAt c.params 1 1 < 8 ∧ s.callBusy c = false ∧ (((numAt c.params 0 1 = 1 ∧ exec (.ltkHandOverGroup .ronhenko (numAt c.params 1 1)) s = .next t) ∨ (numAt c.params 0 1 = 2 ∧ exec (.ltkHandOverAll .ronhenko) s = .next t) ∨ (numAt c.params 0 1 = 3 ∧ exec (.ltkReleaseGroup .ronhenko (numAt c.params 1 1)) s = .next t) ∨ (numAt c.params 0 1 = 4 ∧ exec (.ltkAcquireGroup .ronhenko (numAt c.params 1 1)) s = .next t) ∨ (numAt c.params 0 1 = 5 ∧ exec (.ltkRunSelfTest .ronhenko) s = .next t)))) ∧
    (∃ (s : State) (t : State) (slot : _) (tag : _) (c : _) (x : _) (y : _), s.running = true ∧ s.Requests slot tag 0x202 c ∧ numAt c.params 0 1 < 48 ∧ s.callBusy c = false ∧ ((numAt c.params 1 1 = 1 ∧ exec (.slotPowerOn .ronhenko (numAt c.params 0 1)) s = .next t) ∨ (numAt c.params 1 1 = 2 ∧ exec (.slotOff .ronhenko (numAt c.params 0 1)) s = .next t) ∨ (numAt c.params 1 1 = 3 ∧ exec (.slotForcedOff .ronhenko (numAt c.params 0 1)) s = .next t) ∨ (numAt c.params 1 1 = 4 ∧ exec (.slotRetrain .ronhenko (numAt c.params 0 1)) s = .next t) ∨ (numAt c.params 1 1 = 5 ∧ exec (.slotPrepare .ronhenko (numAt c.params 0 1) x y) s = .next t))) ∧
    (∃ (s : State) (t : State) (slot : _) (tag : _) (c : _), s.running = true ∧ s.Requests slot tag 0x203 c ∧ numAt c.params 0 1 < 4 ∧ s.callBusy c = false ∧ (((numAt c.params 1 1 = 1 ∧ exec (.promenadeStart .ronhenko (numAt c.params 0 1)) s = .next t) ∨ (numAt c.params 1 1 = 2 ∧ exec (.setCreate .ronhenko (numAt c.params 0 1)) s = .next t) ∨ (numAt c.params 1 1 = 3 ∧ exec (.setDelete .ronhenko (numAt c.params 0 1)) s = .next t)))) ∧
    (∃ (s : State) (slot : _) (tag : _) (c : _), s.running = true ∧ s.Requests slot tag 0x204 c ∧ (bitOf (numAt c.params 0 4) 0 = false ∨ s.rd LTK_STAT.LEAD % 256 = 0)) ∧
    (∃ (s : State) (slot : _) (tag : _) (c : _) (gs : _), s.running = true ∧ s.Requests slot tag 0x204 c ∧ bitOf (numAt c.params 0 4) 0 = true ∧ gs = (List.range 8).filter s.leads ∧ gs ≠ [] ∧ gs.all s.peerReady = true) ∧
    (∃ (s : State) (slot : _) (tag : _) (c : _), s.running = true ∧ s.Requests slot tag 0x205 c) ∧
    (∃ (s : State) (slot : _) (tag : _) (c : _), s.running = true ∧ s.Requests slot tag 0x206 c ∧ numAt c.params 0 1 = 1) ∧
    (∃ (s : State) (slot : _) (tag : _) (c : _), s.running = true ∧ s.Requests slot tag 0x206 c ∧ numAt c.params 0 1 = 3 ∧ s.power.dormantStep = none) ∧
    (∃ (s : State) (slot : _) (tag : _) (c : _), s.running = true ∧ s.Requests slot tag 0x207 c ∧ 50 ≤ numAt c.params 0 2 ∧ numAt c.params 0 2 ≤ 250) ∧
    (∃ (s : State) (slot : _) (tag : _) (c : _) (t : _), s.running = true ∧ s.Requests slot tag 0x208 c ∧ 4 ≤ numAt c.params 4 4 ∧ numAt c.params 4 4 ≤ 4040 ∧ s.stageImage (numAt c.params 0 4) (c.params.drop 8) = (stOk, t)) ∧
    (∃ (s : State) (slot : _) (tag : _) (c : _) (t : _), s.running = true ∧ s.Requests slot tag 0x209 c ∧ (numAt c.params 1 1 = 3 → s.sanitizeHolds = false) ∧ (((numAt c.params 1 1 = 0 ∧ s.storeImage (numAt c.params 0 1) = (stOk, t)) ∨ (numAt c.params 1 1 = 1 ∧ s.storeImageNext (numAt c.params 0 1) = (stOk, t)) ∨ (numAt c.params 1 1 = 2 ∧ s.markImage (numAt c.params 0 1) = (stOk, t)) ∨ (numAt c.params 1 1 = 3 ∧ s.commitActivate (numAt c.params 0 1) = (stOk, t))))) ∧
    (∃ (s : State) (slot : _) (tag : _) (c : _) (u : _), s.running = true ∧ s.Requests slot tag 0x20A c ∧ numAt c.params 0 1 < 8 ∧ s.leads (numAt c.params 0 1) = true ∧ numAt c.params 2 1 ≤ 1 ∧ numAt c.params 4 4 = 0 ∧ numAt c.params 1 1 < 4 ∧ s.flag (QDL_GEOM.VALID (numAt c.params 1 1)) = true ∧ numAt c.params 3 1 ≤ 1 ∧ (u = s.onHost (fun h => { h with policyChanges := h.policyChanges ++ [⟨numAt c.params 0 1, 0, s.measure + 1, ⟨numAt c.params 1 1, numAt c.params 2 1 == 1, numAt c.params 3 1 == 1⟩⟩] }))) ∧
    (∃ (s : State) (slot : _) (tag : _) (c : _) (u : _), s.running = true ∧ s.Requests slot tag 0x20A c ∧ numAt c.params 0 1 < 8 ∧ s.leads (numAt c.params 0 1) = true ∧ numAt c.params 2 1 ≤ 1 ∧ numAt c.params 4 4 ≠ 0 ∧ numAt c.params 1 1 = 0xFF ∧ numAt c.params 3 1 = 0xFF ∧ (((s.namespace (numAt c.params 4 4)).any fun n => n.group == numAt c.params 0 1) = true) ∧ (u = s.onHost (fun h => { h with policyChanges := h.policyChanges ++ [⟨numAt c.params 0 1, numAt c.params 4 4, s.measure + 1, ⟨0, numAt c.params 2 1 == 1, true⟩⟩] }))) ∧
    (∃ (s : State) (slot : _) (tag : _) (c : _), s.running = true ∧ s.Requests slot tag 0x20A c ∧ numAt c.params 0 1 < 8 ∧ s.leads (numAt c.params 0 1) = false ∧ s.linkUp = true ∧ bitOf s.link.peerLeads (numAt c.params 0 1) = true) ∧
    (∃ (s : State) (slot : _) (tag : _) (c : _), s.running = true ∧ s.Requests slot tag 0x20B c ∧ numAt c.params 0 1 ≤ 4) :=
  ⟨⟨(mg 0x201 [1, 7, 0, 0]), _, 8, 4, mc 0x201 [1, 7, 0, 0], by decide +kernel, ⟨call_of plain (m := ms 0x201 [1, 7, 0, 0]) (r := mrq 0x201 [1, 7, 0, 0]), by decide +kernel, by decide +kernel, by decide +kernel, by decide +kernel, by decide +kernel⟩, by decide +kernel, by decide +kernel, (Or.inl ⟨by decide +kernel, rfl⟩)⟩,
  ⟨(mg 0x202 [47, 1, 0, 0]), _, 8, 4, mc 0x202 [47, 1, 0, 0], false, false, by decide +kernel, ⟨call_of plain (m := ms 0x202 [47, 1, 0, 0]) (r := mrq 0x202 [47, 1, 0, 0]), by decide +kernel, by decide +kernel, by decide +kernel, by decide +kernel, by decide +kernel⟩, by decide +kernel, by decide +kernel, (Or.inl ⟨by decide +kernel, rfl⟩)⟩,
  ⟨(mg 0x203 [3, 2, 0, 0]), _, 8, 4, mc 0x203 [3, 2, 0, 0], by decide +kernel, ⟨call_of plain (m := ms 0x203 [3, 2, 0, 0]) (r := mrq 0x203 [3, 2, 0, 0]), by decide +kernel, by decide +kernel, by decide +kernel, by decide +kernel, by decide +kernel⟩, by decide +kernel, by decide +kernel, (Or.inr (Or.inl ⟨by decide +kernel, rfl⟩))⟩,
  ⟨(mg 0x204 [0, 0, 0, 0]), 8, 4, mc 0x204 [0, 0, 0, 0], by decide +kernel, ⟨call_of plain (m := ms 0x204 [0, 0, 0, 0]) (r := mrq 0x204 [0, 0, 0, 0]), by decide +kernel, by decide +kernel, by decide +kernel, by decide +kernel, by decide +kernel⟩, by decide +kernel⟩,
  ⟨(((mg 0x204 [1, 0, 0, 0]).wrs [(LTK_STAT.LEAD, 1), (EZL_STAT.STATE, linkPaired), (EZL_STAT.JOINED, 255)]).setReg LTK_PHEALTH.addr (BitVec.ofNat 64 (2 ^ 64 - 1))), 8, 4, mc 0x204 [1, 0, 0, 0], _, by decide +kernel, ⟨call_of plain (m := ms 0x204 [1, 0, 0, 0]) (r := mrq 0x204 [1, 0, 0, 0]), by decide +kernel, by decide +kernel, by decide +kernel, by decide +kernel, by decide +kernel⟩, by decide +kernel, rfl, by decide +kernel, by decide +kernel⟩,
  ⟨(mg 0x205 []), 8, 4, mc 0x205 [], by decide +kernel, ⟨call_of plain (m := ms 0x205 []) (r := mrq 0x205 []), by decide +kernel, by decide +kernel, by decide +kernel, by decide +kernel, by decide +kernel⟩⟩,
  ⟨(mg 0x206 [1, 0, 0, 0]), 8, 4, mc 0x206 [1, 0, 0, 0], by decide +kernel, ⟨call_of plain (m := ms 0x206 [1, 0, 0, 0]) (r := mrq 0x206 [1, 0, 0, 0]), by decide +kernel, by decide +kernel, by decide +kernel, by decide +kernel, by decide +kernel⟩, by decide +kernel⟩,
  ⟨(mg 0x206 [3, 0, 0, 0]), 8, 4, mc 0x206 [3, 0, 0, 0], by decide +kernel, ⟨call_of plain (m := ms 0x206 [3, 0, 0, 0]) (r := mrq 0x206 [3, 0, 0, 0]), by decide +kernel, by decide +kernel, by decide +kernel, by decide +kernel, by decide +kernel⟩, by decide +kernel⟩,
  ⟨(mg 0x207 [250, 0, 0, 0]), 8, 4, mc 0x207 [250, 0, 0, 0], by decide +kernel, ⟨call_of plain (m := ms 0x207 [250, 0, 0, 0]) (r := mrq 0x207 [250, 0, 0, 0]), by decide +kernel, by decide +kernel, by decide +kernel, by decide +kernel, by decide +kernel⟩, by decide +kernel⟩,
  ⟨(mg 0x208 (leBytes 4 0 ++ leBytes 4 4 ++ [1, 2, 3, 4])), 8, 4, mc 0x208 (leBytes 4 0 ++ leBytes 4 4 ++ [1, 2, 3, 4]), ((mg 0x208 (leBytes 4 0 ++ leBytes 4 4 ++ [1, 2, 3, 4])).stageImage (numAt (mc 0x208 (leBytes 4 0 ++ leBytes 4 4 ++ [1, 2, 3, 4])).params 0 4) ((mc 0x208 (leBytes 4 0 ++ leBytes 4 4 ++ [1, 2, 3, 4])).params.drop 8)).2, by decide +kernel, ⟨call_of plain (m := ms 0x208 (leBytes 4 0 ++ leBytes 4 4 ++ [1, 2, 3, 4])) (r := mrq 0x208 (leBytes 4 0 ++ leBytes 4 4 ++ [1, 2, 3, 4])), by decide +kernel, by decide +kernel, by decide +kernel, by decide +kernel, by decide +kernel⟩, by decide +kernel, by decide +kernel, (Prod.ext (by decide +kernel) rfl)⟩,
  ⟨(mg 0x209 [1, 2, 0, 0]).onAdmin fun a => { a with runningSlot := 1 }, 8, 4, mc 0x209 [1, 2, 0, 0], (((mg 0x209 [1, 2, 0, 0]).onAdmin fun a => { a with runningSlot := 1 }).markImage (numAt (mc 0x209 [1, 2, 0, 0]).params 0 1)).2, by decide +kernel, ⟨call_of plain (m := ms 0x209 [1, 2, 0, 0]) (r := mrq 0x209 [1, 2, 0, 0]), by decide +kernel, by decide +kernel, by decide +kernel, by decide +kernel, by decide +kernel⟩, by decide +kernel, (Or.inr (Or.inr (Or.inl ⟨by decide +kernel, (Prod.ext (by decide +kernel) rfl)⟩)))⟩,
  ⟨((mg 0x20A [7, 0, 1, 0, 0, 0, 0, 0]).wrs [(LTK_STAT.LEAD, 128), (QDL_GEOM.VALID 0, 1)]), 8, 4, mc 0x20A [7, 0, 1, 0, 0, 0, 0, 0], _, by decide +kernel, ⟨call_of plain (m := ms 0x20A [7, 0, 1, 0, 0, 0, 0, 0]) (r := mrq 0x20A [7, 0, 1, 0, 0, 0, 0, 0]), by decide +kernel, by decide +kernel, by decide +kernel, by decide +kernel, by decide +kernel⟩, by decide +kernel, by decide +kernel, by decide +kernel, by decide +kernel, by decide +kernel, by decide +kernel, by decide +kernel, rfl⟩,
  ⟨(((mg 0x20A [0, 0xFF, 1, 0xFF, 1, 0, 0, 0]).wr LTK_STAT.LEAD 1).onHost fun h => { h with namespaces := [ns1] }), 8, 4, mc 0x20A [0, 0xFF, 1, 0xFF, 1, 0, 0, 0], _, by decide +kernel, ⟨call_of plain (m := ms 0x20A [0, 0xFF, 1, 0xFF, 1, 0, 0, 0]) (r := mrq 0x20A [0, 0xFF, 1, 0xFF, 1, 0, 0, 0]), by decide +kernel, by decide +kernel, by decide +kernel, by decide +kernel, by decide +kernel⟩, by decide +kernel, by decide +kernel, by decide +kernel, by decide +kernel, by decide +kernel, by decide +kernel, by decide +kernel, rfl⟩,
  ⟨(((mg 0x20A [7, 0, 1, 0, 0, 0, 0, 0]).wr EZL_STAT.STATE linkPaired).onLink fun l => { l with peerLeads := 128 }), 8, 4, mc 0x20A [7, 0, 1, 0, 0, 0, 0, 0], by decide +kernel, ⟨call_of plain (m := ms 0x20A [7, 0, 1, 0, 0, 0, 0, 0]) (r := mrq 0x20A [7, 0, 1, 0, 0, 0, 0, 0]), by decide +kernel, by decide +kernel, by decide +kernel, by decide +kernel, by decide +kernel⟩, by decide +kernel⟩,
  ⟨(mg 0x20B [4, 0, 0, 0]), 8, 4, mc 0x20B [4, 0, 0, 0], by decide +kernel, ⟨call_of plain (m := ms 0x20B [4, 0, 0, 0]) (r := mrq 0x20B [4, 0, 0, 0]), by decide +kernel, by decide +kernel, by decide +kernel, by decide +kernel, by decide +kernel⟩, by decide +kernel⟩⟩

namespace TwoStepRequestsComplete
def pr (counted : List Nat) (target : Nat) : Proposal := ⟨0, 5, 4, [0, 0, 2, 0], .opened, 0, counted, target, 0, 0, 0, 0⟩
def ps : State := (mg 0x300 (leBytes 2 4 ++ [0, 0] ++ leBytes 8 0 ++ [0, 0, 2, 0])).onTwo fun t => { t with claimed := true }
def pc : McpCall := mc 0x300 (leBytes 2 4 ++ [0, 0] ++ leBytes 8 0 ++ [0, 0, 2, 0])
def pv : Except (Nat × Nat) (Nat × State) := ps.propose pc.principal (numAt pc.params 0 2) (numAt pc.params 4 8) (pc.params.drop 12) pc.sessionWord
/-- Witnesses for `Obligations.TwoStepRequestsComplete`: every clause's hypotheses hold together. -/
theorem witness_twoStepRequestsComplete (plain : ∀ iv i, Config.gcmStreamByte [] iv i = 0) (sha : ∀ b i, Config.sha384Byte b i = 0) :
    (∃ (s : State) (slot : _) (tag : _) (c : _) (n : _) (t : _), s.running = true ∧ s.Requests slot tag 0x300 c ∧ s.propose c.principal (numAt c.params 0 2) (numAt c.params 4 8) (c.params.drop 12) c.sessionWord = .ok (n, t)) ∧
    (∃ (s : State) (slot : _) (tag : _) (c : _) (p : _), s.running = true ∧ s.Requests slot tag 0x301 c ∧ s.two.proposals.find? (·.number == numAt c.params 0 8) = some p ∧ p.state = .opened ∧ p.object ≠ 6 ∧ c.principal ∉ p.counted ∧ c.params.drop 8 = p.digest ∧ p.counted = []) ∧
    (∃ (s : State) (slot : _) (tag : _) (c : _) (p : _), s.running = true ∧ s.Requests slot tag 0x301 c ∧ s.two.proposals.find? (·.number == numAt c.params 0 8) = some p ∧ p.state = .opened ∧ p.object ≠ 6 ∧ c.principal ∉ p.counted ∧ c.params.drop 8 = p.digest ∧ p.counted ≠ [] ∧ p.target = 0) ∧
    (∃ (s : State) (slot : _) (tag : _) (c : _) (p : _), s.running = true ∧ s.Requests slot tag 0x301 c ∧ s.two.proposals.find? (·.number == numAt c.params 0 8) = some p ∧ p.state = .opened ∧ p.object ≠ 6 ∧ c.principal ∉ p.counted ∧ c.params.drop 8 = p.digest ∧ p.counted ≠ [] ∧ s.measure + 2 ≤ p.target) ∧
    (∃ (s : State) (slot : _) (tag : _) (c : _) (p : _), s.running = true ∧ s.Requests slot tag 0x302 c ∧ s.two.proposals.find? (·.number == numAt c.params 0 8) = some p ∧ p.state = .opened) ∧
    (∃ (s : State) (slot : _) (tag : _) (c : _), s.running = true ∧ s.Requests slot tag 0x303 c ∧ numAt c.params 0 8 = 0) ∧
    (∃ (s : State) (slot : _) (tag : _) (c : _) (p : _), s.running = true ∧ s.Requests slot tag 0x303 c ∧ numAt c.params 0 8 ≠ 0 ∧ s.two.proposals.find? (·.number == numAt c.params 0 8) = some p) :=
  ⟨⟨ps, 8, 4, pc, (okOf pv (by decide +kernel)).1, (okOf pv (by decide +kernel)).2, by decide +kernel, ⟨call_of plain (m := ms 0x300 (leBytes 2 4 ++ [0, 0] ++ leBytes 8 0 ++ [0, 0, 2, 0])) (r := mrq 0x300 (leBytes 2 4 ++ [0, 0] ++ leBytes 8 0 ++ [0, 0, 2, 0])), by decide +kernel, by decide +kernel, by decide +kernel, by decide +kernel, by decide +kernel⟩, (okOf_eq pv (by decide +kernel))⟩,
  ⟨(mg 0x301 (leBytes 8 5 ++ List.replicate 48 0)).putProposal (pr [] 9), 8, 4, mc 0x301 (leBytes 8 5 ++ List.replicate 48 0), pr [] 9, by decide +kernel, ⟨call_of plain (m := ms 0x301 (leBytes 8 5 ++ List.replicate 48 0)) (r := mrq 0x301 (leBytes 8 5 ++ List.replicate 48 0)), by decide +kernel, by decide +kernel, by decide +kernel, by decide +kernel, by decide +kernel⟩, by decide +kernel, by decide +kernel, by decide +kernel, by decide +kernel, (digest_of sha (by decide +kernel)), by decide +kernel⟩,
  ⟨(mg 0x301 (leBytes 8 5 ++ List.replicate 48 0)).putProposal (pr [2] 0), 8, 4, mc 0x301 (leBytes 8 5 ++ List.replicate 48 0), pr [2] 0, by decide +kernel, ⟨call_of plain (m := ms 0x301 (leBytes 8 5 ++ List.replicate 48 0)) (r := mrq 0x301 (leBytes 8 5 ++ List.replicate 48 0)), by decide +kernel, by decide +kernel, by decide +kernel, by decide +kernel, by decide +kernel⟩, by decide +kernel, by decide +kernel, by decide +kernel, by decide +kernel, (digest_of sha (by decide +kernel)), by decide +kernel⟩,
  ⟨(mg 0x301 (leBytes 8 5 ++ List.replicate 48 0)).putProposal (pr [2] (on.measure + 2)), 8, 4, mc 0x301 (leBytes 8 5 ++ List.replicate 48 0), pr [2] (on.measure + 2), by decide +kernel, ⟨call_of plain (m := ms 0x301 (leBytes 8 5 ++ List.replicate 48 0)) (r := mrq 0x301 (leBytes 8 5 ++ List.replicate 48 0)), by decide +kernel, by decide +kernel, by decide +kernel, by decide +kernel, by decide +kernel⟩, by decide +kernel, by decide +kernel, by decide +kernel, by decide +kernel, (digest_of sha (by decide +kernel)), by decide +kernel⟩,
  ⟨(mg 0x302 (leBytes 8 5)).putProposal (pr [] 9), 8, 4, mc 0x302 (leBytes 8 5), pr [] 9, by decide +kernel, ⟨call_of plain (m := ms 0x302 (leBytes 8 5)) (r := mrq 0x302 (leBytes 8 5)), by decide +kernel, by decide +kernel, by decide +kernel, by decide +kernel, by decide +kernel⟩, by decide +kernel⟩,
  ⟨mg 0x303 (leBytes 8 0), 8, 4, mc 0x303 (leBytes 8 0), by decide +kernel, ⟨call_of plain (m := ms 0x303 (leBytes 8 0)) (r := mrq 0x303 (leBytes 8 0)), by decide +kernel, by decide +kernel, by decide +kernel, by decide +kernel, by decide +kernel⟩, by decide +kernel⟩,
  ⟨(mg 0x303 (leBytes 8 5)).putProposal (pr [] 9), 8, 4, mc 0x303 (leBytes 8 5), pr [] 9, by decide +kernel, ⟨call_of plain (m := ms 0x303 (leBytes 8 5)) (r := mrq 0x303 (leBytes 8 5)), by decide +kernel, by decide +kernel, by decide +kernel, by decide +kernel, by decide +kernel⟩, by decide +kernel⟩⟩
end TwoStepRequestsComplete

namespace DirectPortCommandsComplete
def up : State := (on.wr DPT_STAT.UP 1).wrs [(DPT_FSTAT.STATE 0, fnIdle), (DPT_FSTAT.STATE 1, fnIdle)]
def ctlD : Controller := { ctl1 with cntlid := 1, direct := true }
def rd0 : DirectRead := ⟨4, true, .entry 0 0, 64, [], 0⟩
def cmd0 (s : State) : HostCmd := { s.newCommand ⟨key1, 1, 0, none, []⟩ .write ns1 with stage := .fetch }
def upc : State := up.onHost fun h => { h with controllers := [{ ctlD with cntlid := up.directId }], commands := [cmd0 up] }
def dr : State := upc.onDirect fun d => { d with reads := [{ rd0 with what := .data key1 0 }] }
/-- Witnesses for `Obligations.DirectPortCommandsComplete`: every clause's hypotheses hold together. -/
theorem witness_directPortCommandsComplete :
    (∃ (s : State), s.running = false) ∧
    (∃ (s : State), s.running = true) ∧
    (∃ (s : State), (s.running = false ∨ s.direct.cableIn = false)) ∧
    (∃ (s : State), s.running = true ∧ s.direct.cableIn = true) ∧
    (∃ (s : State) (speed : _) (width : _), s.running = true ∧ s.directMayTrain = true ∧ s.flag DPT_STAT.UP = false ∧ speed < 16 ∧ width < 32) ∧
    (∃ (s : State), s.running = true ∧ s.flag DPT_STAT.UP = true) ∧
    (∃ (s : State) (f : _), s.running = true ∧ s.cfgReady f = true) ∧
    (∃ (s : State) (f : _), s.running = true ∧ s.flag DPT_STAT.UP = true ∧ f < 2 ∧ s.cfgReady f = false) ∧
    (∃ (s : State) (f : _), s.running = true ∧ f < 2 ∧ (s.direct.fn f).flr = true ∧ (s.direct.fn f).flrAt + 20000000 ≤ s.now) ∧
    (∃ (s : State) (f : _), s.running = true ∧ f < 2 ∧ s.fnState f = fnQuiescing ∧ (f = 0 → s.direct.reads.any (·.sent) = false) ∧ (s.direct.fn f).latchBme = false ∧ (s.direct.fn f).latchCc = false) ∧
    (∃ (s : State) (q : _) (tail : _) (size : _) (old : _), s.running = true ∧ s.directEnabled = true ∧ s.direct.cfs = false ∧ s.fnState 0 ≠ fnQuiescing ∧ q ≤ 128 ∧ tail < size ∧ ((q = 0 ∨ size ≤ 1024)) ∧ size ≤ 4096 ∧ old = ((s.direct.tails.find? (·.1 == q)).map (·.2)).getD 0) ∧
    (∃ (s : State) (tag : _) (r : _), s.running = true ∧ (s.direct.reads.find? fun r => r.tag == tag && r.sent) = some r) ∧
    (∃ (s : State) (tag : _) (r : _) (key : _) (off : _) (c : _), s.running = true ∧ ((s.direct.reads.find? fun r => r.tag == tag && r.sent) = some r) ∧ r.sentAt + s.directTimeout ≤ s.now ∧ r.what = .data key off ∧ (((s.count DPT_CTO.addr).wr DPT_EVT.CTO 1).endDirectRead tag).command key = some c) :=
  ⟨⟨{ on with power := { on.power with on := false } }, by decide +kernel⟩,
  ⟨up, by decide +kernel⟩,
  ⟨State.reset, by decide +kernel⟩,
  ⟨on.onDirect fun d => { d with cableIn := true }, by decide +kernel⟩,
  ⟨(on.onDirect fun d => { d with cableIn := true, perstLow := false }).wr DPT_CTL.EN 1, 5, 4, by decide +kernel⟩,
  ⟨up, by decide +kernel⟩,
  ⟨up, 1, by decide +kernel⟩,
  ⟨up.wr (DPT_FSTAT.STATE 1) fnReset, 1, by decide +kernel⟩,
  ⟨up.onDirect fun d => { d with fn1 := { d.fn1 with flr := true } }, 1, by decide +kernel⟩,
  ⟨up.wr (DPT_FSTAT.STATE 1) fnQuiescing, 1, by decide +kernel⟩,
  ⟨upc, 1, 3, 8, ((upc.direct.tails.find? (·.1 == 1)).map (·.2)).getD 0, by decide +kernel, by decide +kernel, by decide +kernel, by decide +kernel, by decide +kernel, by decide +kernel, by decide +kernel, by decide +kernel, rfl⟩,
  ⟨upc.onDirect fun d => { d with reads := [rd0] }, 4, (((upc.onDirect fun d => { d with reads := [rd0] }).direct.reads.find? fun r => r.tag == 4 && r.sent)).get (by decide +kernel), by decide +kernel, (Option.some_get _).symm⟩,
  ⟨dr, 4, { rd0 with what := .data key1 0 }, key1, 0, ((((dr.count DPT_CTO.addr).wr DPT_EVT.CTO 1).endDirectRead 4).command key1).get (by decide +kernel), by decide +kernel, by decide +kernel, by decide +kernel, by decide +kernel, (Option.some_get _).symm⟩⟩
end DirectPortCommandsComplete

namespace HostIoCommandsComplete
def io : State := (adm.wrs [(MEAS_CTL.RUN, 1), (LTK_STAT.LEAD, 1), (VLT_STAT.STATE, 1), (VLT_CEIL.D, 1000)]).onStore fun t => { t with assembled := [0] }
def en1 : IoEntry := ⟨key1, 1, 0, none, [⟨0x1000, 16384, 5⟩]⟩
def rg : IoRange := ⟨⟨8, 4⟩, false, 0, 0, 0⟩
def cm (st : CmdStage) (k : IoKind) : HostCmd := { io.newCommand en1 k ns1 with stage := st, range := ⟨8, 4⟩ }
def cf (k : IoKind) : HostCmd :=
  { io.newCommand en1 k ns1 with range := rg.range, pract := rg.pract, prchk := rg.prchk, lbat := rg.lbat, lbatm := rg.lbatm, places := io.placesOf ns1 rg.range }
def wc (c : HostCmd) : State := io.onHost fun h => { h with commands := [c] }
def hc : HeldCopy := ⟨7, 0, 1, 8, 0, 0, 0, 0, 0, List.replicate 4096 1, false, 0, true, some 1000, true, none, true, true, true, none⟩
/-- Witnesses for `Obligations.HostIoCommandsComplete`: every clause's hypotheses hold together. -/
theorem witness_hostIoCommandsComplete :
    (∃ (s : State) (e : IoEntry) (r : IoRange) (ns : _) (c : IoKind → HostCmd) (buffer : _), s.running = true ∧ s.admission e = .ok ns ∧ r.range.first + r.range.count ≤ ns.blocks ∧ (∀ k, c k = { s.newCommand e k ns with range := r.range, pract := r.pract, prchk := r.prchk, lbat := r.lbat, lbatm := r.lbatm, places := s.placesOf ns r.range }) ∧ r.range.count ≤ 512 ∧ (s.reservationNow ns).conflicts (s.hostOf e.key.ctrl) true = false ∧ s.dataHolds e .write buffer (r.range.count * transferBytes ns r.pract) = true) ∧
    (∃ (s : State) (e : IoEntry) (r : IoRange) (ns : _) (c : IoKind → HostCmd), s.running = true ∧ s.admission e = .ok ns ∧ r.range.first + r.range.count ≤ ns.blocks ∧ (∀ k, c k = { s.newCommand e k ns with range := r.range, pract := r.pract, prchk := r.prchk, lbat := r.lbat, lbatm := r.lbatm, places := s.placesOf ns r.range }) ∧ r.range.count ≤ 512 ∧ (s.reservationNow ns).conflicts (s.hostOf e.key.ctrl) false = false ∧ s.dataHolds e .read .remote (r.range.count * transferBytes ns r.pract) = true) ∧
    (∃ (s : State) (e : IoEntry) (r : IoRange) (ns : _) (c : IoKind → HostCmd) (buffer : _), s.running = true ∧ s.admission e = .ok ns ∧ r.range.first + r.range.count ≤ ns.blocks ∧ (∀ k, c k = { s.newCommand e k ns with range := r.range, pract := r.pract, prchk := r.prchk, lbat := r.lbat, lbatm := r.lbatm, places := s.placesOf ns r.range }) ∧ r.range.count ≤ 512 ∧ (s.reservationNow ns).conflicts (s.hostOf e.key.ctrl) false = false ∧ s.dataHolds e .compare buffer (r.range.count * transferBytes ns r.pract) = true) ∧
    (∃ (s : State) (e : IoEntry) (r : IoRange) (ns : _) (c : IoKind → HostCmd), s.running = true ∧ s.admission e = .ok ns ∧ r.range.first + r.range.count ≤ ns.blocks ∧ (∀ k, c k = { s.newCommand e k ns with range := r.range, pract := r.pract, prchk := r.prchk, lbat := r.lbat, lbatm := r.lbatm, places := s.placesOf ns r.range }) ∧ r.range.count ≤ 65536 ∧ (s.reservationNow ns).conflicts (s.hostOf e.key.ctrl) true = false) ∧
    (∃ (s : State) (e : IoEntry) (r : IoRange) (ns : _) (c : IoKind → HostCmd), s.running = true ∧ s.admission e = .ok ns ∧ r.range.first + r.range.count ≤ ns.blocks ∧ (∀ k, c k = { s.newCommand e k ns with range := r.range, pract := r.pract, prchk := r.prchk, lbat := r.lbat, lbatm := r.lbatm, places := s.placesOf ns r.range }) ∧ r.range.count ≤ 65536 ∧ (s.reservationNow ns).conflicts (s.hostOf e.key.ctrl) false = false) ∧
    (∃ (s : State) (e : IoEntry) (ns : _) (ranges : List BlockRange) (deallocate : _), s.running = true ∧ s.admission e = .ok ns ∧ ranges.length ≤ 256 ∧ (deallocate = true → ranges.any (fun r => decide (ns.blocks < r.first + r.count)) = false ∧ (s.reservationNow ns).conflicts (s.hostOf e.key.ctrl) true = false)) ∧
    (∃ (s : State) (e : IoEntry) (ns : _) (sources : List BlockRange) (dest : _) (total : _), s.running = true ∧ s.admission e = .ok ns ∧ total = (⟨dest, (sources.map BlockRange.count).foldl (· + ·) 0⟩ : BlockRange) ∧ copyWithinLimits sources = true ∧ (sources.any (fun r => rangesMeet r total) = false) ∧ ((total :: sources).any (fun r => decide (ns.blocks < r.first + r.count)) = false) ∧ (s.reservationNow ns).conflicts (s.hostOf e.key.ctrl) true = false ∧ (s.reservationNow ns).conflicts (s.hostOf e.key.ctrl) false = false) ∧
    (∃ (s : State) (e : IoEntry) (ns : _), s.running = true ∧ s.admission e = .ok ns ∧ e.nsid ≠ 0xFFFFFFFF) ∧
    (∃ (s : State) (e : IoEntry) (ns : _), s.running = true ∧ s.admission e = .ok ns) ∧
    (∃ (s : State) (e : IoEntry) (ns : _) (rest : _), s.running = true ∧ e.nsid = 0xFFFFFFFF ∧ ((s.host.namespaces.filter fun n => !n.deleted && n.attached.contains e.key.ctrl && s.leads n.group) = ns :: rest) ∧ s.admission { e with nsid := ns.nsid } = .ok ns) ∧
    (∃ (s : State) (e : IoEntry), s.running = true ∧ e.key.qid ≠ 0) ∧
    (∃ (s : State) (key : _) (c : HostCmd), s.running = true ∧ s.command key = some c ∧ c.stage = .slot ∧ s.slotsTaken < 262144 ∧ ((s.host.commands.any fun d => d.stage == .slot && d.order < c.order && d.key.ctrl == c.key.ctrl && d.key.qid == c.key.qid) = false)) ∧
    (∃ (s : State) (key : _) (c : HostCmd), s.running = true ∧ s.command key = some c ∧ c.stage = .lock ∧ s.lockFree c = true ∧ s.moveHolds c = false ∧ s.vaultHolds c = false) ∧
    (∃ (s : State) (key : _) (c : HostCmd) (ns : _) (u : _), s.running = true ∧ s.command key = some c ∧ s.namespace c.nsid = some ns ∧ c.stage = .room ∧ s.roomTurn c = true ∧ s.roomFits c.writeBack c.range.count = true ∧ (u = ((s.count VLT_ROOM_WAIT_NS.addr (s.now - c.since)).onCommand key fun c => { c with stage := .fetch, room := c.range.count }).showRoomWait) ∧ c.kind = .copy) ∧
    (∃ (s : State) (key : _) (c : HostCmd) (ns : _) (u : _), s.running = true ∧ s.command key = some c ∧ s.namespace c.nsid = some ns ∧ c.stage = .room ∧ s.roomTurn c = true ∧ s.roomFits c.writeBack c.range.count = true ∧ (u = ((s.count VLT_ROOM_WAIT_NS.addr (s.now - c.since)).onCommand key fun c => { c with stage := .fetch, room := c.range.count }).showRoomWait) ∧ c.kind ≠ .copy) ∧
    (∃ (s : State) (key : _) (c : HostCmd) (ns : _) (ready : _) (u : _), s.running = true ∧ s.command key = some c ∧ s.namespace c.nsid = some ns ∧ (ready = c.awaits.filterMap (fun (i, id) => ((getBy HeldCopy.id id s.store.copies).filter (·.durable)).map fun h => (i, h))) ∧ (u = s.onCommand key (fun c => { c with awaits := c.awaits.filter fun a => !(ready.any (·.1 == a.1)), got := ready.map (fun (i, h) => (i, s.copyPlain ns h)) ++ c.got }))) ∧
    (∃ (s : State) (ctrl : _) (c : Controller), s.running = true ∧ s.controller ctrl = some c) ∧
    (∃ (s : State) (ctrl : _) (c : Controller), s.running = true ∧ s.controller ctrl = some c ∧ c.kato ≠ 0 ∧ c.kaAt + c.kato * 10 ^ 6 ≤ s.now) ∧
    (∃ (s : State) (ctrl : _) (c : Controller), s.running = true ∧ s.controller ctrl = some c ∧ c.shst = 1 ∧ ((s.host.commands.any fun h => h.key.ctrl == ctrl) = false)) :=
  ⟨⟨io, en1, rg, ns1, cf, .remote, by decide +kernel, (okEq (by decide +kernel)), by decide +kernel, fun _ => rfl, by decide +kernel⟩,
  ⟨io, en1, rg, ns1, cf, by decide +kernel, (okEq (by decide +kernel)), by decide +kernel, fun _ => rfl, by decide +kernel⟩,
  ⟨io, en1, rg, ns1, cf, .remote, by decide +kernel, (okEq (by decide +kernel)), by decide +kernel, fun _ => rfl, by decide +kernel⟩,
  ⟨io, en1, rg, ns1, cf, by decide +kernel, (okEq (by decide +kernel)), by decide +kernel, fun _ => rfl, by decide +kernel⟩,
  ⟨io, en1, rg, ns1, cf, by decide +kernel, (okEq (by decide +kernel)), by decide +kernel, fun _ => rfl, by decide +kernel⟩,
  ⟨io, en1, ns1, [⟨8, 4⟩], true, by decide +kernel, (okEq (by decide +kernel)), by decide +kernel⟩,
  ⟨io, en1, ns1, [⟨8, 4⟩], 100, _, by decide +kernel, (okEq (by decide +kernel)), rfl, by decide +kernel⟩,
  ⟨io, en1, ns1, by decide +kernel, (okEq (by decide +kernel)), by decide +kernel⟩,
  ⟨io, en1, ns1, by decide +kernel, (okEq (by decide +kernel))⟩,
  ⟨io, { en1 with nsid := 0xFFFFFFFF }, ns1, [], by decide +kernel, by decide +kernel, by decide +kernel, (okEq (by decide +kernel))⟩,
  ⟨io, en1, by decide +kernel⟩,
  ⟨wc (cm .slot .write), key1, ((wc (cm .slot .write)).command key1).get (by decide +kernel), by decide +kernel, (Option.some_get _).symm, by decide +kernel⟩,
  ⟨wc (cm .lock .write), key1, ((wc (cm .lock .write)).command key1).get (by decide +kernel), by decide +kernel, (Option.some_get _).symm, by decide +kernel⟩,
  ⟨wc (cm .room .copy), key1, ((wc (cm .room .copy)).command key1).get (by decide +kernel), ns1, (((wc (cm .room .copy)).count VLT_ROOM_WAIT_NS.addr ((wc (cm .room .copy)).now - (((wc (cm .room .copy)).command key1).get (by decide +kernel)).since)).onCommand key1 fun z20 => { z20 with stage := .fetch, room := z20.range.count }).showRoomWait, by decide +kernel, (Option.some_get _).symm, by decide +kernel, by decide +kernel, by decide +kernel, by decide +kernel, rfl, by decide +kernel⟩,
  ⟨wc (cm .room .write), key1, ((wc (cm .room .write)).command key1).get (by decide +kernel), ns1, (((wc (cm .room .write)).count VLT_ROOM_WAIT_NS.addr ((wc (cm .room .write)).now - (((wc (cm .room .write)).command key1).get (by decide +kernel)).since)).onCommand key1 fun z22 => { z22 with stage := .fetch, room := z22.range.count }).showRoomWait, by decide +kernel, (Option.some_get _).symm, by decide +kernel, by decide +kernel, by decide +kernel, by decide +kernel, rfl, by decide +kernel⟩,
  ⟨(wc { cm .move .read with awaits := [(0, 7)] }).onStore fun t => { t with copies := [hc] }, key1, (((wc { cm .move .read with awaits := [(0, 7)] }).onStore fun t => { t with copies := [hc] }).command key1).get (by decide +kernel), ns1, ((((wc { cm .move .read with awaits := [(0, 7)] }).onStore fun t => { t with copies := [hc] }).command key1).get (by decide +kernel)).awaits.filterMap (fun (i, id) => ((getBy HeldCopy.id id ((wc { cm .move .read with awaits := [(0, 7)] }).onStore fun t => { t with copies := [hc] }).store.copies).filter (·.durable)).map fun h => (i, h)), ((wc { cm .move .read with awaits := [(0, 7)] }).onStore fun t => { t with copies := [hc] }).onCommand key1 (fun z24 => { z24 with awaits := z24.awaits.filter fun a => !((((((wc { cm .move .read with awaits := [(0, 7)] }).onStore fun t => { t with copies := [hc] }).command key1).get (by decide +kernel)).awaits.filterMap (fun (i, id) => ((getBy HeldCopy.id id ((wc { cm .move .read with awaits := [(0, 7)] }).onStore fun t => { t with copies := [hc] }).store.copies).filter (·.durable)).map fun h => (i, h))).any (·.1 == a.1)), got := (((((wc { cm .move .read with awaits := [(0, 7)] }).onStore fun t => { t with copies := [hc] }).command key1).get (by decide +kernel)).awaits.filterMap (fun (i, id) => ((getBy HeldCopy.id id ((wc { cm .move .read with awaits := [(0, 7)] }).onStore fun t => { t with copies := [hc] }).store.copies).filter (·.durable)).map fun h => (i, h))).map (fun (i, h) => (i, ((wc { cm .move .read with awaits := [(0, 7)] }).onStore fun t => { t with copies := [hc] }).copyPlain ns1 h)) ++ z24.got }), by decide +kernel, (Option.some_get _).symm, by decide +kernel, rfl, rfl⟩,
  ⟨io, 1, (io.controller 1).get (by decide +kernel), by decide +kernel, (Option.some_get _).symm⟩,
  ⟨io.onController 1 fun c => { c with kato := 100 }, 1, ((io.onController 1 fun c => { c with kato := 100 }).controller 1).get (by decide +kernel), by decide +kernel, (Option.some_get _).symm, by decide +kernel⟩,
  ⟨io.onController 1 fun c => { c with shst := 1 }, 1, ((io.onController 1 fun c => { c with shst := 1 }).controller 1).get (by decide +kernel), by decide +kernel, (Option.some_get _).symm, by decide +kernel⟩⟩
end HostIoCommandsComplete

namespace RdmaPacketCommandsComplete
def q0 (st : Nat) : QueuePair := (((((QueuePair.blank 0).set Ctx.STATE st).set Ctx.LQPN 0).set Ctx.NPSN 3).set Ctx.RQ_DEPTH 32).set Ctx.RQ_POSTED 32
def rq (st : Nat) : State := on.onRdma fun r => { r with qps := [q0 st], cache := [⟨0, false⟩] }
def rr : State := rq qpReady
def hitS (t : State) : State := (t.count QPC_HIT.addr).event 0x10 (pipelineOf 0)
/-- Witnesses for `Obligations.RdmaPacketCommandsComplete`: every clause's hypotheses hold together. -/
theorem witness_rdmaPacketCommandsComplete :
    (∃ (s : State) (u : State) (qpn : _) (idx : _) (hit : State → State), s.running = true ∧ idx = qpnIndex qpn ∧ s.qpnInUse qpn = true ∧ s.lookup (s.pipeline false (pipelineOf idx)) idx = .hit ∧ u = s.touchContext idx ∧ (∀ t : State, hit t = (t.count QPC_HIT.addr).event 0x10 (pipelineOf idx))) ∧
    (∃ (s : State) (u : State) (qpn : _) (idx : _) (hit : State → State) (psn : _), s.running = true ∧ idx = qpnIndex qpn ∧ s.qpnInUse qpn = true ∧ s.lookup (s.pipeline false (pipelineOf idx)) idx = .hit ∧ u = s.touchContext idx ∧ (∀ t : State, hit t = (t.count QPC_HIT.addr).event 0x10 (pipelineOf idx)) ∧ s.ackValid idx psn = true) ∧
    (∃ (s : State), s.running = true) ∧
    (∃ (s : State) (u : State) (idx : _) (hit : State → State), s.running = true ∧ s.lookup (s.pipeline true (pipelineOf idx)) idx = .hit ∧ u = s.touchContext idx ∧ (∀ t : State, hit t = (t.count QPC_HIT.addr).event 0x10 (pipelineOf idx)) ∧ s.qpSends idx = true ∧ s.ctx idx Ctx.UNA_PSN ≠ s.ctx idx Ctx.NPSN) ∧
    (∃ (s : State) (u : State) (idx : _) (hit : State → State), s.running = true ∧ s.lookup (s.pipeline true (pipelineOf idx)) idx = .hit ∧ u = s.touchContext idx ∧ (∀ t : State, hit t = (t.count QPC_HIT.addr).event 0x10 (pipelineOf idx)) ∧ s.rdma.rnrTimers.contains idx = true) ∧
    (∃ (s : State) (u : State) (idx : _) (hit : State → State), s.running = true ∧ s.lookup (s.pipeline true (pipelineOf idx)) idx = .hit ∧ u = s.touchContext idx ∧ (∀ t : State, hit t = (t.count QPC_HIT.addr).event 0x10 (pipelineOf idx)) ∧ s.rdma.stepTimers.contains idx = true) ∧
    (∃ (s : State) (u : State) (idx : _) (hit : State → State) (who : _) (tail : _), s.running = true ∧ s.lookup (s.pipeline true (pipelineOf idx)) idx = .hit ∧ u = s.touchContext idx ∧ (∀ t : State, hit t = (t.count QPC_HIT.addr).event 0x10 (pipelineOf idx)) ∧ idx < 2 ^ 17 ∧ tail < 2 ^ 15 ∧ s.Opens who QPC_DB.addr ∧ s.ctx idx Ctx.OWNER = ownerOf who) ∧
    (∃ (s : State) (who : _) (idx : _) (tail : _), s.running = true ∧ idx < 2 ^ 17 ∧ tail < 2 ^ 15 ∧ s.Opens who QPC_DB.addr ∧ s.ctx idx Ctx.OWNER ≠ ownerOf who) :=
  ⟨⟨rr, _, (q0 qpReady).get Ctx.LQPN, 0, hitS, by decide +kernel, by decide +kernel, by decide +kernel, by decide +kernel, rfl, fun _ => rfl⟩,
  ⟨rr, _, (q0 qpReady).get Ctx.LQPN, 0, hitS, 0, by decide +kernel, by decide +kernel, by decide +kernel, by decide +kernel, rfl, fun _ => rfl, by decide +kernel⟩,
  ⟨rr, by decide +kernel⟩,
  ⟨rr, _, 0, hitS, by decide +kernel, by decide +kernel, rfl, fun _ => rfl, by decide +kernel⟩,
  ⟨rr.onRdma fun r => { r with rnrTimers := [0] }, _, 0, hitS, by decide +kernel, by decide +kernel, rfl, fun _ => rfl, by decide +kernel⟩,
  ⟨rr.onRdma fun r => { r with stepTimers := [0] }, _, 0, hitS, by decide +kernel, by decide +kernel, rfl, fun _ => rfl, by decide +kernel⟩,
  ⟨rr, _, 0, hitS, Requester.ronhenko, 0, by decide +kernel, by decide +kernel, rfl, fun _ => rfl, by decide +kernel, by decide +kernel, (opens_of (by decide +kernel)), by decide +kernel⟩,
  ⟨rr, .partition 0, 0, 0, by decide +kernel, by decide +kernel, by decide +kernel, (opens_of (by decide +kernel)), by decide +kernel⟩⟩
end RdmaPacketCommandsComplete

namespace QueuePairCommandsComplete
def q0 (st : Nat) : QueuePair := (((((QueuePair.blank 0).set Ctx.STATE st).set Ctx.LQPN 0).set Ctx.NPSN 3).set Ctx.RQ_DEPTH 32).set Ctx.RQ_POSTED 32
def rq (st : Nat) : State := on.onRdma fun r => { r with qps := [q0 st], cache := [⟨0, false⟩] }
def rr : State := rq qpReady
def pp : Pipeline := { (on.pipeline true 0) with fill := some 0, evict := [5] }
def rd1 (t : Option Nat) : ReadRequest := ⟨0, 3, .memory 0x80000000, 2048, 0, 0, 2, 5, t, [0, 1]⟩
def wk : Work := ⟨0, 3, 3, true, 9, 2048, 5, 2, 0⟩
def cr : ConnectRequest := ⟨0, 1, 32, 32, 3, 4, 7, 1, 2, 0, 0, 4420, false, 1, 2, 3, 4, 0, 0, 5⟩
/-- Witnesses for `Obligations.QueuePairCommandsComplete`: every clause's hypotheses hold together. -/
theorem witness_queuePairCommandsComplete :
    (∃ (s : State) (c : ConnectRequest) (q : _), s.running = true ∧ c.tcpPort = s.rd QPC_CTL.SVC_PORT ∧ s.connectionRefused c = none ∧ q = s.connectionContext c (s.freeContext.getD 0)) ∧
    (∃ (s : State) (c : ConnectRequest) (st : _), s.running = true ∧ c.tcpPort = s.rd QPC_CTL.SVC_PORT ∧ s.connectionRefused c = some st) ∧
    (∃ (s : State) (c : ConnectRequest), s.running = true ∧ c.tcpPort ≠ s.rd QPC_CTL.SVC_PORT) ∧
    (∃ (s : State) (idx : _), s.running = true ∧ s.ctx idx Ctx.STATE = qpConnecting) ∧
    (∃ (s : State) (idx : _), s.running = true ∧ s.ctx idx Ctx.STATE = qpReady ∧ ((s.qp idx).bound = false ∨ s.ctx idx Ctx.SVC = 1 ∨ s.ctx idx Ctx.QID ≠ 0)) ∧
    (∃ (s : State) (idx : _), s.running = true ∧ s.ctx idx Ctx.STATE = qpReady ∧ (s.qp idx).bound = true ∧ s.ctx idx Ctx.SVC = 0 ∧ s.ctx idx Ctx.QID = 0) ∧
    (∃ (s : State) (idx : _), s.running = true ∧ s.queueBusy idx = false ∧ s.ctx idx Ctx.STATE = qpError) ∧
    (∃ (s : State) (idx : _), s.running = true ∧ s.queueBusy idx = false ∧ s.ctx idx Ctx.STATE = qpDraining ∧ s.holdsCells idx = false) ∧
    (∃ (s : State) (tx : _) (pipe : _) (idx : _) (u : _) (p : _), s.running = true ∧ p = s.pipeline tx pipe ∧ p.fill = some idx ∧ ((s.victim idx).any (·.dirty) = false ∨ p.evict.length < 2) ∧ (u = (s.installContext { p with fill := none, parked := [], stalled := [] } idx).each p.parked (fun i s => s.serveItem idx i))) ∧
    (∃ (s : State) (tx : _) (pipe : _) (idx : _), s.running = true ∧ idx ∈ (s.pipeline tx pipe).evict) ∧
    (∃ (s : State) (tracker : _) (r : _), s.running = true ∧ s.rdma.reads.find? (·.tracker == some tracker) = some r ∧ r.packets ≤ r.map.length) ∧
    (∃ (s : State) (idx : _), s.running = true ∧ s.readsWait idx = true ∧ s.lookup (s.pipeline true (pipelineOf idx)) idx = .hit) ∧
    (∃ (s : State) (idx : _) (w : _), s.running = true ∧ s.rdma.works.find? (·.qp == idx) = some w ∧ s.workDone w = true) ∧
    (∃ (s : State) (idx : _) (r : _) (t : _), s.running = true ∧ ((s.rdma.reads.find? fun r => r.qp == idx && r.tracker.isNone) = some r) ∧ s.freeTracker = some t ∧ s.ctx idx Ctx.STATE = qpReady ∧ s.ctx idx Ctx.RD_OUT < s.ctx idx Ctx.ORD) ∧
    (∃ (s : State) (who : _) (idx : _) (image : _), s.running = true ∧ s.Opens who QPC_CMD.addr ∧ s.flag QPC_CMD.BUSY = false ∧ idx = s.rd QPC_CMD_IDX.IDX ∧ image = ({ QueuePair.blank idx with img := BitVec.ofNat 4096 (s.loadNat (s.rd64 QPC_CMD_ADDR.addr) 512) } : QueuePair) ∧ s.ctx idx Ctx.STATE = qpFree ∧ (∀ p, who = .partition p → s.contextsOwned (p + 1) < s.partQueuePairs p) ∧ Machine.imageGood image = true) ∧
    (∃ (s : State) (who : _) (idx : _), s.running = true ∧ s.Opens who QPC_CMD.addr ∧ s.flag QPC_CMD.BUSY = false ∧ idx = s.rd QPC_CMD_IDX.IDX ∧ (ownerOf who = 0 ∨ s.ctx idx Ctx.OWNER = ownerOf who)) ∧
    (∃ (s : State) (who : _) (idx : _), s.running = true ∧ s.Opens who QPC_CMD.addr ∧ s.flag QPC_CMD.BUSY = false ∧ idx = s.rd QPC_CMD_IDX.IDX ∧ (ownerOf who = 0 ∨ s.ctx idx Ctx.OWNER = ownerOf who) ∧ s.ctx idx Ctx.STATE = qpReady) ∧
    (∃ (s : State) (who : _) (idx : _), s.running = true ∧ s.Opens who QPC_CMD.addr ∧ s.flag QPC_CMD.BUSY = false ∧ idx = s.rd QPC_CMD_IDX.IDX ∧ (ownerOf who = 0 ∨ s.ctx idx Ctx.OWNER = ownerOf who) ∧ s.ctx idx Ctx.STATE = qpReady ∧ ((s.qp idx).bound = false ∨ s.ctx idx Ctx.SVC = 1 ∨ s.ctx idx Ctx.QID ≠ 0)) ∧
    (∃ (s : State) (who : _) (idx : _), s.running = true ∧ s.Opens who QPC_CMD.addr ∧ s.flag QPC_CMD.BUSY = false ∧ idx = s.rd QPC_CMD_IDX.IDX ∧ (ownerOf who = 0 ∨ s.ctx idx Ctx.OWNER = ownerOf who) ∧ s.ctx idx Ctx.STATE ≠ qpFree ∧ (s.ctx idx Ctx.PIN = 1 ∨ s.pinsOfSet idx < 4)) ∧
    (∃ (s : State) (who : _) (idx : _), s.running = true ∧ s.Opens who QPC_CMD.addr ∧ s.flag QPC_CMD.BUSY = false ∧ idx = s.rd QPC_CMD_IDX.IDX ∧ (ownerOf who = 0 ∨ s.ctx idx Ctx.OWNER = ownerOf who) ∧ s.ctx idx Ctx.STATE ≠ qpFree) :=
  ⟨⟨on.wr QPC_CTL.SVC_PORT 4420, cr, _, by decide +kernel, by decide +kernel, by decide +kernel, rfl⟩,
  ⟨on.wr QPC_CTL.SVC_PORT 4420, { cr with recfmt := 1 }, ((on.wr QPC_CTL.SVC_PORT 4420).connectionRefused { cr with recfmt := 1 }).get (by decide +kernel), by decide +kernel, by decide +kernel, (Option.some_get _).symm⟩,
  ⟨on, { cr with tcpPort := 1 }, by decide +kernel⟩,
  ⟨rq qpConnecting, 0, by decide +kernel⟩,
  ⟨rr, 0, by decide +kernel⟩,
  ⟨rr.onRdma fun r => { r with qps := [{ q0 qpReady with bound := true }] }, 0, by decide +kernel⟩,
  ⟨rq qpError, 0, by decide +kernel⟩,
  ⟨rq 4, 0, by decide +kernel⟩,
  ⟨rr.putPipeline pp, true, 0, 0, _, pp, by decide +kernel, by decide +kernel, by decide +kernel, by decide +kernel, rfl⟩,
  ⟨rr.putPipeline pp, true, 0, 5, by decide +kernel⟩,
  ⟨rr.onRdma fun r => { r with reads := [rd1 (some 0)], works := [{ wk with reads := 1 }] }, 0, ((rr.onRdma fun r => { r with reads := [rd1 (some 0)], works := [{ wk with reads := 1 }] }).rdma.reads.find? (·.tracker == some 0)).get (by decide +kernel), by decide +kernel, (Option.some_get _).symm, by decide +kernel⟩,
  ⟨(rr.setCtx 0 Ctx.ORD 4).onRdma fun r => { r with reads := [rd1 none] }, 0, by decide +kernel⟩,
  ⟨rr.onRdma fun r => { r with works := [wk] }, 0, ((rr.onRdma fun r => { r with works := [wk] }).rdma.works.find? (·.qp == 0)).get (by decide +kernel), by decide +kernel, (Option.some_get _).symm, by decide +kernel⟩,
  ⟨(rr.setCtx 0 Ctx.ORD 4).onRdma fun r => { r with reads := [rd1 none] }, 0, ((((rr.setCtx 0 Ctx.ORD 4).onRdma fun r => { r with reads := [rd1 none] }).rdma.reads.find? fun r => r.qp == 0 && r.tracker.isNone)).get (by decide +kernel), (((rr.setCtx 0 Ctx.ORD 4).onRdma fun r => { r with reads := [rd1 none] }).freeTracker).get (by decide +kernel), by decide +kernel, (Option.some_get _).symm, (Option.some_get _).symm, by decide +kernel⟩,
  ⟨(on.setReg QPC_CMD_ADDR.addr 0x1000).storeBytes 0x1000 (leBytes 512 ((((QueuePair.blank 0).set Ctx.PMTU 3).set Ctx.SQ_SIZE 64).set Ctx.ORD 4).img.toNat), Requester.ronhenko, 0, ({ QueuePair.blank 0 with img := BitVec.ofNat 4096 (((on.setReg QPC_CMD_ADDR.addr 0x1000).storeBytes 0x1000 (leBytes 512 ((((QueuePair.blank 0).set Ctx.PMTU 3).set Ctx.SQ_SIZE 64).set Ctx.ORD 4).img.toNat)).loadNat (((on.setReg QPC_CMD_ADDR.addr 0x1000).storeBytes 0x1000 (leBytes 512 ((((QueuePair.blank 0).set Ctx.PMTU 3).set Ctx.SQ_SIZE 64).set Ctx.ORD 4).img.toNat)).rd64 QPC_CMD_ADDR.addr) 512) } : QueuePair), by decide +kernel, (opens_of (by decide +kernel)), by decide +kernel, by decide +kernel, rfl, by decide +kernel, (fun _ h => nomatch h), by decide +kernel⟩,
  ⟨rr, Requester.ronhenko, 0, by decide +kernel, (opens_of (by decide +kernel)), by decide +kernel⟩,
  ⟨rr, Requester.ronhenko, 0, by decide +kernel, (opens_of (by decide +kernel)), by decide +kernel⟩,
  ⟨rr, Requester.ronhenko, 0, by decide +kernel, (opens_of (by decide +kernel)), by decide +kernel⟩,
  ⟨rr, Requester.ronhenko, 0, by decide +kernel, (opens_of (by decide +kernel)), by decide +kernel⟩,
  ⟨rr, Requester.ronhenko, 0, by decide +kernel, (opens_of (by decide +kernel)), by decide +kernel⟩⟩
end QueuePairCommandsComplete

namespace AdminCommandsComplete
def ent : Bytes := leBytes 2 1 ++ leBytes 2 8 ++ leBytes 16 77 ++ List.replicate 64 7 ++ leBytes 256 0x41
def msk : Bytes := List.replicate 512 255
def ad : State := { (adm.wr MEAS_CTL.RUN 1).onController 1 (fun c => { c with hostNqn := [0x41] }) with two := { adm.two with objects := [⟨2, 3, ent, 1⟩, ⟨3, 1, msk, 1⟩] } }
def ctl2 : Controller := { ctl1 with hostNqn := [0x41] }
def adA (n : Nat) : State := ad.onRdma fun r => { r with qps := [{ QueuePair.blank 6 with auth := n }] }
def qs : State := ad.onRdma fun r => { r with qps := [((QueuePair.blank 0).set Ctx.STATE qpReady).set Ctx.RQ_DEPTH 32] }
def cc0 : ConnectCapsule := ⟨0, 0, 31, 1000, 0xFFFF, [0x41], 77⟩
def cc1 : ConnectCapsule := { cc0 with qid := 1, cntlid := 1 }
def q1 : State := (qs.setCtx 0 Ctx.QID 1).onController 1 fun x => { x with queues := [(0, 5)], features := [(7, 65537)] }
def ea : AdminEntry := ⟨key1, none, []⟩
def neg : Bytes := [0, 0, 0, 0, 0, 0, 0, 1, 1, 0, 1, 1, 1] ++ List.replicate 59 0
/-- Witnesses for `Obligations.AdminCommandsComplete`: every clause's hypotheses hold together. -/
theorem witness_adminCommandsComplete (chap : ∀ k m, Config.chapVerifies k m = true) :
    (∃ (s : State) (u : State) (e : AdminEntry) (c : _) (nsid : _) (lid : _) (offset : _) (length : _) (page : _) (t : _), s.running = true ∧ s.AdminOpen e.key true c ∧ u = s.enterAdmin e ∧ offset % 4 = 0 ∧ length % 4 = 0 ∧ u.logPage c nsid lid = .ok (page, t)) ∧
    (∃ (s : State) (u : State) (e : AdminEntry) (c : _) (cns : _) (nsid : _) (cntid : _) (d : _), s.running = true ∧ s.AdminOpen e.key true c ∧ u = s.enterAdmin e ∧ u.identify c cns nsid cntid = .ok d) ∧
    (∃ (s : State) (u : State) (e : AdminEntry) (c : _) (fid : _) (sel : _) (nsid : _), s.running = true ∧ s.AdminOpen e.key true c ∧ u = s.enterAdmin e ∧ featureKnown fid = true ∧ sel ≤ 3 ∧ (fid = 0xC0 ∨ fid = 0x82 → (s.namespace nsid).isSome = true) ∧ sel = 3) ∧
    (∃ (s : State) (u : State) (e : AdminEntry) (c : _) (fid : _) (sel : _) (nsid : _), s.running = true ∧ s.AdminOpen e.key true c ∧ u = s.enterAdmin e ∧ featureKnown fid = true ∧ sel ≤ 3 ∧ (fid = 0xC0 ∨ fid = 0x82 → (s.namespace nsid).isSome = true) ∧ sel ≠ 3 ∧ fid = 0x0E) ∧
    (∃ (s : State) (u : State) (e : AdminEntry) (c : _) (fid : _) (sel : _) (nsid : _), s.running = true ∧ s.AdminOpen e.key true c ∧ u = s.enterAdmin e ∧ featureKnown fid = true ∧ sel ≤ 3 ∧ (fid = 0xC0 ∨ fid = 0x82 → (s.namespace nsid).isSome = true) ∧ sel ≠ 3 ∧ fid = 0x81) ∧
    (∃ (s : State) (u : State) (e : AdminEntry) (c : _) (fid : _) (sel : _) (nsid : _), s.running = true ∧ s.AdminOpen e.key true c ∧ u = s.enterAdmin e ∧ featureKnown fid = true ∧ sel ≤ 3 ∧ (fid = 0xC0 ∨ fid = 0x82 → (s.namespace nsid).isSome = true) ∧ sel ≠ 3 ∧ fid ≠ 0x0E ∧ fid ≠ 0x81) ∧
    (∃ (s : State) (key : _) (c : _), s.running = true ∧ s.AdminOpen key true c) ∧
    (∃ (s : State) (key : _) (c : _), s.running = true ∧ s.AdminOpen key true c ∧ c.aers.length < 16) ∧
    (∃ (s : State) (u : State) (e : AdminEntry) (c : _) (nsid : _) (value : _) (v : _), s.running = true ∧ s.AdminOpen e.key false c ∧ u = s.enterAdmin e ∧ s.featureCheck 0x0B nsid value = .ok v) ∧
    (∃ (s : State) (u : State) (e : AdminEntry) (c : _) (nsid : _) (value : _) (v : _), s.running = true ∧ s.AdminOpen e.key false c ∧ u = s.enterAdmin e ∧ s.featureCheck 0x0F nsid value = .ok v) ∧
    (∃ (s : State) (u : State) (e : AdminEntry) (c : _) (fid : _) (nsid : _) (value : _) (v : _), s.running = true ∧ s.AdminOpen e.key false c ∧ u = s.enterAdmin e ∧ featureKnown fid = true ∧ fid ∉ [0x01, 0x0B, 0x0F, 0x81] ∧ s.featureCheck fid nsid value = .ok v) ∧
    (∃ (s : State) (u : State) (e : AdminEntry) (c : _) (lbaf : _) (g : _), s.running = true ∧ s.AdminOpen e.key false c ∧ u = s.enterAdmin e ∧ 1 ≤ g ∧ g ≤ 8 ∧ lbaf ≤ 2 ∧ s.leads (g - 1) = true) ∧
    (∃ (s : State) (u : State) (e : AdminEntry) (c : _) (nsid : _) (n : _) (ctrls : List Nat), s.running = true ∧ s.AdminOpen e.key false c ∧ u = s.enterAdmin e ∧ s.liveNamespace nsid = some n ∧ s.leads n.group = true ∧ ctrls ≠ [] ∧ (ctrls.all (fun c => (u.controller c).any (u.maskAdmits n.nsid) || u.maskAdmitsPeer n.nsid c) = true) ∧ ctrls.any n.attached.contains = false) ∧
    (∃ (s : State) (u : State) (e : AdminEntry) (c : _) (nsid : _) (n : _) (ctrls : List Nat), s.running = true ∧ s.AdminOpen e.key false c ∧ u = s.enterAdmin e ∧ s.liveNamespace nsid = some n ∧ s.leads n.group = true ∧ n.formatting = false ∧ ctrls ≠ [] ∧ ctrls.all n.attached.contains = true) ∧
    (∃ (s : State) (u : State) (e : AdminEntry) (c : _) (offset : _) (data : _) (l : _), s.running = true ∧ s.AdminOpen e.key false c ∧ u = s.enterAdmin e ∧ stagePiece s.admin.staging offset data = .ok l) ∧
    (∃ (s : State) (key : _) (c : _), s.running = true ∧ s.AdminOpen key false c) ∧
    (∃ (s : State) (key : _) (c : _) (e : IoEntry), s.running = true ∧ s.AdminOpen key false c ∧ e.key = key ∧ key.qid = 0) ∧
    (∃ (s : State) (key : _) (c : _) (nsid : _) (n : _), s.running = true ∧ s.AdminOpen key false c ∧ s.liveNamespace nsid = some n ∧ s.leads n.group = true ∧ n.formatting = false) ∧
    (∃ (s : State) (key : _) (c : _) (action : _), s.running = true ∧ s.AdminOpen key false c ∧ action ≠ 0) ∧
    (∃ (s : State) (key : _) (c : _) (slot : _) (st : _) (t : _), s.running = true ∧ s.AdminOpen key false c ∧ s.storeImage slot = (st, t)) ∧
    (∃ (s : State) (key : _) (c : _) (slot : _) (st : _) (t : _), s.running = true ∧ s.AdminOpen key false c ∧ s.storeImageNext slot = (st, t)) ∧
    (∃ (s : State) (key : _) (c : _) (slot : _) (st : _) (t : _), s.running = true ∧ s.AdminOpen key false c ∧ s.markImage slot = (st, t)) ∧
    (∃ (s : State) (key : _) (c : _) (slot : _) (st : _) (t : _), s.running = true ∧ s.AdminOpen key false c ∧ s.commitActivate slot = (st, t)) ∧
    (∃ (s : State) (key : _), s.running = true ∧ s.admin.forwards.any (·.key == key) = true) ∧
    (∃ (s : State), s.running = true ∧ s.admin.trial = true ∧ s.trialOver = true) ∧
    (∃ (s : State), s.running = true ∧ s.admin.trial = true ∧ 120 * 10 ^ 9 ≤ s.now) ∧
    (∃ (s : State) (qp : _) (c : ConnectCapsule) (auth : _) (id : _), s.running = true ∧ (s.qp qp).bound = false ∧ s.ctx qp Ctx.STATE = qpReady ∧ s.sanitizeStatus false = none ∧ auth = (if (s.chapKey c.hostNqn c.hostId).isSome then 1 else 0) ∧ s.connectCheck qp c = .ok none ∧ id = s.freeCntlid.getD 0) ∧
    (∃ (s : State) (qp : _) (c : ConnectCapsule) (auth : _) (old : _), s.running = true ∧ (s.qp qp).bound = false ∧ s.ctx qp Ctx.STATE = qpReady ∧ s.sanitizeStatus false = none ∧ auth = (if (s.chapKey c.hostNqn c.hostId).isSome then 1 else 0) ∧ s.connectCheck qp c = .ok (some old)) ∧
    (∃ (s : State) (qp : _) (c : ConnectCapsule) (auth : _) (st : _), s.running = true ∧ (s.qp qp).bound = false ∧ s.ctx qp Ctx.STATE = qpReady ∧ s.sanitizeStatus false = none ∧ auth = (if (s.chapKey c.hostNqn c.hostId).isSome then 1 else 0) ∧ s.connectCheck qp c = .error st) ∧
    (∃ (s : State) (key : _) (c : Controller), s.running = true ∧ s.controller key.ctrl = some c ∧ c.direct = false ∧ s.sanitizeStatus false = none ∧ s.authDue key = false) ∧
    (∃ (s : State) (key : _) (c : Controller) (e : AdminEntry) (u : _) (k : _) (q : _) (m : Bytes), s.running = true ∧ s.controller key.ctrl = some c ∧ c.direct = false ∧ s.sanitizeStatus false = none ∧ e.key = key ∧ u = s.enterAdmin e ∧ s.chapKey c.hostNqn c.hostId = some k ∧ s.queuePairOf key.ctrl key.qid = some q ∧ numAt m 1 1 = 0 ∧ negotiable m = true) ∧
    (∃ (s : State) (key : _) (c : Controller) (e : AdminEntry) (u : _) (k : _) (q : _) (m : Bytes) (n : _), s.running = true ∧ s.controller key.ctrl = some c ∧ c.direct = false ∧ s.sanitizeStatus false = none ∧ e.key = key ∧ u = s.enterAdmin e ∧ s.chapKey c.hostNqn c.hostId = some k ∧ s.queuePairOf key.ctrl key.qid = some q ∧ numAt m 1 1 = 2 ∧ (s.qp q).auth = 3 ∧ Config.chapVerifies k m = true ∧ n = (if numAt m 8 1 = 1 then 6 else 4)) ∧
    (∃ (s : State) (key : _) (c : Controller) (e : AdminEntry) (u : _) (k : _) (q : _) (m : Bytes), s.running = true ∧ s.controller key.ctrl = some c ∧ c.direct = false ∧ s.sanitizeStatus false = none ∧ e.key = key ∧ u = s.enterAdmin e ∧ s.chapKey c.hostNqn c.hostId = some k ∧ s.queuePairOf key.ctrl key.qid = some q ∧ numAt m 1 1 = 4 ∧ (s.qp q).auth = 5) ∧
    (∃ (s : State) (key : _) (c : Controller) (e : AdminEntry) (u : _) (k : _) (q : _) (n : _) (step : _), s.running = true ∧ s.controller key.ctrl = some c ∧ c.direct = false ∧ s.sanitizeStatus false = none ∧ e.key = key ∧ u = s.enterAdmin e ∧ s.chapKey c.hostNqn c.hostId = some k ∧ s.queuePairOf key.ctrl key.qid = some q ∧ step = (s.qp q).auth ∧ (step = 2 ∧ n = 3 ∨ step = 4 ∧ n = 0 ∨ step = 6 ∧ n = 5)) :=
  ⟨⟨ad, ad.enterAdmin ea, ea, ctl2, 1, 1, 0, 64, (okOf ((ad.enterAdmin ea).logPage ctl2 1 1) (by decide +kernel)).1, (okOf ((ad.enterAdmin ea).logPage ctl2 1 1) (by decide +kernel)).2, by decide +kernel, ⟨by decide +kernel, by decide +kernel, by decide +kernel, by decide +kernel, by decide +kernel⟩, rfl, by decide +kernel, by decide +kernel, (okOf_eq _ (by decide +kernel))⟩,
  ⟨ad, ad.enterAdmin ea, ea, ctl2, 1, 1, 0, okOf ((ad.enterAdmin ea).identify ctl2 1 1 0) (by decide +kernel), by decide +kernel, ⟨by decide +kernel, by decide +kernel, by decide +kernel, by decide +kernel, by decide +kernel⟩, rfl, (okOf_eq _ (by decide +kernel))⟩,
  ⟨ad, _, ea, ctl2, 0x04, 3, 1, by decide +kernel, ⟨by decide +kernel, by decide +kernel, by decide +kernel, by decide +kernel, by decide +kernel⟩, rfl, by decide +kernel⟩,
  ⟨ad, _, ea, ctl2, 0x0E, 0, 1, by decide +kernel, ⟨by decide +kernel, by decide +kernel, by decide +kernel, by decide +kernel, by decide +kernel⟩, rfl, by decide +kernel⟩,
  ⟨ad, _, ea, ctl2, 0x81, 0, 1, by decide +kernel, ⟨by decide +kernel, by decide +kernel, by decide +kernel, by decide +kernel, by decide +kernel⟩, rfl, by decide +kernel⟩,
  ⟨ad, _, ea, ctl2, 0x04, 0, 1, by decide +kernel, ⟨by decide +kernel, by decide +kernel, by decide +kernel, by decide +kernel, by decide +kernel⟩, rfl, by decide +kernel⟩,
  ⟨ad, key1, ctl2, by decide +kernel, ⟨by decide +kernel, by decide +kernel, by decide +kernel, by decide +kernel, by decide +kernel⟩⟩,
  ⟨ad, key1, ctl2, by decide +kernel, ⟨by decide +kernel, by decide +kernel, by decide +kernel, by decide +kernel, by decide +kernel⟩, by decide +kernel⟩,
  ⟨ad, _, ea, ctl2, 1, 5, 5, by decide +kernel, ⟨by decide +kernel, by decide +kernel, by decide +kernel, by decide +kernel, by decide +kernel⟩, rfl, (okEq (by decide +kernel))⟩,
  ⟨ad, _, ea, ctl2, 1, 5, katoStored 5, by decide +kernel, ⟨by decide +kernel, by decide +kernel, by decide +kernel, by decide +kernel, by decide +kernel⟩, rfl, (okEq (by decide +kernel))⟩,
  ⟨ad, _, ea, ctl2, 0x04, 1, 5, 5, by decide +kernel, ⟨by decide +kernel, by decide +kernel, by decide +kernel, by decide +kernel, by decide +kernel⟩, rfl, by decide +kernel, by decide +kernel, (okEq (by decide +kernel))⟩,
  ⟨ad, _, ea, ctl2, 0, 1, by decide +kernel, ⟨by decide +kernel, by decide +kernel, by decide +kernel, by decide +kernel, by decide +kernel⟩, rfl, by decide +kernel⟩,
  ⟨ad.onNamespace 1 fun n => { n with attached := [] }, _, ea, ctl2, 1, { ns1 with attached := [] }, [1], by decide +kernel, ⟨by decide +kernel, by decide +kernel, by decide +kernel, by decide +kernel, by decide +kernel⟩, rfl, by decide +kernel⟩,
  ⟨ad, _, ea, ctl2, 1, ns1, [1], by decide +kernel, ⟨by decide +kernel, by decide +kernel, by decide +kernel, by decide +kernel, by decide +kernel⟩, rfl, by decide +kernel⟩,
  ⟨ad, _, ea, ctl2, 0, (List.replicate 4096 1 : Bytes), okOf (stagePiece ad.admin.staging 0 (List.replicate 4096 1 : Bytes)) (by decide +kernel), by decide +kernel, ⟨by decide +kernel, by decide +kernel, by decide +kernel, by decide +kernel, by decide +kernel⟩, rfl, (okOf_eq _ (by decide +kernel))⟩,
  ⟨ad, key1, ctl2, by decide +kernel, ⟨by decide +kernel, by decide +kernel, by decide +kernel, by decide +kernel, by decide +kernel⟩⟩,
  ⟨ad, { key1 with qid := 0 }, ctl2, ⟨{ key1 with qid := 0 }, 1, 0, none, []⟩, by decide +kernel, ⟨by decide +kernel, by decide +kernel, by decide +kernel, by decide +kernel, by decide +kernel⟩, by decide +kernel⟩,
  ⟨ad, key1, ctl2, 1, ns1, by decide +kernel, ⟨by decide +kernel, by decide +kernel, by decide +kernel, by decide +kernel, by decide +kernel⟩, by decide +kernel⟩,
  ⟨ad, key1, ctl2, 4, by decide +kernel, ⟨by decide +kernel, by decide +kernel, by decide +kernel, by decide +kernel, by decide +kernel⟩, by decide +kernel⟩,
  ⟨ad, key1, ctl2, 1, (ad.storeImage 1).1, (ad.storeImage 1).2, by decide +kernel, ⟨by decide +kernel, by decide +kernel, by decide +kernel, by decide +kernel, by decide +kernel⟩, rfl⟩,
  ⟨ad, key1, ctl2, 1, (ad.storeImageNext 1).1, (ad.storeImageNext 1).2, by decide +kernel, ⟨by decide +kernel, by decide +kernel, by decide +kernel, by decide +kernel, by decide +kernel⟩, rfl⟩,
  ⟨ad, key1, ctl2, 1, (ad.markImage 1).1, (ad.markImage 1).2, by decide +kernel, ⟨by decide +kernel, by decide +kernel, by decide +kernel, by decide +kernel, by decide +kernel⟩, rfl⟩,
  ⟨ad, key1, ctl2, 1, (ad.commitActivate 1).1, (ad.commitActivate 1).2, by decide +kernel, ⟨by decide +kernel, by decide +kernel, by decide +kernel, by decide +kernel, by decide +kernel⟩, rfl⟩,
  ⟨ad.onAdmin fun a => { a with forwards := [⟨key1, 0x0D, 1⟩] }, key1, by decide +kernel⟩,
  ⟨(ad.onLink fun l => { l with following := [0] }).onAdmin fun a => { a with trial := true }, by decide +kernel⟩,
  ⟨ad.onAdmin fun a => { a with trial := true }, by decide +kernel⟩,
  ⟨qs, 0, cc0, (if (qs.chapKey cc0.hostNqn cc0.hostId).isSome then 1 else 0 : Nat), qs.freeCntlid.getD 0, by decide +kernel, by decide +kernel, by decide +kernel, by decide +kernel, rfl, (okEq (by decide +kernel)), rfl⟩,
  ⟨q1, 0, cc1, _, { ctl2 with queues := [(0, 5)], features := [(7, 65537)] }, by decide +kernel, by decide +kernel, by decide +kernel, by decide +kernel, rfl, (okEq (by decide +kernel))⟩,
  ⟨qs, 0, { cc0 with recfmt := 1 }, _, _, by decide +kernel, by decide +kernel, by decide +kernel, by decide +kernel, rfl, rfl⟩,
  ⟨ad, key1, ctl2, by decide +kernel⟩,
  ⟨ad, key1, ctl2, ea, _, (List.replicate 8 7 : Bytes), 6, neg, by decide +kernel, by decide +kernel, by decide +kernel, by decide +kernel, by decide +kernel, rfl, by decide +kernel⟩,
  ⟨adA 3, key1, ctl2, ea, _, (List.replicate 8 7 : Bytes), 6, [0, 2, 0, 0, 0, 0, 0, 0, 1], _, by decide +kernel, by decide +kernel, by decide +kernel, by decide +kernel, by decide +kernel, rfl, by decide +kernel, by decide +kernel, by decide +kernel, by decide +kernel, (chap _ _), rfl⟩,
  ⟨adA 5, key1, ctl2, ea, _, (List.replicate 8 7 : Bytes), 6, [0, 4], by decide +kernel, by decide +kernel, by decide +kernel, by decide +kernel, by decide +kernel, rfl, by decide +kernel⟩,
  ⟨adA 2, key1, ctl2, ea, _, (List.replicate 8 7 : Bytes), 6, 3, 2, by decide +kernel, by decide +kernel, by decide +kernel, by decide +kernel, by decide +kernel, rfl, by decide +kernel⟩⟩
end AdminCommandsComplete

/-- Witnesses for `Obligations.RegisterClockAndCounterFrames`: every clause's hypotheses hold together. -/
theorem witness_registerClockAndCounterFrames :
    (∃ (c : Instr) (s : State) (t : State) (p : Part), c.family = .registers ∧ exec c s = .next t ∧ p ∉ c.touches) :=
  ⟨Instr.measRunSet, on, _, Part.mem, by decide +kernel, rfl, by decide +kernel⟩

/-- Witnesses for `Obligations.EntryWallflowerAndPowerFrames`: every clause's hypotheses hold together. -/
theorem witness_entryWallflowerAndPowerFrames :
    (∃ (c : Instr) (s : State) (t : State) (p : Part), c.family = .power ∧ exec c s = .next t ∧ p ∉ c.touches) :=
  ⟨Instr.rampComplete, on, _, Part.host, by decide +kernel, rfl, by decide +kernel⟩

/-- Witnesses for `Obligations.ClusterCipherAndEngineFrames`: every clause's hypotheses hold together. -/
theorem witness_clusterCipherAndEngineFrames :
    (∃ (c : Instr) (s : State) (t : State) (p : Part), c.family = .engines ∧ exec c s = .next t ∧ p ∉ c.touches) :=
  ⟨Instr.slotStatusRead .ronhenko 5, on, _, Part.rdma, by decide +kernel, rfl, by decide +kernel⟩

/-- Witnesses for `Obligations.LinkAndTokenFrames`: every clause's hypotheses hold together. -/
theorem witness_linkAndTokenFrames :
    (∃ (c : Instr) (s : State) (t : State) (p : Part), c.family = .peer ∧ exec c s = .next t ∧ p ∉ c.touches) :=
  ⟨Instr.leaseRenewal, on, _, Part.regs .ltk, by decide +kernel, rfl, by decide +kernel⟩

/-- Witnesses for `Obligations.LayoutAndMemberFrames`: every clause's hypotheses hold together. -/
theorem witness_layoutAndMemberFrames :
    (∃ (c : Instr) (s : State) (t : State) (p : Part), c.family = .layout ∧ exec c s = .next t ∧ p ∉ c.touches) :=
  ⟨Instr.stripeIdleTimeout 0 0, on, _, Part.regs .qdl, by decide +kernel, rfl, by decide +kernel⟩

/-- Witnesses for `Obligations.SwitchAndGateFrames`: every clause's hypotheses hold together. -/
theorem witness_switchAndGateFrames :
    (∃ (c : Instr) (s : State) (t : State) (p : Part), c.family = .fabric ∧ exec c s = .next t ∧ p ∉ c.touches) :=
  ⟨Instr.wheelSlotChange 0, on, _, Part.store, by decide +kernel, rfl, by decide +kernel⟩

/-- Witnesses for `Obligations.WalkProposalAndSlotFrames`: every clause's hypotheses hold together. -/
theorem witness_walkProposalAndSlotFrames :
    (∃ (c : Instr) (s : State) (t : State) (p : Part), c.family = .walks ∧ exec c s = .next t ∧ p ∉ c.touches) :=
  ⟨Instr.offListTimeout, on, _, Part.regs .dpt, by decide +kernel, rfl, by decide +kernel⟩

/-- Witnesses for `Obligations.EnergyVaultAndManagementFrames`: every clause's hypotheses hold together. -/
theorem witness_energyVaultAndManagementFrames :
    (∃ (c : Instr) (s : State) (t : State) (p : Part), c.family = .vault ∧ exec c s = .next t ∧ p ∉ c.touches) :=
  ⟨Instr.vaultRetire, on, _, Part.regs .nrg, by decide +kernel, rfl, by decide +kernel⟩

/-- Witnesses for `Obligations.DirectHostIoAndRdmaFrames`: every clause's hypotheses hold together. -/
theorem witness_directHostIoAndRdmaFrames :
    (∃ (c : Instr) (s : State) (t : State) (p : Part), c.family = .hosts ∧ exec c s = .next t ∧ p ∉ c.touches) :=
  ⟨Instr.readyToUse 0, on, _, Part.keys, by decide +kernel, rfl, by decide +kernel⟩

/-- Witnesses for `Obligations.AdminCommandFrames`: every clause's hypotheses hold together. -/
theorem witness_adminCommandFrames :
    (∃ (c : Instr) (s : State) (t : State) (p : Part), c.family = .admin ∧ exec c s = .next t ∧ p ∉ c.touches) :=
  ⟨Instr.abort key1, on, _, Part.slots, by decide +kernel, rfl, by decide +kernel⟩

/-- Witnesses for `Obligations.KeyAndContextStoresStayInPlace`: every clause's hypotheses hold together. -/
theorem witness_keyAndContextStoresStayInPlace :
    (∃ (s : State) (t : State) (who : _) (slot : _), exec (.keyGenerate who slot) s = .next t) ∧
    (∃ (s : State) (t : State) (who : _), exec (.kekRatchet who) s = .next t) ∧
    (∃ (s : State) (t : State) (who : _) (slot : _), exec (.slotStatusRead who slot) s = .next t) ∧
    (∃ (s : State) (t : State) (who : _) (slot : _), exec (.keyUnwrap who slot) s = .next t) ∧
    (∃ (s : State) (t : State) (who : _) (slot : _), exec (.keyZeroise who slot) s = .next t) ∧
    (∃ (s : State) (t : State) (who : _), exec (.keyDerivePair who) s = .next t) ∧
    (∃ (s : State) (t : State) (who : _) (slot : _), exec (.highWaterLoad who slot) s = .next t) ∧
    (∃ (s : State) (t : State) (who : _), exec (.kekImport who) s = .next t) ∧
    (∃ (s : State) (t : State) (who : _), exec (.qpcRead who) s = .next t) :=
  ⟨⟨on, _, Requester.ronhenko, 70, rfl⟩,
  ⟨on, _, Requester.ronhenko, rfl⟩,
  ⟨on, _, Requester.ronhenko, 70, rfl⟩,
  ⟨on, _, Requester.ronhenko, 70, rfl⟩,
  ⟨on, _, Requester.ronhenko, 70, rfl⟩,
  ⟨on, _, Requester.ronhenko, rfl⟩,
  ⟨on, _, Requester.ronhenko, 70, rfl⟩,
  ⟨on, _, Requester.ronhenko, rfl⟩,
  ⟨on, _, Requester.ronhenko, rfl⟩⟩

/-- Witnesses for `Obligations.EngineStoresStayInPlace`: every clause's hypotheses hold together. -/
theorem witness_engineStoresStayInPlace :
    (∃ (s : State) (t : State) (q : _) (c : _), c ∈ [Instr.ewqCopy q, .ewqParity q, .ewqParityCheck q, .ewqXtsEncrypt q, .ewqXtsDecrypt q, .ewqGcmEncrypt q, .ewqGcmDecrypt q, .ewqGmac q, .ewqKeyCommand q] ∧ exec c s = .next t) ∧
    (∃ (s : State) (t : State) (q : _) (n : _), exec (.ewqDescriptorComplete q n) s = .next t) ∧
    (∃ (s : State) (t : State) (q : _) (n : _) (a : _), exec (.ewqReadTimeout q n a) s = .next t) :=
  ⟨⟨on, _, 3, Instr.ewqCopy 3, by decide +kernel, rfl⟩,
  ⟨on, _, 3, 0, rfl⟩,
  ⟨on, _, 3, 0, 4096, rfl⟩⟩

/-- Witnesses for `Obligations.CounterOverflowSaturatesOrWraps`: every clause's hypotheses hold together. -/
theorem witness_counterOverflowSaturatesOrWraps :
    (∃ (s : State) (i : _) (n : _), i < 48 ∧ s.rd64 (PMC_CNT.addr i) < 2 ^ 48 ∧ s.rd64 (PMC_CNT.addr i) + n < 2 ^ 48) ∧
    (∃ (s : State) (i : _) (n : _), i < 48 ∧ s.rd64 (PMC_CNT.addr i) < 2 ^ 48 ∧ 2 ^ 48 ≤ s.rd64 (PMC_CNT.addr i) + n ∧ s.flag (PMC_SEL.SAT i) = true) ∧
    (∃ (s : State) (i : _) (n : _), i < 48 ∧ s.rd64 (PMC_CNT.addr i) < 2 ^ 48 ∧ 2 ^ 48 ≤ s.rd64 (PMC_CNT.addr i) + n ∧ s.flag (PMC_SEL.SAT i) = false) ∧
    (∃ (s : State) (i : _) (n : _), i < 48 ∧ s.rd64 (PMC_CNT.addr i) < 2 ^ 48 ∧ 2 ^ 48 ≤ s.rd64 (PMC_CNT.addr i) + n) ∧
    (∃ (s : State) (i : _) (n : _) (j : _), i < 48 ∧ s.rd64 (PMC_CNT.addr i) < 2 ^ 48 ∧ 2 ^ 48 ≤ s.rd64 (PMC_CNT.addr i) + n ∧ j ≠ i) ∧
    (∃ (s : State) (i : _) (n : _), i < 48 ∧ s.rd64 (PMC_CNT.addr i) < 2 ^ 48 ∧ 2 ^ 48 ≤ s.rd64 (PMC_CNT.addr i) + n ∧ s.flag (PMC_SEL.IRQ i) = true ∧ bitOf (s.rd64 PMC_OVF.addr) i = false) ∧
    (∃ (s : State) (i : _) (n : _), i < 48 ∧ s.rd64 (PMC_CNT.addr i) < 2 ^ 48 ∧ 2 ^ 48 ≤ s.rd64 (PMC_CNT.addr i) + n ∧ ¬(s.flag (PMC_SEL.IRQ i) = true ∧ bitOf (s.rd64 PMC_OVF.addr) i = false)) :=
  ⟨⟨on, 47, 1, by decide +kernel⟩,
  ⟨(on.setReg (PMC_CNT.addr 47) 0xFFFFFFFFFFFF#64).wrs [(PMC_SEL.SAT 47, 1), (PMC_SEL.IRQ 47, 1)], 47, 1, by decide +kernel⟩,
  ⟨on.setReg (PMC_CNT.addr 47) 0xFFFFFFFFFFFF#64, 47, 5, by decide +kernel⟩,
  ⟨on.setReg (PMC_CNT.addr 47) 0xFFFFFFFFFFFF#64, 47, 1, by decide +kernel⟩,
  ⟨on.setReg (PMC_CNT.addr 47) 0xFFFFFFFFFFFF#64, 47, 1, 3, by decide +kernel⟩,
  ⟨(on.setReg (PMC_CNT.addr 47) 0xFFFFFFFFFFFF#64).wrs [(PMC_SEL.SAT 47, 1), (PMC_SEL.IRQ 47, 1)], 47, 1, by decide +kernel⟩,
  ⟨on.setReg (PMC_CNT.addr 47) 0xFFFFFFFFFFFF#64, 47, 1, by decide +kernel⟩⟩

namespace RepeatedFaultsCoalesce
def ring1 : State := on.onFlt fun x => { x with ring := [on.faultRecord { cls := 2, code := 0x80, severity := 1, source := 255, addr := 64 }] }
/-- Witnesses for `Obligations.RepeatedFaultsCoalesce`: every clause's hypotheses hold together. -/
theorem witness_repeatedFaultsCoalesce :
    (∃ (s : State) (e : _) (old : _) (rest : _), s.power.dormant = false ∧ s.flt.ring = old :: rest ∧ (s.faultRecord e).source = old.source ∧ (s.faultRecord e).code = old.code ∧ (s.faultRecord e).region = old.region ∧ (s.faultRecord e).addr = old.addr ∧ (s.faultRecord e).time.toNat - old.time.toNat ≤ 1000000) ∧
    (∃ (s : State) (e : _) (old : _) (rest : _) (a : _), s.power.dormant = false ∧ s.flt.ring = old :: rest ∧ (s.faultRecord e).source = old.source ∧ (s.faultRecord e).code = old.code ∧ (s.faultRecord e).region = old.region ∧ (s.faultRecord e).addr = old.addr ∧ (s.faultRecord e).time.toNat - old.time.toNat ≤ 1000000 ∧ a ≠ FLT_COALESCED.addr) ∧
    (∃ (s : State) (e : _) (old : _) (rest : _), s.power.dormant = false ∧ s.flt.ring = old :: rest ∧ ((s.faultRecord e).source ≠ old.source ∨ (s.faultRecord e).code ≠ old.code ∨ (s.faultRecord e).region ≠ old.region ∨ (s.faultRecord e).addr ≠ old.addr ∨ 1000000 < (s.faultRecord e).time.toNat - old.time.toNat)) :=
  ⟨⟨ring1, ({ cls := 2, code := 0x80, severity := 1, source := 255, addr := 64 } : FaultEvent), on.faultRecord { cls := 2, code := 0x80, severity := 1, source := 255, addr := 64 }, ([] : List FaultRecord), by decide +kernel⟩,
  ⟨ring1, ({ cls := 2, code := 0x80, severity := 1, source := 255, addr := 64 } : FaultEvent), on.faultRecord { cls := 2, code := 0x80, severity := 1, source := 255, addr := 64 }, ([] : List FaultRecord), 0, by decide +kernel⟩,
  ⟨ring1, ({ cls := 2, code := 0x80, severity := 1, source := 255, addr := 65 } : FaultEvent), on.faultRecord { cls := 2, code := 0x80, severity := 1, source := 255, addr := 64 }, ([] : List FaultRecord), by decide +kernel⟩⟩
end RepeatedFaultsCoalesce

end Sys2Proof.Tests
end

section
/-! A low-word read latches the high word (R6): the rules of the list of latched words, one reading rule per case of
`State.readReg` on a 64-bit pair, and the settlement of O12 from them. -/

namespace Sys2Proof.Machine

/-! The list of latched words. -/

@[simp] theorem findPair_putPair (l : List PairWord) (who : Requester) (addr : Nat) (v : Word) :
    findPair (putPair l who addr v) who addr = some v := by
  simp [findPair, putPair]

@[simp] theorem findPair_dropPair (l : List PairWord) (who : Requester) (addr : Nat) :
    findPair (dropPair l who addr) who addr = none := by
  simp only [findPair, dropPair, Option.map_eq_none_iff, List.find?_eq_none]
  intro w hw hmatch
  simp only [List.mem_filter, hmatch, Bool.not_true, Bool.false_eq_true, and_false] at hw

/-! The home address of a pair. -/

theorem RegHit.base_low {h : RegHit} (hlow : h.high = false) (a : Nat) : h.base a = a := by
  simp [RegHit.base, hlow]

theorem RegHit.base_high {h : RegHit} (hhigh : h.high = true) (a : Nat) : h.base (a + 4) = a := by
  simp [RegHit.base, hhigh]

/-! What `State.readReg` does on a readable pair. -/

/-- R6, the low word: it is returned, and the high word is latched as it is then. -/
theorem State.readReg_low (s : State) (who : Requester) {a : Nat} {h : RegHit} (hfind : findReg a = some h)
    (hwide : h.row.wide = true) (hlow : h.high = false) (hread : h.row.fields.any (fun f => f.acc == .wo) = false) :
    s.readReg who a = (BitVec.ofNat 32 (s.liveValue a).toNat,
      s.onHiLatch (putPair · who a (BitVec.ofNat 32 ((s.liveValue a).toNat / 2 ^ 32)))) := by
  simp only [State.readReg, hfind, hwide, hlow, hread, RegHit.base_low hlow, if_true, Bool.false_eq_true, if_false]

/-- R6, the high word after a low-word read: the latched word is returned and used up. -/
theorem State.readReg_high_latched (s : State) (who : Requester) {a : Nat} {h : RegHit} {w : Word}
    (hfind : findReg (a + 4) = some h) (hwide : h.row.wide = true) (hhigh : h.high = true)
    (hlatch : findPair s.hiLatch who a = some w) :
    s.readReg who (a + 4) = (w, s.onHiLatch (dropPair · who a)) := by
  simp only [State.readReg, hfind, hwide, hhigh, RegHit.base_high hhigh, hlatch, if_true]

/-- R6, the high word with nothing latched: the live word is returned. -/
theorem State.readReg_high_live (s : State) (who : Requester) {a : Nat} {h : RegHit} (hfind : findReg (a + 4) = some h)
    (hwide : h.row.wide = true) (hhigh : h.high = true) (hread : h.row.fields.any (fun f => f.acc == .wo) = false)
    (hlatch : findPair s.hiLatch who a = none) :
    s.readReg who (a + 4) = (BitVec.ofNat 32 ((s.liveValue a).toNat / 2 ^ 32), s) := by
  simp only [State.readReg, hfind, hwide, hhigh, hread, RegHit.base_high hhigh, hlatch, if_true, Bool.false_eq_true,
    if_false]

/-- Settles O12: one reading rule of `State.readReg` for each of the three reads of R6. -/
theorem lowWordReadLatchesHighWord : Obligations.LowWordReadLatchesHighWord := by
  intro s u who a h h' hfind hfind' hwide hlow hrow hhigh hread
  have hlowRead := s.readReg_low who hfind hwide hlow hread
  have hwide' : h'.row.wide = true := hrow ▸ hwide
  refine ⟨by rw [hlowRead], fun hkept => ?_, fun hnone => ?_⟩
  · have hlatch : findPair u.hiLatch who a = some (BitVec.ofNat 32 ((s.liveValue a).toNat / 2 ^ 32)) := by
      rw [hkept, hlowRead, State.onHiLatch_hiLatch, findPair_putPair]
    rw [u.readReg_high_latched who hfind' hwide' hhigh hlatch]
    exact ⟨rfl, findPair_dropPair u.hiLatch who a⟩
  · rw [u.readReg_high_live who hfind' hwide' hhigh (hrow ▸ hread) hnone]

end Sys2Proof.Machine
end

section
/-! A counter's overflow (R570): where the counter registers lie, what a bit of PMC_OVF reads after one bit is set, the
two forms of `State.addCounter`, and the settlement of O59 from them. -/

namespace Sys2Proof.Machine

/-! One bit set in a number. -/

theorem bitOf_eq_testBit (n i : Nat) : bitOf n i = n.testBit i := by
  rw [bitOf, Nat.testBit_eq_decide_div_mod_eq, Bool.eq_iff_iff, beq_iff_eq, decide_eq_true_eq]

@[simp] theorem bitOf_or_two_pow_self (n i : Nat) : bitOf (n ||| 2 ^ i) i = true := by
  rw [bitOf_eq_testBit, Nat.testBit_or, Nat.testBit_two_pow_self, Bool.or_true]

theorem bitOf_or_two_pow_ne (n : Nat) {i j : Nat} (h : j ≠ i) : bitOf (n ||| 2 ^ i) j = bitOf n j := by
  rw [bitOf_eq_testBit, bitOf_eq_testBit, Nat.testBit_or, Nat.testBit_two_pow_of_ne h.symm, Bool.or_false]

/-! Reading a pair or a flag, and the outputs, after a register write or a sending. -/

theorem State.rd64_lt (s : State) (a : Nat) : s.rd64 a < 2 ^ 64 := (s.reg a).isLt

theorem State.rd64_setReg_self (s : State) (a : Nat) {v : Nat} (h : v < 2 ^ 64) :
    (s.setReg a (BitVec.ofNat 64 v)).rd64 a = v := by
  rw [State.rd64, State.reg_setReg_self, BitVec.toNat_ofNat, Nat.mod_eq_of_lt h]

theorem State.rd64_setReg_ne (s : State) {a b : Nat} (h : a ≠ b) (v : DWord) : (s.setReg b v).rd64 a = s.rd64 a := by
  rw [State.rd64, State.reg_setReg_ne h, State.rd64]

theorem State.flag_setReg_ne (s : State) {f : Fld} {b : Nat} (h : f.addr ≠ b) (v : DWord) : (s.setReg b v).flag f = s.flag f := by
  rw [State.flag, State.rd, State.reg_setReg_ne h, State.flag, State.rd]

@[simp] theorem State.setReg_out (s : State) (a : Nat) (v : DWord) : (s.setReg a v).out = s.out := s.onRegs_out _

@[simp] theorem State.rd64_emit (s : State) (o : Output) (a : Nat) : (s.emit o).rd64 a = s.rd64 a :=
  congrArg BitVec.toNat (s.reg_onOut _ a)

@[simp] theorem State.emit_out (s : State) (o : Output) : (s.emit o).out = o :: s.out := (rfl)

/-! The 48 counters, their selections and PMC_OVF are registers apart. -/

theorem PMC_CNT_addr_ne_PMC_OVF {i : Nat} (hi : i < 48) : PMC_CNT.addr i ≠ PMC_OVF.addr := by
  simp only [PMC_CNT.addr, PMC_OVF.addr, blockAddr]
  omega

theorem PMC_SEL_addr_ne_PMC_OVF {i : Nat} (hi : i < 48) : PMC_SEL.addr i ≠ PMC_OVF.addr := by
  simp only [PMC_SEL.addr, PMC_OVF.addr, blockAddr]
  omega

theorem PMC_SEL_addr_ne_PMC_CNT {i j : Nat} (hi : i < 48) (hj : j < 48) : PMC_SEL.addr i ≠ PMC_CNT.addr j := by
  simp only [PMC_SEL.addr, PMC_CNT.addr, blockAddr]
  omega

/-! What `State.addCounter` does. -/

/-- What counter `i` holds after an amount that takes it past 2^48 − 1 (R570): the greatest value with SAT set, else the
remainder. -/
def State.overflowValue (s : State) (i n : Nat) : Nat :=
  if s.flag (PMC_SEL.SAT i) then 2 ^ 48 - 1 else (s.rd64 (PMC_CNT.addr i) + n) % 2 ^ 48

/-- Both registers that an overflow of counter `i` writes (R570): the counter, and its bit of PMC_OVF. -/
def State.overflowCounter (s : State) (i n : Nat) : State :=
  (s.setReg (PMC_CNT.addr i) (BitVec.ofNat 64 (s.overflowValue i n))).setReg PMC_OVF.addr
    (BitVec.ofNat 64 (s.rd64 PMC_OVF.addr ||| 2 ^ i))

theorem State.addCounter_of_fits {s : State} {i n : Nat} (h : s.rd64 (PMC_CNT.addr i) + n < 2 ^ 48) :
    s.addCounter i n = s.setReg (PMC_CNT.addr i) (BitVec.ofNat 64 (s.rd64 (PMC_CNT.addr i) + n)) := if_pos h

/-- PMC_OVF and IRQ, which the model reads after it has stored the counter, are still those of `s`. -/
theorem State.addCounter_of_overflow {s : State} {i n : Nat} (hi : i < 48) (h : 2 ^ 48 ≤ s.rd64 (PMC_CNT.addr i) + n) :
    s.addCounter i n = if s.flag (PMC_SEL.IRQ i) && !bitOf (s.rd64 PMC_OVF.addr) i then
      (s.overflowCounter i n).emit (.counterOverflow i) else s.overflowCounter i n := by
  have hirq : (s.overflowCounter i n).flag (PMC_SEL.IRQ i) = s.flag (PMC_SEL.IRQ i) := by
    rw [State.overflowCounter, State.flag_setReg_ne _ (PMC_SEL_addr_ne_PMC_OVF hi),
      State.flag_setReg_ne _ (PMC_SEL_addr_ne_PMC_CNT hi hi)]
  have hovf (v : DWord) : (s.setReg (PMC_CNT.addr i) v).rd64 PMC_OVF.addr = s.rd64 PMC_OVF.addr :=
    s.rd64_setReg_ne (PMC_CNT_addr_ne_PMC_OVF hi).symm v
  rw [← hirq, State.overflowCounter, State.overflowValue, State.addCounter, if_neg (Nat.not_lt.mpr h)]
  simp only [hovf]

theorem State.overflowValue_lt (s : State) (i n : Nat) : s.overflowValue i n < 2 ^ 64 := by
  rw [State.overflowValue]
  split <;> omega

theorem State.rd64_overflowCounter_PMC_CNT (s : State) {i : Nat} (hi : i < 48) (n : Nat) :
    (s.overflowCounter i n).rd64 (PMC_CNT.addr i) = s.overflowValue i n := by
  rw [State.overflowCounter, State.rd64_setReg_ne _ (PMC_CNT_addr_ne_PMC_OVF hi),
    State.rd64_setReg_self _ _ (s.overflowValue_lt i n)]

theorem State.rd64_overflowCounter_PMC_OVF (s : State) {i : Nat} (hi : i < 48) (n : Nat) :
    (s.overflowCounter i n).rd64 PMC_OVF.addr = s.rd64 PMC_OVF.addr ||| 2 ^ i :=
  have hpow : 2 ^ i < 2 ^ 64 := Nat.pow_lt_pow_right (by decide) (by omega)
  State.rd64_setReg_self _ _ (Nat.or_lt_two_pow (s.rd64_lt _) hpow)

@[simp] theorem State.overflowCounter_out (s : State) (i n : Nat) : (s.overflowCounter i n).out = s.out := by
  rw [State.overflowCounter, State.setReg_out, State.setReg_out]

/-! What is read after an overflow, whether its owner was interrupted or not. -/

theorem State.rd64_addCounter_of_overflow {s : State} {i n : Nat} (hi : i < 48)
    (h : 2 ^ 48 ≤ s.rd64 (PMC_CNT.addr i) + n) (a : Nat) :
    (s.addCounter i n).rd64 a = (s.overflowCounter i n).rd64 a := by
  rw [State.addCounter_of_overflow hi h]
  split
  · exact State.rd64_emit _ _ _
  · rfl

theorem State.addCounter_out_of_overflow {s : State} {i n : Nat} (hi : i < 48)
    (h : 2 ^ 48 ≤ s.rd64 (PMC_CNT.addr i) + n) :
    (s.addCounter i n).out =
      if s.flag (PMC_SEL.IRQ i) = true ∧ bitOf (s.rd64 PMC_OVF.addr) i = false then .counterOverflow i :: s.out else s.out := by
  rw [State.addCounter_of_overflow hi h]
  simp only [Bool.and_eq_true, Bool.not_eq_true', apply_ite State.out, State.emit_out, State.overflowCounter_out]

/-- Settles O59: the reading rules of the two forms of `State.addCounter`. -/
theorem counterOverflowSaturatesOrWraps : Obligations.CounterOverflowSaturatesOrWraps := by
  intro s i n hi _
  refine ⟨fun hfits => ?_, fun hover => ?_⟩
  · rw [State.addCounter_of_fits hfits]
    exact ⟨s.rd64_setReg_self _ (by omega), s.setReg_out _ _, s.rd64_setReg_ne (PMC_CNT_addr_ne_PMC_OVF hi).symm _⟩
  · simp only [State.rd64_addCounter_of_overflow hi hover, s.rd64_overflowCounter_PMC_CNT hi, s.rd64_overflowCounter_PMC_OVF hi,
      State.addCounter_out_of_overflow hi hover]
    exact ⟨fun hsat => if_pos hsat, fun hsat => if_neg (by simp [hsat]), bitOf_or_two_pow_self _ i,
      fun _ hj => bitOf_or_two_pow_ne _ hj, fun hirq => if_pos hirq, fun hirq => if_neg hirq⟩

end Sys2Proof.Machine
end

section
/-! What a command may change: the laws of the meanings (Laws/After), one case per command, give the frame of `exec`. Sets of parts
are numbers there; `Part.everything` lists every part once, so a part that a list does not name has no bit in the list's set. -/

set_option Elab.async false

namespace Sys2Proof.Machine



/-- The set of parts that a list names. -/
def partMask (l : List Part) : Nat := l.foldr (fun p m => 2 ^ partBit p ||| m) 0

theorem Within.of_and_eq {m t : Nat} (h : m &&& t = m) : Within m t := by unfold Within; exact h

theorem Part.mem_everything (p : Part) : p ∈ Part.everything := by
  cases p with
  | regs b => cases b <;> decide
  | _ => decide

/-- The part that a bit stands for. -/
def partOfBit (n : Nat) : Option Part := Part.everything.find? (partBit · == n)

theorem partOfBit_partBit (p : Part) : partOfBit (partBit p) = some p := by
  cases p with
  | regs b => cases b <;> decide
  | _ => decide

theorem partBit_injective {p q : Part} (h : partBit p = partBit q) : p = q :=
  Option.some.inj ((partOfBit_partBit p).symm.trans ((congrArg partOfBit h).trans (partOfBit_partBit q)))

theorem partMask_testBit_of_not_mem {p : Part} {l : List Part} (h : p ∉ l) : (partMask l).testBit (partBit p) = false := by
  induction l with
  | nil => exact Nat.zero_testBit _
  | cons q l ih =>
    rw [List.mem_cons, not_or] at h
    have hq : partBit q ≠ partBit p := fun e => h.1 (partBit_injective e).symm
    rw [partMask, List.foldr_cons, Nat.testBit_or, Nat.testBit_two_pow_of_ne hq, Bool.false_or]
    exact ih h.2

theorem exec_after (c : Instr) (s : State) : AfterOut (partMask c.touches) s (exec c s) := by
  cases c <;> dsimp only [Instr.touches]
  case plainRegisterWrite => exact execPlainRegisterWrite_after _ _ _ _ _ (.of_and_eq rfl) (.refl s)
  case rcRegisterRead => exact execRcRegisterRead_after _ _ _ _ (.of_and_eq rfl) (.refl s)
  case lowWordRead => exact execLowWordRead_after _ _ _ (.of_and_eq rfl) (.refl s)
  case unassignedBlockAccess => exact execUnassignedBlockAccess_after _ _ _ _ (.of_and_eq rfl) (.refl s)
  case directHostRegisterAccess => exact execDirectHostRegisterAccess_after _ _ _ _ (.of_and_eq rfl) (.refl s)
  case offDomainAccess => exact execOffDomainAccess_after _ _ _ _ (.of_and_eq rfl) (.refl s)
  case registerRead => exact execRegisterRead_after _ _ _ (.of_and_eq rfl) (.refl s)
  case registerWrite => exact execRegisterWrite_after _ _ _ (.of_and_eq rfl) (.refl s)
  case rwtFieldWrite => exact execRwtFieldWrite_after _ _ _ _ (.of_and_eq rfl) (.refl s)
  case coldReset => exact execColdReset_after _ (.of_and_eq rfl) (.refl s)
  case moduleResetTaken => exact execModuleResetTaken_after _ (.of_and_eq rfl) (.refl s)
  case memoryFillComplete => exact execMemoryFillComplete_after _ (.of_and_eq rfl) (.refl s)
  case pllLock => exact execPllLock_after _ (.of_and_eq rfl) (.refl s)
  case rootClockFault => exact execRootClockFault_after _ (.of_and_eq rfl) (.refl s)
  case measureBoundary => exact execMeasureBoundary_after _ (.of_and_eq rfl) (.refl s)
  case boundaryWindowEnd => exact execBoundaryWindowEnd_after _ (.of_and_eq rfl) (.refl s)
  case measStepRequest => exact execMeasStepRequest_after _ _ _ (.of_and_eq rfl) (.refl s)
  case timeStepApply => exact execTimeStepApply_after _ (.of_and_eq rfl) (.refl s)
  case measOffsWrite => exact execMeasOffsWrite_after _ _ (.of_and_eq rfl) (.refl s)
  case measSrcWrite => exact execMeasSrcWrite_after _ _ (.of_and_eq rfl) (.refl s)
  case offsetWriteTimeout => exact execOffsetWriteTimeout_after _ (.of_and_eq rfl) (.refl s)
  case holdoverExpiry => exact execHoldoverExpiry_after _ (.of_and_eq rfl) (.refl s)
  case measRunSet => exact execMeasRunSet_after _ (.of_and_eq rfl) (.refl s)
  case flush => exact execFlush_after _ _ (.of_and_eq rfl) (.refl s)
  case write => exact execWrite_after _ _ _ _ (.of_and_eq rfl) (.refl s)
  case read => exact execRead_after _ _ _ (.of_and_eq rfl) (.refl s)
  case compare => exact execCompare_after _ _ _ _ (.of_and_eq rfl) (.refl s)
  case writeZeroes => exact execWriteZeroes_after _ _ _ (.of_and_eq rfl) (.refl s)
  case datasetManagement => exact execDatasetManagement_after _ _ _ _ (.of_and_eq rfl) (.refl s)
  case verify => exact execVerify_after _ _ _ (.of_and_eq rfl) (.refl s)
  case reservationRegister => exact execReservationRegister_after _ _ _ _ _ (.of_and_eq rfl) (.refl s)
  case reservationReport => exact execReservationReport_after _ _ _ (.of_and_eq rfl) (.refl s)
  case reservationAcquire => exact execReservationAcquire_after _ _ _ _ _ _ (.of_and_eq rfl) (.refl s)
  case reservationRelease => exact execReservationRelease_after _ _ _ _ _ (.of_and_eq rfl) (.refl s)
  case copy => exact execCopy_after _ _ _ _ (.of_and_eq rfl) (.refl s)
  case unknownIoOpcode => exact execUnknownIoOpcode_after _ _ (.of_and_eq rfl) (.refl s)
  case commandSlotGrant => exact execCommandSlotGrant_after _ _ (.of_and_eq rfl) (.refl s)
  case rangeLockGrant => exact execRangeLockGrant_after _ _ (.of_and_eq rfl) (.refl s)
  case dirtyRoomGrant => exact execDirtyRoomGrant_after _ _ (.of_and_eq rfl) (.refl s)
  case mirrorCopyAccept => exact execMirrorCopyAccept_after _ (.of_and_eq rfl) (.refl s)
  case stripPost => exact execStripPost_after _ _ _ (.of_and_eq rfl) (.refl s)
  case memberWriteComplete => exact execMemberWriteComplete_after _ _ (.of_and_eq rfl) (.refl s)
  case memberReadComplete => exact execMemberReadComplete_after _ _ _ _ _ _ (.of_and_eq rfl) (.refl s)
  case readDurableResume => exact execReadDurableResume_after _ _ (.of_and_eq rfl) (.refl s)
  case controllerReset => exact execControllerReset_after _ _ _ (.of_and_eq rfl) (.refl s)
  case keepAliveExpiry => exact execKeepAliveExpiry_after _ _ (.of_and_eq rfl) (.refl s)
  case shutdownComplete => exact execShutdownComplete_after _ _ (.of_and_eq rfl) (.refl s)
  case firmwareActivation => exact execFirmwareActivation_after _ (.of_and_eq rfl) (.refl s)
  case firmwareTrialEnd => exact execFirmwareTrialEnd_after _ (.of_and_eq rfl) (.refl s)
  case firmwareTrialTimeout => exact execFirmwareTrialTimeout_after _ (.of_and_eq rfl) (.refl s)
  case getLogPage => exact execGetLogPage_after _ _ _ _ _ _ (.of_and_eq rfl) (.refl s)
  case identify => exact execIdentify_after _ _ _ _ _ (.of_and_eq rfl) (.refl s)
  case abort => exact execAbort_after _ _ (.of_and_eq rfl) (.refl s)
  case setFeatures => exact execSetFeatures_after _ _ _ _ _ _ (.of_and_eq rfl) (.refl s)
  case getFeatures => exact execGetFeatures_after _ _ _ _ _ (.of_and_eq rfl) (.refl s)
  case asynchronousEventRequest => exact execAsynchronousEventRequest_after _ _ (.of_and_eq rfl) (.refl s)
  case namespaceManagementCreate => exact execNamespaceManagementCreate_after _ _ _ _ _ _ (.of_and_eq rfl) (.refl s)
  case namespaceManagementDelete => exact execNamespaceManagementDelete_after _ _ _ (.of_and_eq rfl) (.refl s)
  case adminCommandForward => exact execAdminCommandForward_after _ _ _ _ (.of_and_eq rfl) (.refl s)
  case firmwareImageDownload => exact execFirmwareImageDownload_after _ _ _ _ (.of_and_eq rfl) (.refl s)
  case firmwareCommitStore => exact execFirmwareCommitStore_after _ _ _ _ (.of_and_eq rfl) (.refl s)
  case firmwareCommitStoreNext => exact execFirmwareCommitStoreNext_after _ _ _ (.of_and_eq rfl) (.refl s)
  case firmwareCommitMark => exact execFirmwareCommitMark_after _ _ _ (.of_and_eq rfl) (.refl s)
  case firmwareCommitActivate => exact execFirmwareCommitActivate_after _ _ _ (.of_and_eq rfl) (.refl s)
  case namespaceAttach => exact execNamespaceAttach_after _ _ _ _ (.of_and_eq rfl) (.refl s)
  case namespaceDetach => exact execNamespaceDetach_after _ _ _ _ (.of_and_eq rfl) (.refl s)
  case keepAlive => exact execKeepAlive_after _ _ (.of_and_eq rfl) (.refl s)
  case connect => exact execConnect_after _ _ _ _ (.of_and_eq rfl) (.refl s)
  case propertyGet => exact execPropertyGet_after _ _ _ _ (.of_and_eq rfl) (.refl s)
  case propertySet => exact execPropertySet_after _ _ _ _ _ (.of_and_eq rfl) (.refl s)
  case authenticationSend => exact execAuthenticationSend_after _ _ _ (.of_and_eq rfl) (.refl s)
  case authenticationReceive => exact execAuthenticationReceive_after _ _ _ (.of_and_eq rfl) (.refl s)
  case formatNvm => exact execFormatNvm_after _ _ _ _ _ _ (.of_and_eq rfl) (.refl s)
  case sanitizeExitFailureMode => exact execSanitizeExitFailureMode_after _ _ (.of_and_eq rfl) (.refl s)
  case sanitizeBlockErase => exact execSanitizeBlockErase_after _ _ _ (.of_and_eq rfl) (.refl s)
  case sanitizeOverwrite => exact execSanitizeOverwrite_after _ _ _ _ _ _ (.of_and_eq rfl) (.refl s)
  case sanitizeCryptoErase => exact execSanitizeCryptoErase_after _ _ _ (.of_and_eq rfl) (.refl s)
  case walkUnitComplete => exact execWalkUnitComplete_after _ _ _ _ (.of_and_eq rfl) (.refl s)
  case progressRecordDurable => exact execProgressRecordDurable_after _ _ _ (.of_and_eq rfl) (.refl s)
  case walkResume => exact execWalkResume_after _ _ _ (.of_and_eq rfl) (.refl s)
  case connectionRequest => exact execConnectionRequest_after _ _ (.of_and_eq rfl) (.refl s)
  case readyToUse => exact execReadyToUse_after _ _ (.of_and_eq rfl) (.refl s)
  case connectingTimeout => exact execConnectingTimeout_after _ _ (.of_and_eq rfl) (.refl s)
  case disconnectRequest => exact execDisconnectRequest_after _ _ (.of_and_eq rfl) (.refl s)
  case queuePairDrained => exact execQueuePairDrained_after _ _ (.of_and_eq rfl) (.refl s)
  case inboundRequest => exact execInboundRequest_after _ _ _ _ _ _ _ (.of_and_eq rfl) (.refl s)
  case inboundRdmaWrite => exact execInboundRdmaWrite_after _ _ _ _ _ _ _ _ _ _ (.of_and_eq rfl) (.refl s)
  case rdmaReadResponse => exact execRdmaReadResponse_after _ _ _ _ _ _ (.of_and_eq rfl) (.refl s)
  case readRequestComplete => exact execReadRequestComplete_after _ _ (.of_and_eq rfl) (.refl s)
  case readTrackerGrant => exact execReadTrackerGrant_after _ _ (.of_and_eq rfl) (.refl s)
  case ackReceived => exact execAckReceived_after _ _ _ (.of_and_eq rfl) (.refl s)
  case nakReceived => exact execNakReceived_after _ _ _ _ (.of_and_eq rfl) (.refl s)
  case ackTimeout => exact execAckTimeout_after _ _ (.of_and_eq rfl) (.refl s)
  case rnrTimerExpiry => exact execRnrTimerExpiry_after _ _ (.of_and_eq rfl) (.refl s)
  case cnpReceived => exact execCnpReceived_after _ _ (.of_and_eq rfl) (.refl s)
  case rateStepTimer => exact execRateStepTimer_after _ _ (.of_and_eq rfl) (.refl s)
  case contextFillComplete => exact execContextFillComplete_after _ _ _ (.of_and_eq rfl) (.refl s)
  case evictionWritebackComplete => exact execEvictionWritebackComplete_after _ _ _ _ (.of_and_eq rfl) (.refl s)
  case qpcDoorbell => exact execQpcDoorbell_after _ _ _ _ (.of_and_eq rfl) (.refl s)
  case workRequestComplete => exact execWorkRequestComplete_after _ _ (.of_and_eq rfl) (.refl s)
  case qpcCreate => exact execQpcCreate_after _ _ (.of_and_eq rfl) (.refl s)
  case qpcRead => exact execQpcRead_after _ _ (.of_and_eq rfl) (.refl s)
  case qpcDestroy => exact execQpcDestroy_after _ _ (.of_and_eq rfl) (.refl s)
  case qpcFlush => exact execQpcFlush_after _ _ (.of_and_eq rfl) (.refl s)
  case qpcPin => exact execQpcPin_after _ _ (.of_and_eq rfl) (.refl s)
  case qpcUnpin => exact execQpcUnpin_after _ _ (.of_and_eq rfl) (.refl s)
  case frameAdmission => exact execFrameAdmission_after _ _ (.of_and_eq rfl) (.refl s)
  case frameReadComplete => exact execFrameReadComplete_after _ _ _ _ (.of_and_eq rfl) (.refl s)
  case resequencerArrival => exact execResequencerArrival_after _ _ (.of_and_eq rfl) (.refl s)
  case resequencerTimeout => exact execResequencerTimeout_after _ _ _ (.of_and_eq rfl) (.refl s)
  case trackerFree => exact execTrackerFree_after _ _ (.of_and_eq rfl) (.refl s)
  case pfcPauseReceived => exact execPfcPauseReceived_after _ _ _ _ _ (.of_and_eq rfl) (.refl s)
  case pauseExpiry => exact execPauseExpiry_after _ _ _ _ (.of_and_eq rfl) (.refl s)
  case pfcWatchdogExpiry => exact execPfcWatchdogExpiry_after _ _ _ _ (.of_and_eq rfl) (.refl s)
  case pfcWatchdogEnd => exact execPfcWatchdogEnd_after _ _ _ _ (.of_and_eq rfl) (.refl s)
  case epochArm => exact execEpochArm_after _ _ _ (.of_and_eq rfl) (.refl s)
  case ftWriteShadow => exact execFtWriteShadow_after _ _ _ (.of_and_eq rfl) (.refl s)
  case ftReadActive => exact execFtReadActive_after _ _ _ (.of_and_eq rfl) (.refl s)
  case ftReadShadow => exact execFtReadShadow_after _ _ _ (.of_and_eq rfl) (.refl s)
  case epochDrained => exact execEpochDrained_after _ (.of_and_eq rfl) (.refl s)
  case laneFrameStart => exact execLaneFrameStart_after _ _ _ (.of_and_eq rfl) (.refl s)
  case gateEntryChange => exact execGateEntryChange_after _ _ (.of_and_eq rfl) (.refl s)
  case gateSwitchoverArm => exact execGateSwitchoverArm_after _ _ _ _ (.of_and_eq rfl) (.refl s)
  case wheelSlotChange => exact execWheelSlotChange_after _ _ (.of_and_eq rfl) (.refl s)
  case figWriteNext => exact execFigWriteNext_after _ _ _ _ (.of_and_eq rfl) (.refl s)
  case figReadActive => exact execFigReadActive_after _ _ _ _ (.of_and_eq rfl) (.refl s)
  case figReadNext => exact execFigReadNext_after _ _ _ _ (.of_and_eq rfl) (.refl s)
  case stripeClose => exact execStripeClose_after _ _ _ (.of_and_eq rfl) (.refl s)
  case stripeIdleTimeout => exact execStripeIdleTimeout_after _ _ _ (.of_and_eq rfl) (.refl s)
  case journalBlockWrite => exact execJournalBlockWrite_after _ _ (.of_and_eq rfl) (.refl s)
  case journalRecovery => exact execJournalRecovery_after _ _ _ _ (.of_and_eq rfl) (.refl s)
  case setAssembly => exact execSetAssembly_after _ _ (.of_and_eq rfl) (.refl s)
  case memberFailed => exact execMemberFailed_after _ _ _ (.of_and_eq rfl) (.refl s)
  case rebuildStep => exact execRebuildStep_after _ _ (.of_and_eq rfl) (.refl s)
  case rebuildStepComplete => exact execRebuildStepComplete_after _ _ _ (.of_and_eq rfl) (.refl s)
  case lostMapWrite => exact execLostMapWrite_after _ _ _ (.of_and_eq rfl) (.refl s)
  case lostMapDurable => exact execLostMapDurable_after _ _ _ _ (.of_and_eq rfl) (.refl s)
  case journalRehome => exact execJournalRehome_after _ _ _ (.of_and_eq rfl) (.refl s)
  case repairStep => exact execRepairStep_after _ _ _ _ _ (.of_and_eq rfl) (.refl s)
  case scrubStep => exact execScrubStep_after _ _ _ (.of_and_eq rfl) (.refl s)
  case replacementAccept => exact execReplacementAccept_after _ _ _ (.of_and_eq rfl) (.refl s)
  case copyBackStep => exact execCopyBackStep_after _ _ (.of_and_eq rfl) (.refl s)
  case promenadeStart => exact execPromenadeStart_after _ _ _ (.of_and_eq rfl) (.refl s)
  case setCreate => exact execSetCreate_after _ _ _ (.of_and_eq rfl) (.refl s)
  case setDelete => exact execSetDelete_after _ _ _ (.of_and_eq rfl) (.refl s)
  case promenadeMoveStart => exact execPromenadeMoveStart_after _ _ _ (.of_and_eq rfl) (.refl s)
  case promenadeCopyPassEnd => exact execPromenadeCopyPassEnd_after _ _ _ (.of_and_eq rfl) (.refl s)
  case promenadeCatchupDone => exact execPromenadeCatchupDone_after _ _ _ (.of_and_eq rfl) (.refl s)
  case promenadeOldRangeFree => exact execPromenadeOldRangeFree_after _ _ _ (.of_and_eq rfl) (.refl s)
  case promenadeFinalEpoch => exact execPromenadeFinalEpoch_after _ _ (.of_and_eq rfl) (.refl s)
  case promenadeDrainDone => exact execPromenadeDrainDone_after _ _ (.of_and_eq rfl) (.refl s)
  case energyMeasurement => exact execEnergyMeasurement_after _ _ (.of_and_eq rfl) (.refl s)
  case chargeComplete => exact execChargeComplete_after _ (.of_and_eq rfl) (.refl s)
  case chargeLevelDrop => exact execChargeLevelDrop_after _ (.of_and_eq rfl) (.refl s)
  case nrgTestRequest => exact execNrgTestRequest_after _ _ (.of_and_eq rfl) (.refl s)
  case capacityTestStart => exact execCapacityTestStart_after _ (.of_and_eq rfl) (.refl s)
  case capacityTestDone => exact execCapacityTestDone_after _ _ _ (.of_and_eq rfl) (.refl s)
  case storeFailure => exact execStoreFailure_after _ _ (.of_and_eq rfl) (.refl s)
  case powerFailDecision => exact execPowerFailDecision_after _ (.of_and_eq rfl) (.refl s)
  case quiesceComplete => exact execQuiesceComplete_after _ (.of_and_eq rfl) (.refl s)
  case destageSeal => exact execDestageSeal_after _ _ _ (.of_and_eq rfl) (.refl s)
  case decisionResetTimer => exact execDecisionResetTimer_after _ (.of_and_eq rfl) (.refl s)
  case vaultSelfCheck => exact execVaultSelfCheck_after _ (.of_and_eq rfl) (.refl s)
  case vaultRestore => exact execVaultRestore_after _ _ (.of_and_eq rfl) (.refl s)
  case sectionSummary => exact execSectionSummary_after _ _ (.of_and_eq rfl) (.refl s)
  case summaryTimeout => exact execSummaryTimeout_after _ (.of_and_eq rfl) (.refl s)
  case restoreInstall => exact execRestoreInstall_after _ _ _ (.of_and_eq rfl) (.refl s)
  case vaultRetire => exact execVaultRetire_after _ (.of_and_eq rfl) (.refl s)
  case vaultFault => exact execVaultFault_after _ (.of_and_eq rfl) (.refl s)
  case mapMirrorCopy => exact execMapMirrorCopy_after _ _ (.of_and_eq rfl) (.refl s)
  case linkEnable => exact execLinkEnable_after _ _ _ (.of_and_eq rfl) (.refl s)
  case linkTrained => exact execLinkTrained_after _ _ (.of_and_eq rfl) (.refl s)
  case trainingTimeout => exact execTrainingTimeout_after _ (.of_and_eq rfl) (.refl s)
  case trainingRetry => exact execTrainingRetry_after _ (.of_and_eq rfl) (.refl s)
  case fastRetrain => exact execFastRetrain_after _ (.of_and_eq rfl) (.refl s)
  case peerRemoved => exact execPeerRemoved_after _ _ (.of_and_eq rfl) (.refl s)
  case linkAckReceived => exact execLinkAckReceived_after _ _ _ _ (.of_and_eq rfl) (.refl s)
  case linkAckTimer => exact execLinkAckTimer_after _ (.of_and_eq rfl) (.refl s)
  case mirrorCopyReceived => exact execMirrorCopyReceived_after _ _ _ (.of_and_eq rfl) (.refl s)
  case windowWriteReceived => exact execWindowWriteReceived_after _ _ _ (.of_and_eq rfl) (.refl s)
  case messageReceived => exact execMessageReceived_after _ _ _ (.of_and_eq rfl) (.refl s)
  case stateCopyReceived => exact execStateCopyReceived_after _ _ _ _ (.of_and_eq rfl) (.refl s)
  case commitMarkerReceived => exact execCommitMarkerReceived_after _ _ _ (.of_and_eq rfl) (.refl s)
  case commitReceived => exact execCommitReceived_after _ _ (.of_and_eq rfl) (.refl s)
  case resendRequestReceived => exact execResendRequestReceived_after _ _ (.of_and_eq rfl) (.refl s)
  case resumeReceived => exact execResumeReceived_after _ _ _ (.of_and_eq rfl) (.refl s)
  case messageSendPost => exact execMessageSendPost_after _ _ _ _ (.of_and_eq rfl) (.refl s)
  case messageReceivePost => exact execMessageReceivePost_after _ _ _ _ (.of_and_eq rfl) (.refl s)
  case messageWithdraw => exact execMessageWithdraw_after _ _ (.of_and_eq rfl) (.refl s)
  case followLost => exact execFollowLost_after _ (.of_and_eq rfl) (.refl s)
  case leadSilenceTimeout => exact execLeadSilenceTimeout_after _ (.of_and_eq rfl) (.refl s)
  case leaseRenewal => exact execLeaseRenewal_after _ (.of_and_eq rfl) (.refl s)
  case renewalComplete => exact execRenewalComplete_after _ _ _ _ (.of_and_eq rfl) (.refl s)
  case leaseExpiry => exact execLeaseExpiry_after _ _ (.of_and_eq rfl) (.refl s)
  case peerSuspect => exact execPeerSuspect_after _ (.of_and_eq rfl) (.refl s)
  case cutInWaitEnd => exact execCutInWaitEnd_after _ (.of_and_eq rfl) (.refl s)
  case claimComplete => exact execClaimComplete_after _ _ _ (.of_and_eq rfl) (.refl s)
  case fence => exact execFence_after _ (.of_and_eq rfl) (.refl s)
  case fenceComplete => exact execFenceComplete_after _ _ _ (.of_and_eq rfl) (.refl s)
  case takeComplete => exact execTakeComplete_after _ (.of_and_eq rfl) (.refl s)
  case peerCycle => exact execPeerCycle_after _ (.of_and_eq rfl) (.refl s)
  case moduleFenced => exact execModuleFenced_after _ (.of_and_eq rfl) (.refl s)
  case standbySelfTest => exact execStandbySelfTest_after _ _ _ _ _ (.of_and_eq rfl) (.refl s)
  case handOver => exact execHandOver_after _ _ (.of_and_eq rfl) (.refl s)
  case handOverGranted => exact execHandOverGranted_after _ _ _ (.of_and_eq rfl) (.refl s)
  case handBack => exact execHandBack_after _ _ (.of_and_eq rfl) (.refl s)
  case witnessReplace => exact execWitnessReplace_after _ _ _ (.of_and_eq rfl) (.refl s)
  case ltkHandOverGroup => exact execLtkHandOverGroup_after _ _ _ (.of_and_eq rfl) (.refl s)
  case ltkHandOverAll => exact execLtkHandOverAll_after _ _ (.of_and_eq rfl) (.refl s)
  case ltkReleaseGroup => exact execLtkReleaseGroup_after _ _ _ (.of_and_eq rfl) (.refl s)
  case ltkAcquireGroup => exact execLtkAcquireGroup_after _ _ _ (.of_and_eq rfl) (.refl s)
  case ltkRunSelfTest => exact execLtkRunSelfTest_after _ _ (.of_and_eq rfl) (.refl s)
  case presenceChange => exact execPresenceChange_after _ _ (.of_and_eq rfl) (.refl s)
  case slotDebounceEnd => exact execSlotDebounceEnd_after _ _ (.of_and_eq rfl) (.refl s)
  case offListReceived => exact execOffListReceived_after _ _ (.of_and_eq rfl) (.refl s)
  case offListTimeout => exact execOffListTimeout_after _ (.of_and_eq rfl) (.refl s)
  case slotPoweringEnd => exact execSlotPoweringEnd_after _ _ (.of_and_eq rfl) (.refl s)
  case slotLinkUp => exact execSlotLinkUp_after _ _ _ (.of_and_eq rfl) (.refl s)
  case slotTrainingTimeout => exact execSlotTrainingTimeout_after _ _ (.of_and_eq rfl) (.refl s)
  case slotCheckComplete => exact execSlotCheckComplete_after _ _ _ (.of_and_eq rfl) (.refl s)
  case attentionPress => exact execAttentionPress_after _ _ _ (.of_and_eq rfl) (.refl s)
  case removalTimerEnd => exact execRemovalTimerEnd_after _ _ (.of_and_eq rfl) (.refl s)
  case containment => exact execContainment_after _ _ _ (.of_and_eq rfl) (.refl s)
  case surpriseRemoval => exact execSurpriseRemoval_after _ _ (.of_and_eq rfl) (.refl s)
  case peerSlotEvent => exact execPeerSlotEvent_after _ _ _ (.of_and_eq rfl) (.refl s)
  case slotPowerOn => exact execSlotPowerOn_after _ _ _ (.of_and_eq rfl) (.refl s)
  case slotOff => exact execSlotOff_after _ _ _ (.of_and_eq rfl) (.refl s)
  case slotForcedOff => exact execSlotForcedOff_after _ _ _ (.of_and_eq rfl) (.refl s)
  case slotRetrain => exact execSlotRetrain_after _ _ _ (.of_and_eq rfl) (.refl s)
  case slotPrepare => exact execSlotPrepare_after _ _ _ _ _ (.of_and_eq rfl) (.refl s)
  case memberCommandTimeout => exact execMemberCommandTimeout_after _ _ (.of_and_eq rfl) (.refl s)
  case memberCommandError => exact execMemberCommandError_after _ _ (.of_and_eq rfl) (.refl s)
  case sidebandPoll => exact execSidebandPoll_after _ _ _ (.of_and_eq rfl) (.refl s)
  case dirPerstDeassert => exact execDirPerstDeassert_after _ (.of_and_eq rfl) (.refl s)
  case dirPerstAssert => exact execDirPerstAssert_after _ (.of_and_eq rfl) (.refl s)
  case cablePresenceChange => exact execCablePresenceChange_after _ _ (.of_and_eq rfl) (.refl s)
  case configRequest => exact execConfigRequest_after _ _ _ _ _ _ (.of_and_eq rfl) (.refl s)
  case barAccess => exact execBarAccess_after _ _ _ _ _ (.of_and_eq rfl) (.refl s)
  case sqDoorbell => exact execSqDoorbell_after _ _ _ _ (.of_and_eq rfl) (.refl s)
  case directReadCompletion => exact execDirectReadCompletion_after _ _ _ (.of_and_eq rfl) (.refl s)
  case directCompletionTimeout => exact execDirectCompletionTimeout_after _ _ (.of_and_eq rfl) (.refl s)
  case busMasterEnableClear => exact execBusMasterEnableClear_after _ _ (.of_and_eq rfl) (.refl s)
  case busMasterEnableSet => exact execBusMasterEnableSet_after _ _ (.of_and_eq rfl) (.refl s)
  case functionLevelReset => exact execFunctionLevelReset_after _ _ (.of_and_eq rfl) (.refl s)
  case flrTimeout => exact execFlrTimeout_after _ _ (.of_and_eq rfl) (.refl s)
  case d3hotEntry => exact execD3hotEntry_after _ _ (.of_and_eq rfl) (.refl s)
  case d0Return => exact execD0Return_after _ _ (.of_and_eq rfl) (.refl s)
  case hotReset => exact execHotReset_after _ (.of_and_eq rfl) (.refl s)
  case functionQuiesced => exact execFunctionQuiesced_after _ _ (.of_and_eq rfl) (.refl s)
  case seatChange => exact execSeatChange_after _ _ _ (.of_and_eq rfl) (.refl s)
  case entryDebounceEnd => exact execEntryDebounceEnd_after _ _ (.of_and_eq rfl) (.refl s)
  case rampComplete => exact execRampComplete_after _ (.of_and_eq rfl) (.refl s)
  case qualificationComplete => exact execQualificationComplete_after _ _ (.of_and_eq rfl) (.refl s)
  case railSequence => exact execRailSequence_after _ (.of_and_eq rfl) (.refl s)
  case currentLimitEngage => exact execCurrentLimitEngage_after _ (.of_and_eq rfl) (.refl s)
  case currentLimitClear => exact execCurrentLimitClear_after _ (.of_and_eq rfl) (.refl s)
  case faultTimerExpiry => exact execFaultTimerExpiry_after _ _ _ (.of_and_eq rfl) (.refl s)
  case fastTrip => exact execFastTrip_after _ _ _ (.of_and_eq rfl) (.refl s)
  case entryOpening => exact execEntryOpening_after _ _ _ _ (.of_and_eq rfl) (.refl s)
  case entryLatchClear => exact execEntryLatchClear_after _ _ (.of_and_eq rfl) (.refl s)
  case entryRestart => exact execEntryRestart_after _ _ (.of_and_eq rfl) (.refl s)
  case moduleOff => exact execModuleOff_after _ (.of_and_eq rfl) (.refl s)
  case biasLoss => exact execBiasLoss_after _ (.of_and_eq rfl) (.refl s)
  case peerCycleRelease => exact execPeerCycleRelease_after _ (.of_and_eq rfl) (.refl s)
  case keyGenerate => exact execKeyGenerate_after _ _ _ (.of_and_eq rfl) (.refl s)
  case keyUnwrap => exact execKeyUnwrap_after _ _ _ (.of_and_eq rfl) (.refl s)
  case keyZeroise => exact execKeyZeroise_after _ _ _ (.of_and_eq rfl) (.refl s)
  case keyDerivePair => exact execKeyDerivePair_after _ _ (.of_and_eq rfl) (.refl s)
  case kekRatchet => exact execKekRatchet_after _ _ (.of_and_eq rfl) (.refl s)
  case highWaterLoad => exact execHighWaterLoad_after _ _ _ (.of_and_eq rfl) (.refl s)
  case slotStatusRead => exact execSlotStatusRead_after _ _ _ (.of_and_eq rfl) (.refl s)
  case kekImport => exact execKekImport_after _ _ (.of_and_eq rfl) (.refl s)
  case mcpPacketReceived => exact execMcpPacketReceived_after _ _ _ _ _ (.of_and_eq rfl) (.refl s)
  case mcpReqDoorbell => exact execMcpReqDoorbell_after _ _ _ (.of_and_eq rfl) (.refl s)
  case mcpRplRdyClear => exact execMcpRplRdyClear_after _ _ _ (.of_and_eq rfl) (.refl s)
  case mcpNtcTailWrite => exact execMcpNtcTailWrite_after _ _ _ (.of_and_eq rfl) (.refl s)
  case fragmentTimeout => exact execFragmentTimeout_after _ _ _ (.of_and_eq rfl) (.refl s)
  case getIdentity => exact execGetIdentity_after _ _ (.of_and_eq rfl) (.refl s)
  case getChallenge => exact execGetChallenge_after _ _ (.of_and_eq rfl) (.refl s)
  case getEntryRecord => exact execGetEntryRecord_after _ _ (.of_and_eq rfl) (.refl s)
  case sessionOpen => exact execSessionOpen_after _ _ (.of_and_eq rfl) (.refl s)
  case sessionReset => exact execSessionReset_after _ _ _ (.of_and_eq rfl) (.refl s)
  case sessionList => exact execSessionList_after _ _ _ (.of_and_eq rfl) (.refl s)
  case noticeSubscribe => exact execNoticeSubscribe_after _ _ _ (.of_and_eq rfl) (.refl s)
  case getNotices => exact execGetNotices_after _ _ _ (.of_and_eq rfl) (.refl s)
  case moduleStatus => exact execModuleStatus_after _ _ _ (.of_and_eq rfl) (.refl s)
  case logPageRead => exact execLogPageRead_after _ _ _ (.of_and_eq rfl) (.refl s)
  case faultRecordsRead => exact execFaultRecordsRead_after _ _ _ (.of_and_eq rfl) (.refl s)
  case longOperationStatus => exact execLongOperationStatus_after _ _ _ (.of_and_eq rfl) (.refl s)
  case leadCommand => exact execLeadCommand_after _ _ _ (.of_and_eq rfl) (.refl s)
  case slotCommand => exact execSlotCommand_after _ _ _ _ _ (.of_and_eq rfl) (.refl s)
  case layoutCommand => exact execLayoutCommand_after _ _ _ (.of_and_eq rfl) (.refl s)
  case moduleReset => exact execModuleReset_after _ _ _ (.of_and_eq rfl) (.refl s)
  case powerCycle => exact execPowerCycle_after _ _ _ (.of_and_eq rfl) (.refl s)
  case setPowerState => exact execSetPowerState_after _ _ _ _ (.of_and_eq rfl) (.refl s)
  case shelfBudget => exact execShelfBudget_after _ _ _ (.of_and_eq rfl) (.refl s)
  case firmwareDownload => exact execFirmwareDownload_after _ _ _ (.of_and_eq rfl) (.refl s)
  case mcpFirmwareCommit => exact execMcpFirmwareCommit_after _ _ _ (.of_and_eq rfl) (.refl s)
  case groupPolicy => exact execGroupPolicy_after _ _ _ (.of_and_eq rfl) (.refl s)
  case setMeasureLength => exact execSetMeasureLength_after _ _ _ (.of_and_eq rfl) (.refl s)
  case twoStepPropose => exact execTwoStepPropose_after _ _ _ (.of_and_eq rfl) (.refl s)
  case twoStepConfirm => exact execTwoStepConfirm_after _ _ _ (.of_and_eq rfl) (.refl s)
  case twoStepWithdraw => exact execTwoStepWithdraw_after _ _ _ (.of_and_eq rfl) (.refl s)
  case twoStepStatus => exact execTwoStepStatus_after _ _ _ (.of_and_eq rfl) (.refl s)
  case sessionIdleTimeout => exact execSessionIdleTimeout_after _ _ (.of_and_eq rfl) (.refl s)
  case requestTimeout => exact execRequestTimeout_after _ _ _ (.of_and_eq rfl) (.refl s)
  case proposalExpiry => exact execProposalExpiry_after _ _ (.of_and_eq rfl) (.refl s)
  case setupDigestExchange => exact execSetupDigestExchange_after _ _ _ _ _ (.of_and_eq rfl) (.refl s)
  case spdmGetVersion => exact execSpdmGetVersion_after _ _ (.of_and_eq rfl) (.refl s)
  case spdmGetCapabilities => exact execSpdmGetCapabilities_after _ _ (.of_and_eq rfl) (.refl s)
  case spdmNegotiateAlgorithms => exact execSpdmNegotiateAlgorithms_after _ _ (.of_and_eq rfl) (.refl s)
  case spdmGetDigests => exact execSpdmGetDigests_after _ _ (.of_and_eq rfl) (.refl s)
  case spdmGetCertificate => exact execSpdmGetCertificate_after _ _ _ _ _ (.refl s)
  case spdmChallenge => exact execSpdmChallenge_after _ _ _ (.of_and_eq rfl) (.refl s)
  case spdmGetMeasurements => exact execSpdmGetMeasurements_after _ _ _ (.of_and_eq rfl) (.refl s)
  case phraseDecision => exact execPhraseDecision_after _ _ _ _ _ (.of_and_eq rfl) (.refl s)
  case avsAck => exact execAvsAck_after _ _ (.of_and_eq rfl) (.refl s)
  case avsTimeout => exact execAvsTimeout_after _ _ (.of_and_eq rfl) (.refl s)
  case domainIdleGate => exact execDomainIdleGate_after _ _ _ (.of_and_eq rfl) (.refl s)
  case domainIdleOff => exact execDomainIdleOff_after _ _ _ (.of_and_eq rfl) (.refl s)
  case handshakeDelayExpiry => exact execHandshakeDelayExpiry_after _ _ _ (.of_and_eq rfl) (.refl s)
  case domainWake => exact execDomainWake_after _ _ (.of_and_eq rfl) (.refl s)
  case pwrWakeDomain => exact execPwrWakeDomain_after _ _ _ (.of_and_eq rfl) (.refl s)
  case pwrPowerOffDomain => exact execPwrPowerOffDomain_after _ _ _ _ (.of_and_eq rfl) (.refl s)
  case pwrEnterDormant => exact execPwrEnterDormant_after _ _ _ (.of_and_eq rfl) (.refl s)
  case dormantWake => exact execDormantWake_after _ _ (.of_and_eq rfl) (.refl s)
  case analogSample => exact execAnalogSample_after _ _ _ (.of_and_eq rfl) (.refl s)
  case digitalInputChange => exact execDigitalInputChange_after _ _ _ (.of_and_eq rfl) (.refl s)
  case ruleSweep => exact execRuleSweep_after _ (.of_and_eq rfl) (.refl s)
  case ruleCtlWrite => exact execRuleCtlWrite_after _ _ _ _ (.of_and_eq rfl) (.refl s)
  case cycleArm => exact execCycleArm_after _ _ (.of_and_eq rfl) (.refl s)
  case cycleGo => exact execCycleGo_after _ _ (.of_and_eq rfl) (.refl s)
  case peerWakePulse => exact execPeerWakePulse_after _ _ (.of_and_eq rfl) (.refl s)
  case wakePulse => exact execWakePulse_after _ (.of_and_eq rfl) (.refl s)
  case wakeTimerExpiry => exact execWakeTimerExpiry_after _ (.of_and_eq rfl) (.refl s)
  case partitionStart => exact execPartitionStart_after _ _ _ (.of_and_eq rfl) (.refl s)
  case partitionReset => exact execPartitionReset_after _ _ _ (.of_and_eq rfl) (.refl s)
  case partitionResetComplete => exact execPartitionResetComplete_after _ _ (.of_and_eq rfl) (.refl s)
  case l1dClean => exact execL1dClean_after _ _ _ _ (.of_and_eq rfl) (.refl s)
  case l1dCleanInvalidate => exact execL1dCleanInvalidate_after _ _ _ _ (.of_and_eq rfl) (.refl s)
  case l1iInvalidate => exact execL1iInvalidate_after _ _ _ _ (.of_and_eq rfl) (.refl s)
  case clusterClean => exact execClusterClean_after _ _ _ (.of_and_eq rfl) (.refl s)
  case clusterCleanInvalidate => exact execClusterCleanInvalidate_after _ _ _ (.of_and_eq rfl) (.refl s)
  case cacheFillReturn => exact execCacheFillReturn_after _ _ _ (.of_and_eq rfl) (.refl s)
  case victimWritebackAck => exact execVictimWritebackAck_after _ _ _ (.of_and_eq rfl) (.refl s)
  case cboOperation => exact execCboOperation_after _ _ _ _ (.of_and_eq rfl) (.refl s)
  case ewqDoorbell => exact execEwqDoorbell_after _ _ _ _ (.of_and_eq rfl) (.refl s)
  case ewqEnable => exact execEwqEnable_after _ _ _ (.of_and_eq rfl) (.refl s)
  case ewqDisable => exact execEwqDisable_after _ _ _ (.of_and_eq rfl) (.refl s)
  case ewqInvalidate => exact execEwqInvalidate_after _ _ _ (.of_and_eq rfl) (.refl s)
  case ewqInvalidateDone => exact execEwqInvalidateDone_after _ _ (.of_and_eq rfl) (.refl s)
  case ewqReset => exact execEwqReset_after _ _ _ (.of_and_eq rfl) (.refl s)
  case ewqCopy => exact execEwqCopy_after _ _ (.of_and_eq rfl) (.refl s)
  case ewqParity => exact execEwqParity_after _ _ (.of_and_eq rfl) (.refl s)
  case ewqParityCheck => exact execEwqParityCheck_after _ _ (.of_and_eq rfl) (.refl s)
  case ewqXtsEncrypt => exact execEwqXtsEncrypt_after _ _ (.of_and_eq rfl) (.refl s)
  case ewqXtsDecrypt => exact execEwqXtsDecrypt_after _ _ (.of_and_eq rfl) (.refl s)
  case ewqGcmEncrypt => exact execEwqGcmEncrypt_after _ _ (.of_and_eq rfl) (.refl s)
  case ewqGcmDecrypt => exact execEwqGcmDecrypt_after _ _ (.of_and_eq rfl) (.refl s)
  case ewqGmac => exact execEwqGmac_after _ _ (.of_and_eq rfl) (.refl s)
  case ewqKeyCommand => exact execEwqKeyCommand_after _ _ (.of_and_eq rfl) (.refl s)
  case ewqDescriptorComplete => exact execEwqDescriptorComplete_after _ _ _ (.of_and_eq rfl) (.refl s)
  case ewqReadTimeout => exact execEwqReadTimeout_after _ _ _ _ (.of_and_eq rfl) (.refl s)
  case parityError => exact execParityError_after _ _ _ _ _ (.of_and_eq rfl) (.refl s)
  case recoveryComplete => exact execRecoveryComplete_after _ _ _ (.of_and_eq rfl) (.refl s)
  case peerCopyRequest => exact execPeerCopyRequest_after _ _ _ _ _ (.of_and_eq rfl) (.refl s)
  case peerRestoreTimeout => exact execPeerRestoreTimeout_after _ _ (.of_and_eq rfl) (.refl s)
  case memorySweep => exact execMemorySweep_after _ _ _ _ (.of_and_eq rfl) (.refl s)
  case bucketLeak => exact execBucketLeak_after _ (.of_and_eq rfl) (.refl s)
  case minTestArm => exact execMinTestArm_after _ _ _ (.of_and_eq rfl) (.refl s)
  case minTestExpiry => exact execMinTestExpiry_after _ (.of_and_eq rfl) (.refl s)
  case watchdogRestart => exact execWatchdogRestart_after _ _ _ (.of_and_eq rfl) (.refl s)
  case watchdogExpiry => exact execWatchdogExpiry_after _ (.of_and_eq rfl) (.refl s)
  case fltStep3Handover => exact execFltStep3Handover_after _ _ (.of_and_eq rfl) (.refl s)
  case fltStep3 => exact execFltStep3_after _ _ (.of_and_eq rfl) (.refl s)
  case fltStep4 => exact execFltStep4_after _ _ (.of_and_eq rfl) (.refl s)
  case latchCopy => exact execLatchCopy_after _ (.of_and_eq rfl) (.refl s)
  case startupEscalation => exact execStartupEscalation_after _ (.of_and_eq rfl) (.refl s)
  case positionMismatch => exact execPositionMismatch_after _ (.of_and_eq rfl) (.refl s)
  case pmcCounterPreset => exact execPmcCounterPreset_after _ _ _ _ (.of_and_eq rfl) (.refl s)
  case monitorWindowEnd => exact execMonitorWindowEnd_after _ _ (.of_and_eq rfl) (.refl s)
  case monitorClear => exact execMonitorClear_after _ _ _ (.of_and_eq rfl) (.refl s)
  case coreAccess => exact execCoreAccess_after _ _ _ (.of_and_eq rfl) (.refl s)
  case entryStartConditionChange => exact execEntryStartConditionChange_after _ _ _ (.of_and_eq rfl) (.refl s)
  case slotDebounceBreak => exact execSlotDebounceBreak_after _ _ (.of_and_eq rfl) (.refl s)
  case peerSeated => exact execPeerSeated_after _ (.of_and_eq rfl) (.refl s)
  case fastRetrainFail => exact execFastRetrainFail_after _ (.of_and_eq rfl) (.refl s)
  case directLinkUp => exact execDirectLinkUp_after _ _ _ _ (.of_and_eq rfl) (.refl s)
  case functionResetTimeout => exact execFunctionResetTimeout_after _ _ (.of_and_eq rfl) (.refl s)
  case connectionReject => exact execConnectionReject_after _ _ (.of_and_eq rfl) (.refl s)
  case challengeExpiry => exact execChallengeExpiry_after _ (.of_and_eq rfl) (.refl s)
  case handOverTimeout => exact execHandOverTimeout_after _ _ (.of_and_eq rfl) (.refl s)
  case tokenRecordReadComplete => exact execTokenRecordReadComplete_after _ _ (.of_and_eq rfl) (.refl s)
  case cutInReread => exact execCutInReread_after _ (.of_and_eq rfl) (.refl s)
  case leadTokenTry => exact execLeadTokenTry_after _ _ _ (.of_and_eq rfl) (.refl s)
  case deletedExtentDeallocate => exact execDeletedExtentDeallocate_after _ _ _ (.of_and_eq rfl) (.refl s)

/-- A command leaves the parts that it does not touch. -/
theorem exec_keeps_untouched {c : Instr} {s t : State} {p : Part} (h : exec c s = .next t) (n : p ∉ c.touches) : p.same s t :=
  (exec_after c s t h).2.2.2 p (partMask_testBit_of_not_mem n)

end Sys2Proof.Machine
end

section
/-! How a command reaches the module: it acts whatever the SoC does, or while the SoC runs. -/

set_option Elab.async false

namespace Sys2Proof.Machine

/-! How a command reaches the module. -/

theorem onSoc_of_not_running {s : State} (h : s.running = false) (f : State → State) : onSoc s f = .next s :=
  congrArg Host.Outcome.next (if_neg (ne_true_of_eq_false h))

theorem onSoc_of_running {s : State} (h : s.running = true) (f : State → State) : onSoc s f = .next (f s) :=
  congrArg Host.Outcome.next (if_pos h)

/-- A command of the always-on domain acts whatever the SoC does, every other one while the SoC runs. -/
theorem exec_reaches (c : Instr) (s : State) :
    (c.reachesAlwaysOn = true ∧ ∃ f, exec c s = onAlways s f) ∨ (∃ f, exec c s = onData s f) ∨ ∃ f, exec c s = onSoc s f := by
  cases c <;> dsimp only [exec]
  case pllLock | seatChange | entryStartConditionChange | entryDebounceEnd | rampComplete | qualificationComplete |
    railSequence | currentLimitEngage | currentLimitClear | faultTimerExpiry | fastTrip | entryOpening | entryLatchClear |
    entryRestart | moduleOff | biasLoss | peerCycleRelease | energyMeasurement | chargeComplete | chargeLevelDrop |
    capacityTestDone | storeFailure | powerFailDecision | quiesceComplete | destageSeal | decisionResetTimer | dormantWake
    | analogSample | digitalInputChange | ruleSweep | cycleArm | cycleGo | peerWakePulse | wakePulse | wakeTimerExpiry |
    mcpPacketReceived | spdmGetVersion | spdmGetCapabilities | spdmNegotiateAlgorithms | spdmGetDigests |
    spdmGetCertificate | spdmChallenge | spdmGetMeasurements | dirPerstDeassert | dirPerstAssert | cablePresenceChange |
    positionMismatch | coldReset | moduleResetTaken | rootClockFault =>
    exact .inl ⟨rfl, _, rfl⟩
  case stripPost | memberWriteComplete | memberReadComplete | stripeClose | journalBlockWrite | rebuildStep |
    rebuildStepComplete | memberFailed | lostMapWrite | lostMapDurable | journalRehome | repairStep | scrubStep |
    replacementAccept | copyBackStep | deletedExtentDeallocate | promenadeMoveStart | promenadeCopyPassEnd |
    promenadeCatchupDone | promenadeOldRangeFree | unknownIoOpcode | restoreInstall | journalRecovery | mapMirrorCopy |
    linkTrained | trainingTimeout | fastRetrain | fastRetrainFail | mirrorCopyAccept | commitReceived | followLost |
    removalTimerEnd | containment | surpriseRemoval | peerSlotEvent | slotOff | slotForcedOff | memberCommandTimeout |
    memberCommandError | renewalComplete | leaseExpiry | moduleFenced | fenceComplete | handOver | handBack |
    ltkHandOverGroup | ltkHandOverAll | ltkReleaseGroup | firmwareActivation | pwrEnterDormant | moduleReset |
    setPowerState | hotReset | configRequest | busMasterEnableClear | busMasterEnableSet | functionLevelReset | d3hotEntry
    | d0Return | functionQuiesced | sqDoorbell | directReadCompletion | directCompletionTimeout | fltStep3Handover |
    functionResetTimeout | parityError | recoveryComplete | peerRestoreTimeout | memorySweep | plainRegisterWrite |
    directHostRegisterAccess | barAccess | registerWrite | flush | write | read | compare | writeZeroes | verify |
    datasetManagement | reservationRegister | reservationReport | reservationAcquire | reservationRelease | copy |
    commandSlotGrant | rangeLockGrant | dirtyRoomGrant | readDurableResume | controllerReset | keepAliveExpiry |
    shutdownComplete | measureBoundary | boundaryWindowEnd | memoryFillComplete | formatNvm | sanitizeBlockErase |
    sanitizeOverwrite | sanitizeCryptoErase | sanitizeExitFailureMode | walkUnitComplete | progressRecordDurable |
    walkResume =>
    exact .inr (.inl ⟨_, rfl⟩)
  all_goals exact .inr (.inr ⟨_, rfl⟩)

/-- Settles O6: a command of either reach answers a next state. -/
theorem everyCommandAnswersNextState : Obligations.EveryCommandAnswersNextState := by
  intro c s
  obtain ⟨_, f, h⟩ | ⟨f, h⟩ | ⟨f, h⟩ := exec_reaches c s <;> exact ⟨_, h⟩

/-- Settles O7: a command outside the always-on domain reaches the SoC only. -/
theorem heldModuleIgnoresSocCommands : Obligations.HeldModuleIgnoresSocCommands := by
  intro c s hheld hsoc
  obtain ⟨halways, _⟩ | ⟨f, h⟩ | ⟨f, h⟩ := exec_reaches c s
  · exact absurd (halways.symm.trans hsoc) (by decide)
  · rw [h, onData, onSoc_of_not_running hheld]
  · rw [h, onSoc_of_not_running hheld]

end Sys2Proof.Machine
end

section
/-! What every command and every step keeps: the frames, the queue, the outputs and the canonical form; and a step on an empty
queue. -/

set_option Elab.async false

namespace Sys2Proof.Machine

/-! The frames, family by family: `exec_keeps_untouched` holds of every command. -/

/-- Settles O47. -/
theorem registerClockAndCounterFrames : Obligations.RegisterClockAndCounterFrames := fun _ _ _ _ _ h n => exec_keeps_untouched h n

/-- Settles O48. -/
theorem entryWallflowerAndPowerFrames : Obligations.EntryWallflowerAndPowerFrames := fun _ _ _ _ _ h n => exec_keeps_untouched h n

/-- Settles O49. -/
theorem clusterCipherAndEngineFrames : Obligations.ClusterCipherAndEngineFrames := fun _ _ _ _ _ h n => exec_keeps_untouched h n

/-- Settles O50. -/
theorem linkAndTokenFrames : Obligations.LinkAndTokenFrames := fun _ _ _ _ _ h n => exec_keeps_untouched h n

/-- Settles O51. -/
theorem layoutAndMemberFrames : Obligations.LayoutAndMemberFrames := fun _ _ _ _ _ h n => exec_keeps_untouched h n

/-- Settles O52. -/
theorem switchAndGateFrames : Obligations.SwitchAndGateFrames := fun _ _ _ _ _ h n => exec_keeps_untouched h n

/-- Settles O53. -/
theorem walkProposalAndSlotFrames : Obligations.WalkProposalAndSlotFrames := fun _ _ _ _ _ h n => exec_keeps_untouched h n

/-- Settles O54. -/
theorem energyVaultAndManagementFrames : Obligations.EnergyVaultAndManagementFrames := fun _ _ _ _ _ h n => exec_keeps_untouched h n

/-- Settles O55. -/
theorem directHostIoAndRdmaFrames : Obligations.DirectHostIoAndRdmaFrames := fun _ _ _ _ _ h n => exec_keeps_untouched h n

/-- Settles O56. -/
theorem adminCommandFrames : Obligations.AdminCommandFrames := fun _ _ _ _ _ h n => exec_keeps_untouched h n

/-! The canonical form, the queue and the outputs. -/

/-- Settles O5: what `exec_after` says of the queue and the outputs. -/
theorem execKeepsQueueAndOutputs : Obligations.ExecKeepsQueueAndOutputs := fun c s t h =>
  have ⟨_, hqueue, hout, _⟩ := exec_after c s t h
  ⟨hqueue, hout⟩

/-- Settles O1. -/
theorem stepRunsFrontCommand : Obligations.StepRunsFrontCommand := fun _ _ _ => rfl

theorem step_of_empty_queue {s : State} (h : s.pending = []) : step s = .next s.idle := by rw [step, h]

theorem step_of_command {s : State} {c : Instr} {rest : List Instr} (h : s.pending = c :: rest) :
    step s = exec c { s with pending := rest } := by rw [step, h]

/-- Settles O4: the front command, or the cycle that passes, keeps the canonical form. -/
theorem stepKeepsCanonicalForm : Obligations.StepKeepsCanonicalForm := by
  intro s t hcanonical hstep
  match hqueue : s.pending with
  | [] =>
    rw [step_of_empty_queue hqueue] at hstep
    obtain ⟨hkeeps, _⟩ : After (partMask Part.everything) s t :=
      AfterOut.ofNext (State.idle_after s (.of_and_eq rfl) (.refl s)) t hstep
    exact hkeeps hcanonical
  | c :: rest =>
    rw [step_of_command hqueue] at hstep
    obtain ⟨hkeeps, _⟩ := exec_after c { s with pending := rest } t hstep
    exact hkeeps hcanonical

/-- Settles O3: nothing is listed in the register file and the memory of the reset state. -/
theorem resetIsCanonical : Obligations.ResetIsCanonical :=
  ⟨⟨⟨.nil, fun _ h => nomatch h⟩, ⟨.nil, fun _ h => nomatch h⟩⟩, rfl, rfl⟩

/-! A step on an empty queue. -/

/-- A counter changes registers and what the module sends, nothing else. -/
theorem State.addCounter_keeps {β : Type} (π : State → β) (kr : ∀ s a v, π (State.setReg s a v) = π s)
    (ke : ∀ s o, π (State.emit s o) = π s) (s : State) (i n : Nat) : π (s.addCounter i n) = π s := by
  unfold State.addCounter
  dsimp only
  repeat' split
  all_goals simp only [ke, kr]

theorem State.levelCycles_keeps {β : Type} (π : State → β) (kr : ∀ s a v, π (State.setReg s a v) = π s)
    (ke : ∀ s o, π (State.emit s o) = π s) (s : State) (n : Nat) : π (s.levelCycles n) = π s := by
  unfold State.levelCycles
  split
  · rfl
  · refine State.each_keeps π (fun i s => ?_) s _
    split
    · exact State.addCounter_keeps π kr ke s i n
    · rfl

theorem State.tick_mem (s : State) : s.tick.mem = s.mem := by
  unfold State.tick
  split
  · exact (State.levelCycles_keeps State.mem (fun _ _ _ => rfl) (fun _ _ => rfl) _ 1).trans (s.onClock_mem _)
  · rfl

theorem State.tick_pending (s : State) : s.tick.pending = s.pending := by
  unfold State.tick
  split
  · exact (State.levelCycles_keeps State.pending (fun _ _ _ => rfl) (fun _ _ => rfl) _ 1).trans (s.onClock_pending _)
  · rfl

theorem Clock.fixed_setFixed (c : Clock) (t : Nat) : (c.setFixed t).fixed = t % 2 ^ 96 := by
  simp only [Clock.setFixed, Clock.fixed, BitVec.toNat_ofNat]
  omega

theorem State.tick_clock (s : State) : s.tick.clock =
    if s.flag (CLK_DOM.RUN 21) then s.clock.setFixed (s.clock.fixed + tickAmount s.rate) else s.clock := by
  unfold State.tick
  split
  · exact (State.levelCycles_keeps State.clock (fun _ _ _ => rfl) (fun _ _ => rfl) _ 1).trans (s.onClock_clock _)
  · rfl

/-- No boundary and no end of a window falls due: the cycle is one of the counter only. -/
theorem State.idle_of_nothing_due {s : State} (hgrid : s.gridRuns = true → s.tick.now < (s.measure + 1) * s.measureNs)
    (hwindow : s.clock.windowOpen = true → s.tick.now < s.clock.windowEnd) : s.idle = s.tick := by
  have hboundary : ¬ (s.running && s.gridRuns && Decidable.decide ((s.measure + 1) * s.measureNs ≤ s.tick.now)) = true := by
    simp only [Bool.and_eq_true, decide_eq_true_eq]
    exact fun ⟨⟨_, hg⟩, hdue⟩ => absurd (hgrid hg) (Nat.not_lt.mpr hdue)
  have hend : ¬ (s.running && s.clock.windowOpen && Decidable.decide (s.clock.windowEnd ≤ s.tick.now)) = true := by
    simp only [Bool.and_eq_true, decide_eq_true_eq]
    exact fun ⟨⟨_, hw⟩, hdue⟩ => absurd (hwindow hw) (Nat.not_lt.mpr hdue)
  exact (if_neg hboundary).trans (if_neg hend)

/-- The next boundary of the running grid falls due: the cycle is that boundary. -/
theorem State.idle_of_boundary_due {s : State} (hrunning : s.running = true) (hgrid : s.gridRuns = true)
    (hdue : (s.measure + 1) * s.measureNs ≤ s.tick.now) : s.idle = after (execMeasureBoundary s) s := by
  refine if_pos ?_
  simp only [hrunning, hgrid, decide_eq_true hdue, Bool.and_self]

/-- Settles O2: the two cases of `State.idle`. -/
theorem stepOfEmptyQueueIsOneCycle : Obligations.StepOfEmptyQueueIsOneCycle := by
  refine ⟨fun s hqueue hgrid hwindow => ⟨s.tick, ?_, ?_, s.tick_mem, ?_⟩, fun s hqueue hrunning hgrid hdue => ?_⟩
  · rw [step_of_empty_queue hqueue, State.idle_of_nothing_due hgrid hwindow]
  · rw [s.tick_pending, hqueue]
  · rw [s.tick_clock]
    split
    · exact Clock.fixed_setFixed _ _
    · rfl
  · rw [step_of_empty_queue hqueue, State.idle_of_boundary_due hrunning hgrid hdue]
    rfl

end Sys2Proof.Machine
end

section
/-! Reading rules for the proofs of the commands' effects: fields after writes, registers that a plain write leaves alone, and what
the frame of an operation says of one register. -/

set_option Elab.async false

namespace Sys2Proof.Machine

theorem onData_of_running {s : State} (h : s.running = true) (f : State → State) : onData s f = .next (f s).runJobs :=
  onSoc_of_running h _

/-! Fields after writes. -/

/-- A write of a field leaves those of other registers, and those of its own that share no bit with it. -/
theorem State.rd_wr_ne {s : State} {f g : Fld} {v : Nat} (h : g.addr ≠ f.addr ∨ f.inWord ∧ (g.hi < f.lo ∨ f.hi < g.lo)) :
    (s.wr f v).rd g = s.rd g := by
  obtain h | ⟨hf, h⟩ := h
  · exact State.rd_wr_addr h
  · exact State.rd_wr_bits hf h

/-- A field reads as the number written to it, where that fits. -/
theorem State.rd_wr_fits {s : State} {f : Fld} {v : Nat} (h : f.inWord) (w : v < 2 ^ (f.hi + 1 - f.lo)) : (s.wr f v).rd f = v := by
  rw [State.rd_wr_self h, Nat.mod_eq_of_lt w]

@[simp] theorem State.wrs_nil (s : State) : s.wrs [] = s := (rfl)

@[simp] theorem State.wrs_cons (s : State) (f : Fld) (v : Nat) (l : List (Fld × Nat)) : s.wrs ((f, v) :: l) = (s.wr f v).wrs l := (rfl)

@[simp] theorem State.rd_emit (s : State) (o : Output) (f : Fld) : (s.emit o).rd f = s.rd f := (rfl)

@[simp] theorem State.reg_emit (s : State) (o : Output) (a : Nat) : (s.emit o).reg a = s.reg a := (rfl)

@[simp] theorem State.count_mem (s : State) (a n : Nat) : (s.count a n).mem = s.mem := (rfl)

@[simp] theorem State.count_out (s : State) (a n : Nat) : (s.count a n).out = s.out := (rfl)

/-! Command registers. -/

/-- A plain write of CIP_KCMD stores SLOT. -/
theorem State.written_CIP_KCMD (s : State) (v : Word) : s.written CIP_KCMD.addr v = s.wr CIP_KCMD.SLOT (extractBits v.toNat 13 0) := by
  rfl

/-- Every field of the register at `a` has a command of its own or cannot be written, so that a plain write stores nothing. -/
def quietRegister (a : Nat) : Bool :=
  match findReg a with
  | some h => h.row.fields.all (fun f => (f.own && !(h.row.wide && !h.high && f.acc == .rw && h.block != 0x0A)) || f.acc == .ro ||
      f.acc == .rc || f.acc == .wo || f.acc == .rwt) && !(h.is FLT_STAT.addr || h.is (PMC_SEL.addr 0) || h.block == 0x05)
  | none => true

theorem State.written_of_quiet {a : Nat} (q : quietRegister a = true) (s : State) (v : Word) : s.written a v = s := by
  unfold quietRegister at q
  split at q
  next h hfind =>
    rw [Bool.and_eq_true, Bool.not_eq_true'] at q
    exact State.written_quiet hfind q.1 q.2
  next hfind => simp only [State.written, hfind]

/-- A write of such a register has the command act on the state as it was. -/
theorem State.commandWrite_quiet {s : State} {who : Requester} {a : Nat} {v : Word} {act : State → State}
    (q : quietRegister a = true) (o : s.Opens who a) : s.commandWrite who a v act = (act s).answered who a v := by
  rw [State.commandWrite_opens o, State.written_of_quiet q]

end Sys2Proof.Machine
end

section
/-! The lock state machine (Table 2.5). -/

set_option Elab.async false

namespace Sys2Proof.Machine

theorem lockAfterOffset_lt {lock : Nat} (h : lock < 8) (inTol : Bool) (count : Nat) : lockAfterOffset lock inTol count < 8 := by
  unfold lockAfterOffset
  repeat' split
  all_goals first | exact h | decide

/-! Table 2.5: the sixteenth write in tolerance locks, one out of tolerance unlocks. -/

theorem lockAfterOffset_in_of_acquiring {lock : Nat} (n : Nat) (h : lock = lockAcquiring ∨ lock = lockUnlocked) :
    lockAfterOffset lock true (min 16 (n + 1)) = if 15 ≤ n then lockLocked else lock := by
  have hcount : min 16 (n + 1) = 16 ↔ 15 ≤ n := by omega
  obtain rfl | rfl := h <;> simp [lockAfterOffset, lockIdle, lockAcquiring, lockHoldover, lockUnlocked, hcount]

theorem lockAfterOffset_in_of_locked {lock : Nat} (n : Nat) (h : lock = lockLocked ∨ lock = lockHoldover) :
    lockAfterOffset lock true n = lockLocked := by
  obtain rfl | rfl := h <;> simp [lockAfterOffset, lockIdle, lockAcquiring, lockLocked, lockHoldover, lockUnlocked]

theorem lockAfterOffset_out_of_locked {lock : Nat} (n : Nat) (h : lock = lockLocked ∨ lock = lockHoldover) :
    lockAfterOffset lock false n = lockAcquiring := by
  obtain rfl | rfl := h <;> rfl

theorem lockAfterOffset_out_of_acquiring {lock : Nat} (n : Nat) (h : lock = lockAcquiring ∨ lock = lockUnlocked) :
    lockAfterOffset lock false n = lock := by
  obtain rfl | rfl := h <;> rfl

theorem State.rd_lt (s : State) (f : Fld) : s.rd f < 2 ^ (f.hi + 1 - f.lo) := Nat.mod_lt _ (Nat.two_pow_pos _)

/-- The count of consecutive writes in tolerance after one more. -/
def State.countAfterOffset (s : State) (offset : Word) : Nat :=
  if s.inTolerance offset then min 16 (s.rd MEAS_STAT.INTOL + 1) else 0

theorem State.offsetWritten_idle {s : State} (h : s.rd MEAS_STAT.STATE = lockIdle) (offset : Word) :
    s.offsetWritten offset = s.wr MEAS_OFFS.OFFS offset.toNat := if_pos h

theorem State.offsetWritten_locking {s : State} (h : s.rd MEAS_STAT.STATE ≠ lockIdle) (offset : Word) :
    s.offsetWritten offset = ((s.wr MEAS_OFFS.OFFS offset.toNat).wrs [(MEAS_STAT.INTOL, s.countAfterOffset offset),
      (MEAS_STAT.STATE, lockAfterOffset (s.rd MEAS_STAT.STATE) (s.inTolerance offset) (s.countAfterOffset offset))]).onClock
        fun c => { c with holdover := false } := by
  have htol : (s.wr MEAS_OFFS.OFFS offset.toNat).inTolerance offset = s.inTolerance offset := by
    rw [State.inTolerance, State.rd_wr_ne (by decide), State.inTolerance]
  have hcount : (s.wr MEAS_OFFS.OFFS offset.toNat).countAfterOffset offset = s.countAfterOffset offset := by
    rw [State.countAfterOffset, htol, State.rd_wr_ne (by decide), State.countAfterOffset]
  rw [← htol, ← hcount]
  exact if_neg h

theorem State.countAfterOffset_lt (s : State) (offset : Word) : s.countAfterOffset offset < 32 := by
  rw [State.countAfterOffset]
  split <;> omega

/-- A write of MEAS_OFFS stores the offset and leaves the rate. -/
theorem State.rd_offsetWritten (s : State) (offset : Word) :
    (s.offsetWritten offset).rd MEAS_OFFS.OFFS = offset.toNat ∧ (s.offsetWritten offset).rd MEAS_RATE.RATE = s.rd MEAS_RATE.RATE := by
  have hoffset : ∀ t : State, (t.wr MEAS_OFFS.OFFS offset.toNat).rd MEAS_OFFS.OFFS = offset.toNat := fun t =>
    State.rd_wr_fits (by decide) offset.isLt
  by_cases h : s.rd MEAS_STAT.STATE = lockIdle
  · rw [State.offsetWritten_idle h]
    exact ⟨hoffset s, State.rd_wr_ne (by decide)⟩
  · rw [State.offsetWritten_locking h]
    simp (disch := decide) only [State.wrs_cons, State.wrs_nil, State.rd_onClock, State.rd_wr_ne, hoffset, and_self]

/-- Outside Free it counts and moves the state. -/
theorem State.rd_offsetWritten_locking {s : State} (h : s.rd MEAS_STAT.STATE ≠ lockIdle) (offset : Word) :
    (s.offsetWritten offset).rd MEAS_STAT.INTOL = s.countAfterOffset offset ∧ (s.offsetWritten offset).rd MEAS_STAT.STATE =
      lockAfterOffset (s.rd MEAS_STAT.STATE) (s.inTolerance offset) (s.countAfterOffset offset) := by
  have hlock := lockAfterOffset_lt (s.rd_lt MEAS_STAT.STATE) (s.inTolerance offset) (s.countAfterOffset offset)
  rw [State.offsetWritten_locking h]
  simp (disch := decide) only [State.wrs_cons, State.wrs_nil, State.rd_onClock, State.rd_wr_ne]
  exact ⟨State.rd_wr_fits (by decide) (s.countAfterOffset_lt offset), State.rd_wr_fits (by decide) hlock⟩

theorem State.sourceWritten_off (s : State) : s.sourceWritten 0 =
    (s.wrs [(MEAS_CTL.SRC, 0), (MEAS_STAT.STATE, lockIdle)]).onClock fun c => { c with holdover := false } := (rfl)

/-- Settles O14: a write of MEAS_OFFS by `State.offsetWritten`, the others by the one write of their rule. -/
theorem lockStateFollowsTable : Obligations.LockStateFollowsTable := by
  refine ⟨fun s offset hrun hopens => ?_, fun s hrun hlocked => ?_, fun s hrun hholdover => ?_, fun s hrun => ?_, fun s src hsrc => ?_⟩
  · refine ⟨(s.offsetWritten offset).answered .ronhenko MEAS_OFFS.addr offset, ?_, ?_⟩
    · rw [exec_measOffsWrite, execMeasOffsWrite, onSoc_of_running hrun, State.commandWrite_quiet (by decide) hopens]
    simp only [State.answered_rd, s.rd_offsetWritten, true_and]
    refine ⟨fun hidle => ?_, fun hlocking htol => ?_, fun hlocking htol => ?_⟩
    · rw [State.offsetWritten_idle hidle]
      exact ⟨(State.rd_wr_ne (by decide)).trans hidle, State.rd_wr_ne (by decide)⟩
    · have hin : s.inTolerance offset = true := decide_eq_true htol
      simp only [State.rd_offsetWritten_locking hlocking, State.countAfterOffset, hin, if_true, true_and]
      exact ⟨lockAfterOffset_in_of_acquiring _, lockAfterOffset_in_of_locked _⟩
    · have hin : s.inTolerance offset = false := decide_eq_false (Nat.not_le.mpr htol)
      simp only [State.rd_offsetWritten_locking hlocking, State.countAfterOffset, hin, Bool.false_eq_true, if_false, true_and]
      exact ⟨lockAfterOffset_out_of_locked _, lockAfterOffset_out_of_acquiring _⟩
  · rw [exec_offsetWriteTimeout, execOffsetWriteTimeout, onSoc_of_running hrun, if_pos hlocked]
    refine ⟨_, rfl, ?_, by rw [State.onClock_clock], ?_⟩
    · exact (State.rd_onClock _ _ _).trans (State.rd_wr_fits (by decide) (by decide))
    · exact (State.rd_onClock _ _ _).trans (State.rd_wr_ne (by decide))
  · refine ⟨(s.wr MEAS_STAT.STATE lockUnlocked).onClock fun c => { c with holdover := false },
      (State.rd_onClock _ _ _).trans (State.rd_wr_fits (by decide) (by decide)), by rw [State.onClock_clock],
      (State.rd_onClock _ _ _).trans (State.rd_wr_ne (by decide)), ?_⟩
    rw [exec_holdoverExpiry, execHoldoverExpiry, onSoc_of_running hrun, if_pos hholdover]
  · rw [exec_measSrcWrite, execMeasSrcWrite, onSoc_of_running hrun]
    refine ⟨_, rfl, ?_⟩
    simp (disch := decide) only [State.sourceWritten_off, State.wrs_cons, State.wrs_nil, State.rd_onClock, State.rd_wr_ne,
      State.rd_wr_fits, and_self]
  · rw [exec_measSrcWrite, execMeasSrcWrite, onSoc, State.sourceWritten, if_pos hsrc, ite_self]

end Sys2Proof.Machine
end

section
/-! Where key commands and the read of a context store: an operation that does not touch memory stores nowhere, and one that
stores bytes does so at the addresses its rule gives. -/

set_option Elab.async false

namespace Sys2Proof.Machine

@[simp] theorem length_leBytes (n v : Nat) : (leBytes n v).length = n := by
  induction n generalizing v with
  | zero => rfl
  | succ n ih => rw [leBytes, List.length_cons, ih]

@[simp] theorem length_bytesOf (n : Nat) (f : Nat → Byte) : (Config.bytesOf n f).length = n := by
  rw [Config.bytesOf, List.length_map, List.length_range]

@[simp] theorem State.length_load (s : State) (a n : Nat) : (s.load a n).length = n := by
  rw [State.load, List.length_map, List.length_range]

/-! What it is to store only in given places. -/

theorem State.storesOnly_of_mem {s t : State} {l : List (Nat × Nat)} (h : t.mem = s.mem) : s.storesOnly t l := fun _ _ => by rw [h]

theorem State.storesOnly_refl (s : State) (l : List (Nat × Nat)) : s.storesOnly s l := State.storesOnly_of_mem rfl

theorem State.storesOnly.trans {s t u : State} {l : List (Nat × Nat)} (h : s.storesOnly t l) (g : t.storesOnly u l) : s.storesOnly u l :=
  fun a ha => (g a ha).trans (h a ha)

theorem State.storesOnly.mono {s t : State} {l m : List (Nat × Nat)} (h : s.storesOnly t l)
    (hsub : ∀ a, (∀ r ∈ m, a < r.1 ∨ r.1 + r.2 ≤ a) → ∀ r ∈ l, a < r.1 ∨ r.1 + r.2 ≤ a) : s.storesOnly t m :=
  fun a ha => h a (hsub a ha)

theorem State.storesOnly.of_subset {s t : State} {l m : List (Nat × Nat)} (h : s.storesOnly t l) (hsub : l ⊆ m) : s.storesOnly t m :=
  h.mono fun _ ha r hr => ha r (hsub hr)

/-- All parts but memory. -/
def allButMem : Nat := 0x7fffffffffbfff

/-- An operation that does not touch memory stores nowhere. -/
theorem After.storesOnly {s t : State} (h : After allButMem s t) (l : List (Nat × Nat)) : s.storesOnly t l :=
  fun a _ => h.2.2.2 .mem (by decide) a

theorem State.storesOnly_storeBytes (s : State) (a : Nat) (bs : Bytes) : s.storesOnly (s.storeBytes a bs) [(a, bs.length)] := by
  have hstore : s.storesOnly (s.onMem (Memory.setMany a bs)) [(a, bs.length)] := fun b hb =>
    Memory.get_setMany_outside (hb _ (List.mem_singleton.mpr rfl))
  exact hstore.trans (After.storesOnly (State.markStore_after _ _ _ (.of_and_eq rfl) (.refl _)) _)

/-- Bytes stored within one of the places. -/
theorem State.storesOnly_storeBytes_within (s : State) {a b n : Nat} {bs : Bytes} {l : List (Nat × Nat)} (hplace : (b, n) ∈ l) (hlow : b ≤ a)
    (hhigh : a + bs.length ≤ b + n) : s.storesOnly (s.storeBytes a bs) l := by
  refine (s.storesOnly_storeBytes a bs).mono fun x hx r hr => ?_
  obtain rfl := List.mem_singleton.mp hr
  have := hx _ hplace
  simp only at this ⊢
  omega

/-! A write of a command register. -/

/-- Where a requester does not reach the register the command does not act. -/
theorem State.commandWrite_of_not_opens {s : State} {who : Requester} {a : Nat} (h : ¬ s.Opens who a) (v : Word) (f g : State → State) :
    s.commandWrite who a v f = s.commandWrite who a v g := by
  unfold State.commandWrite
  repeat' split
  all_goals first | rfl | exact absurd ⟨‹_›, _, ‹_›, ‹_›⟩ h

theorem State.commandWrite_storesOnly {s : State} {who : Requester} {a : Nat} {v : Word} {act : State → State} {l : List (Nat × Nat)}
    (hact : s.storesOnly (act (s.written a v)) l) : s.storesOnly (s.commandWrite who a v act) l := by
  by_cases o : s.Opens who a
  · rw [State.commandWrite_opens o]
    exact hact.trans (State.storesOnly_of_mem (State.answered_mem _ _ _ _))
  · rw [State.commandWrite_of_not_opens o v act id]
    exact After.storesOnly (State.commandWrite_after _ _ _ _ _ (.of_and_eq rfl) (.all (m := allButMem) (.of_and_eq rfl) rfl)
      (fun _ => .of_and_eq rfl) (.refl s) fun _ h => h) l

/-! Key operations. -/

theorem length_keyBlob {kind gen owner : Nat} {wrapped : Bytes} (h : wrapped.length ≤ 72) : (keyBlob kind gen owner wrapped).length = 80 := by
  simp only [keyBlob, List.length_append, length_leBytes, List.length_replicate]
  omega

@[simp] theorem length_kwWrap (kek data : Bytes) : (Config.kwWrap kek data).length = data.length + 8 := length_bytesOf _ _

@[simp] theorem State.length_random (s : State) (n : Nat) : (s.random n).1.length = n := length_bytesOf _ _

theorem State.keyGenerate_storesOnly (s : State) (slot addr : Nat) : s.storesOnly (s.keyGenerate slot addr).2 [(addr, 80)] := by
  unfold State.keyGenerate
  dsimp only
  have hdraw : s.storesOnly (s.random 64).2 [(addr, 80)] := State.storesOnly_refl s _
  repeat' split
  · exact s.storesOnly_refl _
  · exact s.storesOnly_refl _
  · exact s.storesOnly_refl _
  · exact hdraw
  · refine State.storesOnly.trans ?_ (State.storesOnly_storeBytes_within _ (List.mem_singleton.mpr rfl) (Nat.le_refl _) ?_)
    · exact State.storesOnly_refl s _
    · exact Nat.le_of_eq (by rw [length_keyBlob (Nat.le_of_eq (by rw [length_kwWrap, State.length_random]))])

/-- A blob of a namespace's key that unwraps holds 64 bytes of key. -/
theorem State.length_key_of_openBlob {s : State} {blob key : Bytes} {gen owner : Nat} (hlen : blob.length = 80)
    (h : s.openBlob blob = some (1, gen, owner, key)) : key.length = 64 := by
  unfold State.openBlob at h
  dsimp only at h
  split at h
  · cases h
  · obtain ⟨k, hk, he⟩ := Option.map_eq_some_iff.mp h
    injection he with hkind he
    injection he with _ he
    injection he with _ hkey
    subst hkey
    rw [if_neg (by omega), Config.kwUnwrap] at hk
    split at hk
    · injection hk with hk
      subst hk
      simp [hlen]
    · cases hk

theorem State.rewrap_storesOnly {gen : Nat} {kek : Bytes} {n : Nat} : ∀ {s t : State} {addr base total : Nat}, s.rewrap gen kek n addr = some t →
    base ≤ addr → addr + 80 * n ≤ base + total → s.storesOnly t [(base, total)] := by
  induction n with
  | zero =>
    intro s t addr base total h _ _
    injection h with h
    exact h ▸ s.storesOnly_refl _
  | succ n ih =>
    intro s t addr base total h hlow hhigh
    unfold State.rewrap at h
    split at h
    · rename_i gen' owner key hopen
      have hkey := State.length_key_of_openBlob (s.length_load addr 80) hopen
      refine State.storesOnly.trans ?_ (ih h (by omega) (by omega))
      refine State.storesOnly.trans (State.storesOnly_storeBytes_within s (a := addr) (List.mem_singleton.mpr rfl) hlow ?_)
        (State.storesOnly_of_mem rfl)
      rw [length_keyBlob (Nat.le_of_eq (by rw [length_kwWrap, hkey]))]
      omega
    · cases h

theorem State.kekRatchet_storesOnly (s : State) (addr n : Nat) : s.storesOnly (s.kekRatchet addr n).2 [(addr, 80 * n + 40)] := by
  unfold State.kekRatchet
  dsimp only
  have hnew : s.storesOnly s.newKek.2.2 [(addr, 80 * n + 40)] :=
    After.storesOnly (State.newKek_after s (.of_and_eq rfl) (.refl s)) _
  have hkek : s.newKek.2.1.length = 32 := s.length_random 32
  repeat' split
  · exact s.storesOnly_refl _
  · exact s.storesOnly_refl _
  · exact s.storesOnly_refl _
  · rename_i hrewrap
    refine hnew.trans ((State.rewrap_storesOnly hrewrap (Nat.le_refl _) (by omega)).trans (State.storesOnly.trans
      (State.storesOnly_storeBytes_within _ (List.mem_singleton.mpr rfl) (by omega) ?_)
      (After.storesOnly (State.ratchetAlone_after _ (.of_and_eq rfl) (.refl _)) _)))
    rw [length_kwWrap, hkek]
    omega

theorem State.slotStatus_storesOnly (s : State) (slot addr : Nat) : s.storesOnly (s.slotStatus slot addr).2 [(addr, 16)] := by
  unfold State.slotStatus
  dsimp only
  split
  · exact s.storesOnly_refl _
  · exact State.storesOnly_storeBytes_within s (List.mem_singleton.mpr rfl) (Nat.le_refl _)
      (by simp only [List.length_append, length_leBytes, Nat.reduceAdd, Nat.le_refl])

/-- A key operation stores to the places it names. -/
theorem State.keyOperation_storesOnly (s : State) (c : KeyCommand) : s.storesOnly (s.keyOperation c).2 c.stores := by
  unfold State.keyOperation KeyCommand.stores
  by_cases hinit : (s.flag CIP_STAT.INIT && c.op != 3) = true
  · rw [if_pos hinit]
    exact s.storesOnly_refl _
  rw [if_neg hinit]
  by_cases h1 : c.op = 1
  · simp only [h1, if_true]
    exact s.keyGenerate_storesOnly _ _
  by_cases h5 : c.op = 5
  · simp only [h5, Nat.reduceEqDiff, if_true, if_false]
    exact s.kekRatchet_storesOnly _ _
  by_cases h7 : c.op = 7
  · simp only [h7, Nat.reduceEqDiff, if_true, if_false]
    exact s.slotStatus_storesOnly _ _
  simp only [h1, h5, h7, if_false]
  repeat' split
  · exact After.storesOnly (State.keyUnwrap_after s _ _ (.of_and_eq rfl) (.refl s)) _
  · exact After.storesOnly (State.keyZeroise_after s _ (.of_and_eq rfl) (.refl s)) _
  · exact After.storesOnly (State.keyDerivePair_after s (.of_and_eq rfl) (.refl s)) _
  · exact After.storesOnly (State.highWaterLoad_after s _ _ _ (.of_and_eq rfl) (.refl s)) _
  · exact After.storesOnly (State.kekImport_after s _ (.of_and_eq rfl) (.refl s)) _
  · exact s.storesOnly_refl _

theorem State.runKeyCommand_storesOnly (s : State) (c : KeyCommand) : s.storesOnly (s.runKeyCommand c) c.stores := by
  unfold State.runKeyCommand
  split
  · exact State.storesOnly_of_mem (by rw [State.onKeys_mem, State.wr_mem])
  · exact (s.keyOperation_storesOnly c).trans
      (State.storesOnly_of_mem (by rw [State.onKeys_mem, State.count_mem, State.wrs_cons, State.wrs_cons, State.wrs_nil, State.wr_mem, State.wr_mem]))

theorem State.keyCommandWrite_storesOnly (s : State) (who : Requester) (op slot : Nat) : s.storesOnly (s.keyCommandWrite who op slot)
    (KeyCommand.mk op slot (s.rd64 CIP_KCMD_ADDR.addr) (s.rd64 CIP_KCMD_ARG.addr) who).stores := by
  refine State.commandWrite_storesOnly ?_
  rw [State.written_CIP_KCMD]
  generalize hslot : extractBits _ 13 0 = x
  have hwritten (l : List (Nat × Nat)) : s.storesOnly (s.wr CIP_KCMD.SLOT x) l := State.storesOnly_of_mem (s.wr_mem _ _)
  have haddr : (s.wr CIP_KCMD.SLOT x).rd64 CIP_KCMD_ADDR.addr = s.rd64 CIP_KCMD_ADDR.addr := s.rd64_setReg_ne (by decide) _
  have harg : (s.wr CIP_KCMD.SLOT x).rd64 CIP_KCMD_ARG.addr = s.rd64 CIP_KCMD_ARG.addr := s.rd64_setReg_ne (by decide) _
  split
  · exact hwritten _
  · rw [haddr, harg]
    exact (hwritten _).trans (State.runKeyCommand_storesOnly _ ⟨op, slot % 16384, s.rd64 CIP_KCMD_ADDR.addr, s.rd64 CIP_KCMD_ARG.addr, who⟩)

theorem onSoc_storesOnly {s t : State} {f : State → State} {o : Host.Outcome State Fault Refusal} {l : List (Nat × Nat)} (h : o = .next t)
    (e : o = onSoc s f) (hf : s.storesOnly (f s) l) : s.storesOnly t l := by
  rw [e] at h
  injection h with h
  subst h
  split
  · exact hf
  · exact s.storesOnly_refl _

theorem keyCommand_storesOnly {s t : State} {o : Host.Outcome State Fault Refusal} {who : Requester} {op slot : Nat} (h : o = .next t)
    (e : o = onSoc s fun s => s.keyCommandWrite who op slot) : s.storesOnly t
      (KeyCommand.mk op slot (s.rd64 CIP_KCMD_ADDR.addr) (s.rd64 CIP_KCMD_ARG.addr) who).stores :=
  onSoc_storesOnly h e (s.keyCommandWrite_storesOnly who op slot)

theorem State.qpcCommand_storesOnly (s : State) (who : Requester) (op : Nat) (anyOwner : Bool) {act : Nat → State → Nat × State}
    {l : List (Nat × Nat)} (hact : ∀ idx, s.storesOnly (act idx s).2 l) : s.storesOnly (s.qpcCommand who op anyOwner act) l := by
  refine State.commandWrite_storesOnly ?_
  rw [State.written_of_quiet (by decide)]
  dsimp only
  repeat' split
  · exact s.storesOnly_refl _
  · exact State.storesOnly_of_mem (s.wr_mem _ _)
  · exact (hact _).trans (State.storesOnly_of_mem (State.wr_mem _ _ _))

/-- Settles O57: the key commands by `State.keyCommandWrite`, the read of a context by its one store. -/
theorem keyAndContextStoresStayInPlace : Obligations.KeyAndContextStoresStayInPlace := by
  refine ⟨fun s t who slot h => keyCommand_storesOnly h (exec_keyGenerate who slot s),
    fun s t who h => keyCommand_storesOnly h (exec_kekRatchet who s),
    fun s t who slot h => keyCommand_storesOnly h (exec_slotStatusRead who slot s),
    fun s t who slot h => keyCommand_storesOnly h (exec_keyUnwrap who slot s),
    fun s t who slot h => keyCommand_storesOnly h (exec_keyZeroise who slot s),
    fun s t who h => keyCommand_storesOnly h (exec_keyDerivePair who s),
    fun s t who slot h => keyCommand_storesOnly h (exec_highWaterLoad who slot s),
    fun s t who h => keyCommand_storesOnly h (exec_kekImport who s),
    fun s t who h => ?_⟩
  rw [exec_qpcRead, execQpcRead] at h
  refine onSoc_storesOnly h rfl (s.qpcCommand_storesOnly who 2 false fun idx => ?_)
  exact State.storesOnly_storeBytes_within s (List.mem_singleton.mpr rfl) (Nat.le_refl _) (Nat.le_of_eq (by rw [length_leBytes]))

end Sys2Proof.Machine
end

section
/-! A store beside the completion ring: the blocks of registers of the queues repeat at the queue numbers that pass the block's 64 KB, and
there the register that counts errors is a ring's base. -/

set_option Elab.async false

namespace Sys2Proof.Machine

/-- The queue number whose QCBASE is at the address of EWQ_ERRORS. -/
def aliasedQueue : Nat := 964

theorem EWQ_QCBASE_aliasedQueue : EWQ_QCBASE.addr aliasedQueue = EWQ_ERRORS.addr := by decide

/-- A running module, in whose aliased queue one descriptor is about to end with the halting code 3 and the result 2^32 − 1; its
completion ring is the 16 bytes at address 0. -/
def aliasedEnd : State :=
  (State.reset.wr CLK_STAT.PLL_LOCK 1).onEwq fun x => { x with
    queues := [⟨aliasedQueue, 0, [], [⟨0, List.replicate 64 0, 3, 2 ^ 32 - 1, 0, false⟩]⟩] }

/-- Refutes O58: no bound is put on the queue. The halt counts EWQ_ERRORS, which moves the aliased queue's ring by one byte before the
record is stored, so that the record's last byte lies behind the ring. -/
theorem not_engineStoresStayInPlace : ¬ Obligations.EngineStoresStayInPlace := by
  rintro ⟨_, hcomplete, _⟩
  obtain ⟨t, ht⟩ := everyCommandAnswersNextState (.ewqDescriptorComplete aliasedQueue 0) aliasedEnd
  have hring : ∀ r ∈ aliasedEnd.completionStores aliasedQueue, 16 < r.1 ∨ r.1 + r.2 ≤ 16 := by decide
  have hkept := hcomplete aliasedEnd t aliasedQueue 0 ht 16 hring
  have hstored : (match exec (.ewqDescriptorComplete aliasedQueue 0) aliasedEnd with
    | .next t => Memory.get 16 t.mem
    | _ => 0) = 255 := by decide +kernel
  rw [ht] at hstored
  exact absurd (hstored.symm.trans hkept) (by decide)

end Sys2Proof.Machine
end

section
/-! Register accesses that meet no obstacle (R5–R17, R471, R594): outside a boundary window an access takes place at once, and each
of them is the one case of its rule. -/

set_option Elab.async false

namespace Sys2Proof.Machine

theorem State.orHold_of_closed {s : State} (h : s.clock.windowOpen = false) (i : Instr) (f : State → State) : s.orHold i f = f s := by
  simp only [State.orHold, h, Bool.false_eq_true, if_false]

theorem State.orHoldAccess_of_closed {s : State} (h : s.clock.windowOpen = false) (i : Instr) (a n : Nat) (f : State → State) :
    s.orHoldAccess i a n f = f s := by
  rw [State.orHoldAccess, State.orHold_of_closed h, ite_self]

/-! The cases of an access. -/

theorem State.writeRegister_of_opens {s : State} {who : Requester} {a : Nat} {v : Word} {h : RegHit} (o : s.Opens who a)
    (hfind : findReg a = some h) (hignored : s.writeIgnored h = false) (hblocked : s.writeBlocked h = false) :
    s.writeRegister who a 4 v = (s.written a v).answered who a v := by
  obtain ⟨hreach, h', hfind', hmay⟩ := o
  obtain rfl : h' = h := Option.some.inj (hfind'.symm.trans hfind)
  simp only [State.writeRegister, hreach, hfind, hmay, State.applyWrite, hignored, hblocked, Bool.false_eq_true, if_true, if_false,
    State.written, State.answered]

theorem State.takesWrite_of_opens {s : State} {who : Requester} {a : Nat} (o : s.Opens who a) : s.takesWrite who a 4 = true := by
  obtain ⟨hreach, h, hfind, hmay⟩ := o
  simp only [State.takesWrite, hreach, hfind, Option.any_some, hmay, beq_self_eq_true, Bool.and_self]

theorem State.readRegister_of_reached {s : State} {who : Requester} {a : Nat} {h : RegHit} (hreach : s.reach a 4 = .reached)
    (hfind : findReg a = some h) (hmay : s.mayRead who h = true) :
    s.readRegister who a 4 = (s.readReg who a).2.emit (.regValue who a (s.readReg who a).1) := by
  simp only [State.readRegister, hreach, hfind, hmay, if_true]

theorem State.readRegister_of_off {s : State} {a b d : Nat} (hoff : s.reach a 4 = .off b d) (who : Requester) :
    s.readRegister who a 4 = (s.offAccess b d).emit (.regError who a (some 0xFFFFFFFF)) := by
  simp only [State.readRegister, hoff, errorWord, Bool.false_eq_true, if_false]

theorem State.writeRegister_of_off {s : State} {a b d : Nat} (hoff : s.reach a 4 = .off b d) (who : Requester) (v : Word) :
    s.writeRegister who a 4 v = (s.offAccess b d).emit (.regError who a none) := by
  simp only [State.writeRegister, hoff, errorWord, if_true]

/-! MIN_LEAK is a register whose writes no block discards. -/

theorem findReg_MIN_LEAK : (findReg MIN_LEAK.addr).isSome := by decide

theorem MIN_LEAK_not_ignored (s : State) : s.writeIgnored ((findReg MIN_LEAK.addr).get findReg_MIN_LEAK) = false := by
  have hwall : ((findReg MIN_LEAK.addr).get findReg_MIN_LEAK).block ≠ 0x05 := by decide
  have hreq : ((findReg MIN_LEAK.addr).get findReg_MIN_LEAK).is (MCP_REQ.addr 0) = false := by decide
  simp only [State.writeIgnored, hreq, beq_false_of_ne hwall, Bool.false_and, Bool.or_false]

theorem MIN_LEAK_not_blocked (s : State) : s.writeBlocked ((findReg MIN_LEAK.addr).get findReg_MIN_LEAK) = false := by
  have hring : ((findReg MIN_LEAK.addr).get findReg_MIN_LEAK).is (EWQ_QBASE.addr 0) = false := by decide
  have hcring : ((findReg MIN_LEAK.addr).get findReg_MIN_LEAK).is (EWQ_QCBASE.addr 0) = false := by decide
  simp only [State.writeBlocked, hring, hcring, Bool.or_self, Bool.false_and]

/-- Settles O8: `State.plainWrite` and `State.readRegister` case by case. -/
theorem registerAccessesComplete : Obligations.RegisterAccessesComplete := by
  refine ⟨fun s who a v h hrun hclosed hopens hfind hignored hblocked hleak => ?_, fun s who v hrun hclosed hopens => ?_,
    fun s who a h hrun hclosed hreach hfind hmay => ?_, fun s who a h hrun hclosed hreach hfind hmay hwide hlow hread => ?_,
    fun s who a write hrun hunassigned => ?_, fun s who a b d hrun hclosed hoff => ?_, fun s who a b d hrun hclosed hoff hnone => ?_,
    fun s who a v hrun hclosed hopens => ?_⟩
  · rw [exec_plainRegisterWrite, execPlainRegisterWrite, onData_of_running hrun, State.orHoldAccess_of_closed hclosed, State.plainWrite,
      State.writeRegister_of_opens hopens hfind hignored hblocked]
    simp only [hleak, decide_false, Bool.false_and, Bool.false_eq_true, if_false]
  · rw [exec_plainRegisterWrite, execPlainRegisterWrite, onData_of_running hrun, State.orHoldAccess_of_closed hclosed, State.plainWrite,
      State.writeRegister_of_opens hopens (Option.some_get findReg_MIN_LEAK).symm (MIN_LEAK_not_ignored s) (MIN_LEAK_not_blocked s)]
    simp only [State.takesWrite_of_opens hopens, decide_true, Bool.and_self, if_true]
  · rw [exec_rcRegisterRead, execRcRegisterRead, onSoc_of_running hrun, State.orHoldAccess_of_closed hclosed,
      State.readRegister_of_reached hreach hfind hmay]
  · rw [exec_lowWordRead, execLowWordRead, onSoc_of_running hrun, State.orHoldAccess_of_closed hclosed,
      State.readRegister_of_reached hreach hfind hmay, s.readReg_low who hfind hwide hlow hread]
    exact ⟨_, rfl, rfl, findPair_putPair _ _ _ _, rfl, rfl⟩
  · rw [exec_unassignedBlockAccess, execUnassignedBlockAccess, onSoc_of_running hrun]
    simp only [hunassigned, Bool.not_false, if_true, State.unassignedAccess, errorWord]
  · rw [exec_offDomainAccess, execOffDomainAccess, onSoc_of_running hrun, State.orHoldAccess_of_closed hclosed, if_neg (by decide),
      State.readRegister_of_off hoff]
  · have htakes : s.takesWrite who a 4 = false := by simp [State.takesWrite, hoff]
    rw [exec_offDomainAccess, execOffDomainAccess, onSoc_of_running hrun, State.orHoldAccess_of_closed hclosed, if_pos rfl]
    simp only [State.writeAny, hnone, State.plainWrite, State.writeRegister_of_off hoff, htakes, Bool.and_false, Bool.false_eq_true, if_false]
  · rw [exec_rwtFieldWrite, execRwtFieldWrite, onSoc_of_running hrun, State.orHoldAccess_of_closed hclosed, State.commandWrite_opens hopens]

end Sys2Proof.Machine
end

section
/-! Register accesses of the direct host and of management requests (R16, R17, R370, R437), and accesses that are turned away (R5,
R471). -/

set_option Elab.async false

namespace Sys2Proof.Machine

theorem State.directHostAccess_of_reached {s : State} {off : Nat} (haligned : off % 4 = 0) (hinside : off < 0x1000000)
    (hreach : s.reach (0x00F000000000 + off) 4 = .reached) (hread : bitOf s.directRights 2 = true) (v : Word) :
    s.directHostAccess off false v = (s.readReg .directHost (0x00F000000000 + off)).2.emit
      (.direct (.data 4 ((s.readReg .directHost (0x00F000000000 + off)).1.setWidth 64))) ∧
    (bitOf s.directRights 3 = true → holdsRwt (0x00F000000000 + off) = false → managementMayWrite (0x00F000000000 + off) = true →
      s.directHostAccess off true v = (s.quietWrite .directHost (0x00F000000000 + off) v).emit (.direct .done)) := by
  have hplace : ¬ (Decidable.decide (off % 4 ≠ 0) || Decidable.decide (0x1000000 ≤ off)) = true := by simp [haligned, hinside]
  constructor
  · simp only [State.directHostAccess, if_neg hplace, hreach, hread, Bool.not_false, if_true]
  · intro hwrite hrwt hmay
    simp only [State.directHostAccess, if_neg hplace, hreach, hread, hwrite, hrwt, hmay, Bool.and_self, Bool.not_true, Bool.false_eq_true,
      if_false]

theorem State.barAccess_of_word {s : State} {a f bar place : Nat} {v : DWord} (hhit : s.barHit a = some (f, bar, place))
    (hregs : ¬ (f = 1 ∧ bar = 0x18)) (haligned : place % 4 = 0) :
    s.barAccess a 4 false v = (s.barRead f bar place).2.emit (.direct (.data 4 (BitVec.ofNat 64 (s.barRead f bar place).1))) ∧
    s.barAccess a 4 true v = (s.barWrite f bar place (v.toNat % 2 ^ 32)).emit (.direct .done) := by
  have hregs' : ¬ (Decidable.decide (f = 1) && Decidable.decide (bar = 0x18)) = true := by
    rw [Bool.and_eq_true, decide_eq_true_eq, decide_eq_true_eq]
    exact hregs
  constructor <;>
    simp only [State.barAccess, hhit, if_neg hregs', haligned, decide_true, Bool.and_self, if_true, Bool.false_eq_true, if_false]

/-- Settles O9: each access by the one case of its rule that nothing obstructs. -/
theorem directAndManagementRegisterAccessesComplete : Obligations.DirectAndManagementRegisterAccessesComplete := by
  refine ⟨fun s off v hrun hclosed haligned hinside hreach hread => ?_,
    fun s off v hrun hclosed haligned hinside hreach hread hwrite hrwt hmay => ?_,
    fun s a v f bar place hrun hclosed hup hhit hregs haligned => ?_, fun s slot tag c a n hrun hclosed hcall hspan => ?_,
    fun s slot tag c a n hrun hclosed hcall hspan hrwt hmay => ?_⟩
  · rw [exec_directHostRegisterAccess, execDirectHostRegisterAccess, onData_of_running hrun, State.orHoldAccess_of_closed hclosed,
      (State.directHostAccess_of_reached haligned hinside hreach hread v).1]
  · rw [exec_directHostRegisterAccess, execDirectHostRegisterAccess, onData_of_running hrun, State.orHoldAccess_of_closed hclosed,
      (State.directHostAccess_of_reached haligned hinside hreach hread v).2 hwrite hrwt hmay]
  · obtain ⟨hload, hstore⟩ := State.barAccess_of_word (v := v) hhit hregs haligned
    simp only [exec_barAccess, execBarAccess, onData_of_running hrun, hup, Bool.not_true, Bool.false_eq_true, if_false,
      State.orHoldAccess_of_closed hclosed, hload, hstore, and_self]
  · rw [exec_registerRead, execRegisterRead, onSoc_of_running hrun, State.orHoldAccess_of_closed hclosed, State.runCall_requests hcall]
    simp only [hspan]
  · have hnoRwt : ((List.range n).any fun i => holdsRwt (a + 4 * i)) = false := by
      rw [List.all_eq_not_any_not] at hrwt
      simpa using hrwt
    have hallMay : ((List.range n).any fun i => !managementMayWrite (a + 4 * i)) = false := by
      rw [List.all_eq_not_any_not] at hmay
      simpa using hmay
    rw [exec_registerWrite, execRegisterWrite, onData_of_running hrun, State.orHoldAccess_of_closed hclosed, State.runCall_requests hcall]
    simp only [hspan, hnoRwt, hallMay, Bool.false_eq_true, if_false]

/-! Accesses that are turned away. -/

theorem State.reach_badSize {w a : Nat} (h : w ≠ 4 ∨ a % 4 ≠ 0) (s : State) : s.reach a w = .badSize := if_pos h

theorem PWR_OFFACC_CNT_addr_ne : PWR_OFFACC_CNT.addr ≠ PWR_OFFACC.addr := by decide

/-- What is first noted of an access to a domain that is not On (R471). -/
def State.noteOffAccess (s : State) (n d : Nat) : State :=
  if s.flag PWR_OFFACC.VALID then s.wr PWR_OFFACC.MULTI 1
  else s.wrs [(PWR_OFFACC.VALID, 1), (PWR_OFFACC.DOMAIN, d), (PWR_OFFACC.BLOCK, n)]

theorem State.offAccess_eq (s : State) (n d : Nat) : s.offAccess n d = (s.noteOffAccess n d).count PWR_OFFACC_CNT.addr := (rfl)

theorem State.reg_noteOffAccess {s : State} {n d x : Nat} (h : x ≠ PWR_OFFACC.addr) : (s.noteOffAccess n d).reg x = s.reg x := by
  unfold State.noteOffAccess
  split
  · exact State.reg_wr_ne h
  · exact (State.reg_wr_ne h).trans ((State.reg_wr_ne h).trans (State.reg_wr_ne h))

/-- `t` is `s` but for its registers. -/
def State.regsOnly (s t : State) : Prop := ∃ l, t = s.onRegs fun _ => l

theorem State.regsOnly_setReg {s t : State} (h : s.regsOnly t) (a : Nat) (v : DWord) : s.regsOnly (t.setReg a v) := by
  obtain ⟨l, rfl⟩ := h
  exact ⟨RegFile.set a v l, rfl⟩

theorem State.regsOnly_refl (s : State) : s.regsOnly s := ⟨s.regs, rfl⟩

theorem State.regsOnly_offAccess (s : State) (n d : Nat) : s.regsOnly (s.offAccess n d) := by
  rw [State.offAccess_eq, State.noteOffAccess]
  refine State.regsOnly_setReg ?_ _ _
  split
  · exact State.regsOnly_setReg s.regsOnly_refl _ _
  · exact State.regsOnly_setReg (State.regsOnly_setReg (State.regsOnly_setReg s.regsOnly_refl _ _) _ _) _ _

theorem State.emit_with_of_regsOnly {s t : State} (h : s.regsOnly t) (o : Output) :
    { t.emit o with regs := s.regs, out := s.out } = s := by
  obtain ⟨l, rfl⟩ := h
  rfl

theorem State.emit_with_out (s : State) (o o' : Output) : { s.emit o with out := (s.emit o').out } = s.emit o' := (rfl)

/-- Settles O11: a bad size is answered only; an access to a domain that is not On is noted and counted. -/
theorem badAccessesLeaveRegisters : Obligations.BadAccessesLeaveRegisters := by
  refine ⟨fun s who a w v hbad => ?_, fun s who a b d v hoff => ?_⟩
  · simp only [State.writeRegister, State.readRegister, State.reach_badSize hbad, and_self]
  · have hout : (s.offAccess b d).out = s.out := by
      obtain ⟨l, h⟩ := s.regsOnly_offAccess b d
      rw [h, State.onRegs_out]
    rw [State.writeRegister_of_off hoff, State.readRegister_of_off hoff]
    refine ⟨(State.emit_out _ _).trans (congrArg _ hout), (State.emit_out _ _).trans (congrArg _ hout), State.emit_with_out _ _ _, fun x hx hcnt => ?_, ?_, ?_⟩
    · rw [State.reg_emit, State.offAccess_eq, State.count, State.reg_setReg_ne hcnt, State.reg_noteOffAccess hx]
    · rw [State.reg_emit, State.offAccess_eq, State.reg_count_self, State.reg_noteOffAccess PWR_OFFACC_CNT_addr_ne]
      rfl
    · exact State.emit_with_of_regsOnly (s.regsOnly_offAccess b d) _

end Sys2Proof.Machine
end

section
/-! More reading rules: what the frame of an operation says of one register and of the other parts, and loops that write one field each. -/

set_option Elab.async false

namespace Sys2Proof.Machine

/-! What a frame says of one part. -/

theorem After.part {T : Nat} {s t : State} (h : After T s t) (p : Part) (e : T.testBit (partBit p) = false) : p.same s t := h.2.2.2 p e

/-- The register at an address lies in the block. -/
def inBlock (b : Block) (a : Nat) : Bool :=
  (blockNumber a).any fun n => Decidable.decide (b.first.1 ≤ n) && Decidable.decide (n < b.first.1 + b.first.2)

theorem inBlock_blockAddr {b : Block} {n off : Nat} (hn : n < 256) (h : b.first.1 ≤ n ∧ n < b.first.1 + b.first.2) :
    inBlock b (blockAddr n off) = true := by
  simp [inBlock, blockNumber_blockAddr hn, h]

/-- A register of a block outside the set keeps its value. -/
theorem After.reg {T : Nat} {s t : State} (h : After T s t) {a : Nat} (b : Block) (hb : inBlock b a = true)
    (e : T.testBit (blockBit b) = false) : t.reg a = s.reg a := by
  obtain ⟨n, hn, hin⟩ := Option.any_eq_true _ _ |>.mp hb
  rw [Bool.and_eq_true, decide_eq_true_eq, decide_eq_true_eq] at hin
  exact h.part (.regs b) e a n hn hin.1 hin.2

theorem After.rd {T : Nat} {s t : State} (h : After T s t) {f : Fld} (b : Block) (hb : inBlock b f.addr = true)
    (e : T.testBit (blockBit b) = false) : t.rd f = s.rd f := by
  rw [State.rd, h.reg b hb e, State.rd]

/-! An output and a count leave the other parts. -/

@[simp] theorem State.emit_regs (s : State) (o : Output) : (s.emit o).regs = s.regs := (rfl)
@[simp] theorem State.emit_draws (s : State) (o : Output) : (s.emit o).draws = s.draws := (rfl)
@[simp] theorem State.emit_rwm (s : State) (o : Output) : (s.emit o).rwm = s.rwm := (rfl)
@[simp] theorem State.emit_hiLatch (s : State) (o : Output) : (s.emit o).hiLatch = s.hiLatch := (rfl)
@[simp] theorem State.emit_lowWord (s : State) (o : Output) : (s.emit o).lowWord = s.lowWord := (rfl)
@[simp] theorem State.emit_clock (s : State) (o : Output) : (s.emit o).clock = s.clock := (rfl)
@[simp] theorem State.emit_cfg (s : State) (o : Output) : (s.emit o).cfg = s.cfg := (rfl)
@[simp] theorem State.emit_flt (s : State) (o : Output) : (s.emit o).flt = s.flt := (rfl)
@[simp] theorem State.emit_mcp (s : State) (o : Output) : (s.emit o).mcp = s.mcp := (rfl)
@[simp] theorem State.emit_power (s : State) (o : Output) : (s.emit o).power = s.power := (rfl)
@[simp] theorem State.emit_host (s : State) (o : Output) : (s.emit o).host = s.host := (rfl)
@[simp] theorem State.emit_store (s : State) (o : Output) : (s.emit o).store = s.store := (rfl)
@[simp] theorem State.emit_energy (s : State) (o : Output) : (s.emit o).energy = s.energy := (rfl)
@[simp] theorem State.emit_link (s : State) (o : Output) : (s.emit o).link = s.link := (rfl)
@[simp] theorem State.emit_rdma (s : State) (o : Output) : (s.emit o).rdma = s.rdma := (rfl)
@[simp] theorem State.emit_mem (s : State) (o : Output) : (s.emit o).mem = s.mem := (rfl)
@[simp] theorem State.emit_keys (s : State) (o : Output) : (s.emit o).keys = s.keys := (rfl)
@[simp] theorem State.emit_ewq (s : State) (o : Output) : (s.emit o).ewq = s.ewq := (rfl)
@[simp] theorem State.emit_wall (s : State) (o : Output) : (s.emit o).wall = s.wall := (rfl)
@[simp] theorem State.emit_entry (s : State) (o : Output) : (s.emit o).entry = s.entry := (rfl)
@[simp] theorem State.emit_admin (s : State) (o : Output) : (s.emit o).admin = s.admin := (rfl)
@[simp] theorem State.emit_two (s : State) (o : Output) : (s.emit o).two = s.two := (rfl)
@[simp] theorem State.emit_token (s : State) (o : Output) : (s.emit o).token = s.token := (rfl)
@[simp] theorem State.emit_slots (s : State) (o : Output) : (s.emit o).slots = s.slots := (rfl)
@[simp] theorem State.emit_caches (s : State) (o : Output) : (s.emit o).caches = s.caches := (rfl)
@[simp] theorem State.emit_direct (s : State) (o : Output) : (s.emit o).direct = s.direct := (rfl)
@[simp] theorem State.emit_switch (s : State) (o : Output) : (s.emit o).switch = s.switch := (rfl)
@[simp] theorem State.emit_gates (s : State) (o : Output) : (s.emit o).gates = s.gates := (rfl)
@[simp] theorem State.emit_integrity (s : State) (o : Output) : (s.emit o).integrity = s.integrity := (rfl)
@[simp] theorem State.emit_pmc (s : State) (o : Output) : (s.emit o).pmc = s.pmc := (rfl)
@[simp] theorem State.count_draws (s : State) (a n : Nat) : (s.count a n).draws = s.draws := (rfl)
@[simp] theorem State.count_rwm (s : State) (a n : Nat) : (s.count a n).rwm = s.rwm := (rfl)
@[simp] theorem State.count_hiLatch (s : State) (a n : Nat) : (s.count a n).hiLatch = s.hiLatch := (rfl)
@[simp] theorem State.count_lowWord (s : State) (a n : Nat) : (s.count a n).lowWord = s.lowWord := (rfl)
@[simp] theorem State.count_clock (s : State) (a n : Nat) : (s.count a n).clock = s.clock := (rfl)
@[simp] theorem State.count_cfg (s : State) (a n : Nat) : (s.count a n).cfg = s.cfg := (rfl)
@[simp] theorem State.count_flt (s : State) (a n : Nat) : (s.count a n).flt = s.flt := (rfl)
@[simp] theorem State.count_mcp (s : State) (a n : Nat) : (s.count a n).mcp = s.mcp := (rfl)
@[simp] theorem State.count_power (s : State) (a n : Nat) : (s.count a n).power = s.power := (rfl)
@[simp] theorem State.count_host (s : State) (a n : Nat) : (s.count a n).host = s.host := (rfl)
@[simp] theorem State.count_store (s : State) (a n : Nat) : (s.count a n).store = s.store := (rfl)
@[simp] theorem State.count_energy (s : State) (a n : Nat) : (s.count a n).energy = s.energy := (rfl)
@[simp] theorem State.count_link (s : State) (a n : Nat) : (s.count a n).link = s.link := (rfl)
@[simp] theorem State.count_rdma (s : State) (a n : Nat) : (s.count a n).rdma = s.rdma := (rfl)
@[simp] theorem State.count_keys (s : State) (a n : Nat) : (s.count a n).keys = s.keys := (rfl)
@[simp] theorem State.count_ewq (s : State) (a n : Nat) : (s.count a n).ewq = s.ewq := (rfl)
@[simp] theorem State.count_wall (s : State) (a n : Nat) : (s.count a n).wall = s.wall := (rfl)
@[simp] theorem State.count_entry (s : State) (a n : Nat) : (s.count a n).entry = s.entry := (rfl)
@[simp] theorem State.count_admin (s : State) (a n : Nat) : (s.count a n).admin = s.admin := (rfl)
@[simp] theorem State.count_two (s : State) (a n : Nat) : (s.count a n).two = s.two := (rfl)
@[simp] theorem State.count_token (s : State) (a n : Nat) : (s.count a n).token = s.token := (rfl)
@[simp] theorem State.count_slots (s : State) (a n : Nat) : (s.count a n).slots = s.slots := (rfl)
@[simp] theorem State.count_caches (s : State) (a n : Nat) : (s.count a n).caches = s.caches := (rfl)
@[simp] theorem State.count_direct (s : State) (a n : Nat) : (s.count a n).direct = s.direct := (rfl)
@[simp] theorem State.count_switch (s : State) (a n : Nat) : (s.count a n).switch = s.switch := (rfl)
@[simp] theorem State.count_gates (s : State) (a n : Nat) : (s.count a n).gates = s.gates := (rfl)
@[simp] theorem State.count_integrity (s : State) (a n : Nat) : (s.count a n).integrity = s.integrity := (rfl)
@[simp] theorem State.count_pmc (s : State) (a n : Nat) : (s.count a n).pmc = s.pmc := (rfl)

/-! So does a store to a register. -/

@[simp] theorem State.setReg_draws (s : State) (a : Nat) (v : DWord) : (s.setReg a v).draws = s.draws := (rfl)
@[simp] theorem State.setReg_rwm (s : State) (a : Nat) (v : DWord) : (s.setReg a v).rwm = s.rwm := (rfl)
@[simp] theorem State.setReg_hiLatch (s : State) (a : Nat) (v : DWord) : (s.setReg a v).hiLatch = s.hiLatch := (rfl)
@[simp] theorem State.setReg_lowWord (s : State) (a : Nat) (v : DWord) : (s.setReg a v).lowWord = s.lowWord := (rfl)
@[simp] theorem State.setReg_clock (s : State) (a : Nat) (v : DWord) : (s.setReg a v).clock = s.clock := (rfl)
@[simp] theorem State.setReg_cfg (s : State) (a : Nat) (v : DWord) : (s.setReg a v).cfg = s.cfg := (rfl)
@[simp] theorem State.setReg_flt (s : State) (a : Nat) (v : DWord) : (s.setReg a v).flt = s.flt := (rfl)
@[simp] theorem State.setReg_mcp (s : State) (a : Nat) (v : DWord) : (s.setReg a v).mcp = s.mcp := (rfl)
@[simp] theorem State.setReg_power (s : State) (a : Nat) (v : DWord) : (s.setReg a v).power = s.power := (rfl)
@[simp] theorem State.setReg_host (s : State) (a : Nat) (v : DWord) : (s.setReg a v).host = s.host := (rfl)
@[simp] theorem State.setReg_store (s : State) (a : Nat) (v : DWord) : (s.setReg a v).store = s.store := (rfl)
@[simp] theorem State.setReg_energy (s : State) (a : Nat) (v : DWord) : (s.setReg a v).energy = s.energy := (rfl)
@[simp] theorem State.setReg_link (s : State) (a : Nat) (v : DWord) : (s.setReg a v).link = s.link := (rfl)
@[simp] theorem State.setReg_rdma (s : State) (a : Nat) (v : DWord) : (s.setReg a v).rdma = s.rdma := (rfl)
@[simp] theorem State.setReg_mem (s : State) (a : Nat) (v : DWord) : (s.setReg a v).mem = s.mem := (rfl)
@[simp] theorem State.setReg_keys (s : State) (a : Nat) (v : DWord) : (s.setReg a v).keys = s.keys := (rfl)
@[simp] theorem State.setReg_ewq (s : State) (a : Nat) (v : DWord) : (s.setReg a v).ewq = s.ewq := (rfl)
@[simp] theorem State.setReg_wall (s : State) (a : Nat) (v : DWord) : (s.setReg a v).wall = s.wall := (rfl)
@[simp] theorem State.setReg_entry (s : State) (a : Nat) (v : DWord) : (s.setReg a v).entry = s.entry := (rfl)
@[simp] theorem State.setReg_admin (s : State) (a : Nat) (v : DWord) : (s.setReg a v).admin = s.admin := (rfl)
@[simp] theorem State.setReg_two (s : State) (a : Nat) (v : DWord) : (s.setReg a v).two = s.two := (rfl)
@[simp] theorem State.setReg_token (s : State) (a : Nat) (v : DWord) : (s.setReg a v).token = s.token := (rfl)
@[simp] theorem State.setReg_slots (s : State) (a : Nat) (v : DWord) : (s.setReg a v).slots = s.slots := (rfl)
@[simp] theorem State.setReg_caches (s : State) (a : Nat) (v : DWord) : (s.setReg a v).caches = s.caches := (rfl)
@[simp] theorem State.setReg_direct (s : State) (a : Nat) (v : DWord) : (s.setReg a v).direct = s.direct := (rfl)
@[simp] theorem State.setReg_switch (s : State) (a : Nat) (v : DWord) : (s.setReg a v).switch = s.switch := (rfl)
@[simp] theorem State.setReg_gates (s : State) (a : Nat) (v : DWord) : (s.setReg a v).gates = s.gates := (rfl)
@[simp] theorem State.setReg_integrity (s : State) (a : Nat) (v : DWord) : (s.setReg a v).integrity = s.integrity := (rfl)
@[simp] theorem State.setReg_pmc (s : State) (a : Nat) (v : DWord) : (s.setReg a v).pmc = s.pmc := (rfl)

/-! Loops over fields. -/

theorem State.rd_each_ne {α : Type} {f : α → State → State} {g : Fld} {l : List α} (h : ∀ a ∈ l, ∀ s : State, (f a s).rd g = s.rd g) (s : State) :
    (s.each l f).rd g = s.rd g := by
  induction l generalizing s with
  | nil => rfl
  | cons a l ih =>
    exact (ih (fun b m => h b (List.mem_cons_of_mem _ m)) (f a s)).trans (h a List.mem_cons_self s)

/-- A loop that writes one number into one field of each of several registers leaves it in each. -/
theorem State.rd_each_wr {F : Nat → Fld} {v : Nat} {l : List Nat} (hin : ∀ n, (F n).inWord) (hfits : ∀ n, v < 2 ^ ((F n).hi + 1 - (F n).lo))
    (hapart : ∀ m ∈ l, ∀ n ∈ l, m ≠ n → (F m).addr ≠ (F n).addr) {k : Nat} (hk : k ∈ l) (s : State) :
    (s.each l fun n s => s.wr (F n) v).rd (F k) = v := by
  induction l generalizing s with
  | nil => cases hk
  | cons n l ih =>
    by_cases hmem : k ∈ l
    · exact ih (fun a ha b hb => hapart a (List.mem_cons_of_mem _ ha) b (List.mem_cons_of_mem _ hb)) hmem _
    · obtain rfl : k = n := (List.mem_cons.mp hk).resolve_right hmem
      have hrest : ∀ t : State, (t.each l fun n s => s.wr (F n) v).rd (F k) = t.rd (F k) := State.rd_each_ne fun m hm s =>
        State.rd_wr_addr (hapart k List.mem_cons_self m (List.mem_cons_of_mem _ hm) fun e => hmem (e ▸ hm))
      rw [show s.each (k :: l) (fun n s => s.wr (F n) v) = (s.wr (F k) v).each l fun n s => s.wr (F n) v from rfl, hrest]
      exact State.rd_wr_fits (hin k) (hfits k)

theorem State.each_wr_out (s : State) (l : List Nat) (F : Nat → Fld) (v : Nat) : (s.each l fun n s => s.wr (F n) v).out = s.out :=
  State.each_keeps State.out (fun n s => s.wr_out (F n) v) s l

theorem State.flag_eq_true {s : State} {f : Fld} (h : s.rd f = 1) : s.flag f = true := by rw [State.flag, h]; rfl

end Sys2Proof.Machine
end

section
/-! Clock and reset commands (chapter The Measure and the Clocks). -/

set_option Elab.async false

namespace Sys2Proof.Machine

theorem CLK_DOM_addr_ne {m n : Nat} (hm : m < 25) (hn : n < 25) (h : m ≠ n) : CLK_DOM.addr m ≠ CLK_DOM.addr n := by
  simp only [CLK_DOM.addr, blockAddr]
  omega

theorem CLK_STAT_addr_ne_CLK_DOM {n : Nat} (hn : n < 25) : CLK_STAT.addr ≠ CLK_DOM.addr n := by
  simp only [CLK_STAT.addr, CLK_DOM.addr, blockAddr]
  omega

theorem inBlock_CLU_PSTAT (c : Nat) : inBlock .clu (CLU_PSTAT.addr c) = true :=
  inBlock_blockAddr (by omega) ⟨by simp only [Block.first]; omega, by simp only [Block.first]; omega⟩

theorem State.not_running_of_heldInReset {s : State} (h : s.clock.heldInReset = true) : s.running = false := by
  simp only [State.running, h, Bool.not_true, Bool.false_and]

/-- The start of the clock domains by the lock of the PLL (R27). -/
def State.startDomains (s : State) : State :=
  (s.wrs [(CLK_STAT.PLL_LOCK, 1), (CLK_STAT.ROOT_OK, 1)]).each (List.range 25) fun n s => s.wr (CLK_DOM.RUN n) 1

theorem State.rd_startDomains (s : State) : s.startDomains.rd CLK_STAT.PLL_LOCK = 1 ∧ s.startDomains.rd CLK_STAT.ROOT_OK = 1 ∧
    ∀ n < 25, s.startDomains.rd (CLK_DOM.RUN n) = 1 := by
  have hstat {g : Fld} (h : g.addr = CLK_STAT.addr) (t : State) :
      (t.each (List.range 25) fun n s => s.wr (CLK_DOM.RUN n) 1).rd g = t.rd g :=
    State.rd_each_ne (fun n hn s => State.rd_wr_addr (h ▸ CLK_STAT_addr_ne_CLK_DOM (List.mem_range.mp hn))) t
  refine ⟨?_, ?_, fun n hn => ?_⟩
  · rw [State.startDomains, hstat rfl]
    simp (disch := decide) only [State.wrs_cons, State.wrs_nil, State.rd_wr_ne, State.rd_wr_fits]
  · rw [State.startDomains, hstat rfl]
    simp (disch := decide) only [State.wrs_cons, State.wrs_nil, State.rd_wr_fits]
  · exact State.rd_each_wr (fun _ => by simp [Fld.inWord, CLK_DOM.RUN]) (fun _ => by simp [CLK_DOM.RUN])
      (fun a ha b hb => CLK_DOM_addr_ne (List.mem_range.mp ha) (List.mem_range.mp hb)) (List.mem_range.mpr hn) _

theorem State.startDomains_keeps {β : Type} (π : State → β) (k : ∀ (s : State) f v, π (s.wr f v) = π s) (s : State) : π s.startDomains = π s := by
  rw [State.startDomains, State.each_keeps π fun n s => k s _ _]
  simp only [State.wrs_cons, State.wrs_nil, k]

/-- What the end of the memory fill does before the commands of hosts are served (R540). -/
def State.fillDone (s : State) : State :=
  let t := s.wrs [(MIN_STAT.FILLED, 1), (MIN_STAT.SWEEPING, s.rd MIN_SWEEP.EN), (CIP_STAT.DRBG_OK, 1), (CIP_STAT.KAT_OK, 1),
    (MCP_STAT.READY, 1), (PWR_STAT.MSTATE, 0)]
  t.each ((List.range 8).filter fun c => (t.clusterOwner c).isNone) fun c s => s.wr (CLU_PSTAT.ON c) 0xFF

/-- The fields outside the clusters' blocks are those of the six writes. -/
theorem State.rd_fillDone (s : State) : s.fillDone.rd MIN_STAT.FILLED = 1 ∧ s.fillDone.rd MCP_STAT.READY = 1 ∧
    s.fillDone.rd CIP_STAT.DRBG_OK = 1 ∧ s.fillDone.rd PWR_STAT.MSTATE = 0 := by
  have hclusters {g : Fld} (h : inBlock .clu g.addr = false) (t : State) (l : List Nat) :
      (t.each l fun c s => s.wr (CLU_PSTAT.ON c) 0xFF).rd g = t.rd g :=
    State.rd_each_ne (fun c _ s => State.rd_wr_addr fun e => by
      have hin : inBlock .clu g.addr = true := e ▸ inBlock_CLU_PSTAT c
      exact absurd (h.symm.trans hin) (by decide)) t
  unfold State.fillDone
  simp (disch := decide) only [hclusters, State.wrs_cons, State.wrs_nil, State.rd_wr_ne, State.rd_wr_fits, and_self]

theorem State.fillDone_out (s : State) : s.fillDone.out = s.out := by
  unfold State.fillDone
  exact (State.each_wr_out _ _ CLU_PSTAT.ON 0xFF).trans (by simp only [State.wrs_cons, State.wrs_nil, State.wr_out])

/-- An answered write of the high word of MEAS_STEP has used up the requester's low word (R589). -/
theorem State.findPair_answered_MEAS_STEP (t : State) (who : Requester) (v : Word) :
    findPair (t.answered who (MEAS_STEP.addr + 4) v).lowWord who MEAS_STEP.addr = none := by
  exact findPair_dropPair t.lowWord who MEAS_STEP.addr

/-- Settles O13: each command by the state its rule answers. -/
theorem clockCommandsComplete : Obligations.ClockCommandsComplete := by
  refine ⟨fun s hheld hon hawake => ?_, fun s who v hrun hopens haccepted => ?_, fun s hrun hgrid => ?_,
    fun s src hrun hlow hhigh hnew => ?_, fun s hrun hgrid => ?_, fun s hrun hgrid hclosed => ?_, fun s hrun hopen => ?_,
    fun s hcause => ?_, fun s hheld hon hawake => ?_, fun s hrun hfilled => ?_, fun s hheld hon => ?_, fun s hheld => ?_⟩
  · refine ⟨s.startDomains, ?_, s.rd_startDomains.1, s.rd_startDomains.2.1, s.rd_startDomains.2.2, ?_, ?_⟩
    · rw [exec_pllLock, execPllLock, onAlways, hheld, hon, hawake]
      rfl
    · exact State.startDomains_keeps State.clock State.wr_clock s
    · exact State.startDomains_keeps State.out State.wr_out s
  · rw [exec_measStepRequest, execMeasStepRequest, onSoc_of_running hrun, State.commandWrite_quiet (by decide) hopens, if_pos haccepted]
    refine ⟨_, rfl, (State.answered_regs _ _ _ _).trans (s.onClock_regs _), ?_, (State.answered_clock _ _ _ _).trans (s.onClock_clock _)⟩
    exact State.findPair_answered_MEAS_STEP _ who v
  · rw [exec_timeStepApply, execTimeStepApply, onSoc_of_running hrun, hgrid]
    exact ⟨_, rfl, s.onClock_clock _, s.onClock_regs _, s.onClock_out _⟩
  · rw [exec_measSrcWrite, execMeasSrcWrite, onSoc_of_running hrun, State.sourceWritten, if_neg (by omega), if_neg (by omega),
      if_pos (.inr hnew)]
    have hfits : src < 2 ^ (MEAS_CTL.SRC.hi + 1 - MEAS_CTL.SRC.lo) := Nat.lt_of_le_of_lt hhigh (by decide)
    refine ⟨_, rfl, ?_, ?_, ?_, ?_⟩ <;>
      simp (disch := first | decide | exact hfits) only [State.rd_onClock, State.wrs_cons, State.wrs_nil, State.rd_wr_ne, State.rd_wr_fits]
  · rw [exec_measRunSet, execMeasRunSet, onSoc_of_running hrun, hgrid, if_neg Bool.false_ne_true]
    refine ⟨_, rfl, State.flag_eq_true ?_, ?_, ?_⟩
    · simp (disch := decide) only [State.rd_onFlt, State.rd_onClock, State.rd_wr_fits]
    · simp only [State.onFlt_clock, State.onClock_clock, State.wr_clock]
    · simp only [State.onFlt_out, State.onClock_out, State.wr_out]
  · rw [exec_measureBoundary, execMeasureBoundary, onData_of_running hrun, hgrid, hclosed]
    rfl
  · rw [exec_boundaryWindowEnd, execBoundaryWindowEnd, onData_of_running hrun, if_pos hopen]
  · rw [exec_coldReset, execColdReset, onAlways, if_neg hcause]
  · rw [exec_moduleResetTaken, execModuleResetTaken, onAlways, hheld, hon, hawake]
    rfl
  · rw [exec_memoryFillComplete, execMemoryFillComplete, onData_of_running hrun, hfilled]
    exact ⟨s.fillDone, rfl, s.rd_fillDone.1, s.rd_fillDone.2.1, s.rd_fillDone.2.2.1, s.rd_fillDone.2.2.2, s.fillDone_out⟩
  · rw [exec_rootClockFault, execRootClockFault, onAlways, hheld, hon]
    exact ⟨_, rfl, congrArg Clock.heldInReset (State.onClock_clock _ _), State.not_running_of_heldInReset (congrArg Clock.heldInReset (State.onClock_clock _ _))⟩
  · rw [exec_positionMismatch, execPositionMismatch, onAlways, hheld]
    exact ⟨_, rfl, congrArg Clock.heldInReset (State.onClock_clock _ _), State.not_running_of_heldInReset (congrArg Clock.heldInReset (State.onClock_clock _ _))⟩

end Sys2Proof.Machine
end

section
/-! Watchdog, ladder, memory integrity and counter commands (chapters Integrity, Faults and Recovery, and Performance Counters). -/

set_option Elab.async false

namespace Sys2Proof.Machine

theorem quietRegister_PMC_CNT_high : ∀ n < 48, quietRegister (PMC_CNT.addr n + 4) = true := by decide +kernel

theorem MIN_BKT_addr_ne {m n : Nat} (hm : m < 33) (hn : n < 33) (h : m ≠ n) : MIN_BKT.addr m ≠ MIN_BKT.addr n := by
  simp only [MIN_BKT.addr, blockAddr]
  omega

/-- A write of FLT_CMD while no command runs and the module is not parked has its ladder step taken, with STATUS 0. -/
theorem State.ladderCommand_of_idle {s : State} {who : Requester} {op : Nat} {act : State → State} (hopens : s.Opens who FLT_CMD.addr)
    (hidle : s.flag FLT_CMD.BUSY = false) (hparked : s.flag FLT_STAT.PARKED = false) :
    s.ladderCommand who op act = (act (s.wr FLT_CMD.STATUS 0)).answered who FLT_CMD.addr (fltWord op) := by
  rw [State.ladderCommand, State.commandWrite_quiet (by decide) hopens, hidle, hparked]
  rfl

/-- Each bucket of a list leaks one, whatever the others do. -/
theorem State.rd_leak {l : List Nat} (hl : l.Nodup) (hin : ∀ m ∈ l, m < 33) (s : State) {r : Nat} (hr : r < 33) :
    (s.each l fun n s => s.wr (MIN_BKT.N n) (s.rd (MIN_BKT.N n) - 1)).rd (MIN_BKT.N r) =
      if r ∈ l then s.rd (MIN_BKT.N r) - 1 else s.rd (MIN_BKT.N r) := by
  induction l generalizing s with
  | nil => rfl
  | cons n l ih =>
    obtain ⟨hn, hl⟩ := List.nodup_cons.mp hl
    rw [show s.each (n :: l) (fun n s => s.wr (MIN_BKT.N n) (s.rd (MIN_BKT.N n) - 1)) = (s.wr (MIN_BKT.N n) (s.rd (MIN_BKT.N n) - 1)).each l
      fun n s => s.wr (MIN_BKT.N n) (s.rd (MIN_BKT.N n) - 1) from rfl, ih hl fun m hm => hin m (List.mem_cons_of_mem _ hm)]
    by_cases e : r = n
    · subst e
      have hfits : s.rd (MIN_BKT.N r) - 1 < 2 ^ ((MIN_BKT.N r).hi + 1 - (MIN_BKT.N r).lo) :=
        Nat.lt_of_le_of_lt (Nat.sub_le _ _) (State.rd_lt s (MIN_BKT.N r))
      rw [if_neg hn, if_pos List.mem_cons_self, State.rd_wr_fits (by simp [Fld.inWord, MIN_BKT.N]) hfits]
    · have hapart : (MIN_BKT.N r).addr ≠ (MIN_BKT.N n).addr := MIN_BKT_addr_ne hr (hin n List.mem_cons_self) e
      simp only [State.rd_wr_addr hapart, List.mem_cons, e, false_or]

/-- Settles O15: each command by the state its rule answers. -/
theorem ladderAndCounterCommandsComplete : Obligations.LadderAndCounterCommandsComplete := by
  refine ⟨fun s who hrun hopens => ?_, fun s hrun hperiod hgrid hdue => ?_, fun s who hrun hopens hidle hparked => ?_,
    fun s r hrun hlatched hvalid => ?_, fun s hrun hfour hthree => ?_, fun s f hrun hperst hcable hen hf hstate hdue => ?_,
    fun s item reader a n hrun => ?_, fun s id r hrun hget => ?_, fun s group nsid lba meas m hrun hfind => ?_,
    fun s n hrun hfilled => ?_, fun s hrun hdue => ?_, fun s who v hrun hopens hbit => ?_, fun s hrun harmed hdue => ?_,
    fun s who n v hrun hn hopens => ?_, fun s who n hrun hn hopens => ?_, fun s k m bytes dirty rest hrun hget hended hon => ?_⟩
  · rw [exec_watchdogRestart, execWatchdogRestart, onSoc_of_running hrun, State.commandWrite_quiet (by decide) hopens, if_pos rfl]
    exact ⟨_, rfl, (State.answered_flt _ _ _ _).trans (s.onFlt_flt _), (State.answered_regs _ _ _ _).trans (s.onFlt_regs _)⟩
  · rw [exec_watchdogExpiry, execWatchdogExpiry, onSoc_of_running hrun, if_neg]
    simp [hperiod, hgrid, hdue]
  · refine ⟨?_, ?_, ?_⟩
    · rw [exec_fltStep3Handover, execFltStep3Handover, onData_of_running hrun, State.ladderCommand_of_idle hopens hidle hparked]
    · rw [exec_fltStep3, execFltStep3, onSoc_of_running hrun, State.ladderCommand_of_idle hopens hidle hparked]
    · rw [exec_fltStep4, execFltStep4, onSoc_of_running hrun, State.ladderCommand_of_idle hopens hidle hparked]
  · rw [exec_latchCopy, execLatchCopy, onSoc_of_running hrun]
    simp only [hlatched, hvalid, if_true]
  · rw [exec_startupEscalation, execStartupEscalation, onSoc_of_running hrun]
    dsimp only
    rw [if_neg (by omega), if_neg (by omega), Nat.min_eq_right (by omega), Nat.min_eq_right (by omega)]
    have hfits3 : (s.recentSteps.filter (·.step == 3)).length < 2 ^ (FLT_LADDER.S3.hi + 1 - FLT_LADDER.S3.lo) := Nat.lt_trans hthree (by decide)
    have hfits4 : (s.recentSteps.filter (·.step == 4)).length < 2 ^ (FLT_LADDER.S4.hi + 1 - FLT_LADDER.S4.lo) := Nat.lt_trans hfour (by decide)
    refine ⟨_, rfl, ?_, ?_, ?_⟩
    · simp (disch := first | decide | exact hfits3) only [State.wrs_cons, State.wrs_nil, State.rd_wr_ne, State.rd_wr_fits]
    · simp (disch := first | decide | exact hfits4) only [State.wrs_cons, State.wrs_nil, State.rd_wr_ne, State.rd_wr_fits]
    · simp only [State.wrs_cons, State.wrs_nil, State.wr_out]
  · rw [exec_functionResetTimeout, execFunctionResetTimeout, onData_of_running hrun, if_neg]
    simp [hperst, hcable, hen, hstate, hf, hdue]
  · rw [exec_parityError, execParityError, onData_of_running hrun]
  · refine ⟨?_, ?_, ?_, fun hhead hdue => ?_⟩
    · rw [exec_recoveryComplete, execRecoveryComplete, onData_of_running hrun, hget]
    · rw [exec_recoveryComplete, execRecoveryComplete, onData_of_running hrun, hget]
    · rw [exec_recoveryComplete, execRecoveryComplete, onData_of_running hrun, hget]
    · rw [exec_peerRestoreTimeout, execPeerRestoreTimeout, onData_of_running hrun, hget]
      simp only [hhead, hdue, decide_true, BEq.rfl, Bool.and_self, if_true]
  · rw [exec_peerCopyRequest, execPeerCopyRequest, onSoc_of_running hrun]
    simp only [hfind]
  · refine ⟨?_, fun hen => ?_⟩
    · rw [exec_memorySweep, execMemorySweep, onData_of_running hrun, hfilled]
      rfl
    · rw [exec_memorySweep, execMemorySweep, onData_of_running hrun, hfilled, hen]
      rfl
  · rw [exec_bucketLeak, execBucketLeak, onSoc_of_running hrun, if_neg (by omega)]
    refine ⟨_, rfl, fun r hr => ?_, ?_, ?_⟩
    · rw [State.rd_leak List.nodup_range (fun m => List.mem_range.mp) _ hr, if_pos (List.mem_range.mpr hr)]
      rfl
    · exact State.each_keeps State.out (fun n s => s.wr_out (MIN_BKT.N n) _) _ _
    · exact (State.each_keeps State.integrity (fun n s => s.wr_integrity (MIN_BKT.N n) _) _ _).trans (s.onIntegrity_integrity _)
  · rw [exec_minTestArm, execMinTestArm, onSoc_of_running hrun, State.commandWrite_opens hopens]
    have harm : bitOf v.toNat 31 = true := by rw [bitOf, hbit]; rfl
    simp only [harm, if_true]
    refine ⟨_, rfl, ?_, ?_⟩ <;>
      simp (disch := decide) only [State.answered_rd, State.rd_onIntegrity, State.wrs_cons, State.wrs_nil, State.rd_wr_ne, State.rd_wr_fits]
  · rw [exec_minTestExpiry, execMinTestExpiry, onSoc_of_running hrun, harmed, decide_eq_true hdue, Bool.and_self, if_pos rfl]
    refine ⟨_, rfl, ?_, ?_, ?_, ?_⟩ <;>
      simp (disch := decide) only [State.wrs_cons, State.wrs_nil, State.rd_wr_ne, State.rd_wr_fits, State.wr_out]
  · rw [exec_pmcCounterPreset, execPmcCounterPreset, onSoc_of_running hrun, if_neg (by omega),
      State.commandWrite_quiet (quietRegister_PMC_CNT_high n hn) hopens]
    refine ⟨_, rfl, ?_⟩
    rw [State.rd64, State.reg, State.answered_regs]
    exact State.rd64_setReg_self s _ (Nat.lt_trans (Nat.mod_lt _ (by decide)) (by decide))
  · rw [exec_monitorClear, execMonitorClear, onSoc_of_running hrun, if_neg (by omega), State.commandWrite_opens hopens]
    refine ⟨_, rfl, ?_⟩
    rw [State.answered_pmc, State.onPmc_pmc]
    exact List.mem_cons_self
  · rw [exec_monitorWindowEnd, execMonitorWindowEnd, onSoc_of_running hrun, hget]
    simp only [hended, hon, if_true]

end Sys2Proof.Machine
end

section
/-! The power entry (chapter Power Entry): what its operations leave of each field, and its commands. -/

set_option Elab.async false

namespace Sys2Proof.Machine

/-- A write of `f` leaves `g` as it is: another register, or no bit of `f`. -/
abbrev Fld.Apart (g f : Fld) : Prop := g.addr ≠ f.addr ∨ f.inWord ∧ (g.hi < f.lo ∨ f.hi < g.lo)

/-! Flags. -/

theorem State.flag_eq_false {s : State} {f : Fld} (h : s.rd f = 0) : s.flag f = false := by rw [State.flag, h]; rfl

theorem State.flag_eq_of_rd {s t : State} {f g : Fld} (h : s.rd f = t.rd g) : s.flag f = t.flag g := by rw [State.flag, h, State.flag]

/-- A flag reads as the level written to it. -/
theorem State.flag_wr_level {s : State} {f : Fld} (h : f.inWord) (b : Bool) : (s.wr f (if b then 1 else 0)).flag f = b := by
  have hone : 1 < 2 ^ (f.hi + 1 - f.lo) := Nat.one_lt_two_pow (by have := h.1; omega)
  cases b
  · exact State.flag_eq_false (State.rd_wr_fits h (Nat.lt_trans Nat.one_pos hone))
  · exact State.flag_eq_true (State.rd_wr_fits h hone)

/-- A loss of registers keeps the fields of the others. -/
theorem State.rd_onRegs_filter {s : State} {p : RegCell → Bool} {g : Fld} (h : ∀ c : RegCell, c.addr = g.addr → p c = true) :
    (s.onRegs fun l => l.filter p).rd g = s.rd g := by
  simp only [State.rd, State.reg, State.onRegs_regs, RegFile.get, RegFile.find_filter h]

theorem State.rd_count {s : State} {a n : Nat} {g : Fld} (h : g.addr ≠ a) : (s.count a n).rd g = s.rd g := by
  rw [State.rd, State.count, State.reg_setReg_ne h, State.rd]

/-! The Wallflower's digital inputs. -/

theorem State.rd_setInput {s : State} {i : Nat} {b : Bool} {g : Fld} (h : g.addr ≠ WFL_DIN.addr (i / 32)) : (s.setInput i b).rd g = s.rd g := by
  dsimp only [State.setInput]
  split
  · rfl
  · rw [State.rd_onWall, State.rd_wr_addr h]

@[simp] theorem State.setInput_out (s : State) (i : Nat) (b : Bool) : (s.setInput i b).out = s.out := by
  dsimp only [State.setInput]; split <;> simp

@[simp] theorem State.setInput_power (s : State) (i : Nat) (b : Bool) : (s.setInput i b).power = s.power := by
  dsimp only [State.setInput]; split <;> simp

@[simp] theorem State.setInput_entry (s : State) (i : Nat) (b : Bool) : (s.setInput i b).entry = s.entry := by
  dsimp only [State.setInput]; split <;> simp

/-! The entry's own operations. A field that is not of WFL_DIN 3 and that the operation does not write keeps its value. -/

theorem State.rd_setEntry {s : State} {st : Nat} {g : Fld} (h : g.Apart EFU_STAT.STATE) (hin : g.addr ≠ WFL_DIN.addr 3) :
    (s.setEntry st).rd g = s.rd g := by
  rw [State.setEntry, State.rd_setInput hin, State.rd_wr_ne h]

theorem State.entryState_setEntry (s : State) {st : Nat} (h : st < 8) : (s.setEntry st).entryState = st := by
  rw [State.entryState, State.setEntry, State.rd_setInput (by decide), State.rd_wr_fits (by decide) (Nat.lt_of_lt_of_le h (by decide))]

@[simp] theorem State.setEntry_out (s : State) (st : Nat) : (s.setEntry st).out = s.out := by simp [State.setEntry]
@[simp] theorem State.setEntry_power (s : State) (st : Nat) : (s.setEntry st).power = s.power := by simp [State.setEntry]
@[simp] theorem State.setEntry_entry (s : State) (st : Nat) : (s.setEntry st).entry = s.entry := by simp [State.setEntry]

theorem State.rd_setPg {s : State} {b : Bool} {g : Fld} (h : g.Apart EFU_STAT.PG) (hin : g.addr ≠ WFL_DIN.addr 3) : (s.setPg b).rd g = s.rd g := by
  rw [State.setPg]
  split
  · rfl
  · rw [State.rd_emit, State.rd_setInput hin, State.rd_wr_ne h]

theorem State.flag_setPg (s : State) (b : Bool) : (s.setPg b).flag EFU_STAT.PG = b := by
  rw [State.setPg]
  split
  next h => exact eq_of_beq h
  next =>
    refine Eq.trans (State.flag_eq_of_rd ?_) (State.flag_wr_level (s := s) (f := EFU_STAT.PG) (by decide) b)
    rw [State.rd_emit, State.rd_setInput (by decide)]

@[simp] theorem State.setPg_power (s : State) (b : Bool) : (s.setPg b).power = s.power := by
  rw [State.setPg]; split <;> simp

@[simp] theorem State.setPg_entry (s : State) (b : Bool) : (s.setPg b).entry = s.entry := by
  rw [State.setPg]; split <;> simp

theorem State.rd_setSeats {s : State} {a b : Bool} {g : Fld} (h : g.Apart EFU_STAT.SEATA) (h' : g.Apart EFU_STAT.SEATB)
    (hin : g.addr ≠ WFL_DIN.addr 3) : (s.setSeats a b).rd g = s.rd g := by
  rw [State.setSeats, State.rd_setInput hin, State.rd_setInput hin, State.wrs_cons, State.wrs_cons, State.wrs_nil, State.rd_wr_ne h',
    State.rd_wr_ne h]

theorem State.rd_setSeats_low (s : State) : (s.setSeats false false).rd EFU_STAT.SEATA = 1 ∧ (s.setSeats false false).rd EFU_STAT.SEATB = 1 := by
  constructor <;>
    simp (disch := decide) [State.setSeats, State.rd_setInput, State.rd_wr_ne, State.rd_wr_fits]

@[simp] theorem State.setSeats_out (s : State) (a b : Bool) : (s.setSeats a b).out = s.out := by simp [State.setSeats]
@[simp] theorem State.setSeats_power (s : State) (a b : Bool) : (s.setSeats a b).power = s.power := by simp [State.setSeats]

theorem State.rd_setEnable {s : State} {b : Bool} {g : Fld} (h : g.Apart EFU_STAT.EN) (hin : g.addr ≠ WFL_DIN.addr 3) :
    (s.setEnable b).rd g = s.rd g := by
  rw [State.setEnable, State.rd_setInput hin, State.rd_wr_ne h]

theorem State.flag_setEnable (s : State) (b : Bool) : (s.setEnable b).flag EFU_STAT.EN = b :=
  (State.flag_eq_of_rd (State.rd_setInput (by decide))).trans (State.flag_wr_level (by decide) b)

@[simp] theorem State.setEnable_out (s : State) (b : Bool) : (s.setEnable b).out = s.out := by simp [State.setEnable]

theorem State.rd_setCycleIn {s : State} {b : Bool} {g : Fld} (h : g.Apart EFU_STAT.CYCIN) (hin : g.addr ≠ WFL_DIN.addr 3) :
    (s.setCycleIn b).rd g = s.rd g := by
  rw [State.setCycleIn, State.rd_setInput hin, State.rd_wr_ne h]

theorem State.flag_setCycleIn (s : State) (b : Bool) : (s.setCycleIn b).flag EFU_STAT.CYCIN = b :=
  (State.flag_eq_of_rd (State.rd_setInput (by decide))).trans (State.flag_wr_level (by decide) b)

@[simp] theorem State.setCycleIn_out (s : State) (b : Bool) : (s.setCycleIn b).out = s.out := by simp [State.setCycleIn]

theorem State.rd_recordEntry {s : State} {cause ipeak vin : Nat} {g : Fld} (h : g.addr ≠ EFU_LAST.addr) :
    (s.recordEntry cause ipeak vin).rd g = s.rd g := by
  rw [State.recordEntry, State.wrs_cons, State.wrs_cons, State.wrs_cons, State.wrs_nil, State.rd_wr_addr h, State.rd_wr_addr h, State.rd_wr_addr h]
  rfl

theorem State.rd_recordEntry_CAUSE (s : State) {cause : Nat} (h : cause < 16) (ipeak vin : Nat) :
    (s.recordEntry cause ipeak vin).rd EFU_LAST.CAUSE = cause := by
  have hfits : cause < 2 ^ (EFU_LAST.CAUSE.hi + 1 - EFU_LAST.CAUSE.lo) := Nat.lt_of_lt_of_le h (by decide)
  rw [State.recordEntry, State.wrs_cons, State.wrs_cons, State.wrs_cons, State.wrs_nil, State.rd_wr_ne (by decide), State.rd_wr_ne (by decide),
    State.rd_wr_fits (by decide) hfits]

@[simp] theorem State.recordEntry_power (s : State) (c i v : Nat) : (s.recordEntry c i v).power = s.power := by simp [State.recordEntry]
@[simp] theorem State.recordEntry_entry (s : State) (c i v : Nat) :
    (s.recordEntry c i v).entry = { s.entry with cause := c, ipeak := i, vin := v } := by simp [State.recordEntry]

theorem State.rd_stopTimer {s : State} {g : Fld} (h : g.Apart EFU_STAT.LIMIT) (hcount : g.addr ≠ EFU_LIMIT_EVTS.addr) : s.stopTimer.rd g = s.rd g := by
  rw [State.stopTimer]
  split
  · rw [State.rd_count hcount, State.rd_wr_ne h]
  · rfl

@[simp] theorem State.stopTimer_power (s : State) : s.stopTimer.power = s.power := by
  rw [State.stopTimer]; split <;> simp

theorem State.gateOn_of_state {s : State} (h : entryRamping ≤ s.entryState) (h' : s.entryState ≤ entryOn) : s.gateOn = true := by
  simp [State.gateOn, h, h']

end Sys2Proof.Machine
end

section
/-! The commands of the power entry. -/

set_option Elab.async false

namespace Sys2Proof.Machine

/-- A latch of a conducting entry (R393): latched with its cause, PG_OUT low, the module off. -/
theorem State.latchEntry_of_gateOn {s : State} (hgate : s.gateOn = true) {cause : Nat} (hcause : cause < 16) (ipeak vin : Nat) :
    (s.latchEntry cause ipeak vin).entryState = entryLatched ∧ (s.latchEntry cause ipeak vin).entry.cause = cause ∧
    (s.latchEntry cause ipeak vin).rd EFU_LAST.CAUSE = cause ∧ (s.latchEntry cause ipeak vin).flag EFU_STAT.PG = false ∧
    (s.latchEntry cause ipeak vin).power.on = false ∧
    (s.latchEntry cause ipeak vin).rd NRG_STAT.STATE = if s.rd NRG_STAT.STATE = 5 then 5 else 6 := by
  obtain ⟨u, hu⟩ : ∃ u, u = ((((s.wr EFU_STAT.LIMIT 0).setPg false).recordEntry cause ipeak vin).setEntry entryLatched).emit (.gate false) := ⟨_, rfl⟩
  have hstate : u.entryState = entryLatched := by rw [hu, State.entryState, State.rd_emit]; exact State.entryState_setEntry _ (by decide)
  have hentry : u.entry.cause = cause := by rw [hu]; simp
  have hlast : u.rd EFU_LAST.CAUSE = cause := by
    rw [hu, State.rd_emit, State.rd_setEntry (by decide) (by decide), State.rd_recordEntry_CAUSE _ hcause]
  have hpg : u.flag EFU_STAT.PG = false := by
    refine (State.flag_eq_of_rd ?_).trans ((s.wr EFU_STAT.LIMIT 0).flag_setPg false)
    rw [hu, State.rd_emit, State.rd_setEntry (by decide) (by decide), State.rd_recordEntry (by decide)]
  have hbank : u.rd NRG_STAT.STATE = s.rd NRG_STAT.STATE := by
    rw [hu, State.rd_emit, State.rd_setEntry (by decide) (by decide), State.rd_recordEntry (by decide), State.rd_setPg (by decide) (by decide),
      State.rd_wr_ne (by decide)]
  have hlatch : s.latchEntry cause ipeak vin = (if u.rd NRG_STAT.STATE = 5 then u else u.wr NRG_STAT.STATE 6).goOff := by
    rw [State.latchEntry, hgate, hu]
    rfl
  rw [hlatch, hbank]
  simp only [State.goOff, State.entryState, State.flag, State.rd_onPower, State.onPower_entry, State.onPower_power, true_and]
  split
  next h => exact ⟨hstate, hentry, hlast, hpg, hbank.trans h⟩
  next =>
    refine ⟨?_, ?_, ?_, ?_, State.rd_wr_fits (by decide) (by decide)⟩
    · rw [State.rd_wr_ne (by decide)]; exact hstate
    · rw [State.wr_entry]; exact hentry
    · rw [State.rd_wr_ne (by decide)]; exact hlast
    · rw [State.rd_wr_ne (by decide)]; exact hpg

/-- An opening of a conducting entry (R396): open with its cause, PG_OUT low, the module's power as it was. -/
theorem State.openEntry_of_gateOn {s : State} (hgate : s.gateOn = true) {cause : Nat} (hcause : cause < 16) (ipeak vin : Nat) :
    (s.openEntry cause ipeak vin).entryState = entryOpen ∧ (s.openEntry cause ipeak vin).rd EFU_LAST.CAUSE = cause ∧
    (s.openEntry cause ipeak vin).flag EFU_STAT.PG = false ∧ (s.openEntry cause ipeak vin).power = s.power ∧
    (s.openEntry cause ipeak vin).rd EFU_STAT.EN = s.rd EFU_STAT.EN := by
  rw [State.openEntry, if_neg (by simp [hgate])]
  refine ⟨?_, ?_, ?_, by simp, ?_⟩
  · rw [State.entryState, State.rd_emit]
    exact State.entryState_setEntry _ (by decide)
  · rw [State.rd_emit, State.rd_setEntry (by decide) (by decide), State.rd_recordEntry_CAUSE _ hcause]
  · refine (State.flag_eq_of_rd ?_).trans (s.stopTimer.flag_setPg false)
    rw [State.rd_emit, State.rd_setEntry (by decide) (by decide), State.rd_recordEntry (by decide)]
  · rw [State.rd_emit, State.rd_setEntry (by decide) (by decide), State.rd_recordEntry (by decide), State.rd_setPg (by decide) (by decide),
      State.rd_stopTimer (by decide) (by decide)]

/-- The start conditions are read from EFU_STAT and EFU_CFG. -/
theorem State.startConditions_eq_true {s : State} {vin : Nat} (ha : s.flag EFU_STAT.SEATA = true) (hb : s.flag EFU_STAT.SEATB = true)
    (hen : s.flag EFU_STAT.EN = true) (hcyc : s.flag EFU_STAT.CYCIN = false ∨ s.flag EFU_CFG.PEER_EN = false) (hvin : 10600 ≤ vin) :
    s.startConditions vin = true := by
  rw [State.startConditions, State.seated, ha, hb, hen, decide_eq_true hvin]
  obtain h | h := hcyc <;> simp [h]

theorem State.seated_of_startConditions {s : State} {vin : Nat} (h : s.startConditions vin = true) : s.seated = true := by
  simp only [State.startConditions, Bool.and_eq_true] at h
  exact h.1.1.1

/-- Settles O16: each event moves the entry as Table 15.2 gives. -/
theorem entryCommandsComplete : Obligations.EntryCommandsComplete := by
  refine ⟨fun s hstate => ?_, fun s enable cycleLow => ?_, fun s vin hstate ha hb hen hcyc hvin hword => ?_, fun s hstate => ?_,
    fun s hstate hlimit => ?_, fun s hstate hpg hoff => ?_, fun s hstate hlimit => ?_, fun s hlimit => ?_, fun s ipeak vin hlow hhigh => ?_,
    fun s hstate => ?_, fun s vin hstate hoff hstart => ?_, fun s hgate hon hbank => ?_, fun s => ?_, fun s hcyc => ?_⟩
  · rw [exec_seatChange, execSeatChange, onAlways]
    have hseats := s.rd_setSeats_low
    have hkept : (s.setSeats false false).entryState = entryUnseated := (State.rd_setSeats (by decide) (by decide) (by decide)).trans hstate
    have hseated : (s.setSeats false false).seated = true := by
      rw [State.seated, State.flag_eq_true hseats.1, State.flag_eq_true hseats.2]; rfl
    refine ⟨(s.setSeats false false).setEntry entryDebounce, ?_, State.entryState_setEntry _ (by decide), ?_, ?_, by simp⟩
    · simp only [Bool.not_true, hkept, hseated, decide_true, Bool.and_self, if_true]
    · exact State.flag_eq_true ((State.rd_setEntry (by decide) (by decide)).trans hseats.1)
    · exact State.flag_eq_true ((State.rd_setEntry (by decide) (by decide)).trans hseats.2)
  · rw [exec_entryStartConditionChange, execEntryStartConditionChange, onAlways]
    refine ⟨_, rfl, ?_, State.flag_setCycleIn _ _, ?_, by simp⟩
    · exact (State.flag_eq_of_rd (State.rd_setCycleIn (by decide) (by decide))).trans (s.flag_setEnable enable)
    · exact (State.rd_setCycleIn (by decide) (by decide)).trans (State.rd_setEnable (by decide) (by decide))
  · rw [exec_entryDebounceEnd, execEntryDebounceEnd, onAlways,
      if_pos (by simp [hstate, State.startConditions_eq_true ha hb hen hcyc hvin])]
    have hfits : vin < 2 ^ (EFU_VIN.MV.hi + 1 - EFU_VIN.MV.lo) := Nat.lt_of_lt_of_le hword (by decide)
    refine ⟨((s.setEntry entryRamping).wr EFU_VIN.MV vin).emit (.gate true), rfl, ?_, ?_, by simp⟩
    · rw [State.entryState, State.rd_emit, State.rd_wr_ne (by decide)]
      exact State.entryState_setEntry s (by decide)
    · rw [State.rd_emit, State.rd_wr_fits (by decide) hfits]
  · rw [exec_rampComplete, execRampComplete, onAlways, if_pos hstate]
    exact ⟨_, rfl, State.entryState_setEntry s (by decide), by simp⟩
  · have hcond : (decide (s.entryState = entryQualifying) && !s.flag EFU_STAT.LIMIT) = true := by simp [hstate, hlimit]
    have hgate : s.gateOn = true := State.gateOn_of_state (by rw [hstate]; decide) (by rw [hstate]; decide)
    constructor
    · rw [exec_qualificationComplete, execQualificationComplete, onAlways, if_pos hcond, if_neg Bool.false_ne_true]
      refine ⟨_, rfl, ?_, State.flag_setPg _ true⟩
      exact (State.rd_setPg (by decide) (by decide)).trans (State.entryState_setEntry s (by decide))
    · have hkept : (s.wr EFU_STAT.LIMIT 1).entryState = entryQualifying := (State.rd_wr_ne (by decide)).trans hstate
      rw [exec_qualificationComplete, execQualificationComplete, onAlways, if_pos hcond, if_pos rfl, State.startTimer, if_neg (by simp [hlimit, hgate])]
      refine ⟨s.wr EFU_STAT.LIMIT 1, ?_, hkept, State.flag_eq_true (State.rd_wr_fits (by decide) (by decide)), State.rd_wr_ne (by decide)⟩
      simp [hkept, entryOn, entryQualifying]
  · rw [exec_railSequence, execRailSequence, onAlways, if_pos]
    simp [hstate, hpg, hoff]
  · have hgate : s.gateOn = true := State.gateOn_of_state (by rw [hstate]; decide) (Nat.le_of_eq hstate)
    have hkept : (s.wr EFU_STAT.LIMIT 1).entryState = entryOn := (State.rd_wr_ne (by decide)).trans hstate
    rw [exec_currentLimitEngage, execCurrentLimitEngage, onAlways, State.startTimer, if_neg (by simp [hlimit, hgate])]
    refine ⟨(((s.wr EFU_STAT.LIMIT 1).setPg false).setEntry entryQualifying).count EFU_PG_DROPS.addr, ?_, ?_, ?_, ?_⟩
    · simp [hkept]
    · refine State.flag_eq_true ?_
      rw [State.rd_count (by decide), State.rd_setEntry (by decide) (by decide), State.rd_setPg (by decide) (by decide),
        State.rd_wr_fits (by decide) (by decide)]
    · exact (State.rd_count (by decide)).trans (State.entryState_setEntry _ (by decide))
    · refine (State.flag_eq_of_rd ?_).trans ((s.wr EFU_STAT.LIMIT 1).flag_setPg false)
      rw [State.rd_count (by decide), State.rd_setEntry (by decide) (by decide)]
  · rw [exec_currentLimitClear, execCurrentLimitClear, onAlways, State.stopTimer, if_pos hlimit]
    refine ⟨_, rfl, State.flag_eq_false ?_, ?_, ?_⟩
    · rw [State.rd_count (by decide), State.rd_wr_fits (by decide) (by decide)]
    · exact (State.rd_count (by decide)).trans (State.rd_wr_ne (by decide))
    · rw [State.reg_count_self, State.reg_wr_ne (by decide)]
      simp
  · have hgate := State.gateOn_of_state hlow hhigh
    refine ⟨fun hlimit => ?_, ?_, ?_, ?_⟩
    · obtain ⟨hstate, hcause, hlast, hpg, hoff, -⟩ := State.latchEntry_of_gateOn hgate (cause := 1) (by decide) ipeak vin
      rw [exec_faultTimerExpiry, execFaultTimerExpiry, onAlways, if_pos hlimit]
      exact ⟨_, rfl, hstate, hcause, hlast, hpg, hoff⟩
    · rw [exec_fastTrip, execFastTrip, onAlways]
      exact ⟨_, rfl, State.latchEntry_of_gateOn hgate (by decide) ipeak vin⟩
    · obtain ⟨hstate, hlast, hpg, hpower, -⟩ := State.openEntry_of_gateOn hgate (cause := 7) (by decide) ipeak vin
      rw [exec_entryOpening, execEntryOpening, onAlways]
      exact ⟨_, rfl, hstate, hlast, hpg, hpower⟩
    · have hgate' : (s.setEnable false).gateOn = true := by
        rw [State.gateOn, State.entryState, State.rd_setEnable (by decide) (by decide)]
        exact hgate
      obtain ⟨hstate, hlast, -, -, hen⟩ := State.openEntry_of_gateOn hgate' (cause := 4) (by decide) ipeak vin
      rw [exec_entryOpening, execEntryOpening, onAlways]
      exact ⟨_, rfl, hstate, hlast, (State.flag_eq_of_rd hen).trans (s.flag_setEnable false)⟩
  · refine ⟨?_, fun hpeer => ?_, ?_⟩
    · rw [exec_entryLatchClear, execEntryLatchClear, onAlways]
      dsimp only
      rw [if_pos hstate]
      refine ⟨_, rfl, State.entryState_setEntry _ (by decide), ?_⟩
      exact (State.flag_eq_of_rd (State.rd_setEntry (by decide) (by decide))).trans (s.flag_setEnable true)
    · rw [exec_entryLatchClear, execEntryLatchClear, onAlways]
      dsimp only
      rw [if_pos (by simp [hstate, hpeer])]
      exact ⟨_, rfl, State.entryState_setEntry _ (by decide)⟩
    · rw [exec_entryLatchClear, execEntryLatchClear, onAlways]
      dsimp only
      rw [if_pos (by simp [hstate])]
      exact ⟨_, rfl, State.entryState_setEntry _ (by decide)⟩
  · rw [exec_entryRestart, execEntryRestart, onAlways, if_pos (by simp [hstate, hoff]),
      if_neg (by simp [State.seated_of_startConditions hstart]), if_pos hstart]
    exact ⟨_, rfl, State.entryState_setEntry _ (by decide), State.rd_setEntry (by decide) (by decide)⟩
  · have hoff : s.goOff.power.on = false := congrArg Power.on (s.onPower_power _)
    rw [exec_moduleOff, execModuleOff, onAlways, if_pos (by simp [State.storeDone, hgate, hon, hbank])]
    refine ⟨s.goOff.wr WFL_STAT.CYCPEND 0, rfl, ?_, ?_, State.rd_wr_fits (by decide) (by decide)⟩
    · rw [State.wr_power, hoff]
    · rw [State.running, State.wr_power, hoff]
      simp
  · rw [exec_biasLoss, execBiasLoss, onAlways]
    refine ⟨_, rfl, ?_, ?_, ?_, by rw [State.onFlt_flt]⟩
    · rw [State.entryState, State.rd_onFlt, State.rd_onRegs_filter (fun c e => by rw [e]; decide), State.rd_onEntry]
      exact State.entryState_setEntry _ (by decide)
    · refine State.flag_eq_false ?_
      rw [State.rd_onFlt, State.rd_onRegs_filter (fun c e => by rw [e]; decide), State.rd_onEntry, State.rd_setEntry (by decide) (by decide),
        State.rd_setPg (by decide) (by decide), State.wrs_cons, State.wrs_cons, State.wrs_nil, State.rd_wr_ne (by decide),
        State.rd_wr_fits (by decide) (by decide)]
    · refine (State.flag_eq_of_rd ?_).trans
        (((if s.gateOn = true then s.emit (.gate false) else s).wrs [(EFU_STAT.LIMIT, 0), (FLT_STAT.LATCHV, 0)]).flag_setPg false)
      rw [State.rd_onFlt, State.rd_onRegs_filter (fun c e => by rw [e]; decide), State.rd_onEntry, State.rd_setEntry (by decide) (by decide)]
  · rw [exec_peerCycleRelease, execPeerCycleRelease, onAlways, if_pos hcyc]
    refine ⟨_, rfl, State.flag_eq_false ?_, ?_, by simp⟩
    · rw [State.rd_emit, State.rd_wr_fits (by decide) (by decide)]
    · exact (State.rd_emit _ _ _).trans (State.rd_wr_ne (by decide))

end Sys2Proof.Machine
end

section
/-! The Wallflower's commands (chapter Wallflower). -/

set_option Elab.async false

namespace Sys2Proof.Machine

theorem onRonhenko_of_awake {s : State} (hon : s.power.on = true) (hawake : s.power.dormant = false) (hheld : s.clock.heldInReset = false)
    (f : State → State) : onRonhenko s f = .next (f s) := by
  rw [onRonhenko, onAlways, hon, hawake, hheld]
  rfl

theorem State.written_WFL_CMD (s : State) (v : Word) : s.written WFL_CMD.addr v = s := by rfl

theorem inBlock_WFL_DIN {i : Nat} : inBlock .wfl (WFL_DIN.addr i) = true := inBlock_blockAddr (by decide) (by decide)

/-- The value of a channel in its number's own form is the word that it was read from. -/
theorem toNat_channelValue (ch : Nat) {v : Nat} (h : v < 65536) : (BitVec.ofInt 16 (channelValue ch v)).toNat = v := by
  rw [channelValue]
  split
  · rw [signed16, BitVec.ofInt_toInt, BitVec.toNat_ofNat, Nat.mod_eq_of_lt h]
  · rw [BitVec.ofInt_natCast, BitVec.toNat_ofNat, Nat.mod_eq_of_lt h]

/-- Both values of a channel, as one sample writes them. -/
theorem State.rd_sample (s : State) (ch : Nat) {v w : Nat} (hv : v < 65536) (hw : w < 65536) :
    (s.wrs [(WFL_VAL.RAW ch, v), (WFL_VAL.FILT ch, w)]).rd (WFL_VAL.RAW ch) = v ∧
    (s.wrs [(WFL_VAL.RAW ch, v), (WFL_VAL.FILT ch, w)]).rd (WFL_VAL.FILT ch) = w := by
  have hraw : (WFL_VAL.RAW ch).inWord := by simp [Fld.inWord, WFL_VAL.RAW]
  have hfilt : (WFL_VAL.FILT ch).inWord := by simp [Fld.inWord, WFL_VAL.FILT]
  rw [State.wrs_cons, State.wrs_cons, State.wrs_nil]
  exact ⟨(State.rd_wr_ne (.inr ⟨hfilt, .inl (by simp [WFL_VAL.RAW, WFL_VAL.FILT])⟩)).trans (State.rd_wr_fits hraw hv), State.rd_wr_fits hfilt hw⟩

/-- A digital input takes the level that it changes to, and the edge waits for the next sweep. -/
theorem State.setInput_of_change {s : State} {i : Nat} {b : Bool} (h : s.inputHigh i = !b) :
    (s.setInput i b).inputHigh i = b ∧ (i, b) ∈ (s.setInput i b).wall.edges := by
  have hne : (s.flag ⟨WFL_DIN.addr (i / 32), i % 32, i % 32⟩ == b) = false := by rw [← State.inputHigh, h]; cases b <;> rfl
  have hword : (⟨WFL_DIN.addr (i / 32), i % 32, i % 32⟩ : Fld).inWord := ⟨Nat.le_refl _, Nat.lt_trans (Nat.mod_lt _ (by decide)) (by decide)⟩
  simp only [State.setInput, hne, Bool.false_eq_true, if_false]
  constructor
  · rw [State.inputHigh, State.flag, State.rd_onWall]
    exact State.flag_wr_level hword b
  · rw [State.onWall_wall]
    exact List.mem_append_right _ List.mem_cons_self

/-- While the module is not Dormant a wake source touches neither inputs 96 to 127 nor the Wallflower's own state. -/
theorem State.wake_keeps {s : State} (hawake : s.power.dormant = false) (source : Nat) {i : Nat} (hi : i / 32 = 3) :
    (s.wake source).inputHigh i = s.inputHigh i ∧ (s.wake source).wall = s.wall := by
  rw [State.wake]
  split
  · exact ⟨rfl, rfl⟩
  · dsimp only
    rw [if_neg (by rw [State.count_power, State.wr_power, hawake]; decide)]
    obtain ⟨u, hu⟩ : ∃ u, u = (s.wr WFL_WAKECAUSE.SRC (s.rd WFL_WAKECAUSE.SRC ||| 2 ^ source)).count WFL_WAKES.addr := ⟨_, rfl⟩
    have hframe : After 0x41340011200180 (u.wr PWR_STAT.ABORTED 1) ((u.wr PWR_STAT.ABORTED 1).refuseDormant 0xFF 2) :=
      State.refuseDormant_after _ _ _ (.of_and_eq rfl) (.refl _)
    have hwakes : WFL_DIN.addr 3 ≠ WFL_WAKES.addr := by decide
    have hcause : WFL_DIN.addr 3 ≠ WFL_WAKECAUSE.addr := by decide
    have haborted : WFL_DIN.addr 3 ≠ PWR_STAT.addr := by decide
    have hinput : u.inputHigh i = s.inputHigh i := by
      rw [State.inputHigh, State.inputHigh, hi, hu]
      exact State.flag_eq_of_rd ((State.rd_count hwakes).trans (State.rd_wr_addr hcause))
    rw [← hu]
    refine ⟨Eq.trans ?_ hinput, (hframe.part .wall rfl).trans ?_⟩
    · rw [State.inputHigh, State.inputHigh, hi]
      exact State.flag_eq_of_rd ((hframe.rd .wfl inBlock_WFL_DIN rfl).trans (State.rd_wr_addr haborted))
    · rw [State.wr_wall, hu, State.count_wall, State.wr_wall]

/-- An enabled source wakes a Dormant module. -/
theorem State.wake_of_dormant {s : State} (hdormant : s.power.dormant = true) {source : Nat} (hen : bitOf (s.rd WFL_WAKE.EN) source = true) :
    s.wake source = ((s.wr WFL_WAKECAUSE.SRC (s.rd WFL_WAKECAUSE.SRC ||| 2 ^ source)).count WFL_WAKES.addr).startAfterDormant := by
  have hdormant' : ((s.wr WFL_WAKECAUSE.SRC (s.rd WFL_WAKECAUSE.SRC ||| 2 ^ source)).count WFL_WAKES.addr).power.dormant = true := by
    rw [State.count_power, State.wr_power, hdormant]
  rw [State.wake, if_neg (by simp [hen, hdormant])]
  dsimp only
  rw [if_pos hdormant']

/-- What a change of an input 96 or 97 does beside the rules, with domain 128 not Off. -/
theorem State.inputActs_of_pins {s : State} {i : Nat} (high : Bool) (hlow : 96 ≤ i) (hhigh : i ≤ 97) (hdomain : s.domainState 128 ≠ 2) :
    s.inputActs i high = if (i == 96 && high && !s.inputHigh 97) = true then s.wake 2 else s := by
  have hkeep : (s.running && s.domainState 128 == 2 && (i == 97 || high)) = false := by simp [hdomain]
  rw [State.inputActs, if_neg (by omega), if_pos hhigh]
  simp only [hkeep, Bool.false_eq_true, if_false]

/-- The fields of a rule's control word, as a write stores them. -/
theorem State.rd_ruleControl (s : State) (r v : Nat) :
    let t := s.wrs [(WFL_RULE_CTL.EN r, extractBits v 31 31), (WFL_RULE_CTL.KIND r, extractBits v 29 28),
      (WFL_RULE_CTL.CMP r, extractBits v 27 26), (WFL_RULE_CTL.SRC r, extractBits v 25 19),
      (WFL_RULE_CTL.AND_EN r, extractBits v 18 18), (WFL_RULE_CTL.AND r, extractBits v 17 12)]
    t.rd (WFL_RULE_CTL.EN r) = extractBits v 31 31 ∧ t.rd (WFL_RULE_CTL.KIND r) = extractBits v 29 28 ∧
      t.rd (WFL_RULE_CTL.CMP r) = extractBits v 27 26 ∧ t.rd (WFL_RULE_CTL.SRC r) = extractBits v 25 19 ∧
      t.rd (WFL_RULE_CTL.AND_EN r) = extractBits v 18 18 ∧ t.rd (WFL_RULE_CTL.AND r) = extractBits v 17 12 := by
  have hfits : ∀ hi lo, extractBits v hi lo < 2 ^ (hi + 1 - lo) := fun _ _ => Nat.mod_lt _ (Nat.two_pow_pos _)
  dsimp only [WFL_RULE_CTL.EN, WFL_RULE_CTL.KIND, WFL_RULE_CTL.CMP, WFL_RULE_CTL.SRC, WFL_RULE_CTL.AND_EN, WFL_RULE_CTL.AND]
  refine ⟨?_, ?_, ?_, ?_, ?_, ?_⟩ <;>
    simp (disch := first | exact hfits _ _ | simp [Fld.inWord])
      only [State.wrs_cons, State.wrs_nil, State.rd_wr_ne, State.rd_wr_fits]

/-- Settles O17: each command by the state its rule answers. -/
theorem wallflowerCommandsComplete : Obligations.WallflowerCommandsComplete := by
  refine ⟨fun s ch raw hruns hch => ⟨fun hbad => ?_, fun hgood hawake hfilt => ?_⟩, fun s i high hruns hlow hhigh hchange hawake hdomain => ?_,
    fun s hruns => ?_, fun s who r v hrun hlow hr hopens => ?_, fun s who r v hrun hr => ?_,
    fun s who hon hawake hheld hopens => ⟨?_, fun at_ harmed hsoon => ?_, ?_⟩, fun s source hdormant hsource hen => ?_,
    fun s hdormant hen => ?_, fun s hdormant hsecs => ?_⟩
  · rw [exec_analogSample, execAnalogSample, onAlways, if_neg (by simp [hruns]; omega)]
    dsimp only
    rw [if_pos (by simp [hbad])]
    exact ⟨_, rfl, s.rd_sample ch (by decide) (by decide)⟩
  · have hword : raw.toNat % 65536 < 65536 := Nat.mod_lt _ (by decide)
    rw [exec_analogSample, execAnalogSample, onAlways, if_neg (by simp [hruns]; omega)]
    dsimp only
    rw [if_neg (by simp [hgood, hawake]), if_pos (by simp [hfilt]), toNat_channelValue ch hword]
    refine ⟨_, rfl, ?_, ?_, ?_⟩
    · rw [State.rd_onWall]; exact (s.rd_sample ch hword hword).1
    · rw [State.rd_onWall]; exact (s.rd_sample ch hword hword).2
    · simp
  · obtain ⟨hlevel, hedge⟩ := State.setInput_of_change hchange
    have hi : i / 32 = 3 := by omega
    have hdomain' : (s.setInput i high).domainState 128 ≠ 2 := by
      rw [State.domainState, State.rd_setInput (by rw [hi]; decide)]
      exact hdomain
    have hawake' : (s.setInput i high).power.dormant = false := by rw [State.setInput_power, hawake]
    rw [exec_digitalInputChange, execDigitalInputChange, onAlways, if_pos (by simp [hruns, hhigh, hchange]), State.inputActs_of_pins high hlow hhigh hdomain']
    refine ⟨_, rfl, ?_⟩
    split
    · obtain ⟨hinput, hwall⟩ := State.wake_keeps hawake' 2 hi
      rw [hinput, hwall]
      exact ⟨hlevel, hedge⟩
    · exact ⟨hlevel, hedge⟩
  · rw [exec_ruleSweep, execRuleSweep, onAlways, if_pos hruns]
  · have htop : extractBits v.toNat 31 31 = v.toNat / 2 ^ 31 := Nat.mod_eq_of_lt (Nat.div_lt_of_lt_mul v.isLt)
    rw [exec_ruleCtlWrite, execRuleCtlWrite, onSoc_of_running hrun, if_neg (by omega), if_neg (by omega), State.commandWrite_opens hopens]
    refine ⟨_, rfl, ?_⟩
    simp only [State.answered_rd, ← htop]
    exact (s.written (WFL_RULE_CTL.addr r) v).rd_ruleControl r v.toNat
  · rw [exec_ruleCtlWrite, execRuleCtlWrite, onSoc_of_running hrun, if_neg (by omega), if_pos hr]
  · rw [exec_cycleArm, execCycleArm, onRonhenko_of_awake hon hawake hheld, State.commandWrite_opens hopens, State.written_WFL_CMD]
    refine ⟨_, rfl, ?_, ?_⟩
    · rw [State.answered_wall, State.onWall_wall]
    · rw [State.answered_regs, State.onWall_regs]
  · have hsoon' : (s.onWall fun w => { w with armed := none }).now - at_ ≤ 1000000 := hsoon
    rw [exec_cycleGo, execCycleGo, onRonhenko_of_awake hon hawake hheld, State.commandWrite_opens hopens, State.written_WFL_CMD]
    simp only [harmed]
    rw [if_pos hsoon']
    rfl
  · rw [exec_peerWakePulse, execPeerWakePulse, onRonhenko_of_awake hon hawake hheld, State.commandWrite_opens hopens, State.written_WFL_CMD]
    exact ⟨_, rfl, State.answered_regs _ _ _ _, rfl⟩
  · rw [exec_dormantWake, execDormantWake, onAlways, if_pos hsource, State.wake_of_dormant hdormant hen]
  · rw [exec_wakePulse, execWakePulse, onAlways]
    exact congrArg Host.Outcome.next (State.wake_of_dormant hdormant hen)
  · rw [exec_wakeTimerExpiry, execWakeTimerExpiry, onAlways, if_pos (by simp [hdormant, hsecs])]

end Sys2Proof.Machine
end

section
/-! The commands of the power domains (chapter Caller and Power States). -/

set_option Elab.async false

namespace Sys2Proof.Machine

/-- Fields that a list of writes does not touch. -/
theorem State.rd_wrs_ne {g : Fld} {l : List (Fld × Nat)} (h : ∀ p ∈ l, g.Apart p.1) (s : State) : (s.wrs l).rd g = s.rd g := by
  induction l generalizing s with
  | nil => rfl
  | cons p l ih =>
    rw [State.wrs_cons, ih fun q m => h q (List.mem_cons_of_mem _ m), State.rd_wr_ne (h p List.mem_cons_self)]

theorem State.written_PWR_CMD (s : State) (v : Word) : s.written PWR_CMD.addr v = s.wr PWR_CMD.DOMAIN (extractBits v.toNat 7 0) := by rfl

/-- A domain's shown state stands at one of the addresses of PWR_DSTAT. -/
theorem domainField_addr {d : Nat} (h : d < 155) : PWR_DSTAT.addr 0 ≤ (domainField d).addr ∧ (domainField d).addr ≤ PWR_DSTAT.addr 9 := by
  simp only [domainField, PWR_DSTAT.addr, blockAddr]
  omega

theorem domainField_addr_ne {d a : Nat} (h : d < 155) (ha : a < PWR_DSTAT.addr 0 ∨ PWR_DSTAT.addr 9 < a) : (domainField d).addr ≠ a := by
  have := domainField_addr h
  omega

theorem domainField_inWord (d : Nat) : (domainField d).inWord := by
  simp only [Fld.inWord, domainField]
  omega

theorem CLU_PSTAT_addr_gt (c : Nat) : PWR_DSTAT.addr 9 < CLU_PSTAT.addr c := by
  simp only [PWR_DSTAT.addr, CLU_PSTAT.addr, blockAddr]
  omega

theorem CLK_DOM_addr_lt {i : Nat} : CLK_DOM.addr i < PWR_DSTAT.addr 0 := by
  simp only [PWR_DSTAT.addr, CLK_DOM.addr, blockAddr]
  omega

/-! The state shown of a domain. -/

theorem State.rd_showClockGates {s : State} {d : Nat} {g : Fld} (h : PWR_STAT.addr ≤ g.addr) : (s.showClockGates d).rd g = s.rd g := by
  have hne : ∀ i, g.addr ≠ (CLK_DOM.GATED i).addr := fun i => by
    simp only [PWR_STAT.addr, CLK_DOM.GATED, CLK_DOM.addr, blockAddr] at h ⊢
    omega
  dsimp only [State.showClockGates]
  split
  · exact State.rd_wr_addr (hne _)
  · split
    · exact State.rd_wr_addr (hne _)
    · split
      · exact State.rd_wr_addr (hne _)
      · rfl

/-- A domain shows the state given to it. -/
theorem State.domainState_setDomain (s : State) {d : Nat} (hd : d < 155) (st : Nat) : (s.setDomain d st).domainState d = st % 4 := by
  have hwidth : (domainField d).hi + 1 - (domainField d).lo = 2 := by simp only [domainField]; omega
  have hself : (s.wr (domainField d) st).rd (domainField d) = st % 4 :=
    (State.rd_wr_self (domainField_inWord d)).trans (congrArg (st % 2 ^ ·) hwidth)
  have hhigh : PWR_STAT.addr ≤ (domainField d).addr := Nat.le_trans (by decide) (domainField_addr hd).1
  dsimp only [State.setDomain, State.domainState]
  split
  · rw [State.rd_wr_addr (domainField_addr_ne hd (.inr (CLU_PSTAT_addr_gt _))), hself]
  · rw [State.rd_showClockGates hhigh, hself]

/-- It leaves the other registers of the block. -/
theorem State.reg_setDomain {s : State} {d : Nat} (hd : d < 155) (st : Nat) {a : Nat} (ha : PWR_STAT.addr ≤ a) (hblock : a < CLU_PSTAT.addr 0)
    (hstate : a < PWR_DSTAT.addr 0 ∨ PWR_DSTAT.addr 9 < a) : (s.setDomain d st).reg a = s.reg a := by
  have hshown : (s.wr (domainField d) st).reg a = s.reg a := State.reg_wr_ne (domainField_addr_ne hd hstate).symm
  have hclk : ∀ i, a ≠ (CLK_DOM.GATED i).addr := fun i => by
    simp only [PWR_STAT.addr, CLK_DOM.GATED, CLK_DOM.addr, blockAddr] at ha ⊢
    omega
  have hclu : a ≠ CLU_PSTAT.addr (d / 8) := by
    simp only [CLU_PSTAT.addr, blockAddr] at hblock ⊢
    omega
  dsimp only [State.setDomain]
  split
  · rw [State.reg_wr_ne hclu, hshown]
  · rw [← hshown]
    dsimp only [State.showClockGates]
    split
    · exact State.reg_wr_ne (hclk _)
    · split
      · exact State.reg_wr_ne (hclk _)
      · split
        · exact State.reg_wr_ne (hclk _)
        · rfl

theorem State.setDomain_power (s : State) (d st : Nat) : (s.setDomain d st).power = s.power := by
  dsimp only [State.setDomain, State.showClockGates]
  repeat' split
  all_goals simp

/-! Entries into a state. -/

theorem State.domainState_count {s : State} {d : Nat} (hd : d < 155) {a : Nat} (ha : a < PWR_DSTAT.addr 0 ∨ PWR_DSTAT.addr 9 < a) (n : Nat) :
    (s.count a n).domainState d = s.domainState d := State.rd_count (domainField_addr_ne hd ha)

theorem State.domainState_onPower (s : State) (f : Power → Power) (d : Nat) : (s.onPower f).domainState d = s.domainState d := State.rd_onPower _ _ _

theorem State.domainState_onSlots (s : State) (f : Slots → Slots) (d : Nat) : (s.onSlots f).domainState d = s.domainState d := State.rd_onSlots _ _ _

theorem State.domainState_wr {s : State} {d : Nat} (hd : d < 155) {f : Fld} (hf : f.addr < PWR_DSTAT.addr 0 ∨ PWR_DSTAT.addr 9 < f.addr) (v : Nat) :
    (s.wr f v).domainState d = s.domainState d := State.rd_wr_addr (domainField_addr_ne hd hf)

/-- No domain's power-off drops the registers of the block that shows the domains. -/
theorem State.domainState_dropDomainRegs (s : State) (d e : Nat) : (s.dropDomainRegs d).domainState e = s.domainState e := by
  have hblock : blockNumber (domainField e).addr = some 7 := blockNumber_blockAddr (by decide)
  rw [State.domainState, State.dropDomainRegs, State.rd_onRwm, State.rd_onRegs_filter, State.domainState]
  intro c hc
  dsimp only
  rw [hc, hblock]
  rfl

theorem State.domainState_powerOffDomain (s : State) {d : Nat} (hd : d < 155) : (s.powerOffDomain d).domainState d = 2 := by
  rw [State.powerOffDomain, State.domainState_onSlots, State.domainState_dropDomainRegs, State.domainState_count hd (.inr (by decide)),
    State.domainState_setDomain _ hd]

theorem State.domainState_powerOnDomain (s : State) {d : Nat} (hd : d < 155) : (s.powerOnDomain d).domainState d = 0 := by
  rw [State.powerOnDomain]
  split
  next h => exact h
  next => rw [State.domainState_onPower, State.domainState_setDomain _ hd]

/-- A refused entry shows its domain as it was, with the refusal. -/
theorem State.entryRefused_shows (s : State) {d : Nat} (hd : d < 155) (back : Nat) :
    (s.entryRefused d back false).domainState d = back % 4 ∧ (s.entryRefused d back false).rd PWR_STAT.REFUSED = 1 ∧
    (s.entryRefused d back false).rd PWR_STAT.RDOM = d := by
  have hfits : d < 2 ^ (PWR_STAT.RDOM.hi + 1 - PWR_STAT.RDOM.lo) := Nat.lt_of_lt_of_le hd (by decide)
  simp only [State.entryRefused, Bool.false_eq_true, if_false, State.domainState_onPower, State.rd_onPower]
  refine ⟨?_, ?_, ?_⟩
  · rw [State.domainState_count hd (.inr (by decide)), State.wrs_cons, State.wrs_cons, State.wrs_nil, State.domainState_wr hd (.inl (by decide)),
      State.domainState_wr hd (.inl (by decide)), State.domainState_setDomain _ hd]
  · rw [State.rd_count (by decide)]
    simp (disch := decide) only [State.wrs_cons, State.wrs_nil, State.rd_wr_ne, State.rd_wr_fits]
  · rw [State.rd_count (by decide), State.wrs_cons, State.wrs_cons, State.wrs_nil, State.rd_wr_fits (by decide) hfits]

/-- A gated domain is shown so, and counted. -/
theorem State.entryAccepted_gated (s : State) {d : Nat} (hd : d < 155) : (s.entryAccepted d .gated).domainState d = 1 ∧
    (s.entryAccepted d .gated).reg PWR_GATE_EVTS.addr = s.reg PWR_GATE_EVTS.addr + 1 := by
  simp only [State.entryAccepted]
  constructor
  · rw [State.domainState_count hd (.inr (by decide)), State.domainState_setDomain _ hd]
  · rw [State.reg_count_self, State.reg_setDomain hd _ (by decide) (by decide) (.inr (by decide)), State.reg_onPower]
    simp

/-- What may go off by command is one of the first 130 domains. -/
theorem State.lt_of_mayCommandOff {s : State} {d : Nat} (h : s.mayCommandOff d = true) : d < 130 := by
  simp only [State.mayCommandOff] at h
  split at h
  · omega
  · split at h
    · omega
    · split at h
      · omega
      · split at h
        · omega
        · split at h
          · omega
          · cases h

theorem State.lt_of_mayIdleOff {s : State} {d : Nat} (h : s.mayIdleOff d = true) : d < 112 := by
  simp only [State.mayIdleOff] at h
  split at h
  · omega
  · split at h
    · omega
    · split at h
      · omega
      · split at h
        · omega
        · cases h

/-! What lets a domain be powered off is not changed by the plain write of PWR_CMD. -/

theorem any_eq_of_mem {α : Type} {l : List α} {p q : α → Bool} (h : ∀ a ∈ l, p a = q a) : l.any p = l.any q := by
  rw [Bool.eq_iff_iff, List.any_eq_true, List.any_eq_true]
  exact ⟨fun ⟨a, m, e⟩ => ⟨a, m, h a m ▸ e⟩, fun ⟨a, m, e⟩ => ⟨a, m, (h a m).symm ▸ e⟩⟩

theorem all_eq_of_mem {α : Type} {l : List α} {p q : α → Bool} (h : ∀ a ∈ l, p a = q a) : l.all p = l.all q := by
  rw [Bool.eq_iff_iff, List.all_eq_true, List.all_eq_true]
  exact ⟨fun e a m => h a m ▸ e a m, fun e a m => (h a m).symm ▸ e a m⟩

theorem State.clusterOwner_wr_PWR_CMD (s : State) (v c : Nat) : (s.wr PWR_CMD.DOMAIN v).clusterOwner c = s.clusterOwner c := by
  have hne : ∀ p : Nat, (⟨TWO_PERM.addr p 0, 7, 0⟩ : Fld).addr ≠ PWR_CMD.DOMAIN.addr := fun p => by
    simp only [TWO_PERM.addr, PWR_CMD.DOMAIN, PWR_CMD.addr, blockAddr]
    omega
  simp only [State.clusterOwner, State.partClusters, State.permBits, State.rd_wr_addr (hne _)]

theorem State.mayIdleOff_wr_PWR_CMD (s : State) (v : Nat) {d : Nat} : (s.wr PWR_CMD.DOMAIN v).mayIdleOff d = s.mayIdleOff d := by
  have hdomain : ∀ e < 155, (s.wr PWR_CMD.DOMAIN v).domainState e = s.domainState e := fun e he => State.domainState_wr he (.inl (by decide)) v
  have hcore : (s.wr PWR_CMD.DOMAIN v).coreMayOff d = s.coreMayOff d := by
    simp only [State.coreMayOff, State.clusterOwner_wr_PWR_CMD]
    rw [any_eq_of_mem fun e he => by rw [hdomain e (Nat.lt_trans (List.mem_range.mp he) (by decide))]]
  have hcores (h : d < 72) : ((List.range 8).all fun i => (s.wr PWR_CMD.DOMAIN v).domainState (8 * (d - 64) + i) == 2) =
      (List.range 8).all fun i => s.domainState (8 * (d - 64) + i) == 2 :=
    all_eq_of_mem fun i hi => by rw [hdomain _ (by have := List.mem_range.mp hi; omega)]
  have hengines (lo : Nat) (hlo : lo ≤ 96) :
      (((List.range 16).map (lo + ·)).filter fun e => e != d && (s.wr PWR_CMD.DOMAIN v).domainState e == 0) =
      ((List.range 16).map (lo + ·)).filter fun e => e != d && s.domainState e == 0 :=
    List.filter_congr fun e he => by
      obtain ⟨i, hi, rfl⟩ := List.mem_map.mp he
      rw [hdomain _ (by have := List.mem_range.mp hi; omega)]
  have hmin : (s.wr PWR_CMD.DOMAIN v).rd PWR_CFG.MINENG = s.rd PWR_CFG.MINENG := State.rd_wr_ne (by decide)
  simp only [State.mayIdleOff, hcore, hmin, hengines 80 (by decide), hengines 96 (by decide)]
  split
  · rfl
  · split
    next h => exact hcores h
    next => rfl

theorem State.mayCommandOff_wr_PWR_CMD (s : State) (v d : Nat) : (s.wr PWR_CMD.DOMAIN v).mayCommandOff d = s.mayCommandOff d := by
  have hslot : ∀ k, (SLT_STAT.STATE k).addr ≠ PWR_CMD.DOMAIN.addr := fun k => by
    simp only [SLT_STAT.STATE, SLT_STAT.addr, PWR_CMD.DOMAIN, PWR_CMD.addr, blockAddr]
    omega
  have hperst : (s.wr PWR_CMD.DOMAIN v).flag DPT_STAT.PERST = s.flag DPT_STAT.PERST := State.flag_eq_of_rd (State.rd_wr_ne (by decide))
  have hlink : (s.wr PWR_CMD.DOMAIN v).flag EZL_CTL.EN = s.flag EZL_CTL.EN := State.flag_eq_of_rd (State.rd_wr_ne (by decide))
  simp only [State.mayCommandOff, State.mayIdleOff_wr_PWR_CMD, State.rd_wr_addr (hslot _), hperst, hlink, State.wr_cfg]

/-- Settles O18: each command by the state its rule answers. -/
theorem powerDomainCommandsComplete : Obligations.PowerDomainCommandsComplete := by
  refine ⟨fun s d hrun hmay hon hidle => ?_, fun s d hrun hmay hgated hidle => ?_, fun s d e hrun hfind hgoal hd hdue => ?_,
    fun s d hrun hd hlow => ?_, fun s who d hrun hopens hbusy => ?_⟩
  · have hd : d < 155 := by omega
    have hcond : (mayGate d && s.domainState d == 0 && !s.noIdle d) = true := by
      simpa [mayGate, hon, hidle] using hmay
    simp only [exec_domainIdleGate, execDomainIdleGate, onSoc_of_running hrun, hcond, if_true]
    refine ⟨⟨_, rfl, s.entryAccepted_gated hd⟩, ⟨_, rfl, s.entryRefused_shows hd 0⟩, fun n hlow hhigh => ?_⟩
    have hshort : (decide (n = 0) || decide (1000 < n) || decide (8 ≤ 0)) = false := by
      simp; omega
    refine ⟨(s.setDomain d 3).onPower fun p => { p with
      entries := p.entries.filter (·.domain != d) ++ [⟨d, .gated, 1, 0, s.now + 1000 * n⟩] }, ?_, ?_, ?_⟩
    · simp only [State.handshake, hshort, Bool.false_eq_true, if_false]
      rfl
    · rw [State.domainState_onPower, State.domainState_setDomain _ hd]
    · rw [State.onPower_power]
      exact List.mem_append_right _ List.mem_cons_self
  · have hd : d < 155 := Nat.lt_trans (State.lt_of_mayIdleOff hmay) (by decide)
    simp only [exec_domainIdleOff, execDomainIdleOff, onSoc_of_running hrun, hmay, hgated, hidle]
    exact ⟨_, rfl, State.domainState_powerOffDomain _ hd⟩
  · simp only [exec_handshakeDelayExpiry, execHandshakeDelayExpiry, onSoc_of_running hrun, hfind, hgoal, if_neg (Nat.not_lt.mpr hdue)]
    obtain ⟨hstate, hshown, -⟩ := s.entryRefused_shows hd e.back
    exact ⟨⟨_, rfl, (s.entryAccepted_gated hd).1⟩, ⟨_, rfl, hstate, hshown⟩⟩
  · have hcond : (decide (d < 155) && (s.domainState d == 1 || s.domainState d == 2)) = true := by simpa [hd] using hlow
    simp only [exec_domainWake, execDomainWake, onSoc_of_running hrun, hcond, if_true]
    exact ⟨_, rfl, State.domainState_powerOnDomain s hd⟩
  · have hbusy' : ∀ v : Word, (s.written PWR_CMD.addr v).flag PWR_CMD.BUSY = false := fun v => by
      rw [State.written_PWR_CMD, ← hbusy]
      exact State.flag_eq_of_rd (State.rd_wr_ne (by decide))
    refine ⟨fun hd => ?_, fun hmay hstate => ?_, fun refuser u hstep hu => ?_⟩
    · rw [exec_pwrWakeDomain, execPwrWakeDomain, onSoc_of_running hrun, State.commandWrite_opens hopens, hbusy',
        if_neg Bool.false_ne_true, if_neg (by omega)]
      refine ⟨_, rfl, ?_, ?_⟩
      · rw [State.domainState, State.answered_rd]
        exact (State.domainState_wr hd (.inl (by decide)) 0).trans (State.domainState_powerOnDomain _ hd)
      · rw [State.answered_rd, State.rd_wr_fits (by decide) (by decide)]
    · have hd : d < 155 := Nat.lt_trans (State.lt_of_mayCommandOff hmay) (by decide)
      have hnot : ¬ (s.written PWR_CMD.addr (pwrWord 2 d)).domainState d = 2 := by
        rw [State.written_PWR_CMD, State.domainState_wr hd (.inl (by decide))]
        omega
      have hmay' : (s.written PWR_CMD.addr (pwrWord 2 d)).mayCommandOff d = true := by
        rw [State.written_PWR_CMD, State.mayCommandOff_wr_PWR_CMD, hmay]
      rw [exec_pwrPowerOffDomain, execPwrPowerOffDomain, onSoc_of_running hrun, State.commandWrite_opens hopens, hbusy',
        if_neg Bool.false_ne_true, hmay', if_neg (by decide), if_neg hnot]
      refine ⟨_, rfl, ?_, ?_, ?_⟩
      · rw [State.domainState, State.answered_rd, State.handshake, State.entryAccepted, State.wrs_cons, State.wrs_cons, State.wrs_nil]
        exact (State.domainState_wr hd (.inl (by decide)) 0).trans ((State.domainState_wr hd (.inl (by decide)) 0).trans
          (State.domainState_powerOffDomain _ hd))
      · rw [State.answered_rd, State.handshake, State.entryAccepted, State.wrs_cons, State.wrs_cons, State.wrs_nil,
          State.rd_wr_fits (by decide) (by decide)]
      · rw [State.answered_rd, State.handshake, State.entryAccepted, State.wrs_cons, State.wrs_cons, State.wrs_nil,
          State.rd_wr_ne (by decide), State.rd_wr_fits (by decide) (by decide)]
    · have hstep' : u.power.dormantStep = none := by rw [hu, State.written_PWR_CMD, State.wr_power, hstep]
      rw [exec_pwrEnterDormant, execPwrEnterDormant, onData_of_running hrun, State.commandWrite_opens hopens, ← hu,
        if_neg (by rw [hstep', hu, hbusy']; decide)]

end Sys2Proof.Machine
end

section
/-! The commands of the Caller: the phrase decision and the regulators' answers (chapter Caller and Power States). -/

set_option Elab.async false

namespace Sys2Proof.Machine

theorem inBlock_CAL_CL {c : Nat} : inBlock .cal (CAL_CL.addr c) = true := inBlock_blockAddr (by decide) (by decide)

theorem inBlock_CLK_DOM {c : Nat} : inBlock .clk (CLK_DOM.addr c) = true := inBlock_blockAddr (by decide) (by decide)

theorem CAL_CL_addr_ne_CLK_DOM {c d : Nat} : CAL_CL.addr c ≠ CLK_DOM.addr d := by
  simp only [CAL_CL.addr, CLK_DOM.addr, blockAddr]
  omega

/-- A cluster's register of the Caller stands before those that count. -/
theorem CAL_CL_addr_ne {c a : Nat} (hc : c < 8) (ha : CAL_CL.addr 7 < a) : CAL_CL.addr c ≠ a := by
  simp only [CAL_CL.addr, blockAddr] at ha ⊢
  omega

theorem CLK_DOM_addr_ne_high {c a : Nat} (ha : MEAS_CTL.addr ≤ a) : CLK_DOM.addr c ≠ a := by
  simp only [MEAS_CTL.addr, CLK_DOM.addr, blockAddr] at ha ⊢
  omega

theorem CAL_CL_addr_ne_CAL_STAT {c : Nat} (hc : c < 8) : CAL_CL.addr c ≠ CAL_STAT.addr := by
  simp only [CAL_CL.addr, CAL_STAT.addr, blockAddr]
  omega

theorem levelDivisor_lt (l : Nat) : levelDivisor l < 65536 := by
  have hall : ∀ l < 6, levelDivisor l < 65536 := by decide
  by_cases h : l < 6
  · exact hall l h
  · rw [levelDivisor, List.getD_eq_getElem?_getD, List.getElem?_eq_none (Nat.le_of_not_lt h)]
    decide

theorem State.applyDeferred_of_nil {s : State} (h : s.power.deferred = []) (c : Nat) : s.applyDeferred c = s := by
  rw [State.applyDeferred, h]
  rfl

theorem State.showWants_keeps {β : Type} (π : State → β) (k : ∀ (s : State) f v, π (s.wr f v) = π s) (s : State) (utils : List Nat) :
    π (s.showWants utils) = π s := by
  refine State.each_keeps π (fun c t => ?_) s (List.range 8)
  simp only [State.wrs_cons, State.wrs_nil, k]

/-! What the end of a level change leaves of the cluster's registers. -/

theorem State.flag_endChange_BUSY (s : State) (c : Nat) : (s.endChange c).flag (CAL_CL.BUSY c) = false := by
  refine State.flag_eq_false ?_
  rw [State.endChange, State.rd_onPower, State.rd_wr_fits (by simp [Fld.inWord, CAL_CL.BUSY]) (by simp [CAL_CL.BUSY])]

theorem State.rd_endChange {s : State} {c : Nat} {g : Fld} (h : g.Apart (CAL_CL.BUSY c)) : (s.endChange c).rd g = s.rd g := by
  rw [State.endChange, State.rd_onPower, State.rd_wr_ne h]

theorem CUR_apart_BUSY {c : Nat} : (CAL_CL.CUR c).Apart (CAL_CL.BUSY c) := .inr (by simp [Fld.inWord, CAL_CL.CUR, CAL_CL.BUSY])

theorem DIV_apart_BUSY {c : Nat} : (CLK_DOM.DIV c).Apart (CAL_CL.BUSY c) := .inl CAL_CL_addr_ne_CLK_DOM.symm

/-- The level that an acknowledgement of a raise shows. -/
theorem State.rd_raise (s : State) {c l : Nat} (hl : l < 6) :
    (s.wrs [(CLK_DOM.DIV c, levelDivisor l), (CAL_CL.CUR c, l)]).rd (CAL_CL.CUR c) = l ∧
    (s.wrs [(CLK_DOM.DIV c, levelDivisor l), (CAL_CL.CUR c, l)]).rd (CLK_DOM.DIV c) = levelDivisor l := by
  rw [State.wrs_cons, State.wrs_cons, State.wrs_nil]
  constructor
  · exact State.rd_wr_fits (by simp [Fld.inWord, CAL_CL.CUR]) (Nat.lt_trans hl (by simp [CAL_CL.CUR]))
  · rw [State.rd_wr_addr (CAL_CL_addr_ne_CLK_DOM (c := c) (d := c)).symm]
    exact State.rd_wr_fits (by simp [Fld.inWord, CLK_DOM.DIV]) (levelDivisor_lt l)

/-- An acknowledgement with nothing put off ends the change, after a raise with its level shown. -/
theorem State.avsAck_ends {u : State} {c : Nat} (hc : c < 8) (hdeferred : u.power.deferred = []) :
    let t := (((u.endChange c).onPower fun p => { p with avsFails := p.avsFails.filter (·.1 != c) }).count CAL_LVL_CHANGES.addr).applyDeferred c
    t.flag (CAL_CL.BUSY c) = false ∧ t.rd (CAL_CL.CUR c) = u.rd (CAL_CL.CUR c) ∧ t.rd (CLK_DOM.DIV c) = u.rd (CLK_DOM.DIV c) ∧
      t.power.changes.all (·.cluster != c) = true ∧ t.out = u.out := by
  have hcur : (CAL_CL.CUR c).addr ≠ CAL_LVL_CHANGES.addr := CAL_CL_addr_ne hc (by decide)
  have hdiv : (CLK_DOM.DIV c).addr ≠ CAL_LVL_CHANGES.addr := CLK_DOM_addr_ne_high (by decide)
  dsimp only
  rw [State.applyDeferred_of_nil (by simp [State.endChange, hdeferred])]
  refine ⟨?_, ?_, ?_, by simp [State.endChange], by simp [State.endChange]⟩
  · refine (State.flag_eq_of_rd ?_).trans (u.flag_endChange_BUSY c)
    exact (State.rd_count (CAL_CL_addr_ne hc (by decide))).trans (State.rd_onPower _ _ _)
  · rw [State.rd_count hcur, State.rd_onPower, State.rd_endChange CUR_apart_BUSY]
  · rw [State.rd_count hdiv, State.rd_onPower, State.rd_endChange DIV_apart_BUSY]

/-- Settles O19: each command by the state its rule answers. -/
theorem callerCommandsComplete : Obligations.CallerCommandsComplete := by
  refine ⟨fun s pin tj d utils hrun hgrid hmeasure hpending => ?_, fun s c ch hrun hc hfind hdeferred htarget => ?_,
    fun s c ch hrun hc hfind hdeferred hdue => ?_⟩
  · rw [exec_phraseDecision, execPhraseDecision, onSoc_of_running hrun, if_neg (by simp [hgrid, hmeasure, hpending])]
    refine ⟨_, rfl, ?_, ?_, ?_⟩
    · rw [State.wr_power, State.onPower_power]
    · rw [State.wr_power, State.onPower_power]
      dsimp only
      rw [State.showWants_keeps State.power State.wr_power s utils]
    · rw [State.wr_out, State.onPower_out]
      exact State.showWants_keeps State.out State.wr_out s utils
  · simp only [exec_avsAck, execAvsAck, onSoc_of_running hrun, hfind]
    cases hraise : ch.raise
    · obtain ⟨hbusy, hcur, hdiv, hchanges, hout⟩ := State.avsAck_ends (u := s) hc hdeferred
      exact ⟨_, rfl, hbusy, fun h => absurd h Bool.false_ne_true, fun _ => ⟨hcur, hdiv⟩, hchanges, hout⟩
    · obtain ⟨hlevel, hdivisor⟩ := s.rd_raise (c := c) htarget
      obtain ⟨hbusy, hcur, hdiv, hchanges, hout⟩ := State.avsAck_ends
        (u := s.wrs [(CLK_DOM.DIV c, levelDivisor ch.target), (CAL_CL.CUR c, ch.target)]) hc (by simpa using hdeferred)
      refine ⟨_, rfl, hbusy, fun _ => ⟨hcur.trans hlevel, hdiv.trans hdivisor⟩, fun h => absurd h.symm Bool.false_ne_true, hchanges, hout.trans ?_⟩
      simp
  · simp only [exec_avsTimeout, execAvsTimeout, onSoc_of_running hrun, hfind, if_neg (Nat.not_lt.mpr hdue)]
    obtain ⟨u, hu⟩ : ∃ u, u = (((s.endChange c).count CAL_AVS_FAIL.addr).onPower fun p => { p with
        avsFails := putPerSet p.avsFails c (perSet s.power.avsFails c + 1)
        retry := if ch.raise = true then p.retry else p.retry ++ [c] }).wr (CAL_CL.AVSERR c) 1 := ⟨_, rfl⟩
    have herr : u.rd (CAL_CL.AVSERR c) = 1 := by rw [hu, State.rd_wr_fits (by simp [Fld.inWord, CAL_CL.AVSERR]) (by simp [CAL_CL.AVSERR])]
    have hkept {g : Fld} (haddr : g.addr = CAL_CL.addr c) (hbits : g.hi < 30 ∨ 30 < g.lo) : u.rd g = (s.endChange c).rd g := by
      rw [hu, State.rd_wr_ne (.inr ⟨by simp [Fld.inWord, CAL_CL.AVSERR], hbits⟩), State.rd_onPower,
        State.rd_count (haddr ▸ CAL_CL_addr_ne hc (by decide))]
    have hbusy : u.rd (CAL_CL.BUSY c) = (s.endChange c).rd (CAL_CL.BUSY c) := hkept rfl (.inr (by simp [CAL_CL.BUSY]))
    have hcur : u.rd (CAL_CL.CUR c) = s.rd (CAL_CL.CUR c) := (hkept rfl (.inl (by simp [CAL_CL.CUR]))).trans (State.rd_endChange CUR_apart_BUSY)
    have hnone : u.power.deferred = [] := by rw [hu]; simp [State.endChange, hdeferred]
    rw [← hu]
    split
    next hthree =>
      have hframe : After 0x603400110000c0 (u.wrs [(CAL_CL.HELD c, 1), (CAL_STAT.HELDLVL, 1)])
          ((u.wrs [(CAL_CL.HELD c, 1), (CAL_STAT.HELDLVL, 1)]).plainFault 5 1 0x06 c) := State.plainFault_after _ _ _ _ _ (.of_and_eq rfl) (.refl _)
      have hheld {g : Fld} (haddr : g.addr = CAL_CL.addr c) (hbits : g.hi < 29 ∨ 29 < g.lo) :
          ((u.wrs [(CAL_CL.HELD c, 1), (CAL_STAT.HELDLVL, 1)]).plainFault 5 1 0x06 c).rd g = u.rd g := by
        rw [hframe.rd .cal (haddr ▸ inBlock_CAL_CL) rfl, State.wrs_cons, State.wrs_cons, State.wrs_nil,
          State.rd_wr_addr (haddr ▸ CAL_CL_addr_ne_CAL_STAT hc), State.rd_wr_ne (.inr ⟨by simp [Fld.inWord, CAL_CL.HELD], hbits⟩)]
      refine ⟨_, rfl, ?_, ?_, ?_, fun _ => ?_⟩
      · exact State.flag_eq_true ((hheld rfl (.inr (by simp [CAL_CL.AVSERR]))).trans herr)
      · exact (State.flag_eq_of_rd ((hheld rfl (.inr (by simp [CAL_CL.BUSY]))).trans hbusy)).trans (s.flag_endChange_BUSY c)
      · exact (hheld rfl (.inl (by simp [CAL_CL.CUR]))).trans hcur
      · refine State.flag_eq_true ?_
        rw [hframe.rd .cal inBlock_CAL_CL rfl, State.wrs_cons, State.wrs_cons, State.wrs_nil, State.rd_wr_addr (CAL_CL_addr_ne_CAL_STAT hc),
          State.rd_wr_fits (by simp [Fld.inWord, CAL_CL.HELD]) (by simp [CAL_CL.HELD])]
    next hfew =>
      rw [State.applyDeferred_of_nil hnone]
      exact ⟨_, rfl, State.flag_eq_true herr, (State.flag_eq_of_rd hbusy).trans (s.flag_endChange_BUSY c), hcur, fun h => absurd h (by omega)⟩

end Sys2Proof.Machine
end

section
/-! The key commands (chapter Cipher Engine). -/

set_option Elab.async false

namespace Sys2Proof.Machine

/-! Tables kept by key. -/

theorem getBy_putBy_self {α : Type} (key : α → Nat) (a : α) (l : List α) : getBy key (key a) (putBy key a l) = some a := by
  induction l with
  | nil => simp [getBy, putBy]
  | cons b l ih =>
    simp only [getBy, putBy] at ih ⊢
    split
    · simp
    · split
      · simp
      next hne => rw [List.find?_cons_of_neg (by simpa using Ne.symm hne), ih]

theorem getBy_putBy_ne {α : Type} {key : α → Nat} {a : α} {k : Nat} (h : k ≠ key a) (l : List α) : getBy key k (putBy key a l) = getBy key k l := by
  induction l with
  | nil => simp [getBy, putBy, h.symm]
  | cons b l ih =>
    simp only [getBy, putBy] at ih ⊢
    split
    · simp [h.symm]
    · split
      next e => rw [List.find?_cons_of_neg (by simpa using h.symm), List.find?_cons_of_neg (by simpa [← e] using h.symm)]
      · simp only [List.find?_cons, ih]

theorem getBy_dropBy_self {α : Type} (key : α → Nat) (k : Nat) (l : List α) : getBy key k (dropBy key k l) = none := by
  simp [getBy, dropBy]

/-! The end of a key command. -/

/-- What a key command that has run leaves, `v` being the state after its operation. -/
def State.keyCommandDone (v : State) (status : Nat) (who : Requester) (word : Word) : State :=
  (((v.wrs [(CIP_KCMD.BUSY, 0), (CIP_KCMD.STATUS, status)]).count CIP_KEY_CMDS.addr).onKeys fun x => { x with waiting := none }).answered who
    CIP_KCMD.addr word

section
variable (v : State) (status : Nat) (who : Requester) (word : Word)

theorem State.keyCommandDone_keys : (v.keyCommandDone status who word).keys = { v.keys with waiting := none } := by simp [State.keyCommandDone]

theorem State.keyCommandDone_mem : (v.keyCommandDone status who word).mem = v.mem := by simp [State.keyCommandDone]

theorem State.keyCommandDone_keySlot (k : Nat) : (v.keyCommandDone status who word).keySlot k = v.keySlot k := by
  simp [State.keySlot, State.keyCommandDone_keys]

theorem State.keyCommandDone_slotKey (k : Nat) : (v.keyCommandDone status who word).slotKey k = v.slotKey k := by
  simp [State.slotKey, State.keyCommandDone_keySlot]

theorem State.rd_keyCommandDone {g : Fld} (h : g.addr ≠ CIP_KCMD.addr) (h' : g.addr ≠ CIP_KEY_CMDS.addr) :
    (v.keyCommandDone status who word).rd g = v.rd g := by
  rw [State.keyCommandDone, State.answered_rd, State.rd_onKeys, State.rd_count h', State.wrs_cons, State.wrs_cons, State.wrs_nil,
    State.rd_wr_addr h, State.rd_wr_addr h]

theorem State.rd_keyCommandDone_STATUS {status : Nat} (h : status < 16) : (v.keyCommandDone status who word).rd CIP_KCMD.STATUS = status := by
  rw [State.keyCommandDone, State.answered_rd, State.rd_onKeys, State.rd_count (by decide), State.wrs_cons, State.wrs_cons, State.wrs_nil,
    State.rd_wr_fits (by decide) (Nat.lt_of_lt_of_le h (by decide))]

theorem State.rd_keyCommandDone_BUSY : (v.keyCommandDone status who word).rd CIP_KCMD.BUSY = 0 := by
  rw [State.keyCommandDone, State.answered_rd, State.rd_onKeys, State.rd_count (by decide), State.wrs_cons, State.wrs_cons, State.wrs_nil,
    State.rd_wr_ne (by decide), State.rd_wr_fits (by decide) (by decide)]

end

/-- A key command that no operation in flight holds up runs on the state with SLOT stored. -/
theorem State.keyCommandWrite_runs {s : State} {who : Requester} (hopens : s.Opens who CIP_KCMD.addr) (hbusy : s.flag CIP_KCMD.BUSY = false)
    (hfree : s.keys.inUse = []) (op slot : Nat) (hslot : slot < 8320) :
    ∃ x word, s.keyCommandWrite who op slot =
      (((s.wr CIP_KCMD.SLOT x).keyOperation ⟨op, slot, s.rd64 CIP_KCMD_ADDR.addr, s.rd64 CIP_KCMD_ARG.addr, who⟩).2).keyCommandDone
        ((s.wr CIP_KCMD.SLOT x).keyOperation ⟨op, slot, s.rd64 CIP_KCMD_ADDR.addr, s.rd64 CIP_KCMD_ARG.addr, who⟩).1 who word := by
  have hmod : slot % 16384 = slot := Nat.mod_eq_of_lt (Nat.lt_trans hslot (by decide))
  rw [State.keyCommandWrite, State.commandWrite_opens hopens, State.written_CIP_KCMD, hmod]
  generalize extractBits _ 13 0 = x
  have hbusy' : (s.wr CIP_KCMD.SLOT x).flag CIP_KCMD.BUSY = false := (State.flag_eq_of_rd (State.rd_wr_ne (by decide))).trans hbusy
  have haddr : (s.wr CIP_KCMD.SLOT x).rd64 CIP_KCMD_ADDR.addr = s.rd64 CIP_KCMD_ADDR.addr := s.rd64_setReg_ne (by decide) _
  have harg : (s.wr CIP_KCMD.SLOT x).rd64 CIP_KCMD_ARG.addr = s.rd64 CIP_KCMD_ARG.addr := s.rd64_setReg_ne (by decide) _
  have hidle : ∀ c, (s.wr CIP_KCMD.SLOT x).slotBusy c = false := fun c => by simp [State.slotBusy, hfree]
  rw [hbusy', if_neg Bool.false_ne_true, haddr, harg, State.runKeyCommand, hidle, if_neg Bool.false_ne_true]
  refine ⟨x, BitVec.ofNat 32 (op * 2 ^ 20 + slot), ?_⟩
  obtain ⟨status, v⟩ := (s.wr CIP_KCMD.SLOT x).keyOperation _
  rw [State.keyCommandDone]

end Sys2Proof.Machine
end

section
/-! The operations of CIP_KCMD (Table 16.7), one lemma each, and their obligation. -/

set_option Elab.async false

namespace Sys2Proof.Machine

/-! Stores. -/

@[simp] theorem State.markStore_mem (s : State) (a n : Nat) : (s.markStore a n).mem = s.mem := by
  dsimp only [State.markStore]
  repeat' split
  all_goals simp

@[simp] theorem State.storeBytes_mem (s : State) (a : Nat) (bs : Bytes) : (s.storeBytes a bs).mem = Memory.setMany a bs s.mem := by
  rw [State.storeBytes, State.markStore_mem, State.onMem_mem]

@[simp] theorem State.storeBytes_keys (s : State) (a : Nat) (bs : Bytes) : (s.storeBytes a bs).keys = s.keys :=
  (State.storeBytes_after s a bs (T := 0x10000008004000) (.of_and_eq rfl) (.refl s)).part .keys rfl

@[simp] theorem State.keepBlob_keys (s : State) (nsid : Nat) (blob : Bytes) : (s.keepBlob nsid blob).keys = s.keys := by simp [State.keepBlob]
@[simp] theorem State.keepBlob_mem (s : State) (nsid : Nat) (blob : Bytes) : (s.keepBlob nsid blob).mem = s.mem := by simp [State.keepBlob]

@[simp] theorem State.loadSlot_mem (s : State) (k kind gen : Nat) (key : Bytes) : (s.loadSlot k kind gen key).mem = s.mem := by simp [State.loadSlot]

theorem State.keySlot_of_keys {s t : State} (h : t.keys = s.keys) (k : Nat) : t.keySlot k = s.keySlot k := by rw [State.keySlot, h, State.keySlot]

theorem State.keySlot_loadSlot_self (s : State) (k kind gen : Nat) (key : Bytes) :
    (s.loadSlot k kind gen key).keySlot k = some ⟨k, kind, key, gen⟩ := by
  rw [State.keySlot, State.loadSlot, State.onKeys_keys]
  exact getBy_putBy_self KeySlot.slot ⟨k, kind, key, gen⟩ _

theorem State.keySlot_loadSlot_ne {s : State} {j k kind gen : Nat} {key : Bytes} (h : j ≠ k) :
    (s.loadSlot k kind gen key).keySlot j = s.keySlot j := by
  rw [State.keySlot, State.loadSlot, State.onKeys_keys]
  exact getBy_putBy_ne h _

/-- The registers that SLOT does not share a word with, the keys and the memory are what the operations read. -/
theorem State.load_of_mem {s t : State} (h : t.mem = s.mem) (a n : Nat) : t.load a n = s.load a n := by rw [State.load, h, State.load]

theorem State.openBlob_of_keys {s t : State} (h : t.keys = s.keys) (blob : Bytes) : t.openBlob blob = s.openBlob blob := by
  simp only [State.openBlob, State.blobKek, State.kek, h]

/-! Generate, unwrap, zeroise, derive. -/

theorem State.keyGenerate_draws {s : State} {slot addr : Nat} {kek : Bytes} (hlow : 128 ≤ slot) (hslot : slot < 8320)
    (hdrbg : s.flag CIP_STAT.DRBG_OK = true) (hkek : s.kek (s.rd CIP_STAT.KEKGEN) = some kek) (hhalves : halvesEqual (s.random 64).1 = false) :
    ∃ v, s.keyGenerate slot addr = (0, v) ∧ v.keySlot slot = some ⟨slot, 1, (s.random 64).1, s.rd CIP_STAT.KEKGEN⟩ ∧
      v.mem = (s.storeBytes addr (keyBlob 1 (s.rd CIP_STAT.KEKGEN) (slot - 127) (Config.kwWrap kek (s.random 64).1))).mem := by
  have hrandom : s.random 64 = ((s.random 64).1, s.onDraws (· + 1)) := rfl
  rw [State.keyGenerate, if_neg (by omega), if_neg (by simp [hdrbg])]
  dsimp only
  rw [hkek]
  dsimp only
  rw [hrandom]
  dsimp only
  rw [if_neg (by simp [hhalves])]
  refine ⟨_, rfl, ?_, ?_⟩
  · rw [State.keySlot_of_keys (State.storeBytes_keys _ _ _), State.keySlot_of_keys (State.keepBlob_keys _ _ _), State.keySlot_loadSlot_self]
  · rw [State.storeBytes_mem, State.storeBytes_mem, State.keepBlob_mem, State.loadSlot_mem, State.onDraws_mem]

theorem State.keyUnwrap_opens {s : State} {slot addr kind gen owner : Nat} {key : Bytes}
    (hopen : s.openBlob (s.load addr 80) = some (kind, gen, owner, key)) (hfits : blobFits slot kind owner = true)
    (hhalves : kind = 2 ∨ halvesEqual key = false) :
    ∃ v, s.keyUnwrap slot addr = (0, v) ∧ v.keySlot slot = some ⟨slot, kind, key, gen⟩ ∧ v.mem = s.mem := by
  rw [State.keyUnwrap, hopen]
  dsimp only
  rw [hfits, if_neg (by decide), if_neg (by obtain h | h := hhalves <;> simp [h])]
  exact ⟨_, rfl, s.keySlot_loadSlot_self _ _ _ _, s.loadSlot_mem _ _ _ _⟩

theorem State.keyZeroise_empties {s : State} {slot : Nat} (hslot : slot < 8320) :
    ∃ v, s.keyZeroise slot = (0, v) ∧ v.keySlot slot = none ∧ v.mem = s.mem := by
  rw [State.keyZeroise, if_neg (by omega)]
  refine ⟨_, rfl, ?_, ?_⟩
  · dsimp only [State.zeroiseSlot]
    split <;> simp [State.keySlot, getBy_dropBy_self]
  · dsimp only [State.zeroiseSlot]
    split <;> simp

@[simp] theorem State.tryTrain_keys (s : State) : s.tryTrain.keys = s.keys := by
  rw [State.tryTrain]; split <;> simp

theorem State.keyDerivePair_loads {s : State} {prk : Bytes} (hprk : s.keys.prk = some prk) :
    ∃ v, s.keyDerivePair = (0, v) ∧ v.slotKey 0 = Config.kdf Config.deviceKey labelVault 0 ∧ v.slotKey 1 = Config.kdf prk labelJournal 0 ∧
      v.slotKey 2 = Config.kdf prk labelLink s.cfg.position ∧ v.slotKey 3 = Config.kdf prk labelLink (1 - s.cfg.position) := by
  rw [State.keyDerivePair, hprk]
  refine ⟨_, rfl, ?_, ?_, ?_, ?_⟩ <;>
    simp only [State.slotKey, State.keySlot_of_keys (State.tryTrain_keys _)] <;>
    simp (disch := decide) only [State.keySlot_loadSlot_ne, State.keySlot_loadSlot_self]

/-! The ratchet. -/

/-- Rewrapping reads keys and memory alone. -/
theorem State.rewrap_isSome_of_keys {gen : Nat} {kek : Bytes} {n : Nat} : ∀ {s t : State} {addr : Nat}, t.keys = s.keys → t.mem = s.mem →
    (s.rewrap gen kek n addr).isSome = true → (t.rewrap gen kek n addr).isSome = true := by
  induction n with
  | zero => exact fun _ _ _ => rfl
  | succ n ih =>
    intro s t addr hkeys hmem h
    rw [State.rewrap, State.openBlob_of_keys hkeys, State.load_of_mem hmem]
    rw [State.rewrap] at h
    split at h
    next gen' owner key hopen =>
      refine ih ?_ ?_ h
      · rw [State.keepBlob_keys, State.storeBytes_keys, hkeys, State.keepBlob_keys, State.storeBytes_keys]
      · rw [State.keepBlob_mem, State.storeBytes_mem, hmem, State.keepBlob_mem, State.storeBytes_mem]
    next => cases h

theorem State.rewrap_frame {s v : State} {gen : Nat} {kek : Bytes} {n addr : Nat} (h : s.rewrap gen kek n addr = some v) :
    After 0x10000008004200 s v := State.rewrap_after s gen kek n addr (.of_and_eq rfl) (.refl s) v h

theorem State.rd_newKek (s : State) : s.newKek.2.2.rd CIP_STAT.KEKGEN = (s.rd CIP_STAT.KEKGEN + 1) % 65536 ∧
    s.newKek.2.2.rd CIP_STAT.RATCHET = 1 ∧ s.newKek.2.2.rd EZL_STAT.STATE = s.rd EZL_STAT.STATE ∧
    s.newKek.2.2.keys.ratchetMeasure.isNone = false := by
  have hfits : (s.rd CIP_STAT.KEKGEN + 1) % 65536 < 2 ^ (CIP_STAT.KEKGEN.hi + 1 - CIP_STAT.KEKGEN.lo) :=
    Nat.lt_of_lt_of_le (Nat.mod_lt _ (by decide)) (by decide)
  simp only [State.newKek, State.random, State.wrs_cons, State.wrs_nil, State.rd_onKeys, State.onKeys_keys]
  refine ⟨?_, State.rd_wr_fits (by decide) (by decide), ?_, rfl⟩
  · rw [State.rd_wr_ne (by decide), State.rd_wr_fits (by decide) hfits]
  · rw [State.rd_wr_ne (by decide), State.rd_wr_ne (by decide), State.rd_onDraws]

/-- Without a peer the old KEKs go at once, and the ratchet is over; while Paired it stays under way. -/
theorem State.rd_ratchetAlone {v : State} (hmeasure : v.keys.ratchetMeasure.isNone = false) (hratchet : v.rd CIP_STAT.RATCHET = 1) :
    v.ratchetAlone.rd CIP_STAT.RATCHET = (if v.rd EZL_STAT.STATE = 3 then 1 else 0) ∧ v.ratchetAlone.rd CIP_STAT.KEKGEN = v.rd CIP_STAT.KEKGEN := by
  by_cases h : v.rd EZL_STAT.STATE = 3
  · rw [State.ratchetAlone, if_pos (by simp [h]), if_pos h]
    exact ⟨hratchet, rfl⟩
  · rw [State.ratchetAlone, if_neg (by simp [h, hmeasure]), if_neg h, State.destroyOldKeks, State.rd_onKeys, State.rd_onKeys]
    exact ⟨State.rd_wr_fits (by decide) (by decide), State.rd_wr_ne (by decide)⟩

theorem State.kekRatchet_rewraps {s : State} {prk : Bytes} {addr n : Nat} (hdrbg : s.flag CIP_STAT.DRBG_OK = true) (hprk : s.keys.prk = some prk)
    (hrewrap : (s.newKek.2.2.rewrap s.newKek.1 s.newKek.2.1 n addr).isSome = true) :
    ∃ v, s.kekRatchet addr n = (0, v) ∧ v.rd CIP_STAT.RATCHET = (if s.rd EZL_STAT.STATE = 3 then 1 else 0) ∧
      v.rd CIP_STAT.KEKGEN = (s.rd CIP_STAT.KEKGEN + 1) % 65536 := by
  obtain ⟨w, hw⟩ := Option.isSome_iff_exists.mp hrewrap
  obtain ⟨hgen, hratchet, hlink, hmeasure⟩ := s.rd_newKek
  have hframe : After 0x10000008004200 s.newKek.2.2
      (w.storeBytes (addr + 80 * n) (Config.kwWrap (Config.kdf prk labelKek (s.newKek.1 % 256)) s.newKek.2.1)) :=
    State.storeBytes_after _ _ _ (.of_and_eq rfl) (State.rewrap_frame hw)
  have hcip {g : Fld} (h : inBlock .cip g.addr = true) := hframe.rd .cip h rfl
  rw [State.kekRatchet, if_neg (by simp [hdrbg]), hprk]
  dsimp only
  rw [hw]
  refine ⟨_, rfl, ?_⟩
  obtain ⟨hend, hkept⟩ := State.rd_ratchetAlone (congrArg (·.ratchetMeasure.isNone) (hframe.part .keys rfl) |>.trans hmeasure)
    ((hcip (by decide)).trans hratchet)
  rw [hend, hkept, hcip (g := CIP_STAT.KEKGEN) (by decide), hgen, hframe.rd (f := EZL_STAT.STATE) .ezl (by decide) rfl, hlink]
  exact ⟨rfl, rfl⟩

/-! High-waters, the status of a slot, the import. -/

theorem State.highWaterLoad_raises {s : State} {slot addr v : Nat} {k : KeySlot} (hslot : s.keySlot slot = some k) :
    ∃ t, s.highWaterLoad slot addr v = (0, t) ∧
      t.highWater slot (s.loadNat addr 4) = some (max v ((s.highWater slot (s.loadNat addr 4)).getD 0)) := by
  rw [State.highWaterLoad, hslot]
  refine ⟨_, rfl, ?_⟩
  have hset : ∀ c, (s.setHighWater slot c v).highWater slot c = some v := fun c => by simp [State.highWater, State.setHighWater]
  rw [State.raiseHighWater]
  cases hh : s.highWater slot (s.loadNat addr 4) with
  | none => simpa using hset _
  | some h =>
    dsimp only
    split
    next hlt => rw [hset, Option.getD_some, Nat.max_eq_left (Nat.le_of_lt hlt)]
    next hge => rw [hh, Option.getD_some, Nat.max_eq_right (Nat.le_of_not_lt hge)]

theorem State.slotStatus_stores {s : State} {slot addr : Nat} {k : KeySlot} (hslot : slot < 8320) (hkey : s.keySlot slot = some k) :
    ∃ v, s.slotStatus slot addr = (0, v) ∧
      v.mem = (s.storeBytes addr (leBytes 1 k.kind ++ leBytes 1 1 ++ leBytes 2 k.kekgen ++ leBytes 12 0)).mem := by
  rw [State.slotStatus, if_neg (by omega), hkey]
  exact ⟨_, rfl, rfl⟩

theorem State.kekImport_takes {s : State} {prk kek : Bytes} {addr : Nat} (hprk : s.keys.prk = some prk)
    (hkek : Config.kwUnwrap (Config.kdf prk labelKek ((s.rd CIP_STAT.KEKGEN + 1) % 65536 % 256)) (s.load addr 40) = some kek) :
    ∃ v, s.kekImport addr = (0, v) ∧ v.rd CIP_STAT.KEKGEN = (s.rd CIP_STAT.KEKGEN + 1) % 65536 ∧
      v.kek ((s.rd CIP_STAT.KEKGEN + 1) % 65536) = some kek := by
  have hfits : (s.rd CIP_STAT.KEKGEN + 1) % 65536 < 2 ^ (CIP_STAT.KEKGEN.hi + 1 - CIP_STAT.KEKGEN.lo) :=
    Nat.lt_of_lt_of_le (Nat.mod_lt _ (by decide)) (by decide)
  have hfirst : (List.range 256).findSome? (fun n => (Config.kwUnwrap (Config.kdf prk labelKek ((s.rd CIP_STAT.KEKGEN + 1 + n) % 65536 % 256))
      (s.load addr 40)).map fun kek => ((s.rd CIP_STAT.KEKGEN + 1 + n) % 65536, kek)) = some ((s.rd CIP_STAT.KEKGEN + 1) % 65536, kek) := by
    rw [show List.range 256 = 0 :: (List.range 255).map Nat.succ from List.range_succ_eq_map]
    rw [List.findSome?_cons, Nat.add_zero, hkek]
    rfl
  rw [State.kekImport, hprk]
  dsimp only
  rw [hfirst]
  refine ⟨_, rfl, ?_, ?_⟩
  · rw [State.rd_onKeys, State.rd_wr_fits (by decide) hfits]
  · simp [State.kek]

end Sys2Proof.Machine
end

section
/-! The key commands' obligation. -/

set_option Elab.async false

namespace Sys2Proof.Machine

/-- What a key operation reads is not changed by the plain write of CIP_KCMD, which stores SLOT. -/
theorem State.rd_wr_SLOT {s : State} {x : Nat} {g : Fld} (h : g.addr ≠ CIP_KCMD.addr) : (s.wr CIP_KCMD.SLOT x).rd g = s.rd g := State.rd_wr_addr h

theorem State.flag_wr_SLOT {s : State} {x : Nat} {g : Fld} (h : g.addr ≠ CIP_KCMD.addr) : (s.wr CIP_KCMD.SLOT x).flag g = s.flag g :=
  State.flag_eq_of_rd (State.rd_wr_SLOT h)

theorem State.random_wr (s : State) (f : Fld) (v n : Nat) : ((s.wr f v).random n).1 = (s.random n).1 := by
  simp only [State.random, State.wr_draws]

theorem State.newKek_wr_SLOT (s : State) (x : Nat) : (s.wr CIP_KCMD.SLOT x).newKek.1 = s.newKek.1 ∧
    (s.wr CIP_KCMD.SLOT x).newKek.2.1 = s.newKek.2.1 ∧ (s.wr CIP_KCMD.SLOT x).newKek.2.2.keys = s.newKek.2.2.keys ∧
    (s.wr CIP_KCMD.SLOT x).newKek.2.2.mem = s.newKek.2.2.mem := by
  have hgen : (s.wr CIP_KCMD.SLOT x).rd CIP_STAT.KEKGEN = s.rd CIP_STAT.KEKGEN := State.rd_wr_SLOT (by decide)
  have hmeasure : (s.wr CIP_KCMD.SLOT x).measure = s.measure := by rw [State.measure, State.wr_clock, State.measure]
  simp only [State.newKek, State.random, hgen, hmeasure, State.wr_draws, State.onKeys_keys, State.onKeys_mem, State.wrs_cons, State.wrs_nil,
    State.wr_keys, State.wr_mem, State.onDraws_keys, State.onDraws_mem, and_self]

/-- Before every slot has been zeroised only a zeroise is accepted; after it each operation is its own. -/
theorem State.keyOperation_of_ready {s : State} (h : s.flag CIP_STAT.INIT = false) (slot addr arg : Nat) (who : Requester) :
    s.keyOperation ⟨1, slot, addr, arg, who⟩ = s.keyGenerate slot addr ∧ s.keyOperation ⟨2, slot, addr, arg, who⟩ = s.keyUnwrap slot addr ∧
    s.keyOperation ⟨4, slot, addr, arg, who⟩ = s.keyDerivePair ∧ s.keyOperation ⟨5, slot, addr, arg, who⟩ = s.kekRatchet addr arg ∧
    s.keyOperation ⟨6, slot, addr, arg, who⟩ = s.highWaterLoad slot addr arg ∧ s.keyOperation ⟨7, slot, addr, arg, who⟩ = s.slotStatus slot addr ∧
    s.keyOperation ⟨8, slot, addr, arg, who⟩ = s.kekImport addr := by
  simp [State.keyOperation, h]

theorem State.keyOperation_zeroise (s : State) (slot addr arg : Nat) (who : Requester) :
    s.keyOperation ⟨3, slot, addr, arg, who⟩ = s.keyZeroise slot := by
  simp [State.keyOperation]

/-- Settles O21: each command by its operation on the state with SLOT stored. -/
theorem keyCommandsComplete : Obligations.KeyCommandsComplete := by
  intro s who slot hrun hopens hbusy hfree hslot
  have hruns := fun op slot hslot => State.keyCommandWrite_runs hopens hbusy hfree op slot hslot
  refine ⟨?_, fun hinit => ?_⟩
  · obtain ⟨x, word, heq⟩ := hruns 3 slot hslot
    obtain ⟨v, hv, hempty, hmem⟩ := State.keyZeroise_empties (s := s.wr CIP_KCMD.SLOT x) hslot
    rw [exec_keyZeroise, execKeyZeroise, onSoc_of_running hrun, heq, State.keyOperation_zeroise, hv]
    refine ⟨_, rfl, v.rd_keyCommandDone_STATUS who word (status := 0) (by decide), v.rd_keyCommandDone_BUSY 0 who word,
      (v.keyCommandDone_keySlot 0 who word slot).trans hempty, (v.keyCommandDone_mem 0 who word).trans (hmem.trans (s.wr_mem _ _))⟩
  have hinit' : ∀ x, (s.wr CIP_KCMD.SLOT x).flag CIP_STAT.INIT = false := fun x => (State.flag_wr_SLOT (by decide)).trans hinit
  have hgen : ∀ x, (s.wr CIP_KCMD.SLOT x).rd CIP_STAT.KEKGEN = s.rd CIP_STAT.KEKGEN := fun x => State.rd_wr_SLOT (by decide)
  have hload : ∀ x a n, (s.wr CIP_KCMD.SLOT x).load a n = s.load a n := fun x => State.load_of_mem (s.wr_mem _ _)
  refine ⟨fun kek hlow hdrbg hkek hhalves => ?_, fun kind gen owner key hopen hfits hhalves => ?_, fun prk hprk => ?_,
    fun prk v hdrbg hprk hrewrap => ?_, fun k hkey => ⟨?_, ?_⟩, fun prk kek hprk hkek => ?_⟩
  · obtain ⟨x, word, heq⟩ := hruns 1 slot hslot
    obtain ⟨v, hv, hloaded, hmem⟩ := State.keyGenerate_draws (s := s.wr CIP_KCMD.SLOT x) (addr := s.rd64 CIP_KCMD_ADDR.addr) hlow hslot
      ((State.flag_wr_SLOT (by decide)).trans hdrbg) (by rw [hgen, State.kek, State.wr_keys]; exact hkek) (by rw [State.random_wr, hhalves])
    rw [exec_keyGenerate, execKeyGenerate, onSoc_of_running hrun, heq, (State.keyOperation_of_ready (hinit' x) _ _ _ _).1, hv]
    refine ⟨_, rfl, v.rd_keyCommandDone_STATUS who word (status := 0) (by decide), ?_, ?_⟩
    · rw [State.keyCommandDone_keySlot, hloaded, State.random_wr, hgen]
    · rw [State.keyCommandDone_mem, hmem, State.random_wr, hgen, State.storeBytes_mem, State.wr_mem, State.storeBytes_mem]
  · obtain ⟨x, word, heq⟩ := hruns 2 slot hslot
    obtain ⟨v, hv, hloaded, hmem⟩ := State.keyUnwrap_opens (s := s.wr CIP_KCMD.SLOT x) (addr := s.rd64 CIP_KCMD_ADDR.addr) (slot := slot)
      (by rw [hload, State.openBlob_of_keys (s.wr_keys _ _)]; exact hopen) hfits hhalves
    rw [exec_keyUnwrap, execKeyUnwrap, onSoc_of_running hrun, heq, (State.keyOperation_of_ready (hinit' x) _ _ _ _).2.1, hv]
    exact ⟨_, rfl, v.rd_keyCommandDone_STATUS who word (status := 0) (by decide), (v.keyCommandDone_keySlot 0 who word slot).trans hloaded,
      (v.keyCommandDone_mem 0 who word).trans (hmem.trans (s.wr_mem _ _))⟩
  · obtain ⟨x, word, heq⟩ := hruns 4 0 (by decide)
    obtain ⟨v, hv, h0, h1, h2, h3⟩ := State.keyDerivePair_loads (s := s.wr CIP_KCMD.SLOT x) (by rw [State.wr_keys, hprk])
    rw [exec_keyDerivePair, execKeyDerivePair, onSoc_of_running hrun, heq, (State.keyOperation_of_ready (hinit' x) _ _ _ _).2.2.1, hv]
    refine ⟨_, rfl, v.rd_keyCommandDone_STATUS who word (status := 0) (by decide), ?_, ?_, ?_, ?_⟩ <;> rw [State.keyCommandDone_slotKey]
    · exact h0
    · exact h1
    · rw [h2, State.wr_cfg]
    · rw [h3, State.wr_cfg]
  · obtain ⟨x, word, heq⟩ := hruns 5 0 (by decide)
    obtain ⟨hg, hk, hkeys, hmem⟩ := s.newKek_wr_SLOT x
    obtain ⟨w, hw, hratchet, hkekgen⟩ := State.kekRatchet_rewraps (s := s.wr CIP_KCMD.SLOT x) (addr := s.rd64 CIP_KCMD_ADDR.addr)
      (n := s.rd64 CIP_KCMD_ARG.addr) ((State.flag_wr_SLOT (by decide)).trans hdrbg) (by rw [State.wr_keys, hprk])
      (by rw [hg, hk]; exact State.rewrap_isSome_of_keys hkeys hmem (by rw [hrewrap]; rfl))
    rw [exec_kekRatchet, execKekRatchet, onSoc_of_running hrun, heq, (State.keyOperation_of_ready (hinit' x) _ _ _ _).2.2.2.1, hw]
    refine ⟨_, rfl, w.rd_keyCommandDone_STATUS who word (status := 0) (by decide), ?_, ?_⟩
    · rw [State.rd_keyCommandDone _ _ _ _ (by decide) (by decide), hratchet, State.rd_wr_SLOT (by decide)]
    · rw [State.rd_keyCommandDone _ _ _ _ (by decide) (by decide), hkekgen, hgen]
  · obtain ⟨x, word, heq⟩ := hruns 6 slot hslot
    obtain ⟨v, hv, hhigh⟩ := State.highWaterLoad_raises (s := s.wr CIP_KCMD.SLOT x) (addr := s.rd64 CIP_KCMD_ADDR.addr)
      (v := s.rd64 CIP_KCMD_ARG.addr) (k := k) ((State.keySlot_of_keys (s.wr_keys _ _) slot).trans hkey)
    rw [exec_highWaterLoad, execHighWaterLoad, onSoc_of_running hrun, heq, (State.keyOperation_of_ready (hinit' x) _ _ _ _).2.2.2.2.1, hv]
    refine ⟨_, rfl, v.rd_keyCommandDone_STATUS who word (status := 0) (by decide), ?_⟩
    simp only [State.loadNat, hload, State.highWater, State.keyCommandDone_keys, State.wr_keys] at hhigh ⊢
    exact hhigh
  · obtain ⟨x, word, heq⟩ := hruns 7 slot hslot
    obtain ⟨v, hv, hmem⟩ := State.slotStatus_stores (s := s.wr CIP_KCMD.SLOT x) (addr := s.rd64 CIP_KCMD_ADDR.addr) (k := k) hslot
      ((State.keySlot_of_keys (s.wr_keys _ _) slot).trans hkey)
    rw [exec_slotStatusRead, execSlotStatusRead, onSoc_of_running hrun, heq, (State.keyOperation_of_ready (hinit' x) _ _ _ _).2.2.2.2.2.1, hv]
    refine ⟨_, rfl, v.rd_keyCommandDone_STATUS who word (status := 0) (by decide), ?_⟩
    rw [State.keyCommandDone_mem, hmem, State.storeBytes_mem, State.wr_mem, State.storeBytes_mem]
  · obtain ⟨x, word, heq⟩ := hruns 8 0 (by decide)
    obtain ⟨v, hv, hkekgen, hheld⟩ := State.kekImport_takes (s := s.wr CIP_KCMD.SLOT x) (addr := s.rd64 CIP_KCMD_ADDR.addr) (prk := prk) (kek := kek)
      (by rw [State.wr_keys, hprk]) (by rw [hgen, hload]; exact hkek)
    rw [exec_kekImport, execKekImport, onSoc_of_running hrun, heq, (State.keyOperation_of_ready (hinit' x) _ _ _ _).2.2.2.2.2.2, hv]
    refine ⟨_, rfl, v.rd_keyCommandDone_STATUS who word (status := 0) (by decide), ?_, ?_⟩
    · rw [State.rd_keyCommandDone _ _ _ _ (by decide) (by decide), hkekgen, hgen]
    · rw [State.kek, State.keyCommandDone_keys, ← hgen x]
      exact hheld

end Sys2Proof.Machine
end

section
/-! The engine work queues' commands (chapter Engine Work Queues). -/

set_option Elab.async false

namespace Sys2Proof.Machine

/-! Addresses of the registers of one queue. -/

/-- A register of the queues: one of `r` in each, 64 bytes apart. -/
def ewqAddr (r q : Nat) : Nat := blockAddr 0x78 (0x1000 + r + 0x40 * q)

theorem ewqAddr_ne {r r' : Nat} (hr : r < 0x40) (hr' : r' < 0x40) (h : r ≠ r') (q : Nat) : ewqAddr r q ≠ ewqAddr r' q := by
  simp only [ewqAddr, blockAddr]
  omega

theorem EWQ_QCTL_addr (q : Nat) : EWQ_QCTL.addr q = ewqAddr 0 q := by simp only [EWQ_QCTL.addr, ewqAddr]
theorem EWQ_QSTAT_addr (q : Nat) : EWQ_QSTAT.addr q = ewqAddr 4 q := by simp only [EWQ_QSTAT.addr, ewqAddr]
theorem EWQ_QBASE_addr (q : Nat) : EWQ_QBASE.addr q = ewqAddr 8 q := by simp only [EWQ_QBASE.addr, ewqAddr]
theorem EWQ_QCBASE_addr (q : Nat) : EWQ_QCBASE.addr q = ewqAddr 0x10 q := by simp only [EWQ_QCBASE.addr, ewqAddr]
theorem EWQ_QTAIL_addr (q : Nat) : EWQ_QTAIL.addr q = ewqAddr 0x18 q := by simp only [EWQ_QTAIL.addr, ewqAddr]
theorem EWQ_QHEAD_addr (q : Nat) : EWQ_QHEAD.addr q = ewqAddr 0x1C q := by simp only [EWQ_QHEAD.addr, ewqAddr]
theorem EWQ_QCCNT_addr (q : Nat) : EWQ_QCCNT.addr q = ewqAddr 0x20 q := by simp only [EWQ_QCCNT.addr, ewqAddr]
theorem EWQ_QCMD_addr (q : Nat) : EWQ_QCMD.addr q = ewqAddr 0x24 q := by simp only [EWQ_QCMD.addr, ewqAddr]
theorem EWQ_QERRADDR_addr (q : Nat) : EWQ_QERRADDR.addr q = ewqAddr 0x28 q := by simp only [EWQ_QERRADDR.addr, ewqAddr]

theorem TWO_PERM_addr_ne {p w r q : Nat} : TWO_PERM.addr p w ≠ ewqAddr r q := by
  simp only [TWO_PERM.addr, ewqAddr, blockAddr]
  omega

/-! What the writes of a queue's registers do to its record. -/

theorem quietRegister_EWQ_QTAIL : ∀ q < 128, quietRegister (EWQ_QTAIL.addr q) = true := by decide +kernel

theorem quietRegister_EWQ_QCMD : ∀ q < 128, quietRegister (EWQ_QCMD.addr q) = true := by decide +kernel

/-- The row of EWQ_QCTL. -/
def qctlRow : RegRow := ⟨"EWQ_QCTL", 0x1000, [(128, 0x40)], false,
  [⟨"EN", 31, 31, .rw, (.const 0), .any, true⟩, ⟨"SIZE", 3, 0, .rw, (.const 6), (.clamp 4 12), false⟩]⟩

theorem findReg_EWQ_QCTL : ∀ q < 128, findReg (EWQ_QCTL.addr q) = some ⟨0x78, 0, qctlRow, q, 0, false⟩ := by decide +kernel

theorem qctlHit_is (q a : Nat) : (⟨0x78, 0, qctlRow, q, 0, false⟩ : RegHit).is a = (EWQ_QCTL.addr 0 == a) := by
  simp only [RegHit.is, qctlRow, EWQ_QCTL.addr, Nat.sub_zero, Nat.mul_zero, Nat.add_zero]

/-- A queue that is not Disabled keeps its SIZE (Table 22.5). -/
theorem State.written_EWQ_QCTL_of_busy {s : State} {q : Nat} (hq : q < 128) (h : s.rd (EWQ_QSTAT.STATE q) ≠ 0) (v : Word) :
    s.written (EWQ_QCTL.addr q) v = s := by
  rw [State.written, findReg_EWQ_QCTL q hq]
  exact if_pos (by simp [qctlHit_is, h])

/-- A Disabled queue takes SIZE, clamped to 4 to 12. -/
theorem State.written_EWQ_QCTL_of_disabled {s : State} {q : Nat} (hq : q < 128) (h : s.rd (EWQ_QSTAT.STATE q) = 0) (v : Word) :
    s.written (EWQ_QCTL.addr q) v = s.wr (EWQ_QCTL.SIZE q) (max 4 (min (extractBits v.toNat 3 0) 12)) := by
  rw [State.written, findReg_EWQ_QCTL q hq]
  dsimp only
  rw [State.writeFields, if_neg (by simp [h])]
  simp only [qctlHit_is, show (EWQ_QCTL.addr 0 == FLT_STAT.addr) = false by decide, show (EWQ_QCTL.addr 0 == PMC_SEL.addr 0) = false by decide]
  simp [qctlRow, State.writeField, writtenPart, State.limited, RegHit.base, EWQ_QCTL.SIZE]

/-! The record of a queue. -/

@[simp] theorem State.engineQueue_queue (s : State) (q : Nat) : (s.engineQueue q).queue = q := by
  rw [State.engineQueue]
  cases h : getBy EngineQueue.queue q s.ewq.queues with
  | none => rfl
  | some e => exact eq_of_beq (List.find?_some (p := fun e : EngineQueue => e.queue == q) h)

theorem State.engineQueue_putEngineQueue (s : State) (e : EngineQueue) : (s.putEngineQueue e).engineQueue e.queue = e := by
  rw [State.engineQueue, State.putEngineQueue, State.onEwq_ewq, getBy_putBy_self, Option.getD_some]

theorem State.engineQueue_of_ewq {s t : State} (h : t.ewq = s.ewq) (q : Nat) : t.engineQueue q = s.engineQueue q := by
  rw [State.engineQueue, h, State.engineQueue]

@[simp] theorem State.rd_putEngineQueue (s : State) (e : EngineQueue) (g : Fld) : (s.putEngineQueue e).rd g = s.rd g := s.rd_onEwq _ _
@[simp] theorem State.putEngineQueue_mem (s : State) (e : EngineQueue) : (s.putEngineQueue e).mem = s.mem := s.onEwq_mem _

@[simp] theorem State.rd_prefetch (s : State) (q : Nat) (g : Fld) : (s.prefetch q).rd g = s.rd g := by
  rw [State.prefetch]; split <;> simp

@[simp] theorem State.prefetch_mem (s : State) (q : Nat) : (s.prefetch q).mem = s.mem := by
  rw [State.prefetch]; split <;> simp

/-- A prefetch leaves the next descriptor to start and those in flight. -/
theorem State.next_prefetch (s : State) (q : Nat) : ((s.prefetch q).engineQueue q).next = (s.engineQueue q).next := by
  rw [State.prefetch]
  split
  · rfl
  · dsimp only
    generalize hl : List.map _ _ = l
    have h := s.engineQueue_putEngineQueue { s.engineQueue q with prefetched := l }
    rw [State.engineQueue_queue] at h
    rw [h]

theorem State.length_prefetched {s : State} {q : Nat} (hstate : s.rd (EWQ_QSTAT.STATE q) = ewqRunning) (hidle : s.flag (EWQ_QCMD.BUSY q) = false) :
    ((s.prefetch q).engineQueue q).prefetched.length = min 9 (count16 (s.rd (EWQ_QTAIL.TAIL q)) (s.engineQueue q).next) := by
  rw [State.prefetch, if_neg (by simp [hstate, hidle])]
  dsimp only
  generalize hl : List.map _ (List.map _ _) = l
  have h := s.engineQueue_putEngineQueue { s.engineQueue q with prefetched := l }
  rw [State.engineQueue_queue] at h
  rw [h, ← hl, List.length_map, List.length_map, List.length_range]

/-- Whose memory a queue may use is said by the partitions' registers. -/
theorem State.ewqOwns_of_perm {s t : State} (h : ∀ p w hi lo, t.permBits p w hi lo = s.permBits p w hi lo) (q a n : Nat) :
    t.ewqOwns q a n = s.ewqOwns q a n := by
  have howner : t.queueSetOwner (q / 4) = s.queueSetOwner (q / 4) := by
    rw [State.queueSetOwner, State.queueSetOwner, State.partQueueSets, State.partQueueSets, h]
  rw [State.ewqOwns, State.ewqOwns, howner]
  cases s.queueSetOwner (q / 4) with
  | none => rfl
  | some p =>
    have hbase : t.partMemBase p = s.partMemBase p := by rw [State.partMemBase, State.partMemBase, h, h]
    have hlen : t.partMemLen p = s.partMemLen p := by rw [State.partMemLen, State.partMemLen, h, h]
    dsimp only
    rw [hbase, hlen]

theorem State.permBits_wr {s : State} {f : Fld} {r q : Nat} (hf : f.addr = ewqAddr r q) (v p w hi lo : Nat) :
    (s.wr f v).permBits p w hi lo = s.permBits p w hi lo := State.rd_wr_addr (hf ▸ TWO_PERM_addr_ne)

/-- Slots given back while no key command waits for one change the keys alone. -/
theorem State.each_releaseSlot_keeps {β : Type} (π : State → β) (k : ∀ (s : State) f, π (s.onKeys f) = π s) {l : List Nat} {s : State}
    (h : s.keys.waiting = none) : π (s.each l fun k s => s.releaseSlot k) = π s := by
  induction l generalizing s with
  | nil => rfl
  | cons n l ih =>
    have hone : s.releaseSlot n = s.onKeys fun x => { x with inUse := x.inUse.erase n } := by
      rw [State.releaseSlot, State.onKeys_keys, h]
    rw [show s.each (n :: l) (fun k s => s.releaseSlot k) = (s.releaseSlot n).each l fun k s => s.releaseSlot k from rfl, hone,
      ih (by rw [State.onKeys_keys]; exact h), k]

/-! The commands. -/

/-- An engine takes the descriptor that its pool's next queue could start. -/
theorem takeDescriptor_starts {s : State} {q op : Nat} {d : Bytes} (hrun : s.running = true) (hstart : s.startable q = some d)
    (hop : descOpcode d = op) (hnext : s.nextQueue (ewqPool op) = some q) :
    onSoc s (fun s => s.takeDescriptor q op) = .next (s.startDescriptor q d) := by
  rw [onSoc_of_running hrun, State.takeDescriptor, hstart]
  dsimp only
  rw [if_pos (by simp [hop, hnext])]

/-- A doorbell's prefetch is of the new tail. -/
theorem State.doorbell_shows {s : State} {q tail : Nat} (htail : tail < 65536) :
    ((s.wr (EWQ_QTAIL.TAIL q) tail).prefetch q).rd (EWQ_QTAIL.TAIL q) = tail ∧
    (s.rd (EWQ_QSTAT.STATE q) = ewqRunning → s.flag (EWQ_QCMD.BUSY q) = false →
      (((s.wr (EWQ_QTAIL.TAIL q) tail).prefetch q).engineQueue q).prefetched.length = min 9 (count16 tail (s.engineQueue q).next)) := by
  have hshown : (s.wr (EWQ_QTAIL.TAIL q) tail).rd (EWQ_QTAIL.TAIL q) = tail :=
    State.rd_wr_fits (by simp [Fld.inWord, EWQ_QTAIL.TAIL]) (by simpa [EWQ_QTAIL.TAIL] using htail)
  have hstat : (EWQ_QSTAT.STATE q).addr ≠ (EWQ_QTAIL.TAIL q).addr := by
    rw [EWQ_QSTAT.STATE, EWQ_QTAIL.TAIL, EWQ_QSTAT_addr, EWQ_QTAIL_addr]
    exact ewqAddr_ne (by decide) (by decide) (by decide) q
  have hcmd : (EWQ_QCMD.BUSY q).addr ≠ (EWQ_QTAIL.TAIL q).addr := by
    rw [EWQ_QCMD.BUSY, EWQ_QTAIL.TAIL, EWQ_QCMD_addr, EWQ_QTAIL_addr]
    exact ewqAddr_ne (by decide) (by decide) (by decide) q
  refine ⟨(State.rd_prefetch _ _ _).trans hshown, fun hstate hidle => ?_⟩
  rw [State.length_prefetched ((State.rd_wr_addr hstat).trans hstate) ((State.flag_eq_of_rd (State.rd_wr_addr hcmd)).trans hidle), hshown,
    State.engineQueue_of_ewq (s.wr_ewq _ _)]

/-- Fields in different registers of one queue. -/
theorem State.rd_wr_ewq {s : State} {f g : Fld} {r r' q v : Nat} (hf : f.addr = ewqAddr r q) (hg : g.addr = ewqAddr r' q)
    (h : r < 0x40 ∧ r' < 0x40 ∧ r' ≠ r) : (s.wr f v).rd g = s.rd g := by
  obtain ⟨hr, hr', hne⟩ := h
  exact State.rd_wr_addr (by rw [hf, hg]; exact ewqAddr_ne hr' hr hne q)

theorem State.rd64_wr_ewq {s : State} {f : Fld} {r r' q v a : Nat} (hf : f.addr = ewqAddr r q) (ha : a = ewqAddr r' q)
    (h : r < 0x40 ∧ r' < 0x40 ∧ r' ≠ r) : (s.wr f v).rd64 a = s.rd64 a := by
  obtain ⟨hr, hr', hne⟩ := h
  exact s.rd64_setReg_ne (by rw [hf, ha]; exact ewqAddr_ne hr' hr hne q) _

/-- An enable of a Disabled queue, both of whose rings lie in its owner's memory, runs it from HEAD. -/
theorem ewqEnable_runs {s : State} {who : Requester} {q : Nat} (hrun : s.running = true) (hq : q < 128) (hopens : s.Opens who (EWQ_QCTL.addr q))
    (hstate : s.rd (EWQ_QSTAT.STATE q) = ewqDisabled) (hring : s.ewqOwns q (s.rd64 (EWQ_QBASE.addr q)) (64 * s.ewqSize q) = true)
    (hcring : s.ewqOwns q (s.rd64 (EWQ_QCBASE.addr q)) (16 * s.ewqSize q) = true) (hlow : 4 ≤ s.rd (EWQ_QCTL.SIZE q))
    (hhigh : s.rd (EWQ_QCTL.SIZE q) ≤ 12) :
    ∃ t, exec (.ewqEnable who q) s = .next t ∧ t.rd (EWQ_QSTAT.STATE q) = ewqRunning ∧ t.rd (EWQ_QCTL.EN q) = 1 ∧
      (t.engineQueue q).next = s.rd (EWQ_QHEAD.HEAD q) := by
  have hword : extractBits (s.qctlWord q 1).toNat 3 0 = s.rd (EWQ_QCTL.SIZE q) := by
    rw [State.qctlWord, BitVec.toNat_ofNat, extractBits]
    omega
  obtain ⟨u, hu⟩ : ∃ u, u = ((s.wr (EWQ_QCTL.SIZE q) (s.rd (EWQ_QCTL.SIZE q))).wr (EWQ_QCTL.EN q) 1) := ⟨_, rfl⟩
  have hwritten : (s.written (EWQ_QCTL.addr q) (s.qctlWord q 1)).wr (EWQ_QCTL.EN q) 1 = u := by
    rw [State.written_EWQ_QCTL_of_disabled hq hstate, hword, Nat.min_eq_left hhigh, Nat.max_eq_right hlow, hu]
  have hkept {g : Fld} {r : Nat} (hg : g.addr = ewqAddr r q) (h : r < 0x40 ∧ r ≠ 0) : u.rd g = s.rd g := by
    rw [hu, State.rd_wr_ewq (EWQ_QCTL_addr q) hg ⟨by decide, h⟩, State.rd_wr_ewq (EWQ_QCTL_addr q) hg ⟨by decide, h⟩]
  have hkept64 {a r : Nat} (ha : a = ewqAddr r q) (h : r < 0x40 ∧ r ≠ 0) : u.rd64 a = s.rd64 a := by
    rw [hu, State.rd64_wr_ewq (EWQ_QCTL_addr q) ha ⟨by decide, h⟩, State.rd64_wr_ewq (EWQ_QCTL_addr q) ha ⟨by decide, h⟩]
  have hsize : u.ewqSize q = s.ewqSize q := by
    have hfits : s.rd (EWQ_QCTL.SIZE q) < 2 ^ ((EWQ_QCTL.SIZE q).hi + 1 - (EWQ_QCTL.SIZE q).lo) := State.rd_lt s _
    rw [State.ewqSize, State.ewqSize, hu, State.rd_wr_ne (.inr (by simp [Fld.inWord, EWQ_QCTL.SIZE, EWQ_QCTL.EN])),
      State.rd_wr_fits (by simp [Fld.inWord, EWQ_QCTL.SIZE]) hfits]
  have howns : ∀ a n, u.ewqOwns q a n = s.ewqOwns q a n := State.ewqOwns_of_perm (fun p w hi lo => by
    rw [hu, State.permBits_wr (EWQ_QCTL_addr q), State.permBits_wr (EWQ_QCTL_addr q)]) q
  have hone : u.rd (EWQ_QCTL.EN q) = 1 := by rw [hu, State.rd_wr_fits (by simp [Fld.inWord, EWQ_QCTL.EN]) (by simp [EWQ_QCTL.EN])]
  rw [exec_ewqEnable, execEwqEnable, onSoc_of_running hrun, if_neg (by omega), State.commandWrite_opens hopens, hwritten]
  dsimp only
  rw [hkept (g := EWQ_QSTAT.STATE q) (EWQ_QSTAT_addr q) (by decide), hstate, if_pos rfl, hkept64 (EWQ_QBASE_addr q) (by decide),
    hkept64 (EWQ_QCBASE_addr q) (by decide), hsize, howns, howns, hring, hcring, if_neg (by decide), if_neg (by decide)]
  refine ⟨_, rfl, ?_, ?_, ?_⟩
  · rw [State.answered_rd, State.rd_prefetch, State.rd_putEngineQueue, State.rd_wr_fits (by simp [Fld.inWord, EWQ_QSTAT.STATE])
      (by simp [EWQ_QSTAT.STATE, ewqRunning])]
  · rw [State.answered_rd, State.rd_prefetch, State.rd_putEngineQueue, State.rd_wr_ewq (EWQ_QSTAT_addr q) (EWQ_QCTL_addr q) (by decide), hone]
  · rw [State.engineQueue_of_ewq (State.answered_ewq _ _ _ _), State.next_prefetch]
    have h := (u.wr (EWQ_QSTAT.STATE q) ewqRunning).engineQueue_putEngineQueue
      { (u.engineQueue q) with next := u.rd (EWQ_QHEAD.HEAD q), prefetched := [] }
    rw [State.engineQueue_queue] at h
    rw [h, hkept (EWQ_QHEAD_addr q) (by decide)]

/-- A shut-down of a running queue: Quiescing while work is in flight, Disabled when none is and no enable is latched. -/
theorem ewqDisable_stops {s : State} {who : Requester} {q : Nat} (hrun : s.running = true) (hq : q < 128) (hopens : s.Opens who (EWQ_QCTL.addr q))
    (hstate : s.rd (EWQ_QSTAT.STATE q) = ewqRunning) :
    ((s.engineQueue q).running ≠ [] → ∃ t, exec (.ewqDisable who q) s = .next t ∧ t.rd (EWQ_QSTAT.STATE q) = ewqQuiescing ∧
      (t.engineQueue q).prefetched = [] ∧ (t.engineQueue q).running = (s.engineQueue q).running) ∧
    ((s.engineQueue q).running = [] → s.flag (EWQ_QSTAT.LATCH q) = false →
      ∃ t, exec (.ewqDisable who q) s = .next t ∧ t.rd (EWQ_QSTAT.STATE q) = ewqDisabled) := by
  have hbusy : s.rd (EWQ_QSTAT.STATE q) ≠ 0 := by rw [hstate]; decide
  have hkept : (s.wr (EWQ_QCTL.EN q) 0).rd (EWQ_QSTAT.STATE q) = ewqRunning :=
    (State.rd_wr_ewq (EWQ_QCTL_addr q) (EWQ_QSTAT_addr q) (by decide)).trans hstate
  have hqueue : (s.wr (EWQ_QCTL.EN q) 0).engineQueue q = s.engineQueue q := State.engineQueue_of_ewq (s.wr_ewq _ _) q
  obtain ⟨u, hu⟩ : ∃ u, u = (((s.wr (EWQ_QCTL.EN q) 0).wr (EWQ_QSTAT.STATE q) ewqQuiescing).putEngineQueue
    { (s.engineQueue q) with prefetched := [] }) := ⟨_, rfl⟩
  have hquiescing : u.rd (EWQ_QSTAT.STATE q) = ewqQuiescing := by
    rw [hu, State.rd_putEngineQueue, State.rd_wr_fits (by simp [Fld.inWord, EWQ_QSTAT.STATE]) (by simp [EWQ_QSTAT.STATE, ewqQuiescing])]
  have hrecord : u.engineQueue q = { (s.engineQueue q) with prefetched := [] } := by
    have h := ((s.wr (EWQ_QCTL.EN q) 0).wr (EWQ_QSTAT.STATE q) ewqQuiescing).engineQueue_putEngineQueue
      { (s.engineQueue q) with prefetched := [] }
    rw [State.engineQueue_queue] at h
    rw [hu, h]
  have heq : exec (.ewqDisable who q) s = .next ((u.ewqQuiesce q).answered who (EWQ_QCTL.addr q) (s.qctlWord q 0)) := by
    rw [exec_ewqDisable, execEwqDisable, onSoc_of_running hrun, if_neg (by omega), State.commandWrite_opens hopens,
      State.written_EWQ_QCTL_of_busy hq hbusy]
    dsimp only
    rw [if_pos hkept, hqueue, hu]
  refine ⟨fun hflight => ?_, fun hnone hlatch => ?_⟩
  · have hwaits : (u.engineQueue q).running.isEmpty = false := by rw [hrecord]; simpa using hflight
    rw [heq, State.ewqQuiesce, if_neg (by simp [hwaits])]
    refine ⟨_, rfl, (State.answered_rd _ _ _ _ _).trans hquiescing, ?_, ?_⟩ <;>
      rw [State.engineQueue_of_ewq (State.answered_ewq _ _ _ _), hrecord]
  · have hempty : (u.engineQueue q).running.isEmpty = true := by rw [hrecord]; simp [hnone]
    have hlatch' : u.flag (EWQ_QSTAT.LATCH q) = false := by
      refine (State.flag_eq_of_rd ?_).trans hlatch
      rw [hu, State.rd_putEngineQueue, State.rd_wr_ne (.inr (by simp [Fld.inWord, EWQ_QSTAT.STATE, EWQ_QSTAT.LATCH])),
        State.rd_wr_ewq (EWQ_QCTL_addr q) (EWQ_QSTAT_addr q) (by decide)]
    rw [heq, State.ewqQuiesce, if_pos (by simp [hempty, hquiescing]), if_neg (by simp [hlatch'])]
    exact ⟨_, rfl, (State.answered_rd _ _ _ _ _).trans (State.rd_wr_fits (by simp [Fld.inWord, EWQ_QSTAT.STATE]) (by simp [EWQ_QSTAT.STATE, ewqDisabled]))⟩

/-- A reset queue: Disabled, its counts 0, its record empty. -/
theorem State.resetEngineQueue_shows {s : State} (q : Nat) (hwaiting : s.keys.waiting = none) :
    (s.resetEngineQueue q).rd (EWQ_QSTAT.STATE q) = ewqDisabled ∧ (s.resetEngineQueue q).rd (EWQ_QHEAD.HEAD q) = 0 ∧
    (s.resetEngineQueue q).rd (EWQ_QTAIL.TAIL q) = 0 ∧ (s.resetEngineQueue q).rd (EWQ_QCCNT.CCNT q) = 0 ∧
    (s.resetEngineQueue q).rd (EWQ_QSTAT.ERR q) = 0 ∧ (s.resetEngineQueue q).engineQueue q = ⟨q, 0, [], []⟩ ∧
    (s.resetEngineQueue q).mem = s.mem := by
  obtain ⟨u, hu⟩ : ∃ u, u = ((s.wrs [(EWQ_QSTAT.STATE q, ewqDisabled), (EWQ_QSTAT.LATCH q, 0), (EWQ_QSTAT.ERR q, 0), (EWQ_QSTAT.INFL q, 0),
    (EWQ_QHEAD.HEAD q, 0), (EWQ_QTAIL.TAIL q, 0), (EWQ_QCCNT.CCNT q, 0)]).setReg (EWQ_QERRADDR.addr q) 0).putEngineQueue ⟨q, 0, [], []⟩ := ⟨_, rfl⟩
  have hwaiting' : u.keys.waiting = none := by
    rw [hu, State.putEngineQueue, State.onEwq_keys, State.setReg_keys]
    simp only [State.wrs_cons, State.wrs_nil, State.wr_keys, hwaiting]
  obtain ⟨l, hl⟩ : ∃ l, s.resetEngineQueue q = u.each l fun k s => s.releaseSlot k := ⟨_, by rw [hu, State.resetEngineQueue]⟩
  have hkeep {β : Type} (π : State → β) (k : ∀ (s : State) f, π (s.onKeys f) = π s) : π (s.resetEngineQueue q) = π u := by
    rw [hl]
    exact State.each_releaseSlot_keeps π k hwaiting'
  have hrd {g : Fld} {r : Nat} (hg : g.addr = ewqAddr r q) (hr : r < 0x28) : (s.resetEngineQueue q).rd g =
      (s.wrs [(EWQ_QSTAT.STATE q, ewqDisabled), (EWQ_QSTAT.LATCH q, 0), (EWQ_QSTAT.ERR q, 0), (EWQ_QSTAT.INFL q, 0),
        (EWQ_QHEAD.HEAD q, 0), (EWQ_QTAIL.TAIL q, 0), (EWQ_QCCNT.CCNT q, 0)]).rd g := by
    have hne : g.addr ≠ EWQ_QERRADDR.addr q := by
      rw [hg, EWQ_QERRADDR_addr]
      exact ewqAddr_ne (by omega) (by decide) (by omega) q
    rw [hkeep (fun s => s.rd g) fun s f => s.rd_onKeys f g, hu, State.rd_putEngineQueue, State.rd, State.reg_setReg_ne hne, State.rd]
  have hstat {f g : Fld} {v : Nat} {t : State} (hf : f.addr = EWQ_QSTAT.addr q) (hg : g.addr = EWQ_QSTAT.addr q)
      (h : f.inWord ∧ (g.hi < f.lo ∨ f.hi < g.lo)) : (t.wr f v).rd g = t.rd g := State.rd_wr_ne (.inr h)
  have hother {f g : Fld} {r : Nat} {t : State} (hf : f.addr = ewqAddr r q) (hg : g.addr = EWQ_QSTAT.addr q) (h : r < 0x40 ∧ 4 ≠ r) :
      (t.wr f 0).rd g = t.rd g := State.rd_wr_ewq hf (hg.trans (EWQ_QSTAT_addr q)) ⟨h.1, by decide, h.2⟩
  have hzero {f : Fld} (h : f.inWord) (t : State) : (t.wr f 0).rd f = 0 := State.rd_wr_fits h (Nat.two_pow_pos _)
  refine ⟨?_, ?_, ?_, ?_, ?_, ?_, ?_⟩
  · rw [hrd (EWQ_QSTAT_addr q) (by decide)]
    simp only [State.wrs_cons, State.wrs_nil]
    rw [hother (EWQ_QCCNT_addr q) rfl (by decide), hother (EWQ_QTAIL_addr q) rfl (by decide), hother (EWQ_QHEAD_addr q) rfl (by decide),
      hstat rfl rfl (by simp [Fld.inWord, EWQ_QSTAT.STATE, EWQ_QSTAT.INFL]), hstat rfl rfl (by simp [Fld.inWord, EWQ_QSTAT.STATE, EWQ_QSTAT.ERR]),
      hstat rfl rfl (by simp [Fld.inWord, EWQ_QSTAT.STATE, EWQ_QSTAT.LATCH])]
    exact hzero (by simp [Fld.inWord, EWQ_QSTAT.STATE]) s
  · rw [hrd (EWQ_QHEAD_addr q) (by decide)]
    simp only [State.wrs_cons, State.wrs_nil]
    rw [State.rd_wr_ewq (EWQ_QCCNT_addr q) (EWQ_QHEAD_addr q) (by decide), State.rd_wr_ewq (EWQ_QTAIL_addr q) (EWQ_QHEAD_addr q) (by decide),
      hzero (by simp [Fld.inWord, EWQ_QHEAD.HEAD])]
  · rw [hrd (EWQ_QTAIL_addr q) (by decide)]
    simp only [State.wrs_cons, State.wrs_nil]
    rw [State.rd_wr_ewq (EWQ_QCCNT_addr q) (EWQ_QTAIL_addr q) (by decide), hzero (by simp [Fld.inWord, EWQ_QTAIL.TAIL])]
  · rw [hrd (EWQ_QCCNT_addr q) (by decide)]
    simp only [State.wrs_cons, State.wrs_nil]
    exact hzero (by simp [Fld.inWord, EWQ_QCCNT.CCNT]) _
  · rw [hrd (EWQ_QSTAT_addr q) (by decide)]
    simp only [State.wrs_cons, State.wrs_nil]
    rw [hother (EWQ_QCCNT_addr q) rfl (by decide), hother (EWQ_QTAIL_addr q) rfl (by decide), hother (EWQ_QHEAD_addr q) rfl (by decide),
      hstat rfl rfl (by simp [Fld.inWord, EWQ_QSTAT.ERR, EWQ_QSTAT.INFL]), hzero (by simp [Fld.inWord, EWQ_QSTAT.ERR])]
  · rw [hkeep (fun s => s.engineQueue q) fun s f => State.engineQueue_of_ewq (s.onKeys_ewq f) q, hu]
    exact State.engineQueue_putEngineQueue _ ⟨q, 0, [], []⟩
  · rw [hkeep State.mem State.onKeys_mem, hu, State.putEngineQueue_mem, State.setReg_mem]
    simp only [State.wrs_cons, State.wrs_nil, State.wr_mem]

/-- Settles O22: each command by the state its rule answers. -/
theorem engineQueueCommandsComplete : Obligations.EngineQueueCommandsComplete := by
  refine ⟨fun s q d hrun hstart => ⟨fun hnext => ⟨fun hop => ?_, fun hop => ?_, fun hop => ?_⟩,
      fun hnext => ⟨fun hop => ?_, fun hop => ?_, fun hop => ?_, fun hop => ?_, fun hop => ?_⟩, fun hnext hop => ?_⟩,
    fun s q count r hrun hother hfind => ?_, fun s who q tail hrun hq htail hopens hvalid => ?_,
    fun s who q hrun hq hopens hstate hring hcring hlow hhigh => ewqEnable_runs hrun hq hopens hstate hring hcring hlow hhigh,
    fun s who q hrun hq hopens hstate => ewqDisable_stops hrun hq hopens hstate, fun s who q hrun hq hopens hidle => ⟨?_, fun hwaiting => ?_⟩,
    fun s q hrun hq hbusy => ?_⟩
  · exact (exec_ewqCopy q s).trans (takeDescriptor_starts hrun hstart hop hnext)
  · exact (exec_ewqParity q s).trans (takeDescriptor_starts hrun hstart hop hnext)
  · exact (exec_ewqParityCheck q s).trans (takeDescriptor_starts hrun hstart hop hnext)
  · exact (exec_ewqXtsEncrypt q s).trans (takeDescriptor_starts hrun hstart hop hnext)
  · exact (exec_ewqXtsDecrypt q s).trans (takeDescriptor_starts hrun hstart hop hnext)
  · exact (exec_ewqGcmEncrypt q s).trans (takeDescriptor_starts hrun hstart hop hnext)
  · exact (exec_ewqGcmDecrypt q s).trans (takeDescriptor_starts hrun hstart hop hnext)
  · exact (exec_ewqGmac q s).trans (takeDescriptor_starts hrun hstart hop hnext)
  · exact (exec_ewqKeyCommand q s).trans (takeDescriptor_starts hrun hstart hop hnext)
  · refine ⟨?_, fun a => ?_⟩
    · rw [exec_ewqDescriptorComplete, execEwqDescriptorComplete, onSoc_of_running hrun]
      cases hstart : s.startable q with
      | none => rfl
      | some d => simp [hother d hstart]
    · rw [exec_ewqReadTimeout, execEwqReadTimeout, onSoc_of_running hrun]
      cases hstart : s.startable q with
      | none => rfl
      | some d => simp [hother d hstart]
  · obtain ⟨hshown, hfetched⟩ := s.doorbell_shows (q := q) htail
    rw [exec_ewqDoorbell, execEwqDoorbell, onSoc_of_running hrun, if_neg (by omega), State.commandWrite_quiet (quietRegister_EWQ_QTAIL q hq) hopens,
      Nat.mod_eq_of_lt htail, if_pos hvalid]
    refine ⟨_, rfl, (State.answered_rd _ _ _ _ _).trans hshown, fun hstate hbusy => ?_⟩
    rw [State.engineQueue_of_ewq (State.answered_ewq _ _ _ _)]
    exact hfetched hstate hbusy
  · rw [exec_ewqInvalidate, execEwqInvalidate, onSoc_of_running hrun, if_neg (by omega), State.commandWrite_quiet (quietRegister_EWQ_QCMD q hq) hopens,
      hidle, if_neg Bool.false_ne_true]
    refine ⟨_, rfl, ?_, ?_, ?_, ?_⟩
    · rw [State.answered_rd, State.rd_putEngineQueue, State.wrs_cons, State.wrs_cons, State.wrs_nil,
        State.rd_wr_ne (.inr (by simp [Fld.inWord, EWQ_QCMD.BUSY, EWQ_QCMD.STARTED])),
        State.rd_wr_fits (by simp [Fld.inWord, EWQ_QCMD.BUSY]) (by simp [EWQ_QCMD.BUSY])]
    · rw [State.answered_rd, State.rd_putEngineQueue, State.wrs_cons, State.wrs_cons, State.wrs_nil,
        State.rd_wr_self (by simp [Fld.inWord, EWQ_QCMD.STARTED])]
      rfl
    · have h := (s.wrs [(EWQ_QCMD.BUSY q, 1), (EWQ_QCMD.STARTED q, (s.engineQueue q).next)]).engineQueue_putEngineQueue
        { (s.engineQueue q) with prefetched := [] }
      rw [State.engineQueue_queue] at h
      rw [State.engineQueue_of_ewq (State.answered_ewq _ _ _ _), h]
    · simp
  · obtain ⟨hstate, hhead, htail, hcount, herr, hrecord, hmem⟩ := s.resetEngineQueue_shows q hwaiting
    rw [exec_ewqReset, execEwqReset, onSoc_of_running hrun, if_neg (by omega), State.commandWrite_quiet (quietRegister_EWQ_QCMD q hq) hopens,
      hidle, if_neg Bool.false_ne_true]
    refine ⟨_, rfl, (State.answered_rd _ _ _ _ _).trans hstate, (State.answered_rd _ _ _ _ _).trans hhead, (State.answered_rd _ _ _ _ _).trans htail,
      (State.answered_rd _ _ _ _ _).trans hcount, (State.answered_rd _ _ _ _ _).trans herr, ?_, (State.answered_mem _ _ _ _).trans hmem⟩
    rw [State.engineQueue_of_ewq (State.answered_ewq _ _ _ _), hrecord]
  · rw [exec_ewqInvalidateDone, execEwqInvalidateDone, onSoc_of_running hrun, if_pos hbusy]
    refine ⟨_, rfl, ?_, by simp⟩
    rw [State.rd_prefetch, State.rd_wr_fits (by simp [Fld.inWord, EWQ_QCMD.BUSY]) (by simp [EWQ_QCMD.BUSY])]

end Sys2Proof.Machine
end

section
/-! What a plain write of a register leaves alone. -/

set_option Elab.async false

namespace Sys2Proof.Machine

/-- `t` is `s` but for the register at `a` and the fields that wait for the boundary. -/
def State.wroteAt (s t : State) (a : Nat) : Prop := (∀ b, b ≠ a → t.reg b = s.reg b) ∧ ∃ r w, t = { s with regs := r, rwm := w }

namespace State.wroteAt

variable {s t u : State} {a : Nat}

theorem refl (s : State) (a : Nat) : s.wroteAt s a := ⟨fun _ _ => rfl, s.regs, s.rwm, rfl⟩

theorem trans (h : s.wroteAt t a) (g : t.wroteAt u a) : s.wroteAt u a := by
  obtain ⟨hreg, r, w, rfl⟩ := h
  obtain ⟨greg, r', w', rfl⟩ := g
  exact ⟨fun b hb => (greg b hb).trans (hreg b hb), r', w', rfl⟩

theorem wr {f : Fld} (h : f.addr = a) (v : Nat) : s.wroteAt (s.wr f v) a := ⟨fun _ hb => State.reg_wr_ne (h ▸ hb), _, s.rwm, rfl⟩

theorem queueRwm (f : Fld) (v : Nat) : s.wroteAt (s.queueRwm f v) a := ⟨fun _ _ => rfl, s.regs, _, rfl⟩

theorem rd (h : s.wroteAt t a) {g : Fld} (hg : g.addr ≠ a) : t.rd g = s.rd g := by rw [State.rd, h.1 _ hg, State.rd]
theorem rd64 (h : s.wroteAt t a) {b : Nat} (hb : b ≠ a) : t.rd64 b = s.rd64 b := by rw [State.rd64, h.1 _ hb, State.rd64]
theorem flag (h : s.wroteAt t a) {g : Fld} (hg : g.addr ≠ a) : t.flag g = s.flag g := State.flag_eq_of_rd (h.rd hg)
theorem out (h : s.wroteAt t a) : t.out = s.out := by obtain ⟨-, _, _, rfl⟩ := h; rfl
theorem mem (h : s.wroteAt t a) : t.mem = s.mem := by obtain ⟨-, _, _, rfl⟩ := h; rfl
theorem link (h : s.wroteAt t a) : t.link = s.link := by obtain ⟨-, _, _, rfl⟩ := h; rfl
theorem keys (h : s.wroteAt t a) : t.keys = s.keys := by obtain ⟨-, _, _, rfl⟩ := h; rfl
theorem clock (h : s.wroteAt t a) : t.clock = s.clock := by obtain ⟨-, _, _, rfl⟩ := h; rfl

end State.wroteAt

theorem State.writeField_wroteAt (s : State) (h : RegHit) (base : Nat) (f : FieldRow) (v : Nat) : s.wroteAt (s.writeField h base f v) base := by
  have haddr := writtenPart_addr h base f v
  unfold State.writeField
  generalize writtenPart h base f v = p at haddr
  obtain ⟨fl, x⟩ := p
  dsimp only at haddr ⊢
  split
  · exact .refl s base
  split
  · exact .refl s base
  · exact .refl s base
  · exact .refl s base
  · exact .refl s base
  · split
    · exact State.wroteAt.wr (f := fl) haddr _
    · exact .refl s base
  · split
    · exact State.wroteAt.queueRwm fl _
    · exact .refl s base
  · exact State.wroteAt.wr (f := fl) haddr _
  · exact State.wroteAt.wr (f := fl) haddr _

/-- A write of a register of which no other rule speaks changes no other register. -/
theorem State.written_wroteAt {s : State} {a : Nat} {v : Word} {h : RegHit} (hfind : findReg a = some h)
    (hplain : (h.is FLT_STAT.addr || h.is (PMC_SEL.addr 0) || h.block == 0x05) = false) : s.wroteAt (s.written a v) (h.base a) := by
  rw [Bool.or_eq_false_iff, Bool.or_eq_false_iff] at hplain
  obtain ⟨⟨hflt, hpmc⟩, hwall⟩ := hplain
  rw [State.written, hfind]
  dsimp only
  rw [State.writeFields]
  split
  · exact .refl s _
  · dsimp only
    rw [hflt, hpmc, hwall]
    suffices hfold : ∀ (l : List FieldRow) (t : State), s.wroteAt t (h.base a) →
        s.wroteAt (l.foldl (fun s f => s.writeField h (h.base a) f v.toNat) t) (h.base a) from hfold _ s (.refl s _)
    intro l
    induction l with
    | nil => exact fun _ ht => ht
    | cons f l ih => exact fun t ht => ih _ (ht.trans (State.writeField_wroteAt t h _ f _))

/-- The register at `a` is found, at home there, and no other rule speaks of its write. -/
def plainRegister (a : Nat) : Bool :=
  match findReg a with
  | some h => h.base a == a && !(h.is FLT_STAT.addr || h.is (PMC_SEL.addr 0) || h.block == 0x05)
  | none => false

theorem State.written_of_plain {a : Nat} (h : plainRegister a = true) (s : State) (v : Word) : s.wroteAt (s.written a v) a := by
  unfold plainRegister at h
  split at h
  next hit hfind =>
    rw [Bool.and_eq_true, beq_iff_eq, Bool.not_eq_true'] at h
    have hwrote := State.written_wroteAt (s := s) (v := v) hfind h.2
    rwa [h.1] at hwrote
  next => cases h

end Sys2Proof.Machine
end

section
/-! The Emzifen link's operations (chapter Emzifen Link): the fields of EZL_STAT and the parts of the link's own state after them. -/

set_option Elab.async false

namespace Sys2Proof.Machine

/-! Frames of the shared steps. -/

/-- The fields of EZL_STAT stand at its first address, apart from what the link counts and shows of its cells. -/
theorem State.rd_showRetained {s : State} {g : Fld} (hin : inBlock .ezl g.addr = true) (hne : g.addr ≠ EZL_RETAIN.addr) :
    s.showRetained.rd g = s.rd g := by
  have hframe : After 0x200000000 (s.wr EZL_RETAIN.CELLS s.retainedCells) s.showRetained := State.showPools_after _ (.of_and_eq rfl) (.refl _)
  rw [hframe.rd .ezl hin rfl, State.rd_wr_addr hne]

theorem State.reg_showRetained {s : State} {a : Nat} (hin : inBlock .ezl a = true) (hne : a ≠ EZL_RETAIN.addr) :
    s.showRetained.reg a = s.reg a := by
  have hframe : After 0x200000000 (s.wr EZL_RETAIN.CELLS s.retainedCells) s.showRetained := State.showPools_after _ (.of_and_eq rfl) (.refl _)
  rw [hframe.reg .ezl hin rfl, State.reg_wr_ne hne]

@[simp] theorem State.showPools_link (s : State) : s.showPools.link = s.link :=
  (State.showPools_after s (T := 0x200000000) (.of_and_eq rfl) (.refl s)).part .link rfl

@[simp] theorem State.showRetained_link (s : State) : s.showRetained.link = s.link := by
  rw [State.showRetained, State.showPools_link, State.wr_link]

theorem State.showRetained_frame (s : State) : After 0x8200000000 s s.showRetained := State.showRetained_after s (.of_and_eq rfl) (.refl s)

@[simp] theorem State.showRetained_mem (s : State) : s.showRetained.mem = s.mem := by simp [State.showRetained, State.showPools]
@[simp] theorem State.showRetained_out (s : State) : s.showRetained.out = s.out := by simp [State.showRetained, State.showPools]
@[simp] theorem State.showRetained_store (s : State) : s.showRetained.store = s.store := s.showRetained_frame.part .store rfl

theorem State.rd_countFrame {s : State} {b : Bool} {n : Nat} {g : Fld} (hin : inBlock .ezl g.addr = true) (hlow : g.addr < EZL_TX_FRAMES.addr) :
    (s.countFrame b n).rd g = s.rd g := by
  have hcip : g.addr ≠ CIP_GCM_BYTES.addr := fun e => by rw [e] at hin; exact absurd hin (by decide)
  have hcount : g.addr ≠ (if b then EZL_TX_FRAMES.addr else EZL_RX_FRAMES.addr) := by
    have hrx : EZL_TX_FRAMES.addr < EZL_RX_FRAMES.addr := by decide
    split <;> omega
  have hframe : After 0x40000010000000 ((s.count CIP_GCM_BYTES.addr (n - 48)).count (if b then EZL_TX_FRAMES.addr else EZL_RX_FRAMES.addr))
      (s.countFrame b n) := State.moved_after _ _ _ _ _ (.of_and_eq rfl) (State.event_after _ _ _ _ (.of_and_eq rfl) (.refl _))
  rw [hframe.rd .ezl hin rfl, State.rd_count hcount, State.rd_count hcip]

theorem State.countFrame_frame (s : State) (b : Bool) (n : Nat) : After 0x40108010000000 s (s.countFrame b n) :=
  State.countFrame_after s b n (.of_and_eq rfl) (.refl s)

@[simp] theorem State.rd_showPairing_STATE (s : State) : s.showPairing.linkState = s.linkState := State.rd_wr_ne (by decide)
@[simp] theorem State.showPairing_link (s : State) : s.showPairing.link = s.link := s.wr_link _ _

theorem State.linkUp_of_linkState {s t : State} (h : t.linkState = s.linkState) : t.linkUp = s.linkUp := by
  rw [State.linkUp, State.linkUp]
  exact congrArg (fun n => n == 2 || n == 3) h

@[simp] theorem State.linkState_enterLink (s : State) {st : Nat} (h : st < 8) : (s.enterLink st).linkState = st := by
  rw [State.linkState, State.enterLink, State.rd_onLink, State.rd_wr_fits (by decide) (Nat.lt_of_lt_of_le h (by decide))]

theorem State.rd_enterLink {s : State} {st : Nat} {g : Fld} (h : g.Apart EZL_STAT.STATE) : (s.enterLink st).rd g = s.rd g := by
  rw [State.enterLink, State.rd_onLink, State.rd_wr_ne h]

@[simp] theorem State.enterLink_link (s : State) (st : Nat) : (s.enterLink st).link = { s.link with since := s.now } := by
  rw [State.enterLink, State.onLink_link, State.wr_link]

/-! Channels. -/

@[simp] theorem State.channel_chan (s : State) (c : Nat) : (s.channel c).chan = c := by
  rw [State.channel]
  cases h : s.link.channels.find? (·.chan == c) with
  | none => rfl
  | some x => exact eq_of_beq (List.find?_some (p := fun x : Channel => x.chan == c) h)

theorem State.channel_of_link {s t : State} (h : t.link = s.link) (c : Nat) : t.channel c = s.channel c := by
  rw [State.channel, h, State.channel]

theorem State.onChannel_eq (s : State) (c : Nat) (f : Channel → Channel) :
    s.onChannel c f = s.onLink fun l => { l with channels := putBy Channel.chan (f (s.channel c)) l.channels } := (rfl)

theorem State.channel_onChannel (s : State) (c : Nat) {f : Channel → Channel} (h : (f (s.channel c)).chan = c) :
    (s.onChannel c f).channel c = f (s.channel c) := by
  have hget := getBy_putBy_self Channel.chan (f (s.channel c)) s.link.channels
  rw [h, getBy] at hget
  rw [State.channel, State.onChannel_eq, State.onLink_link]
  dsimp only
  rw [hget]
  rfl

@[simp] theorem State.rd_onChannel (s : State) (c : Nat) (f : Channel → Channel) (g : Fld) : (s.onChannel c f).rd g = s.rd g := by
  rw [State.onChannel_eq, State.rd_onLink]

@[simp] theorem State.onChannel_mem (s : State) (c : Nat) (f : Channel → Channel) : (s.onChannel c f).mem = s.mem := by
  rw [State.onChannel_eq, State.onLink_mem]

/-- Nothing goes out on a channel while the link is not up. -/
theorem State.pumpChannel_of_down {s : State} (h : s.linkUp = false) (c : Nat) : s.pumpChannel c = s := by
  rw [State.pumpChannel]
  split
  · rfl
  · rw [h]
    simp

theorem State.answerMessage_frame (s : State) (c st : Nat) : After 0x10000008005000 s (s.answerMessage c st) :=
  State.answerMessage_after s c st (.of_and_eq rfl) (.refl s)

/-- The state of the link after an answer to each of some messages is that before. -/
theorem State.linkState_answerMessage (s : State) (c st : Nat) : (s.answerMessage c st).linkState = s.linkState :=
  (s.answerMessage_frame c st).rd .ezl (by decide) rfl

theorem State.linkState_endMessage_of_down {s : State} (h : s.linkUp = false) (c st : Nat) : (s.endMessage c st).linkState = s.linkState := by
  rw [State.endMessage]
  split
  · rfl
  · rw [State.pumpChannel_of_down ((State.linkUp_of_linkState (s.linkState_answerMessage c st)).trans h), State.linkState_answerMessage]

theorem State.linkState_each_endMessage_of_down {l : List Channel} {s : State} (h : s.linkUp = false) (st : Nat) :
    (s.each l fun c s => s.endMessage c.chan st).linkState = s.linkState := by
  induction l generalizing s with
  | nil => rfl
  | cons c l ih =>
    have hone := State.linkState_endMessage_of_down h c.chan st
    exact (ih ((State.linkUp_of_linkState hone).trans h)).trans hone

/-- R300: Down, with nothing retained and no values of the peer. -/
theorem State.linkGoesDown_shows (s : State) : s.linkGoesDown.linkState = linkDown ∧ s.linkGoesDown.link.retained = [] ∧
    s.linkGoesDown.link.peer = none := by
  have hdown : ((s.leavePaired.enterLink linkDown).wr EZL_STAT.WIDTH 0).linkState = linkDown :=
    (State.rd_wr_ne (by decide)).trans (State.linkState_enterLink _ (by decide))
  have hup : ((s.leavePaired.enterLink linkDown).wr EZL_STAT.WIDTH 0).linkUp = false := by
    rw [State.linkUp, show ((s.leavePaired.enterLink linkDown).wr EZL_STAT.WIDTH 0).rd EZL_STAT.STATE = linkDown from hdown]
    rfl
  rw [State.linkGoesDown]
  refine ⟨?_, ?_, ?_⟩
  · rw [State.rd_showPairing_STATE, State.linkState, State.rd_showRetained (by decide) (by decide), State.rd_onLink]
    exact (State.linkState_each_endMessage_of_down hup 2).trans hdown
  · rw [State.showPairing_link, State.showRetained_link, State.onLink_link]
  · rw [State.showPairing_link, State.showRetained_link, State.onLink_link]

/-! Training. -/

/-- R300: from Down the link trains while its conditions hold. -/
theorem State.tryTrain_of_ready {s : State} (hdown : s.linkState = linkDown) (hen : s.flag EZL_CTL.EN = true) (hseated : s.link.peerSeated = true)
    (hkeyed : s.linkKeyed = true) (hparked : s.flag FLT_STAT.PARKED = false) :
    s.tryTrain.linkState = linkTraining ∧ s.tryTrain.link = { s.link with since := s.now } ∧ s.tryTrain.rd EZL_CTL.EN = s.rd EZL_CTL.EN := by
  have hstate : s.rd EZL_STAT.STATE = 0 := hdown
  rw [State.tryTrain, if_pos (by simp [hstate, hen, hseated, hkeyed, hparked])]
  refine ⟨?_, ?_, ?_⟩
  · exact (State.rd_onLink _ _ _).trans (State.rd_wr_fits (by decide) (by decide))
  · rw [State.onLink_link, State.wr_link]
  · rw [State.rd_onLink, State.rd_wr_ne (by decide)]

theorem State.linkKeyed_of_keys {s t : State} (h : t.keys = s.keys) : t.linkKeyed = s.linkKeyed := by
  simp only [State.linkKeyed, State.keySlot, h]

/-! Sending while the link is up and below the LSEQ limit (R298, R299). -/

/-- The frame that is sent goes out once, counted and retained. -/
theorem State.sendFrame_of_up {s : State} (hup : s.linkUp = true) (hseq : s.link.txSeq < 2 ^ 32 - 1) (type : FrameType)
    (win group key meas offset : Nat) (p : LinkPayload) (last : Bool) :
    ∃ f : LinkFrame, s.sendFrame type win group key meas offset p last =
      (((s.onLink fun l => { l with txSeq := l.txSeq + 1, retained := l.retained ++ [f] }).countFrame true f.whole).emit (.linkFrame f)).showRetained := by
  refine ⟨⟨type, last, false, win, group, key, meas, offset, p.size, s.link.txSeq, p⟩, ?_⟩
  rw [State.sendFrame]
  dsimp only
  rw [hup, if_neg (by decide), if_neg (by omega)]

section
variable {s : State} (hup : s.linkUp = true) (hseq : s.link.txSeq < 2 ^ 32 - 1) (type : FrameType)
  (win group key meas offset : Nat) (p : LinkPayload) (last : Bool)
include hup hseq

theorem State.sendFrame_link : ∃ f, (s.sendFrame type win group key meas offset p last).link =
    { s.link with txSeq := s.link.txSeq + 1, retained := s.link.retained ++ [f] } := by
  obtain ⟨f, hf⟩ := State.sendFrame_of_up hup hseq type win group key meas offset p last
  exact ⟨f, by rw [hf, State.showRetained_link, State.emit_link, State.countFrame_link, State.onLink_link]⟩

theorem State.sendFrame_store : (s.sendFrame type win group key meas offset p last).store = s.store := by
  obtain ⟨f, hf⟩ := State.sendFrame_of_up hup hseq type win group key meas offset p last
  rw [hf, State.showRetained_store, State.emit_store, State.countFrame_store, State.onLink_store]

theorem State.sendFrame_mem : (s.sendFrame type win group key meas offset p last).mem = s.mem := by
  obtain ⟨f, hf⟩ := State.sendFrame_of_up hup hseq type win group key meas offset p last
  rw [hf, State.showRetained_mem, State.emit_mem, State.countFrame_mem, State.onLink_mem]

theorem State.rd_sendFrame {g : Fld} (hin : inBlock .ezl g.addr = true) (hne : g.addr ≠ EZL_RETAIN.addr) (hlow : g.addr < EZL_TX_FRAMES.addr) :
    (s.sendFrame type win group key meas offset p last).rd g = s.rd g := by
  obtain ⟨f, hf⟩ := State.sendFrame_of_up hup hseq type win group key meas offset p last
  rw [hf, State.rd_showRetained hin hne, State.rd_emit, State.rd_countFrame hin hlow, State.rd_onLink]

end

end Sys2Proof.Machine
end

section
/-! The commands of the Emzifen link's state. -/

set_option Elab.async false

namespace Sys2Proof.Machine

theorem plainRegister_EZL_CH_RXPOST : ∀ c < 16, quietRegister (EZL_CH_RXPOST.addr c) = true := by decide +kernel

theorem plainRegister_EZL_CH_TXPOST : ∀ c < 16, quietRegister (EZL_CH_TXPOST.addr c) = true := by decide +kernel

/-! Leaving Paired, entering Training. -/

theorem State.leavePaired_of_apart {s : State} (h : s.paired = false) (h' : s.link.fromPaired = false) : s.leavePaired = s := by
  rw [State.leavePaired, h, h']
  rfl

@[simp] theorem State.destroyOldKeks_link (s : State) : s.destroyOldKeks.link = s.link := by simp [State.destroyOldKeks]

@[simp] theorem State.showDirty_link (s : State) : s.showDirty.link = s.link := by simp [State.showDirty]
@[simp] theorem State.showDirty_store (s : State) : s.showDirty.store = s.store := by simp [State.showDirty]

theorem State.stopFollowing_shows (s : State) : s.stopFollowing.link.following = [] ∧ s.stopFollowing.link.rxMeasures = [] ∧
    s.stopFollowing.store.mirrors = s.store.mirrors.filter (·.committed) := by
  simp [State.stopFollowing, State.discardUncommitted]

/-- A module that has left Paired follows no group. -/
theorem State.leavePaired_shows {s : State} (h : s.link.fromPaired = true) :
    s.leavePaired.link.fromPaired = false ∧ s.leavePaired.link.following = [] := by
  have hfollow := s.loseFollow.stopFollowing_shows.1
  rw [State.leavePaired, if_pos (by simp [h])]
  dsimp only
  split
  · simp [hfollow]
  · simp [hfollow]

/-- The answers to messages that were under way when the link enters Training, and what is then dropped, touch neither the link's
state nor its count of retrains. -/
theorem State.enterTraining_shows (s : State) : s.enterTraining.linkState = linkTraining ∧
    s.enterTraining.reg EZL_RETRAIN.addr = s.reg EZL_RETRAIN.addr := by
  have heach : ∀ (l : List Channel) (t : State), After 0x10000008005000 t (t.each l fun c s => s.answerMessage c.chan 2) := by
    intro l
    induction l with
    | nil => exact fun t => .refl t
    | cons c l ih => exact fun t => (State.answerMessage_after t c.chan 2 (.of_and_eq rfl) (.refl t)).trans (ih _)
  obtain ⟨u, hu, hframe⟩ : ∃ u, s.enterTraining =
      (u.discardUncommitted.onLink fun l => { l with retained := l.retained.filter (·.meas != 0) }).showRetained ∧
      After 0x10000008005000 (s.enterLink linkTraining) u := ⟨_, rfl, heach _ _⟩
  have hdrop : After 0x4000001400 u u.discardUncommitted := State.discardUncommitted_after u (.of_and_eq rfl) (.refl u)
  constructor
  · rw [hu, State.linkState, State.rd_showRetained (by decide) (by decide), State.rd_onLink, hdrop.rd .ezl (by decide) rfl,
      hframe.rd .ezl (by decide) rfl]
    exact State.linkState_enterLink s (by decide)
  · rw [hu, State.reg_showRetained (by decide) (by decide), State.reg_onLink, hdrop.reg .ezl (by decide) rfl, hframe.reg .ezl (by decide) rfl,
      State.enterLink, State.reg_onLink, State.reg_wr_ne (by decide)]

/-! A width is reached. -/

theorem linkWidth_lt (lanes : Nat) : linkWidth lanes < 4 := by
  rw [linkWidth]
  repeat' split
  all_goals decide

/-- Training that reaches a width, with full training before it and no channel in use. -/
theorem linkTrained_links {s : State} {lanes : Nat} (hrun : s.running = true) (hstate : s.linkState = linkTraining) (hwidth : linkWidth lanes ≠ 0)
    (hpaired : s.link.fromPaired = false) (hzero : s.rd EZL_STAT.WIDTH = 0) (hchannels : s.link.channels = []) (hepoch : s.link.epochTx < 2 ^ 32 - 2) :
    ∃ u : State, exec (.linkTrained lanes) s = .next u.runJobs ∧ u.linkState = linkLinked ∧ u.rd EZL_STAT.WIDTH = linkWidth lanes ∧
      u.link.txSeq = 1 ∧ u.link.rxSeq = 0 ∧ u.link.epochTx = s.link.epochTx + 1 := by
  have hfits : linkWidth lanes < 2 ^ (EZL_STAT.WIDTH.hi + 1 - EZL_STAT.WIDTH.lo) := Nat.lt_of_lt_of_le (linkWidth_lt lanes) (by decide)
  have htrained : s.trainedWidth lanes = linkWidth lanes := by rw [State.trainedWidth, hzero, if_pos rfl]
  have hnot : s.paired = false := by rw [State.paired, hstate]; rfl
  obtain ⟨v, hv⟩ : ∃ v, v = ((s.wrs [(EZL_STAT.WIDTH, linkWidth lanes), (EZL_LANES.LANES, lanes % 2 ^ 16)]).enterLink linkLinked).onLink fun l =>
    { l with txSeq := 0, rxSeq := 0, sinceAck := 0, epochTx := l.epochTx + 1, fromPaired := false } := ⟨_, rfl⟩
  have hlinked : v.linkState = linkLinked := by
    rw [hv, State.linkState, State.rd_onLink]
    exact State.linkState_enterLink _ (by decide)
  have hup : v.linkUp = true := by rw [State.linkUp, show v.rd EZL_STAT.STATE = linkLinked from hlinked]; rfl
  have hshown : v.rd EZL_STAT.WIDTH = linkWidth lanes := by
    rw [hv, State.rd_onLink, State.rd_enterLink (by decide), State.wrs_cons, State.wrs_cons, State.wrs_nil, State.rd_wr_ne (by decide),
      State.rd_wr_fits (by decide) hfits]
  have hlink : v.link.txSeq = 0 ∧ v.link.rxSeq = 0 ∧ v.link.epochTx = s.link.epochTx + 1 ∧ v.link.channels = [] := by
    rw [hv, State.onLink_link, State.enterLink_link]
    simp [hchannels]
  obtain ⟨htx, hrx, hnext, hidle⟩ := hlink
  have hseq : v.link.txSeq < 2 ^ 32 - 1 := by rw [htx]; decide
  obtain ⟨f, hf⟩ := State.sendFrame_link hup hseq .resume 0 0 0 0 v.link.epochTx (.resume v.pairValues) false
  have hkept {g : Fld} (hin : inBlock .ezl g.addr = true) (hne : g.addr ≠ EZL_RETAIN.addr) (hlow : g.addr < EZL_TX_FRAMES.addr) :=
    State.rd_sendFrame hup hseq .resume 0 0 0 0 v.link.epochTx (.resume v.pairValues) false hin hne hlow
  obtain ⟨w, hw⟩ : ∃ w, w = v.sendFrame .resume 0 0 0 0 v.link.epochTx (.resume v.pairValues) := ⟨_, rfl⟩
  rw [← hw] at hf
  have hquiet : ∀ y : State, y.link = w.link → (y.each y.link.channels fun c s => s.pumpChannel c.chan) = y := fun y h => by
    rw [h, hf, hidle]
    rfl
  obtain ⟨x, hx, hxrd, hxlink⟩ : ∃ x : State, exec (.linkTrained lanes) s = .next x.runJobs ∧ (∀ g, x.rd g = w.rd g) ∧ x.link = w.link := by
    rw [exec_linkTrained, execLinkTrained, onData_of_running hrun]
    dsimp only
    rw [htrained, if_neg (by simp [hstate, hwidth]), if_neg (by omega), hpaired]
    simp only [Bool.false_and, Bool.false_or, Bool.false_eq_true, if_false, State.leavePaired_of_apart hnot hpaired]
    rw [← hv, ← hw, hquiet _ (by split <;> simp)]
    refine ⟨_, rfl, fun g => ?_, ?_⟩
    · split <;> simp
    · split <;> simp
  refine ⟨x, hx, ?_, ?_, ?_, ?_, ?_⟩
  · rw [State.linkState, hxrd, hw, hkept (by decide) (by decide) (by decide)]
    exact hlinked
  · rw [hxrd, hw, hkept (by decide) (by decide) (by decide), hshown]
  · rw [hxlink, hf, htx]
  · rw [hxlink, hf, hrx]
  · rw [hxlink, hf, hnext]

theorem State.linkUp_of_paired {s : State} (h : s.paired = true) : s.linkUp = true := by
  rw [State.linkUp, show s.rd EZL_STAT.STATE = 3 from eq_of_beq h]
  rfl

/-- An element kept under a key takes what is done to it under that key. -/
theorem find?_setBy {α : Type} {key : α → Nat} {k : Nat} {f : α → α} (hf : ∀ a, key (f a) = key a) (l : List α) :
    (setBy key k f l).find? (key · == k) = (l.find? (key · == k)).map f := by
  induction l with
  | nil => rfl
  | cons a l ih =>
    rw [setBy, List.map_cons, List.find?_cons, List.find?_cons, ← setBy, ih]
    by_cases h : (key a == k) = true
    · simp [h, hf]
    · simp [h]

/-- R22: the oldest waiting mirror copy goes out, stamped with the current measure. -/
theorem State.acceptMirror_sends {s : State} {i : Nat} {rest : List Nat} {c : HeldCopy} (hpaired : s.paired = true)
    (hwaiting : s.link.waiting = i :: rest) (hhold : s.link.holdAccept = none) (hcredit : s.linkCredit (cellsOf 4160) = true)
    (hseq : s.link.txSeq < 2 ^ 32 - 1) (hfind : s.store.copies.find? (·.id == i) = some c) (hcmd : c.cmd = none) :
    s.acceptMirror.link.waiting = rest ∧ s.acceptMirror.link.txSeq = s.link.txSeq + 1 ∧
      s.acceptMirror.store.copies.find? (·.id == i) = some { c with meas := some s.measure } := by
  obtain ⟨u, type, win, group, key, meas, offset, p, hu, hup, hulink, hustore⟩ : ∃ (u : State) (type : FrameType) (win group key meas offset : Nat)
      (p : LinkPayload), s.acceptMirror = u.sendFrame type win group key meas offset p ∧ u.linkUp = true ∧
      (u.link.waiting = rest ∧ u.link.txSeq = s.link.txSeq) ∧ u.store.copies.find? (·.id == i) = some { c with meas := some s.measure } := by
    rw [State.acceptMirror, hwaiting]
    dsimp only
    rw [if_neg (by simp [hpaired, hhold, hcredit]), State.onLink_store, hfind]
    cases c
    subst hcmd
    refine ⟨_, _, _, _, _, _, _, _, rfl, State.linkUp_of_paired hpaired, ?_, ?_⟩
    · simp
    · rw [State.onLink_store, State.onStore_store]
      have h := find?_setBy (key := HeldCopy.id) (k := i) (f := fun c : HeldCopy => { c with meas := some s.measure })
        (fun _ => rfl) s.store.copies
      rw [hfind] at h
      rw [State.onLink_store]
      exact h
  obtain ⟨hwait, hseq'⟩ := hulink
  have hbelow : u.link.txSeq < 2 ^ 32 - 1 := by rw [hseq']; exact hseq
  obtain ⟨f, hf⟩ := State.sendFrame_link hup hbelow type win group key meas offset p false
  rw [hu, hf, State.sendFrame_store hup hbelow]
  exact ⟨hwait, congrArg (· + 1) hseq', hustore⟩

theorem EZL_CH_BASE_HI_addr_ne_TXPOST (c : Nat) : (EZL_CH_BASE_HI.OPEN c).addr ≠ (EZL_CH_TXPOST.POST c).addr := by
  simp only [EZL_CH_BASE_HI.OPEN, EZL_CH_TXPOST.POST, EZL_CH_BASE_HI.addr, EZL_CH_TXPOST.addr, blockAddr]
  omega

theorem EZL_STAT_addr_ne_TXPOST {c : Nat} : EZL_STAT.STATE.addr ≠ (EZL_CH_TXPOST.POST c).addr := by
  simp only [EZL_STAT.STATE, EZL_STAT.addr, EZL_CH_TXPOST.POST, EZL_CH_TXPOST.addr, blockAddr]
  omega

/-- Settles O23: each command by the state its rule answers. -/
theorem linkStateCommandsComplete : Obligations.LinkStateCommandsComplete := by
  refine ⟨fun s who v hrun hopens hdown hseated hkeyed hparked => ?_, fun s hrun => ?_, fun s who v hrun hopens => ?_,
    State.linkGoesDown_shows, fun s hrun hdown hen hkeyed hparked => ⟨?_, fun hseated hdue => ?_⟩,
    fun s lanes hrun hstate hwidth hpaired hzero hchannels hepoch => linkTrained_links hrun hstate hwidth hpaired hzero hchannels hepoch,
    fun s hrun hstate hdue => ?_, fun s hrun hup => ?_, fun s hrun hstate hwidth => ⟨?_, State.leavePaired_shows⟩,
    fun s who c post hrun hc hpost hopens => ?_, fun s who c post hrun hc hpost hopens hopen hdown => ?_,
    fun s c hrun hunsent hdue => ?_, fun s hrun hup hdue hseq => ?_, fun s i rest c hrun hpaired hwaiting hhold hcredit hseq hfind hcmd => ?_,
    fun s hrun hpaired => ⟨fun hlate => ?_, fun hseen hsilent => ?_⟩⟩
  · have hwrote := State.written_of_plain (a := EZL_CTL.addr) (by decide) s (v ||| 0x80000000#32)
    obtain ⟨u, hu⟩ : ∃ u, u = (s.written EZL_CTL.addr (v ||| 0x80000000#32)).wr EZL_CTL.EN 1 := ⟨_, rfl⟩
    have hone : u.rd EZL_CTL.EN = 1 := by rw [hu, State.rd_wr_fits (by decide) (by decide)]
    have hkept {g : Fld} (h : g.addr ≠ EZL_CTL.addr) : u.rd g = s.rd g := by rw [hu, State.rd_wr_addr h, hwrote.rd h]
    obtain ⟨hstate, -, hen⟩ := State.tryTrain_of_ready (s := u) ((hkept (by decide)).trans hdown) (State.flag_eq_true hone)
      (by rw [hu, State.wr_link, hwrote.link, hseated]) ((State.linkKeyed_of_keys (by rw [hu, State.wr_keys, hwrote.keys])).trans hkeyed)
      ((State.flag_eq_of_rd (hkept (by decide))).trans hparked)
    rw [exec_linkEnable, execLinkEnable, onSoc_of_running hrun, State.commandWrite_opens hopens, ← hu]
    exact ⟨_, rfl, (State.answered_rd _ _ _ _ _).trans hstate, (State.answered_rd _ _ _ _ _).trans (hen.trans hone)⟩
  · rw [exec_peerRemoved, execPeerRemoved, onSoc_of_running hrun]
    rfl
  · rw [exec_peerRemoved, execPeerRemoved, onSoc_of_running hrun]
    dsimp only
    rw [State.commandWrite_opens hopens]
  · obtain ⟨hstate, hlink, -⟩ := State.tryTrain_of_ready (s := s.onLink fun l => { l with peerSeated := true }) hdown hen
      (by rw [State.onLink_link]) ((State.linkKeyed_of_keys (s.onLink_keys _)).trans hkeyed) hparked
    rw [exec_peerSeated, execPeerSeated, onSoc_of_running hrun]
    exact ⟨_, rfl, hstate, by rw [hlink, State.onLink_link]⟩
  · obtain ⟨hstate, hlink, -⟩ := State.tryTrain_of_ready hdown hen hseated hkeyed hparked
    rw [exec_trainingRetry, execTrainingRetry, onSoc_of_running hrun, if_pos hdue]
    exact ⟨_, rfl, hstate, hlink⟩
  · rw [exec_trainingTimeout, execTrainingTimeout, onData_of_running hrun, if_pos (by simp [hstate, hdue])]
  · obtain ⟨hstate, hcount⟩ := s.enterTraining_shows
    rw [exec_fastRetrain, execFastRetrain, onData_of_running hrun, State.fastRetrain, if_pos hup]
    refine ⟨_, rfl, ?_, by simp, ?_⟩
    · rw [State.linkState, State.rd_count (by decide), State.rd_onLink]
      exact hstate
    · rw [State.reg_count_self, State.reg_onLink, hcount]
      simp
  · rw [exec_fastRetrainFail, execFastRetrainFail, onData_of_running hrun, if_pos (by simp [hstate, hwidth])]
  · rw [exec_messageReceivePost, execMessageReceivePost, onSoc_of_running hrun, if_neg (by omega),
      State.commandWrite_quiet (plainRegister_EZL_CH_RXPOST c hc) hopens, Nat.mod_eq_of_lt hpost]
    refine ⟨_, rfl, ?_, by simp⟩
    rw [State.answered_rd, State.rd_wr_fits (by simp [Fld.inWord, EZL_CH_RXPOST.POST]) (by simpa [EZL_CH_RXPOST.POST] using hpost)]
  · have hopen' : (s.wr (EZL_CH_TXPOST.POST c) post).flag (EZL_CH_BASE_HI.OPEN c) = true :=
      (State.flag_eq_of_rd (State.rd_wr_addr (EZL_CH_BASE_HI_addr_ne_TXPOST c))).trans hopen
    have hdown' : (s.wr (EZL_CH_TXPOST.POST c) post).linkUp = false :=
      (State.linkUp_of_linkState (State.rd_wr_addr EZL_STAT_addr_ne_TXPOST)).trans hdown
    have hposted : (s.wr (EZL_CH_TXPOST.POST c) post).rd (EZL_CH_TXPOST.POST c) = post :=
      State.rd_wr_fits (by simp [Fld.inWord, EZL_CH_TXPOST.POST]) (by simpa [EZL_CH_TXPOST.POST] using hpost)
    have hchannel : (s.wr (EZL_CH_TXPOST.POST c) post).channel c = s.channel c := by simp only [State.channel, State.wr_link]
    rw [exec_messageSendPost, execMessageSendPost, onSoc_of_running hrun, if_neg (by omega),
      State.commandWrite_quiet (plainRegister_EZL_CH_TXPOST c hc) hopens, Nat.mod_eq_of_lt hpost]
    dsimp only
    rw [hopen', if_neg (by decide), State.pumpChannel_of_down ((State.linkUp_of_linkState (State.rd_onChannel _ _ _ _)).trans hdown')]
    refine ⟨_, rfl, ?_, ?_, ?_, ?_⟩
    · rw [State.answered_rd, State.rd_onChannel, hposted]
    · rw [State.channel_of_link (State.answered_link _ _ _ _), State.channel_onChannel _ _ (State.channel_chan _ _), hchannel]
      simp [Function.comp_def]
    · rw [State.channel_of_link (State.answered_link _ _ _ _), State.channel_onChannel _ _ (State.channel_chan _ _)]
    · rw [State.answered_mem, State.onChannel_mem, State.wr_mem]
  · rw [exec_messageWithdraw, execMessageWithdraw, onSoc_of_running hrun, if_pos (by simp [hunsent, hdue])]
  · obtain ⟨u, hu⟩ : ∃ u, u = s.onLink fun l => { l with sinceAck := 0 } := ⟨_, rfl⟩
    have hup' : u.linkUp = true := by rw [hu]; exact hup
    have hseq' : u.link.txSeq < 2 ^ 32 - 1 := by rw [hu, State.onLink_link]; exact hseq
    obtain ⟨f, hf⟩ := State.sendFrame_link hup' hseq' .ack 0 0 0 0 ((s.link.rxSeq + 2 ^ 64 - 1) % 2 ^ 64) .empty false
    rw [exec_linkAckTimer, execLinkAckTimer, onSoc_of_running hrun, if_pos hdue, State.linkAck, ← hu]
    refine ⟨_, rfl, ?_, ?_, ?_⟩
    · rw [hf, hu, State.onLink_link]
    · rw [hf, hu, State.onLink_link]
    · rw [State.sendFrame_mem hup' hseq', hu, State.onLink_mem]
  · obtain ⟨hwait, hseq', hcopy⟩ := State.acceptMirror_sends hpaired hwaiting hhold hcredit hseq hfind hcmd
    rw [exec_mirrorCopyAccept, execMirrorCopyAccept, onData_of_running hrun]
    exact ⟨_, rfl, hwait, hseq', hcopy⟩
  · rw [exec_followLost, execFollowLost, onData_of_running hrun, if_pos (by rw [hpaired, hlate]; rfl)]
    rfl
  · obtain ⟨hfollowing, hrx, hmirrors⟩ := s.stopFollowing_shows
    rw [exec_leadSilenceTimeout, execLeadSilenceTimeout, onSoc_of_running hrun, if_pos (by simp [hpaired, hseen, hsilent])]
    exact ⟨_, rfl, hfollowing, hrx, hmirrors⟩

end Sys2Proof.Machine
end

section
/-! Lead tokens: the groups' entries, the passes over the witnesses, and the fields that hold one bit per group. -/

set_option Elab.async false

namespace Sys2Proof.Machine

/-! A group's token after an operation on the groups. -/

theorem find?_map_key {α : Type} {key : α → Nat} {f : α → α} (hf : ∀ a, key (f a) = key a) (k : Nat) (l : List α) :
    (l.map f).find? (key · == k) = (l.find? (key · == k)).map f := by
  rw [List.find?_map, show ((key · == k) ∘ f) = (key · == k) from funext fun a => by simp [hf]]

theorem any_map_key {α : Type} {key : α → Nat} {f : α → α} (hf : ∀ a, key (f a) = key a) (k : Nat) (l : List α) :
    (l.map f).any (key · == k) = l.any (key · == k) := by
  rw [List.any_map, show ((key · == k) ∘ f) = (key · == k) from funext fun a => by simp [hf]]

/-- What the groups of one state become in another: each by itself, and under its own number. -/
def State.groupsBy (s t : State) (f : GroupToken → GroupToken) : Prop :=
  t.token.groups = s.token.groups.map f ∧ ∀ x, (f x).group = x.group

namespace State.groupsBy

variable {s t u : State} {f f' : GroupToken → GroupToken} {g : Nat}

theorem of_eq (h : t.token.groups = s.token.groups) : s.groupsBy t id := ⟨h.trans (List.map_id _).symm, fun _ => rfl⟩

theorem trans (h : s.groupsBy t f) (h' : t.groupsBy u f') : s.groupsBy u (f' ∘ f) :=
  ⟨by rw [h'.1, h.1, List.map_map], fun x => (h'.2 _).trans (h.2 x)⟩

theorem any (h : s.groupsBy t f) (g : Nat) : t.token.groups.any (·.group == g) = s.token.groups.any (·.group == g) := by
  rw [h.1]
  exact any_map_key (key := GroupToken.group) h.2 g _

theorem token? (h : s.groupsBy t f) (hg : s.token.groups.any (·.group == g) = true) : t.token? g = f (s.token? g) := by
  obtain ⟨x, hx⟩ := Option.isSome_iff_exists.mp (List.find?_isSome.mpr (List.any_eq_true.mp hg))
  rw [State.token?, State.token?, h.1, find?_map_key (key := GroupToken.group) h.2, hx]
  rfl

/-- What no entry loses, no group loses: one without an entry stands at its reset value before and after. -/
theorem keeps (h : s.groupsBy t f) {α : Type} {π : GroupToken → α} (hπ : ∀ x, π (f x) = π x) (g : Nat) : π (t.token? g) = π (s.token? g) := by
  rw [State.token?, State.token?, h.1, find?_map_key (key := GroupToken.group) h.2]
  cases s.token.groups.find? (·.group == g) with
  | none => rfl
  | some x => exact hπ x

/-- An entry that the operation leaves is the one before. -/
theorem ne (h : s.groupsBy t f) (hf : ∀ x, x.group = g → f x = x) : t.token? g = s.token? g := by
  rw [State.token?, State.token?, h.1, find?_map_key (key := GroupToken.group) h.2]
  cases hx : s.token.groups.find? (·.group == g) with
  | none => rfl
  | some x => exact hf x (by simpa using List.find?_some hx)

end State.groupsBy

/-- An operation on the entry of one group. -/
def atGroup (g : Nat) (f : GroupToken → GroupToken) (x : GroupToken) : GroupToken := if x.group == g then f x else x

theorem atGroup_self {g : Nat} {f : GroupToken → GroupToken} {x : GroupToken} (h : x.group = g) : atGroup g f x = f x := if_pos (beq_iff_eq.mpr h)
theorem atGroup_ne {g : Nat} {f : GroupToken → GroupToken} {x : GroupToken} (h : x.group ≠ g) : atGroup g f x = x := if_neg (by simpa using h)

theorem State.token?_group (s : State) (g : Nat) : (s.token? g).group = g := by
  rw [State.token?]
  cases h : s.token.groups.find? (·.group == g) with
  | none => rfl
  | some x => simpa using List.find?_some h

theorem State.onGroup_groupsBy (s : State) (g : Nat) {f : GroupToken → GroupToken} (hf : ∀ x, (f x).group = x.group) :
    s.groupsBy (s.onGroup g f) (atGroup g f) :=
  ⟨rfl, fun x => by unfold atGroup; split <;> simp [hf]⟩

theorem State.token?_onGroup {s : State} {g : Nat} {f : GroupToken → GroupToken} (hf : ∀ x, (f x).group = x.group)
    (hg : s.token.groups.any (·.group == g) = true) : (s.onGroup g f).token? g = f (s.token? g) := by
  rw [(s.onGroup_groupsBy g hf).token? hg, atGroup_self (s.token?_group g)]

theorem State.token?_onGroup_ne {s : State} {g k : Nat} {f : GroupToken → GroupToken} (hf : ∀ x, (f x).group = x.group) (h : k ≠ g) :
    (s.onGroup g f).token? k = s.token? k :=
  (s.onGroup_groupsBy g hf).ne fun _ hx => atGroup_ne (hx ▸ h)

theorem State.token?_of_groups {s t : State} (h : t.token.groups = s.token.groups) (g : Nat) : t.token? g = s.token? g := by
  rw [State.token?, h, State.token?]

/-! Reads, and the passes that write a record. -/

/-- The groups' entries are all that changes in the token part, each by itself. -/
def State.tokensBy (s t : State) (f : GroupToken → GroupToken) : Prop :=
  t.token = { s.token with groups := s.token.groups.map f } ∧ ∀ x, (f x).group = x.group

namespace State.tokensBy

variable {s t u : State} {f f' : GroupToken → GroupToken} {g : Nat}

theorem groupsBy (h : s.tokensBy t f) : s.groupsBy t f := ⟨by rw [h.1], h.2⟩
theorem of_eq (h : t.token = s.token) : s.tokensBy t id := ⟨by rw [List.map_id, h], fun _ => rfl⟩
theorem trans (h : s.tokensBy t f) (h' : t.tokensBy u f') : s.tokensBy u (f' ∘ f) :=
  ⟨by rw [h'.1, h.1]; simp only [List.map_map], fun x => (h'.2 _).trans (h.2 x)⟩
theorem onGroup (s : State) (g : Nat) {f : GroupToken → GroupToken} (hf : ∀ x, (f x).group = x.group) : s.tokensBy (s.onGroup g f) (atGroup g f) :=
  ⟨rfl, (s.onGroup_groupsBy g hf).2⟩
theorem then_eq (h : s.tokensBy t f) (hu : u.token = t.token) : s.tokensBy u f := ⟨hu.trans h.1, h.2⟩

end State.tokensBy

theorem atGroup_id (g : Nat) : atGroup g id = id := funext fun x => by unfold atGroup; split <;> rfl
theorem atGroup_comp {g : Nat} {f f' : GroupToken → GroupToken} (hf : ∀ x, (f x).group = x.group) :
    atGroup g f' ∘ atGroup g f = atGroup g (f' ∘ f) := funext fun x => by
  by_cases h : x.group = g
  · rw [Function.comp, atGroup_self h, atGroup_self ((hf x).trans h), atGroup_self h, Function.comp]
  · rw [Function.comp, atGroup_ne h, atGroup_ne h, atGroup_ne h]

/-- Only the blocks sent and the highest number move. -/
def sendsOnly (f : GroupToken → GroupToken) : Prop := ∀ x, ∃ sent n, f x = { x with sent := sent, lastSeq := n }

theorem sendsOnly.group {f : GroupToken → GroupToken} (h : sendsOnly f) (x : GroupToken) : (f x).group = x.group := by
  obtain ⟨_, _, e⟩ := h x
  rw [e]

theorem sendsOnly.comp {f f' : GroupToken → GroupToken} (h' : sendsOnly f') (h : sendsOnly f) : sendsOnly (f' ∘ f) := fun x => by
  obtain ⟨sent, n, e⟩ := h x
  obtain ⟨sent', n', e'⟩ := h' (f x)
  exact ⟨sent', n', by rw [Function.comp, e', e]⟩

theorem sendsOnly_id : sendsOnly id := fun x => ⟨x.sent, x.lastSeq, rfl⟩

/-- Sending a record to a witness notes the block sent and its number with the group. -/
theorem State.sendToken_tokensBy (s : State) (w : Nat × Nat) (g : Nat) (r : TokenRecord) (fused : Bool) :
    ∃ f, sendsOnly f ∧ s.tokensBy (s.sendToken w g r fused) (atGroup g f) := by
  unfold State.sendToken
  dsimp only
  split
  · exact ⟨id, sendsOnly_id, by rw [atGroup_id]; exact .of_eq rfl⟩
  next c tag u hseal =>
    have hu : u.token = s.token := (State.sealRecord_after (T := 0x100000008000) s 1 _ _ _ _ (.of_and_eq rfl) (.refl s) _ hseal).part .token rfl
    refine ⟨fun t => { t with
      sent := mergeReads t.sent [⟨g, w.1, padTo 4096 (tokenHead r g s.link.serial ++ tag)⟩]
      lastSeq := max t.lastSeq r.seq }, fun x => ⟨_, _, rfl⟩, ?_⟩
    have hnoted := (State.tokensBy.of_eq hu).trans (State.tokensBy.onGroup u g (f := fun t : GroupToken => { t with
      sent := mergeReads t.sent [⟨g, w.1, padTo 4096 (tokenHead r g s.link.serial ++ tag)⟩]
      lastSeq := max t.lastSeq r.seq }) fun _ => rfl)
    rw [Function.comp_id] at hnoted
    refine hnoted.then_eq ?_
    split
    · split <;> rw [State.emit_token]
    · rw [State.emit_token]

theorem State.writeTokenTo_tokensBy (g : Nat) (r : TokenRecord) (ws : List (Nat × Nat)) (s : State) :
    ∃ f, sendsOnly f ∧ s.tokensBy (s.writeTokenTo g r ws) (atGroup g f) := by
  induction ws generalizing s with
  | nil => exact ⟨id, sendsOnly_id, by rw [atGroup_id]; exact .of_eq rfl⟩
  | cons w ws ih =>
    obtain ⟨f, hf, h⟩ := s.sendToken_tokensBy w g r true
    obtain ⟨f', hf', h'⟩ := ih (s.sendToken w g r true)
    exact ⟨f' ∘ f, hf'.comp hf, atGroup_comp hf.group ▸ h.trans h'⟩

/-- A pass over a record starts with nothing sent. -/
def startsPass (r : TokenRecord) (x : GroupToken) : GroupToken := { x with writing := some r, sent := [] }

theorem sendsOnly.startsPass {f : GroupToken → GroupToken} (h : sendsOnly f) (r : TokenRecord) :
    ∃ d, sendsOnly d ∧ f ∘ Machine.startsPass r = fun x => { d x with writing := some r } := by
  refine ⟨fun x => { x with sent := (f (Machine.startsPass r x)).sent, lastSeq := (f (Machine.startsPass r x)).lastSeq },
    fun x => ⟨_, _, rfl⟩, funext fun x => ?_⟩
  obtain ⟨sent, n, e⟩ := h (Machine.startsPass r x)
  dsimp only [Function.comp]
  rw [e]
  rfl

/-- A pass over the witnesses in service. -/
def State.tokenPass (s : State) (g : Nat) (r : TokenRecord) : State := (s.onGroup g (Machine.startsPass r)).writeTokenTo g r s.witnesses

/-- R322, R341: after the pass the record may go to a witness that is being seeded too. -/
theorem State.writeToken_ind {P : State → Prop} {s : State} {g : Nat} {r : TokenRecord} (hpass : P (s.tokenPass g r))
    (hseed : ∀ w, P ((s.tokenPass g r).sendToken w g r false)) : P (s.writeToken g r) := by
  have hwrite : s.writeToken g r = match (s.tokenPass g r).token.seeding with
    | some p => if r.holder = (s.tokenPass g r).cfg.position && !p.written.contains g then (s.tokenPass g r).sendToken (p.witness, p.slot) g r false
      else s.tokenPass g r
    | none => s.tokenPass g r := rfl
  rw [hwrite]
  split
  · split
    · exact hseed _
    · exact hpass
  · exact hpass

/-- R322: a pass notes the record being written with its group. -/
theorem State.writeToken_tokensBy (s : State) (g : Nat) (r : TokenRecord) :
    ∃ f, sendsOnly f ∧ s.tokensBy (s.writeToken g r) (atGroup g fun x => { f x with writing := some r }) := by
  obtain ⟨f, hf, h⟩ := (s.onGroup g (Machine.startsPass r)).writeTokenTo_tokensBy g r s.witnesses
  have hpass : s.tokensBy (s.tokenPass g r) (atGroup g (f ∘ Machine.startsPass r)) := by
    have hall := (State.tokensBy.onGroup s g (f := Machine.startsPass r) fun _ => rfl).trans h
    rwa [atGroup_comp (f := Machine.startsPass r) fun _ => rfl] at hall
  refine State.writeToken_ind (P := fun u => ∃ f, sendsOnly f ∧ s.tokensBy u (atGroup g fun x => { f x with writing := some r })) ?_ fun w => ?_
  · obtain ⟨d, hd, e⟩ := hf.startsPass r
    exact ⟨d, hd, e ▸ hpass⟩
  · obtain ⟨f', hf', h'⟩ := (s.tokenPass g r).sendToken_tokensBy w g r false
    have hall := hpass.trans h'
    rw [atGroup_comp (f := f ∘ Machine.startsPass r) (fun x => (hf.group _).trans rfl),
      show f' ∘ f ∘ Machine.startsPass r = (f' ∘ f) ∘ Machine.startsPass r from rfl] at hall
    obtain ⟨d, hd, e⟩ := (hf'.comp hf).startsPass r
    exact ⟨d, hd, e ▸ hall⟩

/-- The record just written stands with its group; the others are untouched. -/
theorem State.token?_writeToken {s : State} {g : Nat} (hg : s.token.groups.any (·.group == g) = true) (r : TokenRecord) :
    ((s.writeToken g r).token? g).writing = some r := by
  obtain ⟨f, -, h⟩ := s.writeToken_tokensBy g r
  rw [h.groupsBy.token? hg, atGroup_self (s.token?_group g)]

theorem State.token?_writeToken_ne {s : State} {g k : Nat} (h : k ≠ g) (r : TokenRecord) : (s.writeToken g r).token? k = s.token? k := by
  obtain ⟨f, -, hf⟩ := s.writeToken_tokensBy g r
  exact hf.groupsBy.ne fun _ hx => atGroup_ne (hx ▸ h)

theorem State.any_writeToken (s : State) (g k : Nat) (r : TokenRecord) :
    (s.writeToken g r).token.groups.any (·.group == k) = s.token.groups.any (·.group == k) := by
  obtain ⟨f, -, hf⟩ := s.writeToken_tokensBy g r
  exact hf.groupsBy.any k

/-- Only the highest number moves. -/
def seesOnly (f : GroupToken → GroupToken) : Prop := ∀ x, ∃ n, f x = { x with lastSeq := n }

/-- Reading records raises the groups' highest numbers and leaves the rest of them. -/
theorem State.noteTokens_tokensBy (l : List TokenRead) (s : State) : ∃ f, seesOnly f ∧ s.tokensBy (s.noteTokens l) f := by
  unfold State.noteTokens
  induction l generalizing s with
  | nil => exact ⟨id, fun x => ⟨x.lastSeq, rfl⟩, .of_eq rfl⟩
  | cons r l ih =>
    obtain ⟨f, hf, h⟩ : ∃ f, seesOnly f ∧ s.tokensBy ((fun (r : TokenRead) (s : State) => if !s.tokenTagOk r then s.tagMismatch 1 else
        let t := Machine.recordIn r
        (s.raiseHighWater 1 (leNat (tokenContext r.witness r.group t.holder)) t.seq).onGroup r.group fun x => { x with
          lastSeq := max x.lastSeq t.seq }) r s) f := by
      dsimp only
      split
      · exact ⟨id, fun x => ⟨x.lastSeq, rfl⟩, .of_eq ((State.tagMismatch_after (T := 0x603400110000c0) s 1 (.of_and_eq rfl) (.refl s)).part .token rfl)⟩
      · refine ⟨atGroup r.group fun x => { x with lastSeq := max x.lastSeq (Machine.recordIn r).seq }, fun x => ?_, ?_⟩
        · unfold atGroup
          split
          · exact ⟨_, rfl⟩
          · exact ⟨x.lastSeq, rfl⟩
        · exact (State.tokensBy.of_eq ((State.raiseHighWater_after (T := 0x8000) s 1 _ _ (.of_and_eq rfl) (.refl s)).part .token rfl)).trans
            (.onGroup _ r.group (f := fun x : GroupToken => { x with lastSeq := max x.lastSeq (Machine.recordIn r).seq }) fun _ => rfl)
    obtain ⟨f', hf', h'⟩ := ih _
    refine ⟨f' ∘ f, fun x => ?_, h.trans h'⟩
    obtain ⟨n, e⟩ := hf x
    obtain ⟨n', e'⟩ := hf' (f x)
    exact ⟨n', by rw [Function.comp, e', e]⟩

/-! A field of eight bits, one per group. -/

/-- A number with one of its bits set or cleared. -/
def withBit (n g : Nat) (v : Bool) : Nat := n - (if bitOf n g then 2 ^ g else 0) + (if v then 2 ^ g else 0)

theorem bitOf_testBit (n g : Nat) : bitOf n g = n.testBit g := by
  rw [bitOf, Nat.testBit_eq_decide_div_mod_eq]
  rfl

/-- A bit that is clear is set by adding it. -/
theorem testBit_add_two_pow {n g : Nat} (h : n.testBit g = false) (k : Nat) : (n + 2 ^ g).testBit k = (n.testBit k || Decidable.decide (g = k)) := by
  have hlow : n % 2 ^ (g + 1) = n % 2 ^ g := by
    have hbit : n / 2 ^ g % 2 = 0 := by simpa [Nat.testBit_eq_decide_div_mod_eq] using h
    rw [Nat.pow_succ, Nat.mod_mul, hbit, Nat.mul_zero, Nat.add_zero]
  have hlt : n % 2 ^ g < 2 ^ g := Nat.mod_lt _ (Nat.two_pow_pos g)
  have hsplit : n = 2 ^ (g + 1) * (n / 2 ^ (g + 1)) + n % 2 ^ g := hlow ▸ (Nat.div_add_mod n _).symm
  have hor : n % 2 ^ g + 2 ^ g < 2 ^ (g + 1) := by rw [Nat.pow_succ]; omega
  have hsum : n + 2 ^ g = n ||| 2 ^ g := by
    calc n + 2 ^ g = 2 ^ (g + 1) * (n / 2 ^ (g + 1)) + (n % 2 ^ g + 2 ^ g) := by rw [← Nat.add_assoc, ← hsplit]
      _ = 2 ^ (g + 1) * (n / 2 ^ (g + 1)) ||| n % 2 ^ g ||| 2 ^ g := by
        rw [Nat.two_pow_add_eq_or_of_lt hor, ← Nat.or_two_pow_eq_add_of_lt hlt, Nat.or_assoc]
      _ = n ||| 2 ^ g := by rw [← Nat.two_pow_add_eq_or_of_lt (Nat.lt_of_lt_of_le hlt (Nat.pow_le_pow_right (by decide) (Nat.le_succ g))), ← hsplit]
  rw [hsum, Nat.testBit_or, Nat.testBit_two_pow]

theorem bitOf_withBit (n g k : Nat) (v : Bool) : bitOf (withBit n g v) k = if g = k then v else bitOf n k := by
  obtain ⟨m, hm, hclear⟩ : ∃ m, n - (if bitOf n g then 2 ^ g else 0) = m ∧ m.testBit g = false ∧ ∀ k, g ≠ k → m.testBit k = n.testBit k := by
    refine ⟨_, rfl, ?_⟩
    split
    next h =>
      rw [bitOf_testBit] at h
      have hle := Nat.ge_two_pow_of_testBit h
      have hclear : (n - 2 ^ g).testBit g = false := by
        have hflip := Nat.testBit_two_pow_add_eq (n - 2 ^ g) g
        rw [Nat.add_sub_of_le hle, h] at hflip
        simpa using hflip.symm
      refine ⟨hclear, fun k hk => ?_⟩
      have hback := testBit_add_two_pow hclear k
      rw [Nat.sub_add_cancel hle] at hback
      simp [hback, hk]
    next h => exact ⟨by simpa [bitOf_testBit] using h, fun k _ => rfl⟩
  obtain ⟨hself, hother⟩ := hclear
  rw [withBit, hm, bitOf_testBit, bitOf_testBit]
  cases v with
  | true =>
    rw [if_pos rfl, testBit_add_two_pow hself]
    by_cases h : g = k
    · simp [h]
    · simp [h, hother k h]
  | false =>
    rw [if_neg (by decide), Nat.add_zero]
    by_cases h : g = k
    · rw [if_pos h, ← h, hself]
    · rw [if_neg h, hother k h]

theorem withBit_lt {n g b : Nat} (hn : n < 2 ^ b) (hg : g < b) (v : Bool) : withBit n g v < 2 ^ b := by
  refine Nat.lt_pow_two_of_testBit _ fun k hk => ?_
  rw [← bitOf_testBit, bitOf_withBit, if_neg (by omega), bitOf_testBit]
  exact Nat.testBit_lt_two_pow (Nat.lt_of_lt_of_le hn (Nat.pow_le_pow_right (by decide) hk))

/-- A field that shows one bit per group, eight in all. -/
theorem State.bitOf_setBit {s : State} {f : Fld} (hin : f.inWord) (hwidth : f.hi + 1 - f.lo = 8) {g : Nat} (hg : g < 8) (v : Bool) (k : Nat) :
    bitOf ((s.setBit f g v).rd f) k = if g = k then v else bitOf (s.rd f) k := by
  have hfits : withBit (s.rd f) g v < 2 ^ (f.hi + 1 - f.lo) := withBit_lt (State.rd_lt s f) (hwidth ▸ hg) v
  rw [State.setBit, ← withBit, State.rd_wr_fits hin hfits, bitOf_withBit]

theorem State.rd_setBit {s : State} {f h : Fld} (hne : h.Apart f) (g : Nat) (v : Bool) : (s.setBit f g v).rd h = s.rd h := by
  rw [State.setBit, State.rd_wr_ne hne]

end Sys2Proof.Machine
end

section
/-! Lead tokens: leases, and the steps of a cut-in. -/

set_option Elab.async false

namespace Sys2Proof.Machine

/-! Loops over groups. -/

/-- In a loop whose elements do each its own work: each finds what it needs (`Q`), and no other disturbs that or what it
does (`P`). -/
theorem State.each_reaches {α : Type} {I : State → Prop} {P Q : α → State → Prop} {f : α → State → State} {l : List α} {s : State}
    (hnodup : l.Nodup) (hI : ∀ a ∈ l, ∀ s, I s → I (f a s)) (hset : ∀ a ∈ l, ∀ s, I s → Q a s → P a (f a s))
    (hother : ∀ a ∈ l, ∀ b ∈ l, a ≠ b → ∀ s, I s → (P a s → P a (f b s)) ∧ (Q a s → Q a (f b s))) (h : I s) (hall : ∀ a ∈ l, Q a s) :
    I (s.each l f) ∧ ∀ a ∈ l, P a (s.each l f) := by
  suffices hloop : ∀ m : List α, m.Nodup → m ⊆ l → ∀ s, I s → (∀ a ∈ l, a ∉ m ∧ P a s ∨ a ∈ m ∧ Q a s) → I (s.each m f) ∧ ∀ a ∈ l, P a (s.each m f) from
    hloop l hnodup (List.Subset.refl l) s h fun a ha => .inr ⟨ha, hall a ha⟩
  intro m
  induction m with
  | nil => exact fun _ _ _ h hall => ⟨h, fun a ha => ((hall a ha).resolve_right fun h => nomatch h.1).2⟩
  | cons b m ih =>
    intro hnodup hsub s h hall
    have hb : b ∈ l := hsub List.mem_cons_self
    obtain ⟨hbm, hm⟩ := List.nodup_cons.mp hnodup
    refine ih hm (fun a ha => hsub (List.mem_cons_of_mem b ha)) (f b s) (hI b hb s h) fun a ha => ?_
    by_cases hab : a = b
    · subst hab
      exact .inl ⟨hbm, hset a ha s h ((hall a ha).resolve_left fun h => h.1 List.mem_cons_self).2⟩
    · obtain ⟨hp, hq⟩ := hother a ha b hb hab s h
      rcases hall a ha with ⟨hmem, hdone⟩ | ⟨hmem, hready⟩
      · exact .inl ⟨fun h => hmem (List.mem_cons_of_mem b h), hp hdone⟩
      · exact .inr ⟨(List.mem_cons.mp hmem).resolve_left hab, hq hready⟩

/-! What the witnesses and a group's reads depend on. -/

theorem State.memberOfSlot_of_after {T : Nat} {s t : State} (h : After T s t) (e : T.testBit (blockBit .qdl) = false) (slot : Nat) :
    t.memberOfSlot slot = s.memberOfSlot slot := by
  have hmem (set u : Nat) : t.reg (QDL_MEM.addr set u) = s.reg (QDL_MEM.addr set u) := h.reg .qdl (inBlock_blockAddr (by decide) (by decide)) e
  simp only [State.memberOfSlot, State.flag, State.slotOf, State.rd, QDL_MEM.VALID, QDL_MEM.SLOT, hmem]

theorem State.slotFailed_of_after {T : Nat} {s t : State} (h : After T s t) (e : T.testBit (blockBit .qdl) = false) (slot : Nat) :
    t.slotFailed slot = s.slotFailed slot := by
  have hmem (set u : Nat) : t.reg (QDL_MEM.addr set u) = s.reg (QDL_MEM.addr set u) := h.reg .qdl (inBlock_blockAddr (by decide) (by decide)) e
  simp only [State.slotFailed, State.memberOfSlot_of_after h e, State.flag, State.rd, QDL_MEM.FAILED, hmem]

/-- The witnesses in service. -/
theorem State.witnesses_of_after {T : Nat} {s t : State} (h : After T s t) (e : T.testBit (blockBit .qdl) = false)
    (e' : T.testBit (blockBit .ltk) = false) : t.witnesses = s.witnesses := by
  have hslot : (fun w : Nat × Nat => bitOf (t.rd LTK_WITC.V) w.1 && !t.slotFailed w.2) = fun w => bitOf (s.rd LTK_WITC.V) w.1 && !s.slotFailed w.2 := by
    simp only [State.slotFailed_of_after h e, h.rd (f := LTK_WITC.V) .ltk (by decide) e']
  rw [State.witnesses, State.witnesses, hslot, h.rd (f := LTK_WITC.COUNT) .ltk (by decide) e', h.rd (f := LTK_WIT.W0) .ltk (by decide) e',
    h.rd (f := LTK_WIT.W1) .ltk (by decide) e', h.rd (f := LTK_WIT.W2) .ltk (by decide) e', h.rd (f := LTK_WIT.W3) .ltk (by decide) e',
    h.rd (f := LTK_WIT.W4) .ltk (by decide) e']

theorem State.cutGroups_of_rd {s t : State} (h : t.rd LTK_CSTAT.GROUPS = s.rd LTK_CSTAT.GROUPS) : t.cutGroups = s.cutGroups := by
  rw [State.cutGroups, h, State.cutGroups]

theorem State.lt_of_cutGroups {s : State} {g : Nat} (h : g ∈ s.cutGroups) : g < 8 := List.mem_range.mp (List.mem_filter.mp h).1

/-- Reading records leaves the key slots. -/
theorem State.noteTokens_keys (l : List TokenRead) (s : State) : (s.noteTokens l).keys.slots = s.keys.slots := by
  unfold State.noteTokens
  refine State.each_keeps (fun s => s.keys.slots) (fun r s => ?_) s l
  dsimp only
  split
  · exact congrArg Keys.slots ((State.tagMismatch_after (T := 0x603400110000c0) s 1 (.of_and_eq rfl) (.refl s)).part .keys rfl)
  · rw [State.onGroup, State.onToken_keys, State.raiseHighWater]
    split
    · split
      · rfl
      · rfl
    · rfl

theorem State.noteTokens_frame (s : State) (l : List TokenRead) : After 0x603400112080c0 s (s.noteTokens l) :=
  State.noteTokens_after s l (.of_and_eq rfl) (.refl s)

theorem State.answeredReads_noteTokens (s : State) (l : List TokenRead) (g : Nat) (reads : List TokenRead) :
    (s.noteTokens l).answeredReads g reads = s.answeredReads g reads := by
  have hkey : (s.noteTokens l).slotKey = s.slotKey := funext fun k => by simp only [State.slotKey, State.keySlot, State.noteTokens_keys]
  have hlink : (s.noteTokens l).link = s.link := (s.noteTokens_frame l).part .link rfl
  have hgood : (s.noteTokens l).tokenGood = s.tokenGood := funext fun r => by simp only [State.tokenGood, State.tokenTagOk, hkey, hlink]
  rw [State.answeredReads, State.answeredReads, hgood, State.witnesses_of_after (s.noteTokens_frame l) (by decide) (by decide)]

/-! Leases. -/

/-- This module's next record depends on its position, the time, the lease and the key, and the group's highest number. -/
theorem State.nextRecord_congr {s t : State} {g : Nat} (hcfg : t.cfg = s.cfg) (hclock : t.clock = s.clock)
    (hltk : ∀ a, inBlock .ltk a = true → t.reg a = s.reg a) (htok : t.token? g = s.token? g) (r : TokenRecord) :
    t.nextRecord g r = s.nextRecord g r := by
  have hlease : t.rd LTK_CFG.LEASE = s.rd LTK_CFG.LEASE := by rw [State.rd, hltk _ (by decide), State.rd]
  have hkey : t.rd64 LTK_KEY.addr = s.rd64 LTK_KEY.addr := by rw [State.rd64, hltk _ (by decide), State.rd64]
  simp only [State.nextRecord, State.nextTokenSeq, State.leaseUs, State.now, hcfg, hclock, hlease, hkey, htok]

theorem State.writeToken_frame (s : State) (g : Nat) (r : TokenRecord) : After 0x100000208000 s (s.writeToken g r) :=
  State.writeToken_after s g r (.of_and_eq rfl) (.refl s)

/-- A counter that is accepted is the context's new high-water. -/
theorem State.sealRecord_eq {s u : State} {slot counter : Nat} {head aad text c tag : Bytes}
    (h : s.sealRecord slot head counter aad text = some (c, tag, u)) :
    u = (s.setHighWater slot (leNat head) counter).count CIP_GCM_BYTES.addr text.length := by
  rw [State.sealRecord, Option.ite_none_right_eq_some] at h
  have := Option.some.inj h.2
  exact (congrArg (fun p : Bytes × Bytes × State => p.2.2) this).symm

theorem State.sendToken_mem (s : State) (w : Nat × Nat) (g : Nat) (r : TokenRecord) (fused : Bool) : (s.sendToken w g r fused).mem = s.mem := by
  rw [State.sendToken]
  dsimp only
  split
  · exact State.count_mem _ _ _
  next u hseal =>
    have hu : u.mem = s.mem := by rw [State.sealRecord_eq hseal, State.count_mem, State.setHighWater, State.onKeys_mem]
    have hkept (f : GroupToken → GroupToken) (o : Output) : ((u.onGroup g f).emit o).mem = s.mem := by rw [State.emit_mem, ← hu]; rfl
    split
    · split
      · exact hkept _ _
      · exact hkept _ _
    · exact hkept _ _

theorem State.writeToken_mem (s : State) (g : Nat) (r : TokenRecord) : (s.writeToken g r).mem = s.mem := by
  have hpass : (s.tokenPass g r).mem = s.mem :=
    State.each_keeps (fun s => s.mem) (fun w s => s.sendToken_mem w g r true) (s.onGroup g (startsPass r)) s.witnesses
  exact State.writeToken_ind (P := fun u => u.mem = s.mem) hpass fun w => (State.sendToken_mem _ w g r false).trans hpass

/-! Keys that are apart. -/

theorem eq_of_nodup_map {α β : Type} {f : α → β} {l : List α} (h : (l.map f).Nodup) {a b : α} (ha : a ∈ l) (hb : b ∈ l) (e : f a = f b) : a = b := by
  induction l with
  | nil => exact absurd ha List.not_mem_nil
  | cons c l ih =>
    rw [List.map_cons, List.nodup_cons] at h
    obtain hac | hal := List.mem_cons.1 ha
    · obtain hbc | hbl := List.mem_cons.1 hb
      · rw [hac, hbc]
      · exact absurd (hac ▸ e ▸ List.mem_map_of_mem hbl) h.1
    · obtain hbc | hbl := List.mem_cons.1 hb
      · exact absurd (hbc ▸ e ▸ List.mem_map_of_mem hal) h.1
      · exact ih h.2 hal hbl

theorem nodup_of_nodup_map {α β : Type} {f : α → β} {l : List α} (h : (l.map f).Nodup) : l.Nodup :=
  (List.pairwise_map.1 h).imp fun hne e => hne (congrArg f e)

/-- What a renewal does for one group. -/
def renewsOne (x : GroupToken) (s : State) : State :=
  if x.role.renews && x.phase != .writing then s.writeToken x.group (s.nextRecord x.group x.record) else s

theorem renewsOne_frame (x : GroupToken) (s : State) : After 0x100000208000 s (renewsOne x s) := by
  unfold renewsOne
  split
  · exact s.writeToken_frame _ _
  · exact .refl s

theorem renewsOne_mem (x : GroupToken) (s : State) : (renewsOne x s).mem = s.mem := by
  unfold renewsOne
  split
  · exact s.writeToken_mem _ _
  · rfl

theorem renewsOne_passAt (x : GroupToken) (s : State) : (renewsOne x s).token.passAt = s.token.passAt := by
  unfold renewsOne
  split
  · obtain ⟨f, -, h⟩ := s.writeToken_tokensBy x.group (s.nextRecord x.group x.record)
    rw [h.1]
  · rfl

theorem renewsOne_any (x : GroupToken) (s : State) (k : Nat) :
    (renewsOne x s).token.groups.any (·.group == k) = s.token.groups.any (·.group == k) := by
  unfold renewsOne
  split
  · exact s.any_writeToken _ k _
  · rfl

theorem renewsOne_ne {x : GroupToken} {k : Nat} (h : k ≠ x.group) (s : State) : (renewsOne x s).token? k = s.token? k := by
  unfold renewsOne
  split
  · exact State.token?_writeToken_ne h _
  · rfl

/-- R322: the pass writes the next record of each group whose role renews. -/
theorem leaseRenewal_writes {s : State} (hrun : s.running = true) (hnodup : (s.token.groups.map (·.group)).Nodup)
    (hdue : ∀ p, s.token.passAt = some p → p + 1000 * s.rd LTK_CFG.RENEW ≤ s.now) :
    ∃ u, exec .leaseRenewal s = .next u ∧ u.token.passAt = some s.now ∧ u.mem = s.mem ∧
      ∀ t ∈ s.token.groups, t.role.renews = true → t.phase ≠ .writing → (u.token? t.group).writing = some (s.nextRecord t.group t.record) := by
  have hpass : ¬(s.token.passAt.any fun p => decide (s.now < p + 1000 * s.rd LTK_CFG.RENEW)) = true := by
    rw [Option.any_eq_true]
    rintro ⟨p, hp, hlate⟩
    exact absurd (of_decide_eq_true hlate) (Nat.not_lt.mpr (hdue p hp))
  obtain ⟨v, hv⟩ : ∃ v, v = s.onToken fun t => { t with passAt := some s.now } := ⟨_, rfl⟩
  have hexec : exec .leaseRenewal s = .next (v.each s.token.groups renewsOne) := by
    rw [exec_leaseRenewal, execLeaseRenewal, onSoc_of_running hrun, if_neg hpass, hv]
    rfl
  have hframe : After 0x100000208000 v (v.each s.token.groups renewsOne) :=
    State.each_after _ v _ _ (.refl v) fun x t ht => ht.trans (renewsOne_frame x t)
  refine ⟨_, hexec, ?_, ?_, ?_⟩
  · rw [State.each_keeps (fun s => s.token.passAt) renewsOne_passAt, hv, State.onToken_token]
  · rw [State.each_keeps (fun s => s.mem) renewsOne_mem, hv, State.onToken_mem]
  · intro x hx hrenews hphase
    have hnext (t : State) (ht : After 0x100000208000 v t) (hother : t.token? x.group = s.token? x.group) :
        t.nextRecord x.group x.record = s.nextRecord x.group x.record :=
      State.nextRecord_congr ((ht.part .cfg rfl).trans (by rw [hv, State.onToken_cfg])) ((ht.part .clock rfl).trans (by rw [hv, State.onToken_clock]))
        (fun a ha => (ht.reg .ltk ha rfl).trans (by rw [hv]; rfl)) hother x.record
    have hgroup {a b : GroupToken} (ha : a ∈ s.token.groups) (hb : b ∈ s.token.groups) (h : a ≠ b) : a.group ≠ b.group := fun e =>
      h (eq_of_nodup_map hnodup ha hb e)
    refine (State.each_reaches (I := fun t => After 0x100000208000 v t ∧ ∀ k, t.token.groups.any (·.group == k) = s.token.groups.any (·.group == k))
      (P := fun a t => a = x → (t.token? x.group).writing = some (s.nextRecord x.group x.record))
      (Q := fun a t => t.token? a.group = s.token? a.group) (nodup_of_nodup_map hnodup) ?_ ?_ ?_ ⟨.refl v, fun k => by rw [hv]; rfl⟩ fun a _ => by rw [hv]; rfl).2 x hx rfl
    · exact fun a _ t ⟨ht, hany⟩ => ⟨ht.trans (renewsOne_frame a t), fun k => (renewsOne_any a t k).trans (hany k)⟩
    · rintro a ha t ⟨ht, hany⟩ hq rfl
      rw [renewsOne, if_pos (by simp [hrenews, hphase]), State.token?_writeToken, hnext t ht hq]
      rw [hany]
      exact List.any_eq_true.mpr ⟨a, ha, by simp⟩
    · intro a ha b hb hab t _
      have hkept := renewsOne_ne (hgroup ha hb hab) t
      exact ⟨fun hp hx => by rw [← hx, hkept, hx, hp hx], fun hq => hkept.trans hq⟩

end Sys2Proof.Machine
end

section
/-! The commands of a lease and of a cut-in. -/

set_option Elab.async false

namespace Sys2Proof.Machine

theorem LTK_EXP_addr_ne_RENEWS {g : Nat} (hg : g < 8) : LTK_EXP.addr g ≠ LTK_RENEWS.addr := by
  simp only [LTK_EXP.addr, LTK_RENEWS.addr, blockAddr]
  omega

theorem State.token?_onGroup_keeps {α : Type} {π : GroupToken → α} {f : GroupToken → GroupToken} (hf : ∀ x, (f x).group = x.group)
    (hπ : ∀ x, π (f x) = π x) (s : State) (g k : Nat) : π ((s.onGroup g f).token? k) = π (s.token? k) :=
  (s.onGroup_groupsBy g hf).keeps (fun x => by unfold atGroup; split <;> simp [hπ]) k

theorem State.any_onGroup (s : State) (g : Nat) {f : GroupToken → GroupToken} (hf : ∀ x, (f x).group = x.group) (k : Nat) :
    (s.onGroup g f).token.groups.any (·.group == k) = s.token.groups.any (·.group == k) := (s.onGroup_groupsBy g hf).any k

theorem State.seedingGranted_token (s : State) (g : Nat) (granted : List Nat) (k : Nat) : (s.seedingGranted g granted).token? k = s.token? k := by
  rw [State.seedingGranted]
  split
  · split
    · rfl
    · rfl
  · rfl

theorem State.seedingGranted_any (s : State) (g : Nat) (granted : List Nat) (k : Nat) :
    (s.seedingGranted g granted).token.groups.any (·.group == k) = s.token.groups.any (·.group == k) := by
  rw [State.seedingGranted]
  split
  · split
    · rfl
    · rfl
  · rfl

/-- What a pass's answers leave of a group: its role and phase. -/
theorem renewalComplete_grants {s : State} {g : Nat} {r : TokenRecord} {granted : List Nat} {reads : List TokenRead} (hrun : s.running = true)
    (hwriting : (s.token? g).writing = some r) (hg : s.token.groups.any (·.group == g) = true) (hlt : g < 8) (hrole : (s.token? g).role = .leading)
    (hphase : (s.token? g).phase = .idle) (hpeer : s.peerNamed g reads = false) (hmajority : s.majority ≤ s.grants g granted) :
    ∃ u : State, exec (.renewalComplete g granted reads) s = .next u.runJobs ∧ (u.token? g).record = r ∧ (u.token? g).writing = none ∧
      (u.token? g).role = .leading ∧ u.reg (LTK_EXP.addr g) = BitVec.ofNat 64 r.expires ∧ u.token.witOk = s.grants g granted := by
  obtain ⟨f, hf, hnote⟩ := s.noteTokens_tokensBy reads
  obtain ⟨v, hv⟩ : ∃ v, v = ((s.noteTokens reads).passGranted g granted).keepReads g (s.answeredReads g reads) := ⟨_, rfl⟩
  have hkeeps {α : Type} {π : GroupToken → α} (hnoted : ∀ x n, π { x with lastSeq := n } = π x)
      (hread : ∀ x l, π { x with read := l } = π x) (hreadAt : ∀ x l n, π { x with read := l, readAt := n } = π x) : π (v.token? g) = π (s.token? g) := by
    rw [hv, State.keepReads, State.passGranted]
    refine (State.token?_onGroup_keeps (π := π) ?_ ?_ _ g g).trans ((State.token?_onGroup_keeps (π := π) ?_ ?_ _ g g).trans (hnote.groupsBy.keeps (fun x => ?_) g))
    · exact fun _ => rfl
    · exact fun _ => hreadAt _ _ _
    · exact fun _ => rfl
    · exact fun _ => hread _ _
    obtain ⟨n, e⟩ := hf x
    rw [e, hnoted]
  have hany : v.token.groups.any (·.group == g) = true := by
    rw [hv, State.keepReads, State.passGranted]
    refine (State.any_onGroup _ g ?_ g).trans ((State.any_onGroup _ g ?_ g).trans ((hnote.groupsBy.any g).trans hg))
    · exact fun _ => rfl
    · exact fun _ => rfl
  obtain ⟨w, hw, hwtok, hwany⟩ : ∃ w, w = ((v.seedingGranted g granted).count LTK_WIT_ERR.addr ((v.seedingGranted g granted).witnesses.length - s.grants g granted)).onToken
      (fun x => { x with witOk := s.grants g granted }) ∧ w.token? g = v.token? g ∧ w.token.groups.any (·.group == g) = true :=
    ⟨_, rfl, State.seedingGranted_token v g granted g, (State.seedingGranted_any v g granted g).trans hany⟩
  have hwmajority : w.majority = s.majority := by
    have hframe : After 0x603400112080c0 s (v.seedingGranted g granted) := by
      rw [hv]
      exact State.seedingGranted_after _ _ _ (.of_and_eq rfl) (State.keepReads_after _ _ _ (.of_and_eq rfl)
        (State.passGranted_after _ _ _ (.of_and_eq rfl) (s.noteTokens_frame reads)))
    rw [State.majority, hw, State.rd_onToken, State.rd_count (by decide), hframe.rd .ltk (by decide) rfl, State.majority]
  have hgroup : (w.token? g).group = g := w.token?_group g
  have hwrole : (w.token? g).role = .leading := by rw [hwtok, hkeeps (π := GroupToken.role) (fun _ _ => rfl) (fun _ _ => rfl) fun _ _ _ => rfl, hrole]
  have hwphase : (w.token? g).phase = .idle := by rw [hwtok, hkeeps (π := GroupToken.phase) (fun _ _ => rfl) (fun _ _ => rfl) fun _ _ _ => rfl, hphase]
  obtain ⟨x, hx⟩ : ∃ x, x = (w.onGroup g fun t => { t with record := r, writing := none }).setReg (LTK_EXP.addr g) (BitVec.ofNat 64 r.expires) := ⟨_, rfl⟩
  have hgranted : w.recordGranted (w.token? g) r = x.count LTK_RENEWS.addr := by
    rw [State.recordGranted]
    dsimp only
    rw [hgroup, if_neg (by rw [hwphase]; decide), ← hx, if_neg (by rw [hwrole]; decide)]
  have hxtok : x.token? g = { w.token? g with record := r, writing := none } := by
    rw [hx, State.token?_of_groups (s := w.onGroup g fun t => { t with record := r, writing := none }) (by rw [State.setReg_token])]
    exact State.token?_onGroup (fun _ => rfl) hwany
  refine ⟨x.count LTK_RENEWS.addr, ?_, ?_⟩
  · rw [exec_renewalComplete, execRenewalComplete, onData_of_running hrun]
    dsimp only
    rw [hwriting]
    dsimp only
    rw [hpeer, if_neg (by decide), ← hv, ← hw, if_pos (by rw [hwmajority]; exact hmajority), hgranted]
  · have htok : (x.count LTK_RENEWS.addr).token? g = { w.token? g with record := r, writing := none } :=
      (State.token?_of_groups (by rw [State.count_token]) g).trans hxtok
    rw [htok]
    refine ⟨rfl, rfl, hwrole, ?_, ?_⟩
    · rw [State.count, State.reg_setReg_ne (LTK_EXP_addr_ne_RENEWS hlt), hx, State.reg_setReg_self]
    · rw [State.count_token, hx, State.setReg_token, hw]
      rfl

theorem State.cutCommands_frame (s : State) (g st : Nat) (f : HostCmd → Bool) : After 0x40044111002601 s (s.cutCommands g st f) :=
  State.cutCommands_after s g st f (.of_and_eq rfl) (.refl s)

/-- A module that finds itself fenced shows that it leads no group, and records it. -/
theorem moduleFenced_records {s : State} (hrun : s.running = true) (hlost : s.lostModule = false) :
    ∃ u : State, u.rd LTK_STAT.LEAD = 0 ∧ u.rd LTK_STAT.CHANGE = 0 ∧ u.rd LTK_STAT.PLOSS = s.rd LTK_STAT.PLOSS ||| s.rd LTK_STAT.LEAD ∧
      exec .moduleFenced s = .next (u.fault
        { cls := 7, code := 0x83, severity := 4, source := 0x25, addr := s.rd LTK_STAT.LEAD, data := (u.reg LTK_STAT.addr).toNat }).runJobs := by
  obtain ⟨v, hframe, hexec⟩ : ∃ v, After 0x40044111202601 s v ∧ exec .moduleFenced s = .next (((((v.wrs [(LTK_STAT.LEAD, 0), (LTK_STAT.CHANGE, 0),
        (LTK_STAT.PLOSS, v.rd LTK_STAT.PLOSS ||| s.rd LTK_STAT.LEAD)]).yieldWalks.reportAna.tellLeads (s.rd LTK_STAT.LEAD)).fault
        { cls := 7, code := 0x83, severity := 4, source := 0x25, addr := s.rd LTK_STAT.LEAD,
          data := (((v.wrs [(LTK_STAT.LEAD, 0), (LTK_STAT.CHANGE, 0), (LTK_STAT.PLOSS, v.rd LTK_STAT.PLOSS ||| s.rd LTK_STAT.LEAD)]
            ).yieldWalks.reportAna.tellLeads (s.rd LTK_STAT.LEAD)).reg LTK_STAT.addr).toNat })).runJobs) := by
    refine ⟨_, ?_, by rw [exec_moduleFenced, execModuleFenced, onData_of_running hrun, if_neg (by rw [hlost]; decide)]⟩
    refine State.onToken_after _ _ (.of_and_eq rfl) (State.each_after _ s _ _ (.refl s) fun g t ht => ?_)
    split
    · exact ht
    · exact State.onGroup_after _ _ _ (.of_and_eq rfl) (ht.trans ((State.cutCommands_after t g _ _ (.of_and_eq rfl) (.refl t))))
  obtain ⟨w, hw⟩ : ∃ w, w = v.wrs [(LTK_STAT.LEAD, 0), (LTK_STAT.CHANGE, 0), (LTK_STAT.PLOSS, v.rd LTK_STAT.PLOSS ||| s.rd LTK_STAT.LEAD)] := ⟨_, rfl⟩
  rw [← hw] at hexec
  have hkept {f : Fld} (hin : inBlock .ltk f.addr = true) : (w.yieldWalks.reportAna.tellLeads (s.rd LTK_STAT.LEAD)).rd f = w.rd f :=
    (State.tellLeads_after _ (s.rd LTK_STAT.LEAD) (.of_and_eq rfl) (State.reportAna_after _ (.of_and_eq rfl)
      (State.yieldWalks_after w (.of_and_eq rfl) (.refl w))) : After 0x403401110a2281 w _).rd .ltk hin rfl
  have hbits : s.rd LTK_STAT.PLOSS ||| s.rd LTK_STAT.LEAD < 2 ^ 8 := Nat.or_lt_two_pow (State.rd_lt s LTK_STAT.PLOSS) (State.rd_lt s LTK_STAT.LEAD)
  refine ⟨_, ?_, ?_, ?_, hexec⟩
  · rw [hkept (by decide), hw, State.wrs_cons, State.wrs_cons, State.wrs_cons, State.wrs_nil, State.rd_wr_ne (by decide), State.rd_wr_ne (by decide),
      State.rd_wr_fits (by decide) (by decide)]
  · rw [hkept (by decide), hw, State.wrs_cons, State.wrs_cons, State.wrs_cons, State.wrs_nil, State.rd_wr_ne (by decide),
      State.rd_wr_fits (by decide) (by decide)]
  · rw [hkept (by decide), hw, State.wrs_cons, State.wrs_cons, State.wrs_cons, State.wrs_nil, hframe.rd (f := LTK_STAT.PLOSS) .ltk (by decide) rfl,
      State.rd_wr_fits (by decide) hbits]

end Sys2Proof.Machine
end

section
/-! The commands of a lease and of a cut-in, together. -/

set_option Elab.async false

namespace Sys2Proof.Machine

/-! A fault record, and the notice of it, leave the memory. -/

@[simp] theorem State.setWords_mem (a n : Nat) (bs : Bytes) (s : State) : (s.setWords a n bs).mem = s.mem := by
  induction n generalizing s a bs with
  | zero => rfl
  | succ n ih => rw [State.setWords, ih, State.setReg_mem]

@[simp] theorem State.noticeSent_mem (s : State) (m : McpSession) (n : Nat) : (s.noticeSent m n).mem = s.mem := by simp [State.noticeSent]

@[simp] theorem State.writeTlps_mem (s : State) (n : Nat) : (s.writeTlps n).mem = s.mem := by
  rw [State.writeTlps]
  split
  · rfl
  · refine (State.each_keeps (fun s => s.mem) (fun i s => ?_) _ _).trans (State.count_mem _ _ _)
    rw [State.moved_keeps (·.mem) (fun _ _ => rfl), State.event_mem]

@[simp] theorem State.fire_mem (s : State) (f v : Nat) : (s.fire f v).mem = s.mem := by
  rw [State.fire]
  split
  · rfl
  split
  · simp [State.onFn]
  split
  · rw [State.emit_mem, State.writeTlps_mem]
  · rfl

@[simp] theorem State.wrs_mem (s : State) (l : List (Fld × Nat)) : (s.wrs l).mem = s.mem := by
  induction l generalizing s with
  | nil => rfl
  | cons p l ih => rw [State.wrs_cons, ih, State.wr_mem]

@[simp] theorem State.raisePme_mem (s : State) : s.raisePme.mem = s.mem := by
  rw [State.raisePme]
  split
  · rfl
  dsimp only
  split
  · simp
  split
  · simp
  · simp

@[simp] theorem State.deliverNotice_mem (s : State) (n : Notice) (m : McpSession) : (s.deliverNotice n m).mem = s.mem := by
  rw [State.deliverNotice]
  split
  · split
    · rw [State.mailboxNotice]
      dsimp only
      split <;> simp
    · simp [State.packetOut]
  · rfl

@[simp] theorem State.notify_mem (s : State) (b : NoticeBody) : (s.notify b).mem = s.mem := by
  rw [State.notify]
  exact (State.each_keeps (fun s => s.mem) (fun m t => t.deliverNotice_mem _ m) _ _).trans (s.onMcp_mem _)

@[simp] theorem State.enterRing_mem (s : State) (r : FaultRecord) : (s.enterRing r).mem = s.mem := by
  rw [State.enterRing]
  dsimp only
  split <;> simp

@[simp] theorem State.raisePend_mem (s : State) (n : Nat) : (s.raisePend n).mem = s.mem := by
  rw [State.raisePend]
  split <;> simp

@[simp] theorem State.newRecord_mem (s : State) (r : FaultRecord) : (s.newRecord r).mem = s.mem := by
  rw [State.newRecord]
  split <;> split <;> simp [State.latchRecord]

@[simp] theorem State.fault_mem (s : State) (e : FaultEvent) : (s.fault e).mem = s.mem := by
  rw [State.fault]
  split
  · split <;> simp [State.coalesceDormant, State.dormantRecord, apply_ite State.mem]
  · split
    · simp
    · split <;> simp

theorem State.noteTokens_mem (s : State) (l : List TokenRead) : (s.noteTokens l).mem = s.mem := by
  unfold State.noteTokens
  refine State.each_keeps (fun s => s.mem) (fun r s => ?_) s l
  dsimp only
  split
  · rw [State.tagMismatch, State.plainFault, State.fault_mem, State.count_mem]
  · rw [State.onGroup, State.onToken_mem, State.raiseHighWater]
    split
    · split
      · exact s.onKeys_mem _
      · rfl
    · exact s.onKeys_mem _

/-! The LTK_CMD operation under way ends for a group. -/

theorem State.commandGroup_token? (s : State) (g status k : Nat) : (s.commandGroup g status).token? k = s.token? k := by
  refine State.token?_of_groups ?_ k
  rw [State.commandGroup]
  split
  · split
    · rfl
    · dsimp only
      split <;> simp [apply_ite State.token]
  · rfl

theorem State.commandGroup_mem (s : State) (g status : Nat) : (s.commandGroup g status).mem = s.mem := by
  rw [State.commandGroup]
  split
  · split
    · rfl
    · dsimp only
      split <;> simp [apply_ite State.mem]
  · rfl

/-- Eight bits, one of each group that meets a condition. -/
theorem groupBits_lt (p : Nat → Bool) : groupBits p < 2 ^ 8 := by
  have hsum : ∀ (l : List Nat) (n : Nat), l.foldl (fun n g => if p g then n + 2 ^ g else n) n ≤ n + (l.map (2 ^ ·)).sum := by
    intro l
    induction l with
    | nil => exact fun n => Nat.le_refl n
    | cons g l ih =>
      intro n
      rw [List.foldl_cons, List.map_cons, List.sum_cons]
      refine Nat.le_trans (ih _) ?_
      have := Nat.two_pow_pos g
      split <;> omega
  exact Nat.lt_of_le_of_lt (hsum (List.range 8) 0) (by decide)

/-- R326: a standby self-test that finds all right. -/
theorem standbySelfTest_passes {s : State} {g : Nat} {reads : List TokenRead} {absent bad : List Nat} (hrun : s.running = true)
    (hg : s.token.groups.any (·.group == g) = true) (hdue : s.testDue g = true) (hmajority : s.majority ≤ (s.answeredReads g reads).length)
    (hdrives : (((s.setsOf g).flatMap s.memberSlots).any fun k => absent.contains k || bad.contains k) = false)
    (hlink : s.link.markerSeen ≤ s.link.committed) : ∃ u, exec (.standbySelfTest g reads absent bad) s = .next u ∧
      (u.token? g).ready = true ∧ (u.token? g).testAsked = false ∧ (u.token? g).lastTest = s.now / 10 ^ 9 ∧ u.mem = s.mem := by
  obtain ⟨f, -, hnote⟩ := s.noteTokens_tokensBy reads
  have hnone : ((s.setsOf g).flatMap s.memberSlots).filter absent.contains = [] := by
    rw [List.filter_eq_nil_iff]
    intro k hk habsent
    exact List.any_eq_false.mp hdrives k hk (by rw [habsent]; rfl)
  have hpassed : (decide (s.majority ≤ (s.answeredReads g reads).length) && !((s.setsOf g).flatMap s.memberSlots).any (fun k => absent.contains k || bad.contains k) &&
      decide (s.link.markerSeen ≤ s.link.committed)) = true := by rw [hdrives, decide_eq_true hmajority, decide_eq_true hlink]; rfl
  refine ⟨((s.noteTokens reads).onGroup g fun t => { t with ready := true, testAsked := false, lastTest := s.now / 10 ^ 9 }).commandGroup g 0,
    ?_, ?_⟩
  · rw [exec_standbySelfTest, execStandbySelfTest, onSoc_of_running hrun, if_neg (by rw [hdue]; decide)]
    dsimp only
    rw [hpassed, if_pos rfl, hnone, State.each, List.foldl_nil]
  · rw [State.commandGroup_token?, State.token?_onGroup ?_ ((hnote.groupsBy.any g).trans hg)]
    · exact ⟨rfl, rfl, rfl, (State.commandGroup_mem _ _ _).trans (s.noteTokens_mem reads)⟩
    · exact fun _ => rfl

end Sys2Proof.Machine
end

section
/-! The steps of a cut-in. -/

set_option Elab.async false

namespace Sys2Proof.Machine

theorem State.readToken_frame (s : State) (g : Nat) : After 0 s (s.readToken g) := State.readToken_after s g (.refl s)

/-- R331: a follow whose lead stays silent is Suspect. -/
theorem peerSuspect_shows {s : State} (hrun : s.running = true) (hstate : s.rd LTK_CSTAT.STATE = cutFollowing) (hfollow : s.link.following ≠ [])
    (hsilent : s.peerSilent = true) : ∃ u, exec .peerSuspect s = .next u ∧ u.rd LTK_CSTAT.STATE = cutSuspect ∧ u.token.healthSeen = false ∧
      u.rd LTK_CSTAT.GROUPS = groupBits ((List.range 8).filter fun g =>
        !s.leads g && (s.link.following.contains g || bitOf s.link.peerLeads g)).contains := by
  obtain ⟨gs, hgs⟩ : ∃ gs, gs = (List.range 8).filter fun g => !s.leads g && (s.link.following.contains g || bitOf s.link.peerLeads g) := ⟨_, rfl⟩
  obtain ⟨v, hv⟩ : ∃ v, v = (s.wrs [(LTK_CSTAT.STATE, cutSuspect), (LTK_CSTAT.GROUPS, groupBits gs.contains)]).onToken fun t => { t with
    healthSeen := false
    rereadAt := s.now } := ⟨_, rfl⟩
  have hframe : After 0 v (v.each gs fun g s => s.readToken g) := State.each_after _ v _ _ (.refl v) fun g t ht => ht.trans (t.readToken_frame g)
  refine ⟨v.each gs fun g s => s.readToken g, ?_, ?_, ?_, ?_⟩
  · rw [exec_peerSuspect, execPeerSuspect, onSoc_of_running hrun, if_pos (by simp [hstate, hfollow, hsilent]), hv, hgs]
  · rw [hframe.rd .ltk (by decide) rfl, hv, State.rd_onToken, State.wrs_cons, State.wrs_cons, State.wrs_nil, State.rd_wr_ne (by decide),
      State.rd_wr_fits (by decide) (by decide)]
  · exact (congrArg Token.healthSeen (hframe.part .token rfl)).trans (by rw [hv, State.onToken_token])
  · rw [hframe.rd .ltk (by decide) rfl, hv, State.rd_onToken, State.wrs_cons, State.wrs_cons, State.wrs_nil,
      State.rd_wr_fits (by decide) (groupBits_lt _), ← hgs]

/-- What a majority of reads leaves of one group of a cut-in. -/
def suspectRead (reads : List TokenRead) (g : Nat) (s : State) : State :=
  ((s.showExpiry g (s.answeredReads g reads)).keepReads g (s.answeredReads g reads)).onGroup g fun t => { t with readAt := s.now }

theorem suspectRead_frame (reads : List TokenRead) (g : Nat) (s : State) : After 0x10000200000 s (suspectRead reads g s) :=
  State.onGroup_after _ _ _ (.of_and_eq rfl) (State.keepReads_after _ _ _ (.of_and_eq rfl) (State.showExpiry_after _ _ _ (.of_and_eq rfl) (.refl s)))

theorem State.showExpiry_token (s : State) (g : Nat) (l : List TokenRead) : (s.showExpiry g l).token = s.token := by
  rw [State.showExpiry]
  split
  · rw [State.setReg_token]
  · rfl

theorem suspectRead_groupsBy (reads : List TokenRead) (g : Nat) (s : State) :
    ∃ f, s.groupsBy (suspectRead reads g s) (atGroup g f) ∧ ∀ x, (f x).readAt = s.now := by
  have hread := State.onGroup_groupsBy (s.showExpiry g (s.answeredReads g reads)) g (f := fun t : GroupToken => { t with
    read := mergeReads t.read (s.answeredReads g reads)
    readAt := if (s.answeredReads g reads).all t.read.contains then t.readAt else (s.showExpiry g (s.answeredReads g reads)).now }) fun _ => rfl
  have hstamp := State.onGroup_groupsBy ((s.showExpiry g (s.answeredReads g reads)).keepReads g (s.answeredReads g reads)) g
    (f := fun t : GroupToken => { t with readAt := s.now }) fun _ => rfl
  have hall := ((State.groupsBy.of_eq (s := s) (congrArg Token.groups (s.showExpiry_token g (s.answeredReads g reads)))).trans hread).trans hstamp
  rw [Function.comp_id, atGroup_comp fun x => ?_] at hall
  · exact ⟨_, hall, fun _ => rfl⟩
  · rfl

theorem nodup_cutGroups (s : State) : s.cutGroups.Nodup := List.nodup_range.filter _

/-- R332: a majority of reads that name the peer starts the wait. -/
theorem tokenRecordReadComplete_waits {s : State} {reads : List TokenRead} (hrun : s.running = true) (hstate : s.rd LTK_CSTAT.STATE = cutSuspect)
    (hsome : s.cutGroups ≠ []) (hreads : ∀ g ∈ s.cutGroups, s.token.groups.any (·.group == g) = true ∧
      s.majority ≤ (s.answeredReads g reads).length ∧ (newestToken (s.answeredReads g reads)).holder = 1 - s.cfg.position) :
    ∃ u, exec (.tokenRecordReadComplete reads) s = .next u ∧ u.rd LTK_CSTAT.STATE = cutWaiting ∧
      ∀ g ∈ s.cutGroups, (u.token? g).readAt = s.now := by
  obtain ⟨n, hn⟩ : ∃ n, n = s.noteTokens reads := ⟨_, rfl⟩
  have hframe : After 0x603400112080c0 s n := hn ▸ s.noteTokens_frame reads
  have hanswered (g : Nat) : n.answeredReads g reads = s.answeredReads g reads := by rw [hn, State.answeredReads_noteTokens]
  have hgroups : n.cutGroups = s.cutGroups := State.cutGroups_of_rd (hframe.rd .ltk (by decide) rfl)
  have hmajority : n.majority = s.majority := by rw [State.majority, hframe.rd .ltk (by decide) rfl, State.majority]
  have hcfg : n.cfg = s.cfg := hframe.part .cfg rfl
  have htake : n.cutGroups.filter (fun g => (newestToken (n.answeredReads g reads)).holder == 1 - n.cfg.position) = s.cutGroups := by
    rw [hgroups, hcfg]
    exact List.filter_eq_self.mpr fun g hg => beq_iff_eq.mpr (hanswered g ▸ (hreads g hg).2.2)
  have hall : (n.cutGroups.all fun g => decide (n.majority ≤ (n.answeredReads g reads).length)) = true := by
    rw [hgroups, hmajority]
    exact List.all_eq_true.mpr fun g hg => decide_eq_true (hanswered g ▸ (hreads g hg).2.1)
  have hempty : s.cutGroups.isEmpty = false := List.isEmpty_eq_false_iff.mpr hsome
  obtain ⟨v, hv⟩ : ∃ v, v = n.each s.cutGroups (suspectRead reads) := ⟨_, rfl⟩
  have hloop : (n.each n.cutGroups fun g s => ((s.showExpiry g (s.answeredReads g reads)).keepReads g (s.answeredReads g reads)).onGroup g fun t =>
      { t with readAt := s.now }) = v := by
    rw [hgroups, hv]
    rfl
  have hsuspect : n.suspectReads reads = (v.wrs [(LTK_CSTAT.GROUPS, groupBits s.cutGroups.contains), (LTK_CSTAT.STATE, cutWaiting),
      (LTK_STAT.CHANGE, v.rd LTK_STAT.CHANGE ||| groupBits s.cutGroups.contains)]).reportAna := by
    rw [State.suspectReads]
    dsimp only
    rw [hall, htake, hempty, hloop, Bool.not_true, if_neg Bool.false_ne_true, if_neg Bool.false_ne_true]
  obtain ⟨w, hw⟩ : ∃ w, w = v.wrs [(LTK_CSTAT.GROUPS, groupBits s.cutGroups.contains), (LTK_CSTAT.STATE, cutWaiting),
      (LTK_STAT.CHANGE, v.rd LTK_STAT.CHANGE ||| groupBits s.cutGroups.contains)] := ⟨_, rfl⟩
  have hana : After 0x40340111002281 w w.reportAna := State.reportAna_after w (.of_and_eq rfl) (.refl w)
  refine ⟨w.reportAna, ?_, ?_, fun g hg => ?_⟩
  · rw [exec_tokenRecordReadComplete, execTokenRecordReadComplete, onSoc_of_running hrun, ← hn]
    dsimp only
    rw [hframe.rd .ltk (by decide) rfl, if_pos hstate, hsuspect, ← hw]
  · rw [hana.rd .ltk (by decide) rfl, hw, State.wrs_cons, State.wrs_cons, State.wrs_cons, State.wrs_nil, State.rd_wr_ne (by decide),
      State.rd_wr_fits (by decide) (by decide)]
  · have htok : w.reportAna.token? g = v.token? g := State.token?_of_groups (by rw [hana.part .token rfl, hw]; simp only [State.wrs_cons, State.wrs_nil, State.wr_token]) g
    rw [htok, hv]
    refine (State.each_reaches (I := fun t => t.clock = s.clock ∧ ∀ g ∈ s.cutGroups, t.token.groups.any (·.group == g) = true)
      (P := fun g t => (t.token? g).readAt = s.now) (Q := fun _ _ => True) (nodup_cutGroups s) ?_ ?_ ?_ ?_ fun _ _ => trivial).2 g hg
    · rintro a - t ⟨hclock, hany⟩
      obtain ⟨f, hf, -⟩ := suspectRead_groupsBy reads a t
      exact ⟨((suspectRead_frame reads a t).part .clock rfl).trans hclock, fun g hg => (hf.any g).trans (hany g hg)⟩
    · rintro a ha t ⟨hclock, hany⟩ -
      obtain ⟨f, hf, hnow⟩ := suspectRead_groupsBy reads a t
      rw [hf.token? (hany a ha), atGroup_self (t.token?_group a), hnow, State.now, hclock, State.now]
    · rintro a - b - hab t -
      obtain ⟨f, hf, -⟩ := suspectRead_groupsBy reads b t
      exact ⟨fun hp => by rw [hf.ne fun _ hx => atGroup_ne (hx ▸ hab), hp], fun _ => trivial⟩
    · obtain ⟨f, -, hf⟩ := s.noteTokens_tokensBy reads
      exact ⟨hframe.part .clock rfl, fun g hg => by rw [hn, hf.groupsBy.any g, (hreads g hg).1]⟩

/-- R333: the reads of a wait are asked for again. -/
theorem cutInReread_reads {s : State} (hrun : s.running = true) (hdue : s.token.rereadAt + 1000 * s.rd LTK_CFG.RENEW ≤ s.now)
    (hstate : s.rd LTK_CSTAT.STATE = cutWaiting) : ∃ u, exec .cutInReread s = .next u ∧ u.regs = s.regs ∧ u.mem = s.mem ∧
      u.token = { s.token with rereadAt := s.now } ∧ ∀ g ∈ s.cutGroups, ∀ w ∈ s.witnesses, Output.tokenRead w.2 g ∈ u.out := by
  obtain ⟨v, hv⟩ : ∃ v, v = s.onToken fun t => { t with rereadAt := s.now } := ⟨_, rfl⟩
  have hexec : exec .cutInReread s = .next (v.each s.cutGroups fun g s => s.readToken g) := by
    rw [exec_cutInReread, execCutInReread, onSoc_of_running hrun, if_neg (Nat.not_lt.mpr hdue), if_neg (by rw [hstate]; decide),
      if_pos (by simp [hstate, cutWaiting]), hv]
    dsimp only
    rw [show (s.rd LTK_CSTAT.STATE == cutSuspect) = false by rw [hstate]; rfl]
    rfl
  obtain ⟨⟨o, ho⟩, hread⟩ := State.each_reaches (s := v) (f := fun g s => s.readToken g) (I := fun t => ∃ o, t = { v with out := o })
    (P := fun g t => ∀ w ∈ s.witnesses, Output.tokenRead w.2 g ∈ t.out) (Q := fun _ _ => True) (nodup_cutGroups s)
    (by rintro a - _ ⟨o, rfl⟩; exact ⟨_, rfl⟩)
    (by
      rintro a - _ ⟨o, rfl⟩ - w hw
      have hw' : w ∈ ({ v with out := o } : State).witnesses := by rw [hv]; exact hw
      exact List.mem_append_left _ (List.mem_reverse.mpr (List.mem_map.mpr ⟨w, hw', rfl⟩)))
    (by
      rintro a - b - - t -
      exact ⟨fun hp w hw => List.mem_append_right _ (hp w hw), fun _ => trivial⟩)
    ⟨v.out, rfl⟩ fun _ _ => trivial
  exact ⟨_, hexec, by rw [ho, hv]; rfl, by rw [ho, hv]; rfl, by rw [ho, hv]; rfl, hread⟩

end Sys2Proof.Machine
end

section
/-! Claims, the fence, and the commands of a lease and of a cut-in together. -/

set_option Elab.async false

namespace Sys2Proof.Machine

/-! This module's own key. -/

/-- A key is drawn once, into its register. -/
theorem State.ownKey_keeps {β : Type} {π : State → β} (hset : ∀ s v, π (State.setReg s LTK_KEY.addr v) = π s)
    (hdraw : ∀ s f, π (State.onDraws s f) = π s) (hemit : ∀ s o, π (State.emit s o) = π s) (s : State) : π s.ownKey.2 = π s := by
  rw [State.ownKey]
  split
  · rfl
  · dsimp only [State.random]
    split
    · rw [hemit, hset, hdraw]
    · rw [hset, hdraw]

theorem State.ownKey_reg {a : Nat} (h : a ≠ LTK_KEY.addr) (s : State) : s.ownKey.2.reg a = s.reg a :=
  State.ownKey_keeps (π := fun s => s.reg a) (fun _ v => State.reg_setReg_ne h v) (fun _ _ => rfl) (fun _ _ => rfl) s

theorem State.ownKey_rd {f : Fld} (h : f.addr ≠ LTK_KEY.addr) (s : State) : s.ownKey.2.rd f = s.rd f := by rw [State.rd, State.ownKey_reg h, State.rd]

theorem State.ownKey_frame (s : State) : After 0x10000000001 s s.ownKey.2 := State.ownKey_after s (.of_and_eq rfl) (.refl s)

theorem State.registerOn_reg {a : Nat} (h : a ≠ LTK_KEY.addr) (u : State) (k : Nat) : (u.registerOn k).reg a = u.reg a :=
  State.ownKey_reg h u

theorem State.registerOn_rd {f : Fld} (h : f.addr ≠ LTK_KEY.addr) (u : State) (k : Nat) : (u.registerOn k).rd f = u.rd f := by
  rw [State.rd, State.registerOn_reg h, State.rd]

/-- What a claim writes for one group. -/
def claimsOne (g : Nat) (s : State) : State :=
  if (s.token? g).role == .claimed then s else s.writeToken g (s.nextRecord g (newestToken (s.token? g).read))

theorem claimsOne_frame (g : Nat) (s : State) : After 0x100000208000 s (claimsOne g s) := by
  unfold claimsOne
  split
  · exact .refl s
  · exact s.writeToken_frame _ _

theorem claimsOne_any (g : Nat) (s : State) (k : Nat) : (claimsOne g s).token.groups.any (·.group == k) = s.token.groups.any (·.group == k) := by
  unfold claimsOne
  split
  · rfl
  · exact s.any_writeToken _ k _

theorem claimsOne_ne {g k : Nat} (h : k ≠ g) (s : State) : (claimsOne g s).token? k = s.token? k := by
  unfold claimsOne
  split
  · rfl
  · exact State.token?_writeToken_ne h _

/-- R334: at the end of the wait, each group not claimed yet has a claim of this module written. -/
theorem cutInWaitEnd_claims {s : State} (hrun : s.running = true) (hstate : s.rd LTK_CSTAT.STATE = cutWaiting)
    (hdue : ∀ g ∈ s.cutGroups, s.claimAt g ≤ s.now) : ∃ u, exec .cutInWaitEnd s = .next u ∧ u.rd LTK_CSTAT.STATE = cutClaiming ∧
      u.token.rereadAt = s.now ∧ ∀ g ∈ s.cutGroups, s.token.groups.any (·.group == g) = true → (s.token? g).role ≠ .claimed →
        ∃ r, (u.token? g).writing = some r ∧ r.holder = s.cfg.position ∧ r.issued = s.now ∧ r.expires = s.now + 1000 * s.leaseUs := by
  have hready : (s.rd LTK_CSTAT.STATE = cutWaiting && s.cutGroups.all (fun g => decide (s.claimAt g ≤ s.now))) = true := by
    rw [decide_eq_true hstate, Bool.true_and]
    exact List.all_eq_true.mpr fun g hg => decide_eq_true (hdue g hg)
  obtain ⟨k, hk⟩ : ∃ k, k = s.ownKey.2 := ⟨_, rfl⟩
  have hkgroups : k.cutGroups = s.cutGroups := State.cutGroups_of_rd (hk ▸ State.ownKey_rd (by decide) s)
  obtain ⟨v, hv⟩ : ∃ v, v = (k.noteOldKeys.wr LTK_CSTAT.STATE cutClaiming).each k.cutGroups fun g s => s.setBit LTK_STAT.NOLEAD g true := ⟨_, rfl⟩
  have hbits {β : Type} {π : State → β} (hπ : ∀ t x, π (t.wr LTK_STAT.NOLEAD x) = π t) : π v = π (k.noteOldKeys.wr LTK_CSTAT.STATE cutClaiming) := by
    rw [hv]
    exact State.each_keeps π (fun g t => hπ t _) _ _
  have hvrd {f : Fld} (hne : f.Apart LTK_STAT.NOLEAD) (hstat : f.Apart LTK_CSTAT.STATE) (hkey : f.addr ≠ LTK_KEY.addr) : v.rd f = s.rd f := by
    rw [hbits (π := fun t => t.rd f) fun t x => State.rd_wr_ne hne, State.rd_wr_ne hstat, State.noteOldKeys, State.rd_onToken, hk, State.ownKey_rd hkey]
  have hframe : After 0x10000200001 s v := by
    rw [hv]
    refine State.each_after _ _ _ _ ?_ fun g t ht => State.setBit_after t _ g true (.block (m := 0x10000200001) (.of_and_eq rfl) (by decide) rfl) ht
    refine State.wr_after _ _ _ (.block (m := 0x10000200001) (.of_and_eq rfl) (by decide) rfl) (State.noteOldKeys_after _ (.of_and_eq rfl) ?_)
    rw [hk]
    exact State.ownKey_after s (.of_and_eq rfl) (.refl s)
  have hgroups : v.cutGroups = s.cutGroups := State.cutGroups_of_rd (hvrd (by decide) (by decide) (by decide))
  have htokens : v.token.groups = s.token.groups := by
    rw [hbits (π := fun t => t.token.groups) fun t x => congrArg Token.groups (t.wr_token _ x), State.wr_token, State.noteOldKeys,
      State.onToken_token, hk, State.ownKey_keeps (π := fun t => t.token) (fun _ _ => State.setReg_token _ _ _) (fun _ _ => rfl) (fun _ _ => rfl)]
  have hlease : v.leaseUs = s.leaseUs := by rw [State.leaseUs, hvrd (by decide) (by decide) (by decide), State.leaseUs]
  have hnow : v.now = s.now := by rw [State.now, hframe.part .clock rfl, State.now]
  obtain ⟨w, hw⟩ : ∃ w, w = v.each v.cutGroups claimsOne := ⟨_, rfl⟩
  have hclaims : v.writeClaims = w.onToken fun t => { t with rereadAt := v.now } := by rw [hw]; rfl
  have hwframe : After 0x100000208000 v w := hw ▸ State.each_after _ v _ _ (.refl v) fun g t ht => ht.trans (claimsOne_frame g t)
  refine ⟨w.onToken fun t => { t with rereadAt := v.now }, ?_, ?_, ?_, fun g hg => ?_⟩
  · rw [exec_cutInWaitEnd, execCutInWaitEnd, onSoc_of_running hrun, if_pos hready]
    dsimp only
    rw [← hk, ← hv, hclaims]
  · rw [State.rd_onToken, hwframe.rd .ltk (by decide) rfl, hbits (π := fun t => t.rd LTK_CSTAT.STATE) fun t x => State.rd_wr_ne (by decide),
      State.rd_wr_fits (by decide) (by decide)]
  · rw [State.onToken_token, hnow]
  · show s.token.groups.any (·.group == g) = true → (s.token? g).role ≠ .claimed →
      ∃ r, (w.token? g).writing = some r ∧ r.holder = s.cfg.position ∧ r.issued = s.now ∧ r.expires = s.now + 1000 * s.leaseUs
    rw [hw, hgroups]
    refine (State.each_reaches (I := fun t => After 0x100000208000 v t ∧ ∀ k, t.token.groups.any (·.group == k) = s.token.groups.any (·.group == k))
      (P := fun g t => s.token.groups.any (·.group == g) = true → (s.token? g).role ≠ .claimed → ∃ r, (t.token? g).writing = some r ∧
        r.holder = s.cfg.position ∧ r.issued = s.now ∧ r.expires = s.now + 1000 * s.leaseUs)
      (Q := fun g t => t.token? g = s.token? g) (nodup_cutGroups s) ?_ ?_ ?_ ⟨.refl v, fun k => by rw [htokens]⟩
      fun g _ => State.token?_of_groups htokens g).2 g hg
    · exact fun a _ t ⟨ht, hany⟩ => ⟨ht.trans (claimsOne_frame a t), fun k => (claimsOne_any a t k).trans (hany k)⟩
    · intro a ha t ⟨ht, hany⟩ hq hmem hrole
      refine ⟨t.nextRecord a (newestToken (t.token? a).read), ?_, ?_, ?_, ?_⟩
      · rw [claimsOne, if_neg (by rw [hq]; simpa using hrole), State.token?_writeToken ((hany a).trans hmem)]
      · exact congrArg (fun c => c.position) ((ht.part .cfg rfl).trans (hframe.part .cfg rfl))
      · exact (congrArg (fun c : Clock => c.timeNs.toNat) (ht.part .clock rfl)).trans hnow
      · rw [State.nextRecord, State.now, ht.part .clock rfl, ← State.now, hnow, State.leaseUs, ht.rd .ltk (by decide) rfl, ← State.leaseUs, hlease]
    · intro a ha b hb hab t _
      have hkept := claimsOne_ne hab t
      exact ⟨fun hp hmem hrole => by rw [hkept]; exact hp hmem hrole, fun hq => hkept.trans hq⟩

theorem State.grants_none (s : State) (g : Nat) : s.grants g [] = 0 := by simp [State.grants]

/-- A group claimed: its record is the claim's. -/
def claimed (t : GroupToken) : GroupToken :=
  match t.writing with
  | some r => { t with role := .claimed, record := r, writing := none }
  | none => t

theorem claimed_group (t : GroupToken) : (claimed t).group = t.group := by
  unfold claimed
  split <;> rfl

theorem State.gainGroup_frame (s : State) (g : Nat) : After 0x40350011200080 s (s.gainGroup g) :=
  State.gainGroup_after s g (.of_and_eq rfl) (.refl s)

theorem State.gainGroup_groupsBy (s : State) (g : Nat) : s.groupsBy (s.gainGroup g) (atGroup g claimed) := by
  obtain ⟨h, hgroup⟩ := s.onGroup_groupsBy g claimed_group
  refine ⟨Eq.trans ?_ h, hgroup⟩
  have htell := (State.tellLeads_after (T := 0x40340011000080) (((s.onGroup g claimed).setBit LTK_STAT.LEAD g true).setBit LTK_STAT.NOLEAD g false)
    (s.rd LTK_STAT.LEAD) (.of_and_eq rfl) (.refl _)).part .token rfl
  exact (congrArg Token.groups htell).trans (by rw [State.setBit, State.wr_token, State.setBit, State.wr_token])

theorem State.gainGroup_rd {s : State} {f : Fld} (hin : inBlock .ltk f.addr = true) (hnolead : f.Apart LTK_STAT.NOLEAD) (g : Nat) :
    (s.gainGroup g).rd f = ((s.onGroup g claimed).setBit LTK_STAT.LEAD g true).rd f := by
  have htell := (State.tellLeads_after (T := 0x40340011000080) (((s.onGroup g claimed).setBit LTK_STAT.LEAD g true).setBit LTK_STAT.NOLEAD g false)
    (s.rd LTK_STAT.LEAD) (.of_and_eq rfl) (.refl _)).rd (f := f) .ltk hin rfl
  exact htell.trans (State.rd_setBit hnolead g false)

theorem State.gainGroup_bit {s : State} {g : Nat} (hlt : g < 8) (k : Nat) :
    bitOf ((s.gainGroup g).rd LTK_STAT.LEAD) k = if g = k then true else bitOf (s.rd LTK_STAT.LEAD) k := by
  rw [State.gainGroup_rd (by decide) (by decide), State.bitOf_setBit (by decide) rfl hlt]
  rfl

/-- A group that this module has claimed. -/
def State.hasClaimed (s : State) (g : Nat) : Prop := (s.token? g).role = .claimed ∧ bitOf (s.rd LTK_STAT.LEAD) g = true

/-- The same groups have entries. -/
def State.sameGroups (s t : State) : Prop := ∀ k, t.token.groups.any (·.group == k) = s.token.groups.any (·.group == k)

theorem State.sameGroups.trans {s t u : State} (h : s.sameGroups t) (h' : t.sameGroups u) : s.sameGroups u := fun k => (h' k).trans (h k)

theorem State.gainGroup_sameGroups (s : State) (g : Nat) : s.sameGroups (s.gainGroup g) := fun k => (s.gainGroup_groupsBy g).any k

/-- A record of the group is being written. -/
def State.isWriting (s : State) (g : Nat) : Prop := (s.token? g).writing ≠ none

theorem State.gainGroups_claim {s : State} {l : List Nat} (hnodup : l.Nodup)
    (hready : ∀ g ∈ l, g < 8 ∧ s.token.groups.any (·.group == g) = true ∧ (s.token? g).writing ≠ none) :
    ∀ g ∈ l, (s.each l fun g s => s.gainGroup g).hasClaimed g := by
  refine (State.each_reaches (I := fun t => s.sameGroups t) (P := fun g t => t.hasClaimed g) (Q := fun g t => t.isWriting g) hnodup ?_ ?_ ?_ (fun _ => rfl) fun g hg => (hready g hg).2.2).2
  · exact fun a _ t hany => hany.trans (t.gainGroup_sameGroups a)
  · intro a ha t hany hq
    obtain ⟨hlt, hmem, -⟩ := hready a ha
    refine ⟨?_, by rw [State.gainGroup_bit hlt, if_pos rfl]⟩
    rw [(t.gainGroup_groupsBy a).token? ((hany a).trans hmem), atGroup_self (t.token?_group a)]
    obtain ⟨r, hr⟩ := Option.ne_none_iff_exists'.mp hq
    rw [claimed, hr]
  · intro a _ b hb hab t _
    have hkept := (t.gainGroup_groupsBy b).ne (g := a) fun x hx => atGroup_ne (hx ▸ hab)
    rw [State.hasClaimed, State.hasClaimed, State.isWriting, State.isWriting, hkept, State.gainGroup_bit (hready b hb).1, if_neg hab.symm]
    exact ⟨id, id⟩

/-- R335: claims granted on a majority of the witnesses for every group start the fence. -/
theorem claimComplete_fences {s : State} {granted : List (Nat × Nat)} (hrun : s.running = true) (hstate : s.rd LTK_CSTAT.STATE = cutClaiming)
    (hpos : 0 < s.majority) (hclaims : ∀ g ∈ s.cutGroups, (s.token? g).writing ≠ none ∧ s.token.groups.any (·.group == g) = true ∧
      s.majority ≤ s.grants g ((granted.filter (·.1 == g)).map (·.2))) :
    ∃ u, exec (.claimComplete granted []) s = .next u ∧ u.rd LTK_CSTAT.STATE = cutFencing ∧
      (∀ g ∈ s.cutGroups, (u.token? g).role = .claimed ∧ bitOf (u.rd LTK_STAT.LEAD) g = true) := by
  have hwon : (s.cutGroups.filter fun g => (s.token? g).writing.isSome &&
      decide (s.majority ≤ s.grants g ((granted.filter (·.1 == g)).map (·.2)))) = s.cutGroups :=
    List.filter_eq_self.mpr fun g hg => by
      obtain ⟨hwriting, -, hmajority⟩ := hclaims g hg
      rw [decide_eq_true hmajority, Bool.and_true]
      exact Option.isSome_iff_ne_none.mpr hwriting
  have hlost : (s.cutGroups.any fun g => decide (s.majority ≤ s.grants g ((([] : List (Nat × Nat)).filter (·.1 == g)).map (·.2)))) = false :=
    List.any_eq_false.mpr fun g _ => by simp [State.grants_none]; omega
  obtain ⟨v, hv⟩ : ∃ v, v = s.each s.cutGroups fun g s => s.passGranted g ((granted.filter (·.1 == g)).map (·.2)) := ⟨_, rfl⟩
  have hvrd (f : Fld) : v.rd f = s.rd f := by
    rw [hv]
    refine State.each_keeps (fun t => t.rd f) (fun g t => ?_) s _
    rw [State.passGranted, State.onGroup, State.rd_onToken]
  have hvany (k : Nat) : v.token.groups.any (·.group == k) = s.token.groups.any (·.group == k) := by
    rw [hv]
    refine State.each_keeps (fun t => t.token.groups.any (·.group == k)) (fun g t => ?_) s _
    exact State.any_onGroup t g (by exact fun _ => rfl) k
  have hvwriting (k : Nat) : (v.token? k).writing = (s.token? k).writing := by
    rw [hv]
    refine State.each_keeps (fun t => (t.token? k).writing) (fun g t => ?_) s _
    exact State.token?_onGroup_keeps (π := GroupToken.writing) (by exact fun _ => rfl) (by exact fun _ => rfl) t g k
  have hvgroups : v.cutGroups = s.cutGroups := State.cutGroups_of_rd (hvrd _)
  obtain ⟨w, hw⟩ : ∃ w, w = v.each s.cutGroups fun g s => s.gainGroup g := ⟨_, rfl⟩
  have hwrd {f : Fld} (hin : inBlock .ltk f.addr = true) (hnolead : f.Apart LTK_STAT.NOLEAD) (hlead : f.Apart LTK_STAT.LEAD) : w.rd f = s.rd f := by
    rw [hw, ← hvrd]
    exact State.each_keeps (fun t => t.rd f) (fun g t => by
      rw [State.gainGroup_rd hin hnolead, State.rd_setBit hlead, State.onGroup, State.rd_onToken]) v _
  have hgained : ∀ g ∈ s.cutGroups, (w.token? g).role = .claimed ∧ bitOf (w.rd LTK_STAT.LEAD) g = true := by
    intro g hg
    rw [hw]
    exact State.gainGroups_claim (nodup_cutGroups s) (fun a ha => ⟨State.lt_of_cutGroups ha, (hvany a).trans (hclaims a ha).2.1,
      hvwriting a ▸ (hclaims a ha).1⟩) g hg
  have hwgroups : w.cutGroups = s.cutGroups := State.cutGroups_of_rd (hwrd (by decide) (by decide) (by decide))
  have hall : (w.cutGroups.all fun g => (w.token? g).role == .claimed) = true := by
    rw [hwgroups]
    exact List.all_eq_true.mpr fun g hg => beq_iff_eq.mpr (hgained g hg).1
  refine ⟨w.wr LTK_CSTAT.STATE cutFencing, ?_, ?_, fun g hg => ?_⟩
  · rw [exec_claimComplete, execClaimComplete, onSoc_of_running hrun, if_neg (not_not_intro hstate)]
    dsimp only
    rw [hwon, hlost, if_neg Bool.false_ne_true, ← hv, ← hw, if_pos hall]
  · rw [State.rd_wr_fits (by decide) (by decide)]
  · rw [State.rd_wr_ne (by decide)]
    exact hgained g hg

/-- R336: the fence waits for every present member of the groups. -/
theorem fence_waits {s : State} (hrun : s.running = true) (hstate : s.rd LTK_CSTAT.STATE = cutFencing) :
    ∃ u, exec .fence s = .next u ∧ u.token.fenceLeft = s.fenceSlots ∧ u.rd LTK_CSTAT.STATE = cutFencing := by
  obtain ⟨k, hk⟩ : ∃ k, k = s.ownKey.2 := ⟨_, rfl⟩
  have hframe : After 0x10000000001 s k := hk ▸ s.ownKey_frame
  have hslots : k.fenceSlots = s.fenceSlots := by
    have hmem (set u : Nat) : k.reg (QDL_MEM.addr set u) = s.reg (QDL_MEM.addr set u) := hframe.reg .qdl (inBlock_blockAddr (by decide) (by decide)) rfl
    have hsets : k.setsOf = s.setsOf := funext fun g => by rw [State.setsOf, hframe.part .host rfl, State.setsOf]
    have hmembers : k.memberSlots = s.memberSlots := funext fun set => by
      simp only [State.memberSlots, State.flag, State.slotOf, State.rd, QDL_MEM.VALID, QDL_MEM.FAILED, QDL_MEM.SLOT, hmem]
    rw [State.fenceSlots, hsets, hmembers, State.cutGroups_of_rd (hk ▸ State.ownKey_rd (by decide) s), State.fenceSlots]
  obtain ⟨v, hv⟩ : ∃ v, v = k.each (k.fenceSlots.filter fun d => !k.token.registered.contains d) fun d s => s.registerOn d := ⟨_, rfl⟩
  have hvstate : v.rd LTK_CSTAT.STATE = cutFencing := by
    rw [hv, State.each_keeps (fun t => t.rd LTK_CSTAT.STATE) (fun d t => State.registerOn_rd (f := LTK_CSTAT.STATE) (by decide) t d), hk,
      State.ownKey_rd (by decide), hstate]
  refine ⟨(v.emits (k.fenceSlots.flatMap fun d => v.token.oldKeys.map fun old => .memberResv d (.preempt s.ownKey.1 old))).onToken
    fun t => { t with fenceLeft := k.fenceSlots }, ?_, ?_, ?_⟩
  · rw [exec_fence, execFence, onSoc_of_running hrun, if_neg (not_not_intro hstate)]
    dsimp only
    rw [← hk, ← hv]
  · rw [State.onToken_token, hslots]
  · rw [State.rd_onToken, State.emits, State.rd_onOut, hvstate]

/-- Settles O25: each command by the state its rule answers. -/
theorem leaseAndCutInCommandsComplete : Obligations.LeaseAndCutInCommandsComplete := by
  refine ⟨fun s hrun hnodup hdue => leaseRenewal_writes hrun hnodup hdue,
    fun s g r granted reads hrun hwriting hg hlt hrole hphase hpeer hmajority => renewalComplete_grants hrun hwriting hg hlt hrole hphase hpeer hmajority,
    fun s g hrun hrole hexpired => ?_, fun s hrun hlost => moduleFenced_records hrun hlost,
    fun s g reads absent bad hrun hg hdue hmajority hdrives hlink => standbySelfTest_passes hrun hg hdue hmajority hdrives hlink,
    fun s hrun hstate hfollow hsilent => peerSuspect_shows hrun hstate hfollow hsilent,
    fun s reads hrun hstate hsome hreads => tokenRecordReadComplete_waits hrun hstate hsome hreads,
    fun s hrun hdue => ⟨fun hstate => cutInReread_reads hrun hdue hstate, fun hstate => ?_⟩,
    fun s hrun hstate hdue => cutInWaitEnd_claims hrun hstate hdue,
    fun s granted hrun hstate hpos hclaims => claimComplete_fences hrun hstate hpos hclaims,
    fun s hrun hstate => ⟨fence_waits hrun hstate, fun blocks => ?_⟩, fun s hrun hstate hdone => ?_, fun s at_ hrun htaken hperiod hsilent hdue => ?_⟩
  · rw [exec_leaseExpiry, execLeaseExpiry, onData_of_running hrun]
    dsimp only
    rw [if_pos (by simp [hrole, hexpired])]
  · rw [exec_cutInReread, execCutInReread, onSoc_of_running hrun, if_neg (Nat.not_lt.mpr hdue), if_pos hstate]
  · rw [exec_fenceComplete, execFenceComplete, onData_of_running hrun, if_neg (not_not_intro hstate)]
    rfl
  · rw [exec_takeComplete, execTakeComplete, onSoc_of_running hrun, if_pos (by simp [hstate, hdone])]
    exact ⟨_, rfl, by rw [State.onToken_token], State.onToken_regs _ _, State.onToken_out _ _⟩
  · rw [exec_peerCycle, execPeerCycle, onSoc_of_running hrun, htaken]
    dsimp only
    rw [if_pos (by simp [hperiod, hsilent, hdue])]
    refine ⟨_, rfl, ?_, ?_⟩
    · rw [State.rd_onToken, State.rd_emit, State.rd_wr_fits (by decide) (by decide)]
    · rw [State.onToken_out, State.emit_out, State.wr_out]

end Sys2Proof.Machine
end

section
/-! Lead tokens: hand-over, hand-back and the LTK_CMD operations. -/

set_option Elab.async false

namespace Sys2Proof.Machine

/-- A plain write of LTK_CMD stores GROUP. -/
theorem State.written_LTK_CMD (s : State) (v : Word) : s.written LTK_CMD.addr v = s.wr LTK_CMD.GROUP (extractBits v.toNat 2 0) := by
  rfl

theorem State.written_LTK_CMD_flag_BUSY (s : State) (v : Word) : (s.written LTK_CMD.addr v).flag LTK_CMD.BUSY = s.flag LTK_CMD.BUSY := by
  rw [State.written_LTK_CMD]
  exact State.flag_eq_of_rd (State.rd_wr_ne (by decide))

theorem State.wrs_token (s : State) (l : List (Fld × Nat)) : (s.wrs l).token = s.token := by
  induction l generalizing s with
  | nil => rfl
  | cons p l ih => rw [State.wrs_cons, ih, State.wr_token]

theorem State.wrs_onToken (f : Token → Token) (l : List (Fld × Nat)) (s : State) : (s.onToken f).wrs l = (s.wrs l).onToken f := by
  induction l generalizing s with
  | nil => rfl
  | cons p l ih =>
    rw [State.wrs_cons, State.wrs_cons, ← ih]
    rfl

/-- An LTK_CMD operation that is started on some groups is under way, its STATUS 0 until it ends. -/
theorem State.tokenCommand_starts {s t : State} {who : Requester} {op g : Nat} {gs : List Nat} {act : State → Except Nat (List Nat × State)}
    (hopens : s.Opens who LTK_CMD.addr) (hidle : s.flag LTK_CMD.BUSY = false) (hact : act (s.written LTK_CMD.addr (ltkWord op g)) = .ok (gs, t))
    (hsome : gs ≠ []) : s.tokenCommand who op g act =
      ((t.wrs [(LTK_CMD.BUSY, 1), (LTK_CMD.STATUS, 0)]).onToken fun x => { x with command := some (op, gs) }).answered who LTK_CMD.addr (ltkWord op g) := by
  rw [State.tokenCommand, State.commandWrite_opens hopens]
  rw [State.written_LTK_CMD_flag_BUSY, hidle, if_neg Bool.false_ne_true, hact]
  dsimp only
  rw [if_neg (by simpa using hsome)]

theorem State.onToken_command_of_wrs (t : State) (l : List (Fld × Nat)) (c : Option (Nat × List Nat)) :
    (t.wrs l).onToken (fun x => { x with command := c }) = { t.wrs l with token := { t.token with command := c } } := by
  rw [State.onToken, State.wrs_token]

theorem State.token?_setBit (s : State) (f : Fld) (g : Nat) (v : Bool) (k : Nat) : (s.setBit f g v).token? k = s.token? k := by
  rw [State.setBit]
  exact State.token?_of_groups (by rw [State.wr_token]) k

/-- R339: a hand-over begins with the closing of what is open. -/
theorem State.startHandOver_closes {s : State} {g : Nat} (hleads : s.leads g = true) (hrole : (s.token? g).role = .leading)
    (hg : s.token.groups.any (·.group == g) = true) :
    ((s.startHandOver g false).token? g).role = .handing ∧ ((s.startHandOver g false).token? g).phase = .closing := by
  obtain ⟨v, hv⟩ : ∃ v, v = (s.setBit LTK_STAT.CHANGE g true).onGroup g fun t => { t with role := .handing, phase := .closing, release := false } := ⟨_, rfl⟩
  have hframe : After 0x403649111026a1 v (s.startHandOver g false) := by
    rw [State.startHandOver, if_neg (by simp [hleads, hrole]), ← hv]
    exact State.each_after _ _ _ _ (State.cutCommands_after _ _ _ _ (.of_and_eq rfl) (State.reportAna_after _ (.of_and_eq rfl) (.refl v)))
      fun o t ht => State.closeStripe_after t _ _ (.of_and_eq rfl) ht
  have htok : (s.startHandOver g false).token? g = v.token? g := State.token?_of_groups (congrArg Token.groups (hframe.part .token rfl)) g
  have hvtok : v.token? g = { s.token? g with role := .handing, phase := .closing, release := false } := by
    rw [hv, State.token?_onGroup ?_ ?_, State.token?_setBit]
    · exact fun _ => rfl
    · rw [State.setBit, State.wr_token]
      exact hg
  rw [htok, hvtok]
  exact ⟨rfl, rfl⟩

/-- A group that a module tries for: its role and the record it found stay while it writes its own. -/
theorem State.tries {s : State} {g : Nat} (hg : s.token.groups.any (·.group == g) = true) (r w : TokenRecord) :
    let u := (s.onGroup g fun t => { t with role := .trying, record := r }).writeToken g w
    (u.token? g).role = .trying ∧ (u.token? g).record = r ∧ (u.token? g).writing = some w := by
  obtain ⟨v, hv⟩ : ∃ v, v = s.onGroup g fun t => { t with role := .trying, record := r } := ⟨_, rfl⟩
  have hany : v.token.groups.any (·.group == g) = true := by
    rw [hv, State.any_onGroup _ _ ?_]
    · exact hg
    · exact fun _ => rfl
  have hvtok : v.token? g = { s.token? g with role := .trying, record := r } := by
    rw [hv, State.token?_onGroup ?_ hg]
    exact fun _ => rfl
  obtain ⟨f, hf, hwrite⟩ := v.writeToken_tokensBy g w
  have htok := hwrite.groupsBy.token? hany
  rw [atGroup_self (v.token?_group g)] at htok
  obtain ⟨sent, n, e⟩ := hf (v.token? g)
  dsimp only
  rw [← hv, htok, e, hvtok]
  exact ⟨rfl, rfl, rfl⟩

theorem State.token_ownKey (s : State) : s.ownKey.2.token = s.token :=
  State.ownKey_keeps (π := fun t => t.token) (fun _ _ => State.setReg_token _ _ _) (fun _ _ => rfl) (fun _ _ => rfl) s

/-- A module that tries for a group writes its next record over the one it found. -/
theorem State.tryFree_tries {s : State} {g : Nat} (hg : s.token.groups.any (·.group == g) = true) (r : TokenRecord) :
    ((s.tryFree g r).token? g).role = .trying ∧ ((s.tryFree g r).token? g).record = r ∧
      ((s.tryFree g r).token? g).writing = some (s.ownKey.2.nextRecord g r) :=
  State.tries (s := s.ownKey.2) (by rw [State.token_ownKey]; exact hg) r (s.ownKey.2.nextRecord g r)

/-- R339: a record that hands a group to this module, read from a majority, is tried for. -/
theorem handOverGranted_tries {s : State} {g : Nat} {reads l : List TokenRead} (hrun : s.running = true) (hleads : s.leads g = false)
    (hparked : s.flag FLT_STAT.PARKED = false)
    (hl : l = (s.answeredReads g reads).filter (fun r => (recordIn r).holder == s.cfg.position && (recordIn r).handover))
    (hmajority : s.majority ≤ l.length) (hg : s.token.groups.any (·.group == g) = true) :
    ∃ u v, exec (.handOverGranted g reads) s = .next u ∧ (u.token? g).role = .trying ∧ (u.token? g).record = newestToken l ∧
      (u.token? g).writing = some v ∧ v.holder = s.cfg.position ∧ v.issued = s.now ∧ v.expires = s.now + 1000 * s.leaseUs := by
  obtain ⟨v, hv⟩ : ∃ v, v = (s.noteTokens reads).keepReads g (s.answeredReads g reads) := ⟨_, rfl⟩
  obtain ⟨f, -, hnote⟩ := s.noteTokens_tokensBy reads
  have hany : v.token.groups.any (·.group == g) = true := by
    rw [hv, State.keepReads, State.any_onGroup _ _ ?_]
    · exact (hnote.groupsBy.any g).trans hg
    · exact fun _ => rfl
  have hframe : After 0x603400112080c0 s v := hv ▸ State.keepReads_after _ _ _ (.of_and_eq rfl) (s.noteTokens_frame reads)
  have hkey : After 0x603500112080c1 s v.ownKey.2 := State.ownKey_after v (.of_and_eq rfl) (State.keepReads_after _ _ _ (.of_and_eq rfl)
    (State.noteTokens_after s reads (.of_and_eq rfl) (.refl s)) |> fun h => hv ▸ h)
  have hlease : v.ownKey.2.leaseUs = s.leaseUs := by
    rw [State.leaseUs, State.ownKey_rd (by decide), hframe.rd .ltk (by decide) rfl, State.leaseUs]
  have hnow : v.ownKey.2.now = s.now := by rw [State.now, hkey.part .clock rfl, State.now]
  have hexec : exec (.handOverGranted g reads) s = .next (v.tryFree g (newestToken l)) := by
    rw [exec_handOverGranted, execHandOverGranted, onSoc_of_running hrun]
    dsimp only
    rw [← hl, if_neg (by simp [hleads, hparked, hmajority]), ← hv]
    rfl
  obtain ⟨hrole, hrecord, hwriting⟩ := State.tryFree_tries hany (newestToken l)
  refine ⟨v.tryFree g (newestToken l), _, hexec, hrole, hrecord, hwriting, ?_, ?_, ?_⟩
  · exact congrArg (fun c => c.position) (hkey.part .cfg rfl)
  · exact hnow
  · rw [State.nextRecord, hnow, hlease]

/-- R339: a hand-over whose write is not granted within RENEW leads again. -/
theorem handOverTimeout_leads {s : State} {g : Nat} {r : TokenRecord} (hrun : s.running = true) (hrole : (s.token? g).role = .handing)
    (hphase : (s.token? g).phase = .writing) (hwriting : (s.token? g).writing = some r) (hlate : r.issued + 1000 * s.rd LTK_CFG.RENEW ≤ s.now)
    (hg : s.token.groups.any (·.group == g) = true) :
    ∃ u, exec (.handOverTimeout g) s = .next u ∧ (u.token? g).role = .leading ∧ (u.token? g).writing = none := by
  obtain ⟨v, hv⟩ : ∃ v, v = s.onGroup g fun t => { t with role := .leading, phase := .idle, release := false, writing := none } := ⟨_, rfl⟩
  have hvtok : v.token? g = { s.token? g with role := .leading, phase := .idle, release := false, writing := none } := by
    rw [hv, State.token?_onGroup ?_ hg]
    exact fun _ => rfl
  have hframe : After 0x40340111002281 (v.setBit LTK_STAT.CHANGE g false) (v.setBit LTK_STAT.CHANGE g false).reportAna :=
    State.reportAna_after _ (.of_and_eq rfl) (.refl _)
  have htok : (v.setBit LTK_STAT.CHANGE g false).reportAna.token? g = v.token? g :=
    State.token?_of_groups (congrArg Token.groups ((hframe.part .token rfl).trans (v.wr_token _ _))) g
  refine ⟨(v.setBit LTK_STAT.CHANGE g false).reportAna.commandGroup g 2, ?_, ?_⟩
  · rw [exec_handOverTimeout, execHandOverTimeout, onSoc_of_running hrun]
    dsimp only
    rw [if_pos (by simp [hrole, hphase, hwriting, hlate]), hv]
  · rw [State.commandGroup_token?, htok, hvtok]
    exact ⟨rfl, rfl⟩

/-- R338: a module that reads its own record from a majority tries for the group. -/
theorem leadTokenTry_tries {s : State} {g : Nat} {reads : List TokenRead} {r : TokenRecord} (hrun : s.running = true) (hleads : s.leads g = false)
    (hparked : s.flag FLT_STAT.PARKED = false) (hrole : (s.token? g).role = .none) (hdue : s.tryDue g = true)
    (hg : s.token.groups.any (·.group == g) = true) (hmajority : s.majority ≤ (s.answeredReads g reads).length)
    (hr : r = newestToken (s.answeredReads g reads)) (hmine : r.holder = s.cfg.position) :
    ∃ u, exec (.leadTokenTry g reads) s = .next u ∧ (u.token? g).role = .trying ∧ (u.token? g).record = r := by
  obtain ⟨n, hn⟩ : ∃ n, n = ((s.noteTokens reads).keepReads g (s.answeredReads g reads)).onGroup g fun t => { t with triedAt := some s.now } := ⟨_, rfl⟩
  have hframe : After 0x603400112080c0 s n := by
    rw [hn]
    exact State.onGroup_after _ _ _ (.of_and_eq rfl) (State.keepReads_after _ _ _ (.of_and_eq rfl) (s.noteTokens_frame reads))
  have hnmajority : n.majority = s.majority := by rw [State.majority, hframe.rd .ltk (by decide) rfl, State.majority]
  obtain ⟨v, hv⟩ : ∃ v, v = n.showExpiry g (s.answeredReads g reads) := ⟨_, rfl⟩
  have hvtoken : v.token = n.token := by rw [hv, State.showExpiry_token]
  have hvcfg : v.cfg = s.cfg := by
    have hshow : After 0x10000000000 n v := hv ▸ State.showExpiry_after n g _ (.of_and_eq rfl) (.refl n)
    exact (hshow.part .cfg rfl).trans (hframe.part .cfg rfl)
  have hany : v.token.groups.any (·.group == g) = true := by
    obtain ⟨f, -, hnote⟩ := s.noteTokens_tokensBy reads
    rw [hvtoken, hn, State.any_onGroup _ _ ?_, State.keepReads, State.any_onGroup _ _ ?_]
    · exact (hnote.groupsBy.any g).trans hg
    · exact fun _ => rfl
    · exact fun _ => rfl
  have hmine' : r.holder = v.cfg.position := by rw [hvcfg, hmine]
  obtain ⟨htrying, hrecord, -⟩ := State.tryFree_tries hany r
  refine ⟨v.tryFree g r, ?_, htrying, hrecord⟩
  rw [exec_leadTokenTry, execLeadTokenTry, onSoc_of_running hrun, if_neg (by simp [hleads, hparked, hrole, hdue])]
  dsimp only
  rw [← hn, if_neg (by rw [hnmajority]; omega), ← hv, ← hr, if_pos (by simp [hmine']), if_pos (by simp [State.firstToTry, hmine'])]

end Sys2Proof.Machine
end

section
/-! Witness replacement, and the hand-over commands together. -/

set_option Elab.async false

namespace Sys2Proof.Machine

theorem State.memberSlots_of_after {T : Nat} {s t : State} (h : After T s t) (e : T.testBit (blockBit .qdl) = false) (set : Nat) :
    t.memberSlots set = s.memberSlots set := by
  have hmem (set u : Nat) : t.reg (QDL_MEM.addr set u) = s.reg (QDL_MEM.addr set u) := h.reg .qdl (inBlock_blockAddr (by decide) (by decide)) e
  simp only [State.memberSlots, State.flag, State.slotOf, State.rd, QDL_MEM.VALID, QDL_MEM.FAILED, QDL_MEM.SLOT, hmem]

theorem State.newWitness_of_after {T : Nat} {s t : State} (h : After T s t) (eq : T.testBit (blockBit .qdl) = false)
    (el : T.testBit (blockBit .ltk) = false) (es : T.testBit (blockBit .slt) = false) (ep : T.testBit (partBit .slots) = false) (w : Nat) :
    t.newWitness w = s.newWitness w := by
  have hslot (k : Nat) : t.reg (SLT_STAT.addr k) = s.reg (SLT_STAT.addr k) :=
    h.reg .slt (inBlock_blockAddr (by omega) (by simp only [Block.first]; omega)) es
  have hmay : t.mayWitness = s.mayWitness := funext fun k => by
    rw [State.mayWitness, State.slotState, State.rd, SLT_STAT.STATE, hslot, h.part .slots ep]
    rfl
  have hmembers : t.memberSlots = s.memberSlots := funext fun set => State.memberSlots_of_after h eq set
  rw [State.newWitness, State.witnesses_of_after h eq el, hmembers, hmay, State.newWitness]

theorem State.sendToken_seeding (s : State) (w : Nat × Nat) (g : Nat) (r : TokenRecord) (fused : Bool) :
    (s.sendToken w g r fused).token.seeding = s.token.seeding := by
  obtain ⟨f, -, h⟩ := s.sendToken_tokensBy w g r fused
  rw [h.1]

/-- R341: a witness that is being seeded is noted with the groups whose records were sent to it. -/
theorem State.startSeeding_seeds (s : State) (w k : Nat) (reads : List TokenRead) : ∃ l, (s.startSeeding w k reads).token.seeding = some ⟨w, k, l⟩ := by
  have hemit (t : State) (c : Bool) (o : Output) : (if c then t.emit o else t).token.seeding = t.token.seeding := by
    split
    · rw [State.emit_token]
    · rfl
  rw [State.startSeeding]
  dsimp only
  simp only [hemit, State.onToken_token, State.each_keeps (fun t => t.token.seeding) fun g t => State.sendToken_seeding t _ _ _ _]
  exact ⟨_, rfl⟩

/-- R341: a failed witness is replaced by the member chosen. -/
theorem witnessReplace_seeds {s : State} {w k : Nat} {reads : List TokenRead} (hrun : s.running = true) (hchooses : s.choosesWitness w = true)
    (hmajority : s.majority ≤ s.witnesses.length) (hnew : s.newWitness w = some k) : ∃ u l, exec (.witnessReplace w reads) s = .next u ∧
      u.token.seeding = some ⟨w, k, l⟩ ∧ u.rd LTK_WITC.V = s.rd LTK_WITC.V := by
  obtain ⟨n, hn⟩ : ∃ n, n = (s.noteTokens reads).each (List.range 8) fun g s => s.keepReads g (s.answeredReads g reads) := ⟨_, rfl⟩
  have hframe : After 0x603400112080c0 s n := by
    rw [hn]
    exact State.each_after _ _ _ _ (s.noteTokens_frame reads) fun g t ht => State.keepReads_after t _ _ (.of_and_eq rfl) ht
  have hnmajority : n.majority = s.majority := by rw [State.majority, hframe.rd .ltk (by decide) rfl, State.majority]
  have hwitnesses : n.witnesses = s.witnesses := State.witnesses_of_after hframe (by decide) (by decide)
  have hnnew : n.newWitness w = some k := (State.newWitness_of_after hframe (by decide) (by decide) (by decide) (by decide) w).trans hnew
  have hseed : After 0x40120010208400 n (n.startSeeding w k reads) := State.startSeeding_after n w k reads (.of_and_eq rfl) (.refl n)
  obtain ⟨l, hl⟩ := n.startSeeding_seeds w k reads
  refine ⟨n.startSeeding w k reads, l, ?_, hl, ?_⟩
  · rw [exec_witnessReplace, execWitnessReplace, onSoc_of_running hrun, if_neg (by rw [hchooses]; decide)]
    dsimp only
    rw [← hn, hnmajority, hwitnesses, if_neg (by simp; omega), hnnew]
  · rw [hseed.rd .ltk (by decide) rfl, hframe.rd .ltk (by decide) rfl]

theorem State.onToken_overwritten (s : State) (f : Token → Token) (x : Token) : { s.onToken f with token := x } = { s with token := x } := rfl

/-- Settles O26: each command by the state its rule answers. -/
theorem handOverCommandsComplete : Obligations.HandOverCommandsComplete := by
  refine ⟨fun s g hrun hready => ?_, fun s g hrun hen hhome hheld hready hstay hhealth => ?_, fun s g _ hleads hrole hg => State.startHandOver_closes hleads hrole hg,
    fun s g reads l hrun hleads hparked hl hmajority hg => handOverGranted_tries hrun hleads hparked hl hmajority hg,
    fun s g r hrun hrole hphase hwriting hlate hg => handOverTimeout_leads hrun hrole hphase hwriting hlate hg,
    fun s g reads r hrun hleads hparked hrole hdue hg hmajority hr hmine => leadTokenTry_tries hrun hleads hparked hrole hdue hg hmajority hr hmine,
    fun s w k reads hrun hchooses hmajority hnew => witnessReplace_seeds hrun hchooses hmajority hnew,
    fun s u who g hrun hopens hg hidle => ?_⟩
  · rw [exec_handOver, execHandOver, onData_of_running hrun, if_pos hready]
  · rw [exec_handBack, execHandBack, onData_of_running hrun]
    dsimp only
    rw [if_pos (by simp [hen, hhome, hheld, hready, hstay, hhealth])]
  have hmod : g % 8 = g := Nat.mod_eq_of_lt hg
  refine ⟨fun hu hleads hready => ?_, fun hu hleads => ?_, fun hu hled hready => ?_, fun hleads hpeer => ?_, ?_⟩
  · rw [exec_ltkHandOverGroup, execLtkHandOverGroup, onData_of_running hrun,
      State.tokenCommand_starts (gs := [g]) (t := u.startHandOver g false) hopens hidle (by
        dsimp only
        rw [← hu, hmod, hleads, hready, if_neg (by decide), if_neg (by decide)]) (List.cons_ne_nil _ _), State.onToken_command_of_wrs]
  · rw [exec_ltkReleaseGroup, execLtkReleaseGroup, onData_of_running hrun,
      State.tokenCommand_starts (gs := [g]) (t := u.startHandOver g true) hopens hidle (by
        dsimp only
        rw [← hu, hmod, hleads, if_neg (by decide)]) (List.cons_ne_nil _ _), State.onToken_command_of_wrs]
  · rw [exec_ltkHandOverAll, execLtkHandOverAll, onData_of_running hrun,
      State.tokenCommand_starts (gs := [g]) (t := (u.startHandOver g false).onToken fun t => { t with surrender := true }) hopens hidle (by
        dsimp only
        rw [← hu, hled, if_neg (by simp [hready]), State.each, List.foldl_cons, List.foldl_nil]
        rfl) (List.cons_ne_nil _ _), State.onToken_command_of_wrs, State.onToken_token, State.wrs_onToken, State.onToken_overwritten]
  · have hwritten := s.written_LTK_CMD (ltkWord 4 g)
    have hleads' : (s.written LTK_CMD.addr (ltkWord 4 g)).leads g = false := by rw [hwritten, State.leads, State.rd_wr_ne (by decide), ← State.leads, hleads]
    have hpeer' : (bitOf (s.written LTK_CMD.addr (ltkWord 4 g)).link.peerLeads g && !(s.written LTK_CMD.addr (ltkWord 4 g)).peerSilent) = false := by
      have hsilent : (s.written LTK_CMD.addr (ltkWord 4 g)).peerSilent = s.peerSilent := by
        rw [hwritten, State.peerSilent, State.rd_wr_ne (by decide), State.measure, State.wr_clock, State.wr_token]
        rfl
      rw [hsilent, hwritten, State.wr_link]
      rcases hpeer with h | h
      · rw [h, Bool.false_and]
      · rw [h, Bool.not_true, Bool.and_false]
    refine ⟨_, by rw [exec_ltkAcquireGroup, execLtkAcquireGroup, onSoc_of_running hrun,
      State.tokenCommand_starts (gs := [g]) (t := (s.written LTK_CMD.addr (ltkWord 4 g)).readToken g) hopens hidle (by
        dsimp only
        rw [hmod, hleads', hpeer', if_neg (by decide), if_neg (by decide)]) (List.cons_ne_nil _ _)], ?_, ?_⟩
    · rw [State.answered_rd, State.rd_onToken, State.wrs_cons, State.wrs_cons, State.wrs_nil, State.rd_wr_ne (by decide), State.rd_wr_fits (by decide) (by decide)]
    · rw [State.answered_token, State.onToken_token]
  · obtain ⟨v, hv⟩ : ∃ v, v = (s.written LTK_CMD.addr (ltkWord 5 0)).each s.link.following fun g s => s.onGroup g fun t => { t with testAsked := true } := ⟨_, rfl⟩
    have hlink : (s.written LTK_CMD.addr (ltkWord 5 0)).link = s.link := by rw [State.written_LTK_CMD, State.wr_link]
    by_cases hfollow : s.link.following = []
    · refine ⟨(v.wr LTK_CMD.STATUS 0).answered who LTK_CMD.addr (ltkWord 5 0), ?_, ?_, fun h => absurd hfollow h⟩
      · rw [exec_ltkRunSelfTest, execLtkRunSelfTest, onSoc_of_running hrun, State.tokenCommand, State.commandWrite_opens hopens,
          State.written_LTK_CMD_flag_BUSY, hidle, if_neg Bool.false_ne_true]
        dsimp only
        rw [hlink, if_pos (by rw [hfollow]; rfl), ← hv]
      · rw [State.answered_rd, State.rd_wr_fits (by decide) (by decide)]
    · refine ⟨_, by rw [exec_ltkRunSelfTest, execLtkRunSelfTest, onSoc_of_running hrun,
        State.tokenCommand_starts (gs := s.link.following) (t := v) hopens hidle (by
          rw [hlink, ← hv]) hfollow], ?_, fun _ => ⟨?_, ?_⟩⟩
      · rw [State.answered_rd, State.rd_onToken, State.wrs_cons, State.wrs_cons, State.wrs_nil, State.rd_wr_fits (by decide) (by decide)]
      · rw [State.answered_token, State.onToken_token]
      · rw [State.answered_rd, State.rd_onToken, State.wrs_cons, State.wrs_cons, State.wrs_nil, State.rd_wr_ne (by decide), State.rd_wr_fits (by decide) (by decide)]

end Sys2Proof.Machine
end

section
/-! Layout and Promenade commands. -/

set_option Elab.async false

namespace Sys2Proof.Machine

theorem plainRegister_QDL_FIG_CMD : plainRegister QDL_FIG_CMD.addr = true := by decide +kernel
theorem plainRegister_RBD_PCMD : plainRegister RBD_PCMD.addr = true := by decide +kernel

theorem State.wroteAt.store {s t : State} {a : Nat} (h : s.wroteAt t a) : t.store = s.store := by obtain ⟨-, _, _, rfl⟩ := h; rfl

theorem State.wrs_store (s : State) (l : List (Fld × Nat)) : (s.wrs l).store = s.store := by
  induction l generalizing s with
  | nil => rfl
  | cons p l ih => rw [State.wrs_cons, ih, State.wr_store]

section
variable {i : Nat}

theorem PCMD_ne_DONE : RBD_PCMD.STATUS.addr ≠ (RBD_PEXT_DONE.N i).addr := by
  simp only [RBD_PCMD.STATUS, RBD_PEXT_DONE.N, RBD_PCMD.addr, RBD_PEXT_DONE.addr, blockAddr]
  omega

theorem PCMD_ne_TOTAL : RBD_PCMD.STATUS.addr ≠ (RBD_PEXT_TOTAL.N i).addr := by
  simp only [RBD_PCMD.STATUS, RBD_PEXT_TOTAL.N, RBD_PCMD.addr, RBD_PEXT_TOTAL.addr, blockAddr]
  omega

theorem PCMD_ne_SSTAT : RBD_PCMD.STATUS.addr ≠ (RBD_SSTAT.PROM i).addr := by
  simp only [RBD_PCMD.STATUS, RBD_SSTAT.PROM, RBD_PCMD.addr, RBD_SSTAT.addr, blockAddr]
  omega

theorem SSTAT_ne_DONE : (RBD_SSTAT.PROM i).addr ≠ (RBD_PEXT_DONE.N i).addr := by
  simp only [RBD_SSTAT.PROM, RBD_PEXT_DONE.N, RBD_SSTAT.addr, RBD_PEXT_DONE.addr, blockAddr]
  omega

theorem SSTAT_ne_TOTAL : (RBD_SSTAT.PROM i).addr ≠ (RBD_PEXT_TOTAL.N i).addr := by
  simp only [RBD_SSTAT.PROM, RBD_PEXT_TOTAL.N, RBD_SSTAT.addr, RBD_PEXT_TOTAL.addr, blockAddr]
  omega

end

/-- An open stripe after what is done to it under its set and number. -/
theorem State.openStripe_onStripe {s : State} {set stripe : Nat} {f : OpenStripe → OpenStripe} (hf : ∀ o, (f o).isAt set stripe = o.isAt set stripe) :
    (s.onStripe set stripe f).openStripe set stripe = (s.openStripe set stripe).map f := by
  rw [State.openStripe, State.openStripe, State.onStripe, State.onStore_store]
  dsimp only
  have hkey : ((fun o : OpenStripe => o.isAt set stripe) ∘ fun o => if o.isAt set stripe = true then f o else o) = fun o => o.isAt set stripe :=
    funext fun o => by dsimp only [Function.comp]; split <;> simp_all
  rw [List.find?_map, hkey]
  cases h : s.store.openStripes.find? fun o => o.isAt set stripe with
  | none => rfl
  | some o =>
    rw [Option.map_some, if_pos (List.find?_some (p := fun o : OpenStripe => o.isAt set stripe) h), Option.map_some]

/-- Settles O27: each command by the state its rule answers. -/
theorem layoutAndPromenadeCommandsComplete : Obligations.LayoutAndPromenadeCommandsComplete := by
  refine ⟨fun s u who set row hrun hopens hset hrow => ?_, fun s set stripe o hrun hfind => ?_, fun s t set waiting due hrun hdrives hwaiting hsome hdue ht => ?_,
    fun s u who set hrun hopens hset => ?_, fun s nsid ext m hrun hmove => ?_, fun s set hrun hset => ?_⟩
  · have hset' : set % 4 = set := Nat.mod_eq_of_lt hset
    have hrow' : row % 4096 = row := Nat.mod_eq_of_lt hrow
    refine ⟨fun hu hvalid hlt haccepted hcrc => ?_, fun hu hvalid hlt => ?_, fun hu hvalid hlt => ?_⟩
    · have hstore : u.store = s.store := by rw [hu]; exact (State.written_of_plain plainRegister_QDL_FIG_CMD s _).store
      refine ⟨_, by rw [exec_figWriteNext, execFigWriteNext, onSoc_of_running hrun, State.commandWrite_opens hopens, hset', hrow', ← hu, State.figWrite], ?_, ?_⟩
      all_goals rw [if_neg (by rw [hvalid]; decide), if_neg (by omega), if_pos (by rw [haccepted, hcrc]; simp)]
      · rw [State.answered_rd, State.rd_wr_fits (by decide) (by decide)]
      · rw [State.answered_store, State.wr_store, State.onStore_store, hstore]
    · rw [exec_figReadActive, execFigReadActive, onSoc_of_running hrun, State.commandWrite_opens hopens, hset', hrow', ← hu, State.figRead,
        if_neg (by rw [hvalid]; decide), if_neg (by omega)] <;> rfl
    · rw [exec_figReadNext, execFigReadNext, onSoc_of_running hrun, State.commandWrite_opens hopens, hset', hrow', ← hu, State.figRead,
        if_neg (by rw [hvalid]; decide), if_neg (by omega)] <;> rfl
  · refine ⟨fun hidle hgranted => ?_, fun hopened hlast => ?_⟩
    · rw [exec_stripeClose, execStripeClose, onData_of_running hrun, hfind]
      dsimp only
      rw [if_pos (by rw [hidle, hgranted]; rfl)]
    · refine ⟨_, by rw [exec_stripeIdleTimeout, execStripeIdleTimeout, onSoc_of_running hrun], ?_, ?_, ?_⟩
      · rw [State.openStripe_onStripe ?_, hfind, Option.map_some, if_pos (by simp [hopened, hlast])]
        intro x
        split <;> rfl
      · rw [State.onStripe, State.onStore_regs]
      · rw [State.onStripe, State.onStore_out]
  · rw [exec_journalBlockWrite, execJournalBlockWrite, onData_of_running hrun, State.journalBlockWrite]
    dsimp only
    rw [← hwaiting, if_neg (by simp [hsome, hdrives]), ← hdue, ← ht]
    rfl
  · have hset' : set % 4 = set := Nat.mod_eq_of_lt hset
    have hstore {w : Word} (hu : u = s.written RBD_PCMD.addr w) : u.store = s.store := by
      rw [hu]
      exact (State.written_of_plain plainRegister_RBD_PCMD s _).store
    have hmeasure {w : Word} (hu : u = s.written RBD_PCMD.addr w) : u.measure = s.measure := by
      rw [hu, State.measure, (State.written_of_plain plainRegister_RBD_PCMD s _).clock, State.measure]
    refine ⟨fun l hu hfree hlegal hcomplete hfollows hplan => ?_, fun hu hgen hepochs hlegal hcomplete hfollows => ?_,
      fun hu hvalid hextents hdeleted hepochs hprom => ?_⟩
    · refine ⟨_, by rw [exec_promenadeStart, execPromenadeStart, onSoc_of_running hrun, State.commandWrite_opens hopens, hset', ← hu, State.promenadeStart,
        if_neg (by rw [hfree]; decide), if_neg (by rw [hlegal]; decide), if_neg (by rw [hcomplete]; decide), if_neg (by rw [hfollows]; decide), hplan],
        ?_, ?_, ?_, ?_⟩
      all_goals dsimp only
      · rw [State.answered_rd, State.wrs_cons, State.wrs_cons, State.wrs_cons, State.wrs_cons, State.wrs_nil,
          State.rd_wr_ne (.inl PCMD_ne_DONE), State.rd_wr_ne (.inl PCMD_ne_TOTAL), State.rd_wr_ne (.inl PCMD_ne_SSTAT), State.rd_wr_fits (by decide) (by decide)]
      · rw [State.answered_rd, State.wrs_cons, State.wrs_cons, State.wrs_cons, State.wrs_cons, State.wrs_nil,
          State.rd_wr_ne (.inl SSTAT_ne_DONE), State.rd_wr_ne (.inl SSTAT_ne_TOTAL), State.rd_wr_fits (by simp [Fld.inWord, RBD_SSTAT.PROM]) (by simp [RBD_SSTAT.PROM])]
      · rw [State.answered_rd, State.wrs_cons, State.wrs_cons, State.wrs_cons, State.wrs_cons, State.wrs_nil,
          State.rd_wr_fits (by simp [Fld.inWord, RBD_PEXT_DONE.N]) (by simp [RBD_PEXT_DONE.N])]
      · rw [State.answered_store, State.wrs_store, State.onStore_store, hstore hu]
    · refine ⟨_, by rw [exec_setCreate, execSetCreate, onSoc_of_running hrun, State.commandWrite_opens hopens, hset', ← hu, State.setCreate,
        if_neg (by simp [hgen, hepochs]), if_neg (by rw [hlegal]; decide), if_neg (by rw [hcomplete]; decide), if_neg (by rw [hfollows]; decide)], ?_, ?_⟩
      · rw [State.answered_rd, State.rd_wr_fits (by decide) (by decide)]
      · rw [State.answered_store, State.wr_store, State.armLayoutEpoch, State.onStore_store, hstore hu, hmeasure hu]
    · refine ⟨_, by rw [exec_setDelete, execSetDelete, onSoc_of_running hrun, State.commandWrite_opens hopens, hset', ← hu, State.setDelete,
        if_neg (by rw [hvalid]; decide), if_neg (by rw [hextents, hdeleted]; decide), if_neg (by simp [hepochs, hprom])], ?_, ?_⟩
      · rw [State.answered_rd, State.rd_wr_fits (by decide) (by decide)]
      · rw [State.answered_store, State.wr_store, State.armLayoutEpoch, State.onStore_store, hstore hu, hmeasure hu]
  · refine ⟨fun hstate hmap hwalk hfree hpar hgranted hidle => ?_, fun hstate hover hwalk hcatch => ?_, fun hstate hover hdirty hquiet => ?_,
      fun hstate hquiet => ?_⟩
    · rw [exec_promenadeMoveStart, execPromenadeMoveStart, onData_of_running hrun, hmove]
      dsimp only
      rw [if_pos (by simp [hstate, hmap, hwalk, hfree, hpar, hgranted, hidle])]
    · rw [exec_promenadeCopyPassEnd, execPromenadeCopyPassEnd, onData_of_running hrun, hmove]
      dsimp only
      rw [if_neg (by simp [hstate, hover, hwalk]), if_neg (by omega)]
    · rw [exec_promenadeCatchupDone, execPromenadeCatchupDone, onData_of_running hrun, hmove]
      dsimp only
      rw [if_pos (by simp [hstate, hover, hdirty, hquiet])]
    · refine ⟨_, by rw [exec_promenadeOldRangeFree, execPromenadeOldRangeFree, onData_of_running hrun, hmove], ?_⟩
      dsimp only
      rw [if_pos (by simp [hstate, hquiet]), State.wr_store]
  · refine ⟨fun hprom hnone hall => ?_, fun hprom hall hquiet => ?_⟩
    · refine ⟨_, by rw [exec_promenadeFinalEpoch, execPromenadeFinalEpoch, onSoc_of_running hrun, if_pos (by rw [hnone, hall]; simp [hprom])], ?_, ?_⟩
      · rw [State.armLayoutEpoch, State.onStore_store]
      · rw [State.armLayoutEpoch, State.onStore_regs]
    · refine ⟨_, by rw [exec_promenadeDrainDone, execPromenadeDrainDone, onSoc_of_running hrun, if_pos (by rw [hall, hquiet]; simp [hprom])], ?_, ?_⟩
      · rw [State.rd_wr_fits (by simp [Fld.inWord, RBD_SSTAT.PROM]) (by simp [RBD_SSTAT.PROM])]
      · rw [State.wr_store, State.onStore_store]

end Sys2Proof.Machine
end

section
/-! Rebuild, repair, scrub and what members report. -/

set_option Elab.async false

namespace Sys2Proof.Machine

theorem State.each_congr {α : Type} {f g : α → State → State} (h : ∀ a s, f a s = g a s) (s : State) (l : List α) : s.each l f = s.each l g := by
  rw [show f = g from funext fun a => funext fun s => h a s]

theorem State.onStore_witnesses (s : State) (f : Store → Store) : (s.onStore f).witnesses = s.witnesses := rfl

/-- Settles O28: each command by the state its rule answers. -/
theorem rebuildAndMemberCommandsComplete : Obligations.RebuildAndMemberCommandsComplete := by
  refine ⟨fun s set at' hrun hgranted hmap hnext => ?_, fun s u v set stripe p hrun hstep hwhy hstarted hrows hwrites hfixes hu hv => ?_,
    fun s set u hrun => ?_, fun s u t block found entries q head c tag hrun hwrites hblock hwitnesses hentries hu hq hhead hseal => ?_,
    fun s set stripe strip n hrun hfind => ?_, fun s set drive u live hrun hdrive h0 h1 h2 hnone hcandidate hlive => ?_,
    fun s set at' gen stripe strip row hrun hen hbad hat hmine hstep => ?_, fun s set stripe gen due busy hrun hen hstate hprom hgranted hgen hdue hbusy => ?_,
    fun s set u b hrun hready hblocks hfits hfailed => ?_, fun s t set u at' gen stripe hrun hcopy hgranted hmap hnone hfind ht hat hmine hgroup => ?_,
    fun s t set stripe g gen hrun hgen hdeleted hleads hmap hstep hlocked hclosed ht => ?_, fun s set stripe hrun => ?_, fun s op o hrun hfind => ?_⟩
  · rw [exec_rebuildStep, execRebuildStep, onData_of_running hrun, if_neg (by simp [hgranted, hmap]), hnext]
  · rw [exec_rebuildStepComplete, execRebuildStepComplete, onData_of_running hrun, hstep]
    dsimp only
    rw [if_neg (by rw [hfixes]; simp [hwhy, hstarted, hrows, hwrites]), ← hu, State.onStore, ← hv]
  · rw [exec_memberFailed, execMemberFailed, onData_of_running hrun]
  · rw [exec_lostMapWrite, execLostMapWrite, onData_of_running hrun, if_neg (by simp [hwrites, hwitnesses]; omega), ← hu]
    dsimp only
    rw [← hq, ← hentries, ← hhead, hseal]
    dsimp only
    rw [State.onStore_witnesses, State.onStore]
  · rw [exec_lostMapDurable, execLostMapDurable, onData_of_running hrun, hfind]
    rfl
  · have hlost : (if drive = 0 then s.flag (QDL_JDRV.V0 set) else if drive = 1 then s.flag (QDL_JDRV.V1 set) else s.flag (QDL_JDRV.V2 set)) = false := by
      split
      · next h => exact h0 h
      split
      · next h => exact h1 h
      · exact h2 (by omega)
    rw [exec_journalRehome, execJournalRehome, onData_of_running hrun]
    dsimp only
    rw [hlost, hnone, if_neg (by simp; omega), hcandidate]
    dsimp only
    rw [← hlive, State.onStore]
  · have hat1 : (s.stripeAt set at').1 = gen := by rw [hat]
    have hat2 : (s.stripeAt set at').2 = stripe := by rw [hat]
    rw [exec_repairStep, execRepairStep, onData_of_running hrun, hat1, hat2, if_pos (by rw [hen, hbad, hmine, hstep]; rfl), State.onStore]
  · have hidle : ¬(!s.flag RBD_CTL.SCRUB_EN || s.rd (RBD_SSTAT.STATE set) ≠ 0 || s.rd (RBD_SSTAT.PROM set) ≠ 0 || !s.granted 6) = true := by
      simp [hen, hstate, hprom, hgranted]
    have hsome (next : Nat) (h : due = some next) : exec (.scrubStep set stripe) s = .next
        (if s.store.revisit.contains (set, stripe) && !busy then
          (s.onStore fun x => { x with revisit := x.revisit.filter (· != (set, stripe)) }).stepOn set gen stripe .scrub (List.range 8)
        else if next ≠ stripe then s
        else if busy then (s.onStore fun x => { x with revisit := x.revisit ++ [(set, stripe)] }).setReg (RBD_SPOS.addr set) (BitVec.ofNat 64 (stripe + 1))
        else s.stepOn set gen stripe .scrub (List.range 8)).runJobs := by
      rw [exec_scrubStep, execScrubStep, onData_of_running hrun, if_neg hidle]
      dsimp only
      rw [← hgen, ← hdue, ← hbusy, h]
    have hnone (h : due = none) : exec (.scrubStep set stripe) s = .next
        (if s.store.revisit.contains (set, stripe) && !busy then
          (s.onStore fun x => { x with revisit := x.revisit.filter (· != (set, stripe)) }).stepOn set gen stripe .scrub (List.range 8)
        else if s.store.revisit.any (·.1 == set) then s else s.setReg (RBD_SPOS.addr set) 0).runJobs := by
      rw [exec_scrubStep, execScrubStep, onData_of_running hrun, if_neg hidle]
      dsimp only
      rw [← hgen, ← hdue, ← hbusy, h]
    refine ⟨fun hend hempty => ?_, fun hnext hfirst => ⟨fun hfree => ?_, fun htaken => ?_⟩, fun hagain hfree => ?_⟩
    · have hfirst : s.store.revisit.contains (set, stripe) = false := by
        rw [Bool.eq_false_iff]
        intro h
        exact List.any_eq_false.mp hempty _ (List.contains_iff_mem.mp h) (by simp)
      rw [hnone hend, hfirst, Bool.false_and, if_neg Bool.false_ne_true, hempty, if_neg Bool.false_ne_true]
    · rw [hsome stripe hnext, hfirst, Bool.false_and, if_neg Bool.false_ne_true, if_neg (not_not_intro rfl), hfree, if_neg Bool.false_ne_true]
    · rw [hsome stripe hnext, hfirst, Bool.false_and, if_neg Bool.false_ne_true, if_neg (not_not_intro rfl), htaken, if_pos rfl, State.onStore]
    · cases hcase : due with
      | some next => rw [hsome next hcase, hagain, hfree, Bool.not_false, Bool.and_true, if_pos rfl, State.onStore]
      | none => rw [hnone hcase, hagain, hfree, Bool.not_false, Bool.and_true, if_pos rfl, State.onStore]
  · rw [exec_replacementAccept, execReplacementAccept, onData_of_running hrun, hblocks]
    dsimp only
    rw [if_pos (by simp [hready, hfits])]
  · have hnot : ¬(t.stripeGroup set gen stripe).isNone = true := by
      rw [Option.isNone_iff_eq_none]
      exact Option.ne_none_iff_isSome.mpr hgroup
    rw [exec_copyBackStep, execCopyBackStep, onData_of_running hrun]
    split
    next h => rw [hcopy] at h; cases h
    next h =>
      rw [hcopy] at h
      cases h
      rw [if_neg (by rw [hnone]; simp [hgranted, hmap])]
      split
      next p h =>
        rw [hfind] at h
        cases h
        dsimp only
        rw [← ht, hat]
        dsimp only
        rw [hmine, Bool.not_true, if_neg Bool.false_ne_true, if_neg hnot]
      next h => rw [hfind] at h; cases h
  · rw [exec_deletedExtentDeallocate, execDeletedExtentDeallocate, onData_of_running hrun, ← hgen, hdeleted]
    dsimp only
    rw [hlocked, if_neg (by simp [hleads, hmap, hstep, hclosed]), ← ht]
    refine ⟨fun hkept => ?_, fun hgone => ?_⟩
    · rw [hkept, if_neg Bool.false_ne_true]
    · rw [hgone, if_pos rfl, State.onStore]
  · rw [exec_stripPost, execStripPost, onData_of_running hrun]
  · refine ⟨fun hkind => ?_, fun content hkind => ⟨?_, fun refOk tag htag => ?_⟩⟩
    · rw [exec_memberWriteComplete, execMemberWriteComplete, onData_of_running hrun, hfind]
      dsimp only
      rw [if_neg (by simpa using hkind)]
    · have hcheck : blockCheck true true o.gen o.gen = none := by simp [blockCheck]
      rw [exec_memberReadComplete, execMemberReadComplete, onData_of_running hrun, hfind]
      dsimp only
      rw [if_neg (by simp [hkind]), hcheck]
    · have hcheck : blockCheck false refOk tag o.gen = some QDL_CHK_GUARD.addr := by simp [blockCheck, htag]
      rw [exec_memberReadComplete, execMemberReadComplete, onData_of_running hrun, hfind]
      dsimp only
      rw [if_neg (by simp [hkind]), hcheck]

end Sys2Proof.Machine
end

section
/-! Commands of the switch core. -/

set_option Elab.async false

namespace Sys2Proof.Machine

/-! Bytes in words of registers. -/

theorem leBytes_leNat (l : Bytes) : leBytes l.length (leNat l) = l := by
  induction l with
  | nil => rfl
  | cons b l ih =>
    rw [List.length_cons, leNat, leBytes, show (b.toNat + 256 * leNat l) / 256 = leNat l by have := b.isLt; omega, ih,
      show BitVec.ofNat 8 (b.toNat + 256 * leNat l) = b from BitVec.eq_of_toNat_eq (by
        rw [BitVec.toNat_ofNat]
        have := b.isLt
        omega)]

theorem leNat_lt (l : Bytes) : leNat l < 256 ^ l.length := by
  induction l with
  | nil => exact Nat.one_pos
  | cons b l ih =>
    rw [leNat, List.length_cons, Nat.pow_succ]
    have := b.isLt
    omega

theorem State.reg_setWords_lt {a b n : Nat} {bs : Bytes} (h : b < a) (s : State) : (s.setWords a n bs).reg b = s.reg b := by
  induction n generalizing s a bs with
  | zero => rfl
  | succ n ih => rw [State.setWords, ih (by omega), State.reg_setReg_ne (by omega)]

/-- The words of a row of registers read as the bytes stored there. -/
theorem State.getWords_setWords {a n : Nat} {bs : Bytes} (h : bs.length = 4 * n) (s : State) : (s.setWords a n bs).getWords a n = bs := by
  induction n generalizing s a bs with
  | zero => exact (List.length_eq_zero_iff.mp h).symm
  | succ n ih =>
    have hword : (bs.take 4).length = 4 := by rw [List.length_take]; omega
    have hlt := leNat_lt (bs.take 4)
    rw [hword] at hlt
    rw [State.setWords, State.getWords, ih (by rw [List.length_drop]; omega), State.reg_setWords_lt (by omega), State.reg_setReg_self, BitVec.toNat_ofNat,
      Nat.mod_eq_of_lt (Nat.lt_trans hlt (by decide))]
    have hbytes := leBytes_leNat (bs.take 4)
    rw [hword] at hbytes
    rw [hbytes, List.take_append_drop]

@[simp] theorem State.setWords_switch (a n : Nat) (bs : Bytes) (s : State) : (s.setWords a n bs).switch = s.switch := by
  induction n generalizing s a bs with
  | zero => rfl
  | succ n ih => rw [State.setWords, ih, State.setReg_switch]

/-! The forwarding table's command register. -/

theorem State.written_SWC_FT_CMD (s : State) (v : Word) : s.written SWC_FT_CMD.addr v = s.wr SWC_FT_CMD.IDX (extractBits v.toNat 9 0) := by
  rfl

theorem quietRegister_SWC_EPOCH_TGT : quietRegister (SWC_EPOCH_TGT.addr + 4) = true := by decide +kernel

theorem ftIndex {op idx : Nat} (h : idx < 1024) : extractBits (BitVec.ofNat 32 (op * 65536 + idx % 1024)).toNat 9 0 = idx := by
  rw [extractBits, BitVec.toNat_ofNat]
  omega

theorem State.getWords_congr {s t : State} {a n : Nat} (h : ∀ b, a ≤ b → b < a + 4 * n → t.reg b = s.reg b) : t.getWords a n = s.getWords a n := by
  induction n generalizing a with
  | zero => rfl
  | succ n ih => rw [State.getWords, State.getWords, h a (Nat.le_refl a) (by omega), ih fun b hb hlt => h b (by omega) (by omega)]

theorem State.ftData_wr_IDX (s : State) (v : Nat) : (s.wr SWC_FT_CMD.IDX v).ftData = s.ftData :=
  State.getWords_congr fun b hb _ => State.reg_wr_ne (Nat.ne_of_gt (Nat.lt_of_lt_of_le (show SWC_FT_CMD.IDX.addr < SWC_FT_DATA.addr 0 by decide) hb))

/-- The command acts on IDX as it is written. -/
theorem State.ftWrite_acts {s : State} {who : Requester} {op idx : Nat} (hopens : s.Opens who SWC_FT_CMD.addr) :
    s.ftWrite who op idx = ((s.wr SWC_FT_CMD.IDX (extractBits (BitVec.ofNat 32 (op * 65536 + idx % 1024)).toNat 9 0)).ftCommand op).answered who
      SWC_FT_CMD.addr (BitVec.ofNat 32 (op * 65536 + idx % 1024)) := by
  rw [State.ftWrite, State.commandWrite_opens hopens, State.written_SWC_FT_CMD]

theorem State.ftData_answered (s : State) (who : Requester) (a : Nat) (v : Word) : (s.answered who a v).ftData = s.ftData :=
  State.getWords_congr fun b _ _ => State.answered_reg s who a v b

theorem State.measure_wr (s : State) (f : Fld) (v : Nat) : (s.wr f v).measure = s.measure := by rw [State.measure, State.wr_clock, State.measure]

/-! Pauses. -/

@[simp] theorem State.event_switch (s : State) (e src n : Nat) : (s.event e src n).switch = s.switch :=
  State.event_keeps (·.switch) (fun _ _ _ => rfl) (fun _ _ => rfl) s e src n

theorem State.began_switch (s : State) (was : Bool) (e src : Nat) : (s.began was e src).switch = s.switch := by
  rw [State.began]
  split
  · rfl
  · rw [State.event_switch]

theorem State.settleCredit_frame (s : State) (a : LaneClass) : After 0x4000000 s (s.settleCredit a) :=
  State.settleCredit_after s a (.of_and_eq rfl) (.refl s)

theorem State.aroundCredit_switch (s : State) (a : LaneClass) (f : State → State) : (s.aroundCredit a f).switch = (f (s.settleCredit a)).switch :=
  ((f (s.settleCredit a)).settleCredit_frame a).part .switch rfl

theorem pauses_without (l : List Pause) (a : LaneClass) : ((l.filter (·.at_ != a)).any fun x => x.at_ == a) = false :=
  List.any_eq_false.mpr fun x hx => by
    have := (List.mem_filter.mp hx).2
    simpa [bne] using this

/-- A class that is no longer held. -/
theorem State.pause_ends (s : State) (a : LaneClass) :
    (s.aroundCredit a fun s => s.onSwitch fun w => { w with pauses := w.pauses.filter (·.at_ != a) }).paused a = false ∧
    (s.aroundCredit a fun s => s.onSwitch fun w => { w with pauses := w.pauses.filter (·.at_ != a) }).switch.frames = s.switch.frames := by
  have hsettled : (s.settleCredit a).switch = s.switch := (s.settleCredit_frame a).part .switch rfl
  rw [State.paused, State.aroundCredit_switch, State.onSwitch_switch, hsettled]
  exact ⟨pauses_without _ a, rfl⟩

/-- A class that XOFF holds: until when, and since when. -/
def pausedUntil (w : Switch) (p : Pause) (now : Nat) : Switch :=
  { w with
    pauses := w.pauses.filter (·.at_ != p.at_) ++ [p]
    lastPause := (p.at_, now) :: w.lastPause.filter (·.1 != p.at_) }

theorem pausedUntil_holds (w : Switch) (p : Pause) (now : Nat) : ((pausedUntil w p now).pauses.any fun x => x.at_ == p.at_) = true ∧
    (∀ x ∈ (pausedUntil w p now).pauses, x.at_ = p.at_ → x = p) ∧ (pausedUntil w p now).frames = w.frames := by
  refine ⟨List.any_eq_true.mpr ⟨p, List.mem_append_right _ List.mem_cons_self, by simp⟩, fun x hx hat => ?_, rfl⟩
  rcases List.mem_append.mp hx with hrest | hnew
  · exact absurd hat (by simpa [bne] using (List.mem_filter.mp hrest).2)
  · exact List.mem_singleton.mp hnew

/-- R186: XOFF holds a class for its quanta, XON lets it go. -/
theorem pfcPauseReceived_holds {s : State} {p l c : Nat} (hrun : s.running = true) (hp : p < 4) (hl : l < s.cfg.lanes.getD p 1) (hc : c < 8) :
    (∀ q, 0 < q → ∃ t, exec (.pfcPauseReceived p l c q) s = .next t ∧ t.paused ⟨p, l, c⟩ = true ∧
      (∀ x ∈ t.switch.pauses, x.at_ = ⟨p, l, c⟩ → x.until_ = s.now + (q * 512000 + s.laneRateMb p - 1) / s.laneRateMb p) ∧
      t.switch.frames = s.switch.frames) ∧
    (∃ t, exec (.pfcPauseReceived p l c 0) s = .next t ∧ t.paused ⟨p, l, c⟩ = false ∧ t.switch.frames = s.switch.frames) := by
  have hplace : ¬(4 ≤ p ∨ s.cfg.lanes.getD p 1 ≤ l ∨ 8 ≤ c) := by omega
  obtain ⟨u, hu⟩ : ∃ u, u = s.settleCredit ⟨p, l, c⟩ := ⟨_, rfl⟩
  have hframe : After 0x4000000 s u := hu ▸ s.settleCredit_frame ⟨p, l, c⟩
  have hswitch : u.switch = s.switch := hframe.part .switch rfl
  have hnow : u.now = s.now := by rw [State.now, hframe.part .clock rfl, State.now]
  have hrate : u.laneRateMb p = s.laneRateMb p := by rw [State.laneRateMb, hframe.part .cfg rfl, State.laneRateMb]
  refine ⟨fun q hq => ?_, ?_⟩
  · obtain ⟨h, hh⟩ : ∃ h, h = (s.switch.pauses.find? (·.at_ == (⟨p, l, c⟩ : LaneClass))).filter fun x => decide (u.now < x.until_) := ⟨_, rfl⟩
    obtain ⟨x, hx⟩ : ∃ x, x = Pause.mk ⟨p, l, c⟩ (u.now + (q * 512000 + u.laneRateMb p - 1) / u.laneRateMb p) ((h.map (·.since)).getD u.now) := ⟨_, rfl⟩
    have hat : x.at_ = ⟨p, l, c⟩ := by rw [hx]
    have huntil : x.until_ = s.now + (q * 512000 + s.laneRateMb p - 1) / s.laneRateMb p := by rw [hx, hnow, hrate]
    have hexec : exec (.pfcPauseReceived p l c q) s =
        .next ((((u.onSwitch fun w => pausedUntil w x u.now).began h.isSome 0x03 (pauseSource ⟨p, l, c⟩)).settleCredit ⟨p, l, c⟩)) := by
      rw [exec_pfcPauseReceived, execPfcPauseReceived, onSoc_of_running hrun, if_neg hplace]
      dsimp only
      rw [State.aroundCredit, ← hu, if_neg (by omega), ← hh, hx]
      rfl
    have hfinal : (((u.onSwitch fun w => pausedUntil w x u.now).began h.isSome 0x03 (pauseSource ⟨p, l, c⟩)).settleCredit ⟨p, l, c⟩).switch =
        pausedUntil s.switch x u.now := by
      rw [(State.settleCredit_frame _ ⟨p, l, c⟩).part .switch rfl, State.began_switch, State.onSwitch_switch, hswitch]
    obtain ⟨hheld, huniq, hframes⟩ := pausedUntil_holds s.switch x u.now
    rw [hat] at hheld huniq
    refine ⟨_, hexec, ?_, ?_, ?_⟩
    · rw [State.paused, hfinal, hheld]
    · rw [hfinal]
      exact fun y hy hyat => huniq y hy hyat ▸ huntil
    · rw [hfinal, hframes]
  · refine ⟨_, ?_, s.pause_ends ⟨p, l, c⟩⟩
    rw [exec_pfcPauseReceived, execPfcPauseReceived, onSoc_of_running hrun, if_neg hplace]
    dsimp only
    rw [State.aroundCredit, State.aroundCredit, if_pos rfl]
    rfl

/-- Settles O29: each command by the state its rule answers. -/
theorem switchCommandsComplete : Obligations.SwitchCommandsComplete := by
  refine ⟨fun s f hrun hopen => ?_, fun s id f bad wait hrun hfind hstage htail => ?_, fun s id f hrun hfind hordered hstage => ?_,
    fun s dest flow d hrun hmin => ?_, fun s dest f hrun hfind hroom => ?_, fun s p l c hrun hp hl hc => pfcPauseReceived_holds hrun hp hl hc,
    fun s p l c x hrun hx hat hend => ?_, fun s p l c x hrun hx hat hsince huntil hnot => ?_, fun s p l c hrun hlate => ?_,
    fun s who v hrun hclosed hopens hdrained hahead => ?_, fun s who idx hrun hclosed hopens hidx hdrained => ?_, fun s hrun hpend hgone => ?_⟩
  · rw [exec_frameAdmission, execFrameAdmission, onSoc_of_running hrun]
    rcases hopen with h | h
    · rw [h, if_neg Bool.false_ne_true]
    · rw [State.orHold_of_closed h, ite_self]
  · rw [exec_frameReadComplete, execFrameReadComplete, onSoc_of_running hrun, hfind]
    dsimp only
    have hready : (f.stage == (if f.dest < 4 then FrameStage.sending else FrameStage.queued) && (s.tailWritten f || bad == some .underrun)) = true := by
      have htail' : (s.tailWritten f || bad == some .underrun) = true := by
        rcases htail with h | h
        · rw [State.tailWritten, decide_eq_true h, Bool.true_or]
        · rw [h, show ((some BadTail.underrun : Option BadTail) == some .underrun) = true from by decide, Bool.or_true]
      rw [htail', Bool.and_true]
      rcases hstage with ⟨hdest, hstage⟩ | ⟨hdest, hstage⟩
      · rw [if_pos hdest, hstage]
        decide
      · rw [if_neg (by omega), hstage]
        decide
    rw [if_pos hready]
  · rw [exec_resequencerArrival, execResequencerArrival, onSoc_of_running hrun, hfind]
    dsimp only
    rw [if_pos (by rw [hordered, hstage]; decide)]
  · rw [exec_resequencerTimeout, execResequencerTimeout, onSoc_of_running hrun]
    dsimp only
    rw [hmin]
    rfl
  · rw [exec_trackerFree, execTrackerFree, onSoc_of_running hrun, hfind]
    dsimp only
    rw [if_pos hroom]
  · refine ⟨_, ?_, s.pause_ends ⟨p, l, c⟩⟩
    rw [exec_pauseExpiry, execPauseExpiry, onSoc_of_running hrun]
    dsimp only
    rw [if_pos (List.any_eq_true.mpr ⟨x, hx, by simp [hat, hend]⟩)]
  · have hdue : (s.switch.pauses.any fun y => y.at_ == (⟨p, l, c⟩ : LaneClass) &&
        decide (y.since + 1000000 * s.rd SWC_PFCWD.TIME ≤ min s.now y.until_)) = true :=
      List.any_eq_true.mpr ⟨x, hx, by simp [hat]; omega⟩
    rw [exec_pfcWatchdogExpiry, execPfcWatchdogExpiry, onSoc_of_running hrun]
    dsimp only
    rw [hdue, if_neg (by simpa using hnot)]
    rfl
  · refine ⟨_, by
      rw [exec_pfcWatchdogEnd, execPfcWatchdogEnd, onSoc_of_running hrun]
      dsimp only
      rw [if_neg (by omega)], ?_, State.onSwitch_regs _ _, State.onSwitch_out _ _⟩
    rw [State.onSwitch_switch]
  · refine ⟨_, by rw [exec_epochArm, execEpochArm, onSoc_of_running hrun, State.orHold_of_closed hclosed, State.commandWrite_quiet quietRegister_SWC_EPOCH_TGT hopens], ?_, ?_⟩
    all_goals rw [State.armEpoch, if_neg (by rw [State.flag_eq_of_rd (State.rd_wr_ne (by decide)), hdrained]; decide), State.measure_wr, if_neg (Nat.not_le.mpr hahead)]
    · rw [State.answered_rd, State.rd_onSwitch, State.rd_wr_fits (by decide) (by decide)]
    · rw [State.answered_switch, State.onSwitch_switch]
  · have hindex (op : Nat) : (s.wr SWC_FT_CMD.IDX (extractBits (BitVec.ofNat 32 (op * 65536 + idx % 1024)).toNat 9 0)).rd SWC_FT_CMD.IDX = idx := by
      rw [ftIndex hidx, State.rd_wr_fits (by decide) (by simpa [SWC_FT_CMD.IDX] using hidx)]
    refine ⟨?_, fun hlen => ?_, fun hlen => ?_⟩
    · refine ⟨_, by rw [exec_ftWriteShadow, execFtWriteShadow, onSoc_of_running hrun, State.orHold_of_closed hclosed, State.ftWrite_acts hopens], ?_⟩
      rw [State.answered_switch, State.ftCommand, if_pos rfl, State.ftWriteShadow,
        if_neg (by rw [State.flag_eq_of_rd (State.rd_wr_ne (by decide)), hdrained]; decide), State.onSwitch_switch, State.wr_switch, hindex, State.ftData_wr_IDX]
      exact ⟨rfl, rfl⟩
    · refine ⟨_, by rw [exec_ftReadActive, execFtReadActive, onSoc_of_running hrun, State.orHold_of_closed hclosed, State.ftWrite_acts hopens], ?_⟩
      rw [State.ftData_answered, State.answered_switch, State.ftCommand, if_neg (by decide), if_pos rfl, State.showEntry, State.ftData, hindex,
        State.wr_switch, State.getWords_setWords hlen, State.setWords_switch, State.wr_switch]
      exact ⟨rfl, rfl⟩
    · refine ⟨_, by rw [exec_ftReadShadow, execFtReadShadow, onSoc_of_running hrun, State.orHold_of_closed hclosed, State.ftWrite_acts hopens], ?_⟩
      rw [State.ftData_answered, State.answered_switch, State.ftCommand, if_neg (by decide), if_neg (by decide), if_pos rfl, State.showEntry, State.ftData, hindex,
        State.wr_switch, State.getWords_setWords hlen, State.setWords_switch, State.wr_switch]
      exact ⟨rfl, rfl⟩
  · refine ⟨_, by rw [exec_epochDrained, execEpochDrained, onSoc_of_running hrun, if_pos (by rw [hpend, hgone]; rfl)], ?_, ?_, ?_, ?_⟩
    · rw [State.rd_onSwitch, State.wrs_cons, State.wrs_cons, State.wrs_nil, State.rd_wr_ne (by decide), State.rd_wr_fits (by decide) (by decide)]
    · rw [State.rd_onSwitch, State.wrs_cons, State.wrs_cons, State.wrs_nil, State.rd_wr_fits (by decide) (by decide)]
    · rw [State.onSwitch_switch, State.wrs_cons, State.wrs_cons, State.wrs_nil, State.wr_switch, State.wr_switch]
    · rw [State.onSwitch_out, State.wrs_cons, State.wrs_cons, State.wrs_nil, State.wr_out, State.wr_out]

end Sys2Proof.Machine
end

section
/-! Commands of the gates. -/

set_option Elab.async false

namespace Sys2Proof.Machine

/-! What the gate states depend on. -/

theorem State.settleGuards_reg {a : Nat} {p : Nat} (h : a ≠ NET_GUARD_NS.addr p) (l : Nat) (s : State) : (s.settleGuards p l).reg a = s.reg a := by
  rw [State.settleGuards]
  dsimp only
  split
  · rfl
  · rw [State.reg, State.onGates_regs, ← State.reg, State.count, State.reg_setReg_ne h]

theorem State.settleGuards_keeps {β : Type} {π : State → β} (hset : ∀ s a v, π (State.setReg s a v) = π s) (hgates : ∀ s f, π (State.onGates s f) = π s)
    (p l : Nat) (s : State) : π (s.settleGuards p l) = π s := by
  rw [State.settleGuards]
  dsimp only
  split
  · rfl
  · rw [hgates, State.count, hset]

theorem State.settleGuards_start (p l : Nat) (s : State) : (s.settleGuards p l).gates.start = s.gates.start := by
  rw [State.settleGuards]
  dsimp only
  split
  · rfl
  · rw [State.onGates_gates, State.count_gates]

theorem State.settleCredit_start (s : State) (a : LaneClass) : (s.settleCredit a).gates.start = s.gates.start := by
  rw [State.settleCredit]
  split
  · rw [State.setCredit, State.onGates_gates]
  · rfl

theorem State.settleCredit_keeps {β : Type} {π : State → β} (hgates : ∀ s f, π (State.onGates s f) = π s) (s : State) (a : LaneClass) :
    π (s.settleCredit a) = π s := by
  rw [State.settleCredit]
  split
  · exact hgates _ _
  · rfl

theorem State.gateEntries_of_regs {s t : State} {p : Nat} (h0 : ∀ i < 256, t.reg (NET_GCL_A0.addr p i) = s.reg (NET_GCL_A0.addr p i))
    (h1 : ∀ i < 256, t.reg (NET_GCL_A1.addr p i) = s.reg (NET_GCL_A1.addr p i)) (n : Nat) : t.gateEntries p false n = s.gateEntries p false n := by
  induction n with
  | zero => rfl
  | succ n ih =>
    have hinterval : t.rd (NET_GCL_A1.INTERVAL p (256 - (n + 1))) = s.rd (NET_GCL_A1.INTERVAL p (256 - (n + 1))) := by
      rw [State.rd, NET_GCL_A1.INTERVAL, h1 _ (by omega), State.rd]
    have hgates : t.rd (NET_GCL_A0.GATES p (256 - (n + 1))) = s.rd (NET_GCL_A0.GATES p (256 - (n + 1))) := by
      rw [State.rd, NET_GCL_A0.GATES, h0 _ (by omega), State.rd]
    simp only [State.gateEntries, Bool.false_eq_true, if_false, hinterval, hgates, ih]

/-- The gate states follow from the port's active list, its start, and the time. -/
theorem State.openGates_of_regs {s t : State} {p : Nat} (h : ∀ a, a ≠ NET_GUARD_NS.addr p → t.reg a = s.reg a) (hclock : t.clock = s.clock)
    (hstart : t.gates.start = s.gates.start) : t.openGates p = s.openGates p := by
  have hrd {f : Fld} (hf : f.addr ≠ NET_GUARD_NS.addr p) : t.rd f = s.rd f := by rw [State.rd, h _ hf, State.rd]
  have hcycle : t.rd (NET_GCYCLE_ACT.NS p) = s.rd (NET_GCYCLE_ACT.NS p) := hrd (by
    simp only [NET_GCYCLE_ACT.NS, NET_GCYCLE_ACT.addr, NET_GUARD_NS.addr, blockAddr]
    omega)
  have hgovern : t.gatesGovern p = s.gatesGovern p := by
    have hen : t.flag (NET_GCTL.EN p) = s.flag (NET_GCTL.EN p) := State.flag_eq_of_rd (hrd (by
      simp only [NET_GCTL.EN, NET_GCTL.addr, NET_GUARD_NS.addr, blockAddr]
      omega))
    have hgrid : t.flag MEAS_CTL.RUN = s.flag MEAS_CTL.RUN := State.flag_eq_of_rd (hrd (by
      simp only [MEAS_CTL.RUN, MEAS_CTL.addr, NET_GUARD_NS.addr, blockAddr]
      omega))
    have hfirst : t.rd (NET_GCL_A1.INTERVAL p 0) = s.rd (NET_GCL_A1.INTERVAL p 0) := hrd (by
      simp only [NET_GCL_A1.INTERVAL, NET_GCL_A1.addr, NET_GUARD_NS.addr, blockAddr]
      omega)
    rw [State.gatesGovern, State.gridRuns, hen, hgrid, hfirst, State.gatesGovern, State.gridRuns]
  have hplan : t.gatePlan p = s.gatePlan p := by
    rw [State.gatePlan, hcycle, State.gateEntries_of_regs (s := s) ?_ ?_, State.gatePlan]
    · exact fun i hi => h _ (by
        simp only [NET_GCL_A0.addr, NET_GUARD_NS.addr, blockAddr]
        omega)
    · exact fun i hi => h _ (by
        simp only [NET_GCL_A1.addr, NET_GUARD_NS.addr, blockAddr]
        omega)
  have hposition : t.gatePosition p = s.gatePosition p := by rw [State.gatePosition, State.now, hclock, hstart, hcycle, State.gatePosition, State.now]
  rw [State.openGates, hgovern, hplan, hposition, State.openGates]

/-- R187: the gates show the place in the cycle. -/
theorem State.showGates_shows (s : State) (p : Nat) :
    (s.showGates p).rd (NET_GSTAT.OPEN p) = s.openGates p % 256 ∧ (s.showGates p).switch = s.switch ∧ (s.showGates p).out = s.out := by
  obtain ⟨u, hu⟩ : ∃ u, u = s.each (s.portClasses p) fun a s => s.settleCredit a := ⟨_, rfl⟩
  obtain ⟨v, hv⟩ : ∃ v, v = u.each (List.range (u.cfg.lanes.getD p 1)) fun l s => s.settleGuards p l := ⟨_, rfl⟩
  have hkeeps {β : Type} {π : State → β} (hset : ∀ s a v, π (State.setReg s a v) = π s) (hgates : ∀ s f, π (State.onGates s f) = π s) : π v = π s := by
    rw [hv, State.each_keeps π fun l t => State.settleGuards_keeps hset hgates p l t, hu, State.each_keeps π fun a t => State.settleCredit_keeps hgates t a]
  have hreg (a : Nat) (ha : a ≠ NET_GUARD_NS.addr p) : v.reg a = s.reg a := by
    rw [hv, State.each_keeps (fun t => t.reg a) fun l t => State.settleGuards_reg ha l t, hu,
      State.each_keeps (fun t => t.reg a) fun c t => State.settleCredit_keeps (π := fun t => t.reg a) (fun _ _ => rfl) t c]
  have hstart : v.gates.start = s.gates.start := by
    rw [hv, State.each_keeps (fun t => t.gates.start) fun l t => State.settleGuards_start p l t, hu,
      State.each_keeps (fun t => t.gates.start) fun c t => State.settleCredit_start t c]
  have hshow : s.showGates p = v.wr (NET_GSTAT.OPEN p) (v.openGates p) := by
    rw [State.showGates, ← hu, ← hv]
  have hopen : v.openGates p = s.openGates p := State.openGates_of_regs hreg (hkeeps (π := fun t => t.clock) (fun _ _ _ => rfl) fun _ _ => rfl) hstart
  refine ⟨?_, ?_, ?_⟩
  · rw [hshow, hopen, State.rd_wr_self (by simp [Fld.inWord, NET_GSTAT.OPEN])]
    rfl
  · rw [hshow, State.wr_switch]
    exact hkeeps (π := fun t => t.switch) (fun _ _ _ => rfl) fun _ _ => rfl
  · rw [hshow, State.wr_out]
    exact hkeeps (π := fun t => t.out) (fun _ _ _ => rfl) fun _ _ => rfl

theorem quietRegister_NET_GTGT : ∀ p < 4, quietRegister (NET_GTGT.addr p + 4) = true := by decide +kernel

section
variable {p : Nat}

theorem GSTAT_ne_GTGT : NET_GSTAT.addr p ≠ NET_GTGT.addr p := by
  simp only [NET_GSTAT.addr, NET_GTGT.addr, blockAddr]
  omega

theorem GSTAT_ne_MEAS_STAT : NET_GSTAT.addr p ≠ MEAS_STAT.addr := by
  simp only [NET_GSTAT.addr, MEAS_STAT.addr, blockAddr]
  omega

theorem inBlock_NET_GSTAT : inBlock .net (NET_GSTAT.addr p) = true :=
  inBlock_blockAddr (by omega) (by simp only [Block.first]; omega)

end

/-- R36: a target that is not ahead is missed: a flag and a fault record. -/
theorem State.missedTarget_frame (s : State) (target : Nat) : After 0x603400110000c0 (s.wr MEAS_STAT.MISSED 1) (s.missedTarget target) := by
  rw [State.missedTarget, State.flagFault]
  exact State.fault_after _ _ (.of_and_eq rfl) (.refl _)

/-- Settles O30: each command by the state its rule answers. -/
theorem gateCommandsComplete : Obligations.GateCommandsComplete := by
  refine ⟨fun s p l hrun hclosed => ?_, fun s p hrun hclosed hp => ?_, fun s who p v hrun hclosed hp hopens => ⟨fun hahead => ?_, fun hlate => ?_⟩,
    fun s p hrun hclosed hp hen => ?_⟩
  · rw [exec_laneFrameStart, execLaneFrameStart, onSoc_of_running hrun, State.orHold_of_closed hclosed]
  · exact ⟨_, by rw [exec_gateEntryChange, execGateEntryChange, onSoc_of_running hrun, if_neg (by omega), State.orHold_of_closed hclosed], s.showGates_shows p⟩
  · refine ⟨_, by rw [exec_gateSwitchoverArm, execGateSwitchoverArm, onSoc_of_running hrun, if_neg (by omega), State.orHold_of_closed hclosed,
      State.commandWrite_quiet (quietRegister_NET_GTGT p hp) hopens, State.armGates, State.measure_wr, if_neg (Nat.not_le.mpr hahead)], ?_, ?_⟩
    · rw [State.answered_rd, State.rd_onGates, State.rd_wr_fits (by simp [Fld.inWord, NET_GSTAT.ARMED]) (by simp [NET_GSTAT.ARMED])]
    · rw [State.answered_gates, State.onGates_gates, byPort]
      simp
  · obtain ⟨u, hu⟩ : ∃ u, u = (s.wr ⟨NET_GTGT.addr p, 63, 32⟩ v.toNat).wrs [(NET_GSTAT.ARMED p, 0), (NET_GSTAT.MISSED p, 1)] := ⟨_, rfl⟩
    have hmissed (n : Nat) : After 0x603400110000c0 (u.wr MEAS_STAT.MISSED 1) (u.missedTarget n) := u.missedTarget_frame n
    refine ⟨_, by rw [exec_gateSwitchoverArm, execGateSwitchoverArm, onSoc_of_running hrun, if_neg (by omega), State.orHold_of_closed hclosed,
      State.commandWrite_quiet (quietRegister_NET_GTGT p hp) hopens, State.armGates, State.measure_wr, if_pos hlate, ← hu], ?_, ?_, ?_⟩
    · rw [State.answered_rd, (hmissed _).rd .net inBlock_NET_GSTAT rfl, State.rd_wr_ne (.inl GSTAT_ne_MEAS_STAT), hu, State.wrs_cons, State.wrs_cons, State.wrs_nil,
        State.rd_wr_ne (.inr (by simp [Fld.inWord, NET_GSTAT.ARMED, NET_GSTAT.MISSED])), State.rd_wr_fits (by simp [Fld.inWord, NET_GSTAT.ARMED]) (by simp [NET_GSTAT.ARMED])]
    · rw [State.answered_rd, (hmissed _).rd .net inBlock_NET_GSTAT rfl, State.rd_wr_ne (.inl GSTAT_ne_MEAS_STAT), hu, State.wrs_cons, State.wrs_cons, State.wrs_nil,
        State.rd_wr_fits (by simp [Fld.inWord, NET_GSTAT.MISSED]) (by simp [NET_GSTAT.MISSED])]
    · rw [State.answered_rd, (hmissed _).rd .meas (by decide) rfl, State.rd_wr_fits (by decide) (by decide)]
  · rw [exec_wheelSlotChange, execWheelSlotChange, onSoc_of_running hrun, if_pos (by simp [hp, hen]), State.orHold_of_closed hclosed]

end Sys2Proof.Machine
end

section
/-! Long operations: format, sanitize, their units and records. -/

set_option Elab.async false

namespace Sys2Proof.Machine

theorem formatCheck_of_legal {n : Namespace} {lbaf ses pi : Nat} (hses : ses ≤ 2) (hlbaf : lbaf ≤ 2) (hpi : pi ≤ 1) (henc : ses = 2 → n.encrypted = true) :
    formatCheck n lbaf ses pi = none := by
  rw [formatCheck, if_neg (by omega), if_neg ?_]
  rw [Bool.or_eq_true, Bool.or_eq_true, Bool.and_eq_true, decide_eq_true_eq, decide_eq_true_eq, decide_eq_true_eq, Bool.not_eq_true']
  rintro ((h | ⟨h, h'⟩) | h)
  · omega
  · rw [henc h] at h'
    cases h'
  · omega

theorem State.raiseHighWater_out (s : State) (slot context v : Nat) : (s.raiseHighWater slot context v).out = s.out := by
  rw [State.raiseHighWater]
  split
  · split
    · rw [State.setHighWater, State.onKeys_out]
    · rfl
  · rw [State.setHighWater, State.onKeys_out]

/-- Settles O31: each command by the state its rule answers. -/
theorem walkCommandsComplete : Obligations.WalkCommandsComplete := by
  refine ⟨fun s key nsid lbaf ses pi c n hrun hopen hns hlive hses hlbaf hpi henc hleads hfree => ?_, fun s u key c hrun hopen hfree hnone hu => ?_,
    fun s u key c hrun hopen => ⟨fun r ended hshown hause hended hu => ?_, fun hover => ?_⟩, fun s slot unit failed o hrun hop hunit => ?_,
    fun s slot seq o r hrun hop hrecord hdone hfailed => ⟨fun hfinal => ?_, fun hmore hunits => ?_⟩,
    fun s u slot found r hrun hslot hu hhere hnot hnewest hassembled => ?_⟩
  · rw [exec_formatNvm, execFormatNvm, onData_of_running hrun, State.adminRun_open hopen, if_neg hns, hlive]
    dsimp only
    rw [formatCheck_of_legal hses hlbaf hpi henc]
    dsimp only
    rw [State.atLead, if_pos hleads, State.startFormat, if_neg (by rw [hfree]; decide)]
  · have hstart (kind flags owpass ovrpat : Nat) : s.startSanitize key kind flags owpass ovrpat =
        u.startOperation 8 ⟨0, kind, 255, flags, 0, s.measure, s.sanitizeUnits kind, 0, 0, owpass, ovrpat, s.measure⟩ key := by
      rw [State.startSanitize, if_neg (by rw [hfree]; decide), if_neg (by rw [hnone]; decide), hu]
    have hflags (ause : Bool) : sanitizeFlags ause false = if ause then 2 else 0 := by cases ause <;> rfl
    refine ⟨fun ause => ?_, fun ause oipbp owpass ovrpat hlow hhigh => ?_, fun ause => ?_⟩
    · rw [exec_sanitizeBlockErase, execSanitizeBlockErase, onData_of_running hrun, State.sanitizeRun, State.adminRun_open hopen, hstart, hflags]
    · rw [exec_sanitizeOverwrite, execSanitizeOverwrite, onData_of_running hrun, State.sanitizeRun, State.adminRun_open hopen, if_neg (by simp; omega), hstart,
        sanitizeFlags]
    · rw [exec_sanitizeCryptoErase, execSanitizeCryptoErase, onData_of_running hrun, State.sanitizeRun, State.adminRun_open hopen, hstart, hflags, kindCrypto]
  · rw [exec_sanitizeExitFailureMode, execSanitizeExitFailureMode, onData_of_running hrun, State.sanitizeRun, State.adminRun_open hopen, hshown]
    dsimp only
    rw [if_pos rfl, if_pos hause, ← hended, ← hu]
  · rw [exec_sanitizeExitFailureMode, execSanitizeExitFailureMode, onData_of_running hrun, State.sanitizeRun, State.adminRun_open hopen]
    cases hshown : s.opShown 8 with
    | none => rfl
    | some o =>
      have hstate : o.1 = 4 := hover o hshown
      dsimp only
      rw [hstate, if_neg (by decide), if_pos rfl]
  · rw [exec_walkUnitComplete, execWalkUnitComplete, onData_of_running hrun, hop]
    dsimp only
    rw [if_pos (List.contains_iff_mem.mpr hunit)]
  · rw [exec_progressRecordDurable, execProgressRecordDurable, onData_of_running hrun, hop, hrecord]
    dsimp only
    rw [if_neg (by simp [hdone, hfailed]), State.recordDurable, if_pos hfinal]
  · rw [exec_progressRecordDurable, execProgressRecordDurable, onData_of_running hrun, hop, hrecord]
    dsimp only
    rw [if_neg (by simp [hdone, hfailed]), State.recordDurable, if_neg (by rw [hmore]; decide), if_neg (by simp [hunits])]
  · obtain ⟨v, hv⟩ : ∃ v, v = (u.raiseHighWater 1 (leNat (progressHead slot)) r.seq).onAdmin fun a => { a with
        records := (slot, r) :: (a.records.filter fun p => p.1 == slot && p.2.seq != r.seq).take 3 ++ a.records.filter fun p => p.1 != slot
        ops := putBy LongOp.slot ⟨slot, if bitOf r.flags 4 then (if bitOf r.flags 3 then 5 else 4) else 1, r, some r, [], [], none, false,
          bitOf r.flags 3⟩ a.ops } := ⟨_, rfl⟩
    have hwater : After 0x8000 u (u.raiseHighWater 1 (leNat (progressHead slot)) r.seq) := State.raiseHighWater_after u 1 _ _ (.of_and_eq rfl) (.refl u)
    refine ⟨v, ?_, ?_, ?_, ?_⟩
    · rw [hv, State.onAdmin_host, hwater.part .host rfl, hu, State.yieldWalks, State.onAdmin_host]
    · rw [hv, State.onAdmin_out, State.raiseHighWater_out, hu, State.yieldWalks, State.onAdmin_out]
    · rw [State.longOp, hv, State.onAdmin_admin]
      exact getBy_putBy_self LongOp.slot (⟨slot, if bitOf r.flags 4 then (if bitOf r.flags 3 then 5 else 4) else 1, r, some r, [], [], none, false,
        bitOf r.flags 3⟩ : LongOp) _
    · rw [exec_walkResume, execWalkResume, onData_of_running hrun]
      dsimp only
      rw [← hu, if_neg (by simp [hhere, hnot]; omega), hnewest]
      dsimp only
      rw [hassembled, Bool.not_true, if_neg Bool.false_ne_true, ← hv]

end Sys2Proof.Machine
end

section
/-! Proposals, set-up digests and activation. -/

set_option Elab.async false

namespace Sys2Proof.Machine

/-! Register writes leave whatever does not look at the registers. -/

theorem State.wr_keeps {β : Type} {π : State → β} (hset : ∀ s a v, π (State.setReg s a v) = π s) (s : State) (f : Fld) (v : Nat) : π (s.wr f v) = π s :=
  hset s _ _

theorem State.wrs_keeps {β : Type} {π : State → β} (hset : ∀ s a v, π (State.setReg s a v) = π s) (l : List (Fld × Nat)) (s : State) : π (s.wrs l) = π s := by
  induction l generalizing s with
  | nil => rfl
  | cons p l ih => rw [State.wrs_cons, ih, State.wr_keeps hset]

theorem State.setWords_keeps {β : Type} {π : State → β} (hset : ∀ s a v, π (State.setReg s a v) = π s) (n : Nat) (a : Nat) (bs : Bytes) (s : State) :
    π (s.setWords a n bs) = π s := by
  induction n generalizing s a bs with
  | zero => rfl
  | succ n ih => rw [State.setWords, ih, hset]

theorem State.showProposals_keeps {β : Type} {π : State → β} (hset : ∀ s a v, π (State.setReg s a v) = π s) (s : State) : π s.showProposals = π s := by
  rw [State.showProposals]
  rw [State.setWords_keeps hset, State.showSetup, hset, State.wrs_keeps hset]

/-! Whether commits match depends on the guarded objects alone. -/

theorem State.putObject_objects_congr {s t : State} (h : s.two.objects = t.two.objects) (object inst : Nat) (content : Bytes) :
    (s.putObject object inst content).two.objects = (t.putObject object inst content).two.objects := by
  simp only [State.putObject, State.onTwo_two, State.revision, State.guarded, h]

theorem State.basesMatch_congr {s t : State} (h : s.two.objects = t.two.objects) (l : List LoggedCommit) : s.basesMatch l = t.basesMatch l := by
  induction l generalizing s t with
  | nil => rfl
  | cons c cs ih =>
    rw [State.basesMatch, ih (State.putObject_objects_congr h _ _ _), State.revision, State.guarded, h, State.basesMatch, State.revision, State.guarded]

/-- Settles O32: each command by the state its rule answers. -/
theorem proposalAndActivationCommandsComplete : Obligations.ProposalAndActivationCommandsComplete := by
  refine ⟨fun s number p hrun hfind hopen hlife => ?_, fun s u digest log objects proposals hrun hpaired hu => ⟨fun hdigest => ?_, ?_⟩,
    fun s slot hrun hactivating => ⟨fun u hstage hu => ⟨fun hrolling => ?_, fun hrolling => ?_⟩, fun hstage hleads => ?_, fun hstage hleads hnone hlead => ?_,
      fun hstage hnone => ?_⟩⟩
  · refine ⟨(s.onProposal number fun q => { q with state := .expired }).showProposals, ?_, ?_, ?_, ?_⟩
    · rw [exec_proposalExpiry, execProposalExpiry, onSoc_of_running hrun, hfind]
      dsimp only
      rw [if_pos (by rw [hopen, decide_eq_true hlife]; rfl)]
    · exact State.showProposals_keeps (π := (·.two)) (fun _ _ _ => rfl) _
    · exact State.showProposals_keeps (π := (·.mem)) (fun _ _ _ => rfl) _
    · exact State.showProposals_keeps (π := (·.out)) (fun _ _ _ => rfl) _
  · refine ⟨(u.onTwo fun t => { t with peerDigest := digest }).wr TWO_STAT.MISMATCH 0, ?_, ?_, ?_, ?_⟩
    · rw [exec_setupDigestExchange, execSetupDigestExchange, onSoc_of_running hrun, if_neg (by simp [hpaired]), ← hu]
      dsimp only
      rw [State.onTwo_two, if_pos (by simp [hdigest])]
    · exact State.rd_wr_fits (by decide) (by decide)
    · rw [State.wr_two, State.onTwo_two]
    · rw [State.wr_out, State.onTwo_out]
  · intro hdigest lacking hlacking
    obtain ⟨w, hw⟩ : ∃ w, w = u.onTwo fun t => { t with peerDigest := digest } := ⟨_, rfl⟩
    have hsame : w.basesMatch lacking = u.basesMatch lacking := State.basesMatch_congr (by rw [hw, State.onTwo_two]) lacking
    have htwo : w.two = { u.two with peerDigest := digest } := by rw [hw, State.onTwo_two]
    have hlog : (log.filter fun c => !(w.two.log.any fun d => d.number == c.number)) = lacking := by rw [htwo, hlacking]
    constructor
    · intro hne hmatch
      refine ⟨w.onTwo fun t => { t with fromPeer := some (w.measure + 2, lacking, []) }, ?_, ?_, ?_⟩
      · rw [exec_setupDigestExchange, execSetupDigestExchange, onSoc_of_running hrun, if_neg (by simp [hpaired]), ← hu]
        dsimp only
        rw [← hw, if_neg (by rw [htwo]; simpa using hdigest), hlog, if_pos (by simp [hne, hsame, hmatch])]
      · rw [State.onTwo_two, htwo, hw]
        rfl
      · rw [State.onTwo_regs, hw, State.onTwo_regs]
    · intro hne hmatch hadopt
      have hframe : After 0x603400110000c0 (w.wr TWO_STAT.MISMATCH 1) (w.flagFault TWO_STAT.MISMATCH 8 1 0x0B) := State.fault_after _ _ (.of_and_eq rfl) (.refl _)
      refine ⟨w.flagFault TWO_STAT.MISMATCH 8 1 0x0B, ?_, ?_, ?_⟩
      · rw [exec_setupDigestExchange, execSetupDigestExchange, onSoc_of_running hrun, if_neg (by simp [hpaired]), ← hu]
        dsimp only
        rw [← hw, if_neg (by rw [htwo]; simpa using hdigest), hlog, if_neg (by simp [hsame, hmatch]), if_neg (by simp [htwo, hadopt]), if_neg (by simp [hne])]
      · rw [hframe.rd .two (by decide) rfl]
        exact State.rd_wr_fits (by decide) (by decide)
      · rw [hframe.part .two rfl, State.wr_two, htwo]
  · rw [exec_firmwareActivation, execFirmwareActivation, onData_of_running hrun, hactivating]
    dsimp only
    rw [if_pos hstage, State.beginActivation, ← hu]
    rw [if_neg (by simp [hrolling])]
  · rw [exec_firmwareActivation, execFirmwareActivation, onData_of_running hrun, hactivating]
    dsimp only
    rw [if_pos hstage, State.beginActivation, ← hu]
    rw [if_pos hrolling]
  · rw [exec_firmwareActivation, execFirmwareActivation, onData_of_running hrun, hactivating]
    dsimp only
    rw [if_neg (by omega), if_pos (by simpa [hstage] using hleads)]
  · rw [exec_firmwareActivation, execFirmwareActivation, onData_of_running hrun, hactivating]
    dsimp only
    rw [if_neg (by omega), if_neg (by rw [hleads]; simp), if_neg (by simp [hnone, hlead])]
  · rw [exec_firmwareActivation, execFirmwareActivation, onData_of_running hrun, hactivating]
    dsimp only
    rw [if_neg (by omega), if_neg (by simp [hstage]), if_neg (by simp [hnone, hstage])]

end Sys2Proof.Machine
end

section
/-! Drive slots: what shows the state of a slot and what is held of it. -/

set_option Elab.async false

namespace Sys2Proof.Machine

/-! Fields of one register or of one block. -/

/-- Registers of one block differ where their offsets do. -/
theorem blockAddr_ne {b m n : Nat} (h : m % 65536 ≠ n % 65536) : blockAddr b m ≠ blockAddr b n := by
  simp only [blockAddr]
  omega

/-- A write of a field leaves the fields that share no bit with it, in whatever registers they are. -/
theorem State.rd_wr_apart {s : State} {f g : Fld} {v : Nat} (h : (Nat.ble f.lo f.hi && Nat.blt f.hi 64 && (Nat.blt g.hi f.lo || Nat.blt f.hi g.lo)) = true) :
    (s.wr f v).rd g = s.rd g := by
  simp only [Bool.and_eq_true, Bool.or_eq_true, Nat.ble_eq, Nat.blt_eq] at h
  obtain ⟨hf, hapart⟩ := h
  exact State.rd_wr_bits hf hapart

/-- A field reads as the number written, where the widths say that it fits. -/
theorem State.rd_wr_val {s : State} {f : Fld} {v : Nat} (h : (Nat.ble f.lo f.hi && Nat.blt f.hi 64 && Nat.blt v (2 ^ (f.hi + 1 - f.lo))) = true) :
    (s.wr f v).rd f = v := by
  simp only [Bool.and_eq_true, Nat.ble_eq, Nat.blt_eq] at h
  obtain ⟨hf, hfits⟩ := h
  exact State.rd_wr_fits hf hfits

section
variable {s : State} {k : Nat}

/-! What is held of a slot. -/

theorem State.slotHold_slot (s : State) (k : Nat) : (s.slotHold k).slot = k := by
  rw [State.slotHold]
  cases hget : getBy SlotHold.slot k s.slots.holds with
  | none => rfl
  | some h => exact beq_iff_eq.mp (List.find?_some (p := fun a => SlotHold.slot a == k) hget)

theorem State.slotHold_onHold (s : State) {f : SlotHold → SlotHold} (hf : (f (s.slotHold k)).slot = (s.slotHold k).slot) :
    (s.onHold k f).slotHold k = f (s.slotHold k) := by
  have hget := getBy_putBy_self SlotHold.slot (f (s.slotHold k)) s.slots.holds
  rw [hf, State.slotHold_slot] at hget
  rw [State.slotHold, State.onHold, State.onSlots_slots, hget, Option.getD_some]

theorem State.slotHold_of_slots {s t : State} (h : t.slots = s.slots) (k : Nat) : t.slotHold k = s.slotHold k := by
  rw [State.slotHold, h, State.slotHold]

/-! A slot enters a state. -/

@[simp] theorem State.rd_onHold (s : State) (k : Nat) (f : SlotHold → SlotHold) (g : Fld) : (s.onHold k f).rd g = s.rd g := by
  rw [State.onHold, State.rd_onSlots]

@[simp] theorem State.rd_emits (s : State) (l : List Output) (g : Fld) : (s.emits l).rd g = s.rd g := by rw [State.emits, State.rd_onOut]

theorem State.setSlot_state {st : Nat} (h : st < 16) : (s.setSlot k st).rd (SLT_STAT.STATE k) = st := by
  rw [State.setSlot, State.rd_onHold, State.rd_wr_fits (by simp [Fld.inWord, SLT_STAT.STATE]) h]

theorem State.setSlot_rd {st : Nat} {g : Fld} (h : g.addr ≠ SLT_STAT.addr k ∨ g.hi < 28) : (s.setSlot k st).rd g = s.rd g := by
  rw [State.setSlot, State.rd_onHold, State.rd_wr_ne (h.imp id fun hlow => ⟨by simp [Fld.inWord, SLT_STAT.STATE], .inl hlow⟩)]

theorem State.setSlot_slotHold {st : Nat} :
    (s.setSlot k st).slotHold k = { s.slotHold k with since := s.now, ending := false, debounced := false } := by
  have hsame : (s.wr (SLT_STAT.STATE k) st).slotHold k = s.slotHold k := State.slotHold_of_slots (State.wr_slots _ _ _) k
  rw [State.setSlot, State.slotHold_onHold, hsame]
  rfl

@[simp] theorem State.setSlot_mem (st : Nat) : (s.setSlot k st).mem = s.mem := by rw [State.setSlot, State.onHold, State.onSlots_mem, State.wr_mem]
@[simp] theorem State.setSlot_out (st : Nat) : (s.setSlot k st).out = s.out := by rw [State.setSlot, State.onHold, State.onSlots_out, State.wr_out]
@[simp] theorem State.setSlot_store (st : Nat) : (s.setSlot k st).store = s.store := by rw [State.setSlot, State.onHold, State.onSlots_store, State.wr_store]

theorem State.setSlot_pulled (st : Nat) : (s.setSlot k st).slots.pulled = s.slots.pulled := by
  rw [State.setSlot, State.onHold, State.onSlots_slots, State.wr_slots]

/-- What R352 shows of a slot whose power is switched on. -/
theorem State.powerSlot_rd (s : State) (k : Nat) (g : Fld) :
    (s.powerSlot k).rd g = (((s.wr (SLT_STAT.PWR_OWN k) 1).wr (SLT_STAT.PWR_NET k) 1).setSlot k slotPowering).rd g := by
  rw [State.powerSlot, State.rd_emits, State.setSlot, State.rd_onHold, State.setSlot, State.rd_onHold]
  rfl

theorem State.powerSlot_pulled (s : State) (k : Nat) : k ∈ (s.powerSlot k).slots.pulled := by
  rw [State.powerSlot, State.emits, State.onOut_slots, State.setSlot_pulled, State.wrs_keeps (π := (·.slots)) (fun _ _ _ => rfl), State.onSlots_slots]
  exact List.mem_cons_self

/-- An event of a slot is noted and reported. -/
theorem State.slotEvent_frame (s : State) (k : Nat) (f : Fld) : After 0x40340011000080 (s.wr f 1) (s.slotEvent k f) := by
  rw [State.slotEvent]
  exact State.notify_after _ _ (.of_and_eq rfl) (.refl _)

theorem inBlock_slt {off : Nat} : inBlock .slt (blockAddr (0x28 + k % 48) off) = true :=
  inBlock_blockAddr (by omega) (by simp only [Block.first]; omega)

/-- What an event of a slot leaves of the slot's registers. -/
theorem State.slotEvent_rd {f g : Fld} (h : inBlock .slt g.addr = true) : (s.slotEvent k f).rd g = (s.wr f 1).rd g := (s.slotEvent_frame k f).rd .slt h rfl

end

end Sys2Proof.Machine
end

section
/-! A slot's insertion and start-up. -/

set_option Elab.async false

namespace Sys2Proof.Machine

theorem State.rd_count_ne {s : State} {a n : Nat} {g : Fld} (h : g.addr ≠ a) : (s.count a n).rd g = s.rd g := by
  rw [State.rd, State.count, State.reg_setReg_ne h, State.rd]

theorem failedChecks_lt {r : DriveReport} {reason : Nat} (h : reason ∈ failedChecks r) : reason < 8 := by
  rw [failedChecks, List.mem_filterMap] at h
  obtain ⟨⟨n, ok⟩, hmem, hn⟩ := h
  have hle : n < 8 := by
    simp only [List.mem_cons, Prod.mk.injEq, List.not_mem_nil, or_false] at hmem
    omega
  cases ok <;> simp at hn
  exact hn ▸ hle

section
variable {s : State} {k : Nat}

/-- Presence that is over its debounce is shown and reported (R352). -/
def State.shownPresent (s : State) (k : Nat) : State := (s.wr (SLT_STAT.PRSNT k) 1).slotEvent k (SLT_EVT.PRSNT_CHG k)

theorem State.shownPresent_rd (s : State) (k : Nat) {g : Fld} (h : inBlock .slt g.addr = true) :
    (s.shownPresent k).rd g = ((s.wr (SLT_STAT.PRSNT k) 1).wr (SLT_EVT.PRSNT_CHG k) 1).rd g := State.slotEvent_rd h

theorem State.shownPresent_present (s : State) (k : Nat) : (s.shownPresent k).rd (SLT_STAT.PRSNT k) = 1 := by
  rw [State.shownPresent_rd s k inBlock_slt, State.rd_wr_ne (.inl (blockAddr_ne (by decide))), State.rd_wr_val rfl]

theorem State.shownPresent_event (s : State) (k : Nat) : (s.shownPresent k).rd (SLT_EVT.PRSNT_CHG k) = 1 := by
  rw [State.shownPresent_rd s k inBlock_slt, State.rd_wr_val rfl]

theorem State.shownPresent_state (s : State) (k : Nat) : (s.shownPresent k).slotState k = s.slotState k := by
  rw [State.slotState, State.shownPresent_rd s k inBlock_slt, State.rd_wr_ne (.inl (blockAddr_ne (by decide))), State.rd_wr_apart rfl, State.slotState]

theorem State.shownPresent_slots (s : State) (k : Nat) : (s.shownPresent k).slots = s.slots := by
  rw [State.shownPresent, (State.slotEvent_frame _ k _).part .slots rfl, State.wr_slots, State.wr_slots]

/-- The fields that a link in use shows (R353). -/
def State.shownLink (s : State) (k : Nat) (link : SlotLink) : State :=
  (s.wrs [(SLT_LSTAT.UP k, 1), (SLT_LSTAT.FLIT k, if link.flit then 1 else 0), (SLT_LSTAT.SPEED k, link.speed), (SLT_LSTAT.WIDTH k, link.width)]).setSlot k slotChecking

theorem State.shownLink_rd (s : State) (k : Nat) (link : SlotLink) (h : link.speed < 16) (h' : link.width < 4) :
    (s.shownLink k link).rd (SLT_STAT.STATE k) = slotChecking ∧ (s.shownLink k link).rd (SLT_LSTAT.UP k) = 1 ∧
      (s.shownLink k link).rd (SLT_LSTAT.SPEED k) = link.speed ∧ (s.shownLink k link).rd (SLT_LSTAT.WIDTH k) = link.width := by
  have hrd {g : Fld} (hg : g.addr = SLT_LSTAT.addr k) : (s.shownLink k link).rd g = ((((s.wr (SLT_LSTAT.UP k) 1).wr (SLT_LSTAT.FLIT k) (if link.flit then 1 else 0)).wr
      (SLT_LSTAT.SPEED k) link.speed).wr (SLT_LSTAT.WIDTH k) link.width).rd g := by
    rw [State.shownLink, State.setSlot_rd (.inl (by rw [hg]; exact blockAddr_ne (by decide))), State.wrs_cons, State.wrs_cons, State.wrs_cons, State.wrs_cons, State.wrs_nil]
  refine ⟨State.setSlot_state (by decide), ?_, ?_, ?_⟩
  · rw [hrd rfl, State.rd_wr_apart rfl, State.rd_wr_apart rfl, State.rd_wr_apart rfl, State.rd_wr_val rfl]
  · rw [hrd rfl, State.rd_wr_apart rfl, State.rd_wr_fits (by simp [Fld.inWord, SLT_LSTAT.SPEED]) h]
  · rw [hrd rfl, State.rd_wr_fits (by simp [Fld.inWord, SLT_LSTAT.WIDTH]) h']

/-- The state in which a link is judged and reported (R353). -/
def State.reportedLink (s : State) (k : Nat) (degraded : Bool) : State :=
  ((if degraded then s.flagFault (SLT_LSTAT.DEGRADED k) 4 1 (0x28 + k) k else s).slotEvent k (SLT_EVT.LINK_CHG k)).emit (.driveAdmin k .enable)

/-- A fault shown in a slot's register leaves the other fields of the slot's registers. -/
theorem State.flagFault_slt (s : State) (f : Fld) (cls severity source addr : Nat) {g : Fld} (h : inBlock .slt g.addr = true) :
    (s.flagFault f cls severity source addr).rd g = (s.wr f 1).rd g :=
  (show After 0x603400110000c0 (s.wr f 1) _ from State.fault_after _ _ (.of_and_eq rfl) (.refl _)).rd .slt h rfl

theorem State.reportedLink_rd (s : State) (k : Nat) (degraded : Bool) {g : Fld} (h : inBlock .slt g.addr = true) (hne : g.addr ≠ SLT_EVT.addr k)
    (hapart : g.addr ≠ SLT_LSTAT.addr k ∨ g.hi < 29 ∨ 29 < g.lo) : (s.reportedLink k degraded).rd g = s.rd g := by
  rw [State.reportedLink, State.rd_emit, State.slotEvent_rd h, State.rd_wr_ne (.inl hne)]
  cases degraded
  · rfl
  · rw [if_pos rfl, State.flagFault_slt _ _ _ _ _ _ h, State.rd_wr_ne (hapart.imp id fun h => ⟨by simp [Fld.inWord, SLT_LSTAT.DEGRADED], h⟩)]

theorem State.reportedLink_degraded (s : State) (k : Nat) : (s.reportedLink k true).rd (SLT_LSTAT.DEGRADED k) = 1 := by
  rw [State.reportedLink, State.rd_emit, State.slotEvent_rd inBlock_slt, State.rd_wr_ne (.inl (blockAddr_ne (by decide))), if_pos rfl,
    State.flagFault_slt _ _ _ _ _ _ inBlock_slt, State.rd_wr_val rfl]

end

/-- Settles O33: each command by what its rule shows of the slot. -/
theorem slotInsertionCommandsComplete : Obligations.SlotInsertionCommandsComplete := by
  intro s k hrun hk
  refine ⟨fun hempty => ?_, fun hdebounce hnot => ?_, fun hdebounce htime => ⟨fun hoff => ?_, fun hoff hlist => ?_, fun hoff hlist => ?_⟩, fun hpower htime => ?_,
    fun htrain => ⟨fun link htime haccept => ?_, fun htime => ?_⟩, fun hcheck report => ⟨fun reason more hfailed => ?_, fun hfailed => ?_⟩,
    fun hpresent => ⟨fun r hflags hwarn htemp => ?_, ?_⟩, fun slots => ?_, fun hlink htime => ?_⟩
  · exact ⟨_, by rw [exec_presenceChange, execPresenceChange, onSoc_of_running hrun, if_pos (by simp [hk, hempty])], State.setSlot_state (by decide),
      by rw [State.setSlot_slotHold], State.setSlot_mem _, State.setSlot_out _⟩
  · exact ⟨_, by rw [exec_slotDebounceBreak, execSlotDebounceBreak, onSoc_of_running hrun, if_pos (by simp [hdebounce, hnot])], State.setSlot_state (by decide),
      by rw [State.setSlot_slotHold], State.setSlot_mem _, State.setSlot_out _⟩
  · refine ⟨(s.shownPresent k).setSlot k slotOff, ?_, State.setSlot_state (by decide), ?_, ?_⟩
    · rw [exec_slotDebounceEnd, execSlotDebounceEnd, onSoc_of_running hrun, if_pos (by simp [hdebounce, htime]), ← State.shownPresent, State.slotGo,
        State.shownPresent_slots, if_pos (by simpa using hoff)]
    · rw [State.setSlot_rd (.inr (by simp [SLT_STAT.PRSNT])), State.shownPresent_present]
    · rw [State.setSlot_rd (.inr (by simp [SLT_EVT.PRSNT_CHG])), State.shownPresent_event]
  · refine ⟨(s.shownPresent k).powerSlot k, ?_, ?_, ?_, ?_, ?_, State.powerSlot_pulled _ k⟩
    · rw [exec_slotDebounceEnd, execSlotDebounceEnd, onSoc_of_running hrun, if_pos (by simp [hdebounce, htime]), ← State.shownPresent, State.slotGo,
        State.shownPresent_slots, if_neg (by simpa using hoff), if_pos hlist]
    · rw [State.powerSlot_rd, State.setSlot_state (by decide)]
    · rw [State.powerSlot_rd, State.setSlot_rd (.inr (by simp [SLT_STAT.PRSNT])), State.rd_wr_apart rfl, State.rd_wr_apart rfl, State.shownPresent_present]
    · rw [State.powerSlot_rd, State.setSlot_rd (.inr (by simp [SLT_STAT.PWR_OWN])), State.rd_wr_apart rfl, State.rd_wr_val rfl]
    · rw [State.powerSlot_rd, State.setSlot_rd (.inr (by simp [SLT_STAT.PWR_NET])), State.rd_wr_val rfl]
  · refine ⟨(s.shownPresent k).onHold k fun h => { h with debounced := true }, ?_, ?_, ?_, ?_⟩
    · rw [exec_slotDebounceEnd, execSlotDebounceEnd, onSoc_of_running hrun, if_pos (by simp [hdebounce, htime]), ← State.shownPresent, State.slotGo,
        State.shownPresent_slots, if_neg (by simpa using hoff), if_neg (by simp [hlist])]
    · rw [State.rd_onHold, ← State.slotState, State.shownPresent_state, hdebounce]
    · rw [State.slotHold_onHold]
      rfl
    · rw [State.rd_onHold, State.shownPresent_present]
  · refine ⟨(s.setSlot k slotTraining).emit (.pin (.slotReset k) true), ?_, by rw [State.rd_emit, State.setSlot_state (by decide)], ?_, ?_⟩
    · rw [exec_slotPoweringEnd, execSlotPoweringEnd, onSoc_of_running hrun, if_pos (by simp [hpower, htime])]
    · rw [State.emit, State.onOut_out, State.setSlot_out]
    · rw [State.emit_mem, State.setSlot_mem]
  · have haccepted := haccept
    simp only [linkAccepted, Bool.and_eq_true, Bool.or_eq_true, decide_eq_true_eq, beq_iff_eq] at haccepted
    obtain ⟨⟨⟨hslow, hfast⟩, hwidth⟩, -⟩ := haccepted
    obtain ⟨hstate, hup, hspeed, hlanes⟩ := s.shownLink_rd k link (by omega) (by omega)
    have hlstat {g : Fld} (hg : g.addr = SLT_LSTAT.addr k) (hapart : g.hi < 29 ∨ 29 < g.lo) :
        ((s.shownLink k link).reportedLink k (linkDegraded link)).rd g = (s.shownLink k link).rd g :=
      State.reportedLink_rd _ k _ (by rw [hg]; exact inBlock_slt) (by rw [hg]; exact blockAddr_ne (by decide)) (.inr hapart)
    refine ⟨(s.shownLink k link).reportedLink k (linkDegraded link), ?_, ?_, ?_, ?_, ?_, fun hdegraded => ?_⟩
    · rw [exec_slotLinkUp, execSlotLinkUp, onSoc_of_running hrun, if_neg (by simp [htrain, htime, haccept]), ← State.shownLink]
      rfl
    · rw [State.reportedLink_rd _ k _ inBlock_slt (blockAddr_ne (by decide)) (.inl (blockAddr_ne (by decide))), hstate]
    · rw [hlstat rfl (.inr (by simp [SLT_LSTAT.UP])), hup]
    · rw [hlstat rfl (.inl (by simp [SLT_LSTAT.SPEED])), hspeed]
    · rw [hlstat rfl (.inl (by simp [SLT_LSTAT.WIDTH])), hlanes]
    · rw [hdegraded, State.reportedLink_degraded]
  · refine ⟨((s.wr (SLT_STAT.REASON k) 1).setSlot k slotRefused).emit (.pin (.slotReset k) false), ?_, ?_, ?_, ?_⟩
    · rw [exec_slotTrainingTimeout, execSlotTrainingTimeout, onSoc_of_running hrun, if_pos (by simp [htrain, htime])]
    · rw [State.rd_emit, State.setSlot_state (by decide)]
    · rw [State.rd_emit, State.setSlot_rd (.inr (by simp [SLT_STAT.REASON])), State.rd_wr_val rfl]
    · rw [State.emit, State.onOut_out, State.setSlot_out, State.wr_out]
  · refine ⟨((s.onSlots fun x => { x with reports := putBy (·.1) (k, report) x.reports }).wr (SLT_STAT.REASON k) reason).setSlot k slotRefused, ?_,
      State.setSlot_state (by decide), ?_, ?_⟩
    · rw [exec_slotCheckComplete, execSlotCheckComplete, onSoc_of_running hrun, if_neg (by simp [hcheck]), hfailed]
    · rw [State.setSlot_rd (.inr (by simp [SLT_STAT.REASON])), State.rd_wr_fits (by simp [Fld.inWord, SLT_STAT.REASON])]
      have hmem : reason ∈ failedChecks report := by rw [hfailed]; exact List.mem_cons_self
      exact Nat.lt_of_lt_of_le (failedChecks_lt hmem) (by simp [SLT_STAT.REASON])
    · rw [State.setSlot_out, State.wr_out, State.onSlots_out]
  · obtain ⟨u, hu⟩ : ∃ u, u = ((s.onSlots fun x => { x with reports := putBy (·.1) (k, report) x.reports }).wr (SLT_STAT.REASON k) 0).setSlot k slotReady := ⟨_, rfl⟩
    obtain ⟨v, hv⟩ : ∃ v, v = u.onStore fun x => { x with slotBlocks := putPerSet x.slotBlocks k report.blocks } := ⟨_, rfl⟩
    obtain ⟨w, hw⟩ : ∃ w, w = (v.notify (.slotEvent k (BitVec.ofNat 32 (v.reg (SLT_EVT.addr k)).toNat))).tellPeerSlot 5 k 0 := ⟨_, rfl⟩
    obtain ⟨t, ht⟩ : ∃ t, t = match w.memberOfSlot k with
      | some (set, _) => if w.store.assembled.contains set then w.registerOn k else w
      | none => w := ⟨_, rfl⟩
    have hreported : After 0x40340011000080 v w := hw ▸ State.tellPeerSlot_after _ _ _ _ (State.notify_after _ _ (.of_and_eq rfl) (.refl v))
    have hregistered : After 0x10000200001 w t := by
      rw [ht]
      split
      · split
        · exact State.registerOn_after _ _ (.of_and_eq rfl) (.refl w)
        · exact .refl w
      · exact .refl w
    have hrd {g : Fld} (h : inBlock .slt g.addr = true) : t.rd g = u.rd g := by
      rw [hregistered.rd .slt h rfl, hreported.rd .slt h rfl, hv, State.rd_onStore]
    refine ⟨t, ?_, ?_, ?_, ?_⟩
    · rw [exec_slotCheckComplete, execSlotCheckComplete, onSoc_of_running hrun, if_neg (by simp [hcheck]), hfailed]
      dsimp only
      rw [← hu, ← hv, ← hw, ht] <;> rfl
    · rw [hrd inBlock_slt, hu, State.setSlot_state (by decide)]
    · rw [hrd inBlock_slt, hu, State.setSlot_rd (.inr (by simp [SLT_STAT.REASON])), State.rd_wr_val rfl]
    · rw [hregistered.part .store rfl, hreported.part .store rfl, hv, State.onStore_store, hu, State.setSlot_store, State.wr_store, State.onSlots_store]
  · obtain ⟨u, hu⟩ : ∃ u, u = (((s.wr (SLT_MI.MI_OK k) 1).wr (SLT_MI.FLAGS k) r.flags).wr (SLT_MI.WARN k) r.warn).wr (SLT_MI.TEMP k) r.temp := ⟨_, rfl⟩
    refine ⟨u.onHold k fun h => { h with miFails := 0 }, ?_, ?_, ?_, ?_, ?_⟩
    · rw [exec_sidebandPoll, execSidebandPoll, onSoc_of_running hrun, if_neg (by simp [hpresent]), hu]
      rfl
    · rw [State.rd_onHold, hu, State.rd_wr_apart rfl, State.rd_wr_apart rfl, State.rd_wr_apart rfl, State.rd_wr_val rfl]
    · rw [State.rd_onHold, hu, State.rd_wr_fits (by simp [Fld.inWord, SLT_MI.TEMP]) htemp]
    · rw [State.slotHold_onHold]
      rfl
    · rw [State.onHold, State.onSlots_out, hu, State.wr_out, State.wr_out, State.wr_out, State.wr_out]
  · obtain ⟨u, hu⟩ : ∃ u, u = ((s.wr (SLT_MI.MI_OK k) 0).count (SLT_MI_ERR.addr k)).onHold k fun h => { h with miFails := (s.slotHold k).miFails + 1 } := ⟨_, rfl⟩
    obtain ⟨t, ht⟩ : ∃ t, t = if (s.slotHold k).miFails + 1 = 3 then (u.flagFault (SLT_EVT.MI_FAIL k) 4 1 (0x28 + k) k).slotEvent k (SLT_EVT.MI_FAIL k) else u := ⟨_, rfl⟩
    have hok : u.rd (SLT_MI.MI_OK k) = 0 := by
      rw [hu, State.rd_onHold, State.rd_count_ne (blockAddr_ne (by decide)), State.rd_wr_val rfl]
    have hfails : (u.slotHold k).miFails = (s.slotHold k).miFails + 1 := by
      rw [hu, State.slotHold_onHold]
      rfl
    have hslots : t.slots = u.slots := by
      rw [ht]
      split
      · rw [(State.slotEvent_frame _ k _).part .slots rfl, State.wr_slots, State.flagFault,
          (State.fault_after _ _ (.of_and_eq rfl) (.refl _) : After 0x603400110000c0 _ _).part .slots rfl, State.wr_slots]
      · rfl
    refine ⟨t, ?_, ?_, ?_, fun htwo => ?_⟩
    · rw [exec_sidebandPoll, execSidebandPoll, onSoc_of_running hrun, if_neg (by simp [hpresent]), ht, hu]
    · rw [ht]
      split
      · rw [State.slotEvent_rd inBlock_slt, State.rd_wr_ne (.inl (blockAddr_ne (by decide))), State.flagFault_slt _ _ _ _ _ _ inBlock_slt,
          State.rd_wr_ne (.inl (blockAddr_ne (by decide))), hok]
      · exact hok
    · rw [State.slotHold_of_slots hslots, hfails]
    · rw [ht, if_pos (by omega), State.slotEvent_rd inBlock_slt, State.rd_wr_val rfl]
  · rw [exec_offListReceived, execOffListReceived, onSoc_of_running hrun]
  · rw [exec_offListTimeout, execOffListTimeout, onSoc_of_running hrun, if_neg (by simp; omega)]

end Sys2Proof.Machine
end

section
/-! A slot's removal, containment and SLT_CMD. -/

set_option Elab.async false

namespace Sys2Proof.Machine

theorem quietRegister_SLT_CMD : ∀ k < 48, quietRegister (SLT_CMD.addr k) = true := by decide +kernel

/-- What a slot command that has run shows (R348). -/
def State.slotCommandEnded (t : State) (k st : Nat) : State := t.wrs [(SLT_CMD.STATUS k, st), (SLT_CMD.BUSY k, if (t.slotHold k).ending then 1 else 0)]

/-- A slot command that is free to run does so and is answered. -/
theorem State.slotCommand_runs {s : State} {who : Requester} {k op : Nat} {act : State → Nat × State} (hk : k < 48) (hopens : s.Opens who (SLT_CMD.addr k))
    (hbusy : s.flag (SLT_CMD.BUSY k) = false) :
    s.slotCommand who k op act = ((act s).2.slotCommandEnded k (act s).1).answered who (SLT_CMD.addr k) (BitVec.ofNat 32 (op * 2 ^ 16)) := by
  rw [State.slotCommand, if_neg (by omega), State.commandWrite_quiet (quietRegister_SLT_CMD k hk) hopens, hbusy, if_neg (by decide), State.slotCommandEnded]

theorem State.slotCommandEnded_status (t : State) (k : Nat) {st : Nat} (h : st < 16) : (t.slotCommandEnded k st).rd (SLT_CMD.STATUS k) = st := by
  rw [State.slotCommandEnded, State.wrs_cons, State.wrs_cons, State.wrs_nil, State.rd_wr_apart rfl, State.rd_wr_fits (by simp [Fld.inWord, SLT_CMD.STATUS]) h]

theorem State.slotCommandEnded_rd (t : State) (k st : Nat) {g : Fld} (h : g.addr ≠ SLT_CMD.addr k) : (t.slotCommandEnded k st).rd g = t.rd g := by
  rw [State.slotCommandEnded, State.wrs_cons, State.wrs_cons, State.wrs_nil, State.rd_wr_ne (.inl h), State.rd_wr_ne (.inl h)]

theorem State.slotLinkDown_up (s : State) (k : Nat) : (s.slotLinkDown k).rd (SLT_LSTAT.UP k) = 0 := by
  rw [State.slotLinkDown]
  split
  next hup =>
    rw [State.slotEvent_rd inBlock_slt, State.rd_wr_ne (.inl (blockAddr_ne (by decide))), State.rd]
    simp only [SLT_LSTAT.UP, State.reg_setReg_self]
    rfl
  next hdown =>
    simpa [State.flag] using hdown

theorem State.slotLinkDown_slotHold (s : State) (k : Nat) : (s.slotLinkDown k).slotHold k = s.slotHold k :=
  State.slotHold_of_slots ((State.slotLinkDown_after (T := 0x40360011000080) s k (.of_and_eq rfl) (.refl s)).part .slots rfl) k

/-- A press of the attention button is shown and reported (R351). -/
def State.shownPress (s : State) (k : Nat) : State := (s.wr (SLT_STAT.ATTN k) 1).slotEvent k (SLT_EVT.ATTN_PRESS k)

theorem State.shownPress_attn (s : State) (k : Nat) : (s.shownPress k).rd (SLT_STAT.ATTN k) = 1 := by
  rw [State.shownPress, State.slotEvent_rd inBlock_slt, State.rd_wr_ne (.inl (blockAddr_ne (by decide))), State.rd_wr_val rfl]

theorem State.shownPress_event (s : State) (k : Nat) : (s.shownPress k).rd (SLT_EVT.ATTN_PRESS k) = 1 := by
  rw [State.shownPress, State.slotEvent_rd inBlock_slt, State.rd_wr_val rfl]

theorem State.shownPress_state (s : State) (k : Nat) : (s.shownPress k).slotState k = s.slotState k := by
  rw [State.slotState, State.shownPress, State.slotEvent_rd inBlock_slt, State.rd_wr_ne (.inl (blockAddr_ne (by decide))), State.rd_wr_apart rfl, State.slotState]

theorem State.shownPress_slotHold (s : State) (k : Nat) : (s.shownPress k).slotHold k = s.slotHold k :=
  State.slotHold_of_slots (by rw [State.shownPress, (State.slotEvent_frame _ k _).part .slots rfl, State.wr_slots, State.wr_slots]) k

theorem State.shownPress_slotTime (s : State) (k ms : Nat) : (s.shownPress k).slotTime k ms = s.slotTime k ms := by
  have hclock : (s.shownPress k).clock = s.clock := by rw [State.shownPress, (State.slotEvent_frame _ k _).part .clock rfl, State.wr_clock, State.wr_clock]
  rw [State.slotTime, State.shownPress_slotHold, State.now, hclock, ← State.now, ← State.slotTime]

theorem State.setSlot_state_mod (s : State) (k st : Nat) : (s.setSlot k st).rd (SLT_STAT.STATE k) = st % 16 := by
  rw [State.setSlot, State.rd_onHold, State.rd_wr_self (by simp [Fld.inWord, SLT_STAT.STATE])]
  simp [SLT_STAT.STATE]

/-- A press that the module looks at (R351): its button is enabled. -/
theorem exec_attentionPress_enabled {s : State} {k : Nat} (hrun : s.running = true) (hen : s.flag (SLT_CTL.ATTN_EN k) = true) :
    exec (.attentionPress k true) s = .next (
      if s.slotState k = slotRemoving then
        if (s.slotHold k).ending || s.slotTime k 5000 then s.shownPress k else ((s.shownPress k).setSlot k (s.slotHold k).back).slotEvent k (SLT_EVT.CANCEL k)
      else if !slotRemovable (s.slotState k) then s.shownPress k
      else if s.slotState k == slotReady && (s.shownPress k).removalRefused k then (s.shownPress k).refuseRemoval k
      else ((s.shownPress k).onHold k fun h => { h with back := s.slotState k }).setSlot k slotRemoving) := by
  have henabled : (s.wr (SLT_STAT.ATTN k) 1).flag (SLT_CTL.ATTN_EN k) = true := by
    rw [State.flag, State.rd_wr_ne (.inl (blockAddr_ne (by decide))), ← State.flag, hen]
  rw [exec_attentionPress, execAttentionPress, onSoc_of_running hrun]
  simp only [if_pos, henabled, Bool.not_true, Bool.or_false, Bool.false_eq_true, if_false]
  rw [← State.shownPress, State.shownPress_state, State.shownPress_slotHold, State.shownPress_slotTime]

theorem State.slotOffCommand_runs {s : State} {k : Nat} {forced : Bool} (hstate : slotRemovable (s.slotState k) = true ∨ s.slotState k = slotRemoving)
    (hending : (s.slotHold k).ending = false) (hallowed : ¬ (s.slotState k == slotReady && !forced && s.removalRefused k) = true) :
    s.slotOffCommand k forced = (0, s.endRemoval k) := by
  rw [State.slotOffCommand, if_neg, if_neg hallowed]
  obtain h | h := hstate <;> simp [h, hending]

/-- Settles O34: each command by what its rule does to the slot. -/
theorem slotRemovalCommandsComplete : Obligations.SlotRemovalCommandsComplete := by
  refine ⟨fun s k hrun hk => ⟨?_, fun hen => ⟨fun hstate hending htime => ?_, fun u hremovable hu hready => ?_⟩, fun hstate hending htime => ?_,
      fun hready reason hreason => ?_, fun hready => ?_, fun hfull => ?_⟩,
    fun s k hrun hk => ⟨fun reason set u hlive => ?_, fun u hu => ?_, ?_, fun hlive => ?_⟩,
    fun s who k a hrun hk ha hopens hbusy => ⟨fun hoff => ?_, fun u hu hstate hending hrefused => ?_, fun u hu hstate hending => ?_, fun hstate => ?_,
      fun hstate hprep hreason => ?_⟩,
    fun s u op o hrun hfind => ⟨fun htime hu => ⟨fun hfew => ?_, fun hmany hstate => ?_, fun hmany hstate => ?_⟩, fun hfew => ?_, fun hmany hkind => ?_,
      fun hmany hkind hu => ?_⟩⟩
  · exact ⟨s.wr (SLT_STAT.ATTN k) 0, by rw [exec_attentionPress, execAttentionPress, onSoc_of_running hrun]; rfl, State.rd_wr_val rfl, State.wr_slots _ _ _, State.wr_out _ _ _⟩
  · refine ⟨((s.shownPress k).setSlot k (s.slotHold k).back).slotEvent k (SLT_EVT.CANCEL k), ?_, ?_, ?_, ?_⟩
    · rw [exec_attentionPress_enabled hrun hen, if_pos hstate, hending, htime, if_neg (by decide)]
    · rw [State.slotEvent_rd inBlock_slt, State.rd_wr_ne (.inl (blockAddr_ne (by decide))), State.setSlot_rd (.inr (by simp [SLT_STAT.ATTN])), State.shownPress_attn]
    · rw [State.slotEvent_rd inBlock_slt, State.rd_wr_val rfl]
    · rw [State.slotEvent_rd inBlock_slt, State.rd_wr_ne (.inl (blockAddr_ne (by decide))), State.setSlot_state_mod]
  · have hnot : s.slotState k ≠ slotRemoving := fun h => absurd hremovable (by rw [h]; decide)
    have hfree : ¬ (s.slotState k == slotReady && u.removalRefused k) = true := by simpa using hready
    obtain rfl : u = s.shownPress k := hu
    refine ⟨_, ?_, rfl, State.setSlot_state (by decide), ?_, ?_⟩
    · rw [exec_attentionPress_enabled hrun hen, if_neg hnot, hremovable, if_neg (by decide), if_neg hfree]
    · rw [State.setSlot_slotHold]
      dsimp only
      rw [State.slotHold_onHold]
      rfl
    · rw [State.setSlot_rd (.inl (blockAddr_ne (by decide))), State.rd_onHold, State.shownPress_event]
  · rw [exec_removalTimerEnd, execRemovalTimerEnd, onData_of_running hrun, if_pos (by simp [hstate, hending, htime])]
  · rw [exec_containment, execContainment, onData_of_running hrun, if_pos hready, if_neg hreason]
  · rw [exec_containment, execContainment, onData_of_running hrun, if_pos hready, if_pos rfl]
  · obtain ⟨v, hv⟩ : ∃ v, v = if s.slotState k = slotReady then s.containSlot k 8 else ((s.slotMemberFails k 8).opsLost k).slotLinkDown k := ⟨_, rfl⟩
    obtain ⟨w, hw⟩ : ∃ w, w = (((v.releaseSlotPower k).setSlot k slotEmpty).wr (SLT_STAT.PRSNT k) 0).wr (SLT_CMD.BUSY k) 0 := ⟨_, rfl⟩
    obtain ⟨x, hx⟩ : ∃ x, x = ((w.onSlots fun x => { x with reports := x.reports.filter (·.1 != k) }).onToken fun t => { t with
      registered := t.registered.filter (· != k) }).onStore fun x => { x with slotBlocks := x.slotBlocks.filter (·.1 != k) } := ⟨_, rfl⟩
    have hrd (f : Fld) : x.rd f = w.rd f := by rw [hx, State.rd_onStore, State.rd_onToken, State.rd_onSlots]
    refine ⟨x.slotEvent k (SLT_EVT.PRSNT_CHG k), ?_, ?_, ?_, ?_, ?_⟩
    · rw [exec_surpriseRemoval, execSurpriseRemoval, onData_of_running hrun, if_neg hfull]
      dsimp only
      rw [← hv, ← hw, ← hx]
    · rw [State.slotEvent_rd inBlock_slt, State.rd_wr_ne (.inl (blockAddr_ne (by decide))), hrd, hw, State.rd_wr_ne (.inl (blockAddr_ne (by decide))), State.rd_wr_apart rfl,
        State.setSlot_state (by decide)]
    · rw [State.slotEvent_rd inBlock_slt, State.rd_wr_ne (.inl (blockAddr_ne (by decide))), hrd, hw, State.rd_wr_ne (.inl (blockAddr_ne (by decide))), State.rd_wr_val rfl]
    · rw [State.slotEvent_rd inBlock_slt, State.rd_wr_val rfl]
    · have hholds : (x.slotEvent k (SLT_EVT.PRSNT_CHG k)).slotHold k = ((v.releaseSlotPower k).setSlot k slotEmpty).slotHold k := by
        rw [State.slotHold, (State.slotEvent_frame x k _).part .slots rfl, State.wr_slots, hx, State.onStore_slots, State.onToken_slots, State.onSlots_slots, hw,
          State.wr_slots, State.wr_slots, State.slotHold]
      rw [hholds, State.setSlot_slotHold]
  · rw [exec_peerSlotEvent, execPeerSlotEvent, onData_of_running hrun]
    dsimp only
    rw [hlive]
  · rw [exec_peerSlotEvent, execPeerSlotEvent, onData_of_running hrun]
    dsimp only
    rw [← hu, show u.flag (SLT_STAT.PWR_OWN k) = s.flag (SLT_STAT.PWR_OWN k) by rw [hu, State.flag, State.rd_onSlots, State.flag]]
  · rw [exec_peerSlotEvent, execPeerSlotEvent, onData_of_running hrun]
  · rw [exec_peerSlotEvent, execPeerSlotEvent, onData_of_running hrun]
    dsimp only
    rw [if_pos (by simpa using hlive)]
  · subst ha
    refine ⟨_, by rw [exec_slotPowerOn, execSlotPowerOn, onSoc_of_running hrun, State.slotCommand_runs hk hopens hbusy, if_pos hoff], ?_, ?_, ?_, ?_⟩
    · rw [State.answered_rd, State.slotCommandEnded_status (st := 0) _ _ (by decide)]
    · rw [State.answered_rd, State.slotCommandEnded_rd _ _ _ (blockAddr_ne (by decide)), State.tellPeerSlot, State.rd_emit, State.powerSlot_rd, State.setSlot_state (by decide)]
    · rw [State.answered_rd, State.slotCommandEnded_rd _ _ _ (blockAddr_ne (by decide)), State.tellPeerSlot, State.rd_emit, State.powerSlot_rd,
        State.setSlot_rd (.inr (by simp [SLT_STAT.PWR_OWN])), State.rd_wr_apart rfl, State.rd_wr_val rfl]
    · rw [State.answered_slots, State.slotCommandEnded, State.wrs_keeps (π := (·.slots)) (fun _ _ _ => rfl), State.tellPeerSlot, State.emit_slots]
      exact State.powerSlot_pulled s k
  · subst ha
    rw [State.written_of_quiet (quietRegister_SLT_CMD k hk)] at hu hrefused
    rw [exec_slotOff, execSlotOff, onData_of_running hrun, State.slotCommand_runs hk hopens hbusy, State.slotOffCommand_runs hstate hending (by simpa using hrefused), ← hu]
    rfl
  · subst ha
    rw [State.written_of_quiet (quietRegister_SLT_CMD k hk)] at hu
    rw [exec_slotForcedOff, execSlotForcedOff, onData_of_running hrun, State.slotCommand_runs hk hopens hbusy, State.slotOffCommand_runs hstate hending (by simp), ← hu]
    rfl
  · subst ha
    refine ⟨_, by rw [exec_slotRetrain, execSlotRetrain, onSoc_of_running hrun, State.slotCommand_runs hk hopens hbusy, if_pos (by simpa using hstate)], ?_, ?_, ?_⟩
    · rw [State.answered_rd, State.slotCommandEnded_status (st := 0) _ _ (by decide)]
    · rw [State.answered_rd, State.slotCommandEnded_rd _ _ _ (blockAddr_ne (by decide)), State.rd_emits, State.setSlot_state (by decide)]
    · rw [State.answered_rd, State.slotCommandEnded_rd _ _ _ (blockAddr_ne (by decide)), State.rd_emits, State.setSlot_rd (.inl (blockAddr_ne (by decide))), State.slotLinkDown_up]
  · subst ha
    refine ⟨_, by rw [exec_slotPrepare, execSlotPrepare, onSoc_of_running hrun, State.slotCommand_runs hk hopens hbusy, if_neg (by simp [hstate]),
      if_neg (by simp [hprep, hreason]), if_pos rfl], ?_, ?_⟩
    · rw [State.answered_rd, State.slotCommandEnded_status (st := 0) _ _ (by decide)]
    · rw [State.answered_rd, State.slotCommandEnded_rd _ _ _ (blockAddr_ne (by decide)), State.setSlot_state (by decide)]
  · rw [exec_memberCommandTimeout, execMemberCommandTimeout, onData_of_running hrun, hfind]
    dsimp only
    rw [if_neg (by omega), ← hu, if_pos hfew]
  · rw [exec_memberCommandTimeout, execMemberCommandTimeout, onData_of_running hrun, hfind]
    dsimp only
    rw [if_neg (by omega), ← hu, if_neg (by omega), if_neg hstate]
  · rw [exec_memberCommandTimeout, execMemberCommandTimeout, onData_of_running hrun, hfind]
    dsimp only
    rw [if_neg (by omega), ← hu, if_neg (by omega), if_pos hstate]
  · rw [exec_memberCommandError, execMemberCommandError, onData_of_running hrun, hfind]
    dsimp only
    rw [if_pos hfew]
  · rw [exec_memberCommandError, execMemberCommandError, onData_of_running hrun, hfind]
    dsimp only
    rw [if_neg (by omega), if_pos (by simp [hkind])]
  · rw [exec_memberCommandError, execMemberCommandError, onData_of_running hrun, hfind]
    dsimp only
    rw [if_neg (by omega), if_neg (by simp [hkind]), ← hu]
    cases u.liveMember o.slot with
    | none => rfl
    | some m => rfl

end Sys2Proof.Machine
end

section
/-! The energy store. -/

set_option Elab.async false

namespace Sys2Proof.Machine

/-! A state of the store is shown and told. -/

theorem State.setStore_frame {s : State} {st : Nat} (h : s.rd NRG_STAT.STATE ≠ st) : After 0x40340011000080 (s.wr NRG_STAT.STATE st) (s.setStore st) := by
  rw [State.setStore, if_neg h]
  exact State.notify_after _ _ (.of_and_eq rfl) (.refl _)

theorem State.setStore_state {s : State} {st : Nat} (h : st < 8) : (s.setStore st).rd NRG_STAT.STATE = st := by
  by_cases hst : s.rd NRG_STAT.STATE = st
  · rw [State.setStore, if_pos hst, hst]
  · rw [(State.setStore_frame hst).rd .nrg (by decide) rfl, State.rd_wr_fits (by decide) h]

/-- Its other fields, and the other registers of the energy store, stay. -/
theorem State.setStore_rd {s : State} {st : Nat} {g : Fld} (hb : inBlock .nrg g.addr = true) (h : g.Apart NRG_STAT.STATE) : (s.setStore st).rd g = s.rd g := by
  by_cases hst : s.rd NRG_STAT.STATE = st
  · rw [State.setStore, if_pos hst]
  · rw [(State.setStore_frame hst).rd .nrg hb rfl, State.rd_wr_ne h]

theorem State.setStore_reg {s : State} {st a : Nat} (hb : inBlock .nrg a = true) (h : a ≠ NRG_STAT.addr) : (s.setStore st).reg a = s.reg a := by
  by_cases hst : s.rd NRG_STAT.STATE = st
  · rw [State.setStore, if_pos hst]
  · rw [(State.setStore_frame hst).reg .nrg hb rfl, State.reg_wr_ne h]

theorem State.setStore_within (s : State) (st : Nat) : After 0x40342011000080 s (s.setStore st) := State.setStore_after _ _ (.of_and_eq rfl) (.refl s)

theorem State.plainFault_within (s : State) (cls severity source addr : Nat) : After 0x603400110000c0 s (s.plainFault cls severity source addr) :=
  State.plainFault_after _ _ _ _ _ (.of_and_eq rfl) (.refl s)

/-- The store that fails shows it (Table 10.4). -/
theorem State.failStore_shows {s : State} (h : s.rd NRG_STAT.STATE ≠ 5) : s.failStore.rd NRG_STAT.STATE = 5 ∧ s.failStore.rd NRG_STAT.HEALTH = 2 := by
  rw [State.failStore, if_neg h]
  constructor
  · rw [(State.plainFault_within _ _ _ _ _).rd .nrg (by decide) rfl, State.setStore_state (by decide)]
  · rw [(State.plainFault_within _ _ _ _ _).rd .nrg (by decide) rfl, State.setStore_rd (by decide) (by decide), State.rd_wr_fits (by decide) (by decide)]

/-! The health of the store (R282). -/

theorem State.judgeStore_good {s : State} (h : 240000 ≤ s.rd NRG_EFULL.MJ) :
    s.judgeStore.rd NRG_STAT.STATE = s.rd NRG_STAT.STATE ∧ s.judgeStore.rd NRG_STAT.HEALTH = 0 := by
  rw [State.judgeStore]
  rw [if_neg (by omega), if_neg (by omega)]
  exact ⟨State.rd_wr_apart rfl, State.rd_wr_val rfl⟩

theorem State.judgeStore_worn {s : State} (h : 90000 ≤ s.rd NRG_EFULL.MJ) (h' : s.rd NRG_EFULL.MJ < 240000) :
    s.judgeStore.rd NRG_STAT.STATE = s.rd NRG_STAT.STATE ∧ s.judgeStore.rd NRG_STAT.HEALTH = 1 := by
  rw [State.judgeStore]
  rw [if_neg (by omega), if_pos h']
  split
  next hone => exact ⟨rfl, hone⟩
  next =>
    rw [(State.plainFault_within _ _ _ _ _).rd .nrg (by decide) rfl, (State.plainFault_within _ _ _ _ _).rd .nrg (by decide) rfl]
    exact ⟨State.rd_wr_apart rfl, State.rd_wr_val rfl⟩

theorem State.judgeStore_failed {s : State} (h : s.rd NRG_EFULL.MJ < 90000) : s.judgeStore = s.failStore := by
  rw [State.judgeStore]
  rw [if_pos h]

/-- Judging the store changes its status register alone in its block. -/
theorem State.judgeStore_reg {s : State} {a : Nat} (hb : inBlock .nrg a = true) (h : a ≠ NRG_STAT.addr) : s.judgeStore.reg a = s.reg a := by
  have hfault (t : State) : (t.plainFault 5 1 4).reg a = t.reg a := (State.plainFault_within t _ _ _ _).reg .nrg hb rfl
  rw [State.judgeStore]
  split
  · rw [State.failStore]
    split
    · rfl
    · rw [hfault, State.setStore_reg hb h, State.reg_wr_ne h]
  split
  · split
    · rfl
    · rw [hfault, State.reg_wr_ne h]
  · rw [State.reg_wr_ne h]

/-- R278: the energy condition stays as it is, or its change is shown and told. -/
theorem State.showCover_cases (s : State) (enough : Bool) : ∃ run, s.showCover enough = (s.onEnergy fun e => { e with coverRun := run }) ∨
    ∃ met b, s.showCover enough = (((s.onEnergy fun e => { e with coverRun := run }).wr NRG_STAT.COVER met).coverEvent.notify b) := by
  refine ⟨if enough then min 100 (s.energy.coverRun + 1) else 0, ?_⟩
  rw [State.showCover]
  generalize (if enough = true then min 100 (s.energy.coverRun + 1) else 0) = run
  dsimp only
  generalize (if run = 100 then 1 else if run = 0 then 0 else (s.onEnergy fun e => { e with coverRun := run }).rd NRG_STAT.COVER) = met
  split
  · exact .inl rfl
  · exact .inr ⟨_, _, rfl⟩

theorem State.coverTold_within (s : State) (b : NoticeBody) : After 0x40340111002281 s (s.coverEvent.notify b) :=
  State.notify_after _ _ (.of_and_eq rfl) (State.coverEvent_after _ (.of_and_eq rfl) (.refl s))

/-- It changes COVER alone in the store's block. -/
theorem State.showCover_reg {s : State} {a : Nat} (enough : Bool) (hb : inBlock .nrg a = true) (h : a ≠ NRG_STAT.addr) : (s.showCover enough).reg a = s.reg a := by
  obtain ⟨run, hstay | ⟨met, b, htold⟩⟩ := s.showCover_cases enough
  · rw [hstay]
    rfl
  · rw [htold, (State.coverTold_within _ b).reg .nrg hb rfl, State.reg_wr_ne h]
    rfl

theorem State.showCover_rd {s : State} {g : Fld} (enough : Bool) (hb : inBlock .nrg g.addr = true) (h : g.Apart NRG_STAT.COVER) : (s.showCover enough).rd g = s.rd g := by
  obtain ⟨run, hstay | ⟨met, b, htold⟩⟩ := s.showCover_cases enough
  · rw [hstay, State.rd_onEnergy]
  · rw [htold, (State.coverTold_within _ b).rd .nrg hb rfl, State.rd_wr_ne h, State.rd_onEnergy]

theorem State.showCover_level (s : State) (enough : Bool) : (s.showCover enough).energy.level = s.energy.level := by
  obtain ⟨run, hstay | ⟨met, b, htold⟩⟩ := s.showCover_cases enough
  · rw [hstay, State.onEnergy_energy]
  · rw [htold, (State.coverTold_within _ b).part .energy rfl, State.wr_energy, State.onEnergy_energy]

theorem State.showCeiling_keeps {β : Type} {π : State → β} (hwr : ∀ t f v, (f : Fld) = VLT_DEN.D ∨ f = VLT_CEIL.D ∨ f = VLT_STAT.LIMITED → π (State.wr t f v) = π t)
    (hcover : ∀ t b, π (State.showCover t b) = π t) (s : State) : π s.showCeiling = π s := by
  rw [State.showCeiling, hcover, State.wrs_cons, State.wrs_cons, State.wrs_cons, State.wrs_nil, hwr _ _ _ (.inr (.inr rfl)), hwr _ _ _ (.inr (.inl rfl)), hwr _ _ _ (.inl rfl)]

/-! One measurement (R276, R494). -/

/-- What a measurement shows, before the ends it may bring. -/
def State.measured (s : State) (v : Nat) : State :=
  let t := (if s.rd NRG_STAT.STATE = 1 then s.count NRG_CHARGE_MJ.addr (s.bankEnergy v / bankScale - s.energy.level) else s).onEnergy fun e => { e with
    level := s.bankEnergy v / bankScale }
  t.wr NRG_STAT.OVERDUE (if t.testOverdue then 1 else 0)

/-- The fields of the measurement. -/
def State.showMeasured (s : State) (v : Nat) : State :=
  s.wrs [(NRG_EUSE.MJ, s.usableEnergy v), (NRG_STAT.DERATE, if s.bankTemps.1 < 100 ∨ 600 < s.bankTemps.2 then 1 else 0),
    (NRG_TEMP.C, (BitVec.ofInt 8 (s.bankTemps.2 / 10)).toNat), (EFU_VIN.MV, s.rd (WFL_VAL.RAW 0)), (EFU_IIN.MA, 10 * s.rd (WFL_VAL.RAW 1))]

/-- What follows from it: the end of a discharge, the ceiling or the energy condition. -/
def State.measurementEnd (s : State) : State :=
  let s := if s.rd NRG_STAT.STATE = 4 && s.rd NRG_EUSE.MJ ≤ 750 then s.setStore 6 else s
  if s.power.on && !s.power.dormant && !s.clock.heldInReset then s.showCeiling else s.showCover (Decidable.decide (10 ^ 9 / 4096 ≤ s.energyBlocks))

theorem State.measured_reg (s : State) (v : Nat) {a : Nat} (h : a ≠ NRG_CHARGE_MJ.addr) (h' : a ≠ NRG_STAT.addr) : (s.measured v).reg a = s.reg a := by
  rw [State.measured, State.reg_wr_ne h', State.reg, State.onEnergy_regs, ← State.reg]
  split
  · rw [State.count, State.reg_setReg_ne h]
  · rfl

theorem State.measured_rd (s : State) (v : Nat) {f : Fld} (h : f.addr ≠ NRG_CHARGE_MJ.addr) (h' : f.addr ≠ NRG_STAT.addr) : (s.measured v).rd f = s.rd f := by
  rw [State.rd, s.measured_reg v h h', State.rd]

theorem State.measured_level (s : State) (v : Nat) : (s.measured v).energy.level = s.bankEnergy v / bankScale := by
  rw [State.measured, State.wr_energy, State.onEnergy_energy]

theorem State.measured_charge {s : State} (v : Nat) (h : s.rd NRG_STAT.STATE = 1) :
    (s.measured v).reg NRG_CHARGE_MJ.addr = s.reg NRG_CHARGE_MJ.addr + BitVec.ofNat 64 (s.bankEnergy v / bankScale - s.energy.level) := by
  rw [State.measured, State.reg_wr_ne (by decide), State.reg, State.onEnergy_regs, ← State.reg, if_pos h, State.count, State.reg_setReg_self]

theorem State.measured_bankTemps (s : State) (v : Nat) : (s.measured v).bankTemps = s.bankTemps := by
  rw [State.bankTemps, s.measured_rd v (by decide) (by decide), s.measured_rd v (by decide) (by decide), State.bankTemps]

theorem State.measured_bankEnergy (s : State) (v : Nat) : (s.measured v).bankEnergy v = s.bankEnergy v := by
  rw [State.bankEnergy, s.measured_rd v (by decide) (by decide), s.measured_rd v (by decide) (by decide), State.bankEnergy]

/-- R281: a measurement shows whether the last test is too old. -/
theorem State.measured_overdue (s : State) (v : Nat) : (s.measured v).flag NRG_STAT.OVERDUE = s.testOverdue := by
  rw [State.measured, State.flag_wr_level (by decide), State.testOverdue, State.testOverdue]
  split
  · rw [State.rd64, State.reg, State.onEnergy_regs, ← State.reg, State.count, State.reg_setReg_ne (by decide), State.rd_onEnergy, State.rd,
      State.reg_setReg_ne (by decide), ← State.rd]
    rfl
  · rfl

theorem State.measured_usableEnergy {s : State} (v : Nat) (h : s.testOverdue = s.flag NRG_STAT.OVERDUE) : (s.measured v).usableEnergy v = s.usableEnergy v := by
  rw [State.usableEnergy, s.measured_bankTemps, s.measured_bankEnergy, s.measured_overdue, h, State.usableEnergy]

theorem State.showMeasured_euse (s : State) (v : Nat) : (s.showMeasured v).rd NRG_EUSE.MJ = s.usableEnergy v % 2 ^ 20 := by
  rw [State.showMeasured, State.wrs_cons, State.wrs_cons, State.wrs_cons, State.wrs_cons, State.wrs_cons, State.wrs_nil, State.rd_wr_ne (.inl (by decide)),
    State.rd_wr_ne (.inl (by decide)), State.rd_wr_ne (.inl (by decide)), State.rd_wr_ne (.inl (by decide)), State.rd_wr_self (by decide)]
  rfl

theorem State.showMeasured_derate (s : State) (v : Nat) :
    (s.showMeasured v).rd NRG_STAT.DERATE = if s.bankTemps.1 < 100 ∨ 600 < s.bankTemps.2 then 1 else 0 := by
  rw [State.showMeasured, State.wrs_cons, State.wrs_cons, State.wrs_cons, State.wrs_cons, State.wrs_cons, State.wrs_nil, State.rd_wr_ne (.inl (by decide)),
    State.rd_wr_ne (.inl (by decide)), State.rd_wr_ne (.inl (by decide)), State.rd_wr_fits (by decide)]
  split <;> decide

theorem State.showMeasured_charge (s : State) (v : Nat) : (s.showMeasured v).reg NRG_CHARGE_MJ.addr = s.reg NRG_CHARGE_MJ.addr := by
  rw [State.showMeasured, State.wrs_cons, State.wrs_cons, State.wrs_cons, State.wrs_cons, State.wrs_cons, State.wrs_nil, State.reg_wr_ne (by decide),
    State.reg_wr_ne (by decide), State.reg_wr_ne (by decide), State.reg_wr_ne (by decide), State.reg_wr_ne (by decide)]

theorem State.measurementEnd_keeps {β : Type} {π : State → β} (hset : ∀ t st, π (State.setStore t st) = π t)
    (hwr : ∀ t f v, (f : Fld) = VLT_DEN.D ∨ f = VLT_CEIL.D ∨ f = VLT_STAT.LIMITED → π (State.wr t f v) = π t)
    (hcover : ∀ t b, π (State.showCover t b) = π t) (s : State) : π s.measurementEnd = π s := by
  have hend : π (if s.rd NRG_STAT.STATE = 4 && s.rd NRG_EUSE.MJ ≤ 750 then s.setStore 6 else s) = π s := by
    split
    · exact hset _ _
    · rfl
  rw [State.measurementEnd, ← hend]
  generalize (if s.rd NRG_STAT.STATE = 4 && s.rd NRG_EUSE.MJ ≤ 750 then s.setStore 6 else s) = t
  split
  · exact State.showCeiling_keeps hwr hcover _
  · exact hcover _ _

/-- What a measurement's end leaves of the store's registers. -/
theorem State.measurementEnd_reg (s : State) {a : Nat} (hb : inBlock .nrg a = true) (h : a ≠ NRG_STAT.addr) : s.measurementEnd.reg a = s.reg a := by
  refine State.measurementEnd_keeps (π := fun t => t.reg a) (fun _ _ => State.setStore_reg hb h) (fun t f v hf => State.reg_wr_ne ?_) (fun _ b => State.showCover_reg b hb h) s
  rintro rfl
  obtain rfl | rfl | rfl := hf <;> exact absurd hb (by decide)

theorem State.measurementEnd_derate (s : State) : s.measurementEnd.rd NRG_STAT.DERATE = s.rd NRG_STAT.DERATE := by
  refine State.measurementEnd_keeps (π := fun t => t.rd NRG_STAT.DERATE) (fun _ _ => State.setStore_rd (by decide) (by decide)) (fun t f v hf => State.rd_wr_ne (.inl ?_))
    (fun _ b => State.showCover_rd b (by decide) (by decide)) s
  obtain rfl | rfl | rfl := hf <;> decide

theorem State.measurementEnd_level (s : State) : s.measurementEnd.energy.level = s.energy.level :=
  State.measurementEnd_keeps (π := fun t => t.energy.level) (fun t st => by rw [(t.setStore_within st).part .energy rfl]) (fun t f v _ => by rw [State.wr_energy])
    (fun t b => t.showCover_level b) s

theorem exec_energyMeasurement_runs {s : State} (h : s.wallRuns = true) (v : Nat) :
    exec (.energyMeasurement v) s = .next ((s.measured v).showMeasured v).measurementEnd := by
  rw [exec_energyMeasurement, execEnergyMeasurement, onAlways, h, if_neg (by decide)]
  rfl

end Sys2Proof.Machine
end

section
/-! The commands of the energy store. -/

set_option Elab.async false

namespace Sys2Proof.Machine

theorem quietRegister_NRG_CMD : quietRegister NRG_CMD.addr = true := by decide +kernel

/-! The decision of a power failure (R493, R286). -/

/-- The decision as it is shown, before what the module keeps of it. -/
def State.shownDecision (s : State) : State :=
  let t := (s.wr WFL_STAT.PFD 1).count WFL_PFD.addr
  if t.rd NRG_STAT.STATE = 5 ∨ t.rd NRG_STAT.STATE = 6 then t else (t.setStore 4).count NRG_DISCHARGES.addr

/-- What the module keeps of it. -/
def State.keptDecision (s : State) (image : Bool) : State :=
  (s.onEnergy fun e => { e with
    decided := true, quiesced := false, writesImage := image, eStart := s.rd NRG_EUSE.MJ, decidedAt := s.now, decidedMeasure := s.measure }).onStore
    fun x => { x with ops := [], jobs := [] }

/-- A decision now writes an image, unless the module is Dormant or held in reset. -/
def State.imageNow (s : State) : Bool := s.wouldSeal && !s.power.dormant && !s.clock.heldInReset

theorem exec_powerFailDecision_decides {s : State} (hentry : s.entryState ≠ entryLatched) (hpfd : s.flag WFL_STAT.PFD = false) (hwall : s.wallRuns = true) :
    exec .powerFailDecision s = .next (if s.imageNow then (s.shownDecision.keptDecision s.imageNow).wr VLT_STAT.STATE 2 else s.shownDecision.keptDecision s.imageNow) := by
  rw [exec_powerFailDecision, execPowerFailDecision, onAlways, if_neg hentry, State.powerFailDecision, hpfd, hwall, if_neg (by decide)]
  rfl

theorem State.shownDecision_within (s : State) : After 0x40342011000080 ((s.wr WFL_STAT.PFD 1).count WFL_PFD.addr) s.shownDecision := by
  rw [State.shownDecision]
  split
  · exact .refl _
  · exact State.count_after _ _ _ (.block (m := 0x40342011000080) (.of_and_eq rfl) (by decide) rfl) (State.setStore_after _ _ (.of_and_eq rfl) (.refl _))

theorem State.shownDecision_pfd (s : State) : s.shownDecision.rd WFL_STAT.PFD = 1 := by
  rw [s.shownDecision_within.rd .wfl (by decide) rfl, State.rd_count_ne (by decide), State.rd_wr_val rfl]

theorem State.shownDecision_state {s : State} (h5 : s.rd NRG_STAT.STATE ≠ 5) (h6 : s.rd NRG_STAT.STATE ≠ 6) : s.shownDecision.rd NRG_STAT.STATE = 4 := by
  have hsame : ((s.wr WFL_STAT.PFD 1).count WFL_PFD.addr).rd NRG_STAT.STATE = s.rd NRG_STAT.STATE := by
    rw [State.rd_count_ne (by decide), State.rd_wr_ne (.inl (by decide))]
  rw [State.shownDecision, if_neg (by rw [hsame]; exact fun h => h.elim h5 h6), State.rd_count_ne (by decide), State.setStore_state (by decide)]

/-! A capacity test that is done (R495). -/

/-- What the test measured, as it is shown and counted. -/
def State.shownTest (s : State) (cap esr : Nat) : State :=
  ((s.wrs [(WFL_CAP.C, cap), (WFL_ESR.ESR, esr)]).count NRG_TESTS.addr).setReg NRG_LASTTEST.addr (BitVec.ofNat 64 (s.now / 10 ^ 9))

/-- EFULL at 44.0 V, and the store charges. -/
def State.shownFull (s : State) (e : Nat) : State := (s.wr NRG_EFULL.MJ e).setStore 1

theorem State.shownTest_wfl (s : State) (cap esr : Nat) {f : Fld} (h : f.addr ≠ NRG_LASTTEST.addr) (h' : f.addr ≠ NRG_TESTS.addr) :
    (s.shownTest cap esr).rd f = (s.wrs [(WFL_CAP.C, cap), (WFL_ESR.ESR, esr)]).rd f := by
  rw [State.shownTest, State.rd, State.reg_setReg_ne h, ← State.rd, State.rd_count_ne h']

theorem State.shownTest_bankEnergy (s : State) (cap esr v : Nat) :
    (s.shownTest cap esr).bankEnergy v = (s.wrs [(WFL_CAP.C, cap), (WFL_ESR.ESR, esr)]).bankEnergy v := by
  rw [State.bankEnergy, State.shownTest_wfl _ _ _ (by decide) (by decide), State.shownTest_wfl _ _ _ (by decide) (by decide), State.bankEnergy]

theorem exec_capacityTestDone_runs {s : State} (hwall : s.wallRuns = true) (hstate : s.rd NRG_STAT.STATE = 3) (cap esr : Nat) :
    exec (.capacityTestDone cap esr) s =
      .next ((s.shownTest cap esr).shownFull ((s.wrs [(WFL_CAP.C, cap), (WFL_ESR.ESR, esr)]).bankEnergy 8800000 / bankScale)).judgeStore := by
  have hnow : ((s.wrs [(WFL_CAP.C, cap), (WFL_ESR.ESR, esr)]).count NRG_TESTS.addr).now = s.now := by
    rw [State.now, State.count, State.setReg_clock, State.wrs_keeps (π := (·.clock)) (fun _ _ _ => rfl), State.now]
  rw [exec_capacityTestDone, execCapacityTestDone, onAlways, if_pos (by simp [hwall, hstate]), ← State.shownTest_bankEnergy, State.shownFull,
    State.shownTest, ← hnow]

theorem State.shownFull_within (s : State) (e : Nat) : After 0x40342011000080 s (s.shownFull e) :=
  State.setStore_after _ _ (.of_and_eq rfl) (State.wr_after _ _ _ (.block (m := 0x40342011000080) (.of_and_eq rfl) (by decide) rfl) (.refl s))

theorem State.shownFull_full {s : State} {e : Nat} (h : e < 2 ^ 20) : (s.shownFull e).rd NRG_EFULL.MJ = e := by
  rw [State.shownFull, State.setStore_rd (by decide) (by decide), State.rd_wr_fits (by decide) h]

theorem State.judgeStore_within (s : State) : After 0x603420110000c0 s s.judgeStore := State.judgeStore_after _ (.of_and_eq rfl) (.refl s)

/-- R286 step 4, with the state in which the domains are off. -/
theorem exec_quiesceComplete_runs {s u : State} (hdecided : s.energy.decided = true) (hquiesced : s.energy.quiesced = false)
    (hu : u = (s.onEnergy fun e => { e with quiesced := true }).each (s.quiesceDomains.filter fun d => s.domainState d != 2) fun d s => s.powerOffDomain d) :
    exec .quiesceComplete s = .next (if !u.energy.writesImage && u.rd NRG_STAT.STATE == 4 then u.setStore 6 else u) := by
  rw [exec_quiesceComplete, execQuiesceComplete, onAlways, hdecided, hquiesced, if_neg (by decide), hu]
  rfl

/-- Settles O35: each command by what its rule shows and keeps. -/
theorem energyStoreCommandsComplete : Obligations.EnergyStoreCommandsComplete := by
  refine ⟨fun s v hwall => ⟨_, exec_energyMeasurement_runs hwall v, ?_, ?_, fun hstate => ?_, fun hoverdue => ?_⟩,
    fun s hwall => ⟨fun hstate hlevel => ?_, fun hstate hlevel => ?_, fun unbalanced hstate hbad => ?_⟩, fun s who hrun hopens => ?_,
    fun s hrun hstate hdue hgranted hfits => ?_, fun s cap esr e hwall hstate hcap hesr he hfit => ?_, fun s hentry hpfd hwall => ?_,
    fun s u hdecided hquiesced hu => ⟨fun himage => ?_, fun himage hstate => ?_⟩⟩
  · rw [State.measurementEnd_level, State.showMeasured, State.wrs_keeps (π := (·.energy)) (fun _ _ _ => rfl), State.measured_level]
  · rw [State.measurementEnd_derate, State.showMeasured_derate, State.measured_bankTemps]
  · rw [State.measurementEnd_reg _ (by decide) (by decide), State.showMeasured_charge, State.measured_charge v hstate]
  · rw [State.rd, State.measurementEnd_reg _ (by decide) (by decide), ← State.rd, State.showMeasured_euse, State.measured_usableEnergy v hoverdue]
  · refine ⟨s.setStore 2, ?_, State.setStore_state (by decide), (s.setStore_within 2).part .energy rfl⟩
    rw [exec_chargeComplete, execChargeComplete, onAlways, if_pos (by simp [hwall, hstate, hlevel])]
  · refine ⟨s.setStore 1, ?_, State.setStore_state (by decide), (s.setStore_within 1).part .energy rfl⟩
    rw [exec_chargeLevelDrop, execChargeLevelDrop, onAlways, if_pos (by simp [hwall, hstate, hlevel])]
  · refine ⟨s.failStore, ?_, State.failStore_shows hstate⟩
    rw [exec_storeFailure, execStoreFailure, onAlways, if_pos (by simp [hwall, hbad])]
  · refine ⟨_, by rw [exec_nrgTestRequest, execNrgTestRequest, onSoc_of_running hrun, State.commandWrite_quiet quietRegister_NRG_CMD hopens], ?_, ?_⟩
    · rw [State.answered_energy, State.onEnergy_energy]
    · rw [State.answered_mem, State.onEnergy_mem]
  · refine ⟨(s.setStore 3).onEnergy fun e => { e with testDue := false }, ?_, ?_, ?_⟩
    · rw [exec_capacityTestStart, execCapacityTestStart, onSoc_of_running hrun, if_pos (by simp [hstate, hdue, hgranted, hfits])]
    · rw [State.rd_onEnergy, State.setStore_state (by decide)]
    · rw [State.onEnergy_energy, (s.setStore_within 3).part .energy rfl]
  · obtain ⟨t, ht⟩ : ∃ t, t = (s.shownTest cap esr).shownFull e := ⟨_, rfl⟩
    have hwfl {f : Fld} (hb : inBlock .wfl f.addr = true) (h : f.addr ≠ NRG_LASTTEST.addr) (h' : f.addr ≠ NRG_TESTS.addr) :
        t.judgeStore.rd f = (s.wrs [(WFL_CAP.C, cap), (WFL_ESR.ESR, esr)]).rd f := by
      rw [t.judgeStore_within.rd .wfl hb rfl, ht, (State.shownFull_within _ e).rd .wfl hb rfl, State.shownTest_wfl _ _ _ h h']
    have hfull : t.rd NRG_EFULL.MJ = e := by rw [ht, State.shownFull_full hfit]
    have hcharging : t.rd NRG_STAT.STATE = 1 := by rw [ht, State.shownFull, State.setStore_state (by decide)]
    refine ⟨t.judgeStore, by rw [exec_capacityTestDone_runs hwall hstate, ht, he], ?_, ?_, ?_, ?_, fun hgood => ?_, fun hlow hworn => ?_, fun hfailed => ?_⟩
    · rw [hwfl (by decide) (by decide) (by decide), State.wrs_cons, State.wrs_cons, State.wrs_nil, State.rd_wr_ne (.inl (by decide)), State.rd_wr_fits (by decide) hcap]
    · rw [hwfl (by decide) (by decide) (by decide), State.wrs_cons, State.wrs_cons, State.wrs_nil, State.rd_wr_fits (by decide) hesr]
    · rw [State.rd, State.judgeStore_reg (by decide) (by decide), ← State.rd, hfull]
    · rw [State.judgeStore_reg (by decide) (by decide), ht, State.shownFull, State.setStore_reg (by decide) (by decide), State.reg_wr_ne (by decide), State.shownTest,
        State.reg_setReg_self]
    · obtain ⟨hsame, hhealth⟩ := State.judgeStore_good (hfull.symm ▸ hgood)
      exact ⟨hsame.trans hcharging, hhealth⟩
    · obtain ⟨hsame, hhealth⟩ := State.judgeStore_worn (hfull.symm ▸ hlow) (hfull.symm ▸ hworn)
      exact ⟨hsame.trans hcharging, hhealth⟩
    · rw [State.judgeStore_failed (hfull.symm ▸ hfailed)]
      exact State.failStore_shows (by rw [hcharging]; decide)
  · obtain ⟨k, hk⟩ : ∃ k, k = s.shownDecision.keptDecision s.imageNow := ⟨_, rfl⟩
    obtain ⟨t, ht⟩ : ∃ t, t = if s.imageNow then k.wr VLT_STAT.STATE 2 else k := ⟨_, rfl⟩
    have henergy : t.energy = k.energy := by rw [ht, apply_ite State.energy, State.wr_energy, ite_self]
    have hstore : t.store = k.store := by rw [ht, apply_ite State.store, State.wr_store, ite_self]
    have hrd {f : Fld} (h : f.addr ≠ VLT_STAT.addr) : t.rd f = s.shownDecision.rd f := by
      have hkept : k.rd f = s.shownDecision.rd f := by rw [hk, State.keptDecision, State.rd_onStore, State.rd_onEnergy]
      rw [ht]
      split
      · rw [State.rd_wr_ne (.inl h), hkept]
      · exact hkept
    have hwrites : t.energy.writesImage = s.imageNow := by rw [henergy, hk, State.keptDecision, State.onStore_energy, State.onEnergy_energy]
    refine ⟨t, by rw [exec_powerFailDecision_decides hentry hpfd hwall, ht, hk], ?_, ?_, ?_, hwrites, ?_, ?_, fun h5 h6 => ?_, fun himage => ?_⟩
    · rw [hrd (by decide), State.shownDecision_pfd]
    · rw [henergy, hk, State.keptDecision, State.onStore_energy, State.onEnergy_energy]
    · rw [henergy, hk, State.keptDecision, State.onStore_energy, State.onEnergy_energy]
    · rw [henergy, hk, State.keptDecision, State.onStore_energy, State.onEnergy_energy]
      dsimp only
      rw [State.measure, s.shownDecision_within.part .clock rfl, State.count, State.setReg_clock, State.wr_clock, State.measure]
    · rw [hstore, hk, State.keptDecision, State.onStore_store, State.onEnergy_store, s.shownDecision_within.part .store rfl, State.count, State.setReg_store,
        State.wr_store]
    · rw [hrd (by decide), State.shownDecision_state h5 h6]
    · rw [hwrites] at himage
      rw [ht, if_pos himage, State.rd_wr_val rfl]
  · rw [exec_quiesceComplete_runs hdecided hquiesced hu, if_neg (by simpa using fun h => himage.resolve_left (by simp [h]))]
  · rw [exec_quiesceComplete_runs hdecided hquiesced hu, if_pos (by simp [himage, hstate])]

end Sys2Proof.Machine
end

section
/-! The vault: seals, restores and the assembly of a set. -/

set_option Elab.async false

namespace Sys2Proof.Machine

/-! Images. -/

theorem State.nextArea_lt (s : State) : s.nextArea < 2 := by
  rw [State.nextArea]
  split <;> omega

/-- The image to restore follows from the images alone. -/
theorem State.imageToRestore_of_images {s t : State} {bad : List Nat} (h : t.energy.images = s.energy.images.filter fun i => !bad.contains i.area) :
    t.imageToRestore [] = s.imageToRestore bad := by
  rw [State.imageToRestore, h, List.filter_filter, State.imageToRestore]
  congr 2
  funext i
  simp [Bool.and_comm]

theorem State.imageToRestore_congr {s t : State} (h : t.energy.images = s.energy.images) : t.imageToRestore [] = s.imageToRestore [] := by
  rw [State.imageToRestore, h, State.imageToRestore]

theorem State.showImages_keeps {β : Type} {π : State → β} (hset : ∀ s a v, π (State.setReg s a v) = π s) (s : State) : π s.showImages = π s := by
  rw [State.showImages]
  split
  · rw [State.wr_keeps hset, hset]
  · rfl

/-- The map's mirror is loaded into the store and the scrub positions, and its stale pages are forgotten (R291). -/
theorem State.loadMirror_keeps {β : Type} {π : State → β} (hset : ∀ s a v, π (State.setReg s a v) = π s) (hstore : ∀ s f, π (State.onStore s f) = π s)
    (hstale : ∀ s, π (State.onEnergy s fun e => { e with stalePages := [] }) = π s) (s : State) : π s.loadMirror = π s := by
  rw [State.loadMirror]
  split
  · exact hstore _ _
  · rw [hstale, State.each_keeps π fun p t => hset _ _ _, hstore]

theorem State.loadMirror_out (s : State) : s.loadMirror.out = s.out := State.loadMirror_keeps (π := (·.out)) (fun _ _ _ => rfl) (fun _ _ => rfl) (fun _ => rfl) s

theorem State.loadMirror_images (s : State) : s.loadMirror.energy.images = s.energy.images :=
  State.loadMirror_keeps (π := (·.energy.images)) (fun _ _ _ => rfl) (fun _ _ => rfl) (fun _ => rfl) s

/-- What a restore keeps of itself while it runs. -/
def State.restoreState (s : State) : List VaultImage × Option Nat × List RestoreChoice × List Nat :=
  (s.energy.images, s.energy.restoring, s.energy.choices, s.energy.restored)

theorem State.loadMirror_restoreState (s : State) : s.loadMirror.restoreState = s.restoreState :=
  State.loadMirror_keeps (π := State.restoreState) (fun _ _ _ => rfl) (fun _ _ => rfl) (fun _ => rfl) s

theorem State.loadMeta_within (s : State) (m : VaultMeta) : After 0x1000000600 s (s.loadMeta m) := State.loadMeta_after _ _ (.of_and_eq rfl) (.refl s)

theorem State.restoreState_of_energy {s t : State} (h : t.energy = s.energy) : t.restoreState = s.restoreState := by
  rw [State.restoreState, h, State.restoreState]

/-! A seal (R287). -/

/-- The image is kept and shown. -/
def State.sealNoted (s : State) (i : VaultImage) : State :=
  ((s.onEnergy fun e => { e with images := i :: e.images.filter (·.area != i.area), writesImage := false }).wrs
    [(VLT_STAT.STATE, 3), (VLT_STAT.AREA, i.area), (VLT_STAT.PARTIAL, if i.complete then 0 else 1)]).count VLT_DESTAGES.addr

/-- Its number is shown too. -/
def State.sealShown (s : State) (i : VaultImage) : State := (s.sealNoted i).setReg VLT_ISEQ.addr (BitVec.ofNat 64 i.iseq)

theorem State.sealShown_rd (s : State) (i : VaultImage) {f : Fld} (h : f.addr ≠ VLT_DESTAGES.addr) (h' : f.addr ≠ VLT_ISEQ.addr) :
    (s.sealShown i).rd f = ((((s.onEnergy fun e => { e with images := i :: e.images.filter (·.area != i.area), writesImage := false }).wr VLT_STAT.STATE 3).wr
      VLT_STAT.AREA i.area).wr VLT_STAT.PARTIAL (if i.complete then 0 else 1)).rd f := by
  rw [State.sealShown, State.rd, State.reg_setReg_ne h', ← State.rd, State.sealNoted, State.rd_count_ne h, State.wrs_cons, State.wrs_cons, State.wrs_cons, State.wrs_nil]

theorem State.sealShown_energy (s : State) (i : VaultImage) :
    (s.sealShown i).energy = { s.energy with images := i :: s.energy.images.filter (·.area != i.area), writesImage := false } := by
  rw [State.sealShown, State.setReg_energy, State.sealNoted, State.count, State.setReg_energy, State.wrs_keeps (π := (·.energy)) (fun _ _ _ => rfl), State.onEnergy_energy]

/-- With no input the module goes off once the image is sealed. -/
def State.sealed (s : State) (i : VaultImage) : State :=
  (((s.sealShown i).setStore (if (s.sealNoted i).rd NRG_STAT.STATE = 5 then 5 else 6)).goOff).wr WFL_STAT.CYCPEND 0

theorem exec_destageSeal_off {s : State} {whole extra : Nat} (hquiesced : s.energy.quiesced = true) (himage : s.energy.writesImage = true)
    (hstate : s.rd VLT_STAT.STATE = 2) (hgate : s.gateOn = false) : exec (.destageSeal whole extra) s = .next (s.sealed (s.sealedImage whole extra)) := by
  obtain ⟨c, hc⟩ : ∃ c, c = (s.sealShown (s.sealedImage whole extra)).setStore (if (s.sealNoted (s.sealedImage whole extra)).rd NRG_STAT.STATE = 5 then 5 else 6) :=
    ⟨_, rfl⟩
  have hentry : c.gateOn = false := by
    rw [State.gateOn, State.entryState, hc, (State.setStore_within _ _).rd .efu (by decide) rfl, State.sealShown_rd _ _ (by decide) (by decide),
      State.rd_wr_ne (.inl (by decide)), State.rd_wr_ne (.inl (by decide)), State.rd_wr_ne (.inl (by decide)), State.rd_onEnergy]
    exact hgate
  rw [State.sealed, ← hc, exec_destageSeal, execDestageSeal, onAlways, if_neg (by simp [hquiesced, himage, hstate])]
  rw [State.sealShown, State.sealNoted] at hc
  dsimp only
  rw [← hc, hentry, if_neg (by decide)]

/-- What a seal leaves of the registers of the vault. -/
theorem State.sealed_rd (s : State) (i : VaultImage) {f : Fld} (h : inBlock .vlt f.addr = true) (hne : f.addr ≠ WFL_STAT.addr) : (s.sealed i).rd f = (s.sealShown i).rd f := by
  rw [State.sealed, State.rd_wr_ne (.inl hne), State.goOff, State.rd_onPower, (State.setStore_within _ _).rd .vlt h rfl]

theorem State.sealed_energy (s : State) (i : VaultImage) : (s.sealed i).energy = (s.sealShown i).energy := by
  rw [State.sealed, State.wr_energy, State.goOff, State.onPower_energy, (State.setStore_within _ _).part .energy rfl]

/-! A restore (R289). -/

/-- The images whose tags verify are left. -/
def State.imagesLeft (s : State) (bad : List Nat) : State :=
  (s.each (s.energy.images.filter fun i => bad.contains i.area) fun i s => s.plainFault 5 1 0x22 i.area).onEnergy fun e => { e with
    images := e.images.filter fun i => !bad.contains i.area }

theorem State.imagesLeft_energy (s : State) (bad : List Nat) :
    (s.imagesLeft bad).energy = { s.energy with images := s.energy.images.filter fun i => !bad.contains i.area } := by
  rw [State.imagesLeft, State.onEnergy_energy, State.each_keeps (·.energy) fun i t => (t.plainFault_within _ _ _ _).part .energy rfl]

/-- A restore takes an image, and what it holds of the metadata. -/
def State.takeImage (s : State) (i : VaultImage) : State :=
  let s := s.onEnergy fun e => { e with restoring := some i.area, choices := [], installed := [], restored := [] }
  match i.metadata with
  | some m => s.loadMeta m
  | none => s.loadMirror.plainFault 5 1 0x22 i.area

theorem State.takeImage_restoreState (s : State) (i : VaultImage) : (s.takeImage i).restoreState = (s.energy.images, some i.area, [], []) := by
  rw [State.takeImage]
  cases i.metadata with
  | some m => exact (State.restoreState_of_energy ((State.loadMeta_within _ m).part .energy rfl)).trans rfl
  | none => exact (State.restoreState_of_energy ((State.plainFault_within _ _ _ _ _).part .energy rfl)).trans (State.loadMirror_restoreState _)

/-- Settles O36: each command by the state its rule answers. -/
theorem vaultCommandsComplete : Obligations.VaultCommandsComplete := by
  refine ⟨fun s whole extra hquiesced himage hstate hgate => ?_, fun s hdecided himage hon hgate => ⟨fun hheld => ?_, fun hheld => ?_⟩, fun s hrun hstate => ?_,
    fun s bad hrun hstate hrestoring hfilled => ?_, fun s u i peer hrun hrestoring hstate hchoices => ⟨fun hu => ?_, fun hu => ?_⟩,
    fun s u group fromPeer i c hrun hrestoring hchoice hnot hleads hu => ?_, fun s a hrun hstate hrestored hrestoring => ?_, fun s hrun hstate => ?_,
    fun s set hrun hvalid hgrid => ?_, fun s u v set blocks lost hrun hu hv => ⟨fun hheld => ?_, fun hnot hset => ?_⟩, fun s n hrun hstate => ?_⟩
  · refine ⟨s.sealed (s.sealedImage whole extra), exec_destageSeal_off hquiesced himage hstate hgate, ?_, ?_, ?_, s.sealedImage whole extra, ?_, ?_, rfl, rfl, rfl, rfl⟩
    · rw [State.sealed_rd _ _ (by decide) (by decide), State.sealShown_rd _ _ (by decide) (by decide), State.rd_wr_apart rfl, State.rd_wr_apart rfl, State.rd_wr_val rfl]
    · rw [State.sealed, State.wr_power, State.goOff, State.onPower_power]
    · rw [State.sealed_energy, State.sealShown_energy]
    · rw [State.sealed_energy, State.sealShown_energy]
      exact List.mem_cons_self
    · rw [State.sealed_rd _ _ (by decide) (by decide), State.sealShown_rd _ _ (by decide) (by decide), State.rd_wr_apart rfl,
        State.rd_wr_fits (by decide) (show (s.sealedImage whole extra).area < 2 from s.nextArea_lt)]
  · rw [exec_decisionResetTimer, execDecisionResetTimer, onAlways, if_pos (by simp [hdecided, himage, hon, hgate])]
    dsimp only
    rw [hheld, if_neg (by decide)]
  · rw [exec_decisionResetTimer, execDecisionResetTimer, onAlways, if_pos (by simp [hdecided, himage, hon, hgate])]
    dsimp only
    rw [hheld, if_pos rfl]
  · have himages : s.showImages.energy = s.energy := State.showImages_keeps (π := (·.energy)) (fun _ _ _ => rfl) s
    have hout : s.showImages.out = s.out := State.showImages_keeps (π := (·.out)) (fun _ _ _ => rfl) s
    have hrestore : s.showImages.imageToRestore [] = s.imageToRestore [] := State.imageToRestore_congr (by rw [himages])
    obtain ⟨t, ht⟩ : ∃ t, t = if (s.imageToRestore []).isSome then s.showImages.wr VLT_STAT.STATE 4 else s.showImages.loadMirror.wr VLT_STAT.STATE 1 := ⟨_, rfl⟩
    refine ⟨t, ?_, fun hsome => ?_, fun hnone => ?_, ?_, ?_⟩
    · rw [exec_vaultSelfCheck, execVaultSelfCheck, onSoc_of_running hrun, if_neg (by simp [hstate])]
      dsimp only
      rw [hrestore, ht]
    · rw [ht, if_pos (Option.isSome_iff_ne_none.mpr hsome), State.rd_wr_val rfl]
    · rw [ht, hnone, if_neg (by decide), State.rd_wr_val rfl]
    · rw [ht]
      split
      · rw [State.wr_energy, himages]
      · rw [State.wr_energy, State.loadMirror_images, himages]
    · rw [ht]
      split
      · rw [State.wr_out, hout]
      · rw [State.wr_out, State.loadMirror_out, hout]
  · have hleft : (s.imagesLeft bad).imageToRestore [] = s.imageToRestore bad := State.imageToRestore_of_images (by rw [State.imagesLeft_energy])
    have hrestore : exec (.vaultRestore bad) s = .next (match s.imageToRestore bad with
        | none => (s.imagesLeft bad).loadMirror.wr VLT_STAT.STATE 1
        | some i => ((s.imagesLeft bad).takeImage i).emit (.message 1 (i.sections.flatMap fun k =>
          leBytes 1 k.group ++ leBytes 1 k.kind ++ leBytes 1 (if k.complete then 1 else 0) ++ leBytes 8 k.lastCommitted))) := by
      rw [exec_vaultRestore, execVaultRestore, onSoc_of_running hrun, if_neg (by simp [hstate, hrestoring, hfilled]), ← hleft]
      rfl
    refine ⟨_, hrestore, ?_⟩
    cases hfind : s.imageToRestore bad with
    | none =>
      refine ⟨?_, fun _ => State.rd_wr_val rfl, fun i hi => absurd hi (by simp)⟩
      dsimp only
      rw [State.wr_energy, State.loadMirror_images, State.imagesLeft_energy]
    | some i =>
      have htaken := (s.imagesLeft bad).takeImage_restoreState i
      rw [State.restoreState, State.imagesLeft_energy] at htaken
      simp only [Prod.mk.injEq] at htaken
      obtain ⟨himages, hrest, hchoices, hrestored⟩ := htaken
      refine ⟨?_, fun hnone => absurd hnone (by simp), fun j hj => ?_⟩
      · rw [State.emit_energy, himages]
      · cases hj
        exact ⟨by rw [State.emit_energy, hrest], by rw [State.emit_energy, hchoices], by rw [State.emit_energy, hrestored]⟩
  · rw [exec_sectionSummary, execSectionSummary, onSoc_of_running hrun, State.decideSections, hrestoring]
    dsimp only
    rw [if_neg (by simp [hstate, hchoices]), ← hu]
  · rw [exec_summaryTimeout, execSummaryTimeout, onSoc_of_running hrun, State.decideSections, hrestoring]
    dsimp only
    rw [if_neg (by simp [hstate, hchoices]), ← hu]
  · rw [exec_restoreInstall, execRestoreInstall, onData_of_running hrun, hrestoring, hchoice]
    dsimp only
    rw [if_neg (by simp [hnot, hleads]), if_pos hleads, ← hu]
  · refine ⟨s.retireImage, ?_, ?_, ?_, ?_⟩
    · rw [exec_vaultRetire, execVaultRetire, onSoc_of_running hrun, if_pos (by simp [hstate, hrestored])]
    · rw [State.retireImage, hrestoring]
      exact State.rd_wr_val rfl
    · rw [State.retireImage, hrestoring]
      dsimp only
      rw [State.wr_energy, State.onEnergy_energy]
    · intro i hi harea
      rw [State.retireImage, hrestoring] at hi
      dsimp only at hi
      rw [State.wr_energy, State.onEnergy_energy] at hi
      obtain ⟨j, -, hj⟩ := List.mem_map.mp hi
      split at hj
      · rw [← hj]
      · exact absurd (beq_iff_eq.mpr (hj ▸ harea)) ‹_›
  · refine ⟨(s.wr VLT_STAT.STATE 6).plainFault 5 1 0x22, ?_, ?_, ?_, ?_⟩
    · rw [exec_vaultFault, execVaultFault, onSoc_of_running hrun, if_neg hstate]
    · rw [(State.plainFault_within _ _ _ _ _).rd .vlt (by decide) rfl, State.rd_wr_val rfl]
    · rw [(State.plainFault_within _ _ _ _ _).part .energy rfl, State.wr_energy]
    · rw [(State.plainFault_within _ _ _ _ _).part .store rfl, State.wr_store]
  · rw [exec_setAssembly, execSetAssembly, onSoc_of_running hrun]
    dsimp only
    rw [if_pos (by simp [hvalid, hgrid])]
  · rw [exec_journalRecovery, execJournalRecovery, onData_of_running hrun]
    dsimp only
    rw [if_pos (by simpa using hheld), ← hu, State.finishSet, ← hv]
  · rw [exec_journalRecovery, execJournalRecovery, onData_of_running hrun]
    dsimp only
    rw [if_neg (by rw [hnot, hset]; decide), ← hu]
  · rw [exec_mapMirrorCopy, execMapMirrorCopy, onData_of_running hrun, if_pos hstate]

end Sys2Proof.Machine
end

section
/-! Packets, mailbox writes, sessions and time limits of the management port. -/

set_option Elab.async false

namespace Sys2Proof.Machine

theorem quietRegister_MCP_REQ_DB : quietRegister MCP_REQ_DB.addr = true := by decide +kernel
theorem quietRegister_MCP_RPL_RDY : quietRegister MCP_RPL_RDY.addr = true := by decide +kernel
theorem quietRegister_MCP_NTC_TAIL : quietRegister MCP_NTC_TAIL.addr = true := by decide +kernel

/-- A packet that is not a control message goes to the module once it runs and its port is ready. -/
theorem exec_mcpPacketReceived_open {s : State} {a : McpAddress} {type : Nat} {b : Bytes} {fragment : Option (Nat × Bool)} (hentry : s.entryState = entryOn)
    (hawake : s.power.dormant = false) (hrun : s.running = true) (hready : s.flag MCP_STAT.READY = true) (hopen : s.transportOpen a.transport = true)
    (htype : a.transport ≤ 2 → type = 0x7E) :
    exec (.mcpPacketReceived a type b fragment) s = .next (match fragment with
      | none => s.acceptPacket a 0 b
      | some (id, whole) => s.fragmentArrived a id whole b) := by
  have hpacket : ¬ (a.transport ≤ 2 ∧ type ≠ 0x7E) := fun h => h.2 (htype h.1)
  rw [exec_mcpPacketReceived, execMcpPacketReceived, onAlways, if_neg hpacket, if_neg (fun h => h hentry), hawake, if_neg (by decide), hrun, hready, hopen,
    if_neg (by decide)] <;> rfl

theorem State.showMcp_keeps {β : Type} {π : State → β} (hset : ∀ s a v, π (State.setReg s a v) = π s) (s : State) : π s.showMcp = π s := by
  rw [State.showMcp, State.wrs_keeps hset]

theorem State.endSession_session (s : State) {slot : Nat} {m : McpSession} (h : s.session slot = some m) : (s.endSession slot).session slot = none := by
  rw [State.endSession, h, State.session]
  dsimp only
  rw [State.showMcp_keeps (π := (·.mcp)) (fun _ _ _ => rfl), (State.zeroiseSlot_after _ _ (.of_and_eq rfl) (.refl _) : After 0x100000008000 _ _).part .mcp rfl,
    State.onMcp_mcp]
  exact getBy_dropBy_self McpSession.slot slot _

theorem State.zeroiseSlot_keySlot (s : State) (k : Nat) : (s.zeroiseSlot k).keySlot k = none := by
  dsimp only [State.zeroiseSlot]
  split <;> simp [State.keySlot, getBy_dropBy_self]

theorem State.endSession_keySlot (s : State) {slot : Nat} {m : McpSession} (h : s.session slot = some m) : (s.endSession slot).keySlot slot = none := by
  rw [State.endSession, h, State.keySlot]
  dsimp only
  rw [State.showMcp_keeps (π := (·.keys)) (fun _ _ _ => rfl), ← State.keySlot, State.zeroiseSlot_keySlot]

/-- Settles O37: each command by the state its rule answers. -/
theorem managementTransportCommandsComplete : Obligations.ManagementTransportCommandsComplete := by
  refine ⟨fun s a type b hentry hawake hrun hready hopen htype => ⟨?_, fun id rest hrest => ⟨fun hnone => ?_, fun hsome hlen => ?_⟩⟩,
    fun s a b f hbinding hanswers => ?_, fun s a b f hentry hbus hformed hplain hopcode => ?_,
    fun s a type b f hentry hdormant => ⟨fun hbus htype hformed hsealed => ?_, fun hport => ?_⟩, fun s a id hrun => ?_, fun s who mask hrun hopens => ?_,
    fun s u who bits hrun hopens hu => ?_, fun s who tail hrun htail hopens => ?_, fun s hrun => ?_, fun s slot m hrun hsession hnone hidle => ?_,
    fun s slot tag c m hrun hcall hsession hlive hlate => ?_⟩
  · rw [exec_mcpPacketReceived_open hentry hawake hrun hready hopen htype]
  · rw [exec_mcpPacketReceived_open hentry hawake hrun hready hopen htype]
    dsimp only
    rw [State.fragmentArrived]
    dsimp only
    rw [if_pos (by decide), hnone, if_neg (by decide), hrest, State.onMcp, State.onMcp]
  · rw [exec_mcpPacketReceived_open hentry hawake hrun hready hopen htype]
    dsimp only
    rw [State.fragmentArrived]
    dsimp only
    rw [if_neg (by decide), if_pos (by rw [hsome, decide_eq_true hlen]; rfl), show (s.onMcp fun m => { m with datagrams := rest }) =
      s.onMcp fun m => { m with datagrams := m.datagrams.filter fun d => !(d.id == id && d.source == a) } by rw [hrest, State.onMcp, State.onMcp]]
  · rw [exec_mcpPacketReceived, execMcpPacketReceived, onAlways, if_pos ⟨hbinding, by decide⟩, if_pos (by simp [hanswers])]
  · rw [exec_mcpPacketReceived, execMcpPacketReceived, onAlways, if_neg (fun h => h.2 rfl), if_pos hentry, if_pos hbus, State.answerAsleep]
    dsimp only
    rw [hformed, if_neg (by decide), if_pos (by simp [hplain, hopcode]), hbus, hopcode]
  · rw [exec_mcpPacketReceived, execMcpPacketReceived, onAlways, if_neg (fun h => h.2 htype), if_neg (fun h => h hentry), if_pos hdormant, State.packetInDormant,
      if_pos hbus, if_neg (by simp [hsealed])]
  · rw [exec_mcpPacketReceived, execMcpPacketReceived, onAlways, if_neg (by omega), if_neg (fun h => h hentry), if_pos hdormant, State.packetInDormant,
      if_neg (by omega), if_pos hport]
  · rw [exec_fragmentTimeout, execFragmentTimeout, onSoc_of_running hrun]
  · rw [exec_mcpReqDoorbell, execMcpReqDoorbell, onSoc_of_running hrun, State.commandWrite_quiet quietRegister_MCP_REQ_DB hopens]
  · rw [exec_mcpRplRdyClear, execMcpRplRdyClear, onSoc_of_running hrun, State.commandWrite_quiet quietRegister_MCP_RPL_RDY hopens, ← hu]
  · refine ⟨_, by rw [exec_mcpNtcTailWrite, execMcpNtcTailWrite, onSoc_of_running hrun, State.commandWrite_quiet quietRegister_MCP_NTC_TAIL hopens], ?_, ?_, ?_⟩
    · rw [State.answered_rd, Nat.mod_eq_of_lt htail, State.rd_wr_fits (by decide) htail]
    · rw [State.answered_mcp, State.wr_mcp]
    · rw [State.answered_mem, State.wr_mem]
  · refine ⟨_, by rw [exec_challengeExpiry, execChallengeExpiry, onSoc_of_running hrun], ?_, ?_, ?_⟩
    · rw [State.showMcp_keeps (π := (·.mcp)) (fun _ _ _ => rfl), State.onMcp_mcp]
    · rw [State.showMcp_keeps (π := (·.mcp)) (fun _ _ _ => rfl), State.onMcp_mcp]
    · rw [State.showMcp_keeps (π := (·.out)) (fun _ _ _ => rfl), State.onMcp_out]
  · refine ⟨s.endSession slot, ?_, ?_, ?_⟩
    · rw [exec_sessionIdleTimeout, execSessionIdleTimeout, onSoc_of_running hrun, hsession]
      dsimp only
      rw [if_pos (by rw [hnone, decide_eq_true hidle]; rfl)]
    · exact s.endSession_session hsession
    · exact s.endSession_keySlot hsession
  · rw [exec_requestTimeout, execRequestTimeout, onSoc_of_running hrun, hcall]
    dsimp only
    rw [hsession]
    dsimp only
    rw [hlive, hlate, if_neg (by decide)]

end Sys2Proof.Machine
end

section
/-! The SPDM responder. -/

set_option Elab.async false

namespace Sys2Proof.Machine

/-- A request on a binding of the running module is answered to its sender. -/
theorem State.spdm_awake {s : State} {a : McpAddress} (hbinding : a.transport ≤ 2) (hawake : s.power.dormant = false) (hrun : s.running = true)
    (hready : s.flag MCP_STAT.READY = true) (asleep : State → State) (ans : State → Bytes × State) :
    s.spdm a asleep ans = (ans s).2.emit (.packet a.transport a.address (ans s).1) := by
  rw [State.spdm, if_neg (by omega), hawake, if_neg (by decide), hrun, hready, if_neg (by decide)]

/-- In Dormant the Wallflower does with it what it may. -/
theorem State.spdm_asleep {s : State} {a : McpAddress} (hbus : a.transport = 1 ∨ a.transport = 2) (hdormant : s.power.dormant = true) (asleep : State → State)
    (ans : State → Bytes × State) : s.spdm a asleep ans = asleep s := by
  rw [State.spdm, if_neg (by omega), if_pos hdormant, if_neg (by omega)]

/-- One measurement block is answered, signed where the request asks. -/
theorem exec_spdmGetMeasurements_one {s : State} {a : McpAddress} {request : Bytes} {i : Nat} (hbinding : a.transport ≤ 2) (hawake : s.power.dormant = false)
    (hrun : s.running = true) (hready : s.flag MCP_STAT.READY = true) (hop : numAt request 3 1 = i) (hlow : 1 ≤ i) (hhigh : i ≤ 5) :
    exec (.spdmGetMeasurements a request) s = .next ((s.random 32).2.emit (.packet a.transport a.address
      (if bitOf (numAt request 2 1) 0 then spdmSigned request ([0x13, 0x60, 0, 0] ++ [1] ++ leBytes 3 (s.measurementBlock i).length ++ s.measurementBlock i ++
          (s.random 32).1 ++ [0, 0] ++ (request.drop 37).take 8)
        else [0x13, 0x60, 0, 0] ++ [1] ++ leBytes 3 (s.measurementBlock i).length ++ s.measurementBlock i ++ (s.random 32).1 ++ [0, 0] ++ (request.drop 4).take 8))) := by
  have hblocks : (if i = 0 then [] else if i = 0xFF then (List.range 5).map (· + 1) else [i]) = [i] := by rw [if_neg (by omega), if_neg (by omega)]
  have hrecord : [i].flatMap s.measurementBlock = s.measurementBlock i := by rw [List.flatMap_singleton]
  rw [exec_spdmGetMeasurements, execSpdmGetMeasurements, onAlways, State.spdm_awake hbinding hawake hrun hready, hop, if_neg (by omega)]
  dsimp only
  rw [hblocks, hrecord, if_neg (show ¬ i = 0 by omega)]
  split <;> rfl

/-- Settles O38: each request by the body its response has. -/
theorem spdmCommandsComplete : Obligations.SpdmCommandsComplete := by
  refine ⟨fun s a hbinding hawake hrun hready => ⟨?_, ?_, ?_, ?_, fun off len hoff => ?_, fun request body hslot hsum hbody => ?_,
    fun request i body hlow hhigh hop hbody => ⟨fun hplain => ?_, fun hsigned => ?_⟩⟩, fun s a hbus hdormant => ⟨?_, fun slot off len => ?_⟩⟩
  · rw [exec_spdmGetVersion, execSpdmGetVersion, onAlways, State.spdm_awake hbinding hawake hrun hready]
  · exact ⟨_, by rw [exec_spdmGetCapabilities, execSpdmGetCapabilities, onAlways, State.spdm_awake hbinding hawake hrun hready], rfl, rfl⟩
  · exact ⟨_, by rw [exec_spdmNegotiateAlgorithms, execSpdmNegotiateAlgorithms, onAlways, State.spdm_awake hbinding hawake hrun hready], rfl, rfl, rfl⟩
  · rw [exec_spdmGetDigests, execSpdmGetDigests, onAlways, State.spdm_awake hbinding hawake hrun hready]
    rfl
  · rw [exec_spdmGetCertificate, execSpdmGetCertificate, onAlways, State.spdm_awake hbinding hawake hrun hready, certificatePart, if_neg (by omega)]
    rfl
  · have hsummary : (if numAt request 3 1 = 0 then [] else Config.sha384 ((List.range 5).flatMap fun i => (s.random 32).2.measurementBlock (i + 1))) = [] := if_pos hsum
    rw [exec_spdmChallenge, execSpdmChallenge, onAlways, State.spdm_awake hbinding hawake hrun hready, if_neg (by omega)]
    dsimp only
    rw [hsummary, List.append_nil, spdmSigned, hbody]
    rfl
  · rw [exec_spdmGetMeasurements_one hbinding hawake hrun hready hop hlow hhigh, ← hbody, hplain, if_neg (by decide)]
  · rw [exec_spdmGetMeasurements_one hbinding hawake hrun hready hop hlow hhigh, ← hbody, hsigned, if_pos rfl, spdmSigned]
  · rw [exec_spdmGetVersion, execSpdmGetVersion, onAlways, State.spdm_asleep hbus hdormant]
  · rw [exec_spdmGetCertificate, execSpdmGetCertificate, onAlways, State.spdm_asleep hbus hdormant]

end Sys2Proof.Machine
end

section
/-! Requests of the records, sessions and notices. -/

set_option Elab.async false

namespace Sys2Proof.Machine

theorem leNat_leBytes (n v : Nat) : leNat (leBytes n v) = v % 256 ^ n := by
  induction n generalizing v with
  | zero => rw [leBytes, leNat, Nat.pow_zero, Nat.mod_one]
  | succ n ih => rw [leBytes, leNat, ih, BitVec.toNat_ofNat, show 2 ^ 8 = 256 from rfl, Nat.pow_succ', Nat.mod_mul]

/-- A number reads back where its bytes stand. -/
theorem numAt_append (l : Bytes) (n v : Nat) (r : Bytes) : numAt (l ++ (leBytes n v ++ r)) l.length n = v % 256 ^ n := by
  have hlen : (leBytes n v).length = n := length_leBytes n v
  rw [numAt, List.drop_left, List.take_left' hlen, leNat_leBytes]

/-- Settles O39: each request by the reply its opcode gives. -/
theorem recordAndSessionRequestsComplete : Obligations.RecordAndSessionRequestsComplete := by
  refine ⟨fun s tag c hrun => ⟨fun hreq => ?_, fun hreq => ?_, fun hreq => ?_, fun i hreq hlive hopen hclaimed hheld hmac hfew hfree => ?_⟩,
    fun s slot tag c hrun => ⟨fun me hreq hme => ⟨fun hown => ?_, fun m hzero hother hfind => ?_⟩, fun me mine hreq hme hmine => ?_, fun hreq => ?_, fun l hreq hl => ?_,
      fun hreq => ?_, fun b t hreq hlen hpage hoff => ?_, fun l hreq hl => ?_, fun b t hreq hpage hoff => ?_⟩⟩
  · rw [exec_getIdentity, execGetIdentity, onSoc_of_running hrun, State.runCall_requests hreq]
  · rw [exec_getEntryRecord, execGetEntryRecord, onSoc_of_running hrun, State.runCall_requests hreq]
  · refine ⟨_, by rw [exec_getChallenge, execGetChallenge, onSoc_of_running hrun, State.runCall_requests hreq], ?_, ?_⟩
    · rw [State.showMcp_keeps (π := (·.mcp)) (fun _ _ _ => rfl), State.onMcp_mcp]
      rfl
    · rw [State.showMcp_keeps (π := (·.out)) (fun _ _ _ => rfl), State.onMcp_out]
      rfl
  · rw [exec_sessionOpen, execSessionOpen, onSoc_of_running hrun, State.runCall_requests hreq]
    dsimp only
    rw [hlive, if_neg (by obtain h | h | h | h := hclaimed <;> simp [h]), hopen, if_neg (by decide), hheld, if_neg (by decide), if_neg (by simpa using hmac), if_neg (by omega), hfree]
  · rw [exec_sessionReset, execSessionReset, onSoc_of_running hrun, State.runCall_requests hreq, hme]
    dsimp only
    rw [if_pos hown]
  · rw [exec_sessionReset, execSessionReset, onSoc_of_running hrun, State.runCall_requests hreq, hme]
    dsimp only
    rw [if_neg (by omega), hfind]
  · rw [exec_sessionList, execSessionList, onSoc_of_running hrun, State.runCall_requests hreq, hme, hmine]
    rfl
  · rw [exec_noticeSubscribe, execNoticeSubscribe, onSoc_of_running hrun, State.runCall_requests hreq]
  · rw [exec_getNotices, execGetNotices, onSoc_of_running hrun, State.runCall_requests hreq, hl]
    rfl
  · refine ⟨_, by rw [exec_moduleStatus, execModuleStatus, onSoc_of_running hrun, State.runCall_requests hreq], ?_, ?_, ?_, ?_⟩
    · simp only [List.length_append, length_leBytes]
    · simp only [List.append_assoc]
      exact numAt_append [] 4 _ _
    · simp only [List.append_assoc]
      exact numAt_append (leBytes 4 _) 4 _ _
    · simp only [List.append_assoc]
      rw [← List.append_assoc]
      exact numAt_append (leBytes 4 _ ++ leBytes 4 _) 4 _ _
  · rw [exec_logPageRead, execLogPageRead, onSoc_of_running hrun, State.runCall_requests hreq]
    dsimp only
    rw [if_neg (by omega), hpage]
    dsimp only
    rw [if_neg (by omega)]
  · rw [exec_faultRecordsRead, execFaultRecordsRead, onSoc_of_running hrun, State.runCall_requests hreq, hl]
  · rw [exec_longOperationStatus, execLongOperationStatus, onSoc_of_running hrun, State.runCall_requests hreq, hpage]
    dsimp only
    rw [if_neg (by omega)]

end Sys2Proof.Machine
end

section
/-! Requests that command the module. -/

set_option Elab.async false

namespace Sys2Proof.Machine

/-- A request whose command register is free runs its command and finishes when that ends (R438). -/
theorem State.runCommand_runs {s t : State} {c : McpCall} {slot : Nat} {o : State → Host.Outcome State Fault Refusal} (hbusy : s.callBusy c = false)
    (hnext : o s = .next t) : s.runCommand c slot o = (t.startCall c).finishCall slot c.tag := by
  rw [State.runCommand, hbusy, if_neg (by decide), hnext, nextOf]

/-- With no bit of LEAD set no group is led. -/
theorem State.leads_of_none {s : State} (h : s.rd LTK_STAT.LEAD % 256 = 0) : (List.range 8).filter s.leads = [] := by
  rw [List.filter_eq_nil_iff]
  intro g hg
  have hlow := Nat.testBit_mod_two_pow (s.rd LTK_STAT.LEAD) 8 g
  rw [show s.rd LTK_STAT.LEAD % 2 ^ 8 = 0 from h, Nat.zero_testBit, decide_eq_true (List.mem_range.mp hg), Bool.true_and] at hlow
  rw [State.leads, bitOf_testBit, ← hlow]
  decide

/-- Settles O40: each request by the command it runs and the reply it gives. -/
theorem operatorRequestsComplete : Obligations.OperatorRequestsComplete := by
  refine ⟨fun s t slot tag c hrun hreq hgroup hbusy hcommand => ?_, fun s t slot tag c x y hrun hreq hslot hbusy hcommand => ?_,
    fun s t slot tag c hrun hreq hset hbusy hcommand => ?_,
    fun s slot tag c hrun => ⟨fun hreq hplain => ?_, fun gs hreq hgraceful hgs hled hready => ?_, fun hreq => ?_, fun refuser hreq => ⟨fun hon => ?_, fun hdormant hstep => ?_⟩,
      fun hreq hlow hhigh => ?_, fun t hreq hlow hhigh hstage => ?_, fun t hreq hsanitize hcommit => ?_,
      fun hreq hgroup => ⟨fun hleads hcache => ⟨fun u hnsid hset hvalid hcrypt hu => ?_, fun u hnsid hset hcrypt hnamespace hu => ?_⟩, fun hleads hlink hpeer => ?_⟩,
      fun hreq hlen => ?_⟩⟩
  · have hop : ¬ (numAt c.params 0 1 = 0 ∨ 5 < numAt c.params 0 1) := by omega
    rw [exec_leadCommand, execLeadCommand, onSoc_of_running hrun, State.runCall_requests hreq]
    dsimp only
    rw [if_neg hop, if_neg (by omega), State.runCommand_runs hbusy]
    obtain ⟨h, hnext⟩ | ⟨h, hnext⟩ | ⟨h, hnext⟩ | ⟨h, hnext⟩ | ⟨h, hnext⟩ := hcommand <;> rw [h] <;> exact hnext
  · have hop : ¬ (numAt c.params 1 1 = 0 ∨ 5 < numAt c.params 1 1) := by omega
    rw [exec_slotCommand, execSlotCommand, onSoc_of_running hrun, State.runCall_requests hreq]
    dsimp only
    rw [if_neg (by omega), if_neg hop, State.runCommand_runs hbusy]
    obtain ⟨h, hnext⟩ | ⟨h, hnext⟩ | ⟨h, hnext⟩ | ⟨h, hnext⟩ | ⟨h, hnext⟩ := hcommand <;> rw [h] <;> exact hnext
  · have hop : ¬ (numAt c.params 1 1 = 0 ∨ 3 < numAt c.params 1 1) := by omega
    rw [exec_layoutCommand, execLayoutCommand, onSoc_of_running hrun, State.runCall_requests hreq]
    dsimp only
    rw [if_neg (by omega), if_neg hop, State.runCommand_runs hbusy]
    obtain ⟨h, hnext⟩ | ⟨h, hnext⟩ | ⟨h, hnext⟩ := hcommand <;> rw [h] <;> exact hnext
  · refine ⟨_, ?_, rfl⟩
    rw [exec_moduleReset, execModuleReset, onData_of_running hrun, State.runCall_requests hreq]
    dsimp only
    rw [if_neg]
    · rfl
    · obtain h | h := hplain
      · simp [h]
      · simp [State.leads_of_none h]
  · rw [exec_moduleReset, execModuleReset, onData_of_running hrun, State.runCall_requests hreq]
    dsimp only
    rw [← hgs, if_pos (by rw [hgraceful, hready]; simpa using hled)]
  · rw [exec_powerCycle, execPowerCycle, onSoc_of_running hrun, State.runCall_requests hreq, State.actLater]
  · rw [exec_setPowerState, execSetPowerState, onData_of_running hrun, State.runCall_requests hreq]
    dsimp only
    rw [if_pos hon]
    rfl
  · rw [exec_setPowerState, execSetPowerState, onData_of_running hrun, State.runCall_requests hreq]
    dsimp only
    rw [if_neg (by omega), if_neg (by omega), hstep, if_neg (by decide)]
  · rw [exec_shelfBudget, execShelfBudget, onSoc_of_running hrun, State.runCall_requests hreq]
    dsimp only
    rw [if_neg (by omega)]
  · rw [exec_firmwareDownload, execFirmwareDownload, onSoc_of_running hrun, State.runCall_requests hreq]
    dsimp only
    rw [if_neg (by omega), hstage]
    dsimp only
    rw [if_pos rfl]
  · rw [exec_mcpFirmwareCommit, execMcpFirmwareCommit, onSoc_of_running hrun, State.runCall_requests hreq]
    dsimp only
    rw [if_neg (by omega), if_neg (by simpa using hsanitize)]
    obtain ⟨h, hnext⟩ | ⟨h, hnext⟩ | ⟨h, hnext⟩ | ⟨h, hnext⟩ := hcommit <;> rw [h] <;> simp only [hnext, Nat.reduceEqDiff, if_true, if_false]
  · rw [exec_groupPolicy, execGroupPolicy, onSoc_of_running hrun, State.runCall_requests hreq]
    dsimp only
    rw [if_neg (by omega), if_pos hleads, State.setPolicy]
    dsimp only
    rw [if_neg (by omega), if_neg (by omega), if_neg (by omega), if_neg (by simp [hvalid]; omega), ← hu]
    exact ⟨_, rfl⟩
  · rw [exec_groupPolicy, execGroupPolicy, onSoc_of_running hrun, State.runCall_requests hreq]
    dsimp only
    rw [if_neg (by omega), if_pos hleads, State.setPolicy]
    dsimp only
    rw [if_neg (by omega), if_pos hnsid, if_neg (by omega), hnamespace, if_neg (by decide), ← hu]
    exact ⟨_, rfl⟩
  · rw [exec_groupPolicy, execGroupPolicy, onSoc_of_running hrun, State.runCall_requests hreq]
    dsimp only
    rw [if_neg (by omega), if_neg (by simp [hleads]), if_pos (by simp [hlink, hpeer])]
  · rw [exec_setMeasureLength, execSetMeasureLength, onSoc_of_running hrun, State.runCall_requests hreq]
    dsimp only
    rw [if_neg (by omega)]
    rfl

end Sys2Proof.Machine
end

section
/-! Requests of Two-Step. -/

set_option Elab.async false

namespace Sys2Proof.Machine

/-- The first element under a key takes what is done to it, where that keeps it under the key. -/
theorem find?_setBy_of_key {α : Type} {key : α → Nat} {k : Nat} {f : α → α} (hf : ∀ a, key a = k → key (f a) = k) (l : List α) :
    (setBy key k f l).find? (key · == k) = (l.find? (key · == k)).map f := by
  induction l with
  | nil => rfl
  | cons a l ih =>
    rw [setBy, List.map_cons, List.find?_cons, List.find?_cons, ← setBy, ih]
    by_cases h : (key a == k) = true
    · simp [h, hf a (beq_iff_eq.mp h)]
    · simp [h]

/-- The proposal of a number, as it is held. -/
def State.proposal? (s : State) (n : Nat) : Option Proposal := s.two.proposals.find? (·.number == n)

theorem State.proposal?_onProposal {s : State} {n : Nat} {f : Proposal → Proposal} (hf : ∀ q : Proposal, q.number = n → (f q).number = n) :
    (s.onProposal n f).proposal? n = (s.proposal? n).map f := by
  rw [State.proposal?, State.onProposal, State.onTwo_two]
  exact find?_setBy_of_key (key := Proposal.number) hf _

theorem State.proposal?_of_two {s t : State} (h : t.two = s.two) (n : Nat) : t.proposal? n = s.proposal? n := by rw [State.proposal?, h, State.proposal?]

theorem State.proposal?_showProposals (s : State) (n : Nat) : s.showProposals.proposal? n = s.proposal? n :=
  State.proposal?_of_two (State.showProposals_keeps (π := (·.two)) (fun _ _ _ => rfl) s) n

theorem State.proposal?_number {s : State} {n : Nat} {p : Proposal} (h : s.proposal? n = some p) : p.number = n :=
  beq_iff_eq.mp (List.find?_some (p := fun q : Proposal => q.number == n) h)

/-- A proposal that is counted enough arms for its target, or four measures ahead (R455). -/
theorem State.armsProposal {s : State} {p : Proposal} {t : Nat} (htarget : p.target = 0 ∧ t = s.measure + 4 ∨ s.measure + 2 ≤ p.target ∧ t = p.target) :
    ∃ u, s.arm p = .ok (t, u) ∧ u.proposal? p.number = (s.proposal? p.number).map fun q => { q with state := .armed, armedFor := t } := by
  have hmeasure : (if p.target = 0 then s.measure + 4 else p.target) = t := by split <;> omega
  rw [State.arm, if_neg (by simp; omega), hmeasure]
  refine ⟨_, rfl, ?_⟩
  rw [State.proposal?_showProposals, ← State.proposal?_onProposal (f := fun q => { q with state := .armed, armedFor := t }) fun q hq => hq]
  split
  · exact State.proposal?_of_two (State.emit_two _ _) _
  · rfl

/-- A confirm that counts (R454). -/
theorem State.confirm_counts {s : State} {principal number session : Nat} {digest : Bytes} {p : Proposal} (hfind : s.proposal? number = some p)
    (hopen : p.state = .opened) (hobject : p.object ≠ 6) (hother : principal ∉ p.counted) (hdigest : digest = p.digest) {q : Proposal} {u : State}
    (hq : q = { p with counted := principal :: p.counted.filter (· != principal) }) (hu : u = s.onProposal number fun _ => q) :
    (q.counted.length < 2 → s.confirm principal number digest session = .ok (q.target, u.showProposals)) ∧
      (∀ r, ¬ q.counted.length < 2 → u.arm q = .ok r → s.confirm principal number digest session = .ok r) := by
  subst hq hu
  rw [State.proposal?] at hfind
  rw [State.confirm, hfind]
  dsimp only
  rw [if_neg (by simp [hopen]), if_neg (by simp [hobject]), if_neg (by simp [hother]), if_neg (by simp [hdigest])]
  simp only [hobject, ne_eq, not_false_eq_true, decide_true, Bool.and_true, decide_eq_true_eq]
  refine ⟨fun hfew => if_pos hfew, fun r hmany harm => ?_⟩
  rw [if_neg hmany, harm]

/-- Settles O41: each request by the reply Two-Step gives. -/
theorem twoStepRequestsComplete : Obligations.TwoStepRequestsComplete := by
  intro s slot tag c hrun
  refine ⟨fun n t hreq hpropose => ?_, fun p hreq hfind hopen hobject hother hdigest => ?_, fun p hreq hfind hopen => ?_, fun hreq hall => ?_, fun p hreq hone hfind => ?_⟩
  · rw [exec_twoStepPropose, execTwoStepPropose, onSoc_of_running hrun, State.runCall_requests hreq, hpropose]
  · obtain ⟨q, hq⟩ : ∃ q : Proposal, q = { p with counted := c.principal :: p.counted.filter (· != c.principal) } := ⟨_, rfl⟩
    obtain ⟨u, hu⟩ : ∃ u, u = s.onProposal (numAt c.params 0 8) fun _ => q := ⟨_, rfl⟩
    have hnumber : q.number = numAt c.params 0 8 := (congrArg Proposal.number hq).trans (State.proposal?_number (s := s) (p := p) hfind)
    have hheld : u.proposal? (numAt c.params 0 8) = some q := by
      rw [hu, State.proposal?_onProposal fun _ _ => hnumber, State.proposal?, hfind, Option.map_some]
    obtain ⟨hfew, hmany⟩ := State.confirm_counts (session := c.sessionWord) hfind hopen hobject hother hdigest hq hu
    have hcounted : q.counted = c.principal :: p.counted := by
      rw [hq]
      exact congrArg _ (List.filter_eq_self.mpr fun x hx => by simpa using fun h : x = c.principal => hother (h ▸ hx))
    have harms (t : Nat) (hne : p.counted ≠ []) (htarget : p.target = 0 ∧ t = u.measure + 4 ∨ u.measure + 2 ≤ p.target ∧ t = p.target) :
        ∃ v : State, exec (.twoStepConfirm slot tag) s = .next (v.reply c 0 (leBytes 8 t)) ∧
          v.proposal? (numAt c.params 0 8) = some { q with state := .armed, armedFor := t } := by
      obtain ⟨v, harm, hv⟩ := State.armsProposal (s := u) (p := q) (t := t) (by rw [hq]; exact htarget)
      refine ⟨v, ?_, by rw [hnumber] at hv; rw [hv, hheld, Option.map_some]⟩
      have hlong : ¬ q.counted.length < 2 := by
        have := List.length_pos_iff.mpr hne
        rw [hcounted, List.length_cons]
        omega
      rw [exec_twoStepConfirm, execTwoStepConfirm, onSoc_of_running hrun, State.runCall_requests hreq, hmany _ hlong harm]
    have hmeasure : u.measure = s.measure := by rw [hu, State.measure, State.onProposal, State.onTwo_clock, State.measure]
    refine ⟨fun hfirst => ⟨u.showProposals, ?_, ?_⟩, fun hne hzero => ?_, fun hne htarget => ?_⟩
    · have hone : q.counted.length < 2 := by rw [hcounted, hfirst, List.length_singleton]; decide
      rw [exec_twoStepConfirm, execTwoStepConfirm, onSoc_of_running hrun, State.runCall_requests hreq, hfew hone, hq]
    · rw [← State.proposal?, State.proposal?_showProposals, hheld, hq, hfirst]
      rfl
    · obtain ⟨v, hrunv, hv⟩ := harms (s.measure + 4) hne (.inl ⟨hzero, by rw [hmeasure]⟩)
      exact ⟨v, hrunv, hv.trans (by rw [hq])⟩
    · obtain ⟨v, hrunv, hv⟩ := harms p.target hne (.inr ⟨by rw [hmeasure]; exact htarget, rfl⟩)
      exact ⟨v, hrunv, hv.trans (by rw [hq])⟩
  · refine ⟨(s.onProposal (numAt c.params 0 8) fun q => { q with state := .withdrawn }).showProposals, ?_, ?_⟩
    · rw [exec_twoStepWithdraw, execTwoStepWithdraw, onSoc_of_running hrun, State.runCall_requests hreq, State.withdraw, hfind]
      dsimp only
      rw [if_pos (by simp [hopen])]
    · rw [← State.proposal?, State.proposal?_showProposals, State.proposal?_onProposal (f := fun q => { q with state := .withdrawn }) fun _ hq => hq,
        State.proposal?, hfind, Option.map_some]
  · rw [exec_twoStepStatus, execTwoStepStatus, onSoc_of_running hrun, State.runCall_requests hreq]
    dsimp only
    rw [if_pos hall]
  · rw [exec_twoStepStatus, execTwoStepStatus, onSoc_of_running hrun, State.runCall_requests hreq]
    dsimp only
    rw [if_neg hone, hfind]

end Sys2Proof.Machine
end

section
/-! The direct port: what shows its link and its functions. -/

set_option Elab.async false

namespace Sys2Proof.Machine

/-! A notice leaves the fields of DPT_STAT but WAKE as they are (R519). -/

theorem State.reg_setWords_ne {a b n : Nat} {bs : Bytes} (h : ∀ i < n, b ≠ a + 4 * i) (s : State) : (s.setWords a n bs).reg b = s.reg b := by
  induction n generalizing s a bs with
  | zero => rfl
  | succ n ih =>
    rw [State.setWords, ih fun i hi => by have := h (i + 1) (by omega); omega, State.reg_setReg_ne (by simpa using h 0 (by omega))]

section
variable {g : Fld}

/-- A field of DPT_STAT other than WAKE. -/
def Fld.ofLink (g : Fld) : Prop := g.addr = DPT_STAT.addr ∧ (g.hi < 26 ∨ 26 < g.lo)

theorem Fld.ofLink.inDpt (h : g.ofLink) : inBlock .dpt g.addr = true := h.1 ▸ by decide

theorem State.writeTlps_link (h : g.ofLink) (s : State) (n : Nat) : (s.writeTlps n).rd g = s.rd g := by
  rw [State.writeTlps]
  split
  · rfl
  · refine (State.each_keeps (fun t => t.rd g) (fun i t => ?_) _ _).trans (State.rd_count_ne (by rw [h.1]; decide))
    rw [State.moved_keeps (fun t => t.rd g) fun _ _ => State.rd_onPmc _ _ _]
    exact (State.event_after (T := 0x40000000000000) _ _ _ _ (.of_and_eq rfl) (.refl _)).rd .dpt h.inDpt rfl

theorem State.fire_link (h : g.ofLink) (s : State) (f v : Nat) : (s.fire f v).rd g = s.rd g := by
  rw [State.fire]
  split
  · rfl
  split
  · rw [State.onFn, State.rd_onDirect]
  split
  · rw [State.rd_emit, State.writeTlps_link h]
  · rfl

theorem State.raisePme_link (h : g.ofLink) (s : State) : s.raisePme.rd g = s.rd g := by
  rw [State.raisePme]
  split
  · rfl
  dsimp only
  split
  · rw [State.rd_emit, State.wrs_cons, State.wrs_cons, State.wrs_nil, State.rd_wr_ne (.inl (by rw [h.1]; decide)), State.rd_wr_ne (.inr ⟨by decide, h.2⟩), State.rd_onDirect]
  split
  · rw [State.rd_emit, State.rd_onDirect]
  · rw [State.rd_onDirect]

theorem State.deliverNotice_link (h : g.ofLink) (s : State) (n : Notice) (m : McpSession) : (s.deliverNotice n m).rd g = s.rd g := by
  have hsent (t : State) (len : Nat) : (t.noticeSent m len).rd g = t.rd g :=
    (State.noticeSent_after (T := 0x300000000080) t m len (.of_and_eq rfl) (.refl t)).rd .dpt h.inDpt rfl
  rw [State.deliverNotice]
  split
  · split
    · rw [State.mailboxNotice]
      dsimp only
      split
      · rw [State.rd_onMcp, State.rd_count_ne (by rw [h.1]; decide)]
      · rw [State.raisePme_link h, State.fire_link h, hsent, State.rd_onMcp, State.rd_wr_ne (.inl (by rw [h.1]; decide))]
        rw [State.rd, State.reg_setWords_ne (fun i hi => by rw [h.1]; simp only [DPT_STAT.addr, MCP_NTC.addr, blockAddr]; omega), ← State.rd]
    · rw [hsent, State.packetOut, State.rd_emit]
  · rfl

theorem State.notify_link (h : g.ofLink) (s : State) (b : NoticeBody) : (s.notify b).rd g = s.rd g := by
  rw [State.notify]
  exact (State.each_keeps (fun t => t.rd g) (fun m t => t.deliverNotice_link h _ m) _ _).trans (State.rd_onMcp _ _ _)

theorem State.newRecord_link (h : g.ofLink) (s : State) (r : FaultRecord) : (s.newRecord r).rd g = s.rd g := by
  have hflt (t u : State) (hf : After 0x20000000000040 t u) : u.rd g = t.rd g := hf.rd .dpt h.inDpt rfl
  have hring (t : State) : ((t.enterRing r).raisePend r.severity).rd g = t.rd g :=
    hflt _ _ (State.raisePend_after _ _ (.of_and_eq rfl) (State.enterRing_after _ _ (.of_and_eq rfl) (.refl t)))
  rw [State.newRecord]
  split <;> split
  · rw [State.notify_link h, hring, hflt _ _ (State.latchRecord_after _ _ (.of_and_eq rfl) (.refl s))]
  · rw [State.notify_link h, hring]
  · rw [hring, hflt _ _ (State.latchRecord_after _ _ (.of_and_eq rfl) (.refl s))]
  · rw [hring]

/-- A fault record leaves the link's fields. -/
theorem State.fault_link (h : g.ofLink) (s : State) (e : FaultEvent) : (s.fault e).rd g = s.rd g := by
  have hflt (t u : State) (hf : After 0x20000000000040 t u) : u.rd g = t.rd g := hf.rd .dpt h.inDpt rfl
  rw [State.fault]
  split
  · split
    · exact hflt _ _ (State.coalesceDormant_after _ (.of_and_eq rfl) (.refl s))
    · exact hflt _ _ (State.dormantRecord_after _ _ (.of_and_eq rfl) (.refl s))
  · split
    · exact State.newRecord_link h s _
    · split
      · rw [State.rd_count_ne (by rw [h.1]; decide), State.rd_onFlt]
      · exact State.newRecord_link h s _

end

theorem State.running_of {s t : State} (hclock : t.clock = s.clock) (hpower : t.power = s.power) (henergy : t.energy = s.energy)
    (hpll : t.rd CLK_STAT.PLL_LOCK = s.rd CLK_STAT.PLL_LOCK) : t.running = s.running := by
  rw [State.running, hclock, hpower, henergy, State.flag, hpll, State.running, State.flag]

/-- The cable and the reset pin are followed. -/
def State.shownCable (s : State) (mated : Bool) : State := (s.onDirect fun d => { d with cableIn := mated }).wr DPT_STAT.CBL (if mated then 1 else 0)

def State.shownPerst (s : State) : State := (s.onDirect fun d => { d with perstLow := true }).wr DPT_STAT.PERST 1

theorem State.shownCable_running (s : State) (mated : Bool) : (s.shownCable mated).running = s.running := by
  rw [State.shownCable]
  exact State.running_of (by rw [State.wr_clock, State.onDirect_clock]) (by rw [State.wr_power, State.onDirect_power]) (by rw [State.wr_energy, State.onDirect_energy])
    (by rw [State.rd_wr_ne (.inl (by decide)), State.rd_onDirect])

theorem State.shownPerst_running (s : State) : s.shownPerst.running = s.running := by
  rw [State.shownPerst]
  exact State.running_of (by rw [State.wr_clock, State.onDirect_clock]) (by rw [State.wr_power, State.onDirect_power]) (by rw [State.wr_energy, State.onDirect_energy])
    (by rw [State.rd_wr_ne (.inl (by decide)), State.rd_onDirect])

theorem State.releaseWake_wake (s : State) : s.releaseWake.rd DPT_STAT.WAKE = 0 := by
  rw [State.releaseWake]
  split
  · rw [State.rd_emit, State.rd_wr_val rfl]
  next h => simpa [State.flag] using h

theorem State.releaseWake_rd {g : Fld} (h : g.Apart DPT_STAT.WAKE) (s : State) : s.releaseWake.rd g = s.rd g := by
  rw [State.releaseWake]
  split
  · rw [State.rd_emit, State.rd_wr_ne h]
  · rfl

theorem State.releaseWake_direct (s : State) : s.releaseWake.direct = s.direct := by
  rw [State.releaseWake]
  split
  · rw [State.emit_direct, State.wr_direct]
  · rfl

end Sys2Proof.Machine
end

section
/-! The direct port's commands. -/

set_option Elab.async false

namespace Sys2Proof.Machine

/-! A link that comes up. -/

/-- The link's fields, before a link that is not whole is reported. -/
def State.shownDirectLink (s : State) (speed width : Nat) (flit : Bool) : State :=
  s.wrs [(DPT_STAT.UP, 1), (DPT_STAT.FLIT, if flit then 1 else 0), (DPT_STAT.SPEED, speed), (DPT_STAT.WIDTH, width)]

/-- The functions are idle, and the controller stands (R515). -/
def State.functionsIdle (s : State) : State := (s.each [0, 1] fun f s => s.wr (DPT_FSTAT.STATE f) fnIdle).ensureDirect

theorem State.ensureDirect_rd (s : State) (g : Fld) : s.ensureDirect.rd g = s.rd g := by
  rw [State.ensureDirect]
  split
  · rfl
  · rw [State.rd_onHost]

theorem State.functionsIdle_rd (s : State) (g : Fld) : s.functionsIdle.rd g = ((s.wr (DPT_FSTAT.STATE 0) fnIdle).wr (DPT_FSTAT.STATE 1) fnIdle).rd g := by
  rw [State.functionsIdle, State.ensureDirect_rd]
  rfl

theorem State.functionsIdle_link {g : Fld} (h : g.addr = DPT_STAT.addr) (s : State) : s.functionsIdle.rd g = s.rd g := by
  rw [State.functionsIdle_rd, State.rd_wr_ne (.inl (by rw [h]; decide)), State.rd_wr_ne (.inl (by rw [h]; decide))]

theorem State.flagFault_link {g : Fld} (h : g.ofLink) (s : State) (f : Fld) (cls severity source addr : Nat) :
    (s.flagFault f cls severity source addr).rd g = (s.wr f 1).rd g := by
  rw [State.flagFault, State.fault_link h]

theorem State.cfgReady_up {s : State} {f : Nat} (h : s.cfgReady f = true) : s.flag DPT_STAT.UP = true ∧ f < 2 := by
  rw [State.cfgReady, Bool.and_eq_true, Bool.and_eq_true, Bool.and_eq_true, decide_eq_true_eq] at h
  exact h.1.1

theorem State.cfgEvent_ready {s : State} {f : Nat} (h : s.cfgReady f = true) (act : State → State) : s.cfgEvent f act = (act s).emit (.direct .done) := by
  obtain ⟨hup, hf⟩ := State.cfgReady_up h
  rw [State.cfgEvent, hup, if_neg (by simpa using hf), if_pos h]

/-- A function that has come to rest has no read outstanding, and its latches are done (R515). -/
def State.latchesDone (s : State) (f : Nat) : State :=
  ((s.wrs [(DPT_FSTAT.TPEND f, 0)]).onFn f fun y => { y with flr := false, latchBme := false, latchCc := false, latchD0 := false }).showLatch f

theorem State.latchesDone_tpend (s : State) (f : Nat) : (s.latchesDone f).rd (DPT_FSTAT.TPEND f) = 0 := by
  rw [State.latchesDone, State.showLatch, State.rd_wr_apart rfl, State.onFn, State.rd_onDirect, State.wrs_cons, State.wrs_nil, State.rd_wr_val rfl]

/-- Settles O42: each command by what its rule does to the port. -/
theorem directPortCommandsComplete : Obligations.DirectPortCommandsComplete := by
  refine ⟨fun s => ⟨?_, fun hrun => ?_, fun hrun => ?_⟩, fun s => ?_, fun s => ⟨fun hidle => ?_, fun hrun hcable => ?_⟩,
    fun s speed width flit hrun htrain hdown hspeed hwidth => ?_, fun s hrun hup => ?_, fun s f offset v en hrun hready => ⟨?_, ?_, ?_, ?_, ?_, ?_, ?_⟩,
    fun s f offset w v en hrun hup hf hnot => ?_, fun s f hrun hf hflr hlate => ?_, fun s f hrun hf hstate hreads hbme hcc => ?_,
    fun s q tail size old hrun hen hcfs hquiet hq htail hadmin hsize hold => ?_, fun s tag data r hrun hfind => ⟨?_, fun key off c htime hwhat hcommand => ?_⟩⟩
  · obtain ⟨t, ht⟩ : ∃ t, t = if !(s.shownCable true).running then s.shownCable true else
      if (s.shownCable true).directMayTrain then (s.shownCable true).emit (.direct .train) else s.shownCable true := ⟨_, rfl⟩
    have hdirect : t.direct = (s.shownCable true).direct := by
      rw [ht]
      split
      · rfl
      · split
        · rw [State.emit_direct]
        · rfl
    have hrd (g : Fld) : t.rd g = (s.shownCable true).rd g := by
      rw [ht]
      split
      · rfl
      · split
        · rw [State.rd_emit]
        · rfl
    refine ⟨t, by rw [exec_cablePresenceChange, execCablePresenceChange, onAlways, ht]; rfl, ?_, ?_⟩
    · rw [hdirect, State.shownCable, State.wr_direct, State.onDirect_direct]
    · rw [hrd, State.shownCable, if_pos rfl, State.rd_wr_val rfl]
  · refine ⟨s.shownCable false, ?_, ?_, ?_⟩
    · rw [exec_cablePresenceChange, execCablePresenceChange, onAlways, ← State.shownCable]
      dsimp only
      rw [State.shownCable_running, hrun, if_pos (by decide)]
    · rw [State.shownCable, State.wr_direct, State.onDirect_direct]
    · rw [State.shownCable, if_neg (by decide), State.rd_wr_val rfl]
  · rw [exec_cablePresenceChange, execCablePresenceChange, onAlways, ← State.shownCable]
    dsimp only
    rw [State.shownCable_running, hrun, if_neg (by decide), if_pos (by decide)]
    rfl
  · obtain ⟨u, hu⟩ : ∃ u, u = ((s.onDirect fun d => { d with perstLow := false, perstAt := s.now }).wr DPT_STAT.PERST 0).releaseWake := ⟨_, rfl⟩
    obtain ⟨t, ht⟩ : ∃ t, t = if u.running && u.directMayTrain then u.emit (.direct .train) else u := ⟨_, rfl⟩
    have hdirect : t.direct = u.direct := by
      rw [ht]
      split
      · rw [State.emit_direct]
      · rfl
    have hrd (g : Fld) : t.rd g = u.rd g := by
      rw [ht]
      split
      · rw [State.rd_emit]
      · rfl
    refine ⟨t, by rw [exec_dirPerstDeassert, execDirPerstDeassert, onAlways, ht, hu], ?_, ?_, ?_⟩
    · rw [hdirect, hu, State.releaseWake_direct, State.wr_direct, State.onDirect_direct]
    · rw [hrd, hu, State.releaseWake_rd (by decide), State.rd_wr_val rfl]
    · rw [hrd, hu, State.releaseWake_wake]
  · refine ⟨s.shownPerst, ?_, ?_, ?_, ?_⟩
    · rw [exec_dirPerstAssert, execDirPerstAssert, onAlways, ← State.shownPerst]
      dsimp only
      rw [State.shownPerst_running, if_neg]
      rw [State.shownPerst, State.wr_direct, State.onDirect_direct]
      obtain h | h := hidle <;> simp [h]
    · rw [State.shownPerst, State.wr_direct, State.onDirect_direct]
    · rw [State.shownPerst, State.rd_wr_val rfl]
    · rw [State.shownPerst, State.wr_out, State.onDirect_out]
  · rw [exec_dirPerstAssert, execDirPerstAssert, onAlways, ← State.shownPerst]
    dsimp only
    rw [State.shownPerst_running, if_pos]
    rw [State.shownPerst, State.wr_direct, State.onDirect_direct]
    simp [hrun, hcable]
  · obtain ⟨u, hu⟩ : ∃ u, u = s.shownDirectLink speed width flit := ⟨_, rfl⟩
    obtain ⟨v, hv⟩ : ∃ v, v = if speed < 6 || width < 16 then u.flagFault DPT_STAT.DEGRADED 3 1 0x60 else u := ⟨_, rfl⟩
    have hkept {g : Fld} (h : g.ofLink) (hne : g.Apart DPT_STAT.DEGRADED) : v.functionsIdle.rd g = u.rd g := by
      rw [State.functionsIdle_link h.1, hv]
      split
      · rw [State.flagFault_link h, State.rd_wr_ne hne]
      · rfl
    refine ⟨v.functionsIdle, ?_, ?_, ?_, ?_, ?_, ?_, fun hslow => ?_⟩
    · rw [exec_directLinkUp, execDirectLinkUp, onSoc_of_running hrun, if_neg (by simp [htrain, hdown]), hv, hu]
      rfl
    · rw [hkept ⟨rfl, .inr (by decide)⟩ (by decide), hu, State.shownDirectLink, State.wrs_cons, State.wrs_cons, State.wrs_cons, State.wrs_cons, State.wrs_nil,
        State.rd_wr_apart rfl, State.rd_wr_apart rfl, State.rd_wr_apart rfl, State.rd_wr_val rfl]
    · rw [hkept ⟨rfl, .inl (by decide)⟩ (by decide), hu, State.shownDirectLink, State.wrs_cons, State.wrs_cons, State.wrs_cons, State.wrs_cons, State.wrs_nil,
        State.rd_wr_apart rfl, State.rd_wr_fits (by decide) hspeed]
    · rw [hkept ⟨rfl, .inl (by decide)⟩ (by decide), hu, State.shownDirectLink, State.wrs_cons, State.wrs_cons, State.wrs_cons, State.wrs_cons, State.wrs_nil,
        State.rd_wr_fits (by decide) hwidth]
    · rw [State.fnState, State.functionsIdle_rd, State.rd_wr_ne (.inl (by decide)), State.rd_wr_val rfl]
    · rw [State.fnState, State.functionsIdle_rd, State.rd_wr_val rfl]
    · rw [State.functionsIdle_link rfl, hv, if_pos (by simpa using hslow), State.flagFault_link ⟨rfl, .inr (by decide)⟩, State.rd_wr_val rfl]
  · rw [exec_hotReset, execHotReset, onData_of_running hrun, if_neg (by simp [hup])]
  · obtain ⟨hup, hf⟩ := State.cfgReady_up hready
    rw [exec_configRequest, execConfigRequest, onData_of_running hrun, if_neg (by simp [hup]), if_neg (by omega), hready, if_neg (by decide)]
    dsimp only
    rw [if_pos rfl]
  · obtain ⟨hup, hf⟩ := State.cfgReady_up hready
    rw [exec_configRequest, execConfigRequest, onData_of_running hrun, if_neg (by simp [hup]), if_neg (by omega), hready, if_neg (by decide)]
    dsimp only
    rw [if_neg (by decide)]
  · rw [exec_busMasterEnableClear, execBusMasterEnableClear, onData_of_running hrun, State.cfgEvent_ready hready]
  · rw [exec_busMasterEnableSet, execBusMasterEnableSet, onData_of_running hrun, State.cfgEvent_ready hready]
  · rw [exec_functionLevelReset, execFunctionLevelReset, onData_of_running hrun, State.cfgEvent_ready hready]
  · rw [exec_d3hotEntry, execD3hotEntry, onData_of_running hrun, State.cfgEvent_ready hready]
  · rw [exec_d0Return, execD0Return, onData_of_running hrun, State.cfgEvent_ready hready]
  · rw [exec_configRequest, execConfigRequest, onData_of_running hrun, if_neg (by simp [hup]), if_neg (by omega), hnot, if_pos (by decide)]
  · rw [exec_flrTimeout, execFlrTimeout, onSoc_of_running hrun, if_pos]
    rw [decide_eq_true hf, hflr, decide_eq_true hlate]
    rfl
  · obtain ⟨u, hu⟩ : ∃ u, u = s.latchesDone f := ⟨_, rfl⟩
    have hwaits : ¬ (s.fnState f ≠ fnQuiescing ∨ (f = 0 && s.direct.reads.any (·.sent)) = true) := by
      rw [hstate]
      simpa using hreads
    rw [exec_functionQuiesced, execFunctionQuiesced, onData_of_running hrun, if_pos hf, State.quiesced, if_neg (by simpa using hwaits)]
    dsimp only
    rw [← State.latchesDone, ← hu, hbme, hcc]
    cases hflr : (s.direct.fn f).flr with
    | true =>
      refine ⟨_, rfl, ?_, fun h => absurd h (by simp)⟩
      rw [if_pos rfl, State.fnState, State.wrs_cons, State.wrs_cons, State.wrs_nil, State.rd_wr_val rfl]
    | false =>
      refine ⟨_, rfl, ?_, fun _ hd0 => ?_⟩
      · simp only [Bool.false_eq_true, if_false]
        rw [State.fnState, State.rd_wr_val rfl]
      · simp only [hd0, Bool.false_eq_true, if_false]
        rw [State.rd_wr_apart rfl, hu, State.latchesDone_tpend]
  · rw [exec_sqDoorbell, execSqDoorbell, onData_of_running hrun, State.sqDoorbell]
    dsimp only
    rw [← hold, if_neg]
    simp only [hen, hcfs, Bool.not_true, Bool.or_false, Bool.false_or, Bool.or_eq_true, Bool.and_eq_true, decide_eq_true_eq]
    omega
  · rw [exec_directReadCompletion, execDirectReadCompletion, onData_of_running hrun, hfind]
  · rw [exec_directCompletionTimeout, execDirectCompletionTimeout, onData_of_running hrun, hfind]
    dsimp only
    rw [if_neg (by omega), hwhat]
    dsimp only
    rw [hcommand]

end Sys2Proof.Machine
end

section
/-! The I/O commands and what grants, resets and ends them. -/

set_option Elab.async false

namespace Sys2Proof.Machine

/-- The entry of an admitted command with a range. -/
def State.rangedEntry (s : State) (e : IoEntry) (kind : IoKind) (r : IoRange) (ns : Namespace) (buffer : HostBuffer) : HostCmd :=
  { s.newCommand e kind ns with
    range := r.range, buffer := buffer, pract := r.pract, prchk := r.prchk, lbat := r.lbat, lbatm := r.lbatm, places := s.placesOf ns r.range }

/-- A command with a range that meets no refusal enters the table (R47, R52, R81, R86). -/
theorem State.acceptRange_enters {s : State} {e : IoEntry} {kind : IoKind} {r : IoRange} {buffer : HostBuffer} {limit : Nat} {write : Bool} {ns : Namespace}
    (hadmitted : s.admission e = .ok ns) (hlimit : r.range.count ≤ limit) (hend : r.range.first + r.range.count ≤ ns.blocks)
    (hfree : (s.reservationNow ns).conflicts (s.hostOf e.key.ctrl) write = false)
    (hdata : s.dataHolds e kind buffer (r.range.count * transferBytes ns r.pract) = true) :
    s.acceptRange e kind r buffer limit write = s.enter (s.rangedEntry e kind r ns buffer) := by
  rw [State.acceptRange, hadmitted]
  dsimp only
  rw [if_neg (by omega), if_neg (by omega), hfree, if_neg (by decide), hdata, if_neg (by decide), State.rangedEntry]

/-- An admitted reservation command that is right enters the table, another is refused. -/
theorem State.acceptReservation_admitted {s : State} {e : IoEntry} {ns : Namespace} (hadmitted : s.admission e = .ok ns) (kind : IoKind) (ok : Bool)
    (q : Option ResvRequest) :
    s.acceptReservation e kind ok q = if ok then s.enter { s.newCommand e kind ns with resv := q } else s.refuse e stInvalidField := by
  rw [State.acceptReservation, hadmitted]

/-- Settles O43: each command by the state its rule answers. -/
theorem hostIoCommandsComplete : Obligations.HostIoCommandsComplete := by
  refine ⟨fun s e r ns c hrun hadmitted hend hc => ⟨fun hlimit hfree buffer hdata => ?_, fun hlimit hfree => ⟨fun hdata => ?_, fun buffer hdata => ?_⟩,
      fun hlimit hfree => ?_, fun hlimit hfree => ?_⟩,
    fun s e ns hrun hadmitted => ⟨fun ranges deallocate hlimit hright => ?_, fun sources dest total htotal hlimits hapart hend hwrite hread => ?_, fun hone => ?_,
      fun action crkey nrkey => ?_, fun extended => ?_, fun action rtype crkey prkey => ?_, fun action rtype crkey => ?_⟩,
    fun s e ns rest hrun hall hmine hadmitted => ?_, fun s e hrun hqueue => ?_,
    fun s key c hrun hcommand => ⟨fun hstage htaken hfirst => ?_, fun hstage hlock hmove hvault => ?_, fun ns u hns hstage hturn hfits hu => ⟨fun hkind => ?_, fun hkind => ?_⟩,
      fun ns ready u hns hready hu => ?_⟩,
    fun s ctrl c ends hrun hctrl => ⟨?_, fun hkato hlate => ?_, fun hshst hnone => ?_⟩⟩
  · rw [exec_write, execWrite, onData_of_running hrun, State.acceptRange_enters hadmitted hlimit hend hfree hdata, hc]
    rfl
  · rw [exec_read, execRead, onData_of_running hrun, State.acceptRange_enters hadmitted hlimit hend hfree hdata, hc]
    rfl
  · rw [exec_compare, execCompare, onData_of_running hrun, State.acceptRange_enters hadmitted hlimit hend hfree hdata, hc]
    rfl
  · rw [exec_writeZeroes, execWriteZeroes, onData_of_running hrun, State.acceptRange_enters hadmitted hlimit hend hfree rfl, hc]
    rfl
  · rw [exec_verify, execVerify, onData_of_running hrun, State.acceptRange_enters hadmitted hlimit hend hfree rfl, hc]
    rfl
  · rw [exec_datasetManagement, execDatasetManagement, onData_of_running hrun, hadmitted]
    dsimp only
    cases deallocate with
    | false => rw [if_neg (by omega), if_neg (by simp), if_neg (by simp)]
    | true =>
      obtain ⟨hend, hfree⟩ := hright rfl
      rw [if_neg (by omega), hend, if_neg (by decide), hfree, if_neg (by decide)]
  · rw [exec_copy, execCopy, onData_of_running hrun, hadmitted]
    dsimp only
    rw [← htotal, hlimits, hapart, if_neg (by decide), hend, if_neg (by decide), hwrite, hread, if_neg (by decide)]
  · rw [exec_flush, execFlush, onData_of_running hrun, State.flush, if_neg hone, hadmitted]
  · rw [exec_reservationRegister, execReservationRegister, onData_of_running hrun, State.acceptReservation_admitted hadmitted]
    simp only [decide_eq_true_eq]
  · rw [exec_reservationReport, execReservationReport, onData_of_running hrun, State.acceptReservation_admitted hadmitted]
  · rw [exec_reservationAcquire, execReservationAcquire, onData_of_running hrun, State.acceptReservation_admitted hadmitted, if_pos rfl]
  · rw [exec_reservationRelease, execReservationRelease, onData_of_running hrun, State.acceptReservation_admitted hadmitted, if_pos rfl]
  · rw [exec_flush, execFlush, onData_of_running hrun, State.flush, if_pos hall, hmine]
    dsimp only
    rw [hadmitted]
  · rw [exec_unknownIoOpcode, execUnknownIoOpcode, onData_of_running hrun, if_neg hqueue]
  · rw [exec_commandSlotGrant, execCommandSlotGrant, onData_of_running hrun, State.trySlot, hcommand]
    dsimp only
    rw [hfirst, if_pos (by simp [hstage, htaken])]
  · rw [exec_rangeLockGrant, execRangeLockGrant, onData_of_running hrun, State.tryLock, hcommand]
    dsimp only
    rw [if_pos (by simp [hstage, hlock, hmove, hvault])]
  · rw [exec_dirtyRoomGrant, execDirtyRoomGrant, onData_of_running hrun, State.tryRoom, hcommand]
    dsimp only
    rw [hns]
    dsimp only
    rw [if_pos (by simp [hstage, hturn, hfits]), ← hu, if_pos hkind]
  · rw [exec_dirtyRoomGrant, execDirtyRoomGrant, onData_of_running hrun, State.tryRoom, hcommand]
    dsimp only
    rw [hns]
    dsimp only
    rw [if_pos (by simp [hstage, hturn, hfits]), ← hu, if_neg hkind]
  · rw [exec_readDurableResume, execReadDurableResume, onData_of_running hrun, hcommand]
    dsimp only
    rw [hns, hu, hready]
  · rw [exec_controllerReset, execControllerReset, onData_of_running hrun]
  · rw [exec_keepAliveExpiry, execKeepAliveExpiry, onData_of_running hrun, hctrl]
    dsimp only
    rw [if_pos (by rw [decide_eq_true hkato, decide_eq_true hlate]; rfl)]
  · rw [exec_shutdownComplete, execShutdownComplete, onData_of_running hrun, hctrl]
    dsimp only
    rw [hshst, hnone, if_pos (by decide)]

end Sys2Proof.Machine
end

section
/-! Packets and timers whose queue pair's context is cached. -/

set_option Elab.async false

namespace Sys2Proof.Machine

theorem quietRegister_QPC_DB : quietRegister QPC_DB.addr = true := by decide +kernel

/-! A context that is touched is what it was. -/

theorem State.touchContext_cases (s : State) (idx : Nat) : s.touchContext idx = s ∨
    ∃ c, s.touchContext idx = s.onRdma fun r => { r with cache := c :: r.cache.filter (·.idx != idx) } := by
  rw [State.touchContext]
  split
  next c _ => exact .inr ⟨c, rfl⟩
  · exact .inl rfl

theorem State.touchContext_qps (s : State) (idx : Nat) : (s.touchContext idx).rdma.qps = s.rdma.qps := by
  obtain h | ⟨c, h⟩ := s.touchContext_cases idx
  · rw [h]
  · rw [h, State.onRdma_rdma]

theorem State.touchContext_rnrTimers (s : State) (idx : Nat) : (s.touchContext idx).rdma.rnrTimers = s.rdma.rnrTimers := by
  obtain h | ⟨c, h⟩ := s.touchContext_cases idx
  · rw [h]
  · rw [h, State.onRdma_rdma]

theorem State.touchContext_stepTimers (s : State) (idx : Nat) : (s.touchContext idx).rdma.stepTimers = s.rdma.stepTimers := by
  obtain h | ⟨c, h⟩ := s.touchContext_cases idx
  · rw [h]
  · rw [h, State.onRdma_rdma]

theorem State.touchContext_ctx (s : State) (idx i : Nat) (f : CtxFld) : (s.touchContext idx).ctx i f = s.ctx i f := by
  rw [State.ctx, State.qp, State.touchContext_qps, State.ctx, State.qp]

theorem State.touchContext_ackValid (s : State) (idx i psn : Nat) : (s.touchContext idx).ackValid i psn = s.ackValid i psn := by
  rw [State.ackValid, State.touchContext_ctx, State.touchContext_ctx, State.ackValid]

theorem State.touchContext_qpSends (s : State) (idx i : Nat) : (s.touchContext idx).qpSends i = s.qpSends i := by
  rw [State.qpSends, State.touchContext_ctx, State.qpSends]

/-! What a hit serves (R124). -/

/-- A hit is counted. -/
def State.countHit (s : State) (idx : Nat) : State := (s.count QPC_HIT.addr).event 0x10 (pipelineOf idx)

theorem State.passPacket_hit {s : State} {i : Instr} {transmit : Bool} {idx : Nat} (hcontext : packetContext i = some (transmit, idx))
    (hlookup : s.lookup (s.pipeline transmit (pipelineOf idx)) idx = .hit) : s.passPacket i = ((s.touchContext idx).servePacket i).countHit idx := by
  rw [State.passPacket, hcontext]
  dsimp only
  rw [State.throughPipeline, hlookup, State.countHit]

theorem State.packetIn_hit {s : State} {i : Instr} {qpn : Nat} (hcontext : packetContext i = some (false, qpnIndex qpn)) (huse : s.qpnInUse qpn = true)
    (hlookup : s.lookup (s.pipeline false (pipelineOf (qpnIndex qpn))) (qpnIndex qpn) = .hit) :
    s.packetIn qpn false i = ((s.touchContext (qpnIndex qpn)).servePacket i).countHit (qpnIndex qpn) := by
  rw [State.packetIn, huse, if_neg (by decide), State.passPacket_hit hcontext hlookup]

theorem State.packetIn_bad (s : State) (qpn : Nat) (i : Instr) : s.packetIn qpn true i = s.count QPC_DROP.addr := by
  rw [State.packetIn, Bool.true_or, if_pos rfl]

/-- Settles O44: each packet or timer by what its rule does with the context at hand. -/
theorem rdmaPacketCommandsComplete : Obligations.RdmaPacketCommandsComplete := by
  refine ⟨fun s u qpn idx hit hrun hidx huse hlookup hu hhit => ⟨fun psn op ce payload => ?_, fun psn part rkey addr len ce payload => ?_, fun psn ce payload => ?_,
      fun psn hvalid => ?_, fun psn kind => ?_, ?_⟩,
    fun s qpn psn hrun => ⟨fun op ce payload => ?_, fun part rkey addr len ce payload => ?_, fun ce payload => ?_⟩,
    fun s u idx hit hrun hlookup hu hhit => ⟨fun hsends hunacked => ?_, fun htimer => ?_, fun htimer => ?_, fun who tail hidx htail hopens howner => ?_⟩,
    fun s who idx tail hrun hidx htail hopens howner => ?_⟩
  · subst hidx
    rw [exec_inboundRequest, execInboundRequest, onSoc_of_running hrun, State.packetIn_hit rfl huse hlookup, ← hu, hhit]
    rfl
  · subst hidx
    rw [exec_inboundRdmaWrite, execInboundRdmaWrite, onSoc_of_running hrun, State.packetIn_hit rfl huse hlookup, ← hu, hhit]
    rfl
  · subst hidx
    rw [exec_rdmaReadResponse, execRdmaReadResponse, onSoc_of_running hrun, State.packetIn_hit rfl huse hlookup, ← hu, hhit]
    rfl
  · subst hidx
    have hcounts : u.ackValid (qpnIndex qpn) psn = true := by rw [hu, State.touchContext_ackValid, hvalid]
    rw [exec_ackReceived, execAckReceived, onSoc_of_running hrun, State.packetIn_hit rfl huse hlookup, ← hu, hhit, State.servePacket, State.ackArrives, if_pos hcounts]
    rfl
  · subst hidx
    rw [exec_nakReceived, execNakReceived, onSoc_of_running hrun, State.packetIn_hit rfl huse hlookup, ← hu, hhit]
    rfl
  · subst hidx
    rw [exec_cnpReceived, execCnpReceived, onSoc_of_running hrun, State.packetIn_hit rfl huse hlookup, ← hu, hhit]
    rfl
  · rw [exec_inboundRequest, execInboundRequest, onSoc_of_running hrun, State.packetIn_bad]
  · rw [exec_inboundRdmaWrite, execInboundRdmaWrite, onSoc_of_running hrun, State.packetIn_bad]
  · rw [exec_rdmaReadResponse, execRdmaReadResponse, onSoc_of_running hrun, State.packetIn_bad]
  · have hctx (f : CtxFld) : u.ctx idx f = s.ctx idx f := by rw [hu, State.touchContext_ctx]
    have hqp : u.qpSends idx = true := by rw [hu, State.touchContext_qpSends, hsends]
    rw [exec_ackTimeout, execAckTimeout, onSoc_of_running hrun, if_pos hsends, State.passPacket_hit rfl hlookup, ← hu, hhit, State.servePacket, State.ackTimeout,
      if_neg (by simp [hqp, hctx, hunacked]), hctx]
    rfl
  · rw [exec_rnrTimerExpiry, execRnrTimerExpiry, onSoc_of_running hrun, if_pos htimer, State.passPacket_hit rfl hlookup, ← hu, hhit, State.servePacket, State.rnrExpiry,
      if_pos (by rw [hu, State.touchContext_rnrTimers, htimer]), hu, State.touchContext_ctx]
    rfl
  · rw [exec_rateStepTimer, execRateStepTimer, onSoc_of_running hrun, if_pos htimer, State.passPacket_hit rfl hlookup, ← hu, hhit, State.servePacket,
      if_pos (by rw [hu, State.touchContext_stepTimers, htimer])]
    rfl
  · rw [exec_qpcDoorbell]
    unfold execQpcDoorbell
    rw [onSoc_of_running hrun, Nat.mod_eq_of_lt hidx, Nat.mod_eq_of_lt htail, State.commandWrite_quiet quietRegister_QPC_DB hopens, if_pos howner, State.passPacket_hit rfl hlookup, ← hu, hhit]
    rfl
  · rw [exec_qpcDoorbell]
    unfold execQpcDoorbell
    rw [onSoc_of_running hrun, Nat.mod_eq_of_lt hidx, Nat.mod_eq_of_lt htail, State.commandWrite_quiet quietRegister_QPC_DB hopens]
    cases who <;> rw [if_neg howner]

end Sys2Proof.Machine
end

section
/-! Contexts: what a field reads after another is set, and what a command's changes leave of a queue pair. -/

set_option Elab.async false

namespace Sys2Proof.Machine

/-- Two fields of a context share no bit. -/
def CtxFld.apart (f g : CtxFld) : Bool := f.hi < g.lo || g.hi < f.lo

/-- A field lies in the 512 bytes of a context. -/
def CtxFld.inContext (f : CtxFld) : Bool := f.lo ≤ f.hi && f.hi < 4096

theorem extractBits_mod_two_pow {n N hi lo : Nat} (h : hi < N) : extractBits (n % 2 ^ N) hi lo = extractBits n hi lo := by
  refine Nat.eq_of_testBit_eq fun i => ?_
  rw [extractBits_testBit, extractBits_testBit, Nat.testBit_mod_two_pow]
  by_cases a : i < hi + 1 - lo
  · have b : lo + i < N := by omega
    simp [b]
  · simp [a]

theorem extractBits_toNat_ofNat {n N hi lo : Nat} (h : hi < N) : extractBits (BitVec.ofNat N n).toNat hi lo = extractBits n hi lo := by
  rw [BitVec.toNat_ofNat, extractBits_mod_two_pow h]

theorem QueuePair.get_set {q : QueuePair} {f g : CtxFld} {v : Nat} (hg : g.inContext = true) :
    (q.set f v).get g = extractBits (depositBits q.img.toNat f.hi f.lo v) g.hi g.lo := by
  rw [CtxFld.inContext, Bool.and_eq_true, decide_eq_true_eq, decide_eq_true_eq] at hg
  rw [QueuePair.get, QueuePair.set]
  exact extractBits_toNat_ofNat hg.2

theorem QueuePair.get_set_self {q : QueuePair} {f : CtxFld} {v : Nat} (hf : f.inContext = true) :
    (q.set f v).get f = v % 2 ^ (f.hi + 1 - f.lo) := by
  rw [QueuePair.get_set hf]
  rw [CtxFld.inContext, Bool.and_eq_true, decide_eq_true_eq, decide_eq_true_eq] at hf
  exact extractBits_depositBits_self (by omega)

theorem QueuePair.get_set_ne {q : QueuePair} {f g : CtxFld} {v : Nat} (hf : f.inContext = true) (hg : g.inContext = true)
    (hapart : g.apart f = true) : (q.set f v).get g = q.get g := by
  rw [QueuePair.get_set hg, QueuePair.get]
  rw [CtxFld.inContext, Bool.and_eq_true, decide_eq_true_eq, decide_eq_true_eq] at hf
  rw [CtxFld.apart, Bool.or_eq_true, decide_eq_true_eq, decide_eq_true_eq] at hapart
  exact extractBits_depositBits_ne (by omega) hapart

theorem QueuePair.get_lt (q : QueuePair) (f : CtxFld) : q.get f < 2 ^ (f.hi + 1 - f.lo) := Nat.mod_lt _ (Nat.two_pow_pos _)

@[simp] theorem QueuePair.get_blank (idx : Nat) (f : CtxFld) : (QueuePair.blank idx).get f = 0 := by
  rw [QueuePair.get, show (QueuePair.blank idx).img = 0#4096 from rfl, BitVec.toNat_zero, extractBits, Nat.zero_div, Nat.zero_mod]

@[simp] theorem QueuePair.set_idx (q : QueuePair) (f : CtxFld) (v : Nat) : (q.set f v).idx = q.idx := (rfl)

@[simp] theorem QueuePair.set_bound (q : QueuePair) (f : CtxFld) (v : Nat) : (q.set f v).bound = q.bound := (rfl)

/-- The fields of `l` set one after another. -/
def QueuePair.sets (q : QueuePair) (l : List (CtxFld × Nat)) : QueuePair := l.foldl (fun (q : QueuePair) (f : CtxFld × Nat) => q.set f.1 f.2) q

@[simp] theorem QueuePair.sets_idx (q : QueuePair) (l : List (CtxFld × Nat)) : (q.sets l).idx = q.idx := by
  induction l generalizing q with
  | nil => rfl
  | cons f l ih => exact ih (q.set f.1 f.2)

theorem QueuePair.get_sets_apart {l : List (CtxFld × Nat)} {g : CtxFld} (hg : g.inContext = true)
    (hl : l.all (fun f => f.1.inContext && g.apart f.1) = true) (q : QueuePair) : (q.sets l).get g = q.get g := by
  induction l generalizing q with
  | nil => rfl
  | cons f l ih =>
    rw [List.all_cons, Bool.and_eq_true, Bool.and_eq_true] at hl
    exact (ih hl.2 (q.set f.1 f.2)).trans (QueuePair.get_set_ne hl.1.1 hg hl.1.2)

/-- A field reads as the number set last. -/
theorem QueuePair.get_sets {l : List (CtxFld × Nat)} {n : Nat} {g : CtxFld} {v : Nat} (hg : g.inContext = true) (hn : l[n]? = some (g, v))
    (hl : (l.drop (n + 1)).all (fun f => f.1.inContext && g.apart f.1) = true) (q : QueuePair) :
    (q.sets l).get g = v % 2 ^ (g.hi + 1 - g.lo) := by
  induction l generalizing n q with
  | nil => exact absurd hn (by simp)
  | cons f l ih =>
    cases n with
    | zero =>
      obtain rfl : f = (g, v) := Option.some.inj hn
      exact (QueuePair.get_sets_apart hg hl (q.set g v)).trans (QueuePair.get_set_self hg)
    | succ n => exact ih hn hl (q.set f.1 f.2)

/-! The contexts that the module holds. -/

/-- The module holds a context of this number. -/
def State.hasContext (s : State) (idx : Nat) : Bool := (getBy QueuePair.idx idx s.rdma.qps).isSome

/-- A context that reads as other than a blank one is held. -/
theorem State.hasContext_of_ctx {s : State} {idx : Nat} {f : CtxFld} (h : s.ctx idx f ≠ 0) : s.hasContext idx = true := by
  rw [State.hasContext, Option.isSome_iff_ne_none]
  intro hnone
  rw [State.ctx, State.qp, hnone] at h
  exact h (QueuePair.get_blank idx f)

theorem State.setCtx_qps (s : State) (idx : Nat) (f : CtxFld) (v : Nat) :
    (s.setCtx idx f v).rdma.qps = setBy QueuePair.idx idx (·.set f v) s.rdma.qps := by rw [State.setCtx, State.onRdma_rdma]

theorem State.getBy_setCtx (s : State) (idx : Nat) (f : CtxFld) (v : Nat) :
    getBy QueuePair.idx idx (s.setCtx idx f v).rdma.qps = (getBy QueuePair.idx idx s.rdma.qps).map (·.set f v) := by
  rw [State.setCtx_qps]
  exact find?_setBy (fun q => q.set_idx f v) _

theorem State.hasContext_setCtx (s : State) (idx : Nat) (f : CtxFld) (v : Nat) : (s.setCtx idx f v).hasContext idx = s.hasContext idx := by
  rw [State.hasContext, State.getBy_setCtx, Option.isSome_map, State.hasContext]

theorem State.qp_setCtx {s : State} {idx : Nat} (h : s.hasContext idx = true) (f : CtxFld) (v : Nat) :
    (s.setCtx idx f v).qp idx = (s.qp idx).set f v := by
  obtain ⟨q, hq⟩ := Option.isSome_iff_exists.1 h
  rw [State.qp, State.getBy_setCtx, State.qp, hq]
  rfl

theorem State.ctx_setCtx_self {s : State} {idx : Nat} {f : CtxFld} (h : s.hasContext idx = true) (hf : f.inContext = true) (v : Nat) :
    (s.setCtx idx f v).ctx idx f = v % 2 ^ (f.hi + 1 - f.lo) := by
  rw [State.ctx, State.qp_setCtx h, QueuePair.get_set_self hf]

theorem State.ctx_setCtx_ne {s : State} {idx : Nat} {f g : CtxFld} (hf : f.inContext = true) (hg : g.inContext = true) (hapart : g.apart f = true)
    (v : Nat) : (s.setCtx idx f v).ctx idx g = s.ctx idx g := by
  by_cases h : s.hasContext idx = true
  · rw [State.ctx, State.qp_setCtx h, QueuePair.get_set_ne hf hg hapart, State.ctx]
  · have hnone : getBy QueuePair.idx idx s.rdma.qps = none := Option.not_isSome_iff_eq_none.1 h
    rw [State.ctx, State.qp, State.getBy_setCtx, State.ctx, State.qp, hnone]
    rfl

theorem State.qp_bound_setCtx (s : State) (idx : Nat) (f : CtxFld) (v : Nat) : ((s.setCtx idx f v).qp idx).bound = (s.qp idx).bound := by
  rw [State.qp, State.getBy_setCtx, State.qp]
  cases getBy QueuePair.idx idx s.rdma.qps <;> rfl

@[simp] theorem State.setCtx_out (s : State) (idx : Nat) (f : CtxFld) (v : Nat) : (s.setCtx idx f v).out = s.out := (rfl)
@[simp] theorem State.setCtx_regs (s : State) (idx : Nat) (f : CtxFld) (v : Nat) : (s.setCtx idx f v).regs = s.regs := (rfl)
@[simp] theorem State.setCtx_host (s : State) (idx : Nat) (f : CtxFld) (v : Nat) : (s.setCtx idx f v).host = s.host := (rfl)
@[simp] theorem State.setCtx_mem (s : State) (idx : Nat) (f : CtxFld) (v : Nat) : (s.setCtx idx f v).mem = s.mem := (rfl)
@[simp] theorem State.setCtx_reads (s : State) (idx : Nat) (f : CtxFld) (v : Nat) : (s.setCtx idx f v).rdma.reads = s.rdma.reads := (rfl)
@[simp] theorem State.setCtx_works (s : State) (idx : Nat) (f : CtxFld) (v : Nat) : (s.setCtx idx f v).rdma.works = s.rdma.works := (rfl)

/-! A context that is put or dropped. -/

theorem State.putContext_qps (s : State) (q : QueuePair) : (s.putContext q).rdma.qps = putBy QueuePair.idx q s.rdma.qps := by
  rw [State.putContext, State.showContexts]
  rfl

theorem State.ctx_putContext (s : State) (q : QueuePair) (f : CtxFld) : (s.putContext q).ctx q.idx f = q.get f := by
  rw [State.ctx, State.qp, State.putContext_qps, getBy_putBy_self]
  rfl

@[simp] theorem State.putContext_out (s : State) (q : QueuePair) : (s.putContext q).out = s.out := (rfl)
@[simp] theorem State.putContext_mem (s : State) (q : QueuePair) : (s.putContext q).mem = s.mem := (rfl)

theorem State.dropContext_qps (s : State) (idx : Nat) :
    (s.dropContext idx).rdma.qps = (s.putContext ((QueuePair.blank idx).set Ctx.GEN (s.ctx idx Ctx.GEN))).rdma.qps := by
  rw [State.dropContext, State.onRdma_rdma]

theorem State.ctx_dropContext (s : State) (idx : Nat) (f : CtxFld) :
    (s.dropContext idx).ctx idx f = ((QueuePair.blank idx).set Ctx.GEN (s.ctx idx Ctx.GEN)).get f := by
  rw [State.ctx, State.qp, State.dropContext_qps, State.putContext_qps]
  exact congrArg (fun o => (o.getD (QueuePair.blank idx)).get f) (getBy_putBy_self QueuePair.idx ((QueuePair.blank idx).set Ctx.GEN (s.ctx idx Ctx.GEN)) _)

/-- A context that is dropped is free. -/
theorem State.dropContext_state (s : State) (idx : Nat) : (s.dropContext idx).ctx idx Ctx.STATE = qpFree := by
  rw [State.ctx_dropContext, QueuePair.get_set_ne (by decide) (by decide) (by decide), QueuePair.get_blank]
  rfl

/-- Its generation stays. -/
theorem State.dropContext_gen (s : State) (idx : Nat) : (s.dropContext idx).ctx idx Ctx.GEN = s.ctx idx Ctx.GEN := by
  rw [State.ctx_dropContext, QueuePair.get_set_self (by decide)]
  exact Nat.mod_eq_of_lt (QueuePair.get_lt _ _)

theorem State.dropContext_out (s : State) (idx : Nat) : (s.dropContext idx).out = s.out := by
  rw [State.dropContext, State.onRdma_out, State.putContext_out]

@[simp] theorem State.ctx_onController (s : State) (ctrl : Nat) (f : Controller → Controller) (idx : Nat) (g : CtxFld) :
    (s.onController ctrl f).ctx idx g = s.ctx idx g := (rfl)

/-! READ requests shown in a context. -/

theorem State.showReads_keeps {α : Type} {π : State → α} (hset : ∀ s idx f v, π (State.setCtx s idx f v) = π s) (s : State) (idx : Nat) :
    π (s.showReads idx) = π s := by
  rw [State.showReads, State.each_keeps π (fun n t => hset t _ _ _), hset]

/-- R145: a READ request that has a tracker goes out with the next PSN. -/
theorem State.grantRead_sends {s : State} {idx tracker : Nat} {r : ReadRequest}
    (hread : (s.rdma.reads.find? fun r => r.qp == idx && r.tracker.isNone) = some r) (htracker : s.freeTracker = some tracker)
    (hready : s.ctx idx Ctx.STATE = qpReady) (hroom : s.ctx idx Ctx.RD_OUT < s.ctx idx Ctx.ORD) :
    (s.grantRead idx).out = .rdma idx (.readRequest (s.ctx idx Ctx.NPSN) r.packets r.raddr r.rkey r.len) :: s.out := by
  rw [State.grantRead, hread, htracker]
  dsimp only
  rw [if_pos (by rw [hready, decide_eq_true hroom]; rfl), State.emit_out]
  rw [State.showReads_keeps (π := State.out) State.setCtx_out]
  rfl

end Sys2Proof.Machine
end

section
/-! Connections, fills, READ requests and the commands of QPC_CMD. -/

set_option Elab.async false

namespace Sys2Proof.Machine

theorem quietRegister_QPC_CMD : quietRegister QPC_CMD.addr = true := by decide +kernel

/-! A queue pair that ends. -/

theorem State.drainQueuePair_ready {s : State} {idx : Nat} (h : s.ctx idx Ctx.STATE = qpReady) :
    s.drainQueuePair idx = s.setCtx idx Ctx.STATE qpDraining := by
  rw [State.drainQueuePair, h]
  rfl

theorem State.hasContext_of_state {s : State} {idx st : Nat} (h : s.ctx idx Ctx.STATE = st) (hst : st ≠ 0) : s.hasContext idx = true :=
  State.hasContext_of_ctx (h ▸ hst)

theorem State.setCtx_state {s : State} {idx st v : Nat} (h : s.ctx idx Ctx.STATE = st) (hst : st ≠ 0) (hv : v < 256) :
    (s.setCtx idx Ctx.STATE v).ctx idx Ctx.STATE = v := by
  rw [State.ctx_setCtx_self (State.hasContext_of_state h hst) (by decide)]
  exact Nat.mod_eq_of_lt hv

/-- The queue pair of an admin queue of a controller: its end ends the association. -/
def State.isAdminQueue (s : State) (idx : Nat) : Bool := (s.qp idx).bound && s.ctx idx Ctx.SVC == 0 && s.ctx idx Ctx.QID == 0

theorem State.isAdminQueue_false {s : State} {idx : Nat} (h : (s.qp idx).bound = false ∨ s.ctx idx Ctx.SVC = 1 ∨ s.ctx idx Ctx.QID ≠ 0) :
    s.isAdminQueue idx = false := by
  obtain h | h | h := h <;> simp [State.isAdminQueue, h]

theorem State.isAdminQueue_setState (s : State) (idx v : Nat) : (s.setCtx idx Ctx.STATE v).isAdminQueue idx = s.isAdminQueue idx := by
  rw [State.isAdminQueue, State.qp_bound_setCtx, State.ctx_setCtx_ne (by decide) (by decide) (by decide),
    State.ctx_setCtx_ne (by decide) (by decide) (by decide), State.isAdminQueue]

/-- R108: a Ready queue pair drains, and with an admin queue its controller ends. -/
theorem State.endQueuePair_ready {s : State} {idx : Nat} (h : s.ctx idx Ctx.STATE = qpReady) :
    s.endQueuePair idx = if s.isAdminQueue idx then (s.setCtx idx Ctx.STATE qpDraining).resetController (s.ctx idx Ctx.CNTLID) true
      else s.setCtx idx Ctx.STATE qpDraining := by
  rw [State.endQueuePair, State.drainQueuePair_ready h]
  rw [← State.isAdminQueue, State.isAdminQueue_setState, State.ctx_setCtx_ne (by decide) (by decide) (by decide)]

theorem State.endQueuePair_drains {s : State} {idx : Nat} (h : s.ctx idx Ctx.STATE = qpReady)
    (hqueue : (s.qp idx).bound = false ∨ s.ctx idx Ctx.SVC = 1 ∨ s.ctx idx Ctx.QID ≠ 0) : s.endQueuePair idx = s.setCtx idx Ctx.STATE qpDraining := by
  rw [State.endQueuePair_ready h, State.isAdminQueue_false hqueue, if_neg (by decide)]

/-! QPC_CMD. -/

/-- A command of a context's owner that meets no obstacle acts, shows its status and is answered. -/
theorem State.qpcCommand_open {s t : State} {who : Requester} {op st : Nat} {anyOwner : Bool} {act : Nat → State → Nat × State}
    (hopens : s.Opens who QPC_CMD.addr) (hidle : s.flag QPC_CMD.BUSY = false)
    (howner : anyOwner = true ∨ ownerOf who = 0 ∨ s.ctx (s.rd QPC_CMD_IDX.IDX) Ctx.OWNER = ownerOf who) (hact : act (s.rd QPC_CMD_IDX.IDX) s = (st, t)) :
    s.qpcCommand who op anyOwner act = (t.wr QPC_CMD.STATUS st).answered who QPC_CMD.addr (BitVec.ofNat 32 op) := by
  rw [State.qpcCommand, State.commandWrite_quiet quietRegister_QPC_CMD hopens]
  dsimp only
  rw [hidle, if_neg (by decide), if_neg, hact]
  obtain h | h | h := howner <;> simp [h]

/-- What is shown of a command that ended well. -/
theorem State.qpcAnswered (t : State) (who : Requester) (v : Word) (idx : Nat) (f : CtxFld) :
    ((t.wr QPC_CMD.STATUS 0).answered who QPC_CMD.addr v).rd QPC_CMD.STATUS = 0 ∧
      ((t.wr QPC_CMD.STATUS 0).answered who QPC_CMD.addr v).ctx idx f = t.ctx idx f ∧
      ((t.wr QPC_CMD.STATUS 0).answered who QPC_CMD.addr v).mem = t.mem := by
  refine ⟨?_, ?_, ?_⟩
  · rw [State.answered_rd]
    exact State.rd_wr_val rfl
  · rw [State.ctx, State.qp, State.answered_rdma, State.wr_rdma, ← State.qp, ← State.ctx]
  · rw [State.answered_mem, State.wr_mem]

/-- A requester that is no partition, or one with room, may have one more context. -/
theorem createRoom {s : State} {who : Requester} (hroom : ∀ p, who = .partition p → s.contextsOwned (p + 1) < s.partQueuePairs p) (p : Nat)
    (hwho : who = .partition p) : decide (s.partQueuePairs p ≤ s.contextsOwned (p + 1)) = false :=
  decide_eq_false (Nat.not_le.2 (hroom p hwho))

/-- The context that a create installs: the image with what the module itself sets. -/
def State.createdContext (s : State) (who : Requester) (idx : Nat) (image : QueuePair) : QueuePair :=
  let gen := nextGen (s.ctx idx Ctx.GEN)
  let lane := s.laneRateMb (image.get Ctx.LANE / 8)
  image.sets ([(Ctx.STATE, qpReady), (Ctx.GEN, gen), (Ctx.LQPN, qpnOf idx gen), (Ctx.OWNER, ownerOf who), (Ctx.SVC, 1), (Ctx.PIN, 0),
    (Ctx.CNTLID, 0), (Ctx.RETRIES_LEFT, image.get Ctx.RETRY), (Ctx.UNA_PSN, image.get Ctx.NPSN), (Ctx.RD_OUT, 0), (Ctx.RATE, lane),
    (Ctx.TARGET, lane), (Ctx.LIMITED, 0), (Ctx.NAK_SENT, 0), (Ctx.RQ_POSTED, image.get Ctx.RQ_DEPTH)] ++
    (List.range 16).map fun n => (Ctx.RD_TRK n, 0))

theorem nextGen_lt (g : Nat) : nextGen g < 2 ^ 16 := by
  rw [nextGen]
  split
  · exact Nat.mod_lt _ (by decide)
  · exact Nat.mod_lt _ (by decide)

theorem State.createdContext_shows (s : State) (who : Requester) (idx : Nat) (image : QueuePair) :
    (s.createdContext who idx image).idx = image.idx ∧ (s.createdContext who idx image).get Ctx.STATE = qpReady ∧
      (s.createdContext who idx image).get Ctx.OWNER = ownerOf who % 256 ∧ (s.createdContext who idx image).get Ctx.SVC = 1 ∧
      (s.createdContext who idx image).get Ctx.GEN = nextGen (s.ctx idx Ctx.GEN) := by
  refine ⟨QueuePair.sets_idx _ _, ?_, ?_, ?_, ?_⟩
  · rw [State.createdContext, QueuePair.get_sets (n := 0) (by decide) rfl rfl]
    rfl
  · rw [State.createdContext, QueuePair.get_sets (n := 3) (by decide) rfl rfl]
    rfl
  · rw [State.createdContext, QueuePair.get_sets (n := 4) (by decide) rfl rfl]
    rfl
  · rw [State.createdContext, QueuePair.get_sets (n := 1) (by decide) rfl rfl]
    exact Nat.mod_eq_of_lt (nextGen_lt _)

theorem createQpc {s : State} {who : Requester} {idx : Nat} {image : QueuePair} (hrun : s.running = true) (hopens : s.Opens who QPC_CMD.addr)
    (hidle : s.flag QPC_CMD.BUSY = false) (hidx : idx = s.rd QPC_CMD_IDX.IDX)
    (himage : image = { QueuePair.blank idx with img := BitVec.ofNat 4096 (s.loadNat (s.rd64 QPC_CMD_ADDR.addr) 512) })
    (hfree : s.ctx idx Ctx.STATE = qpFree) (hroom : ∀ p, who = .partition p → s.contextsOwned (p + 1) < s.partQueuePairs p) (hgood : imageGood image = true) :
    exec (.qpcCreate who) s = .next (((s.putContext (s.createdContext who idx image)).wr QPC_CMD.STATUS 0).answered who QPC_CMD.addr 1) := by
  subst hidx
  rw [exec_qpcCreate, execQpcCreate, onSoc_of_running hrun, State.qpcCommand_open (st := 0) (t := s.putContext (s.createdContext who (s.rd QPC_CMD_IDX.IDX) image))
    hopens hidle (.inl rfl)]
  · rfl
  · dsimp only
    rw [← himage, if_neg (by rw [hfree]; decide), hgood, if_neg, if_neg (by decide), State.createdContext, QueuePair.sets]
    cases who with
    | partition p => exact Bool.eq_false_iff.1 (createRoom hroom p rfl)
    | ronhenko => exact Bool.false_ne_true
    | directHost => exact Bool.false_ne_true
    | wallflower => exact Bool.false_ne_true

/-- Settles O45: each clause by the effect of its command on the context it names. -/
theorem queuePairCommandsComplete : Obligations.QueuePairCommandsComplete := by
  refine ⟨fun s c hrun => ⟨fun q hport haccept hq => ?_, fun st hport hrefuse => ?_, fun hport => ?_⟩,
    fun s idx hrun => ⟨fun hstate => ⟨?_, ?_, ?_⟩, fun hstate => ⟨fun hqueue => ?_, fun hbound hsvc hqid => ?_⟩,
      fun hbusy => ⟨fun hstate => ?_, fun hstate hcells => ?_⟩⟩,
    fun s tx pipe hrun => ⟨fun idx u p hp hfill hroom hu => ?_, fun idx hevict => ?_⟩,
    fun s tracker r hrun hread hfull => ?_,
    fun s idx hrun => ⟨fun hwait hlookup => ?_, fun w hwork hdone => ?_, fun r t hread htracker hstate hroom => State.grantRead_sends hread htracker hstate hroom⟩,
    fun s who idx hrun hopens hidle hidx => ⟨fun image himage hfree hroom hgood => ?_,
      fun howner => ⟨?_, fun hstate => ⟨?_, fun hqueue => ?_, ?_⟩, fun hstate hpins => ?_, fun hstate => ?_⟩⟩⟩
  · rw [exec_connectionRequest, execConnectionRequest, onSoc_of_running hrun, if_neg (fun h => h hport), haccept, hq]
  · rw [exec_connectionRequest, execConnectionRequest, onSoc_of_running hrun, if_neg (fun h => h hport), hrefuse]
  · rw [exec_connectionRequest, execConnectionRequest, onSoc_of_running hrun, if_pos hport]
  · refine ⟨_, by rw [exec_readyToUse, execReadyToUse, onSoc_of_running hrun, if_pos hstate], ?_, ?_, by rfl, by rfl⟩
    · rw [State.ctx_setCtx_ne (by decide) (by decide) (by decide), State.setCtx_state hstate (by decide) (by decide)]
    · rw [State.ctx_setCtx_self (by rw [State.hasContext_setCtx, State.hasContext_of_state hstate (by decide)]) (by decide)]
      exact Nat.mod_eq_of_lt (QueuePair.get_lt _ _)
  · exact ⟨_, by rw [exec_connectingTimeout, execConnectingTimeout, onSoc_of_running hrun, if_pos hstate], s.dropContext_state idx, s.dropContext_gen idx, s.dropContext_out idx⟩
  · exact ⟨_, by rw [exec_connectionReject, execConnectionReject, onSoc_of_running hrun, if_pos hstate], s.dropContext_state idx, s.dropContext_gen idx, s.dropContext_out idx⟩
  · refine ⟨_, by rw [exec_disconnectRequest, execDisconnectRequest, onSoc_of_running hrun, if_pos hstate, State.endQueuePair_drains hstate hqueue], ?_, by rfl, by rfl⟩
    exact State.setCtx_state hstate (by decide) (by decide)
  · have hadmin : s.isAdminQueue idx = true := by rw [State.isAdminQueue, hbound, hsvc, hqid]; rfl
    rw [exec_disconnectRequest, execDisconnectRequest, onSoc_of_running hrun, if_pos hstate, State.endQueuePair_ready hstate, if_pos hadmin]
  · refine ⟨_, by rw [exec_queuePairDrained, execQueuePairDrained, onSoc_of_running hrun, hbusy, if_neg (by decide), if_pos hstate], ?_, by rfl⟩
    exact State.setCtx_state hstate (by decide) (by decide)
  · refine ⟨_, by rw [exec_queuePairDrained, execQueuePairDrained, onSoc_of_running hrun, hbusy, if_neg (by decide), if_neg (by rw [hstate]; decide),
      if_pos (by rw [hstate, hcells]; rfl)], ?_, ?_⟩
    · rw [State.ctx_onController, State.dropContext_state]
    · rw [State.ctx_onController, State.dropContext_gen]
  · subst hp
    rw [exec_contextFillComplete, execContextFillComplete, onSoc_of_running hrun]
    dsimp only
    rw [hfill]
    dsimp only
    have hplace : (Decidable.decide (2 ≤ (s.pipeline tx pipe).evict.length) && (s.victim idx).any (·.dirty)) = false := by
      obtain hclean | hshort := hroom
      · rw [hclean, Bool.and_false]
      · rw [decide_eq_false (Nat.not_le.2 hshort), Bool.false_and]
    rw [hplace, if_neg Bool.false_ne_true, ← hu]
  · rw [exec_evictionWritebackComplete, execEvictionWritebackComplete, onSoc_of_running hrun, if_pos (List.contains_iff_mem.2 hevict)]
  · rw [exec_readRequestComplete, execReadRequestComplete, onSoc_of_running hrun, hread]
    dsimp only
    rw [if_neg (Nat.not_lt.2 hfull)]
    refine ⟨_, rfl, ?_, ?_, ?_⟩
    · rw [State.showReads_keeps (π := fun s => s.rdma.reads) State.setCtx_reads]
      split <;> rfl
    · rw [State.showReads_keeps (π := fun s => s.rdma.works) State.setCtx_works]
      split <;> rfl
    · rw [State.showReads_keeps (π := State.out) State.setCtx_out]
      split <;> rfl
  · rw [exec_readTrackerGrant, execReadTrackerGrant, onSoc_of_running hrun, if_pos hwait, State.passPacket_hit rfl hlookup]
    rfl
  · rw [exec_workRequestComplete, execWorkRequestComplete, onSoc_of_running hrun, hwork]
    dsimp only
    rw [if_pos hdone]
  · obtain ⟨hkey, hstate, howner, hsvc, hgen⟩ := s.createdContext_shows who idx image
    have himageIdx : image.idx = idx := by rw [himage]; rfl
    obtain ⟨t, ht⟩ : ∃ t, t = s.putContext (s.createdContext who idx image) := ⟨_, rfl⟩
    have hctx (f : CtxFld) : t.ctx idx f = (s.createdContext who idx image).get f := by
      rw [ht, ← State.ctx_putContext, hkey, himageIdx]
    have hshows := fun f => t.qpcAnswered who 1 idx f
    refine ⟨_, by rw [createQpc hrun hopens hidle hidx himage hfree hroom hgood, ← ht], (hshows Ctx.STATE).1, ?_, ?_, ?_, ?_, ?_⟩
    · rw [(hshows _).2.1, hctx, hstate]
    · rw [(hshows _).2.1, hctx, howner]
    · rw [(hshows _).2.1, hctx, hsvc]
    · rw [(hshows _).2.1, hctx, hgen]
    · rw [(hshows Ctx.STATE).2.2, ht, State.putContext_mem]
  · rw [exec_qpcRead, execQpcRead, onSoc_of_running hrun, State.qpcCommand_open (st := 0) hopens hidle (.inr (hidx ▸ howner)) rfl, ← hidx]
    refine ⟨_, rfl, ?_, ?_, ?_⟩
    · exact (State.qpcAnswered _ who 2 idx Ctx.STATE).1
    · rw [State.answered_mem, State.wr_mem]
    · rw [State.answered_rdma, State.wr_rdma]
      exact (State.storeBytes_after s _ _ (T := 0x10000008004000) (.of_and_eq rfl) (.refl s)).part .rdma rfl
  · rw [exec_qpcDestroy, execQpcDestroy, onSoc_of_running hrun,
      State.qpcCommand_open hopens hidle (.inr (hidx ▸ howner)) (if_pos (by rw [← hidx, hstate])), ← hidx]
    rfl
  · rw [State.endQueuePair_drains hstate hqueue]
    exact State.setCtx_state hstate (by decide) (by decide)
  · rw [exec_qpcFlush, execQpcFlush, onSoc_of_running hrun,
      State.qpcCommand_open hopens hidle (.inr (hidx ▸ howner)) (if_pos (by rw [← hidx, hstate])), ← hidx]
    rfl
  · by_cases hpin : s.ctx idx Ctx.PIN = 1
    · refine ⟨_, by rw [exec_qpcPin, execQpcPin, onSoc_of_running hrun, State.qpcCommand_open (st := 0) (t := s) hopens hidle (.inr (hidx ▸ howner))
        (by rw [← hidx, if_neg hstate, if_pos hpin])], (s.qpcAnswered who (BitVec.ofNat 32 5) idx Ctx.PIN).1, ?_, (s.qpcAnswered who (BitVec.ofNat 32 5) idx Ctx.PIN).2.2⟩
      rw [(s.qpcAnswered who (BitVec.ofNat 32 5) idx Ctx.PIN).2.1, hpin]
    · have hfew : ¬ 4 ≤ s.pinsOfSet idx := Nat.not_le.2 (hpins.resolve_left hpin)
      have hshows := (s.setCtx idx Ctx.PIN 1).qpcAnswered who (BitVec.ofNat 32 5) idx Ctx.PIN
      refine ⟨_, by rw [exec_qpcPin, execQpcPin, onSoc_of_running hrun, State.qpcCommand_open (st := 0) (t := s.setCtx idx Ctx.PIN 1) hopens hidle
        (.inr (hidx ▸ howner)) (by rw [← hidx, if_neg hstate, if_neg hpin, if_neg hfew])], hshows.1, ?_, hshows.2.2⟩
      rw [hshows.2.1, State.ctx_setCtx_self (State.hasContext_of_ctx hstate) (by decide)]
      rfl
  · have hshows := (s.setCtx idx Ctx.PIN 0).qpcAnswered who (BitVec.ofNat 32 6) idx Ctx.PIN
    refine ⟨_, by rw [exec_qpcUnpin, execQpcUnpin, onSoc_of_running hrun, State.qpcCommand_open (st := 0) (t := s.setCtx idx Ctx.PIN 0) hopens hidle
      (.inr (hidx ▸ howner)) (by rw [← hidx, if_neg hstate])], hshows.1, ?_, hshows.2.2⟩
    rw [hshows.2.1, State.ctx_setCtx_self (State.hasContext_of_ctx hstate) (by decide)]
    rfl

end Sys2Proof.Machine
end

section
/-! Admin commands, Connect, properties and the authentication messages. -/

set_option Elab.async false

namespace Sys2Proof.Machine

/-! An entry taken in changes nothing that its command looks at. -/

theorem State.enterAdmin_host (s : State) (e : AdminEntry) :
    (s.enterAdmin e).host = { s.host with adminEntries := e :: s.host.adminEntries.filter (·.key != e.key) } := (rfl)

@[simp] theorem State.enterAdmin_admin (s : State) (e : AdminEntry) : (s.enterAdmin e).admin = s.admin := (rfl)
@[simp] theorem State.enterAdmin_now (s : State) (e : AdminEntry) : (s.enterAdmin e).now = s.now := (rfl)
@[simp] theorem State.enterAdmin_rd (s : State) (e : AdminEntry) (f : Fld) : (s.enterAdmin e).rd f = s.rd f := (rfl)
@[simp] theorem State.enterAdmin_qp (s : State) (e : AdminEntry) (q : Nat) : (s.enterAdmin e).qp q = s.qp q := (rfl)
@[simp] theorem State.enterAdmin_controller (s : State) (e : AdminEntry) (ctrl : Nat) : (s.enterAdmin e).controller ctrl = s.controller ctrl := (rfl)
@[simp] theorem State.enterAdmin_namespace (s : State) (e : AdminEntry) (nsid : Nat) : (s.enterAdmin e).namespace nsid = s.namespace nsid := (rfl)
@[simp] theorem State.enterAdmin_leads (s : State) (e : AdminEntry) (g : Nat) : (s.enterAdmin e).leads g = s.leads g := (rfl)
@[simp] theorem State.enterAdmin_sanitizeStatus (s : State) (e : AdminEntry) (listed : Bool) :
    (s.enterAdmin e).sanitizeStatus listed = s.sanitizeStatus listed := (rfl)

@[simp] theorem State.enterAdmin_queuePairOf (s : State) (e : AdminEntry) (ctrl qid : Nat) :
    (s.enterAdmin e).queuePairOf ctrl qid = s.queuePairOf ctrl qid := by
  rw [State.queuePairOf, State.enterAdmin_controller, State.queuePairOf]

@[simp] theorem State.enterAdmin_authDue (s : State) (e : AdminEntry) (key : CmdKey) : (s.enterAdmin e).authDue key = s.authDue key := by
  rw [State.authDue, State.enterAdmin_queuePairOf, State.authDue]
  rfl

@[simp] theorem State.enterAdmin_liveNamespace (s : State) (e : AdminEntry) (nsid : Nat) :
    (s.enterAdmin e).liveNamespace nsid = s.liveNamespace nsid := by
  rw [State.liveNamespace, State.enterAdmin_namespace, State.liveNamespace]

@[simp] theorem State.enterAdmin_chapKey (s : State) (e : AdminEntry) (nqn : Bytes) (hostId : Nat) :
    (s.enterAdmin e).chapKey nqn hostId = s.chapKey nqn hostId := (rfl)

@[simp] theorem State.enterAdmin_featureScope (s : State) (e : AdminEntry) (ctrl fid nsid : Nat) :
    (s.enterAdmin e).featureScope ctrl fid nsid = s.featureScope ctrl fid nsid := (rfl)

@[simp] theorem State.enterAdmin_featureCheck (s : State) (e : AdminEntry) (fid nsid value : Nat) :
    (s.enterAdmin e).featureCheck fid nsid value = s.featureCheck fid nsid value := (rfl)

theorem State.AdminOpen.enterAdmin {s : State} {key : CmdKey} {listed : Bool} {c : Controller} (h : s.AdminOpen key listed c) (e : AdminEntry) :
    (s.enterAdmin e).AdminOpen key listed c where
  controller := by rw [State.enterAdmin_controller, h.controller]
  authenticated := by rw [State.enterAdmin_authDue, h.authenticated]
  enabled := h.enabled
  notShut := h.notShut
  notSanitizing := by rw [State.enterAdmin_sanitizeStatus, h.notSanitizing]

/-! What a command does once it may run. -/

theorem State.atLead_here {s : State} {g : Nat} (h : s.leads g = true) (key : CmdKey) (opcode nsid : Nat) (operands : Bytes) (here : State → State) :
    s.atLead key opcode nsid g operands here = here s := by
  rw [State.atLead, if_pos h]

theorem State.fabricsRun_open {s : State} (h : s.sanitizeStatus false = none) (key : CmdKey) (f : State → State) : s.fabricsRun key f = f s := by
  rw [State.fabricsRun, h]

/-- Get Features of a feature the module knows. -/
theorem State.getFeature_known {s : State} {key : CmdKey} {c : Controller} {fid sel nsid : Nat} (hctrl : s.controller key.ctrl = some c)
    (hknown : featureKnown fid = true) (hsel : sel ≤ 3) (hns : fid = 0xC0 ∨ fid = 0x82 → (s.namespace nsid).isSome = true) :
    s.getFeature key fid sel nsid =
      if sel = 3 then s.endAdmin key stOk (featureCapabilities fid)
      else if fid = 0x0E then s.answerData key (leBytes 6 (s.now / 10 ^ 6) ++ [0, 0])
      else if fid = 0x81 then s.answerData key (leBytes 16 c.hostId)
      else s.endAdmin key stOk (if sel = 0 then s.feature c fid nsid else if sel = 1 then featureDefault fid else s.savedFeature fid nsid) := by
  have hlisted : ¬ (((Decidable.decide (fid = 0xC0) || Decidable.decide (fid = 0x82)) && (s.namespace nsid).isNone) = true) := by
    by_cases hfid : fid = 0xC0 ∨ fid = 0x82
    · obtain ⟨n, hn⟩ := Option.isSome_iff_exists.1 (hns hfid)
      simp [hn]
    · have : (Decidable.decide (fid = 0xC0) || Decidable.decide (fid = 0x82)) = false := by simpa using hfid
      rw [this]
      simp
  rw [State.getFeature, hctrl]
  dsimp only
  rw [if_neg (by rw [hknown]; simp [hsel]), if_neg hlisted]

/-- Set Features, not saved, of a feature that admits the value. -/
theorem State.setFeature_ok {s : State} {key : CmdKey} {fid nsid value v : Nat} (hknown : featureKnown fid = true)
    (hcheck : s.featureCheck fid nsid value = .ok v) :
    s.setFeature key fid false nsid value = (s.onController key.ctrl fun c =>
      if fid = 0x0B then { c with aec := v }
      else if fid = 0x0F then { c with kato := v }
      else if fid = 0x81 then { c with hostId := v }
      else if fid = 0x01 then c
      else { c with features := (s.featureScope key.ctrl fid nsid).foldl (fun l n => putBy (·.1) (featureSlot fid n, v) l) c.features }).endAdmin
        key stOk (if fid = 0x07 then v else 0) := by
  rw [State.setFeature, hknown, hcheck]
  rfl

theorem State.notify_admin (s : State) (b : NoticeBody) : (s.notify b).admin = s.admin :=
  (State.notify_after s b (T := 0x40340011000080) (.of_and_eq rfl) (.refl s)).part .admin rfl

/-- Connect on a Ready queue pair that no controller has. -/
theorem State.connect_open {s : State} {qp cid : Nat} {c : ConnectCapsule} (hfree : (s.qp qp).bound = false) (hready : s.ctx qp Ctx.STATE = qpReady)
    (hsan : s.sanitizeStatus false = none) : s.connect qp cid c = match s.connectCheck qp c with
      | .error st => s.connectReply qp c.cntlid c.qid cid st 0
      | .ok old =>
        let auth := if (s.chapKey c.hostNqn c.hostId).isSome then 1 else 0
        let id := match old with | some x => x.cntlid | none => s.freeCntlid.getD 0
        let s := match old with
          | some _ => s
          | none => s.onHost fun h => { h with controllers := h.controllers ++ [s.newController id c] }
        let s := s.bindQueue id c.qid qp (auth == 1)
        s.connectReply qp id c.qid cid stOk (id + auth * 65536) := by
  rw [State.connect, hfree, hready, hsan]
  rfl

/-! Commands that come before the controller may run admin commands. -/

/-- What a Property Get returns of a controller, where the property is one. -/
def propertyValue (c : Controller) (offset size : Nat) : Option Nat :=
  if offset = 0x00 && size = 8 then some capValue
  else if offset = 0x08 && size = 4 then some 0x00020000
  else if offset = 0x14 && size = 4 then some c.cc
  else if offset = 0x1C && size = 4 then some c.csts
  else none

theorem exec_propertyGet_open {s : State} {key : CmdKey} {c : Controller} {offset size v : Nat} (hrun : s.running = true)
    (hctrl : s.controller key.ctrl = some c) (hdirect : c.direct = false) (hdue : s.authDue key = false) (hsan : s.sanitizeStatus false = none)
    (hvalue : propertyValue c offset size = some v) : exec (.propertyGet key offset size) s = .next (s.endAdmin key stOk v) := by
  rw [propertyValue] at hvalue
  rw [exec_propertyGet, execPropertyGet, onSoc_of_running hrun, hctrl]
  dsimp only
  rw [hdirect, if_neg (by decide), hdue, if_neg (by decide), State.fabricsRun_open hsan, hvalue]

/-- R119: an authentication message of the host, by its id and the step of the transaction. -/
theorem exec_authenticationSend_open {s : State} {e : AdminEntry} {m k : Bytes} {c : Controller} {q : Nat} (hrun : s.running = true)
    (hctrl : s.controller e.key.ctrl = some c) (hdirect : c.direct = false) (hsan : s.sanitizeStatus false = none)
    (hchap : s.chapKey c.hostNqn c.hostId = some k) (hqp : s.queuePairOf e.key.ctrl e.key.qid = some q) :
    exec (.authenticationSend e m) s = .next (
      if numAt m 1 1 = 0x00 then
        if negotiable m then ((s.enterAdmin e).onQp q (·.authTo 2)).endAdmin e.key stOk else (s.enterAdmin e).endConnection e.key
      else if numAt m 1 1 = 0x02 && (s.qp q).auth = 3 then
        if Config.chapVerifies k m then ((s.enterAdmin e).onQp q (·.authTo (if numAt m 8 1 = 1 then 6 else 4))).endAdmin e.key stOk
        else (s.enterAdmin e).endConnection e.key
      else if numAt m 1 1 = 0x04 && (s.qp q).auth = 5 then ((s.enterAdmin e).onQp q (·.authTo 0)).endAdmin e.key stOk
      else (s.enterAdmin e).endConnection e.key) := by
  rw [exec_authenticationSend, execAuthenticationSend, onSoc_of_running hrun]
  dsimp only
  rw [State.enterAdmin_controller, hctrl]
  dsimp only
  rw [hdirect, if_neg (by decide), State.fabricsRun_open (by rw [State.enterAdmin_sanitizeStatus, hsan]), State.enterAdmin_queuePairOf, hqp,
    State.enterAdmin_chapKey, hchap]
  rfl

/-- R119: a message the host asks for, by the step of the transaction. -/
theorem exec_authenticationReceive_open {s : State} {e : AdminEntry} {k : Bytes} {c : Controller} {q length : Nat} (hrun : s.running = true)
    (hctrl : s.controller e.key.ctrl = some c) (hdirect : c.direct = false) (hsan : s.sanitizeStatus false = none)
    (hchap : s.chapKey c.hostNqn c.hostId = some k) (hqp : s.queuePairOf e.key.ctrl e.key.qid = some q) :
    exec (.authenticationReceive e length) s = .next (
      if (s.qp q).auth = 2 then
        ((s.enterAdmin e).onQp q (·.authTo 3)).answerData e.key (Config.bytesOf length (Config.chapByte k (s.qp q).auth))
      else if (s.qp q).auth = 4 then
        ((s.enterAdmin e).onQp q (·.authTo 0)).answerData e.key (Config.bytesOf length (Config.chapByte k (s.qp q).auth))
      else if (s.qp q).auth = 6 then
        ((s.enterAdmin e).onQp q (·.authTo 5)).answerData e.key (Config.bytesOf length (Config.chapByte k (s.qp q).auth))
      else (s.enterAdmin e).endConnection e.key) := by
  rw [exec_authenticationReceive, execAuthenticationReceive, onSoc_of_running hrun]
  dsimp only
  rw [State.enterAdmin_controller, hctrl]
  dsimp only
  rw [hdirect, if_neg (by decide), State.fabricsRun_open (by rw [State.enterAdmin_sanitizeStatus, hsan]), State.enterAdmin_queuePairOf, hqp,
    State.enterAdmin_chapKey, hchap]
  rfl

/-- Settles O46: each admin command by what it does once it may run. -/
theorem adminCommandsComplete : Obligations.AdminCommandsComplete := by
  refine ⟨fun s u e c hrun hopen hu => ?_, fun s key c hrun hopen => ⟨?_, fun haers => ?_⟩, fun s u e c hrun hopen hu => ?_,
    fun s key c hrun hopen => ⟨?_, fun e hkey hqid => ?_, fun nsid n hlive hleads hformat => ?_, fun slot action haction => ?_, fun slot st t => ⟨fun hst => ?_,
      fun hst => ?_, fun hst => ?_, fun hst => ?_⟩⟩,
    fun s key status dword0 hrun hforward => ?_, fun s hrun htrial => ⟨fun hover => ?_, fun htime => ?_⟩,
    fun s qp cid c auth hrun hbound hready hsan hauth => ⟨fun hcheck id hid => ?_, fun old hcheck => ?_, fun st hcheck => ?_⟩,
    fun s key c hrun hctrl hdirect hsan => ⟨fun hdue => ⟨?_, ?_, ?_, ?_, fun v => ?_⟩, fun e u k q hkey hu hchap hqp => ?_⟩⟩
  · have hopenU : u.AdminOpen e.key true c := by rw [hu]; exact hopen.enterAdmin e
    refine ⟨fun nsid lid offset length page t hoffset hlength hpage => ?_, fun cns nsid cntid d hd => ?_, fun fid sel nsid hknown hsel hns => ?_⟩
    · rw [exec_getLogPage, execGetLogPage, onSoc_of_running hrun, ← hu, State.adminRun_open hopenU, if_neg (by simp [hoffset, hlength]), hopenU.controller]
      dsimp only
      rw [hpage]
    · rw [exec_identify, execIdentify, onSoc_of_running hrun, ← hu, State.adminRun_open hopenU, hopenU.controller]
      dsimp only
      rw [hd]
    · have hget : exec (.getFeatures e fid sel nsid) s = .next (u.getFeature e.key fid sel nsid) := by
        rw [exec_getFeatures, execGetFeatures, onSoc_of_running hrun, ← hu, State.adminRun_open hopenU]
      have hnsU : fid = 0xC0 ∨ fid = 0x82 → (u.namespace nsid).isSome = true := by rw [hu]; exact hns
      rw [hget, State.getFeature_known hopenU.controller hknown hsel hnsU]
      refine ⟨fun h => by rw [if_pos h], fun h h' => ?_, fun h h' => ?_, fun h h' h'' => ?_⟩
      · rw [if_neg h, if_pos h', hu, State.enterAdmin_now]
      · rw [if_neg h, if_neg (by omega), if_pos h']
      · rw [if_neg h, if_neg h', if_neg h'']
  · rw [exec_keepAlive, execKeepAlive, onSoc_of_running hrun, State.adminRun_open hopen, hopen.controller, Option.any_some]
  · rw [exec_asynchronousEventRequest, execAsynchronousEventRequest, onSoc_of_running hrun, State.adminRun_open hopen, hopen.controller]
    dsimp only
    rw [if_neg (Nat.not_le.2 haers)]
  · have hopenU : u.AdminOpen e.key false c := by rw [hu]; exact hopen.enterAdmin e
    have hset {fid nsid value v : Nat} (hknown : featureKnown fid = true) (hcheck : s.featureCheck fid nsid value = .ok v) :
        exec (.setFeatures e fid false nsid value) s = .next (u.setFeature e.key fid false nsid value) ∧ u.featureCheck fid nsid value = .ok v := by
      refine ⟨?_, by rw [hu, State.enterAdmin_featureCheck, hcheck]⟩
      rw [exec_setFeatures, execSetFeatures, onSoc_of_running hrun, ← hu, State.adminRun_open hopenU]
    refine ⟨fun nsid value v hcheck => ?_, fun nsid value v hcheck => ?_, fun fid nsid value v hknown hother hcheck => ?_,
      fun size lbaf g hlow hhigh hlbaf hleads => ?_, fun nsid n hlive hleads => ⟨fun ctrls hsome hadmit hnew => ?_, fun ctrls hformat hsome hattached => ?_⟩,
      fun offset data l hpiece => ?_⟩
    · obtain ⟨hexec, hcheckU⟩ := hset (by decide) hcheck
      rw [hexec, State.setFeature_ok (by decide) hcheckU]
      rfl
    · obtain ⟨hexec, hcheckU⟩ := hset (by decide) hcheck
      rw [hexec, State.setFeature_ok (by decide) hcheckU]
      rfl
    · obtain ⟨hexec, hcheckU⟩ := hset hknown hcheck
      have hne : fid ≠ 0x01 ∧ fid ≠ 0x0B ∧ fid ≠ 0x0F ∧ fid ≠ 0x81 := by simpa using hother
      obtain ⟨hfid1, hfidB, hfidF, hfid81⟩ := hne
      rw [hexec, State.setFeature_ok hknown hcheckU]
      simp only [if_neg hfid1, if_neg hfidB, if_neg hfidF, if_neg hfid81]
      rw [hu, State.enterAdmin_featureScope]
    · rw [exec_namespaceManagementCreate, execNamespaceManagementCreate, onSoc_of_running hrun, ← hu, State.adminRun_open hopenU, if_neg (by simp),
        if_neg (by simp; omega), if_neg (by omega), State.atLead_here (by rw [hu, State.enterAdmin_leads, hleads])]
    · rw [exec_namespaceAttach, execNamespaceAttach, onSoc_of_running hrun, ← hu, State.adminRun_open hopenU,
        show u.liveNamespace nsid = some n by rw [hu, State.enterAdmin_liveNamespace, hlive]]
      dsimp only
      rw [State.atLead_here (by rw [hu, State.enterAdmin_leads, hleads]), State.attachNamespace, hadmit, hnew, if_neg (by simp [hsome]), if_neg (by decide)]
    · rw [exec_namespaceDetach, execNamespaceDetach, onSoc_of_running hrun, ← hu, State.adminRun_open hopenU,
        show u.liveNamespace nsid = some n by rw [hu, State.enterAdmin_liveNamespace, hlive]]
      dsimp only
      rw [State.atLead_here (by rw [hu, State.enterAdmin_leads, hleads]), State.detachNamespace, hformat, hattached, if_neg (by decide), if_neg (by simp [hsome]),
        if_neg (by decide)]
    · rw [exec_firmwareImageDownload, execFirmwareImageDownload, onSoc_of_running hrun, ← hu, State.adminRun_open hopenU, State.stageImage,
        show u.admin = s.admin by rw [hu, State.enterAdmin_admin], hpiece]
  · rw [exec_abort, execAbort, onSoc_of_running hrun, State.adminRun_open hopen]
  · subst hkey
    rw [exec_unknownIoOpcode, execUnknownIoOpcode, onData_of_running hrun, if_pos hqid, State.adminRun_open hopen]
  · rw [exec_namespaceManagementDelete, execNamespaceManagementDelete, onSoc_of_running hrun, State.adminRun_open hopen, hlive]
    dsimp only
    rw [hformat, if_neg (by decide), State.atLead_here hleads]
  · rw [exec_firmwareCommitStore, execFirmwareCommitStore, onSoc_of_running hrun, State.adminRun_open hopen, if_neg haction]
  · rw [exec_firmwareCommitStore, execFirmwareCommitStore, onSoc_of_running hrun, State.adminRun_open hopen, if_pos rfl, hst, State.commitDone]
  · rw [exec_firmwareCommitStoreNext, execFirmwareCommitStoreNext, onSoc_of_running hrun, State.adminRun_open hopen, hst, State.commitDone]
  · rw [exec_firmwareCommitMark, execFirmwareCommitMark, onSoc_of_running hrun, State.adminRun_open hopen, hst, State.commitDone]
  · rw [exec_firmwareCommitActivate, execFirmwareCommitActivate, onSoc_of_running hrun, State.adminRun_open hopen, hst, State.commitDone]
  · rw [exec_adminCommandForward, execAdminCommandForward, onSoc_of_running hrun, if_pos hforward]
  · refine ⟨_, by rw [exec_firmwareTrialEnd, execFirmwareTrialEnd, onSoc_of_running hrun, if_pos hover, State.endTrial, if_pos htrial], ?_, ?_⟩
    · rw [State.notify_admin]
      rfl
    · rw [State.notify_admin]
      rfl
  · rw [exec_firmwareTrialTimeout, execFirmwareTrialTimeout, onSoc_of_running hrun, htrial, decide_eq_true htime]
    rfl
  · rw [exec_connect, execConnect, onSoc_of_running hrun, State.connect_open hbound hready hsan, hcheck, hid, hauth]
  · rw [exec_connect, execConnect, onSoc_of_running hrun, State.connect_open hbound hready hsan, hcheck, hauth]
  · rw [exec_connect, execConnect, onSoc_of_running hrun, State.connect_open hbound hready hsan, hcheck]
  · exact exec_propertyGet_open hrun hctrl hdirect hdue hsan rfl
  · exact exec_propertyGet_open hrun hctrl hdirect hdue hsan rfl
  · exact exec_propertyGet_open hrun hctrl hdirect hdue hsan rfl
  · exact exec_propertyGet_open hrun hctrl hdirect hdue hsan rfl
  · rw [exec_propertySet, execPropertySet, onSoc_of_running hrun, hctrl]
    dsimp only
    rw [hdirect, if_neg (by decide), hdue, if_neg (by decide), State.fabricsRun_open hsan]
    rfl
  · subst hkey hu
    refine ⟨fun m hid hneg => ?_, fun m n hid hstep hverify hn => ?_, fun m hid hstep => ?_, fun length n step hstep hnext => ?_⟩
    · rw [exec_authenticationSend_open hrun hctrl hdirect hsan hchap hqp, if_pos hid, if_pos hneg]
    · rw [exec_authenticationSend_open hrun hctrl hdirect hsan hchap hqp, if_neg (by omega), if_pos (by rw [hid, hstep]; rfl), if_pos hverify, hn]
    · rw [exec_authenticationSend_open hrun hctrl hdirect hsan hchap hqp, if_neg (by omega), if_neg (by rw [hid]; simp), if_pos (by rw [hid, hstep]; rfl)]
    · rw [exec_authenticationReceive_open hrun hctrl hdirect hsan hchap hqp, ← hstep]
      obtain ⟨rfl, rfl⟩ | ⟨rfl, rfl⟩ | ⟨rfl, rfl⟩ := hnext <;> rfl

end Sys2Proof.Machine
end
